-- ==== Sys2Proof/Word.lean ====
section
/-! DEFINITION. The word types of the model: octets, and the Q-format integers as Lean integers. -/

namespace Sys2Proof

/-- One octet as it travels on a wire or stands in memory. -/
abbrev Octet := BitVec 8

/-- A string of octets: a frame, a BLOB, a STR, a command's argument. -/
abbrev Octets := List Octet

/-- The octet of a number, its low 8 bits. -/
def octet (n : Nat) : Octet := BitVec.ofNat 8 n

/-- A sparse array: pairs of a key and a value in rising order of the keys. -/
abbrev NMap (α : Type) := List (Nat × α)

end Sys2Proof
end

