-- ==== Sys2Proof/Syntax.lean ====
section
/-! DEFINITION. The commands the block takes, and what their operands hold. -/

namespace Sys2Proof

/-- A request frame as it arrives (R46, R47, R50, R51). -/
inductive Frame where
  /-- One Knasiug frame of a DTLS session, whole, header first. -/
  | udp (session : Nat) (octets : Octets)
  /-- One CAN FD frame: whether the identifier is extended, the identifier, the payload. -/
  | can (extended : Bool) (ident : Nat) (payload : Octets)
  /-- A fragment of an IP datagram to the Knasiug port (R46). -/
  | fragment
  /-- A request frame of a DTLS session during which the DTLS or crypto engine has a fault (R530). -/
  | faulted (session : Nat) (octets : Octets)
  deriving DecidableEq, Repr

/-- A fault that a check of the data path detects in a tick (R31, R134, R142, R163, R164, R200, R214, R249, R351). -/
inductive DataFault where
  /-- A pipe residue or inequality check failed for an object, or its records held a double-bit error at a place
  (bank × 8,192 + word, here and below). -/
  | pipe (object : Nat) (place : Option Nat)
  /-- A residue mismatch of a rink's lane (engine 0 to 3), or of the reduction tree's (engine 255), and the outputs it affected. -/
  | residue (rink engine lane : Nat) (outputs : List Nat)
  /-- A corrected single-bit error of a rink's reorder buffers, assembly banks or output block buffer. -/
  | rinkCorrected (rink : Nat)
  /-- A double-bit error in the window line of an object that holds a date, in word 0 to 2 of the line. -/
  | windowLine (object date word : Nat)
  /-- A double-bit error in a crosspoint record, in word 0 or 1 of it. -/
  | crosspoint (object output word : Nat)
  /-- A double-bit error in a reorder buffer or in the output block buffer. -/
  | outputBuffer (rink : Nat) (outputs : List Nat)
  /-- A bulk delay line that has not arrived in time. -/
  | bulkLate (object : Nat)
  /-- An output delay line that has not arrived in time, and whether it is the old tap's of a crossfade. -/
  | delayLate (output : Nat) (oldTap : Bool)
  /-- A mix core residue mismatch (1), double-bit error (2) or overrun (3) in a section, with the word of data memory
  or the direct feed sample it struck, if it struck one. -/
  | mixCore (core kind : Nat) (sectionB : Bool) (dataWord feedWord place : Option Nat)
  /-- A corrected single-bit error of a local array of a mix core. -/
  | mixCorrected (core : Nat)
  /-- A correction lane residue (1) or double-bit error (2) in an output, before or after the output gain. -/
  | correction (output kind : Nat) (afterGain : Bool) (place : Option Nat)
  /-- A corrected single-bit error of the correction stage. -/
  | correctionCorrected (output : Nat)
  /-- A corrected single-bit error of the conversion pool. -/
  | poolCorrected (channel : Nat)
  /-- A pool channel residue or memory error. -/
  | pool (channel kind : Nat) (place : Option Nat)
  /-- A double-bit error in a receive flow's buffer: the channels whose samples of the tick it held (R320). -/
  | flowRx (flow : Nat) (channels : List Nat)
  /-- A double-bit error in a transmit flow's buffer: the channels of its word (R320). -/
  | flowTx (flow : Nat) (channels : List Nat)
  /-- A double-bit error in a flow's slot table in the flow engine (R320). -/
  | slotTable (flow : Nat) (transmit : Bool)
  /-- A double-bit error in a port's transmit buffers: in a flow's packet that departs in the tick, or in the ring frame in
  progress (R293). -/
  | txBuffer (port : Nat) (flow : Option Nat)
  /-- The show recorder's on-die buffer was full (R373). -/
  | recorderFull
  /-- A double-bit error in a TDM port's buffer (R364). -/
  | tdmPort (port : Nat)
  /-- A double-bit error in a Drada link's receive buffer, in the newest cell of a virtual channel (R482). -/
  | dradaBuffer (link vc : Nat)
  /-- An Almanac residue or range check: 1 FRC, 2 SN. -/
  | almanac (which : Nat)
  /-- A single-bit error that a read of a bank of on-chip memory found and corrected (R413). -/
  | bankCorrected (place : Nat)
  /-- A double-bit error in the supervisor's working memory (R413, R489). -/
  | supervisorWord (place : Nat)
  /-- An error in a cache of the supervisor: a single bit (0), two bits in a line that has not been written (1), or in a written line (2),
  with the address of the line (R484). -/
  | cache (kind address : Nat)
  /-- An access of a fabric master (0 supervisor, 1 block transfer engine, 2 to 5 lift-line engines, 6 journal engine, 7 ring DMA, 8 audit
  store reader) to an address of Table 17-1 (R485, R489). -/
  | access (master address : Nat) (write : Bool)
  /-- A write of 32 bits into a word of a bank, its upper half or its lower, and the bit errors in the half it leaves: 0, 1 or 2
  (R412). -/
  | halfWrite (place : Nat) (high : Bool) (data errors : Nat)
  /-- A function, by its FaultCode block, completes no step any more: its last one is behind it (R32). -/
  | stops (function : Nat)
  deriving DecidableEq, Repr

/-- A transmit buffer that the supervisor posts, as the software fields of Table 9-7, with the octets it holds. -/
structure TxBuffer where
  /-- BufferAddress. -/
  addr : Nat
  /-- The octets of the buffer, ByteCount of them. -/
  data : Octets
  /-- First. -/
  first : Bool
  /-- Last. -/
  last : Bool
  /-- StampRequest. -/
  stampRequest : Bool
  /-- OneStep. -/
  oneStep : Bool
  /-- Uncontrolled. -/
  uncontrolled : Bool
  /-- Port. -/
  port : Nat
  /-- StampId. -/
  stampId : Nat
  deriving DecidableEq, Repr

/-- One access of 64 octets to DRAM: direction, usable address, the line to write, page hint (R387). -/
structure DramAccess where
  /-- A write. -/
  write : Bool
  /-- The usable address of the line. -/
  addr : Nat
  /-- The octets to write. -/
  data : Octets
  /-- Page hint: 0 auto, 1 open, 2 close. -/
  hint : Nat
  deriving DecidableEq, Repr

/-- A requester's new request in a channel: its number, its declared burst count, its accesses (R398). -/
structure DramRequest where
  /-- Requester q of Table 13-7. -/
  q : Nat
  /-- Declared burst count. -/
  declared : Nat
  /-- The accesses, in order. -/
  accesses : List DramAccess
  deriving DecidableEq, Repr

/-- What a link-up or a training settled on: coefficients or delay centres, eye width and height (R537). -/
structure Eye where
  /-- The coefficients or delay centres. -/
  coeffs : Octets
  /-- Eye width in 0.001 UI. -/
  width : Nat
  /-- Eye height in mV. -/
  height : Nat
  deriving DecidableEq, Repr

/-- Where a UDP packet arrived: its port, 0 to 3 for M0 to M3 and 4 for the management port, its VLAN, 0 for untagged, and its
destination port (R64, R65). -/
structure PacketPath where
  /-- The port. -/
  port : Nat
  /-- The VLAN. -/
  vlan : Nat
  /-- The UDP destination port. -/
  udpPort : Nat
  deriving DecidableEq, Repr

/-- What a poll of a cage brings (R254, R255, R581). -/
structure CagePoll where
  /-- Whether a module answers; none where the bus failed. -/
  answer : Option Bool
  /-- The octets of its diagnostics page. -/
  a2 : Octets
  /-- How many times the bus was recovered. -/
  recoveries : Nat
  deriving DecidableEq, Repr

/-- A port that comes up, and what its lane settled on (R258, R537). -/
structure LaneUp where
  /-- The port. -/
  port : Nat
  /-- Coefficients and eye. -/
  eye : Eye
  deriving DecidableEq, Repr

/-- A record of the MRAM that fails its check, as a magnetic field may leave it (R494, R589, Table 17-4). -/
inductive MramBad where
  /-- An entry of the persistent store, by its key: one copy or both. -/
  | entry (key : Nat) (both : Bool)
  /-- A slot of the key store, by its key: one copy or both. -/
  | key (key : Nat) (both : Bool)
  /-- A record of the event log, by its Seq. -/
  | log (seq : Nat)
  /-- The log header. -/
  | logHeader
  /-- The season account. -/
  | account
  /-- The field repairs of a bank. -/
  | repairs (bank : Nat)
  deriving DecidableEq, Repr

/-- What the steps of BOOT find (R516, R517, R420, R403): the straps sampled, and the outcome of march, training and
known-answer tests. -/
structure BootFacts where
  bootSel : Bool
  rolePref : Bool
  /-- The level of PAIR_PRESENT: high means a lone module. -/
  pairPresent : Bool
  /-- Rows that fail the march: bank and row. -/
  failing : List (Nat × Nat)
  /-- Whether a local array fails. -/
  arrayBad : Bool
  /-- Duration of the march in µs. -/
  marchUs : Nat
  /-- Whether a known-answer test fails. -/
  katBad : Bool
  /-- DRAM channels that fail training. -/
  trainBad : List Nat
  /-- What the training of each channel settled on. -/
  eyes : List Eye
  /-- Records of the flash correction store that fail their check: output and sub-index (R224). -/
  flashBad : List (Nat × Nat)
  /-- Records of the MRAM that fail their check (R589). -/
  mramBad : List MramBad
  deriving DecidableEq, Repr

/-- What reaches the block from outside during one sample tick. -/
structure TickIn where
  /-- The headset microphone sample, Q1.31. -/
  mic : Int
  /-- The samples of the codec decimator's first stage in the tick, at 768 kHz (R369). -/
  side : List Int
  /-- The faults that the checks detect in the tick. -/
  faults : List DataFault
  deriving DecidableEq, Repr

/-- A pair hello (R426). -/
structure Hello where
  /-- SerialNumber. -/
  serial : Octets
  /-- ROLE_PREF. -/
  rolePref : Bool
  /-- The MacAddress of port 0. -/
  mac : Nat
  /-- FirmwareVersion. -/
  firmware : Nat
  /-- JournalSeq. -/
  journal : Nat
  /-- PairState. -/
  state : Nat
  /-- Whether the unit's GroupRole in force is 1 (R473). -/
  groupHead : Bool
  /-- RenderRate, PartitionCount, OutputsConfigured, PartitionOutputs0 to PartitionOutputs3. -/
  shape : List Nat
  deriving DecidableEq, Repr

/-- A state seed of the tick frame (R446). -/
inductive Seed where
  /-- An output: x1, x2, y1, y2 and error term of each biquad section, and the limiter gain. -/
  | output (m : Nat) (biquads : List (List Int)) (gain : Nat)
  /-- A pool channel: its DC estimate. -/
  | pool (channel : Nat) (dc : Int)
  deriving DecidableEq, Repr

/-- A tick frame (R434, R446): the lead's per-tick data. -/
structure TickFrame where
  /-- The tick. -/
  tick : Nat
  /-- Outputs of TRACKED pool channels: channel and value (R248). -/
  tracked : List (Nat × Int)
  /-- Raw input words of master TDM ports: port, frame count and words of every frame that ended in the tick (R363). -/
  tdm : List (Nat × Nat × List Nat)
  /-- The headset microphone's ingress value (R370). -/
  mic : Int
  /-- State seeds. -/
  seeds : List Seed
  deriving DecidableEq, Repr

/-- What a module tells the head of itself (R472). -/
structure Member where
  /-- The links from the head to it, 1 for DB and 2 for DP. -/
  path : List Nat
  /-- SerialNumber. -/
  serial : Octets
  /-- RenderRate. -/
  rate : Nat
  /-- PartitionCount. -/
  parts : Nat
  /-- OutputsConfigured, PartitionOutputs0 to PartitionOutputs3. -/
  outs : List Nat
  /-- PairState. -/
  pairState : Nat
  /-- Whether its GroupRole is 1. -/
  headRole : Bool
  deriving DecidableEq, Repr

/-- What a LINK cell says (R456, R472 to R476). -/
inductive LinkMsg where
  /-- The far end's candidate, DradaMacsec, DradaWakeOwn, RenderRate, serial number, and the lane's settled training. -/
  | agree (candidate : Nat) (macsec : Bool) (wake rate : Nat) (serial : Octets) (eye : Eye)
  /-- The head collects: its serial number and the path so far. -/
  | collect (head : Octets) (path : List Nat)
  /-- A module's answer on its way to the head. -/
  | member (m : Member)
  /-- The head's assignment to a module: unit, output base, units, h, D, topology. -/
  | assign (serial : Octets) (unit outputBase units depth extra topology : Nat)
  /-- A ring link between two units is down: the unit above the break and the one below it. -/
  | broken (a b : Nat)
  deriving DecidableEq, Repr

/-- What a CALENDAR cell says (R86 to R89). -/
inductive CalMsg where
  /-- The coordinator's entry to prepare: slot, generation, target unit, rank of the role it was opened with, date, order,
  changes as index, sub-index, value. -/
  | prepare (slot gen unit role date order : Nat) (changes : List (Nat × Nat × Octets))
  /-- A participant's answer: 0 for PREPARED, else a cause of Table 3-3. -/
  | answer (slot unit code : Nat)
  /-- The coordinator's decision, with the journal sequence number of a commit. -/
  | decision (slot : Nat) (commit : Bool) (seq : Nat)
  /-- A participant's confirmation. -/
  | confirm (slot unit : Nat)
  /-- The coordinator's cancellation. -/
  | cancel (slot : Nat)
  /-- A journal entry replayed (R93). -/
  | replay (seq date unit : Nat) (changes : List (Nat × Nat × Octets))
  /-- The complete image of a unit's covered entries, marked with a sequence number (R93). -/
  | image (seq : Nat) (entries : List (Nat × Nat × Octets))
  /-- The last sequence number that a unit has applied. -/
  | applied (unit seq : Nat)
  /-- An entry that the one unit it concerns is to coordinate itself (R85): as an entry to prepare. -/
  | hand (slot gen unit role date order : Nat) (changes : List (Nat × Nat × Octets))
  /-- What state such an entry has reached at its unit, with the cause of a refusal. -/
  | state (slot unit state cause : Nat)
  /-- A committed entry that a unit coordinates itself, for the group journal (R88, R92). -/
  | commits (slot unit date : Nat) (changes : List (Nat × Nat × Octets))
  /-- The group journal sequence number of such an entry. -/
  | number (slot seq : Nat)
  /-- An entry of the lead in a state that its standby does not reach by itself, OPEN or final: slot, generation, target unit,
  rank, state, date, journal sequence number, result bitmap, changes (R91). -/
  | copy (slot gen unit role state date seq : Nat) (bitmap : Octets) (changes : List (Nat × Nat × Octets))
  /-- A journal entry of the head for its standby (R91). -/
  | record (seq date unit : Nat) (changes : List (Nat × Nat × Octets))
  /-- A unit that has not received its counted motion words: the last sequence number it applied (R99). -/
  | stall (unit seq : Nat)
  deriving DecidableEq, Repr

/-- What a MOTION cell says (R98). -/
inductive MotionMsg where
  /-- The packet counts of the FIFOs for a boundary. -/
  | counts (boundary : Nat) (counts : List Nat)
  /-- Words for a FIFO: tag, data, end mark. -/
  | words (fifo : Nat) (words : List (Nat × Nat × Bool))
  deriving DecidableEq, Repr

/-- What a TIME cell says (R478); Almanac times in 2^-32 ns. -/
inductive TimeMsg where
  /-- The downstream module's t1. -/
  | request (t1 : Nat)
  /-- The upstream module's answer, with its MSC at t3. -/
  | answer (t1 t2 t3 msc : Nat)
  deriving DecidableEq, Repr

/-- The instructions of the test access port (R525). -/
inductive JtagOp where
  | idcode
  | bypass
  | sample
  /-- Any other instruction: EXTEST or a debug instruction. -/
  | other
  deriving DecidableEq, Repr


/-- A certificate of a chain, as the DTLS engine finds it (R507, R508). -/
structure Cert where
  /-- Its DER. -/
  der : Octets
  /-- Its X.509 version. -/
  version : Nat
  /-- Whether it is signed with ecdsa-with-SHA384, carries a P-384 key, and its signature verifies. -/
  signed : Bool
  /-- notBefore, in seconds of Almanac time. -/
  notBefore : Nat
  /-- notAfter, in seconds of Almanac time. -/
  notAfter : Nat
  /-- Whether it carries the client-authentication extended key usage. -/
  clientAuth : Bool
  /-- The organizational-unit attributes of its subject. -/
  units : List Octets
  deriving DecidableEq, Repr

/-- A DTLS handshake as the DTLS engine finds it (R506 to R510). -/
structure Handshake where
  /-- The IPv4 source. -/
  source : Nat
  /-- The port it arrives on: 0 to 3 for M0 to M3, 4 for the management port. -/
  port : Nat
  /-- The VLAN identifier of its datagrams, 0 where they are untagged. -/
  vlan : Nat
  /-- The UDP port that they are sent to. -/
  udpPort : Nat
  /-- Whether its ClientHello returns the cookie. -/
  cookie : Bool
  /-- Whether it offers the cipher suite, group and signature scheme of R506. -/
  offers : Bool
  /-- The certificate chain, leaf first. -/
  chain : List Cert
  /-- The anchor under which the chain verifies: 0 to 3 for TrustAnchor, 4 for VendorAnchor. -/
  anchor : Option Nat
  /-- Whether the leaf is self-signed. -/
  selfSigned : Bool
  /-- Whether the DTLS or crypto engine has a fault during it (R530). -/
  fault : Bool
  deriving DecidableEq, Repr

/-- The commands of the block, one constructor for each row of the table of operations and events. -/
inductive Instr where
  /-- SAMPLE_TICK, R13. One period of the render sample clock: every per-sample stage of the data path completes one step. -/
  | sampleTick (input : TickIn)
  /-- BLOCK_BOUNDARY, R13. The count of 32 ticks reaches a block boundary (MSC mod 32 = 0) and the per-block work starts. -/
  | blockBoundary (patrolBad : Bool)
  /-- GEOMETRY_LATE, R130. A pipe's cycle budget for the block is exhausted and the remaining objects keep their targets and are marked late. -/
  | geometryLate
  /-- RENDER_DEADLINE_MISS, R166. An engine or the reduction tree has not finished block b by the end of tick 32b + 65. -/
  | renderDeadlineMiss (rink : Nat) (outputs : List Nat) (wait : Bool)
  /-- CONV_MUTE_END, R242. 64 dates after entry to MUTE the TRACKED channel returns to RUN with a fade-in. -/
  | convMuteEnd (c : Nat)
  /-- FIR_FADE_ASSIGN, R220. At tick D − 2 × B_max the device assigns FIR fades and SRAM slots to ready changes, cutting the rest. -/
  | firFadeAssign (date : Nat)
  /-- MIX_DUAL_RUN_END, R193. After tick D + X + 65 the old programme's halves are released and SwapStatus becomes 2. -/
  | mixDualRunEnd
  /-- PROGRESS_WATCHDOG_EXPIRY, R32. A function's progress watchdog sees no completed step for 1.5 ms and the function is wedged. -/
  | progressWatchdogExpiry
  /-- READ, R54. A READ request returns the type and value of one entry. -/
  | read (frame : Frame)
  /-- WRITE, R39. A WRITE request writes one entry by its commit class, staging a DATED write in its own calendar entry. -/
  | write (frame : Frame)
  /-- READ_MULTI, R55. A READ_MULTI request reads several entries with a status per element. -/
  | readMulti (frame : Frame)
  /-- WRITE_MULTI, R55. A WRITE_MULTI request checks all elements and applies all or none. -/
  | writeMulti (frame : Frame)
  /-- BLOCK_BEGIN, R57. Opens a block transfer to or from the device. -/
  | blockBegin (frame : Frame)
  /-- BLOCK_DATA, R58. Carries or requests one segment of an open block transfer. -/
  | blockData (frame : Frame)
  /-- BLOCK_END, R59. Checks size and CRC of a finished transfer and commits its data by the entry's class. -/
  | blockEnd (frame : Frame)
  /-- BLOCK_ABORT, R59. Discards an open block transfer. -/
  | blockAbort (frame : Frame)
  /-- BLOCK_TRANSFER_TIMEOUT, R59. A transfer with no segment for 10 s is discarded. -/
  | blockTransferTimeout (id : Nat)
  /-- SUBSCRIBE, R60. Creates a subscription that reports an entry on change or every period blocks. -/
  | subscribe (frame : Frame)
  /-- UNSUBSCRIBE, R54. Removes a subscription of the session. -/
  | unsubscribe (frame : Frame)
  /-- HOST_NOTICE, R54. A NOTICE service sent by a host is answered UNSUPPORTED. -/
  | hostNotice (frame : Frame)
  /-- ECHO, R54. Returns the request body unchanged. -/
  | echo (frame : Frame)
  /-- UNKNOWN_SERVICE, R54. A request with an unknown service code is answered UNSUPPORTED. -/
  | unknownService (frame : Frame)
  /-- CAN_KEEPALIVE, R51. An 8-octet CAN FD frame advances the host's freshness counter and receives no response. -/
  | canKeepalive (frame : Frame)
  /-- DTLS_HANDSHAKE, R506. A DTLS 1.3 handshake is checked and, if accepted, opens a session with the role of the certificate. -/
  | dtlsHandshake (h : Handshake)
  /-- SESSION_CLOSE, R49. A session closes and its subscriptions, transfers and open calendar entries are discarded. -/
  | sessionClose (session : Nat)
  /-- SESSION_TIMEOUT_CHECK, R49. Every 100 ms the device closes sessions idle for longer than SessionTimeout. -/
  | sessionTimeoutCheck
  /-- SOURCE_BLOCK_EXPIRY, R509. The 60 s block on handshakes from a refused IPv4 source ends. -/
  | sourceBlockExpiry (source : Nat)
  /-- SUBSCRIPTION_REPORT, R60. A subscription's period or a change queues a report through a lift-line item of kind 7. -/
  | subscriptionReport (id : Nat)
  /-- NOTICE_SEND, R61. A queued notice frame is sent once the session's send rate allows. -/
  | noticeSend (session : Nat)
  /-- POSITION_PACKET, R65. A stream-map position packet is checked and decoded into motion FIFO words. -/
  | positionPacket (path : PacketPath) (source : Nat) (payload : Octets)
  /-- MAP_SILENCE_TIMEOUT, R68. A stream map that accepted no packet for 1 s becomes unseeded. -/
  | mapSilenceTimeout (map : Nat)
  /-- MAP_CONFIG_WRITE, R68. A write of MapEnable or MapUdpPort to MapObjectCount unseeds the stream map. -/
  | mapConfigWrite (m sub v : Nat)
  /-- MOTION_COUNT_FIX, R98. At tick B − 32 the head fixes each FIFO's packet count for boundary B and sends it to every unit. -/
  | motionCountFix (boundary : Nat)
  /-- MOTION_DECODER_APPLY, R99. The motion decoder applies the counted packets for B to the object records once their words are present. -/
  | motionDecoderApply
  /-- MOTION_STALL, R99. A unit has not received all counted words by the end of tick B + 1, applies none and turns to UnitState 1. -/
  | motionStall
  /-- CAL_OPEN, R78. Opens a calendar entry in the lowest free slot. -/
  | calOpen (frame : Frame)
  /-- CAL_ADD, R79. Adds DATED changes to an open entry, all or none. -/
  | calAdd (frame : Frame)
  /-- CAL_CLOSE, R74. Closes an entry with a date checked against the earliest boundary, making it STAGED. -/
  | calClose (frame : Frame)
  /-- CAL_CANCEL, R84. Cancels an entry in OPEN, STAGED or PREPARING. -/
  | calCancel (frame : Frame)
  /-- CAL_STATUS, R78. Returns an entry's state, outcome, date, journal sequence and result bitmap. -/
  | calStatus (frame : Frame)
  /-- CAL_LIST, R78. Lists calendar entries from a slot. -/
  | calList (frame : Frame)
  /-- CAL_ATTACH, R81. Checks a finished block transfer and adds it to an entry as one change. -/
  | calAttach (frame : Frame)
  /-- CAL_PEEK, R78. Returns one change of an entry by position. -/
  | calPeek (frame : Frame)
  /-- PREPARE_START, R85. At max(close, boundary − CalendarPrepareLead) the coordinator fixes the participants and prepare begins. -/
  | prepareStart (slot : Nat)
  /-- PREPARE_ANSWER, R86. A participant finishes its prepare work and answers PREPARED or FAILED. -/
  | prepareAnswer (slot : Nat)
  /-- PREPARE_DEADLINE, R87. At the boundary minus 32 samples the coordinator decides commit or abort. -/
  | prepareDeadline (slot : Nat)
  /-- CALENDAR_COMMIT, R88. At the effective boundary participants holding a commit decision apply the entry's changes. -/
  | calendarCommit
  /-- OUTCOME_SETTLE_TIMEOUT, R89. At the boundary + 64 samples an unsettled entry is settled as PARTIAL. -/
  | outcomeSettleTimeout
  /-- CAL_RETENTION_EXPIRY, R84. 10 s after reaching a final state the entry's slot is freed. -/
  | calRetentionExpiry
  /-- JOURNAL_REPLAY, R93. A returning unit reports its last sequence and catches up by entries or a full image. -/
  | journalReplay (own : Bool) (unit seq : Nat)
  /-- LIFT_ITEM_FINISH, R101. A job engine completes a work item, frees its place and dispatches the next eligible item. -/
  | liftItemFinish (engine : Nat)
  /-- LIFT_AGE_LIMIT, R103. The oldest item at a level has waited longer than LiftAgeLimit. -/
  | liftAgeLimit
  /-- LIFT_SNAPSHOT_TAKE, R105. LiftSnapshotCmd "take" freezes the scheduler state into LiftSnapshot. -/
  | liftSnapshotTake (arg : Octets)
  /-- REFRESH_ALL, R128. RefreshAll "all" marks every enabled object of laws 1 to 3 through kind 3 items. -/
  | refreshAll (arg : Octets)
  /-- LOAD_PEAK_CLEAR, R167. LoadPeakClear "clear" resets RenderLoadPeak and every RinkCyclesPeak. -/
  | loadPeakClear (arg : Octets)
  /-- SFP_POLL, R255. Every 250 ms the device polls each cage for a module. -/
  | sfpPoll (p : Nat) (poll : CagePoll)
  /-- SFP_IDENTIFY, R255. 300 ms after a new module answers, its identification is read and SfpState set. -/
  | sfpIdentify (p : Nat) (a0 a2 : Octets)
  /-- LINK_CANDIDATE_TIMEOUT, R257. A link candidate has run for 250 ms without success and the next is tried. -/
  | linkCandidateTimeout (p : Nat)
  /-- LINK_UP, R258. Block lock held for 10 ms, with FEC lock where needed, makes the port UP. -/
  | linkUp (lane : LaneUp)
  /-- LINK_DOWN, R259. Loss of block lock for 1 ms or high error rate takes the port DOWN. -/
  | linkDown (p : Nat)
  /-- LINK_RETRY_CYCLE, R258. Every 2 s a NOAGREE port repeats its candidate cycle. -/
  | linkRetryCycle (p : Nat)
  /-- PORT_CONFIG_WRITE, R260. A write of PortEnable, SpeedMode or FecMode drops the link and restarts bring-up. -/
  | portConfigWrite (p sub v : Nat)
  /-- FRAME_RECEIVE, R268. A received frame is checked and steered to MAC control, PTP, a flow, a stream map, a ring or a drop. -/
  | frameReceive (p : Nat) (octets : Octets) (cond fixed bad frac : Nat)
  /-- RX_DESCRIPTOR_POST, R276. Software posts a receive descriptor and reception into the ring resumes with the next frame. -/
  | rxDescriptorPost (k addr len : Nat)
  /-- TX_FRAME_START, R278. A port chooses its next frame by priority and starts sending it whole. -/
  | txFrameStart (p : Nat) (posts : List (Nat × TxBuffer))
  /-- TX_FRAME_COMPLETE, R277. A transmit frame ends and its descriptors are written back with one status. -/
  | txFrameComplete (p : Nat) (underrun : Bool)
  /-- TS_QUEUE_STATUS_READ, R347. A read of the time-stamp queue status clears Overflow when the queue is empty. -/
  | tsQueueStatusRead (p : Nat)
  /-- TS_QUEUE_ENTRY_READ, R347. Firmware reads the oldest time-stamp queue entry. -/
  | tsQueueEntryRead (p : Nat)
  /-- PAUSE_RECEIVED, R281. A PAUSE frame holds or releases the management port, or is discarded on a media port. -/
  | pauseReceived (p quanta : Nat)
  /-- PAUSE_TIME_EXPIRY, R281. The received pause time runs out and the management port transmits again. -/
  | pauseTimeExpiry
  /-- PAUSE_REPEAT, R282. Every half pause time the port repeats PAUSE while its control rings are short. -/
  | pauseRepeat
  /-- PAUSE_SEND_LIMIT, R283. Continuous PAUSE for PauseSendLimit stops pause sending. -/
  | pauseSendLimit
  /-- PAUSE_HONOUR_LIMIT, R284. Being held for PauseHonourLimit makes the port ignore PAUSE for 10 s. -/
  | pauseHonourLimit
  /-- PAUSE_IGNORE_END, R284. The 10 s during which PAUSE is ignored ends. -/
  | pauseIgnoreEnd
  /-- EEE_LPI_ENTRY, R262. No frame has waited for MgmtEeeIdle and the management transmitter enters low-power idle. -/
  | eeeLpiEntry
  /-- MKA_SECURED, R286. MKA installs an SA and the port passes only protected frames. -/
  | mkaSecured (p an : Nat) (rxKey txKey : Octets) (peerSci ownSci : Nat)
  /-- MDIO_READ, R261. MdioAccess "r" reads a PHY register. -/
  | mdioRead (a r answer : Nat)
  /-- MDIO_WRITE, R261. MdioAccess "w" writes a PHY register. -/
  | mdioWrite (a r v : Nat)
  /-- COUNTER_CLEAR, R289. CounterClear "clear" zeroes the 48 counters of a port. -/
  | counterClear (p : Nat) (arg : Octets)
  /-- RX_FLOW_TIMEOUT, R301. No accepted packet for RxTimeout makes a receive flow stale. -/
  | rxFlowTimeout (f : Nat)
  /-- RX_PATH_TIMEOUT, R315. A dual-path flow's path delivers nothing for RxTimeout and goes down. -/
  | rxPathTimeout (f path : Nat)
  /-- IGMP_REPORT_TIMER, R302. The second unsolicited IGMPv3 report is sent 1 s after a join. -/
  | igmpReportTimer (p group : Nat)
  /-- SLOT_TABLE_WRITE, R308. A slot table write goes only to the inactive bank. -/
  | slotTableWrite (flow : Nat) (transmit : Bool) (bank : Nat) (table : Octets)
  /-- RX_MARGIN_CLEAR, R299. RxMarginClear "clear" resets RxMarginMin. -/
  | rxMarginClear (f : Nat) (arg : Octets)
  /-- SN_ANCHOR, R324. Every 2^20 cycles in SN mode the Almanac records an anchor. -/
  | snAnchor
  /-- MSC_ALIGN, R328. Once the root source is qualified the Almanac starts the render sample clock at a block boundary. -/
  | mscAlign
  /-- ALIGN_TIMEOUT, R328. AlignTimeout after reset, alignment takes place on whatever the root follows. -/
  | alignTimeout
  /-- REALIGNMENT, R331. The data path stops, is cleared, staged entries are cancelled and the MSC is aligned anew. -/
  | realignment
  /-- REALIGN_NOW, R330. RealignCmd "now" performs a deferred realignment in SHOW. -/
  | realignNow (arg : Octets)
  /-- TIME_SET, R324. TimeSet sets S and N in SN mode. -/
  | timeSet (arg : Octets)
  /-- TIME_TEST_MODE_WRITE, R330. A write of TimeTestMode forces SN mode or, on return to 0, makes a realignment due. -/
  | timeTestModeWrite (v : Nat)
  /-- INPUT_EDGE, R338. A rising edge on a clock input is time-stamped and accepted or rejected as a glitch. -/
  | inputEdge (i frac : Nat)
  /-- INPUT_LOSS, R338. No accepted edge within 2 × 1.03 × P disqualifies the input. -/
  | inputLoss (i : Nat)
  /-- INPUT_QUALIFY, R338. An input qualifies after QualifyTime without loss or violation. -/
  | inputQualify (i : Nat)
  /-- REVERT_HOLDOFF, R335. A higher-ranked source qualified for RevertHoldoff is selected again. -/
  | revertHoldoff
  /-- PTP_SYNC_RECEIVE, R344. A Sync gives θ to the servo, which steps or adjusts INC and moves its state. -/
  | ptpSyncReceive (p source : Nat) (message : Octets) (stamp : Nat)
  /-- PTP_FOLLOW_UP_RECEIVE, R344. A Follow_Up supplies t1 for a two-step Sync. -/
  | ptpFollowUpReceive (p : Nat) (message : Octets)
  /-- PTP_DELAY_RESP_RECEIVE, R344. A Delay_Resp completes a path delay measurement. -/
  | ptpDelayRespReceive (p : Nat) (message : Octets)
  /-- PTP_DELAY_REQ_RECEIVE, R341. A leader answers a Delay_Req in kind. -/
  | ptpDelayReqReceive (p source : Nat) (message : Octets) (stamp : Nat) (unicast : Bool)
  /-- PTP_ANNOUNCE_RECEIVE, R343. An Announce feeds the best leader clock algorithm. -/
  | ptpAnnounceReceive (p : Nat) (message : Octets)
  /-- PTP_SYNC_TIMEOUT, R345. No Sync for 2 intervals moves the servo to HOLDOVER. -/
  | ptpSyncTimeout
  /-- PTP_ANNOUNCE_TIMEOUT, R345. The announce timeout moves the servo to HOLDOVER. -/
  | ptpAnnounceTimeout
  /-- PTP_SYNC_TIMER, R342. A leader sends Sync at its log interval. -/
  | ptpSyncTimer (p : Nat)
  /-- PTP_ANNOUNCE_TIMER, R342. A leader sends Announce at its log interval. -/
  | ptpAnnounceTimer (p : Nat)
  /-- PTP_DELAY_REQ_TIMER, R342. A follower sends Delay_Req at its log interval. -/
  | ptpDelayReqTimer (p : Nat)
  /-- CLOCK_MONITOR_INTERVAL, R352. Every 1 ms the TCXO counter compares CoreClk and trips beyond 150 ppm. -/
  | clockMonitorInterval (ppm : Int)
  /-- SAVED_TIME_WRITE, R349. Once per second while aligned the Almanac seconds are written to MRAM. -/
  | savedTimeWrite
  /-- TDM_FRAME_START, R356. A TDM frame start edge advances the frame count, swaps masks and feeds the trackers. -/
  | tdmFrameStart (p : Nat) (words : List Nat) (bclks cycle : Nat)
  /-- TDM_FSYNC_LOSS, R244. No FSYNC edge for 2 nominal periods puts the port's TRACKED channels in LOST. -/
  | tdmFsyncLoss (p : Nat)
  /-- TDM_PORT_CONFIG_WRITE, R365. A write of a TDM format or role entry restarts the port. -/
  | tdmPortConfigWrite (p sub v : Nat)
  /-- TDM_MASK_WRITE, R360. A mask write updates the pending copy, taken at the next frame start edge. -/
  | tdmMaskWrite (p : Nat) (transmit : Bool) (mask : Nat)
  /-- JACK_DETECT_CHANGE, R366. A JACK_DET level held 50 ms is an insertion or removal. -/
  | jackDetectChange (inserted : Bool)
  /-- MIC_BIAS_MEASURE, R366. 100 ms after insertion MIC_IN is measured and the plug classified. -/
  | micBiasMeasure (microvolts : Nat)
  /-- HEADSET_RECLASSIFY, R366. A headphone plug whose MIC_IN stays above 0.45 V for 500 ms becomes a headset. -/
  | headsetReclassify
  /-- HEADSET_BUTTON, R367. MIC_IN held 30 ms beyond a threshold is a button press or release. -/
  | headsetButton (pressed : Bool)
  /-- RECORDER_TRIGGER, R374. A trigger cause moves a recording recorder to post-trigger. -/
  | recorderTrigger (cause : Nat)
  /-- RECORDER_POST_TRIGGER_END, R374. The last post-trigger frame is written and the recorder freezes. -/
  | recorderPostTriggerEnd
  /-- RECORDER_FREEZE, R375. RecorderCmd "freeze" triggers the recorder. -/
  | recorderFreeze
  /-- RECORDER_RELEASE, R375. RecorderCmd "release" returns a frozen recorder to recording. -/
  | recorderRelease
  /-- DRAM_ACCESS_COMPLETE, R402. A DRAM burst completes and a single-bit error is corrected or a double-bit error returns poisoned. -/
  | dramAccessComplete (c error : Nat)
  /-- REFRESH_INTERVAL, R388. A refresh interval raises the debt, forcing a REFab when the limit would be exceeded. -/
  | refreshInterval (c : Nat)
  /-- MR4_POLL, R389. Every 125 µs MR4 is read and the refresh range adopted. -/
  | mr4Poll (c raw0 range0 raw1 range1 : Nat)
  /-- RFM_ISSUE, R392. A bank whose activation count reached RaaImt gets RFMpb once precharged. -/
  | rfmIssue (c bank : Nat)
  /-- ARB_BREAK_POINT, R395. At a burst boundary or idle cycle the arbiter decides which requester holds the channel. -/
  | arbBreakPoint (c : Nat) (requests : List DramRequest)
  /-- ARB_BACKOFF_END, R396. A BE requester's backoff expires and it contends again. -/
  | arbBackoffEnd (c q : Nat)
  /-- ARB_GRANT_WITHDRAW, R397. A granted requester withdraws before its first burst and the channel loses one cycle. -/
  | arbGrantWithdraw (c : Nat)
  /-- ARB_STARVE, R399. A BE requester has waited ArbStarveTime and raises STARVE. -/
  | arbStarve (c q : Nat)
  /-- ARB_URGENT, R399. A BE requester has waited 4 × T1 and raises URGENT. -/
  | arbUrgent (c q : Nat)
  /-- ARB_POLICY_TICK, R400. Every 1 ms the policy restores priorities quiet for 10 ms. -/
  | arbPolicyTick
  /-- ARB_PRIORITY_WRITE, R401. A write of ArbPriorityDefault re-sorts the requester and restarts the 10 ms. -/
  | arbPriorityWrite (q v : Nat)
  /-- DRAM_OSC_CHECK, R403. Every 100 ms the WCK-to-DQ oscillator runs and drift retrains the channel. -/
  | dramOscCheck (c permille : Nat) (eye : Eye)
  /-- DRAM_SCRUB_PASS, R402. The patrol scrub completes a pass over every usable line. -/
  | dramScrubPass
  /-- SRAM_WRITEBACK, R413. A corrected word is written back in the bank's next idle write cycle. -/
  | sramWriteback (bank word : Nat) (superseded : Bool)
  /-- SRAM_HARD_FAULT_RECHECK, R415. The scrubber re-reads a written-back word and marks its row pending if it still fails. -/
  | sramHardFaultRecheck (bank word : Nat) (bad : Bool)
  /-- SRAM_SCRUB_PERIOD, R414. A SramScrubPeriod ends and an unfinished pass counts as late. -/
  | sramScrubPeriod (complete : Bool)
  /-- BANK_POWER_TRANSITION, R417. A bank begins its transition to On before its first use, or goes to Retention or Off. -/
  | bankPowerTransition (bank : Nat)
  /-- MARCH_DESTRUCTIVE, R421. MarchCmd "d" starts a destructive March C− over a range of banks. -/
  | marchDestructive (f l b : Nat)
  /-- MARCH_PRESERVING, R421. MarchCmd "p" starts a preserving march over a range of banks. -/
  | marchPreserving (f l : Nat)
  /-- MARCH_COMPLETE, R421. A march run ends, repairing failing rows, and its banks return to their states. -/
  | marchComplete (failures : List (Nat × Nat × Nat))
  /-- PAIR_HELLO, R426. A received pair hello decides joining as standby, requesting the lead or refusing to pair. -/
  | pairHello (partner : Hello)
  /-- PAIR_FORM_TIMEOUT, R426. No hello within PairFormTimeout and the unit requests the lead alone. -/
  | pairFormTimeout
  /-- ILK_IN_CHANGE, R428. A level on ILK_IN held for tIlkFilter is registered. -/
  | ilkInChange (level : Bool)
  /-- ILK_ASSERT, R429. After its assert time the requesting unit drives ILK_OUT high if ILK_IN is low. -/
  | ilkAssert
  /-- ILK_GATE_OPEN, R427. ILK_OUT high for tIlkGuard with ILK_IN low opens the transmit gate and the unit takes the lead. -/
  | ilkGateOpen
  /-- ILK_COLLISION_RETRY, R429. A unit that released in a contest retries 10 ms later. -/
  | ilkCollisionRetry
  /-- DP_SILENCE, R448. No tick frame for 2 ticks with ILK_IN low makes the standby take the lead. -/
  | dpSilence
  /-- RELEASE_MESSAGE, R431. A release message over DP lets the standby take the lead at once. -/
  | releaseMessage
  /-- HANDOVER_CMD, R432. HandoverCmd "now" starts a planned handover at a departure tick H. -/
  | handoverCmd (arg : Octets)
  /-- HANDOVER_DATE, R432. The standby receives H and forms and holds packets from H. -/
  | handoverDate (h : Nat) (byFault : Bool)
  /-- HANDOVER_RELEASE, R432. Once its last packet before H has started and tReleasePoint has passed, the lead drops ILK_OUT. -/
  | handoverRelease
  /-- MIRROR_WRITE, R436. The standby receives a mirrored write, applies it and acknowledges. -/
  | mirrorWrite (id : Nat) (writes : List (Nat × Nat × Octets))
  /-- MIRROR_ACK_TIMEOUT, R436. 1 ms without acknowledgement the lead responds and the standby is stale. -/
  | mirrorAckTimeout
  /-- TRACING_MESSAGE, R439. A tracing message is compared, counting a mismatch and starting an audit on a difference. -/
  | tracingMessage (point block : Nat) (incomplete : Bool) (signatures : List Nat)
  /-- TRACING_DEADLINE, R439. A tracing message missing at its deadline counts as a gap. -/
  | tracingDeadline
  /-- AUDIT_CHECK_BLOCK, R441. The check block of an audit completes and its outcome is decided. -/
  | auditCheckBlock (partnerFault ownBad partnerBad : Bool) (disputed : List Nat)
  /-- HEALTH_WORD, R450. A partner's per-block health word is stored in PartnerHealth. -/
  | healthWord (word : Nat) (sameDate : Bool)
  /-- CATCHUP_HISTORY_DONE, R444. The standby has rendered HistoryHorizon samples and moves to seeding. -/
  | catchupHistoryDone
  /-- CATCHUP_SEEDING_DONE, R446. 320 ticks of seeding end and the standby waits for agreement. -/
  | catchupSeedingDone
  /-- CATCHUP_LIMIT, R447. The standby has not reached state 6 within CatchupLimit and restarts at stage 2. -/
  | catchupLimit
  /-- DRADA_CANDIDATE_TIMEOUT, R455. A Drada candidate has run for 250 ms and the next is tried. -/
  | dradaCandidateTimeout (k : Nat)
  /-- DRADA_LINK_CELL, R456. A LINK cell agrees the candidate and settings, or carries group formation data. -/
  | dradaLinkCell (k : Nat) (cell : Octets) (message : LinkMsg)
  /-- DRADA_LINK_DOWN, R457. Lock loss, failed replays or VC0 without credit takes the Drada link down. -/
  | dradaLinkDown (k : Nat)
  /-- DRADA_RETRY_CYCLE, R456. Every 2 s a NOAGREE Drada link repeats its cycle. -/
  | dradaRetryCycle (k : Nat)
  /-- DRADA_CONFIG_WRITE, R457. A write of a Drada link setting drops the link and restarts training. -/
  | dradaConfigWrite (k sub v : Nat)
  /-- DRADA_FEED_CELL, R460. A FEED cell is forwarded cut-through and its values written to the alignment buffer. -/
  | dradaFeedCell (k : Nat) (cell : Octets)
  /-- DRADA_TICK_CELL, R434. A tick frame delivers the lead's per-tick data to the standby. -/
  | dradaTickCell (k : Nat) (cell : Octets) (frame : TickFrame)
  /-- DRADA_CONTROL_CELL, R477. A CONTROL cell is forwarded towards its unit or consumed. -/
  | dradaControlCell (k : Nat) (cell : Octets)
  /-- DRADA_CALENDAR_CELL, R87. A CALENDAR cell delivers prepare traffic, decisions or confirmations. -/
  | dradaCalendarCell (k : Nat) (cell : Octets) (message : CalMsg)
  /-- DRADA_MOTION_CELL, R98. A MOTION cell delivers motion FIFO counts and words. -/
  | dradaMotionCell (k : Nat) (cell : Octets) (message : MotionMsg)
  /-- DRADA_TIME_EXCHANGE, R478. Every 1 ms a module below the head starts a TIME exchange with its DA neighbour. -/
  | dradaTimeExchange
  /-- DRADA_TIME_CELL, R478. A TIME cell is stamped and answered, or yields path delay and offset for the servo. -/
  | dradaTimeCell (k : Nat) (cell : Octets) (message : TimeMsg)
  /-- DRADA_CREDIT_CELL, R462. A CREDIT cell returns credits per VC to the sender. -/
  | dradaCreditCell (k : Nat) (cell : Octets)
  /-- DRADA_CREDIT_RETURN_TIMER, R462. Every 1 µs a receiver returns unreturned freed credits. -/
  | dradaCreditReturnTimer (k : Nat)
  /-- DRADA_REPLAY_CELL, R463. A REPLAY cell makes the sender resend every cell from the named LinkSeq. -/
  | dradaReplayCell (k : Nat) (cell : Octets)
  /-- DRADA_FEED_LATE, R469. A feed value missing at its deadline reads 0 and fades in after. -/
  | dradaFeedLate (k date : Nat)
  /-- DRADA_IDLE_ENTRY, R479. A lane idle for DradaIdleAfter enters low-power idle. -/
  | dradaIdleEntry (k : Nat)
  /-- GROUP_FORM, R472. GroupFormTimeout after BOOT the head forms the group and numbers its units. -/
  | groupForm
  /-- GROUP_REFORM, R474. GroupReform "now" forms the group anew. -/
  | groupReform (arg : Octets)
  /-- LOCKSTEP_MISMATCH, R483. The checker core differs from the master and the module resets. -/
  | lockstepMismatch (address group : Nat)
  /-- REMAP_SET, R487. A write of 1 to Remap swaps address 0 to working SRAM and starts the watchdog. -/
  | remapSet
  /-- ROM_LOCK_SET, R517. A write of 1 to RomLock makes the boot ROM read as bus errors. -/
  | romLockSet
  /-- NOR_WRITE_ENABLE, R489. A write of NorWriteEnable allows or forbids NOR program and erase. -/
  | norWriteEnable (enable : Bool)
  /-- WATCHDOG_KICK, R490. A kick of the window watchdog, which resets the module when in its first 10 ms. -/
  | watchdogKick
  /-- WATCHDOG_EXPIRY, R490. No kick within 100 ms causes a full reset. -/
  | watchdogExpiry
  /-- SENSOR_SAMPLE, R491. Every 250 µs each sensor is sampled against its warn and fault limits. -/
  | sensorSample (values : List Int)
  /-- SENSOR_LIMIT_WRITE, R491. A write of a warn limit is checked and applies from the next sample. -/
  | sensorLimitWrite (p : Nat) (high : Bool) (v : Int)
  /-- FAN_UPDATE, R492. Every 100 ms the fan duty cycle is recomputed. -/
  | fanUpdate (rpm : Nat)
  /-- FAN_STALL, R492. Speed below FanStallRpm for 2 s raises a stall. -/
  | fanStall
  /-- LOG_FIND, R500. LogFind "date d" returns the Seq of the first record at or after d. -/
  | logFind (arg : Octets)
  /-- LOG_CLEAR, R501. LogClear "clear" empties the log and writes a Kind 7 record. -/
  | logClear (role : Nat) (arg : Octets)
  /-- SUPERVISOR_PEEK, R503. SupervisorPeek reads one 32-bit word of the address map. -/
  | supervisorPeek (arg : Octets)
  /-- KEY_ERASE, R512. KeyErase empties a writable key slot. -/
  | keyErase (arg : Octets)
  /-- JTAG_CHALLENGE, R526. JtagUnlock "challenge" returns a fresh nonce. -/
  | jtagChallenge
  /-- JTAG_RESPONSE, R526. JtagUnlock "response" unlocks the TAP if the signature verifies. -/
  | jtagResponse (signature : Octets)
  /-- JTAG_INSTRUCTION, R525. A locked TAP answers only IDCODE, BYPASS and SAMPLE/PRELOAD. -/
  | jtagInstruction (op : JtagOp)
  /-- UPDATE_ACTIVATE, R521. UpdateCmd "activate" marks the other slot TRIAL and resets. -/
  | updateActivate
  /-- UPDATE_CONFIRM, R522. UpdateCmd "confirm" makes the running trial ACTIVE. -/
  | updateConfirm
  /-- UPDATE_COMMIT, R518. UpdateCmd "commit" raises RollbackCounter and revokes lower signing keys. -/
  | updateCommit
  /-- TRIAL_CONFIRM_TIMER, R522. ConfirmDelay in READY or SHOW confirms the running trial. -/
  | trialConfirmTimer
  /-- SEASON_MEASURE, R532. Every SeasonPeriod the canaries are measured and the margin plans updated. -/
  | seasonMeasure (counts : List (Nat × Nat))
  /-- SEASON_MEASURE_CMD, R532. SeasonCmd "measure" requests an extra measurement. -/
  | seasonMeasureCmd
  /-- SEASON_MINUTE, R533. Each powered minute the life account is advanced and written to MRAM. -/
  | seasonMinute
  /-- CLEAR_REFRESH, R536. SeasonCmd "clear refresh c s" lowers a channel's refresh floor in the named unit. -/
  | clearRefresh (c : Nat) (serial : Octets)
  /-- CHECKER_TEST, R539. Every CheckerTestPeriod each checker is given a pattern it must flag. -/
  | checkerTest (failed : Option (Nat × Nat))
  /-- SELF_TEST_MONITORS, R540. SelfTestCmd "monitors" pulses every supply comparator and the clock monitor. -/
  | selfTestMonitors
  /-- SELF_TEST_CHECKERS, R540. SelfTestCmd "checkers" runs one checker pass at once. -/
  | selfTestCheckers
  /-- SELF_TEST_CRYPTO, R540. SelfTestCmd "crypto" repeats the known-answer tests. -/
  | selfTestCrypto
  /-- SELF_TEST_ALL, R540. SelfTestCmd "all" runs monitors, checkers and crypto in order. -/
  | selfTestAll
  /-- SELF_TEST_COMPLETE, R540. A requested self-test ends and its result is reported. -/
  | selfTestComplete (failed : Option (Nat × Nat))
  /-- PERTURB_ARM, R542. PerturbCmd "arm k s" arms a slot in the named unit. -/
  | perturbArm (k : Nat) (serial : Octets)
  /-- PERTURB_DISARM, R542. PerturbCmd "disarm k" disarms one slot. -/
  | perturbDisarm (k : Nat)
  /-- PERTURB_DISARM_ALL, R542. PerturbCmd "disarm all" disarms every slot. -/
  | perturbDisarmAll
  /-- PERTURB_APPLY, R543. An armed slot applies its perturbation at its boundary. -/
  | perturbApply (k : Nat)
  /-- PERTURB_TIMEOUT, R543. A slot disarms PerturbTimeout after its arming. -/
  | perturbTimeout (k : Nat)
  /-- VIN_UVLO_START, R551. VIN rises through the UVLO start and the module starts from OFF. -/
  | vinUvloStart
  /-- VIN_UVLO_TRIP, R548. VIN falls through the UVLO trip and the power-down sequence runs. -/
  | vinUvloTrip (held : Bool)
  /-- VIN_OVP_TRIP, R549. VIN rises through the OVP trip and the power stage stops. -/
  | vinOvpTrip
  /-- OVP_RESTART, R549. VIN below the OVP restart for 100 ms starts the module as from OFF. -/
  | ovpRestart
  /-- WAKE_EDGE, R554. A rising WAKE edge wakes a module from OFFSEASON or ends a latched OFF. -/
  | wakeEdge
  /-- NRESET, R561. nRESET low for 10 µs causes a full reset. -/
  | nreset
  /-- RAIL_TRIP, R559. A fast rail comparator trips and the module enters FAULT. -/
  | railTrip (rail : Nat)
  /-- RAIL_RESTART, R559. A rail not back within limits 1 ms after a trip restarts every rail. -/
  | railRestart
  /-- FAULT_RESTART_TIMER, R560. FaultRestartDelay after FAULT entry the module resets, within the restart limit. -/
  | faultRestartTimer
  /-- RESET_RELEASE, R563. The 2 ms reset hold ends and BOOT begins. -/
  | resetRelease (facts : BootFacts)
  /-- BOOT_COMPLETE, R565. The BOOT sequence finishes and the module enters QUIET or FAULT. -/
  | bootComplete (ms : Nat) (eeprom : Octets)
  /-- RESET_CMD, R564. ResetCmd "reset" performs a full reset. -/
  | resetCmd (arg : Octets)
  /-- POWER_QUIET, R556. PowerStateCmd "quiet" sets QuietHold and releases the lead. -/
  | powerQuiet
  /-- DATA_PATH_STOP, R556. At the next block boundary the data path stops and is cleared. -/
  | dataPathStop
  /-- POWER_READY, R556. PowerStateCmd "ready" clears QuietHold so the module aligns and enters READY. -/
  | powerReady
  /-- POWER_OFFSEASON, R553. PowerStateCmd "offseason" flushes the log and account and switches the rails off. -/
  | powerOffseason
  /-- SHOW_REQUEST_WRITE, R557. A write of ShowRequest moves the module between READY and SHOW. -/
  | showRequestWrite (v : Nat)
  /-- I2C_STUCK, R581. The carrier I2C bus stays stuck for 1 s. -/
  | i2cStuck
  /-- CARRIER_TEMP_READ, R582. Every 1 s the carrier temperature sensor is read. -/
  | carrierTempRead (value : Option Int) (recoveries : Nat) (busError : Bool)
  /-- NRESET_RELEASE, R561. nRESET returns high after having been held low, and the module leaves the held reset state so that the 2 ms hold and BOOT can follow. -/
  | nresetRelease
  /-- RAILS_IN_REGULATION, R565. After soft start, VIO, VAUX_3V3, VDRAM and VCORE reach regulation; PGOOD is released and VAUX_3V3 turns on, and reset is released 2 ms later. -/
  | railsInRegulation
  /-- ROOT_DPLL_LOCKED, R333. The root DPLL, slewing at most 10 ppm/s towards a newly selected source, reaches it and DpllState changes from slewing to locked. -/
  | rootDpllLocked (ppb : Int)
  /-- PHY_AUTONEGOTIATION, R261. The management PHY's in-band control word reports link state and speed, bringing the management port UP at 10, 100 or 1,000 Mb/s or taking it DOWN. -/
  | phyAutonegotiation (linkUp : Bool) (speed : Nat) (eee : Bool)
  deriving DecidableEq, Repr

end Sys2Proof
end

