-- ==== Sys2Proof/Decode.lean ====
section
/-! DEFINITION. The decoder of table words: the table of operations and events gives no row any bits. -/

namespace Sys2Proof

/-- The command that a word of `nbits` bits spells: none, since spec/opcode_table.json gives no row bits. -/
def decodeTableWord (_nbits _w : Nat) : Option Instr := none

end Sys2Proof
end

