-- ==== Sys2Proof/Machine/Maps.lean ====
section
/-! DEFINITION. Sparse arrays in one canonical form: keys strictly rising, no entry equal to the default. -/

namespace Sys2Proof.Machine

variable {α : Type}

/-- The value of a key, if it is listed. -/
def nget? (m : NMap α) (k : Nat) : Option α := (m.find? fun p => p.1 == k).map (·.2)

/-- The value of a key, or the default where it is not listed. -/
def nget (d : α) (m : NMap α) (k : Nat) : α := (nget? m k).getD d

/-- A sparse array without a key. -/
def nerase (m : NMap α) (k : Nat) : NMap α := m.filter fun p => p.1 != k

/-- Insertion of an unlisted key at its place. -/
def nins (k : Nat) (v : α) : NMap α → NMap α
  | [] => [(k, v)]
  | p :: t => if k < p.1 then (k, v) :: p :: t else p :: nins k v t

/-- The value of a key written, listed whatever it is. -/
def nput (m : NMap α) (k : Nat) (v : α) : NMap α := nins k v (nerase m k)

/-- The value of a key written in canonical form: the default is never listed. -/
def nset [DecidableEq α] (d : α) (m : NMap α) (k : Nat) (v : α) : NMap α :=
  if v = d then nerase m k else nput m k v

/-- The value of a key changed. -/
def nmod (d : α) (m : NMap α) (k : Nat) (f : α → α) : NMap α := nput m k (f (nget d m k))

/-- Keys strictly rising. -/
def nsorted : NMap α → Bool
  | [] => true
  | [_] => true
  | p :: q :: t => decide (p.1 < q.1) && nsorted (q :: t)

/-- The canonical form: keys strictly rising and no default listed. -/
def nwf [DecidableEq α] (d : α) (m : NMap α) : Bool := nsorted m && m.all fun p => p.2 ≠ d

/-- The element of a list at a place, or a default. -/
def lget (d : α) (l : List α) (i : Nat) : α := l.getD i d

/-- The element of a list at a place changed; nothing where the list is shorter. -/
def lmod (l : List α) (i : Nat) (f : α → α) : List α := l.modify i f

/-- A fixed number of like things, by number. -/
structure Fixed (α : Type) (n : Nat) where
  /-- The things in order. -/
  items : List α
  /-- There are as many as the type says. -/
  count : items.length = n
  deriving DecidableEq, Repr

/-- All alike. -/
def Fixed.fill (n : Nat) (x : α) : Fixed α n := ⟨List.replicate n x, by simp⟩

/-- The thing of a number, or a default where there is none of it. -/
def Fixed.get (v : Fixed α n) (d : α) (i : Nat) : α := lget d v.items i

/-- The thing of a number changed. -/
def Fixed.modify (v : Fixed α n) (i : Nat) (f : α → α) : Fixed α n := ⟨lmod v.items i f, by simp [lmod, v.count]⟩

/-- Every thing changed. -/
def Fixed.map (v : Fixed α n) (f : α → β) : Fixed β n := ⟨v.items.map f, by simp [v.count]⟩

/-- Every thing changed with its number at hand. -/
def Fixed.mapIdx (v : Fixed α n) (f : Nat → α → β) : Fixed β n := ⟨v.items.mapIdx f, by simp [v.count]⟩

end Sys2Proof.Machine
end

