-- ==== Sys2Proof/Config.lean ====
section
/-! DEFINITION. What an implementation fixes, and the free values: constants without a body, so nothing can be proved of them. -/

namespace Sys2Proof.Config

/-- A free value: what the spec leaves open at one moment, numbered by a counter of State. -/
opaque free : Nat → Nat

/-- A free signed value, for an audio sample or another number the spec leaves open. -/
opaque freeInt : Nat → Int

/-- Free octets of a given length, for a nonce or another string the spec leaves open. -/
opaque freeOctet : Nat → Octet

/-- The entry concerned that a notice or fault record names, index × 256 + sub or 0, by its code and argument, where the spec
names none (R61, R496). -/
opaque noticeEntry : Nat → Nat → Nat

/-- A field of a log record to which the spec gives no value, by the record's kind: the argument of Kind 6, the code of Kinds 5
and 7 (R498, R499, R501); 25 the low octet of the shape notice's code and 26 its argument (R25). -/
opaque recordField : Nat → Nat

/-- The fused or per-image constant of a dictionary entry, by its key (HardwareIssue, VcoreBase and their like). -/
opaque moduleConst : Nat → Nat

/-- The first of the five consecutive MAC addresses assigned at manufacture (R253). -/
opaque macBase : Nat

/-- SupervisorLoad at a moment, by the clock, in 0.01 % (R504: firmware's own figure). -/
opaque supervisorLoad : Nat → Nat

/-- The characters of the module's serial number. -/
opaque serialChar : Nat → Octet

/-- Whether the module was supplied as FK8240-LG-X (R3). -/
opaque extended : Bool

/-- SHA-384 of a string of octets, octet by octet. -/
opaque sha384At : Octets → Nat → Octet

/-- The most significant 32 bits of AES-128-CMAC of a message under a key (R52). -/
opaque cmac32 : Octets → Octets → Nat

/-- Whether an ECDSA P-384 signature over a message verifies against a public key. -/
opaque ecdsaVerify : Octets → Octets → Octets → Bool

/-- What is fused into the module or made with it: 1 the device's public key, 2 the vendor anchor's key, 3 the device
certificate, 10 + k the hash of signing key k (R511, R516). -/
opaque fused : Nat → Octets

/-- The sequence number of the journal entry that stands at a line of the journal region (R402). -/
opaque journalAt : Nat → Nat

/-- Whether an offset of the bridges' 64 MiB is mapped to a register (R489). -/
opaque bridgeMapped : Nat → Bool

/-- Which user of a shared region a line of it belongs to: the output whose FIR taps stand there, the engine or the block transfer that
reads it (R402, R489). -/
opaque tapOwner : Nat → Nat

/-- What lies at a word of a bank whose layout the spec does not give: the object of a geometry record, the output of a FIR working
word, the route cell's section (Table 14-1). -/
opaque bankItem : Nat → Nat

/-- The shift fused for a canary at manufacture, in 0.01 % (R532). -/
opaque canaryFused : Nat → Int

/-- The IPv4 address that firmware holds for a port (R268). -/
opaque ownIp : Nat → Nat

/-- The IPv6 address that firmware holds for a port. -/
opaque ownIp6 : Nat → Nat

/-- The hardware address of an IPv4 neighbour on a port, as address resolution found it. -/
opaque neighbour : Nat → Nat → Nat

/-- A field of an outgoing packet to which the spec gives no value (1 IPv4 identification, 2 UDP checksum). -/
opaque packetField : Nat → Octets → Nat

/-- The octets that a protected frame opens to with a key and a packet number: none when the ICV check fails (R287). -/
opaque macsecOpen : Octets → Nat → Octets → Option Octets

/-- A secure association key as MKA distributes it, unwrapped with the CAK and its name (R285: IEEE 802.1X). -/
opaque mkaUnwrap : Octets → Octets → Octets → Octets

/-- Whether a protected frame's ICV is the complement of the one computed for it, with a key and a packet number (R480). -/
opaque icvComplement : Octets → Nat → Octets → Bool

/-- The secure data and the ICV of a frame protected with a key, an SCI and a packet number (R285). -/
opaque macsecSeal : Octets → Nat → Nat → Octets → Octets

/-- SHA-384 of a string of octets (R71, R511). -/
def sha384 (l : Octets) : Octets := (List.range 48).map (sha384At l)

/-- `n` free octets from number `k` on. -/
def freeOctets (k n : Nat) : Octets := (List.range n).map fun i => freeOctet (k + i)

end Sys2Proof.Config
end

