-- ==== Sys2Proof/Machine/Num.lean ====
section
/-! DEFINITION. Arithmetic of the number formats of R8 and R9, octet order of R37, and small numeric helpers. -/

namespace Sys2Proof.Machine

/-- Two's-complement reading of the low `w` bits of an integer. -/
def wrapS (w : Nat) (x : Int) : Int :=
  let m := x % (2 ^ w : Int)
  if m < (2 ^ (w - 1) : Int) then m else m - (2 ^ w : Int)

/-- Unsigned reading of the low `w` bits of an integer. -/
def wrapU (w : Nat) (x : Int) : Nat := (x % (2 ^ w : Int)).toNat

/-- An integer held between two bounds. -/
def clampI (lo hi x : Int) : Int := if x < lo then lo else if hi < x then hi else x

/-- Saturation to a signed `w`-bit integer. -/
def satS (w : Nat) (x : Int) : Int := clampI (-(2 ^ (w - 1) : Int)) ((2 ^ (w - 1) : Int) - 1) x

/-- Saturation to Q1.31, the internal audio format of Table 0-3. -/
def satAudio (x : Int) : Int := satS 32 x

/-- Rounding half up when `k` fraction bits are dropped (R9): add half of the target LSB, then floor. -/
def rsh (k : Nat) (x : Int) : Int :=
  if k = 0 then x else (x + (2 ^ (k - 1) : Int)) / (2 ^ k : Int)

/-- Rounding half up of a quotient: floor of x/y + 1/2, for a positive divisor. -/
def rdiv (x y : Int) : Int := (2 * x + y) / (2 * y)

/-- Ceiling of a quotient of naturals. -/
def cdiv (x y : Nat) : Nat := (x + y - 1) / y

/-- Modulo 2^32 addition, for counters of type U32. -/
def add32 (x y : Nat) : Nat := (x + y) % 4294967296

/-- Signed difference of two 32-bit counts (R67). -/
def sdiff32 (x y : Nat) : Int := wrapS 32 ((x : Int) - (y : Int))

/-- The `n` octets of a number, most significant first (R37). -/
def toBE : Nat → Nat → Octets
  | 0, _ => []
  | n + 1, x => octet (x / 256 ^ n) :: toBE n x

/-- The number that octets spell, most significant first. -/
def fromBE (l : Octets) : Nat := l.foldl (fun a b => a * 256 + b.toNat) 0

/-- The `n` octets of a number, least significant first. -/
def toLE : Nat → Nat → Octets
  | 0, _ => []
  | n + 1, x => octet x :: toLE n (x / 256)

/-- The number that octets spell, least significant first. -/
def fromLE (l : Octets) : Nat := l.foldr (fun b a => a * 256 + b.toNat) 0

/-- A field of `n` octets at an offset, most significant first; absent octets read as 0. -/
def beAt (l : Octets) (off n : Nat) : Nat := fromBE ((l.drop off).take n)

/-- A signed field of `n` octets at an offset. -/
def beAtS (l : Octets) (off n : Nat) : Int := wrapS (8 * n) (beAt l off n : Int)

/-- Bits [hi:lo] of a number. -/
def bits (x hi lo : Nat) : Nat := x / 2 ^ lo % 2 ^ (hi + 1 - lo)

/-- A number with bit `i` set or cleared. -/
def setBit (x i : Nat) (b : Bool) : Nat :=
  if x.testBit i = b then x else if b then x + 2 ^ i else x - 2 ^ i

/-- Number of one bits among the low `w` bits. -/
def popCount (w x : Nat) : Nat := (List.range w).foldl (fun a i => if x.testBit i then a + 1 else a) 0

/-- A Boolean as 0 or 1. -/
def b2n (b : Bool) : Nat := if b then 1 else 0

/-- Integer square root by bits, from bit `k` downwards (a structural recursion on `k`). -/
def isqrtBits : Nat → Nat → Nat → Nat
  | 0, x, r => if (r + 1) * (r + 1) ≤ x then r + 1 else r
  | k + 1, x, r =>
    let r' := r + 2 ^ (k + 1)
    isqrtBits k x (if r' * r' ≤ x then r' else r)

/-- floor of the square root of a number below 2^128. -/
def isqrt (x : Nat) : Nat := isqrtBits 63 x 0

/-- floor of log2, and 0 of 0. -/
def ilog2 (x : Nat) : Nat := Nat.log2 x

/-- One bit of the CRC-32C shift register, reflected form (PRESUMED: CRC-32C names the Castagnoli polynomial). -/
def crcBit (c : Nat) : Nat := if c % 2 = 1 then (c / 2) ^^^ 0x82F63B78 else c / 2

/-- One octet into the CRC register. -/
def crcOctet (c : Nat) (b : Octet) : Nat :=
  crcBit (crcBit (crcBit (crcBit (crcBit (crcBit (crcBit (crcBit (c ^^^ b.toNat))))))))

/-- CRC-32C with initial value 0xFFFFFFFF and final complement (R59, R71). -/
def crc32c (l : Octets) : Nat := (l.foldl crcOctet 0xFFFFFFFF) ^^^ 0xFFFFFFFF

/-- One bit of the CRC-32 shift register of IEEE 802.3, reflected form. -/
def fcsBit (c : Nat) : Nat := if c % 2 = 1 then (c / 2) ^^^ 0xEDB88320 else c / 2

/-- One octet into the register of the FCS. -/
def fcsOctet (c : Nat) (b : Octet) : Nat := fcsBit (fcsBit (fcsBit (fcsBit (fcsBit (fcsBit (fcsBit (fcsBit (c ^^^ b.toNat))))))))

/-- The FCS of a frame as it leaves (R266; PRESUMED: the CRC-32 of IEEE 802.3, least significant octet first). -/
def frameFcs (l : Octets) : Octets := toLE 4 ((l.foldl fcsOctet 0xFFFFFFFF) ^^^ 0xFFFFFFFF)

/-- Octets brought to a length: cut there, or filled up with zeros. -/
def fitOctets (n : Nat) (l : Octets) : Octets := l.take n ++ List.replicate (n - l.length) (octet 0)

/-- Whether octets are continuation octets of UTF-8. -/
def utf8Cont (b : Octet) : Bool := 0x80 ≤ b.toNat && b.toNat ≤ 0xBF

/-- Whether octets are valid UTF-8 (R37); the fuel is the number of octets. -/
def utf8Fuel : Nat → Octets → Bool
  | _, [] => true
  | 0, _ => false
  | n + 1, b :: t =>
    let x := b.toNat
    if x < 0x80 then utf8Fuel n t
    else match t with
    | [] => false
    | c :: t =>
      if 0xC2 ≤ x && x ≤ 0xDF then utf8Cont c && utf8Fuel n t
      else match t with
      | [] => false
      | d :: t =>
        if 0xE0 ≤ x && x ≤ 0xEF then
          utf8Cont c && utf8Cont d && (x != 0xE0 || 0xA0 ≤ c.toNat) && (x != 0xED || c.toNat ≤ 0x9F) && utf8Fuel n t
        else match t with
        | [] => false
        | e :: t =>
          (0xF0 ≤ x && x ≤ 0xF4) && utf8Cont c && utf8Cont d && utf8Cont e &&
            (x != 0xF0 || 0x90 ≤ c.toNat) && (x != 0xF4 || c.toNat ≤ 0x8F) && utf8Fuel n t

/-- Valid UTF-8, R37. -/
def utf8Valid (l : Octets) : Bool := utf8Fuel l.length l

/-- The octets of a Lean string of ASCII letters. -/
def ascii (s : String) : Octets := s.toList.map fun c => octet c.toNat

/-- The decimal number that ASCII digits spell; none for an empty or other text. -/
def decimal? (l : Octets) : Option Nat :=
  if l.isEmpty then none
  else l.foldl (fun a b => a.bind fun n =>
    if 0x30 ≤ b.toNat && b.toNat ≤ 0x39 then some (n * 10 + (b.toNat - 0x30)) else none) (some 0)

/-- One hexadecimal digit, if it is one. -/
def hexDigit? (b : Octet) : Option Nat :=
  let x := b.toNat
  if 0x30 ≤ x && x ≤ 0x39 then some (x - 0x30)
  else if 0x41 ≤ x && x ≤ 0x46 then some (x - 0x37)
  else if 0x61 ≤ x && x ≤ 0x66 then some (x - 0x57)
  else none

/-- The hexadecimal number that ASCII digits spell. -/
def hex? (l : Octets) : Option Nat :=
  if l.isEmpty then none
  else l.foldl (fun a b => a.bind fun n => (hexDigit? b).map fun d => n * 16 + d) (some 0)

/-- One uppercase hexadecimal digit. -/
def hexChar (d : Nat) : Octet := if d % 16 < 10 then octet (0x30 + d % 16) else octet (0x37 + d % 16)

/-- A number as `n` uppercase hexadecimal digits. -/
def hexText : Nat → Nat → Octets
  | 0, _ => []
  | n + 1, x => hexChar (x / 16 ^ n) :: hexText n x

/-- A number in decimal digits, most significant first. -/
def decText (n : Nat) : Octets := ascii (toString n)

/-- Octets cut at every space. -/
def splitWords (l : Octets) : List Octets :=
  let r := l.foldr (fun b (a : Octets × List Octets) =>
    if b = octet 0x20 then ([], a.1 :: a.2) else (b :: a.1, a.2)) ([], [])
  r.1 :: r.2

/-- The octets cut into pieces of `n`; the fuel is the number of octets. -/
def chunksFuel : Nat → Nat → Octets → List Octets
  | 0, _, _ => []
  | f + 1, n, l => if l.isEmpty then [] else l.take n :: chunksFuel f n (l.drop n)

/-- The octets cut into pieces of `n` octets. -/
def chunks (n : Nat) (l : Octets) : List Octets := chunksFuel l.length n l

end Sys2Proof.Machine
end

