-- ==== Sys2Proof/Machine/Entry.lean ====
section
/-! DEFINITION. What the dictionary says of an entry: type, access role, default, commit class, persistence, range (R36 to R43). -/

namespace Sys2Proof.Machine

/-- The entry types of Table 2-1. -/
inductive Ty where
  | bool | u8 | u16 | u32 | u64 | i8 | i16 | i32 | i64 | q4_20 | u13_19 | str | blob | key | cmd
  deriving DecidableEq, Repr

/-- The wire code of a type, Table 2-1. -/
def Ty.code : Ty → Nat
  | .bool => 0x01 | .u8 => 0x02 | .u16 => 0x03 | .u32 => 0x04 | .u64 => 0x05
  | .i8 => 0x06 | .i16 => 0x07 | .i32 => 0x08 | .i64 => 0x09 | .q4_20 => 0x0A
  | .u13_19 => 0x0B | .str => 0x0C | .blob => 0x0D | .key => 0x0E | .cmd => 0x0F

/-- The octets an integer type takes on the wire, 0 for the types of variable length. -/
def Ty.size : Ty → Nat
  | .bool => 1 | .u8 => 1 | .u16 => 2 | .u32 => 4 | .u64 => 8 | .i8 => 1 | .i16 => 2 | .i32 => 4
  | .i64 => 8 | .q4_20 => 4 | .u13_19 => 4 | .str => 0 | .blob => 0 | .key => 0 | .cmd => 0

/-- Whether an integer type is read in two's complement. -/
def Ty.signed : Ty → Bool
  | .i8 | .i16 | .i32 | .i64 | .q4_20 => true
  | _ => false

/-- Whether the value of a type is a string of octets. -/
def Ty.isBytes : Ty → Bool
  | .str | .blob | .key | .cmd => true
  | _ => false

/-- The name of a type as TypeName gives it, in the order of Table 2-1. -/
def tyNames : List String :=
  ["BOOL", "U8", "U16", "U32", "U64", "I8", "I16", "I32", "I64", "Q4.20", "U13.19", "STR", "BLOB", "KEY", "CMD"]

/-- The access roles of R38, weakest first. -/
inductive Role where
  | observer | operator | engineer | service | vendor
  deriving DecidableEq, Repr

/-- The rank of a role, 0 for the weakest. -/
def Role.rank : Role → Nat
  | .observer => 0 | .operator => 1 | .engineer => 2 | .service => 3 | .vendor => 4

/-- The commit classes of R39. -/
inductive Commit where
  | immediate | dated | reboot | const
  deriving DecidableEq, Repr

/-- How many indices an array entry takes (R36). -/
inductive Count where
  | fixed (n : Nat)
  | objects
  | outputs
  deriving DecidableEq, Repr

/-- The most indices an array may take. -/
def Count.limit : Count → Nat
  | .fixed n => n
  | .objects => 4096
  | .outputs => 2560

/-- The default of an entry. -/
inductive Dflt where
  | int (n : Int)
  | bytes (l : Octets)
  | elemPlus (n : Int)
  | byElem (l : List Int)
  | bySub (l : List Int)
  | byCode (commercial extended : List Int)
  | moduleConst
  /-- The address of a port out of the module's block of consecutive MAC addresses (R253). -/
  | macBlock
  | moduleText
  | typeName
  deriving DecidableEq, Repr

/-- What values a write may give an entry, where the range does not depend on the state. -/
inductive Range where
  | any
  | within (lo hi : Int)
  | among (l : List Int)
  | withinOr (lo hi x : Int)
  | maxLen (n : Nat)
  | lenBetween (lo hi : Nat)
  | steps (lo hi step : Int)
  deriving DecidableEq, Repr

/-- The limit value that stands for no limit below (Table 17-5 and R491). -/
def noLimitLow : Int := -2147483648

/-- The limit value that stands for no limit above. -/
def noLimitHigh : Int := 2147483647

/-- One row of a dictionary table. -/
structure Row where
  base : Nat
  count : Count
  sub : Nat
  subs : Nat
  name : String
  ty : Ty
  access : Option Role
  dflt : Dflt
  commit : Commit
  persistent : Bool
  range : Range
  deriving DecidableEq, Repr

/-- The value of an entry: an integer, or a string of octets. -/
inductive Val where
  | int (n : Int)
  | bytes (l : Octets)
  deriving DecidableEq, Repr

/-- The key of an entry: index and sub-index in one number. -/
def entryKey (idx sub : Nat) : Nat := idx * 256 + sub

/-- The key of element `i` of a row, sub-index offset `j`. -/
def Row.key (r : Row) (i : Nat := 0) (j : Nat := 0) : Nat := entryKey (r.base + i) (r.sub + j)

end Sys2Proof.Machine
end

