-- ==== Sys2Proof/Machine/RegsArchitecture.lean ====
section
/-! DEFINITION. The dictionary entries of 01_architecture.md, one row each, as that chapter's tables define them. -/

namespace Sys2Proof.Machine.Reg

/-- R25 of 01_architecture.md. -/
def renderRate : Row := ⟨0x6000, .fixed 1, 0x01, 1, "RenderRate", .u32, some .engineer, .int 96000, .reboot, true, .among [48000, 96000]⟩
/-- R25 of 01_architecture.md. -/
def partitionCount : Row := ⟨0x6000, .fixed 1, 0x02, 1, "PartitionCount", .u8, some .engineer, .int 1, .reboot, true, .among [1, 2, 4]⟩
/-- R25 of 01_architecture.md. -/
def outputsConfigured : Row := ⟨0x6000, .fixed 1, 0x03, 1, "OutputsConfigured", .u16, some .engineer, .int 2560, .reboot, true, .within 1 2560⟩
/-- R25 of 01_architecture.md. -/
def partitionOutputs0 : Row := ⟨0x6000, .fixed 1, 0x04, 1, "PartitionOutputs0", .u16, some .engineer, .int 2560, .reboot, true, .within 0 2560⟩
/-- R25 of 01_architecture.md. -/
def partitionOutputs1 : Row := ⟨0x6000, .fixed 1, 0x05, 1, "PartitionOutputs1", .u16, some .engineer, .int 0, .reboot, true, .within 0 2560⟩
/-- R25 of 01_architecture.md. -/
def partitionOutputs2 : Row := ⟨0x6000, .fixed 1, 0x06, 1, "PartitionOutputs2", .u16, some .engineer, .int 0, .reboot, true, .within 0 2560⟩
/-- R25 of 01_architecture.md. -/
def partitionOutputs3 : Row := ⟨0x6000, .fixed 1, 0x07, 1, "PartitionOutputs3", .u16, some .engineer, .int 0, .reboot, true, .within 0 2560⟩
/-- R25 of 01_architecture.md. -/
def moduleLatency : Row := ⟨0x6000, .fixed 1, 0x08, 1, "ModuleLatency", .u16, none, .int 72, .const, false, .any⟩
/-- R25 of 01_architecture.md. -/
def groupExtraLatency : Row := ⟨0x6000, .fixed 1, 0x09, 1, "GroupExtraLatency", .u16, none, .int 0, .immediate, false, .any⟩
/-- R25 of 01_architecture.md. -/
def mscNow : Row := ⟨0x6000, .fixed 1, 0x0A, 1, "MscNow", .u64, none, .int 0, .immediate, false, .any⟩
/-- R25 of 01_architecture.md. -/
def blockCount : Row := ⟨0x6000, .fixed 1, 0x0B, 1, "BlockCount", .u32, none, .int 0, .immediate, false, .any⟩

/-- A piece of the chapter's list. -/
def rowsArchitecture0 : List Row := [renderRate, partitionCount, outputsConfigured, partitionOutputs0, partitionOutputs1, partitionOutputs2, partitionOutputs3, moduleLatency, groupExtraLatency, mscNow, blockCount]
/-- All the rows of this chapter. -/
def rowsArchitecture : List Row := rowsArchitecture0

end Sys2Proof.Machine.Reg
end

