-- ==== Sys2Proof/Machine/RegsCalendar.lean ====
section
/-! DEFINITION. The dictionary entries of 03_calendar.md, one row each, as that chapter's tables define them. -/

namespace Sys2Proof.Machine.Reg

/-- R94 of 03_calendar.md. -/
def calendarLead : Row := ⟨0xA400, .fixed 1, 0x01, 1, "CalendarLead", .u16, some .engineer, .int 64, .immediate, true, .within 64 32768⟩
/-- R94 of 03_calendar.md. -/
def calendarPrepareLead : Row := ⟨0xA400, .fixed 1, 0x02, 1, "CalendarPrepareLead", .u32, some .engineer, .int 96000, .immediate, true, .within 32 16777216⟩
/-- R94 of 03_calendar.md. -/
def entriesInUse : Row := ⟨0xA400, .fixed 1, 0x03, 1, "EntriesInUse", .u16, none, .int 0, .immediate, false, .any⟩
/-- R94 of 03_calendar.md. -/
def changesInUse : Row := ⟨0xA400, .fixed 1, 0x04, 1, "ChangesInUse", .u32, none, .int 0, .immediate, false, .any⟩
/-- R94 of 03_calendar.md. -/
def earliestDate : Row := ⟨0xA400, .fixed 1, 0x05, 1, "EarliestDate", .u64, none, .int 0, .immediate, false, .any⟩
/-- R94 of 03_calendar.md. -/
def journalSeq : Row := ⟨0xA400, .fixed 1, 0x06, 1, "JournalSeq", .u32, none, .int 0, .immediate, true, .any⟩
/-- R94 of 03_calendar.md. -/
def journalOldest : Row := ⟨0xA400, .fixed 1, 0x07, 1, "JournalOldest", .u32, none, .int 1, .immediate, false, .any⟩
/-- R94 of 03_calendar.md. -/
def entriesRefused : Row := ⟨0xA400, .fixed 1, 0x08, 1, "EntriesRefused", .u32, none, .int 0, .immediate, false, .any⟩
/-- R94 of 03_calendar.md. -/
def entriesPartial : Row := ⟨0xA400, .fixed 1, 0x09, 1, "EntriesPartial", .u32, none, .int 0, .immediate, false, .any⟩
/-- R94 of 03_calendar.md. -/
def lastOutcome : Row := ⟨0xA400, .fixed 1, 0x0A, 1, "LastOutcome", .u32, none, .int 0, .immediate, false, .any⟩
/-- R100 of 03_calendar.md. -/
def fifoStages : Row := ⟨0xA500, .fixed 16, 0x01, 1, "FifoStages", .u8, none, .int 64, .const, false, .any⟩
/-- R100 of 03_calendar.md. -/
def wordsHeld : Row := ⟨0xA500, .fixed 16, 0x02, 1, "WordsHeld", .u8, none, .int 0, .immediate, false, .any⟩
/-- R100 of 03_calendar.md. -/
def packetsHeld : Row := ⟨0xA500, .fixed 16, 0x03, 1, "PacketsHeld", .u8, none, .int 0, .immediate, false, .any⟩
/-- R100 of 03_calendar.md. -/
def gapWords : Row := ⟨0xA500, .fixed 16, 0x04, 1, "GapWords", .u32, none, .int 0, .immediate, false, .any⟩
/-- R100 of 03_calendar.md. -/
def wordsDropped : Row := ⟨0xA500, .fixed 16, 0x05, 1, "WordsDropped", .u32, none, .int 0, .immediate, false, .any⟩
/-- R100 of 03_calendar.md. -/
def packetsDiscarded : Row := ⟨0xA500, .fixed 16, 0x06, 1, "PacketsDiscarded", .u32, none, .int 0, .immediate, false, .any⟩
/-- R100 of 03_calendar.md. -/
def motionLate : Row := ⟨0xA500, .fixed 16, 0x07, 1, "MotionLate", .u32, none, .int 0, .immediate, false, .any⟩
/-- R100 of 03_calendar.md. -/
def motionFar : Row := ⟨0xA500, .fixed 16, 0x08, 1, "MotionFar", .u32, none, .int 0, .immediate, false, .any⟩
/-- R100 of 03_calendar.md. -/
def motionStalls : Row := ⟨0xA500, .fixed 16, 0x09, 1, "MotionStalls", .u32, none, .int 0, .immediate, false, .any⟩
/-- R106 of 03_calendar.md. -/
def liftItemsMax : Row := ⟨0xA600, .fixed 1, 0x01, 1, "LiftItemsMax", .u16, none, .int 4096, .const, false, .any⟩
/-- R106 of 03_calendar.md. -/
def liftItemsFree : Row := ⟨0xA600, .fixed 1, 0x02, 1, "LiftItemsFree", .u16, none, .int 4096, .immediate, false, .any⟩
/-- R106 of 03_calendar.md. -/
def liftEngines : Row := ⟨0xA600, .fixed 1, 0x03, 1, "LiftEngines", .u8, none, .int 4, .const, false, .any⟩
/-- R106 of 03_calendar.md. -/
def liftAgeLimit : Row := ⟨0xA600, .fixed 1, 0x04, 1, "LiftAgeLimit", .u32, some .engineer, .int 100000, .immediate, true, .within 1000 10000000⟩
/-- R106 of 03_calendar.md. -/
def liftFull : Row := ⟨0xA600, .fixed 1, 0x05, 1, "LiftFull", .u32, none, .int 0, .immediate, false, .any⟩
/-- R106 of 03_calendar.md. -/
def liftSnapshotCmd : Row := ⟨0xA608, .fixed 1, 0x01, 1, "LiftSnapshotCmd", .cmd, some .observer, .bytes [], .immediate, false, .any⟩
/-- R106 of 03_calendar.md. -/
def liftSnapshot : Row := ⟨0xA608, .fixed 1, 0x02, 1, "LiftSnapshot", .blob, none, .bytes [], .immediate, false, .any⟩
/-- R106 of 03_calendar.md. -/
def levelItems : Row := ⟨0xA610, .fixed 8, 0x01, 1, "LevelItems", .u16, none, .int 0, .immediate, false, .any⟩
/-- R106 of 03_calendar.md. -/
def levelOldestAge : Row := ⟨0xA610, .fixed 8, 0x02, 1, "LevelOldestAge", .u32, none, .int 0, .immediate, false, .any⟩
/-- R106 of 03_calendar.md. -/
def levelServed : Row := ⟨0xA610, .fixed 8, 0x03, 1, "LevelServed", .u32, none, .int 0, .immediate, false, .any⟩
/-- R106 of 03_calendar.md. -/
def kindLevel : Row := ⟨0xA620, .fixed 9, 0x01, 1, "KindLevel", .u8, some .engineer, .byElem [0, 1, 1, 2, 3, 4, 5, 6, 7], .immediate, true, .within 1 7⟩

/-- A piece of the chapter's list. -/
def rowsCalendar0 : List Row := [calendarLead, calendarPrepareLead, entriesInUse, changesInUse, earliestDate, journalSeq, journalOldest, entriesRefused, entriesPartial, lastOutcome, fifoStages, wordsHeld, packetsHeld, gapWords, wordsDropped, packetsDiscarded, motionLate, motionFar, motionStalls, liftItemsMax]
/-- A piece of the chapter's list. -/
def rowsCalendar1 : List Row := [liftItemsFree, liftEngines, liftAgeLimit, liftFull, liftSnapshotCmd, liftSnapshot, levelItems, levelOldestAge, levelServed, kindLevel]
/-- All the rows of this chapter. -/
def rowsCalendar : List Row := rowsCalendar0 ++ rowsCalendar1

end Sys2Proof.Machine.Reg
end

