-- ==== Sys2Proof/Machine/RegsConversion.lean ====
section
/-! DEFINITION. The dictionary entries of 08_conversion.md, one row each, as that chapter's tables define them. -/

namespace Sys2Proof.Machine.Reg

/-- R250 of 08_conversion.md. -/
def convChannels : Row := ⟨0x9400, .fixed 1, 0x01, 1, "ConvChannels", .u16, none, .int 512, .const, false, .any⟩
/-- R250 of 08_conversion.md. -/
def convInUse : Row := ⟨0x9400, .fixed 1, 0x02, 1, "ConvInUse", .u16, none, .int 0, .immediate, false, .any⟩
/-- R250 of 08_conversion.md. -/
def convKernelRom : Row := ⟨0x9400, .fixed 1, 0x03, 1, "ConvKernelRom", .blob, none, .bytes [], .const, false, .any⟩
/-- R250 of 08_conversion.md. -/
def convHalfbandRom : Row := ⟨0x9400, .fixed 1, 0x04, 1, "ConvHalfbandRom", .blob, none, .bytes [], .const, false, .any⟩
/-- R250 of 08_conversion.md. -/
def convJumpLimit : Row := ⟨0x9400, .fixed 1, 0x05, 1, "ConvJumpLimit", .u16, none, .int 100, .const, false, .any⟩
/-- R250 of 08_conversion.md. -/
def convResidueErrors : Row := ⟨0x9400, .fixed 1, 0x06, 1, "ConvResidueErrors", .u32, none, .int 0, .immediate, false, .any⟩
/-- R250 of 08_conversion.md. -/
def convEccCorrected : Row := ⟨0x9400, .fixed 1, 0x07, 1, "ConvEccCorrected", .u32, none, .int 0, .immediate, false, .any⟩
/-- R250 of 08_conversion.md. -/
def convEccUncorrected : Row := ⟨0x9400, .fixed 1, 0x08, 1, "ConvEccUncorrected", .u32, none, .int 0, .immediate, false, .any⟩
/-- R251 of 08_conversion.md. -/
def convSourceKind : Row := ⟨0x9500, .fixed 512, 0x01, 1, "ConvSourceKind", .u8, some .engineer, .int 0, .dated, true, .within 0 2⟩
/-- R251 of 08_conversion.md. -/
def convSourceIndex : Row := ⟨0x9500, .fixed 512, 0x02, 1, "ConvSourceIndex", .u16, some .engineer, .int 0, .dated, true, .within 0 1023⟩
/-- R251 of 08_conversion.md. -/
def convSourceChannel : Row := ⟨0x9500, .fixed 512, 0x03, 1, "ConvSourceChannel", .u16, some .engineer, .int 0, .dated, true, .within 0 63⟩
/-- R251 of 08_conversion.md. -/
def convSlot : Row := ⟨0x9500, .fixed 512, 0x04, 1, "ConvSlot", .u16, some .engineer, .int 0, .dated, true, .within 0 4095⟩
/-- R251 of 08_conversion.md. -/
def convMode : Row := ⟨0x9500, .fixed 512, 0x05, 1, "ConvMode", .u8, none, .int 0, .immediate, false, .any⟩
/-- R251 of 08_conversion.md. -/
def convNominalRate : Row := ⟨0x9500, .fixed 512, 0x06, 1, "ConvNominalRate", .u32, none, .int 0, .immediate, false, .any⟩
/-- R251 of 08_conversion.md. -/
def convDelay : Row := ⟨0x9500, .fixed 512, 0x07, 1, "ConvDelay", .u16, none, .int 0, .immediate, false, .any⟩
/-- R251 of 08_conversion.md. -/
def convDcEnable : Row := ⟨0x9500, .fixed 512, 0x08, 1, "ConvDcEnable", .bool, some .operator, .int 0, .dated, true, .any⟩
/-- R251 of 08_conversion.md. -/
def convDcShift : Row := ⟨0x9500, .fixed 512, 0x09, 1, "ConvDcShift", .u8, some .engineer, .int 13, .dated, true, .within 8 18⟩
/-- R251 of 08_conversion.md. -/
def convDcFreeze : Row := ⟨0x9500, .fixed 512, 0x0A, 1, "ConvDcFreeze", .bool, some .operator, .int 0, .dated, true, .any⟩
/-- R251 of 08_conversion.md. -/
def convDcEstimate : Row := ⟨0x9500, .fixed 512, 0x0B, 1, "ConvDcEstimate", .i32, none, .int 0, .immediate, false, .any⟩
/-- R251 of 08_conversion.md. -/
def convState : Row := ⟨0x9500, .fixed 512, 0x0C, 1, "ConvState", .u8, none, .int 0, .immediate, false, .any⟩
/-- R251 of 08_conversion.md. -/
def convRatio : Row := ⟨0x9500, .fixed 512, 0x0D, 1, "ConvRatio", .u64, none, .int 0, .immediate, false, .any⟩
/-- R251 of 08_conversion.md. -/
def convPhaseError : Row := ⟨0x9500, .fixed 512, 0x0E, 1, "ConvPhaseError", .i64, none, .int 0, .immediate, false, .any⟩
/-- R251 of 08_conversion.md. -/
def convMeasuredRate : Row := ⟨0x9500, .fixed 512, 0x0F, 1, "ConvMeasuredRate", .u32, none, .int 0, .immediate, false, .any⟩
/-- R251 of 08_conversion.md. -/
def convJumps : Row := ⟨0x9500, .fixed 512, 0x10, 1, "ConvJumps", .u32, none, .int 0, .immediate, false, .any⟩
/-- R251 of 08_conversion.md. -/
def convLosses : Row := ⟨0x9500, .fixed 512, 0x11, 1, "ConvLosses", .u32, none, .int 0, .immediate, false, .any⟩
/-- R251 of 08_conversion.md. -/
def convSlips : Row := ⟨0x9500, .fixed 512, 0x12, 1, "ConvSlips", .u32, none, .int 0, .immediate, false, .any⟩

/-- A piece of the chapter's list. -/
def rowsConversion0 : List Row := [convChannels, convInUse, convKernelRom, convHalfbandRom, convJumpLimit, convResidueErrors, convEccCorrected, convEccUncorrected, convSourceKind, convSourceIndex, convSourceChannel, convSlot, convMode, convNominalRate, convDelay, convDcEnable, convDcShift, convDcFreeze, convDcEstimate, convState]
/-- A piece of the chapter's list. -/
def rowsConversion1 : List Row := [convRatio, convPhaseError, convMeasuredRate, convJumps, convLosses, convSlips]
/-- All the rows of this chapter. -/
def rowsConversion : List Row := rowsConversion0 ++ rowsConversion1

end Sys2Proof.Machine.Reg
end

