-- ==== Sys2Proof/Machine/RegsCorrection.lean ====
section
/-! DEFINITION. The dictionary entries of 07_correction.md, one row each, as that chapter's tables define them. -/

namespace Sys2Proof.Machine.Reg

/-- R226 of 07_correction.md. -/
def biquadCoeffs : Row := ⟨0x7000, .outputs, 0x01, 1, "BiquadCoeffs", .blob, some .engineer, .bytes [], .dated, false, .any⟩
/-- R226 of 07_correction.md. -/
def firFilter : Row := ⟨0x7000, .outputs, 0x02, 1, "FirFilter", .blob, some .engineer, .bytes [], .dated, false, .any⟩
/-- R226 of 07_correction.md. -/
def outputDelay : Row := ⟨0x7000, .outputs, 0x03, 1, "OutputDelay", .u32, some .engineer, .int 0, .dated, true, .any⟩
/-- R226 of 07_correction.md. -/
def outputGain : Row := ⟨0x7000, .outputs, 0x04, 1, "OutputGain", .i32, some .operator, .int 0, .dated, true, .within (-144000) 18000⟩
/-- R226 of 07_correction.md. -/
def outputPolarity : Row := ⟨0x7000, .outputs, 0x05, 1, "OutputPolarity", .bool, some .engineer, .int 0, .dated, true, .any⟩
/-- R226 of 07_correction.md. -/
def outputMute : Row := ⟨0x7000, .outputs, 0x06, 1, "OutputMute", .bool, some .operator, .int 0, .dated, true, .any⟩
/-- R226 of 07_correction.md. -/
def limiterEnable : Row := ⟨0x7000, .outputs, 0x07, 1, "LimiterEnable", .bool, some .engineer, .int 0, .dated, true, .any⟩
/-- R226 of 07_correction.md. -/
def limiterThreshold : Row := ⟨0x7000, .outputs, 0x08, 1, "LimiterThreshold", .i32, some .engineer, .int 0, .dated, true, .within (-40000) 0⟩
/-- R226 of 07_correction.md. -/
def limiterRelease : Row := ⟨0x7000, .outputs, 0x09, 1, "LimiterRelease", .u32, some .engineer, .int 50000, .dated, true, .within 1000 2000000⟩
/-- R226 of 07_correction.md. -/
def outputEgressSlot : Row := ⟨0x7000, .outputs, 0x0A, 1, "OutputEgressSlot", .u16, some .engineer, .elemPlus 0, .dated, true, .withinOr 0 4095 65535⟩
/-- R226 of 07_correction.md. -/
def outputStatus : Row := ⟨0x7000, .outputs, 0x0B, 1, "OutputStatus", .u8, none, .int 0, .immediate, false, .any⟩
/-- R226 of 07_correction.md. -/
def limiterGainLast : Row := ⟨0x7000, .outputs, 0x0C, 1, "LimiterGainLast", .u32, none, .int 8388608, .immediate, false, .any⟩
/-- R226 of 07_correction.md. -/
def limiterBlocks : Row := ⟨0x7000, .outputs, 0x0D, 1, "LimiterBlocks", .u32, none, .int 0, .immediate, false, .any⟩
/-- R226 of 07_correction.md. -/
def biquadSaturations : Row := ⟨0x7000, .outputs, 0x0E, 1, "BiquadSaturations", .u32, none, .int 0, .immediate, false, .any⟩
/-- R226 of 07_correction.md. -/
def firSaturations : Row := ⟨0x7000, .outputs, 0x0F, 1, "FirSaturations", .u32, none, .int 0, .immediate, false, .any⟩
/-- R227 of 07_correction.md. -/
def outputRamp : Row := ⟨0x7A00, .fixed 1, 0x01, 1, "OutputRamp", .u16, some .engineer, .int 256, .dated, true, .within 0 32768⟩
/-- R227 of 07_correction.md. -/
def firFade : Row := ⟨0x7A00, .fixed 1, 0x02, 1, "FirFade", .u16, some .engineer, .int 1024, .dated, true, .within 0 32768⟩
/-- R227 of 07_correction.md. -/
def firMaxTaps : Row := ⟨0x7A00, .fixed 1, 0x03, 1, "FirMaxTaps", .u16, none, .int 4096, .const, false, .any⟩
/-- R227 of 07_correction.md. -/
def outputDelayMax : Row := ⟨0x7A00, .fixed 1, 0x04, 1, "OutputDelayMax", .u32, none, .int 9600, .const, false, .any⟩
/-- R227 of 07_correction.md. -/
def outputRingSamples : Row := ⟨0x7A00, .fixed 1, 0x05, 1, "OutputRingSamples", .u32, none, .int 16384, .const, false, .any⟩
/-- R227 of 07_correction.md. -/
def firFadeLimit : Row := ⟨0x7A00, .fixed 1, 0x06, 1, "FirFadeLimit", .u16, none, .int 256, .const, false, .any⟩
/-- R227 of 07_correction.md. -/
def firFadeCuts : Row := ⟨0x7A00, .fixed 1, 0x07, 1, "FirFadeCuts", .u32, none, .int 0, .immediate, false, .any⟩
/-- R227 of 07_correction.md. -/
def delayUnderruns : Row := ⟨0x7A00, .fixed 1, 0x08, 1, "DelayUnderruns", .u32, none, .int 0, .immediate, false, .any⟩
/-- R227 of 07_correction.md. -/
def correctionResidueErrors : Row := ⟨0x7A00, .fixed 1, 0x09, 1, "CorrectionResidueErrors", .u32, none, .int 0, .immediate, false, .any⟩
/-- R227 of 07_correction.md. -/
def correctionEccCorrected : Row := ⟨0x7A00, .fixed 1, 0x0A, 1, "CorrectionEccCorrected", .u32, none, .int 0, .immediate, false, .any⟩
/-- R227 of 07_correction.md. -/
def correctionEccUncorrected : Row := ⟨0x7A00, .fixed 1, 0x0B, 1, "CorrectionEccUncorrected", .u32, none, .int 0, .immediate, false, .any⟩
/-- R227 of 07_correction.md. -/
def limitingOutputs : Row := ⟨0x7A00, .fixed 1, 0x0C, 1, "LimitingOutputs", .u16, none, .int 0, .immediate, false, .any⟩
/-- R227 of 07_correction.md. -/
def storeUsed : Row := ⟨0x7A00, .fixed 1, 0x0D, 1, "StoreUsed", .u32, none, .int 0, .immediate, false, .any⟩

/-- A piece of the chapter's list. -/
def rowsCorrection0 : List Row := [biquadCoeffs, firFilter, outputDelay, outputGain, outputPolarity, outputMute, limiterEnable, limiterThreshold, limiterRelease, outputEgressSlot, outputStatus, limiterGainLast, limiterBlocks, biquadSaturations, firSaturations, outputRamp, firFade, firMaxTaps, outputDelayMax, outputRingSamples]
/-- A piece of the chapter's list. -/
def rowsCorrection1 : List Row := [firFadeLimit, firFadeCuts, delayUnderruns, correctionResidueErrors, correctionEccCorrected, correctionEccUncorrected, limitingOutputs, storeUsed]
/-- All the rows of this chapter. -/
def rowsCorrection : List Row := rowsCorrection0 ++ rowsCorrection1

end Sys2Proof.Machine.Reg
end

