-- ==== Sys2Proof/Machine/RegsDictionary.lean ====
section
/-! DEFINITION. The dictionary entries of 02_dictionary.md, one row each, as that chapter's tables define them. -/

namespace Sys2Proof.Machine.Reg

/-- R44 of 02_dictionary.md. -/
def vendorId : Row := ⟨0x0000, .fixed 1, 0x01, 1, "VendorId", .u32, none, .int 19028, .const, false, .any⟩
/-- R44 of 02_dictionary.md. -/
def productCode : Row := ⟨0x0000, .fixed 1, 0x02, 1, "ProductCode", .u32, none, .int 33344, .const, false, .any⟩
/-- R44 of 02_dictionary.md. -/
def hardwareIssue : Row := ⟨0x0000, .fixed 1, 0x03, 1, "HardwareIssue", .u16, none, .moduleConst, .const, false, .any⟩
/-- R44 of 02_dictionary.md. -/
def serialNumber : Row := ⟨0x0000, .fixed 1, 0x04, 1, "SerialNumber", .str, none, .moduleText, .const, false, .any⟩
/-- R44 of 02_dictionary.md. -/
def orderCode : Row := ⟨0x0000, .fixed 1, 0x05, 1, "OrderCode", .str, none, .moduleText, .const, false, .any⟩
/-- R44 of 02_dictionary.md. -/
def firmwareVersion : Row := ⟨0x0000, .fixed 1, 0x06, 1, "FirmwareVersion", .u32, none, .moduleConst, .const, false, .any⟩
/-- R44 of 02_dictionary.md. -/
def dictionaryVersion : Row := ⟨0x0000, .fixed 1, 0x07, 1, "DictionaryVersion", .u16, none, .moduleConst, .const, false, .any⟩
/-- R44 of 02_dictionary.md. -/
def unitId : Row := ⟨0x0001, .fixed 1, 0x01, 1, "UnitId", .u16, none, .int 0, .immediate, false, .any⟩
/-- R44 of 02_dictionary.md. -/
def unitKind : Row := ⟨0x0001, .fixed 1, 0x02, 1, "UnitKind", .u8, none, .int 0, .immediate, false, .any⟩
/-- R44 of 02_dictionary.md. -/
def outputBase : Row := ⟨0x0001, .fixed 1, 0x03, 1, "OutputBase", .u32, none, .int 0, .immediate, false, .any⟩
/-- R44 of 02_dictionary.md. -/
def outputCount : Row := ⟨0x0001, .fixed 1, 0x04, 1, "OutputCount", .u16, none, .int 2560, .immediate, false, .any⟩
/-- R44 of 02_dictionary.md. -/
def objectCapacity : Row := ⟨0x0001, .fixed 1, 0x05, 1, "ObjectCapacity", .u16, none, .int 2048, .immediate, false, .any⟩
/-- R44 of 02_dictionary.md. -/
def typeSize : Row := ⟨0x0011, .fixed 15, 0x01, 1, "TypeSize", .u16, none, .byElem [1, 1, 2, 4, 8, 1, 2, 4, 8, 4, 4, 0, 0, 48, 0], .const, false, .any⟩
/-- R44 of 02_dictionary.md. -/
def typeName : Row := ⟨0x0011, .fixed 15, 0x02, 1, "TypeName", .str, none, .typeName, .const, false, .any⟩
/-- R44 of 02_dictionary.md. -/
def unitParent : Row := ⟨0x0100, .fixed 1024, 0x01, 1, "UnitParent", .u16, none, .int 65535, .immediate, false, .any⟩
/-- R44 of 02_dictionary.md. -/
def unitLink : Row := ⟨0x0100, .fixed 1024, 0x02, 1, "UnitLink", .u8, none, .int 0, .immediate, false, .any⟩
/-- R44 of 02_dictionary.md. -/
def unitKindOf : Row := ⟨0x0100, .fixed 1024, 0x03, 1, "UnitKindOf", .u8, none, .int 0, .immediate, false, .any⟩
/-- R44 of 02_dictionary.md. -/
def unitOutputBase : Row := ⟨0x0100, .fixed 1024, 0x04, 1, "UnitOutputBase", .u32, none, .int 0, .immediate, false, .any⟩
/-- R44 of 02_dictionary.md. -/
def unitOutputCount : Row := ⟨0x0100, .fixed 1024, 0x05, 1, "UnitOutputCount", .u16, none, .int 0, .immediate, false, .any⟩
/-- R44 of 02_dictionary.md. -/
def unitHops : Row := ⟨0x0100, .fixed 1024, 0x06, 1, "UnitHops", .u8, none, .int 0, .immediate, false, .any⟩
/-- R44 of 02_dictionary.md. -/
def unitState : Row := ⟨0x0100, .fixed 1024, 0x07, 1, "UnitState", .u8, none, .int 0, .immediate, false, .any⟩
/-- R64 of 02_dictionary.md. -/
def knasiugUdpPort : Row := ⟨0x1000, .fixed 1, 0x01, 1, "KnasiugUdpPort", .u16, none, .int 48240, .const, false, .any⟩
/-- R64 of 02_dictionary.md. -/
def udpOnManagement : Row := ⟨0x1000, .fixed 1, 0x02, 1, "UdpOnManagement", .bool, some .engineer, .int 1, .reboot, true, .any⟩
/-- R64 of 02_dictionary.md. -/
def udpMediaVlan : Row := ⟨0x1000, .fixed 1, 0x03, 1, "UdpMediaVlan", .u16, some .engineer, .int 0, .reboot, true, .within 0 4094⟩
/-- R64 of 02_dictionary.md. -/
def sessionLimit : Row := ⟨0x1000, .fixed 1, 0x04, 1, "SessionLimit", .u8, none, .int 8, .const, false, .any⟩
/-- R64 of 02_dictionary.md. -/
def sessionTimeout : Row := ⟨0x1000, .fixed 1, 0x05, 1, "SessionTimeout", .u16, some .engineer, .int 10, .immediate, true, .within 1 3600⟩
/-- R64 of 02_dictionary.md. -/
def sessionsOpen : Row := ⟨0x1000, .fixed 1, 0x06, 1, "SessionsOpen", .u8, none, .int 0, .immediate, false, .any⟩
/-- R64 of 02_dictionary.md. -/
def framesDropped : Row := ⟨0x1000, .fixed 1, 0x07, 1, "FramesDropped", .u32, none, .int 0, .immediate, false, .any⟩
/-- R64 of 02_dictionary.md. -/
def canEnable : Row := ⟨0x1001, .fixed 1, 0x01, 1, "CanEnable", .bool, some .engineer, .int 0, .reboot, true, .any⟩
/-- R64 of 02_dictionary.md. -/
def canNodeId : Row := ⟨0x1001, .fixed 1, 0x02, 1, "CanNodeId", .u8, some .engineer, .int 1, .reboot, true, .within 1 127⟩
/-- R64 of 02_dictionary.md. -/
def canArbitrationRate : Row := ⟨0x1001, .fixed 1, 0x03, 1, "CanArbitrationRate", .u32, some .engineer, .int 500000, .reboot, true, .among [125000, 250000, 500000, 1000000]⟩
/-- R64 of 02_dictionary.md. -/
def canDataRate : Row := ⟨0x1001, .fixed 1, 0x04, 1, "CanDataRate", .u32, some .engineer, .int 2000000, .reboot, true, .among [1000000, 2000000, 4000000, 5000000]⟩
/-- R64 of 02_dictionary.md. -/
def canKey : Row := ⟨0x1001, .fixed 1, 0x05, 1, "CanKey", .key, some .engineer, .bytes [], .immediate, false, .any⟩
/-- R64 of 02_dictionary.md. -/
def canFreshnessTx : Row := ⟨0x1001, .fixed 1, 0x06, 1, "CanFreshnessTx", .u32, none, .int 0, .immediate, true, .any⟩
/-- R64 of 02_dictionary.md. -/
def canNoticeHost : Row := ⟨0x1001, .fixed 1, 0x07, 1, "CanNoticeHost", .u8, some .engineer, .int 0, .immediate, true, .within 0 127⟩
/-- R64 of 02_dictionary.md. -/
def canFramesIgnored : Row := ⟨0x1001, .fixed 1, 0x08, 1, "CanFramesIgnored", .u32, none, .int 0, .immediate, false, .any⟩
/-- R64 of 02_dictionary.md. -/
def canTagFailures : Row := ⟨0x1001, .fixed 1, 0x09, 1, "CanTagFailures", .u32, none, .int 0, .immediate, false, .any⟩
/-- R64 of 02_dictionary.md. -/
def canNoticeAreas : Row := ⟨0x1001, .fixed 1, 0x0A, 1, "CanNoticeAreas", .u32, some .engineer, .int 524287, .immediate, true, .within 0 524287⟩
/-- R64 of 02_dictionary.md. -/
def canFreshnessRx : Row := ⟨0x1081, .fixed 127, 0x01, 1, "CanFreshnessRx", .u32, none, .int 0, .immediate, true, .any⟩
/-- R64 of 02_dictionary.md. -/
def subscriptionsOpen : Row := ⟨0x1002, .fixed 1, 0x01, 1, "SubscriptionsOpen", .u16, none, .int 0, .immediate, false, .any⟩
/-- R64 of 02_dictionary.md. -/
def noticesLost : Row := ⟨0x1002, .fixed 1, 0x02, 1, "NoticesLost", .u32, none, .int 0, .immediate, false, .any⟩
/-- R64 of 02_dictionary.md. -/
def noticeAreas : Row := ⟨0x1002, .fixed 1, 0x03, 1, "NoticeAreas", .u32, some .observer, .int 524287, .immediate, false, .within 0 524287⟩
/-- R64 of 02_dictionary.md. -/
def mapEnable : Row := ⟨0x1010, .fixed 16, 0x01, 1, "MapEnable", .bool, some .engineer, .int 0, .immediate, true, .any⟩
/-- R64 of 02_dictionary.md. -/
def mapUdpPort : Row := ⟨0x1010, .fixed 16, 0x02, 1, "MapUdpPort", .u16, some .engineer, .int 0, .immediate, true, .any⟩
/-- R64 of 02_dictionary.md. -/
def mapSource : Row := ⟨0x1010, .fixed 16, 0x03, 1, "MapSource", .u32, some .engineer, .int 0, .immediate, true, .any⟩
/-- R64 of 02_dictionary.md. -/
def mapInterface : Row := ⟨0x1010, .fixed 16, 0x04, 1, "MapInterface", .u8, some .engineer, .int 0, .immediate, true, .within 0 1⟩
/-- R64 of 02_dictionary.md. -/
def mapObjectBase : Row := ⟨0x1010, .fixed 16, 0x05, 1, "MapObjectBase", .u16, some .engineer, .int 0, .immediate, true, .any⟩
/-- R64 of 02_dictionary.md. -/
def mapObjectCount : Row := ⟨0x1010, .fixed 16, 0x06, 1, "MapObjectCount", .u16, some .engineer, .int 0, .immediate, true, .any⟩
/-- R64 of 02_dictionary.md. -/
def mapAccepted : Row := ⟨0x1010, .fixed 16, 0x07, 1, "MapAccepted", .u32, none, .int 0, .immediate, false, .any⟩
/-- R64 of 02_dictionary.md. -/
def mapStale : Row := ⟨0x1010, .fixed 16, 0x08, 1, "MapStale", .u32, none, .int 0, .immediate, false, .any⟩
/-- R64 of 02_dictionary.md. -/
def mapMalformed : Row := ⟨0x1010, .fixed 16, 0x09, 1, "MapMalformed", .u32, none, .int 0, .immediate, false, .any⟩
/-- R64 of 02_dictionary.md. -/
def mapLastSequence : Row := ⟨0x1010, .fixed 16, 0x0A, 1, "MapLastSequence", .u32, none, .int 0, .immediate, false, .any⟩
/-- R64 of 02_dictionary.md. -/
def mapSeeded : Row := ⟨0x1010, .fixed 16, 0x0B, 1, "MapSeeded", .bool, none, .int 0, .immediate, false, .any⟩
/-- R70 of 02_dictionary.md. -/
def stateDigest : Row := ⟨0x2010, .fixed 1, 0x01, 1, "StateDigest", .blob, none, .bytes [], .immediate, false, .any⟩
/-- R70 of 02_dictionary.md. -/
def digestDate : Row := ⟨0x2010, .fixed 1, 0x02, 1, "DigestDate", .u64, none, .int 0, .immediate, false, .any⟩
/-- R70 of 02_dictionary.md. -/
def configEpoch : Row := ⟨0x2010, .fixed 1, 0x03, 1, "ConfigEpoch", .u32, none, .int 0, .immediate, true, .any⟩
/-- R70 of 02_dictionary.md. -/
def areaDigest : Row := ⟨0x2010, .fixed 1, 0x10, 19, "AreaDigest", .u32, none, .int 0, .immediate, false, .any⟩

/-- A piece of the chapter's list. -/
def rowsDictionary0 : List Row := [vendorId, productCode, hardwareIssue, serialNumber, orderCode, firmwareVersion, dictionaryVersion, unitId, unitKind, outputBase, outputCount, objectCapacity, typeSize, typeName, unitParent, unitLink, unitKindOf, unitOutputBase, unitOutputCount, unitHops]
/-- A piece of the chapter's list. -/
def rowsDictionary1 : List Row := [unitState, knasiugUdpPort, udpOnManagement, udpMediaVlan, sessionLimit, sessionTimeout, sessionsOpen, framesDropped, canEnable, canNodeId, canArbitrationRate, canDataRate, canKey, canFreshnessTx, canNoticeHost, canFramesIgnored, canTagFailures, canNoticeAreas, canFreshnessRx, subscriptionsOpen]
/-- A piece of the chapter's list. -/
def rowsDictionary2 : List Row := [noticesLost, noticeAreas, mapEnable, mapUdpPort, mapSource, mapInterface, mapObjectBase, mapObjectCount, mapAccepted, mapStale, mapMalformed, mapLastSequence, mapSeeded, stateDigest, digestDate, configEpoch, areaDigest]
/-- All the rows of this chapter. -/
def rowsDictionary : List Row := rowsDictionary0 ++ rowsDictionary1 ++ rowsDictionary2

end Sys2Proof.Machine.Reg
end

