-- ==== Sys2Proof/Machine/RegsDrada.lean ====
section
/-! DEFINITION. The dictionary entries of 16_drada.md, one row each, as that chapter's tables define them. -/

namespace Sys2Proof.Machine.Reg

/-- R481 of 16_drada.md. -/
def groupRole : Row := ⟨0x8100, .fixed 1, 0x01, 1, "GroupRole", .u8, some .engineer, .int 0, .reboot, true, .within 0 1⟩
/-- R481 of 16_drada.md. -/
def groupFormTimeout : Row := ⟨0x8100, .fixed 1, 0x02, 1, "GroupFormTimeout", .u16, some .engineer, .int 5000, .immediate, true, .within 1000 60000⟩
/-- R481 of 16_drada.md. -/
def groupLatencyLimit : Row := ⟨0x8100, .fixed 1, 0x03, 1, "GroupLatencyLimit", .u16, some .engineer, .int 32, .immediate, true, .within 1 64⟩
/-- R481 of 16_drada.md. -/
def groupReform : Row := ⟨0x8100, .fixed 1, 0x04, 1, "GroupReform", .cmd, some .engineer, .bytes [], .immediate, false, .any⟩
/-- R481 of 16_drada.md. -/
def groupState : Row := ⟨0x8100, .fixed 1, 0x05, 1, "GroupState", .u8, none, .int 0, .immediate, false, .any⟩
/-- R481 of 16_drada.md. -/
def groupTopology : Row := ⟨0x8100, .fixed 1, 0x06, 1, "GroupTopology", .u8, none, .int 0, .immediate, false, .any⟩
/-- R481 of 16_drada.md. -/
def groupUnits : Row := ⟨0x8100, .fixed 1, 0x07, 1, "GroupUnits", .u16, none, .int 1, .immediate, false, .any⟩
/-- R481 of 16_drada.md. -/
def groupDepth : Row := ⟨0x8100, .fixed 1, 0x08, 1, "GroupDepth", .u8, none, .int 0, .immediate, false, .any⟩
/-- R481 of 16_drada.md. -/
def ringBreaks : Row := ⟨0x8100, .fixed 1, 0x09, 1, "RingBreaks", .u32, none, .int 0, .immediate, false, .any⟩
/-- R481 of 16_drada.md. -/
def dradaCak : Row := ⟨0x8100, .fixed 1, 0x0A, 1, "DradaCak", .key, some .engineer, .bytes [], .immediate, false, .any⟩
/-- R481 of 16_drada.md. -/
def dradaEnable : Row := ⟨0x8110, .fixed 3, 0x01, 1, "DradaEnable", .bool, some .engineer, .int 1, .immediate, true, .any⟩
/-- R481 of 16_drada.md. -/
def dradaRateMode : Row := ⟨0x8110, .fixed 3, 0x02, 1, "DradaRateMode", .u8, some .engineer, .int 0, .immediate, true, .within 0 2⟩
/-- R481 of 16_drada.md. -/
def dradaFecMode : Row := ⟨0x8110, .fixed 3, 0x03, 1, "DradaFecMode", .u8, some .engineer, .int 0, .immediate, true, .within 0 3⟩
/-- R481 of 16_drada.md. -/
def dradaMacsec : Row := ⟨0x8110, .fixed 3, 0x04, 1, "DradaMacsec", .bool, some .engineer, .int 0, .immediate, true, .any⟩
/-- R481 of 16_drada.md. -/
def dradaWakeOwn : Row := ⟨0x8110, .fixed 3, 0x05, 1, "DradaWakeOwn", .u16, some .engineer, .int 10, .immediate, true, .within 2 1000⟩
/-- R481 of 16_drada.md. -/
def dradaWakeAgreed : Row := ⟨0x8110, .fixed 3, 0x06, 1, "DradaWakeAgreed", .u16, none, .int 0, .immediate, false, .any⟩
/-- R481 of 16_drada.md. -/
def dradaIdleAfter : Row := ⟨0x8110, .fixed 3, 0x07, 1, "DradaIdleAfter", .u32, some .engineer, .int 1000, .immediate, true, .within 100 100000⟩
/-- R481 of 16_drada.md. -/
def dradaLinkState : Row := ⟨0x8110, .fixed 3, 0x08, 1, "DradaLinkState", .u8, none, .int 0, .immediate, false, .any⟩
/-- R481 of 16_drada.md. -/
def dradaRate : Row := ⟨0x8110, .fixed 3, 0x09, 1, "DradaRate", .u32, none, .int 0, .immediate, false, .any⟩
/-- R481 of 16_drada.md. -/
def dradaFec : Row := ⟨0x8110, .fixed 3, 0x0A, 1, "DradaFec", .u8, none, .int 0, .immediate, false, .any⟩
/-- R481 of 16_drada.md. -/
def dradaNeighbour : Row := ⟨0x8110, .fixed 3, 0x0B, 1, "DradaNeighbour", .str, none, .bytes [], .immediate, false, .any⟩
/-- R481 of 16_drada.md. -/
def dradaPathDelay : Row := ⟨0x8110, .fixed 3, 0x0C, 1, "DradaPathDelay", .u32, none, .int 0, .immediate, false, .any⟩
/-- R481 of 16_drada.md. -/
def dradaAsymmetry : Row := ⟨0x8110, .fixed 3, 0x0D, 1, "DradaAsymmetry", .i32, some .engineer, .int 0, .immediate, true, .within (-10000) 10000⟩
/-- R481 of 16_drada.md. -/
def dradaTimeOffset : Row := ⟨0x8110, .fixed 3, 0x0E, 1, "DradaTimeOffset", .i32, none, .int 0, .immediate, false, .any⟩
/-- R481 of 16_drada.md. -/
def dradaLoad : Row := ⟨0x8110, .fixed 3, 0x0F, 1, "DradaLoad", .u16, none, .int 0, .immediate, false, .any⟩
/-- R481 of 16_drada.md. -/
def dradaCrcErrors : Row := ⟨0x8110, .fixed 3, 0x10, 1, "DradaCrcErrors", .u32, none, .int 0, .immediate, false, .any⟩
/-- R481 of 16_drada.md. -/
def dradaReplays : Row := ⟨0x8110, .fixed 3, 0x11, 1, "DradaReplays", .u32, none, .int 0, .immediate, false, .any⟩
/-- R481 of 16_drada.md. -/
def dradaStomped : Row := ⟨0x8110, .fixed 3, 0x12, 1, "DradaStomped", .u32, none, .int 0, .immediate, false, .any⟩
/-- R481 of 16_drada.md. -/
def dradaMalformed : Row := ⟨0x8110, .fixed 3, 0x13, 1, "DradaMalformed", .u32, none, .int 0, .immediate, false, .any⟩
/-- R481 of 16_drada.md. -/
def dradaCreditStalls : Row := ⟨0x8110, .fixed 3, 0x14, 1, "DradaCreditStalls", .u32, none, .int 0, .immediate, false, .any⟩
/-- R481 of 16_drada.md. -/
def dradaFeedLate : Row := ⟨0x8110, .fixed 3, 0x15, 1, "DradaFeedLate", .u32, none, .int 0, .immediate, false, .any⟩
/-- R481 of 16_drada.md. -/
def dradaOverBudget : Row := ⟨0x8110, .fixed 3, 0x16, 1, "DradaOverBudget", .u32, none, .int 0, .immediate, false, .any⟩
/-- R481 of 16_drada.md. -/
def dradaIdleEntries : Row := ⟨0x8110, .fixed 3, 0x17, 1, "DradaIdleEntries", .u32, none, .int 0, .immediate, false, .any⟩
/-- R481 of 16_drada.md. -/
def dradaIcvFail : Row := ⟨0x8110, .fixed 3, 0x18, 1, "DradaIcvFail", .u32, none, .int 0, .immediate, false, .any⟩
/-- R481 of 16_drada.md. -/
def dradaLinkDowns : Row := ⟨0x8110, .fixed 3, 0x19, 1, "DradaLinkDowns", .u32, none, .int 0, .immediate, false, .any⟩
/-- R481 of 16_drada.md. -/
def dradaTrainingFailures : Row := ⟨0x8110, .fixed 3, 0x1A, 1, "DradaTrainingFailures", .u32, none, .int 0, .immediate, false, .any⟩

/-- A piece of the chapter's list. -/
def rowsDrada0 : List Row := [groupRole, groupFormTimeout, groupLatencyLimit, groupReform, groupState, groupTopology, groupUnits, groupDepth, ringBreaks, dradaCak, dradaEnable, dradaRateMode, dradaFecMode, dradaMacsec, dradaWakeOwn, dradaWakeAgreed, dradaIdleAfter, dradaLinkState, dradaRate, dradaFec]
/-- A piece of the chapter's list. -/
def rowsDrada1 : List Row := [dradaNeighbour, dradaPathDelay, dradaAsymmetry, dradaTimeOffset, dradaLoad, dradaCrcErrors, dradaReplays, dradaStomped, dradaMalformed, dradaCreditStalls, dradaFeedLate, dradaOverBudget, dradaIdleEntries, dradaIcvFail, dradaLinkDowns, dradaTrainingFailures]
/-- All the rows of this chapter. -/
def rowsDrada : List Row := rowsDrada0 ++ rowsDrada1

end Sys2Proof.Machine.Reg
end

