-- ==== Sys2Proof/Machine/RegsDram.lean ====
section
/-! DEFINITION. The dictionary entries of 13_dram.md, one row each, as that chapter's tables define them. -/

namespace Sys2Proof.Machine.Reg

/-- R406 of 13_dram.md. -/
def dramCapacity : Row := ⟨0xA000, .fixed 1, 0x01, 1, "DramCapacity", .u64, none, .int 17179869184, .const, false, .any⟩
/-- R406 of 13_dram.md. -/
def dramUsable : Row := ⟨0xA000, .fixed 1, 0x02, 1, "DramUsable", .u64, none, .int 16642998272, .const, false, .any⟩
/-- R406 of 13_dram.md. -/
def dramDataRate : Row := ⟨0xA000, .fixed 1, 0x03, 1, "DramDataRate", .u32, none, .int 6291456, .const, false, .any⟩
/-- R406 of 13_dram.md. -/
def refreshPostponeLimit : Row := ⟨0xA000, .fixed 1, 0x04, 1, "RefreshPostponeLimit", .u8, some .engineer, .int 8, .immediate, true, .within 0 8⟩
/-- R406 of 13_dram.md. -/
def rowHitCap : Row := ⟨0xA000, .fixed 1, 0x05, 1, "RowHitCap", .u8, some .engineer, .int 16, .immediate, true, .within 1 64⟩
/-- R406 of 13_dram.md. -/
def scrubPeriod : Row := ⟨0xA000, .fixed 1, 0x06, 1, "ScrubPeriod", .u32, some .engineer, .int 86400, .immediate, true, .within 3600 604800⟩
/-- R406 of 13_dram.md. -/
def scrubPasses : Row := ⟨0xA000, .fixed 1, 0x07, 1, "ScrubPasses", .u32, none, .int 0, .immediate, false, .any⟩
/-- R406 of 13_dram.md. -/
def rtLatencyPeak : Row := ⟨0xA000, .fixed 1, 0x08, 1, "RtLatencyPeak", .u32, none, .int 0, .immediate, false, .any⟩
/-- R406 of 13_dram.md. -/
def dramLoadLast : Row := ⟨0xA000, .fixed 1, 0x09, 1, "DramLoadLast", .u16, none, .int 0, .immediate, false, .any⟩
/-- R406 of 13_dram.md. -/
def dramLoadPeak : Row := ⟨0xA000, .fixed 1, 0x0A, 1, "DramLoadPeak", .u16, none, .int 0, .immediate, false, .any⟩
/-- R406 of 13_dram.md. -/
def dramRegionFaults : Row := ⟨0xA000, .fixed 1, 0x0B, 1, "DramRegionFaults", .u32, none, .int 0, .immediate, false, .any⟩
/-- R406 of 13_dram.md. -/
def refreshRange : Row := ⟨0xA010, .fixed 4, 0x01, 1, "RefreshRange", .u8, none, .int 1, .immediate, false, .any⟩
/-- R406 of 13_dram.md. -/
def refreshDebt : Row := ⟨0xA010, .fixed 4, 0x02, 1, "RefreshDebt", .i8, none, .int 0, .immediate, false, .any⟩
/-- R406 of 13_dram.md. -/
def refreshDoubledEvents : Row := ⟨0xA010, .fixed 4, 0x03, 1, "RefreshDoubledEvents", .u32, none, .int 0, .immediate, false, .any⟩
/-- R406 of 13_dram.md. -/
def refreshForced : Row := ⟨0xA010, .fixed 4, 0x04, 1, "RefreshForced", .u32, none, .int 0, .immediate, false, .any⟩
/-- R406 of 13_dram.md. -/
def mr4Raw : Row := ⟨0xA010, .fixed 4, 0x05, 1, "Mr4Raw", .u8, none, .int 0, .immediate, false, .any⟩
/-- R406 of 13_dram.md. -/
def raaImt : Row := ⟨0xA010, .fixed 4, 0x06, 1, "RaaImt", .u16, none, .moduleConst, .const, false, .any⟩
/-- R406 of 13_dram.md. -/
def raaMmt : Row := ⟨0xA010, .fixed 4, 0x07, 1, "RaaMmt", .u16, none, .moduleConst, .const, false, .any⟩
/-- R406 of 13_dram.md. -/
def rfmIssued : Row := ⟨0xA010, .fixed 4, 0x08, 1, "RfmIssued", .u32, none, .int 0, .immediate, false, .any⟩
/-- R406 of 13_dram.md. -/
def actThrottled : Row := ⟨0xA010, .fixed 4, 0x09, 1, "ActThrottled", .u32, none, .int 0, .immediate, false, .any⟩
/-- R406 of 13_dram.md. -/
def channelEccCorrected : Row := ⟨0xA010, .fixed 4, 0x0A, 1, "ChannelEccCorrected", .u32, none, .int 0, .immediate, false, .any⟩
/-- R406 of 13_dram.md. -/
def channelEccUncorrected : Row := ⟨0xA010, .fixed 4, 0x0B, 1, "ChannelEccUncorrected", .u32, none, .int 0, .immediate, false, .any⟩
/-- R406 of 13_dram.md. -/
def retrainEvents : Row := ⟨0xA010, .fixed 4, 0x0C, 1, "RetrainEvents", .u32, none, .int 0, .immediate, false, .any⟩
/-- R407 of 13_dram.md. -/
def arbStarveTime : Row := ⟨0xA020, .fixed 1, 0x01, 1, "ArbStarveTime", .u32, some .engineer, .int 50, .immediate, true, .within 5 10000⟩
/-- R407 of 13_dram.md. -/
def arbPolicyEnable : Row := ⟨0xA020, .fixed 1, 0x02, 1, "ArbPolicyEnable", .bool, some .engineer, .int 1, .immediate, true, .any⟩
/-- R407 of 13_dram.md. -/
def arbPolicyRestore : Row := ⟨0xA020, .fixed 1, 0x03, 1, "ArbPolicyRestore", .u32, none, .int 10000, .const, false, .any⟩
/-- R407 of 13_dram.md. -/
def arbBackoffCap : Row := ⟨0xA020, .fixed 1, 0x04, 1, "ArbBackoffCap", .u8, none, .int 10, .const, false, .any⟩
/-- R407 of 13_dram.md. -/
def arbDeadCycles : Row := ⟨0xA020, .fixed 1, 0x05, 1, "ArbDeadCycles", .u32, none, .int 0, .immediate, false, .any⟩
/-- R407 of 13_dram.md. -/
def arbClass : Row := ⟨0xA040, .fixed 10, 0x01, 1, "ArbClass", .u8, none, .byElem [1, 1, 1, 1, 0, 0, 0, 0, 0, 0], .const, false, .any⟩
/-- R407 of 13_dram.md. -/
def arbPriorityDefault : Row := ⟨0xA040, .fixed 10, 0x02, 1, "ArbPriorityDefault", .u8, some .engineer, .byElem [7, 6, 5, 4, 5, 4, 3, 2, 1, 0], .immediate, true, .within 0 7⟩
/-- R407 of 13_dram.md. -/
def arbPriority : Row := ⟨0xA040, .fixed 10, 0x03, 1, "ArbPriority", .u8, none, .byElem [7, 6, 5, 4, 5, 4, 3, 2, 1, 0], .immediate, false, .any⟩
/-- R407 of 13_dram.md. -/
def arbStarveCount : Row := ⟨0xA040, .fixed 10, 0x04, 1, "ArbStarveCount", .u32, none, .int 0, .immediate, false, .any⟩
/-- R407 of 13_dram.md. -/
def arbUrgentCount : Row := ⟨0xA040, .fixed 10, 0x05, 1, "ArbUrgentCount", .u32, none, .int 0, .immediate, false, .any⟩
/-- R407 of 13_dram.md. -/
def arbWaitPeak : Row := ⟨0xA040, .fixed 10, 0x06, 1, "ArbWaitPeak", .u32, none, .int 0, .immediate, false, .any⟩
/-- R407 of 13_dram.md. -/
def arbBursts : Row := ⟨0xA040, .fixed 10, 0x07, 1, "ArbBursts", .u64, none, .int 0, .immediate, false, .any⟩
/-- R407 of 13_dram.md. -/
def arbHolder : Row := ⟨0xA040, .fixed 10, 0x08, 1, "ArbHolder", .u8, none, .int 0, .immediate, false, .any⟩

/-- A piece of the chapter's list. -/
def rowsDram0 : List Row := [dramCapacity, dramUsable, dramDataRate, refreshPostponeLimit, rowHitCap, scrubPeriod, scrubPasses, rtLatencyPeak, dramLoadLast, dramLoadPeak, dramRegionFaults, refreshRange, refreshDebt, refreshDoubledEvents, refreshForced, mr4Raw, raaImt, raaMmt, rfmIssued, actThrottled]
/-- A piece of the chapter's list. -/
def rowsDram1 : List Row := [channelEccCorrected, channelEccUncorrected, retrainEvents, arbStarveTime, arbPolicyEnable, arbPolicyRestore, arbBackoffCap, arbDeadCycles, arbClass, arbPriorityDefault, arbPriority, arbStarveCount, arbUrgentCount, arbWaitPeak, arbBursts, arbHolder]
/-- All the rows of this chapter. -/
def rowsDram : List Row := rowsDram0 ++ rowsDram1

end Sys2Proof.Machine.Reg
end

