-- ==== Sys2Proof/Machine/RegsGeometry.lean ====
section
/-! DEFINITION. The dictionary entries of 04_geometry.md, one row each, as that chapter's tables define them. -/

namespace Sys2Proof.Machine.Reg

/-- R109 of 04_geometry.md. -/
def objectEnable : Row := ⟨0x4000, .objects, 0x01, 1, "ObjectEnable", .bool, some .operator, .int 0, .dated, false, .any⟩
/-- R109 of 04_geometry.md. -/
def objectLaw : Row := ⟨0x4000, .objects, 0x02, 1, "ObjectLaw", .u8, some .operator, .int 1, .dated, false, .within 0 3⟩
/-- R109 of 04_geometry.md. -/
def objectRolloff : Row := ⟨0x4000, .objects, 0x03, 1, "ObjectRolloff", .u8, some .operator, .int 2, .dated, false, .within 0 2⟩
/-- R109 of 04_geometry.md. -/
def objectGain : Row := ⟨0x4000, .objects, 0x04, 1, "ObjectGain", .i32, some .operator, .int 0, .dated, false, .within (-144000) 18000⟩
/-- R109 of 04_geometry.md. -/
def objectX : Row := ⟨0x4000, .objects, 0x05, 1, "ObjectX", .i32, some .operator, .int 0, .dated, false, .any⟩
/-- R109 of 04_geometry.md. -/
def objectY : Row := ⟨0x4000, .objects, 0x06, 1, "ObjectY", .i32, some .operator, .int 0, .dated, false, .any⟩
/-- R109 of 04_geometry.md. -/
def objectZ : Row := ⟨0x4000, .objects, 0x07, 1, "ObjectZ", .i32, some .operator, .int 0, .dated, false, .any⟩
/-- R109 of 04_geometry.md. -/
def objectRefDistance : Row := ⟨0x4000, .objects, 0x08, 1, "ObjectRefDistance", .u32, some .engineer, .int 65536, .dated, false, .within 16384 16777216⟩
/-- R109 of 04_geometry.md. -/
def objectBulkDelay : Row := ⟨0x4000, .objects, 0x09, 1, "ObjectBulkDelay", .u32, some .operator, .int 0, .dated, false, .any⟩
/-- R109 of 04_geometry.md. -/
def objectZoneMask : Row := ⟨0x4000, .objects, 0x0A, 1, "ObjectZoneMask", .u64, some .operator, .int 18446744073709551615, .dated, false, .any⟩
/-- R109 of 04_geometry.md. -/
def objectSpread : Row := ⟨0x4000, .objects, 0x0B, 1, "ObjectSpread", .u32, some .operator, .int 0, .dated, false, .within 0 4194304⟩
/-- R109 of 04_geometry.md. -/
def objectDirTable : Row := ⟨0x4000, .objects, 0x0C, 1, "ObjectDirTable", .u8, some .operator, .int 0, .dated, false, .within 0 63⟩
/-- R109 of 04_geometry.md. -/
def objectAimX : Row := ⟨0x4000, .objects, 0x0D, 1, "ObjectAimX", .i16, some .operator, .int 32767, .dated, false, .any⟩
/-- R109 of 04_geometry.md. -/
def objectAimY : Row := ⟨0x4000, .objects, 0x0E, 1, "ObjectAimY", .i16, some .operator, .int 0, .dated, false, .any⟩
/-- R109 of 04_geometry.md. -/
def objectAimZ : Row := ⟨0x4000, .objects, 0x0F, 1, "ObjectAimZ", .i16, some .operator, .int 0, .dated, false, .any⟩
/-- R109 of 04_geometry.md. -/
def objectDelaySlew : Row := ⟨0x4000, .objects, 0x10, 1, "ObjectDelaySlew", .u13_19, some .operator, .int 524288, .dated, false, .within 0 8388608⟩
/-- R109 of 04_geometry.md. -/
def objectGainSlew : Row := ⟨0x4000, .objects, 0x11, 1, "ObjectGainSlew", .q4_20, some .operator, .int 0, .dated, false, .within 0 8388607⟩
/-- R109 of 04_geometry.md. -/
def objectStatus : Row := ⟨0x4000, .objects, 0x12, 1, "ObjectStatus", .u8, none, .int 0, .immediate, false, .any⟩
/-- R109 of 04_geometry.md. -/
def objectPathMin : Row := ⟨0x4000, .objects, 0x13, 1, "ObjectPathMin", .u32, none, .int 4294967295, .immediate, false, .any⟩
/-- R109 of 04_geometry.md. -/
def objectPathMax : Row := ⟨0x4000, .objects, 0x14, 1, "ObjectPathMax", .u32, none, .int 0, .immediate, false, .any⟩
/-- R109 of 04_geometry.md. -/
def objectClipCount : Row := ⟨0x4000, .objects, 0x15, 1, "ObjectClipCount", .u32, none, .int 0, .immediate, false, .any⟩
/-- R111 of 04_geometry.md. -/
def speakerEnable : Row := ⟨0x5000, .outputs, 0x01, 1, "SpeakerEnable", .bool, some .engineer, .int 1, .dated, true, .any⟩
/-- R111 of 04_geometry.md. -/
def speakerX : Row := ⟨0x5000, .outputs, 0x02, 1, "SpeakerX", .i32, some .engineer, .int 0, .dated, true, .any⟩
/-- R111 of 04_geometry.md. -/
def speakerY : Row := ⟨0x5000, .outputs, 0x03, 1, "SpeakerY", .i32, some .engineer, .int 0, .dated, true, .any⟩
/-- R111 of 04_geometry.md. -/
def speakerZ : Row := ⟨0x5000, .outputs, 0x04, 1, "SpeakerZ", .i32, some .engineer, .int 0, .dated, true, .any⟩
/-- R111 of 04_geometry.md. -/
def speakerAimX : Row := ⟨0x5000, .outputs, 0x05, 1, "SpeakerAimX", .i16, some .engineer, .int 32767, .dated, true, .any⟩
/-- R111 of 04_geometry.md. -/
def speakerAimY : Row := ⟨0x5000, .outputs, 0x06, 1, "SpeakerAimY", .i16, some .engineer, .int 0, .dated, true, .any⟩
/-- R111 of 04_geometry.md. -/
def speakerAimZ : Row := ⟨0x5000, .outputs, 0x07, 1, "SpeakerAimZ", .i16, some .engineer, .int 0, .dated, true, .any⟩
/-- R111 of 04_geometry.md. -/
def speakerZone : Row := ⟨0x5000, .outputs, 0x08, 1, "SpeakerZone", .u8, some .engineer, .int 0, .dated, true, .within 0 63⟩
/-- R111 of 04_geometry.md. -/
def speakerTrim : Row := ⟨0x5000, .outputs, 0x09, 1, "SpeakerTrim", .i32, some .engineer, .int 0, .dated, true, .within (-144000) 18000⟩
/-- R111 of 04_geometry.md. -/
def speakerLawMask : Row := ⟨0x5000, .outputs, 0x0A, 1, "SpeakerLawMask", .u8, some .engineer, .int 7, .dated, true, .within 0 7⟩
/-- R111 of 04_geometry.md. -/
def speakerName : Row := ⟨0x5000, .outputs, 0x0B, 1, "SpeakerName", .str, some .engineer, .bytes [], .immediate, true, .maxLen 32⟩
/-- R112 of 04_geometry.md. -/
def zoneGain : Row := ⟨0x5F00, .fixed 64, 0x01, 1, "ZoneGain", .i32, some .engineer, .int 0, .dated, true, .within (-144000) 18000⟩
/-- R112 of 04_geometry.md. -/
def zoneRefX : Row := ⟨0x5F00, .fixed 64, 0x02, 1, "ZoneRefX", .i32, some .engineer, .int 0, .dated, true, .any⟩
/-- R112 of 04_geometry.md. -/
def zoneRefY : Row := ⟨0x5F00, .fixed 64, 0x03, 1, "ZoneRefY", .i32, some .engineer, .int 0, .dated, true, .any⟩
/-- R112 of 04_geometry.md. -/
def zoneRefZ : Row := ⟨0x5F00, .fixed 64, 0x04, 1, "ZoneRefZ", .i32, some .engineer, .int 0, .dated, true, .any⟩
/-- R112 of 04_geometry.md. -/
def zoneName : Row := ⟨0x5F00, .fixed 64, 0x05, 1, "ZoneName", .str, some .engineer, .bytes [], .immediate, true, .maxLen 32⟩
/-- R132 of 04_geometry.md. -/
def soundMode : Row := ⟨0x6100, .fixed 1, 0x01, 1, "SoundMode", .u8, some .engineer, .int 0, .dated, true, .within 0 1⟩
/-- R132 of 04_geometry.md. -/
def speedOfSound : Row := ⟨0x6100, .fixed 1, 0x02, 1, "SpeedOfSound", .u32, some .engineer, .int 22478848, .dated, true, .within 19660800 26214400⟩
/-- R132 of 04_geometry.md. -/
def airTemperature : Row := ⟨0x6100, .fixed 1, 0x03, 1, "AirTemperature", .i32, some .operator, .int 2000, .dated, true, .within (-4000) 6000⟩
/-- R132 of 04_geometry.md. -/
def speedInForce : Row := ⟨0x6100, .fixed 1, 0x04, 1, "SpeedInForce", .u32, none, .int 22478848, .immediate, false, .any⟩
/-- R132 of 04_geometry.md. -/
def soundScale : Row := ⟨0x6100, .fixed 1, 0x05, 1, "SoundScale", .u32, none, .int 2347831977, .immediate, false, .any⟩
/-- R132 of 04_geometry.md. -/
def minDistance : Row := ⟨0x6100, .fixed 1, 0x06, 1, "MinDistance", .u32, some .engineer, .int 16384, .dated, true, .within 16384 655360⟩
/-- R132 of 04_geometry.md. -/
def gainCeil : Row := ⟨0x6100, .fixed 1, 0x07, 1, "GainCeil", .q4_20, some .engineer, .int 4194304, .dated, true, .within 1048576 8388607⟩
/-- R132 of 04_geometry.md. -/
def windowLimit : Row := ⟨0x6100, .fixed 1, 0x08, 1, "WindowLimit", .u13_19, none, .int 4290772992, .const, false, .any⟩
/-- R132 of 04_geometry.md. -/
def geometryBudget : Row := ⟨0x6100, .fixed 1, 0x09, 1, "GeometryBudget", .u32, none, .int 520192, .const, false, .any⟩
/-- R132 of 04_geometry.md. -/
def pipeLoadLast : Row := ⟨0x6100, .fixed 1, 0x0A, 1, "PipeLoadLast", .u32, none, .int 0, .immediate, false, .any⟩
/-- R132 of 04_geometry.md. -/
def pipeLoadPeak : Row := ⟨0x6100, .fixed 1, 0x0B, 1, "PipeLoadPeak", .u32, none, .int 0, .immediate, false, .any⟩
/-- R132 of 04_geometry.md. -/
def lateObjects : Row := ⟨0x6100, .fixed 1, 0x0C, 1, "LateObjects", .u32, none, .int 0, .immediate, false, .any⟩
/-- R132 of 04_geometry.md. -/
def clipEvents : Row := ⟨0x6100, .fixed 1, 0x0D, 1, "ClipEvents", .u32, none, .int 0, .immediate, false, .any⟩
/-- R132 of 04_geometry.md. -/
def refreshAll : Row := ⟨0x6100, .fixed 1, 0x0E, 1, "RefreshAll", .cmd, some .engineer, .bytes [], .immediate, false, .any⟩
/-- R132 of 04_geometry.md. -/
def pipeFaults : Row := ⟨0x6100, .fixed 1, 0x0F, 1, "PipeFaults", .u32, none, .int 0, .immediate, false, .any⟩
/-- R113 of 04_geometry.md. -/
def dirPoint : Row := ⟨0x5A00, .fixed 64, 0x01, 65, "DirPoint", .q4_20, some .engineer, .int 1048576, .dated, true, .within 0 8388607⟩

/-- A piece of the chapter's list. -/
def rowsGeometry0 : List Row := [objectEnable, objectLaw, objectRolloff, objectGain, objectX, objectY, objectZ, objectRefDistance, objectBulkDelay, objectZoneMask, objectSpread, objectDirTable, objectAimX, objectAimY, objectAimZ, objectDelaySlew, objectGainSlew, objectStatus, objectPathMin, objectPathMax]
/-- A piece of the chapter's list. -/
def rowsGeometry1 : List Row := [objectClipCount, speakerEnable, speakerX, speakerY, speakerZ, speakerAimX, speakerAimY, speakerAimZ, speakerZone, speakerTrim, speakerLawMask, speakerName, zoneGain, zoneRefX, zoneRefY, zoneRefZ, zoneName, soundMode, speedOfSound, airTemperature]
/-- A piece of the chapter's list. -/
def rowsGeometry2 : List Row := [speedInForce, soundScale, minDistance, gainCeil, windowLimit, geometryBudget, pipeLoadLast, pipeLoadPeak, lateObjects, clipEvents, refreshAll, pipeFaults, dirPoint]
/-- All the rows of this chapter. -/
def rowsGeometry : List Row := rowsGeometry0 ++ rowsGeometry1 ++ rowsGeometry2

end Sys2Proof.Machine.Reg
end

