-- ==== Sys2Proof/Machine/RegsLocalIo.lean ====
section
/-! DEFINITION. The dictionary entries of 12_local_io.md, one row each, as that chapter's tables define them. -/

namespace Sys2Proof.Machine.Reg

/-- R365 of 12_local_io.md. -/
def tdmRole : Row := ⟨0x9000, .fixed 4, 0x01, 1, "TdmRole", .u8, some .engineer, .int 0, .immediate, true, .within 0 1⟩
/-- R365 of 12_local_io.md. -/
def tdmFormat : Row := ⟨0x9000, .fixed 4, 0x02, 1, "TdmFormat", .u8, some .engineer, .int 2, .immediate, true, .within 0 2⟩
/-- R365 of 12_local_io.md. -/
def tdmRate : Row := ⟨0x9000, .fixed 4, 0x03, 1, "TdmRate", .u32, some .engineer, .int 48000, .immediate, true, .any⟩
/-- R365 of 12_local_io.md. -/
def tdmSlots : Row := ⟨0x9000, .fixed 4, 0x04, 1, "TdmSlots", .u8, some .engineer, .int 0, .immediate, true, .within 0 32⟩
/-- R365 of 12_local_io.md. -/
def tdmSlotBits : Row := ⟨0x9000, .fixed 4, 0x05, 1, "TdmSlotBits", .u8, some .engineer, .int 32, .immediate, true, .among [16, 24, 32]⟩
/-- R365 of 12_local_io.md. -/
def tdmWordBits : Row := ⟨0x9000, .fixed 4, 0x06, 1, "TdmWordBits", .u8, some .engineer, .int 24, .immediate, true, .among [16, 24, 32]⟩
/-- R365 of 12_local_io.md. -/
def tdmFrameBits : Row := ⟨0x9000, .fixed 4, 0x07, 1, "TdmFrameBits", .u16, some .engineer, .int 256, .immediate, true, .any⟩
/-- R365 of 12_local_io.md. -/
def tdmFsyncWidth : Row := ⟨0x9000, .fixed 4, 0x08, 1, "TdmFsyncWidth", .u8, some .engineer, .int 0, .immediate, true, .within 0 2⟩
/-- R365 of 12_local_io.md. -/
def tdmDataDelay : Row := ⟨0x9000, .fixed 4, 0x09, 1, "TdmDataDelay", .u8, some .engineer, .int 1, .immediate, true, .within 0 1⟩
/-- R365 of 12_local_io.md. -/
def tdmBclkInvert : Row := ⟨0x9000, .fixed 4, 0x0A, 1, "TdmBclkInvert", .bool, some .engineer, .int 0, .immediate, true, .any⟩
/-- R365 of 12_local_io.md. -/
def tdmRxMaskPending : Row := ⟨0x9000, .fixed 4, 0x0B, 1, "TdmRxMaskPending", .u32, some .operator, .int 4294967295, .immediate, true, .any⟩
/-- R365 of 12_local_io.md. -/
def tdmRxMaskActive : Row := ⟨0x9000, .fixed 4, 0x0C, 1, "TdmRxMaskActive", .u32, none, .int 4294967295, .immediate, false, .any⟩
/-- R365 of 12_local_io.md. -/
def tdmTxMaskPending : Row := ⟨0x9000, .fixed 4, 0x0D, 1, "TdmTxMaskPending", .u32, some .operator, .int 4294967295, .immediate, true, .any⟩
/-- R365 of 12_local_io.md. -/
def tdmTxMaskActive : Row := ⟨0x9000, .fixed 4, 0x0E, 1, "TdmTxMaskActive", .u32, none, .int 4294967295, .immediate, false, .any⟩
/-- R365 of 12_local_io.md. -/
def tdmTxIdle : Row := ⟨0x9000, .fixed 4, 0x0F, 1, "TdmTxIdle", .u8, some .engineer, .int 0, .immediate, true, .within 0 1⟩
/-- R365 of 12_local_io.md. -/
def tdmInSlots : Row := ⟨0x9000, .fixed 4, 0x10, 1, "TdmInSlots", .blob, some .engineer, .bytes [], .dated, true, .any⟩
/-- R365 of 12_local_io.md. -/
def tdmOutSlots : Row := ⟨0x9000, .fixed 4, 0x11, 1, "TdmOutSlots", .blob, some .engineer, .bytes [], .dated, true, .any⟩
/-- R365 of 12_local_io.md. -/
def tdmPairDrive : Row := ⟨0x9000, .fixed 4, 0x12, 1, "TdmPairDrive", .bool, some .engineer, .int 0, .immediate, true, .any⟩
/-- R365 of 12_local_io.md. -/
def tdmState : Row := ⟨0x9000, .fixed 4, 0x13, 1, "TdmState", .u8, none, .int 0, .immediate, false, .any⟩
/-- R365 of 12_local_io.md. -/
def tdmFrameCount : Row := ⟨0x9000, .fixed 4, 0x14, 1, "TdmFrameCount", .u64, none, .int 0, .immediate, false, .any⟩
/-- R365 of 12_local_io.md. -/
def tdmFrameErrors : Row := ⟨0x9000, .fixed 4, 0x15, 1, "TdmFrameErrors", .u32, none, .int 0, .immediate, false, .any⟩
/-- R365 of 12_local_io.md. -/
def tdmFrameBitsSeen : Row := ⟨0x9000, .fixed 4, 0x16, 1, "TdmFrameBitsSeen", .u16, none, .int 0, .immediate, false, .any⟩
/-- R365 of 12_local_io.md. -/
def tdmOutState : Row := ⟨0x9000, .fixed 4, 0x17, 1, "TdmOutState", .u8, none, .int 0, .immediate, false, .any⟩
/-- R365 of 12_local_io.md. -/
def tdmOutRatio : Row := ⟨0x9000, .fixed 4, 0x18, 1, "TdmOutRatio", .u64, none, .int 0, .immediate, false, .any⟩
/-- R371 of 12_local_io.md. -/
def headsetType : Row := ⟨0x9100, .fixed 1, 0x01, 1, "HeadsetType", .u8, none, .int 0, .immediate, false, .any⟩
/-- R371 of 12_local_io.md. -/
def headsetButton : Row := ⟨0x9100, .fixed 1, 0x02, 1, "HeadsetButton", .bool, none, .int 0, .immediate, false, .any⟩
/-- R371 of 12_local_io.md. -/
def headsetMicOpen : Row := ⟨0x9100, .fixed 1, 0x03, 1, "HeadsetMicOpen", .bool, none, .int 0, .immediate, false, .any⟩
/-- R371 of 12_local_io.md. -/
def headsetMicSlot : Row := ⟨0x9100, .fixed 1, 0x04, 1, "HeadsetMicSlot", .u16, some .engineer, .int 65535, .dated, true, .withinOr 0 4095 65535⟩
/-- R371 of 12_local_io.md. -/
def headsetSlotL : Row := ⟨0x9100, .fixed 1, 0x05, 1, "HeadsetSlotL", .u16, some .engineer, .int 65535, .dated, true, .withinOr 0 4095 65535⟩
/-- R371 of 12_local_io.md. -/
def headsetSlotR : Row := ⟨0x9100, .fixed 1, 0x06, 1, "HeadsetSlotR", .u16, some .engineer, .int 65535, .dated, true, .withinOr 0 4095 65535⟩
/-- R371 of 12_local_io.md. -/
def headsetHpGain : Row := ⟨0x9100, .fixed 1, 0x07, 1, "HeadsetHpGain", .i32, some .operator, .int (-20000), .dated, true, .within (-144000) 0⟩
/-- R371 of 12_local_io.md. -/
def headsetMicGain : Row := ⟨0x9100, .fixed 1, 0x08, 1, "HeadsetMicGain", .i32, some .engineer, .int 0, .immediate, true, .steps 0 42000 3000⟩
/-- R371 of 12_local_io.md. -/
def headsetButtonMode : Row := ⟨0x9100, .fixed 1, 0x09, 1, "HeadsetButtonMode", .u8, some .operator, .int 0, .immediate, true, .within 0 2⟩
/-- R371 of 12_local_io.md. -/
def sideToneGain : Row := ⟨0x9100, .fixed 1, 0x0A, 1, "SideToneGain", .i32, some .operator, .int (-144000), .immediate, true, .within (-144000) 0⟩
/-- R371 of 12_local_io.md. -/
def headsetClips : Row := ⟨0x9100, .fixed 1, 0x0B, 1, "HeadsetClips", .u32, none, .int 0, .immediate, false, .any⟩
/-- R378 of 12_local_io.md. -/
def recorderEnable : Row := ⟨0x9200, .fixed 1, 0x01, 1, "RecorderEnable", .bool, some .engineer, .int 1, .immediate, true, .any⟩
/-- R378 of 12_local_io.md. -/
def recorderState : Row := ⟨0x9200, .fixed 1, 0x02, 1, "RecorderState", .u8, none, .int 0, .immediate, false, .any⟩
/-- R378 of 12_local_io.md. -/
def recorderPostTrigger : Row := ⟨0x9200, .fixed 1, 0x03, 1, "RecorderPostTrigger", .u32, some .engineer, .int 96000, .immediate, true, .any⟩
/-- R378 of 12_local_io.md. -/
def recorderTriggerMask : Row := ⟨0x9200, .fixed 1, 0x04, 1, "RecorderTriggerMask", .u16, some .engineer, .int 32799, .immediate, true, .any⟩
/-- R378 of 12_local_io.md. -/
def recorderCmd : Row := ⟨0x9200, .fixed 1, 0x05, 1, "RecorderCmd", .cmd, some .operator, .bytes [], .immediate, false, .any⟩
/-- R378 of 12_local_io.md. -/
def recorderTriggerDate : Row := ⟨0x9200, .fixed 1, 0x06, 1, "RecorderTriggerDate", .u64, none, .int 0, .immediate, false, .any⟩
/-- R378 of 12_local_io.md. -/
def recorderTriggerCause : Row := ⟨0x9200, .fixed 1, 0x07, 1, "RecorderTriggerCause", .u16, none, .int 0, .immediate, false, .any⟩
/-- R378 of 12_local_io.md. -/
def recorderOldest : Row := ⟨0x9200, .fixed 1, 0x08, 1, "RecorderOldest", .u64, none, .int 0, .immediate, false, .any⟩
/-- R378 of 12_local_io.md. -/
def recorderNewest : Row := ⟨0x9200, .fixed 1, 0x09, 1, "RecorderNewest", .u64, none, .int 0, .immediate, false, .any⟩
/-- R378 of 12_local_io.md. -/
def recorderReadSelect : Row := ⟨0x9200, .fixed 1, 0x0A, 1, "RecorderReadSelect", .u64, some .observer, .int 0, .immediate, false, .any⟩
/-- R378 of 12_local_io.md. -/
def recorderRead : Row := ⟨0x9200, .fixed 1, 0x0B, 1, "RecorderRead", .blob, none, .bytes [], .immediate, false, .any⟩
/-- R378 of 12_local_io.md. -/
def recorderFrozenSources : Row := ⟨0x9200, .fixed 1, 0x0C, 1, "RecorderFrozenSources", .blob, none, .bytes [], .immediate, false, .any⟩
/-- R378 of 12_local_io.md. -/
def recorderGapFrames : Row := ⟨0x9200, .fixed 1, 0x0D, 1, "RecorderGapFrames", .u32, none, .int 0, .immediate, false, .any⟩
/-- R378 of 12_local_io.md. -/
def recorderTriggersMissed : Row := ⟨0x9200, .fixed 1, 0x0E, 1, "RecorderTriggersMissed", .u32, none, .int 0, .immediate, false, .any⟩
/-- R378 of 12_local_io.md. -/
def recorderSamples : Row := ⟨0x9200, .fixed 1, 0x0F, 1, "RecorderSamples", .u32, none, .int 11520000, .const, false, .any⟩
/-- R378 of 12_local_io.md. -/
def recChannel : Row := ⟨0x9210, .fixed 1, 0x01, 64, "RecChannel", .u16, some .engineer, .int 65535, .dated, true, .any⟩

/-- A piece of the chapter's list. -/
def rowsLocalIo0 : List Row := [tdmRole, tdmFormat, tdmRate, tdmSlots, tdmSlotBits, tdmWordBits, tdmFrameBits, tdmFsyncWidth, tdmDataDelay, tdmBclkInvert, tdmRxMaskPending, tdmRxMaskActive, tdmTxMaskPending, tdmTxMaskActive, tdmTxIdle, tdmInSlots, tdmOutSlots, tdmPairDrive, tdmState, tdmFrameCount]
/-- A piece of the chapter's list. -/
def rowsLocalIo1 : List Row := [tdmFrameErrors, tdmFrameBitsSeen, tdmOutState, tdmOutRatio, headsetType, headsetButton, headsetMicOpen, headsetMicSlot, headsetSlotL, headsetSlotR, headsetHpGain, headsetMicGain, headsetButtonMode, sideToneGain, headsetClips, recorderEnable, recorderState, recorderPostTrigger, recorderTriggerMask, recorderCmd]
/-- A piece of the chapter's list. -/
def rowsLocalIo2 : List Row := [recorderTriggerDate, recorderTriggerCause, recorderOldest, recorderNewest, recorderReadSelect, recorderRead, recorderFrozenSources, recorderGapFrames, recorderTriggersMissed, recorderSamples, recChannel]
/-- All the rows of this chapter. -/
def rowsLocalIo : List Row := rowsLocalIo0 ++ rowsLocalIo1 ++ rowsLocalIo2

end Sys2Proof.Machine.Reg
end

