-- ==== Sys2Proof/Machine/RegsMix.lean ====
section
/-! DEFINITION. The dictionary entries of 06_mix_engine.md, one row each, as that chapter's tables define them. -/

namespace Sys2Proof.Machine.Reg

/-- R196 of 06_mix_engine.md. -/
def programmeImage : Row := ⟨0x6800, .fixed 1, 0x01, 1, "ProgrammeImage", .blob, some .engineer, .bytes [], .dated, false, .maxLen 4738884⟩
/-- R196 of 06_mix_engine.md. -/
def programmeCrc : Row := ⟨0x6800, .fixed 1, 0x02, 1, "ProgrammeCrc", .u32, none, .int 0, .immediate, false, .any⟩
/-- R196 of 06_mix_engine.md. -/
def programmeId : Row := ⟨0x6800, .fixed 1, 0x03, 1, "ProgrammeId", .u32, none, .int 0, .immediate, false, .any⟩
/-- R196 of 06_mix_engine.md. -/
def swapStatus : Row := ⟨0x6800, .fixed 1, 0x04, 1, "SwapStatus", .u8, none, .int 0, .immediate, false, .any⟩
/-- R196 of 06_mix_engine.md. -/
def swapDate : Row := ⟨0x6800, .fixed 1, 0x05, 1, "SwapDate", .u64, none, .int 0, .immediate, false, .any⟩
/-- R196 of 06_mix_engine.md. -/
def mixVerifyResult : Row := ⟨0x6800, .fixed 1, 0x06, 1, "MixVerifyResult", .u32, none, .int 0, .immediate, false, .any⟩
/-- R196 of 06_mix_engine.md. -/
def routeCrossfade : Row := ⟨0x6800, .fixed 1, 0x07, 1, "RouteCrossfade", .u16, some .engineer, .int 256, .dated, true, .within 0 32768⟩
/-- R196 of 06_mix_engine.md. -/
def directFeedDelay : Row := ⟨0x6800, .fixed 1, 0x08, 1, "DirectFeedDelay", .u16, none, .int 64, .const, false, .any⟩
/-- R196 of 06_mix_engine.md. -/
def sectionBudgetA : Row := ⟨0x6800, .fixed 1, 0x09, 1, "SectionBudgetA", .u16, none, .int 12272, .const, false, .any⟩
/-- R196 of 06_mix_engine.md. -/
def sectionBudgetB : Row := ⟨0x6800, .fixed 1, 0x0A, 1, "SectionBudgetB", .u16, none, .int 4080, .const, false, .any⟩
/-- R196 of 06_mix_engine.md. -/
def mixSaturations : Row := ⟨0x6800, .fixed 1, 0x0B, 1, "MixSaturations", .u32, none, .int 0, .immediate, false, .any⟩
/-- R196 of 06_mix_engine.md. -/
def mixStoreRejects : Row := ⟨0x6800, .fixed 1, 0x0C, 1, "MixStoreRejects", .u32, none, .int 0, .immediate, false, .any⟩
/-- R196 of 06_mix_engine.md. -/
def mixAddressFaults : Row := ⟨0x6800, .fixed 1, 0x0D, 1, "MixAddressFaults", .u32, none, .int 0, .immediate, false, .any⟩
/-- R196 of 06_mix_engine.md. -/
def routePatch : Row := ⟨0x6800, .fixed 1, 0x0E, 1, "RoutePatch", .blob, some .operator, .bytes [], .dated, false, .maxLen 524292⟩
/-- R196 of 06_mix_engine.md. -/
def routeInterrupted : Row := ⟨0x6800, .fixed 1, 0x0F, 1, "RouteInterrupted", .u32, none, .int 0, .immediate, false, .any⟩
/-- R196 of 06_mix_engine.md. -/
def crossfadeRom : Row := ⟨0x6800, .fixed 1, 0x10, 1, "CrossfadeRom", .blob, none, .bytes [], .const, false, .any⟩
/-- R197 of 06_mix_engine.md. -/
def coreCyclesA : Row := ⟨0x6810, .fixed 8, 0x01, 1, "CoreCyclesA", .u16, none, .int 0, .immediate, false, .any⟩
/-- R197 of 06_mix_engine.md. -/
def coreCyclesB : Row := ⟨0x6810, .fixed 8, 0x02, 1, "CoreCyclesB", .u16, none, .int 0, .immediate, false, .any⟩
/-- R197 of 06_mix_engine.md. -/
def coreCodeLength : Row := ⟨0x6810, .fixed 8, 0x03, 1, "CoreCodeLength", .u16, none, .int 0, .immediate, false, .any⟩
/-- R197 of 06_mix_engine.md. -/
def coreDataLength : Row := ⟨0x6810, .fixed 8, 0x04, 1, "CoreDataLength", .u32, none, .int 0, .immediate, false, .any⟩
/-- R197 of 06_mix_engine.md. -/
def coreResidueErrors : Row := ⟨0x6810, .fixed 8, 0x05, 1, "CoreResidueErrors", .u32, none, .int 0, .immediate, false, .any⟩
/-- R197 of 06_mix_engine.md. -/
def coreEccCorrected : Row := ⟨0x6810, .fixed 8, 0x06, 1, "CoreEccCorrected", .u32, none, .int 0, .immediate, false, .any⟩
/-- R197 of 06_mix_engine.md. -/
def coreEccUncorrected : Row := ⟨0x6810, .fixed 8, 0x07, 1, "CoreEccUncorrected", .u32, none, .int 0, .immediate, false, .any⟩
/-- R197 of 06_mix_engine.md. -/
def coreZeroedTicks : Row := ⟨0x6810, .fixed 8, 0x08, 1, "CoreZeroedTicks", .u32, none, .int 0, .immediate, false, .any⟩
/-- R198 of 06_mix_engine.md. -/
def routeCell : Row := ⟨0x6900, .fixed 256, 0x00, 256, "RouteCell", .u64, some .operator, .int 281470681743360, .dated, false, .any⟩

/-- A piece of the chapter's list. -/
def rowsMix0 : List Row := [programmeImage, programmeCrc, programmeId, swapStatus, swapDate, mixVerifyResult, routeCrossfade, directFeedDelay, sectionBudgetA, sectionBudgetB, mixSaturations, mixStoreRejects, mixAddressFaults, routePatch, routeInterrupted, crossfadeRom, coreCyclesA, coreCyclesB, coreCodeLength, coreDataLength]
/-- A piece of the chapter's list. -/
def rowsMix1 : List Row := [coreResidueErrors, coreEccCorrected, coreEccUncorrected, coreZeroedTicks, routeCell]
/-- All the rows of this chapter. -/
def rowsMix : List Row := rowsMix0 ++ rowsMix1

end Sys2Proof.Machine.Reg
end

