-- ==== Sys2Proof/Machine/RegsPins.lean ====
section
/-! DEFINITION. The dictionary entries of 21_pins_package.md, one row each, as that chapter's tables define them. -/

namespace Sys2Proof.Machine.Reg

/-- R582 of 21_pins_package.md. -/
def carrierIdent : Row := ⟨0x2140, .fixed 1, 0x01, 1, "CarrierIdent", .str, none, .bytes [], .immediate, false, .any⟩
/-- R582 of 21_pins_package.md. -/
def carrierTemp : Row := ⟨0x2140, .fixed 1, 0x02, 1, "CarrierTemp", .i16, none, .int (-32768), .immediate, false, .any⟩
/-- R582 of 21_pins_package.md. -/
def i2cRecoveries : Row := ⟨0x2140, .fixed 1, 0x03, 1, "I2cRecoveries", .u32, none, .int 0, .immediate, false, .any⟩

/-- A piece of the chapter's list. -/
def rowsPins0 : List Row := [carrierIdent, carrierTemp, i2cRecoveries]
/-- All the rows of this chapter. -/
def rowsPins : List Row := rowsPins0

end Sys2Proof.Machine.Reg
end

