-- ==== Sys2Proof/Machine/RegsPorts.lean ====
section
/-! DEFINITION. The dictionary entries of 09_ports_mac.md, one row each, as that chapter's tables define them. -/

namespace Sys2Proof.Machine.Reg

/-- R290 of 09_ports_mac.md. -/
def portEnable : Row := ⟨0x3000, .fixed 5, 0x01, 1, "PortEnable", .bool, some .engineer, .int 1, .immediate, true, .any⟩
/-- R290 of 09_ports_mac.md. -/
def portKind : Row := ⟨0x3000, .fixed 5, 0x02, 1, "PortKind", .u8, none, .byElem [0, 0, 0, 0, 1], .const, false, .any⟩
/-- R290 of 09_ports_mac.md. -/
def macAddress : Row := ⟨0x3000, .fixed 5, 0x03, 1, "MacAddress", .u64, none, .macBlock, .const, false, .any⟩
/-- R290 of 09_ports_mac.md. -/
def speedMode : Row := ⟨0x3000, .fixed 5, 0x04, 1, "SpeedMode", .u8, some .engineer, .int 0, .immediate, true, .any⟩
/-- R290 of 09_ports_mac.md. -/
def fecMode : Row := ⟨0x3000, .fixed 5, 0x05, 1, "FecMode", .u8, some .engineer, .int 0, .immediate, true, .any⟩
/-- R290 of 09_ports_mac.md. -/
def maxFrame : Row := ⟨0x3000, .fixed 5, 0x06, 1, "MaxFrame", .u16, some .engineer, .int 1522, .immediate, true, .within 1518 9216⟩
/-- R290 of 09_ports_mac.md. -/
def linkState : Row := ⟨0x3000, .fixed 5, 0x07, 1, "LinkState", .u8, none, .int 0, .immediate, false, .any⟩
/-- R290 of 09_ports_mac.md. -/
def linkSpeed : Row := ⟨0x3000, .fixed 5, 0x08, 1, "LinkSpeed", .u32, none, .int 0, .immediate, false, .any⟩
/-- R290 of 09_ports_mac.md. -/
def fecInUse : Row := ⟨0x3000, .fixed 5, 0x09, 1, "FecInUse", .u8, none, .int 0, .immediate, false, .any⟩
/-- R290 of 09_ports_mac.md. -/
def sfpState : Row := ⟨0x3000, .fixed 5, 0x0A, 1, "SfpState", .u8, none, .int 0, .immediate, false, .any⟩
/-- R290 of 09_ports_mac.md. -/
def sfpIdent : Row := ⟨0x3000, .fixed 5, 0x0B, 1, "SfpIdent", .str, none, .bytes [], .immediate, false, .any⟩
/-- R290 of 09_ports_mac.md. -/
def sfpNominalRate : Row := ⟨0x3000, .fixed 5, 0x0C, 1, "SfpNominalRate", .u32, none, .int 0, .immediate, false, .any⟩
/-- R290 of 09_ports_mac.md. -/
def sfpTemperature : Row := ⟨0x3000, .fixed 5, 0x0D, 1, "SfpTemperature", .i16, none, .int 0, .immediate, false, .any⟩
/-- R290 of 09_ports_mac.md. -/
def sfpRxPower : Row := ⟨0x3000, .fixed 5, 0x0E, 1, "SfpRxPower", .u16, none, .int 0, .immediate, false, .any⟩
/-- R290 of 09_ports_mac.md. -/
def linkUpDate : Row := ⟨0x3000, .fixed 5, 0x0F, 1, "LinkUpDate", .u64, none, .int 0, .immediate, false, .any⟩
/-- R290 of 09_ports_mac.md. -/
def counterClear : Row := ⟨0x3000, .fixed 5, 0x10, 1, "CounterClear", .cmd, some .engineer, .bytes [], .immediate, false, .any⟩
/-- R290 of 09_ports_mac.md. -/
def portCounter : Row := ⟨0x3100, .fixed 5, 0x01, 48, "PortCounter", .u32, none, .int 0, .immediate, false, .any⟩
/-- R290 of 09_ports_mac.md. -/
def classRule : Row := ⟨0x3200, .fixed 256, 0x01, 1, "ClassRule", .blob, some .engineer, .bytes [], .immediate, true, .any⟩
/-- R290 of 09_ports_mac.md. -/
def classHits : Row := ⟨0x3200, .fixed 256, 0x02, 1, "ClassHits", .u32, none, .int 0, .immediate, false, .any⟩
/-- R291 of 09_ports_mac.md. -/
def macsecMode : Row := ⟨0x3010, .fixed 4, 0x01, 1, "MacsecMode", .u8, some .engineer, .int 0, .immediate, true, .within 0 2⟩
/-- R291 of 09_ports_mac.md. -/
def macsecCkn : Row := ⟨0x3010, .fixed 4, 0x02, 1, "MacsecCkn", .str, some .engineer, .bytes [], .immediate, true, .lenBetween 1 32⟩
/-- R291 of 09_ports_mac.md. -/
def macsecCak : Row := ⟨0x3010, .fixed 4, 0x03, 1, "MacsecCak", .key, some .engineer, .bytes [], .immediate, false, .any⟩
/-- R291 of 09_ports_mac.md. -/
def macsecReplayWindow : Row := ⟨0x3010, .fixed 4, 0x04, 1, "MacsecReplayWindow", .u32, some .engineer, .int 0, .immediate, true, .within 0 64⟩
/-- R291 of 09_ports_mac.md. -/
def macsecState : Row := ⟨0x3010, .fixed 4, 0x05, 1, "MacsecState", .u8, none, .int 0, .immediate, false, .any⟩
/-- R291 of 09_ports_mac.md. -/
def macsecTxAn : Row := ⟨0x3010, .fixed 4, 0x06, 1, "MacsecTxAn", .u8, none, .int 0, .immediate, false, .any⟩
/-- R291 of 09_ports_mac.md. -/
def macsecTxPn : Row := ⟨0x3010, .fixed 4, 0x07, 1, "MacsecTxPn", .u64, none, .int 0, .immediate, false, .any⟩
/-- R291 of 09_ports_mac.md. -/
def macsecPeerSci : Row := ⟨0x3010, .fixed 4, 0x08, 1, "MacsecPeerSci", .u64, none, .int 0, .immediate, false, .any⟩
/-- R291 of 09_ports_mac.md. -/
def mgmtInterface : Row := ⟨0x3018, .fixed 1, 0x01, 1, "MgmtInterface", .u8, some .engineer, .int 0, .reboot, true, .within 0 1⟩
/-- R291 of 09_ports_mac.md. -/
def mgmtPhyAddress : Row := ⟨0x3018, .fixed 1, 0x02, 1, "MgmtPhyAddress", .u8, some .engineer, .int 1, .reboot, true, .within 0 31⟩
/-- R291 of 09_ports_mac.md. -/
def mdioAccess : Row := ⟨0x3018, .fixed 1, 0x03, 1, "MdioAccess", .cmd, some .service, .bytes [], .immediate, false, .any⟩
/-- R291 of 09_ports_mac.md. -/
def mgmtAcceptBroadcast : Row := ⟨0x3018, .fixed 1, 0x04, 1, "MgmtAcceptBroadcast", .bool, some .engineer, .int 1, .immediate, true, .any⟩
/-- R291 of 09_ports_mac.md. -/
def mgmtPromiscuous : Row := ⟨0x3018, .fixed 1, 0x05, 1, "MgmtPromiscuous", .bool, some .service, .int 0, .immediate, false, .any⟩
/-- R291 of 09_ports_mac.md. -/
def mgmtPauseMode : Row := ⟨0x3018, .fixed 1, 0x06, 1, "MgmtPauseMode", .u8, some .engineer, .int 0, .immediate, true, .within 0 2⟩
/-- R291 of 09_ports_mac.md. -/
def pauseSendLimit : Row := ⟨0x3018, .fixed 1, 0x07, 1, "PauseSendLimit", .u32, some .engineer, .int 200000, .immediate, true, .within 10000 10000000⟩
/-- R291 of 09_ports_mac.md. -/
def pauseHonourLimit : Row := ⟨0x3018, .fixed 1, 0x08, 1, "PauseHonourLimit", .u32, some .engineer, .int 500000, .immediate, true, .within 10000 10000000⟩
/-- R291 of 09_ports_mac.md. -/
def mgmtEeeEnable : Row := ⟨0x3018, .fixed 1, 0x09, 1, "MgmtEeeEnable", .bool, some .engineer, .int 0, .immediate, true, .any⟩
/-- R291 of 09_ports_mac.md. -/
def mgmtEeeIdle : Row := ⟨0x3018, .fixed 1, 0x0A, 1, "MgmtEeeIdle", .u32, some .engineer, .int 1000, .immediate, true, .within 100 100000⟩
/-- R291 of 09_ports_mac.md. -/
def mgmtEeeTwOwn : Row := ⟨0x3018, .fixed 1, 0x0B, 1, "MgmtEeeTwOwn", .u16, some .engineer, .int 17, .immediate, true, .within 17 1000⟩
/-- R291 of 09_ports_mac.md. -/
def mgmtEeeTwAgreed : Row := ⟨0x3018, .fixed 1, 0x0C, 1, "MgmtEeeTwAgreed", .u16, none, .int 0, .immediate, false, .any⟩
/-- R291 of 09_ports_mac.md. -/
def mgmtFilterAddr : Row := ⟨0x3018, .fixed 1, 0x10, 8, "MgmtFilterAddr", .u64, some .engineer, .int 0, .immediate, true, .within 0 281474976710655⟩
/-- R291 of 09_ports_mac.md. -/
def rxRingLength : Row := ⟨0x3020, .fixed 16, 0x01, 1, "RxRingLength", .u16, some .engineer, .int 64, .reboot, true, .among [8, 16, 32, 64, 128, 256, 512, 1024, 2048, 4096]⟩
/-- R291 of 09_ports_mac.md. -/
def rxRingBufferSize : Row := ⟨0x3020, .fixed 16, 0x02, 1, "RxRingBufferSize", .u16, some .engineer, .int 2048, .reboot, true, .steps 64 16320 64⟩
/-- R291 of 09_ports_mac.md. -/
def rxRingFree : Row := ⟨0x3020, .fixed 16, 0x03, 1, "RxRingFree", .u16, none, .int 0, .immediate, false, .any⟩
/-- R291 of 09_ports_mac.md. -/
def rxRingFrames : Row := ⟨0x3020, .fixed 16, 0x04, 1, "RxRingFrames", .u32, none, .int 0, .immediate, false, .any⟩
/-- R291 of 09_ports_mac.md. -/
def rxRingExhausted : Row := ⟨0x3020, .fixed 16, 0x05, 1, "RxRingExhausted", .u32, none, .int 0, .immediate, false, .any⟩
/-- R291 of 09_ports_mac.md. -/
def rxRingAborts : Row := ⟨0x3020, .fixed 16, 0x06, 1, "RxRingAborts", .u32, none, .int 0, .immediate, false, .any⟩
/-- R291 of 09_ports_mac.md. -/
def txRingLength : Row := ⟨0x3030, .fixed 16, 0x01, 1, "TxRingLength", .u16, none, .int 64, .const, false, .any⟩
/-- R291 of 09_ports_mac.md. -/
def txRingPending : Row := ⟨0x3030, .fixed 16, 0x02, 1, "TxRingPending", .u16, none, .int 0, .immediate, false, .any⟩
/-- R291 of 09_ports_mac.md. -/
def txRingFrames : Row := ⟨0x3030, .fixed 16, 0x03, 1, "TxRingFrames", .u32, none, .int 0, .immediate, false, .any⟩
/-- R291 of 09_ports_mac.md. -/
def txRingErrors : Row := ⟨0x3030, .fixed 16, 0x04, 1, "TxRingErrors", .u32, none, .int 0, .immediate, false, .any⟩
/-- R291 of 09_ports_mac.md. -/
def captureSelect : Row := ⟨0x3040, .fixed 1, 0x01, 1, "CaptureSelect", .u8, some .observer, .int 12, .immediate, false, .within 12 15⟩
/-- R291 of 09_ports_mac.md. -/
def captureRead : Row := ⟨0x3040, .fixed 1, 0x02, 1, "CaptureRead", .blob, none, .bytes [], .immediate, false, .any⟩
/-- R291 of 09_ports_mac.md. -/
def captureDropped : Row := ⟨0x3040, .fixed 1, 0x03, 1, "CaptureDropped", .u32, none, .int 0, .immediate, false, .any⟩

/-- A piece of the chapter's list. -/
def rowsPorts0 : List Row := [portEnable, portKind, macAddress, speedMode, fecMode, maxFrame, linkState, linkSpeed, fecInUse, sfpState, sfpIdent, sfpNominalRate, sfpTemperature, sfpRxPower, linkUpDate, counterClear, portCounter, classRule, classHits, macsecMode]
/-- A piece of the chapter's list. -/
def rowsPorts1 : List Row := [macsecCkn, macsecCak, macsecReplayWindow, macsecState, macsecTxAn, macsecTxPn, macsecPeerSci, mgmtInterface, mgmtPhyAddress, mdioAccess, mgmtAcceptBroadcast, mgmtPromiscuous, mgmtPauseMode, pauseSendLimit, pauseHonourLimit, mgmtEeeEnable, mgmtEeeIdle, mgmtEeeTwOwn, mgmtEeeTwAgreed, mgmtFilterAddr]
/-- A piece of the chapter's list. -/
def rowsPorts2 : List Row := [rxRingLength, rxRingBufferSize, rxRingFree, rxRingFrames, rxRingExhausted, rxRingAborts, txRingLength, txRingPending, txRingFrames, txRingErrors, captureSelect, captureRead, captureDropped]
/-- All the rows of this chapter. -/
def rowsPorts : List Row := rowsPorts0 ++ rowsPorts1 ++ rowsPorts2

end Sys2Proof.Machine.Reg
end

