-- ==== Sys2Proof/Machine/RegsPower.lean ====
section
/-! DEFINITION. The dictionary entries of 20_power_reset.md, one row each, as that chapter's tables define them. -/

namespace Sys2Proof.Machine.Reg

/-- R567 of 20_power_reset.md. -/
def powerState : Row := ⟨0x2000, .fixed 1, 0x01, 1, "PowerState", .u8, none, .int 3, .immediate, false, .any⟩
/-- R567 of 20_power_reset.md. -/
def showRequest : Row := ⟨0x2000, .fixed 1, 0x02, 1, "ShowRequest", .bool, some .operator, .int 0, .immediate, true, .any⟩
/-- R567 of 20_power_reset.md. -/
def powerStateCmd : Row := ⟨0x2000, .fixed 1, 0x03, 1, "PowerStateCmd", .cmd, some .engineer, .bytes [], .immediate, false, .any⟩
/-- R567 of 20_power_reset.md. -/
def resetCmd : Row := ⟨0x2000, .fixed 1, 0x04, 1, "ResetCmd", .cmd, some .engineer, .bytes [], .immediate, false, .any⟩
/-- R567 of 20_power_reset.md. -/
def resetCause : Row := ⟨0x2000, .fixed 1, 0x05, 1, "ResetCause", .u8, none, .int 0, .immediate, false, .any⟩
/-- R567 of 20_power_reset.md. -/
def resetCount : Row := ⟨0x2000, .fixed 1, 0x06, 1, "ResetCount", .u32, none, .int 0, .immediate, true, .any⟩
/-- R567 of 20_power_reset.md. -/
def lastResetSeconds : Row := ⟨0x2000, .fixed 1, 0x07, 1, "LastResetSeconds", .u64, none, .int 0, .immediate, true, .any⟩
/-- R567 of 20_power_reset.md. -/
def bootTime : Row := ⟨0x2000, .fixed 1, 0x08, 1, "BootTime", .u32, none, .int 0, .immediate, false, .any⟩
/-- R567 of 20_power_reset.md. -/
def startupTime : Row := ⟨0x2000, .fixed 1, 0x09, 1, "StartupTime", .u32, none, .int 0, .immediate, false, .any⟩
/-- R567 of 20_power_reset.md. -/
def faultCause : Row := ⟨0x2000, .fixed 1, 0x0A, 1, "FaultCause", .u32, none, .int 0, .immediate, false, .any⟩
/-- R567 of 20_power_reset.md. -/
def faultAutoReset : Row := ⟨0x2000, .fixed 1, 0x0B, 1, "FaultAutoReset", .bool, some .engineer, .int 1, .immediate, true, .any⟩
/-- R567 of 20_power_reset.md. -/
def faultRestartDelay : Row := ⟨0x2000, .fixed 1, 0x0C, 1, "FaultRestartDelay", .u32, some .engineer, .int 5000, .immediate, true, .within 1000 600000⟩
/-- R567 of 20_power_reset.md. -/
def faultRestartLimit : Row := ⟨0x2000, .fixed 1, 0x0D, 1, "FaultRestartLimit", .u8, some .engineer, .int 3, .immediate, true, .within 1 10⟩
/-- R567 of 20_power_reset.md. -/
def faultRestarts : Row := ⟨0x2000, .fixed 1, 0x0E, 1, "FaultRestarts", .u32, none, .int 0, .immediate, true, .any⟩
/-- R567 of 20_power_reset.md. -/
def quietHold : Row := ⟨0x2000, .fixed 1, 0x0F, 1, "QuietHold", .bool, none, .int 0, .immediate, false, .any⟩
/-- R567 of 20_power_reset.md. -/
def strapBootSel : Row := ⟨0x2000, .fixed 1, 0x10, 1, "StrapBootSel", .bool, none, .int 0, .immediate, false, .any⟩
/-- R567 of 20_power_reset.md. -/
def wakeLevel : Row := ⟨0x2000, .fixed 1, 0x11, 1, "WakeLevel", .bool, none, .int 0, .immediate, false, .any⟩
/-- R567 of 20_power_reset.md. -/
def offseasonEntries : Row := ⟨0x2000, .fixed 1, 0x12, 1, "OffseasonEntries", .u32, none, .int 0, .immediate, true, .any⟩
/-- R567 of 20_power_reset.md. -/
def vinTrips : Row := ⟨0x2000, .fixed 1, 0x13, 1, "VinTrips", .u32, none, .int 0, .immediate, true, .any⟩
/-- R567 of 20_power_reset.md. -/
def railTrips : Row := ⟨0x2000, .fixed 1, 0x14, 1, "RailTrips", .u32, none, .int 0, .immediate, true, .any⟩

/-- A piece of the chapter's list. -/
def rowsPower0 : List Row := [powerState, showRequest, powerStateCmd, resetCmd, resetCause, resetCount, lastResetSeconds, bootTime, startupTime, faultCause, faultAutoReset, faultRestartDelay, faultRestartLimit, faultRestarts, quietHold, strapBootSel, wakeLevel, offseasonEntries, vinTrips, railTrips]
/-- All the rows of this chapter. -/
def rowsPower : List Row := rowsPower0

end Sys2Proof.Machine.Reg
end

