-- ==== Sys2Proof/Machine/RegsRedundancy.lean ====
section
/-! DEFINITION. The dictionary entries of 15_redundancy.md, one row each, as that chapter's tables define them. -/

namespace Sys2Proof.Machine.Reg

/-- R454 of 15_redundancy.md. -/
def pairState : Row := ⟨0x8000, .fixed 1, 0x01, 1, "PairState", .u8, none, .int 1, .immediate, false, .any⟩
/-- R454 of 15_redundancy.md. -/
def pairPresent : Row := ⟨0x8000, .fixed 1, 0x02, 1, "PairPresent", .bool, none, .int 0, .immediate, false, .any⟩
/-- R454 of 15_redundancy.md. -/
def rolePref : Row := ⟨0x8000, .fixed 1, 0x03, 1, "RolePref", .bool, none, .int 0, .immediate, false, .any⟩
/-- R454 of 15_redundancy.md. -/
def partnerSerial : Row := ⟨0x8000, .fixed 1, 0x04, 1, "PartnerSerial", .str, none, .bytes [], .immediate, false, .any⟩
/-- R454 of 15_redundancy.md. -/
def partnerHealth : Row := ⟨0x8000, .fixed 1, 0x05, 1, "PartnerHealth", .u32, none, .int 0, .immediate, false, .any⟩
/-- R454 of 15_redundancy.md. -/
def handoverCmd : Row := ⟨0x8000, .fixed 1, 0x06, 1, "HandoverCmd", .cmd, some .engineer, .bytes [], .immediate, false, .any⟩
/-- R454 of 15_redundancy.md. -/
def pairFormTimeout : Row := ⟨0x8000, .fixed 1, 0x07, 1, "PairFormTimeout", .u16, some .engineer, .int 5000, .immediate, true, .within 1000 60000⟩
/-- R454 of 15_redundancy.md. -/
def inputHandoverHoldoff : Row := ⟨0x8000, .fixed 1, 0x08, 1, "InputHandoverHoldoff", .u32, some .engineer, .int 10000, .immediate, true, .within 1000 600000⟩
/-- R454 of 15_redundancy.md. -/
def catchupLimit : Row := ⟨0x8000, .fixed 1, 0x09, 1, "CatchupLimit", .u32, some .engineer, .int 30000, .immediate, true, .within 5000 600000⟩
/-- R454 of 15_redundancy.md. -/
def catchupStage : Row := ⟨0x8000, .fixed 1, 0x0A, 1, "CatchupStage", .u8, none, .int 0, .immediate, false, .any⟩
/-- R454 of 15_redundancy.md. -/
def historyHorizon : Row := ⟨0x8000, .fixed 1, 0x0B, 1, "HistoryHorizon", .u32, none, .int 0, .immediate, false, .any⟩
/-- R454 of 15_redundancy.md. -/
def mirrorStale : Row := ⟨0x8000, .fixed 1, 0x0C, 1, "MirrorStale", .bool, none, .int 0, .immediate, false, .any⟩
/-- R454 of 15_redundancy.md. -/
def pairDigest : Row := ⟨0x8000, .fixed 1, 0x0D, 1, "PairDigest", .blob, none, .bytes [], .immediate, false, .any⟩
/-- R454 of 15_redundancy.md. -/
def leadSince : Row := ⟨0x8000, .fixed 1, 0x0E, 1, "LeadSince", .u64, none, .int 0, .immediate, false, .any⟩
/-- R454 of 15_redundancy.md. -/
def takeovers : Row := ⟨0x8000, .fixed 1, 0x0F, 1, "Takeovers", .u32, none, .int 0, .immediate, false, .any⟩
/-- R454 of 15_redundancy.md. -/
def handovers : Row := ⟨0x8000, .fixed 1, 0x10, 1, "Handovers", .u32, none, .int 0, .immediate, false, .any⟩
/-- R454 of 15_redundancy.md. -/
def tracingMismatches : Row := ⟨0x8010, .fixed 1, 0x01, 1, "TracingMismatches", .u32, none, .int 0, .immediate, false, .any⟩
/-- R454 of 15_redundancy.md. -/
def tracingGaps : Row := ⟨0x8010, .fixed 1, 0x02, 1, "TracingGaps", .u32, none, .int 0, .immediate, false, .any⟩
/-- R454 of 15_redundancy.md. -/
def agreeRun : Row := ⟨0x8010, .fixed 1, 0x03, 1, "AgreeRun", .u32, none, .int 0, .immediate, false, .any⟩
/-- R454 of 15_redundancy.md. -/
def lastMismatchBlock : Row := ⟨0x8010, .fixed 1, 0x04, 1, "LastMismatchBlock", .u64, none, .int 0, .immediate, false, .any⟩
/-- R454 of 15_redundancy.md. -/
def auditState : Row := ⟨0x8020, .fixed 1, 0x01, 1, "AuditState", .u8, none, .int 0, .immediate, false, .any⟩
/-- R454 of 15_redundancy.md. -/
def auditLast : Row := ⟨0x8020, .fixed 1, 0x02, 1, "AuditLast", .u32, none, .int 0, .immediate, false, .any⟩
/-- R454 of 15_redundancy.md. -/
def auditCount : Row := ⟨0x8020, .fixed 1, 0x03, 1, "AuditCount", .u32, none, .int 0, .immediate, false, .any⟩
/-- R454 of 15_redundancy.md. -/
def auditUnattributed : Row := ⟨0x8020, .fixed 1, 0x04, 1, "AuditUnattributed", .u32, none, .int 0, .immediate, false, .any⟩
/-- R454 of 15_redundancy.md. -/
def patrolErrors : Row := ⟨0x8020, .fixed 1, 0x05, 1, "PatrolErrors", .u32, none, .int 0, .immediate, false, .any⟩
/-- R454 of 15_redundancy.md. -/
def ilkOut : Row := ⟨0x8030, .fixed 1, 0x01, 1, "IlkOut", .bool, none, .int 0, .immediate, false, .any⟩
/-- R454 of 15_redundancy.md. -/
def ilkIn : Row := ⟨0x8030, .fixed 1, 0x02, 1, "IlkIn", .bool, none, .int 0, .immediate, false, .any⟩
/-- R454 of 15_redundancy.md. -/
def ilkGate : Row := ⟨0x8030, .fixed 1, 0x03, 1, "IlkGate", .bool, none, .int 0, .immediate, false, .any⟩
/-- R454 of 15_redundancy.md. -/
def ilkCollisions : Row := ⟨0x8030, .fixed 1, 0x04, 1, "IlkCollisions", .u32, none, .int 0, .immediate, false, .any⟩
/-- R454 of 15_redundancy.md. -/
def ilkInconsistent : Row := ⟨0x8030, .fixed 1, 0x05, 1, "IlkInconsistent", .u32, none, .int 0, .immediate, false, .any⟩

/-- A piece of the chapter's list. -/
def rowsRedundancy0 : List Row := [pairState, pairPresent, rolePref, partnerSerial, partnerHealth, handoverCmd, pairFormTimeout, inputHandoverHoldoff, catchupLimit, catchupStage, historyHorizon, mirrorStale, pairDigest, leadSince, takeovers, handovers, tracingMismatches, tracingGaps, agreeRun, lastMismatchBlock]
/-- A piece of the chapter's list. -/
def rowsRedundancy1 : List Row := [auditState, auditLast, auditCount, auditUnattributed, patrolErrors, ilkOut, ilkIn, ilkGate, ilkCollisions, ilkInconsistent]
/-- All the rows of this chapter. -/
def rowsRedundancy : List Row := rowsRedundancy0 ++ rowsRedundancy1

end Sys2Proof.Machine.Reg
end

