-- ==== Sys2Proof/Machine/RegsRender.lean ====
section
/-! DEFINITION. The dictionary entries of 05_render_core.md, one row each, as that chapter's tables define them. -/

namespace Sys2Proof.Machine.Reg

/-- R160 of 05_render_core.md. -/
def xpPatch : Row := ⟨0x6200, .fixed 1, 0x01, 1, "XpPatch", .blob, some .operator, .bytes [], .dated, false, .maxLen 1048584⟩
/-- R160 of 05_render_core.md. -/
def xpReadSelect : Row := ⟨0x6200, .fixed 1, 0x02, 1, "XpReadSelect", .u64, some .observer, .int 0, .immediate, false, .any⟩
/-- R160 of 05_render_core.md. -/
def xpRead : Row := ⟨0x6200, .fixed 1, 0x03, 1, "XpRead", .blob, none, .bytes [], .immediate, false, .any⟩
/-- R160 of 05_render_core.md. -/
def xpPatchesIgnored : Row := ⟨0x6200, .fixed 1, 0x04, 1, "XpPatchesIgnored", .u32, none, .int 0, .immediate, false, .any⟩
/-- R160 of 05_render_core.md. -/
def xpPatchSteps : Row := ⟨0x6200, .fixed 1, 0x05, 1, "XpPatchSteps", .u32, none, .int 0, .immediate, false, .any⟩
/-- R167 of 05_render_core.md. -/
def windowSamples : Row := ⟨0x6000, .fixed 1, 0x0C, 1, "WindowSamples", .u16, none, .int 8192, .const, false, .any⟩
/-- R167 of 05_render_core.md. -/
def slotsPerRink : Row := ⟨0x6000, .fixed 1, 0x0D, 1, "SlotsPerRink", .u16, none, .int 128, .const, false, .any⟩
/-- R167 of 05_render_core.md. -/
def bulkRingSamples : Row := ⟨0x6000, .fixed 1, 0x0E, 1, "BulkRingSamples", .u32, none, .int 262144, .const, false, .any⟩
/-- R167 of 05_render_core.md. -/
def renderLoadLast : Row := ⟨0x6000, .fixed 1, 0x0F, 1, "RenderLoadLast", .u16, none, .int 0, .immediate, false, .any⟩
/-- R167 of 05_render_core.md. -/
def renderLoadPeak : Row := ⟨0x6000, .fixed 1, 0x10, 1, "RenderLoadPeak", .u16, none, .int 0, .immediate, false, .any⟩
/-- R167 of 05_render_core.md. -/
def outputSaturations : Row := ⟨0x6000, .fixed 1, 0x11, 1, "OutputSaturations", .u32, none, .int 0, .immediate, false, .any⟩
/-- R167 of 05_render_core.md. -/
def zeroedBlocks : Row := ⟨0x6000, .fixed 1, 0x12, 1, "ZeroedBlocks", .u32, none, .int 0, .immediate, false, .any⟩
/-- R167 of 05_render_core.md. -/
def bulkUnderruns : Row := ⟨0x6000, .fixed 1, 0x13, 1, "BulkUnderruns", .u32, none, .int 0, .immediate, false, .any⟩
/-- R167 of 05_render_core.md. -/
def interpRom : Row := ⟨0x6000, .fixed 1, 0x14, 1, "InterpRom", .blob, none, .bytes [], .const, false, .any⟩
/-- R167 of 05_render_core.md. -/
def loadPeakClear : Row := ⟨0x6000, .fixed 1, 0x15, 1, "LoadPeakClear", .cmd, some .engineer, .bytes [], .immediate, false, .any⟩
/-- R168 of 05_render_core.md. -/
def rinkPartition : Row := ⟨0x6300, .fixed 16, 0x01, 1, "RinkPartition", .u8, none, .int 0, .const, false, .any⟩
/-- R168 of 05_render_core.md. -/
def rinkObjects : Row := ⟨0x6300, .fixed 16, 0x02, 1, "RinkObjects", .u16, none, .int 0, .immediate, false, .any⟩
/-- R168 of 05_render_core.md. -/
def rinkActiveLast : Row := ⟨0x6300, .fixed 16, 0x03, 1, "RinkActiveLast", .u32, none, .int 0, .immediate, false, .any⟩
/-- R168 of 05_render_core.md. -/
def rinkCyclesLast : Row := ⟨0x6300, .fixed 16, 0x04, 1, "RinkCyclesLast", .u32, none, .int 0, .immediate, false, .any⟩
/-- R168 of 05_render_core.md. -/
def rinkCyclesPeak : Row := ⟨0x6300, .fixed 16, 0x05, 1, "RinkCyclesPeak", .u32, none, .int 0, .immediate, false, .any⟩
/-- R168 of 05_render_core.md. -/
def rinkResidueErrors : Row := ⟨0x6300, .fixed 16, 0x06, 1, "RinkResidueErrors", .u32, none, .int 0, .immediate, false, .any⟩
/-- R168 of 05_render_core.md. -/
def rinkEccCorrected : Row := ⟨0x6300, .fixed 16, 0x07, 1, "RinkEccCorrected", .u32, none, .int 0, .immediate, false, .any⟩
/-- R168 of 05_render_core.md. -/
def rinkEccUncorrected : Row := ⟨0x6300, .fixed 16, 0x08, 1, "RinkEccUncorrected", .u32, none, .int 0, .immediate, false, .any⟩
/-- R168 of 05_render_core.md. -/
def rinkZeroedBlocks : Row := ⟨0x6300, .fixed 16, 0x09, 1, "RinkZeroedBlocks", .u32, none, .int 0, .immediate, false, .any⟩
/-- R168 of 05_render_core.md. -/
def rinkWindowWaits : Row := ⟨0x6300, .fixed 16, 0x0A, 1, "RinkWindowWaits", .u32, none, .int 0, .immediate, false, .any⟩
/-- R168 of 05_render_core.md. -/
def rinkBulkUnderruns : Row := ⟨0x6300, .fixed 16, 0x0B, 1, "RinkBulkUnderruns", .u32, none, .int 0, .immediate, false, .any⟩

/-- A piece of the chapter's list. -/
def rowsRender0 : List Row := [xpPatch, xpReadSelect, xpRead, xpPatchesIgnored, xpPatchSteps, windowSamples, slotsPerRink, bulkRingSamples, renderLoadLast, renderLoadPeak, outputSaturations, zeroedBlocks, bulkUnderruns, interpRom, loadPeakClear, rinkPartition, rinkObjects, rinkActiveLast, rinkCyclesLast, rinkCyclesPeak]
/-- A piece of the chapter's list. -/
def rowsRender1 : List Row := [rinkResidueErrors, rinkEccCorrected, rinkEccUncorrected, rinkZeroedBlocks, rinkWindowWaits, rinkBulkUnderruns]
/-- All the rows of this chapter. -/
def rowsRender : List Row := rowsRender0 ++ rowsRender1

end Sys2Proof.Machine.Reg
end

