-- ==== Sys2Proof/Machine/RegsSeason.lean ====
section
/-! DEFINITION. The dictionary entries of 19_season_test.md, one row each, as that chapter's tables define them. -/

namespace Sys2Proof.Machine.Reg

/-- R545 of 19_season_test.md. -/
def seasonLifeUsed : Row := ⟨0xA800, .fixed 1, 0x01, 1, "SeasonLifeUsed", .u32, none, .int 0, .immediate, true, .any⟩
/-- R545 of 19_season_test.md. -/
def seasonEquivalent : Row := ⟨0xA800, .fixed 1, 0x02, 1, "SeasonEquivalent", .u64, none, .int 0, .immediate, true, .any⟩
/-- R545 of 19_season_test.md. -/
def seasonPoweredTime : Row := ⟨0xA800, .fixed 1, 0x03, 1, "SeasonPoweredTime", .u64, none, .int 0, .immediate, true, .any⟩
/-- R545 of 19_season_test.md. -/
def seasonRatedLife : Row := ⟨0xA800, .fixed 1, 0x04, 1, "SeasonRatedLife", .u32, none, .int 87660, .const, false, .any⟩
/-- R545 of 19_season_test.md. -/
def seasonRemainingDays : Row := ⟨0xA800, .fixed 1, 0x05, 1, "SeasonRemainingDays", .u32, none, .int 4294967295, .immediate, false, .any⟩
/-- R545 of 19_season_test.md. -/
def seasonPeriod : Row := ⟨0xA800, .fixed 1, 0x06, 1, "SeasonPeriod", .u32, some .engineer, .int 600, .immediate, true, .within 60 3600⟩
/-- R545 of 19_season_test.md. -/
def vcoreBase : Row := ⟨0xA800, .fixed 1, 0x07, 1, "VcoreBase", .u16, none, .moduleConst, .const, false, .any⟩
/-- R545 of 19_season_test.md. -/
def vcorePlanSteps : Row := ⟨0xA800, .fixed 1, 0x08, 1, "VcorePlanSteps", .u8, none, .int 0, .immediate, true, .any⟩
/-- R545 of 19_season_test.md. -/
def vcoreTarget : Row := ⟨0xA800, .fixed 1, 0x09, 1, "VcoreTarget", .u16, none, .int 0, .immediate, false, .any⟩
/-- R545 of 19_season_test.md. -/
def vcorePending : Row := ⟨0xA800, .fixed 1, 0x0A, 1, "VcorePending", .u8, none, .int 0, .immediate, false, .any⟩
/-- R545 of 19_season_test.md. -/
def sliceRequest : Row := ⟨0xA800, .fixed 1, 0x0B, 1, "SliceRequest", .bool, none, .int 0, .immediate, true, .any⟩
/-- R545 of 19_season_test.md. -/
def seasonCmd : Row := ⟨0xA800, .fixed 1, 0x0C, 1, "SeasonCmd", .cmd, some .service, .bytes [], .immediate, false, .any⟩
/-- R545 of 19_season_test.md. -/
def seasonHistory : Row := ⟨0xA800, .fixed 1, 0x0D, 1, "SeasonHistory", .blob, none, .bytes [], .immediate, false, .any⟩
/-- R545 of 19_season_test.md. -/
def canaryShift : Row := ⟨0xA810, .fixed 64, 0x01, 1, "CanaryShift", .i16, none, .int 0, .immediate, false, .any⟩
/-- R545 of 19_season_test.md. -/
def canaryShiftMax : Row := ⟨0xA810, .fixed 64, 0x02, 1, "CanaryShiftMax", .i16, none, .int 0, .immediate, true, .any⟩
/-- R545 of 19_season_test.md. -/
def refreshFloor : Row := ⟨0xA860, .fixed 4, 0x01, 1, "RefreshFloor", .u8, none, .int 1, .immediate, true, .any⟩
/-- R545 of 19_season_test.md. -/
def eqEyeWidth : Row := ⟨0xA870, .fixed 11, 0x01, 1, "EqEyeWidth", .u16, none, .int 0, .immediate, false, .any⟩
/-- R545 of 19_season_test.md. -/
def eqEyeHeight : Row := ⟨0xA870, .fixed 11, 0x02, 1, "EqEyeHeight", .u16, none, .int 0, .immediate, false, .any⟩
/-- R545 of 19_season_test.md. -/
def eqEyeWidthMin : Row := ⟨0xA870, .fixed 11, 0x03, 1, "EqEyeWidthMin", .u16, none, .int 65535, .immediate, true, .any⟩
/-- R545 of 19_season_test.md. -/
def eqStartValid : Row := ⟨0xA870, .fixed 11, 0x04, 1, "EqStartValid", .bool, none, .int 0, .immediate, true, .any⟩
/-- R546 of 19_season_test.md. -/
def selfTestCmd : Row := ⟨0xB000, .fixed 1, 0x01, 1, "SelfTestCmd", .cmd, some .engineer, .bytes [], .immediate, false, .any⟩
/-- R546 of 19_season_test.md. -/
def selfTestState : Row := ⟨0xB000, .fixed 1, 0x02, 1, "SelfTestState", .u8, none, .int 0, .immediate, false, .any⟩
/-- R546 of 19_season_test.md. -/
def selfTestResult : Row := ⟨0xB000, .fixed 1, 0x03, 1, "SelfTestResult", .u32, none, .int 0, .immediate, false, .any⟩
/-- R546 of 19_season_test.md. -/
def checkerTestPeriod : Row := ⟨0xB000, .fixed 1, 0x04, 1, "CheckerTestPeriod", .u32, some .engineer, .int 1000, .immediate, true, .within 100 10000⟩
/-- R546 of 19_season_test.md. -/
def checkerTests : Row := ⟨0xB000, .fixed 1, 0x05, 1, "CheckerTests", .u32, none, .int 0, .immediate, false, .any⟩
/-- R546 of 19_season_test.md. -/
def checkerFailures : Row := ⟨0xB000, .fixed 1, 0x06, 1, "CheckerFailures", .u32, none, .int 0, .immediate, true, .any⟩
/-- R546 of 19_season_test.md. -/
def perturbCmd : Row := ⟨0xB100, .fixed 1, 0x01, 1, "PerturbCmd", .cmd, some .service, .bytes [], .immediate, false, .any⟩
/-- R546 of 19_season_test.md. -/
def perturbTimeout : Row := ⟨0xB100, .fixed 1, 0x02, 1, "PerturbTimeout", .u32, some .service, .int 60000, .immediate, false, .within 1000 3600000⟩
/-- R546 of 19_season_test.md. -/
def perturbArmed : Row := ⟨0xB100, .fixed 1, 0x03, 1, "PerturbArmed", .u8, none, .int 0, .immediate, false, .any⟩
/-- R546 of 19_season_test.md. -/
def perturbApplied : Row := ⟨0xB100, .fixed 1, 0x04, 1, "PerturbApplied", .u32, none, .int 0, .immediate, false, .any⟩
/-- R546 of 19_season_test.md. -/
def perturbSlot : Row := ⟨0xB110, .fixed 8, 0x01, 1, "PerturbSlot", .blob, some .service, .bytes [], .immediate, false, .any⟩
/-- R546 of 19_season_test.md. -/
def perturbSlotState : Row := ⟨0xB110, .fixed 8, 0x02, 1, "PerturbSlotState", .u8, none, .int 0, .immediate, false, .any⟩

/-- A piece of the chapter's list. -/
def rowsSeason0 : List Row := [seasonLifeUsed, seasonEquivalent, seasonPoweredTime, seasonRatedLife, seasonRemainingDays, seasonPeriod, vcoreBase, vcorePlanSteps, vcoreTarget, vcorePending, sliceRequest, seasonCmd, seasonHistory, canaryShift, canaryShiftMax, refreshFloor, eqEyeWidth, eqEyeHeight, eqEyeWidthMin, eqStartValid]
/-- A piece of the chapter's list. -/
def rowsSeason1 : List Row := [selfTestCmd, selfTestState, selfTestResult, checkerTestPeriod, checkerTests, checkerFailures, perturbCmd, perturbTimeout, perturbArmed, perturbApplied, perturbSlot, perturbSlotState]
/-- All the rows of this chapter. -/
def rowsSeason : List Row := rowsSeason0 ++ rowsSeason1

end Sys2Proof.Machine.Reg
end

