-- ==== Sys2Proof/Machine/RegsSecurity.lean ====
section
/-! DEFINITION. The dictionary entries of 18_security_update.md, one row each, as that chapter's tables define them. -/

namespace Sys2Proof.Machine.Reg

/-- R529 of 18_security_update.md. -/
def certifiedMode : Row := ⟨0x2300, .fixed 1, 0x01, 1, "CertifiedMode", .bool, some .service, .int 0, .reboot, true, .any⟩
/-- R529 of 18_security_update.md. -/
def certifiedState : Row := ⟨0x2300, .fixed 1, 0x02, 1, "CertifiedState", .u8, none, .int 0, .immediate, false, .any⟩
/-- R529 of 18_security_update.md. -/
def certifiedGaps : Row := ⟨0x2300, .fixed 1, 0x03, 1, "CertifiedGaps", .u32, none, .int 0, .immediate, false, .any⟩
/-- R529 of 18_security_update.md. -/
def deviceKey : Row := ⟨0x2300, .fixed 1, 0x04, 1, "DeviceKey", .key, none, .bytes [], .const, false, .any⟩
/-- R529 of 18_security_update.md. -/
def deviceCertificate : Row := ⟨0x2300, .fixed 1, 0x05, 1, "DeviceCertificate", .blob, none, .bytes [], .const, false, .any⟩
/-- R529 of 18_security_update.md. -/
def commissioningOpen : Row := ⟨0x2300, .fixed 1, 0x06, 1, "CommissioningOpen", .bool, none, .int 1, .immediate, false, .any⟩
/-- R529 of 18_security_update.md. -/
def revokedCerts : Row := ⟨0x2300, .fixed 1, 0x07, 1, "RevokedCerts", .blob, some .engineer, .bytes [], .immediate, true, .maxLen 3072⟩
/-- R529 of 18_security_update.md. -/
def authFailures : Row := ⟨0x2300, .fixed 1, 0x08, 1, "AuthFailures", .u32, none, .int 0, .immediate, false, .any⟩
/-- R529 of 18_security_update.md. -/
def keyErase : Row := ⟨0x2300, .fixed 1, 0x09, 1, "KeyErase", .cmd, some .engineer, .bytes [], .immediate, false, .any⟩
/-- R529 of 18_security_update.md. -/
def jtagState : Row := ⟨0x2300, .fixed 1, 0x0A, 1, "JtagState", .u8, none, .int 0, .immediate, false, .any⟩
/-- R529 of 18_security_update.md. -/
def jtagUnlock : Row := ⟨0x2300, .fixed 1, 0x0B, 1, "JtagUnlock", .cmd, some .vendor, .bytes [], .immediate, false, .any⟩
/-- R529 of 18_security_update.md. -/
def trustAnchor : Row := ⟨0x2310, .fixed 4, 0x01, 1, "TrustAnchor", .key, some .engineer, .bytes [], .immediate, false, .any⟩
/-- R529 of 18_security_update.md. -/
def trustAnchorRole : Row := ⟨0x2310, .fixed 4, 0x02, 1, "TrustAnchorRole", .u8, some .engineer, .int 3, .immediate, true, .within 0 3⟩
/-- R529 of 18_security_update.md. -/
def vendorAnchor : Row := ⟨0x2314, .fixed 1, 0x01, 1, "VendorAnchor", .key, none, .bytes [], .const, false, .any⟩
/-- R529 of 18_security_update.md. -/
def updateImage : Row := ⟨0x2400, .fixed 1, 0x01, 1, "UpdateImage", .blob, some .engineer, .bytes [], .immediate, false, .maxLen 10485760⟩
/-- R529 of 18_security_update.md. -/
def updateCmd : Row := ⟨0x2400, .fixed 1, 0x02, 1, "UpdateCmd", .cmd, some .engineer, .bytes [], .immediate, false, .any⟩
/-- R529 of 18_security_update.md. -/
def updateVerifyResult : Row := ⟨0x2400, .fixed 1, 0x03, 1, "UpdateVerifyResult", .u32, none, .int 0, .immediate, false, .any⟩
/-- R529 of 18_security_update.md. -/
def rollbackCounter : Row := ⟨0x2400, .fixed 1, 0x04, 1, "RollbackCounter", .u32, none, .int 0, .immediate, true, .any⟩
/-- R529 of 18_security_update.md. -/
def runningSlot : Row := ⟨0x2400, .fixed 1, 0x05, 1, "RunningSlot", .u8, none, .int 0, .immediate, false, .any⟩
/-- R529 of 18_security_update.md. -/
def confirmDelay : Row := ⟨0x2400, .fixed 1, 0x06, 1, "ConfirmDelay", .u32, some .engineer, .int 60000, .immediate, true, .within 10000 600000⟩
/-- R529 of 18_security_update.md. -/
def firmwareKeyRevoked : Row := ⟨0x2400, .fixed 1, 0x07, 1, "FirmwareKeyRevoked", .u8, none, .int 0, .immediate, false, .any⟩
/-- R529 of 18_security_update.md. -/
def slotState : Row := ⟨0x2410, .fixed 2, 0x01, 1, "SlotState", .u8, none, .int 0, .immediate, false, .any⟩
/-- R529 of 18_security_update.md. -/
def slotVersion : Row := ⟨0x2410, .fixed 2, 0x02, 1, "SlotVersion", .u32, none, .int 0, .immediate, false, .any⟩
/-- R529 of 18_security_update.md. -/
def slotSecurityVersion : Row := ⟨0x2410, .fixed 2, 0x03, 1, "SlotSecurityVersion", .u32, none, .int 0, .immediate, false, .any⟩
/-- R529 of 18_security_update.md. -/
def slotDigest : Row := ⟨0x2410, .fixed 2, 0x04, 1, "SlotDigest", .blob, none, .bytes [], .immediate, false, .any⟩
/-- R529 of 18_security_update.md. -/
def slotBoots : Row := ⟨0x2410, .fixed 2, 0x05, 1, "SlotBoots", .u32, none, .int 0, .immediate, true, .any⟩

/-- A piece of the chapter's list. -/
def rowsSecurity0 : List Row := [certifiedMode, certifiedState, certifiedGaps, deviceKey, deviceCertificate, commissioningOpen, revokedCerts, authFailures, keyErase, jtagState, jtagUnlock, trustAnchor, trustAnchorRole, vendorAnchor, updateImage, updateCmd, updateVerifyResult, rollbackCounter, runningSlot, confirmDelay]
/-- A piece of the chapter's list. -/
def rowsSecurity1 : List Row := [firmwareKeyRevoked, slotState, slotVersion, slotSecurityVersion, slotDigest, slotBoots]
/-- All the rows of this chapter. -/
def rowsSecurity : List Row := rowsSecurity0 ++ rowsSecurity1

end Sys2Proof.Machine.Reg
end

