-- ==== Sys2Proof/Machine/RegsSram.lean ====
section
/-! DEFINITION. The dictionary entries of 14_sram.md, one row each, as that chapter's tables define them. -/

namespace Sys2Proof.Machine.Reg

/-- R422 of 14_sram.md. -/
def sramBanks : Row := ⟨0xA100, .fixed 1, 0x01, 1, "SramBanks", .u16, none, .int 2560, .const, false, .any⟩
/-- R422 of 14_sram.md. -/
def sramBankSize : Row := ⟨0xA100, .fixed 1, 0x02, 1, "SramBankSize", .u32, none, .int 65536, .const, false, .any⟩
/-- R422 of 14_sram.md. -/
def sramEccCorrected : Row := ⟨0xA100, .fixed 1, 0x03, 1, "SramEccCorrected", .u32, none, .int 0, .immediate, false, .any⟩
/-- R422 of 14_sram.md. -/
def sramEccUncorrected : Row := ⟨0xA100, .fixed 1, 0x04, 1, "SramEccUncorrected", .u32, none, .int 0, .immediate, false, .any⟩
/-- R422 of 14_sram.md. -/
def sramScrubPeriod : Row := ⟨0xA100, .fixed 1, 0x05, 1, "SramScrubPeriod", .u32, some .engineer, .int 1000, .immediate, true, .within 100 60000⟩
/-- R422 of 14_sram.md. -/
def sramScrubPasses : Row := ⟨0xA100, .fixed 1, 0x06, 1, "SramScrubPasses", .u32, none, .int 0, .immediate, false, .any⟩
/-- R422 of 14_sram.md. -/
def sramScrubLate : Row := ⟨0xA100, .fixed 1, 0x07, 1, "SramScrubLate", .u32, none, .int 0, .immediate, false, .any⟩
/-- R422 of 14_sram.md. -/
def banksOn : Row := ⟨0xA100, .fixed 1, 0x08, 1, "BanksOn", .u16, none, .int 2560, .immediate, false, .any⟩
/-- R422 of 14_sram.md. -/
def banksRetention : Row := ⟨0xA100, .fixed 1, 0x09, 1, "BanksRetention", .u16, none, .int 0, .immediate, false, .any⟩
/-- R422 of 14_sram.md. -/
def banksOff : Row := ⟨0xA100, .fixed 1, 0x0A, 1, "BanksOff", .u16, none, .int 0, .immediate, false, .any⟩
/-- R422 of 14_sram.md. -/
def sramBankMap : Row := ⟨0xA100, .fixed 1, 0x0B, 1, "SramBankMap", .blob, none, .bytes [], .immediate, false, .any⟩
/-- R422 of 14_sram.md. -/
def sramRepairMap : Row := ⟨0xA100, .fixed 1, 0x0C, 1, "SramRepairMap", .blob, none, .bytes [], .immediate, false, .any⟩
/-- R422 of 14_sram.md. -/
def marchCmd : Row := ⟨0xA100, .fixed 1, 0x0D, 1, "MarchCmd", .cmd, some .service, .bytes [], .immediate, false, .any⟩
/-- R422 of 14_sram.md. -/
def marchState : Row := ⟨0xA100, .fixed 1, 0x0E, 1, "MarchState", .u8, none, .int 0, .immediate, false, .any⟩
/-- R422 of 14_sram.md. -/
def marchFailures : Row := ⟨0xA100, .fixed 1, 0x0F, 1, "MarchFailures", .u32, none, .int 0, .immediate, false, .any⟩
/-- R422 of 14_sram.md. -/
def marchRepairs : Row := ⟨0xA100, .fixed 1, 0x10, 1, "MarchRepairs", .u16, none, .int 0, .immediate, false, .any⟩
/-- R422 of 14_sram.md. -/
def repairPending : Row := ⟨0xA100, .fixed 1, 0x11, 1, "RepairPending", .u16, none, .int 0, .immediate, false, .any⟩
/-- R422 of 14_sram.md. -/
def startupMarchTime : Row := ⟨0xA100, .fixed 1, 0x12, 1, "StartupMarchTime", .u32, none, .int 0, .immediate, false, .any⟩

/-- A piece of the chapter's list. -/
def rowsSram0 : List Row := [sramBanks, sramBankSize, sramEccCorrected, sramEccUncorrected, sramScrubPeriod, sramScrubPasses, sramScrubLate, banksOn, banksRetention, banksOff, sramBankMap, sramRepairMap, marchCmd, marchState, marchFailures, marchRepairs, repairPending, startupMarchTime]
/-- All the rows of this chapter. -/
def rowsSram : List Row := rowsSram0

end Sys2Proof.Machine.Reg
end

