-- ==== Sys2Proof/Machine/RegsStreams.lean ====
section
/-! DEFINITION. The dictionary entries of 10_streams.md, one row each, as that chapter's tables define them. -/

namespace Sys2Proof.Machine.Reg

/-- R317 of 10_streams.md. -/
def flowsMax : Row := ⟨0x3300, .fixed 1, 0x01, 1, "FlowsMax", .u16, none, .int 1024, .const, false, .any⟩
/-- R317 of 10_streams.md. -/
def dualPathMax : Row := ⟨0x3300, .fixed 1, 0x02, 1, "DualPathMax", .u16, none, .int 128, .const, false, .any⟩
/-- R317 of 10_streams.md. -/
def rxDualInUse : Row := ⟨0x3300, .fixed 1, 0x03, 1, "RxDualInUse", .u16, none, .int 0, .immediate, false, .any⟩
/-- R317 of 10_streams.md. -/
def txDualInUse : Row := ⟨0x3300, .fixed 1, 0x04, 1, "TxDualInUse", .u16, none, .int 0, .immediate, false, .any⟩
/-- R317 of 10_streams.md. -/
def rxTimeout : Row := ⟨0x3300, .fixed 1, 0x05, 1, "RxTimeout", .u16, some .engineer, .int 100, .immediate, true, .within 10 10000⟩
/-- R317 of 10_streams.md. -/
def flowBufferSamples : Row := ⟨0x3300, .fixed 1, 0x06, 1, "FlowBufferSamples", .u16, none, .int 512, .const, false, .any⟩
/-- R317 of 10_streams.md. -/
def rxLostTotal : Row := ⟨0x3300, .fixed 1, 0x07, 1, "RxLostTotal", .u32, none, .int 0, .immediate, false, .any⟩
/-- R317 of 10_streams.md. -/
def txLoad : Row := ⟨0x3300, .fixed 1, 0x08, 1, "TxLoad", .u32, none, .int 0, .immediate, false, .any⟩
/-- R318 of 10_streams.md. -/
def rxEnable : Row := ⟨0x3400, .fixed 1024, 0x01, 1, "RxEnable", .bool, some .engineer, .int 0, .dated, true, .any⟩
/-- R318 of 10_streams.md. -/
def rxGroup : Row := ⟨0x3400, .fixed 1024, 0x02, 1, "RxGroup", .u32, some .engineer, .int 0, .dated, true, .any⟩
/-- R318 of 10_streams.md. -/
def rxSourceFilter : Row := ⟨0x3400, .fixed 1024, 0x03, 1, "RxSourceFilter", .u32, some .engineer, .int 0, .dated, true, .any⟩
/-- R318 of 10_streams.md. -/
def rxUdpPort : Row := ⟨0x3400, .fixed 1024, 0x04, 1, "RxUdpPort", .u16, some .engineer, .int 5004, .dated, true, .within 1 65535⟩
/-- R318 of 10_streams.md. -/
def rxPort : Row := ⟨0x3400, .fixed 1024, 0x05, 1, "RxPort", .u8, some .engineer, .int 0, .dated, true, .within 0 3⟩
/-- R318 of 10_streams.md. -/
def rxSecondPort : Row := ⟨0x3400, .fixed 1024, 0x06, 1, "RxSecondPort", .u8, some .engineer, .int 255, .dated, true, .withinOr 0 3 255⟩
/-- R318 of 10_streams.md. -/
def rxVlan : Row := ⟨0x3400, .fixed 1024, 0x07, 1, "RxVlan", .u16, some .engineer, .int 0, .dated, true, .within 0 4094⟩
/-- R318 of 10_streams.md. -/
def rxChannels : Row := ⟨0x3400, .fixed 1024, 0x08, 1, "RxChannels", .u8, some .engineer, .int 0, .dated, true, .within 0 64⟩
/-- R318 of 10_streams.md. -/
def rxEncoding : Row := ⟨0x3400, .fixed 1024, 0x09, 1, "RxEncoding", .u8, some .engineer, .int 1, .dated, true, .within 0 1⟩
/-- R318 of 10_streams.md. -/
def rxRate : Row := ⟨0x3400, .fixed 1024, 0x0A, 1, "RxRate", .u32, some .engineer, .int 96000, .dated, true, .among [44100, 48000, 88200, 96000]⟩
/-- R318 of 10_streams.md. -/
def rxPacketTime : Row := ⟨0x3400, .fixed 1024, 0x0B, 1, "RxPacketTime", .u16, some .engineer, .int 125, .dated, true, .among [125, 250, 1000]⟩
/-- R318 of 10_streams.md. -/
def rxPayloadType : Row := ⟨0x3400, .fixed 1024, 0x0C, 1, "RxPayloadType", .u8, some .engineer, .int 97, .dated, true, .within 96 127⟩
/-- R318 of 10_streams.md. -/
def rxRtpOffset : Row := ⟨0x3400, .fixed 1024, 0x0D, 1, "RxRtpOffset", .u32, some .engineer, .int 0, .dated, true, .any⟩
/-- R318 of 10_streams.md. -/
def rxLinkOffset : Row := ⟨0x3400, .fixed 1024, 0x0E, 1, "RxLinkOffset", .u32, some .engineer, .int 96, .dated, true, .any⟩
/-- R318 of 10_streams.md. -/
def rxSlotsA : Row := ⟨0x3400, .fixed 1024, 0x10, 1, "RxSlotsA", .blob, some .engineer, .bytes [], .immediate, true, .any⟩
/-- R318 of 10_streams.md. -/
def rxSlotsB : Row := ⟨0x3400, .fixed 1024, 0x11, 1, "RxSlotsB", .blob, some .engineer, .bytes [], .immediate, true, .any⟩
/-- R318 of 10_streams.md. -/
def rxBank : Row := ⟨0x3400, .fixed 1024, 0x12, 1, "RxBank", .u8, some .engineer, .int 0, .dated, true, .within 0 1⟩
/-- R318 of 10_streams.md. -/
def rxState : Row := ⟨0x3400, .fixed 1024, 0x13, 1, "RxState", .u8, none, .int 0, .immediate, false, .any⟩
/-- R318 of 10_streams.md. -/
def rxPathState : Row := ⟨0x3400, .fixed 1024, 0x14, 1, "RxPathState", .u8, none, .int 0, .immediate, false, .any⟩
/-- R318 of 10_streams.md. -/
def rxPackets : Row := ⟨0x3400, .fixed 1024, 0x15, 1, "RxPackets", .u32, none, .int 0, .immediate, false, .any⟩
/-- R318 of 10_streams.md. -/
def rxLost : Row := ⟨0x3400, .fixed 1024, 0x16, 1, "RxLost", .u32, none, .int 0, .immediate, false, .any⟩
/-- R318 of 10_streams.md. -/
def rxLate : Row := ⟨0x3400, .fixed 1024, 0x17, 1, "RxLate", .u32, none, .int 0, .immediate, false, .any⟩
/-- R318 of 10_streams.md. -/
def rxEarly : Row := ⟨0x3400, .fixed 1024, 0x18, 1, "RxEarly", .u32, none, .int 0, .immediate, false, .any⟩
/-- R318 of 10_streams.md. -/
def rxMalformed : Row := ⟨0x3400, .fixed 1024, 0x19, 1, "RxMalformed", .u32, none, .int 0, .immediate, false, .any⟩
/-- R318 of 10_streams.md. -/
def rxDuplicates : Row := ⟨0x3400, .fixed 1024, 0x1A, 1, "RxDuplicates", .u32, none, .int 0, .immediate, false, .any⟩
/-- R318 of 10_streams.md. -/
def rxSsrc : Row := ⟨0x3400, .fixed 1024, 0x1B, 1, "RxSsrc", .u32, none, .int 0, .immediate, false, .any⟩
/-- R318 of 10_streams.md. -/
def rxMarginMin : Row := ⟨0x3400, .fixed 1024, 0x1C, 1, "RxMarginMin", .i32, none, .int 2147483647, .immediate, false, .any⟩
/-- R318 of 10_streams.md. -/
def rxMarginClear : Row := ⟨0x3400, .fixed 1024, 0x1D, 1, "RxMarginClear", .cmd, some .operator, .bytes [], .immediate, false, .any⟩
/-- R318 of 10_streams.md. -/
def txEnable : Row := ⟨0x3400, .fixed 1024, 0x41, 1, "TxEnable", .bool, some .engineer, .int 0, .dated, true, .any⟩
/-- R318 of 10_streams.md. -/
def txGroup : Row := ⟨0x3400, .fixed 1024, 0x42, 1, "TxGroup", .u32, some .engineer, .int 0, .dated, true, .any⟩
/-- R318 of 10_streams.md. -/
def txSourceIp : Row := ⟨0x3400, .fixed 1024, 0x43, 1, "TxSourceIp", .u32, some .engineer, .int 0, .dated, true, .any⟩
/-- R318 of 10_streams.md. -/
def txUdpPort : Row := ⟨0x3400, .fixed 1024, 0x44, 1, "TxUdpPort", .u16, some .engineer, .int 5004, .dated, true, .within 1 65535⟩
/-- R318 of 10_streams.md. -/
def txPort : Row := ⟨0x3400, .fixed 1024, 0x45, 1, "TxPort", .u8, some .engineer, .int 0, .dated, true, .within 0 3⟩
/-- R318 of 10_streams.md. -/
def txSecondPort : Row := ⟨0x3400, .fixed 1024, 0x46, 1, "TxSecondPort", .u8, some .engineer, .int 255, .dated, true, .withinOr 0 3 255⟩
/-- R318 of 10_streams.md. -/
def txVlan : Row := ⟨0x3400, .fixed 1024, 0x47, 1, "TxVlan", .u16, some .engineer, .int 0, .dated, true, .within 0 4094⟩
/-- R318 of 10_streams.md. -/
def txDscp : Row := ⟨0x3400, .fixed 1024, 0x48, 1, "TxDscp", .u8, some .engineer, .int 34, .dated, true, .within 0 63⟩
/-- R318 of 10_streams.md. -/
def txTtl : Row := ⟨0x3400, .fixed 1024, 0x49, 1, "TxTtl", .u8, some .engineer, .int 16, .dated, true, .within 1 255⟩
/-- R318 of 10_streams.md. -/
def txChannels : Row := ⟨0x3400, .fixed 1024, 0x4A, 1, "TxChannels", .u8, some .engineer, .int 0, .dated, true, .within 0 64⟩
/-- R318 of 10_streams.md. -/
def txEncoding : Row := ⟨0x3400, .fixed 1024, 0x4B, 1, "TxEncoding", .u8, some .engineer, .int 1, .dated, true, .within 0 1⟩
/-- R318 of 10_streams.md. -/
def txPacketTime : Row := ⟨0x3400, .fixed 1024, 0x4C, 1, "TxPacketTime", .u16, some .engineer, .int 125, .dated, true, .among [125, 250, 1000]⟩
/-- R318 of 10_streams.md. -/
def txPayloadType : Row := ⟨0x3400, .fixed 1024, 0x4D, 1, "TxPayloadType", .u8, some .engineer, .int 97, .dated, true, .within 96 127⟩
/-- R318 of 10_streams.md. -/
def txRtpOffset : Row := ⟨0x3400, .fixed 1024, 0x4E, 1, "TxRtpOffset", .u32, some .engineer, .int 0, .dated, true, .any⟩
/-- R318 of 10_streams.md. -/
def txSsrc : Row := ⟨0x3400, .fixed 1024, 0x4F, 1, "TxSsrc", .u32, some .engineer, .elemPlus 0x4A540000, .dated, true, .any⟩
/-- R318 of 10_streams.md. -/
def txSlotsA : Row := ⟨0x3400, .fixed 1024, 0x50, 1, "TxSlotsA", .blob, some .engineer, .bytes [], .immediate, true, .any⟩
/-- R318 of 10_streams.md. -/
def txSlotsB : Row := ⟨0x3400, .fixed 1024, 0x51, 1, "TxSlotsB", .blob, some .engineer, .bytes [], .immediate, true, .any⟩
/-- R318 of 10_streams.md. -/
def txBank : Row := ⟨0x3400, .fixed 1024, 0x52, 1, "TxBank", .u8, some .engineer, .int 0, .dated, true, .within 0 1⟩
/-- R318 of 10_streams.md. -/
def txState : Row := ⟨0x3400, .fixed 1024, 0x53, 1, "TxState", .u8, none, .int 0, .immediate, false, .any⟩
/-- R318 of 10_streams.md. -/
def txPackets : Row := ⟨0x3400, .fixed 1024, 0x54, 1, "TxPackets", .u32, none, .int 0, .immediate, false, .any⟩
/-- R318 of 10_streams.md. -/
def txFlowDrops : Row := ⟨0x3400, .fixed 1024, 0x55, 1, "TxFlowDrops", .u32, none, .int 0, .immediate, false, .any⟩

/-- A piece of the chapter's list. -/
def rowsStreams0 : List Row := [flowsMax, dualPathMax, rxDualInUse, txDualInUse, rxTimeout, flowBufferSamples, rxLostTotal, txLoad, rxEnable, rxGroup, rxSourceFilter, rxUdpPort, rxPort, rxSecondPort, rxVlan, rxChannels, rxEncoding, rxRate, rxPacketTime, rxPayloadType]
/-- A piece of the chapter's list. -/
def rowsStreams1 : List Row := [rxRtpOffset, rxLinkOffset, rxSlotsA, rxSlotsB, rxBank, rxState, rxPathState, rxPackets, rxLost, rxLate, rxEarly, rxMalformed, rxDuplicates, rxSsrc, rxMarginMin, rxMarginClear, txEnable, txGroup, txSourceIp, txUdpPort]
/-- A piece of the chapter's list. -/
def rowsStreams2 : List Row := [txPort, txSecondPort, txVlan, txDscp, txTtl, txChannels, txEncoding, txPacketTime, txPayloadType, txRtpOffset, txSsrc, txSlotsA, txSlotsB, txBank, txState, txPackets, txFlowDrops]
/-- All the rows of this chapter. -/
def rowsStreams : List Row := rowsStreams0 ++ rowsStreams1 ++ rowsStreams2

end Sys2Proof.Machine.Reg
end

