-- ==== Sys2Proof/Machine/RegsSupervisor.lean ====
section
/-! DEFINITION. The dictionary entries of 17_supervisor.md, one row each, as that chapter's tables define them. -/

namespace Sys2Proof.Machine.Reg

/-- R504 of 17_supervisor.md. -/
def supervisorClock : Row := ⟨0x2100, .fixed 1, 0x01, 1, "SupervisorClock", .u32, none, .int 786432000, .const, false, .any⟩
/-- R504 of 17_supervisor.md. -/
def lockstepFaults : Row := ⟨0x2100, .fixed 1, 0x02, 1, "LockstepFaults", .u32, none, .int 0, .immediate, true, .any⟩
/-- R504 of 17_supervisor.md. -/
def lastLockstep : Row := ⟨0x2100, .fixed 1, 0x03, 1, "LastLockstep", .blob, none, .bytes [], .immediate, false, .any⟩
/-- R504 of 17_supervisor.md. -/
def supervisorCacheRefetch : Row := ⟨0x2100, .fixed 1, 0x04, 1, "SupervisorCacheRefetch", .u32, none, .int 0, .immediate, false, .any⟩
/-- R504 of 17_supervisor.md. -/
def remapState : Row := ⟨0x2100, .fixed 1, 0x05, 1, "RemapState", .bool, none, .int 1, .immediate, false, .any⟩
/-- R504 of 17_supervisor.md. -/
def fabricSliceMask : Row := ⟨0x2100, .fixed 1, 0x06, 1, "FabricSliceMask", .u8, some .service, .int 0, .reboot, true, .any⟩
/-- R504 of 17_supervisor.md. -/
def busErrors : Row := ⟨0x2100, .fixed 1, 0x07, 1, "BusErrors", .u32, none, .int 0, .immediate, false, .any⟩
/-- R504 of 17_supervisor.md. -/
def lastBusError : Row := ⟨0x2100, .fixed 1, 0x08, 1, "LastBusError", .u64, none, .int 0, .immediate, true, .any⟩
/-- R504 of 17_supervisor.md. -/
def watchdogResets : Row := ⟨0x2100, .fixed 1, 0x09, 1, "WatchdogResets", .u32, none, .int 0, .immediate, true, .any⟩
/-- R504 of 17_supervisor.md. -/
def lastWatchdog : Row := ⟨0x2100, .fixed 1, 0x0A, 1, "LastWatchdog", .u32, none, .int 0, .immediate, true, .any⟩
/-- R504 of 17_supervisor.md. -/
def supervisorLoad : Row := ⟨0x2100, .fixed 1, 0x0B, 1, "SupervisorLoad", .u16, none, .int 0, .immediate, false, .any⟩
/-- R504 of 17_supervisor.md. -/
def supervisorPeek : Row := ⟨0x2100, .fixed 1, 0x0C, 1, "SupervisorPeek", .cmd, some .service, .bytes [], .immediate, false, .any⟩
/-- R504 of 17_supervisor.md. -/
def sensorValue : Row := ⟨0x2110, .fixed 13, 0x01, 1, "SensorValue", .i32, none, .int 0, .immediate, false, .any⟩
/-- R504 of 17_supervisor.md. -/
def sensorWarnLow : Row := ⟨0x2110, .fixed 13, 0x02, 1, "SensorWarnLow", .i32, some .engineer, .byElem [noLimitLow, noLimitLow, noLimitLow, noLimitLow, noLimitLow, noLimitLow, 9500, noLimitLow, noLimitLow, 1020, 3135, noLimitLow, noLimitLow], .immediate, true, .any⟩
/-- R504 of 17_supervisor.md. -/
def sensorWarnHigh : Row := ⟨0x2110, .fixed 13, 0x03, 1, "SensorWarnHigh", .i32, some .engineer, .byCode [11500, 10500, 8500, 10500, 9500, 9000, 58000, 4200, noLimitHigh, 1080, 3465, 450, 34000] [11500, 10500, 9500, 10500, 9500, 9000, 58000, 4200, noLimitHigh, 1080, 3465, 450, 34000], .immediate, true, .any⟩
/-- R504 of 17_supervisor.md. -/
def sensorFaultLow : Row := ⟨0x2110, .fixed 13, 0x04, 1, "SensorFaultLow", .i32, none, .byElem [noLimitLow, noLimitLow, noLimitLow, noLimitLow, noLimitLow, noLimitLow, noLimitLow, noLimitLow, noLimitLow, 998, 2970, noLimitLow, noLimitLow], .const, false, .any⟩
/-- R504 of 17_supervisor.md. -/
def sensorFaultHigh : Row := ⟨0x2110, .fixed 13, 0x05, 1, "SensorFaultHigh", .i32, none, .byCode [12500, noLimitHigh, 9500, 12000, 10500, noLimitHigh, noLimitHigh, noLimitHigh, noLimitHigh, 1103, 3630, 600, noLimitHigh] [12500, noLimitHigh, 10500, 12000, 10500, noLimitHigh, noLimitHigh, noLimitHigh, noLimitHigh, 1103, 3630, 600, noLimitHigh], .const, false, .any⟩
/-- R504 of 17_supervisor.md. -/
def sensorMin : Row := ⟨0x2110, .fixed 13, 0x06, 1, "SensorMin", .i32, none, .int 2147483647, .immediate, false, .any⟩
/-- R504 of 17_supervisor.md. -/
def sensorMax : Row := ⟨0x2110, .fixed 13, 0x07, 1, "SensorMax", .i32, none, .int (-2147483648), .immediate, false, .any⟩
/-- R504 of 17_supervisor.md. -/
def sensorState : Row := ⟨0x2110, .fixed 13, 0x08, 1, "SensorState", .u8, none, .int 0, .immediate, false, .any⟩
/-- R504 of 17_supervisor.md. -/
def fanMode : Row := ⟨0x2120, .fixed 1, 0x01, 1, "FanMode", .u8, some .engineer, .int 0, .immediate, true, .within 0 1⟩
/-- R504 of 17_supervisor.md. -/
def fanDuty : Row := ⟨0x2120, .fixed 1, 0x02, 1, "FanDuty", .u16, some .engineer, .int 1000, .immediate, true, .within 0 1000⟩
/-- R504 of 17_supervisor.md. -/
def fanMinDuty : Row := ⟨0x2120, .fixed 1, 0x03, 1, "FanMinDuty", .u16, some .engineer, .int 200, .immediate, true, .within 0 1000⟩
/-- R504 of 17_supervisor.md. -/
def fanTempLow : Row := ⟨0x2120, .fixed 1, 0x04, 1, "FanTempLow", .i32, some .engineer, .int 4000, .immediate, true, .any⟩
/-- R504 of 17_supervisor.md. -/
def fanTempHigh : Row := ⟨0x2120, .fixed 1, 0x05, 1, "FanTempHigh", .i32, some .engineer, .int 7500, .immediate, true, .any⟩
/-- R504 of 17_supervisor.md. -/
def fanRpm : Row := ⟨0x2120, .fixed 1, 0x06, 1, "FanRpm", .u16, none, .int 0, .immediate, false, .any⟩
/-- R504 of 17_supervisor.md. -/
def fanStallRpm : Row := ⟨0x2120, .fixed 1, 0x07, 1, "FanStallRpm", .u16, some .engineer, .int 500, .immediate, true, .any⟩
/-- R504 of 17_supervisor.md. -/
def fanDutyNow : Row := ⟨0x2120, .fixed 1, 0x08, 1, "FanDutyNow", .u16, none, .int 1000, .immediate, false, .any⟩
/-- R504 of 17_supervisor.md. -/
def alertMask : Row := ⟨0x2130, .fixed 1, 0x01, 1, "AlertMask", .u16, some .engineer, .int 1, .immediate, true, .any⟩
/-- R504 of 17_supervisor.md. -/
def alertCauses : Row := ⟨0x2130, .fixed 1, 0x02, 1, "AlertCauses", .u16, none, .int 0, .immediate, false, .any⟩
/-- R504 of 17_supervisor.md. -/
def logRecords : Row := ⟨0x2200, .fixed 1, 0x01, 1, "LogRecords", .u32, none, .int 131072, .const, false, .any⟩
/-- R504 of 17_supervisor.md. -/
def logNewest : Row := ⟨0x2200, .fixed 1, 0x02, 1, "LogNewest", .u32, none, .int 0, .immediate, false, .any⟩
/-- R504 of 17_supervisor.md. -/
def logOldest : Row := ⟨0x2200, .fixed 1, 0x03, 1, "LogOldest", .u32, none, .int 0, .immediate, false, .any⟩
/-- R504 of 17_supervisor.md. -/
def logReadSelect : Row := ⟨0x2200, .fixed 1, 0x04, 1, "LogReadSelect", .u64, some .observer, .int 0, .immediate, false, .any⟩
/-- R504 of 17_supervisor.md. -/
def logRead : Row := ⟨0x2200, .fixed 1, 0x05, 1, "LogRead", .blob, none, .bytes [], .immediate, false, .any⟩
/-- R504 of 17_supervisor.md. -/
def logFind : Row := ⟨0x2200, .fixed 1, 0x06, 1, "LogFind", .cmd, some .observer, .bytes [], .immediate, false, .any⟩
/-- R504 of 17_supervisor.md. -/
def logClear : Row := ⟨0x2200, .fixed 1, 0x07, 1, "LogClear", .cmd, some .service, .bytes [], .immediate, false, .any⟩
/-- R504 of 17_supervisor.md. -/
def logLost : Row := ⟨0x2200, .fixed 1, 0x08, 1, "LogLost", .u32, none, .int 0, .immediate, true, .any⟩
/-- R504 of 17_supervisor.md. -/
def logFifoPeak : Row := ⟨0x2200, .fixed 1, 0x09, 1, "LogFifoPeak", .u16, none, .int 0, .immediate, false, .any⟩

/-- A piece of the chapter's list. -/
def rowsSupervisor0 : List Row := [supervisorClock, lockstepFaults, lastLockstep, supervisorCacheRefetch, remapState, fabricSliceMask, busErrors, lastBusError, watchdogResets, lastWatchdog, supervisorLoad, supervisorPeek, sensorValue, sensorWarnLow, sensorWarnHigh, sensorFaultLow, sensorFaultHigh, sensorMin, sensorMax, sensorState]
/-- A piece of the chapter's list. -/
def rowsSupervisor1 : List Row := [fanMode, fanDuty, fanMinDuty, fanTempLow, fanTempHigh, fanRpm, fanStallRpm, fanDutyNow, alertMask, alertCauses, logRecords, logNewest, logOldest, logReadSelect, logRead, logFind, logClear, logLost, logFifoPeak]
/-- All the rows of this chapter. -/
def rowsSupervisor : List Row := rowsSupervisor0 ++ rowsSupervisor1

end Sys2Proof.Machine.Reg
end

