-- ==== Sys2Proof/Machine/RegsTime.lean ====
section
/-! DEFINITION. The dictionary entries of 11_time_clocks.md, one row each, as that chapter's tables define them. -/

namespace Sys2Proof.Machine.Reg

/-- R349 of 11_time_clocks.md. -/
def timeMode : Row := ⟨0x3800, .fixed 1, 0x01, 1, "TimeMode", .u8, none, .int 0, .immediate, false, .any⟩
/-- R349 of 11_time_clocks.md. -/
def frcNow : Row := ⟨0x3800, .fixed 1, 0x02, 1, "FrcNow", .u64, none, .int 0, .immediate, false, .any⟩
/-- R349 of 11_time_clocks.md. -/
def almanacSeconds : Row := ⟨0x3800, .fixed 1, 0x03, 1, "AlmanacSeconds", .u64, none, .int 0, .immediate, false, .any⟩
/-- R349 of 11_time_clocks.md. -/
def almanacNanoseconds : Row := ⟨0x3800, .fixed 1, 0x04, 1, "AlmanacNanoseconds", .u32, none, .int 0, .immediate, false, .any⟩
/-- R349 of 11_time_clocks.md. -/
def increment : Row := ⟨0x3800, .fixed 1, 0x05, 1, "Increment", .u64, none, .int 5461333333, .immediate, false, .any⟩
/-- R349 of 11_time_clocks.md. -/
def mscAligned : Row := ⟨0x3800, .fixed 1, 0x06, 1, "MscAligned", .bool, none, .int 0, .immediate, false, .any⟩
/-- R349 of 11_time_clocks.md. -/
def mscError : Row := ⟨0x3800, .fixed 1, 0x07, 1, "MscError", .i32, none, .int 0, .immediate, false, .any⟩
/-- R349 of 11_time_clocks.md. -/
def alignTimeout : Row := ⟨0x3800, .fixed 1, 0x08, 1, "AlignTimeout", .u16, some .engineer, .int 5000, .immediate, true, .within 500 60000⟩
/-- R349 of 11_time_clocks.md. -/
def realignLimit : Row := ⟨0x3800, .fixed 1, 0x09, 1, "RealignLimit", .u32, some .engineer, .int 1000000, .immediate, true, .within 10000 1000000000⟩
/-- R349 of 11_time_clocks.md. -/
def realignCmd : Row := ⟨0x3800, .fixed 1, 0x0A, 1, "RealignCmd", .cmd, some .engineer, .bytes [], .immediate, false, .any⟩
/-- R349 of 11_time_clocks.md. -/
def timeSet : Row := ⟨0x3800, .fixed 1, 0x0B, 1, "TimeSet", .cmd, some .service, .bytes [], .immediate, false, .any⟩
/-- R349 of 11_time_clocks.md. -/
def timeTestMode : Row := ⟨0x3800, .fixed 1, 0x0C, 1, "TimeTestMode", .bool, some .service, .int 0, .immediate, false, .any⟩
/-- R349 of 11_time_clocks.md. -/
def savedTime : Row := ⟨0x3800, .fixed 1, 0x0D, 1, "SavedTime", .u64, none, .int 0, .immediate, true, .any⟩
/-- R349 of 11_time_clocks.md. -/
def sourcePriority : Row := ⟨0x3810, .fixed 1, 0x01, 6, "SourcePriority", .u8, some .engineer, .bySub [1, 6, 4, 2, 3, 5], .immediate, true, .within 0 6⟩
/-- R349 of 11_time_clocks.md. -/
def selectedSource : Row := ⟨0x3810, .fixed 1, 0x07, 1, "SelectedSource", .u8, none, .int 0, .immediate, false, .any⟩
/-- R349 of 11_time_clocks.md. -/
def dpllState : Row := ⟨0x3810, .fixed 1, 0x08, 1, "DpllState", .u8, none, .int 0, .immediate, false, .any⟩
/-- R349 of 11_time_clocks.md. -/
def rootOffset : Row := ⟨0x3810, .fixed 1, 0x09, 1, "RootOffset", .i32, none, .int 0, .immediate, false, .any⟩
/-- R349 of 11_time_clocks.md. -/
def rootBandwidth : Row := ⟨0x3810, .fixed 1, 0x0A, 1, "RootBandwidth", .u16, some .engineer, .int 100, .immediate, true, .within 10 1000⟩
/-- R349 of 11_time_clocks.md. -/
def revertive : Row := ⟨0x3810, .fixed 1, 0x0B, 1, "Revertive", .bool, some .engineer, .int 1, .immediate, true, .any⟩
/-- R349 of 11_time_clocks.md. -/
def revertHoldoff : Row := ⟨0x3810, .fixed 1, 0x0C, 1, "RevertHoldoff", .u32, some .engineer, .int 10000, .immediate, true, .within 1000 600000⟩
/-- R349 of 11_time_clocks.md. -/
def holdoverCount : Row := ⟨0x3810, .fixed 1, 0x0D, 1, "HoldoverCount", .u32, none, .int 0, .immediate, false, .any⟩
/-- R349 of 11_time_clocks.md. -/
def sourceSwitches : Row := ⟨0x3810, .fixed 1, 0x0E, 1, "SourceSwitches", .u32, none, .int 0, .immediate, false, .any⟩
/-- R349 of 11_time_clocks.md. -/
def syncOutMode : Row := ⟨0x3810, .fixed 1, 0x0F, 1, "SyncOutMode", .u8, some .engineer, .int 0, .immediate, true, .within 0 2⟩
/-- R349 of 11_time_clocks.md. -/
def ppsTrim : Row := ⟨0x3810, .fixed 1, 0x10, 1, "PpsTrim", .i32, some .engineer, .int 0, .immediate, true, .within (-500000000) 500000000⟩
/-- R349 of 11_time_clocks.md. -/
def inputEnable : Row := ⟨0x3820, .fixed 4, 0x01, 1, "InputEnable", .bool, some .engineer, .int 0, .immediate, true, .any⟩
/-- R349 of 11_time_clocks.md. -/
def wclkRate : Row := ⟨0x3820, .fixed 4, 0x02, 1, "WclkRate", .u32, some .engineer, .int 96000, .immediate, true, .among [48000, 96000, 192000]⟩
/-- R349 of 11_time_clocks.md. -/
def qualifyTime : Row := ⟨0x3820, .fixed 4, 0x03, 1, "QualifyTime", .u32, some .engineer, .byElem [2000, 2000, 10000, 2000], .immediate, true, .within 500 60000⟩
/-- R349 of 11_time_clocks.md. -/
def inputState : Row := ⟨0x3820, .fixed 4, 0x04, 1, "InputState", .u8, none, .int 0, .immediate, false, .any⟩
/-- R349 of 11_time_clocks.md. -/
def inputMeasuredRate : Row := ⟨0x3820, .fixed 4, 0x05, 1, "InputMeasuredRate", .u64, none, .int 0, .immediate, false, .any⟩
/-- R349 of 11_time_clocks.md. -/
def inputGlitches : Row := ⟨0x3820, .fixed 4, 0x06, 1, "InputGlitches", .u32, none, .int 0, .immediate, false, .any⟩
/-- R349 of 11_time_clocks.md. -/
def inputLosses : Row := ⟨0x3820, .fixed 4, 0x07, 1, "InputLosses", .u32, none, .int 0, .immediate, false, .any⟩
/-- R349 of 11_time_clocks.md. -/
def inputRateChanges : Row := ⟨0x3820, .fixed 4, 0x08, 1, "InputRateChanges", .u32, none, .int 0, .immediate, false, .any⟩
/-- R349 of 11_time_clocks.md. -/
def wclkPhase : Row := ⟨0x3820, .fixed 4, 0x09, 1, "WclkPhase", .i32, none, .int 0, .immediate, false, .any⟩
/-- R349 of 11_time_clocks.md. -/
def ptpMode : Row := ⟨0x3830, .fixed 1, 0x01, 1, "PtpMode", .u8, some .engineer, .int 1, .immediate, true, .within 0 3⟩
/-- R349 of 11_time_clocks.md. -/
def ptpProfile : Row := ⟨0x3830, .fixed 1, 0x02, 1, "PtpProfile", .u8, some .engineer, .int 0, .immediate, true, .within 0 1⟩
/-- R349 of 11_time_clocks.md. -/
def ptpPrimaryPort : Row := ⟨0x3830, .fixed 1, 0x03, 1, "PtpPrimaryPort", .u8, some .engineer, .int 0, .immediate, true, .within 0 3⟩
/-- R349 of 11_time_clocks.md. -/
def ptpDomain : Row := ⟨0x3830, .fixed 1, 0x04, 1, "PtpDomain", .u8, some .engineer, .int 0, .immediate, true, .within 0 127⟩
/-- R349 of 11_time_clocks.md. -/
def ptpPriority1 : Row := ⟨0x3830, .fixed 1, 0x05, 1, "PtpPriority1", .u8, some .engineer, .int 128, .immediate, true, .any⟩
/-- R349 of 11_time_clocks.md. -/
def ptpPriority2 : Row := ⟨0x3830, .fixed 1, 0x06, 1, "PtpPriority2", .u8, some .engineer, .int 128, .immediate, true, .any⟩
/-- R349 of 11_time_clocks.md. -/
def ptpClockClass : Row := ⟨0x3830, .fixed 1, 0x07, 1, "PtpClockClass", .u8, some .engineer, .int 248, .immediate, true, .any⟩
/-- R349 of 11_time_clocks.md. -/
def ptpLogSync : Row := ⟨0x3830, .fixed 1, 0x08, 1, "PtpLogSync", .i8, some .engineer, .int (-3), .immediate, true, .any⟩
/-- R349 of 11_time_clocks.md. -/
def ptpLogAnnounce : Row := ⟨0x3830, .fixed 1, 0x09, 1, "PtpLogAnnounce", .i8, some .engineer, .int 1, .immediate, true, .any⟩
/-- R349 of 11_time_clocks.md. -/
def ptpLogDelayReq : Row := ⟨0x3830, .fixed 1, 0x0A, 1, "PtpLogDelayReq", .i8, some .engineer, .int 0, .immediate, true, .any⟩
/-- R349 of 11_time_clocks.md. -/
def ptpAnnounceTimeout : Row := ⟨0x3830, .fixed 1, 0x0B, 1, "PtpAnnounceTimeout", .u8, some .engineer, .int 3, .immediate, true, .within 2 10⟩
/-- R349 of 11_time_clocks.md. -/
def ptpOneStep : Row := ⟨0x3830, .fixed 1, 0x0C, 1, "PtpOneStep", .bool, some .engineer, .int 0, .immediate, true, .any⟩
/-- R349 of 11_time_clocks.md. -/
def ptpDelayUnicast : Row := ⟨0x3830, .fixed 1, 0x0D, 1, "PtpDelayUnicast", .bool, some .engineer, .int 0, .immediate, true, .any⟩
/-- R349 of 11_time_clocks.md. -/
def ptpServoState : Row := ⟨0x3830, .fixed 1, 0x0E, 1, "PtpServoState", .u8, none, .int 0, .immediate, false, .any⟩
/-- R349 of 11_time_clocks.md. -/
def ptpOffset : Row := ⟨0x3830, .fixed 1, 0x0F, 1, "PtpOffset", .i32, none, .int 0, .immediate, false, .any⟩
/-- R349 of 11_time_clocks.md. -/
def ptpMeanPathDelay : Row := ⟨0x3830, .fixed 1, 0x10, 1, "PtpMeanPathDelay", .u32, none, .int 0, .immediate, false, .any⟩
/-- R349 of 11_time_clocks.md. -/
def ptpLeaderId : Row := ⟨0x3830, .fixed 1, 0x11, 1, "PtpLeaderId", .u64, none, .int 0, .immediate, false, .any⟩
/-- R349 of 11_time_clocks.md. -/
def ptpStepsRemoved : Row := ⟨0x3830, .fixed 1, 0x12, 1, "PtpStepsRemoved", .u16, none, .int 0, .immediate, false, .any⟩
/-- R349 of 11_time_clocks.md. -/
def ptpIgnored : Row := ⟨0x3830, .fixed 1, 0x13, 1, "PtpIgnored", .u32, none, .int 0, .immediate, false, .any⟩
/-- R349 of 11_time_clocks.md. -/
def ptpPortEnable : Row := ⟨0x3840, .fixed 5, 0x01, 1, "PtpPortEnable", .bool, some .engineer, .int 1, .immediate, true, .any⟩
/-- R349 of 11_time_clocks.md. -/
def ptpPortState : Row := ⟨0x3840, .fixed 5, 0x02, 1, "PtpPortState", .u8, none, .int 0, .immediate, false, .any⟩
/-- R349 of 11_time_clocks.md. -/
def stampTrimRx : Row := ⟨0x3840, .fixed 5, 0x03, 1, "StampTrimRx", .i32, some .engineer, .int 0, .immediate, true, .within (-100000) 100000⟩
/-- R349 of 11_time_clocks.md. -/
def stampTrimTx : Row := ⟨0x3840, .fixed 5, 0x04, 1, "StampTrimTx", .i32, some .engineer, .int 0, .immediate, true, .within (-100000) 100000⟩
/-- R349 of 11_time_clocks.md. -/
def tsQueueOverflows : Row := ⟨0x3840, .fixed 5, 0x05, 1, "TsQueueOverflows", .u32, none, .int 0, .immediate, false, .any⟩
/-- R349 of 11_time_clocks.md. -/
def oneStepRejected : Row := ⟨0x3840, .fixed 5, 0x06, 1, "OneStepRejected", .u32, none, .int 0, .immediate, false, .any⟩

/-- A piece of the chapter's list. -/
def rowsTime0 : List Row := [timeMode, frcNow, almanacSeconds, almanacNanoseconds, increment, mscAligned, mscError, alignTimeout, realignLimit, realignCmd, timeSet, timeTestMode, savedTime, sourcePriority, selectedSource, dpllState, rootOffset, rootBandwidth, revertive, revertHoldoff]
/-- A piece of the chapter's list. -/
def rowsTime1 : List Row := [holdoverCount, sourceSwitches, syncOutMode, ppsTrim, inputEnable, wclkRate, qualifyTime, inputState, inputMeasuredRate, inputGlitches, inputLosses, inputRateChanges, wclkPhase, ptpMode, ptpProfile, ptpPrimaryPort, ptpDomain, ptpPriority1, ptpPriority2, ptpClockClass]
/-- A piece of the chapter's list. -/
def rowsTime2 : List Row := [ptpLogSync, ptpLogAnnounce, ptpLogDelayReq, ptpAnnounceTimeout, ptpOneStep, ptpDelayUnicast, ptpServoState, ptpOffset, ptpMeanPathDelay, ptpLeaderId, ptpStepsRemoved, ptpIgnored, ptpPortEnable, ptpPortState, stampTrimRx, stampTrimTx, tsQueueOverflows, oneStepRejected]
/-- All the rows of this chapter. -/
def rowsTime : List Row := rowsTime0 ++ rowsTime1 ++ rowsTime2

end Sys2Proof.Machine.Reg
end

