-- ==== Sys2Proof/Machine/RegTable.lean ====
section
/-! DEFINITION. The whole object dictionary: every row, chapter by chapter, and the search by index and sub-index. -/

namespace Sys2Proof.Machine

/-- Every row of the dictionary, R43. -/
def allRows : List (List Row) := [Reg.rowsArchitecture, Reg.rowsDictionary, Reg.rowsCalendar, Reg.rowsGeometry, Reg.rowsRender, Reg.rowsMix, Reg.rowsCorrection, Reg.rowsConversion, Reg.rowsPorts, Reg.rowsStreams, Reg.rowsTime, Reg.rowsLocalIo, Reg.rowsDram, Reg.rowsSram, Reg.rowsRedundancy, Reg.rowsDrada, Reg.rowsSupervisor, Reg.rowsSecurity, Reg.rowsSeason, Reg.rowsPower, Reg.rowsPins]

/-- Whether a row covers an index, leaving the array bound aside. -/
def Row.coversIndex (r : Row) (idx : Nat) : Bool :=
  r.base ≤ idx && idx < r.base + r.count.limit

/-- Whether a row covers a sub-index. -/
def Row.coversSub (r : Row) (sub : Nat) : Bool :=
  r.sub ≤ sub && sub < r.sub + r.subs

/-- The row of an index and sub-index, if some chapter defines one (R43). -/
def findRow (idx sub : Nat) : Option Row :=
  allRows.findSome? fun rs => rs.find? fun r => r.coversIndex idx && r.coversSub sub

/-- A row that covers an index, if any does (NO_ENTRY against NO_SUB, Table 2-7). -/
def rowOf (idx : Nat) : Option Row := allRows.findSome? fun rs => rs.find? fun r => r.coversIndex idx

end Sys2Proof.Machine
end

