-- ==== Sys2Proof/Machine/Records.lean ====
section
/-! DEFINITION. The records that State is made of: sessions, transfers, calendar, motion FIFOs, lift lines, log. -/

namespace Sys2Proof.Machine

/-- A dated value that a commit replaced: dates before `date` still use `old` (R14). -/
structure DatedRec where
  date : Nat
  key : Nat
  old : Val
  deriving DecidableEq, Repr

/-- A notice frame that waits in a session's queue (R61). -/
structure NoticeRec where
  code : Nat
  date : Nat
  index : Nat
  sub : Nat
  arg : Nat
  unit : Nat
  deriving DecidableEq, Repr

/-- A session: a DTLS session, or a CAN FD host number (R49, R53). -/
structure Session where
  handle : Nat
  role : Role
  can : Bool
  srcIp : Nat
  cert : Octets
  /-- Whether it was accepted on a self-signed certificate (R510). -/
  commissioning : Bool
  lastFrameAt : Nat
  cache : List (Nat × Octets)
  selects : NMap Int
  cmdLast : NMap Octets
  queue : List NoticeRec
  lost : Nat
  sentAt : List Nat
  deriving DecidableEq, Repr

/-- A subscription (R60). -/
structure Subscription where
  id : Nat
  session : Nat
  unit : Nat
  index : Nat
  sub : Nat
  period : Nat
  nextBlock : Nat
  last : Octets
  /-- Unit × 65,536 + number of the subscription of another unit that this one stands for, else 0 (R54). -/
  remote : Nat
  deriving DecidableEq, Repr

/-- An open block transfer (R57 to R59). -/
structure Transfer where
  id : Nat
  session : Nat
  unit : Nat
  index : Nat
  sub : Nat
  fromDevice : Bool
  size : Nat
  crc : Nat
  data : Octets
  next : Nat
  lastSegment : Octets
  lastAt : Nat
  failed : Bool
  select : Int
  /-- The transfer of another unit that this one stands for: unit × 65,536 + its number there, 0 for none. -/
  remote : Nat
  deriving DecidableEq, Repr

/-- A request frame, taken apart (R47, R50). -/
structure Request where
  session : Nat
  /-- The identifier of a CAN FD frame, none on UDP. -/
  ident : Option Nat
  id : Nat
  service : Nat
  unit : Nat
  body : Octets
  deriving DecidableEq, Repr

/-- A part of a gathered answer: the element of the request that it belongs to, the number under which another unit was asked
(0 for this unit's own part), and its response frame once it is there. -/
structure Part where
  element : Nat
  ask : Nat
  answer : Option Octets
  deriving DecidableEq, Repr

/-- A request whose answer is put together from other units' answers (R110, R477), with its parts in order. -/
structure Gather where
  request : Request
  parts : List Part
  deriving DecidableEq, Repr

/-- One change of a calendar entry: a value, or a finished block transfer (R76). -/
structure Change where
  index : Nat
  sub : Nat
  val : Val
  deriving DecidableEq, Repr

/-- The states of Table 3-2. -/
inductive CalState where
  | free | opened | staged | preparing | prepared | committed | partially | refused | cancelled
  deriving DecidableEq, Repr

/-- The code of a calendar state, Table 3-2. -/
def CalState.code : CalState → Nat
  | .free => 0 | .opened => 1 | .staged => 2 | .preparing => 3 | .prepared => 4
  | .committed => 5 | .partially => 6 | .refused => 7 | .cancelled => 8

/-- The state of a code of Table 3-2. -/
def CalState.ofCode (n : Nat) : CalState :=
  [CalState.free, .opened, .staged, .preparing, .prepared, .committed, .partially, .refused, .cancelled].getD n .free

/-- Whether a calendar state is final (R84). -/
def CalState.final : CalState → Bool
  | .committed | .partially | .refused | .cancelled => true
  | _ => false

/-- A calendar slot that is not FREE. -/
structure CalEntry where
  slot : Nat
  gen : Nat
  state : CalState
  unit : Nat
  session : Nat
  role : Role
  date : Nat
  closedAt : Nat
  order : Nat
  changes : List Change
  participants : List Nat
  answers : List (Nat × Nat)
  confirmed : List Nat
  decided : Bool
  journalSeq : Nat
  bitmap : Octets
  finalAt : Nat
  reserved : Nat
  /-- Shadow loads: kind, resource, and 0 waiting for the shadow, 1 queued, 2 done (R86). -/
  loads : List (Nat × Nat × Nat)
  /-- Whether its changes are in force here (R88). -/
  applied : Bool
  /-- Whether the one unit that a single-unit entry concerns, not the head, coordinates it (R85). -/
  handed : Bool
  /-- When the last of its FIR spectra was complete (R218). -/
  spectraAt : Nat
  deriving DecidableEq, Repr

/-- One entry of the group journal (R92). -/
structure JournalRec where
  seq : Nat
  date : Nat
  unit : Nat
  changes : List Change
  deriving DecidableEq, Repr

/-- The calendar and the journal. -/
structure Calendar where
  entries : NMap CalEntry
  gens : NMap Nat
  nextOrder : Nat
  journal : List JournalRec
  deriving DecidableEq, Repr

/-- A motion FIFO word: 64 data bits, a tag of 7 bits, an end mark (R95). -/
structure MotionWord where
  tag : Nat
  data : Nat
  last : Bool
  deriving DecidableEq, Repr

/-- A motion FIFO with what its stream map keeps (R65 to R69, R95 to R99). -/
structure MotionFifo where
  words : List MotionWord
  dropping : Bool
  seeded : Bool
  staleRun : Nat
  acceptedAt : Nat
  fixedFor : Nat
  fixedCount : Nat
  counted : Bool
  deriving DecidableEq, Repr

/-- What a lift-line item does when it completes (Table 3-7). -/
inductive LiftJob where
  | logWrite
  | prepare (slot : Nat)
  /-- A message of the calendar that leaves: to the standby (0xFFFF), the head (0) or a unit. -/
  | send (dest : Nat) (message : CalMsg)
  | mark (object : Nat)
  /-- The load of a resource's shadow for a calendar entry: the kind of Table 3-7 and the resource. -/
  | load (slot kind resource : Nat)
  | digest
  /-- A subscription report: the date of its block and the argument of its frame (R60). -/
  | report (subscription date arg : Nat)
  /-- A record for the flash correction store; whether it is a retry (R223). -/
  | flashStore (output kind : Nat) (retry : Bool)
  | other
  deriving DecidableEq, Repr

/-- A work item of the lift lines (R101). -/
structure LiftItem where
  id : Nat
  kind : Nat
  level : Nat
  flow : Nat
  queuedAt : Nat
  startedAt : Nat
  job : LiftJob
  /-- Whether its engine has met a bus error, and whether this is its second try (R489). -/
  failed : Bool
  again : Bool
  deriving DecidableEq, Repr

/-- The lift-line scheduler: waiting items in arrival order, and the four engines. -/
structure Lift where
  waiting : List LiftItem
  engines : Fixed (Option LiftItem) 4
  nextId : Nat
  reservedItems : Nat
  snapshot : Octets
  retry : List (Nat × Nat × LiftJob)
  deriving DecidableEq, Repr

/-- A stored log record (Table 17-7), less what is formed at readout. -/
structure LogRec where
  kind : Nat
  sub : Nat
  code : Nat
  date : Nat
  arg : Nat
  index : Nat
  unit : Nat
  seconds : Nat
  flags : Nat
  ext : Octets
  deriving DecidableEq, Repr

/-- The event log: the records held in MRAM by their Seq, and the on-die FIFO (R495 to R501). -/
structure Log where
  ring : NMap LogRec
  newest : Nat
  clearedTo : Nat
  fifo : List LogRec
  lostNow : Nat
  pressure : Bool
  correctedAt : NMap Nat
  deriving DecidableEq, Repr

/-- The power states of Table 20-2. -/
inductive PowerState where
  | off | offseason | boot | quiet | ready | onShow | fault
  deriving DecidableEq, Repr

/-- The code of a power state, Table 20-2. -/
def PowerState.code : PowerState → Nat
  | .off => 0 | .offseason => 1 | .boot => 2 | .quiet => 3 | .ready => 4 | .onShow => 5 | .fault => 6

/-- Whether the data path runs in a power state (Table 20-2). -/
def PowerState.runs : PowerState → Bool
  | .ready | .onShow => true
  | _ => false

/-- Whether Knasiug is answered in a power state (Table 20-2). -/
def PowerState.answers : PowerState → Bool
  | .quiet | .ready | .onShow | .fault => true
  | _ => false

/-- The power stage, its pads and the restart account (chapter 20). -/
structure Power where
  state : PowerState
  vin : Bool
  overVoltage : Bool
  wake : Bool
  nreset : Bool
  bootSel : Bool
  rolePref : Bool
  pairPresent : Bool
  rails : Bool
  pgood : Bool
  vaux : Bool
  held : Bool
  latchedOff : Bool
  cause : Nat
  restarts : List Nat
  /-- The cause of a reset that a command has called for and that follows its response. -/
  resetDue : Option Nat
  /-- Whether an off-season entry follows a response. -/
  offDue : Bool
  stopDue : Bool
  bootAt : Nat
  shapeBad : Bool
  tripAt : Nat
  /-- Whether a step of BOOT has found a fault out of range (R565). -/
  bootFault : Bool
  /-- When FAULT was entered. -/
  faultAt : Nat
  /-- Whether the sequence of a rail trip is in progress (R552, R559). -/
  tripped : Bool
  /-- The moment of the last completed step of the function that has completed none since (R32). -/
  stoppedAt : Option Nat
  deriving DecidableEq, Repr

/-- The mark of an object in a pipe's pending set (R128). -/
structure Mark where
  cls : Nat
  age : Nat
  full : Bool
  leaving : Bool
  patched : Bool
  deriving DecidableEq, Repr

/-- A crosspoint record (Table 5-3). -/
structure Xp where
  gainFrom : Int
  gainTo : Int
  delayFrom : Int
  delayTo : Int
  step : Bool
  clip : Bool
  tag : Nat
  deriving DecidableEq, Repr

/-- A record of a crosspoint patch that waits for its object to be served (R157, R158). -/
structure PatchRec where
  /-- The number of the patch, by which its notice is raised once. -/
  patch : Nat
  /-- The boundary of the patch. -/
  date : Nat
  out : Nat
  gain : Int
  delay : Int
  deriving DecidableEq, Repr

/-- What a pipe had of an object before it served it: mark, patch records, jump, the bulk delay its windows stood for. -/
structure Served where
  mark : Mark
  recs : List PatchRec
  jump : Option (Nat × Bool)
  bulk : Nat
  deriving DecidableEq, Repr

/-- The geometry engine: pending marks, jumps in progress, objects late in the block (R127 to R130). -/
structure Geometry where
  pending : NMap Mark
  /-- Marks of boundaries that no evaluation has reached yet, oldest first. -/
  coming : List (Nat × Mark)
  /-- Jumps in progress: the boundary, and whether the first block has been served (R127). -/
  jumps : NMap (Nat × Bool)
  /-- The bulk delay that an object's window delays stand for (R119). -/
  bulkUsed : NMap Nat
  /-- Late objects with their rinks, in service order. -/
  late : List (Nat × Nat)
  fullOnStart : Bool
  /-- What the last evaluation served. -/
  served : NMap Served
  deriving DecidableEq, Repr

/-- The render core: crosspoint store, windows, bulk rings, output block buffer (chapter 5). -/
structure Render where
  xp : NMap Xp
  law0 : NMap (Int × Int)
  patches : NMap (List PatchRec)
  /-- The number of the last patch committed. -/
  patchSeq : Nat
  /-- Patches whose notice of ignored records was raised while records of theirs still wait (R157). -/
  patchTold : List Nat
  assembly : NMap Int
  ring : NMap Int
  bulk : NMap Int
  /-- The bulk delay unit's staging buffer: the line in progress of each slot and the four before it (R140). -/
  staging : NMap Int
  /-- The bulk line of each object that was last counted as late, plus 1 (R142). -/
  lateLines : NMap Nat
  /-- Lines of the DRAM rings that came back poisoned and so read 0: object × 16,384 + line of the ring (R142, R402). -/
  absent : List Nat
  /-- The records rendered in the block in progress, as they were before their write-back. -/
  rendered : NMap Xp
  /-- The targets of the block in progress, and of the last completed block (R159). -/
  targets : NMap (Int × Int)
  completed : NMap (Int × Int)
  /-- When the last block was completed, and when the one before it was (R166). -/
  doneAt : Nat
  doneBefore : Nat
  outBuf : NMap Int
  fade : List Nat
  /-- Outputs to be zeroed once their block has been rendered: block, rink (0xFFFF for none), output. -/
  zeroed : List (Nat × Nat × Nat)
  faulted : List Nat
  deriving DecidableEq, Repr

/-- The four planes: the bank of each that is readable in the coming tick (R11, R12). -/
structure Planes where
  ingress : NMap Int
  object : NMap Int
  render : NMap Int
  egress : NMap Int
  deriving DecidableEq, Repr

/-- A clock input and its period checker (R337 to R339). -/
structure ClockInput where
  lastEdge : Option Nat
  periods : List Nat
  edges : List Nat
  since : Nat
  qualified : Bool
  lost : Bool
  deriving DecidableEq, Repr

/-- The time base, the servo and the root DPLL (chapter 11). -/
structure Almanac where
  snMode : Bool
  secs : Nat
  nanos : Nat
  frac : Nat
  offset : Nat
  base : Nat
  inc : Nat
  pendingInc : Option Nat
  records : List (Nat × Nat × Nat)
  aligned : Bool
  everAligned : Bool
  realignDue : Bool
  /-- The boundary at which the data path last began to run (R328). -/
  startDate : Nat
  overRun : Nat
  thetaRun : Nat
  integ : Int
  paths : List Int
  goodRun : Nat
  badRun : Nat
  lastSync : Nat
  twoStep : Option (Nat × Nat × Int)
  delayReq : Option (Nat × Nat)
  syncRef : Option (Int × Int)
  leader : Octets
  seqSync : Nat
  seqAnnounce : Nat
  seqDelay : Nat
  lastAnnounce : Nat
  foreign : List Octets
  everQualified : Bool
  qualifiedAt : NMap Nat
  faultAt : Option Nat
  silentUntil : Nat
  /-- Whether the link time transfer of Drada DA is a qualified source (R478). -/
  dradaOk : Bool
  /-- The IPv4 address of the leader's last Sync, for unicast Delay_Req. -/
  leaderIp : Nat
  /-- Whether a due realignment is deferred in SHOW (R330). -/
  deferred : Bool
  inputs : Fixed ClockInput 4
  deriving DecidableEq, Repr

/-- One register bank of a mix core (Table 6-3); `v` holds 64 words, `acc` 16 lanes, `flags` bits N, Z, S, SS. -/
structure MixBank where
  v : List Int
  acc : List Int
  a : List Nat
  m : List Nat
  b : List Nat
  l : List Nat
  flags : List Nat
  deriving DecidableEq, Repr

/-- A mix core's part of a programme, with its memories (R170, R188). -/
structure MixCore where
  code : Array Nat
  entryB : Nat
  cyclesA : Nat
  cyclesB : Nat
  dataLength : Nat
  data : NMap Nat
  feeds : NMap Int
  main : MixBank
  shadow : MixBank
  objectSet : Nat
  feedSet : Nat
  busSet : Nat
  egressSet : Nat
  deriving DecidableEq, Repr

/-- A route cell from one date on: its values, and the crossfade that leads to them (R183, R184). -/
structure RouteState where
  src : Nat
  gain : Int
  oldSrc : Nat
  oldGain : Int
  start : Nat
  len : Nat
  kind : Nat
  deriving DecidableEq, Repr

/-- A mix programme: an image, its cores, its route cells with the states of the last dates, newest first. -/
structure Programme where
  image : Octets
  crc : Nat
  id : Nat
  dualOf : Nat
  cores : List (Option MixCore)
  cells : NMap (List RouteState)
  deriving DecidableEq, Repr

/-- The mix engine: programme in force, outgoing programme of a swap, egress alignment delay, cores held at zero. -/
structure Mix where
  cur : Programme
  prev : Option Programme
  swapDate : Nat
  dualLen : Nat
  egressDelay : List (NMap Int)
  held : NMap Nat
  deriving DecidableEq, Repr

/-- The states of one biquad section (R202). -/
structure Biquad where
  x1 : Int
  x2 : Int
  y1 : Int
  y2 : Int
  e : Int
  deriving DecidableEq, Repr

/-- A ramp or crossfade of an output from one value to another (R212, R215). -/
structure Ramp where
  start : Nat
  len : Nat
  old : Int
  new : Int
  deriving DecidableEq, Repr

/-- A fade between two filters; `old` is the FirFilter value before (R219). -/
structure FirChange where
  start : Nat
  len : Nat
  old : Octets
  deriving DecidableEq, Repr

/-- The correction chain's state of one output (chapter 7): histories newest first, rings by date. -/
structure OutChain where
  biquads : List Biquad
  hist : List Int
  gains : List Ramp
  delays : List Ramp
  firs : List FirChange
  ring : NMap Int
  u : List Int
  g : Nat
  below : Bool
  belowLast : Bool
  /-- The first and last block whose o is held at zero (R225). -/
  zeroO : Option (Nat × Nat)
  /-- The block whose y is held at zero. -/
  zeroY : Option Nat
  /-- The delay line that was last counted as late, plus 1 (R214). -/
  lateLine : Nat
  deriving DecidableEq, Repr

/-- A record of the flash correction store (R223); it survives every reset. -/
structure FlashRec where
  output : Nat
  sub : Nat
  seq : Nat
  value : Octets
  /-- The CRC-32C of the record's header and value. -/
  crc : Nat
  deriving DecidableEq, Repr

/-- A place of a FIR fade (R220) with the spectrum slot that it reserves (R410): its end, once its change has committed. -/
structure FadePlace where
  output : Nat
  date : Nat
  slot : Nat
  ends : Option Nat
  deriving DecidableEq, Repr

/-- The correction stage: chains of the outputs, FIR fade places, the flash store and its retry list. -/
structure Correction where
  chains : NMap OutChain
  /-- FIR fades assigned. -/
  fades : List FadePlace
  /-- The date until which a committed change uses an output's shadow spectra (R219). -/
  shadows : NMap Nat
  /-- Spectrum slots in force other than the output's own number (R410). -/
  slots : NMap Nat
  stale : List Nat
  startMuted : List Nat
  flash : List FlashRec
  flashSeq : Nat
  deriving DecidableEq, Repr

/-- What the module puts on its ports. -/
inductive Out where
  /-- A response frame to a DTLS session. -/
  | response (session : Nat) (octets : Octets)
  /-- A CAN FD frame: identifier and payload. -/
  | canFrame (ident : Nat) (payload : Octets)
  /-- A notice frame to a DTLS session. -/
  | notice (session : Nat) (octets : Octets)
  /-- A frame that starts on a network port. -/
  | frame (port : Nat) (octets : Octets)
  /-- A cell on a Drada link: 0 DA, 1 DB, 2 DP. -/
  | cell (link : Nat) (type : Nat) (octets : Octets)
  /-- A level change of an output pad, by name. -/
  | pad (name : String) (level : Bool)
  /-- A word on an output of a TDM port: port, slot, word. -/
  | tdm (port slot word : Nat)
  /-- A slot of a TDM output left at high impedance: port, slot. -/
  | tdmIdle (port slot : Nat)
  /-- A headphone sample pair. -/
  | headphone (left right : Int)
  /-- A side-tone sample at 768 kHz, as it leaves on both channels with the feed. -/
  | sideTone (value : Int)
  /-- An IGMP message: port, group, sources, and the record type of an IGMPv3 report, or 0x12, 0x16 or 0x17 for a message of an
  older version. -/
  | igmp (port group : Nat) (sources : List Nat) (kind : Nat)
  /-- The frame on a port ends after a number of its octets, with an FCS. -/
  | frameEnd (port count : Nat) (fcs : Octets)
  /-- A management interface transfer to the PHY: write, address, register, value. -/
  | mdio (write : Bool) (address register value : Nat)
  /-- Text on the service UART: a logged notice, by code and argument, or the boot report (R527). -/
  | uart (boot : Bool) (code arg : Nat)
  /-- A level of a cage's soft TX-disable bit (R254). -/
  | txDisable (port : Nat) (level : Bool)
  deriving DecidableEq, Repr

end Sys2Proof.Machine
end

