-- ==== Sys2Proof/Machine/RecordsIo.lean ====
section
/-! DEFINITION. The records of the ports, flows, TDM ports, headset, recorder and conversion pool. -/

namespace Sys2Proof.Machine

/-- A receive descriptor (Table 9-5) with the octets in its buffer. -/
structure RxDesc where
  addr : Nat
  len : Nat
  byteCount : Nat
  status : Nat
  first : Bool
  last : Bool
  secured : Bool
  tagged : Bool
  vlan : Nat
  pcp : Nat
  stampValid : Bool
  port : Nat
  rule : Nat
  stamp : Nat
  frameBytes : Nat
  data : Octets
  deriving DecidableEq, Repr

/-- A receive ring: descriptors that the device owns, in ring order, and those written back, oldest first. -/
structure RxRing where
  owned : List RxDesc
  done : List RxDesc
  deriving DecidableEq, Repr

/-- A transmit descriptor (Table 9-7): the buffer with its port and its status when written back. -/
structure TxDesc where
  buf : TxBuffer
  status : Nat
  deriving DecidableEq, Repr

/-- A transmit ring: posted descriptors in ring order, those of the frame that is being sent, owned until they are written back
(R274), and those written back. -/
structure TxRing where
  posted : List TxDesc
  busy : List TxDesc
  done : List TxDesc
  deriving DecidableEq, Repr

/-- A time-stamp queue entry (Table 11-5); `valid` is cleared by an Almanac fault (R351). -/
structure TsEntry where
  frc : Nat
  stampId : Nat
  port : Nat
  oneStep : Bool
  snMode : Bool
  valid : Bool
  deriving DecidableEq, Repr

/-- An installed MACsec SA: association number, key, and the next packet number to send or to expect (R287). -/
structure MacSa where
  an : Nat
  key : Octets
  next : Nat
  deriving DecidableEq, Repr

/-- A frame being sent, or a flow's packet that waits for one (R278): its ring or its flow (neither for MAC control), its
descriptors, its octets, as they are on the wire before the FCS, and whether a buffer error has struck it (R293). -/
structure TxFrame where
  ring : Option Nat
  flow : Option Nat
  descs : List TxDesc
  octets : Octets
  image : Octets
  bad : Bool
  deriving DecidableEq, Repr

/-- A group that a port is a member of: its filter mode (EXCLUDE of none, or INCLUDE of the sources), the records of its last
change, kind and sources, and when they are reported again (R302). -/
structure IgmpGroup where
  group : Nat
  exclude : Bool
  sources : List Nat
  again : List (Nat × List Nat)
  reportDue : Option Nat
  deriving DecidableEq, Repr

/-- A network port (chapter 9), with its time-stamp queue and its multicast memberships. -/
structure Port where
  /-- The candidate of Table 9-1 under way, 0 for none. -/
  cand : Nat
  /-- Candidates tried in the cycle. -/
  tried : Nat
  /-- The candidate that last succeeded. -/
  lastGood : Nat
  /-- When the candidate started, or the cycle failed. -/
  candAt : Nat
  /-- Whether the cage's module answered the last poll. -/
  answers : Bool
  /-- When it first answered. -/
  answeredAt : Nat
  /-- Exact count of octets received, modulo 2^38 (R289). -/
  rxOctets : Nat
  /-- Exact count of octets sent, modulo 2^38. -/
  txOctets : Nat
  sending : Option TxFrame
  /-- End of the received pause time, while the port is held. -/
  heldUntil : Option Nat
  heldSince : Nat
  /-- End of the 10 s in which PAUSE is ignored. -/
  ignoreUntil : Option Nat
  /-- Since when the port has been sending PAUSE. -/
  pausing : Option Nat
  pauseSentAt : Nat
  /-- Whether PauseSendLimit stopped pause sending (R283). -/
  pauseStopped : Bool
  /-- How often it did. -/
  pauseLimits : Nat
  /-- MAC control frames that wait. -/
  control : List Octets
  /-- Flow packets that wait for the frame in progress (R278). -/
  flowQueue : List TxFrame
  lpi : Bool
  /-- When the partner is awake after low-power idle has ended (R262). -/
  wakeAt : Nat
  idleSince : Nat
  /-- Whether the PHY resolved EEE (R262). -/
  phyEee : Bool
  secured : Bool
  txSci : Nat
  rxSas : List MacSa
  txSas : List MacSa
  tsQueue : List TsEntry
  tsOverflow : Bool
  /-- The ring served last, for round robin (R278). -/
  lastRing : Nat
  members : List IgmpGroup
  /-- Until when an IGMPv1 and an IGMPv2 querier count as present (R294). -/
  oldQueriers : Nat × Nat
  deriving DecidableEq, Repr

/-- A packet in a flow's buffers: media count of its first sample, index of its first sample in time, its payload. -/
structure RxPacket where
  first : Int
  good : Nat
  n : Nat
  channels : Nat
  wide : Bool
  payload : Octets
  deriving DecidableEq, Repr

/-- A receive flow's buffers and duplicate window (R299, R314). -/
structure RxFlow where
  packets : List RxPacket
  lastAt : Nat
  /-- When each path last delivered a packet, if it is up. -/
  paths : List (Option Nat)
  newest : Option Nat
  window : List Nat
  srcMac : Octets
  bySeqNr : Bool
  /-- The start of the next packet to examine for loss, on the grid of the first packet (R300). -/
  lostTo : Option Int
  /-- Samples that a memory error took away: media count and channel (R320). -/
  holes : List (Int × Nat)
  haveSsrc : Bool
  deriving DecidableEq, Repr

/-- The flow engine: receive flows, sources of the ingress slots and crossfades, egress history (chapter 10). -/
structure Flows where
  rx : NMap RxFlow
  /-- The source in force of each ingress slot (R12). -/
  sources : NMap Nat
  /-- Crossfades of ingress slots between two sources (R310). -/
  inFades : NMap Ramp
  /-- The egress slot in force of each transmit channel and TDM output slot. -/
  txSlots : NMap Nat
  /-- Crossfades of transmit channels and TDM output slots between two egress slots. -/
  outFades : NMap (List Ramp)
  /-- The egress plane at the last dates, newest first. -/
  egress : List (Nat × NMap Int)
  /-- PRP sequence counters per pair of ports (R313). -/
  prp : NMap Nat
  /-- Slot tables that are to be reloaded before the next packet (R320). -/
  reload : NMap Nat
  deriving DecidableEq, Repr

/-- A tracker: of a TRACKED pool channel (R238 to R245) or of a slave port's output converter (R359). -/
structure Tracker where
  state : Nat
  /-- Edges seen in ACQUIRE, or in range in RANGE. -/
  seen : Nat
  /-- The date, or frame, of entry to MUTE. -/
  muteAt : Nat
  /-- Dates, or frames, before this one are still heard: those before the entry into silence from RUN (R243, R244). -/
  heardTo : Nat
  rhoF : Int
  rhoI : Int
  rhoA : Int
  acc : Int
  err : Int
  /-- Whether Pacc is to be set at the next boundary. -/
  setDue : Bool
  /-- Measured rate at the last notice 0x9404, or at acquisition (R241); none before the first acquisition. -/
  noted : Option Nat
  deriving DecidableEq, Repr

/-- A pool channel (chapter 8): mode in force, fade-in position, DC estimate, tracker, zeroed block. -/
structure ConvChan where
  mode : Nat
  startDate : Nat
  dc : Int
  tracker : Tracker
  zeroBlock : Option Nat
  /-- Source samples up to this count were cleared by a fault (R249). -/
  clearedTo : Option Int
  deriving DecidableEq, Repr

/-- The conversion pool: its channels, the newest output of each, the values that a lead sent for TRACKED channels. -/
structure Pool where
  chans : NMap ConvChan
  out : NMap Int
  fromLead : NMap Int
  deriving DecidableEq, Repr

/-- A TDM port (chapter 12): edges and words newest first, the output converter's tracker. -/
structure TdmPort where
  started : Bool
  frame : Nat
  edges : List Nat
  words : List (Nat × List Int)
  tracker : Tracker
  zeroNext : Bool
  fadeFrame : Option Nat
  leadWords : List (Nat × List Int)
  /-- Frames that ended lately, newest first: frame count, receive mask in force over it, raw words (R360, R363). -/
  ended : List (Nat × Nat × List Nat)
  deriving DecidableEq, Repr

/-- The headset port (R366 to R370): samples on their way in, the ramps and fades. -/
structure Headset where
  jackSince : Nat
  plugged : Bool
  measured : Bool
  toggle : Bool
  mic : List Int
  micOpenAt : Option Nat
  hpAt : Option Nat
  hpRamps : List Ramp
  sideFrom : Int
  sideTo : Int
  sidePos : Nat
  deriving DecidableEq, Repr

/-- The show recorder (R372 to R378): the ring by place, gaps, the start of the recording. -/
structure Recorder where
  ring : NMap Octets
  gaps : NMap Nat
  bad : NMap Nat
  startTick : Nat
  deriving DecidableEq, Repr

/-- A decoded position record that waits for its boundary: object, flags, position (R98, R127). -/
structure MotionRec where
  object : Nat
  flags : Nat
  x : Int
  y : Int
  z : Int
  deriving DecidableEq, Repr

end Sys2Proof.Machine
end

