-- ==== Sys2Proof/Machine/RecordsSys.lean ====
section
/-! DEFINITION. The records of DRAM, on-chip memory, pair, Drada links, supervisor, security, season and perturbation. -/

namespace Sys2Proof.Machine

/-- A requester of a DRAM channel's arbiter (R394 to R399). -/
structure ArbReq where
  /-- Accesses that it has requested and that are not yet admitted. -/
  todo : List DramAccess
  /-- What remains of its declared burst count. -/
  declared : Nat
  since : Nat
  ready : Nat
  k : Nat
  /-- Whether it has had a burst since its grant. -/
  begun : Bool
  starved : Bool
  urgent : Bool
  deriving DecidableEq, Repr

/-- An access in a channel's transaction queue (R386). -/
structure DramReq where
  q : Nat
  access : DramAccess
  admitted : Nat
  deriving DecidableEq, Repr

/-- A DRAM channel: arbiter, queue, open rows with their closing times, activation counts, refresh (R386 to R396). -/
structure DramChan where
  holder : Option Nat
  reqs : NMap ArbReq
  queue : List DramReq
  openRows : NMap (Nat × Option Nat)
  hits : NMap Nat
  raa : NMap Nat
  held : NMap Nat
  mr4 : Nat
  lowPolls : Nat
  checkLines : List Nat
  completedAt : Nat
  /-- Up to when the refreshes ahead of time of an empty queue are accounted for (R388). -/
  ahead : Nat
  deriving DecidableEq, Repr

/-- The DRAM controller (chapter 13). -/
structure Dram where
  chans : Fixed DramChan 4
  /-- Bursts of the present millisecond, for DramLoadLast. -/
  bursts : Nat
  /-- When the policy last saw STARVE or URGENT of a requester (R400). -/
  policyAt : NMap Nat
  /-- ChannelEccCorrected of each channel when the scrub pass began (R536). -/
  scrubBase : List Nat
  /-- The line that the last completed read returned, and whether it was poisoned. -/
  lastLine : Octets
  lastPoisoned : Bool
  /-- Lines left with a double-bit error, until they are written (R402). -/
  bad : List Nat
  deriving DecidableEq, Repr

/-- A run of the march engine (R418, R421). -/
structure MarchRun where
  destructive : Bool
  first : Nat
  last : Nat
  background : Nat
  startedAt : Nat
  deriving DecidableEq, Repr

/-- The on-chip memory (chapter 14): what a bank shows, by bank; words by bank × 8,192 + word. -/
structure Sram where
  /-- Power states other than On. -/
  states : NMap Nat
  /-- The used entries of the repair table, as SramRepairMap gives them. -/
  repair : NMap (List Nat)
  unusable : NMap Nat
  corrected : NMap Nat
  /-- Words written back that the scrubber is to read again (R415). -/
  recheck : NMap Nat
  /-- Rows that gave an uncorrectable error, bank × 256 + row, and when. -/
  doubles : NMap Nat
  /-- Bits to flip at a word's next read, as a mask of 72 bits (Table 19-4). -/
  flips : NMap Nat
  /-- Which half of the mix memories the programme in force occupies. -/
  half : Nat
  march : Option MarchRun
  deriving DecidableEq, Repr

/-- An audit in progress (R441 to R443): the block, the point of Table 15-5, the index of the first difference. -/
structure Audit where
  block : Nat
  point : Nat
  first : Nat
  /-- The outputs that differing egress slots name. -/
  disputed : List Nat
  deriving DecidableEq, Repr

/-- The pair state machine (chapter 15). -/
structure Pair where
  lead : Bool
  requested : Bool
  /-- When ILK_OUT is to go high. -/
  assertAt : Option Nat
  outAt : Nat
  inAt : Nat
  retryAt : Nat
  /-- Why the lead is taken: 1 planned, 2 unplanned, 3 by R433. -/
  reason : Nat
  bootLeftAt : Nat
  partner : Option Hello
  /-- The tick of the newest tick frame from the lead. -/
  lastFrame : Option Nat
  silent : Bool
  releaseSeen : Bool
  /-- Departure tick of a planned handover under way. -/
  handover : Option Nat
  /-- Whether a handover command waits for an audit to end. -/
  waiting : Bool
  lastHandover : Option Nat
  stageAt : Nat
  catchupAt : Nat
  gapRun : Nat
  /-- Signatures of the last blocks, by block × 4 + point (R438 to R440). -/
  sigs : NMap (List Nat)
  /-- Signatures that the partner sent and that wait for this unit's own. -/
  theirs : NMap (List Nat)
  /-- Blocks for which the partner set its input-incomplete flag. -/
  theirIncomplete : List Nat
  /-- How many points of a block have agreed, by block. -/
  agreed : NMap Nat
  /-- Whether ILK_IN is low while DP is alive without a release message (Table 15-3). -/
  odd : Bool
  /-- Ingress and object planes of the last dates, newest first. -/
  planes : List (Nat × NMap Int × NMap Int)
  /-- Blocks in which an input was incomplete, and in which this unit raised an in-data fault. -/
  incomplete : List Nat
  faults : List Nat
  audit : Option Audit
  patrolAt : Option Nat
  /-- The departure ticks whose packets a standby holds during a handover (R432). -/
  heldPackets : List Nat
  /-- Mirrored writes that wait for an acknowledgement: number, when it was sent, the response held back for it (R436). -/
  mirrors : List (Nat × Nat × Out)
  nextMirror : Nat
  /-- State seeds to install before the date after that of their tick (R446). -/
  seeds : List (Nat × Seed)
  /-- Whether the last hello was refused for the shape or the firmware (R426). -/
  refused : Bool
  /-- The sequence counters as the standby last heard them (R434). -/
  countersTold : Octets
  deriving DecidableEq, Repr

/-- A Drada link (chapter 16). -/
structure DradaLink where
  cand : Nat
  tried : Nat
  lastGood : Nat
  candAt : Nat
  credits : List Nat
  freed : List Nat
  txSeq : Nat
  rxSeq : Nat
  /-- Cells sent, newest first, by LinkSeq (R463). -/
  replay : List (Nat × Octets)
  failed : Nat
  replayAsked : Option Nat
  /-- Cells that wait for credit: virtual channel, type and cell. -/
  waiting : List (Nat × Nat × Octets)
  idle : Bool
  busyAt : Nat
  timeSent : Option Nat
  timeGood : Nat
  timeMissed : Nat
  loadOctets : Nat
  returnedAt : Nat
  deriving DecidableEq, Repr

/-- The Drada links and the group (chapter 16). -/
structure Drada where
  links : Fixed DradaLink 3
  /-- Feed values that have arrived, by date: object and value (R467, R468), newest first. -/
  align : List (Nat × NMap Int)
  /-- The modules below the head with their unit numbers, as formed. -/
  members : List (Member × Nat)
  /-- What LINK cells have told the head since it last collected. -/
  collected : List Member
  /-- Whether the head's own LINK cell came back at its DA: a ring. -/
  ring : Bool
  /-- The serial number of the head whose LINK cells reached this module. -/
  head : Octets
  /-- The branch that leads to a unit, as assignments passed through this module. -/
  branches : NMap Nat
  /-- Ring places whose link is down. -/
  breaks : List Nat
  /-- When the group is to be formed. -/
  formBy : Option Nat
  formed : Bool
  /-- What the head keeps of the values committed in other units: unit × 2^24 + entry key (R93). -/
  held : NMap Octets
  deriving DecidableEq, Repr

/-- The supervisor's own state (chapter 17). -/
structure Super where
  remap : Bool
  romLock : Bool
  norWrite : Bool
  sliceMask : Nat
  kickAt : Option Nat
  /-- Consecutive samples of a sensor: beyond a warn limit, back inside, beyond a fault limit, by sensor × 4 + kind. -/
  runs : NMap Nat
  fanSlowSince : Option Nat
  fanStalled : Bool
  clockBad : Bool
  deriving DecidableEq, Repr

/-- A firmware slot (R519); its image survives every reset. -/
structure Slot where
  state : Nat
  image : Octets
  begun : Bool
  deriving DecidableEq, Repr

/-- Security and firmware update (chapter 18). -/
structure Security where
  /-- Key material by entry key; an empty slot is not listed. -/
  keys : NMap Octets
  slots : Fixed Slot 2
  running : Nat
  trial : Bool
  readySince : Option Nat
  nonce : Option Octets
  /-- Key slots whose copies both fail their check (R530). -/
  keysLost : List Nat
  cryptoFaultAt : Option Nat
  /-- What the boot has to tell once the log runs: 1 a fallback, 2 no bootable image, 3 a failed trial. -/
  bootNotes : List Nat
  /-- Whether a further section failed its digest: the boot has stopped (R517). -/
  stopped : Bool
  deriving DecidableEq, Repr

/-- A perturbation slot at work (R543). -/
structure Armed where
  slot : Nat
  armedAt : Nat
  next : Nat
  done : Nat
  deriving DecidableEq, Repr

/-- What perturbations in force change (Table 19-4), by target. -/
structure Perturb where
  armed : List Armed
  geometry : NMap Nat
  render : NMap Nat
  lift : NMap Nat
  dramHold : NMap Nat
  rings : NMap Nat
  credits : NMap Nat
  rxDelay : NMap Nat
  dradaDelay : NMap Nat
  stamps : NMap Int
  residues : List (Nat × Nat)
  poison : NMap Nat
  corrupt : NMap Nat
  sensors : NMap (Int × Nat)
  clockTrip : Bool
  silence : Nat
  deriving DecidableEq, Repr

/-- The season account and the self-tests (chapter 19). -/
structure Season where
  measureAt : Nat
  /-- Whether SeasonCmd asks for a measurement besides the periodic ones (R532). -/
  extra : Bool
  minuteTemp : Int
  minuteVolt : Nat
  minuteSamples : Nat
  /-- Equivalent time of the powered days, newest first, and the number of the day in front. -/
  days : List Nat
  dayNumber : Nat
  /-- How many days have been powered days. -/
  dayCount : Nat
  thresholds : List Nat
  history : List Octets
  marginTold : Bool
  /-- Starting points of the equalised lanes. -/
  starts : NMap Octets
  eyeTold : List Nat
  rampFrom : Nat
  rampAt : Nat
  test : Option (Nat × Nat)
  deriving DecidableEq, Repr

end Sys2Proof.Machine
end

