-- ==== Sys2Proof/Machine/State.lean ====
section
/-! DEFINITION. The state of the block as plain data, what stops a command, and the state right after reset. -/

namespace Sys2Proof.Machine

/-- What stops the machine: nothing does. Every fault the spec describes is an effect on the state (Table 1-7). -/
inductive Fault where
  deriving DecidableEq, Repr

/-- Why a command has no meaning here. -/
inductive Refusal where
  /-- Raised by an arm of `exec` for a command not reached yet: safe, the run stops. -/
  | notModelled (mnemonic : String)
  /-- Raised by JTAG_INSTRUCTION for a debug or test instruction of an unlocked TAP: the spec gives the debug unit no
  behaviour (R525). Safe: the run stops. -/
  | debugUnit
  deriving DecidableEq, Repr

/-- Everything the spec gives the module, but the queue of commands and the addressed memory. -/
structure Dev where
  /-- Every dictionary entry whose value is not its default, by entry key (R36 to R43). -/
  regs : NMap Val
  /-- The MRAM persistent store (R40): the stored values that are not defaults. -/
  store : NMap Val
  /-- The REBOOT entries in force since the last full reset, where not the default (R39). -/
  force : NMap Val
  /-- Values that commits replaced, newest first: samples of earlier dates still use them (R14). -/
  dated : List DatedRec
  /-- FabricClk cycles since power-on, the model's own measure of time (FRC is clock less frcBase, R321). -/
  clock : Nat
  /-- The clock at the last full reset. -/
  frcBase : Nat
  /-- When each periodic or pending event was last due, by a number for each timer. -/
  timers : NMap Nat
  /-- When each once-per-second notice was last raised, by a key for each source. -/
  limiter : NMap Nat
  /-- The number of the next free value (the model's own). -/
  freeCtr : Nat
  /-- The media sample count of the tick in progress (R7, R13). -/
  msc : Nat
  /-- The clock at the start of the tick in progress. -/
  tickAt : Nat
  /-- What the module has sent, newest first (the model's own record of its outputs). -/
  out : List Out
  /-- The power stage and the power state (chapter 20). -/
  power : Power
  /-- DTLS sessions, and CAN FD host numbers that have been served (R49, R53). -/
  sessions : List Session
  /-- Subscriptions (R60). -/
  subs : List Subscription
  /-- Open block transfers (R57). -/
  transfers : List Transfer
  /-- The 16-bit transfer counter (R57). -/
  nextTransfer : Nat
  /-- The subscription counter. -/
  nextSub : Nat
  /-- The status of the last command given or request served (Table 2-7). -/
  lastStatus : Nat
  /-- Blocked IPv4 sources and when each block ends (R509). -/
  blocked : NMap Nat
  /-- Refused handshakes of each IPv4 source, by time (R509). -/
  refusals : NMap (List Nat)
  /-- The calendar and the journal (chapter 3). -/
  cal : Calendar
  /-- The 16 motion FIFOs (R95). -/
  motion : Fixed MotionFifo 16
  /-- Position records decoded for a boundary, to be applied after its commits (R98, R127). -/
  motionDue : Nat × List MotionRec
  /-- The lift lines (R101). -/
  lift : Lift
  /-- The event log (R495, R499). -/
  log : Log
  /-- The geometry engine (chapter 4). -/
  geo : Geometry
  /-- The four planes (R11). -/
  planes : Planes
  /-- The render core (chapter 5). -/
  rend : Render
  /-- The mix engine (chapter 6). -/
  mix : Mix
  /-- The correction stage and its flash store (chapter 7). -/
  corr : Correction
  /-- The five network ports (chapter 9), M0 to M3 and the management port. -/
  ports : Fixed Port 5
  /-- The receive rings (R273). -/
  rxRings : Fixed RxRing 16
  /-- The transmit rings (R273). -/
  txRings : Fixed TxRing 16
  /-- The flow engine (chapter 10). -/
  flows : Flows
  /-- The conversion pool (chapter 8). -/
  pool : Pool
  /-- The four TDM ports (chapter 12). -/
  tdm : Fixed TdmPort 4
  /-- The headset port (R366). -/
  headset : Headset
  /-- The show recorder (R372). -/
  recd : Recorder
  /-- The DTLS session whose request is being handled (R528, the model's record). -/
  serving : Option Nat
  /-- What firmware or software read last from a register with a read row of its own (the model's record). -/
  fwRead : Nat
  /-- The read-back text of the last command entry given (R54). -/
  lastResult : Octets
  /-- The Almanac, the servo and the root DPLL (chapter 11). -/
  alm : Almanac
  /-- The DRAM controller (chapter 13); its octets stand in State.mem. -/
  dram : Dram
  /-- The on-chip memory banks (chapter 14). -/
  sram : Sram
  /-- The pair (chapter 15). -/
  pair : Pair
  /-- The Drada links and the group (chapter 16). -/
  drada : Drada
  /-- The supervisor (chapter 17). -/
  sup : Super
  /-- Keys and firmware slots (chapter 18). -/
  sec : Security
  /-- The season account and self-tests (chapter 19). -/
  season : Season
  /-- Requests that wait for another unit's answer (R477). -/
  gathers : List Gather
  /-- The number of the next request to another unit (the model's own). -/
  nextRequest : Nat
  /-- BLOCK_END requests that wait for the outcome of an entry, by its identifier (R56). -/
  heldEnds : List (Nat × Request)
  /-- Perturbations in force (R541 to R544). -/
  perturb : Perturb
  deriving DecidableEq, Repr

/-- The state: the commands that wait, first in first out; the octets of DRAM; the module. -/
structure State where
  /-- The commands that wait, oldest first. -/
  pending : List Instr
  /-- The octets of DRAM at usable addresses (R382), in canonical form: an unlisted octet reads 0 (R404). -/
  mem : List Host.Cell
  /-- The module. -/
  dev : Dev
  deriving DecidableEq, Repr

/-- The memory's canonical form: addresses rising, no octet listed that an unlisted address reads as. -/
abbrev Memory.wf (m : List Host.Cell) : Prop := nwf (0 : BitVec 8) m = true

/-- A DRAM channel after start-up (R403, R404). -/
def resetChannel : DramChan where
  holder := none
  reqs := []
  queue := []
  openRows := []
  hits := []
  raa := []
  held := []
  mr4 := 1
  lowPolls := 0
  checkLines := []
  completedAt := 0
  ahead := 0

/-- The DRAM controller after start-up. -/
def resetDram : Dram where
  chans := .fill 4 resetChannel
  bursts := 0
  policyAt := []
  scrubBase := [0, 0, 0, 0]
  lastLine := []
  lastPoisoned := false
  bad := []

/-- A pair that has not formed (R426, R454). -/
def resetPair : Pair where
  lead := false
  requested := false
  assertAt := none
  outAt := 0
  inAt := 0
  retryAt := 0
  reason := 2
  bootLeftAt := 0
  partner := none
  lastFrame := none
  silent := false
  releaseSeen := false
  handover := none
  waiting := false
  lastHandover := none
  stageAt := 0
  catchupAt := 0
  gapRun := 0
  sigs := []
  theirs := []
  theirIncomplete := []
  agreed := []
  odd := false
  planes := []
  incomplete := []
  faults := []
  audit := none
  patrolAt := none
  heldPackets := []
  mirrors := []
  nextMirror := 0
  seeds := []
  refused := false
  countersTold := []

/-- A Drada link that is DOWN (R481). -/
def resetLink : DradaLink where
  cand := 0
  tried := 0
  lastGood := 0
  candAt := 0
  credits := [0, 0, 0]
  freed := [0, 0, 0]
  txSeq := 0
  rxSeq := 0
  replay := []
  failed := 0
  replayAsked := none
  waiting := []
  idle := false
  busyAt := 0
  timeSent := none
  timeGood := 0
  timeMissed := 0
  loadOctets := 0
  returnedAt := 0

/-- The Drada links after a full reset, and no group. -/
def resetDrada : Drada where
  links := .fill 3 resetLink
  align := []
  members := []
  collected := []
  ring := false
  head := []
  branches := []
  breaks := []
  formBy := none
  formed := false
  held := []

/-- The supervisor after a full reset (Table 17-2). -/
def resetSuper : Super where
  remap := false
  romLock := false
  norWrite := false
  sliceMask := 0
  kickAt := none
  runs := []
  fanSlowSince := none
  fanStalled := false
  clockBad := false

/-- No key but the factory's, an image in slot A confirmed (DESIGN CHOICE: a module as supplied). -/
def resetSecurity : Security where
  keys := []
  slots := ⟨[{ state := 4, image := [], begun := false }, { state := 0, image := [], begun := false }], rfl⟩
  running := 0
  trial := false
  readySince := none
  nonce := none
  keysLost := []
  cryptoFaultAt := none
  bootNotes := []
  stopped := false

/-- A season account that has not begun. -/
def resetSeason : Season where
  measureAt := 0
  extra := false
  minuteTemp := 0
  minuteVolt := 0
  minuteSamples := 0
  days := []
  dayNumber := 0
  dayCount := 0
  thresholds := []
  history := []
  marginTold := false
  starts := []
  eyeTold := []
  rampFrom := 0
  rampAt := 0
  test := none

/-- No perturbation (R543). -/
def resetPerturb : Perturb where
  armed := []
  geometry := []
  render := []
  lift := []
  dramHold := []
  rings := []
  credits := []
  rxDelay := []
  dradaDelay := []
  stamps := []
  residues := []
  poison := []
  corrupt := []
  sensors := []
  clockTrip := false
  silence := 0

/-- A network port after a full reset (R292). -/
def resetPort : Port where
  cand := 0
  tried := 0
  lastGood := 0
  candAt := 0
  answers := false
  answeredAt := 0
  rxOctets := 0
  txOctets := 0
  sending := none
  heldUntil := none
  heldSince := 0
  ignoreUntil := none
  pausing := none
  pauseSentAt := 0
  pauseStopped := false
  pauseLimits := 0
  control := []
  flowQueue := []
  lpi := false
  wakeAt := 0
  idleSince := 0
  phyEee := false
  secured := false
  txSci := 0
  rxSas := []
  txSas := []
  tsQueue := []
  tsOverflow := false
  lastRing := 0
  members := []
  oldQueriers := (0, 0)

/-- Receive buffers empty (R319). -/
def resetRx : RxFlow where
  packets := []
  lastAt := 0
  paths := [none, none]
  newest := none
  window := []
  srcMac := []
  bySeqNr := false
  lostTo := none
  holes := []
  haveSsrc := false

/-- The flow engine after a full reset (R319). -/
def resetFlows : Flows :=
  { rx := [], sources := [], inFades := [], txSlots := [], outFades := [], egress := [], prp := [], reload := [] }

/-- A tracker without state (Table 8-4). -/
def resetTracker : Tracker :=
  { state := 0, seen := 0, muteAt := 0, heardTo := 0, rhoF := 0, rhoI := 0, rhoA := 0, acc := 0, err := 0, setDue := false, noted := none }

/-- An unassigned pool channel (R252). -/
def resetChan : ConvChan := { mode := 0, startDate := 0, dc := 0, tracker := resetTracker, zeroBlock := none, clearedTo := none }

/-- A TDM port that has not started (R379). -/
def resetTdm : TdmPort where
  started := false
  frame := 0
  edges := []
  words := []
  tracker := resetTracker
  zeroNext := false
  fadeFrame := none
  leadWords := []
  ended := []

/-- The headset port with no plug (R366). -/
def resetHeadset : Headset where
  jackSince := 0
  plugged := false
  measured := false
  toggle := false
  mic := []
  micOpenAt := none
  hpAt := none
  hpRamps := []
  sideFrom := 0
  sideTo := 0
  sidePos := 768

/-- The power stage as reset is released after a power-on (R561, R565). -/
def resetPower : Power where
  state := .boot
  vin := true
  overVoltage := false
  wake := false
  nreset := true
  bootSel := false
  rolePref := false
  pairPresent := true
  rails := true
  pgood := true
  vaux := true
  held := true
  latchedOff := false
  cause := 1
  restarts := []
  resetDue := none
  offDue := false
  stopDue := false
  bootAt := 0
  shapeBad := false
  tripAt := 0
  bootFault := false
  faultAt := 0
  tripped := false
  stoppedAt := none

/-- An empty motion FIFO whose stream map is unseeded (R68, R95). -/
def resetFifo : MotionFifo :=
  { words := [], dropping := false, seeded := false, staleRun := 0, acceptedAt := 0, fixedFor := 0, fixedCount := 0, counted := false }

/-- A clear render core (R169). -/
def resetRender : Render :=
  { xp := [], law0 := [], patches := [], patchSeq := 0, patchTold := [], assembly := [], ring := [], bulk := [], staging := []
    lateLines := [], absent := [], rendered := [], targets := [], completed := [], doneAt := 0, doneBefore := 0
    outBuf := [], fade := [], zeroed := [], faulted := [] }

/-- The empty programme: every section is END (R199). -/
def emptyProgramme : Programme :=
  { image := [], crc := 0, id := 0, dualOf := 0, cores := List.replicate 8 none, cells := [] }

/-- The mix engine under the empty programme. -/
def resetMix : Mix :=
  { cur := emptyProgramme, prev := none, swapDate := 0, dualLen := 0, egressDelay := List.replicate 5 [], held := [] }

/-- A clock input that has seen no edge. -/
def resetInput : ClockInput :=
  { lastEdge := none, periods := [], edges := [], since := 0, qualified := false, lost := true }

/-- The Almanac after a full reset: SN mode, S = SavedTime (0), INC nominal (R350). -/
def resetAlmanac : Almanac where
  snMode := true
  secs := 0
  nanos := 0
  frac := 0
  offset := 0
  base := 0
  inc := 0x145855555
  pendingInc := none
  records := []
  aligned := false
  everAligned := false
  realignDue := false
  startDate := 0
  overRun := 0
  thetaRun := 0
  integ := 0
  paths := []
  goodRun := 0
  badRun := 0
  lastSync := 0
  twoStep := none
  delayReq := none
  syncRef := none
  leader := []
  seqSync := 0
  seqAnnounce := 0
  seqDelay := 0
  lastAnnounce := 0
  foreign := []
  everQualified := false
  qualifiedAt := []
  faultAt := none
  silentUntil := 0
  dradaOk := false
  leaderIp := 0
  deferred := false
  inputs := .fill 4 resetInput

/-- The module right after a power-on reset is released: BOOT begins (R563, R565). -/
def Dev.reset : Dev where
  regs := [(0x800001, .int 0)]
  store := []
  force := []
  dated := []
  clock := 0
  frcBase := 0
  timers := []
  limiter := []
  freeCtr := 0
  msc := 0
  tickAt := 0
  out := []
  power := resetPower
  sessions := []
  subs := []
  transfers := []
  nextTransfer := 1
  nextSub := 1
  lastStatus := 0
  blocked := []
  refusals := []
  cal := { entries := [], gens := [], nextOrder := 0, journal := [] }
  motion := .fill 16 resetFifo
  motionDue := (0, [])
  lift := { waiting := [], engines := .fill 4 none, nextId := 0, reservedItems := 0, snapshot := [], retry := [] }
  log := { ring := [], newest := 0, clearedTo := 0, fifo := [], lostNow := 0, pressure := false, correctedAt := [] }
  geo := { pending := [], coming := [], jumps := [], bulkUsed := [], late := [], fullOnStart := false, served := [] }
  planes := { ingress := [], object := [], render := [], egress := [] }
  rend := resetRender
  mix := resetMix
  corr := { chains := [], fades := [], shadows := [], slots := [], stale := [], startMuted := [], flash := [], flashSeq := 0 }
  ports := .fill 5 resetPort
  rxRings := .fill 16 { owned := [], done := [] }
  txRings := .fill 16 { posted := [], busy := [], done := [] }
  flows := resetFlows
  pool := { chans := [], out := [], fromLead := [] }
  tdm := .fill 4 resetTdm
  headset := resetHeadset
  recd := { ring := [], gaps := [], bad := [], startTick := 0 }
  serving := none
  fwRead := 0
  lastResult := []
  alm := resetAlmanac
  dram := resetDram
  sram := { states := [], repair := [], unusable := [], corrected := [], recheck := [], doubles := [], flips := [], half := 0, march := none }
  pair := resetPair
  drada := resetDrada
  sup := resetSuper
  sec := resetSecurity
  season := resetSeason
  gathers := []
  nextRequest := 1
  heldEnds := []
  perturb := resetPerturb

/-- The state right after reset: nothing waits, DRAM reads zero, BOOT begins. -/
def State.reset : State := { pending := [], mem := [], dev := Dev.reset }

end Sys2Proof.Machine
end

