-- ==== Sys2Proof/Machine/Ops.lean ====
section
/-! DEFINITION. The named operations over the state: entries, time, notices, lift lines, log. -/

namespace Sys2Proof.Machine

/-- The status codes of Table 2-7. -/
abbrev Status := Nat

namespace Status
/-- OK. -/
abbrev ok : Status := 0x00
/-- COMMITTED. -/
abbrev committed : Status := 0x01
/-- STAGED. -/
abbrev staged : Status := 0x02
/-- PARTIAL. -/
abbrev partially : Status := 0x03
/-- REFUSED. -/
abbrev refused : Status := 0x04
/-- LATE. -/
abbrev late : Status := 0x05
/-- NO_ENTRY. -/
abbrev noEntry : Status := 0x10
/-- NO_SUB. -/
abbrev noSub : Status := 0x11
/-- READ_ONLY. -/
abbrev readOnly : Status := 0x12
/-- ROLE. -/
abbrev role : Status := 0x13
/-- TYPE. -/
abbrev type : Status := 0x14
/-- RANGE. -/
abbrev range : Status := 0x15
/-- BAD_LENGTH. -/
abbrev badLength : Status := 0x16
/-- TOO_LONG. -/
abbrev tooLong : Status := 0x17
/-- BUSY. -/
abbrev busy : Status := 0x18
/-- STATE. -/
abbrev state : Status := 0x19
/-- NO_UNIT. -/
abbrev noUnit : Status := 0x1A
/-- CONFLICT. -/
abbrev conflict : Status := 0x1B
/-- BLOCK_SEQ. -/
abbrev blockSeq : Status := 0x20
/-- BLOCK_CHECK. -/
abbrev blockCheck : Status := 0x21
/-- BLOCK_NONE. -/
abbrev blockNone : Status := 0x22
/-- SUB_FULL. -/
abbrev subFull : Status := 0x30
/-- UNSUPPORTED. -/
abbrev unsupported : Status := 0x40
/-- INTERNAL. -/
abbrev internal : Status := 0x7F
end Status

/-- The order code of the module (R3). -/
def orderCode : Octets := ascii (if Config.extended then "FK8240-LG-X" else "FK8240-LG-C")

/-- The serial number: "J8240", the order code's letter, year and week, a factory letter, a decimal sequence number (R590). -/
def serialNumber : Octets :=
  ascii "J8240" ++ ascii (if Config.extended then "X" else "C") ++ (List.range 10).map fun i =>
    let n := (Config.serialChar i).toNat
    if i = 4 then octet (0x41 + n % 26) else octet (0x30 + n % 10)

/-- The default of element `i`, sub-index offset `j` of a row. -/
def Row.default (r : Row) (i j : Nat) : Val :=
  match r.dflt with
  | .int n => .int n
  | .bytes l => .bytes l
  | .elemPlus n => .int (n + i)
  | .byElem l => .int (l.getD i 0)
  | .bySub l => .int (l.getD j 0)
  | .byCode c x => .int ((if Config.extended then x else c).getD i 0)
  | .moduleConst => .int (Config.moduleConst (r.key i j) % 256 ^ r.ty.size : Nat)
  | .macBlock => .int (Config.macBase % (2 ^ 48 - 4) + i : Nat)
  | .moduleText => .bytes (if r.sub = 4 then serialNumber else orderCode)
  | .typeName => .bytes (ascii (tyNames.getD i ""))

/-- The integer of a value; 0 for a string of octets. -/
def Val.toInt : Val → Int
  | .int n => n
  | .bytes _ => 0

/-- The octets of a value; none for an integer. -/
def Val.toBytes : Val → Octets
  | .int _ => []
  | .bytes l => l

namespace Dev

/-! ### Entries -/

/-- The value of an entry. -/
def val (d : Dev) (r : Row) (i : Nat := 0) (j : Nat := 0) : Val :=
  nget (r.default i j) d.regs (r.key i j)

/-- The value of an integer entry. -/
def int (d : Dev) (r : Row) (i : Nat := 0) (j : Nat := 0) : Int := (d.val r i j).toInt

/-- The value of an unsigned entry. -/
def nat (d : Dev) (r : Row) (i : Nat := 0) (j : Nat := 0) : Nat := (d.int r i j).toNat

/-- The value of a BOOL entry. -/
def flag (d : Dev) (r : Row) (i : Nat := 0) : Bool := d.nat r i ≠ 0

/-- The value of an entry of octets. -/
def bytes (d : Dev) (r : Row) (i : Nat := 0) : Octets := (d.val r i).toBytes

/-- An entry written, in canonical form. -/
def setVal (d : Dev) (r : Row) (v : Val) (i : Nat := 0) (j : Nat := 0) : Dev :=
  { d with regs := nset (r.default i j) d.regs (r.key i j) v }

/-- An integer entry written. -/
def setInt (d : Dev) (r : Row) (v : Int) (i : Nat := 0) (j : Nat := 0) : Dev := d.setVal r (.int v) i j

/-- An unsigned entry written. -/
def setNat (d : Dev) (r : Row) (v : Nat) (i : Nat := 0) (j : Nat := 0) : Dev := d.setVal r (.int v) i j

/-- A BOOL entry written. -/
def setFlag (d : Dev) (r : Row) (b : Bool) (i : Nat := 0) : Dev := d.setNat r (b2n b) i

/-- The persistent store brought up to an entry's value (R40). -/
def keep (d : Dev) (r : Row) (i : Nat := 0) (j : Nat := 0) : Dev :=
  { d with store := nset (r.default i j) d.store (r.key i j) (d.val r i j) }

/-- A counter entry advanced by `n`, modulo its width; kept in MRAM where the entry is persistent. -/
def bump (d : Dev) (r : Row) (i : Nat := 0) (n : Nat := 1) : Dev :=
  let d := d.setNat r ((d.nat r i + n) % 256 ^ r.ty.size) i
  if r.persistent then d.keep r i else d

/-- An entry raised to a value if it is below (a peak since reset). -/
def peak (d : Dev) (r : Row) (v : Nat) (i : Nat := 0) : Dev :=
  if d.nat r i < v then d.setNat r v i else d

/-- The value of a REBOOT entry in force since the last full reset (R39). -/
def inForce (d : Dev) (r : Row) (i : Nat := 0) : Nat :=
  (nget (r.default i 0) d.force (r.key i)).toInt.toNat

/-- The value of a DATED entry for samples of an ingress date (R14). -/
def valAt (d : Dev) (date : Nat) (r : Row) (i : Nat := 0) (j : Nat := 0) : Val :=
  let k := r.key i j
  match (d.dated.filter fun x => x.key == k && date < x.date).getLast? with
  | some x => x.old
  | none => d.val r i j

/-- The integer value of a DATED entry for samples of an ingress date. -/
def intAt (d : Dev) (date : Nat) (r : Row) (i : Nat := 0) (j : Nat := 0) : Int := (d.valAt date r i j).toInt

/-- The unsigned value of a DATED entry for samples of an ingress date. -/
def natAt (d : Dev) (date : Nat) (r : Row) (i : Nat := 0) (j : Nat := 0) : Nat := (d.intAt date r i j).toNat

/-- The state with its DATED entries as in force for samples of an ingress date (R14). -/
def asOf (date : Nat) (d : Dev) : Dev :=
  { d with regs := (d.dated.filter fun x => date < x.date).foldl (fun m x => nput m x.key x.old) d.regs }

/-! ### The shape in force -/

/-- D, the group's extra latency (R29). -/
def lag (d : Dev) : Nat := d.nat Reg.groupExtraLatency

/-- The render rate Fr in Hz. -/
def fr (d : Dev) : Nat := d.inForce Reg.renderRate

/-- Whether the render rate is 96 kHz. -/
def fast (d : Dev) : Bool := d.fr == 96000

/-- The number of partitions P. -/
def parts (d : Dev) : Nat := d.inForce Reg.partitionCount

/-- OutputsConfigured in force. -/
def outs (d : Dev) : Nat := d.inForce Reg.outputsConfigured

/-- The outputs of partition `p` (R27). -/
def partOuts (d : Dev) (p : Nat) : Nat :=
  if d.parts = 1 then d.outs
  else match p with
  | 0 => d.inForce Reg.partitionOutputs0
  | 1 => d.inForce Reg.partitionOutputs1
  | 2 => d.inForce Reg.partitionOutputs2
  | _ => d.inForce Reg.partitionOutputs3

/-- The first module output of partition `p` (R27). -/
def partBase (d : Dev) (p : Nat) : Nat := ((List.range p).map d.partOuts).foldl (· + ·) 0

/-- The partition of a module output. -/
def partOfOut (d : Dev) (m : Nat) : Nat :=
  ((List.range d.parts).filter fun p => d.partBase p ≤ m).getLastD 0

/-- The partition of a module object: its rink modulo P (R26). -/
def partOfObj (d : Dev) (n : Nat) : Nat := n % (max d.parts 1)

/-- The slots S of a rink of partition `p` (R135). -/
def slotsPer (d : Dev) (p : Nat) : Nat :=
  min (if d.fast then 128 else 256) (327680 / max (d.partOuts p) 1)

/-- The object capacity of partition `p` (R135). -/
def capacityOf (d : Dev) (p : Nat) : Nat := 16 / max d.parts 1 * d.slotsPer p

/-- Whether a module object lies below the capacity (R4, R135). -/
def objectExists (d : Dev) (n : Nat) : Bool := n / 16 < d.slotsPer (d.partOfObj n)

/-- The window length W (R137). -/
def windowW (d : Dev) : Nat := if d.fast then 8192 else 4096

/-- The bulk ring length (R141). -/
def ringSamples (d : Dev) : Nat := if d.fast then 262144 else 131072

/-! ### Time -/

/-- FabricClk cycles in a number of milliseconds. -/
def msCycles (n : Nat) : Nat := n * 786432

/-- FabricClk cycles in a number of microseconds. -/
def usCycles (n : Nat) : Nat := n * 786432 / 1000

/-- FabricClk cycles in a number of seconds. -/
def secCycles (n : Nat) : Nat := n * 786432000

/-- Whole microseconds in a number of FabricClk cycles. -/
def cyclesToUs (n : Nat) : Nat := n * 1000 / 786432

/-- Whole milliseconds in a number of FabricClk cycles, rounded half up. -/
def cyclesToMs (n : Nat) : Nat := (2 * n + 786432) / (2 * 786432)

/-- FabricClk cycles in one sample tick (R15: 16,384 CoreClk cycles at 96 kHz, FabricClk being half of CoreClk). -/
def tickCycles (d : Dev) : Nat := if d.fast then 8192 else 16384

/-- The FRC value: cycles since the last full reset, in sixteenths (Table 11-1). -/
def frc (d : Dev) : Nat := (d.clock - d.frcBase) * 16

/-- One second of Almanac time, in 2^-32 ns. -/
def almSecond : Nat := 1000000000 * 2 ^ 32

/-- Almanac time in FRC mode for an FRC value (R323). -/
def almAtFrc (d : Dev) (f : Nat) : Nat :=
  ((d.alm.offset : Int) + (((f : Int) - d.alm.base) * d.alm.inc + 8) / 16).toNat

/-- Almanac time A now (R322 to R324). -/
def almNow (d : Dev) : Nat :=
  if d.alm.snMode then (d.alm.secs * 1000000000 + d.alm.nanos) * 2 ^ 32 + d.alm.frac
  else d.almAtFrc d.frc

/-- The registers S, N and Nf set from Almanac time. -/
def setSn (d : Dev) (a : Nat) : Dev :=
  { d with alm := { d.alm with secs := a / almSecond % 2 ^ 48, nanos := a / 2 ^ 32 % 1000000000, frac := a % 2 ^ 32 } }

/-- Time passes: `n` FabricClk cycles; in SN mode each adds INC to N.Nf with its carries (R324). -/
def advance (n : Nat) (d : Dev) : Dev :=
  let d' := { d with clock := d.clock + n }
  if d.alm.snMode then d'.setSn (d.almNow + n * d.alm.inc) else d'

/-- Time passes until a due moment, if it lies ahead; while the sample clock is aligned, not beyond the end of the tick in
progress, since only SAMPLE_TICK ends a tick. -/
def advanceTo (due : Nat) (d : Dev) : Dev :=
  d.advance ((if d.alm.aligned then min due (d.tickAt + d.tickCycles) else due) - d.clock)

/-- The Almanac seconds. -/
def seconds (d : Dev) : Nat := d.almNow / almSecond

/-- MscNow: the count of the tick in progress; before alignment, the count that Almanac time gives (R555). -/
def mscNow (d : Dev) : Nat :=
  if d.alm.aligned then d.msc else d.almNow * d.fr / almSecond

/-- The date of the block in progress. -/
def blockDate (d : Dev) : Nat := d.mscNow / 32 * 32

/-- When a timer was last due. -/
def timer (d : Dev) (k : Nat) : Nat := nget 0 d.timers k

/-- What a periodic command counts its period from: when it was last due, or the release of reset. -/
def timerFrom (d : Dev) (k : Nat) : Nat := max (d.timer k) d.frcBase

/-- A timer set. -/
def setTimer (d : Dev) (k t : Nat) : Dev := { d with timers := nset 0 d.timers k t }

/-- A command that comes with a due moment: time passes until then and `f` acts; where the tick in progress ends first, the
command has come too early and has no effect but the wait. -/
def onDue (due : Nat) (f : Dev → Dev) (d : Dev) : Dev :=
  let d := d.advanceTo due
  if d.clock < due then d else f d

/-- A periodic command: due one period after the moment it was last due, the first time after the release of reset; periods missed whole
are dropped. -/
def onPeriod (k period : Nat) (f : Dev → Dev) (d : Dev) : Dev :=
  let due := d.timerFrom k + period
  d.onDue due fun d => f (d.setTimer k (if d.clock < due + period then due else d.clock))

/-- Whether a once-per-second notice may be raised now, and the record that it was. -/
def oncePerSecond (k : Nat) (d : Dev) : Bool × Dev :=
  match nget? d.limiter k with
  | some t => if d.clock < t + secCycles 1 then (false, d) else (true, { d with limiter := nput d.limiter k d.clock })
  | none => (true, { d with limiter := nput d.limiter k d.clock })

/-! ### Free values -/

/-- A fresh free value, and the state with the counter advanced. -/
def freeNat (d : Dev) : Nat × Dev := (Config.free d.freeCtr, { d with freeCtr := d.freeCtr + 1 })

/-- A fresh free signed value. -/
def freeInt (d : Dev) : Int × Dev := (Config.freeInt d.freeCtr, { d with freeCtr := d.freeCtr + 1 })

/-- Fresh free octets. -/
def freeOctets (d : Dev) (n : Nat) : Octets × Dev :=
  (Config.freeOctets d.freeCtr n, { d with freeCtr := d.freeCtr + n })

/-- An output recorded. -/
def emit (o : Out) (d : Dev) : Dev := { d with out := o :: d.out }

/-! ### Lift lines -/

/-- Places in use: items that wait, items in service, and reserved places (R101, R104). -/
def liftUsed (d : Dev) : Nat :=
  d.lift.waiting.length + (d.lift.engines.items.filter Option.isSome).length + d.lift.reservedItems

/-- Whether an item may be queued at a level: 256 places are for level 0 only (R101). -/
def liftRoom (d : Dev) (level : Nat) : Bool :=
  if level = 0 then d.liftUsed < 4096 else d.liftUsed < 3840

/-- Whether a flow is in service. -/
def flowBusy (d : Dev) (flow : Nat) : Bool :=
  d.lift.engines.items.any fun e => match e with | some i => i.flow == flow | none => false

/-- Whether an item is the oldest waiting item of its flow. -/
def oldestOfFlow (d : Dev) (x : LiftItem) : Bool :=
  match d.lift.waiting.find? fun y => y.flow == x.flow with
  | some y => y.id == x.id
  | none => false

/-- The item that a free engine takes: the oldest eligible one of the lowest level (R101). -/
def nextItem (d : Dev) : Option LiftItem :=
  (List.range 8).findSome? fun l =>
    d.lift.waiting.find? fun x => x.level == l && !d.flowBusy x.flow && d.oldestOfFlow x

/-- LIFT_ITEM_DISPATCH: a free engine takes the next eligible item (R101). -/
def dispatch (d : Dev) : Dev :=
  match d.lift.engines.items.findIdx? (·.isNone), d.nextItem with
  | some e, some x =>
    let x' := { x with startedAt := d.clock }
    let d := { d with lift := { d.lift with
      waiting := d.lift.waiting.filter (·.id != x.id)
      engines := d.lift.engines.modify e (fun _ => some x') } }
    d.bump Reg.levelServed x.level
  | _, _ => d

/-- The level at which a kind's items are queued now (R103). -/
def kindLevel (d : Dev) (kind : Nat) : Nat := if kind = 0 then 0 else d.nat Reg.kindLevel kind

/-- A work item queued, if a place is free. -/
def liftPut? (d : Dev) (kind flow : Nat) (job : LiftJob) : Option Dev :=
  let level := d.kindLevel kind
  if d.liftRoom level then
    let x : LiftItem := { id := d.lift.nextId, kind, level, flow := flow % 256, queuedAt := d.clock, startedAt := 0, job, failed := false, again := false }
    some ({ d with lift := { d.lift with waiting := d.lift.waiting ++ [x], nextId := d.lift.nextId + 1 } }).dispatch
  else none

/-! ### Log and notices -/

/-- The areas of Table 2-2 in row order: first and last index. -/
def areas : List (Nat × Nat) :=
  [(0x0000, 0x0FFF), (0x1000, 0x1FFF), (0x2000, 0x2FFF), (0x3000, 0x37FF), (0x3800, 0x3FFF), (0x4000, 0x4FFF),
   (0x5000, 0x59FF), (0x5A00, 0x5FFF), (0x6000, 0x60FF), (0x6100, 0x61FF), (0x6200, 0x62FF), (0x6300, 0x67FF),
   (0x6800, 0x6FFF), (0x7000, 0x79FF), (0x7A00, 0x7FFF), (0x8000, 0x8FFF), (0x9000, 0x9FFF), (0xA000, 0xAFFF),
   (0xB000, 0xBFFF)]

/-- The area of an index. -/
def areaOf (idx : Nat) : Nat := (areas.findIdx? fun a => a.1 ≤ idx && idx ≤ a.2).getD 0

/-- The number of this module's unit (0x0001:01). -/
def unitId (d : Dev) : Nat := d.nat Reg.unitId

/-- The log record of an event. -/
def logRec (d : Dev) (kind code idx sub arg : Nat) : LogRec :=
  { kind, sub, code, date := if d.alm.aligned then d.blockDate else 0, arg := arg % 2 ^ 32, index := idx, unit := d.unitId,
    seconds := d.seconds % 2 ^ 24, flags := 0, ext := [] }

/-- A record of a kind of its own; the entry that it names is open. -/
def logOwn (d : Dev) (kind code arg : Nat) : LogRec :=
  let e := Config.noticeEntry (kind * 65536 + code) (arg % 2 ^ 32)
  d.logRec kind code (e / 256 % 65536) (e % 256) arg

/-- A record into the log FIFO, with the rules of a full FIFO (R499). Faults, resets and audit records are never dropped
(R528). -/
def fifoPush (x : LogRec) (d : Dev) : Dev :=
  let urgent := x.kind == 2 || x.kind == 6 || x.kind == 3
  let f := d.log.fifo
  let room := f.length < 1024
  let lostRec := d.logOwn 5 (Config.recordField 5 % 65536) d.log.lostNow
  if room then
    let f' := if d.log.lostNow > 0 ∧ f.length + 1 < 1024 then f ++ [lostRec, x] else f ++ [x]
    let lost' := if d.log.lostNow > 0 ∧ f.length + 1 < 1024 then 0 else d.log.lostNow
    ({ d with log := { d.log with fifo := f', lostNow := lost' } }).peak Reg.logFifoPeak f'.length
  else if urgent then
    match (f.reverse.findIdx? fun y => y.kind == 1) with
    | some i =>
      let f' := (f.eraseIdx (f.length - 1 - i)) ++ [x]
      ({ d with log := { d.log with fifo := f', lostNow := d.log.lostNow + 1 } }).bump Reg.logLost
    | none => { d with log := { d.log with fifo := f ++ [x] } }
  else ({ d with log := { d.log with lostNow := d.log.lostNow + 1 } }).bump Reg.logLost

/-- Whether a log item of a kind is already queued, or waits to be offered again. -/
def logItemQueued (d : Dev) (kind : Nat) : Bool :=
  (d.lift.waiting.any fun x => x.kind == kind && x.job == .logWrite) || d.lift.retry.any fun x => x.1 == kind && x.2.2 == .logWrite

/-- A notice into a session's queue, or counted as lost where it holds 128 (R61). -/
def queueNotice (n : NoticeRec) (d : Dev) (s : Session) : Session × Dev :=
  if s.queue.length < 128 then ({ s with queue := s.queue ++ [n] }, d)
  else ({ s with lost := s.lost + 1 }, d.bump Reg.noticesLost)

/-- Whether a session receives a notice of an area (R62). -/
def wantsArea (d : Dev) (s : Session) (area : Nat) : Bool :=
  if s.can then s.handle == 0x10000 + d.nat Reg.canNoticeHost && (d.nat Reg.canNoticeAreas).testBit area
  else (nget 0x7FFFF s.selects Reg.noticeAreas.key).toNat.testBit area

/-- A notice offered to every session. -/
def offerNotice (n : NoticeRec) (d : Dev) : Dev :=
  let area := areaOf (n.code / 256 * 256)
  let r := d.sessions.foldl (fun (a : List Session × Dev) s =>
    if d.wantsArea s area then
      let q := queueNotice n a.2 s
      (a.1 ++ [q.1], q.2)
    else (a.1 ++ [s], a.2)) ([], d)
  { r.2 with sessions := r.1 }

/-- A record with extended data, carried in continuations of 21 octets (R497). -/
def fifoPushExt (x : LogRec) (ext : Octets) (d : Dev) : Dev :=
  let parts := chunks 21 ext
  let d := d.fifoPush { x with flags := if parts.isEmpty then 0 else 1 }
  parts.zipIdx.foldl (fun d p => d.fifoPush { x with kind := 4, ext := p.1, flags := if p.2 + 1 < parts.length then 1 else 0 }) d

/-- Whether a notice is logged as a security or audit record (R528). -/
def auditCode (code : Nat) : Bool := code = 0x1002 || code = 0x1003 || code = 0x1004 || code = 0xB101 || code / 256 = 0x23 || code / 256 = 0x24

/-- The SHA-384 of the leaf certificate of the session being served, if there is one (R528). -/
def servingCert (d : Dev) : Octets :=
  match d.serving with
  | some h => ((d.sessions.find? fun s => s.handle == h).map (·.cert)).getD []
  | none => []

/-- A notice into the sessions' queues and the log FIFO, without a lift-line item. -/
def noticeAt (code idx sub arg : Nat) (d : Dev) : Dev :=
  let n : NoticeRec := { code, date := d.blockDate, index := idx, sub, arg := arg % 2 ^ 32, unit := d.unitId }
  let d' := d.offerNotice n
  if auditCode code then d'.fifoPushExt (d.logRec 3 code idx sub arg) d.servingCert
  else d'.fifoPush (d.logRec 1 code idx sub arg)

/-- A notice whose entry the spec leaves open. -/
def noticeRaw (code arg : Nat) (d : Dev) : Dev :=
  let e := Config.noticeEntry code (arg % 2 ^ 32)
  d.noticeAt code (e / 256 % 65536) (e % 256) arg

/-- A lift-line engine meets a bus error: its item will end failed (R489). -/
def engineFails (e : Nat) (d : Dev) : Dev :=
  { d with lift := { d.lift with engines := d.lift.engines.modify e fun (x : Option LiftItem) => x.map fun (i : LiftItem) => { i with failed := true } } }

/-- An open block transfer meets a bus error: it is discarded, and its BLOCK_END will say so (R489). -/
def transferFails (n : Nat) (d : Dev) : Dev :=
  match d.transfers[n % (max d.transfers.length 1)]? with
  | some x => { d with transfers := d.transfers.map fun (t : Transfer) => if t.id = x.id then { t with failed := true } else t }
  | none => d

/-- Notice 0xA602: a work item of a kind finds no free place (R104). -/
def liftFullNotice (kind : Nat) (d : Dev) : Dev :=
  let r := d.oncePerSecond (0xA60200 + kind)
  if r.1 then r.2.noticeRaw 0xA602 kind else r.2

/-- A work item, or where no place is free the count in LiftFull and notice 0xA602; the source tries again at the next block
(R104). -/
def liftPut (kind flow : Nat) (job : LiftJob) (d : Dev) : Dev :=
  match d.liftPut? kind flow job with
  | some d' => d'
  | none =>
    let d := d.bump Reg.liftFull
    ({ d with lift := { d.lift with retry := d.lift.retry ++ [(kind, flow, job)] } }).liftFullNotice kind

/-- The items that found no place are offered again (R104). -/
def liftRetry (d : Dev) : Dev :=
  d.lift.retry.foldl (fun d x => d.liftPut x.1 x.2.1 x.2.2) { d with lift := { d.lift with retry := [] } }

/-- The log item that a new record calls for (R499): kind 0 for faults and resets, kind 8 for the rest. -/
def logQueue (kind : Nat) (d : Dev) : Dev :=
  if d.logItemQueued kind then d else d.liftPut kind (if kind = 0 then 255 else 251) .logWrite

/-- Notice 0x2201 when the FIFO comes to hold more than 768 records (R499). -/
def logPressure (d : Dev) : Dev :=
  let high := 768 < d.log.fifo.length
  if high && !d.log.pressure then
    ({ d with log := { d.log with pressure := true } }).noticeRaw 0x2201 d.log.fifo.length
  else { d with log := { d.log with pressure := high } }

/-- LOG_FIFO_ENTRY: an event enters the log FIFO and queues its item (R499). -/
def logEvent (x : LogRec) (d : Dev) : Dev :=
  ((d.fifoPush x).logQueue (if x.kind == 2 || x.kind == 6 then 0 else 8)).logPressure

/-- A notice of a named entry: into every session's queue that wants it, and into the log (R61, R498). -/
def noticeOf (code idx sub arg : Nat) (d : Dev) : Dev := ((d.noticeAt code idx sub arg).logQueue 8).logPressure

/-- A notice of a named entry with octets more in its log record (R61, R82, R497). -/
def noticeWith (code idx sub arg : Nat) (ext : Octets) (d : Dev) : Dev :=
  let n : NoticeRec := { code, date := d.blockDate, index := idx, sub, arg := arg % 2 ^ 32, unit := d.unitId }
  ((((d.offerNotice n).fifoPushExt (d.logRec 1 code idx sub arg) ext)).logQueue 8).logPressure

/-- A notice whose entry the spec leaves open, into the queues and the log (R61, R498). -/
def notice (code : Nat) (arg : Nat) (d : Dev) : Dev := ((d.noticeRaw code arg).logQueue 8).logPressure

/-- A bus error of a fabric master: the firmware's record, its count and notice 0x2103 (R489). Masters in the order of R485: 0 the
supervisor, 1 the block transfer engine, 2 to 5 the lift-line engines, 6 the journal engine, 7 the ring DMA, 8 the audit store reader;
causes in the order of R489's list, from 1 (DESIGN CHOICE, log entry 64). -/
def busError (address master cause : Nat) (d : Dev) : Dev :=
  let d := (d.setNat Reg.lastBusError (address % 2 ^ 40 + master * 2 ^ 40 + cause * 2 ^ 48)).keep Reg.lastBusError
  (d.bump Reg.busErrors).notice 0x2103 (master * 65536 + cause)

/-- A notice raised at most once per second for its key. -/
def noticeOnce (key code arg : Nat) (d : Dev) : Dev :=
  let r := d.oncePerSecond key
  if r.1 then r.2.notice code arg else r.2

/-- A detected fault in the log (Kind 2, R498). -/
def logFault (code arg : Nat) (d : Dev) : Dev :=
  let e := Config.noticeEntry code (arg % 2 ^ 32)
  d.logEvent (d.logRec 2 code (e / 256 % 65536) (e % 256) arg)

/-- A corrected error in the log, at most once per source per second (R31, R498). -/
def logCorrected (source code arg : Nat) (d : Dev) : Dev :=
  let r := d.oncePerSecond (0x1000000 + source)
  if r.1 then r.2.logFault code arg else r.2

/-- A lane's settled coefficients become its next starting point, and its eye is recorded (R537). -/
def storeEye (lane : Nat) (e : Eye) (d : Dev) : Dev :=
  let d := { d with season := { d.season with starts := nput d.season.starts lane e.coeffs, eyeTold := d.season.eyeTold.filter (· ≠ lane) } }
  let d := ((d.setNat Reg.eqEyeWidth (e.width % 65536) lane).setNat Reg.eqEyeHeight (e.height % 65536) lane).setFlag Reg.eqStartValid true lane
  let d := d.keep Reg.eqStartValid lane
  let d := if e.width % 65536 < d.nat Reg.eqEyeWidthMin lane then (d.setNat Reg.eqEyeWidthMin (e.width % 65536) lane).keep Reg.eqEyeWidthMin lane else d
  if e.width < 300 ∧ !(d.season.eyeTold.contains lane) then
    ({ d with season := { d.season with eyeTold := lane :: d.season.eyeTold } }).notice 0xA805 lane
  else d

end Dev

end Sys2Proof.Machine
end

