-- ==== Sys2Proof/Machine/Geometry.lean ====
section
/-! DEFINITION. The geometry engine (chapter 4): integer primitives, laws, marking, service order, targets. -/

namespace Sys2Proof.Machine

/-! ### Integer primitives (R114, R115) -/

/-- The correctly rounded square root of R114: one more than the floor when the remainder exceeds it. -/
def isqrtRound (x : Nat) : Nat :=
  let r := isqrt x
  if r < x - r * r then r + 1 else r

/-- recip(d) = rdiv(2^47, d). -/
def recip (d : Nat) : Nat := (2 * 2 ^ 47 + d) / (2 * d)

/-- The product of non-negative Q4.20 operands, R114. -/
def mulQ (a b : Nat) : Nat := min 0x7FFFFF ((a * b + 2 ^ 19) / 2 ^ 20)

/-- 2^(1/2), 2^(1/4), …, 2^(1/1024) with 96 fraction bits, each the floored square root of the one before. -/
def rootsOfTwo : List Nat :=
  [0x16A09E667F3BCC908B2FB1366, 0x1306FE0A31B7152DE8D5A462F, 0x1172B83C7D517ADCDF7C8C50E, 0x10B5586CF9890F6298B92B717,
   0x1059B0D31585743AE7C548EB5, 0x102C9A3E778060EE6F7CACA4E, 0x10163DA9FB33356D84A66AE32, 0x100B1AFA5ABCBED6129AB13EB,
   0x10058C86DA1C09EA1FF19D294, 0x1002C605E2E8CEC506D21BFC8]

/-- T[j] of R115: 2^(30 + j/1,024) correctly rounded. -/
def powTable (j : Nat) : Nat :=
  if 1024 ≤ j then 2 ^ 31
  else
    let a := (rootsOfTwo.zipIdx.foldl (fun a p => if j.testBit (9 - p.2) then a * p.1 / 2 ^ 96 else a) (2 ^ 96))
    (a + 2 ^ 65) / 2 ^ 66

/-- lin(g) of R115: a dictionary gain in 0.001 dB as a linear Q4.20 value. -/
def lin (g : Int) : Nat :=
  if g ≤ -144000 then 0
  else
    let e := g * 713379
    let i := e / 4294967296
    let f := (e % 4294967296).toNat
    let j := f / 4194304
    let r := f % 4194304
    let t := powTable j + ((powTable (j + 1) - powTable j) * r + 2 ^ 21) / 2 ^ 22
    let s := (10 - i).toNat
    min 0x7FFFFF ((t + 2 ^ (s - 1)) / 2 ^ s)

/-- A coordinate difference clamped per R108. -/
def clamp31 (x : Int) : Int := clampI (-2147483647) 2147483647 x

/-! ### Speed of sound (R116, R117) -/

/-- The speed of sound of a mode, a speed and a temperature (R116). -/
def soundSpeed (mode : Nat) (speed : Nat) (temperature : Int) : Nat :=
  if mode = 0 then speed else isqrtRound (17258438739 * (27315 + temperature)).toNat

/-- SoundScale = rdiv(Fr × 2^39, c) (R117). -/
def soundScaleOf (fr c : Nat) : Nat := (2 * (fr * 2 ^ 39) + c) / (2 * c)

/-- The path delay of a distance (R117). -/
def pathDelay (dist scale : Nat) : Nat := (dist * scale + 2 ^ 19) / 2 ^ 20

namespace Dev

/-- WindowLimit (R118). -/
def windowLimit (d : Dev) : Nat := (d.windowW - 8) * 2 ^ 19

/-- SpeedInForce and SoundScale recomputed at a commit of the sound entries (R116, R117). -/
def refreshSound (d : Dev) : Dev :=
  let c := soundSpeed (d.nat Reg.soundMode) (d.nat Reg.speedOfSound) (d.int Reg.airTemperature)
  (d.setNat Reg.speedInForce c).setNat Reg.soundScale (soundScaleOf d.fr c)

/-- The scene's records as committed for a boundary, SoundScale with them: what an evaluation for it reads (R20). -/
def sceneAt (boundary : Nat) (d : Dev) : Dev :=
  if d.dated.any fun x => decide (boundary < x.date) then (d.asOf boundary).refreshSound else d

/-! ### Marking (R128) -/

/-- The pending set written. -/
def setPending (d : Dev) (p : NMap Mark) : Dev := { d with geo := { d.geo with pending := p } }

/-- A mark joined to an object's pending one: it keeps its oldest age and takes the lowest class among its marks (R128). -/
def addMark (n : Nat) (m : Mark) (d : Dev) : Dev :=
  d.setPending (nput d.geo.pending n (match nget? d.geo.pending n with
    | some o => { cls := min o.cls m.cls, age := min o.age m.age, full := o.full || m.full, leaving := o.leaving || m.leaving, patched := o.patched || m.patched }
    | none => m))

/-- An object marked in the pending set of its pipe. -/
def mark (cls age n : Nat) (full : Bool := false) (leaving : Bool := false) (patched : Bool := false) (d : Dev) : Dev :=
  d.addMark n { cls, age, full, leaving, patched }

/-- An object marked at a boundary. While the data path runs the mark waits for the evaluation of that boundary, which in a
group with D = 30 comes after the next boundary's commits (R20, R467). -/
def markAt (cls age n : Nat) (full : Bool := false) (leaving : Bool := false) (patched : Bool := false) (d : Dev) : Dev :=
  if d.power.state.runs then { d with geo := { d.geo with coming := d.geo.coming ++ [(n, { cls, age, full, leaving, patched })] } }
  else d.mark cls age n full leaving patched

/-- The marks that have come due for a boundary, in the pending sets. -/
def takeMarks (boundary : Nat) (d : Dev) : Dev :=
  let due := d.geo.coming.filter fun x => decide (x.2.age ≤ boundary)
  let d := { d with geo := { d.geo with coming := d.geo.coming.filter fun x => decide (boundary < x.2.age) } }
  due.foldl (fun (d : Dev) x => d.addMark x.1 x.2) d

/-- Whether an object is enabled. -/
def enabled (d : Dev) (n : Nat) : Bool := d.flag Reg.objectEnable n

/-- The enabled objects, in rising order. -/
def enabledObjects (d : Dev) : List Nat :=
  ((d.regs.filter fun p => p.1 / 65536 / 16 == 4 && p.1 % 256 == 1).map fun p => p.1 / 256 - 0x4000).filter d.enabled

/-- Every enabled object of laws 1 to 3 marked in class 2 with full evaluation (R128). -/
def markAll (age : Nat) (d : Dev) : Dev :=
  d.enabledObjects.foldl (fun d n => if d.nat Reg.objectLaw n ≠ 0 then d.markAt 2 age n true else d) d

/-- The marks of the first boundary after a stop (R128, R593): laws 1 to 3 in full, law 0 from its DRAM copies, ahead of what
waits for the object. The scene's records are read in `v`. -/
def markStart (age : Nat) (v d : Dev) : Dev :=
  let d := { d with geo := { d.geo with fullOnStart := false } }
  v.enabledObjects.foldl (fun d n =>
    if v.nat Reg.objectLaw n ≠ 0 then d.mark 0 age n true
    else
      let copies := (d.rend.law0.filter fun p => p.1 / 4096 == n).map fun p =>
        ({ patch := 0, date := age, out := p.1 % 4096, gain := p.2.1, delay := p.2.2 } : PatchRec)
      if copies.isEmpty then d
      else ({ d with rend := { d.rend with patches := nput d.rend.patches n (copies ++ nget [] d.rend.patches n) } }).mark 0 age n (patched := true)) d

/-! ### Laws (R120 to R124) -/

/-- Whether a crosspoint is eligible, the object being enabled or not (R120). -/
def eligibleFor (d : Dev) (n m : Nat) : Bool :=
  let law := d.nat Reg.objectLaw n
  law ≠ 0 && d.partOfOut m == d.partOfObj n && d.flag Reg.speakerEnable m &&
    (d.nat Reg.speakerLawMask m).testBit (law - 1) &&
    (d.nat Reg.objectZoneMask n).testBit (d.nat Reg.speakerZone m)

/-- The outputs of an object's partition. -/
def outputsOf (d : Dev) (n : Nat) : List Nat :=
  let p := d.partOfObj n
  (List.range (d.partOuts p)).map (· + d.partBase p)

/-- The eligible outputs of an object. -/
def eligibleOutputs (d : Dev) (n : Nat) : List Nat := (d.outputsOf n).filter (d.eligibleFor n)

/-- A point of directivity table `t` (R113). -/
def dirPoint (d : Dev) (t k : Nat) : Int := if t = 0 then 0x100000 else d.int Reg.dirPoint t k

/-- The differences from an object to a point. -/
def deltas (d : Dev) (n : Nat) (x y z : Int) : Int × Int × Int :=
  (clamp31 (x - d.int Reg.objectX n), clamp31 (y - d.int Reg.objectY n), clamp31 (z - d.int Reg.objectZ n))

/-- The distance of differences, never below MinDistance; `b` is the blur of law 3. -/
def distanceOf (d : Dev) (v : Int × Int × Int) (b : Nat := 0) : Nat :=
  max (isqrtRound ((v.1 * v.1 + v.2.1 * v.2.1 + v.2.2 * v.2.2).toNat + b * b)) (d.nat Reg.minDistance)

/-- A vector product narrowed by 15 bits (R122, R124). -/
def dotAim (a v : Int × Int × Int) : Int := (a.1 * v.1 + a.2.1 * v.2.1 + a.2.2 * v.2.2 + 2 ^ 14) / 2 ^ 15

/-- The law gain of laws 1 and 2 (R121, R122). -/
def lawGain (d : Dev) (n m : Nat) (v : Int × Int × Int) (dist : Nat) : Nat :=
  let q := min (2 ^ 30) ((d.nat Reg.objectRefDistance n * recip dist + 2 ^ 26) / 2 ^ 27)
  if d.nat Reg.objectLaw n = 1 then
    match d.nat Reg.objectRolloff n with
    | 0 => 0x100000
    | 1 => min 0x7FFFFF (isqrtRound (q * 2 ^ 20))
    | _ => min 0x7FFFFF q
  else
    let p := dotAim (d.int Reg.speakerAimX m, d.int Reg.speakerAimY m, d.int Reg.speakerAimZ m) v
    if p ≤ 0 then 0
    else mulQ (min 0x100000 ((p.toNat * recip dist + 2 ^ 26) / 2 ^ 27)) (min 0x7FFFFF (isqrtRound (q * 2 ^ 20)))

/-- The directivity gain (R124). -/
def dirGain (d : Dev) (n : Nat) (v : Int × Int × Int) (dist : Nat) : Nat :=
  let t := d.nat Reg.objectDirTable n
  let q := dotAim (d.int Reg.objectAimX n, d.int Reg.objectAimY n, d.int Reg.objectAimZ n) v
  let c := clampI (-0x100000) 0x100000 ((q * recip dist + 2 ^ 26) / 2 ^ 27)
  let x := (c + 0x100000).toNat
  let i := x / 32768
  let r := x % 32768
  if i = 64 then (d.dirPoint t 64).toNat
  else (d.dirPoint t i + ((d.dirPoint t (i + 1) - d.dirPoint t i) * r + 2 ^ 14) / 2 ^ 15).toNat

/-- The gain target composed in the order of R124. -/
def composeGain (d : Dev) (n m law dir : Nat) : Nat :=
  min (d.nat Reg.gainCeil)
    (mulQ (mulQ (mulQ (mulQ law dir) (lin (d.int Reg.objectGain n))) (lin (d.int Reg.zoneGain (d.nat Reg.speakerZone m))))
      (lin (d.int Reg.speakerTrim m)))

/-- The differences from an object to a speaker. -/
def toSpeaker (d : Dev) (n m : Nat) : Int × Int × Int :=
  d.deltas n (d.int Reg.speakerX m) (d.int Reg.speakerY m) (d.int Reg.speakerZ m)

/-- Gain and path delay of a crosspoint under law 1 or 2. -/
def target12 (d : Dev) (n m : Nat) : Nat × Nat × Nat :=
  let v := d.toSpeaker n m
  let dist := d.distanceOf v
  (m, d.composeGain n m (d.lawGain n m v dist) (d.dirGain n v dist), pathDelay dist (d.nat Reg.soundScale))

/-- Law 3: gains and path delays of an object's eligible crosspoints, zone by zone (R123). -/
def targets3 (d : Dev) (n : Nat) (elig : List Nat) : List (Nat × Nat × Nat) :=
  let us := elig.map fun m =>
    let v := d.toSpeaker n m
    let db := d.distanceOf v (d.nat Reg.objectSpread n)
    (m, d.nat Reg.speakerZone m, v, db, min 0x7FFFFF ((d.nat Reg.minDistance * recip db + 2 ^ 26) / 2 ^ 27))
  let zones := us.foldl (fun (a : NMap Nat) u => nmod 0 a u.2.1 (· + u.2.2.2.2 * u.2.2.2.2)) []
  us.map fun u =>
    let sz := nget 0 zones u.2.1
    let nz := isqrtRound sz
    let kz := (2 * 2 ^ 40 + nz) / (2 * nz)
    let law := if sz = 0 then 0 else min 0x7FFFFF ((u.2.2.2.2 * kz + 2 ^ 19) / 2 ^ 20)
    let z := u.2.1
    let dz := d.distanceOf (d.deltas n (d.int Reg.zoneRefX z) (d.int Reg.zoneRefY z) (d.int Reg.zoneRefZ z))
    (u.1, d.composeGain n u.1 law (d.dirGain n u.2.2.1 u.2.2.2.1), pathDelay dz (d.nat Reg.soundScale))

/-- Output, gain and path delay of every eligible crosspoint of an object. -/
def targets (d : Dev) (n : Nat) : List (Nat × Nat × Nat) :=
  let elig := d.eligibleOutputs n
  if d.nat Reg.objectLaw n = 3 then d.targets3 n elig else elig.map (d.target12 n)

/-! ### Writing targets (R118, R119, R125, R126) -/

/-- The key of a crosspoint in the store. -/
def xpKey (n m : Nat) : Nat := n * 4096 + m

/-- A crosspoint record that nothing has written. -/
def xpZero : Xp := { gainFrom := 0, gainTo := 0, delayFrom := 0, delayTo := 0, step := false, clip := false, tag := 0 }

/-- The record of a crosspoint. -/
def xpOf (d : Dev) (n m : Nat) : Xp := nget xpZero d.rend.xp (xpKey n m)

/-- A crosspoint record written. -/
def setXp (d : Dev) (n m : Nat) (x : Xp) : Dev :=
  { d with rend := { d.rend with xp := nset xpZero d.rend.xp (xpKey n m) x } }

/-- The outputs of an object whose record is not all zero. -/
def xpOutputs (d : Dev) (n : Nat) : List Nat :=
  (d.rend.xp.filter fun p => p.1 / 4096 == n).map fun p => p.1 % 4096

/-- The BlockTag that a geometry or patch write leaves (Table 5-3). -/
def blockTag (d : Dev) : Nat := d.nat Reg.blockCount % 4096

/-- The new record of a crosspoint: step, slew and clamp of R125, R126, R118; with it, whether it was clipped or limited.
`bulk` is a change of the bulk delay since the object was last served: the window delay jumps by the opposite amount, with no
slew, and what then still lacks of the raw delay is caught up block by block (R119). -/
def newXp (d : Dev) (n tag : Nat) (old : Xp) (gain path : Nat) (bulk : Option Int) : Xp × Bool × Bool :=
  if gain = 0 then ({ old with gainTo := 0, step := false, clip := false, tag }, false, false)
  else
    let raw : Int := (path : Int) - d.nat Reg.objectBulkDelay n * 2 ^ 19
    let fresh := old.gainTo == 0
    let dslew : Int := if d.nat Reg.objectDelaySlew n = 0 then 0x00800000 else d.nat Reg.objectDelaySlew n
    let gslew : Int := d.int Reg.objectGainSlew n
    let w := if fresh then raw else match bulk with
      | some b => old.delayTo - b * 2 ^ 19
      | none => clampI (old.delayTo - dslew) (old.delayTo + dslew) raw
    let g : Int := if fresh || gslew == 0 then gain else clampI (old.gainTo - gslew) (old.gainTo + gslew) gain
    let w' := clampI 0 d.windowLimit w
    ({ old with gainTo := g, delayTo := w', step := fresh || bulk.isSome, clip := w' ≠ w, tag },
      w' ≠ w, w ≠ raw || g ≠ gain)

/-- Every crosspoint of an object given gain target 0, its delays held (R125, R127). -/
def silence (n : Nat) (outs : List Nat) (d : Dev) : Dev :=
  outs.foldl (fun d m => d.setXp n m { d.xpOf n m with gainTo := 0, step := false, clip := false, tag := d.blockTag }) d

/-- ObjectStatus written bit by bit: WindowClip, GeometryLate, SlewLimited, Pending, Jumping. -/
def setStatusBits (n : Nat) (clip late slew pend jump : Bool) (d : Dev) : Dev :=
  d.setNat Reg.objectStatus (b2n clip + 2 * b2n late + 4 * b2n slew + 8 * b2n pend + 16 * b2n jump) n

/-- One bit of ObjectStatus written. -/
def setStatusBit (n bit : Nat) (b : Bool) (d : Dev) : Dev :=
  d.setNat Reg.objectStatus (setBit (d.nat Reg.objectStatus n) bit b) n

/-- The first block of a jump: every gain target 0, the delays held, Jumping set; the second block follows (R127). -/
def jumpFirst (n start boundary : Nat) (d : Dev) : Dev :=
  let d := (d.silence n (d.xpOutputs n)).setStatusBits n false false false true true
  ({ d with geo := { d.geo with jumps := nput d.geo.jumps n (start, true) } }).mark 0 (boundary + 32) n

/-- The targets of an object of laws 1 to 3 written, from the scene `v` (R118 to R126). -/
def writeTargets (n : Nat) (mk : Mark) (v d : Dev) : Dev :=
  let ts := v.targets n
  let now := v.nat Reg.objectBulkDelay n
  let used := nget 0 d.geo.bulkUsed n
  let bulk : Option Int := if used = now then none else some ((now : Int) - used)
  let d0 := if mk.full then d.silence n ((d.xpOutputs n).filter fun m => !(ts.any fun t => t.1 == m)) else d
  let tag := d.blockTag
  let r := ts.foldl (fun (a : Dev × Bool × Bool) t =>
    let x := v.newXp n tag (a.1.xpOf n t.1) t.2.1 t.2.2 bulk
    (a.1.setXp n t.1 x.1, a.2.1 || x.2.1, a.2.2 || x.2.2)) (d0, false, false)
  let lo := ts.foldl (fun a t => min a (t.2.2 / 2 ^ 19)) 0xFFFFFFFF
  let hi := ts.foldl (fun a t => max a (min (t.2.2 / 2 ^ 19) 0xFFFFFFFF)) 0
  let clip := r.2.1
  let slew := r.2.2
  let wasClip := (d.nat Reg.objectStatus n).testBit 0
  let d1 := ((r.1.setNat Reg.objectPathMin lo n).setNat Reg.objectPathMax hi n).setStatusBits n clip false slew slew false
  let d2 := if clip then (d1.bump Reg.objectClipCount n).bump Reg.clipEvents else d1
  let d3 := if clip && !wasClip then d2.noticeOnce (0x610100000 + n) 0x6101 n else d2
  if slew then d3.mark 2 mk.age n else d3

/-- A jump that began at or before a boundary is over. -/
def endJump (n boundary : Nat) (d : Dev) : Dev :=
  match nget? d.geo.jumps n with
  | some (start, _) => if boundary < start then d else { d with geo := { d.geo with jumps := nerase d.geo.jumps n } }
  | none => d

/-- The object's window delays stand for the bulk delay in force for the block served. -/
def useBulk (n : Nat) (v d : Dev) : Dev :=
  { d with geo := { d.geo with bulkUsed := nset 0 d.geo.bulkUsed n (v.nat Reg.objectBulkDelay n) } }

/-- The evaluation of an object of laws 1 to 3 for a boundary (R118 to R127): the first block served at or after a jump's
boundary is its first block, the next one served its second. -/
def evaluate (n : Nat) (mk : Mark) (boundary : Nat) (v d : Dev) : Dev :=
  match nget? d.geo.jumps n with
  | some (start, false) =>
    if boundary < start then (d.writeTargets n mk v).useBulk n v else (d.jumpFirst n start boundary).useBulk n v
  | _ => ((d.writeTargets n mk v).endJump n boundary).useBulk n v

/-- A patch of a law 0 object applied to one crosspoint (R158); with it, whether a step was forced. -/
def patchXp (d : Dev) (n m : Nat) (gain delay : Int) : Dev × Bool :=
  let old := d.xpOf n m
  let forced := old.gainTo ≠ 0 && gain ≠ 0 && (delay - old.delayTo).natAbs > 0x00800000
  let delay' := if gain = 0 then old.delayTo else delay
  let d := d.setXp n m { old with gainTo := gain, delayTo := delay', step := old.gainTo == 0 || forced, clip := false, tag := d.blockTag }
  ({ d with rend := { d.rend with law0 := nput d.rend.law0 (xpKey n m) (gain, delay) } }, forced)

/-- The patch records of an object that are due for a boundary. -/
def duePatch (d : Dev) (n boundary : Nat) : List PatchRec := (nget [] d.rend.patches n).filter fun r => decide (r.date ≤ boundary)

/-- What of a patch stands for each output: the last record that names it. -/
def lastRecords (l : List PatchRec) : NMap (Int × Int) := l.foldl (fun m r => nput m r.out (r.gain, r.delay)) []

/-- The due records of an object taken out of the waiting ones. -/
def dropPatch (n boundary : Nat) (d : Dev) : Dev :=
  let rest := (nget [] d.rend.patches n).filter fun r => decide (boundary < r.date)
  { d with rend := { d.rend with patches := if rest.isEmpty then nerase d.rend.patches n else nput d.rend.patches n rest } }

/-- The due patch of an object applied (R157, R158). -/
def applyPatch (n boundary : Nat) (d : Dev) : Dev :=
  let r := (lastRecords (d.duePatch n boundary)).foldl (fun (a : Dev × Nat) p =>
    let x := a.1.patchXp n p.1 p.2.1 p.2.2
    (x.1, a.2 + b2n x.2)) (d, 0)
  let d := (r.1.dropPatch n boundary).setStatusBits n false false false false false
  if r.2 = 0 then d else (d.bump Reg.xpPatchSteps 0 r.2).noticeOnce (0x620100000 + n) 0x6201 n

/-- Patch records of an object whose law in force is not 0: ignored and counted, each patch told of once (R157). -/
def ignorePatch (n boundary : Nat) (d : Dev) : Dev :=
  let recs := d.duePatch n boundary
  let d := (d.dropPatch n boundary).bump Reg.xpPatchesIgnored 0 recs.length
  let d := recs.foldl (fun (d : Dev) r =>
    if d.rend.patchTold.contains r.patch then d
    else ({ d with rend := { d.rend with patchTold := r.patch :: d.rend.patchTold } }).notice 0x6202 n) d
  { d with rend := { d.rend with patchTold := d.rend.patchTold.filter fun p => d.rend.patches.any fun w => w.2.any fun r => r.patch == p } }

/-! ### Cost and service (R129, R130) -/

/-- The cost of serving an object, its records read in `v` (R129). DESIGN CHOICE (log entry 73): a law 0 object that is disabled
with a patch still waiting is charged its patched outputs, and no fade beside them. -/
def cost (d : Dev) (n : Nat) (mk : Mark) (boundary : Nat) (v : Dev) : Nat :=
  let law := v.nat Reg.objectLaw n
  let patch := (lastRecords (d.duePatch n boundary)).length
  let po := v.partOuts (v.partOfObj n)
  let e := if mk.full then po else (v.eligibleOutputs n).length
  if law = 0 ∧ 0 < patch then patch
  else if !v.enabled n then
    if mk.leaving then (if law = 0 then po else e) else 0
  else if law = 0 then 0
  else if law = 3 then 80 + 2 * e
  else 16 + e

/-- A disabled object in its last block: gain targets of 0 (R127). -/
def fadeOut (n boundary : Nat) (d : Dev) : Dev :=
  let d := d.endJump n boundary
  (((d.silence n (d.xpOutputs n)).setStatusBits n false false false false false).setNat Reg.objectPathMin 0xFFFFFFFF n).setNat Reg.objectPathMax 0 n

/-- An object served without an evaluation: it is neither late nor pending in this block, and no jump goes on (R110, R129). -/
def servedIdle (n boundary : Nat) (v d : Dev) : Dev :=
  let d := d.endJump n boundary
  (((d.setStatusBit n 1 false).setStatusBit n 3 false).setStatusBit n 4 false).useBulk n v

/-- One object served for a boundary: patch, fade to silence, or evaluation. A disable takes effect after the patch (R157). -/
def serve (n : Nat) (mk : Mark) (boundary : Nat) (v d : Dev) : Dev :=
  let d := d.setPending (nerase d.geo.pending n)
  let law := v.nat Reg.objectLaw n
  let patched := !(d.duePatch n boundary).isEmpty
  let d := if !patched then d else if law = 0 then d.applyPatch n boundary else d.ignorePatch n boundary
  if !v.enabled n then
    if mk.leaving || (patched && law == 0) then d.fadeOut n boundary else d.servedIdle n boundary v
  else if law = 0 then d.servedIdle n boundary v
  else d.evaluate n mk boundary v

/-- Whether a mark is served before another: class, then age, then object number (R130). -/
def markBefore (a b : Nat × Mark) : Bool :=
  a.2.cls < b.2.cls || (a.2.cls == b.2.cls && (a.2.age < b.2.age || (a.2.age == b.2.age && a.1 ≤ b.1)))

/-- Insertion of a mark at its place in the service order. -/
def insertMark (a : Nat × Mark) : List (Nat × Mark) → List (Nat × Mark)
  | [] => [a]
  | b :: t => if markBefore a b then a :: b :: t else b :: insertMark a t

/-- GeometryBudget (R129). -/
def geometryBudget (d : Dev) : Nat := if d.fast then 520192 else 1044480

/-- One pipe's service of its pending set; the result names the late objects, in service order, and the cost scheduled (R130). -/
def servePipe (rink boundary extra : Nat) (v d : Dev) : Dev × List Nat × Nat :=
  let order := (d.geo.pending.filter fun p => p.1 % 16 == rink).foldl (fun l a => insertMark a l) []
  order.foldl (fun (a : Dev × List Nat × Nat) p =>
    let c := a.1.cost p.1 p.2 boundary v
    if !a.2.1.isEmpty || a.1.geometryBudget < a.2.2 + c then (a.1, a.2.1 ++ [p.1], a.2.2)
    else (a.1.serve p.1 p.2 boundary v, a.2.1, a.2.2 + c)) (d, [], extra)

/-- What an object's pipe has of it before it serves it. -/
def beforeServing (d : Dev) (p : Nat × Mark) : Nat × Served :=
  (p.1, { mark := p.2, recs := nget [] d.rend.patches p.1, jump := nget? d.geo.jumps p.1, bulk := nget 0 d.geo.bulkUsed p.1 })

/-- GEOMETRY_EVALUATION for the block at `boundary`: the pipes serve their pending objects, from the records as committed for
it (R20, R130). -/
def evaluateBlock (boundary : Nat) (extra : Nat → Nat) (d : Dev) : Dev :=
  let v := d.sceneAt boundary
  let d := d.takeMarks boundary
  let d := if d.geo.fullOnStart then d.markStart boundary v else d
  let before := d.geo.pending.map d.beforeServing
  let r := (List.range 16).foldl (fun (a : Dev × List (Nat × Nat) × Nat) rink =>
    let x := a.1.servePipe rink boundary (extra rink) v
    (x.1, a.2.1 ++ x.2.1.map fun n => (n, rink), max a.2.2 x.2.2)) (d, [], 0)
  let served := before.filter fun (p : Nat × Served) => !(r.2.1.any fun x => x.1 == p.1)
  let d := { r.1 with geo := { r.1.geo with late := r.2.1, served } }
  let d := d.geo.pending.foldl (fun d p => d.setStatusBit p.1 3 true) d
  (d.setNat Reg.pipeLoadLast r.2.2).peak Reg.pipeLoadPeak r.2.2

/-- The objects late in a block set GeometryLate, are counted, and one notice per rink tells of them: how many, and the first
in service order (R130). -/
def markLate (d : Dev) : Dev :=
  let late := d.geo.late
  let d := { d with geo := { d.geo with late := [] } }
  let d := late.foldl (fun d p => (d.setStatusBit p.1 1 true).bump Reg.lateObjects) d
  (List.range 16).foldl (fun d rink =>
    let l := late.filter fun p => p.2 == rink
    match l with
    | [] => d
    | f :: _ => d.noticeOnce (0x610200000 + rink) 0x6102 (l.length * 65536 + f.1)) d

/-- RefreshAll "all" (R128): one lift-line item of kind 3 for each enabled object of laws 1 to 3. -/
def refreshAll (arg : Octets) (d : Dev) : Status × Dev :=
  if arg ≠ ascii "all" then (Status.range, d)
  else
    let objs := d.enabledObjects.filter fun n => d.nat Reg.objectLaw n ≠ 0
    (Status.ok, objs.foldl (fun d n => d.liftPut 3 (n % 256) (.mark n)) d)

end Dev

end Sys2Proof.Machine
end

