-- ==== Sys2Proof/Machine/Motion.lean ====
section
/-! DEFINITION. Stream maps and motion FIFOs (R65 to R69, R95 to R99, R127). -/

namespace Sys2Proof.Machine

/-- The tag of a GAP word (R96). -/
def gapTag : Nat := 0x7F

/-- Places that ordinary words may take: stages 0 to 62 (R95). -/
def ordinaryStages : Nat := 63

/-- One word into a FIFO of map `s` (R95, R96): dropped with the rest of its packet where stages 0 to 62 are full, with a
GAP word placed in stage 63 or its counts raised; the flag tells that a GAP word was placed. -/
def pushWord (s : Nat) (w : MotionWord) (f : MotionFifo) : MotionFifo × Bool :=
  if f.dropping || ordinaryStages ≤ f.words.length then
    let fresh := !f.dropping
    let rest := f.words.dropLast
    let r : List MotionWord × Bool := match f.words.getLast? with
      | some g =>
        if g.tag = gapTag ∧ f.words.length = 64 then
          (rest ++ [{ g with data := g.data + 1 + (if fresh then 2 ^ 32 else 0) }], false)
        else (f.words ++ [{ tag := gapTag, data := s * 2 ^ 56 + 2 ^ 32 + 1, last := true }], true)
      | none => ([{ tag := gapTag, data := s * 2 ^ 56 + 2 ^ 32 + 1, last := true }], true)
    ({ f with words := r.1, dropping := !w.last }, r.2)
  else ({ f with words := f.words ++ [w] }, false)

/-- The words of an accepted packet (Table 2-10), the end mark on the last word only. -/
def packetWords (s seq date : Nat) (recs : List (Nat × Nat × Int × Int × Int)) : List MotionWord :=
  let header : List (Nat × Nat) := [(0x10, s * 2 ^ 56 + recs.length * 2 ^ 48 + seq), (0x11, date)]
  let body := recs.flatMap fun r =>
    [(0x01, r.1 * 2 ^ 48 + r.2.1 * 2 ^ 32 + wrapU 32 r.2.2.1), (0x02, wrapU 32 r.2.2.2.1 * 2 ^ 32 + wrapU 32 r.2.2.2.2)]
  let all := header ++ body
  all.zipIdx.map fun p => { tag := p.1.1, data := p.1.2, last := p.2 + 1 == all.length }

/-- The first packet of a FIFO's words, up to its end mark, and the rest (R97). -/
def splitPacket : List MotionWord → List MotionWord × List MotionWord
  | [] => ([], [])
  | w :: t => if w.last then ([w], t) else let r := splitPacket t; (w :: r.1, r.2)

/-- The number of packets held: words with an end mark (R95). -/
def packetsHeld (ws : List MotionWord) : Nat := (ws.filter (·.last)).length

/-- Whether a packet is whole: tags 0x10 and 0x11 first, a tag 0x02 word with the end mark last (R97). -/
def packetWhole (p : List MotionWord) : Bool :=
  match p with
  | a :: b :: _ => a.tag == 0x10 && b.tag == 0x11 && (match p.getLast? with | some w => w.tag == 0x02 && w.last | none => false)
  | _ => false

/-- The records of a whole packet, two words each. -/
def recordsOf : List MotionWord → List MotionRec
  | a :: b :: t =>
    { object := a.data / 2 ^ 48, flags := a.data / 2 ^ 32 % 65536, x := wrapS 32 (a.data % 2 ^ 32 : Nat),
      y := wrapS 32 (b.data / 2 ^ 32 % 2 ^ 32 : Nat), z := wrapS 32 (b.data % 2 ^ 32 : Nat) } :: recordsOf t
  | _ => []

/-- The effective boundary of a date (R73). -/
def boundaryOf (date : Nat) : Nat := 32 * cdiv date 32

namespace Dev

/-- Whether this unit holds the lead: lone, or a lead state of Table 15-1. -/
def isLead (d : Dev) : Bool := [0, 2, 3, 4].contains (d.nat Reg.pairState)

/-- Whether this unit's stream-map decoder decodes: the head's lead alone does (R68, R98). -/
def isHead (d : Dev) : Bool := d.unitId == 0 && d.isLead

/-- A motion FIFO. -/
def fifo (d : Dev) (f : Nat) : MotionFifo := d.motion.get resetFifo f

/-- A motion FIFO changed. -/
def setFifo (d : Dev) (f : Nat) (g : MotionFifo → MotionFifo) : Dev := { d with motion := d.motion.modify f g }

/-- One word into FIFO `f`, with the counts of R96. -/
def fifoWord (f : Nat) (d : Dev) (w : MotionWord) : Dev :=
  let r := pushWord f w (d.fifo f)
  let dropped := (d.fifo f).dropping || ordinaryStages ≤ (d.fifo f).words.length
  let d := d.setFifo f fun _ => r.1
  let d := if dropped then d.bump Reg.wordsDropped f else d
  if r.2 then (d.bump Reg.gapWords f).notice 0xA501 f else d

/-- A stream map becomes unseeded (R68). -/
def unseed (s : Nat) (d : Dev) : Dev := d.setFifo s fun g => { g with seeded := false, staleRun := 0 }

/-- Whether a stream map takes packets: on, with a port, and with a count that is not 0. -/
def mapOn (d : Dev) (s : Nat) : Bool := d.flag Reg.mapEnable s && d.nat Reg.mapUdpPort s ≠ 0 && d.nat Reg.mapObjectCount s ≠ 0

/-- MAP_SILENCE_TIMEOUT: a seeded map that accepted no packet for 1 s becomes unseeded (R68). -/
def mapSilence (s : Nat) (d : Dev) : Dev :=
  if (d.fifo s).seeded then d.onDue ((d.fifo s).acceptedAt + secCycles 1) fun d => d.unseed s else d

/-- The packets of one FIFO consumed for boundary `b` (R97, R98): decoded records, and the FIFO's rest. -/
def consume (f b : Nat) : Nat → Dev → List MotionRec → Dev × List MotionRec
  | 0, d, acc => (d, acc)
  | n + 1, d, acc =>
    let r := splitPacket (d.fifo f).words
    let pop (d : Dev) : Dev := d.setFifo f fun g => { g with words := r.2 }
    if !(packetWhole r.1) then consume f b n (((pop d).bump Reg.packetsDiscarded f).notice 0xA502 f) acc
    else
      let date := (r.1.getD 1 { tag := 0, data := 0, last := false }).data
      let eff := if date = 0 then b else boundaryOf date
      if b < eff ∧ eff ≤ b + 2048 then (d, acc)
      else if b < eff then consume f b n (((pop d).bump Reg.motionFar f).notice 0xA503 (f * 65536 + 1)) acc
      else
        let d := pop d
        let d := if eff < b then (d.bump Reg.motionLate f).notice 0xA503 (f * 65536) else d
        consume f b n d (acc ++ recordsOf (r.1.drop 2))

/-- An object coordinate moved at a boundary, the value before it kept for earlier dates (R14). -/
def moveCoord (b n : Nat) (row : Row) (v : Int) (d : Dev) : Dev :=
  let old := d.val row n
  let d := d.setInt row v n
  { d with dated := { date := b, key := row.key n, old } :: d.dated }

/-- One record applied at its boundary (R98, R127): the position, the jump, the mark of class 1. DESIGN CHOICE (log entry 73): a
disabled object takes the position but neither the jump nor a mark, since nothing of it is evaluated. -/
def moveObject (b : Nat) (d : Dev) (r : MotionRec) : Dev :=
  if !(d.objectExists r.object) then d
  else
    let n := r.object
    let rel := r.flags.testBit 1
    let at' (row : Row) (v : Int) : Int := if rel then satS 32 (d.int row n + v) else v
    let d' := ((d.moveCoord b n Reg.objectX (at' Reg.objectX r.x)).moveCoord b n Reg.objectY (at' Reg.objectY r.y)).moveCoord b n Reg.objectZ (at' Reg.objectZ r.z)
    if !(d'.enabled n) then d'
    else
      let d' := if r.flags.testBit 0 then { d' with geo := { d'.geo with jumps := nput d'.geo.jumps n (b, false) } } else d'
      d'.markAt 1 b n

/-- The decoded records of a boundary applied, in FIFO order, after the commits of that boundary (R98). -/
def applyMotion (d : Dev) : Dev :=
  let due := d.motionDue
  due.2.foldl (moveObject due.1) { d with motionDue := (0, []) }

/-- MOTION_DECODER_APPLY: the counted packets for B, once their words are complete (R98, R99). Records decoded before
tick B wait for the commits of B. -/
def motionApply (d : Dev) : Dev :=
  let b := (d.fifo 0).fixedFor
  let complete := d.motion.items.all fun g => g.counted && g.fixedCount ≤ packetsHeld g.words
  if !complete || b + 1 < d.mscNow then d
  else
    let r := (List.range 16).foldl (fun (a : Dev × List MotionRec) f => consume f b (d.fifo f).fixedCount a.1 a.2) (d, [])
    let d := { r.1 with motionDue := (b, r.2), motion := r.1.motion.map fun g => { g with counted := false, fixedCount := 0 } }
    if b ≤ d.mscNow then d.applyMotion else d

/-- The FIFOs whose counted words are short once tick B + 1 has ended (R99). -/
def motionShort (d : Dev) : List Nat :=
  if d.mscNow ≤ (d.fifo 0).fixedFor + 1 then []
  else (List.range 16).filter fun f => (d.fifo f).counted && decide (packetsHeld (d.fifo f).words < (d.fifo f).fixedCount)

/-- The decoder stops waiting: none of the packets for B is applied, each short FIFO counts a stall, the unit turns to UnitState 1
(R99). Words of B that come later stay in the FIFO for a later boundary, where they are late (R98). -/
def stopWaiting (d : Dev) : Dev :=
  let d : Dev := d.motionShort.foldl (fun d f => d.bump Reg.motionStalls f) d
  let d : Dev := { d with motion := d.motion.map fun (g : MotionFifo) => { g with counted := false, fixedCount := 0 } }
  d.setNat Reg.unitState 1 d.unitId

end Dev

end Sys2Proof.Machine
end

