-- ==== Sys2Proof/Machine/Cells.lean ====
section
/-! DEFINITION. Cells on the Drada links: layout, credit, replay buffer, sending (R458 to R463), and the pair's messages. -/

namespace Sys2Proof.Machine

/-- The cell types of Table 16-3. -/
inductive CellType where
  | feed | tick | control | calendar | motion | trace | time | link | credit | replay
  deriving DecidableEq, Repr

/-- The code of a cell type. -/
def CellType.code : CellType → Nat
  | .feed => 1 | .tick => 2 | .control => 3 | .calendar => 4 | .motion => 5
  | .trace => 6 | .time => 7 | .link => 8 | .credit => 9 | .replay => 10

/-- The virtual channel of a cell type (Table 16-4); `settled` marks calendar decisions and confirmations. -/
def CellType.vc (settled : Bool) : CellType → Nat
  | .feed | .tick => 0
  | .time | .trace | .motion => 1
  | .calendar => if settled then 1 else 2
  | .control | .link => 2
  | .credit | .replay => 3

/-- Octets padded with zeros to a length that is a multiple of 4 and at least `n`. -/
def padTo (n : Nat) (l : Octets) : Octets :=
  let m := max n (4 * cdiv l.length 4)
  l ++ List.replicate (m - l.length) (octet 0)

/-- A cell (R459): header, payload padded to at least 64 octets in all, CRC-32C. -/
def cellOctets (type hops vc seq dest src arg : Nat) (payload : Octets) : Octets :=
  let p := padTo 44 payload
  let h := toBE 1 type ++ toBE 1 hops ++ toBE 1 vc ++ toBE 1 0 ++ toBE 2 (p.length + 20) ++ toBE 2 seq ++ toBE 2 dest ++ toBE 2 src ++ toBE 4 arg
  h ++ p ++ toBE 4 (crc32c (h ++ p))

/-- A cell with its LinkSeq and a CRC to match; `bad` complements the CRC (R459, R464). -/
def stampCell (seq : Nat) (bad : Bool) (cell : Octets) : Octets :=
  let b := cell.take 6 ++ toBE 2 seq ++ (cell.drop 8).take (cell.length - 12)
  b ++ toBE 4 (if bad then 0xFFFFFFFF - crc32c b else crc32c b)

/-- The flits of a cell, each behind its tag of Table 16-2: 64 octets each, and the remainder in the last; the fuel is the cell's
length (R458). -/
def flits (vc : Nat) (first : Bool) : Nat → Octets → Octets
  | 0, _ => []
  | n + 1, cell =>
    let last := decide (cell.length ≤ 64)
    toBE 2 (vc % 4 * 16384 + b2n last * 8192 + b2n first * 4096) ++ cell.take 64 ++ (if last then [] else flits vc false n (cell.drop 64))

/-- A cell as the lane carries it (R458). -/
def onLane (vc : Nat) (cell : Octets) : Octets := flits vc true cell.length cell

/-- The cell that a lane's flits carry: none where a tag has a reserved bit set or does not fit its place (Table 16-2). -/
def fromLane (first : Bool) : Nat → Octets → Option Octets
  | 0, _ => none
  | n + 1, wire =>
    let tag := beAt wire 0 2
    let body := wire.drop 2
    if tag % 4096 ≠ 0 ∨ tag.testBit 12 ≠ first ∨ body.isEmpty then none
    else if tag.testBit 13 then (if body.length ≤ 64 then some body else none)
    else if body.length ≤ 64 then none
    else (fromLane false n (body.drop 64)).map fun t => body.take 64 ++ t

/-- The newest cells of a replay buffer that fit in 256 KiB (R463). -/
def fitReplay : Nat → List (Nat × Octets) → List (Nat × Octets)
  | _, [] => []
  | room, c :: t => if c.2.length ≤ room then c :: fitReplay (room - c.2.length) t else []

/-- The first handle under which sessions of the head act at another module (R477). -/
def proxyBase : Nat := 0x100000

namespace Dev

/-- A Drada link: 0 DA, 1 DB, 2 DP. -/
def dlink (d : Dev) (k : Nat) : DradaLink := d.drada.links.get resetLink k

/-- A Drada link changed. -/
def setDlink (k : Nat) (f : DradaLink → DradaLink) (d : Dev) : Dev :=
  { d with drada := { d.drada with links := d.drada.links.modify k f } }

/-- Whether a Drada link is UP. -/
def dlinkUp (d : Dev) (k : Nat) : Bool := d.nat Reg.dradaLinkState k == 2

/-- A cell as it leaves on a link: protected where the link agreed on it, cut into flits (R458, R480). -/
def laneCell (d : Dev) (k vc seq : Nat) (cell : Octets) : Octets :=
  onLane vc (if d.flag Reg.dradaMacsec k then Config.macsecSeal (nget [] d.sec.keys Reg.dradaCak.key) k seq cell else cell)

/-- A cell leaves on a link: LinkSeq, credit, replay buffer (R459, R462, R463). -/
def launchCell (k vc type : Nat) (cell : Octets) (d : Dev) : Dev :=
  let n := cdiv cell.length 64
  let seq := (d.dlink k).txSeq
  let cell := if vc < 3 then stampCell seq false cell else cell
  let wire := d.laneCell k vc seq cell
  (d.setDlink k fun l => { l with
    credits := if vc < 3 then lmod l.credits vc (· - n) else l.credits
    replay := if vc < 3 then fitReplay 262144 ((seq, cell) :: l.replay) else l.replay
    txSeq := if vc < 3 then (l.txSeq + 1) % 65536 else l.txSeq
    idle := false, busyAt := if vc = 0 then d.clock else l.busyAt
    loadOctets := l.loadOctets + wire.length }).emit (.cell k type wire)

/-- A cell put on a link: it waits while its virtual channel has no credit for it, or has cells that wait (R462). A cell is sent once
there is credit for all its flits. -/
def sendCell (k : Nat) (type : CellType) (dest arg : Nat) (payload : Octets) (settled : Bool := false) (hops : Nat := 0)
    (src : Option Nat := none) (d : Dev) : Dev :=
  if !d.dlinkUp k then d
  else
    let l := d.dlink k
    let vc := type.vc settled
    let cell := cellOctets type.code hops (vc % 4) 0 dest (src.getD d.unitId) arg payload
    if vc < 3 ∧ ((l.waiting.any fun w => w.1 == vc) ∨ lget 0 l.credits vc < cdiv cell.length 64) then
      (d.setDlink k fun l => { l with waiting := l.waiting ++ [(vc, type.code, cell)] }).bump Reg.dradaCreditStalls k
    else d.launchCell k vc type.code cell

/-- The waiting cell of a link that leaves next: the first of its virtual channel that has credit, the channels in their order of
preference (R458, R462). -/
def nextWaiting (d : Dev) (k : Nat) : Option (Nat × Nat × Octets) :=
  [0, 1, 2].findSome? fun v => ((d.dlink k).waiting.find? fun w => w.1 == v).filter fun w => decide (cdiv w.2.2.length 64 ≤ lget 0 (d.dlink k).credits v)

/-- Waiting cells leave, as far as credit allows; the fuel is their number. -/
def drainCells (k : Nat) : Nat → Dev → Dev
  | 0, d => d
  | n + 1, d =>
    match d.nextWaiting k with
    | some w => drainCells k n ((d.setDlink k fun l => { l with waiting := l.waiting.erase w }).launchCell k w.1 w.2.1 w.2.2)
    | none => d

/-- The link towards the head: DA, or DB in a ring whose break lies above this module (R476, R477). -/
def headLink (d : Dev) : Nat := if d.nat Reg.groupTopology = 2 ∧ !d.drada.breaks.isEmpty then 1 else 0

/-- An output leaves: the response to a session of the head goes to it in a CONTROL cell (R477). -/
def sendOut (o : Out) (d : Dev) : Dev :=
  match o with
  | .response s b => if proxyBase ≤ s then d.sendCell d.headLink .control 0 10 (toBE 4 (s - proxyBase) ++ b) else d.emit o
  | _ => d.emit o

/-! ### The pair -/

/-- Whether the module is lone: PAIR_PRESENT reads high (R423). -/
def lone (d : Dev) : Bool := d.power.pairPresent

/-- The links on which branches lie: DB, and DP where it is a second downstream branch (R28). -/
def branchLinks (d : Dev) : List Nat := if d.lone then [1, 2] else [1]

/-- Whether a partner is joined over DP. -/
def paired (d : Dev) : Bool := !d.lone && d.pair.partner.isSome && d.dlinkUp 2

/-- The pair state machine changed. -/
def setPair (f : Pair → Pair) (d : Dev) : Dev := { d with pair := f d.pair }

/-- A message to the partner: a code and its octets (1 hello, 2 handover date, 3 release, 4 mirrored write, 5 acknowledgement,
6 health word, 7 audit, 8 sequence counters). -/
def tellPartner (code : Nat) (body : Octets) (d : Dev) : Dev :=
  if d.lone then d else d.sendCell 2 .control 0xFFFF code body

/-- PairState changed, with its notice (Table 15-10). -/
def setPairState (st : Nat) (d : Dev) : Dev :=
  if d.nat Reg.pairState = st then d else (d.setNat Reg.pairState st).notice 0x8002 st

/-- ILK_OUT driven to a level. -/
def setIlkOut (level : Bool) (d : Dev) : Dev :=
  if d.flag Reg.ilkOut = level then d
  else
    let d := (d.setFlag Reg.ilkOut level).emit (.pad "ILK_OUT" level)
    if level then d.setPair fun p => { p with outAt := d.clock, assertAt := none } else d

/-- Whether the transmit gate is open (R427); a lone module transmits while its data path runs (Table 15-1). -/
def gateOpen (d : Dev) : Bool := if d.lone then d.power.state.runs else d.flag Reg.ilkGate

/-- Whether the unit's transmitters are open: a lone module, or a lead (R564). -/
def transmits (d : Dev) : Bool := d.lone || d.isLead

/-- The lead given up outright: release message, ILK_OUT low, gate closed (R431, R558). -/
def releaseLead (d : Dev) : Dev :=
  if d.lone then d
  else
    let d := if d.pair.lead then d.tellPartner 3 [] else d
    let d := ((d.setIlkOut false).setFlag Reg.ilkGate false).setPair fun p => { p with lead := false, requested := false, assertAt := none, handover := none, heldPackets := [] }
    if d.isLead then d.setPairState (if d.pair.partner.isSome then 5 else 1) else d

end Dev

end Sys2Proof.Machine
end

