-- ==== Sys2Proof/Machine/MixIsa.lean ====
section
/-! DEFINITION. The mix core instruction set (R173 to R182): fields, addressing, arithmetic, one step, one section. -/

namespace Sys2Proof.Machine

/-! ### Instruction fields (Table 6-5) -/

/-- The opcode. -/
def mixOp (w : Nat) : Nat := bits w 63 56
/-- The destination. -/
def mixD (w : Nat) : Nat := bits w 55 52
/-- The first source. -/
def mixS1 (w : Nat) : Nat := bits w 51 48
/-- The second source. -/
def mixS2 (w : Nat) : Nat := bits w 47 44
/-- The lanes written. -/
def mixLanes (w : Nat) : Nat := bits w 43 40
/-- The address register index. -/
def mixAx (w : Nat) : Nat := bits w 39 37
/-- The modifier register index. -/
def mixMx (w : Nat) : Nat := bits w 36 34
/-- The addressing mode. -/
def mixAm (w : Nat) : Nat := bits w 33 32
/-- The condition. -/
def mixCond (w : Nat) : Nat := bits w 31 28
/-- Shift count, lane number or register class. -/
def mixK (w : Nat) : Nat := bits w 27 24
/-- Address, offset, count or constant. -/
def mixImm24 (w : Nat) : Nat := bits w 23 0
/-- The constant of format I. -/
def mixImm32 (w : Nat) : Int := wrapS 32 (bits w 31 0 : Nat)
/-- The loop body length of format L. -/
def mixBody (w : Nat) : Nat := bits w 55 44
/-- The signed reading of IMM24. -/
def mixSimm (w : Nat) : Int := wrapS 24 (mixImm24 w : Int)

/-! ### Banks (Table 6-3, Table 6-11) -/

/-- A bank whose registers are all 0. -/
def zeroBank : MixBank :=
  { v := List.replicate 64 0, acc := List.replicate 16 0, a := List.replicate 8 0, m := List.replicate 8 0,
    b := List.replicate 8 0, l := List.replicate 8 0, flags := List.replicate 4 0 }

/-- A bank from its image of 512 octets (Table 6-11). -/
def bankOf (i : Octets) : MixBank :=
  let regs := fun (k : Nat) => (List.range 8).map fun r => beAt i (400 + 3 * (8 * k + r)) 3
  { v := (List.range 64).map fun k => beAtS i (4 * k) 4
    acc := (List.range 16).map fun k => beAtS i (256 + 9 * k) 9
    a := regs 0, m := regs 1, b := regs 2, l := regs 3
    flags := (List.range 4).map fun k => beAt i (496 + k) 1 }

/-- Lane `k` of V[r]. -/
def MixBank.lane (b : MixBank) (r k : Nat) : Int := lget 0 b.v (4 * r + k)

/-- Lane `k` of ACC[r]. -/
def MixBank.accLane (b : MixBank) (r k : Nat) : Int := lget 0 b.acc (4 * r + k)

/-- Lane `k` of V[r] written. -/
def MixBank.setLane (b : MixBank) (r k : Nat) (x : Int) : MixBank := { b with v := b.v.set (4 * r + k) x }

/-- Lane `k` of ACC[r] written. -/
def MixBank.setAcc (b : MixBank) (r k : Nat) (x : Int) : MixBank := { b with acc := b.acc.set (4 * r + k) x }

/-- A[r] written, modulo 2^24 (R177). -/
def MixBank.setA (b : MixBank) (r : Nat) (x : Int) : MixBank := { b with a := b.a.set r (wrapU 24 x) }

/-- A flag bit of a lane: 0 N, 1 Z, 2 S, 3 SS. -/
def MixBank.flagBit (b : MixBank) (k i : Nat) : Bool := (lget 0 b.flags k).testBit i

/-- The flags of a lane after an instruction marked "yes": N, Z, S, and SS ORed with S (R178). -/
def MixBank.setFlags (b : MixBank) (k : Nat) (x : Int) (sat : Bool) : MixBank :=
  let ss := b.flagBit k 3 || sat
  { b with flags := b.flags.set k (b2n (x < 0) + 2 * b2n (x = 0) + 4 * b2n sat + 8 * b2n ss) }

/-- Whether a condition holds in a lane (Table 6-4). -/
def MixBank.cond (b : MixBank) (c k : Nat) : Bool :=
  match c with
  | 0 => true
  | 1 => b.flagBit k 1
  | 2 => !b.flagBit k 1
  | 3 => b.flagBit k 0
  | 4 => !b.flagBit k 0
  | 5 => b.flagBit k 3
  | 6 => !b.flagBit k 3
  | _ => false

/-- Whether a lane is written: its bit in LANES and COND in its flags (R178). -/
def MixBank.writes (b : MixBank) (w k : Nat) : Bool := (mixLanes w).testBit k && b.cond (mixCond w) k

/-! ### One section's run -/

/-- What a section may read and where its stores may go. -/
structure MixEnv where
  secB : Bool
  core : Nat
  date : Nat
  outs : Nat
  ingress : NMap Int
  render : NMap Int
  sources : NMap Int
  cells : NMap (List RouteState)

/-- The progress of a section. -/
structure MixRun where
  pc : Nat
  loops : List (Nat × Nat × Nat)
  ended : Bool
  bank : MixBank
  data : NMap Nat
  /-- The words of data memory that the section has stored to. -/
  wrote : List Nat
  stores : NMap Int
  saturated : Bool
  faults : Nat
  rejects : Nat
  firstFault : Option (Bool × Nat)

/-- An access that the address space forbids (R175). -/
def MixRun.fault (r : MixRun) (addr : Nat) : MixRun :=
  { r with faults := r.faults + 1, firstFault := r.firstFault <|> some (false, addr) }

/-- A store outside the core's write set (R175). -/
def MixRun.reject (r : MixRun) (addr : Nat) : MixRun :=
  { r with rejects := r.rejects + 1, firstFault := r.firstFault <|> some (true, addr) }

/-- A load of one word (R174, R175). -/
def mixLoad (c : MixCore) (e : MixEnv) (r : MixRun) (addr : Nat) : Int × MixRun :=
  let a := addr % 2 ^ 24 / 4 * 4
  if a < 0x40000 then (wrapS 32 (nget 0 r.data (a / 4) : Nat), r)
  else if 0x100000 ≤ a && a < 0x104000 && !e.secB then (nget 0 e.ingress ((a - 0x100000) / 4), r)
  else if 0x120000 ≤ a && a < 0x121000 && e.secB then
    (nget 0 c.feeds ((a - 0x120000) / 4 * 128 + e.date % 128), r)
  else if 0x130000 ≤ a && a < 0x132800 && e.secB && (a - 0x130000) / 4 < e.outs then
    (nget 0 e.render ((a - 0x130000) / 4), r)
  else (0, r.fault a)

/-- A store of one word (R174, R175): data memory at once, plane and feed stores by address, the later replacing. -/
def mixStore (c : MixCore) (e : MixEnv) (r : MixRun) (addr : Nat) (x : Int) : MixRun :=
  let a := addr % 2 ^ 24 / 4 * 4
  let slotIn := fun (base set : Nat) => if set.testBit ((a - base) / 4) then { r with stores := nput r.stores a x } else r.reject a
  if a < 0x40000 then { r with data := nset 0 r.data (a / 4) (wrapU 32 x), wrote := a / 4 :: r.wrote }
  else if 0x110000 ≤ a && a < 0x114000 && !e.secB then slotIn 0x110000 c.objectSet
  else if 0x120000 ≤ a && a < 0x121000 && !e.secB then slotIn 0x120000 c.feedSet
  else if 0x140000 ≤ a && a < 0x142800 && e.secB && (a - 0x140000) / 4 < e.outs then slotIn 0x140000 c.busSet
  else if 0x150000 ≤ a && a < 0x154000 && e.secB then slotIn 0x150000 c.egressSet
  else r.fault a

/-- The addresses of lanes 0 to 3 of a memory instruction, and A after it (R180). -/
def mixAddress (b : MixBank) (w : Nat) : (Nat → Nat) × Nat :=
  let ax := mixAx w
  let a := lget 0 b.a ax
  let m := wrapS 24 (lget 0 b.m (mixMx w) : Nat)
  let base := lget 0 b.b ax
  let len := lget 0 b.l ax / 4 * 4
  match mixAm w with
  | 0 => (fun k => wrapU 24 ((mixImm24 w : Int) + 4 * k), a)
  | 1 => (fun k => wrapU 24 ((a : Int) + mixSimm w + 4 * k), a)
  | 2 => (fun k => wrapU 24 ((a : Int) + 4 * k), wrapU 24 ((a : Int) + m))
  | _ =>
    if len = 0 then (fun k => wrapU 24 ((a : Int) + 4 * k), wrapU 24 ((a : Int) + m))
    else (fun k => wrapU 24 ((base : Int) + ((a : Int) - base + 4 * k) % len), wrapU 24 ((base : Int) + ((a : Int) - base + m) % len))

/-- SINQ[j] = floor(2^23 × sin(π j / 2,048) + 1/2) by the sine series with 64 fraction bits (R186). -/
def sinq (j : Nat) : Int :=
  let x : Int := 57952155664616982739 * j / 2048
  let s := (List.range 15).foldl (fun (a : Int × Int) n =>
    let t := -(a.2 * x / 2 ^ 64 * x / 2 ^ 64) / ((2 * (n + 1) : Nat) * (2 * (n + 1) + 1 : Nat))
    (a.1 + t, t)) (x, x)
  (s.1 + 2 ^ 40) / 2 ^ 41

/-- S(p) of R186. -/
def fadeWeight (p : Nat) : Int :=
  if 65536 ≤ p then 8388608
  else
    let j := p / 64
    sinq j + ((sinq (j + 1) - sinq j) * (p % 64 : Nat) + 32) / 64

/-- The position p = rdiv(i × 65,536, N) of a crossfade (R185). -/
def fadePos (i n : Nat) : Nat := if n = 0 then 65536 else (2 * (i * 65536) + n) / (2 * n)

/-- The gain of a ramp at a position (R185). -/
def rampGain (old new : Int) (p : Nat) : Int := old + ((new - old) * p + 2 ^ 15) / 2 ^ 16

/-- A cell that nothing has set: silence at gain 0. -/
def silentCell : RouteState := { src := 0xFFFF, gain := 0, oldSrc := 0xFFFF, oldGain := 0, start := 0, len := 0, kind := 0 }

/-- The state of a cell that counts for an ingress date: the newest one begun by then (R184). -/
def cellAt (l : List RouteState) (date : Nat) : RouteState :=
  match l.find? fun x => x.start ≤ date with
  | some x => x
  | none => l.getLastD silentCell

/-- The value of a route source for a section, and whether the section may not read it (Table 6-8, R185). -/
def sourceValue (c : MixCore) (e : MixEnv) (src : Nat) : Int × Bool :=
  let i := src % 8192
  match src / 8192 with
  | 0 => if e.secB then (0, true) else (nget 0 e.ingress i, false)
  | 1 => if e.secB && i < 1024 then (nget 0 c.feeds (i * 128 + e.date % 128), false) else (0, true)
  | 2 => if e.secB && i < e.outs then (nget 0 e.render i, false) else (0, true)
  | 7 => (0, false)
  | _ => (0, true)

/-- The term of one cell, exact (R185), and whether it counts as an address fault. -/
def routeTerm (c : MixCore) (e : MixEnv) (cell : Nat) : Int × Bool :=
  if 8192 ≤ cell || (cell < 4096) == e.secB then (0, true)
  else
    let x := cellAt (nget [] e.cells (8192 * e.core + cell)) e.date
    let s := sourceValue c e x.src
    let i := e.date - x.start
    if x.kind = 0 || x.len ≤ i then (s.1 * x.gain * 2 ^ 23, s.2)
    else
      let p := fadePos i x.len
      if x.kind = 1 then
        let o := sourceValue c e x.oldSrc
        (s.1 * x.gain * fadeWeight p + o.1 * x.oldGain * fadeWeight (65536 - p), s.2 || o.2)
      else (s.1 * rampGain x.oldGain x.gain p * 2 ^ 23, s.2)

/-- A flagged result in a lane of V[D]. -/
def MixRun.result (r : MixRun) (d k : Nat) (exact : Int) : MixRun :=
  let x := satAudio exact
  let sat := x ≠ exact
  { r with bank := (r.bank.setLane d k x).setFlags k x sat, saturated := r.saturated || sat }

/-- A flagged result in a lane of ACC[D], clamped to 72 bits (R181). -/
def MixRun.accResult (r : MixRun) (d k : Nat) (exact : Int) : MixRun :=
  let x := satS 72 exact
  let sat := x ≠ exact
  { r with bank := (r.bank.setAcc d k x).setFlags k x sat, saturated := r.saturated || sat }

/-- The unsaturated value of a lane operation on two Q1.31 words (Table 6-6, R181); bitwise results wrap as words. -/
def mixAlu (op k : Nat) (x y : Int) : Int :=
  let bitwise := fun (f : Nat → Nat → Nat) => wrapS 32 (f (wrapU 32 x) (wrapU 32 y) : Nat)
  match op with
  | 0x10 => x + y
  | 0x11 => x - y
  | 0x12 => (x * y + 2 ^ 30) / 2 ^ 31
  | 0x13 => (x * wrapS 24 y + 2 ^ 19) / 2 ^ 20
  | 0x14 => -x
  | 0x15 => if x < 0 then -x else x
  | 0x16 => max x y
  | 0x17 => min x y
  | 0x18 => rsh k x
  | 0x19 => x * 2 ^ k
  | 0x1A => bitwise Nat.land
  | 0x1B => bitwise Nat.lor
  | _ => bitwise Nat.xor

/-- The lanes an instruction writes, lowest first. -/
def writtenLanes (b : MixBank) (w : Nat) : List Nat := (List.range 4).filter (b.writes w)

/-- After an instruction, the loops whose body ends at the new place run again or are left (Table 6-6, LOOP). -/
def closeLoops : List (Nat × Nat × Nat) → Nat → Nat × List (Nat × Nat × Nat)
  | [], pc => (pc, [])
  | (start, stop, left) :: t, pc =>
    if pc = stop then if 1 < left then (start, (start, stop, left - 1) :: t) else closeLoops t pc
    else (pc, (start, stop, left) :: t)

/-- One instruction (Table 6-6). -/
def mixStep (c : MixCore) (e : MixEnv) (r : MixRun) : MixRun :=
  let w := c.code.getD r.pc 0x3200000000000000
  let b := r.bank
  let lanes := writtenLanes b w
  let d := mixD w
  let s1 := mixS1 w
  let s2 := mixS2 w
  let k := mixK w
  let adr := mixAddress b w
  let after := fun (r : MixRun) => if 2 ≤ mixAm w then { r with bank := r.bank.setA (mixAx w) adr.2 } else r
  let go := fun (r : MixRun) (pc : Nat) => let x := closeLoops r.loops pc; { r with pc := x.1, loops := x.2 }
  let next := fun (r : MixRun) => go r (r.pc + 1)
  match mixOp w with
  | 0x00 => next r
  | 0x01 => next (after (lanes.foldl (fun r k => let x := mixLoad c e r (adr.1 k); { x.2 with bank := x.2.bank.setLane d k x.1 }) r))
  | 0x02 =>
    if lanes.isEmpty then next (after r)
    else
      let x := mixLoad c e r (adr.1 0)
      next (after { x.2 with bank := lanes.foldl (fun b k => b.setLane d k x.1) x.2.bank })
  | 0x03 => next (after (lanes.foldl (fun r k => mixStore c e r (adr.1 k) (b.lane s1 k)) r))
  | 0x04 => next (after (if b.cond (mixCond w) k then mixStore c e r (adr.1 0) (b.lane s1 k) else r))
  | 0x05 => next { r with bank := ((List.range 4).filter (mixLanes w).testBit).foldl (fun b k => b.setLane d k (mixImm32 w)) b }
  | 0x06 => next { r with bank := lanes.foldl (fun x k => x.setLane d k (b.lane s1 k)) b }
  | 0x07 =>
    let i := d % 8
    let x := mixImm24 w
    next { r with bank := match k with
      | 0 => { b with a := b.a.set i x }
      | 1 => { b with m := b.m.set i x }
      | 2 => { b with b := b.b.set i x }
      | _ => { b with l := b.l.set i x } }
  | 0x08 =>
    let i := d % 8
    next { r with bank := if k = 0 then { b with a := b.a.set i (wrapU 24 (((lget 0 b.a i : Nat) : Int) + mixSimm w)) }
      else { b with m := b.m.set i (wrapU 24 (((lget 0 b.m i : Nat) : Int) + mixSimm w)) } }
  | 0x09 => next { r with bank := b.setA (d % 8) (b.lane s1 k) }
  | 0x0A => next { r with bank := lanes.foldl (fun x i => x.setLane d i (b.lane s1 (mixImm24 w / 4 ^ i % 4))) b }
  | 0x20 => next (lanes.foldl (fun r k => r.accResult (d % 4) k (b.accLane (d % 4) k + b.lane s1 k * b.lane s2 k)) r)
  | 0x21 => next (lanes.foldl (fun r k => r.accResult (d % 4) k (b.accLane (d % 4) k - b.lane s1 k * b.lane s2 k)) r)
  | 0x22 => next (lanes.foldl (fun r k => r.accResult (d % 4) k (b.accLane (d % 4) k + b.lane s1 k * wrapS 24 (b.lane s2 k) * 2 ^ 11)) r)
  | 0x23 => next { r with bank := lanes.foldl (fun b k => b.setAcc (d % 4) k 0) b }
  | 0x24 => next (lanes.foldl (fun r k => r.result d k ((b.accLane (s1 % 4) k + 2 ^ 30) / 2 ^ 31)) r)
  | 0x25 => next { r with bank := lanes.foldl (fun x k => x.setAcc (d % 4) k (b.lane s1 k * 2 ^ 31)) b }
  | 0x28 =>
    let n := mixImm24 w
    let first := lget 0 b.a (mixAx w)
    let t := (List.range n).foldl (fun (a : Int × Nat) i =>
      let x := routeTerm c e ((first + i) % 2 ^ 24)
      (a.1 + x.1, a.2 + b2n x.2)) (0, 0)
    let r := if t.2 = 0 then r else { r.fault first with faults := r.faults + t.2 }
    let r := if b.writes w k then r.result d k ((t.1 + 2 ^ 42) / 2 ^ 43) else r
    next { r with bank := r.bank.setA (mixAx w) ((first : Int) + n) }
  | 0x30 =>
    let body := mixBody w
    let n := mixImm24 w
    if n = 0 then go r (r.pc + 1 + body)
    else { r with pc := r.pc + 1, loops := (r.pc + 1, r.pc + 1 + body, n) :: r.loops }
  | 0x31 =>
    if (List.range 4).any fun k => (mixLanes w).testBit k && b.cond (mixCond w) k then go r (r.pc + mixImm24 w) else next r
  | 0x32 => { r with ended := true }
  | 0x33 =>
    next { r with bank := { b with flags := b.flags.zipIdx.map fun f => if (mixLanes w).testBit f.2 then setBit f.1 3 false else f.1 } }
  | op =>
    next (lanes.foldl (fun r k => r.result d k (mixAlu op (mixK w) (b.lane s1 k) (b.lane s2 k))) r)

/-- A section run to END; the fuel is the cycles of the section's window, which no instruction falls below. -/
def mixRunFuel (c : MixCore) (e : MixEnv) : Nat → MixRun → MixRun
  | 0, r => r
  | n + 1, r => if r.ended then r else mixRunFuel c e n (mixStep c e r)

/-- One section of one core for one ingress date: section A in the main bank, section B in the shadow bank (R173). -/
def mixSection (c : MixCore) (e : MixEnv) (budget : Nat) : MixRun :=
  mixRunFuel c e (budget + 1)
    { pc := if e.secB then c.entryB else 0, loops := [], ended := false, bank := if e.secB then c.shadow else c.main, data := c.data, wrote := [],
      stores := [], saturated := false, faults := 0, rejects := 0, firstFault := none }

end Sys2Proof.Machine
end

