-- ==== Sys2Proof/Machine/Render.lean ====
section
/-! DEFINITION. The render core (chapter 5): windows, bulk delay, interpolation, reduction, zeroed blocks, load. -/

namespace Sys2Proof.Machine

/-! ### The coefficient ROM (R149) -/

/-- The node of tap `j`. -/
def tapNode (j : Nat) : Int := 2 - (j : Int)

/-- c[φ][j] = floor(2^22 × λ_j(φ) + 1/2), the six-point Lagrange basis evaluated at −φ/512 (R149). -/
def interpCoef (phase j : Nat) : Int :=
  let others := (List.range 6).filter (· ≠ j)
  let num := others.foldl (fun a i => a * (-(phase : Int) - 512 * tapNode i)) 1
  let den := others.foldl (fun a i => a * (512 * (tapNode j - tapNode i))) 1
  if den < 0 then rdiv (2 ^ 22 * -num) (-den) else rdiv (2 ^ 22 * num) den

/-- Window narrowing to Q1.23, which saturates only at the positive limit (R137). -/
def narrow24 (y : Int) : Int := clampI (-8388608) 8388607 ((y + 128) / 256)

namespace Dev

/-! ### Windows and bulk delay (R137 to R143) -/

/-- The key of an assembly-bank sample. -/
def asmKey (n date : Nat) : Nat := n * 64 + date / 32 % 2 * 32 + date % 32

/-- The window sample of object `n` at a date, as the render of block `b` reads it (R138). -/
def windowAt (d : Dev) (b n : Nat) (date : Int) : Int :=
  if date < 0 then 0
  else
    let t := date.toNat
    if 32 * b ≤ t then nget 0 d.rend.assembly (asmKey n t)
    else nget 0 d.rend.ring (n * 8192 + t % d.windowW)

/-- The fold at the start of tick 32b + 34: the assembly bank of dates 32b − 32 to 32b − 1 goes into the ring (R138). -/
def foldWindow (b : Nat) (d : Dev) : Dev :=
  let bank := (b + 1) % 2
  let first := (32 * b + d.windowW - 32) % d.windowW
  let kept := d.rend.ring.filter fun p => p.1 % 8192 / 32 ≠ first / 32
  let fresh := d.rend.assembly.filter fun p => p.1 % 64 / 32 == bank
  let ring := fresh.foldl (fun r p => nput r (p.1 / 64 * 8192 + first + p.1 % 32) p.2) kept
  { d with rend := { d.rend with ring } }

/-- The key of a staging buffer's sample: five lines of 16 dates a slot. -/
def stageKey (n date : Nat) : Nat := n * 128 + date % 80

/-- The staging buffer takes the object plane of a date (R140). -/
def stageBulk (date : Nat) (d : Dev) : Dev :=
  let kept := d.rend.staging.filter fun p => p.1 % 128 ≠ date % 80
  { d with rend := { d.rend with staging := d.planes.object.foldl (fun r p => nset 0 r (stageKey p.1 date) p.2) kept } }

/-- The line of 16 dates that a date completes, written to every slot's DRAM ring (R141). -/
def writeBulkLine (date : Nat) (d : Dev) : Dev :=
  let first := date / 16 * 16
  let pos := first % d.ringSamples
  let kept := d.rend.bulk.filter fun p => p.1 % 262144 / 16 ≠ pos / 16
  let line := d.rend.staging.filter fun p => p.1 % 128 / 16 == first % 80 / 16
  { d with rend := { d.rend with
    bulk := line.foldl (fun r p => nput r (p.1 / 128 * 262144 + pos + p.1 % 16) p.2) kept
    absent := d.rend.absent.filter fun l => l % 16384 ≠ pos / 16 } }

/-- The bulk delay unit takes the object plane of a date: a line goes to DRAM once it is complete (R140, R141). -/
def bulkWrite (date : Nat) (d : Dev) : Dev :=
  let d := d.stageBulk date
  if date % 16 = 15 then d.writeBulkLine date else d

/-- The delayed feed y[t] = x[t − B(t)] of an object, from the source that its delay selects (R137, R140). -/
def bulkRead (d : Dev) (date n : Nat) : Int :=
  let b := d.natAt date Reg.objectBulkDelay n
  if date < b then 0
  else if b = 0 then nget 0 d.planes.object n
  else if b ≤ 63 then nget 0 d.rend.staging (stageKey n (date - b))
  else
    let pos := (date - b) % d.ringSamples
    if d.rend.absent.contains (n * 16384 + pos / 16) then 0 else nget 0 d.rend.bulk (n * 262144 + pos)

/-- The objects that may feed a window: those with a feed now, in the staging buffer or held in a bulk ring. -/
def fedObjects (d : Dev) : List Nat :=
  let keys := d.planes.object.map (·.1) ++ d.rend.staging.map (·.1 / 128) ++ d.rend.bulk.map (·.1 / 262144)
  (keys.foldl (fun (m : NMap Unit) k => nput m k ()) []).map (·.1)

/-- The window writer of tick t + 2: y[t] of every slot into assembly bank (t >> 5) mod 2; the objects of `late` lines
read 0 (R138, R140, R142). -/
def windowWrite (date : Nat) (late : List Nat) (d : Dev) : Dev :=
  let d := d.bulkWrite date
  let kept := d.rend.assembly.filter fun p => p.1 % 64 ≠ date / 32 % 2 * 32 + date % 32
  let asm := d.fedObjects.foldl (fun r n =>
    if d.objectExists n && !(late.contains n && decide (64 ≤ d.natAt date Reg.objectBulkDelay n)) then
      nset 0 r (asmKey n date) (narrow24 (d.bulkRead date n)) else r) kept
  { d with rend := { d.rend with assembly := asm } }

/-! ### The per-sample computation (R147 to R152) -/

/-- Gain of sample `i` of a block (R147). -/
def gainAt (x : Xp) (i : Nat) : Int := x.gainFrom + ((x.gainTo - x.gainFrom) * i + 16) / 32

/-- Window delay of sample `i` of a block (R147). -/
def delayAt (x : Xp) (i : Nat) : Int :=
  if x.step || x.gainFrom == 0 then x.delayTo else x.delayFrom + ((x.delayTo - x.delayFrom) * i + 16) / 32

/-- One sample of one crosspoint: six taps, a gain, both narrowings (R148, R150, R151). -/
def xpSample (d : Dev) (b n : Nat) (x : Xp) (i : Nat) : Int :=
  let s : Int := 32 * b + i
  let q := (delayAt x i + 512) / 1024
  let k := q / 512
  let ph := (q % 512).toNat
  let a := (List.range 6).foldl (fun (a : Int) (j : Nat) =>
    let t : Int := s - k + 2 - (j : Int)
    a + interpCoef ph j * d.windowAt b n (if s < t then s else t)) 0
  let v := (a + 8192) / 16384
  (v * gainAt x i + 524288) / 1048576

/-- Whether a record is skipped (R152). -/
def Xp.skipped (x : Xp) : Bool := x.gainFrom == 0 && x.gainTo == 0

/-- The write-back of a rendered record (R145). -/
def Xp.writeBack (x : Xp) : Xp := { x with gainFrom := x.gainTo, delayFrom := x.delayTo, step := false }

/-- The partial sums of every output in block `b`, exact (R151, R154). -/
def partials (d : Dev) (b : Nat) : NMap (List Int) :=
  d.rend.xp.foldl (fun acc p =>
    if Xp.skipped p.2 then acc
    else
      let u := (List.range 32).map (d.xpSample b (p.1 / 4096) p.2)
      match nget? acc (p.1 % 4096) with
      | some l => nput acc (p.1 % 4096) (List.zipWith (· + ·) l u)
      | none => nput acc (p.1 % 4096) u) []

/-- The load of an engine (R161). -/
def engineCycles (rendered skipped outputs : Nat) : Nat := cdiv (224 * rendered) 48 + cdiv skipped 4 + 8 * outputs

/-- The load figures of the block's render: RinkActiveLast, RinkCyclesLast and peaks, RenderLoadLast (R161, R168). -/
def loadFigures (active : List Nat) (d : Dev) : Dev :=
  let r := (List.range 16).foldl (fun (a : Dev × Nat) rink =>
    let p := rink % max d.parts 1
    let base := d.partBase p
    let po := d.partOuts p
    let mine := active.filter fun k => k / 4096 % 16 == rink
    let c := (List.range 4).foldl (fun c e =>
      let ae := (mine.filter fun k => (k % 4096 - base) % 4 == e).length
      let oe := (po + 3 - e) / 4
      max c (engineCycles ae (d.slotsPer p * oe - ae) oe)) 0
    (((a.1.setNat Reg.rinkActiveLast mine.length rink).setNat Reg.rinkCyclesLast c rink).peak Reg.rinkCyclesPeak c rink, max a.2 c)) (d, 0)
  let load := r.2 * 10000 / (if d.fast then 524224 else 1048512)
  (r.1.setNat Reg.renderLoadLast load).peak Reg.renderLoadPeak load

/-- The key of a sample of the output block buffer. -/
def outKey (m date : Nat) : Nat := m * 64 + date / 32 % 2 * 32 + date % 32

/-- RENDER_BLOCK: block `b` from the crosspoint store into the output block buffer (R153 to R156, fade-in of R165). -/
def renderBlock (b : Nat) (d : Dev) : Dev :=
  let sums := d.partials b
  let rendered := d.rend.xp.filter fun p => !(Xp.skipped p.2)
  let active := rendered.map (·.1)
  let targets := d.rend.xp.map fun p => (p.1, p.2.gainTo, p.2.delayTo)
  let xp := d.rend.xp.map fun p => if Xp.skipped p.2 then p else (p.1, Xp.writeBack p.2)
  let kept := d.rend.outBuf.filter fun p => p.1 % 64 / 32 ≠ b % 2
  let fade := d.rend.fade
  let r := sums.foldl (fun (a : NMap Int × NMap Nat) p =>
    let l := p.2.zipIdx.map fun v => (v.2, satAudio v.1, b2n (satAudio v.1 ≠ v.1))
    let buf := l.foldl (fun buf v =>
      let s : Int := if fade.contains p.1 then (v.2.1 * (v.1 : Int) + 16) / 32 else v.2.1
      nset 0 buf (outKey p.1 (32 * b + v.1)) s) a.1
    (buf, nset 0 a.2 p.1 ((l.map (·.2.2)).foldl (· + ·) 0))) (kept, [])
  let d := { d with rend := { d.rend with xp, rendered, targets, completed := d.rend.targets, outBuf := r.1, fade := [], faulted := [] } }
  let d := r.2.foldl (fun d p =>
    (d.bump Reg.outputSaturations 0 p.2).noticeOnce (0x600100000 + p.1) 0x6001 p.1) d
  (d.loadFigures active).bump Reg.blockCount

/-- Zeros in place of an output's samples of block `b`; the output fades in after (R165). -/
def zeroOutput (b : Nat) (d : Dev) (m : Nat) : Dev :=
  { d with rend := { d.rend with
    outBuf := d.rend.outBuf.filter fun p => !(p.1 / 64 == m && p.1 % 64 / 32 == b % 2)
    fade := if d.rend.fade.contains m then d.rend.fade else m :: d.rend.fade } }

/-- The affected outputs of a fault zeroed in block `b`, counted and told of (R165); `rink` is 0xFFFF for the tree. -/
def zeroBlocks (b rink : Nat) (outs : List Nat) (d : Dev) : Dev :=
  match outs with
  | [] => d
  | f :: _ =>
    let fresh := outs.filter fun m => !(d.rend.faulted.contains m)
    let d := outs.foldl (zeroOutput b) d
    let d := { d with rend := { d.rend with faulted := fresh ++ d.rend.faulted } }
    let d := d.bump Reg.zeroedBlocks 0 fresh.length
    let d := if rink < 16 then d.bump Reg.rinkZeroedBlocks rink fresh.length else d
    d.notice 0x6002 (rink * 65536 + f)

/-- Outputs to be zeroed in a block that is not rendered yet (R142, R200). -/
def zeroLater (b rink : Nat) (outs : List Nat) (d : Dev) : Dev :=
  { d with rend := { d.rend with zeroed := outs.map (fun m => (b, rink, m)) ++ d.rend.zeroed } }

/-- The outputs that wait to be zeroed in a block, zeroed now, rink by rink. -/
def zeroDue (b : Nat) (d : Dev) : Dev :=
  let due := (d.rend.zeroed.filter fun z => z.1 == b).map (·.2)
  let d := { d with rend := { d.rend with zeroed := d.rend.zeroed.filter fun z => b < z.1 } }
  (0xFFFF :: List.range 16).foldl (fun (d : Dev) r =>
    d.zeroBlocks b r ((due.filter fun z => z.1 == r).foldl (fun (m : NMap Unit) z => nput m z.2 ()) [] |>.map (·.1))) d

/-- The block whose render is in progress in tick `k`. -/
def blockInRender (k : Nat) : Nat := (k - 34) / 32

/-- The render plane of the coming tick: the output block buffer's samples of one ingress date (R156). -/
def renderPlane (d : Dev) (date : Nat) : NMap Int :=
  (d.rend.outBuf.filter fun p => p.1 % 64 == date / 32 % 2 * 32 + date % 32).map fun p => (p.1 / 64, p.2)

/-- LoadPeakClear "clear" (R167). -/
def loadPeakClear (arg : Octets) (d : Dev) : Status × Dev :=
  if arg ≠ ascii "clear" then (Status.range, d)
  else (Status.ok, (List.range 16).foldl (fun d r => d.setNat Reg.rinkCyclesPeak 0 r) (d.setNat Reg.renderLoadPeak 0))

/-! ### The places of windows and crosspoint records in on-chip memory (R139, R144, Tables 5-2 and 14-1) -/

/-- Lines of a ring: W / 8. -/
def windowLines (d : Dev) : Nat := d.windowW / 8

/-- The place, bank × 8,192 + word, of a word (0 to 2) of the window line of object `n` that holds a date (R139). -/
def windowPlace (d : Dev) (n date word : Nat) : Nat :=
  let j := n / 16
  let l := date / 8 % d.windowLines
  let g := (l + j) % 16
  (48 * (n % 16) + 3 * g + word % 3) * 8192 + j * (d.windowLines / 16) + l / 16

/-- The object and the line that a word of a window bank belongs to; `k` is the bank, 0 to 767 (R139). -/
def windowOwner (d : Dev) (k word : Nat) : Nat × Nat :=
  let g := k % 48 / 3
  let per := d.windowLines / 16
  let j := word / per
  (16 * j + k / 48, word % per * 16 + (g + 16 - j % 16) % 16)

/-- The first date of a line of the ring as the render of block `b` finds it: the ring holds the W dates before 32b (R138). -/
def lineDate (d : Dev) (b l : Nat) : Int :=
  let last : Int := 4 * (b : Int) - 1
  (last - (last - l) % d.windowLines) * 8

/-- The index of a crosspoint record in its rink (R144). -/
def xpIndex (d : Dev) (key : Nat) : Nat :=
  let p := d.partOfObj (key / 4096)
  key / 4096 / 16 * d.partOuts p + (key % 4096 - d.partBase p)

/-- The place of a word (0 or 1) of a crosspoint record (R144). -/
def xpPlace (d : Dev) (n m word : Nat) : Nat :=
  let x := d.xpIndex (xpKey n m)
  (768 + 80 * (n % 16) + x % 80) * 8192 + 2 * (x / 80) + word % 2

/-- The object and output of record `x` of a rink (R144). -/
def xpAt (d : Dev) (rink x : Nat) : Nat × Nat :=
  let p := rink % max d.parts 1
  let po := max (d.partOuts p) 1
  (16 * (x / po) + rink, d.partBase p + x % po)

/-- The object and output whose record holds a word of a crosspoint bank; `k` is the bank less 768 (R144). -/
def xpOwner (d : Dev) (k word : Nat) : Nat × Nat := d.xpAt (k / 80) (word / 2 * 80 + k % 80)

/-- The dates whose samples sample `i` of a crosspoint-block reads (R148, R150). -/
def tapDates (b : Nat) (x : Xp) (i : Nat) : List Int :=
  let s : Int := 32 * b + i
  let k := (delayAt x i + 512) / 1024 / 512
  (List.range 6).map fun (j : Nat) => let t : Int := s - k + 2 - (j : Int); if s < t then s else t

/-- The outputs whose crosspoint-blocks read a window line of an object in the block in progress (R164). -/
def lineReaders (d : Dev) (b n : Nat) (first : Int) : List Nat :=
  (d.rend.rendered.filter fun p => p.1 / 4096 == n &&
    (List.range 32).any fun i => (tapDates b p.2 i).any fun t => decide (first ≤ t) && decide (t < first + 8)).map fun p => p.1 % 4096

/-! ### Patches and reads (R157, R159) -/

/-- The module object number of a partition's object (R26); this module's unit addresses partition `p`. -/
def moduleObject (d : Dev) (p n : Nat) : Nat := n * max d.parts 1 + p

/-- The checks of a crosspoint patch of a unit with `cap` objects and `outs` outputs, in the order of R157 as far as they
concern the patch itself; `some none` stands for the no-op. -/
def patchCheck (d : Dev) (cap outs : Nat) (b : Octets) : Status × Bool :=
  let n0 := beAt b 0 2
  let nc := beAt b 2 2
  let m0 := beAt b 4 2
  let mc := beAt b 6 2
  if b.length < 8 ∨ b.length ≠ 8 + 8 * (nc * mc) then (Status.badLength, false)
  else if nc * mc = 0 then (Status.ok, true)
  else if cap < n0 + nc ∨ outs < m0 + mc then (Status.range, false)
  else if (chunks 8 (b.drop 8)).any fun r =>
      d.windowLimit < beAt r 4 4 || !(let g := beAtS r 0 4; decide (-8388608 ≤ g ∧ g ≤ 8388607)) then (Status.range, false)
  else (Status.ok, false)

/-- A committed patch waits at its objects, each marked in class 0 at the boundary; the law that counts is the one in force when
a pipe serves the object (R157, R158). -/
def patchCommit (p boundary : Nat) (b : Octets) (d : Dev) : Dev :=
  let n0 := beAt b 0 2
  let m0 := beAt b 4 2
  let mc := beAt b 6 2
  let patch := d.rend.patchSeq + 1
  let recs := (chunks 8 (b.drop 8)).zipIdx.map fun r =>
    (d.moduleObject p (n0 + r.2 / mc),
      ({ patch, date := boundary, out := d.partBase p + m0 + r.2 % mc, gain := beAtS r.1 0 4, delay := (beAt r.1 4 4 : Int) } : PatchRec))
  let objs := recs.foldl (fun (m : NMap (List PatchRec)) r => nput m r.1 (nget [] m r.1 ++ [r.2])) []
  objs.foldl (fun (d : Dev) o =>
    ({ d with rend := { d.rend with patches := nput d.rend.patches o.1 (nget [] d.rend.patches o.1 ++ o.2) } }).markAt 0 boundary o.1 (patched := true))
    { d with rend := { d.rend with patchSeq := patch } }

/-- XpRead: the header of a selection, then GainTo and DelayTo of each crosspoint as at the end of the last completed block
(R159); `cell` gives the object and output of a place of the selection. -/
def xpRead (d : Dev) (cell : Nat → Nat → Nat × Nat) (select : Nat) : Octets :=
  let n0 := bits select 63 48
  let nc := bits select 47 32
  let m0 := bits select 31 16
  let mc := bits select 15 0
  toBE 2 n0 ++ toBE 2 nc ++ toBE 2 m0 ++ toBE 2 mc ++
    (List.range (nc * mc)).flatMap fun i =>
      let c := cell (n0 + i / mc) (m0 + i % mc)
      let x := if d.partOfObj c.1 = d.partOfOut c.2 then nget (0, 0) d.rend.completed (xpKey c.1 c.2) else (0, 0)
      toBE 4 (wrapU 32 x.1) ++ toBE 4 x.2.toNat

/-- The crosspoint of a place in a partition's own numbering. -/
def partCell (d : Dev) (p n m : Nat) : Nat × Nat := (d.moduleObject p n, d.partBase p + m)

/-- InterpRom: 3,072 values of 3 octets, φ-major (R149). -/
def interpRom : Octets :=
  (List.range 512).flatMap fun ph => (List.range 6).flatMap fun j => toBE 3 (wrapU 24 (interpCoef ph j))

end Dev

end Sys2Proof.Machine
end

