-- ==== Sys2Proof/Machine/Mix.lean ====
section
/-! DEFINITION. The mix engine (chapter 6): images and their verification, swaps, route cells, sections A and B of a tick. -/

namespace Sys2Proof.Machine

/-! ### Images (R188) -/

/-- A bitmap of write-set octets as one number: slot s is bit s mod 8 of octet s / 8. -/
def setOf (l : Octets) : Nat := fromLE l

/-- The data memory that an image gives, word by word; words of 0 are not listed. -/
def dataOf (l : Octets) : NMap Nat :=
  ((chunks 4 l).zipIdx.map fun p => (p.2, fromBE p.1)).filter fun p => p.2 ≠ 0

/-- The directory entry of core `c`, absent when the core is not in CoreMask. -/
def coreOf (img : Octets) (c : Nat) : Option MixCore :=
  if !(beAt img 6 1).testBit c then none
  else
    let e := (img.drop (64 + 32 * c)).take 32
    let n := beAt e 4 2
    let setAt := fun off len => setOf ((img.drop (beAt e 24 4 + off)).take len)
    some {
      code := ((chunks 8 ((img.drop (beAt e 0 4)).take (8 * n))).map fromBE).toArray
      entryB := beAt e 6 2, cyclesA := beAt e 8 2, cyclesB := beAt e 10 2
      dataLength := beAt e 16 4
      data := dataOf ((img.drop (beAt e 12 4)).take (beAt e 16 4))
      feeds := []
      main := bankOf ((img.drop (beAt e 20 4)).take 512)
      shadow := bankOf ((img.drop (beAt e 20 4 + 512)).take 512)
      objectSet := setAt 0 512, feedSet := setAt 512 128, busSet := setAt 640 320, egressSet := setAt 960 512 }

/-- The route table records of an image: cell, source, gain. -/
def routesOf (img : Octets) : List (Nat × Nat × Int) :=
  (chunks 8 ((img.drop (beAt img 28 4)).take (8 * beAt img 32 4))).map fun r => (beAt r 0 2, beAt r 2 2, beAtS r 4 4)

/-- A route cell steady at its values from a date on. -/
def steadyCell (src : Nat) (gain : Int) (start : Nat) : RouteState :=
  { src, gain, oldSrc := src, oldGain := gain, start, len := 0, kind := 0 }

/-- A programme made from an image, its cells steady with the route table's values. -/
def programmeOf (img : Octets) : Programme :=
  if img.isEmpty then emptyProgramme
  else
    { image := img, crc := beAt img (img.length - 4) 4, id := beAt img 16 4, dualOf := beAt img 24 4
      cores := (List.range 8).map (coreOf img)
      cells := (routesOf img).foldl (fun m r => nput m r.1 [steadyCell r.2.1 r.2.2 0]) [] }

/-! ### Verification (R189, R190) -/

/-- The fields an instruction uses, as a mask over the word; a field outside it must be 0 (R179, Table 6-6). -/
def mixUsed (w : Nat) : Nat :=
  let dd := 0x00F0000000000000
  let d3 := 0x0070000000000000
  let d2 := 0x0030000000000000
  let s1 := 0x000F000000000000
  let s12 := 0x0003000000000000
  let s2 := 0x0000F00000000000
  let ln := 0x00000F0000000000
  let cd := 0x00000000F0000000
  let kk := 0x000000000F000000
  let im := 0x0000000000FFFFFF
  let mem := 0x0000000300000000 + match mixAm w with
    | 0 => im
    | 1 => 0x000000E000000000 + im
    | _ => 0x000000FC00000000
  match mixOp w with
  | 0x00 => 0 | 0x32 => 0
  | 0x01 => dd + ln + cd + mem | 0x02 => dd + ln + cd + mem
  | 0x03 => s1 + ln + cd + mem
  | 0x04 => s1 + cd + kk + mem
  | 0x05 => dd + ln + 0xFFFFFFFF
  | 0x06 => dd + s1 + ln + cd | 0x14 => dd + s1 + ln + cd | 0x15 => dd + s1 + ln + cd
  | 0x07 => d3 + kk + im | 0x08 => d3 + kk + im
  | 0x09 => d3 + s1 + kk
  | 0x0A => dd + s1 + ln + cd + im
  | 0x18 => dd + s1 + ln + cd + kk | 0x19 => dd + s1 + ln + cd + kk
  | 0x20 => d2 + s1 + s2 + ln + cd | 0x21 => d2 + s1 + s2 + ln + cd | 0x22 => d2 + s1 + s2 + ln + cd
  | 0x23 => d2 + ln + cd
  | 0x24 => dd + s12 + ln + cd
  | 0x25 => d2 + s1 + ln + cd
  | 0x28 => dd + ln + cd + 0x000000E000000000 + kk + im
  | 0x30 => 0x00FFF00000000000 + im
  | 0x31 => ln + cd + im
  | 0x33 => ln
  | _ => dd + s1 + s2 + ln + cd

/-- Whether Table 6-6 lists an opcode. -/
def mixKnown (op : Nat) : Bool :=
  op ≤ 0x0A || (0x10 ≤ op && op ≤ 0x1C) || (0x20 ≤ op && op ≤ 0x25) || op == 0x28 || (0x30 ≤ op && op ≤ 0x33)

/-- Check 0x04 of Table 6-12: opcode, unused fields, condition, K. -/
def mixWordOk (w : Nat) : Bool :=
  let op := mixOp w
  let k := mixK w
  mixKnown op && (w &&& (2 ^ 56 - 1)) ||| mixUsed w == mixUsed w &&
    (op == 0x05 || op == 0x30 || mixCond w ≤ 6) &&
    (if op == 0x04 || op == 0x09 || op == 0x28 || op == 0x07 then k ≤ 3 else if op == 0x08 then k ≤ 1 else true) &&
    (op != 0x28 || mixImm24 w ≤ 4096) && (op != 0x30 || 1 ≤ mixBody w)

/-- Whether a section may reach an absolute address (Table 6-2). -/
def addressOk (secB store : Bool) (outs addr : Nat) : Bool :=
  let a := addr / 4 * 4
  a < 0x40000 ||
  (!secB && !store && 0x100000 ≤ a && a < 0x104000) ||
  (!secB && store && 0x110000 ≤ a && a < 0x114000) ||
  (0x120000 ≤ a && a < 0x121000 && secB != store) ||
  (secB && !store && 0x130000 ≤ a && (a - 0x130000) / 4 < min outs 2560) ||
  (secB && store && 0x140000 ≤ a && (a - 0x140000) / 4 < min outs 2560 && a < 0x142800) ||
  (secB && store && 0x150000 ≤ a && a < 0x154000)

/-- Check 0x07 of Table 6-12 for one instruction. -/
def mixAbsOk (secB : Bool) (outs w : Nat) : Bool :=
  let op := mixOp w
  if 1 ≤ op && op ≤ 4 && mixAm w == 0 then
    let lanes := if op == 1 || op == 3 then (List.range 4).filter (mixLanes w).testBit else [0]
    lanes.all fun k => addressOk secB (op == 3 || op == 4) outs (mixImm24 w + 4 * k)
  else true

/-- The cycles of an instruction that is neither LOOP nor BR (Table 6-6). -/
def mixCycles (w : Nat) : Nat := if mixOp w = 0x28 then 2 + cdiv (mixImm24 w) 4 else 1

/-- The result of a path search: the longest path in cycles, or the failing check and the instruction. -/
abbrev PathResult := Except (Nat × Nat) Nat

/-- The instructions of one nesting level between two places, the bodies of its loops left out. -/
def levelOf (code : Array Nat) (stop : Nat) : Nat → Nat → List Nat
  | 0, _ => []
  | f + 1, i =>
    if stop ≤ i then []
    else
      let w := code.getD i 0
      i :: levelOf code stop f (if mixOp w = 0x30 then i + 1 + mixBody w else i + 1)

/-- The longest path from a place to END, or to the end of a loop body (R190), with checks 0x05 and 0x06;
`depth` is how deep loops may still nest. -/
def longestPath (code : Array Nat) : Nat → Nat → Nat → Bool → PathResult
  | 0, lo, _, _ => .error (0x06, lo)
  | depth + 1, lo, hi, body =>
    let level := levelOf code hi (hi - lo) lo
    let start : NMap (Option Nat) := [(hi, if body then some 0 else none)]
    let r := level.reverse.foldl (fun (a : Except (Nat × Nat) (NMap (Option Nat))) i =>
      a.bind fun best =>
        let w := code.getD i 0
        let at_ := fun j => nget none best j
        match mixOp w with
        | 0x32 => if body then .error (0x05, i) else .ok (nput best i (some 1))
        | 0x30 =>
          let stop := i + 1 + mixBody w
          if hi < stop then .error (0x06, i)
          else (longestPath code depth (i + 1) stop true).bind fun inner =>
            .ok (nput best i ((at_ stop).map fun n => 1 + mixImm24 w * inner + n))
        | 0x31 =>
          let t := i + mixImm24 w
          if mixImm24 w = 0 ∨ hi ≤ t ∨ !(level.contains t) then .error (0x05, i)
          else .ok (nput best i (match at_ (i + 1), at_ t with
            | some x, some y => some (max (1 + x) (2 + y))
            | _, _ => none))
        | _ => .ok (nput best i ((at_ (i + 1)).map (· + mixCycles w)))) (.ok start)
    r.bind fun best =>
      match nget none best lo with
      | some n => .ok n
      | none => .error (0x05, hi - 1)

/-- Whether a source is legal for a cell's section (Table 6-8). -/
def sourceOk (cell src outs : Nat) : Bool :=
  let secB := 4096 ≤ cell % 8192
  let i := src % 8192
  match src / 8192 with
  | 0 => !secB && i < 4096
  | 1 => secB && i < 1024
  | 2 => secB && i < outs
  | 7 => i == 0x1FFF
  | _ => false

/-- The section budgets of Table 6-1. -/
def sectionBudget (fast secB : Bool) : Nat :=
  if fast then (if secB then 4080 else 12272) else (if secB then 8176 else 24560)

/-- The value of MixVerifyResult for a failed check. -/
def verifyCode (code core index : Nat) : Nat := code * 2 ^ 24 + core * 2 ^ 16 + index % 65536

/-- The sections of an image as offset, length, core; the route table is taken as one more (DEDUCED). -/
def imageRegions (img : Octets) : List (Nat × Nat × Nat) :=
  ((List.range 8).filter (beAt img 6 1).testBit).flatMap (fun c =>
    let e := (img.drop (64 + 32 * c)).take 32
    [(beAt e 0 4, 8 * beAt e 4 2, c), (beAt e 12 4, beAt e 16 4, c), (beAt e 20 4, 1024, c), (beAt e 24 4, 1472, c)]) ++
  [(beAt img 28 4, 8 * beAt img 32 4, 0xFF)]

/-- The first failure among the checks of one core. -/
def verifyCore (img : Octets) (fast : Bool) (outs c : Nat) : Option Nat :=
  match coreOf img c with
  | none => none
  | some k =>
    let n := k.code.size
    let words := k.code.toList.zipIdx
    let e := (img.drop (64 + 32 * c)).take 32
    match words.find? fun p => !(mixWordOk p.1) with
    | some p => some (verifyCode 0x04 c p.2)
    | none =>
    match words.find? fun p => !(mixAbsOk (k.entryB ≤ p.2) outs p.1) with
    | some p => some (verifyCode 0x07 c p.2)
    | none =>
    match longestPath k.code 5 0 k.entryB false, longestPath k.code 5 k.entryB n false with
    | .error x, _ => some (verifyCode x.1 c x.2)
    | _, .error x => some (verifyCode x.1 c x.2)
    | .ok a, .ok b =>
      if a ≠ k.cyclesA ∨ b ≠ k.cyclesB ∨ sectionBudget fast false < a ∨ sectionBudget fast true < b then some (verifyCode 0x08 c 0)
      else
        let bank := fun off => (img.drop (beAt e 20 4 + off)).take 512
        let bad := fun (i : Octets) => ((i.drop 496).take 4).any (fun o => 16 ≤ o.toNat) || (i.drop 500).any (· ≠ 0)
        if bad (bank 0) ∨ bad (bank 512) then some (verifyCode 0x0B c 0) else none

/-- Whether two of several sets of slots, as bitmaps, share a slot. -/
def setsMeet (l : List Nat) : Bool := (l.foldl (fun (a : Nat × Bool) s => (a.1 ||| s, a.2 || (a.1 &&& s) != 0)) (0, false)).2

/-- Every check of Table 6-12 but 0x0C: none when the image passes, else the value of MixVerifyResult (R189). -/
def verifyImage (img : Octets) (fr outs : Nat) : Option Nat :=
  let n := img.length
  let fail := fun code core => some (verifyCode code core 0)
  if n < 324 ∨ 4738884 < n ∨ beAt img 0 4 ≠ 0x4A4D5850 ∨ beAt img 4 2 ≠ 1 ∨ beAt img 8 4 ≠ n ∨
      beAt img (n - 4) 4 ≠ crc32c (img.take (n - 4)) ∨ beAt img 7 1 ≠ 0 ∨ ((img.drop 36).take 28).any (· ≠ 0) then fail 0x01 0xFF
  else if beAt img 12 4 ≠ fr then fail 0x02 0xFF
  else if beAt img 6 1 = 0 then fail 0x03 0xFF
  else if 65536 < beAt img 32 4 then fail 0x0D 0xFF
  else
    let entry := fun c => (img.drop (64 + 32 * c)).take 32
    let present := (List.range 8).filter (beAt img 6 1).testBit
    match present.find? fun c => beAt (entry c) 4 2 = 0 ∨ 32768 < beAt (entry c) 4 2 ∨ 262144 < beAt (entry c) 16 4 ∨ beAt (entry c) 16 4 % 4 ≠ 0 with
    | some c => fail 0x0D c
    | none =>
    match (List.range 8).find? fun c => if present.contains c then
        beAt (entry c) 28 4 ≠ 0 ∨ beAt (entry c) 4 2 ≤ beAt (entry c) 6 2 else (entry c).any (· ≠ 0) with
    | some c => fail 0x03 c
    | none =>
    let regions := (imageRegions img).filter fun r => 0 < r.2.1
    match regions.find? fun r => r.1 % 4 ≠ 0 ∨ r.1 < 320 ∨ n - 4 < r.1 + r.2.1 ∨
        (regions.filter fun q => r.1 < q.1 + q.2.1 && q.1 < r.1 + r.2.1).length ≠ 1 with
    | some r => fail 0x03 r.2.2
    | none =>
    match present.findSome? (verifyCore img (fr == 96000) outs) with
    | some x => some x
    | none =>
    let cores := (List.range 8).filterMap (coreOf img)
    if setsMeet (cores.map (·.objectSet)) || setsMeet (cores.map (·.feedSet)) || setsMeet (cores.map (·.busSet)) ||
        setsMeet (cores.map (·.egressSet)) then fail 0x09 0xFF
    else
      let routes := routesOf img
      let bad := routes.zipIdx.find? fun r => !(sourceOk r.1.1 r.1.2.1 outs) ||
        !(decide (-8388608 ≤ r.1.2.2 ∧ r.1.2.2 ≤ 8388607)) || (routes.filter fun q => q.1 == r.1.1).length ≠ 1
      match bad with
      | some r => some (verifyCode 0x0A 0xFF r.2)
      | none => none

namespace Dev

/-- The union of the egress write sets of a programme. -/
def programmeEgress (p : Programme) : Nat :=
  p.cores.foldl (fun a c => match c with | some k => a ||| k.egressSet | none => a) 0

/-! ### Route cells (R183 to R187) -/

/-- The target source and gain of a global cell, as RouteCell reads back (R198). -/
def routeTarget (d : Dev) (cell : Nat) : Nat × Int :=
  match nget [] d.mix.cur.cells cell with
  | x :: _ => (x.src, x.gain)
  | [] => (0xFFFF, 0)

/-- A cell settled at a date: the values it has there, and whether a crossfade was cut short (R187). -/
def settleCell (x : RouteState) (date : Nat) : RouteState × Bool :=
  let i := date - x.start
  if x.kind = 0 ∨ x.len ≤ i then (x, false)
  else
    let p := fadePos i x.len
    if x.kind = 2 then ({ x with gain := rampGain x.oldGain x.gain p }, true)
    else if 32768 ≤ p then (x, true)
    else ({ x with src := x.oldSrc, gain := x.oldGain }, true)

/-- A change of a route cell that commits at a boundary (R184, R187). -/
def routeChange (cell src : Nat) (gain : Int) (date : Nat) (d : Dev) : Dev :=
  let known := nget [] d.mix.cur.cells cell
  let old := if known.isEmpty then [silentCell] else known
  let head := old.headD silentCell
  if head.src = src ∧ head.gain = gain then d
  else
    let n := d.nat Reg.routeCrossfade
    let s := settleCell head date
    let kind := if s.1.src ≠ src then 1 else if s.1.gain ≠ gain then 2 else 0
    let x : RouteState := { src, gain, oldSrc := s.1.src, oldGain := s.1.gain, start := date, len := n, kind := if n = 0 then 0 else kind }
    let keep := (old.filter fun y => date < y.start + 128) ++ ((old.filter fun y => !(decide (date < y.start + 128))).take 1)
    let d := { d with mix := { d.mix with cur := { d.mix.cur with cells := nput d.mix.cur.cells cell (x :: keep) } } }
    if s.2 then (d.bump Reg.routeInterrupted).noticeOnce (0x680500000 + cell) 0x6805 cell else d

/-- The records of a RoutePatch: cell, source, gain. -/
def routePatchRecords (b : Octets) : List (Nat × Nat × Int) :=
  (chunks 8 (b.drop 4)).map fun r => (beAt r 0 2, beAt r 2 2, beAtS r 4 4)

/-- The checks of a RoutePatch (R196, R42); the flag stands for the no-op of count 0. -/
def routePatchCheck (d : Dev) (b : Octets) : Status × Bool :=
  let n := beAt b 0 4
  if b.length ≠ 4 + 8 * n then (Status.badLength, false)
  else if n = 0 then (Status.ok, true)
  else if (routePatchRecords b).all fun r => sourceOk r.1 r.2.1 d.outs && decide (-8388608 ≤ r.2.2 ∧ r.2.2 ≤ 8388607) then (Status.ok, false)
  else (Status.range, false)

/-! ### Swaps (R191 to R195) -/

/-- The entries that describe the programme in force (R196, R197). -/
def describeProgramme (d : Dev) : Dev :=
  let p := d.mix.cur
  let d := (d.setNat Reg.programmeCrc p.crc).setNat Reg.programmeId p.id
  p.cores.zipIdx.foldl (fun d c =>
    match c.1 with
    | some k => (((d.setNat Reg.coreCyclesA k.cyclesA c.2).setNat Reg.coreCyclesB k.cyclesB c.2).setNat Reg.coreCodeLength k.code.size c.2).setNat Reg.coreDataLength k.dataLength c.2
    | none => (((d.setNat Reg.coreCyclesA 0 c.2).setNat Reg.coreCyclesB 0 c.2).setNat Reg.coreCodeLength 0 c.2).setNat Reg.coreDataLength 0 c.2) d

/-- The cycles of a core's section in a programme; an absent core is END in both (R188). -/
def sectionCycles (p : Programme) (secB : Bool) (c : Nat) : Nat :=
  match (p.cores.getD c none) with
  | some k => if secB then k.cyclesB else k.cyclesA
  | none => 0

/-- Whether old and new sections fit side by side (R192). -/
def dualFits (d : Dev) (old new : Programme) : Bool :=
  (List.range 8).all fun c => [false, true].all fun s =>
    sectionCycles old s c + sectionCycles new s c + 48 ≤ sectionBudget d.fast s

/-- Notice 0x6801 for the swap in force (R195). -/
def swapNotice (d : Dev) : Dev :=
  d.notice 0x6801 (d.mix.cur.id % 65536 * 65536 + d.nat Reg.swapStatus)

/-- A swap committed at a boundary: a dual run, or a cut for the reason SwapStatus names (R192 to R195). -/
def swapProgramme (img : Octets) (date : Nat) (d : Dev) : Dev :=
  let old := d.mix.cur
  let base := programmeOf img
  let new : Programme := { base with cells := base.cells.map fun c => (c.1, c.2.map fun x => { x with start := date }) }
  let x := d.nat Reg.routeCrossfade
  let status : Nat :=
    if x = 0 then 3 else if new.dualOf = 0 then 4 else if new.dualOf = old.crc then (if d.dualFits old new then 1 else 6) else 5
  let d := { d with mix := { d.mix with cur := new, prev := some old, swapDate := date, dualLen := if status = 1 then x else 0 }, sram := { d.sram with half := 1 - d.sram.half } }
  let d := ((d.setNat Reg.swapStatus status).setNat Reg.swapDate date).describeProgramme
  if status = 1 then d else d.swapNotice

/-- MIX_DUAL_RUN_END: after tick D + X + 65, later by a group's extra latency, the old halves are released and SwapStatus
becomes 2 (R193, R467). -/
def dualRunEnd (d : Dev) : Dev :=
  if d.nat Reg.swapStatus = 1 ∧ d.mix.swapDate + d.mix.dualLen + 65 + d.lag < d.msc then
    ({ d with mix := { d.mix with prev := none, dualLen := 0 } }.setNat Reg.swapStatus 2).swapNotice
  else d

/-- The old programme of a cut goes once section B has left it (R194). -/
def cutDone (d : Dev) : Dev :=
  if d.nat Reg.swapStatus ≠ 1 ∧ d.mix.swapDate + 66 + d.lag ≤ d.msc then { d with mix := { d.mix with prev := none } } else d

/-! ### Sections of a tick (R171, R172, R175, R176, R193, R200) -/

/-- What one section of one programme leaves in a tick: the programme, its stores, whether a lane saturated. -/
structure SectionOut where
  prog : Programme
  stores : NMap Int
  saturated : Bool

/-- The stores of a faulted core are zeros (R200). -/
def zeroStores (m : NMap Int) : NMap Int := m.map fun p => (p.1, 0)

/-- The contribution of a core held at zero for a block and faded in over the next (R200). -/
def heldStores (d : Dev) (core date : Nat) (m : NMap Int) : NMap Int :=
  match nget? d.mix.held core with
  | some b =>
    if date / 32 = b then zeroStores m
    else if date / 32 = b + 1 then m.map fun p => (p.1, (p.2 * (date % 32 : Nat) + 16) / 32)
    else m
  | none => m

/-- One section of every core of a programme for an ingress date. -/
def runSection (d : Dev) (prog : Programme) (secB : Bool) (date : Nat) (faulted : List Nat) : Dev × SectionOut :=
  (List.range 8).foldl (fun (a : Dev × SectionOut) c =>
    match a.2.prog.cores.getD c none with
    | none => a
    | some k =>
      let e : MixEnv := { secB, core := c, date, outs := d.outs, ingress := d.planes.ingress, render := d.planes.render, sources := [], cells := prog.cells }
      let r := mixSection k e (sectionBudget d.fast secB)
      let bad := faulted.contains c
      let st := if bad then zeroStores r.stores else r.stores
      let feeds := k.feeds.filter fun p => secB || p.1 % 128 ≠ date % 128
      let feeds := if secB then feeds else (st.filter fun p => 0x120000 ≤ p.1 && p.1 < 0x121000).foldl (fun f p => nset 0 f ((p.1 - 0x120000) / 4 * 128 + date % 128) p.2) feeds
      let data := if bad then r.wrote.foldl (fun m w => nerase m w) k.data else r.data
      let k' := { k with data, feeds, main := if secB then k.main else r.bank, shadow := if secB then r.bank else k.shadow }
      let st := if secB then d.heldStores c date st else st
      let d' := (a.1.bump Reg.mixAddressFaults 0 r.faults).bump Reg.mixStoreRejects 0 r.rejects
      let d' := match r.firstFault with
        | some f => d'.noticeOnce (0x680300000 + c) 0x6803 (c * 2 ^ 29 + b2n f.1 * 2 ^ 28 + f.2)
        | none => d'
      (d', { prog := { a.2.prog with cores := a.2.prog.cores.set c (some k') }, stores := st.foldl (fun m p => nput m p.1 p.2) a.2.stores, saturated := a.2.saturated || r.saturated }))
    (d, { prog, stores := [], saturated := false })

/-- Values of two programmes blended for a dual run (R193). -/
def blend (old new : NMap Int) (p : Nat) : NMap Int :=
  let keys := ((old ++ new).foldl (fun (m : NMap Unit) q => nput m q.1 ()) []).map (·.1)
  keys.map fun k =>
    (k, satAudio ((nget 0 old k * fadeWeight (65536 - p) + nget 0 new k * fadeWeight p + 2 ^ 22) / 2 ^ 23))

/-- One section of the tick, whichever programmes run for the date (R193, R194): its stores, and the state after. -/
def sectionTick (secB : Bool) (date : Nat) (faulted : List Nat) (d : Dev) : Dev × NMap Int × Bool :=
  let m := d.mix
  match m.prev with
  | some old =>
    if date < m.swapDate then
      let r := d.runSection old secB date faulted
      ({ r.1 with mix := { r.1.mix with prev := some r.2.prog } }, r.2.stores, r.2.saturated)
    else if date < m.swapDate + m.dualLen then
      let o := d.runSection old secB date faulted
      let n := o.1.runSection m.cur secB date faulted
      ({ n.1 with mix := { n.1.mix with prev := some o.2.prog, cur := n.2.prog } },
        blend o.2.stores n.2.stores (fadePos (date - m.swapDate) m.dualLen), o.2.saturated || n.2.saturated)
    else
      let r := d.runSection m.cur secB date faulted
      ({ r.1 with mix := { r.1.mix with cur := r.2.prog } }, r.2.stores, r.2.saturated)
  | none =>
    let r := d.runSection m.cur secB date faulted
    ({ r.1 with mix := { r.1.mix with cur := r.2.prog } }, r.2.stores, r.2.saturated)

/-- The stores of one address window as slots. -/
def windowStores (base size : Nat) (m : NMap Int) : NMap Int :=
  (m.filter fun p => base ≤ p.1 && p.1 < base + size).map fun p => ((p.1 - base) / 4, p.2)

/-- A sparse array without its zeros. -/
def dropZeros (m : NMap Int) : NMap Int := m.filter fun p => p.2 ≠ 0

/-- The bus that correction receives: sat(render[m] + v) (R176), and whether a sum was clamped. -/
def busSum (render bus : NMap Int) : NMap Int × Bool :=
  bus.foldl (fun (a : NMap Int × Bool) p =>
    let x := nget 0 render p.1 + p.2
    (nset 0 a.1 p.1 (satAudio x), a.2 || satAudio x ≠ x)) (render, false)

/-- Whether a fault of a section for a date struck the outgoing programme of a swap: its half holds the place, or, where no place
is named, its code alone ran for the date (R193, R194, Table 14-1). -/
def struckOld (d : Dev) (place : Option Nat) (date : Nat) : Bool :=
  match d.mix.prev with
  | none => false
  | some _ => match place with
    | some p =>
      let b := p / 8192
      let (first, per) : Nat × Nat := if b < 2112 then (2048, 4) else if b < 2176 then (2112, 4) else if b < 2208 then (2176, 2) else (2208, 8)
      (b - first) / per % 2 ≠ d.sram.half
    | none => decide (date < d.mix.swapDate)

/-- The data words, and the direct feed samples, that a 64-bit word of on-chip memory holds, two of 32 bits each (Table 14-1). -/
def pairAt (place : Option Nat) : List Nat × List Nat :=
  match place with
  | some p =>
    let b := p / 8192
    let two (i : Nat) : List Nat := [2 * i, 2 * i + 1]
    if 2112 ≤ b ∧ b < 2176 then (two ((b - 2112) % 4 * 8192 + p % 8192), [])
    else if 2208 ≤ b ∧ b < 2336 then ([], two ((b - 2208) % 8 * 8192 + p % 8192))
    else ([], [])
  | none => ([], [])

/-- A mix core fault (R200): counters, notice, repaired word; section B is held at zero for the rest of its block. -/
def mixFault (core kind : Nat) (secB : Bool) (dataWord feedWord place : Option Nat) (date : Nat) (d : Dev) : Dev :=
  let d := if kind = 2 then d.bump Reg.coreEccUncorrected core else d.bump Reg.coreResidueErrors core
  let d := (d.bump Reg.coreZeroedTicks core).notice 0x6804 (core * 65536 + (if kind = 2 then 2 else 1))
  let d := if secB then { d with mix := { d.mix with held := nput d.mix.held core (date / 32) } } else d
  let struck := pairAt place
  let fix := fun (k : MixCore) => { k with
    data := (dataWord.toList ++ struck.1).foldl (fun m w => nerase m w) k.data
    feeds := (feedWord.toList ++ struck.2).foldl (fun m w => nerase m w) k.feeds }
  let fixed := fun (p : Programme) => { p with cores := p.cores.modify core fun c => c.map fix }
  if d.struckOld place date then { d with mix := { d.mix with prev := d.mix.prev.map fixed } }
  else { d with mix := { d.mix with cur := fixed d.mix.cur } }

/-- The programme in force restarted from its image: banks, data, feeds; its cells keep their values, settled (R593). -/
def restartMix (d : Dev) : Dev :=
  let p := d.mix.cur
  let fresh := programmeOf p.image
  let cells := p.cells.map fun c => (c.1, match c.2 with
    | x :: _ => [steadyCell x.src x.gain x.start]
    | [] => [])
  { d with mix := { cur := { fresh with cells }, prev := none, swapDate := d.mix.swapDate, dualLen := 0, egressDelay := List.replicate 5 [], held := [] } }

/-- CrossfadeRom: SINQ as 1,025 values of 3 octets (R186). -/
def crossfadeRom : Octets := (List.range 1025).flatMap fun j => toBE 3 (sinq j).toNat

end Dev

end Sys2Proof.Machine
end

