-- ==== Sys2Proof/Machine/Correction.lean ====
section
/-! DEFINITION. The correction stage (chapter 7): biquads, FIR, gain, delay, limiter, mapping, flash store. -/

namespace Sys2Proof.Machine

/-- A biquad section with clear states. -/
def zeroBiquad : Biquad := { x1 := 0, x2 := 0, y1 := 0, y2 := 0, e := 0 }

/-- A chain with clear histories and unity limiter gain (R224). -/
def zeroChain : OutChain :=
  { biquads := List.replicate 16 zeroBiquad, hist := [], gains := [], delays := [], firs := [], ring := [], u := [0, 0, 0, 0],
    g := 8388608, below := false, belowLast := false, zeroO := none, zeroY := none, lateLine := 0 }

/-! ### Biquads (R202 to R205) -/

/-- Whether section `k` of a BiquadCoeffs value is active. -/
def bqActive (c : Octets) (k : Nat) : Bool := (beAt c (21 * k) 1).testBit 0

/-- Coefficient `i` (b0, b1, b2, a1, a2) of section `k`. -/
def bqCoef (c : Octets) (k i : Nat) : Int := beAtS c (21 * k + 1 + 4 * i) 4

/-- One section for one input: the new states, the output, whether it was clamped (R202, R203). -/
def biquadStep (c : Octets) (k : Nat) (s : Biquad) (x0 : Int) : Biquad × Int × Bool :=
  if bqActive c k then
    let acc := bqCoef c k 0 * x0 + bqCoef c k 1 * s.x1 + bqCoef c k 2 * s.x2 - bqCoef c k 3 * s.y1 - bqCoef c k 4 * s.y2 + s.e
    let yu := (acc + 2 ^ 27) / 2 ^ 28
    let y0 := satAudio yu
    let sat := y0 ≠ yu
    ({ x1 := x0, x2 := s.x1, y1 := y0, y2 := s.y1, e := if sat then 0 else acc - yu * 2 ^ 28 }, y0, sat)
  else ({ x1 := x0, x2 := s.x1, y1 := x0, y2 := s.y1, e := 0 }, x0, false)

/-- The checks of a BiquadCoeffs value (R204). -/
def biquadCheck (c : Octets) : Status :=
  if c.length ≠ 336 then Status.badLength
  else if (List.range 16).all fun k =>
      let f := beAt c (21 * k) 1
      let a1 := bqCoef c k 3
      let a2 := bqCoef c k 4
      f ≤ 1 && (f = 0 || decide (-(2 ^ 28) < a2 ∧ a2 < 2 ^ 28 ∧ (a1.natAbs : Int) < 2 ^ 28 + a2)) then Status.ok
  else Status.range

/-! ### FIR (R206 to R210) -/

/-- The taps of a FirFilter value, Q2.22. -/
def firTaps (f : Octets) : List Int := (chunks 3 ((f.drop 2).take (3 * beAt f 0 2))).map fun t => wrapS 24 (fromBE t)

/-- The exact FIR of R206 over a history whose head is x24[t]; an empty filter passes x. -/
def firOut (f : Octets) (hist : List Int) (x : Int) : Int × Bool :=
  let taps := firTaps f
  if taps.isEmpty then (x, false)
  else
    let y := ((List.zipWith (· * ·) taps hist).foldl (· + ·) 0 + 2 ^ 13) / 2 ^ 14
    (satAudio y, satAudio y ≠ y)

/-! ### Gain and delay (R211 to R215) -/

/-- The ramp that counts for a date: the newest one begun by then. -/
def rampFor (l : List Ramp) (date : Nat) : Option Ramp := l.find? fun r => r.start ≤ date

/-- The value of a gain ramp at a date (R212). -/
def rampValue (r : Ramp) (date : Nat) : Int :=
  let i := date - r.start
  if r.len ≤ i then r.new else r.old + ((r.new - r.old) * fadePos i r.len + 2 ^ 15) / 2 ^ 16

/-- Ramps of which some date still in the chain may use the older ones. -/
def pruneRamps (l : List Ramp) (date : Nat) : List Ramp :=
  (l.filter fun r => date < r.start + 256) ++ ((l.filter fun r => r.start + 256 ≤ date).take 1)

/-! ### Limiter (R216, R217) -/

/-- Required gain of a sample for a threshold. -/
def limRequired (t : Nat) (u : Int) : Nat :=
  if u.natAbs ≤ t then 8388608 else (2 * (t * 8388608) + u.natAbs) / (2 * u.natAbs)

/-- The new gain for date t from u[t] to u[t + 4] and the gain before (R216). -/
def limGain (g thr release fr : Nat) (u : List Int) : Nat :=
  let r := rdiv (2 ^ 24 * 1000000) (release * fr : Nat)
  let a : Int := g + ((8388608 - (g : Int)) * r + 2 ^ 23) / 2 ^ 24
  (u.zipIdx.foldl (fun (m : Int) p =>
    let rj : Int := limRequired thr p.1
    let c := if rj < a then rj + rdiv ((a - rj) * p.2) (p.2 + 1 : Nat) else a
    min m c) a).toNat

namespace Dev

/-- The chain of an output. -/
def chain (d : Dev) (m : Nat) : OutChain := nget zeroChain d.corr.chains m

/-- The chain of an output written. -/
def setChain (d : Dev) (m : Nat) (c : OutChain) : Dev :=
  { d with corr := { d.corr with chains := nset zeroChain d.corr.chains m c } }

/-- The target gain G of an output for a date (R211). -/
def gainTarget (d : Dev) (date m : Nat) : Int :=
  if d.natAt date Reg.outputMute m ≠ 0 then 0
  else
    let g : Int := lin (d.intAt date Reg.outputGain m)
    if d.natAt date Reg.outputPolarity m ≠ 0 then -g else g

/-- The gain in force for a date (R212). -/
def gainForDate (d : Dev) (c : OutChain) (date m : Nat) : Int :=
  match rampFor c.gains date with
  | some r => rampValue r date
  | none => d.gainTarget date m

/-- A change of gain, polarity or mute committed at a boundary begins a ramp (R212). -/
def gainChanged (m date : Nat) (d : Dev) : Dev :=
  let c := d.chain m
  let r : Ramp := { start := date, len := d.nat Reg.outputRamp, old := match rampFor c.gains date with
    | some r => rampValue r date
    | none => d.gainTarget (date - 1) m, new := d.gainTarget date m }
  d.setChain m { c with gains := r :: pruneRamps (c.gains.filter fun x => x.start ≠ date) date }

/-- A change of delay committed at a boundary begins a crossfade, from the tap of the larger weight (R215). -/
def delayChanged (m date : Nat) (d : Dev) : Dev :=
  let c := d.chain m
  let old : Int := match rampFor c.delays date with
    | some r => if r.len ≤ date - r.start ∨ 32768 ≤ fadePos (date - r.start) r.len then r.new else r.old
    | none => d.intAt (date - 1) Reg.outputDelay m
  let r : Ramp := { start := date, len := d.nat Reg.outputRamp, old, new := d.int Reg.outputDelay m }
  d.setChain m { c with delays := r :: pruneRamps c.delays date }

/-- FirMaxTaps in force (R206). -/
def firMax (d : Dev) : Nat := if d.fast then 4096 else 8192

/-- The largest partition size in use (R218). -/
def bMax (d : Dev) : Nat := if d.fast then 2048 else 4096

/-- FirFadeLimit (R220). -/
def fadeLimit (d : Dev) : Nat := if d.fast then 256 else 512

/-- OutputDelayMax (R213). -/
def delayMax (d : Dev) : Nat := if d.fast then 9600 else 4800

/-- OutputRingSamples (R214). -/
def outRing (d : Dev) : Nat := if d.fast then 16384 else 8192

/-- A FIR change committed at a boundary: a fade when one was assigned and FirFade is not 0, else a cut (R219, R220). -/
def firChanged (m date : Nat) (d : Dev) : Dev :=
  let c := d.chain m
  let n := if d.corr.fades.any fun a => a.output == m && a.date == date then d.nat Reg.firFade else 0
  let x : FirChange := { start := date, len := n, old := (d.valAt (date - 1) Reg.firFilter m).toBytes }
  let zeroO := c.zeroO.map fun z => (z.1, min z.2 (max z.1 (date / 32 - 1)))
  d.setChain m { c with firs := [x], zeroO }

/-- A committed FIR change, a cut or on a stopped path too: its fade place ends at D + N, at once where the path does not run, and
its shadow spectra stay in use until D + N + 2 × B_max (R219, R220). -/
def firHeld (m date : Nat) (d : Dev) : Dev :=
  let ends := if d.power.state.runs then date + d.nat Reg.firFade else date
  { d with corr := { d.corr with
    shadows := nput d.corr.shadows m (date + d.nat Reg.firFade + 2 * d.bMax)
    fades := d.corr.fades.map fun a => if a.output = m ∧ a.date = date then { a with ends := some ends } else a } }

/-- Whether a fade place is held at a time: assigned, and not ended (R220). -/
def FadePlace.heldAt (a : FadePlace) (msc : Nat) : Bool := match a.ends with | some t => decide (msc < t) | none => true

/-- Places that FIR fades hold now (R220). -/
def fadesHeld (d : Dev) : Nat := (d.corr.fades.filter fun a => FadePlace.heldAt a d.mscNow).length

/-- The spectrum slot in force of an output (R410). -/
def firSlot (d : Dev) (m : Nat) : Nat := nget m d.corr.slots m

/-- The lowest free spectrum slot (R410). -/
def freeSlot (d : Dev) : Nat :=
  ((List.range 3072).find? fun s =>
    !(d.corr.fades.any fun x => x.slot == s) && !(List.range d.outs).any fun m => d.firSlot m == s).getD 0

/-- FIR_FADE_ASSIGN: fades and slots in ascending m while the limit allows; the rest are cuts, counted and told once
(R220, R410). -/
def firFadeAssign (date : Nat) (ready : List Nat) (d : Dev) : Dev :=
  let r := ready.foldl (fun (a : Dev × Nat) m =>
    if a.1.fadesHeld < a.1.fadeLimit then
      ({ a.1 with corr := { a.1.corr with fades := a.1.corr.fades ++ [{ output := m, date, slot := a.1.freeSlot, ends := none }] } }, a.2)
    else (a.1, a.2 + 1)) (d, 0)
  if r.2 = 0 then r.1 else (r.1.bump Reg.firFadeCuts 0 r.2).notice 0x7A01 r.2

/-- Fade places given back: of a change that does not commit, whose new slot is free again, or of a fade that has ended,
whose output keeps the new slot (R220, R410). -/
def releaseFades (keep : FadePlace → Bool) (d : Dev) : Dev :=
  let gone := d.corr.fades.filter fun a => !keep a
  let slots := gone.foldl (fun (m : NMap Nat) a =>
    if a.ends.isNone then m else if a.slot = a.output then nerase m a.output else nput m a.output a.slot) d.corr.slots
  { d with corr := { d.corr with fades := d.corr.fades.filter keep, slots } }

/-- Fades that ended give their places back (R220). -/
def endFades (d : Dev) : Dev := d.releaseFades fun a => FadePlace.heldAt a d.mscNow

/-! ### The chain of one tick (R201) -/

/-- An output value in blocks held at zero, or faded in over the next (R225). -/
def heldValue (z : Option (Nat × Nat)) (date : Nat) (x : Int) : Int :=
  match z with
  | some (b, e) =>
    if b ≤ date / 32 ∧ date / 32 ≤ e then 0 else if date / 32 = e + 1 then (x * (date % 32 : Nat) + 16) / 32 else x
  | none => x

/-- A list of integers without the zeros at its end. -/
def trimZeros (l : List Int) : List Int := (l.reverse.dropWhile (· == 0)).reverse

/-- Biquads, FIR and output gain of one output for one ingress date (steps 2 to 4 of Table 7-1). -/
def chainB (d : Dev) (m date : Nat) (input : Int) : Dev :=
  let c := d.chain m
  let co := (d.valAt date Reg.biquadCoeffs m).toBytes
  let b := c.biquads.zipIdx.foldl (fun (a : List Biquad × Int × Nat) s =>
    let r := biquadStep co s.2 s.1 a.2.1
    (a.1 ++ [r.1], r.2.1, a.2.2 + b2n r.2.2)) ([], input, 0)
  let x := b.2.1
  let x24 := clampI (-8388608) 8388607 ((x + 128) / 256)
  let hist := trimZeros ((x24 :: c.hist).take d.firMax)
  let z := firOut (d.valAt date Reg.firFilter m).toBytes hist x
  let z : Int × Nat := match c.firs with
    | f :: _ =>
      if f.start ≤ date ∧ date < f.start + f.len then
        let zo := firOut f.old hist x
        let p := fadePos (date - f.start) f.len
        ((zo.1 * (65536 - p : Nat) + z.1 * p + 2 ^ 15) / 2 ^ 16, b2n z.2 + b2n zo.2)
      else (z.1, b2n z.2)
    | [] => (z.1, b2n z.2)
  let o := satAudio ((z.1 * d.gainForDate c date m + 2 ^ 19) / 2 ^ 20)
  let o := heldValue c.zeroO date o
  let zeroO := match c.zeroO with
    | some bl => if bl.2 + 2 ≤ date / 32 then none else some bl
    | none => none
  let d := d.setChain m { c with biquads := b.1, hist, ring := nset 0 c.ring (date % d.outRing) o, zeroO }
  let d := if b.2.2 = 0 then d else d.bump Reg.biquadSaturations m b.2.2
  let d := if z.2 = 0 then d else d.bump Reg.firSaturations m z.2
  if b.2.2 + z.2 ≠ 0 then d.noticeOnce (0x700100000 + m) 0x7001 m else d

/-- Which taps of an output's delay line are late: the one in force, or the new one of a crossfade; its old one (R214). -/
structure LateTaps where
  new : Bool
  old : Bool
  deriving DecidableEq, Repr

/-- The tap of a delay: the on-die buffer for less than 64 samples, else the DRAM ring, where a late line reads as 0 (R214). -/
def delayTap (d : Dev) (c : OutChain) (date : Nat) (late : Bool) (dl : Int) : Int :=
  if (date : Int) < dl || (late && decide (64 ≤ dl)) then 0 else nget 0 c.ring (((date : Int) - dl).toNat % d.outRing)

/-- The delays that the taps of an output stand at for a date: the new one, and the old one of a crossfade in progress. -/
def tapsFor (d : Dev) (c : OutChain) (m date : Nat) : Int × Option Int :=
  match rampFor c.delays date with
  | some r => (r.new, if r.len ≤ date - r.start then none else some r.old)
  | none => (d.intAt date Reg.outputDelay m, none)

/-- The delayed value u[t] of one output (R213, R215). -/
def delayRead (d : Dev) (c : OutChain) (m date : Nat) (late : LateTaps) : Int :=
  let o := d.delayTap c date
  match rampFor c.delays date with
  | some r =>
    let i := date - r.start
    if r.len ≤ i then o late.new r.new
    else
      let p := fadePos i r.len
      (o late.old r.old * (65536 - p : Nat) + o late.new r.new * p + 2 ^ 15) / 2 ^ 16
  | none => o late.new (d.intAt date Reg.outputDelay m)

/-- Delay and limiter of one output: u[t + 4] arrives and y[t] leaves, t = `date` (R214 to R217). -/
def chainY (d : Dev) (m date : Nat) (late : LateTaps) : Dev × Int :=
  let c := d.chain m
  let u4 := d.delayRead c m (date + 4) late
  let u := c.u ++ [u4]
  let on := d.natAt date Reg.limiterEnable m ≠ 0
  let thr := min 2147483647 (lin (d.intAt date Reg.limiterThreshold m) * 2048)
  let g := if on then limGain c.g thr (d.natAt date Reg.limiterRelease m) d.fr u else 8388608
  let u0 := u.headD 0
  let y := if on then satAudio ((u0 * g + 2 ^ 22) / 2 ^ 23) else u0
  let y := heldValue (c.zeroY.map fun b => (b, b)) date y
  let below := (if date % 32 = 0 then false else c.below) || g < 8388608
  let last := date % 32 = 31
  let zeroY := match c.zeroY with
    | some bl => if bl + 2 ≤ date / 32 then none else some bl
    | none => none
  let first := g < 8388608 && !(if date % 32 = 0 then false else c.below)
  let d := d.setChain m { c with u := u.drop 1, g, below, belowLast := if last then below else c.belowLast, zeroY }
  let d := if last then d.setNat Reg.limiterGainLast g m else d
  (if first then d.bump Reg.limiterBlocks m else d, y)

/-- The outputs that the chain must work on: a signal or a state that is not clear. -/
def liveOutputs (d : Dev) (bus : NMap Int) : List Nat :=
  (((bus.map (·.1)) ++ (d.corr.chains.map (·.1))).foldl (fun (m : NMap Unit) k => nput m k ()) []).map (·.1)

/-- CORRECTION_CHAIN and LIMITER_STEP of one tick: `bus` is the input of ingress date `date`; the result is the limited
samples of date − 5, by output (R201, R216). -/
def correctionTick (date : Nat) (bus : NMap Int) (late : List (Nat × Bool)) (d : Dev) : Dev × NMap Int :=
  let live := d.liveOutputs bus
  let d := live.foldl (fun d m => d.chainB m date (nget 0 bus m)) d
  if date < 5 then (d, [])
  else
    live.foldl (fun (a : Dev × NMap Int) m =>
      let r := a.1.chainY m (date - 5) { new := late.contains (m, false), old := late.contains (m, true) }
      (r.1, nset 0 a.2 m r.2)) (d, [])

/-- The egress slots that limited samples take for an ingress date (R222). -/
def mapOutputs (d : Dev) (date : Nat) (y : NMap Int) : NMap Int :=
  y.foldl (fun e p =>
    let slot := d.natAt date Reg.outputEgressSlot p.1
    if slot = 0xFFFF then e else nset 0 e slot p.2) []

/-- Whether an egress slot would have a second writer: another output, or the programme's egress write set (R222). -/
def egressConflict (d : Dev) (m slot : Nat) : Bool :=
  slot ≠ 0xFFFF &&
    ((programmeEgress d.mix.cur).testBit slot ||
      (List.range d.outs).any fun k => k ≠ m && d.nat Reg.outputEgressSlot k == slot)

/-- What a correction fault zeroes: o of the output for blocks `b` to `e`, or y for block `b` where it struck the delay read or the
limiter (R225). -/
def correctionZero (m b e : Nat) (afterGain : Bool) (d : Dev) : Dev :=
  let c := d.chain m
  if afterGain then d.setChain m { c with zeroY := some b }
  else
    let gone (pos : Nat) : Bool := (List.range 32).any fun i => (32 * b + i) % d.outRing == pos
    d.setChain m { c with zeroO := some (b, e), ring := c.ring.filter fun p => !(gone p.1) }

/-- What else a correction fault of an output does (R225): cleared states and history, count and notice. -/
def correctionFault (m kind : Nat) (d : Dev) : Dev :=
  let c := d.chain m
  let d := d.setChain m { c with biquads := List.replicate 16 zeroBiquad, hist := [] }
  let d := match kind with
    | 1 => d.bump Reg.correctionResidueErrors
    | 2 => d.bump Reg.correctionEccUncorrected
    | _ => (d.bump Reg.delayUnderruns).notice 0x7002 m
  d.notice 0x7A02 (m * 65536 + kind)

/-- The partition size of the level whose spectra lie at an offset of an output's DRAM spectra (R208, R209). -/
def spectrumLevel (offset : Nat) : Nat :=
  if offset < 4096 then 128 else if offset < 12288 then 256 else if offset < 28672 then 512 else if offset < 61440 then 1024 else 2048

/-- An uncorrectable spectrum of a partition of size `size`, found while date `t` is in the correction stage: it contributes 0 to
the partition's next output block, and the output's blocks stay zero until it is recomputed before the one after (R208, R225). -/
def spectrumLost (m size t : Nat) (d : Dev) : Dev :=
  (d.correctionZero m (t / 32) ((t / size + 2) * size / 32 - 1) false).correctionFault m 2

/-- A delay line that is late: counted once, with its fault (R214, R225); a tap that reads no DRAM has none. -/
def delayUnderrun (m date : Nat) (old : Bool) (d : Dev) : Bool × Dev :=
  let c := d.chain m
  let taps := d.tapsFor c m date
  let dl := if old then taps.2.getD 0 else taps.1
  let line := ((date : Int) - dl).toNat / 16 + 1
  if dl < 64 ∨ (date : Int) < dl ∨ c.lateLine = line then (false, d)
  else (true, (d.setChain m { c with lateLine := line }).correctionFault m 3)

/-- OutputStatus of an output (Table 7-4). -/
def outputStatus (d : Dev) (m : Nat) : Nat :=
  let c := d.chain m
  let fading := c.firs.any fun f => f.start ≤ d.msc && decide (d.msc < f.start + f.len)
  let ramping := (c.gains ++ c.delays).any fun r => r.start ≤ d.msc && decide (d.msc < r.start + r.len)
  b2n c.belowLast + 2 * b2n fading + 4 * b2n ramping + 8 * b2n (d.corr.stale.contains m) + 16 * b2n (d.corr.startMuted.contains m)

/-- LimitingOutputs (Table 7-5). -/
def limitingOutputs (d : Dev) : Nat := (d.corr.chains.filter fun p => p.2.belowLast).length

/-! ### Flash correction store (R223) -/

/-- The octets that a record of a value takes. -/
def flashSize (v : Octets) : Nat := 16 + 4 * cdiv v.length 4

/-- StoreUsed: the octets of every record held. -/
def storeUsed (d : Dev) : Nat := (d.corr.flash.map fun r => flashSize r.value).foldl (· + ·) 0

/-- Whether the record in force of an output's entry is in the store. -/
def storedNow (d : Dev) (m : Nat) (r : Row) : Bool :=
  let v := d.bytes r m
  v.isEmpty || d.corr.flash.any fun x => x.output == m && x.sub == r.sub && x.value == v

/-- The CRC-32C of a record of the store: over the header's first 12 octets and the value (R223). -/
def flashCrc (m sub seq : Nat) (v : Octets) : Nat :=
  crc32c (toBE 2 m ++ toBE 1 sub ++ toBE 1 0 ++ toBE 4 v.length ++ toBE 4 seq ++ v)

/-- Whether a record's check holds. -/
def flashGood (r : FlashRec) : Bool := r.crc == flashCrc r.output r.sub r.seq r.value

/-- The outputs on the retry list, in ascending m (R223). -/
def staleOutputs (d : Dev) : List Nat := (List.range d.outs).filter d.corr.stale.contains

/-- FLASH_STORE_WRITE: the record in force of output `m`, entry `sub`, goes into the store; the old one is released
after, and the space that it frees has the stale outputs tried again. Where it does not fit, StoreStale is set (R223). -/
def flashWrite (m sub : Nat) (retry : Bool) (d : Dev) : Dev :=
  let row := if sub = 1 then Reg.biquadCoeffs else Reg.firFilter
  let v := d.bytes row m
  let stale := d.corr.stale.contains m
  if d.storeUsed + flashSize v ≤ 33554432 then
    let seq := (d.corr.flashSeq + 1) % 2 ^ 32
    let x : FlashRec := { output := m, sub, seq, value := v, crc := flashCrc m sub seq v }
    let frees := d.corr.flash.any fun (r : FlashRec) => r.output == m && r.sub == sub
    let d := { d with corr := { d.corr with flashSeq := seq, flash := (d.corr.flash.filter fun (r : FlashRec) => !(r.output == m && r.sub == sub)) ++ [x] } }
    let d := d.setNat Reg.storeUsed d.storeUsed
    let d := if stale && d.storedNow m Reg.biquadCoeffs && d.storedNow m Reg.firFilter then
        ({ d with corr := { d.corr with stale := d.corr.stale.filter (· ≠ m) } }).notice 0x7005 m
      else d
    if !frees then d
    else (d.staleOutputs.filter (· ≠ m)).foldl (fun d o => [Reg.biquadCoeffs, Reg.firFilter].foldl (fun d r =>
      if d.storedNow o r then d else d.liftPut 8 251 (.flashStore o r.sub true)) d) d
  else
    let d : Dev := { d with corr := { d.corr with stale := if stale then d.corr.stale else d.corr.stale ++ [m] } }
    if retry then d else d.notice 0x7003 m

/-- The start of every output after a full reset (R224): stored filters, and muted where one is bad or stale. -/
def loadCorrection (d : Dev) : Dev :=
  let good := d.corr.flash.filter flashGood
  let d := good.foldl (fun d r => d.setVal (if r.sub = 1 then Reg.biquadCoeffs else Reg.firFilter) (.bytes r.value) r.output) d
  let bad := ((d.corr.flash.filter fun r => !flashGood r).map (·.output)) ++ d.corr.stale
  let outs := (bad.foldl (fun (m : NMap Unit) k => nput m k ()) []).map (·.1)
  let d := { d with corr := { d.corr with startMuted := outs } }
  outs.foldl (fun d m => (d.setNat Reg.outputMute 1 m).notice 0x7004 m) d

/-- Histories, ramps and limiters as R593 sets them when the data path stops; parameters settle at their targets, a fade in
progress at its new filter. A fade assigned to a change that has not committed keeps its place (R220). -/
def clearCorrection (d : Dev) : Dev :=
  let d := d.releaseFades fun a => a.ends.isNone
  { d with corr := { d.corr with chains := [] } }

end Dev

end Sys2Proof.Machine
end

