-- ==== Sys2Proof/Machine/Kernel.lean ====
section
/-! DEFINITION. The half-band taps and the resampler kernel (R234, R236, R237), in integer arithmetic of 64 fraction bits. -/

namespace Sys2Proof.Machine

/-- One, with 64 fraction bits. -/
def fxOne : Int := 2 ^ 64

/-- π with 64 fraction bits. -/
def fxPi : Int := 0x3243F6A8885A308D3

/-- Terms of a series by recursion on their number: term k from term k − 1. -/
def fxSeries (step : Nat → Int → Int) : Nat → Nat → Int → Int
  | 0, _, t => t
  | n + 1, k, t => t + fxSeries step n (k + 1) (step k t)

/-- sin x for 0 ≤ x ≤ π/2, both with 64 fraction bits. -/
def fxSin (x : Int) : Int :=
  let y := x * x / fxOne
  fxSeries (fun k t => -(t * y / fxOne) / ((2 * k + 2) * (2 * k + 3) : Nat)) 14 0 x

/-- sin(π a/b) for a ≥ 0. -/
def fxSinPi (a b : Nat) : Int :=
  let r := a % (2 * b)
  let s : Int := if b < r then -1 else 1
  let r := if b < r then r - b else r
  let r := if b < 2 * r then b - r else r
  s * fxSin (fxPi * r / b)

/-- sinc(a/b), 1 at 0. -/
def fxSinc (a b : Nat) : Int := if a = 0 then fxOne else fxSinPi a b * fxOne / (fxPi * a / b)

/-- I0 of a number, from a quarter of its square. -/
def fxBessel (y : Int) : Int := fxSeries (fun k t => t * y / fxOne / ((k + 1) * (k + 1) : Nat)) 60 0 fxOne

/-- The Kaiser window w_β(a/b), β given in tenths. -/
def fxKaiser (beta10 a b : Nat) : Int :=
  let q : Int := beta10 * beta10 * fxOne / 400
  fxBessel (q * ((b * b - a * a : Nat) : Int) / (b * b : Nat)) * fxOne / fxBessel q

/-- Rounding half up of a number with 64 fraction bits to Q1.23. -/
def fxQ23 (x : Int) : Int := (x * 2 ^ 23 + 2 ^ 63) / 2 ^ 64

/-- hb[k] of R234 for k ≥ 0. -/
def halfTap (k : Nat) : Int :=
  if k = 0 then 2 ^ 22
  else if k % 2 = 0 ∨ 23 < k then 0
  else fxQ23 (fxSinc k 2 * fxKaiser 80 k 24 / fxOne / 2)

/-- The taps hb[1], hb[3], … hb[23]. -/
def halfTaps : List Int := (List.range 12).map fun i => halfTap (2 * i + 1)

/-- h(x) of R236 at x = q/1,024 for |q| < 32,768. -/
def kernelAt (q : Nat) : Int := 92 * fxSinc (23 * q) 25600 / 100 * fxKaiser 86 q 32768 / fxOne

/-- C[i][j] of R236 for phases 0 to 1,024. -/
def kernelRom (i j : Nat) : Int :=
  if i = 1024 then (if j = 63 then 0 else
    let q := (32768 - 1024 * ((j + 1 : Nat) : Int)).natAbs
    if q < 32768 then fxQ23 (kernelAt q) else 0)
  else
    let q := (32768 - 1024 * (j : Int) - i).natAbs
    if q < 32768 then fxQ23 (kernelAt q) else 0

/-- One output of a half-band stage (R234). -/
def halfBand (x : Int → Int) (m : Int) : Int :=
  let c := 2 * m
  let s := halfTaps.zipIdx.foldl (fun a p => let k : Int := 2 * p.2 + 1; a + p.1 * (x (c - k) + x (c + k))) (2 ^ 22 * x c)
  satAudio ((s + 2 ^ 22) / 2 ^ 23)

/-- The source after `s` half-band stages (R233). -/
def decimated : Nat → (Int → Int) → Int → Int
  | 0, x, m => x m
  | n + 1, x, m => halfBand (decimated n x) m

/-- The resampler at a position in 2^-32 samples (R237). -/
def resample (x : Int → Int) (pos : Int) : Int :=
  let n := pos / 2 ^ 32
  let f := (pos % 2 ^ 32).toNat
  let i := f / 2 ^ 22
  let r : Int := ((f % 2 ^ 22 + 32) / 64 : Nat)
  let s := (List.range 64).foldl (fun a j =>
    let c0 := kernelRom i j
    let c1 := kernelRom (i + 1) j
    a + (c0 + ((c1 - c0) * r + 2 ^ 15) / 2 ^ 16) * x (n + 32 - j)) 0
  satAudio ((s + 2 ^ 22) / 2 ^ 23)

/-- ConvKernelRom: phase-major, 3 octets a value (R236). -/
def kernelRomOctets : Octets := (List.range 1024).flatMap fun i => (List.range 64).flatMap fun j => toBE 3 (wrapU 24 (kernelRom i j))

/-- ConvHalfbandRom: hb[1], hb[3], … hb[23]. -/
def halfRomOctets : Octets := halfTaps.flatMap fun t => toBE 3 (wrapU 24 t)

end Sys2Proof.Machine
end

