-- ==== Sys2Proof/Machine/Net.lean ====
section
/-! DEFINITION. The fields of Ethernet, IPv4, UDP and PTP frames that steering reads (R264 to R271), and frames built for sending. -/

namespace Sys2Proof.Machine

/-- What steering reads of a frame. -/
structure Parsed where
  da : Nat
  sa : Octets
  /-- The VID of an 0x8100 tag, also where it is 0. -/
  tag : Option Nat
  pcp : Nat
  ethType : Nat
  /-- Where the octets after the EtherType begin. -/
  off : Nat
  ip4 : Bool
  ip6 : Bool
  proto : Nat
  ipSrc : Nat
  ipDst : Nat
  /-- Whether the packet is a first or only fragment. -/
  firstFragment : Bool
  /-- Whether it is the only fragment. -/
  whole : Bool
  udp : Bool
  udpDst : Nat
  udpSrc : Nat
  /-- The UDP payload, or of other IPv4 protocols the IP payload. -/
  payload : Octets
  deriving DecidableEq, Repr

/-- A frame read from its destination address on, one 0x8100 tag at most (R267). -/
def parseFrame (w : Octets) : Parsed :=
  let tagged := beAt w 12 2 = 0x8100
  let off := if tagged then 18 else 14
  let et := beAt w (off - 2) 2
  let b := w.drop off
  let ip4 := et = 0x0800 ∧ beAt b 0 1 / 16 = 4
  let ip6 := et = 0x86DD ∧ beAt b 0 1 / 16 = 6
  let ihl := beAt b 0 1 % 16 * 4
  let proto := if ip4 then beAt b 9 1 else if ip6 then beAt b 6 1 else 0
  let frag := beAt b 6 2 % 0x2000
  let more := (beAt b 6 2).testBit 13
  let l4 := if ip4 then b.drop ihl else if ip6 then b.drop 40 else []
  let firstFragment := if ip4 then frag = 0 else true
  let udp := (ip4 ∨ ip6) ∧ proto = 17 ∧ firstFragment
  let ulen := beAt l4 4 2
  { da := beAt w 0 6, sa := (w.drop 6).take 6
    tag := if tagged then some (beAt w 14 2 % 4096) else none
    pcp := if tagged then beAt w 14 1 / 32 else 0
    ethType := et, off, ip4, ip6, proto
    ipSrc := if ip4 then beAt b 12 4 else beAt b 8 16
    ipDst := if ip4 then beAt b 16 4 else beAt b 24 16
    firstFragment, whole := firstFragment && !(decide ip4 && more)
    udp, udpDst := if udp then beAt l4 2 2 else 0, udpSrc := if udp then beAt l4 0 2 else 0
    payload := if udp then (l4.drop 8).take (ulen - 8) else l4 }

/-- The VID by which a frame matches: a tag with VID 0 matches as untagged (R267). -/
def Parsed.vid (q : Parsed) : Nat := q.tag.getD 0

/-- Whether the destination is the broadcast address. -/
def Parsed.broadcast (q : Parsed) : Bool := q.da == 0xFFFFFFFFFFFF

/-- Whether the destination is a group address other than broadcast. -/
def Parsed.multicast (q : Parsed) : Bool := (q.da / 2 ^ 40).testBit 0 && !q.broadcast

/-- A matching rule of the classifier (Table 9-3, R271): none where the rule is not valid. -/
def ruleMatch (rule : Nat) (q : Parsed) : Bool :=
  let on (i : Nat) (c : Bool) : Bool := !rule.testBit i || c
  let prefixBits := bits rule 111 104
  rule.testBit 0 &&
  on 1 (q.tag == some (bits rule 27 16)) &&
  on 2 (q.ethType == bits rule 47 32) &&
  on 3 (q.ip4 && q.ipDst / 2 ^ (32 - prefixBits) == bits rule 79 48 / 2 ^ (32 - prefixBits)) &&
  on 4 (q.ip4 && q.udp && q.udpDst == bits rule 95 80) &&
  on 5 (q.ip4 && q.proto == bits rule 103 96) &&
  on 6 (q.da == bits rule 159 112)

/-- The one's-complement checksum of a header, as RFC 791 computes it. -/
def ipChecksum (h : Octets) : Nat :=
  let s := ((List.range (h.length / 2)).map fun i => beAt h (2 * i) 2).foldl (· + ·) 0
  let s := s % 65536 + s / 65536
  let s := s % 65536 + s / 65536
  65535 - s

/-- The MAC address of an IPv4 group (RFC 1112, R305). -/
def groupMac (ip : Nat) : Nat := 0x01005E000000 + ip % 0x800000

/-- Whether an IPv4 address is a group. -/
def isGroup (ip : Nat) : Bool := ip / 2 ^ 28 == 14

/-- An IPv4 UDP frame, untagged or tagged, without FCS: identification and UDP checksum as given. -/
def udpFrame (da sa : Nat) (vlan pcp dscp ttl src dst sport dport ident check : Nat) (payload : Octets) : Octets :=
  let head (sum : Nat) := toBE 1 0x45 ++ toBE 1 (dscp * 4) ++ toBE 2 (28 + payload.length) ++ toBE 2 ident ++ toBE 2 0x4000 ++
    toBE 1 ttl ++ toBE 1 17 ++ toBE 2 sum ++ toBE 4 src ++ toBE 4 dst
  toBE 6 da ++ toBE 6 sa ++ (if vlan = 0 then [] else toBE 2 0x8100 ++ toBE 2 (pcp * 8192 + vlan)) ++ toBE 2 0x0800 ++
    head (ipChecksum (head 0)) ++ toBE 2 sport ++ toBE 2 dport ++ toBE 2 (8 + payload.length) ++ toBE 2 check ++ payload

end Sys2Proof.Machine
end

