-- ==== Sys2Proof/Machine/StreamMap.lean ====
section
/-! DEFINITION. Stream maps at the head: position packets, the words and counts that every module and standby takes over (R64 to R69, R98). -/

namespace Sys2Proof.Machine

/-- The octets of a MOTION cell's message, in this model's own layout. -/
def motionOctets : MotionMsg → Octets
  | .counts b l => toBE 8 b ++ l.flatMap (toBE 1)
  | .words f ws => toBE 1 f ++ toBE 1 ws.length ++ ws.flatMap fun w => toBE 1 w.1 ++ toBE 8 w.2.1 ++ toBE 1 (b2n w.2.2)

/-- The code of a MOTION cell's message. -/
def motionCode : MotionMsg → Nat
  | .counts _ _ => 1
  | .words _ _ => 2

namespace Dev

/-- The links on which the head's words and counts leave: its branches where it heads a group, both ways round a ring, and DP
to a standby (R98, R475). -/
def motionLinks (d : Dev) : List Nat :=
  (if d.drada.formed then d.branchLinks ++ (if d.nat Reg.groupTopology = 2 then [0] else []) else []) ++ (if d.lone then [] else [2])

/-- A message of the stream-map decoder to every module of the group and to the standby (R98). -/
def sendMotion (m : MotionMsg) (d : Dev) : Dev :=
  d.motionLinks.foldl (fun (d : Dev) k => d.sendCell k .motion 0xFFFF (motionCode m) (motionOctets m)) d

/-- The stream maps that take a UDP packet of an interface, 0 the management port, 1 the media VLAN: those on that interface and
destination port whose source filter it passes (R64). A packet that several maps take goes to each (DESIGN CHOICE). -/
def mapsFor (d : Dev) (interface udpPort src : Nat) : List Nat :=
  (List.range 16).filter fun s => d.mapOn s && d.nat Reg.mapInterface s == interface && d.nat Reg.mapUdpPort s == udpPort &&
    (d.nat Reg.mapSource s == 0 || d.nat Reg.mapSource s == src)

/-- A payload at stream map `s`, checked and decoded (R65 to R69). A malformed packet between stale ones does not break their
run (DESIGN CHOICE). -/
def mapPacket (b : Octets) (d : Dev) (s : Nat) : Dev :=
  let k := beAt b 3 1
  if b.length ≠ 16 + 16 * k ∨ 30 < k ∨ beAt b 0 2 ≠ 0x4B50 ∨ beAt b 2 1 ≠ 1 then d.bump Reg.mapMalformed s
  else
    let seq := beAt b 4 4
    let diff := sdiff32 seq (d.nat Reg.mapLastSequence s)
    let g := d.fifo s
    if g.seeded && diff ≤ 0 then
      let run := g.staleRun + 1
      let d := d.bump Reg.mapStale s
      if run = 16 then d.unseed s else d.setFifo s fun g => { g with staleRun := run }
    else
      let d := if g.seeded then (if 1 < diff then d.notice 0x1006 (diff - 1).toNat else d) else d.notice 0x1007 s
      let d := d.setFifo s fun g => { g with seeded := true, staleRun := 0, acceptedAt := d.clock }
      let d := (d.setNat Reg.mapLastSequence seq s).bump Reg.mapAccepted s
      if k = 0 then d
      else
        let recs := (List.range k).filterMap fun i =>
          let o := beAt b (16 + 16 * i) 2
          if o < d.nat Reg.mapObjectCount s then
            some ((o + d.nat Reg.mapObjectBase s) % 65536, beAt b (18 + 16 * i) 2, beAtS b (20 + 16 * i) 4, beAtS b (24 + 16 * i) 4, beAtS b (28 + 16 * i) 4)
          else none
        let words := packetWords s seq (beAt b 8 8) recs
        (words.foldl (fifoWord s) d).sendMotion (.words s (words.map fun w => (w.tag, w.data, w.last)))

/-- A UDP packet of an interface at the stream maps that take it, which the head's lead alone decodes (R68). -/
def mapTake (interface udpPort src : Nat) (b : Octets) (d : Dev) : Dev :=
  if !d.isHead then d else (d.mapsFor interface udpPort src).foldl (mapPacket b) d

/-- POSITION_PACKET: a UDP packet on a port (0 to 3 for M0 to M3, 4 for the management port), in a VLAN (0 for untagged), to a
destination port: stream maps listen on the management port and in the VLAN UdpMediaVlan of the media ports (R64, R65). -/
def positionPacket (port vlan udpPort src : Nat) (b : Octets) (d : Dev) : Dev :=
  if port = 4 then d.mapTake 0 udpPort src b
  else if d.inForce Reg.udpMediaVlan ≠ 0 ∧ vlan = d.inForce Reg.udpMediaVlan then d.mapTake 1 udpPort src b
  else d

/-- MOTION_COUNT_FIX: at tick B − 32 the head fixes each FIFO's packet count for boundary B and sends the counts (R98). -/
def motionCountFix (b : Nat) (d : Dev) : Dev :=
  if !d.isHead || b % 32 ≠ 0 || d.mscNow + 32 ≠ b then d
  else
    let d : Dev := { d with motion := d.motion.map fun (g : MotionFifo) => { g with fixedFor := b, fixedCount := packetsHeld g.words, counted := true } }
    d.sendMotion (.counts b (d.motion.map fun (g : MotionFifo) => g.fixedCount).items)

end Dev

end Sys2Proof.Machine
end

