-- ==== Sys2Proof/Machine/Ports.lean ====
section
/-! DEFINITION. The network ports: bring-up, steering, rings, pause, MACsec, counters (chapter 9; time-stamps R346 to R348). -/

namespace Sys2Proof.Machine

/-- The candidates of Table 9-1: speed in Mb/s and FEC code as FecInUse reports it. -/
def candidateOf (c : Nat) : Nat × Nat :=
  match c with
  | 1 => (25000, 1) | 2 => (25000, 2) | 3 => (25000, 0) | 4 => (10000, 2) | 5 => (10000, 0) | _ => (0, 0)

/-- The sub-indices of Table 9-8. -/
abbrev portSubs : Nat := 48

/-- Where steering sends a frame that passes R265. -/
inductive Steer where
  | macControl
  | ring (k rule : Nat)
  | map
  | flow (f : Nat)
  | filtered
  | classDrop (rule : Nat)
  | nothing
  deriving DecidableEq, Repr

/-- The outcome of buffers taken for a frame: descriptors used and skipped in ring order, descriptors left, octets left. -/
structure Fill where
  used : List RxDesc
  left : List RxDesc
  rest : Octets

/-- Whether a ring buffer lies in the supervisor working memory of Table 13-2, at its address of Table 17-1 (R486); the ring DMA's access to
another ends in a bus error. -/
def ringBuffer (addr len : Nat) : Bool := decide (0x1244000000 ≤ addr) && decide (addr + len ≤ 0x1284000000)

/-- Buffers filled with a frame in ring order; a descriptor of length 0 or no multiple of 64, or one whose buffer the ring DMA cannot
reach, is skipped with BAD_DESC (R274, R489). -/
def fillRing : List RxDesc → Octets → Nat → Fill
  | [], b, _ => { used := [], left := [], rest := b }
  | x :: t, b, n =>
    if b.isEmpty then { used := [], left := x :: t, rest := [] }
    else if x.len = 0 ∨ x.len % 64 ≠ 0 ∨ !ringBuffer x.addr x.len then
      let r := fillRing t b n
      { r with used := { x with status := 2 } :: r.used }
    else
      let piece := b.take x.len
      let r := fillRing t (b.drop x.len) (n + piece.length)
      { r with used := { x with byteCount := piece.length, data := piece, frameBytes := n + piece.length } :: r.used }

namespace Dev

/-! ### Access -/

/-- A port. -/
def port (d : Dev) (p : Nat) : Port := d.ports.get resetPort p

/-- A port changed. -/
def setPort (d : Dev) (p : Nat) (f : Port → Port) : Dev := { d with ports := d.ports.modify p f }

/-- A receive ring. -/
def rxRing (d : Dev) (k : Nat) : RxRing := d.rxRings.get { owned := [], done := [] } k

/-- A receive ring written, and RxRingFree with it. -/
def setRxRing (d : Dev) (k : Nat) (r : RxRing) : Dev :=
  ({ d with rxRings := d.rxRings.modify k fun _ => r }).setNat Reg.rxRingFree r.owned.length k

/-- A transmit ring. -/
def txRing (d : Dev) (k : Nat) : TxRing := d.txRings.get { posted := [], busy := [], done := [] } k

/-- A transmit ring written, and TxRingPending with it. -/
def setTxRing (d : Dev) (k : Nat) (r : TxRing) : Dev :=
  ({ d with txRings := d.txRings.modify k fun _ => r }).setNat Reg.txRingPending (r.posted.length + r.busy.length) k

/-- Whether a port is UP. -/
def portUp (d : Dev) (p : Nat) : Bool := d.nat Reg.linkState p == 2

/-- A port counter of Table 9-8 advanced, with notice 0x3101 when its bit 31 rises (R289). -/
def portCount (p sub : Nat) (d : Dev) (n : Nat := 1) : Dev :=
  let old := d.nat Reg.portCounter p (sub - 1)
  let new := add32 old n
  let d := d.setNat Reg.portCounter new p (sub - 1)
  if !old.testBit 31 && new.testBit 31 then d.notice 0x3101 (p * 65536 + sub) else d

/-- Octets received, counted in units of 64 from an exact 38-bit count (R289). -/
def countRxOctets (p n : Nat) (d : Dev) : Dev :=
  let x := ((d.port p).rxOctets + n) % 2 ^ 38
  let before := (d.port p).rxOctets / 64
  (d.setPort p fun q => { q with rxOctets := x }).portCount p 0x01 ((x / 64 + 2 ^ 32 - before) % 2 ^ 32)

/-- Octets sent, counted in units of 64. -/
def countTxOctets (p n : Nat) (d : Dev) : Dev :=
  let x := ((d.port p).txOctets + n) % 2 ^ 38
  let before := (d.port p).txOctets / 64
  (d.setPort p fun q => { q with txOctets := x }).portCount p 0x1F ((x / 64 + 2 ^ 32 - before) % 2 ^ 32)

/-- COUNTER_CLEAR "clear": all 48 counters of a port zero (R289). -/
def counterClear (p : Nat) (arg : Octets) (d : Dev) : Status × Dev :=
  if arg ≠ ascii "clear" then (Status.range, d)
  else
    let d := (List.range portSubs).foldl (fun d j => d.setNat Reg.portCounter 0 p j) d
    (Status.ok, d.setPort p fun q => { q with rxOctets := 0, txOctets := 0 })

/-- A stamp at the reference plane: the FRC now with a fraction in sixteenths, and the trim in ns (R346). -/
def stampAt (d : Dev) (p frac : Nat) (trim : Row) : Nat :=
  ((d.frc + frac % 16 : Nat) + rdiv (d.int trim p * 786432 * 16) 1000000).toNat % 2 ^ 64

/-- A receive stamp, with the offset that a perturbation adds (R346, Table 19-4). -/
def rxStamp (d : Dev) (p frac : Nat) : Nat :=
  ((d.stampAt p frac Reg.stampTrimRx : Int) + rdiv (nget 0 d.perturb.stamps p * 786432 * 16) 1000000).toNat % 2 ^ 64

/-! ### Bring-up (R254 to R261) -/

/-- The candidates that speed rule, SpeedMode and FecMode leave, in order (R256, R257). -/
def candidates (d : Dev) (p : Nat) : List Nat :=
  let mode := d.nat Reg.speedMode p
  let fec := d.nat Reg.fecMode p
  let fast := if mode = 0 then 24000 ≤ d.nat Reg.sfpNominalRate p else mode = 1
  [1, 2, 3, 4, 5].filter fun c =>
    (if c ≤ 3 then decide fast else mode ≠ 1) && (fec == 0 || (fec == 1 && c == 1) || (fec == 2 && (c == 2 || c == 4)) || (fec == 3 && (c == 3 || c == 5)))

/-- The link state of a port not UP, its speed and FEC cleared. -/
def setLink (p state : Nat) (d : Dev) : Dev :=
  ((d.setNat Reg.linkState state p).setNat Reg.linkSpeed 0 p).setNat Reg.fecInUse 0 p

/-- The cycle ends without agreement (R258, R30). -/
def noAgreement (p : Nat) (d : Dev) : Dev :=
  let d := ((d.setLink p 3).portCount p 0x30).notice 0x3003 p
  d.setPort p fun q => { q with cand := 0, tried := 0, candAt := d.clock }

/-- A cycle begins at a candidate (the first where `c` is none): NOAGREE at once where there is none (R257, R258). -/
def startCycle (p : Nat) (c : Option Nat) (d : Dev) : Dev :=
  let l := d.candidates p
  match c.filter l.contains, l with
  | some c, _ => (d.setLink p 1).setPort p fun q => { q with cand := c, tried := 1, candAt := d.clock }
  | none, c :: _ => (d.setLink p 1).setPort p fun q => { q with cand := c, tried := 1, candAt := d.clock }
  | none, [] => d.noAgreement p

/-- Bring-up of a media port from its SFP and its entries, or DOWN (R256, R260). -/
def bringUp (p : Nat) (d : Dev) : Dev :=
  if p = 4 then d.setLink p 0
  else if !d.flag Reg.portEnable p then ((d.setLink p 0).setPort p fun q => { q with cand := 0 }).emit (.txDisable p true)
  else
    let d := d.emit (.txDisable p false)
    if d.nat Reg.sfpState p = 2 ∧ d.power.state.answers then d.startCycle p none
    else (d.setLink p 0).setPort p fun q => { q with cand := 0 }

/-- The hold of the management port ends; the time held counts in TxPausedUs (R281). -/
def releasePause (d : Dev) : Dev :=
  if (d.port 4).heldUntil.isSome then
    (d.portCount 4 0x27 (cyclesToUs (d.clock - (d.port 4).heldSince))).setPort 4 fun q => { q with heldUntil := none }
  else d

/-- A frame's descriptors written back with one status (R277). -/
def txWriteBack (k status : Nat) (ds : List TxDesc) (d : Dev) : Dev :=
  let r := d.txRing k
  let d := d.setTxRing k { r with busy := [], done := r.done ++ ds.map fun x => { x with status } }
  if status = 0 then d.bump Reg.txRingFrames k
  else (d.bump Reg.txRingErrors k).notice 0x300A (k * 65536 + status)

/-- MacsecState as the mode asks while no SA is installed, with notice 0x3008 (Table 9-10). -/
def setMacsecState (p st : Nat) (d : Dev) : Dev :=
  if d.nat Reg.macsecState p = st then d else (d.setNat Reg.macsecState st p).notice 0x3008 (p * 65536 + st)

/-- What is lost with a link: the frame in progress, which completes with LINK_DOWN (DESIGN CHOICE: the spec gives it no status),
the flow packets that wait, the SAs, the pause hold. -/
def dropLink (p : Nat) (d : Dev) : Dev :=
  let q := d.port p
  let d := if p = 4 then d.releasePause else d
  let d := match q.sending with
    | some { ring := some k, descs, .. } => (d.portCount p 0x29).txWriteBack k 2 descs
    | _ => d
  let d := q.flowQueue.foldl (fun (d : Dev) f => match f.flow with | some n => d.bump Reg.txFlowDrops n | none => d) d
  let d := d.setPort p fun q => { q with sending := none, flowQueue := [], secured := false, rxSas := [], txSas := [], pausing := none, pauseStopped := false, lpi := false }
  if p < 4 ∧ d.nat Reg.macsecState p ≠ 0 then d.setMacsecState p (if d.nat Reg.macsecMode p = 0 then 0 else 1) else d

/-- The diagnostics page of a module that has been identified, A2h (R254). -/
def sfpDiagnose (p : Nat) (a2 : Octets) (d : Dev) : Dev :=
  if d.nat Reg.sfpState p < 2 ∨ a2.length < 106 then d
  else (d.setInt Reg.sfpTemperature (beAtS a2 96 2) p).setNat Reg.sfpRxPower (beAt a2 104 2) p

/-- SFP_POLL: every 250 ms a cage is polled: it answers, with its diagnostics page, or is absent; a poll that ended in a bus error leaves
what it has, and each recovery of the bus counts (R254, R255, R581). -/
def sfpPoll (p : Nat) (answer : Option Bool) (a2 : Octets) (recoveries : Nat) (d : Dev) : Dev :=
  d.onPeriod (0x3000 + p) (msCycles 250) fun d =>
  let q := d.port p
  let d := if recoveries = 0 then d else d.bump Reg.i2cRecoveries 0 recoveries
  match answer with
  | some true => if q.answers then d.sfpDiagnose p a2 else (d.setNat Reg.sfpState 1 p).setPort p fun q => { q with answers := true, answeredAt := d.clock }
  | some false => if q.answers then (((d.dropLink p).setLink p 0).setNat Reg.sfpState 0 p).setPort p fun q => { q with answers := false, cand := 0 } else d
  | none => d

/-- The nominal signalling rate that an identification page gives (R256). -/
def sfpRate (a0 : Octets) : Nat := if beAt a0 12 1 = 0xFF then beAt a0 66 1 * 250 else beAt a0 12 1 * 100

/-- What the speed rule makes of a module: identified where SpeedMode forces a speed or its rate allows one, else unsupported
(R256). -/
def sfpVerdict (d : Dev) (p : Nat) : Nat := if d.nat Reg.speedMode p ≠ 0 ∨ 9500 ≤ d.nat Reg.sfpNominalRate p then 2 else 3

/-- SfpState of a module that has been read, with notices 0x3004 and 0x3005 (R255, R256). -/
def sfpDecide (p : Nat) (d : Dev) : Dev :=
  let st := d.sfpVerdict p
  let d := (d.setNat Reg.sfpState st p).notice 0x3004 (p * 65536 + st)
  if st = 3 then d.notice 0x3005 p else d

/-- SFP_IDENTIFY: 300 ms after its first answer a module's pages are read (R255, R256). -/
def sfpIdentify (p : Nat) (a0 a2 : Octets) (d : Dev) : Dev :=
  if !((d.port p).answers && d.nat Reg.sfpState p == 1) then d
  else
    d.onDue ((d.port p).answeredAt + msCycles 300) fun d =>
    let d := d.setVal Reg.sfpIdent (.bytes ((a0.drop 20).take 16 ++ (a0.drop 40).take 16)) p
    let d := ((d.setNat Reg.sfpNominalRate (sfpRate a0) p).setInt Reg.sfpTemperature (beAtS a2 96 2) p).setNat Reg.sfpRxPower (beAt a2 104 2) p
    (d.sfpDecide p).bringUp p

/-- LINK_CANDIDATE_TIMEOUT: a candidate has run for 250 ms and the next is tried (R257, R258). -/
def candidateTimeout (p : Nat) (d : Dev) : Dev :=
  if d.nat Reg.linkState p ≠ 1 then d
  else
    d.onDue ((d.port p).candAt + msCycles 250) fun d =>
    let l := d.candidates p
    if l.length ≤ (d.port p).tried then d.noAgreement p
    else
      let i := (l.findIdx? (· == (d.port p).cand)).getD 0
      let c := l.getD ((i + 1) % l.length) 0
      d.setPort p fun q => { q with cand := c, tried := q.tried + 1, candAt := d.clock }

/-- LINK_RETRY_CYCLE: every 2 s a NOAGREE port repeats its cycle while a supported module is present (R258). -/
def retryCycle (p : Nat) (d : Dev) : Dev :=
  if d.nat Reg.linkState p = 3 ∧ d.nat Reg.sfpState p = 2 then
    d.onDue ((d.port p).candAt + secCycles 2) fun d => d.startCycle p none
  else d

/-- A port becomes UP at a speed and FEC (R258). -/
def becomeUp (p speed fec : Nat) (d : Dev) : Dev :=
  let d := (((d.setNat Reg.linkState 2 p).setNat Reg.linkSpeed speed p).setNat Reg.fecInUse fec p).setNat Reg.linkUpDate d.mscNow p
  let d := (d.portCount p 0x2E).notice 0x3001 (p * 65536 + (if speed = 25000 then 512 else if speed = 10000 then 256 else 0) + fec)
  let d := d.setPort p fun q => { q with idleSince := d.clock }
  if p < 4 ∧ d.nat Reg.macsecMode p ≠ 0 then d.setMacsecState p 1 else d

/-- LINK_UP: block lock held for 10 ms, with FEC lock where needed (R258); 0xFF in `lastGood` stands for none. The lane's settled
coefficients and its eye are kept (R537). -/
def linkUp (p : Nat) (eye : Eye) (d : Dev) : Dev :=
  if d.nat Reg.linkState p ≠ 1 then d
  else
    d.onDue ((d.port p).candAt + msCycles 10) fun d =>
    let c := (d.port p).cand
    ((d.setPort p fun q => { q with lastGood := c }).storeEye p eye).becomeUp p (candidateOf c).1 (candidateOf c).2

/-- LINK_DOWN: block lock lost for 1 ms, or the high-error-rate state (R259). -/
def linkDown (p : Nat) (d : Dev) : Dev :=
  if !d.portUp p then d
  else
    let d := (((d.dropLink p).setLink p 0).portCount p 0x2F).notice 0x3002 p
    if p = 4 ∨ d.nat Reg.sfpState p ≠ 2 ∨ !d.flag Reg.portEnable p then d else d.startCycle p (some (d.port p).lastGood)

/-- PORT_CONFIG_WRITE: PortEnable, SpeedMode or FecMode (sub 1, 4, 5) written; the link drops and restarts (R260). -/
def portConfigWrite (p sub v : Nat) (d : Dev) : Status × Dev :=
  let row := if sub = 1 then Reg.portEnable else if sub = 4 then Reg.speedMode else Reg.fecMode
  let top := if sub = 1 then 1 else if p = 4 then 0 else if sub = 4 then 2 else 3
  if !([1, 4, 5].contains sub && p < 5) then (Status.noEntry, d)
  else if top < v then (Status.range, d)
  else
    let d := ((d.setNat row v p).keep row p).dropLink p
    let d := if sub = 4 ∧ (d.nat Reg.sfpState p = 2 ∨ d.nat Reg.sfpState p = 3) ∧ d.nat Reg.sfpState p ≠ d.sfpVerdict p then d.sfpDecide p else d
    (Status.ok, d.bringUp p)

/-- A clause 22 access that the device makes itself to the PHY at MgmtPhyAddress (R261). -/
def phyAccess (write : Bool) (r v : Nat) (d : Dev) : Dev := d.emit (.mdio write (d.inForce Reg.mgmtPhyAddress) r (v % 65536))

/-- The PHY's power-down begun or ended: bit 11 of its control register, with autonegotiation on once it is over (R292;
PRESUMED: the register as IEEE 802.3 clause 22 lays it out). -/
def phyPower (on : Bool) (d : Dev) : Dev := d.phyAccess true 0 (if on then 0x1000 else 0x0800)

/-- A read of a clause 45 EEE register through clause 22 registers 13 and 14; what the PHY answers is its own (R261; PRESUMED:
the access of IEEE 802.3 annex 22D, the partner's EEE ability in register 61 of device 7). -/
def eeeRead (d : Dev) : Dev :=
  let r := ((((d.phyAccess true 13 7).phyAccess true 14 61).phyAccess true 13 0x4007)).freeNat
  r.2.phyAccess false 14 r.1

/-- MDIO_READ and MDIO_WRITE: an access to a PHY register, whose read the PHY answered with `v` (R261). -/
def mdioRun (write : Bool) (a r v : Nat) (arg : Octets) (d : Dev) : Status × Octets × Dev :=
  if 32 ≤ a ∨ 32 ≤ r ∨ (write = true ∧ 65536 ≤ v) then (Status.range, [], d)
  else if write then (Status.ok, arg, d.emit (.mdio true a r v))
  else (Status.ok, arg ++ ascii " " ++ hexText 4 v, d.emit (.mdio false a r (v % 65536)))

/-- The text of MdioAccess, and what the PHY answered (R261). -/
def mdioAccess (arg : Octets) (answer : Nat) (d : Dev) : Status × Octets × Dev :=
  match splitWords arg with
  | [c, a, r] =>
    match hex? a, hex? r with
    | some a, some r => if c = ascii "r" then d.mdioRun false a r answer arg else (Status.range, [], d)
    | _, _ => (Status.range, [], d)
  | [c, a, r, v] =>
    match hex? a, hex? r, hex? v with
    | some a, some r, some v => if c = ascii "w" then d.mdioRun true a r v arg else (Status.range, [], d)
    | _, _, _ => (Status.range, [], d)
  | _ => (Status.range, [], d)

/-! ### Pause (R280 to R284) -/

/-- The bit times of one pause quantum in FabricClk cycles at the management speed: 512 bits. -/
def quantumCycles (d : Dev) (quanta : Nat) : Nat := quanta * 512 * 786432 / (max (d.nat Reg.linkSpeed 4) 1 * 1000)

/-- A PAUSE frame that the management port sends. -/
def pauseFrame (d : Dev) (quanta : Nat) : Octets :=
  toBE 6 0x0180C2000001 ++ toBE 6 (d.nat Reg.macAddress 4) ++ toBE 2 0x8808 ++ toBE 2 1 ++ toBE 2 quanta ++ List.replicate 42 (octet 0)

/-- The wake time of the management transmitter in FabricClk cycles (R263; the minimum is that of IEEE 802.3az). -/
def wakeCycles (d : Dev) : Nat :=
  let agreed := d.nat Reg.mgmtEeeTwAgreed
  let least := if d.nat Reg.linkSpeed 4 = 100 then 30000 else 16500
  if agreed ≠ 0 then usCycles agreed else max (usCycles (d.nat Reg.mgmtEeeTwOwn)) (least * 786432 / 1000000)

/-- Low-power idle ends for a frame that arrives for transmission; the partner is awake a wake time later (R262). -/
def endLpi (p : Nat) (d : Dev) : Dev :=
  if (d.port p).lpi then d.setPort p fun q => { q with lpi := false, wakeAt := d.clock + d.wakeCycles } else d

/-- A PAUSE frame queued as a MAC control frame. -/
def sendPause (quanta : Nat) (d : Dev) : Dev :=
  ((d.endLpi 4).portCount 4 0x26).setPort 4 fun q => { q with control := q.control ++ [d.pauseFrame quanta], pauseSentAt := d.clock }

/-- How many descriptors of a ring are treated as owned for a port's frames: a perturbation withholds the newest of them (Table 19-4). -/
def usable (d : Dev) (p k : Nat) : Nat :=
  let r := d.rxRing k
  r.owned.length - (d.perturb.rings.filter fun (x : Nat × Nat) => decide (x.1 = p * 256 + k)).foldl (fun n (x : Nat × Nat) => n + x.2) 0

/-- Whether RX 0 or RX 1 is short of descriptors, or both hold enough (R282). -/
def ringsShort (d : Dev) : Bool := d.usable 4 0 < 4 || d.usable 4 1 < 4

/-- Whether both control rings hold at least 8 owned descriptors. -/
def ringsEnough (d : Dev) : Bool := 8 ≤ d.usable 4 0 && 8 ≤ d.usable 4 1

/-- PAUSE sending begun, ended or permitted again as the control rings stand (R282, R283). -/
def pauseCheck (d : Dev) : Dev :=
  let q := d.port 4
  if d.nat Reg.mgmtPauseMode ≠ 2 ∨ !d.portUp 4 then d.setPort 4 fun q => { q with pausing := none, pauseStopped := false }
  else if d.ringsEnough then
    let d' := d.setPort 4 fun q => { q with pausing := none, pauseStopped := false }
    if q.pausing.isSome then d'.sendPause 0 else d'
  else if d.ringsShort && q.pausing.isNone && !q.pauseStopped then
    (d.setPort 4 fun q => { q with pausing := some d.clock }).sendPause 0xFFFF
  else d

/-- A PAUSE frame received (R280, R281, R284). -/
def pauseReceived (p quanta : Nat) (d : Dev) : Dev :=
  let d := d.portCount p 0x0D
  if p ≠ 4 then d.portCount p 0x0E
  else if (d.port 4).ignoreUntil.isSome then d.portCount 4 0x0E
  else if d.nat Reg.mgmtPauseMode = 0 then d
  else if quanta = 0 then d.releasePause
  else
    let since := if (d.port 4).heldUntil.isSome then (d.port 4).heldSince else d.clock
    d.setPort 4 fun q => { q with heldSince := since, heldUntil := some (d.clock + d.quantumCycles quanta) }

/-- PAUSE_TIME_EXPIRY: the received pause time runs out (R281). -/
def pauseExpiry (d : Dev) : Dev :=
  match (d.port 4).heldUntil with
  | some t => d.onDue t fun d => d.releasePause
  | none => d

/-- PAUSE_REPEAT: every half pause time PAUSE is repeated while it is being sent (R282). -/
def pauseRepeat (d : Dev) : Dev :=
  if (d.port 4).pausing.isSome ∧ d.nat Reg.mgmtPauseMode = 2 ∧ d.portUp 4 then d.onDue ((d.port 4).pauseSentAt + d.quantumCycles 0xFFFF / 2) fun d => d.sendPause 0xFFFF else d

/-- PAUSE_SEND_LIMIT: continuous PAUSE for PauseSendLimit stops pause sending (R283). -/
def pauseSendLimit (d : Dev) : Dev :=
  match (d.port 4).pausing with
  | some t =>
    d.onDue (t + usCycles (d.nat Reg.pauseSendLimit)) fun d =>
    let d := d.sendPause 0
    (d.setPort 4 fun q => { q with pausing := none, pauseStopped := true, pauseLimits := q.pauseLimits + 1 }).notice 0x3006 4
  | none => d

/-- PAUSE_HONOUR_LIMIT: held continuously for PauseHonourLimit, the port ignores PAUSE for 10 s (R284). -/
def pauseHonourLimit (d : Dev) : Dev :=
  match (d.port 4).heldUntil with
  | some t =>
    let limit := (d.port 4).heldSince + usCycles (d.nat Reg.pauseHonourLimit)
    if t < limit then d
    else
      d.onDue limit fun d =>
      let d := d.releasePause
      (d.setPort 4 fun q => { q with ignoreUntil := some (d.clock + secCycles 10) }).notice 0x3007 4
  | none => d

/-- PAUSE_IGNORE_END: the 10 s end (R284). -/
def pauseIgnoreEnd (d : Dev) : Dev :=
  match (d.port 4).ignoreUntil with
  | some t => d.onDue t fun d => d.setPort 4 fun q => { q with ignoreUntil := none }
  | none => d

/-! ### Rings (R273 to R279) -/

/-- RX_DESCRIPTOR_POST: the software posts a descriptor; rings 8 to 11 are never posted, and the device posts 12 to 15
itself (R273, R276, R279). Where the array is full of written-back descriptors, the oldest gives its place. -/
def rxPost (k addr len : Nat) (d : Dev) : Dev :=
  if 16 ≤ k ∨ (8 ≤ k ∧ k < 12) then d
  else
    let r := d.rxRing k
    let n := d.inForce Reg.rxRingLength k
    if n ≤ r.owned.length then d
    else
      let x : RxDesc := { addr, len, byteCount := 0, status := 0, first := false, last := false, secured := false, tagged := false, vlan := 0, pcp := 0, stampValid := false, port := 0, rule := 0, stamp := 0, frameBytes := 0, data := [] }
      let done := if n ≤ r.owned.length + r.done.length then r.done.drop 1 else r.done
      (d.setRxRing k { owned := r.owned ++ [x], done }).pauseCheck

/-- The device posts a capture ring in full (R279, R292). -/
def postCapture (d : Dev) : Dev :=
  [12, 13, 14, 15].foldl (fun d k => (List.range (d.inForce Reg.rxRingLength k)).foldl (fun d _ => d.rxPost k 0x1244000000 (d.inForce Reg.rxRingBufferSize k)) d) d

/-- The facts of a frame that a receive descriptor takes. -/
structure RxInfo where
  port : Nat
  rule : Nat
  stamp : Nat
  stamped : Bool
  secured : Bool

/-- First and Last, and the frame's facts, written into the descriptors used (R275). -/
def stampDescs (i : RxInfo) (q : Parsed) (status : Nat) (used : List RxDesc) : List RxDesc :=
  let good := used.filter fun x => x.status ≠ 2
  used.map fun x =>
    if x.status = 2 then x
    else { x with
      status, secured := i.secured, tagged := q.tag.isSome, vlan := q.tag.getD 0, pcp := q.pcp, port := i.port, rule := i.rule
      stampValid := i.stamped, stamp := if i.stamped then i.stamp else 0
      first := (good.head?.map (·.frameBytes)) == some x.frameBytes, last := (good.getLast?.map (·.frameBytes)) == some x.frameBytes }

/-- A frame finds no owned descriptor where it needs one (R276, R279). -/
def ringExhausted (k p aborts : Nat) (d : Dev) : Dev :=
  let d := ((d.bump Reg.rxRingExhausted k).portCount p 0x13).bump Reg.rxRingAborts k aborts
  let d := if 12 ≤ k then d.bump Reg.captureDropped else d
  d.noticeOnce (0x300900 + k) 0x3009 k

/-- A frame delivered into a ring, whole or not at all (R274 to R276). -/
def deliver (k : Nat) (i : RxInfo) (q : Parsed) (frame : Octets) (d : Dev) : Dev :=
  let r := d.rxRing k
  let n := d.usable i.port k
  let f := fillRing (r.owned.take n) frame 0
  let kept := f.left ++ r.owned.drop n
  let filled := (f.used.filter fun x => x.status ≠ 2).length
  let d := (f.used.filter fun x => x.status = 2 ∧ x.len ≠ 0 ∧ x.len % 64 = 0).foldl (fun (d : Dev) x => d.busError x.addr 7 3) d
  let d := if f.rest.isEmpty then
      (d.setRxRing k { owned := kept, done := r.done ++ stampDescs i q 0 f.used }).bump Reg.rxRingFrames k
    else (d.setRxRing k { owned := kept, done := r.done ++ stampDescs i q 1 f.used }).ringExhausted k i.port filled
  if k < 2 then d.pauseCheck else d

/-- Whether a ring would be exhausted by a frame. -/
def wouldExhaust (d : Dev) (p k : Nat) (frame : Octets) : Bool := !(fillRing ((d.rxRing k).owned.take (d.usable p k)) frame 0).rest.isEmpty

/-! ### Steering (R267 to R271) -/

/-- A classifier rule as a number (Table 9-3). -/
def classRuleOf (d : Dev) (p k : Nat) : Nat := fromBE (d.bytes Reg.classRule (64 * p + k))

/-- The lowest-numbered rule of a media port that matches (R271). -/
def classify (d : Dev) (p : Nat) (q : Parsed) : Option (Nat × Nat) :=
  (List.range 64).findSome? fun k =>
    let r := d.classRuleOf p k
    if ruleMatch r q then some (k, r) else none

/-- Whether a packet is for a stream map of an interface. -/
def mapFor (d : Dev) (interface : Nat) (q : Parsed) : Bool :=
  q.ip4 && q.udp && q.whole && (List.range 16).any fun s => d.mapOn s && d.nat Reg.mapInterface s == interface && d.nat Reg.mapUdpPort s == q.udpDst

/-- Whether a frame's destination is an own address of the port: its MacAddress, or an IP address that firmware holds for it
(R268). -/
def ownAddress (d : Dev) (p : Nat) (q : Parsed) : Bool :=
  q.da == d.nat Reg.macAddress p || (q.ip4 && q.ipDst == Config.ownIp p) || (q.ip6 && q.ipDst == Config.ownIp6 p)

/-- Whether the management port accepts a destination address (R269). -/
def mgmtAccepts (d : Dev) (q : Parsed) : Bool :=
  q.da == d.nat Reg.macAddress 4 || (q.broadcast && d.flag Reg.mgmtAcceptBroadcast) || q.da == 0x0180C200000E ||
    (List.range 8).any fun i => d.nat Reg.mgmtFilterAddr 0 i != 0 && d.nat Reg.mgmtFilterAddr 0 i == q.da

/-- LLDP, ARP, ICMP, ICMPv6 or IGMP. -/
def controlProto (q : Parsed) : Bool :=
  q.ethType == 0x88CC || q.ethType == 0x0806 || (q.ip4 && (q.proto == 1 || q.proto == 2)) || (q.ip6 && q.proto == 58)

/-- Whether a receive flow claims a packet (Table 9-2, step 4; R294). -/
def flowClaims (d : Dev) (date p : Nat) (q : Parsed) (f : Nat) : Bool :=
  d.natAt date Reg.rxEnable f == 1 && d.natAt date Reg.rxChannels f != 0 &&
    (d.natAt date Reg.rxPort f == p || d.natAt date Reg.rxSecondPort f == p) &&
    d.natAt date Reg.rxVlan f == q.vid && d.natAt date Reg.rxGroup f == q.ipDst && d.natAt date Reg.rxUdpPort f == q.udpDst &&
    (d.natAt date Reg.rxSourceFilter f == 0 || d.natAt date Reg.rxSourceFilter f == q.ipSrc)

/-- The flow that claims a packet, the lowest of several. -/
def flowFor (d : Dev) (p : Nat) (q : Parsed) : Option Nat :=
  if !(q.ip4 && q.udp && q.whole) then none else (List.range 1024).find? (d.flowClaims d.mscNow p q)

/-- Steering of a media port (Table 9-2), MACsec already done. -/
def steerMedia (d : Dev) (p : Nat) (q : Parsed) : Steer :=
  let vlan := d.inForce Reg.udpMediaVlan
  let onVlan := vlan != 0 && q.vid == vlan
  if q.ethType = 0x8808 then .macControl
  else if q.ethType = 0x888E then .ring 4 0
  else if q.ethType = 0x88F7 ∨ (q.udp ∧ (q.udpDst = 319 ∨ q.udpDst = 320)) then .ring 5 0
  else match d.flowFor p q with
  | some f => .flow f
  | none =>
      if onVlan ∧ d.mapFor 1 q then .map
      else if onVlan ∧ q.udp ∧ q.udpDst = 48240 ∧ d.ownAddress p q then .ring 2 0
      else if controlProto q then .ring 3 0
      else if q.udp ∧ ((q.ip4 ∧ q.udpDst = 9875 ∧ (q.ipDst = 0xEFFFFFFF ∨ q.ipDst = 0xE0027FFE)) ∨ q.udpDst = 5353) then .ring 6 0
      else if q.ip4 ∧ q.udp ∧ q.udpDst = 68 then .ring 7 0
      else if q.ethType = 0x88FB then .filtered
      else match d.classify p q with
        | some (k, r) => if bits r 11 8 = 1 then .ring (bits r 15 12) k else .classDrop k
        | none => .filtered

/-- Steering of the management port (Table 9-2). -/
def steerMgmt (d : Dev) (q : Parsed) : Steer :=
  if q.ethType = 0x8808 then .macControl
  else if !d.mgmtAccepts q then .nothing
  else if d.mapFor 0 q then .map
  else if q.udp ∧ q.udpDst = 48240 ∧ d.ownAddress 4 q then .ring 0 0
  else if controlProto q ∨ (q.ip4 ∧ q.udp ∧ q.udpDst = 68) then .ring 1 0
  else .filtered

/-! ### MACsec (R285 to R287) -/

/-- What MACsec does with a received frame: pass it plain or opened, or drop it on a counter. -/
inductive SecResult where
  | pass (secured : Bool) (frame : Octets)
  | drop (sub : Nat)
  deriving DecidableEq, Repr

/-- The packet number of a frame from its low 32 bits: the nearest at or above the lowest acceptable, less half a range. -/
def recoverPn (next low : Nat) : Nat :=
  let base := next / 2 ^ 32 * 2 ^ 32 + low
  if base + 2 ^ 31 ≤ next then base + 2 ^ 32 else if next + 2 ^ 31 < base ∧ 2 ^ 32 ≤ base then base - 2 ^ 32 else base

/-- MACsec on receive (R286, R287): EAPOL and plain frames as the mode lets them, protected frames checked and opened to what
stood between SecTAG and ICV; with mode 0 no SA is installed, and none is accepted. -/
def macsecReceive (p : Nat) (w : Octets) (d : Dev) : SecResult × Dev :=
  let mode := d.nat Reg.macsecMode p
  let et := beAt w 12 2
  if et = 0x888E ∨ et = 0x8808 ∨ (mode = 0 ∧ et ≠ 0x88E5) then (.pass false w, d)
  else if mode = 0 then (.drop 0x18, d)
  else if et ≠ 0x88E5 then
    if mode = 2 ∨ (d.port p).secured then (.drop 0x19, d) else (.pass false w, d)
  else
    let tci := beAt w 14 1
    let hasSci := tci.testBit 5
    let low := beAt w 16 4
    let body := w.drop (if hasSci then 28 else 20)
    match ((d.port p).rxSas.find? fun s => s.an == tci % 4), !hasSci || beAt w 20 8 == d.nat Reg.macsecPeerSci p with
    | some sa, true =>
      let pn := recoverPn sa.next low
      if pn + d.nat Reg.macsecReplayWindow p < sa.next then (.drop 0x17, d)
      else match Config.macsecOpen sa.key pn w with
        | none => (.drop 0x16, d)
        | some clear =>
          let d := d.setPort p fun q => { q with rxSas := q.rxSas.map fun s => if s.an = sa.an then { s with next := max s.next (pn + 1) } else s }
          (.pass true (w.take 12 ++ fitOctets (body.length - 16) clear), d.portCount p 0x15)
    | _, _ => (.drop 0x18, d)

/-- MKA_SECURED: MKA installs an SA in each direction, its keys unwrapped with MacsecCak under the name MacsecCkn (R285, R286); two
at most per channel are held. Without a CAK and its name MKA fails: MacsecState 3 (DESIGN CHOICE: the spec says only that 3 is
failed). -/
def mkaSecured (p an : Nat) (rxKey txKey : Octets) (peerSci ownSci : Nat) (d : Dev) : Dev :=
  if !(p < 4 ∧ d.nat Reg.macsecMode p ≠ 0 ∧ d.portUp p) then d
  else
    let cak := nget [] d.sec.keys (Reg.macsecCak.key p)
    let ckn := d.bytes Reg.macsecCkn p
    if cak.isEmpty ∨ ckn.isEmpty then (if (d.port p).secured then d else d.setMacsecState p 3)
    else
      let two (l : List MacSa) (k : Octets) : List MacSa :=
        ({ an := an % 4, key := Config.mkaUnwrap cak ckn k, next := 1 } :: l.filter fun s => s.an ≠ an % 4).take 2
      let d := d.setPort p fun q => { q with secured := true, txSci := ownSci, rxSas := two q.rxSas rxKey, txSas := two q.txSas txKey }
      let d := ((d.setNat Reg.macsecTxAn (an % 4) p).setNat Reg.macsecTxPn 1 p).setNat Reg.macsecPeerSci peerSci p
      d.setMacsecState p 2

/-- MacsecMode has been written: with mode 0 the SAs go and the state is off; a port that is UP negotiates anew (R286,
Table 9-10). -/
def macsecModeSet (p : Nat) (d : Dev) : Dev :=
  if d.nat Reg.macsecMode p = 0 then (d.setPort p fun q => { q with secured := false, rxSas := [], txSas := [] }).setMacsecState p 0
  else if d.portUp p ∧ d.nat Reg.macsecState p = 0 then d.setMacsecState p 1 else d

/-! ### IGMP (R302) -/

/-- Whether a receive flow is enabled: its entry set and channels given (R295). -/
def rxOn (d : Dev) (f : Nat) : Bool := d.flag Reg.rxEnable f && d.nat Reg.rxChannels f != 0

/-- The elements of an array whose entry has been set; entries at their default are not listed. -/
def setElems (d : Dev) (r : Row) : List Nat :=
  (d.regs.filter fun p => p.1 % 256 == r.sub && r.base ≤ p.1 / 256 && p.1 / 256 < r.base + r.count.limit).map fun p => p.1 / 256 - r.base

/-- The enabled receive flows. -/
def rxFlows (d : Dev) : List Nat := (d.setElems Reg.rxEnable).filter d.rxOn

/-- The version of IGMP that a port speaks: 3, or that of an older querier that counts as present (R294, RFC 3376). -/
def igmpVersion (d : Dev) (p : Nat) : Nat :=
  let o := (d.port p).oldQueriers
  if d.clock < o.1 then 1 else if d.clock < o.2 then 2 else 3

/-- A membership record sent, with the message of an older version in its place: its report for every record that wants the group,
and in version 2 a leave for one that gives it up (RFC 3376, section 7). -/
def igmpRecord (p group : Nat) (sources : List Nat) (kind : Nat) (d : Dev) : Dev :=
  let leaves := (kind == 3 && sources.isEmpty) || kind == 6
  match d.igmpVersion p with
  | 3 => d.emit (.igmp p group sources kind)
  | v => if leaves then (if v = 2 then d.emit (.igmp p group [] 0x17) else d) else d.emit (.igmp p group [] (if v = 1 then 0x12 else 0x16))

/-- The groups that the enabled flows of a port need, each with its filter mode: EXCLUDE of none where one flow takes any source,
else INCLUDE of their sources (R302). -/
def igmpNeeds (d : Dev) (p : Nat) : List (Nat × Bool × List Nat) :=
  let flows := d.rxFlows.filter fun f => (d.nat Reg.rxPort f == p || d.nat Reg.rxSecondPort f == p) && isGroup (d.nat Reg.rxGroup f)
  let groups := (flows.map fun f => d.nat Reg.rxGroup f).eraseDups
  groups.map fun g =>
    let src := ((flows.filter fun f => d.nat Reg.rxGroup f == g).map fun f => d.nat Reg.rxSourceFilter f).eraseDups
    (g, src.contains 0, if src.contains 0 then [] else src)

/-- The records by which a group's filter mode changes, none standing for INCLUDE of no source: TO_EX, TO_IN, ALLOW and BLOCK
(RFC 3376, section 5.1). -/
def igmpChange (old new : Bool × List Nat) : List (Nat × List Nat) :=
  match old.1, new.1 with
  | false, true => [(4, [])]
  | true, false => [(3, new.2)]
  | true, true => []
  | false, false =>
    let more := new.2.filter fun x => !old.2.contains x
    let less := old.2.filter fun x => !new.2.contains x
    (if more.isEmpty then [] else [(5, more)]) ++ (if less.isEmpty then [] else [(6, less)])

/-- Joins and leaves of a port as its enabled flows need them (R302): the first report at once, the second due in 1 s. A port that
is not UP is a member of nothing. -/
def igmpRefresh (p : Nat) (d : Dev) : Dev :=
  if !d.portUp p then d.setPort p fun q => { q with members := [], oldQueriers := (0, 0) }
  else
    let need := d.igmpNeeds p
    let old := (d.port p).members
    let gone := old.filter fun m => !(need.any fun n => n.1 == m.group)
    let d := gone.foldl (fun (d : Dev) m => (igmpChange (m.exclude, m.sources) (false, [])).foldl (fun d r => d.igmpRecord p m.group r.2 r.1) d) d
    let keep (n : Nat × Bool × List Nat) : IgmpGroup :=
      match old.find? fun m => m.group == n.1 with
      | some m =>
        let l := igmpChange (m.exclude, m.sources) n.2
        if l.isEmpty then m else { group := n.1, exclude := n.2.1, sources := n.2.2, again := l, reportDue := some (d.clock + secCycles 1) }
      | none => { group := n.1, exclude := n.2.1, sources := n.2.2, again := igmpChange (false, []) n.2, reportDue := some (d.clock + secCycles 1) }
    let now := need.map keep
    let d := (now.filter fun m => !old.contains m).foldl (fun (d : Dev) m => m.again.foldl (fun d r => d.igmpRecord p m.group r.2 r.1) d) d
    d.setPort p fun q => { q with members := now }

/-- IGMP_REPORT_TIMER: the second unsolicited report, 1 s after a join (R302). -/
def igmpSecond (p group : Nat) (d : Dev) : Dev :=
  match (d.port p).members.find? fun m => m.group == group && m.reportDue.isSome with
  | some m =>
    d.onDue (m.reportDue.getD 0) fun d =>
    let d := m.again.foldl (fun (d : Dev) r => d.igmpRecord p m.group r.2 r.1) d
    d.setPort p fun q => { q with members := q.members.map fun x => if x.group = m.group then { x with again := [], reportDue := none } else x }
  | none => d

/-- The current-state record with which a group answers a query for sources, none standing for a query of the whole group:
IS_EX of none, IS_IN of its sources, or IS_IN of those of the query that it takes (RFC 3376, section 5.2). -/
def igmpState (m : IgmpGroup) (asked : List Nat) : Option (Nat × List Nat) :=
  if asked.isEmpty then some (if m.exclude then (2, []) else (1, m.sources))
  else
    let l := if m.exclude then asked else asked.filter m.sources.contains
    if l.isEmpty then none else some (1, l)

/-- A query answered with the current state of the groups that it names: every group, one group, or sources of one (R302,
RFC 3376). The form of the query tells its version, and an older querier counts as present for 260 s (PRESUMED: the default
timers of RFC 3376; the answer leaves at once, within the time that the query allows). -/
def igmpAnswer (p : Nat) (q : Parsed) (d : Dev) : Dev :=
  if q.ip4 && q.proto == 2 && beAt q.payload 0 1 == 0x11 then
    let until_ := d.clock + secCycles 260
    let d := if 12 ≤ q.payload.length then d
      else if beAt q.payload 1 1 = 0 then d.setPort p fun x => { x with oldQueriers := (until_, x.oldQueriers.2) }
      else d.setPort p fun x => { x with oldQueriers := (x.oldQueriers.1, until_) }
    let g := beAt q.payload 4 4
    let asked := if 12 ≤ q.payload.length then (List.range (beAt q.payload 10 2)).map fun i => beAt q.payload (12 + 4 * i) 4 else []
    (d.port p).members.foldl (fun (d : Dev) m =>
      if g = 0 ∨ g = m.group then (match igmpState m asked with | some r => d.igmpRecord p m.group r.2 r.1 | none => d) else d) d
  else d

/-! ### Firmware on delivered control frames -/

/-- PTP frames that the module ignores: layer 2, and message types outside Table 11-3 (R341). -/
def ptpIgnoredFrame (q : Parsed) : Bool :=
  q.ethType == 0x88F7 || ! [0x0, 0x1, 0x8, 0x9, 0xB].contains (beAt q.payload 0 1 % 16)

/-- The EEE wake time that an LLDP EEE TLV of the partner agrees (R263; the TLV as IEEE 802.3 lays it out). -/
def lldpWake (w : Octets) : Nat → Option Nat
  | 0 => none
  | n + 1 =>
    let h := beAt w 0 2
    let len := h % 512
    if h / 512 = 0 then none
    else if h / 512 = 127 ∧ beAt w 2 3 = 0x00120F ∧ beAt w 5 1 = 5 then some (beAt w 8 2)
    else lldpWake (w.drop (2 + len)) n

/-! ### Reception (R264 to R272) -/

/-- What the wire's checks found of a frame: 0 good, 1 PCS or FEC-uncorrectable error, 2 FCS error, 3 buffer error. -/
abbrev RxCond := Nat

/-- The part of FRAME_RECEIVE that flows take on, supplied by the flow engine: flow, port, frame, wire length. -/
abbrev FlowSink := Nat → Nat → Parsed → Octets → Dev → Dev

/-- A frame that passes R265, steered (Table 9-2). -/
def steered (sink : FlowSink) (p stamp : Nat) (w : Octets) (d : Dev) : Dev :=
  let q0 := parseFrame w
  let sec := if p < 4 then d.macsecReceive p w else (.pass false w, d)
  match sec.1 with
  | .drop sub => sec.2.portCount p sub
  | .pass secured frame =>
    let d := sec.2
    let q := if secured then parseFrame frame else q0
    let d := if q.ip4 && !q.firstFragment then d.portCount p 0x14 else d
    let d := if q.ethType = 0x88CC then d.portCount p 0x1B else d
    let info (rule k : Nat) : RxInfo := { port := p, rule, stamp, stamped := k == 5 || 12 ≤ k || (q.udp && q.udpDst == 319), secured }
    match (if p < 4 then d.steerMedia p q else d.steerMgmt q) with
    | .macControl =>
      if beAt frame q.off 2 = 1 then d.pauseReceived p (beAt frame (q.off + 2) 2)
      else if p < 4 ∧ beAt frame q.off 2 = 0x0101 then d.portCount p 0x0E
      else d
    | .flow f => (d.portCount p 0x10) |> sink f p q frame
    | .map => (d.portCount p 0x1E).mapTake (if p = 4 then 0 else 1) q.udpDst q.ipSrc q.payload
    | .ring k rule =>
      let d := if k = 5 then d.portCount p 0x1A else if k = 4 then d.portCount p 0x1C else d
      let d := if 12 ≤ k then (d.portCount p 0x11).bump Reg.classHits (64 * p + rule) else d
      let d := d.deliver k (info rule k) q frame
      let d := if k = 5 && ptpIgnoredFrame q then d.bump Reg.ptpIgnored else d
      let d := if k = 3 then d.igmpAnswer p q else d
      if p = 4 ∧ q.ethType = 0x88CC then
        match lldpWake (frame.drop q.off) 64 with
        | some t => d.setNat Reg.mgmtEeeTwAgreed t
        | none => d
      else d
    | .classDrop rule => ((d.portCount p 0x11).bump Reg.classHits (64 * p + rule)).portCount p 0x12
    | .filtered =>
      let d := d.portCount p 0x0F
      if p = 4 ∧ d.flag Reg.mgmtPromiscuous then d.deliver 12 (info 0 12) q frame else d
    | .nothing => d

/-- A frame that passes R265, or that its ring cuts off before the FCS could be checked: counted and steered (R268, R276). -/
def passFrame (sink : FlowSink) (p : Nat) (w : Octets) (frac : Nat) (d : Dev) : Dev :=
  let q := parseFrame w
  let d := (d.portCount p 0x02).countRxOctets p (w.length + 4)
  let d := d.portCount p (if q.broadcast then 0x05 else if q.multicast then 0x04 else 0x03)
  let d := if q.tag.isSome then d.portCount p 0x06 else d
  d.steered sink p (d.rxStamp p frac) w

/-- Whether a frame is discarded for want of a descriptor before its last octet, so that no FCS check is made (R276). -/
def cutByRing (d : Dev) (p : Nat) (w : Octets) : Bool :=
  match (if p < 4 then (d.macsecReceive p w).1 else .pass false w) with
  | .pass _ frame =>
    let q := parseFrame frame
    match (if p < 4 then d.steerMedia p q else d.steerMgmt q) with
    | .ring k _ => d.wouldExhaust p k frame
    | _ => false
  | .drop _ => false

/-- FRAME_RECEIVE: a frame from its destination address to the octet before the FCS, checked and steered; codewords
corrected and uncorrectable during it, and the sixteenths of its stamp (R264 to R268). -/
def frameReceive (sink : FlowSink) (p : Nat) (w : Octets) (cond fixed bad frac : Nat) (d : Dev) : Dev :=
  if !d.portUp p then d
  else
    let d := if fixed = 0 then d else d.portCount p 0x0B fixed
    let d := if bad = 0 then d else d.portCount p 0x0C bad
    let len := w.length + 4
    if len < 64 then d.portCount p 0x07
    else if d.nat Reg.maxFrame p < len then d.portCount p 0x08
    else if cond = 1 then d.portCount p 0x0A
    else if cond = 3 then (d.portCount p 0x1D).notice 0x300B p
    else if cond = 2 ∧ !d.cutByRing p w then d.portCount p 0x09
    else d.passFrame sink p w frac

/-! ### Transmission (R266, R277, R278, R346 to R348) -/

/-- The first frame of a ring's posted descriptors, up to Last, and the rest. -/
def headFrame : List TxDesc → List TxDesc × List TxDesc
  | [] => ([], [])
  | x :: t => if x.buf.last then ([x], t) else let r := headFrame t; (x :: r.1, r.2)

/-- Whether a ring's first frame is complete and for a port, the frame before it written back: descriptors go in ring order
(R274). -/
def readyFor (d : Dev) (p k : Nat) : Bool :=
  (d.txRing k).busy.isEmpty && match (headFrame (d.txRing k).posted).1.getLast? with
  | some x => x.buf.last && x.buf.port == p
  | none => false

/-- The ring that a port serves next: 5, 4, then the others round robin (R278). -/
def nextRing (d : Dev) (p : Nat) : Option Nat :=
  if d.readyFor p 5 then some 5
  else if d.readyFor p 4 then some 4
  else (List.range 16).findSome? fun i =>
    let k := ((d.port p).lastRing + 1 + i) % 16
    if k ≠ 4 ∧ k ≠ 5 ∧ d.readyFor p k then some k else none

/-- Buffers that the supervisor has posted into transmit rings, as far as a ring holds them. -/
def txPost (posts : List (Nat × TxBuffer)) (d : Dev) : Dev :=
  posts.foldl (fun d p =>
    let r := d.txRing p.1
    let n := r.posted.length + r.busy.length
    if p.1 < 8 ∧ n < d.nat Reg.txRingLength p.1 then
      d.setTxRing p.1 { r with posted := r.posted ++ [{ buf := p.2, status := 0 }], done := r.done.drop (n + r.done.length + 1 - d.nat Reg.txRingLength p.1) }
    else d) d

/-- Whether a port requires its frames protected now. -/
def protects (d : Dev) (p : Nat) : Bool := p < 4 && (d.nat Reg.macsecMode p == 2 || (d.nat Reg.macsecMode p == 1 && (d.port p).secured))

/-- The transmit SA that may send, if one may (R287). -/
def txSa (d : Dev) (p : Nat) : Option MacSa :=
  match ((d.port p).txSas.find? fun s => s.an == d.nat Reg.macsecTxAn p) with
  | some s => if s.next < 2 ^ 64 - 1 then some s else none
  | none => none

/-- Whether a frame with OneStep is a one-step Sync as R348 asks. -/
def oneStepSync (w : Octets) : Bool :=
  let q := parseFrame w
  q.ip4 && q.udp && q.udpDst == 319 && beAt w q.off 1 == 0x45 && beAt q.payload 0 1 % 16 == 0 && !(beAt q.payload 6 1).testBit 1

/-- ONE_STEP_INSERT: originTimestamp written as Almanac time, UDP checksum zero (R348). -/
def oneStepInsert (w : Octets) (a : Nat) : Octets :=
  let u := (parseFrame w).off + 20
  w.take (u + 6) ++ toBE 2 0 ++ (w.drop (u + 8)).take 34 ++ toBE 6 (a / almSecond) ++ toBE 4 (a / 2 ^ 32 % 1000000000) ++ w.drop (u + 52)

/-- A time-stamp queue entry written, or discarded with Overflow where the queue holds 16 (R347). -/
def tsPush (p : Nat) (e : TsEntry) (d : Dev) : Dev :=
  if (d.port p).tsQueue.length < 16 then d.setPort p fun q => { q with tsQueue := q.tsQueue ++ [e] }
  else ((d.setPort p fun q => { q with tsOverflow := true }).bump Reg.tsQueueOverflows p).notice 0x380B p

/-- A TLV of LLDP (IEEE 802.1AB). -/
def lldpTlv (type : Nat) (b : Octets) : Octets := toBE 2 (type * 512 + b.length % 512) ++ b

/-- The LLDP frame by which the management port advertises MgmtEeeTwOwn as its receive wake time (R263; PRESUMED: the frame as
IEEE 802.1AB, the EEE TLV as IEEE 802.3 lays it out; its transmit and fallback times are the same, it echoes what was agreed). -/
def lldpFrame (d : Dev) : Octets :=
  let mac := toBE 6 (d.nat Reg.macAddress 4)
  let own := toBE 2 (d.nat Reg.mgmtEeeTwOwn)
  let seen := toBE 2 (d.nat Reg.mgmtEeeTwAgreed)
  toBE 6 0x0180C200000E ++ mac ++ toBE 2 0x88CC ++ lldpTlv 1 (toBE 1 4 ++ mac) ++ lldpTlv 2 (toBE 1 3 ++ mac) ++ lldpTlv 3 (toBE 2 120) ++
    lldpTlv 127 (toBE 3 0x00120F ++ toBE 1 5 ++ own ++ own ++ own ++ seen ++ own) ++ toBE 2 0

/-- The wake time advertised: an LLDP frame posted into TX 1 (R263, Table 9-4; DESIGN CHOICE: when the port comes UP with EEE, and
when MgmtEeeEnable or MgmtEeeTwOwn is written). -/
def lldpSend (d : Dev) : Dev :=
  if d.portUp 4 && d.flag Reg.mgmtEeeEnable && (d.port 4).phyEee then
    d.txPost [(1, { addr := 0x1244000000, data := d.lldpFrame, first := true, last := true, stampRequest := false, oneStep := false, uncontrolled := false, port := 4, stampId := 0 })]
  else d

/-- PHY_AUTONEGOTIATION: the PHY's in-band control word reports link, speed and EEE; the EEE ability is read over MDIO, and PAUSE
and the wake time follow (R261 to R263, R282). -/
def phyWord (up : Bool) (speed : Nat) (eee : Bool) (d : Dev) : Dev :=
  if up && d.flag Reg.portEnable 4 && d.power.state.answers then
    let sp := if d.inForce Reg.mgmtInterface = 1 then 1000 else speed
    if ! [10, 100, 1000].contains sp then d
    else
      let d := (d.eeeRead).setPort 4 fun q => { q with phyEee := eee }
      if d.portUp 4 then d.setNat Reg.linkSpeed sp 4 else ((d.becomeUp 4 sp 0).pauseCheck).lldpSend
  else d.linkDown 4

/-- The status with which a frame at the head of its ring ends unsent, if it does (R266, R277, R287). -/
def txRefused (d : Dev) (p : Nat) (ds : List TxDesc) (w : Octets) : Option Nat :=
  let eapol := beAt w 12 2 == 0x888E
  let bad := ds.any fun x => !ringBuffer x.buf.addr x.buf.data.length || x.buf.data.isEmpty || 16383 < x.buf.data.length || x.buf.port != p || (x.buf.uncontrolled && !eapol)
  let bad := bad || !((ds.head?.map (·.buf.first)).getD false)
  let sec := d.protects p && !eapol
  if !d.portUp p then some 2
  else if bad then some 3
  else if d.nat Reg.maxFrame p < max w.length 60 + 4 + (if sec then 32 else 0) then some 1
  else if sec && (d.txSa p).isNone then some 5
  else none

/-- The frame leaves no sooner than the partner is awake (R262). -/
def wakePort (p : Nat) (d : Dev) : Dev := (d.endLpi p).advanceTo ((d.endLpi p).port p).wakeAt

/-- The MACsec SecTAG with the SCI, encryption and the association number; short data give their length (R285; IEEE 802.1AE). -/
def secTag (an data pn sci : Nat) : Octets :=
  toBE 2 0x88E5 ++ toBE 1 (0x2C + an % 4) ++ toBE 1 (if data < 48 then data else 0) ++ toBE 4 (pn % 2 ^ 32) ++ toBE 8 sci

/-- A frame as the port puts it on the wire before the FCS, protected where the port asks: EAPOL and MAC control pass outside
MACsec. None where no SA may send (R285 to R287). -/
def onWire (p : Nat) (w : Octets) (d : Dev) : Option Octets × Dev :=
  if !(d.protects p && beAt w 12 2 != 0x888E && beAt w 12 2 != 0x8808) then (some w, d)
  else match d.txSa p with
  | none => (none, d)
  | some sa =>
    let sci := (d.port p).txSci
    let data := w.length - 12
    let image := w.take 12 ++ secTag sa.an data sa.next sci ++ fitOctets (data + 16) (Config.macsecSeal sa.key sci sa.next w)
    let d := (d.portCount p 0x2A).setNat Reg.macsecTxPn (sa.next + 1) p
    (some image, d.setPort p fun q => { q with txSas := q.txSas.map fun s => if s.an = sa.an then { s with next := sa.next + 1 } else s })

/-- A frame leaves, padded to 60 octets: its octets on the wire, MACsec applied where the port protects it (R266). -/
def sendFrame (p : Nat) (ring : Option Nat) (ds : List TxDesc) (w : Octets) (d : Dev) : Dev :=
  let w := w ++ List.replicate (60 - w.length) (octet 0)
  let r := d.onWire p w
  match r.1 with
  | some image => (r.2.setPort p fun q => { q with sending := some { ring, flow := none, descs := ds, octets := w, image, bad := false } }).emit (.frame p image)
  | none => r.2

/-- A ring's first frame started, or completed unsent with its status (R266, R277). -/
def startRingFrame (p k : Nat) (d : Dev) : Dev :=
  let r := d.txRing k
  let h := headFrame r.posted
  let ds := h.1
  let body := ds.flatMap (·.buf.data)
  let w := body.take 6 ++ toBE 6 (d.nat Reg.macAddress p) ++ body.drop 12
  let d := d.setTxRing k { r with posted := h.2, busy := ds }
  match d.txRefused p ds w with
  | some 1 => (d.portCount p 0x28).txWriteBack k 1 ds
  | some 2 => (d.portCount p 0x29).txWriteBack k 2 ds
  | some 5 => (d.portCount p 0x2B).txWriteBack k 5 ds
  | some st => d.txWriteBack k st ds
  | none =>
    let d := d.wakePort p
    let f := d.stampAt p 0 Reg.stampTrimTx
    let want := ds.any (·.buf.oneStep)
    let one := want && oneStepSync w
    let w' := if one then oneStepInsert w (if d.alm.snMode then d.almNow else d.almAtFrc f) else w
    let d := if want && !one then d.bump Reg.oneStepRejected p else d
    let d := if k = 4 ∨ k = 5 then d else d.setPort p fun q => { q with lastRing := k }
    let d := d.sendFrame p (some k) ds w'
    match ds.find? (·.buf.stampRequest) with
    | some x => d.tsPush p { frc := f, stampId := x.buf.stampId, port := p, oneStep := one, snMode := d.alm.snMode, valid := true }
    | none => d

/-- TX_FRAME_START: a port that sends nothing chooses its next frame by R278; a held management port sends only MAC
control frames (R281). -/
def txStart (p : Nat) (posts : List (Nat × TxBuffer)) (d : Dev) : Dev :=
  let d := d.txPost posts
  let d := if !(d.port p).control.isEmpty || (d.nextRing p).isSome then d.endLpi p else d
  if (d.port p).sending.isSome then d
  else match (d.port p).control with
  | w :: rest =>
    if d.portUp p then ((d.wakePort p).setPort p fun q => { q with control := rest }).sendFrame p none [] w
    else d.setPort p fun q => { q with control := rest }
  | [] =>
    if (d.port p).heldUntil.isSome then d
    else match d.nextRing p with
      | some k => d.startRingFrame p k
      | none => d

/-- A frame sent whole, counted (Table 9-8); its wire length holds the FCS. -/
def countSent (p : Nat) (f : TxFrame) (d : Dev) : Dev :=
  let q := parseFrame f.octets
  let d := (d.portCount p 0x20).countTxOctets p (f.image.length + 4)
  d.portCount p (if q.broadcast then 0x23 else if q.multicast then 0x22 else 0x21)

/-- The frame on a port ends whole, with its FCS (R266). -/
def endFrame (p : Nat) (f : TxFrame) (d : Dev) : Dev := (d.emit (.frameEnd p f.image.length (frameFcs f.image))).countSent p f

/-- The frame on a port ends early, with an invalid FCS: how many of its octets left is free, so is the wrong FCS (R277, R293). -/
def cutFrame (p : Nat) (f : TxFrame) (d : Dev) : Dev :=
  let r := d.freeNat
  let n := r.1 % (f.image.length + 1)
  let x := r.2.freeNat
  let good := fromLE (frameFcs (f.image.take n))
  (x.2.emit (.frameEnd p n (toLE 4 ((good + 1 + x.1 % (2 ^ 32 - 1)) % 2 ^ 32)))).portCount p 0x2D

/-- A flow's packet on the wire, whole. -/
def flowOut (p : Nat) (f : TxFrame) (d : Dev) : Dev := ((d.emit (.frame p f.image)).endFrame p f).portCount p 0x24

/-- A flow's packet leaves its port, or waits for the frame on the wire (R278). -/
def flowSend (p : Nat) (f : TxFrame) (d : Dev) : Dev :=
  if (d.port p).sending.isSome then d.setPort p fun q => { q with flowQueue := q.flowQueue ++ [f] } else d.flowOut p f

/-- TX_FRAME_COMPLETE: the frame in progress ends, whole or by underrun; flow packets that waited for it leave next (R277, R278). -/
def txComplete (p : Nat) (underrun : Bool) (d : Dev) : Dev :=
  match (d.port p).sending with
  | none => d
  | some f =>
    let cut := underrun || f.bad
    let waiting := (d.port p).flowQueue
    let d := d.setPort p fun q => { q with sending := none, flowQueue := [], idleSince := d.clock }
    let d := if cut then d.cutFrame p f else d.endFrame p f
    let d := match f.ring with
      | none => d
      | some k => (if cut then d else d.portCount p 0x25).txWriteBack k (if cut then 4 else 0) f.descs
    waiting.foldl (fun (d : Dev) f => d.flowOut p f) d

/-- A double-bit error in a port's transmit buffers strikes the ring frame in progress: notice 0x300B, and the frame ends as by
underrun (R293). -/
def txBufferFault (p : Nat) (d : Dev) : Dev :=
  let d := d.notice 0x300B p
  d.setPort p fun q => { q with sending := q.sending.map fun f => { f with bad := true } }

/-- EEE_LPI_ENTRY: no frame has waited for MgmtEeeIdle (R262). -/
def lpiEntry (d : Dev) : Dev :=
  let q := d.port 4
  if d.flag Reg.mgmtEeeEnable && q.phyEee && d.portUp 4 && q.sending.isNone && q.control.isEmpty && (d.nextRing 4).isNone && !q.lpi then
    d.onDue (q.idleSince + usCycles (d.nat Reg.mgmtEeeIdle)) fun d => (d.setPort 4 fun q => { q with lpi := true }).portCount 4 0x2C
  else d

/-- TS_QUEUE_STATUS_READ: the status word of Table 11-6; Overflow clears where the queue is empty (R347). -/
def tsStatus (p : Nat) (d : Dev) : Dev :=
  let q := d.port p
  let d := { d with fwRead := q.tsQueue.length + 32 * b2n q.tsOverflow }
  if q.tsQueue.isEmpty then d.setPort p fun q => { q with tsOverflow := false } else d

/-- A time-stamp queue entry as 128 bits (Table 11-5). -/
def tsWord (e : TsEntry) : Nat :=
  e.frc % 2 ^ 64 + e.stampId % 65536 * 2 ^ 64 + e.port % 8 * 2 ^ 80 + b2n e.oneStep * 2 ^ 83 + b2n e.snMode * 2 ^ 84

/-- TS_QUEUE_ENTRY_READ: the oldest entry (R347); an empty queue reads 0. -/
def tsEntry (p : Nat) (d : Dev) : Dev :=
  match (d.port p).tsQueue with
  | e :: t => ({ d with fwRead := tsWord e }).setPort p fun q => { q with tsQueue := t }
  | [] => { d with fwRead := 0 }

/-! ### Capture (R279) -/

/-- Frames in a capture ring's written-back descriptors, oldest first: each up to Last, or the buffers of one abort. -/
def captureFrames : List RxDesc → List RxDesc → List (List RxDesc)
  | [], acc => if acc.isEmpty then [] else [acc]
  | x :: t, acc =>
    if x.status = 2 then captureFrames t acc
    else if x.last then (acc ++ [x]) :: captureFrames t []
    else captureFrames t (acc ++ [x])

/-- One frame of CaptureRead: header of 16 octets, octets, zeros to a multiple of 4. -/
def captureRecord (f : List RxDesc) : Octets :=
  let body := f.flatMap (·.data)
  match f with
  | [] => []
  | x :: _ =>
    toBE 2 body.length ++ toBE 1 x.port ++ toBE 1 x.status ++ toBE 1 x.rule ++ toBE 3 0 ++ toBE 8 x.stamp ++ body ++
      List.replicate ((4 - body.length % 4) % 4) (octet 0)

/-- The records that one CaptureRead returns: as many whole frames as 1 MiB holds. -/
def captureTake : List (List RxDesc) → Nat → List (List RxDesc)
  | [], _ => []
  | f :: t, room =>
    let n := (captureRecord f).length
    if n ≤ room then f :: captureTake t (room - n) else []

/-- CaptureRead of a ring. -/
def captureRead (d : Dev) (k : Nat) : Octets :=
  (captureTake (captureFrames (d.rxRing k).done []) 1048576).flatMap captureRecord

/-- The buffers of the frames returned are posted again at BLOCK_END. -/
def captureRepost (k size : Nat) (d : Dev) : Dev :=
  let frames := captureTake (captureFrames (d.rxRing k).done []) size
  let n := (frames.map (·.length)).foldl (· + ·) 0
  let r := d.rxRing k
  let taken := (r.done.filter fun x => x.status ≠ 2).take n
  let rest := (r.done.filter fun x => x.status ≠ 2).drop n
  (List.range taken.length).foldl (fun d _ => d.rxPost k 0x1244000000 (d.inForce Reg.rxRingBufferSize k)) (d.setRxRing k { r with done := rest })

end Dev

end Sys2Proof.Machine
end

