-- ==== Sys2Proof/Machine/Recorder.lean ====
section
/-! DEFINITION. The show recorder (R372 to R378). -/

namespace Sys2Proof.Machine

/-- A Q1.31 sample in 24 bits by the transmit law of R303. -/
def to24 (x : Int) : Int := satS 24 ((x + 2 ^ 7) / 2 ^ 8)

/-- A Q1.31 sample in 16 bits by the transmit law of R303. -/
def to16 (x : Int) : Int := satS 16 ((x + 2 ^ 15) / 2 ^ 16)

namespace Dev

/-- RecorderSamples: 120 s (R373). -/
def recSamples (d : Dev) : Nat := if d.fast then 11520000 else 5760000

/-- The value readable in a recorder channel's plane (R372). -/
def recValue (d : Dev) (src : Nat) : Int :=
  let slot := src % 8192
  if slot = 0x1FFF then 0
  else match src / 8192 with
  | 0 => nget 0 d.planes.ingress slot
  | 1 => nget 0 d.planes.render slot
  | 2 => nget 0 d.planes.egress slot
  | _ => 0

/-- One frame of 192 octets for a tick. -/
def recFrame (d : Dev) (tick : Nat) : Octets :=
  (List.range 64).flatMap fun j => toBE 3 (wrapU 24 (to24 (d.recValue (d.natAt tick Reg.recChannel 0 j))))

/-- The last frame that a post-trigger recording writes (R374). -/
def recLast (d : Dev) : Nat := max (d.nat Reg.recorderTriggerDate) (d.nat Reg.recorderTriggerDate + d.nat Reg.recorderPostTrigger - 1)

/-- A recording begins at a tick: the ring counts as empty (R375). -/
def recStart (tick : Nat) (d : Dev) : Dev :=
  (({ d with recd := { ring := [], gaps := [], bad := [], startTick := tick } }).setNat Reg.recorderState 1).setNat Reg.recorderOldest tick

/-- The state as RecorderEnable and the data path have it; a frozen recording stays (R374, R376). -/
def recEnable (runs : Bool) (tick : Nat) (d : Dev) : Dev :=
  let st := d.nat Reg.recorderState
  if st = 3 then d
  else if d.flag Reg.recorderEnable && runs then (if st = 0 then d.recStart tick else d)
  else { (d.setNat Reg.recorderState 0) with recd := { ring := [], gaps := [], bad := [], startTick := 0 } }

/-- The frame of a tick written, or counted as a gap where the on-die buffer is full (R373, R374). -/
def recTick (tick : Nat) (full : Bool) (d : Dev) : Dev :=
  let st := d.nat Reg.recorderState
  if st = 1 ∨ (st = 2 ∧ tick ≤ d.recLast) then
    let k := tick % d.recSamples
    if full then ({ d with recd := { d.recd with ring := nerase d.recd.ring k, gaps := nput d.recd.gaps k tick } }).bump Reg.recorderGapFrames
    else ({ d with recd := { d.recd with ring := nput d.recd.ring k (d.recFrame tick), gaps := nerase d.recd.gaps k, bad := d.recd.bad.filter fun p => p.1 / 3 ≠ k } }).setNat Reg.recorderNewest tick
  else d

/-- RECORDER_TRIGGER: a cause, as a bit of RecorderTriggerMask (R374, R375). -/
def recTrigger (bit : Nat) (d : Dev) : Dev :=
  let on := bit = 0 ∨ bit = 1 ∨ bit = 15 ∨ (bit < 5 ∧ (d.nat Reg.recorderTriggerMask).testBit bit)
  if !on then d
  else match d.nat Reg.recorderState with
  | 1 =>
    (((d.setNat Reg.recorderTriggerDate d.mscNow).setNat Reg.recorderTriggerCause (2 ^ bit)).setNat Reg.recorderState 2).notice 0x9201 (2 ^ bit * 65536)
  | 0 => d
  | _ => d.bump Reg.recorderTriggersMissed

/-- RECORDER_POST_TRIGGER_END: the tick of the last frame is over, whether it was written or counted as a gap, and the recorder
freezes (R373, R374, R377). -/
def recPostEnd (d : Dev) : Dev :=
  if d.nat Reg.recorderState ≠ 2 ∨ d.mscNow ≤ d.recLast then d
  else
    let newest := d.nat Reg.recorderNewest
    let d := d.setNat Reg.recorderOldest (max d.recd.startTick (newest + 1 - d.recSamples))
    let d := d.setVal Reg.recorderFrozenSources (.bytes ((List.range 64).flatMap fun j => toBE 2 (d.nat Reg.recChannel 0 j)))
    (d.setNat Reg.recorderState 3).notice 0x9202 0

/-- RECORDER_FREEZE and RECORDER_RELEASE: RecorderCmd (R375). -/
def recCmd (arg : Octets) (d : Dev) : Status × Dev :=
  if arg = ascii "freeze" then (Status.ok, d.recTrigger 15)
  else if arg = ascii "release" then
    let reading := d.transfers.any fun t => entryKey t.index t.sub == Reg.recorderRead.key
    if d.nat Reg.recorderState ≠ 3 ∨ reading then (Status.state, d)
    else
      let d := (d.setNat Reg.recorderState 0).notice 0x9203 0
      (Status.ok, if d.flag Reg.recorderEnable && d.power.state.runs then d.recStart (d.mscNow + 1) else d)
  else (Status.range, d)

/-- Whether RecorderReadSelect names frames of the frozen recording (R377). -/
def recSelectOk (d : Dev) (sel : Nat) : Bool :=
  let first := sel / 2 ^ 32
  let count := sel % 2 ^ 32
  count ≤ 1048576 && (count == 0 || d.nat Reg.recorderOldest + first + count ≤ d.nat Reg.recorderNewest + 1)

/-- The octets of a recorded frame: zeros for a gap, and for a line with an uncorrectable error (R373, R377). -/
def recOctets (d : Dev) (tick : Nat) : Octets :=
  let k := tick % d.recSamples
  let f := nget [] d.recd.ring k
  (List.range 3).flatMap fun l =>
    let line := (f.drop (64 * l)).take 64
    if line.isEmpty || (nget? d.recd.bad (3 * k + l)).isSome then List.replicate 64 (octet 0) else line

/-- RecorderRead of a selection: the header of Table 12-5 and the frames. -/
def recRead (d : Dev) (sel : Nat) : Octets :=
  let first := d.nat Reg.recorderOldest + sel / 2 ^ 32
  let count := sel % 2 ^ 32
  let places := (List.range count).map fun i => (first + i) % d.recSamples
  let bad := (d.recd.bad.filter fun p => places.contains (p.1 / 3)).length
  let gaps := (d.recd.gaps.filter fun p => places.contains p.1).length
  toBE 4 0x4A524543 ++ toBE 2 1 ++ toBE 1 64 ++ toBE 1 0 ++ toBE 8 first ++ toBE 4 count ++ toBE 2 (d.nat Reg.recorderTriggerCause) ++
    toBE 2 bad ++ toBE 4 d.fr ++ toBE 4 gaps ++ (List.range count).flatMap fun i => d.recOctets (first + i)

end Dev

end Sys2Proof.Machine
end

