-- ==== Sys2Proof/Machine/Streams.lean ====
section
/-! DEFINITION. Audio flows and slot tables (chapter 10), and the sources of the ingress plane (R12, R17). -/

namespace Sys2Proof.Machine

/-- No slot: 0xFFFF (R307). -/
def noSlot : Nat := 0xFFFF

/-- Entry `k` of a slot table; a table never written names none. -/
def tableSlot (t : Octets) (k : Nat) : Nat := if t.isEmpty then noSlot else beAt t (2 * k) 2

/-- The code of a receive-flow channel among the ingress sources. -/
def srcFlow (f ch : Nat) : Nat := 1 + f * 64 + ch

/-- The code of a pool channel. -/
def srcConv (c : Nat) : Nat := 0x20000 + c

/-- The code of a TDM input slot. -/
def srcTdm (p k : Nat) : Nat := 0x30000 + p * 32 + k

/-- The code of the headset microphone. -/
def srcMic : Nat := 0x40000

/-- The packet samples N of a packet time at a rate (R295), rounded half up where not whole. -/
def packetSamples (time rate : Nat) : Nat := (2 * time * rate + 1000000) / 2000000

/-- Octets of one sample of an encoding: 0 L16, 1 L24. -/
def sampleOctets (enc : Nat) : Nat := if enc = 0 then 2 else 3

/-- The half-band stages of R233. -/
def halfStages (fs fr : Nat) : Nat := if fs ≤ fr then 0 else if fs ≤ 2 * fr then 1 else 2

/-- The conversion delay D of R233. -/
def convDelayOf (s : Nat) : Nat := 34 + 12 * s

/-- Pq(t) of a LOCKED channel (R235). -/
def lockedPos (t o : Int) (fs s fr : Nat) : Int :=
  rdiv ((t - o) * ((fs / 2 ^ s : Nat) : Int) * 2 ^ 32) fr - convDelayOf s * 2 ^ 32

/-- The newest input count that decimated count `m` needs. -/
def topInput (s : Nat) (m : Int) : Int := match s with
  | 0 => m
  | 1 => 2 * m + 23
  | _ => 4 * m + 69

/-- The settings of a receive flow for a date. -/
structure RxCfg where
  channels : Nat
  enc : Nat
  rate : Nat
  n : Nat
  link : Nat
  offset : Nat
  ptype : Nat
  port : Nat
  second : Nat
  deriving DecidableEq, Repr

/-- The crossfade law of R310 between two values. -/
def crossMix (a b : Int) (p : Nat) : Int :=
  satAudio ((a * fadeWeight (65536 - p) + b * fadeWeight p + 2 ^ 22) / 2 ^ 23)

/-- What a ramp between two codes leaves in force where another change cuts it short (R311): the side with the larger
weight, and whether it was cut short. -/
def settleRamp (r : Ramp) (date : Nat) : Int × Bool :=
  let i := date - r.start
  if r.len ≤ i then (r.new, false)
  else if 32768 ≤ fadePos i r.len then (r.new, true) else (r.old, true)

namespace Dev

/-! ### Settings -/

/-- The settings of a receive flow for a date. -/
def rxCfg (d : Dev) (date f : Nat) : RxCfg :=
  let rate := d.natAt date Reg.rxRate f
  { channels := d.natAt date Reg.rxChannels f, enc := d.natAt date Reg.rxEncoding f, rate
    n := packetSamples (d.natAt date Reg.rxPacketTime f) rate, link := d.natAt date Reg.rxLinkOffset f
    offset := d.natAt date Reg.rxRtpOffset f, ptype := d.natAt date Reg.rxPayloadType f
    port := d.natAt date Reg.rxPort f, second := d.natAt date Reg.rxSecondPort f }

/-- Whether a transmit flow is enabled. -/
def txOn (d : Dev) (f : Nat) : Bool := d.flag Reg.txEnable f && d.nat Reg.txChannels f != 0

/-- The enabled transmit flows. -/
def txFlows (d : Dev) : List Nat := (d.setElems Reg.txEnable).filter d.txOn

/-- The wire length of a flow's packets but for MACsec (R295). -/
def wireLength (channels n enc vlan : Nat) (dual : Bool) : Nat :=
  58 + channels * n * sampleOctets enc + (if vlan = 0 then 0 else 4) + (if dual then 6 else 0)

/-- The wire length of receive flow `f` under the settings in force. -/
def rxWire (d : Dev) (f : Nat) : Nat :=
  wireLength (d.nat Reg.rxChannels f) (packetSamples (d.nat Reg.rxPacketTime f) (d.nat Reg.rxRate f)) (d.nat Reg.rxEncoding f) (d.nat Reg.rxVlan f) (d.nat Reg.rxSecondPort f ≠ 0xFF)

/-- The wire length of transmit flow `f`. -/
def txWire (d : Dev) (f : Nat) : Nat :=
  wireLength (d.nat Reg.txChannels f) (packetSamples (d.nat Reg.txPacketTime f) d.fr) (d.nat Reg.txEncoding f) (d.nat Reg.txVlan f) (d.nat Reg.txSecondPort f ≠ 0xFF)

/-- Whether a wire length fits a port: MACsec adds 32 octets where the port uses it (R295). -/
def fitsPort (d : Dev) (wire p : Nat) : Bool :=
  p == 0xFF || wire + (if d.nat Reg.macsecMode p = 0 then 0 else 32) ≤ d.nat Reg.maxFrame p

/-- Whether an address may be a receive flow's: none yet, a multicast group, or the own address of a port of the flow
(Tables 10-1 and 10-5). -/
def rxGroupOk (d : Dev) (f : Nat) : Bool :=
  let g := d.nat Reg.rxGroup f
  g == 0 || isGroup g || g == Config.ownIp (d.nat Reg.rxPort f) || (d.nat Reg.rxSecondPort f != 0xFF && g == Config.ownIp (d.nat Reg.rxSecondPort f))

/-- The checks of a receive flow's settings as a whole: second port, group, R295, R298. -/
def rxFlowOk (d : Dev) (f : Nat) : Bool :=
  let o := d.nat Reg.rxLinkOffset f
  let time := d.nat Reg.rxPacketTime f
  let fs := d.nat Reg.rxRate f
  d.nat Reg.rxSecondPort f != d.nat Reg.rxPort f &&
  !(d.rxOn f && d.nat Reg.rxGroup f == 0) && d.rxGroupOk f &&
  d.fitsPort (d.rxWire f) (d.nat Reg.rxPort f) && d.fitsPort (d.rxWire f) (d.nat Reg.rxSecondPort f) &&
  cdiv (time * d.fr) 1000000 ≤ o && decide (rdiv ((o * fs : Nat) : Int) d.fr + 2 * packetSamples time fs ≤ 448)

/-- The checks of a transmit flow's settings as a whole: second port, group, R295. -/
def txFlowOk (d : Dev) (f : Nat) : Bool :=
  d.nat Reg.txSecondPort f != d.nat Reg.txPort f && !(d.txOn f && d.nat Reg.txGroup f == 0) &&
  d.fitsPort (d.txWire f) (d.nat Reg.txPort f) && d.fitsPort (d.txWire f) (d.nat Reg.txSecondPort f)

/-- The dual-path receive flows in force: a second port makes them so (R312). -/
def rxDual (d : Dev) : Nat := ((d.setElems Reg.rxSecondPort).filter fun f => d.nat Reg.rxSecondPort f ≠ 0xFF).length

/-- The dual-path transmit flows in force. -/
def txDual (d : Dev) : Nat := ((d.setElems Reg.txSecondPort).filter fun f => d.nat Reg.txSecondPort f ≠ 0xFF).length

/-- RxDualInUse and TxDualInUse as the entries in force have them (Table 10-4). -/
def countDual (d : Dev) : Dev := (d.setNat Reg.rxDualInUse d.rxDual).setNat Reg.txDualInUse d.txDual

/-- The transmit flow load of a port in bit/s (R306). -/
def txLoadOf (d : Dev) (p : Nat) : Nat :=
  d.txFlows.foldl (fun a f =>
    if d.nat Reg.txPort f = p ∨ d.nat Reg.txSecondPort f = p then
      a + (d.txWire f + (if d.nat Reg.macsecMode p = 0 then 0 else 32) + 20) * 8 * 1000000 / max (d.nat Reg.txPacketTime f) 1
    else a) 0

/-- Whether every media port carries its transmit load (R306); a port not UP is held to the 25 Gb/s limit. -/
def txLoadsOk (d : Dev) : Bool :=
  (List.range 4).all fun p => d.txLoadOf p ≤ (if d.nat Reg.linkSpeed p = 10000 then 9200000000 else 23000000000)

/-- TxLoad: the highest port load in Mb/s. -/
def txLoadMax (d : Dev) : Nat := ((List.range 4).map d.txLoadOf).foldl max 0 / 1000000

/-- The check of a slot table (R307). -/
def slotTableCheck (rx : Bool) (t : Octets) : Status :=
  if t.length ≠ 128 then Status.badLength
  else
    let l := (List.range 64).map (tableSlot t)
    let used := l.filter (· ≠ noSlot)
    if l.any fun s => s ≠ noSlot ∧ 4095 < s then Status.range
    else if rx ∧ used.eraseDups.length ≠ used.length then Status.conflict
    else Status.ok

/-- The slot table entry that a bank selects. -/
def rxTableRow (bank : Nat) : Row := if bank = 0 then Reg.rxSlotsA else Reg.rxSlotsB

/-- The transmit slot table entry that a bank selects. -/
def txTableRow (bank : Nat) : Row := if bank = 0 then Reg.txSlotsA else Reg.txSlotsB

/-! ### Writers of the ingress plane (R12, R309) -/

/-- Whether a TDM port writes the ingress plane directly: master at Fr (R357). -/
def tdmDirect (d : Dev) (p : Nat) : Bool :=
  d.nat Reg.tdmRole p == 0 && d.nat Reg.tdmRate p == d.fr && d.nat Reg.tdmSlots p != 0

/-- Every pair of an ingress slot and a source that writes it, under the settings in force. -/
def writers (d : Dev) : List (Nat × Nat) :=
  let flows := (d.rxFlows.filter fun f => d.nat Reg.rxRate f == d.fr).flatMap fun f =>
    let t := d.bytes (rxTableRow (d.nat Reg.rxBank f)) f
    (List.range (d.nat Reg.rxChannels f)).filterMap fun ch =>
      if tableSlot t ch = noSlot then none else some (tableSlot t ch, srcFlow f ch)
  let convs := ((d.setElems Reg.convSourceKind).filter fun c => d.nat Reg.convSourceKind c ≠ 0).map fun c => (d.nat Reg.convSlot c, srcConv c)
  let tdms := ((List.range 4).filter d.tdmDirect).flatMap fun p =>
    let t := d.bytes Reg.tdmInSlots p
    (List.range (d.nat Reg.tdmSlots p)).filterMap fun k =>
      if tableSlot t k = noSlot then none else some (tableSlot t k, srcTdm p k)
  let mic := if d.nat Reg.headsetMicSlot = noSlot then [] else [(d.nat Reg.headsetMicSlot, srcMic)]
  flows ++ convs ++ tdms ++ mic

/-- Whether no ingress slot has two writers (R12). -/
def writersOk (d : Dev) : Bool :=
  let l := d.writers.map fun w => w.1
  l.eraseDups.length == l.length

/-- The sources of the ingress slots as they come into force at a boundary: a slot that a swap touches crossfades, any
other changes at once (R309 to R311); `swapped` tells the sources that a swap at the boundary moved, `cleared` those of a flow that
restarts at it, from which a crossfade starts at 0. -/
def remap (date : Nat) (swapped cleared : Nat → Bool) (d : Dev) : Dev :=
  let new : NMap Nat := d.writers.foldl (fun m w => nput m w.1 w.2) []
  let slots := (d.flows.sources ++ new).foldl (fun (m : NMap Unit) p => nput m p.1 ()) []
  let x := d.nat Reg.routeCrossfade
  let d := slots.foldl (fun d s =>
    let a := nget 0 d.flows.sources s.1
    let b := nget 0 new s.1
    if a = b then d
    else if swapped a || swapped b then
      let st := match nget? d.flows.inFades s.1 with
        | some r => settleRamp r date
        | none => ((a : Int), false)
      let r : Ramp := { start := date, len := x, old := if cleared st.1.toNat then 0 else st.1, new := b }
      let d := { d with flows := { d.flows with inFades := nput d.flows.inFades s.1 r } }
      if st.2 then d.bump Reg.routeInterrupted else d
    else { d with flows := { d.flows with inFades := nerase d.flows.inFades s.1 } }) d
  { d with flows := { d.flows with sources := new } }

/-- The key of an output channel among the egress sources: a transmit flow's channel, or a TDM output slot. -/
def laneKey (f ch : Nat) : Nat := f * 64 + ch

/-- The key of a TDM output slot. -/
def laneKeyTdm (p k : Nat) : Nat := 0x20000 + p * 32 + k

/-- The egress slot that an output channel takes under the settings in force. -/
def outSlot (d : Dev) (key : Nat) : Nat :=
  if 0x20000 ≤ key then tableSlot (d.bytes Reg.tdmOutSlots ((key - 0x20000) / 32)) (key % 32)
  else tableSlot (d.bytes (txTableRow (d.nat Reg.txBank (key / 64))) (key / 64)) (key % 64)

/-- The egress slots of transmit channels and TDM outputs at a boundary; those that change crossfade (R310, R362). -/
def remapOut (date : Nat) (keys : List Nat) (d : Dev) : Dev :=
  let x := d.nat Reg.routeCrossfade
  keys.foldl (fun d key =>
    let b := d.outSlot key
    let a := nget noSlot d.flows.txSlots key
    let d' := { d with flows := { d.flows with txSlots := nset noSlot d.flows.txSlots key b } }
    if a = b then d'
    else
      let past := nget [] d.flows.outFades key
      let st := match past with
        | r :: _ => settleRamp r date
        | [] => ((a : Int), false)
      let ramp : Ramp := { start := date, len := x, old := st.1, new := b }
      let d' := { d' with flows := { d'.flows with outFades := nput d'.flows.outFades key ((ramp :: past).take 16) } }
      if st.2 then d'.bump Reg.routeInterrupted else d') d

/-- The output channels as the data path starts: every channel of a flow that has a transmit table, and every TDM output slot, has
its egress slot, whether or not its flow is enabled yet, no crossfade runs, and no packet is awaited (R300, R310, R319). -/
def startLanes (d : Dev) : Dev :=
  let flows := (d.setElems Reg.txSlotsA ++ d.setElems Reg.txSlotsB).eraseDups
  let keys := (flows.flatMap fun f => (List.range 64).map (laneKey f)) ++ ((List.range 4).flatMap fun p => (List.range 32).map (laneKeyTdm p))
  let rx := d.flows.rx.map fun (p : Nat × RxFlow) => (p.1, { p.2 with lostTo := none })
  { d with flows := { d.flows with rx, txSlots := keys.foldl (fun m k => nset noSlot m k (d.outSlot k)) [], outFades := [] } }

/-! ### Receive flows (R296 to R303, R312 to R315) -/

/-- A receive flow's buffers. -/
def rxFlow (d : Dev) (f : Nat) : RxFlow := nget resetRx d.flows.rx f

/-- A receive flow's buffers changed. -/
def setRx (d : Dev) (f : Nat) (g : RxFlow → RxFlow) : Dev :=
  { d with flows := { d.flows with rx := nput d.flows.rx f (g (d.rxFlow f)) } }

/-- A flow restarts at a boundary with its buffers cleared (R301): state 1 when enabled, else 0. -/
def restartRx (f : Nat) (d : Dev) : Dev :=
  let d := { d with flows := { d.flows with rx := nerase d.flows.rx f } }
  (d.setNat Reg.rxState (b2n (d.rxOn f)) f).setNat Reg.rxPathState 0 f

/-- Receive flows start once their port is UP (R319). -/
def startRx (p : Nat) (d : Dev) : Dev :=
  d.rxFlows.foldl (fun d f =>
    if d.nat Reg.rxState f = 0 ∧ (d.nat Reg.rxPort f = p ∨ d.nat Reg.rxSecondPort f = p) then d.setNat Reg.rxState 1 f else d) d

/-- The newest media count that the flow's consumers have read when tick `a` begins (R299). -/
def lastRead (d : Dev) (c : RxCfg) (a : Nat) : Int :=
  if c.rate = d.fr then (a : Int) - c.link
  else
    let s := halfStages c.rate d.fr
    topInput s (lockedPos a c.link c.rate s d.fr / 2 ^ 32 + 32)

/-- The date at which a media count is first read; the search ends 4,096 dates on. -/
def firstDate (d : Dev) (c : RxCfg) (a : Nat) (count : Int) : Int :=
  if c.rate = d.fr then count + c.link
  else
    match (List.range 4096).find? fun i => decide (count ≤ d.lastRead c (a + i)) with
    | some i => (a + i : Nat)
    | none => (a + 4096 : Nat)

/-- The redundancy control trailer of a frame: its SeqNr, where the suffix and LsduSize match (R314). -/
def prpTrailer (q : Parsed) (w : Octets) : Option Nat :=
  let t := w.drop (w.length - 6)
  if beAt t 4 2 = 0x88FB ∧ beAt t 2 2 % 4096 = (w.length - q.off) % 4096 then some (beAt t 0 2) else none

/-- Bookkeeping of a path that has delivered an accepted or duplicate packet (R315). -/
def pathUp (f i : Nat) (d : Dev) : Dev :=
  let was := ((d.rxFlow f).paths.getD i none).isSome
  let d := d.setRx f fun r => { r with paths := r.paths.set i (some d.clock), lastAt := d.clock }
  let d := d.setNat Reg.rxPathState (setBit (d.nat Reg.rxPathState f) i true) f
  if was || d.nat Reg.rxSecondPort f = 0xFF then d else d.notice 0x3405 (f * 65536 + i)

/-- Duplicate discard (R314): accept, drop as duplicate (some true), or drop as late (some false). -/
def dualKey (f : Nat) (key : Nat) (bySeq : Bool) (mac : Octets) (d : Dev) : Option Bool × Dev :=
  let r := d.rxFlow f
  let fresh := r.newest.isNone || r.srcMac ≠ mac || r.bySeqNr ≠ bySeq
  let newest := r.newest.getD 0
  let diff := wrapS 16 ((key : Int) - newest)
  if fresh then (none, d.setRx f fun r => { r with newest := some key, window := [key], srcMac := mac, bySeqNr := bySeq })
  else if 0 < diff then
    (none, d.setRx f fun r => { r with newest := some key, window := key :: r.window.filter fun k => decide (-255 ≤ wrapS 16 ((k : Int) - key)) })
  else if -255 ≤ diff then
    if r.window.contains key then (some true, d) else (none, d.setRx f fun r => { r with window := key :: r.window })
  else (some false, d)

/-- The reading position of a flow in tick `a` (R297). -/
def readPos (d : Dev) (c : RxCfg) (a : Nat) : Int := if c.rate = d.fr then (a : Int) - c.link else rdiv (((a : Int) - c.link) * c.rate) d.fr

/-- The media count of a packet's first sample (R297). -/
def firstCount (d : Dev) (c : RxCfg) (a ts : Nat) : Int := d.readPos c a + wrapS 32 ((ts : Int) - c.offset - d.readPos c a)

/-- Whether a packet is early: a sample at or beyond r + 512 (R299). -/
def tooEarly (d : Dev) (c : RxCfg) (a ts : Nat) : Bool := decide (d.readPos c a + 512 ≤ d.firstCount c a ts + c.n - 1)

/-- An accepted packet placed by media count: it counts, the flow runs, and its samples in time are stored (R297, R299, R301). -/
def placePacket (f a : Nat) (c : RxCfg) (ts : Nat) (payload : Octets) (d : Dev) : Dev :=
  let r := d.readPos c a
  let first := d.firstCount c a ts
  let read := d.lastRead c a
  let late := (read + 1 - first).toNat
  let d := if late = 0 then
      let m := d.firstDate c a first - a
      if m < d.int Reg.rxMarginMin f then d.setInt Reg.rxMarginMin m f else d
    else (d.bump Reg.rxLate f).noticeOnce (0x340300000 + f) 0x3403 (f * 65536)
  let d := d.bump Reg.rxPackets f
  let d := if d.nat Reg.rxState f = 2 then d else (d.setNat Reg.rxState 2 f).notice 0x3401 (f * 65536)
  if c.n ≤ late then d
  else
    let p : RxPacket := { first, good := late, n := c.n, channels := c.channels, wide := c.enc = 1, payload }
    d.setRx f fun x => { x with packets := p :: x.packets.filter fun y => decide (r - 544 ≤ y.first) }

/-- The date in which a packet of a flow arrives; a perturbation takes it later (R297, Table 19-4). -/
def arrivalDate (d : Dev) (f : Nat) : Nat :=
  let late := nget 0 d.perturb.rxDelay f * 786432 / 1000000
  if late = 0 then d.mscNow else d.mscNow + (d.clock - d.tickAt + late) / d.tickCycles

/-- FLOW_PACKET_RECEIVE: a packet that a flow claimed, from port `p` (R296, R297, R314). An early packet is dropped before the
duplicate window takes its key, so that a copy in time can still supply the samples. -/
def flowReceive (f p : Nat) (q : Parsed) (w : Octets) (d : Dev) : Dev :=
  let a := d.arrivalDate f
  let c := d.rxCfg a f
  let b := q.payload
  let ext := (beAt b 0 1).testBit 4
  let off := if ext then 16 + 4 * beAt b 14 2 else 12
  let payload := b.drop off
  let bad := beAt b 0 1 / 64 ≠ 2 || (beAt b 0 1).testBit 5 || beAt b 0 1 % 16 ≠ 0 || beAt b 1 1 % 128 ≠ c.ptype ||
    payload.length ≠ c.channels * c.n * sampleOctets c.enc
  let d := { d with flows := { d.flows with reload := nerase d.flows.reload f } }
  if bad then d.bump Reg.rxMalformed f
  else if d.tooEarly c a (beAt b 4 4) then d.bump Reg.rxEarly f
  else
    let i := if p = c.port then 0 else 1
    let ssrc := beAt b 8 4
    let accept (d : Dev) : Dev :=
      let changed := (d.rxFlow f).haveSsrc && d.nat Reg.rxSsrc f != ssrc
      let d := (d.setNat Reg.rxSsrc ssrc f).setRx f fun r => { r with haveSsrc := true }
      let d := if changed then d.notice 0x3407 (f * 65536) else d
      (d.pathUp f i).placePacket f a c (beAt b 4 4) payload
    if c.second = 0xFF then accept d
    else
      let t := prpTrailer q w
      let k := d.dualKey f (t.getD (beAt b 2 2)) t.isSome q.sa
      match k.1 with
      | none => accept k.2
      | some true => (k.2.pathUp f i).bump Reg.rxDuplicates f
      | some false => k.2.bump Reg.rxLate f

/-- RX_FLOW_TIMEOUT: no accepted packet for RxTimeout on any path, so that neither is up (R301, R315); the recorder's cause 3 (R375).
The one path of a flow without a second port is no longer up. -/
def flowTimeout (f : Nat) (d : Dev) : Dev :=
  if d.nat Reg.rxState f ≠ 2 then d
  else
    d.onDue ((d.rxFlow f).lastAt + msCycles (d.nat Reg.rxTimeout)) fun d =>
    let d := if d.nat Reg.rxSecondPort f = 0xFF then (d.setRx f fun r => { r with paths := [none, none] }).setNat Reg.rxPathState 0 f else d
    ((d.setNat Reg.rxState 3 f).notice 0x3402 (f * 65536)).recTrigger 3

/-- RX_PATH_TIMEOUT: a path of a dual-path flow delivers nothing for RxTimeout (R315). -/
def pathTimeout (f i : Nat) (d : Dev) : Dev :=
  match (d.rxFlow f).paths.getD i none with
  | some t =>
    if d.nat Reg.rxSecondPort f = 0xFF then d
    else
      d.onDue (t + msCycles (d.nat Reg.rxTimeout)) fun d =>
      let d := d.setRx f fun r => { r with paths := r.paths.set i none }
      (d.setNat Reg.rxPathState (setBit (d.nat Reg.rxPathState f) i false) f).notice 0x3404 (f * 65536 + i)
  | none => d

/-- RX_MARGIN_CLEAR (Table 10-5). -/
def marginClear (f : Nat) (arg : Octets) (d : Dev) : Status × Dev :=
  if arg = ascii "clear" then (Status.ok, d.setInt Reg.rxMarginMin 0x7FFFFFFF f) else (Status.range, d)

/-- The sample of a channel at a media count, if it is in the buffer: the one that was stored there last (R299, R300, R303). -/
def flowSample? (r : RxFlow) (ch : Nat) (count : Int) : Option Int :=
  let covers (n : Int) (p : RxPacket) : Bool := decide (p.first + p.good ≤ n) && decide (n < p.first + p.n)
  if r.packets.any (covers (count + 512)) || r.holes.contains (count, ch) then none
  else (r.packets.find? (covers count)).map fun p =>
    let i := (count - p.first).toNat * p.channels + ch
    if p.wide then beAtS p.payload (3 * i) 3 * 256 else beAtS p.payload (2 * i) 2 * 65536

/-- How many samples in a row, ending before a count, are present; 32 at most. -/
def presentRun (r : RxFlow) (ch : Nat) : Nat → Int → Nat
  | 0, _ => 0
  | n + 1, count => if (flowSample? r ch (count - 1)).isSome then presentRun r ch n (count - 1) + 1 else 0

/-- A flow channel's sample at a media count as its consumers read it: 0 where missing, faded in after (R300). -/
def flowValue (d : Dev) (f ch : Nat) (count : Int) : Int :=
  let r := d.rxFlow f
  if (nget? d.flows.reload f).isSome then 0
  else match flowSample? r ch count with
  | none => 0
  | some x => (x * presentRun r ch 32 count + 16) / 32

/-- Where the examination for lost packets begins: with the first packet in the buffer that has yet to be read past. -/
def lossStart (d : Dev) (c : RxCfg) (a : Nat) (r : RxFlow) : Option Int :=
  (r.packets.filter fun p => decide (d.lastRead c a < p.first + p.n)).foldl (fun (m : Option Int) p => match m with
    | some x => some (min x p.first)
    | none => some p.first) none

/-- Packets whose samples are all missing, counted once they have been read past, while the flow runs (R300). -/
def countLost (f a : Nat) (d : Dev) : Dev :=
  let c := d.rxCfg a f
  let r := d.rxFlow f
  match r.lostTo with
  | none => match d.lossStart c a r with | some l => d.setRx f fun r => { r with lostTo := some l } | none => d
  | some l =>
    let top := d.lastRead c a
    if top < l + c.n - 1 ∨ c.n = 0 then d
    else
      let lost := !(List.range c.n).any fun i => r.packets.any fun p => decide (p.first + p.good ≤ l + i) && decide (l + i < p.first + p.n)
      let d := d.setRx f fun r => { r with lostTo := some (l + c.n), holes := r.holes.filter fun h => decide (l - 64 ≤ h.1) }
      if lost && d.nat Reg.rxState f == 2 then (d.bump Reg.rxLost f).bump Reg.rxLostTotal else d

/-! ### Transmit flows (R303 to R306, R313, R316) -/

/-- The egress plane's value at an egress date. -/
def egressAt (d : Dev) (date slot : Nat) : Int :=
  if slot = noSlot then 0
  else match d.flows.egress.find? fun e => e.1 == date with
  | some e => nget 0 e.2 slot
  | none => 0

/-- The value that a lane carries at an egress date, from its crossfades, newest first (R310). -/
def laneValue (d : Dev) (date slot : Nat) : List Ramp → Int
  | [] => d.egressAt date slot
  | r :: past =>
    if date < r.start then d.laneValue date r.old.toNat past
    else
      let i := date - r.start
      if r.len ≤ i then d.egressAt date r.new.toNat
      else crossMix (d.egressAt date r.old.toNat) (d.egressAt date r.new.toNat) (fadePos i r.len)

/-- The value that an output channel carries at an egress date, crossfades included (R304, R310). -/
def outValue (d : Dev) (key date : Nat) : Int :=
  d.laneValue date (nget noSlot d.flows.txSlots key) (nget [] d.flows.outFades key)

/-- A sample as octets of an encoding (R303). -/
def encodeSample (enc : Nat) (x : Int) : Octets := if enc = 0 then toBE 2 (wrapU 16 (to16 x)) else toBE 3 (wrapU 24 (to24 x))

/-- The RTP packet of a transmit flow for egress dates e to e + N − 1 (R304); channels in `zero` are sent as 0. -/
def rtpPacket (d : Dev) (f e : Nat) (zero : List Nat) : Octets :=
  let n := packetSamples (d.natAt e Reg.txPacketTime f) d.fr
  let enc := d.natAt e Reg.txEncoding f
  let ssrc := d.natAt e Reg.txSsrc f
  let body := (List.range n).flatMap fun i => (List.range (d.natAt e Reg.txChannels f)).flatMap fun ch =>
    encodeSample enc (if zero.contains ch then 0 else d.outValue (laneKey f ch) (e + i))
  toBE 1 0x80 ++ toBE 1 (d.natAt e Reg.txPayloadType f) ++ toBE 2 (e / max n 1 + ssrc) ++ toBE 4 (e + d.natAt e Reg.txRtpOffset f) ++ toBE 4 ssrc ++ body

/-- The frame of a flow packet, with the trailer of a dual-path flow: both copies carry the addresses of the flow's first port, so
that they are identical but for the trailer (R305, R313). -/
def flowFrame (d : Dev) (f e : Nat) (rtp : Octets) (trailer : Option (Nat × Nat)) : Octets :=
  let p := d.natAt e Reg.txPort f
  let dst := d.natAt e Reg.txGroup f
  let src := d.natAt e Reg.txSourceIp f
  let port := d.natAt e Reg.txUdpPort f
  let dscp := d.natAt e Reg.txDscp f
  let vlan := d.natAt e Reg.txVlan f
  let w := udpFrame (if isGroup dst then groupMac dst else Config.neighbour p dst) (d.nat Reg.macAddress p) vlan (dscp / 8) dscp
    (d.natAt e Reg.txTtl f) (if src = 0 then Config.ownIp p else src) dst port port (Config.packetField 1 rtp % 65536) (Config.packetField 2 rtp % 65536) rtp
  match trailer with
  | some (seq, lan) => w ++ toBE 2 seq ++ toBE 2 (lan * 4096 + (w.length + 6 - (if vlan = 0 then 14 else 18)) % 4096) ++ toBE 2 0x88FB
  | none => w

/-- One copy of a packet on one port: dropped and counted where the port is not UP or no SA may send, lost where a double-bit error of
the port's buffers takes it away (R287, R293, R306). -/
def sendFlow (f e p : Nat) (rtp : Octets) (trailer : Option (Nat × Nat)) (lost : List (Nat × Nat)) (d : Dev) : Dev :=
  if !d.portUp p then d.bump Reg.txFlowDrops f
  else if lost.contains (p, f) then (d.portCount p 0x2D).notice 0x300B p
  else
    let w := d.flowFrame f e rtp trailer
    let r := d.onWire p w
    match r.1 with
    | some image => r.2.flowSend p { ring := none, flow := some f, descs := [], octets := w, image, bad := false }
    | none => r.2.portCount p 0x2B

/-- The egress dates whose packet a flow sends in tick `k`, by the packet times in force at them (R304): of the dates that the path
has carried, those at which the flow is enabled. -/
def departures (d : Dev) (k f : Nat) : List Nat :=
  let ns := ([125, 250, 1000].map fun t => packetSamples t d.fr).filter fun n => n ≠ 0
  ((ns.map fun n => (n, n + f * n / 1024)).filter fun x =>
    decide (x.2 ≤ k) && decide (d.alm.startDate + x.2 ≤ k) && (k - x.2) % x.1 == 0 &&
      packetSamples (d.natAt (k - x.2) Reg.txPacketTime f) d.fr == x.1 &&
      d.natAt (k - x.2) Reg.txEnable f != 0 && d.natAt (k - x.2) Reg.txChannels f != 0).map fun x => k - x.2

/-- FLOW_PACKET_DEPART: the packet of a flow for egress date `e`, sent, withheld or dropped (R304, R306, R316). TxState follows while
the flow is enabled. -/
def flowDepart (gate : Bool) (zero : List (Nat × List Nat)) (lost : List (Nat × Nat)) (f : Nat) (d : Dev) (e : Nat) : Dev :=
  let first := d.natAt e Reg.txPort f
  let second := d.natAt e Reg.txSecondPort f
  let ports := if second = 0xFF then [first] else [first, second]
  let state (st : Nat) (d : Dev) : Dev := if d.txOn f then d.setNat Reg.txState st f else d
  if !gate then state 2 d
  else
    let up := ports.any d.portUp
    let d := state (if up then 1 else 3) d
    let d := if up then d.bump Reg.txPackets f else d
    let rtp := d.rtpPacket f e ((zero.find? fun z => z.1 == f).map (·.2) |>.getD [])
    if second = 0xFF then d.sendFlow f e first rtp none lost
    else
      let key := min first second * 4 + max first second
      let seq := nget 0 d.flows.prp key
      let d := { d with flows := { d.flows with prp := nset 0 d.flows.prp key ((seq + 1) % 65536) } }
      (d.sendFlow f e first rtp (some (seq, 0xA)) lost).sendFlow f e second rtp (some (seq, 0xB)) lost

/-- The elements of an array of which a dated value was replaced lately. -/
def changedElems (d : Dev) (r : Row) : List Nat :=
  (d.dated.filter fun x => x.key % 256 == r.sub && r.base ≤ x.key / 256 && x.key / 256 < r.base + r.count.limit).map fun x => x.key / 256 - r.base

/-- Every transmit flow in tick `k`: also one that a commit has disabled since, for the dates before it (R304). -/
def flowsDepart (k : Nat) (gate : Bool) (zero : List (Nat × List Nat)) (lost : List (Nat × Nat)) (d : Dev) : Dev :=
  (d.txFlows ++ (d.changedElems Reg.txEnable ++ d.changedElems Reg.txChannels).eraseDups.filter fun f => !d.txOn f).foldl (fun (d : Dev) f => (d.departures k f).foldl (fun (d : Dev) e => d.flowDepart gate zero lost f e) d) d

/-- The egress plane of a date kept for the packets and port slots that will carry it. -/
def keepEgress (date : Nat) (m : NMap Int) (d : Dev) : Dev :=
  { d with flows := { d.flows with egress := ((date, m) :: d.flows.egress).take 640 } }

/-- What a commit at a boundary does to the flows (R301, R309): flows to restart, flows and TDM ports whose tables were
swapped, transmit flows and TDM outputs whose tables were swapped. -/
def commitFlows (date : Nat) (restart swapRx swapTdm swapTx swapTdmOut : List Nat) (d : Dev) : Dev :=
  let d := restart.foldl (fun d f => d.restartRx f) d
  let moved (c : Nat) : Bool :=
    if c = 0 then false
    else if c < 0x20000 then swapRx.contains ((c - 1) / 64)
    else if 0x30000 ≤ c && c < 0x40000 then swapTdm.contains ((c - 0x30000) / 32)
    else false
  let cleared (c : Nat) : Bool := 0 < c && c < 0x20000 && restart.contains ((c - 1) / 64)
  let d := d.remap date moved cleared
  let keys := (swapTx.flatMap fun f => (List.range 64).map (laneKey f)) ++ (swapTdmOut.flatMap fun p => (List.range 32).map (laneKeyTdm p))
  let d := d.remapOut date keys
  let d := d.countDual
  let d := ((d.setElems Reg.txState).filter fun f => !d.txOn f).foldl (fun d f => d.setNat Reg.txState 0 f) d
  if restart.isEmpty then d else (List.range 4).foldl (fun d p => d.igmpRefresh p) d

end Dev

end Sys2Proof.Machine
end

