-- ==== Sys2Proof/Machine/Pool.lean ====
section
/-! DEFINITION. The conversion pool (chapter 8): assignment, resampling, ratio trackers, DC blocker. -/

namespace Sys2Proof.Machine

/-- The measured count A at time τ (R238), from the newest edges of a port and the frame of the newest, in 2^-32 samples. -/
def edgeCount (edges : List Nat) (frame s τ : Nat) : Option Int :=
  match edges with
  | e0 :: e1 :: _ =>
    let Δ : Int := (e0 : Int) - e1
    if Δ ≤ 0 then none else some (rdiv ((frame * Δ + ((τ : Int) - e0)) * 2 ^ 32) (Δ * 2 ^ s))
  | _ => none

/-- ρ_f of R239 from the newest five edges. -/
def fastRatio (edges : List Nat) (coreTick s : Nat) : Option Int :=
  match edges with
  | e0 :: _ :: _ :: _ :: e4 :: _ => if e4 < e0 then some (rdiv (4 * coreTick * 2 ^ 48) (((e0 - e4) * 2 ^ s : Nat) : Int)) else none
  | _ => none

/-- Whether a ρ_f lies within 0.4500 to 1.0100 of 2^48 (R245). -/
def ratioInRange (f : Int) : Bool := decide (45 * 2 ^ 48 ≤ f * 100) && decide (f * 100 ≤ 101 * 2 ^ 48)

/-- What an edge did to a tracker. -/
inductive TrackEvent where
  | quiet | acquired | jump | ranged
  deriving DecidableEq, Repr

/-- Entry to MUTE at a date (Table 8-4). -/
def Tracker.mute (t : Tracker) (f : Int) (at_ : Nat) : Tracker :=
  { t with state := 3, seen := 0, rhoF := f, rhoI := f, rhoA := f, muteAt := at_, heardTo := if t.state = 2 then at_ else t.heardTo, setDue := true }

/-- Entry to a silent state from a date on (Table 8-4): 1 ACQUIRE, 4 LOST, 5 RANGE; the loop's state is discarded. -/
def Tracker.silence (t : Tracker) (st at_ : Nat) : Tracker :=
  { t with state := st, seen := 0, rhoF := 0, rhoI := 0, muteAt := at_, heardTo := if t.state = 2 then at_ else t.heardTo, err := 0, setDue := false }

/-- A tracker that starts in ACQUIRE (Table 8-3). -/
def acquiring : Tracker := { resetTracker with state := 1 }

/-- The step of a tracker at an edge (Table 8-3, R243 to R245): `f` is ρ_f once five edges are known, `next` the first
date after the edge. -/
def Tracker.edge (t : Tracker) (f : Option Int) (inRange : Int → Bool) (next : Nat) : Tracker × TrackEvent :=
  let t := { t with rhoF := f.getD t.rhoF }
  if t.state = 4 then ({ t with state := 1, seen := 1 }, .quiet)
  else match f with
  | none => ({ t with seen := t.seen + 1 }, .quiet)
  | some f =>
    if t.state = 1 then
      if t.seen + 1 < 5 then ({ t with seen := t.seen + 1 }, .quiet)
      else if inRange f then (t.mute f next, .acquired)
      else (t.silence 5 next, .ranged)
    else if t.state = 5 then
      if !inRange f then ({ t with seen := 0 }, .quiet)
      else if t.seen + 1 < 5 then ({ t with seen := t.seen + 1 }, .quiet)
      else (t.mute f next, .acquired)
    else if !inRange f then (t.silence 5 next, .ranged)
    else if rdiv t.rhoI 100 < (f - t.rhoI).natAbs then (t.mute f next, .jump)
    else (t, .quiet)

/-- The fine loop (R240): the position error taken into the applied ratio, with the shifts of the loop. -/
def Tracker.loop (t : Tracker) (e : Int) (shI shA : Nat) : Tracker :=
  let rhoI := t.rhoI + rsh shI e
  { t with rhoI, rhoA := rhoI + e * 2 ^ shA, err := e }

/-- The position of a tracker, in 2^-32 samples (R235). -/
def Tracker.pos (t : Tracker) : Int := (t.acc + 2 ^ 15) / 2 ^ 16

/-- A value faded in over 32 dates from a start date (R231); 0 before it. -/
def fadeIn32 (start date : Nat) (x : Int) : Int :=
  if date < start then 0 else if date < start + 32 then (x * (date - start : Nat) + 16) / 32 else x

/-- The state code of a channel for ConvState (Table 8-6). -/
def ConvChan.stateCode (x : ConvChan) : Nat := if x.mode = 3 then x.tracker.state else if x.mode = 0 then 0 else 2

namespace Dev

/-- CoreClk cycles in one sample tick: T of R15. -/
def coreTick (d : Dev) : Nat := 2 * d.tickCycles

/-- A pool channel. -/
def conv (d : Dev) (c : Nat) : ConvChan := nget resetChan d.pool.chans c

/-- A pool channel changed, with its ConvState. -/
def setConv (c : Nat) (f : ConvChan → ConvChan) (d : Dev) : Dev :=
  let x := f (d.conv c)
  ({ d with pool := { d.pool with chans := nset resetChan d.pool.chans c x } }).setNat Reg.convState x.stateCode c

/-- The assigned channels. -/
def convs (d : Dev) : List (Nat × ConvChan) := d.pool.chans.filter fun p => p.2.mode ≠ 0

/-- The half-band stages of a channel (R233). -/
def convStages (d : Dev) (c : Nat) : Nat := halfStages (d.nat Reg.convNominalRate c) d.fr

/-- The word of a TDM input slot at a frame count, from the lead's words where a standby takes them (R355, R363). -/
def tdmWord (d : Dev) (p slot : Nat) (count : Int) : Int :=
  let t := d.tdm.get resetTdm p
  let l := if d.isLead || d.nat Reg.tdmRole p ≠ 0 then t.words else t.leadWords
  match l.find? fun w => decide ((w.1 : Int) = count) with
  | some w => lget 0 w.2 slot
  | none => 0

/-- The newest frame whose words a port holds. -/
def tdmNewest (d : Dev) (p : Nat) : Int :=
  match (d.tdm.get resetTdm p).words with
  | w :: _ => w.1
  | [] => -1

/-- The source sample of a channel at a source count (R228, R235); samples that a fault cleared read 0 (R249). -/
def convSource (d : Dev) (c : Nat) (count : Int) : Int :=
  if match (d.conv c).clearedTo with | some n => decide (count ≤ n) | none => false then 0
  else
    let i := d.nat Reg.convSourceIndex c
    let ch := d.nat Reg.convSourceChannel c
    match d.nat Reg.convSourceKind c with
    | 1 => d.flowValue i ch count
    | 2 => d.tdmWord i ch count
    | _ => 0

/-- The mode, nominal rate and conversion delay that an assignment takes from its source (Table 8-1, R233). -/
def convModeOf (d : Dev) (c : Nat) : Nat × Nat × Nat :=
  let i := d.nat Reg.convSourceIndex c
  match d.nat Reg.convSourceKind c with
  | 1 =>
    let fs := d.nat Reg.rxRate i
    if fs = d.fr then (1, fs, 0) else (2, fs, convDelayOf (halfStages fs d.fr))
  | 2 =>
    let fs := d.nat Reg.tdmRate i
    if d.nat Reg.tdmRole i ≠ 0 then (3, fs, convDelayOf (halfStages fs d.fr))
    else if fs = d.fr then (1, fs, 0) else (2, fs, convDelayOf (halfStages fs d.fr))
  | _ => (0, 0, 0)

/-- Whether a channel's source exists (R230, Table 8-6). -/
def convSourceOk (d : Dev) (c : Nat) : Bool :=
  match d.nat Reg.convSourceKind c with
  | 1 => d.nat Reg.convSourceIndex c < 1024 && d.nat Reg.convSourceChannel c < 64
  | 2 => d.nat Reg.convSourceIndex c < 4 && d.nat Reg.convSourceChannel c < 32
  | _ => true

/-- An assignment that commits at date D: the channel starts as Table 8-4 states (R230, R231). -/
def convAssign (date c : Nat) (d : Dev) : Dev :=
  let m := d.convModeOf c
  let d := ((d.setNat Reg.convMode m.1 c).setNat Reg.convNominalRate m.2.1 c).setNat Reg.convDelay m.2.2 c
  let ratio := if m.1 = 2 then (rdiv ((m.2.1 / 2 ^ halfStages m.2.1 d.fr * 2 ^ 48 : Nat) : Int) d.fr).toNat else 0
  let d := ((d.setNat Reg.convRatio ratio c).setInt Reg.convPhaseError 0 c).setNat Reg.convMeasuredRate (if m.1 = 1 ∨ m.1 = 2 then m.2.1 * 1000 else 0) c
  let d := d.setConv c fun x => { mode := m.1, startDate := date, dc := x.dc, zeroBlock := none, clearedTo := none
                                  tracker := if m.1 = 3 then acquiring else resetTracker }
  let d := { d with pool := { d.pool with out := nerase d.pool.out c } }
  d.setNat Reg.convInUse ((d.setElems Reg.convSourceKind).filter fun k => d.nat Reg.convSourceKind k ≠ 0).length

/-- Every stored assignment takes effect with held samples cleared, as the data path starts (R252). -/
def convStart (date : Nat) (d : Dev) : Dev :=
  (d.setElems Reg.convSourceKind).foldl (fun d c => d.convAssign date c) { d with pool := { d.pool with out := [], fromLead := [] } }

/-- MUTE as for a jump, with the newest ρ_f (Table 8-4, R245). -/
def convMute (c next : Nat) (d : Dev) : Dev := d.setConv c fun x => { x with tracker := x.tracker.mute x.tracker.rhoF next }

/-- The trackers of a slave port's channels at an FSYNC edge (R238, R239, R243, R245). -/
def poolEdge (p : Nat) (d : Dev) : Dev :=
  let edges := (d.tdm.get resetTdm p).edges
  d.convs.foldl (fun d x =>
    if x.2.mode ≠ 3 ∨ d.nat Reg.convSourceKind x.1 ≠ 2 ∨ d.nat Reg.convSourceIndex x.1 ≠ p then d
    else
      let c := x.1
      let next := d.mscNow + 1
      let r := x.2.tracker.edge (fastRatio edges d.coreTick (d.convStages c)) ratioInRange next
      match r.2 with
      | .quiet => d.setConv c fun x => { x with tracker := r.1 }
      | .acquired => d.setConv c fun x => { x with startDate := next + 64, tracker := { r.1 with noted := some (d.nat Reg.convMeasuredRate c) } }
      | .jump => ((d.setConv c fun x => { x with tracker := r.1 }).bump Reg.convJumps c).notice 0x9401 (c * 65536)
      | .ranged => (d.setConv c fun x => { x with tracker := r.1 }).notice 0x9405 (c * 65536)) d

/-- A loss of FSYNC puts the port's TRACKED channels in LOST (R244). -/
def poolLoss (p : Nat) (d : Dev) : Dev :=
  d.convs.foldl (fun d x =>
    let c := x.1
    if x.2.mode ≠ 3 ∨ x.2.tracker.state = 4 ∨ d.nat Reg.convSourceKind c ≠ 2 ∨ d.nat Reg.convSourceIndex c ≠ p then d
    else ((d.setConv c fun x => { x with tracker := x.tracker.silence 4 (d.mscNow + 1) }).bump Reg.convLosses c).notice 0x9402 (c * 65536)) d

/-- CONV_MUTE_END: 64 dates after entry to MUTE the channel runs again, with a fade-in (R242). -/
def convMuteEnd (c : Nat) (d : Dev) : Dev :=
  let t := (d.conv c).tracker
  if (d.conv c).mode = 3 ∧ t.state = 3 ∧ t.muteAt + 64 ≤ d.mscNow then
    d.setConv c fun x => { x with startDate := t.muteAt + 64, tracker := { x.tracker with state := 2 } }
  else d

/-- The rate of a port from the edges of the last 250 ms, in 0.001 Hz (R241). -/
def portRate (d : Dev) (edges : List Nat) : Nat :=
  let now := d.mscNow * d.coreTick + 2 * (d.clock - d.tickAt)
  let back := 393216000
  match edges.getLast? with
  | none => 0
  | some oldest =>
    if now < oldest + back then 0
    else
      let l := edges.filter fun e => now < e + back
      match l.head?, l.getLast? with
      | some a, some b => if b < a then (rdiv (((l.length - 1) * 1572864000 * 1000 : Nat) : Int) ((a - b : Nat) : Int)).toNat else 0
      | _, _ => 0

/-- The measured rate of a TRACKED channel, and notice 0x9404 where it differs by more than 0.1 % from the rate last noted:
also where it falls to 0, or rises from a value of 0 at acquisition (R241). -/
def convRate (c rate : Nat) (d : Dev) : Dev :=
  let d := d.setNat Reg.convMeasuredRate rate c
  match (d.conv c).tracker.noted with
  | none => d
  | some noted =>
    if noted < ((rate : Int) - noted).natAbs * 1000 then
      (d.setConv c fun x => { x with tracker := { x.tracker with noted := some rate } }).notice 0x9404 (c * 65536 + (rate + 5000) / 10000 % 65536)
    else d

/-- CONV_FINE_LOOP: once per block at boundary 32b, for every TRACKED channel (R240, R241). -/
def convFineLoop (d : Dev) : Dev :=
  let τ := d.mscNow * d.coreTick
  d.convs.foldl (fun d x =>
    let c := x.1
    if x.2.mode ≠ 3 then d
    else
      let port := d.tdm.get resetTdm (d.nat Reg.convSourceIndex c)
      let s := d.convStages c
      let delay : Int := convDelayOf s * 2 ^ 32
      let t := x.2.tracker
      let d : Dev := match edgeCount port.edges port.frame s τ with
        | some a =>
          if t.state = 2 ∨ t.state = 3 then
            let t := if t.setDue then { t with acc := (a - delay) * 2 ^ 16, setDue := false } else t
            let t := t.loop (a - t.pos - delay) (if d.fast then 5 else 3) (if d.fast then 4 else 5)
            ((d.setConv c fun x => { x with tracker := t }).setNat Reg.convRatio t.rhoA.toNat c).setInt Reg.convPhaseError t.err c
          else d
        | none => d
      d.convRate c (d.portRate port.edges)) d

/-- The sample of a TRACKED channel at its position, or none where its taps need a sample not held: a slip (R245). -/
def trackedSample (d : Dev) (c : Nat) : Option Int :=
  let p := d.nat Reg.convSourceIndex c
  let s := d.convStages c
  let pos := (d.conv c).tracker.pos
  let top := topInput s (pos / 2 ^ 32 + 32)
  let n := pos / 2 ^ 32 - 31
  let bottom : Int := match s with | 0 => n | 1 => 2 * n - 23 | _ => 4 * n - 69
  let newest := d.tdmNewest p
  let gone : Bool := match (d.conv c).clearedTo with | some k => decide (bottom ≤ k) | none => false
  if newest < top ∨ bottom < newest - 511 ∨ bottom < 0 ∨ gone then none
  else some (resample (decimated s (d.convSource c)) pos)

/-- The DC blocker for one converted sample (R246, R247): the output and the new estimate. -/
def dcBlock (d : Dev) (c date : Nat) (dc v : Int) : Int × Int :=
  if d.natAt date Reg.convDcEnable c = 0 then (v, dc)
  else
    let k := d.natAt date Reg.convDcShift c
    let dc := if d.natAt date Reg.convDcFreeze c ≠ 0 then dc else dc + (v * 2 ^ 16 - dc + 2 ^ (k - 1)) / 2 ^ k
    (satAudio (v - (dc + 2 ^ 15) / 2 ^ 16), dc)

/-- The output of a channel for a date, through the DC blocker and the fades. -/
def convOut (date c start : Nat) (v : Int) (d : Dev) : Dev :=
  let x := d.conv c
  let r := d.dcBlock c date x.dc v
  let y := heldValue (x.zeroBlock.map fun b => (b, b)) date (fadeIn32 start date r.1)
  let d := d.setConv c fun x => { x with dc := r.2 }
  { d with pool := { d.pool with out := nset 0 d.pool.out c y } }

/-- A channel without output for a date. -/
def convSilent (c : Nat) (d : Dev) : Dev := { d with pool := { d.pool with out := nerase d.pool.out c } }

/-- The step of one channel for an ingress date (R231, R235, R237, R242, R245). -/
def convStep (date : Nat) (d : Dev) (c : Nat) : Dev :=
  let x := d.conv c
  match x.mode with
  | 1 =>
    let n : Int := if d.nat Reg.convSourceKind c = 1 then (date : Int) - d.natAt date Reg.rxLinkOffset (d.nat Reg.convSourceIndex c) else (date : Int) - 2
    d.convOut date c x.startDate (d.convSource c n)
  | 2 =>
    let o : Int := if d.nat Reg.convSourceKind c = 1 then d.natAt date Reg.rxLinkOffset (d.nat Reg.convSourceIndex c) else 0
    let s := d.convStages c
    let pos := lockedPos date o (d.nat Reg.convNominalRate c) s d.fr
    d.convOut date c x.startDate (resample (decimated s (d.convSource c)) pos)
  | 3 =>
    let t := x.tracker
    let heard := t.state = 2 ∨ date < t.heardTo
    let d := if heard then
        match d.trackedSample c with
        | some v => d.convOut date c x.startDate v
        | none =>
          if t.state = 2 then (((d.convMute c date).bump Reg.convSlips c).notice 0x9403 (c * 65536)).convSilent c
          else d.convSilent c
      else d.convSilent c
    d.setConv c fun x => { x with tracker := { x.tracker with acc := x.tracker.acc + x.tracker.rhoA } }
  | _ => d.convSilent c

/-- Every channel for an ingress date. -/
def convTick (date : Nat) (d : Dev) : Dev := d.convs.foldl (fun d x => d.convStep date x.1) d

/-- The value that a channel writes into its slot: on a standby a TRACKED channel takes the lead's (R248). -/
def convValue (d : Dev) (c : Nat) : Int :=
  if (d.conv c).mode = 3 ∧ !d.isLead then nget 0 d.pool.fromLead c else nget 0 d.pool.out c

/-- Every assigned channel with its held samples and tracker cleared and d kept, as the data path stops (R593); ConvState
follows (Table 8-6). -/
def convClear (d : Dev) : Dev :=
  d.convs.foldl (fun d x =>
    d.setConv x.1 fun y => { y with tracker := if y.mode = 3 then acquiring else resetTracker, clearedTo := none, zeroBlock := none })
    { d with pool := { d.pool with out := [], fromLead := [] } }

/-- A unit that takes the lead: its TRACKED channels enter MUTE and go on from its own tracker (R248). -/
def convTakeLead (d : Dev) : Dev :=
  d.convs.foldl (fun d x =>
    if x.2.mode = 3 ∧ (x.2.tracker.state = 2 ∨ x.2.tracker.state = 3) then d.convMute x.1 (d.mscNow + 1) else d) d

/-- A pool fault of a channel at an ingress date (R249): 1 residue, 2 memory. -/
def convFault (c kind date : Nat) (d : Dev) : Dev :=
  let x := d.conv c
  let newest : Int := match d.nat Reg.convSourceKind c with
    | 1 => d.lastRead (d.rxCfg date (d.nat Reg.convSourceIndex c)) date
    | _ => d.tdmNewest (d.nat Reg.convSourceIndex c)
  let d := d.setConv c fun y => { y with zeroBlock := some (date / 32), clearedTo := some newest
                                         tracker := if x.mode = 3 then acquiring else resetTracker }
  let d := { d with pool := { d.pool with out := nerase d.pool.out c } }
  (d.bump (if kind = 1 then Reg.convResidueErrors else Reg.convEccUncorrected)).notice 0x9406 (c * 65536 + kind)

/-- ConvDcEstimate: d narrowed to Q1.31 (Table 8-6). -/
def convDcEstimate (d : Dev) (c : Nat) : Int := satAudio (((d.conv c).dc + 2 ^ 15) / 2 ^ 16)

end Dev

end Sys2Proof.Machine
end

