-- ==== Sys2Proof/Machine/Local.lean ====
section
/-! DEFINITION. The TDM ports and the headset port (chapter 12). -/

namespace Sys2Proof.Machine

/-- The half-band stages of an output converter: the largest s with Fr / 2^s at or above the port's rate (R359). -/
def outStages (fr rate : Nat) : Nat := if fr < rate then 0 else if rate ≤ fr / 4 then 2 else if rate ≤ fr / 2 then 1 else 0

/-- A word as it enters Q1.31 (R355). -/
def wordIn (bits w : Nat) : Int := wrapS 32 (w * 2 ^ (32 - bits) : Nat)

/-- A sample as a word of a number of bits (R355). -/
def wordOut (bits : Nat) (x : Int) : Nat := wrapU bits (satS bits (rsh (32 - bits) x))

namespace Dev

/-- A TDM port. -/
def tdmPort (d : Dev) (p : Nat) : TdmPort := d.tdm.get resetTdm p

/-- A TDM port changed. -/
def setTdm (p : Nat) (f : TdmPort → TdmPort) (d : Dev) : Dev := { d with tdm := d.tdm.modify p f }

/-- TdmState changed, with its notice (Table 12-3). -/
def setTdmState (p st : Nat) (d : Dev) : Dev :=
  if d.nat Reg.tdmState p = st then d else (d.setNat Reg.tdmState st p).notice 0x9001 (p * 65536 + st)

/-- The rules of R353 and the ranges that depend on other entries (Table 12-3). -/
def tdmConfigOk (d : Dev) (p : Nat) : Bool :=
  let role := d.nat Reg.tdmRole p
  let rate := d.nat Reg.tdmRate p
  let slots := d.nat Reg.tdmSlots p
  let frame := d.nat Reg.tdmFrameBits p
  let slotBits := d.nat Reg.tdmSlotBits p
  (d.nat Reg.tdmFormat p == 2 || slots == 0 || slots == 2) && d.nat Reg.tdmWordBits p ≤ slotBits &&
  (if role = 0 then [48000, 96000, 192000].contains rate && [32, 64, 128, 256, 512, 1024].contains frame && decide (slots * slotBits ≤ frame) && decide (rate * frame ≤ 49152000)
   else [44100, 48000, 88200, 96000, 176400, 192000].contains rate)

/-- The rows of the format and role entries, sub-indices 01 to 0A. -/
def tdmRows : List Row :=
  [Reg.tdmRole, Reg.tdmFormat, Reg.tdmRate, Reg.tdmSlots, Reg.tdmSlotBits, Reg.tdmWordBits, Reg.tdmFrameBits, Reg.tdmFsyncWidth, Reg.tdmDataDelay, Reg.tdmBclkInvert]

/-- The row of a format or role entry. -/
def tdmRow (sub : Nat) : Option Row := tdmRows.find? fun r => r.sub == sub

/-- TDM_MASK_WRITE: the pending mask, and the active one where no frame runs (R360). -/
def tdmMaskWrite (p : Nat) (transmit : Bool) (mask : Nat) (d : Dev) : Dev :=
  let pend := if transmit then Reg.tdmTxMaskPending else Reg.tdmRxMaskPending
  let act := if transmit then Reg.tdmTxMaskActive else Reg.tdmRxMaskActive
  if 4 ≤ p then d
  else
    let d := (d.setNat pend (mask % 2 ^ 32) p).keep pend p
    if d.nat Reg.tdmSlots p = 0 ∨ (d.nat Reg.tdmRole p = 1 ∧ d.nat Reg.tdmState p ≠ 2) then d.setNat act (mask % 2 ^ 32) p else d

/-- The CoreClk cycle from MSC 0 at which a master frame starts (R356). -/
def masterStart (d : Dev) (p c : Nat) : Nat := (rdiv ((c * d.coreTick * d.fr : Nat) : Int) (max (d.nat Reg.tdmRate p) 1)).toNat

/-- The first master frame that starts at or after a CoreClk cycle. -/
def masterFrame (d : Dev) (p at_ : Nat) : Nat :=
  let c := at_ * d.nat Reg.tdmRate p / (d.coreTick * d.fr)
  if at_ ≤ d.masterStart p c then c else if at_ ≤ d.masterStart p (c + 1) then c + 1 else c + 2

/-- The slot values of a frame through a receive mask, each word of the port's width (R355, R360). -/
def tdmMasked (d : Dev) (p mask : Nat) (words : List Nat) : List Int :=
  let bits := d.nat Reg.tdmWordBits p
  (List.range (d.nat Reg.tdmSlots p)).map fun k => if mask.testBit k then wordIn bits (lget 0 words k % 2 ^ bits) else 0

/-- The words of the frame that ended, through the active receive mask and a fault's zeros and fade (R355, R361, R364). -/
def tdmCapture (p frame : Nat) (short : Bool) (words : List Nat) (d : Dev) : Dev :=
  let t := d.tdmPort p
  let mask := d.nat Reg.tdmRxMaskActive p
  let vals := (d.tdmMasked p mask words).map fun x =>
    if short || t.zeroNext then 0 else match t.fadeFrame with | some s => fadeIn32 s frame x | none => x
  d.setTdm p fun t => { t with words := ((frame, vals) :: t.words).take 512, ended := ((frame, mask, words) :: t.ended).take 16
                               zeroNext := false, fadeFrame := if t.zeroNext then some (frame + 1) else t.fadeFrame }

/-- The lead's raw words of a frame of a master port, in place of the standby's own SDI, through the mask that the standby had
in force over that frame (R363). -/
def tdmFromLead (p frame : Nat) (words : List Nat) (d : Dev) : Dev :=
  let mask := match (d.tdmPort p).ended.find? fun x => x.1 == frame with | some x => x.2.1 | none => d.nat Reg.tdmRxMaskActive p
  d.setTdm p fun t => { t with leadWords := ((frame, d.tdmMasked p mask words) :: t.leadWords).take 512 }

/-- The raw words of a master port's frames that ended in tick `k`, oldest first (R363). -/
def tdmEnded (d : Dev) (p k : Nat) : List (Nat × List Nat) :=
  if d.nat Reg.tdmRole p ≠ 0 then []
  else (((d.tdmPort p).ended.filter fun x => decide (k * d.coreTick ≤ d.masterStart p (x.1 + 1))).map fun x => (x.1, x.2.2)).reverse

/-- The used output slots of a port (R359). -/
def tdmUsed (d : Dev) (p : Nat) : List Nat :=
  (List.range (d.nat Reg.tdmSlots p)).filter fun k => nget noSlot d.flows.txSlots (laneKeyTdm p k) ≠ noSlot

/-- Whether a port's output converter forms its words (R358). -/
def tdmConverts (d : Dev) (p : Nat) : Bool := !d.tdmDirect p && !(d.tdmUsed p).isEmpty

/-- The egress stream of an output slot, as a function of the egress date. -/
def tdmStream (d : Dev) (p k : Nat) (date : Int) : Int := if date < 0 then 0 else d.outValue (laneKeyTdm p k) date.toNat

/-- The position Qq of a frame of a port's output converter (R359). -/
def tdmPos (d : Dev) (p c : Nat) : Int :=
  let s := outStages d.fr (d.nat Reg.tdmRate p)
  if d.nat Reg.tdmRole p = 0 then rdiv ((c * (d.fr / 2 ^ s) * 2 ^ 32 : Nat) : Int) (max (d.nat Reg.tdmRate p) 1) - (36 + 12 * s : Nat) * 2 ^ 32
  else (d.tdmPort p).tracker.pos

/-- Whether the taps of a slave converter's position are all held: egress dates up to the newest, 512 of them (R245). -/
def tdmHeld (d : Dev) (p c : Nat) : Bool :=
  let s := outStages d.fr (d.nat Reg.tdmRate p)
  let n := d.tdmPos p c / 2 ^ 32
  let newest : Int := match d.flows.egress with | e :: _ => (e.1 : Int) | [] => -1
  let bottom : Int := match s with | 0 => n - 31 | 1 => 2 * (n - 31) - 23 | _ => 4 * (n - 31) - 69
  decide (topInput s (n + 32) ≤ newest) && decide (newest - 511 ≤ bottom)

/-- A word of the output converter. -/
def tdmConverted (d : Dev) (p c k : Nat) : Int :=
  resample (decimated (outStages d.fr (d.nat Reg.tdmRate p)) (d.tdmStream p k)) (d.tdmPos p c)

/-- TdmOutState and TdmOutRatio as the converter has them, with notice 0x9002 where one is called for. -/
def tdmShow (p : Nat) (tell : Bool) (d : Dev) : Dev :=
  let t := (d.tdmPort p).tracker
  let slave := d.nat Reg.tdmRole p ≠ 0
  let s := outStages d.fr (d.nat Reg.tdmRate p)
  let st := if !d.tdmConverts p then 0 else if slave then t.state else 2
  let ratio := if !d.tdmConverts p then 0 else if slave then t.rhoA.toNat
    else (rdiv ((d.fr / 2 ^ s * 2 ^ 48 : Nat) : Int) (max (d.nat Reg.tdmRate p) 1)).toNat
  let d := (d.setNat Reg.tdmOutState st p).setNat Reg.tdmOutRatio ratio p
  if tell then d.notice 0x9002 (p * 65536 + st) else d

/-- A port with its entries as they stand, waiting to start (R356); its converter is in ACQUIRE (Table 8-3). -/
def tdmRestart (p : Nat) (d : Dev) : Dev :=
  let d := d.setTdm p fun t => { resetTdm with leadWords := t.leadWords, tracker := acquiring }
  ((d.setNat Reg.tdmFrameCount 0 p).setTdmState p (if d.nat Reg.tdmSlots p = 0 then 0 else 1)).tdmShow p false

/-- TDM_PORT_CONFIG_WRITE: checked per R353, and against the writers of the ingress plane (R12); the port restarts (R365). -/
def tdmConfigWrite (p sub v : Nat) (d : Dev) : Status × Dev :=
  match tdmRow sub with
  | none => (Status.noEntry, d)
  | some r =>
    let d' := (d.setNat r v p).keep r p
    let inRange := match r.range with
      | .within lo hi => decide (lo ≤ (v : Int)) && decide ((v : Int) ≤ hi)
      | .among l => l.contains (v : Int)
      | _ => r.ty != .bool || v ≤ 1
    if 4 ≤ p then (Status.noEntry, d)
    else if !inRange || !d'.tdmConfigOk p then (Status.range, d)
    else if !d'.writersOk then (Status.conflict, d)
    else (Status.ok, (d'.tdmRestart p).remap d.mscNow (fun _ => false) fun _ => false)

/-- The tracker of a slave port's output converter at the edge of frame `c` (R359). -/
def tdmTrack (p c : Nat) (slip : Bool) (d : Dev) : Dev :=
  let t := d.tdmPort p
  let s := outStages d.fr (d.nat Reg.tdmRate p)
  let f := match t.edges with
    | e0 :: _ :: _ :: _ :: e4 :: _ => some (rdiv ((e0 - e4) * 2 ^ 48 : Nat) ((4 * d.coreTick * 2 ^ s : Nat) : Int))
    | _ => none
  let r := (if t.tracker.state = 0 then acquiring else t.tracker).edge f (fun _ => true) (c + 1)
  let k := if slip ∧ r.2 = .quiet then r.1.mute r.1.rhoF (c + 1) else r.1
  let delay : Int := (36 + 12 * s : Nat) * 2 ^ 32
  let a : Int := match t.edges with | e0 :: _ => rdiv (e0 * 2 ^ 32 : Nat) ((d.coreTick * 2 ^ s : Nat) : Int) | [] => 0
  let k := if c % 32 = 0 ∧ (k.state = 2 ∨ k.state = 3) then
      let k := if k.setDue then { k with acc := (a - delay) * 2 ^ 16, setDue := false } else k
      k.loop (a - k.pos - delay) 5 4
    else k
  (d.setTdm p fun t => { t with tracker := { k with acc := k.acc + k.rhoA } }).tdmShow p (slip || r.2 == .jump)

/-- The values of a port's output slots in frame `c`, and whether its converter slipped (R358, R359). -/
def tdmValues (d : Dev) (p c : Nat) : List Int × Bool :=
  let slots := List.range (d.nat Reg.tdmSlots p)
  let used := d.tdmUsed p
  if d.tdmDirect p then (slots.map fun k => if c < 2 then 0 else d.outValue (laneKeyTdm p k) (c - 2), false)
  else if d.nat Reg.tdmRole p = 0 then (slots.map fun k => if used.contains k then d.tdmConverted p c k else 0, false)
  else
    let t := (d.tdmPort p).tracker
    let runs := t.state = 2
    let slip := decide (t.state = 2) && !d.tdmHeld p c
    if !runs ∨ slip ∨ used.isEmpty then (slots.map fun _ => 0, slip && !used.isEmpty)
    else (slots.map fun k => if used.contains k then fadeIn32 (t.muteAt + 64) c (d.tdmConverted p c k) else 0, false)

/-- The words of a frame put on SDO, through the active transmit mask and the pair rule (R355, R361, R363). -/
def tdmSend (p : Nat) (vals : List Int) (d : Dev) : Dev :=
  let drive := d.isLead || d.flag Reg.tdmPairDrive p
  let mask := d.nat Reg.tdmTxMaskActive p
  let bits := d.nat Reg.tdmWordBits p
  vals.zipIdx.foldl (fun d x =>
    if !drive then d.emit (.tdmIdle p x.2)
    else if mask.testBit x.2 then d.emit (.tdm p x.2 (wordOut bits x.1))
    else if d.nat Reg.tdmTxIdle p = 0 then d.emit (.tdmIdle p x.2) else d.emit (.tdm p x.2 0)) d

/-- The frame start proper: frame `c` starts at core cycle `τ`, the words of the frame before it are complete. -/
def tdmStart (p c τ : Nat) (words : List Nat) (bclks : Nat) (d : Dev) : Dev :=
  let t := d.tdmPort p
  let slave := d.nat Reg.tdmRole p ≠ 0
  let short := slave && decide (bclks < d.nat Reg.tdmSlots p * d.nat Reg.tdmSlotBits p)
  let d := if t.started then d.tdmCapture p (c - 1) short words else d.setTdm p fun t => { t with words := [], edges := [] }
  let d := if t.started ∧ slave then
      let d := d.setNat Reg.tdmFrameBitsSeen (bclks % 65536) p
      if short then d.bump Reg.tdmFrameErrors p else d
    else d
  let d := (d.setNat Reg.tdmRxMaskActive (d.nat Reg.tdmRxMaskPending p) p).setNat Reg.tdmTxMaskActive (d.nat Reg.tdmTxMaskPending p) p
  let keep (l : List Nat) : List Nat :=
    let new := l.filter fun e => τ < e + 393216000
    l.take (max (new.length + 1) 5)
  let d := d.setTdm p fun t =>
    let k := t.tracker
    let k := if k.state = 3 ∧ k.muteAt + 64 ≤ c then { k with state := 2 } else k
    { t with started := true, frame := c, edges := if slave then keep (τ :: t.edges) else [], tracker := k }
  let d := (d.setNat Reg.tdmFrameCount c p).setTdmState p 2
  let v := d.tdmValues p c
  let d := d.tdmSend p v.1
  if slave then (if d.tdmConverts p then d.tdmTrack p c v.2 else (d.setTdm p fun t => { t with tracker := resetTracker }).tdmShow p false).poolEdge p
  else d.tdmShow p false

/-- TDM_FRAME_START: a frame start edge; `words` and `bclks` are those of the frame that ended, `cycle` the CoreClk cycle
of a slave's edge within the tick (R356). -/
def tdmFrame (p : Nat) (words : List Nat) (bclks cycle : Nat) (d : Dev) : Dev :=
  let t := d.tdmPort p
  if 4 ≤ p ∨ d.nat Reg.tdmSlots p = 0 ∨ !d.power.state.answers then d
  else if d.nat Reg.tdmRole p = 0 then
    let from_ := d.msc * d.coreTick
    let c := max (d.masterFrame p from_) (if t.started then t.frame + 1 else 0)
    let τ := d.masterStart p c
    if !d.alm.aligned ∨ from_ + d.coreTick ≤ τ then d
    else
      let d := (d.advanceTo (d.tickAt + (τ - from_) / 2)).setTdm p fun t => { t with started := t.started && t.frame + 1 == c }
      d.tdmStart p c τ words bclks
  else
    let cycle := cycle % d.coreTick
    let d := if d.alm.aligned then d.advanceTo (d.tickAt + cycle / 2) else d
    let τ := if d.alm.aligned then d.msc * d.coreTick + cycle else 2 * d.clock
    d.tdmStart p (if t.started then t.frame + 1 else 0) τ words bclks

/-- The moment 2 nominal periods after a slave port's last frame start edge (R244). -/
def tdmLossDue (d : Dev) (p : Nat) : Nat :=
  let last := match (d.tdmPort p).edges with | e :: _ => e | [] => 0
  let now := if d.alm.aligned then d.msc * d.coreTick + 2 * (d.clock - d.tickAt) else 2 * d.clock
  d.clock + (last + 2 * 1572864000 / max (d.nat Reg.tdmRate p) 1 - now) / 2

/-- TDM_FSYNC_LOSS: no frame start edge for 2 nominal periods: the port's TRACKED channels and its converter are LOST, whether
or not the port had started (R242, R244, R364). -/
def tdmLoss (p : Nat) (d : Dev) : Dev :=
  if 4 ≤ p ∨ d.nat Reg.tdmRole p = 0 then d
  else
    d.onDue (d.tdmLossDue p) fun d =>
    let t := d.tdmPort p
    let used := d.tdmConverts p && t.tracker.state != 4
    let d := d.setTdm p fun t => { t with started := false, tracker := if used then t.tracker.silence 4 0 else t.tracker }
    let d := if used then d.tdmShow p true else d
    (if t.started then d.setTdmState p 3 else d).poolLoss p

/-- A double-bit error in a port's buffer: the words of its row are 0, and the next frame fades in (R364). -/
def tdmFault (p : Nat) (d : Dev) : Dev :=
  (d.setTdm p fun t => { t with zeroNext := true }).notice 0x9003 p

/-- Frames restart with the media count: at alignment, and when the data path is cleared (R356, R593). -/
def tdmRealign (d : Dev) : Dev :=
  (List.range 4).foldl (fun d p =>
    (d.setTdm p fun t => { t with started := if d.nat Reg.tdmRole p = 0 then false else t.started, edges := [], words := [], leadWords := []
                                  ended := [], tracker := acquiring }).tdmShow p false) d

/-! ### Headset (R366 to R371) -/

/-- Whether the microphone is heard: open, no button pressed, a headset plugged in (R367, R368). -/
def micHeard (d : Dev) : Bool := d.nat Reg.headsetType == 2 && d.flag Reg.headsetMicOpen && !d.flag Reg.headsetButton

/-- HeadsetMicOpen by the button mode (R367); a microphone that comes to be heard fades in from the next date. -/
def micUpdate (was : Bool) (d : Dev) : Dev :=
  let on := d.nat Reg.headsetType == 2 && match d.nat Reg.headsetButtonMode with
    | 0 => true
    | 1 => d.flag Reg.headsetButton
    | _ => d.headset.toggle
  let d := d.setFlag Reg.headsetMicOpen on
  if d.micHeard && !was then { d with headset := { d.headset with micOpenAt := some d.mscNow } } else d

/-- HeadsetType changed, with notice 0x9101; headphones fade in on insertion (R366, R368). -/
def setPlug (type : Nat) (d : Dev) : Dev :=
  if d.nat Reg.headsetType = type then d
  else
    let was := d.micHeard
    let d := if d.nat Reg.headsetType = 0 then { d with headset := { d.headset with hpAt := some d.mscNow } } else d
    ((d.setNat Reg.headsetType type).micUpdate was).notice 0x9101 type

/-- JACK_DETECT_CHANGE: an insertion or a removal, the level having been held for 50 ms (R366). -/
def jackChange (inserted : Bool) (d : Dev) : Dev :=
  if !d.power.state.answers ∨ d.headset.plugged = inserted then d
  else if inserted then { d with headset := { d.headset with plugged := true, jackSince := d.clock, measured := false } }
  else
    let d := { (d.setFlag Reg.headsetButton false) with headset := { d.headset with plugged := false, toggle := false } }
    d.setPlug 0

/-- MIC_BIAS_MEASURE: MIC_IN measured 100 ms after insertion, in microvolts (R366). -/
def micMeasure (microvolts : Nat) (d : Dev) : Dev :=
  if !d.headset.plugged ∨ d.headset.measured then d
  else
    d.onDue (d.headset.jackSince + msCycles 100) fun d =>
    ({ d with headset := { d.headset with measured := true } }).setPlug (if microvolts < 250000 then 1 else 2)

/-- HEADSET_RECLASSIFY: a type 1 plug whose MIC_IN stayed above 0.45 V for 500 ms (R366). -/
def headsetReclassify (d : Dev) : Dev := if d.nat Reg.headsetType = 1 then d.setPlug 2 else d

/-- HEADSET_BUTTON: a press or a release (R367). -/
def headsetButton (pressed : Bool) (d : Dev) : Dev :=
  if d.nat Reg.headsetType ≠ 2 ∨ d.flag Reg.headsetButton = pressed then d
  else
    let was := d.micHeard
    let d := d.setFlag Reg.headsetButton pressed
    let d := if pressed ∧ d.nat Reg.headsetButtonMode = 2 then { d with headset := { d.headset with toggle := !d.headset.toggle } } else d
    (d.micUpdate was).notice 0x9102 (b2n pressed)

/-- The microphone's value for ingress date `k`: the sample of tick k − 8, or what the lead sent (R368, R370). -/
def micValue (d : Dev) (k : Nat) : Int :=
  if !d.isLead then nget 0 d.pool.fromLead 512
  else if !d.micHeard then 0
  else
    let x := lget 0 d.headset.mic 7
    match d.headset.micOpenAt with | some s => fadeIn32 s k x | none => x

/-- The microphone sample of a tick taken in, newest first. -/
def micTake (x : Int) (d : Dev) : Dev := { d with headset := { d.headset with mic := (satAudio x :: d.headset.mic).take 8 } }

/-- HeadsetHpGain changed at a boundary: a ramp of 256 samples by the law of R212 (R368). -/
def hpGainChanged (date : Nat) (d : Dev) : Dev :=
  let old : Int := match rampFor d.headset.hpRamps date with
    | some r => rampValue r date
    | none => lin (d.intAt (date - 1) Reg.headsetHpGain)
  let r : Ramp := { start := date, len := 256, old, new := lin (d.int Reg.headsetHpGain) }
  { d with headset := { d.headset with hpRamps := r :: (d.headset.hpRamps.filter fun x => x.start ≠ date).take 3 } }

/-- One headphone channel in tick `k`: the egress slot as of date k − 8, scaled and faded (R368). -/
def hpValue (d : Dev) (row : Row) (k : Nat) : Int :=
  if k < 8 ∨ d.nat Reg.headsetType = 0 ∨ !d.power.state.runs then 0
  else
    let e := k - 8
    let slot := d.natAt e row
    let g : Int := match rampFor d.headset.hpRamps e with | some r => rampValue r e | none => lin (d.intAt e Reg.headsetHpGain)
    let x := satAudio ((d.egressAt e slot * g + 2 ^ 19) / 2 ^ 20)
    match d.headset.hpAt with | some s => fadeIn32 s k x | none => x

/-- A write of SideToneGain: the gain ramps linearly over 768 codec samples from its present value (R369). -/
def sideGainSet (g : Int) (d : Dev) : Dev :=
  let h := d.headset
  let now := if 768 ≤ h.sidePos then h.sideTo else h.sideFrom + rdiv ((h.sideTo - h.sideFrom) * h.sidePos) 768
  { d with headset := { h with sideFrom := now, sideTo := lin g, sidePos := 0 } }

/-- One codec sample of the side-tone on both channels; the interpolated feed is a free value (R369). -/
def sideSample (d : Dev) (x : Int) : Dev :=
  let h := d.headset
  let g := if 768 ≤ h.sidePos then h.sideTo else h.sideFrom + rdiv ((h.sideTo - h.sideFrom) * h.sidePos) 768
  let s := if d.micHeard then (satAudio x * g + 2 ^ 19) / 2 ^ 20 else 0
  let d := { d with headset := { h with sidePos := min 768 (h.sidePos + 1) } }
  (List.range 2).foldl (fun d _ =>
    let f := d.freeInt
    let v := satAudio f.1 + s
    let d := f.2.emit (.sideTone (satAudio v))
    if v = satAudio v then d else d.bump Reg.headsetClips) d

/-- The codec in tick `k`: headphone feed, side-tone, microphone (R368 to R370). -/
def headsetTick (k mic : Int) (side : List Int) (d : Dev) : Dev :=
  let d := d.emit (.headphone (d.hpValue Reg.headsetSlotL k.toNat) (d.hpValue Reg.headsetSlotR k.toNat))
  (side.foldl sideSample d).micTake mic

end Dev

end Sys2Proof.Machine
end

