-- ==== Sys2Proof/Machine/Time.lean ====
section
/-! DEFINITION. The Almanac, alignment, root sources, input checkers and PTP (chapter 11). -/

namespace Sys2Proof.Machine

/-- INC nominal (R322). -/
def incNominal : Nat := 0x145855555

/-- 500 ppm of INC nominal, in whole 2^-32 ns. -/
def incLimit : Int := 2730666

/-- sd(a, b) of R344. -/
def sd (a b : Int) : Int := (2 * a + b) / (2 * b)

/-- One nanosecond in 2^-32 ns. -/
def nsUnit : Int := 4294967296

/-- A record of the Almanac applied to an FRC value (R327). -/
def convertBy (r : Nat × Nat × Nat) (f : Nat) : Int := (r.2.1 : Int) + (((f : Int) - r.1) * r.2.2 + 8) / 16

/-- The fields of a PTP message that the servo and the leader algorithm read (IEEE 1588-2019). -/
structure PtpMsg where
  kind : Nat
  domain : Nat
  twoStep : Bool
  /-- correctionField, in 2^-32 ns. -/
  correction : Int
  source : Octets
  seq : Nat
  /-- The timestamp at octet 34, in 2^-32 ns. -/
  stamp : Int
  body : Octets
  deriving DecidableEq, Repr

/-- A PTP message read. -/
def parsePtp (b : Octets) : PtpMsg :=
  { kind := beAt b 0 1 % 16, domain := beAt b 4 1, twoStep := (beAt b 6 1).testBit 1, correction := beAtS b 8 8 * 65536,
    source := (b.drop 20).take 10, seq := beAt b 30 2, stamp := ((beAt b 34 6 * 1000000000 + beAt b 40 4 : Nat) : Int) * nsUnit, body := b.drop 34 }

/-- The data set of an Announce as one number whose order is that of the best leader clock algorithm: priority1, class,
accuracy, variance, priority2, identity, steps removed. -/
def announceRank (b : Octets) : Nat :=
  beAt b 13 1 * 2 ^ 120 + beAt b 14 1 * 2 ^ 112 + beAt b 15 1 * 2 ^ 104 + beAt b 16 2 * 2 ^ 88 + beAt b 18 1 * 2 ^ 80 + beAt b 19 8 * 2 ^ 16 + beAt b 27 2

/-- The parameters of Table 11-4: default and range, for profile 0 AES67 and 1 ST 2059-2. -/
def ptpRange (profile : Nat) (row : Row) : Option (Int × Int × Int) :=
  let p (a b : Int × Int × Int) : Option (Int × Int × Int) := some (if profile = 0 then a else b)
  if row.name = "PtpDomain" then p (0, 0, 127) (127, 0, 127)
  else if row.name = "PtpLogAnnounce" then p (1, 0, 4) (-2, -3, 1)
  else if row.name = "PtpLogSync" then p (-3, -4, 1) (-3, -7, -1)
  else if row.name = "PtpLogDelayReq" then p (0, -3, 5) (-3, -7, -1)
  else if row.name = "PtpAnnounceTimeout" then p (3, 2, 10) (3, 2, 10)
  else none

/-- The period of an input in cycles as numerator over denominator, in FRC units (R337). -/
def inputPeriod (rate : Nat) : Nat × Nat := (786432000 * 16, rate)

namespace Dev

/-- The Almanac changed. -/
def setAlm (d : Dev) (f : Almanac → Almanac) : Dev := { d with alm := f d.alm }

/-! ### Time bases (R321 to R327) -/

/-- An anchor or rebase record kept, 64 at most (R327). -/
def keepRecord (r : Nat × Nat × Nat) (d : Dev) : Dev := d.setAlm fun a => { a with records := (r :: a.records).take 64 }

/-- SN_ANCHOR: every 2^20 cycles in SN mode an anchor is recorded (R324). -/
def snAnchor (d : Dev) : Dev :=
  d.onPeriod 0x3800 1048576 fun d =>
  if d.alm.snMode then d.keepRecord (d.frc, d.almNow, d.alm.inc) else d

/-- An FRC value in Almanac time (R327). -/
def convert (d : Dev) (f : Nat) : Int :=
  match d.alm.records.find? fun r => r.1 ≤ f with
  | some r => convertBy r f
  | none => match d.alm.records.getLast? with
    | some r => convertBy r f
    | none => convertBy (d.frc, d.almNow, d.alm.inc) f

/-- FRC to SN (R325). -/
def toSn (d : Dev) : Dev :=
  if d.alm.snMode then d
  else
    let a := d.almNow
    ((d.setAlm fun x => { x with snMode := true }).setSn a).setNat Reg.timeMode 0

/-- SN to FRC (R325). -/
def toFrc (d : Dev) : Dev :=
  if !d.alm.snMode then d
  else
    let a := d.almNow
    (d.setAlm fun x => { x with snMode := false, base := d.frc, offset := a }).setNat Reg.timeMode 1

/-- ALMANAC_REBASE: in FRC mode, at the start of a boundary's tick (R323). -/
def rebase (d : Dev) : Dev :=
  if d.alm.snMode then d
  else
    let f := (d.tickAt - d.frcBase) * 16
    let a := d.almAtFrc f
    let inc := d.alm.pendingInc.getD d.alm.inc
    let d := d.setAlm fun x => { x with offset := a, base := f, inc, pendingInc := none }
    (d.keepRecord (f, a, inc)).setNat Reg.increment inc

/-- TIME_SET: "s.nnnnnnnnn" (R324, Table 11-8). -/
def timeSet (arg : Octets) (d : Dev) : Status × Dev :=
  let s := arg.takeWhile (· ≠ octet 0x2E)
  let n := arg.drop (s.length + 1)
  if !(d.alm.snMode && (!d.alm.aligned || d.flag Reg.timeTestMode)) then (Status.state, d)
  else match decimal? s, decimal? n with
  | some s, some n =>
    if 2 ^ 48 ≤ s ∨ (arg.drop (arg.length - 10)).head? ≠ some (octet 0x2E) ∨ 1000000000 ≤ n then (Status.range, d)
    else (Status.ok, d.setAlm fun x => { x with secs := s, nanos := n, frac := 0 })
  | _, _ => (Status.range, d)

/-- A realignment becomes due; in SHOW it is deferred with notice 0x3807 (R330). -/
def realignDue (d : Dev) : Dev :=
  if d.alm.realignDue then d
  else
    let d := d.setAlm fun x => { x with realignDue := true, deferred := d.power.state == .onShow, overRun := 0, thetaRun := 0 }
    if d.power.state = .onShow then d.notice 0x3807 0 else d

/-- TIME_TEST_MODE_WRITE (R326, R330). -/
def timeTestMode (v : Nat) (d : Dev) : Status × Dev :=
  if 1 < v then (Status.range, d)
  else if d.power.state = .onShow then (Status.state, d)
  else
    let was := d.flag Reg.timeTestMode
    let d := d.setNat Reg.timeTestMode v
    if v = 1 then (Status.ok, d.toSn) else if was then (Status.ok, d.realignDue) else (Status.ok, d)

/-! ### Root sources (R332 to R336) -/

/-- Whether a root source is qualified (Table 11-2). -/
def sourceOkNow (d : Dev) (code : Nat) : Bool :=
  let input (i : Nat) : Bool := d.flag Reg.inputEnable i && (d.alm.inputs.get resetInput i).qualified
  match code with
  | 1 => d.nat Reg.ptpServoState == 2 && !d.alm.deferred && !d.flag Reg.timeTestMode
  | 2 => input 0
  | 3 => input 1
  | 4 => input 3
  | 5 => input 2
  | 6 => d.alm.dradaOk
  | _ => false

/-- SourcePriority in rank order, empty ranks left out. -/
def sourceRanks (d : Dev) : List Nat := ((List.range 6).map fun j => d.nat Reg.sourcePriority 0 j).filter (· ≠ 0)

/-- The first qualified source in SourcePriority. -/
def bestSource (d : Dev) : Option Nat := d.sourceRanks.find? d.sourceOkNow

/-- The root follows another source: it slews, SourceSwitches and notice 0x3801 (R334). -/
def switchSource (new : Nat) (d : Dev) : Dev :=
  let old := d.nat Reg.selectedSource
  if old = new then d.setNat Reg.dpllState 1
  else ((((d.setNat Reg.selectedSource new).setNat Reg.dpllState 1).bump Reg.sourceSwitches).notice 0x3801 (old * 256 + new)).setAlm fun a => { a with everQualified := true }

/-- DPLL_SOURCE_SWITCH on a loss: holdover at an average of the control, which the spec leaves to the loop's history (a
free value within ±100 ppm), and at once towards the next qualified source (R333, R334). -/
def sourceLost (code : Nat) (d : Dev) : Dev :=
  let d := d.setAlm fun a => { a with qualifiedAt := nerase a.qualifiedAt code }
  if d.nat Reg.selectedSource ≠ code then d
  else
    let v := d.freeInt
    let d := (v.2.setInt Reg.rootOffset (clampI (-100000) 100000 v.1)).setNat Reg.dpllState 3
    let d := (((d.bump Reg.holdoverCount).notice 0x3802 code)).recTrigger 4
    match d.bestSource with
    | some s => d.switchSource s
    | none => d

/-- A source has become qualified: taken at once where the root runs free or holds over (R334, R335). -/
def sourceGained (code : Nat) (d : Dev) : Dev :=
  let d := d.setAlm fun a => { a with qualifiedAt := nput a.qualifiedAt code d.clock }
  let sel := d.nat Reg.selectedSource
  if sel = 0 ∨ d.nat Reg.dpllState = 3 then
    match d.bestSource with
    | some s => d.switchSource s
    | none => d
  else d

/-- REVERT_HOLDOFF: with Revertive at 1, a higher-ranked source qualified for RevertHoldoff is selected (R335). -/
def revert (d : Dev) : Dev :=
  if !d.flag Reg.revertive then d
  else
    let sel := d.nat Reg.selectedSource
    let above := (d.sourceRanks.takeWhile (· ≠ sel)).filter fun s => d.sourceOkNow s && (nget? d.alm.qualifiedAt s).isSome
    let due (s : Nat) : Nat := nget 0 d.alm.qualifiedAt s + msCycles (d.nat Reg.revertHoldoff)
    match above.find? fun s => due s ≤ d.clock, above with
    | some s, _ => d.switchSource s
    | none, s :: t =>
      let first := t.foldl (fun b x => if due x < due b then x else b) s
      d.onDue (due first) fun d => d.switchSource first
    | none, [] => d

/-- ROOT_DPLL_LOCKED: the slew reaches the source, whose offset from 64 × TCXO is given in ppb (R333). -/
def dpllLocked (ppb : Int) (d : Dev) : Dev :=
  if d.nat Reg.dpllState = 1 ∧ d.nat Reg.selectedSource ≠ 0 then
    (d.setNat Reg.dpllState 2).setInt Reg.rootOffset (clampI (-100000) 100000 ppb)
  else d

/-! ### Inputs (R337 to R339) -/

/-- An input checker. -/
def input (d : Dev) (i : Nat) : ClockInput := d.alm.inputs.get resetInput i

/-- An input checker changed. -/
def setInput (d : Dev) (i : Nat) (f : ClockInput → ClockInput) : Dev := d.setAlm fun a => { a with inputs := a.inputs.modify i f }

/-- The rate whose inverse is the expected period P of input `i`. -/
def inputRate (d : Dev) (i : Nat) : Nat := if i < 2 then d.nat Reg.wclkRate i else if i = 2 then 1 else 10000

/-- The root source code of an input. -/
def inputSource (i : Nat) : Nat := match i with | 0 => 2 | 1 => 3 | 2 => 5 | _ => 4

/-- InputState as the checker has it. -/
def showInput (i : Nat) (d : Dev) : Dev :=
  let c := d.input i
  d.setNat Reg.inputState (if !d.flag Reg.inputEnable i then 0 else if c.lost then 1 else if c.qualified then 3 else 2) i

/-- An input loses its qualification. -/
def disqualify (i : Nat) (d : Dev) : Dev :=
  let was := (d.input i).qualified
  let d := (d.setInput i fun c => { c with qualified := false, since := d.clock }).showInput i
  if was then d.sourceLost (inputSource i) else d

/-- Whether the mean of the last four accepted periods lies more than 1,000 ppm from P. -/
def offRate (d : Dev) (i : Nat) (periods : List Nat) : Bool :=
  let p := inputPeriod (d.inputRate i)
  let s := (periods.take 4).foldl (· + ·) 0
  periods.length ≥ 4 && decide ((((s * p.2 : Nat) : Int) - 4 * p.1).natAbs * 1000000 > 4 * 1000 * p.1)

/-- The fine path: periods of the edges of the last 250 ms, or of the last 4 edges for PPS_IN, over their span, in
0.001 Hz of the input (R339). -/
def measuredRate (i : Nat) (edges : List Nat) : Nat :=
  match edges, edges.getLast? with
  | e :: _ :: _, some l =>
    let n := (edges.length - 1) * 786432000 * 16 * 1000 * (if i = 3 then 1000 else 1)
    (2 * n + (e - l)) / (2 * (e - l))
  | _, _ => 0

/-- INPUT_EDGE: a rising edge, `frac` sixteenths into the cycle (R338, R339). REF_IN edges are those after its divider. -/
def inputEdge (i frac : Nat) (d : Dev) : Dev :=
  if 4 ≤ i ∨ !d.flag Reg.inputEnable i then d
  else
    let t := d.frc + frac % 16
    let c := d.input i
    let p := inputPeriod (d.inputRate i)
    match c.lastEdge, c.lost with
    | some l, false =>
      let dist := (t - l) * p.2
      let m := max 1 ((2 * dist + p.1) / (2 * p.1))
      if (((dist : Int) - m * p.1).natAbs) * 100 > 3 * m * p.1 then
        let d := if c.qualified then d else d.setInput i fun c => { c with since := d.clock }
        (d.bump Reg.inputGlitches i).noticeOnce (0x380300 + i) 0x3803 i
      else
        let periods := ((t - l) / m :: c.periods).take 4
        let keep := fun (e : Nat) => decide (t ≤ e + 786432000 * 4)
        let edges := if i = 2 then (t :: c.edges).take 4 else t :: c.edges.takeWhile keep
        let was := d.offRate i c.periods
        let d := d.setInput i fun c => { c with lastEdge := some t, periods, edges }
        let d := d.setNat Reg.inputMeasuredRate (measuredRate i edges) i
        let d := if i < 2 ∧ d.alm.aligned then
            d.setInt Reg.wclkPhase (rdiv (((d.tickAt + d.tickCycles : Nat) : Int) * 16 * 1000 - ((t + d.frcBase * 16 : Nat) : Int) * 1000) (786432 * 16) * 1000) i
          else d
        if d.offRate i periods then
          let d := d.disqualify i
          if was then d else (d.bump Reg.inputRateChanges i).notice 0x3805 i
        else d
    | _, _ => (d.setInput i fun _ => { resetInput with lastEdge := some t, edges := [t], lost := false, since := d.clock }).showInput i

/-- INPUT_LOSS: no accepted edge within 2 × 1.03 × P (R338). -/
def inputLoss (i : Nat) (d : Dev) : Dev :=
  match (d.input i).lastEdge, (d.input i).lost with
  | some l, false =>
    d.onDue (d.frcBase + l / 16 + 206 * 786432000 / (100 * d.inputRate i)) fun d =>
    let d := ((d.bump Reg.inputLosses i).notice 0x3804 i).disqualify i
    (d.setInput i fun c => { c with lost := true, periods := [], edges := [] }).showInput i
  | _, _ => d

/-- INPUT_QUALIFY: QualifyTime without a loss or a violation, with the fine rate within ±100 ppm (R338). -/
def inputQualify (i : Nat) (d : Dev) : Dev :=
  let c := d.input i
  if !d.flag Reg.inputEnable i || c.lost || c.qualified then d
  else
    d.onDue (c.since + msCycles (d.nat Reg.qualifyTime i)) fun d =>
    let want := d.inputRate i * 1000 * (if i = 3 then 1000 else 1)
    let got := d.nat Reg.inputMeasuredRate i
    if ((got : Int) - want).natAbs * 10000 > want then d
    else (((d.setInput i fun c => { c with qualified := true }).showInput i).notice 0x3806 i).sourceGained (inputSource i)

/-! ### Alignment (R328, R329) -/

/-- Whether alignment may take place: the selected source is qualified, PTP with the servo LOCKED (R328). -/
def mayAlign (d : Dev) : Bool := d.sourceOkNow (d.nat Reg.selectedSource)

/-- The nominal time of a media count. -/
def nominalTime (d : Dev) (b : Nat) : Nat := (2 * (b * almSecond) + d.fr) / (2 * d.fr)

/-- The boundary of R328: the first whose nominal time lies at least 1 ms after A. -/
def alignBoundary (d : Dev) : Nat :=
  let least := d.almNow + 1000000 * 2 ^ 32
  let b := 32 * cdiv (least * d.fr / almSecond) 32
  if least ≤ d.nominalTime b then b else b + 32

/-- The Almanac aligns: time reaches t_B, MSC is B, FRC mode, but for TimeTestMode, which holds SN mode (R326, R328). DESIGN CHOICE:
a count above 2^64 − 1, to which times near the end of S lead at 96 kHz, does not wrap: the spec gives MSC 64 bits and does not
say what such a time gives (R7). -/
def align (d : Dev) : Dev :=
  let b := d.alignBoundary
  let wait := (rdiv ((d.nominalTime b : Int) - d.almNow) d.alm.inc).toNat
  let d := d.advance wait
  let d := if d.flag Reg.timeTestMode then d else d.toFrc
  let d := { d with msc := b, tickAt := d.clock }
  let d := d.setAlm fun x => { x with aligned := true, everAligned := true, startDate := b, realignDue := false, deferred := false, overRun := 0, thetaRun := 0 }
  ((if d.alm.snMode then d else d.keepRecord (d.frc, d.almNow, d.alm.inc)).setFlag Reg.mscAligned true).notice 0x380D 0

/-- MscError at a block boundary, and the count that makes a realignment due (R329, R330). -/
def measureError (d : Dev) : Dev :=
  if !d.alm.aligned then d
  else
    let f := (d.tickAt - d.frcBase) * 16
    let a : Int := if d.alm.snMode then d.almNow else d.almAtFrc f
    let e := satS 32 ((a - d.nominalTime d.msc + 2 ^ 31) / 2 ^ 32)
    let d := d.setInt Reg.mscError e
    let run := if (d.nat Reg.realignLimit : Int) < e.natAbs then d.alm.overRun + 1 else 0
    let d := d.setAlm fun x => { x with overRun := run }
    if 8 ≤ run then d.realignDue else d

/-- SYNC_OUT's level (R340). -/
def syncOut (d : Dev) : Bool :=
  if !d.alm.aligned then false
  else match d.nat Reg.syncOutMode with
  | 1 => (d.clock - d.tickAt) % d.tickCycles * 2 < d.tickCycles
  | 2 => d.almNow / 2 ^ 32 % 1000000000 < 100000000
  | _ => false

/-- SAVED_TIME_WRITE: once per second while aligned (Table 11-8). -/
def saveTime (d : Dev) : Dev :=
  d.onPeriod 0x380D (secCycles 1) fun d =>
  if d.alm.aligned then (d.setNat Reg.savedTime d.seconds).keep Reg.savedTime else d

/-! ### PTP (R341 to R345) -/

/-- Whether PTP runs on a port: the primary port, or in mode 3 every enabled media port (R343). -/
def ptpOn (d : Dev) (p : Nat) : Bool :=
  match d.nat Reg.ptpMode with
  | 0 => false
  | 3 => p < 4 && d.flag Reg.ptpPortEnable p
  | _ => p == d.nat Reg.ptpPrimaryPort

/-- The clock identity: the EUI-64 of port M0's address. -/
def clockIdentity (d : Dev) : Octets :=
  let m := toBE 6 (d.nat Reg.macAddress 0)
  m.take 3 ++ [octet 0xFF, octet 0xFE] ++ m.drop 3

/-- The clockClass that a leader advertises (R343). -/
def clockClass (d : Dev) : Nat :=
  if d.nat Reg.dpllState = 0 ∨ !d.alm.everQualified then 248 else if d.nat Reg.dpllState = 3 then 7 else d.nat Reg.ptpClockClass

/-- A power of two as a factor of an interval: n × 2^log. -/
def scaleLog (n : Nat) (log : Int) : Nat := if 0 ≤ log then n * 2 ^ log.toNat else n / 2 ^ (-log).toNat

/-- Cycles per Sync interval: C of R344. -/
def syncCycles (d : Dev) : Nat := scaleLog 786432000 (d.int Reg.ptpLogSync)

/-- PtpServoState changed, with notice 0x380A into and out of LOCKED, and the source's gain or loss (R345). -/
def setServo (st : Nat) (d : Dev) : Dev :=
  let old := d.nat Reg.ptpServoState
  let d := (d.setNat Reg.ptpServoState st).setAlm fun a => { a with goodRun := 0, badRun := 0 }
  if old = st then d
  else if st = 2 then (d.notice 0x380A st).sourceGained 1
  else if old = 2 then (d.notice 0x380A st).sourceLost 1
  else d

/-- The mean path delay, in 2^-32 ns. -/
def meanPath (d : Dev) : Int :=
  if d.alm.paths.isEmpty then 0 else rdiv (d.alm.paths.foldl (· + ·) 0) d.alm.paths.length

/-- INC written by the servo: at once in SN mode, at the next boundary in FRC mode; SN mode's anchors are those of every 2^20 cycles
alone (R323, R324). -/
def setInc (inc : Nat) (d : Dev) : Dev :=
  if d.alm.snMode then
    (d.setAlm fun a => { a with inc }).setNat Reg.increment inc
  else d.setAlm fun a => { a with pendingInc := some inc }

/-- The servo states that a measured θ moves through (R345). -/
def servoRuns (good : Bool) (d : Dev) : Dev :=
  let st := d.nat Reg.ptpServoState
  let g := if good then d.alm.goodRun + 1 else 0
  let b := if good then 0 else d.alm.badRun + 1
  let d := d.setAlm fun a => { a with goodRun := g, badRun := b }
  if st = 1 ∧ 8 ≤ g then d.setServo 2
  else if st = 2 ∧ 8 ≤ b then d.setServo 3
  else if st = 3 ∧ 8 ≤ g then d.setServo 2
  else d

/-- A is stepped or INC steered by θ, measured every `c` cycles; a large θ in FRC mode leads to a realignment (R344, R330). -/
def steer (c theta : Int) (d : Dev) : Dev :=
  let big : Bool := decide (1000 * nsUnit ≤ (theta.natAbs : Int))
  let d := if !d.alm.snMode && d.alm.aligned then
      let run := if (d.nat Reg.realignLimit : Int) * nsUnit < theta.natAbs then d.alm.thetaRun + 1 else 0
      let d := d.setAlm fun a => { a with thetaRun := run }
      if 4 ≤ run then d.realignDue else d
    else d
  if d.alm.snMode && big then
    let a := ((d.almNow : Int) - theta).toNat
    ((d.setSn a).setAlm fun x => { x with integ := 0, paths := [] }).setNat Reg.ptpMeanPathDelay 0
  else
    let i := d.alm.integ + sd theta (64 * c)
    (d.setAlm fun a => { a with integ := i }).setInc ((incNominal : Int) + clampI (-incLimit) incLimit (i + sd theta (4 * c))).toNat

/-- θ given to the servo (R344, R345, R330). -/
def servo (theta : Int) (d : Dev) : Dev :=
  let st := d.nat Reg.ptpServoState
  let d := d.setInt Reg.ptpOffset (satS 32 (rsh 32 theta))
  let d := d.setAlm fun a => { a with lastSync := d.clock }
  if d.flag Reg.timeTestMode then d
  else
    let d := if st = 0 ∨ st = 4 then d.setServo 1 else d
    let big : Bool := decide (1000 * nsUnit ≤ (theta.natAbs : Int))
    (d.servoRuns (!big)).steer d.syncCycles theta

/-- Whether a message comes from the leader that the follower follows. -/
def fromLeader (d : Dev) (p : Nat) (m : PtpMsg) : Bool :=
  d.ptpOn p && m.domain == d.nat Reg.ptpDomain && (d.alm.leader.isEmpty || d.alm.leader == m.source) && d.nat Reg.ptpPortState p != 6

/-- A leader identity adopted: ACQUIRE with I kept, notice 0x3809 (R345). -/
def adopt (p : Nat) (source : Octets) (steps : Nat) (d : Dev) : Dev :=
  if d.alm.leader = source then d.setNat Reg.ptpStepsRemoved steps
  else
    let d := d.setAlm fun a => { a with leader := source, twoStep := none, delayReq := none }
    let d := (((d.setNat Reg.ptpLeaderId (fromBE (source.take 8))).setNat Reg.ptpStepsRemoved steps).notice 0x3809 0).setNat Reg.ptpPortState 9 p
    if d.nat Reg.ptpServoState = 0 then d else d.setServo 1

/-- PTP_SYNC_RECEIVE: a Sync with the FRC value of its stamp (R344). -/
def ptpSync (p src : Nat) (msg : Octets) (stamp : Nat) (d : Dev) : Dev :=
  let m := parsePtp msg
  if m.kind ≠ 0 ∨ !d.fromLeader p m then d
  else
    let d := if d.alm.leader.isEmpty then d.adopt p m.source 0 else d
    let t2 := d.convert stamp
    let d := d.setAlm fun a => { a with leaderIp := src }
    if m.twoStep then d.setAlm fun a => { a with twoStep := some (m.seq, stamp, m.correction) }
    else (d.setAlm fun a => { a with syncRef := some (m.stamp + m.correction, t2) }).servo (t2 - m.stamp - m.correction - d.meanPath)

/-- PTP_FOLLOW_UP_RECEIVE: t1 of a two-step Sync (R344). -/
def ptpFollowUp (p : Nat) (msg : Octets) (d : Dev) : Dev :=
  let m := parsePtp msg
  match d.alm.twoStep with
  | some (seq, stamp, corr) =>
    if m.kind ≠ 8 ∨ !d.fromLeader p m ∨ m.seq ≠ seq then d
    else
      let t2 := d.convert stamp
      let t1 := m.stamp + corr + m.correction
      (d.setAlm fun a => { a with twoStep := none, syncRef := some (t1, t2) }).servo (t2 - t1 - d.meanPath)
  | none => d

/-- PTP_DELAY_RESP_RECEIVE: a path delay measurement completes (R344); a negative one is no valid measurement. -/
def ptpDelayResp (p : Nat) (msg : Octets) (d : Dev) : Dev :=
  let m := parsePtp msg
  match d.alm.delayReq, d.alm.syncRef with
  | some (seq, t3), some (t1, t2) =>
    if m.kind ≠ 9 ∨ !d.fromLeader p m ∨ m.seq ≠ seq ∨ t3 = 0 ∨ (m.body.drop 10).take 8 ≠ d.clockIdentity then d
    else
      let path := ((t2 - t1) + (m.stamp - m.correction - d.convert t3)) / 2
      let d := d.setAlm fun a => { a with delayReq := none }
      if path < 0 then d
      else
        let d := d.setAlm fun a => { a with paths := (path :: a.paths).take 16 }
        d.setNat Reg.ptpMeanPathDelay (min (rsh 32 d.meanPath).toNat (2 ^ 32 - 1))
  | _, _ => d

/-- The header of a PTP message of this clock. -/
def ptpHeader (d : Dev) (kind len flags seq port : Nat) (log : Int) (dest : Octets) : Octets :=
  toBE 1 kind ++ toBE 1 0x12 ++ toBE 2 len ++ toBE 1 (d.nat Reg.ptpDomain) ++ toBE 1 0 ++ toBE 2 flags ++ toBE 8 0 ++ toBE 4 0 ++
    d.clockIdentity ++ toBE 2 (port + 1) ++ toBE 2 seq ++ toBE 1 (match kind with | 0 => 0 | 1 => 1 | 8 => 2 | 9 => 3 | _ => 5) ++ toBE 1 (wrapU 8 log) ++ dest

/-- A PTP message posted into TX 5 as an IPv4 datagram: event messages to port 319, others to 320. -/
def ptpPost (p dst : Nat) (msg : Octets) (stamp one : Bool) (id : Nat) (d : Dev) : Dev :=
  let port := if beAt msg 0 1 % 16 < 8 then 319 else 320
  let w := udpFrame (if isGroup dst then groupMac dst else Config.neighbour p dst) (d.nat Reg.macAddress p) 0 0 56 1 (Config.ownIp p) dst port port
    (Config.packetField 1 msg % 65536) 0 msg
  d.txPost [(5, { addr := 0, data := w, first := true, last := true, stampRequest := stamp, oneStep := one, uncontrolled := false, port := p, stampId := id })]

/-- Octets of an Almanac time: 6 of seconds and 4 of nanoseconds. -/
def timeOctets (a : Int) : Octets := toBE 6 (a.toNat / almSecond) ++ toBE 4 (a.toNat / 2 ^ 32 % 1000000000)

/-- The PTP group address. -/
def ptpGroup : Nat := 0xE0000181

/-- Whether the module leads on a port and may send there (R343). -/
def ptpLeads (d : Dev) (p : Nat) : Bool := d.ptpOn p && d.nat Reg.ptpPortState p == 6 && d.portUp p

/-- Whether a leader may send Announce and Sync on a port: not for 1 s after an Almanac fault (R351). -/
def ptpSpeaks (d : Dev) (p : Nat) : Bool := d.ptpLeads p && d.alm.silentUntil ≤ d.clock

/-- PTP_DELAY_REQ_RECEIVE: a leader answers in kind (R341). -/
def ptpDelayReq (p src : Nat) (msg : Octets) (stamp : Nat) (unicast : Bool) (d : Dev) : Dev :=
  let m := parsePtp msg
  if m.kind ≠ 1 ∨ !d.ptpLeads p ∨ m.domain ≠ d.nat Reg.ptpDomain then d
  else
    let t4 := d.convert stamp - m.correction
    d.ptpPost p (if unicast then src else ptpGroup)
      (d.ptpHeader 9 54 (if unicast then 0x0400 else 0) m.seq p (d.int Reg.ptpLogDelayReq) (timeOctets t4 ++ m.source)) false false 0

/-- The Announce that this clock sends on a port. -/
def announceMsg (d : Dev) (p seq : Nat) : Octets :=
  d.ptpHeader 0xB 64 0x0008 seq p (d.int Reg.ptpLogAnnounce)
    (timeOctets d.almNow ++ toBE 2 37 ++ toBE 1 0 ++ toBE 1 (d.nat Reg.ptpPriority1) ++ toBE 1 d.clockClass ++ toBE 1 0xFE ++ toBE 2 0xFFFF ++
      toBE 1 (d.nat Reg.ptpPriority2) ++ d.clockIdentity ++ toBE 2 0 ++ toBE 1 0xA0)

/-- The best leader clock algorithm over the Announce messages held, and this clock's own data set in modes 2 and 3. -/
def bestLeader (d : Dev) : Dev :=
  let own := announceRank ((d.announceMsg 0 0).drop 34)
  let best := d.alm.foreign.foldl (fun (b : Option Octets) x => match b with
    | none => some x
    | some y => if announceRank (x.drop 35) < announceRank (y.drop 35) then some x else some y) none
  let mode := d.nat Reg.ptpMode
  let lead (p : Nat) (d : Dev) : Dev := if d.ptpOn p ∧ d.portUp p then d.setNat Reg.ptpPortState 6 p else d
  match best with
  | some x =>
    let p := beAt x 0 1
    if mode ≠ 1 ∧ own < announceRank (x.drop 35) then
      ((List.range 4).foldl (fun d q => lead q d) d).setAlm fun a => { a with leader := [] }
    else
      let d := d.adopt p ((x.drop 21).take 10) (beAt x 62 2)
      if mode = 3 then (List.range 4).foldl (fun d q => if q = p then d else lead q d) d else d
  | none => if mode = 1 then d else (List.range 4).foldl (fun d q => lead q d) d

/-- PTP_ANNOUNCE_RECEIVE (R343, R345). -/
def ptpAnnounce (p : Nat) (msg : Octets) (d : Dev) : Dev :=
  let m := parsePtp msg
  if m.kind ≠ 0xB ∨ !d.ptpOn p ∨ m.domain ≠ d.nat Reg.ptpDomain then d
  else
    let x := octet p :: msg
    let d := d.setAlm fun a => { a with foreign := x :: a.foreign.filter fun y => ((y.drop 21).take 10 ≠ m.source) }
    let d := if d.alm.leader.isEmpty ∨ d.alm.leader = m.source then d.setAlm fun a => { a with lastAnnounce := d.clock } else d
    d.bestLeader

/-- PTP_SYNC_TIMEOUT: no Sync for 2 intervals (R345). -/
def ptpSyncTimeout (d : Dev) : Dev :=
  let st := d.nat Reg.ptpServoState
  if st = 0 ∨ st = 4 then d else d.onDue (d.alm.lastSync + 2 * d.syncCycles) fun d => d.setServo 4

/-- PTP_ANNOUNCE_TIMEOUT: PtpAnnounceTimeout intervals without an Announce of the leader (R345). -/
def ptpAnnounceTimeout (d : Dev) : Dev :=
  if d.alm.leader.isEmpty then d
  else
    d.onDue (d.alm.lastAnnounce + scaleLog (d.nat Reg.ptpAnnounceTimeout * 786432000) (d.int Reg.ptpLogAnnounce)) fun d =>
    let gone := d.alm.leader
    let d := d.setAlm fun a => { a with foreign := a.foreign.filter fun y => (y.drop 21).take 10 ≠ gone }
    let d := if d.nat Reg.ptpServoState = 0 then d else d.setServo 4
    d.bestLeader

/-- PTP_SYNC_TIMER: a leader sends Sync at its log interval (R342), one-step as PtpOneStep has it (R348). -/
def ptpSyncTimer (p : Nat) (d : Dev) : Dev :=
  d.onPeriod (0x3840 + p) d.syncCycles fun d =>
  if !d.ptpSpeaks p then d
  else
    let one := d.flag Reg.ptpOneStep
    let seq := d.alm.seqSync
    let d := d.setAlm fun a => { a with seqSync := (seq + 1) % 32768 }
    d.ptpPost p ptpGroup (d.ptpHeader 0 44 (if one then 0 else 0x0200) seq p (d.int Reg.ptpLogSync) (toBE 10 0)) (!one) one seq

/-- PTP_ANNOUNCE_TIMER: a leader sends Announce at its log interval (R342). -/
def ptpAnnounceTimer (p : Nat) (d : Dev) : Dev :=
  d.onPeriod (0x3848 + p) (scaleLog 786432000 (d.int Reg.ptpLogAnnounce)) fun d =>
  if !d.ptpSpeaks p then d
  else
    let seq := d.alm.seqAnnounce
    (d.setAlm fun a => { a with seqAnnounce := (seq + 1) % 65536 }).ptpPost p ptpGroup (d.announceMsg p seq) false false 0

/-- PTP_DELAY_REQ_TIMER: a follower sends Delay_Req at its log interval (R342); its stamp comes from the queue. -/
def ptpDelayReqTimer (p : Nat) (d : Dev) : Dev :=
  d.onPeriod (0x3850 + p) (scaleLog 786432000 (d.int Reg.ptpLogDelayReq)) fun d =>
  if !(d.ptpOn p && d.nat Reg.ptpPortState p == 9 && d.portUp p) then d
  else
    let seq := d.alm.seqDelay
    let d := d.setAlm fun a => { a with seqDelay := (seq + 1) % 32768, delayReq := some (seq, 0) }
    d.ptpPost p (if d.flag Reg.ptpDelayUnicast then d.alm.leaderIp else ptpGroup) (d.ptpHeader 1 44 0 seq p 0x7F (toBE 10 0)) true false (0x8000 + seq)

/-- TS_QUEUE_ENTRY_READ with what firmware does next: t3 of a Delay_Req, or the Follow_Up of a two-step Sync. -/
def tsEntryRead (p : Nat) (d : Dev) : Dev :=
  let head := (d.port p).tsQueue.head?
  let d := d.tsEntry p
  match head with
  | none => d
  | some e =>
    if !e.valid then d
    else if 0x8000 ≤ e.stampId then
      match d.alm.delayReq with
      | some (seq, _) => if seq + 0x8000 = e.stampId then d.setAlm fun a => { a with delayReq := some (seq, e.frc) } else d
      | none => d
    else if d.ptpLeads p then
      d.ptpPost p ptpGroup (d.ptpHeader 8 44 0 e.stampId p (d.int Reg.ptpLogSync) (timeOctets (d.convert e.frc))) false false 0
    else d

/-- The PTP port states as ports go UP and DOWN: LISTENING, or DISABLED (R350). -/
def ptpPort (p : Nat) (d : Dev) : Dev :=
  let d := d.setNat Reg.ptpPortState (if d.ptpOn p && d.portUp p then 4 else 3) p
  if d.ptpOn p ∧ d.portUp p ∧ d.nat Reg.ptpMode ≠ 1 then d.bestLeader else d

/-- A change of profile resets the domain and the intervals to its defaults (R342). -/
def ptpProfileSet (v : Nat) (d : Dev) : Dev :=
  let d := (d.setNat Reg.ptpProfile v).keep Reg.ptpProfile
  [Reg.ptpDomain, Reg.ptpLogAnnounce, Reg.ptpLogSync, Reg.ptpLogDelayReq, Reg.ptpAnnounceTimeout].foldl (fun d r =>
    match ptpRange v r with
    | some (x, _, _) => (d.setInt r x).keep r
    | none => d) d

/-! ### Faults (R351) -/

/-- ALMANAC_FAULT: Announce and Sync stop for 1 s, the block's stamps are invalid (R351); the flag tells a second fault
within 1 s of the first, which is wedged. -/
def almanacFault (which : Nat) (d : Dev) : Dev × Bool :=
  let again := match d.alm.faultAt with
    | some t => d.clock < t + secCycles 1
    | none => false
  let blockStart := (d.tickAt - d.msc % 32 * d.tickCycles - d.frcBase) * 16
  let d := (d.notice 0x380C which).setAlm fun a => { a with faultAt := some d.clock, silentUntil := d.clock + secCycles 1 }
  let ports := d.ports.map fun (q : Port) => { q with tsQueue := q.tsQueue.map fun (e : TsEntry) => if blockStart ≤ e.frc then { e with valid := false } else e }
  let rings := d.rxRings.map fun (r : RxRing) => { r with done := r.done.map fun (x : RxDesc) => if x.stampValid && blockStart ≤ x.stamp then { x with stampValid := false } else x }
  ({ d with ports := ports, rxRings := rings }, again)

/-- Time reaches a media count: a sample clock that runs must have counted to it; else Almanac time moves on (R555). -/
def reachMsc (b : Nat) (d : Dev) : Option Dev :=
  if b ≤ d.mscNow then some d
  else if d.alm.aligned then none
  else some (d.advance (cdiv (cdiv (b * almSecond) (max d.fr 1) - d.almNow) (max d.alm.inc 1)))

end Dev

end Sys2Proof.Machine
end

