-- ==== Sys2Proof/Machine/Power.lean ====
section
/-! DEFINITION. Power states, FAULT, the stop of the data path and the full reset (chapters 1 and 20). -/

namespace Sys2Proof.Machine

/-- The REBOOT entries of the dictionary (R39). -/
def rebootRows : List Row := allRows.flatMap fun l => l.filter fun r => r.commit = .reboot

/-- Whether a key is that of an entry of a row. -/
def Row.hasKey (r : Row) (key : Nat) : Bool := r.coversIndex (key / 256) && r.coversSub (key % 256)

namespace Dev

/-- Records from the log FIFO into the log, in order, at most `n`; a logged notice goes out on the UART too (R495, R499, R527). -/
def logStore : Nat → Dev → Dev
  | 0, d => d
  | n + 1, d =>
    match d.log.fifo with
    | [] => d
    | x :: t =>
      let seq := d.log.newest + 1
      let d := if x.kind = 1 || x.kind = 3 then d.emit (.uart false x.code x.arg) else d
      logStore n { d with log := { d.log with fifo := t, newest := seq, ring := nerase (nput d.log.ring seq x) (seq - 131072) } }

/-- The whole FIFO written: before a reset, and at an off-season entry (R498, R553). -/
def logFlush (d : Dev) : Dev := (d.logStore d.log.fifo.length).logPressure

/-- Whether the module's logic runs: powered, and not held in reset. -/
def live (d : Dev) : Bool := !d.power.held && d.power.state != .off && d.power.state != .offseason

/-- Whether the module answers and its ports run (Table 20-2). -/
def answers (d : Dev) : Bool := d.live && d.power.state.answers

/-- An effect that takes place only while the module's functions run. -/
def whenUp (f : Dev → Dev) (d : Dev) : Dev := if d.answers then f d else d

/-- The power state changed, with notice 0x2001 (R550). -/
def setPower (st : PowerState) (d : Dev) : Dev :=
  let old := d.power.state
  if old = st then d
  else
    let d := { d with power := { d.power with state := st } }
    let d := if st.runs && !old.runs then { d with sec := { d.sec with readySince := some d.clock } }
      else if st.runs then d else { d with sec := { d.sec with readySince := none } }
    d.notice 0x2001 (old.code * 256 + st.code)

/-- The state of the data path cleared as R593 states for a stop without a full reset. -/
def clearPath (d : Dev) : Dev :=
  let kept := d.rend
  let d := { d with
    planes := { ingress := [], object := [], render := [], egress := [] }
    rend := { resetRender with law0 := kept.law0, patches := kept.patches, patchSeq := kept.patchSeq, patchTold := kept.patchTold }
    geo := { pending := d.geo.pending, coming := d.geo.coming, jumps := [], bulkUsed := [], late := [], fullOnStart := true, served := [] }
    flows := { d.flows with egress := [], inFades := [], outFades := [] }
    drada := { d.drada with align := [] }
    pair := { d.pair with sigs := [], theirs := [], agreed := [], planes := [], incomplete := [], seeds := [] }
    headset := { d.headset with mic := [], hpRamps := [] } }
  (d.clearCorrection).restartMix.convClear.tdmRealign

/-- DATA_PATH_STOP proper: the data path stops at a block boundary and is cleared; the Almanac goes to SN mode where the
module enters QUIET (R325, R556, R558). -/
def stopPath (d : Dev) : Dev :=
  let d := { d with power := { d.power with stopDue := false } }
  let d := (d.clearPath).recEnable false d.mscNow
  let d := if d.power.state.runs then ((d.toSn).setAlm fun a => { a with aligned := false }).setFlag Reg.mscAligned false else d
  if d.power.state.runs then d.setPower .quiet else d

/-- Entry to FAULT with a class and detail of Table 20-5 (R558); in BOOT the fault is kept for the end of BOOT (R565). -/
def enterFault (cls detail : Nat) (d : Dev) : Dev :=
  let cause := cls * 2 ^ 24 + detail % 65536
  if d.power.state = .boot then
    if d.power.bootFault then d
    else ({ d with power := { d.power with bootFault := true } }).setNat Reg.faultCause cause |>.keep Reg.faultCause
  else if d.power.state = .fault ∨ !d.power.state.answers then d
  else
    let d := d.releaseLead
    let d := (d.setNat Reg.faultCause cause).keep Reg.faultCause
    let d := { d with power := { d.power with faultAt := d.clock, stopDue := d.power.stopDue || d.power.state.runs } }
    let d := (d.setPower .fault).recTrigger 2
    (d.notice 0x2002 cause).logFault 0x2002 cause

/-- The record of an event that another overtakes, or of a sequence that it abandons (R552). -/
def logOvertaken (what : Nat) (d : Dev) : Dev := d.logEvent (d.logOwn 6 (Config.recordField 29 % 65536) what)

/-- A sequence under way that a higher-ranked event abandons, with its record (R552). -/
def dropPending (d : Dev) : Dev :=
  let under := d.power.resetDue.isSome || d.power.offDue || d.power.stopDue
  let d := { d with power := { d.power with resetDue := none, offDue := false, stopDue := false } }
  if under then d.logOvertaken 6 else d

/-- What a full reset, and a loss of power, leave (R34, R376): the persistent store, log, flash, keys, slots, season account,
repair table and module state; a recording only where it was frozen and the DRAM kept its charge. -/
def cleared (keepDram : Bool) (d : Dev) : Dev :=
  let frozen := keepDram && d.nat Reg.recorderState == 3
  let recRows := [Reg.recorderState, Reg.recorderTriggerDate, Reg.recorderTriggerCause, Reg.recorderOldest, Reg.recorderNewest, Reg.recorderFrozenSources, Reg.recorderGapFrames, Reg.recorderTriggersMissed]
  let base := { Dev.reset with
    regs := d.store, store := d.store, clock := d.clock, frcBase := d.clock, freeCtr := d.freeCtr, out := d.out
    power := { d.power with state := .boot, resetDue := none, offDue := false, stopDue := false, shapeBad := false, bootFault := false, held := true, tripAt := d.clock, tripped := false, stoppedAt := none }
    log := { d.log with fifo := [], lostNow := 0, pressure := false, correctedAt := [] }
    corr := { Dev.reset.corr with flash := d.corr.flash, flashSeq := d.corr.flashSeq, stale := d.corr.stale }
    sram := { Dev.reset.sram with repair := d.sram.repair }
    sec := { d.sec with nonce := none, readySince := none, cryptoFaultAt := none
                        slots := d.sec.slots.map fun (s : Slot) => if s.state = 1 then { s with state := 0, image := [] } else s }
    season := { d.season with test := none, eyeTold := [], extra := false, minuteTemp := 0, minuteVolt := 0, minuteSamples := 0 }
    sup := { Dev.reset.sup with sliceMask := d.sup.sliceMask }
    recd := if frozen then d.recd else Dev.reset.recd }
  let base := if frozen then recRows.foldl (fun b r => b.setVal r (d.val r)) base else base
  let base : Dev := { base with alm := { base.alm with secs := d.nat Reg.savedTime } }
  let armed := d.nat Reg.perturbArmed
  let base := (List.range 8).foldl (fun (b : Dev) k => if armed.testBit k then b.setNat Reg.perturbSlotState 6 k else b) base
  base.setNat Reg.pairState (if d.lone then 0 else 1)

/-- The Kind 6 record of a reset or a power-down (R498, R548), and LastResetSeconds (R562). -/
def resetRecord (cause : Nat) (d : Dev) : Dev :=
  let d := d.logEvent (d.logOwn 6 cause (Config.recordField 6))
  if d.alm.everAligned then (d.setNat Reg.lastResetSeconds d.seconds).keep Reg.lastResetSeconds else d

/-- Notice 0x2001 of a change that ends what the module runs, before its log is flushed (R550). -/
def tellLeaving (st : PowerState) (d : Dev) : Dev := if d.power.state = st then d else d.notice 0x2001 (d.power.state.code * 256 + st.code)

/-- FULL_RESET with a cause of Table 20-4 (R563): the lead is released, the record written, and the die held in reset; during the
sequence of a rail trip any cause but its own is logged and has no other effect (R552). -/
def fullReset (cause : Nat) (d : Dev) : Dev :=
  if !d.live then d
  else if d.power.tripped ∧ cause ≠ 0x0A then d.logOvertaken cause
  else
    let d := ((d.releaseLead).notice 0x2003 cause).tellLeaving .boot
    let d := (d.resetRecord cause).logFlush
    let d := d.cleared (cause ≠ 0x0A)
    { d with power := { d.power with cause } }

/-- The Kind 2 record of a detected fault whose notice code the spec leaves to its kind (R498, Table 1-7). -/
def faultRecord (key : Nat) (d : Dev) : Dev := d.logEvent (d.logOwn 2 (Config.recordField (0x20000 + key) % 65536) key)

/-- A function is wedged (R32): the fault is logged, the lead is released first, then a full reset (R33, R498). -/
def wedged (d : Dev) : Dev := if d.live then (d.faultRecord 0xFFFF).fullReset 0x07 else d

/-- The rails go off: PGOOD low, VAUX off, ILK_OUT high impedance, nothing runs (R548, R550). -/
def railsOff (st : PowerState) (d : Dev) : Dev :=
  let d := ((d.emit (.pad "PGOOD" false)).emit (.pad "VAUX_3V3" false))
  let d := d.cleared false
  { d with power := { d.power with state := st, held := false, rails := false, pgood := false, vaux := false } }

/-- The power-down sequence of R548 with its log cause; `recorded` tells whether VIN held up for the record. -/
def powerDown (cause : Nat) (recorded : Bool) (d : Dev) : Dev :=
  let d := d.releaseLead
  let d := if recorded ∧ d.live then ((d.tellLeaving .off).resetRecord cause).logFlush else d
  d.railsOff .off

/-- A start from OFF or OFFSEASON with a reset cause: the rails start, the die is held in reset (R551, R565). -/
def startUp (cause : Nat) (d : Dev) : Dev :=
  let old := d.power.state
  let d := (d.cleared false).notice 0x2001 (old.code * 256 + PowerState.boot.code)
  { d with power := { d.power with cause, state := .boot, held := true, latchedOff := false, rails := false, pgood := false } }

/-- Whether a restart of R560 is within FaultRestartLimit: that many in the last 600 s, this one included. -/
def restartAllowed (d : Dev) : Bool :=
  (d.power.restarts.filter fun t => d.clock < t + secCycles 600).length < d.nat Reg.faultRestartLimit

/-- A restart counted in FaultRestarts (R560). -/
def countRestart (d : Dev) : Dev :=
  ({ d with power := { d.power with restarts := d.clock :: d.power.restarts.filter fun t => d.clock < t + secCycles 600 } }).bump Reg.faultRestarts

/-- Whether a function raised an in-data fault within the last second (R32). -/
def faultedLately (d : Dev) (key : Nat) : Bool :=
  match nget? d.limiter (0x4000000 + key) with
  | some t => decide (d.clock < t + secCycles 1)
  | none => false

/-- A planned handover starts at a departure tick (R432, R433). -/
def startHandover (h reason : Nat) (d : Dev) : Dev :=
  (d.tellPartner 2 (toBE 8 h)).setPair fun p => { p with handover := some h, reason := reason, waiting := false }

/-- HistoryHorizon (R445). -/
def horizon (d : Dev) : Nat :=
  32 * cdiv ((d.enabledObjects.foldl (fun m n => max m (d.nat Reg.objectBulkDelay n)) 0) + d.windowW + d.firMax + d.delayMax) 32

/-- Entry of state 5 at a stage of R444; a cause in state 5 restarts at the earlier stage. -/
def enterCatchup (stage : Nat) (d : Dev) : Dev :=
  if d.lone then d
  else
    let fresh := d.nat Reg.pairState ≠ 5
    let s := if fresh ∨ d.nat Reg.catchupStage = 0 then stage else min stage (d.nat Reg.catchupStage)
    let d := (((d.setPairState 5).setNat Reg.catchupStage s).setNat Reg.agreeRun 0).setNat Reg.historyHorizon d.horizon
    d.setPair fun p => { p with stageAt := d.msc, catchupAt := if fresh then d.clock else p.catchupAt, agreed := [], gapRun := 0 }

/-- A standby leaves state 6, or restarts in state 5, at a stage; nothing in a lead or a forming unit. -/
def standbyFalls (stage : Nat) (d : Dev) : Dev :=
  if d.nat Reg.pairState = 5 ∨ d.nat Reg.pairState = 6 then d.enterCatchup stage else d

/-- An audit decided: AuditLast, its counts, notice 0x8004. -/
def auditDecide (row last : Nat) (d : Dev) : Dev :=
  let d := (((d.setNat Reg.auditLast last).keep Reg.auditLast).setNat Reg.auditState 3).bump Reg.auditCount
  let d := if row = 4 ∨ row = 7 then d.bump Reg.auditUnattributed else d
  (d.setPair fun p => { p with audit := none }).notice 0x8004 last

/-- The blocks for whose data a fault counts that a function raises in tick `k`: the block in its stage (Table 15-6, Table 1-2). -/
def faultBlocks (d : Dev) (key k : Nat) : List Nat :=
  if 0x10000 ≤ key then [(k - 66 - d.lag) / 32]
  else if 0x100 ≤ key ∧ key < 0x200 then [(k - 2 - d.lag) / 32]
  else if 0x200 ≤ key ∧ key < 0x300 then [(k - 34 - d.lag) / 32]
  else if 0x300 ≤ key ∧ key < 0x400 then [(k - 1) / 32, (k - 66 - d.lag) / 32]
  else [k / 32]

/-- A fault during an audit ends the audit under row 1: this unit is wrong (R443). -/
def faultInAudit (d : Dev) : Dev :=
  match d.pair.audit with
  | some a => (d.auditDecide 1 (2 ^ 24 + a.point * 2 ^ 16 + a.first % 65536)).standbyFalls 2
  | none => d

/-- A detected-in-data fault of a function (R31): the recorder triggers, a second one within 1 s wedges the function (R32),
a lead in state 2 hands over at the detecting tick + 2 (R433). The key numbers the function. -/
def inDataFault (key : Nat) (d : Dev) : Dev :=
  let again := d.faultedLately key
  let d : Dev := { d with limiter := nput d.limiter (0x4000000 + key) d.clock }
  let d := ((d.faultRecord key).recTrigger 0).setPair fun p => { p with faults := (d.faultBlocks key d.mscNow ++ p.faults).take 32 }
  if again then d.wedged
  else
    let d := if d.nat Reg.pairState = 2 ∧ d.pair.handover.isNone ∧ (d.nat Reg.partnerHealth).testBit 0 then d.startHandover (d.mscNow + 2) 3 else d
    d.faultInAudit

/-- nALERT's causes (Table 17-6). -/
def alertCauses (d : Dev) : Nat :=
  b2n (d.power.state == .fault) + 2 * b2n ((List.range 13).any fun s => d.nat Reg.sensorState s = 1 ∨ d.nat Reg.sensorState s = 2) +
  4 * b2n ([3, 4, 5].contains (d.nat Reg.pairState)) + 8 * b2n (d.nat Reg.dpllState == 3) + 16 * b2n d.sup.fanStalled +
  32 * b2n d.log.pressure + 64 * b2n (d.nat Reg.recorderState == 3) + 128 * b2n (!d.alm.everQualified)

/-- nALERT driven low (R493). -/
def alertLow (d : Dev) : Bool :=
  if d.power.state = .off ∨ d.power.state = .offseason then false
  else if d.power.held ∨ d.power.state = .boot then true
  else d.alertCauses &&& (d.nat Reg.alertMask ||| 1) ≠ 0

end Dev

end Sys2Proof.Machine
end

