-- ==== Sys2Proof/Machine/Dram.lean ====
section
/-! DEFINITION. The DRAM controller and its arbiters (chapter 13). Times are in CK, which is a FabricClk cycle (R380). -/

namespace Sys2Proof.Machine

/-- The regions of Table 13-2 that a requester addresses: first and last address, for requesters 0 to 9. -/
def dramRegions (q : Nat) : List (Nat × Nat) :=
  match q with
  | 0 => [(0, 0x7FFFFFFF)]
  | 1 => [(0x80000000, 0x89FFFFFF)]
  | 2 => [(0x8A000000, 0xB1FFFFFF)]
  | 3 => [(0xB2000000, 0xBEFFFFFF)]
  | 4 => [(0x144000000, 0x243FFFFFF)]
  | 5 => [(0x144000000, 0x283FFFFFF)]
  | 6 => [(0x8A000000, 0xB9FFFFFF), (0xBE000000, 0xBEFFFFFF)]
  | 7 => [(0xC0000000, 0x143D5FFFF)]
  | 8 => [(0xC0000000, 0x143D5FFFF), (0x244000000, 0x283FFFFFF)]
  | 9 => [(0, 0x3DFFFFFFF)]
  | _ => []

/-- Whether a line lies in a requester's regions (R383). -/
def regionOk (q addr : Nat) : Bool := (dramRegions q).any fun r => r.1 ≤ addr && addr + 63 ≤ r.2

/-- The place of a usable address (R382): channel, bank, row, column line. -/
def dramPlace (a : Nat) : Nat × Nat × Nat × Nat :=
  let line := a / 64
  let q := line / 16 * 4 + line % 4
  let w := q / 62
  (line / 4 % 4, 4 * (w % 4) + w / 4 % 4, w / 16, q % 62)

/-- Whether a requester is real-time (Table 13-7). -/
def isRt (q : Nat) : Bool := q < 4

/-- FabricClk cycles as nanoseconds. -/
def cyclesToNs (n : Nat) : Nat := n * 1000000 / 786432

/-- A requester of a channel that asks for nothing. -/
def idleReq : ArbReq := { todo := [], declared := 0, since := 0, ready := 0, k := 0, begun := false, starved := false, urgent := false }

/-- The octets of a line from memory. -/
def memLine (mem : List Host.Cell) (a : Nat) : Octets := (List.range 64).map fun i => nget (octet 0) mem (a + i)

/-- A line written to memory, in canonical form. -/
def memWrite (mem : List Host.Cell) (a : Nat) (l : Octets) : List Host.Cell :=
  (l.zipIdx).foldl (fun m p => nset (octet 0) m (a + p.2) p.1) mem

/-- The samples of a line: 16 values of 4 octets, most significant octet first. -/
def lineSamples (l : Octets) : List Int := (List.range 16).map fun i => beAtS l (4 * i) 4

namespace Dev

/-- A DRAM channel. -/
def dchan (d : Dev) (c : Nat) : DramChan := d.dram.chans.get resetChannel c

/-- A DRAM channel changed. -/
def setDchan (c : Nat) (f : DramChan → DramChan) (d : Dev) : Dev := { d with dram := { d.dram with chans := d.dram.chans.modify c f } }

/-- A requester in a channel. -/
def arb (d : Dev) (c q : Nat) : ArbReq := nget idleReq (d.dchan c).reqs q

/-- A requester in a channel changed. -/
def setArb (c q : Nat) (f : ArbReq → ArbReq) (d : Dev) : Dev := d.setDchan c fun x => { x with reqs := nput x.reqs q (f (nget idleReq x.reqs q)) }

/-! ### Arbitration (R393 to R401) -/

/-- Whether contender `a` ranks above `b` at a cycle: class, priority, wait, lower number (R394). -/
def ranksAbove (d : Dev) (c cyc a b : Nat) : Bool :=
  let ka := b2n (isRt a)
  let kb := b2n (isRt b)
  let pa := d.nat Reg.arbPriority a
  let pb := d.nat Reg.arbPriority b
  let wa := cyc - (d.arb c a).since
  let wb := cyc - (d.arb c b).since
  if ka ≠ kb then kb < ka else if pa ≠ pb then pb < pa else if wa ≠ wb then wb < wa else a < b

/-- The contenders of a channel at a cycle, the holder aside (R395). -/
def contenders (d : Dev) (c cyc : Nat) : List Nat :=
  (List.range 10).filter fun q => (d.dchan c).holder != some q && !(d.arb c q).todo.isEmpty && (d.arb c q).ready ≤ cyc && nget 0 d.perturb.dramHold q ≤ cyc

/-- BE losers of a decision back off (R396). -/
def lose (c cyc : Nat) (qs : List Nat) (d : Dev) : Dev :=
  qs.foldl (fun d q => if isRt q then d else d.setArb c q fun r => { r with ready := cyc + 16 * 2 ^ r.k, k := min (r.k + 1) 10 }) d

/-- The decision of R395: who holds the channel after it. -/
def decide_ (c cyc : Nat) (d : Dev) : Dev :=
  let h := match (d.dchan c).holder with
    | some h => if (d.arb c h).todo.isEmpty then none else some h
    | none => none
  let d := d.setDchan c fun x => { x with holder := h }
  let cands := d.contenders c cyc
  let best := cands.foldl (fun (b : Option Nat) q => match b with | some x => if d.ranksAbove c cyc q x then some q else some x | none => some q) none
  match best with
  | none => d
  | some b =>
    let keeps := match h with
      | some x => decide (b2n (isRt b) < b2n (isRt x)) || (isRt b == isRt x && decide (d.nat Reg.arbPriority b ≤ d.nat Reg.arbPriority x))
      | none => false
    if keeps then d.lose c cyc cands
    else
      let wait := cyclesToNs (cyc - (d.arb c b).since)
      let d := match h with | some x => d.setArb c x fun r => { r with since := cyc, starved := false, urgent := false } | none => d
      let d := (d.setArb c b fun r => { r with k := 0, begun := false, starved := false, urgent := false }).setDchan c fun x => { x with holder := some b }
      (d.lose c cyc ((cands.filter (· ≠ b)) ++ h.toList)).peak Reg.arbWaitPeak wait b

/-- `n` all-bank refreshes: rows close, activation counts fall (R388, R392). -/
def refab (c n : Nat) (d : Dev) : Dev :=
  if n = 0 then d
  else
    let less := n * max (d.nat Reg.raaImt c) 1
    d.setDchan c fun x => { x with openRows := [], hits := [], checkLines := [], raa := (x.raa.map fun (p : Nat × Nat) => (p.1, p.2 - less)).filter fun p => p.2 ≠ 0 }

/-- A channel whose queue is empty has refreshed ahead of time, one REFab each tRFCab, down to a debt of −8 (R388, Table 13-3). -/
def refreshAhead (c : Nat) (d : Dev) : Dev :=
  let x := d.dchan c
  if !x.queue.isEmpty then d
  else
    let debt := d.int Reg.refreshDebt c
    let since := max x.completedAt x.ahead
    let n := min (debt + 8).toNat ((d.clock - since) / 221)
    let d := (d.refab c n).setInt Reg.refreshDebt (debt - n) c
    d.setDchan c fun x => { x with ahead := if debt - n = -8 then d.clock else since + 221 * n }

/-- The holder's first burst admitted to the transaction queue, where it has room (R386). -/
def queueBurst (c : Nat) (d : Dev) : Dev :=
  match (d.dchan c).holder with
  | none => d
  | some h =>
    let q := (d.dchan c).queue
    let room := q.length < 48 && (isRt h || (q.filter fun r => !(isRt r.q)).length < 32)
    match (d.arb c h).todo with
    | a :: t =>
      if !room then d
      else
        let d := d.refreshAhead c
        let d := (d.setArb c h fun r => { r with todo := t, declared := r.declared - 1, begun := true }).setDchan c fun x => { x with queue := x.queue ++ [{ q := h, access := a, admitted := d.clock }] }
        ({ d with dram := { d.dram with bursts := d.dram.bursts + 1 } }).bump Reg.arbBursts h
    | [] => d

/-- ARB_BREAK_POINT: new requests arrive, the arbiter decides, one burst is admitted (R386, R394, R395). -/
def arbBreakPoint (c : Nat) (reqs : List DramRequest) (d : Dev) : Dev :=
  if 4 ≤ c then d
  else
    let d := reqs.foldl (fun d r =>
      if 10 ≤ r.q ∨ r.accesses.isEmpty then d
      else d.setArb c r.q fun x =>
        let x := if x.todo.isEmpty ∧ (d.dchan c).holder ≠ some r.q then { x with since := d.clock, starved := false, urgent := false } else x
        { x with todo := x.todo ++ r.accesses, declared := r.declared }) d
    (d.decide_ c d.clock).queueBurst c

/-- The turn hint of a waiting RT requester: how many rank above it, and the estimate in cycles (R398). -/
def turnHint (d : Dev) (c q : Nat) : Nat × Nat :=
  let above (x : Nat) : Bool := x ≠ q && d.ranksAbove c d.clock x q
  let ahead := (d.contenders c d.clock).filter above
  let holder := (d.dchan c).holder.toList
  ((ahead ++ holder.filter above).length, 2 * ((ahead ++ holder).foldl (fun a x => a + (d.arb c x).declared) 0))

/-- ARB_BACKOFF_END: a requester contends again (R396). -/
def arbBackoffEnd (c q : Nat) (d : Dev) : Dev :=
  if isRt q ∨ 10 ≤ q ∨ 4 ≤ c ∨ (d.arb c q).todo.isEmpty then d
  else
    d.onDue (d.arb c q).ready fun d =>
    if (d.dchan c).holder.isNone then (d.decide_ c d.clock).queueBurst c else d

/-- ARB_GRANT_WITHDRAW: a granted requester withdraws before its first burst: one dead cycle (R397). -/
def arbWithdraw (c : Nat) (d : Dev) : Dev :=
  match (d.dchan c).holder with
  | some h =>
    if (d.arb c h).begun then d
    else
      let d := ((d.setArb c h fun r => { r with todo := [] }).setDchan c fun x => { x with holder := none }).bump Reg.arbDeadCycles
      let d := d.advanceTo (d.clock + 1)
      (d.decide_ c d.clock).queueBurst c
  | none => d

/-- Whether a BE requester waits in a channel. -/
def arbWaits (d : Dev) (c q : Nat) : Bool :=
  c < 4 && !isRt q && q < 10 && !(d.arb c q).todo.isEmpty && (d.dchan c).holder != some q

/-- ARB_STARVE: a BE requester has waited T1 in a channel (R399, R400). -/
def arbStarve (c q : Nat) (d : Dev) : Dev :=
  if !d.arbWaits c q ∨ (d.arb c q).starved then d
  else
    d.onDue ((d.arb c q).since + usCycles (d.nat Reg.arbStarveTime)) fun d =>
    let d := (d.setArb c q fun r => { r with starved := true }).bump Reg.arbStarveCount q
    let d := if d.flag Reg.arbPolicyEnable then { d with dram := { d.dram with policyAt := nput d.dram.policyAt q d.clock } } else d
    d.noticeOnce (0xA00500 + q) 0xA005 (q * 65536 + c)

/-- ARB_URGENT: a BE requester has waited 4 × T1; the policy raises its priority (R399, R400). -/
def arbUrgent (c q : Nat) (d : Dev) : Dev :=
  if !d.arbWaits c q ∨ (d.arb c q).urgent then d
  else
    d.onDue ((d.arb c q).since + 4 * usCycles (d.nat Reg.arbStarveTime)) fun d =>
    let d := (d.setArb c q fun r => { r with urgent := true }).bump Reg.arbUrgentCount q
    let d := if d.flag Reg.arbPolicyEnable then
        ({ d with dram := { d.dram with policyAt := nput d.dram.policyAt q d.clock } }).setNat Reg.arbPriority (min (d.nat Reg.arbPriority q + 1) 7) q
      else d
    d.noticeOnce (0xA00600 + q) 0xA006 (q * 65536 + c)

/-- ARB_POLICY_TICK: every 1 ms priorities quiet for 10 ms return to their defaults; the load of the millisecond (R400). -/
def arbPolicyTick (d : Dev) : Dev :=
  d.onPeriod 100 (msCycles 1) fun d =>
  let load := d.dram.bursts * 2 * 10000 / (4 * 786432)
  let d := ({ d with dram := { d.dram with bursts := 0 } }.setNat Reg.dramLoadLast load).peak Reg.dramLoadPeak load
  if !d.flag Reg.arbPolicyEnable then d
  else [4, 5, 6, 7, 8, 9].foldl (fun d q =>
    if d.nat Reg.arbPriority q ≠ d.nat Reg.arbPriorityDefault q ∧ nget 0 d.dram.policyAt q + msCycles 10 ≤ d.clock then
      d.setNat Reg.arbPriority (d.nat Reg.arbPriorityDefault q) q else d) d

/-- ARB_PRIORITY_WRITE: a write of ArbPriorityDefault also sets the priority in force and restarts the 10 ms (R401). -/
def arbPriorityWrite (q v : Nat) (d : Dev) : Status × Dev :=
  if 10 ≤ q then (Status.noEntry, d)
  else if 7 < v then (Status.range, d)
  else
    let d := ((d.setNat Reg.arbPriorityDefault v q).keep Reg.arbPriorityDefault q).setNat Reg.arbPriority v q
    (Status.ok, { d with dram := { d.dram with policyAt := nput d.dram.policyAt q d.clock } })

/-- ArbHolder: bit c set where the requester holds channel c (Table 13-9). -/
def arbHolder (d : Dev) (q : Nat) : Nat := (List.range 4).foldl (fun a c => a + b2n ((d.dchan c).holder == some q) * 2 ^ c) 0

/-! ### Refresh and row disturbance (R388 to R392) -/

/-- The postponement limit of a range (Table 13-5). -/
def postponeLimit (d : Dev) (range : Nat) : Int :=
  let p := d.nat Reg.refreshPostponeLimit
  if range ≤ 1 then p else if range = 2 then (min 4 p : Nat) else 0

/-- REFRESH_INTERVAL: the debt rises by one, and the channel refreshes as R388 states. -/
def refreshInterval (c : Nat) (d : Dev) : Dev :=
  if 4 ≤ c then d
  else
    let range := d.nat Reg.refreshRange c
    let mult := if range ≤ 1 then 1 else if range = 2 then 2 else 4
    d.onPeriod (110 + c) (3072 / mult) fun d =>
    let d := d.refreshAhead c
    let debt := d.int Reg.refreshDebt c + 1
    let limit := d.postponeLimit range
    let q := (d.dchan c).queue
    if limit < debt then ((d.refab c (debt - limit).toNat).setInt Reg.refreshDebt limit c).bump Reg.refreshForced c (debt - limit).toNat
    else if q.isEmpty || q.any fun r => isRt r.q then d.setInt Reg.refreshDebt debt c
    else (d.refab c debt.toNat).setInt Reg.refreshDebt (min debt 0) c

/-- The refresh range in force: the higher of MR4's and the floor (R536). -/
def rangeInForce (d : Dev) (c : Nat) : Nat := max (d.dchan c).mr4 (d.nat Reg.refreshFloor c)

/-- The range in force brought up to date; a rise repays debt above the new limit at once (R389, R390, R391). -/
def updateRange (c : Nat) (d : Dev) : Dev :=
  let d := d.refreshAhead c
  let old := d.nat Reg.refreshRange c
  let new := d.rangeInForce c
  if new = old then d
  else
    let debt := d.int Reg.refreshDebt c
    let limit := d.postponeLimit new
    let d := (d.setNat Reg.refreshRange new c).notice 0xA002 (c * 65536 + new)
    let d := if old < new ∧ limit < debt then
        let n := (debt - limit).toNat
        (((d.refab c n).setInt Reg.refreshDebt limit c).bump Reg.refreshForced c n |>.bump Reg.refreshDoubledEvents c).noticeOf 0xA001 (0xA010 + c) 3 (c * 65536 + debt.toNat * 256 + new)
      else d
    if new = 5 ∧ old ≠ 5 then ((d.notice 0xA009 (c * 65536 + 2)).logFault 0xA009 (c * 65536 + 2)).enterFault 4 c
    else d

/-- MR4_POLL: the hotter die's reading; a higher range at once, a lower one after 4 consecutive polls (R389). The range of
each reading is an operand, since the spec gives the meanings of the field and not its encoding. -/
def mr4Poll (c raw0 range0 raw1 range1 : Nat) (d : Dev) : Dev :=
  if 4 ≤ c then d
  else
    d.onPeriod (120 + c) 98304 fun d =>
    let hot := range0 < range1 || (range0 == range1 && raw0 < raw1)
    let range := min 5 (if hot then range1 else range0)
    let d := d.setNat Reg.mr4Raw ((if hot then raw1 else raw0) % 256) c
    let x := d.dchan c
    let d := if x.mr4 < range then d.setDchan c fun x => { x with mr4 := range, lowPolls := 0 }
      else if range < x.mr4 then
        if 4 ≤ x.lowPolls + 1 then d.setDchan c fun x => { x with mr4 := range, lowPolls := 0 }
        else d.setDchan c fun x => { x with lowPolls := x.lowPolls + 1 }
      else d.setDchan c fun x => { x with lowPolls := 0 }
    d.updateRange c

/-- RFM_ISSUE: a precharged bank whose count has reached RaaImt, or whose activations are held until an RFMpb, gets RFMpb (R392). -/
def rfmIssue (c bank : Nat) (d : Dev) : Dev :=
  let imt := max (d.nat Reg.raaImt c) 1
  if 4 ≤ c ∨ (nget 0 (d.dchan c).raa bank < imt ∧ (nget? (d.dchan c).held bank).isNone) ∨ (nget? (d.dchan c).openRows bank).isSome then d
  else (d.setDchan c fun x => { x with raa := nset 0 x.raa bank (nget 0 x.raa bank - imt), held := nerase x.held bank }).bump Reg.rfmIssued c

/-! ### Training and lanes (R403, R537) -/

/-- DRAM_OSC_CHECK: every 100 ms; a drift of more than 10 % of a unit interval retrains the channel (R403). -/
def oscCheck (c permille : Nat) (e : Eye) (d : Dev) : Dev :=
  if 4 ≤ c then d
  else
    d.onPeriod (130 + c) (msCycles 100) fun d =>
    if permille ≤ 100 then d
    else ((d.bump Reg.retrainEvents c).notice 0xA008 c).storeEye (7 + c) e

/-- DRAM_SCRUB_PASS: a pass is complete; a channel whose corrected errors rose by 16 or more raises its floor (R402, R536). -/
def scrubPass (d : Dev) : Dev :=
  d.onPeriod 140 (secCycles (d.nat Reg.scrubPeriod)) fun d =>
  let d := d.bump Reg.scrubPasses
  let d := (List.range 4).foldl (fun d c =>
    if lget 0 d.dram.scrubBase c + 16 ≤ d.nat Reg.channelEccCorrected c ∧ d.nat Reg.refreshFloor c = 1 then
      (((d.setNat Reg.refreshFloor 2 c).keep Reg.refreshFloor c).notice 0xA804 c).updateRange c
    else d) d
  { d with dram := { d.dram with scrubBase := (List.range 4).map fun c => d.nat Reg.channelEccCorrected c } }

/-! ### Lines and errors (R381, R386, R387, R402) -/

/-- The outputs that an object reaches: those with a crosspoint that sounds or fades. -/
def xpReached (d : Dev) (n : Nat) : List Nat :=
  (d.rend.xp.filter fun p => p.1 / 4096 == n && !(Xp.skipped p.2)).map fun p => p.1 % 4096

/-- A bulk delay line that has not arrived: counted, told, the reached outputs' block `b` is zeroed (R142). -/
def bulkUnderrun (n b : Nat) (d : Dev) : Dev :=
  let d := ((d.bump Reg.bulkUnderruns).bump Reg.rinkBulkUnderruns (n % 16)).notice 0x6003 n
  let d := d.zeroLater b (n % 16) (d.xpReached n)
  d.inDataFault 0x800

/-- The crosspoint whose law 0 copy lies at an address of its region: gain and delay of 4 octets each (R159, Table 13-2). DESIGN
CHOICE (log entry 74): record x of rink r is element r × 524,288 + x. -/
def law0Owner (d : Dev) (a : Nat) : Nat :=
  let e := (a - 0xBA000000) / 8
  let o := d.xpAt (e / 524288) (e % 524288)
  xpKey o.1 o.2

/-- The octets of a line as its owner holds it: bulk rings, output delay rings and the recorder's ring stand in their
functions' state, all other regions in memory. -/
def lineOf (mem : List Host.Cell) (d : Dev) (a : Nat) : Octets :=
  if a < 0x80000000 then
    let n := a / (4 * d.ringSamples)
    let i := a % (4 * d.ringSamples) / 4
    (List.range 16).flatMap fun j => toBE 4 (wrapU 32 (nget 0 d.rend.bulk (n * 262144 + i + j)))
  else if a < 0x8A000000 then
    let m := (a - 0x80000000) / 65536
    let i := a % 65536 / 4
    (List.range 16).flatMap fun j => toBE 4 (wrapU 32 (nget 0 (d.chain m).ring (i + j)))
  else if 0xBA000000 ≤ a ∧ a < 0xBE000000 then
    (List.range 8).flatMap fun j =>
      let v := nget (0, 0) d.rend.law0 (d.law0Owner (a + 8 * j))
      toBE 4 (wrapU 32 v.1) ++ toBE 4 (wrapU 32 v.2)
  else if 0xC0000000 ≤ a ∧ a < 0x143D60000 then
    let f := nget [] d.recd.ring ((a - 0xC0000000) / 192)
    let l := (f.drop ((a - 0xC0000000) % 192)).take 64
    if l.isEmpty then List.replicate 64 (octet 0) else l
  else memLine mem a

/-- A line written where its owner holds it. -/
def lineSet (mem : List Host.Cell) (a : Nat) (l : Octets) (d : Dev) : List Host.Cell × Dev :=
  let l := (l ++ List.replicate 64 (octet 0)).take 64
  if a < 0x80000000 then
    let n := a / (4 * d.ringSamples)
    let i := a % (4 * d.ringSamples) / 4
    (mem, { d with rend := { d.rend with bulk := (lineSamples l).zipIdx.foldl (fun r p => nset 0 r (n * 262144 + i + p.2) p.1) d.rend.bulk } })
  else if a < 0x8A000000 then
    let m := (a - 0x80000000) / 65536
    let i := a % 65536 / 4
    let c := d.chain m
    (mem, d.setChain m { c with ring := (lineSamples l).zipIdx.foldl (fun r p => nset 0 r (i + p.2) p.1) c.ring })
  else if 0xBA000000 ≤ a ∧ a < 0xBE000000 then
    (mem, { d with rend := { d.rend with law0 := (List.range 8).foldl (fun r j =>
      nset (0, 0) r (d.law0Owner (a + 8 * j)) (beAtS l (8 * j) 4, (beAt l (8 * j + 4) 4 : Int))) d.rend.law0 } })
  else if 0xC0000000 ≤ a ∧ a < 0x143D60000 then
    let k := (a - 0xC0000000) / 192
    let o := (a - 0xC0000000) % 192
    let f := nget (List.replicate 192 (octet 0)) d.recd.ring k
    (mem, { d with recd := { d.recd with ring := nput d.recd.ring k (f.take o ++ l ++ f.drop (o + 64)) } })
  else (memWrite mem a l, d)

/-- Whether a queued access is the oldest to its line: accesses to one address keep their order (R386). -/
def oldestToLine (q : List DramReq) (i : Nat) : Bool :=
  match q[i]? with
  | some r => !(q.take i).any fun x => x.access.addr / 64 == r.access.addr / 64
  | none => false

/-- Whether a queued access hits an open row. -/
def rowHit (d : Dev) (c : Nat) (r : DramReq) : Bool :=
  let p := dramPlace r.access.addr
  match nget? (d.dchan c).openRows p.2.1 with
  | some o => o.1 == p.2.2.1 && (match o.2 with | some t => decide (d.clock < t) | none => true)
  | none => false

/-- Whether a row hit must give way to an older access to another row of its bank (RowHitCap, R386). -/
def capped (d : Dev) (c : Nat) (q : List DramReq) (i : Nat) : Bool :=
  match q[i]? with
  | some r =>
    let p := dramPlace r.access.addr
    d.nat Reg.rowHitCap ≤ nget 0 (d.dchan c).hits p.2.1 &&
      (q.take i).any fun x => (dramPlace x.access.addr).2.1 == p.2.1 && (dramPlace x.access.addr).2.2.1 != p.2.2.1
  | none => false

/-- The place in the queue of the access that the scheduler serves next (R386); banks held for RFM wait (R392). -/
def nextAccess (d : Dev) (c : Nat) : Option Nat :=
  let q := (d.dchan c).queue
  let free := (List.range q.length).filter fun i => oldestToLine q i &&
    match q[i]? with
    | some r => d.rowHit c r || (nget? (d.dchan c).held (dramPlace r.access.addr).2.1).isNone
    | none => false
  let pick (rt hit : Bool) : Option Nat := free.find? fun i =>
    match q[i]? with
    | some r => isRt r.q == rt && (!hit || (d.rowHit c r && !d.capped c q i))
    | none => false
  (pick true true).or ((pick true false).or ((pick false true).or (pick false false)))

/-- The row of an access is open: ACT where it was not, with the activation count (R387, R392). -/
def openRow (c : Nat) (r : DramReq) (d : Dev) : Dev :=
  let p := dramPlace r.access.addr
  let bank := p.2.1
  let rest := (d.dchan c).queue.filter fun x => x != r
  let more := rest.any fun x => (dramPlace x.access.addr).2.1 == bank && (dramPlace x.access.addr).2.2.1 == p.2.2.1
  let hit := d.rowHit c r
  let d := d.setDchan c fun x => { x with hits := nset 0 x.hits bank (if hit then nget 0 x.hits bank + 1 else 0) }
  let d := if hit then d
    else
      let n := nget 0 (d.dchan c).raa bank + 1
      let d := d.setDchan c fun x => { x with raa := nput x.raa bank n }
      if max (d.nat Reg.raaMmt c) 1 ≤ n then
        ((d.setDchan c fun x => { x with held := nput x.held bank 1 }).bump Reg.actThrottled c).noticeOnce (0xA00700 + c) 0xA007 (c * 65536 + bank)
      else d
  let close := r.access.hint = 2
  let line := p.2.2.1 * 1024 + bank * 64 + 62 + p.2.2.2 / 32
  let d := d.setDchan c fun x => { x with checkLines := (line :: x.checkLines.filter (· ≠ line)).take 64 }
  if close then d.setDchan c fun x => { x with openRows := nerase x.openRows bank }
  else d.setDchan c fun x => { x with openRows := nput x.openRows bank (p.2.2.1, if r.access.hint = 0 ∧ !more then some (d.clock + 32) else none) }

/-- Whether a read of a line returns it poisoned, with what the controller then does: an error that the read finds now stays in the
line until it is written, a perturbed line reads poisoned once (R402, Table 19-4). -/
def poisonCheck (a : Nat) (found : Bool) (d : Dev) : Bool × Dev :=
  let line := a / 64
  let p := dramPlace (line * 64)
  if !found && !(d.dram.bad.contains line) && (nget? d.perturb.poison line).isNone then (false, d)
  else
    let d := { d with dram := { d.dram with bad := if found then line :: d.dram.bad.filter (· ≠ line) else d.dram.bad } }
    let d := { d with perturb := { d.perturb with poison := nerase d.perturb.poison line } }
    (true, (d.bump Reg.channelEccUncorrected p.1).notice 0xA004 (p.1 * 65536 + p.2.1))

/-- What a requester does with a poisoned line, read for the address `a` (R402). A law 0 record whose copy is lost keeps gain 0
until it is rewritten; taps that are lost leave their output zeroed until a FIR change; the journal loses the entry at the line and
those before it, since a unit that needs one of these needs that one too. -/
def poisoned (q a : Nat) (d : Dev) : Dev :=
  match q with
  | 0 =>
    let n := a / 64 * 64 / (4 * d.ringSamples)
    let i := a / 64 * 64 % (4 * d.ringSamples) / 4
    let d : Dev := { d with rend := { d.rend with absent := (n * 16384 + i / 16) :: d.rend.absent } }
    d.bulkUnderrun n ((d.msc - 2 - d.nat Reg.groupExtraLatency) / 32)
  | 1 =>
    let m := (a - 0x80000000) / 65536
    ((d.correctionZero m (d.mscNow / 32) 0 true).correctionFault m 2).inDataFault (0x10000 + m)
  | 2 =>
    let size := if d.fast then 61440 else 126976
    let m := (a - 0x8A000000) / (2 * size)
    (d.spectrumLost m (spectrumLevel ((a - 0x8A000000) % size)) (d.mscNow - 66 - d.lag)).inDataFault (0x10000 + m)
  | 3 =>
    if 0xBE000000 ≤ a then d.wedged
    else if 0xBA000000 ≤ a then
      let key := d.law0Owner a
      let d := d.setXp (key / 4096) (key % 4096) xpZero
      { d with rend := { d.rend with law0 := nerase d.rend.law0 key } }
    else d.correctionZero (Config.tapOwner (a / 64) % 2560) ((d.mscNow - 66 - d.lag) / 32) (2 ^ 64) false
  | 4 =>
    let seq := Config.journalAt (a / 64)
    let rest := (d.cal.journal.dropWhile fun r => r.seq != seq).drop 1
    let d := if d.cal.journal.any fun r => r.seq == seq then { d with cal := { d.cal with journal := rest } } else d
    d.busError (0x1000000000 + a) 6 4
  | 6 => (d.engineFails (Config.tapOwner (a / 64) % 4)).busError (0x1000000000 + a) (2 + Config.tapOwner (a / 64) % 4) 4
  | 7 => { d with recd := { d.recd with bad := nput d.recd.bad ((a - 0xC0000000) / 64) 1 } }
  | 8 =>
    if a < 0x144000000 then { d with recd := { d.recd with bad := nput d.recd.bad ((a - 0xC0000000) / 64) 1 } }
    else (d.transferFails (Config.tapOwner (a / 64))).busError (0x1000000000 + a) 1 4
  | 5 =>
    let d := d.busError (0x1000000000 + a) 0 4
    if 0x244000000 ≤ a then d.wedged else d
  | _ => d

/-- DRAM_ACCESS_COMPLETE: the scheduler's next access of a channel completes; `err` is 0 for a clean line, 1 for a
single-bit error, 2 for a double-bit error (R383, R385, R386, R402). -/
def accessComplete (mem : List Host.Cell) (c err : Nat) (d : Dev) : List Host.Cell × Dev :=
  match d.nextAccess c with
  | none => (mem, d)
  | some i =>
    match (d.dchan c).queue[i]? with
    | none => (mem, d)
    | some r =>
      let a := r.access.addr / 64 * 64
      let d := d.openRow c r
      let d := d.setDchan c fun x => { x with queue := x.queue.eraseIdx i, completedAt := d.clock }
      let d := if isRt r.q && !r.access.write then d.peak Reg.rtLatencyPeak (cyclesToNs (d.clock - r.admitted)) else d
      let bank := (dramPlace a).2.1
      if !regionOk r.q a then
        let d := { d with dram := { d.dram with lastLine := if r.access.write then d.dram.lastLine else [], lastPoisoned := false } }
        (mem, (d.bump Reg.dramRegionFaults).notice 0xA00A r.q)
      else if r.access.write then
        ({ d with dram := { d.dram with bad := d.dram.bad.filter (· ≠ a / 64) } }).lineSet mem a r.access.data
      else
        let x := d.poisonCheck a (err == 2)
        let d := x.2
        let d := { d with dram := { d.dram with lastLine := d.lineOf mem a, lastPoisoned := x.1 } }
        if x.1 then (mem, d.poisoned r.q r.access.addr)
        else if err = 1 then
          let d := (d.bump Reg.channelEccCorrected c).noticeOnce (0xA00300 + c) 0xA003 (c * 65536 + bank)
          (mem, if r.q = 1 ∨ r.q = 2 then d.bump Reg.correctionEccCorrected else d)
        else (mem, d)

end Dev

end Sys2Proof.Machine
end

