-- ==== Sys2Proof/Machine/Pair.lean ====
section
/-! DEFINITION. The pair: forming, interlock, handover, takeover, tracing, audit, catching up, health (chapter 15). -/

namespace Sys2Proof.Machine

/-- FabricClk cycles in a number of nanoseconds, rounded up. -/
def nsCycles (n : Nat) : Nat := cdiv (n * 786432) 1000000

/-- The first place at which two lists of signatures differ. -/
def firstDiff (a b : List Nat) : Option Nat := (List.range (max a.length b.length)).find? fun i => a[i]? ≠ b[i]?

/-- The check block of an audit: two blocks after a render difference, three after a late one (R441). -/
def Audit.checkBlock (a : Audit) : Nat := if a.point = 2 then a.block + 2 else a.block + 3

namespace Dev

/-! ### Forming (R423 to R426) -/

/-- The MacAddress of port 0. -/
def mac0 (d : Dev) : Nat := d.nat Reg.macAddress 0

/-- The committed shape that the units of a pair must share (R423). -/
def shapeInForce (d : Dev) : List Nat := [d.fr, d.parts, d.outs, d.inForce Reg.partitionOutputs0, d.inForce Reg.partitionOutputs1,
  d.inForce Reg.partitionOutputs2, d.inForce Reg.partitionOutputs3]

/-- The pair hello goes to the partner (R426). -/
def sendHello (d : Dev) : Dev :=
  d.tellPartner 1 (d.bytes Reg.serialNumber ++ toBE 1 (b2n d.power.rolePref) ++ toBE 6 d.mac0 ++ toBE 4 (d.nat Reg.firmwareVersion) ++
    toBE 4 (d.nat Reg.journalSeq) ++ toBE 1 (d.nat Reg.pairState) ++ toBE 1 (d.inForce Reg.groupRole) ++ d.shapeInForce.flatMap (toBE 4))

/-- The assert time of the unit's strap in cycles (Table 15-2). -/
def assertTime (d : Dev) : Nat := if d.power.rolePref then nsCycles 500 else nsCycles (2500 + 500 * (d.mac0 % 64))

/-- The lead is requested: ILK_OUT is to go high after an assert time (R429). -/
def requestLead (cycles reason : Nat) (d : Dev) : Dev :=
  if d.lone ∨ d.pair.lead then d
  else d.setPair fun p => { p with requested := true, assertAt := some (d.clock + cycles), reason }

/-- Whether a unit wins a contest or a forming against the partner: ROLE_PREF, then the lower MAC address (R426, R429). -/
def prefers (d : Dev) : Bool :=
  match d.pair.partner with
  | some q => if d.power.rolePref = q.rolePref then d.mac0 < q.mac else d.power.rolePref
  | none => d.power.rolePref

/-- PAIR_HELLO: the hello of the partner (R426). -/
def pairHello (q : Hello) (d : Dev) : Dev :=
  if d.lone then d
  else if q.shape ≠ d.shapeInForce then (d.setPair fun p => { p with refused := true }).notice 0x800A 1
  else if q.firmware / 2 ^ 24 % 256 ≠ d.nat Reg.firmwareVersion / 2 ^ 24 then (d.setPair fun p => { p with refused := true }).notice 0x800A 2
  else
    let d := (d.setPair fun p => { p with refused := false, partner := some q, lastFrame := some d.msc, silent := false }).setVal Reg.partnerSerial (.bytes q.serial)
    let st := d.nat Reg.pairState
    if st = 1 then
      if q.state = 2 ∨ q.state = 3 ∨ q.state = 4 then
        (d.setPair fun p => { p with requested := false, assertAt := none }).enterCatchup 1
      else if q.state = 1 ∧ d.prefers ∧ !d.pair.requested then d.requestLead d.assertTime 2
      else d
    else if st = 4 then d.setPairState 3
    else d

/-- PAIR_FORM_TIMEOUT: no hello within PairFormTimeout of leaving BOOT; the lead is requested alone. A unit whose partner's hello was
refused stays in state 1 (R426). -/
def pairFormTimeout (d : Dev) : Dev :=
  if d.lone ∨ d.nat Reg.pairState ≠ 1 ∨ d.pair.refused ∨ d.pair.partner.isSome ∨ d.pair.requested ∨ d.pair.lead then d
  else
    d.onDue (d.pair.bootLeftAt + msCycles (d.nat Reg.pairFormTimeout)) fun d =>
    d.requestLead d.assertTime 2

/-! ### Interlock (R427 to R431) -/

/-- ILK_ASSERT: after the assert time ILK_OUT is driven high if ILK_IN is low (R429). -/
def ilkAssert (d : Dev) : Dev :=
  match d.pair.assertAt with
  | none => d
  | some t =>
    d.onDue t fun d =>
    if d.flag Reg.ilkIn then d.setPair fun p => { p with requested := false, assertAt := none }
    else d.setIlkOut true

/-- ILK_IN_CHANGE: a level held for tIlkFilter is registered; a rise within tIlkGuard of this unit's own assertion is a
contest, and a fall during a handover requests the lead (R428, R429, R431, R432). -/
def ilkInChange (level : Bool) (d : Dev) : Dev :=
  if d.lone ∨ d.flag Reg.ilkIn = level then d
  else
    let d := d.advance (nsCycles 200)
    let d := (d.setFlag Reg.ilkIn level).setPair fun p => { p with inAt := d.clock }
    if level then
      let contest := d.flag Reg.ilkOut && !d.flag Reg.ilkGate && decide (d.clock ≤ d.pair.outAt + nsCycles 1000)
      let d := d.setFlag Reg.ilkGate false
      if !contest then d
      else
        let d := d.bump Reg.ilkCollisions
        if d.prefers then d
        else (d.setIlkOut false).setPair fun p => { p with requested := false, retryAt := d.clock + msCycles 10, assertAt := none }
    else
      let d := d.setPair fun p => { p with odd := false }
      if d.nat Reg.pairState = 6 ∧ d.pair.handover.isSome then d.requestLead 0 d.pair.reason
      else if (d.nat Reg.pairState = 5 ∨ d.nat Reg.pairState = 6) ∧ d.pair.releaseSeen ∧ (d.nat Reg.pairState = 6 ∨ 2 ≤ d.nat Reg.catchupStage) then d.requestLead 0 2
      else d

/-- ILK_COLLISION_RETRY: a unit that released in a contest requests again, no sooner than 10 ms later (R429). -/
def ilkRetry (d : Dev) : Dev :=
  if d.lone ∨ d.pair.retryAt = 0 ∨ d.pair.requested ∨ d.pair.lead then d
  else
    d.onDue d.pair.retryAt fun d =>
    let d := d.setPair fun p => { p with retryAt := 0 }
    if d.flag Reg.ilkIn then d else d.requestLead d.assertTime d.pair.reason

/-- The lead is held: PairState, LeadSince; it holds from the first tick that begins after the gate opens (R430). -/
def holdLead (d : Dev) : Dev :=
  if d.lone ∨ d.isLead ∨ !d.pair.lead then d
  else
    let st := if d.dlinkUp 2 ∧ d.pair.partner.isSome ∧ !d.pair.silent then 3 else 4
    let d := ((d.setNat Reg.leadSince d.msc).setPairState st).setNat Reg.catchupStage 0
    d.sendHello

/-- ILK_GATE_OPEN: ILK_OUT high for tIlkGuard with ILK_IN low opens the gate; the unit takes the lead, sends the packets it
holds, its TRACKED channels enter MUTE (R427, R430, R432, R448). -/
def ilkGateOpen (d : Dev) : Dev :=
  if d.lone ∨ !d.flag Reg.ilkOut ∨ d.flag Reg.ilkIn ∨ d.flag Reg.ilkGate ∨ !(d.pair.requested || d.pair.lead) then d
  else
    d.onDue (max d.pair.outAt d.pair.inAt + nsCycles 1000) fun d =>
    let d := d.setFlag Reg.ilkGate true
    if d.pair.lead then d
    else
      let st := d.nat Reg.pairState
      let held := d.pair.heldPackets
      let reason := d.pair.reason
      let d := d.setPair fun p => { p with lead := true, requested := false, assertAt := none, handover := none, heldPackets := [], releaseSeen := false, odd := false }
      let d := if reason = 2 then (if st = 1 then d else d.bump Reg.takeovers) else d.bump Reg.handovers
      let d := d.notice 0x8001 (reason * 65536)
      let d := held.foldl (fun (d : Dev) k => d.flowsDepart k true [] []) d.convTakeLead
      let d := d.setPair fun p => { p with lastHandover := if reason = 2 then p.lastHandover else some d.clock }
      if d.alm.aligned then d else d.holdLead

/-- Whether DP is silent: down, or no tick frame for 2 consecutive ticks (R431). -/
def dpSilent (d : Dev) : Bool :=
  !d.dlinkUp 2 || match d.pair.lastFrame with | some t => decide (t + 3 ≤ d.msc) | none => true

/-- Whether a standby may take the lead: state 6, or state 5 with stage 1 completed (R447). -/
def mayTake (d : Dev) : Bool := d.nat Reg.pairState == 6 || (d.nat Reg.pairState == 5 && decide (2 ≤ d.nat Reg.catchupStage))

/-- DP_SILENCE: no tick frame for 2 ticks: with ILK_IN low the standby takes the lead, with ILK_IN high masking is lost
(Table 15-3 rows 2 and 4, R448). -/
def dpSilence (d : Dev) : Dev :=
  if d.lone ∨ !(d.nat Reg.pairState = 5 ∨ d.nat Reg.pairState = 6) ∨ !d.dpSilent then d
  else if d.flag Reg.ilkIn then
    if d.pair.silent then d else (d.setPair fun p => { p with silent := true }).notice 0x8006 0
  else
    let d := d.setPair fun p => { p with silent := true }
    if d.mayTake ∧ !d.pair.requested then d.requestLead (nsCycles 500) 2 else d

/-- RELEASE_MESSAGE: the lead has released; with ILK_IN low the standby takes the lead at once (Table 15-3 row 3). -/
def releaseMessage (d : Dev) : Dev :=
  if d.lone ∨ !(d.nat Reg.pairState = 5 ∨ d.nat Reg.pairState = 6) then d
  else
    let d := d.setPair fun p => { p with releaseSeen := true, handover := none, heldPackets := [] }
    if !d.flag Reg.ilkIn ∧ d.mayTake ∧ !d.pair.requested then d.requestLead 0 2 else d

/-- Table 15-3 evaluated at every tick: DP silent, or ILK_IN low with DP alive and no release message (R431). -/
def ilkTick (d : Dev) : Dev :=
  if d.lone ∨ !(d.nat Reg.pairState = 5 ∨ d.nat Reg.pairState = 6) then d
  else
    let d := d.dpSilence
    let odd := !d.flag Reg.ilkIn && !d.dpSilent && !d.pair.releaseSeen && d.pair.handover.isNone && !d.pair.requested && !d.pair.lead
    let d' := d.setPair fun p => { p with odd }
    if odd && !d.pair.odd then (d'.bump Reg.ilkInconsistent).notice 0x8005 0 else d'

/-! ### Planned handover (R432, R433) -/

/-- HandoverCmd "now": a planned handover at least 1 ms ahead, after any audit in progress (R432, R450). -/
def handoverCmd (arg : Octets) (d : Dev) : Status × Dev :=
  if arg ≠ ascii "now" then (Status.range, d)
  else if d.nat Reg.pairState ≠ 2 ∨ d.pair.handover.isSome ∨ d.nat Reg.partnerHealth % 256 ≠ 255 then (Status.state, d)
  else if d.pair.audit.isSome then (Status.ok, d.setPair fun p => { p with waiting := true })
  else (Status.ok, d.startHandover (d.msc + 1 + d.fr / 1000) 1)

/-- HANDOVER_DATE: the standby receives H and holds the packets of departure ticks from H on (R432). -/
def handoverDate (h : Nat) (byFault : Bool) (d : Dev) : Dev :=
  if d.lone ∨ d.nat Reg.pairState ≠ 6 then d
  else d.setPair fun p => { p with handover := some h, reason := if byFault then 3 else 1, heldPackets := [] }

/-- HANDOVER_RELEASE: the last packet before H has started on every port and tReleasePoint of tick H − 1 has passed:
ILK_OUT goes low, and the unit goes on as standby (R432, R433). -/
def handoverRelease (d : Dev) : Dev :=
  match d.pair.handover with
  | none => d
  | some h =>
    if d.lone ∨ !d.pair.lead ∨ d.msc + 1 < h ∨ d.ports.items.any (fun q => !q.flowQueue.isEmpty) then d
    else
      let d := if d.msc + 1 = h then d.advanceTo (d.tickAt + nsCycles 8000) else d
      let reason := d.pair.reason
      let d := (d.setIlkOut false).setFlag Reg.ilkGate false
      let d := d.setPair fun p => { p with lead := false, handover := none, lastHandover := some d.clock, lastFrame := some d.msc, releaseSeen := false }
      d.enterCatchup (if reason = 3 then 2 else 4)

/-! ### Tracing (R438, R439) -/

/-- A signature: CRC-32C over samples of 4 octets. -/
def sampleCrc (l : List Int) : Nat := crc32c (l.flatMap fun x => toBE 4 (wrapU 32 x))

/-- The 64 plane signatures of a block from the planes kept (R438). -/
def planeSigs (d : Dev) (b : Nat) (object : Bool) : List Nat :=
  let dates := (List.range 32).map fun i => (d.pair.planes.find? fun x => x.1 == 32 * b + i).map fun x => if object then x.2.2 else x.2.1
  (List.range 64).map fun g => sampleCrc (dates.flatMap fun m => (List.range 64).map fun s => nget 0 (m.getD []) (64 * g + s))

/-- The record of Table 5-3 with BlockTag 0, as 16 octets. -/
def xpOctets (x : Xp) : Octets :=
  toBE 16 (wrapU 24 x.gainFrom + wrapU 24 x.gainTo * 2 ^ 24 + wrapU 32 x.delayFrom * 2 ^ 48 + wrapU 32 x.delayTo * 2 ^ 80 +
    b2n x.step * 2 ^ 112 + b2n x.clip * 2 ^ 113)

/-- TargetSig of each rink: the records that the block's evaluation wrote, against the store before it (R438). -/
def targetSigs (d : Dev) (before : NMap Xp) : List Nat :=
  (List.range 16).map fun r => (d.rend.xp.foldl (fun s (p : Nat × Xp) =>
    if p.1 / 4096 % 16 ≠ r ∨ p.2.tag ≠ d.blockTag ∨ nget? before p.1 = some p.2 then s
    else s + crc32c (toBE 4 (d.xpIndex p.1) ++ xpOctets p.2)) 0) % 2 ^ 32

/-- PartialSig of each rink for the render of a block about to take place (R438). -/
def partialSigs (d : Dev) (b : Nat) : List Nat :=
  (List.range 16).map fun r =>
    let mine : Dev := { d with rend := { d.rend with xp := d.rend.xp.filter fun p => p.1 / 4096 % 16 == r } }
    let sums := mine.partials b
    let p := r % max d.parts 1
    ((List.range (d.partOuts p)).foldl (fun s l =>
      let v := (nget? sums (d.partBase p + l)).getD (List.replicate 32 0)
      s + crc32c (toBE 2 l ++ v.flatMap fun x => toBE 6 (wrapU 48 x))) 0) % 2 ^ 32

/-- The egress slots that have a writer: outputs and the programme (R438). -/
def tracedSlots (d : Dev) : List Nat :=
  let outs := (List.range d.outs).map fun m => d.nat Reg.outputEgressSlot m
  let set := programmeEgress d.mix.cur
  (List.range 4096).filter fun s => set.testBit s || outs.contains s

/-- The tracing T of each traced slot over a block's dates (R438). -/
def lateSigs (d : Dev) (b : Nat) : List Nat :=
  d.tracedSlots.map fun s => sampleCrc ((List.range 32).map fun i => d.egressAt (32 * b + i + 72 + d.nat Reg.groupExtraLatency) s)

/-- An audit of a block starts (R441, R443): the point and place of the first difference. -/
def startAudit (b point first : Nat) (own theirs : List Nat) (d : Dev) : Dev :=
  if d.pair.audit.isSome then d
  else
    let slots := if point = 3 then (d.tracedSlots.zipIdx.filter fun x => own[x.2]? ≠ theirs[x.2]?).map (·.1) else []
    let disputed := ((List.range d.outs).filter fun m => slots.contains (d.nat Reg.outputEgressSlot m)).take 16
    let first := if point = 3 then lget 0 d.tracedSlots first else first
    (d.setNat Reg.auditState 1).setPair fun p => { p with audit := some { block := b, point, first, disputed } }

/-- Two units' signatures of a point agree or differ (R439). -/
def compareSigs (b point : Nat) (own theirs : List Nat) (d : Dev) : Dev :=
  match firstDiff own theirs with
  | none =>
    let n := nget 0 d.pair.agreed b + 1
    let d := d.setPair fun p => { p with agreed := (nput p.agreed b n).filter fun x => decide (b < x.1 + 8) }
    if n < 3 then d
    else
      let d := d.bump Reg.agreeRun
      if d.nat Reg.pairState = 5 ∧ d.nat Reg.catchupStage = 4 ∧ 32 ≤ d.nat Reg.agreeRun then
        ((d.setPairState 6).setNat Reg.catchupStage 0).notice 0x8007 0
      else d
  | some i =>
    let d := d.setNat Reg.agreeRun 0
    if d.nat Reg.pairState = 2 ∨ d.nat Reg.pairState = 6 then
      let d := ((d.bump Reg.tracingMismatches).setNat Reg.lastMismatchBlock (32 * b)).keep Reg.lastMismatchBlock
      ((d.notice 0x8003 (point * 2 ^ 24 + i)).recTrigger 1).startAudit b point i own theirs
    else d

/-- This unit's signatures of a point are complete: sent, kept for 8 blocks, compared with what the partner sent. -/
def ownSigs (b point : Nat) (sigs : List Nat) (d : Dev) : Dev :=
  if d.lone then d
  else
    let sent := match nget? d.perturb.corrupt point with
      | some mask => (match sigs with | s :: t => (s ^^^ mask) :: t | [] => [])
      | none => sigs
    let d : Dev := { d with perturb := { d.perturb with corrupt := nerase d.perturb.corrupt point } }
    let flag := if point = 1 then toBE 1 (b2n (d.pair.incomplete.contains b)) else []
    let d := d.sendCell 2 .trace 0xFFFF (point * 2 ^ 28 + b % 2 ^ 28) (flag ++ sent.flatMap (toBE 4))
    let d := d.setPair fun p => { p with sigs := (nput p.sigs (b * 4 + point) sigs).filter fun x => decide (b < x.1 / 4 + 8) }
    match nget? d.pair.theirs (b * 4 + point) with
    | some t => (d.setPair fun p => { p with theirs := nerase p.theirs (b * 4 + point) }).compareSigs b point sigs t
    | none => d

/-- TRACING_MESSAGE: the partner's signatures of a point of Table 15-5 (R439). -/
def tracingMessage (point b : Nat) (incomplete : Bool) (sigs : List Nat) (d : Dev) : Dev :=
  if d.lone ∨ d.pair.partner.isNone ∨ point = 0 ∨ 3 < point then d
  else
    let d := d.setPair fun p => { p with gapRun := 0, theirIncomplete := if incomplete then (b :: p.theirIncomplete).take 16 else p.theirIncomplete }
    match nget? d.pair.sigs (b * 4 + point) with
    | some own => d.compareSigs b point own sigs
    | none => d.setPair fun p => { p with theirs := (nput p.theirs (b * 4 + point) sigs).filter fun x => decide (b < x.1 / 4 + 8) }

/-- TRACING_DEADLINE: a message of the partner is missing at its deadline (R439). -/
def tracingDeadline (d : Dev) : Dev :=
  if d.lone ∨ d.pair.partner.isNone then d
  else
    let n := d.pair.gapRun + 1
    let d := ((d.bump Reg.tracingGaps).setNat Reg.agreeRun 0).setPair fun p => { p with gapRun := n }
    if d.nat Reg.pairState = 6 ∧ 3 ≤ n then d.standbyFalls 4 else d

/-! ### Audit (R440 to R443) -/

/-- The row of Table 15-6 that decides an audit. -/
def auditRow (ownFault partnerFault ownBad partnerBad early ingress mine other noneDisputed : Bool) : Nat :=
  if ownFault != partnerFault then 1
  else if ownFault then 2
  else if early then (if ingress && mine != other then 3 else 4)
  else if noneDisputed then 7
  else if ownBad != partnerBad then 5
  else if ownBad then 6
  else 7

/-- The unit that diverged by row 3: a lead in state 2 hands over, no sooner than InputHandoverHoldoff after the last time
(R442); another unit enters state 5. -/
def diverged (d : Dev) : Dev :=
  let rested := match d.pair.lastHandover with
    | some t => decide (t + msCycles (d.nat Reg.inputHandoverHoldoff) ≤ d.clock)
    | none => true
  if d.nat Reg.pairState = 2 then
    if rested && d.pair.handover.isNone then d.startHandover (d.msc + 2) 1 else d
  else d.standbyFalls 2

/-- A detected-in-data fault of one output that a recomputation found: its block in the render is zeroed (R31, R165, R441, R449). -/
def outputFault (m : Nat) (d : Dev) : Dev :=
  (d.zeroBlocks (blockInRender (d.mscNow - d.lag)) 0xFFFF [m]).inDataFault (0x10000 + m)

/-- The date by which an audit is decided: once its check block is complete; at once for a difference that needs none, or where a unit
raised a fault (Tables 15-5 and 15-6). -/
def auditDue (d : Dev) (a : Audit) (fault : Bool) : Nat :=
  if a.point = 1 ∨ fault then 0 else 32 * a.checkBlock + d.lag + (if a.point = 2 then 66 else 104)

/-- What the outcome of an audit does in this unit (Table 15-6). -/
def auditEffect (row : Nat) (ownFault ownBad mine : Bool) (out : Nat) (d : Dev) : Dev :=
  match row with
  | 1 => if ownFault then d.standbyFalls 2 else d
  | 3 => if mine then d.diverged else d
  | 5 => if ownBad then (d.outputFault out).standbyFalls 2 else d
  | _ => d.standbyFalls 2

/-- A handover command that waited for an audit goes on (R432). -/
def afterAudit (d : Dev) : Dev :=
  if d.pair.waiting ∧ d.nat Reg.pairState = 2 ∧ d.pair.handover.isNone then d.startHandover (d.msc + 1 + d.fr / 1000) 1
  else d.setPair fun p => { p with waiting := false }

/-- AUDIT_CHECK_BLOCK: the outcome of the audit by Table 15-6, from what each unit raised and found; `disputed` are the
outputs whose partials differ. -/
def auditCheck (partnerFault ownBad partnerBad : Bool) (disputed : List Nat) (d : Dev) : Dev :=
  match d.pair.audit with
  | none => d
  | some a =>
    let ownFault := d.pair.faults.contains a.block
    match d.reachMsc (d.auditDue a (ownFault || partnerFault)) with
    | none => d
    | some d =>
    let outs := (if a.point = 2 then (disputed.foldl (fun (m : NMap Unit) k => nput m k ()) []).map (·.1) else a.disputed).take 16
    let early := a.point == 1
    let mine := d.pair.incomplete.contains a.block
    let row := auditRow ownFault partnerFault ownBad partnerBad early (early && a.first < 64) mine (d.pair.theirIncomplete.contains a.block) outs.isEmpty
    let last := row * 2 ^ 24 + a.point * 2 ^ 16 + (outs.headD a.first) % 65536
    ((d.auditDecide row last).auditEffect row ownFault ownBad mine (outs.headD 0)).afterAudit

/-- Whether the check block of the audit in progress is what the audit engine works on at this boundary (R441, R443). -/
def checkRuns (d : Dev) : Bool :=
  match d.pair.audit with
  | some a => a.point != 1 && decide (32 * (a.checkBlock + 1) + d.lag ≤ d.msc)
  | none => false

/-- The patrol of a block boundary, in a lone module too: a difference for output BlockCount mod OutputsConfigured is an in-data fault; it
pauses while an audit's check block runs, which AuditState then shows (R443, R449, Table 15-10). -/
def patrol (bad : Bool) (d : Dev) : Dev :=
  if d.checkRuns then d.setNat Reg.auditState 2
  else if !bad then d
  else
    let m := d.nat Reg.blockCount % max d.outs 1
    let d := (d.bump Reg.patrolErrors).setPair fun p => { p with patrolAt := some d.clock }
    d.outputFault m

/-! ### Health (R437, R450) -/

/-- The health word of this unit (R450). -/
def healthWord (d : Dev) : Nat :=
  let carrying := (List.range 4).filter fun p => (List.range 256).any fun f =>
    d.flag Reg.txEnable f && (d.nat Reg.txPort f == p || d.nat Reg.txSecondPort f == p)
  let patrolled := match d.pair.patrolAt with | some t => decide (d.clock < t + secCycles 1) | none => false
  b2n (d.nat Reg.pairState == 6) + 2 * b2n (d.dlinkUp 2) + 4 * b2n (!d.pair.odd) + 8 * b2n (carrying.all d.portUp) +
    16 * b2n (d.sourceOkNow (d.nat Reg.selectedSource)) + 32 * b2n (!(List.range 13).any fun s => d.nat Reg.sensorState s = 3) + 64 * b2n (!patrolled) +
    128 * b2n (!d.flag Reg.mirrorStale) + 65536 * beAt (d.bytes Reg.pairDigest) 0 2

/-- HEALTH_WORD: the partner's word; a lead learns whether its standby is ready, a ready standby compares the digests of one
date (R437, R450). -/
def health (w : Nat) (sameDate : Bool) (d : Dev) : Dev :=
  if d.lone then d
  else
    let d := d.setNat Reg.partnerHealth (w % 2 ^ 32)
    let st := d.nat Reg.pairState
    if st = 2 ∨ st = 3 ∨ st = 4 then d.setPairState (if w.testBit 0 then 2 else 3)
    else if st = 6 ∧ sameDate ∧ w / 65536 % 65536 ≠ beAt (d.bytes Reg.pairDigest) 0 2 then d.enterCatchup 1
    else d

/-! ### Mirroring (R434, R436) -/

/-- A response held until the standby acknowledges the mirrored write (R436). -/
def mirrorHold (body : Octets) (resp : Out) (d : Dev) : Dev :=
  let id := d.pair.nextMirror
  (d.tellPartner 4 (toBE 4 id ++ body)).setPair fun p => { p with nextMirror := (id + 1) % 2 ^ 32, mirrors := p.mirrors ++ [(id, d.clock, resp)] }

/-- Writes that go to the standby with no response held for them. -/
def mirrorLoose (body : Octets) (d : Dev) : Dev :=
  let id := d.pair.nextMirror
  (d.tellPartner 4 (toBE 4 id ++ body)).setPair fun p => { p with nextMirror := (id + 1) % 2 ^ 32 }

/-- One write as the lead sends it to its standby: index, sub-index, length, octets. -/
def mirrorItem (idx sub : Nat) (l : Octets) : Octets := toBE 2 idx ++ toBE 1 sub ++ toBE 4 l.length ++ l

/-- Whether a key slot is one that a pair shares (R513). -/
def sharedKey (idx sub : Nat) : Bool := Reg.trustAnchor.coversIndex idx && sub == 1 || entryKey idx sub == Reg.canKey.key

/-- Key material as it crosses DP: sealed under the key derived as the pair formed (R513). -/
def sealedKey (d : Dev) (m : Octets) : Octets := Config.macsecSeal (Config.fused 5) 2 d.pair.nextMirror m

/-- The keys that a pair shares go to the standby, sealed (R513). -/
def mirrorKeys (d : Dev) : Dev :=
  let keys := ((List.range 4).map fun i => (0x2310 + i, 1)) ++ [(0x1001, 5)]
  keys.foldl (fun (d : Dev) k => d.mirrorLoose (mirrorItem k.1 k.2 (d.sealedKey (nget [] d.sec.keys (entryKey k.1 k.2))))) d

/-- The acknowledgement of a mirrored write: its response leaves (R436). -/
def mirrorAck (id : Nat) (d : Dev) : Dev :=
  match d.pair.mirrors.find? fun x => x.1 == id with
  | some x => (d.sendOut x.2.2).setPair fun p => { p with mirrors := p.mirrors.filter fun y => y.1 != id }
  | none => d

/-- MIRROR_ACK_TIMEOUT: 1 ms without acknowledgement the lead responds, and its standby is stale (R436). -/
def mirrorTimeout (d : Dev) : Dev :=
  match d.pair.mirrors with
  | [] => d
  | x :: t =>
    d.onDue (x.2.1 + usCycles 1000) fun d =>
    let d := (d.sendOut x.2.2).setPair fun p => { p with mirrors := t }
    if d.nat Reg.pairState = 2 then d.setPairState 3 else d

/-- A standby that missed or could not apply a mirrored write: MirrorStale, state 5 (R436). -/
def goStale (d : Dev) : Dev := (d.setFlag Reg.mirrorStale true).standbyFalls 1

/-- The sequence counters of R434. -/
def counters (d : Dev) : Octets :=
  toBE 4 (d.nat Reg.configEpoch) ++ toBE 4 (d.nat Reg.journalSeq) ++ toBE 4 (d.nat Reg.canFreshnessTx) ++
    (List.range 16).flatMap (fun i => toBE 4 (d.nat Reg.mapLastSequence i)) ++ (List.range 127).flatMap (fun i => toBE 4 (d.nat Reg.canFreshnessRx i)) ++
    toBE 2 (((List.range 16).map fun i => b2n (d.fifo i).seeded * 2 ^ i).foldl (· + ·) 0)

/-- A lead tells its standby the sequence counters where they have changed since it last did (R434). -/
def sendCounters (d : Dev) : Dev :=
  if !d.paired ∨ !d.isLead ∨ d.counters = d.pair.countersTold then d
  else (d.tellPartner 8 d.counters).setPair fun p => { p with countersTold := d.counters }

/-! ### Catching up (R444 to R447) -/

/-- CATCHUP_HISTORY_DONE: HistoryHorizon samples rendered muted (R444). -/
def catchupHistory (d : Dev) : Dev :=
  if d.nat Reg.pairState = 5 ∧ d.nat Reg.catchupStage = 2 ∧ d.pair.stageAt + d.nat Reg.historyHorizon ≤ d.msc then
    (d.setNat Reg.catchupStage 3).setPair fun p => { p with stageAt := d.msc }
  else d

/-- CATCHUP_SEEDING_DONE: 320 ticks of seeding (R446). -/
def catchupSeeding (d : Dev) : Dev :=
  if d.nat Reg.pairState = 5 ∧ d.nat Reg.catchupStage = 3 ∧ d.pair.stageAt + 320 ≤ d.msc then
    ((d.setNat Reg.catchupStage 4).setNat Reg.agreeRun 0).setPair fun p => { p with stageAt := d.msc }
  else d

/-- CATCHUP_LIMIT: not in state 6 within CatchupLimit: restart at stage 2 (R447). -/
def catchupLimit (d : Dev) : Dev :=
  if d.nat Reg.pairState = 5 then
    d.onDue (d.pair.catchupAt + msCycles (d.nat Reg.catchupLimit)) fun d =>
    let d := d.notice 0x8008 0
    let d := (d.setNat Reg.catchupStage (if d.nat Reg.catchupStage = 1 then 1 else 2)).setNat Reg.agreeRun 0
    d.setPair fun p => { p with stageAt := d.msc, catchupAt := d.clock }
  else d

/-- Stage 1 is complete: the journal is replayed and MirrorStale clears (R444). -/
def mirrorDone (d : Dev) : Dev :=
  if d.nat Reg.pairState = 5 ∧ d.nat Reg.catchupStage = 1 then
    ((d.setFlag Reg.mirrorStale false).setNat Reg.catchupStage 2).setPair fun p => { p with stageAt := d.msc }
  else d

/-- A state seed installed (R446). -/
def installSeed (d : Dev) (s : Seed) : Dev :=
  match s with
  | .output m bq g =>
    let c := d.chain m
    let secs : List Biquad := bq.map fun l => { x1 := lget 0 l 0, x2 := lget 0 l 1, y1 := lget 0 l 2, y2 := lget 0 l 3, e := lget 0 l 4 }
    d.setChain m { c with biquads := secs, g }
  | .pool c dc => d.setConv c fun x => { x with dc }

/-- The state seeds of the ticks before `k`, installed before the unit processes the next date (R446). -/
def seedsDue (k : Nat) (d : Dev) : Dev :=
  let due := d.pair.seeds.filter fun x => decide (x.1 < k)
  (due.foldl (fun (d : Dev) x => d.installSeed x.2) d).setPair fun p => { p with seeds := p.seeds.filter fun x => decide (k ≤ x.1) }

/-- The frame of per-tick data from the lead: used in the same tick, its seeds before the next (R248, R363, R370, R446). -/
def tickFrame (f : TickFrame) (d : Dev) : Dev :=
  if d.lone ∨ d.isLead then d
  else
    let d := d.setPair fun p => { p with lastFrame := some f.tick, silent := false }
    let lead := f.tracked.foldl (fun (m : NMap Int) x => nset 0 m (x.1 % 512) x.2) (nset 0 [] 512 f.mic)
    let d : Dev := { d with pool := { d.pool with fromLead := lead } }
    let d := f.tdm.foldl (fun d (x : Nat × Nat × List Nat) => if d.nat Reg.tdmRole x.1 = 0 then d.tdmFromLead x.1 x.2.1 x.2.2 else d) d
    if d.nat Reg.pairState = 5 ∧ d.nat Reg.catchupStage = 3 then d.setPair fun p => { p with seeds := p.seeds ++ f.seeds.map fun x => (f.tick, x) } else d

/-- The octets of a state seed, in this model's own layout. -/
def seedOctets (d : Dev) (i : Nat) : Octets :=
  let per := 8
  let m0 := i * per % max d.outs 1
  ((List.range per).flatMap fun j =>
    let c := d.chain ((m0 + j) % max d.outs 1)
    toBE 2 ((m0 + j) % max d.outs 1) ++ (c.biquads.flatMap fun s => [s.x1, s.x2, s.y1, s.y2, s.e].flatMap fun x => toBE 6 (wrapU 48 x)) ++ toBE 3 c.g) ++
  ((List.range 2).flatMap fun j =>
    let c := (i * 2 + j) % 512
    toBE 2 c ++ toBE 6 (wrapU 48 (d.conv c).dc))

/-- The lead's tick frame over DP (R434, Table 16-3), withheld while a perturbation keeps DP silent. -/
def sendTickFrame (k : Nat) (d : Dev) : Dev :=
  if d.lone ∨ !d.isLead ∨ d.pair.partner.isNone then d
  else if 0 < d.perturb.silence then { d with perturb := { d.perturb with silence := d.perturb.silence - 1 } }
  else
    let tracked := d.convs.filter fun x => x.2.mode = 3
    let words := (List.range 4).flatMap fun p => (d.tdmEnded p k).flatMap fun w => toBE 1 p ++ toBE 8 w.1 ++ w.2.flatMap fun x => toBE 4 (x % 2 ^ 32)
    let seeds := if d.nat Reg.pairState = 3 then d.seedOctets (k % 320) else []
    d.sendCell 2 .tick 0xFFFF (k % 2 ^ 32)
      (toBE 8 k ++ (tracked.flatMap fun x => toBE 2 x.1 ++ toBE 4 (wrapU 32 (nget 0 d.pool.out x.1))) ++ words ++ toBE 4 (wrapU 32 (d.micValue k)) ++ seeds)

/-- DP goes down: a lead is without its standby, a standby without tick frames (R425, R431). -/
def dpDown (d : Dev) : Dev :=
  if d.lone then d
  else
    let d := d.setPair fun p => { p with partner := none, countersTold := [] }
    if d.isLead then d.setPairState 4 else d

/-- The unit leaves BOOT: state 1, its hello, the form timeout begins (R426). -/
def pairBoot (d : Dev) : Dev :=
  if d.lone then d else (d.setPair fun p => { p with bootLeftAt := d.clock }).sendHello

end Dev

end Sys2Proof.Machine
end

