-- ==== Sys2Proof/Machine/Drada.lean ====
section
/-! DEFINITION. Drada links and groups: training, cells in, credits, replay, feeds, forming, link time (chapter 16). -/

namespace Sys2Proof.Machine

/-- The candidates of Table 16-1: data rate in Mb/s and FEC code as DradaFec reports it. -/
def dradaCandidate (c : Nat) : Nat × Nat :=
  match c with
  | 1 => (25000, 1) | 2 => (25000, 2) | 3 => (25000, 0) | 4 => (10000, 2) | 5 => (10000, 0) | _ => (0, 0)

/-- A cell with its last 4 octets taken as CRC: 0 good, 1 complemented, 2 bad (R459, R464). -/
def crcState (cell : Octets) : Nat :=
  let own := crc32c (cell.take (cell.length - 4))
  let got := fromBE (cell.drop (cell.length - 4))
  if got = own then 0 else if got = 0xFFFFFFFF - own then 1 else 2

/-- The order of the tree: paths by their links, a shorter path before those through it (R28). -/
def pathBefore : List Nat → List Nat → Bool
  | [], [] => false
  | [], _ :: _ => true
  | _ :: _, [] => false
  | a :: s, b :: t => if a = b then pathBefore s t else decide (a < b)

/-- A member at its place in the tree's order; another record of the same module is replaced. -/
def insertMember (m : Member) : List Member → List Member
  | [] => [m]
  | x :: t => if pathBefore m.path x.path then m :: x :: t else x :: insertMember m t

namespace Dev

/-- The Drada block changed. -/
def setDrada (f : Drada → Drada) (d : Dev) : Dev := { d with drada := f d.drada }

/-! ### Training (R455 to R457) -/

/-- The candidates that DradaRateMode and DradaFecMode leave (R455). -/
def dradaCandidates (d : Dev) (k : Nat) : List Nat :=
  let r := d.nat Reg.dradaRateMode k
  let f := d.nat Reg.dradaFecMode k
  [1, 2, 3, 4, 5].filter fun c =>
    (r == 0 || (r == 1 && c ≤ 3) || (r == 2 && 4 ≤ c)) &&
    (f == 0 || (f == 1 && c == 1) || (f == 2 && (c == 2 || c == 4)) || (f == 3 && (c == 3 || c == 5)))

/-- The cycle ends without agreement (R456). -/
def dradaNoAgree (k : Nat) (d : Dev) : Dev :=
  (((d.setNat Reg.dradaLinkState 3 k).bump Reg.dradaTrainingFailures k).notice 0x8103 k).setDlink k
    fun l => { l with cand := 0, tried := 0, candAt := d.clock }

/-- Training begins at a candidate, the first where `c` is none or excluded (R455, R457). -/
def dradaTrain (k : Nat) (c : Option Nat) (d : Dev) : Dev :=
  if !d.flag Reg.dradaEnable k then (d.setNat Reg.dradaLinkState 0 k).setDlink k fun l => { l with cand := 0 }
  else
    let l := d.dradaCandidates k
    match c.filter l.contains, l with
    | some c, _ => (d.setNat Reg.dradaLinkState 1 k).setDlink k fun x => { x with cand := c, tried := 1, candAt := d.clock }
    | none, c :: _ => (d.setNat Reg.dradaLinkState 1 k).setDlink k fun x => { x with cand := c, tried := 1, candAt := d.clock }
    | none, [] => d.dradaNoAgree k

/-- DRADA_CANDIDATE_TIMEOUT: a candidate has run for 250 ms and the next is tried (R455). -/
def dradaCandTimeout (k : Nat) (d : Dev) : Dev :=
  if d.nat Reg.dradaLinkState k ≠ 1 then d
  else
    d.onDue ((d.dlink k).candAt + msCycles 250) fun d =>
    let l := d.dradaCandidates k
    if l.length ≤ (d.dlink k).tried then d.dradaNoAgree k
    else
      let i := (l.findIdx? (· == (d.dlink k).cand)).getD 0
      let c := l.getD ((i + 1) % l.length) 0
      d.setDlink k fun x => { x with cand := c, tried := x.tried + 1, candAt := d.clock }

/-- DRADA_RETRY_CYCLE: every 2 s a NOAGREE link repeats its cycle (R456). -/
def dradaRetry (k : Nat) (d : Dev) : Dev :=
  if d.nat Reg.dradaLinkState k = 3 then d.onDue ((d.dlink k).candAt + secCycles 2) fun d => d.dradaTrain k none else d

/-! ### The group (R472 to R476) -/

/-- Whether the position has GroupRole 1: the module, or either unit of a pair (R473). -/
def headRole (d : Dev) : Bool :=
  d.inForce Reg.groupRole == 1 || (!d.lone && match d.pair.partner with | some q => q.groupHead | none => false)

/-- Whether this module heads its group: GroupRole 1, or no UP link at DA (R472). -/
def headsGroup (d : Dev) : Bool := d.headRole || !d.dlinkUp 0

/-- The LINK cell of a message, in this model's own layout: a code in Arg, then its fields. -/
def sendLink (k code : Nat) (body : Octets) (d : Dev) : Dev := d.sendCell k .link 0xFFFF code body

/-- The head's LINK cells go down every branch (R472). -/
def collect (d : Dev) : Dev :=
  if !d.headsGroup then d
  else d.branchLinks.foldl (fun d k => d.sendLink k 2 (d.bytes Reg.serialNumber ++ toBE 1 1 ++ toBE 1 k)) d

/-- What this module tells the head of itself. -/
def memberOctets (d : Dev) (path : List Nat) : Octets :=
  d.bytes Reg.serialNumber ++ d.shapeInForce.flatMap (toBE 4) ++ toBE 1 (d.nat Reg.pairState) ++ toBE 1 (b2n d.headRole) ++
    toBE 1 path.length ++ path.flatMap (toBE 1)

/-- D = ceil(h × 1.2 µs × Fr) (R29). -/
def extraLatency (d : Dev) (h : Nat) : Nat := cdiv (h * 12 * d.fr) 10000000

/-- A unit's line of the unit tree (Table 2-3). -/
def setUnit (u parent link kind base count hops state : Nat) (d : Dev) : Dev :=
  ((((((d.setNat Reg.unitParent parent u).setNat Reg.unitLink link u).setNat Reg.unitKindOf kind u).setNat Reg.unitOutputBase base u).setNat
    Reg.unitOutputCount count u).setNat Reg.unitHops hops u).setNat Reg.unitState state u

/-- How many unit numbers a module takes: itself, and its partitions where it has more than one (R28, R44). -/
def unitsOf (parts : Nat) : Nat := if parts ≤ 1 then 1 else 1 + parts

/-- The lines of one module of the tree and of its partitions. -/
def placeModule (u parent link base hops parts pairState : Nat) (outs : List Nat) (state : Nat) (d : Dev) : Dev :=
  let d := d.setUnit u parent link (if pairState = 0 then 0 else 2) base (lget 0 outs 0) hops state
  if parts ≤ 1 then d
  else ((List.range parts).foldl (fun (a : Dev × Nat) p =>
    (a.1.setUnit (u + 1 + p) u 3 1 a.2 (lget 0 outs (1 + p)) hops state, a.2 + lget 0 outs (1 + p))) (d, base)).1

/-- OutputsConfigured and the partitions' outputs of this module. -/
def ownOuts (d : Dev) : List Nat := [d.outs, d.inForce Reg.partitionOutputs0, d.inForce Reg.partitionOutputs1,
  d.inForce Reg.partitionOutputs2, d.inForce Reg.partitionOutputs3]

/-- The unit tree of a module alone: unit 0 is the module, its partitions follow it. -/
def loneTree (d : Dev) : Dev :=
  let d := (List.range 1024).foldl (fun d u => if d.nat Reg.unitState u = 0 ∧ u ≠ 0 then d else d.setUnit u 0xFFFF 0 0 0 0 0 0) d
  let d := d.placeModule 0 0xFFFF 0 0 0 d.parts (d.nat Reg.pairState) d.ownOuts 2
  ((((d.setNat Reg.groupState 0).setNat Reg.groupTopology 0).setNat Reg.groupUnits (unitsOf d.parts)).setNat Reg.groupDepth 0).setNat
    Reg.groupExtraLatency 0

/-- D in force changed: a data path that runs is aligned anew. -/
def adoptLatency (extra : Nat) (d : Dev) : Dev :=
  if d.nat Reg.groupExtraLatency = extra then d
  else
    let d := d.setNat Reg.groupExtraLatency extra
    if d.alm.aligned then d.realignDue else d

/-- The members that may be admitted: those that match the head's RenderRate, none at or below another head (R472, R473). -/
def admissible (d : Dev) : List Member × Dev :=
  let heads := (d.drada.collected.filter fun m => m.headRole).map fun m => m.path
  let under (m : Member) : Bool := heads.any fun h => m.path.take h.length == h
  let d := if heads.isEmpty then d else d.notice 0x8105 (5 * 65536 + 0xFFFF)
  let left := d.drada.collected.filter fun m => !under m
  let good := left.filter fun m => m.rate = d.fr
  (good, if good.length = left.length then d else d.notice 0x8105 (1 * 65536 + 0xFFFF))

/-- Unit numbers and output bases of the members, after the head's own (R28, R44). -/
def numberMembers (first base : Nat) : List Member → List (Member × Nat × Nat)
  | [] => []
  | m :: t => (m, first, base) :: numberMembers (first + unitsOf m.parts) (base + lget 0 m.outs 0) t

/-- The number of the unit above a member: the member, or the head, at its path less the last link. -/
def parentOf (placed : List (Member × Nat × Nat)) (m : Member) : Nat :=
  match placed.find? fun x => x.1.path = m.path.dropLast with
  | some x => x.2.1
  | none => 1

/-- A member told of its place: unit number, output base, the group's figures (R472). -/
def assign (m : Member) (u : Nat) (d : Dev) : Dev :=
  d.sendLink (m.path.headD 1) 4 (m.serial ++ toBE 2 u ++ toBE 4 (d.nat Reg.unitOutputBase u) ++ toBE 2 (d.nat Reg.groupUnits) ++
    toBE 1 (d.nat Reg.groupDepth) ++ toBE 2 (d.nat Reg.groupExtraLatency) ++ toBE 1 (d.nat Reg.groupTopology))

/-- The group as formed: the tree, the topology, D, the assignments to the members, notice 0x8104 (R472, R474). -/
def adoptGroup (members : List Member) (h topology : Nat) (d : Dev) : Dev :=
  let placed := numberMembers (1 + unitsOf d.parts) d.outs members
  let units := 1 + unitsOf d.parts + (members.map fun (m : Member) => unitsOf m.parts).foldl (· + ·) 0
  let total := d.outs + (members.map fun (m : Member) => lget 0 m.outs 0).foldl (· + ·) 0
  let d := d.setUnit 0 0xFFFF 0 3 0 (total % 65536) 0 2
  let d := d.placeModule 1 0xFFFF 0 0 0 d.parts (d.nat Reg.pairState) d.ownOuts 2
  let d := placed.foldl (fun d x =>
    d.placeModule x.2.1 (parentOf placed x.1) (x.1.path.getLastD 1) x.2.2 x.1.path.length x.1.parts x.1.pairState x.1.outs 1) d
  let extra := d.extraLatency h
  let d := (((d.setNat Reg.groupState 1).setNat Reg.groupTopology topology).setNat Reg.groupUnits units).setNat Reg.groupDepth h
  let d := (d.adoptLatency extra).setDrada fun g => { g with members := placed.map fun x => (x.1, x.2.1), formed := true, formBy := none, breaks := [] }
  (placed.foldl (fun d x => d.assign x.1 x.2.1) d).notice 0x8104 units

/-- GROUP_FORM: GroupFormTimeout after BOOT the head forms the group, or refuses it and keeps what was (R472). -/
def groupForm (d : Dev) : Dev :=
  d.onDue (d.drada.formBy.getD d.clock) fun d =>
  let d := d.setDrada fun g => { g with formBy := none }
  if !d.headsGroup then
    if d.drada.head.isEmpty ∧ d.dlinkUp 1 then d.notice 0x8105 (4 * 65536 + 0xFFFF) else d
  else
    let r := d.admissible
    let d := r.2
    if r.1.isEmpty ∧ !(d.drada.collected.any fun m => m.headRole && m.serial == d.drada.head) then (if d.drada.formed then d else d.loneTree)
    else
      let depth := r.1.foldl (fun h m => max h m.path.length) 0
      let n := r.1.length
      let tree := r.1.any fun m => m.path.any (· == 2)
      let h := if d.drada.ring then n else depth
      let units := 1 + unitsOf d.parts + (r.1.map fun m => unitsOf m.parts).foldl (· + ·) 0
      if (d.drada.ring && d.drada.collected.any (·.headRole)) || d.drada.collected.any fun m => m.headRole && m.serial == d.drada.head then d.notice 0x8105 (5 * 65536 + 0xFFFF)
      else if 255 < depth ∨ 1024 < units then d.notice 0x8105 (2 * 65536 + 0xFFFF)
      else if d.nat Reg.groupLatencyLimit < d.extraLatency h then d.notice 0x8105 (3 * 65536 + 0xFFFF)
      else d.adoptGroup r.1 h (if d.drada.ring then 2 else if tree then 3 else 1)

/-- GroupReform "now": the group is formed anew (R474). -/
def groupReform (arg : Octets) (d : Dev) : Status × Dev :=
  if arg ≠ ascii "now" then (Status.range, d)
  else if d.power.state = .onShow ∨ !d.headsGroup then (Status.state, d)
  else (Status.ok, (d.setDrada fun g => { g with collected := [], ring := false, formBy := some (d.clock + msCycles (d.nat Reg.groupFormTimeout)) }).collect)

/-- A member's answer at the head: it is collected; after formation a known module resumes its number, another is told of
(R472, R474). -/
def memberSeen (m : Member) (d : Dev) : Dev :=
  let d := d.setDrada fun g => { g with collected := insertMember m (g.collected.filter fun x => x.serial ≠ m.serial) }
  if !d.drada.formed ∨ d.drada.formBy.isSome then d
  else match d.drada.members.find? fun x => x.1.serial = m.serial with
    | some x => if d.nat Reg.unitState x.2 = 0 then (d.setNat Reg.unitState 1 x.2).assign x.1 x.2 else d
    | none => d.notice 0x8109 0

/-- The members whom a break leaves out of reach: below a link that is DOWN, or between two breaks of a ring (R474, R476). -/
def markAbsent (d : Dev) : Dev :=
  d.drada.members.foldl (fun d x =>
    let place := x.1.path.length
    let up := if d.nat Reg.groupTopology = 2 then
        !(d.drada.breaks.any fun b => decide (b < place)) || !(d.drada.breaks.any fun b => decide (place ≤ b))
      else d.dlinkUp (x.1.path.headD 1)
    if up then d else d.setNat Reg.unitState 0 x.2) d

/-- A ring link between two neighbours is down: healed at the first break, divided at the second (R476). -/
def ringBreak (place a b : Nat) (d : Dev) : Dev :=
  if d.drada.breaks.contains place then d
  else
  let d := d.setDrada fun g => { g with breaks := place :: g.breaks }
  (((d.setNat Reg.groupState 2).bump Reg.ringBreaks).notice 0x8106 (a * 65536 + b)).markAbsent

/-- What the loss of a link means for the group. -/
def groupLinkLost (k : Nat) (d : Dev) : Dev :=
  if !d.drada.formed then d
  else if d.nat Reg.unitId ≠ 0 ∧ !d.headRole then
    let d := if k = 0 ∧ d.nat Reg.groupTopology = 2 then d.setDrada fun g => { g with breaks := [0] } else d
    d.sendLink (1 - min k 1) 5 (toBE 2 d.unitId ++ toBE 1 k)
  else if d.nat Reg.groupTopology = 2 ∧ k ≤ 1 then
    let n := d.drada.members.length
    let last := (d.drada.members.getLast?.map (·.2)).getD 1
    let first := (d.drada.members.head?.map (·.2)).getD 1
    if k = 1 then d.ringBreak 0 1 first else d.ringBreak n last 1
  else d.markAbsent

/-! ### Links up and down (R456, R457) -/

/-- DRADA_LINK_DOWN: an UP link goes DOWN and trains again from the candidate that last succeeded (R457). -/
def dradaDown (k : Nat) (counted : Bool) (d : Dev) : Dev :=
  if !d.dlinkUp k then d
  else
    let d := (((d.setNat Reg.dradaLinkState 0 k).setNat Reg.dradaRate 0 k).setNat Reg.dradaFec 0 k).setNat Reg.dradaWakeAgreed 0 k
    let d := d.setDlink k fun l => { l with waiting := [], replay := [], freed := [0, 0, 0], failed := 0, replayAsked := none, timeSent := none, timeGood := 0 }
    let d := if counted then (d.bump Reg.dradaLinkDowns k).notice 0x8102 k else d
    let d := if k = 0 ∧ d.alm.dradaOk then (d.setAlm fun a => { a with dradaOk := false }).sourceLost 6 else d
    let d := if k = 2 then d.dpDown else d
    let d := d.groupLinkLost k
    d.dradaTrain k (some (d.dlink k).lastGood)

/-- A link has agreed and is UP (R456, R462, R537). -/
def dradaUp (k wake : Nat) (serial : Octets) (eye : Eye) (d : Dev) : Dev :=
  let c := (d.dlink k).cand
  let r := dradaCandidate c
  let d := (((d.setNat Reg.dradaLinkState 2 k).setNat Reg.dradaRate r.1 k).setNat Reg.dradaFec r.2 k).setNat Reg.dradaWakeAgreed (max wake (d.nat Reg.dradaWakeOwn k)) k
  let d := (d.setVal Reg.dradaNeighbour (.bytes serial) k).setDlink k fun l =>
    { l with lastGood := c, credits := [1024, 256, 512], freed := [0, 0, 0], txSeq := 0, rxSeq := 0, replay := [], waiting := [],
             idle := false, busyAt := d.clock, returnedAt := d.clock, timeSent := none, timeGood := 0, timeMissed := 0 }
  let d := (d.storeEye (4 + k) eye).notice 0x8101 (k * 65536 + (if r.1 = 25000 then 512 else 256) + r.2)
  let d := d.sendLink k 1 (toBE 1 c ++ toBE 1 (d.nat Reg.dradaMacsec k) ++ toBE 2 (d.nat Reg.dradaWakeOwn k) ++ toBE 4 d.fr ++ d.bytes Reg.serialNumber)
  let d := if k = 2 ∧ !d.lone then d.sendHello else d
  d.collect

/-- The LINK cell of the far end during training: the link becomes UP, or gets no agreement (R456). -/
def dradaAgree (k cand : Nat) (macsec : Bool) (wake rate : Nat) (serial : Octets) (eye : Eye) (d : Dev) : Dev :=
  if d.nat Reg.dradaLinkState k ≠ 1 ∨ cand ≠ (d.dlink k).cand then d
  else if macsec ≠ d.flag Reg.dradaMacsec k ∨ rate ≠ d.fr then d.dradaNoAgree k
  else d.dradaUp k wake serial eye

/-- DRADA_CONFIG_WRITE: a write of DradaEnable, DradaRateMode, DradaFecMode or DradaMacsec drops the link and training
starts at once (R457). -/
def dradaConfig (k sub v : Nat) (d : Dev) : Status × Dev :=
  if 3 ≤ k then (Status.noEntry, d)
  else
    let set (r : Row) (hi : Nat) : Status × Dev :=
      if hi < v then (Status.range, d)
      else
        let d := ((d.setNat r v k).keep r k).dradaDown k false
        (Status.ok, if d.power.state.answers then d.dradaTrain k none else d)
    match sub with
    | 1 => set Reg.dradaEnable 1
    | 2 => set Reg.dradaRateMode 2
    | 3 => set Reg.dradaFecMode 3
    | 4 => set Reg.dradaMacsec 1
    | _ => (Status.noSub, d)

/-! ### Cells in (R459, R462 to R464) -/

/-- The types that a virtual channel may carry (Table 16-4). -/
def vcAllows (vc type : Nat) : Bool :=
  match vc with
  | 0 => type = 1 || type = 2
  | 1 => type = 7 || type = 6 || type = 5 || type = 4
  | 2 => type = 3 || type = 4 || type = 8
  | _ => type = 9 || type = 10

/-- A REPLAY cell for the first LinkSeq that is missing; 16 failed replays of one cell end the link (R457, R463). -/
def askReplay (k : Nat) (d : Dev) : Dev :=
  let l := d.dlink k
  let again := l.replayAsked = some l.rxSeq
  let n := if again then l.failed + 1 else 1
  let d := d.setDlink k fun l => { l with replayAsked := some l.rxSeq, failed := n }
  if 16 ≤ n then d.dradaDown k true else d.sendCell k .replay 0xFFFF l.rxSeq []

/-- Freed credits go back in a CREDIT cell, but those that a perturbation holds (R462, Table 19-4). -/
def returnCredits (k : Nat) (d : Dev) : Dev :=
  let free (v : Nat) : Nat := match nget? d.perturb.credits (k * 256 + v) with
    | some t => if d.clock < t then 0 else lget 0 (d.dlink k).freed v
    | none => lget 0 (d.dlink k).freed v
  let f := [free 0, free 1, free 2]
  if f.all (· == 0) then d
  else (d.setDlink k fun l => { l with freed := List.zipWith (· - ·) l.freed f, returnedAt := d.clock }).sendCell k .credit 0xFFFF 0 (f.flatMap (toBE 2))

/-- The cell under the link's protection opened; none when its ICV fails (R480). -/
def openCell (d : Dev) (k : Nat) (frame : Octets) : Option Octets :=
  if d.flag Reg.dradaMacsec k then Config.macsecOpen (nget [] d.sec.keys Reg.dradaCak.key) (d.dlink k).rxSeq frame else some frame

/-- Whether a protected cell's ICV is the complement of this module's own computation (R480). -/
def icvStomped (d : Dev) (k : Nat) (frame : Octets) : Bool :=
  d.flag Reg.dradaMacsec k && Config.icvComplement (nget [] d.sec.keys Reg.dradaCak.key) (d.dlink k).rxSeq frame

/-- A perturbation holds every cell that a link receives before its receive path (Table 19-4). -/
def cellHold (k : Nat) (d : Dev) : Dev :=
  let ns := nget 0 d.perturb.dradaDelay k
  if ns = 0 then d else d.advanceTo (d.clock + nsCycles ns)

/-- A double-bit error in a receive buffer discards the newest cell of a virtual channel: it is replayed, or for VC0 read as missing
(R482). -/
def bufferError (k vc : Nat) (d : Dev) : Dev :=
  if !d.dlinkUp k ∨ vc = 0 ∨ 3 ≤ vc then d
  else (d.setDlink k fun l => { l with rxSeq := (l.rxSeq + 65535) % 65536 }).askReplay k

/-- A cell that arrives on a link as flits: its checks, its LinkSeq, its credits; the cell where this module may consume it. -/
def receiveCell (k : Nat) (wire : Octets) (d : Dev) : Dev × Option Octets :=
  let d := d.cellHold k
  if !d.dlinkUp k then (d, none)
  else match fromLane true wire.length wire with
  | none => (d.bump Reg.dradaCrcErrors k, none)
  | some frame =>
  match d.openCell k frame with
  | none => (if d.icvStomped k frame then d.bump Reg.dradaStomped k else (d.bump Reg.dradaIcvFail k).askReplay k, none)
  | some cell =>
    let n := cell.length
    let type := beAt cell 0 1
    let vc := beAt cell 2 1 % 4
    if n < 64 ∨ 4096 < n ∨ n % 4 ≠ 0 ∨ beAt cell 4 2 ≠ n then (d.bump Reg.dradaMalformed k, none)
    else
      let crc := crcState cell
      if crc = 1 then (d.bump Reg.dradaStomped k, none)
      else if crc = 2 then ((d.bump Reg.dradaCrcErrors k).askReplay k, none)
      else if type = 0 ∨ 10 < type ∨ beAt cell 1 1 = 255 ∨ !vcAllows vc type then (d.bump Reg.dradaMalformed k, none)
      else if vc = 3 then (d, some cell)
      else
        let seq := beAt cell 6 2
        let ahead := (seq + 65536 - (d.dlink k).rxSeq) % 65536
        if 32768 ≤ ahead then (d, none)
        else if 0 < ahead then (d.askReplay k, none)
        else
          let d := d.setDlink k fun l => { l with
            rxSeq := (seq + 1) % 65536, replayAsked := none, failed := 0
            freed := lmod l.freed vc (· + cdiv n 64) }
          (if (d.dlink k).freed.any (64 ≤ ·) then d.returnCredits k else d, some cell)

/-- A cell sent on towards other modules, Hops one more (R459). -/
def forwardCell (k : Nat) (type : CellType) (settled : Bool) (cell : Octets) (d : Dev) : Dev :=
  d.sendCell k type (beAt cell 8 2) (beAt cell 12 4) ((cell.drop 16).take (cell.length - 20)) settled (beAt cell 1 1 + 1) (some (beAt cell 10 2))

/-- A copy of a FEED cell that was sent on before its check failed: its CRC, or its ICV, is sent complemented; it takes no LinkSeq, which
the good copy takes when it comes (R464, R480). What a protected copy's octets are is open. -/
def stompCell (j : Nat) (cell : Octets) (d : Dev) : Dev :=
  if !d.dlinkUp j then d
  else if d.flag Reg.dradaMacsec j then
    ({ d with freeCtr := d.freeCtr + cell.length + 32 }).emit (.cell j 1 (onLane 0 (Config.freeOctets d.freeCtr (cell.length + 32))))
  else
    let c := cell.take 1 ++ toBE 1 (beAt cell 1 1 + 1) ++ cell.drop 2
    d.emit (.cell j 1 (onLane 0 (stampCell (d.dlink j).txSeq true c)))

/-- The links on which FEED cells go on from the link that brought them (R475). -/
def feedLinks (d : Dev) (k : Nat) : List Nat := if k = 0 then d.branchLinks else if k = 1 then [0] else []

/-- A FEED cell whose CRC or ICV fails: what was sent on of it is stomped (R464, R480). -/
def stompFeed (k : Nat) (wire : Octets) (d : Dev) : Dev :=
  if !d.dlinkUp k ∨ d.headsGroup ∨ (k = 2 ∧ !d.lone) then d
  else match fromLane true wire.length wire with
    | none => d
    | some frame =>
      let bad := match d.openCell k frame with
        | some cell => beAt cell 0 1 == 1 && decide (64 ≤ cell.length) && crcState cell == 2
        | none => !(d.icvStomped k frame)
      if bad then (d.feedLinks k).foldl (fun d j => d.stompCell j ((d.openCell k frame).getD frame)) d else d

/-- Whether a unit number names this module, or one of its partitions (R28, R44). -/
def unitHere (d : Dev) (u : Nat) : Bool :=
  let own := if d.unitId = 0 then 1 else d.unitId
  u = d.unitId || u = own || (decide (1 < d.parts) && decide (own < u) && decide (u ≤ own + d.parts))

/-- The links on which a cell for a unit goes on from the link that brought it: towards the unit where it lies below, else towards the
head; in a ring on round it (R475 to R477). -/
def routeOf (d : Dev) (dest from_ : Nat) : List Nat :=
  if dest = 0xFFFF then (if from_ = 0 then d.branchLinks else if d.headsGroup then [] else [0])
  else if d.unitHere dest then []
  else if d.headsGroup then (match nget? d.drada.branches dest with | some k => if k = from_ then [] else [k] | none => [])
  else if d.nat Reg.groupTopology = 2 ∧ from_ < 2 then [1 - from_]
  else match nget? d.drada.branches dest with
    | some k => if k = from_ then [] else [k]
    | none => if from_ = 0 then [] else [0]

/-- Whether a cell is for this unit. -/
def cellForUs (d : Dev) (cell : Octets) : Bool :=
  let dest := beAt cell 8 2
  dest = 0xFFFF || d.unitHere dest

/-- A module with GroupRole 1 discards every cell from its DA but LINK and TIME cells, unless its DA closes its own ring (R473, R475). -/
def outsideGroup (d : Dev) (k : Nat) : Bool := k = 0 && d.headRole && d.nat Reg.groupTopology != 2

/-- A cell that is to be forwarded on and consumed here; with it, whether to consume it. -/
def passCell (k : Nat) (type : CellType) (settled : Bool) (wire : Octets) (d : Dev) : Dev × Option Octets :=
  let r := d.receiveCell k wire
  match r.2 with
  | none => r
  | some cell =>
    if beAt cell 0 1 ≠ type.code then (r.1, none)
    else if r.1.outsideGroup k then (r.1, none)
    else
      let d := if k = 2 ∧ !r.1.lone then r.1 else (r.1.routeOf (beAt cell 8 2) k).foldl (fun d j => d.forwardCell j type settled cell) r.1
      (d, if d.cellForUs cell then some cell else none)

/-! ### Feeds (R460, R467 to R469) -/

/-- Whether the object plane comes over Drada: a module below the head of a formed group (R470). -/
def belowHead (d : Dev) : Bool := d.drada.formed && !d.headsGroup

/-- The values of a FEED cell written into the alignment buffer, by the end of tick t + 2 + D less 256 CoreClk cycles (R460, R468). -/
def writeFeeds (date first count : Nat) (payload : Octets) (d : Dev) : Dev :=
  let last := date + 2 + d.nat Reg.groupExtraLatency
  if last < d.msc ∨ (last = d.msc ∧ d.tickAt + d.tickCycles < d.clock + 128) then d
  else
    let old := ((d.drada.align.find? fun x => x.1 == date).map (·.2)).getD []
    let new := (List.range count).foldl (fun (m : NMap Int) i =>
      if (nget? m (first + i)).isSome then m else nput m (first + i) (beAtS payload (8 + 4 * i) 4)) old
    d.setDrada fun g => { g with align := ((date, new) :: g.align.filter fun x => x.1 ≠ date).take 128 }

/-- DRADA_FEED_CELL: forwarded cut-through, its values into the alignment buffer (R460, R464, R468, R471, R475). -/
def feedCell (k : Nat) (wire : Octets) (d : Dev) : Dev :=
  let r := (d.stompFeed k wire).receiveCell k wire
  match r.2 with
  | none => r.1
  | some cell =>
    let d := r.1
    let arg := beAt cell 12 4
    let payload := (cell.drop 16).take (cell.length - 20)
    if beAt cell 0 1 ≠ 1 ∨ d.headsGroup ∨ (k = 2 ∧ !d.lone) then d
    else
      let d := (d.feedLinks k).foldl (fun d j => d.forwardCell j .feed false cell) d
      let count := arg % 65536
      if count = 0 ∨ 64 < count then d else d.writeFeeds (beAt payload 0 8) (arg / 65536) count payload

/-- The feed sender of the head in the tick after the object plane of a date is readable (R460, R468, R475). -/
def sendFeeds (date : Nat) (object : NMap Int) (d : Dev) : Dev :=
  if !d.drada.formed ∨ !d.headsGroup then d
  else
    let cap := 16 * ((List.range (max d.parts 1)).map d.slotsPer).foldl max 0
    let links := d.branchLinks ++ (if d.nat Reg.groupTopology = 2 then [0] else [])
    (List.range (cdiv cap 64)).foldl (fun d c =>
      let body := toBE 8 date ++ (List.range 64).flatMap fun i => toBE 4 (wrapU 32 (nget 0 object (64 * c + i)))
      links.foldl (fun d k => d.sendCell k .feed 0xFFFF (64 * c * 65536 + 64) body) d) d

/-- Whether a feed value is present. -/
def feedHere (d : Dev) (n date : Nat) : Bool :=
  match d.drada.align.find? fun x => x.1 == date with
  | some x => (nget? x.2 n).isSome
  | none => false

/-- How many dates up to one, at most `fuel`, have the feed. -/
def feedRun (d : Dev) (n : Nat) : Nat → Nat → Nat
  | 0, _ => 0
  | f + 1, date => if d.feedHere n date then 1 + feedRun d n f (date - 1) else 0

/-- The object plane of a date below the head: 0 where a value is missing, faded in over 32 samples after (R469, R300). -/
def feedPlane (d : Dev) (date : Nat) : NMap Int :=
  match d.drada.align.find? fun x => x.1 == date with
  | none => []
  | some x => x.2.foldl (fun m v =>
    let run := d.feedRun v.1 33 date
    nset 0 m v.1 (if 33 ≤ run then v.2 else (v.2 * (run - 1 : Nat) + 16) / 32)) []

/-- DRADA_FEED_LATE: feed values of a date are missing at their deadline: they read 0, the input is incomplete, and a lead
in state 2 hands over (R469). -/
def feedLate (k date : Nat) (d : Dev) : Dev :=
  if !d.belowHead then d
  else
    let d := (d.bump Reg.dradaFeedLate k).noticeOnce (0x81070000 + k) 0x8107 k
    let d := d.setPair fun p => { p with incomplete := (date / 32 :: p.incomplete).take 16 }
    if d.nat Reg.pairState = 2 ∧ d.pair.handover.isNone ∧ (d.nat Reg.partnerHealth).testBit 0 then d.startHandover (d.msc + 2) 3 else d

/-! ### Link-layer and LINK cells (R456, R462, R463, R472) -/

/-- DRADA_CREDIT_CELL: credits come back and waiting cells leave (R462). -/
def creditCell (k : Nat) (wire : Octets) (d : Dev) : Dev :=
  let r := d.receiveCell k wire
  match r.2 with
  | none => r.1
  | some cell =>
    if beAt cell 0 1 ≠ 9 then r.1
    else
      let d := r.1.setDlink k fun l => { l with credits := l.credits.zipIdx.map fun x => min (lget 0 [1024, 256, 512] x.2) (x.1 + beAt cell (16 + 2 * x.2) 2) }
      d.drainCells k (d.dlink k).waiting.length

/-- DRADA_CREDIT_RETURN_TIMER: every 1 µs unreturned credits go back (R462). -/
def creditTimer (k : Nat) (d : Dev) : Dev :=
  if !d.dlinkUp k then d else d.onDue ((d.dlink k).returnedAt + usCycles 1) fun d => d.returnCredits k

/-- DRADA_REPLAY_CELL: every cell from the named LinkSeq on is sent again, in order, each a corrected fault (R463, Table 1-7). -/
def replayCell (k : Nat) (wire : Octets) (d : Dev) : Dev :=
  let r := d.receiveCell k wire
  match r.2 with
  | none => r.1
  | some cell =>
    if beAt cell 0 1 ≠ 10 then r.1
    else
      let d := r.1
      let first := beAt cell 12 4 % 65536
      let again := (d.dlink k).replay.reverse.filter fun c => decide ((c.1 + 65536 - first) % 65536 < 32768)
      again.foldl (fun d c => ((d.bump Reg.dradaReplays k).logCorrected (0xC00 + k) 0x8100 k).emit
        (.cell k (beAt c.2 0 1) (d.laneCell k (beAt c.2 2 1 % 4) c.1 c.2))) d

/-- A collecting LINK cell of a head: answered and sent on; at the head's own DA it shows a ring, and that a healed one is whole again
(R472, R473, R476). -/
def collected (k : Nat) (head : Octets) (path : List Nat) (d : Dev) : Dev :=
  if head = d.bytes Reg.serialNumber then
    let whole := d.nat Reg.groupTopology = 2 ∧ d.nat Reg.groupState = 2
    let d := d.setDrada fun g => { g with ring := true, breaks := if whole then [] else g.breaks }
    if whole then d.setNat Reg.groupState 1 else d
  else if k ≠ 0 then d
  else if d.headRole then ((d.setDrada fun g => { g with head }).sendLink 0 3 (d.memberOctets path)).notice 0x8105 (5 * 65536 + 0xFFFF)
  else
    let d := (d.setDrada fun g => { g with head, breaks := [] }).sendLink 0 3 (d.memberOctets path)
    d.branchLinks.foldl (fun d j => d.sendLink j 2 (head ++ toBE 1 (path.length + 1) ++ path.flatMap (toBE 1) ++ toBE 1 j)) d

/-- The session that stands for the head at a member: its notices wait there until they are sent to the head (R61). -/
def headSession (now : Nat) : Session :=
  { handle := 0x1FFFFF, role := .observer, can := false, srcIp := 0, cert := [], commissioning := false, lastFrameAt := now, cache := [], selects := [],
    cmdLast := [], queue := [], lost := 0, sentAt := [] }

/-- The head's assignment: taken by the module it names, which is in UnitState 1 until it has caught up (R93), and sent on by the
others (R472). -/
def assigned (k : Nat) (serial : Octets) (unit base units depth extra topology : Nat) (d : Dev) : Dev :=
  if k ≠ 0 ∨ d.headsGroup then d
  else if serial = d.bytes Reg.serialNumber then
    let d := (((d.setNat Reg.unitId unit).setNat Reg.outputBase base).setNat Reg.groupUnits units).setNat Reg.groupDepth depth
    let d := ((d.setNat Reg.groupState 1).setNat Reg.groupTopology topology).setNat Reg.unitState 1 unit
    let d := if d.sessions.any (fun s => s.handle == 0x1FFFFF) then d else { d with sessions := d.sessions ++ [headSession d.clock] }
    (d.adoptLatency extra).setDrada fun g => { g with formed := true, formBy := none }
  else
    d.branchLinks.foldl (fun d j => (d.setDrada fun g => { g with branches := nput g.branches unit j }).sendLink j 4
      (serial ++ toBE 2 unit ++ toBE 4 base ++ toBE 2 units ++ toBE 1 depth ++ toBE 2 extra ++ toBE 1 topology)) d

/-- The meaning of a LINK cell's message. -/
def linkMessage (k : Nat) (m : LinkMsg) (d : Dev) : Dev :=
  match m with
  | .agree c s w r n e => d.dradaAgree k c s w r n e
  | .collect h p => d.collected k h p
  | .member x => if d.headsGroup then d.memberSeen x else d.sendLink 0 3 (x.serial ++ toBE 1 x.path.length ++ x.path.flatMap (toBE 1))
  | .assign s u b n h e t => d.assigned k s u b n h e t
  | .broken a b =>
    if d.headsGroup ∧ d.drada.formed then d.ringBreak (match d.drada.members.findIdx? (·.2 == a) with | some i => i + 1 | none => 0) a b
    else
      let d := if k = 0 ∧ d.nat Reg.groupTopology = 2 then d.setDrada fun g => { g with breaks := [0] } else d
      d.sendLink (1 - min k 1) 5 (toBE 2 a ++ toBE 2 b)

/-- DRADA_LINK_CELL: training agrees, or the group is formed (R456, R472). During training no link layer runs yet. -/
def linkCell (k : Nat) (wire : Octets) (m : LinkMsg) (d : Dev) : Dev :=
  if 3 ≤ k then d
  else if d.nat Reg.dradaLinkState k = 1 then (match m with | .agree c s w r n e => d.dradaAgree k c s w r n e | _ => d)
  else
    let r := d.receiveCell k wire
    match r.2 with
    | none => r.1
    | some cell => if beAt cell 0 1 ≠ 8 then r.1 else r.1.linkMessage k m

/-! ### Link time and idle (R466, R478, R479) -/

/-- DRADA_TIME_EXCHANGE: every 1 ms a module below the head starts an exchange; 3 missing ones lose source 6 (R478). -/
def timeExchange (d : Dev) : Dev :=
  if !d.dlinkUp 0 then d
  else
    d.onPeriod 200 (msCycles 1) fun d =>
    let missed := if (d.dlink 0).timeSent.isSome then (d.dlink 0).timeMissed + 1 else 0
    let d := d.setDlink 0 fun l => { l with timeMissed := missed, timeGood := if 0 < missed then 0 else l.timeGood, timeSent := some d.almNow }
    let d := if 3 ≤ missed ∧ d.alm.dradaOk then (d.setAlm fun a => { a with dradaOk := false }).sourceLost 6 else d
    d.sendCell 0 .time 0xFFFF 1 (toBE 12 d.almNow)

/-- A TIME answer: path delay, offset, the servo, source 6, the upstream MSC (R466, R478). -/
def timeAnswer (t1 t2 t3 msc : Nat) (d : Dev) : Dev :=
  match (d.dlink 0).timeSent with
  | none => d
  | some sent =>
    if sent ≠ t1 then d
    else
      let t4 : Int := d.almNow
      let path := rdiv (((t2 : Int) - t1) + (t4 - t3)) 2 + d.int Reg.dradaAsymmetry 0 * nsUnit
      let theta := t4 - t3 - path
      let ns := (rsh 32 path).toNat
      let good := theta.natAbs < 1000 * 2 ^ 32
      let run := if good then (d.dlink 0).timeGood + 1 else 0
      let d := ((d.setNat Reg.dradaPathDelay (min ns 0xFFFFFFFF) 0).setInt Reg.dradaTimeOffset (satS 32 (rsh 32 theta)) 0).setDlink 0
        fun l => { l with timeSent := none, timeMissed := 0, timeGood := run }
      let d := if 1200 < ns then (d.bump Reg.dradaOverBudget 0).notice 0x8108 (min ns 0xFFFF) else d
      let d := if 8 ≤ run ∧ !d.alm.dradaOk then (d.setAlm fun a => { a with dradaOk := true }).sourceGained 6 else d
      let d := if d.nat Reg.ptpServoState = 0 ∧ !d.flag Reg.timeTestMode then d.steer 786432 theta else d
      if d.belowHead ∧ d.alm.aligned ∧ (d.msc + 1 < msc ∨ msc + 1 < d.msc) then d.realignDue else d

/-- DRADA_TIME_CELL: answered by the upstream neighbour, used by the downstream one (R478). -/
def timeCell (k : Nat) (wire : Octets) (m : TimeMsg) (d : Dev) : Dev :=
  let r := d.receiveCell k wire
  match r.2 with
  | none => r.1
  | some cell =>
    if beAt cell 0 1 ≠ 7 then r.1
    else
      let d := r.1
      match m with
      | .request t1 => if k = 0 ∧ !d.headRole then d
        else d.sendCell k .time 0xFFFF 2 (toBE 12 t1 ++ toBE 12 d.almNow ++ toBE 12 d.almNow ++ toBE 8 d.mscNow)
      | .answer t1 t2 t3 msc => if k = 0 then d.timeAnswer t1 t2 t3 msc else d

/-- DRADA_IDLE_ENTRY: no VC0 cell for DradaIdleAfter and no cell to send: the lane enters low-power idle (R479). -/
def idleEntry (k : Nat) (d : Dev) : Dev :=
  let l := d.dlink k
  if !d.dlinkUp k ∨ l.idle ∨ !l.waiting.isEmpty then d
  else
    let due := l.busyAt + usCycles (d.nat Reg.dradaIdleAfter k)
    d.onDue due fun d => (d.setDlink k fun l => { l with idle := true }).bump Reg.dradaIdleEntries k

/-- The load of every link over the last 1 ms (Table 16-7). -/
def dradaLoads (d : Dev) : Dev :=
  (List.range 3).foldl (fun d k =>
    let rate := d.nat Reg.dradaRate k
    let load := if rate = 0 then 0 else (d.dlink k).loadOctets * 8 * 10 / rate
    (d.setNat Reg.dradaLoad (min load 65535) k).setDlink k fun l => { l with loadOctets := 0 }) d

/-- A motion word or count that a link brings, and its passage on (R98). -/
def motionCell (k : Nat) (wire : Octets) (m : MotionMsg) (d : Dev) : Dev :=
  let r := d.passCell k .motion false wire
  match r.2 with
  | none => r.1
  | some _ =>
    let d := r.1
    if d.isHead then d
    else match m with
    | .counts b l => { d with motion := d.motion.mapIdx fun (f : Nat) (g : MotionFifo) => { g with fixedFor := b, fixedCount := lget 0 l f, counted := true } }
    | .words f ws => ws.foldl (fun d w => d.fifoWord f { tag := w.1, data := w.2.1, last := w.2.2 }) d

/-- The links begin training when the module leaves BOOT (R481), and the group's timer starts (R472). -/
def dradaBoot (d : Dev) : Dev :=
  let d := (List.range 3).foldl (fun d k => d.dradaTrain k none) d
  (d.loneTree).setDrada fun g => { g with formBy := some (d.clock + msCycles (d.nat Reg.groupFormTimeout)) }

end Dev

end Sys2Proof.Machine
end

