-- ==== Sys2Proof/Machine/Security.lean ====
section
/-! DEFINITION. Keys, firmware images and slots, the boot ROM, JTAG, the certified configuration (chapter 18). -/

namespace Sys2Proof.Machine

/-- The writable key slots of Table 18-2: their rows, and whether a size may be written. -/
def keySizes : List (Row × (Nat → Bool)) :=
  [(Reg.trustAnchor, fun n => n = 97 || (200 ≤ n && n ≤ 2048)), (Reg.canKey, fun n => n = 16),
   (Reg.macsecCak, fun n => n = 32), (Reg.dradaCak, fun n => n = 32)]

/-- Section `i` of an image: type, flags, offset, length, target (Table 18-5). -/
def imageSection (img : Octets) (i : Nat) : Nat × Nat × Nat × Nat × Nat :=
  let e := 64 + 64 * i
  (beAt img e 2, beAt img (e + 2) 2, beAt img (e + 4) 4, beAt img (e + 8) 4, beAt img (e + 12) 4)

/-- The section table against R515 (check 0x06 of Table 18-7). -/
def sectionsOk (img : Octets) : Bool :=
  let n := beAt img 7 1
  let s := (List.range n).map (imageSection img)
  1 ≤ n && n ≤ 16 && (imageSection img 0).1 = 1 &&
    (s.all fun x => x.2.1 = 0 && x.2.2.1 % 4096 = 0 && 4096 ≤ x.2.2.1 && x.2.2.1 + x.2.2.2.1 ≤ beAt img 16 4 &&
      (x.1 ≠ 1 || (x.2.2.2.1 ≤ 786432 && x.2.2.2.2 = 0)) && 1 ≤ x.1 && x.1 ≤ 4) &&
    ((List.range n).all fun i => (List.range n).all fun j =>
      i = j || (lget (0, 0, 0, 0, 0) s i).2.2.1 + (lget (0, 0, 0, 0, 0) s i).2.2.2.1 ≤ (lget (0, 0, 0, 0, 0) s j).2.2.1 ||
        (lget (0, 0, 0, 0, 0) s j).2.2.1 + (lget (0, 0, 0, 0, 0) s j).2.2.2.1 ≤ (lget (0, 0, 0, 0, 0) s i).2.2.1) &&
    ((img.drop (64 + 64 * n)).take (64 * (16 - n))).all (· == octet 0) && ((img.drop 28).take 36).all (· == octet 0) && beAt img 26 2 < 2

/-- Whether a section's digest is the SHA-384 of its octets. -/
def sectionGood (img : Octets) (i : Nat) : Bool :=
  let x := imageSection img i
  Config.sha384 ((img.drop x.2.2.1).take x.2.2.2.1) == (img.drop (64 + 64 * i + 16)).take 48

/-- The first check of Table 18-7 that an image fails, as UpdateVerifyResult gives it; the sections checked are `n`. -/
def imageFails (revoked rollback : Nat) (certified : Bool) (n : Nat) (img : Octets) : Option Nat :=
  let code (c s : Nat) : Nat := c * 2 ^ 24 + s * 2 ^ 16
  let k := beAt img 6 1
  if img.length < 1184 ∨ beAt img 0 4 ≠ 0x4A46574D ∨ beAt img 4 2 ≠ 1 ∨ beAt img 16 4 ≠ img.length then some (code 1 0xFF)
  else if beAt img 20 4 ≠ 0x8240 then some (code 2 0xFF)
  else if 2 < k ∨ revoked.testBit k then some (code 3 0xFF)
  else if !Config.ecdsaVerify (Config.fused (10 + k)) (img.take 1088) ((img.drop 1088).take 96) then some (code 4 0xFF)
  else if beAt img 12 4 < rollback then some (code 5 0xFF)
  else if !sectionsOk img then some (code 6 0xFF)
  else match (List.range (min n (beAt img 7 1))).find? fun i => !sectionGood img i with
    | some i => some (code 7 i)
    | none => if certified && beAt img 26 2 % 2 = 0 then some (code 8 0xFF) else none

namespace Dev

/-- Security changed. -/
def setSec (f : Security → Security) (d : Dev) : Dev := { d with sec := f d.sec }

/-- A firmware slot: 0 A, 1 B. -/
def slot (d : Dev) (s : Nat) : Slot := d.sec.slots.get { state := 0, image := [], begun := false } s

/-- A firmware slot changed. -/
def setSlot (s : Nat) (f : Slot → Slot) (d : Dev) : Dev := d.setSec fun x => { x with slots := x.slots.modify s f }

/-! ### Keys (R511, R512) -/

/-- The material of a key entry: of a fused key, or of a slot. -/
def keyMaterial (d : Dev) (r : Row) (i : Nat) : Octets :=
  if r.key = Reg.deviceKey.key then Config.fused 1
  else if r.key = Reg.vendorAnchor.key then Config.fused 2
  else nget [] d.sec.keys (r.key i)

/-- What a KEY entry reads back: the SHA-384 fingerprint, or 48 zero octets of an empty slot (R511). -/
def keyRead (d : Dev) (r : Row) (i : Nat) : Octets :=
  let m := d.keyMaterial r i
  if m.isEmpty then List.replicate 48 (octet 0) else Config.sha384 (toBE 2 (r.base + i) ++ toBE 1 r.sub ++ toBE 1 0 ++ m)

/-- Whether any trust anchor is in use. -/
def anchored (d : Dev) : Bool := (List.range 4).any fun i => (nget? d.sec.keys (Reg.trustAnchor.key i)).isSome

/-- Sessions that end: their subscriptions, open transfers and OPEN calendar entries are discarded (R49, R80). -/
def dropSessions (gone : List Nat) (d : Dev) : Dev :=
  { d with
    sessions := d.sessions.filter fun s => !gone.contains s.handle
    subs := d.subs.filter fun s => !gone.contains s.session
    transfers := d.transfers.filter fun t => !gone.contains t.session
    gathers := d.gathers.filter fun g => !gone.contains g.request.session
    heldEnds := d.heldEnds.filter fun x => !gone.contains x.2.session
    cal := { d.cal with entries := d.cal.entries.filter fun x => !(x.2.state == .opened && gone.contains x.2.session && decide (x.1 < 1024)) } }

/-- CommissioningOpen brought up to R510; when it closes, every commissioning session ends. -/
def refreshCommissioning (d : Dev) : Dev :=
  let now := !d.anchored && d.inForce Reg.certifiedMode == 0
  let was := d.flag Reg.commissioningOpen
  let d := d.setFlag Reg.commissioningOpen now
  if was && !now then
    d.dropSessions ((d.sessions.filter fun (s : Session) => s.commissioning).map (·.handle))
  else d

/-- CertifiedGaps and CertifiedState brought up to Table 18-9, with notice 0x2304 when a bit changes. -/
def refreshGaps (d : Dev) : Dev :=
  let on := d.inForce Reg.certifiedMode == 1
  let img := (d.slot d.sec.running).image
  let open_ := (List.range 4).any fun p => d.nat Reg.macsecMode p ≠ 2
  let maps := (List.range 16).any fun s => d.flag Reg.mapEnable s && (d.nat Reg.mapInterface s == 0 || (d.nat Reg.mapInterface s == 1 && open_))
  let bits := b2n (beAt img 26 2 % 2 = 0) + 2 * b2n (!d.anchored) + 4 * b2n (d.inForce Reg.udpMediaVlan ≠ 0 && open_) + 8 * b2n maps +
    16 * b2n (d.nat Reg.rollbackCounter < beAt img 12 4) + 32 * b2n (!d.sec.keysLost.isEmpty)
  let gaps := if on then bits else 0
  let was := d.nat Reg.certifiedGaps
  let d := (d.setNat Reg.certifiedGaps gaps).setNat Reg.certifiedState (b2n (on && gaps == 0))
  if was = gaps then d else d.notice 0x2304 gaps

/-- A key slot written or emptied, with notice 0x2303 (R512). -/
def setKey (idx sub : Nat) (m : Octets) (d : Dev) : Dev :=
  let d := d.setSec fun x => { x with keys := nset [] x.keys (entryKey idx sub) m, keysLost := x.keysLost.filter (· ≠ entryKey idx sub) }
  ((d.notice 0x2303 (idx * 65536 + sub * 256 + b2n m.isEmpty)).refreshCommissioning).refreshGaps

/-- The writable key slot of an index and sub-index, and its sizes. -/
def keySlot (idx sub : Nat) : Option (Nat → Bool) :=
  (keySizes.find? fun p => p.1.coversIndex idx && p.1.coversSub sub).map (·.2)

/-- KEY_ERASE: "erase iiii ss" (R512). -/
def keyErase (arg : Octets) (d : Dev) : Status × Dev :=
  match splitWords arg with
  | [w, i, s] =>
    match hex? i, hex? s with
    | some idx, some sub =>
      if w ≠ ascii "erase" ∨ i.length ≠ 4 ∨ s.length ≠ 2 ∨ (keySlot idx sub).isNone then (Status.range, d)
      else (Status.ok, d.setKey idx sub [])
    | _, _ => (Status.range, d)
  | _ => (Status.range, d)

/-! ### The boot ROM (R516, R517) -/

/-- Whether an image passes the boot ROM's checks of header and section 0; the image a module is supplied with passes
(DESIGN CHOICE: its octets are not given). -/
def bootable (d : Dev) (s : Nat) : Bool :=
  let x := d.slot s
  (x.state == 3 || x.state == 4 || x.state == 5) &&
    (x.image.isEmpty || (imageFails (d.nat Reg.firmwareKeyRevoked) (d.nat Reg.rollbackCounter) false 1 x.image).isNone)

/-- The slot that is ACTIVE, A where none is. -/
def activeSlot (d : Dev) : Nat := if (d.slot 1).state = 4 ∧ (d.slot 0).state ≠ 4 then 1 else 0

/-- What the running image gives to the identity entries. -/
def adoptImage (d : Dev) : Dev :=
  let img := (d.slot d.sec.running).image
  if img.isEmpty then d
  else (d.setNat Reg.firmwareVersion (beAt img 8 4)).setNat Reg.dictionaryVersion (beAt img 24 2)

/-- Whether every section but the first has its digest: the firmware checks each before it loads it (R517). -/
def sectionsLoad (d : Dev) (s : Nat) : Bool :=
  let img := (d.slot s).image
  img.isEmpty || (List.range (beAt img 7 1)).all fun i => i == 0 || sectionGood img i

/-- BOOT_ROM: the slot order, the trial's one boot, fallback; no bootable image is a fault (R516). A slot whose further section stopped
the last boot is treated as a failed trial; where one fails now, the boot stops and the watchdog ends it (R517). -/
def bootRom (bootSel : Bool) (d : Dev) : Dev :=
  let d := if d.sec.stopped then (d.setSlot d.sec.running fun s => { s with state := 6, begun := false }).setSec fun x => { x with bootNotes := [3] }
    else d.setSec fun x => { x with bootNotes := [] }
  let d := d.setSec fun x => { x with stopped := false }
  let a := d.activeSlot
  let t := 1 - a
  let failed := (d.slot t).state = 3 && (d.slot t).begun
  let d := if failed then (d.setSlot t fun s => { s with state := 6, begun := false }).setSec fun x => { x with bootNotes := [3] }
    else if (d.slot t).state = 3 then d.setSlot t fun s => { s with begun := true } else d
  let order := if (d.slot t).state = 3 || bootSel then [t, a] else [a, t]
  match order.find? d.bootable with
  | none => (d.setSec fun x => { x with trial := false, bootNotes := 2 :: x.bootNotes }).enterFault 7 0
  | some s =>
    let trial := (d.slot s).state = 3
    let other := s ≠ a && !trial
    let d := if other then (d.setSlot a fun x => { x with state := 5 }).setSlot s fun x => { x with state := 4 } else d
    let d := (d.setSec fun x => { x with running := s, trial, bootNotes := if other then 1 :: x.bootNotes else x.bootNotes }).bump Reg.slotBoots s
    if d.sectionsLoad s then d.adoptImage
    else ({ d with sup := { d.sup with remap := true, romLock := true, kickAt := some d.clock } }).setSec fun x => { x with stopped := true }

/-- The notices of the boot, raised once the log runs: 0x2407, 0x2408, 0x2405. -/
def bootNotices (d : Dev) : Dev :=
  d.sec.bootNotes.foldl (fun (d : Dev) n =>
    if n = 1 then d.notice 0x2407 d.sec.running else if n = 2 then d.notice 0x2408 0 else d.notice 0x2405 (1 - d.sec.running))
    (d.setSec fun x => { x with bootNotes := [] })

/-! ### Update (R518 to R523) -/

/-- Whether an UpdateImage transfer is open. -/
def uploading (d : Dev) : Bool := d.transfers.any fun t => !t.fromDevice && entryKey t.index t.sub == Reg.updateImage.key

/-- BLOCK_BEGIN of UpdateImage: the slot that does not run is WRITING (R520, R523). -/
def uploadBegin (d : Dev) : Status × Dev :=
  if d.sec.trial then (Status.state, d)
  else if d.uploading then (Status.busy, d)
  else (Status.ok, d.setSlot (1 - d.sec.running) fun _ => { state := 1, image := [], begun := false })

/-- BLOCK_END of UpdateImage: the programmed copy verified, VALID or EMPTY (R520). -/
def uploadEnd (img : Octets) (d : Dev) : Status × Dev :=
  let s := 1 - d.sec.running
  match imageFails (d.nat Reg.firmwareKeyRevoked) (d.nat Reg.rollbackCounter) (d.inForce Reg.certifiedMode == 1) 16 img with
  | none => (Status.ok, (d.setSlot s fun _ => { state := 2, image := img, begun := false }).notice 0x2401 s)
  | some c => (Status.range, (((d.setSlot s fun _ => { state := 0, image := [], begun := false }).setNat Reg.updateVerifyResult c).notice 0x2402 c))

/-- UPDATE_ACTIVATE: the other slot is TRIAL, and a full reset follows the response (R521). -/
def updateActivate (d : Dev) : Status × Dev :=
  let s := 1 - d.sec.running
  if !((d.slot s).state = 2 || (d.slot s).state = 5) ∨ d.sec.trial ∨ d.uploading ∨ (d.power.state = .onShow ∧ d.transmits) then (Status.state, d)
  else
    let d := (d.setSlot s fun x => { x with state := 3, begun := false }).notice 0x2403 s
    (Status.ok, { d with power := { d.power with resetDue := some 0x08 } })

/-- A trial that runs is confirmed: ACTIVE, the former ACTIVE slot PREVIOUS (R522). -/
def confirmTrial (d : Dev) : Dev :=
  let s := d.sec.running
  (((d.setSlot s fun x => { x with state := 4, begun := false }).setSlot (1 - s) fun x => if x.state = 4 then { x with state := 5 } else x).setSec
    fun x => { x with trial := false }).notice 0x2404 s

/-- UPDATE_CONFIRM (R522). -/
def updateConfirm (d : Dev) : Status × Dev :=
  if !d.sec.trial ∨ !d.power.state.runs then (Status.state, d) else (Status.ok, d.confirmTrial)

/-- TRIAL_CONFIRM_TIMER: ConfirmDelay in READY or SHOW without interruption (R522). -/
def trialTimer (d : Dev) : Dev :=
  match d.sec.readySince with
  | none => d
  | some t => if !d.sec.trial then d else d.onDue (t + msCycles (d.nat Reg.confirmDelay)) fun d => d.confirmTrial

/-- UPDATE_COMMIT: RollbackCounter rises, lower keys are revoked, slots below the counter are REFUSED (R518, R522). -/
def updateCommit (d : Dev) : Status × Dev :=
  if d.sec.trial then (Status.state, d)
  else
    let img := (d.slot d.sec.running).image
    let n := max (d.nat Reg.rollbackCounter) (beAt img 12 4)
    let d := (d.setNat Reg.rollbackCounter n).keep Reg.rollbackCounter
    let d := (d.setNat Reg.firmwareKeyRevoked (d.nat Reg.firmwareKeyRevoked ||| (2 ^ beAt img 6 1 - 1))).keep Reg.firmwareKeyRevoked
    let d := [0, 1].foldl (fun d s => d.setSlot s fun x => if 2 ≤ x.state ∧ beAt x.image 12 4 < n then { x with state := 7 } else x) d
    (Status.ok, (d.notice 0x2406 n).refreshGaps)

/-! ### JTAG (R525, R526) -/

/-- JTAG_CHALLENGE: a fresh nonce, in hexadecimal (R526). -/
def jtagChallenge (d : Dev) : Status × Octets × Dev :=
  if d.inForce Reg.certifiedMode = 1 then (Status.state, [], d)
  else
    let r := d.freeOctets 32
    (Status.ok, r.1.flatMap fun b => hexText 2 b.toNat, r.2.setSec fun x => { x with nonce := some r.1 })

/-- JTAG_RESPONSE: the TAP unlocks if the signature of the nonce verifies; a nonce serves one response (R526). -/
def jtagResponse (signature : Octets) (d : Dev) : Status × Dev :=
  if d.inForce Reg.certifiedMode = 1 then (Status.state, d)
  else if signature.length ≠ 96 then (Status.range, d)
  else match d.sec.nonce with
    | none => (Status.state, d.notice 0x2305 0)
    | some n =>
      let d := d.setSec fun x => { x with nonce := none }
      if Config.ecdsaVerify (Config.fused 2) n signature then (Status.ok, (d.setNat Reg.jtagState 1).notice 0x2305 1)
      else (Status.refused, d.notice 0x2305 0)

/-- A fault in the DTLS or crypto engine during a session: the session closes, a second one within 1 s wedges (R530). -/
def cryptoFault (session : Nat) (d : Dev) : Dev :=
  let again := match d.sec.cryptoFaultAt with | some t => decide (d.clock < t + secCycles 1) | none => false
  let d := d.setSec fun x => { x with cryptoFaultAt := some d.clock }
  let d := d.dropSessions [session]
  if again then d.wedged else d

end Dev

end Sys2Proof.Machine
end

