-- ==== Sys2Proof/Machine/Sram.lean ====
section
/-! DEFINITION. On-chip memory: bank groups, errors, scrubbing, power states, repair and the march engine (chapter 14). -/

namespace Sys2Proof.Machine

/-- First bank of each group of Table 14-1. -/
def groupFirst : List Nat := [0, 768, 2048, 2112, 2176, 2208, 2336, 2480, 2489, 2521, 2537, 2544, 2560]

/-- The group of a bank (Table 14-1). -/
def bankGroup (b : Nat) : Nat := ((List.range 12).filter fun g => lget 0 groupFirst g ≤ b).getLastD 0

/-- Banks of a half of a core in groups 2 to 5 (Table 14-1). -/
def halfBanks (g : Nat) : Nat := match g with | 2 => 4 | 3 => 4 | 4 => 2 | _ => 8

/-- One entry of the repair map: factory or field or pending flags with a row (Table 14-3). -/
def repairField (row : Nat) : Nat := 0x4000 + row % 256

namespace Dev

/-- The on-chip memory changed. -/
def setSram (f : Sram → Sram) (d : Dev) : Dev := { d with sram := f d.sram }

/-- The power state of the free halves of the mix memories: Retention while they hold the programme image of a prepared entry, On from
the entry's prepare deadline, Off otherwise (R191, R417). -/
def stagedState (d : Dev) : Nat :=
  match d.cal.entries.find? fun (p : Nat × CalEntry) =>
    p.2.state = .prepared && p.2.changes.any fun (c : Change) => c.index == 0x6800 && c.sub == Reg.programmeImage.sub with
  | some p => if p.2.date ≤ d.mscNow + 32 then 2 else 1
  | none => 0

/-- The power state that R417 gives a bank: 0 Off, 1 Retention, 2 On. -/
def bankWanted (d : Dev) (b : Nat) : Nat :=
  let g := bankGroup b
  let k := b - lget 0 groupFirst g
  if d.power.state = .off ∨ d.power.state = .offseason then 0
  else if d.power.state = .boot then 2
  else match g with
  | 1 =>
    let p := k / 80 % max d.parts 1
    if k % 80 * 4096 < d.slotsPer p * d.partOuts p then 2 else 0
  | 2 | 3 | 4 | 5 =>
    let h := k / halfBanks g % 2
    if h = d.sram.half ∨ d.mix.prev.isSome then 2 else d.stagedState
  | 6 => if (List.range d.outs).any fun m => decide (d.firSlot m * 3072 / 65536 = k) || decide ((d.firSlot m * 3072 + 3071) / 65536 = k) then 2
    else if d.corr.fades.any fun x => decide (x.slot * 3072 / 65536 = k) || decide ((x.slot * 3072 + 3071) / 65536 = k) then 2 else 0
  | 7 => if (List.range d.outs).any fun m => decide (d.firSlot m * 192 / 65536 = k) || decide ((d.firSlot m * 192 + 191) / 65536 = k) then 2
    else if d.corr.fades.any fun x => decide (x.slot * 192 / 65536 = k) || decide ((x.slot * 192 + 191) / 65536 = k) then 2 else 0
  | 9 => if d.convs.any fun p => decide (p.1 / 32 = k) then 2 else 0
  | _ => 2

/-- Whether a march run covers a bank. -/
def marching (d : Dev) (b : Nat) : Bool :=
  match d.sram.march with
  | some m => m.first ≤ b && b ≤ m.last
  | none => false

/-- The power state of a bank: On while a run covers it (R421). -/
def bankState (d : Dev) (b : Nat) : Nat :=
  if d.power.state = .off ∨ d.power.state = .offseason then 0 else if d.marching b then 2 else nget 2 d.sram.states b

/-- How many banks are in a power state (R422). -/
def banksIn (d : Dev) (st : Nat) : Nat := ((List.range 2560).filter fun b => d.bankState b = st).length

/-- The used entries of a bank's repair table. -/
def repairs (d : Dev) (b : Nat) : List Nat := nget [] d.sram.repair b

/-- The spare rows in use of a bank: its entries that are not pending. -/
def sparesUsed (d : Dev) (b : Nat) : Nat := ((d.repairs b).filter fun x => !x.testBit 13).length

/-- SramBankMap (Table 14-4). -/
def sramBankMap (d : Dev) : Octets :=
  (List.range 2560).flatMap fun b =>
    toBE 4 (bankGroup b + d.bankState b * 256 + min 4 (d.sparesUsed b) * 1024 + nget 0 d.sram.unusable b * 8192 +
      nget 0 d.sram.corrected b * 65536)

/-- SramRepairMap (Table 14-3). -/
def sramRepairMap (d : Dev) : Octets :=
  (List.range 2560).flatMap fun b => (List.range 4).flatMap fun i => toBE 2 (lget 0xFFFF (d.repairs b) i)

/-- RepairPending brought up to the repair table. -/
def countPending (d : Dev) : Dev :=
  d.setNat Reg.repairPending (d.sram.repair.foldl (fun n (p : Nat × List Nat) => n + (p.2.filter fun x => x.testBit 13).length) 0)

/-- A row entered in the repair table as pending, with notice 0xA104 (R415). -/
def pendRow (bank row : Nat) (d : Dev) : Dev :=
  if (d.repairs bank).contains (0x2000 + row) then d
  else ((d.setSram fun s => { s with repair := nput s.repair bank (nget [] s.repair bank ++ [0x2000 + row]) }).countPending).notice
    0xA104 (bank * 65536 + row)

/-- A read of a bank found a single-bit error (R413). -/
def sramCorrected (bank : Nat) (d : Dev) : Dev :=
  ((d.bump Reg.sramEccCorrected).setSram fun s => { s with corrected := nput s.corrected bank (min 0xFFFF (nget 0 s.corrected bank + 1)) }).noticeOnce
    (0xA1010000 + bank) 0xA101 bank

/-- A read found a double-bit error at a place, bank × 8,192 + word (R413); a row's second one makes it pending (R415). -/
def sramUncorrected (place : Nat) (d : Dev) : Dev :=
  let bank := place / 8192
  let row := place % 8192 / 32
  let d := (d.bump Reg.sramEccUncorrected).notice 0xA102 (bank * 65536 + place % 8192)
  let d := d.setSram fun s => { s with flips := nerase s.flips place }
  let key := bank * 256 + row
  if (nget? d.sram.doubles key).isSome then d.pendRow bank row
  else d.setSram fun s => { s with doubles := nput s.doubles key d.clock }

/-- SRAM_HARD_FAULT_RECHECK: the scrubber reads a written-back word again (R415). -/
def sramRecheck (bank word : Nat) (bad : Bool) (d : Dev) : Dev :=
  let place := bank * 8192 + word % 8192
  match nget? d.sram.recheck place with
  | some _ =>
    let d := d.setSram fun s => { s with recheck := nerase s.recheck place }
    if bad then d.pendRow bank (word % 8192 / 32) else d
  | none => d

/-- A run ends: its outcome and notice 0xA103 (R421). -/
def endMarch (state : Nat) (d : Dev) : Dev :=
  ((d.setSram fun s => { s with march := none }).setNat Reg.marchState state).notice 0xA103
    (min 0xFFFF (d.nat Reg.marchFailures) * 65536 + state)

/-- A bank takes the state of R417; one that lost its spares and is needed is a fault out of range (R421). -/
def settleBank (b : Nat) (d : Dev) : Dev :=
  let w := d.bankWanted b
  let d := d.setSram fun s => { s with states := nset 2 s.states b w }
  if w = 2 ∧ (nget? d.sram.unusable b).isSome then d.enterFault 5 b else d

/-- Every bank takes the state of R417. -/
def settleBanks (d : Dev) : Dev :=
  d.setSram fun s => { s with states := (List.range 2560).filterMap fun b => let w := d.bankWanted b; if w = 2 then none else some (b, w) }

/-- BANK_POWER_TRANSITION: a bank begins its transition to the state of R417; a bank in Retention that is to wake ends a
run that holds it, as aborted (R417, R421). -/
def bankTransition (b : Nat) (d : Dev) : Dev :=
  if 2560 ≤ b then d
  else if d.marching b then
    if nget 2 d.sram.states b = 1 ∧ d.bankWanted b = 2 then (d.endMarch 4).settleBank b else d
  else d.settleBank b

/-- Whether a bank qualifies for a run (R421). -/
def marchOk (d : Dev) (destructive : Bool) (b : Nat) : Bool :=
  let st := d.bankState b
  if destructive then st == 0 else st == 0 || st == 1 || (!d.power.state.runs && bankGroup b != 11)

/-- MarchCmd starts a run over the banks `f` to `l` (R421). -/
def marchStart (destructive : Bool) (f l background : Nat) (d : Dev) : Status × Dev :=
  if l < f ∨ 2560 ≤ l ∨ 2 < background then (Status.range, d)
  else if d.sram.march.isSome ∨ (List.range (l + 1 - f)).any (fun i => !d.marchOk destructive (f + i)) then (Status.state, d)
  else
    let d := d.setSram fun s => { s with march := some { destructive, first := f, last := l, background, startedAt := d.clock } }
    (Status.ok, ((d.setNat Reg.marchState 1).setNat Reg.marchFailures 0).setNat Reg.marchRepairs 0)

/-- A failing row gets a field spare, held in MRAM; a bank without one left is unusable (R419, R421). -/
def repairRow (bank row : Nat) (d : Dev) : Dev :=
  let others := (d.repairs bank).filter fun x => x ≠ 0x2000 + row
  if (others.filter fun x => !x.testBit 13).length < 4 then
    ((d.setSram fun s => { s with repair := nput s.repair bank (others ++ [repairField row]) }).countPending).bump Reg.marchRepairs
  else (d.setSram fun s => { s with unusable := nput s.unusable bank 1 }).notice 0xA105 bank

/-- MARCH_COMPLETE: the run ends after 10 accesses a word for each 64 banks, its failing rows repaired; a failure gives
bank, row and the number of failing words (R418, R421). -/
def marchComplete (failures : List (Nat × Nat × Nat)) (d : Dev) : Dev :=
  match d.sram.march with
  | none => d
  | some m =>
    d.onDue (m.startedAt + cdiv (m.last + 1 - m.first) 64 * 40960) fun d =>
    let hits := failures.filter fun x => m.first ≤ x.1 && x.1 ≤ m.last && x.2.1 < 256
    let d := d.setNat Reg.marchFailures (hits.foldl (fun n x => n + x.2.2) 0)
    let d := hits.foldl (fun d x => d.repairRow x.1 x.2.1) d
    let d := d.endMarch (if hits.isEmpty then 2 else 3)
    (List.range (m.last + 1 - m.first)).foldl (fun d i => d.settleBank (m.first + i)) d

/-- STARTUP_MARCH: pending and failing rows get spares; a bank out of spares, or a local array that fails, is a fault out
of range (R420). -/
def startupMarch (failing : List (Nat × Nat)) (arrayBad : Bool) (us : Nat) (d : Dev) : Dev :=
  let fixed := d.setSram fun s => { s with repair := s.repair.map fun (p : Nat × List Nat) => (p.1, p.2.map fun x => if x.testBit 13 then repairField x else x) }
  let d := failing.foldl (fun d (x : Nat × Nat) =>
    d.setSram fun s => { s with repair := nput s.repair (x.1 % 2560) (nget [] s.repair (x.1 % 2560) ++ [repairField x.2]) }) fixed.countPending
  let d := d.setNat Reg.startupMarchTime us
  match d.sram.repair.find? fun (p : Nat × List Nat) => 4 < p.2.length with
  | some p => (d.notice 0xA105 p.1).enterFault 5 p.1
  | none => if arrayBad then (d.notice 0xA105 0).enterFault 5 0 else d

end Dev

end Sys2Proof.Machine
end

