-- ==== Sys2Proof/Machine/Super.lean ====
section
/-! DEFINITION. The supervisor: lockstep, system control, watchdog, sensors, fan, the log's commands, peek (chapter 17). -/

namespace Sys2Proof.Machine

/-- The range of a sensor's warn limits (Table 17-5). -/
def sensorRange (s : Nat) : Int × Int :=
  match s with
  | 6 => (0, 72000) | 7 => (0, 8000) | 8 => (500, 1100) | 9 => (800, 1300) | 10 => (2500, 4000) | 11 => (0, 1000) | 12 => (0, 120000)
  | _ => (-5500, 15000)

/-- Whether a value is inside a limit by the hysteresis of R491: 200 for temperatures, else 1 % of the limit. -/
def insideBy (s : Nat) (low : Bool) (limit v : Int) : Bool :=
  if s ≤ 5 then (if low then limit + 200 ≤ v else v ≤ limit - 200)
  else if low then 101 * limit ≤ 100 * v else 100 * v ≤ 99 * limit

/-- The octets of a log record as read (Table 17-7). -/
def logOctets (seq : Nat) (x : LogRec) : Octets :=
  let body := toBE 4 seq ++ toBE 1 x.kind ++
    (if x.kind = 4 then toBE 1 0 ++ x.ext ++ List.replicate (21 - x.ext.length) (octet 0)
     else toBE 1 x.sub ++ toBE 2 x.code ++ toBE 8 x.date ++ toBE 4 x.arg ++ toBE 2 x.index ++ toBE 2 x.unit ++ toBE 3 x.seconds) ++ toBE 1 x.flags
  body ++ toBE 4 (crc32c body)

namespace Dev

/-- The supervisor's own state changed. -/
def setSup (f : Super → Super) (d : Dev) : Dev := { d with sup := f d.sup }

/-! ### Lockstep, system control, watchdog (R483, R487 to R490) -/

/-- LOCKSTEP_MISMATCH: ILK_OUT drops, LastLockstep is written, the module resets (R483, R502). -/
def lockstep (address group : Nat) (d : Dev) : Dev :=
  if !d.live then d
  else
    let rec_ := toBE 8 address ++ toBE 8 d.seconds ++ toBE 4 (d.nat Reg.blockCount) ++ toBE 4 group
    let d := (d.setVal Reg.lastLockstep (.bytes rec_)).keep Reg.lastLockstep
    (d.bump Reg.lockstepFaults).fullReset 0x06

/-- REMAP_SET: a write of 1 to Remap; it is sticky, and the watchdog starts (R487, R490). -/
def remapSet (d : Dev) : Dev :=
  if d.sup.remap then d else (d.setFlag Reg.remapState true).setSup fun s => { s with remap := true, kickAt := some d.clock }

/-- ROM_LOCK_SET: the boot ROM reads as bus errors until a full reset (Table 17-2). -/
def romLock (d : Dev) : Dev := d.setSup fun s => { s with romLock := true }

/-- NOR_WRITE_ENABLE: whether the flash takes program and erase commands (R489). -/
def norWrite (v : Bool) (d : Dev) : Dev := d.setSup fun s => { s with norWrite := v }

/-- SysCtrl as read (Table 17-2). -/
def sysCtrl (d : Dev) : Nat := b2n d.sup.remap + 2 * b2n d.sup.romLock + 4 * b2n d.sup.norWrite + 256 * d.sup.sliceMask + 65536

/-- A watchdog reset, counted and recorded (R490, R502). -/
def watchdogReset (d : Dev) : Dev :=
  let d := ((d.bump Reg.watchdogResets).setNat Reg.lastWatchdog (d.seconds % 2 ^ 32)).keep Reg.lastWatchdog
  d.fullReset 0x05

/-- WATCHDOG_KICK: in time, or a reset in the first 10 ms and from 100 ms on (R490). -/
def watchdogKick (d : Dev) : Dev :=
  match d.sup.kickAt with
  | none => d
  | some t =>
    if d.clock < t + msCycles 10 ∨ t + msCycles 100 ≤ d.clock then d.watchdogReset
    else d.setSup fun s => { s with kickAt := some d.clock }

/-- WATCHDOG_EXPIRY: no kick within 100 ms (R490). -/
def watchdogExpiry (d : Dev) : Dev :=
  match d.sup.kickAt with
  | none => d
  | some t => if !d.live then d else d.onDue (t + msCycles 100) fun d => d.watchdogReset

/-! ### Sensors (R491) -/

/-- VcoreTarget: the target in force, which ramps at 1 mV/ms after a plan step (R535). -/
def vcoreNow (d : Dev) : Nat :=
  let final := d.nat Reg.vcoreBase + 5 * d.nat Reg.vcorePlanSteps
  if d.season.rampAt = 0 then final else min final (d.season.rampFrom + (d.clock - d.season.rampAt) / 786432)

/-- A limit of a sensor: 0 warn low, 1 warn high, 2 fault low, 3 fault high; those of VCORE follow its target. -/
def sensorLimit (d : Dev) (s k : Nat) : Int :=
  if s = 8 then rdiv ((d.vcoreNow : Int) * (match k with | 0 => 97 | 1 => 103 | 2 => 95 | _ => 105)) 100
  else match k with
    | 0 => d.int Reg.sensorWarnLow s | 1 => d.int Reg.sensorWarnHigh s | 2 => d.int Reg.sensorFaultLow s | _ => d.int Reg.sensorFaultHigh s

/-- Whether a value is beyond a limit. -/
def beyond (d : Dev) (s k : Nat) (v : Int) : Bool :=
  let l := d.sensorLimit s k
  if k % 2 = 0 then l ≠ noLimitLow && v < l else l ≠ noLimitHigh && l < v

/-- A run of consecutive samples, counted or ended; at most 255 are told apart. -/
def countRun (key : Nat) (on : Bool) (d : Dev) : Dev :=
  d.setSup fun s => { s with runs := nset 0 s.runs key (if on then min 255 (nget 0 s.runs key + 1) else 0) }

/-- SensorState changed, with notice 0x2101; a fault over, and the fan at full speed on a lid warning (R491, R492). -/
def setSensor (s st : Nat) (d : Dev) : Dev :=
  let d := (d.setNat Reg.sensorState st s).notice 0x2101 (s * 65536 + st)
  let d := if s = 2 ∧ st = 2 then d.setNat Reg.fanDutyNow 1000 else d
  if st = 3 then d.enterFault 1 s else d.countRun (4 * s + 2) false

/-- One sensor's sample (R491). -/
def sensorOne (s : Nat) (raw : Int) (d : Dev) : Dev :=
  let v := match nget? d.perturb.sensors s with | some o => o.1 | none => raw
  let d : Dev := match nget? d.perturb.sensors s with
    | some o => { d with perturb := { d.perturb with sensors := if o.2 ≤ 1 then nerase d.perturb.sensors s else nput d.perturb.sensors s (o.1, o.2 - 1) } }
    | none => d
  let d := d.setInt Reg.sensorValue v s
  let d := if v < d.int Reg.sensorMin s then d.setInt Reg.sensorMin v s else d
  let d := if d.int Reg.sensorMax s < v then d.setInt Reg.sensorMax v s else d
  let st := d.nat Reg.sensorState s
  let back := if st = 1 then (d.sensorLimit s 0 = noLimitLow || insideBy s true (d.sensorLimit s 0) v)
    else if st = 2 then (d.sensorLimit s 1 = noLimitHigh || insideBy s false (d.sensorLimit s 1) v) else false
  let d := ((d.countRun (4 * s) (d.beyond s 0 v)).countRun (4 * s + 1) (d.beyond s 1 v)).countRun (4 * s + 2) back
  let d := d.countRun (4 * s + 3) (d.beyond s 2 v || d.beyond s 3 v)
  let run (k : Nat) : Nat := nget 0 d.sup.runs (4 * s + k)
  if st = 3 then d
  else if 3 ≤ run 3 then d.setSensor s 3
  else if st ≠ 0 ∧ run 2 < 8 then d
  else
    let now := if 8 ≤ run 0 then 1 else if 8 ≤ run 1 then 2 else 0
    if now = st then d else d.setSensor s now

/-- SENSOR_SAMPLE: every 250 µs each sensor is sampled (R491). -/
def sensorSample (values : List Int) (d : Dev) : Dev :=
  d.onPeriod 160 (usCycles 250) fun d =>
  let d := (values.take 13).zipIdx.foldl (fun d x => d.sensorOne x.2 x.1) d
  { d with season := { d.season with
    minuteTemp := d.season.minuteTemp + d.int Reg.sensorValue 2
    minuteVolt := d.season.minuteVolt + d.vcoreNow
    minuteSamples := d.season.minuteSamples + 1 } }

/-- SENSOR_LIMIT_WRITE: a write of SensorWarnLow or SensorWarnHigh (R491). -/
def sensorLimitWrite (s : Nat) (high : Bool) (v : Int) (d : Dev) : Status × Dev :=
  if 13 ≤ s then (Status.noEntry, d)
  else if s = 8 then (Status.readOnly, d)
  else
    let r := sensorRange s
    let none_ := if high then noLimitHigh else noLimitLow
    if v ≠ none_ ∧ !(r.1 ≤ v && v ≤ r.2) then (Status.range, d)
    else
      let lo := if high then d.sensorLimit s 0 else v
      let hi := if high then v else d.sensorLimit s 1
      if hi ≤ lo then (Status.conflict, d)
      else
        let row := if high then Reg.sensorWarnHigh else Reg.sensorWarnLow
        (Status.ok, (d.setInt row v s).keep row s)

/-! ### Fan (R492) -/

/-- The duty cycle that a lid temperature asks for. -/
def fanCurve (d : Dev) (lid : Int) : Nat :=
  let lo := d.int Reg.fanTempLow
  let hi := d.int Reg.fanTempHigh
  let least : Int := d.nat Reg.fanMinDuty
  if lid ≤ lo then least.toNat else if hi ≤ lid then 1000
  else (least + rdiv ((lid - lo) * (1000 - least)) (hi - lo)).toNat

/-- FAN_UPDATE: every 100 ms the speed is taken and the duty cycle recomputed (R492). -/
def fanUpdate (rpm : Nat) (d : Dev) : Dev :=
  d.onPeriod 161 (msCycles 100) fun d =>
  let d := d.setNat Reg.fanRpm (min rpm 65535)
  let now := d.nat Reg.fanDutyNow
  let lidWarn := d.nat Reg.sensorState 2 = 2 ∨ d.nat Reg.sensorState 2 = 3
  let duty := if lidWarn then 1000
    else if d.nat Reg.fanMode = 1 then d.nat Reg.fanDuty
    else max (d.fanCurve (d.int Reg.sensorValue 2)) (now - 2)
  let slow := rpm < d.nat Reg.fanStallRpm && 200 ≤ duty
  (d.setNat Reg.fanDutyNow duty).setSup fun s => { s with
    fanSlowSince := if slow then (match s.fanSlowSince with | some t => some t | none => some d.clock) else none
    fanStalled := s.fanStalled && slow }

/-- A write of FanMode or FanDuty: in mode 1 the duty cycle is FanDuty, but for a lid warning (R492). -/
def fanForce (d : Dev) : Dev :=
  if d.nat Reg.fanMode = 1 ∧ d.nat Reg.sensorState 2 < 2 then d.setNat Reg.fanDutyNow (d.nat Reg.fanDuty) else d

/-- FAN_STALL: a speed below FanStallRpm for 2 s (R492). -/
def fanStall (d : Dev) : Dev :=
  match d.sup.fanSlowSince with
  | none => d
  | some t =>
    d.onDue (t + secCycles 2) fun d =>
    if d.sup.fanStalled then d else (d.setSup fun s => { s with fanStalled := true }).notice 0x2102 (d.nat Reg.fanRpm)

/-! ### The log's commands (R495 to R501) -/

/-- LogOldest (R495, R501). -/
def logOldest (d : Dev) : Nat :=
  if d.log.newest = 0 then 0 else max (max 1 (d.log.newest - 131071)) d.log.clearedTo

/-- A record as LogRead returns it: Kind 0 where it is not held (R500). -/
def logRecordAt (d : Dev) (seq : Nat) : Octets :=
  let gone := toBE 4 seq ++ List.replicate 24 (octet 0)
  if seq < d.logOldest ∨ d.log.newest < seq then gone ++ toBE 4 (crc32c gone)
  else match nget? d.log.ring seq with
  | some x => logOctets seq x
  | none => gone ++ toBE 4 (crc32c gone)

/-- The size of LogRead at BLOCK_BEGIN, or none where its first Seq lies above LogNewest (R500). -/
def logReadCount (d : Dev) (select : Nat) : Option Nat :=
  let first := select / 2 ^ 32
  let count := select % 2 ^ 32
  if d.log.newest < first then none else some (min count (d.log.newest - first + 1))

/-- LogFind "date d": the Seq of the first held record at or after a date (R500). -/
def logFind (arg : Octets) (d : Dev) : Status × Octets × Dev :=
  match splitWords arg with
  | [w, n] =>
    match decimal? n with
    | some date =>
      if w ≠ ascii "date" ∨ 2 ^ 64 ≤ date then (Status.range, [], d)
      else
        let hit := d.log.ring.find? fun (p : Nat × LogRec) => decide (d.logOldest ≤ p.1) && decide (date ≤ p.2.date)
        (Status.ok, decText (match hit with | some p => p.1 | none => d.log.newest + 1), d)
    | none => (Status.range, [], d)
  | _ => (Status.range, [], d)

/-- LogClear "clear": the log empties, Seq counts on, a Kind 7 record names the role (R501). -/
def logClear (role : Nat) (arg : Octets) (d : Dev) : Status × Dev :=
  if arg ≠ ascii "clear" then (Status.range, d)
  else
    let d := { d with log := { d.log with ring := [], clearedTo := d.log.newest + 1 } }
    (Status.ok, d.logEvent (d.logOwn 7 (Config.recordField 7 % 65536) role))

/-! ### Bus errors and peek (R486, R489, R503) -/

/-- What ends an access at an address with a bus error, by a fabric master that is requester `q` of the DRAM: 1 unmapped, 2 a write to the
boot ROM or to a closed NOR window, 3 outside the requester's regions (R486, R487, R489). -/
def fabricError (d : Dev) (q a : Nat) (write : Bool) : Option Nat :=
  let rom : Option Nat := if d.sup.romLock then some 1 else if write then some 2 else none
  if a < 0x100000 then (if d.sup.remap then none else if a < 0x40000 then rom else some 1)
  else if 0x10000000 ≤ a ∧ a < 0x10040000 then rom
  else if 0x10100000 ≤ a ∧ a < 0x10200000 then none
  else if 0x20000000 ≤ a ∧ a < 0x24000000 then (if write && !d.sup.norWrite then some 2 else none)
  else if 0x30000000 ≤ a ∧ a < 0x30400000 then none
  else if 0x40000000 ≤ a ∧ a < 0x44000000 then (if a = 0x42000000 || Config.bridgeMapped (a - 0x40000000) then none else some 1)
  else if 0x1000000000 ≤ a ∧ a < 0x13E0000000 then (if regionOk q (a - 0x1000000000) then none else some 3)
  else some 1

/-- Whether an address is the working SRAM's, at its fixed alias or behind Remap (Table 17-1). -/
def inSram (d : Dev) (a : Nat) : Bool := (decide (a < 0x100000) && d.sup.remap) || (decide (0x10100000 ≤ a) && decide (a < 0x10200000))

/-- Whether an address lies in the supervisor's own code, stack or ring memory: working SRAM and working memory (R489). -/
def ownMemory (d : Dev) (a : Nat) : Bool := d.inSram a || (decide (0x1244000000 ≤ a) && decide (a < 0x1284000000))

/-- The place in on-chip memory of a working SRAM address: bank group 11 (Tables 14-1, 17-1). -/
def sramPlace (a : Nat) : Nat := 2544 * 8192 + a % 0x100000 / 8

/-- A word of the flash that a slot's image holds (R519). -/
def norWord (d : Dev) (o : Nat) : Option Nat :=
  let img := (d.sec.slots.get { state := 0, image := [], begun := false } (o / 0xA00000)).image
  if o < 0x1400000 ∧ o % 0xA00000 + 4 ≤ img.length then some (beAt img (o % 0xA00000) 4) else none

/-- A word of the log's stored records (R495, R496). -/
def mramWord (d : Dev) (o : Nat) : Option Nat :=
  if 0x300000 ≤ o then none
  else
    let turn := d.log.newest / 131072 * 131072
    let seq := if d.log.newest % 131072 < o / 24 then turn + o / 24 - 131072 else turn + o / 24
    (nget? d.log.ring seq).map fun x => beAt ((logOctets seq x).drop 4) (o % 24) 4

/-- The word that the supervisor reads at an address, or the cause of a bus error; a place to which the spec gives no contents reads a
free value. -/
def peekWord (mem : List Host.Cell) (a : Nat) (d : Dev) : (Nat ⊕ Nat) × Dev :=
  let free (o : Option Nat) : (Nat ⊕ Nat) × Dev := match o with
    | some w => (.inl w, d)
    | none => (.inl (d.freeNat.1 % 2 ^ 32), d.freeNat.2)
  match d.fabricError 5 a false with
  | some c => (.inr c, d)
  | none =>
    if d.inSram a then
      if 2 ≤ popCount 72 (nget 0 d.sram.flips (sramPlace a)) then (.inr 4, d.sramUncorrected (sramPlace a)) else free none
    else if a < 0x20000000 then free none
    else if a < 0x30000000 then free (d.norWord (a - 0x20000000))
    else if a < 0x40000000 then free (d.mramWord (a - 0x30000000))
    else if a < 0x1000000000 then free (if a = 0x42000000 then some d.sysCtrl else none)
    else
      let u := a - 0x1000000000
      let x := d.poisonCheck u false
      (if x.1 then .inr 4 else .inl (beAt (d.lineOf mem (u / 64 * 64)) (u % 64) 4), x.2)

/-- An access of a fabric master that ends in a bus error: recorded, and handled as the master's (R489). -/
def fabricAccess (master a : Nat) (write : Bool) (d : Dev) : Dev :=
  let q := if master = 1 then 8 else if 2 ≤ master ∧ master ≤ 5 then 6 else if master = 6 then 4 else 5
  match d.fabricError q a write with
  | none => d
  | some c =>
    let d := d.busError a master c
    if master = 0 then (if d.ownMemory a then d.wedged else d)
    else if master = 1 then d.transferFails (Config.tapOwner a)
    else if master ≤ 5 then d.engineFails (master - 2)
    else d

/-- A cache error of the supervisor: 0 a single bit, corrected in place; 1 two bits in a line that has not been written, refetched and
counted; 2 two bits in a written line, a lockstep fault (R484). -/
def cacheError (kind address : Nat) (d : Dev) : Dev :=
  match kind with
  | 0 => d.logCorrected 0xB01 0x2100 0
  | 1 => d.bump Reg.supervisorCacheRefetch
  | _ => d.lockstep address 1

/-- SupervisorPeek "r aaaaaaaaaa": one 32-bit word of the address map, or "bus error" (R503). -/
def peek (mem : List Host.Cell) (arg : Octets) (d : Dev) : Status × Octets × Dev :=
  if d.inForce Reg.certifiedMode = 1 then (Status.state, [], d)
  else match splitWords arg with
  | [w, n] =>
    match hex? n with
    | some a =>
      if w ≠ ascii "r" ∨ n.length ≠ 10 ∨ a % 4 ≠ 0 then (Status.range, [], d)
      else match d.peekWord mem a with
        | (.inl x, d') => (Status.ok, hexText 8 x, d')
        | (.inr c, d') => (Status.ok, ascii "bus error", d'.busError a 0 c)
    | none => (Status.range, [], d)
  | _ => (Status.range, [], d)

end Dev

end Sys2Proof.Machine
end

