-- ==== Sys2Proof/Machine/Season.lean ====
section
/-! DEFINITION. Ageing, the life account, margin plans, self-tests and perturbation slots (chapter 19). -/

namespace Sys2Proof.Machine

/-- The rated life in ms (R533). -/
def ratedLifeMs : Nat := 315576000000

/-- 1.0 of the fixed-point numbers that the acceleration factor is computed with. -/
def afOne : Int := 2 ^ 128

/-- log2 e and ln 2 as fixed-point numbers. -/
def afLog2e : Int := 490923683258796565746369346286093237521

/-- ln 2 as a fixed-point number. -/
def afLn2 : Int := 235865763225513294137944142764154484399

/-- e to a fixed-point power from 0 to 1, by its series. -/
def afExp (x : Int) : Int :=
  ((List.range 34).foldl (fun (a : Int × Int) i =>
    let t := a.2 * x / (afOne * (i + 1 : Nat))
    (a.1 + t, t)) (afOne, afOne)).1

/-- 60,000 × AF of R533, rounded half up: the mean lid temperature is `t / n` in 0.01 °C, the mean target is `dv / n` mV
above VcoreBase. -/
def equivalentMs (t dv : Int) (n : Nat) : Nat :=
  let n : Int := max n 1
  let x := 812300 * (t - 8500 * n) * afLog2e / (35815 * (t + 27315 * n)) + dv * afOne / (25 * n)
  let whole := x / afOne
  let y := 60000 * afExp (x % afOne * afLn2 / afOne)
  if 0 ≤ whole then (rdiv (y * 2 ^ whole.toNat) afOne).toNat else (rdiv y (afOne * 2 ^ (-whole).toNat)).toNat

/-- The canaries of the voltage plan (Table 19-1). -/
def planCanaries : List Nat := List.range 48 ++ [56, 57, 58, 59]

/-- The fields of a perturbation slot record (Table 19-3). -/
structure SlotRec where
  /-- Kind of Table 19-4. -/
  kind : Nat
  /-- Target. -/
  target : Nat
  /-- Parameter. -/
  param : Nat
  /-- Applications; 0 until disarmed. -/
  count : Nat
  /-- Blocks between applications. -/
  period : Nat
  /-- MSC of the first application. -/
  start : Nat
  deriving DecidableEq, Repr

/-- A record's fields; octet i holds bits [191 − 8i:184 − 8i] (R541). -/
def slotRec (l : Octets) : SlotRec :=
  let n := fromBE l
  { kind := bits n 7 0, target := bits n 31 16, param := bits n 63 32, count := bits n 79 64, period := bits n 95 80, start := bits n 159 96 }

/-- The kinds of Table 19-4. -/
def perturbKinds : List Nat :=
  [0x01, 0x02, 0x03, 0x10, 0x11, 0x12, 0x20, 0x21, 0x22, 0x30, 0x31, 0x32, 0x33, 0x34, 0x35, 0x36, 0x37]

/-- What a record's own checks answer (R541). -/
def slotRecCheck (l : Octets) : Status :=
  if l.length ≠ 24 then Status.badLength
  else
    let n := fromBE l
    let r := slotRec l
    if bits n 15 8 ≠ 0 ∨ bits n 191 160 ≠ 0 ∨ !(r.kind = 0 || perturbKinds.contains r.kind) then Status.range else Status.ok

/-- A mask of 72 bits for the bits that a SramFlip names (Table 19-4). -/
def flipMask (param : Nat) : Nat :=
  let b := bits param 19 13
  if 72 ≤ b then 0 else 2 ^ b ^^^ (if param.testBit 20 then 2 ^ ((b + 1) % 72) else 0)

namespace Dev

/-- The season account changed. -/
def setSeason (f : Season → Season) (d : Dev) : Dev := { d with season := f d.season }

/-! ### Canaries and margin plans (R532, R535, R536, R538) -/

/-- Plan steps applied: the target ramps from where it is; each step raises its notice (R535). -/
def applyVolt (steps : Nat) (d : Dev) : Dev :=
  let from_ := d.vcoreNow
  let old := d.nat Reg.vcorePlanSteps
  let d := (d.setNat Reg.vcorePlanSteps steps).keep Reg.vcorePlanSteps
  let d := (d.setNat Reg.vcorePending 0).setSeason fun s => { s with rampFrom := from_, rampAt := d.clock }
  (List.range (steps - old)).foldl (fun (d : Dev) i => d.notice 0xA802 ((old + i + 1) * 256 + b2n (d.power.state == .onShow))) d

/-- Steps held in SHOW are applied once the module has left it (R535). -/
def applyPendingVolt (d : Dev) : Dev :=
  let p := d.nat Reg.vcorePending
  if d.power.state ≠ .onShow ∧ d.nat Reg.vcorePlanSteps < p then d.applyVolt p else d

/-- The largest shift among some canaries, with the lowest canary that shows it. -/
def largestShift (d : Dev) (cs : List Nat) : Int × Nat :=
  cs.foldl (fun (a : Int × Nat) c => if a.1 < d.int Reg.canaryShift c then (d.int Reg.canaryShift c, c) else a)
    (d.int Reg.canaryShift (cs.headD 0), cs.headD 0)

/-- The voltage plan after a measurement (R535). -/
def voltagePlan (d : Dev) : Dev :=
  let w := d.largestShift planCanaries
  let wanted := min 8 (w.1 / 50).toNat
  let now := d.nat Reg.vcorePlanSteps
  let d := if wanted ≤ now then d
    else if d.power.state ≠ .onShow ∨ now + 2 ≤ wanted then d.applyVolt wanted
    else d.setNat Reg.vcorePending wanted
  if 450 ≤ w.1 ∧ !d.season.marginTold then (d.setSeason fun s => { s with marginTold := true }).notice 0xA803 w.2 else d

/-- The slice request of an FK8240-LG-X (R538); the stored value takes effect at the next full reset. -/
def slicePlan (d : Dev) : Dev :=
  if !Config.extended ∨ d.flag Reg.sliceRequest ∨ (d.largestShift ((List.range 8).map (48 + ·))).1 < 300 then d
  else
    let d := (d.setNat Reg.fabricSliceMask 0xFF).keep Reg.fabricSliceMask
    (((d.setFlag Reg.sliceRequest true).keep Reg.sliceRequest)).notice 0xA806 0

/-- One canary's measurement: counts of the reference and of the canary over 1 ms (R532). -/
def canaryOne (c ref can : Nat) (d : Dev) : Dev :=
  if 64 ≤ c ∨ ref = 0 then d
  else
    let shift := satS 16 (rdiv (10000 * ((ref : Int) - can)) ref - Config.canaryFused c)
    let d := d.setInt Reg.canaryShift shift c
    if d.int Reg.canaryShiftMax c < shift then (d.setInt Reg.canaryShiftMax shift c).keep Reg.canaryShiftMax c else d

/-- SEASON_MEASURE: all canaries measured, then the plans; an extra measurement leaves the period as it is (R532, R535, R538). -/
def seasonMeasure (counts : List (Nat × Nat)) (d : Dev) : Dev :=
  let run (next : Nat) (d : Dev) : Dev :=
    let d := (counts.zipIdx.foldl (fun d x => d.canaryOne x.2 x.1.1 x.1.2) d).setSeason fun s => { s with measureAt := next, extra := false }
    (d.applyPendingVolt).voltagePlan.slicePlan
  if d.season.extra then run d.season.measureAt d
  else d.onDue d.season.measureAt fun d => run (d.clock + secCycles (d.nat Reg.seasonPeriod)) d

/-- SEASON_MEASURE_CMD "measure": an extra measurement at once (R532). -/
def seasonMeasureCmd (d : Dev) : Status × Dev := (Status.ok, d.setSeason fun s => { s with extra := true })

/-- Whether octets spell this module's serial number. -/
def ownSerial (d : Dev) (s : Octets) : Bool := s == d.bytes Reg.serialNumber

/-- CLEAR_REFRESH "clear refresh c s": lowers the floor of a channel in the named unit (R536). -/
def clearRefresh (c : Nat) (serial : Octets) (d : Dev) : Status × Dev :=
  if 4 ≤ c then (Status.range, d)
  else if !d.ownSerial serial then (Status.ok, d)
  else (Status.ok, (((d.setNat Reg.refreshFloor 1 c).keep Reg.refreshFloor c).updateRange c))

/-! ### The life account (R533, R534) -/

/-- Notice 0xA801 for each threshold reached for the first time in the life of the module (R534). -/
def lifeThresholds (d : Dev) : Dev :=
  [50, 80, 90, 100].foldl (fun d p =>
    if p * 1000 ≤ d.nat Reg.seasonLifeUsed ∧ !(d.season.thresholds.contains p) then
      (d.setSeason fun s => { s with thresholds := p :: s.thresholds }).notice 0xA801 p
    else d) d

/-- SeasonRemainingDays (R534). -/
def remainingDays (d : Dev) : Nat :=
  let sum := d.season.days.foldl (· + ·) 0
  if d.nat Reg.seasonPoweredTime < 86400 ∨ sum = 0 then 0xFFFFFFFF
  else min 0xFFFFFFFF (rdiv (((ratedLifeMs : Int) - (d.nat Reg.seasonEquivalent : Nat)) * (d.season.days.length : Nat)) (sum : Nat)).toNat

/-- A record of SeasonHistory once 7 powered days have ended (Table 19-5). -/
def seasonRecord (newDay : Bool) (d : Dev) : Dev :=
  if !newDay || d.season.dayCount ≤ 1 || d.season.dayCount % 7 ≠ 1 then d
  else
    let x := toBE 8 (d.nat Reg.seasonEquivalent) ++ toBE 8 (d.nat Reg.seasonPoweredTime) ++
      (List.range 64).flatMap fun c => toBE 2 (wrapU 16 (d.int Reg.canaryShift c))
    d.setSeason fun s => { s with history := (x :: s.history).take 520 }

/-- An account that has not begun: what a module has whose season area fails its check (R589). -/
def freshAccount (d : Dev) : Dev :=
  let rows := [Reg.seasonEquivalent, Reg.seasonPoweredTime, Reg.seasonLifeUsed]
  let d := rows.foldl (fun (d : Dev) r => (d.setNat r 0).keep r) d
  let d := (List.range 11).foldl (fun (d : Dev) l => (d.setFlag Reg.eqStartValid false l).keep Reg.eqStartValid l) d
  d.setSeason fun s => { s with days := [], dayNumber := 0, dayCount := 0, thresholds := [], history := [], starts := [] }

/-- The account written to the season area of MRAM (R533, R553). -/
def keepAccount (d : Dev) : Dev :=
  ((d.keep Reg.seasonEquivalent).keep Reg.seasonPoweredTime).keep Reg.seasonLifeUsed

/-- SEASON_MINUTE: the equivalent time of a powered minute joins the account (R533). -/
def seasonMinute (d : Dev) : Dev :=
  d.onPeriod 163 (secCycles 60) fun d =>
  let n := d.season.minuteSamples
  let base : Int := d.nat Reg.vcoreBase
  let ms := if n = 0 then equivalentMs (d.int Reg.sensorValue 2) (d.vcoreNow - base) 1
    else equivalentMs d.season.minuteTemp (d.season.minuteVolt - n * base) n
  let eq := d.nat Reg.seasonEquivalent + ms
  let day := d.seconds / 86400
  let newDay := d.season.days.isEmpty || d.season.dayNumber ≠ day
  let d := (d.setNat Reg.seasonEquivalent eq).setNat Reg.seasonPoweredTime (d.nat Reg.seasonPoweredTime + 60)
  let d := (d.setNat Reg.seasonLifeUsed (eq * 100000 / ratedLifeMs)).setSeason fun s => { s with
    minuteTemp := 0, minuteVolt := 0, minuteSamples := 0, dayNumber := day
    dayCount := s.dayCount + b2n newDay
    days := if newDay then (ms :: s.days).take 90 else (s.days.headD 0 + ms) :: s.days.drop 1 }
  let d := (d.keepAccount).setNat Reg.seasonRemainingDays d.remainingDays
  ((d.lifeThresholds).seasonRecord newDay).applyPendingVolt

/-! ### Self-tests (R539, R540) -/

/-- A checker that failed to flag its pattern (R539). -/
def checkerFailed (fn checker : Nat) (d : Dev) : Dev :=
  let d := (d.bump Reg.checkerFailures).notice 0xB002 (fn % 65536 * 65536 + checker % 65536)
  d.enterFault 6 checker

/-- CHECKER_TEST: one periodic pass over all checkers; the operand is the first that failed, with its function (R539). -/
def checkerTest (failed : Option (Nat × Nat)) (d : Dev) : Dev :=
  d.onPeriod 164 (msCycles (d.nat Reg.checkerTestPeriod)) fun d =>
  let d := d.bump Reg.checkerTests
  match failed with
  | some x => d.checkerFailed x.1 x.2
  | none => d

/-- SelfTestCmd starts a test: 1 monitors, 2 checkers, 3 crypto, 4 all (R540). -/
def selfTest (kind : Nat) (d : Dev) : Status × Dev :=
  if !(d.power.state = .quiet || d.power.state = .ready) ∨ d.season.test.isSome then (Status.state, d)
  else (Status.ok, (d.setSeason fun s => { s with test := some (kind, d.clock) }).setNat Reg.selfTestState 1)

/-- SELF_TEST_COMPLETE: the requested test ends; the operand is the first failing test and item, a checker's with its function above it
(R539, R540). -/
def selfTestComplete (failed : Option (Nat × Nat)) (d : Dev) : Dev :=
  match d.season.test with
  | none => d
  | some t =>
    let d := d.setSeason fun s => { s with test := none }
    let d := if t.1 = 2 ∨ t.1 = 4 then d.bump Reg.checkerTests else d
    let fail := match failed with
      | some f => some (if t.1 = 4 then max 1 (min 3 f.1) else t.1, f.2 % 65536)
      | none => none
    let item := match failed with | some f => f.2 / 65536 % 65536 | none => 0
    match fail with
    | none =>
      let res := (if t.1 = 4 then 3 else t.1) * 2 ^ 24
      ((d.setNat Reg.selfTestState 2).setNat Reg.selfTestResult res).notice 0xB001 res
    | some f =>
      let res := f.1 * 2 ^ 24 + f.2
      let d := ((d.setNat Reg.selfTestState 3).setNat Reg.selfTestResult res).notice 0xB001 res
      if f.1 = 2 then d.checkerFailed item f.2 else d.enterFault 7 f.2

/-! ### Perturbation (R541 to R544) -/

/-- The perturbations in force changed. -/
def setPerturb (f : Perturb → Perturb) (d : Dev) : Dev := { d with perturb := f d.perturb }

/-- A slot's record as numbers. -/
def slotOf (d : Dev) (k : Nat) : SlotRec := slotRec (d.bytes Reg.perturbSlot k)

/-- Whether a slot is armed. -/
def slotArmed (d : Dev) (k : Nat) : Bool := (d.nat Reg.perturbArmed).testBit k

/-- A slot leaves the armed state with a reason of PerturbSlotState (R543). -/
def disarm (k reason : Nat) (d : Dev) : Dev :=
  if !d.slotArmed k then d
  else
    ((d.setNat Reg.perturbArmed (setBit (d.nat Reg.perturbArmed) k false)).setNat Reg.perturbSlotState reason k).setPerturb fun p =>
      { p with armed := p.armed.filter fun a => a.slot ≠ k }

/-- Every armed slot disarmed with one reason. -/
def disarmEvery (reason : Nat) (d : Dev) : Dev := (List.range 8).foldl (fun d k => d.disarm k reason) d

/-- Whether the perturbation entries answer STATE here (R524, R542). -/
def perturbClosed (d : Dev) : Bool := d.inForce Reg.certifiedMode = 1 || d.power.state = .boot || d.power.state = .fault

/-- PERTURB_ARM "arm k s" (R542, R543). -/
def perturbArm (k : Nat) (serial : Octets) (d : Dev) : Status × Dev :=
  if d.perturbClosed then (Status.state, d)
  else if d.power.state = .onShow ∧ d.gateOpen ∧ d.transmits then (Status.state, d)
  else if 8 ≤ k then (Status.range, d)
  else if !d.ownSerial serial then (Status.ok, d)
  else
    let want := (d.slotOf k).start + 31
    let next := if d.blockDate < want / 32 * 32 then want / 32 * 32 else d.blockDate + 32
    (Status.ok, ((d.setNat Reg.perturbArmed (setBit (d.nat Reg.perturbArmed) k true)).setNat Reg.perturbSlotState 2 k).setPerturb fun p =>
      { p with armed := { slot := k, armedAt := d.clock, next, done := 0 } :: p.armed.filter fun a => a.slot ≠ k })

/-- PERTURB_DISARM "disarm k" (R542, R543). -/
def perturbDisarm (k : Nat) (d : Dev) : Status × Dev :=
  if d.perturbClosed then (Status.state, d) else if 8 ≤ k then (Status.range, d) else (Status.ok, d.disarm k 4)

/-- PERTURB_DISARM_ALL "disarm all" (R542, R543). -/
def perturbDisarmAll (d : Dev) : Status × Dev :=
  if d.perturbClosed then (Status.state, d) else (Status.ok, d.disarmEvery 4)

/-- Nanoseconds in FabricClk cycles. -/
def perturbCycles (ns : Nat) : Nat := ns * 786432 / 1000000

/-- A time hold extended by a duration (R544: times add). -/
def holdFor (d : Dev) (m : NMap Nat) (k ns : Nat) : NMap Nat := nput m k (max d.clock (nget 0 m k) + perturbCycles ns)

/-- How many targets a kind has; an application to one that the module lacks changes nothing (DESIGN CHOICE, log entry 66). -/
def perturbTargets (kind : Nat) : Nat :=
  match kind with
  | 0x01 => 16 | 0x03 => 4 | 0x10 => 9 | 0x22 => 5 | 0x30 => 2560 | 0x33 => 4 | 0x34 => 13
  | _ => 65536

/-- What one application of a record does (Table 19-4). -/
def perturbEffect (r : SlotRec) (d : Dev) : Dev :=
  let add (m : NMap Nat) (k : Nat) : NMap Nat := nput m k (nget 0 m k + r.param)
  let place := r.target * 8192 + bits r.param 12 0
  if perturbTargets r.kind ≤ r.target then d
  else match r.kind with
  | 0x01 => d.setPerturb fun p => { p with geometry := add p.geometry r.target }
  | 0x02 => d.setPerturb fun p => { p with render := add p.render (d.blockDate / 32 * 65536 + r.target) }
  | 0x03 => d.setPerturb fun p => { p with lift := add p.lift r.target }
  | 0x10 => d.setPerturb fun p => { p with dramHold := d.holdFor p.dramHold r.target r.param }
  | 0x11 => d.setPerturb fun p => { p with rings := add p.rings r.target }
  | 0x12 => d.setPerturb fun p => { p with credits := d.holdFor p.credits r.target r.param }
  | 0x20 => d.setPerturb fun p => { p with rxDelay := add p.rxDelay r.target }
  | 0x21 => d.setPerturb fun p => { p with dradaDelay := add p.dradaDelay r.target }
  | 0x22 => d.setPerturb fun p => { p with stamps := nput p.stamps r.target (nget 0 p.stamps r.target + wrapS 32 r.param) }
  | 0x30 => d.setSram fun s => { s with flips := nset 0 s.flips place (nget 0 s.flips place ^^^ flipMask r.param) }
  | 0x31 => d.setPerturb fun p => { p with residues := (r.target, r.param) :: p.residues }
  | 0x32 => d.setPerturb fun p => { p with poison := nput p.poison r.param 1 }
  | 0x33 => d.setPerturb fun p => { p with corrupt := nput p.corrupt r.target (nget 0 p.corrupt r.target ^^^ r.param) }
  | 0x34 => d.setPerturb fun p => { p with sensors := nput p.sensors r.target (wrapS 32 r.param, 8) }
  | 0x35 => d.setPerturb fun p => { p with clockTrip := true }
  | 0x36 => d.setPerturb fun p => { p with silence := p.silence + r.param }
  | 0x37 => d.lockstep 0 0
  | _ => d

/-- PERTURB_APPLY: an armed slot applies at its boundary (R543). -/
def perturbApply (k : Nat) (d : Dev) : Dev :=
  match d.perturb.armed.find? fun a => a.slot == k with
  | none => d
  | some a =>
    if d.blockDate < a.next then d
    else
      let r := d.slotOf k
      let d := (d.bump Reg.perturbApplied).notice 0xB101 (k * 65536 + r.kind)
      let d := d.setPerturb fun p => { p with armed := p.armed.map fun (x : Armed) =>
        if x.slot = k then { x with next := max (a.next + 32 * max 1 r.period) (d.blockDate + 32), done := x.done + 1 } else x }
      let d := if r.count ≠ 0 ∧ r.count ≤ a.done + 1 then d.disarm k 3 else d
      d.perturbEffect r

/-- PERTURB_TIMEOUT: a slot disarms PerturbTimeout after its arming (R543). -/
def perturbTimeout (k : Nat) (d : Dev) : Dev :=
  match d.perturb.armed.find? fun a => a.slot == k with
  | none => d
  | some a => d.onDue (a.armedAt + msCycles (d.nat Reg.perturbTimeout)) fun d => d.disarm k 5

/-- What perturbations changed for the block that ends is as before (Table 19-4). -/
def perturbBlockEnd (d : Dev) : Dev :=
  d.setPerturb fun p => { p with rings := [], rxDelay := [], dradaDelay := [], stamps := [] }

end Dev

end Sys2Proof.Machine
end

