-- ==== Sys2Proof/Machine/PowerCmds.lean ====
section
/-! DEFINITION. What acts on the power state: supply, rails, reset, BOOT, PowerStateCmd, ShowRequest; the carrier's I2C
bus (chapters 20 and 21). -/

namespace Sys2Proof.Machine

namespace Dev

/-- The power stage's own record changed. -/
def setStage (f : Power → Power) (d : Dev) : Dev := { d with power := f d.power }

/-! ### Supply (R547 to R549, R551) -/

/-- VIN_UVLO_START: VIN rises through the UVLO start (R551); after an overvoltage trip the start waits for its restart (R549). -/
def vinStart (d : Dev) : Dev :=
  if d.power.vin then d
  else
    let d := d.setStage fun p => { p with vin := true }
    if d.power.state = .off ∧ !d.power.overVoltage then d.startUp 0x01 else d

/-- VIN_UVLO_TRIP: the power-down sequence; the record is written where VIN holds up for 100 µs (R548). -/
def vinTrip (held : Bool) (d : Dev) : Dev :=
  if !d.power.vin then d
  else
    let d := (d.bump Reg.vinTrips).setStage fun p => { p with vin := false, latchedOff := false }
    match d.power.state with
    | .off => d
    | .offseason => d.setStage fun p => { p with state := .off }
    | _ => d.powerDown 0x01 held

/-- VIN_OVP_TRIP: the power stage stops; the energy on the rails carries the power-down sequence (R549). -/
def vinOver (d : Dev) : Dev :=
  if d.power.overVoltage then d
  else
    let d := (d.bump Reg.vinTrips).setStage fun p => { p with vin := true, overVoltage := true }
    if d.power.state = .off ∨ d.power.state = .offseason then d else d.powerDown 0x0B true

/-- OVP_RESTART: VIN below the restart threshold for 100 ms (R549). -/
def ovpRestart (d : Dev) : Dev :=
  if !d.power.overVoltage then d
  else
    let d := (d.advance (msCycles 100)).setStage fun p => { p with overVoltage := false }
    if d.power.state = .off ∧ d.power.vin then d.startUp 0x0B else d

/-- WAKE_EDGE: a rising edge wakes a module from OFFSEASON, or ends a latched OFF (R554, R560). -/
def wakeEdge (d : Dev) : Dev :=
  let d := d.setStage fun p => { p with wake := true }
  if d.power.state = .offseason ∨ (d.power.state = .off ∧ d.power.latchedOff ∧ d.power.vin ∧ !d.power.overVoltage) then d.startUp 0x02 else d

/-! ### Rails (R559 to R561, R565) -/

/-- RAILS_IN_REGULATION: PGOOD is released, VAUX_3V3 turns on; reset is released 2 ms later (R561, R565). After a trip the rail is back
within its limits, and no restart follows (R559). -/
def railsIn (d : Dev) : Dev :=
  if d.power.state = .boot ∧ d.power.held ∧ !d.power.rails then
    ((d.setStage fun p => { p with rails := true, pgood := true, vaux := true, tripAt := d.clock }).emit (.pad "PGOOD" true)).emit (.pad "VAUX_3V3" true)
  else if d.live ∧ d.power.tripped then (d.setStage fun p => { p with rails := true, pgood := true, tripped := false }).emit (.pad "PGOOD" true)
  else d

/-- RAIL_TRIP: a fast comparator trips: 1 VCORE, 2 VDRAM, 3 VIO, 4 overcurrent (R559); a die held in reset stays so until the rails are in
regulation again (R552). -/
def railTrip (rail : Nat) (d : Dev) : Dev :=
  if d.power.state = .boot ∧ d.power.held ∧ d.power.rails then
    (((d.bump Reg.railTrips).notice 0x2004 rail).setStage fun p => { p with rails := false, pgood := false }).emit (.pad "PGOOD" false)
  else if !d.live then d
  else
    let d := ((d.dropPending).bump Reg.railTrips).notice 0x2004 rail
    let d := (d.setStage fun p => { p with rails := false, pgood := false, tripAt := d.clock, tripped := true }).emit (.pad "PGOOD" false)
    d.enterFault 2 rail

/-- RAIL_RESTART: the rail is not back 1 ms after the trip: every rail starts anew, or past the limit the module is latched
in OFF (R559, R560). -/
def railRestart (d : Dev) : Dev :=
  if !d.live ∨ d.power.rails then d
  else
    d.onDue (d.power.tripAt + msCycles 1) fun d =>
    if d.restartAllowed then
      let d := ((d.countRestart).fullReset 0x0A).emit (.pad "VAUX_3V3" false)
      d.setStage fun p => { p with rails := false, pgood := false, vaux := false }
    else
      let d := (d.notice 0x2005 (d.nat Reg.faultRestarts)).powerDown 0x0A true
      d.setStage fun p => { p with latchedOff := true }

/-- FAULT_RESTART_TIMER: FaultRestartDelay after FAULT entry, within the limit (R560). `latchedOff` marks a module that the
limit holds in FAULT. -/
def faultRestart (d : Dev) : Dev :=
  if d.power.state ≠ .fault ∨ d.power.latchedOff ∨ !d.flag Reg.faultAutoReset then d
  else
    d.onDue (d.power.faultAt + msCycles (d.nat Reg.faultRestartDelay)) fun d =>
    if d.restartAllowed then (d.countRestart).fullReset 0x09
    else (d.notice 0x2005 (d.nat Reg.faultRestarts)).setStage fun p => { p with latchedOff := true }

/-! ### Reset and BOOT (R561 to R566) -/

/-- NRESET: low for 10 µs: a full reset, and reset as long as it stays low (R561). -/
def nresetLow (d : Dev) : Dev :=
  if d.power.state = .off ∨ d.power.state = .offseason then d.setStage fun p => { p with nreset := false }
  else if d.power.held then d.setStage fun p => { p with nreset := false, cause := if p.rails then 0x03 else p.cause }
  else if d.power.tripped then (d.logOvertaken 0x03).setStage fun p => { p with nreset := false }
  else ((d.dropPending).fullReset 0x03).setStage fun p => { p with nreset := false }

/-- NRESET_RELEASE: nRESET is high again; the 2 ms hold follows (R561, R563). -/
def nresetHigh (d : Dev) : Dev :=
  if d.power.nreset then d else d.setStage fun p => { p with nreset := true, tripAt := d.clock }

/-- Whether the stored values fail the shape check of R25. -/
def shapeFails (d : Dev) : Bool :=
  let p := d.parts
  let l := [d.inForce Reg.partitionOutputs0, d.inForce Reg.partitionOutputs1, d.inForce Reg.partitionOutputs2, d.inForce Reg.partitionOutputs3]
  (l.take p).any (· == 0) || (l.take p).foldl (· + ·) 0 ≠ d.outs || (l.drop p).any (· ≠ 0)

/-- The REBOOT entries of the store come into force (R39), and the straps as sampled (R561). -/
def adoptStore (b : BootFacts) (d : Dev) : Dev :=
  let d := { d with force := d.store.filter fun (p : Nat × Val) => rebootRows.any fun r => r.hasKey p.1 }
  let d := d.setStage fun p => { p with bootSel := b.bootSel, rolePref := b.rolePref, pairPresent := b.pairPresent, held := false, bootAt := d.clock, latchedOff := false }
  let d := { d with sup := { d.sup with sliceMask := d.inForce Reg.fabricSliceMask } }
  let d := d.setNat Reg.pairState (if b.pairPresent then 0 else 1)
  d.setStage fun p => { p with shapeBad := d.shapeFails }

/-- Records of the flash correction store that read with a wrong check (R224). -/
def spoilFlash (l : List (Nat × Nat)) (d : Dev) : Dev :=
  let spoil (r : FlashRec) : FlashRec :=
    if l.contains (r.output, r.sub) then { r with crc := flashCrc r.output r.sub r.seq r.value ^^^ 1 } else r
  { d with corr := { d.corr with flash := d.corr.flash.map spoil } }

/-- A record of the MRAM fails its check and is not used: a record with a good second copy is restored from it; an entry of the store is
lost and takes its default; a key slot reads as empty; a log record reads back with Flags [1]; without its header the log is lost; the
season account and a bank's field repairs begin anew (R494, R496, R530, R589). Blown fuses are no record of the MRAM (R518). -/
def loseRecord (d : Dev) (m : MramBad) : Dev :=
  match m with
  | .entry key both =>
    if both && key ≠ Reg.firmwareKeyRevoked.key then { d with store := nerase d.store key, regs := nerase d.regs key } else d
  | .key key both =>
    if both then d.setSec fun x => { x with keys := nerase x.keys key, keysLost := if x.keysLost.contains key then x.keysLost else x.keysLost ++ [key] } else d
  | .log seq =>
    let gone : LogRec := { kind := 0, sub := 0, code := 0, date := 0, arg := 0, index := 0, unit := 0, seconds := 0, flags := 2, ext := [] }
    if (nget? d.log.ring seq).isSome then { d with log := { d.log with ring := nput d.log.ring seq gone } } else d
  | .logHeader => { d with log := { d.log with ring := [], newest := 0, clearedTo := 0 } }
  | .account => d.freshAccount
  | .repairs bank => { d with sram := { d.sram with repair := nerase d.sram.repair bank } }

/-- A key slot whose copies both fail is told of at every start (R530). -/
def tellLostKeys (d : Dev) : Dev := d.sec.keysLost.foldl (fun (d : Dev) k => d.notice 0x2303 (k / 256 * 65536 + k % 256 * 256 + 2)) d

/-- During BOOT every SFP transmitter is soft-disabled and the management PHY is held in power-down (R292). -/
def holdPorts (d : Dev) : Dev := ((List.range 4).foldl (fun (d : Dev) p => d.emit (.txDisable p true)) d).phyPower false

/-- RESET_RELEASE: reset is released 2 ms after PGOOD or after the hold began; straps, then the steps of BOOT that can find
a fault (R420, R403, R516, R517, R561, R565). -/
def resetRelease (b : BootFacts) (d : Dev) : Dev :=
  if !(d.power.state = .boot && d.power.held && d.power.rails && d.power.nreset) then d
  else
    let t := max d.clock (d.power.tripAt + msCycles 2)
    let d : Dev := b.mramBad.foldl loseRecord { d with clock := t, frcBase := t }
    let d := ((d.adoptStore b).bump Reg.resetCount).holdPorts
    let d := d.startupMarch b.failing b.arrayBad b.marchUs
    let d := (d.spoilFlash b.flashBad).bootRom b.bootSel
    let d := if b.katBad then d.enterFault 7 0 else d
    let d := b.trainBad.foldl (fun d c => if c < 4 then (d.notice 0xA009 (c * 65536 + 1)).enterFault 4 c else d) d
    (b.eyes.take 4).zipIdx.foldl (fun d e => d.storeEye (7 + e.2) e.1) d

/-- The stored programme verified and loaded, or the empty one (R199). -/
def bootMix (d : Dev) : Dev :=
  let img := d.bytes Reg.programmeImage
  if img.isEmpty then d
  else match verifyImage img d.fr d.outs with
  | some c => (d.setNat Reg.mixVerifyResult c).notice 0x6806 (c / 2 ^ 24)
  | none => ({ d with mix := { d.mix with cur := programmeOf img } }).describeProgramme

/-- The octets of the carrier's EEPROM as CarrierIdent reports them (R582). -/
def identOf (eeprom : Octets) : Octets :=
  ((eeprom.take 32).reverse.dropWhile fun b => b = octet 0 || b = octet 0xFF).reverse

/-- The functions start as the module leaves BOOT (R224, R252, R292, R319, R365, R426, R472, R490, R517, R532). -/
def startFunctions (eeprom : Octets) (d : Dev) : Dev :=
  let d := (d.loadCorrection).bootMix.refreshSound
  let d := (d.remapSet).romLock
  let d := { d with geo := { d.geo with fullOnStart := true }, season := { d.season with measureAt := d.clock + secCycles 10 } }
  let d := d.setVal Reg.carrierIdent (.bytes (identOf eeprom))
  let d := (List.range 4).foldl (fun d p => d.tdmRestart p) d
  let d := (List.range 5).foldl (fun d p => (d.bringUp p).ptpPort p) (d.phyPower true)
  let d := (d.postCapture).convStart 0
  let d := d.countDual
  ((d.dradaBoot).pairBoot).bootNotices.tellLostKeys.refreshCommissioning.refreshGaps

/-- BOOT_COMPLETE: the module enters QUIET, or FAULT where a step has found one (R565); `ms` is the time since the release
of reset. -/
def bootComplete (ms : Nat) (eeprom : Octets) (d : Dev) : Dev :=
  if !(d.power.state = .boot && !d.power.held && !d.sec.stopped) then d
  else
    let d := d.advance (d.power.bootAt + msCycles ms - d.clock)
    let d := d.emit (.uart true 0 0)
    let d := d.setNat Reg.bootTime (cyclesToMs (d.clock - d.power.bootAt))
    let d := (d.setPower (if d.power.bootFault then .fault else .quiet)).startFunctions eeprom
    let d := if d.power.bootFault then (d.setStage fun p => { p with faultAt := d.clock }).notice 0x2002 (d.nat Reg.faultCause) |>.logFault 0x2002 (d.nat Reg.faultCause) else d
    if d.power.shapeBad then d.notice (0x6000 + Config.recordField 25 % 256) (Config.recordField 26) else d

/-- RESET_CMD "reset" (R564). -/
def resetCmd (arg : Octets) (d : Dev) : Status × Dev :=
  if arg ≠ ascii "reset" then (Status.range, d)
  else if d.power.state = .onShow ∧ d.gateOpen ∧ d.transmits then (Status.state, d)
  else (Status.ok, d.setStage fun p => { p with resetDue := some 0x04 })

/-! ### PowerStateCmd and ShowRequest (R553 to R557) -/

/-- POWER_QUIET (R556). -/
def powerQuiet (d : Dev) : Status × Dev :=
  match d.power.state with
  | .quiet => (Status.ok, d.setFlag Reg.quietHold true)
  | .ready | .onShow =>
    let d := (d.setFlag Reg.quietHold true).setStage fun p => { p with stopDue := true }
    if d.isLead ∧ !d.lone then
      (Status.ok, if (d.nat Reg.partnerHealth).testBit 0 ∧ d.nat Reg.pairState = 2 then d.startHandover (d.mscNow + d.fr / 1000) 1 else d.releaseLead)
    else (Status.ok, d)
  | _ => (Status.state, d)

/-- DATA_PATH_STOP: at a block boundary the path stops, once a handover in progress has ended (R556, R558). -/
def dataPathStop (d : Dev) : Dev :=
  if d.power.stopDue ∧ d.pair.handover.isNone then (d.stopPath).applyPendingVolt else d

/-- POWER_READY: QuietHold clears (R556). -/
def powerReady (d : Dev) : Status × Dev :=
  match d.power.state with
  | .quiet => (Status.ok, d.setFlag Reg.quietHold false)
  | .ready | .onShow => (Status.ok, (d.setFlag Reg.quietHold false).setStage fun p => { p with stopDue := false })
  | _ => (Status.state, d)

/-- POWER_OFFSEASON: accepted in QUIET only; the entry follows the response (R553). -/
def powerOffseason (d : Dev) : Status × Dev :=
  if d.power.state = .quiet then (Status.ok, d.setStage fun p => { p with offDue := true }) else (Status.state, d)

/-- The off-season entry (R553). -/
def enterOffseason (d : Dev) : Dev :=
  let d := (((d.releaseLead).logFlush).keepAccount).bump Reg.offseasonEntries
  (((d.tellLeaving .offseason).resetRecord 0x0C).logFlush).railsOff .offseason

/-- What a command has called for and what follows its response: a full reset, or the off-season entry. -/
def afterResponse (d : Dev) : Dev :=
  match d.power.resetDue with
  | some c => (d.setStage fun p => { p with resetDue := none }).fullReset c
  | none => if d.power.offDue then (d.setStage fun p => { p with offDue := false }).enterOffseason else d

/-- SHOW_REQUEST_WRITE (R557). -/
def showRequest (v : Nat) (d : Dev) : Status × Dev :=
  if 1 < v then (Status.range, d) else (Status.ok, (d.setNat Reg.showRequest v).keep Reg.showRequest)

/-- SHOW is entered and left at a tick (R557). -/
def showTick (d : Dev) : Dev :=
  match d.power.state with
  | .ready => if d.flag Reg.showRequest then d.setPower .onShow else d
  | .onShow => if d.flag Reg.showRequest then d else
    let d := (d.setPower .ready).applyPendingVolt
    if d.alm.realignDue then d.setAlm fun a => { a with deferred := false } else d
  | _ => d

/-! ### Alignment (R328, R331, R566) -/

/-- The data path starts at its first boundary: every assignment from its start, the marks of R128 (R128, R252, R593). -/
def startPath (d : Dev) : Dev :=
  let b := d.msc
  let d := { d with geo := { d.geo with fullOnStart := true } }
  let d := (((d.tdmRealign).convStart b).remap b (fun _ => false) fun _ => false).startLanes.setPower .ready
  let d := d.recEnable true b
  if d.nat Reg.startupTime = 0 then d.setNat Reg.startupTime (cyclesToMs (d.clock - d.power.bootAt)) else d

/-- Whether the module may align and enter READY (R556). -/
def alignOpen (d : Dev) : Bool := d.power.state = .quiet && !d.flag Reg.quietHold && !d.power.shapeBad && !d.alm.aligned

/-- MSC_ALIGN: the selected root source is qualified (R328). -/
def mscAlign (d : Dev) : Dev := if d.alignOpen && d.mayAlign then (d.align).startPath else d

/-- ALIGN_TIMEOUT: AlignTimeout after the reset alignment takes place on whatever the root follows (R328). -/
def alignTimeout (d : Dev) : Dev :=
  if !d.alignOpen then d else d.onDue (d.power.bootAt + msCycles (d.nat Reg.alignTimeout)) fun d => (d.align).startPath

/-! ### The carrier's I2C bus (R580 to R582) -/

/-- A recovery of the bus by 9 clocks and STOP, counted (R581). -/
def i2cRecover (n : Nat) (d : Dev) : Dev := if n = 0 then d else d.bump Reg.i2cRecoveries 0 n

/-- I2C_STUCK: the bus stays stuck for 1 s (R581). -/
def i2cStuck (d : Dev) : Dev := d.notice 0x2104 0

/-- CARRIER_TEMP_READ: every 1 s; an absent sensor reads −32,768; a bus error leaves the value (R581, R582). -/
def carrierTemp (value : Option Int) (recoveries : Nat) (busError : Bool) (d : Dev) : Dev :=
  d.onPeriod 162 (secCycles 1) fun d =>
  let d := d.i2cRecover recoveries
  if busError then d else d.setInt Reg.carrierTemp (match value with | some v => satS 16 v | none => -32768)

end Dev

end Sys2Proof.Machine
end

