-- ==== Sys2Proof/Machine/Faults.lean ====
section
/-! DEFINITION. What the faults that the checks detect do, and where errors lie in on-chip memory (chapters 4 to 8, 10, 14). -/

namespace Sys2Proof.Machine

namespace Dev

/-- Whether a date is one that the running data path carries: at or after the boundary of its start (R328). -/
def carried (d : Dev) (k back : Nat) : Bool := decide (d.alm.startDate + back ≤ k)

/-- Whether the data path's stages run: in READY and SHOW, and in FAULT until the next boundary stops them (R558). -/
def pathRuns (d : Dev) : Bool := d.power.state.runs || (d.power.state == .fault && d.power.stopDue)

/-! ### What a detected fault does (R31, R134, R142, R163 to R165, R200, R225, R249, R320, R351, R364) -/

/-- A double-bit error at a place of on-chip memory, where the fault names one (R413). -/
def atPlace (place : Option Nat) (d : Dev) : Dev :=
  match place with
  | some p => d.sramUncorrected p
  | none => d

/-- A residue mismatch of a rink, or of the tree where engine is 255 (R163). DESIGN CHOICE (log entry 74): a mismatch of the tree
is counted in the RinkResidueErrors of the rink that comes with it, of rink 0 where none does. -/
def residueFault (k rink engine lane : Nat) (outs : List Nat) (d : Dev) : Dev :=
  let tree := decide (16 ≤ rink) || engine == 255
  let d := d.bump Reg.rinkResidueErrors (if rink < 16 then rink else 0)
  let d := d.notice 0x6301 ((if rink < 16 then rink else 0xFFFF) * 65536 + (if tree then 0xFF else engine % 256) * 256 + lane % 256)
  (d.zeroBlocks (blockInRender (k - d.lag)) (if tree then 0xFFFF else rink) outs).inDataFault (0x200 + (if tree then 0xFF else rink))

/-- A double-bit error in a rink's memory at a bank (R164). -/
def rinkMemory (k rink bank : Nat) (outs : List Nat) (d : Dev) : Dev :=
  let d := (d.bump Reg.rinkEccUncorrected rink).notice 0x6302 (rink * 65536 + bank % 65536)
  (d.zeroBlocks (blockInRender (k - d.lag)) rink outs).inDataFault (0x200 + rink)

/-- The previous targets of an object's crosspoints, with no ramp, and what its pipe had of it before it served it (R134). -/
def discardTargets (n : Nat) (s : Served) (d : Dev) : Dev :=
  let xp := d.rend.xp.map fun (p : Nat × Xp) =>
    if p.1 / 4096 = n then (p.1, { p.2 with gainTo := p.2.gainFrom, delayTo := p.2.delayFrom, step := false }) else p
  let d := { d with rend := { d.rend with xp, patches := if s.recs.isEmpty then d.rend.patches else nput d.rend.patches n s.recs } }
  let d := { d with geo := { d.geo with
    bulkUsed := nset 0 d.geo.bulkUsed n s.bulk
    jumps := match s.jump with | some j => nput d.geo.jumps n j | none => d.geo.jumps } }
  (d.setPending (nput d.geo.pending n s.mark)).setStatusBit n 3 true

/-- A fault of a geometry pipe in an object (R134). -/
def pipeFault (k n : Nat) (place : Option Nat) (d : Dev) : Dev :=
  let d := ((d.atPlace place).bump Reg.pipeFaults).notice 0x6103 (n % 16 * 65536 + n)
  let d := match d.geo.served.find? fun s => s.1 == n with
    | some s => d.discardTargets n s.2
    | none => d
  (d.zeroBlocks (blockInRender (k - d.lag)) (n % 16) (d.xpOutputs n)).inDataFault (0x100 + n % 16)

/-- The window line of an object that holds a date, rewritten as zeros: 8 dates of the ring or of an assembly bank (R164). -/
def clearLine (n date : Nat) (d : Dev) : Dev :=
  let inRing (p : Nat × Int) : Bool := p.1 / 8192 == n && p.1 % 8192 / 8 == date % d.windowW / 8
  let inBank (p : Nat × Int) : Bool := p.1 / 64 == n && p.1 % 64 / 8 == (date / 32 % 2 * 32 + date % 32) / 8
  { d with rend := { d.rend with ring := d.rend.ring.filter fun p => !(inRing p), assembly := d.rend.assembly.filter fun p => !(inBank p) } }

/-- A double-bit error in a window line, whose outputs are those whose crosspoint-blocks read it (R164). A date of the block in
progress or later stands in an assembly bank, which is no bank of the on-chip memory (R138, R409). -/
def windowFault (k n date word : Nat) (d : Dev) : Dev :=
  let b := blockInRender (k - d.lag)
  let outs := d.lineReaders b n (date / 8 * 8 : Nat)
  let place := d.windowPlace n date word
  let ring := decide (date < 32 * b)
  let d := (d.clearLine n date).atPlace (if ring then some place else none)
  d.rinkMemory k (n % 16) (if ring then place / 8192 else 0xFFFF) outs

/-- A bad crosspoint record set to zero; its object evaluated anew, or the record taken from its DRAM copy at once (R164). -/
def clearRecord (k n m : Nat) (d : Dev) : Dev :=
  let d := d.setXp n m xpZero
  let next := (k - d.lag + 30) / 32 * 32
  if d.nat Reg.objectLaw n ≠ 0 then d.markAt 0 next n (full := true)
  else match nget? d.rend.law0 (xpKey n m) with
    | none => d
    | some v =>
      if d.enabled n then d.setXp n m { xpZero with gainTo := v.1, delayTo := v.2, step := true, tag := d.blockTag } else d

/-- A double-bit error in a crosspoint record (R164). -/
def crosspointFault (k n m word : Nat) (d : Dev) : Dev :=
  let place := d.xpPlace n m word
  ((d.clearRecord k n m).sramUncorrected place).rinkMemory k (n % 16) (place / 8192) [m]

/-- A bulk line that has not arrived for the date that the window writer takes in tick `k`; each line is counted once (R142). -/
def bulkLateAt (k n : Nat) (d : Dev) : Dev :=
  let date := k - 2 - d.lag
  let b := d.natAt date Reg.objectBulkDelay n
  if b < 64 ∨ date < b ∨ !d.objectExists n then d
  else
    let line := (date - b) / 16 + 1
    if nget 0 d.rend.lateLines n = line then d.zeroLater (date / 32) (n % 16) (d.xpReached n)
    else ({ d with rend := { d.rend with lateLines := nput d.rend.lateLines n line } }).bulkUnderrun n (date / 32)

/-- A mix core fault: counters, repair and, for section A, the zeroed block of every output (R200). -/
def mixCoreFault (k core kind : Nat) (secB : Bool) (dataWord feedWord place : Option Nat) (d : Dev) : Dev :=
  let date := if secB then k - 66 - d.lag else k - 1
  let d := (d.atPlace place).mixFault core kind secB dataWord feedWord place date
  let d := if secB then d else d.zeroLater (date / 32) 0xFFFF (List.range d.outs)
  d.inDataFault (0x300 + core)

/-- What a flow's memory fault has in common (R320). -/
def flowFault (f dir : Nat) (d : Dev) : Dev :=
  (d.notice 0x3406 (f * 65536 + dir)).inDataFault 0x600

/-- The output that holds a spectrum and tap slot, or fades to it (R410). -/
def slotOwner (d : Dev) (s : Nat) : Option Nat :=
  match d.corr.fades.find? fun x => x.slot == s with
  | some x => some x.output
  | none => (List.range d.outs).find? fun m => d.firSlot m == s

/-- The function whose own counter takes an error of a place (Table 14-1): counter, its item, log code, log source. -/
def errorCounter (d : Dev) (place : Nat) : Option (Row × Nat × Nat × Nat) :=
  let b := place / 8192
  let core (c : Nat) : Option (Row × Nat × Nat × Nat) := some (Reg.coreEccCorrected, c, 0x6810, 0x300 + c)
  let output (m : Option Nat) : Option (Row × Nat × Nat × Nat) := m.map fun m => (Reg.correctionEccCorrected, 0, 0x7A00, 0x10000 + m)
  match bankGroup b with
  | 0 => some (Reg.rinkEccCorrected, b / 48, 0x6300, 0x200 + b / 48)
  | 1 => some (Reg.rinkEccCorrected, (b - 768) / 80, 0x6300, 0x200 + (b - 768) / 80)
  | 2 => core ((b - 2048) / 8)
  | 3 => core ((b - 2112) / 8)
  | 4 => core ((b - 2176) / 4)
  | 5 => core ((b - 2208) / 16)
  | 6 => output (d.slotOwner (((b - 2336) * 65536 + place % 8192 * 8) / 3072))
  | 7 => output (d.slotOwner (((b - 2480) * 65536 + place % 8192 * 8) / 192))
  | 8 => output (some (Config.bankItem place % max d.outs 1))
  | 9 => some (Reg.convEccCorrected, 0, 0x9400, 0x500)
  | _ => none

/-- A read found a single-bit error at a place: counted by the bank and by its function; the corrected word is written back, unless a
functional write comes first, and a written word is to be read again (R413, R415, Table 1-7). -/
def bankCorrected (place : Nat) (superseded : Bool) (d : Dev) : Dev :=
  let d := (d.sramCorrected (place / 8192)).setSram fun s => { s with flips := nerase s.flips place }
  let d := match d.errorCounter place with
    | some (r, i, code, source) => (d.bump r i).logCorrected source code i
    | none => d
  if superseded then d else d.setSram fun s => { s with recheck := nput s.recheck place 1 }

/-- SRAM_WRITEBACK: a single-bit error of a bank that is On was read, and its corrected word is written back (R413). -/
def sramWriteback (bank word : Nat) (superseded : Bool) (d : Dev) : Dev :=
  if 2560 ≤ bank ∨ 8192 ≤ word ∨ d.bankState bank ≠ 2 then d else d.bankCorrected (bank * 8192 + word) superseded

/-- Dates over which a spectrum of the levels in on-chip memory is lost: to the end of the output block after the one in progress, each
of the level's size (R208, R209, R225). -/
def lostUntil (place : Option Nat) (t : Nat) : Nat :=
  match place with
  | some p =>
    let o := ((p / 8192 - 2336) * 65536 + p % 8192 * 8) % 3072
    let size := if o < 1024 then 32 else 64
    if bankGroup (p / 8192) = 6 then (t / size + 2) * size / 32 - 1 else t / 32
  | none => t / 32

/-- One fault that the checks of tick `k` detect, beyond what the stages themselves have made of it. -/
def dataFault (k : Nat) (f : DataFault) (d : Dev) : Dev :=
  match f with
  | .pipe n place => d.pipeFault k n place
  | .residue rink engine lane outs => d.residueFault k rink engine lane outs
  | .rinkCorrected r => (d.bump Reg.rinkEccCorrected r).logCorrected (0x200 + r) 0x6300 r
  | .windowLine n date word => d.windowFault k n date word
  | .crosspoint n m word => d.crosspointFault k n m word
  | .outputBuffer rink outs => d.rinkMemory k (rink % 16) 0xFFFF outs
  | .bulkLate n => d.bulkLateAt k n
  | .delayLate m old =>
    let r := d.delayUnderrun m (k - 67 - d.lag) old
    if r.1 then r.2.inDataFault (0x10000 + m) else r.2
  | .mixCore c kind secB dw fw place => d.mixCoreFault k c kind secB dw fw place
  | .mixCorrected c => (d.bump Reg.coreEccCorrected c).logCorrected (0x300 + c) 0x6810 c
  | .correction m kind _ place => ((d.atPlace place).correctionFault m kind).inDataFault (0x10000 + m)
  | .correctionCorrected m => (d.bump Reg.correctionEccCorrected).logCorrected (0x10000 + m) 0x7A00 m
  | .poolCorrected c => (d.bump Reg.convEccCorrected).logCorrected 0x500 0x9400 c
  | .pool _ _ place => (d.atPlace place).inDataFault 0x500
  | .flowRx f _ => d.flowFault f 1
  | .flowTx f _ => d.flowFault f 2
  | .slotTable f tx => d.flowFault f (if tx then 2 else 1)
  | .txBuffer p none => d.txBufferFault p
  | .txBuffer _ (some _) => d
  | .recorderFull => d
  | .tdmPort p => (d.tdmFault p).inDataFault (0x700 + p)
  | .dradaBuffer k vc => d.bufferError k vc
  | .almanac which =>
    let r := d.almanacFault which
    if r.2 then r.1.wedged else r.1
  | .bankCorrected place => d.bankCorrected place false
  | .supervisorWord place => ((d.sramUncorrected place).busError ((place / 8192 - 2544) * 65536 + place % 8192 * 8) 0 4).wedged
  | .cache kind address => d.cacheError kind address
  | .access master address write => d.fabricAccess master address write
  | .halfWrite .. => d
  | .stops _ => d

/-- The block of slot dates that a fault in an output's delay read or limiter zeroes, or of ingress dates (R225). -/
def faultBlock (k : Nat) (afterGain : Bool) (d : Dev) : Nat := (if afterGain then k - 71 - d.lag else k - 66 - d.lag) / 32

/-- What a fault means for the stages of its own tick: an output's block that is zeroed, receive samples that are lost, a pool
channel that is cleared. -/
def faultBefore (k : Nat) (d : Dev) (f : DataFault) : Dev :=
  match f with
  | .flowRx n chs =>
    let count := d.lastRead (d.rxCfg k n) k
    d.setRx n fun (r : RxFlow) => { r with holes := chs.map (fun c => (count, c)) ++ r.holes }
  | .correction m _ after place =>
    d.correctionZero m (d.faultBlock k after) (if after then d.faultBlock k after else lostUntil place (k - 66 - d.lag)) after
  | .delayLate m old => if (d.delayUnderrun m (k - 67 - d.lag) old).1 then d.correctionZero m (d.faultBlock k true) 0 true else d
  | .slotTable n false => { d with flows := { d.flows with reload := nput d.flows.reload n 1 } }
  | .pool c kind _ => d.convFault c kind k
  | _ => d

/-! ### Errors that lie in on-chip memory (R412 to R415, R544, Table 14-1) -/

/-- The fault of the owning function that a double-bit error at a place is: none where the place holds nothing of the configuration in
force (R413). -/
def bankFault (d : Dev) (k place : Nat) : Option DataFault :=
  let b := place / 8192
  let w := place % 8192
  let used (first per : Nat) : Bool := (b - first) / per % 2 == d.sram.half || d.mix.prev.isSome
  match bankGroup b with
  | 0 =>
    let o := d.windowOwner b w
    if d.objectExists o.1 then some (.windowLine o.1 (d.lineDate (blockInRender (k - d.lag)) o.2).toNat (b % 48 % 3)) else none
  | 1 =>
    let o := d.xpOwner (b - 768) w
    if d.objectExists o.1 then some (.crosspoint o.1 o.2 (w % 2)) else none
  | 2 =>
    let c := (b - 2048) / 8
    let secB := match d.mix.cur.cores.getD c none with | some x => decide (x.entryB ≤ (b - 2048) % 4 * 8192 + w) | none => false
    if used 2048 4 then some (.mixCore c 2 secB none none (some place)) else none
  | 3 => if used 2112 4 then some (.mixCore ((b - 2112) / 8) 2 false none none (some place)) else none
  | 4 => if used 2176 2 then some (.mixCore ((b - 2176) / 4) 2 ((Config.bankItem place).testBit 0) none none (some place)) else none
  | 5 => if used 2208 8 then some (.mixCore ((b - 2208) / 16) 2 true none none (some place)) else none
  | 6 => (d.slotOwner (((b - 2336) * 65536 + w * 8) / 3072)).map fun m => .correction m 2 false (some place)
  | 7 => (d.slotOwner (((b - 2480) * 65536 + w * 8) / 192)).map fun m => .correction m 2 false (some place)
  | 8 => some (.correction (Config.bankItem place % max d.outs 1) 2 false (some place))
  | 9 => if (d.conv (((b - 2521) * 8192 + w) / 256)).mode = 0 then none else some (.pool (((b - 2521) * 8192 + w) / 256) 2 (some place))
  | 10 => some (.pipe (Config.bankItem place % 4096) (some place))
  | _ => some (.supervisorWord place)

/-- A double-bit error at a place, found outside a tick's own reads: its owner's fault, or the bank's count alone (R413). -/
def bankDouble (k place : Nat) (d : Dev) : Dev :=
  match d.bankFault k place with
  | some f => (d.faultBefore k f).dataFault k f
  | none => d.sramUncorrected place

/-- Whether tick `k` reads a word of a bank, by its group: the render its lines and records, a geometry pass its records, a mix core its
halves, the correction stage and the pool their words, the supervisor its own (R413). -/
def readInTick (d : Dev) (k place : Nat) : Bool :=
  let g := bankGroup (place / 8192)
  let third := decide (d.lag ≤ k) && (k - d.lag) % 32 == 2
  if g = 0 then
    match d.bankFault k place with
    | some (.windowLine n date _) => third && !(d.lineReaders (blockInRender (k - d.lag)) n (date / 8 * 8 : Nat)).isEmpty
    | _ => false
  else if g = 1 then third && d.carried k (34 + d.lag) && (d.bankFault k place).isSome
  else if g = 10 then third
  else if g = 11 then true
  else (d.bankFault k place).isSome

/-- The faults of tick `k` that lie in on-chip memory as flipped bits of words that the tick reads: found by the stages that read them at
its outset (`late` false), or by the render, the geometry pass and the supervisor (R544, Table 19-4). -/
def flipFaults (d : Dev) (k : Nat) (late : Bool) : List DataFault :=
  (d.sram.flips.filter fun p =>
    let g := bankGroup (p.1 / 8192)
    (g < 2 || 9 < g) == late && d.bankState (p.1 / 8192) == 2 && d.readInTick k p.1).filterMap fun p =>
      if 2 ≤ popCount 72 p.2 then d.bankFault k p.1 else if popCount 72 p.2 = 1 then some (.bankCorrected p.1) else none

/-- The scrubber reads a word whose bits a perturbation flipped: one bit is corrected, two are a double-bit error (R413, R414). -/
def scrubFlip (place flip : Nat) (d : Dev) : Dev :=
  if 2 ≤ popCount 72 flip then d.bankDouble d.mscNow place
  else if popCount 72 flip = 1 then d.bankCorrected place false
  else d.setSram fun s => { s with flips := nerase s.flips place }

/-- SRAM_SCRUB_PERIOD: a period of the scrubber ends; an unfinished pass counts as late and carries on (R414). -/
def sramScrubPeriod (complete : Bool) (d : Dev) : Dev :=
  d.onPeriod 150 (msCycles (d.nat Reg.sramScrubPeriod)) fun d =>
  if !complete then d.bump Reg.sramScrubLate
  else d.sram.flips.foldl (fun d p => if d.bankState (p.1 / 8192) = 2 then d.scrubFlip p.1 p.2 else d) (d.bump Reg.sramScrubPasses)

/-- The 192 bits of a window line of an object (Table 5-2). -/
def lineWord (d : Dev) (n date : Nat) : Nat :=
  (List.range 8).foldl (fun a p => a + wrapU 24 (nget 0 d.rend.ring (n * 8192 + (date / 8 * 8 + p) % d.windowW)) * 2 ^ (24 * p)) 0

/-- The 128 bits of a crosspoint record (Table 5-3). -/
def xpWord (x : Xp) : Nat :=
  wrapU 24 x.gainFrom + wrapU 24 x.gainTo * 2 ^ 24 + wrapU 32 x.delayFrom * 2 ^ 48 + wrapU 32 x.delayTo * 2 ^ 80 + b2n x.step * 2 ^ 112 +
    b2n x.clip * 2 ^ 113 + x.tag % 4096 * 2 ^ 116

/-- The crosspoint record that 128 bits spell (Table 5-3). -/
def xpSpelt (v : Nat) : Xp :=
  { gainFrom := wrapS 24 (bits v 23 0), gainTo := wrapS 24 (bits v 47 24), delayFrom := (bits v 79 48 : Int), delayTo := (bits v 111 80 : Int)
    step := v.testBit 112, clip := v.testBit 113, tag := bits v 127 116 }

/-- A word of 64 bits in a value of several. -/
def putWord (v i w : Nat) : Nat := v - bits v (64 * i + 63) (64 * i) * 2 ^ (64 * i) + w % 2 ^ 64 * 2 ^ (64 * i)

/-- The 64 data bits of a word of window memory or of the crosspoint store; other banks keep their contents with their function. -/
def sramWord (d : Dev) (k place : Nat) : Nat :=
  match d.bankFault k place with
  | some (.windowLine n date i) => bits (d.lineWord n date) (64 * i + 63) (64 * i)
  | some (.crosspoint n m i) => bits (xpWord (d.xpOf n m)) (64 * i + 63) (64 * i)
  | _ => 0

/-- A word of window memory or of the crosspoint store written. -/
def setSramWord (k place v : Nat) (d : Dev) : Dev :=
  match d.bankFault k place with
  | some (.windowLine n date i) =>
    let line := putWord (d.lineWord n date) i v
    let ring := (List.range 8).foldl (fun r p => nset 0 r (n * 8192 + (date / 8 * 8 + p) % d.windowW) (wrapS 24 (bits line (24 * p + 23) (24 * p)))) d.rend.ring
    { d with rend := { d.rend with ring } }
  | some (.crosspoint n m i) => d.setXp n m (xpSpelt (putWord (xpWord (d.xpOf n m)) i v))
  | _ => d

/-- What a read returns in the cycle of a write to the same word: the new data, with its new check bits; else what is stored (R412). -/
def portRead (stored : Nat) (write : Option Nat) : Nat := write.getD stored

/-- A write of 32 bits, over two cycles: the word is read, a single-bit error of the half that stays is corrected, a double-bit error there
leaves that half zero and is an uncorrectable error of the owner, and the whole word is written; a read in the second cycle returns it
(R412). -/
def halfWrite (k place : Nat) (high : Bool) (data errors : Nat) (d : Dev) : Dev :=
  if 2560 * 8192 ≤ place ∨ d.bankState (place / 8192) ≠ 2 then d
  else
    let stored := d.sramWord k place
    let half := if errors = 2 then 0 else if high then stored % 2 ^ 32 else stored / 2 ^ 32
    let word := if high then data % 2 ^ 32 * 2 ^ 32 + half else half * 2 ^ 32 + data % 2 ^ 32
    let d := if errors = 2 then d.bankDouble k place else if errors = 1 then d.bankCorrected place true else d
    d.setSramWord k place (portRead stored (some word))

/-- One fault of tick `k`, as the checks detect it. -/
def oneFault (k : Nat) (f : DataFault) (d : Dev) : Dev :=
  match f with
  | .halfWrite place high data errors => d.halfWrite k place high data errors
  | f => d.dataFault k f

end Dev

end Sys2Proof.Machine
end

