-- ==== Sys2Proof/Machine/Tick.lean ====
section
/-! DEFINITION. One sample tick of the data path and the block boundary (chapters 1, 4 to 8). -/

namespace Sys2Proof.Machine

/-- The cores whose section a check found bad in the tick (R200). -/
def badCores (l : List DataFault) (secB : Bool) : List Nat :=
  l.filterMap fun f => match f with
    | .mixCore c _ s _ _ _ => if s == secB then some c else none
    | _ => none

/-- The objects whose bulk delay line is late in the tick (R142). -/
def lateLines (l : List DataFault) : List Nat :=
  l.filterMap fun f => match f with
    | .bulkLate n => some n
    | _ => none

/-- The outputs of which a delay line is late in the tick, and whether it is an old tap's (R214). -/
def lateOutputs (l : List DataFault) : List (Nat × Bool) :=
  l.filterMap fun f => match f with
    | .delayLate m old => some (m, old)
    | _ => none

/-- The transmit channels that a bad word of a flow's buffer takes away, and all of a flow whose slot table is bad until it is
reloaded before the next packet (R320). -/
def lostChannels (l : List DataFault) : List (Nat × List Nat) :=
  l.filterMap fun f => match f with
    | .flowTx n chs => some (n, chs)
    | .slotTable n true => some (n, List.range 64)
    | _ => none

/-- The flow packets that a double-bit error of a port's buffers takes away in the tick: port and flow (R293). -/
def lostPackets (l : List DataFault) : List (Nat × Nat) :=
  l.filterMap fun f => match f with
    | .txBuffer p (some n) => some (p, n)
    | _ => none

/-- Whether the recorder's on-die buffer was full in the tick (R373). -/
def recFull (l : List DataFault) : Bool :=
  l.any fun f => match f with
    | .recorderFull => true
    | _ => false

/-- The place in a list of pairs taken as a map. -/
def putAll (l : List (Nat × Int)) (m : NMap Int) : NMap Int := l.foldl (fun m p => nset 0 m p.1 p.2) m

namespace Dev

/-! ### Ingress (R12, R17, R310) -/

/-- The value of a source of an ingress slot for ingress date `k`, by its code. -/
def sourceAt (d : Dev) (k c : Nat) : Int :=
  if c = 0 then 0
  else if c < 0x20000 then
    let f := (c - 1) / 64
    d.flowValue f ((c - 1) % 64) ((k : Int) - d.natAt k Reg.rxLinkOffset f)
  else if c < 0x30000 then d.convValue (c - 0x20000)
  else if c < 0x40000 then d.tdmWord ((c - 0x30000) / 32) ((c - 0x30000) % 32) ((k : Int) - 2)
  else d.micValue k

/-- The value of a source during a crossfade: a flow that is stale reads 0 (R310). -/
def fadeSource (d : Dev) (k c : Nat) : Int :=
  if 0 < c ∧ c < 0x20000 ∧ d.nat Reg.rxState ((c - 1) / 64) ≠ 2 then 0 else d.sourceAt k c

/-- The value of an ingress slot for ingress date `k`, its crossfade included (R310). -/
def slotAt (d : Dev) (k slot c : Nat) : Int :=
  match nget? d.flows.inFades slot with
  | some r =>
    if k < r.start then d.sourceAt k r.old.toNat
    else if k - r.start < r.len then
      crossMix (d.fadeSource k r.old.toNat) (d.fadeSource k r.new.toNat) (fadePos (k - r.start) r.len)
    else d.sourceAt k c
  | none => d.sourceAt k c

/-- The ingress plane of date `k`: INGRESS_HAND_OFF. A slot without a writer reads zero; one that has lost its writer
fades out. -/
def ingressPlane (d : Dev) (k : Nat) : NMap Int :=
  let slots := (d.flows.sources.map fun p => (p.1, p.2)) ++ (d.flows.inFades.filterMap fun p =>
    if (nget? d.flows.sources p.1).isSome then none else some (p.1, 0))
  slots.foldl (fun m p => nset 0 m p.1 (d.slotAt k p.1 p.2)) []

/-- Whether an enabled receive flow reads a missing sample for date `k` (the input-incomplete flag of Table 15-5). -/
def missesInput (d : Dev) (k : Nat) : Bool :=
  d.rxFlows.any fun f =>
    let r := d.rxFlow f
    (List.range (d.nat Reg.rxChannels f)).any fun ch => (flowSample? r ch ((k : Int) - d.natAt k Reg.rxLinkOffset f)).isNone

/-- Ingress of tick `k`: the pool's step, the plane, lost packets counted, the input-incomplete flag. -/
def ingressTick (k : Nat) (d : Dev) : Dev × NMap Int :=
  let d := d.convTick k
  let plane := d.ingressPlane k
  let d := d.rxFlows.foldl (fun d f => d.countLost f k) d
  let d := if !d.lone && d.missesInput k && !(d.pair.incomplete.contains (k / 32)) then
      d.setPair fun p => { p with incomplete := (k / 32 :: p.incomplete).take 16 }
    else d
  (d, plane)

/-! ### Section A, object feeds and windows (R12, R138, R172, R467 to R470) -/

/-- Section A of tick `k` for ingress date k − 1; the result is the module's own object plane of that date. A tick counts once in
MixSaturations, so `counted` says that section B has counted it already (R196). -/
def stageA (k : Nat) (bad : List Nat) (counted : Bool) (d : Dev) : Dev × NMap Int :=
  if !d.carried k 1 then (d, [])
  else
    let r := d.sectionTick false (k - 1) bad
    let d := if r.2.2 && !counted then r.1.bump Reg.mixSaturations else r.1
    (d, if d.belowHead then [] else dropZeros (windowStores 0x110000 0x4000 r.2.1))

/-- The object plane of a date as the window writer takes it D ticks later than a lone module would: its own plane, or
the feeds that came over Drada (R467, R468, R470). -/
def objectAt (d : Dev) (date : Nat) : NMap Int :=
  if d.belowHead then d.feedPlane date
  else if d.lag = 0 then d.planes.object
  else ((d.drada.align.find? fun x => x.1 == date).map (·.2)).getD []

/-- The window writer and the bulk rings of tick `k`, for date k − 2 − D. -/
def stageWindow (k : Nat) (late : List Nat) (d : Dev) : Dev :=
  if !d.carried k (2 + d.lag) then d
  else
    let date := k - 2 - d.lag
    let own := d.planes.object
    let obj := d.objectAt date
    let d := ({ d with planes := { d.planes with object := obj } }).windowWrite date late
    let d := if d.lone then d else d.setPair fun p => { p with planes := p.planes.map fun (x : Nat × NMap Int × NMap Int) =>
      if x.1 = date then (x.1, x.2.1, obj) else x }
    { d with planes := { d.planes with object := own } }

/-! ### Render and geometry (R20, R153, R163, R166, Table 19-4) -/

/-- The outputs of a rink's engine in block `b`. -/
def engineOutputs (d : Dev) (rink engine : Nat) : List Nat :=
  let p := rink % max d.parts 1
  ((List.range (d.partOuts p)).filter fun l => l % 4 = engine).map (d.partBase p + ·)

/-- The injected residue faults of the block that is rendered now, as natural ones (R163, R544). -/
def injectedResidues (k : Nat) (d : Dev) : Dev :=
  let due := d.perturb.residues.reverse
  let d := d.setPerturb fun p => { p with residues := [] }
  due.foldl (fun (d : Dev) r =>
    let rink := r.1 / 256 % 256
    let engine := r.1 % 256
    let busy := (d.rend.rendered.filter fun p => rink = 0xFF || decide (p.1 / 4096 % 16 = rink)).map fun p => p.1 % 4096
    let outs := (busy.foldl (fun (m : NMap Unit) o => nput m o ()) []).map (·.1)
    let outs := if rink = 0xFF then outs else outs.filter ((d.engineOutputs rink engine).contains ·)
    if d.live then d.residueFault k (if rink = 0xFF then 0xFF else rink) (if rink = 0xFF then 0xFF else engine) r.2 outs else d) d

/-- Outputs of an engine that are unfinished at the deadline when it starts late (R161, R166). -/
def unfinished (d : Dev) (rink engine stall : Nat) : List Nat :=
  let outs := d.engineOutputs rink engine
  let budget := if d.fast then 524224 else 1048512
  let slots := d.slotsPer (rink % max d.parts 1)
  let rendered (l : List Nat) : Nat := (d.rend.rendered.filter fun p => decide (p.1 / 4096 % 16 = rink) && l.contains (p.1 % 4096)).length
  (outs.zipIdx.filter fun o =>
    let upTo := outs.take (o.2 + 1)
    let a := rendered upTo
    decide (budget < stall + engineCycles a (slots * upTo.length - a) upTo.length)).map (·.1)

/-- RENDER_DEADLINE_MISS: the unfinished outputs of a late engine, or of the tree; the block is not completed yet (R166). -/
def deadlineMiss (k rink : Nat) (outs : List Nat) (wait : Bool) (d : Dev) : Dev :=
  let r := if rink < 16 then rink else 0
  let d := if wait then d.bump Reg.rinkWindowWaits r else d.bump Reg.rinkResidueErrors r
  let d := { d with rend := { d.rend with doneAt := d.rend.doneBefore } }
  (d.zeroBlocks (blockInRender (k - d.lag)) (if rink < 16 then rink else 0xFFFF) outs).inDataFault (0x200 + (if rink < 16 then rink else 0xFF))

/-- How many cycles the rendering of an engine's outputs takes in the block in progress (R161). -/
def engineLoad (d : Dev) (rink engine : Nat) : Nat :=
  let outs := d.engineOutputs rink engine
  let a := (d.rend.rendered.filter fun p => decide (p.1 / 4096 % 16 = rink) && outs.contains (p.1 % 4096)).length
  engineCycles a (d.slotsPer (rink % max d.parts 1) * outs.length - a) outs.length

/-- An engine that started late by `stall` cycles leaves outputs unfinished at the deadline, and what it runs over it starts the
next block late by (R166, Table 19-4, kind 0x02). -/
def stalledEngine (k b rink engine stall : Nat) (d : Dev) : Dev :=
  let outs := d.unfinished rink engine stall
  let block := 32 * d.tickCycles * 2
  let past := stall + d.engineLoad rink engine + 64 - block
  let d := if past = 0 then d
    else d.setPerturb fun p => { p with render := nput p.render ((b + 1) * 65536 + rink * 256 + engine) past }
  if outs.isEmpty || !d.live then d else d.deadlineMiss k rink outs false

/-- The progress watchdog's mark of a block: the outset of the first one, and the end of each that was completed (R166). -/
def markProgress (k : Nat) (d : Dev) : Dev :=
  if !d.carried k (34 + d.lag) then d
  else if k = d.alm.startDate + 34 + d.lag then { d with rend := { d.rend with doneAt := d.clock, doneBefore := d.clock } }
  else if (k - d.lag) % 32 = 1 then { d with rend := { d.rend with doneBefore := d.rend.doneAt, doneAt := d.clock } }
  else d

/-- The last completed step of a function that stops now: of the render core the end of its last completed block (R166), of another
function this moment; the functions of the data path have none to complete where it does not run (R32). -/
def stopsNow (function : Nat) (d : Dev) : Option Nat :=
  let render := decide (0x200 ≤ function ∧ function ≤ 0x2FF)
  let path := render || decide ((0x100 ≤ function ∧ function ≤ 0x3FF) ∨ function = 0x500 ∨ function = 0x600 ∨ function = 0x800)
  if path && !d.pathRuns then none
  else if render && d.carried d.msc (34 + d.lag) then some d.rend.doneAt
  else some d.clock

/-- The earlier of two moments, where there are two. -/
def earlier (a b : Option Nat) : Option Nat :=
  match a, b with
  | some x, some y => some (min x y)
  | some x, none => some x
  | none, y => y

/-- The functions that stop in a tick: the one that stopped first has its watchdog expire first (R32). -/
def noteStops (faults : List DataFault) (d : Dev) : Dev :=
  faults.foldl (fun (d : Dev) f =>
    match f with
    | .stops function => { d with power := { d.power with stoppedAt := earlier d.power.stoppedAt (d.stopsNow function) } }
    | _ => d) d

/-- The last completed step before the longest wait for one: of a function that has stopped, or of the render core while it runs
(R32, R166). -/
def lastStep (d : Dev) : Option Nat :=
  earlier d.power.stoppedAt (if d.pathRuns && d.carried d.msc (34 + d.lag) then some d.rend.doneAt else none)

/-- PROGRESS_WATCHDOG_EXPIRY: a function is wedged at the moment 1.5 ms have passed since the last step it completed, and never
earlier; where every function completes its steps, no watchdog expires (R32, R166). -/
def progressExpiry (d : Dev) : Dev :=
  match d.lastStep with
  | some t => d.onDue (t + usCycles 1500) fun d => d.wedged
  | none => d

/-- The render of block `b` at the start of its ticks, with what the pair traces of it (R138, R153, R438). -/
def renderTick (k : Nat) (d : Dev) : Dev :=
  let b := (k - 34 - d.lag) / 32
  let d := d.foldWindow b
  let d := if d.lone then d else
    let sigs := d.partialSigs b
    d.setPair fun p => { p with sigs := nput p.sigs (b * 4 + 2) sigs }
  let stalls := d.perturb.render.filter fun (s : Nat × Nat) => s.1 / 65536 == b
  let d := d.setPerturb fun p => { p with render := p.render.filter fun (s : Nat × Nat) => decide (b < s.1 / 65536) }
  let d := (d.renderBlock b).zeroDue b
  let d := stalls.foldl (fun (d : Dev) (s : Nat × Nat) => d.stalledEngine k b (s.1 / 256 % 16) (s.1 % 4) s.2) d
  d.injectedResidues k

/-- GEOMETRY_EVALUATION for the block that begins at k − 2 − D (R20, R130, R438). -/
def geometryTick (k : Nat) (d : Dev) : Dev :=
  let boundary := k - 2 - d.lag
  let extra := d.perturb.geometry
  let before := d.rend.xp
  let d := d.evaluateBlock boundary fun r => nget 0 extra r
  let d := d.setPerturb fun p => { p with geometry := [] }
  if d.lone then d
  else
    let sigs := d.targetSigs before
    d.setPair fun p => { p with sigs := nput p.sigs (boundary / 32 * 4) sigs }

/-- The block work of tick `k`: render of one block, then geometry of the next, at the third tick of a block. -/
def stageBlock (k : Nat) (d : Dev) : Dev :=
  if k < d.lag ∨ (k - d.lag) % 32 ≠ 2 then d
  else
    let d := if d.carried k (34 + d.lag) then d.renderTick k else d
    if d.live && d.alm.aligned && d.carried k (2 + d.lag) then d.geometryTick k else d

/-! ### Section B, correction, egress (R172, R176, R201, R216, R222) -/

/-- Section B, the correction chain and the limiter in tick `k`, for ingress date k − 66 − D; the result is the egress
plane that becomes readable in tick k + 1, and whether the tick counts in MixSaturations (R196). -/
def stageB (k : Nat) (bad : List Nat) (late : List (Nat × Bool)) (d : Dev) : Dev × NMap Int × Bool :=
  if !d.carried k (66 + d.lag) then (d, [], false)
  else
    let date := k - 66 - d.lag
    let r := d.sectionTick true date bad
    let d := r.1
    let bus := busSum d.planes.render (windowStores 0x140000 0x2800 r.2.1)
    let clamped := r.2.2 || bus.2
    let d := if clamped then d.bump Reg.mixSaturations else d
    let own := dropZeros (windowStores 0x150000 0x4000 r.2.1)
    let delayed := d.mix.egressDelay ++ [own]
    let d := { d with mix := { d.mix with egressDelay := delayed.drop 1 } }
    let c := d.correctionTick date bus.1 late
    (c.1, putAll (c.1.mapOutputs (date - 5) c.2) (delayed.headD []), clamped)

/-! ### The tick -/

/-- What the pair compares at the end of tick `k` (Table 15-5). -/
def traceTick (k : Nat) (d : Dev) : Dev :=
  if d.lone ∨ k < d.lag then d
  else
    let t := k - d.lag
    let d := if t % 32 = 1 ∧ d.carried k (33 + d.lag) then
        let b := (t - 33) / 32
        d.ownSigs b 1 (d.planeSigs b false ++ d.planeSigs b true ++ nget [] d.pair.sigs (b * 4))
      else d
    let d := if t % 32 = 1 ∧ d.carried k (65 + d.lag) then
        let b := (t - 65) / 32
        d.ownSigs b 2 (nget [] d.pair.sigs (b * 4 + 2))
      else d
    if t % 32 = 7 ∧ d.carried k (103 + d.lag) then
      let b := (t - 103) / 32
      d.ownSigs b 3 (d.lateSigs b)
    else d

/-- Packets that depart in tick `k`: sent by a lead while its gate is open, held by a standby that takes the lead at H,
withheld otherwise (R304, R432). -/
def departTick (k : Nat) (faults : List DataFault) (d : Dev) : Dev :=
  match d.pair.handover with
  | some h =>
    if d.isLead then d.flowsDepart k (d.gateOpen && decide (k < h)) (lostChannels faults) (lostPackets faults)
    else
      let d := d.flowsDepart k false (lostChannels faults) []
      if h ≤ k then d.setPair fun p => { p with heldPackets := p.heldPackets ++ [k] } else d
  | none => d.flowsDepart k (d.gateOpen && d.transmits) (lostChannels faults) (lostPackets faults)

/-- Motion records decoded for a boundary that has come (R98). -/
def motionTick (k : Nat) (d : Dev) : Dev := if k % 32 = 1 ∧ d.motionDue.1 ≤ k then d.applyMotion else d

/-- What comes first in tick `k`: what its faults take away, the motion records that are due, the render plane of its date. -/
def openTick (k : Nat) (faults : List DataFault) (d : Dev) : Dev :=
  let d := (faults.foldl (faultBefore k) (d.seedsDue k)).motionTick k
  let plane := if d.carried k (66 + d.lag) then dropZeros (d.renderPlane (k - 66 - d.lag)) else []
  { d with planes := { d.planes with render := plane } }

/-- Section A, the block work and the windows of tick `k`; the result is the object plane of date k − 1. -/
def frontTick (k : Nat) (faults : List DataFault) (counted : Bool) (d : Dev) : Dev × NMap Int :=
  let a := d.stageA k (badCores faults false) counted
  let d := if a.1.carried k 2 then a.1.sendFeeds (k - 2) a.1.planes.object else a.1
  let d := d.stageBlock k
  (if d.live && d.alm.aligned then d.stageWindow k (lateLines faults) else d, a.2)

/-- Whether the unit is muted: it catches up in UnitState 1 (R93, R99). -/
def catchingUp (d : Dev) : Bool := d.nat Reg.unitState d.unitId == 1

/-- The planes of tick `k` handed on: object plane of date k − 1, ingress plane of date k, egress plane of tick k + 1. -/
def handOn (k : Nat) (object ingress egress : NMap Int) (d : Dev) : Dev :=
  let d := if d.belowHead ∨ d.lag = 0 then d else d.setDrada fun g => { g with align := ((k - 1, object) :: g.align).take 128 }
  let egress := if d.catchingUp then [] else egress
  let d := d.keepEgress (k + 1) egress
  let d := if d.lone then d else d.setPair fun p => { p with planes := ((k, ingress, []) :: p.planes).take 160 }
  { d with planes := { d.planes with ingress, object, egress } }

/-- Every stage of the data path in tick `k` (Table 1-2), each on what the tick before left readable (R12); section B has the
first quarter of a tick, section A the rest (Table 6-1). -/
def pathTick (k : Nat) (input : TickIn) (d : Dev) : Dev :=
  let b := (d.openTick k input.faults).stageB k (badCores input.faults true) (lateOutputs input.faults)
  let a := b.1.frontTick k input.faults b.2.2
  let i := a.1.ingressTick k
  ((i.1.recTick k (recFull input.faults)).departTick k input.faults).handOn k a.2 i.2 b.2.1

/-- The faults that the checks of a tick detect, one after another while the module runs. -/
def faultsTick (k : Nat) (faults : List DataFault) (d : Dev) : Dev :=
  faults.foldl (fun (d : Dev) f => if d.live && d.alm.aligned then d.oneFault k f else d) d

/-- The tick ends: MSC counts on (R329). -/
def endTick (d : Dev) : Dev :=
  if d.live && d.alm.aligned then
    let d := d.advance (d.tickAt + d.tickCycles - d.clock)
    { d with msc := d.msc + 1, tickAt := d.clock }
  else d

/-- SAMPLE_TICK: the tick in progress completes (R13). Where the sample clock does not run, the codec alone goes on (R369). -/
def sampleTick (input : TickIn) (d : Dev) : Dev :=
  if !d.answers then d
  else if !d.alm.aligned then (d.noteStops input.faults).headsetTick d.mscNow input.mic input.side
  else
    let k := d.msc
    let d := ((d.noteStops input.faults).holdLead).showTick
    let input := if d.pathRuns then { input with faults := input.faults ++ d.flipFaults k false } else input
    let d := if d.pathRuns then d.pathTick k input else d
    let d := if d.live && d.alm.aligned then d.headsetTick k input.mic input.side else d
    let d := if d.pathRuns then (d.sendTickFrame k).ilkTick.traceTick k else d
    let d := if d.pathRuns && decide (d.lag ≤ k) && (k - d.lag) % 32 == 1 && d.carried k (33 + d.lag) then d.markLate else d
    let d := d.faultsTick k input.faults
    let d := if d.pathRuns then d.faultsTick k (d.flipFaults k true) else d
    let d := (if d.live then d.sendCounters else d).endTick
    if d.live && d.pathRuns then d.markProgress k else d

/-! ### The block boundary (R13, R59, R104, R220, R240, R323, R329, R434, R449, R450) -/

/-- Values that no sample still in the module was committed under are forgotten (R14). -/
def pruneDated (d : Dev) : Dev := { d with dated := d.dated.filter fun x => decide (d.msc < x.date + 4096) }

/-- The per-block word of a pair: its health (R450). -/
def pairBlock (d : Dev) : Dev := if d.lone then d else d.tellPartner 6 (toBE 4 d.healthWord)

/-- BLOCK_BOUNDARY: the per-block work of a boundary; `patrolBad` is what the patrol check found (R443). -/
def blockBoundary (patrolBad : Bool) (d : Dev) : Dev :=
  if !d.answers || !d.alm.aligned || d.msc % 32 ≠ 0 then d
  else
    let d := (d.rebase).measureError
    let d := (if d.power.state.runs then (d.convFineLoop).cutDone else d).endFades
    let d := ((d.perturbBlockEnd).liftRetry).pruneDated
    let d := if d.power.state.runs then d.patrol patrolBad else d
    if d.live then d.pairBlock else d

/-- CLOCK_MONITOR_INTERVAL: the difference of CoreClk from 32 × the TCXO over 1 ms, in ppm (R352, Table 19-4). -/
def clockMonitor (ppm : Int) (d : Dev) : Dev :=
  let trip := d.perturb.clockTrip
  let ppm := if trip then 200 else ppm
  let d := d.setPerturb fun p => { p with clockTrip := false }
  if ppm.natAbs ≤ 150 then d else (d.notice 0x380C 3).enterFault 3 3

end Dev

end Sys2Proof.Machine
end

