-- ==== Sys2Proof/Machine/Operands.lean ====
section
/-! DEFINITION. The forms in which a command reaches the module: as an event, as text with a status, as a cell of a link. -/

namespace Sys2Proof.Machine

/-- A command whose effect is on the module alone: the queue and the octets of DRAM stand. -/
def State.run (s : State) (f : Dev → Dev) : Host.Outcome State Fault Refusal := .next { s with dev := f s.dev }

namespace Dev

/-- A link's state has been acted on: receive flows start and join their groups, and PTP listens where the port has come UP, PTP stops where it
has gone DOWN (R319, R350). -/
def linkChanged (p : Nat) (was : Bool) (d : Dev) : Dev :=
  if d.portUp p = was then d else ((if d.portUp p then d.startRx p else d).igmpRefresh p).ptpPort p

/-- An act on a port's link, and what follows from it. -/
def onLink (p : Nat) (f : Dev → Dev) (d : Dev) : Dev := (f d).linkChanged p (d.portUp p)

/-- TICK cell: a tick frame of the lead arrives over DP (R434). -/
def tickCell (k : Nat) (wire : Octets) (f : TickFrame) (d : Dev) : Dev :=
  let r := d.receiveCell k wire
  match r.2 with
  | none => r.1
  | some cell => if beAt cell 0 1 = 2 ∧ k = 2 then r.1.tickFrame f else r.1

/-- What a TAP instruction shows: IDCODE, the BYPASS register as IEEE 1149.1 captures it, or a sample of the pads, whose
order of scan the spec does not give (R525). None for a debug or test instruction of an unlocked TAP. -/
def tapShift (op : JtagOp) (d : Dev) : Option Dev :=
  match op with
  | .idcode => some { d with fwRead := 0x182404A9 }
  | .bypass => some { d with fwRead := 0 }
  | .sample => let r := d.freeNat; some { r.2 with fwRead := r.1 }
  | .other => if d.nat Reg.jtagState = 0 then some { d with fwRead := 0 } else none

end Dev

end Sys2Proof.Machine
end

