-- ==== Sys2Proof/Machine/Units.lean ====
section
/-! DEFINITION. What a unit number and an index address at this module: the unit tree seen from one dictionary (R28, R36, R44). -/

namespace Sys2Proof.Machine

/-- What a unit number addresses: this module whole, one of its partitions, the group view at the head, another unit. -/
inductive Place where
  | whole
  | part (p : Nat)
  | group
  | away (u : Nat)
  | absent
  deriving DecidableEq, Repr

/-- An entry found: its row, the element in this module's own numbering and the sub-index offset; the index as addressed. -/
structure Found where
  row : Row
  i : Nat
  j : Nat
  index : Nat
  sub : Nat
  /-- The unit that holds the element, where another one does, with the index there. -/
  away : Option (Nat × Nat)
  deriving DecidableEq, Repr

/-- The key of a found entry's own element. -/
def Found.key (f : Found) : Nat := f.row.key f.i f.j

namespace Dev

/-- The unit number of this module as a module: the head of a formed group is unit 1, unit 0 being the group view. -/
def ownUnit (d : Dev) : Nat := if d.drada.formed && d.unitId = 0 then 1 else d.unitId

/-- What a unit number addresses (R28, R44). Below the head any unit but the module's own and its partitions lies elsewhere. -/
def placeOf (d : Dev) (u : Nat) : Place :=
  let own := d.ownUnit
  if u = own then .whole
  else if u = 0 ∧ d.unitId = 0 then .group
  else if 1 < d.parts ∧ own < u ∧ u ≤ own + d.parts then .part (u - own - 1)
  else if d.unitId ≠ 0 then .away u
  else if u < 1024 ∧ d.drada.formed ∧ d.nat Reg.unitState u ≠ 0 then .away u
  else .absent

/-- The units of the tree, in ascending number, the group view aside. -/
def treeUnits (d : Dev) : List Nat := (List.range 1024).filter fun u => decide (0 < u) && (d.nat Reg.unitKindOf u ≠ 0 || d.nat Reg.unitParent u ≠ 0xFFFF || d.nat Reg.unitState u ≠ 0)

/-- The descendants of an addressed unit within the dictionary it names: every unit of the group for the group view, the
partitions of a module that has more than one. -/
def descendants (d : Dev) : Place → List Nat
  | .group => d.treeUnits
  | .whole => if d.parts ≤ 1 then [] else (List.range d.parts).map fun p => d.ownUnit + 1 + p
  | _ => []

/-- The units that a result bitmap covers (R90): the descendants, or the target alone if it has none. -/
def covered (d : Dev) (u : Nat) : List Nat :=
  let l := d.descendants (d.placeOf u)
  if l.isEmpty then [u] else l

/-- The module that holds a unit: the parent of a partition, else the unit itself. -/
def moduleOf (d : Dev) (u : Nat) : Nat := if d.nat Reg.unitKindOf u = 1 then d.nat Reg.unitParent u else u

/-- The capacity of a place in objects (R4, R135). -/
def objectsAt (d : Dev) : Place → Nat
  | .part p => d.capacityOf p
  | _ => 16 * ((List.range (max d.parts 1)).map d.slotsPer).foldl max 0

/-- The outputs of a place. -/
def outputsAt (d : Dev) : Place → Nat
  | .part p => d.partOuts p
  | .group => d.outs + ((d.treeUnits.filter fun u => d.moduleOf u = u && u ≠ d.ownUnit).map (d.nat Reg.unitOutputCount ·)).foldl (· + ·) 0
  | _ => d.outs

/-- The module other than this one that holds a group output, with the output's number there. -/
def outputOwner (d : Dev) (m : Nat) : Option (Nat × Nat) :=
  (d.treeUnits.find? fun u => d.moduleOf u = u && u ≠ d.ownUnit &&
    d.nat Reg.unitOutputBase u ≤ m && m < d.nat Reg.unitOutputBase u + d.nat Reg.unitOutputCount u).map fun u => (u, m - d.nat Reg.unitOutputBase u)

/-- Element `i` of a row at a place, in this module's own numbering, with the unit that holds it and its number there where
another one does; none where the place has no such element (R36). -/
def elementAt (d : Dev) (pl : Place) (r : Row) (i : Nat) : Option (Nat × Option (Nat × Nat)) :=
  match r.count with
  | .fixed _ => some (i, none)
  | .objects =>
    (match pl with
    | .part p => if i < d.capacityOf p then some (i * max d.parts 1 + p, none) else none
    | _ => if d.objectExists i then some (i, none) else none)
  | .outputs =>
    match pl with
    | .part p => if i < d.partOuts p then some (d.partBase p + i, none) else none
    | .group => if i < d.outs then some (i, none) else (d.outputOwner i).map fun w => (i, some w)
    | _ => if i < d.outs then some (i, none) else none

/-- The entry that an index and sub-index name at a place, or the status of R36 and R43: NO_ENTRY for an element that is
absent, whatever the sub-index, NO_SUB for an undefined sub-index of one that is there. The outputs of a group beyond the
2,560 indices of an array cannot be named by one (DEDUCED). -/
def locate (d : Dev) (pl : Place) (idx sub : Nat) : Except Status Found :=
  match findRow idx sub with
  | none =>
    (match rowOf idx with
    | some r => .error (if (d.elementAt pl r (idx - r.base)).isSome then Status.noSub else Status.noEntry)
    | none => .error Status.noEntry)
  | some r =>
    match d.elementAt pl r (idx - r.base) with
    | some e => .ok { row := r, i := e.1, j := sub - r.sub, index := idx, sub, away := e.2.map fun w => (w.1, r.base + w.2) }
    | none => .error Status.noEntry

/-- Whether an entry of the group view affects every module of the group: the scene, which every module holds (R56, R92). -/
def sceneRow (r : Row) : Bool :=
  r.commit == .dated && ((0x4000 ≤ r.base && r.base < 0x5000) || (0x5A00 ≤ r.base && r.base < 0x6000) || (0x6100 ≤ r.base && r.base < 0x6200))

/-- The covered units of a target that one change affects (R56, R90). -/
def affects (d : Dev) (u : Nat) (idx sub : Nat) : List Nat :=
  let pl := d.placeOf u
  match d.locate pl idx sub with
  | .error _ => []
  | .ok f =>
    let own := d.ownUnit
    let mine (p : Nat) : List Nat := if 1 < d.parts then [own + 1 + p] else []
    let here : List Nat := match f.row.count with
      | .outputs => mine (d.partOfOut f.i)
      | .objects => mine (d.partOfObj f.i)
      | .fixed _ => (List.range d.parts).flatMap mine
    match pl with
    | .group =>
      if sceneRow f.row then d.treeUnits
      else match f.away with
        | some w => [w.1] ++ (d.treeUnits.filter fun x => d.nat Reg.unitKindOf x = 1 && d.nat Reg.unitParent x = w.1 &&
            d.nat Reg.unitOutputBase x ≤ idx - f.row.base && idx - f.row.base < d.nat Reg.unitOutputBase x + d.nat Reg.unitOutputCount x)
        | none => own :: here
    | .whole => if 1 < d.parts then here else [u]
    | _ => [u]

end Dev

end Sys2Proof.Machine
end

