-- ==== Sys2Proof/Machine/Reads.lean ====
section
/-! DEFINITION. What the entries read: values held, values computed at the read, BLOBs, and the wire form of each (R37). -/

namespace Sys2Proof.Machine

namespace Dev

/-! ### Calendar figures -/

/-- The entries of the module's own calendar: those that occupy its slots (R76); a participant's copies stand above. -/
def ownEntries (d : Dev) : List CalEntry := (d.cal.entries.filter fun e => e.1 < 1024).map (·.2)

/-- JournalOldest (R92). -/
def journalOldest (d : Dev) : Nat := match d.cal.journal with | x :: _ => x.seq | [] => add32 (d.nat Reg.journalSeq) 1

/-- Changes held in all entries (R76). -/
def changesInUse (d : Dev) : Nat := (d.ownEntries.map fun e => e.changes.length).foldl (· + ·) 0

/-- The earliest boundary of R74 for a lead of `l` samples. -/
def earliest (d : Dev) (l : Nat) : Nat := boundaryOf (d.mscNow + l)

/-! ### Values gathered from the modules of a group (R110) -/

/-- The entries of an object whose value in the group view is gathered from every module that holds the object. -/
def gatheredRow (r : Row) : Bool := r.base == Reg.objectStatus.base && decide (Reg.objectStatus.sub ≤ r.sub) && decide (r.sub ≤ Reg.objectClipCount.sub)

/-- Values gathered: ObjectStatus ORed, ObjectPathMin the least, ObjectPathMax the greatest, ObjectClipCount the sum (R110). -/
def gatherValues (r : Row) (l : List Nat) : Nat :=
  if r.sub = Reg.objectStatus.sub then l.foldl (· ||| ·) 0
  else if r.sub = Reg.objectPathMin.sub then l.foldl min (l.headD 0)
  else if r.sub = Reg.objectPathMax.sub then l.foldl max 0
  else l.foldl (· + ·) 0 % 2 ^ 32

/-! ### Identity at a place -/

/-- UnitId, UnitKind, OutputBase, OutputCount and ObjectCapacity as a place reports them (Table 2-3). -/
def identity (d : Dev) (pl : Place) (sub : Nat) : Nat :=
  let own := d.ownUnit
  match sub, pl with
  | 1, .group => 0
  | 1, .part p => own + 1 + p
  | 1, _ => own
  | 2, .group => 3
  | 2, .part _ => 1
  | 2, _ => if d.lone then 0 else 2
  | 3, .part p => d.nat Reg.outputBase + d.partBase p
  | 3, .group => 0
  | 3, _ => d.nat Reg.outputBase
  | 4, _ => d.outputsAt pl
  | _, _ => d.objectsAt pl

/-! ### Values computed at the read -/

/-- A row whose value is computed, with its value at an element. -/
abbrev Computed := Row × (Dev → Nat → Int)

/-- Time and the calendar. -/
def computedTime : List Computed :=
  [(Reg.mscNow, fun d _ => d.mscNow), (Reg.frcNow, fun d _ => d.frc), (Reg.almanacSeconds, fun d _ => d.seconds),
   (Reg.almanacNanoseconds, fun d _ => (d.almNow / 2 ^ 32 % 1000000000 : Nat)),
   (Reg.entriesInUse, fun d _ => d.ownEntries.length), (Reg.changesInUse, fun d _ => d.changesInUse),
   (Reg.earliestDate, fun d _ => d.earliest (d.nat Reg.calendarLead)), (Reg.journalOldest, fun d _ => d.journalOldest),
   (Reg.wordsHeld, fun d f => (d.fifo f).words.length), (Reg.packetsHeld, fun d f => packetsHeld (d.fifo f).words),
   (Reg.liftItemsFree, fun d _ => (4096 - d.liftUsed : Nat)),
   (Reg.levelItems, fun d l => (d.lift.waiting.filter fun x => x.level = l).length),
   (Reg.levelOldestAge, fun d l => match d.lift.waiting.find? fun x => x.level = l with
     | some x => cyclesToUs (d.clock - x.queuedAt)
     | none => 0),
   (Reg.mapSeeded, fun d s => b2n (d.fifo s).seeded),
   (Reg.sessionsOpen, fun d _ => (d.sessions.filter fun s => !s.can && s.handle < 0x10000).length),
   (Reg.subscriptionsOpen, fun d _ => d.subs.length)]

/-- Shape constants and figures of the data path. -/
def computedShape : List Computed :=
  [(Reg.windowSamples, fun d _ => d.windowW), (Reg.bulkRingSamples, fun d _ => d.ringSamples),
   (Reg.slotsPerRink, fun d _ => (d.objectsAt .whole / 16 : Nat)), (Reg.windowLimit, fun d _ => d.windowLimit),
   (Reg.geometryBudget, fun d _ => d.geometryBudget), (Reg.rinkPartition, fun d r => (r % max d.parts 1 : Nat)),
   (Reg.rinkObjects, fun d r => (d.enabledObjects.filter fun n => n % 16 = r).length),
   (Reg.firMaxTaps, fun d _ => d.firMax), (Reg.outputDelayMax, fun d _ => d.delayMax), (Reg.outputRingSamples, fun d _ => d.outRing),
   (Reg.firFadeLimit, fun d _ => d.fadeLimit), (Reg.outputStatus, fun d m => d.outputStatus m),
   (Reg.limitingOutputs, fun d _ => d.limitingOutputs), (Reg.storeUsed, fun d _ => d.storeUsed),
   (Reg.recorderSamples, fun d _ => d.recSamples), (Reg.sectionBudgetA, fun d _ => sectionBudget d.fast false),
   (Reg.sectionBudgetB, fun d _ => sectionBudget d.fast true), (Reg.directFeedDelay, fun d _ => (64 + d.lag : Nat)),
   (Reg.txLoad, fun d _ => d.txLoadMax), (Reg.convInUse, fun d _ => d.convs.length), (Reg.convDcEstimate, fun d c => d.convDcEstimate c)]

/-- The system: power, pins, memory, sensors, log, firmware slots. -/
def computedSystem : List Computed :=
  [(Reg.powerState, fun d _ => d.power.state.code), (Reg.resetCause, fun d _ => d.power.cause),
   (Reg.strapBootSel, fun d _ => b2n d.power.bootSel), (Reg.wakeLevel, fun d _ => b2n d.power.wake),
   (Reg.pairPresent, fun d _ => b2n (!d.power.pairPresent)), (Reg.rolePref, fun d _ => b2n d.power.rolePref),
   (Reg.vcoreTarget, fun d _ => d.vcoreNow), (Reg.sensorFaultLow, fun d s => d.sensorLimit s 2),
   (Reg.sensorFaultHigh, fun d s => d.sensorLimit s 3), (Reg.alertCauses, fun d _ => d.alertCauses),
   (Reg.logNewest, fun d _ => d.log.newest), (Reg.logOldest, fun d _ => d.logOldest), (Reg.arbHolder, fun d q => d.arbHolder q),
   (Reg.banksOn, fun d _ => d.banksIn 2), (Reg.banksRetention, fun d _ => d.banksIn 1), (Reg.banksOff, fun d _ => d.banksIn 0),
   (Reg.supervisorLoad, fun d _ => (Config.supervisorLoad d.clock % 10001 : Nat)), (Reg.runningSlot, fun d _ => d.sec.running),
   (Reg.slotState, fun d s => (d.slot s).state),
   (Reg.slotVersion, fun d s => if (d.slot s).state = 0 then 0 else if (d.slot s).image.isEmpty then (Reg.firmwareVersion.default 0 0).toInt
     else beAt (d.slot s).image 8 4),
   (Reg.slotSecurityVersion, fun d s => if (d.slot s).state = 0 then 0 else if (d.slot s).image.isEmpty then (Config.moduleConst (Reg.slotSecurityVersion.key s) % 2 ^ 32 : Nat)
     else beAt (d.slot s).image 12 4)]

/-- The warn limits of VCORE follow its target (R491); the other sensors' stand as written. -/
def computedWarn (d : Dev) (r : Row) (i : Nat) : Option Int :=
  if i = 8 ∧ r = Reg.sensorWarnLow then some (d.sensorLimit 8 0)
  else if i = 8 ∧ r = Reg.sensorWarnHigh then some (d.sensorLimit 8 1)
  else none

/-- The computed value of an entry, if it has one. -/
def computed? (d : Dev) (r : Row) (i : Nat) : Option Int :=
  match (computedTime ++ computedShape ++ computedSystem).find? fun c => c.1.base = r.base && c.1.sub = r.sub with
  | some c => some (c.2 d i)
  | none => d.computedWarn r i

/-- RouteCell as it reads (R198): source in bits [47:32], gain in bits [31:0]. -/
def routeCellValue (d : Dev) (cell : Nat) : Nat := let t := d.routeTarget cell; t.1 % 65536 * 2 ^ 32 + wrapU 32 t.2

/-- The integer of an entry of a sized type. -/
def readInt (d : Dev) (pl : Place) (f : Found) : Int :=
  if f.row.base = 1 then d.identity pl f.row.sub
  else if f.row.base = Reg.routeCell.base then d.routeCellValue (f.i * 256 + f.j)
  else (d.computed? f.row f.i).getD (d.int f.row f.i f.j)

/-! ### BLOBs -/

/-- What a BLOB that was never written reads as: bypassed filters, rules and slots empty, tables that name no slot. -/
def blankBlob (r : Row) : Octets :=
  if r = Reg.biquadCoeffs then List.replicate 336 (octet 0)
  else if r = Reg.firFilter then List.replicate 2 (octet 0)
  else if r = Reg.classRule ∨ r = Reg.perturbSlot then List.replicate 24 (octet 0)
  else if [Reg.rxSlotsA, Reg.rxSlotsB, Reg.txSlotsA, Reg.txSlotsB].contains r then List.replicate 128 (octet 0xFF)
  else if r = Reg.tdmInSlots ∨ r = Reg.tdmOutSlots then List.replicate 64 (octet 0xFF)
  else if r = Reg.liftSnapshot then List.replicate 144 (octet 0)
  else []

/-- LogRead: records in Seq order from a selection whose count was cut at BLOCK_BEGIN (R500). -/
def logRead (d : Dev) (first count : Nat) : Octets := (List.range count).flatMap fun i => d.logRecordAt (first + i)

/-- SlotDigest (Table 18-8): SHA-384 of header octets 0 to 1,087; the octets of the image supplied are not given. -/
def slotDigest (d : Dev) (s : Nat) : Octets :=
  if (d.slot s).state = 0 then List.replicate 48 (octet 0)
  else if (d.slot s).image.isEmpty then Config.sha384 (Config.fused 4)
  else Config.sha384 ((d.slot s).image.take 1088)

/-- The read-only BLOBs that follow from the state or are constants. -/
def derivedBlob (d : Dev) (f : Found) : Option Octets :=
  let r := f.row
  if r = Reg.interpRom then some interpRom
  else if r = Reg.crossfadeRom then some crossfadeRom
  else if r = Reg.convKernelRom then some kernelRomOctets
  else if r = Reg.convHalfbandRom then some halfRomOctets
  else if r = Reg.liftSnapshot ∧ !d.lift.snapshot.isEmpty then some d.lift.snapshot
  else if r = Reg.seasonHistory then some d.season.history.reverse.flatten
  else if r = Reg.sramBankMap then some d.sramBankMap
  else if r = Reg.sramRepairMap then some d.sramRepairMap
  else if r = Reg.slotDigest then some (d.slotDigest f.i)
  else if r = Reg.deviceCertificate then some (Config.fused 3)
  else if r = Reg.programmeImage then some d.mix.cur.image
  else none

/-- The octets that a BLOB holds at a place, for a session's selection. -/
def heldBlob (d : Dev) (pl : Place) (f : Found) (select : Int) : Octets :=
  let r := f.row
  if r = Reg.xpRead then d.xpRead (match pl with | .part p => d.partCell p | _ => fun n m => (n, m)) select.toNat
  else if r = Reg.logRead then d.logRead (select.toNat / 2 ^ 32) ((d.logReadCount select.toNat).getD 0)
  else if r = Reg.captureRead then d.captureRead select.toNat
  else if r = Reg.recorderRead then d.recRead select.toNat
  else match d.derivedBlob f with
    | some b => b
    | none => let b := d.bytes r f.i; if b.isEmpty then blankBlob r else b

/-- The entry whose per-session value selects what a BLOB returns. -/
def selectorOf (r : Row) : Option Row :=
  if r = Reg.xpRead then some Reg.xpReadSelect
  else if r = Reg.logRead then some Reg.logReadSelect
  else if r = Reg.captureRead then some Reg.captureSelect
  else if r = Reg.recorderRead then some Reg.recorderReadSelect
  else none

/-- The entries that each session holds for itself (R62, R159, R279, R377, R500). -/
def perSession (r : Row) : Bool :=
  [Reg.noticeAreas, Reg.captureSelect, Reg.recorderReadSelect, Reg.xpReadSelect, Reg.logReadSelect].contains r

/-! ### Wire forms (Table 2-1) -/

/-- A session by its handle. -/
def session? (d : Dev) (h : Nat) : Option Session := d.sessions.find? fun s => s.handle = h

/-- A session's value of an entry of its own. -/
def sessionInt (d : Dev) (h : Nat) (r : Row) : Int :=
  match d.session? h with
  | some s => nget (r.default 0 0).toInt s.selects r.key
  | none => (r.default 0 0).toInt

/-- Octets with the U16 length of STR before them. -/
def strWire (l : Octets) : Octets := toBE 2 l.length ++ l

/-- An integer in the wire form of a sized type. -/
def intWire (t : Ty) (x : Int) : Octets := toBE t.size (wrapU (8 * t.size) x)

/-- A value in the wire form of its type. -/
def valWire (t : Ty) (v : Val) : Octets :=
  match t with
  | .str | .cmd => strWire v.toBytes
  | .blob | .key => v.toBytes
  | t => intWire t v.toInt

/-- A value from its wire form, or the status that refuses it (Table 2-1, R37). -/
def decodeWire (t : Ty) (raw : Octets) : Except Status Val :=
  match t with
  | .str | .cmd =>
    if raw.length < 2 ∨ raw.length ≠ 2 + beAt raw 0 2 then .error Status.badLength
    else if 256 < beAt raw 0 2 ∨ !utf8Valid (raw.drop 2) then .error Status.range
    else .ok (.bytes (raw.drop 2))
  | .blob | .key => .ok (.bytes raw)
  | t =>
    if raw.length ≠ t.size then .error Status.badLength
    else
      let x : Int := if t.signed then beAtS raw 0 t.size else beAt raw 0 t.size
      let bad := match t with
        | .bool => decide (1 < x)
        | .q4_20 => !(decide (-8388608 ≤ x) && decide (x < 8388608))
        | _ => false
      if bad then .error Status.range else .ok (.int x)

/-- The text that a command entry reads back to a session (R592). -/
def cmdText (d : Dev) (h : Nat) (f : Found) : Octets :=
  match d.session? h with
  | some s => nget [] s.cmdLast f.key
  | none => []

/-- The wire form of the value that an entry holds, as a session reads it at a place; a BLOB's octets whole. -/
def heldWire (d : Dev) (pl : Place) (h : Nat) (f : Found) : Octets :=
  match f.row.ty with
  | .str => strWire (d.bytes f.row f.i)
  | .cmd => strWire (d.cmdText h f)
  | .key => d.keyRead f.row f.i
  | .blob => d.heldBlob pl f (match selectorOf f.row with | some s => d.sessionInt h s | none => 0)
  | t => intWire t (if perSession f.row then d.sessionInt h f.row else d.readInt pl f)

/-- Whether a REBOOT entry's stored value differs from the one in force (R39). -/
def pendingNow (d : Dev) (f : Found) : Bool := f.row.commit == .reboot && decide ((d.inForce f.row f.i : Int) ≠ d.int f.row f.i)

/-! ### Digests (R70, R71, R437) -/

/-- The rows that cover an index. -/
def rowsAt (idx : Nat) : List Row := allRows.flatMap fun l => l.filter fun r => r.coversIndex idx

/-- The areas that hold their own values in each unit of a pair (R435). -/
def perUnitIndex (idx sub : Nat) : Bool :=
  let inR (a b : Nat) : Bool := a ≤ idx && idx ≤ b
  inR 0x8000 0x80FF || idx = 0x2000 || inR 0x2100 0x22FF ||
  (inR 0x2300 0x24FF && !(inR 0x2310 0x2313 || (idx = 0x2300 && sub = 7))) ||
  inR 0x3000 0x30FF || inR 0x3200 0x32FF || inR 0x3800 0x384F || inR 0x8100 0x81FF || inR 0x9100 0x910F || inR 0xA000 0xA1FF ||
  (inR 0xA800 0xA8FF && !(idx = 0xA800 && sub = 0x0C)) ||
  (inR 0xB000 0xB1FF && !(idx = 0xB100 && sub = 1 || inR 0xB110 0xB117 && sub = 1))

/-- The digest records of an index, in ascending order of sub-index (R71); entries that no role writes, and commands, are
not covered (R70); `shared` leaves the per-unit entries out (R437). A session's own entries count with their defaults (DEDUCED).
The length of a value of more than 65,535 octets is taken modulo 65,536, its field being a U16 (DESIGN CHOICE). -/
def digestAt (d : Dev) (shared : Bool) (idx : Nat) : Octets :=
  let rows := (rowsAt idx).filter fun r => r.access.isSome && r.ty != .cmd
  if rows.isEmpty then []
  else (List.range 256).flatMap fun sub =>
    match rows.find? fun r => r.coversSub sub && !(shared && perUnitIndex idx sub) with
    | none => []
    | some _ =>
      match d.locate .whole idx sub with
      | .error _ => []
      | .ok f =>
        let w := d.heldWire .whole 0 f
        toBE 2 idx ++ toBE 1 sub ++ toBE 1 f.row.ty.code ++ toBE 2 w.length ++ w

/-- The digest records of an area (Table 2-2). -/
def areaRecords (d : Dev) (shared : Bool) (a : Nat) : Octets :=
  let r := areas.getD a (1, 0)
  (List.range (r.2 + 1 - r.1)).flatMap fun k => d.digestAt shared (r.1 + k)

/-- StateDigest, or with `shared` PairDigest, over the present values (R70, R71, R437). -/
def digestNow (d : Dev) (shared : Bool) : Octets := Config.sha384 ((List.range 19).flatMap (d.areaRecords shared))

/-- AreaDigest over the present values (R71). -/
def areaDigestNow (d : Dev) (a : Nat) : Nat := crc32c (d.areaRecords false a)

/-- The digests refreshed for a boundary (R70, R437). -/
def refreshDigests (date : Nat) (d : Dev) : Dev :=
  let e := (d.setVal Reg.stateDigest (.bytes (d.digestNow false))).setNat Reg.digestDate date
  let e := (List.range 19).foldl (fun e a => e.setNat Reg.areaDigest (d.areaDigestNow a) 0 a) e
  e.setVal Reg.pairDigest (.bytes (d.digestNow true))

/-- Whether no commit since reset has refreshed the digests yet: they read as computed from the values at reset (R70, DEDUCED). -/
def undigested (d : Dev) : Bool := (d.bytes Reg.stateDigest).isEmpty

/-- The octets of a BLOB at a place, for a session's selection. -/
def readBlob (d : Dev) (pl : Place) (f : Found) (select : Int) : Octets :=
  if d.undigested && (f.row = Reg.stateDigest || f.row = Reg.pairDigest) then d.digestNow (f.row = Reg.pairDigest)
  else d.heldBlob pl f select

/-- The wire form of an entry's value as a session reads it at a place; a BLOB's octets whole. -/
def readWire (d : Dev) (pl : Place) (h : Nat) (f : Found) : Octets :=
  if d.undigested && (f.row = Reg.stateDigest || f.row = Reg.pairDigest) then d.digestNow (f.row = Reg.pairDigest)
  else if d.undigested && f.row = Reg.areaDigest then toBE 4 (d.areaDigestNow f.j)
  else d.heldWire pl h f

end Dev

end Sys2Proof.Machine
end

