-- ==== Sys2Proof/Machine/Frames.lean ====
section
/-! DEFINITION. Response frames on UDP and CAN FD, and how they leave (R46 to R53). -/

namespace Sys2Proof.Machine

/-- The first handle of CAN FD hosts: host h is session 0x10000 + h (R53). -/
def canBase : Nat := 0x10000

/-- A Knasiug frame (Table 2-4). -/
def knFrame (service flags id unit status : Nat) (body : Octets) : Octets :=
  toBE 2 0x4B4E ++ toBE 1 1 ++ toBE 1 service ++ toBE 2 flags ++ toBE 2 body.length ++ toBE 4 id ++ toBE 2 unit ++ toBE 1 status ++
    toBE 1 0 ++ body

/-- The payload lengths of R51. -/
def canLengths : List Nat := [8, 12, 16, 20, 24, 32, 48, 64]

/-- The payload length that holds `n` octets. -/
def canLength (n : Nat) : Nat := (canLengths.find? (n ≤ ·)).getD 64

/-- The identifier of a response: the request's, with the direction turned and the module's node number (Table 2-5). -/
def responseIdent (ident node : Nat) : Nat := ident / 2 ^ 26 * 2 ^ 26 + 2 ^ 25 + node % 128 * 2 ^ 18 + ident % 2 ^ 18

/-- The most octets that the body of a response may hold (R46, R53). -/
def Request.room (q : Request) : Nat := if q.ident.isSome then 52 else 1434

/-- What the cache of R48 keeps of a response. -/
def cacheOctets (status : Nat) (pend : Bool) (body : Octets) : Octets := toBE 1 status ++ toBE 1 (b2n pend) ++ body

namespace Dev

/-- A session changed. -/
def setSession (h : Nat) (f : Session → Session) (d : Dev) : Dev :=
  { d with sessions := d.sessions.map fun (s : Session) => if s.handle = h then f s else s }

/-- The session of a CAN FD host, made where there is none yet (R53). -/
def canSession (host : Nat) (d : Dev) : Dev :=
  if host = 0 ∨ d.sessions.any (fun s => s.handle == canBase + host) then d
  else { d with sessions := d.sessions ++ [{ handle := canBase + host, role := .operator, can := true, srcIp := 0, cert := [], commissioning := false, lastFrameAt := d.clock, cache := [], selects := [], cmdLast := [], queue := [], lost := 0, sentAt := [] }] }

/-- The key of the CAN FD tag (R52). -/
def canKeyOctets (d : Dev) : Octets := nget [] d.sec.keys Reg.canKey.key

/-- A CAN FD frame of the module: padded, with the next freshness value and the tag; none while the controller is off, none once
the counter is exhausted (R50 to R52, R64). Notice 0x1005 has no stated argument: 0 for the module's own counter, the host number
for a host's (DESIGN CHOICE). -/
def canOut (ident : Nat) (content : Octets) (d : Dev) : Option Out × Dev :=
  let n := d.nat Reg.canFreshnessTx
  if d.inForce Reg.canEnable ≠ 1 ∨ 0xFFFFFFFF ≤ n then (none, d)
  else
    let l := canLength (content.length + 8)
    let head := content ++ List.replicate (l - 8 - content.length) (octet 0) ++ toBE 4 (n + 1)
    let d := (d.setNat Reg.canFreshnessTx (n + 1)).keep Reg.canFreshnessTx
    let d := if n + 1 = 0xFFFFFFFF then d.notice 0x1005 0 else d
    (some (.canFrame ident (head ++ toBE 4 (Config.cmac32 d.canKeyOctets (toBE 4 ident ++ head)))), d)

/-- A response in its transport's form. -/
def formResponse (q : Request) (status : Nat) (pend : Bool) (body : Octets) (d : Dev) : Option Out × Dev :=
  match q.ident with
  | none => (some (.response q.session (knFrame q.service (1 + 4 * b2n pend) q.id q.unit status body)), d)
  | some i => d.canOut (responseIdent i (d.inForce Reg.canNodeId))
      (toBE 1 q.service ++ toBE 1 body.length ++ toBE 1 status ++ toBE 1 q.id ++ body)

/-- A response kept with its RequestId, the last 16 of a session (R48). -/
def remember (q : Request) (status : Nat) (pend : Bool) (body : Octets) (d : Dev) : Dev :=
  d.setSession q.session fun s => { s with cache := ((q.id, cacheOctets status pend body) :: s.cache.filter fun c => c.1 ≠ q.id).take 16 }

/-- A response formed, kept and sent. -/
def respond (q : Request) (status : Nat) (body : Octets) (pend : Bool := false) (d : Dev) : Dev :=
  let d := { d.remember q status pend body with lastStatus := status }
  let r := d.formResponse q status pend body
  match r.1 with
  | some o => r.2.sendOut o
  | none => r.2

/-- A response that waits for the standby's acknowledgement of a write (R436). -/
def respondMirrored (q : Request) (status : Nat) (body mirror : Octets) (d : Dev) : Dev :=
  let d := { d.remember q status false body with lastStatus := status }
  let r := d.formResponse q status false body
  match r.1 with
  | some o => r.2.mirrorHold mirror o
  | none => r.2

end Dev

end Sys2Proof.Machine
end

