-- ==== Sys2Proof/Machine/Calendar.lean ====
section
/-! DEFINITION. Calendar entries: identifiers, dates, the units they affect, outcomes, and the traffic between units (R73 to R93). -/

namespace Sys2Proof.Machine

/-- An entry identifier: generation in [15:10], slot in [9:0] (R77). -/
def CalEntry.ident (e : CalEntry) : Nat := e.gen % 64 * 1024 + e.slot % 1024

/-- Whether an entry is held for another coordinator: a participant's, or a standby's copy. -/
def CalEntry.foreign (e : CalEntry) : Bool := 1024 ≤ e.slot

/-- Where a participant keeps the entries of the head's calendar. -/
def foreignSlot (s : Nat) : Nat := 0x10000 + s

/-- Where a standby keeps the entries of its lead. -/
def mirrorSlot (s : Nat) : Nat := 0x20000 + s

/-- The octets of a list of changes: index, sub-index, length, value in wire form. -/
def changeListOctets (l : List (Nat × Nat × Octets)) : Octets :=
  toBE 4 l.length ++ l.flatMap fun c => toBE 2 c.1 ++ toBE 1 c.2.1 ++ toBE 4 c.2.2.length ++ c.2.2

/-- The octets of a CALENDAR cell's message, in this model's own layout. -/
def calOctets : CalMsg → Octets
  | .prepare s g u r dt o l => toBE 1 1 ++ toBE 4 s ++ toBE 1 g ++ toBE 2 u ++ toBE 1 r ++ toBE 8 dt ++ toBE 12 o ++ changeListOctets l
  | .answer s u c => toBE 1 2 ++ toBE 4 s ++ toBE 2 u ++ toBE 1 c
  | .decision s c q => toBE 1 3 ++ toBE 4 s ++ toBE 1 (b2n c) ++ toBE 4 q
  | .confirm s u => toBE 1 4 ++ toBE 4 s ++ toBE 2 u
  | .cancel s => toBE 1 5 ++ toBE 4 s
  | .replay q dt u l => toBE 1 6 ++ toBE 4 q ++ toBE 8 dt ++ toBE 2 u ++ changeListOctets l
  | .image q l => toBE 1 7 ++ toBE 4 q ++ changeListOctets l
  | .applied u q => toBE 1 8 ++ toBE 2 u ++ toBE 4 q
  | .hand s g u r dt o l => toBE 1 9 ++ toBE 4 s ++ toBE 1 g ++ toBE 2 u ++ toBE 1 r ++ toBE 8 dt ++ toBE 12 o ++ changeListOctets l
  | .state s u st c => toBE 1 10 ++ toBE 4 s ++ toBE 2 u ++ toBE 1 st ++ toBE 1 c
  | .commits s u dt l => toBE 1 11 ++ toBE 4 s ++ toBE 2 u ++ toBE 8 dt ++ changeListOctets l
  | .number s q => toBE 1 12 ++ toBE 4 s ++ toBE 4 q
  | .copy s g u r st dt q b l => toBE 1 13 ++ toBE 4 s ++ toBE 1 g ++ toBE 2 u ++ toBE 1 r ++ toBE 1 st ++ toBE 8 dt ++ toBE 4 q ++ toBE 2 b.length ++ b ++
      changeListOctets l
  | .record q dt u l => toBE 1 14 ++ toBE 4 q ++ toBE 8 dt ++ toBE 2 u ++ changeListOctets l
  | .stall u q => toBE 1 15 ++ toBE 2 u ++ toBE 4 q

/-- Whether a message travels as a decision or a confirmation, on virtual channel 1 (Table 16-4). -/
def calSettled : CalMsg → Bool
  | .decision _ _ _ | .confirm _ _ => true
  | _ => false

namespace Dev

/-! ### Slots (R76, R77) -/

/-- The calendar changed. -/
def setCal (f : Calendar → Calendar) (d : Dev) : Dev := { d with cal := f d.cal }

/-- A calendar entry, by its place. -/
def entryAt (d : Dev) (slot : Nat) : Option CalEntry := nget? d.cal.entries slot

/-- A calendar entry written. -/
def putCal (e : CalEntry) (d : Dev) : Dev := d.setCal fun c => { c with entries := nput c.entries e.slot e }

/-- A slot freed. -/
def freeCal (slot : Nat) (d : Dev) : Dev := d.setCal fun c => { c with entries := nerase c.entries slot }

/-- The entry that an identifier names, if its generation is current (R77). -/
def entryOf (d : Dev) (ident : Nat) : Option CalEntry :=
  match d.entryAt (ident % 1024) with
  | some e => if e.ident = ident % 65536 then some e else none
  | none => none

/-- The lowest-numbered FREE slot (R77). -/
def freeCalSlot (d : Dev) : Option Nat := (List.range 1024).find? fun s => (d.entryAt s).isNone

/-- An entry without changes. -/
def blankEntry (slot gen unit session : Nat) (role : Role) (st : CalState) : CalEntry :=
  { slot, gen, state := st, unit, session, role, date := 0, closedAt := 0, order := 0, changes := [], participants := [],
    answers := [], confirmed := [], decided := false, journalSeq := 0, bitmap := [], finalAt := 0, reserved := 0, loads := [], applied := false, handed := false, spectraAt := 0 }

/-- A new entry in the lowest free slot, its generation one more (R77). -/
def newEntry (unit session : Nat) (role : Role) (st : CalState) (d : Dev) : Option (CalEntry × Dev) :=
  match d.freeCalSlot with
  | none => none
  | some s =>
    let g := (nget 0 d.cal.gens s + 1) % 64
    let e := blankEntry s g unit session role st
    some (e, (d.putCal e).setCal fun c => { c with gens := nput c.gens s g })

/-- A change added to a list of changes: an earlier one of the same entry is superseded (R79). -/
def addChange (l : List Change) (c : Change) : List Change := (l.filter fun x => !(x.index == c.index && x.sub == c.sub)) ++ [c]

/-- What becomes of an entry's changes with more added: TOO_LONG above 4,096, BUSY where the pool would pass 131,072 (R76). -/
def changesRoom (d : Dev) (old new : List Change) : Status :=
  if 4096 < new.length then Status.tooLong
  else if 131072 < d.changesInUse - old.length + new.length then Status.busy
  else Status.ok

/-! ### The units of an entry (R56, R74, R85) -/

/-- The covered units that an entry affects. -/
def entryUnits (d : Dev) (e : CalEntry) : List Nat := (e.changes.flatMap fun c => d.affects e.unit c.index c.sub).eraseDups

/-- The units that hold the state an entry changes: partitions, and modules of which it changes no partition. -/
def entryHolders (d : Dev) (e : CalEntry) : List Nat :=
  let l := d.entryUnits e
  l.filter fun u => !(l.any fun v => d.nat Reg.unitKindOf v = 1 && d.nat Reg.unitParent v = u && v ≠ u)

/-- The modules that an entry addresses. -/
def entryModules (d : Dev) (e : CalEntry) : List Nat := ((d.entryUnits e).map d.moduleOf).eraseDups

/-- Whether an entry is multi-unit: it changes state held in more than one module or partition (R56). -/
def multiUnit (d : Dev) (e : CalEntry) : Bool := 1 < (d.entryHolders e).length

/-- L of R74. -/
def leadOf (d : Dev) (e : CalEntry) : Nat :=
  let lead := d.nat Reg.calendarLead
  if d.multiUnit e then
    lead + 32 * (2 * (((d.entryModules e).filter fun u => d.nat Reg.unitState u = 2).map (d.nat Reg.unitHops ·)).foldl max 0 + 3)
  else lead

/-- The date that an entry takes for a requested one: LATE, RANGE, or its effective boundary (R73 to R75). -/
def dateFor (d : Dev) (e : CalEntry) (date : Nat) : Except Status Nat :=
  let first := d.earliest (d.leadOf e)
  if date = 0 then .ok first
  else if d.mscNow + 2 ^ 32 < date then .error Status.range
  else if boundaryOf date < first then .error Status.late
  else .ok (boundaryOf date)

/-- The order in which entries were closed, over all units of a group: the media count of the close, then the unit's own count of
closes (R88). -/
def closeOrder (d : Dev) : Nat := d.mscNow % 2 ^ 64 * 2 ^ 32 + d.cal.nextOrder % 2 ^ 32

/-- An entry closed with a date: STAGED, behind every entry closed before it (R75, R83, R88). -/
def stage (e : CalEntry) (date : Nat) (d : Dev) : Dev :=
  (d.putCal { e with state := .staged, date, closedAt := d.mscNow, order := d.closeOrder }).setCal fun c => { c with nextOrder := c.nextOrder + 1 }

/-! ### Traffic between units (R87, R477) -/

/-- The link that leads to a unit of the group; beyond the break of a ring the other way round (R476). -/
def linkTowards (d : Dev) (u : Nat) : Nat :=
  match d.drada.members.find? fun x => x.2 = u with
  | some x => if d.nat Reg.groupTopology = 2 ∧ d.drada.breaks.any fun b => decide (b < x.1.path.length) then 0 else x.1.path.headD 1
  | none => (nget? d.drada.branches u).getD 0

/-- A message of the calendar to a unit of the group. -/
def tellUnit (u : Nat) (m : CalMsg) (d : Dev) : Dev := d.sendCell (d.linkTowards u) .calendar u 0 (calOctets m) (calSettled m)

/-- A message of the calendar to the coordinator at the head. -/
def tellHead (m : CalMsg) (d : Dev) : Dev := d.sendCell d.headLink .calendar 0 0 (calOctets m) (calSettled m)

/-- A message of the calendar from a lead to its standby. -/
def sendStandby (m : CalMsg) (d : Dev) : Dev :=
  if d.lone ∨ !d.isLead then d else d.sendCell 2 .calendar 0xFFFF 0 (calOctets m) (calSettled m)

/-- Where a message of the calendar goes: the standby (0xFFFF), the head (0) or a unit. -/
def sendCal (dest : Nat) (m : CalMsg) (d : Dev) : Dev :=
  if dest = 0xFFFF then d.sendStandby m else if dest = 0 then d.tellHead m else d.tellUnit dest m

/-- A journal mirror, decision or replay message: it leaves when its item of kind 2 completes (Table 3-7). -/
def queueCal (dest : Nat) (m : CalMsg) (d : Dev) : Dev := d.liftPut 2 254 (.send dest m)

/-- A message of the calendar for the standby, in its turn (R91, Table 3-7). -/
def tellStandby (m : CalMsg) (d : Dev) : Dev := if d.lone ∨ !d.isLead then d else d.queueCal 0xFFFF m

/-- A change with its value in wire form. -/
def changeOctets (c : Change) : Nat × Nat × Octets :=
  (c.index, c.sub, match findRow c.index c.sub with | some r => valWire r.ty c.val | none => c.val.toBytes)

/-- The changes of an entry that another module holds, in that module's numbering. -/
def changesFor (d : Dev) (e : CalEntry) (u : Nat) : List (Nat × Nat × Octets) :=
  e.changes.filterMap fun c =>
    match d.locate (d.placeOf e.unit) c.index c.sub with
    | .error _ => none
    | .ok f => match f.away with
      | some w => if w.1 = u then some { changeOctets c with fst := w.2 } else none
      | none => if sceneRow f.row && f.row.count != .outputs then some (changeOctets c) else none

/-! ### Outcomes (R84, R88 to R90) -/

/-- The index and sub-index of an entry's first change. -/
def firstChange (e : CalEntry) : Nat × Nat := match e.changes with | c :: _ => (c.index, c.sub) | [] => (0, 0)

/-- Notice 0xA401 for an entry's state, the full result bitmap in its log record (R82, Table 3-5). -/
def tellOutcome (e : CalEntry) (d : Dev) : Dev :=
  d.noticeWith 0xA401 (firstChange e).1 (firstChange e).2 (e.ident * 65536 + e.state.code * 256) e.bitmap

/-- The code of a covered unit in the result bitmap of an entry (R90). -/
def bitmapCode (d : Dev) (e : CalEntry) (units : List Nat) (u : Nat) : Nat :=
  let m := d.moduleOf u
  if !units.contains u then 0
  else match e.state with
    | .committed | .partially => if e.confirmed.contains m then 1 else 3
    | .refused => if e.answers.any fun a => a.1 == m && a.2 != 0 then 2 else 0
    | _ => 0

/-- The result bitmap of an entry: two bits for each covered unit (R90). -/
def bitmapOf (d : Dev) (e : CalEntry) : Octets :=
  let units := d.entryUnits e
  let codes := (d.covered e.unit).map (d.bitmapCode e units)
  (List.range (cdiv codes.length 4)).map fun i =>
    octet ((List.range 4).foldl (fun a j => a + codes.getD (4 * i + j) 0 * 4 ^ j) 0)

/-- The outputs whose FirFilter an entry changes here. -/
def firOutputs (d : Dev) (e : CalEntry) : List Nat :=
  e.changes.filterMap fun c =>
    match d.locate (d.placeOf e.unit) c.index c.sub with
    | .ok f => if f.row.base = Reg.firFilter.base ∧ f.row.sub = Reg.firFilter.sub ∧ f.away.isNone then some f.i else none
    | .error _ => none

/-- What an entry that ends without committing gives back at once: reserved items, FIR fade places (R84, R220). -/
def releaseEntry (e : CalEntry) (d : Dev) : Dev :=
  let outs := d.firOutputs e
  let d := { d with lift := { d.lift with reservedItems := d.lift.reservedItems - e.reserved } }
  d.releaseFades fun a => !(a.ends.isNone && a.date == e.date && outs.contains a.output)

/-- LastOutcome (Table 3-5). -/
def noteOutcome (e : CalEntry) (d : Dev) : Dev := d.setNat Reg.lastOutcome (e.ident * 65536 + e.state.code * 256)

/-- The response of a BLOCK_END held for an entry's outcome (R56, R89). -/
def answerHeld (e : CalEntry) (d : Dev) : Dev :=
  let status : Status := match e.state with
    | .committed => Status.committed
    | .partially => Status.partially
    | _ => Status.refused
  let mine := d.heldEnds.filter fun x => x.1 = e.ident
  let d := { d with heldEnds := d.heldEnds.filter fun x => x.1 ≠ e.ident }
  mine.foldl (fun d x => d.respond x.2 status e.bitmap) d

/-- How a standby is told which unit an entry addresses. -/
def standbyUnit (d : Dev) (u : Nat) : Nat := match d.placeOf u with | .group => 0 | .part p => 0xFF00 + p | _ => 0xFFFF

/-- An entry in a state that the standby does not reach by itself goes to it: OPEN, or final (R91). -/
def copyEntry (e : CalEntry) (d : Dev) : Dev :=
  d.tellStandby (.copy e.slot e.gen (d.standbyUnit e.unit) e.role.rank e.state.code e.date e.journalSeq e.bitmap (e.changes.map changeOctets))

/-- The cause with which a unit has refused an entry. -/
def causeOf (e : CalEntry) (u : Nat) : Nat := ((e.answers.find? fun a => a.1 == u).map (·.2)).getD 0

/-- An entry that reaches a final state: its outcome is told, its slot kept for 10 s (R84, R89). The head is told of one that this
unit coordinates for it; any other copy held for another coordinator goes at once. -/
def settle (e : CalEntry) (st : CalState) (d : Dev) : Dev :=
  let e := { e with state := st, finalAt := d.clock }
  let e := { e with bitmap := d.bitmapOf e }
  let d := if st = .committed ∨ st = .partially then d else d.releaseEntry e
  if e.foreign then (if e.handed then (d.putCal { e with reserved := 0 }).tellHead (.state (e.slot - 0x10000) d.ownUnit st.code (causeOf e d.ownUnit)) else d.freeCal e.slot)
  else
    let d := ((d.putCal { e with reserved := 0 }).noteOutcome e)
    let d := if st = .refused then d.bump Reg.entriesRefused else if st = .partially then d.bump Reg.entriesPartial else d
    ((d.tellOutcome e).answerHeld e).copyEntry e

/-- The participants of an entry other than this module, and the standby, are told, in items of kind 2 (R87, Table 3-7). -/
def tellOthers (e : CalEntry) (m : CalMsg) (d : Dev) : Dev :=
  let d := e.participants.foldl (fun d u => if u = d.ownUnit then d else d.queueCal u m) d
  d.tellStandby m

/-- An entry cancelled, by CAL_CANCEL or a realignment (R84, R331): its participants discard their staged work. -/
def cancelEntry (e : CalEntry) (d : Dev) : Dev := (d.tellOthers e (.cancel e.slot)).settle e .cancelled

/-- Whether this unit's calendar decides an entry: one of its own that it has not handed on, or one handed to it (R85). -/
def CalEntry.decidedHere (e : CalEntry) : Bool := e.foreign == e.handed

/-- An entry refused for a cause in a unit, with notice 0xA402 (R85 to R87). -/
def refuseEntry (e : CalEntry) (u cause : Nat) (d : Dev) : Dev :=
  let e := { e with answers := (e.answers.filter fun a => a.1 ≠ u) ++ [(u, cause)] }
  let d := if e.foreign != e.handed then d else d.notice 0xA402 (u * 65536 + cause)
  (d.tellOthers e (.decision e.slot false 0)).settle e .refused

/-- Whether an entry waits with a date: STAGED, PREPARING or PREPARED. -/
def CalEntry.waits (e : CalEntry) : Bool := e.state == .staged || e.state == .preparing || e.state == .prepared

/-- Every entry that waits is cancelled (R331). -/
def cancelAll (d : Dev) : Dev :=
  d.cal.entries.foldl (fun d x => if CalEntry.waits x.2 then d.cancelEntry x.2 else d) d

/-- CAL_RETENTION_EXPIRY: 10 s after a final state the slot is freed (R84). -/
def calRetention (d : Dev) : Dev :=
  let ends := (d.cal.entries.filter fun x => x.2.state.final).map fun x => x.2.finalAt + secCycles 10
  match ends with
  | [] => d
  | t :: l =>
    let d := d.advanceTo (l.foldl min t)
    d.cal.entries.foldl (fun d x => if x.2.state.final && decide (x.2.finalAt + secCycles 10 ≤ d.clock) then d.freeCal x.1 else d) d

/-! ### Boundaries reached by a command of the calendar -/

/-! ### Realignment (R330, R331) -/

/-- The realignment of R331: SN mode, the data path cleared, staged entries cancelled, the MSC aligned anew. -/
def realign (d : Dev) : Dev :=
  let runs := d.power.state.runs
  let d := ((d.toSn).clearPath).cancelAll
  let d := ((d.setAlm fun a => { a with aligned := false }).align).notice 0x3808 0
  if !runs then d
  else
    let b := d.msc
    let d := { d with geo := { d.geo with fullOnStart := true } }
    ((((d.tdmRealign).convStart b).remap b (fun _ => false) fun _ => false).startLanes).recEnable true b

/-- REALIGNMENT: a due realignment that SHOW does not defer, once the MSC has been aligned (R330, R331). -/
def realignment (d : Dev) : Dev := if d.alm.realignDue && !d.alm.deferred && d.alm.aligned then d.realign else d

/-- REALIGN_NOW: RealignCmd "now" performs a deferred realignment (R330). -/
def realignNow (arg : Octets) (d : Dev) : Status × Dev :=
  if arg ≠ ascii "now" then (Status.range, d)
  else (Status.ok, if d.alm.realignDue && d.alm.aligned then d.realign else d)

end Dev

end Sys2Proof.Machine
end

