-- ==== Sys2Proof/Machine/Commands.lean ====
section
/-! DEFINITION. The command entries: what each argument does, its status, and its result (R592 and the chapters' tables). -/

namespace Sys2Proof.Machine

/-- Whether an entry found is an element of a row. -/
def Found.is (f : Found) (r : Row) : Bool := f.row.base == r.base && f.row.sub == r.sub

/-- A status and a state as a command's answer without result. -/
def noResult (r : Status × Dev) : Status × Octets × Dev := (r.1, [], r.2)

/-- An answer that changes nothing. -/
def refusedWith (s : Status) (d : Dev) : Status × Octets × Dev := (s, [], d)

/-- The octets that hexadecimal text spells, two digits each. -/
def hexOctets (l : Octets) : Option Octets :=
  (chunks 2 l).foldr (fun p a => match a, hex? p with
    | some t, some n => if p.length = 2 then some (octet n :: t) else none
    | _, _ => none) (some [])

namespace Dev

/-- Whether the certified configuration is in force (R524). -/
def certified (d : Dev) : Bool := d.inForce Reg.certifiedMode == 1

/-- LiftSnapshot as Table 3-8 lays it out. -/
def snapshotOctets (d : Dev) : Octets :=
  let waiting := d.lift.waiting
  let level (l : Nat) : Octets :=
    let items := waiting.filter fun x => x.level = l
    let age := match items with | x :: _ => cyclesToUs (d.clock - x.queuedAt) | [] => 0
    toBE 2 items.length ++ toBE 4 age ++ toBE 2 0
  let busy := d.lift.engines.items.filterMap fun (e : Option LiftItem) => e.map fun i => i.flow
  let engine (e : Option LiftItem) : Octets := match e with
    | some x => toBE 1 x.kind ++ toBE 1 x.level ++ toBE 1 x.flow ++ toBE 1 1 ++ toBE 4 (cyclesToUs (d.clock - x.startedAt))
    | none => List.replicate 8 (octet 0)
  toBE 8 d.mscNow ++ toBE 2 waiting.length ++ toBE 1 busy.length ++ List.replicate 5 (octet 0) ++ (List.range 8).flatMap level ++
    ((List.range 32).map fun i => octet ((List.range 8).foldl (fun a b => a + b2n (busy.contains (8 * i + b)) * 2 ^ b) 0)) ++
    d.lift.engines.items.flatMap engine

/-- LIFT_SNAPSHOT_TAKE: LiftSnapshotCmd (R105). -/
def liftSnapshotTake (arg : Octets) (d : Dev) : Status × Dev :=
  if arg = ascii "take" then (Status.ok, { d with lift := { d.lift with snapshot := d.snapshotOctets } }) else (Status.range, d)

/-- A command of the certified list of R524, or what it does. -/
def unlessCertified (d : Dev) (r : Status × Octets × Dev) : Status × Octets × Dev := if d.certified then refusedWith Status.state d else r

/-- KEY_ERASE; a key that a pair shares is emptied in the standby too (R512, R513). -/
def keyEraseCmd (arg : Octets) (d : Dev) : Status × Dev :=
  let r := d.keyErase arg
  match splitWords arg with
  | [_, i, s] =>
    let idx := (hex? i).getD 0
    let sub := (hex? s).getD 0
    if r.1 = Status.ok ∧ d.isLead ∧ !d.lone ∧ sharedKey idx sub then (r.1, r.2.mirrorLoose (mirrorItem idx sub [])) else r
  | _ => r

/-- TIME_SET, refused in the certified configuration (R324, R524). -/
def timeSetCmd (arg : Octets) (d : Dev) : Status × Dev := if d.certified then (Status.state, d) else d.timeSet arg

/-- MDIO_READ and MDIO_WRITE, refused in the certified configuration (R261, R524). -/
def mdioCmd (write : Bool) (a r v : Nat) (text : Octets) (d : Dev) : Status × Octets × Dev := d.unlessCertified (d.mdioRun write a r v text)

/-- MdioAccess given through the dictionary: what the PHY answers is a free value. -/
def mdioWrite (arg : Octets) (d : Dev) : Status × Octets × Dev := let r := d.freeNat; r.2.unlessCertified (r.2.mdioAccess arg r.1)

/-- MARCH_DESTRUCTIVE and MARCH_PRESERVING (R421, R524). -/
def marchCmdRun (destructive : Bool) (f l background : Nat) (d : Dev) : Status × Dev :=
  if destructive && d.certified then (Status.state, d) else d.marchStart destructive f l background

/-- MarchCmd: "d f l b" or "p f l" (R421). -/
def marchWrite (arg : Octets) (d : Dev) : Status × Dev :=
  match splitWords arg with
  | [w, f, l] =>
    (match decimal? f, decimal? l with
    | some f, some l => if w = ascii "p" then d.marchCmdRun false f l 0 else (Status.range, d)
    | _, _ => (Status.range, d))
  | [w, f, l, b] =>
    (match decimal? f, decimal? l, decimal? b with
    | some f, some l, some b => if w = ascii "d" then d.marchCmdRun true f l b else (Status.range, d)
    | _, _, _ => (Status.range, d))
  | _ => (Status.range, d)

/-- SeasonCmd: "measure" or "clear refresh c s" (R532, R536). -/
def seasonWrite (arg : Octets) (d : Dev) : Status × Dev :=
  match splitWords arg with
  | [w] => if w = ascii "measure" then d.seasonMeasureCmd else (Status.range, d)
  | [a, b, c, s] =>
    match decimal? c with
    | some c => if a = ascii "clear" ∧ b = ascii "refresh" then d.clearRefresh c s else (Status.range, d)
    | none => (Status.range, d)
  | _ => (Status.range, d)

/-- SelfTestCmd (R540). -/
def selfTestWrite (arg : Octets) (d : Dev) : Status × Dev :=
  if arg = ascii "monitors" then d.selfTest 1 else if arg = ascii "checkers" then d.selfTest 2
  else if arg = ascii "crypto" then d.selfTest 3 else if arg = ascii "all" then d.selfTest 4 else (Status.range, d)

/-- PerturbCmd (R542). -/
def perturbWrite (arg : Octets) (d : Dev) : Status × Dev :=
  match splitWords arg with
  | [a, k, s] =>
    (match decimal? k with
    | some k => if a = ascii "arm" then d.perturbArm k s else (Status.range, d)
    | none => (Status.range, d))
  | [a, k] =>
    if a ≠ ascii "disarm" then (Status.range, d)
    else if k = ascii "all" then d.perturbDisarmAll
    else (match decimal? k with | some k => d.perturbDisarm k | none => (Status.range, d))
  | _ => (Status.range, d)

/-- PowerStateCmd (R553, R556). -/
def powerWrite (arg : Octets) (d : Dev) : Status × Dev :=
  if arg = ascii "quiet" then d.powerQuiet else if arg = ascii "ready" then d.powerReady
  else if arg = ascii "offseason" then d.powerOffseason else (Status.range, d)

/-- UpdateCmd (R521, R522). -/
def updateWrite (arg : Octets) (d : Dev) : Status × Dev :=
  if arg = ascii "activate" then d.updateActivate else if arg = ascii "confirm" then d.updateConfirm
  else if arg = ascii "commit" then d.updateCommit else (Status.range, d)

/-- JtagUnlock: "challenge", or "response" with the signature in hexadecimal (R526). -/
def jtagWrite (arg : Octets) (d : Dev) : Status × Octets × Dev :=
  match splitWords arg with
  | [w] => if w = ascii "challenge" then d.jtagChallenge else refusedWith Status.range d
  | [w, h] =>
    if w ≠ ascii "response" then refusedWith Status.range d
    else (match hexOctets h with
      | some s => noResult (d.jtagResponse s)
      | none => if d.certified then refusedWith Status.state d else refusedWith Status.range d)
  | _ => refusedWith Status.range d

/-- The command entries of the data path, the ports and time. -/
def pathCommand (f : Found) (arg : Octets) (d : Dev) : Option (Status × Octets × Dev) :=
  if f.is Reg.liftSnapshotCmd then some (noResult (d.liftSnapshotTake arg))
  else if f.is Reg.refreshAll then some (noResult (d.refreshAll arg))
  else if f.is Reg.loadPeakClear then some (noResult (d.loadPeakClear arg))
  else if f.is Reg.counterClear then some (noResult (d.counterClear f.i arg))
  else if f.is Reg.rxMarginClear then some (noResult (d.marginClear f.i arg))
  else if f.is Reg.realignCmd then some (noResult (d.realignNow arg))
  else if f.is Reg.timeSet then some (noResult (d.timeSetCmd arg))
  else if f.is Reg.recorderCmd then some (noResult (d.recCmd arg))
  else if f.is Reg.mdioAccess then some (d.mdioWrite arg)
  else none

/-- The command entries of pair, group, memory and season. -/
def systemCommand (f : Found) (arg : Octets) (d : Dev) : Option (Status × Octets × Dev) :=
  if f.is Reg.handoverCmd then some (noResult (d.handoverCmd arg))
  else if f.is Reg.groupReform then some (noResult (d.groupReform arg))
  else if f.is Reg.marchCmd then some (noResult (d.marchWrite arg))
  else if f.is Reg.seasonCmd then some (noResult (d.seasonWrite arg))
  else if f.is Reg.selfTestCmd then some (noResult (d.selfTestWrite arg))
  else if f.is Reg.perturbCmd then some (noResult (d.perturbWrite arg))
  else none

/-- The command entries of the supervisor, security and power; `mem` is what SupervisorPeek may read. -/
def rootCommand (mem : List Host.Cell) (role : Role) (f : Found) (arg : Octets) (d : Dev) : Option (Status × Octets × Dev) :=
  if f.is Reg.logFind then some (d.logFind arg)
  else if f.is Reg.logClear then some (noResult (d.logClear role.rank arg))
  else if f.is Reg.supervisorPeek then some (d.peek mem arg)
  else if f.is Reg.keyErase then some (noResult (d.keyEraseCmd arg))
  else if f.is Reg.jtagUnlock then some (d.jtagWrite arg)
  else if f.is Reg.updateCmd then some (noResult (d.updateWrite arg))
  else if f.is Reg.resetCmd then some (noResult (d.resetCmd arg))
  else if f.is Reg.powerStateCmd then some (noResult (d.powerWrite arg))
  else none

/-- A command given to an entry: its status, its result, the state after. -/
def giveCmd (mem : List Host.Cell) (role : Role) (f : Found) (arg : Octets) (d : Dev) : Status × Octets × Dev :=
  match d.pathCommand f arg with
  | some r => r
  | none => match d.systemCommand f arg with
    | some r => r
    | none => (d.rootCommand mem role f arg).getD (refusedWith Status.range d)

/-- What a command entry reads back: argument, status, and the result where the status is OK (R592). -/
def cmdBack (arg : Octets) (status : Status) (result : Octets) : Octets :=
  arg ++ [octet 0x0A] ++ hexText 2 status ++ (if status = Status.ok ∧ !result.isEmpty then octet 0x0A :: result else [])

/-- The last command of a session kept for its read-back (R592). -/
def noteCmd (h : Nat) (f : Found) (text : Octets) (d : Dev) : Dev :=
  { d.setSession h (fun s => { s with cmdLast := nset [] s.cmdLast f.key text }) with lastResult := text }

end Dev

end Sys2Proof.Machine
end

