-- ==== Sys2Proof/Machine/Checks.lean ====
section
/-! DEFINITION. What refuses a write: role, type, length, range, and the rules across entries, in the order of Table 2-7. -/

namespace Sys2Proof.Machine

/-- Who writes: a session and its role. -/
structure Giver where
  session : Nat
  role : Role
  deriving DecidableEq, Repr

/-- The type of a wire code (Table 2-1). -/
def tyOfCode (c : Nat) : Option Ty :=
  [Ty.bool, .u8, .u16, .u32, .u64, .i8, .i16, .i32, .i64, .q4_20, .u13_19, .str, .blob, .key, .cmd].find? fun t => t.code == c

/-- The first status of a list that is not OK. -/
def firstBad (l : List Status) : Status := (l.find? fun s => s != Status.ok).getD Status.ok

/-- A status where a condition holds, OK where it does not. -/
def badIf (b : Bool) (s : Status) : Status := if b then s else Status.ok

/-- Whether no role may write an entry: read and CONST rows, and elements that their tables fix (Tables 9-9, 11-3, 17-5, R119). -/
def readOnly (f : Found) : Bool :=
  f.row.access.isNone || f.row.commit == .const || (f.is Reg.dirPoint && f.i == 0) ||
    ((f.is Reg.sensorWarnLow || f.is Reg.sensorWarnHigh) && f.i == 8) || (f.is Reg.wclkRate && decide (2 ≤ f.i)) ||
    ((f.is Reg.rxRingLength || f.is Reg.rxRingBufferSize) && decide (f.i < 12))

/-- Whether a value lies in the range that its table states (R25 and the chapters' tables). -/
def inRange (g : Range) (v : Val) : Bool :=
  match g, v with
  | .any, _ => true
  | .within lo hi, .int x => decide (lo ≤ x) && decide (x ≤ hi)
  | .among l, .int x => l.contains x
  | .withinOr lo hi y, .int x => x == y || (decide (lo ≤ x) && decide (x ≤ hi))
  | .steps lo hi k, .int x => decide (lo ≤ x) && decide (x ≤ hi) && (x - lo) % k == 0
  | .maxLen n, .bytes b => b.length ≤ n
  | .lenBetween lo hi, .bytes b => lo ≤ b.length && b.length ≤ hi
  | _, _ => false

/-- The largest size that a block transfer may write (R57): a BLOB's stated maximum, or the longest wire form. -/
def maxSize (r : Row) : Nat :=
  match r.ty with
  | .blob => (match r.range with | .maxLen n => n | .lenBetween _ n => n | _ => 2 ^ 32 - 1)
  | .key => 2048
  | .str | .cmd => 258
  | t => t.size

/-- The check of a classifier rule (R270). -/
def ruleCheck (b : Octets) : Status :=
  if b.length ≠ 24 then Status.badLength
  else
    let n := fromBE b
    badIf (n.testBit 7 || bits n 31 28 ≠ 0 || bits n 191 160 ≠ 0 || decide (1 < bits n 11 8) ||
      (bits n 11 8 == 1 && decide (bits n 15 12 < 12)) || decide (32 < bits n 111 104)) Status.range

/-- The check of a TDM port's slot list: 32 slots of 16 bits. -/
def slotListCheck (b : Octets) : Status :=
  if b.length ≠ 64 then Status.badLength
  else badIf ((List.range 32).any fun i => beAt b (2 * i) 2 ≠ 0xFFFF && decide (4095 < beAt b (2 * i) 2)) Status.range

namespace Dev

/-- The state with a value in force in place of the present one, to check rules across entries. -/
def trial (d : Dev) (f : Found) (v : Val) : Dev := d.setVal f.row v f.i f.j

/-! ### Configuration of the system -/

/-- The entries that the certified configuration closes (R524), and perturbation in BOOT and FAULT (R542). -/
def checkClosed (d : Dev) (f : Found) (v : Val) : Status :=
  firstBad [
    badIf (d.certified && (f.is Reg.timeTestMode || (f.is Reg.mgmtPromiscuous && v.toInt == 1) || f.is Reg.perturbTimeout)) Status.state,
    badIf (f.is Reg.timeTestMode && d.power.state == .onShow) Status.state,
    badIf (f.is Reg.perturbSlot && (d.perturbClosed || d.slotArmed f.i)) Status.state]

/-- A value of an entry of the ports, the network and communication (R54, R64, R260, R286, R295). -/
def checkPorts (d : Dev) (f : Found) (v : Val) : Status :=
  let n := v.toInt.toNat
  let e := d.trial f v
  if f.is Reg.portEnable || f.is Reg.speedMode || f.is Reg.fecMode then (d.portConfigWrite f.i f.row.sub n).1
  else if f.is Reg.dradaEnable || f.is Reg.dradaRateMode || f.is Reg.dradaFecMode || f.is Reg.dradaMacsec then (d.dradaConfig f.i f.row.sub n).1
  else if f.is Reg.mapUdpPort then badIf (n == 0 && d.flag Reg.mapEnable f.i) Status.range
  else if f.is Reg.canArbitrationRate || f.is Reg.canDataRate then
    badIf (decide (e.nat Reg.canDataRate < e.nat Reg.canArbitrationRate)) Status.range
  else if f.is Reg.maxFrame || f.is Reg.macsecMode then
    badIf ((e.rxFlows.any fun g => !(e.fitsPort (e.rxWire g) (e.nat Reg.rxPort g) && e.fitsPort (e.rxWire g) (e.nat Reg.rxSecondPort g))) ||
      (e.txFlows.any fun g => !(e.fitsPort (e.txWire g) (e.nat Reg.txPort g) && e.fitsPort (e.txWire g) (e.nat Reg.txSecondPort g)))) Status.range
  else if f.is Reg.classRule then ruleCheck v.toBytes
  else Status.ok

/-- A value of an entry of time and of the supervisor (Tables 11-3, 11-4, 17-5, 17-6). -/
def checkSystem (d : Dev) (f : Found) (v : Val) : Status :=
  let x := v.toInt
  let e := d.trial f v
  if f.is Reg.kindLevel then badIf (if f.i = 0 then x != 0 else !(decide (1 ≤ x) && decide (x ≤ 7))) Status.range
  else if f.is Reg.sensorWarnLow || f.is Reg.sensorWarnHigh then (d.sensorLimitWrite f.i (f.is Reg.sensorWarnHigh) x).1
  else if f.is Reg.fanTempLow || f.is Reg.fanTempHigh then badIf (decide (e.int Reg.fanTempHigh ≤ e.int Reg.fanTempLow)) Status.range
  else if f.is Reg.alertMask then badIf (x % 2 == 0) Status.range
  else if f.is Reg.recorderTriggerMask then badIf (x % 4 != 3) Status.range
  else if f.is Reg.recorderPostTrigger then badIf (decide (10 * (d.fr : Int) < x)) Status.range
  else if f.is Reg.qualifyTime then badIf (f.i == 2 && decide (x < 10000)) Status.range
  else if f.is Reg.sourcePriority then
    let l := (List.range 6).filterMap fun j => let c := e.nat Reg.sourcePriority 0 j; if c = 0 then none else some c
    badIf (l.eraseDups.length ≠ l.length) Status.conflict
  else if f.is Reg.revokedCerts then badIf (v.toBytes.length % 48 ≠ 0) Status.badLength
  else if f.is Reg.perturbSlot then slotRecCheck v.toBytes
  else match ptpRange (d.nat Reg.ptpProfile) f.row with
    | some r => badIf (!(decide (r.2.1 ≤ x) && decide (x ≤ r.2.2))) Status.range
    | none => Status.ok

/-- A value of an entry that a session holds for itself (R159, R377, R500). -/
def checkSelect (d : Dev) (pl : Place) (f : Found) (n : Nat) : Status :=
  if f.is Reg.xpReadSelect then
    badIf (decide (131072 < bits n 47 32 * bits n 15 0) || decide (d.objectsAt pl < bits n 63 48 + bits n 47 32) ||
      decide (d.outputsAt pl < bits n 31 16 + bits n 15 0)) Status.range
  else if f.is Reg.logReadSelect then badIf (decide (131072 < n % 2 ^ 32)) Status.range
  else if f.is Reg.recorderReadSelect then badIf (!d.recSelectOk n) Status.range
  else Status.ok

/-! ### The data path -/

/-- A value of an object, output or correction entry (R119, R204, R210, R213, R222). -/
def checkScene (d : Dev) (f : Found) (v : Val) : Status :=
  let n := v.toInt.toNat
  if f.is Reg.objectBulkDelay then badIf (decide (2 * d.fr < n)) Status.range
  else if f.is Reg.outputDelay then badIf (decide (d.delayMax < n)) Status.range
  else if f.is Reg.outputEgressSlot then badIf (d.egressConflict f.i n) Status.conflict
  else if f.is Reg.biquadCoeffs then biquadCheck v.toBytes
  else if f.is Reg.firFilter then
    let b := v.toBytes
    if b.length < 2 ∨ b.length ≠ 2 + 3 * beAt b 0 2 then Status.badLength else badIf (decide (d.firMax < beAt b 0 2)) Status.range
  else Status.ok

/-- A value of an entry of the conversion pool, a TDM port, the headset or the recorder (R12, R230, R353, R357, R372). -/
def checkLocal (d : Dev) (f : Found) (v : Val) : Status :=
  let n := v.toInt.toNat
  let e := d.trial f v
  if f.is Reg.convSourceKind || f.is Reg.convSourceIndex || f.is Reg.convSourceChannel || f.is Reg.convSlot then
    firstBad [badIf (!e.convSourceOk f.i) Status.range, badIf (!e.writersOk) Status.conflict]
  else if f.is Reg.headsetMicSlot then badIf (!e.writersOk) Status.conflict
  else if f.is Reg.tdmInSlots then firstBad [slotListCheck v.toBytes, badIf (!e.writersOk) Status.conflict]
  else if f.is Reg.tdmOutSlots then slotListCheck v.toBytes
  else if f.row.base = Reg.tdmRole.base ∧ (tdmRow f.row.sub).isSome then (d.tdmConfigWrite f.i f.row.sub n).1
  else if f.is Reg.recChannel then badIf (decide (3 ≤ n / 8192) && decide (n / 8192 ≤ 6)) Status.range
  else Status.ok

/-- Whether an entry that waits will select a bank of a flow (R308). -/
def bankAwaited (d : Dev) (row : Row) (flow bank : Nat) : Bool :=
  d.cal.entries.any fun x => CalEntry.waits x.2 && x.2.changes.any fun c => c.index == row.base + flow && c.sub == row.sub && c.val == .int bank

/-- A slot table: its own check, and only into the inactive bank (R307, R308). -/
def checkTable (d : Dev) (f : Found) (v : Val) : Status :=
  let rx := f.is Reg.rxSlotsA || f.is Reg.rxSlotsB
  let bank := if f.is Reg.rxSlotsB || f.is Reg.txSlotsB then 1 else 0
  let row := if rx then Reg.rxBank else Reg.txBank
  firstBad [slotTableCheck rx v.toBytes, badIf (d.nat row f.i == bank) Status.conflict, badIf (d.bankAwaited row f.i bank) Status.state]

/-- A value of a flow's entry, against the flow's other settings (R295, R298, R312). -/
def checkFlow (d : Dev) (f : Found) (v : Val) : Status :=
  let e := d.trial f v
  if f.is Reg.rxSlotsA || f.is Reg.rxSlotsB || f.is Reg.txSlotsA || f.is Reg.txSlotsB then d.checkTable f v
  else if f.row.base ≠ Reg.rxEnable.base ∨ f.is Reg.rxBank ∨ f.is Reg.txBank then Status.ok
  else if f.row.sub < 0x20 then
    let g := if f.is Reg.rxGroup then e else e.setNat Reg.rxEnable 0 f.i
    badIf (!g.rxFlowOk f.i || decide (128 < e.rxDual)) Status.range
  else if f.row.sub < 0x60 then
    let g := if f.is Reg.txGroup then e else e.setNat Reg.txEnable 0 f.i
    badIf (!g.txFlowOk f.i || decide (128 < e.txDual)) Status.range
  else Status.ok

/-- A mix programme image (R189), and for a module below the head an object plane that it does not write (R470). -/
def checkImage (d : Dev) (b : Octets) : Status :=
  match verifyImage b d.fr d.outs with
  | some r => if r / 2 ^ 24 = 9 then Status.conflict else Status.range
  | none => badIf (d.belowHead && (programmeOf b).cores.any fun c => match c with | some k => k.objectSet ≠ 0 | none => false) Status.conflict

/-- A value of a crosspoint or mix entry (R157, R189, R196, R198). -/
def checkMatrix (d : Dev) (pl : Place) (f : Found) (v : Val) : Status :=
  if f.is Reg.xpPatch then
    let r := d.patchCheck (d.objectsAt pl) (d.outputsAt pl) v.toBytes
    let leaf := match pl with | .part _ => true | .whole => decide (d.parts ≤ 1) | _ => false
    if r.2 then Status.ok else firstBad [r.1, badIf (!leaf) Status.conflict]
  else if f.is Reg.routePatch then (d.routePatchCheck v.toBytes).1
  else if f.row.base = Reg.routeCell.base then
    let n := v.toInt.toNat
    let g := wrapS 32 (n % 2 ^ 32 : Nat)
    badIf (decide (2 ^ 48 ≤ n) || !(decide (-8388608 ≤ g) && decide (g < 8388608)) || !sourceOk (f.i * 256 + f.j) (bits n 47 32) d.outs) Status.range
  else if f.is Reg.programmeImage then d.checkImage v.toBytes
  else Status.ok

/-! ### A whole write -/

/-- Whether a type has a value: the numbers of Table 2-1 (R37). -/
def typeHolds (t : Ty) (x : Int) : Bool :=
  match t with
  | .bool => decide (0 ≤ x) && decide (x ≤ 1)
  | .q4_20 => decide (-8388608 ≤ x) && decide (x < 8388608)
  | t => if t.isBytes then true
    else if t.signed then decide (-(2 ^ (8 * t.size - 1)) ≤ x) && decide (x < 2 ^ (8 * t.size - 1))
    else decide (0 ≤ x) && decide (x < 2 ^ (8 * t.size))

/-- What refuses a value of an entry, its type and length being right. -/
def checkValue (d : Dev) (pl : Place) (f : Found) (v : Val) : Status :=
  if !(f.is Reg.kindLevel || inRange f.row.range v) || !typeHolds f.row.ty v.toInt then Status.range
  else
    firstBad [d.checkPorts f v, d.checkSystem f v, d.checkSelect pl f v.toInt.toNat, d.checkScene f v, d.checkLocal f v, d.checkFlow f v,
      d.checkMatrix pl f v, d.checkClosed f v]

/-- Whether the unit is a standby that refuses a write of an entry (R435). -/
def standbyRefuses (d : Dev) (f : Found) : Bool :=
  (d.nat Reg.pairState == 5 || d.nat Reg.pairState == 6) && !perUnitIndex f.index f.sub

/-- What refuses a write by its writer: an entry that is not written, a role too weak (R38, R63). -/
def checkAccess (g : Giver) (f : Found) : Status :=
  if readOnly f then Status.readOnly
  else match f.row.access with
    | some r => badIf (decide (g.role.rank < r.rank)) Status.role
    | none => Status.readOnly

/-- The value that a write's octets give an entry, or what refuses it: the entry, its access, its type, its length (Table 2-7).
BLOB and KEY entries are written by block transfer only (Table 2-1). -/
def parseWrite (d : Dev) (g : Giver) (pl : Place) (block : Bool) (idx sub code : Nat) (raw : Octets) : Except Status (Found × Val) :=
  match d.locate pl idx sub with
  | .error s => .error s
  | .ok f =>
    let a := checkAccess g f
    if a ≠ Status.ok then .error a
    else if f.row.ty.code ≠ code ∨ (!block && (f.row.ty == .blob || f.row.ty == .key)) then .error Status.type
    else match decodeWire f.row.ty raw with
      | .error s => .error s
      | .ok v =>
        if f.row.ty = .key && !((keySlot idx sub).getD fun _ => false) raw.length then .error Status.badLength
        else if d.standbyRefuses f then .error Status.state
        else .ok (f, v)

/-- A write checked whole, the state conditions of a command entry included (R55). -/
def checkWrite (d : Dev) (mem : List Host.Cell) (g : Giver) (pl : Place) (block : Bool) (idx sub code : Nat) (raw : Octets) : Except Status (Found × Val) :=
  match d.parseWrite g pl block idx sub code raw with
  | .error s => .error s
  | .ok r =>
    let s := if r.1.row.ty = .cmd then (d.giveCmd mem g.role r.1 r.2.toBytes).1
      else if r.1.row.ty = .key then Status.ok
      else if r.1.away.isSome then badIf (!inRange r.1.row.range r.2) Status.range
      else d.checkValue pl r.1 r.2
    if s = Status.ok then .ok r else .error s

end Dev

end Sys2Proof.Machine
end

