-- ==== Sys2Proof/Machine/Writes.lean ====
section
/-! DEFINITION. IMMEDIATE and REBOOT writes and commands: what they change, ConfigEpoch, the mirror to a standby (R39, R40, R70, R436). -/

namespace Sys2Proof.Machine

/-- An element of a row of this module, in the module's own numbering. -/
def foundOf (r : Row) (i : Nat := 0) (j : Nat := 0) : Found := { row := r, i, j, index := r.base + i, sub := r.sub + j, away := none }

namespace Dev

/-! ### The value of an entry (R39, R40) -/

/-- A value stored, in MRAM as well where the entry is persistent or a REBOOT entry (R40). -/
def storeValue (f : Found) (v : Val) (d : Dev) : Dev :=
  let d := d.setVal f.row v f.i f.j
  if f.row.persistent || f.row.commit == .reboot then d.keep f.row f.i f.j else d

/-- The value of a session's own entry. -/
def storeSelect (h : Nat) (f : Found) (x : Int) (d : Dev) : Dev :=
  d.setSession h fun s => { s with selects := nset (f.row.default 0 0).toInt s.selects f.row.key x }

/-- ConfigEpoch counts a write or a commit (R70). -/
def bumpEpoch (d : Dev) : Dev := d.bump Reg.configEpoch

/-! ### What follows from a write -/

/-- Every port's PTP state after a change of the entries that say where PTP runs (R343, R350). -/
def ptpPorts (d : Dev) : Dev := (List.range 5).foldl (fun d p => d.ptpPort p) d

/-- A write of MapEnable or MapUdpPort to MapObjectCount: the map is unseeded, except as it is switched off (R68). -/
def mapWrite (f : Found) (v : Val) (d : Dev) : Dev :=
  let rises := !d.flag Reg.mapEnable f.i && v.toInt == 1
  let d := d.storeValue f v
  (if f.is Reg.mapEnable && !rises then d else d.unseed f.i).refreshGaps

/-- A write of InputEnable or WclkRate: the input qualifies anew (R337, R338). -/
def inputWrite (f : Found) (v : Val) (d : Dev) : Dev :=
  ((d.storeValue f v).setInput f.i fun c => { c with lastEdge := none, periods := [], edges := [], lost := true }).disqualify f.i

/-- A write of SourcePriority: a selected source that is no longer ranked is lost (R334). -/
def priorityWrite (f : Found) (v : Val) (d : Dev) : Dev :=
  let d := d.storeValue f v
  let sel := d.nat Reg.selectedSource
  if sel = 0 ∨ d.sourceRanks.contains sel then d else d.sourceLost sel

/-- A write of an entry of the ports, PTP, inputs or links that acts at once. -/
def linkWrite (f : Found) (v : Val) (d : Dev) : Option Dev :=
  let n := v.toInt.toNat
  if f.is Reg.portEnable || f.is Reg.speedMode || f.is Reg.fecMode then some (d.onLink f.i fun d => (d.portConfigWrite f.i f.row.sub n).2)
  else if f.is Reg.dradaEnable || f.is Reg.dradaRateMode || f.is Reg.dradaFecMode || f.is Reg.dradaMacsec then some (d.dradaConfig f.i f.row.sub n).2
  else if f.is Reg.ptpProfile then some (if d.nat Reg.ptpProfile = n then d else (d.ptpProfileSet n).ptpPorts)
  else if f.is Reg.ptpMode || f.is Reg.ptpPortEnable || f.is Reg.ptpPrimaryPort then some ((d.storeValue f v).ptpPorts)
  else if f.is Reg.inputEnable || f.is Reg.wclkRate then some (d.inputWrite f v)
  else if f.is Reg.sourcePriority then some (d.priorityWrite f v)
  else if f.is Reg.timeTestMode then some (d.timeTestMode n).2
  else if f.is Reg.canNoticeHost then some ((d.storeValue f v).canSession n)
  else if f.is Reg.macsecMode then some (((d.storeValue f v).macsecModeSet f.i).refreshGaps)
  else if f.is Reg.mgmtPauseMode then some ((if n = 0 then (d.storeValue f v).releasePause else d.storeValue f v).pauseCheck)
  else if f.is Reg.mgmtEeeEnable then some ((if n = 1 then d.storeValue f v else (d.storeValue f v).endLpi 4).lldpSend)
  else if f.is Reg.mgmtEeeTwOwn then some ((d.storeValue f v).lldpSend)
  else if f.row.base = Reg.mapEnable.base ∧ f.row.sub ≤ 6 then some (d.mapWrite f v)
  else none

/-- A write of an entry of local I/O, memory, supervisor or power that acts at once. -/
def unitWrite (f : Found) (v : Val) (d : Dev) : Option Dev :=
  let x := v.toInt
  let n := x.toNat
  if f.row.base = Reg.tdmRole.base ∧ (tdmRow f.row.sub).isSome then some (d.tdmConfigWrite f.i f.row.sub n).2
  else if f.is Reg.tdmRxMaskPending then some (d.tdmMaskWrite f.i false n)
  else if f.is Reg.tdmTxMaskPending then some (d.tdmMaskWrite f.i true n)
  else if f.is Reg.sideToneGain then some ((d.storeValue f v).sideGainSet x)
  else if f.is Reg.headsetButtonMode then some ((d.storeValue f v).micUpdate d.micHeard)
  else if f.is Reg.recorderEnable then some ((d.storeValue f v).recEnable d.power.state.runs (d.mscNow + 1))
  else if f.is Reg.arbPriorityDefault then some (d.arbPriorityWrite f.i n).2
  else if f.is Reg.sensorWarnLow || f.is Reg.sensorWarnHigh then some (d.sensorLimitWrite f.i (f.is Reg.sensorWarnHigh) x).2
  else if f.is Reg.fanMode || f.is Reg.fanDuty then some (d.storeValue f v).fanForce
  else if f.is Reg.showRequest then some (d.showRequest n).2
  else if f.is Reg.perturbSlot then some ((d.storeValue f v).setNat Reg.perturbSlotState (if (v.toBytes.drop 23) = [octet 0] then 0 else 1) f.i)
  else none

/-- CanKey written: every freshness counter goes to 0 (R52). -/
def canKeyReset (d : Dev) : Dev :=
  let d := (d.setNat Reg.canFreshnessTx 0).keep Reg.canFreshnessTx
  (List.range 127).foldl (fun d i => (d.setNat Reg.canFreshnessRx 0 i).keep Reg.canFreshnessRx i) d

/-- A key entry written (R512). -/
def keyWrite (f : Found) (v : Val) (d : Dev) : Dev :=
  let d := d.setKey f.index f.sub v.toBytes
  if f.is Reg.canKey then d.canKeyReset else d

/-- The value of an IMMEDIATE or REBOOT entry put in place, with what follows from it (R39). -/
def applyEffect (h : Nat) (f : Found) (v : Val) (d : Dev) : Dev :=
  if perSession f.row then d.storeSelect h f v.toInt
    else if f.row.ty = .key then d.keyWrite f v
    else match d.linkWrite f v with
      | some e => e
      | none => (d.unitWrite f v).getD (d.storeValue f v)

/-- A write of an IMMEDIATE or REBOOT entry: its effect, and ConfigEpoch (R70). -/
def applyWrite (h : Nat) (f : Found) (v : Val) (d : Dev) : Dev := (d.applyEffect h f v).bumpEpoch

/-! ### The mirror (R434, R436) -/

/-- Whether a write of an entry goes to a standby. -/
def mirrors (d : Dev) (f : Found) : Bool :=
  d.paired && d.isLead && !perUnitIndex f.index f.sub && !perSession f.row

/-- One write as the lead sends it to its standby: index, sub-index, length, value in wire form. -/
def mirrorOctets (f : Found) (wire : Octets) : Octets := mirrorItem (f.row.base + f.i) f.sub wire

/-- A write goes to the standby, no response waiting for it. -/
def mirrorPlain (f : Found) (wire : Octets) (d : Dev) : Dev :=
  if d.mirrors f then d.mirrorLoose (mirrorOctets f wire) else d

/-- One mirrored write applied at the standby; none where it cannot be (R436). -/
def mirrorApply (mem : List Host.Cell) (w : Nat × Nat × Octets) (d : Dev) : Option Dev :=
  match d.locate .whole w.1 w.2.1 with
  | .error _ => none
  | .ok f =>
    match decodeWire f.row.ty w.2.2 with
    | .error _ => none
    | .ok v =>
      if f.row.access.isNone || f.row.commit == .dated || f.row.commit == .const then none
      else if f.row.ty = .cmd then some (d.giveCmd mem .vendor f v.toBytes).2.2.bumpEpoch
      else some (d.applyWrite 0 f v)

/-- MIRROR_WRITE: the standby applies the writes of a message and acknowledges it, or is stale (R436). -/
def mirrorWrite (mem : List Host.Cell) (id : Nat) (writes : List (Nat × Nat × Octets)) (d : Dev) : Dev :=
  if d.lone ∨ !(d.nat Reg.pairState = 5 ∨ d.nat Reg.pairState = 6) then d
  else
    match writes.foldl (fun (a : Option Dev) w => a.bind (mirrorApply mem w)) (some d) with
    | some e => (e.tellPartner 5 (toBE 4 id)).afterResponse
    | none => d.goStale

/-! ### Commands and writes given by a row of their own -/

/-- A command entry given outside a request frame: its status, its read-back, its mirror, and what follows a response. -/
def ranCommand (f : Found) (text : Octets) (act : Dev → Status × Octets × Dev) (d : Dev) : Dev :=
  let r := if d.standbyRefuses f then refusedWith Status.state d else act d
  let e := if r.1 = Status.ok then r.2.2.bumpEpoch.mirrorPlain f (strWire text) else r.2.2
  ({ e with lastStatus := r.1, lastResult := cmdBack text r.1 r.2.1 }).afterResponse

/-- A command entry given as text. -/
def textCommand (mem : List Host.Cell) (role : Role) (r : Row) (i : Nat) (text : Octets) (d : Dev) : Dev :=
  d.ranCommand (foundOf r i) text fun d => d.giveCmd mem role (foundOf r i) text

/-- A value given to an entry outside a request frame: every check but the role's, then its effect. -/
def valueCommand (r : Row) (i j : Nat) (v : Val) (d : Dev) : Dev :=
  let f := foundOf r i j
  let s := match d.locate .whole f.index f.sub with
    | .error s => s
    | .ok _ => if readOnly f then Status.readOnly else if d.standbyRefuses f then Status.state else d.checkValue .whole f v
  if s = Status.ok then { (d.applyWrite 0 f v).mirrorPlain f (valWire r.ty v) with lastStatus := s } else { d with lastStatus := s }

/-- A number given to the entry of a family of rows that a sub-index names; another sub-index names none of them. -/
def subCommand (rows : List Row) (i sub : Nat) (v : Int) (d : Dev) : Dev :=
  match rows.find? fun r => r.sub == sub with
  | some r => d.valueCommand r i 0 (.int v)
  | none => { d with lastStatus := Status.noSub }

end Dev

end Sys2Proof.Machine
end

