-- ==== Sys2Proof/Machine/Commit.lean ====
section
/-! DEFINITION. What a committed calendar entry does at its boundary: values, marks, ramps, swaps, journal (R14, R40, R88, R92). -/

namespace Sys2Proof.Machine

/-- A change that this module holds: the partition addressed, the element, its new value. -/
structure LocalChange where
  part : Nat
  found : Found
  val : Val
  deriving DecidableEq, Repr

/-- Whether a change is to an element of a row. -/
def LocalChange.is (c : LocalChange) (r : Row) : Bool := c.found.is r

/-- The elements of a row that a list of changes names, each once, in ascending order. -/
def elemsOf (l : List LocalChange) (p : LocalChange → Bool) : List Nat :=
  ((l.filter p).foldl (fun (m : NMap Unit) c => nput m c.found.i ()) []).map (·.1)

/-- Whether a change restarts its receive flow: RxEnable to RxLinkOffset (R301). -/
def restartsRx (c : LocalChange) : Bool := c.found.row.base == Reg.rxEnable.base && decide (c.found.row.sub ≤ 0x0E)

/-- Whether a change assigns its pool channel (R230). -/
def assignsConv (c : LocalChange) : Bool :=
  c.is Reg.convSourceKind || c.is Reg.convSourceIndex || c.is Reg.convSourceChannel || c.is Reg.convSlot

/-- Whether a change marks every object of laws 1 to 3 (R128). -/
def marksAll (c : LocalChange) : Bool :=
  c.found.row.base == Reg.speakerEnable.base || c.found.row.base == Reg.zoneGain.base || c.found.row.base == Reg.dirPoint.base ||
    c.is Reg.soundMode || c.is Reg.speedOfSound || c.is Reg.airTemperature || c.is Reg.minDistance || c.is Reg.gainCeil

/-- The octets that an entry takes in the journal region: 16, and for each change 8 and its value. DESIGN CHOICE (log entry 75): the
spec gives the region's size and not the form of an entry. -/
def JournalRec.octets (r : JournalRec) : Nat := r.changes.foldl (fun n (c : Change) => n + 8 + c.val.toBytes.length) 16

/-- The newest entries that fit in the journal region of 4 GiB, of a list that takes `n` octets (R383). -/
def fitJournal (n : Nat) (l : List JournalRec) : List JournalRec :=
  match l with
  | [] => []
  | r :: t => if n ≤ 2 ^ 32 then r :: t else fitJournal (n - r.octets) t

namespace Dev

/-- The changes of an entry that this module holds, in body order. -/
def changesHere (d : Dev) (e : CalEntry) : List LocalChange :=
  let pl := d.placeOf e.unit
  let p := match pl with | .part p => p | _ => 0
  e.changes.filterMap fun c =>
    match d.locate pl c.index c.sub with
    | .ok f => if f.away.isNone then some { part := p, found := f, val := c.val } else none
    | .error _ => none

/-- A value put in force at a boundary, the one before it kept for earlier dates; kept in MRAM where the entry is persistent
(R14, R40). Route cells stand in the programme; entries of other classes come in an image only (R93). -/
def commitValue (date : Nat) (d : Dev) (c : LocalChange) : Dev :=
  let f := c.found
  if f.row.base = Reg.routeCell.base then d
  else if f.row.commit ≠ .dated then d.applyEffect 0 f c.val
  else
    let d := if f.is Reg.outputMute then { d with corr := { d.corr with startMuted := d.corr.startMuted.filter (· ≠ f.i) } } else d
    let old := d.val f.row f.i f.j
    let d := d.setVal f.row c.val f.i f.j
    let d := if f.row.persistent || f.is Reg.programmeImage then d.keep f.row f.i f.j else d
    if f.is Reg.programmeImage || f.is Reg.routePatch || f.is Reg.xpPatch then d
    else { d with dated := { date, key := f.key, old } :: d.dated }

/-! ### The scene (R127, R128, R157) -/

/-- The mark of an object whose record commits (R128): in full where its outputs may change, leaving where it is disabled. -/
def markObject (date : Nat) (d : Dev) (c : LocalChange) : Dev :=
  if c.found.row.base ≠ Reg.objectEnable.base then d
  else
    let n := c.found.i
    let full := c.is Reg.objectLaw || c.is Reg.objectZoneMask
    d.markAt 0 date n full (c.is Reg.objectEnable && !d.enabled n && d.natAt (date - 1) Reg.objectEnable n == 1)

/-- A patch that commits (R157). -/
def commitPatch (date : Nat) (d : Dev) (c : LocalChange) : Dev := if c.is Reg.xpPatch then d.patchCommit c.part date c.val.toBytes else d

/-- The scene of a boundary: objects, speakers, zones, sound, patches. -/
def commitScene (date : Nat) (l : List LocalChange) (d : Dev) : Dev :=
  let d := l.foldl (markObject date) d
  let d := if l.any (fun c => c.is Reg.soundMode || c.is Reg.speedOfSound || c.is Reg.airTemperature) then d.refreshSound else d
  let d := if l.any marksAll then d.markAll date else d
  l.foldl (commitPatch date) d

/-! ### Correction and headset (R212, R215, R219, R223, R368) -/

/-- Ramps, crossfades and fades that begin while the data path runs; shadows and fade places are held in any case. -/
def commitRamps (date : Nat) (l : List LocalChange) (d : Dev) : Dev :=
  let d := (elemsOf l (·.is Reg.firFilter)).foldl (fun (d : Dev) m => d.firHeld m date) d
  if !d.power.state.runs then d
  else
    let gain (c : LocalChange) : Bool := c.is Reg.outputGain || c.is Reg.outputPolarity || c.is Reg.outputMute
    let d := (elemsOf l gain).foldl (fun (d : Dev) m => d.gainChanged m date) d
    let d := (elemsOf l (·.is Reg.outputDelay)).foldl (fun (d : Dev) m => d.delayChanged m date) d
    let d := (elemsOf l (·.is Reg.firFilter)).foldl (fun (d : Dev) m => d.firChanged m date) d
    if l.any (·.is Reg.headsetHpGain) then d.hpGainChanged date else d

/-- Committed coefficient sets and filters go into the flash correction store (R223). -/
def commitFlash (l : List LocalChange) (d : Dev) : Dev :=
  let put (row : Row) (d : Dev) : Dev := (elemsOf l (·.is row)).foldl (fun (d : Dev) m => d.liftPut 8 251 (.flashStore m row.sub false)) d
  put Reg.firFilter (put Reg.biquadCoeffs d)

/-! ### Streams and the conversion pool (R230, R301, R309) -/

/-- Flows, ports and pool channels at a boundary. -/
def commitStreams (date : Nat) (l : List LocalChange) (d : Dev) : Dev :=
  let d := (elemsOf l assignsConv).foldl (fun (d : Dev) c => d.convAssign date c) d
  let restart := elemsOf l restartsRx
  let swapRx := elemsOf l (·.is Reg.rxBank)
  let swapTdm := elemsOf l (·.is Reg.tdmInSlots)
  let swapTx := elemsOf l (·.is Reg.txBank)
  let swapOut := elemsOf l (·.is Reg.tdmOutSlots)
  let tx := l.any fun c => c.found.row.base == Reg.rxEnable.base
  if tx ∨ !swapTdm.isEmpty ∨ !swapOut.isEmpty ∨ l.any (fun c => assignsConv c || c.is Reg.headsetMicSlot) then
    d.commitFlows date restart swapRx swapTdm swapTx swapOut
  else d

/-! ### The mix engine (R184, R191 to R195) -/

/-- The targets that route cell changes and route patches leave, by cell: the last of a boundary stands (R41, R196). -/
def routeTargets (l : List LocalChange) : NMap (Nat × Int) :=
  l.foldl (fun (m : NMap (Nat × Int)) c =>
    if c.found.row.base = Reg.routeCell.base then
      let n := c.val.toInt.toNat
      nput m (c.found.i * 256 + c.found.j) (bits n 47 32, wrapS 32 (n % 2 ^ 32 : Nat))
    else if c.is Reg.routePatch then (routePatchRecords c.val.toBytes).foldl (fun m r => nput m r.1 r.2) m
    else m) []

/-- A swap that commits while the data path is stopped needs no dual run: the old programme goes at once. -/
def settleSwap (d : Dev) : Dev :=
  if d.power.state.runs then d
  else
    let d := { d with mix := { d.mix with prev := none, dualLen := 0 } }
    if d.nat Reg.swapStatus = 1 then (d.setNat Reg.swapStatus 2).swapNotice else d

/-- A route cell's change; a stopped data path has no crossfade (R184). -/
def commitRoute (date : Nat) (d : Dev) (c : Nat × Nat × Int) : Dev :=
  if d.power.state.runs then d.routeChange c.1 c.2.1 c.2.2 date
  else
    let x : RouteState := { src := c.2.1, gain := c.2.2, oldSrc := c.2.1, oldGain := c.2.2, start := date, len := 0, kind := 0 }
    { d with mix := { d.mix with cur := { d.mix.cur with cells := nput d.mix.cur.cells c.1 [x] } } }

/-- The mix engine at a boundary: the swap first, route changes on the new programme (R195). -/
def commitMix (date : Nat) (l : List LocalChange) (d : Dev) : Dev :=
  let imgs := l.filter (·.is Reg.programmeImage)
  let d := match imgs.getLast? with
    | some c => (d.swapProgramme c.val.toBytes date).settleSwap
    | none => d
  (routeTargets l).foldl (commitRoute date) d

/-! ### A whole boundary (R14, R88) -/

/-- Every change of a boundary in force, in order, and what follows in each stage. -/
def commitChanges (date : Nat) (l : List LocalChange) (d : Dev) : Dev :=
  let d := l.foldl (commitValue date) d
  let d := (d.commitScene date l).commitRamps date l
  ((d.commitFlash l).commitStreams date l).commitMix date l

/-- The digest job that every commit calls for; until it completes the digests name the earlier boundary (R70). -/
def queueDigest (date : Nat) (d : Dev) : Dev :=
  (if d.lift.waiting.any (fun x => x.job == .digest) then d else d.liftPut 7 252 .digest).setTimer 0xA4D1 date

/-- The journal with a record more: the most recent 16,384 (R92). -/
def journalAdd (r : JournalRec) (d : Dev) : Dev := d.setCal fun c =>
  let l := c.journal ++ [r]
  let l := l.drop (l.length - 16384)
  { c with journal := fitJournal (l.foldl (fun n (x : JournalRec) => n + x.octets) 0) l }

/-- JournalSeq set, in MRAM too (R92). -/
def setJournal (seq : Nat) (d : Dev) : Dev := (d.setNat Reg.journalSeq (seq % 2 ^ 32)).keep Reg.journalSeq

/-- An entry takes the next journal sequence number (R88, R92). -/
def journalEntry (e : CalEntry) (d : Dev) : Nat × Dev :=
  let seq := (d.nat Reg.journalSeq + 1) % 2 ^ 32
  (seq, (d.setJournal seq).journalAdd { seq, date := e.date, unit := e.unit, changes := e.changes })

/-- The reserved items of an entry given back as it commits (R104). -/
def unreserve (n : Nat) (d : Dev) : Dev := { d with lift := { d.lift with reservedItems := d.lift.reservedItems - n } }

end Dev

end Sys2Proof.Machine
end

