-- ==== Sys2Proof/Machine/Prepare.lean ====
section
/-! DEFINITION. Preparing a calendar entry: the joint check, shadow loads, lift-line items, answers (R85, R86, R104, R218, R220). -/

namespace Sys2Proof.Machine

/-- The kinds of shadow load that a change calls for, with their resources (R86, Table 3-7). Resources of kind 4: coefficient
set and limiter of output m at m, gains at 0x10000 + m; of kind 5: the output; of kind 6: receive bank, transmit bank, TDM
inputs, TDM outputs, mix halves, directivity table. -/
def loadsOf (c : LocalChange) : List (Nat × Nat) :=
  let i := c.found.i
  if c.found.row.base = Reg.biquadCoeffs.base then
    (match c.found.row.sub with
    | 1 => [(4, i)] | 2 => [(5, i)] | 4 => [(4, 0x10000 + i)] | 5 => [(4, 0x10000 + i)] | 6 => [(4, 0x10000 + i)]
    | 7 => [(4, i)] | 8 => [(4, i)] | 9 => [(4, i)] | _ => [])
  else if c.is Reg.rxBank then [(6, 0x10000 + i)]
  else if c.is Reg.txBank then [(6, 0x20000 + i)]
  else if c.is Reg.tdmInSlots then [(6, 0x30000 + i)]
  else if c.is Reg.tdmOutSlots then [(6, 0x40000 + i)]
  else if c.is Reg.programmeImage then [(6, 0x50000)]
  else if c.found.row.base = Reg.dirPoint.base then [(6, 0x60000 + i)]
  else []

/-- The flow of a load's item (Table 3-7). -/
def loadFlow (kind res : Nat) : Nat := if kind = 6 then 253 else res % 65536 % 256

namespace Dev

/-- Whether this unit coordinates an entry: one that its calendar decides, unless it is a standby (R85, R91). -/
def coordinates (d : Dev) (e : CalEntry) : Bool := e.foreign == e.handed && d.nat Reg.pairState ≠ 5 && d.nat Reg.pairState ≠ 6

/-! ### The joint check (R12, R86, R222, R230, R295, R306, R309, R312) -/

/-- The entries that wait and come into force before an entry, in their order (R88). -/
def waitingBefore (d : Dev) (e : CalEntry) : List CalEntry :=
  ((d.cal.entries.filter fun x => CalEntry.waits x.2 && decide (x.1 ≠ e.slot) &&
    (decide (x.2.date < e.date) || (x.2.date == e.date && decide (x.2.order < e.order)))).foldl
      (fun (m : NMap CalEntry) x => nput m (x.2.date * 2 ^ 100 + x.2.order) x.2) []).map (·.2)

/-- The state as it will stand at an entry's date, as far as a check needs it. -/
def trialAt (d : Dev) (e : CalEntry) : Dev :=
  (d.waitingBefore e ++ [e]).foldl (fun (t : Dev) x => (d.changesHere x).foldl (fun (t : Dev) c => t.setVal c.found.row c.val c.found.i c.found.j) t) d

/-- The egress write set of the programme that will be in force at an entry's date. -/
def egressSetAt (d : Dev) (e : CalEntry) : Nat :=
  let imgs := (d.waitingBefore e ++ [e]).flatMap fun x => (d.changesHere x).filter (·.is Reg.programmeImage)
  match imgs.getLast? with
  | some c => programmeEgress (programmeOf c.val.toBytes)
  | none => programmeEgress d.mix.cur

/-- Whether the output mapping and an egress write set give no slot two writers (R222, check 0x0C of Table 6-12). -/
def mappingOk (d : Dev) (set : Nat) : Bool :=
  let slots := ((List.range d.outs).map fun m => d.nat Reg.outputEgressSlot m).filter (· ≠ 0xFFFF)
  (slots.foldl (fun (m : NMap Unit) s => nput m s ()) []).length == slots.length && slots.all fun s => !set.testBit s

/-- A media port that the transmit flows would overload (R306). -/
def overloaded (d : Dev) : Option Nat :=
  (List.range 4).find? fun p => (if d.nat Reg.linkSpeed p = 10000 then 9200000000 else 23000000000) < d.txLoadOf p

/-- Whether a change touches a receive flow's, or a transmit flow's, settings. -/
def touchesRx (c : LocalChange) : Bool := c.found.row.base == Reg.rxEnable.base && decide (c.found.row.sub < 0x20)

/-- Whether a change touches a transmit flow's settings. -/
def touchesTx (c : LocalChange) : Bool := c.found.row.base == Reg.rxEnable.base && decide (0x40 ≤ c.found.row.sub)

/-- Whether an entry's changes pass in the state in force at its date: each by itself, and all together. -/
def jointCheck (d : Dev) (e : CalEntry) : Bool :=
  let l := d.changesHere e
  let t := d.trialAt e
  let pl := d.placeOf e.unit
  let mapped := l.any fun c => c.is Reg.outputEgressSlot || c.is Reg.programmeImage
  let checked := l.filter fun c => !(c.is Reg.outputEgressSlot || c.found.row.commit != .dated)
  (checked.all fun c => t.checkValue pl c.found c.val == Status.ok) &&
    (!mapped || t.mappingOk (d.egressSetAt e)) &&
    ((elemsOf l touchesRx).all t.rxFlowOk) && ((elemsOf l touchesTx).all t.txFlowOk) &&
    decide (t.rxDual ≤ 128) && decide (t.txDual ≤ 128) && t.writersOk

/-- The transmit load check of an entry, with notice 0x3408 where it fails (R306). -/
def loadCheck (e : CalEntry) (d : Dev) : Bool × Dev :=
  let tx := elemsOf (d.changesHere e) touchesTx
  if tx.isEmpty then (true, d)
  else match (d.trialAt e).overloaded with
    | some p => (false, d.notice 0x3408 (tx.headD 0 * 65536 + p))
    | none => (true, d)

/-! ### Shadows (R86, R191, R219) -/

/-- Whether a load must have its resource's shadow to itself; held gains do not. -/
def exclusive (kind res : Nat) : Bool := !(kind == 4 && decide (0x10000 ≤ res))

/-- Whether the shadow of a resource is free for an entry: no entry of another date has loaded it, and no committed change
still uses it. -/
def shadowFree (d : Dev) (e : CalEntry) (kind res : Nat) : Bool :=
  let held := d.cal.entries.any fun x => CalEntry.waits x.2 && decide (x.2.date ≠ e.date) && x.2.loads.any fun l => l.1 == kind && l.2.1 == res && l.2.2 != 0
  let used := match kind with
    | 5 => decide (d.mscNow < nget 0 d.corr.shadows res)
    | 6 => res == 0x50000 && d.nat Reg.swapStatus == 1
    | _ => false
  !exclusive kind res || !(held || used)

/-- Loads whose shadow has come free are queued; none where a load finds no place (R104). -/
def pushLoads (e : CalEntry) (d : Dev) : Option (CalEntry × Dev) :=
  e.loads.foldl (fun (a : Option (CalEntry × Dev)) l => a.bind fun (x : CalEntry × Dev) =>
    if l.2.2 = 0 && x.2.shadowFree e l.1 l.2.1 then
      (x.2.liftPut? l.1 (loadFlow l.1 l.2.1) (.load e.slot l.1 l.2.1)).map fun (d : Dev) =>
        ({ x.1 with loads := x.1.loads.map fun (y : Nat × Nat × Nat) => if y = l then (l.1, l.2.1, 1) else y }, d)
    else some x) (some (e, d))

/-! ### Answers (R86, R87) -/

/-- An entry's own unit number in its coordinator's tree. -/
def answerOf (d : Dev) (e : CalEntry) (code : Nat) : CalMsg := .answer (e.slot - 0x10000) d.ownUnit code

/-- Whether an entry is a standby's copy of its lead's. -/
def mirrored (e : CalEntry) : Bool := decide (0x20000 ≤ e.slot) && decide (e.slot < 0x40000)

/-- What state an entry that the head has handed to this unit has reached. -/
def tellState (e : CalEntry) (d : Dev) : Dev :=
  if e.foreign && e.handed then d.tellHead (.state (e.slot - 0x10000) d.ownUnit e.state.code 0) else d

/-- Every participant has answered PREPARED: so is the entry (R83). -/
def checkPrepared (e : CalEntry) (d : Dev) : Dev :=
  if e.state = .preparing ∧ e.participants.all (fun u => e.answers.any fun a => a.1 == u) then
    (d.putCal { e with state := .prepared }).tellState { e with state := .prepared }
  else d.putCal e

/-- A participant's answer at the coordinator: any cause refuses the entry (R83, R86). -/
def answered (e : CalEntry) (u code : Nat) (d : Dev) : Dev :=
  if code ≠ 0 then d.refuseEntry e u code
  else d.checkPrepared { e with answers := (e.answers.filter fun a => a.1 ≠ u) ++ [(u, 0)] }

/-- This unit's own answer: to itself, or to the coordinator. A standby that cannot prepare has missed its lead's commit and
is stale (R91, R436). -/
def ownAnswer (e : CalEntry) (code : Nat) (d : Dev) : Dev :=
  if e.foreign == e.handed then d.answered e d.ownUnit code
  else
    let d := if mirrored e then d else d.tellHead (d.answerOf e code)
    if code = 0 then d.putCal { e with state := .prepared }
    else
      let d := (d.releaseEntry e).freeCal e.slot
      if mirrored e then d.goStale else d

/-- An item that the prepare of an entry needs finds no free place: the prepare fails with cause 0x02 (R86, R104). -/
def noPlace (e : CalEntry) (kind : Nat) (d : Dev) : Dev := (d.liftFullNotice kind).ownAnswer e 2

/-- The kind of the loads that an entry still has to queue. -/
def loadKind (e : CalEntry) : Nat := ((e.loads.find? fun l => l.2.2 = 0).map fun l => l.1).getD 1

/-- The work of preparing an entry begins here: checks, items, the place reserved for its commit (R86, R104). -/
def beginPrepare (e : CalEntry) (d : Dev) : Dev :=
  if !(d.power.state == .quiet || d.power.state.runs) then d.ownAnswer e 4
  else if !d.jointCheck e then d.ownAnswer e 1
  else
    let r := d.loadCheck e
    if !r.1 then r.2.ownAnswer e 1
    else
      let d := r.2
      let wants := ((d.changesHere e).flatMap loadsOf).eraseDups
      match d.liftPut? 1 (e.slot % 1024 % 256) (.prepare e.slot) with
      | none => d.noPlace e 1
      | some d =>
        if !d.liftRoom (d.kindLevel 1) then d.noPlace e 1
        else
          let d := { d with lift := { d.lift with reservedItems := d.lift.reservedItems + 1 } }
          let e := { e with state := .preparing, reserved := 1, loads := (1, 0, 1) :: wants.map fun w => (w.1, w.2, 0) }
          match d.pushLoads e with
          | none => d.noPlace e (loadKind e)
          | some x => x.2.putCal x.1

/-- PREPARE_START: at max(close, boundary − CalendarPrepareLead) the coordinator fixes the participants (R85). A standby's copy
is prepared at the same time. -/
def prepareStart (slot : Nat) (d : Dev) : Dev :=
  match d.entryAt slot with
  | none => d
  | some e =>
    if e.state ≠ .staged then d
    else match d.reachMsc (max e.closedAt (e.date - d.nat Reg.calendarPrepareLead)) with
      | none => d
      | some d =>
        if e.foreign && !e.handed then d.beginPrepare e
        else if !d.coordinates e then d
        else
          let parts := (d.entryModules e).filter fun u => d.nat Reg.unitState u = 2
          let e := { e with state := .preparing, participants := parts }
          let d := parts.foldl (fun (d : Dev) u => if u = d.ownUnit then d else
            d.tellUnit u (.prepare e.slot e.gen u e.role.rank e.date e.order (d.changesFor e u))) ((d.putCal e).tellState e)
          if parts.contains d.ownUnit then d.beginPrepare e else d.checkPrepared e

/-- PREPARE_ANSWER: the work of preparing an entry is done here and the unit answers; loads that waited for their shadow
begin (R86, R218). -/
def prepareAnswer (slot : Nat) (d : Dev) : Dev :=
  match d.entryAt slot with
  | none => d
  | some e =>
    if e.state ≠ .preparing ∨ e.loads.isEmpty ∨ (e.foreign == e.handed ∧ e.answers.any fun a => a.1 = d.ownUnit) then d
    else match d.pushLoads e with
      | none => d.noPlace e (loadKind e)
      | some x =>
        if !(x.1.loads.all fun l => l.2.2 == 2) then x.2.putCal x.1
        else if (x.1.loads.any fun l => l.1 == 5) && decide (e.date < e.spectraAt + 2 * x.2.bMax) then x.2.ownAnswer x.1 3
        else x.2.ownAnswer x.1 0

/-- A load or the prepare item of an entry has completed. -/
def loadDone (slot kind res : Nat) (d : Dev) : Dev :=
  match d.entryAt slot with
  | some e => d.putCal { e with spectraAt := if kind = 5 then d.mscNow else e.spectraAt, loads := e.loads.map fun (l : Nat × Nat × Nat) => if l.1 = kind ∧ l.2.1 = res then (kind, res, 2) else l }
  | none => d

/-- PREPARE_DEADLINE: at the boundary minus 32 samples the coordinator decides (R87). -/
def prepareDeadline (slot : Nat) (d : Dev) : Dev :=
  match d.entryAt slot with
  | none => d
  | some e =>
    if !d.coordinates e ∨ e.decided ∨ !(e.state = .preparing ∨ e.state = .prepared) then d
    else match d.reachMsc (e.date - 32) with
      | none => d
      | some d =>
        if e.state = .prepared ∧ d.mscNow ≤ e.date then
          let e := { e with decided := true }
          (d.putCal e).tellOthers e (.decision e.slot true 0)
        else
          let fails := (e.participants.filter fun u => !(e.answers.any fun a => a.1 = u)).map fun u => (u, if u = d.ownUnit then 3 else 5)
          let e := { e with answers := e.answers ++ fails }
          let d := fails.foldl (fun (d : Dev) x => d.notice 0xA402 (x.1 * 65536 + x.2)) d
          (d.tellOthers e (.decision e.slot false 0)).settle e .refused

/-- FIR_FADE_ASSIGN: at tick D − 2 × B_max the ready changes of boundary D take fades (R220). -/
def firAssign (date : Nat) (d : Dev) : Dev :=
  match d.reachMsc (date - 2 * d.bMax) with
  | none => d
  | some d =>
    if d.mscNow ≠ date - 2 * d.bMax || d.timer 0x7A01 == date then d
    else
      let d := d.setTimer 0x7A01 date
      let ready := (d.cal.entries.filter fun x => CalEntry.waits x.2 && x.2.date == date).flatMap fun x =>
        (x.2.loads.filter fun l => l.1 == 5 && l.2.2 == 2).map fun l => l.2.1
      let ready := ((ready.foldl (fun (m : NMap Unit) k => nput m k ()) []).map (·.1)).filter fun m => !d.corr.fades.any fun a => a.output == m && a.date == date
      if ready.isEmpty then d else d.firFadeAssign date ready

end Dev

end Sys2Proof.Machine
end

