-- ==== Sys2Proof/Machine/Coordinate.lean ====
section
/-! DEFINITION. Commit, confirmation, outcome, journal replay, the calendar's traffic, and the completion of lift-line items (R87 to R93, R101, R448). -/

namespace Sys2Proof.Machine

/-- Where replayed journal entries wait for their boundary. -/
def replaySlot (seq : Nat) : Nat := 0x40000 + seq

/-- Whether an entry is a journal entry that is replayed here. -/
def replayed (e : CalEntry) : Bool := decide (0x40000 ≤ e.slot)

/-- The role of a rank. -/
def roleOfRank (n : Nat) : Role := match n with | 0 => .observer | 1 => .operator | 2 => .engineer | 3 => .service | _ => .vendor

/-- Changes from the wire forms of a message. -/
def changesOf (l : List (Nat × Nat × Octets)) : List Change :=
  l.filterMap fun c => match findRow c.1 c.2.1 with
    | some r => (match Dev.decodeWire r.ty c.2.2 with | .ok v => some { index := c.1, sub := c.2.1, val := v } | .error _ => none)
    | none => none

namespace Dev

/-! ### Staging (R91) -/

/-- The unit that a lead's entry addresses at its standby. -/
def unitAtStandby (d : Dev) (c : Nat) : Nat :=
  if c = 0 then 0 else if 0xFF00 ≤ c ∧ c < 0xFF80 then d.ownUnit + 1 + (c - 0xFF00) else d.ownUnit

/-- An entry's copy goes to the standby (R91). -/
def mirrorEntry (e : CalEntry) (d : Dev) : Dev :=
  d.tellStandby (.prepare e.slot e.gen (d.standbyUnit e.unit) e.role.rank e.date e.order (e.changes.map changeOctets))

/-- The one unit that a single-unit entry concerns, where it is another module that runs: that unit coordinates it (R85). -/
def ownerAway (d : Dev) (e : CalEntry) : Option Nat :=
  match d.entryModules e with
  | [u] => if u ≠ d.ownUnit ∧ !d.multiUnit e ∧ d.nat Reg.unitState u = 2 then some u else none
  | _ => none

/-- An entry closed with a date, its copy with the standby, handed to the unit that coordinates it (R75, R85, R91). -/
def stageEntry (e : CalEntry) (date : Nat) (d : Dev) : Dev :=
  let d := d.stage e date
  match d.entryAt e.slot with
  | none => d
  | some e =>
    match d.ownerAway e with
    | some u =>
      let e := { e with handed := true, participants := [u] }
      ((d.putCal e).mirrorEntry e).queueCal u (.hand e.slot e.gen u e.role.rank e.date e.order (d.changesFor e u))
    | none => d.mirrorEntry e

/-! ### Commit (R88 to R92) -/

/-- The scene, which every module of a group holds. -/
def coversScene (r : Row) (_ _ : Nat) : Bool := sceneRow r && r.count != .outputs

/-- Whether every module that an entry addresses has confirmed it. -/
def allConfirmed (d : Dev) (e : CalEntry) : Bool := (d.entryModules e).all fun u => e.confirmed.contains u

/-- The elements that an entry changes at this unit, in the unit's own numbering, with their new values. -/
def ownChanges (d : Dev) (e : CalEntry) : List (Nat × Nat × Octets) :=
  (d.changesHere e).map fun c => (c.found.key / 256, c.found.key % 256, valWire c.found.row.ty c.val)

/-- What the head keeps of the entries of another unit, to form its image: the values committed there (R93). -/
def keepAway (u : Nat) (l : List (Nat × Nat × Octets)) (d : Dev) : Dev :=
  d.setDrada fun g => { g with held := l.foldl (fun (m : NMap Octets) c => nput m (u * 2 ^ 24 + entryKey c.1 c.2.1) c.2.2) g.held }

/-- The changes that an entry makes at other modules, kept for their images. -/
def keepAllAway (e : CalEntry) (d : Dev) : Dev :=
  (d.entryModules e).foldl (fun (d : Dev) u => if u = d.ownUnit then d else d.keepAway u ((d.changesFor e u).filter fun c => match findRow c.1 c.2.1 with | some r => !coversScene r 0 0 | none => false)) d

/-- Whether the group journal is another unit's: below the head (R92). -/
def journalAway (d : Dev) : Bool := d.drada.formed && d.unitId != 0

/-- A committed entry that this unit has coordinated: in the group journal at the head, else in its own (R88, R92). -/
def journalCommit (e : CalEntry) (d : Dev) : Nat × Dev :=
  if d.journalAway then (0, d.tellHead (.commits e.slot d.ownUnit e.date (d.ownChanges e)))
  else let r := d.journalEntry e; (r.1, r.2.keepAllAway e)

/-- An entry that this unit has coordinated and whose changes are in force: its sequence number, the word to the participants, its
outcome where every addressed unit has confirmed (R88, R89). -/
def committedHere (e : CalEntry) (d : Dev) : Dev :=
  let r := d.journalCommit e
  let e := { e with applied := true, journalSeq := r.1, reserved := 0, confirmed := if e.participants.contains d.ownUnit then [d.ownUnit] else [] }
  let d := e.participants.foldl (fun (d : Dev) u => if u = d.ownUnit then d else d.queueCal u (.decision e.slot true r.1)) (r.2.putCal e)
  if d.allConfirmed e then d.settle e .committed else d

/-- A participant's entry whose changes are in force: confirmed, and kept until its sequence number has come (R88, R89). -/
def confirmed (e : CalEntry) (d : Dev) : Dev :=
  let d := d.tellHead (.confirm (e.slot - 0x10000) d.ownUnit)
  let d := if e.journalSeq = 0 then d else d.setJournal e.journalSeq
  d.putCal { e with applied := true, reserved := 0, state := .committed, finalAt := d.clock }

/-- The reserved places of an entry taken by the items of its commit (R86, R104). -/
def commitItem (e : CalEntry) (d : Dev) : Dev :=
  if e.reserved = 0 then d else (d.unreserve e.reserved).liftPut 1 (e.slot % 1024 % 256) .other

/-- What becomes of an entry whose changes are in force: replayed, a standby's copy, a participant's, or one that this unit has
coordinated. -/
def afterCommit (d : Dev) (e : CalEntry) : Dev :=
  let d := (d.commitItem e).bumpEpoch
  if replayed e then (d.setJournal e.journalSeq).freeCal e.slot
  else if mirrored e then (if e.slot < 0x30000 ∧ !e.handed then (d.journalEntry e).2 else d).freeCal e.slot
  else if e.foreign && !e.handed then d.confirmed e
  else d.committedHere e

/-- The entries of one boundary committed, in the order in which they were closed (R88). -/
def commitBoundary (date : Nat) (es : List CalEntry) (d : Dev) : Dev :=
  let ordered := (es.foldl (fun (m : NMap CalEntry) e => nput m ((if replayed e then 0 else 2 ^ 130) + e.order * 2 ^ 20 + e.slot % 2 ^ 20) e) []).map (·.2)
  let d := d.commitChanges date (ordered.flatMap d.changesHere)
  (ordered.foldl afterCommit d).queueDigest date

/-- Whether an entry is decided and waits for its boundary. -/
def decidedNow (e : CalEntry) : Bool := e.decided && !e.applied && !e.state.final

/-- Entries that a boundary has passed without a decision are discarded by a participant and by a former lead; a standby
that misses one is stale (R87, R436). -/
def discardEntry (e : CalEntry) (d : Dev) : Dev :=
  let d := (d.releaseEntry e).freeCal e.slot
  if mirrored e then d.goStale else d

/-- A unit in FAULT commits nothing: a lone module's entries are REFUSED with cause 4 as their dates pass (R91). -/
def faultPassed (e : CalEntry) (d : Dev) : Dev :=
  if d.lone ∧ d.coordinates e then d.refuseEntry e d.ownUnit 4 else (d.releaseEntry e).freeCal e.slot

/-- Whether an entry ends here without a commit once its date has come: in FAULT any that waits, elsewhere a copy without a
decision, and what a former lead still holds. -/
def passesOver (d : Dev) (e : CalEntry) : Bool :=
  (CalEntry.waits e || decidedNow e) && (e.foreign || !e.handed) && (d.power.state == .fault || (!e.decided && !d.coordinates e) || (!e.decided && e.foreign))

/-- Every boundary that has come, earliest first; the fuel bounds the number of boundaries. -/
def commitDue : Nat → Dev → Dev
  | 0, d => d
  | n + 1, d =>
    let due := (d.cal.entries.map (·.2)).filter fun e => (decidedNow e || d.passesOver e) && decide (e.date ≤ d.mscNow)
    match due with
    | [] => d
    | x :: t =>
      let date := t.foldl (fun m e => min m e.date) x.date
      let here := due.filter fun e => e.date = date
      let passed := here.filter d.passesOver
      let go := here.filter fun e => !d.passesOver e
      let d := passed.foldl (fun (d : Dev) e => if d.power.state = .fault then d.faultPassed e else d.discardEntry e) d
      commitDue n (if go.isEmpty then d else d.commitBoundary date go)

/-- After a replay that has been applied, the unit reports its sequence number (R93). -/
def reportApplied (d : Dev) : Dev :=
  let m := CalMsg.applied d.ownUnit (d.nat Reg.journalSeq)
  if !d.lone && !d.isLead then d.sendCell 2 .calendar 0xFFFF 0 (calOctets m) (calSettled m) else d.tellHead m

/-- A LINK cell; a module that takes its place in the group reports the last sequence number it has applied (R93, R472). -/
def linkArrives (k : Nat) (wire : Octets) (m : LinkMsg) (d : Dev) : Dev :=
  let e := d.linkCell k wire m
  match m with
  | .assign s _ _ _ _ _ _ => if s == d.bytes Reg.serialNumber && e.unitId != 0 && e.nat Reg.unitState e.unitId == 1 then e.reportApplied else e
  | _ => e

/-- CALENDAR_COMMIT: at the effective boundary every entry with a commit decision takes effect (R88). -/
def calendarCommit (d : Dev) : Dev :=
  let next := (d.cal.entries.map (·.2)).filter fun e => decidedNow e || d.passesOver e
  match next with
  | [] => d
  | x :: t =>
    match d.reachMsc (t.foldl (fun m e => min m e.date) x.date) with
    | none => d
    | some d' =>
      let replay := d'.cal.entries.any fun e => replayed e.2 && decide (e.2.date ≤ d'.mscNow)
      let e := commitDue (d'.cal.entries.length + 1) d'
      if replay then e.reportApplied else e

/-- Whether an entry of this calendar is committed without its outcome, or handed to a unit that has not told of it. -/
def unsettled (e : CalEntry) : Bool := !e.state.final && (e.applied || (e.handed && !e.foreign))

/-! ### Replay (R93, R444) -/

/-- The entries of an image: what this unit holds of the entries that the other one covers, values other than defaults. -/
def imageEntries (d : Dev) (covers : Row → Nat → Nat → Bool) : List (Nat × Nat × Octets) :=
  let l := d.regs.filterMap fun p =>
    let idx := p.1 / 256
    let sub := p.1 % 256
    match findRow idx sub with
    | some r => if covers r idx sub then some (idx, sub, valWire r.ty p.2) else none
    | none => none
  let cells := if covers Reg.routeCell 0x6900 0 then d.mix.cur.cells.map fun c => (0x6900 + c.1 / 256, c.1 % 256, toBE 8 (d.routeCellValue c.1)) else []
  l ++ cells

/-- What the units of a pair share (R435), and what the modules of a group share (R56). -/
def coversShared (r : Row) (idx sub : Nat) : Bool :=
  r.access.isSome && r.ty != .cmd && r.ty != .key && r.commit != .const && !perSession r && !perUnitIndex idx sub

/-- The values that the head has kept of a unit's own entries (R93). -/
def heldOf (d : Dev) (u : Nat) : List (Nat × Nat × Octets) :=
  (d.drada.held.filter fun p => p.1 / 2 ^ 24 = u).map fun p => (p.1 % 2 ^ 24 / 256, p.1 % 256, p.2)

/-- A message of replay traffic to the standby, or to a unit of the group. -/
def tellReplay (own : Bool) (u : Nat) (m : CalMsg) (d : Dev) : Dev := if own then d.tellStandby m else d.queueCal u m

/-- A unit turns to UnitState 2 at the following boundary (R93). -/
def turnsRunning (u : Nat) (d : Dev) : Dev := d.setTimer (0xC0000 + u) (boundaryOf (d.mscNow + 1))

/-- A unit has applied JournalSeq: notice 0xA404; it runs, and turns to UnitState 2 at the following boundary; a standby is
told that its mirror is complete (R93, R444). -/
def replayComplete (own : Bool) (u : Nat) (d : Dev) : Dev :=
  let d := (d.notice 0xA404 u).tellReplay own u (.applied u (d.nat Reg.journalSeq))
  if own then d else d.turnsRunning u

/-- JOURNAL_REPLAY: a unit that returns reports the last sequence number it applied (R93); `own` marks this position's
standby, whose areas are reloaded as well, and the keys it shares go to it (R444, R513). -/
def journalReplay (own : Bool) (u seq : Nat) (d : Dev) : Dev :=
  let newest := d.nat Reg.journalSeq
  let d := d.notice 0xA403 u
  let d := if own then d else d.setNat Reg.unitState 1 u
  let d := if own then d.mirrorKeys else d
  let image (d : Dev) : Dev := d.tellReplay own u (.image newest (if own then d.imageEntries coversShared else d.imageEntries coversScene ++ d.heldOf u))
  if d.journalOldest ≤ seq + 1 then
    let d := (d.cal.journal.filter fun r => decide (seq < r.seq)).foldl (fun (d : Dev) r =>
      let e := { blankEntry 0 0 r.unit 0 .observer .prepared with changes := r.changes }
      d.tellReplay own u (.replay r.seq r.date (if own then d.standbyUnit r.unit else u) (if own then e.changes.map changeOctets else d.changesFor e u))) d
    if own then image d else if seq = newest then d.replayComplete own u else d
  else image (d.notice 0xA405 u)

/-- A unit's report: complete, or a replay of what it lacks (R93). -/
def appliedReport (own : Bool) (u seq : Nat) (d : Dev) : Dev :=
  if seq = d.nat Reg.journalSeq then d.replayComplete own u else d.journalReplay own u seq

/-- A linked unit in UnitState 2 that has not confirmed a committed entry takes it by replay (R89). -/
def replayMissing (e : CalEntry) (d : Dev) : Dev :=
  ((d.entryModules e).filter fun u => u ≠ d.ownUnit && d.nat Reg.unitState u = 2 && !e.confirmed.contains u).foldl
    (fun (d : Dev) u => d.journalReplay false u (e.journalSeq - 1)) d

/-- OUTCOME_SETTLE_TIMEOUT: 64 samples after its boundary an unsettled entry is PARTIAL, and units that have not confirmed take it
by replay (R89). -/
def outcomeTimeout (d : Dev) : Dev :=
  let open_ := (d.cal.entries.map (·.2)).filter unsettled
  match open_ with
  | [] => d
  | x :: t =>
    match d.reachMsc (t.foldl (fun m e => min m (e.date + 64)) (x.date + 64)) with
    | none => d
    | some d => (open_.filter fun e => decide (e.date + 64 ≤ d.mscNow)).foldl (fun (d : Dev) e =>
        let d := d.settle e .partially
        if e.applied && !e.handed && !d.journalAway then d.replayMissing e else d) d

/-- The object coordinates as the head has them now, for a unit that has missed motion (R99). -/
def coordinateChanges (d : Dev) : List Change :=
  d.regs.filterMap fun p =>
    let idx := p.1 / 256
    let sub := p.1 % 256
    if 0x4000 ≤ idx ∧ idx < 0x5000 ∧ Reg.objectX.sub ≤ sub ∧ sub ≤ Reg.objectZ.sub then some { index := idx, sub, val := p.2 } else none

/-- A unit has missed its motion words: the journal takes the positions applied here, and the unit catches up from what it last
applied (R93, R99). -/
def stallReport (u seq : Nat) (d : Dev) : Dev :=
  let e := { blankEntry 0 0 0 0 .observer .committed with date := d.blockDate, changes := d.coordinateChanges }
  let r := d.journalEntry e
  (r.2.tellStandby (.record r.1 e.date 0xFFFF (e.changes.map changeOctets))).journalReplay false u seq

/-- MOTION_STALL: the counted words have not all come by the end of tick B + 1: the decoder stops waiting, and the unit catches up
by the journal; a standby is stale (R93, R99). -/
def motionStall (d : Dev) : Dev :=
  if d.motionShort.isEmpty then d
  else
    let d := d.stopWaiting
    if !d.lone && !d.isLead then d.goStale else d.tellHead (.stall d.ownUnit (d.nat Reg.journalSeq))

/-- Units whose replay is complete turn to UnitState 2 at the following boundary (R93). -/
def settleUnits (d : Dev) : Dev :=
  let due := d.timers.filter fun t => 0xC0000 ≤ t.1 && t.1 < 0xC0400 && t.2 ≤ d.msc
  due.foldl (fun (d : Dev) t => ({ d with timers := nerase d.timers t.1 }).setNat Reg.unitState 2 (t.1 - 0xC0000)) d

/-- An entry that is replayed here, at the next block boundary (R93). -/
def storeReplay (seq unit : Nat) (changes : List Change) (d : Dev) : Dev :=
  let e := blankEntry (replaySlot seq) 0 unit 0 .observer .prepared
  d.putCal { e with date := boundaryOf (d.mscNow + 1), order := seq, journalSeq := seq, decided := true, changes }

/-- The changes that make this unit's entries those of an image: its own values that the image does not name go to their
defaults. -/
def imageChanges (d : Dev) (covers : Row → Nat → Nat → Bool) (l : List (Nat × Nat × Octets)) : List Change :=
  let given := changesOf l
  let rest := d.regs.filterMap fun p =>
    let idx := p.1 / 256
    let sub := p.1 % 256
    match findRow idx sub with
    | some r => if covers r idx sub && !(given.any fun c => c.index == idx && c.sub == sub) then some { index := idx, sub, val := r.default (idx - r.base) (sub - r.sub) : Change } else none
    | none => none
  rest ++ given

/-! ### CALENDAR cells (R86 to R93, R477) -/

/-- Where a message's slot stands here: from the partner a standby's copy, from the head a participant's. -/
def slotHere (pairwise : Bool) (s : Nat) : Nat := if pairwise then mirrorSlot s else foreignSlot s

/-- An entry to prepare arrives: at a standby it waits for its prepare start, at a participant prepare begins (R85, R91). -/
def entryArrives (pairwise : Bool) (s g u r date order : Nat) (l : List (Nat × Nat × Octets)) (d : Dev) : Dev :=
  let unit := if pairwise then d.unitAtStandby u else d.ownUnit
  let e := { blankEntry (slotHere pairwise s) g unit 0 (roleOfRank r) .staged with date, order, closedAt := d.mscNow, changes := changesOf l }
  if pairwise then (if s < 1024 then d.freeCal s else d).putCal e
  else ((d.putCal e).mirrorEntry e).beginPrepare e

/-- The head's sequence number for a participant's entry: it counts once the entry is applied here, at once or at its boundary (R88). -/
def numbered (e : CalEntry) (seq : Nat) (d : Dev) : Dev :=
  if e.applied then (d.setJournal seq).freeCal e.slot else d.putCal { e with journalSeq := seq, decided := e.decided || e.state == .prepared }

/-- A decision arrives: the entry commits at its boundary or is dropped; a sequence number is the head's. An entry that has been
discarded here stays so (R87, R88). -/
def decisionArrives (pairwise : Bool) (s : Nat) (commit : Bool) (seq : Nat) (d : Dev) : Dev :=
  let slot := slotHere pairwise s
  let d := if pairwise then d else d.tellStandby (.decision slot commit seq)
  match d.entryAt slot with
  | none => d
  | some e =>
    if !commit then (d.releaseEntry e).freeCal slot
    else if seq ≠ 0 ∧ !pairwise then d.numbered e seq
    else if e.state = .prepared then d.putCal { e with decided := true } else d

/-- An entry that the head has handed to this unit arrives: it waits for its prepare start here (R85). -/
def handArrives (s g r date order : Nat) (l : List (Nat × Nat × Octets)) (d : Dev) : Dev :=
  let e := { blankEntry (foreignSlot s) g d.ownUnit 0 (roleOfRank r) .staged with date, order, closedAt := d.mscNow, changes := changesOf l, handed := true }
  (d.putCal e).mirrorEntry e

/-- The unit that coordinates an entry tells the head of its state; a final one is the entry's outcome (R85, R89). -/
def stateArrives (s u st cause : Nat) (d : Dev) : Dev :=
  match d.entryAt s with
  | none => d
  | some e =>
    let state := CalState.ofCode st
    if !e.handed || e.foreign || e.state.final || !e.participants.contains u then d
    else if state == .committed then (d.keepAllAway e).settle { e with confirmed := [u] } .committed
    else if state.final then d.settle { e with answers := [(u, cause)] } state
    else d.putCal { e with state }

/-- A unit's own committed entry enters the group journal, and takes the next sequence number (R88, R92). -/
def commitsArrive (s u date : Nat) (l : List (Nat × Nat × Octets)) (d : Dev) : Dev :=
  let r := (d.keepAway u l).journalEntry { blankEntry 0 0 u 0 .observer .committed with date, changes := changesOf l }
  let d := (r.2.tellStandby (.record r.1 date u l)).queueCal u (.number s r.1)
  match d.entryAt (s - 0x10000) with
  | some e => if 0x10000 ≤ s ∧ s < 0x20000 ∧ e.handed ∧ !e.foreign then d.putCal { e with journalSeq := r.1 } else d
  | none => d

/-- The number that the head has given this unit's entry (R88). -/
def numberArrives (s seq : Nat) (d : Dev) : Dev :=
  let d := d.setJournal seq
  match d.entryAt s with
  | some e => (d.putCal { e with journalSeq := seq }).journalAdd { seq, date := e.date, unit := e.unit, changes := e.changes }
  | none => d

/-- An entry of the lead in a state that this standby does not reach by itself (R91). -/
def copyArrives (s g u r st date seq : Nat) (bitmap : Octets) (l : List (Nat × Nat × Octets)) (d : Dev) : Dev :=
  d.putCal { blankEntry (mirrorSlot s) g (d.unitAtStandby u) 0 (roleOfRank r) (CalState.ofCode st) with date, journalSeq := seq, bitmap, changes := changesOf l, finalAt := d.clock }

/-- The meaning of a calendar message; `pairwise` marks one that came from the partner over DP. -/
def calMessage (pairwise : Bool) (m : CalMsg) (d : Dev) : Dev :=
  match m with
  | .prepare s g u r t o l => d.entryArrives pairwise s g u r t o l
  | .answer s u c =>
    (match d.entryAt s with
    | some e => if !e.foreign ∧ e.state = .preparing ∧ e.participants.contains u then d.answered e u c else d
    | none => d)
  | .decision s c q => d.decisionArrives pairwise s c q
  | .confirm s u =>
    (match d.entryAt s with
    | some e =>
      if e.foreign ∨ !e.applied ∨ e.state.final then d
      else
        let e := { e with confirmed := if e.confirmed.contains u then e.confirmed else e.confirmed ++ [u] }
        if d.allConfirmed e then d.settle e .committed else d.putCal e
    | none => d)
  | .cancel s =>
    let slot := slotHere pairwise s
    let d := if pairwise then d else d.tellStandby (.cancel slot)
    (match d.entryAt slot with
    | some e => (d.releaseEntry e).freeCal slot
    | none => d)
  | .replay q _ u l => d.storeReplay q (if pairwise then d.unitAtStandby u else d.ownUnit) (changesOf l)
  | .image q l => d.storeReplay q d.ownUnit (d.imageChanges (if pairwise then coversShared else coversScene) l)
  | .applied u q =>
    if pairwise ∧ !d.isLead then d.mirrorDone
    else if !pairwise ∧ d.unitId ≠ 0 then (if d.nat Reg.unitState d.unitId = 1 then d.turnsRunning d.unitId else d)
    else d.appliedReport pairwise u q
  | .hand s g _ r t o l => if pairwise then d else d.handArrives s g r t o l
  | .state s u st c => if pairwise then d else d.stateArrives s u st c
  | .commits s u t l => if pairwise then d else d.commitsArrive s u t l
  | .number s q => if pairwise then d else d.numberArrives s q
  | .copy s g u r st t q b l => if pairwise then d.copyArrives s g u r st t q b l else d
  | .record q t u l => if pairwise then (d.setJournal q).journalAdd { seq := q, date := t, unit := u, changes := changesOf l } else d
  | .stall u q => if pairwise ∨ !d.isHead then d else d.stallReport u q

/-- DRADA_CALENDAR_CELL: forwarded towards its unit, or consumed (R87, R477). -/
def calendarCell (k : Nat) (wire : Octets) (m : CalMsg) (d : Dev) : Dev :=
  let r := d.passCell k .calendar (calSettled m) wire
  match r.2 with
  | none => r.1
  | some _ => r.1.calMessage (decide (k = 2) && !r.1.lone) m

/-! ### Taking the lead (R448) -/

/-- A lead's copy of an entry becomes an entry of its own calendar; without a decision the answers are collected again, or
the entry is REFUSED with cause 5 once its prepare deadline has passed (R448). -/
def adoptEntry (d : Dev) (e : CalEntry) : Dev :=
  let slot := e.slot - 0x20000
  let e' := { e with slot }
  let d := (d.freeCal e.slot).setCal fun c => { c with gens := if slot < 1024 then nput c.gens slot e.gen else c.gens }
  if e.state = .opened then d.freeCal slot
  else if e'.foreign ∨ e.state = .staged ∨ e.state.final then d.putCal e'
  else
    let parts := (d.entryModules e').filter fun u => d.nat Reg.unitState u = 2
    let e' := { e' with participants := parts }
    if e.decided then d.putCal e'
    else if e.date - 32 < d.mscNow then d.refuseEntry e' d.ownUnit 5
    else
      let own := if e.state = .prepared then [(d.ownUnit, 0)] else []
      let e' := { e' with state := .preparing, answers := own }
      let d := parts.foldl (fun (d : Dev) u => if u = d.ownUnit then d else
        d.tellUnit u (.prepare slot e.gen u e.role.rank e.date e.order (d.changesFor e' u))) d
      d.checkPrepared e'

/-- A unit that has taken the lead coordinates what its former lead held (R448). -/
def adoptCalendar (d : Dev) : Dev :=
  if d.lone ∨ !d.isLead then d
  else ((d.cal.entries.map (·.2)).filter mirrored).foldl adoptEntry d

/-- What follows where an effect has given this unit the lead: perturbations disarm (R543), and the calendar of the former
lead goes on here (R448). -/
def leadTaken (f : Dev → Dev) (d : Dev) : Dev :=
  let e := f d
  if e.isLead && !d.isLead then (e.disarmEvery 7).adoptCalendar else e

/-! ### Lift-line items (R101, R103) -/

/-- A subscription's report enters its session's notice queue, on CAN FD that of the notice host alone, and the event log (R60, R61). -/
def queueReport (i date arg : Nat) (d : Dev) : Dev :=
  match d.subs.find? fun s => s.id = i with
  | none => d
  | some s =>
    let d := ((d.fifoPush { d.logRec 1 0x1000 s.index s.sub arg with date }).logQueue 8).logPressure
    match d.session? s.session with
    | none => d
    | some x =>
      if x.can && x.handle != 0x10000 + d.nat Reg.canNoticeHost then d
      else
        let r := queueNotice { code := 0x1000, date, index := s.index, sub := s.sub, arg, unit := s.unit } d x
        r.2.setSession s.session fun _ => r.1

/-- What a completed item does (Table 3-7). -/
def doJob (j : LiftJob) (d : Dev) : Dev :=
  match j with
  | .logWrite => (d.logStore 64).logPressure
  | .prepare s => d.loadDone s 1 0
  | .send u m => d.sendCal u m
  | .mark n =>
    -- DESIGN CHOICE (log entry 73): the spec does not say that a refreshed object is evaluated in full, nor with which age.
    if d.enabled n ∧ d.nat Reg.objectLaw n ≠ 0 then d.markAt 2 (d.blockDate + 32) n true else d
  | .load s k r => d.loadDone s k r
  | .digest => d.refreshDigests (d.timer 0xA4D1)
  | .report i date arg => d.queueReport i date arg
  | .flashStore m k r => d.flashWrite m k r
  | .other => d

/-- An item's second failure, handled as the failure of its kind's source: a prepare fails with cause 0x02; records stay in the log
FIFO for the next item (R86, R489). -/
def jobFails (j : LiftJob) (d : Dev) : Dev :=
  match j with
  | .prepare s | .load s _ _ => match d.entryAt s with
    | some e => if e.state = .preparing then d.ownAnswer e 2 else d
    | none => d
  | _ => d

/-- An item ends: done, or after a bus error retried once, the second failure its source's (R489). -/
def endItem (x : LiftItem) (d : Dev) : Dev :=
  if !x.failed then d.doJob x.job
  else if x.again then d.jobFails x.job
  else { d with lift := { d.lift with waiting := d.lift.waiting ++ [{ x with failed := false, again := true }] } }

/-- LIFT_ITEM_FINISH: an engine completes its item; its flow and place are free; the next eligible item starts (R101). An engine
that a perturbation stalls holds its item that much longer (Table 19-4). -/
def liftFinish (engine : Nat) (d : Dev) : Dev :=
  match (d.lift.engines.get none engine) with
  | none => d
  | some x =>
    let us := nget 0 d.perturb.lift engine
    let stalled := x.startedAt + usCycles us
    let d := if us = 0 then d else d.advanceTo stalled
    if us ≠ 0 ∧ d.clock < stalled then d
    else
      let d := (d.setPerturb fun p => { p with lift := nerase p.lift engine })
      let d := { d with lift := { d.lift with engines := d.lift.engines.modify engine (fun _ => none) } }
      (d.endItem x).dispatch

/-- LIFT_AGE_LIMIT: the oldest item at a level has waited longer than LiftAgeLimit: notice 0xA601 once per level and second
(R103). -/
def liftAge (d : Dev) : Dev :=
  let limit := usCycles (d.nat Reg.liftAgeLimit)
  let d := match d.lift.waiting with
    | [] => d
    | x :: t => d.advanceTo (t.foldl (fun a y => min a y.queuedAt) x.queuedAt + limit + 1)
  (List.range 8).foldl (fun (d : Dev) l =>
    match d.lift.waiting.find? fun x => x.level = l with
    | some x => if x.queuedAt + limit < d.clock then d.noticeOnce (0xA60100 + l) 0xA601 l else d
    | none => d) d

end Dev

end Sys2Proof.Machine
end

