-- ==== Sys2Proof/Machine/Sessions.lean ====
section
/-! DEFINITION. DTLS sessions, their handshakes and their end; subscriptions and notices on their way to hosts (R45 to R62, R506 to R510). -/

namespace Sys2Proof.Machine

/-- The role that an organizational-unit attribute names (R508). -/
def roleNamed (l : Octets) : Option Role :=
  if l = ascii "observer" then some .observer else if l = ascii "operator" then some .operator
  else if l = ascii "engineer" then some .engineer else if l = ascii "service" then some .service
  else if l = ascii "vendor" then some .vendor else none

/-- The weaker of two roles. -/
def Role.cap (a b : Role) : Role := if a.rank ≤ b.rank then a else b

/-- The argument of a subscription report (R60). -/
def reportArg (t : Ty) (wire : Octets) : Nat :=
  if t.size = 1 ∨ t.size = 2 then (if t.signed then wrapU 32 (beAtS wire 0 t.size) else fromBE wire)
  else fromBE ((wire ++ List.replicate 4 (octet 0)).take 4)

/-- A notice's body: code, date, index, sub-index, argument (Table 2-6). -/
def NoticeRec.body (n : NoticeRec) : Octets := toBE 2 n.code ++ toBE 8 n.date ++ toBE 2 n.index ++ toBE 1 n.sub ++ toBE 4 n.arg

/-- The notice that is sent next: the first of the earliest date (R61). -/
def nextNotice : List NoticeRec → Option NoticeRec
  | [] => none
  | n :: t => match nextNotice t with
    | some m => if m.date < n.date then some m else some n
    | none => some n

/-- The session field of a CONTROL cell that carries a part of a request rather than a host's own frame. -/
def askBase : Nat := 0x40000

namespace Dev

/-! ### Handshakes (R49, R506 to R510) -/

/-- What refuses a chain: 1 chain, 2 revoked, 3 expired (R507). -/
def chainFault (d : Dev) (h : Handshake) : Option Nat :=
  let revoked := chunks 48 (d.bytes Reg.revokedCerts)
  let anchorOk := match h.anchor with
    | some i => i = 4 || (decide (i < 4) && (nget? d.sec.keys (Reg.trustAnchor.key i)).isSome)
    | none => false
  let leafOk := match h.chain with | c :: _ => c.clientAuth | [] => false
  let expired (c : Cert) : Bool :=
    if d.alm.everAligned then decide (c.notAfter < d.seconds) || decide (d.seconds < c.notBefore) else decide (c.notAfter < d.nat Reg.savedTime)
  if h.chain.isEmpty || 3 < h.chain.length || !anchorOk || !leafOk || h.chain.any (fun c => c.version ≠ 3 || !c.signed) then some 1
  else if h.chain.any fun c => revoked.contains (Config.sha384 c.der) then some 2
  else if h.chain.any expired then some 3
  else none

/-- The role that a good chain gives (R508); none for a leaf without exactly one known attribute. -/
def chainRole (d : Dev) (h : Handshake) : Option Role :=
  match (h.chain.headD { der := [], version := 3, signed := true, notBefore := 0, notAfter := 0, clientAuth := true, units := [] }).units with
  | [u] => (roleNamed u).map fun r => match h.anchor with
    | some 4 => r
    | some i => r.cap (roleOfRank (min 3 (d.nat Reg.trustAnchorRole i)))
    | none => r
  | _ => none

/-- The leaf's fingerprint: SHA-384 over its DER. -/
def leafPrint (h : Handshake) : Octets := match h.chain with | c :: _ => Config.sha384 c.der | [] => []

/-- Whether a handshake is one of commissioning: a self-signed leaf on the management port while no anchor is in use (R510). -/
def commissions (d : Dev) (h : Handshake) : Bool :=
  d.flag Reg.commissioningOpen && h.selfSigned && h.port == 4 && h.chain.length == 1 && h.chain.all fun c => c.signed

/-- A refused handshake: AuthFailures, notice 0x2301, and the source blocked after 8 within 60 s (R509). -/
def refuseHandshake (h : Handshake) (reason : Nat) (d : Dev) : Dev :=
  let d := (d.bump Reg.authFailures).notice 0x2301 (reason * 2 ^ 24)
  let times := d.clock :: ((nget [] d.refusals h.source).filter fun t => d.clock < t + secCycles 60)
  if 8 ≤ times.length then
    ({ d with refusals := nerase d.refusals h.source, blocked := nput d.blocked h.source (d.clock + secCycles 60) }).notice 0x2306 h.source
  else { d with refusals := nput d.refusals h.source times }

/-- A session opens, in the lowest free place, with its notices (R49, R508). -/
def openSession (h : Handshake) (role : Role) (commissioning : Bool) (d : Dev) : Dev :=
  match (List.range 8).find? fun i => !(d.sessions.any fun s => s.handle == i + 1) with
  | none => d.refuseHandshake h 5
  | some i =>
    let s : Session := { handle := i + 1, role, can := false, srcIp := h.source, cert := leafPrint h, commissioning, lastFrameAt := d.clock, cache := [], selects := [], cmdLast := [], queue := [], lost := 0, sentAt := [] }
    let d := { d with sessions := d.sessions ++ [s], serving := some (i + 1) }
    let d := d.notice 0x1002 role.rank
    { (if commissioning then d.notice 0x2307 0 else d) with serving := none }

/-- Whether Knasiug is served on a port in a VLAN, 0 standing for untagged (R45). -/
def servedOn (d : Dev) (port vlan : Nat) : Bool :=
  if port = 4 then d.inForce Reg.udpOnManagement ≠ 0
  else decide (port < 4) && decide (d.inForce Reg.udpMediaVlan ≠ 0) && vlan == d.inForce Reg.udpMediaVlan

/-- DTLS_HANDSHAKE: a full handshake with its cookie is checked and opens a session, or is refused (R49, R506 to R510); the certified
configuration takes no vendor, whose refusal gives the role as its reason (R524; the reason is a DESIGN CHOICE, log entry 65). Without the cookie a HelloRetryRequest is all that follows; a blocked source is ignored. -/
def handshake (h : Handshake) (d : Dev) : Dev :=
  if !d.servedOn h.port h.vlan || h.udpPort ≠ 48240 || !h.cookie || (match nget? d.blocked h.source with | some t => decide (d.clock < t) | none => false) then d
  else if h.fault then d.cryptoFault 0
  else if !h.offers then d.refuseHandshake h 5
  else if d.commissions h then d.openSession h .engineer true
  else match d.chainFault h with
    | some r => d.refuseHandshake h r
    | none => match d.chainRole h with
      | some r => if d.certified && r == .vendor then d.refuseHandshake h 4 else d.openSession h r false
      | none => d.refuseHandshake h 4

/-- SOURCE_BLOCK_EXPIRY: the block of a source ends (R509). -/
def sourceExpiry (source : Nat) (d : Dev) : Dev :=
  match nget? d.blocked source with
  | none => d
  | some t => let d := d.advanceTo t; if d.clock < t then d else { d with blocked := nerase d.blocked source }

/-! ### The end of a session (R49, R80, R477) -/

/-- SESSION_CLOSE: a DTLS session ends; its stand-ins at other units of the group end with it. -/
def closeSession (h : Nat) (d : Dev) : Dev :=
  if h = 0 ∨ 8 < h ∨ !(d.sessions.any fun s => s.handle == h) then d
  else
    let gone := (d.cal.entries.map (·.2)).filter fun e => e.state == .opened && e.session == h
    let d := gone.foldl (fun (d : Dev) e => d.tellStandby (.cancel e.slot)) (d.dropSessions [h])
    if d.drada.formed && d.headsGroup then d.branchLinks.foldl (fun (d : Dev) k => d.sendCell k .control 0xFFFF 12 (toBE 4 h)) d else d

/-- SESSION_TIMEOUT_CHECK: every 100 ms each session idle for longer than SessionTimeout is closed, with notice 0x1003 (R49). -/
def sessionCheck (d : Dev) : Dev :=
  d.onPeriod 210 (msCycles 100) fun d =>
  let idle := d.sessions.filter fun s => s.handle ≤ 8 && decide (s.lastFrameAt + secCycles (d.nat Reg.sessionTimeout) < d.clock)
  idle.foldl (fun (d : Dev) s =>
    let d := { d with serving := some s.handle }
    ({ d.notice 0x1003 s.role.rank with serving := none }).closeSession s.handle) d

/-! ### Subscriptions (R60) -/

/-- The date of the block that a report given now reports: at a block boundary the block that has just ended, else the
block in progress (R60). -/
def reportDate (d : Dev) : Nat := if d.mscNow % 32 = 0 then d.blockDate - 32 else d.blockDate

/-- The wire form of what a subscription reports: at a block boundary a DATED number has the value in force at the end of
the block that has ended (R60). -/
def subWire (d : Dev) (s : Subscription) : Option (Ty × Octets) :=
  let pl := d.placeOf s.unit
  match d.locate pl s.index s.sub with
  | .ok f =>
    if f.away.isSome then none
    else if f.row.commit == .dated && f.row.ty.size ≠ 0 && d.mscNow % 32 == 0 then
      some (f.row.ty, valWire f.row.ty (d.valAt (d.mscNow - 1) f.row f.i f.j))
    else some (f.row.ty, d.readWire pl s.session f)
  | .error _ => none

/-- A subscription changed. -/
def setSub (id : Nat) (f : Subscription → Subscription) (d : Dev) : Dev := { d with subs := d.subs.map fun (s : Subscription) => if s.id = id then f s else s }

/-- SUBSCRIPTION_REPORT: at the end of a block a subscription whose period is over, or whose entry has changed, queues its
report (R60). -/
def subscriptionReport (id : Nat) (d : Dev) : Dev :=
  match d.subs.find? fun s => s.id = id with
  | none => d
  | some s =>
    match d.subWire s with
    | none => d
    | some w =>
      let block := d.reportDate / 32
      let due := if s.period = 0 then w.2 != s.last else decide (s.nextBlock ≤ block)
      if !due then d
      else
        let d := d.setSub id fun s => { s with last := w.2, nextBlock := block + max 1 s.period }
        d.liftPut 7 252 (.report id d.reportDate (reportArg w.1 w.2))

/-- Whether a session, or the module, holds as many subscriptions as it may (R60). -/
def subsFull (d : Dev) (h : Nat) : Bool := decide (256 ≤ d.subs.length) || decide (64 ≤ (d.subs.filter fun s => s.session = h).length)

/-- The number of the next subscription: a U16 counted from 1 that skips 0 and numbers in use (DESIGN CHOICE). -/
def newSubId (d : Dev) : Nat :=
  ((List.range 1024).map fun i => (d.nextSub + i) % 65536).find? (fun n => n ≠ 0 && !(d.subs.any fun s => s.id == n)) |>.getD 1

/-! ### Notices out (R61, R62, R477) -/

/-- A notice frame in its transport's form. What the protocol does not state of it, RequestId and CAN FD priority, is a free
value. -/
def noticeOut (s : Session) (n : NoticeRec) (d : Dev) : Option Out × Dev :=
  let r := d.freeNat
  let d := r.2
  if s.can then
    let q := d.freeNat
    d.canOut (q.1 % 8 * 2 ^ 26 + 2 ^ 25 + d.inForce Reg.canNodeId % 128 * 2 ^ 18 + (s.handle - canBase) % 128 * 2 ^ 11 + n.unit % 1024)
      (toBE 1 0x22 ++ toBE 1 n.body.length ++ toBE 1 0 ++ toBE 1 (r.1 % 256) ++ n.body) |> fun x => (x.1, { x.2 with freeCtr := d.freeCtr + 1 })
  else (some (.notice s.handle (knFrame 0x22 2 (r.1 % 2 ^ 32) n.unit 0 n.body)), d)

/-- A notice that a member of the group has sent to the head: its sessions receive it, the unit that raised it named (R62). -/
def noticeFromBelow (n : NoticeRec) (d : Dev) : Dev := if n.code = 0x1000 then d else d.offerNotice n

/-- Whether a session may be sent notices: on CAN FD only the host that CanNoticeHost names, none at 0 (R61). -/
def takesNotices (d : Dev) (s : Session) : Bool := !s.can || (d.nat Reg.canNoticeHost != 0 && s.handle == canBase + d.nat Reg.canNoticeHost)

/-- Where a session's notice goes: to its host, or in a CONTROL cell to the head (R62, R477). -/
def deliverNotice (s : Session) (n : NoticeRec) (d : Dev) : Dev :=
  if proxyBase ≤ s.handle then d.sendCell d.headLink .control 0 11 (toBE 4 (s.handle - proxyBase) ++ toBE 2 n.unit ++ n.body)
  else
    let r := d.noticeOut s n
    match r.1 with
    | some o => r.2.emit o
    | none => r.2

/-- NOTICE_SEND: a session's next notice is sent as soon as its rate allows; NoticesLost follows once its queue has room (R61). -/
def noticeSend (h : Nat) (d : Dev) : Dev :=
  match (d.session? h).filter d.takesNotices with
  | none => d
  | some s =>
    match nextNotice s.queue with
    | none => d
    | some n =>
      let limit := if s.can then 100 else 1000
      let recent (t : Nat) : List Nat := s.sentAt.filter fun x => decide (t < x + secCycles 1)
      let d := if (recent d.clock).length < limit then d else d.advanceTo ((recent d.clock).getLastD 0 + secCycles 1)
      if limit ≤ (recent d.clock).length then d
      else
        let d := d.deliverNotice s n
        let rest := s.queue.erase n
        let e := Config.noticeEntry 0x1001 s.lost
        let lost : NoticeRec := { code := 0x1001, date := d.blockDate, index := e / 256 % 65536, sub := e % 256, arg := s.lost, unit := d.unitId }
        let d := if s.lost = 0 then d else d.logEvent (d.logRec 1 0x1001 (e / 256 % 65536) (e % 256) s.lost)
        d.setSession h fun x => { x with sentAt := d.clock :: recent d.clock, queue := if s.lost = 0 then rest else rest ++ [lost], lost := 0 }

/-! ### What the head asks of other units (R477) -/

/-- A frame to another unit in a CONTROL cell: session, role, frame. -/
def sendForward (u session : Nat) (role : Role) (frame : Octets) (d : Dev) : Dev :=
  d.sendCell (d.linkTowards u) .control u 9 (toBE 4 session ++ toBE 1 role.rank ++ frame)

/-- A part of a request asked of another unit, under a number of its own. -/
def askPart (u service : Nat) (q : Request) (role : Role) (body : Octets) (d : Dev) : Nat × Dev :=
  let n := d.nextRequest
  (n, { d.sendForward u (askBase + q.session) role (knFrame service 0 n u 0 body) with nextRequest := (n + 1) % 2 ^ 32 })

end Dev

end Sys2Proof.Machine
end

