-- ==== Sys2Proof/Machine/Requests.lean ====
section
/-! DEFINITION. READ, WRITE, READ_MULTI, WRITE_MULTI: elements checked whole, IMMEDIATE ones applied, DATED ones staged (R39 to R42, R54 to R56, R63, R592). -/

namespace Sys2Proof.Machine

/-- One element of a write: index, sub-index, type code, octets of the value. -/
structure Element where
  index : Nat
  sub : Nat
  code : Nat
  raw : Octets
  deriving DecidableEq, Repr

/-- How many octets the value of a type code takes at the front of a list; none for a type that has no wire form there. -/
def valueLength (code : Nat) (l : Octets) : Option Nat :=
  match tyOfCode code with
  | none | some .blob | some .key => none
  | some .str | some .cmd => some (2 + beAt l 0 2)
  | some t => some t.size

/-- The elements of a body, up to `n` of them, with what ends them early: 0 nothing, 1 a type without wire form, whose
element is the last; 2 a body too short or too long. -/
def parseElements : Nat → Octets → List Element × Nat
  | 0, l => ([], if l.isEmpty then 0 else 2)
  | n + 1, l =>
    if l.length < 4 then ([], 2)
    else
      let e : Element := { index := beAt l 0 2, sub := beAt l 2 1, code := beAt l 3 1, raw := [] }
      let t := l.drop 4
      match valueLength e.code t with
      | none => ([e], 1)
      | some k =>
        if t.length < k then ([], 2)
        else
          let r := parseElements n (t.drop k)
          ({ e with raw := t.take k } :: r.1, r.2)

/-- The indices and sub-indices of a READ_MULTI body. -/
def parseNames : Nat → Octets → List (Nat × Nat)
  | 0, _ => []
  | n + 1, l => (beAt l 0 2, beAt l 2 1) :: parseNames n (l.drop 3)

/-- What a list of checked elements comes to: all that pass, or the first that fails with its place. -/
def firstFailure : List (Except Status (Found × Val)) → Except (Nat × Status) (List (Found × Val))
  | [] => .ok []
  | .error s :: _ => .error (0, s)
  | .ok x :: t => match firstFailure t with
    | .ok l => .ok (x :: l)
    | .error (i, s) => .error (i + 1, s)

namespace Dev

/-! ### Reads (R54, R55) -/

/-- A read of one entry at a place: its status, type code and wire octets, and whether its value is pending. -/
def readOne (d : Dev) (h : Nat) (pl : Place) (idx sub : Nat) : Status × Octets × Bool :=
  match d.locate pl idx sub with
  | .error s => (s, [], false)
  | .ok f =>
    if f.row.ty = .blob then (Status.type, [], false)
    else (Status.ok, toBE 1 f.row.ty.code ++ d.readWire pl h f, d.pendingNow f)

/-- One element of a READ_MULTI response. -/
def multiElement (r : Status × Octets × Bool) : Octets := toBE 1 r.1 ++ (if r.1 = Status.ok then r.2.1 else toBE 1 0)

/-- READ at this unit. -/
def serveRead (q : Request) (pl : Place) (d : Dev) : Dev :=
  if q.body.length ≠ 3 then d.respond q Status.badLength []
  else
    let r := d.readOne q.session pl (beAt q.body 0 2) (beAt q.body 2 1)
    if r.1 ≠ Status.ok then d.respond q r.1 []
    else if q.room < r.2.1.length then d.respond q Status.tooLong []
    else { d.respond q Status.ok r.2.1 r.2.2 with freeCtr := d.freeCtr + 1 }

/-- The answer to a READ_MULTI whose elements are all there. -/
def answerMulti (q : Request) (elements : List Octets) (pend : Bool) (d : Dev) : Dev :=
  let body := toBE 1 elements.length ++ elements.flatten
  if q.room < body.length then d.respond q Status.tooLong [] else d.respond q Status.ok body pend

/-- The names that a READ_MULTI asks for; none where the body's length does not match its count. -/
def multiNames (body : Octets) : Option (List (Nat × Nat)) :=
  if body.isEmpty ∨ body.length ≠ 1 + 3 * beAt body 0 1 then none else some (parseNames (beAt body 0 1) (body.drop 1))

/-- READ_MULTI at this unit. -/
def serveReadMulti (q : Request) (pl : Place) (d : Dev) : Dev :=
  match multiNames q.body with
  | none => d.respond q Status.badLength []
  | some l =>
    let rs := l.map fun n => d.readOne q.session pl n.1 n.2
    { d.answerMulti q (rs.map multiElement) (rs.any fun r => r.2.2) with freeCtr := d.freeCtr + 1 }

/-! ### Writes (R39, R55, R56) -/

/-- A refusal for role raises notice 0x2302 (R528). -/
def roleNotice (idx sub : Nat) (role : Role) (s : Status) (d : Dev) : Dev :=
  if s = Status.role then d.notice 0x2302 (idx * 65536 + sub * 256 + role.rank) else d

/-- The commands among elements, kept for their read-back with the status that the frame was answered with, octets that are no
UTF-8 text among them (R592). -/
def noteRefused (h : Nat) (pl : Place) (es : List Element) (s : Status) (d : Dev) : Dev :=
  es.foldl (fun (d : Dev) e =>
    match d.locate pl e.index e.sub with
    | .ok f => if f.row.ty = .cmd ∧ e.code = Ty.cmd.code then d.noteCmd h f (cmdBack (e.raw.drop 2) s []) else d
    | .error _ => d) d

/-- One IMMEDIATE or REBOOT element applied: a command is given and kept, any other value written. -/
def applyElement (mem : List Host.Cell) (g : Giver) (d : Dev) (x : Found × Val) : Dev :=
  if x.1.row.ty = .cmd then
    let r := d.giveCmd mem g.role x.1 x.2.toBytes
    (r.2.2.bumpEpoch).noteCmd g.session x.1 (cmdBack x.2.toBytes r.1 r.2.1)
  else d.applyWrite g.session x.1 x.2

/-- An element as the standby is sent it; key material crosses DP only sealed (R436, R513). -/
def mirrorElement (d : Dev) (x : Found × Val) : Octets :=
  if !d.mirrors x.1 then []
  else if x.1.row.ty = .key then mirrorOctets x.1 (d.sealedKey x.2.toBytes)
  else mirrorOctets x.1 (valWire x.1.row.ty x.2)

/-- Whether DATED elements find room: a slot, and the pool's changes (R76). -/
def datedRoom (d : Dev) (n : Nat) : Bool := d.freeCalSlot.isSome && decide (d.changesInUse + n ≤ 131072)

/-- The places in the body of the DATED elements among checked ones. -/
def datedPlaces (l : List (Found × Val)) : List Nat := (l.zipIdx.filter fun x => x.1.1.row.commit == .dated).map (·.2)

/-- The place of the first DATED element that finds no room with those before it (R55, R76). -/
def noRoomFor (d : Dev) (l : List (Found × Val)) : Option Nat :=
  ((datedPlaces l).zipIdx.find? fun x => !d.datedRoom (x.2 + 1)).map (·.1)

/-- Changes formed by elements, in the numbering in which they were addressed. -/
def changesFrom (l : List (Found × Val)) : List Change := l.foldl (fun a x => addChange a { index := x.1.index, sub := x.1.sub, val := x.2 }) []

/-- DATED elements as one entry at the earliest boundary (R39, R55, R75): the entry as staged. -/
def stageElements (q : Request) (role : Role) (l : List (Found × Val)) (d : Dev) : Option (CalEntry × Dev) :=
  match d.newEntry q.unit q.session role .staged with
  | none => none
  | some r =>
    let e := { r.1 with changes := changesFrom l }
    match r.2.dateFor e 0 with
    | .error _ => none
    | .ok date => let d := r.2.stageEntry e date; (d.entryAt e.slot).map fun e => (e, d)

/-- A response that a mirrored write may hold back, and what follows it. -/
def respondWrite (q : Request) (status : Status) (body mirror : Octets) (d : Dev) : Dev :=
  (if mirror.isEmpty then d.respond q status body else d.respondMirrored q status body mirror).afterResponse

/-- The answer to a write whose elements this unit has taken: at once; or, where other units of the group hold some of them,
once each of those has answered the write of its own (R39, R477). -/
def answerWrite (q : Request) (role : Role) (away : List (Found × Val)) (status : Status) (body mirror : Octets) (d : Dev) : Dev :=
  if away.isEmpty then d.respondWrite q status body mirror
  else
    let own : Part := { element := 0, ask := 0, answer := some (knFrame 0x04 1 0 q.unit status body) }
    let r := away.foldl (fun (a : List Part × Dev) x =>
      match x.1.away with
      | some w =>
        let y := a.2.askPart w.1 0x02 q role (toBE 2 w.2 ++ toBE 1 x.1.sub ++ toBE 1 x.1.row.ty.code ++ valWire x.1.row.ty x.2)
        (a.1 ++ [{ element := 0, ask := y.1, answer := none }], y.2)
      | none => a) ([own], if mirror.isEmpty then d else d.mirrorLoose mirror)
    { r.2 with gathers := r.2.gathers ++ [{ request := q, parts := r.1 }] }

/-- Elements that have all passed their checks: IMMEDIATE ones in body order, those of other units asked of them, DATED ones as
one entry (R55). With no room for the DATED ones nothing is applied. -/
def acceptElements (mem : List Host.Cell) (q : Request) (g : Giver) (pl : Place) (placed : Bool) (es : List Element) (l : List (Found × Val)) (d : Dev) : Dev :=
  match d.noRoomFor l with
  | some i => (d.noteRefused g.session pl es Status.busy).respond q Status.busy (if placed then toBE 1 i else [])
  | none =>
    let dated := l.filter fun x => x.1.row.commit == .dated
    let now := l.filter fun x => x.1.row.commit != .dated
    let own := now.filter fun x => x.1.away.isNone
    let away := now.filter fun x => x.1.away.isSome
    let mirror := own.flatMap d.mirrorElement
    let d := own.foldl (applyElement mem g) d
    if dated.isEmpty then d.answerWrite q g.role away Status.ok [] mirror
    else match d.stageElements q g.role dated with
      | some r => r.2.answerWrite q g.role away Status.staged (toBE 8 r.1.date) mirror
      | none => d.answerWrite q g.role away Status.busy [] mirror

/-- The elements of a write frame checked, then applied or refused whole; `placed` adds the place of the element that fails
to the response (R55). -/
def serveElements (mem : List Host.Cell) (q : Request) (g : Giver) (pl : Place) (placed : Bool) (es : List Element) (fault : Nat) (d : Dev) : Dev :=
  if fault = 2 then d.respond q Status.badLength []
  else
    let checked := es.map fun e => d.checkWrite mem g pl false e.index e.sub e.code e.raw
    match firstFailure checked with
    | .ok l => d.acceptElements mem q g pl placed es l
    | .error (i, s) =>
      let e := es.getD i { index := 0, sub := 0, code := 0, raw := [] }
      ((d.noteRefused g.session pl es s).roleNotice e.index e.sub g.role s).respond q s (if placed then toBE 1 i else [])

/-- WRITE at this unit. A body that ends within the value, or goes on after it, is BAD_LENGTH. -/
def serveWrite (mem : List Host.Cell) (q : Request) (g : Giver) (pl : Place) (d : Dev) : Dev :=
  let r := parseElements 1 q.body
  d.serveElements mem q g pl false r.1 r.2

/-- WRITE_MULTI at this unit. -/
def serveWriteMulti (mem : List Host.Cell) (q : Request) (g : Giver) (pl : Place) (d : Dev) : Dev :=
  if q.body.isEmpty then d.respond q Status.badLength []
  else
    let r := parseElements (beAt q.body 0 1) (q.body.drop 1)
    if beAt q.body 0 1 = 0 ∧ r.2 = 0 then d.respond q Status.ok [] else d.serveElements mem q g pl true r.1 r.2

/-! ### Subscriptions and ECHO (R54, R60) -/

/-- SUBSCRIBE. The first report of a period falls one period after the block of the SUBSCRIBE (DESIGN CHOICE). -/
def serveSubscribe (q : Request) (pl : Place) (d : Dev) : Dev :=
  if q.body.length ≠ 5 then d.respond q Status.badLength []
  else match d.locate pl (beAt q.body 0 2) (beAt q.body 2 1) with
    | .error s => d.respond q s []
    | .ok f =>
      if d.subsFull q.session then d.respond q Status.subFull []
      else
        let id := d.newSubId
        let period := beAt q.body 3 2
        let s : Subscription := { id, session := q.session, unit := q.unit, index := f.index, sub := f.sub, period, nextBlock := d.mscNow / 32 + max 1 period, last := d.readWire pl q.session f, remote := 0 }
        ({ d with subs := d.subs ++ [s], nextSub := (id + 1) % 65536 }).respond q Status.ok (toBE 2 id)

/-- UNSUBSCRIBE. -/
def serveUnsubscribe (q : Request) (d : Dev) : Dev :=
  if q.body.length ≠ 2 then d.respond q Status.badLength []
  else if d.subs.any fun s => s.id = fromBE q.body ∧ s.session = q.session then
    ({ d with subs := d.subs.filter fun s => s.id ≠ fromBE q.body }).respond q Status.ok []
  else d.respond q Status.noEntry []

/-- ECHO. -/
def serveEcho (q : Request) (d : Dev) : Dev :=
  if q.room < q.body.length then d.respond q Status.tooLong [] else d.respond q Status.ok q.body

end Dev

end Sys2Proof.Machine
end

