-- ==== Sys2Proof/Machine/Blocks.lean ====
section
/-! DEFINITION. Block transfers: BLOCK_BEGIN, BLOCK_DATA, BLOCK_END, BLOCK_ABORT and their timeout (R57 to R59, R42). -/

namespace Sys2Proof.Machine

/-- The segment size (R57). -/
def segmentSize : Nat := 1424

namespace Dev

/-- An open transfer of a session, by its number (R57). -/
def transferOf (d : Dev) (h id : Nat) : Option Transfer := d.transfers.find? fun t => t.id = id ∧ t.session = h

/-- A transfer changed. -/
def setTransfer (id : Nat) (f : Transfer → Transfer) (d : Dev) : Dev := { d with transfers := d.transfers.map fun (t : Transfer) => if t.id = id then f t else t }

/-- A transfer discarded. -/
def dropTransfer (id : Nat) (d : Dev) : Dev := { d with transfers := d.transfers.filter fun t => t.id ≠ id }

/-- The number of the next transfer: the counter, which skips 0 and the numbers of open transfers (R57). -/
def newTransferId (d : Dev) : Nat :=
  ((List.range 8).map fun i => (d.nextTransfer + i) % 65536).find? (fun n => n ≠ 0 && !(d.transfers.any fun t => t.id == n)) |>.getD 1

/-- The selection that a session's read of an entry uses, fixed at BLOCK_BEGIN. -/
def selectionOf (d : Dev) (h : Nat) (f : Found) : Int := match selectorOf f.row with | some s => d.sessionInt h s | none => 0

/-- The octets of an entry as a block read forms them now: a BLOB's octets, else the value's wire form. -/
def blockValue (d : Dev) (pl : Place) (h : Nat) (f : Found) (select : Int) : Octets :=
  if f.row.ty = .blob then d.readBlob pl f select else d.readWire pl h f

/-- What refuses a block read: a recorder without recording, a log selection above the newest record (R377, R500). -/
def blockReadCheck (d : Dev) (f : Found) (select : Int) : Status :=
  if f.is Reg.recorderRead then badIf (decide (d.nat Reg.recorderState ≤ 2)) Status.state
  else if f.is Reg.logRead then badIf (d.logReadCount select.toNat).isNone Status.range
  else Status.ok

/-- What refuses a block write at its BLOCK_BEGIN: access, a size of 0 where the entry does not state what it means, a size
above the stated maximum, a key size, a standby (R42, R57, R435, R512). -/
def blockWriteCheck (d : Dev) (g : Giver) (f : Found) (size : Nat) : Status :=
  firstBad [checkAccess g f, badIf (size == 0 && !f.is Reg.revokedCerts) Status.range,
    badIf (f.row.ty == .key && !((keySlot f.index f.sub).getD fun _ => false) size) Status.badLength, badIf (decide (maxSize f.row < size)) Status.tooLong,
    badIf (d.standbyRefuses f) Status.state]

/-- A transfer opened and answered (R57). -/
def openTransfer (q : Request) (f : Found) (read : Bool) (size crc : Nat) (data : Octets) (select : Int) (remote : Nat) (d : Dev) : Dev :=
  let id := d.newTransferId
  let t : Transfer := { id, session := q.session, unit := q.unit, index := f.index, sub := f.sub, fromDevice := read, size, crc, data, next := 0, lastSegment := [], lastAt := d.clock, failed := false, select, remote }
  ({ d with transfers := d.transfers ++ [t], nextTransfer := (id + 1) % 65536 }).respond q Status.ok (toBE 2 id ++ toBE 2 segmentSize ++ (if read then toBE 4 size else []))

/-- BLOCK_BEGIN of an entry that this unit holds. -/
def beginBlock (q : Request) (g : Giver) (pl : Place) (f : Found) (d : Dev) : Dev :=
  let size := beAt q.body 4 4
  if beAt q.body 3 1 = 1 then
    let select := d.selectionOf q.session f
    let s := d.blockReadCheck f select
    if s ≠ Status.ok then d.respond q s []
    else if 4 ≤ d.transfers.length then d.respond q Status.busy []
    else let v := d.blockValue pl q.session f select; d.openTransfer q f true v.length 0 v select 0
  else
    let s := d.blockWriteCheck g f size
    if s ≠ Status.ok then (d.roleNotice f.index f.sub g.role s).respond q s []
    else if 4 ≤ d.transfers.length then d.respond q Status.busy []
    else
      let u := if f.is Reg.updateImage then d.uploadBegin else (Status.ok, d)
      if u.1 ≠ Status.ok then d.respond q u.1 [] else u.2.openTransfer q f false size (beAt q.body 8 4) [] 0 0

/-- BLOCK_BEGIN at this unit. -/
def serveBegin (q : Request) (g : Giver) (pl : Place) (d : Dev) : Dev :=
  if q.body.length ≠ 12 then d.respond q Status.badLength []
  else match d.locate pl (beAt q.body 0 2) (beAt q.body 2 1) with
    | .error s => d.respond q s []
    | .ok f => if 1 < beAt q.body 3 1 then d.respond q Status.range [] else d.beginBlock q g pl f

/-- Whether a transfer has had no segment for 10 s (R59). -/
def transferOld (d : Dev) (t : Transfer) : Bool := decide (t.lastAt + secCycles 10 ≤ d.clock)

/-- The transfer that a request names, as long as it is its session's and not discarded (R57, R59). -/
def liveTransfer (d : Dev) (q : Request) : Option Transfer := (d.transferOf q.session (beAt q.body 0 2)).filter fun t => !d.transferOld t

/-- Whether a transfer that a bus error discarded waits for its BLOCK_END (R489). -/
def failedTransfer (t : Transfer) : Bool := t.failed

/-- BLOCK_TRANSFER_TIMEOUT: a transfer with no segment for 10 s is discarded (R59). -/
def transferTimeout (id : Nat) (d : Dev) : Dev :=
  match d.transfers.find? fun t => t.id = id with
  | none => d
  | some t => let d := d.advanceTo (t.lastAt + secCycles 10); if d.transferOld t then d.dropTransfer id else d

/-- A segment written: the checks of R58 in their order. -/
def writeSegment (q : Request) (t : Transfer) (d : Dev) : Dev :=
  let off := beAt q.body 2 4
  let data := q.body.drop 6
  let whole := min segmentSize (t.size - t.next)
  if t.size < off + data.length then d.respond q Status.tooLong []
  else if off < t.next ∧ off % segmentSize = 0 ∧ data.length = min segmentSize (t.size - off) then
    (d.setTransfer t.id fun t => { t with lastAt := d.clock }).respond q Status.ok (toBE 4 t.next)
  else if off ≠ t.next then d.respond q Status.blockSeq (toBE 4 t.next)
  else if data.length ≠ whole ∨ whole = 0 then d.respond q Status.badLength []
  else (d.setTransfer t.id fun t => { t with data := t.data ++ data, next := t.next + data.length, lastAt := d.clock }).respond q Status.ok (toBE 4 (t.next + data.length))

/-- A segment read: formed when it is asked for, or sent again; a value that has become shorter leaves the octets held at
BLOCK_BEGIN (R58). -/
def readSegment (q : Request) (t : Transfer) (d : Dev) : Dev :=
  let off := beAt q.body 2 4
  let pl := d.placeOf t.unit
  if q.body.length ≠ 6 then d.respond q Status.badLength []
  else if off = t.next then
    match d.locate pl t.index t.sub with
    | .error s => d.respond q s []
    | .ok f =>
      let now := d.blockValue pl q.session f t.select
      let seg := ((now ++ t.data.drop now.length).drop off).take (min segmentSize (t.size - off))
      let d := d.setTransfer t.id fun t => { t with data := t.data.take off ++ seg ++ t.data.drop (off + seg.length), next := off + seg.length, lastSegment := if seg.isEmpty then t.lastSegment else seg, lastAt := d.clock }
      d.respond q Status.ok (toBE 4 (off + seg.length) ++ seg)
  else if !t.lastSegment.isEmpty ∧ off + t.lastSegment.length = t.next then
    (d.setTransfer t.id fun t => { t with lastAt := d.clock }).respond q Status.ok (toBE 4 t.next ++ t.lastSegment)
  else d.respond q Status.blockSeq (toBE 4 t.next)

/-- BLOCK_DATA. -/
def serveData (q : Request) (d : Dev) : Dev :=
  if q.body.length < 6 then d.respond q Status.badLength []
  else match d.liveTransfer q with
    | none => (d.dropTransfer (if (d.transferOf q.session (beAt q.body 0 2)).isSome then beAt q.body 0 2 else 0)).respond q Status.blockNone []
    | some t => if failedTransfer t then d.respond q Status.blockNone [] else if t.fromDevice then d.readSegment q t else d.writeSegment q t

/-- Whether a count-led BLOB holds a count of 0 with the matching size: a no-op (R42). -/
def countsNone (f : Found) (b : Octets) : Bool :=
  (f.is Reg.xpPatch && decide (b.length = 8) && beAt b 2 2 * beAt b 6 2 == 0) || (f.is Reg.routePatch && decide (b.length = 4) && beAt b 0 4 == 0)

/-- What the verification of a programme image leaves: MixVerifyResult, and notice 0x6802 on a failure (R189, R196). -/
def noteVerify (f : Found) (b : Octets) (d : Dev) : Dev :=
  if !f.is Reg.programmeImage then d
  else match verifyImage b d.fr d.outs with
    | some c => (d.setNat Reg.mixVerifyResult c).notice 0x6802 c
    | none => d.setNat Reg.mixVerifyResult 0

/-- A DATED block write as an entry: STAGED at once, or for more than one unit answered with its outcome (R56, R59). -/
def stageTransfer (q : Request) (g : Giver) (f : Found) (v : Val) (d : Dev) : Dev :=
  if countsNone f v.toBytes then d.respond q Status.ok []
  else if !d.datedRoom 1 then d.respond q Status.busy []
  else match d.stageElements q g.role [(f, v)] with
    | none => d.respond q Status.busy []
    | some r =>
      if r.2.multiUnit r.1 then { r.2 with heldEnds := r.2.heldEnds ++ [(r.1.ident, q)], lastStatus := Status.staged }
      else r.2.respond q Status.staged (toBE 8 r.1.date)

/-- A block write whose octets are complete and sound, by the entry's class (R59). -/
def finishBlock (mem : List Host.Cell) (q : Request) (g : Giver) (pl : Place) (t : Transfer) (d : Dev) : Dev :=
  match d.locate pl t.index t.sub with
  | .error s => d.respond q s []
  | .ok f =>
    if f.is Reg.updateImage then
      let u := d.uploadEnd t.data
      (if u.1 = Status.ok then u.2.bumpEpoch else u.2).respond q u.1 []
    else
      let checked := d.checkWrite mem g pl true t.index t.sub f.row.ty.code t.data
      let d := d.noteVerify f t.data
      let es : List Element := [{ index := t.index, sub := t.sub, code := f.row.ty.code, raw := t.data }]
      match checked with
      | .error s => ((d.noteRefused g.session pl es s).roleNotice t.index t.sub g.role s).respond q s []
      | .ok x => if f.row.commit = .dated then d.stageTransfer q g x.1 x.2 else d.acceptElements mem q g pl false es [x]

/-- The octets of a written transfer are all there and match its CRC-32C (R59). -/
def blockSound (t : Transfer) : Bool := t.data.length == t.size && crc32c t.data == t.crc

/-- BLOCK_END. -/
def serveEnd (mem : List Host.Cell) (q : Request) (g : Giver) (d : Dev) : Dev :=
  if q.body.length ≠ 2 then d.respond q Status.badLength []
  else match d.liveTransfer q with
    | none => (d.dropTransfer (if (d.transferOf q.session (beAt q.body 0 2)).isSome then beAt q.body 0 2 else 0)).respond q Status.blockNone []
    | some t =>
      let d := d.dropTransfer t.id
      let pl := d.placeOf t.unit
      if failedTransfer t then d.respond q Status.internal []
      else if t.fromDevice then
        let d := if entryKey t.index t.sub = Reg.captureRead.key then d.captureRepost t.select.toNat t.next else d
        d.respond q Status.ok (toBE 4 (crc32c (t.data.take t.next)))
      else if !blockSound t then d.respond q Status.blockCheck []
      else d.finishBlock mem q g pl t

/-- BLOCK_ABORT. -/
def serveAbort (q : Request) (d : Dev) : Dev :=
  if q.body.length ≠ 2 then d.respond q Status.badLength []
  else match d.transferOf q.session (fromBE q.body) with
    | none => d.respond q Status.blockNone []
    | some t => (d.dropTransfer t.id).respond q (if d.transferOld t then Status.blockNone else Status.ok) []

end Dev

end Sys2Proof.Machine
end

