-- ==== Sys2Proof/Machine/CalServices.lean ====
section
/-! DEFINITION. The calendar services of Table 3-1 (R76 to R84). -/

namespace Sys2Proof.Machine

namespace Dev

/-- Whether a unit refuses calendar services that change an entry: a standby (R435). -/
def calendarClosed (d : Dev) : Bool := d.nat Reg.pairState == 5 || d.nat Reg.pairState == 6

/-- CAL_OPEN. -/
def serveCalOpen (q : Request) (g : Giver) (d : Dev) : Dev :=
  if !q.body.isEmpty then d.respond q Status.badLength []
  else if d.calendarClosed then d.respond q Status.state []
  else match d.newEntry q.unit q.session g.role .opened with
    | none => d.respond q Status.busy []
    | some r => (r.2.copyEntry r.1).respond q Status.ok (toBE 2 r.1.ident)

/-- The entry that a building service names, or what refuses the service: NO_ENTRY, CONFLICT from another unit or session,
STATE once it is closed (R77, R80). -/
def buildable (d : Dev) (q : Request) : Except Status CalEntry :=
  match d.entryOf (beAt q.body 0 2) with
  | none => .error Status.noEntry
  | some e =>
    if e.unit ≠ q.unit ∨ e.session ≠ q.session then .error Status.conflict
    else if e.state ≠ .opened ∨ d.calendarClosed then .error Status.state
    else .ok e

/-- One element of a CAL_ADD checked: only DATED entries are accepted (R79). -/
def addCheck (d : Dev) (mem : List Host.Cell) (g : Giver) (pl : Place) (e : Element) : Except Status (Found × Val) :=
  match d.locate pl e.index e.sub with
  | .error s => .error s
  | .ok f => if f.row.commit ≠ .dated ∧ checkAccess g f = Status.ok then .error Status.conflict else d.checkWrite mem g pl false e.index e.sub e.code e.raw

/-- Changes added to an entry, or the status that refuses them; nothing is added then (R76, R79). -/
def addChanges (e : CalEntry) (l : List (Found × Val)) (d : Dev) : Status × Dev :=
  let new := l.foldl (fun a x => addChange a { index := x.1.index, sub := x.1.sub, val := x.2 }) e.changes
  let s := d.changesRoom e.changes new
  (s, if s = Status.ok then (d.putCal { e with changes := new }).copyEntry { e with changes := new } else d)

/-- CAL_ADD. A failure that concerns no one element carries no position (DESIGN CHOICE). -/
def serveCalAdd (mem : List Host.Cell) (q : Request) (g : Giver) (pl : Place) (d : Dev) : Dev :=
  if q.body.length < 3 then d.respond q Status.badLength []
  else match d.buildable q with
    | .error s => d.respond q s []
    | .ok e =>
      let r := parseElements (beAt q.body 2 1) (q.body.drop 3)
      if r.2 = 2 then d.respond q Status.badLength []
      else match firstFailure (r.1.map (d.addCheck mem g pl)) with
        | .error (i, s) =>
          let x := r.1.getD i { index := 0, sub := 0, code := 0, raw := [] }
          (d.roleNotice x.index x.sub g.role s).respond q s (toBE 1 i)
        | .ok l => let a := d.addChanges e l; a.2.respond q a.1 []

/-- CAL_CLOSE. -/
def serveCalClose (q : Request) (d : Dev) : Dev :=
  if q.body.length ≠ 10 then d.respond q Status.badLength []
  else match d.buildable q with
    | .error s => d.respond q s []
    | .ok e => match d.dateFor e (beAt q.body 2 8) with
      | .error s => d.respond q s []
      | .ok date => (d.stageEntry e date).respond q Status.staged (toBE 8 date)

/-- The entry that a service of any session names, if the session's role is at least that of the opening one (R80). -/
def visible (d : Dev) (q : Request) (g : Giver) : Except Status CalEntry :=
  match d.entryOf (beAt q.body 0 2) with
  | none => .error Status.noEntry
  | some e => if g.role.rank < e.role.rank then .error Status.role else .ok e

/-- A calendar service refused, with notice 0x2302 where the role is too weak. -/
def refuseVisible (q : Request) (g : Giver) (s : Status) (d : Dev) : Dev :=
  let n := match d.entryOf (beAt q.body 0 2) with | some e => firstChange e | none => (0, 0)
  (d.roleNotice n.1 n.2 g.role s).respond q s []

/-- CAL_CANCEL. -/
def serveCalCancel (q : Request) (g : Giver) (d : Dev) : Dev :=
  if q.body.length ≠ 2 then d.respond q Status.badLength []
  else match d.visible q g with
    | .error s => d.refuseVisible q g s
    | .ok e =>
      if d.calendarClosed then d.respond q Status.state []
      else if e.state = .opened then ((d.freeCal e.slot).tellStandby (.cancel e.slot)).respond q Status.ok []
      else if e.state = .staged ∨ e.state = .preparing then (d.cancelEntry e).respond q Status.ok []
      else d.respond q Status.state []

/-- The outcome octet of CAL_STATUS (R78). -/
def outcomeCode : CalState → Nat
  | .committed => 1
  | .partially => 3
  | .refused => 4
  | _ => 0

/-- CAL_STATUS; on CAN FD the bitmap covers at most the first 136 units (R82). -/
def serveCalStatus (q : Request) (g : Giver) (d : Dev) : Dev :=
  if q.body.length ≠ 2 then d.respond q Status.badLength []
  else match d.visible q g with
    | .error s => d.refuseVisible q g s
    | .ok e =>
      let map := if e.state.final then e.bitmap else d.bitmapOf e
      let units := (d.covered e.unit).length
      let n := if q.ident.isSome then min units 136 else units
      d.respond q Status.ok (toBE 1 e.state.code ++ toBE 1 (outcomeCode e.state) ++ toBE 8 e.date ++ toBE 4 e.journalSeq ++ toBE 2 n ++ map.take (cdiv n 4))

/-- CAL_LIST: the entries from a slot on that are not FREE and that the session may see. -/
def serveCalList (q : Request) (g : Giver) (d : Dev) : Dev :=
  if q.body.length ≠ 3 then d.respond q Status.badLength []
  else
    let l := (d.ownEntries.filter fun e => decide (beAt q.body 0 2 ≤ e.slot) && decide (e.role.rank ≤ g.role.rank)).take (beAt q.body 2 1)
    let body := toBE 1 l.length ++ l.flatMap fun e => toBE 2 e.ident ++ toBE 1 e.state.code ++ toBE 8 e.date ++ toBE 2 e.changes.length
    if q.room < body.length then d.respond q Status.tooLong [] else d.respond q Status.ok body

/-- CAL_PEEK: a change as added; a BLOB's octets are not carried, only its type. -/
def serveCalPeek (q : Request) (g : Giver) (d : Dev) : Dev :=
  if q.body.length ≠ 4 then d.respond q Status.badLength []
  else match d.visible q g with
    | .error s => d.refuseVisible q g s
    | .ok e => match e.changes[beAt q.body 2 2]? with
      | none => d.respond q Status.range []
      | some c =>
        let ty := match findRow c.index c.sub with | some r => r.ty | none => .blob
        let body := toBE 2 c.index ++ toBE 1 c.sub ++ toBE 1 ty.code ++ (if ty = .blob then [] else valWire ty c.val)
        if q.room < body.length then d.respond q Status.tooLong [] else d.respond q Status.ok body

/-- A finished transfer attached as a change: the checks of R59, then those of a write (R42, R81). -/
def attach (mem : List Host.Cell) (q : Request) (g : Giver) (pl : Place) (e : CalEntry) (t : Transfer) (d : Dev) : Dev :=
  match d.locate pl t.index t.sub with
  | .error s => d.respond q s []
  | .ok f =>
    if f.row.commit ≠ .dated then d.respond q Status.conflict []
    else if !blockSound t then (d.dropTransfer t.id).respond q Status.blockCheck []
    else
      let checked := d.checkWrite mem g pl true t.index t.sub f.row.ty.code t.data
      let d := d.noteVerify f t.data
      match checked with
      | .error s => ((d.dropTransfer t.id).roleNotice t.index t.sub g.role s).respond q s []
      | .ok x =>
        if countsNone f t.data then (d.dropTransfer t.id).respond q Status.ok []
        else
          let a := d.addChanges e [x]
          (if a.1 = Status.ok then a.2.dropTransfer t.id else a.2).respond q a.1 []

/-- CAL_ATTACH. -/
def serveCalAttach (mem : List Host.Cell) (q : Request) (g : Giver) (pl : Place) (d : Dev) : Dev :=
  if q.body.length ≠ 4 then d.respond q Status.badLength []
  else match d.buildable q with
    | .error s => d.respond q s []
    | .ok e => match (d.transferOf q.session (beAt q.body 2 2)).filter fun t => !d.transferOld t with
      | none => d.respond q Status.blockNone []
      | some t => if t.fromDevice ∨ t.unit ≠ e.unit then d.respond q Status.conflict [] else d.attach mem q g pl e t

end Dev

end Sys2Proof.Machine
end

