-- ==== Sys2Proof/Machine/Knasiug.lean ====
section
/-! DEFINITION. Knasiug frames in: header and tag checks, the cache, dispatch by service, and what the head asks of other units (R45 to R54, R477). -/

namespace Sys2Proof.Machine

/-- The service code of a frame, where the frame is long enough to have one: its header octet on UDP, its first payload octet
on CAN FD (Tables 2-4 and 2-5). A CAN FD keepalive has none. -/
def frameService : Frame → Option Nat
  | .udp _ o => if o.length < 16 then none else some (beAt o 3 1)
  | .can _ _ p => if p.length < 12 then none else some (beAt p 0 1)
  | .fragment => none
  | .faulted _ o => if o.length < 16 then none else some (beAt o 3 1)

/-- The service codes of Table 2-6. -/
def knownServices : List Nat :=
  [0x01, 0x02, 0x03, 0x04, 0x10, 0x11, 0x12, 0x13, 0x20, 0x21, 0x22, 0x30, 0x31, 0x32, 0x33, 0x34, 0x35, 0x36, 0x37, 0x7F]

/-- The session field under which a member sends its notices. -/
def noticePort : Nat := 0xFFFFF

/-! ### Gathered answers (R110, R477) -/

/-- The response frames that came for an element of a gathered request, its own unit's first. -/
def Gather.frames (g : Gather) (k : Nat) : List Octets := (g.parts.filter fun p => p.element = k).map fun p => p.answer.getD []

/-- The status of a response frame. -/
def frameStatus (f : Octets) : Nat := beAt f 14 1

/-- One element of a read put together from the answers of the units that hold it: of several, the values of those that have
the object (R110). -/
def Gather.element (g : Gather) (row : Option Row) (k : Nat) : Status × Octets :=
  let all := g.frames k
  let good := all.filter fun f => frameStatus f == Status.ok
  match row, good with
  | some r, f :: _ :: _ => (Status.ok, (f.drop 16).take 1 ++ toBE r.ty.size (Dev.gatherValues r (good.map fun f => fromBE (f.drop 17))))
  | _, f :: _ => (Status.ok, f.drop 16)
  | _, [] => (frameStatus (all.headD []), [])

namespace Dev

/-! ### What the head asks of other units (R477) -/

/-- A request that another unit answers whole. -/
def forward (u service : Nat) (q : Request) (role : Role) (body : Octets) (d : Dev) : Dev :=
  let r := d.askPart u service q role body
  { r.2 with gathers := r.2.gathers ++ [{ request := q, parts := [{ element := 0, ask := r.1, answer := none }] }] }

/-- The other unit's entry that an index and sub-index name in the group view. -/
def awayOf (d : Dev) (pl : Place) (idx sub : Nat) : Option (Nat × Nat) :=
  match d.locate pl idx sub with
  | .ok f => f.away
  | .error _ => none

/-- The modules of the group other than this one, for a value that is gathered from every module that holds the object (R110). -/
def otherModules (d : Dev) : List Nat := d.treeUnits.filter fun u => decide (d.moduleOf u = u) && decide (u ≠ d.ownUnit) && decide (d.nat Reg.unitState u ≠ 0)

/-- The units that one element of a read is asked of, with the index there: the holder of another module's output; for the
status of an object in the group view every other module besides (R110, R477). -/
def askedOf (d : Dev) (pl : Place) (idx sub : Nat) : List (Nat × Nat) :=
  match d.locate pl idx sub with
  | .ok f =>
    match f.away with
    | some w => [w]
    | none => if pl == .group && gatheredRow f.row then d.otherModules.map fun u => (u, idx) else []
  | .error _ => []

/-- One element of a read asked of the units concerned, and read here where this unit holds it too. -/
def askElement (q : Request) (role : Role) (pl : Place) (k : Nat) (n : Nat × Nat) (a : List Part × Dev) : List Part × Dev :=
  let asked := a.2.askedOf pl n.1 n.2
  let own : List Part :=
    if (a.2.awayOf pl n.1 n.2).isSome then []
    else let r := a.2.readOne q.session pl n.1 n.2; [{ element := k, ask := 0, answer := some (knFrame 0x01 1 0 q.unit r.1 (if r.1 = Status.ok then r.2.1 else [])) }]
  asked.foldl (fun (a : List Part × Dev) w =>
    let x := a.2.askPart w.1 0x01 q role (toBE 2 w.2 ++ toBE 1 n.2)
    (a.1 ++ [{ element := k, ask := x.1, answer := none }], x.2)) (a.1 ++ own, a.2)

/-- A read with elements that other units hold or share: each is asked for, the rest read here. -/
def gatherRead (q : Request) (role : Role) (pl : Place) (names : List (Nat × Nat)) (d : Dev) : Dev :=
  let r := names.zipIdx.foldl (fun (a : List Part × Dev) n => askElement q role pl n.2 n.1 a) ([], d)
  { r.2 with gathers := r.2.gathers ++ [{ request := q, parts := r.1 }] }

/-- The read services at another unit: a READ or READ_MULTI with an element that is asked of other units. -/
def readAway (q : Request) (role : Role) (pl : Place) (names : List (Nat × Nat)) (d : Dev) : Option Dev :=
  if names.any fun n => !(d.askedOf pl n.1 n.2).isEmpty then some (d.gatherRead q role pl names) else none

/-- The block services at another unit: a transfer of an element that it holds (R57 to R59). -/
def blockAway (q : Request) (role : Role) (pl : Place) (d : Dev) : Option Dev :=
  if q.service = 0x10 then
    if q.body.length ≠ 12 then none
    else match d.locate pl (beAt q.body 0 2) (beAt q.body 2 1) with
      | .ok f => (match f.away with
        | some w =>
          if beAt q.body 3 1 ≠ 1 && f.row.commit == .dated then none
          else if 4 ≤ d.transfers.length then some (d.respond q Status.busy [])
          else some (d.forward w.1 0x10 q role (toBE 2 w.2 ++ q.body.drop 2))
        | none => none)
      | .error _ => none
  else match (d.transferOf q.session (beAt q.body 0 2)).filter fun t => t.remote ≠ 0 with
    | some t => some (d.forward (t.remote / 65536) q.service q role (toBE 2 (t.remote % 65536) ++ q.body.drop 2))
    | none => none

/-- The subscription services at another unit (R54, R60). -/
def subscribeAway (q : Request) (role : Role) (pl : Place) (d : Dev) : Option Dev :=
  if q.service = 0x20 then
    if q.body.length ≠ 5 then none
    else (d.awayOf pl (beAt q.body 0 2) (beAt q.body 2 1)).map fun w =>
      if d.subsFull q.session then d.respond q Status.subFull [] else d.forward w.1 0x20 q role (toBE 2 w.2 ++ q.body.drop 2)
  else if q.body.length ≠ 2 then none
  else (d.subs.find? fun s => s.id = fromBE q.body ∧ s.session = q.session ∧ s.remote ≠ 0).map fun s =>
    d.forward (s.remote / 65536) 0x21 q role (toBE 2 (s.remote % 65536))

/-- Whether a request concerns an element that another unit holds, in the group view: it is asked there. -/
def servedAway (q : Request) (role : Role) (pl : Place) (d : Dev) : Option Dev :=
  match q.service with
  | 0x01 => if q.body.length = 3 then d.readAway q role pl [(beAt q.body 0 2, beAt q.body 2 1)] else none
  | 0x03 => (multiNames q.body).bind fun l => d.readAway q role pl l
  | 0x20 | 0x21 => d.subscribeAway q role pl
  | 0x10 | 0x11 | 0x12 | 0x13 => d.blockAway q role pl
  | _ => none

/-! ### Services (Table 2-6) -/

/-- The services of reading, writing and subscribing, at a place of this unit. -/
def serveEntry (mem : List Host.Cell) (q : Request) (g : Giver) (pl : Place) (d : Dev) : Option Dev :=
  match q.service with
  | 0x01 => some (d.serveRead q pl)
  | 0x02 => some (d.serveWrite mem q g pl)
  | 0x03 => some (d.serveReadMulti q pl)
  | 0x04 => some (d.serveWriteMulti mem q g pl)
  | 0x20 => some (d.serveSubscribe q pl)
  | 0x21 => some (d.serveUnsubscribe q)
  | 0x7F => some (d.serveEcho q)
  | _ => none

/-- The block services. -/
def serveBlock (mem : List Host.Cell) (q : Request) (g : Giver) (pl : Place) (d : Dev) : Option Dev :=
  if q.service < 0x10 ∨ 0x13 < q.service then none
  else match q.service with
    | 0x10 => some (d.serveBegin q g pl)
    | 0x11 => some (d.serveData q)
    | 0x12 => some (d.serveEnd mem q g)
    | _ => some (d.serveAbort q)

/-- The calendar services; in BOOT each is answered STATE (R91). -/
def serveCalendar (mem : List Host.Cell) (q : Request) (g : Giver) (pl : Place) (d : Dev) : Option Dev :=
  if d.power.state = .boot then some (d.respond q Status.state [])
  else match q.service with
  | 0x30 => some (d.serveCalOpen q g)
  | 0x31 => some (d.serveCalAdd mem q g pl)
  | 0x32 => some (d.serveCalClose q)
  | 0x33 => some (d.serveCalCancel q g)
  | 0x34 => some (d.serveCalStatus q g)
  | 0x35 => some (d.serveCalList q g)
  | 0x36 => some (d.serveCalAttach mem q g pl)
  | 0x37 => some (d.serveCalPeek q g)
  | _ => none

/-- A request served at a place of this unit's dictionary. -/
def serveHere (mem : List Host.Cell) (q : Request) (g : Giver) (pl : Place) (d : Dev) : Dev :=
  match d.servedAway q g.role pl with
  | some e => e
  | none => match d.serveEntry mem q g pl with
    | some e => e
    | none => match d.serveBlock mem q g pl with
      | some e => e
      | none => (d.serveCalendar mem q g pl).getD (d.respond q Status.unsupported [])

/-- Whether a service transfers blocks: CAN FD has none of them (R53). -/
def blockService (s : Nat) : Bool := (decide (0x10 ≤ s) && decide (s ≤ 0x13)) || s == 0x36

/-- A request by its target unit: here, at another unit of the group, or nowhere (Table 2-7). -/
def serveUnit (mem : List Host.Cell) (q : Request) (role : Role) (d : Dev) : Dev :=
  if !knownServices.contains q.service ∨ q.service = 0x22 ∨ (q.ident.isSome ∧ blockService q.service) then d.respond q Status.unsupported []
  else match d.placeOf q.unit with
    | .absent => d.respond q Status.noUnit []
    | .away u => if d.headsGroup && d.drada.formed then d.forward u q.service q role q.body else d.respond q Status.noUnit []
    | pl => d.serveHere mem q { session := q.session, role } pl

/-- A request of a session: a repeated RequestId is answered with its stored response, any other is executed (R48). One whose
response is still outstanding is in no store yet, and is executed again (DESIGN CHOICE). -/
def serveRequest (mem : List Host.Cell) (q : Request) (d : Dev) : Dev :=
  match d.session? q.session with
  | none => d
  | some s =>
    match s.cache.find? fun c => c.1 = q.id with
    | some c =>
      let r := d.formResponse q (beAt c.2 0 1) (beAt c.2 1 1 = 1) (c.2.drop 2)
      let d := { r.2 with lastStatus := beAt c.2 0 1 }
      (match r.1 with | some o => d.sendOut o | none => d)
    | none =>
      let e := { d with serving := if s.can then none else some s.handle }.serveUnit mem q s.role
      { e with serving := none }

/-! ### UDP (R46, R47) -/

/-- A frame of a DTLS session, or of one that stands for a session of the head. A wrong version or body length is answered as
such even where the RequestId repeats a stored one, whose response the answer replaces (DESIGN CHOICE). -/
def udpFrame (mem : List Host.Cell) (h : Nat) (o : Octets) (d : Dev) : Dev :=
  if !(d.sessions.any fun s => s.handle = h ∧ !s.can) then d
  else
    let d := d.setSession h fun s => { s with lastFrameAt := d.clock }
    if o.length < 16 ∨ 1450 < o.length ∨ beAt o 0 2 ≠ 0x4B4E then d.bump Reg.framesDropped
    else
      let q : Request := { session := h, ident := none, id := beAt o 8 4, service := beAt o 3 1, unit := beAt o 12 2, body := o.drop 16 }
      if beAt o 2 1 ≠ 1 then d.respond q Status.unsupported []
      else if beAt o 6 2 ≠ q.body.length then d.respond q Status.badLength []
      else d.serveRequest mem q

/-! ### CAN FD (R50 to R52) -/

/-- A frame that is ignored and counted. -/
def canIgnored (d : Dev) : Dev := d.bump Reg.canFramesIgnored

/-- The tag and freshness of a frame from a host: accepted, its counter kept in MRAM; or dropped and counted (R52). With no
key no tag matches. -/
def canAccept (host ident : Nat) (p : Octets) (d : Dev) : Bool × Dev :=
  let n := p.length
  let fresh := beAt p (n - 8) 4
  let last := d.nat Reg.canFreshnessRx (host - 1)
  let key := d.canKeyOctets
  if !key.isEmpty ∧ beAt p (n - 4) 4 = Config.cmac32 key (toBE 4 ident ++ p.take (n - 4)) % 2 ^ 32 ∧ last < fresh ∧ fresh ≤ last + 65536 then
    let d := (d.setNat Reg.canFreshnessRx fresh (host - 1)).keep Reg.canFreshnessRx (host - 1)
    (true, if fresh = 0xFFFFFFFF then d.notice 0x1005 host else d)
  else (false, (d.bump Reg.canTagFailures).notice 0x1004 host)

/-- A CAN FD frame; frames for other nodes are ignored and not counted (R50). -/
def canFrame (mem : List Host.Cell) (extended : Bool) (ident : Nat) (p : Octets) (d : Dev) : Dev :=
  let host := bits ident 17 11
  if d.inForce Reg.canEnable ≠ 1 then d
  else if !extended then d.canIgnored
  else if bits ident 25 25 = 1 ∨ bits ident 24 18 ≠ d.inForce Reg.canNodeId then d
  else if bits ident 10 10 = 1 ∨ host = 0 then d.canIgnored
  else if !canLengths.contains p.length ∨ (p.length ≠ 8 ∧ p.length < beAt p 1 1 % 64 + 12) then d.canIgnored
  else
    let r := (d.canSession host).canAccept host ident p
    if !r.1 ∨ p.length = 8 then r.2
    else
      let q : Request := { session := canBase + host, ident := some ident, id := beAt p 3 1, service := beAt p 0 1, unit := bits ident 9 0, body := (p.drop 4).take (beAt p 1 1 % 64) }
      r.2.serveRequest mem q

/-- Whether calendar services are answered: in BOOT too, where no session of UDP is open and CAN FD alone can carry one (R91). -/
def takesCalendar (d : Dev) : Bool := d.answers || (d.live && d.power.state == .boot)

/-- A fault of the DTLS or crypto engine during a session: its request is answered INTERNAL, and the session closes (R530). -/
def faultedFrame (h : Nat) (o : Octets) (d : Dev) : Dev :=
  if 8 < h ∨ !(d.sessions.any fun s => s.handle = h ∧ !s.can) ∨ o.length < 16 then d
  else
    let q : Request := { session := h, ident := none, id := beAt o 8 4, service := beAt o 3 1, unit := beAt o 12 2, body := o.drop 16 }
    (d.respond q Status.internal []).cryptoFault h

/-- A frame as it arrives, whatever its transport. -/
def takeFrame (mem : List Host.Cell) (f : Frame) (d : Dev) : Dev :=
  match f with
  | .udp h o => if 8 < h then d else d.udpFrame mem h o
  | .can x i p => d.canFrame mem x i p
  | .fragment => d.bump Reg.framesDropped
  | .faulted h o => d.faultedFrame h o

/-- A request of one service: a frame of another service is not this request; a frame too short to name one is dropped. -/
def request (mem : List Host.Cell) (service : Nat) (f : Frame) (d : Dev) : Dev :=
  match frameService f with
  | some s => if s = service then d.takeFrame mem f else d
  | none => (match f with | .can _ _ p => if p.length = 8 then d else d.takeFrame mem f | .udp _ _ => d.takeFrame mem f | .fragment => d.takeFrame mem f | .faulted _ _ => d.takeFrame mem f)

/-- A request whose service code no service has. -/
def unknownService (mem : List Host.Cell) (f : Frame) (d : Dev) : Dev :=
  match frameService f with
  | some s => if knownServices.contains s then d else d.takeFrame mem f
  | none => d

/-- CAN_KEEPALIVE: an 8-octet frame carries freshness and tag only (R51). -/
def keepalive (mem : List Host.Cell) (f : Frame) (d : Dev) : Dev :=
  match f with
  | .can x i p => if p.length = 8 then d.canFrame mem x i p else d
  | .udp _ _ => d
  | .fragment => d
  | .faulted _ _ => d

/-! ### CONTROL cells (R477) -/

/-- The session that stands at this unit for a session of the head; its notices stay with the member's own. -/
def proxySession (h : Nat) (role : Role) (d : Dev) : Dev :=
  if d.sessions.any fun s => s.handle = proxyBase + h then d.setSession (proxyBase + h) fun s => { s with role }
  else { d with sessions := d.sessions ++ [{ headSession d.clock with handle := proxyBase + h, role, selects := [(Reg.noticeAreas.key, 0)] }] }

/-- The frame in a forwarded CONTROL cell served here. -/
def forwarded (mem : List Host.Cell) (body : Octets) (d : Dev) : Dev :=
  let h := beAt body 0 4
  (d.proxySession h (roleOfRank (beAt body 4 1))).udpFrame mem (proxyBase + h) (body.drop 5)

/-- The answer to a gathered READ_MULTI. -/
def gatheredMulti (g : Gather) (names : List (Nat × Nat)) (d : Dev) : Dev :=
  let q := g.request
  let es := names.zipIdx.map fun n => let r := g.element (findRow n.1.1 n.1.2) n.2; multiElement (r.1, r.2, false)
  d.answerMulti q es (names.any fun n => (d.readOne q.session (d.placeOf q.unit) n.1 n.2).2.2)

/-- The response to a forwarded request: as the other unit gave it, or TOO_LONG where its transport has no room (R46, R53). -/
def relay (q : Request) (frame : Octets) (d : Dev) : Dev :=
  if q.room < (frame.drop 16).length then d.respond q Status.tooLong []
  else d.respond q (frameStatus frame) (frame.drop 16) (beAt frame 4 2 / 4 % 2 = 1)

/-- BLOCK_BEGIN answered by another unit: a transfer here stands for the one there. -/
def beganAway (q : Request) (frame : Octets) (d : Dev) : Dev :=
  if frameStatus frame ≠ Status.ok then d.relay q frame
  else
    let id := d.newTransferId
    let read := beAt q.body 3 1 = 1
    let t : Transfer := { id, session := q.session, unit := q.unit, index := beAt q.body 0 2, sub := beAt q.body 2 1, fromDevice := read, size := if read then beAt frame 20 4 else beAt q.body 4 4, crc := 0, data := [], next := 0, lastSegment := [], lastAt := d.clock, failed := false, select := 0, remote := beAt frame 12 2 * 65536 + beAt frame 16 2 }
    ({ d with transfers := d.transfers ++ [t], nextTransfer := (id + 1) % 65536 }).respond q Status.ok (toBE 2 id ++ frame.drop 18)

/-- SUBSCRIBE answered by another unit: a subscription here stands for the one there (R54, R60). -/
def subscribedAway (q : Request) (frame : Octets) (d : Dev) : Dev :=
  if frameStatus frame ≠ Status.ok then d.relay q frame
  else
    let id := d.newSubId
    let s : Subscription := { id, session := q.session, unit := q.unit, index := beAt q.body 0 2, sub := beAt q.body 2 1, period := beAt q.body 3 2, nextBlock := 0, last := [], remote := beAt frame 12 2 * 65536 + beAt frame 16 2 }
    ({ d with subs := d.subs ++ [s], nextSub := (id + 1) % 65536 }).respond q Status.ok (toBE 2 id)

/-- A gathered request whose parts are all there: that of another unit as it stands, a read put together from its parts, a
write answered with the first status that is bad (R55, R110, R477). -/
def gathered (g : Gather) (d : Dev) : Dev :=
  let q := g.request
  let frames := g.frames 0
  let first := frames.headD []
  let here := beAt q.body 0 2
  match q.service with
  | 0x01 =>
    if d.placeOf q.unit ≠ .group then d.relay q first
    else
      let r := g.element (findRow here (beAt q.body 2 1)) 0
      d.relay q (knFrame 0x01 (beAt first 4 2) 0 q.unit r.1 r.2)
  | 0x03 => if d.placeOf q.unit ≠ .group then d.relay q first else d.gatheredMulti g ((multiNames q.body).getD [])
  | 0x10 => d.beganAway q first
  | 0x20 => d.subscribedAway q first
  | 0x21 => ({ d with subs := d.subs.filter fun s => !(s.id == fromBE q.body && s.session == q.session && s.remote != 0) }).relay q first
  | s =>
    let remote := (d.transferOf q.session here).any fun t => t.remote ≠ 0
    let d := if (s = 0x12 ∨ s = 0x13) ∧ remote then d.dropTransfer here
      else if s = 0x11 ∧ remote then d.setTransfer here fun t => { t with lastAt := d.clock }
      else d
    d.relay q ((frames.find? fun f => 0x10 ≤ frameStatus f).getD first)

/-- A part of a gathered request has come. -/
def partArrived (frame : Octets) (d : Dev) : Dev :=
  let n := beAt frame 8 4
  match d.gathers.find? fun g => g.parts.any fun p => p.ask = n ∧ p.answer.isNone with
  | none => d
  | some g =>
    let g' : Gather := { g with parts := g.parts.map fun (p : Part) => if p.ask = n ∧ p.answer.isNone then { p with answer := some frame } else p }
    if g'.parts.all fun p => p.answer.isSome then ({ d with gathers := d.gathers.erase g }).gathered g'
    else { d with gathers := d.gathers.map fun (y : Gather) => if y = g then g' else y }

/-- A response that another unit has sent to the head. -/
def responseFromBelow (body : Octets) (d : Dev) : Dev :=
  let h := beAt body 0 4
  if askBase ≤ h then d.partArrived (body.drop 4)
  else if d.sessions.any fun s => s.handle = h then d.emit (.response h (body.drop 4))
  else d

/-- A notice that another unit has sent to the head: for all sessions, or a report for one. -/
def noticeArrived (body : Octets) (d : Dev) : Dev :=
  let n : NoticeRec := { unit := beAt body 4 2, code := beAt body 6 2, date := beAt body 8 8, index := beAt body 16 2, sub := beAt body 18 1, arg := beAt body 19 4 }
  if beAt body 0 4 = noticePort then d.noticeFromBelow n
  else match d.session? (beAt body 0 4 % askBase) with
    | some s => let r := queueNotice n d s; r.2.setSession s.handle fun _ => r.1
    | none => d

/-- The sequence counters of the lead overwrite the standby's own, the seeded state of each stream map with them (R68, R434). -/
def takeCounters (body : Octets) (d : Dev) : Dev :=
  let d := ((d.setNat Reg.configEpoch (beAt body 0 4)).keep Reg.configEpoch).setJournal (beAt body 4 4)
  let d := (d.setNat Reg.canFreshnessTx (beAt body 8 4)).keep Reg.canFreshnessTx
  let d := (List.range 16).foldl (fun (d : Dev) i =>
    (d.setNat Reg.mapLastSequence (beAt body (12 + 4 * i) 4) i).setFifo i fun g => { g with seeded := (beAt body 584 2).testBit i, acceptedAt := d.clock }) d
  (List.range 127).foldl (fun (d : Dev) i => (d.setNat Reg.canFreshnessRx (beAt body (76 + 4 * i) 4) i).keep Reg.canFreshnessRx i) d

/-- What a CONTROL cell carries, by its code: from the partner an acknowledgement or counters, the pair's other messages being
commands of their own; from the group a frame, a response, a notice, the end of a session. -/
def controlMessage (mem : List Host.Cell) (pairwise : Bool) (code : Nat) (body : Octets) (d : Dev) : Dev :=
  if pairwise then
    (match code with
    | 5 => d.mirrorAck (beAt body 0 4)
    | 8 => if d.isLead then d else d.takeCounters body
    | _ => d)
  else match code with
    | 9 => d.forwarded mem body
    | 10 => d.responseFromBelow body
    | 11 => d.noticeArrived body
    | 12 => d.dropSessions [proxyBase + beAt body 0 4, proxyBase + askBase + beAt body 0 4]
    | _ => d

/-- DRADA_CONTROL_CELL: forwarded towards its unit, or consumed (R477). -/
def controlCell (mem : List Host.Cell) (k : Nat) (wire : Octets) (d : Dev) : Dev :=
  let r := d.passCell k .control false wire
  match r.2 with
  | none => r.1
  | some cell => r.1.controlMessage mem (decide (k = 2) && !r.1.lone) (beAt cell 12 4) ((cell.drop 16).take (cell.length - 20))

end Dev

end Sys2Proof.Machine
end

