-- ==== Sys2Proof/Machine/CmdCalendar.lean ====
section
/-! DEFINITION. The commands of the calendar, its journal and the lift-line. -/

namespace Sys2Proof.Machine

/-- FIR_FADE_ASSIGN: At tick D − 2 × B_max the device assigns FIR fades and SRAM slots to ready changes, cutting the
rest (R220). -/
def execFirFadeAssign (date : Nat) (s : State) : Host.Outcome State Fault Refusal :=
  s.run (Dev.whenUp fun d => d.firAssign date)

/-- PREPARE_START: At max(close, boundary − CalendarPrepareLead) the coordinator fixes the participants and prepare
begins (R85). -/
def execPrepareStart (slot : Nat) (s : State) : Host.Outcome State Fault Refusal :=
  s.run (Dev.whenUp fun d => d.prepareStart slot)

/-- PREPARE_ANSWER: A participant finishes its prepare work and answers PREPARED or FAILED (R86). -/
def execPrepareAnswer (slot : Nat) (s : State) : Host.Outcome State Fault Refusal :=
  s.run (Dev.whenUp fun d => d.prepareAnswer slot)

/-- PREPARE_DEADLINE: At the boundary minus 32 samples the coordinator decides commit or abort (R87). -/
def execPrepareDeadline (slot : Nat) (s : State) : Host.Outcome State Fault Refusal :=
  s.run (Dev.whenUp fun d => d.prepareDeadline slot)

/-- CALENDAR_COMMIT: At the effective boundary participants holding a commit decision apply the entry's changes (R88). -/
def execCalendarCommit (s : State) : Host.Outcome State Fault Refusal :=
  s.run (Dev.whenUp fun d => d.calendarCommit)

/-- OUTCOME_SETTLE_TIMEOUT: At the boundary + 64 samples an unsettled entry is settled as PARTIAL (R89). -/
def execOutcomeSettleTimeout (s : State) : Host.Outcome State Fault Refusal :=
  s.run (Dev.whenUp fun d => d.outcomeTimeout)

/-- CAL_RETENTION_EXPIRY: 10 s after reaching a final state the entry's slot is freed (R84). -/
def execCalRetentionExpiry (s : State) : Host.Outcome State Fault Refusal :=
  s.run (Dev.whenUp fun d => d.calRetention)

/-- JOURNAL_REPLAY: A returning unit reports its last sequence and catches up by entries or a full image (R93). -/
def execJournalReplay (own : Bool) (unit seq : Nat) (s : State) : Host.Outcome State Fault Refusal :=
  s.run (Dev.whenUp fun d => if d.isLead && (own || d.isHead) then d.journalReplay own unit seq else d)

/-- LIFT_ITEM_FINISH: A job engine completes a work item, frees its place and dispatches the next eligible item (R101). -/
def execLiftItemFinish (engine : Nat) (s : State) : Host.Outcome State Fault Refusal :=
  s.run (Dev.whenUp fun d => d.liftFinish engine)

/-- LIFT_AGE_LIMIT: The oldest item at a level has waited longer than LiftAgeLimit (R103). -/
def execLiftAgeLimit (s : State) : Host.Outcome State Fault Refusal :=
  s.run (Dev.whenUp fun d => d.liftAge)

/-- REALIGNMENT: The data path stops, is cleared, staged entries are cancelled and the MSC is aligned anew (R331). -/
def execRealignment (s : State) : Host.Outcome State Fault Refusal :=
  s.run (Dev.whenUp fun d => d.realignment)

/-- MIRROR_WRITE: The standby receives a mirrored write, applies it and acknowledges (R436). -/
def execMirrorWrite (id : Nat) (writes : List (Nat × Nat × Octets)) (s : State) : Host.Outcome State Fault Refusal :=
  if s.dev.answers then .next { s with dev := s.dev.mirrorWrite s.mem id writes } else .next s

/-- DRADA_CALENDAR_CELL: A CALENDAR cell delivers prepare traffic, decisions or confirmations (R87). -/
def execDradaCalendarCell (k : Nat) (cell : Octets) (message : CalMsg) (s : State) : Host.Outcome State Fault Refusal :=
  s.run (Dev.whenUp fun d => d.calendarCell k cell message)

end Sys2Proof.Machine
end

