-- ==== Sys2Proof/Machine/CmdDrada.lean ====
section
/-! DEFINITION. The commands of the Drada links and the group that no dictionary entry gives; calendar and control cells aside. -/

namespace Sys2Proof.Machine

/-- DRADA_CANDIDATE_TIMEOUT: A Drada candidate has run for 250 ms and the next is tried (R455). -/
def execDradaCandidateTimeout (k : Nat) (s : State) : Host.Outcome State Fault Refusal :=
  s.run (Dev.whenUp fun d => d.dradaCandTimeout k)

/-- DRADA_LINK_CELL: A LINK cell agrees the candidate and settings, or carries group formation data (R456). -/
def execDradaLinkCell (k : Nat) (cell : Octets) (message : LinkMsg) (s : State) : Host.Outcome State Fault Refusal :=
  s.run (Dev.whenUp fun d => d.linkArrives k cell message)

/-- DRADA_LINK_DOWN: Lock loss, failed replays or VC0 without credit takes the Drada link down (R457). -/
def execDradaLinkDown (k : Nat) (s : State) : Host.Outcome State Fault Refusal :=
  s.run (Dev.whenUp fun d => d.dradaDown k true)

/-- DRADA_RETRY_CYCLE: Every 2 s a NOAGREE Drada link repeats its cycle (R456). -/
def execDradaRetryCycle (k : Nat) (s : State) : Host.Outcome State Fault Refusal :=
  s.run (Dev.whenUp fun d => d.dradaRetry k)

/-- DRADA_FEED_CELL: A FEED cell is forwarded cut-through and its values written to the alignment buffer (R460). -/
def execDradaFeedCell (k : Nat) (cell : Octets) (s : State) : Host.Outcome State Fault Refusal :=
  s.run (Dev.whenUp fun d => d.feedCell k cell)

/-- DRADA_TICK_CELL: A tick frame delivers the lead's per-tick data to the standby (R434). -/
def execDradaTickCell (k : Nat) (cell : Octets) (frame : TickFrame) (s : State) : Host.Outcome State Fault Refusal :=
  s.run (Dev.whenUp fun d => d.tickCell k cell frame)

/-- DRADA_MOTION_CELL: A MOTION cell delivers motion FIFO counts and words (R98). -/
def execDradaMotionCell (k : Nat) (cell : Octets) (message : MotionMsg) (s : State) : Host.Outcome State Fault Refusal :=
  s.run (Dev.whenUp fun d => d.motionCell k cell message)

/-- DRADA_TIME_EXCHANGE: Every 1 ms a module below the head starts a TIME exchange with its DA neighbour (R478). -/
def execDradaTimeExchange (s : State) : Host.Outcome State Fault Refusal :=
  s.run (Dev.whenUp fun d => d.timeExchange)

/-- DRADA_TIME_CELL: A TIME cell is stamped and answered, or yields path delay and offset for the servo (R478). -/
def execDradaTimeCell (k : Nat) (cell : Octets) (message : TimeMsg) (s : State) : Host.Outcome State Fault Refusal :=
  s.run (Dev.whenUp fun d => d.timeCell k cell message)

/-- DRADA_CREDIT_CELL: A CREDIT cell returns credits per VC to the sender (R462). -/
def execDradaCreditCell (k : Nat) (cell : Octets) (s : State) : Host.Outcome State Fault Refusal :=
  s.run (Dev.whenUp fun d => d.creditCell k cell)

/-- DRADA_CREDIT_RETURN_TIMER: Every 1 µs a receiver returns unreturned freed credits (R462). -/
def execDradaCreditReturnTimer (k : Nat) (s : State) : Host.Outcome State Fault Refusal :=
  s.run (Dev.whenUp fun d => d.creditTimer k)

/-- DRADA_REPLAY_CELL: A REPLAY cell makes the sender resend every cell from the named LinkSeq (R463). -/
def execDradaReplayCell (k : Nat) (cell : Octets) (s : State) : Host.Outcome State Fault Refusal :=
  s.run (Dev.whenUp fun d => d.replayCell k cell)

/-- DRADA_FEED_LATE: A feed value missing at its deadline reads 0 and fades in after (R469). -/
def execDradaFeedLate (k date : Nat) (s : State) : Host.Outcome State Fault Refusal :=
  s.run (Dev.whenUp fun d => d.feedLate k date)

/-- DRADA_IDLE_ENTRY: A lane idle for DradaIdleAfter enters low-power idle (R479). -/
def execDradaIdleEntry (k : Nat) (s : State) : Host.Outcome State Fault Refusal :=
  s.run (Dev.whenUp fun d => d.idleEntry k)

/-- GROUP_FORM: GroupFormTimeout after BOOT the head forms the group and numbers its units (R472). -/
def execGroupForm (s : State) : Host.Outcome State Fault Refusal :=
  s.run (Dev.whenUp fun d => d.groupForm)

end Sys2Proof.Machine
end

