-- ==== Sys2Proof/Machine/CmdEntries.lean ====
section
/-! DEFINITION. The command entries and the entries whose write acts at once, each given by a row of its own. -/

namespace Sys2Proof.Machine

/-- LIFT_SNAPSHOT_TAKE: LiftSnapshotCmd "take" freezes the scheduler state into LiftSnapshot (R105). -/
def execLiftSnapshotTake (arg : Octets) (s : State) : Host.Outcome State Fault Refusal :=
  s.run (Dev.whenUp fun d => d.ranCommand (foundOf Reg.liftSnapshotCmd) arg fun d => noResult (d.liftSnapshotTake arg))

/-- REFRESH_ALL: RefreshAll "all" marks every enabled object of laws 1 to 3 through kind 3 items (R128). -/
def execRefreshAll (arg : Octets) (s : State) : Host.Outcome State Fault Refusal :=
  s.run (Dev.whenUp fun d => d.ranCommand (foundOf Reg.refreshAll) arg fun d => noResult (d.refreshAll arg))

/-- LOAD_PEAK_CLEAR: LoadPeakClear "clear" resets RenderLoadPeak and every RinkCyclesPeak (R167). -/
def execLoadPeakClear (arg : Octets) (s : State) : Host.Outcome State Fault Refusal :=
  s.run (Dev.whenUp fun d => d.ranCommand (foundOf Reg.loadPeakClear) arg fun d => noResult (d.loadPeakClear arg))

/-- MDIO_READ: MdioAccess "r" reads a PHY register (R261). -/
def execMdioRead (a r answer : Nat) (s : State) : Host.Outcome State Fault Refusal :=
  s.run (Dev.whenUp fun d => let text := ascii "r " ++ hexText 2 a ++ ascii " " ++ hexText 2 r; d.ranCommand (foundOf Reg.mdioAccess) text fun d => d.mdioCmd false a r answer text)

/-- MDIO_WRITE: MdioAccess "w" writes a PHY register (R261). -/
def execMdioWrite (a r v : Nat) (s : State) : Host.Outcome State Fault Refusal :=
  s.run (Dev.whenUp fun d => let text := ascii "w " ++ hexText 2 a ++ ascii " " ++ hexText 2 r ++ ascii " " ++ hexText 4 v; d.ranCommand (foundOf Reg.mdioAccess) text fun d => d.mdioCmd true a r v text)

/-- COUNTER_CLEAR: CounterClear "clear" zeroes the 48 counters of a port (R289). -/
def execCounterClear (p : Nat) (arg : Octets) (s : State) : Host.Outcome State Fault Refusal :=
  s.run (Dev.whenUp fun d => if 5 ≤ p then { d with lastStatus := Status.noEntry } else d.ranCommand (foundOf Reg.counterClear p) arg fun d => noResult (d.counterClear p arg))

/-- RX_MARGIN_CLEAR: RxMarginClear "clear" resets RxMarginMin (R299). -/
def execRxMarginClear (f : Nat) (arg : Octets) (s : State) : Host.Outcome State Fault Refusal :=
  s.run (Dev.whenUp fun d => if 1024 ≤ f then { d with lastStatus := Status.noEntry } else d.ranCommand (foundOf Reg.rxMarginClear f) arg fun d => noResult (d.marginClear f arg))

/-- REALIGN_NOW: RealignCmd "now" performs a deferred realignment in SHOW (R330). -/
def execRealignNow (arg : Octets) (s : State) : Host.Outcome State Fault Refusal :=
  s.run (Dev.whenUp fun d => d.ranCommand (foundOf Reg.realignCmd) arg fun d => noResult (d.realignNow arg))

/-- TIME_SET: TimeSet sets S and N in SN mode (R324). -/
def execTimeSet (arg : Octets) (s : State) : Host.Outcome State Fault Refusal :=
  s.run (Dev.whenUp fun d => d.ranCommand (foundOf Reg.timeSet) arg fun d => noResult (d.timeSetCmd arg))

/-- RECORDER_FREEZE: RecorderCmd "freeze" triggers the recorder (R375). -/
def execRecorderFreeze (s : State) : Host.Outcome State Fault Refusal :=
  s.run (Dev.whenUp fun d => d.ranCommand (foundOf Reg.recorderCmd) (ascii "freeze") fun d => noResult (d.recCmd (ascii "freeze")))

/-- RECORDER_RELEASE: RecorderCmd "release" returns a frozen recorder to recording (R375). -/
def execRecorderRelease (s : State) : Host.Outcome State Fault Refusal :=
  s.run (Dev.whenUp fun d => d.ranCommand (foundOf Reg.recorderCmd) (ascii "release") fun d => noResult (d.recCmd (ascii "release")))

/-- MARCH_DESTRUCTIVE: MarchCmd "d" starts a destructive March C− over a range of banks (R421). -/
def execMarchDestructive (f l b : Nat) (s : State) : Host.Outcome State Fault Refusal :=
  s.run (Dev.whenUp fun d => d.ranCommand (foundOf Reg.marchCmd) (ascii "d " ++ decText f ++ ascii " " ++ decText l ++ ascii " " ++ decText b) fun d => noResult (d.marchCmdRun true f l b))

/-- MARCH_PRESERVING: MarchCmd "p" starts a preserving march over a range of banks (R421). -/
def execMarchPreserving (f l : Nat) (s : State) : Host.Outcome State Fault Refusal :=
  s.run (Dev.whenUp fun d => d.ranCommand (foundOf Reg.marchCmd) (ascii "p " ++ decText f ++ ascii " " ++ decText l) fun d => noResult (d.marchCmdRun false f l 0))

/-- HANDOVER_CMD: HandoverCmd "now" starts a planned handover at a departure tick H (R432). -/
def execHandoverCmd (arg : Octets) (s : State) : Host.Outcome State Fault Refusal :=
  s.run (Dev.whenUp fun d => d.ranCommand (foundOf Reg.handoverCmd) arg fun d => noResult (d.handoverCmd arg))

/-- GROUP_REFORM: GroupReform "now" forms the group anew (R474). -/
def execGroupReform (arg : Octets) (s : State) : Host.Outcome State Fault Refusal :=
  s.run (Dev.whenUp fun d => d.ranCommand (foundOf Reg.groupReform) arg fun d => noResult (d.groupReform arg))

/-- LOG_FIND: LogFind "date d" returns the Seq of the first record at or after d (R500). -/
def execLogFind (arg : Octets) (s : State) : Host.Outcome State Fault Refusal :=
  s.run (Dev.whenUp fun d => d.ranCommand (foundOf Reg.logFind) arg fun d => d.logFind arg)

/-- LOG_CLEAR: LogClear "clear" empties the log and writes a Kind 7 record (R501). -/
def execLogClear (role : Nat) (arg : Octets) (s : State) : Host.Outcome State Fault Refusal :=
  s.run (Dev.whenUp fun d => d.ranCommand (foundOf Reg.logClear) arg fun d => noResult (d.logClear role arg))

/-- SUPERVISOR_PEEK: SupervisorPeek reads one 32-bit word of the address map (R503). -/
def execSupervisorPeek (arg : Octets) (s : State) : Host.Outcome State Fault Refusal :=
  s.run (Dev.whenUp fun d => d.ranCommand (foundOf Reg.supervisorPeek) arg fun d => d.peek s.mem arg)

/-- KEY_ERASE: KeyErase empties a writable key slot (R512). -/
def execKeyErase (arg : Octets) (s : State) : Host.Outcome State Fault Refusal :=
  s.run (Dev.whenUp fun d => d.ranCommand (foundOf Reg.keyErase) arg fun d => noResult (d.keyEraseCmd arg))

/-- JTAG_CHALLENGE: JtagUnlock "challenge" returns a fresh nonce (R526). -/
def execJtagChallenge (s : State) : Host.Outcome State Fault Refusal :=
  s.run (Dev.whenUp fun d => d.ranCommand (foundOf Reg.jtagUnlock) (ascii "challenge") fun d => d.jtagChallenge)

/-- JTAG_RESPONSE: JtagUnlock "response" unlocks the TAP if the signature verifies (R526). -/
def execJtagResponse (signature : Octets) (s : State) : Host.Outcome State Fault Refusal :=
  s.run (Dev.whenUp fun d => d.ranCommand (foundOf Reg.jtagUnlock) (ascii "response " ++ signature.flatMap fun b => hexText 2 b.toNat) fun d => noResult (d.jtagResponse signature))

/-- UPDATE_ACTIVATE: UpdateCmd "activate" marks the other slot TRIAL and resets (R521). -/
def execUpdateActivate (s : State) : Host.Outcome State Fault Refusal :=
  s.run (Dev.whenUp fun d => d.ranCommand (foundOf Reg.updateCmd) (ascii "activate") fun d => noResult d.updateActivate)

/-- UPDATE_CONFIRM: UpdateCmd "confirm" makes the running trial ACTIVE (R522). -/
def execUpdateConfirm (s : State) : Host.Outcome State Fault Refusal :=
  s.run (Dev.whenUp fun d => d.ranCommand (foundOf Reg.updateCmd) (ascii "confirm") fun d => noResult d.updateConfirm)

/-- UPDATE_COMMIT: UpdateCmd "commit" raises RollbackCounter and revokes lower signing keys (R518). -/
def execUpdateCommit (s : State) : Host.Outcome State Fault Refusal :=
  s.run (Dev.whenUp fun d => d.ranCommand (foundOf Reg.updateCmd) (ascii "commit") fun d => noResult d.updateCommit)

/-- SEASON_MEASURE_CMD: SeasonCmd "measure" requests an extra measurement (R532). -/
def execSeasonMeasureCmd (s : State) : Host.Outcome State Fault Refusal :=
  s.run (Dev.whenUp fun d => d.ranCommand (foundOf Reg.seasonCmd) (ascii "measure") fun d => noResult d.seasonMeasureCmd)

/-- CLEAR_REFRESH: SeasonCmd "clear refresh c s" lowers a channel's refresh floor in the named unit (R536). -/
def execClearRefresh (c : Nat) (serial : Octets) (s : State) : Host.Outcome State Fault Refusal :=
  s.run (Dev.whenUp fun d => d.ranCommand (foundOf Reg.seasonCmd) (ascii "clear refresh " ++ decText c ++ ascii " " ++ serial) fun d => noResult (d.clearRefresh c serial))

/-- SELF_TEST_MONITORS: SelfTestCmd "monitors" pulses every supply comparator and the clock monitor (R540). -/
def execSelfTestMonitors (s : State) : Host.Outcome State Fault Refusal :=
  s.run (Dev.whenUp fun d => d.ranCommand (foundOf Reg.selfTestCmd) (ascii "monitors") fun d => noResult (d.selfTest 1))

/-- SELF_TEST_CHECKERS: SelfTestCmd "checkers" runs one checker pass at once (R540). -/
def execSelfTestCheckers (s : State) : Host.Outcome State Fault Refusal :=
  s.run (Dev.whenUp fun d => d.ranCommand (foundOf Reg.selfTestCmd) (ascii "checkers") fun d => noResult (d.selfTest 2))

/-- SELF_TEST_CRYPTO: SelfTestCmd "crypto" repeats the known-answer tests (R540). -/
def execSelfTestCrypto (s : State) : Host.Outcome State Fault Refusal :=
  s.run (Dev.whenUp fun d => d.ranCommand (foundOf Reg.selfTestCmd) (ascii "crypto") fun d => noResult (d.selfTest 3))

/-- SELF_TEST_ALL: SelfTestCmd "all" runs monitors, checkers and crypto in order (R540). -/
def execSelfTestAll (s : State) : Host.Outcome State Fault Refusal :=
  s.run (Dev.whenUp fun d => d.ranCommand (foundOf Reg.selfTestCmd) (ascii "all") fun d => noResult (d.selfTest 4))

/-- PERTURB_ARM: PerturbCmd "arm k s" arms a slot in the named unit (R542). -/
def execPerturbArm (k : Nat) (serial : Octets) (s : State) : Host.Outcome State Fault Refusal :=
  s.run (Dev.whenUp fun d => d.ranCommand (foundOf Reg.perturbCmd) (ascii "arm " ++ decText k ++ ascii " " ++ serial) fun d => noResult (d.perturbArm k serial))

/-- PERTURB_DISARM: PerturbCmd "disarm k" disarms one slot (R542). -/
def execPerturbDisarm (k : Nat) (s : State) : Host.Outcome State Fault Refusal :=
  s.run (Dev.whenUp fun d => d.ranCommand (foundOf Reg.perturbCmd) (ascii "disarm " ++ decText k) fun d => noResult (d.perturbDisarm k))

/-- PERTURB_DISARM_ALL: PerturbCmd "disarm all" disarms every slot (R542). -/
def execPerturbDisarmAll (s : State) : Host.Outcome State Fault Refusal :=
  s.run (Dev.whenUp fun d => d.ranCommand (foundOf Reg.perturbCmd) (ascii "disarm all") fun d => noResult d.perturbDisarmAll)

/-- RESET_CMD: ResetCmd "reset" performs a full reset (R564). -/
def execResetCmd (arg : Octets) (s : State) : Host.Outcome State Fault Refusal :=
  s.run (Dev.whenUp fun d => d.ranCommand (foundOf Reg.resetCmd) arg fun d => noResult (d.resetCmd arg))

/-- POWER_QUIET: PowerStateCmd "quiet" sets QuietHold and releases the lead (R556). -/
def execPowerQuiet (s : State) : Host.Outcome State Fault Refusal :=
  s.run (Dev.whenUp fun d => d.ranCommand (foundOf Reg.powerStateCmd) (ascii "quiet") fun d => noResult d.powerQuiet)

/-- POWER_READY: PowerStateCmd "ready" clears QuietHold so the module aligns and enters READY (R556). -/
def execPowerReady (s : State) : Host.Outcome State Fault Refusal :=
  s.run (Dev.whenUp fun d => d.ranCommand (foundOf Reg.powerStateCmd) (ascii "ready") fun d => noResult d.powerReady)

/-- POWER_OFFSEASON: PowerStateCmd "offseason" flushes the log and account and switches the rails off (R553). -/
def execPowerOffseason (s : State) : Host.Outcome State Fault Refusal :=
  s.run (Dev.whenUp fun d => d.ranCommand (foundOf Reg.powerStateCmd) (ascii "offseason") fun d => noResult d.powerOffseason)

/-- SHOW_REQUEST_WRITE: A write of ShowRequest moves the module between READY and SHOW (R557). -/
def execShowRequestWrite (v : Nat) (s : State) : Host.Outcome State Fault Refusal :=
  s.run (Dev.whenUp fun d => d.valueCommand Reg.showRequest 0 0 (.int v))

/-- SENSOR_LIMIT_WRITE: A write of a warn limit is checked and applies from the next sample (R491). -/
def execSensorLimitWrite (p : Nat) (high : Bool) (v : Int) (s : State) : Host.Outcome State Fault Refusal :=
  s.run (Dev.whenUp fun d => d.valueCommand (if high then Reg.sensorWarnHigh else Reg.sensorWarnLow) p 0 (.int v))

/-- PORT_CONFIG_WRITE: A write of PortEnable, SpeedMode or FecMode drops the link and restarts bring-up (R260). -/
def execPortConfigWrite (p sub v : Nat) (s : State) : Host.Outcome State Fault Refusal :=
  s.run (Dev.whenUp fun d => d.subCommand [Reg.portEnable, Reg.speedMode, Reg.fecMode] p sub v)

/-- TDM_PORT_CONFIG_WRITE: A write of a TDM format or role entry restarts the port (R365). -/
def execTdmPortConfigWrite (p sub v : Nat) (s : State) : Host.Outcome State Fault Refusal :=
  s.run (Dev.whenUp fun d => d.subCommand Dev.tdmRows p sub v)

/-- TDM_MASK_WRITE: A mask write updates the pending copy, taken at the next frame start edge (R360). -/
def execTdmMaskWrite (p : Nat) (transmit : Bool) (mask : Nat) (s : State) : Host.Outcome State Fault Refusal :=
  s.run (Dev.whenUp fun d => d.valueCommand (if transmit then Reg.tdmTxMaskPending else Reg.tdmRxMaskPending) p 0 (.int mask))

/-- TIME_TEST_MODE_WRITE: A write of TimeTestMode forces SN mode or, on return to 0, makes a realignment due (R330). -/
def execTimeTestModeWrite (v : Nat) (s : State) : Host.Outcome State Fault Refusal :=
  s.run (Dev.whenUp fun d => d.valueCommand Reg.timeTestMode 0 0 (.int v))

/-- ARB_PRIORITY_WRITE: A write of ArbPriorityDefault re-sorts the requester and restarts the 10 ms (R401). -/
def execArbPriorityWrite (q v : Nat) (s : State) : Host.Outcome State Fault Refusal :=
  s.run (Dev.whenUp fun d => d.valueCommand Reg.arbPriorityDefault q 0 (.int v))

/-- DRADA_CONFIG_WRITE: A write of a Drada link setting drops the link and restarts training (R457). -/
def execDradaConfigWrite (k sub v : Nat) (s : State) : Host.Outcome State Fault Refusal :=
  s.run (Dev.whenUp fun d => d.subCommand [Reg.dradaEnable, Reg.dradaRateMode, Reg.dradaFecMode, Reg.dradaMacsec] k sub v)

/-- MAP_CONFIG_WRITE: A write of MapEnable or MapUdpPort to MapObjectCount unseeds the stream map (R68). -/
def execMapConfigWrite (m sub v : Nat) (s : State) : Host.Outcome State Fault Refusal :=
  s.run (Dev.whenUp fun d => d.subCommand [Reg.mapEnable, Reg.mapUdpPort, Reg.mapSource, Reg.mapInterface, Reg.mapObjectBase, Reg.mapObjectCount] m sub v)

/-- SLOT_TABLE_WRITE: A slot table write goes only to the inactive bank (R308). -/
def execSlotTableWrite (flow : Nat) (transmit : Bool) (bank : Nat) (table : Octets) (s : State) : Host.Outcome State Fault Refusal :=
  s.run (Dev.whenUp fun d => if 1024 ≤ flow ∨ 2 ≤ bank then { d with lastStatus := Status.noEntry } else d.valueCommand (match transmit, bank with | false, 0 => Reg.rxSlotsA | false, _ => Reg.rxSlotsB | true, 0 => Reg.txSlotsA | true, _ => Reg.txSlotsB) flow 0 (.bytes table))

end Sys2Proof.Machine
end

