-- ==== Sys2Proof/Machine/CmdKnasiug.lean ====
section
/-! DEFINITION. The requests of Knasiug, its sessions and its transfers. -/

namespace Sys2Proof.Machine

/-- READ: A READ request returns the type and value of one entry (R54). -/
def execRead (frame : Frame) (s : State) : Host.Outcome State Fault Refusal :=
  if s.dev.answers then .next { s with dev := s.dev.request s.mem 0x01 frame } else .next s

/-- WRITE: A WRITE request writes one entry by its commit class, staging a DATED write in its own calendar entry (R39). -/
def execWrite (frame : Frame) (s : State) : Host.Outcome State Fault Refusal :=
  if s.dev.answers then .next { s with dev := s.dev.request s.mem 0x02 frame } else .next s

/-- READ_MULTI: A READ_MULTI request reads several entries with a status per element (R55). -/
def execReadMulti (frame : Frame) (s : State) : Host.Outcome State Fault Refusal :=
  if s.dev.answers then .next { s with dev := s.dev.request s.mem 0x03 frame } else .next s

/-- WRITE_MULTI: A WRITE_MULTI request checks all elements and applies all or none (R55). -/
def execWriteMulti (frame : Frame) (s : State) : Host.Outcome State Fault Refusal :=
  if s.dev.answers then .next { s with dev := s.dev.request s.mem 0x04 frame } else .next s

/-- BLOCK_BEGIN: Opens a block transfer to or from the device (R57). -/
def execBlockBegin (frame : Frame) (s : State) : Host.Outcome State Fault Refusal :=
  if s.dev.answers then .next { s with dev := s.dev.request s.mem 0x10 frame } else .next s

/-- BLOCK_DATA: Carries or requests one segment of an open block transfer (R58). -/
def execBlockData (frame : Frame) (s : State) : Host.Outcome State Fault Refusal :=
  if s.dev.answers then .next { s with dev := s.dev.request s.mem 0x11 frame } else .next s

/-- BLOCK_END: Checks size and CRC of a finished transfer and commits its data by the entry's class (R59). -/
def execBlockEnd (frame : Frame) (s : State) : Host.Outcome State Fault Refusal :=
  if s.dev.answers then .next { s with dev := s.dev.request s.mem 0x12 frame } else .next s

/-- BLOCK_ABORT: Discards an open block transfer (R59). -/
def execBlockAbort (frame : Frame) (s : State) : Host.Outcome State Fault Refusal :=
  if s.dev.answers then .next { s with dev := s.dev.request s.mem 0x13 frame } else .next s

/-- SUBSCRIBE: Creates a subscription that reports an entry on change or every period blocks (R60). -/
def execSubscribe (frame : Frame) (s : State) : Host.Outcome State Fault Refusal :=
  if s.dev.answers then .next { s with dev := s.dev.request s.mem 0x20 frame } else .next s

/-- UNSUBSCRIBE: Removes a subscription of the session (R54). -/
def execUnsubscribe (frame : Frame) (s : State) : Host.Outcome State Fault Refusal :=
  if s.dev.answers then .next { s with dev := s.dev.request s.mem 0x21 frame } else .next s

/-- HOST_NOTICE: A NOTICE service sent by a host is answered UNSUPPORTED (R54). -/
def execHostNotice (frame : Frame) (s : State) : Host.Outcome State Fault Refusal :=
  if s.dev.answers then .next { s with dev := s.dev.request s.mem 0x22 frame } else .next s

/-- ECHO: Returns the request body unchanged (R54). -/
def execEcho (frame : Frame) (s : State) : Host.Outcome State Fault Refusal :=
  if s.dev.answers then .next { s with dev := s.dev.request s.mem 0x7F frame } else .next s

/-- CAL_OPEN: Opens a calendar entry in the lowest free slot (R78). -/
def execCalOpen (frame : Frame) (s : State) : Host.Outcome State Fault Refusal :=
  if s.dev.takesCalendar then .next { s with dev := s.dev.request s.mem 0x30 frame } else .next s

/-- CAL_ADD: Adds DATED changes to an open entry, all or none (R79). -/
def execCalAdd (frame : Frame) (s : State) : Host.Outcome State Fault Refusal :=
  if s.dev.takesCalendar then .next { s with dev := s.dev.request s.mem 0x31 frame } else .next s

/-- CAL_CLOSE: Closes an entry with a date checked against the earliest boundary, making it STAGED (R74). -/
def execCalClose (frame : Frame) (s : State) : Host.Outcome State Fault Refusal :=
  if s.dev.takesCalendar then .next { s with dev := s.dev.request s.mem 0x32 frame } else .next s

/-- CAL_CANCEL: Cancels an entry in OPEN, STAGED or PREPARING (R84). -/
def execCalCancel (frame : Frame) (s : State) : Host.Outcome State Fault Refusal :=
  if s.dev.takesCalendar then .next { s with dev := s.dev.request s.mem 0x33 frame } else .next s

/-- CAL_STATUS: Returns an entry's state, outcome, date, journal sequence and result bitmap (R78). -/
def execCalStatus (frame : Frame) (s : State) : Host.Outcome State Fault Refusal :=
  if s.dev.takesCalendar then .next { s with dev := s.dev.request s.mem 0x34 frame } else .next s

/-- CAL_LIST: Lists calendar entries from a slot (R78). -/
def execCalList (frame : Frame) (s : State) : Host.Outcome State Fault Refusal :=
  if s.dev.takesCalendar then .next { s with dev := s.dev.request s.mem 0x35 frame } else .next s

/-- CAL_ATTACH: Checks a finished block transfer and adds it to an entry as one change (R81). -/
def execCalAttach (frame : Frame) (s : State) : Host.Outcome State Fault Refusal :=
  if s.dev.takesCalendar then .next { s with dev := s.dev.request s.mem 0x36 frame } else .next s

/-- CAL_PEEK: Returns one change of an entry by position (R78). -/
def execCalPeek (frame : Frame) (s : State) : Host.Outcome State Fault Refusal :=
  if s.dev.takesCalendar then .next { s with dev := s.dev.request s.mem 0x37 frame } else .next s

/-- UNKNOWN_SERVICE: A request with an unknown service code is answered UNSUPPORTED (R54). -/
def execUnknownService (frame : Frame) (s : State) : Host.Outcome State Fault Refusal :=
  if s.dev.answers then .next { s with dev := s.dev.unknownService s.mem frame } else .next s

/-- CAN_KEEPALIVE: An 8-octet CAN FD frame advances the host's freshness counter and receives no response (R51). -/
def execCanKeepalive (frame : Frame) (s : State) : Host.Outcome State Fault Refusal :=
  if s.dev.answers then .next { s with dev := s.dev.keepalive s.mem frame } else .next s

/-- BLOCK_TRANSFER_TIMEOUT: A transfer with no segment for 10 s is discarded (R59). -/
def execBlockTransferTimeout (id : Nat) (s : State) : Host.Outcome State Fault Refusal :=
  s.run (Dev.whenUp fun d => d.transferTimeout id)

/-- DTLS_HANDSHAKE: A DTLS 1.3 handshake is checked and, if accepted, opens a session with the role of the certificate
(R506). -/
def execDtlsHandshake (h : Handshake) (s : State) : Host.Outcome State Fault Refusal :=
  s.run (Dev.whenUp fun d => d.handshake h)

/-- SESSION_CLOSE: A session closes and its subscriptions, transfers and open calendar entries are discarded (R49). -/
def execSessionClose (session : Nat) (s : State) : Host.Outcome State Fault Refusal :=
  s.run (Dev.whenUp fun d => d.closeSession session)

/-- SESSION_TIMEOUT_CHECK: Every 100 ms the device closes sessions idle for longer than SessionTimeout (R49). -/
def execSessionTimeoutCheck (s : State) : Host.Outcome State Fault Refusal :=
  s.run (Dev.whenUp fun d => d.sessionCheck)

/-- SOURCE_BLOCK_EXPIRY: The 60 s block on handshakes from a refused IPv4 source ends (R509). -/
def execSourceBlockExpiry (source : Nat) (s : State) : Host.Outcome State Fault Refusal :=
  s.run (Dev.whenUp fun d => d.sourceExpiry source)

/-- SUBSCRIPTION_REPORT: A subscription's period or a change queues a report through a lift-line item of kind 7 (R60). -/
def execSubscriptionReport (id : Nat) (s : State) : Host.Outcome State Fault Refusal :=
  s.run (Dev.whenUp fun d => d.subscriptionReport id)

/-- NOTICE_SEND: A queued notice frame is sent once the session's send rate allows (R61). -/
def execNoticeSend (session : Nat) (s : State) : Host.Outcome State Fault Refusal :=
  s.run (Dev.whenUp fun d => d.noticeSend session)

/-- DRADA_CONTROL_CELL: A CONTROL cell is forwarded towards its unit or consumed (R477). -/
def execDradaControlCell (k : Nat) (cell : Octets) (s : State) : Host.Outcome State Fault Refusal :=
  if s.dev.answers then .next { s with dev := s.dev.controlCell s.mem k cell } else .next s

end Sys2Proof.Machine
end

