-- ==== Sys2Proof/Machine/CmdLocal.lean ====
section
/-! DEFINITION. The commands of the TDM ports, the headset port and the show recorder that no dictionary entry gives. -/

namespace Sys2Proof.Machine

/-- TDM_FRAME_START: A TDM frame start edge advances the frame count, swaps masks and feeds the trackers (R356). -/
def execTdmFrameStart (p : Nat) (words : List Nat) (bclks cycle : Nat) (s : State) : Host.Outcome State Fault Refusal :=
  s.run (Dev.whenUp fun d => d.tdmFrame p words bclks cycle)

/-- TDM_FSYNC_LOSS: No FSYNC edge for 2 nominal periods puts the port's TRACKED channels in LOST (R244). -/
def execTdmFsyncLoss (p : Nat) (s : State) : Host.Outcome State Fault Refusal :=
  s.run (Dev.whenUp fun d => d.tdmLoss p)

/-- JACK_DETECT_CHANGE: A JACK_DET level held 50 ms is an insertion or removal (R366). -/
def execJackDetectChange (inserted : Bool) (s : State) : Host.Outcome State Fault Refusal :=
  s.run (Dev.whenUp fun d => d.jackChange inserted)

/-- MIC_BIAS_MEASURE: 100 ms after insertion MIC_IN is measured and the plug classified (R366). -/
def execMicBiasMeasure (microvolts : Nat) (s : State) : Host.Outcome State Fault Refusal :=
  s.run (Dev.whenUp fun d => d.micMeasure microvolts)

/-- HEADSET_RECLASSIFY: A headphone plug whose MIC_IN stays above 0.45 V for 500 ms becomes a headset (R366). -/
def execHeadsetReclassify (s : State) : Host.Outcome State Fault Refusal :=
  s.run (Dev.whenUp fun d => d.headsetReclassify)

/-- HEADSET_BUTTON: MIC_IN held 30 ms beyond a threshold is a button press or release (R367). -/
def execHeadsetButton (pressed : Bool) (s : State) : Host.Outcome State Fault Refusal :=
  s.run (Dev.whenUp fun d => d.headsetButton pressed)

/-- RECORDER_TRIGGER: A trigger cause moves a recording recorder to post-trigger (R374). -/
def execRecorderTrigger (cause : Nat) (s : State) : Host.Outcome State Fault Refusal :=
  s.run (Dev.whenUp fun d => d.recTrigger cause)

/-- RECORDER_POST_TRIGGER_END: The last post-trigger frame is written and the recorder freezes (R374). -/
def execRecorderPostTriggerEnd (s : State) : Host.Outcome State Fault Refusal :=
  s.run (Dev.whenUp fun d => d.recPostEnd)

end Sys2Proof.Machine
end

