-- ==== Sys2Proof/Machine/CmdMemory.lean ====
section
/-! DEFINITION. The commands of the DRAM channels and the on-chip memory that no dictionary entry gives. -/

namespace Sys2Proof.Machine

/-- DRAM_ACCESS_COMPLETE: A DRAM burst completes and a single-bit error is corrected or a double-bit error returns
poisoned (R402). -/
def execDramAccessComplete (c error : Nat) (s : State) : Host.Outcome State Fault Refusal :=
  if s.dev.answers then (let r := s.dev.accessComplete s.mem c error; .next { s with mem := r.1, dev := r.2 }) else .next s

/-- REFRESH_INTERVAL: A refresh interval raises the debt, forcing a REFab when the limit would be exceeded (R388). -/
def execRefreshInterval (c : Nat) (s : State) : Host.Outcome State Fault Refusal :=
  s.run (Dev.whenUp fun d => d.refreshInterval c)

/-- MR4_POLL: Every 125 µs MR4 is read and the refresh range adopted (R389). -/
def execMr4Poll (c raw0 range0 raw1 range1 : Nat) (s : State) : Host.Outcome State Fault Refusal :=
  s.run (Dev.whenUp fun d => d.mr4Poll c raw0 range0 raw1 range1)

/-- RFM_ISSUE: A bank whose activation count reached RaaImt gets RFMpb once precharged (R392). -/
def execRfmIssue (c bank : Nat) (s : State) : Host.Outcome State Fault Refusal :=
  s.run (Dev.whenUp fun d => d.rfmIssue c bank)

/-- ARB_BREAK_POINT: At a burst boundary or idle cycle the arbiter decides which requester holds the channel (R395). -/
def execArbBreakPoint (c : Nat) (requests : List DramRequest) (s : State) : Host.Outcome State Fault Refusal :=
  s.run (Dev.whenUp fun d => d.arbBreakPoint c requests)

/-- ARB_BACKOFF_END: A BE requester's backoff expires and it contends again (R396). -/
def execArbBackoffEnd (c q : Nat) (s : State) : Host.Outcome State Fault Refusal :=
  s.run (Dev.whenUp fun d => d.arbBackoffEnd c q)

/-- ARB_GRANT_WITHDRAW: A granted requester withdraws before its first burst and the channel loses one cycle (R397). -/
def execArbGrantWithdraw (c : Nat) (s : State) : Host.Outcome State Fault Refusal :=
  s.run (Dev.whenUp fun d => d.arbWithdraw c)

/-- ARB_STARVE: A BE requester has waited ArbStarveTime and raises STARVE (R399). -/
def execArbStarve (c q : Nat) (s : State) : Host.Outcome State Fault Refusal :=
  s.run (Dev.whenUp fun d => d.arbStarve c q)

/-- ARB_URGENT: A BE requester has waited 4 × T1 and raises URGENT (R399). -/
def execArbUrgent (c q : Nat) (s : State) : Host.Outcome State Fault Refusal :=
  s.run (Dev.whenUp fun d => d.arbUrgent c q)

/-- ARB_POLICY_TICK: Every 1 ms the policy restores priorities quiet for 10 ms (R400). -/
def execArbPolicyTick (s : State) : Host.Outcome State Fault Refusal :=
  s.run (Dev.whenUp fun d => d.dradaLoads.arbPolicyTick)

/-- DRAM_OSC_CHECK: Every 100 ms the WCK-to-DQ oscillator runs and drift retrains the channel (R403). -/
def execDramOscCheck (c permille : Nat) (eye : Eye) (s : State) : Host.Outcome State Fault Refusal :=
  s.run (Dev.whenUp fun d => d.oscCheck c permille eye)

/-- DRAM_SCRUB_PASS: The patrol scrub completes a pass over every usable line (R402). -/
def execDramScrubPass (s : State) : Host.Outcome State Fault Refusal :=
  s.run (Dev.whenUp fun d => d.scrubPass)

/-- SRAM_WRITEBACK: A corrected word is written back in the bank's next idle write cycle (R413). -/
def execSramWriteback (bank word : Nat) (superseded : Bool) (s : State) : Host.Outcome State Fault Refusal :=
  s.run (Dev.whenUp fun d => d.sramWriteback bank word superseded)

/-- SRAM_HARD_FAULT_RECHECK: The scrubber re-reads a written-back word and marks its row pending if it still fails
(R415). -/
def execSramHardFaultRecheck (bank word : Nat) (bad : Bool) (s : State) : Host.Outcome State Fault Refusal :=
  s.run (Dev.whenUp fun d => d.sramRecheck bank word bad)

/-- SRAM_SCRUB_PERIOD: A SramScrubPeriod ends and an unfinished pass counts as late (R414). -/
def execSramScrubPeriod (complete : Bool) (s : State) : Host.Outcome State Fault Refusal :=
  s.run (Dev.whenUp fun d => d.sramScrubPeriod complete)

/-- BANK_POWER_TRANSITION: A bank begins its transition to On before its first use, or goes to Retention or Off (R417). -/
def execBankPowerTransition (bank : Nat) (s : State) : Host.Outcome State Fault Refusal :=
  s.run (Dev.whenUp fun d => d.bankTransition bank)

/-- MARCH_COMPLETE: A march run ends, repairing failing rows, and its banks return to their states (R421). -/
def execMarchComplete (failures : List (Nat × Nat × Nat)) (s : State) : Host.Outcome State Fault Refusal :=
  s.run (Dev.whenUp fun d => d.marchComplete failures)

end Sys2Proof.Machine
end

