-- ==== Sys2Proof/Machine/CmdPair.lean ====
section
/-! DEFINITION. The commands of the pair that no dictionary entry gives. -/

namespace Sys2Proof.Machine

/-- PAIR_HELLO: A received pair hello decides joining as standby, requesting the lead or refusing to pair (R426). -/
def execPairHello (partner : Hello) (s : State) : Host.Outcome State Fault Refusal :=
  s.run (Dev.whenUp fun d => d.pairHello partner)

/-- PAIR_FORM_TIMEOUT: No hello within PairFormTimeout and the unit requests the lead alone (R426). -/
def execPairFormTimeout (s : State) : Host.Outcome State Fault Refusal :=
  s.run (Dev.whenUp fun d => d.pairFormTimeout)

/-- ILK_IN_CHANGE: A level on ILK_IN held for tIlkFilter is registered (R428). -/
def execIlkInChange (level : Bool) (s : State) : Host.Outcome State Fault Refusal :=
  s.run (Dev.whenUp fun d => d.ilkInChange level)

/-- ILK_ASSERT: After its assert time the requesting unit drives ILK_OUT high if ILK_IN is low (R429). -/
def execIlkAssert (s : State) : Host.Outcome State Fault Refusal :=
  s.run (Dev.whenUp fun d => d.ilkAssert)

/-- ILK_GATE_OPEN: ILK_OUT high for tIlkGuard with ILK_IN low opens the transmit gate and the unit takes the lead (R427). -/
def execIlkGateOpen (s : State) : Host.Outcome State Fault Refusal :=
  s.run (Dev.whenUp fun d => d.leadTaken Dev.ilkGateOpen)

/-- ILK_COLLISION_RETRY: A unit that released in a contest retries 10 ms later (R429). -/
def execIlkCollisionRetry (s : State) : Host.Outcome State Fault Refusal :=
  s.run (Dev.whenUp fun d => d.ilkRetry)

/-- DP_SILENCE: No tick frame for 2 ticks with ILK_IN low makes the standby take the lead (R448). -/
def execDpSilence (s : State) : Host.Outcome State Fault Refusal :=
  s.run (Dev.whenUp fun d => d.dpSilence)

/-- RELEASE_MESSAGE: A release message over DP lets the standby take the lead at once (R431). -/
def execReleaseMessage (s : State) : Host.Outcome State Fault Refusal :=
  s.run (Dev.whenUp fun d => d.releaseMessage)

/-- HANDOVER_DATE: The standby receives H and forms and holds packets from H (R432). -/
def execHandoverDate (h : Nat) (byFault : Bool) (s : State) : Host.Outcome State Fault Refusal :=
  s.run (Dev.whenUp fun d => d.handoverDate h byFault)

/-- HANDOVER_RELEASE: Once its last packet before H has started and tReleasePoint has passed, the lead drops ILK_OUT
(R432). -/
def execHandoverRelease (s : State) : Host.Outcome State Fault Refusal :=
  s.run (Dev.whenUp fun d => d.handoverRelease)

/-- MIRROR_ACK_TIMEOUT: 1 ms without acknowledgement the lead responds and the standby is stale (R436). -/
def execMirrorAckTimeout (s : State) : Host.Outcome State Fault Refusal :=
  s.run (Dev.whenUp fun d => d.mirrorTimeout)

/-- TRACING_MESSAGE: A tracing message is compared, counting a mismatch and starting an audit on a difference (R439). -/
def execTracingMessage (point block : Nat) (incomplete : Bool) (signatures : List Nat) (s : State) : Host.Outcome State Fault Refusal :=
  s.run (Dev.whenUp fun d => d.tracingMessage point block incomplete signatures)

/-- TRACING_DEADLINE: A tracing message missing at its deadline counts as a gap (R439). -/
def execTracingDeadline (s : State) : Host.Outcome State Fault Refusal :=
  s.run (Dev.whenUp fun d => d.tracingDeadline)

/-- AUDIT_CHECK_BLOCK: The check block of an audit completes and its outcome is decided (R441). -/
def execAuditCheckBlock (partnerFault ownBad partnerBad : Bool) (disputed : List Nat) (s : State) : Host.Outcome State Fault Refusal :=
  s.run (Dev.whenUp fun d => d.auditCheck partnerFault ownBad partnerBad disputed)

/-- HEALTH_WORD: A partner's per-block health word is stored in PartnerHealth (R450). -/
def execHealthWord (word : Nat) (sameDate : Bool) (s : State) : Host.Outcome State Fault Refusal :=
  s.run (Dev.whenUp fun d => d.health word sameDate)

/-- CATCHUP_HISTORY_DONE: The standby has rendered HistoryHorizon samples and moves to seeding (R444). -/
def execCatchupHistoryDone (s : State) : Host.Outcome State Fault Refusal :=
  s.run (Dev.whenUp fun d => d.catchupHistory)

/-- CATCHUP_SEEDING_DONE: 320 ticks of seeding end and the standby waits for agreement (R446). -/
def execCatchupSeedingDone (s : State) : Host.Outcome State Fault Refusal :=
  s.run (Dev.whenUp fun d => d.catchupSeeding)

/-- CATCHUP_LIMIT: The standby has not reached state 6 within CatchupLimit and restarts at stage 2 (R447). -/
def execCatchupLimit (s : State) : Host.Outcome State Fault Refusal :=
  s.run (Dev.whenUp fun d => d.catchupLimit)

end Sys2Proof.Machine
end

