-- ==== Sys2Proof/Machine/CmdPath.lean ====
section
/-! DEFINITION. The commands of the data path: sample tick, block boundary, deadlines, position packets and motion. -/

namespace Sys2Proof.Machine

/-- SAMPLE_TICK: One period of the render sample clock: every per-sample stage of the data path completes one step (R13). -/
def execSampleTick (input : TickIn) (s : State) : Host.Outcome State Fault Refusal :=
  s.run fun d => d.leadTaken fun d => d.sampleTick input

/-- BLOCK_BOUNDARY: The count of 32 ticks reaches a block boundary (MSC mod 32 = 0) and the per-block work starts (R13). -/
def execBlockBoundary (patrolBad : Bool) (s : State) : Host.Outcome State Fault Refusal :=
  s.run fun d => (d.blockBoundary patrolBad).settleUnits

/-- GEOMETRY_LATE: A pipe's cycle budget for the block is exhausted and the remaining objects keep their targets and
are marked late (R130). -/
def execGeometryLate (s : State) : Host.Outcome State Fault Refusal :=
  s.run (Dev.whenUp fun d => d.markLate)

/-- RENDER_DEADLINE_MISS: An engine or the reduction tree has not finished block b by the end of tick 32b + 65 (R166). -/
def execRenderDeadlineMiss (rink : Nat) (outputs : List Nat) (wait : Bool) (s : State) : Host.Outcome State Fault Refusal :=
  s.run (Dev.whenUp fun d => if d.pathRuns then d.deadlineMiss d.msc rink outputs wait else d)

/-- CONV_MUTE_END: 64 dates after entry to MUTE the TRACKED channel returns to RUN with a fade-in (R242). -/
def execConvMuteEnd (c : Nat) (s : State) : Host.Outcome State Fault Refusal :=
  s.run (Dev.whenUp fun d => d.convMuteEnd c)

/-- MIX_DUAL_RUN_END: After tick D + X + 65 the old programme's halves are released and SwapStatus becomes 2 (R193). -/
def execMixDualRunEnd (s : State) : Host.Outcome State Fault Refusal :=
  s.run (Dev.whenUp fun d => d.dualRunEnd)

/-- PROGRESS_WATCHDOG_EXPIRY: A function's progress watchdog sees no completed step for 1.5 ms and the function is
wedged (R32). -/
def execProgressWatchdogExpiry (s : State) : Host.Outcome State Fault Refusal :=
  s.run (Dev.whenUp fun d => d.progressExpiry)

/-- POSITION_PACKET: A stream-map position packet is checked and decoded into motion FIFO words (R65). -/
def execPositionPacket (path : PacketPath) (source : Nat) (payload : Octets) (s : State) : Host.Outcome State Fault Refusal :=
  s.run (Dev.whenUp fun d => d.positionPacket path.port path.vlan path.udpPort source payload)

/-- MAP_SILENCE_TIMEOUT: A stream map that accepted no packet for 1 s becomes unseeded (R68). -/
def execMapSilenceTimeout (map : Nat) (s : State) : Host.Outcome State Fault Refusal :=
  s.run (Dev.whenUp fun d => d.mapSilence map)

/-- MOTION_COUNT_FIX: At tick B − 32 the head fixes each FIFO's packet count for boundary B and sends it to every unit
(R98). -/
def execMotionCountFix (boundary : Nat) (s : State) : Host.Outcome State Fault Refusal :=
  s.run (Dev.whenUp fun d => d.motionCountFix boundary)

/-- MOTION_DECODER_APPLY: The motion decoder applies the counted packets for B to the object records once their words
are present (R99). -/
def execMotionDecoderApply (s : State) : Host.Outcome State Fault Refusal :=
  s.run (Dev.whenUp fun d => d.motionApply)

/-- MOTION_STALL: A unit has not received all counted words by the end of tick B + 1, applies none and turns to
UnitState 1 (R99). -/
def execMotionStall (s : State) : Host.Outcome State Fault Refusal :=
  s.run (Dev.whenUp fun d => d.motionStall)

end Sys2Proof.Machine
end

