-- ==== Sys2Proof/Machine/CmdPorts.lean ====
section
/-! DEFINITION. The commands of the network ports and the flows that no dictionary entry gives. -/

namespace Sys2Proof.Machine

/-- SFP_POLL: Every 250 ms the device polls each cage for a module (R255). -/
def execSfpPoll (p : Nat) (poll : CagePoll) (s : State) : Host.Outcome State Fault Refusal :=
  s.run (Dev.whenUp fun d => d.onLink p (Dev.sfpPoll p poll.answer poll.a2 poll.recoveries))

/-- SFP_IDENTIFY: 300 ms after a new module answers, its identification is read and SfpState set (R255). -/
def execSfpIdentify (p : Nat) (a0 a2 : Octets) (s : State) : Host.Outcome State Fault Refusal :=
  s.run (Dev.whenUp fun d => d.onLink p (Dev.sfpIdentify p a0 a2))

/-- LINK_CANDIDATE_TIMEOUT: A link candidate has run for 250 ms without success and the next is tried (R257). -/
def execLinkCandidateTimeout (p : Nat) (s : State) : Host.Outcome State Fault Refusal :=
  s.run (Dev.whenUp fun d => d.candidateTimeout p)

/-- LINK_UP: Block lock held for 10 ms, with FEC lock where needed, makes the port UP (R258). -/
def execLinkUp (lane : LaneUp) (s : State) : Host.Outcome State Fault Refusal :=
  s.run (Dev.whenUp fun d => d.onLink lane.port (Dev.linkUp lane.port lane.eye))

/-- LINK_DOWN: Loss of block lock for 1 ms or high error rate takes the port DOWN (R259). -/
def execLinkDown (p : Nat) (s : State) : Host.Outcome State Fault Refusal :=
  s.run (Dev.whenUp fun d => d.onLink p (Dev.linkDown p))

/-- LINK_RETRY_CYCLE: Every 2 s a NOAGREE port repeats its candidate cycle (R258). -/
def execLinkRetryCycle (p : Nat) (s : State) : Host.Outcome State Fault Refusal :=
  s.run (Dev.whenUp fun d => d.retryCycle p)

/-- FRAME_RECEIVE: A received frame is checked and steered to MAC control, PTP, a flow, a stream map, a ring or a drop
(R268). -/
def execFrameReceive (p : Nat) (octets : Octets) (cond fixed bad frac : Nat) (s : State) : Host.Outcome State Fault Refusal :=
  s.run (Dev.whenUp fun d => d.frameReceive Dev.flowReceive p octets cond fixed bad frac)

/-- RX_DESCRIPTOR_POST: Software posts a receive descriptor and reception into the ring resumes with the next frame
(R276). -/
def execRxDescriptorPost (k addr len : Nat) (s : State) : Host.Outcome State Fault Refusal :=
  s.run (Dev.whenUp fun d => d.rxPost k addr len)

/-- TX_FRAME_START: A port chooses its next frame by priority and starts sending it whole (R278). -/
def execTxFrameStart (p : Nat) (posts : List (Nat × TxBuffer)) (s : State) : Host.Outcome State Fault Refusal :=
  s.run (Dev.whenUp fun d => d.txStart p posts)

/-- TX_FRAME_COMPLETE: A transmit frame ends and its descriptors are written back with one status (R277). -/
def execTxFrameComplete (p : Nat) (underrun : Bool) (s : State) : Host.Outcome State Fault Refusal :=
  s.run (Dev.whenUp fun d => d.txComplete p underrun)

/-- TS_QUEUE_STATUS_READ: A read of the time-stamp queue status clears Overflow when the queue is empty (R347). -/
def execTsQueueStatusRead (p : Nat) (s : State) : Host.Outcome State Fault Refusal :=
  s.run (Dev.whenUp fun d => d.tsStatus p)

/-- TS_QUEUE_ENTRY_READ: Firmware reads the oldest time-stamp queue entry (R347). -/
def execTsQueueEntryRead (p : Nat) (s : State) : Host.Outcome State Fault Refusal :=
  s.run (Dev.whenUp fun d => d.tsEntryRead p)

/-- PAUSE_RECEIVED: A PAUSE frame holds or releases the management port, or is discarded on a media port (R281). -/
def execPauseReceived (p quanta : Nat) (s : State) : Host.Outcome State Fault Refusal :=
  s.run (Dev.whenUp fun d => d.pauseReceived p quanta)

/-- PAUSE_TIME_EXPIRY: The received pause time runs out and the management port transmits again (R281). -/
def execPauseTimeExpiry (s : State) : Host.Outcome State Fault Refusal :=
  s.run (Dev.whenUp fun d => d.pauseExpiry)

/-- PAUSE_REPEAT: Every half pause time the port repeats PAUSE while its control rings are short (R282). -/
def execPauseRepeat (s : State) : Host.Outcome State Fault Refusal :=
  s.run (Dev.whenUp fun d => d.pauseRepeat)

/-- PAUSE_SEND_LIMIT: Continuous PAUSE for PauseSendLimit stops pause sending (R283). -/
def execPauseSendLimit (s : State) : Host.Outcome State Fault Refusal :=
  s.run (Dev.whenUp fun d => d.pauseSendLimit)

/-- PAUSE_HONOUR_LIMIT: Being held for PauseHonourLimit makes the port ignore PAUSE for 10 s (R284). -/
def execPauseHonourLimit (s : State) : Host.Outcome State Fault Refusal :=
  s.run (Dev.whenUp fun d => d.pauseHonourLimit)

/-- PAUSE_IGNORE_END: The 10 s during which PAUSE is ignored ends (R284). -/
def execPauseIgnoreEnd (s : State) : Host.Outcome State Fault Refusal :=
  s.run (Dev.whenUp fun d => d.pauseIgnoreEnd)

/-- EEE_LPI_ENTRY: No frame has waited for MgmtEeeIdle and the management transmitter enters low-power idle (R262). -/
def execEeeLpiEntry (s : State) : Host.Outcome State Fault Refusal :=
  s.run (Dev.whenUp fun d => d.lpiEntry)

/-- MKA_SECURED: MKA installs an SA and the port passes only protected frames (R286). -/
def execMkaSecured (p an : Nat) (rxKey txKey : Octets) (peerSci ownSci : Nat) (s : State) : Host.Outcome State Fault Refusal :=
  s.run (Dev.whenUp fun d => d.mkaSecured p an rxKey txKey peerSci ownSci)

/-- PHY_AUTONEGOTIATION: The management PHY's in-band control word reports link state and speed, bringing the
management port UP at 10, 100 or 1,000 Mb/s or taking it DOWN (R261). -/
def execPhyAutonegotiation (linkUp : Bool) (speed : Nat) (eee : Bool) (s : State) : Host.Outcome State Fault Refusal :=
  s.run (Dev.whenUp fun d => d.onLink 4 (Dev.phyWord linkUp speed eee))

/-- RX_FLOW_TIMEOUT: No accepted packet for RxTimeout makes a receive flow stale (R301). -/
def execRxFlowTimeout (f : Nat) (s : State) : Host.Outcome State Fault Refusal :=
  s.run (Dev.whenUp fun d => d.flowTimeout f)

/-- RX_PATH_TIMEOUT: A dual-path flow's path delivers nothing for RxTimeout and goes down (R315). -/
def execRxPathTimeout (f path : Nat) (s : State) : Host.Outcome State Fault Refusal :=
  s.run (Dev.whenUp fun d => d.pathTimeout f path)

/-- IGMP_REPORT_TIMER: The second unsolicited IGMPv3 report is sent 1 s after a join (R302). -/
def execIgmpReportTimer (p group : Nat) (s : State) : Host.Outcome State Fault Refusal :=
  s.run (Dev.whenUp fun d => d.igmpSecond p group)

end Sys2Proof.Machine
end

