-- ==== Sys2Proof/Machine/CmdPower.lean ====
section
/-! DEFINITION. The commands of the power stage, reset and start-up that no dictionary entry gives. -/

namespace Sys2Proof.Machine

/-- VIN_UVLO_START: VIN rises through the UVLO start and the module starts from OFF (R551). -/
def execVinUvloStart (s : State) : Host.Outcome State Fault Refusal :=
  s.run fun d => d.vinStart

/-- VIN_UVLO_TRIP: VIN falls through the UVLO trip and the power-down sequence runs (R548). -/
def execVinUvloTrip (held : Bool) (s : State) : Host.Outcome State Fault Refusal :=
  s.run fun d => d.vinTrip held

/-- VIN_OVP_TRIP: VIN rises through the OVP trip and the power stage stops (R549). -/
def execVinOvpTrip (s : State) : Host.Outcome State Fault Refusal :=
  s.run fun d => d.vinOver

/-- OVP_RESTART: VIN below the OVP restart for 100 ms starts the module as from OFF (R549). -/
def execOvpRestart (s : State) : Host.Outcome State Fault Refusal :=
  s.run fun d => d.ovpRestart

/-- WAKE_EDGE: A rising WAKE edge wakes a module from OFFSEASON or ends a latched OFF (R554). -/
def execWakeEdge (s : State) : Host.Outcome State Fault Refusal :=
  s.run fun d => d.wakeEdge

/-- NRESET: nRESET low for 10 µs causes a full reset (R561). -/
def execNreset (s : State) : Host.Outcome State Fault Refusal :=
  s.run fun d => d.nresetLow

/-- NRESET_RELEASE: nRESET returns high after having been held low, and the module leaves the held reset state so that
the 2 ms hold and BOOT can follow (R561). -/
def execNresetRelease (s : State) : Host.Outcome State Fault Refusal :=
  s.run fun d => d.nresetHigh

/-- RAIL_TRIP: A fast rail comparator trips and the module enters FAULT (R559). -/
def execRailTrip (rail : Nat) (s : State) : Host.Outcome State Fault Refusal :=
  s.run fun d => d.railTrip rail

/-- RAIL_RESTART: A rail not back within limits 1 ms after a trip restarts every rail (R559). -/
def execRailRestart (s : State) : Host.Outcome State Fault Refusal :=
  s.run fun d => d.railRestart

/-- RAILS_IN_REGULATION: After soft start, VIO, VAUX_3V3, VDRAM and VCORE reach regulation; PGOOD is released and
VAUX_3V3 turns on, and reset is released 2 ms later (R565). -/
def execRailsInRegulation (s : State) : Host.Outcome State Fault Refusal :=
  s.run fun d => d.railsIn

/-- FAULT_RESTART_TIMER: FaultRestartDelay after FAULT entry the module resets, within the restart limit (R560). -/
def execFaultRestartTimer (s : State) : Host.Outcome State Fault Refusal :=
  s.run fun d => d.faultRestart

/-- RESET_RELEASE: The 2 ms reset hold ends and BOOT begins (R563). -/
def execResetRelease (facts : BootFacts) (s : State) : Host.Outcome State Fault Refusal :=
  s.run fun d => d.resetRelease facts

/-- BOOT_COMPLETE: The BOOT sequence finishes and the module enters QUIET or FAULT (R565). -/
def execBootComplete (ms : Nat) (eeprom : Octets) (s : State) : Host.Outcome State Fault Refusal :=
  if s.dev.power.state = .boot && !s.dev.power.held && !s.dev.sec.stopped then .next { s with mem := [], dev := (let d := s.dev.bootComplete ms eeprom; d.canSession (d.nat Reg.canNoticeHost)) } else .next s

/-- DATA_PATH_STOP: At the next block boundary the data path stops and is cleared (R556). -/
def execDataPathStop (s : State) : Host.Outcome State Fault Refusal :=
  s.run fun d => d.dataPathStop

/-- I2C_STUCK: The carrier I2C bus stays stuck for 1 s (R581). -/
def execI2cStuck (s : State) : Host.Outcome State Fault Refusal :=
  s.run (Dev.whenUp fun d => d.i2cStuck)

/-- CARRIER_TEMP_READ: Every 1 s the carrier temperature sensor is read (R582). -/
def execCarrierTempRead (value : Option Int) (recoveries : Nat) (busError : Bool) (s : State) : Host.Outcome State Fault Refusal :=
  s.run (Dev.whenUp fun d => d.carrierTemp value recoveries busError)

end Sys2Proof.Machine
end

