-- ==== Sys2Proof/Machine/CmdSupervisor.lean ====
section
/-! DEFINITION. The commands of the supervisor, security and the season that no dictionary entry gives. -/

namespace Sys2Proof.Machine

/-- LOCKSTEP_MISMATCH: The checker core differs from the master and the module resets (R483). -/
def execLockstepMismatch (address group : Nat) (s : State) : Host.Outcome State Fault Refusal :=
  s.run fun d => if d.live then d.lockstep address group else d

/-- REMAP_SET: A write of 1 to Remap swaps address 0 to working SRAM and starts the watchdog (R487). -/
def execRemapSet (s : State) : Host.Outcome State Fault Refusal :=
  s.run fun d => if d.live then d.remapSet else d

/-- ROM_LOCK_SET: A write of 1 to RomLock makes the boot ROM read as bus errors (R517). -/
def execRomLockSet (s : State) : Host.Outcome State Fault Refusal :=
  s.run fun d => if d.live then d.romLock else d

/-- NOR_WRITE_ENABLE: A write of NorWriteEnable allows or forbids NOR program and erase (R489). -/
def execNorWriteEnable (enable : Bool) (s : State) : Host.Outcome State Fault Refusal :=
  s.run fun d => if d.live then d.norWrite enable else d

/-- WATCHDOG_KICK: A kick of the window watchdog, which resets the module when in its first 10 ms (R490). -/
def execWatchdogKick (s : State) : Host.Outcome State Fault Refusal :=
  s.run fun d => if d.live then d.watchdogKick else d

/-- WATCHDOG_EXPIRY: No kick within 100 ms causes a full reset (R490). -/
def execWatchdogExpiry (s : State) : Host.Outcome State Fault Refusal :=
  s.run fun d => if d.live then d.watchdogExpiry else d

/-- SENSOR_SAMPLE: Every 250 µs each sensor is sampled against its warn and fault limits (R491). -/
def execSensorSample (values : List Int) (s : State) : Host.Outcome State Fault Refusal :=
  s.run (Dev.whenUp fun d => d.sensorSample values)

/-- FAN_UPDATE: Every 100 ms the fan duty cycle is recomputed (R492). -/
def execFanUpdate (rpm : Nat) (s : State) : Host.Outcome State Fault Refusal :=
  s.run (Dev.whenUp fun d => d.fanUpdate rpm)

/-- FAN_STALL: Speed below FanStallRpm for 2 s raises a stall (R492). -/
def execFanStall (s : State) : Host.Outcome State Fault Refusal :=
  s.run (Dev.whenUp fun d => d.fanStall)

/-- JTAG_INSTRUCTION: A locked TAP answers only IDCODE, BYPASS and SAMPLE/PRELOAD (R525). -/
def execJtagInstruction (op : JtagOp) (s : State) : Host.Outcome State Fault Refusal :=
  if s.dev.live then (match s.dev.tapShift op with | some e => .next { s with dev := e } | none => .refused .debugUnit) else .next s

/-- TRIAL_CONFIRM_TIMER: ConfirmDelay in READY or SHOW confirms the running trial (R522). -/
def execTrialConfirmTimer (s : State) : Host.Outcome State Fault Refusal :=
  s.run (Dev.whenUp fun d => d.trialTimer)

/-- SEASON_MEASURE: Every SeasonPeriod the canaries are measured and the margin plans updated (R532). -/
def execSeasonMeasure (counts : List (Nat × Nat)) (s : State) : Host.Outcome State Fault Refusal :=
  s.run (Dev.whenUp fun d => d.seasonMeasure counts)

/-- SEASON_MINUTE: Each powered minute the life account is advanced and written to MRAM (R533). -/
def execSeasonMinute (s : State) : Host.Outcome State Fault Refusal :=
  s.run (Dev.whenUp fun d => d.seasonMinute)

/-- CHECKER_TEST: Every CheckerTestPeriod each checker is given a pattern it must flag (R539). -/
def execCheckerTest (failed : Option (Nat × Nat)) (s : State) : Host.Outcome State Fault Refusal :=
  s.run (Dev.whenUp fun d => d.checkerTest failed)

/-- SELF_TEST_COMPLETE: A requested self-test ends and its result is reported (R540). -/
def execSelfTestComplete (failed : Option (Nat × Nat)) (s : State) : Host.Outcome State Fault Refusal :=
  s.run (Dev.whenUp fun d => d.selfTestComplete failed)

/-- PERTURB_APPLY: An armed slot applies its perturbation at its boundary (R543). -/
def execPerturbApply (k : Nat) (s : State) : Host.Outcome State Fault Refusal :=
  s.run (Dev.whenUp fun d => d.perturbApply k)

/-- PERTURB_TIMEOUT: A slot disarms PerturbTimeout after its arming (R543). -/
def execPerturbTimeout (k : Nat) (s : State) : Host.Outcome State Fault Refusal :=
  s.run (Dev.whenUp fun d => d.perturbTimeout k)

end Sys2Proof.Machine
end

