-- ==== Sys2Proof/Machine/CmdTime.lean ====
section
/-! DEFINITION. The commands of the Almanac, the root clock, its inputs and PTP. -/

namespace Sys2Proof.Machine

/-- SN_ANCHOR: Every 2^20 cycles in SN mode the Almanac records an anchor (R324). -/
def execSnAnchor (s : State) : Host.Outcome State Fault Refusal :=
  s.run (Dev.whenUp fun d => d.snAnchor)

/-- MSC_ALIGN: Once the root source is qualified the Almanac starts the render sample clock at a block boundary (R328). -/
def execMscAlign (s : State) : Host.Outcome State Fault Refusal :=
  s.run (Dev.whenUp fun d => d.mscAlign)

/-- ALIGN_TIMEOUT: AlignTimeout after reset, alignment takes place on whatever the root follows (R328). -/
def execAlignTimeout (s : State) : Host.Outcome State Fault Refusal :=
  s.run (Dev.whenUp fun d => d.alignTimeout)

/-- INPUT_EDGE: A rising edge on a clock input is time-stamped and accepted or rejected as a glitch (R338). -/
def execInputEdge (i frac : Nat) (s : State) : Host.Outcome State Fault Refusal :=
  s.run (Dev.whenUp fun d => d.inputEdge i frac)

/-- INPUT_LOSS: No accepted edge within 2 × 1.03 × P disqualifies the input (R338). -/
def execInputLoss (i : Nat) (s : State) : Host.Outcome State Fault Refusal :=
  s.run (Dev.whenUp fun d => d.inputLoss i)

/-- INPUT_QUALIFY: An input qualifies after QualifyTime without loss or violation (R338). -/
def execInputQualify (i : Nat) (s : State) : Host.Outcome State Fault Refusal :=
  s.run (Dev.whenUp fun d => d.inputQualify i)

/-- REVERT_HOLDOFF: A higher-ranked source qualified for RevertHoldoff is selected again (R335). -/
def execRevertHoldoff (s : State) : Host.Outcome State Fault Refusal :=
  s.run (Dev.whenUp fun d => d.revert)

/-- ROOT_DPLL_LOCKED: The root DPLL, slewing at most 10 ppm/s towards a newly selected source, reaches it and DpllState
changes from slewing to locked (R333). -/
def execRootDpllLocked (ppb : Int) (s : State) : Host.Outcome State Fault Refusal :=
  s.run (Dev.whenUp fun d => d.dpllLocked ppb)

/-- PTP_SYNC_RECEIVE: A Sync gives θ to the servo, which steps or adjusts INC and moves its state (R344). -/
def execPtpSyncReceive (p source : Nat) (message : Octets) (stamp : Nat) (s : State) : Host.Outcome State Fault Refusal :=
  s.run (Dev.whenUp fun d => d.ptpSync p source message stamp)

/-- PTP_FOLLOW_UP_RECEIVE: A Follow_Up supplies t1 for a two-step Sync (R344). -/
def execPtpFollowUpReceive (p : Nat) (message : Octets) (s : State) : Host.Outcome State Fault Refusal :=
  s.run (Dev.whenUp fun d => d.ptpFollowUp p message)

/-- PTP_DELAY_RESP_RECEIVE: A Delay_Resp completes a path delay measurement (R344). -/
def execPtpDelayRespReceive (p : Nat) (message : Octets) (s : State) : Host.Outcome State Fault Refusal :=
  s.run (Dev.whenUp fun d => d.ptpDelayResp p message)

/-- PTP_DELAY_REQ_RECEIVE: A leader answers a Delay_Req in kind (R341). -/
def execPtpDelayReqReceive (p source : Nat) (message : Octets) (stamp : Nat) (unicast : Bool) (s : State) : Host.Outcome State Fault Refusal :=
  s.run (Dev.whenUp fun d => d.ptpDelayReq p source message stamp unicast)

/-- PTP_ANNOUNCE_RECEIVE: An Announce feeds the best leader clock algorithm (R343). -/
def execPtpAnnounceReceive (p : Nat) (message : Octets) (s : State) : Host.Outcome State Fault Refusal :=
  s.run (Dev.whenUp fun d => d.ptpAnnounce p message)

/-- PTP_SYNC_TIMEOUT: No Sync for 2 intervals moves the servo to HOLDOVER (R345). -/
def execPtpSyncTimeout (s : State) : Host.Outcome State Fault Refusal :=
  s.run (Dev.whenUp fun d => d.ptpSyncTimeout)

/-- PTP_ANNOUNCE_TIMEOUT: The announce timeout moves the servo to HOLDOVER (R345). -/
def execPtpAnnounceTimeout (s : State) : Host.Outcome State Fault Refusal :=
  s.run (Dev.whenUp fun d => d.ptpAnnounceTimeout)

/-- PTP_SYNC_TIMER: A leader sends Sync at its log interval (R342). -/
def execPtpSyncTimer (p : Nat) (s : State) : Host.Outcome State Fault Refusal :=
  s.run (Dev.whenUp fun d => d.ptpSyncTimer p)

/-- PTP_ANNOUNCE_TIMER: A leader sends Announce at its log interval (R342). -/
def execPtpAnnounceTimer (p : Nat) (s : State) : Host.Outcome State Fault Refusal :=
  s.run (Dev.whenUp fun d => d.ptpAnnounceTimer p)

/-- PTP_DELAY_REQ_TIMER: A follower sends Delay_Req at its log interval (R342). -/
def execPtpDelayReqTimer (p : Nat) (s : State) : Host.Outcome State Fault Refusal :=
  s.run (Dev.whenUp fun d => d.ptpDelayReqTimer p)

/-- CLOCK_MONITOR_INTERVAL: Every 1 ms the TCXO counter compares CoreClk and trips beyond 150 ppm (R352). -/
def execClockMonitorInterval (ppm : Int) (s : State) : Host.Outcome State Fault Refusal :=
  s.run (Dev.whenUp fun d => d.clockMonitor ppm)

/-- SAVED_TIME_WRITE: Once per second while aligned the Almanac seconds are written to MRAM (R349). -/
def execSavedTimeWrite (s : State) : Host.Outcome State Fault Refusal :=
  s.run (Dev.whenUp fun d => d.saveTime)

end Sys2Proof.Machine
end

