-- ==== Sys2Proof/Machine/Dispatch.lean ====
section
/-! DEFINITION. The dispatch: one arm for each command. -/

namespace Sys2Proof.Machine

/-- The effect of one command on everything but the queue. -/
def exec (i : Instr) (s : State) : Host.Outcome State Fault Refusal :=
  match i with
  | .sampleTick input => Sys2Proof.Machine.execSampleTick input s
  | .blockBoundary patrolBad => Sys2Proof.Machine.execBlockBoundary patrolBad s
  | .geometryLate => Sys2Proof.Machine.execGeometryLate s
  | .renderDeadlineMiss rink outputs wait => Sys2Proof.Machine.execRenderDeadlineMiss rink outputs wait s
  | .convMuteEnd c => Sys2Proof.Machine.execConvMuteEnd c s
  | .firFadeAssign date => Sys2Proof.Machine.execFirFadeAssign date s
  | .mixDualRunEnd => Sys2Proof.Machine.execMixDualRunEnd s
  | .progressWatchdogExpiry => Sys2Proof.Machine.execProgressWatchdogExpiry s
  | .read frame => Sys2Proof.Machine.execRead frame s
  | .write frame => Sys2Proof.Machine.execWrite frame s
  | .readMulti frame => Sys2Proof.Machine.execReadMulti frame s
  | .writeMulti frame => Sys2Proof.Machine.execWriteMulti frame s
  | .blockBegin frame => Sys2Proof.Machine.execBlockBegin frame s
  | .blockData frame => Sys2Proof.Machine.execBlockData frame s
  | .blockEnd frame => Sys2Proof.Machine.execBlockEnd frame s
  | .blockAbort frame => Sys2Proof.Machine.execBlockAbort frame s
  | .blockTransferTimeout id => Sys2Proof.Machine.execBlockTransferTimeout id s
  | .subscribe frame => Sys2Proof.Machine.execSubscribe frame s
  | .unsubscribe frame => Sys2Proof.Machine.execUnsubscribe frame s
  | .hostNotice frame => Sys2Proof.Machine.execHostNotice frame s
  | .echo frame => Sys2Proof.Machine.execEcho frame s
  | .unknownService frame => Sys2Proof.Machine.execUnknownService frame s
  | .canKeepalive frame => Sys2Proof.Machine.execCanKeepalive frame s
  | .dtlsHandshake h => Sys2Proof.Machine.execDtlsHandshake h s
  | .sessionClose session => Sys2Proof.Machine.execSessionClose session s
  | .sessionTimeoutCheck => Sys2Proof.Machine.execSessionTimeoutCheck s
  | .sourceBlockExpiry source => Sys2Proof.Machine.execSourceBlockExpiry source s
  | .subscriptionReport id => Sys2Proof.Machine.execSubscriptionReport id s
  | .noticeSend session => Sys2Proof.Machine.execNoticeSend session s
  | .positionPacket path source payload => Sys2Proof.Machine.execPositionPacket path source payload s
  | .mapSilenceTimeout map => Sys2Proof.Machine.execMapSilenceTimeout map s
  | .mapConfigWrite m sub v => Sys2Proof.Machine.execMapConfigWrite m sub v s
  | .motionCountFix boundary => Sys2Proof.Machine.execMotionCountFix boundary s
  | .motionDecoderApply => Sys2Proof.Machine.execMotionDecoderApply s
  | .motionStall => Sys2Proof.Machine.execMotionStall s
  | .calOpen frame => Sys2Proof.Machine.execCalOpen frame s
  | .calAdd frame => Sys2Proof.Machine.execCalAdd frame s
  | .calClose frame => Sys2Proof.Machine.execCalClose frame s
  | .calCancel frame => Sys2Proof.Machine.execCalCancel frame s
  | .calStatus frame => Sys2Proof.Machine.execCalStatus frame s
  | .calList frame => Sys2Proof.Machine.execCalList frame s
  | .calAttach frame => Sys2Proof.Machine.execCalAttach frame s
  | .calPeek frame => Sys2Proof.Machine.execCalPeek frame s
  | .prepareStart slot => Sys2Proof.Machine.execPrepareStart slot s
  | .prepareAnswer slot => Sys2Proof.Machine.execPrepareAnswer slot s
  | .prepareDeadline slot => Sys2Proof.Machine.execPrepareDeadline slot s
  | .calendarCommit => Sys2Proof.Machine.execCalendarCommit s
  | .outcomeSettleTimeout => Sys2Proof.Machine.execOutcomeSettleTimeout s
  | .calRetentionExpiry => Sys2Proof.Machine.execCalRetentionExpiry s
  | .journalReplay own unit seq => Sys2Proof.Machine.execJournalReplay own unit seq s
  | .liftItemFinish engine => Sys2Proof.Machine.execLiftItemFinish engine s
  | .liftAgeLimit => Sys2Proof.Machine.execLiftAgeLimit s
  | .liftSnapshotTake arg => Sys2Proof.Machine.execLiftSnapshotTake arg s
  | .refreshAll arg => Sys2Proof.Machine.execRefreshAll arg s
  | .loadPeakClear arg => Sys2Proof.Machine.execLoadPeakClear arg s
  | .sfpPoll p poll => Sys2Proof.Machine.execSfpPoll p poll s
  | .sfpIdentify p a0 a2 => Sys2Proof.Machine.execSfpIdentify p a0 a2 s
  | .linkCandidateTimeout p => Sys2Proof.Machine.execLinkCandidateTimeout p s
  | .linkUp lane => Sys2Proof.Machine.execLinkUp lane s
  | .linkDown p => Sys2Proof.Machine.execLinkDown p s
  | .linkRetryCycle p => Sys2Proof.Machine.execLinkRetryCycle p s
  | .portConfigWrite p sub v => Sys2Proof.Machine.execPortConfigWrite p sub v s
  | .frameReceive p octets cond fixed bad frac => Sys2Proof.Machine.execFrameReceive p octets cond fixed bad frac s
  | .rxDescriptorPost k addr len => Sys2Proof.Machine.execRxDescriptorPost k addr len s
  | .txFrameStart p posts => Sys2Proof.Machine.execTxFrameStart p posts s
  | .txFrameComplete p underrun => Sys2Proof.Machine.execTxFrameComplete p underrun s
  | .tsQueueStatusRead p => Sys2Proof.Machine.execTsQueueStatusRead p s
  | .tsQueueEntryRead p => Sys2Proof.Machine.execTsQueueEntryRead p s
  | .pauseReceived p quanta => Sys2Proof.Machine.execPauseReceived p quanta s
  | .pauseTimeExpiry => Sys2Proof.Machine.execPauseTimeExpiry s
  | .pauseRepeat => Sys2Proof.Machine.execPauseRepeat s
  | .pauseSendLimit => Sys2Proof.Machine.execPauseSendLimit s
  | .pauseHonourLimit => Sys2Proof.Machine.execPauseHonourLimit s
  | .pauseIgnoreEnd => Sys2Proof.Machine.execPauseIgnoreEnd s
  | .eeeLpiEntry => Sys2Proof.Machine.execEeeLpiEntry s
  | .mkaSecured p an rxKey txKey peerSci ownSci => Sys2Proof.Machine.execMkaSecured p an rxKey txKey peerSci ownSci s
  | .mdioRead a r answer => Sys2Proof.Machine.execMdioRead a r answer s
  | .mdioWrite a r v => Sys2Proof.Machine.execMdioWrite a r v s
  | .counterClear p arg => Sys2Proof.Machine.execCounterClear p arg s
  | .rxFlowTimeout f => Sys2Proof.Machine.execRxFlowTimeout f s
  | .rxPathTimeout f path => Sys2Proof.Machine.execRxPathTimeout f path s
  | .igmpReportTimer p group => Sys2Proof.Machine.execIgmpReportTimer p group s
  | .slotTableWrite flow transmit bank table => Sys2Proof.Machine.execSlotTableWrite flow transmit bank table s
  | .rxMarginClear f arg => Sys2Proof.Machine.execRxMarginClear f arg s
  | .snAnchor => Sys2Proof.Machine.execSnAnchor s
  | .mscAlign => Sys2Proof.Machine.execMscAlign s
  | .alignTimeout => Sys2Proof.Machine.execAlignTimeout s
  | .realignment => Sys2Proof.Machine.execRealignment s
  | .realignNow arg => Sys2Proof.Machine.execRealignNow arg s
  | .timeSet arg => Sys2Proof.Machine.execTimeSet arg s
  | .timeTestModeWrite v => Sys2Proof.Machine.execTimeTestModeWrite v s
  | .inputEdge input frac => Sys2Proof.Machine.execInputEdge input frac s
  | .inputLoss input => Sys2Proof.Machine.execInputLoss input s
  | .inputQualify input => Sys2Proof.Machine.execInputQualify input s
  | .revertHoldoff => Sys2Proof.Machine.execRevertHoldoff s
  | .ptpSyncReceive p source message stamp => Sys2Proof.Machine.execPtpSyncReceive p source message stamp s
  | .ptpFollowUpReceive p message => Sys2Proof.Machine.execPtpFollowUpReceive p message s
  | .ptpDelayRespReceive p message => Sys2Proof.Machine.execPtpDelayRespReceive p message s
  | .ptpDelayReqReceive p source message stamp unicast => Sys2Proof.Machine.execPtpDelayReqReceive p source message stamp unicast s
  | .ptpAnnounceReceive p message => Sys2Proof.Machine.execPtpAnnounceReceive p message s
  | .ptpSyncTimeout => Sys2Proof.Machine.execPtpSyncTimeout s
  | .ptpAnnounceTimeout => Sys2Proof.Machine.execPtpAnnounceTimeout s
  | .ptpSyncTimer p => Sys2Proof.Machine.execPtpSyncTimer p s
  | .ptpAnnounceTimer p => Sys2Proof.Machine.execPtpAnnounceTimer p s
  | .ptpDelayReqTimer p => Sys2Proof.Machine.execPtpDelayReqTimer p s
  | .clockMonitorInterval ppm => Sys2Proof.Machine.execClockMonitorInterval ppm s
  | .savedTimeWrite => Sys2Proof.Machine.execSavedTimeWrite s
  | .tdmFrameStart p words bclks cycle => Sys2Proof.Machine.execTdmFrameStart p words bclks cycle s
  | .tdmFsyncLoss p => Sys2Proof.Machine.execTdmFsyncLoss p s
  | .tdmPortConfigWrite p sub v => Sys2Proof.Machine.execTdmPortConfigWrite p sub v s
  | .tdmMaskWrite p transmit mask => Sys2Proof.Machine.execTdmMaskWrite p transmit mask s
  | .jackDetectChange inserted => Sys2Proof.Machine.execJackDetectChange inserted s
  | .micBiasMeasure microvolts => Sys2Proof.Machine.execMicBiasMeasure microvolts s
  | .headsetReclassify => Sys2Proof.Machine.execHeadsetReclassify s
  | .headsetButton pressed => Sys2Proof.Machine.execHeadsetButton pressed s
  | .recorderTrigger cause => Sys2Proof.Machine.execRecorderTrigger cause s
  | .recorderPostTriggerEnd => Sys2Proof.Machine.execRecorderPostTriggerEnd s
  | .recorderFreeze => Sys2Proof.Machine.execRecorderFreeze s
  | .recorderRelease => Sys2Proof.Machine.execRecorderRelease s
  | .dramAccessComplete c error => Sys2Proof.Machine.execDramAccessComplete c error s
  | .refreshInterval c => Sys2Proof.Machine.execRefreshInterval c s
  | .mr4Poll c raw0 range0 raw1 range1 => Sys2Proof.Machine.execMr4Poll c raw0 range0 raw1 range1 s
  | .rfmIssue c bank => Sys2Proof.Machine.execRfmIssue c bank s
  | .arbBreakPoint c requests => Sys2Proof.Machine.execArbBreakPoint c requests s
  | .arbBackoffEnd c q => Sys2Proof.Machine.execArbBackoffEnd c q s
  | .arbGrantWithdraw c => Sys2Proof.Machine.execArbGrantWithdraw c s
  | .arbStarve c q => Sys2Proof.Machine.execArbStarve c q s
  | .arbUrgent c q => Sys2Proof.Machine.execArbUrgent c q s
  | .arbPolicyTick => Sys2Proof.Machine.execArbPolicyTick s
  | .arbPriorityWrite q v => Sys2Proof.Machine.execArbPriorityWrite q v s
  | .dramOscCheck c permille eye => Sys2Proof.Machine.execDramOscCheck c permille eye s
  | .dramScrubPass => Sys2Proof.Machine.execDramScrubPass s
  | .sramWriteback bank word superseded => Sys2Proof.Machine.execSramWriteback bank word superseded s
  | .sramHardFaultRecheck bank word bad => Sys2Proof.Machine.execSramHardFaultRecheck bank word bad s
  | .sramScrubPeriod complete => Sys2Proof.Machine.execSramScrubPeriod complete s
  | .bankPowerTransition bank => Sys2Proof.Machine.execBankPowerTransition bank s
  | .marchDestructive f l b => Sys2Proof.Machine.execMarchDestructive f l b s
  | .marchPreserving f l => Sys2Proof.Machine.execMarchPreserving f l s
  | .marchComplete failures => Sys2Proof.Machine.execMarchComplete failures s
  | .pairHello partner => Sys2Proof.Machine.execPairHello partner s
  | .pairFormTimeout => Sys2Proof.Machine.execPairFormTimeout s
  | .ilkInChange level => Sys2Proof.Machine.execIlkInChange level s
  | .ilkAssert => Sys2Proof.Machine.execIlkAssert s
  | .ilkGateOpen => Sys2Proof.Machine.execIlkGateOpen s
  | .ilkCollisionRetry => Sys2Proof.Machine.execIlkCollisionRetry s
  | .dpSilence => Sys2Proof.Machine.execDpSilence s
  | .releaseMessage => Sys2Proof.Machine.execReleaseMessage s
  | .handoverCmd arg => Sys2Proof.Machine.execHandoverCmd arg s
  | .handoverDate h byFault => Sys2Proof.Machine.execHandoverDate h byFault s
  | .handoverRelease => Sys2Proof.Machine.execHandoverRelease s
  | .mirrorWrite id writes => Sys2Proof.Machine.execMirrorWrite id writes s
  | .mirrorAckTimeout => Sys2Proof.Machine.execMirrorAckTimeout s
  | .tracingMessage point block incomplete signatures => Sys2Proof.Machine.execTracingMessage point block incomplete signatures s
  | .tracingDeadline => Sys2Proof.Machine.execTracingDeadline s
  | .auditCheckBlock partnerFault ownBad partnerBad disputed => Sys2Proof.Machine.execAuditCheckBlock partnerFault ownBad partnerBad disputed s
  | .healthWord word sameDate => Sys2Proof.Machine.execHealthWord word sameDate s
  | .catchupHistoryDone => Sys2Proof.Machine.execCatchupHistoryDone s
  | .catchupSeedingDone => Sys2Proof.Machine.execCatchupSeedingDone s
  | .catchupLimit => Sys2Proof.Machine.execCatchupLimit s
  | .dradaCandidateTimeout k => Sys2Proof.Machine.execDradaCandidateTimeout k s
  | .dradaLinkCell k cell message => Sys2Proof.Machine.execDradaLinkCell k cell message s
  | .dradaLinkDown k => Sys2Proof.Machine.execDradaLinkDown k s
  | .dradaRetryCycle k => Sys2Proof.Machine.execDradaRetryCycle k s
  | .dradaConfigWrite k sub v => Sys2Proof.Machine.execDradaConfigWrite k sub v s
  | .dradaFeedCell k cell => Sys2Proof.Machine.execDradaFeedCell k cell s
  | .dradaTickCell k cell frame => Sys2Proof.Machine.execDradaTickCell k cell frame s
  | .dradaControlCell k cell => Sys2Proof.Machine.execDradaControlCell k cell s
  | .dradaCalendarCell k cell message => Sys2Proof.Machine.execDradaCalendarCell k cell message s
  | .dradaMotionCell k cell message => Sys2Proof.Machine.execDradaMotionCell k cell message s
  | .dradaTimeExchange => Sys2Proof.Machine.execDradaTimeExchange s
  | .dradaTimeCell k cell message => Sys2Proof.Machine.execDradaTimeCell k cell message s
  | .dradaCreditCell k cell => Sys2Proof.Machine.execDradaCreditCell k cell s
  | .dradaCreditReturnTimer k => Sys2Proof.Machine.execDradaCreditReturnTimer k s
  | .dradaReplayCell k cell => Sys2Proof.Machine.execDradaReplayCell k cell s
  | .dradaFeedLate k date => Sys2Proof.Machine.execDradaFeedLate k date s
  | .dradaIdleEntry k => Sys2Proof.Machine.execDradaIdleEntry k s
  | .groupForm => Sys2Proof.Machine.execGroupForm s
  | .groupReform arg => Sys2Proof.Machine.execGroupReform arg s
  | .lockstepMismatch address group => Sys2Proof.Machine.execLockstepMismatch address group s
  | .remapSet => Sys2Proof.Machine.execRemapSet s
  | .romLockSet => Sys2Proof.Machine.execRomLockSet s
  | .norWriteEnable enable => Sys2Proof.Machine.execNorWriteEnable enable s
  | .watchdogKick => Sys2Proof.Machine.execWatchdogKick s
  | .watchdogExpiry => Sys2Proof.Machine.execWatchdogExpiry s
  | .sensorSample values => Sys2Proof.Machine.execSensorSample values s
  | .sensorLimitWrite p high v => Sys2Proof.Machine.execSensorLimitWrite p high v s
  | .fanUpdate rpm => Sys2Proof.Machine.execFanUpdate rpm s
  | .fanStall => Sys2Proof.Machine.execFanStall s
  | .logFind arg => Sys2Proof.Machine.execLogFind arg s
  | .logClear role arg => Sys2Proof.Machine.execLogClear role arg s
  | .supervisorPeek arg => Sys2Proof.Machine.execSupervisorPeek arg s
  | .keyErase arg => Sys2Proof.Machine.execKeyErase arg s
  | .jtagChallenge => Sys2Proof.Machine.execJtagChallenge s
  | .jtagResponse signature => Sys2Proof.Machine.execJtagResponse signature s
  | .jtagInstruction op => Sys2Proof.Machine.execJtagInstruction op s
  | .updateActivate => Sys2Proof.Machine.execUpdateActivate s
  | .updateConfirm => Sys2Proof.Machine.execUpdateConfirm s
  | .updateCommit => Sys2Proof.Machine.execUpdateCommit s
  | .trialConfirmTimer => Sys2Proof.Machine.execTrialConfirmTimer s
  | .seasonMeasure counts => Sys2Proof.Machine.execSeasonMeasure counts s
  | .seasonMeasureCmd => Sys2Proof.Machine.execSeasonMeasureCmd s
  | .seasonMinute => Sys2Proof.Machine.execSeasonMinute s
  | .clearRefresh c serial => Sys2Proof.Machine.execClearRefresh c serial s
  | .checkerTest failed => Sys2Proof.Machine.execCheckerTest failed s
  | .selfTestMonitors => Sys2Proof.Machine.execSelfTestMonitors s
  | .selfTestCheckers => Sys2Proof.Machine.execSelfTestCheckers s
  | .selfTestCrypto => Sys2Proof.Machine.execSelfTestCrypto s
  | .selfTestAll => Sys2Proof.Machine.execSelfTestAll s
  | .selfTestComplete failed => Sys2Proof.Machine.execSelfTestComplete failed s
  | .perturbArm k serial => Sys2Proof.Machine.execPerturbArm k serial s
  | .perturbDisarm k => Sys2Proof.Machine.execPerturbDisarm k s
  | .perturbDisarmAll => Sys2Proof.Machine.execPerturbDisarmAll s
  | .perturbApply k => Sys2Proof.Machine.execPerturbApply k s
  | .perturbTimeout k => Sys2Proof.Machine.execPerturbTimeout k s
  | .vinUvloStart => Sys2Proof.Machine.execVinUvloStart s
  | .vinUvloTrip held => Sys2Proof.Machine.execVinUvloTrip held s
  | .vinOvpTrip => Sys2Proof.Machine.execVinOvpTrip s
  | .ovpRestart => Sys2Proof.Machine.execOvpRestart s
  | .wakeEdge => Sys2Proof.Machine.execWakeEdge s
  | .nreset => Sys2Proof.Machine.execNreset s
  | .railTrip rail => Sys2Proof.Machine.execRailTrip rail s
  | .railRestart => Sys2Proof.Machine.execRailRestart s
  | .faultRestartTimer => Sys2Proof.Machine.execFaultRestartTimer s
  | .resetRelease facts => Sys2Proof.Machine.execResetRelease facts s
  | .bootComplete ms eeprom => Sys2Proof.Machine.execBootComplete ms eeprom s
  | .resetCmd arg => Sys2Proof.Machine.execResetCmd arg s
  | .powerQuiet => Sys2Proof.Machine.execPowerQuiet s
  | .dataPathStop => Sys2Proof.Machine.execDataPathStop s
  | .powerReady => Sys2Proof.Machine.execPowerReady s
  | .powerOffseason => Sys2Proof.Machine.execPowerOffseason s
  | .showRequestWrite v => Sys2Proof.Machine.execShowRequestWrite v s
  | .i2cStuck => Sys2Proof.Machine.execI2cStuck s
  | .carrierTempRead value recoveries busError => Sys2Proof.Machine.execCarrierTempRead value recoveries busError s
  | .nresetRelease => Sys2Proof.Machine.execNresetRelease s
  | .railsInRegulation => Sys2Proof.Machine.execRailsInRegulation s
  | .rootDpllLocked ppb => Sys2Proof.Machine.execRootDpllLocked ppb s
  | .phyAutonegotiation linkUp speed eee => Sys2Proof.Machine.execPhyAutonegotiation linkUp speed eee s

end Sys2Proof.Machine
end

