-- ==== Sys2Proof/Machine/Step.lean ====
section
/-! DEFINITION. One step: the command at the front of the queue, or one cycle of FabricClk on an empty queue. -/

namespace Sys2Proof.Machine

/-- An idle cycle of a module whose logic is powered (DESIGN CHOICE, log entry 3): time passes by one cycle of FabricClk. -/
def idle (s : State) : State := if s.dev.live then { s with dev := s.dev.advance 1 } else s

/-- A step: the oldest waiting command with the rest of the queue; an empty queue idles. -/
def step (s : State) : Host.Outcome State Fault Refusal :=
  match s.pending with
  | [] => .next (idle s)
  | i :: rest => exec i { s with pending := rest }

/-- The state with the command that a word spells put at the front of the queue; no word spells one. -/
def State.withFetchWord (s : State) (nbits w : Nat) : State :=
  match decodeTableWord nbits w with
  | some i => { s with pending := i :: s.pending }
  | none => s

end Sys2Proof.Machine
end

