-- ==== Sys2Proof/WellFormed.lean ====
section
/-! DEFINITION. Which operands the block's interfaces can bring: the widths and ranges of the fields that carry them. -/

namespace Sys2Proof

/-- Text of a CMD or STR entry: at most 256 octets (Table 2-1). -/
def textWf (arg : Octets) : Bool := decide (arg.length ≤ 256)

/-- A frame as a transport carries it: a session handle of R49 and a UDP payload within an Ethernet frame, or an identifier
of 11 or 29 bits with at most 64 octets (R46, R50). -/
def Frame.wf : Frame → Bool
  | .udp session octets => decide (1 ≤ session) && decide (session ≤ 8) && decide (octets.length ≤ 1500)
  | .faulted session octets => decide (1 ≤ session) && decide (session ≤ 8) && decide (octets.length ≤ 1500)
  | .fragment => true
  | .can extended ident payload => decide (ident < (if extended then 2 ^ 29 else 2 ^ 11)) && decide (payload.length ≤ 64)

/-- A handshake of an IPv4 source on one of the five ports (R268, R506). -/
def Handshake.wf (h : Handshake) : Bool := decide (h.source < 2 ^ 32) && decide (h.port < 5) && decide (h.vlan < 4096) && decide (h.udpPort < 65536)

/-- A transmit buffer whose fields fit their places in Table 9-7. -/
def TxBuffer.wf (b : TxBuffer) : Bool :=
  decide (b.addr < 2 ^ 40) && decide (b.data.length < 65536) && decide (b.port < 5) && decide (b.stampId < 65536)

/-- A tick's input: a Q1.31 microphone sample; a function that stops has a number of 16 bits. -/
def TickIn.wf (t : TickIn) : Bool :=
  decide (-(2 ^ 31) ≤ t.mic) && decide (t.mic < 2 ^ 31) && t.faults.all fun f => match f with | .stops function => decide (function < 65536) | _ => true

/-- A UDP packet's way in (R268). -/
def PacketPath.wf (a : PacketPath) : Bool := decide (a.port < 5) && decide (a.vlan < 4096) && decide (a.udpPort < 65536)

/-- A poll of a cage: a page of at most 256 octets (R255). -/
def CagePoll.wf (a : CagePoll) : Bool := decide (a.a2.length ≤ 256) && decide (a.recoveries < 2 ^ 32)

/-- Whether the operands of a command fit the fields that carry them. -/
def Instr.wf : Instr → Bool
  | .sampleTick input => input.wf
  | .blockBoundary _ => true
  | .geometryLate => true
  | .renderDeadlineMiss rink outputs _ => decide (rink < 16) && outputs.all fun m => decide (m < 2560)
  | .convMuteEnd c => decide (c < 512)
  | .firFadeAssign date => decide (date % 32 = 0) && decide (date < 2 ^ 64)
  | .mixDualRunEnd => true
  | .progressWatchdogExpiry => true
  | .read frame => frame.wf
  | .write frame => frame.wf
  | .readMulti frame => frame.wf
  | .writeMulti frame => frame.wf
  | .blockBegin frame => frame.wf
  | .blockData frame => frame.wf
  | .blockEnd frame => frame.wf
  | .blockAbort frame => frame.wf
  | .blockTransferTimeout id => decide (id < 65536)
  | .subscribe frame => frame.wf
  | .unsubscribe frame => frame.wf
  | .hostNotice frame => frame.wf
  | .echo frame => frame.wf
  | .unknownService frame => frame.wf
  | .canKeepalive frame => frame.wf
  | .dtlsHandshake h => h.wf
  | .sessionClose session => decide (1 ≤ session) && decide (session ≤ 8)
  | .sessionTimeoutCheck => true
  | .sourceBlockExpiry source => decide (source < 2 ^ 32)
  | .subscriptionReport id => decide (id < 65536)
  | .noticeSend session => decide (session < 2 ^ 32)
  | .positionPacket path source payload => path.wf && decide (source < 2 ^ 32) && decide (payload.length ≤ 1500)
  | .mapSilenceTimeout map => decide (map < 16)
  | .mapConfigWrite m sub v => decide (m < 16) && decide (sub < 256) && decide (v < 2 ^ 32)
  | .motionCountFix boundary => decide (boundary % 32 = 0)
  | .motionDecoderApply => true
  | .motionStall => true
  | .calOpen frame => frame.wf
  | .calAdd frame => frame.wf
  | .calClose frame => frame.wf
  | .calCancel frame => frame.wf
  | .calStatus frame => frame.wf
  | .calList frame => frame.wf
  | .calAttach frame => frame.wf
  | .calPeek frame => frame.wf
  | .prepareStart slot => decide (slot < 0x40000)
  | .prepareAnswer slot => decide (slot < 0x40000)
  | .prepareDeadline slot => decide (slot < 0x40000)
  | .calendarCommit => true
  | .outcomeSettleTimeout => true
  | .calRetentionExpiry => true
  | .journalReplay _ unit seq => decide (unit < 1024) && decide (seq < 2 ^ 32)
  | .liftItemFinish engine => decide (engine < 4)
  | .liftAgeLimit => true
  | .liftSnapshotTake arg => textWf arg
  | .refreshAll arg => textWf arg
  | .loadPeakClear arg => textWf arg
  | .sfpPoll p poll => decide (p < 4) && poll.wf
  | .sfpIdentify p a0 a2 => decide (p < 4) && decide (a0.length ≤ 256) && decide (a2.length ≤ 256)
  | .linkCandidateTimeout p => decide (p < 4)
  | .linkUp lane => decide (lane.port < 4)
  | .linkDown p => decide (p < 5)
  | .linkRetryCycle p => decide (p < 4)
  | .portConfigWrite p sub v => decide (p < 5) && decide (sub < 256) && decide (v < 2 ^ 32)
  | .frameReceive p octets _ _ _ frac => decide (p < 5) && decide (octets.length ≤ 9600) && decide (frac < 16)
  | .rxDescriptorPost k addr len => decide (k < 16) && decide (addr < 2 ^ 40) && decide (len < 65536)
  | .txFrameStart p posts => decide (p < 5) && posts.all fun x => decide (x.1 < 16) && x.2.wf
  | .txFrameComplete p _ => decide (p < 5)
  | .tsQueueStatusRead p => decide (p < 5)
  | .tsQueueEntryRead p => decide (p < 5)
  | .pauseReceived p quanta => decide (p < 5) && decide (quanta < 65536)
  | .pauseTimeExpiry => true
  | .pauseRepeat => true
  | .pauseSendLimit => true
  | .pauseHonourLimit => true
  | .pauseIgnoreEnd => true
  | .eeeLpiEntry => true
  | .mkaSecured p an rxKey txKey peerSci ownSci => decide (p < 4) && decide (an < 4) && decide (rxKey.length = 32) && decide (txKey.length = 32) && decide (peerSci < 2 ^ 64) && decide (ownSci < 2 ^ 64)
  | .mdioRead a r answer => decide (a < 32) && decide (r < 32) && decide (answer < 65536)
  | .mdioWrite a r v => decide (a < 32) && decide (r < 32) && decide (v < 65536)
  | .counterClear p arg => decide (p < 5) && textWf arg
  | .rxFlowTimeout f => decide (f < 1024)
  | .rxPathTimeout f path => decide (f < 1024) && decide (path < 2)
  | .igmpReportTimer p group => decide (p < 5) && decide (group < 2 ^ 32)
  | .slotTableWrite flow _ bank table => decide (flow < 1024) && decide (bank < 2) && decide (table.length ≤ 65536)
  | .rxMarginClear f arg => decide (f < 1024) && textWf arg
  | .snAnchor => true
  | .mscAlign => true
  | .alignTimeout => true
  | .realignment => true
  | .realignNow arg => textWf arg
  | .timeSet arg => textWf arg
  | .timeTestModeWrite v => decide (v < 2)
  | .inputEdge i frac => decide (i < 4) && decide (frac < 16)
  | .inputLoss i => decide (i < 4)
  | .inputQualify i => decide (i < 4)
  | .revertHoldoff => true
  | .ptpSyncReceive p source message _ => decide (p < 5) && decide (source < 2 ^ 32) && decide (message.length ≤ 1500)
  | .ptpFollowUpReceive p message => decide (p < 5) && decide (message.length ≤ 1500)
  | .ptpDelayRespReceive p message => decide (p < 5) && decide (message.length ≤ 1500)
  | .ptpDelayReqReceive p source message _ _ => decide (p < 5) && decide (source < 2 ^ 32) && decide (message.length ≤ 1500)
  | .ptpAnnounceReceive p message => decide (p < 5) && decide (message.length ≤ 1500)
  | .ptpSyncTimeout => true
  | .ptpAnnounceTimeout => true
  | .ptpSyncTimer p => decide (p < 5)
  | .ptpAnnounceTimer p => decide (p < 5)
  | .ptpDelayReqTimer p => decide (p < 5)
  | .clockMonitorInterval ppm => decide (-1000000 ≤ ppm) && decide (ppm ≤ 1000000)
  | .savedTimeWrite => true
  | .tdmFrameStart p words _ cycle => decide (p < 4) && decide (words.length ≤ 32) && words.all (fun w => decide (w < 2 ^ 32)) && decide (cycle < 32768)
  | .tdmFsyncLoss p => decide (p < 4)
  | .tdmPortConfigWrite p sub v => decide (p < 4) && decide (sub < 256) && decide (v < 2 ^ 32)
  | .tdmMaskWrite p _ mask => decide (p < 4) && decide (mask < 2 ^ 32)
  | .jackDetectChange _ => true
  | .micBiasMeasure microvolts => decide (microvolts ≤ 3300000)
  | .headsetReclassify => true
  | .headsetButton _ => true
  | .recorderTrigger cause => decide (cause < 16)
  | .recorderPostTriggerEnd => true
  | .recorderFreeze => true
  | .recorderRelease => true
  | .dramAccessComplete c error => decide (c < 4) && decide (error < 3)
  | .refreshInterval c => decide (c < 4)
  | .mr4Poll c raw0 range0 raw1 range1 => decide (c < 4) && decide (raw0 < 256) && decide (raw1 < 256) && decide (range0 ≤ 5) && decide (range1 ≤ 5)
  | .rfmIssue c bank => decide (c < 4) && decide (bank < 64)
  | .arbBreakPoint c requests => decide (c < 4) && requests.all fun r => decide (r.q < 10)
  | .arbBackoffEnd c q => decide (c < 4) && decide (q < 10)
  | .arbGrantWithdraw c => decide (c < 4)
  | .arbStarve c q => decide (c < 4) && decide (q < 10)
  | .arbUrgent c q => decide (c < 4) && decide (q < 10)
  | .arbPolicyTick => true
  | .arbPriorityWrite q v => decide (q < 10) && decide (v < 256)
  | .dramOscCheck c _ _ => decide (c < 4)
  | .dramScrubPass => true
  | .sramWriteback bank word _ => decide (bank < 2560) && decide (word < 8192)
  | .sramHardFaultRecheck bank word _ => decide (bank < 2560) && decide (word < 8192)
  | .sramScrubPeriod _ => true
  | .bankPowerTransition bank => decide (bank < 2560)
  | .marchDestructive f l b => decide (f < 65536) && decide (l < 65536) && decide (b < 256)
  | .marchPreserving f l => decide (f < 65536) && decide (l < 65536)
  | .marchComplete failures => failures.all fun x => decide (x.1 < 2560) && decide (x.2.1 < 256)
  | .pairHello partner => decide (partner.serial.length = 16) && decide (partner.state < 8) && decide (partner.shape.length = 7)
  | .pairFormTimeout => true
  | .ilkInChange _ => true
  | .ilkAssert => true
  | .ilkGateOpen => true
  | .ilkCollisionRetry => true
  | .dpSilence => true
  | .releaseMessage => true
  | .handoverCmd arg => textWf arg
  | .handoverDate h _ => decide (h < 2 ^ 64)
  | .handoverRelease => true
  | .mirrorWrite _ writes => writes.all fun x => decide (x.1 < 65536) && decide (x.2.1 < 256)
  | .mirrorAckTimeout => true
  | .tracingMessage point _ _ signatures => decide (point < 3) && decide (signatures.length ≤ 64)
  | .tracingDeadline => true
  | .auditCheckBlock _ _ _ disputed => disputed.all fun m => decide (m < 2560)
  | .healthWord word _ => decide (word < 2 ^ 32)
  | .catchupHistoryDone => true
  | .catchupSeedingDone => true
  | .catchupLimit => true
  | .dradaCandidateTimeout k => decide (k < 3)
  | .dradaLinkCell k _ _ => decide (k < 3)
  | .dradaLinkDown k => decide (k < 3)
  | .dradaRetryCycle k => decide (k < 3)
  | .dradaConfigWrite k sub v => decide (k < 3) && decide (sub < 256) && decide (v < 2 ^ 32)
  | .dradaFeedCell k _ => decide (k < 3)
  | .dradaTickCell k _ _ => decide (k < 3)
  | .dradaControlCell k _ => decide (k < 3)
  | .dradaCalendarCell k _ _ => decide (k < 3)
  | .dradaMotionCell k _ _ => decide (k < 3)
  | .dradaTimeExchange => true
  | .dradaTimeCell k _ _ => decide (k < 3)
  | .dradaCreditCell k _ => decide (k < 3)
  | .dradaCreditReturnTimer k => decide (k < 3)
  | .dradaReplayCell k _ => decide (k < 3)
  | .dradaFeedLate k _ => decide (k < 3)
  | .dradaIdleEntry k => decide (k < 3)
  | .groupForm => true
  | .groupReform arg => textWf arg
  | .lockstepMismatch address group => decide (address < 2 ^ 32) && decide (group < 65536)
  | .remapSet => true
  | .romLockSet => true
  | .norWriteEnable _ => true
  | .watchdogKick => true
  | .watchdogExpiry => true
  | .sensorSample values => decide (values.length = 13)
  | .sensorLimitWrite p _ v => decide (p < 13) && decide (-(2 ^ 31) ≤ v) && decide (v < 2 ^ 31)
  | .fanUpdate rpm => decide (rpm < 65536)
  | .fanStall => true
  | .logFind arg => textWf arg
  | .logClear role arg => decide (role < 5) && textWf arg
  | .supervisorPeek arg => textWf arg
  | .keyErase arg => textWf arg
  | .jtagChallenge => true
  | .jtagResponse signature => decide (signature.length = 96)
  | .jtagInstruction _ => true
  | .updateActivate => true
  | .updateConfirm => true
  | .updateCommit => true
  | .trialConfirmTimer => true
  | .seasonMeasure counts => decide (counts.length ≤ 64)
  | .seasonMeasureCmd => true
  | .seasonMinute => true
  | .clearRefresh c serial => decide (c < 256) && textWf serial
  | .checkerTest _ => true
  | .selfTestMonitors => true
  | .selfTestCheckers => true
  | .selfTestCrypto => true
  | .selfTestAll => true
  | .selfTestComplete _ => true
  | .perturbArm k serial => decide (k < 256) && textWf serial
  | .perturbDisarm k => decide (k < 256)
  | .perturbDisarmAll => true
  | .perturbApply k => decide (k < 8)
  | .perturbTimeout k => decide (k < 8)
  | .vinUvloStart => true
  | .vinUvloTrip _ => true
  | .vinOvpTrip => true
  | .ovpRestart => true
  | .wakeEdge => true
  | .nreset => true
  | .railTrip rail => decide (rail < 16)
  | .railRestart => true
  | .faultRestartTimer => true
  | .resetRelease facts => facts.failing.all fun x => decide (x.1 < 2560) && decide (x.2 < 256)
  | .bootComplete ms _ => decide (ms ≤ 600)
  | .resetCmd arg => textWf arg
  | .powerQuiet => true
  | .dataPathStop => true
  | .powerReady => true
  | .powerOffseason => true
  | .showRequestWrite v => decide (v < 256)
  | .i2cStuck => true
  | .carrierTempRead _ recoveries _ => decide (recoveries < 2 ^ 32)
  | .nresetRelease => true
  | .railsInRegulation => true
  | .rootDpllLocked _ => true
  | .phyAutonegotiation up speed _ => decide (speed = 10) || decide (speed = 100) || decide (speed = 1000) || !up

/-- A command whose operands fit the fields that carry them. -/
abbrev Instr.WellFormed (i : Instr) : Prop := i.wf = true

end Sys2Proof
end

