-- ==== Sys2Proof/Safety.lean ====
section
/-! DEFINITION. What counts as a sound state and a safe run, in the terms that the statements use. -/

namespace Sys2Proof.Machine

/-- The invariant of the memory. -/
def State.Sound (s : State) : Prop := Memory.wf s.mem

/-- Whether a command stops here: a debug or test instruction of an unlocked test access port (R525). -/
def stops (i : Instr) (s : State) : Prop := i = .jtagInstruction .other ∧ s.dev.live = true ∧ s.dev.nat Reg.jtagState ≠ 0

/-- A safe run: none of its first `k` steps stopped. -/
def safeRun (k : Nat) (s : State) : Prop := ∃ t, Sys2Proof.core.run k s = .next t

/-- The entries that telling an event may change: NoticesLost, LogLost, LogFifoPeak, LiftFull and LevelServed. -/
def tellKeys : List Nat := [0x100202, 0x220008, 0x220009, 0xA60005, 0xA61003, 0xA61103, 0xA61203, 0xA61303, 0xA61403, 0xA61503, 0xA61603, 0xA61703]

/-- A session but for the notices that wait for it. -/
def Session.still (s : Session) : Session := { s with queue := [], lost := 0 }

namespace Dev

/-- `d'` is `d` after events were told: only the sessions' notice queues, the log, the lift lines, the once-per-second
limiter and the entries of `tellKeys` may differ. -/
structure Told (d d' : Dev) : Prop where
  rest : { d' with regs := d.regs, store := d.store, limiter := d.limiter, sessions := d.sessions, lift := d.lift, log := d.log } = d
  regs : ∀ k, k ∉ tellKeys → nget? d'.regs k = nget? d.regs k
  store : ∀ k, k ≠ 0x220008 → nget? d'.store k = nget? d.store k
  sessions : d'.sessions.map Session.still = d.sessions.map Session.still

/-- `d'` with the parts that telling an event may change put back as they are in `d`: what else a command changed. -/
def untold (d d' : Dev) : Dev :=
  { d' with regs := d.regs, store := d.store, limiter := d.limiter, sessions := d.sessions, lift := d.lift, log := d.log }

/-- `d'` with the passing of time taken back as well. -/
def untimed (d d' : Dev) : Dev := { untold d d' with clock := d.clock, alm := d.alm, timers := d.timers }

/-- Whether a due moment can be reached before the tick in progress ends; unaligned, any can. -/
def Reaches (d : Dev) (due : Nat) : Prop := d.alm.aligned = true → due ≤ d.tickAt + d.tickCycles

/-- A lone module (PAIR_PRESENT_N high), no standby, with nothing left to do after a response. -/
def Alone (d : Dev) : Prop :=
  d.lone = true ∧ d.nat Reg.pairState ≠ 5 ∧ d.nat Reg.pairState ≠ 6 ∧ d.power.resetDue = none ∧ d.power.offDue = false

/-- Whether an element of a row exists, may be written, and takes a value (R39, R44). -/
def Takes (d : Dev) (r : Row) (i : Nat) (v : Val) : Prop :=
  (∃ f, d.locate .whole (r.base + i) r.sub = .ok f) ∧ readOnly (foundOf r i) = false ∧ d.checkValue .whole (foundOf r i) v = Status.ok

/-- `d'` is `d` after a command answered with a status other than OK and without effect. -/
def Refused (d d' : Dev) : Prop := ∃ st : Status, st ≠ Status.ok ∧ d' = { d with lastStatus := st }

/-- The die is held in reset for a cause of Table 20-4, before BOOT. -/
def HeldInReset (d : Dev) (cause : Nat) : Prop := d.power.state = .boot ∧ d.power.held = true ∧ d.power.cause = cause

/-- The frame of the dictionary entries: all but the named ones, and the counters of what was told, hold what they held. -/
def KeepsRegs (ks : List Nat) (d d' : Dev) : Prop := ∀ k, k ∉ ks → k ∉ tellKeys → nget? d'.regs k = nget? d.regs k

/-! ### Requests of a DTLS session to this module -/

/-- The module while it serves a request of a session: the arrival of its frame is noted (R49). -/
def served (d : Dev) (h : Nat) : Dev := { d.setSession h (fun s => { s with lastFrameAt := d.clock }) with serving := some h }

/-- A DTLS session of a role from which a request with this RequestId would be new (R48, R49). -/
def Asks (d : Dev) (h id : Nat) (role : Role) : Prop :=
  h ≤ 8 ∧ id < 2 ^ 32 ∧ d.ownUnit < 65536 ∧ ∃ s, d.session? h = some s ∧ s.can = false ∧ s.role = role ∧ ∀ c ∈ s.cache, c.1 ≠ id

/-- A request frame of a session to this module whole (R46). -/
def ask (d : Dev) (h id service : Nat) (body : Octets) : Frame := .udp h (knFrame service 0 id d.ownUnit 0 body)

/-- `d'` has answered a request of a session, and sent nothing else (R46, R47). -/
def Replies (d d' : Dev) (h id service flags status : Nat) (body : Octets) : Prop :=
  d'.out = .response h (knFrame service flags id d.ownUnit status body) :: d.out ∧ d'.lastStatus = status

end Dev

/-- The command completes: `exec` answers a next state in which the queue and the octets of memory stand, and `P` holds of
the module. -/
def Completes (i : Instr) (s : State) (P : Dev → Prop) : Prop :=
  ∃ t, exec i s = .next t ∧ t.pending = s.pending ∧ t.mem = s.mem ∧ P t.dev

end Sys2Proof.Machine
end

