-- ==== Sys2Proof/Certificates/Slice0/Obligations.lean ====
section
/-! DEFINITION. The statements for the provers, family by family. -/

open Sys2Proof Sys2Proof.Machine
/-- LIFT_SNAPSHOT_TAKE, LOAD_PEAK_CLEAR, COUNTER_CLEAR and RX_MARGIN_CLEAR. -/
def Obligations.PathCommands : Prop :=
  ∀ s : State, s.dev.answers = true → s.dev.Alone →
    Completes (.liftSnapshotTake (ascii "take")) s (fun d =>
      d.lastStatus = Status.ok ∧ d.lift.snapshot = s.dev.snapshotOctets ∧ s.dev.KeepsRegs [Reg.configEpoch.key] d) ∧
    (∀ arg, arg ≠ ascii "take" → Completes (.liftSnapshotTake arg) s fun d =>
      d.lastStatus = Status.range ∧ d.regs = s.dev.regs ∧ d.lift = s.dev.lift) ∧
    Completes (.loadPeakClear (ascii "clear")) s (fun d =>
      d.lastStatus = Status.ok ∧ d.nat Reg.renderLoadPeak = 0 ∧ (∀ r, r < 16 → d.nat Reg.rinkCyclesPeak r = 0) ∧
      s.dev.KeepsRegs (Reg.renderLoadPeak.key :: Reg.configEpoch.key :: (List.range 16).map fun r => Reg.rinkCyclesPeak.key r) d) ∧
    (∀ arg, arg ≠ ascii "clear" → Completes (.loadPeakClear arg) s fun d =>
      d.lastStatus = Status.range ∧ d.regs = s.dev.regs) ∧
    (∀ p, p < 5 → Completes (.counterClear p (ascii "clear")) s fun d =>
      d.lastStatus = Status.ok ∧ (∀ j, j < portSubs → d.nat Reg.portCounter p j = 0) ∧
      (d.port p).rxOctets = 0 ∧ (d.port p).txOctets = 0 ∧ (∀ q, q ≠ p → d.port q = s.dev.port q) ∧
      s.dev.KeepsRegs (Reg.configEpoch.key :: (List.range portSubs).map fun j => Reg.portCounter.key p j) d) ∧
    (∀ p arg, p < 5 → arg ≠ ascii "clear" → Completes (.counterClear p arg) s fun d =>
      d.lastStatus = Status.range ∧ d.regs = s.dev.regs ∧ d.ports = s.dev.ports) ∧
    (∀ p arg, 5 ≤ p → Completes (.counterClear p arg) s fun d => d = { s.dev with lastStatus := Status.noEntry }) ∧
    (∀ f, f < 1024 → Completes (.rxMarginClear f (ascii "clear")) s fun d =>
      d.lastStatus = Status.ok ∧ d.int Reg.rxMarginMin f = 0x7FFFFFFF ∧ s.dev.KeepsRegs [Reg.rxMarginMin.key f, Reg.configEpoch.key] d) ∧
    (∀ f arg, f < 1024 → arg ≠ ascii "clear" → Completes (.rxMarginClear f arg) s fun d =>
      d.lastStatus = Status.range ∧ d.regs = s.dev.regs) ∧
    (∀ f arg, 1024 ≤ f → Completes (.rxMarginClear f arg) s fun d => d = { s.dev with lastStatus := Status.noEntry })

/-- MDIO_READ, MDIO_WRITE, TIME_SET, REALIGN_NOW and REFRESH_ALL. -/
def Obligations.AccessCommands : Prop :=
  ∀ s : State, s.dev.answers = true → s.dev.Alone →
    (∀ a r v, s.dev.certified = false → a < 32 → r < 32 → Completes (.mdioRead a r v) s fun d =>
      d.lastStatus = Status.ok ∧ d.out = .mdio false a r (v % 65536) :: s.dev.out ∧ s.dev.KeepsRegs [Reg.configEpoch.key] d) ∧
    (∀ a r v, s.dev.certified = false → 32 ≤ a ∨ 32 ≤ r → Completes (.mdioRead a r v) s fun d =>
      d.lastStatus = Status.range ∧ d.out = s.dev.out ∧ d.regs = s.dev.regs) ∧
    (∀ a r v, s.dev.certified = false → a < 32 → r < 32 → v < 65536 → Completes (.mdioWrite a r v) s fun d =>
      d.lastStatus = Status.ok ∧ d.out = .mdio true a r v :: s.dev.out ∧ s.dev.KeepsRegs [Reg.configEpoch.key] d) ∧
    (∀ a r v, s.dev.certified = false → 32 ≤ a ∨ 32 ≤ r ∨ 65536 ≤ v → Completes (.mdioWrite a r v) s fun d =>
      d.lastStatus = Status.range ∧ d.out = s.dev.out ∧ d.regs = s.dev.regs) ∧
    (∀ a r v, s.dev.certified = true →
      Completes (.mdioRead a r v) s (fun d => d.lastStatus = Status.state ∧ d.out = s.dev.out ∧ d.regs = s.dev.regs) ∧
      Completes (.mdioWrite a r v) s (fun d => d.lastStatus = Status.state ∧ d.out = s.dev.out ∧ d.regs = s.dev.regs)) ∧
    (∀ arg secs nanos, s.dev.certified = false → s.dev.alm.snMode = true → (s.dev.alm.aligned = false ∨ s.dev.flag Reg.timeTestMode = true) →
      decimal? (arg.takeWhile fun b => b ≠ octet 0x2E) = some secs →
      decimal? (arg.drop ((arg.takeWhile fun b => b ≠ octet 0x2E).length + 1)) = some nanos →
      (arg.drop (arg.length - 10)).head? = some (octet 0x2E) → secs < 2 ^ 48 → nanos < 1000000000 →
      Completes (.timeSet arg) s fun d =>
        d.lastStatus = Status.ok ∧ d.alm = { s.dev.alm with secs := secs, nanos := nanos, frac := 0 } ∧ s.dev.KeepsRegs [Reg.configEpoch.key] d) ∧
    (∀ arg, (s.dev.certified = true ∨ s.dev.alm.snMode = false ∨ (s.dev.alm.aligned = true ∧ s.dev.flag Reg.timeTestMode = false)) →
      Completes (.timeSet arg) s fun d => d.lastStatus = Status.state ∧ d.alm = s.dev.alm ∧ d.regs = s.dev.regs) ∧
    (s.dev.alm.realignDue = true → s.dev.alm.aligned = true → Completes (.realignNow (ascii "now")) s fun d =>
      d.lastStatus = Status.ok ∧ d.alm = s.dev.realign.alm) ∧
    (s.dev.alm.realignDue = false ∨ s.dev.alm.aligned = false → Completes (.realignNow (ascii "now")) s fun d =>
      d.lastStatus = Status.ok ∧ d.alm = s.dev.alm ∧ s.dev.KeepsRegs [Reg.configEpoch.key] d) ∧
    (∀ arg, arg ≠ ascii "now" → Completes (.realignNow arg) s fun d =>
      d.lastStatus = Status.range ∧ d.alm = s.dev.alm ∧ d.regs = s.dev.regs) ∧
    (∀ n, (s.dev.enabledObjects.filter fun n => s.dev.nat Reg.objectLaw n ≠ 0) = [n] → s.dev.liftRoom (s.dev.kindLevel 3) = true →
      Completes (.refreshAll (ascii "all")) s fun d =>
        d.lastStatus = Status.ok ∧ d.lift.nextId = s.dev.lift.nextId + 1 ∧ s.dev.KeepsRegs [Reg.configEpoch.key] d) ∧
    ((s.dev.enabledObjects.filter fun n => s.dev.nat Reg.objectLaw n ≠ 0) = [] → Completes (.refreshAll (ascii "all")) s fun d =>
      d.lastStatus = Status.ok ∧ d.lift = s.dev.lift ∧ s.dev.KeepsRegs [Reg.configEpoch.key] d) ∧
    (∀ arg, arg ≠ ascii "all" → Completes (.refreshAll arg) s fun d =>
      d.lastStatus = Status.range ∧ d.lift = s.dev.lift ∧ d.regs = s.dev.regs)

/-- RECORDER_FREEZE, RECORDER_RELEASE, LOG_FIND, LOG_CLEAR and SUPERVISOR_PEEK. -/
def Obligations.RecorderAndLogCommands : Prop :=
  ∀ s : State, s.dev.answers = true → s.dev.Alone →
    (s.dev.nat Reg.recorderState = 1 → Completes .recorderFreeze s fun d =>
      d.lastStatus = Status.ok ∧ d.nat Reg.recorderState = 2 ∧ d.nat Reg.recorderTriggerCause = 0x8000 ∧
      d.nat Reg.recorderTriggerDate = s.dev.mscNow ∧
      s.dev.KeepsRegs [Reg.recorderState.key, Reg.recorderTriggerCause.key, Reg.recorderTriggerDate.key, Reg.configEpoch.key] d) ∧
    (s.dev.nat Reg.recorderState = 0 → Completes .recorderFreeze s fun d =>
      d.lastStatus = Status.ok ∧ s.dev.KeepsRegs [Reg.configEpoch.key] d) ∧
    (s.dev.nat Reg.recorderState = 2 ∨ s.dev.nat Reg.recorderState = 3 → Completes .recorderFreeze s fun d =>
      d.lastStatus = Status.ok ∧ d.nat Reg.recorderTriggersMissed = (s.dev.nat Reg.recorderTriggersMissed + 1) % 2 ^ 32 ∧
      s.dev.KeepsRegs [Reg.recorderTriggersMissed.key, Reg.configEpoch.key] d) ∧
    (s.dev.nat Reg.recorderState = 3 → (s.dev.transfers.any fun t => entryKey t.index t.sub == Reg.recorderRead.key) = false →
      s.dev.flag Reg.recorderEnable = false → Completes .recorderRelease s fun d =>
        d.lastStatus = Status.ok ∧ d.nat Reg.recorderState = 0 ∧ s.dev.KeepsRegs [Reg.recorderState.key, Reg.configEpoch.key] d) ∧
    (s.dev.nat Reg.recorderState = 3 → (s.dev.transfers.any fun t => entryKey t.index t.sub == Reg.recorderRead.key) = false →
      s.dev.flag Reg.recorderEnable = true → s.dev.power.state.runs = true → Completes .recorderRelease s fun d =>
        d.lastStatus = Status.ok ∧ d.nat Reg.recorderState = 1) ∧
    (s.dev.nat Reg.recorderState ≠ 3 ∨ (s.dev.transfers.any fun t => entryKey t.index t.sub == Reg.recorderRead.key) = true → Completes .recorderRelease s fun d => d.lastStatus = Status.state ∧ d.regs = s.dev.regs) ∧
    (∀ arg n date, splitWords arg = [ascii "date", n] → decimal? n = some date → date < 2 ^ 64 →
      (s.dev.log.ring.find? fun p => decide (s.dev.logOldest ≤ p.1) && decide (date ≤ p.2.date)) = none →
      Completes (.logFind arg) s fun d =>
        d.lastStatus = Status.ok ∧ d.lastResult = Dev.cmdBack arg Status.ok (decText (s.dev.log.newest + 1)) ∧ d.log = s.dev.log) ∧
    (∀ arg n date hit, splitWords arg = [ascii "date", n] → decimal? n = some date → date < 2 ^ 64 →
      (s.dev.log.ring.find? fun p => decide (s.dev.logOldest ≤ p.1) && decide (date ≤ p.2.date)) = some hit →
      Completes (.logFind arg) s fun d =>
        d.lastStatus = Status.ok ∧ d.lastResult = Dev.cmdBack arg Status.ok (decText hit.1) ∧ d.log = s.dev.log) ∧
    (∀ arg, (splitWords arg).length ≠ 2 → Completes (.logFind arg) s fun d =>
      d.lastStatus = Status.range ∧ d.log = s.dev.log ∧ d.regs = s.dev.regs) ∧
    (∀ role arg, arg ≠ ascii "clear" → Completes (.logClear role arg) s fun d =>
      d.lastStatus = Status.range ∧ d.log = s.dev.log ∧ d.regs = s.dev.regs) ∧
    (∀ arg, s.dev.inForce Reg.certifiedMode = 1 → Completes (.supervisorPeek arg) s fun d =>
      d.lastStatus = Status.state ∧ d.regs = s.dev.regs) ∧
    (∀ role, Completes (.logClear role (ascii "clear")) s fun d =>
      d.lastStatus = Status.ok ∧ d.log.ring = [] ∧ d.log.clearedTo = s.dev.log.newest + 1 ∧ d.log.newest = s.dev.log.newest ∧
      s.dev.KeepsRegs [Reg.configEpoch.key] d) ∧
    (∀ arg n a, s.dev.inForce Reg.certifiedMode ≠ 1 → splitWords arg = [ascii "r", n] → n.length = 10 → hex? n = some a → a % 4 = 0 →
      0x100000 ≤ a → a < 0x10000000 → Completes (.supervisorPeek arg) s fun d =>
        d.lastStatus = Status.ok ∧ d.nat Reg.busErrors = (s.dev.nat Reg.busErrors + 1) % 2 ^ 32 ∧
        d.nat Reg.lastBusError = a + 2 ^ 48)

/-- The commands of the on-chip memory, the season account and the self-tests. -/
def Obligations.TestCommands : Prop :=
  ∀ s : State, s.dev.answers = true → s.dev.Alone →
    (∀ f l b, s.dev.certified = false → f ≤ l → l < 2560 → b ≤ 2 → s.dev.sram.march = none → (∀ i, f ≤ i → i ≤ l → s.dev.bankState i = 0) →
      Completes (.marchDestructive f l b) s fun d =>
        d.lastStatus = Status.ok ∧ d.nat Reg.marchState = 1 ∧ d.nat Reg.marchFailures = 0 ∧ d.nat Reg.marchRepairs = 0 ∧
        d.sram.march = some { destructive := true, first := f, last := l, background := b, startedAt := s.dev.clock } ∧
        s.dev.KeepsRegs [Reg.marchState.key, Reg.marchFailures.key, Reg.marchRepairs.key, Reg.configEpoch.key] d) ∧
    (∀ f l, f ≤ l → l < 2560 → s.dev.sram.march = none → (∀ i, f ≤ i → i ≤ l → s.dev.bankState i = 0 ∨ s.dev.bankState i = 1) →
      Completes (.marchPreserving f l) s fun d =>
        d.lastStatus = Status.ok ∧ d.nat Reg.marchState = 1 ∧ d.nat Reg.marchFailures = 0 ∧ d.nat Reg.marchRepairs = 0 ∧
        d.sram.march = some { destructive := false, first := f, last := l, background := 0, startedAt := s.dev.clock } ∧
        s.dev.KeepsRegs [Reg.marchState.key, Reg.marchFailures.key, Reg.marchRepairs.key, Reg.configEpoch.key] d) ∧
    (∀ f l, f ≤ l → l < 2560 → s.dev.sram.march = none → s.dev.power.state.runs = false → (∀ i, f ≤ i → i ≤ l → bankGroup i ≠ 11) →
      Completes (.marchPreserving f l) s fun d =>
        d.lastStatus = Status.ok ∧ d.nat Reg.marchState = 1 ∧ (d.sram.march.map (·.destructive)) = some false) ∧
    (∀ f l, l < f ∨ 2560 ≤ l → Completes (.marchPreserving f l) s fun d =>
      d.lastStatus = Status.range ∧ d.sram = s.dev.sram ∧ d.regs = s.dev.regs) ∧
    (∀ f l b, s.dev.certified = true ∨ (f ≤ l ∧ l < 2560 ∧ b ≤ 2 ∧ s.dev.sram.march.isSome = true) → Completes (.marchDestructive f l b) s fun d =>
      d.lastStatus = Status.state ∧ d.sram = s.dev.sram ∧ d.regs = s.dev.regs) ∧
    (∀ f l, f ≤ l → l < 2560 → s.dev.sram.march.isSome = true → Completes (.marchPreserving f l) s fun d =>
      d.lastStatus = Status.state ∧ d.sram = s.dev.sram ∧ d.regs = s.dev.regs) ∧
    (∀ f l b, s.dev.certified = false → l < f ∨ 2560 ≤ l ∨ 2 < b → Completes (.marchDestructive f l b) s fun d =>
      d.lastStatus = Status.range ∧ d.sram = s.dev.sram ∧ d.regs = s.dev.regs) ∧
    Completes .seasonMeasureCmd s (fun d => d.lastStatus = Status.ok ∧ d.season = { s.dev.season with extra := true } ∧ s.dev.KeepsRegs [Reg.configEpoch.key] d) ∧
    (∀ c, c < 4 → Completes (.clearRefresh c (s.dev.bytes Reg.serialNumber)) s fun d =>
      d.lastStatus = Status.ok ∧ d.nat Reg.refreshFloor c = 1) ∧
    (∀ c serial, c < 4 → serial ≠ s.dev.bytes Reg.serialNumber → Completes (.clearRefresh c serial) s fun d =>
      d.lastStatus = Status.ok ∧ s.dev.KeepsRegs [Reg.configEpoch.key] d) ∧
    (∀ c serial, 4 ≤ c → Completes (.clearRefresh c serial) s fun d => d.lastStatus = Status.range ∧ d.regs = s.dev.regs) ∧
    ((s.dev.power.state = .quiet ∨ s.dev.power.state = .ready) → s.dev.season.test = none →
      Completes .selfTestMonitors s (fun d => d.lastStatus = Status.ok ∧ d.nat Reg.selfTestState = 1 ∧ d.season.test = some (1, s.dev.clock) ∧
        s.dev.KeepsRegs [Reg.selfTestState.key, Reg.configEpoch.key] d) ∧
      Completes .selfTestCheckers s (fun d => d.lastStatus = Status.ok ∧ d.nat Reg.selfTestState = 1 ∧ d.season.test = some (2, s.dev.clock) ∧
        s.dev.KeepsRegs [Reg.selfTestState.key, Reg.configEpoch.key] d) ∧
      Completes .selfTestCrypto s (fun d => d.lastStatus = Status.ok ∧ d.nat Reg.selfTestState = 1 ∧ d.season.test = some (3, s.dev.clock) ∧
        s.dev.KeepsRegs [Reg.selfTestState.key, Reg.configEpoch.key] d) ∧
      Completes .selfTestAll s (fun d => d.lastStatus = Status.ok ∧ d.nat Reg.selfTestState = 1 ∧ d.season.test = some (4, s.dev.clock) ∧
        s.dev.KeepsRegs [Reg.selfTestState.key, Reg.configEpoch.key] d)) ∧
    ((s.dev.power.state ≠ .quiet ∧ s.dev.power.state ≠ .ready) ∨ s.dev.season.test.isSome = true →
      Completes .selfTestMonitors s (fun d => d.lastStatus = Status.state ∧ d.season = s.dev.season ∧ d.regs = s.dev.regs) ∧
      Completes .selfTestCheckers s (fun d => d.lastStatus = Status.state ∧ d.season = s.dev.season ∧ d.regs = s.dev.regs) ∧
      Completes .selfTestCrypto s (fun d => d.lastStatus = Status.state ∧ d.season = s.dev.season ∧ d.regs = s.dev.regs) ∧
      Completes .selfTestAll s (fun d => d.lastStatus = Status.state ∧ d.season = s.dev.season ∧ d.regs = s.dev.regs))

/-- The commands of keys, the test access port and firmware. -/
def Obligations.SecurityCommands : Prop :=
  ∀ s : State, s.dev.answers = true → s.dev.Alone →
    (∀ arg i sub idx sb, splitWords arg = [ascii "erase", i, sub] → hex? i = some idx → hex? sub = some sb → i.length = 4 → sub.length = 2 →
      (Dev.keySlot idx sb).isSome = true → Completes (.keyErase arg) s fun d =>
        d.lastStatus = Status.ok ∧ nget [] d.sec.keys (entryKey idx sb) = [] ∧
        d.sec.keysLost = s.dev.sec.keysLost.filter (fun k => k ≠ entryKey idx sb) ∧
        (∀ k, k ≠ entryKey idx sb → nget? d.sec.keys k = nget? s.dev.sec.keys k)) ∧
    (∀ arg i sub idx sb, splitWords arg = [ascii "erase", i, sub] → hex? i = some idx → hex? sub = some sb →
      (Dev.keySlot idx sb).isSome = false → Completes (.keyErase arg) s fun d =>
        d.lastStatus = Status.range ∧ d.sec = s.dev.sec ∧ d.regs = s.dev.regs) ∧
    (s.dev.inForce Reg.certifiedMode ≠ 1 → Completes .jtagChallenge s fun d =>
      d.lastStatus = Status.ok ∧ d.sec.nonce = some (Config.freeOctets s.dev.freeCtr 32) ∧ s.dev.KeepsRegs [Reg.configEpoch.key] d) ∧
    (∀ sig n, s.dev.inForce Reg.certifiedMode ≠ 1 → sig.length = 96 → s.dev.sec.nonce = some n →
      Completes (.jtagResponse sig) s fun d =>
        d.sec.nonce = none ∧
        (Config.ecdsaVerify (Config.fused 2) n sig = true → d.lastStatus = Status.ok ∧ d.nat Reg.jtagState = 1) ∧
        (Config.ecdsaVerify (Config.fused 2) n sig = false → d.lastStatus = Status.refused ∧ d.nat Reg.jtagState = s.dev.nat Reg.jtagState)) ∧
    (∀ sig, s.dev.inForce Reg.certifiedMode ≠ 1 → sig.length ≠ 96 → Completes (.jtagResponse sig) s fun d =>
      d.lastStatus = Status.range ∧ d.sec = s.dev.sec ∧ d.regs = s.dev.regs) ∧
    (∀ sig, s.dev.inForce Reg.certifiedMode ≠ 1 → sig.length = 96 → s.dev.sec.nonce = none → Completes (.jtagResponse sig) s fun d =>
      d.lastStatus = Status.state ∧ d.sec = s.dev.sec ∧ s.dev.KeepsRegs [] d) ∧
    (∀ sig, s.dev.inForce Reg.certifiedMode = 1 →
      Completes .jtagChallenge s (fun d => d.lastStatus = Status.state ∧ d.sec = s.dev.sec ∧ d.regs = s.dev.regs) ∧
      Completes (.jtagResponse sig) s (fun d => d.lastStatus = Status.state ∧ d.sec = s.dev.sec ∧ d.regs = s.dev.regs)) ∧
    (((s.dev.slot (1 - s.dev.sec.running)).state = 2 ∨ (s.dev.slot (1 - s.dev.sec.running)).state = 5) → s.dev.sec.trial = false →
      s.dev.uploading = false → s.dev.power.state ≠ .onShow → s.dev.power.tripped = false →
      Completes .updateActivate s fun d => d.lastStatus = Status.ok ∧ d.HeldInReset 8) ∧
    (((s.dev.slot (1 - s.dev.sec.running)).state ≠ 2 ∧ (s.dev.slot (1 - s.dev.sec.running)).state ≠ 5) ∨ s.dev.sec.trial = true ∨
      s.dev.uploading = true ∨ s.dev.power.state = .onShow → Completes .updateActivate s fun d =>
        d.lastStatus = Status.state ∧ d.sec = s.dev.sec ∧ d.power = s.dev.power ∧ d.regs = s.dev.regs) ∧
    (s.dev.sec.trial = false ∨ s.dev.power.state.runs = false → Completes .updateConfirm s fun d =>
      d.lastStatus = Status.state ∧ d.sec = s.dev.sec ∧ d.regs = s.dev.regs) ∧
    (s.dev.sec.trial = true → s.dev.power.state.runs = true → s.dev.sec.running ≤ 1 →
      Completes .updateConfirm s fun d =>
        d.lastStatus = Status.ok ∧ d.sec.trial = false ∧ (d.slot s.dev.sec.running).state = 4 ∧ s.dev.KeepsRegs [Reg.configEpoch.key] d) ∧
    (s.dev.sec.trial = false → Completes .updateCommit s fun d =>
      d.lastStatus = Status.ok ∧
      d.nat Reg.rollbackCounter = max (s.dev.nat Reg.rollbackCounter) (beAt (s.dev.slot s.dev.sec.running).image 12 4) ∧
      ∀ k, (d.slot k).image = (s.dev.slot k).image) ∧
    (s.dev.sec.trial = true → Completes .updateCommit s fun d => d.lastStatus = Status.state ∧ d.regs = s.dev.regs ∧ d.sec = s.dev.sec)

/-- The perturbation commands. -/
def Obligations.PerturbCommands : Prop :=
  ∀ s : State, s.dev.answers = true → s.dev.Alone →
    (∀ k, s.dev.perturbClosed = false → s.dev.power.state ≠ .onShow → k < 8 →
      Completes (.perturbArm k (s.dev.bytes Reg.serialNumber)) s fun d =>
        d.lastStatus = Status.ok ∧ d.nat Reg.perturbArmed = setBit (s.dev.nat Reg.perturbArmed) k true ∧ d.nat Reg.perturbSlotState k = 2 ∧
        (d.perturb.armed.head?.map (·.slot)) = some k ∧
        s.dev.KeepsRegs [Reg.perturbArmed.key, Reg.perturbSlotState.key k, Reg.configEpoch.key] d) ∧
    (∀ k serial, s.dev.perturbClosed = false → s.dev.power.state ≠ .onShow → k < 8 → serial ≠ s.dev.bytes Reg.serialNumber →
      Completes (.perturbArm k serial) s fun d =>
        d.lastStatus = Status.ok ∧ d.perturb = s.dev.perturb ∧ s.dev.KeepsRegs [Reg.configEpoch.key] d) ∧
    (∀ k serial, s.dev.perturbClosed = false → s.dev.power.state ≠ .onShow → 8 ≤ k → Completes (.perturbArm k serial) s fun d =>
      d.lastStatus = Status.range ∧ d.perturb = s.dev.perturb ∧ d.regs = s.dev.regs) ∧
    (∀ k serial, s.dev.perturbClosed = true ∨ s.dev.power.state = .onShow → Completes (.perturbArm k serial) s fun d =>
      d.lastStatus = Status.state ∧ d.perturb = s.dev.perturb ∧ d.regs = s.dev.regs) ∧
    (∀ k, s.dev.perturbClosed = true →
      Completes (.perturbDisarm k) s (fun d => d.lastStatus = Status.state ∧ d.perturb = s.dev.perturb ∧ d.regs = s.dev.regs) ∧
      Completes .perturbDisarmAll s (fun d => d.lastStatus = Status.state ∧ d.perturb = s.dev.perturb ∧ d.regs = s.dev.regs)) ∧
    (∀ k, s.dev.perturbClosed = false → k < 8 → s.dev.slotArmed k = false → Completes (.perturbDisarm k) s fun d =>
      d.lastStatus = Status.ok ∧ d.perturb = s.dev.perturb ∧ s.dev.KeepsRegs [Reg.configEpoch.key] d) ∧
    (∀ k, s.dev.perturbClosed = false → k < 8 → s.dev.slotArmed k = true → Completes (.perturbDisarm k) s fun d =>
      d.lastStatus = Status.ok ∧ d.nat Reg.perturbArmed = setBit (s.dev.nat Reg.perturbArmed) k false ∧ d.nat Reg.perturbSlotState k = 4 ∧
      d.perturb.armed = s.dev.perturb.armed.filter (fun a => a.slot ≠ k) ∧
      s.dev.KeepsRegs [Reg.perturbArmed.key, Reg.perturbSlotState.key k, Reg.configEpoch.key] d) ∧
    (∀ k, s.dev.perturbClosed = false → 8 ≤ k → Completes (.perturbDisarm k) s fun d => d.lastStatus = Status.range ∧ d.perturb = s.dev.perturb) ∧
    (s.dev.perturbClosed = false → Completes .perturbDisarmAll s fun d =>
      d.lastStatus = Status.ok ∧ (∀ k, k < 8 → d.slotArmed k = false) ∧
      (∀ k, k < 8 → s.dev.slotArmed k = true → d.nat Reg.perturbSlotState k = 4) ∧
      (∀ k, k < 8 → s.dev.slotArmed k = false → d.nat Reg.perturbSlotState k = s.dev.nat Reg.perturbSlotState k) ∧
      s.dev.KeepsRegs (Reg.perturbArmed.key :: Reg.configEpoch.key :: (List.range 8).map fun k => Reg.perturbSlotState.key k) d)

/-- RESET_CMD, POWER_QUIET, POWER_READY, POWER_OFFSEASON, HANDOVER_CMD and GROUP_REFORM. -/
def Obligations.PowerCommands : Prop :=
  ∀ s : State, s.dev.answers = true → s.dev.Alone →
    (s.dev.power.state ≠ .onShow → s.dev.power.tripped = false → Completes (.resetCmd (ascii "reset")) s fun d =>
      d.lastStatus = Status.ok ∧ d.HeldInReset 4) ∧
    (∀ arg, arg ≠ ascii "reset" → Completes (.resetCmd arg) s fun d => d.lastStatus = Status.range ∧ d.power = s.dev.power ∧ d.regs = s.dev.regs) ∧
    (s.dev.power.state = .onShow → Completes (.resetCmd (ascii "reset")) s fun d => d.lastStatus = Status.state ∧ d.power = s.dev.power) ∧
    (s.dev.power.state = .quiet → Completes .powerQuiet s fun d =>
      d.lastStatus = Status.ok ∧ d.flag Reg.quietHold = true ∧ s.dev.KeepsRegs [Reg.quietHold.key, Reg.configEpoch.key] d) ∧
    (s.dev.power.state = .ready ∨ s.dev.power.state = .onShow → Completes .powerQuiet s fun d =>
      d.lastStatus = Status.ok ∧ d.flag Reg.quietHold = true ∧ d.power = { s.dev.power with stopDue := true } ∧
      s.dev.KeepsRegs [Reg.quietHold.key, Reg.configEpoch.key] d) ∧
    (s.dev.power.state ≠ .quiet → s.dev.power.state ≠ .ready → s.dev.power.state ≠ .onShow →
      Completes .powerQuiet s (fun d => d.lastStatus = Status.state ∧ d.power = s.dev.power ∧ d.regs = s.dev.regs) ∧
      Completes .powerReady s (fun d => d.lastStatus = Status.state ∧ d.power = s.dev.power ∧ d.regs = s.dev.regs)) ∧
    (s.dev.power.state = .quiet → Completes .powerReady s fun d =>
      d.lastStatus = Status.ok ∧ d.flag Reg.quietHold = false ∧ s.dev.KeepsRegs [Reg.quietHold.key, Reg.configEpoch.key] d) ∧
    (s.dev.power.state = .ready ∨ s.dev.power.state = .onShow → Completes .powerReady s fun d =>
      d.lastStatus = Status.ok ∧ d.flag Reg.quietHold = false ∧ d.power = { s.dev.power with stopDue := false } ∧
      s.dev.KeepsRegs [Reg.quietHold.key, Reg.configEpoch.key] d) ∧
    (s.dev.power.state = .quiet → Completes .powerOffseason s fun d => d.lastStatus = Status.ok ∧ d.power.state = .offseason) ∧
    (s.dev.power.state ≠ .quiet → Completes .powerOffseason s fun d => d.lastStatus = Status.state ∧ d.power = s.dev.power) ∧
    (s.dev.nat Reg.pairState ≠ 2 → Completes (.handoverCmd (ascii "now")) s fun d => d.lastStatus = Status.state ∧ d.pair = s.dev.pair) ∧
    (s.dev.power.state ≠ .onShow → s.dev.headsGroup = true → Completes (.groupReform (ascii "now")) s fun d =>
      d.lastStatus = Status.ok ∧ d.drada.collected = [] ∧ d.drada.formBy = some (s.dev.clock + Dev.msCycles (s.dev.nat Reg.groupFormTimeout))) ∧
    (s.dev.power.state = .onShow ∨ s.dev.headsGroup = false → Completes (.groupReform (ascii "now")) s fun d =>
      d.lastStatus = Status.state ∧ d.drada = s.dev.drada ∧ d.regs = s.dev.regs) ∧
    (∀ arg, arg ≠ ascii "now" →
      Completes (.handoverCmd arg) s (fun d => d.lastStatus = Status.range ∧ d.pair = s.dev.pair ∧ d.regs = s.dev.regs) ∧
      Completes (.groupReform arg) s (fun d => d.lastStatus = Status.range ∧ d.drada = s.dev.drada ∧ d.regs = s.dev.regs))

/-- HANDOVER_CMD at a lead. -/
def Obligations.HandoverCommand : Prop :=
  ∀ s : State, s.dev.answers = true → s.dev.power.resetDue = none → s.dev.power.offDue = false →
    s.dev.nat Reg.pairState = 2 →
    (s.dev.pair.handover = none → s.dev.nat Reg.partnerHealth % 256 = 255 → s.dev.pair.audit = none → Completes (.handoverCmd (ascii "now")) s fun d =>
      d.lastStatus = Status.ok ∧ d.pair.handover = some (s.dev.msc + 1 + s.dev.fr / 1000) ∧ d.pair.reason = 1 ∧
      d.nat Reg.pairState = 2 ∧ d.nat Reg.configEpoch = (s.dev.nat Reg.configEpoch + 1) % 2 ^ 32) ∧
    (s.dev.pair.handover = none → s.dev.nat Reg.partnerHealth % 256 = 255 → s.dev.pair.audit ≠ none → Completes (.handoverCmd (ascii "now")) s fun d =>
      d.lastStatus = Status.ok ∧ d.pair.waiting = true ∧ d.pair.handover = none ∧ s.dev.KeepsRegs [Reg.configEpoch.key] d) ∧
    (s.dev.pair.handover ≠ none ∨ s.dev.nat Reg.partnerHealth % 256 ≠ 255 → Completes (.handoverCmd (ascii "now")) s fun d =>
      d.lastStatus = Status.state ∧ d.pair = s.dev.pair ∧ d.regs = s.dev.regs)

/-- The writes of one entry each. -/
def Obligations.ValueWrites : Prop :=
  ∀ s : State, s.dev.answers = true → s.dev.Alone →
    (∀ v : Nat, v ≤ 1 → s.dev.Takes Reg.showRequest 0 (.int v) → Completes (.showRequestWrite v) s fun d =>
      d.lastStatus = Status.ok ∧ d.nat Reg.showRequest = v ∧ s.dev.KeepsRegs [Reg.showRequest.key, Reg.configEpoch.key] d) ∧
    (∀ p high v, p < 13 → s.dev.Takes (if high then Reg.sensorWarnHigh else Reg.sensorWarnLow) p (.int v) →
      Completes (.sensorLimitWrite p high v) s fun d =>
        d.lastStatus = Status.ok ∧ d.int (if high then Reg.sensorWarnHigh else Reg.sensorWarnLow) p = v ∧
        s.dev.KeepsRegs [(if high then Reg.sensorWarnHigh else Reg.sensorWarnLow).key p, Reg.configEpoch.key] d) ∧
    (∀ v : Nat, v ≤ 1 → s.dev.Takes Reg.timeTestMode 0 (.int v) → Completes (.timeTestModeWrite v) s fun d =>
      d.lastStatus = Status.ok ∧ d.nat Reg.timeTestMode = v ∧ (v = 1 → d.alm.snMode = true)) ∧
    (∀ q v : Nat, q < 10 → s.dev.Takes Reg.arbPriorityDefault q (.int v) → v ≤ 7 → Completes (.arbPriorityWrite q v) s fun d =>
      d.lastStatus = Status.ok ∧ d.nat Reg.arbPriorityDefault q = v ∧ d.nat Reg.arbPriority q = v ∧
      s.dev.KeepsRegs [Reg.arbPriorityDefault.key q, Reg.arbPriority.key q, Reg.configEpoch.key] d) ∧
    (∀ (p : Nat) (transmit : Bool) (mask : Nat), p < 4 → mask < 2 ^ 32 →
      s.dev.Takes (if transmit then Reg.tdmTxMaskPending else Reg.tdmRxMaskPending) p (.int mask) →
      Completes (.tdmMaskWrite p transmit mask) s fun d =>
        d.lastStatus = Status.ok ∧ d.nat (if transmit then Reg.tdmTxMaskPending else Reg.tdmRxMaskPending) p = mask ∧
        (s.dev.nat Reg.tdmSlots p = 0 → d.nat (if transmit then Reg.tdmTxMaskActive else Reg.tdmRxMaskActive) p = mask)) ∧
    (∀ (flow : Nat) (transmit : Bool) (bank : Nat) (table : Octets) (r : Row), flow < 1024 →
      (transmit, bank, r) ∈ [(false, 0, Reg.rxSlotsA), (false, 1, Reg.rxSlotsB), (true, 0, Reg.txSlotsA), (true, 1, Reg.txSlotsB)] →
      s.dev.Takes r flow (.bytes table) → Completes (.slotTableWrite flow transmit bank table) s fun d =>
        d.lastStatus = Status.ok ∧ d.bytes r flow = table ∧ s.dev.KeepsRegs [r.key flow, Reg.configEpoch.key] d) ∧
    (∀ flow transmit bank table, 1024 ≤ flow ∨ 2 ≤ bank → Completes (.slotTableWrite flow transmit bank table) s fun d =>
      d = { s.dev with lastStatus := Status.noEntry }) ∧
    (∀ v : Nat, ¬ s.dev.Takes Reg.showRequest 0 (.int v) → Completes (.showRequestWrite v) s s.dev.Refused) ∧
    (∀ p high v, ¬ s.dev.Takes (if high then Reg.sensorWarnHigh else Reg.sensorWarnLow) p (.int v) →
      Completes (.sensorLimitWrite p high v) s s.dev.Refused) ∧
    (∀ v : Nat, ¬ s.dev.Takes Reg.timeTestMode 0 (.int v) → Completes (.timeTestModeWrite v) s s.dev.Refused) ∧
    (∀ q v : Nat, ¬ s.dev.Takes Reg.arbPriorityDefault q (.int v) → Completes (.arbPriorityWrite q v) s s.dev.Refused) ∧
    (∀ (p : Nat) (transmit : Bool) (mask : Nat), ¬ s.dev.Takes (if transmit then Reg.tdmTxMaskPending else Reg.tdmRxMaskPending) p (.int mask) →
      Completes (.tdmMaskWrite p transmit mask) s s.dev.Refused) ∧
    (∀ (flow : Nat) (transmit : Bool) (bank : Nat) (table : Octets) (r : Row), flow < 1024 →
      (transmit, bank, r) ∈ [(false, 0, Reg.rxSlotsA), (false, 1, Reg.rxSlotsB), (true, 0, Reg.txSlotsA), (true, 1, Reg.txSlotsB)] →
      ¬ s.dev.Takes r flow (.bytes table) → Completes (.slotTableWrite flow transmit bank table) s s.dev.Refused)

/-- The writes of a family of entries, by sub-index. -/
def Obligations.ConfigWrites : Prop :=
  ∀ s : State, s.dev.answers = true → s.dev.Alone →
    (∀ r ∈ [Reg.portEnable, Reg.speedMode, Reg.fecMode], ∀ p v : Nat,
      (p < 5 → s.dev.Takes r p (.int v) → Completes (.portConfigWrite p r.sub v) s fun d => d.lastStatus = Status.ok ∧ d.nat r p = v) ∧
      (¬ s.dev.Takes r p (.int v) → Completes (.portConfigWrite p r.sub v) s s.dev.Refused)) ∧
    (∀ r ∈ Dev.tdmRows, ∀ p v : Nat,
      (p < 4 → s.dev.Takes r p (.int v) → Completes (.tdmPortConfigWrite p r.sub v) s fun d => d.lastStatus = Status.ok ∧ d.nat r p = v ∧
        d.nat Reg.tdmState p = (if d.nat Reg.tdmSlots p = 0 then 0 else 1)) ∧
      (¬ s.dev.Takes r p (.int v) → Completes (.tdmPortConfigWrite p r.sub v) s s.dev.Refused)) ∧
    (∀ r ∈ [Reg.dradaEnable, Reg.dradaRateMode, Reg.dradaFecMode, Reg.dradaMacsec], ∀ k v : Nat,
      (k < 3 → s.dev.Takes r k (.int v) → Completes (.dradaConfigWrite k r.sub v) s fun d => d.lastStatus = Status.ok ∧ d.nat r k = v) ∧
      (¬ s.dev.Takes r k (.int v) → Completes (.dradaConfigWrite k r.sub v) s s.dev.Refused)) ∧
    (∀ r ∈ [Reg.mapEnable, Reg.mapUdpPort, Reg.mapSource, Reg.mapInterface, Reg.mapObjectBase, Reg.mapObjectCount], ∀ m v : Nat,
      (m < 16 → s.dev.Takes r m (.int v) → Completes (.mapConfigWrite m r.sub v) s fun d =>
        d.lastStatus = Status.ok ∧ d.nat r m = v ∧
        s.dev.KeepsRegs [r.key m, Reg.configEpoch.key, Reg.certifiedGaps.key, Reg.certifiedState.key] d) ∧
      (¬ s.dev.Takes r m (.int v) → Completes (.mapConfigWrite m r.sub v) s s.dev.Refused)) ∧
    (∀ p sub v, sub ∉ [Reg.portEnable.sub, Reg.speedMode.sub, Reg.fecMode.sub] →
      Completes (.portConfigWrite p sub v) s fun d => d = { s.dev with lastStatus := Status.noSub }) ∧
    (∀ p sub v, sub ∉ Dev.tdmRows.map Row.sub →
      Completes (.tdmPortConfigWrite p sub v) s fun d => d = { s.dev with lastStatus := Status.noSub }) ∧
    (∀ k sub v, sub ∉ [Reg.dradaEnable.sub, Reg.dradaRateMode.sub, Reg.dradaFecMode.sub, Reg.dradaMacsec.sub] →
      Completes (.dradaConfigWrite k sub v) s fun d => d = { s.dev with lastStatus := Status.noSub }) ∧
    (∀ m sub v, sub ∉ [Reg.mapEnable.sub, Reg.mapUdpPort.sub, Reg.mapSource.sub, Reg.mapInterface.sub, Reg.mapObjectBase.sub, Reg.mapObjectCount.sub] →
      Completes (.mapConfigWrite m sub v) s fun d => d = { s.dev with lastStatus := Status.noSub })

/-- LOCKSTEP_MISMATCH, REMAP_SET, ROM_LOCK_SET, NOR_WRITE_ENABLE, WATCHDOG_KICK and WATCHDOG_EXPIRY. -/
def Obligations.SupervisorControl : Prop :=
  ∀ s : State,
    (s.dev.live = false →
      (∀ a g, Completes (.lockstepMismatch a g) s fun d => d = s.dev) ∧ Completes .remapSet s (fun d => d = s.dev) ∧
      Completes .romLockSet s (fun d => d = s.dev) ∧ (∀ e, Completes (.norWriteEnable e) s fun d => d = s.dev) ∧
      Completes .watchdogKick s (fun d => d = s.dev) ∧ Completes .watchdogExpiry s fun d => d = s.dev) ∧
    (s.dev.live = true → s.dev.power.tripped = false → ∀ a g, Completes (.lockstepMismatch a g) s fun d =>
      d.HeldInReset 6 ∧ d.nat Reg.lockstepFaults = (s.dev.nat Reg.lockstepFaults + 1) % 2 ^ 32 ∧
      d.bytes Reg.lastLockstep = toBE 8 a ++ toBE 8 s.dev.seconds ++ toBE 4 (s.dev.nat Reg.blockCount) ++ toBE 4 g) ∧
    (s.dev.live = true → s.dev.sup.remap = false → Completes .remapSet s fun d =>
      d.sup = { s.dev.sup with remap := true, kickAt := some s.dev.clock } ∧ d.flag Reg.remapState = true ∧
      s.dev.KeepsRegs [Reg.remapState.key] d) ∧
    (s.dev.sup.remap = true → Completes .remapSet s fun d => d = s.dev) ∧
    (s.dev.live = true → Completes .romLockSet s fun d => d = { s.dev with sup := { s.dev.sup with romLock := true } }) ∧
    (s.dev.live = true → ∀ e, Completes (.norWriteEnable e) s fun d => d = { s.dev with sup := { s.dev.sup with norWrite := e } }) ∧
    (∀ t, s.dev.live = true → s.dev.sup.kickAt = some t → t + Dev.msCycles 10 ≤ s.dev.clock → s.dev.clock < t + Dev.msCycles 100 →
      Completes .watchdogKick s fun d => d = { s.dev with sup := { s.dev.sup with kickAt := some s.dev.clock } }) ∧
    (s.dev.sup.kickAt = none → Completes .watchdogKick s (fun d => d = s.dev) ∧ Completes .watchdogExpiry s fun d => d = s.dev) ∧
    (∀ t, s.dev.live = true → s.dev.power.tripped = false → s.dev.sup.kickAt = some t →
      s.dev.clock < t + Dev.msCycles 10 ∨ t + Dev.msCycles 100 ≤ s.dev.clock →
      Completes .watchdogKick s fun d => d.HeldInReset 5 ∧ d.nat Reg.watchdogResets = (s.dev.nat Reg.watchdogResets + 1) % 2 ^ 32) ∧
    (∀ t, s.dev.live = true → s.dev.power.tripped = false → s.dev.sup.kickAt = some t → s.dev.Reaches (t + Dev.msCycles 100) →
      Completes .watchdogExpiry s fun d => d.HeldInReset 5 ∧ d.nat Reg.watchdogResets = (s.dev.nat Reg.watchdogResets + 1) % 2 ^ 32)

/-- SENSOR_SAMPLE, FAN_UPDATE, FAN_STALL, I2C_STUCK and CARRIER_TEMP_READ. -/
def Obligations.SensorsAndFan : Prop :=
  ∀ s : State, s.dev.answers = true →
    (∀ values : List Int, s.dev.Reaches (s.dev.timerFrom 160 + Dev.usCycles 250) → s.dev.perturb.sensors = [] → Completes (.sensorSample values) s fun d =>
      d.season.minuteSamples = s.dev.season.minuteSamples + 1 ∧
      ∀ i, i < 13 → ∀ v, values[i]? = some v → d.int Reg.sensorValue i = v) ∧
    (∀ rpm, s.dev.Reaches (s.dev.timerFrom 161 + Dev.msCycles 100) → Completes (.fanUpdate rpm) s fun d =>
      d.nat Reg.fanRpm = min rpm 65535 ∧
      (s.dev.nat Reg.sensorState 2 = 2 ∨ s.dev.nat Reg.sensorState 2 = 3 → d.nat Reg.fanDutyNow = 1000) ∧
      (s.dev.nat Reg.sensorState 2 < 2 → s.dev.nat Reg.fanMode = 1 → d.nat Reg.fanDutyNow = s.dev.nat Reg.fanDuty) ∧
      (s.dev.nat Reg.sensorState 2 < 2 → s.dev.nat Reg.fanMode = 0 →
        d.nat Reg.fanDutyNow = max (s.dev.fanCurve (s.dev.int Reg.sensorValue 2)) (s.dev.nat Reg.fanDutyNow - 2)) ∧
      s.dev.KeepsRegs [Reg.fanRpm.key, Reg.fanDutyNow.key] d) ∧
    (∀ t, s.dev.sup.fanSlowSince = some t → s.dev.sup.fanStalled = false → s.dev.Reaches (t + Dev.secCycles 2) →
      Completes .fanStall s fun d => d.sup = { s.dev.sup with fanStalled := true } ∧ s.dev.KeepsRegs [] d) ∧
    Completes .i2cStuck s (fun d => s.dev.Told d ∧
      (s.dev.log.fifo.length < 1023 → d.log.fifo.any (fun r => r.code == 0x2104 && r.kind == 1) = true)) ∧
    (∀ value n, s.dev.Reaches (s.dev.timerFrom 162 + Dev.secCycles 1) → Completes (.carrierTempRead value n false) s fun d =>
      d.int Reg.carrierTemp = (match value with | some v => satS 16 v | none => -32768) ∧
      (n ≠ 0 → d.nat Reg.i2cRecoveries = (s.dev.nat Reg.i2cRecoveries + n) % 2 ^ 32) ∧
      s.dev.KeepsRegs [Reg.carrierTemp.key, Reg.i2cRecoveries.key] d) ∧
    (∀ value n, s.dev.Reaches (s.dev.timerFrom 162 + Dev.secCycles 1) → Completes (.carrierTempRead value n true) s fun d =>
      d.int Reg.carrierTemp = s.dev.int Reg.carrierTemp ∧
      (n ≠ 0 → d.nat Reg.i2cRecoveries = (s.dev.nat Reg.i2cRecoveries + n) % 2 ^ 32) ∧ s.dev.KeepsRegs [Reg.i2cRecoveries.key] d)

/-- SEASON_MEASURE, SEASON_MINUTE and TRIAL_CONFIRM_TIMER. -/
def Obligations.SeasonEvents : Prop :=
  ∀ s : State, s.dev.answers = true →
    (∀ ref can : Nat, ref ≠ 0 → s.dev.season.extra = false → s.dev.Reaches s.dev.season.measureAt →
      Completes (.seasonMeasure [(ref, can)]) s fun d =>
        d.int Reg.canaryShift 0 = satS 16 (rdiv (10000 * ((ref : Int) - can)) ref - Config.canaryFused 0) ∧ d.season.extra = false ∧
        d.season.measureAt = max s.dev.clock s.dev.season.measureAt + Dev.secCycles (s.dev.nat Reg.seasonPeriod)) ∧
    (∀ ref can : Nat, ref ≠ 0 → s.dev.season.extra = true → Completes (.seasonMeasure [(ref, can)]) s fun d =>
      d.int Reg.canaryShift 0 = satS 16 (rdiv (10000 * ((ref : Int) - can)) ref - Config.canaryFused 0) ∧ d.season.extra = false ∧
      d.season.measureAt = s.dev.season.measureAt ∧ d.clock = s.dev.clock) ∧
    (s.dev.Reaches (s.dev.timerFrom 163 + Dev.secCycles 60) → Completes .seasonMinute s fun d =>
      d.nat Reg.seasonPoweredTime = s.dev.nat Reg.seasonPoweredTime + 60 ∧
      d.nat Reg.seasonLifeUsed = d.nat Reg.seasonEquivalent * 100000 / ratedLifeMs ∧
      d.season.minuteTemp = 0 ∧ d.season.minuteVolt = 0 ∧ d.season.minuteSamples = 0) ∧
    (∀ t, s.dev.sec.readySince = some t → s.dev.sec.trial = true → s.dev.Reaches (t + Dev.msCycles (s.dev.nat Reg.confirmDelay)) →
      s.dev.sec.running ≤ 1 → Completes .trialConfirmTimer s fun d =>
        d.sec.trial = false ∧ (d.slot s.dev.sec.running).state = 4 ∧ s.dev.KeepsRegs [] d) ∧
    (s.dev.sec.readySince = none ∨ s.dev.sec.trial = false → Completes .trialConfirmTimer s fun d => d = s.dev)

/-- CHECKER_TEST, SELF_TEST_COMPLETE, PERTURB_APPLY and PERTURB_TIMEOUT. -/
def Obligations.TestEvents : Prop :=
  ∀ s : State, s.dev.answers = true →
    (s.dev.Reaches (s.dev.timerFrom 164 + Dev.msCycles (s.dev.nat Reg.checkerTestPeriod)) →
      Completes (.checkerTest none) s (fun d =>
        d.nat Reg.checkerTests = (s.dev.nat Reg.checkerTests + 1) % 2 ^ 32 ∧ s.dev.KeepsRegs [Reg.checkerTests.key] d) ∧
      ∀ fn c, s.dev.power.state ≠ .fault → s.dev.power.state ≠ .boot → Completes (.checkerTest (some (fn, c))) s fun d =>
        d.nat Reg.checkerFailures = (s.dev.nat Reg.checkerFailures + 1) % 2 ^ 32 ∧ d.power.state = .fault ∧
        d.nat Reg.faultCause = 6 * 2 ^ 24 + c % 65536) ∧
    (∀ k at_, s.dev.season.test = some (k, at_) → k ≤ 4 → Completes (.selfTestComplete none) s fun d =>
      d.season.test = none ∧ d.nat Reg.selfTestState = 2 ∧ d.nat Reg.selfTestResult = min k 3 * 2 ^ 24) ∧
    (∀ k at_ n x, s.dev.season.test = some (k, at_) → 1 ≤ k → k ≤ 4 → s.dev.power.state ≠ .fault → s.dev.power.state ≠ .boot →
      Completes (.selfTestComplete (some (n, x))) s fun d =>
        d.season.test = none ∧ d.nat Reg.selfTestState = 3 ∧ d.power.state = .fault ∧
        d.nat Reg.selfTestResult = (if k = 4 then max 1 (min 3 n) else k) * 2 ^ 24 + x % 65536 ∧
        d.nat Reg.faultCause = (if (if k = 4 then max 1 (min 3 n) else k) = 2 then 6 else 7) * 2 ^ 24 + x % 65536) ∧
    (∀ f, s.dev.season.test = none → Completes (.selfTestComplete f) s fun d => d = s.dev) ∧
    (∀ k a, (s.dev.perturb.armed.find? fun a => a.slot == k) = some a → a.next ≤ s.dev.blockDate → (s.dev.slotOf k).kind ≠ 0x37 →
      Completes (.perturbApply k) s fun d => d.nat Reg.perturbApplied = (s.dev.nat Reg.perturbApplied + 1) % 2 ^ 32) ∧
    (∀ k a, (s.dev.perturb.armed.find? fun a => a.slot == k) = some a → a.next ≤ s.dev.blockDate → (s.dev.slotOf k).kind = 0x37 →
      (s.dev.slotOf k).target = 0 → s.dev.power.tripped = false → Completes (.perturbApply k) s fun d => d.HeldInReset 6) ∧
    (∀ k, (∀ a, (s.dev.perturb.armed.find? fun a => a.slot == k) = some a → s.dev.blockDate < a.next) →
      Completes (.perturbApply k) s fun d => d = s.dev) ∧
    (∀ k a, (s.dev.perturb.armed.find? fun a => a.slot == k) = some a → s.dev.slotArmed k = true →
      s.dev.Reaches (a.armedAt + Dev.msCycles (s.dev.nat Reg.perturbTimeout)) → Completes (.perturbTimeout k) s fun d =>
        d.nat Reg.perturbSlotState k = 5 ∧ d.nat Reg.perturbArmed = setBit (s.dev.nat Reg.perturbArmed) k false ∧
        s.dev.KeepsRegs [Reg.perturbArmed.key, Reg.perturbSlotState.key k] d)

/-- JTAG_INSTRUCTION, and its stop. -/
def Obligations.TestAccessPort : Prop :=
  ∀ s : State,
    (∀ op, s.dev.live = false → Completes (.jtagInstruction op) s fun d => d = s.dev) ∧
    (s.dev.live = true →
    Completes (.jtagInstruction .idcode) s (fun d => d = { s.dev with fwRead := 0x182404A9 }) ∧
    Completes (.jtagInstruction .bypass) s (fun d => d = { s.dev with fwRead := 0 }) ∧
    Completes (.jtagInstruction .sample) s (fun d => d.fwRead = Config.free s.dev.freeCtr ∧ d.freeCtr = s.dev.freeCtr + 1 ∧ d.regs = s.dev.regs) ∧
    (s.dev.nat Reg.jtagState = 0 → Completes (.jtagInstruction .other) s fun d => d = { s.dev with fwRead := 0 }) ∧
    (s.dev.nat Reg.jtagState ≠ 0 → exec (.jtagInstruction .other) s = .refused .debugUnit))

/-- VIN_UVLO_START, VIN_UVLO_TRIP, VIN_OVP_TRIP, OVP_RESTART and WAKE_EDGE. -/
def Obligations.SupplyEvents : Prop :=
  ∀ s : State,
    (s.dev.power.vin = false → s.dev.power.state = .off → s.dev.power.overVoltage = false → Completes .vinUvloStart s fun d =>
      d.HeldInReset 1 ∧ d.power.vin = true) ∧
    (s.dev.power.vin = false → s.dev.power.overVoltage = true → Completes .vinUvloStart s fun d =>
      d = { s.dev with power := { s.dev.power with vin := true } }) ∧
    (s.dev.power.vin = true → Completes .vinUvloStart s fun d => d = s.dev) ∧
    (∀ held, s.dev.power.vin = true → Completes (.vinUvloTrip held) s fun d =>
      d.power.vin = false ∧ d.power.state = .off ∧ d.nat Reg.vinTrips = (s.dev.nat Reg.vinTrips + 1) % 2 ^ 32) ∧
    (∀ held, s.dev.power.vin = false → Completes (.vinUvloTrip held) s fun d => d = s.dev) ∧
    (s.dev.power.overVoltage = false → s.dev.power.state = .offseason → Completes .vinOvpTrip s fun d =>
      d.power.overVoltage = true ∧ d.power.state = .offseason ∧ d.nat Reg.vinTrips = (s.dev.nat Reg.vinTrips + 1) % 2 ^ 32) ∧
    (s.dev.power.overVoltage = true → Completes .vinOvpTrip s fun d => d = s.dev) ∧
    (s.dev.power.overVoltage = false → Completes .ovpRestart s fun d => d = s.dev) ∧
    (s.dev.power.overVoltage = false → s.dev.power.state ≠ .offseason → Completes .vinOvpTrip s fun d =>
      d.power.overVoltage = true ∧ d.power.state = .off ∧ d.nat Reg.vinTrips = (s.dev.nat Reg.vinTrips + 1) % 2 ^ 32) ∧
    (s.dev.power.overVoltage = true → s.dev.power.state = .off → s.dev.power.vin = true → Completes .ovpRestart s fun d =>
      d.HeldInReset 0x0B ∧ d.power.overVoltage = false) ∧
    (s.dev.power.state = .offseason → Completes .wakeEdge s fun d => d.HeldInReset 2 ∧ d.power.wake = true) ∧
    (s.dev.power.state = .off → s.dev.power.latchedOff = true → s.dev.power.vin = true → s.dev.power.overVoltage = false →
      Completes .wakeEdge s fun d => d.HeldInReset 2 ∧ d.power.wake = true) ∧
    (s.dev.power.state ≠ .offseason → (s.dev.power.state ≠ .off ∨ s.dev.power.latchedOff = false ∨ s.dev.power.vin = false ∨ s.dev.power.overVoltage = true) →
      Completes .wakeEdge s fun d => d = { s.dev with power := { s.dev.power with wake := true } })

/-- RAILS_IN_REGULATION, RAIL_TRIP, RAIL_RESTART and FAULT_RESTART_TIMER. -/
def Obligations.RailEvents : Prop :=
  ∀ s : State,
    (s.dev.power.state = .boot → s.dev.power.held = true → s.dev.power.rails = false → Completes .railsInRegulation s fun d =>
      d.power = { s.dev.power with rails := true, pgood := true, vaux := true, tripAt := s.dev.clock } ∧
      d.out = .pad "VAUX_3V3" true :: .pad "PGOOD" true :: s.dev.out ∧ d.regs = s.dev.regs) ∧
    (s.dev.live = true → s.dev.power.tripped = true → Completes .railsInRegulation s fun d =>
      d.power = { s.dev.power with rails := true, pgood := true, tripped := false } ∧
      d.out = .pad "PGOOD" true :: s.dev.out ∧ d.regs = s.dev.regs) ∧
    (∀ rail, s.dev.power.state = .boot → s.dev.power.held = true → s.dev.power.rails = true → Completes (.railTrip rail) s fun d =>
      d.nat Reg.railTrips = (s.dev.nat Reg.railTrips + 1) % 2 ^ 32 ∧ d.power = { s.dev.power with rails := false, pgood := false }) ∧
    (∀ rail, s.dev.answers = true → s.dev.power.state ≠ .fault → s.dev.power.state ≠ .boot → Completes (.railTrip rail) s fun d =>
      d.nat Reg.railTrips = (s.dev.nat Reg.railTrips + 1) % 2 ^ 32 ∧ d.power.rails = false ∧ d.power.pgood = false ∧ d.power.tripped = true ∧
      d.power.state = .fault ∧ d.nat Reg.faultCause = 2 * 2 ^ 24 + rail % 65536) ∧
    (s.dev.live = true → s.dev.power.rails = false → s.dev.Reaches (s.dev.power.tripAt + Dev.msCycles 1) →
      ((s.dev.advanceTo (s.dev.power.tripAt + Dev.msCycles 1)).restartAllowed = true → Completes .railRestart s fun d =>
        d.HeldInReset 0x0A ∧ d.power.rails = false ∧ d.nat Reg.faultRestarts = (s.dev.nat Reg.faultRestarts + 1) % 2 ^ 32) ∧
      ((s.dev.advanceTo (s.dev.power.tripAt + Dev.msCycles 1)).restartAllowed = false → Completes .railRestart s fun d =>
        d.power.state = .off ∧ d.power.latchedOff = true)) ∧
    (s.dev.live = true → s.dev.power.state = .fault → s.dev.power.latchedOff = false → s.dev.flag Reg.faultAutoReset = true →
      s.dev.Reaches (s.dev.power.faultAt + Dev.msCycles (s.dev.nat Reg.faultRestartDelay)) →
      (s.dev.power.tripped = false →
        (s.dev.advanceTo (s.dev.power.faultAt + Dev.msCycles (s.dev.nat Reg.faultRestartDelay))).restartAllowed = true →
        Completes .faultRestartTimer s fun d =>
          d.HeldInReset 9 ∧ d.nat Reg.faultRestarts = (s.dev.nat Reg.faultRestarts + 1) % 2 ^ 32) ∧
      ((s.dev.advanceTo (s.dev.power.faultAt + Dev.msCycles (s.dev.nat Reg.faultRestartDelay))).restartAllowed = false →
        Completes .faultRestartTimer s fun d => d.power.state = .fault ∧ d.power.latchedOff = true ∧ s.dev.KeepsRegs [] d))

/-- NRESET, NRESET_RELEASE, RESET_RELEASE, BOOT_COMPLETE and DATA_PATH_STOP. -/
def Obligations.ResetEvents : Prop :=
  ∀ s : State,
    (s.dev.live = true → s.dev.power.tripped = false → Completes .nreset s fun d => d.HeldInReset 3 ∧ d.power.nreset = false) ∧
    (s.dev.live = true → s.dev.power.tripped = true → Completes .nreset s fun d =>
      d.power = { s.dev.power with nreset := false } ∧ s.dev.KeepsRegs [] d) ∧
    (s.dev.power.state = .boot → s.dev.power.held = true → Completes .nreset s fun d =>
      d = { s.dev with power := { s.dev.power with nreset := false, cause := if s.dev.power.rails then 3 else s.dev.power.cause } }) ∧
    (s.dev.power.nreset = true → Completes .nresetRelease s fun d => d = s.dev) ∧
    (∀ facts, s.dev.power.state ≠ .boot ∨ s.dev.power.held = false ∨ s.dev.power.rails = false ∨ s.dev.power.nreset = false →
      Completes (.resetRelease facts) s fun d => d = s.dev) ∧
    (s.dev.power.state = .off ∨ s.dev.power.state = .offseason → Completes .nreset s fun d => d = { s.dev with power := { s.dev.power with nreset := false } }) ∧
    (s.dev.power.nreset = false → Completes .nresetRelease s fun d =>
      d = { s.dev with power := { s.dev.power with nreset := true, tripAt := s.dev.clock } }) ∧
    (∀ facts, s.dev.power.state = .boot → s.dev.power.held = true → s.dev.power.rails = true → s.dev.power.nreset = true →
      Completes (.resetRelease facts) s fun d =>
        d.power.held = false ∧ d.power.bootSel = facts.bootSel ∧ d.power.rolePref = facts.rolePref ∧
        d.power.pairPresent = facts.pairPresent ∧ d.nat Reg.pairState = (if facts.pairPresent then 0 else 1) ∧
        (facts.mramBad = [] → d.nat Reg.resetCount = (s.dev.nat Reg.resetCount + 1) % 2 ^ 32) ∧
        d.clock = max s.dev.clock (s.dev.power.tripAt + Dev.msCycles 2) ∧ d.frcBase = d.clock) ∧
    (∀ ms eeprom, s.dev.power.state ≠ .boot ∨ s.dev.power.held = true ∨ s.dev.sec.stopped = true →
      Completes (.bootComplete ms eeprom) s fun d => d = s.dev) ∧
    (∀ ms eeprom, s.dev.power.state = .boot → s.dev.power.held = false → s.dev.sec.stopped = false →
      ∃ t, exec (.bootComplete ms eeprom) s = .next t ∧ t.pending = s.pending ∧ t.mem = [] ∧
        t.dev.power.state = (if s.dev.power.bootFault then .fault else .quiet) ∧
        t.dev.season.measureAt = t.dev.clock + Dev.secCycles 10 ∧ t.dev.sup.remap = true ∧ t.dev.sup.romLock = true) ∧
    (s.dev.power.stopDue = true → s.dev.pair.handover = none → s.dev.power.state.runs = true → Completes .dataPathStop s fun d =>
      d.power.stopDue = false ∧ d.power.state = .quiet ∧ d.flag Reg.mscAligned = false ∧ d.alm.aligned = false ∧
      d.planes = { ingress := [], object := [], render := [], egress := [] }) ∧
    (s.dev.power.stopDue = true → s.dev.pair.handover = none → s.dev.power.state = .fault → Completes .dataPathStop s fun d =>
      d.power.stopDue = false ∧ d.power.state = .fault ∧ d.planes = { ingress := [], object := [], render := [], egress := [] }) ∧
    (s.dev.power.stopDue = false ∨ s.dev.pair.handover ≠ none → Completes .dataPathStop s fun d => d = s.dev)

/-- ARB_BREAK_POINT, ARB_BACKOFF_END, ARB_GRANT_WITHDRAW, ARB_STARVE, ARB_URGENT and ARB_POLICY_TICK. -/
def Obligations.ArbiterEvents : Prop :=
  ∀ s : State, s.dev.answers = true → ∀ c, c < 4 →
    (∀ q a, q < 10 → (s.dev.dchan c).holder = none → (s.dev.dchan c).reqs = [] → (s.dev.dchan c).queue = [] → s.dev.perturb.dramHold = [] →
      Completes (.arbBreakPoint c [{ q, declared := 1, accesses := [a] }]) s fun d =>
        (d.dchan c).holder = some q ∧ (d.dchan c).queue = [{ q, access := a, admitted := s.dev.clock }] ∧ (d.arb c q).todo = [] ∧
        d.nat Reg.arbBursts q = (s.dev.nat Reg.arbBursts q + 1) % 256 ^ Reg.arbBursts.ty.size ∧
        s.dev.KeepsRegs [Reg.arbBursts.key q, Reg.refreshDebt.key c] d) ∧
    (∀ q r, 4 ≤ q → q < 10 → (s.dev.dchan c).holder = none → (s.dev.dchan c).reqs = [(q, r)] → r.todo ≠ [] → s.dev.perturb.dramHold = [] →
      s.dev.Reaches r.ready → Completes (.arbBackoffEnd c q) s fun d => (d.dchan c).holder = some q ∧
        s.dev.KeepsRegs [Reg.arbBursts.key q, Reg.refreshDebt.key c, Reg.arbWaitPeak.key q] d) ∧
    (∀ h r, (s.dev.dchan c).holder = some h → (s.dev.dchan c).reqs = [(h, r)] → r.begun = false →
      Completes (.arbGrantWithdraw c) s fun d =>
        (d.dchan c).holder = none ∧ (d.arb c h).todo = [] ∧ d.nat Reg.arbDeadCycles = (s.dev.nat Reg.arbDeadCycles + 1) % 2 ^ 32 ∧
        s.dev.KeepsRegs [Reg.arbDeadCycles.key] d) ∧
    (∀ q, s.dev.arbWaits c q = true → (s.dev.arb c q).starved = false →
      s.dev.Reaches ((s.dev.arb c q).since + Dev.usCycles (s.dev.nat Reg.arbStarveTime)) → Completes (.arbStarve c q) s fun d =>
        (d.arb c q).starved = true ∧ d.nat Reg.arbStarveCount q = (s.dev.nat Reg.arbStarveCount q + 1) % 2 ^ 32 ∧
        s.dev.KeepsRegs [Reg.arbStarveCount.key q] d) ∧
    (∀ q, s.dev.arbWaits c q = true → (s.dev.arb c q).urgent = false →
      s.dev.Reaches ((s.dev.arb c q).since + 4 * Dev.usCycles (s.dev.nat Reg.arbStarveTime)) → Completes (.arbUrgent c q) s fun d =>
        (d.arb c q).urgent = true ∧ d.nat Reg.arbUrgentCount q = (s.dev.nat Reg.arbUrgentCount q + 1) % 2 ^ 32 ∧
        d.nat Reg.arbPriority q = (if s.dev.flag Reg.arbPolicyEnable then min (s.dev.nat Reg.arbPriority q + 1) 7 else s.dev.nat Reg.arbPriority q) ∧
        s.dev.KeepsRegs [Reg.arbUrgentCount.key q, Reg.arbPriority.key q] d) ∧
    (∀ q, s.dev.arbWaits c q = false ∨ (s.dev.arb c q).starved = true → Completes (.arbStarve c q) s fun d => d = s.dev) ∧
    (∀ q, s.dev.arbWaits c q = false ∨ (s.dev.arb c q).urgent = true → Completes (.arbUrgent c q) s fun d => d = s.dev) ∧
    (s.dev.Reaches (s.dev.timerFrom 100 + Dev.msCycles 1) → Completes .arbPolicyTick s fun d =>
      d.dram.bursts = 0 ∧ d.nat Reg.dramLoadLast = s.dev.dram.bursts * 2 * 10000 / (4 * 786432) ∧
      d.nat Reg.dramLoadPeak = max (s.dev.nat Reg.dramLoadPeak) (s.dev.dram.bursts * 2 * 10000 / (4 * 786432)) ∧
      (∀ q, 4 ≤ q → q < 10 → s.dev.flag Reg.arbPolicyEnable = true → nget 0 s.dev.dram.policyAt q + Dev.msCycles 10 ≤ d.clock →
        d.nat Reg.arbPriority q = s.dev.nat Reg.arbPriorityDefault q) ∧
      s.dev.KeepsRegs (Reg.dramLoadLast.key :: Reg.dramLoadPeak.key :: [4, 5, 6, 7, 8, 9].map fun q => Reg.arbPriority.key q) d)

/-- REFRESH_INTERVAL, MR4_POLL, RFM_ISSUE, DRAM_OSC_CHECK and DRAM_SCRUB_PASS. -/
def Obligations.RefreshEvents : Prop :=
  ∀ s : State, s.dev.answers = true →
    (∀ c mult, c < 4 → mult = (if s.dev.nat Reg.refreshRange c ≤ 1 then 1 else if s.dev.nat Reg.refreshRange c = 2 then 2 else 4) →
      s.dev.Reaches (s.dev.timerFrom (110 + c) + 3072 / mult) → Completes (.refreshInterval c) s fun d => ∃ debt : Int,
        debt = s.dev.int Reg.refreshDebt c + 1 - (if (s.dev.dchan c).queue = [] then
          min (s.dev.int Reg.refreshDebt c + 8).toNat ((d.clock - max (s.dev.dchan c).completedAt (s.dev.dchan c).ahead) / 221) else 0) ∧
        d.int Reg.refreshDebt c = (if s.dev.postponeLimit (s.dev.nat Reg.refreshRange c) < debt then s.dev.postponeLimit (s.dev.nat Reg.refreshRange c)
          else if (s.dev.dchan c).queue = [] ∨ (s.dev.dchan c).queue.any (fun r => isRt r.q) = true then debt else min debt 0) ∧
        s.dev.KeepsRegs [Reg.refreshDebt.key c, Reg.refreshForced.key c] d) ∧
    (∀ c raw range, c < 4 → range ≤ 5 → s.dev.Reaches (s.dev.timerFrom (120 + c) + 98304) →
      ((s.dev.dchan c).mr4 < range → Completes (.mr4Poll c raw range raw range) s fun d =>
        (d.dchan c).mr4 = range ∧ (d.dchan c).lowPolls = 0 ∧ d.nat Reg.mr4Raw c = raw % 256 ∧
        d.nat Reg.refreshRange c = max range (s.dev.nat Reg.refreshFloor c)) ∧
      (range < (s.dev.dchan c).mr4 → (s.dev.dchan c).lowPolls < 3 → Completes (.mr4Poll c raw range raw range) s fun d =>
        (d.dchan c).mr4 = (s.dev.dchan c).mr4 ∧ (d.dchan c).lowPolls = (s.dev.dchan c).lowPolls + 1) ∧
      (range < (s.dev.dchan c).mr4 → (s.dev.dchan c).lowPolls = 3 → Completes (.mr4Poll c raw range raw range) s fun d =>
        (d.dchan c).mr4 = range ∧ (d.dchan c).lowPolls = 0 ∧ d.nat Reg.refreshRange c = max range (s.dev.nat Reg.refreshFloor c))) ∧
    (∀ c bank, c < 4 → max (s.dev.nat Reg.raaImt c) 1 ≤ nget 0 (s.dev.dchan c).raa bank ∨ (nget? (s.dev.dchan c).held bank).isSome = true →
      nget? (s.dev.dchan c).openRows bank = none → Completes (.rfmIssue c bank) s fun d =>
        nget 0 (d.dchan c).raa bank = nget 0 (s.dev.dchan c).raa bank - max (s.dev.nat Reg.raaImt c) 1 ∧ nget? (d.dchan c).held bank = none ∧
        d.nat Reg.rfmIssued c = (s.dev.nat Reg.rfmIssued c + 1) % 2 ^ 32 ∧ s.dev.KeepsRegs [Reg.rfmIssued.key c] d) ∧
    (∀ c bank, c < 4 → (nget? (s.dev.dchan c).openRows bank).isSome = true ∨
      (nget 0 (s.dev.dchan c).raa bank < max (s.dev.nat Reg.raaImt c) 1 ∧ nget? (s.dev.dchan c).held bank = none) →
      Completes (.rfmIssue c bank) s fun d => d = s.dev) ∧
    (∀ c permille eye, c < 4 → s.dev.Reaches (s.dev.timerFrom (130 + c) + Dev.msCycles 100) →
      (100 < permille → Completes (.dramOscCheck c permille eye) s fun d =>
        d.nat Reg.retrainEvents c = (s.dev.nat Reg.retrainEvents c + 1) % 2 ^ 32 ∧ d.nat Reg.eqEyeWidth (7 + c) = eye.width % 65536 ∧
        d.flag Reg.eqStartValid (7 + c) = true) ∧
      (permille ≤ 100 → Completes (.dramOscCheck c permille eye) s fun d => d.regs = s.dev.regs ∧ d.season = s.dev.season)) ∧
    (s.dev.Reaches (s.dev.timerFrom 140 + Dev.secCycles (s.dev.nat Reg.scrubPeriod)) → Completes .dramScrubPass s fun d =>
      d.nat Reg.scrubPasses = (s.dev.nat Reg.scrubPasses + 1) % 2 ^ 32 ∧
      d.dram.scrubBase = ((List.range 4).map fun c => d.nat Reg.channelEccCorrected c) ∧
      ∀ c, c < 4 → d.nat Reg.refreshFloor c = (if lget 0 s.dev.dram.scrubBase c + 16 ≤ s.dev.nat Reg.channelEccCorrected c ∧ s.dev.nat Reg.refreshFloor c = 1
        then 2 else s.dev.nat Reg.refreshFloor c))

/-- DRAM_ACCESS_COMPLETE of a write. -/
def Obligations.DramWriteStores : Prop :=
  ∀ (s : State) c i r, s.dev.answers = true → s.Sound → s.dev.nextAccess c = some i → (s.dev.dchan c).queue[i]? = some r →
    r.access.write = true → regionOk r.q (r.access.addr / 64 * 64) = true → 0x8A000000 ≤ r.access.addr / 64 * 64 →
    r.access.addr / 64 * 64 < 0xBA000000 ∨ (0xBE000000 ≤ r.access.addr / 64 * 64 ∧ r.access.addr / 64 * 64 < 0xC0000000) ∨
      0x143D60000 ≤ r.access.addr / 64 * 64 → ∀ err,
    ∃ t, exec (.dramAccessComplete c err) s = .next t ∧ t.pending = s.pending ∧ t.Sound ∧
      (∀ k, k < 64 → nget (octet 0) t.mem (r.access.addr / 64 * 64 + k) = r.access.data.getD k (octet 0)) ∧
      (∀ a, a < r.access.addr / 64 * 64 ∨ r.access.addr / 64 * 64 + 64 ≤ a → nget (octet 0) t.mem a = nget (octet 0) s.mem a)

/-- DRAM_ACCESS_COMPLETE of a read, or of an access that is refused. -/
def Obligations.DramAccessFaults : Prop :=
  ∀ (s : State) c, s.dev.answers = true → c < 4 →
    (s.dev.nextAccess c = none → ∀ err, Completes (.dramAccessComplete c err) s fun d => d = s.dev) ∧
    ∀ i r, s.dev.nextAccess c = some i → (s.dev.dchan c).queue[i]? = some r →
      (regionOk r.q (r.access.addr / 64 * 64) = false → ∀ err, Completes (.dramAccessComplete c err) s fun d =>
        d.nat Reg.dramRegionFaults = (s.dev.nat Reg.dramRegionFaults + 1) % 2 ^ 32 ∧ (d.dchan c).queue = (s.dev.dchan c).queue.eraseIdx i) ∧
      (regionOk r.q (r.access.addr / 64 * 64) = true → r.access.write = false →
        (s.dev.dram.bad.contains (r.access.addr / 64) = false → nget? s.dev.perturb.poison (r.access.addr / 64) = none →
          Completes (.dramAccessComplete c 0) s (fun d =>
            d.dram.lastLine = s.dev.lineOf s.mem (r.access.addr / 64 * 64) ∧ d.dram.lastPoisoned = false ∧
            (d.dchan c).queue = (s.dev.dchan c).queue.eraseIdx i ∧ s.dev.KeepsRegs [Reg.rtLatencyPeak.key, Reg.actThrottled.key c] d) ∧
          Completes (.dramAccessComplete c 1) s fun d =>
            d.dram.lastLine = s.dev.lineOf s.mem (r.access.addr / 64 * 64) ∧ d.dram.lastPoisoned = false ∧
            d.nat Reg.channelEccCorrected c = (s.dev.nat Reg.channelEccCorrected c + 1) % 2 ^ 32) ∧
        (r.q = 6 → Completes (.dramAccessComplete c 2) s fun d =>
          d.nat Reg.channelEccUncorrected (dramPlace (r.access.addr / 64 * 64)).1 =
            (s.dev.nat Reg.channelEccUncorrected (dramPlace (r.access.addr / 64 * 64)).1 + 1) % 2 ^ 32 ∧
          d.dram.lastPoisoned = true ∧ d.dram.bad.contains (r.access.addr / 64) = true))

/-- SRAM_WRITEBACK, SRAM_HARD_FAULT_RECHECK, SRAM_SCRUB_PERIOD, BANK_POWER_TRANSITION and MARCH_COMPLETE. -/
def Obligations.OnChipMemoryEvents : Prop :=
  ∀ s : State, s.dev.answers = true →
    (∀ bank word superseded, bank < 2560 → word < 8192 → s.dev.bankState bank = 2 → Completes (.sramWriteback bank word superseded) s fun d =>
      d.nat Reg.sramEccCorrected = (s.dev.nat Reg.sramEccCorrected + 1) % 2 ^ 32 ∧
      (superseded = false → nget? d.sram.recheck (bank * 8192 + word) = some 1) ∧
      (superseded = true → d.sram.recheck = s.dev.sram.recheck) ∧
      nget? d.sram.flips (bank * 8192 + word) = none ∧ nget 0 d.sram.corrected bank = min 0xFFFF (nget 0 s.dev.sram.corrected bank + 1) ∧
      s.dev.KeepsRegs (Reg.sramEccCorrected.key :: ((s.dev.errorCounter (bank * 8192 + word)).map fun x => x.1.key x.2.1).toList) d) ∧
    (∀ bank word superseded, 2560 ≤ bank ∨ 8192 ≤ word ∨ s.dev.bankState bank ≠ 2 → Completes (.sramWriteback bank word superseded) s fun d => d = s.dev) ∧
    (∀ bank word x, nget? s.dev.sram.recheck (bank * 8192 + word % 8192) = some x →
      Completes (.sramHardFaultRecheck bank word false) s (fun d =>
        nget? d.sram.recheck (bank * 8192 + word % 8192) = none ∧ d.sram.repair = s.dev.sram.repair ∧ s.dev.KeepsRegs [] d) ∧
      Completes (.sramHardFaultRecheck bank word true) s (fun d =>
        nget? d.sram.recheck (bank * 8192 + word % 8192) = none ∧ (d.repairs bank).contains (0x2000 + word % 8192 / 32) = true ∧
        s.dev.KeepsRegs [Reg.repairPending.key] d)) ∧
    (∀ bank word bad, nget? s.dev.sram.recheck (bank * 8192 + word % 8192) = none → Completes (.sramHardFaultRecheck bank word bad) s fun d => d = s.dev) ∧
    (s.dev.Reaches (s.dev.timerFrom 150 + Dev.msCycles (s.dev.nat Reg.sramScrubPeriod)) →
      Completes (.sramScrubPeriod false) s (fun d =>
        d.nat Reg.sramScrubLate = (s.dev.nat Reg.sramScrubLate + 1) % 2 ^ 32 ∧ s.dev.KeepsRegs [Reg.sramScrubLate.key] d) ∧
      (s.dev.sram.flips = [] → Completes (.sramScrubPeriod true) s fun d =>
        d.nat Reg.sramScrubPasses = (s.dev.nat Reg.sramScrubPasses + 1) % 2 ^ 32 ∧ s.dev.KeepsRegs [Reg.sramScrubPasses.key] d)) ∧
    (∀ bank, bank < 2560 → s.dev.marching bank = false → Completes (.bankPowerTransition bank) s fun d =>
      nget 2 d.sram.states bank = s.dev.bankWanted bank) ∧
    (∀ bank, 2560 ≤ bank → Completes (.bankPowerTransition bank) s fun d => d = s.dev) ∧
    (∀ bank, bank < 2560 → s.dev.marching bank = true → nget 2 s.dev.sram.states bank = 1 → s.dev.bankWanted bank = 2 →
      Completes (.bankPowerTransition bank) s fun d => d.sram.march = none ∧ d.nat Reg.marchState = 4 ∧ nget 2 d.sram.states bank = 2) ∧
    (s.dev.sram.march = none → ∀ failures, Completes (.marchComplete failures) s fun d => d = s.dev) ∧
    (∀ m failures hits, s.dev.sram.march = some m → s.dev.Reaches (m.startedAt + cdiv (m.last + 1 - m.first) 64 * 40960) →
      hits = failures.filter (fun x => m.first ≤ x.1 && x.1 ≤ m.last && x.2.1 < 256) → Completes (.marchComplete failures) s fun d =>
        d.sram.march = none ∧ d.nat Reg.marchState = (if hits = [] then 2 else 3) ∧
        d.nat Reg.marchFailures = hits.foldl (fun n x => n + x.2.2) 0 ∧ (hits = [] → d.sram.repair = s.dev.sram.repair))

/-- PAIR_HELLO, PAIR_FORM_TIMEOUT, ILK_ASSERT, ILK_IN_CHANGE, ILK_GATE_OPEN and ILK_COLLISION_RETRY. -/
def Obligations.PairForming : Prop :=
  ∀ s : State, s.dev.answers = true → s.dev.lone = false →
    (∀ q : Hello, q.shape ≠ s.dev.shapeInForce ∨ q.firmware / 2 ^ 24 % 256 ≠ s.dev.nat Reg.firmwareVersion / 2 ^ 24 →
      Completes (.pairHello q) s fun d => d.pair = { s.dev.pair with refused := true } ∧ s.dev.KeepsRegs [] d) ∧
    (∀ q : Hello, q.shape = s.dev.shapeInForce → q.firmware / 2 ^ 24 % 256 = s.dev.nat Reg.firmwareVersion / 2 ^ 24 →
      s.dev.nat Reg.pairState = 1 → q.state = 2 → Completes (.pairHello q) s fun d =>
        d.pair.partner = some q ∧ d.bytes Reg.partnerSerial = q.serial ∧ d.nat Reg.pairState = 5 ∧ d.nat Reg.catchupStage = 1) ∧
    (s.dev.nat Reg.pairState = 1 → s.dev.pair.refused = false → s.dev.pair.partner = none → s.dev.pair.requested = false → s.dev.pair.lead = false →
      s.dev.Reaches (s.dev.pair.bootLeftAt + Dev.msCycles (s.dev.nat Reg.pairFormTimeout)) → Completes .pairFormTimeout s fun d =>
        d.pair.requested = true ∧ d.pair.reason = 2 ∧ d.pair.assertAt = some (d.clock + s.dev.assertTime) ∧ d.regs = s.dev.regs) ∧
    (∀ t, s.dev.pair.assertAt = some t → s.dev.Reaches t → s.dev.flag Reg.ilkIn = false → s.dev.flag Reg.ilkOut = false →
      Completes .ilkAssert s fun d =>
        d.flag Reg.ilkOut = true ∧ d.pair.assertAt = none ∧ d.out = .pad "ILK_OUT" true :: s.dev.out ∧ s.dev.KeepsRegs [Reg.ilkOut.key] d) ∧
    (∀ t, s.dev.pair.assertAt = some t → s.dev.Reaches t → s.dev.flag Reg.ilkIn = true → Completes .ilkAssert s fun d =>
      d.pair.requested = false ∧ d.pair.assertAt = none ∧ d.regs = s.dev.regs) ∧
    (s.dev.flag Reg.ilkIn = false → s.dev.flag Reg.ilkOut = false → Completes (.ilkInChange true) s fun d =>
      d.flag Reg.ilkIn = true ∧ d.flag Reg.ilkGate = false ∧ d.clock = s.dev.clock + nsCycles 200 ∧
      s.dev.KeepsRegs [Reg.ilkIn.key, Reg.ilkGate.key] d) ∧
    (∀ level, s.dev.flag Reg.ilkIn = level → Completes (.ilkInChange level) s fun d => d = s.dev) ∧
    (s.dev.flag Reg.ilkIn = true → s.dev.nat Reg.pairState ≠ 5 → s.dev.nat Reg.pairState ≠ 6 → Completes (.ilkInChange false) s fun d =>
      d.flag Reg.ilkIn = false ∧ d.clock = s.dev.clock + nsCycles 200 ∧ s.dev.KeepsRegs [Reg.ilkIn.key] d) ∧
    (s.dev.flag Reg.ilkIn = false → s.dev.flag Reg.ilkOut = true → s.dev.flag Reg.ilkGate = false →
      s.dev.clock + nsCycles 200 ≤ s.dev.pair.outAt + nsCycles 1000 → Completes (.ilkInChange true) s fun d =>
        d.flag Reg.ilkIn = true ∧ d.nat Reg.ilkCollisions = (s.dev.nat Reg.ilkCollisions + 1) % 2 ^ 32 ∧ d.flag Reg.ilkOut = s.dev.prefers ∧
        (s.dev.prefers = false → d.pair.requested = false ∧ d.pair.retryAt = d.clock + Dev.msCycles 10 ∧ d.pair.assertAt = none) ∧
        s.dev.KeepsRegs [Reg.ilkIn.key, Reg.ilkGate.key, Reg.ilkOut.key, Reg.ilkCollisions.key] d) ∧
    (s.dev.flag Reg.ilkOut = false ∨ s.dev.flag Reg.ilkIn = true ∨ s.dev.flag Reg.ilkGate = true → Completes .ilkGateOpen s fun d => d = s.dev) ∧
    (s.dev.flag Reg.ilkOut = true → s.dev.flag Reg.ilkIn = false → s.dev.flag Reg.ilkGate = false → s.dev.pair.requested = true →
      s.dev.pair.lead = false → s.dev.pair.heldPackets = [] → s.dev.alm.aligned = false → s.dev.nat Reg.pairState = 6 → s.dev.pair.reason = 2 →
      s.dev.dlinkUp 2 = false → Completes .ilkGateOpen s fun d =>
        d.flag Reg.ilkGate = true ∧ d.pair.lead = true ∧ d.pair.requested = false ∧ d.nat Reg.pairState = 4 ∧
        d.nat Reg.takeovers = (s.dev.nat Reg.takeovers + 1) % 2 ^ 32 ∧ d.nat Reg.handovers = s.dev.nat Reg.handovers) ∧
    (s.dev.pair.retryAt ≠ 0 → s.dev.pair.requested = false → s.dev.pair.lead = false → s.dev.Reaches s.dev.pair.retryAt →
      s.dev.flag Reg.ilkIn = false → Completes .ilkCollisionRetry s fun d =>
        d.pair.retryAt = 0 ∧ d.pair.requested = true ∧ d.pair.assertAt = some (d.clock + s.dev.assertTime) ∧ d.regs = s.dev.regs)

/-- DP_SILENCE, RELEASE_MESSAGE, HANDOVER_DATE, HANDOVER_RELEASE and MIRROR_ACK_TIMEOUT. -/
def Obligations.PairHandover : Prop :=
  ∀ s : State, s.dev.answers = true → s.dev.lone = false →
    (s.dev.nat Reg.pairState = 6 → s.dev.dpSilent = true → s.dev.flag Reg.ilkIn = false → s.dev.pair.requested = false → s.dev.pair.lead = false →
      Completes .dpSilence s fun d =>
        d.pair.silent = true ∧ d.pair.requested = true ∧ d.pair.assertAt = some (s.dev.clock + nsCycles 500) ∧ d.pair.reason = 2 ∧ d.regs = s.dev.regs) ∧
    (s.dev.nat Reg.pairState = 6 → s.dev.dpSilent = true → s.dev.flag Reg.ilkIn = true → s.dev.pair.silent = true →
      Completes .dpSilence s fun d => d = s.dev) ∧
    (s.dev.nat Reg.pairState = 6 → s.dev.dpSilent = true → s.dev.flag Reg.ilkIn = true → s.dev.pair.silent = false →
      Completes .dpSilence s fun d => d.pair = { s.dev.pair with silent := true } ∧ s.dev.KeepsRegs [] d) ∧
    (s.dev.nat Reg.pairState = 6 → s.dev.flag Reg.ilkIn = false → s.dev.pair.requested = false → s.dev.pair.lead = false →
      Completes .releaseMessage s fun d =>
        d.pair.releaseSeen = true ∧ d.pair.handover = none ∧ d.pair.requested = true ∧ d.pair.assertAt = some s.dev.clock ∧ d.regs = s.dev.regs) ∧
    (∀ h byFault, s.dev.nat Reg.pairState = 6 → Completes (.handoverDate h byFault) s fun d =>
      d = { s.dev with pair := { s.dev.pair with handover := some h, reason := if byFault then 3 else 1, heldPackets := [] } }) ∧
    (∀ h, s.dev.pair.handover = some h → s.dev.pair.lead = true → h ≤ s.dev.msc + 1 → s.dev.nat Reg.pairState = 2 → s.dev.pair.reason = 1 →
      (s.dev.ports.items.any fun q => !q.flowQueue.isEmpty) = false → s.dev.flag Reg.ilkOut = true → Completes .handoverRelease s fun d =>
        d.flag Reg.ilkOut = false ∧ d.flag Reg.ilkGate = false ∧ d.pair.lead = false ∧ d.pair.handover = none ∧
        d.nat Reg.pairState = 5 ∧ d.nat Reg.catchupStage = 4 ∧ d.out = .pad "ILK_OUT" false :: s.dev.out) ∧
    (∀ h, s.dev.pair.handover = some h → s.dev.msc + 1 < h ∨ (s.dev.ports.items.any fun q => !q.flowQueue.isEmpty) = true →
      Completes .handoverRelease s fun d => d = s.dev) ∧
    (s.dev.pair.mirrors = [] → Completes .mirrorAckTimeout s fun d => d = s.dev) ∧
    (∀ id since o rest, s.dev.pair.mirrors = (id, since, o) :: rest → s.dev.Reaches (since + Dev.usCycles 1000) → s.dev.nat Reg.pairState = 2 →
      s.dev.dlinkUp 0 = false → Completes .mirrorAckTimeout s fun d =>
      d.pair.mirrors = rest ∧ d.nat Reg.pairState = 3 ∧ s.dev.KeepsRegs [Reg.pairState.key] d)

/-- TRACING_MESSAGE, TRACING_DEADLINE, AUDIT_CHECK_BLOCK and HEALTH_WORD. -/
def Obligations.PairTracing : Prop :=
  ∀ s : State, s.dev.answers = true → s.dev.lone = false →
    (∀ q b (own theirs : List Nat), s.dev.pair.partner = some q → nget? s.dev.pair.sigs (b * 4 + 2) = some own → own ≠ theirs →
      s.dev.nat Reg.pairState = 2 → s.dev.pair.audit = none → Completes (.tracingMessage 2 b false theirs) s fun d =>
        d.nat Reg.tracingMismatches = (s.dev.nat Reg.tracingMismatches + 1) % 2 ^ 32 ∧ d.nat Reg.lastMismatchBlock = 32 * b ∧
        d.nat Reg.agreeRun = 0 ∧ d.nat Reg.auditState = 1 ∧ (d.pair.audit.map (·.block)) = some b ∧ (d.pair.audit.map (·.point)) = some 2) ∧
    (∀ q b (own : List Nat), s.dev.pair.partner = some q → nget? s.dev.pair.sigs (b * 4 + 2) = some own → nget 0 s.dev.pair.agreed b < 2 →
      Completes (.tracingMessage 2 b false own) s fun d =>
        d.regs = s.dev.regs ∧ nget 0 d.pair.agreed b = nget 0 s.dev.pair.agreed b + 1 ∧ d.pair.gapRun = 0 ∧ d.pair.audit = s.dev.pair.audit) ∧
    (∀ q b (theirs : List Nat), s.dev.pair.partner = some q → nget? s.dev.pair.sigs (b * 4 + 2) = none →
      Completes (.tracingMessage 2 b false theirs) s fun d =>
        nget? d.pair.theirs (b * 4 + 2) = some theirs ∧ d.pair.gapRun = 0 ∧ d.regs = s.dev.regs) ∧
    (∀ q, s.dev.pair.partner = some q → s.dev.nat Reg.pairState = 2 → Completes .tracingDeadline s fun d =>
      d.nat Reg.tracingGaps = (s.dev.nat Reg.tracingGaps + 1) % 2 ^ 32 ∧ d.nat Reg.agreeRun = 0 ∧ d.pair.gapRun = s.dev.pair.gapRun + 1 ∧
      s.dev.KeepsRegs [Reg.tracingGaps.key, Reg.agreeRun.key] d) ∧
    (s.dev.pair.audit = none → ∀ x y z disputed, Completes (.auditCheckBlock x y z disputed) s fun d => d = s.dev) ∧
    (∀ a (disputed : List Nat), s.dev.pair.audit = some a → s.dev.pair.faults.contains a.block = true → s.dev.nat Reg.pairState = 2 →
      s.dev.pair.waiting = false → Completes (.auditCheckBlock false false false disputed) s fun d =>
        d.nat Reg.auditLast / 2 ^ 24 = 1 ∧ d.nat Reg.auditState = 3 ∧ d.nat Reg.auditCount = (s.dev.nat Reg.auditCount + 1) % 2 ^ 32 ∧
        d.pair.audit = none ∧ s.dev.KeepsRegs [Reg.auditLast.key, Reg.auditState.key, Reg.auditCount.key] d) ∧
    (∀ w ready, s.dev.nat Reg.pairState = 2 ∨ s.dev.nat Reg.pairState = 3 ∨ s.dev.nat Reg.pairState = 4 → Completes (.healthWord w ready) s fun d =>
      d.nat Reg.partnerHealth = w % 2 ^ 32 ∧ d.nat Reg.pairState = (if w.testBit 0 then 2 else 3) ∧
      s.dev.KeepsRegs [Reg.partnerHealth.key, Reg.pairState.key] d) ∧
    (∀ w, s.dev.nat Reg.pairState = 5 → Completes (.healthWord w true) s fun d =>
      d.nat Reg.partnerHealth = w % 2 ^ 32 ∧ s.dev.KeepsRegs [Reg.partnerHealth.key] d)

/-- CATCHUP_HISTORY_DONE, CATCHUP_SEEDING_DONE and CATCHUP_LIMIT. -/
def Obligations.CatchingUp : Prop :=
  ∀ s : State, s.dev.answers = true → s.dev.nat Reg.pairState = 5 →
    (s.dev.nat Reg.catchupStage = 2 → s.dev.pair.stageAt + s.dev.nat Reg.historyHorizon ≤ s.dev.msc → Completes .catchupHistoryDone s fun d =>
      d.nat Reg.catchupStage = 3 ∧ d.pair = { s.dev.pair with stageAt := s.dev.msc } ∧ s.dev.KeepsRegs [Reg.catchupStage.key] d) ∧
    (s.dev.nat Reg.catchupStage = 2 → s.dev.msc < s.dev.pair.stageAt + s.dev.nat Reg.historyHorizon → Completes .catchupHistoryDone s fun d => d = s.dev) ∧
    (s.dev.nat Reg.catchupStage = 3 → s.dev.pair.stageAt + 320 ≤ s.dev.msc → Completes .catchupSeedingDone s fun d =>
      d.nat Reg.catchupStage = 4 ∧ d.nat Reg.agreeRun = 0 ∧ d.pair = { s.dev.pair with stageAt := s.dev.msc } ∧
      s.dev.KeepsRegs [Reg.catchupStage.key, Reg.agreeRun.key] d) ∧
    (s.dev.nat Reg.catchupStage = 3 → s.dev.msc < s.dev.pair.stageAt + 320 → Completes .catchupSeedingDone s fun d => d = s.dev) ∧
    (2 ≤ s.dev.nat Reg.catchupStage → s.dev.Reaches (s.dev.pair.catchupAt + Dev.msCycles (s.dev.nat Reg.catchupLimit)) → Completes .catchupLimit s fun d =>
      d.nat Reg.catchupStage = 2 ∧ d.nat Reg.agreeRun = 0 ∧ d.nat Reg.pairState = 5 ∧ d.pair.catchupAt = d.clock ∧
      s.dev.KeepsRegs [Reg.catchupStage.key, Reg.agreeRun.key] d) ∧
    (s.dev.nat Reg.catchupStage = 1 → s.dev.Reaches (s.dev.pair.catchupAt + Dev.msCycles (s.dev.nat Reg.catchupLimit)) → Completes .catchupLimit s fun d =>
      d.nat Reg.catchupStage = 1 ∧ d.nat Reg.agreeRun = 0 ∧ d.pair.catchupAt = d.clock ∧ s.dev.KeepsRegs [Reg.catchupStage.key, Reg.agreeRun.key] d)

/-- JACK_DETECT_CHANGE, MIC_BIAS_MEASURE, HEADSET_RECLASSIFY and HEADSET_BUTTON (R366, R367). -/
def Obligations.HeadsetPlug : Prop :=
  ∀ s : State, s.dev.answers = true →
    (s.dev.headset.plugged = false → Completes (.jackDetectChange true) s fun d =>
      d = { s.dev with headset := { s.dev.headset with plugged := true, jackSince := s.dev.clock, measured := false } }) ∧
    (s.dev.headset.plugged = true → Completes (.jackDetectChange false) s fun d =>
      d.headset.plugged = false ∧ d.nat Reg.headsetType = 0 ∧ d.flag Reg.headsetButton = false ∧
      (s.dev.nat Reg.headsetType ≠ 0 → d.flag Reg.headsetMicOpen = false) ∧
      s.dev.KeepsRegs [Reg.headsetType.key, Reg.headsetButton.key, Reg.headsetMicOpen.key] d) ∧
    (∀ uV, s.dev.headset.plugged = true → s.dev.headset.measured = false → s.dev.Reaches (s.dev.headset.jackSince + Dev.msCycles 100) →
      Completes (.micBiasMeasure uV) s fun d =>
        d.headset.measured = true ∧ d.headset.plugged = true ∧ d.nat Reg.headsetType = (if uV < 250000 then 1 else 2) ∧
        s.dev.KeepsRegs [Reg.headsetType.key, Reg.headsetMicOpen.key] d) ∧
    (s.dev.nat Reg.headsetType = 1 → Completes .headsetReclassify s fun d =>
      d.nat Reg.headsetType = 2 ∧ s.dev.KeepsRegs [Reg.headsetType.key, Reg.headsetMicOpen.key] d ∧ d.headset.plugged = s.dev.headset.plugged) ∧
    (∀ inserted, s.dev.headset.plugged = inserted → Completes (.jackDetectChange inserted) s fun d => d = s.dev) ∧
    (∀ uV, s.dev.headset.plugged = false ∨ s.dev.headset.measured = true → Completes (.micBiasMeasure uV) s fun d => d = s.dev) ∧
    (s.dev.nat Reg.headsetType ≠ 1 → Completes .headsetReclassify s fun d => d = s.dev) ∧
    (∀ pressed, s.dev.nat Reg.headsetType ≠ 2 ∨ s.dev.flag Reg.headsetButton = pressed → Completes (.headsetButton pressed) s fun d => d = s.dev) ∧
    (∀ pressed, s.dev.nat Reg.headsetType = 2 → s.dev.flag Reg.headsetButton ≠ pressed →
      Completes (.headsetButton pressed) s fun d =>
        d.flag Reg.headsetButton = pressed ∧
        d.flag Reg.headsetMicOpen = (match s.dev.nat Reg.headsetButtonMode with
          | 0 => true
          | 1 => pressed
          | 2 => if pressed then !s.dev.headset.toggle else s.dev.headset.toggle
          | _ => s.dev.headset.toggle) ∧
        s.dev.KeepsRegs [Reg.headsetButton.key, Reg.headsetMicOpen.key] d)

/-- TDM_FRAME_START and TDM_FSYNC_LOSS (R356, R244, R364). -/
def Obligations.TdmFrames : Prop :=
  ∀ s : State, s.dev.answers = true → ∀ p, p < 4 →
    (∀ words bclks cycle, s.dev.nat Reg.tdmSlots p = 0 → Completes (.tdmFrameStart p words bclks cycle) s fun d => d = s.dev) ∧
    (∀ words bclks cycle, s.dev.nat Reg.tdmSlots p ≠ 0 → s.dev.nat Reg.tdmRole p ≠ 0 → Completes (.tdmFrameStart p words bclks cycle) s fun d =>
      d.nat Reg.tdmState p = 2 ∧ d.nat Reg.tdmRxMaskActive p = s.dev.nat Reg.tdmRxMaskPending p ∧
      d.nat Reg.tdmTxMaskActive p = s.dev.nat Reg.tdmTxMaskPending p ∧
      d.nat Reg.tdmFrameCount p = (if (s.dev.tdmPort p).started then (s.dev.tdmPort p).frame + 1 else 0) ∧
      d.nat Reg.tdmFrameErrors p = (if (s.dev.tdmPort p).started = true ∧ bclks < s.dev.nat Reg.tdmSlots p * s.dev.nat Reg.tdmSlotBits p
        then (s.dev.nat Reg.tdmFrameErrors p + 1) % 2 ^ 32 else s.dev.nat Reg.tdmFrameErrors p) ∧ ∀ q, q ≠ p → d.tdmPort q = s.dev.tdmPort q) ∧
    (∀ words bclks cycle c, s.dev.nat Reg.tdmSlots p ≠ 0 → s.dev.nat Reg.tdmRole p = 0 →
      c = max (s.dev.masterFrame p (s.dev.msc * s.dev.coreTick)) (if (s.dev.tdmPort p).started then (s.dev.tdmPort p).frame + 1 else 0) →
      (s.dev.alm.aligned = true → s.dev.masterStart p c < s.dev.msc * s.dev.coreTick + s.dev.coreTick → Completes (.tdmFrameStart p words bclks cycle) s fun d =>
        d.nat Reg.tdmState p = 2 ∧ d.nat Reg.tdmRxMaskActive p = s.dev.nat Reg.tdmRxMaskPending p ∧
        d.nat Reg.tdmTxMaskActive p = s.dev.nat Reg.tdmTxMaskPending p ∧ d.nat Reg.tdmFrameCount p = c ∧ (d.tdmPort p).frame = c ∧
        ∀ q, q ≠ p → d.tdmPort q = s.dev.tdmPort q) ∧
      (s.dev.alm.aligned = false ∨ s.dev.msc * s.dev.coreTick + s.dev.coreTick ≤ s.dev.masterStart p c →
        Completes (.tdmFrameStart p words bclks cycle) s fun d => d = s.dev)) ∧
    (s.dev.nat Reg.tdmRole p = 0 → Completes (.tdmFsyncLoss p) s fun d => d = s.dev) ∧
    (s.dev.nat Reg.tdmRole p ≠ 0 → s.dev.Reaches (s.dev.tdmLossDue p) → Completes (.tdmFsyncLoss p) s fun d =>
      (d.tdmPort p).started = false ∧ ((s.dev.tdmPort p).started = true → d.nat Reg.tdmState p = 3) ∧
      (∀ c x, s.dev.pool.chans = [(c, x)] → x.mode = 3 → x.tracker.state ≠ 4 → s.dev.nat Reg.convSourceKind c = 2 → s.dev.nat Reg.convSourceIndex c = p →
        (d.conv c).tracker.state = 4 ∧ d.nat Reg.convLosses c = (s.dev.nat Reg.convLosses c + 1) % 2 ^ 32) ∧
      ∀ q, q ≠ p → d.tdmPort q = s.dev.tdmPort q)

/-- RECORDER_TRIGGER and RECORDER_POST_TRIGGER_END (R374, R375, R377). -/
def Obligations.RecorderTriggers : Prop :=
  ∀ s : State, s.dev.answers = true →
    (∀ bit, bit = 0 ∨ bit = 1 ∨ bit = 15 ∨ (bit < 5 ∧ (s.dev.nat Reg.recorderTriggerMask).testBit bit = true) →
      (s.dev.nat Reg.recorderState = 1 → Completes (.recorderTrigger bit) s fun d =>
        d.nat Reg.recorderState = 2 ∧ d.nat Reg.recorderTriggerDate = s.dev.mscNow ∧ d.nat Reg.recorderTriggerCause = 2 ^ bit ∧
        s.dev.KeepsRegs [Reg.recorderState.key, Reg.recorderTriggerDate.key, Reg.recorderTriggerCause.key] d) ∧
      (2 ≤ s.dev.nat Reg.recorderState → Completes (.recorderTrigger bit) s fun d =>
        d.nat Reg.recorderTriggersMissed = (s.dev.nat Reg.recorderTriggersMissed + 1) % 2 ^ 32 ∧
        s.dev.KeepsRegs [Reg.recorderTriggersMissed.key] d)) ∧
    (∀ bit, 2 ≤ bit → bit ≠ 15 → (s.dev.nat Reg.recorderTriggerMask).testBit bit = false → Completes (.recorderTrigger bit) s fun d => d = s.dev) ∧
    (∀ bit, s.dev.nat Reg.recorderState = 0 → Completes (.recorderTrigger bit) s fun d => d = s.dev) ∧
    (s.dev.nat Reg.recorderState = 2 → s.dev.recLast < s.dev.mscNow → Completes .recorderPostTriggerEnd s fun d =>
      d.nat Reg.recorderState = 3 ∧
      d.nat Reg.recorderOldest = max s.dev.recd.startTick (s.dev.nat Reg.recorderNewest + 1 - s.dev.recSamples) ∧
      s.dev.KeepsRegs [Reg.recorderState.key, Reg.recorderOldest.key, Reg.recorderFrozenSources.key] d) ∧
    (s.dev.nat Reg.recorderState ≠ 2 ∨ s.dev.mscNow ≤ s.dev.recLast → Completes .recorderPostTriggerEnd s fun d => d = s.dev)

/-- SFP_POLL, SFP_IDENTIFY, LINK_CANDIDATE_TIMEOUT, LINK_UP, LINK_DOWN, LINK_RETRY_CYCLE and PHY_AUTONEGOTIATION. -/
def Obligations.PortBringUp : Prop :=
  ∀ s : State, s.dev.answers = true → ∀ p, p < 4 →
    (s.dev.Reaches (s.dev.timerFrom (0x3000 + p) + Dev.msCycles 250) → ∀ a2 recoveries,
      ((s.dev.port p).answers = false → Completes (.sfpPoll p ⟨some true, a2, recoveries⟩) s fun d =>
        d.nat Reg.sfpState p = 1 ∧ (d.port p).answers = true ∧ (d.port p).answeredAt = d.clock ∧
        s.dev.KeepsRegs [Reg.sfpState.key p, Reg.i2cRecoveries.key] d) ∧
      ((s.dev.port p).answers = true → 2 ≤ s.dev.nat Reg.sfpState p → 106 ≤ a2.length → Completes (.sfpPoll p ⟨some true, a2, recoveries⟩) s fun d =>
        d.int Reg.sfpTemperature p = beAtS a2 96 2 ∧ d.nat Reg.sfpRxPower p = beAt a2 104 2 ∧ d.ports = s.dev.ports ∧
        s.dev.KeepsRegs [Reg.sfpTemperature.key p, Reg.sfpRxPower.key p, Reg.i2cRecoveries.key] d) ∧
      ((s.dev.port p).answers = true → Completes (.sfpPoll p ⟨some false, a2, recoveries⟩) s fun d =>
        d.nat Reg.sfpState p = 0 ∧ d.nat Reg.linkState p = 0 ∧ d.nat Reg.linkSpeed p = 0 ∧ (d.port p).answers = false) ∧
      Completes (.sfpPoll p ⟨none, a2, recoveries⟩) s fun d => d.ports = s.dev.ports ∧ s.dev.KeepsRegs [Reg.i2cRecoveries.key] d) ∧
    (∀ a0 a2, (s.dev.port p).answers = true → s.dev.nat Reg.sfpState p = 1 → s.dev.Reaches ((s.dev.port p).answeredAt + Dev.msCycles 300) →
      Completes (.sfpIdentify p a0 a2) s fun d =>
        d.nat Reg.sfpState p = (if s.dev.nat Reg.speedMode p ≠ 0 ∨ 9500 ≤ Dev.sfpRate a0 then 2 else 3) ∧
        d.nat Reg.sfpNominalRate p = Dev.sfpRate a0 ∧ d.bytes Reg.sfpIdent p = (a0.drop 20).take 16 ++ (a0.drop 40).take 16) ∧
    (s.dev.nat Reg.linkState p = 1 → s.dev.Reaches ((s.dev.port p).candAt + Dev.msCycles 250) →
      ((s.dev.candidates p).length ≤ (s.dev.port p).tried → Completes (.linkCandidateTimeout p) s fun d =>
        d.nat Reg.linkState p = 3 ∧ d.nat Reg.linkSpeed p = 0 ∧ d.nat Reg.fecInUse p = 0 ∧
        d.nat Reg.portCounter p 0x2F = add32 (s.dev.nat Reg.portCounter p 0x2F) 1) ∧
      ((s.dev.port p).tried < (s.dev.candidates p).length → Completes (.linkCandidateTimeout p) s fun d =>
        d.nat Reg.linkState p = 1 ∧ (d.port p).tried = (s.dev.port p).tried + 1 ∧ (d.port p).cand ∈ s.dev.candidates p ∧ d.regs = s.dev.regs)) ∧
    (∀ eye, s.dev.nat Reg.linkState p = 1 → s.dev.Reaches ((s.dev.port p).candAt + Dev.msCycles 10) → Completes (.linkUp ⟨p, eye⟩) s fun d =>
      d.nat Reg.linkState p = 2 ∧ d.nat Reg.linkSpeed p = (candidateOf (s.dev.port p).cand).1 ∧
      d.nat Reg.fecInUse p = (candidateOf (s.dev.port p).cand).2 ∧ (d.port p).lastGood = (s.dev.port p).cand) ∧
    (s.dev.nat Reg.linkState p = 2 → s.dev.nat Reg.sfpState p ≠ 2 ∨ s.dev.flag Reg.portEnable p = false → Completes (.linkDown p) s fun d =>
      d.nat Reg.linkState p = 0 ∧ d.nat Reg.linkSpeed p = 0 ∧ d.nat Reg.fecInUse p = 0 ∧ (d.port p).sending = none ∧
      d.nat Reg.portCounter p 0x2E = add32 (s.dev.nat Reg.portCounter p 0x2E) 1) ∧
    (s.dev.nat Reg.linkState p = 2 → s.dev.nat Reg.sfpState p = 2 → s.dev.flag Reg.portEnable p = true →
      (s.dev.port p).lastGood ∈ s.dev.candidates p → Completes (.linkDown p) s fun d =>
        d.nat Reg.linkState p = 1 ∧ (d.port p).cand = (s.dev.port p).lastGood) ∧
    (∀ c l, s.dev.nat Reg.linkState p = 3 → s.dev.nat Reg.sfpState p = 2 → s.dev.candidates p = c :: l →
      s.dev.Reaches ((s.dev.port p).candAt + Dev.secCycles 2) → Completes (.linkRetryCycle p) s fun d =>
        d.nat Reg.linkState p = 1 ∧ (d.port p).cand = c ∧ (d.port p).tried = 1) ∧
    (∀ speed eee, speed = 10 ∨ speed = 100 ∨ speed = 1000 → s.dev.flag Reg.portEnable 4 = true → Completes (.phyAutonegotiation true speed eee) s fun d =>
      d.nat Reg.linkSpeed 4 = (if s.dev.inForce Reg.mgmtInterface = 1 then 1000 else speed) ∧ d.nat Reg.linkState 4 = 2 ∧
      (d.port 4).phyEee = eee) ∧
    (∀ speed eee, s.dev.nat Reg.linkState 4 = 2 → Completes (.phyAutonegotiation false speed eee) s fun d =>
      d.nat Reg.linkState 4 = 0 ∧ d.nat Reg.linkSpeed 4 = 0) ∧
    (∀ speed eee, s.dev.nat Reg.linkState 4 ≠ 2 → Completes (.phyAutonegotiation false speed eee) s fun d => d = s.dev)

/-- FRAME_RECEIVE and RX_DESCRIPTOR_POST. -/
def Obligations.FrameReception : Prop :=
  ∀ s : State, s.dev.answers = true →
    (∀ p w cond fixed bad frac, s.dev.nat Reg.linkState p ≠ 2 → Completes (.frameReceive p w cond fixed bad frac) s fun d => d = s.dev) ∧
    (∀ p w cond frac, p < 5 → s.dev.nat Reg.linkState p = 2 →
      (w.length + 4 < 64 → Completes (.frameReceive p w cond 0 0 frac) s fun d =>
        d.nat Reg.portCounter p 6 = add32 (s.dev.nat Reg.portCounter p 6) 1 ∧ s.dev.KeepsRegs [Reg.portCounter.key p 6] d) ∧
      (64 ≤ w.length + 4 → s.dev.nat Reg.maxFrame p < w.length + 4 → Completes (.frameReceive p w cond 0 0 frac) s fun d =>
        d.nat Reg.portCounter p 7 = add32 (s.dev.nat Reg.portCounter p 7) 1 ∧ s.dev.KeepsRegs [Reg.portCounter.key p 7] d) ∧
      (64 ≤ w.length + 4 → w.length + 4 ≤ s.dev.nat Reg.maxFrame p → Completes (.frameReceive p w 1 0 0 frac) s fun d =>
        d.nat Reg.portCounter p 9 = add32 (s.dev.nat Reg.portCounter p 9) 1 ∧ s.dev.KeepsRegs [Reg.portCounter.key p 9] d) ∧
      (64 ≤ w.length + 4 → w.length + 4 ≤ s.dev.nat Reg.maxFrame p → Completes (.frameReceive p w 3 0 0 frac) s fun d =>
        d.nat Reg.portCounter p 0x1C = add32 (s.dev.nat Reg.portCounter p 0x1C) 1 ∧ s.dev.KeepsRegs [Reg.portCounter.key p 0x1C] d)) ∧
    (∀ p w frac x rest, p < 4 → s.dev.nat Reg.linkState p = 2 → 64 ≤ w.length + 4 → w.length + 4 ≤ s.dev.nat Reg.maxFrame p →
      s.dev.nat Reg.macsecMode p = 0 → (parseFrame w).ethType = 0x888E → s.dev.perturb.rings = [] →
      (s.dev.rxRing 4).owned = x :: rest → w.length ≤ x.len → x.len % 64 = 0 → ringBuffer x.addr x.len = true →
      Completes (.frameReceive p w 0 0 0 frac) s fun d =>
        (d.rxRing 4).owned = rest ∧ (d.rxRing 4).done.map (·.data) = (s.dev.rxRing 4).done.map (·.data) ++ [w] ∧
        d.nat Reg.rxRingFree 4 = rest.length ∧ d.nat Reg.rxRingFrames 4 = (s.dev.nat Reg.rxRingFrames 4 + 1) % 2 ^ 32 ∧
        d.nat Reg.portCounter p 1 = add32 (s.dev.nat Reg.portCounter p 1) 1 ∧
        d.nat Reg.portCounter p 0x1B = add32 (s.dev.nat Reg.portCounter p 0x1B) 1) ∧
    (∀ k addr len, 16 ≤ k ∨ (8 ≤ k ∧ k < 12) → Completes (.rxDescriptorPost k addr len) s fun d => d = s.dev) ∧
    (∀ k addr len, s.dev.inForce Reg.rxRingLength k ≤ (s.dev.rxRing k).owned.length → Completes (.rxDescriptorPost k addr len) s fun d => d = s.dev) ∧
    (∀ k addr len, k < 8 ∨ (12 ≤ k ∧ k < 16) →
      (s.dev.rxRing k).owned.length < s.dev.inForce Reg.rxRingLength k → Completes (.rxDescriptorPost k addr len) s fun d =>
        (d.rxRing k).owned.map (fun x => (x.addr, x.len)) = (s.dev.rxRing k).owned.map (fun x => (x.addr, x.len)) ++ [(addr, len)] ∧
        d.nat Reg.rxRingFree k = (s.dev.rxRing k).owned.length + 1)

/-- TX_FRAME_START, TX_FRAME_COMPLETE, TS_QUEUE_STATUS_READ and TS_QUEUE_ENTRY_READ. -/
def Obligations.FrameTransmission : Prop :=
  ∀ s : State, s.dev.answers = true → ∀ p, p < 5 →
    (∀ x : TxDesc, (s.dev.port p).sending = none → (s.dev.port p).control = [] → (s.dev.port p).heldUntil = none → (s.dev.port p).lpi = false →
      (s.dev.port p).wakeAt ≤ s.dev.clock → s.dev.nat Reg.linkState p = 2 → s.dev.nat Reg.macsecMode p = 0 → (s.dev.txRing 5).posted = [x] →
      (s.dev.txRing 5).busy = [] → x.buf.first = true → x.buf.last = true → x.buf.port = p → x.buf.stampRequest = false → x.buf.oneStep = false →
      x.buf.uncontrolled = false → ringBuffer x.buf.addr x.buf.data.length = true → 60 ≤ x.buf.data.length →
      x.buf.data.length ≤ 16383 → x.buf.data.length + 4 ≤ s.dev.nat Reg.maxFrame p →
      Completes (.txFrameStart p []) s fun d =>
        d.out = .frame p (x.buf.data.take 6 ++ toBE 6 (s.dev.nat Reg.macAddress p) ++ x.buf.data.drop 12) :: s.dev.out ∧
        (d.port p).sending.map (·.descs) = some [x] ∧ (d.txRing 5).posted = [] ∧ (d.txRing 5).busy = [x] ∧ d.nat Reg.txRingPending 5 = 1 ∧
        s.dev.KeepsRegs [Reg.txRingPending.key 5] d) ∧
    (∀ f k, (s.dev.port p).sending = some f → f.ring = some k → f.bad = false → k < 8 → Completes (.txFrameComplete p false) s fun d =>
      (d.port p).sending = none ∧ d.nat Reg.txRingFrames k = (s.dev.nat Reg.txRingFrames k + 1) % 2 ^ 32 ∧
      (d.txRing k).busy = [] ∧ (d.txRing k).done = (s.dev.txRing k).done ++ f.descs.map (fun x => { x with status := 0 })) ∧
    (∀ f k, (s.dev.port p).sending = some f → f.ring = some k → k < 8 → Completes (.txFrameComplete p true) s fun d =>
      (d.port p).sending = none ∧ d.nat Reg.txRingErrors k = (s.dev.nat Reg.txRingErrors k + 1) % 2 ^ 32 ∧
      (d.txRing k).busy = [] ∧ (d.txRing k).done = (s.dev.txRing k).done ++ f.descs.map (fun x => { x with status := 4 }) ∧
      d.nat Reg.portCounter p 0x2C = add32 (s.dev.nat Reg.portCounter p 0x2C) 1) ∧
    (∀ underrun, (s.dev.port p).sending = none → Completes (.txFrameComplete p underrun) s fun d => d = s.dev) ∧
    ((s.dev.port p).tsQueue = [] → Completes (.tsQueueStatusRead p) s fun d =>
      d.fwRead = 32 * b2n (s.dev.port p).tsOverflow ∧ (d.port p).tsOverflow = false ∧ d.regs = s.dev.regs) ∧
    ((s.dev.port p).tsQueue ≠ [] → Completes (.tsQueueStatusRead p) s fun d =>
      d = { s.dev with fwRead := (s.dev.port p).tsQueue.length + 32 * b2n (s.dev.port p).tsOverflow }) ∧
    (∀ e t, (s.dev.port p).tsQueue = e :: t → Completes (.tsQueueEntryRead p) s fun d => (d.port p).tsQueue = t ∧ d.fwRead = Dev.tsWord e) ∧
    ((s.dev.port p).tsQueue = [] → Completes (.tsQueueEntryRead p) s fun d => d = { s.dev with fwRead := 0 })

/-- PAUSE_RECEIVED, PAUSE_TIME_EXPIRY, PAUSE_REPEAT, PAUSE_SEND_LIMIT, PAUSE_HONOUR_LIMIT, PAUSE_IGNORE_END and EEE_LPI_ENTRY. -/
def Obligations.PauseAndIdle : Prop :=
  ∀ s : State, s.dev.answers = true →
    (∀ p quanta, p < 4 → Completes (.pauseReceived p quanta) s fun d =>
      d.nat Reg.portCounter p 0x0C = add32 (s.dev.nat Reg.portCounter p 0x0C) 1 ∧
      d.nat Reg.portCounter p 0x0D = add32 (s.dev.nat Reg.portCounter p 0x0D) 1 ∧ d.ports = s.dev.ports ∧
      s.dev.KeepsRegs [Reg.portCounter.key p 0x0C, Reg.portCounter.key p 0x0D] d) ∧
    (∀ quanta, (s.dev.port 4).ignoreUntil ≠ none → Completes (.pauseReceived 4 quanta) s fun d =>
      d.nat Reg.portCounter 4 0x0D = add32 (s.dev.nat Reg.portCounter 4 0x0D) 1 ∧ d.ports = s.dev.ports ∧
      s.dev.KeepsRegs [Reg.portCounter.key 4 0x0C, Reg.portCounter.key 4 0x0D] d) ∧
    (∀ quanta, (s.dev.port 4).ignoreUntil = none → s.dev.nat Reg.mgmtPauseMode = 0 → Completes (.pauseReceived 4 quanta) s fun d =>
      d.nat Reg.portCounter 4 0x0C = add32 (s.dev.nat Reg.portCounter 4 0x0C) 1 ∧ d.ports = s.dev.ports ∧
      s.dev.KeepsRegs [Reg.portCounter.key 4 0x0C] d) ∧
    (∀ quanta, quanta ≠ 0 → (s.dev.port 4).ignoreUntil = none → s.dev.nat Reg.mgmtPauseMode ≠ 0 → Completes (.pauseReceived 4 quanta) s fun d =>
      (d.port 4).heldUntil = some (s.dev.clock + s.dev.quantumCycles quanta) ∧ s.dev.KeepsRegs [Reg.portCounter.key 4 0x0C] d) ∧
    ((s.dev.port 4).ignoreUntil = none → s.dev.nat Reg.mgmtPauseMode ≠ 0 → Completes (.pauseReceived 4 0) s fun d =>
      (d.port 4).heldUntil = none ∧ s.dev.KeepsRegs [Reg.portCounter.key 4 0x0C, Reg.portCounter.key 4 0x26] d) ∧
    (∀ t, (s.dev.port 4).heldUntil = some t → s.dev.Reaches t → Completes .pauseTimeExpiry s fun d =>
      (d.port 4).heldUntil = none ∧ s.dev.KeepsRegs [Reg.portCounter.key 4 0x26] d) ∧
    ((s.dev.port 4).pausing.isSome = true → s.dev.nat Reg.mgmtPauseMode = 2 → s.dev.nat Reg.linkState 4 = 2 →
      s.dev.Reaches ((s.dev.port 4).pauseSentAt + s.dev.quantumCycles 0xFFFF / 2) → Completes .pauseRepeat s fun d =>
        (d.port 4).control = (s.dev.port 4).control ++ [s.dev.pauseFrame 0xFFFF] ∧ (d.port 4).pauseSentAt = d.clock ∧
        d.nat Reg.portCounter 4 0x25 = add32 (s.dev.nat Reg.portCounter 4 0x25) 1 ∧ s.dev.KeepsRegs [Reg.portCounter.key 4 0x25] d) ∧
    (∀ t, (s.dev.port 4).pausing = some t → s.dev.Reaches (t + Dev.usCycles (s.dev.nat Reg.pauseSendLimit)) → Completes .pauseSendLimit s fun d =>
      (d.port 4).pausing = none ∧ (d.port 4).pauseStopped = true ∧ (d.port 4).control = (s.dev.port 4).control ++ [s.dev.pauseFrame 0] ∧
      s.dev.KeepsRegs [Reg.portCounter.key 4 0x25] d) ∧
    (∀ t, (s.dev.port 4).heldUntil = some t → (s.dev.port 4).heldSince + Dev.usCycles (s.dev.nat Reg.pauseHonourLimit) ≤ t →
      s.dev.Reaches ((s.dev.port 4).heldSince + Dev.usCycles (s.dev.nat Reg.pauseHonourLimit)) → Completes .pauseHonourLimit s fun d =>
        (d.port 4).heldUntil = none ∧ (d.port 4).ignoreUntil = some (d.clock + Dev.secCycles 10) ∧
        s.dev.KeepsRegs [Reg.portCounter.key 4 0x26] d) ∧
    (∀ t, (s.dev.port 4).ignoreUntil = some t → s.dev.Reaches t → Completes .pauseIgnoreEnd s fun d =>
      (d.port 4).ignoreUntil = none ∧ d.regs = s.dev.regs) ∧
    (s.dev.flag Reg.mgmtEeeEnable = true → (s.dev.port 4).phyEee = true → s.dev.nat Reg.linkState 4 = 2 → (s.dev.port 4).sending = none →
      (s.dev.port 4).control = [] → s.dev.nextRing 4 = none → (s.dev.port 4).lpi = false →
      s.dev.Reaches ((s.dev.port 4).idleSince + Dev.usCycles (s.dev.nat Reg.mgmtEeeIdle)) → Completes .eeeLpiEntry s fun d =>
        (d.port 4).lpi = true ∧ d.nat Reg.portCounter 4 0x2B = add32 (s.dev.nat Reg.portCounter 4 0x2B) 1 ∧
        s.dev.KeepsRegs [Reg.portCounter.key 4 0x2B] d)

/-- MKA_SECURED, RX_FLOW_TIMEOUT, RX_PATH_TIMEOUT and IGMP_REPORT_TIMER; MacsecState 3 is a DESIGN CHOICE (log entry 76). -/
def Obligations.PortTimers : Prop :=
  ∀ s : State, s.dev.answers = true →
    (∀ p an rxKey txKey peer own, p < 4 → s.dev.nat Reg.macsecMode p ≠ 0 → s.dev.nat Reg.linkState p = 2 →
      (nget [] s.dev.sec.keys (Reg.macsecCak.key p) ≠ [] → s.dev.bytes Reg.macsecCkn p ≠ [] →
        Completes (.mkaSecured p an rxKey txKey peer own) s fun d =>
          d.nat Reg.macsecState p = 2 ∧ d.nat Reg.macsecTxAn p = an % 4 ∧ d.nat Reg.macsecTxPn p = 1 ∧ d.nat Reg.macsecPeerSci p = peer ∧
          (d.port p).secured = true ∧
          s.dev.KeepsRegs [Reg.macsecState.key p, Reg.macsecTxAn.key p, Reg.macsecTxPn.key p, Reg.macsecPeerSci.key p] d) ∧
      (nget [] s.dev.sec.keys (Reg.macsecCak.key p) = [] ∨ s.dev.bytes Reg.macsecCkn p = [] → (s.dev.port p).secured = false →
        Completes (.mkaSecured p an rxKey txKey peer own) s fun d =>
          d.nat Reg.macsecState p = 3 ∧ d.ports = s.dev.ports ∧ s.dev.KeepsRegs [Reg.macsecState.key p] d)) ∧
    (∀ f, f < 1024 → s.dev.nat Reg.rxState f = 2 → s.dev.nat Reg.rxSecondPort f ≠ 0xFF →
      s.dev.Reaches ((s.dev.rxFlow f).lastAt + Dev.msCycles (s.dev.nat Reg.rxTimeout)) → s.dev.nat Reg.recorderState = 0 →
      Completes (.rxFlowTimeout f) s fun d => d.nat Reg.rxState f = 3 ∧ s.dev.KeepsRegs [Reg.rxState.key f] d) ∧
    (∀ f, f < 1024 → s.dev.nat Reg.rxState f = 2 → s.dev.nat Reg.rxSecondPort f = 0xFF →
      s.dev.Reaches ((s.dev.rxFlow f).lastAt + Dev.msCycles (s.dev.nat Reg.rxTimeout)) → s.dev.nat Reg.recorderState = 0 →
      Completes (.rxFlowTimeout f) s fun d => d.nat Reg.rxState f = 3 ∧ d.nat Reg.rxPathState f = 0 ∧
        s.dev.KeepsRegs [Reg.rxState.key f, Reg.rxPathState.key f] d) ∧
    (∀ f i t, f < 1024 → i < 2 → (s.dev.rxFlow f).paths.getD i none = some t → s.dev.nat Reg.rxSecondPort f ≠ 0xFF →
      s.dev.Reaches (t + Dev.msCycles (s.dev.nat Reg.rxTimeout)) → Completes (.rxPathTimeout f i) s fun d =>
        (d.nat Reg.rxPathState f).testBit i = false ∧ s.dev.KeepsRegs [Reg.rxPathState.key f] d) ∧
    (∀ p group m r, p < 5 → (s.dev.port p).members.find? (fun m => m.group == group && m.reportDue.isSome) = some m → m.again = [r] →
      (s.dev.port p).oldQueriers = (0, 0) → s.dev.Reaches (m.reportDue.getD 0) → Completes (.igmpReportTimer p group) s fun d =>
        d.out = .igmp p m.group r.2 r.1 :: s.dev.out ∧ (d.port p).members.find? (fun m => m.group == group && m.reportDue.isSome) = none ∧
        d.regs = s.dev.regs)

/-- SN_ANCHOR, MSC_ALIGN, ALIGN_TIMEOUT, SAVED_TIME_WRITE and CLOCK_MONITOR_INTERVAL. -/
def Obligations.TimeAlignment : Prop :=
  ∀ s : State, s.dev.answers = true →
    (s.dev.alm.snMode = true → s.dev.Reaches (s.dev.timerFrom 0x3800 + 1048576) → Completes .snAnchor s fun d =>
      d.alm.records = ((d.frc, d.almNow, d.alm.inc) :: s.dev.alm.records).take 64 ∧ d.alm.snMode = true ∧ d.regs = s.dev.regs) ∧
    (s.dev.alignOpen = true → s.dev.mayAlign = true → Completes .mscAlign s fun d =>
      d.alm.aligned = true ∧ d.alm.snMode = (s.dev.alm.snMode && s.dev.flag Reg.timeTestMode) ∧ d.msc = s.dev.alignBoundary ∧ d.msc % 32 = 0 ∧ d.tickAt = d.clock ∧
      d.power.state = .ready ∧ d.flag Reg.mscAligned = true) ∧
    (s.dev.alignOpen = false ∨ s.dev.mayAlign = false → Completes .mscAlign s fun d => d = s.dev) ∧
    (s.dev.alignOpen = false → Completes .alignTimeout s fun d => d = s.dev) ∧
    (s.dev.alm.snMode = false → s.dev.Reaches (s.dev.timerFrom 0x3800 + 1048576) → Completes .snAnchor s fun d =>
      d.alm.records = s.dev.alm.records ∧ d.regs = s.dev.regs) ∧
    (s.dev.alignOpen = true → Completes .alignTimeout s fun d =>
      d.alm.aligned = true ∧ d.alm.snMode = (s.dev.alm.snMode && s.dev.flag Reg.timeTestMode) ∧ d.msc % 32 = 0 ∧ d.power.state = .ready ∧ d.flag Reg.mscAligned = true) ∧
    (s.dev.alm.aligned = true → s.dev.Reaches (s.dev.timerFrom 0x380D + Dev.secCycles 1) → Completes .savedTimeWrite s fun d =>
      d.nat Reg.savedTime = d.seconds ∧ s.dev.KeepsRegs [Reg.savedTime.key] d) ∧
    (∀ ppm : Int, ppm.natAbs ≤ 150 → s.dev.perturb.clockTrip = false → Completes (.clockMonitorInterval ppm) s fun d => d = s.dev) ∧
    (∀ ppm : Int, 150 < ppm.natAbs → s.dev.perturb.clockTrip = false → s.dev.power.state ≠ .fault → s.dev.power.state ≠ .boot →
      Completes (.clockMonitorInterval ppm) s fun d => d.power.state = .fault ∧ d.nat Reg.faultCause = 0x03000003) ∧
    (∀ ppm : Int, s.dev.perturb.clockTrip = true → s.dev.power.state ≠ .fault → s.dev.power.state ≠ .boot →
      Completes (.clockMonitorInterval ppm) s fun d =>
        d.power.state = .fault ∧ d.nat Reg.faultCause = 0x03000003 ∧ d.perturb.clockTrip = false)

/-- INPUT_EDGE, INPUT_LOSS, INPUT_QUALIFY, REVERT_HOLDOFF and ROOT_DPLL_LOCKED. -/
def Obligations.ClockInputs : Prop :=
  ∀ s : State, s.dev.answers = true → ∀ i, i < 4 →
    (∀ frac, s.dev.flag Reg.inputEnable i = false → Completes (.inputEdge i frac) s fun d => d = s.dev) ∧
    (∀ frac, s.dev.flag Reg.inputEnable i = true → (s.dev.input i).lost = true → Completes (.inputEdge i frac) s fun d =>
      (d.input i).lastEdge = some (s.dev.frc + frac % 16) ∧ (d.input i).lost = false ∧ (d.input i).qualified = false ∧
      d.nat Reg.inputState i = 2 ∧ s.dev.KeepsRegs [Reg.inputState.key i] d) ∧
    (∀ frac l m, s.dev.flag Reg.inputEnable i = true → (s.dev.input i).lost = false → (s.dev.input i).lastEdge = some l →
      m = max 1 ((2 * ((s.dev.frc + frac % 16 - l) * s.dev.inputRate i) + 786432000 * 16) / (2 * (786432000 * 16))) →
      3 * m * (786432000 * 16) < ((((s.dev.frc + frac % 16 - l) * s.dev.inputRate i : Nat) : Int) - (m * (786432000 * 16) : Nat)).natAbs * 100 →
      Completes (.inputEdge i frac) s fun d =>
        d.nat Reg.inputGlitches i = (s.dev.nat Reg.inputGlitches i + 1) % 2 ^ 32 ∧ (d.input i).lastEdge = some l ∧
        s.dev.KeepsRegs [Reg.inputGlitches.key i] d) ∧
    (∀ l, (s.dev.input i).lastEdge = some l → (s.dev.input i).lost = false → s.dev.flag Reg.inputEnable i = true →
      s.dev.Reaches (s.dev.frcBase + l / 16 + 206 * 786432000 / (100 * s.dev.inputRate i)) → Completes (.inputLoss i) s fun d =>
        (d.input i).lost = true ∧ (d.input i).qualified = false ∧ d.nat Reg.inputState i = 1 ∧
        d.nat Reg.inputLosses i = (s.dev.nat Reg.inputLosses i + 1) % 2 ^ 32) ∧
    (∀ want, s.dev.flag Reg.inputEnable i = true → (s.dev.input i).lost = false → (s.dev.input i).qualified = false →
      s.dev.Reaches ((s.dev.input i).since + Dev.msCycles (s.dev.nat Reg.qualifyTime i)) →
      want = s.dev.inputRate i * 1000 * (if i = 3 then 1000 else 1) →
      (((s.dev.nat Reg.inputMeasuredRate i : Nat) : Int) - (want : Nat)).natAbs * 10000 ≤ want → Completes (.inputQualify i) s fun d =>
        (d.input i).qualified = true ∧ d.nat Reg.inputState i = 3) ∧
    (∀ want, s.dev.flag Reg.inputEnable i = true → (s.dev.input i).lost = false → (s.dev.input i).qualified = false →
      s.dev.Reaches ((s.dev.input i).since + Dev.msCycles (s.dev.nat Reg.qualifyTime i)) →
      want = s.dev.inputRate i * 1000 * (if i = 3 then 1000 else 1) →
      want < (((s.dev.nat Reg.inputMeasuredRate i : Nat) : Int) - (want : Nat)).natAbs * 10000 → Completes (.inputQualify i) s fun d =>
        (d.input i).qualified = false ∧ s.dev.KeepsRegs [] d) ∧
    (∀ above c, s.dev.flag Reg.revertive = true →
      above = (s.dev.sourceRanks.takeWhile (· ≠ s.dev.nat Reg.selectedSource)).filter (fun x => s.dev.sourceOkNow x && (nget? s.dev.alm.qualifiedAt x).isSome) →
      (above.find? (fun x => decide (nget 0 s.dev.alm.qualifiedAt x + Dev.msCycles (s.dev.nat Reg.revertHoldoff) ≤ s.dev.clock)) = some c ∨
        ((∀ x ∈ above, s.dev.clock < nget 0 s.dev.alm.qualifiedAt x + Dev.msCycles (s.dev.nat Reg.revertHoldoff)) ∧ above.head? = some c ∧
          (∀ x ∈ above, nget 0 s.dev.alm.qualifiedAt c ≤ nget 0 s.dev.alm.qualifiedAt x) ∧
          s.dev.Reaches (nget 0 s.dev.alm.qualifiedAt c + Dev.msCycles (s.dev.nat Reg.revertHoldoff)))) →
      Completes .revertHoldoff s fun d =>
        d.nat Reg.selectedSource = c ∧ d.nat Reg.dpllState = 1 ∧ d.nat Reg.sourceSwitches = (s.dev.nat Reg.sourceSwitches + 1) % 2 ^ 32 ∧
        s.dev.KeepsRegs [Reg.selectedSource.key, Reg.dpllState.key, Reg.sourceSwitches.key] d) ∧
    (s.dev.flag Reg.revertive = false → Completes .revertHoldoff s fun d => d = s.dev) ∧
    (∀ ppb : Int, s.dev.nat Reg.dpllState ≠ 1 ∨ s.dev.nat Reg.selectedSource = 0 → Completes (.rootDpllLocked ppb) s fun d => d = s.dev) ∧
    (∀ ppb : Int, s.dev.nat Reg.dpllState = 1 → s.dev.nat Reg.selectedSource ≠ 0 → Completes (.rootDpllLocked ppb) s fun d =>
      d.nat Reg.dpllState = 2 ∧ d.int Reg.rootOffset = clampI (-100000) 100000 ppb ∧
      s.dev.KeepsRegs [Reg.dpllState.key, Reg.rootOffset.key] d)

/-- PTP_SYNC_RECEIVE, PTP_FOLLOW_UP_RECEIVE, PTP_DELAY_RESP_RECEIVE, PTP_ANNOUNCE_RECEIVE, PTP_SYNC_TIMEOUT and PTP_ANNOUNCE_TIMEOUT. -/
def Obligations.PtpFollower : Prop :=
  ∀ s : State, s.dev.answers = true →
    (∀ p src msg stamp, (parsePtp msg).kind = 0 → s.dev.fromLeader p (parsePtp msg) = true → s.dev.alm.leader = (parsePtp msg).source →
      (parsePtp msg).source ≠ [] → (parsePtp msg).twoStep = true → Completes (.ptpSyncReceive p src msg stamp) s fun d =>
        d.alm.twoStep = some ((parsePtp msg).seq, stamp, (parsePtp msg).correction) ∧ d.regs = s.dev.regs) ∧
    (∀ p src msg stamp (θ : Int), (parsePtp msg).kind = 0 → s.dev.fromLeader p (parsePtp msg) = true → s.dev.alm.leader = (parsePtp msg).source →
      (parsePtp msg).source ≠ [] → (parsePtp msg).twoStep = false → s.dev.alm.snMode = true → s.dev.flag Reg.timeTestMode = false →
      θ = s.dev.convert stamp - (parsePtp msg).stamp - (parsePtp msg).correction - s.dev.meanPath →
      ((θ.natAbs : Int) < 1000 * nsUnit → s.dev.nat Reg.ptpServoState = 2 → Completes (.ptpSyncReceive p src msg stamp) s fun d =>
        d.int Reg.ptpOffset = satS 32 (rsh 32 θ) ∧ d.alm.integ = s.dev.alm.integ + sd θ (64 * s.dev.syncCycles) ∧
        d.nat Reg.increment = ((incNominal : Int) + clampI (-incLimit) incLimit (d.alm.integ + sd θ (4 * s.dev.syncCycles))).toNat ∧
        s.dev.KeepsRegs [Reg.ptpOffset.key, Reg.increment.key] d) ∧
      (1000 * nsUnit ≤ (θ.natAbs : Int) → s.dev.nat Reg.ptpServoState = 1 → Completes (.ptpSyncReceive p src msg stamp) s fun d =>
        d.int Reg.ptpOffset = satS 32 (rsh 32 θ) ∧ d.alm.integ = 0 ∧ d.alm.paths = [] ∧ d.nat Reg.ptpMeanPathDelay = 0)) ∧
    (∀ p msg seq stamp corr (θ : Int), (parsePtp msg).kind = 8 → s.dev.fromLeader p (parsePtp msg) = true →
      s.dev.alm.twoStep = some (seq, stamp, corr) → (parsePtp msg).seq = seq → s.dev.alm.snMode = true → s.dev.flag Reg.timeTestMode = false →
      θ = s.dev.convert stamp - ((parsePtp msg).stamp + corr + (parsePtp msg).correction) - s.dev.meanPath →
      (θ.natAbs : Int) < 1000 * nsUnit → s.dev.nat Reg.ptpServoState = 2 → Completes (.ptpFollowUpReceive p msg) s fun d =>
        d.alm.twoStep = none ∧ d.int Reg.ptpOffset = satS 32 (rsh 32 θ) ∧ d.alm.integ = s.dev.alm.integ + sd θ (64 * s.dev.syncCycles) ∧
        d.nat Reg.increment = ((incNominal : Int) + clampI (-incLimit) incLimit (d.alm.integ + sd θ (4 * s.dev.syncCycles))).toNat) ∧
    (∀ p msg seq t3 t1 t2 (path : Int), (parsePtp msg).kind = 9 → s.dev.fromLeader p (parsePtp msg) = true →
      s.dev.alm.delayReq = some (seq, t3) → s.dev.alm.syncRef = some (t1, t2) → (parsePtp msg).seq = seq → t3 ≠ 0 →
      ((parsePtp msg).body.drop 10).take 8 = s.dev.clockIdentity →
      path = ((t2 - t1) + ((parsePtp msg).stamp - (parsePtp msg).correction - s.dev.convert t3)) / 2 → 0 ≤ path →
      Completes (.ptpDelayRespReceive p msg) s fun d =>
        d.alm.paths = (path :: s.dev.alm.paths).take 16 ∧ d.alm.delayReq = none ∧ s.dev.KeepsRegs [Reg.ptpMeanPathDelay.key] d) ∧
    (∀ p msg, (parsePtp msg).kind = 0xB → s.dev.ptpOn p = true → (parsePtp msg).domain = s.dev.nat Reg.ptpDomain → s.dev.nat Reg.ptpMode = 1 →
      s.dev.alm.foreign = [] → s.dev.alm.leader = [] → (parsePtp msg).source ≠ [] → s.dev.nat Reg.ptpServoState = 0 → p < 5 →
      Completes (.ptpAnnounceReceive p msg) s fun d =>
        d.alm.leader = (parsePtp msg).source ∧ d.nat Reg.ptpPortState p = 9 ∧ d.nat Reg.ptpStepsRemoved = beAt msg 61 2 ∧
        d.nat Reg.ptpLeaderId = fromBE ((parsePtp msg).source.take 8) ∧
        s.dev.KeepsRegs [Reg.ptpPortState.key p, Reg.ptpStepsRemoved.key, Reg.ptpLeaderId.key] d) ∧
    (s.dev.nat Reg.ptpServoState ≠ 0 → s.dev.nat Reg.ptpServoState ≠ 4 → s.dev.Reaches (s.dev.alm.lastSync + 2 * s.dev.syncCycles) →
      Completes .ptpSyncTimeout s fun d => d.nat Reg.ptpServoState = 4) ∧
    (∀ m, s.dev.alm.leader = m → m ≠ [] → s.dev.alm.foreign.all (fun y => (y.drop 21).take 10 == m) = true → s.dev.nat Reg.ptpMode = 1 →
      s.dev.Reaches (s.dev.alm.lastAnnounce + Dev.scaleLog (s.dev.nat Reg.ptpAnnounceTimeout * 786432000) (s.dev.int Reg.ptpLogAnnounce)) →
      Completes .ptpAnnounceTimeout s fun d =>
        d.alm.foreign = [] ∧ d.nat Reg.ptpServoState = (if s.dev.nat Reg.ptpServoState = 0 then 0 else 4))

/-- PTP_DELAY_REQ_RECEIVE, PTP_SYNC_TIMER, PTP_ANNOUNCE_TIMER and PTP_DELAY_REQ_TIMER. -/
def Obligations.PtpSending : Prop :=
  ∀ s : State, s.dev.answers = true → (s.dev.txRing 5).posted.length + (s.dev.txRing 5).busy.length < s.dev.nat Reg.txRingLength 5 → ∀ p,
    (∀ src msg stamp unicast, (parsePtp msg).kind = 1 → s.dev.ptpLeads p = true → (parsePtp msg).domain = s.dev.nat Reg.ptpDomain →
      Completes (.ptpDelayReqReceive p src msg stamp unicast) s fun d =>
        (d.txRing 5).posted.map (·.buf.port) = (s.dev.txRing 5).posted.map (·.buf.port) ++ [p] ∧
        s.dev.KeepsRegs [Reg.txRingPending.key 5] d) ∧
    (s.dev.ptpLeads p = true → s.dev.alm.silentUntil ≤ s.dev.clock → s.dev.Reaches (s.dev.timerFrom (0x3840 + p) + s.dev.syncCycles) → Completes (.ptpSyncTimer p) s fun d =>
      (d.txRing 5).posted.map (·.buf.port) = (s.dev.txRing 5).posted.map (·.buf.port) ++ [p] ∧
      (d.txRing 5).posted.getLast?.map (fun x => (x.buf.oneStep, x.buf.stampRequest)) = some (s.dev.flag Reg.ptpOneStep, !s.dev.flag Reg.ptpOneStep) ∧
      d.alm.seqSync = (s.dev.alm.seqSync + 1) % 32768 ∧ s.dev.KeepsRegs [Reg.txRingPending.key 5] d) ∧
    (s.dev.ptpLeads p = true → s.dev.alm.silentUntil ≤ s.dev.clock → s.dev.Reaches (s.dev.timerFrom (0x3848 + p) + Dev.scaleLog 786432000 (s.dev.int Reg.ptpLogAnnounce)) →
      Completes (.ptpAnnounceTimer p) s fun d =>
        (d.txRing 5).posted.map (·.buf.port) = (s.dev.txRing 5).posted.map (·.buf.port) ++ [p] ∧
        d.alm.seqAnnounce = (s.dev.alm.seqAnnounce + 1) % 65536 ∧ s.dev.KeepsRegs [Reg.txRingPending.key 5] d) ∧
    (s.dev.ptpOn p = true → s.dev.nat Reg.ptpPortState p = 9 → s.dev.nat Reg.linkState p = 2 →
      s.dev.Reaches (s.dev.timerFrom (0x3850 + p) + Dev.scaleLog 786432000 (s.dev.int Reg.ptpLogDelayReq)) → Completes (.ptpDelayReqTimer p) s fun d =>
        (d.txRing 5).posted.map (·.buf.port) = (s.dev.txRing 5).posted.map (·.buf.port) ++ [p] ∧
        (d.txRing 5).posted.getLast?.map (·.buf.stampRequest) = some true ∧
        d.alm.seqDelay = (s.dev.alm.seqDelay + 1) % 32768 ∧ d.alm.delayReq = some (s.dev.alm.seqDelay, 0) ∧
        s.dev.KeepsRegs [Reg.txRingPending.key 5] d) ∧
    (s.dev.ptpLeads p = false →
      (∀ src msg stamp unicast, Completes (.ptpDelayReqReceive p src msg stamp unicast) s fun d => d = s.dev) ∧
      (s.dev.Reaches (s.dev.timerFrom (0x3840 + p) + s.dev.syncCycles) → Completes (.ptpSyncTimer p) s fun d =>
        d.txRings = s.dev.txRings ∧ d.regs = s.dev.regs) ∧
      (s.dev.Reaches (s.dev.timerFrom (0x3848 + p) + Dev.scaleLog 786432000 (s.dev.int Reg.ptpLogAnnounce)) →
        Completes (.ptpAnnounceTimer p) s fun d => d.txRings = s.dev.txRings ∧ d.regs = s.dev.regs))

/-- SAMPLE_TICK, BLOCK_BOUNDARY, GEOMETRY_LATE, RENDER_DEADLINE_MISS and PROGRESS_WATCHDOG_EXPIRY. -/
def Obligations.TicksAndDeadlines : Prop :=
  ∀ s : State, s.dev.answers = true → s.dev.lone = true → s.dev.nat Reg.pairState = 0 →
    (∀ input, s.dev.alm.aligned = false → Completes (.sampleTick input) s fun d =>
      d = (s.dev.noteStops input.faults).headsetTick s.dev.mscNow input.mic input.side) ∧
    (∀ mic side, s.dev.alm.aligned = true → s.dev.power.state = .quiet ∨ (s.dev.power.state = .fault ∧ s.dev.power.stopDue = false) →
      Completes (.sampleTick { mic, side, faults := [] }) s fun d =>
        d.msc = s.dev.msc + 1 ∧ d.tickAt = d.clock ∧ s.dev.clock ≤ d.clock ∧ d.planes = s.dev.planes) ∧
    (∀ mic side, s.dev.alm.aligned = true → s.dev.power.state = .ready ∨ s.dev.power.state = .onShow → s.dev.perturb.render = [] →
      s.dev.perturb.residues = [] → s.dev.sram.flips = [] → Completes (.sampleTick { mic, side, faults := [] }) s fun d =>
        d.msc = s.dev.msc + 1 ∧ d.tickAt = d.clock ∧ s.dev.clock ≤ d.clock ∧ d.alm.aligned = true) ∧
    (∀ bad, s.dev.alm.aligned = true → s.dev.msc % 32 = 0 → s.dev.alm.snMode = false → Completes (.blockBoundary bad) s fun d =>
      d.alm.base = (s.dev.tickAt - s.dev.frcBase) * 16 ∧ d.alm.offset = s.dev.almAtFrc ((s.dev.tickAt - s.dev.frcBase) * 16) ∧
      d.alm.inc = s.dev.alm.pendingInc.getD s.dev.alm.inc ∧ d.alm.pendingInc = none ∧ d.msc = s.dev.msc) ∧
    (∀ bad, s.dev.alm.aligned = false ∨ s.dev.msc % 32 ≠ 0 → Completes (.blockBoundary bad) s fun d => d = s.dev.settleUnits) ∧
    (s.dev.geo.late = [] → Completes .geometryLate s fun d => d = s.dev) ∧
    (∀ n rink, n < 2048 → s.dev.geo.late = [(n, rink)] → Completes .geometryLate s fun d =>
      d.geo.late = [] ∧ (d.nat Reg.objectStatus n).testBit 1 = true ∧ d.nat Reg.lateObjects = (s.dev.nat Reg.lateObjects + 1) % 2 ^ 32 ∧
      s.dev.KeepsRegs [Reg.objectStatus.key n, Reg.lateObjects.key] d) ∧
    (∀ rink outs wait, s.dev.pathRuns = true → rink < 16 → s.dev.faultedLately (0x200 + rink) = false →
      Completes (.renderDeadlineMiss rink outs wait) s fun d =>
        d.power = s.dev.power ∧
        d.nat (if wait then Reg.rinkWindowWaits else Reg.rinkResidueErrors) rink =
          (s.dev.nat (if wait then Reg.rinkWindowWaits else Reg.rinkResidueErrors) rink + 1) % 2 ^ 32) ∧
    (∀ rink outs wait, s.dev.pathRuns = true → rink < 16 → s.dev.faultedLately (0x200 + rink) = true →
      Completes (.renderDeadlineMiss rink outs wait) s fun d => d.HeldInReset 7) ∧
    (∀ rink outs wait, s.dev.pathRuns = false → Completes (.renderDeadlineMiss rink outs wait) s fun d => d = s.dev) ∧
    (s.dev.power.stoppedAt = none →
      (∀ f, f < 0x100 ∨ 0xA00 ≤ f → (s.dev.noteStops [.stops f]).power.stoppedAt = some s.dev.clock) ∧
      (s.dev.pathRuns = false ∨ s.dev.carried s.dev.msc (34 + s.dev.lag) = false → Completes .progressWatchdogExpiry s fun d => d = s.dev) ∧
      (s.dev.pathRuns = true → s.dev.carried s.dev.msc (34 + s.dev.lag) = true → s.dev.Reaches (s.dev.rend.doneAt + Dev.usCycles 1500) →
        Completes .progressWatchdogExpiry s fun d => d.HeldInReset 7)) ∧
    (∀ t, s.dev.power.stoppedAt = some t → s.dev.pathRuns = false → s.dev.Reaches (t + Dev.usCycles 1500) →
      Completes .progressWatchdogExpiry s fun d => d.HeldInReset 7) ∧
    (∀ t, s.dev.lastStep = some t → s.dev.clock ≤ s.dev.tickAt + s.dev.tickCycles → ¬ s.dev.Reaches (t + Dev.usCycles 1500) →
      Completes .progressWatchdogExpiry s fun d => d.power = s.dev.power ∧ d.regs = s.dev.regs)

/-- CONV_MUTE_END and MIX_DUAL_RUN_END. -/
def Obligations.MuteAndDualRun : Prop :=
  ∀ s : State, s.dev.answers = true →
    (∀ c, (s.dev.conv c).mode = 3 → (s.dev.conv c).tracker.state = 3 → (s.dev.conv c).tracker.muteAt + 64 ≤ s.dev.mscNow →
      Completes (.convMuteEnd c) s fun d =>
        (d.conv c).tracker = { (s.dev.conv c).tracker with state := 2 } ∧ (d.conv c).startDate = (s.dev.conv c).tracker.muteAt + 64 ∧
        s.dev.KeepsRegs [Reg.convState.key c] d) ∧
    (∀ c, s.dev.mscNow < (s.dev.conv c).tracker.muteAt + 64 → Completes (.convMuteEnd c) s fun d => d = s.dev) ∧
    (s.dev.nat Reg.swapStatus = 1 → s.dev.mix.swapDate + s.dev.mix.dualLen + 65 + s.dev.lag < s.dev.msc → Completes .mixDualRunEnd s fun d =>
      d.nat Reg.swapStatus = 2 ∧ d.mix = { s.dev.mix with prev := none, dualLen := 0 } ∧ s.dev.KeepsRegs [Reg.swapStatus.key] d) ∧
    (s.dev.nat Reg.swapStatus ≠ 1 ∨ s.dev.msc ≤ s.dev.mix.swapDate + s.dev.mix.dualLen + 65 + s.dev.lag → Completes .mixDualRunEnd s fun d => d = s.dev)

/-- POSITION_PACKET, MAP_SILENCE_TIMEOUT, MOTION_COUNT_FIX, MOTION_DECODER_APPLY and MOTION_STALL. -/
def Obligations.MotionInput : Prop :=
  ∀ s : State, s.dev.answers = true →
    (∀ port vlan udpPort src b, s.dev.isHead = false → Completes (.positionPacket ⟨port, vlan, udpPort⟩ src b) s fun d => d = s.dev) ∧
    (∀ port vlan udpPort src b, port ≠ 4 → s.dev.inForce Reg.udpMediaVlan = 0 ∨ vlan ≠ s.dev.inForce Reg.udpMediaVlan →
      Completes (.positionPacket ⟨port, vlan, udpPort⟩ src b) s fun d => d = s.dev) ∧
    (∀ port vlan udpPort src b via, s.dev.isHead = true →
      (port = 4 ∧ via = 0) ∨ (port ≠ 4 ∧ s.dev.inForce Reg.udpMediaVlan ≠ 0 ∧ vlan = s.dev.inForce Reg.udpMediaVlan ∧ via = 1) →
      (s.dev.mapsFor via udpPort src = [] → Completes (.positionPacket ⟨port, vlan, udpPort⟩ src b) s fun d => d = s.dev) ∧
      (∀ m, s.dev.mapsFor via udpPort src = [m] →
        (b.length ≠ 16 + 16 * beAt b 3 1 ∨ 30 < beAt b 3 1 ∨ beAt b 0 2 ≠ 0x4B50 ∨ beAt b 2 1 ≠ 1 →
          Completes (.positionPacket ⟨port, vlan, udpPort⟩ src b) s fun d =>
            d.nat Reg.mapMalformed m = (s.dev.nat Reg.mapMalformed m + 1) % 2 ^ 32 ∧ s.dev.KeepsRegs [Reg.mapMalformed.key m] d ∧ d.motion = s.dev.motion) ∧
        (b.length = 16 + 16 * beAt b 3 1 → beAt b 3 1 ≤ 30 → beAt b 0 2 = 0x4B50 → beAt b 2 1 = 1 →
          ((s.dev.fifo m).seeded = true → sdiff32 (beAt b 4 4) (s.dev.nat Reg.mapLastSequence m) ≤ 0 →
            Completes (.positionPacket ⟨port, vlan, udpPort⟩ src b) s fun d =>
              d.nat Reg.mapStale m = (s.dev.nat Reg.mapStale m + 1) % 2 ^ 32 ∧ s.dev.KeepsRegs [Reg.mapStale.key m] d ∧
              d.fifo m = (if (s.dev.fifo m).staleRun + 1 = 16 then { s.dev.fifo m with seeded := false, staleRun := 0 }
                else { s.dev.fifo m with staleRun := (s.dev.fifo m).staleRun + 1 }) ∧ ∀ f, f ≠ m → d.fifo f = s.dev.fifo f) ∧
          ((s.dev.fifo m).seeded = false ∨ 0 < sdiff32 (beAt b 4 4) (s.dev.nat Reg.mapLastSequence m) →
            (beAt b 3 1 = 0 → Completes (.positionPacket ⟨port, vlan, udpPort⟩ src b) s fun d =>
              d.fifo m = { s.dev.fifo m with seeded := true, staleRun := 0, acceptedAt := s.dev.clock } ∧ (∀ f, f ≠ m → d.fifo f = s.dev.fifo f) ∧
              d.nat Reg.mapLastSequence m = beAt b 4 4 ∧ d.nat Reg.mapAccepted m = (s.dev.nat Reg.mapAccepted m + 1) % 2 ^ 32 ∧
              s.dev.KeepsRegs [Reg.mapLastSequence.key m, Reg.mapAccepted.key m] d) ∧
            (∀ recs, 0 < beAt b 3 1 → s.dev.motionLinks = [] → (s.dev.fifo m).dropping = false →
              recs = (List.range (beAt b 3 1)).filterMap (fun i => if beAt b (16 + 16 * i) 2 < s.dev.nat Reg.mapObjectCount m then
                some ((beAt b (16 + 16 * i) 2 + s.dev.nat Reg.mapObjectBase m) % 65536, beAt b (18 + 16 * i) 2,
                  beAtS b (20 + 16 * i) 4, beAtS b (24 + 16 * i) 4, beAtS b (28 + 16 * i) 4) else none) →
              (s.dev.fifo m).words.length + (2 + 2 * recs.length) ≤ 63 → Completes (.positionPacket ⟨port, vlan, udpPort⟩ src b) s fun d =>
                d.fifo m = { s.dev.fifo m with
                  seeded := true, staleRun := 0, acceptedAt := s.dev.clock
                  words := (s.dev.fifo m).words ++ packetWords m (beAt b 4 4) (beAt b 8 8) recs } ∧ (∀ f, f ≠ m → d.fifo f = s.dev.fifo f) ∧
                d.nat Reg.mapLastSequence m = beAt b 4 4 ∧ d.nat Reg.mapAccepted m = (s.dev.nat Reg.mapAccepted m + 1) % 2 ^ 32 ∧
                s.dev.KeepsRegs [Reg.mapLastSequence.key m, Reg.mapAccepted.key m] d))))) ∧
    (∀ m, m < 16 → (s.dev.fifo m).seeded = true → s.dev.Reaches ((s.dev.fifo m).acceptedAt + Dev.secCycles 1) →
      Completes (.mapSilenceTimeout m) s fun d => d.fifo m = { s.dev.fifo m with seeded := false, staleRun := 0 } ∧
        (∀ f, f ≠ m → d.fifo f = s.dev.fifo f) ∧ d.regs = s.dev.regs) ∧
    (∀ m, (s.dev.fifo m).seeded = false ∨ ¬ s.dev.Reaches ((s.dev.fifo m).acceptedAt + Dev.secCycles 1) →
      Completes (.mapSilenceTimeout m) s fun d => d.motion = s.dev.motion ∧ d.regs = s.dev.regs) ∧
    (∀ b, s.dev.isHead = true → b % 32 = 0 → s.dev.mscNow + 32 = b → Completes (.motionCountFix b) s fun d =>
      d.motion = s.dev.motion.map (fun g => { g with fixedFor := b, fixedCount := packetsHeld g.words, counted := true }) ∧
      (s.dev.motionLinks = [] → d = { s.dev with motion := d.motion })) ∧
    (∀ b, s.dev.isHead = false ∨ b % 32 ≠ 0 ∨ s.dev.mscNow + 32 ≠ b → Completes (.motionCountFix b) s fun d => d = s.dev) ∧
    (s.dev.motion.items.all (fun g => g.counted && g.fixedCount ≤ packetsHeld g.words) = true → s.dev.mscNow ≤ (s.dev.fifo 0).fixedFor + 1 →
      Completes .motionDecoderApply s (fun d => ∀ g ∈ d.motion.items, g.counted = false ∧ g.fixedCount = 0) ∧
      (∀ f w0 w1 w2 w3 tail, f < 16 → (s.dev.fifo f).words = [w0, w1, w2, w3] ++ tail → w0.tag = 0x10 → w1.tag = 0x11 → w3.tag = 0x02 →
        w0.last = false → w1.last = false → w2.last = false → w3.last = true →
        w1.data = 0 ∨ boundaryOf w1.data = (s.dev.fifo 0).fixedFor → (∀ g, g < 16 → (s.dev.fifo g).fixedCount = if g = f then 1 else 0) →
        s.dev.mscNow < (s.dev.fifo 0).fixedFor → Completes .motionDecoderApply s fun d =>
          (d.fifo f).words = tail ∧ d.motionDue = ((s.dev.fifo 0).fixedFor, recordsOf [w2, w3]) ∧ s.dev.KeepsRegs [] d)) ∧
    (s.dev.motion.items.all (fun g => g.counted && g.fixedCount ≤ packetsHeld g.words) = false → Completes .motionDecoderApply s fun d => d = s.dev) ∧
    (∀ f, f < 16 → (s.dev.fifo f).counted = true → packetsHeld (s.dev.fifo f).words < (s.dev.fifo f).fixedCount →
      (s.dev.fifo 0).fixedFor + 1 < s.dev.mscNow → s.dev.lone = true ∨ s.dev.isLead = true →
      Completes .motionStall s fun d =>
        d.nat Reg.unitState s.dev.unitId = 1 ∧ (∀ g ∈ d.motion.items, g.counted = false) ∧
        d.nat Reg.motionStalls f = (s.dev.nat Reg.motionStalls f + 1) % 2 ^ 32) ∧
    (s.dev.mscNow ≤ (s.dev.fifo 0).fixedFor + 1 → Completes .motionStall s fun d => d = s.dev)

/-- FIR_FADE_ASSIGN, PREPARE_START, PREPARE_ANSWER and PREPARE_DEADLINE. -/
def Obligations.CalendarPrepare : Prop :=
  ∀ s : State, s.dev.answers = true → s.dev.lone = true → s.dev.nat Reg.pairState = 0 → s.dev.heldEnds = [] →
    (∀ slot e, s.dev.entryAt slot = some e → e.state ≠ .staged → Completes (.prepareStart slot) s fun d => d = s.dev) ∧
    (∀ slot e e', slot < 1024 → s.dev.entryAt slot = some e → e.slot = slot → e.handed = false → e.state = .staged →
      max e.closedAt (e.date - s.dev.nat Reg.calendarPrepareLead) ≤ s.dev.mscNow →
      (s.dev.entryModules e).filter (fun u => s.dev.nat Reg.unitState u = 2) = [s.dev.ownUnit] →
      e' = { e with state := .preparing, participants := [s.dev.ownUnit] } →
      (s.dev.power.state = .fault → e.answers = [] → Completes (.prepareStart slot) s fun d =>
        (d.entryAt slot).map (fun x => (x.state, x.answers)) = some (.refused, [(s.dev.ownUnit, 4)]) ∧
        d.nat Reg.entriesRefused = (s.dev.nat Reg.entriesRefused + 1) % 2 ^ 32) ∧
      (∀ d1, s.dev.power.state = .quiet ∨ s.dev.power.state.runs = true → (s.dev.putCal e').jointCheck e' = true →
        elemsOf ((s.dev.putCal e').changesHere e') Dev.touchesTx = [] → ((s.dev.putCal e').changesHere e').flatMap loadsOf = [] →
        (s.dev.putCal e').liftPut? 1 (slot % 256) (.prepare slot) = some d1 → d1.liftRoom (d1.kindLevel 1) = true →
        Completes (.prepareStart slot) s fun d =>
          d.entryAt slot = some { e' with reserved := 1, loads := [(1, 0, 1)] } ∧ d.lift.reservedItems = d1.lift.reservedItems + 1)) ∧
    (∀ slot e, slot < 1024 → s.dev.entryAt slot = some e → e.slot = slot → e.handed = false → e.state = .preparing → e.loads ≠ [] →
      (∀ l ∈ e.loads, l.2.2 = 2) → e.participants = [s.dev.ownUnit] → e.answers = [] →
      ((∀ l ∈ e.loads, l.1 ≠ 5) ∨ e.spectraAt + 2 * s.dev.bMax ≤ e.date → Completes (.prepareAnswer slot) s fun d =>
        d.entryAt slot = some { e with answers := [(s.dev.ownUnit, 0)], state := .prepared } ∧ d.regs = s.dev.regs) ∧
      ((∃ l ∈ e.loads, l.1 = 5) → e.date < e.spectraAt + 2 * s.dev.bMax → Completes (.prepareAnswer slot) s fun d =>
        (d.entryAt slot).map (fun x => (x.state, x.answers)) = some (.refused, [(s.dev.ownUnit, 3)]) ∧
        d.nat Reg.entriesRefused = (s.dev.nat Reg.entriesRefused + 1) % 2 ^ 32)) ∧
    (∀ slot e, slot < 1024 → s.dev.entryAt slot = some e → e.slot = slot → e.handed = false → e.decided = false → e.participants = [s.dev.ownUnit] →
      e.date - 32 ≤ s.dev.mscNow →
      (e.state = .prepared → s.dev.mscNow ≤ e.date → Completes (.prepareDeadline slot) s fun d =>
        d.entryAt slot = some { e with decided := true } ∧ d.regs = s.dev.regs) ∧
      (e.state = .preparing → e.answers = [] → Completes (.prepareDeadline slot) s fun d =>
        (d.entryAt slot).map (fun x => (x.state, x.answers)) = some (.refused, [(s.dev.ownUnit, 3)]) ∧
        d.nat Reg.entriesRefused = (s.dev.nat Reg.entriesRefused + 1) % 2 ^ 32)) ∧
    (∀ date slot e m, date - 2 * s.dev.bMax = s.dev.mscNow → s.dev.timer 0x7A01 ≠ date → s.dev.cal.entries = [(slot, e)] → e.state = .prepared →
      e.date = date → e.loads = [(5, m, 2)] → (s.dev.corr.fades.any fun a => a.output == m && a.date == date) = false →
      (s.dev.fadesHeld < s.dev.fadeLimit → Completes (.firFadeAssign date) s fun d =>
        d.corr.fades = s.dev.corr.fades ++ [{ output := m, date, slot := s.dev.freeSlot, ends := none }] ∧ d.regs = s.dev.regs) ∧
      (s.dev.fadeLimit ≤ s.dev.fadesHeld → Completes (.firFadeAssign date) s fun d =>
        d.corr = s.dev.corr ∧ d.nat Reg.firFadeCuts = (s.dev.nat Reg.firFadeCuts + 1) % 2 ^ 32 ∧
        s.dev.KeepsRegs [Reg.firFadeCuts.key] d))

/-- CALENDAR_COMMIT, OUTCOME_SETTLE_TIMEOUT, CAL_RETENTION_EXPIRY and REALIGNMENT. -/
def Obligations.CalendarOutcomes : Prop :=
  ∀ s : State, s.dev.answers = true → s.dev.lone = true → s.dev.nat Reg.pairState = 0 → s.dev.heldEnds = [] → s.dev.journalAway = false →
    (∀ slot e i p (v : Int), slot < 1024 → s.dev.cal.entries = [(slot, e)] → e.slot = slot → e.handed = false → e.decided = true → e.applied = false →
      e.state = .prepared → e.participants = [s.dev.ownUnit] → s.dev.entryModules e = [s.dev.ownUnit] → e.date ≤ s.dev.mscNow →
      s.dev.power.state = .quiet → i < 2560 →
      s.dev.changesHere e = [{ part := p, found := foundOf Reg.outputGain i, val := .int v }] → Completes .calendarCommit s fun d =>
        d.int Reg.outputGain i = v ∧ d.dated = { date := e.date, key := Reg.outputGain.key i, old := s.dev.val Reg.outputGain i } :: s.dev.dated ∧
        d.nat Reg.journalSeq = (s.dev.nat Reg.journalSeq + 1) % 2 ^ 32 ∧ d.nat Reg.configEpoch = (s.dev.nat Reg.configEpoch + 1) % 2 ^ 32 ∧
        (d.entryAt slot).map (·.state) = some .committed ∧ d.nat Reg.lastOutcome = e.ident * 65536 + 0x500) ∧
    (s.dev.cal.entries = [] → Completes .calendarCommit s fun d => d = s.dev) ∧
    (∀ slot e, slot < 1024 → s.dev.cal.entries = [(slot, e)] → e.slot = slot → e.handed = false → e.applied = true → e.state.final = false →
      e.date + 64 ≤ s.dev.mscNow → Completes .outcomeSettleTimeout s fun d =>
        (d.entryAt slot).map (·.state) = some .partially ∧ d.nat Reg.entriesPartial = (s.dev.nat Reg.entriesPartial + 1) % 2 ^ 32) ∧
    (∀ slot e, s.dev.cal.entries = [(slot, e)] → e.state.final = true → s.dev.Reaches (e.finalAt + Dev.secCycles 10) →
      Completes .calRetentionExpiry s fun d => d.cal.entries = [] ∧ d.regs = s.dev.regs) ∧
    (s.dev.alm.realignDue = true → s.dev.alm.deferred = false → s.dev.alm.aligned = true → Completes .realignment s fun d =>
      d.alm.aligned = true ∧ d.alm.snMode = s.dev.flag Reg.timeTestMode ∧ d.alm.realignDue = false ∧ d.msc % 32 = 0) ∧
    (s.dev.alm.realignDue = false → Completes .realignment s fun d => d = s.dev)

/-- JOURNAL_REPLAY, LIFT_ITEM_FINISH, LIFT_AGE_LIMIT and MIRROR_WRITE. -/
def Obligations.ReplayLiftAndMirror : Prop :=
  ∀ s : State, s.dev.answers = true →
    (∀ unit, unit < 1024 → s.dev.isHead = true → s.dev.journalOldest ≤ s.dev.nat Reg.journalSeq + 1 →
      (∀ r ∈ s.dev.cal.journal, r.seq ≤ s.dev.nat Reg.journalSeq) → Completes (.journalReplay false unit (s.dev.nat Reg.journalSeq)) s fun d =>
        d.nat Reg.unitState unit = 1 ∧ d.timer (0xC0000 + unit) = boundaryOf (s.dev.mscNow + 1) ∧ s.dev.KeepsRegs [Reg.unitState.key unit] d) ∧
    (∀ own unit seq, s.dev.isLead = false → Completes (.journalReplay own unit seq) s fun d => d = s.dev) ∧
    (∀ engine, s.dev.lift.engines.get none engine = none → Completes (.liftItemFinish engine) s fun d => d = s.dev) ∧
    (∀ engine x slot e, s.dev.lift.engines.get none engine = some x → x.failed = false → nget? s.dev.perturb.lift engine = none → s.dev.lift.waiting = [] →
      x.job = .prepare slot → s.dev.entryAt slot = some e → e.slot = slot → Completes (.liftItemFinish engine) s fun d =>
        d.lift = { s.dev.lift with engines := s.dev.lift.engines.modify engine (fun _ => none) } ∧ d.regs = s.dev.regs ∧
        (d.entryAt slot).map (·.loads) = some (e.loads.map fun l => if l.1 = 1 ∧ l.2.1 = 0 then (1, 0, 2) else l)) ∧
    (s.dev.lift.waiting = [] → Completes .liftAgeLimit s fun d => d = s.dev) ∧
    (∀ x, s.dev.lift.waiting = [x] → x.level < 8 → s.dev.Reaches (x.queuedAt + Dev.usCycles (s.dev.nat Reg.liftAgeLimit) + 1) →
      nget? s.dev.limiter (0xA60100 + x.level) = none → Completes .liftAgeLimit s fun d =>
        nget? d.limiter (0xA60100 + x.level) = some d.clock ∧ s.dev.KeepsRegs [] d) ∧
    (∀ id w e, s.dev.lone = false → s.dev.nat Reg.pairState = 6 → s.dev.mirrorApply s.mem w = some e → e.power.resetDue = none →
      e.power.offDue = false → Completes (.mirrorWrite id [w]) s fun d => e.KeepsRegs [Reg.dradaCreditStalls.key 2] d) ∧
    (∀ id w, s.dev.lone = false → s.dev.nat Reg.pairState = 6 → s.dev.mirrorApply s.mem w = none → Completes (.mirrorWrite id [w]) s fun d =>
      d.flag Reg.mirrorStale = true) ∧
    (∀ id w, s.dev.lone = true → Completes (.mirrorWrite id w) s fun d => d = s.dev)

/-- DRADA_CANDIDATE_TIMEOUT, DRADA_LINK_CELL, DRADA_LINK_DOWN, DRADA_RETRY_CYCLE and DRADA_IDLE_ENTRY. -/
def Obligations.DradaTraining : Prop :=
  ∀ s : State, s.dev.answers = true → ∀ k, k < 3 →
    (s.dev.nat Reg.dradaLinkState k = 1 → s.dev.Reaches ((s.dev.dlink k).candAt + Dev.msCycles 250) →
      ((s.dev.dradaCandidates k).length ≤ (s.dev.dlink k).tried → Completes (.dradaCandidateTimeout k) s fun d =>
        d.nat Reg.dradaLinkState k = 3 ∧ d.nat Reg.dradaTrainingFailures k = (s.dev.nat Reg.dradaTrainingFailures k + 1) % 2 ^ 32 ∧
        s.dev.KeepsRegs [Reg.dradaLinkState.key k, Reg.dradaTrainingFailures.key k] d) ∧
      ((s.dev.dlink k).tried < (s.dev.dradaCandidates k).length → Completes (.dradaCandidateTimeout k) s fun d =>
        (d.dlink k).cand ∈ s.dev.dradaCandidates k ∧ (d.dlink k).tried = (s.dev.dlink k).tried + 1 ∧ d.regs = s.dev.regs)) ∧
    (∀ cell wake serial eye, s.dev.nat Reg.dradaLinkState k = 1 →
      Completes (.dradaLinkCell k cell (.agree (s.dev.dlink k).cand (s.dev.flag Reg.dradaMacsec k) wake s.dev.fr serial eye)) s fun d =>
        d.nat Reg.dradaLinkState k = 2 ∧ d.nat Reg.dradaRate k = (dradaCandidate (s.dev.dlink k).cand).1 ∧
        d.nat Reg.dradaFec k = (dradaCandidate (s.dev.dlink k).cand).2 ∧ d.bytes Reg.dradaNeighbour k = serial ∧
        d.nat Reg.dradaWakeAgreed k = max wake (s.dev.nat Reg.dradaWakeOwn k)) ∧
    (∀ cell macsec wake rate serial eye, s.dev.nat Reg.dradaLinkState k = 1 → macsec ≠ s.dev.flag Reg.dradaMacsec k ∨ rate ≠ s.dev.fr →
      Completes (.dradaLinkCell k cell (.agree (s.dev.dlink k).cand macsec wake rate serial eye)) s fun d =>
        d.nat Reg.dradaLinkState k = 3 ∧ d.nat Reg.dradaTrainingFailures k = (s.dev.nat Reg.dradaTrainingFailures k + 1) % 2 ^ 32 ∧
        s.dev.KeepsRegs [Reg.dradaLinkState.key k, Reg.dradaTrainingFailures.key k] d) ∧
    (s.dev.nat Reg.dradaLinkState k = 2 → s.dev.drada.formed = false →
      (s.dev.flag Reg.dradaEnable k = true → (s.dev.dlink k).lastGood ∈ s.dev.dradaCandidates k → Completes (.dradaLinkDown k) s fun d =>
        d.nat Reg.dradaLinkState k = 1 ∧ d.nat Reg.dradaRate k = 0 ∧ (d.dlink k).cand = (s.dev.dlink k).lastGood ∧
        d.nat Reg.dradaLinkDowns k = (s.dev.nat Reg.dradaLinkDowns k + 1) % 2 ^ 32) ∧
      (s.dev.flag Reg.dradaEnable k = false → Completes (.dradaLinkDown k) s fun d =>
        d.nat Reg.dradaLinkState k = 0 ∧ d.nat Reg.dradaRate k = 0 ∧
        d.nat Reg.dradaLinkDowns k = (s.dev.nat Reg.dradaLinkDowns k + 1) % 2 ^ 32)) ∧
    (s.dev.nat Reg.dradaLinkState k ≠ 2 → Completes (.dradaLinkDown k) s fun d => d = s.dev) ∧
    (∀ c l, s.dev.nat Reg.dradaLinkState k = 3 → s.dev.flag Reg.dradaEnable k = true → s.dev.dradaCandidates k = c :: l →
      s.dev.Reaches ((s.dev.dlink k).candAt + Dev.secCycles 2) → Completes (.dradaRetryCycle k) s fun d =>
        d.nat Reg.dradaLinkState k = 1 ∧ (d.dlink k).cand = c ∧ (d.dlink k).tried = 1 ∧ s.dev.KeepsRegs [Reg.dradaLinkState.key k] d) ∧
    (s.dev.nat Reg.dradaLinkState k = 2 → (s.dev.dlink k).idle = false → (s.dev.dlink k).waiting = [] →
      s.dev.Reaches ((s.dev.dlink k).busyAt + Dev.usCycles (s.dev.nat Reg.dradaIdleAfter k)) → Completes (.dradaIdleEntry k) s fun d =>
        (d.dlink k).idle = true ∧ d.nat Reg.dradaIdleEntries k = (s.dev.nat Reg.dradaIdleEntries k + 1) % 2 ^ 32 ∧
        s.dev.KeepsRegs [Reg.dradaIdleEntries.key k] d)

/-- The receive checks, over every row that delivers a cell but the LINK cell's: FEED, TICK, CONTROL, CALENDAR, MOTION, TIME, CREDIT and
REPLAY cells. -/
def Obligations.CellChecks : Prop :=
  ∀ s : State, s.dev.answers = true → ∀ k, k < 3 → nget? s.dev.perturb.dradaDelay k = none →
    ∀ (vc : Nat) (cell w : Octets) (f : TickFrame) (c : CalMsg) (m : MotionMsg) (t : TimeMsg),
    ∀ i ∈ [Instr.dradaFeedCell k w, .dradaTickCell k w f, .dradaControlCell k w, .dradaCalendarCell k w c, .dradaMotionCell k w m,
      .dradaTimeCell k w t, .dradaCreditCell k w, .dradaReplayCell k w],
    (s.dev.nat Reg.dradaLinkState k ≠ 2 → Completes i s fun d => d = s.dev) ∧
    (s.dev.nat Reg.dradaLinkState k = 2 → s.dev.flag Reg.dradaMacsec k = false → w = onLane vc cell → 64 ≤ cell.length → cell.length ≤ 4096 →
      cell.length % 4 = 0 → beAt cell 4 2 = cell.length → crcState cell = 1 → Completes i s fun d =>
        d.nat Reg.dradaStomped k = (s.dev.nat Reg.dradaStomped k + 1) % 2 ^ 32 ∧ s.dev.KeepsRegs [Reg.dradaStomped.key k] d ∧ d.drada = s.dev.drada) ∧
    (s.dev.nat Reg.dradaLinkState k = 2 → s.dev.flag Reg.dradaMacsec k = false → w = onLane vc cell → cell ≠ [] →
      cell.length < 64 ∨ 4096 < cell.length ∨ cell.length % 4 ≠ 0 ∨ beAt cell 4 2 ≠ cell.length → Completes i s fun d =>
        d.nat Reg.dradaMalformed k = (s.dev.nat Reg.dradaMalformed k + 1) % 2 ^ 32 ∧ s.dev.KeepsRegs [Reg.dradaMalformed.key k] d ∧
        d.drada = s.dev.drada)

/-- The DRADA_…_CELL rows, DRADA_TIME_EXCHANGE, DRADA_CREDIT_RETURN_TIMER and DRADA_FEED_LATE. -/
def Obligations.CellEffects : Prop :=
  ∀ s : State, s.dev.answers = true → ∀ k, k < 3 →
    (∀ w d1 cell date first count, k = 0 → (s.dev.stompFeed k w).receiveCell k w = (d1, some cell) → beAt cell 0 1 = 1 → d1.headsGroup = false →
      d1.lone = true → d1.dlinkUp 1 = false → d1.dlinkUp 2 = false → first = beAt cell 12 4 / 65536 → count = beAt cell 12 4 % 65536 → 0 < count → count ≤ 64 →
      date = beAt ((cell.drop 16).take (cell.length - 20)) 0 8 → d1.msc ≤ date →
      Completes (.dradaFeedCell k w) s fun d => (∀ i < count, d.feedHere (first + i) date = true) ∧ d.regs = d1.regs) ∧
    (∀ w f d1 cell, k = 2 → s.dev.receiveCell k w = (d1, some cell) → beAt cell 0 1 = 2 → d1.lone = false → d1.nat Reg.pairState = 6 →
      Completes (.dradaTickCell k w f) s fun d => d.pair = { d1.pair with lastFrame := some f.tick, silent := false }) ∧
    (∀ w b l d1 cell, s.dev.passCell k .motion false w = (d1, some cell) → d1.isHead = false → Completes (.dradaMotionCell k w (.counts b l)) s fun d =>
      d = { d1 with motion := d1.motion.mapIdx fun (f : Nat) (g : MotionFifo) => { g with fixedFor := b, fixedCount := lget 0 l f, counted := true } }) ∧
    (∀ w slot d1 cell, s.dev.passCell k .calendar false w = (d1, some cell) → d1.lone = true → Completes (.dradaCalendarCell k w (.cancel slot)) s fun d =>
      d.entryAt (foreignSlot slot) = none ∧ d.regs = d1.regs) ∧
    (∀ w d1 cell, k = 2 → s.dev.passCell k .control false w = (d1, some cell) → d1.lone = false → d1.nat Reg.pairState = 6 → beAt cell 12 4 = 8 →
      Completes (.dradaControlCell k w) s fun d =>
        d.nat Reg.configEpoch = beAt ((cell.drop 16).take (cell.length - 20)) 0 4 ∧
        d.nat Reg.journalSeq = beAt ((cell.drop 16).take (cell.length - 20)) 4 4) ∧
    (∀ w (t1 t2 t3 msc : Nat) d1 cell (path : Int), k = 0 → s.dev.receiveCell k w = (d1, some cell) → beAt cell 0 1 = 7 → (d1.dlink 0).timeSent = some t1 →
      path = rdiv (((t2 : Int) - t1) + ((d1.almNow : Int) - t3)) 2 + d1.int Reg.dradaAsymmetry 0 * nsUnit →
      Completes (.dradaTimeCell k w (.answer t1 t2 t3 msc)) s fun d =>
        (d.dlink 0).timeSent = none ∧ d.int Reg.dradaTimeOffset 0 = satS 32 (rsh 32 ((d1.almNow : Int) - t3 - path)) ∧
        d.nat Reg.dradaPathDelay 0 = min (rsh 32 path).toNat 0xFFFFFFFF) ∧
    (∀ w d1 cell, s.dev.receiveCell k w = (d1, some cell) → beAt cell 0 1 = 9 → (d1.dlink k).waiting = [] →
      (d1.dlink k).credits.length = 3 → Completes (.dradaCreditCell k w) s fun d =>
        (∀ v < 3, lget 0 (d.dlink k).credits v = min (lget 0 [1024, 256, 512] v) (lget 0 (d1.dlink k).credits v + beAt cell (16 + 2 * v) 2)) ∧ d.regs = d1.regs) ∧
    (∀ w d1 cell seq again, s.dev.receiveCell k w = (d1, some cell) → beAt cell 0 1 = 10 → (d1.dlink k).replay = [(seq, again)] →
      (seq + 65536 - beAt cell 12 4 % 65536) % 65536 < 32768 → d1.flag Reg.dradaMacsec k = false → Completes (.dradaReplayCell k w) s fun d =>
        d.nat Reg.dradaReplays k = (d1.nat Reg.dradaReplays k + 1) % 2 ^ 32 ∧
        d.out = .cell k (beAt again 0 1) (onLane (beAt again 2 1 % 4) again) :: d1.out) ∧
    (k = 0 → s.dev.nat Reg.dradaLinkState 0 = 2 → (s.dev.dlink 0).timeSent = none → s.dev.Reaches (s.dev.timerFrom 200 + Dev.msCycles 1) →
      Completes .dradaTimeExchange s fun d => (d.dlink 0).timeSent = some d.almNow ∧ (d.dlink 0).timeMissed = 0) ∧
    (∀ a b c, s.dev.nat Reg.dradaLinkState k = 2 → s.dev.perturb.credits = [] → (s.dev.dlink k).freed = [a, b, c] → a ≠ 0 ∨ b ≠ 0 ∨ c ≠ 0 →
      s.dev.Reaches ((s.dev.dlink k).returnedAt + Dev.usCycles 1) → Completes (.dradaCreditReturnTimer k) s fun d =>
        (d.dlink k).freed = [0, 0, 0] ∧ (d.dlink k).returnedAt = d.clock ∧ d.out.length = s.dev.out.length + 1 ∧ d.regs = s.dev.regs) ∧
    (∀ date, s.dev.belowHead = true → s.dev.nat Reg.pairState = 0 → Completes (.dradaFeedLate k date) s fun d =>
      d.nat Reg.dradaFeedLate k = (s.dev.nat Reg.dradaFeedLate k + 1) % 2 ^ 32 ∧ s.dev.KeepsRegs [Reg.dradaFeedLate.key k] d)

/-- GROUP_FORM. -/
def Obligations.GroupForming : Prop :=
  ∀ s : State, s.dev.answers = true → s.dev.headsGroup = true → s.dev.Reaches (s.dev.drada.formBy.getD s.dev.clock) →
    (s.dev.drada.collected = [] → s.dev.drada.formed = true → Completes .groupForm s fun d => d.drada = { s.dev.drada with formBy := none } ∧ d.regs = s.dev.regs) ∧
    (s.dev.drada.collected = [] → s.dev.drada.formed = false → Completes .groupForm s fun d =>
      d.drada = { s.dev.drada with formBy := none } ∧ d.nat Reg.groupState = 0 ∧ d.nat Reg.groupExtraLatency = 0 ∧ d.nat Reg.groupDepth = 0 ∧
      d.nat Reg.groupUnits = Dev.unitsOf s.dev.parts) ∧
    (∀ m, s.dev.drada.collected = [m] → m.headRole = false → m.rate = s.dev.fr → m.path = [1] → m.parts ≤ 1 → s.dev.parts ≤ 1 →
      s.dev.drada.ring = false → s.dev.extraLatency 1 ≤ s.dev.nat Reg.groupLatencyLimit → Completes .groupForm s fun d =>
        d.drada.formed = true ∧ d.drada.members = [(m, 2)] ∧ d.nat Reg.groupState = 1 ∧ d.nat Reg.groupTopology = 1 ∧ d.nat Reg.groupUnits = 3 ∧
        d.nat Reg.groupDepth = 1 ∧ d.nat Reg.groupExtraLatency = s.dev.extraLatency 1 ∧ d.nat Reg.unitParent 1 = 0xFFFF ∧ d.nat Reg.unitParent 2 = 1 ∧
        d.nat Reg.unitState 2 = 1)

/-- READ, READ_MULTI, WRITE, WRITE_MULTI, SUBSCRIBE, UNSUBSCRIBE, ECHO, HOST_NOTICE, UNKNOWN_SERVICE. -/
def Obligations.EntryRequests : Prop :=
  ∀ (s : State) (h id : Nat) (role : Role), s.dev.answers = true → s.dev.Alone → s.dev.Asks h id role → ∀ idx sub, idx < 65536 → sub < 256 →
    (∀ f, s.dev.locate .whole idx sub = .ok f → f.row.ty ≠ .blob → ((s.dev.served h).readWire .whole h f).length ≤ 1431 →
      Completes (.read (s.dev.ask h id 0x01 (toBE 2 idx ++ toBE 1 sub))) s (fun d =>
        s.dev.Replies d h id 0x01 (1 + 4 * b2n (s.dev.pendingNow f)) Status.ok (toBE 1 f.row.ty.code ++ (s.dev.served h).readWire .whole h f) ∧
        d.regs = s.dev.regs ∧ d.store = s.dev.store) ∧
      Completes (.readMulti (s.dev.ask h id 0x03 (toBE 1 1 ++ (toBE 2 idx ++ toBE 1 sub)))) s fun d =>
        s.dev.Replies d h id 0x03 (1 + 4 * b2n (s.dev.pendingNow f)) Status.ok
          (toBE 1 1 ++ (toBE 1 0 ++ (toBE 1 f.row.ty.code ++ (s.dev.served h).readWire .whole h f))) ∧ d.regs = s.dev.regs ∧ d.store = s.dev.store) ∧
    (∀ st, s.dev.locate .whole idx sub = .error st →
      Completes (.read (s.dev.ask h id 0x01 (toBE 2 idx ++ toBE 1 sub))) s (fun d => s.dev.Replies d h id 0x01 1 st [] ∧ d.regs = s.dev.regs) ∧
      Completes (.readMulti (s.dev.ask h id 0x03 (toBE 1 1 ++ (toBE 2 idx ++ toBE 1 sub)))) s (fun d =>
        s.dev.Replies d h id 0x03 1 Status.ok (toBE 1 1 ++ (toBE 1 st ++ toBE 1 0)) ∧ d.regs = s.dev.regs)) ∧
    (∀ v : Nat, v < 65536 → 2 ≤ role.rank → (s.dev.served h).Takes Reg.sessionTimeout 0 (.int v) →
      (Completes (.write (s.dev.ask h id 0x02 (toBE 2 0x1000 ++ toBE 1 5 ++ toBE 1 3 ++ toBE 2 v))) s fun d =>
        s.dev.Replies d h id 0x02 1 Status.ok [] ∧ d.nat Reg.sessionTimeout = v ∧ s.dev.KeepsRegs [Reg.sessionTimeout.key, Reg.configEpoch.key] d) ∧
      Completes (.writeMulti (s.dev.ask h id 0x04 (toBE 1 1 ++ (toBE 2 0x1000 ++ toBE 1 5 ++ toBE 1 3 ++ toBE 2 v)))) s fun d =>
        s.dev.Replies d h id 0x04 1 Status.ok [] ∧ d.nat Reg.sessionTimeout = v ∧ s.dev.KeepsRegs [Reg.sessionTimeout.key, Reg.configEpoch.key] d) ∧
    (∀ code raw, code < 256 → valueLength code raw = some raw.length → raw.length ≤ 1024 →
      (∀ st, (s.dev.served h).checkWrite s.mem ⟨h, role⟩ .whole false idx sub code raw = .error st →
        (Completes (.write (s.dev.ask h id 0x02 (toBE 2 idx ++ toBE 1 sub ++ toBE 1 code ++ raw))) s fun d =>
          s.dev.Replies d h id 0x02 1 st [] ∧ s.dev.KeepsRegs [] d) ∧
        Completes (.writeMulti (s.dev.ask h id 0x04 (toBE 1 1 ++ (toBE 2 idx ++ toBE 1 sub ++ toBE 1 code ++ raw)))) s fun d =>
          s.dev.Replies d h id 0x04 1 st (toBE 1 0) ∧ s.dev.KeepsRegs [] d) ∧
      (∀ x, (s.dev.served h).checkWrite s.mem ⟨h, role⟩ .whole false idx sub code raw = .ok x → x.1.row.commit = .dated → s.dev.datedRoom 1 = true →
        Completes (.write (s.dev.ask h id 0x02 (toBE 2 idx ++ toBE 1 sub ++ toBE 1 code ++ raw))) s fun d => ∃ slot e,
          s.dev.freeCalSlot = some slot ∧ d.entryAt slot = some e ∧ e.state = .staged ∧ e.unit = s.dev.ownUnit ∧
          e.changes = [{ index := x.1.index, sub := x.1.sub, val := x.2 }] ∧ e.date = s.dev.earliest (s.dev.leadOf e) ∧
          s.dev.Replies d h id 0x02 1 Status.staged (toBE 8 e.date) ∧ d.regs = s.dev.regs)) ∧
    (∀ f period, s.dev.locate .whole idx sub = .ok f → period < 65536 → s.dev.subs = [] →
      Completes (.subscribe (s.dev.ask h id 0x20 (toBE 2 idx ++ toBE 1 sub ++ toBE 2 period))) s fun d => ∃ x,
        d.subs = [x] ∧ x.session = h ∧ x.index = f.index ∧ x.sub = f.sub ∧ x.period = period ∧
        s.dev.Replies d h id 0x20 1 Status.ok (toBE 2 x.id) ∧ d.regs = s.dev.regs) ∧
    (∀ x, x ∈ s.dev.subs → x.session = h → x.id < 65536 → Completes (.unsubscribe (s.dev.ask h id 0x21 (toBE 2 x.id))) s fun d =>
      d.subs = s.dev.subs.filter (fun y => y.id ≠ x.id) ∧ s.dev.Replies d h id 0x21 1 Status.ok [] ∧ d.regs = s.dev.regs) ∧
    (∀ body, body.length ≤ 1434 →
      (Completes (.echo (s.dev.ask h id 0x7F body)) s fun d => s.dev.Replies d h id 0x7F 1 Status.ok body ∧ d.regs = s.dev.regs) ∧
      (Completes (.hostNotice (s.dev.ask h id 0x22 body)) s fun d => s.dev.Replies d h id 0x22 1 Status.unsupported [] ∧ d.regs = s.dev.regs) ∧
      ∀ code, code < 256 → code ∉ knownServices → Completes (.unknownService (s.dev.ask h id code body)) s fun d =>
        s.dev.Replies d h id code 1 Status.unsupported [] ∧ d.regs = s.dev.regs) ∧
    (∀ id' status body data, id' < 2 ^ 32 → status < 256 → data.length ≤ 1434 → (∃ x, s.dev.session? h = some x ∧ x.can = false ∧
        x.cache = [(id', cacheOctets status false body)]) → Completes (.echo (s.dev.ask h id' 0x7F data)) s fun d =>
      s.dev.Replies d h id' 0x7F 1 status body ∧ d.regs = s.dev.regs)

/-- BLOCK_BEGIN, BLOCK_DATA, BLOCK_END, BLOCK_ABORT and BLOCK_TRANSFER_TIMEOUT. -/
def Obligations.BlockTransfers : Prop :=
  ∀ (s : State) (h id : Nat) (role : Role), s.dev.answers = true → s.dev.Alone → s.dev.Asks h id role →
    (∀ idx sub size crc f, idx < 65536 → sub < 256 → size < 2 ^ 32 → crc < 2 ^ 32 → s.dev.locate .whole idx sub = .ok f → s.dev.transfers.length < 4 →
      (f.is Reg.updateImage = false → (s.dev.served h).blockWriteCheck ⟨h, role⟩ f size = Status.ok →
        Completes (.blockBegin (s.dev.ask h id 0x10 (toBE 2 idx ++ toBE 1 sub ++ toBE 1 0 ++ toBE 4 size ++ toBE 4 crc))) s fun d => ∃ t,
          d.transfers = s.dev.transfers ++ [t] ∧ t.session = h ∧ t.index = f.index ∧ t.sub = f.sub ∧ t.fromDevice = false ∧ t.size = size ∧ t.crc = crc ∧
          t.data = [] ∧ t.next = 0 ∧ s.dev.Replies d h id 0x10 1 Status.ok (toBE 2 t.id ++ toBE 2 1424) ∧ d.regs = s.dev.regs) ∧
      (f.row.ty ≠ .blob → (s.dev.served h).blockReadCheck f ((s.dev.served h).selectionOf h f) = Status.ok →
        Completes (.blockBegin (s.dev.ask h id 0x10 (toBE 2 idx ++ toBE 1 sub ++ toBE 1 1 ++ toBE 4 size ++ toBE 4 crc))) s fun d => ∃ t,
          d.transfers = s.dev.transfers ++ [t] ∧ t.fromDevice = true ∧ t.size = ((s.dev.served h).readWire .whole h f).length ∧
          s.dev.Replies d h id 0x10 1 Status.ok (toBE 2 t.id ++ toBE 2 1424 ++ toBE 4 t.size) ∧ d.regs = s.dev.regs)) ∧
    ∀ n t, n < 65536 → s.dev.transferOf h n = some t → t.remote = 0 → t.size < 2 ^ 32 → s.dev.transferOld t = false →
      (∀ data, t.fromDevice = false → data ≠ [] → data.length = min 1424 (t.size - t.next) →
        Completes (.blockData (s.dev.ask h id 0x11 (toBE 2 n ++ toBE 4 t.next ++ data))) s fun d =>
          s.dev.Replies d h id 0x11 1 Status.ok (toBE 4 (t.next + data.length)) ∧ d.regs = s.dev.regs ∧
          d.transferOf h n = some { t with data := t.data ++ data, next := t.next + data.length, lastAt := s.dev.clock }) ∧
      (∀ off data, t.fromDevice = false → data.length ≤ 1424 → t.next < off → off + data.length ≤ t.size →
        Completes (.blockData (s.dev.ask h id 0x11 (toBE 2 n ++ toBE 4 off ++ data))) s fun d =>
          s.dev.Replies d h id 0x11 1 Status.blockSeq (toBE 4 t.next) ∧ d.transfers = s.dev.transfers ∧ d.regs = s.dev.regs) ∧
      (∀ f now, t.fromDevice = true → t.unit = s.dev.ownUnit → t.next < t.size → s.dev.locate .whole t.index t.sub = .ok f →
        now = (s.dev.served h).blockValue .whole h f t.select → now.length = t.size →
        Completes (.blockData (s.dev.ask h id 0x11 (toBE 2 n ++ toBE 4 t.next))) s fun d =>
          s.dev.Replies d h id 0x11 1 Status.ok (toBE 4 (t.next + min 1424 (t.size - t.next)) ++ (now.drop t.next).take 1424) ∧ d.regs = s.dev.regs) ∧
      (t.fromDevice = true → entryKey t.index t.sub ≠ Reg.captureRead.key → Completes (.blockEnd (s.dev.ask h id 0x12 (toBE 2 n))) s fun d =>
        s.dev.Replies d h id 0x12 1 Status.ok (toBE 4 (crc32c (t.data.take t.next))) ∧ d.transfers = s.dev.transfers.filter (fun x => x.id ≠ n) ∧ d.regs = s.dev.regs) ∧
      (t.fromDevice = false → t.data.length ≠ t.size ∨ crc32c t.data ≠ t.crc → Completes (.blockEnd (s.dev.ask h id 0x12 (toBE 2 n))) s fun d =>
        s.dev.Replies d h id 0x12 1 Status.blockCheck [] ∧ d.transfers = s.dev.transfers.filter (fun x => x.id ≠ n) ∧ d.regs = s.dev.regs) ∧
      (∀ f x, t.fromDevice = false → t.data.length = t.size → crc32c t.data = t.crc → t.unit = s.dev.ownUnit → s.dev.locate .whole t.index t.sub = .ok f →
        f.is Reg.updateImage = false → f.is Reg.programmeImage = false → f.row.commit = .dated → Dev.countsNone x.1 x.2.toBytes = false → s.dev.datedRoom 1 = true →
        ({ s.dev.served h with transfers := s.dev.transfers.filter fun y => y.id ≠ n } : Dev).checkWrite s.mem ⟨h, role⟩ .whole true t.index t.sub f.row.ty.code t.data = .ok x →
        s.dev.parts ≤ 1 →
        Completes (.blockEnd (s.dev.ask h id 0x12 (toBE 2 n))) s fun d => ∃ slot e, s.dev.freeCalSlot = some slot ∧ d.entryAt slot = some e ∧
          e.state = .staged ∧ e.changes = [{ index := x.1.index, sub := x.1.sub, val := x.2 }] ∧ s.dev.Replies d h id 0x12 1 Status.staged (toBE 8 e.date)) ∧
      (Completes (.blockAbort (s.dev.ask h id 0x13 (toBE 2 n))) s fun d =>
        s.dev.Replies d h id 0x13 1 Status.ok [] ∧ d.transfers = s.dev.transfers.filter (fun x => x.id ≠ n) ∧ d.regs = s.dev.regs) ∧
      (s.dev.transfers.find? (fun x => x.id = n) = some t → s.dev.Reaches (t.lastAt + Dev.secCycles 10) → Completes (.blockTransferTimeout n) s fun d =>
        d.transfers = s.dev.transfers.filter (fun x => x.id ≠ n) ∧ d.regs = s.dev.regs ∧ d.out = s.dev.out)

/-- CAL_OPEN, CAL_ADD, CAL_CLOSE, CAL_CANCEL, CAL_STATUS, CAL_LIST, CAL_ATTACH and CAL_PEEK. -/
def Obligations.CalendarServices : Prop :=
  ∀ (s : State) (h id : Nat) (role : Role), s.dev.answers = true → s.dev.Alone → s.dev.Asks h id role →
    (∀ slot, s.dev.freeCalSlot = some slot → Completes (.calOpen (s.dev.ask h id 0x30 [])) s fun d => ∃ e, d.entryAt slot = some e ∧ e.state = .opened ∧
      e.slot = slot ∧ e.gen = (nget 0 s.dev.cal.gens slot + 1) % 64 ∧ e.session = h ∧ e.changes = [] ∧ s.dev.Replies d h id 0x30 1 Status.ok (toBE 2 e.ident) ∧
      d.regs = s.dev.regs) ∧
    (s.dev.freeCalSlot = none → Completes (.calOpen (s.dev.ask h id 0x30 [])) s fun d =>
      s.dev.Replies d h id 0x30 1 Status.busy [] ∧ d.cal = s.dev.cal ∧ d.regs = s.dev.regs) ∧
    (∀ first n, first < 65536 → n ≤ 100 → Completes (.calList (s.dev.ask h id 0x35 (toBE 2 first ++ toBE 1 n))) s fun d => ∃ l,
      l = (s.dev.ownEntries.filter fun e => decide (first ≤ e.slot) && decide (e.role.rank ≤ role.rank)).take n ∧
      s.dev.Replies d h id 0x35 1 Status.ok (toBE 1 l.length ++ l.flatMap fun e => toBE 2 e.ident ++ toBE 1 e.state.code ++ toBE 8 e.date ++ toBE 2 e.changes.length) ∧
      d.cal = s.dev.cal ∧ d.regs = s.dev.regs) ∧
    ∀ e n, n < 65536 → s.dev.entryOf n = some e → e.slot = n % 1024 → e.role.rank ≤ role.rank →
      (Completes (.calStatus (s.dev.ask h id 0x34 (toBE 2 n))) s fun d => d.cal = s.dev.cal ∧ d.regs = s.dev.regs ∧ s.dev.Replies d h id 0x34 1 Status.ok
        (toBE 1 e.state.code ++ toBE 1 (Dev.outcomeCode e.state) ++ toBE 8 e.date ++ toBE 4 e.journalSeq ++ toBE 2 (s.dev.covered e.unit).length ++
          (if e.state.final then e.bitmap else s.dev.bitmapOf e).take (cdiv (s.dev.covered e.unit).length 4))) ∧
      (∀ i c r, i < 256 → e.changes[i]? = some c → findRow c.index c.sub = some r → r.ty.size ≠ 0 →
        Completes (.calPeek (s.dev.ask h id 0x37 (toBE 2 n ++ toBE 2 i))) s fun d => d.cal = s.dev.cal ∧ d.regs = s.dev.regs ∧
          s.dev.Replies d h id 0x37 1 Status.ok (toBE 2 c.index ++ toBE 1 c.sub ++ toBE 1 r.ty.code ++ Dev.intWire r.ty c.val.toInt)) ∧
      (∀ i, i < 65536 → e.changes.length ≤ i → Completes (.calPeek (s.dev.ask h id 0x37 (toBE 2 n ++ toBE 2 i))) s fun d =>
        d.cal = s.dev.cal ∧ d.regs = s.dev.regs ∧ s.dev.Replies d h id 0x37 1 Status.range []) ∧
      (e.state = .opened → Completes (.calCancel (s.dev.ask h id 0x33 (toBE 2 n))) s fun d =>
        d.entryAt (n % 1024) = none ∧ s.dev.Replies d h id 0x33 1 Status.ok [] ∧ d.regs = s.dev.regs) ∧
      (e.state = .staged ∨ e.state = .preparing → e.participants = [] → s.dev.heldEnds = [] → Completes (.calCancel (s.dev.ask h id 0x33 (toBE 2 n))) s fun d =>
        (d.entryAt (n % 1024)).map (·.state) = some .cancelled ∧ s.dev.Replies d h id 0x33 1 Status.ok []) ∧
      (e.state ≠ .opened → e.state ≠ .staged → e.state ≠ .preparing → Completes (.calCancel (s.dev.ask h id 0x33 (toBE 2 n))) s fun d =>
        s.dev.Replies d h id 0x33 1 Status.state [] ∧ d.cal = s.dev.cal ∧ d.regs = s.dev.regs) ∧
      (e.unit = s.dev.ownUnit → e.session = h → e.state = .opened →
        (∀ date, date ≠ 0 → date < 2 ^ 64 → date ≤ s.dev.mscNow + 2 ^ 32 →
          (boundaryOf date < s.dev.earliest (s.dev.leadOf e) → Completes (.calClose (s.dev.ask h id 0x32 (toBE 2 n ++ toBE 8 date))) s fun d =>
            s.dev.Replies d h id 0x32 1 Status.late [] ∧ d.cal = s.dev.cal ∧ d.regs = s.dev.regs) ∧
          (s.dev.earliest (s.dev.leadOf e) ≤ boundaryOf date → Completes (.calClose (s.dev.ask h id 0x32 (toBE 2 n ++ toBE 8 date))) s fun d =>
            s.dev.Replies d h id 0x32 1 Status.staged (toBE 8 (boundaryOf date)) ∧ d.regs = s.dev.regs ∧ d.entryAt (n % 1024) =
              some { e with state := .staged, date := boundaryOf date, closedAt := s.dev.mscNow, order := s.dev.closeOrder })) ∧
        (∀ idx sub code raw x, idx < 65536 → sub < 256 → code < 256 → valueLength code raw = some raw.length → raw.length ≤ 1024 →
          (s.dev.served h).addCheck s.mem ⟨h, role⟩ .whole ⟨idx, sub, code, raw⟩ = .ok x →
          s.dev.changesRoom e.changes (Dev.addChange e.changes ⟨x.1.index, x.1.sub, x.2⟩) = Status.ok →
          Completes (.calAdd (s.dev.ask h id 0x31 (toBE 2 n ++ toBE 1 1 ++ (toBE 2 idx ++ toBE 1 sub ++ toBE 1 code ++ raw)))) s fun d =>
            s.dev.Replies d h id 0x31 1 Status.ok [] ∧ d.regs = s.dev.regs ∧
            d.entryAt (n % 1024) = some { e with changes := Dev.addChange e.changes ⟨x.1.index, x.1.sub, x.2⟩ }) ∧
        (∀ idx sub code raw st, idx < 65536 → sub < 256 → code < 256 → valueLength code raw = some raw.length → raw.length ≤ 1024 →
          (s.dev.served h).addCheck s.mem ⟨h, role⟩ .whole ⟨idx, sub, code, raw⟩ = .error st →
          Completes (.calAdd (s.dev.ask h id 0x31 (toBE 2 n ++ toBE 1 1 ++ (toBE 2 idx ++ toBE 1 sub ++ toBE 1 code ++ raw)))) s fun d =>
            s.dev.Replies d h id 0x31 1 st (toBE 1 0) ∧ d.cal = s.dev.cal ∧ s.dev.KeepsRegs [] d) ∧
        (∀ m t f x, m < 65536 → s.dev.transferOf h m = some t → s.dev.transferOld t = false → t.fromDevice = false → t.unit = e.unit →
          s.dev.locate .whole t.index t.sub = .ok f → f.row.commit = .dated → f.is Reg.programmeImage = false → Dev.blockSound t = true →
          (s.dev.served h).checkWrite s.mem ⟨h, role⟩ .whole true t.index t.sub f.row.ty.code t.data = .ok x → Dev.countsNone f t.data = false →
          s.dev.changesRoom e.changes (Dev.addChange e.changes ⟨x.1.index, x.1.sub, x.2⟩) = Status.ok →
          Completes (.calAttach (s.dev.ask h id 0x36 (toBE 2 n ++ toBE 2 m))) s fun d =>
            s.dev.Replies d h id 0x36 1 Status.ok [] ∧ d.transfers = s.dev.transfers.filter (fun y => y.id ≠ m) ∧
            d.entryAt (n % 1024) = some { e with changes := Dev.addChange e.changes ⟨x.1.index, x.1.sub, x.2⟩ }))

/-- DTLS_HANDSHAKE, SESSION_CLOSE, SESSION_TIMEOUT_CHECK, SOURCE_BLOCK_EXPIRY, SUBSCRIPTION_REPORT, NOTICE_SEND and CAN_KEEPALIVE. -/
def Obligations.SessionEvents : Prop :=
  ∀ s : State, s.dev.answers = true → s.dev.drada.formed = false → s.dev.lone = true ∨ s.dev.isLead = false →
    (∀ x : Handshake, s.dev.servedOn x.port x.vlan = true → x.udpPort = 48240 → x.cookie = true → nget? s.dev.blocked x.source = none → x.fault = false →
      x.offers = true → s.dev.commissions x = false →
      (∀ r, s.dev.chainFault x = some r → Completes (.dtlsHandshake x) s fun d =>
        d.nat Reg.authFailures = (s.dev.nat Reg.authFailures + 1) % 2 ^ 32 ∧ s.dev.KeepsRegs [Reg.authFailures.key] d ∧
        d.sessions.map Session.still = s.dev.sessions.map Session.still) ∧
      (∀ r i, s.dev.chainFault x = none → s.dev.chainRole x = some r → s.dev.certified = false ∨ r ≠ .vendor → i < 8 →
        (∀ y ∈ s.dev.sessions, y.handle ≠ i + 1) → (∀ j, j < i → ∃ y ∈ s.dev.sessions, y.handle = j + 1) → Completes (.dtlsHandshake x) s fun d => ∃ n,
          d.sessions.map Session.still = s.dev.sessions.map Session.still ++ [n] ∧ n.handle = i + 1 ∧ n.role = r ∧ n.can = false ∧ n.srcIp = x.source ∧
          n.cache = [] ∧ s.dev.KeepsRegs [] d)) ∧
    (∀ h, 0 < h → h ≤ 8 → (∃ x ∈ s.dev.sessions, x.handle = h) → Completes (.sessionClose h) s fun d =>
      d.sessions = s.dev.sessions.filter (fun x => x.handle ≠ h) ∧ d.subs = s.dev.subs.filter (fun x => x.session ≠ h) ∧
      d.transfers = s.dev.transfers.filter (fun x => x.session ≠ h) ∧ d.regs = s.dev.regs) ∧
    (∀ x, s.dev.sessions = [x] → 0 < x.handle → x.handle ≤ 8 → s.dev.Reaches (s.dev.timerFrom 210 + Dev.msCycles 100) →
      Completes .sessionTimeoutCheck s fun d => s.dev.KeepsRegs [] d ∧
        d.sessions = if x.lastFrameAt + Dev.secCycles (s.dev.nat Reg.sessionTimeout) < d.clock then [] else [x]) ∧
    (∀ source t, nget? s.dev.blocked source = some t → s.dev.Reaches t → Completes (.sourceBlockExpiry source) s fun d =>
      nget? d.blocked source = none ∧ d.regs = s.dev.regs ∧ d.sessions = s.dev.sessions) ∧
    (∀ x w due, s.dev.subs.find? (fun y => y.id = x.id) = some x → s.dev.subWire x = some w →
      due = (if x.period = 0 then w.2 != x.last else decide (x.nextBlock ≤ s.dev.reportDate / 32)) →
      (due = true → Completes (.subscriptionReport x.id) s fun d =>
        d.subs.find? (fun y => y.id = x.id) = some { x with last := w.2, nextBlock := s.dev.reportDate / 32 + max 1 x.period } ∧ s.dev.KeepsRegs [] d ∧
        (s.dev.liftRoom (s.dev.kindLevel 7) = true → d.lift.nextId = s.dev.lift.nextId + 1)) ∧
      (due = false → Completes (.subscriptionReport x.id) s fun d => d = s.dev)) ∧
    (∀ h x n, h ≤ 8 → s.dev.session? h = some x → x.can = false → x.queue = [n] → x.sentAt = [] → x.lost = 0 → Completes (.noticeSend h) s fun d => ∃ number,
      d.out = .notice h (knFrame 0x22 2 number n.unit 0 n.body) :: s.dev.out ∧ (d.session? h).map (·.queue) = some [] ∧ d.regs = s.dev.regs) ∧
    (∀ ident p host, p.length = 8 → s.dev.inForce Reg.canEnable = 1 → bits ident 25 25 = 0 → bits ident 24 18 = s.dev.inForce Reg.canNodeId →
      bits ident 10 10 = 0 → bits ident 17 11 = host → 0 < host → s.dev.canKeyOctets ≠ [] →
      (beAt p 4 4 = Config.cmac32 s.dev.canKeyOctets (toBE 4 ident ++ p.take 4) % 2 ^ 32 → s.dev.nat Reg.canFreshnessRx (host - 1) < beAt p 0 4 →
        beAt p 0 4 ≤ s.dev.nat Reg.canFreshnessRx (host - 1) + 65536 → Completes (.canKeepalive (.can true ident p)) s fun d =>
          d.nat Reg.canFreshnessRx (host - 1) = beAt p 0 4 ∧ s.dev.KeepsRegs [Reg.canFreshnessRx.key (host - 1)] d ∧ d.out = s.dev.out) ∧
      (beAt p 4 4 ≠ Config.cmac32 s.dev.canKeyOctets (toBE 4 ident ++ p.take 4) % 2 ^ 32 → Completes (.canKeepalive (.can true ident p)) s fun d =>
          d.nat Reg.canTagFailures = (s.dev.nat Reg.canTagFailures + 1) % 2 ^ 32 ∧ s.dev.KeepsRegs [Reg.canTagFailures.key] d ∧ d.out = s.dev.out))

/-- The step on a queue that is not empty: first in, first out. -/
def Obligations.StepTakesFront : Prop :=
  ∀ (i : Instr) (rest : List Instr) (s : State), s.pending = i :: rest → step s = exec i { s with pending := rest }

/-- The step on an empty queue; a DESIGN CHOICE of the model, log entry 3. -/
def Obligations.IdleStep : Prop :=
  ∀ s : State, s.pending = [] →
    (s.dev.live = false → step s = .next s) ∧
    (s.dev.live = true → ∃ t, step s = .next t ∧ t.pending = [] ∧ t.mem = s.mem ∧ t.dev.clock = s.dev.clock + 1 ∧ t.dev.regs = s.dev.regs ∧
      t.dev.out = s.dev.out ∧ (s.dev.alm.snMode = true → s.dev.almNow + s.dev.alm.inc < 2 ^ 48 * Dev.almSecond →
        t.dev.almNow = s.dev.almNow + s.dev.alm.inc))

/-- The state right after reset. -/
def Obligations.ResetState : Prop :=
  State.reset.Sound ∧ State.reset.pending = [] ∧ State.reset.mem = [] ∧ State.reset.dev.power.state = .boot ∧ State.reset.dev.nat Reg.pairState = 0 ∧
  ∀ (r : Row) (i j : Nat), r.key i j ≠ 0x800001 → State.reset.dev.val r i j = r.default i j

/-- The invariant of the memory, over every command and the idle step. -/
def Obligations.StepKeepsSound : Prop := ∀ s t : State, s.Sound → step s = .next t → t.Sound

/-- What no command changes, and which command stops: over every constructor. -/
def Obligations.CommandsLeaveDram : Prop :=
  ∀ (i : Instr) (s : State),
    (∀ t, exec i s = .next t → t.pending = s.pending ∧
      ((∀ c a, i ≠ .dramAccessComplete c a) → (∀ ms e, i ≠ .bootComplete ms e) → ∀ k, nget (octet 0) t.mem k = nget (octet 0) s.mem k)) ∧
    ((∃ t, exec i s = .next t) ∨ (stops i s ∧ exec i s = .refused .debugUnit))

/-- R145, R148 and R152: what a block's render does with the crosspoint records. -/
def Obligations.CrosspointRecords : Prop :=
  ∀ (d : Dev) (b : Nat),
    (d.renderBlock b).rend.xp = d.rend.xp.map (fun p =>
      if p.2.gainFrom = 0 ∧ p.2.gainTo = 0 then p else (p.1, { p.2 with gainFrom := p.2.gainTo, delayFrom := p.2.delayTo, step := false })) ∧
    (∀ n x i, x.gainFrom = 0 → x.gainTo = 0 → d.xpSample b n x i = 0) ∧
    ({ d with rend := { d.rend with xp := d.rend.xp.filter fun p => !(p.2.gainFrom == 0 && p.2.gainTo == 0) } } : Dev).partials b = d.partials b ∧
    (∀ f : Xp → Bool, ({ d with rend := { d.rend with xp := d.rend.xp.map fun p =>
      if p.2.gainFrom = 0 ∧ p.2.gainTo = 0 then (p.1, { p.2 with step := f p.2 }) else p } } : Dev).partials b = d.partials b) ∧
    ∀ n x i, ∃ (q k : Int) (φ : Nat), q = (Dev.delayAt x i + 512) >>> 10 ∧ k = q >>> 9 ∧ q = 512 * k + φ ∧ φ < 512 ∧
      (523776 ≤ Dev.delayAt x i % 524288 → φ = 0 ∧ k = Dev.delayAt x i / 524288 + 1) ∧
      d.xpSample b n x i = ((((List.range 6).foldl (fun (a : Int) (j : Nat) =>
        let t : Int := 32 * b + i - k + 2 - (j : Int)
        a + interpCoef φ j * d.windowAt b n (if 32 * (b : Int) + i < t then 32 * b + i else t)) 0 + 8192) / 16384) * Dev.gainAt x i + 524288) / 1048576

/-- R525: JTAG_INSTRUCTION while the port is locked. -/
def Obligations.LockedTap : Prop :=
  ∀ s : State, s.dev.live = true → s.dev.nat Reg.jtagState = 0 →
    Completes (.jtagInstruction .idcode) s (fun d => d.fwRead = 0x182404A9 ∧ d.regs = s.dev.regs ∧ d.out = s.dev.out) ∧
    Completes (.jtagInstruction .bypass) s (fun d => d.regs = s.dev.regs ∧ d.out = s.dev.out) ∧
    Completes (.jtagInstruction .sample) s (fun d => d.regs = s.dev.regs ∧ d.out = s.dev.out) ∧
    exec (.jtagInstruction .other) s = exec (.jtagInstruction .bypass) s
end

