-- ==== Sys2Proof/Laws/Maps.lean ====
section
/-! SUPPORT. What reading a sparse array gives after a write, and that every operation keeps the canonical form. -/

namespace Sys2Proof.Machine

variable {α : Type}

/-! ### Reading after writing -/

@[simp] theorem nget?_nil (k : Nat) : nget? ([] : NMap α) k = none := rfl

@[simp] theorem nget_nil (d : α) (k : Nat) : nget d [] k = d := rfl

theorem nget?_cons (p : Nat × α) (m : NMap α) (k : Nat) : nget? (p :: m) k = if p.1 = k then some p.2 else nget? m k := by
  by_cases h : p.1 = k <;> simp [nget?, h]

@[simp] theorem nerase_nil (k : Nat) : nerase ([] : NMap α) k = [] := rfl

theorem nerase_cons (p : Nat × α) (m : NMap α) (k : Nat) : nerase (p :: m) k = if p.1 = k then nerase m k else p :: nerase m k := by
  by_cases h : p.1 = k <;> simp [nerase, h]

@[simp] theorem nget?_nerase_same (m : NMap α) (k : Nat) : nget? (nerase m k) k = none := by
  induction m with
  | nil => rfl
  | cons p t ih => by_cases h : p.1 = k <;> simp [nerase_cons, nget?_cons, h, ih]

theorem nget?_nerase_ne (m : NMap α) {k k' : Nat} (h : k' ≠ k) : nget? (nerase m k) k' = nget? m k' := by
  induction m with
  | nil => rfl
  | cons p t ih =>
    by_cases h1 : p.1 = k
    · simp [nerase_cons, nget?_cons, h1, ih, Ne.symm h]
    · simp [nerase_cons, nget?_cons, h1, ih]

theorem nget?_nins_same (m : NMap α) (k : Nat) (v : α) (h : nget? m k = none) : nget? (nins k v m) k = some v := by
  induction m with
  | nil => simp [nins, nget?_cons]
  | cons p t ih =>
    have hp : p.1 ≠ k := by intro e; simp [nget?_cons, e] at h
    have ht : nget? t k = none := by simpa [nget?_cons, hp] using h
    by_cases hk : k < p.1 <;> simp [nins, hk, nget?_cons, hp, ih ht]

theorem nget?_nins_ne (m : NMap α) {k k' : Nat} (v : α) (h : k' ≠ k) : nget? (nins k v m) k' = nget? m k' := by
  induction m with
  | nil => simp [nins, nget?_cons, Ne.symm h]
  | cons p t ih =>
    by_cases hk : k < p.1
    · simp [nins, hk, nget?_cons, Ne.symm h]
    · simp [nins, hk, nget?_cons, ih]

@[simp] theorem nget?_nput_same (m : NMap α) (k : Nat) (v : α) : nget? (nput m k v) k = some v :=
  nget?_nins_same _ _ _ (nget?_nerase_same m k)

theorem nget?_nput_ne (m : NMap α) {k k' : Nat} (v : α) (h : k' ≠ k) : nget? (nput m k v) k' = nget? m k' := by
  rw [nput, nget?_nins_ne _ _ h, nget?_nerase_ne _ h]

@[simp] theorem nget_nput_same (d : α) (m : NMap α) (k : Nat) (v : α) : nget d (nput m k v) k = v := by simp [nget]

theorem nget_nput_ne (d : α) (m : NMap α) {k k' : Nat} (v : α) (h : k' ≠ k) : nget d (nput m k v) k' = nget d m k' := by
  simp [nget, nget?_nput_ne m v h]

@[simp] theorem nget_nset_same [DecidableEq α] (d : α) (m : NMap α) (k : Nat) (v : α) : nget d (nset d m k v) k = v := by
  by_cases h : v = d <;> simp [nset, h, nget]

theorem nget_nset_ne [DecidableEq α] (d e : α) (m : NMap α) {k k' : Nat} (v : α) (h : k' ≠ k) :
    nget e (nset d m k v) k' = nget e m k' := by
  by_cases hv : v = d
  · simp [nset, hv, nget, nget?_nerase_ne m h]
  · simp [nset, hv, nget, nget?_nput_ne m v h]

theorem nget?_nset_ne [DecidableEq α] (d : α) (m : NMap α) {k k' : Nat} (v : α) (h : k' ≠ k) :
    nget? (nset d m k v) k' = nget? m k' := by
  by_cases hv : v = d
  · simp [nset, hv, nget?_nerase_ne m h]
  · simp [nset, hv, nget?_nput_ne m v h]

/-! ### The canonical form -/

theorem nsorted_tail {p : Nat × α} {m : NMap α} (h : nsorted (p :: m) = true) : nsorted m = true := by
  cases m with
  | nil => rfl
  | cons q t => exact (Bool.and_eq_true_iff.1 h).2

theorem nsorted_iff (m : NMap α) : nsorted m = true ↔ m.Pairwise fun p q => p.1 < q.1 := by
  induction m with
  | nil => simp [nsorted]
  | cons p t ih =>
    cases t with
    | nil => simp [nsorted]
    | cons q t =>
      rw [nsorted, Bool.and_eq_true, ih, List.pairwise_cons (a := p), decide_eq_true_iff]
      refine ⟨fun ⟨h, hp⟩ => ⟨?_, hp⟩, fun ⟨h, hp⟩ => ⟨h q (by simp), hp⟩⟩
      intro r hr
      rcases List.mem_cons.1 hr with rfl | hr
      · exact h
      · exact Nat.lt_trans h ((List.pairwise_cons.1 hp).1 r hr)

theorem nsorted_nerase (m : NMap α) (k : Nat) (h : nsorted m = true) : nsorted (nerase m k) = true := by
  rw [nsorted_iff] at *
  exact h.filter _

theorem mem_nins {m : NMap α} {k : Nat} {v : α} {p : Nat × α} : p ∈ nins k v m ↔ p = (k, v) ∨ p ∈ m := by
  induction m with
  | nil => simp [nins]
  | cons q t ih =>
    by_cases hk : k < q.1
    · simp [nins, hk]
    · simp [nins, hk, ih, or_left_comm]

theorem nsorted_nins (m : NMap α) (k : Nat) (v : α) (h : nsorted m = true) (hk : ∀ p ∈ m, p.1 ≠ k) : nsorted (nins k v m) = true := by
  rw [nsorted_iff] at *
  induction m with
  | nil => simp [nins]
  | cons q t ih =>
    have hq := hk q (by simp)
    have h' := List.pairwise_cons.1 h
    by_cases hlt : k < q.1
    · simp only [nins, hlt, if_true]
      refine List.pairwise_cons.2 ⟨?_, h⟩
      intro r hr
      rcases List.mem_cons.1 hr with rfl | hr
      · exact hlt
      · exact Nat.lt_trans hlt (h'.1 r hr)
    · simp only [nins, hlt, if_false]
      refine List.pairwise_cons.2 ⟨?_, ih h'.2 fun p hp => hk p (by simp [hp])⟩
      intro r hr
      rcases mem_nins.1 hr with rfl | hr
      · show q.1 < k; omega
      · exact h'.1 r hr

theorem mem_nerase {m : NMap α} {k : Nat} {p : Nat × α} : p ∈ nerase m k ↔ p ∈ m ∧ p.1 ≠ k := by simp [nerase]

/-- Writing a listed value keeps keys rising. -/
theorem nsorted_nput (m : NMap α) (k : Nat) (v : α) (h : nsorted m = true) : nsorted (nput m k v) = true :=
  nsorted_nins _ _ _ (nsorted_nerase m k h) fun _ hp => (mem_nerase.1 hp).2

/-- Every canonical write keeps the canonical form. -/
theorem nwf_nset [DecidableEq α] (d : α) (m : NMap α) (k : Nat) (v : α) (h : nwf d m = true) : nwf d (nset d m k v) = true := by
  simp only [nwf, Bool.and_eq_true, List.all_eq_true, decide_eq_true_eq] at *
  by_cases hv : v = d
  · simp only [nset, hv, if_true]
    exact ⟨nsorted_nerase m k h.1, fun p hp => h.2 p (mem_nerase.1 hp).1⟩
  · simp only [nset, hv, if_false]
    refine ⟨nsorted_nput m k v h.1, fun p hp => ?_⟩
    rcases mem_nins.1 hp with rfl | hp
    · exact hv
    · exact h.2 p (mem_nerase.1 hp).1

/-! ### A fixed number of things -/

/-- A thing changed reads as changed. -/
theorem Fixed.get_modify_same (v : Fixed α n) (d : α) (i : Nat) (f : α → α) (h : i < n) : (v.modify i f).get d i = f (v.get d i) := by
  have hi : i < v.items.length := by rw [v.count]; exact h
  simp [Fixed.get, Fixed.modify, lget, lmod, List.getD_eq_getElem?_getD, hi]

/-- The others read as before. -/
@[simp] theorem Fixed.get_modify_ne (v : Fixed α n) (d : α) (i j : Nat) (f : α → α) (h : i ≠ j) : (v.modify i f).get d j = v.get d j := by
  simp [Fixed.get, Fixed.modify, lget, lmod, List.getD_eq_getElem?_getD, h]

/-- A number that names nothing reads the default. -/
theorem Fixed.get_beyond (v : Fixed α n) (d : α) (i : Nat) (h : n ≤ i) : v.get d i = d := by
  simp [Fixed.get, lget, List.getD_eq_getElem?_getD, v.count, h]

/-- Every thing changed reads as changed. -/
theorem Fixed.get_map (v : Fixed α n) (d : α) (e : β) (f : α → β) (i : Nat) (h : i < n) : (v.map f).get e i = f (v.get d i) := by
  have hi : i < v.items.length := by rw [v.count]; exact h
  simp [Fixed.get, Fixed.map, lget, List.getD_eq_getElem?_getD, hi]

end Sys2Proof.Machine
end

