-- ==== Sys2Proof/Laws/State.lean ====
section
/-! SUPPORT. What each named update of the module's state leaves of every field: one lemma per field per update. -/

namespace Sys2Proof.Machine.Dev

/-! #### setVal -/

@[simp] theorem setVal_store (d : Dev) (r : Row) (v : Val) (i j : Nat) : (d.setVal r v i j).store = d.store := rfl
@[simp] theorem setVal_force (d : Dev) (r : Row) (v : Val) (i j : Nat) : (d.setVal r v i j).force = d.force := rfl
@[simp] theorem setVal_dated (d : Dev) (r : Row) (v : Val) (i j : Nat) : (d.setVal r v i j).dated = d.dated := rfl
@[simp] theorem setVal_clock (d : Dev) (r : Row) (v : Val) (i j : Nat) : (d.setVal r v i j).clock = d.clock := rfl
@[simp] theorem setVal_frcBase (d : Dev) (r : Row) (v : Val) (i j : Nat) : (d.setVal r v i j).frcBase = d.frcBase := rfl
@[simp] theorem setVal_timers (d : Dev) (r : Row) (v : Val) (i j : Nat) : (d.setVal r v i j).timers = d.timers := rfl
@[simp] theorem setVal_limiter (d : Dev) (r : Row) (v : Val) (i j : Nat) : (d.setVal r v i j).limiter = d.limiter := rfl
@[simp] theorem setVal_freeCtr (d : Dev) (r : Row) (v : Val) (i j : Nat) : (d.setVal r v i j).freeCtr = d.freeCtr := rfl
@[simp] theorem setVal_msc (d : Dev) (r : Row) (v : Val) (i j : Nat) : (d.setVal r v i j).msc = d.msc := rfl
@[simp] theorem setVal_tickAt (d : Dev) (r : Row) (v : Val) (i j : Nat) : (d.setVal r v i j).tickAt = d.tickAt := rfl
@[simp] theorem setVal_out (d : Dev) (r : Row) (v : Val) (i j : Nat) : (d.setVal r v i j).out = d.out := rfl
@[simp] theorem setVal_power (d : Dev) (r : Row) (v : Val) (i j : Nat) : (d.setVal r v i j).power = d.power := rfl
@[simp] theorem setVal_sessions (d : Dev) (r : Row) (v : Val) (i j : Nat) : (d.setVal r v i j).sessions = d.sessions := rfl
@[simp] theorem setVal_subs (d : Dev) (r : Row) (v : Val) (i j : Nat) : (d.setVal r v i j).subs = d.subs := rfl
@[simp] theorem setVal_transfers (d : Dev) (r : Row) (v : Val) (i j : Nat) : (d.setVal r v i j).transfers = d.transfers := rfl
@[simp] theorem setVal_nextTransfer (d : Dev) (r : Row) (v : Val) (i j : Nat) : (d.setVal r v i j).nextTransfer = d.nextTransfer := rfl
@[simp] theorem setVal_nextSub (d : Dev) (r : Row) (v : Val) (i j : Nat) : (d.setVal r v i j).nextSub = d.nextSub := rfl
@[simp] theorem setVal_lastStatus (d : Dev) (r : Row) (v : Val) (i j : Nat) : (d.setVal r v i j).lastStatus = d.lastStatus := rfl
@[simp] theorem setVal_blocked (d : Dev) (r : Row) (v : Val) (i j : Nat) : (d.setVal r v i j).blocked = d.blocked := rfl
@[simp] theorem setVal_refusals (d : Dev) (r : Row) (v : Val) (i j : Nat) : (d.setVal r v i j).refusals = d.refusals := rfl
@[simp] theorem setVal_cal (d : Dev) (r : Row) (v : Val) (i j : Nat) : (d.setVal r v i j).cal = d.cal := rfl
@[simp] theorem setVal_motion (d : Dev) (r : Row) (v : Val) (i j : Nat) : (d.setVal r v i j).motion = d.motion := rfl
@[simp] theorem setVal_motionDue (d : Dev) (r : Row) (v : Val) (i j : Nat) : (d.setVal r v i j).motionDue = d.motionDue := rfl
@[simp] theorem setVal_lift (d : Dev) (r : Row) (v : Val) (i j : Nat) : (d.setVal r v i j).lift = d.lift := rfl
@[simp] theorem setVal_log (d : Dev) (r : Row) (v : Val) (i j : Nat) : (d.setVal r v i j).log = d.log := rfl
@[simp] theorem setVal_geo (d : Dev) (r : Row) (v : Val) (i j : Nat) : (d.setVal r v i j).geo = d.geo := rfl
@[simp] theorem setVal_planes (d : Dev) (r : Row) (v : Val) (i j : Nat) : (d.setVal r v i j).planes = d.planes := rfl
@[simp] theorem setVal_rend (d : Dev) (r : Row) (v : Val) (i j : Nat) : (d.setVal r v i j).rend = d.rend := rfl
@[simp] theorem setVal_mix (d : Dev) (r : Row) (v : Val) (i j : Nat) : (d.setVal r v i j).mix = d.mix := rfl
@[simp] theorem setVal_corr (d : Dev) (r : Row) (v : Val) (i j : Nat) : (d.setVal r v i j).corr = d.corr := rfl
@[simp] theorem setVal_ports (d : Dev) (r : Row) (v : Val) (i j : Nat) : (d.setVal r v i j).ports = d.ports := rfl
@[simp] theorem setVal_rxRings (d : Dev) (r : Row) (v : Val) (i j : Nat) : (d.setVal r v i j).rxRings = d.rxRings := rfl
@[simp] theorem setVal_txRings (d : Dev) (r : Row) (v : Val) (i j : Nat) : (d.setVal r v i j).txRings = d.txRings := rfl
@[simp] theorem setVal_flows (d : Dev) (r : Row) (v : Val) (i j : Nat) : (d.setVal r v i j).flows = d.flows := rfl
@[simp] theorem setVal_pool (d : Dev) (r : Row) (v : Val) (i j : Nat) : (d.setVal r v i j).pool = d.pool := rfl
@[simp] theorem setVal_tdm (d : Dev) (r : Row) (v : Val) (i j : Nat) : (d.setVal r v i j).tdm = d.tdm := rfl
@[simp] theorem setVal_headset (d : Dev) (r : Row) (v : Val) (i j : Nat) : (d.setVal r v i j).headset = d.headset := rfl
@[simp] theorem setVal_recd (d : Dev) (r : Row) (v : Val) (i j : Nat) : (d.setVal r v i j).recd = d.recd := rfl
@[simp] theorem setVal_serving (d : Dev) (r : Row) (v : Val) (i j : Nat) : (d.setVal r v i j).serving = d.serving := rfl
@[simp] theorem setVal_fwRead (d : Dev) (r : Row) (v : Val) (i j : Nat) : (d.setVal r v i j).fwRead = d.fwRead := rfl
@[simp] theorem setVal_lastResult (d : Dev) (r : Row) (v : Val) (i j : Nat) : (d.setVal r v i j).lastResult = d.lastResult := rfl
@[simp] theorem setVal_alm (d : Dev) (r : Row) (v : Val) (i j : Nat) : (d.setVal r v i j).alm = d.alm := rfl
@[simp] theorem setVal_dram (d : Dev) (r : Row) (v : Val) (i j : Nat) : (d.setVal r v i j).dram = d.dram := rfl
@[simp] theorem setVal_sram (d : Dev) (r : Row) (v : Val) (i j : Nat) : (d.setVal r v i j).sram = d.sram := rfl
@[simp] theorem setVal_pair (d : Dev) (r : Row) (v : Val) (i j : Nat) : (d.setVal r v i j).pair = d.pair := rfl
@[simp] theorem setVal_drada (d : Dev) (r : Row) (v : Val) (i j : Nat) : (d.setVal r v i j).drada = d.drada := rfl
@[simp] theorem setVal_sup (d : Dev) (r : Row) (v : Val) (i j : Nat) : (d.setVal r v i j).sup = d.sup := rfl
@[simp] theorem setVal_sec (d : Dev) (r : Row) (v : Val) (i j : Nat) : (d.setVal r v i j).sec = d.sec := rfl
@[simp] theorem setVal_season (d : Dev) (r : Row) (v : Val) (i j : Nat) : (d.setVal r v i j).season = d.season := rfl
@[simp] theorem setVal_gathers (d : Dev) (r : Row) (v : Val) (i j : Nat) : (d.setVal r v i j).gathers = d.gathers := rfl
@[simp] theorem setVal_nextRequest (d : Dev) (r : Row) (v : Val) (i j : Nat) : (d.setVal r v i j).nextRequest = d.nextRequest := rfl
@[simp] theorem setVal_heldEnds (d : Dev) (r : Row) (v : Val) (i j : Nat) : (d.setVal r v i j).heldEnds = d.heldEnds := rfl
@[simp] theorem setVal_perturb (d : Dev) (r : Row) (v : Val) (i j : Nat) : (d.setVal r v i j).perturb = d.perturb := rfl

/-! #### setInt -/

@[simp] theorem setInt_store (d : Dev) (r : Row) (v : Int) (i j : Nat) : (d.setInt r v i j).store = d.store := rfl
@[simp] theorem setInt_force (d : Dev) (r : Row) (v : Int) (i j : Nat) : (d.setInt r v i j).force = d.force := rfl
@[simp] theorem setInt_dated (d : Dev) (r : Row) (v : Int) (i j : Nat) : (d.setInt r v i j).dated = d.dated := rfl
@[simp] theorem setInt_clock (d : Dev) (r : Row) (v : Int) (i j : Nat) : (d.setInt r v i j).clock = d.clock := rfl
@[simp] theorem setInt_frcBase (d : Dev) (r : Row) (v : Int) (i j : Nat) : (d.setInt r v i j).frcBase = d.frcBase := rfl
@[simp] theorem setInt_timers (d : Dev) (r : Row) (v : Int) (i j : Nat) : (d.setInt r v i j).timers = d.timers := rfl
@[simp] theorem setInt_limiter (d : Dev) (r : Row) (v : Int) (i j : Nat) : (d.setInt r v i j).limiter = d.limiter := rfl
@[simp] theorem setInt_freeCtr (d : Dev) (r : Row) (v : Int) (i j : Nat) : (d.setInt r v i j).freeCtr = d.freeCtr := rfl
@[simp] theorem setInt_msc (d : Dev) (r : Row) (v : Int) (i j : Nat) : (d.setInt r v i j).msc = d.msc := rfl
@[simp] theorem setInt_tickAt (d : Dev) (r : Row) (v : Int) (i j : Nat) : (d.setInt r v i j).tickAt = d.tickAt := rfl
@[simp] theorem setInt_out (d : Dev) (r : Row) (v : Int) (i j : Nat) : (d.setInt r v i j).out = d.out := rfl
@[simp] theorem setInt_power (d : Dev) (r : Row) (v : Int) (i j : Nat) : (d.setInt r v i j).power = d.power := rfl
@[simp] theorem setInt_sessions (d : Dev) (r : Row) (v : Int) (i j : Nat) : (d.setInt r v i j).sessions = d.sessions := rfl
@[simp] theorem setInt_subs (d : Dev) (r : Row) (v : Int) (i j : Nat) : (d.setInt r v i j).subs = d.subs := rfl
@[simp] theorem setInt_transfers (d : Dev) (r : Row) (v : Int) (i j : Nat) : (d.setInt r v i j).transfers = d.transfers := rfl
@[simp] theorem setInt_nextTransfer (d : Dev) (r : Row) (v : Int) (i j : Nat) : (d.setInt r v i j).nextTransfer = d.nextTransfer := rfl
@[simp] theorem setInt_nextSub (d : Dev) (r : Row) (v : Int) (i j : Nat) : (d.setInt r v i j).nextSub = d.nextSub := rfl
@[simp] theorem setInt_lastStatus (d : Dev) (r : Row) (v : Int) (i j : Nat) : (d.setInt r v i j).lastStatus = d.lastStatus := rfl
@[simp] theorem setInt_blocked (d : Dev) (r : Row) (v : Int) (i j : Nat) : (d.setInt r v i j).blocked = d.blocked := rfl
@[simp] theorem setInt_refusals (d : Dev) (r : Row) (v : Int) (i j : Nat) : (d.setInt r v i j).refusals = d.refusals := rfl
@[simp] theorem setInt_cal (d : Dev) (r : Row) (v : Int) (i j : Nat) : (d.setInt r v i j).cal = d.cal := rfl
@[simp] theorem setInt_motion (d : Dev) (r : Row) (v : Int) (i j : Nat) : (d.setInt r v i j).motion = d.motion := rfl
@[simp] theorem setInt_motionDue (d : Dev) (r : Row) (v : Int) (i j : Nat) : (d.setInt r v i j).motionDue = d.motionDue := rfl
@[simp] theorem setInt_lift (d : Dev) (r : Row) (v : Int) (i j : Nat) : (d.setInt r v i j).lift = d.lift := rfl
@[simp] theorem setInt_log (d : Dev) (r : Row) (v : Int) (i j : Nat) : (d.setInt r v i j).log = d.log := rfl
@[simp] theorem setInt_geo (d : Dev) (r : Row) (v : Int) (i j : Nat) : (d.setInt r v i j).geo = d.geo := rfl
@[simp] theorem setInt_planes (d : Dev) (r : Row) (v : Int) (i j : Nat) : (d.setInt r v i j).planes = d.planes := rfl
@[simp] theorem setInt_rend (d : Dev) (r : Row) (v : Int) (i j : Nat) : (d.setInt r v i j).rend = d.rend := rfl
@[simp] theorem setInt_mix (d : Dev) (r : Row) (v : Int) (i j : Nat) : (d.setInt r v i j).mix = d.mix := rfl
@[simp] theorem setInt_corr (d : Dev) (r : Row) (v : Int) (i j : Nat) : (d.setInt r v i j).corr = d.corr := rfl
@[simp] theorem setInt_ports (d : Dev) (r : Row) (v : Int) (i j : Nat) : (d.setInt r v i j).ports = d.ports := rfl
@[simp] theorem setInt_rxRings (d : Dev) (r : Row) (v : Int) (i j : Nat) : (d.setInt r v i j).rxRings = d.rxRings := rfl
@[simp] theorem setInt_txRings (d : Dev) (r : Row) (v : Int) (i j : Nat) : (d.setInt r v i j).txRings = d.txRings := rfl
@[simp] theorem setInt_flows (d : Dev) (r : Row) (v : Int) (i j : Nat) : (d.setInt r v i j).flows = d.flows := rfl
@[simp] theorem setInt_pool (d : Dev) (r : Row) (v : Int) (i j : Nat) : (d.setInt r v i j).pool = d.pool := rfl
@[simp] theorem setInt_tdm (d : Dev) (r : Row) (v : Int) (i j : Nat) : (d.setInt r v i j).tdm = d.tdm := rfl
@[simp] theorem setInt_headset (d : Dev) (r : Row) (v : Int) (i j : Nat) : (d.setInt r v i j).headset = d.headset := rfl
@[simp] theorem setInt_recd (d : Dev) (r : Row) (v : Int) (i j : Nat) : (d.setInt r v i j).recd = d.recd := rfl
@[simp] theorem setInt_serving (d : Dev) (r : Row) (v : Int) (i j : Nat) : (d.setInt r v i j).serving = d.serving := rfl
@[simp] theorem setInt_fwRead (d : Dev) (r : Row) (v : Int) (i j : Nat) : (d.setInt r v i j).fwRead = d.fwRead := rfl
@[simp] theorem setInt_lastResult (d : Dev) (r : Row) (v : Int) (i j : Nat) : (d.setInt r v i j).lastResult = d.lastResult := rfl
@[simp] theorem setInt_alm (d : Dev) (r : Row) (v : Int) (i j : Nat) : (d.setInt r v i j).alm = d.alm := rfl
@[simp] theorem setInt_dram (d : Dev) (r : Row) (v : Int) (i j : Nat) : (d.setInt r v i j).dram = d.dram := rfl
@[simp] theorem setInt_sram (d : Dev) (r : Row) (v : Int) (i j : Nat) : (d.setInt r v i j).sram = d.sram := rfl
@[simp] theorem setInt_pair (d : Dev) (r : Row) (v : Int) (i j : Nat) : (d.setInt r v i j).pair = d.pair := rfl
@[simp] theorem setInt_drada (d : Dev) (r : Row) (v : Int) (i j : Nat) : (d.setInt r v i j).drada = d.drada := rfl
@[simp] theorem setInt_sup (d : Dev) (r : Row) (v : Int) (i j : Nat) : (d.setInt r v i j).sup = d.sup := rfl
@[simp] theorem setInt_sec (d : Dev) (r : Row) (v : Int) (i j : Nat) : (d.setInt r v i j).sec = d.sec := rfl
@[simp] theorem setInt_season (d : Dev) (r : Row) (v : Int) (i j : Nat) : (d.setInt r v i j).season = d.season := rfl
@[simp] theorem setInt_gathers (d : Dev) (r : Row) (v : Int) (i j : Nat) : (d.setInt r v i j).gathers = d.gathers := rfl
@[simp] theorem setInt_nextRequest (d : Dev) (r : Row) (v : Int) (i j : Nat) : (d.setInt r v i j).nextRequest = d.nextRequest := rfl
@[simp] theorem setInt_heldEnds (d : Dev) (r : Row) (v : Int) (i j : Nat) : (d.setInt r v i j).heldEnds = d.heldEnds := rfl
@[simp] theorem setInt_perturb (d : Dev) (r : Row) (v : Int) (i j : Nat) : (d.setInt r v i j).perturb = d.perturb := rfl

/-! #### setNat -/

@[simp] theorem setNat_store (d : Dev) (r : Row) (v i j : Nat) : (d.setNat r v i j).store = d.store := rfl
@[simp] theorem setNat_force (d : Dev) (r : Row) (v i j : Nat) : (d.setNat r v i j).force = d.force := rfl
@[simp] theorem setNat_dated (d : Dev) (r : Row) (v i j : Nat) : (d.setNat r v i j).dated = d.dated := rfl
@[simp] theorem setNat_clock (d : Dev) (r : Row) (v i j : Nat) : (d.setNat r v i j).clock = d.clock := rfl
@[simp] theorem setNat_frcBase (d : Dev) (r : Row) (v i j : Nat) : (d.setNat r v i j).frcBase = d.frcBase := rfl
@[simp] theorem setNat_timers (d : Dev) (r : Row) (v i j : Nat) : (d.setNat r v i j).timers = d.timers := rfl
@[simp] theorem setNat_limiter (d : Dev) (r : Row) (v i j : Nat) : (d.setNat r v i j).limiter = d.limiter := rfl
@[simp] theorem setNat_freeCtr (d : Dev) (r : Row) (v i j : Nat) : (d.setNat r v i j).freeCtr = d.freeCtr := rfl
@[simp] theorem setNat_msc (d : Dev) (r : Row) (v i j : Nat) : (d.setNat r v i j).msc = d.msc := rfl
@[simp] theorem setNat_tickAt (d : Dev) (r : Row) (v i j : Nat) : (d.setNat r v i j).tickAt = d.tickAt := rfl
@[simp] theorem setNat_out (d : Dev) (r : Row) (v i j : Nat) : (d.setNat r v i j).out = d.out := rfl
@[simp] theorem setNat_power (d : Dev) (r : Row) (v i j : Nat) : (d.setNat r v i j).power = d.power := rfl
@[simp] theorem setNat_sessions (d : Dev) (r : Row) (v i j : Nat) : (d.setNat r v i j).sessions = d.sessions := rfl
@[simp] theorem setNat_subs (d : Dev) (r : Row) (v i j : Nat) : (d.setNat r v i j).subs = d.subs := rfl
@[simp] theorem setNat_transfers (d : Dev) (r : Row) (v i j : Nat) : (d.setNat r v i j).transfers = d.transfers := rfl
@[simp] theorem setNat_nextTransfer (d : Dev) (r : Row) (v i j : Nat) : (d.setNat r v i j).nextTransfer = d.nextTransfer := rfl
@[simp] theorem setNat_nextSub (d : Dev) (r : Row) (v i j : Nat) : (d.setNat r v i j).nextSub = d.nextSub := rfl
@[simp] theorem setNat_lastStatus (d : Dev) (r : Row) (v i j : Nat) : (d.setNat r v i j).lastStatus = d.lastStatus := rfl
@[simp] theorem setNat_blocked (d : Dev) (r : Row) (v i j : Nat) : (d.setNat r v i j).blocked = d.blocked := rfl
@[simp] theorem setNat_refusals (d : Dev) (r : Row) (v i j : Nat) : (d.setNat r v i j).refusals = d.refusals := rfl
@[simp] theorem setNat_cal (d : Dev) (r : Row) (v i j : Nat) : (d.setNat r v i j).cal = d.cal := rfl
@[simp] theorem setNat_motion (d : Dev) (r : Row) (v i j : Nat) : (d.setNat r v i j).motion = d.motion := rfl
@[simp] theorem setNat_motionDue (d : Dev) (r : Row) (v i j : Nat) : (d.setNat r v i j).motionDue = d.motionDue := rfl
@[simp] theorem setNat_lift (d : Dev) (r : Row) (v i j : Nat) : (d.setNat r v i j).lift = d.lift := rfl
@[simp] theorem setNat_log (d : Dev) (r : Row) (v i j : Nat) : (d.setNat r v i j).log = d.log := rfl
@[simp] theorem setNat_geo (d : Dev) (r : Row) (v i j : Nat) : (d.setNat r v i j).geo = d.geo := rfl
@[simp] theorem setNat_planes (d : Dev) (r : Row) (v i j : Nat) : (d.setNat r v i j).planes = d.planes := rfl
@[simp] theorem setNat_rend (d : Dev) (r : Row) (v i j : Nat) : (d.setNat r v i j).rend = d.rend := rfl
@[simp] theorem setNat_mix (d : Dev) (r : Row) (v i j : Nat) : (d.setNat r v i j).mix = d.mix := rfl
@[simp] theorem setNat_corr (d : Dev) (r : Row) (v i j : Nat) : (d.setNat r v i j).corr = d.corr := rfl
@[simp] theorem setNat_ports (d : Dev) (r : Row) (v i j : Nat) : (d.setNat r v i j).ports = d.ports := rfl
@[simp] theorem setNat_rxRings (d : Dev) (r : Row) (v i j : Nat) : (d.setNat r v i j).rxRings = d.rxRings := rfl
@[simp] theorem setNat_txRings (d : Dev) (r : Row) (v i j : Nat) : (d.setNat r v i j).txRings = d.txRings := rfl
@[simp] theorem setNat_flows (d : Dev) (r : Row) (v i j : Nat) : (d.setNat r v i j).flows = d.flows := rfl
@[simp] theorem setNat_pool (d : Dev) (r : Row) (v i j : Nat) : (d.setNat r v i j).pool = d.pool := rfl
@[simp] theorem setNat_tdm (d : Dev) (r : Row) (v i j : Nat) : (d.setNat r v i j).tdm = d.tdm := rfl
@[simp] theorem setNat_headset (d : Dev) (r : Row) (v i j : Nat) : (d.setNat r v i j).headset = d.headset := rfl
@[simp] theorem setNat_recd (d : Dev) (r : Row) (v i j : Nat) : (d.setNat r v i j).recd = d.recd := rfl
@[simp] theorem setNat_serving (d : Dev) (r : Row) (v i j : Nat) : (d.setNat r v i j).serving = d.serving := rfl
@[simp] theorem setNat_fwRead (d : Dev) (r : Row) (v i j : Nat) : (d.setNat r v i j).fwRead = d.fwRead := rfl
@[simp] theorem setNat_lastResult (d : Dev) (r : Row) (v i j : Nat) : (d.setNat r v i j).lastResult = d.lastResult := rfl
@[simp] theorem setNat_alm (d : Dev) (r : Row) (v i j : Nat) : (d.setNat r v i j).alm = d.alm := rfl
@[simp] theorem setNat_dram (d : Dev) (r : Row) (v i j : Nat) : (d.setNat r v i j).dram = d.dram := rfl
@[simp] theorem setNat_sram (d : Dev) (r : Row) (v i j : Nat) : (d.setNat r v i j).sram = d.sram := rfl
@[simp] theorem setNat_pair (d : Dev) (r : Row) (v i j : Nat) : (d.setNat r v i j).pair = d.pair := rfl
@[simp] theorem setNat_drada (d : Dev) (r : Row) (v i j : Nat) : (d.setNat r v i j).drada = d.drada := rfl
@[simp] theorem setNat_sup (d : Dev) (r : Row) (v i j : Nat) : (d.setNat r v i j).sup = d.sup := rfl
@[simp] theorem setNat_sec (d : Dev) (r : Row) (v i j : Nat) : (d.setNat r v i j).sec = d.sec := rfl
@[simp] theorem setNat_season (d : Dev) (r : Row) (v i j : Nat) : (d.setNat r v i j).season = d.season := rfl
@[simp] theorem setNat_gathers (d : Dev) (r : Row) (v i j : Nat) : (d.setNat r v i j).gathers = d.gathers := rfl
@[simp] theorem setNat_nextRequest (d : Dev) (r : Row) (v i j : Nat) : (d.setNat r v i j).nextRequest = d.nextRequest := rfl
@[simp] theorem setNat_heldEnds (d : Dev) (r : Row) (v i j : Nat) : (d.setNat r v i j).heldEnds = d.heldEnds := rfl
@[simp] theorem setNat_perturb (d : Dev) (r : Row) (v i j : Nat) : (d.setNat r v i j).perturb = d.perturb := rfl

/-! #### setFlag -/

@[simp] theorem setFlag_store (d : Dev) (r : Row) (b : Bool) (i : Nat) : (d.setFlag r b i).store = d.store := rfl
@[simp] theorem setFlag_force (d : Dev) (r : Row) (b : Bool) (i : Nat) : (d.setFlag r b i).force = d.force := rfl
@[simp] theorem setFlag_dated (d : Dev) (r : Row) (b : Bool) (i : Nat) : (d.setFlag r b i).dated = d.dated := rfl
@[simp] theorem setFlag_clock (d : Dev) (r : Row) (b : Bool) (i : Nat) : (d.setFlag r b i).clock = d.clock := rfl
@[simp] theorem setFlag_frcBase (d : Dev) (r : Row) (b : Bool) (i : Nat) : (d.setFlag r b i).frcBase = d.frcBase := rfl
@[simp] theorem setFlag_timers (d : Dev) (r : Row) (b : Bool) (i : Nat) : (d.setFlag r b i).timers = d.timers := rfl
@[simp] theorem setFlag_limiter (d : Dev) (r : Row) (b : Bool) (i : Nat) : (d.setFlag r b i).limiter = d.limiter := rfl
@[simp] theorem setFlag_freeCtr (d : Dev) (r : Row) (b : Bool) (i : Nat) : (d.setFlag r b i).freeCtr = d.freeCtr := rfl
@[simp] theorem setFlag_msc (d : Dev) (r : Row) (b : Bool) (i : Nat) : (d.setFlag r b i).msc = d.msc := rfl
@[simp] theorem setFlag_tickAt (d : Dev) (r : Row) (b : Bool) (i : Nat) : (d.setFlag r b i).tickAt = d.tickAt := rfl
@[simp] theorem setFlag_out (d : Dev) (r : Row) (b : Bool) (i : Nat) : (d.setFlag r b i).out = d.out := rfl
@[simp] theorem setFlag_power (d : Dev) (r : Row) (b : Bool) (i : Nat) : (d.setFlag r b i).power = d.power := rfl
@[simp] theorem setFlag_sessions (d : Dev) (r : Row) (b : Bool) (i : Nat) : (d.setFlag r b i).sessions = d.sessions := rfl
@[simp] theorem setFlag_subs (d : Dev) (r : Row) (b : Bool) (i : Nat) : (d.setFlag r b i).subs = d.subs := rfl
@[simp] theorem setFlag_transfers (d : Dev) (r : Row) (b : Bool) (i : Nat) : (d.setFlag r b i).transfers = d.transfers := rfl
@[simp] theorem setFlag_nextTransfer (d : Dev) (r : Row) (b : Bool) (i : Nat) : (d.setFlag r b i).nextTransfer = d.nextTransfer := rfl
@[simp] theorem setFlag_nextSub (d : Dev) (r : Row) (b : Bool) (i : Nat) : (d.setFlag r b i).nextSub = d.nextSub := rfl
@[simp] theorem setFlag_lastStatus (d : Dev) (r : Row) (b : Bool) (i : Nat) : (d.setFlag r b i).lastStatus = d.lastStatus := rfl
@[simp] theorem setFlag_blocked (d : Dev) (r : Row) (b : Bool) (i : Nat) : (d.setFlag r b i).blocked = d.blocked := rfl
@[simp] theorem setFlag_refusals (d : Dev) (r : Row) (b : Bool) (i : Nat) : (d.setFlag r b i).refusals = d.refusals := rfl
@[simp] theorem setFlag_cal (d : Dev) (r : Row) (b : Bool) (i : Nat) : (d.setFlag r b i).cal = d.cal := rfl
@[simp] theorem setFlag_motion (d : Dev) (r : Row) (b : Bool) (i : Nat) : (d.setFlag r b i).motion = d.motion := rfl
@[simp] theorem setFlag_motionDue (d : Dev) (r : Row) (b : Bool) (i : Nat) : (d.setFlag r b i).motionDue = d.motionDue := rfl
@[simp] theorem setFlag_lift (d : Dev) (r : Row) (b : Bool) (i : Nat) : (d.setFlag r b i).lift = d.lift := rfl
@[simp] theorem setFlag_log (d : Dev) (r : Row) (b : Bool) (i : Nat) : (d.setFlag r b i).log = d.log := rfl
@[simp] theorem setFlag_geo (d : Dev) (r : Row) (b : Bool) (i : Nat) : (d.setFlag r b i).geo = d.geo := rfl
@[simp] theorem setFlag_planes (d : Dev) (r : Row) (b : Bool) (i : Nat) : (d.setFlag r b i).planes = d.planes := rfl
@[simp] theorem setFlag_rend (d : Dev) (r : Row) (b : Bool) (i : Nat) : (d.setFlag r b i).rend = d.rend := rfl
@[simp] theorem setFlag_mix (d : Dev) (r : Row) (b : Bool) (i : Nat) : (d.setFlag r b i).mix = d.mix := rfl
@[simp] theorem setFlag_corr (d : Dev) (r : Row) (b : Bool) (i : Nat) : (d.setFlag r b i).corr = d.corr := rfl
@[simp] theorem setFlag_ports (d : Dev) (r : Row) (b : Bool) (i : Nat) : (d.setFlag r b i).ports = d.ports := rfl
@[simp] theorem setFlag_rxRings (d : Dev) (r : Row) (b : Bool) (i : Nat) : (d.setFlag r b i).rxRings = d.rxRings := rfl
@[simp] theorem setFlag_txRings (d : Dev) (r : Row) (b : Bool) (i : Nat) : (d.setFlag r b i).txRings = d.txRings := rfl
@[simp] theorem setFlag_flows (d : Dev) (r : Row) (b : Bool) (i : Nat) : (d.setFlag r b i).flows = d.flows := rfl
@[simp] theorem setFlag_pool (d : Dev) (r : Row) (b : Bool) (i : Nat) : (d.setFlag r b i).pool = d.pool := rfl
@[simp] theorem setFlag_tdm (d : Dev) (r : Row) (b : Bool) (i : Nat) : (d.setFlag r b i).tdm = d.tdm := rfl
@[simp] theorem setFlag_headset (d : Dev) (r : Row) (b : Bool) (i : Nat) : (d.setFlag r b i).headset = d.headset := rfl
@[simp] theorem setFlag_recd (d : Dev) (r : Row) (b : Bool) (i : Nat) : (d.setFlag r b i).recd = d.recd := rfl
@[simp] theorem setFlag_serving (d : Dev) (r : Row) (b : Bool) (i : Nat) : (d.setFlag r b i).serving = d.serving := rfl
@[simp] theorem setFlag_fwRead (d : Dev) (r : Row) (b : Bool) (i : Nat) : (d.setFlag r b i).fwRead = d.fwRead := rfl
@[simp] theorem setFlag_lastResult (d : Dev) (r : Row) (b : Bool) (i : Nat) : (d.setFlag r b i).lastResult = d.lastResult := rfl
@[simp] theorem setFlag_alm (d : Dev) (r : Row) (b : Bool) (i : Nat) : (d.setFlag r b i).alm = d.alm := rfl
@[simp] theorem setFlag_dram (d : Dev) (r : Row) (b : Bool) (i : Nat) : (d.setFlag r b i).dram = d.dram := rfl
@[simp] theorem setFlag_sram (d : Dev) (r : Row) (b : Bool) (i : Nat) : (d.setFlag r b i).sram = d.sram := rfl
@[simp] theorem setFlag_pair (d : Dev) (r : Row) (b : Bool) (i : Nat) : (d.setFlag r b i).pair = d.pair := rfl
@[simp] theorem setFlag_drada (d : Dev) (r : Row) (b : Bool) (i : Nat) : (d.setFlag r b i).drada = d.drada := rfl
@[simp] theorem setFlag_sup (d : Dev) (r : Row) (b : Bool) (i : Nat) : (d.setFlag r b i).sup = d.sup := rfl
@[simp] theorem setFlag_sec (d : Dev) (r : Row) (b : Bool) (i : Nat) : (d.setFlag r b i).sec = d.sec := rfl
@[simp] theorem setFlag_season (d : Dev) (r : Row) (b : Bool) (i : Nat) : (d.setFlag r b i).season = d.season := rfl
@[simp] theorem setFlag_gathers (d : Dev) (r : Row) (b : Bool) (i : Nat) : (d.setFlag r b i).gathers = d.gathers := rfl
@[simp] theorem setFlag_nextRequest (d : Dev) (r : Row) (b : Bool) (i : Nat) : (d.setFlag r b i).nextRequest = d.nextRequest := rfl
@[simp] theorem setFlag_heldEnds (d : Dev) (r : Row) (b : Bool) (i : Nat) : (d.setFlag r b i).heldEnds = d.heldEnds := rfl
@[simp] theorem setFlag_perturb (d : Dev) (r : Row) (b : Bool) (i : Nat) : (d.setFlag r b i).perturb = d.perturb := rfl

/-! #### keep -/

@[simp] theorem keep_regs (d : Dev) (r : Row) (i j : Nat) : (d.keep r i j).regs = d.regs := rfl
@[simp] theorem keep_force (d : Dev) (r : Row) (i j : Nat) : (d.keep r i j).force = d.force := rfl
@[simp] theorem keep_dated (d : Dev) (r : Row) (i j : Nat) : (d.keep r i j).dated = d.dated := rfl
@[simp] theorem keep_clock (d : Dev) (r : Row) (i j : Nat) : (d.keep r i j).clock = d.clock := rfl
@[simp] theorem keep_frcBase (d : Dev) (r : Row) (i j : Nat) : (d.keep r i j).frcBase = d.frcBase := rfl
@[simp] theorem keep_timers (d : Dev) (r : Row) (i j : Nat) : (d.keep r i j).timers = d.timers := rfl
@[simp] theorem keep_limiter (d : Dev) (r : Row) (i j : Nat) : (d.keep r i j).limiter = d.limiter := rfl
@[simp] theorem keep_freeCtr (d : Dev) (r : Row) (i j : Nat) : (d.keep r i j).freeCtr = d.freeCtr := rfl
@[simp] theorem keep_msc (d : Dev) (r : Row) (i j : Nat) : (d.keep r i j).msc = d.msc := rfl
@[simp] theorem keep_tickAt (d : Dev) (r : Row) (i j : Nat) : (d.keep r i j).tickAt = d.tickAt := rfl
@[simp] theorem keep_out (d : Dev) (r : Row) (i j : Nat) : (d.keep r i j).out = d.out := rfl
@[simp] theorem keep_power (d : Dev) (r : Row) (i j : Nat) : (d.keep r i j).power = d.power := rfl
@[simp] theorem keep_sessions (d : Dev) (r : Row) (i j : Nat) : (d.keep r i j).sessions = d.sessions := rfl
@[simp] theorem keep_subs (d : Dev) (r : Row) (i j : Nat) : (d.keep r i j).subs = d.subs := rfl
@[simp] theorem keep_transfers (d : Dev) (r : Row) (i j : Nat) : (d.keep r i j).transfers = d.transfers := rfl
@[simp] theorem keep_nextTransfer (d : Dev) (r : Row) (i j : Nat) : (d.keep r i j).nextTransfer = d.nextTransfer := rfl
@[simp] theorem keep_nextSub (d : Dev) (r : Row) (i j : Nat) : (d.keep r i j).nextSub = d.nextSub := rfl
@[simp] theorem keep_lastStatus (d : Dev) (r : Row) (i j : Nat) : (d.keep r i j).lastStatus = d.lastStatus := rfl
@[simp] theorem keep_blocked (d : Dev) (r : Row) (i j : Nat) : (d.keep r i j).blocked = d.blocked := rfl
@[simp] theorem keep_refusals (d : Dev) (r : Row) (i j : Nat) : (d.keep r i j).refusals = d.refusals := rfl
@[simp] theorem keep_cal (d : Dev) (r : Row) (i j : Nat) : (d.keep r i j).cal = d.cal := rfl
@[simp] theorem keep_motion (d : Dev) (r : Row) (i j : Nat) : (d.keep r i j).motion = d.motion := rfl
@[simp] theorem keep_motionDue (d : Dev) (r : Row) (i j : Nat) : (d.keep r i j).motionDue = d.motionDue := rfl
@[simp] theorem keep_lift (d : Dev) (r : Row) (i j : Nat) : (d.keep r i j).lift = d.lift := rfl
@[simp] theorem keep_log (d : Dev) (r : Row) (i j : Nat) : (d.keep r i j).log = d.log := rfl
@[simp] theorem keep_geo (d : Dev) (r : Row) (i j : Nat) : (d.keep r i j).geo = d.geo := rfl
@[simp] theorem keep_planes (d : Dev) (r : Row) (i j : Nat) : (d.keep r i j).planes = d.planes := rfl
@[simp] theorem keep_rend (d : Dev) (r : Row) (i j : Nat) : (d.keep r i j).rend = d.rend := rfl
@[simp] theorem keep_mix (d : Dev) (r : Row) (i j : Nat) : (d.keep r i j).mix = d.mix := rfl
@[simp] theorem keep_corr (d : Dev) (r : Row) (i j : Nat) : (d.keep r i j).corr = d.corr := rfl
@[simp] theorem keep_ports (d : Dev) (r : Row) (i j : Nat) : (d.keep r i j).ports = d.ports := rfl
@[simp] theorem keep_rxRings (d : Dev) (r : Row) (i j : Nat) : (d.keep r i j).rxRings = d.rxRings := rfl
@[simp] theorem keep_txRings (d : Dev) (r : Row) (i j : Nat) : (d.keep r i j).txRings = d.txRings := rfl
@[simp] theorem keep_flows (d : Dev) (r : Row) (i j : Nat) : (d.keep r i j).flows = d.flows := rfl
@[simp] theorem keep_pool (d : Dev) (r : Row) (i j : Nat) : (d.keep r i j).pool = d.pool := rfl
@[simp] theorem keep_tdm (d : Dev) (r : Row) (i j : Nat) : (d.keep r i j).tdm = d.tdm := rfl
@[simp] theorem keep_headset (d : Dev) (r : Row) (i j : Nat) : (d.keep r i j).headset = d.headset := rfl
@[simp] theorem keep_recd (d : Dev) (r : Row) (i j : Nat) : (d.keep r i j).recd = d.recd := rfl
@[simp] theorem keep_serving (d : Dev) (r : Row) (i j : Nat) : (d.keep r i j).serving = d.serving := rfl
@[simp] theorem keep_fwRead (d : Dev) (r : Row) (i j : Nat) : (d.keep r i j).fwRead = d.fwRead := rfl
@[simp] theorem keep_lastResult (d : Dev) (r : Row) (i j : Nat) : (d.keep r i j).lastResult = d.lastResult := rfl
@[simp] theorem keep_alm (d : Dev) (r : Row) (i j : Nat) : (d.keep r i j).alm = d.alm := rfl
@[simp] theorem keep_dram (d : Dev) (r : Row) (i j : Nat) : (d.keep r i j).dram = d.dram := rfl
@[simp] theorem keep_sram (d : Dev) (r : Row) (i j : Nat) : (d.keep r i j).sram = d.sram := rfl
@[simp] theorem keep_pair (d : Dev) (r : Row) (i j : Nat) : (d.keep r i j).pair = d.pair := rfl
@[simp] theorem keep_drada (d : Dev) (r : Row) (i j : Nat) : (d.keep r i j).drada = d.drada := rfl
@[simp] theorem keep_sup (d : Dev) (r : Row) (i j : Nat) : (d.keep r i j).sup = d.sup := rfl
@[simp] theorem keep_sec (d : Dev) (r : Row) (i j : Nat) : (d.keep r i j).sec = d.sec := rfl
@[simp] theorem keep_season (d : Dev) (r : Row) (i j : Nat) : (d.keep r i j).season = d.season := rfl
@[simp] theorem keep_gathers (d : Dev) (r : Row) (i j : Nat) : (d.keep r i j).gathers = d.gathers := rfl
@[simp] theorem keep_nextRequest (d : Dev) (r : Row) (i j : Nat) : (d.keep r i j).nextRequest = d.nextRequest := rfl
@[simp] theorem keep_heldEnds (d : Dev) (r : Row) (i j : Nat) : (d.keep r i j).heldEnds = d.heldEnds := rfl
@[simp] theorem keep_perturb (d : Dev) (r : Row) (i j : Nat) : (d.keep r i j).perturb = d.perturb := rfl

/-! #### setTimer -/

@[simp] theorem setTimer_regs (d : Dev) (k t : Nat) : (d.setTimer k t).regs = d.regs := rfl
@[simp] theorem setTimer_store (d : Dev) (k t : Nat) : (d.setTimer k t).store = d.store := rfl
@[simp] theorem setTimer_force (d : Dev) (k t : Nat) : (d.setTimer k t).force = d.force := rfl
@[simp] theorem setTimer_dated (d : Dev) (k t : Nat) : (d.setTimer k t).dated = d.dated := rfl
@[simp] theorem setTimer_clock (d : Dev) (k t : Nat) : (d.setTimer k t).clock = d.clock := rfl
@[simp] theorem setTimer_frcBase (d : Dev) (k t : Nat) : (d.setTimer k t).frcBase = d.frcBase := rfl
@[simp] theorem setTimer_limiter (d : Dev) (k t : Nat) : (d.setTimer k t).limiter = d.limiter := rfl
@[simp] theorem setTimer_freeCtr (d : Dev) (k t : Nat) : (d.setTimer k t).freeCtr = d.freeCtr := rfl
@[simp] theorem setTimer_msc (d : Dev) (k t : Nat) : (d.setTimer k t).msc = d.msc := rfl
@[simp] theorem setTimer_tickAt (d : Dev) (k t : Nat) : (d.setTimer k t).tickAt = d.tickAt := rfl
@[simp] theorem setTimer_out (d : Dev) (k t : Nat) : (d.setTimer k t).out = d.out := rfl
@[simp] theorem setTimer_power (d : Dev) (k t : Nat) : (d.setTimer k t).power = d.power := rfl
@[simp] theorem setTimer_sessions (d : Dev) (k t : Nat) : (d.setTimer k t).sessions = d.sessions := rfl
@[simp] theorem setTimer_subs (d : Dev) (k t : Nat) : (d.setTimer k t).subs = d.subs := rfl
@[simp] theorem setTimer_transfers (d : Dev) (k t : Nat) : (d.setTimer k t).transfers = d.transfers := rfl
@[simp] theorem setTimer_nextTransfer (d : Dev) (k t : Nat) : (d.setTimer k t).nextTransfer = d.nextTransfer := rfl
@[simp] theorem setTimer_nextSub (d : Dev) (k t : Nat) : (d.setTimer k t).nextSub = d.nextSub := rfl
@[simp] theorem setTimer_lastStatus (d : Dev) (k t : Nat) : (d.setTimer k t).lastStatus = d.lastStatus := rfl
@[simp] theorem setTimer_blocked (d : Dev) (k t : Nat) : (d.setTimer k t).blocked = d.blocked := rfl
@[simp] theorem setTimer_refusals (d : Dev) (k t : Nat) : (d.setTimer k t).refusals = d.refusals := rfl
@[simp] theorem setTimer_cal (d : Dev) (k t : Nat) : (d.setTimer k t).cal = d.cal := rfl
@[simp] theorem setTimer_motion (d : Dev) (k t : Nat) : (d.setTimer k t).motion = d.motion := rfl
@[simp] theorem setTimer_motionDue (d : Dev) (k t : Nat) : (d.setTimer k t).motionDue = d.motionDue := rfl
@[simp] theorem setTimer_lift (d : Dev) (k t : Nat) : (d.setTimer k t).lift = d.lift := rfl
@[simp] theorem setTimer_log (d : Dev) (k t : Nat) : (d.setTimer k t).log = d.log := rfl
@[simp] theorem setTimer_geo (d : Dev) (k t : Nat) : (d.setTimer k t).geo = d.geo := rfl
@[simp] theorem setTimer_planes (d : Dev) (k t : Nat) : (d.setTimer k t).planes = d.planes := rfl
@[simp] theorem setTimer_rend (d : Dev) (k t : Nat) : (d.setTimer k t).rend = d.rend := rfl
@[simp] theorem setTimer_mix (d : Dev) (k t : Nat) : (d.setTimer k t).mix = d.mix := rfl
@[simp] theorem setTimer_corr (d : Dev) (k t : Nat) : (d.setTimer k t).corr = d.corr := rfl
@[simp] theorem setTimer_ports (d : Dev) (k t : Nat) : (d.setTimer k t).ports = d.ports := rfl
@[simp] theorem setTimer_rxRings (d : Dev) (k t : Nat) : (d.setTimer k t).rxRings = d.rxRings := rfl
@[simp] theorem setTimer_txRings (d : Dev) (k t : Nat) : (d.setTimer k t).txRings = d.txRings := rfl
@[simp] theorem setTimer_flows (d : Dev) (k t : Nat) : (d.setTimer k t).flows = d.flows := rfl
@[simp] theorem setTimer_pool (d : Dev) (k t : Nat) : (d.setTimer k t).pool = d.pool := rfl
@[simp] theorem setTimer_tdm (d : Dev) (k t : Nat) : (d.setTimer k t).tdm = d.tdm := rfl
@[simp] theorem setTimer_headset (d : Dev) (k t : Nat) : (d.setTimer k t).headset = d.headset := rfl
@[simp] theorem setTimer_recd (d : Dev) (k t : Nat) : (d.setTimer k t).recd = d.recd := rfl
@[simp] theorem setTimer_serving (d : Dev) (k t : Nat) : (d.setTimer k t).serving = d.serving := rfl
@[simp] theorem setTimer_fwRead (d : Dev) (k t : Nat) : (d.setTimer k t).fwRead = d.fwRead := rfl
@[simp] theorem setTimer_lastResult (d : Dev) (k t : Nat) : (d.setTimer k t).lastResult = d.lastResult := rfl
@[simp] theorem setTimer_alm (d : Dev) (k t : Nat) : (d.setTimer k t).alm = d.alm := rfl
@[simp] theorem setTimer_dram (d : Dev) (k t : Nat) : (d.setTimer k t).dram = d.dram := rfl
@[simp] theorem setTimer_sram (d : Dev) (k t : Nat) : (d.setTimer k t).sram = d.sram := rfl
@[simp] theorem setTimer_pair (d : Dev) (k t : Nat) : (d.setTimer k t).pair = d.pair := rfl
@[simp] theorem setTimer_drada (d : Dev) (k t : Nat) : (d.setTimer k t).drada = d.drada := rfl
@[simp] theorem setTimer_sup (d : Dev) (k t : Nat) : (d.setTimer k t).sup = d.sup := rfl
@[simp] theorem setTimer_sec (d : Dev) (k t : Nat) : (d.setTimer k t).sec = d.sec := rfl
@[simp] theorem setTimer_season (d : Dev) (k t : Nat) : (d.setTimer k t).season = d.season := rfl
@[simp] theorem setTimer_gathers (d : Dev) (k t : Nat) : (d.setTimer k t).gathers = d.gathers := rfl
@[simp] theorem setTimer_nextRequest (d : Dev) (k t : Nat) : (d.setTimer k t).nextRequest = d.nextRequest := rfl
@[simp] theorem setTimer_heldEnds (d : Dev) (k t : Nat) : (d.setTimer k t).heldEnds = d.heldEnds := rfl
@[simp] theorem setTimer_perturb (d : Dev) (k t : Nat) : (d.setTimer k t).perturb = d.perturb := rfl

/-! #### emit -/

@[simp] theorem emit_regs (o : Out) (d : Dev) : (d.emit o).regs = d.regs := rfl
@[simp] theorem emit_store (o : Out) (d : Dev) : (d.emit o).store = d.store := rfl
@[simp] theorem emit_force (o : Out) (d : Dev) : (d.emit o).force = d.force := rfl
@[simp] theorem emit_dated (o : Out) (d : Dev) : (d.emit o).dated = d.dated := rfl
@[simp] theorem emit_clock (o : Out) (d : Dev) : (d.emit o).clock = d.clock := rfl
@[simp] theorem emit_frcBase (o : Out) (d : Dev) : (d.emit o).frcBase = d.frcBase := rfl
@[simp] theorem emit_timers (o : Out) (d : Dev) : (d.emit o).timers = d.timers := rfl
@[simp] theorem emit_limiter (o : Out) (d : Dev) : (d.emit o).limiter = d.limiter := rfl
@[simp] theorem emit_freeCtr (o : Out) (d : Dev) : (d.emit o).freeCtr = d.freeCtr := rfl
@[simp] theorem emit_msc (o : Out) (d : Dev) : (d.emit o).msc = d.msc := rfl
@[simp] theorem emit_tickAt (o : Out) (d : Dev) : (d.emit o).tickAt = d.tickAt := rfl
@[simp] theorem emit_power (o : Out) (d : Dev) : (d.emit o).power = d.power := rfl
@[simp] theorem emit_sessions (o : Out) (d : Dev) : (d.emit o).sessions = d.sessions := rfl
@[simp] theorem emit_subs (o : Out) (d : Dev) : (d.emit o).subs = d.subs := rfl
@[simp] theorem emit_transfers (o : Out) (d : Dev) : (d.emit o).transfers = d.transfers := rfl
@[simp] theorem emit_nextTransfer (o : Out) (d : Dev) : (d.emit o).nextTransfer = d.nextTransfer := rfl
@[simp] theorem emit_nextSub (o : Out) (d : Dev) : (d.emit o).nextSub = d.nextSub := rfl
@[simp] theorem emit_lastStatus (o : Out) (d : Dev) : (d.emit o).lastStatus = d.lastStatus := rfl
@[simp] theorem emit_blocked (o : Out) (d : Dev) : (d.emit o).blocked = d.blocked := rfl
@[simp] theorem emit_refusals (o : Out) (d : Dev) : (d.emit o).refusals = d.refusals := rfl
@[simp] theorem emit_cal (o : Out) (d : Dev) : (d.emit o).cal = d.cal := rfl
@[simp] theorem emit_motion (o : Out) (d : Dev) : (d.emit o).motion = d.motion := rfl
@[simp] theorem emit_motionDue (o : Out) (d : Dev) : (d.emit o).motionDue = d.motionDue := rfl
@[simp] theorem emit_lift (o : Out) (d : Dev) : (d.emit o).lift = d.lift := rfl
@[simp] theorem emit_log (o : Out) (d : Dev) : (d.emit o).log = d.log := rfl
@[simp] theorem emit_geo (o : Out) (d : Dev) : (d.emit o).geo = d.geo := rfl
@[simp] theorem emit_planes (o : Out) (d : Dev) : (d.emit o).planes = d.planes := rfl
@[simp] theorem emit_rend (o : Out) (d : Dev) : (d.emit o).rend = d.rend := rfl
@[simp] theorem emit_mix (o : Out) (d : Dev) : (d.emit o).mix = d.mix := rfl
@[simp] theorem emit_corr (o : Out) (d : Dev) : (d.emit o).corr = d.corr := rfl
@[simp] theorem emit_ports (o : Out) (d : Dev) : (d.emit o).ports = d.ports := rfl
@[simp] theorem emit_rxRings (o : Out) (d : Dev) : (d.emit o).rxRings = d.rxRings := rfl
@[simp] theorem emit_txRings (o : Out) (d : Dev) : (d.emit o).txRings = d.txRings := rfl
@[simp] theorem emit_flows (o : Out) (d : Dev) : (d.emit o).flows = d.flows := rfl
@[simp] theorem emit_pool (o : Out) (d : Dev) : (d.emit o).pool = d.pool := rfl
@[simp] theorem emit_tdm (o : Out) (d : Dev) : (d.emit o).tdm = d.tdm := rfl
@[simp] theorem emit_headset (o : Out) (d : Dev) : (d.emit o).headset = d.headset := rfl
@[simp] theorem emit_recd (o : Out) (d : Dev) : (d.emit o).recd = d.recd := rfl
@[simp] theorem emit_serving (o : Out) (d : Dev) : (d.emit o).serving = d.serving := rfl
@[simp] theorem emit_fwRead (o : Out) (d : Dev) : (d.emit o).fwRead = d.fwRead := rfl
@[simp] theorem emit_lastResult (o : Out) (d : Dev) : (d.emit o).lastResult = d.lastResult := rfl
@[simp] theorem emit_alm (o : Out) (d : Dev) : (d.emit o).alm = d.alm := rfl
@[simp] theorem emit_dram (o : Out) (d : Dev) : (d.emit o).dram = d.dram := rfl
@[simp] theorem emit_sram (o : Out) (d : Dev) : (d.emit o).sram = d.sram := rfl
@[simp] theorem emit_pair (o : Out) (d : Dev) : (d.emit o).pair = d.pair := rfl
@[simp] theorem emit_drada (o : Out) (d : Dev) : (d.emit o).drada = d.drada := rfl
@[simp] theorem emit_sup (o : Out) (d : Dev) : (d.emit o).sup = d.sup := rfl
@[simp] theorem emit_sec (o : Out) (d : Dev) : (d.emit o).sec = d.sec := rfl
@[simp] theorem emit_season (o : Out) (d : Dev) : (d.emit o).season = d.season := rfl
@[simp] theorem emit_gathers (o : Out) (d : Dev) : (d.emit o).gathers = d.gathers := rfl
@[simp] theorem emit_nextRequest (o : Out) (d : Dev) : (d.emit o).nextRequest = d.nextRequest := rfl
@[simp] theorem emit_heldEnds (o : Out) (d : Dev) : (d.emit o).heldEnds = d.heldEnds := rfl
@[simp] theorem emit_perturb (o : Out) (d : Dev) : (d.emit o).perturb = d.perturb := rfl

/-! #### setPort -/

@[simp] theorem setPort_regs (d : Dev) (p : Nat) (f : Port → Port) : (d.setPort p f).regs = d.regs := rfl
@[simp] theorem setPort_store (d : Dev) (p : Nat) (f : Port → Port) : (d.setPort p f).store = d.store := rfl
@[simp] theorem setPort_force (d : Dev) (p : Nat) (f : Port → Port) : (d.setPort p f).force = d.force := rfl
@[simp] theorem setPort_dated (d : Dev) (p : Nat) (f : Port → Port) : (d.setPort p f).dated = d.dated := rfl
@[simp] theorem setPort_clock (d : Dev) (p : Nat) (f : Port → Port) : (d.setPort p f).clock = d.clock := rfl
@[simp] theorem setPort_frcBase (d : Dev) (p : Nat) (f : Port → Port) : (d.setPort p f).frcBase = d.frcBase := rfl
@[simp] theorem setPort_timers (d : Dev) (p : Nat) (f : Port → Port) : (d.setPort p f).timers = d.timers := rfl
@[simp] theorem setPort_limiter (d : Dev) (p : Nat) (f : Port → Port) : (d.setPort p f).limiter = d.limiter := rfl
@[simp] theorem setPort_freeCtr (d : Dev) (p : Nat) (f : Port → Port) : (d.setPort p f).freeCtr = d.freeCtr := rfl
@[simp] theorem setPort_msc (d : Dev) (p : Nat) (f : Port → Port) : (d.setPort p f).msc = d.msc := rfl
@[simp] theorem setPort_tickAt (d : Dev) (p : Nat) (f : Port → Port) : (d.setPort p f).tickAt = d.tickAt := rfl
@[simp] theorem setPort_out (d : Dev) (p : Nat) (f : Port → Port) : (d.setPort p f).out = d.out := rfl
@[simp] theorem setPort_power (d : Dev) (p : Nat) (f : Port → Port) : (d.setPort p f).power = d.power := rfl
@[simp] theorem setPort_sessions (d : Dev) (p : Nat) (f : Port → Port) : (d.setPort p f).sessions = d.sessions := rfl
@[simp] theorem setPort_subs (d : Dev) (p : Nat) (f : Port → Port) : (d.setPort p f).subs = d.subs := rfl
@[simp] theorem setPort_transfers (d : Dev) (p : Nat) (f : Port → Port) : (d.setPort p f).transfers = d.transfers := rfl
@[simp] theorem setPort_nextTransfer (d : Dev) (p : Nat) (f : Port → Port) : (d.setPort p f).nextTransfer = d.nextTransfer := rfl
@[simp] theorem setPort_nextSub (d : Dev) (p : Nat) (f : Port → Port) : (d.setPort p f).nextSub = d.nextSub := rfl
@[simp] theorem setPort_lastStatus (d : Dev) (p : Nat) (f : Port → Port) : (d.setPort p f).lastStatus = d.lastStatus := rfl
@[simp] theorem setPort_blocked (d : Dev) (p : Nat) (f : Port → Port) : (d.setPort p f).blocked = d.blocked := rfl
@[simp] theorem setPort_refusals (d : Dev) (p : Nat) (f : Port → Port) : (d.setPort p f).refusals = d.refusals := rfl
@[simp] theorem setPort_cal (d : Dev) (p : Nat) (f : Port → Port) : (d.setPort p f).cal = d.cal := rfl
@[simp] theorem setPort_motion (d : Dev) (p : Nat) (f : Port → Port) : (d.setPort p f).motion = d.motion := rfl
@[simp] theorem setPort_motionDue (d : Dev) (p : Nat) (f : Port → Port) : (d.setPort p f).motionDue = d.motionDue := rfl
@[simp] theorem setPort_lift (d : Dev) (p : Nat) (f : Port → Port) : (d.setPort p f).lift = d.lift := rfl
@[simp] theorem setPort_log (d : Dev) (p : Nat) (f : Port → Port) : (d.setPort p f).log = d.log := rfl
@[simp] theorem setPort_geo (d : Dev) (p : Nat) (f : Port → Port) : (d.setPort p f).geo = d.geo := rfl
@[simp] theorem setPort_planes (d : Dev) (p : Nat) (f : Port → Port) : (d.setPort p f).planes = d.planes := rfl
@[simp] theorem setPort_rend (d : Dev) (p : Nat) (f : Port → Port) : (d.setPort p f).rend = d.rend := rfl
@[simp] theorem setPort_mix (d : Dev) (p : Nat) (f : Port → Port) : (d.setPort p f).mix = d.mix := rfl
@[simp] theorem setPort_corr (d : Dev) (p : Nat) (f : Port → Port) : (d.setPort p f).corr = d.corr := rfl
@[simp] theorem setPort_rxRings (d : Dev) (p : Nat) (f : Port → Port) : (d.setPort p f).rxRings = d.rxRings := rfl
@[simp] theorem setPort_txRings (d : Dev) (p : Nat) (f : Port → Port) : (d.setPort p f).txRings = d.txRings := rfl
@[simp] theorem setPort_flows (d : Dev) (p : Nat) (f : Port → Port) : (d.setPort p f).flows = d.flows := rfl
@[simp] theorem setPort_pool (d : Dev) (p : Nat) (f : Port → Port) : (d.setPort p f).pool = d.pool := rfl
@[simp] theorem setPort_tdm (d : Dev) (p : Nat) (f : Port → Port) : (d.setPort p f).tdm = d.tdm := rfl
@[simp] theorem setPort_headset (d : Dev) (p : Nat) (f : Port → Port) : (d.setPort p f).headset = d.headset := rfl
@[simp] theorem setPort_recd (d : Dev) (p : Nat) (f : Port → Port) : (d.setPort p f).recd = d.recd := rfl
@[simp] theorem setPort_serving (d : Dev) (p : Nat) (f : Port → Port) : (d.setPort p f).serving = d.serving := rfl
@[simp] theorem setPort_fwRead (d : Dev) (p : Nat) (f : Port → Port) : (d.setPort p f).fwRead = d.fwRead := rfl
@[simp] theorem setPort_lastResult (d : Dev) (p : Nat) (f : Port → Port) : (d.setPort p f).lastResult = d.lastResult := rfl
@[simp] theorem setPort_alm (d : Dev) (p : Nat) (f : Port → Port) : (d.setPort p f).alm = d.alm := rfl
@[simp] theorem setPort_dram (d : Dev) (p : Nat) (f : Port → Port) : (d.setPort p f).dram = d.dram := rfl
@[simp] theorem setPort_sram (d : Dev) (p : Nat) (f : Port → Port) : (d.setPort p f).sram = d.sram := rfl
@[simp] theorem setPort_pair (d : Dev) (p : Nat) (f : Port → Port) : (d.setPort p f).pair = d.pair := rfl
@[simp] theorem setPort_drada (d : Dev) (p : Nat) (f : Port → Port) : (d.setPort p f).drada = d.drada := rfl
@[simp] theorem setPort_sup (d : Dev) (p : Nat) (f : Port → Port) : (d.setPort p f).sup = d.sup := rfl
@[simp] theorem setPort_sec (d : Dev) (p : Nat) (f : Port → Port) : (d.setPort p f).sec = d.sec := rfl
@[simp] theorem setPort_season (d : Dev) (p : Nat) (f : Port → Port) : (d.setPort p f).season = d.season := rfl
@[simp] theorem setPort_gathers (d : Dev) (p : Nat) (f : Port → Port) : (d.setPort p f).gathers = d.gathers := rfl
@[simp] theorem setPort_nextRequest (d : Dev) (p : Nat) (f : Port → Port) : (d.setPort p f).nextRequest = d.nextRequest := rfl
@[simp] theorem setPort_heldEnds (d : Dev) (p : Nat) (f : Port → Port) : (d.setPort p f).heldEnds = d.heldEnds := rfl
@[simp] theorem setPort_perturb (d : Dev) (p : Nat) (f : Port → Port) : (d.setPort p f).perturb = d.perturb := rfl

/-! #### setStage -/

@[simp] theorem setStage_regs (f : Power → Power) (d : Dev) : (d.setStage f).regs = d.regs := rfl
@[simp] theorem setStage_store (f : Power → Power) (d : Dev) : (d.setStage f).store = d.store := rfl
@[simp] theorem setStage_force (f : Power → Power) (d : Dev) : (d.setStage f).force = d.force := rfl
@[simp] theorem setStage_dated (f : Power → Power) (d : Dev) : (d.setStage f).dated = d.dated := rfl
@[simp] theorem setStage_clock (f : Power → Power) (d : Dev) : (d.setStage f).clock = d.clock := rfl
@[simp] theorem setStage_frcBase (f : Power → Power) (d : Dev) : (d.setStage f).frcBase = d.frcBase := rfl
@[simp] theorem setStage_timers (f : Power → Power) (d : Dev) : (d.setStage f).timers = d.timers := rfl
@[simp] theorem setStage_limiter (f : Power → Power) (d : Dev) : (d.setStage f).limiter = d.limiter := rfl
@[simp] theorem setStage_freeCtr (f : Power → Power) (d : Dev) : (d.setStage f).freeCtr = d.freeCtr := rfl
@[simp] theorem setStage_msc (f : Power → Power) (d : Dev) : (d.setStage f).msc = d.msc := rfl
@[simp] theorem setStage_tickAt (f : Power → Power) (d : Dev) : (d.setStage f).tickAt = d.tickAt := rfl
@[simp] theorem setStage_out (f : Power → Power) (d : Dev) : (d.setStage f).out = d.out := rfl
@[simp] theorem setStage_sessions (f : Power → Power) (d : Dev) : (d.setStage f).sessions = d.sessions := rfl
@[simp] theorem setStage_subs (f : Power → Power) (d : Dev) : (d.setStage f).subs = d.subs := rfl
@[simp] theorem setStage_transfers (f : Power → Power) (d : Dev) : (d.setStage f).transfers = d.transfers := rfl
@[simp] theorem setStage_nextTransfer (f : Power → Power) (d : Dev) : (d.setStage f).nextTransfer = d.nextTransfer := rfl
@[simp] theorem setStage_nextSub (f : Power → Power) (d : Dev) : (d.setStage f).nextSub = d.nextSub := rfl
@[simp] theorem setStage_lastStatus (f : Power → Power) (d : Dev) : (d.setStage f).lastStatus = d.lastStatus := rfl
@[simp] theorem setStage_blocked (f : Power → Power) (d : Dev) : (d.setStage f).blocked = d.blocked := rfl
@[simp] theorem setStage_refusals (f : Power → Power) (d : Dev) : (d.setStage f).refusals = d.refusals := rfl
@[simp] theorem setStage_cal (f : Power → Power) (d : Dev) : (d.setStage f).cal = d.cal := rfl
@[simp] theorem setStage_motion (f : Power → Power) (d : Dev) : (d.setStage f).motion = d.motion := rfl
@[simp] theorem setStage_motionDue (f : Power → Power) (d : Dev) : (d.setStage f).motionDue = d.motionDue := rfl
@[simp] theorem setStage_lift (f : Power → Power) (d : Dev) : (d.setStage f).lift = d.lift := rfl
@[simp] theorem setStage_log (f : Power → Power) (d : Dev) : (d.setStage f).log = d.log := rfl
@[simp] theorem setStage_geo (f : Power → Power) (d : Dev) : (d.setStage f).geo = d.geo := rfl
@[simp] theorem setStage_planes (f : Power → Power) (d : Dev) : (d.setStage f).planes = d.planes := rfl
@[simp] theorem setStage_rend (f : Power → Power) (d : Dev) : (d.setStage f).rend = d.rend := rfl
@[simp] theorem setStage_mix (f : Power → Power) (d : Dev) : (d.setStage f).mix = d.mix := rfl
@[simp] theorem setStage_corr (f : Power → Power) (d : Dev) : (d.setStage f).corr = d.corr := rfl
@[simp] theorem setStage_ports (f : Power → Power) (d : Dev) : (d.setStage f).ports = d.ports := rfl
@[simp] theorem setStage_rxRings (f : Power → Power) (d : Dev) : (d.setStage f).rxRings = d.rxRings := rfl
@[simp] theorem setStage_txRings (f : Power → Power) (d : Dev) : (d.setStage f).txRings = d.txRings := rfl
@[simp] theorem setStage_flows (f : Power → Power) (d : Dev) : (d.setStage f).flows = d.flows := rfl
@[simp] theorem setStage_pool (f : Power → Power) (d : Dev) : (d.setStage f).pool = d.pool := rfl
@[simp] theorem setStage_tdm (f : Power → Power) (d : Dev) : (d.setStage f).tdm = d.tdm := rfl
@[simp] theorem setStage_headset (f : Power → Power) (d : Dev) : (d.setStage f).headset = d.headset := rfl
@[simp] theorem setStage_recd (f : Power → Power) (d : Dev) : (d.setStage f).recd = d.recd := rfl
@[simp] theorem setStage_serving (f : Power → Power) (d : Dev) : (d.setStage f).serving = d.serving := rfl
@[simp] theorem setStage_fwRead (f : Power → Power) (d : Dev) : (d.setStage f).fwRead = d.fwRead := rfl
@[simp] theorem setStage_lastResult (f : Power → Power) (d : Dev) : (d.setStage f).lastResult = d.lastResult := rfl
@[simp] theorem setStage_alm (f : Power → Power) (d : Dev) : (d.setStage f).alm = d.alm := rfl
@[simp] theorem setStage_dram (f : Power → Power) (d : Dev) : (d.setStage f).dram = d.dram := rfl
@[simp] theorem setStage_sram (f : Power → Power) (d : Dev) : (d.setStage f).sram = d.sram := rfl
@[simp] theorem setStage_pair (f : Power → Power) (d : Dev) : (d.setStage f).pair = d.pair := rfl
@[simp] theorem setStage_drada (f : Power → Power) (d : Dev) : (d.setStage f).drada = d.drada := rfl
@[simp] theorem setStage_sup (f : Power → Power) (d : Dev) : (d.setStage f).sup = d.sup := rfl
@[simp] theorem setStage_sec (f : Power → Power) (d : Dev) : (d.setStage f).sec = d.sec := rfl
@[simp] theorem setStage_season (f : Power → Power) (d : Dev) : (d.setStage f).season = d.season := rfl
@[simp] theorem setStage_gathers (f : Power → Power) (d : Dev) : (d.setStage f).gathers = d.gathers := rfl
@[simp] theorem setStage_nextRequest (f : Power → Power) (d : Dev) : (d.setStage f).nextRequest = d.nextRequest := rfl
@[simp] theorem setStage_heldEnds (f : Power → Power) (d : Dev) : (d.setStage f).heldEnds = d.heldEnds := rfl
@[simp] theorem setStage_perturb (f : Power → Power) (d : Dev) : (d.setStage f).perturb = d.perturb := rfl

/-! #### setSeason -/

@[simp] theorem setSeason_regs (f : Season → Season) (d : Dev) : (d.setSeason f).regs = d.regs := rfl
@[simp] theorem setSeason_store (f : Season → Season) (d : Dev) : (d.setSeason f).store = d.store := rfl
@[simp] theorem setSeason_force (f : Season → Season) (d : Dev) : (d.setSeason f).force = d.force := rfl
@[simp] theorem setSeason_dated (f : Season → Season) (d : Dev) : (d.setSeason f).dated = d.dated := rfl
@[simp] theorem setSeason_clock (f : Season → Season) (d : Dev) : (d.setSeason f).clock = d.clock := rfl
@[simp] theorem setSeason_frcBase (f : Season → Season) (d : Dev) : (d.setSeason f).frcBase = d.frcBase := rfl
@[simp] theorem setSeason_timers (f : Season → Season) (d : Dev) : (d.setSeason f).timers = d.timers := rfl
@[simp] theorem setSeason_limiter (f : Season → Season) (d : Dev) : (d.setSeason f).limiter = d.limiter := rfl
@[simp] theorem setSeason_freeCtr (f : Season → Season) (d : Dev) : (d.setSeason f).freeCtr = d.freeCtr := rfl
@[simp] theorem setSeason_msc (f : Season → Season) (d : Dev) : (d.setSeason f).msc = d.msc := rfl
@[simp] theorem setSeason_tickAt (f : Season → Season) (d : Dev) : (d.setSeason f).tickAt = d.tickAt := rfl
@[simp] theorem setSeason_out (f : Season → Season) (d : Dev) : (d.setSeason f).out = d.out := rfl
@[simp] theorem setSeason_power (f : Season → Season) (d : Dev) : (d.setSeason f).power = d.power := rfl
@[simp] theorem setSeason_sessions (f : Season → Season) (d : Dev) : (d.setSeason f).sessions = d.sessions := rfl
@[simp] theorem setSeason_subs (f : Season → Season) (d : Dev) : (d.setSeason f).subs = d.subs := rfl
@[simp] theorem setSeason_transfers (f : Season → Season) (d : Dev) : (d.setSeason f).transfers = d.transfers := rfl
@[simp] theorem setSeason_nextTransfer (f : Season → Season) (d : Dev) : (d.setSeason f).nextTransfer = d.nextTransfer := rfl
@[simp] theorem setSeason_nextSub (f : Season → Season) (d : Dev) : (d.setSeason f).nextSub = d.nextSub := rfl
@[simp] theorem setSeason_lastStatus (f : Season → Season) (d : Dev) : (d.setSeason f).lastStatus = d.lastStatus := rfl
@[simp] theorem setSeason_blocked (f : Season → Season) (d : Dev) : (d.setSeason f).blocked = d.blocked := rfl
@[simp] theorem setSeason_refusals (f : Season → Season) (d : Dev) : (d.setSeason f).refusals = d.refusals := rfl
@[simp] theorem setSeason_cal (f : Season → Season) (d : Dev) : (d.setSeason f).cal = d.cal := rfl
@[simp] theorem setSeason_motion (f : Season → Season) (d : Dev) : (d.setSeason f).motion = d.motion := rfl
@[simp] theorem setSeason_motionDue (f : Season → Season) (d : Dev) : (d.setSeason f).motionDue = d.motionDue := rfl
@[simp] theorem setSeason_lift (f : Season → Season) (d : Dev) : (d.setSeason f).lift = d.lift := rfl
@[simp] theorem setSeason_log (f : Season → Season) (d : Dev) : (d.setSeason f).log = d.log := rfl
@[simp] theorem setSeason_geo (f : Season → Season) (d : Dev) : (d.setSeason f).geo = d.geo := rfl
@[simp] theorem setSeason_planes (f : Season → Season) (d : Dev) : (d.setSeason f).planes = d.planes := rfl
@[simp] theorem setSeason_rend (f : Season → Season) (d : Dev) : (d.setSeason f).rend = d.rend := rfl
@[simp] theorem setSeason_mix (f : Season → Season) (d : Dev) : (d.setSeason f).mix = d.mix := rfl
@[simp] theorem setSeason_corr (f : Season → Season) (d : Dev) : (d.setSeason f).corr = d.corr := rfl
@[simp] theorem setSeason_ports (f : Season → Season) (d : Dev) : (d.setSeason f).ports = d.ports := rfl
@[simp] theorem setSeason_rxRings (f : Season → Season) (d : Dev) : (d.setSeason f).rxRings = d.rxRings := rfl
@[simp] theorem setSeason_txRings (f : Season → Season) (d : Dev) : (d.setSeason f).txRings = d.txRings := rfl
@[simp] theorem setSeason_flows (f : Season → Season) (d : Dev) : (d.setSeason f).flows = d.flows := rfl
@[simp] theorem setSeason_pool (f : Season → Season) (d : Dev) : (d.setSeason f).pool = d.pool := rfl
@[simp] theorem setSeason_tdm (f : Season → Season) (d : Dev) : (d.setSeason f).tdm = d.tdm := rfl
@[simp] theorem setSeason_headset (f : Season → Season) (d : Dev) : (d.setSeason f).headset = d.headset := rfl
@[simp] theorem setSeason_recd (f : Season → Season) (d : Dev) : (d.setSeason f).recd = d.recd := rfl
@[simp] theorem setSeason_serving (f : Season → Season) (d : Dev) : (d.setSeason f).serving = d.serving := rfl
@[simp] theorem setSeason_fwRead (f : Season → Season) (d : Dev) : (d.setSeason f).fwRead = d.fwRead := rfl
@[simp] theorem setSeason_lastResult (f : Season → Season) (d : Dev) : (d.setSeason f).lastResult = d.lastResult := rfl
@[simp] theorem setSeason_alm (f : Season → Season) (d : Dev) : (d.setSeason f).alm = d.alm := rfl
@[simp] theorem setSeason_dram (f : Season → Season) (d : Dev) : (d.setSeason f).dram = d.dram := rfl
@[simp] theorem setSeason_sram (f : Season → Season) (d : Dev) : (d.setSeason f).sram = d.sram := rfl
@[simp] theorem setSeason_pair (f : Season → Season) (d : Dev) : (d.setSeason f).pair = d.pair := rfl
@[simp] theorem setSeason_drada (f : Season → Season) (d : Dev) : (d.setSeason f).drada = d.drada := rfl
@[simp] theorem setSeason_sup (f : Season → Season) (d : Dev) : (d.setSeason f).sup = d.sup := rfl
@[simp] theorem setSeason_sec (f : Season → Season) (d : Dev) : (d.setSeason f).sec = d.sec := rfl
@[simp] theorem setSeason_gathers (f : Season → Season) (d : Dev) : (d.setSeason f).gathers = d.gathers := rfl
@[simp] theorem setSeason_nextRequest (f : Season → Season) (d : Dev) : (d.setSeason f).nextRequest = d.nextRequest := rfl
@[simp] theorem setSeason_heldEnds (f : Season → Season) (d : Dev) : (d.setSeason f).heldEnds = d.heldEnds := rfl
@[simp] theorem setSeason_perturb (f : Season → Season) (d : Dev) : (d.setSeason f).perturb = d.perturb := rfl

/-! #### setPerturb -/

@[simp] theorem setPerturb_regs (f : Perturb → Perturb) (d : Dev) : (d.setPerturb f).regs = d.regs := rfl
@[simp] theorem setPerturb_store (f : Perturb → Perturb) (d : Dev) : (d.setPerturb f).store = d.store := rfl
@[simp] theorem setPerturb_force (f : Perturb → Perturb) (d : Dev) : (d.setPerturb f).force = d.force := rfl
@[simp] theorem setPerturb_dated (f : Perturb → Perturb) (d : Dev) : (d.setPerturb f).dated = d.dated := rfl
@[simp] theorem setPerturb_clock (f : Perturb → Perturb) (d : Dev) : (d.setPerturb f).clock = d.clock := rfl
@[simp] theorem setPerturb_frcBase (f : Perturb → Perturb) (d : Dev) : (d.setPerturb f).frcBase = d.frcBase := rfl
@[simp] theorem setPerturb_timers (f : Perturb → Perturb) (d : Dev) : (d.setPerturb f).timers = d.timers := rfl
@[simp] theorem setPerturb_limiter (f : Perturb → Perturb) (d : Dev) : (d.setPerturb f).limiter = d.limiter := rfl
@[simp] theorem setPerturb_freeCtr (f : Perturb → Perturb) (d : Dev) : (d.setPerturb f).freeCtr = d.freeCtr := rfl
@[simp] theorem setPerturb_msc (f : Perturb → Perturb) (d : Dev) : (d.setPerturb f).msc = d.msc := rfl
@[simp] theorem setPerturb_tickAt (f : Perturb → Perturb) (d : Dev) : (d.setPerturb f).tickAt = d.tickAt := rfl
@[simp] theorem setPerturb_out (f : Perturb → Perturb) (d : Dev) : (d.setPerturb f).out = d.out := rfl
@[simp] theorem setPerturb_power (f : Perturb → Perturb) (d : Dev) : (d.setPerturb f).power = d.power := rfl
@[simp] theorem setPerturb_sessions (f : Perturb → Perturb) (d : Dev) : (d.setPerturb f).sessions = d.sessions := rfl
@[simp] theorem setPerturb_subs (f : Perturb → Perturb) (d : Dev) : (d.setPerturb f).subs = d.subs := rfl
@[simp] theorem setPerturb_transfers (f : Perturb → Perturb) (d : Dev) : (d.setPerturb f).transfers = d.transfers := rfl
@[simp] theorem setPerturb_nextTransfer (f : Perturb → Perturb) (d : Dev) : (d.setPerturb f).nextTransfer = d.nextTransfer := rfl
@[simp] theorem setPerturb_nextSub (f : Perturb → Perturb) (d : Dev) : (d.setPerturb f).nextSub = d.nextSub := rfl
@[simp] theorem setPerturb_lastStatus (f : Perturb → Perturb) (d : Dev) : (d.setPerturb f).lastStatus = d.lastStatus := rfl
@[simp] theorem setPerturb_blocked (f : Perturb → Perturb) (d : Dev) : (d.setPerturb f).blocked = d.blocked := rfl
@[simp] theorem setPerturb_refusals (f : Perturb → Perturb) (d : Dev) : (d.setPerturb f).refusals = d.refusals := rfl
@[simp] theorem setPerturb_cal (f : Perturb → Perturb) (d : Dev) : (d.setPerturb f).cal = d.cal := rfl
@[simp] theorem setPerturb_motion (f : Perturb → Perturb) (d : Dev) : (d.setPerturb f).motion = d.motion := rfl
@[simp] theorem setPerturb_motionDue (f : Perturb → Perturb) (d : Dev) : (d.setPerturb f).motionDue = d.motionDue := rfl
@[simp] theorem setPerturb_lift (f : Perturb → Perturb) (d : Dev) : (d.setPerturb f).lift = d.lift := rfl
@[simp] theorem setPerturb_log (f : Perturb → Perturb) (d : Dev) : (d.setPerturb f).log = d.log := rfl
@[simp] theorem setPerturb_geo (f : Perturb → Perturb) (d : Dev) : (d.setPerturb f).geo = d.geo := rfl
@[simp] theorem setPerturb_planes (f : Perturb → Perturb) (d : Dev) : (d.setPerturb f).planes = d.planes := rfl
@[simp] theorem setPerturb_rend (f : Perturb → Perturb) (d : Dev) : (d.setPerturb f).rend = d.rend := rfl
@[simp] theorem setPerturb_mix (f : Perturb → Perturb) (d : Dev) : (d.setPerturb f).mix = d.mix := rfl
@[simp] theorem setPerturb_corr (f : Perturb → Perturb) (d : Dev) : (d.setPerturb f).corr = d.corr := rfl
@[simp] theorem setPerturb_ports (f : Perturb → Perturb) (d : Dev) : (d.setPerturb f).ports = d.ports := rfl
@[simp] theorem setPerturb_rxRings (f : Perturb → Perturb) (d : Dev) : (d.setPerturb f).rxRings = d.rxRings := rfl
@[simp] theorem setPerturb_txRings (f : Perturb → Perturb) (d : Dev) : (d.setPerturb f).txRings = d.txRings := rfl
@[simp] theorem setPerturb_flows (f : Perturb → Perturb) (d : Dev) : (d.setPerturb f).flows = d.flows := rfl
@[simp] theorem setPerturb_pool (f : Perturb → Perturb) (d : Dev) : (d.setPerturb f).pool = d.pool := rfl
@[simp] theorem setPerturb_tdm (f : Perturb → Perturb) (d : Dev) : (d.setPerturb f).tdm = d.tdm := rfl
@[simp] theorem setPerturb_headset (f : Perturb → Perturb) (d : Dev) : (d.setPerturb f).headset = d.headset := rfl
@[simp] theorem setPerturb_recd (f : Perturb → Perturb) (d : Dev) : (d.setPerturb f).recd = d.recd := rfl
@[simp] theorem setPerturb_serving (f : Perturb → Perturb) (d : Dev) : (d.setPerturb f).serving = d.serving := rfl
@[simp] theorem setPerturb_fwRead (f : Perturb → Perturb) (d : Dev) : (d.setPerturb f).fwRead = d.fwRead := rfl
@[simp] theorem setPerturb_lastResult (f : Perturb → Perturb) (d : Dev) : (d.setPerturb f).lastResult = d.lastResult := rfl
@[simp] theorem setPerturb_alm (f : Perturb → Perturb) (d : Dev) : (d.setPerturb f).alm = d.alm := rfl
@[simp] theorem setPerturb_dram (f : Perturb → Perturb) (d : Dev) : (d.setPerturb f).dram = d.dram := rfl
@[simp] theorem setPerturb_sram (f : Perturb → Perturb) (d : Dev) : (d.setPerturb f).sram = d.sram := rfl
@[simp] theorem setPerturb_pair (f : Perturb → Perturb) (d : Dev) : (d.setPerturb f).pair = d.pair := rfl
@[simp] theorem setPerturb_drada (f : Perturb → Perturb) (d : Dev) : (d.setPerturb f).drada = d.drada := rfl
@[simp] theorem setPerturb_sup (f : Perturb → Perturb) (d : Dev) : (d.setPerturb f).sup = d.sup := rfl
@[simp] theorem setPerturb_sec (f : Perturb → Perturb) (d : Dev) : (d.setPerturb f).sec = d.sec := rfl
@[simp] theorem setPerturb_season (f : Perturb → Perturb) (d : Dev) : (d.setPerturb f).season = d.season := rfl
@[simp] theorem setPerturb_gathers (f : Perturb → Perturb) (d : Dev) : (d.setPerturb f).gathers = d.gathers := rfl
@[simp] theorem setPerturb_nextRequest (f : Perturb → Perturb) (d : Dev) : (d.setPerturb f).nextRequest = d.nextRequest := rfl
@[simp] theorem setPerturb_heldEnds (f : Perturb → Perturb) (d : Dev) : (d.setPerturb f).heldEnds = d.heldEnds := rfl

/-! #### setSec -/

@[simp] theorem setSec_regs (f : Security → Security) (d : Dev) : (d.setSec f).regs = d.regs := rfl
@[simp] theorem setSec_store (f : Security → Security) (d : Dev) : (d.setSec f).store = d.store := rfl
@[simp] theorem setSec_force (f : Security → Security) (d : Dev) : (d.setSec f).force = d.force := rfl
@[simp] theorem setSec_dated (f : Security → Security) (d : Dev) : (d.setSec f).dated = d.dated := rfl
@[simp] theorem setSec_clock (f : Security → Security) (d : Dev) : (d.setSec f).clock = d.clock := rfl
@[simp] theorem setSec_frcBase (f : Security → Security) (d : Dev) : (d.setSec f).frcBase = d.frcBase := rfl
@[simp] theorem setSec_timers (f : Security → Security) (d : Dev) : (d.setSec f).timers = d.timers := rfl
@[simp] theorem setSec_limiter (f : Security → Security) (d : Dev) : (d.setSec f).limiter = d.limiter := rfl
@[simp] theorem setSec_freeCtr (f : Security → Security) (d : Dev) : (d.setSec f).freeCtr = d.freeCtr := rfl
@[simp] theorem setSec_msc (f : Security → Security) (d : Dev) : (d.setSec f).msc = d.msc := rfl
@[simp] theorem setSec_tickAt (f : Security → Security) (d : Dev) : (d.setSec f).tickAt = d.tickAt := rfl
@[simp] theorem setSec_out (f : Security → Security) (d : Dev) : (d.setSec f).out = d.out := rfl
@[simp] theorem setSec_power (f : Security → Security) (d : Dev) : (d.setSec f).power = d.power := rfl
@[simp] theorem setSec_sessions (f : Security → Security) (d : Dev) : (d.setSec f).sessions = d.sessions := rfl
@[simp] theorem setSec_subs (f : Security → Security) (d : Dev) : (d.setSec f).subs = d.subs := rfl
@[simp] theorem setSec_transfers (f : Security → Security) (d : Dev) : (d.setSec f).transfers = d.transfers := rfl
@[simp] theorem setSec_nextTransfer (f : Security → Security) (d : Dev) : (d.setSec f).nextTransfer = d.nextTransfer := rfl
@[simp] theorem setSec_nextSub (f : Security → Security) (d : Dev) : (d.setSec f).nextSub = d.nextSub := rfl
@[simp] theorem setSec_lastStatus (f : Security → Security) (d : Dev) : (d.setSec f).lastStatus = d.lastStatus := rfl
@[simp] theorem setSec_blocked (f : Security → Security) (d : Dev) : (d.setSec f).blocked = d.blocked := rfl
@[simp] theorem setSec_refusals (f : Security → Security) (d : Dev) : (d.setSec f).refusals = d.refusals := rfl
@[simp] theorem setSec_cal (f : Security → Security) (d : Dev) : (d.setSec f).cal = d.cal := rfl
@[simp] theorem setSec_motion (f : Security → Security) (d : Dev) : (d.setSec f).motion = d.motion := rfl
@[simp] theorem setSec_motionDue (f : Security → Security) (d : Dev) : (d.setSec f).motionDue = d.motionDue := rfl
@[simp] theorem setSec_lift (f : Security → Security) (d : Dev) : (d.setSec f).lift = d.lift := rfl
@[simp] theorem setSec_log (f : Security → Security) (d : Dev) : (d.setSec f).log = d.log := rfl
@[simp] theorem setSec_geo (f : Security → Security) (d : Dev) : (d.setSec f).geo = d.geo := rfl
@[simp] theorem setSec_planes (f : Security → Security) (d : Dev) : (d.setSec f).planes = d.planes := rfl
@[simp] theorem setSec_rend (f : Security → Security) (d : Dev) : (d.setSec f).rend = d.rend := rfl
@[simp] theorem setSec_mix (f : Security → Security) (d : Dev) : (d.setSec f).mix = d.mix := rfl
@[simp] theorem setSec_corr (f : Security → Security) (d : Dev) : (d.setSec f).corr = d.corr := rfl
@[simp] theorem setSec_ports (f : Security → Security) (d : Dev) : (d.setSec f).ports = d.ports := rfl
@[simp] theorem setSec_rxRings (f : Security → Security) (d : Dev) : (d.setSec f).rxRings = d.rxRings := rfl
@[simp] theorem setSec_txRings (f : Security → Security) (d : Dev) : (d.setSec f).txRings = d.txRings := rfl
@[simp] theorem setSec_flows (f : Security → Security) (d : Dev) : (d.setSec f).flows = d.flows := rfl
@[simp] theorem setSec_pool (f : Security → Security) (d : Dev) : (d.setSec f).pool = d.pool := rfl
@[simp] theorem setSec_tdm (f : Security → Security) (d : Dev) : (d.setSec f).tdm = d.tdm := rfl
@[simp] theorem setSec_headset (f : Security → Security) (d : Dev) : (d.setSec f).headset = d.headset := rfl
@[simp] theorem setSec_recd (f : Security → Security) (d : Dev) : (d.setSec f).recd = d.recd := rfl
@[simp] theorem setSec_serving (f : Security → Security) (d : Dev) : (d.setSec f).serving = d.serving := rfl
@[simp] theorem setSec_fwRead (f : Security → Security) (d : Dev) : (d.setSec f).fwRead = d.fwRead := rfl
@[simp] theorem setSec_lastResult (f : Security → Security) (d : Dev) : (d.setSec f).lastResult = d.lastResult := rfl
@[simp] theorem setSec_alm (f : Security → Security) (d : Dev) : (d.setSec f).alm = d.alm := rfl
@[simp] theorem setSec_dram (f : Security → Security) (d : Dev) : (d.setSec f).dram = d.dram := rfl
@[simp] theorem setSec_sram (f : Security → Security) (d : Dev) : (d.setSec f).sram = d.sram := rfl
@[simp] theorem setSec_pair (f : Security → Security) (d : Dev) : (d.setSec f).pair = d.pair := rfl
@[simp] theorem setSec_drada (f : Security → Security) (d : Dev) : (d.setSec f).drada = d.drada := rfl
@[simp] theorem setSec_sup (f : Security → Security) (d : Dev) : (d.setSec f).sup = d.sup := rfl
@[simp] theorem setSec_season (f : Security → Security) (d : Dev) : (d.setSec f).season = d.season := rfl
@[simp] theorem setSec_gathers (f : Security → Security) (d : Dev) : (d.setSec f).gathers = d.gathers := rfl
@[simp] theorem setSec_nextRequest (f : Security → Security) (d : Dev) : (d.setSec f).nextRequest = d.nextRequest := rfl
@[simp] theorem setSec_heldEnds (f : Security → Security) (d : Dev) : (d.setSec f).heldEnds = d.heldEnds := rfl
@[simp] theorem setSec_perturb (f : Security → Security) (d : Dev) : (d.setSec f).perturb = d.perturb := rfl

/-! #### setSram -/

@[simp] theorem setSram_regs (f : Sram → Sram) (d : Dev) : (d.setSram f).regs = d.regs := rfl
@[simp] theorem setSram_store (f : Sram → Sram) (d : Dev) : (d.setSram f).store = d.store := rfl
@[simp] theorem setSram_force (f : Sram → Sram) (d : Dev) : (d.setSram f).force = d.force := rfl
@[simp] theorem setSram_dated (f : Sram → Sram) (d : Dev) : (d.setSram f).dated = d.dated := rfl
@[simp] theorem setSram_clock (f : Sram → Sram) (d : Dev) : (d.setSram f).clock = d.clock := rfl
@[simp] theorem setSram_frcBase (f : Sram → Sram) (d : Dev) : (d.setSram f).frcBase = d.frcBase := rfl
@[simp] theorem setSram_timers (f : Sram → Sram) (d : Dev) : (d.setSram f).timers = d.timers := rfl
@[simp] theorem setSram_limiter (f : Sram → Sram) (d : Dev) : (d.setSram f).limiter = d.limiter := rfl
@[simp] theorem setSram_freeCtr (f : Sram → Sram) (d : Dev) : (d.setSram f).freeCtr = d.freeCtr := rfl
@[simp] theorem setSram_msc (f : Sram → Sram) (d : Dev) : (d.setSram f).msc = d.msc := rfl
@[simp] theorem setSram_tickAt (f : Sram → Sram) (d : Dev) : (d.setSram f).tickAt = d.tickAt := rfl
@[simp] theorem setSram_out (f : Sram → Sram) (d : Dev) : (d.setSram f).out = d.out := rfl
@[simp] theorem setSram_power (f : Sram → Sram) (d : Dev) : (d.setSram f).power = d.power := rfl
@[simp] theorem setSram_sessions (f : Sram → Sram) (d : Dev) : (d.setSram f).sessions = d.sessions := rfl
@[simp] theorem setSram_subs (f : Sram → Sram) (d : Dev) : (d.setSram f).subs = d.subs := rfl
@[simp] theorem setSram_transfers (f : Sram → Sram) (d : Dev) : (d.setSram f).transfers = d.transfers := rfl
@[simp] theorem setSram_nextTransfer (f : Sram → Sram) (d : Dev) : (d.setSram f).nextTransfer = d.nextTransfer := rfl
@[simp] theorem setSram_nextSub (f : Sram → Sram) (d : Dev) : (d.setSram f).nextSub = d.nextSub := rfl
@[simp] theorem setSram_lastStatus (f : Sram → Sram) (d : Dev) : (d.setSram f).lastStatus = d.lastStatus := rfl
@[simp] theorem setSram_blocked (f : Sram → Sram) (d : Dev) : (d.setSram f).blocked = d.blocked := rfl
@[simp] theorem setSram_refusals (f : Sram → Sram) (d : Dev) : (d.setSram f).refusals = d.refusals := rfl
@[simp] theorem setSram_cal (f : Sram → Sram) (d : Dev) : (d.setSram f).cal = d.cal := rfl
@[simp] theorem setSram_motion (f : Sram → Sram) (d : Dev) : (d.setSram f).motion = d.motion := rfl
@[simp] theorem setSram_motionDue (f : Sram → Sram) (d : Dev) : (d.setSram f).motionDue = d.motionDue := rfl
@[simp] theorem setSram_lift (f : Sram → Sram) (d : Dev) : (d.setSram f).lift = d.lift := rfl
@[simp] theorem setSram_log (f : Sram → Sram) (d : Dev) : (d.setSram f).log = d.log := rfl
@[simp] theorem setSram_geo (f : Sram → Sram) (d : Dev) : (d.setSram f).geo = d.geo := rfl
@[simp] theorem setSram_planes (f : Sram → Sram) (d : Dev) : (d.setSram f).planes = d.planes := rfl
@[simp] theorem setSram_rend (f : Sram → Sram) (d : Dev) : (d.setSram f).rend = d.rend := rfl
@[simp] theorem setSram_mix (f : Sram → Sram) (d : Dev) : (d.setSram f).mix = d.mix := rfl
@[simp] theorem setSram_corr (f : Sram → Sram) (d : Dev) : (d.setSram f).corr = d.corr := rfl
@[simp] theorem setSram_ports (f : Sram → Sram) (d : Dev) : (d.setSram f).ports = d.ports := rfl
@[simp] theorem setSram_rxRings (f : Sram → Sram) (d : Dev) : (d.setSram f).rxRings = d.rxRings := rfl
@[simp] theorem setSram_txRings (f : Sram → Sram) (d : Dev) : (d.setSram f).txRings = d.txRings := rfl
@[simp] theorem setSram_flows (f : Sram → Sram) (d : Dev) : (d.setSram f).flows = d.flows := rfl
@[simp] theorem setSram_pool (f : Sram → Sram) (d : Dev) : (d.setSram f).pool = d.pool := rfl
@[simp] theorem setSram_tdm (f : Sram → Sram) (d : Dev) : (d.setSram f).tdm = d.tdm := rfl
@[simp] theorem setSram_headset (f : Sram → Sram) (d : Dev) : (d.setSram f).headset = d.headset := rfl
@[simp] theorem setSram_recd (f : Sram → Sram) (d : Dev) : (d.setSram f).recd = d.recd := rfl
@[simp] theorem setSram_serving (f : Sram → Sram) (d : Dev) : (d.setSram f).serving = d.serving := rfl
@[simp] theorem setSram_fwRead (f : Sram → Sram) (d : Dev) : (d.setSram f).fwRead = d.fwRead := rfl
@[simp] theorem setSram_lastResult (f : Sram → Sram) (d : Dev) : (d.setSram f).lastResult = d.lastResult := rfl
@[simp] theorem setSram_alm (f : Sram → Sram) (d : Dev) : (d.setSram f).alm = d.alm := rfl
@[simp] theorem setSram_dram (f : Sram → Sram) (d : Dev) : (d.setSram f).dram = d.dram := rfl
@[simp] theorem setSram_pair (f : Sram → Sram) (d : Dev) : (d.setSram f).pair = d.pair := rfl
@[simp] theorem setSram_drada (f : Sram → Sram) (d : Dev) : (d.setSram f).drada = d.drada := rfl
@[simp] theorem setSram_sup (f : Sram → Sram) (d : Dev) : (d.setSram f).sup = d.sup := rfl
@[simp] theorem setSram_sec (f : Sram → Sram) (d : Dev) : (d.setSram f).sec = d.sec := rfl
@[simp] theorem setSram_season (f : Sram → Sram) (d : Dev) : (d.setSram f).season = d.season := rfl
@[simp] theorem setSram_gathers (f : Sram → Sram) (d : Dev) : (d.setSram f).gathers = d.gathers := rfl
@[simp] theorem setSram_nextRequest (f : Sram → Sram) (d : Dev) : (d.setSram f).nextRequest = d.nextRequest := rfl
@[simp] theorem setSram_heldEnds (f : Sram → Sram) (d : Dev) : (d.setSram f).heldEnds = d.heldEnds := rfl
@[simp] theorem setSram_perturb (f : Sram → Sram) (d : Dev) : (d.setSram f).perturb = d.perturb := rfl

/-! #### setSup -/

@[simp] theorem setSup_regs (f : Super → Super) (d : Dev) : (d.setSup f).regs = d.regs := rfl
@[simp] theorem setSup_store (f : Super → Super) (d : Dev) : (d.setSup f).store = d.store := rfl
@[simp] theorem setSup_force (f : Super → Super) (d : Dev) : (d.setSup f).force = d.force := rfl
@[simp] theorem setSup_dated (f : Super → Super) (d : Dev) : (d.setSup f).dated = d.dated := rfl
@[simp] theorem setSup_clock (f : Super → Super) (d : Dev) : (d.setSup f).clock = d.clock := rfl
@[simp] theorem setSup_frcBase (f : Super → Super) (d : Dev) : (d.setSup f).frcBase = d.frcBase := rfl
@[simp] theorem setSup_timers (f : Super → Super) (d : Dev) : (d.setSup f).timers = d.timers := rfl
@[simp] theorem setSup_limiter (f : Super → Super) (d : Dev) : (d.setSup f).limiter = d.limiter := rfl
@[simp] theorem setSup_freeCtr (f : Super → Super) (d : Dev) : (d.setSup f).freeCtr = d.freeCtr := rfl
@[simp] theorem setSup_msc (f : Super → Super) (d : Dev) : (d.setSup f).msc = d.msc := rfl
@[simp] theorem setSup_tickAt (f : Super → Super) (d : Dev) : (d.setSup f).tickAt = d.tickAt := rfl
@[simp] theorem setSup_out (f : Super → Super) (d : Dev) : (d.setSup f).out = d.out := rfl
@[simp] theorem setSup_power (f : Super → Super) (d : Dev) : (d.setSup f).power = d.power := rfl
@[simp] theorem setSup_sessions (f : Super → Super) (d : Dev) : (d.setSup f).sessions = d.sessions := rfl
@[simp] theorem setSup_subs (f : Super → Super) (d : Dev) : (d.setSup f).subs = d.subs := rfl
@[simp] theorem setSup_transfers (f : Super → Super) (d : Dev) : (d.setSup f).transfers = d.transfers := rfl
@[simp] theorem setSup_nextTransfer (f : Super → Super) (d : Dev) : (d.setSup f).nextTransfer = d.nextTransfer := rfl
@[simp] theorem setSup_nextSub (f : Super → Super) (d : Dev) : (d.setSup f).nextSub = d.nextSub := rfl
@[simp] theorem setSup_lastStatus (f : Super → Super) (d : Dev) : (d.setSup f).lastStatus = d.lastStatus := rfl
@[simp] theorem setSup_blocked (f : Super → Super) (d : Dev) : (d.setSup f).blocked = d.blocked := rfl
@[simp] theorem setSup_refusals (f : Super → Super) (d : Dev) : (d.setSup f).refusals = d.refusals := rfl
@[simp] theorem setSup_cal (f : Super → Super) (d : Dev) : (d.setSup f).cal = d.cal := rfl
@[simp] theorem setSup_motion (f : Super → Super) (d : Dev) : (d.setSup f).motion = d.motion := rfl
@[simp] theorem setSup_motionDue (f : Super → Super) (d : Dev) : (d.setSup f).motionDue = d.motionDue := rfl
@[simp] theorem setSup_lift (f : Super → Super) (d : Dev) : (d.setSup f).lift = d.lift := rfl
@[simp] theorem setSup_log (f : Super → Super) (d : Dev) : (d.setSup f).log = d.log := rfl
@[simp] theorem setSup_geo (f : Super → Super) (d : Dev) : (d.setSup f).geo = d.geo := rfl
@[simp] theorem setSup_planes (f : Super → Super) (d : Dev) : (d.setSup f).planes = d.planes := rfl
@[simp] theorem setSup_rend (f : Super → Super) (d : Dev) : (d.setSup f).rend = d.rend := rfl
@[simp] theorem setSup_mix (f : Super → Super) (d : Dev) : (d.setSup f).mix = d.mix := rfl
@[simp] theorem setSup_corr (f : Super → Super) (d : Dev) : (d.setSup f).corr = d.corr := rfl
@[simp] theorem setSup_ports (f : Super → Super) (d : Dev) : (d.setSup f).ports = d.ports := rfl
@[simp] theorem setSup_rxRings (f : Super → Super) (d : Dev) : (d.setSup f).rxRings = d.rxRings := rfl
@[simp] theorem setSup_txRings (f : Super → Super) (d : Dev) : (d.setSup f).txRings = d.txRings := rfl
@[simp] theorem setSup_flows (f : Super → Super) (d : Dev) : (d.setSup f).flows = d.flows := rfl
@[simp] theorem setSup_pool (f : Super → Super) (d : Dev) : (d.setSup f).pool = d.pool := rfl
@[simp] theorem setSup_tdm (f : Super → Super) (d : Dev) : (d.setSup f).tdm = d.tdm := rfl
@[simp] theorem setSup_headset (f : Super → Super) (d : Dev) : (d.setSup f).headset = d.headset := rfl
@[simp] theorem setSup_recd (f : Super → Super) (d : Dev) : (d.setSup f).recd = d.recd := rfl
@[simp] theorem setSup_serving (f : Super → Super) (d : Dev) : (d.setSup f).serving = d.serving := rfl
@[simp] theorem setSup_fwRead (f : Super → Super) (d : Dev) : (d.setSup f).fwRead = d.fwRead := rfl
@[simp] theorem setSup_lastResult (f : Super → Super) (d : Dev) : (d.setSup f).lastResult = d.lastResult := rfl
@[simp] theorem setSup_alm (f : Super → Super) (d : Dev) : (d.setSup f).alm = d.alm := rfl
@[simp] theorem setSup_dram (f : Super → Super) (d : Dev) : (d.setSup f).dram = d.dram := rfl
@[simp] theorem setSup_sram (f : Super → Super) (d : Dev) : (d.setSup f).sram = d.sram := rfl
@[simp] theorem setSup_pair (f : Super → Super) (d : Dev) : (d.setSup f).pair = d.pair := rfl
@[simp] theorem setSup_drada (f : Super → Super) (d : Dev) : (d.setSup f).drada = d.drada := rfl
@[simp] theorem setSup_sec (f : Super → Super) (d : Dev) : (d.setSup f).sec = d.sec := rfl
@[simp] theorem setSup_season (f : Super → Super) (d : Dev) : (d.setSup f).season = d.season := rfl
@[simp] theorem setSup_gathers (f : Super → Super) (d : Dev) : (d.setSup f).gathers = d.gathers := rfl
@[simp] theorem setSup_nextRequest (f : Super → Super) (d : Dev) : (d.setSup f).nextRequest = d.nextRequest := rfl
@[simp] theorem setSup_heldEnds (f : Super → Super) (d : Dev) : (d.setSup f).heldEnds = d.heldEnds := rfl
@[simp] theorem setSup_perturb (f : Super → Super) (d : Dev) : (d.setSup f).perturb = d.perturb := rfl

/-! #### setAlm -/

@[simp] theorem setAlm_regs (d : Dev) (f : Almanac → Almanac) : (d.setAlm f).regs = d.regs := rfl
@[simp] theorem setAlm_store (d : Dev) (f : Almanac → Almanac) : (d.setAlm f).store = d.store := rfl
@[simp] theorem setAlm_force (d : Dev) (f : Almanac → Almanac) : (d.setAlm f).force = d.force := rfl
@[simp] theorem setAlm_dated (d : Dev) (f : Almanac → Almanac) : (d.setAlm f).dated = d.dated := rfl
@[simp] theorem setAlm_clock (d : Dev) (f : Almanac → Almanac) : (d.setAlm f).clock = d.clock := rfl
@[simp] theorem setAlm_frcBase (d : Dev) (f : Almanac → Almanac) : (d.setAlm f).frcBase = d.frcBase := rfl
@[simp] theorem setAlm_timers (d : Dev) (f : Almanac → Almanac) : (d.setAlm f).timers = d.timers := rfl
@[simp] theorem setAlm_limiter (d : Dev) (f : Almanac → Almanac) : (d.setAlm f).limiter = d.limiter := rfl
@[simp] theorem setAlm_freeCtr (d : Dev) (f : Almanac → Almanac) : (d.setAlm f).freeCtr = d.freeCtr := rfl
@[simp] theorem setAlm_msc (d : Dev) (f : Almanac → Almanac) : (d.setAlm f).msc = d.msc := rfl
@[simp] theorem setAlm_tickAt (d : Dev) (f : Almanac → Almanac) : (d.setAlm f).tickAt = d.tickAt := rfl
@[simp] theorem setAlm_out (d : Dev) (f : Almanac → Almanac) : (d.setAlm f).out = d.out := rfl
@[simp] theorem setAlm_power (d : Dev) (f : Almanac → Almanac) : (d.setAlm f).power = d.power := rfl
@[simp] theorem setAlm_sessions (d : Dev) (f : Almanac → Almanac) : (d.setAlm f).sessions = d.sessions := rfl
@[simp] theorem setAlm_subs (d : Dev) (f : Almanac → Almanac) : (d.setAlm f).subs = d.subs := rfl
@[simp] theorem setAlm_transfers (d : Dev) (f : Almanac → Almanac) : (d.setAlm f).transfers = d.transfers := rfl
@[simp] theorem setAlm_nextTransfer (d : Dev) (f : Almanac → Almanac) : (d.setAlm f).nextTransfer = d.nextTransfer := rfl
@[simp] theorem setAlm_nextSub (d : Dev) (f : Almanac → Almanac) : (d.setAlm f).nextSub = d.nextSub := rfl
@[simp] theorem setAlm_lastStatus (d : Dev) (f : Almanac → Almanac) : (d.setAlm f).lastStatus = d.lastStatus := rfl
@[simp] theorem setAlm_blocked (d : Dev) (f : Almanac → Almanac) : (d.setAlm f).blocked = d.blocked := rfl
@[simp] theorem setAlm_refusals (d : Dev) (f : Almanac → Almanac) : (d.setAlm f).refusals = d.refusals := rfl
@[simp] theorem setAlm_cal (d : Dev) (f : Almanac → Almanac) : (d.setAlm f).cal = d.cal := rfl
@[simp] theorem setAlm_motion (d : Dev) (f : Almanac → Almanac) : (d.setAlm f).motion = d.motion := rfl
@[simp] theorem setAlm_motionDue (d : Dev) (f : Almanac → Almanac) : (d.setAlm f).motionDue = d.motionDue := rfl
@[simp] theorem setAlm_lift (d : Dev) (f : Almanac → Almanac) : (d.setAlm f).lift = d.lift := rfl
@[simp] theorem setAlm_log (d : Dev) (f : Almanac → Almanac) : (d.setAlm f).log = d.log := rfl
@[simp] theorem setAlm_geo (d : Dev) (f : Almanac → Almanac) : (d.setAlm f).geo = d.geo := rfl
@[simp] theorem setAlm_planes (d : Dev) (f : Almanac → Almanac) : (d.setAlm f).planes = d.planes := rfl
@[simp] theorem setAlm_rend (d : Dev) (f : Almanac → Almanac) : (d.setAlm f).rend = d.rend := rfl
@[simp] theorem setAlm_mix (d : Dev) (f : Almanac → Almanac) : (d.setAlm f).mix = d.mix := rfl
@[simp] theorem setAlm_corr (d : Dev) (f : Almanac → Almanac) : (d.setAlm f).corr = d.corr := rfl
@[simp] theorem setAlm_ports (d : Dev) (f : Almanac → Almanac) : (d.setAlm f).ports = d.ports := rfl
@[simp] theorem setAlm_rxRings (d : Dev) (f : Almanac → Almanac) : (d.setAlm f).rxRings = d.rxRings := rfl
@[simp] theorem setAlm_txRings (d : Dev) (f : Almanac → Almanac) : (d.setAlm f).txRings = d.txRings := rfl
@[simp] theorem setAlm_flows (d : Dev) (f : Almanac → Almanac) : (d.setAlm f).flows = d.flows := rfl
@[simp] theorem setAlm_pool (d : Dev) (f : Almanac → Almanac) : (d.setAlm f).pool = d.pool := rfl
@[simp] theorem setAlm_tdm (d : Dev) (f : Almanac → Almanac) : (d.setAlm f).tdm = d.tdm := rfl
@[simp] theorem setAlm_headset (d : Dev) (f : Almanac → Almanac) : (d.setAlm f).headset = d.headset := rfl
@[simp] theorem setAlm_recd (d : Dev) (f : Almanac → Almanac) : (d.setAlm f).recd = d.recd := rfl
@[simp] theorem setAlm_serving (d : Dev) (f : Almanac → Almanac) : (d.setAlm f).serving = d.serving := rfl
@[simp] theorem setAlm_fwRead (d : Dev) (f : Almanac → Almanac) : (d.setAlm f).fwRead = d.fwRead := rfl
@[simp] theorem setAlm_lastResult (d : Dev) (f : Almanac → Almanac) : (d.setAlm f).lastResult = d.lastResult := rfl
@[simp] theorem setAlm_dram (d : Dev) (f : Almanac → Almanac) : (d.setAlm f).dram = d.dram := rfl
@[simp] theorem setAlm_sram (d : Dev) (f : Almanac → Almanac) : (d.setAlm f).sram = d.sram := rfl
@[simp] theorem setAlm_pair (d : Dev) (f : Almanac → Almanac) : (d.setAlm f).pair = d.pair := rfl
@[simp] theorem setAlm_drada (d : Dev) (f : Almanac → Almanac) : (d.setAlm f).drada = d.drada := rfl
@[simp] theorem setAlm_sup (d : Dev) (f : Almanac → Almanac) : (d.setAlm f).sup = d.sup := rfl
@[simp] theorem setAlm_sec (d : Dev) (f : Almanac → Almanac) : (d.setAlm f).sec = d.sec := rfl
@[simp] theorem setAlm_season (d : Dev) (f : Almanac → Almanac) : (d.setAlm f).season = d.season := rfl
@[simp] theorem setAlm_gathers (d : Dev) (f : Almanac → Almanac) : (d.setAlm f).gathers = d.gathers := rfl
@[simp] theorem setAlm_nextRequest (d : Dev) (f : Almanac → Almanac) : (d.setAlm f).nextRequest = d.nextRequest := rfl
@[simp] theorem setAlm_heldEnds (d : Dev) (f : Almanac → Almanac) : (d.setAlm f).heldEnds = d.heldEnds := rfl
@[simp] theorem setAlm_perturb (d : Dev) (f : Almanac → Almanac) : (d.setAlm f).perturb = d.perturb := rfl

/-! #### setPair -/

@[simp] theorem setPair_regs (f : Pair → Pair) (d : Dev) : (d.setPair f).regs = d.regs := rfl
@[simp] theorem setPair_store (f : Pair → Pair) (d : Dev) : (d.setPair f).store = d.store := rfl
@[simp] theorem setPair_force (f : Pair → Pair) (d : Dev) : (d.setPair f).force = d.force := rfl
@[simp] theorem setPair_dated (f : Pair → Pair) (d : Dev) : (d.setPair f).dated = d.dated := rfl
@[simp] theorem setPair_clock (f : Pair → Pair) (d : Dev) : (d.setPair f).clock = d.clock := rfl
@[simp] theorem setPair_frcBase (f : Pair → Pair) (d : Dev) : (d.setPair f).frcBase = d.frcBase := rfl
@[simp] theorem setPair_timers (f : Pair → Pair) (d : Dev) : (d.setPair f).timers = d.timers := rfl
@[simp] theorem setPair_limiter (f : Pair → Pair) (d : Dev) : (d.setPair f).limiter = d.limiter := rfl
@[simp] theorem setPair_freeCtr (f : Pair → Pair) (d : Dev) : (d.setPair f).freeCtr = d.freeCtr := rfl
@[simp] theorem setPair_msc (f : Pair → Pair) (d : Dev) : (d.setPair f).msc = d.msc := rfl
@[simp] theorem setPair_tickAt (f : Pair → Pair) (d : Dev) : (d.setPair f).tickAt = d.tickAt := rfl
@[simp] theorem setPair_out (f : Pair → Pair) (d : Dev) : (d.setPair f).out = d.out := rfl
@[simp] theorem setPair_power (f : Pair → Pair) (d : Dev) : (d.setPair f).power = d.power := rfl
@[simp] theorem setPair_sessions (f : Pair → Pair) (d : Dev) : (d.setPair f).sessions = d.sessions := rfl
@[simp] theorem setPair_subs (f : Pair → Pair) (d : Dev) : (d.setPair f).subs = d.subs := rfl
@[simp] theorem setPair_transfers (f : Pair → Pair) (d : Dev) : (d.setPair f).transfers = d.transfers := rfl
@[simp] theorem setPair_nextTransfer (f : Pair → Pair) (d : Dev) : (d.setPair f).nextTransfer = d.nextTransfer := rfl
@[simp] theorem setPair_nextSub (f : Pair → Pair) (d : Dev) : (d.setPair f).nextSub = d.nextSub := rfl
@[simp] theorem setPair_lastStatus (f : Pair → Pair) (d : Dev) : (d.setPair f).lastStatus = d.lastStatus := rfl
@[simp] theorem setPair_blocked (f : Pair → Pair) (d : Dev) : (d.setPair f).blocked = d.blocked := rfl
@[simp] theorem setPair_refusals (f : Pair → Pair) (d : Dev) : (d.setPair f).refusals = d.refusals := rfl
@[simp] theorem setPair_cal (f : Pair → Pair) (d : Dev) : (d.setPair f).cal = d.cal := rfl
@[simp] theorem setPair_motion (f : Pair → Pair) (d : Dev) : (d.setPair f).motion = d.motion := rfl
@[simp] theorem setPair_motionDue (f : Pair → Pair) (d : Dev) : (d.setPair f).motionDue = d.motionDue := rfl
@[simp] theorem setPair_lift (f : Pair → Pair) (d : Dev) : (d.setPair f).lift = d.lift := rfl
@[simp] theorem setPair_log (f : Pair → Pair) (d : Dev) : (d.setPair f).log = d.log := rfl
@[simp] theorem setPair_geo (f : Pair → Pair) (d : Dev) : (d.setPair f).geo = d.geo := rfl
@[simp] theorem setPair_planes (f : Pair → Pair) (d : Dev) : (d.setPair f).planes = d.planes := rfl
@[simp] theorem setPair_rend (f : Pair → Pair) (d : Dev) : (d.setPair f).rend = d.rend := rfl
@[simp] theorem setPair_mix (f : Pair → Pair) (d : Dev) : (d.setPair f).mix = d.mix := rfl
@[simp] theorem setPair_corr (f : Pair → Pair) (d : Dev) : (d.setPair f).corr = d.corr := rfl
@[simp] theorem setPair_ports (f : Pair → Pair) (d : Dev) : (d.setPair f).ports = d.ports := rfl
@[simp] theorem setPair_rxRings (f : Pair → Pair) (d : Dev) : (d.setPair f).rxRings = d.rxRings := rfl
@[simp] theorem setPair_txRings (f : Pair → Pair) (d : Dev) : (d.setPair f).txRings = d.txRings := rfl
@[simp] theorem setPair_flows (f : Pair → Pair) (d : Dev) : (d.setPair f).flows = d.flows := rfl
@[simp] theorem setPair_pool (f : Pair → Pair) (d : Dev) : (d.setPair f).pool = d.pool := rfl
@[simp] theorem setPair_tdm (f : Pair → Pair) (d : Dev) : (d.setPair f).tdm = d.tdm := rfl
@[simp] theorem setPair_headset (f : Pair → Pair) (d : Dev) : (d.setPair f).headset = d.headset := rfl
@[simp] theorem setPair_recd (f : Pair → Pair) (d : Dev) : (d.setPair f).recd = d.recd := rfl
@[simp] theorem setPair_serving (f : Pair → Pair) (d : Dev) : (d.setPair f).serving = d.serving := rfl
@[simp] theorem setPair_fwRead (f : Pair → Pair) (d : Dev) : (d.setPair f).fwRead = d.fwRead := rfl
@[simp] theorem setPair_lastResult (f : Pair → Pair) (d : Dev) : (d.setPair f).lastResult = d.lastResult := rfl
@[simp] theorem setPair_alm (f : Pair → Pair) (d : Dev) : (d.setPair f).alm = d.alm := rfl
@[simp] theorem setPair_dram (f : Pair → Pair) (d : Dev) : (d.setPair f).dram = d.dram := rfl
@[simp] theorem setPair_sram (f : Pair → Pair) (d : Dev) : (d.setPair f).sram = d.sram := rfl
@[simp] theorem setPair_drada (f : Pair → Pair) (d : Dev) : (d.setPair f).drada = d.drada := rfl
@[simp] theorem setPair_sup (f : Pair → Pair) (d : Dev) : (d.setPair f).sup = d.sup := rfl
@[simp] theorem setPair_sec (f : Pair → Pair) (d : Dev) : (d.setPair f).sec = d.sec := rfl
@[simp] theorem setPair_season (f : Pair → Pair) (d : Dev) : (d.setPair f).season = d.season := rfl
@[simp] theorem setPair_gathers (f : Pair → Pair) (d : Dev) : (d.setPair f).gathers = d.gathers := rfl
@[simp] theorem setPair_nextRequest (f : Pair → Pair) (d : Dev) : (d.setPair f).nextRequest = d.nextRequest := rfl
@[simp] theorem setPair_heldEnds (f : Pair → Pair) (d : Dev) : (d.setPair f).heldEnds = d.heldEnds := rfl
@[simp] theorem setPair_perturb (f : Pair → Pair) (d : Dev) : (d.setPair f).perturb = d.perturb := rfl

/-! #### setDrada -/

@[simp] theorem setDrada_regs (f : Drada → Drada) (d : Dev) : (d.setDrada f).regs = d.regs := rfl
@[simp] theorem setDrada_store (f : Drada → Drada) (d : Dev) : (d.setDrada f).store = d.store := rfl
@[simp] theorem setDrada_force (f : Drada → Drada) (d : Dev) : (d.setDrada f).force = d.force := rfl
@[simp] theorem setDrada_dated (f : Drada → Drada) (d : Dev) : (d.setDrada f).dated = d.dated := rfl
@[simp] theorem setDrada_clock (f : Drada → Drada) (d : Dev) : (d.setDrada f).clock = d.clock := rfl
@[simp] theorem setDrada_frcBase (f : Drada → Drada) (d : Dev) : (d.setDrada f).frcBase = d.frcBase := rfl
@[simp] theorem setDrada_timers (f : Drada → Drada) (d : Dev) : (d.setDrada f).timers = d.timers := rfl
@[simp] theorem setDrada_limiter (f : Drada → Drada) (d : Dev) : (d.setDrada f).limiter = d.limiter := rfl
@[simp] theorem setDrada_freeCtr (f : Drada → Drada) (d : Dev) : (d.setDrada f).freeCtr = d.freeCtr := rfl
@[simp] theorem setDrada_msc (f : Drada → Drada) (d : Dev) : (d.setDrada f).msc = d.msc := rfl
@[simp] theorem setDrada_tickAt (f : Drada → Drada) (d : Dev) : (d.setDrada f).tickAt = d.tickAt := rfl
@[simp] theorem setDrada_out (f : Drada → Drada) (d : Dev) : (d.setDrada f).out = d.out := rfl
@[simp] theorem setDrada_power (f : Drada → Drada) (d : Dev) : (d.setDrada f).power = d.power := rfl
@[simp] theorem setDrada_sessions (f : Drada → Drada) (d : Dev) : (d.setDrada f).sessions = d.sessions := rfl
@[simp] theorem setDrada_subs (f : Drada → Drada) (d : Dev) : (d.setDrada f).subs = d.subs := rfl
@[simp] theorem setDrada_transfers (f : Drada → Drada) (d : Dev) : (d.setDrada f).transfers = d.transfers := rfl
@[simp] theorem setDrada_nextTransfer (f : Drada → Drada) (d : Dev) : (d.setDrada f).nextTransfer = d.nextTransfer := rfl
@[simp] theorem setDrada_nextSub (f : Drada → Drada) (d : Dev) : (d.setDrada f).nextSub = d.nextSub := rfl
@[simp] theorem setDrada_lastStatus (f : Drada → Drada) (d : Dev) : (d.setDrada f).lastStatus = d.lastStatus := rfl
@[simp] theorem setDrada_blocked (f : Drada → Drada) (d : Dev) : (d.setDrada f).blocked = d.blocked := rfl
@[simp] theorem setDrada_refusals (f : Drada → Drada) (d : Dev) : (d.setDrada f).refusals = d.refusals := rfl
@[simp] theorem setDrada_cal (f : Drada → Drada) (d : Dev) : (d.setDrada f).cal = d.cal := rfl
@[simp] theorem setDrada_motion (f : Drada → Drada) (d : Dev) : (d.setDrada f).motion = d.motion := rfl
@[simp] theorem setDrada_motionDue (f : Drada → Drada) (d : Dev) : (d.setDrada f).motionDue = d.motionDue := rfl
@[simp] theorem setDrada_lift (f : Drada → Drada) (d : Dev) : (d.setDrada f).lift = d.lift := rfl
@[simp] theorem setDrada_log (f : Drada → Drada) (d : Dev) : (d.setDrada f).log = d.log := rfl
@[simp] theorem setDrada_geo (f : Drada → Drada) (d : Dev) : (d.setDrada f).geo = d.geo := rfl
@[simp] theorem setDrada_planes (f : Drada → Drada) (d : Dev) : (d.setDrada f).planes = d.planes := rfl
@[simp] theorem setDrada_rend (f : Drada → Drada) (d : Dev) : (d.setDrada f).rend = d.rend := rfl
@[simp] theorem setDrada_mix (f : Drada → Drada) (d : Dev) : (d.setDrada f).mix = d.mix := rfl
@[simp] theorem setDrada_corr (f : Drada → Drada) (d : Dev) : (d.setDrada f).corr = d.corr := rfl
@[simp] theorem setDrada_ports (f : Drada → Drada) (d : Dev) : (d.setDrada f).ports = d.ports := rfl
@[simp] theorem setDrada_rxRings (f : Drada → Drada) (d : Dev) : (d.setDrada f).rxRings = d.rxRings := rfl
@[simp] theorem setDrada_txRings (f : Drada → Drada) (d : Dev) : (d.setDrada f).txRings = d.txRings := rfl
@[simp] theorem setDrada_flows (f : Drada → Drada) (d : Dev) : (d.setDrada f).flows = d.flows := rfl
@[simp] theorem setDrada_pool (f : Drada → Drada) (d : Dev) : (d.setDrada f).pool = d.pool := rfl
@[simp] theorem setDrada_tdm (f : Drada → Drada) (d : Dev) : (d.setDrada f).tdm = d.tdm := rfl
@[simp] theorem setDrada_headset (f : Drada → Drada) (d : Dev) : (d.setDrada f).headset = d.headset := rfl
@[simp] theorem setDrada_recd (f : Drada → Drada) (d : Dev) : (d.setDrada f).recd = d.recd := rfl
@[simp] theorem setDrada_serving (f : Drada → Drada) (d : Dev) : (d.setDrada f).serving = d.serving := rfl
@[simp] theorem setDrada_fwRead (f : Drada → Drada) (d : Dev) : (d.setDrada f).fwRead = d.fwRead := rfl
@[simp] theorem setDrada_lastResult (f : Drada → Drada) (d : Dev) : (d.setDrada f).lastResult = d.lastResult := rfl
@[simp] theorem setDrada_alm (f : Drada → Drada) (d : Dev) : (d.setDrada f).alm = d.alm := rfl
@[simp] theorem setDrada_dram (f : Drada → Drada) (d : Dev) : (d.setDrada f).dram = d.dram := rfl
@[simp] theorem setDrada_sram (f : Drada → Drada) (d : Dev) : (d.setDrada f).sram = d.sram := rfl
@[simp] theorem setDrada_pair (f : Drada → Drada) (d : Dev) : (d.setDrada f).pair = d.pair := rfl
@[simp] theorem setDrada_sup (f : Drada → Drada) (d : Dev) : (d.setDrada f).sup = d.sup := rfl
@[simp] theorem setDrada_sec (f : Drada → Drada) (d : Dev) : (d.setDrada f).sec = d.sec := rfl
@[simp] theorem setDrada_season (f : Drada → Drada) (d : Dev) : (d.setDrada f).season = d.season := rfl
@[simp] theorem setDrada_gathers (f : Drada → Drada) (d : Dev) : (d.setDrada f).gathers = d.gathers := rfl
@[simp] theorem setDrada_nextRequest (f : Drada → Drada) (d : Dev) : (d.setDrada f).nextRequest = d.nextRequest := rfl
@[simp] theorem setDrada_heldEnds (f : Drada → Drada) (d : Dev) : (d.setDrada f).heldEnds = d.heldEnds := rfl
@[simp] theorem setDrada_perturb (f : Drada → Drada) (d : Dev) : (d.setDrada f).perturb = d.perturb := rfl

/-! #### setDlink -/

@[simp] theorem setDlink_regs (k : Nat) (f : DradaLink → DradaLink) (d : Dev) : (d.setDlink k f).regs = d.regs := rfl
@[simp] theorem setDlink_store (k : Nat) (f : DradaLink → DradaLink) (d : Dev) : (d.setDlink k f).store = d.store := rfl
@[simp] theorem setDlink_force (k : Nat) (f : DradaLink → DradaLink) (d : Dev) : (d.setDlink k f).force = d.force := rfl
@[simp] theorem setDlink_dated (k : Nat) (f : DradaLink → DradaLink) (d : Dev) : (d.setDlink k f).dated = d.dated := rfl
@[simp] theorem setDlink_clock (k : Nat) (f : DradaLink → DradaLink) (d : Dev) : (d.setDlink k f).clock = d.clock := rfl
@[simp] theorem setDlink_frcBase (k : Nat) (f : DradaLink → DradaLink) (d : Dev) : (d.setDlink k f).frcBase = d.frcBase := rfl
@[simp] theorem setDlink_timers (k : Nat) (f : DradaLink → DradaLink) (d : Dev) : (d.setDlink k f).timers = d.timers := rfl
@[simp] theorem setDlink_limiter (k : Nat) (f : DradaLink → DradaLink) (d : Dev) : (d.setDlink k f).limiter = d.limiter := rfl
@[simp] theorem setDlink_freeCtr (k : Nat) (f : DradaLink → DradaLink) (d : Dev) : (d.setDlink k f).freeCtr = d.freeCtr := rfl
@[simp] theorem setDlink_msc (k : Nat) (f : DradaLink → DradaLink) (d : Dev) : (d.setDlink k f).msc = d.msc := rfl
@[simp] theorem setDlink_tickAt (k : Nat) (f : DradaLink → DradaLink) (d : Dev) : (d.setDlink k f).tickAt = d.tickAt := rfl
@[simp] theorem setDlink_out (k : Nat) (f : DradaLink → DradaLink) (d : Dev) : (d.setDlink k f).out = d.out := rfl
@[simp] theorem setDlink_power (k : Nat) (f : DradaLink → DradaLink) (d : Dev) : (d.setDlink k f).power = d.power := rfl
@[simp] theorem setDlink_sessions (k : Nat) (f : DradaLink → DradaLink) (d : Dev) : (d.setDlink k f).sessions = d.sessions := rfl
@[simp] theorem setDlink_subs (k : Nat) (f : DradaLink → DradaLink) (d : Dev) : (d.setDlink k f).subs = d.subs := rfl
@[simp] theorem setDlink_transfers (k : Nat) (f : DradaLink → DradaLink) (d : Dev) : (d.setDlink k f).transfers = d.transfers := rfl
@[simp] theorem setDlink_nextTransfer (k : Nat) (f : DradaLink → DradaLink) (d : Dev) : (d.setDlink k f).nextTransfer = d.nextTransfer := rfl
@[simp] theorem setDlink_nextSub (k : Nat) (f : DradaLink → DradaLink) (d : Dev) : (d.setDlink k f).nextSub = d.nextSub := rfl
@[simp] theorem setDlink_lastStatus (k : Nat) (f : DradaLink → DradaLink) (d : Dev) : (d.setDlink k f).lastStatus = d.lastStatus := rfl
@[simp] theorem setDlink_blocked (k : Nat) (f : DradaLink → DradaLink) (d : Dev) : (d.setDlink k f).blocked = d.blocked := rfl
@[simp] theorem setDlink_refusals (k : Nat) (f : DradaLink → DradaLink) (d : Dev) : (d.setDlink k f).refusals = d.refusals := rfl
@[simp] theorem setDlink_cal (k : Nat) (f : DradaLink → DradaLink) (d : Dev) : (d.setDlink k f).cal = d.cal := rfl
@[simp] theorem setDlink_motion (k : Nat) (f : DradaLink → DradaLink) (d : Dev) : (d.setDlink k f).motion = d.motion := rfl
@[simp] theorem setDlink_motionDue (k : Nat) (f : DradaLink → DradaLink) (d : Dev) : (d.setDlink k f).motionDue = d.motionDue := rfl
@[simp] theorem setDlink_lift (k : Nat) (f : DradaLink → DradaLink) (d : Dev) : (d.setDlink k f).lift = d.lift := rfl
@[simp] theorem setDlink_log (k : Nat) (f : DradaLink → DradaLink) (d : Dev) : (d.setDlink k f).log = d.log := rfl
@[simp] theorem setDlink_geo (k : Nat) (f : DradaLink → DradaLink) (d : Dev) : (d.setDlink k f).geo = d.geo := rfl
@[simp] theorem setDlink_planes (k : Nat) (f : DradaLink → DradaLink) (d : Dev) : (d.setDlink k f).planes = d.planes := rfl
@[simp] theorem setDlink_rend (k : Nat) (f : DradaLink → DradaLink) (d : Dev) : (d.setDlink k f).rend = d.rend := rfl
@[simp] theorem setDlink_mix (k : Nat) (f : DradaLink → DradaLink) (d : Dev) : (d.setDlink k f).mix = d.mix := rfl
@[simp] theorem setDlink_corr (k : Nat) (f : DradaLink → DradaLink) (d : Dev) : (d.setDlink k f).corr = d.corr := rfl
@[simp] theorem setDlink_ports (k : Nat) (f : DradaLink → DradaLink) (d : Dev) : (d.setDlink k f).ports = d.ports := rfl
@[simp] theorem setDlink_rxRings (k : Nat) (f : DradaLink → DradaLink) (d : Dev) : (d.setDlink k f).rxRings = d.rxRings := rfl
@[simp] theorem setDlink_txRings (k : Nat) (f : DradaLink → DradaLink) (d : Dev) : (d.setDlink k f).txRings = d.txRings := rfl
@[simp] theorem setDlink_flows (k : Nat) (f : DradaLink → DradaLink) (d : Dev) : (d.setDlink k f).flows = d.flows := rfl
@[simp] theorem setDlink_pool (k : Nat) (f : DradaLink → DradaLink) (d : Dev) : (d.setDlink k f).pool = d.pool := rfl
@[simp] theorem setDlink_tdm (k : Nat) (f : DradaLink → DradaLink) (d : Dev) : (d.setDlink k f).tdm = d.tdm := rfl
@[simp] theorem setDlink_headset (k : Nat) (f : DradaLink → DradaLink) (d : Dev) : (d.setDlink k f).headset = d.headset := rfl
@[simp] theorem setDlink_recd (k : Nat) (f : DradaLink → DradaLink) (d : Dev) : (d.setDlink k f).recd = d.recd := rfl
@[simp] theorem setDlink_serving (k : Nat) (f : DradaLink → DradaLink) (d : Dev) : (d.setDlink k f).serving = d.serving := rfl
@[simp] theorem setDlink_fwRead (k : Nat) (f : DradaLink → DradaLink) (d : Dev) : (d.setDlink k f).fwRead = d.fwRead := rfl
@[simp] theorem setDlink_lastResult (k : Nat) (f : DradaLink → DradaLink) (d : Dev) : (d.setDlink k f).lastResult = d.lastResult := rfl
@[simp] theorem setDlink_alm (k : Nat) (f : DradaLink → DradaLink) (d : Dev) : (d.setDlink k f).alm = d.alm := rfl
@[simp] theorem setDlink_dram (k : Nat) (f : DradaLink → DradaLink) (d : Dev) : (d.setDlink k f).dram = d.dram := rfl
@[simp] theorem setDlink_sram (k : Nat) (f : DradaLink → DradaLink) (d : Dev) : (d.setDlink k f).sram = d.sram := rfl
@[simp] theorem setDlink_pair (k : Nat) (f : DradaLink → DradaLink) (d : Dev) : (d.setDlink k f).pair = d.pair := rfl
@[simp] theorem setDlink_sup (k : Nat) (f : DradaLink → DradaLink) (d : Dev) : (d.setDlink k f).sup = d.sup := rfl
@[simp] theorem setDlink_sec (k : Nat) (f : DradaLink → DradaLink) (d : Dev) : (d.setDlink k f).sec = d.sec := rfl
@[simp] theorem setDlink_season (k : Nat) (f : DradaLink → DradaLink) (d : Dev) : (d.setDlink k f).season = d.season := rfl
@[simp] theorem setDlink_gathers (k : Nat) (f : DradaLink → DradaLink) (d : Dev) : (d.setDlink k f).gathers = d.gathers := rfl
@[simp] theorem setDlink_nextRequest (k : Nat) (f : DradaLink → DradaLink) (d : Dev) : (d.setDlink k f).nextRequest = d.nextRequest := rfl
@[simp] theorem setDlink_heldEnds (k : Nat) (f : DradaLink → DradaLink) (d : Dev) : (d.setDlink k f).heldEnds = d.heldEnds := rfl
@[simp] theorem setDlink_perturb (k : Nat) (f : DradaLink → DradaLink) (d : Dev) : (d.setDlink k f).perturb = d.perturb := rfl

/-! #### setDchan -/

@[simp] theorem setDchan_regs (c : Nat) (f : DramChan → DramChan) (d : Dev) : (d.setDchan c f).regs = d.regs := rfl
@[simp] theorem setDchan_store (c : Nat) (f : DramChan → DramChan) (d : Dev) : (d.setDchan c f).store = d.store := rfl
@[simp] theorem setDchan_force (c : Nat) (f : DramChan → DramChan) (d : Dev) : (d.setDchan c f).force = d.force := rfl
@[simp] theorem setDchan_dated (c : Nat) (f : DramChan → DramChan) (d : Dev) : (d.setDchan c f).dated = d.dated := rfl
@[simp] theorem setDchan_clock (c : Nat) (f : DramChan → DramChan) (d : Dev) : (d.setDchan c f).clock = d.clock := rfl
@[simp] theorem setDchan_frcBase (c : Nat) (f : DramChan → DramChan) (d : Dev) : (d.setDchan c f).frcBase = d.frcBase := rfl
@[simp] theorem setDchan_timers (c : Nat) (f : DramChan → DramChan) (d : Dev) : (d.setDchan c f).timers = d.timers := rfl
@[simp] theorem setDchan_limiter (c : Nat) (f : DramChan → DramChan) (d : Dev) : (d.setDchan c f).limiter = d.limiter := rfl
@[simp] theorem setDchan_freeCtr (c : Nat) (f : DramChan → DramChan) (d : Dev) : (d.setDchan c f).freeCtr = d.freeCtr := rfl
@[simp] theorem setDchan_msc (c : Nat) (f : DramChan → DramChan) (d : Dev) : (d.setDchan c f).msc = d.msc := rfl
@[simp] theorem setDchan_tickAt (c : Nat) (f : DramChan → DramChan) (d : Dev) : (d.setDchan c f).tickAt = d.tickAt := rfl
@[simp] theorem setDchan_out (c : Nat) (f : DramChan → DramChan) (d : Dev) : (d.setDchan c f).out = d.out := rfl
@[simp] theorem setDchan_power (c : Nat) (f : DramChan → DramChan) (d : Dev) : (d.setDchan c f).power = d.power := rfl
@[simp] theorem setDchan_sessions (c : Nat) (f : DramChan → DramChan) (d : Dev) : (d.setDchan c f).sessions = d.sessions := rfl
@[simp] theorem setDchan_subs (c : Nat) (f : DramChan → DramChan) (d : Dev) : (d.setDchan c f).subs = d.subs := rfl
@[simp] theorem setDchan_transfers (c : Nat) (f : DramChan → DramChan) (d : Dev) : (d.setDchan c f).transfers = d.transfers := rfl
@[simp] theorem setDchan_nextTransfer (c : Nat) (f : DramChan → DramChan) (d : Dev) : (d.setDchan c f).nextTransfer = d.nextTransfer := rfl
@[simp] theorem setDchan_nextSub (c : Nat) (f : DramChan → DramChan) (d : Dev) : (d.setDchan c f).nextSub = d.nextSub := rfl
@[simp] theorem setDchan_lastStatus (c : Nat) (f : DramChan → DramChan) (d : Dev) : (d.setDchan c f).lastStatus = d.lastStatus := rfl
@[simp] theorem setDchan_blocked (c : Nat) (f : DramChan → DramChan) (d : Dev) : (d.setDchan c f).blocked = d.blocked := rfl
@[simp] theorem setDchan_refusals (c : Nat) (f : DramChan → DramChan) (d : Dev) : (d.setDchan c f).refusals = d.refusals := rfl
@[simp] theorem setDchan_cal (c : Nat) (f : DramChan → DramChan) (d : Dev) : (d.setDchan c f).cal = d.cal := rfl
@[simp] theorem setDchan_motion (c : Nat) (f : DramChan → DramChan) (d : Dev) : (d.setDchan c f).motion = d.motion := rfl
@[simp] theorem setDchan_motionDue (c : Nat) (f : DramChan → DramChan) (d : Dev) : (d.setDchan c f).motionDue = d.motionDue := rfl
@[simp] theorem setDchan_lift (c : Nat) (f : DramChan → DramChan) (d : Dev) : (d.setDchan c f).lift = d.lift := rfl
@[simp] theorem setDchan_log (c : Nat) (f : DramChan → DramChan) (d : Dev) : (d.setDchan c f).log = d.log := rfl
@[simp] theorem setDchan_geo (c : Nat) (f : DramChan → DramChan) (d : Dev) : (d.setDchan c f).geo = d.geo := rfl
@[simp] theorem setDchan_planes (c : Nat) (f : DramChan → DramChan) (d : Dev) : (d.setDchan c f).planes = d.planes := rfl
@[simp] theorem setDchan_rend (c : Nat) (f : DramChan → DramChan) (d : Dev) : (d.setDchan c f).rend = d.rend := rfl
@[simp] theorem setDchan_mix (c : Nat) (f : DramChan → DramChan) (d : Dev) : (d.setDchan c f).mix = d.mix := rfl
@[simp] theorem setDchan_corr (c : Nat) (f : DramChan → DramChan) (d : Dev) : (d.setDchan c f).corr = d.corr := rfl
@[simp] theorem setDchan_ports (c : Nat) (f : DramChan → DramChan) (d : Dev) : (d.setDchan c f).ports = d.ports := rfl
@[simp] theorem setDchan_rxRings (c : Nat) (f : DramChan → DramChan) (d : Dev) : (d.setDchan c f).rxRings = d.rxRings := rfl
@[simp] theorem setDchan_txRings (c : Nat) (f : DramChan → DramChan) (d : Dev) : (d.setDchan c f).txRings = d.txRings := rfl
@[simp] theorem setDchan_flows (c : Nat) (f : DramChan → DramChan) (d : Dev) : (d.setDchan c f).flows = d.flows := rfl
@[simp] theorem setDchan_pool (c : Nat) (f : DramChan → DramChan) (d : Dev) : (d.setDchan c f).pool = d.pool := rfl
@[simp] theorem setDchan_tdm (c : Nat) (f : DramChan → DramChan) (d : Dev) : (d.setDchan c f).tdm = d.tdm := rfl
@[simp] theorem setDchan_headset (c : Nat) (f : DramChan → DramChan) (d : Dev) : (d.setDchan c f).headset = d.headset := rfl
@[simp] theorem setDchan_recd (c : Nat) (f : DramChan → DramChan) (d : Dev) : (d.setDchan c f).recd = d.recd := rfl
@[simp] theorem setDchan_serving (c : Nat) (f : DramChan → DramChan) (d : Dev) : (d.setDchan c f).serving = d.serving := rfl
@[simp] theorem setDchan_fwRead (c : Nat) (f : DramChan → DramChan) (d : Dev) : (d.setDchan c f).fwRead = d.fwRead := rfl
@[simp] theorem setDchan_lastResult (c : Nat) (f : DramChan → DramChan) (d : Dev) : (d.setDchan c f).lastResult = d.lastResult := rfl
@[simp] theorem setDchan_alm (c : Nat) (f : DramChan → DramChan) (d : Dev) : (d.setDchan c f).alm = d.alm := rfl
@[simp] theorem setDchan_sram (c : Nat) (f : DramChan → DramChan) (d : Dev) : (d.setDchan c f).sram = d.sram := rfl
@[simp] theorem setDchan_pair (c : Nat) (f : DramChan → DramChan) (d : Dev) : (d.setDchan c f).pair = d.pair := rfl
@[simp] theorem setDchan_drada (c : Nat) (f : DramChan → DramChan) (d : Dev) : (d.setDchan c f).drada = d.drada := rfl
@[simp] theorem setDchan_sup (c : Nat) (f : DramChan → DramChan) (d : Dev) : (d.setDchan c f).sup = d.sup := rfl
@[simp] theorem setDchan_sec (c : Nat) (f : DramChan → DramChan) (d : Dev) : (d.setDchan c f).sec = d.sec := rfl
@[simp] theorem setDchan_season (c : Nat) (f : DramChan → DramChan) (d : Dev) : (d.setDchan c f).season = d.season := rfl
@[simp] theorem setDchan_gathers (c : Nat) (f : DramChan → DramChan) (d : Dev) : (d.setDchan c f).gathers = d.gathers := rfl
@[simp] theorem setDchan_nextRequest (c : Nat) (f : DramChan → DramChan) (d : Dev) : (d.setDchan c f).nextRequest = d.nextRequest := rfl
@[simp] theorem setDchan_heldEnds (c : Nat) (f : DramChan → DramChan) (d : Dev) : (d.setDchan c f).heldEnds = d.heldEnds := rfl
@[simp] theorem setDchan_perturb (c : Nat) (f : DramChan → DramChan) (d : Dev) : (d.setDchan c f).perturb = d.perturb := rfl

/-! #### setArb -/

@[simp] theorem setArb_regs (c q : Nat) (f : ArbReq → ArbReq) (d : Dev) : (d.setArb c q f).regs = d.regs := rfl
@[simp] theorem setArb_store (c q : Nat) (f : ArbReq → ArbReq) (d : Dev) : (d.setArb c q f).store = d.store := rfl
@[simp] theorem setArb_force (c q : Nat) (f : ArbReq → ArbReq) (d : Dev) : (d.setArb c q f).force = d.force := rfl
@[simp] theorem setArb_dated (c q : Nat) (f : ArbReq → ArbReq) (d : Dev) : (d.setArb c q f).dated = d.dated := rfl
@[simp] theorem setArb_clock (c q : Nat) (f : ArbReq → ArbReq) (d : Dev) : (d.setArb c q f).clock = d.clock := rfl
@[simp] theorem setArb_frcBase (c q : Nat) (f : ArbReq → ArbReq) (d : Dev) : (d.setArb c q f).frcBase = d.frcBase := rfl
@[simp] theorem setArb_timers (c q : Nat) (f : ArbReq → ArbReq) (d : Dev) : (d.setArb c q f).timers = d.timers := rfl
@[simp] theorem setArb_limiter (c q : Nat) (f : ArbReq → ArbReq) (d : Dev) : (d.setArb c q f).limiter = d.limiter := rfl
@[simp] theorem setArb_freeCtr (c q : Nat) (f : ArbReq → ArbReq) (d : Dev) : (d.setArb c q f).freeCtr = d.freeCtr := rfl
@[simp] theorem setArb_msc (c q : Nat) (f : ArbReq → ArbReq) (d : Dev) : (d.setArb c q f).msc = d.msc := rfl
@[simp] theorem setArb_tickAt (c q : Nat) (f : ArbReq → ArbReq) (d : Dev) : (d.setArb c q f).tickAt = d.tickAt := rfl
@[simp] theorem setArb_out (c q : Nat) (f : ArbReq → ArbReq) (d : Dev) : (d.setArb c q f).out = d.out := rfl
@[simp] theorem setArb_power (c q : Nat) (f : ArbReq → ArbReq) (d : Dev) : (d.setArb c q f).power = d.power := rfl
@[simp] theorem setArb_sessions (c q : Nat) (f : ArbReq → ArbReq) (d : Dev) : (d.setArb c q f).sessions = d.sessions := rfl
@[simp] theorem setArb_subs (c q : Nat) (f : ArbReq → ArbReq) (d : Dev) : (d.setArb c q f).subs = d.subs := rfl
@[simp] theorem setArb_transfers (c q : Nat) (f : ArbReq → ArbReq) (d : Dev) : (d.setArb c q f).transfers = d.transfers := rfl
@[simp] theorem setArb_nextTransfer (c q : Nat) (f : ArbReq → ArbReq) (d : Dev) : (d.setArb c q f).nextTransfer = d.nextTransfer := rfl
@[simp] theorem setArb_nextSub (c q : Nat) (f : ArbReq → ArbReq) (d : Dev) : (d.setArb c q f).nextSub = d.nextSub := rfl
@[simp] theorem setArb_lastStatus (c q : Nat) (f : ArbReq → ArbReq) (d : Dev) : (d.setArb c q f).lastStatus = d.lastStatus := rfl
@[simp] theorem setArb_blocked (c q : Nat) (f : ArbReq → ArbReq) (d : Dev) : (d.setArb c q f).blocked = d.blocked := rfl
@[simp] theorem setArb_refusals (c q : Nat) (f : ArbReq → ArbReq) (d : Dev) : (d.setArb c q f).refusals = d.refusals := rfl
@[simp] theorem setArb_cal (c q : Nat) (f : ArbReq → ArbReq) (d : Dev) : (d.setArb c q f).cal = d.cal := rfl
@[simp] theorem setArb_motion (c q : Nat) (f : ArbReq → ArbReq) (d : Dev) : (d.setArb c q f).motion = d.motion := rfl
@[simp] theorem setArb_motionDue (c q : Nat) (f : ArbReq → ArbReq) (d : Dev) : (d.setArb c q f).motionDue = d.motionDue := rfl
@[simp] theorem setArb_lift (c q : Nat) (f : ArbReq → ArbReq) (d : Dev) : (d.setArb c q f).lift = d.lift := rfl
@[simp] theorem setArb_log (c q : Nat) (f : ArbReq → ArbReq) (d : Dev) : (d.setArb c q f).log = d.log := rfl
@[simp] theorem setArb_geo (c q : Nat) (f : ArbReq → ArbReq) (d : Dev) : (d.setArb c q f).geo = d.geo := rfl
@[simp] theorem setArb_planes (c q : Nat) (f : ArbReq → ArbReq) (d : Dev) : (d.setArb c q f).planes = d.planes := rfl
@[simp] theorem setArb_rend (c q : Nat) (f : ArbReq → ArbReq) (d : Dev) : (d.setArb c q f).rend = d.rend := rfl
@[simp] theorem setArb_mix (c q : Nat) (f : ArbReq → ArbReq) (d : Dev) : (d.setArb c q f).mix = d.mix := rfl
@[simp] theorem setArb_corr (c q : Nat) (f : ArbReq → ArbReq) (d : Dev) : (d.setArb c q f).corr = d.corr := rfl
@[simp] theorem setArb_ports (c q : Nat) (f : ArbReq → ArbReq) (d : Dev) : (d.setArb c q f).ports = d.ports := rfl
@[simp] theorem setArb_rxRings (c q : Nat) (f : ArbReq → ArbReq) (d : Dev) : (d.setArb c q f).rxRings = d.rxRings := rfl
@[simp] theorem setArb_txRings (c q : Nat) (f : ArbReq → ArbReq) (d : Dev) : (d.setArb c q f).txRings = d.txRings := rfl
@[simp] theorem setArb_flows (c q : Nat) (f : ArbReq → ArbReq) (d : Dev) : (d.setArb c q f).flows = d.flows := rfl
@[simp] theorem setArb_pool (c q : Nat) (f : ArbReq → ArbReq) (d : Dev) : (d.setArb c q f).pool = d.pool := rfl
@[simp] theorem setArb_tdm (c q : Nat) (f : ArbReq → ArbReq) (d : Dev) : (d.setArb c q f).tdm = d.tdm := rfl
@[simp] theorem setArb_headset (c q : Nat) (f : ArbReq → ArbReq) (d : Dev) : (d.setArb c q f).headset = d.headset := rfl
@[simp] theorem setArb_recd (c q : Nat) (f : ArbReq → ArbReq) (d : Dev) : (d.setArb c q f).recd = d.recd := rfl
@[simp] theorem setArb_serving (c q : Nat) (f : ArbReq → ArbReq) (d : Dev) : (d.setArb c q f).serving = d.serving := rfl
@[simp] theorem setArb_fwRead (c q : Nat) (f : ArbReq → ArbReq) (d : Dev) : (d.setArb c q f).fwRead = d.fwRead := rfl
@[simp] theorem setArb_lastResult (c q : Nat) (f : ArbReq → ArbReq) (d : Dev) : (d.setArb c q f).lastResult = d.lastResult := rfl
@[simp] theorem setArb_alm (c q : Nat) (f : ArbReq → ArbReq) (d : Dev) : (d.setArb c q f).alm = d.alm := rfl
@[simp] theorem setArb_sram (c q : Nat) (f : ArbReq → ArbReq) (d : Dev) : (d.setArb c q f).sram = d.sram := rfl
@[simp] theorem setArb_pair (c q : Nat) (f : ArbReq → ArbReq) (d : Dev) : (d.setArb c q f).pair = d.pair := rfl
@[simp] theorem setArb_drada (c q : Nat) (f : ArbReq → ArbReq) (d : Dev) : (d.setArb c q f).drada = d.drada := rfl
@[simp] theorem setArb_sup (c q : Nat) (f : ArbReq → ArbReq) (d : Dev) : (d.setArb c q f).sup = d.sup := rfl
@[simp] theorem setArb_sec (c q : Nat) (f : ArbReq → ArbReq) (d : Dev) : (d.setArb c q f).sec = d.sec := rfl
@[simp] theorem setArb_season (c q : Nat) (f : ArbReq → ArbReq) (d : Dev) : (d.setArb c q f).season = d.season := rfl
@[simp] theorem setArb_gathers (c q : Nat) (f : ArbReq → ArbReq) (d : Dev) : (d.setArb c q f).gathers = d.gathers := rfl
@[simp] theorem setArb_nextRequest (c q : Nat) (f : ArbReq → ArbReq) (d : Dev) : (d.setArb c q f).nextRequest = d.nextRequest := rfl
@[simp] theorem setArb_heldEnds (c q : Nat) (f : ArbReq → ArbReq) (d : Dev) : (d.setArb c q f).heldEnds = d.heldEnds := rfl
@[simp] theorem setArb_perturb (c q : Nat) (f : ArbReq → ArbReq) (d : Dev) : (d.setArb c q f).perturb = d.perturb := rfl

/-! #### setTdm -/

@[simp] theorem setTdm_regs (p : Nat) (f : TdmPort → TdmPort) (d : Dev) : (d.setTdm p f).regs = d.regs := rfl
@[simp] theorem setTdm_store (p : Nat) (f : TdmPort → TdmPort) (d : Dev) : (d.setTdm p f).store = d.store := rfl
@[simp] theorem setTdm_force (p : Nat) (f : TdmPort → TdmPort) (d : Dev) : (d.setTdm p f).force = d.force := rfl
@[simp] theorem setTdm_dated (p : Nat) (f : TdmPort → TdmPort) (d : Dev) : (d.setTdm p f).dated = d.dated := rfl
@[simp] theorem setTdm_clock (p : Nat) (f : TdmPort → TdmPort) (d : Dev) : (d.setTdm p f).clock = d.clock := rfl
@[simp] theorem setTdm_frcBase (p : Nat) (f : TdmPort → TdmPort) (d : Dev) : (d.setTdm p f).frcBase = d.frcBase := rfl
@[simp] theorem setTdm_timers (p : Nat) (f : TdmPort → TdmPort) (d : Dev) : (d.setTdm p f).timers = d.timers := rfl
@[simp] theorem setTdm_limiter (p : Nat) (f : TdmPort → TdmPort) (d : Dev) : (d.setTdm p f).limiter = d.limiter := rfl
@[simp] theorem setTdm_freeCtr (p : Nat) (f : TdmPort → TdmPort) (d : Dev) : (d.setTdm p f).freeCtr = d.freeCtr := rfl
@[simp] theorem setTdm_msc (p : Nat) (f : TdmPort → TdmPort) (d : Dev) : (d.setTdm p f).msc = d.msc := rfl
@[simp] theorem setTdm_tickAt (p : Nat) (f : TdmPort → TdmPort) (d : Dev) : (d.setTdm p f).tickAt = d.tickAt := rfl
@[simp] theorem setTdm_out (p : Nat) (f : TdmPort → TdmPort) (d : Dev) : (d.setTdm p f).out = d.out := rfl
@[simp] theorem setTdm_power (p : Nat) (f : TdmPort → TdmPort) (d : Dev) : (d.setTdm p f).power = d.power := rfl
@[simp] theorem setTdm_sessions (p : Nat) (f : TdmPort → TdmPort) (d : Dev) : (d.setTdm p f).sessions = d.sessions := rfl
@[simp] theorem setTdm_subs (p : Nat) (f : TdmPort → TdmPort) (d : Dev) : (d.setTdm p f).subs = d.subs := rfl
@[simp] theorem setTdm_transfers (p : Nat) (f : TdmPort → TdmPort) (d : Dev) : (d.setTdm p f).transfers = d.transfers := rfl
@[simp] theorem setTdm_nextTransfer (p : Nat) (f : TdmPort → TdmPort) (d : Dev) : (d.setTdm p f).nextTransfer = d.nextTransfer := rfl
@[simp] theorem setTdm_nextSub (p : Nat) (f : TdmPort → TdmPort) (d : Dev) : (d.setTdm p f).nextSub = d.nextSub := rfl
@[simp] theorem setTdm_lastStatus (p : Nat) (f : TdmPort → TdmPort) (d : Dev) : (d.setTdm p f).lastStatus = d.lastStatus := rfl
@[simp] theorem setTdm_blocked (p : Nat) (f : TdmPort → TdmPort) (d : Dev) : (d.setTdm p f).blocked = d.blocked := rfl
@[simp] theorem setTdm_refusals (p : Nat) (f : TdmPort → TdmPort) (d : Dev) : (d.setTdm p f).refusals = d.refusals := rfl
@[simp] theorem setTdm_cal (p : Nat) (f : TdmPort → TdmPort) (d : Dev) : (d.setTdm p f).cal = d.cal := rfl
@[simp] theorem setTdm_motion (p : Nat) (f : TdmPort → TdmPort) (d : Dev) : (d.setTdm p f).motion = d.motion := rfl
@[simp] theorem setTdm_motionDue (p : Nat) (f : TdmPort → TdmPort) (d : Dev) : (d.setTdm p f).motionDue = d.motionDue := rfl
@[simp] theorem setTdm_lift (p : Nat) (f : TdmPort → TdmPort) (d : Dev) : (d.setTdm p f).lift = d.lift := rfl
@[simp] theorem setTdm_log (p : Nat) (f : TdmPort → TdmPort) (d : Dev) : (d.setTdm p f).log = d.log := rfl
@[simp] theorem setTdm_geo (p : Nat) (f : TdmPort → TdmPort) (d : Dev) : (d.setTdm p f).geo = d.geo := rfl
@[simp] theorem setTdm_planes (p : Nat) (f : TdmPort → TdmPort) (d : Dev) : (d.setTdm p f).planes = d.planes := rfl
@[simp] theorem setTdm_rend (p : Nat) (f : TdmPort → TdmPort) (d : Dev) : (d.setTdm p f).rend = d.rend := rfl
@[simp] theorem setTdm_mix (p : Nat) (f : TdmPort → TdmPort) (d : Dev) : (d.setTdm p f).mix = d.mix := rfl
@[simp] theorem setTdm_corr (p : Nat) (f : TdmPort → TdmPort) (d : Dev) : (d.setTdm p f).corr = d.corr := rfl
@[simp] theorem setTdm_ports (p : Nat) (f : TdmPort → TdmPort) (d : Dev) : (d.setTdm p f).ports = d.ports := rfl
@[simp] theorem setTdm_rxRings (p : Nat) (f : TdmPort → TdmPort) (d : Dev) : (d.setTdm p f).rxRings = d.rxRings := rfl
@[simp] theorem setTdm_txRings (p : Nat) (f : TdmPort → TdmPort) (d : Dev) : (d.setTdm p f).txRings = d.txRings := rfl
@[simp] theorem setTdm_flows (p : Nat) (f : TdmPort → TdmPort) (d : Dev) : (d.setTdm p f).flows = d.flows := rfl
@[simp] theorem setTdm_pool (p : Nat) (f : TdmPort → TdmPort) (d : Dev) : (d.setTdm p f).pool = d.pool := rfl
@[simp] theorem setTdm_headset (p : Nat) (f : TdmPort → TdmPort) (d : Dev) : (d.setTdm p f).headset = d.headset := rfl
@[simp] theorem setTdm_recd (p : Nat) (f : TdmPort → TdmPort) (d : Dev) : (d.setTdm p f).recd = d.recd := rfl
@[simp] theorem setTdm_serving (p : Nat) (f : TdmPort → TdmPort) (d : Dev) : (d.setTdm p f).serving = d.serving := rfl
@[simp] theorem setTdm_fwRead (p : Nat) (f : TdmPort → TdmPort) (d : Dev) : (d.setTdm p f).fwRead = d.fwRead := rfl
@[simp] theorem setTdm_lastResult (p : Nat) (f : TdmPort → TdmPort) (d : Dev) : (d.setTdm p f).lastResult = d.lastResult := rfl
@[simp] theorem setTdm_alm (p : Nat) (f : TdmPort → TdmPort) (d : Dev) : (d.setTdm p f).alm = d.alm := rfl
@[simp] theorem setTdm_dram (p : Nat) (f : TdmPort → TdmPort) (d : Dev) : (d.setTdm p f).dram = d.dram := rfl
@[simp] theorem setTdm_sram (p : Nat) (f : TdmPort → TdmPort) (d : Dev) : (d.setTdm p f).sram = d.sram := rfl
@[simp] theorem setTdm_pair (p : Nat) (f : TdmPort → TdmPort) (d : Dev) : (d.setTdm p f).pair = d.pair := rfl
@[simp] theorem setTdm_drada (p : Nat) (f : TdmPort → TdmPort) (d : Dev) : (d.setTdm p f).drada = d.drada := rfl
@[simp] theorem setTdm_sup (p : Nat) (f : TdmPort → TdmPort) (d : Dev) : (d.setTdm p f).sup = d.sup := rfl
@[simp] theorem setTdm_sec (p : Nat) (f : TdmPort → TdmPort) (d : Dev) : (d.setTdm p f).sec = d.sec := rfl
@[simp] theorem setTdm_season (p : Nat) (f : TdmPort → TdmPort) (d : Dev) : (d.setTdm p f).season = d.season := rfl
@[simp] theorem setTdm_gathers (p : Nat) (f : TdmPort → TdmPort) (d : Dev) : (d.setTdm p f).gathers = d.gathers := rfl
@[simp] theorem setTdm_nextRequest (p : Nat) (f : TdmPort → TdmPort) (d : Dev) : (d.setTdm p f).nextRequest = d.nextRequest := rfl
@[simp] theorem setTdm_heldEnds (p : Nat) (f : TdmPort → TdmPort) (d : Dev) : (d.setTdm p f).heldEnds = d.heldEnds := rfl
@[simp] theorem setTdm_perturb (p : Nat) (f : TdmPort → TdmPort) (d : Dev) : (d.setTdm p f).perturb = d.perturb := rfl

/-! #### setFifo -/

@[simp] theorem setFifo_regs (d : Dev) (f : Nat) (g : MotionFifo → MotionFifo) : (d.setFifo f g).regs = d.regs := rfl
@[simp] theorem setFifo_store (d : Dev) (f : Nat) (g : MotionFifo → MotionFifo) : (d.setFifo f g).store = d.store := rfl
@[simp] theorem setFifo_force (d : Dev) (f : Nat) (g : MotionFifo → MotionFifo) : (d.setFifo f g).force = d.force := rfl
@[simp] theorem setFifo_dated (d : Dev) (f : Nat) (g : MotionFifo → MotionFifo) : (d.setFifo f g).dated = d.dated := rfl
@[simp] theorem setFifo_clock (d : Dev) (f : Nat) (g : MotionFifo → MotionFifo) : (d.setFifo f g).clock = d.clock := rfl
@[simp] theorem setFifo_frcBase (d : Dev) (f : Nat) (g : MotionFifo → MotionFifo) : (d.setFifo f g).frcBase = d.frcBase := rfl
@[simp] theorem setFifo_timers (d : Dev) (f : Nat) (g : MotionFifo → MotionFifo) : (d.setFifo f g).timers = d.timers := rfl
@[simp] theorem setFifo_limiter (d : Dev) (f : Nat) (g : MotionFifo → MotionFifo) : (d.setFifo f g).limiter = d.limiter := rfl
@[simp] theorem setFifo_freeCtr (d : Dev) (f : Nat) (g : MotionFifo → MotionFifo) : (d.setFifo f g).freeCtr = d.freeCtr := rfl
@[simp] theorem setFifo_msc (d : Dev) (f : Nat) (g : MotionFifo → MotionFifo) : (d.setFifo f g).msc = d.msc := rfl
@[simp] theorem setFifo_tickAt (d : Dev) (f : Nat) (g : MotionFifo → MotionFifo) : (d.setFifo f g).tickAt = d.tickAt := rfl
@[simp] theorem setFifo_out (d : Dev) (f : Nat) (g : MotionFifo → MotionFifo) : (d.setFifo f g).out = d.out := rfl
@[simp] theorem setFifo_power (d : Dev) (f : Nat) (g : MotionFifo → MotionFifo) : (d.setFifo f g).power = d.power := rfl
@[simp] theorem setFifo_sessions (d : Dev) (f : Nat) (g : MotionFifo → MotionFifo) : (d.setFifo f g).sessions = d.sessions := rfl
@[simp] theorem setFifo_subs (d : Dev) (f : Nat) (g : MotionFifo → MotionFifo) : (d.setFifo f g).subs = d.subs := rfl
@[simp] theorem setFifo_transfers (d : Dev) (f : Nat) (g : MotionFifo → MotionFifo) : (d.setFifo f g).transfers = d.transfers := rfl
@[simp] theorem setFifo_nextTransfer (d : Dev) (f : Nat) (g : MotionFifo → MotionFifo) : (d.setFifo f g).nextTransfer = d.nextTransfer := rfl
@[simp] theorem setFifo_nextSub (d : Dev) (f : Nat) (g : MotionFifo → MotionFifo) : (d.setFifo f g).nextSub = d.nextSub := rfl
@[simp] theorem setFifo_lastStatus (d : Dev) (f : Nat) (g : MotionFifo → MotionFifo) : (d.setFifo f g).lastStatus = d.lastStatus := rfl
@[simp] theorem setFifo_blocked (d : Dev) (f : Nat) (g : MotionFifo → MotionFifo) : (d.setFifo f g).blocked = d.blocked := rfl
@[simp] theorem setFifo_refusals (d : Dev) (f : Nat) (g : MotionFifo → MotionFifo) : (d.setFifo f g).refusals = d.refusals := rfl
@[simp] theorem setFifo_cal (d : Dev) (f : Nat) (g : MotionFifo → MotionFifo) : (d.setFifo f g).cal = d.cal := rfl
@[simp] theorem setFifo_motionDue (d : Dev) (f : Nat) (g : MotionFifo → MotionFifo) : (d.setFifo f g).motionDue = d.motionDue := rfl
@[simp] theorem setFifo_lift (d : Dev) (f : Nat) (g : MotionFifo → MotionFifo) : (d.setFifo f g).lift = d.lift := rfl
@[simp] theorem setFifo_log (d : Dev) (f : Nat) (g : MotionFifo → MotionFifo) : (d.setFifo f g).log = d.log := rfl
@[simp] theorem setFifo_geo (d : Dev) (f : Nat) (g : MotionFifo → MotionFifo) : (d.setFifo f g).geo = d.geo := rfl
@[simp] theorem setFifo_planes (d : Dev) (f : Nat) (g : MotionFifo → MotionFifo) : (d.setFifo f g).planes = d.planes := rfl
@[simp] theorem setFifo_rend (d : Dev) (f : Nat) (g : MotionFifo → MotionFifo) : (d.setFifo f g).rend = d.rend := rfl
@[simp] theorem setFifo_mix (d : Dev) (f : Nat) (g : MotionFifo → MotionFifo) : (d.setFifo f g).mix = d.mix := rfl
@[simp] theorem setFifo_corr (d : Dev) (f : Nat) (g : MotionFifo → MotionFifo) : (d.setFifo f g).corr = d.corr := rfl
@[simp] theorem setFifo_ports (d : Dev) (f : Nat) (g : MotionFifo → MotionFifo) : (d.setFifo f g).ports = d.ports := rfl
@[simp] theorem setFifo_rxRings (d : Dev) (f : Nat) (g : MotionFifo → MotionFifo) : (d.setFifo f g).rxRings = d.rxRings := rfl
@[simp] theorem setFifo_txRings (d : Dev) (f : Nat) (g : MotionFifo → MotionFifo) : (d.setFifo f g).txRings = d.txRings := rfl
@[simp] theorem setFifo_flows (d : Dev) (f : Nat) (g : MotionFifo → MotionFifo) : (d.setFifo f g).flows = d.flows := rfl
@[simp] theorem setFifo_pool (d : Dev) (f : Nat) (g : MotionFifo → MotionFifo) : (d.setFifo f g).pool = d.pool := rfl
@[simp] theorem setFifo_tdm (d : Dev) (f : Nat) (g : MotionFifo → MotionFifo) : (d.setFifo f g).tdm = d.tdm := rfl
@[simp] theorem setFifo_headset (d : Dev) (f : Nat) (g : MotionFifo → MotionFifo) : (d.setFifo f g).headset = d.headset := rfl
@[simp] theorem setFifo_recd (d : Dev) (f : Nat) (g : MotionFifo → MotionFifo) : (d.setFifo f g).recd = d.recd := rfl
@[simp] theorem setFifo_serving (d : Dev) (f : Nat) (g : MotionFifo → MotionFifo) : (d.setFifo f g).serving = d.serving := rfl
@[simp] theorem setFifo_fwRead (d : Dev) (f : Nat) (g : MotionFifo → MotionFifo) : (d.setFifo f g).fwRead = d.fwRead := rfl
@[simp] theorem setFifo_lastResult (d : Dev) (f : Nat) (g : MotionFifo → MotionFifo) : (d.setFifo f g).lastResult = d.lastResult := rfl
@[simp] theorem setFifo_alm (d : Dev) (f : Nat) (g : MotionFifo → MotionFifo) : (d.setFifo f g).alm = d.alm := rfl
@[simp] theorem setFifo_dram (d : Dev) (f : Nat) (g : MotionFifo → MotionFifo) : (d.setFifo f g).dram = d.dram := rfl
@[simp] theorem setFifo_sram (d : Dev) (f : Nat) (g : MotionFifo → MotionFifo) : (d.setFifo f g).sram = d.sram := rfl
@[simp] theorem setFifo_pair (d : Dev) (f : Nat) (g : MotionFifo → MotionFifo) : (d.setFifo f g).pair = d.pair := rfl
@[simp] theorem setFifo_drada (d : Dev) (f : Nat) (g : MotionFifo → MotionFifo) : (d.setFifo f g).drada = d.drada := rfl
@[simp] theorem setFifo_sup (d : Dev) (f : Nat) (g : MotionFifo → MotionFifo) : (d.setFifo f g).sup = d.sup := rfl
@[simp] theorem setFifo_sec (d : Dev) (f : Nat) (g : MotionFifo → MotionFifo) : (d.setFifo f g).sec = d.sec := rfl
@[simp] theorem setFifo_season (d : Dev) (f : Nat) (g : MotionFifo → MotionFifo) : (d.setFifo f g).season = d.season := rfl
@[simp] theorem setFifo_gathers (d : Dev) (f : Nat) (g : MotionFifo → MotionFifo) : (d.setFifo f g).gathers = d.gathers := rfl
@[simp] theorem setFifo_nextRequest (d : Dev) (f : Nat) (g : MotionFifo → MotionFifo) : (d.setFifo f g).nextRequest = d.nextRequest := rfl
@[simp] theorem setFifo_heldEnds (d : Dev) (f : Nat) (g : MotionFifo → MotionFifo) : (d.setFifo f g).heldEnds = d.heldEnds := rfl
@[simp] theorem setFifo_perturb (d : Dev) (f : Nat) (g : MotionFifo → MotionFifo) : (d.setFifo f g).perturb = d.perturb := rfl

/-! #### setCal -/

@[simp] theorem setCal_regs (f : Calendar → Calendar) (d : Dev) : (d.setCal f).regs = d.regs := rfl
@[simp] theorem setCal_store (f : Calendar → Calendar) (d : Dev) : (d.setCal f).store = d.store := rfl
@[simp] theorem setCal_force (f : Calendar → Calendar) (d : Dev) : (d.setCal f).force = d.force := rfl
@[simp] theorem setCal_dated (f : Calendar → Calendar) (d : Dev) : (d.setCal f).dated = d.dated := rfl
@[simp] theorem setCal_clock (f : Calendar → Calendar) (d : Dev) : (d.setCal f).clock = d.clock := rfl
@[simp] theorem setCal_frcBase (f : Calendar → Calendar) (d : Dev) : (d.setCal f).frcBase = d.frcBase := rfl
@[simp] theorem setCal_timers (f : Calendar → Calendar) (d : Dev) : (d.setCal f).timers = d.timers := rfl
@[simp] theorem setCal_limiter (f : Calendar → Calendar) (d : Dev) : (d.setCal f).limiter = d.limiter := rfl
@[simp] theorem setCal_freeCtr (f : Calendar → Calendar) (d : Dev) : (d.setCal f).freeCtr = d.freeCtr := rfl
@[simp] theorem setCal_msc (f : Calendar → Calendar) (d : Dev) : (d.setCal f).msc = d.msc := rfl
@[simp] theorem setCal_tickAt (f : Calendar → Calendar) (d : Dev) : (d.setCal f).tickAt = d.tickAt := rfl
@[simp] theorem setCal_out (f : Calendar → Calendar) (d : Dev) : (d.setCal f).out = d.out := rfl
@[simp] theorem setCal_power (f : Calendar → Calendar) (d : Dev) : (d.setCal f).power = d.power := rfl
@[simp] theorem setCal_sessions (f : Calendar → Calendar) (d : Dev) : (d.setCal f).sessions = d.sessions := rfl
@[simp] theorem setCal_subs (f : Calendar → Calendar) (d : Dev) : (d.setCal f).subs = d.subs := rfl
@[simp] theorem setCal_transfers (f : Calendar → Calendar) (d : Dev) : (d.setCal f).transfers = d.transfers := rfl
@[simp] theorem setCal_nextTransfer (f : Calendar → Calendar) (d : Dev) : (d.setCal f).nextTransfer = d.nextTransfer := rfl
@[simp] theorem setCal_nextSub (f : Calendar → Calendar) (d : Dev) : (d.setCal f).nextSub = d.nextSub := rfl
@[simp] theorem setCal_lastStatus (f : Calendar → Calendar) (d : Dev) : (d.setCal f).lastStatus = d.lastStatus := rfl
@[simp] theorem setCal_blocked (f : Calendar → Calendar) (d : Dev) : (d.setCal f).blocked = d.blocked := rfl
@[simp] theorem setCal_refusals (f : Calendar → Calendar) (d : Dev) : (d.setCal f).refusals = d.refusals := rfl
@[simp] theorem setCal_motion (f : Calendar → Calendar) (d : Dev) : (d.setCal f).motion = d.motion := rfl
@[simp] theorem setCal_motionDue (f : Calendar → Calendar) (d : Dev) : (d.setCal f).motionDue = d.motionDue := rfl
@[simp] theorem setCal_lift (f : Calendar → Calendar) (d : Dev) : (d.setCal f).lift = d.lift := rfl
@[simp] theorem setCal_log (f : Calendar → Calendar) (d : Dev) : (d.setCal f).log = d.log := rfl
@[simp] theorem setCal_geo (f : Calendar → Calendar) (d : Dev) : (d.setCal f).geo = d.geo := rfl
@[simp] theorem setCal_planes (f : Calendar → Calendar) (d : Dev) : (d.setCal f).planes = d.planes := rfl
@[simp] theorem setCal_rend (f : Calendar → Calendar) (d : Dev) : (d.setCal f).rend = d.rend := rfl
@[simp] theorem setCal_mix (f : Calendar → Calendar) (d : Dev) : (d.setCal f).mix = d.mix := rfl
@[simp] theorem setCal_corr (f : Calendar → Calendar) (d : Dev) : (d.setCal f).corr = d.corr := rfl
@[simp] theorem setCal_ports (f : Calendar → Calendar) (d : Dev) : (d.setCal f).ports = d.ports := rfl
@[simp] theorem setCal_rxRings (f : Calendar → Calendar) (d : Dev) : (d.setCal f).rxRings = d.rxRings := rfl
@[simp] theorem setCal_txRings (f : Calendar → Calendar) (d : Dev) : (d.setCal f).txRings = d.txRings := rfl
@[simp] theorem setCal_flows (f : Calendar → Calendar) (d : Dev) : (d.setCal f).flows = d.flows := rfl
@[simp] theorem setCal_pool (f : Calendar → Calendar) (d : Dev) : (d.setCal f).pool = d.pool := rfl
@[simp] theorem setCal_tdm (f : Calendar → Calendar) (d : Dev) : (d.setCal f).tdm = d.tdm := rfl
@[simp] theorem setCal_headset (f : Calendar → Calendar) (d : Dev) : (d.setCal f).headset = d.headset := rfl
@[simp] theorem setCal_recd (f : Calendar → Calendar) (d : Dev) : (d.setCal f).recd = d.recd := rfl
@[simp] theorem setCal_serving (f : Calendar → Calendar) (d : Dev) : (d.setCal f).serving = d.serving := rfl
@[simp] theorem setCal_fwRead (f : Calendar → Calendar) (d : Dev) : (d.setCal f).fwRead = d.fwRead := rfl
@[simp] theorem setCal_lastResult (f : Calendar → Calendar) (d : Dev) : (d.setCal f).lastResult = d.lastResult := rfl
@[simp] theorem setCal_alm (f : Calendar → Calendar) (d : Dev) : (d.setCal f).alm = d.alm := rfl
@[simp] theorem setCal_dram (f : Calendar → Calendar) (d : Dev) : (d.setCal f).dram = d.dram := rfl
@[simp] theorem setCal_sram (f : Calendar → Calendar) (d : Dev) : (d.setCal f).sram = d.sram := rfl
@[simp] theorem setCal_pair (f : Calendar → Calendar) (d : Dev) : (d.setCal f).pair = d.pair := rfl
@[simp] theorem setCal_drada (f : Calendar → Calendar) (d : Dev) : (d.setCal f).drada = d.drada := rfl
@[simp] theorem setCal_sup (f : Calendar → Calendar) (d : Dev) : (d.setCal f).sup = d.sup := rfl
@[simp] theorem setCal_sec (f : Calendar → Calendar) (d : Dev) : (d.setCal f).sec = d.sec := rfl
@[simp] theorem setCal_season (f : Calendar → Calendar) (d : Dev) : (d.setCal f).season = d.season := rfl
@[simp] theorem setCal_gathers (f : Calendar → Calendar) (d : Dev) : (d.setCal f).gathers = d.gathers := rfl
@[simp] theorem setCal_nextRequest (f : Calendar → Calendar) (d : Dev) : (d.setCal f).nextRequest = d.nextRequest := rfl
@[simp] theorem setCal_heldEnds (f : Calendar → Calendar) (d : Dev) : (d.setCal f).heldEnds = d.heldEnds := rfl
@[simp] theorem setCal_perturb (f : Calendar → Calendar) (d : Dev) : (d.setCal f).perturb = d.perturb := rfl

/-! #### setRx -/

@[simp] theorem setRx_regs (f : Nat) (g : RxFlow → RxFlow) (d : Dev) : (d.setRx f g).regs = d.regs := rfl
@[simp] theorem setRx_store (f : Nat) (g : RxFlow → RxFlow) (d : Dev) : (d.setRx f g).store = d.store := rfl
@[simp] theorem setRx_force (f : Nat) (g : RxFlow → RxFlow) (d : Dev) : (d.setRx f g).force = d.force := rfl
@[simp] theorem setRx_dated (f : Nat) (g : RxFlow → RxFlow) (d : Dev) : (d.setRx f g).dated = d.dated := rfl
@[simp] theorem setRx_clock (f : Nat) (g : RxFlow → RxFlow) (d : Dev) : (d.setRx f g).clock = d.clock := rfl
@[simp] theorem setRx_frcBase (f : Nat) (g : RxFlow → RxFlow) (d : Dev) : (d.setRx f g).frcBase = d.frcBase := rfl
@[simp] theorem setRx_timers (f : Nat) (g : RxFlow → RxFlow) (d : Dev) : (d.setRx f g).timers = d.timers := rfl
@[simp] theorem setRx_limiter (f : Nat) (g : RxFlow → RxFlow) (d : Dev) : (d.setRx f g).limiter = d.limiter := rfl
@[simp] theorem setRx_freeCtr (f : Nat) (g : RxFlow → RxFlow) (d : Dev) : (d.setRx f g).freeCtr = d.freeCtr := rfl
@[simp] theorem setRx_msc (f : Nat) (g : RxFlow → RxFlow) (d : Dev) : (d.setRx f g).msc = d.msc := rfl
@[simp] theorem setRx_tickAt (f : Nat) (g : RxFlow → RxFlow) (d : Dev) : (d.setRx f g).tickAt = d.tickAt := rfl
@[simp] theorem setRx_out (f : Nat) (g : RxFlow → RxFlow) (d : Dev) : (d.setRx f g).out = d.out := rfl
@[simp] theorem setRx_power (f : Nat) (g : RxFlow → RxFlow) (d : Dev) : (d.setRx f g).power = d.power := rfl
@[simp] theorem setRx_sessions (f : Nat) (g : RxFlow → RxFlow) (d : Dev) : (d.setRx f g).sessions = d.sessions := rfl
@[simp] theorem setRx_subs (f : Nat) (g : RxFlow → RxFlow) (d : Dev) : (d.setRx f g).subs = d.subs := rfl
@[simp] theorem setRx_transfers (f : Nat) (g : RxFlow → RxFlow) (d : Dev) : (d.setRx f g).transfers = d.transfers := rfl
@[simp] theorem setRx_nextTransfer (f : Nat) (g : RxFlow → RxFlow) (d : Dev) : (d.setRx f g).nextTransfer = d.nextTransfer := rfl
@[simp] theorem setRx_nextSub (f : Nat) (g : RxFlow → RxFlow) (d : Dev) : (d.setRx f g).nextSub = d.nextSub := rfl
@[simp] theorem setRx_lastStatus (f : Nat) (g : RxFlow → RxFlow) (d : Dev) : (d.setRx f g).lastStatus = d.lastStatus := rfl
@[simp] theorem setRx_blocked (f : Nat) (g : RxFlow → RxFlow) (d : Dev) : (d.setRx f g).blocked = d.blocked := rfl
@[simp] theorem setRx_refusals (f : Nat) (g : RxFlow → RxFlow) (d : Dev) : (d.setRx f g).refusals = d.refusals := rfl
@[simp] theorem setRx_cal (f : Nat) (g : RxFlow → RxFlow) (d : Dev) : (d.setRx f g).cal = d.cal := rfl
@[simp] theorem setRx_motion (f : Nat) (g : RxFlow → RxFlow) (d : Dev) : (d.setRx f g).motion = d.motion := rfl
@[simp] theorem setRx_motionDue (f : Nat) (g : RxFlow → RxFlow) (d : Dev) : (d.setRx f g).motionDue = d.motionDue := rfl
@[simp] theorem setRx_lift (f : Nat) (g : RxFlow → RxFlow) (d : Dev) : (d.setRx f g).lift = d.lift := rfl
@[simp] theorem setRx_log (f : Nat) (g : RxFlow → RxFlow) (d : Dev) : (d.setRx f g).log = d.log := rfl
@[simp] theorem setRx_geo (f : Nat) (g : RxFlow → RxFlow) (d : Dev) : (d.setRx f g).geo = d.geo := rfl
@[simp] theorem setRx_planes (f : Nat) (g : RxFlow → RxFlow) (d : Dev) : (d.setRx f g).planes = d.planes := rfl
@[simp] theorem setRx_rend (f : Nat) (g : RxFlow → RxFlow) (d : Dev) : (d.setRx f g).rend = d.rend := rfl
@[simp] theorem setRx_mix (f : Nat) (g : RxFlow → RxFlow) (d : Dev) : (d.setRx f g).mix = d.mix := rfl
@[simp] theorem setRx_corr (f : Nat) (g : RxFlow → RxFlow) (d : Dev) : (d.setRx f g).corr = d.corr := rfl
@[simp] theorem setRx_ports (f : Nat) (g : RxFlow → RxFlow) (d : Dev) : (d.setRx f g).ports = d.ports := rfl
@[simp] theorem setRx_rxRings (f : Nat) (g : RxFlow → RxFlow) (d : Dev) : (d.setRx f g).rxRings = d.rxRings := rfl
@[simp] theorem setRx_txRings (f : Nat) (g : RxFlow → RxFlow) (d : Dev) : (d.setRx f g).txRings = d.txRings := rfl
@[simp] theorem setRx_pool (f : Nat) (g : RxFlow → RxFlow) (d : Dev) : (d.setRx f g).pool = d.pool := rfl
@[simp] theorem setRx_tdm (f : Nat) (g : RxFlow → RxFlow) (d : Dev) : (d.setRx f g).tdm = d.tdm := rfl
@[simp] theorem setRx_headset (f : Nat) (g : RxFlow → RxFlow) (d : Dev) : (d.setRx f g).headset = d.headset := rfl
@[simp] theorem setRx_recd (f : Nat) (g : RxFlow → RxFlow) (d : Dev) : (d.setRx f g).recd = d.recd := rfl
@[simp] theorem setRx_serving (f : Nat) (g : RxFlow → RxFlow) (d : Dev) : (d.setRx f g).serving = d.serving := rfl
@[simp] theorem setRx_fwRead (f : Nat) (g : RxFlow → RxFlow) (d : Dev) : (d.setRx f g).fwRead = d.fwRead := rfl
@[simp] theorem setRx_lastResult (f : Nat) (g : RxFlow → RxFlow) (d : Dev) : (d.setRx f g).lastResult = d.lastResult := rfl
@[simp] theorem setRx_alm (f : Nat) (g : RxFlow → RxFlow) (d : Dev) : (d.setRx f g).alm = d.alm := rfl
@[simp] theorem setRx_dram (f : Nat) (g : RxFlow → RxFlow) (d : Dev) : (d.setRx f g).dram = d.dram := rfl
@[simp] theorem setRx_sram (f : Nat) (g : RxFlow → RxFlow) (d : Dev) : (d.setRx f g).sram = d.sram := rfl
@[simp] theorem setRx_pair (f : Nat) (g : RxFlow → RxFlow) (d : Dev) : (d.setRx f g).pair = d.pair := rfl
@[simp] theorem setRx_drada (f : Nat) (g : RxFlow → RxFlow) (d : Dev) : (d.setRx f g).drada = d.drada := rfl
@[simp] theorem setRx_sup (f : Nat) (g : RxFlow → RxFlow) (d : Dev) : (d.setRx f g).sup = d.sup := rfl
@[simp] theorem setRx_sec (f : Nat) (g : RxFlow → RxFlow) (d : Dev) : (d.setRx f g).sec = d.sec := rfl
@[simp] theorem setRx_season (f : Nat) (g : RxFlow → RxFlow) (d : Dev) : (d.setRx f g).season = d.season := rfl
@[simp] theorem setRx_gathers (f : Nat) (g : RxFlow → RxFlow) (d : Dev) : (d.setRx f g).gathers = d.gathers := rfl
@[simp] theorem setRx_nextRequest (f : Nat) (g : RxFlow → RxFlow) (d : Dev) : (d.setRx f g).nextRequest = d.nextRequest := rfl
@[simp] theorem setRx_heldEnds (f : Nat) (g : RxFlow → RxFlow) (d : Dev) : (d.setRx f g).heldEnds = d.heldEnds := rfl
@[simp] theorem setRx_perturb (f : Nat) (g : RxFlow → RxFlow) (d : Dev) : (d.setRx f g).perturb = d.perturb := rfl

/-! #### setChain -/

@[simp] theorem setChain_regs (d : Dev) (m : Nat) (c : OutChain) : (d.setChain m c).regs = d.regs := rfl
@[simp] theorem setChain_store (d : Dev) (m : Nat) (c : OutChain) : (d.setChain m c).store = d.store := rfl
@[simp] theorem setChain_force (d : Dev) (m : Nat) (c : OutChain) : (d.setChain m c).force = d.force := rfl
@[simp] theorem setChain_dated (d : Dev) (m : Nat) (c : OutChain) : (d.setChain m c).dated = d.dated := rfl
@[simp] theorem setChain_clock (d : Dev) (m : Nat) (c : OutChain) : (d.setChain m c).clock = d.clock := rfl
@[simp] theorem setChain_frcBase (d : Dev) (m : Nat) (c : OutChain) : (d.setChain m c).frcBase = d.frcBase := rfl
@[simp] theorem setChain_timers (d : Dev) (m : Nat) (c : OutChain) : (d.setChain m c).timers = d.timers := rfl
@[simp] theorem setChain_limiter (d : Dev) (m : Nat) (c : OutChain) : (d.setChain m c).limiter = d.limiter := rfl
@[simp] theorem setChain_freeCtr (d : Dev) (m : Nat) (c : OutChain) : (d.setChain m c).freeCtr = d.freeCtr := rfl
@[simp] theorem setChain_msc (d : Dev) (m : Nat) (c : OutChain) : (d.setChain m c).msc = d.msc := rfl
@[simp] theorem setChain_tickAt (d : Dev) (m : Nat) (c : OutChain) : (d.setChain m c).tickAt = d.tickAt := rfl
@[simp] theorem setChain_out (d : Dev) (m : Nat) (c : OutChain) : (d.setChain m c).out = d.out := rfl
@[simp] theorem setChain_power (d : Dev) (m : Nat) (c : OutChain) : (d.setChain m c).power = d.power := rfl
@[simp] theorem setChain_sessions (d : Dev) (m : Nat) (c : OutChain) : (d.setChain m c).sessions = d.sessions := rfl
@[simp] theorem setChain_subs (d : Dev) (m : Nat) (c : OutChain) : (d.setChain m c).subs = d.subs := rfl
@[simp] theorem setChain_transfers (d : Dev) (m : Nat) (c : OutChain) : (d.setChain m c).transfers = d.transfers := rfl
@[simp] theorem setChain_nextTransfer (d : Dev) (m : Nat) (c : OutChain) : (d.setChain m c).nextTransfer = d.nextTransfer := rfl
@[simp] theorem setChain_nextSub (d : Dev) (m : Nat) (c : OutChain) : (d.setChain m c).nextSub = d.nextSub := rfl
@[simp] theorem setChain_lastStatus (d : Dev) (m : Nat) (c : OutChain) : (d.setChain m c).lastStatus = d.lastStatus := rfl
@[simp] theorem setChain_blocked (d : Dev) (m : Nat) (c : OutChain) : (d.setChain m c).blocked = d.blocked := rfl
@[simp] theorem setChain_refusals (d : Dev) (m : Nat) (c : OutChain) : (d.setChain m c).refusals = d.refusals := rfl
@[simp] theorem setChain_cal (d : Dev) (m : Nat) (c : OutChain) : (d.setChain m c).cal = d.cal := rfl
@[simp] theorem setChain_motion (d : Dev) (m : Nat) (c : OutChain) : (d.setChain m c).motion = d.motion := rfl
@[simp] theorem setChain_motionDue (d : Dev) (m : Nat) (c : OutChain) : (d.setChain m c).motionDue = d.motionDue := rfl
@[simp] theorem setChain_lift (d : Dev) (m : Nat) (c : OutChain) : (d.setChain m c).lift = d.lift := rfl
@[simp] theorem setChain_log (d : Dev) (m : Nat) (c : OutChain) : (d.setChain m c).log = d.log := rfl
@[simp] theorem setChain_geo (d : Dev) (m : Nat) (c : OutChain) : (d.setChain m c).geo = d.geo := rfl
@[simp] theorem setChain_planes (d : Dev) (m : Nat) (c : OutChain) : (d.setChain m c).planes = d.planes := rfl
@[simp] theorem setChain_rend (d : Dev) (m : Nat) (c : OutChain) : (d.setChain m c).rend = d.rend := rfl
@[simp] theorem setChain_mix (d : Dev) (m : Nat) (c : OutChain) : (d.setChain m c).mix = d.mix := rfl
@[simp] theorem setChain_ports (d : Dev) (m : Nat) (c : OutChain) : (d.setChain m c).ports = d.ports := rfl
@[simp] theorem setChain_rxRings (d : Dev) (m : Nat) (c : OutChain) : (d.setChain m c).rxRings = d.rxRings := rfl
@[simp] theorem setChain_txRings (d : Dev) (m : Nat) (c : OutChain) : (d.setChain m c).txRings = d.txRings := rfl
@[simp] theorem setChain_flows (d : Dev) (m : Nat) (c : OutChain) : (d.setChain m c).flows = d.flows := rfl
@[simp] theorem setChain_pool (d : Dev) (m : Nat) (c : OutChain) : (d.setChain m c).pool = d.pool := rfl
@[simp] theorem setChain_tdm (d : Dev) (m : Nat) (c : OutChain) : (d.setChain m c).tdm = d.tdm := rfl
@[simp] theorem setChain_headset (d : Dev) (m : Nat) (c : OutChain) : (d.setChain m c).headset = d.headset := rfl
@[simp] theorem setChain_recd (d : Dev) (m : Nat) (c : OutChain) : (d.setChain m c).recd = d.recd := rfl
@[simp] theorem setChain_serving (d : Dev) (m : Nat) (c : OutChain) : (d.setChain m c).serving = d.serving := rfl
@[simp] theorem setChain_fwRead (d : Dev) (m : Nat) (c : OutChain) : (d.setChain m c).fwRead = d.fwRead := rfl
@[simp] theorem setChain_lastResult (d : Dev) (m : Nat) (c : OutChain) : (d.setChain m c).lastResult = d.lastResult := rfl
@[simp] theorem setChain_alm (d : Dev) (m : Nat) (c : OutChain) : (d.setChain m c).alm = d.alm := rfl
@[simp] theorem setChain_dram (d : Dev) (m : Nat) (c : OutChain) : (d.setChain m c).dram = d.dram := rfl
@[simp] theorem setChain_sram (d : Dev) (m : Nat) (c : OutChain) : (d.setChain m c).sram = d.sram := rfl
@[simp] theorem setChain_pair (d : Dev) (m : Nat) (c : OutChain) : (d.setChain m c).pair = d.pair := rfl
@[simp] theorem setChain_drada (d : Dev) (m : Nat) (c : OutChain) : (d.setChain m c).drada = d.drada := rfl
@[simp] theorem setChain_sup (d : Dev) (m : Nat) (c : OutChain) : (d.setChain m c).sup = d.sup := rfl
@[simp] theorem setChain_sec (d : Dev) (m : Nat) (c : OutChain) : (d.setChain m c).sec = d.sec := rfl
@[simp] theorem setChain_season (d : Dev) (m : Nat) (c : OutChain) : (d.setChain m c).season = d.season := rfl
@[simp] theorem setChain_gathers (d : Dev) (m : Nat) (c : OutChain) : (d.setChain m c).gathers = d.gathers := rfl
@[simp] theorem setChain_nextRequest (d : Dev) (m : Nat) (c : OutChain) : (d.setChain m c).nextRequest = d.nextRequest := rfl
@[simp] theorem setChain_heldEnds (d : Dev) (m : Nat) (c : OutChain) : (d.setChain m c).heldEnds = d.heldEnds := rfl
@[simp] theorem setChain_perturb (d : Dev) (m : Nat) (c : OutChain) : (d.setChain m c).perturb = d.perturb := rfl

/-! #### setSn -/

@[simp] theorem setSn_regs (d : Dev) (a : Nat) : (d.setSn a).regs = d.regs := rfl
@[simp] theorem setSn_store (d : Dev) (a : Nat) : (d.setSn a).store = d.store := rfl
@[simp] theorem setSn_force (d : Dev) (a : Nat) : (d.setSn a).force = d.force := rfl
@[simp] theorem setSn_dated (d : Dev) (a : Nat) : (d.setSn a).dated = d.dated := rfl
@[simp] theorem setSn_clock (d : Dev) (a : Nat) : (d.setSn a).clock = d.clock := rfl
@[simp] theorem setSn_frcBase (d : Dev) (a : Nat) : (d.setSn a).frcBase = d.frcBase := rfl
@[simp] theorem setSn_timers (d : Dev) (a : Nat) : (d.setSn a).timers = d.timers := rfl
@[simp] theorem setSn_limiter (d : Dev) (a : Nat) : (d.setSn a).limiter = d.limiter := rfl
@[simp] theorem setSn_freeCtr (d : Dev) (a : Nat) : (d.setSn a).freeCtr = d.freeCtr := rfl
@[simp] theorem setSn_msc (d : Dev) (a : Nat) : (d.setSn a).msc = d.msc := rfl
@[simp] theorem setSn_tickAt (d : Dev) (a : Nat) : (d.setSn a).tickAt = d.tickAt := rfl
@[simp] theorem setSn_out (d : Dev) (a : Nat) : (d.setSn a).out = d.out := rfl
@[simp] theorem setSn_power (d : Dev) (a : Nat) : (d.setSn a).power = d.power := rfl
@[simp] theorem setSn_sessions (d : Dev) (a : Nat) : (d.setSn a).sessions = d.sessions := rfl
@[simp] theorem setSn_subs (d : Dev) (a : Nat) : (d.setSn a).subs = d.subs := rfl
@[simp] theorem setSn_transfers (d : Dev) (a : Nat) : (d.setSn a).transfers = d.transfers := rfl
@[simp] theorem setSn_nextTransfer (d : Dev) (a : Nat) : (d.setSn a).nextTransfer = d.nextTransfer := rfl
@[simp] theorem setSn_nextSub (d : Dev) (a : Nat) : (d.setSn a).nextSub = d.nextSub := rfl
@[simp] theorem setSn_lastStatus (d : Dev) (a : Nat) : (d.setSn a).lastStatus = d.lastStatus := rfl
@[simp] theorem setSn_blocked (d : Dev) (a : Nat) : (d.setSn a).blocked = d.blocked := rfl
@[simp] theorem setSn_refusals (d : Dev) (a : Nat) : (d.setSn a).refusals = d.refusals := rfl
@[simp] theorem setSn_cal (d : Dev) (a : Nat) : (d.setSn a).cal = d.cal := rfl
@[simp] theorem setSn_motion (d : Dev) (a : Nat) : (d.setSn a).motion = d.motion := rfl
@[simp] theorem setSn_motionDue (d : Dev) (a : Nat) : (d.setSn a).motionDue = d.motionDue := rfl
@[simp] theorem setSn_lift (d : Dev) (a : Nat) : (d.setSn a).lift = d.lift := rfl
@[simp] theorem setSn_log (d : Dev) (a : Nat) : (d.setSn a).log = d.log := rfl
@[simp] theorem setSn_geo (d : Dev) (a : Nat) : (d.setSn a).geo = d.geo := rfl
@[simp] theorem setSn_planes (d : Dev) (a : Nat) : (d.setSn a).planes = d.planes := rfl
@[simp] theorem setSn_rend (d : Dev) (a : Nat) : (d.setSn a).rend = d.rend := rfl
@[simp] theorem setSn_mix (d : Dev) (a : Nat) : (d.setSn a).mix = d.mix := rfl
@[simp] theorem setSn_corr (d : Dev) (a : Nat) : (d.setSn a).corr = d.corr := rfl
@[simp] theorem setSn_ports (d : Dev) (a : Nat) : (d.setSn a).ports = d.ports := rfl
@[simp] theorem setSn_rxRings (d : Dev) (a : Nat) : (d.setSn a).rxRings = d.rxRings := rfl
@[simp] theorem setSn_txRings (d : Dev) (a : Nat) : (d.setSn a).txRings = d.txRings := rfl
@[simp] theorem setSn_flows (d : Dev) (a : Nat) : (d.setSn a).flows = d.flows := rfl
@[simp] theorem setSn_pool (d : Dev) (a : Nat) : (d.setSn a).pool = d.pool := rfl
@[simp] theorem setSn_tdm (d : Dev) (a : Nat) : (d.setSn a).tdm = d.tdm := rfl
@[simp] theorem setSn_headset (d : Dev) (a : Nat) : (d.setSn a).headset = d.headset := rfl
@[simp] theorem setSn_recd (d : Dev) (a : Nat) : (d.setSn a).recd = d.recd := rfl
@[simp] theorem setSn_serving (d : Dev) (a : Nat) : (d.setSn a).serving = d.serving := rfl
@[simp] theorem setSn_fwRead (d : Dev) (a : Nat) : (d.setSn a).fwRead = d.fwRead := rfl
@[simp] theorem setSn_lastResult (d : Dev) (a : Nat) : (d.setSn a).lastResult = d.lastResult := rfl
@[simp] theorem setSn_dram (d : Dev) (a : Nat) : (d.setSn a).dram = d.dram := rfl
@[simp] theorem setSn_sram (d : Dev) (a : Nat) : (d.setSn a).sram = d.sram := rfl
@[simp] theorem setSn_pair (d : Dev) (a : Nat) : (d.setSn a).pair = d.pair := rfl
@[simp] theorem setSn_drada (d : Dev) (a : Nat) : (d.setSn a).drada = d.drada := rfl
@[simp] theorem setSn_sup (d : Dev) (a : Nat) : (d.setSn a).sup = d.sup := rfl
@[simp] theorem setSn_sec (d : Dev) (a : Nat) : (d.setSn a).sec = d.sec := rfl
@[simp] theorem setSn_season (d : Dev) (a : Nat) : (d.setSn a).season = d.season := rfl
@[simp] theorem setSn_gathers (d : Dev) (a : Nat) : (d.setSn a).gathers = d.gathers := rfl
@[simp] theorem setSn_nextRequest (d : Dev) (a : Nat) : (d.setSn a).nextRequest = d.nextRequest := rfl
@[simp] theorem setSn_heldEnds (d : Dev) (a : Nat) : (d.setSn a).heldEnds = d.heldEnds := rfl
@[simp] theorem setSn_perturb (d : Dev) (a : Nat) : (d.setSn a).perturb = d.perturb := rfl
@[simp] theorem setStage_power (f : Power → Power) (d : Dev) : (d.setStage f).power = f d.power := rfl
@[simp] theorem setSeason_season (f : Season → Season) (d : Dev) : (d.setSeason f).season = f d.season := rfl
@[simp] theorem setPerturb_perturb (f : Perturb → Perturb) (d : Dev) : (d.setPerturb f).perturb = f d.perturb := rfl
@[simp] theorem setSec_sec (f : Security → Security) (d : Dev) : (d.setSec f).sec = f d.sec := rfl
@[simp] theorem setSram_sram (f : Sram → Sram) (d : Dev) : (d.setSram f).sram = f d.sram := rfl
@[simp] theorem setSup_sup (f : Super → Super) (d : Dev) : (d.setSup f).sup = f d.sup := rfl
@[simp] theorem setAlm_alm (d : Dev) (f : Almanac → Almanac) : (d.setAlm f).alm = f d.alm := rfl
@[simp] theorem setPair_pair (f : Pair → Pair) (d : Dev) : (d.setPair f).pair = f d.pair := rfl
@[simp] theorem setDrada_drada (f : Drada → Drada) (d : Dev) : (d.setDrada f).drada = f d.drada := rfl
@[simp] theorem setCal_cal (f : Calendar → Calendar) (d : Dev) : (d.setCal f).cal = f d.cal := rfl
@[simp] theorem setTimer_timers (d : Dev) (k t : Nat) : (d.setTimer k t).timers = nset 0 d.timers k t := rfl
@[simp] theorem emit_out (o : Out) (d : Dev) : (d.emit o).out = o :: d.out := rfl
@[simp] theorem setPort_ports (d : Dev) (p : Nat) (f : Port → Port) : (d.setPort p f).ports = d.ports.modify p f := rfl
@[simp] theorem setTdm_tdm (p : Nat) (f : TdmPort → TdmPort) (d : Dev) : (d.setTdm p f).tdm = d.tdm.modify p f := rfl
@[simp] theorem setFifo_motion (d : Dev) (f : Nat) (g : MotionFifo → MotionFifo) : (d.setFifo f g).motion = d.motion.modify f g := rfl

/-! #### Read after write: the ports, links, channels and FIFOs by number -/

@[simp] theorem setPort_port_ne (d : Dev) (p q : Nat) (f : Port → Port) (h : p ≠ q) : (d.setPort p f).port q = d.port q := Fixed.get_modify_ne _ _ _ _ _ h
theorem setPort_port_same (d : Dev) (p : Nat) (f : Port → Port) (h : p < 5) : (d.setPort p f).port p = f (d.port p) := Fixed.get_modify_same _ _ _ _ h
@[simp] theorem setTdm_tdmPort_ne (d : Dev) (p q : Nat) (f : TdmPort → TdmPort) (h : p ≠ q) : (d.setTdm p f).tdmPort q = d.tdmPort q := Fixed.get_modify_ne _ _ _ _ _ h
theorem setTdm_tdmPort_same (d : Dev) (p : Nat) (f : TdmPort → TdmPort) (h : p < 4) : (d.setTdm p f).tdmPort p = f (d.tdmPort p) := Fixed.get_modify_same _ _ _ _ h
@[simp] theorem setFifo_fifo_ne (d : Dev) (p q : Nat) (f : MotionFifo → MotionFifo) (h : p ≠ q) : (d.setFifo p f).fifo q = d.fifo q := Fixed.get_modify_ne _ _ _ _ _ h
theorem setFifo_fifo_same (d : Dev) (p : Nat) (f : MotionFifo → MotionFifo) (h : p < 16) : (d.setFifo p f).fifo p = f (d.fifo p) := Fixed.get_modify_same _ _ _ _ h
@[simp] theorem setDlink_dlink_ne (d : Dev) (p q : Nat) (f : DradaLink → DradaLink) (h : p ≠ q) : (d.setDlink p f).dlink q = d.dlink q := Fixed.get_modify_ne _ _ _ _ _ h
theorem setDlink_dlink_same (d : Dev) (p : Nat) (f : DradaLink → DradaLink) (h : p < 3) : (d.setDlink p f).dlink p = f (d.dlink p) := Fixed.get_modify_same _ _ _ _ h
@[simp] theorem setDchan_dchan_ne (d : Dev) (p q : Nat) (f : DramChan → DramChan) (h : p ≠ q) : (d.setDchan p f).dchan q = d.dchan q := Fixed.get_modify_ne _ _ _ _ _ h
theorem setDchan_dchan_same (d : Dev) (p : Nat) (f : DramChan → DramChan) (h : p < 4) : (d.setDchan p f).dchan p = f (d.dchan p) := Fixed.get_modify_same _ _ _ _ h
@[simp] theorem setInput_input_ne (d : Dev) (p q : Nat) (f : ClockInput → ClockInput) (h : p ≠ q) : (d.setInput p f).input q = d.input q := Fixed.get_modify_ne _ _ _ _ _ h
theorem setInput_input_same (d : Dev) (p : Nat) (f : ClockInput → ClockInput) (h : p < 4) : (d.setInput p f).input p = f (d.input p) := Fixed.get_modify_same _ _ _ _ h
@[simp] theorem setSlot_slot_ne (d : Dev) (p q : Nat) (f : Slot → Slot) (h : p ≠ q) : (d.setSlot p f).slot q = d.slot q := Fixed.get_modify_ne _ _ _ _ _ h
theorem setSlot_slot_same (d : Dev) (p : Nat) (f : Slot → Slot) (h : p < 2) : (d.setSlot p f).slot p = f (d.slot p) := Fixed.get_modify_same _ _ _ _ h

end Sys2Proof.Machine.Dev
end

