-- ==== Sys2Proof/Laws/Told.lean ====
section
/-! SUPPORT. Everything that telling an event can change: a notice, a log record, a lift-line item. -/

namespace Sys2Proof.Machine

namespace Dev

theorem Told.refl (d : Dev) : Told d d := ⟨rfl, fun _ _ => rfl, fun _ _ => rfl, rfl⟩

theorem Told.trans {a b c : Dev} (h : Told a b) (h' : Told b c) : Told a c := by
  refine ⟨?_, fun k hk => (h'.regs k hk).trans (h.regs k hk), fun k hk => (h'.store k hk).trans (h.store k hk), h'.sessions.trans h.sessions⟩
  have e := h.rest
  rw [← h'.rest] at e
  exact e

/-- A counter of `tellKeys` advanced. -/
theorem told_bump (d : Dev) (r : Row) (i n : Nat) (hk : r.key i ∈ tellKeys) (hs : r.persistent = true → r.key i = 0x220008) :
    Told d (d.bump r i n) := by
  have ne : ∀ k, k ∉ tellKeys → k ≠ r.key i := fun k h e => h (e ▸ hk)
  unfold bump
  by_cases hp : r.persistent
  · simp only [hp, if_true, keep, setNat, setVal]
    exact ⟨rfl, fun k h => nget?_nset_ne _ _ _ (ne k h), fun k h => nget?_nset_ne _ _ _ (hs hp ▸ h), rfl⟩
  · simp only [hp, setNat, setVal]
    exact ⟨rfl, fun k h => nget?_nset_ne _ _ _ (ne k h), fun k h => rfl, rfl⟩

theorem told_logFifoPeak (d : Dev) (n : Nat) : Told d (d.peak Reg.logFifoPeak n) := by
  unfold peak
  split
  · exact ⟨rfl, fun k h => nget?_nset_ne _ _ _ (fun e => h (e ▸ by decide)), fun k _ => rfl, rfl⟩
  · exact Told.refl d

theorem told_log (d : Dev) (l : Log) : Told d { d with log := l } := ⟨rfl, fun _ _ => rfl, fun _ _ => rfl, rfl⟩

theorem told_lift (d : Dev) (l : Lift) : Told d { d with lift := l } := ⟨rfl, fun _ _ => rfl, fun _ _ => rfl, rfl⟩

theorem told_limiter (d : Dev) (l : NMap Nat) : Told d { d with limiter := l } := ⟨rfl, fun _ _ => rfl, fun _ _ => rfl, rfl⟩

theorem told_logLost (d : Dev) : Told d (d.bump Reg.logLost) := told_bump d _ 0 1 (by decide) (fun _ => by decide)

/-- What a record into the log FIFO can change (R499). -/
theorem told_fifoPush (x : LogRec) (d : Dev) : Told d (d.fifoPush x) := by
  unfold fifoPush
  simp only
  split
  · exact (told_log d _).trans (told_logFifoPeak _ _)
  · split
    · split
      · exact (told_log d _).trans (told_logLost _)
      · exact told_log d _
    · exact (told_log d _).trans (told_logLost _)

/-- What the start of the next item can change (R101). -/
theorem told_dispatch (d : Dev) : Told d d.dispatch := by
  unfold dispatch
  split
  · rename_i e x _ hx
    refine (told_lift d _).trans (told_bump _ Reg.levelServed x.level 1 ?_ (fun h => absurd h (by decide)))
    obtain ⟨l, hl, hf⟩ := List.exists_of_findSome?_eq_some hx
    have hlt : l < 8 := by simpa using hl
    have he : x.level = l := by
      have := List.find?_some hf
      simp only [Bool.and_eq_true, beq_iff_eq] at this
      exact this.1.1
    subst he
    have : x.level = 0 ∨ x.level = 1 ∨ x.level = 2 ∨ x.level = 3 ∨ x.level = 4 ∨ x.level = 5 ∨ x.level = 6 ∨ x.level = 7 := by omega
    rcases this with h | h | h | h | h | h | h | h <;> rw [h] <;> decide
  · exact Told.refl d

theorem told_liftPut? {d d' : Dev} {kind flow : Nat} {job : LiftJob} (h : d.liftPut? kind flow job = some d') : Told d d' := by
  unfold liftPut? at h
  simp only at h
  split at h
  · cases h; exact (told_lift d _).trans (told_dispatch _)
  · cases h

/-- What offering a notice to the sessions can change (R61). -/
theorem told_offerNotice (n : NoticeRec) (d : Dev) : Told d (d.offerNotice n) := by
  have step : ∀ (e : Dev) (s : Session), Told e (queueNotice n e s).2 ∧ (queueNotice n e s).1.still = s.still := by
    intro e s
    unfold queueNotice
    split
    · exact ⟨Told.refl e, rfl⟩
    · exact ⟨told_bump e Reg.noticesLost 0 1 (by decide) (fun h => absurd h (by decide)), rfl⟩
  have fold : ∀ (l : List Session) (acc : List Session) (e : Dev),
      let r := l.foldl (fun (a : List Session × Dev) s =>
        if d.wantsArea s (areaOf (n.code / 256 * 256)) then
          let q := queueNotice n a.2 s
          (a.1 ++ [q.1], q.2)
        else (a.1 ++ [s], a.2)) (acc, e)
      Told e r.2 ∧ r.1.map Session.still = acc.map Session.still ++ l.map Session.still := by
    intro l
    induction l with
    | nil => intro acc e; simp [Told.refl]
    | cons s t ih =>
      intro acc e
      simp only [List.foldl_cons]
      by_cases hw : d.wantsArea s (areaOf (n.code / 256 * 256))
      · simp only [hw, if_true]
        obtain ⟨h1, h2⟩ := step e s
        obtain ⟨h3, h4⟩ := ih (acc ++ [(queueNotice n e s).1]) (queueNotice n e s).2
        exact ⟨h1.trans h3, by rw [h4]; simp [h2]⟩
      · simp only [hw]
        obtain ⟨h3, h4⟩ := ih (acc ++ [s]) e
        exact ⟨h3, by simpa using h4⟩
  obtain ⟨h1, h2⟩ := fold d.sessions [] d
  unfold offerNotice
  exact ⟨h1.rest, h1.regs, h1.store, by simpa using h2⟩

theorem told_fifoPushExt (x : LogRec) (ext : Octets) (d : Dev) : Told d (d.fifoPushExt x ext) := by
  have fold : ∀ (l : List (Octets × Nat)) (n : Nat) (e : Dev), Told e (l.foldl (fun d p =>
      d.fifoPush { x with kind := 4, ext := p.1, flags := if p.2 + 1 < n then 1 else 0 }) e) := by
    intro l n
    induction l with
    | nil => exact Told.refl
    | cons p t ih => intro e; exact (told_fifoPush _ e).trans (ih _)
  unfold fifoPushExt
  exact (told_fifoPush _ d).trans (fold _ _ _)

theorem told_noticeAt (code idx sub arg : Nat) (d : Dev) : Told d (d.noticeAt code idx sub arg) := by
  unfold noticeAt
  simp only
  split
  · exact (told_offerNotice _ d).trans (told_fifoPushExt _ _ _)
  · exact (told_offerNotice _ d).trans (told_fifoPush _ _)

theorem told_noticeRaw (code arg : Nat) (d : Dev) : Told d (d.noticeRaw code arg) := told_noticeAt _ _ _ _ d

theorem told_oncePerSecond (k : Nat) (d : Dev) : Told d (d.oncePerSecond k).2 := by
  unfold oncePerSecond
  split
  · split
    · exact Told.refl d
    · exact told_limiter d _
  · exact told_limiter d _

theorem told_liftFullNotice (kind : Nat) (d : Dev) : Told d (d.liftFullNotice kind) := by
  unfold liftFullNotice
  simp only
  split
  · exact (told_oncePerSecond _ d).trans (told_noticeRaw _ _ _)
  · exact told_oncePerSecond _ d

/-- What queueing a work item can change, whether a place is free or not (R104). -/
theorem told_liftPut (kind flow : Nat) (job : LiftJob) (d : Dev) : Told d (d.liftPut kind flow job) := by
  unfold liftPut
  split
  · rename_i h; exact told_liftPut? h
  · refine ((told_bump d Reg.liftFull 0 1 (by decide) (fun h => absurd h (by decide))).trans ?_).trans (told_liftFullNotice _ _)
    exact told_lift _ _

theorem told_logQueue (kind : Nat) (d : Dev) : Told d (d.logQueue kind) := by
  unfold logQueue
  split
  · exact Told.refl d
  · exact told_liftPut _ _ _ d

theorem told_logPressure (d : Dev) : Told d d.logPressure := by
  unfold logPressure
  simp only
  split
  · exact (told_log d _).trans (told_noticeRaw _ _ _)
  · exact told_log d _

/-- What a log record can change (R499). -/
theorem told_logEvent (x : LogRec) (d : Dev) : Told d (d.logEvent x) :=
  ((told_fifoPush x d).trans (told_logQueue _ _)).trans (told_logPressure _)

/-- What a notice of a named entry can change (R61, R498). -/
theorem told_noticeOf (code idx sub arg : Nat) (d : Dev) : Told d (d.noticeOf code idx sub arg) :=
  ((told_noticeAt code idx sub arg d).trans (told_logQueue _ _)).trans (told_logPressure _)

/-- What a notice can change (R61, R498). -/
theorem told_notice (code arg : Nat) (d : Dev) : Told d (d.notice code arg) :=
  ((told_noticeRaw code arg d).trans (told_logQueue _ _)).trans (told_logPressure _)

/-- What a notice raised at most once per second can change. -/
theorem told_noticeOnce (key code arg : Nat) (d : Dev) : Told d (d.noticeOnce key code arg) := by
  unfold noticeOnce
  simp only
  split
  · exact (told_oncePerSecond _ d).trans (told_notice _ _ _)
  · exact told_oncePerSecond _ d

/-- What a fault record can change (R498). -/
theorem told_logFault (code arg : Nat) (d : Dev) : Told d (d.logFault code arg) := told_logEvent _ d

/-- What a corrected error's record can change (R31). -/
theorem told_logCorrected (source code arg : Nat) (d : Dev) : Told d (d.logCorrected source code arg) := by
  unfold logCorrected
  simp only
  split
  · exact (told_oncePerSecond _ d).trans (told_logFault _ _ _)
  · exact told_oncePerSecond _ d

end Dev

end Sys2Proof.Machine
end

