-- ==== Sys2Proof/Laws/ToldFields.lean ====
section
/-! SUPPORT. The fields that telling an event leaves alone, one lemma per field per operation. -/

namespace Sys2Proof.Machine.Dev

theorem Told.force {d d' : Dev} (h : Told d d') : d'.force = d.force := (congrArg Dev.force h.rest :)
theorem Told.dated {d d' : Dev} (h : Told d d') : d'.dated = d.dated := (congrArg Dev.dated h.rest :)
theorem Told.clock {d d' : Dev} (h : Told d d') : d'.clock = d.clock := (congrArg Dev.clock h.rest :)
theorem Told.frcBase {d d' : Dev} (h : Told d d') : d'.frcBase = d.frcBase := (congrArg Dev.frcBase h.rest :)
theorem Told.timers {d d' : Dev} (h : Told d d') : d'.timers = d.timers := (congrArg Dev.timers h.rest :)
theorem Told.freeCtr {d d' : Dev} (h : Told d d') : d'.freeCtr = d.freeCtr := (congrArg Dev.freeCtr h.rest :)
theorem Told.msc {d d' : Dev} (h : Told d d') : d'.msc = d.msc := (congrArg Dev.msc h.rest :)
theorem Told.tickAt {d d' : Dev} (h : Told d d') : d'.tickAt = d.tickAt := (congrArg Dev.tickAt h.rest :)
theorem Told.out {d d' : Dev} (h : Told d d') : d'.out = d.out := (congrArg Dev.out h.rest :)
theorem Told.power {d d' : Dev} (h : Told d d') : d'.power = d.power := (congrArg Dev.power h.rest :)
theorem Told.subs {d d' : Dev} (h : Told d d') : d'.subs = d.subs := (congrArg Dev.subs h.rest :)
theorem Told.transfers {d d' : Dev} (h : Told d d') : d'.transfers = d.transfers := (congrArg Dev.transfers h.rest :)
theorem Told.nextTransfer {d d' : Dev} (h : Told d d') : d'.nextTransfer = d.nextTransfer := (congrArg Dev.nextTransfer h.rest :)
theorem Told.nextSub {d d' : Dev} (h : Told d d') : d'.nextSub = d.nextSub := (congrArg Dev.nextSub h.rest :)
theorem Told.lastStatus {d d' : Dev} (h : Told d d') : d'.lastStatus = d.lastStatus := (congrArg Dev.lastStatus h.rest :)
theorem Told.blocked {d d' : Dev} (h : Told d d') : d'.blocked = d.blocked := (congrArg Dev.blocked h.rest :)
theorem Told.refusals {d d' : Dev} (h : Told d d') : d'.refusals = d.refusals := (congrArg Dev.refusals h.rest :)
theorem Told.cal {d d' : Dev} (h : Told d d') : d'.cal = d.cal := (congrArg Dev.cal h.rest :)
theorem Told.motion {d d' : Dev} (h : Told d d') : d'.motion = d.motion := (congrArg Dev.motion h.rest :)
theorem Told.motionDue {d d' : Dev} (h : Told d d') : d'.motionDue = d.motionDue := (congrArg Dev.motionDue h.rest :)
theorem Told.geo {d d' : Dev} (h : Told d d') : d'.geo = d.geo := (congrArg Dev.geo h.rest :)
theorem Told.planes {d d' : Dev} (h : Told d d') : d'.planes = d.planes := (congrArg Dev.planes h.rest :)
theorem Told.rend {d d' : Dev} (h : Told d d') : d'.rend = d.rend := (congrArg Dev.rend h.rest :)
theorem Told.mix {d d' : Dev} (h : Told d d') : d'.mix = d.mix := (congrArg Dev.mix h.rest :)
theorem Told.corr {d d' : Dev} (h : Told d d') : d'.corr = d.corr := (congrArg Dev.corr h.rest :)
theorem Told.ports {d d' : Dev} (h : Told d d') : d'.ports = d.ports := (congrArg Dev.ports h.rest :)
theorem Told.rxRings {d d' : Dev} (h : Told d d') : d'.rxRings = d.rxRings := (congrArg Dev.rxRings h.rest :)
theorem Told.txRings {d d' : Dev} (h : Told d d') : d'.txRings = d.txRings := (congrArg Dev.txRings h.rest :)
theorem Told.flows {d d' : Dev} (h : Told d d') : d'.flows = d.flows := (congrArg Dev.flows h.rest :)
theorem Told.pool {d d' : Dev} (h : Told d d') : d'.pool = d.pool := (congrArg Dev.pool h.rest :)
theorem Told.tdm {d d' : Dev} (h : Told d d') : d'.tdm = d.tdm := (congrArg Dev.tdm h.rest :)
theorem Told.headset {d d' : Dev} (h : Told d d') : d'.headset = d.headset := (congrArg Dev.headset h.rest :)
theorem Told.recd {d d' : Dev} (h : Told d d') : d'.recd = d.recd := (congrArg Dev.recd h.rest :)
theorem Told.serving {d d' : Dev} (h : Told d d') : d'.serving = d.serving := (congrArg Dev.serving h.rest :)
theorem Told.fwRead {d d' : Dev} (h : Told d d') : d'.fwRead = d.fwRead := (congrArg Dev.fwRead h.rest :)
theorem Told.lastResult {d d' : Dev} (h : Told d d') : d'.lastResult = d.lastResult := (congrArg Dev.lastResult h.rest :)
theorem Told.alm {d d' : Dev} (h : Told d d') : d'.alm = d.alm := (congrArg Dev.alm h.rest :)
theorem Told.dram {d d' : Dev} (h : Told d d') : d'.dram = d.dram := (congrArg Dev.dram h.rest :)
theorem Told.sram {d d' : Dev} (h : Told d d') : d'.sram = d.sram := (congrArg Dev.sram h.rest :)
theorem Told.pair {d d' : Dev} (h : Told d d') : d'.pair = d.pair := (congrArg Dev.pair h.rest :)
theorem Told.drada {d d' : Dev} (h : Told d d') : d'.drada = d.drada := (congrArg Dev.drada h.rest :)
theorem Told.sup {d d' : Dev} (h : Told d d') : d'.sup = d.sup := (congrArg Dev.sup h.rest :)
theorem Told.sec {d d' : Dev} (h : Told d d') : d'.sec = d.sec := (congrArg Dev.sec h.rest :)
theorem Told.season {d d' : Dev} (h : Told d d') : d'.season = d.season := (congrArg Dev.season h.rest :)
theorem Told.gathers {d d' : Dev} (h : Told d d') : d'.gathers = d.gathers := (congrArg Dev.gathers h.rest :)
theorem Told.nextRequest {d d' : Dev} (h : Told d d') : d'.nextRequest = d.nextRequest := (congrArg Dev.nextRequest h.rest :)
theorem Told.heldEnds {d d' : Dev} (h : Told d d') : d'.heldEnds = d.heldEnds := (congrArg Dev.heldEnds h.rest :)
theorem Told.perturb {d d' : Dev} (h : Told d d') : d'.perturb = d.perturb := (congrArg Dev.perturb h.rest :)

/-! #### notice -/

@[simp] theorem notice_force (code arg : Nat) (d : Dev) : (d.notice code arg).force = d.force := (told_notice code arg d).force
@[simp] theorem notice_dated (code arg : Nat) (d : Dev) : (d.notice code arg).dated = d.dated := (told_notice code arg d).dated
@[simp] theorem notice_clock (code arg : Nat) (d : Dev) : (d.notice code arg).clock = d.clock := (told_notice code arg d).clock
@[simp] theorem notice_frcBase (code arg : Nat) (d : Dev) : (d.notice code arg).frcBase = d.frcBase := (told_notice code arg d).frcBase
@[simp] theorem notice_timers (code arg : Nat) (d : Dev) : (d.notice code arg).timers = d.timers := (told_notice code arg d).timers
@[simp] theorem notice_freeCtr (code arg : Nat) (d : Dev) : (d.notice code arg).freeCtr = d.freeCtr := (told_notice code arg d).freeCtr
@[simp] theorem notice_msc (code arg : Nat) (d : Dev) : (d.notice code arg).msc = d.msc := (told_notice code arg d).msc
@[simp] theorem notice_tickAt (code arg : Nat) (d : Dev) : (d.notice code arg).tickAt = d.tickAt := (told_notice code arg d).tickAt
@[simp] theorem notice_out (code arg : Nat) (d : Dev) : (d.notice code arg).out = d.out := (told_notice code arg d).out
@[simp] theorem notice_power (code arg : Nat) (d : Dev) : (d.notice code arg).power = d.power := (told_notice code arg d).power
@[simp] theorem notice_subs (code arg : Nat) (d : Dev) : (d.notice code arg).subs = d.subs := (told_notice code arg d).subs
@[simp] theorem notice_transfers (code arg : Nat) (d : Dev) : (d.notice code arg).transfers = d.transfers := (told_notice code arg d).transfers
@[simp] theorem notice_nextTransfer (code arg : Nat) (d : Dev) : (d.notice code arg).nextTransfer = d.nextTransfer := (told_notice code arg d).nextTransfer
@[simp] theorem notice_nextSub (code arg : Nat) (d : Dev) : (d.notice code arg).nextSub = d.nextSub := (told_notice code arg d).nextSub
@[simp] theorem notice_lastStatus (code arg : Nat) (d : Dev) : (d.notice code arg).lastStatus = d.lastStatus := (told_notice code arg d).lastStatus
@[simp] theorem notice_blocked (code arg : Nat) (d : Dev) : (d.notice code arg).blocked = d.blocked := (told_notice code arg d).blocked
@[simp] theorem notice_refusals (code arg : Nat) (d : Dev) : (d.notice code arg).refusals = d.refusals := (told_notice code arg d).refusals
@[simp] theorem notice_cal (code arg : Nat) (d : Dev) : (d.notice code arg).cal = d.cal := (told_notice code arg d).cal
@[simp] theorem notice_motion (code arg : Nat) (d : Dev) : (d.notice code arg).motion = d.motion := (told_notice code arg d).motion
@[simp] theorem notice_motionDue (code arg : Nat) (d : Dev) : (d.notice code arg).motionDue = d.motionDue := (told_notice code arg d).motionDue
@[simp] theorem notice_geo (code arg : Nat) (d : Dev) : (d.notice code arg).geo = d.geo := (told_notice code arg d).geo
@[simp] theorem notice_planes (code arg : Nat) (d : Dev) : (d.notice code arg).planes = d.planes := (told_notice code arg d).planes
@[simp] theorem notice_rend (code arg : Nat) (d : Dev) : (d.notice code arg).rend = d.rend := (told_notice code arg d).rend
@[simp] theorem notice_mix (code arg : Nat) (d : Dev) : (d.notice code arg).mix = d.mix := (told_notice code arg d).mix
@[simp] theorem notice_corr (code arg : Nat) (d : Dev) : (d.notice code arg).corr = d.corr := (told_notice code arg d).corr
@[simp] theorem notice_ports (code arg : Nat) (d : Dev) : (d.notice code arg).ports = d.ports := (told_notice code arg d).ports
@[simp] theorem notice_rxRings (code arg : Nat) (d : Dev) : (d.notice code arg).rxRings = d.rxRings := (told_notice code arg d).rxRings
@[simp] theorem notice_txRings (code arg : Nat) (d : Dev) : (d.notice code arg).txRings = d.txRings := (told_notice code arg d).txRings
@[simp] theorem notice_flows (code arg : Nat) (d : Dev) : (d.notice code arg).flows = d.flows := (told_notice code arg d).flows
@[simp] theorem notice_pool (code arg : Nat) (d : Dev) : (d.notice code arg).pool = d.pool := (told_notice code arg d).pool
@[simp] theorem notice_tdm (code arg : Nat) (d : Dev) : (d.notice code arg).tdm = d.tdm := (told_notice code arg d).tdm
@[simp] theorem notice_headset (code arg : Nat) (d : Dev) : (d.notice code arg).headset = d.headset := (told_notice code arg d).headset
@[simp] theorem notice_recd (code arg : Nat) (d : Dev) : (d.notice code arg).recd = d.recd := (told_notice code arg d).recd
@[simp] theorem notice_serving (code arg : Nat) (d : Dev) : (d.notice code arg).serving = d.serving := (told_notice code arg d).serving
@[simp] theorem notice_fwRead (code arg : Nat) (d : Dev) : (d.notice code arg).fwRead = d.fwRead := (told_notice code arg d).fwRead
@[simp] theorem notice_lastResult (code arg : Nat) (d : Dev) : (d.notice code arg).lastResult = d.lastResult := (told_notice code arg d).lastResult
@[simp] theorem notice_alm (code arg : Nat) (d : Dev) : (d.notice code arg).alm = d.alm := (told_notice code arg d).alm
@[simp] theorem notice_dram (code arg : Nat) (d : Dev) : (d.notice code arg).dram = d.dram := (told_notice code arg d).dram
@[simp] theorem notice_sram (code arg : Nat) (d : Dev) : (d.notice code arg).sram = d.sram := (told_notice code arg d).sram
@[simp] theorem notice_pair (code arg : Nat) (d : Dev) : (d.notice code arg).pair = d.pair := (told_notice code arg d).pair
@[simp] theorem notice_drada (code arg : Nat) (d : Dev) : (d.notice code arg).drada = d.drada := (told_notice code arg d).drada
@[simp] theorem notice_sup (code arg : Nat) (d : Dev) : (d.notice code arg).sup = d.sup := (told_notice code arg d).sup
@[simp] theorem notice_sec (code arg : Nat) (d : Dev) : (d.notice code arg).sec = d.sec := (told_notice code arg d).sec
@[simp] theorem notice_season (code arg : Nat) (d : Dev) : (d.notice code arg).season = d.season := (told_notice code arg d).season
@[simp] theorem notice_gathers (code arg : Nat) (d : Dev) : (d.notice code arg).gathers = d.gathers := (told_notice code arg d).gathers
@[simp] theorem notice_nextRequest (code arg : Nat) (d : Dev) : (d.notice code arg).nextRequest = d.nextRequest := (told_notice code arg d).nextRequest
@[simp] theorem notice_heldEnds (code arg : Nat) (d : Dev) : (d.notice code arg).heldEnds = d.heldEnds := (told_notice code arg d).heldEnds
@[simp] theorem notice_perturb (code arg : Nat) (d : Dev) : (d.notice code arg).perturb = d.perturb := (told_notice code arg d).perturb

/-! #### noticeOf -/

@[simp] theorem noticeOf_force (code idx sub arg : Nat) (d : Dev) : (d.noticeOf code idx sub arg).force = d.force := (told_noticeOf code idx sub arg d).force
@[simp] theorem noticeOf_dated (code idx sub arg : Nat) (d : Dev) : (d.noticeOf code idx sub arg).dated = d.dated := (told_noticeOf code idx sub arg d).dated
@[simp] theorem noticeOf_clock (code idx sub arg : Nat) (d : Dev) : (d.noticeOf code idx sub arg).clock = d.clock := (told_noticeOf code idx sub arg d).clock
@[simp] theorem noticeOf_frcBase (code idx sub arg : Nat) (d : Dev) : (d.noticeOf code idx sub arg).frcBase = d.frcBase := (told_noticeOf code idx sub arg d).frcBase
@[simp] theorem noticeOf_timers (code idx sub arg : Nat) (d : Dev) : (d.noticeOf code idx sub arg).timers = d.timers := (told_noticeOf code idx sub arg d).timers
@[simp] theorem noticeOf_freeCtr (code idx sub arg : Nat) (d : Dev) : (d.noticeOf code idx sub arg).freeCtr = d.freeCtr := (told_noticeOf code idx sub arg d).freeCtr
@[simp] theorem noticeOf_msc (code idx sub arg : Nat) (d : Dev) : (d.noticeOf code idx sub arg).msc = d.msc := (told_noticeOf code idx sub arg d).msc
@[simp] theorem noticeOf_tickAt (code idx sub arg : Nat) (d : Dev) : (d.noticeOf code idx sub arg).tickAt = d.tickAt := (told_noticeOf code idx sub arg d).tickAt
@[simp] theorem noticeOf_out (code idx sub arg : Nat) (d : Dev) : (d.noticeOf code idx sub arg).out = d.out := (told_noticeOf code idx sub arg d).out
@[simp] theorem noticeOf_power (code idx sub arg : Nat) (d : Dev) : (d.noticeOf code idx sub arg).power = d.power := (told_noticeOf code idx sub arg d).power
@[simp] theorem noticeOf_subs (code idx sub arg : Nat) (d : Dev) : (d.noticeOf code idx sub arg).subs = d.subs := (told_noticeOf code idx sub arg d).subs
@[simp] theorem noticeOf_transfers (code idx sub arg : Nat) (d : Dev) : (d.noticeOf code idx sub arg).transfers = d.transfers := (told_noticeOf code idx sub arg d).transfers
@[simp] theorem noticeOf_nextTransfer (code idx sub arg : Nat) (d : Dev) : (d.noticeOf code idx sub arg).nextTransfer = d.nextTransfer := (told_noticeOf code idx sub arg d).nextTransfer
@[simp] theorem noticeOf_nextSub (code idx sub arg : Nat) (d : Dev) : (d.noticeOf code idx sub arg).nextSub = d.nextSub := (told_noticeOf code idx sub arg d).nextSub
@[simp] theorem noticeOf_lastStatus (code idx sub arg : Nat) (d : Dev) : (d.noticeOf code idx sub arg).lastStatus = d.lastStatus := (told_noticeOf code idx sub arg d).lastStatus
@[simp] theorem noticeOf_blocked (code idx sub arg : Nat) (d : Dev) : (d.noticeOf code idx sub arg).blocked = d.blocked := (told_noticeOf code idx sub arg d).blocked
@[simp] theorem noticeOf_refusals (code idx sub arg : Nat) (d : Dev) : (d.noticeOf code idx sub arg).refusals = d.refusals := (told_noticeOf code idx sub arg d).refusals
@[simp] theorem noticeOf_cal (code idx sub arg : Nat) (d : Dev) : (d.noticeOf code idx sub arg).cal = d.cal := (told_noticeOf code idx sub arg d).cal
@[simp] theorem noticeOf_motion (code idx sub arg : Nat) (d : Dev) : (d.noticeOf code idx sub arg).motion = d.motion := (told_noticeOf code idx sub arg d).motion
@[simp] theorem noticeOf_motionDue (code idx sub arg : Nat) (d : Dev) : (d.noticeOf code idx sub arg).motionDue = d.motionDue := (told_noticeOf code idx sub arg d).motionDue
@[simp] theorem noticeOf_geo (code idx sub arg : Nat) (d : Dev) : (d.noticeOf code idx sub arg).geo = d.geo := (told_noticeOf code idx sub arg d).geo
@[simp] theorem noticeOf_planes (code idx sub arg : Nat) (d : Dev) : (d.noticeOf code idx sub arg).planes = d.planes := (told_noticeOf code idx sub arg d).planes
@[simp] theorem noticeOf_rend (code idx sub arg : Nat) (d : Dev) : (d.noticeOf code idx sub arg).rend = d.rend := (told_noticeOf code idx sub arg d).rend
@[simp] theorem noticeOf_mix (code idx sub arg : Nat) (d : Dev) : (d.noticeOf code idx sub arg).mix = d.mix := (told_noticeOf code idx sub arg d).mix
@[simp] theorem noticeOf_corr (code idx sub arg : Nat) (d : Dev) : (d.noticeOf code idx sub arg).corr = d.corr := (told_noticeOf code idx sub arg d).corr
@[simp] theorem noticeOf_ports (code idx sub arg : Nat) (d : Dev) : (d.noticeOf code idx sub arg).ports = d.ports := (told_noticeOf code idx sub arg d).ports
@[simp] theorem noticeOf_rxRings (code idx sub arg : Nat) (d : Dev) : (d.noticeOf code idx sub arg).rxRings = d.rxRings := (told_noticeOf code idx sub arg d).rxRings
@[simp] theorem noticeOf_txRings (code idx sub arg : Nat) (d : Dev) : (d.noticeOf code idx sub arg).txRings = d.txRings := (told_noticeOf code idx sub arg d).txRings
@[simp] theorem noticeOf_flows (code idx sub arg : Nat) (d : Dev) : (d.noticeOf code idx sub arg).flows = d.flows := (told_noticeOf code idx sub arg d).flows
@[simp] theorem noticeOf_pool (code idx sub arg : Nat) (d : Dev) : (d.noticeOf code idx sub arg).pool = d.pool := (told_noticeOf code idx sub arg d).pool
@[simp] theorem noticeOf_tdm (code idx sub arg : Nat) (d : Dev) : (d.noticeOf code idx sub arg).tdm = d.tdm := (told_noticeOf code idx sub arg d).tdm
@[simp] theorem noticeOf_headset (code idx sub arg : Nat) (d : Dev) : (d.noticeOf code idx sub arg).headset = d.headset := (told_noticeOf code idx sub arg d).headset
@[simp] theorem noticeOf_recd (code idx sub arg : Nat) (d : Dev) : (d.noticeOf code idx sub arg).recd = d.recd := (told_noticeOf code idx sub arg d).recd
@[simp] theorem noticeOf_serving (code idx sub arg : Nat) (d : Dev) : (d.noticeOf code idx sub arg).serving = d.serving := (told_noticeOf code idx sub arg d).serving
@[simp] theorem noticeOf_fwRead (code idx sub arg : Nat) (d : Dev) : (d.noticeOf code idx sub arg).fwRead = d.fwRead := (told_noticeOf code idx sub arg d).fwRead
@[simp] theorem noticeOf_lastResult (code idx sub arg : Nat) (d : Dev) : (d.noticeOf code idx sub arg).lastResult = d.lastResult := (told_noticeOf code idx sub arg d).lastResult
@[simp] theorem noticeOf_alm (code idx sub arg : Nat) (d : Dev) : (d.noticeOf code idx sub arg).alm = d.alm := (told_noticeOf code idx sub arg d).alm
@[simp] theorem noticeOf_dram (code idx sub arg : Nat) (d : Dev) : (d.noticeOf code idx sub arg).dram = d.dram := (told_noticeOf code idx sub arg d).dram
@[simp] theorem noticeOf_sram (code idx sub arg : Nat) (d : Dev) : (d.noticeOf code idx sub arg).sram = d.sram := (told_noticeOf code idx sub arg d).sram
@[simp] theorem noticeOf_pair (code idx sub arg : Nat) (d : Dev) : (d.noticeOf code idx sub arg).pair = d.pair := (told_noticeOf code idx sub arg d).pair
@[simp] theorem noticeOf_drada (code idx sub arg : Nat) (d : Dev) : (d.noticeOf code idx sub arg).drada = d.drada := (told_noticeOf code idx sub arg d).drada
@[simp] theorem noticeOf_sup (code idx sub arg : Nat) (d : Dev) : (d.noticeOf code idx sub arg).sup = d.sup := (told_noticeOf code idx sub arg d).sup
@[simp] theorem noticeOf_sec (code idx sub arg : Nat) (d : Dev) : (d.noticeOf code idx sub arg).sec = d.sec := (told_noticeOf code idx sub arg d).sec
@[simp] theorem noticeOf_season (code idx sub arg : Nat) (d : Dev) : (d.noticeOf code idx sub arg).season = d.season := (told_noticeOf code idx sub arg d).season
@[simp] theorem noticeOf_gathers (code idx sub arg : Nat) (d : Dev) : (d.noticeOf code idx sub arg).gathers = d.gathers := (told_noticeOf code idx sub arg d).gathers
@[simp] theorem noticeOf_nextRequest (code idx sub arg : Nat) (d : Dev) : (d.noticeOf code idx sub arg).nextRequest = d.nextRequest := (told_noticeOf code idx sub arg d).nextRequest
@[simp] theorem noticeOf_heldEnds (code idx sub arg : Nat) (d : Dev) : (d.noticeOf code idx sub arg).heldEnds = d.heldEnds := (told_noticeOf code idx sub arg d).heldEnds
@[simp] theorem noticeOf_perturb (code idx sub arg : Nat) (d : Dev) : (d.noticeOf code idx sub arg).perturb = d.perturb := (told_noticeOf code idx sub arg d).perturb

/-! #### noticeOnce -/

@[simp] theorem noticeOnce_force (key code arg : Nat) (d : Dev) : (d.noticeOnce key code arg).force = d.force := (told_noticeOnce key code arg d).force
@[simp] theorem noticeOnce_dated (key code arg : Nat) (d : Dev) : (d.noticeOnce key code arg).dated = d.dated := (told_noticeOnce key code arg d).dated
@[simp] theorem noticeOnce_clock (key code arg : Nat) (d : Dev) : (d.noticeOnce key code arg).clock = d.clock := (told_noticeOnce key code arg d).clock
@[simp] theorem noticeOnce_frcBase (key code arg : Nat) (d : Dev) : (d.noticeOnce key code arg).frcBase = d.frcBase := (told_noticeOnce key code arg d).frcBase
@[simp] theorem noticeOnce_timers (key code arg : Nat) (d : Dev) : (d.noticeOnce key code arg).timers = d.timers := (told_noticeOnce key code arg d).timers
@[simp] theorem noticeOnce_freeCtr (key code arg : Nat) (d : Dev) : (d.noticeOnce key code arg).freeCtr = d.freeCtr := (told_noticeOnce key code arg d).freeCtr
@[simp] theorem noticeOnce_msc (key code arg : Nat) (d : Dev) : (d.noticeOnce key code arg).msc = d.msc := (told_noticeOnce key code arg d).msc
@[simp] theorem noticeOnce_tickAt (key code arg : Nat) (d : Dev) : (d.noticeOnce key code arg).tickAt = d.tickAt := (told_noticeOnce key code arg d).tickAt
@[simp] theorem noticeOnce_out (key code arg : Nat) (d : Dev) : (d.noticeOnce key code arg).out = d.out := (told_noticeOnce key code arg d).out
@[simp] theorem noticeOnce_power (key code arg : Nat) (d : Dev) : (d.noticeOnce key code arg).power = d.power := (told_noticeOnce key code arg d).power
@[simp] theorem noticeOnce_subs (key code arg : Nat) (d : Dev) : (d.noticeOnce key code arg).subs = d.subs := (told_noticeOnce key code arg d).subs
@[simp] theorem noticeOnce_transfers (key code arg : Nat) (d : Dev) : (d.noticeOnce key code arg).transfers = d.transfers := (told_noticeOnce key code arg d).transfers
@[simp] theorem noticeOnce_nextTransfer (key code arg : Nat) (d : Dev) : (d.noticeOnce key code arg).nextTransfer = d.nextTransfer := (told_noticeOnce key code arg d).nextTransfer
@[simp] theorem noticeOnce_nextSub (key code arg : Nat) (d : Dev) : (d.noticeOnce key code arg).nextSub = d.nextSub := (told_noticeOnce key code arg d).nextSub
@[simp] theorem noticeOnce_lastStatus (key code arg : Nat) (d : Dev) : (d.noticeOnce key code arg).lastStatus = d.lastStatus := (told_noticeOnce key code arg d).lastStatus
@[simp] theorem noticeOnce_blocked (key code arg : Nat) (d : Dev) : (d.noticeOnce key code arg).blocked = d.blocked := (told_noticeOnce key code arg d).blocked
@[simp] theorem noticeOnce_refusals (key code arg : Nat) (d : Dev) : (d.noticeOnce key code arg).refusals = d.refusals := (told_noticeOnce key code arg d).refusals
@[simp] theorem noticeOnce_cal (key code arg : Nat) (d : Dev) : (d.noticeOnce key code arg).cal = d.cal := (told_noticeOnce key code arg d).cal
@[simp] theorem noticeOnce_motion (key code arg : Nat) (d : Dev) : (d.noticeOnce key code arg).motion = d.motion := (told_noticeOnce key code arg d).motion
@[simp] theorem noticeOnce_motionDue (key code arg : Nat) (d : Dev) : (d.noticeOnce key code arg).motionDue = d.motionDue := (told_noticeOnce key code arg d).motionDue
@[simp] theorem noticeOnce_geo (key code arg : Nat) (d : Dev) : (d.noticeOnce key code arg).geo = d.geo := (told_noticeOnce key code arg d).geo
@[simp] theorem noticeOnce_planes (key code arg : Nat) (d : Dev) : (d.noticeOnce key code arg).planes = d.planes := (told_noticeOnce key code arg d).planes
@[simp] theorem noticeOnce_rend (key code arg : Nat) (d : Dev) : (d.noticeOnce key code arg).rend = d.rend := (told_noticeOnce key code arg d).rend
@[simp] theorem noticeOnce_mix (key code arg : Nat) (d : Dev) : (d.noticeOnce key code arg).mix = d.mix := (told_noticeOnce key code arg d).mix
@[simp] theorem noticeOnce_corr (key code arg : Nat) (d : Dev) : (d.noticeOnce key code arg).corr = d.corr := (told_noticeOnce key code arg d).corr
@[simp] theorem noticeOnce_ports (key code arg : Nat) (d : Dev) : (d.noticeOnce key code arg).ports = d.ports := (told_noticeOnce key code arg d).ports
@[simp] theorem noticeOnce_rxRings (key code arg : Nat) (d : Dev) : (d.noticeOnce key code arg).rxRings = d.rxRings := (told_noticeOnce key code arg d).rxRings
@[simp] theorem noticeOnce_txRings (key code arg : Nat) (d : Dev) : (d.noticeOnce key code arg).txRings = d.txRings := (told_noticeOnce key code arg d).txRings
@[simp] theorem noticeOnce_flows (key code arg : Nat) (d : Dev) : (d.noticeOnce key code arg).flows = d.flows := (told_noticeOnce key code arg d).flows
@[simp] theorem noticeOnce_pool (key code arg : Nat) (d : Dev) : (d.noticeOnce key code arg).pool = d.pool := (told_noticeOnce key code arg d).pool
@[simp] theorem noticeOnce_tdm (key code arg : Nat) (d : Dev) : (d.noticeOnce key code arg).tdm = d.tdm := (told_noticeOnce key code arg d).tdm
@[simp] theorem noticeOnce_headset (key code arg : Nat) (d : Dev) : (d.noticeOnce key code arg).headset = d.headset := (told_noticeOnce key code arg d).headset
@[simp] theorem noticeOnce_recd (key code arg : Nat) (d : Dev) : (d.noticeOnce key code arg).recd = d.recd := (told_noticeOnce key code arg d).recd
@[simp] theorem noticeOnce_serving (key code arg : Nat) (d : Dev) : (d.noticeOnce key code arg).serving = d.serving := (told_noticeOnce key code arg d).serving
@[simp] theorem noticeOnce_fwRead (key code arg : Nat) (d : Dev) : (d.noticeOnce key code arg).fwRead = d.fwRead := (told_noticeOnce key code arg d).fwRead
@[simp] theorem noticeOnce_lastResult (key code arg : Nat) (d : Dev) : (d.noticeOnce key code arg).lastResult = d.lastResult := (told_noticeOnce key code arg d).lastResult
@[simp] theorem noticeOnce_alm (key code arg : Nat) (d : Dev) : (d.noticeOnce key code arg).alm = d.alm := (told_noticeOnce key code arg d).alm
@[simp] theorem noticeOnce_dram (key code arg : Nat) (d : Dev) : (d.noticeOnce key code arg).dram = d.dram := (told_noticeOnce key code arg d).dram
@[simp] theorem noticeOnce_sram (key code arg : Nat) (d : Dev) : (d.noticeOnce key code arg).sram = d.sram := (told_noticeOnce key code arg d).sram
@[simp] theorem noticeOnce_pair (key code arg : Nat) (d : Dev) : (d.noticeOnce key code arg).pair = d.pair := (told_noticeOnce key code arg d).pair
@[simp] theorem noticeOnce_drada (key code arg : Nat) (d : Dev) : (d.noticeOnce key code arg).drada = d.drada := (told_noticeOnce key code arg d).drada
@[simp] theorem noticeOnce_sup (key code arg : Nat) (d : Dev) : (d.noticeOnce key code arg).sup = d.sup := (told_noticeOnce key code arg d).sup
@[simp] theorem noticeOnce_sec (key code arg : Nat) (d : Dev) : (d.noticeOnce key code arg).sec = d.sec := (told_noticeOnce key code arg d).sec
@[simp] theorem noticeOnce_season (key code arg : Nat) (d : Dev) : (d.noticeOnce key code arg).season = d.season := (told_noticeOnce key code arg d).season
@[simp] theorem noticeOnce_gathers (key code arg : Nat) (d : Dev) : (d.noticeOnce key code arg).gathers = d.gathers := (told_noticeOnce key code arg d).gathers
@[simp] theorem noticeOnce_nextRequest (key code arg : Nat) (d : Dev) : (d.noticeOnce key code arg).nextRequest = d.nextRequest := (told_noticeOnce key code arg d).nextRequest
@[simp] theorem noticeOnce_heldEnds (key code arg : Nat) (d : Dev) : (d.noticeOnce key code arg).heldEnds = d.heldEnds := (told_noticeOnce key code arg d).heldEnds
@[simp] theorem noticeOnce_perturb (key code arg : Nat) (d : Dev) : (d.noticeOnce key code arg).perturb = d.perturb := (told_noticeOnce key code arg d).perturb

/-! #### logEvent -/

@[simp] theorem logEvent_force (x : LogRec) (d : Dev) : (d.logEvent x).force = d.force := (told_logEvent x d).force
@[simp] theorem logEvent_dated (x : LogRec) (d : Dev) : (d.logEvent x).dated = d.dated := (told_logEvent x d).dated
@[simp] theorem logEvent_clock (x : LogRec) (d : Dev) : (d.logEvent x).clock = d.clock := (told_logEvent x d).clock
@[simp] theorem logEvent_frcBase (x : LogRec) (d : Dev) : (d.logEvent x).frcBase = d.frcBase := (told_logEvent x d).frcBase
@[simp] theorem logEvent_timers (x : LogRec) (d : Dev) : (d.logEvent x).timers = d.timers := (told_logEvent x d).timers
@[simp] theorem logEvent_freeCtr (x : LogRec) (d : Dev) : (d.logEvent x).freeCtr = d.freeCtr := (told_logEvent x d).freeCtr
@[simp] theorem logEvent_msc (x : LogRec) (d : Dev) : (d.logEvent x).msc = d.msc := (told_logEvent x d).msc
@[simp] theorem logEvent_tickAt (x : LogRec) (d : Dev) : (d.logEvent x).tickAt = d.tickAt := (told_logEvent x d).tickAt
@[simp] theorem logEvent_out (x : LogRec) (d : Dev) : (d.logEvent x).out = d.out := (told_logEvent x d).out
@[simp] theorem logEvent_power (x : LogRec) (d : Dev) : (d.logEvent x).power = d.power := (told_logEvent x d).power
@[simp] theorem logEvent_subs (x : LogRec) (d : Dev) : (d.logEvent x).subs = d.subs := (told_logEvent x d).subs
@[simp] theorem logEvent_transfers (x : LogRec) (d : Dev) : (d.logEvent x).transfers = d.transfers := (told_logEvent x d).transfers
@[simp] theorem logEvent_nextTransfer (x : LogRec) (d : Dev) : (d.logEvent x).nextTransfer = d.nextTransfer := (told_logEvent x d).nextTransfer
@[simp] theorem logEvent_nextSub (x : LogRec) (d : Dev) : (d.logEvent x).nextSub = d.nextSub := (told_logEvent x d).nextSub
@[simp] theorem logEvent_lastStatus (x : LogRec) (d : Dev) : (d.logEvent x).lastStatus = d.lastStatus := (told_logEvent x d).lastStatus
@[simp] theorem logEvent_blocked (x : LogRec) (d : Dev) : (d.logEvent x).blocked = d.blocked := (told_logEvent x d).blocked
@[simp] theorem logEvent_refusals (x : LogRec) (d : Dev) : (d.logEvent x).refusals = d.refusals := (told_logEvent x d).refusals
@[simp] theorem logEvent_cal (x : LogRec) (d : Dev) : (d.logEvent x).cal = d.cal := (told_logEvent x d).cal
@[simp] theorem logEvent_motion (x : LogRec) (d : Dev) : (d.logEvent x).motion = d.motion := (told_logEvent x d).motion
@[simp] theorem logEvent_motionDue (x : LogRec) (d : Dev) : (d.logEvent x).motionDue = d.motionDue := (told_logEvent x d).motionDue
@[simp] theorem logEvent_geo (x : LogRec) (d : Dev) : (d.logEvent x).geo = d.geo := (told_logEvent x d).geo
@[simp] theorem logEvent_planes (x : LogRec) (d : Dev) : (d.logEvent x).planes = d.planes := (told_logEvent x d).planes
@[simp] theorem logEvent_rend (x : LogRec) (d : Dev) : (d.logEvent x).rend = d.rend := (told_logEvent x d).rend
@[simp] theorem logEvent_mix (x : LogRec) (d : Dev) : (d.logEvent x).mix = d.mix := (told_logEvent x d).mix
@[simp] theorem logEvent_corr (x : LogRec) (d : Dev) : (d.logEvent x).corr = d.corr := (told_logEvent x d).corr
@[simp] theorem logEvent_ports (x : LogRec) (d : Dev) : (d.logEvent x).ports = d.ports := (told_logEvent x d).ports
@[simp] theorem logEvent_rxRings (x : LogRec) (d : Dev) : (d.logEvent x).rxRings = d.rxRings := (told_logEvent x d).rxRings
@[simp] theorem logEvent_txRings (x : LogRec) (d : Dev) : (d.logEvent x).txRings = d.txRings := (told_logEvent x d).txRings
@[simp] theorem logEvent_flows (x : LogRec) (d : Dev) : (d.logEvent x).flows = d.flows := (told_logEvent x d).flows
@[simp] theorem logEvent_pool (x : LogRec) (d : Dev) : (d.logEvent x).pool = d.pool := (told_logEvent x d).pool
@[simp] theorem logEvent_tdm (x : LogRec) (d : Dev) : (d.logEvent x).tdm = d.tdm := (told_logEvent x d).tdm
@[simp] theorem logEvent_headset (x : LogRec) (d : Dev) : (d.logEvent x).headset = d.headset := (told_logEvent x d).headset
@[simp] theorem logEvent_recd (x : LogRec) (d : Dev) : (d.logEvent x).recd = d.recd := (told_logEvent x d).recd
@[simp] theorem logEvent_serving (x : LogRec) (d : Dev) : (d.logEvent x).serving = d.serving := (told_logEvent x d).serving
@[simp] theorem logEvent_fwRead (x : LogRec) (d : Dev) : (d.logEvent x).fwRead = d.fwRead := (told_logEvent x d).fwRead
@[simp] theorem logEvent_lastResult (x : LogRec) (d : Dev) : (d.logEvent x).lastResult = d.lastResult := (told_logEvent x d).lastResult
@[simp] theorem logEvent_alm (x : LogRec) (d : Dev) : (d.logEvent x).alm = d.alm := (told_logEvent x d).alm
@[simp] theorem logEvent_dram (x : LogRec) (d : Dev) : (d.logEvent x).dram = d.dram := (told_logEvent x d).dram
@[simp] theorem logEvent_sram (x : LogRec) (d : Dev) : (d.logEvent x).sram = d.sram := (told_logEvent x d).sram
@[simp] theorem logEvent_pair (x : LogRec) (d : Dev) : (d.logEvent x).pair = d.pair := (told_logEvent x d).pair
@[simp] theorem logEvent_drada (x : LogRec) (d : Dev) : (d.logEvent x).drada = d.drada := (told_logEvent x d).drada
@[simp] theorem logEvent_sup (x : LogRec) (d : Dev) : (d.logEvent x).sup = d.sup := (told_logEvent x d).sup
@[simp] theorem logEvent_sec (x : LogRec) (d : Dev) : (d.logEvent x).sec = d.sec := (told_logEvent x d).sec
@[simp] theorem logEvent_season (x : LogRec) (d : Dev) : (d.logEvent x).season = d.season := (told_logEvent x d).season
@[simp] theorem logEvent_gathers (x : LogRec) (d : Dev) : (d.logEvent x).gathers = d.gathers := (told_logEvent x d).gathers
@[simp] theorem logEvent_nextRequest (x : LogRec) (d : Dev) : (d.logEvent x).nextRequest = d.nextRequest := (told_logEvent x d).nextRequest
@[simp] theorem logEvent_heldEnds (x : LogRec) (d : Dev) : (d.logEvent x).heldEnds = d.heldEnds := (told_logEvent x d).heldEnds
@[simp] theorem logEvent_perturb (x : LogRec) (d : Dev) : (d.logEvent x).perturb = d.perturb := (told_logEvent x d).perturb

/-! #### logFault -/

@[simp] theorem logFault_force (code arg : Nat) (d : Dev) : (d.logFault code arg).force = d.force := (told_logFault code arg d).force
@[simp] theorem logFault_dated (code arg : Nat) (d : Dev) : (d.logFault code arg).dated = d.dated := (told_logFault code arg d).dated
@[simp] theorem logFault_clock (code arg : Nat) (d : Dev) : (d.logFault code arg).clock = d.clock := (told_logFault code arg d).clock
@[simp] theorem logFault_frcBase (code arg : Nat) (d : Dev) : (d.logFault code arg).frcBase = d.frcBase := (told_logFault code arg d).frcBase
@[simp] theorem logFault_timers (code arg : Nat) (d : Dev) : (d.logFault code arg).timers = d.timers := (told_logFault code arg d).timers
@[simp] theorem logFault_freeCtr (code arg : Nat) (d : Dev) : (d.logFault code arg).freeCtr = d.freeCtr := (told_logFault code arg d).freeCtr
@[simp] theorem logFault_msc (code arg : Nat) (d : Dev) : (d.logFault code arg).msc = d.msc := (told_logFault code arg d).msc
@[simp] theorem logFault_tickAt (code arg : Nat) (d : Dev) : (d.logFault code arg).tickAt = d.tickAt := (told_logFault code arg d).tickAt
@[simp] theorem logFault_out (code arg : Nat) (d : Dev) : (d.logFault code arg).out = d.out := (told_logFault code arg d).out
@[simp] theorem logFault_power (code arg : Nat) (d : Dev) : (d.logFault code arg).power = d.power := (told_logFault code arg d).power
@[simp] theorem logFault_subs (code arg : Nat) (d : Dev) : (d.logFault code arg).subs = d.subs := (told_logFault code arg d).subs
@[simp] theorem logFault_transfers (code arg : Nat) (d : Dev) : (d.logFault code arg).transfers = d.transfers := (told_logFault code arg d).transfers
@[simp] theorem logFault_nextTransfer (code arg : Nat) (d : Dev) : (d.logFault code arg).nextTransfer = d.nextTransfer := (told_logFault code arg d).nextTransfer
@[simp] theorem logFault_nextSub (code arg : Nat) (d : Dev) : (d.logFault code arg).nextSub = d.nextSub := (told_logFault code arg d).nextSub
@[simp] theorem logFault_lastStatus (code arg : Nat) (d : Dev) : (d.logFault code arg).lastStatus = d.lastStatus := (told_logFault code arg d).lastStatus
@[simp] theorem logFault_blocked (code arg : Nat) (d : Dev) : (d.logFault code arg).blocked = d.blocked := (told_logFault code arg d).blocked
@[simp] theorem logFault_refusals (code arg : Nat) (d : Dev) : (d.logFault code arg).refusals = d.refusals := (told_logFault code arg d).refusals
@[simp] theorem logFault_cal (code arg : Nat) (d : Dev) : (d.logFault code arg).cal = d.cal := (told_logFault code arg d).cal
@[simp] theorem logFault_motion (code arg : Nat) (d : Dev) : (d.logFault code arg).motion = d.motion := (told_logFault code arg d).motion
@[simp] theorem logFault_motionDue (code arg : Nat) (d : Dev) : (d.logFault code arg).motionDue = d.motionDue := (told_logFault code arg d).motionDue
@[simp] theorem logFault_geo (code arg : Nat) (d : Dev) : (d.logFault code arg).geo = d.geo := (told_logFault code arg d).geo
@[simp] theorem logFault_planes (code arg : Nat) (d : Dev) : (d.logFault code arg).planes = d.planes := (told_logFault code arg d).planes
@[simp] theorem logFault_rend (code arg : Nat) (d : Dev) : (d.logFault code arg).rend = d.rend := (told_logFault code arg d).rend
@[simp] theorem logFault_mix (code arg : Nat) (d : Dev) : (d.logFault code arg).mix = d.mix := (told_logFault code arg d).mix
@[simp] theorem logFault_corr (code arg : Nat) (d : Dev) : (d.logFault code arg).corr = d.corr := (told_logFault code arg d).corr
@[simp] theorem logFault_ports (code arg : Nat) (d : Dev) : (d.logFault code arg).ports = d.ports := (told_logFault code arg d).ports
@[simp] theorem logFault_rxRings (code arg : Nat) (d : Dev) : (d.logFault code arg).rxRings = d.rxRings := (told_logFault code arg d).rxRings
@[simp] theorem logFault_txRings (code arg : Nat) (d : Dev) : (d.logFault code arg).txRings = d.txRings := (told_logFault code arg d).txRings
@[simp] theorem logFault_flows (code arg : Nat) (d : Dev) : (d.logFault code arg).flows = d.flows := (told_logFault code arg d).flows
@[simp] theorem logFault_pool (code arg : Nat) (d : Dev) : (d.logFault code arg).pool = d.pool := (told_logFault code arg d).pool
@[simp] theorem logFault_tdm (code arg : Nat) (d : Dev) : (d.logFault code arg).tdm = d.tdm := (told_logFault code arg d).tdm
@[simp] theorem logFault_headset (code arg : Nat) (d : Dev) : (d.logFault code arg).headset = d.headset := (told_logFault code arg d).headset
@[simp] theorem logFault_recd (code arg : Nat) (d : Dev) : (d.logFault code arg).recd = d.recd := (told_logFault code arg d).recd
@[simp] theorem logFault_serving (code arg : Nat) (d : Dev) : (d.logFault code arg).serving = d.serving := (told_logFault code arg d).serving
@[simp] theorem logFault_fwRead (code arg : Nat) (d : Dev) : (d.logFault code arg).fwRead = d.fwRead := (told_logFault code arg d).fwRead
@[simp] theorem logFault_lastResult (code arg : Nat) (d : Dev) : (d.logFault code arg).lastResult = d.lastResult := (told_logFault code arg d).lastResult
@[simp] theorem logFault_alm (code arg : Nat) (d : Dev) : (d.logFault code arg).alm = d.alm := (told_logFault code arg d).alm
@[simp] theorem logFault_dram (code arg : Nat) (d : Dev) : (d.logFault code arg).dram = d.dram := (told_logFault code arg d).dram
@[simp] theorem logFault_sram (code arg : Nat) (d : Dev) : (d.logFault code arg).sram = d.sram := (told_logFault code arg d).sram
@[simp] theorem logFault_pair (code arg : Nat) (d : Dev) : (d.logFault code arg).pair = d.pair := (told_logFault code arg d).pair
@[simp] theorem logFault_drada (code arg : Nat) (d : Dev) : (d.logFault code arg).drada = d.drada := (told_logFault code arg d).drada
@[simp] theorem logFault_sup (code arg : Nat) (d : Dev) : (d.logFault code arg).sup = d.sup := (told_logFault code arg d).sup
@[simp] theorem logFault_sec (code arg : Nat) (d : Dev) : (d.logFault code arg).sec = d.sec := (told_logFault code arg d).sec
@[simp] theorem logFault_season (code arg : Nat) (d : Dev) : (d.logFault code arg).season = d.season := (told_logFault code arg d).season
@[simp] theorem logFault_gathers (code arg : Nat) (d : Dev) : (d.logFault code arg).gathers = d.gathers := (told_logFault code arg d).gathers
@[simp] theorem logFault_nextRequest (code arg : Nat) (d : Dev) : (d.logFault code arg).nextRequest = d.nextRequest := (told_logFault code arg d).nextRequest
@[simp] theorem logFault_heldEnds (code arg : Nat) (d : Dev) : (d.logFault code arg).heldEnds = d.heldEnds := (told_logFault code arg d).heldEnds
@[simp] theorem logFault_perturb (code arg : Nat) (d : Dev) : (d.logFault code arg).perturb = d.perturb := (told_logFault code arg d).perturb

/-! #### logCorrected -/

@[simp] theorem logCorrected_force (source code arg : Nat) (d : Dev) : (d.logCorrected source code arg).force = d.force := (told_logCorrected source code arg d).force
@[simp] theorem logCorrected_dated (source code arg : Nat) (d : Dev) : (d.logCorrected source code arg).dated = d.dated := (told_logCorrected source code arg d).dated
@[simp] theorem logCorrected_clock (source code arg : Nat) (d : Dev) : (d.logCorrected source code arg).clock = d.clock := (told_logCorrected source code arg d).clock
@[simp] theorem logCorrected_frcBase (source code arg : Nat) (d : Dev) : (d.logCorrected source code arg).frcBase = d.frcBase := (told_logCorrected source code arg d).frcBase
@[simp] theorem logCorrected_timers (source code arg : Nat) (d : Dev) : (d.logCorrected source code arg).timers = d.timers := (told_logCorrected source code arg d).timers
@[simp] theorem logCorrected_freeCtr (source code arg : Nat) (d : Dev) : (d.logCorrected source code arg).freeCtr = d.freeCtr := (told_logCorrected source code arg d).freeCtr
@[simp] theorem logCorrected_msc (source code arg : Nat) (d : Dev) : (d.logCorrected source code arg).msc = d.msc := (told_logCorrected source code arg d).msc
@[simp] theorem logCorrected_tickAt (source code arg : Nat) (d : Dev) : (d.logCorrected source code arg).tickAt = d.tickAt := (told_logCorrected source code arg d).tickAt
@[simp] theorem logCorrected_out (source code arg : Nat) (d : Dev) : (d.logCorrected source code arg).out = d.out := (told_logCorrected source code arg d).out
@[simp] theorem logCorrected_power (source code arg : Nat) (d : Dev) : (d.logCorrected source code arg).power = d.power := (told_logCorrected source code arg d).power
@[simp] theorem logCorrected_subs (source code arg : Nat) (d : Dev) : (d.logCorrected source code arg).subs = d.subs := (told_logCorrected source code arg d).subs
@[simp] theorem logCorrected_transfers (source code arg : Nat) (d : Dev) : (d.logCorrected source code arg).transfers = d.transfers := (told_logCorrected source code arg d).transfers
@[simp] theorem logCorrected_nextTransfer (source code arg : Nat) (d : Dev) : (d.logCorrected source code arg).nextTransfer = d.nextTransfer := (told_logCorrected source code arg d).nextTransfer
@[simp] theorem logCorrected_nextSub (source code arg : Nat) (d : Dev) : (d.logCorrected source code arg).nextSub = d.nextSub := (told_logCorrected source code arg d).nextSub
@[simp] theorem logCorrected_lastStatus (source code arg : Nat) (d : Dev) : (d.logCorrected source code arg).lastStatus = d.lastStatus := (told_logCorrected source code arg d).lastStatus
@[simp] theorem logCorrected_blocked (source code arg : Nat) (d : Dev) : (d.logCorrected source code arg).blocked = d.blocked := (told_logCorrected source code arg d).blocked
@[simp] theorem logCorrected_refusals (source code arg : Nat) (d : Dev) : (d.logCorrected source code arg).refusals = d.refusals := (told_logCorrected source code arg d).refusals
@[simp] theorem logCorrected_cal (source code arg : Nat) (d : Dev) : (d.logCorrected source code arg).cal = d.cal := (told_logCorrected source code arg d).cal
@[simp] theorem logCorrected_motion (source code arg : Nat) (d : Dev) : (d.logCorrected source code arg).motion = d.motion := (told_logCorrected source code arg d).motion
@[simp] theorem logCorrected_motionDue (source code arg : Nat) (d : Dev) : (d.logCorrected source code arg).motionDue = d.motionDue := (told_logCorrected source code arg d).motionDue
@[simp] theorem logCorrected_geo (source code arg : Nat) (d : Dev) : (d.logCorrected source code arg).geo = d.geo := (told_logCorrected source code arg d).geo
@[simp] theorem logCorrected_planes (source code arg : Nat) (d : Dev) : (d.logCorrected source code arg).planes = d.planes := (told_logCorrected source code arg d).planes
@[simp] theorem logCorrected_rend (source code arg : Nat) (d : Dev) : (d.logCorrected source code arg).rend = d.rend := (told_logCorrected source code arg d).rend
@[simp] theorem logCorrected_mix (source code arg : Nat) (d : Dev) : (d.logCorrected source code arg).mix = d.mix := (told_logCorrected source code arg d).mix
@[simp] theorem logCorrected_corr (source code arg : Nat) (d : Dev) : (d.logCorrected source code arg).corr = d.corr := (told_logCorrected source code arg d).corr
@[simp] theorem logCorrected_ports (source code arg : Nat) (d : Dev) : (d.logCorrected source code arg).ports = d.ports := (told_logCorrected source code arg d).ports
@[simp] theorem logCorrected_rxRings (source code arg : Nat) (d : Dev) : (d.logCorrected source code arg).rxRings = d.rxRings := (told_logCorrected source code arg d).rxRings
@[simp] theorem logCorrected_txRings (source code arg : Nat) (d : Dev) : (d.logCorrected source code arg).txRings = d.txRings := (told_logCorrected source code arg d).txRings
@[simp] theorem logCorrected_flows (source code arg : Nat) (d : Dev) : (d.logCorrected source code arg).flows = d.flows := (told_logCorrected source code arg d).flows
@[simp] theorem logCorrected_pool (source code arg : Nat) (d : Dev) : (d.logCorrected source code arg).pool = d.pool := (told_logCorrected source code arg d).pool
@[simp] theorem logCorrected_tdm (source code arg : Nat) (d : Dev) : (d.logCorrected source code arg).tdm = d.tdm := (told_logCorrected source code arg d).tdm
@[simp] theorem logCorrected_headset (source code arg : Nat) (d : Dev) : (d.logCorrected source code arg).headset = d.headset := (told_logCorrected source code arg d).headset
@[simp] theorem logCorrected_recd (source code arg : Nat) (d : Dev) : (d.logCorrected source code arg).recd = d.recd := (told_logCorrected source code arg d).recd
@[simp] theorem logCorrected_serving (source code arg : Nat) (d : Dev) : (d.logCorrected source code arg).serving = d.serving := (told_logCorrected source code arg d).serving
@[simp] theorem logCorrected_fwRead (source code arg : Nat) (d : Dev) : (d.logCorrected source code arg).fwRead = d.fwRead := (told_logCorrected source code arg d).fwRead
@[simp] theorem logCorrected_lastResult (source code arg : Nat) (d : Dev) : (d.logCorrected source code arg).lastResult = d.lastResult := (told_logCorrected source code arg d).lastResult
@[simp] theorem logCorrected_alm (source code arg : Nat) (d : Dev) : (d.logCorrected source code arg).alm = d.alm := (told_logCorrected source code arg d).alm
@[simp] theorem logCorrected_dram (source code arg : Nat) (d : Dev) : (d.logCorrected source code arg).dram = d.dram := (told_logCorrected source code arg d).dram
@[simp] theorem logCorrected_sram (source code arg : Nat) (d : Dev) : (d.logCorrected source code arg).sram = d.sram := (told_logCorrected source code arg d).sram
@[simp] theorem logCorrected_pair (source code arg : Nat) (d : Dev) : (d.logCorrected source code arg).pair = d.pair := (told_logCorrected source code arg d).pair
@[simp] theorem logCorrected_drada (source code arg : Nat) (d : Dev) : (d.logCorrected source code arg).drada = d.drada := (told_logCorrected source code arg d).drada
@[simp] theorem logCorrected_sup (source code arg : Nat) (d : Dev) : (d.logCorrected source code arg).sup = d.sup := (told_logCorrected source code arg d).sup
@[simp] theorem logCorrected_sec (source code arg : Nat) (d : Dev) : (d.logCorrected source code arg).sec = d.sec := (told_logCorrected source code arg d).sec
@[simp] theorem logCorrected_season (source code arg : Nat) (d : Dev) : (d.logCorrected source code arg).season = d.season := (told_logCorrected source code arg d).season
@[simp] theorem logCorrected_gathers (source code arg : Nat) (d : Dev) : (d.logCorrected source code arg).gathers = d.gathers := (told_logCorrected source code arg d).gathers
@[simp] theorem logCorrected_nextRequest (source code arg : Nat) (d : Dev) : (d.logCorrected source code arg).nextRequest = d.nextRequest := (told_logCorrected source code arg d).nextRequest
@[simp] theorem logCorrected_heldEnds (source code arg : Nat) (d : Dev) : (d.logCorrected source code arg).heldEnds = d.heldEnds := (told_logCorrected source code arg d).heldEnds
@[simp] theorem logCorrected_perturb (source code arg : Nat) (d : Dev) : (d.logCorrected source code arg).perturb = d.perturb := (told_logCorrected source code arg d).perturb

/-! #### liftPut -/

@[simp] theorem liftPut_force (kind flow : Nat) (job : LiftJob) (d : Dev) : (d.liftPut kind flow job).force = d.force := (told_liftPut kind flow job d).force
@[simp] theorem liftPut_dated (kind flow : Nat) (job : LiftJob) (d : Dev) : (d.liftPut kind flow job).dated = d.dated := (told_liftPut kind flow job d).dated
@[simp] theorem liftPut_clock (kind flow : Nat) (job : LiftJob) (d : Dev) : (d.liftPut kind flow job).clock = d.clock := (told_liftPut kind flow job d).clock
@[simp] theorem liftPut_frcBase (kind flow : Nat) (job : LiftJob) (d : Dev) : (d.liftPut kind flow job).frcBase = d.frcBase := (told_liftPut kind flow job d).frcBase
@[simp] theorem liftPut_timers (kind flow : Nat) (job : LiftJob) (d : Dev) : (d.liftPut kind flow job).timers = d.timers := (told_liftPut kind flow job d).timers
@[simp] theorem liftPut_freeCtr (kind flow : Nat) (job : LiftJob) (d : Dev) : (d.liftPut kind flow job).freeCtr = d.freeCtr := (told_liftPut kind flow job d).freeCtr
@[simp] theorem liftPut_msc (kind flow : Nat) (job : LiftJob) (d : Dev) : (d.liftPut kind flow job).msc = d.msc := (told_liftPut kind flow job d).msc
@[simp] theorem liftPut_tickAt (kind flow : Nat) (job : LiftJob) (d : Dev) : (d.liftPut kind flow job).tickAt = d.tickAt := (told_liftPut kind flow job d).tickAt
@[simp] theorem liftPut_out (kind flow : Nat) (job : LiftJob) (d : Dev) : (d.liftPut kind flow job).out = d.out := (told_liftPut kind flow job d).out
@[simp] theorem liftPut_power (kind flow : Nat) (job : LiftJob) (d : Dev) : (d.liftPut kind flow job).power = d.power := (told_liftPut kind flow job d).power
@[simp] theorem liftPut_subs (kind flow : Nat) (job : LiftJob) (d : Dev) : (d.liftPut kind flow job).subs = d.subs := (told_liftPut kind flow job d).subs
@[simp] theorem liftPut_transfers (kind flow : Nat) (job : LiftJob) (d : Dev) : (d.liftPut kind flow job).transfers = d.transfers := (told_liftPut kind flow job d).transfers
@[simp] theorem liftPut_nextTransfer (kind flow : Nat) (job : LiftJob) (d : Dev) : (d.liftPut kind flow job).nextTransfer = d.nextTransfer := (told_liftPut kind flow job d).nextTransfer
@[simp] theorem liftPut_nextSub (kind flow : Nat) (job : LiftJob) (d : Dev) : (d.liftPut kind flow job).nextSub = d.nextSub := (told_liftPut kind flow job d).nextSub
@[simp] theorem liftPut_lastStatus (kind flow : Nat) (job : LiftJob) (d : Dev) : (d.liftPut kind flow job).lastStatus = d.lastStatus := (told_liftPut kind flow job d).lastStatus
@[simp] theorem liftPut_blocked (kind flow : Nat) (job : LiftJob) (d : Dev) : (d.liftPut kind flow job).blocked = d.blocked := (told_liftPut kind flow job d).blocked
@[simp] theorem liftPut_refusals (kind flow : Nat) (job : LiftJob) (d : Dev) : (d.liftPut kind flow job).refusals = d.refusals := (told_liftPut kind flow job d).refusals
@[simp] theorem liftPut_cal (kind flow : Nat) (job : LiftJob) (d : Dev) : (d.liftPut kind flow job).cal = d.cal := (told_liftPut kind flow job d).cal
@[simp] theorem liftPut_motion (kind flow : Nat) (job : LiftJob) (d : Dev) : (d.liftPut kind flow job).motion = d.motion := (told_liftPut kind flow job d).motion
@[simp] theorem liftPut_motionDue (kind flow : Nat) (job : LiftJob) (d : Dev) : (d.liftPut kind flow job).motionDue = d.motionDue := (told_liftPut kind flow job d).motionDue
@[simp] theorem liftPut_geo (kind flow : Nat) (job : LiftJob) (d : Dev) : (d.liftPut kind flow job).geo = d.geo := (told_liftPut kind flow job d).geo
@[simp] theorem liftPut_planes (kind flow : Nat) (job : LiftJob) (d : Dev) : (d.liftPut kind flow job).planes = d.planes := (told_liftPut kind flow job d).planes
@[simp] theorem liftPut_rend (kind flow : Nat) (job : LiftJob) (d : Dev) : (d.liftPut kind flow job).rend = d.rend := (told_liftPut kind flow job d).rend
@[simp] theorem liftPut_mix (kind flow : Nat) (job : LiftJob) (d : Dev) : (d.liftPut kind flow job).mix = d.mix := (told_liftPut kind flow job d).mix
@[simp] theorem liftPut_corr (kind flow : Nat) (job : LiftJob) (d : Dev) : (d.liftPut kind flow job).corr = d.corr := (told_liftPut kind flow job d).corr
@[simp] theorem liftPut_ports (kind flow : Nat) (job : LiftJob) (d : Dev) : (d.liftPut kind flow job).ports = d.ports := (told_liftPut kind flow job d).ports
@[simp] theorem liftPut_rxRings (kind flow : Nat) (job : LiftJob) (d : Dev) : (d.liftPut kind flow job).rxRings = d.rxRings := (told_liftPut kind flow job d).rxRings
@[simp] theorem liftPut_txRings (kind flow : Nat) (job : LiftJob) (d : Dev) : (d.liftPut kind flow job).txRings = d.txRings := (told_liftPut kind flow job d).txRings
@[simp] theorem liftPut_flows (kind flow : Nat) (job : LiftJob) (d : Dev) : (d.liftPut kind flow job).flows = d.flows := (told_liftPut kind flow job d).flows
@[simp] theorem liftPut_pool (kind flow : Nat) (job : LiftJob) (d : Dev) : (d.liftPut kind flow job).pool = d.pool := (told_liftPut kind flow job d).pool
@[simp] theorem liftPut_tdm (kind flow : Nat) (job : LiftJob) (d : Dev) : (d.liftPut kind flow job).tdm = d.tdm := (told_liftPut kind flow job d).tdm
@[simp] theorem liftPut_headset (kind flow : Nat) (job : LiftJob) (d : Dev) : (d.liftPut kind flow job).headset = d.headset := (told_liftPut kind flow job d).headset
@[simp] theorem liftPut_recd (kind flow : Nat) (job : LiftJob) (d : Dev) : (d.liftPut kind flow job).recd = d.recd := (told_liftPut kind flow job d).recd
@[simp] theorem liftPut_serving (kind flow : Nat) (job : LiftJob) (d : Dev) : (d.liftPut kind flow job).serving = d.serving := (told_liftPut kind flow job d).serving
@[simp] theorem liftPut_fwRead (kind flow : Nat) (job : LiftJob) (d : Dev) : (d.liftPut kind flow job).fwRead = d.fwRead := (told_liftPut kind flow job d).fwRead
@[simp] theorem liftPut_lastResult (kind flow : Nat) (job : LiftJob) (d : Dev) : (d.liftPut kind flow job).lastResult = d.lastResult := (told_liftPut kind flow job d).lastResult
@[simp] theorem liftPut_alm (kind flow : Nat) (job : LiftJob) (d : Dev) : (d.liftPut kind flow job).alm = d.alm := (told_liftPut kind flow job d).alm
@[simp] theorem liftPut_dram (kind flow : Nat) (job : LiftJob) (d : Dev) : (d.liftPut kind flow job).dram = d.dram := (told_liftPut kind flow job d).dram
@[simp] theorem liftPut_sram (kind flow : Nat) (job : LiftJob) (d : Dev) : (d.liftPut kind flow job).sram = d.sram := (told_liftPut kind flow job d).sram
@[simp] theorem liftPut_pair (kind flow : Nat) (job : LiftJob) (d : Dev) : (d.liftPut kind flow job).pair = d.pair := (told_liftPut kind flow job d).pair
@[simp] theorem liftPut_drada (kind flow : Nat) (job : LiftJob) (d : Dev) : (d.liftPut kind flow job).drada = d.drada := (told_liftPut kind flow job d).drada
@[simp] theorem liftPut_sup (kind flow : Nat) (job : LiftJob) (d : Dev) : (d.liftPut kind flow job).sup = d.sup := (told_liftPut kind flow job d).sup
@[simp] theorem liftPut_sec (kind flow : Nat) (job : LiftJob) (d : Dev) : (d.liftPut kind flow job).sec = d.sec := (told_liftPut kind flow job d).sec
@[simp] theorem liftPut_season (kind flow : Nat) (job : LiftJob) (d : Dev) : (d.liftPut kind flow job).season = d.season := (told_liftPut kind flow job d).season
@[simp] theorem liftPut_gathers (kind flow : Nat) (job : LiftJob) (d : Dev) : (d.liftPut kind flow job).gathers = d.gathers := (told_liftPut kind flow job d).gathers
@[simp] theorem liftPut_nextRequest (kind flow : Nat) (job : LiftJob) (d : Dev) : (d.liftPut kind flow job).nextRequest = d.nextRequest := (told_liftPut kind flow job d).nextRequest
@[simp] theorem liftPut_heldEnds (kind flow : Nat) (job : LiftJob) (d : Dev) : (d.liftPut kind flow job).heldEnds = d.heldEnds := (told_liftPut kind flow job d).heldEnds
@[simp] theorem liftPut_perturb (kind flow : Nat) (job : LiftJob) (d : Dev) : (d.liftPut kind flow job).perturb = d.perturb := (told_liftPut kind flow job d).perturb

end Sys2Proof.Machine.Dev
end

