-- ==== Sys2Proof/Laws/Reads.lean ====
section
/-! SUPPORT. What an entry reads as after an update: the value written, or the old one for any other entry. -/

namespace Sys2Proof.Machine.Dev

/-- Reading is a lookup in the entries that are not at their defaults. -/
theorem val_eq (d : Dev) (r : Row) (i j : Nat) : d.val r i j = nget (r.default i j) d.regs (r.key i j) := rfl

@[simp] theorem val_setVal_same (d : Dev) (r : Row) (v : Val) (i j : Nat) : (d.setVal r v i j).val r i j = v := by simp [val, setVal]

theorem val_setVal_ne (d : Dev) (r r' : Row) (v : Val) (i j i' j' : Nat) (h : r'.key i' j' ≠ r.key i j) :
    (d.setVal r v i j).val r' i' j' = d.val r' i' j' := by simp only [val, setVal]; exact nget_nset_ne _ _ _ _ h

@[simp] theorem int_setInt_same (d : Dev) (r : Row) (v : Int) (i j : Nat) : (d.setInt r v i j).int r i j = v := by
  simp [int, setInt, Val.toInt]

@[simp] theorem nat_setNat_same (d : Dev) (r : Row) (v i j : Nat) : (d.setNat r v i j).nat r i j = v := by
  simp [nat, int, setNat, Val.toInt]

@[simp] theorem flag_setFlag_same (d : Dev) (r : Row) (b : Bool) (i : Nat) : (d.setFlag r b i).flag r i = b := by
  cases b <;> simp [flag, setFlag, b2n]

@[simp] theorem bytes_setVal_same (d : Dev) (r : Row) (l : Octets) (i : Nat) : (d.setVal r (.bytes l) i).bytes r i = l := by
  simp [bytes, Val.toBytes]

theorem int_setInt_ne (d : Dev) (r r' : Row) (v : Int) (i j i' j' : Nat) (h : r'.key i' j' ≠ r.key i j) :
    (d.setInt r v i j).int r' i' j' = d.int r' i' j' := by simp only [int, setInt]; rw [val_setVal_ne _ _ _ _ _ _ _ _ h]

theorem nat_setNat_ne (d : Dev) (r r' : Row) (v i j i' j' : Nat) (h : r'.key i' j' ≠ r.key i j) :
    (d.setNat r v i j).nat r' i' j' = d.nat r' i' j' := by simp only [nat, int, setNat]; rw [val_setVal_ne _ _ _ _ _ _ _ _ h]

/-- Two updates of different fields: entries read as before where the entries' list is the same. -/
theorem val_congr {d d' : Dev} (h : d'.regs = d.regs) (r : Row) (i j : Nat) : d'.val r i j = d.val r i j := by simp [val, h]

/-- Telling an event changes no entry but its own counters. -/
theorem Told.val {d d' : Dev} (h : Told d d') (r : Row) (i j : Nat) (hk : r.key i j ∉ tellKeys) : d'.val r i j = d.val r i j := by
  simp [Dev.val, nget, h.regs _ hk]

theorem Told.int {d d' : Dev} (h : Told d d') (r : Row) (i j : Nat) (hk : r.key i j ∉ tellKeys) : d'.int r i j = d.int r i j := by
  simp [Dev.int, h.val r i j hk]

theorem Told.nat {d d' : Dev} (h : Told d d') (r : Row) (i j : Nat) (hk : r.key i j ∉ tellKeys) : d'.nat r i j = d.nat r i j := by
  simp [Dev.nat, h.int r i j hk]

/-- A counter that has advanced by one. -/
theorem nat_bump_same (d : Dev) (r : Row) (i n : Nat) : (d.bump r i n).nat r i = (d.nat r i + n) % 256 ^ r.ty.size := by
  unfold bump
  split
  · show ((d.setNat r _ i).nat r i 0) = _; simp
  · simp

theorem nat_bump_ne (d : Dev) (r r' : Row) (i n i' j' : Nat) (h : r'.key i' j' ≠ r.key i) : (d.bump r i n).nat r' i' j' = d.nat r' i' j' := by
  unfold bump
  split
  · show ((d.setNat r _ i).nat r' i' j') = _; exact nat_setNat_ne _ _ _ _ _ _ _ _ h
  · exact nat_setNat_ne _ _ _ _ _ _ _ _ h

theorem Told.flag {d d' : Dev} (h : Told d d') (r : Row) (i : Nat) (hk : r.key i ∉ tellKeys) : d'.flag r i = d.flag r i := by
  simp [Dev.flag, h.nat r i 0 hk]

theorem Told.bytes {d d' : Dev} (h : Told d d') (r : Row) (i : Nat) (hk : r.key i ∉ tellKeys) : d'.bytes r i = d.bytes r i := by
  simp [Dev.bytes, h.val r i 0 hk]

/-! ### Entries after an event is told -/

theorem notice_int (code arg : Nat) (d : Dev) (r : Row) (i j : Nat) (hk : r.key i j ∉ tellKeys) : (d.notice code arg).int r i j = d.int r i j := (told_notice code arg d).int r i j hk
theorem notice_nat (code arg : Nat) (d : Dev) (r : Row) (i j : Nat) (hk : r.key i j ∉ tellKeys) : (d.notice code arg).nat r i j = d.nat r i j := (told_notice code arg d).nat r i j hk
theorem notice_flag (code arg : Nat) (d : Dev) (r : Row) (i : Nat) (hk : r.key i ∉ tellKeys) : (d.notice code arg).flag r i = d.flag r i := (told_notice code arg d).flag r i hk
theorem notice_bytes (code arg : Nat) (d : Dev) (r : Row) (i : Nat) (hk : r.key i ∉ tellKeys) : (d.notice code arg).bytes r i = d.bytes r i := (told_notice code arg d).bytes r i hk
theorem noticeOf_int (code idx sub arg : Nat) (d : Dev) (r : Row) (i j : Nat) (hk : r.key i j ∉ tellKeys) : (d.noticeOf code idx sub arg).int r i j = d.int r i j := (told_noticeOf code idx sub arg d).int r i j hk
theorem noticeOf_nat (code idx sub arg : Nat) (d : Dev) (r : Row) (i j : Nat) (hk : r.key i j ∉ tellKeys) : (d.noticeOf code idx sub arg).nat r i j = d.nat r i j := (told_noticeOf code idx sub arg d).nat r i j hk
theorem noticeOf_flag (code idx sub arg : Nat) (d : Dev) (r : Row) (i : Nat) (hk : r.key i ∉ tellKeys) : (d.noticeOf code idx sub arg).flag r i = d.flag r i := (told_noticeOf code idx sub arg d).flag r i hk
theorem noticeOf_bytes (code idx sub arg : Nat) (d : Dev) (r : Row) (i : Nat) (hk : r.key i ∉ tellKeys) : (d.noticeOf code idx sub arg).bytes r i = d.bytes r i := (told_noticeOf code idx sub arg d).bytes r i hk
theorem noticeOnce_int (key code arg : Nat) (d : Dev) (r : Row) (i j : Nat) (hk : r.key i j ∉ tellKeys) : (d.noticeOnce key code arg).int r i j = d.int r i j := (told_noticeOnce key code arg d).int r i j hk
theorem noticeOnce_nat (key code arg : Nat) (d : Dev) (r : Row) (i j : Nat) (hk : r.key i j ∉ tellKeys) : (d.noticeOnce key code arg).nat r i j = d.nat r i j := (told_noticeOnce key code arg d).nat r i j hk
theorem noticeOnce_flag (key code arg : Nat) (d : Dev) (r : Row) (i : Nat) (hk : r.key i ∉ tellKeys) : (d.noticeOnce key code arg).flag r i = d.flag r i := (told_noticeOnce key code arg d).flag r i hk
theorem noticeOnce_bytes (key code arg : Nat) (d : Dev) (r : Row) (i : Nat) (hk : r.key i ∉ tellKeys) : (d.noticeOnce key code arg).bytes r i = d.bytes r i := (told_noticeOnce key code arg d).bytes r i hk
theorem logEvent_int (x : LogRec) (d : Dev) (r : Row) (i j : Nat) (hk : r.key i j ∉ tellKeys) : (d.logEvent x).int r i j = d.int r i j := (told_logEvent x d).int r i j hk
theorem logEvent_nat (x : LogRec) (d : Dev) (r : Row) (i j : Nat) (hk : r.key i j ∉ tellKeys) : (d.logEvent x).nat r i j = d.nat r i j := (told_logEvent x d).nat r i j hk
theorem logEvent_flag (x : LogRec) (d : Dev) (r : Row) (i : Nat) (hk : r.key i ∉ tellKeys) : (d.logEvent x).flag r i = d.flag r i := (told_logEvent x d).flag r i hk
theorem logEvent_bytes (x : LogRec) (d : Dev) (r : Row) (i : Nat) (hk : r.key i ∉ tellKeys) : (d.logEvent x).bytes r i = d.bytes r i := (told_logEvent x d).bytes r i hk
theorem logFault_int (code arg : Nat) (d : Dev) (r : Row) (i j : Nat) (hk : r.key i j ∉ tellKeys) : (d.logFault code arg).int r i j = d.int r i j := (told_logFault code arg d).int r i j hk
theorem logFault_nat (code arg : Nat) (d : Dev) (r : Row) (i j : Nat) (hk : r.key i j ∉ tellKeys) : (d.logFault code arg).nat r i j = d.nat r i j := (told_logFault code arg d).nat r i j hk
theorem logFault_flag (code arg : Nat) (d : Dev) (r : Row) (i : Nat) (hk : r.key i ∉ tellKeys) : (d.logFault code arg).flag r i = d.flag r i := (told_logFault code arg d).flag r i hk
theorem logFault_bytes (code arg : Nat) (d : Dev) (r : Row) (i : Nat) (hk : r.key i ∉ tellKeys) : (d.logFault code arg).bytes r i = d.bytes r i := (told_logFault code arg d).bytes r i hk
theorem logCorrected_int (source code arg : Nat) (d : Dev) (r : Row) (i j : Nat) (hk : r.key i j ∉ tellKeys) : (d.logCorrected source code arg).int r i j = d.int r i j := (told_logCorrected source code arg d).int r i j hk
theorem logCorrected_nat (source code arg : Nat) (d : Dev) (r : Row) (i j : Nat) (hk : r.key i j ∉ tellKeys) : (d.logCorrected source code arg).nat r i j = d.nat r i j := (told_logCorrected source code arg d).nat r i j hk
theorem logCorrected_flag (source code arg : Nat) (d : Dev) (r : Row) (i : Nat) (hk : r.key i ∉ tellKeys) : (d.logCorrected source code arg).flag r i = d.flag r i := (told_logCorrected source code arg d).flag r i hk
theorem logCorrected_bytes (source code arg : Nat) (d : Dev) (r : Row) (i : Nat) (hk : r.key i ∉ tellKeys) : (d.logCorrected source code arg).bytes r i = d.bytes r i := (told_logCorrected source code arg d).bytes r i hk
theorem liftPut_int (kind flow : Nat) (job : LiftJob) (d : Dev) (r : Row) (i j : Nat) (hk : r.key i j ∉ tellKeys) : (d.liftPut kind flow job).int r i j = d.int r i j := (told_liftPut kind flow job d).int r i j hk
theorem liftPut_nat (kind flow : Nat) (job : LiftJob) (d : Dev) (r : Row) (i j : Nat) (hk : r.key i j ∉ tellKeys) : (d.liftPut kind flow job).nat r i j = d.nat r i j := (told_liftPut kind flow job d).nat r i j hk
theorem liftPut_flag (kind flow : Nat) (job : LiftJob) (d : Dev) (r : Row) (i : Nat) (hk : r.key i ∉ tellKeys) : (d.liftPut kind flow job).flag r i = d.flag r i := (told_liftPut kind flow job d).flag r i hk
theorem liftPut_bytes (kind flow : Nat) (job : LiftJob) (d : Dev) (r : Row) (i : Nat) (hk : r.key i ∉ tellKeys) : (d.liftPut kind flow job).bytes r i = d.bytes r i := (told_liftPut kind flow job d).bytes r i hk

end Sys2Proof.Machine.Dev
end

