-- ==== Sys2Proof/Laws/Time.lean ====
section
/-! SUPPORT. What the passing of time changes: the clock and the Almanac, and nothing else. -/

namespace Sys2Proof.Machine.Dev

/-! #### advance -/

@[simp] theorem advance_regs (n : Nat) (d : Dev) : (d.advance n).regs = d.regs := by unfold advance; split <;> rfl
@[simp] theorem advance_store (n : Nat) (d : Dev) : (d.advance n).store = d.store := by unfold advance; split <;> rfl
@[simp] theorem advance_force (n : Nat) (d : Dev) : (d.advance n).force = d.force := by unfold advance; split <;> rfl
@[simp] theorem advance_dated (n : Nat) (d : Dev) : (d.advance n).dated = d.dated := by unfold advance; split <;> rfl
@[simp] theorem advance_frcBase (n : Nat) (d : Dev) : (d.advance n).frcBase = d.frcBase := by unfold advance; split <;> rfl
@[simp] theorem advance_timers (n : Nat) (d : Dev) : (d.advance n).timers = d.timers := by unfold advance; split <;> rfl
@[simp] theorem advance_limiter (n : Nat) (d : Dev) : (d.advance n).limiter = d.limiter := by unfold advance; split <;> rfl
@[simp] theorem advance_freeCtr (n : Nat) (d : Dev) : (d.advance n).freeCtr = d.freeCtr := by unfold advance; split <;> rfl
@[simp] theorem advance_msc (n : Nat) (d : Dev) : (d.advance n).msc = d.msc := by unfold advance; split <;> rfl
@[simp] theorem advance_tickAt (n : Nat) (d : Dev) : (d.advance n).tickAt = d.tickAt := by unfold advance; split <;> rfl
@[simp] theorem advance_out (n : Nat) (d : Dev) : (d.advance n).out = d.out := by unfold advance; split <;> rfl
@[simp] theorem advance_power (n : Nat) (d : Dev) : (d.advance n).power = d.power := by unfold advance; split <;> rfl
@[simp] theorem advance_sessions (n : Nat) (d : Dev) : (d.advance n).sessions = d.sessions := by unfold advance; split <;> rfl
@[simp] theorem advance_subs (n : Nat) (d : Dev) : (d.advance n).subs = d.subs := by unfold advance; split <;> rfl
@[simp] theorem advance_transfers (n : Nat) (d : Dev) : (d.advance n).transfers = d.transfers := by unfold advance; split <;> rfl
@[simp] theorem advance_nextTransfer (n : Nat) (d : Dev) : (d.advance n).nextTransfer = d.nextTransfer := by unfold advance; split <;> rfl
@[simp] theorem advance_nextSub (n : Nat) (d : Dev) : (d.advance n).nextSub = d.nextSub := by unfold advance; split <;> rfl
@[simp] theorem advance_lastStatus (n : Nat) (d : Dev) : (d.advance n).lastStatus = d.lastStatus := by unfold advance; split <;> rfl
@[simp] theorem advance_blocked (n : Nat) (d : Dev) : (d.advance n).blocked = d.blocked := by unfold advance; split <;> rfl
@[simp] theorem advance_refusals (n : Nat) (d : Dev) : (d.advance n).refusals = d.refusals := by unfold advance; split <;> rfl
@[simp] theorem advance_cal (n : Nat) (d : Dev) : (d.advance n).cal = d.cal := by unfold advance; split <;> rfl
@[simp] theorem advance_motion (n : Nat) (d : Dev) : (d.advance n).motion = d.motion := by unfold advance; split <;> rfl
@[simp] theorem advance_motionDue (n : Nat) (d : Dev) : (d.advance n).motionDue = d.motionDue := by unfold advance; split <;> rfl
@[simp] theorem advance_lift (n : Nat) (d : Dev) : (d.advance n).lift = d.lift := by unfold advance; split <;> rfl
@[simp] theorem advance_log (n : Nat) (d : Dev) : (d.advance n).log = d.log := by unfold advance; split <;> rfl
@[simp] theorem advance_geo (n : Nat) (d : Dev) : (d.advance n).geo = d.geo := by unfold advance; split <;> rfl
@[simp] theorem advance_planes (n : Nat) (d : Dev) : (d.advance n).planes = d.planes := by unfold advance; split <;> rfl
@[simp] theorem advance_rend (n : Nat) (d : Dev) : (d.advance n).rend = d.rend := by unfold advance; split <;> rfl
@[simp] theorem advance_mix (n : Nat) (d : Dev) : (d.advance n).mix = d.mix := by unfold advance; split <;> rfl
@[simp] theorem advance_corr (n : Nat) (d : Dev) : (d.advance n).corr = d.corr := by unfold advance; split <;> rfl
@[simp] theorem advance_ports (n : Nat) (d : Dev) : (d.advance n).ports = d.ports := by unfold advance; split <;> rfl
@[simp] theorem advance_rxRings (n : Nat) (d : Dev) : (d.advance n).rxRings = d.rxRings := by unfold advance; split <;> rfl
@[simp] theorem advance_txRings (n : Nat) (d : Dev) : (d.advance n).txRings = d.txRings := by unfold advance; split <;> rfl
@[simp] theorem advance_flows (n : Nat) (d : Dev) : (d.advance n).flows = d.flows := by unfold advance; split <;> rfl
@[simp] theorem advance_pool (n : Nat) (d : Dev) : (d.advance n).pool = d.pool := by unfold advance; split <;> rfl
@[simp] theorem advance_tdm (n : Nat) (d : Dev) : (d.advance n).tdm = d.tdm := by unfold advance; split <;> rfl
@[simp] theorem advance_headset (n : Nat) (d : Dev) : (d.advance n).headset = d.headset := by unfold advance; split <;> rfl
@[simp] theorem advance_recd (n : Nat) (d : Dev) : (d.advance n).recd = d.recd := by unfold advance; split <;> rfl
@[simp] theorem advance_serving (n : Nat) (d : Dev) : (d.advance n).serving = d.serving := by unfold advance; split <;> rfl
@[simp] theorem advance_fwRead (n : Nat) (d : Dev) : (d.advance n).fwRead = d.fwRead := by unfold advance; split <;> rfl
@[simp] theorem advance_lastResult (n : Nat) (d : Dev) : (d.advance n).lastResult = d.lastResult := by unfold advance; split <;> rfl
@[simp] theorem advance_dram (n : Nat) (d : Dev) : (d.advance n).dram = d.dram := by unfold advance; split <;> rfl
@[simp] theorem advance_sram (n : Nat) (d : Dev) : (d.advance n).sram = d.sram := by unfold advance; split <;> rfl
@[simp] theorem advance_pair (n : Nat) (d : Dev) : (d.advance n).pair = d.pair := by unfold advance; split <;> rfl
@[simp] theorem advance_drada (n : Nat) (d : Dev) : (d.advance n).drada = d.drada := by unfold advance; split <;> rfl
@[simp] theorem advance_sup (n : Nat) (d : Dev) : (d.advance n).sup = d.sup := by unfold advance; split <;> rfl
@[simp] theorem advance_sec (n : Nat) (d : Dev) : (d.advance n).sec = d.sec := by unfold advance; split <;> rfl
@[simp] theorem advance_season (n : Nat) (d : Dev) : (d.advance n).season = d.season := by unfold advance; split <;> rfl
@[simp] theorem advance_gathers (n : Nat) (d : Dev) : (d.advance n).gathers = d.gathers := by unfold advance; split <;> rfl
@[simp] theorem advance_nextRequest (n : Nat) (d : Dev) : (d.advance n).nextRequest = d.nextRequest := by unfold advance; split <;> rfl
@[simp] theorem advance_heldEnds (n : Nat) (d : Dev) : (d.advance n).heldEnds = d.heldEnds := by unfold advance; split <;> rfl
@[simp] theorem advance_perturb (n : Nat) (d : Dev) : (d.advance n).perturb = d.perturb := by unfold advance; split <;> rfl
@[simp] theorem advance_clock (n : Nat) (d : Dev) : (d.advance n).clock = d.clock + n := by unfold advance; split <;> rfl
@[simp] theorem advance_aligned (n : Nat) (d : Dev) : (d.advance n).alm.aligned = d.alm.aligned := by unfold advance; split <;> rfl

/-! #### advanceTo -/

@[simp] theorem advanceTo_regs (n : Nat) (d : Dev) : (d.advanceTo n).regs = d.regs := advance_regs _ _
@[simp] theorem advanceTo_store (n : Nat) (d : Dev) : (d.advanceTo n).store = d.store := advance_store _ _
@[simp] theorem advanceTo_force (n : Nat) (d : Dev) : (d.advanceTo n).force = d.force := advance_force _ _
@[simp] theorem advanceTo_dated (n : Nat) (d : Dev) : (d.advanceTo n).dated = d.dated := advance_dated _ _
@[simp] theorem advanceTo_frcBase (n : Nat) (d : Dev) : (d.advanceTo n).frcBase = d.frcBase := advance_frcBase _ _
@[simp] theorem advanceTo_timers (n : Nat) (d : Dev) : (d.advanceTo n).timers = d.timers := advance_timers _ _
@[simp] theorem advanceTo_limiter (n : Nat) (d : Dev) : (d.advanceTo n).limiter = d.limiter := advance_limiter _ _
@[simp] theorem advanceTo_freeCtr (n : Nat) (d : Dev) : (d.advanceTo n).freeCtr = d.freeCtr := advance_freeCtr _ _
@[simp] theorem advanceTo_msc (n : Nat) (d : Dev) : (d.advanceTo n).msc = d.msc := advance_msc _ _
@[simp] theorem advanceTo_tickAt (n : Nat) (d : Dev) : (d.advanceTo n).tickAt = d.tickAt := advance_tickAt _ _
@[simp] theorem advanceTo_out (n : Nat) (d : Dev) : (d.advanceTo n).out = d.out := advance_out _ _
@[simp] theorem advanceTo_power (n : Nat) (d : Dev) : (d.advanceTo n).power = d.power := advance_power _ _
@[simp] theorem advanceTo_sessions (n : Nat) (d : Dev) : (d.advanceTo n).sessions = d.sessions := advance_sessions _ _
@[simp] theorem advanceTo_subs (n : Nat) (d : Dev) : (d.advanceTo n).subs = d.subs := advance_subs _ _
@[simp] theorem advanceTo_transfers (n : Nat) (d : Dev) : (d.advanceTo n).transfers = d.transfers := advance_transfers _ _
@[simp] theorem advanceTo_nextTransfer (n : Nat) (d : Dev) : (d.advanceTo n).nextTransfer = d.nextTransfer := advance_nextTransfer _ _
@[simp] theorem advanceTo_nextSub (n : Nat) (d : Dev) : (d.advanceTo n).nextSub = d.nextSub := advance_nextSub _ _
@[simp] theorem advanceTo_lastStatus (n : Nat) (d : Dev) : (d.advanceTo n).lastStatus = d.lastStatus := advance_lastStatus _ _
@[simp] theorem advanceTo_blocked (n : Nat) (d : Dev) : (d.advanceTo n).blocked = d.blocked := advance_blocked _ _
@[simp] theorem advanceTo_refusals (n : Nat) (d : Dev) : (d.advanceTo n).refusals = d.refusals := advance_refusals _ _
@[simp] theorem advanceTo_cal (n : Nat) (d : Dev) : (d.advanceTo n).cal = d.cal := advance_cal _ _
@[simp] theorem advanceTo_motion (n : Nat) (d : Dev) : (d.advanceTo n).motion = d.motion := advance_motion _ _
@[simp] theorem advanceTo_motionDue (n : Nat) (d : Dev) : (d.advanceTo n).motionDue = d.motionDue := advance_motionDue _ _
@[simp] theorem advanceTo_lift (n : Nat) (d : Dev) : (d.advanceTo n).lift = d.lift := advance_lift _ _
@[simp] theorem advanceTo_log (n : Nat) (d : Dev) : (d.advanceTo n).log = d.log := advance_log _ _
@[simp] theorem advanceTo_geo (n : Nat) (d : Dev) : (d.advanceTo n).geo = d.geo := advance_geo _ _
@[simp] theorem advanceTo_planes (n : Nat) (d : Dev) : (d.advanceTo n).planes = d.planes := advance_planes _ _
@[simp] theorem advanceTo_rend (n : Nat) (d : Dev) : (d.advanceTo n).rend = d.rend := advance_rend _ _
@[simp] theorem advanceTo_mix (n : Nat) (d : Dev) : (d.advanceTo n).mix = d.mix := advance_mix _ _
@[simp] theorem advanceTo_corr (n : Nat) (d : Dev) : (d.advanceTo n).corr = d.corr := advance_corr _ _
@[simp] theorem advanceTo_ports (n : Nat) (d : Dev) : (d.advanceTo n).ports = d.ports := advance_ports _ _
@[simp] theorem advanceTo_rxRings (n : Nat) (d : Dev) : (d.advanceTo n).rxRings = d.rxRings := advance_rxRings _ _
@[simp] theorem advanceTo_txRings (n : Nat) (d : Dev) : (d.advanceTo n).txRings = d.txRings := advance_txRings _ _
@[simp] theorem advanceTo_flows (n : Nat) (d : Dev) : (d.advanceTo n).flows = d.flows := advance_flows _ _
@[simp] theorem advanceTo_pool (n : Nat) (d : Dev) : (d.advanceTo n).pool = d.pool := advance_pool _ _
@[simp] theorem advanceTo_tdm (n : Nat) (d : Dev) : (d.advanceTo n).tdm = d.tdm := advance_tdm _ _
@[simp] theorem advanceTo_headset (n : Nat) (d : Dev) : (d.advanceTo n).headset = d.headset := advance_headset _ _
@[simp] theorem advanceTo_recd (n : Nat) (d : Dev) : (d.advanceTo n).recd = d.recd := advance_recd _ _
@[simp] theorem advanceTo_serving (n : Nat) (d : Dev) : (d.advanceTo n).serving = d.serving := advance_serving _ _
@[simp] theorem advanceTo_fwRead (n : Nat) (d : Dev) : (d.advanceTo n).fwRead = d.fwRead := advance_fwRead _ _
@[simp] theorem advanceTo_lastResult (n : Nat) (d : Dev) : (d.advanceTo n).lastResult = d.lastResult := advance_lastResult _ _
@[simp] theorem advanceTo_dram (n : Nat) (d : Dev) : (d.advanceTo n).dram = d.dram := advance_dram _ _
@[simp] theorem advanceTo_sram (n : Nat) (d : Dev) : (d.advanceTo n).sram = d.sram := advance_sram _ _
@[simp] theorem advanceTo_pair (n : Nat) (d : Dev) : (d.advanceTo n).pair = d.pair := advance_pair _ _
@[simp] theorem advanceTo_drada (n : Nat) (d : Dev) : (d.advanceTo n).drada = d.drada := advance_drada _ _
@[simp] theorem advanceTo_sup (n : Nat) (d : Dev) : (d.advanceTo n).sup = d.sup := advance_sup _ _
@[simp] theorem advanceTo_sec (n : Nat) (d : Dev) : (d.advanceTo n).sec = d.sec := advance_sec _ _
@[simp] theorem advanceTo_season (n : Nat) (d : Dev) : (d.advanceTo n).season = d.season := advance_season _ _
@[simp] theorem advanceTo_gathers (n : Nat) (d : Dev) : (d.advanceTo n).gathers = d.gathers := advance_gathers _ _
@[simp] theorem advanceTo_nextRequest (n : Nat) (d : Dev) : (d.advanceTo n).nextRequest = d.nextRequest := advance_nextRequest _ _
@[simp] theorem advanceTo_heldEnds (n : Nat) (d : Dev) : (d.advanceTo n).heldEnds = d.heldEnds := advance_heldEnds _ _
@[simp] theorem advanceTo_perturb (n : Nat) (d : Dev) : (d.advanceTo n).perturb = d.perturb := advance_perturb _ _
@[simp] theorem advanceTo_aligned (n : Nat) (d : Dev) : (d.advanceTo n).alm.aligned = d.alm.aligned := advance_aligned _ _
theorem advanceTo_clock (n : Nat) (d : Dev) (h : d.Reaches n) : (d.advanceTo n).clock = max d.clock n := by
  unfold advanceTo
  rw [advance_clock]
  unfold Reaches at h
  by_cases ha : d.alm.aligned = true
  · have := h ha; simp only [ha, if_true]; omega
  · simp only [ha]; simp only [Bool.false_eq_true, if_false]; omega

/-- A due moment within reach: the command acts at it. -/
theorem onDue_eq (due : Nat) (f : Dev → Dev) (d : Dev) (h : d.Reaches due) : d.onDue due f = f (d.advanceTo due) := by
  unfold onDue
  have := advanceTo_clock due d h
  simp only
  rw [if_neg (by omega)]

/-- A due moment beyond the tick in progress: the command only waits for the end of the tick. -/
theorem onDue_early (due : Nat) (f : Dev → Dev) (d : Dev) (ha : d.alm.aligned = true) (hc : d.clock ≤ d.tickAt + d.tickCycles)
    (h : d.tickAt + d.tickCycles < due) : d.onDue due f = d.advanceTo due := by
  unfold onDue
  simp only
  rw [if_pos]
  unfold advanceTo
  rw [advance_clock]
  simp only [ha, if_true]
  omega

@[simp] theorem advance_val (n : Nat) (d : Dev) (r : Row) (i j : Nat) : (d.advance n).val r i j = d.val r i j := by simp [val]
@[simp] theorem advance_int (n : Nat) (d : Dev) (r : Row) (i j : Nat) : (d.advance n).int r i j = d.int r i j := by simp [int]
@[simp] theorem advance_nat (n : Nat) (d : Dev) (r : Row) (i j : Nat) : (d.advance n).nat r i j = d.nat r i j := by simp [nat]
@[simp] theorem advance_flag (n : Nat) (d : Dev) (r : Row) (i : Nat) : (d.advance n).flag r i = d.flag r i := by simp [flag]
@[simp] theorem advanceTo_val (n : Nat) (d : Dev) (r : Row) (i j : Nat) : (d.advanceTo n).val r i j = d.val r i j := advance_val _ _ _ _ _
@[simp] theorem advanceTo_int (n : Nat) (d : Dev) (r : Row) (i j : Nat) : (d.advanceTo n).int r i j = d.int r i j := advance_int _ _ _ _ _
@[simp] theorem advanceTo_nat (n : Nat) (d : Dev) (r : Row) (i j : Nat) : (d.advanceTo n).nat r i j = d.nat r i j := advance_nat _ _ _ _ _
@[simp] theorem advanceTo_flag (n : Nat) (d : Dev) (r : Row) (i : Nat) : (d.advanceTo n).flag r i = d.flag r i := advance_flag _ _ _ _

/-! ### The frame of the entries -/

theorem KeepsRegs.refl (ks : List Nat) (d : Dev) : KeepsRegs ks d d := fun _ _ _ => rfl

theorem KeepsRegs.trans {ks : List Nat} {a b c : Dev} (h : KeepsRegs ks a b) (h' : KeepsRegs ks b c) : KeepsRegs ks a c :=
  fun k h1 h2 => (h' k h1 h2).trans (h k h1 h2)

theorem KeepsRegs.mono {ks ks' : List Nat} {a b : Dev} (h : KeepsRegs ks a b) (hs : ∀ k, k ∈ ks → k ∈ ks') : KeepsRegs ks' a b :=
  fun k h1 h2 => h k (fun hk => h1 (hs k hk)) h2

theorem KeepsRegs.of_regs {ks : List Nat} {a b c : Dev} (h : KeepsRegs ks a b) (hc : c.regs = b.regs) : KeepsRegs ks a c :=
  fun k h1 h2 => by rw [hc]; exact h k h1 h2

theorem KeepsRegs.told {ks : List Nat} {a b c : Dev} (h : KeepsRegs ks a b) (ht : Told b c) : KeepsRegs ks a c :=
  fun k h1 h2 => (ht.regs k h2).trans (h k h1 h2)

theorem KeepsRegs.setVal {ks : List Nat} {a b : Dev} (h : KeepsRegs ks a b) (r : Row) (v : Val) (i j : Nat) (hk : r.key i j ∈ ks) :
    KeepsRegs ks a (b.setVal r v i j) :=
  fun k h1 h2 => (nget?_nset_ne _ _ _ (show k ≠ r.key i j from fun e => h1 (by rw [e]; exact hk))).trans (h k h1 h2)

theorem KeepsRegs.setNat {ks : List Nat} {a b : Dev} (h : KeepsRegs ks a b) (r : Row) (v i j : Nat) (hk : r.key i j ∈ ks) :
    KeepsRegs ks a (b.setNat r v i j) := h.setVal r _ i j hk

theorem KeepsRegs.setInt {ks : List Nat} {a b : Dev} (h : KeepsRegs ks a b) (r : Row) (v : Int) (i j : Nat) (hk : r.key i j ∈ ks) :
    KeepsRegs ks a (b.setInt r v i j) := h.setVal r _ i j hk

theorem KeepsRegs.setFlag {ks : List Nat} {a b : Dev} (h : KeepsRegs ks a b) (r : Row) (v : Bool) (i : Nat) (hk : r.key i ∈ ks) :
    KeepsRegs ks a (b.setFlag r v i) := h.setVal r _ i 0 hk

theorem KeepsRegs.bump {ks : List Nat} {a b : Dev} (h : KeepsRegs ks a b) (r : Row) (i n : Nat) (hk : r.key i ∈ ks) :
    KeepsRegs ks a (b.bump r i n) := by
  have h' := h.setNat r ((b.nat r i + n) % 256 ^ r.ty.size) i 0 hk
  unfold Dev.bump
  split
  · exact h'.of_regs rfl
  · exact h'

/-- What telling changes is exactly what `untold` puts back. -/
theorem Told.untold_eq {a b : Dev} (h : Told a b) (d : Dev) : untold d b = untold d a :=
  congrArg (untold d) (a₁ := { b with regs := a.regs, store := a.store, limiter := a.limiter, sessions := a.sessions, lift := a.lift, log := a.log }) h.rest

@[simp] theorem untold_setVal (d e : Dev) (r : Row) (v : Val) (i j : Nat) : untold d (e.setVal r v i j) = untold d e := rfl
@[simp] theorem untold_setNat (d e : Dev) (r : Row) (v i j : Nat) : untold d (e.setNat r v i j) = untold d e := rfl
@[simp] theorem untold_setInt (d e : Dev) (r : Row) (v : Int) (i j : Nat) : untold d (e.setInt r v i j) = untold d e := rfl
@[simp] theorem untold_setFlag (d e : Dev) (r : Row) (v : Bool) (i : Nat) : untold d (e.setFlag r v i) = untold d e := rfl
@[simp] theorem untold_keep (d e : Dev) (r : Row) (i j : Nat) : untold d (e.keep r i j) = untold d e := rfl
@[simp] theorem untold_bump (d e : Dev) (r : Row) (i n : Nat) : untold d (e.bump r i n) = untold d e := by unfold Dev.bump; split <;> rfl
@[simp] theorem untold_notice (d e : Dev) (c a : Nat) : untold d (e.notice c a) = untold d e := (told_notice c a e).untold_eq d
@[simp] theorem untold_noticeOf (d e : Dev) (c i s a : Nat) : untold d (e.noticeOf c i s a) = untold d e := (told_noticeOf c i s a e).untold_eq d
@[simp] theorem untold_noticeOnce (d e : Dev) (k c a : Nat) : untold d (e.noticeOnce k c a) = untold d e := (told_noticeOnce k c a e).untold_eq d
@[simp] theorem untold_logEvent (d e : Dev) (x : LogRec) : untold d (e.logEvent x) = untold d e := (told_logEvent x e).untold_eq d
@[simp] theorem untold_logFault (d e : Dev) (c a : Nat) : untold d (e.logFault c a) = untold d e := (told_logFault c a e).untold_eq d
@[simp] theorem untold_logCorrected (d e : Dev) (s c a : Nat) : untold d (e.logCorrected s c a) = untold d e := (told_logCorrected s c a e).untold_eq d
@[simp] theorem untold_liftPut (d e : Dev) (k f : Nat) (j : LiftJob) : untold d (e.liftPut k f j) = untold d e := (told_liftPut k f j e).untold_eq d
@[simp] theorem untold_self (d : Dev) : untold d d = d := rfl

end Sys2Proof.Machine.Dev
end

