-- ==== Sys2Proof/Laws/Commands.lean ====
section
/-! SUPPORT. The forms in which a command reaches the module: what they add around its effect. -/

namespace Sys2Proof.Machine

theorem Dev.answers_state {d : Dev} (h : d.answers = true) : d.power.state.answers = true := by
  simp only [Dev.answers, Bool.and_eq_true] at h; exact h.2

theorem Dev.answers_live {d : Dev} (h : d.answers = true) : d.live = true := by
  simp only [Dev.answers, Bool.and_eq_true] at h; exact h.1

/-- A command whose effect is on the module alone completes. -/
theorem run_completes {i : Instr} {s : State} {f : Dev → Dev} {P : Dev → Prop} (h : exec i s = s.run f) (hp : P (f s.dev)) :
    Completes i s P := ⟨_, h, rfl, rfl, hp⟩

/-- An event of a module that answers completes with its effect. -/
theorem up_completes {i : Instr} {s : State} {f : Dev → Dev} {P : Dev → Prop} (h : exec i s = s.run (Dev.whenUp f))
    (ha : s.dev.answers = true) (hp : P (f s.dev)) : Completes i s P := by
  refine ⟨_, h, rfl, rfl, ?_⟩
  show P (Dev.whenUp f s.dev)
  unfold Dev.whenUp
  rw [if_pos ha]
  exact hp

/-- An event of a module whose logic runs completes with its effect. -/
theorem live_completes {i : Instr} {s : State} {f : Dev → Dev} {P : Dev → Prop} (h : exec i s = s.run fun d => if d.live then f d else d)
    (ha : s.dev.live = true) (hp : P (f s.dev)) : Completes i s P := by
  refine ⟨_, h, rfl, rfl, ?_⟩
  show P (if s.dev.live then f s.dev else s.dev)
  rw [if_pos ha]
  exact hp

namespace Dev

theorem Alone.refuses {d : Dev} (h : d.Alone) (f : Found) : d.standbyRefuses f = false := by
  obtain ⟨-, h5, h6, -⟩ := h
  simp only [standbyRefuses]
  rw [beq_false_of_ne h5, beq_false_of_ne h6]
  rfl

theorem mirrorPlain_lone {d : Dev} (h : d.lone = true) (f : Found) (w : Octets) : d.mirrorPlain f w = d := by
  simp [mirrorPlain, mirrors, paired, h]

theorem afterResponse_none {d : Dev} (h : d.power.resetDue = none) (h' : d.power.offDue = false) : d.afterResponse = d := by
  simp [afterResponse, h, h']

@[simp] theorem bump_power (d : Dev) (r : Row) (i n : Nat) : (d.bump r i n).power = d.power := by unfold bump; split <;> rfl

/-- A command entry given to a lone module: its effect, its status, its read-back; ConfigEpoch counts it where it was OK. -/
theorem ranCommand_eq {d e : Dev} {f : Found} {text res : Octets} {act : Dev → Status × Octets × Dev} {st : Status} (h : d.Alone)
    (ha : act d = (st, res, e)) (hp : e.power = d.power) :
    d.ranCommand f text act =
      { (if st = Status.ok then e.bumpEpoch else e) with lastStatus := st, lastResult := cmdBack text st res } := by
  have hl : e.lone = true := by unfold lone; rw [hp]; exact h.1
  have hr : e.power.resetDue = none := by rw [hp]; exact h.2.2.2.1
  have ho : e.power.offDue = false := by rw [hp]; exact h.2.2.2.2
  simp only [ranCommand, h.refuses f, Bool.false_eq_true, if_false, ha]
  by_cases hs : st = Status.ok
  · subst hs
    have hb : e.bumpEpoch.power = e.power := bump_power _ _ _ _
    rw [if_pos rfl, if_pos rfl, mirrorPlain_lone (by unfold lone; rw [hb]; exact hl)]
    exact afterResponse_none (by show e.bumpEpoch.power.resetDue = none; rw [hb]; exact hr) (by show e.bumpEpoch.power.offDue = false; rw [hb]; exact ho)
  · rw [if_neg hs, if_neg hs]
    exact afterResponse_none hr ho

/-- The same, of the answer itself. -/
theorem ranCommand_of {d : Dev} {f : Found} {text : Octets} {act : Dev → Status × Octets × Dev} (h : d.Alone)
    (hp : (act d).2.2.power = d.power) :
    d.ranCommand f text act =
      { (if (act d).1 = Status.ok then (act d).2.2.bumpEpoch else (act d).2.2) with
        lastStatus := (act d).1, lastResult := cmdBack text (act d).1 (act d).2.1 } := ranCommand_eq h rfl hp

end Dev

end Sys2Proof.Machine
end

