-- ==== Sys2Proof/Laws/Keys.lean ====
section
/-! SUPPORT. The key of every dictionary row, with its index and sub-index as numbers, so that two keys can be told apart. -/

namespace Sys2Proof.Machine

theorem renderRate_key (i j : Nat) : Reg.renderRate.key i j = (0x6000 + i) * 256 + (0x1 + j) := rfl
theorem partitionCount_key (i j : Nat) : Reg.partitionCount.key i j = (0x6000 + i) * 256 + (0x2 + j) := rfl
theorem outputsConfigured_key (i j : Nat) : Reg.outputsConfigured.key i j = (0x6000 + i) * 256 + (0x3 + j) := rfl
theorem partitionOutputs0_key (i j : Nat) : Reg.partitionOutputs0.key i j = (0x6000 + i) * 256 + (0x4 + j) := rfl
theorem partitionOutputs1_key (i j : Nat) : Reg.partitionOutputs1.key i j = (0x6000 + i) * 256 + (0x5 + j) := rfl
theorem partitionOutputs2_key (i j : Nat) : Reg.partitionOutputs2.key i j = (0x6000 + i) * 256 + (0x6 + j) := rfl
theorem partitionOutputs3_key (i j : Nat) : Reg.partitionOutputs3.key i j = (0x6000 + i) * 256 + (0x7 + j) := rfl
theorem moduleLatency_key (i j : Nat) : Reg.moduleLatency.key i j = (0x6000 + i) * 256 + (0x8 + j) := rfl
theorem groupExtraLatency_key (i j : Nat) : Reg.groupExtraLatency.key i j = (0x6000 + i) * 256 + (0x9 + j) := rfl
theorem mscNow_key (i j : Nat) : Reg.mscNow.key i j = (0x6000 + i) * 256 + (0xA + j) := rfl
theorem blockCount_key (i j : Nat) : Reg.blockCount.key i j = (0x6000 + i) * 256 + (0xB + j) := rfl
theorem calendarLead_key (i j : Nat) : Reg.calendarLead.key i j = (0xA400 + i) * 256 + (0x1 + j) := rfl
theorem calendarPrepareLead_key (i j : Nat) : Reg.calendarPrepareLead.key i j = (0xA400 + i) * 256 + (0x2 + j) := rfl
theorem entriesInUse_key (i j : Nat) : Reg.entriesInUse.key i j = (0xA400 + i) * 256 + (0x3 + j) := rfl
theorem changesInUse_key (i j : Nat) : Reg.changesInUse.key i j = (0xA400 + i) * 256 + (0x4 + j) := rfl
theorem earliestDate_key (i j : Nat) : Reg.earliestDate.key i j = (0xA400 + i) * 256 + (0x5 + j) := rfl
theorem journalSeq_key (i j : Nat) : Reg.journalSeq.key i j = (0xA400 + i) * 256 + (0x6 + j) := rfl
theorem journalOldest_key (i j : Nat) : Reg.journalOldest.key i j = (0xA400 + i) * 256 + (0x7 + j) := rfl
theorem entriesRefused_key (i j : Nat) : Reg.entriesRefused.key i j = (0xA400 + i) * 256 + (0x8 + j) := rfl
theorem entriesPartial_key (i j : Nat) : Reg.entriesPartial.key i j = (0xA400 + i) * 256 + (0x9 + j) := rfl
theorem lastOutcome_key (i j : Nat) : Reg.lastOutcome.key i j = (0xA400 + i) * 256 + (0xA + j) := rfl
theorem fifoStages_key (i j : Nat) : Reg.fifoStages.key i j = (0xA500 + i) * 256 + (0x1 + j) := rfl
theorem wordsHeld_key (i j : Nat) : Reg.wordsHeld.key i j = (0xA500 + i) * 256 + (0x2 + j) := rfl
theorem packetsHeld_key (i j : Nat) : Reg.packetsHeld.key i j = (0xA500 + i) * 256 + (0x3 + j) := rfl
theorem gapWords_key (i j : Nat) : Reg.gapWords.key i j = (0xA500 + i) * 256 + (0x4 + j) := rfl
theorem wordsDropped_key (i j : Nat) : Reg.wordsDropped.key i j = (0xA500 + i) * 256 + (0x5 + j) := rfl
theorem packetsDiscarded_key (i j : Nat) : Reg.packetsDiscarded.key i j = (0xA500 + i) * 256 + (0x6 + j) := rfl
theorem motionLate_key (i j : Nat) : Reg.motionLate.key i j = (0xA500 + i) * 256 + (0x7 + j) := rfl
theorem motionFar_key (i j : Nat) : Reg.motionFar.key i j = (0xA500 + i) * 256 + (0x8 + j) := rfl
theorem motionStalls_key (i j : Nat) : Reg.motionStalls.key i j = (0xA500 + i) * 256 + (0x9 + j) := rfl
theorem liftItemsMax_key (i j : Nat) : Reg.liftItemsMax.key i j = (0xA600 + i) * 256 + (0x1 + j) := rfl
theorem liftItemsFree_key (i j : Nat) : Reg.liftItemsFree.key i j = (0xA600 + i) * 256 + (0x2 + j) := rfl
theorem liftEngines_key (i j : Nat) : Reg.liftEngines.key i j = (0xA600 + i) * 256 + (0x3 + j) := rfl
theorem liftAgeLimit_key (i j : Nat) : Reg.liftAgeLimit.key i j = (0xA600 + i) * 256 + (0x4 + j) := rfl
theorem liftFull_key (i j : Nat) : Reg.liftFull.key i j = (0xA600 + i) * 256 + (0x5 + j) := rfl
theorem liftSnapshotCmd_key (i j : Nat) : Reg.liftSnapshotCmd.key i j = (0xA608 + i) * 256 + (0x1 + j) := rfl
theorem liftSnapshot_key (i j : Nat) : Reg.liftSnapshot.key i j = (0xA608 + i) * 256 + (0x2 + j) := rfl
theorem levelItems_key (i j : Nat) : Reg.levelItems.key i j = (0xA610 + i) * 256 + (0x1 + j) := rfl
theorem levelOldestAge_key (i j : Nat) : Reg.levelOldestAge.key i j = (0xA610 + i) * 256 + (0x2 + j) := rfl
theorem levelServed_key (i j : Nat) : Reg.levelServed.key i j = (0xA610 + i) * 256 + (0x3 + j) := rfl
theorem kindLevel_key (i j : Nat) : Reg.kindLevel.key i j = (0xA620 + i) * 256 + (0x1 + j) := rfl
theorem convChannels_key (i j : Nat) : Reg.convChannels.key i j = (0x9400 + i) * 256 + (0x1 + j) := rfl
theorem convInUse_key (i j : Nat) : Reg.convInUse.key i j = (0x9400 + i) * 256 + (0x2 + j) := rfl
theorem convKernelRom_key (i j : Nat) : Reg.convKernelRom.key i j = (0x9400 + i) * 256 + (0x3 + j) := rfl
theorem convHalfbandRom_key (i j : Nat) : Reg.convHalfbandRom.key i j = (0x9400 + i) * 256 + (0x4 + j) := rfl
theorem convJumpLimit_key (i j : Nat) : Reg.convJumpLimit.key i j = (0x9400 + i) * 256 + (0x5 + j) := rfl
theorem convResidueErrors_key (i j : Nat) : Reg.convResidueErrors.key i j = (0x9400 + i) * 256 + (0x6 + j) := rfl
theorem convEccCorrected_key (i j : Nat) : Reg.convEccCorrected.key i j = (0x9400 + i) * 256 + (0x7 + j) := rfl
theorem convEccUncorrected_key (i j : Nat) : Reg.convEccUncorrected.key i j = (0x9400 + i) * 256 + (0x8 + j) := rfl
theorem convSourceKind_key (i j : Nat) : Reg.convSourceKind.key i j = (0x9500 + i) * 256 + (0x1 + j) := rfl
theorem convSourceIndex_key (i j : Nat) : Reg.convSourceIndex.key i j = (0x9500 + i) * 256 + (0x2 + j) := rfl
theorem convSourceChannel_key (i j : Nat) : Reg.convSourceChannel.key i j = (0x9500 + i) * 256 + (0x3 + j) := rfl
theorem convSlot_key (i j : Nat) : Reg.convSlot.key i j = (0x9500 + i) * 256 + (0x4 + j) := rfl
theorem convMode_key (i j : Nat) : Reg.convMode.key i j = (0x9500 + i) * 256 + (0x5 + j) := rfl
theorem convNominalRate_key (i j : Nat) : Reg.convNominalRate.key i j = (0x9500 + i) * 256 + (0x6 + j) := rfl
theorem convDelay_key (i j : Nat) : Reg.convDelay.key i j = (0x9500 + i) * 256 + (0x7 + j) := rfl
theorem convDcEnable_key (i j : Nat) : Reg.convDcEnable.key i j = (0x9500 + i) * 256 + (0x8 + j) := rfl
theorem convDcShift_key (i j : Nat) : Reg.convDcShift.key i j = (0x9500 + i) * 256 + (0x9 + j) := rfl
theorem convDcFreeze_key (i j : Nat) : Reg.convDcFreeze.key i j = (0x9500 + i) * 256 + (0xA + j) := rfl
theorem convDcEstimate_key (i j : Nat) : Reg.convDcEstimate.key i j = (0x9500 + i) * 256 + (0xB + j) := rfl
theorem convState_key (i j : Nat) : Reg.convState.key i j = (0x9500 + i) * 256 + (0xC + j) := rfl
theorem convRatio_key (i j : Nat) : Reg.convRatio.key i j = (0x9500 + i) * 256 + (0xD + j) := rfl
theorem convPhaseError_key (i j : Nat) : Reg.convPhaseError.key i j = (0x9500 + i) * 256 + (0xE + j) := rfl
theorem convMeasuredRate_key (i j : Nat) : Reg.convMeasuredRate.key i j = (0x9500 + i) * 256 + (0xF + j) := rfl
theorem convJumps_key (i j : Nat) : Reg.convJumps.key i j = (0x9500 + i) * 256 + (0x10 + j) := rfl
theorem convLosses_key (i j : Nat) : Reg.convLosses.key i j = (0x9500 + i) * 256 + (0x11 + j) := rfl
theorem convSlips_key (i j : Nat) : Reg.convSlips.key i j = (0x9500 + i) * 256 + (0x12 + j) := rfl
theorem biquadCoeffs_key (i j : Nat) : Reg.biquadCoeffs.key i j = (0x7000 + i) * 256 + (0x1 + j) := rfl
theorem firFilter_key (i j : Nat) : Reg.firFilter.key i j = (0x7000 + i) * 256 + (0x2 + j) := rfl
theorem outputDelay_key (i j : Nat) : Reg.outputDelay.key i j = (0x7000 + i) * 256 + (0x3 + j) := rfl
theorem outputGain_key (i j : Nat) : Reg.outputGain.key i j = (0x7000 + i) * 256 + (0x4 + j) := rfl
theorem outputPolarity_key (i j : Nat) : Reg.outputPolarity.key i j = (0x7000 + i) * 256 + (0x5 + j) := rfl
theorem outputMute_key (i j : Nat) : Reg.outputMute.key i j = (0x7000 + i) * 256 + (0x6 + j) := rfl
theorem limiterEnable_key (i j : Nat) : Reg.limiterEnable.key i j = (0x7000 + i) * 256 + (0x7 + j) := rfl
theorem limiterThreshold_key (i j : Nat) : Reg.limiterThreshold.key i j = (0x7000 + i) * 256 + (0x8 + j) := rfl
theorem limiterRelease_key (i j : Nat) : Reg.limiterRelease.key i j = (0x7000 + i) * 256 + (0x9 + j) := rfl
theorem outputEgressSlot_key (i j : Nat) : Reg.outputEgressSlot.key i j = (0x7000 + i) * 256 + (0xA + j) := rfl
theorem outputStatus_key (i j : Nat) : Reg.outputStatus.key i j = (0x7000 + i) * 256 + (0xB + j) := rfl
theorem limiterGainLast_key (i j : Nat) : Reg.limiterGainLast.key i j = (0x7000 + i) * 256 + (0xC + j) := rfl
theorem limiterBlocks_key (i j : Nat) : Reg.limiterBlocks.key i j = (0x7000 + i) * 256 + (0xD + j) := rfl
theorem biquadSaturations_key (i j : Nat) : Reg.biquadSaturations.key i j = (0x7000 + i) * 256 + (0xE + j) := rfl
theorem firSaturations_key (i j : Nat) : Reg.firSaturations.key i j = (0x7000 + i) * 256 + (0xF + j) := rfl
theorem outputRamp_key (i j : Nat) : Reg.outputRamp.key i j = (0x7A00 + i) * 256 + (0x1 + j) := rfl
theorem firFade_key (i j : Nat) : Reg.firFade.key i j = (0x7A00 + i) * 256 + (0x2 + j) := rfl
theorem firMaxTaps_key (i j : Nat) : Reg.firMaxTaps.key i j = (0x7A00 + i) * 256 + (0x3 + j) := rfl
theorem outputDelayMax_key (i j : Nat) : Reg.outputDelayMax.key i j = (0x7A00 + i) * 256 + (0x4 + j) := rfl
theorem outputRingSamples_key (i j : Nat) : Reg.outputRingSamples.key i j = (0x7A00 + i) * 256 + (0x5 + j) := rfl
theorem firFadeLimit_key (i j : Nat) : Reg.firFadeLimit.key i j = (0x7A00 + i) * 256 + (0x6 + j) := rfl
theorem firFadeCuts_key (i j : Nat) : Reg.firFadeCuts.key i j = (0x7A00 + i) * 256 + (0x7 + j) := rfl
theorem delayUnderruns_key (i j : Nat) : Reg.delayUnderruns.key i j = (0x7A00 + i) * 256 + (0x8 + j) := rfl
theorem correctionResidueErrors_key (i j : Nat) : Reg.correctionResidueErrors.key i j = (0x7A00 + i) * 256 + (0x9 + j) := rfl
theorem correctionEccCorrected_key (i j : Nat) : Reg.correctionEccCorrected.key i j = (0x7A00 + i) * 256 + (0xA + j) := rfl
theorem correctionEccUncorrected_key (i j : Nat) : Reg.correctionEccUncorrected.key i j = (0x7A00 + i) * 256 + (0xB + j) := rfl
theorem limitingOutputs_key (i j : Nat) : Reg.limitingOutputs.key i j = (0x7A00 + i) * 256 + (0xC + j) := rfl
theorem storeUsed_key (i j : Nat) : Reg.storeUsed.key i j = (0x7A00 + i) * 256 + (0xD + j) := rfl
theorem vendorId_key (i j : Nat) : Reg.vendorId.key i j = (0x0 + i) * 256 + (0x1 + j) := rfl
theorem productCode_key (i j : Nat) : Reg.productCode.key i j = (0x0 + i) * 256 + (0x2 + j) := rfl
theorem hardwareIssue_key (i j : Nat) : Reg.hardwareIssue.key i j = (0x0 + i) * 256 + (0x3 + j) := rfl
theorem serialNumber_key (i j : Nat) : Reg.serialNumber.key i j = (0x0 + i) * 256 + (0x4 + j) := rfl
theorem orderCode_key (i j : Nat) : Reg.orderCode.key i j = (0x0 + i) * 256 + (0x5 + j) := rfl
theorem firmwareVersion_key (i j : Nat) : Reg.firmwareVersion.key i j = (0x0 + i) * 256 + (0x6 + j) := rfl
theorem dictionaryVersion_key (i j : Nat) : Reg.dictionaryVersion.key i j = (0x0 + i) * 256 + (0x7 + j) := rfl
theorem unitId_key (i j : Nat) : Reg.unitId.key i j = (0x1 + i) * 256 + (0x1 + j) := rfl
theorem unitKind_key (i j : Nat) : Reg.unitKind.key i j = (0x1 + i) * 256 + (0x2 + j) := rfl
theorem outputBase_key (i j : Nat) : Reg.outputBase.key i j = (0x1 + i) * 256 + (0x3 + j) := rfl
theorem outputCount_key (i j : Nat) : Reg.outputCount.key i j = (0x1 + i) * 256 + (0x4 + j) := rfl
theorem objectCapacity_key (i j : Nat) : Reg.objectCapacity.key i j = (0x1 + i) * 256 + (0x5 + j) := rfl
theorem typeSize_key (i j : Nat) : Reg.typeSize.key i j = (0x11 + i) * 256 + (0x1 + j) := rfl
theorem typeName_key (i j : Nat) : Reg.typeName.key i j = (0x11 + i) * 256 + (0x2 + j) := rfl
theorem unitParent_key (i j : Nat) : Reg.unitParent.key i j = (0x100 + i) * 256 + (0x1 + j) := rfl
theorem unitLink_key (i j : Nat) : Reg.unitLink.key i j = (0x100 + i) * 256 + (0x2 + j) := rfl
theorem unitKindOf_key (i j : Nat) : Reg.unitKindOf.key i j = (0x100 + i) * 256 + (0x3 + j) := rfl
theorem unitOutputBase_key (i j : Nat) : Reg.unitOutputBase.key i j = (0x100 + i) * 256 + (0x4 + j) := rfl
theorem unitOutputCount_key (i j : Nat) : Reg.unitOutputCount.key i j = (0x100 + i) * 256 + (0x5 + j) := rfl
theorem unitHops_key (i j : Nat) : Reg.unitHops.key i j = (0x100 + i) * 256 + (0x6 + j) := rfl
theorem unitState_key (i j : Nat) : Reg.unitState.key i j = (0x100 + i) * 256 + (0x7 + j) := rfl
theorem knasiugUdpPort_key (i j : Nat) : Reg.knasiugUdpPort.key i j = (0x1000 + i) * 256 + (0x1 + j) := rfl
theorem udpOnManagement_key (i j : Nat) : Reg.udpOnManagement.key i j = (0x1000 + i) * 256 + (0x2 + j) := rfl
theorem udpMediaVlan_key (i j : Nat) : Reg.udpMediaVlan.key i j = (0x1000 + i) * 256 + (0x3 + j) := rfl
theorem sessionLimit_key (i j : Nat) : Reg.sessionLimit.key i j = (0x1000 + i) * 256 + (0x4 + j) := rfl
theorem sessionTimeout_key (i j : Nat) : Reg.sessionTimeout.key i j = (0x1000 + i) * 256 + (0x5 + j) := rfl
theorem sessionsOpen_key (i j : Nat) : Reg.sessionsOpen.key i j = (0x1000 + i) * 256 + (0x6 + j) := rfl
theorem framesDropped_key (i j : Nat) : Reg.framesDropped.key i j = (0x1000 + i) * 256 + (0x7 + j) := rfl
theorem canEnable_key (i j : Nat) : Reg.canEnable.key i j = (0x1001 + i) * 256 + (0x1 + j) := rfl
theorem canNodeId_key (i j : Nat) : Reg.canNodeId.key i j = (0x1001 + i) * 256 + (0x2 + j) := rfl
theorem canArbitrationRate_key (i j : Nat) : Reg.canArbitrationRate.key i j = (0x1001 + i) * 256 + (0x3 + j) := rfl
theorem canDataRate_key (i j : Nat) : Reg.canDataRate.key i j = (0x1001 + i) * 256 + (0x4 + j) := rfl
theorem canKey_key (i j : Nat) : Reg.canKey.key i j = (0x1001 + i) * 256 + (0x5 + j) := rfl
theorem canFreshnessTx_key (i j : Nat) : Reg.canFreshnessTx.key i j = (0x1001 + i) * 256 + (0x6 + j) := rfl
theorem canNoticeHost_key (i j : Nat) : Reg.canNoticeHost.key i j = (0x1001 + i) * 256 + (0x7 + j) := rfl
theorem canFramesIgnored_key (i j : Nat) : Reg.canFramesIgnored.key i j = (0x1001 + i) * 256 + (0x8 + j) := rfl
theorem canTagFailures_key (i j : Nat) : Reg.canTagFailures.key i j = (0x1001 + i) * 256 + (0x9 + j) := rfl
theorem canNoticeAreas_key (i j : Nat) : Reg.canNoticeAreas.key i j = (0x1001 + i) * 256 + (0xA + j) := rfl
theorem canFreshnessRx_key (i j : Nat) : Reg.canFreshnessRx.key i j = (0x1081 + i) * 256 + (0x1 + j) := rfl
theorem subscriptionsOpen_key (i j : Nat) : Reg.subscriptionsOpen.key i j = (0x1002 + i) * 256 + (0x1 + j) := rfl
theorem noticesLost_key (i j : Nat) : Reg.noticesLost.key i j = (0x1002 + i) * 256 + (0x2 + j) := rfl
theorem noticeAreas_key (i j : Nat) : Reg.noticeAreas.key i j = (0x1002 + i) * 256 + (0x3 + j) := rfl
theorem mapEnable_key (i j : Nat) : Reg.mapEnable.key i j = (0x1010 + i) * 256 + (0x1 + j) := rfl
theorem mapUdpPort_key (i j : Nat) : Reg.mapUdpPort.key i j = (0x1010 + i) * 256 + (0x2 + j) := rfl
theorem mapSource_key (i j : Nat) : Reg.mapSource.key i j = (0x1010 + i) * 256 + (0x3 + j) := rfl
theorem mapInterface_key (i j : Nat) : Reg.mapInterface.key i j = (0x1010 + i) * 256 + (0x4 + j) := rfl
theorem mapObjectBase_key (i j : Nat) : Reg.mapObjectBase.key i j = (0x1010 + i) * 256 + (0x5 + j) := rfl
theorem mapObjectCount_key (i j : Nat) : Reg.mapObjectCount.key i j = (0x1010 + i) * 256 + (0x6 + j) := rfl
theorem mapAccepted_key (i j : Nat) : Reg.mapAccepted.key i j = (0x1010 + i) * 256 + (0x7 + j) := rfl
theorem mapStale_key (i j : Nat) : Reg.mapStale.key i j = (0x1010 + i) * 256 + (0x8 + j) := rfl
theorem mapMalformed_key (i j : Nat) : Reg.mapMalformed.key i j = (0x1010 + i) * 256 + (0x9 + j) := rfl
theorem mapLastSequence_key (i j : Nat) : Reg.mapLastSequence.key i j = (0x1010 + i) * 256 + (0xA + j) := rfl
theorem mapSeeded_key (i j : Nat) : Reg.mapSeeded.key i j = (0x1010 + i) * 256 + (0xB + j) := rfl
theorem stateDigest_key (i j : Nat) : Reg.stateDigest.key i j = (0x2010 + i) * 256 + (0x1 + j) := rfl
theorem digestDate_key (i j : Nat) : Reg.digestDate.key i j = (0x2010 + i) * 256 + (0x2 + j) := rfl
theorem configEpoch_key (i j : Nat) : Reg.configEpoch.key i j = (0x2010 + i) * 256 + (0x3 + j) := rfl
theorem areaDigest_key (i j : Nat) : Reg.areaDigest.key i j = (0x2010 + i) * 256 + (0x10 + j) := rfl
theorem groupRole_key (i j : Nat) : Reg.groupRole.key i j = (0x8100 + i) * 256 + (0x1 + j) := rfl
theorem groupFormTimeout_key (i j : Nat) : Reg.groupFormTimeout.key i j = (0x8100 + i) * 256 + (0x2 + j) := rfl
theorem groupLatencyLimit_key (i j : Nat) : Reg.groupLatencyLimit.key i j = (0x8100 + i) * 256 + (0x3 + j) := rfl
theorem groupReform_key (i j : Nat) : Reg.groupReform.key i j = (0x8100 + i) * 256 + (0x4 + j) := rfl
theorem groupState_key (i j : Nat) : Reg.groupState.key i j = (0x8100 + i) * 256 + (0x5 + j) := rfl
theorem groupTopology_key (i j : Nat) : Reg.groupTopology.key i j = (0x8100 + i) * 256 + (0x6 + j) := rfl
theorem groupUnits_key (i j : Nat) : Reg.groupUnits.key i j = (0x8100 + i) * 256 + (0x7 + j) := rfl
theorem groupDepth_key (i j : Nat) : Reg.groupDepth.key i j = (0x8100 + i) * 256 + (0x8 + j) := rfl
theorem ringBreaks_key (i j : Nat) : Reg.ringBreaks.key i j = (0x8100 + i) * 256 + (0x9 + j) := rfl
theorem dradaCak_key (i j : Nat) : Reg.dradaCak.key i j = (0x8100 + i) * 256 + (0xA + j) := rfl
theorem dradaEnable_key (i j : Nat) : Reg.dradaEnable.key i j = (0x8110 + i) * 256 + (0x1 + j) := rfl
theorem dradaRateMode_key (i j : Nat) : Reg.dradaRateMode.key i j = (0x8110 + i) * 256 + (0x2 + j) := rfl
theorem dradaFecMode_key (i j : Nat) : Reg.dradaFecMode.key i j = (0x8110 + i) * 256 + (0x3 + j) := rfl
theorem dradaMacsec_key (i j : Nat) : Reg.dradaMacsec.key i j = (0x8110 + i) * 256 + (0x4 + j) := rfl
theorem dradaWakeOwn_key (i j : Nat) : Reg.dradaWakeOwn.key i j = (0x8110 + i) * 256 + (0x5 + j) := rfl
theorem dradaWakeAgreed_key (i j : Nat) : Reg.dradaWakeAgreed.key i j = (0x8110 + i) * 256 + (0x6 + j) := rfl
theorem dradaIdleAfter_key (i j : Nat) : Reg.dradaIdleAfter.key i j = (0x8110 + i) * 256 + (0x7 + j) := rfl
theorem dradaLinkState_key (i j : Nat) : Reg.dradaLinkState.key i j = (0x8110 + i) * 256 + (0x8 + j) := rfl
theorem dradaRate_key (i j : Nat) : Reg.dradaRate.key i j = (0x8110 + i) * 256 + (0x9 + j) := rfl
theorem dradaFec_key (i j : Nat) : Reg.dradaFec.key i j = (0x8110 + i) * 256 + (0xA + j) := rfl
theorem dradaNeighbour_key (i j : Nat) : Reg.dradaNeighbour.key i j = (0x8110 + i) * 256 + (0xB + j) := rfl
theorem dradaPathDelay_key (i j : Nat) : Reg.dradaPathDelay.key i j = (0x8110 + i) * 256 + (0xC + j) := rfl
theorem dradaAsymmetry_key (i j : Nat) : Reg.dradaAsymmetry.key i j = (0x8110 + i) * 256 + (0xD + j) := rfl
theorem dradaTimeOffset_key (i j : Nat) : Reg.dradaTimeOffset.key i j = (0x8110 + i) * 256 + (0xE + j) := rfl
theorem dradaLoad_key (i j : Nat) : Reg.dradaLoad.key i j = (0x8110 + i) * 256 + (0xF + j) := rfl
theorem dradaCrcErrors_key (i j : Nat) : Reg.dradaCrcErrors.key i j = (0x8110 + i) * 256 + (0x10 + j) := rfl
theorem dradaReplays_key (i j : Nat) : Reg.dradaReplays.key i j = (0x8110 + i) * 256 + (0x11 + j) := rfl
theorem dradaStomped_key (i j : Nat) : Reg.dradaStomped.key i j = (0x8110 + i) * 256 + (0x12 + j) := rfl
theorem dradaMalformed_key (i j : Nat) : Reg.dradaMalformed.key i j = (0x8110 + i) * 256 + (0x13 + j) := rfl
theorem dradaCreditStalls_key (i j : Nat) : Reg.dradaCreditStalls.key i j = (0x8110 + i) * 256 + (0x14 + j) := rfl
theorem dradaFeedLate_key (i j : Nat) : Reg.dradaFeedLate.key i j = (0x8110 + i) * 256 + (0x15 + j) := rfl
theorem dradaOverBudget_key (i j : Nat) : Reg.dradaOverBudget.key i j = (0x8110 + i) * 256 + (0x16 + j) := rfl
theorem dradaIdleEntries_key (i j : Nat) : Reg.dradaIdleEntries.key i j = (0x8110 + i) * 256 + (0x17 + j) := rfl
theorem dradaIcvFail_key (i j : Nat) : Reg.dradaIcvFail.key i j = (0x8110 + i) * 256 + (0x18 + j) := rfl
theorem dradaLinkDowns_key (i j : Nat) : Reg.dradaLinkDowns.key i j = (0x8110 + i) * 256 + (0x19 + j) := rfl
theorem dradaTrainingFailures_key (i j : Nat) : Reg.dradaTrainingFailures.key i j = (0x8110 + i) * 256 + (0x1A + j) := rfl
theorem dramCapacity_key (i j : Nat) : Reg.dramCapacity.key i j = (0xA000 + i) * 256 + (0x1 + j) := rfl
theorem dramUsable_key (i j : Nat) : Reg.dramUsable.key i j = (0xA000 + i) * 256 + (0x2 + j) := rfl
theorem dramDataRate_key (i j : Nat) : Reg.dramDataRate.key i j = (0xA000 + i) * 256 + (0x3 + j) := rfl
theorem refreshPostponeLimit_key (i j : Nat) : Reg.refreshPostponeLimit.key i j = (0xA000 + i) * 256 + (0x4 + j) := rfl
theorem rowHitCap_key (i j : Nat) : Reg.rowHitCap.key i j = (0xA000 + i) * 256 + (0x5 + j) := rfl
theorem scrubPeriod_key (i j : Nat) : Reg.scrubPeriod.key i j = (0xA000 + i) * 256 + (0x6 + j) := rfl
theorem scrubPasses_key (i j : Nat) : Reg.scrubPasses.key i j = (0xA000 + i) * 256 + (0x7 + j) := rfl
theorem rtLatencyPeak_key (i j : Nat) : Reg.rtLatencyPeak.key i j = (0xA000 + i) * 256 + (0x8 + j) := rfl
theorem dramLoadLast_key (i j : Nat) : Reg.dramLoadLast.key i j = (0xA000 + i) * 256 + (0x9 + j) := rfl
theorem dramLoadPeak_key (i j : Nat) : Reg.dramLoadPeak.key i j = (0xA000 + i) * 256 + (0xA + j) := rfl
theorem dramRegionFaults_key (i j : Nat) : Reg.dramRegionFaults.key i j = (0xA000 + i) * 256 + (0xB + j) := rfl
theorem refreshRange_key (i j : Nat) : Reg.refreshRange.key i j = (0xA010 + i) * 256 + (0x1 + j) := rfl
theorem refreshDebt_key (i j : Nat) : Reg.refreshDebt.key i j = (0xA010 + i) * 256 + (0x2 + j) := rfl
theorem refreshDoubledEvents_key (i j : Nat) : Reg.refreshDoubledEvents.key i j = (0xA010 + i) * 256 + (0x3 + j) := rfl
theorem refreshForced_key (i j : Nat) : Reg.refreshForced.key i j = (0xA010 + i) * 256 + (0x4 + j) := rfl
theorem mr4Raw_key (i j : Nat) : Reg.mr4Raw.key i j = (0xA010 + i) * 256 + (0x5 + j) := rfl
theorem raaImt_key (i j : Nat) : Reg.raaImt.key i j = (0xA010 + i) * 256 + (0x6 + j) := rfl
theorem raaMmt_key (i j : Nat) : Reg.raaMmt.key i j = (0xA010 + i) * 256 + (0x7 + j) := rfl
theorem rfmIssued_key (i j : Nat) : Reg.rfmIssued.key i j = (0xA010 + i) * 256 + (0x8 + j) := rfl
theorem actThrottled_key (i j : Nat) : Reg.actThrottled.key i j = (0xA010 + i) * 256 + (0x9 + j) := rfl
theorem channelEccCorrected_key (i j : Nat) : Reg.channelEccCorrected.key i j = (0xA010 + i) * 256 + (0xA + j) := rfl
theorem channelEccUncorrected_key (i j : Nat) : Reg.channelEccUncorrected.key i j = (0xA010 + i) * 256 + (0xB + j) := rfl
theorem retrainEvents_key (i j : Nat) : Reg.retrainEvents.key i j = (0xA010 + i) * 256 + (0xC + j) := rfl
theorem arbStarveTime_key (i j : Nat) : Reg.arbStarveTime.key i j = (0xA020 + i) * 256 + (0x1 + j) := rfl
theorem arbPolicyEnable_key (i j : Nat) : Reg.arbPolicyEnable.key i j = (0xA020 + i) * 256 + (0x2 + j) := rfl
theorem arbPolicyRestore_key (i j : Nat) : Reg.arbPolicyRestore.key i j = (0xA020 + i) * 256 + (0x3 + j) := rfl
theorem arbBackoffCap_key (i j : Nat) : Reg.arbBackoffCap.key i j = (0xA020 + i) * 256 + (0x4 + j) := rfl
theorem arbDeadCycles_key (i j : Nat) : Reg.arbDeadCycles.key i j = (0xA020 + i) * 256 + (0x5 + j) := rfl
theorem arbClass_key (i j : Nat) : Reg.arbClass.key i j = (0xA040 + i) * 256 + (0x1 + j) := rfl
theorem arbPriorityDefault_key (i j : Nat) : Reg.arbPriorityDefault.key i j = (0xA040 + i) * 256 + (0x2 + j) := rfl
theorem arbPriority_key (i j : Nat) : Reg.arbPriority.key i j = (0xA040 + i) * 256 + (0x3 + j) := rfl
theorem arbStarveCount_key (i j : Nat) : Reg.arbStarveCount.key i j = (0xA040 + i) * 256 + (0x4 + j) := rfl
theorem arbUrgentCount_key (i j : Nat) : Reg.arbUrgentCount.key i j = (0xA040 + i) * 256 + (0x5 + j) := rfl
theorem arbWaitPeak_key (i j : Nat) : Reg.arbWaitPeak.key i j = (0xA040 + i) * 256 + (0x6 + j) := rfl
theorem arbBursts_key (i j : Nat) : Reg.arbBursts.key i j = (0xA040 + i) * 256 + (0x7 + j) := rfl
theorem arbHolder_key (i j : Nat) : Reg.arbHolder.key i j = (0xA040 + i) * 256 + (0x8 + j) := rfl
theorem objectEnable_key (i j : Nat) : Reg.objectEnable.key i j = (0x4000 + i) * 256 + (0x1 + j) := rfl
theorem objectLaw_key (i j : Nat) : Reg.objectLaw.key i j = (0x4000 + i) * 256 + (0x2 + j) := rfl
theorem objectRolloff_key (i j : Nat) : Reg.objectRolloff.key i j = (0x4000 + i) * 256 + (0x3 + j) := rfl
theorem objectGain_key (i j : Nat) : Reg.objectGain.key i j = (0x4000 + i) * 256 + (0x4 + j) := rfl
theorem objectX_key (i j : Nat) : Reg.objectX.key i j = (0x4000 + i) * 256 + (0x5 + j) := rfl
theorem objectY_key (i j : Nat) : Reg.objectY.key i j = (0x4000 + i) * 256 + (0x6 + j) := rfl
theorem objectZ_key (i j : Nat) : Reg.objectZ.key i j = (0x4000 + i) * 256 + (0x7 + j) := rfl
theorem objectRefDistance_key (i j : Nat) : Reg.objectRefDistance.key i j = (0x4000 + i) * 256 + (0x8 + j) := rfl
theorem objectBulkDelay_key (i j : Nat) : Reg.objectBulkDelay.key i j = (0x4000 + i) * 256 + (0x9 + j) := rfl
theorem objectZoneMask_key (i j : Nat) : Reg.objectZoneMask.key i j = (0x4000 + i) * 256 + (0xA + j) := rfl
theorem objectSpread_key (i j : Nat) : Reg.objectSpread.key i j = (0x4000 + i) * 256 + (0xB + j) := rfl
theorem objectDirTable_key (i j : Nat) : Reg.objectDirTable.key i j = (0x4000 + i) * 256 + (0xC + j) := rfl
theorem objectAimX_key (i j : Nat) : Reg.objectAimX.key i j = (0x4000 + i) * 256 + (0xD + j) := rfl
theorem objectAimY_key (i j : Nat) : Reg.objectAimY.key i j = (0x4000 + i) * 256 + (0xE + j) := rfl
theorem objectAimZ_key (i j : Nat) : Reg.objectAimZ.key i j = (0x4000 + i) * 256 + (0xF + j) := rfl
theorem objectDelaySlew_key (i j : Nat) : Reg.objectDelaySlew.key i j = (0x4000 + i) * 256 + (0x10 + j) := rfl
theorem objectGainSlew_key (i j : Nat) : Reg.objectGainSlew.key i j = (0x4000 + i) * 256 + (0x11 + j) := rfl
theorem objectStatus_key (i j : Nat) : Reg.objectStatus.key i j = (0x4000 + i) * 256 + (0x12 + j) := rfl
theorem objectPathMin_key (i j : Nat) : Reg.objectPathMin.key i j = (0x4000 + i) * 256 + (0x13 + j) := rfl
theorem objectPathMax_key (i j : Nat) : Reg.objectPathMax.key i j = (0x4000 + i) * 256 + (0x14 + j) := rfl
theorem objectClipCount_key (i j : Nat) : Reg.objectClipCount.key i j = (0x4000 + i) * 256 + (0x15 + j) := rfl
theorem speakerEnable_key (i j : Nat) : Reg.speakerEnable.key i j = (0x5000 + i) * 256 + (0x1 + j) := rfl
theorem speakerX_key (i j : Nat) : Reg.speakerX.key i j = (0x5000 + i) * 256 + (0x2 + j) := rfl
theorem speakerY_key (i j : Nat) : Reg.speakerY.key i j = (0x5000 + i) * 256 + (0x3 + j) := rfl
theorem speakerZ_key (i j : Nat) : Reg.speakerZ.key i j = (0x5000 + i) * 256 + (0x4 + j) := rfl
theorem speakerAimX_key (i j : Nat) : Reg.speakerAimX.key i j = (0x5000 + i) * 256 + (0x5 + j) := rfl
theorem speakerAimY_key (i j : Nat) : Reg.speakerAimY.key i j = (0x5000 + i) * 256 + (0x6 + j) := rfl
theorem speakerAimZ_key (i j : Nat) : Reg.speakerAimZ.key i j = (0x5000 + i) * 256 + (0x7 + j) := rfl
theorem speakerZone_key (i j : Nat) : Reg.speakerZone.key i j = (0x5000 + i) * 256 + (0x8 + j) := rfl
theorem speakerTrim_key (i j : Nat) : Reg.speakerTrim.key i j = (0x5000 + i) * 256 + (0x9 + j) := rfl
theorem speakerLawMask_key (i j : Nat) : Reg.speakerLawMask.key i j = (0x5000 + i) * 256 + (0xA + j) := rfl
theorem speakerName_key (i j : Nat) : Reg.speakerName.key i j = (0x5000 + i) * 256 + (0xB + j) := rfl
theorem zoneGain_key (i j : Nat) : Reg.zoneGain.key i j = (0x5F00 + i) * 256 + (0x1 + j) := rfl
theorem zoneRefX_key (i j : Nat) : Reg.zoneRefX.key i j = (0x5F00 + i) * 256 + (0x2 + j) := rfl
theorem zoneRefY_key (i j : Nat) : Reg.zoneRefY.key i j = (0x5F00 + i) * 256 + (0x3 + j) := rfl
theorem zoneRefZ_key (i j : Nat) : Reg.zoneRefZ.key i j = (0x5F00 + i) * 256 + (0x4 + j) := rfl
theorem zoneName_key (i j : Nat) : Reg.zoneName.key i j = (0x5F00 + i) * 256 + (0x5 + j) := rfl
theorem soundMode_key (i j : Nat) : Reg.soundMode.key i j = (0x6100 + i) * 256 + (0x1 + j) := rfl
theorem speedOfSound_key (i j : Nat) : Reg.speedOfSound.key i j = (0x6100 + i) * 256 + (0x2 + j) := rfl
theorem airTemperature_key (i j : Nat) : Reg.airTemperature.key i j = (0x6100 + i) * 256 + (0x3 + j) := rfl
theorem speedInForce_key (i j : Nat) : Reg.speedInForce.key i j = (0x6100 + i) * 256 + (0x4 + j) := rfl
theorem soundScale_key (i j : Nat) : Reg.soundScale.key i j = (0x6100 + i) * 256 + (0x5 + j) := rfl
theorem minDistance_key (i j : Nat) : Reg.minDistance.key i j = (0x6100 + i) * 256 + (0x6 + j) := rfl
theorem gainCeil_key (i j : Nat) : Reg.gainCeil.key i j = (0x6100 + i) * 256 + (0x7 + j) := rfl
theorem windowLimit_key (i j : Nat) : Reg.windowLimit.key i j = (0x6100 + i) * 256 + (0x8 + j) := rfl
theorem geometryBudget_key (i j : Nat) : Reg.geometryBudget.key i j = (0x6100 + i) * 256 + (0x9 + j) := rfl
theorem pipeLoadLast_key (i j : Nat) : Reg.pipeLoadLast.key i j = (0x6100 + i) * 256 + (0xA + j) := rfl
theorem pipeLoadPeak_key (i j : Nat) : Reg.pipeLoadPeak.key i j = (0x6100 + i) * 256 + (0xB + j) := rfl
theorem lateObjects_key (i j : Nat) : Reg.lateObjects.key i j = (0x6100 + i) * 256 + (0xC + j) := rfl
theorem clipEvents_key (i j : Nat) : Reg.clipEvents.key i j = (0x6100 + i) * 256 + (0xD + j) := rfl
theorem refreshAll_key (i j : Nat) : Reg.refreshAll.key i j = (0x6100 + i) * 256 + (0xE + j) := rfl
theorem pipeFaults_key (i j : Nat) : Reg.pipeFaults.key i j = (0x6100 + i) * 256 + (0xF + j) := rfl
theorem dirPoint_key (i j : Nat) : Reg.dirPoint.key i j = (0x5A00 + i) * 256 + (0x1 + j) := rfl
theorem tdmRole_key (i j : Nat) : Reg.tdmRole.key i j = (0x9000 + i) * 256 + (0x1 + j) := rfl
theorem tdmFormat_key (i j : Nat) : Reg.tdmFormat.key i j = (0x9000 + i) * 256 + (0x2 + j) := rfl
theorem tdmRate_key (i j : Nat) : Reg.tdmRate.key i j = (0x9000 + i) * 256 + (0x3 + j) := rfl
theorem tdmSlots_key (i j : Nat) : Reg.tdmSlots.key i j = (0x9000 + i) * 256 + (0x4 + j) := rfl
theorem tdmSlotBits_key (i j : Nat) : Reg.tdmSlotBits.key i j = (0x9000 + i) * 256 + (0x5 + j) := rfl
theorem tdmWordBits_key (i j : Nat) : Reg.tdmWordBits.key i j = (0x9000 + i) * 256 + (0x6 + j) := rfl
theorem tdmFrameBits_key (i j : Nat) : Reg.tdmFrameBits.key i j = (0x9000 + i) * 256 + (0x7 + j) := rfl
theorem tdmFsyncWidth_key (i j : Nat) : Reg.tdmFsyncWidth.key i j = (0x9000 + i) * 256 + (0x8 + j) := rfl
theorem tdmDataDelay_key (i j : Nat) : Reg.tdmDataDelay.key i j = (0x9000 + i) * 256 + (0x9 + j) := rfl
theorem tdmBclkInvert_key (i j : Nat) : Reg.tdmBclkInvert.key i j = (0x9000 + i) * 256 + (0xA + j) := rfl
theorem tdmRxMaskPending_key (i j : Nat) : Reg.tdmRxMaskPending.key i j = (0x9000 + i) * 256 + (0xB + j) := rfl
theorem tdmRxMaskActive_key (i j : Nat) : Reg.tdmRxMaskActive.key i j = (0x9000 + i) * 256 + (0xC + j) := rfl
theorem tdmTxMaskPending_key (i j : Nat) : Reg.tdmTxMaskPending.key i j = (0x9000 + i) * 256 + (0xD + j) := rfl
theorem tdmTxMaskActive_key (i j : Nat) : Reg.tdmTxMaskActive.key i j = (0x9000 + i) * 256 + (0xE + j) := rfl
theorem tdmTxIdle_key (i j : Nat) : Reg.tdmTxIdle.key i j = (0x9000 + i) * 256 + (0xF + j) := rfl
theorem tdmInSlots_key (i j : Nat) : Reg.tdmInSlots.key i j = (0x9000 + i) * 256 + (0x10 + j) := rfl
theorem tdmOutSlots_key (i j : Nat) : Reg.tdmOutSlots.key i j = (0x9000 + i) * 256 + (0x11 + j) := rfl
theorem tdmPairDrive_key (i j : Nat) : Reg.tdmPairDrive.key i j = (0x9000 + i) * 256 + (0x12 + j) := rfl
theorem tdmState_key (i j : Nat) : Reg.tdmState.key i j = (0x9000 + i) * 256 + (0x13 + j) := rfl
theorem tdmFrameCount_key (i j : Nat) : Reg.tdmFrameCount.key i j = (0x9000 + i) * 256 + (0x14 + j) := rfl
theorem tdmFrameErrors_key (i j : Nat) : Reg.tdmFrameErrors.key i j = (0x9000 + i) * 256 + (0x15 + j) := rfl
theorem tdmFrameBitsSeen_key (i j : Nat) : Reg.tdmFrameBitsSeen.key i j = (0x9000 + i) * 256 + (0x16 + j) := rfl
theorem tdmOutState_key (i j : Nat) : Reg.tdmOutState.key i j = (0x9000 + i) * 256 + (0x17 + j) := rfl
theorem tdmOutRatio_key (i j : Nat) : Reg.tdmOutRatio.key i j = (0x9000 + i) * 256 + (0x18 + j) := rfl
theorem headsetType_key (i j : Nat) : Reg.headsetType.key i j = (0x9100 + i) * 256 + (0x1 + j) := rfl
theorem headsetButton_key (i j : Nat) : Reg.headsetButton.key i j = (0x9100 + i) * 256 + (0x2 + j) := rfl
theorem headsetMicOpen_key (i j : Nat) : Reg.headsetMicOpen.key i j = (0x9100 + i) * 256 + (0x3 + j) := rfl
theorem headsetMicSlot_key (i j : Nat) : Reg.headsetMicSlot.key i j = (0x9100 + i) * 256 + (0x4 + j) := rfl
theorem headsetSlotL_key (i j : Nat) : Reg.headsetSlotL.key i j = (0x9100 + i) * 256 + (0x5 + j) := rfl
theorem headsetSlotR_key (i j : Nat) : Reg.headsetSlotR.key i j = (0x9100 + i) * 256 + (0x6 + j) := rfl
theorem headsetHpGain_key (i j : Nat) : Reg.headsetHpGain.key i j = (0x9100 + i) * 256 + (0x7 + j) := rfl
theorem headsetMicGain_key (i j : Nat) : Reg.headsetMicGain.key i j = (0x9100 + i) * 256 + (0x8 + j) := rfl
theorem headsetButtonMode_key (i j : Nat) : Reg.headsetButtonMode.key i j = (0x9100 + i) * 256 + (0x9 + j) := rfl
theorem sideToneGain_key (i j : Nat) : Reg.sideToneGain.key i j = (0x9100 + i) * 256 + (0xA + j) := rfl
theorem headsetClips_key (i j : Nat) : Reg.headsetClips.key i j = (0x9100 + i) * 256 + (0xB + j) := rfl
theorem recorderEnable_key (i j : Nat) : Reg.recorderEnable.key i j = (0x9200 + i) * 256 + (0x1 + j) := rfl
theorem recorderState_key (i j : Nat) : Reg.recorderState.key i j = (0x9200 + i) * 256 + (0x2 + j) := rfl
theorem recorderPostTrigger_key (i j : Nat) : Reg.recorderPostTrigger.key i j = (0x9200 + i) * 256 + (0x3 + j) := rfl
theorem recorderTriggerMask_key (i j : Nat) : Reg.recorderTriggerMask.key i j = (0x9200 + i) * 256 + (0x4 + j) := rfl
theorem recorderCmd_key (i j : Nat) : Reg.recorderCmd.key i j = (0x9200 + i) * 256 + (0x5 + j) := rfl
theorem recorderTriggerDate_key (i j : Nat) : Reg.recorderTriggerDate.key i j = (0x9200 + i) * 256 + (0x6 + j) := rfl
theorem recorderTriggerCause_key (i j : Nat) : Reg.recorderTriggerCause.key i j = (0x9200 + i) * 256 + (0x7 + j) := rfl
theorem recorderOldest_key (i j : Nat) : Reg.recorderOldest.key i j = (0x9200 + i) * 256 + (0x8 + j) := rfl
theorem recorderNewest_key (i j : Nat) : Reg.recorderNewest.key i j = (0x9200 + i) * 256 + (0x9 + j) := rfl
theorem recorderReadSelect_key (i j : Nat) : Reg.recorderReadSelect.key i j = (0x9200 + i) * 256 + (0xA + j) := rfl
theorem recorderRead_key (i j : Nat) : Reg.recorderRead.key i j = (0x9200 + i) * 256 + (0xB + j) := rfl
theorem recorderFrozenSources_key (i j : Nat) : Reg.recorderFrozenSources.key i j = (0x9200 + i) * 256 + (0xC + j) := rfl
theorem recorderGapFrames_key (i j : Nat) : Reg.recorderGapFrames.key i j = (0x9200 + i) * 256 + (0xD + j) := rfl
theorem recorderTriggersMissed_key (i j : Nat) : Reg.recorderTriggersMissed.key i j = (0x9200 + i) * 256 + (0xE + j) := rfl
theorem recorderSamples_key (i j : Nat) : Reg.recorderSamples.key i j = (0x9200 + i) * 256 + (0xF + j) := rfl
theorem recChannel_key (i j : Nat) : Reg.recChannel.key i j = (0x9210 + i) * 256 + (0x1 + j) := rfl
theorem programmeImage_key (i j : Nat) : Reg.programmeImage.key i j = (0x6800 + i) * 256 + (0x1 + j) := rfl
theorem programmeCrc_key (i j : Nat) : Reg.programmeCrc.key i j = (0x6800 + i) * 256 + (0x2 + j) := rfl
theorem programmeId_key (i j : Nat) : Reg.programmeId.key i j = (0x6800 + i) * 256 + (0x3 + j) := rfl
theorem swapStatus_key (i j : Nat) : Reg.swapStatus.key i j = (0x6800 + i) * 256 + (0x4 + j) := rfl
theorem swapDate_key (i j : Nat) : Reg.swapDate.key i j = (0x6800 + i) * 256 + (0x5 + j) := rfl
theorem mixVerifyResult_key (i j : Nat) : Reg.mixVerifyResult.key i j = (0x6800 + i) * 256 + (0x6 + j) := rfl
theorem routeCrossfade_key (i j : Nat) : Reg.routeCrossfade.key i j = (0x6800 + i) * 256 + (0x7 + j) := rfl
theorem directFeedDelay_key (i j : Nat) : Reg.directFeedDelay.key i j = (0x6800 + i) * 256 + (0x8 + j) := rfl
theorem sectionBudgetA_key (i j : Nat) : Reg.sectionBudgetA.key i j = (0x6800 + i) * 256 + (0x9 + j) := rfl
theorem sectionBudgetB_key (i j : Nat) : Reg.sectionBudgetB.key i j = (0x6800 + i) * 256 + (0xA + j) := rfl
theorem mixSaturations_key (i j : Nat) : Reg.mixSaturations.key i j = (0x6800 + i) * 256 + (0xB + j) := rfl
theorem mixStoreRejects_key (i j : Nat) : Reg.mixStoreRejects.key i j = (0x6800 + i) * 256 + (0xC + j) := rfl
theorem mixAddressFaults_key (i j : Nat) : Reg.mixAddressFaults.key i j = (0x6800 + i) * 256 + (0xD + j) := rfl
theorem routePatch_key (i j : Nat) : Reg.routePatch.key i j = (0x6800 + i) * 256 + (0xE + j) := rfl
theorem routeInterrupted_key (i j : Nat) : Reg.routeInterrupted.key i j = (0x6800 + i) * 256 + (0xF + j) := rfl
theorem crossfadeRom_key (i j : Nat) : Reg.crossfadeRom.key i j = (0x6800 + i) * 256 + (0x10 + j) := rfl
theorem coreCyclesA_key (i j : Nat) : Reg.coreCyclesA.key i j = (0x6810 + i) * 256 + (0x1 + j) := rfl
theorem coreCyclesB_key (i j : Nat) : Reg.coreCyclesB.key i j = (0x6810 + i) * 256 + (0x2 + j) := rfl
theorem coreCodeLength_key (i j : Nat) : Reg.coreCodeLength.key i j = (0x6810 + i) * 256 + (0x3 + j) := rfl
theorem coreDataLength_key (i j : Nat) : Reg.coreDataLength.key i j = (0x6810 + i) * 256 + (0x4 + j) := rfl
theorem coreResidueErrors_key (i j : Nat) : Reg.coreResidueErrors.key i j = (0x6810 + i) * 256 + (0x5 + j) := rfl
theorem coreEccCorrected_key (i j : Nat) : Reg.coreEccCorrected.key i j = (0x6810 + i) * 256 + (0x6 + j) := rfl
theorem coreEccUncorrected_key (i j : Nat) : Reg.coreEccUncorrected.key i j = (0x6810 + i) * 256 + (0x7 + j) := rfl
theorem coreZeroedTicks_key (i j : Nat) : Reg.coreZeroedTicks.key i j = (0x6810 + i) * 256 + (0x8 + j) := rfl
theorem routeCell_key (i j : Nat) : Reg.routeCell.key i j = (0x6900 + i) * 256 + (0x0 + j) := rfl
theorem carrierIdent_key (i j : Nat) : Reg.carrierIdent.key i j = (0x2140 + i) * 256 + (0x1 + j) := rfl
theorem carrierTemp_key (i j : Nat) : Reg.carrierTemp.key i j = (0x2140 + i) * 256 + (0x2 + j) := rfl
theorem i2cRecoveries_key (i j : Nat) : Reg.i2cRecoveries.key i j = (0x2140 + i) * 256 + (0x3 + j) := rfl
theorem portEnable_key (i j : Nat) : Reg.portEnable.key i j = (0x3000 + i) * 256 + (0x1 + j) := rfl
theorem portKind_key (i j : Nat) : Reg.portKind.key i j = (0x3000 + i) * 256 + (0x2 + j) := rfl
theorem macAddress_key (i j : Nat) : Reg.macAddress.key i j = (0x3000 + i) * 256 + (0x3 + j) := rfl
theorem speedMode_key (i j : Nat) : Reg.speedMode.key i j = (0x3000 + i) * 256 + (0x4 + j) := rfl
theorem fecMode_key (i j : Nat) : Reg.fecMode.key i j = (0x3000 + i) * 256 + (0x5 + j) := rfl
theorem maxFrame_key (i j : Nat) : Reg.maxFrame.key i j = (0x3000 + i) * 256 + (0x6 + j) := rfl
theorem linkState_key (i j : Nat) : Reg.linkState.key i j = (0x3000 + i) * 256 + (0x7 + j) := rfl
theorem linkSpeed_key (i j : Nat) : Reg.linkSpeed.key i j = (0x3000 + i) * 256 + (0x8 + j) := rfl
theorem fecInUse_key (i j : Nat) : Reg.fecInUse.key i j = (0x3000 + i) * 256 + (0x9 + j) := rfl
theorem sfpState_key (i j : Nat) : Reg.sfpState.key i j = (0x3000 + i) * 256 + (0xA + j) := rfl
theorem sfpIdent_key (i j : Nat) : Reg.sfpIdent.key i j = (0x3000 + i) * 256 + (0xB + j) := rfl
theorem sfpNominalRate_key (i j : Nat) : Reg.sfpNominalRate.key i j = (0x3000 + i) * 256 + (0xC + j) := rfl
theorem sfpTemperature_key (i j : Nat) : Reg.sfpTemperature.key i j = (0x3000 + i) * 256 + (0xD + j) := rfl
theorem sfpRxPower_key (i j : Nat) : Reg.sfpRxPower.key i j = (0x3000 + i) * 256 + (0xE + j) := rfl
theorem linkUpDate_key (i j : Nat) : Reg.linkUpDate.key i j = (0x3000 + i) * 256 + (0xF + j) := rfl
theorem counterClear_key (i j : Nat) : Reg.counterClear.key i j = (0x3000 + i) * 256 + (0x10 + j) := rfl
theorem portCounter_key (i j : Nat) : Reg.portCounter.key i j = (0x3100 + i) * 256 + (0x1 + j) := rfl
theorem classRule_key (i j : Nat) : Reg.classRule.key i j = (0x3200 + i) * 256 + (0x1 + j) := rfl
theorem classHits_key (i j : Nat) : Reg.classHits.key i j = (0x3200 + i) * 256 + (0x2 + j) := rfl
theorem macsecMode_key (i j : Nat) : Reg.macsecMode.key i j = (0x3010 + i) * 256 + (0x1 + j) := rfl
theorem macsecCkn_key (i j : Nat) : Reg.macsecCkn.key i j = (0x3010 + i) * 256 + (0x2 + j) := rfl
theorem macsecCak_key (i j : Nat) : Reg.macsecCak.key i j = (0x3010 + i) * 256 + (0x3 + j) := rfl
theorem macsecReplayWindow_key (i j : Nat) : Reg.macsecReplayWindow.key i j = (0x3010 + i) * 256 + (0x4 + j) := rfl
theorem macsecState_key (i j : Nat) : Reg.macsecState.key i j = (0x3010 + i) * 256 + (0x5 + j) := rfl
theorem macsecTxAn_key (i j : Nat) : Reg.macsecTxAn.key i j = (0x3010 + i) * 256 + (0x6 + j) := rfl
theorem macsecTxPn_key (i j : Nat) : Reg.macsecTxPn.key i j = (0x3010 + i) * 256 + (0x7 + j) := rfl
theorem macsecPeerSci_key (i j : Nat) : Reg.macsecPeerSci.key i j = (0x3010 + i) * 256 + (0x8 + j) := rfl
theorem mgmtInterface_key (i j : Nat) : Reg.mgmtInterface.key i j = (0x3018 + i) * 256 + (0x1 + j) := rfl
theorem mgmtPhyAddress_key (i j : Nat) : Reg.mgmtPhyAddress.key i j = (0x3018 + i) * 256 + (0x2 + j) := rfl
theorem mdioAccess_key (i j : Nat) : Reg.mdioAccess.key i j = (0x3018 + i) * 256 + (0x3 + j) := rfl
theorem mgmtAcceptBroadcast_key (i j : Nat) : Reg.mgmtAcceptBroadcast.key i j = (0x3018 + i) * 256 + (0x4 + j) := rfl
theorem mgmtPromiscuous_key (i j : Nat) : Reg.mgmtPromiscuous.key i j = (0x3018 + i) * 256 + (0x5 + j) := rfl
theorem mgmtPauseMode_key (i j : Nat) : Reg.mgmtPauseMode.key i j = (0x3018 + i) * 256 + (0x6 + j) := rfl
theorem pauseSendLimit_key (i j : Nat) : Reg.pauseSendLimit.key i j = (0x3018 + i) * 256 + (0x7 + j) := rfl
theorem pauseHonourLimit_key (i j : Nat) : Reg.pauseHonourLimit.key i j = (0x3018 + i) * 256 + (0x8 + j) := rfl
theorem mgmtEeeEnable_key (i j : Nat) : Reg.mgmtEeeEnable.key i j = (0x3018 + i) * 256 + (0x9 + j) := rfl
theorem mgmtEeeIdle_key (i j : Nat) : Reg.mgmtEeeIdle.key i j = (0x3018 + i) * 256 + (0xA + j) := rfl
theorem mgmtEeeTwOwn_key (i j : Nat) : Reg.mgmtEeeTwOwn.key i j = (0x3018 + i) * 256 + (0xB + j) := rfl
theorem mgmtEeeTwAgreed_key (i j : Nat) : Reg.mgmtEeeTwAgreed.key i j = (0x3018 + i) * 256 + (0xC + j) := rfl
theorem mgmtFilterAddr_key (i j : Nat) : Reg.mgmtFilterAddr.key i j = (0x3018 + i) * 256 + (0x10 + j) := rfl
theorem rxRingLength_key (i j : Nat) : Reg.rxRingLength.key i j = (0x3020 + i) * 256 + (0x1 + j) := rfl
theorem rxRingBufferSize_key (i j : Nat) : Reg.rxRingBufferSize.key i j = (0x3020 + i) * 256 + (0x2 + j) := rfl
theorem rxRingFree_key (i j : Nat) : Reg.rxRingFree.key i j = (0x3020 + i) * 256 + (0x3 + j) := rfl
theorem rxRingFrames_key (i j : Nat) : Reg.rxRingFrames.key i j = (0x3020 + i) * 256 + (0x4 + j) := rfl
theorem rxRingExhausted_key (i j : Nat) : Reg.rxRingExhausted.key i j = (0x3020 + i) * 256 + (0x5 + j) := rfl
theorem rxRingAborts_key (i j : Nat) : Reg.rxRingAborts.key i j = (0x3020 + i) * 256 + (0x6 + j) := rfl
theorem txRingLength_key (i j : Nat) : Reg.txRingLength.key i j = (0x3030 + i) * 256 + (0x1 + j) := rfl
theorem txRingPending_key (i j : Nat) : Reg.txRingPending.key i j = (0x3030 + i) * 256 + (0x2 + j) := rfl
theorem txRingFrames_key (i j : Nat) : Reg.txRingFrames.key i j = (0x3030 + i) * 256 + (0x3 + j) := rfl
theorem txRingErrors_key (i j : Nat) : Reg.txRingErrors.key i j = (0x3030 + i) * 256 + (0x4 + j) := rfl
theorem captureSelect_key (i j : Nat) : Reg.captureSelect.key i j = (0x3040 + i) * 256 + (0x1 + j) := rfl
theorem captureRead_key (i j : Nat) : Reg.captureRead.key i j = (0x3040 + i) * 256 + (0x2 + j) := rfl
theorem captureDropped_key (i j : Nat) : Reg.captureDropped.key i j = (0x3040 + i) * 256 + (0x3 + j) := rfl
theorem powerState_key (i j : Nat) : Reg.powerState.key i j = (0x2000 + i) * 256 + (0x1 + j) := rfl
theorem showRequest_key (i j : Nat) : Reg.showRequest.key i j = (0x2000 + i) * 256 + (0x2 + j) := rfl
theorem powerStateCmd_key (i j : Nat) : Reg.powerStateCmd.key i j = (0x2000 + i) * 256 + (0x3 + j) := rfl
theorem resetCmd_key (i j : Nat) : Reg.resetCmd.key i j = (0x2000 + i) * 256 + (0x4 + j) := rfl
theorem resetCause_key (i j : Nat) : Reg.resetCause.key i j = (0x2000 + i) * 256 + (0x5 + j) := rfl
theorem resetCount_key (i j : Nat) : Reg.resetCount.key i j = (0x2000 + i) * 256 + (0x6 + j) := rfl
theorem lastResetSeconds_key (i j : Nat) : Reg.lastResetSeconds.key i j = (0x2000 + i) * 256 + (0x7 + j) := rfl
theorem bootTime_key (i j : Nat) : Reg.bootTime.key i j = (0x2000 + i) * 256 + (0x8 + j) := rfl
theorem startupTime_key (i j : Nat) : Reg.startupTime.key i j = (0x2000 + i) * 256 + (0x9 + j) := rfl
theorem faultCause_key (i j : Nat) : Reg.faultCause.key i j = (0x2000 + i) * 256 + (0xA + j) := rfl
theorem faultAutoReset_key (i j : Nat) : Reg.faultAutoReset.key i j = (0x2000 + i) * 256 + (0xB + j) := rfl
theorem faultRestartDelay_key (i j : Nat) : Reg.faultRestartDelay.key i j = (0x2000 + i) * 256 + (0xC + j) := rfl
theorem faultRestartLimit_key (i j : Nat) : Reg.faultRestartLimit.key i j = (0x2000 + i) * 256 + (0xD + j) := rfl
theorem faultRestarts_key (i j : Nat) : Reg.faultRestarts.key i j = (0x2000 + i) * 256 + (0xE + j) := rfl
theorem quietHold_key (i j : Nat) : Reg.quietHold.key i j = (0x2000 + i) * 256 + (0xF + j) := rfl
theorem strapBootSel_key (i j : Nat) : Reg.strapBootSel.key i j = (0x2000 + i) * 256 + (0x10 + j) := rfl
theorem wakeLevel_key (i j : Nat) : Reg.wakeLevel.key i j = (0x2000 + i) * 256 + (0x11 + j) := rfl
theorem offseasonEntries_key (i j : Nat) : Reg.offseasonEntries.key i j = (0x2000 + i) * 256 + (0x12 + j) := rfl
theorem vinTrips_key (i j : Nat) : Reg.vinTrips.key i j = (0x2000 + i) * 256 + (0x13 + j) := rfl
theorem railTrips_key (i j : Nat) : Reg.railTrips.key i j = (0x2000 + i) * 256 + (0x14 + j) := rfl
theorem pairState_key (i j : Nat) : Reg.pairState.key i j = (0x8000 + i) * 256 + (0x1 + j) := rfl
theorem pairPresent_key (i j : Nat) : Reg.pairPresent.key i j = (0x8000 + i) * 256 + (0x2 + j) := rfl
theorem rolePref_key (i j : Nat) : Reg.rolePref.key i j = (0x8000 + i) * 256 + (0x3 + j) := rfl
theorem partnerSerial_key (i j : Nat) : Reg.partnerSerial.key i j = (0x8000 + i) * 256 + (0x4 + j) := rfl
theorem partnerHealth_key (i j : Nat) : Reg.partnerHealth.key i j = (0x8000 + i) * 256 + (0x5 + j) := rfl
theorem handoverCmd_key (i j : Nat) : Reg.handoverCmd.key i j = (0x8000 + i) * 256 + (0x6 + j) := rfl
theorem pairFormTimeout_key (i j : Nat) : Reg.pairFormTimeout.key i j = (0x8000 + i) * 256 + (0x7 + j) := rfl
theorem inputHandoverHoldoff_key (i j : Nat) : Reg.inputHandoverHoldoff.key i j = (0x8000 + i) * 256 + (0x8 + j) := rfl
theorem catchupLimit_key (i j : Nat) : Reg.catchupLimit.key i j = (0x8000 + i) * 256 + (0x9 + j) := rfl
theorem catchupStage_key (i j : Nat) : Reg.catchupStage.key i j = (0x8000 + i) * 256 + (0xA + j) := rfl
theorem historyHorizon_key (i j : Nat) : Reg.historyHorizon.key i j = (0x8000 + i) * 256 + (0xB + j) := rfl
theorem mirrorStale_key (i j : Nat) : Reg.mirrorStale.key i j = (0x8000 + i) * 256 + (0xC + j) := rfl
theorem pairDigest_key (i j : Nat) : Reg.pairDigest.key i j = (0x8000 + i) * 256 + (0xD + j) := rfl
theorem leadSince_key (i j : Nat) : Reg.leadSince.key i j = (0x8000 + i) * 256 + (0xE + j) := rfl
theorem takeovers_key (i j : Nat) : Reg.takeovers.key i j = (0x8000 + i) * 256 + (0xF + j) := rfl
theorem handovers_key (i j : Nat) : Reg.handovers.key i j = (0x8000 + i) * 256 + (0x10 + j) := rfl
theorem tracingMismatches_key (i j : Nat) : Reg.tracingMismatches.key i j = (0x8010 + i) * 256 + (0x1 + j) := rfl
theorem tracingGaps_key (i j : Nat) : Reg.tracingGaps.key i j = (0x8010 + i) * 256 + (0x2 + j) := rfl
theorem agreeRun_key (i j : Nat) : Reg.agreeRun.key i j = (0x8010 + i) * 256 + (0x3 + j) := rfl
theorem lastMismatchBlock_key (i j : Nat) : Reg.lastMismatchBlock.key i j = (0x8010 + i) * 256 + (0x4 + j) := rfl
theorem auditState_key (i j : Nat) : Reg.auditState.key i j = (0x8020 + i) * 256 + (0x1 + j) := rfl
theorem auditLast_key (i j : Nat) : Reg.auditLast.key i j = (0x8020 + i) * 256 + (0x2 + j) := rfl
theorem auditCount_key (i j : Nat) : Reg.auditCount.key i j = (0x8020 + i) * 256 + (0x3 + j) := rfl
theorem auditUnattributed_key (i j : Nat) : Reg.auditUnattributed.key i j = (0x8020 + i) * 256 + (0x4 + j) := rfl
theorem patrolErrors_key (i j : Nat) : Reg.patrolErrors.key i j = (0x8020 + i) * 256 + (0x5 + j) := rfl
theorem ilkOut_key (i j : Nat) : Reg.ilkOut.key i j = (0x8030 + i) * 256 + (0x1 + j) := rfl
theorem ilkIn_key (i j : Nat) : Reg.ilkIn.key i j = (0x8030 + i) * 256 + (0x2 + j) := rfl
theorem ilkGate_key (i j : Nat) : Reg.ilkGate.key i j = (0x8030 + i) * 256 + (0x3 + j) := rfl
theorem ilkCollisions_key (i j : Nat) : Reg.ilkCollisions.key i j = (0x8030 + i) * 256 + (0x4 + j) := rfl
theorem ilkInconsistent_key (i j : Nat) : Reg.ilkInconsistent.key i j = (0x8030 + i) * 256 + (0x5 + j) := rfl
theorem xpPatch_key (i j : Nat) : Reg.xpPatch.key i j = (0x6200 + i) * 256 + (0x1 + j) := rfl
theorem xpReadSelect_key (i j : Nat) : Reg.xpReadSelect.key i j = (0x6200 + i) * 256 + (0x2 + j) := rfl
theorem xpRead_key (i j : Nat) : Reg.xpRead.key i j = (0x6200 + i) * 256 + (0x3 + j) := rfl
theorem xpPatchesIgnored_key (i j : Nat) : Reg.xpPatchesIgnored.key i j = (0x6200 + i) * 256 + (0x4 + j) := rfl
theorem xpPatchSteps_key (i j : Nat) : Reg.xpPatchSteps.key i j = (0x6200 + i) * 256 + (0x5 + j) := rfl
theorem windowSamples_key (i j : Nat) : Reg.windowSamples.key i j = (0x6000 + i) * 256 + (0xC + j) := rfl
theorem slotsPerRink_key (i j : Nat) : Reg.slotsPerRink.key i j = (0x6000 + i) * 256 + (0xD + j) := rfl
theorem bulkRingSamples_key (i j : Nat) : Reg.bulkRingSamples.key i j = (0x6000 + i) * 256 + (0xE + j) := rfl
theorem renderLoadLast_key (i j : Nat) : Reg.renderLoadLast.key i j = (0x6000 + i) * 256 + (0xF + j) := rfl
theorem renderLoadPeak_key (i j : Nat) : Reg.renderLoadPeak.key i j = (0x6000 + i) * 256 + (0x10 + j) := rfl
theorem outputSaturations_key (i j : Nat) : Reg.outputSaturations.key i j = (0x6000 + i) * 256 + (0x11 + j) := rfl
theorem zeroedBlocks_key (i j : Nat) : Reg.zeroedBlocks.key i j = (0x6000 + i) * 256 + (0x12 + j) := rfl
theorem bulkUnderruns_key (i j : Nat) : Reg.bulkUnderruns.key i j = (0x6000 + i) * 256 + (0x13 + j) := rfl
theorem interpRom_key (i j : Nat) : Reg.interpRom.key i j = (0x6000 + i) * 256 + (0x14 + j) := rfl
theorem loadPeakClear_key (i j : Nat) : Reg.loadPeakClear.key i j = (0x6000 + i) * 256 + (0x15 + j) := rfl
theorem rinkPartition_key (i j : Nat) : Reg.rinkPartition.key i j = (0x6300 + i) * 256 + (0x1 + j) := rfl
theorem rinkObjects_key (i j : Nat) : Reg.rinkObjects.key i j = (0x6300 + i) * 256 + (0x2 + j) := rfl
theorem rinkActiveLast_key (i j : Nat) : Reg.rinkActiveLast.key i j = (0x6300 + i) * 256 + (0x3 + j) := rfl
theorem rinkCyclesLast_key (i j : Nat) : Reg.rinkCyclesLast.key i j = (0x6300 + i) * 256 + (0x4 + j) := rfl
theorem rinkCyclesPeak_key (i j : Nat) : Reg.rinkCyclesPeak.key i j = (0x6300 + i) * 256 + (0x5 + j) := rfl
theorem rinkResidueErrors_key (i j : Nat) : Reg.rinkResidueErrors.key i j = (0x6300 + i) * 256 + (0x6 + j) := rfl
theorem rinkEccCorrected_key (i j : Nat) : Reg.rinkEccCorrected.key i j = (0x6300 + i) * 256 + (0x7 + j) := rfl
theorem rinkEccUncorrected_key (i j : Nat) : Reg.rinkEccUncorrected.key i j = (0x6300 + i) * 256 + (0x8 + j) := rfl
theorem rinkZeroedBlocks_key (i j : Nat) : Reg.rinkZeroedBlocks.key i j = (0x6300 + i) * 256 + (0x9 + j) := rfl
theorem rinkWindowWaits_key (i j : Nat) : Reg.rinkWindowWaits.key i j = (0x6300 + i) * 256 + (0xA + j) := rfl
theorem rinkBulkUnderruns_key (i j : Nat) : Reg.rinkBulkUnderruns.key i j = (0x6300 + i) * 256 + (0xB + j) := rfl
theorem seasonLifeUsed_key (i j : Nat) : Reg.seasonLifeUsed.key i j = (0xA800 + i) * 256 + (0x1 + j) := rfl
theorem seasonEquivalent_key (i j : Nat) : Reg.seasonEquivalent.key i j = (0xA800 + i) * 256 + (0x2 + j) := rfl
theorem seasonPoweredTime_key (i j : Nat) : Reg.seasonPoweredTime.key i j = (0xA800 + i) * 256 + (0x3 + j) := rfl
theorem seasonRatedLife_key (i j : Nat) : Reg.seasonRatedLife.key i j = (0xA800 + i) * 256 + (0x4 + j) := rfl
theorem seasonRemainingDays_key (i j : Nat) : Reg.seasonRemainingDays.key i j = (0xA800 + i) * 256 + (0x5 + j) := rfl
theorem seasonPeriod_key (i j : Nat) : Reg.seasonPeriod.key i j = (0xA800 + i) * 256 + (0x6 + j) := rfl
theorem vcoreBase_key (i j : Nat) : Reg.vcoreBase.key i j = (0xA800 + i) * 256 + (0x7 + j) := rfl
theorem vcorePlanSteps_key (i j : Nat) : Reg.vcorePlanSteps.key i j = (0xA800 + i) * 256 + (0x8 + j) := rfl
theorem vcoreTarget_key (i j : Nat) : Reg.vcoreTarget.key i j = (0xA800 + i) * 256 + (0x9 + j) := rfl
theorem vcorePending_key (i j : Nat) : Reg.vcorePending.key i j = (0xA800 + i) * 256 + (0xA + j) := rfl
theorem sliceRequest_key (i j : Nat) : Reg.sliceRequest.key i j = (0xA800 + i) * 256 + (0xB + j) := rfl
theorem seasonCmd_key (i j : Nat) : Reg.seasonCmd.key i j = (0xA800 + i) * 256 + (0xC + j) := rfl
theorem seasonHistory_key (i j : Nat) : Reg.seasonHistory.key i j = (0xA800 + i) * 256 + (0xD + j) := rfl
theorem canaryShift_key (i j : Nat) : Reg.canaryShift.key i j = (0xA810 + i) * 256 + (0x1 + j) := rfl
theorem canaryShiftMax_key (i j : Nat) : Reg.canaryShiftMax.key i j = (0xA810 + i) * 256 + (0x2 + j) := rfl
theorem refreshFloor_key (i j : Nat) : Reg.refreshFloor.key i j = (0xA860 + i) * 256 + (0x1 + j) := rfl
theorem eqEyeWidth_key (i j : Nat) : Reg.eqEyeWidth.key i j = (0xA870 + i) * 256 + (0x1 + j) := rfl
theorem eqEyeHeight_key (i j : Nat) : Reg.eqEyeHeight.key i j = (0xA870 + i) * 256 + (0x2 + j) := rfl
theorem eqEyeWidthMin_key (i j : Nat) : Reg.eqEyeWidthMin.key i j = (0xA870 + i) * 256 + (0x3 + j) := rfl
theorem eqStartValid_key (i j : Nat) : Reg.eqStartValid.key i j = (0xA870 + i) * 256 + (0x4 + j) := rfl
theorem selfTestCmd_key (i j : Nat) : Reg.selfTestCmd.key i j = (0xB000 + i) * 256 + (0x1 + j) := rfl
theorem selfTestState_key (i j : Nat) : Reg.selfTestState.key i j = (0xB000 + i) * 256 + (0x2 + j) := rfl
theorem selfTestResult_key (i j : Nat) : Reg.selfTestResult.key i j = (0xB000 + i) * 256 + (0x3 + j) := rfl
theorem checkerTestPeriod_key (i j : Nat) : Reg.checkerTestPeriod.key i j = (0xB000 + i) * 256 + (0x4 + j) := rfl
theorem checkerTests_key (i j : Nat) : Reg.checkerTests.key i j = (0xB000 + i) * 256 + (0x5 + j) := rfl
theorem checkerFailures_key (i j : Nat) : Reg.checkerFailures.key i j = (0xB000 + i) * 256 + (0x6 + j) := rfl
theorem perturbCmd_key (i j : Nat) : Reg.perturbCmd.key i j = (0xB100 + i) * 256 + (0x1 + j) := rfl
theorem perturbTimeout_key (i j : Nat) : Reg.perturbTimeout.key i j = (0xB100 + i) * 256 + (0x2 + j) := rfl
theorem perturbArmed_key (i j : Nat) : Reg.perturbArmed.key i j = (0xB100 + i) * 256 + (0x3 + j) := rfl
theorem perturbApplied_key (i j : Nat) : Reg.perturbApplied.key i j = (0xB100 + i) * 256 + (0x4 + j) := rfl
theorem perturbSlot_key (i j : Nat) : Reg.perturbSlot.key i j = (0xB110 + i) * 256 + (0x1 + j) := rfl
theorem perturbSlotState_key (i j : Nat) : Reg.perturbSlotState.key i j = (0xB110 + i) * 256 + (0x2 + j) := rfl
theorem certifiedMode_key (i j : Nat) : Reg.certifiedMode.key i j = (0x2300 + i) * 256 + (0x1 + j) := rfl
theorem certifiedState_key (i j : Nat) : Reg.certifiedState.key i j = (0x2300 + i) * 256 + (0x2 + j) := rfl
theorem certifiedGaps_key (i j : Nat) : Reg.certifiedGaps.key i j = (0x2300 + i) * 256 + (0x3 + j) := rfl
theorem deviceKey_key (i j : Nat) : Reg.deviceKey.key i j = (0x2300 + i) * 256 + (0x4 + j) := rfl
theorem deviceCertificate_key (i j : Nat) : Reg.deviceCertificate.key i j = (0x2300 + i) * 256 + (0x5 + j) := rfl
theorem commissioningOpen_key (i j : Nat) : Reg.commissioningOpen.key i j = (0x2300 + i) * 256 + (0x6 + j) := rfl
theorem revokedCerts_key (i j : Nat) : Reg.revokedCerts.key i j = (0x2300 + i) * 256 + (0x7 + j) := rfl
theorem authFailures_key (i j : Nat) : Reg.authFailures.key i j = (0x2300 + i) * 256 + (0x8 + j) := rfl
theorem keyErase_key (i j : Nat) : Reg.keyErase.key i j = (0x2300 + i) * 256 + (0x9 + j) := rfl
theorem jtagState_key (i j : Nat) : Reg.jtagState.key i j = (0x2300 + i) * 256 + (0xA + j) := rfl
theorem jtagUnlock_key (i j : Nat) : Reg.jtagUnlock.key i j = (0x2300 + i) * 256 + (0xB + j) := rfl
theorem trustAnchor_key (i j : Nat) : Reg.trustAnchor.key i j = (0x2310 + i) * 256 + (0x1 + j) := rfl
theorem trustAnchorRole_key (i j : Nat) : Reg.trustAnchorRole.key i j = (0x2310 + i) * 256 + (0x2 + j) := rfl
theorem vendorAnchor_key (i j : Nat) : Reg.vendorAnchor.key i j = (0x2314 + i) * 256 + (0x1 + j) := rfl
theorem updateImage_key (i j : Nat) : Reg.updateImage.key i j = (0x2400 + i) * 256 + (0x1 + j) := rfl
theorem updateCmd_key (i j : Nat) : Reg.updateCmd.key i j = (0x2400 + i) * 256 + (0x2 + j) := rfl
theorem updateVerifyResult_key (i j : Nat) : Reg.updateVerifyResult.key i j = (0x2400 + i) * 256 + (0x3 + j) := rfl
theorem rollbackCounter_key (i j : Nat) : Reg.rollbackCounter.key i j = (0x2400 + i) * 256 + (0x4 + j) := rfl
theorem runningSlot_key (i j : Nat) : Reg.runningSlot.key i j = (0x2400 + i) * 256 + (0x5 + j) := rfl
theorem confirmDelay_key (i j : Nat) : Reg.confirmDelay.key i j = (0x2400 + i) * 256 + (0x6 + j) := rfl
theorem firmwareKeyRevoked_key (i j : Nat) : Reg.firmwareKeyRevoked.key i j = (0x2400 + i) * 256 + (0x7 + j) := rfl
theorem slotState_key (i j : Nat) : Reg.slotState.key i j = (0x2410 + i) * 256 + (0x1 + j) := rfl
theorem slotVersion_key (i j : Nat) : Reg.slotVersion.key i j = (0x2410 + i) * 256 + (0x2 + j) := rfl
theorem slotSecurityVersion_key (i j : Nat) : Reg.slotSecurityVersion.key i j = (0x2410 + i) * 256 + (0x3 + j) := rfl
theorem slotDigest_key (i j : Nat) : Reg.slotDigest.key i j = (0x2410 + i) * 256 + (0x4 + j) := rfl
theorem slotBoots_key (i j : Nat) : Reg.slotBoots.key i j = (0x2410 + i) * 256 + (0x5 + j) := rfl
theorem sramBanks_key (i j : Nat) : Reg.sramBanks.key i j = (0xA100 + i) * 256 + (0x1 + j) := rfl
theorem sramBankSize_key (i j : Nat) : Reg.sramBankSize.key i j = (0xA100 + i) * 256 + (0x2 + j) := rfl
theorem sramEccCorrected_key (i j : Nat) : Reg.sramEccCorrected.key i j = (0xA100 + i) * 256 + (0x3 + j) := rfl
theorem sramEccUncorrected_key (i j : Nat) : Reg.sramEccUncorrected.key i j = (0xA100 + i) * 256 + (0x4 + j) := rfl
theorem sramScrubPeriod_key (i j : Nat) : Reg.sramScrubPeriod.key i j = (0xA100 + i) * 256 + (0x5 + j) := rfl
theorem sramScrubPasses_key (i j : Nat) : Reg.sramScrubPasses.key i j = (0xA100 + i) * 256 + (0x6 + j) := rfl
theorem sramScrubLate_key (i j : Nat) : Reg.sramScrubLate.key i j = (0xA100 + i) * 256 + (0x7 + j) := rfl
theorem banksOn_key (i j : Nat) : Reg.banksOn.key i j = (0xA100 + i) * 256 + (0x8 + j) := rfl
theorem banksRetention_key (i j : Nat) : Reg.banksRetention.key i j = (0xA100 + i) * 256 + (0x9 + j) := rfl
theorem banksOff_key (i j : Nat) : Reg.banksOff.key i j = (0xA100 + i) * 256 + (0xA + j) := rfl
theorem sramBankMap_key (i j : Nat) : Reg.sramBankMap.key i j = (0xA100 + i) * 256 + (0xB + j) := rfl
theorem sramRepairMap_key (i j : Nat) : Reg.sramRepairMap.key i j = (0xA100 + i) * 256 + (0xC + j) := rfl
theorem marchCmd_key (i j : Nat) : Reg.marchCmd.key i j = (0xA100 + i) * 256 + (0xD + j) := rfl
theorem marchState_key (i j : Nat) : Reg.marchState.key i j = (0xA100 + i) * 256 + (0xE + j) := rfl
theorem marchFailures_key (i j : Nat) : Reg.marchFailures.key i j = (0xA100 + i) * 256 + (0xF + j) := rfl
theorem marchRepairs_key (i j : Nat) : Reg.marchRepairs.key i j = (0xA100 + i) * 256 + (0x10 + j) := rfl
theorem repairPending_key (i j : Nat) : Reg.repairPending.key i j = (0xA100 + i) * 256 + (0x11 + j) := rfl
theorem startupMarchTime_key (i j : Nat) : Reg.startupMarchTime.key i j = (0xA100 + i) * 256 + (0x12 + j) := rfl
theorem flowsMax_key (i j : Nat) : Reg.flowsMax.key i j = (0x3300 + i) * 256 + (0x1 + j) := rfl
theorem dualPathMax_key (i j : Nat) : Reg.dualPathMax.key i j = (0x3300 + i) * 256 + (0x2 + j) := rfl
theorem rxDualInUse_key (i j : Nat) : Reg.rxDualInUse.key i j = (0x3300 + i) * 256 + (0x3 + j) := rfl
theorem txDualInUse_key (i j : Nat) : Reg.txDualInUse.key i j = (0x3300 + i) * 256 + (0x4 + j) := rfl
theorem rxTimeout_key (i j : Nat) : Reg.rxTimeout.key i j = (0x3300 + i) * 256 + (0x5 + j) := rfl
theorem flowBufferSamples_key (i j : Nat) : Reg.flowBufferSamples.key i j = (0x3300 + i) * 256 + (0x6 + j) := rfl
theorem rxLostTotal_key (i j : Nat) : Reg.rxLostTotal.key i j = (0x3300 + i) * 256 + (0x7 + j) := rfl
theorem txLoad_key (i j : Nat) : Reg.txLoad.key i j = (0x3300 + i) * 256 + (0x8 + j) := rfl
theorem rxEnable_key (i j : Nat) : Reg.rxEnable.key i j = (0x3400 + i) * 256 + (0x1 + j) := rfl
theorem rxGroup_key (i j : Nat) : Reg.rxGroup.key i j = (0x3400 + i) * 256 + (0x2 + j) := rfl
theorem rxSourceFilter_key (i j : Nat) : Reg.rxSourceFilter.key i j = (0x3400 + i) * 256 + (0x3 + j) := rfl
theorem rxUdpPort_key (i j : Nat) : Reg.rxUdpPort.key i j = (0x3400 + i) * 256 + (0x4 + j) := rfl
theorem rxPort_key (i j : Nat) : Reg.rxPort.key i j = (0x3400 + i) * 256 + (0x5 + j) := rfl
theorem rxSecondPort_key (i j : Nat) : Reg.rxSecondPort.key i j = (0x3400 + i) * 256 + (0x6 + j) := rfl
theorem rxVlan_key (i j : Nat) : Reg.rxVlan.key i j = (0x3400 + i) * 256 + (0x7 + j) := rfl
theorem rxChannels_key (i j : Nat) : Reg.rxChannels.key i j = (0x3400 + i) * 256 + (0x8 + j) := rfl
theorem rxEncoding_key (i j : Nat) : Reg.rxEncoding.key i j = (0x3400 + i) * 256 + (0x9 + j) := rfl
theorem rxRate_key (i j : Nat) : Reg.rxRate.key i j = (0x3400 + i) * 256 + (0xA + j) := rfl
theorem rxPacketTime_key (i j : Nat) : Reg.rxPacketTime.key i j = (0x3400 + i) * 256 + (0xB + j) := rfl
theorem rxPayloadType_key (i j : Nat) : Reg.rxPayloadType.key i j = (0x3400 + i) * 256 + (0xC + j) := rfl
theorem rxRtpOffset_key (i j : Nat) : Reg.rxRtpOffset.key i j = (0x3400 + i) * 256 + (0xD + j) := rfl
theorem rxLinkOffset_key (i j : Nat) : Reg.rxLinkOffset.key i j = (0x3400 + i) * 256 + (0xE + j) := rfl
theorem rxSlotsA_key (i j : Nat) : Reg.rxSlotsA.key i j = (0x3400 + i) * 256 + (0x10 + j) := rfl
theorem rxSlotsB_key (i j : Nat) : Reg.rxSlotsB.key i j = (0x3400 + i) * 256 + (0x11 + j) := rfl
theorem rxBank_key (i j : Nat) : Reg.rxBank.key i j = (0x3400 + i) * 256 + (0x12 + j) := rfl
theorem rxState_key (i j : Nat) : Reg.rxState.key i j = (0x3400 + i) * 256 + (0x13 + j) := rfl
theorem rxPathState_key (i j : Nat) : Reg.rxPathState.key i j = (0x3400 + i) * 256 + (0x14 + j) := rfl
theorem rxPackets_key (i j : Nat) : Reg.rxPackets.key i j = (0x3400 + i) * 256 + (0x15 + j) := rfl
theorem rxLost_key (i j : Nat) : Reg.rxLost.key i j = (0x3400 + i) * 256 + (0x16 + j) := rfl
theorem rxLate_key (i j : Nat) : Reg.rxLate.key i j = (0x3400 + i) * 256 + (0x17 + j) := rfl
theorem rxEarly_key (i j : Nat) : Reg.rxEarly.key i j = (0x3400 + i) * 256 + (0x18 + j) := rfl
theorem rxMalformed_key (i j : Nat) : Reg.rxMalformed.key i j = (0x3400 + i) * 256 + (0x19 + j) := rfl
theorem rxDuplicates_key (i j : Nat) : Reg.rxDuplicates.key i j = (0x3400 + i) * 256 + (0x1A + j) := rfl
theorem rxSsrc_key (i j : Nat) : Reg.rxSsrc.key i j = (0x3400 + i) * 256 + (0x1B + j) := rfl
theorem rxMarginMin_key (i j : Nat) : Reg.rxMarginMin.key i j = (0x3400 + i) * 256 + (0x1C + j) := rfl
theorem rxMarginClear_key (i j : Nat) : Reg.rxMarginClear.key i j = (0x3400 + i) * 256 + (0x1D + j) := rfl
theorem txEnable_key (i j : Nat) : Reg.txEnable.key i j = (0x3400 + i) * 256 + (0x41 + j) := rfl
theorem txGroup_key (i j : Nat) : Reg.txGroup.key i j = (0x3400 + i) * 256 + (0x42 + j) := rfl
theorem txSourceIp_key (i j : Nat) : Reg.txSourceIp.key i j = (0x3400 + i) * 256 + (0x43 + j) := rfl
theorem txUdpPort_key (i j : Nat) : Reg.txUdpPort.key i j = (0x3400 + i) * 256 + (0x44 + j) := rfl
theorem txPort_key (i j : Nat) : Reg.txPort.key i j = (0x3400 + i) * 256 + (0x45 + j) := rfl
theorem txSecondPort_key (i j : Nat) : Reg.txSecondPort.key i j = (0x3400 + i) * 256 + (0x46 + j) := rfl
theorem txVlan_key (i j : Nat) : Reg.txVlan.key i j = (0x3400 + i) * 256 + (0x47 + j) := rfl
theorem txDscp_key (i j : Nat) : Reg.txDscp.key i j = (0x3400 + i) * 256 + (0x48 + j) := rfl
theorem txTtl_key (i j : Nat) : Reg.txTtl.key i j = (0x3400 + i) * 256 + (0x49 + j) := rfl
theorem txChannels_key (i j : Nat) : Reg.txChannels.key i j = (0x3400 + i) * 256 + (0x4A + j) := rfl
theorem txEncoding_key (i j : Nat) : Reg.txEncoding.key i j = (0x3400 + i) * 256 + (0x4B + j) := rfl
theorem txPacketTime_key (i j : Nat) : Reg.txPacketTime.key i j = (0x3400 + i) * 256 + (0x4C + j) := rfl
theorem txPayloadType_key (i j : Nat) : Reg.txPayloadType.key i j = (0x3400 + i) * 256 + (0x4D + j) := rfl
theorem txRtpOffset_key (i j : Nat) : Reg.txRtpOffset.key i j = (0x3400 + i) * 256 + (0x4E + j) := rfl
theorem txSsrc_key (i j : Nat) : Reg.txSsrc.key i j = (0x3400 + i) * 256 + (0x4F + j) := rfl
theorem txSlotsA_key (i j : Nat) : Reg.txSlotsA.key i j = (0x3400 + i) * 256 + (0x50 + j) := rfl
theorem txSlotsB_key (i j : Nat) : Reg.txSlotsB.key i j = (0x3400 + i) * 256 + (0x51 + j) := rfl
theorem txBank_key (i j : Nat) : Reg.txBank.key i j = (0x3400 + i) * 256 + (0x52 + j) := rfl
theorem txState_key (i j : Nat) : Reg.txState.key i j = (0x3400 + i) * 256 + (0x53 + j) := rfl
theorem txPackets_key (i j : Nat) : Reg.txPackets.key i j = (0x3400 + i) * 256 + (0x54 + j) := rfl
theorem txFlowDrops_key (i j : Nat) : Reg.txFlowDrops.key i j = (0x3400 + i) * 256 + (0x55 + j) := rfl
theorem supervisorClock_key (i j : Nat) : Reg.supervisorClock.key i j = (0x2100 + i) * 256 + (0x1 + j) := rfl
theorem lockstepFaults_key (i j : Nat) : Reg.lockstepFaults.key i j = (0x2100 + i) * 256 + (0x2 + j) := rfl
theorem lastLockstep_key (i j : Nat) : Reg.lastLockstep.key i j = (0x2100 + i) * 256 + (0x3 + j) := rfl
theorem supervisorCacheRefetch_key (i j : Nat) : Reg.supervisorCacheRefetch.key i j = (0x2100 + i) * 256 + (0x4 + j) := rfl
theorem remapState_key (i j : Nat) : Reg.remapState.key i j = (0x2100 + i) * 256 + (0x5 + j) := rfl
theorem fabricSliceMask_key (i j : Nat) : Reg.fabricSliceMask.key i j = (0x2100 + i) * 256 + (0x6 + j) := rfl
theorem busErrors_key (i j : Nat) : Reg.busErrors.key i j = (0x2100 + i) * 256 + (0x7 + j) := rfl
theorem lastBusError_key (i j : Nat) : Reg.lastBusError.key i j = (0x2100 + i) * 256 + (0x8 + j) := rfl
theorem watchdogResets_key (i j : Nat) : Reg.watchdogResets.key i j = (0x2100 + i) * 256 + (0x9 + j) := rfl
theorem lastWatchdog_key (i j : Nat) : Reg.lastWatchdog.key i j = (0x2100 + i) * 256 + (0xA + j) := rfl
theorem supervisorLoad_key (i j : Nat) : Reg.supervisorLoad.key i j = (0x2100 + i) * 256 + (0xB + j) := rfl
theorem supervisorPeek_key (i j : Nat) : Reg.supervisorPeek.key i j = (0x2100 + i) * 256 + (0xC + j) := rfl
theorem sensorValue_key (i j : Nat) : Reg.sensorValue.key i j = (0x2110 + i) * 256 + (0x1 + j) := rfl
theorem sensorWarnLow_key (i j : Nat) : Reg.sensorWarnLow.key i j = (0x2110 + i) * 256 + (0x2 + j) := rfl
theorem sensorWarnHigh_key (i j : Nat) : Reg.sensorWarnHigh.key i j = (0x2110 + i) * 256 + (0x3 + j) := rfl
theorem sensorFaultLow_key (i j : Nat) : Reg.sensorFaultLow.key i j = (0x2110 + i) * 256 + (0x4 + j) := rfl
theorem sensorFaultHigh_key (i j : Nat) : Reg.sensorFaultHigh.key i j = (0x2110 + i) * 256 + (0x5 + j) := rfl
theorem sensorMin_key (i j : Nat) : Reg.sensorMin.key i j = (0x2110 + i) * 256 + (0x6 + j) := rfl
theorem sensorMax_key (i j : Nat) : Reg.sensorMax.key i j = (0x2110 + i) * 256 + (0x7 + j) := rfl
theorem sensorState_key (i j : Nat) : Reg.sensorState.key i j = (0x2110 + i) * 256 + (0x8 + j) := rfl
theorem fanMode_key (i j : Nat) : Reg.fanMode.key i j = (0x2120 + i) * 256 + (0x1 + j) := rfl
theorem fanDuty_key (i j : Nat) : Reg.fanDuty.key i j = (0x2120 + i) * 256 + (0x2 + j) := rfl
theorem fanMinDuty_key (i j : Nat) : Reg.fanMinDuty.key i j = (0x2120 + i) * 256 + (0x3 + j) := rfl
theorem fanTempLow_key (i j : Nat) : Reg.fanTempLow.key i j = (0x2120 + i) * 256 + (0x4 + j) := rfl
theorem fanTempHigh_key (i j : Nat) : Reg.fanTempHigh.key i j = (0x2120 + i) * 256 + (0x5 + j) := rfl
theorem fanRpm_key (i j : Nat) : Reg.fanRpm.key i j = (0x2120 + i) * 256 + (0x6 + j) := rfl
theorem fanStallRpm_key (i j : Nat) : Reg.fanStallRpm.key i j = (0x2120 + i) * 256 + (0x7 + j) := rfl
theorem fanDutyNow_key (i j : Nat) : Reg.fanDutyNow.key i j = (0x2120 + i) * 256 + (0x8 + j) := rfl
theorem alertMask_key (i j : Nat) : Reg.alertMask.key i j = (0x2130 + i) * 256 + (0x1 + j) := rfl
theorem alertCauses_key (i j : Nat) : Reg.alertCauses.key i j = (0x2130 + i) * 256 + (0x2 + j) := rfl
theorem logRecords_key (i j : Nat) : Reg.logRecords.key i j = (0x2200 + i) * 256 + (0x1 + j) := rfl
theorem logNewest_key (i j : Nat) : Reg.logNewest.key i j = (0x2200 + i) * 256 + (0x2 + j) := rfl
theorem logOldest_key (i j : Nat) : Reg.logOldest.key i j = (0x2200 + i) * 256 + (0x3 + j) := rfl
theorem logReadSelect_key (i j : Nat) : Reg.logReadSelect.key i j = (0x2200 + i) * 256 + (0x4 + j) := rfl
theorem logRead_key (i j : Nat) : Reg.logRead.key i j = (0x2200 + i) * 256 + (0x5 + j) := rfl
theorem logFind_key (i j : Nat) : Reg.logFind.key i j = (0x2200 + i) * 256 + (0x6 + j) := rfl
theorem logClear_key (i j : Nat) : Reg.logClear.key i j = (0x2200 + i) * 256 + (0x7 + j) := rfl
theorem logLost_key (i j : Nat) : Reg.logLost.key i j = (0x2200 + i) * 256 + (0x8 + j) := rfl
theorem logFifoPeak_key (i j : Nat) : Reg.logFifoPeak.key i j = (0x2200 + i) * 256 + (0x9 + j) := rfl
theorem timeMode_key (i j : Nat) : Reg.timeMode.key i j = (0x3800 + i) * 256 + (0x1 + j) := rfl
theorem frcNow_key (i j : Nat) : Reg.frcNow.key i j = (0x3800 + i) * 256 + (0x2 + j) := rfl
theorem almanacSeconds_key (i j : Nat) : Reg.almanacSeconds.key i j = (0x3800 + i) * 256 + (0x3 + j) := rfl
theorem almanacNanoseconds_key (i j : Nat) : Reg.almanacNanoseconds.key i j = (0x3800 + i) * 256 + (0x4 + j) := rfl
theorem increment_key (i j : Nat) : Reg.increment.key i j = (0x3800 + i) * 256 + (0x5 + j) := rfl
theorem mscAligned_key (i j : Nat) : Reg.mscAligned.key i j = (0x3800 + i) * 256 + (0x6 + j) := rfl
theorem mscError_key (i j : Nat) : Reg.mscError.key i j = (0x3800 + i) * 256 + (0x7 + j) := rfl
theorem alignTimeout_key (i j : Nat) : Reg.alignTimeout.key i j = (0x3800 + i) * 256 + (0x8 + j) := rfl
theorem realignLimit_key (i j : Nat) : Reg.realignLimit.key i j = (0x3800 + i) * 256 + (0x9 + j) := rfl
theorem realignCmd_key (i j : Nat) : Reg.realignCmd.key i j = (0x3800 + i) * 256 + (0xA + j) := rfl
theorem timeSet_key (i j : Nat) : Reg.timeSet.key i j = (0x3800 + i) * 256 + (0xB + j) := rfl
theorem timeTestMode_key (i j : Nat) : Reg.timeTestMode.key i j = (0x3800 + i) * 256 + (0xC + j) := rfl
theorem savedTime_key (i j : Nat) : Reg.savedTime.key i j = (0x3800 + i) * 256 + (0xD + j) := rfl
theorem sourcePriority_key (i j : Nat) : Reg.sourcePriority.key i j = (0x3810 + i) * 256 + (0x1 + j) := rfl
theorem selectedSource_key (i j : Nat) : Reg.selectedSource.key i j = (0x3810 + i) * 256 + (0x7 + j) := rfl
theorem dpllState_key (i j : Nat) : Reg.dpllState.key i j = (0x3810 + i) * 256 + (0x8 + j) := rfl
theorem rootOffset_key (i j : Nat) : Reg.rootOffset.key i j = (0x3810 + i) * 256 + (0x9 + j) := rfl
theorem rootBandwidth_key (i j : Nat) : Reg.rootBandwidth.key i j = (0x3810 + i) * 256 + (0xA + j) := rfl
theorem revertive_key (i j : Nat) : Reg.revertive.key i j = (0x3810 + i) * 256 + (0xB + j) := rfl
theorem revertHoldoff_key (i j : Nat) : Reg.revertHoldoff.key i j = (0x3810 + i) * 256 + (0xC + j) := rfl
theorem holdoverCount_key (i j : Nat) : Reg.holdoverCount.key i j = (0x3810 + i) * 256 + (0xD + j) := rfl
theorem sourceSwitches_key (i j : Nat) : Reg.sourceSwitches.key i j = (0x3810 + i) * 256 + (0xE + j) := rfl
theorem syncOutMode_key (i j : Nat) : Reg.syncOutMode.key i j = (0x3810 + i) * 256 + (0xF + j) := rfl
theorem ppsTrim_key (i j : Nat) : Reg.ppsTrim.key i j = (0x3810 + i) * 256 + (0x10 + j) := rfl
theorem inputEnable_key (i j : Nat) : Reg.inputEnable.key i j = (0x3820 + i) * 256 + (0x1 + j) := rfl
theorem wclkRate_key (i j : Nat) : Reg.wclkRate.key i j = (0x3820 + i) * 256 + (0x2 + j) := rfl
theorem qualifyTime_key (i j : Nat) : Reg.qualifyTime.key i j = (0x3820 + i) * 256 + (0x3 + j) := rfl
theorem inputState_key (i j : Nat) : Reg.inputState.key i j = (0x3820 + i) * 256 + (0x4 + j) := rfl
theorem inputMeasuredRate_key (i j : Nat) : Reg.inputMeasuredRate.key i j = (0x3820 + i) * 256 + (0x5 + j) := rfl
theorem inputGlitches_key (i j : Nat) : Reg.inputGlitches.key i j = (0x3820 + i) * 256 + (0x6 + j) := rfl
theorem inputLosses_key (i j : Nat) : Reg.inputLosses.key i j = (0x3820 + i) * 256 + (0x7 + j) := rfl
theorem inputRateChanges_key (i j : Nat) : Reg.inputRateChanges.key i j = (0x3820 + i) * 256 + (0x8 + j) := rfl
theorem wclkPhase_key (i j : Nat) : Reg.wclkPhase.key i j = (0x3820 + i) * 256 + (0x9 + j) := rfl
theorem ptpMode_key (i j : Nat) : Reg.ptpMode.key i j = (0x3830 + i) * 256 + (0x1 + j) := rfl
theorem ptpProfile_key (i j : Nat) : Reg.ptpProfile.key i j = (0x3830 + i) * 256 + (0x2 + j) := rfl
theorem ptpPrimaryPort_key (i j : Nat) : Reg.ptpPrimaryPort.key i j = (0x3830 + i) * 256 + (0x3 + j) := rfl
theorem ptpDomain_key (i j : Nat) : Reg.ptpDomain.key i j = (0x3830 + i) * 256 + (0x4 + j) := rfl
theorem ptpPriority1_key (i j : Nat) : Reg.ptpPriority1.key i j = (0x3830 + i) * 256 + (0x5 + j) := rfl
theorem ptpPriority2_key (i j : Nat) : Reg.ptpPriority2.key i j = (0x3830 + i) * 256 + (0x6 + j) := rfl
theorem ptpClockClass_key (i j : Nat) : Reg.ptpClockClass.key i j = (0x3830 + i) * 256 + (0x7 + j) := rfl
theorem ptpLogSync_key (i j : Nat) : Reg.ptpLogSync.key i j = (0x3830 + i) * 256 + (0x8 + j) := rfl
theorem ptpLogAnnounce_key (i j : Nat) : Reg.ptpLogAnnounce.key i j = (0x3830 + i) * 256 + (0x9 + j) := rfl
theorem ptpLogDelayReq_key (i j : Nat) : Reg.ptpLogDelayReq.key i j = (0x3830 + i) * 256 + (0xA + j) := rfl
theorem ptpAnnounceTimeout_key (i j : Nat) : Reg.ptpAnnounceTimeout.key i j = (0x3830 + i) * 256 + (0xB + j) := rfl
theorem ptpOneStep_key (i j : Nat) : Reg.ptpOneStep.key i j = (0x3830 + i) * 256 + (0xC + j) := rfl
theorem ptpDelayUnicast_key (i j : Nat) : Reg.ptpDelayUnicast.key i j = (0x3830 + i) * 256 + (0xD + j) := rfl
theorem ptpServoState_key (i j : Nat) : Reg.ptpServoState.key i j = (0x3830 + i) * 256 + (0xE + j) := rfl
theorem ptpOffset_key (i j : Nat) : Reg.ptpOffset.key i j = (0x3830 + i) * 256 + (0xF + j) := rfl
theorem ptpMeanPathDelay_key (i j : Nat) : Reg.ptpMeanPathDelay.key i j = (0x3830 + i) * 256 + (0x10 + j) := rfl
theorem ptpLeaderId_key (i j : Nat) : Reg.ptpLeaderId.key i j = (0x3830 + i) * 256 + (0x11 + j) := rfl
theorem ptpStepsRemoved_key (i j : Nat) : Reg.ptpStepsRemoved.key i j = (0x3830 + i) * 256 + (0x12 + j) := rfl
theorem ptpIgnored_key (i j : Nat) : Reg.ptpIgnored.key i j = (0x3830 + i) * 256 + (0x13 + j) := rfl
theorem ptpPortEnable_key (i j : Nat) : Reg.ptpPortEnable.key i j = (0x3840 + i) * 256 + (0x1 + j) := rfl
theorem ptpPortState_key (i j : Nat) : Reg.ptpPortState.key i j = (0x3840 + i) * 256 + (0x2 + j) := rfl
theorem stampTrimRx_key (i j : Nat) : Reg.stampTrimRx.key i j = (0x3840 + i) * 256 + (0x3 + j) := rfl
theorem stampTrimTx_key (i j : Nat) : Reg.stampTrimTx.key i j = (0x3840 + i) * 256 + (0x4 + j) := rfl
theorem tsQueueOverflows_key (i j : Nat) : Reg.tsQueueOverflows.key i j = (0x3840 + i) * 256 + (0x5 + j) := rfl
theorem oneStepRejected_key (i j : Nat) : Reg.oneStepRejected.key i j = (0x3840 + i) * 256 + (0x6 + j) := rfl

end Sys2Proof.Machine
end

