-- ==== Sys2Proof/Laws/Memory.lean ====
section
/-! SUPPORT. The memory operations keep the canonical form, and a write leaves every other octet alone. -/

namespace Sys2Proof.Machine

/-- Reset lists no octet. -/
theorem reset_memory_wf : Memory.wf State.reset.mem := by decide

/-- A run of octets written one by one keeps the canonical form. -/
theorem wf_foldl_nset (l : List (BitVec 8 × Nat)) (a : Nat) : ∀ m : List Host.Cell, Memory.wf m →
    Memory.wf (l.foldl (fun m p => nset (octet 0) m (a + p.2) p.1) m) := by
  induction l with
  | nil => exact fun _ h => h
  | cons p t ih => exact fun m h => ih _ (nwf_nset _ m _ _ h)

/-- The one write of the memory keeps the canonical form. -/
theorem memWrite_wf (m : List Host.Cell) (a : Nat) (l : Octets) (h : Memory.wf m) : Memory.wf (memWrite m a l) :=
  wf_foldl_nset _ a m h

/-- Octets outside a run of written ones read as before. -/
theorem nget_foldl_nset (l : List (BitVec 8 × Nat)) (a k : Nat) (h : ∀ p ∈ l, a + p.2 ≠ k) : ∀ m : List Host.Cell,
    nget (octet 0) (l.foldl (fun m p => nset (octet 0) m (a + p.2) p.1) m) k = nget (octet 0) m k := by
  induction l with
  | nil => exact fun _ => rfl
  | cons p t ih =>
    intro m
    rw [List.foldl_cons, ih (fun q hq => h q (.tail _ hq)), nget_nset_ne _ _ _ _ (h p (.head _)).symm]

/-- The frame of a write: octets below and above the line read as before. -/
theorem memWrite_other (m : List Host.Cell) (a : Nat) (l : Octets) (k : Nat) (h : k < a ∨ a + l.length ≤ k) :
    nget (octet 0) (memWrite m a l) k = nget (octet 0) m k := by
  refine nget_foldl_nset _ a k (fun p hp => ?_) m
  have := List.snd_lt_of_mem_zipIdx hp
  omega

end Sys2Proof.Machine
end

