-- ==== Sys2Proof/Laws/PerInstr.lean ====
section
/-! SUPPORT. Per command: no word of `spec/opcode_table.json` spells it, since no row of the table has bits. -/

namespace Sys2Proof.Laws.TableWord

/-- Whether no word that the table could number spells the command. -/
def Statement (i : Instr) : Prop := ∀ nbits w, decodeTableWord nbits w ≠ some i

/-- The decoder of the block answers none on every word. -/
theorem of_none (i : Instr) : Statement i := fun _ _ h => by simp [decodeTableWord] at h

theorem sampleTick (x0 : TickIn) : Statement (.sampleTick x0) := of_none _
theorem blockBoundary (x0 : Bool) : Statement (.blockBoundary x0) := of_none _
theorem geometryLate : Statement (.geometryLate) := of_none _
theorem renderDeadlineMiss (x0 : Nat) (x1 : List Nat) (x2 : Bool) : Statement (.renderDeadlineMiss x0 x1 x2) := of_none _
theorem convMuteEnd (x0 : Nat) : Statement (.convMuteEnd x0) := of_none _
theorem firFadeAssign (x0 : Nat) : Statement (.firFadeAssign x0) := of_none _
theorem mixDualRunEnd : Statement (.mixDualRunEnd) := of_none _
theorem progressWatchdogExpiry : Statement (.progressWatchdogExpiry) := of_none _
theorem read (x0 : Frame) : Statement (.read x0) := of_none _
theorem write (x0 : Frame) : Statement (.write x0) := of_none _
theorem readMulti (x0 : Frame) : Statement (.readMulti x0) := of_none _
theorem writeMulti (x0 : Frame) : Statement (.writeMulti x0) := of_none _
theorem blockBegin (x0 : Frame) : Statement (.blockBegin x0) := of_none _
theorem blockData (x0 : Frame) : Statement (.blockData x0) := of_none _
theorem blockEnd (x0 : Frame) : Statement (.blockEnd x0) := of_none _
theorem blockAbort (x0 : Frame) : Statement (.blockAbort x0) := of_none _
theorem blockTransferTimeout (x0 : Nat) : Statement (.blockTransferTimeout x0) := of_none _
theorem subscribe (x0 : Frame) : Statement (.subscribe x0) := of_none _
theorem unsubscribe (x0 : Frame) : Statement (.unsubscribe x0) := of_none _
theorem hostNotice (x0 : Frame) : Statement (.hostNotice x0) := of_none _
theorem echo (x0 : Frame) : Statement (.echo x0) := of_none _
theorem unknownService (x0 : Frame) : Statement (.unknownService x0) := of_none _
theorem canKeepalive (x0 : Frame) : Statement (.canKeepalive x0) := of_none _
theorem dtlsHandshake (x0 : Handshake) : Statement (.dtlsHandshake x0) := of_none _
theorem sessionClose (x0 : Nat) : Statement (.sessionClose x0) := of_none _
theorem sessionTimeoutCheck : Statement (.sessionTimeoutCheck) := of_none _
theorem sourceBlockExpiry (x0 : Nat) : Statement (.sourceBlockExpiry x0) := of_none _
theorem subscriptionReport (x0 : Nat) : Statement (.subscriptionReport x0) := of_none _
theorem noticeSend (x0 : Nat) : Statement (.noticeSend x0) := of_none _
theorem positionPacket (x0 : PacketPath) (x1 : Nat) (x2 : Octets) : Statement (.positionPacket x0 x1 x2) := of_none _
theorem mapSilenceTimeout (x0 : Nat) : Statement (.mapSilenceTimeout x0) := of_none _
theorem mapConfigWrite (x0 : Nat) (x1 : Nat) (x2 : Nat) : Statement (.mapConfigWrite x0 x1 x2) := of_none _
theorem motionCountFix (x0 : Nat) : Statement (.motionCountFix x0) := of_none _
theorem motionDecoderApply : Statement (.motionDecoderApply) := of_none _
theorem motionStall : Statement (.motionStall) := of_none _
theorem calOpen (x0 : Frame) : Statement (.calOpen x0) := of_none _
theorem calAdd (x0 : Frame) : Statement (.calAdd x0) := of_none _
theorem calClose (x0 : Frame) : Statement (.calClose x0) := of_none _
theorem calCancel (x0 : Frame) : Statement (.calCancel x0) := of_none _
theorem calStatus (x0 : Frame) : Statement (.calStatus x0) := of_none _
theorem calList (x0 : Frame) : Statement (.calList x0) := of_none _
theorem calAttach (x0 : Frame) : Statement (.calAttach x0) := of_none _
theorem calPeek (x0 : Frame) : Statement (.calPeek x0) := of_none _
theorem prepareStart (x0 : Nat) : Statement (.prepareStart x0) := of_none _
theorem prepareAnswer (x0 : Nat) : Statement (.prepareAnswer x0) := of_none _
theorem prepareDeadline (x0 : Nat) : Statement (.prepareDeadline x0) := of_none _
theorem calendarCommit : Statement (.calendarCommit) := of_none _
theorem outcomeSettleTimeout : Statement (.outcomeSettleTimeout) := of_none _
theorem calRetentionExpiry : Statement (.calRetentionExpiry) := of_none _
theorem journalReplay (x0 : Bool) (x1 : Nat) (x2 : Nat) : Statement (.journalReplay x0 x1 x2) := of_none _
theorem liftItemFinish (x0 : Nat) : Statement (.liftItemFinish x0) := of_none _
theorem liftAgeLimit : Statement (.liftAgeLimit) := of_none _
theorem liftSnapshotTake (x0 : Octets) : Statement (.liftSnapshotTake x0) := of_none _
theorem refreshAll (x0 : Octets) : Statement (.refreshAll x0) := of_none _
theorem loadPeakClear (x0 : Octets) : Statement (.loadPeakClear x0) := of_none _
theorem sfpPoll (x0 : Nat) (x1 : CagePoll) : Statement (.sfpPoll x0 x1) := of_none _
theorem sfpIdentify (x0 : Nat) (x1 : Octets) (x2 : Octets) : Statement (.sfpIdentify x0 x1 x2) := of_none _
theorem linkCandidateTimeout (x0 : Nat) : Statement (.linkCandidateTimeout x0) := of_none _
theorem linkUp (x0 : LaneUp) : Statement (.linkUp x0) := of_none _
theorem linkDown (x0 : Nat) : Statement (.linkDown x0) := of_none _
theorem linkRetryCycle (x0 : Nat) : Statement (.linkRetryCycle x0) := of_none _
theorem portConfigWrite (x0 : Nat) (x1 : Nat) (x2 : Nat) : Statement (.portConfigWrite x0 x1 x2) := of_none _
theorem frameReceive (x0 : Nat) (x1 : Octets) (x2 : Nat) (x3 : Nat) (x4 : Nat) (x5 : Nat) : Statement (.frameReceive x0 x1 x2 x3 x4 x5) := of_none _
theorem rxDescriptorPost (x0 : Nat) (x1 : Nat) (x2 : Nat) : Statement (.rxDescriptorPost x0 x1 x2) := of_none _
theorem txFrameStart (x0 : Nat) (x1 : List (Nat × TxBuffer)) : Statement (.txFrameStart x0 x1) := of_none _
theorem txFrameComplete (x0 : Nat) (x1 : Bool) : Statement (.txFrameComplete x0 x1) := of_none _
theorem tsQueueStatusRead (x0 : Nat) : Statement (.tsQueueStatusRead x0) := of_none _
theorem tsQueueEntryRead (x0 : Nat) : Statement (.tsQueueEntryRead x0) := of_none _
theorem pauseReceived (x0 : Nat) (x1 : Nat) : Statement (.pauseReceived x0 x1) := of_none _
theorem pauseTimeExpiry : Statement (.pauseTimeExpiry) := of_none _
theorem pauseRepeat : Statement (.pauseRepeat) := of_none _
theorem pauseSendLimit : Statement (.pauseSendLimit) := of_none _
theorem pauseHonourLimit : Statement (.pauseHonourLimit) := of_none _
theorem pauseIgnoreEnd : Statement (.pauseIgnoreEnd) := of_none _
theorem eeeLpiEntry : Statement (.eeeLpiEntry) := of_none _
theorem mkaSecured (x0 : Nat) (x1 : Nat) (x2 : Octets) (x3 : Octets) (x4 : Nat) (x5 : Nat) : Statement (.mkaSecured x0 x1 x2 x3 x4 x5) := of_none _
theorem mdioRead (x0 : Nat) (x1 : Nat) (x2 : Nat) : Statement (.mdioRead x0 x1 x2) := of_none _
theorem mdioWrite (x0 : Nat) (x1 : Nat) (x2 : Nat) : Statement (.mdioWrite x0 x1 x2) := of_none _
theorem counterClear (x0 : Nat) (x1 : Octets) : Statement (.counterClear x0 x1) := of_none _
theorem rxFlowTimeout (x0 : Nat) : Statement (.rxFlowTimeout x0) := of_none _
theorem rxPathTimeout (x0 : Nat) (x1 : Nat) : Statement (.rxPathTimeout x0 x1) := of_none _
theorem igmpReportTimer (x0 : Nat) (x1 : Nat) : Statement (.igmpReportTimer x0 x1) := of_none _
theorem slotTableWrite (x0 : Nat) (x1 : Bool) (x2 : Nat) (x3 : Octets) : Statement (.slotTableWrite x0 x1 x2 x3) := of_none _
theorem rxMarginClear (x0 : Nat) (x1 : Octets) : Statement (.rxMarginClear x0 x1) := of_none _
theorem snAnchor : Statement (.snAnchor) := of_none _
theorem mscAlign : Statement (.mscAlign) := of_none _
theorem alignTimeout : Statement (.alignTimeout) := of_none _
theorem realignment : Statement (.realignment) := of_none _
theorem realignNow (x0 : Octets) : Statement (.realignNow x0) := of_none _
theorem timeSet (x0 : Octets) : Statement (.timeSet x0) := of_none _
theorem timeTestModeWrite (x0 : Nat) : Statement (.timeTestModeWrite x0) := of_none _
theorem inputEdge (x0 : Nat) (x1 : Nat) : Statement (.inputEdge x0 x1) := of_none _
theorem inputLoss (x0 : Nat) : Statement (.inputLoss x0) := of_none _
theorem inputQualify (x0 : Nat) : Statement (.inputQualify x0) := of_none _
theorem revertHoldoff : Statement (.revertHoldoff) := of_none _
theorem ptpSyncReceive (x0 : Nat) (x1 : Nat) (x2 : Octets) (x3 : Nat) : Statement (.ptpSyncReceive x0 x1 x2 x3) := of_none _
theorem ptpFollowUpReceive (x0 : Nat) (x1 : Octets) : Statement (.ptpFollowUpReceive x0 x1) := of_none _
theorem ptpDelayRespReceive (x0 : Nat) (x1 : Octets) : Statement (.ptpDelayRespReceive x0 x1) := of_none _
theorem ptpDelayReqReceive (x0 : Nat) (x1 : Nat) (x2 : Octets) (x3 : Nat) (x4 : Bool) : Statement (.ptpDelayReqReceive x0 x1 x2 x3 x4) := of_none _
theorem ptpAnnounceReceive (x0 : Nat) (x1 : Octets) : Statement (.ptpAnnounceReceive x0 x1) := of_none _
theorem ptpSyncTimeout : Statement (.ptpSyncTimeout) := of_none _
theorem ptpAnnounceTimeout : Statement (.ptpAnnounceTimeout) := of_none _
theorem ptpSyncTimer (x0 : Nat) : Statement (.ptpSyncTimer x0) := of_none _
theorem ptpAnnounceTimer (x0 : Nat) : Statement (.ptpAnnounceTimer x0) := of_none _
theorem ptpDelayReqTimer (x0 : Nat) : Statement (.ptpDelayReqTimer x0) := of_none _
theorem clockMonitorInterval (x0 : Int) : Statement (.clockMonitorInterval x0) := of_none _
theorem savedTimeWrite : Statement (.savedTimeWrite) := of_none _
theorem tdmFrameStart (x0 : Nat) (x1 : List Nat) (x2 : Nat) (x3 : Nat) : Statement (.tdmFrameStart x0 x1 x2 x3) := of_none _
theorem tdmFsyncLoss (x0 : Nat) : Statement (.tdmFsyncLoss x0) := of_none _
theorem tdmPortConfigWrite (x0 : Nat) (x1 : Nat) (x2 : Nat) : Statement (.tdmPortConfigWrite x0 x1 x2) := of_none _
theorem tdmMaskWrite (x0 : Nat) (x1 : Bool) (x2 : Nat) : Statement (.tdmMaskWrite x0 x1 x2) := of_none _
theorem jackDetectChange (x0 : Bool) : Statement (.jackDetectChange x0) := of_none _
theorem micBiasMeasure (x0 : Nat) : Statement (.micBiasMeasure x0) := of_none _
theorem headsetReclassify : Statement (.headsetReclassify) := of_none _
theorem headsetButton (x0 : Bool) : Statement (.headsetButton x0) := of_none _
theorem recorderTrigger (x0 : Nat) : Statement (.recorderTrigger x0) := of_none _
theorem recorderPostTriggerEnd : Statement (.recorderPostTriggerEnd) := of_none _
theorem recorderFreeze : Statement (.recorderFreeze) := of_none _
theorem recorderRelease : Statement (.recorderRelease) := of_none _
theorem dramAccessComplete (x0 : Nat) (x1 : Nat) : Statement (.dramAccessComplete x0 x1) := of_none _
theorem refreshInterval (x0 : Nat) : Statement (.refreshInterval x0) := of_none _
theorem mr4Poll (x0 : Nat) (x1 : Nat) (x2 : Nat) (x3 : Nat) (x4 : Nat) : Statement (.mr4Poll x0 x1 x2 x3 x4) := of_none _
theorem rfmIssue (x0 : Nat) (x1 : Nat) : Statement (.rfmIssue x0 x1) := of_none _
theorem arbBreakPoint (x0 : Nat) (x1 : List DramRequest) : Statement (.arbBreakPoint x0 x1) := of_none _
theorem arbBackoffEnd (x0 : Nat) (x1 : Nat) : Statement (.arbBackoffEnd x0 x1) := of_none _
theorem arbGrantWithdraw (x0 : Nat) : Statement (.arbGrantWithdraw x0) := of_none _
theorem arbStarve (x0 : Nat) (x1 : Nat) : Statement (.arbStarve x0 x1) := of_none _
theorem arbUrgent (x0 : Nat) (x1 : Nat) : Statement (.arbUrgent x0 x1) := of_none _
theorem arbPolicyTick : Statement (.arbPolicyTick) := of_none _
theorem arbPriorityWrite (x0 : Nat) (x1 : Nat) : Statement (.arbPriorityWrite x0 x1) := of_none _
theorem dramOscCheck (x0 : Nat) (x1 : Nat) (x2 : Eye) : Statement (.dramOscCheck x0 x1 x2) := of_none _
theorem dramScrubPass : Statement (.dramScrubPass) := of_none _
theorem sramWriteback (x0 : Nat) (x1 : Nat) (x2 : Bool) : Statement (.sramWriteback x0 x1 x2) := of_none _
theorem sramHardFaultRecheck (x0 : Nat) (x1 : Nat) (x2 : Bool) : Statement (.sramHardFaultRecheck x0 x1 x2) := of_none _
theorem sramScrubPeriod (x0 : Bool) : Statement (.sramScrubPeriod x0) := of_none _
theorem bankPowerTransition (x0 : Nat) : Statement (.bankPowerTransition x0) := of_none _
theorem marchDestructive (x0 : Nat) (x1 : Nat) (x2 : Nat) : Statement (.marchDestructive x0 x1 x2) := of_none _
theorem marchPreserving (x0 : Nat) (x1 : Nat) : Statement (.marchPreserving x0 x1) := of_none _
theorem marchComplete (x0 : List (Nat × Nat × Nat)) : Statement (.marchComplete x0) := of_none _
theorem pairHello (x0 : Hello) : Statement (.pairHello x0) := of_none _
theorem pairFormTimeout : Statement (.pairFormTimeout) := of_none _
theorem ilkInChange (x0 : Bool) : Statement (.ilkInChange x0) := of_none _
theorem ilkAssert : Statement (.ilkAssert) := of_none _
theorem ilkGateOpen : Statement (.ilkGateOpen) := of_none _
theorem ilkCollisionRetry : Statement (.ilkCollisionRetry) := of_none _
theorem dpSilence : Statement (.dpSilence) := of_none _
theorem releaseMessage : Statement (.releaseMessage) := of_none _
theorem handoverCmd (x0 : Octets) : Statement (.handoverCmd x0) := of_none _
theorem handoverDate (x0 : Nat) (x1 : Bool) : Statement (.handoverDate x0 x1) := of_none _
theorem handoverRelease : Statement (.handoverRelease) := of_none _
theorem mirrorWrite (x0 : Nat) (x1 : List (Nat × Nat × Octets)) : Statement (.mirrorWrite x0 x1) := of_none _
theorem mirrorAckTimeout : Statement (.mirrorAckTimeout) := of_none _
theorem tracingMessage (x0 : Nat) (x1 : Nat) (x2 : Bool) (x3 : List Nat) : Statement (.tracingMessage x0 x1 x2 x3) := of_none _
theorem tracingDeadline : Statement (.tracingDeadline) := of_none _
theorem auditCheckBlock (x0 : Bool) (x1 : Bool) (x2 : Bool) (x3 : List Nat) : Statement (.auditCheckBlock x0 x1 x2 x3) := of_none _
theorem healthWord (x0 : Nat) (x1 : Bool) : Statement (.healthWord x0 x1) := of_none _
theorem catchupHistoryDone : Statement (.catchupHistoryDone) := of_none _
theorem catchupSeedingDone : Statement (.catchupSeedingDone) := of_none _
theorem catchupLimit : Statement (.catchupLimit) := of_none _
theorem dradaCandidateTimeout (x0 : Nat) : Statement (.dradaCandidateTimeout x0) := of_none _
theorem dradaLinkCell (x0 : Nat) (x1 : Octets) (x2 : LinkMsg) : Statement (.dradaLinkCell x0 x1 x2) := of_none _
theorem dradaLinkDown (x0 : Nat) : Statement (.dradaLinkDown x0) := of_none _
theorem dradaRetryCycle (x0 : Nat) : Statement (.dradaRetryCycle x0) := of_none _
theorem dradaConfigWrite (x0 : Nat) (x1 : Nat) (x2 : Nat) : Statement (.dradaConfigWrite x0 x1 x2) := of_none _
theorem dradaFeedCell (x0 : Nat) (x1 : Octets) : Statement (.dradaFeedCell x0 x1) := of_none _
theorem dradaTickCell (x0 : Nat) (x1 : Octets) (x2 : TickFrame) : Statement (.dradaTickCell x0 x1 x2) := of_none _
theorem dradaControlCell (x0 : Nat) (x1 : Octets) : Statement (.dradaControlCell x0 x1) := of_none _
theorem dradaCalendarCell (x0 : Nat) (x1 : Octets) (x2 : CalMsg) : Statement (.dradaCalendarCell x0 x1 x2) := of_none _
theorem dradaMotionCell (x0 : Nat) (x1 : Octets) (x2 : MotionMsg) : Statement (.dradaMotionCell x0 x1 x2) := of_none _
theorem dradaTimeExchange : Statement (.dradaTimeExchange) := of_none _
theorem dradaTimeCell (x0 : Nat) (x1 : Octets) (x2 : TimeMsg) : Statement (.dradaTimeCell x0 x1 x2) := of_none _
theorem dradaCreditCell (x0 : Nat) (x1 : Octets) : Statement (.dradaCreditCell x0 x1) := of_none _
theorem dradaCreditReturnTimer (x0 : Nat) : Statement (.dradaCreditReturnTimer x0) := of_none _
theorem dradaReplayCell (x0 : Nat) (x1 : Octets) : Statement (.dradaReplayCell x0 x1) := of_none _
theorem dradaFeedLate (x0 : Nat) (x1 : Nat) : Statement (.dradaFeedLate x0 x1) := of_none _
theorem dradaIdleEntry (x0 : Nat) : Statement (.dradaIdleEntry x0) := of_none _
theorem groupForm : Statement (.groupForm) := of_none _
theorem groupReform (x0 : Octets) : Statement (.groupReform x0) := of_none _
theorem lockstepMismatch (x0 : Nat) (x1 : Nat) : Statement (.lockstepMismatch x0 x1) := of_none _
theorem remapSet : Statement (.remapSet) := of_none _
theorem romLockSet : Statement (.romLockSet) := of_none _
theorem norWriteEnable (x0 : Bool) : Statement (.norWriteEnable x0) := of_none _
theorem watchdogKick : Statement (.watchdogKick) := of_none _
theorem watchdogExpiry : Statement (.watchdogExpiry) := of_none _
theorem sensorSample (x0 : List Int) : Statement (.sensorSample x0) := of_none _
theorem sensorLimitWrite (x0 : Nat) (x1 : Bool) (x2 : Int) : Statement (.sensorLimitWrite x0 x1 x2) := of_none _
theorem fanUpdate (x0 : Nat) : Statement (.fanUpdate x0) := of_none _
theorem fanStall : Statement (.fanStall) := of_none _
theorem logFind (x0 : Octets) : Statement (.logFind x0) := of_none _
theorem logClear (x0 : Nat) (x1 : Octets) : Statement (.logClear x0 x1) := of_none _
theorem supervisorPeek (x0 : Octets) : Statement (.supervisorPeek x0) := of_none _
theorem keyErase (x0 : Octets) : Statement (.keyErase x0) := of_none _
theorem jtagChallenge : Statement (.jtagChallenge) := of_none _
theorem jtagResponse (x0 : Octets) : Statement (.jtagResponse x0) := of_none _
theorem jtagInstruction (x0 : JtagOp) : Statement (.jtagInstruction x0) := of_none _
theorem updateActivate : Statement (.updateActivate) := of_none _
theorem updateConfirm : Statement (.updateConfirm) := of_none _
theorem updateCommit : Statement (.updateCommit) := of_none _
theorem trialConfirmTimer : Statement (.trialConfirmTimer) := of_none _
theorem seasonMeasure (x0 : List (Nat × Nat)) : Statement (.seasonMeasure x0) := of_none _
theorem seasonMeasureCmd : Statement (.seasonMeasureCmd) := of_none _
theorem seasonMinute : Statement (.seasonMinute) := of_none _
theorem clearRefresh (x0 : Nat) (x1 : Octets) : Statement (.clearRefresh x0 x1) := of_none _
theorem checkerTest (x0 : Option (Nat × Nat)) : Statement (.checkerTest x0) := of_none _
theorem selfTestMonitors : Statement (.selfTestMonitors) := of_none _
theorem selfTestCheckers : Statement (.selfTestCheckers) := of_none _
theorem selfTestCrypto : Statement (.selfTestCrypto) := of_none _
theorem selfTestAll : Statement (.selfTestAll) := of_none _
theorem selfTestComplete (x0 : Option (Nat × Nat)) : Statement (.selfTestComplete x0) := of_none _
theorem perturbArm (x0 : Nat) (x1 : Octets) : Statement (.perturbArm x0 x1) := of_none _
theorem perturbDisarm (x0 : Nat) : Statement (.perturbDisarm x0) := of_none _
theorem perturbDisarmAll : Statement (.perturbDisarmAll) := of_none _
theorem perturbApply (x0 : Nat) : Statement (.perturbApply x0) := of_none _
theorem perturbTimeout (x0 : Nat) : Statement (.perturbTimeout x0) := of_none _
theorem vinUvloStart : Statement (.vinUvloStart) := of_none _
theorem vinUvloTrip (x0 : Bool) : Statement (.vinUvloTrip x0) := of_none _
theorem vinOvpTrip : Statement (.vinOvpTrip) := of_none _
theorem ovpRestart : Statement (.ovpRestart) := of_none _
theorem wakeEdge : Statement (.wakeEdge) := of_none _
theorem nreset : Statement (.nreset) := of_none _
theorem railTrip (x0 : Nat) : Statement (.railTrip x0) := of_none _
theorem railRestart : Statement (.railRestart) := of_none _
theorem faultRestartTimer : Statement (.faultRestartTimer) := of_none _
theorem resetRelease (x0 : BootFacts) : Statement (.resetRelease x0) := of_none _
theorem bootComplete (x0 : Nat) (x1 : Octets) : Statement (.bootComplete x0 x1) := of_none _
theorem resetCmd (x0 : Octets) : Statement (.resetCmd x0) := of_none _
theorem powerQuiet : Statement (.powerQuiet) := of_none _
theorem dataPathStop : Statement (.dataPathStop) := of_none _
theorem powerReady : Statement (.powerReady) := of_none _
theorem powerOffseason : Statement (.powerOffseason) := of_none _
theorem showRequestWrite (x0 : Nat) : Statement (.showRequestWrite x0) := of_none _
theorem i2cStuck : Statement (.i2cStuck) := of_none _
theorem carrierTempRead (x0 : Option Int) (x1 : Nat) (x2 : Bool) : Statement (.carrierTempRead x0 x1 x2) := of_none _
theorem nresetRelease : Statement (.nresetRelease) := of_none _
theorem railsInRegulation : Statement (.railsInRegulation) := of_none _
theorem rootDpllLocked (x0 : Int) : Statement (.rootDpllLocked x0) := of_none _
theorem phyAutonegotiation (x0 : Bool) (x1 : Nat) (x2 : Bool) : Statement (.phyAutonegotiation x0 x1 x2) := of_none _

end Sys2Proof.Laws.TableWord
end

