-- ==== Sys2Proof/Machine/Flags.lean ====
section
/-! DEFINITION. The output lines of the module, computed from its state: supply, interlock, alert, clock, serial, fan, TDM (Table 21-2). -/

namespace Sys2Proof.Machine

/-- The level of an output line. -/
inductive Level where
  | low
  | high
  /-- High impedance; an open-drain line that is released. -/
  | released
  deriving DecidableEq, Repr

namespace Dev

/-- Whether the module is without its rails: every signal pad but PGOOD is at high impedance (R561, R569). -/
def unpowered (d : Dev) : Bool := d.power.state == .off || d.power.state == .offseason

/-- Whether the pads take the Reset state of Table 21-2: in reset and throughout BOOT (R561, R569). -/
def padsReset (d : Dev) : Bool := d.power.held || d.power.state == .boot

/-- A pad with its level in reset and as driven otherwise. -/
def padLine (d : Dev) (reset driven : Level) : Level := if d.unpowered then .released else if d.padsReset then reset else driven

/-- A driven level. -/
def levelOf (b : Bool) : Level := if b then .high else .low

/-- nALERT: open drain, low for an unmasked cause, in reset and during BOOT (R493, R565). -/
def nAlert (d : Dev) : Level := if d.alertLow then .low else .released

/-- PGOOD: open drain, released while every rail is within its limits (R561). -/
def pgoodLine (d : Dev) : Level := if d.power.pgood then .released else .low

/-- ILK_OUT: low in reset, else as driven (R428, R561). -/
def ilkOutLine (d : Dev) : Level := d.padLine .low (levelOf (d.flag Reg.ilkOut))

/-- SYNC_OUT: low in reset, else per R340. -/
def syncOutLine (d : Dev) : Level := d.padLine .low (levelOf d.syncOut)

/-- VAUX_3V3: on or off (R561). -/
def vauxLine (d : Dev) : Level := if d.power.vaux then .high else .low

/-- CAN_TX and UART_TX between the frames that `Out` records: recessive, idle (Table 21-2). -/
def idleHighLine (d : Dev) : Level := d.padLine .high .high

/-- MDC between the transfers that `Out` records, and MDIO, which no one drives then (Table 21-2). -/
def mdcLine (d : Dev) : Level := d.padLine .low .low

/-- The duty cycle of FAN_PWM in 0.1 %: 100 % in reset; none without supply (R492, Table 21-2). -/
def fanPwmDuty (d : Dev) : Option Nat := if d.unpowered then none else some (if d.padsReset then 1000 else d.nat Reg.fanDutyNow)

/-- Whether the pads of a TDM port that the module may drive are at high impedance: in reset, in FAULT, and while the path is stopped
(R353, R558, Table 21-2). -/
def tdmPadsReleased (d : Dev) : Bool := d.unpowered || d.padsReset || d.power.state == .fault || !d.power.state.runs

end Dev

end Sys2Proof.Machine
end

