-- ==== Sys2Proof/Tests/Slice0.lean ====
section
/-! SUPPORT. The spec's worked figures, ill-formed commands that `Instr.wf` refuses, and for every statement states and
operands that meet its hypotheses. -/


namespace Sys2Proof.Tests

set_option Elab.async false

open Sys2Proof Sys2Proof.Machine

/-- A lone module that has left BOOT: QUIET, unaligned. -/
def up : State :=
  { State.reset with dev := { Dev.reset with power := { resetPower with state := .quiet, held := false } } }

/-- `up` with its module changed. -/
def upWith (f : Dev → Dev) : State := { up with dev := f up.dev }

/-- The power state of a module. -/
def inPower (st : PowerState) (d : Dev) : Dev := { d with power := { d.power with state := st } }

/-- A pair module in a pair state. -/
def paired (st : Nat) (d : Dev) : Dev :=
  { d with regs := nput d.regs Reg.firmwareVersion.key (.int 0x03000000), power := { d.power with pairPresent := false } }.setNat Reg.pairState st

/-- A checked value that is the expected one. -/
theorem okOf {ε α : Type} [DecidableEq α] {x : Except ε α} {y : α} (h : (match x with | .ok z => decide (z = y) | .error _ => false) = true) : x = .ok y := by
  cases x <;> simp_all

/-- A check that fails with the expected status. -/
theorem errorOf {ε α : Type} [DecidableEq ε] {x : Except ε α} {y : ε} (h : (match x with | .ok _ => false | .error z => decide (z = y)) = true) : x = .error y := by
  cases x <;> simp_all

/-- A pair whose second part is known. -/
theorem pairOf {α β : Type} {x : α × β} {y : β} (h : x.2 = y) : x = (x.1, y) := by
  cases x; simp_all

/-- The freshness value of a keepalive. -/
theorem freshCount (a b : Nat) : beAt (toBE 4 a ++ toBE 4 b) 0 4 = a % 2 ^ 32 := by
  simp [beAt, fromBE, toBE, octet]; omega

/-- The tag of a keepalive. -/
theorem freshTag (a b : Nat) : beAt (toBE 4 a ++ toBE 4 b) 4 4 = b % 2 ^ 32 := by
  simp [beAt, fromBE, toBE, octet]; omega

/-- What the tag of a keepalive covers. -/
theorem freshHead (a b : Nat) : List.take 4 (toBE 4 a ++ toBE 4 b) = toBE 4 a := by simp [toBE]

/-- A table of consecutive keys lists each of them. -/
theorem listed {α : Type} (f : Nat → α) : ∀ (n b s : Nat), b ≤ s → s < b + n → (nget? ((List.range' b n).map fun i => (i, f i)) s).isSome = true
  | 0, b, s, h, h' => by omega
  | n + 1, b, s, h, h' => by
    by_cases e : b = s
    · subst e; simp [List.range'_succ, nget?]
    · simpa [List.range'_succ, nget?, e] using listed f n (b + 1) s (by omega) (by omega)

/-! ### States and operands that meet the hypotheses of the statements -/


/-- What `Obligations.PathCommands` assumes, clause by clause, holds here. -/
theorem witness_pathCommands :
    up.dev.answers = true ∧ up.dev.Alone ∧ ascii "now" ≠ ascii "take" ∧ [] ≠ ascii "clear" ∧ 4 < 5 ∧ ascii "Clear" ≠ ascii "clear" ∧ 5 ≤ 5 ∧ 1023 < 1024 ∧ 1024 ≤ 1024 :=
  (by unfold Dev.Alone; decide +kernel)
/-- In the certified configuration. -/
def certified : State := upWith fun d => { d with force := [(Reg.certifiedMode.key, .int 1)] }
/-- Aligned, in FRC mode. -/
def aligned : State := upWith fun d => { d with alm := { d.alm with aligned := true, snMode := false }, power := { d.power with state := .ready } }
/-- Aligned in QUIET, with a realignment due. -/
def realignable : State := upWith fun d => { d with alm := { d.alm with aligned := true, realignDue := true } }
/-- One object enabled under law 1. -/
def oneObject : State := upWith fun d => (d.setNat Reg.objectEnable 1 5).setNat Reg.objectLaw 1 5

/-- What `Obligations.AccessCommands` assumes, clause by clause, holds here. -/
theorem witness_accessCommands :
    up.dev.answers = true ∧ up.dev.Alone ∧ up.dev.certified = false ∧ 31 < 32 ∧ (32 ≤ 32 ∨ 32 ≤ 31) ∧ 65535 < 65536 ∧ (32 ≤ 31 ∨ 32 ≤ 31 ∨ 65536 ≤ 65536) ∧
    certified.dev.answers = true ∧ certified.dev.Alone ∧ certified.dev.certified = true ∧ up.dev.alm.snMode = true ∧
    (up.dev.alm.aligned = false ∨ up.dev.flag Reg.timeTestMode = true) ∧
    decimal? (List.takeWhile (fun b => decide (b ≠ octet 46)) (ascii "281474976710655.999999999")) = some 281474976710655 ∧
    decimal? (List.drop ((List.takeWhile (fun b => decide (b ≠ octet 46)) (ascii "281474976710655.999999999")).length + 1) (ascii "281474976710655.999999999")) = some 999999999 ∧
    (List.drop (List.length (ascii "281474976710655.999999999") - 10) (ascii "281474976710655.999999999")).head? = some (octet 46) ∧ 281474976710655 < 2 ^ 48 ∧
    999999999 < 1000000000 ∧ aligned.dev.answers = true ∧ aligned.dev.Alone ∧
    (aligned.dev.certified = true ∨ aligned.dev.alm.snMode = false ∨ aligned.dev.alm.aligned = true ∧ aligned.dev.flag Reg.timeTestMode = false) :=
  (by unfold Dev.Alone; decide +kernel)

/-- What `Obligations.AccessCommands` assumes, clause by clause, holds here (part 2). -/
theorem witness_accessCommands_2 :
    realignable.dev.answers = true ∧ realignable.dev.Alone ∧ realignable.dev.alm.realignDue = true ∧ realignable.dev.alm.aligned = true ∧ up.dev.answers = true ∧
    up.dev.Alone ∧ (up.dev.alm.realignDue = false ∨ up.dev.alm.aligned = false) ∧ ascii "later" ≠ ascii "now" ∧ oneObject.dev.answers = true ∧ oneObject.dev.Alone ∧
    List.filter (fun n => decide (oneObject.dev.nat Reg.objectLaw n ≠ 0)) oneObject.dev.enabledObjects = [5] ∧ oneObject.dev.liftRoom (oneObject.dev.kindLevel 3) = true ∧
    List.filter (fun n => decide (up.dev.nat Reg.objectLaw n ≠ 0)) up.dev.enabledObjects = [] ∧ ascii "5" ≠ ascii "all" :=
  (by unfold Dev.Alone; decide +kernel)
/-- The recorder in a state. -/
def recorder (n : Nat) : State := upWith fun d => (d.setNat Reg.recorderState n).setNat Reg.recorderEnable 0
/-- A frozen recorder, enabled, with the data path running. -/
def frozen : State := upWith fun d => inPower .ready ((d.setNat Reg.recorderState 3).setNat Reg.recorderEnable 1)
/-- A record of the log. -/
def aRecord : LogRec := { kind := 1, sub := 0, code := 0x2001, date := 7, arg := 0, index := 0, unit := 0, seconds := 0, flags := 0, ext := [] }
/-- A log of one record. -/
def logged : State := upWith fun d => { d with log := { d.log with ring := [(1, aRecord)], newest := 1 } }

/-- What `Obligations.RecorderAndLogCommands` assumes, clause by clause, holds here. -/
theorem witness_recorderAndLogCommands :
    (recorder 1).dev.answers = true ∧ (recorder 1).dev.Alone ∧ (recorder 1).dev.nat Reg.recorderState = 1 ∧ (recorder 0).dev.answers = true ∧ (recorder 0).dev.Alone ∧
    (recorder 0).dev.nat Reg.recorderState = 0 ∧ (recorder 3).dev.answers = true ∧ (recorder 3).dev.Alone ∧
    ((recorder 3).dev.nat Reg.recorderState = 2 ∨ (recorder 3).dev.nat Reg.recorderState = 3) ∧ (recorder 3).dev.nat Reg.recorderState = 3 ∧
    ((recorder 3).dev.transfers.any fun t => entryKey t.index t.sub == Reg.recorderRead.key) = false ∧ (recorder 3).dev.flag Reg.recorderEnable = false ∧
    frozen.dev.answers = true ∧ frozen.dev.Alone ∧ frozen.dev.nat Reg.recorderState = 3 ∧
    (frozen.dev.transfers.any fun t => entryKey t.index t.sub == Reg.recorderRead.key) = false ∧ frozen.dev.flag Reg.recorderEnable = true ∧
    frozen.dev.power.state.runs = true ∧ (recorder 2).dev.answers = true ∧ (recorder 2).dev.Alone ∧
    ((recorder 2).dev.nat Reg.recorderState ≠ 3 ∨ ((recorder 2).dev.transfers.any fun t => entryKey t.index t.sub == Reg.recorderRead.key) = true) :=
  (by unfold Dev.Alone; decide +kernel)

/-- What `Obligations.RecorderAndLogCommands` assumes, clause by clause, holds here (part 2). -/
theorem witness_recorderAndLogCommands_2 :
    up.dev.answers = true ∧ up.dev.Alone ∧ splitWords (ascii "date 18446744073709551615") = [ascii "date", ascii "18446744073709551615"] ∧
    decimal? (ascii "18446744073709551615") = some 18446744073709551615 ∧ 18446744073709551615 < 2 ^ 64 ∧
    List.find? (fun p => decide (up.dev.logOldest ≤ p.1) && decide (18446744073709551615 ≤ p.2.date)) up.dev.log.ring = none ∧ logged.dev.answers = true ∧ logged.dev.Alone ∧
    splitWords (ascii "date 7") = [ascii "date", ascii "7"] ∧ decimal? (ascii "7") = some 7 ∧ 7 < 2 ^ 64 ∧
    List.find? (fun p => decide (logged.dev.logOldest ≤ p.1) && decide (7 ≤ p.2.date)) logged.dev.log.ring = some (1, aRecord) ∧ (splitWords (ascii "date")).length ≠ 2 ∧
    ascii "all" ≠ ascii "clear" ∧ certified.dev.answers = true ∧ certified.dev.Alone ∧ certified.dev.inForce Reg.certifiedMode = 1 :=
  (by unfold Dev.Alone; decide +kernel)

/-- What `Obligations.RecorderAndLogCommands` assumes, clause by clause, holds here (part 3). -/
theorem witness_recorderAndLogCommands_3 :
    up.dev.answers = true ∧ up.dev.Alone ∧ up.dev.inForce Reg.certifiedMode ≠ 1 ∧ splitWords (ascii "r 000FFFFFFC") = [ascii "r", ascii "000FFFFFFC"] ∧
    List.length (ascii "000FFFFFFC") = 10 ∧ hex? (ascii "000FFFFFFC") = some 268435452 ∧ 268435452 % 4 = 0 ∧ 1048576 ≤ 268435452 ∧ 268435452 < 268435456 :=
  (by unfold Dev.Alone; decide +kernel)
/-- SHOW. -/
def show_ : State := upWith fun d => inPower .onShow d
/-- The last bank is off. -/
def bankOff : State := upWith fun d => { d with sram := { d.sram with states := [(2559, 0)] } }
/-- A march runs. -/
def marching : State := upWith fun d => { d with sram := { d.sram with march := some { destructive := false, first := 0, last := 0, background := 0, startedAt := 0 } } }

/-- What `Obligations.TestCommands` assumes, clause by clause, holds here. -/
theorem witness_testCommands :
    (bankOff.dev.answers = true ∧ bankOff.dev.Alone ∧ bankOff.dev.certified = false ∧ 2559 ≤ 2559 ∧ 2559 < 2560 ∧ 2 ≤ 2 ∧ bankOff.dev.sram.march = none ∧
    up.dev.answers = true ∧ up.dev.Alone ∧ 0 ≤ 0 ∧ 0 < 2560 ∧ up.dev.sram.march = none ∧ up.dev.power.state.runs = false ∧ (2560 < 0 ∨ 2560 ≤ 2560) ∧
    marching.dev.answers = true ∧ marching.dev.Alone ∧ (marching.dev.certified = true ∨ 2559 ≤ 2559 ∧ 2559 < 2560 ∧ 2 ≤ 2 ∧ marching.dev.sram.march.isSome = true) ∧
    marching.dev.sram.march.isSome = true) ∧ (∀ (i : ℕ), 2559 ≤ i → i ≤ 2559 → bankOff.dev.bankState i = 0) ∧
    (∀ (i : ℕ), 2559 ≤ i → i ≤ 2559 → bankOff.dev.bankState i = 0 ∨ bankOff.dev.bankState i = 1) ∧ (∀ (i : ℕ), 0 ≤ i → i ≤ 0 → bankGroup i ≠ 11) :=
  ⟨(by unfold Dev.Alone; decide +kernel), (by intro i a b; obtain rfl : i = 2559 := Nat.le_antisymm b a; decide +kernel),
    (by intro i a b; obtain rfl : i = 2559 := Nat.le_antisymm b a; decide +kernel), (by intro i a b; obtain rfl : i = 0 := Nat.le_zero.mp b; decide +kernel)⟩

/-- What `Obligations.TestCommands` assumes, clause by clause, holds here (part 2). -/
theorem witness_testCommands_2 :
    up.dev.answers = true ∧ up.dev.Alone ∧ up.dev.certified = false ∧ (0 < 0 ∨ 2560 ≤ 0 ∨ 2 < 3) ∧ 3 < 4 ∧ ascii "x" ≠ up.dev.bytes Reg.serialNumber ∧ 4 ≤ 4 ∧
    (up.dev.power.state = PowerState.quiet ∨ up.dev.power.state = PowerState.ready) ∧ up.dev.season.test = none ∧ show_.dev.answers = true ∧ show_.dev.Alone ∧
    (show_.dev.power.state ≠ PowerState.quiet ∧ show_.dev.power.state ≠ PowerState.ready ∨ show_.dev.season.test.isSome = true) :=
  (by unfold Dev.Alone; decide +kernel)
/-- A nonce is open. -/
def challenged : State := upWith fun d => { d with sec := { d.sec with nonce := some [octet 1] } }
/-- Firmware slot B holds an image in a state. -/
def slotB (n : Nat) : State := upWith fun d => { d with sec := { d.sec with slots := ⟨[{ state := 3, image := [], begun := true }, { state := n, image := [], begun := true }], rfl⟩ } }
/-- A trial runs. -/
def trial : State := upWith fun d => { d with power := { d.power with state := .ready }, sec := { d.sec with trial := true } }

/-- What `Obligations.SecurityCommands` assumes, clause by clause, holds here. -/
theorem witness_securityCommands :
    up.dev.answers = true ∧ up.dev.Alone ∧ splitWords (ascii "erase 1001 05") = [ascii "erase", ascii "1001", ascii "05"] ∧ hex? (ascii "1001") = some 4097 ∧
    hex? (ascii "05") = some 5 ∧ List.length (ascii "1001") = 4 ∧ List.length (ascii "05") = 2 ∧ (Dev.keySlot 4097 5).isSome = true ∧
    splitWords (ascii "erase 1000 05") = [ascii "erase", ascii "1000", ascii "05"] ∧ hex? (ascii "1000") = some 4096 ∧ (Dev.keySlot 4096 5).isSome = false ∧
    up.dev.inForce Reg.certifiedMode ≠ 1 ∧ challenged.dev.answers = true ∧ challenged.dev.Alone ∧ challenged.dev.inForce Reg.certifiedMode ≠ 1 ∧
    (List.replicate 96 (octet 0)).length = 96 ∧ challenged.dev.sec.nonce = some [octet 1] ∧ (List.replicate 97 (octet 0)).length ≠ 96 ∧ up.dev.sec.nonce = none ∧
    certified.dev.answers = true ∧ certified.dev.Alone ∧ certified.dev.inForce Reg.certifiedMode = 1 :=
  (by unfold Dev.Alone; decide +kernel)

/-- What `Obligations.SecurityCommands` assumes, clause by clause, holds here (part 2). -/
theorem witness_securityCommands_2 :
    (slotB 5).dev.answers = true ∧ (slotB 5).dev.Alone ∧
    (((slotB 5).dev.slot (1 - (slotB 5).dev.sec.running)).state = 2 ∨ ((slotB 5).dev.slot (1 - (slotB 5).dev.sec.running)).state = 5) ∧ (slotB 5).dev.sec.trial = false ∧
    (slotB 5).dev.uploading = false ∧ (slotB 5).dev.power.state ≠ PowerState.onShow ∧ (slotB 5).dev.power.tripped = false ∧ (slotB 4).dev.answers = true ∧
    (slotB 4).dev.Alone ∧
    (((slotB 4).dev.slot (1 - (slotB 4).dev.sec.running)).state ≠ 2 ∧ ((slotB 4).dev.slot (1 - (slotB 4).dev.sec.running)).state ≠ 5 ∨ (slotB 4).dev.sec.trial = true ∨ (slotB 4).dev.uploading = true ∨ (slotB 4).dev.power.state = PowerState.onShow) ∧
    up.dev.answers = true ∧ up.dev.Alone ∧ (up.dev.sec.trial = false ∨ up.dev.power.state.runs = false) ∧ trial.dev.answers = true ∧ trial.dev.Alone ∧
    trial.dev.sec.trial = true ∧ trial.dev.power.state.runs = true ∧ trial.dev.sec.running ≤ 1 ∧ up.dev.sec.trial = false :=
  (by unfold Dev.Alone; decide +kernel)
/-- Slot 7 is armed. -/
def armed : State := upWith fun d => { (d.setNat Reg.perturbArmed 128).setNat Reg.perturbSlotState 2 7 with perturb := { d.perturb with armed := [{ slot := 7, armedAt := 0, next := 0, done := 0 }] } }
/-- A module whose serial number is known. -/
def known : State := upWith fun d => { d with regs := nput d.regs Reg.serialNumber.key (.bytes [octet 7]) }

/-- What `Obligations.PerturbCommands` assumes, clause by clause, holds here. -/
theorem witness_perturbCommands :
    up.dev.answers = true ∧ up.dev.Alone ∧ up.dev.perturbClosed = false ∧ up.dev.power.state ≠ PowerState.onShow ∧ 7 < 8 ∧ known.dev.answers = true ∧ known.dev.Alone ∧
    known.dev.perturbClosed = false ∧ known.dev.power.state ≠ PowerState.onShow ∧ ascii "8" ≠ known.dev.bytes Reg.serialNumber ∧ 8 ≤ 8 ∧ show_.dev.answers = true ∧
    show_.dev.Alone ∧ (show_.dev.perturbClosed = true ∨ show_.dev.power.state = PowerState.onShow) ∧ certified.dev.answers = true ∧ certified.dev.Alone ∧
    certified.dev.perturbClosed = true ∧ armed.dev.answers = true ∧ armed.dev.Alone ∧ armed.dev.perturbClosed = false ∧ 6 < 8 ∧ armed.dev.slotArmed 6 = false :=
  (by unfold Dev.Alone; decide +kernel)

/-- What `Obligations.PerturbCommands` assumes, clause by clause, holds here (part 2). -/
theorem witness_perturbCommands_2 :
    armed.dev.answers = true ∧ armed.dev.Alone ∧ armed.dev.perturbClosed = false ∧ 7 < 8 ∧ armed.dev.slotArmed 7 = true ∧ 8 ≤ 8 :=
  (by unfold Dev.Alone; decide +kernel)
/-- READY. -/
def ready : State := upWith fun d => inPower .ready d
/-- FAULT. -/
def faulted : State := upWith fun d => inPower .fault d

/-- What `Obligations.PowerCommands` assumes, clause by clause, holds here. -/
theorem witness_powerCommands :
    up.dev.answers = true ∧ up.dev.Alone ∧ up.dev.power.state ≠ PowerState.onShow ∧ up.dev.power.tripped = false ∧ [] ≠ ascii "reset" ∧ show_.dev.answers = true ∧
    show_.dev.Alone ∧ show_.dev.power.state = PowerState.onShow ∧ up.dev.power.state = PowerState.quiet ∧
    (show_.dev.power.state = PowerState.ready ∨ show_.dev.power.state = PowerState.onShow) ∧ faulted.dev.answers = true ∧ faulted.dev.Alone ∧
    faulted.dev.power.state ≠ PowerState.quiet ∧ faulted.dev.power.state ≠ PowerState.ready ∧ faulted.dev.power.state ≠ PowerState.onShow ∧ ready.dev.answers = true ∧
    ready.dev.Alone ∧ (ready.dev.power.state = PowerState.ready ∨ ready.dev.power.state = PowerState.onShow) ∧ ready.dev.power.state ≠ PowerState.quiet ∧
    up.dev.nat Reg.pairState ≠ 2 ∧ up.dev.headsGroup = true ∧ (show_.dev.power.state = PowerState.onShow ∨ show_.dev.headsGroup = false) :=
  (by unfold Dev.Alone; decide +kernel)

/-- What `Obligations.PowerCommands` assumes, clause by clause, holds here (part 2). -/
theorem witness_powerCommands_2 :
    up.dev.answers = true ∧ up.dev.Alone ∧ [] ≠ ascii "now" :=
  (by unfold Dev.Alone; decide +kernel)
/-- A lead whose partner is ready. -/
def lead : State := upWith fun d => (paired 2 d).setNat Reg.partnerHealth 255
/-- The lead while an audit runs. -/
def auditing : State := { lead with dev := { lead.dev with pair := { lead.dev.pair with audit := some { block := 0, point := 0, first := 0, disputed := [] } } } }
/-- A lead whose partner is not ready. -/
def leadAlone : State := upWith fun d => (paired 2 d).setNat Reg.partnerHealth 254

/-- What `Obligations.HandoverCommand` assumes, clause by clause, holds here. -/
theorem witness_handoverCommand :
    lead.dev.answers = true ∧ lead.dev.power.resetDue = none ∧ lead.dev.power.offDue = false ∧ lead.dev.nat Reg.pairState = 2 ∧ lead.dev.pair.handover = none ∧
    lead.dev.nat Reg.partnerHealth % 256 = 255 ∧ lead.dev.pair.audit = none ∧ auditing.dev.answers = true ∧ auditing.dev.power.resetDue = none ∧
    auditing.dev.power.offDue = false ∧ auditing.dev.nat Reg.pairState = 2 ∧ auditing.dev.pair.handover = none ∧ auditing.dev.nat Reg.partnerHealth % 256 = 255 ∧
    auditing.dev.pair.audit ≠ none ∧ leadAlone.dev.answers = true ∧ leadAlone.dev.power.resetDue = none ∧ leadAlone.dev.power.offDue = false ∧
    leadAlone.dev.nat Reg.pairState = 2 ∧ (leadAlone.dev.pair.handover ≠ none ∨ leadAlone.dev.nat Reg.partnerHealth % 256 ≠ 255) :=
  (by decide +kernel)
/-- A slot table that names no slot. -/
def table : Octets := List.replicate 128 (octet 0xFF)
/-- A warn limit as written. -/
def warnSet : State := upWith fun d => { d with regs := nput d.regs (Reg.sensorWarnHigh.key 10) (.int 3465) }
/-- The last receive flow uses bank B, the last transmit flow too. -/
def bankB : State := upWith fun d => (d.setNat Reg.rxBank 1 1023).setNat Reg.txBank 1 1023

/-- What `Obligations.ValueWrites` assumes, clause by clause, holds here. -/
theorem witness_valueWrites :
    (up.dev.answers = true ∧ up.dev.Alone ∧ 1 ≤ 1 ∧ 0 < 13 ∧ warnSet.dev.answers = true ∧ warnSet.dev.Alone ∧ 10 < 13 ∧ 9 < 10 ∧ 7 ≤ 7 ∧ 3 < 4 ∧ 4294967295 < 2 ^ 32 ∧ 0 < 4) ∧
    up.dev.Takes Reg.showRequest 0 (Val.int (↑1 : ℤ)) ∧ up.dev.Takes Reg.sensorWarnHigh 0 (Val.int 11600) ∧ warnSet.dev.Takes Reg.sensorWarnLow 10 (Val.int 3000) ∧
    up.dev.Takes Reg.timeTestMode 0 (Val.int (↑1 : ℤ)) ∧ up.dev.Takes Reg.arbPriorityDefault 9 (Val.int (↑7 : ℤ)) ∧
    up.dev.Takes Reg.tdmTxMaskPending 3 (Val.int (↑4294967295 : ℤ)) ∧ up.dev.Takes Reg.tdmRxMaskPending 0 (Val.int (↑4294967295 : ℤ)) :=
  ⟨(by unfold Dev.Alone; decide +kernel), ⟨⟨_, rfl⟩, by decide +kernel⟩, ⟨⟨_, rfl⟩, by decide +kernel⟩, ⟨⟨_, rfl⟩, by decide +kernel⟩, ⟨⟨_, rfl⟩, by decide +kernel⟩,
    ⟨⟨_, rfl⟩, by decide +kernel⟩, ⟨⟨_, rfl⟩, by decide +kernel⟩, ⟨⟨_, rfl⟩, by decide +kernel⟩⟩

/-- What `Obligations.ValueWrites` assumes, clause by clause, holds here (part 2). -/
theorem witness_valueWrites_2 :
    (bankB.dev.answers = true ∧ bankB.dev.Alone ∧ 1023 < 1024 ∧
    (false, 0, Reg.rxSlotsA) ∈ [(false, 0, Reg.rxSlotsA), (false, 1, Reg.rxSlotsB), (true, 0, Reg.txSlotsA), (true, 1, Reg.txSlotsB)] ∧ up.dev.answers = true ∧ up.dev.Alone ∧
    0 < 1024 ∧ (false, 1, Reg.rxSlotsB) ∈ [(false, 0, Reg.rxSlotsA), (false, 1, Reg.rxSlotsB), (true, 0, Reg.txSlotsA), (true, 1, Reg.txSlotsB)] ∧
    (true, 0, Reg.txSlotsA) ∈ [(false, 0, Reg.rxSlotsA), (false, 1, Reg.rxSlotsB), (true, 0, Reg.txSlotsA), (true, 1, Reg.txSlotsB)] ∧
    (true, 1, Reg.txSlotsB) ∈ [(false, 0, Reg.rxSlotsA), (false, 1, Reg.rxSlotsB), (true, 0, Reg.txSlotsA), (true, 1, Reg.txSlotsB)] ∧ (1024 ≤ 1024 ∨ 2 ≤ 0) ∧
    (1024 ≤ 0 ∨ 2 ≤ 2)) ∧ bankB.dev.Takes Reg.rxSlotsA 1023 (Val.bytes table) ∧ up.dev.Takes Reg.rxSlotsB 0 (Val.bytes table) ∧
    bankB.dev.Takes Reg.txSlotsA 1023 (Val.bytes table) ∧ up.dev.Takes Reg.txSlotsB 1023 (Val.bytes table) ∧ (¬up.dev.Takes Reg.showRequest 0 (Val.int (↑2 : ℤ))) ∧
    (¬up.dev.Takes Reg.sensorWarnHigh 8 (Val.int 0)) ∧ (¬up.dev.Takes Reg.timeTestMode 0 (Val.int (↑2 : ℤ))) ∧ (¬up.dev.Takes Reg.arbPriorityDefault 9 (Val.int (↑8 : ℤ))) ∧
    (¬up.dev.Takes Reg.tdmTxMaskPending 3 (Val.int (↑4294967296 : ℤ))) ∧ (¬up.dev.Takes Reg.rxSlotsA 0 (Val.bytes [])) :=
  ⟨(by unfold Dev.Alone; decide +kernel), ⟨⟨_, rfl⟩, by decide +kernel⟩, ⟨⟨_, rfl⟩, by decide +kernel⟩, ⟨⟨_, rfl⟩, by decide +kernel⟩, ⟨⟨_, rfl⟩, by decide +kernel⟩,
    fun h => absurd h.2.2 (by decide +kernel), fun h => absurd h.2.2 (by decide +kernel), fun h => absurd h.2.2 (by decide +kernel),
    fun h => absurd h.2.2 (by decide +kernel), fun h => absurd h.2.2 (by decide +kernel), fun h => absurd h.2.2 (by decide +kernel)⟩

/-- What `Obligations.ConfigWrites` assumes, clause by clause, holds here. -/
theorem witness_configWrites :
    (up.dev.answers = true ∧ up.dev.Alone ∧ Reg.fecMode ∈ [Reg.portEnable, Reg.speedMode, Reg.fecMode] ∧ 3 < 5 ∧
    Reg.portEnable ∈ [Reg.portEnable, Reg.speedMode, Reg.fecMode] ∧ 0 < 5 ∧ Reg.speedMode ∈ [Reg.portEnable, Reg.speedMode, Reg.fecMode] ∧ Reg.tdmRole ∈ Dev.tdmRows ∧ 3 < 4 ∧
    Reg.tdmSlots ∈ Dev.tdmRows ∧ Reg.dradaRateMode ∈ [Reg.dradaEnable, Reg.dradaRateMode, Reg.dradaFecMode, Reg.dradaMacsec] ∧ 2 < 3 ∧
    Reg.dradaEnable ∈ [Reg.dradaEnable, Reg.dradaRateMode, Reg.dradaFecMode, Reg.dradaMacsec] ∧ 0 < 3) ∧ up.dev.Takes Reg.fecMode 3 (Val.int (↑2 : ℤ)) ∧
    up.dev.Takes Reg.portEnable 0 (Val.int (↑0 : ℤ)) ∧ (¬up.dev.Takes Reg.speedMode 0 (Val.int (↑3 : ℤ))) ∧ up.dev.Takes Reg.tdmRole 3 (Val.int (↑1 : ℤ)) ∧
    up.dev.Takes Reg.tdmSlots 3 (Val.int (↑0 : ℤ)) ∧ (¬up.dev.Takes Reg.tdmRole 3 (Val.int (↑2 : ℤ))) ∧ up.dev.Takes Reg.dradaRateMode 2 (Val.int (↑2 : ℤ)) ∧
    up.dev.Takes Reg.dradaEnable 0 (Val.int (↑0 : ℤ)) :=
  ⟨(by unfold Dev.Alone; decide +kernel), ⟨⟨_, rfl⟩, by decide +kernel⟩, ⟨⟨_, rfl⟩, by decide +kernel⟩, fun h => absurd h.2.2 (by decide +kernel),
    ⟨⟨_, rfl⟩, by decide +kernel⟩, ⟨⟨_, rfl⟩, by decide +kernel⟩, fun h => absurd h.2.2 (by decide +kernel), ⟨⟨_, rfl⟩, by decide +kernel⟩, ⟨⟨_, rfl⟩, by decide +kernel⟩⟩

/-- What `Obligations.ConfigWrites` assumes, clause by clause, holds here (part 2). -/
theorem witness_configWrites_2 :
    (up.dev.answers = true ∧ up.dev.Alone ∧ Reg.dradaFecMode ∈ [Reg.dradaEnable, Reg.dradaRateMode, Reg.dradaFecMode, Reg.dradaMacsec] ∧
    Reg.mapEnable ∈ [Reg.mapEnable, Reg.mapUdpPort, Reg.mapSource, Reg.mapInterface, Reg.mapObjectBase, Reg.mapObjectCount] ∧ 15 < 16 ∧
    Reg.mapObjectCount ∈ [Reg.mapEnable, Reg.mapUdpPort, Reg.mapSource, Reg.mapInterface, Reg.mapObjectBase, Reg.mapObjectCount] ∧ 0 < 16 ∧
    Reg.mapUdpPort ∈ [Reg.mapEnable, Reg.mapUdpPort, Reg.mapSource, Reg.mapInterface, Reg.mapObjectBase, Reg.mapObjectCount] ∧
    2 ∉ [Reg.portEnable.sub, Reg.speedMode.sub, Reg.fecMode.sub] ∧ 0 ∉ List.map Row.sub Dev.tdmRows ∧
    5 ∉ [Reg.dradaEnable.sub, Reg.dradaRateMode.sub, Reg.dradaFecMode.sub, Reg.dradaMacsec.sub] ∧
    7 ∉ [Reg.mapEnable.sub, Reg.mapUdpPort.sub, Reg.mapSource.sub, Reg.mapInterface.sub, Reg.mapObjectBase.sub, Reg.mapObjectCount.sub]) ∧
    (¬up.dev.Takes Reg.dradaFecMode 0 (Val.int (↑4 : ℤ))) ∧ up.dev.Takes Reg.mapEnable 15 (Val.int (↑1 : ℤ)) ∧ up.dev.Takes Reg.mapObjectCount 0 (Val.int (↑65535 : ℤ)) ∧
    (¬up.dev.Takes Reg.mapUdpPort 0 (Val.int (↑65536 : ℤ))) :=
  ⟨(by unfold Dev.Alone; decide +kernel), fun h => absurd h.2.2 (by decide +kernel), ⟨⟨_, rfl⟩, by decide +kernel⟩, ⟨⟨_, rfl⟩, by decide +kernel⟩,
    fun h => absurd h.2.2 (by decide +kernel)⟩
/-- The watchdog runs, and this much time has passed. -/
def kicked (n : Nat) : State := upWith fun d => { d with sup := { d.sup with kickAt := some 0 }, clock := n }
/-- The remap is set. -/
def remapped : State := upWith fun d => { d with sup := { d.sup with remap := true } }
/-- Held in reset, the rails off. -/
def starting : State := upWith fun d => { d with power := { d.power with state := .boot, held := true, rails := false } }

/-- What `Obligations.SupervisorControl` assumes, clause by clause, holds here. -/
theorem witness_supervisorControl :
    starting.dev.live = false ∧ up.dev.live = true ∧ up.dev.power.tripped = false ∧ up.dev.sup.remap = false ∧ remapped.dev.sup.remap = true ∧
    (kicked (Dev.msCycles 10)).dev.live = true ∧ (kicked (Dev.msCycles 10)).dev.sup.kickAt = some 0 ∧ 0 + Dev.msCycles 10 ≤ (kicked (Dev.msCycles 10)).dev.clock ∧
    (kicked (Dev.msCycles 10)).dev.clock < 0 + Dev.msCycles 100 ∧ (kicked (Dev.msCycles 100 - 1)).dev.live = true ∧ (kicked (Dev.msCycles 100 - 1)).dev.sup.kickAt = some 0 ∧
    0 + Dev.msCycles 10 ≤ (kicked (Dev.msCycles 100 - 1)).dev.clock ∧ (kicked (Dev.msCycles 100 - 1)).dev.clock < 0 + Dev.msCycles 100 ∧ up.dev.sup.kickAt = none ∧
    (kicked (Dev.msCycles 10 - 1)).dev.live = true ∧ (kicked (Dev.msCycles 10 - 1)).dev.power.tripped = false ∧ (kicked (Dev.msCycles 10 - 1)).dev.sup.kickAt = some 0 ∧
    ((kicked (Dev.msCycles 10 - 1)).dev.clock < 0 + Dev.msCycles 10 ∨ 0 + Dev.msCycles 100 ≤ (kicked (Dev.msCycles 10 - 1)).dev.clock) ∧
    (kicked (Dev.msCycles 100)).dev.live = true ∧ (kicked (Dev.msCycles 100)).dev.power.tripped = false ∧ (kicked (Dev.msCycles 100)).dev.sup.kickAt = some 0 ∧
    ((kicked (Dev.msCycles 100)).dev.clock < 0 + Dev.msCycles 10 ∨ 0 + Dev.msCycles 100 ≤ (kicked (Dev.msCycles 100)).dev.clock) :=
  (by decide +kernel)

/-- What `Obligations.SupervisorControl` assumes, clause by clause, holds here (part 2). -/
theorem witness_supervisorControl_2 :
    (kicked 1).dev.live = true ∧ (kicked 1).dev.power.tripped = false ∧ (kicked 1).dev.sup.kickAt = some 0 ∧ (kicked 1).dev.Reaches (0 + Dev.msCycles 100) :=
  (by unfold Dev.Reaches; decide +kernel)
/-- The core's sensor in a state. -/
def hot (n : Nat) : State := upWith fun d => (d.setNat Reg.sensorState n 2).setNat Reg.fanMode 1
/-- The fan turns too slowly. -/
def slowFan : State := upWith fun d => { d with sup := { d.sup with fanSlowSince := some 0 } }

/-- What `Obligations.SensorsAndFan` assumes, clause by clause, holds here. -/
theorem witness_sensorsAndFan :
    up.dev.answers = true ∧ up.dev.Reaches (up.dev.timerFrom 160 + Dev.usCycles 250) ∧ up.dev.perturb.sensors = [] ∧ (hot 3).dev.answers = true ∧
    (hot 3).dev.Reaches ((hot 3).dev.timerFrom 161 + Dev.msCycles 100) ∧ (hot 1).dev.answers = true ∧ (hot 1).dev.Reaches ((hot 1).dev.timerFrom 161 + Dev.msCycles 100) ∧
    up.dev.Reaches (up.dev.timerFrom 161 + Dev.msCycles 100) ∧ slowFan.dev.answers = true ∧ slowFan.dev.sup.fanSlowSince = some 0 ∧ slowFan.dev.sup.fanStalled = false ∧
    slowFan.dev.Reaches (0 + Dev.secCycles 2) ∧ up.dev.Reaches (up.dev.timerFrom 162 + Dev.secCycles 1) :=
  (by unfold Dev.Reaches; decide +kernel)
/-- A trial whose confirmation is due. -/
def confirming : State := { trial with dev := { trial.dev with sec := { trial.dev.sec with readySince := some 0 } } }
/-- A measurement is asked for. -/
def measuring : State := upWith fun d => d.setSeason fun s => { s with extra := true }

/-- What `Obligations.SeasonEvents` assumes, clause by clause, holds here. -/
theorem witness_seasonEvents :
    up.dev.answers = true ∧ 1000 ≠ 0 ∧ up.dev.season.extra = false ∧ up.dev.Reaches up.dev.season.measureAt ∧ measuring.dev.answers = true ∧ 1 ≠ 0 ∧
    measuring.dev.season.extra = true ∧ up.dev.Reaches (up.dev.timerFrom 163 + Dev.secCycles 60) ∧ confirming.dev.answers = true ∧ confirming.dev.sec.readySince = some 0 ∧
    confirming.dev.sec.trial = true ∧ confirming.dev.Reaches (0 + Dev.msCycles (confirming.dev.nat Reg.confirmDelay)) ∧ confirming.dev.sec.running ≤ 1 ∧
    (up.dev.sec.readySince = none ∨ up.dev.sec.trial = false) :=
  (by unfold Dev.Reaches; decide +kernel)
/-- A self-test of a kind runs. -/
def testing (k : Nat) : State := upWith fun d => { inPower .ready d with season := { d.season with test := some (k, 0) } }
/-- Slot 7 armed in block 0. -/
def armed7 : Armed := { slot := 7, armedAt := 0, next := 0, done := 0 }
/-- Slot 7 armed for a lockstep mismatch. -/
def armedLockstep : State :=
  { armed with dev := { armed.dev with regs := nput armed.dev.regs (Reg.perturbSlot.key 7) (.bytes (List.replicate 23 (octet 0) ++ [octet 0x37])) } }

/-- What `Obligations.TestEvents` assumes, clause by clause, holds here. -/
theorem witness_testEvents :
    up.dev.answers = true ∧ up.dev.Reaches (up.dev.timerFrom 164 + Dev.msCycles (up.dev.nat Reg.checkerTestPeriod)) ∧ ready.dev.answers = true ∧
    ready.dev.Reaches (ready.dev.timerFrom 164 + Dev.msCycles (ready.dev.nat Reg.checkerTestPeriod)) ∧ ready.dev.power.state ≠ PowerState.fault ∧
    ready.dev.power.state ≠ PowerState.boot ∧ (testing 4).dev.answers = true ∧ (testing 4).dev.season.test = some (4, 0) ∧ 4 ≤ 4 ∧ (testing 1).dev.answers = true ∧
    (testing 1).dev.season.test = some (1, 0) ∧ 1 ≤ 1 ∧ 1 ≤ 4 ∧ (testing 1).dev.power.state ≠ PowerState.fault ∧ (testing 1).dev.power.state ≠ PowerState.boot ∧
    (testing 4).dev.power.state ≠ PowerState.fault ∧ (testing 4).dev.power.state ≠ PowerState.boot ∧ up.dev.season.test = none ∧ armed.dev.answers = true ∧
    List.find? (fun a => a.slot == 7) armed.dev.perturb.armed = some armed7 ∧ armed7.next ≤ armed.dev.blockDate ∧ (armed.dev.slotOf 7).kind ≠ 55 :=
  (by unfold Dev.Reaches; decide +kernel)

/-- What `Obligations.TestEvents` assumes, clause by clause, holds here (part 2). -/
theorem witness_testEvents_2 :
    (armedLockstep.dev.answers = true ∧ List.find? (fun a => a.slot == 7) armedLockstep.dev.perturb.armed = some armed7 ∧ armed7.next ≤ armedLockstep.dev.blockDate ∧
    (armedLockstep.dev.slotOf 7).kind = 55 ∧ (armedLockstep.dev.slotOf 7).target = 0 ∧ armedLockstep.dev.power.tripped = false ∧ armed.dev.answers = true ∧
    List.find? (fun a => a.slot == 7) armed.dev.perturb.armed = some armed7 ∧ armed.dev.slotArmed 7 = true ∧
    armed.dev.Reaches (armed7.armedAt + Dev.msCycles (armed.dev.nat Reg.perturbTimeout))) ∧
    (∀ (a : Armed), List.find? (fun a => a.slot == 6) armed.dev.perturb.armed = some a → armed.dev.blockDate < a.next) :=
  ⟨(by unfold Dev.Reaches; decide +kernel), (by intro a h; rw [show (armed.dev.perturb.armed.find? fun a => a.slot == 6) = none from by decide +kernel] at h; cases h)⟩
/-- The test access port is unlocked. -/
def unlocked : State := upWith fun d => d.setNat Reg.jtagState 1

/-- What `Obligations.TestAccessPort` assumes, clause by clause, holds here. -/
theorem witness_testAccessPort :
    starting.dev.live = false ∧ up.dev.live = true ∧ up.dev.nat Reg.jtagState = 0 ∧ unlocked.dev.live = true ∧ unlocked.dev.nat Reg.jtagState ≠ 0 :=
  (by decide +kernel)
/-- Off, without supply. -/
def off : State := upWith fun d => { inPower .off d with power := { (inPower .off d).power with vin := false } }
/-- Off for overvoltage. -/
def overvoltage : State := upWith fun d => { d with power := { d.power with state := .off, overVoltage := true } }
/-- Off season. -/
def offSeason : State := upWith fun d => inPower .offseason d
/-- Off for overvoltage, VIN gone since. -/
def overGone : State := upWith fun d => { d with power := { d.power with state := .off, overVoltage := true, vin := false } }
/-- Latched off with VIN good. -/
def latched : State := upWith fun d => { d with power := { d.power with state := .off, latchedOff := true } }

/-- What `Obligations.SupplyEvents` assumes, clause by clause, holds here. -/
theorem witness_supplyEvents :
    off.dev.power.vin = false ∧ off.dev.power.state = PowerState.off ∧ off.dev.power.overVoltage = false ∧ overGone.dev.power.vin = false ∧
    overGone.dev.power.overVoltage = true ∧ up.dev.power.vin = true ∧ offSeason.dev.power.vin = true ∧ offSeason.dev.power.overVoltage = false ∧
    offSeason.dev.power.state = PowerState.offseason ∧ overvoltage.dev.power.overVoltage = true ∧ up.dev.power.overVoltage = false ∧
    up.dev.power.state ≠ PowerState.offseason ∧ overvoltage.dev.power.state = PowerState.off ∧ overvoltage.dev.power.vin = true ∧ latched.dev.power.state = PowerState.off ∧
    latched.dev.power.latchedOff = true ∧ latched.dev.power.vin = true ∧ latched.dev.power.overVoltage = false ∧
    (up.dev.power.state ≠ PowerState.off ∨ up.dev.power.latchedOff = false ∨ up.dev.power.vin = false ∨ up.dev.power.overVoltage = true) :=
  (by decide +kernel)
/-- The rails have tripped; so many restarts are left. -/
def tripped (limit : Nat) : State := upWith fun d => { inPower .fault d with power := { (inPower .fault d).power with rails := false, pgood := false, tripped := true } }.setNat Reg.faultRestartLimit limit
/-- In FAULT with automatic restarts; so many are left. -/
def restarting (limit : Nat) : State := upWith fun d => ((inPower .fault d).setNat Reg.faultAutoReset 1).setNat Reg.faultRestartLimit limit

/-- What `Obligations.RailEvents` assumes, clause by clause, holds here. -/
theorem witness_railEvents :
    starting.dev.power.state = PowerState.boot ∧ starting.dev.power.held = true ∧ starting.dev.power.rails = false ∧ (tripped 1).dev.live = true ∧
    (tripped 1).dev.power.tripped = true ∧ State.reset.dev.power.state = PowerState.boot ∧ State.reset.dev.power.held = true ∧ State.reset.dev.power.rails = true ∧
    up.dev.answers = true ∧ up.dev.power.state ≠ PowerState.fault ∧ up.dev.power.state ≠ PowerState.boot ∧ (tripped 1).dev.power.rails = false ∧
    (tripped 1).dev.Reaches ((tripped 1).dev.power.tripAt + Dev.msCycles 1) ∧
    (Dev.advanceTo ((tripped 1).dev.power.tripAt + Dev.msCycles 1) (tripped 1).dev).restartAllowed = true ∧ (tripped 0).dev.live = true ∧ (tripped 0).dev.power.rails = false ∧
    (tripped 0).dev.Reaches ((tripped 0).dev.power.tripAt + Dev.msCycles 1) ∧
    (Dev.advanceTo ((tripped 0).dev.power.tripAt + Dev.msCycles 1) (tripped 0).dev).restartAllowed = false :=
  (by unfold Dev.Reaches; decide +kernel)

/-- What `Obligations.RailEvents` assumes, clause by clause, holds here (part 2). -/
theorem witness_railEvents_2 :
    (restarting 1).dev.live = true ∧ (restarting 1).dev.power.state = PowerState.fault ∧ (restarting 1).dev.power.latchedOff = false ∧
    (restarting 1).dev.flag Reg.faultAutoReset = true ∧
    (restarting 1).dev.Reaches ((restarting 1).dev.power.faultAt + Dev.msCycles ((restarting 1).dev.nat Reg.faultRestartDelay)) ∧ (restarting 1).dev.power.tripped = false ∧
    (Dev.advanceTo ((restarting 1).dev.power.faultAt + Dev.msCycles ((restarting 1).dev.nat Reg.faultRestartDelay)) (restarting 1).dev).restartAllowed = true ∧
    (restarting 0).dev.live = true ∧ (restarting 0).dev.power.state = PowerState.fault ∧ (restarting 0).dev.power.latchedOff = false ∧
    (restarting 0).dev.flag Reg.faultAutoReset = true ∧
    (restarting 0).dev.Reaches ((restarting 0).dev.power.faultAt + Dev.msCycles ((restarting 0).dev.nat Reg.faultRestartDelay)) ∧
    (Dev.advanceTo ((restarting 0).dev.power.faultAt + Dev.msCycles ((restarting 0).dev.nat Reg.faultRestartDelay)) (restarting 0).dev).restartAllowed = false :=
  (by unfold Dev.Reaches; decide +kernel)
/-- nRESET is low. -/
def resetLow : State := upWith fun d => { d with power := { d.power with nreset := false } }
/-- What BOOT finds on a lone module. -/
def facts : BootFacts :=
  { bootSel := true, rolePref := true, pairPresent := true, failing := [], arrayBad := false, marchUs := 9000, katBad := false, trainBad := [], eyes := [], flashBad := [], mramBad := [] }
/-- BOOT has begun. -/
def booting (bad : Bool) : State := upWith fun d => { d with power := { d.power with state := .boot, bootFault := bad } }
/-- The data path is to stop at the next boundary. -/
def stopping : State := upWith fun d => { d with power := { d.power with state := .ready, stopDue := true } }
/-- What BOOT finds on a pair module. -/
def pairFacts : BootFacts := { facts with pairPresent := false }
/-- FAULT with the data path to be stopped. -/
def stoppingFault : State := upWith fun d => { d with power := { d.power with state := .fault, stopDue := true } }

/-- What `Obligations.ResetEvents` assumes, clause by clause, holds here. -/
theorem witness_resetEvents :
    up.dev.live = true ∧ up.dev.power.tripped = false ∧ (tripped 1).dev.live = true ∧ (tripped 1).dev.power.tripped = true ∧ State.reset.dev.power.state = PowerState.boot ∧
    State.reset.dev.power.held = true ∧ up.dev.power.nreset = true ∧
    (resetLow.dev.power.state ≠ PowerState.boot ∨ resetLow.dev.power.held = false ∨ resetLow.dev.power.rails = false ∨ resetLow.dev.power.nreset = false) ∧
    (offSeason.dev.power.state = PowerState.off ∨ offSeason.dev.power.state = PowerState.offseason) ∧ resetLow.dev.power.nreset = false ∧ State.reset.dev.power.rails = true ∧
    State.reset.dev.power.nreset = true ∧ (up.dev.power.state ≠ PowerState.boot ∨ up.dev.power.held = true ∨ up.dev.sec.stopped = true) ∧
    (booting false).dev.power.state = PowerState.boot ∧ (booting false).dev.power.held = false ∧ (booting false).dev.sec.stopped = false ∧
    (booting true).dev.power.state = PowerState.boot ∧ (booting true).dev.power.held = false ∧ (booting true).dev.sec.stopped = false ∧ stopping.dev.power.stopDue = true ∧
    stopping.dev.pair.handover = none ∧ stopping.dev.power.state.runs = true :=
  (by decide +kernel)

/-- What `Obligations.ResetEvents` assumes, clause by clause, holds here (part 2). -/
theorem witness_resetEvents_2 :
    stoppingFault.dev.power.stopDue = true ∧ stoppingFault.dev.pair.handover = none ∧ stoppingFault.dev.power.state = PowerState.fault ∧
    (up.dev.power.stopDue = false ∨ up.dev.pair.handover ≠ none) :=
  (by decide +kernel)
/-- A line to be written for the journal engine. -/
def store_ : DramAccess := { write := true, addr := 0x144000000, data := [octet 1, octet 2], hint := 0 }
/-- A channel of the DRAM changed. -/
def withChan (c : Nat) (f : DramChan → DramChan) : State := upWith fun d => d.setDchan c f
/-- A requester of channel 3 waits with an access; another holds it. -/
def waits (holder : Option Nat) : State := withChan 3 fun x => { x with holder, reqs := [(4, { idleReq with todo := [store_] })] }
/-- A requester of channel 3 has been granted it and has not begun. -/
def granted : State := withChan 3 fun x => { x with holder := some 4, reqs := [(4, { idleReq with todo := [store_] })] }
/-- A requester with that access to do. -/
def storing : ArbReq := { idleReq with todo := [store_] }
/-- A requester whose wait is marked. -/
def marked : State := withChan 3 fun x => { x with holder := some 5, reqs := [(4, { storing with starved := true, urgent := true })] }

/-- What `Obligations.ArbiterEvents` assumes, clause by clause, holds here. -/
theorem witness_arbiterEvents :
    up.dev.answers = true ∧ 3 < 4 ∧ 9 < 10 ∧ (up.dev.dchan 3).holder = none ∧ (up.dev.dchan 3).reqs = [] ∧ (up.dev.dchan 3).queue = [] ∧ up.dev.perturb.dramHold = [] ∧
    (waits none).dev.answers = true ∧ 4 ≤ 4 ∧ 4 < 10 ∧ ((waits none).dev.dchan 3).holder = none ∧ ((waits none).dev.dchan 3).reqs = [(4, storing)] ∧ storing.todo ≠ [] ∧
    (waits none).dev.perturb.dramHold = [] ∧ (waits none).dev.Reaches storing.ready ∧ granted.dev.answers = true ∧ (granted.dev.dchan 3).holder = some 4 ∧
    (granted.dev.dchan 3).reqs = [(4, storing)] ∧ storing.begun = false :=
  (by unfold Dev.Reaches; decide +kernel)

/-- What `Obligations.ArbiterEvents` assumes, clause by clause, holds here (part 2). -/
theorem witness_arbiterEvents_2 :
    (waits (some 5)).dev.answers = true ∧ 3 < 4 ∧ (waits (some 5)).dev.arbWaits 3 4 = true ∧ ((waits (some 5)).dev.arb 3 4).starved = false ∧
    (waits (some 5)).dev.Reaches (((waits (some 5)).dev.arb 3 4).since + Dev.usCycles ((waits (some 5)).dev.nat Reg.arbStarveTime)) ∧
    ((waits (some 5)).dev.arb 3 4).urgent = false ∧
    (waits (some 5)).dev.Reaches (((waits (some 5)).dev.arb 3 4).since + 4 * Dev.usCycles ((waits (some 5)).dev.nat Reg.arbStarveTime)) ∧ marked.dev.answers = true ∧
    (marked.dev.arbWaits 3 4 = false ∨ (marked.dev.arb 3 4).starved = true) ∧ up.dev.answers = true ∧ (up.dev.arbWaits 3 9 = false ∨ (up.dev.arb 3 9).starved = true) ∧
    (marked.dev.arbWaits 3 4 = false ∨ (marked.dev.arb 3 4).urgent = true) ∧ 0 < 4 ∧ up.dev.Reaches (up.dev.timerFrom 100 + Dev.msCycles 1) :=
  (by unfold Dev.Reaches; decide +kernel)
/-- The refresh range as BOOT leaves it, and a bank with its activation count reached. -/
def activated : State :=
  let s := withChan 3 fun x => { x with raa := [(15, 80)] }
  { s with dev := { s.dev with regs := nput s.dev.regs (Reg.raaImt.key 3) (.int 80) } }
/-- Channel 3 with its temperature range, and how many polls have been lower. -/
def tempered (mr4 lowPolls : Nat) : State := withChan 3 fun x => { x with mr4, lowPolls }
/-- A bank of that channel is held for a refresh. -/
def heldBank : State := { activated with dev := activated.dev.setDchan 3 fun x => { x with held := [(2, 5)] } }
/-- A row of that bank is open. -/
def openBank : State := withChan 0 fun x => { x with openRows := [(2, (5, none))] }
/-- An eye. -/
def narrow : Eye := { coeffs := [], width := 70000, height := 1 }

/-- What `Obligations.RefreshEvents` assumes, clause by clause, holds here. -/
theorem witness_refreshEvents :
    up.dev.answers = true ∧ 3 < 4 ∧ (1 = if up.dev.nat Reg.refreshRange 3 ≤ 1 then 1 else if up.dev.nat Reg.refreshRange 3 = 2 then 2 else 4) ∧
    up.dev.Reaches (up.dev.timerFrom (110 + 3) + 3072 / 1) ∧ activated.dev.answers = true ∧ 0 < 4 ∧
    (1 = if activated.dev.nat Reg.refreshRange ≤ 1 then 1 else if activated.dev.nat Reg.refreshRange = 2 then 2 else 4) ∧
    activated.dev.Reaches (activated.dev.timerFrom (110 + 0) + 3072 / 1) ∧ (tempered 0 0).dev.answers = true ∧ 5 ≤ 5 ∧
    (tempered 0 0).dev.Reaches ((tempered 0 0).dev.timerFrom (120 + 3) + 98304) ∧ ((tempered 0 0).dev.dchan 3).mr4 < 5 ∧ (tempered 5 2).dev.answers = true ∧ 0 ≤ 5 ∧
    (tempered 5 2).dev.Reaches ((tempered 5 2).dev.timerFrom (120 + 3) + 98304) ∧ 0 < ((tempered 5 2).dev.dchan 3).mr4 ∧ ((tempered 5 2).dev.dchan 3).lowPolls < 3 ∧
    (tempered 5 3).dev.answers = true ∧ (tempered 5 3).dev.Reaches ((tempered 5 3).dev.timerFrom (120 + 3) + 98304) ∧ 0 < ((tempered 5 3).dev.dchan 3).mr4 ∧
    ((tempered 5 3).dev.dchan 3).lowPolls = 3 :=
  (by unfold Dev.Reaches; decide +kernel)

/-- What `Obligations.RefreshEvents` assumes, clause by clause, holds here (part 2). -/
theorem witness_refreshEvents_2 :
    activated.dev.answers = true ∧ 3 < 4 ∧
    (max (activated.dev.nat Reg.raaImt 3) 1 ≤ nget 0 (activated.dev.dchan 3).raa 15 ∨ (nget? (activated.dev.dchan 3).held 15).isSome = true) ∧
    nget? (activated.dev.dchan 3).openRows 15 = none ∧ heldBank.dev.answers = true ∧
    (max (heldBank.dev.nat Reg.raaImt 3) 1 ≤ nget 0 (heldBank.dev.dchan 3).raa 2 ∨ (nget? (heldBank.dev.dchan 3).held 2).isSome = true) ∧
    nget? (heldBank.dev.dchan 3).openRows 2 = none ∧
    ((nget? (activated.dev.dchan 3).openRows 14).isSome = true ∨ nget 0 (activated.dev.dchan 3).raa 14 < max (activated.dev.nat Reg.raaImt 3) 1 ∧ nget? (activated.dev.dchan 3).held 14 = none) ∧
    openBank.dev.answers = true ∧ 0 < 4 ∧
    ((nget? (openBank.dev.dchan 0).openRows 2).isSome = true ∨ nget 0 (openBank.dev.dchan 0).raa 2 < max (openBank.dev.nat Reg.raaImt) 1 ∧ nget? (openBank.dev.dchan 0).held 2 = none) ∧
    up.dev.answers = true ∧ up.dev.Reaches (up.dev.timerFrom (130 + 3) + Dev.msCycles 100) ∧ 100 < 101 ∧ 100 ≤ 100 ∧
    up.dev.Reaches (up.dev.timerFrom 140 + Dev.secCycles (up.dev.nat Reg.scrubPeriod)) :=
  (by unfold Dev.Reaches; decide +kernel)
/-- One access waits in channel 0. -/
def queued (q : Nat) (a : DramAccess) : State := withChan 0 fun x => { x with queue := [{ q, access := a, admitted := 0 }] }
/-- The write in a queue. -/
def queuedStore : DramReq := { q := 4, access := store_, admitted := 0 }

/-- What `Obligations.DramWriteStores` assumes, clause by clause, holds here. -/
theorem witness_dramWriteStores :
    (queued 4 store_).dev.answers = true ∧ (queued 4 store_).Sound ∧ (queued 4 store_).dev.nextAccess 0 = some 0 ∧
    ((queued 4 store_).dev.dchan 0).queue[0]? = some queuedStore ∧ queuedStore.access.write = true ∧ regionOk queuedStore.q (queuedStore.access.addr / 64 * 64) = true ∧
    2315255808 ≤ queuedStore.access.addr / 64 * 64 ∧
    (queuedStore.access.addr / 64 * 64 < 3120562176 ∨ 3187671040 ≤ queuedStore.access.addr / 64 * 64 ∧ queuedStore.access.addr / 64 * 64 < 3221225472 ∨ 5433065472 ≤ queuedStore.access.addr / 64 * 64) :=
  (by unfold State.Sound; decide +kernel)
/-- The write from a requester of another region. -/
def strayStore : DramReq := { q := 7, access := store_, admitted := 0 }
/-- A line of the FIR spectra to be read. -/
def load_ : DramAccess := { write := false, addr := 0x8A000000, data := [], hint := 0 }
/-- The read in a queue. -/
def queuedLoad : DramReq := { q := 6, access := load_, admitted := 0 }

/-- What `Obligations.DramAccessFaults` assumes, clause by clause, holds here. -/
theorem witness_dramAccessFaults :
    up.dev.answers = true ∧ 3 < 4 ∧ up.dev.nextAccess 3 = none ∧ (queued 7 store_).dev.answers = true ∧ 0 < 4 ∧ (queued 7 store_).dev.nextAccess 0 = some 0 ∧
    ((queued 7 store_).dev.dchan 0).queue[0]? = some strayStore ∧ regionOk strayStore.q (strayStore.access.addr / 64 * 64) = false ∧ (queued 6 load_).dev.answers = true ∧
    (queued 6 load_).dev.nextAccess 0 = some 0 ∧ ((queued 6 load_).dev.dchan 0).queue[0]? = some queuedLoad ∧ regionOk queuedLoad.q (queuedLoad.access.addr / 64 * 64) = true ∧
    queuedLoad.access.write = false ∧ (queued 6 load_).dev.dram.bad.contains (queuedLoad.access.addr / 64) = false ∧
    nget? (queued 6 load_).dev.perturb.poison (queuedLoad.access.addr / 64) = none ∧ queuedLoad.q = 6 :=
  (by decide +kernel)
/-- A word of the last bank waits for its second reading. -/
def suspect : State := upWith fun d => { d with sram := { d.sram with recheck := [(2559 * 8192 + 8191, 1)] } }
/-- A march over the first bank. -/
def march : MarchRun := { destructive := true, first := 0, last := 0, background := 2, startedAt := 0 }
/-- That march runs. -/
def marchRuns : State := upWith fun d => { d with sram := { d.sram with march := some march } }
/-- The march meets a bank in Retention that is wanted. -/
def marchedBank : State := upWith fun d => { d with sram := { d.sram with march := some march, states := [(0, 1)] } }
/-- No word failed. -/
def noFailures : List (Nat × Nat × Nat) := []

/-- What `Obligations.OnChipMemoryEvents` assumes, clause by clause, holds here. -/
theorem witness_onChipMemoryEvents :
    up.dev.answers = true ∧ 2559 < 2560 ∧ 8191 < 8192 ∧ up.dev.bankState 2559 = 2 ∧ 0 < 2560 ∧ 0 < 8192 ∧ up.dev.bankState 0 = 2 ∧
    (2560 ≤ 2560 ∨ 8192 ≤ 0 ∨ up.dev.bankState 2560 ≠ 2) ∧ (2560 ≤ 0 ∨ 8192 ≤ 8192 ∨ up.dev.bankState 0 ≠ 2) ∧ suspect.dev.answers = true ∧
    nget? suspect.dev.sram.recheck (2559 * 8192 + 8191 % 8192) = some 1 ∧ nget? suspect.dev.sram.recheck (2559 * 8192 + 8190 % 8192) = none ∧
    up.dev.Reaches (up.dev.timerFrom 150 + Dev.msCycles (up.dev.nat Reg.sramScrubPeriod)) ∧ up.dev.sram.flips = [] ∧ up.dev.marching 2559 = false ∧ 2560 ≤ 2560 ∧
    marchedBank.dev.answers = true ∧ marchedBank.dev.marching 0 = true ∧ nget 2 marchedBank.dev.sram.states 0 = 1 ∧ marchedBank.dev.bankWanted 0 = 2 ∧
    up.dev.sram.march = none :=
  (by unfold Dev.Reaches; decide +kernel)

/-- What `Obligations.OnChipMemoryEvents` assumes, clause by clause, holds here (part 2). -/
theorem witness_onChipMemoryEvents_2 :
    marchRuns.dev.answers = true ∧ marchRuns.dev.sram.march = some march ∧ marchRuns.dev.Reaches (march.startedAt + cdiv (march.last + 1 - march.first) 64 * 40960) ∧
    noFailures = List.filter (fun x => decide (march.first ≤ x.1) && decide (x.1 ≤ march.last) && decide (x.2.1 < 256)) noFailures ∧
    [(0, 2, 3)] = List.filter (fun x => decide (march.first ≤ x.1) && decide (x.1 ≤ march.last) && decide (x.2.1 < 256)) [(0, 2, 3), (1, 2, 3)] :=
  (by unfold Dev.Reaches; decide +kernel)
/-- A pair module in a state, with its pair state machine changed. -/
def pairIn (st : Nat) (f : Pair → Pair) : State := upWith fun d => (paired st d).setPair f
/-- A hello from a leading partner of the same shape and firmware. -/
def hello : Hello :=
  { serial := [octet 7], rolePref := false, mac := 1, firmware := 0x03000001, journal := 0, state := 2, groupHead := false, shape := up.dev.shapeInForce }
/-- A hello from a partner of another shape. -/
def otherShape : Hello := { hello with shape := [] }
/-- The module has asked for the lead and is to drive its output. -/
def requesting : State := pairIn 1 fun p => { p with assertAt := some 5, requested := true }
/-- A pair module whose interlock input is high. -/
def ilkHigh (st : Nat) (f : Pair → Pair) : State := { pairIn st f with dev := (pairIn st f).dev.setNat Reg.ilkIn 1 }
/-- The input has risen before the output. -/
def beaten : State := ilkHigh 1 fun p => { p with assertAt := some 5 }
/-- A pair module that drives its interlock output. -/
def ilkDriven (st : Nat) (f : Pair → Pair) : State := { pairIn st f with dev := (pairIn st f).dev.setNat Reg.ilkOut 1 }
/-- A module whose interlock output rises while the partner's does. -/
def contest (rolePref : Bool) : State :=
  let s := ilkDriven 1 fun p => { p with outAt := 1, requested := true }
  { s with dev := { s.dev with power := { s.dev.power with rolePref } } }
/-- A standby that takes the lead. -/
def driving : State := ilkDriven 6 fun p => { p with requested := true, reason := 2 }
/-- A standby that is to try again. -/
def retrying : State := pairIn 6 fun p => { p with retryAt := 7 }

/-- What `Obligations.PairForming` assumes, clause by clause, holds here. -/
theorem witness_pairForming :
    (pairIn 1 id).dev.answers = true ∧ (pairIn 1 id).dev.lone = false ∧
    (otherShape.shape ≠ (pairIn 1 id).dev.shapeInForce ∨ otherShape.firmware / 2 ^ 24 % 256 ≠ (pairIn 1 id).dev.nat Reg.firmwareVersion / 2 ^ 24) ∧
    hello.shape = (pairIn 1 id).dev.shapeInForce ∧ hello.firmware / 2 ^ 24 % 256 = (pairIn 1 id).dev.nat Reg.firmwareVersion / 2 ^ 24 ∧
    (pairIn 1 id).dev.nat Reg.pairState = 1 ∧ hello.state = 2 ∧ (pairIn 1 id).dev.pair.refused = false ∧ (pairIn 1 id).dev.pair.partner = none ∧
    (pairIn 1 id).dev.pair.requested = false ∧ (pairIn 1 id).dev.pair.lead = false ∧
    (pairIn 1 id).dev.Reaches ((pairIn 1 id).dev.pair.bootLeftAt + Dev.msCycles ((pairIn 1 id).dev.nat Reg.pairFormTimeout)) ∧ requesting.dev.answers = true ∧
    requesting.dev.lone = false ∧ requesting.dev.pair.assertAt = some 5 ∧ requesting.dev.Reaches 5 ∧ requesting.dev.flag Reg.ilkIn = false ∧
    requesting.dev.flag Reg.ilkOut = false :=
  (by unfold Dev.Reaches; decide +kernel)

/-- What `Obligations.PairForming` assumes, clause by clause, holds here (part 2). -/
theorem witness_pairForming_2 :
    beaten.dev.answers = true ∧ beaten.dev.lone = false ∧ beaten.dev.pair.assertAt = some 5 ∧ beaten.dev.Reaches 5 ∧ beaten.dev.flag Reg.ilkIn = true ∧
    (pairIn 1 id).dev.answers = true ∧ (pairIn 1 id).dev.lone = false ∧ (pairIn 1 id).dev.flag Reg.ilkIn = false ∧ (pairIn 1 id).dev.flag Reg.ilkOut = false ∧
    (ilkHigh 2 id).dev.answers = true ∧ (ilkHigh 2 id).dev.lone = false ∧ (ilkHigh 2 id).dev.flag Reg.ilkIn = true ∧ (ilkHigh 2 id).dev.nat Reg.pairState ≠ 5 ∧
    (ilkHigh 2 id).dev.nat Reg.pairState ≠ 6 ∧ (contest true).dev.answers = true ∧ (contest true).dev.lone = false ∧ (contest true).dev.flag Reg.ilkIn = false ∧
    (contest true).dev.flag Reg.ilkOut = true ∧ (contest true).dev.flag Reg.ilkGate = false ∧
    (contest true).dev.clock + nsCycles 200 ≤ (contest true).dev.pair.outAt + nsCycles 1000 :=
  (by unfold Dev.Reaches; decide +kernel)

/-- What `Obligations.PairForming` assumes, clause by clause, holds here (part 3). -/
theorem witness_pairForming_3 :
    (contest false).dev.answers = true ∧ (contest false).dev.lone = false ∧ (contest false).dev.flag Reg.ilkIn = false ∧ (contest false).dev.flag Reg.ilkOut = true ∧
    (contest false).dev.flag Reg.ilkGate = false ∧ (contest false).dev.clock + nsCycles 200 ≤ (contest false).dev.pair.outAt + nsCycles 1000 ∧
    (pairIn 6 id).dev.answers = true ∧ (pairIn 6 id).dev.lone = false ∧
    ((pairIn 6 id).dev.flag Reg.ilkOut = false ∨ (pairIn 6 id).dev.flag Reg.ilkIn = true ∨ (pairIn 6 id).dev.flag Reg.ilkGate = true) ∧ driving.dev.answers = true ∧
    driving.dev.lone = false ∧ driving.dev.flag Reg.ilkOut = true ∧ driving.dev.flag Reg.ilkIn = false ∧ driving.dev.flag Reg.ilkGate = false ∧
    driving.dev.pair.requested = true ∧ driving.dev.pair.lead = false ∧ driving.dev.pair.heldPackets = [] ∧ driving.dev.alm.aligned = false ∧
    driving.dev.nat Reg.pairState = 6 ∧ driving.dev.pair.reason = 2 ∧ driving.dev.dlinkUp 2 = false :=
  (by decide +kernel)

/-- What `Obligations.PairForming` assumes, clause by clause, holds here (part 4). -/
theorem witness_pairForming_4 :
    retrying.dev.answers = true ∧ retrying.dev.lone = false ∧ retrying.dev.pair.retryAt ≠ 0 ∧ retrying.dev.pair.requested = false ∧ retrying.dev.pair.lead = false ∧
    retrying.dev.Reaches retrying.dev.pair.retryAt ∧ retrying.dev.flag Reg.ilkIn = false :=
  (by unfold Dev.Reaches; decide +kernel)
/-- A standby that has heard nothing for two ticks. -/
def silent (f : Pair → Pair) : State := { pairIn 6 f with dev := { (pairIn 6 f).dev with msc := 100 } }
/-- The last frame is two ticks old. -/
def unheard : State := silent fun p => { p with lastFrame := some 0 }
/-- The same with the interlock input high. -/
def silentHigh (told : Bool) : State := { silent (fun p => { p with lastFrame := some 0, silent := told }) with dev := (silent fun p => { p with lastFrame := some 0, silent := told }).dev.setNat Reg.ilkIn 1 }
/-- A lead whose handover is due. -/
def handingOver : State := ilkDriven 2 fun p => { p with lead := true, handover := some 1, reason := 1 }
/-- A lead whose handover is a tick further off. -/
def handingLater : State := ilkDriven 2 fun p => { p with lead := true, handover := some 2, reason := 1 }
/-- A write waits for its mirror. -/
def mirroring : State := pairIn 2 fun p => { p with mirrors := [(4, 0, .headphone 0 0)] }

/-- What `Obligations.PairHandover` assumes, clause by clause, holds here. -/
theorem witness_pairHandover :
    unheard.dev.answers = true ∧ unheard.dev.lone = false ∧ unheard.dev.nat Reg.pairState = 6 ∧ unheard.dev.dpSilent = true ∧ unheard.dev.flag Reg.ilkIn = false ∧
    unheard.dev.pair.requested = false ∧ unheard.dev.pair.lead = false ∧ (silentHigh true).dev.answers = true ∧ (silentHigh true).dev.lone = false ∧
    (silentHigh true).dev.nat Reg.pairState = 6 ∧ (silentHigh true).dev.dpSilent = true ∧ (silentHigh true).dev.flag Reg.ilkIn = true ∧
    (silentHigh true).dev.pair.silent = true ∧ (silentHigh false).dev.answers = true ∧ (silentHigh false).dev.lone = false ∧ (silentHigh false).dev.nat Reg.pairState = 6 ∧
    (silentHigh false).dev.dpSilent = true ∧ (silentHigh false).dev.flag Reg.ilkIn = true ∧ (silentHigh false).dev.pair.silent = false :=
  (by decide +kernel)

/-- What `Obligations.PairHandover` assumes, clause by clause, holds here (part 2). -/
theorem witness_pairHandover_2 :
    (pairIn 6 id).dev.answers = true ∧ (pairIn 6 id).dev.lone = false ∧ (pairIn 6 id).dev.nat Reg.pairState = 6 ∧ (pairIn 6 id).dev.flag Reg.ilkIn = false ∧
    (pairIn 6 id).dev.pair.requested = false ∧ (pairIn 6 id).dev.pair.lead = false ∧ handingOver.dev.answers = true ∧ handingOver.dev.lone = false ∧
    handingOver.dev.pair.handover = some 1 ∧ handingOver.dev.pair.lead = true ∧ 1 ≤ handingOver.dev.msc + 1 ∧ handingOver.dev.nat Reg.pairState = 2 ∧
    handingOver.dev.pair.reason = 1 ∧ (handingOver.dev.ports.items.any fun q => !q.flowQueue.isEmpty) = false ∧ handingOver.dev.flag Reg.ilkOut = true ∧
    handingLater.dev.answers = true ∧ handingLater.dev.lone = false ∧ handingLater.dev.pair.handover = some 2 ∧
    (handingLater.dev.msc + 1 < 2 ∨ (handingLater.dev.ports.items.any fun q => !q.flowQueue.isEmpty) = true) ∧ (pairIn 2 id).dev.answers = true ∧
    (pairIn 2 id).dev.lone = false ∧ (pairIn 2 id).dev.pair.mirrors = [] :=
  (by decide +kernel)

/-- What `Obligations.PairHandover` assumes, clause by clause, holds here (part 3). -/
theorem witness_pairHandover_3 :
    mirroring.dev.answers = true ∧ mirroring.dev.lone = false ∧ mirroring.dev.pair.mirrors = [(4, 0, Out.headphone 0 0)] ∧ mirroring.dev.Reaches (0 + Dev.usCycles 1000) ∧
    mirroring.dev.nat Reg.pairState = 2 ∧ mirroring.dev.dlinkUp 0 = false :=
  (by unfold Dev.Reaches; decide +kernel)
/-- A pair whose own signature of block 3 is known. -/
def signed : State := pairIn 2 fun p => { p with partner := some hello, sigs := [(14, [1])] }
/-- A pair with an audit that names the unit at fault. -/
def audited : State := pairIn 2 fun p => { p with audit := some { block := 3, point := 2, first := 0, disputed := [] }, faults := [3] }
/-- An audit of block 3. -/
def audit3 : Audit := { block := 3, point := 2, first := 0, disputed := [] }

/-- What `Obligations.PairTracing` assumes, clause by clause, holds here. -/
theorem witness_pairTracing :
    signed.dev.answers = true ∧ signed.dev.lone = false ∧ signed.dev.pair.partner = some hello ∧ nget? signed.dev.pair.sigs (3 * 4 + 2) = some [1] ∧ [1] ≠ [2] ∧
    signed.dev.nat Reg.pairState = 2 ∧ signed.dev.pair.audit = none ∧ nget 0 signed.dev.pair.agreed 3 < 2 ∧ nget? signed.dev.pair.sigs (4 * 4 + 2) = none ∧
    audited.dev.answers = true ∧ audited.dev.lone = false ∧ audited.dev.pair.audit = some audit3 ∧ audited.dev.pair.faults.contains audit3.block = true ∧
    audited.dev.nat Reg.pairState = 2 ∧ audited.dev.pair.waiting = false ∧ (pairIn 2 id).dev.answers = true ∧ (pairIn 2 id).dev.lone = false ∧
    ((pairIn 2 id).dev.nat Reg.pairState = 2 ∨ (pairIn 2 id).dev.nat Reg.pairState = 3 ∨ (pairIn 2 id).dev.nat Reg.pairState = 4) ∧ (pairIn 4 id).dev.answers = true ∧
    (pairIn 4 id).dev.lone = false ∧ ((pairIn 4 id).dev.nat Reg.pairState = 2 ∨ (pairIn 4 id).dev.nat Reg.pairState = 3 ∨ (pairIn 4 id).dev.nat Reg.pairState = 4) :=
  (by decide +kernel)

/-- What `Obligations.PairTracing` assumes, clause by clause, holds here (part 2). -/
theorem witness_pairTracing_2 :
    (pairIn 5 id).dev.answers = true ∧ (pairIn 5 id).dev.lone = false ∧ (pairIn 5 id).dev.nat Reg.pairState = 5 :=
  (by decide +kernel)
/-- A standby in a stage of its catching up, with a media count. -/
def catching (stage msc : Nat) : State := { pairIn 5 id with dev := { ((pairIn 5 id).dev.setNat Reg.catchupStage stage).setNat Reg.historyHorizon 1000 with msc } }

/-- What `Obligations.CatchingUp` assumes, clause by clause, holds here. -/
theorem witness_catchingUp :
    (catching 2 1000).dev.answers = true ∧ (catching 2 1000).dev.nat Reg.pairState = 5 ∧ (catching 2 1000).dev.nat Reg.catchupStage = 2 ∧
    (catching 2 1000).dev.pair.stageAt + (catching 2 1000).dev.nat Reg.historyHorizon ≤ (catching 2 1000).dev.msc ∧ (catching 2 999).dev.answers = true ∧
    (catching 2 999).dev.nat Reg.pairState = 5 ∧ (catching 2 999).dev.nat Reg.catchupStage = 2 ∧
    (catching 2 999).dev.msc < (catching 2 999).dev.pair.stageAt + (catching 2 999).dev.nat Reg.historyHorizon ∧ (catching 3 320).dev.answers = true ∧
    (catching 3 320).dev.nat Reg.pairState = 5 ∧ (catching 3 320).dev.nat Reg.catchupStage = 3 ∧ (catching 3 320).dev.pair.stageAt + 320 ≤ (catching 3 320).dev.msc ∧
    (catching 3 319).dev.answers = true ∧ (catching 3 319).dev.nat Reg.pairState = 5 ∧ (catching 3 319).dev.nat Reg.catchupStage = 3 ∧
    (catching 3 319).dev.msc < (catching 3 319).dev.pair.stageAt + 320 ∧ (catching 2 0).dev.answers = true ∧ (catching 2 0).dev.nat Reg.pairState = 5 ∧
    2 ≤ (catching 2 0).dev.nat Reg.catchupStage ∧ (catching 2 0).dev.Reaches ((catching 2 0).dev.pair.catchupAt + Dev.msCycles ((catching 2 0).dev.nat Reg.catchupLimit)) :=
  (by unfold Dev.Reaches; decide +kernel)

/-- What `Obligations.CatchingUp` assumes, clause by clause, holds here (part 2). -/
theorem witness_catchingUp_2 :
    (catching 1 0).dev.answers = true ∧ (catching 1 0).dev.nat Reg.pairState = 5 ∧ (catching 1 0).dev.nat Reg.catchupStage = 1 ∧
    (catching 1 0).dev.Reaches ((catching 1 0).dev.pair.catchupAt + Dev.msCycles ((catching 1 0).dev.nat Reg.catchupLimit)) :=
  (by unfold Dev.Reaches; decide +kernel)
/-- A plug is in the headset jack. -/
def plugged : State := upWith fun d => { d.setNat Reg.headsetType 2 with headset := { d.headset with plugged := true } }
/-- A headset of a type, its microphone button in a mode. -/
def headset (type mode : Nat) : State := upWith fun d => (d.setNat Reg.headsetType type).setNat Reg.headsetButtonMode mode

/-- What `Obligations.HeadsetPlug` assumes, clause by clause, holds here. -/
theorem witness_headsetPlug :
    up.dev.answers = true ∧ up.dev.headset.plugged = false ∧ plugged.dev.answers = true ∧ plugged.dev.headset.plugged = true ∧ plugged.dev.headset.measured = false ∧
    plugged.dev.Reaches (plugged.dev.headset.jackSince + Dev.msCycles 100) ∧ (headset 1 0).dev.answers = true ∧ (headset 1 0).dev.nat Reg.headsetType = 1 ∧
    (up.dev.headset.plugged = false ∨ up.dev.headset.measured = true) ∧ up.dev.nat Reg.headsetType ≠ 1 ∧
    ((headset 1 0).dev.nat Reg.headsetType ≠ 2 ∨ (headset 1 0).dev.flag Reg.headsetButton = true) ∧ (headset 2 0).dev.answers = true ∧
    (headset 2 0).dev.nat Reg.headsetType = 2 ∧ (headset 2 0).dev.flag Reg.headsetButton ≠ true ∧ (headset 2 1).dev.answers = true ∧
    (headset 2 1).dev.nat Reg.headsetType = 2 ∧ (headset 2 1).dev.flag Reg.headsetButton ≠ true ∧ (headset 2 2).dev.answers = true ∧
    (headset 2 2).dev.nat Reg.headsetType = 2 ∧ (headset 2 2).dev.flag Reg.headsetButton ≠ true :=
  (by unfold Dev.Reaches; decide +kernel)

/-- What `Obligations.HeadsetPlug` assumes, clause by clause, holds here (part 2). -/
theorem witness_headsetPlug_2 :
    (headset 2 3).dev.answers = true ∧ (headset 2 3).dev.nat Reg.headsetType = 2 ∧ (headset 2 3).dev.flag Reg.headsetButton ≠ true :=
  (by decide +kernel)
/-- The last TDM port as a slave with slots, started or not. -/
def tdmSlave (started : Bool) : State :=
  upWith fun d => ((d.setNat Reg.tdmSlots 8 3).setNat Reg.tdmRole 1 3).setTdm 3 fun t => { t with started }
/-- The first TDM port as a master with slots, the Almanac aligned or not. -/
def tdmMaster (aligned : Bool) (msc : Nat) : State :=
  upWith fun d => { (d.setNat Reg.tdmSlots 8 0).setNat Reg.tdmRole 0 0 with alm := { d.alm with aligned }, msc }
/-- The frame that such a port would start. -/
def nextMasterFrame (s : State) : Nat :=
  max (s.dev.masterFrame 0 (s.dev.msc * s.dev.coreTick)) (if (s.dev.tdmPort 0).started then (s.dev.tdmPort 0).frame + 1 else 0)

/-- What `Obligations.TdmFrames` assumes, clause by clause, holds here. -/
theorem witness_tdmFrames :
    up.dev.answers = true ∧ 3 < 4 ∧ up.dev.nat Reg.tdmSlots 3 = 0 ∧ (tdmSlave false).dev.answers = true ∧ (tdmSlave false).dev.nat Reg.tdmSlots 3 ≠ 0 ∧
    (tdmSlave false).dev.nat Reg.tdmRole 3 ≠ 0 ∧ (tdmSlave true).dev.answers = true ∧ (tdmSlave true).dev.nat Reg.tdmSlots 3 ≠ 0 ∧ (tdmSlave true).dev.nat Reg.tdmRole 3 ≠ 0 ∧
    (tdmMaster true 100).dev.answers = true ∧ 0 < 4 ∧ (tdmMaster true 100).dev.nat Reg.tdmSlots ≠ 0 ∧ (tdmMaster true 100).dev.nat Reg.tdmRole = 0 ∧
    nextMasterFrame (tdmMaster true 100) = max ((tdmMaster true 100).dev.masterFrame 0 ((tdmMaster true 100).dev.msc * (tdmMaster true 100).dev.coreTick)) (if ((tdmMaster true 100).dev.tdmPort 0).started = true then ((tdmMaster true 100).dev.tdmPort 0).frame + 1 else 0) ∧
    (tdmMaster true 100).dev.alm.aligned = true ∧
    (tdmMaster true 100).dev.masterStart 0 (nextMasterFrame (tdmMaster true 100)) < (tdmMaster true 100).dev.msc * (tdmMaster true 100).dev.coreTick + (tdmMaster true 100).dev.coreTick ∧
    (tdmMaster false 100).dev.answers = true ∧ (tdmMaster false 100).dev.nat Reg.tdmSlots ≠ 0 ∧ (tdmMaster false 100).dev.nat Reg.tdmRole = 0 ∧
    nextMasterFrame (tdmMaster false 100) = max ((tdmMaster false 100).dev.masterFrame 0 ((tdmMaster false 100).dev.msc * (tdmMaster false 100).dev.coreTick)) (if ((tdmMaster false 100).dev.tdmPort 0).started = true then ((tdmMaster false 100).dev.tdmPort 0).frame + 1 else 0) ∧
    ((tdmMaster false 100).dev.alm.aligned = false ∨ (tdmMaster false 100).dev.msc * (tdmMaster false 100).dev.coreTick + (tdmMaster false 100).dev.coreTick ≤ (tdmMaster false 100).dev.masterStart 0 (nextMasterFrame (tdmMaster false 100))) ∧
    up.dev.nat Reg.tdmRole 3 = 0 :=
  (by decide +kernel)

/-- What `Obligations.TdmFrames` assumes, clause by clause, holds here (part 2). -/
theorem witness_tdmFrames_2 :
    (tdmSlave true).dev.answers = true ∧ 3 < 4 ∧ (tdmSlave true).dev.nat Reg.tdmRole 3 ≠ 0 ∧ (tdmSlave true).dev.Reaches ((tdmSlave true).dev.tdmLossDue 3) :=
  (by unfold Dev.Reaches; decide +kernel)
/-- The recorder waits for its last frame. -/
def postTrigger (newest post : Nat) : State :=
  upWith fun d => { ((d.setNat Reg.recorderState 2).setNat Reg.recorderNewest newest).setNat Reg.recorderPostTrigger post with alm := { d.alm with aligned := true }, msc := newest }
/-- The recorder runs and its last maskable cause is enabled. -/
def masked : State := { recorder 1 with dev := (recorder 1).dev.setNat Reg.recorderTriggerMask 16 }

/-- What `Obligations.RecorderTriggers` assumes, clause by clause, holds here. -/
theorem witness_recorderTriggers :
    (recorder 1).dev.answers = true ∧ (15 = 0 ∨ 15 = 1 ∨ 15 = 15 ∨ 15 < 5 ∧ ((recorder 1).dev.nat Reg.recorderTriggerMask).testBit 15 = true) ∧
    (recorder 1).dev.nat Reg.recorderState = 1 ∧ masked.dev.answers = true ∧ (4 = 0 ∨ 4 = 1 ∨ 4 = 15 ∨ 4 < 5 ∧ (masked.dev.nat Reg.recorderTriggerMask).testBit 4 = true) ∧
    masked.dev.nat Reg.recorderState = 1 ∧ (recorder 2).dev.answers = true ∧
    (0 = 0 ∨ 0 = 1 ∨ 0 = 15 ∨ 0 < 5 ∧ ((recorder 2).dev.nat Reg.recorderTriggerMask).testBit 0 = true) ∧ 2 ≤ (recorder 2).dev.nat Reg.recorderState ∧
    (recorder 3).dev.answers = true ∧ (1 = 0 ∨ 1 = 1 ∨ 1 = 15 ∨ 1 < 5 ∧ ((recorder 3).dev.nat Reg.recorderTriggerMask).testBit 1 = true) ∧
    2 ≤ (recorder 3).dev.nat Reg.recorderState ∧ 2 ≤ 5 ∧ 5 ≠ 15 ∧ ((recorder 1).dev.nat Reg.recorderTriggerMask).testBit 5 = false ∧ (recorder 0).dev.answers = true ∧
    (recorder 0).dev.nat Reg.recorderState = 0 ∧ (postTrigger 19 10).dev.answers = true ∧ (postTrigger 19 10).dev.nat Reg.recorderState = 2 ∧
    (postTrigger 19 10).dev.recLast < (postTrigger 19 10).dev.mscNow ∧ (postTrigger 5 10).dev.answers = true ∧
    ((postTrigger 5 10).dev.nat Reg.recorderState ≠ 2 ∨ (postTrigger 5 10).dev.mscNow ≤ (postTrigger 5 10).dev.recLast) :=
  (by decide +kernel)

/-- What `Obligations.RecorderTriggers` assumes, clause by clause, holds here (part 2). -/
theorem witness_recorderTriggers_2 :
    (recorder 3).dev.answers = true ∧ ((recorder 3).dev.nat Reg.recorderState ≠ 2 ∨ (recorder 3).dev.mscNow ≤ (recorder 3).dev.recLast) :=
  (by decide +kernel)
/-- A cage of port 3 in a state, its link in a state. -/
def cage (sfp link : Nat) (f : Port → Port) : State :=
  upWith fun d => (((d.setNat Reg.sfpState sfp 3).setNat Reg.sfpNominalRate 25800 3).setNat Reg.linkState link 3).setPort 3 f
/-- Port 3 with a module of 10 Gb/s. -/
def slowCage (link : Nat) (f : Port → Port) : State := upWith fun d => (((d.setNat Reg.sfpState 2 3).setNat Reg.sfpNominalRate 10300 3).setNat Reg.linkState link 3).setPort 3 f
/-- An identification page of a module of 9.4 or 9.5 Gb/s. -/
def sfpPage (rate : Nat) : Octets := List.replicate 12 0 ++ [octet rate] ++ List.replicate 83 0x41
/-- A diagnostics page. -/
def sfpDiag (n : Nat) : Octets := List.replicate 96 0 ++ [0xFF, 0x9C] ++ List.replicate (n - 98) 0x12
/-- A module answers and its link is UP. -/
def seated : State := cage 2 2 fun q => { q with answers := true }
/-- A module answers and is not yet identified. -/
def unread : State := cage 1 0 fun q => { q with answers := true }
/-- Every candidate has been tried. -/
def allTried : State := cage 2 1 fun q => { q with tried := 5 }
/-- One candidate is left. -/
def lastLeft : State := cage 2 1 fun q => { q with cand := 4, tried := 4 }
/-- One candidate of 10 Gb/s is left. -/
def slowLeft : State := slowCage 1 fun q => { q with cand := 5, tried := 1 }
/-- The third candidate runs. -/
def locking : State := cage 2 1 fun q => { q with cand := 3, tried := 1 }
/-- What a lane's training settles at. -/
def eye : Eye := { coeffs := [1, 2], width := 299, height := 70 }
/-- The link is UP on the third candidate. -/
def linked : State := cage 2 2 fun q => { q with cand := 3, lastGood := 3 }
/-- The link is UP, its port disabled. -/
def disabledPort : State := { linked with dev := linked.dev.setNat Reg.portEnable 0 3 }
/-- The management port is UP. -/
def mgmtUp (f : Port → Port) : State := upWith fun d => (d.setNat Reg.linkState 2 4).setPort 4 f

/-- What `Obligations.PortBringUp` assumes, clause by clause, holds here. -/
theorem witness_portBringUp :
    up.dev.answers = true ∧ 3 < 4 ∧ up.dev.Reaches (up.dev.timerFrom (12288 + 3) + Dev.msCycles 250) ∧ (up.dev.port 3).answers = false ∧ seated.dev.answers = true ∧
    seated.dev.Reaches (seated.dev.timerFrom (12288 + 3) + Dev.msCycles 250) ∧ (seated.dev.port 3).answers = true ∧ 2 ≤ seated.dev.nat Reg.sfpState 3 ∧
    106 ≤ List.length (sfpDiag 106) ∧ unread.dev.answers = true ∧ (unread.dev.port 3).answers = true ∧ unread.dev.nat Reg.sfpState 3 = 1 ∧
    unread.dev.Reaches ((unread.dev.port 3).answeredAt + Dev.msCycles 300) ∧ allTried.dev.answers = true ∧ allTried.dev.nat Reg.linkState 3 = 1 ∧
    allTried.dev.Reaches ((allTried.dev.port 3).candAt + Dev.msCycles 250) ∧ (allTried.dev.candidates 3).length ≤ (allTried.dev.port 3).tried ∧ lastLeft.dev.answers = true ∧
    lastLeft.dev.nat Reg.linkState 3 = 1 ∧ lastLeft.dev.Reaches ((lastLeft.dev.port 3).candAt + Dev.msCycles 250) ∧
    (lastLeft.dev.port 3).tried < (lastLeft.dev.candidates 3).length :=
  (by unfold Dev.Reaches; decide +kernel)

/-- What `Obligations.PortBringUp` assumes, clause by clause, holds here (part 2). -/
theorem witness_portBringUp_2 :
    slowLeft.dev.answers = true ∧ 3 < 4 ∧ slowLeft.dev.nat Reg.linkState 3 = 1 ∧ slowLeft.dev.Reaches ((slowLeft.dev.port 3).candAt + Dev.msCycles 250) ∧
    (slowLeft.dev.port 3).tried < (slowLeft.dev.candidates 3).length ∧ locking.dev.answers = true ∧ locking.dev.nat Reg.linkState 3 = 1 ∧
    locking.dev.Reaches ((locking.dev.port 3).candAt + Dev.msCycles 10) ∧ (cage 3 2 id).dev.answers = true ∧ (cage 3 2 id).dev.nat Reg.linkState 3 = 2 ∧
    ((cage 3 2 id).dev.nat Reg.sfpState 3 ≠ 2 ∨ (cage 3 2 id).dev.flag Reg.portEnable 3 = false) ∧ disabledPort.dev.answers = true ∧ disabledPort.dev.nat Reg.linkState 3 = 2 ∧
    (disabledPort.dev.nat Reg.sfpState 3 ≠ 2 ∨ disabledPort.dev.flag Reg.portEnable 3 = false) ∧ linked.dev.answers = true ∧ linked.dev.nat Reg.linkState 3 = 2 ∧
    linked.dev.nat Reg.sfpState 3 = 2 ∧ linked.dev.flag Reg.portEnable 3 = true ∧ (linked.dev.port 3).lastGood ∈ linked.dev.candidates 3 :=
  (by unfold Dev.Reaches; decide +kernel)

/-- What `Obligations.PortBringUp` assumes, clause by clause, holds here (part 3). -/
theorem witness_portBringUp_3 :
    (slowCage 3 id).dev.answers = true ∧ 3 < 4 ∧ (slowCage 3 id).dev.nat Reg.linkState 3 = 3 ∧ (slowCage 3 id).dev.nat Reg.sfpState 3 = 2 ∧
    (slowCage 3 id).dev.candidates 3 = [4, 5] ∧ (slowCage 3 id).dev.Reaches (((slowCage 3 id).dev.port 3).candAt + Dev.secCycles 2) ∧ up.dev.answers = true ∧
    (10 = 10 ∨ 10 = 100 ∨ 10 = 1000) ∧ up.dev.flag Reg.portEnable 4 = true ∧ (1000 = 10 ∨ 1000 = 100 ∨ 1000 = 1000) ∧ (mgmtUp id).dev.answers = true ∧
    (mgmtUp id).dev.nat Reg.linkState 4 = 2 ∧ up.dev.nat Reg.linkState 4 ≠ 2 :=
  (by unfold Dev.Reaches; decide +kernel)
/-- Every port is UP, each receive ring owns one descriptor of 64 octets. -/
def receiving : State :=
  let d := { up.dev with rxRings := .fill 16 { owned := [{ addr := 0x1244000000, len := 64, byteCount := 0, status := 0, first := false, last := false, secured := false, tagged := false, vlan := 0, pcp := 0, stampValid := false, port := 0, rule := 0, stamp := 0, frameBytes := 0, data := [] }], done := [] } }
  { up with dev := (List.range 5).foldl (fun d p => d.setNat Reg.linkState 2 p) d }
/-- A frame of a length with the EtherType of EAPOL. -/
def eapol (n : Nat) : Octets := List.replicate 12 1 ++ [0x88, 0x8E] ++ List.replicate (n - 14) 0
/-- A posted descriptor of 64 octets. -/
def rxDesc : RxDesc := { addr := 0x1244000000, len := 64, byteCount := 0, status := 0, first := false, last := false, secured := false, tagged := false, vlan := 0, pcp := 0, stampValid := false, port := 0, rule := 0, stamp := 0, frameBytes := 0, data := [] }
/-- RX 7 holds as many descriptors as it may. -/
def fullRing : State := { receiving with dev := receiving.dev.setRxRing 7 { owned := List.replicate (receiving.dev.inForce Reg.rxRingLength 7) rxDesc, done := [] } }

/-- What `Obligations.FrameReception` assumes, clause by clause, holds here. -/
theorem witness_frameReception :
    up.dev.answers = true ∧ up.dev.nat Reg.linkState 4 ≠ 2 ∧ receiving.dev.answers = true ∧ 4 < 5 ∧ receiving.dev.nat Reg.linkState 4 = 2 ∧ List.length (eapol 59) + 4 < 64 ∧
    0 < 5 ∧ receiving.dev.nat Reg.linkState = 2 ∧ 64 ≤ List.length (eapol 1519) + 4 ∧ receiving.dev.nat Reg.maxFrame < List.length (eapol 1519) + 4 ∧
    64 ≤ List.length (eapol 1518) + 4 ∧ List.length (eapol 1518) + 4 ≤ receiving.dev.nat Reg.maxFrame ∧ 64 ≤ List.length (eapol 60) + 4 ∧
    List.length (eapol 60) + 4 ≤ receiving.dev.nat Reg.maxFrame 4 :=
  (by decide +kernel)

/-- What `Obligations.FrameReception` assumes, clause by clause, holds here (part 2). -/
theorem witness_frameReception_2 :
    receiving.dev.answers = true ∧ 3 < 4 ∧ receiving.dev.nat Reg.linkState 3 = 2 ∧ 64 ≤ List.length (eapol 60) + 4 ∧
    List.length (eapol 60) + 4 ≤ receiving.dev.nat Reg.maxFrame 3 ∧ receiving.dev.nat Reg.macsecMode 3 = 0 ∧ (parseFrame (eapol 60)).ethType = 34958 ∧
    receiving.dev.perturb.rings = [] ∧ (receiving.dev.rxRing 4).owned = [rxDesc] ∧ List.length (eapol 60) ≤ rxDesc.len ∧ rxDesc.len % 64 = 0 ∧
    ringBuffer rxDesc.addr rxDesc.len = true ∧ up.dev.answers = true ∧ (16 ≤ 8 ∨ 8 ≤ 8 ∧ 8 < 12) ∧ (16 ≤ 11 ∨ 8 ≤ 11 ∧ 11 < 12) ∧ (16 ≤ 16 ∨ 8 ≤ 16 ∧ 16 < 12) ∧
    fullRing.dev.answers = true ∧ fullRing.dev.inForce Reg.rxRingLength 7 ≤ (fullRing.dev.rxRing 7).owned.length ∧ (0 < 8 ∨ 12 ≤ 0 ∧ 0 < 16) ∧
    (receiving.dev.rxRing 0).owned.length < receiving.dev.inForce Reg.rxRingLength ∧ (7 < 8 ∨ 12 ≤ 7 ∧ 7 < 16) ∧
    (receiving.dev.rxRing 7).owned.length < receiving.dev.inForce Reg.rxRingLength 7 :=
  (by decide +kernel)

/-- What `Obligations.FrameReception` assumes, clause by clause, holds here (part 3). -/
theorem witness_frameReception_3 :
    receiving.dev.answers = true ∧ (12 < 8 ∨ 12 ≤ 12 ∧ 12 < 16) ∧ (receiving.dev.rxRing 12).owned.length < receiving.dev.inForce Reg.rxRingLength 12 ∧
    (15 < 8 ∨ 12 ≤ 15 ∧ 15 < 16) ∧ (receiving.dev.rxRing 15).owned.length < receiving.dev.inForce Reg.rxRingLength 15 :=
  (by decide +kernel)
/-- One whole frame in one buffer for a port. -/
def txDesc (p n : Nat) : TxDesc := { buf := { addr := 0x1244000000, data := List.replicate n 2, first := true, last := true, stampRequest := false, oneStep := false, uncontrolled := false, port := p, stampId := 0 }, status := 0 }
/-- Port 4 is UP; TX 5 has one frame for it. -/
def toSend (n : Nat) : State := upWith fun d => (d.setNat Reg.linkState 2 4).setTxRing 5 { posted := [txDesc 4 n], busy := [], done := [] }
/-- A frame of TX 5 on its way. -/
def txFrame : TxFrame := { ring := some 5, flow := none, descs := [txDesc 4 60], octets := eapol 60, image := eapol 60, bad := false }
/-- Port 4 sends a frame of TX 5; a flow's packet waits for it. -/
def sendingFrame : State := mgmtUp fun q => { q with sending := some txFrame, flowQueue := [{ txFrame with ring := none, flow := some 3, descs := [] }] }
/-- A time-stamp entry. -/
def tsEntry : TsEntry := { frc := 70000, stampId := 3, port := 4, oneStep := false, snMode := true, valid := true }
/-- The time-stamp queue has overflowed. -/
def overflowed : State := mgmtUp fun q => { q with tsOverflow := true }
/-- A time stamp waits. -/
def stamped : State := mgmtUp fun q => { q with tsQueue := [tsEntry] }

/-- What `Obligations.FrameTransmission` assumes, clause by clause, holds here. -/
theorem witness_frameTransmission :
    (toSend 60).dev.answers = true ∧ 4 < 5 ∧ ((toSend 60).dev.port 4).sending = none ∧ ((toSend 60).dev.port 4).control = [] ∧ ((toSend 60).dev.port 4).heldUntil = none ∧
    ((toSend 60).dev.port 4).lpi = false ∧ ((toSend 60).dev.port 4).wakeAt ≤ (toSend 60).dev.clock ∧ (toSend 60).dev.nat Reg.linkState 4 = 2 ∧
    (toSend 60).dev.nat Reg.macsecMode 4 = 0 ∧ ((toSend 60).dev.txRing 5).posted = [txDesc 4 60] ∧ ((toSend 60).dev.txRing 5).busy = [] ∧ (txDesc 4 60).buf.first = true ∧
    (txDesc 4 60).buf.last = true ∧ (txDesc 4 60).buf.port = 4 ∧ (txDesc 4 60).buf.stampRequest = false ∧ (txDesc 4 60).buf.oneStep = false ∧
    (txDesc 4 60).buf.uncontrolled = false ∧ ringBuffer (txDesc 4 60).buf.addr (List.length (txDesc 4 60).buf.data) = true ∧ 60 ≤ List.length (txDesc 4 60).buf.data ∧
    List.length (txDesc 4 60).buf.data ≤ 16383 ∧ List.length (txDesc 4 60).buf.data + 4 ≤ (toSend 60).dev.nat Reg.maxFrame 4 :=
  (by decide +kernel)

/-- What `Obligations.FrameTransmission` assumes, clause by clause, holds here (part 2). -/
theorem witness_frameTransmission_2 :
    (toSend 1518).dev.answers = true ∧ 4 < 5 ∧ ((toSend 1518).dev.port 4).sending = none ∧ ((toSend 1518).dev.port 4).control = [] ∧
    ((toSend 1518).dev.port 4).heldUntil = none ∧ ((toSend 1518).dev.port 4).lpi = false ∧ ((toSend 1518).dev.port 4).wakeAt ≤ (toSend 1518).dev.clock ∧
    (toSend 1518).dev.nat Reg.linkState 4 = 2 ∧ (toSend 1518).dev.nat Reg.macsecMode 4 = 0 ∧ ((toSend 1518).dev.txRing 5).posted = [txDesc 4 1518] ∧
    ((toSend 1518).dev.txRing 5).busy = [] ∧ (txDesc 4 1518).buf.first = true ∧ (txDesc 4 1518).buf.last = true ∧ (txDesc 4 1518).buf.port = 4 ∧
    (txDesc 4 1518).buf.stampRequest = false ∧ (txDesc 4 1518).buf.oneStep = false ∧ (txDesc 4 1518).buf.uncontrolled = false ∧
    ringBuffer (txDesc 4 1518).buf.addr (List.length (txDesc 4 1518).buf.data) = true ∧ 60 ≤ List.length (txDesc 4 1518).buf.data ∧
    List.length (txDesc 4 1518).buf.data ≤ 16383 ∧ List.length (txDesc 4 1518).buf.data + 4 ≤ (toSend 1518).dev.nat Reg.maxFrame 4 :=
  (by decide +kernel)

/-- What `Obligations.FrameTransmission` assumes, clause by clause, holds here (part 3). -/
theorem witness_frameTransmission_3 :
    sendingFrame.dev.answers = true ∧ 4 < 5 ∧ (sendingFrame.dev.port 4).sending = some txFrame ∧ txFrame.ring = some 5 ∧ txFrame.bad = false ∧ 5 < 8 ∧ up.dev.answers = true ∧
    0 < 5 ∧ (up.dev.port 0).sending = none ∧ overflowed.dev.answers = true ∧ (overflowed.dev.port 4).tsQueue = [] ∧ stamped.dev.answers = true ∧
    (stamped.dev.port 4).tsQueue ≠ [] ∧ (stamped.dev.port 4).tsQueue = [tsEntry] :=
  (by decide +kernel)
/-- The management port is UP with PAUSE and low-power idle allowed. -/
def quiet4 (f : Port → Port) : State := upWith fun d => (((d.setNat Reg.linkState 2 4).setNat Reg.mgmtPauseMode 2).setNat Reg.mgmtEeeEnable 1).setPort 4 f
/-- The port ignores PAUSE. -/
def ignoring : State := quiet4 fun q => { q with ignoreUntil := some 9 }
/-- The port is held. -/
def held : State := quiet4 fun q => { q with heldUntil := some 5 }
/-- The port pauses its partner. -/
def pausing : State := quiet4 fun q => { q with pausing := some 0 }
/-- The port is held for 1 s. -/
def heldLong : State := quiet4 fun q => { q with heldUntil := some 786432000 }
/-- The PHY can idle. -/
def idling : State := quiet4 fun q => { q with phyEee := true }

/-- What `Obligations.PauseAndIdle` assumes, clause by clause, holds here. -/
theorem witness_pauseAndIdle :
    up.dev.answers = true ∧ 3 < 4 ∧ ignoring.dev.answers = true ∧ (ignoring.dev.port 4).ignoreUntil ≠ none ∧ (up.dev.port 4).ignoreUntil = none ∧
    up.dev.nat Reg.mgmtPauseMode = 0 ∧ (quiet4 id).dev.answers = true ∧ 1 ≠ 0 ∧ ((quiet4 id).dev.port 4).ignoreUntil = none ∧ (quiet4 id).dev.nat Reg.mgmtPauseMode ≠ 0 ∧
    65535 ≠ 0 ∧ held.dev.answers = true ∧ (held.dev.port 4).ignoreUntil = none ∧ held.dev.nat Reg.mgmtPauseMode ≠ 0 ∧ (held.dev.port 4).heldUntil = some 5 ∧
    held.dev.Reaches 5 ∧ pausing.dev.answers = true ∧ (pausing.dev.port 4).pausing.isSome = true ∧ pausing.dev.nat Reg.mgmtPauseMode = 2 ∧
    pausing.dev.nat Reg.linkState 4 = 2 ∧ pausing.dev.Reaches ((pausing.dev.port 4).pauseSentAt + pausing.dev.quantumCycles 65535 / 2) :=
  (by unfold Dev.Reaches; decide +kernel)

/-- What `Obligations.PauseAndIdle` assumes, clause by clause, holds here (part 2). -/
theorem witness_pauseAndIdle_2 :
    pausing.dev.answers = true ∧ (pausing.dev.port 4).pausing = some 0 ∧ pausing.dev.Reaches (0 + Dev.usCycles (pausing.dev.nat Reg.pauseSendLimit)) ∧
    heldLong.dev.answers = true ∧ (heldLong.dev.port 4).heldUntil = some 786432000 ∧
    (heldLong.dev.port 4).heldSince + Dev.usCycles (heldLong.dev.nat Reg.pauseHonourLimit) ≤ 786432000 ∧
    heldLong.dev.Reaches ((heldLong.dev.port 4).heldSince + Dev.usCycles (heldLong.dev.nat Reg.pauseHonourLimit)) ∧ ignoring.dev.answers = true ∧
    (ignoring.dev.port 4).ignoreUntil = some 9 ∧ ignoring.dev.Reaches 9 ∧ idling.dev.answers = true ∧ idling.dev.flag Reg.mgmtEeeEnable = true ∧
    (idling.dev.port 4).phyEee = true ∧ idling.dev.nat Reg.linkState 4 = 2 ∧ (idling.dev.port 4).sending = none ∧ (idling.dev.port 4).control = [] ∧
    idling.dev.nextRing 4 = none ∧ (idling.dev.port 4).lpi = false ∧ idling.dev.Reaches ((idling.dev.port 4).idleSince + Dev.usCycles (idling.dev.nat Reg.mgmtEeeIdle)) :=
  (by unfold Dev.Reaches; decide +kernel)
/-- Port 3 is UP with MACsec on. -/
def macsecPort : State := upWith fun d => (d.setNat Reg.linkState 2 3).setNat Reg.macsecMode 1 3
/-- Port 3 has a CAK and its name as well. -/
def keyedPort : State :=
  let d := macsecPort.dev.setVal Reg.macsecCkn (.bytes (List.replicate 32 7)) 3
  { macsecPort with dev := { d with sec := { d.sec with keys := nput d.sec.keys (Reg.macsecCak.key 3) (List.replicate 32 9) } } }
/-- Flow 1023 runs, its second port as given. -/
def flowing (second : Nat) : State :=
  upWith fun d => (((d.setNat Reg.rxState 2 1023).setNat Reg.rxSecondPort second 1023).setNat Reg.rxPathState 3 1023).setRx 1023 fun x => { x with paths := [some 4, some 7], lastAt := 7 }
/-- A member of a group at port 3 whose second report is due. -/
def member : State := upWith fun d => d.setPort 3 fun q => { q with members := [{ group := 0xEF010203, exclude := true, sources := [], again := [], reportDue := none }, { group := 0xEF010204, exclude := false, sources := [0x0A000001], again := [(5, [0x0A000001])], reportDue := some 9 }] }
/-- The group whose second report is due. -/
def igmp : IgmpGroup := { group := 0xEF010204, exclude := false, sources := [0x0A000001], again := [(5, [0x0A000001])], reportDue := some 9 }

/-- What `Obligations.PortTimers` assumes, clause by clause, holds here. -/
theorem witness_portTimers :
    keyedPort.dev.answers = true ∧ 3 < 4 ∧ keyedPort.dev.nat Reg.macsecMode 3 ≠ 0 ∧ keyedPort.dev.nat Reg.linkState 3 = 2 ∧
    nget [] keyedPort.dev.sec.keys (Reg.macsecCak.key 3) ≠ [] ∧ keyedPort.dev.bytes Reg.macsecCkn 3 ≠ [] ∧ macsecPort.dev.answers = true ∧
    macsecPort.dev.nat Reg.macsecMode 3 ≠ 0 ∧ macsecPort.dev.nat Reg.linkState 3 = 2 ∧
    (nget [] macsecPort.dev.sec.keys (Reg.macsecCak.key 3) = [] ∨ macsecPort.dev.bytes Reg.macsecCkn 3 = []) ∧ (macsecPort.dev.port 3).secured = false ∧
    (flowing 1).dev.answers = true ∧ 1023 < 1024 ∧ (flowing 1).dev.nat Reg.rxState 1023 = 2 ∧ (flowing 1).dev.nat Reg.rxSecondPort 1023 ≠ 255 ∧
    (flowing 1).dev.Reaches (((flowing 1).dev.rxFlow 1023).lastAt + Dev.msCycles ((flowing 1).dev.nat Reg.rxTimeout)) ∧ (flowing 1).dev.nat Reg.recorderState = 0 ∧
    (flowing 255).dev.answers = true ∧ (flowing 255).dev.nat Reg.rxState 1023 = 2 ∧ (flowing 255).dev.nat Reg.rxSecondPort 1023 = 255 ∧
    (flowing 255).dev.Reaches (((flowing 255).dev.rxFlow 1023).lastAt + Dev.msCycles ((flowing 255).dev.nat Reg.rxTimeout)) ∧ (flowing 255).dev.nat Reg.recorderState = 0 :=
  (by unfold Dev.Reaches; decide +kernel)

/-- What `Obligations.PortTimers` assumes, clause by clause, holds here (part 2). -/
theorem witness_portTimers_2 :
    (flowing 1).dev.answers = true ∧ 1023 < 1024 ∧ 1 < 2 ∧ ((flowing 1).dev.rxFlow 1023).paths.getD 1 none = some 7 ∧ (flowing 1).dev.nat Reg.rxSecondPort 1023 ≠ 255 ∧
    (flowing 1).dev.Reaches (7 + Dev.msCycles ((flowing 1).dev.nat Reg.rxTimeout)) ∧ member.dev.answers = true ∧ 3 < 5 ∧
    List.find? (fun m => m.group == 4009820676 && m.reportDue.isSome) (member.dev.port 3).members = some igmp ∧ igmp.again = [(5, [167772161])] ∧
    (member.dev.port 3).oldQueriers = (0, 0) ∧ member.dev.Reaches (igmp.reportDue.getD 0) :=
  (by unfold Dev.Reaches; decide +kernel)
/-- The root follows PTP, whose servo is LOCKED. -/
def mayAlign : State := upWith fun d => (d.setNat Reg.selectedSource 1).setNat Reg.ptpServoState 2
/-- The Almanac in FRC mode. -/
def frcMode : State := upWith fun d => { d with alm := { d.alm with snMode := false } }
/-- Aligned, in a tick that ends after 1 s. -/
def secondOver : State := { aligned with dev := { aligned.dev with clock := Dev.secCycles 1, tickAt := Dev.secCycles 1 } }
/-- The next clock monitor interval is perturbed. -/
def clockTripped : State := upWith fun d => { d with perturb := { d.perturb with clockTrip := true } }

/-- What `Obligations.TimeAlignment` assumes, clause by clause, holds here. -/
theorem witness_timeAlignment :
    up.dev.answers = true ∧ up.dev.alm.snMode = true ∧ up.dev.Reaches (up.dev.timerFrom 14336 + 1048576) ∧ mayAlign.dev.answers = true ∧ mayAlign.dev.alignOpen = true ∧
    mayAlign.dev.mayAlign = true ∧ (up.dev.alignOpen = false ∨ up.dev.mayAlign = false) ∧ aligned.dev.answers = true ∧
    (aligned.dev.alignOpen = false ∨ aligned.dev.mayAlign = false) ∧ ready.dev.answers = true ∧ ready.dev.alignOpen = false ∧ frcMode.dev.answers = true ∧
    frcMode.dev.alm.snMode = false ∧ frcMode.dev.Reaches (frcMode.dev.timerFrom 14336 + 1048576) ∧ up.dev.alignOpen = true ∧ secondOver.dev.answers = true ∧
    secondOver.dev.alm.aligned = true ∧ secondOver.dev.Reaches (secondOver.dev.timerFrom 14349 + Dev.secCycles 1) ∧ (-150).natAbs ≤ 150 ∧ up.dev.perturb.clockTrip = false :=
  (by unfold Dev.Reaches; decide +kernel)

/-- What `Obligations.TimeAlignment` assumes, clause by clause, holds here (part 2). -/
theorem witness_timeAlignment_2 :
    up.dev.answers = true ∧ 150 < Int.natAbs 151 ∧ up.dev.perturb.clockTrip = false ∧ up.dev.power.state ≠ PowerState.fault ∧ up.dev.power.state ≠ PowerState.boot ∧
    150 < (-151).natAbs ∧ clockTripped.dev.answers = true ∧ clockTripped.dev.perturb.clockTrip = true ∧ clockTripped.dev.power.state ≠ PowerState.fault ∧
    clockTripped.dev.power.state ≠ PowerState.boot :=
  (by decide +kernel)
/-- Clock input 1 with its checker as given. -/
def clockInput (lost : Bool) (last : Option Nat) (clock : Nat) : State :=
  upWith fun d => { ((((d.setNat Reg.inputEnable 1 1).setNat Reg.wclkRate 48000 1).setNat Reg.inputMeasuredRate 48004800 1).setInput 1 fun c => { c with lost, lastEdge := last, qualified := false }) with clock := clock }
/-- The same input, measured 101 ppm off. -/
def offRate : State := { clockInput false (some 0) 0 with dev := (clockInput false (some 0) 0).dev.setNat Reg.inputMeasuredRate 48004801 1 }
/-- The root follows source 6 while input 1, source 3 and ranked higher, is qualified. -/
def revertible : State :=
  upWith fun d => { ((((((d.setNat Reg.inputEnable 1 1).setNat Reg.sourcePriority 3 0 0).setNat Reg.sourcePriority 6 0 1).setNat Reg.revertive 1).setNat Reg.selectedSource 6).setInput 1 fun c => { c with lost := false, qualified := true }) with
    alm := { (d.setInput 1 fun c => { c with lost := false, qualified := true }).alm with qualifiedAt := [(3, 5)], dradaOk := true } }
/-- The same, 1,000 s later. -/
def revertLate : State := { revertible with dev := { revertible.dev with clock := Dev.secCycles 1000 } }
/-- The same with Revertive 0. -/
def notRevertive : State := { revertible with dev := revertible.dev.setNat Reg.revertive 0 }
/-- The root slews to input 1. -/
def slewing : State := upWith fun d => (d.setNat Reg.dpllState 1).setNat Reg.selectedSource 3

/-- What `Obligations.ClockInputs` assumes, clause by clause, holds here. -/
theorem witness_clockInputs :
    up.dev.answers = true ∧ 1 < 4 ∧ up.dev.flag Reg.inputEnable 1 = false ∧ (clockInput true none 16384).dev.answers = true ∧
    (clockInput true none 16384).dev.flag Reg.inputEnable 1 = true ∧ ((clockInput true none 16384).dev.input 1).lost = true ∧
    (clockInput false (some 0) 16900).dev.answers = true ∧ (clockInput false (some 0) 16900).dev.flag Reg.inputEnable 1 = true ∧
    ((clockInput false (some 0) 16900).dev.input 1).lost = false ∧ ((clockInput false (some 0) 16900).dev.input 1).lastEdge = some 0 ∧
    1 = max 1 ((2 * (((clockInput false (some 0) 16900).dev.frc + 0 % 16 - 0) * (clockInput false (some 0) 16900).dev.inputRate 1) + 786432000 * 16) / (2 * (786432000 * 16))) ∧
    3 * 1 * (786432000 * 16) < ((↑(((clockInput false (some 0) 16900).dev.frc + 0 % 16 - 0) * (clockInput false (some 0) 16900).dev.inputRate 1) : ℤ) - (↑(1 * (786432000 * 16)) : ℤ)).natAbs * 100 ∧
    (clockInput false (some 0) 0).dev.answers = true ∧ ((clockInput false (some 0) 0).dev.input 1).lastEdge = some 0 ∧
    ((clockInput false (some 0) 0).dev.input 1).lost = false ∧ (clockInput false (some 0) 0).dev.flag Reg.inputEnable 1 = true ∧
    (clockInput false (some 0) 0).dev.Reaches ((clockInput false (some 0) 0).dev.frcBase + 0 / 16 + 206 * 786432000 / (100 * (clockInput false (some 0) 0).dev.inputRate 1)) ∧
    ((clockInput false (some 0) 0).dev.input 1).qualified = false ∧
    (clockInput false (some 0) 0).dev.Reaches (((clockInput false (some 0) 0).dev.input 1).since + Dev.msCycles ((clockInput false (some 0) 0).dev.nat Reg.qualifyTime 1)) ∧
    (48000000 = (clockInput false (some 0) 0).dev.inputRate 1 * 1000 * if 1 = 3 then 1000 else 1) ∧
    ((↑((clockInput false (some 0) 0).dev.nat Reg.inputMeasuredRate 1) : ℤ) - (↑48000000 : ℤ)).natAbs * 10000 ≤ 48000000 :=
  (by unfold Dev.Reaches; decide +kernel)

/-- What `Obligations.ClockInputs` assumes, clause by clause, holds here (part 2). -/
theorem witness_clockInputs_2 :
    offRate.dev.answers = true ∧ 1 < 4 ∧ offRate.dev.flag Reg.inputEnable 1 = true ∧ (offRate.dev.input 1).lost = false ∧ (offRate.dev.input 1).qualified = false ∧
    offRate.dev.Reaches ((offRate.dev.input 1).since + Dev.msCycles (offRate.dev.nat Reg.qualifyTime 1)) ∧
    (48000000 = offRate.dev.inputRate 1 * 1000 * if 1 = 3 then 1000 else 1) ∧ 48000000 < ((↑(offRate.dev.nat Reg.inputMeasuredRate 1) : ℤ) - (↑48000000 : ℤ)).natAbs * 10000 ∧
    revertible.dev.answers = true ∧ revertible.dev.flag Reg.revertive = true ∧
    [3] = List.filter (fun x => revertible.dev.sourceOkNow x && (nget? revertible.dev.alm.qualifiedAt x).isSome) (List.takeWhile (fun x => decide (x ≠ revertible.dev.nat Reg.selectedSource)) revertible.dev.sourceRanks) ∧
    (List.find? (fun x => decide (nget 0 revertible.dev.alm.qualifiedAt x + Dev.msCycles (revertible.dev.nat Reg.revertHoldoff) ≤ revertible.dev.clock)) [3] = some 3 ∨ (∀ x ∈ [3], revertible.dev.clock < nget 0 revertible.dev.alm.qualifiedAt x + Dev.msCycles (revertible.dev.nat Reg.revertHoldoff)) ∧ [3].head? = some 3 ∧ (∀ x ∈ [3], nget 0 revertible.dev.alm.qualifiedAt 3 ≤ nget 0 revertible.dev.alm.qualifiedAt x) ∧ revertible.dev.Reaches (nget 0 revertible.dev.alm.qualifiedAt 3 + Dev.msCycles (revertible.dev.nat Reg.revertHoldoff))) ∧
    revertLate.dev.answers = true ∧ revertLate.dev.flag Reg.revertive = true ∧
    [3] = List.filter (fun x => revertLate.dev.sourceOkNow x && (nget? revertLate.dev.alm.qualifiedAt x).isSome) (List.takeWhile (fun x => decide (x ≠ revertLate.dev.nat Reg.selectedSource)) revertLate.dev.sourceRanks) ∧
    (List.find? (fun x => decide (nget 0 revertLate.dev.alm.qualifiedAt x + Dev.msCycles (revertLate.dev.nat Reg.revertHoldoff) ≤ revertLate.dev.clock)) [3] = some 3 ∨ (∀ x ∈ [3], revertLate.dev.clock < nget 0 revertLate.dev.alm.qualifiedAt x + Dev.msCycles (revertLate.dev.nat Reg.revertHoldoff)) ∧ [3].head? = some 3 ∧ (∀ x ∈ [3], nget 0 revertLate.dev.alm.qualifiedAt 3 ≤ nget 0 revertLate.dev.alm.qualifiedAt x) ∧ revertLate.dev.Reaches (nget 0 revertLate.dev.alm.qualifiedAt 3 + Dev.msCycles (revertLate.dev.nat Reg.revertHoldoff))) ∧
    notRevertive.dev.answers = true ∧ notRevertive.dev.flag Reg.revertive = false ∧ up.dev.answers = true ∧
    (up.dev.nat Reg.dpllState ≠ 1 ∨ up.dev.nat Reg.selectedSource = 0) :=
  (by unfold Dev.Reaches; decide +kernel)

/-- What `Obligations.ClockInputs` assumes, clause by clause, holds here (part 3). -/
theorem witness_clockInputs_3 :
    slewing.dev.answers = true ∧ 3 < 4 ∧ slewing.dev.nat Reg.dpllState = 1 ∧ slewing.dev.nat Reg.selectedSource ≠ 0 :=
  (by decide +kernel)
/-- A PTP message of a kind, its flags, its seconds and nanoseconds, and what follows. -/
def ptp (kind flags secs nanos : Nat) (rest : Octets) : Octets :=
  [octet kind, 2, 0, 44, 0, 0, octet flags, 0] ++ List.replicate 12 0 ++ [1, 2, 3, 4, 5, 6, 7, 8, 0, 1] ++ [0, 9, 0, 0] ++ toBE 6 secs ++ toBE 4 nanos ++ rest
/-- A follower of that leader, its servo in a state. -/
def follower (servo : Nat) (f : Almanac → Almanac) : State :=
  upWith fun d => { d.setNat Reg.ptpServoState servo with alm := f { d.alm with leader := [1, 2, 3, 4, 5, 6, 7, 8, 0, 1] } }
/-- A two-step Sync waits for its Follow_Up. -/
def twoStep : State := follower 2 fun a => { a with twoStep := some (9, 0, 0) }
/-- A follower whose Delay_Req is not yet answered, at a known address. -/
def requestingDelay : State :=
  upWith fun d => { d with regs := [(Reg.macAddress.key 0, .int 0x0A0B0C0D0E0F), (0x800001, .int 0)], alm := { d.alm with leader := [1, 2, 3, 4, 5, 6, 7, 8, 0, 1], delayReq := some (9, 1), syncRef := some (5, 7) } }

/-- What `Obligations.PtpFollower` assumes, clause by clause, holds here. -/
theorem witness_ptpFollower :
    (follower 2 id).dev.answers = true ∧ (parsePtp (ptp 0 2 0 0 [])).kind = 0 ∧ (follower 2 id).dev.fromLeader 0 (parsePtp (ptp 0 2 0 0 [])) = true ∧
    (follower 2 id).dev.alm.leader = (parsePtp (ptp 0 2 0 0 [])).source ∧ (parsePtp (ptp 0 2 0 0 [])).source ≠ [] ∧ (parsePtp (ptp 0 2 0 0 [])).twoStep = true ∧
    (parsePtp (ptp 0 0 0 999 [])).kind = 0 ∧ (follower 2 id).dev.fromLeader 0 (parsePtp (ptp 0 0 0 999 [])) = true ∧
    (follower 2 id).dev.alm.leader = (parsePtp (ptp 0 0 0 999 [])).source ∧ (parsePtp (ptp 0 0 0 999 [])).source ≠ [] ∧ (parsePtp (ptp 0 0 0 999 [])).twoStep = false ∧
    (follower 2 id).dev.alm.snMode = true ∧ (follower 2 id).dev.flag Reg.timeTestMode = false ∧
    -4290672328704 = (follower 2 id).dev.convert 0 - (parsePtp (ptp 0 0 0 999 [])).stamp - (parsePtp (ptp 0 0 0 999 [])).correction - (follower 2 id).dev.meanPath ∧
    (↑(-4290672328704).natAbs : ℤ) < 1000 * nsUnit ∧ (follower 2 id).dev.nat Reg.ptpServoState = 2 :=
  (by decide +kernel)

/-- What `Obligations.PtpFollower` assumes, clause by clause, holds here (part 2). -/
theorem witness_ptpFollower_2 :
    (follower 1 id).dev.answers = true ∧ (parsePtp (ptp 0 0 0 1000 [])).kind = 0 ∧ (follower 1 id).dev.fromLeader 0 (parsePtp (ptp 0 0 0 1000 [])) = true ∧
    (follower 1 id).dev.alm.leader = (parsePtp (ptp 0 0 0 1000 [])).source ∧ (parsePtp (ptp 0 0 0 1000 [])).source ≠ [] ∧ (parsePtp (ptp 0 0 0 1000 [])).twoStep = false ∧
    (follower 1 id).dev.alm.snMode = true ∧ (follower 1 id).dev.flag Reg.timeTestMode = false ∧
    -4294967296000 = (follower 1 id).dev.convert 0 - (parsePtp (ptp 0 0 0 1000 [])).stamp - (parsePtp (ptp 0 0 0 1000 [])).correction - (follower 1 id).dev.meanPath ∧
    1000 * nsUnit ≤ (↑(-4294967296000).natAbs : ℤ) ∧ (follower 1 id).dev.nat Reg.ptpServoState = 1 ∧ twoStep.dev.answers = true ∧ (parsePtp (ptp 8 0 0 999 [])).kind = 8 ∧
    twoStep.dev.fromLeader 0 (parsePtp (ptp 8 0 0 999 [])) = true ∧ twoStep.dev.alm.twoStep = some (9, 0, 0) ∧ (parsePtp (ptp 8 0 0 999 [])).seq = 9 ∧
    twoStep.dev.alm.snMode = true ∧ twoStep.dev.flag Reg.timeTestMode = false ∧
    -4290672328704 = twoStep.dev.convert 0 - ((parsePtp (ptp 8 0 0 999 [])).stamp + 0 + (parsePtp (ptp 8 0 0 999 [])).correction) - twoStep.dev.meanPath ∧
    (↑(-4290672328704).natAbs : ℤ) < 1000 * nsUnit ∧ twoStep.dev.nat Reg.ptpServoState = 2 :=
  (by decide +kernel)

/-- What `Obligations.PtpFollower` assumes, clause by clause, holds here (part 3). -/
theorem witness_ptpFollower_3 :
    requestingDelay.dev.answers = true ∧ (parsePtp (ptp 9 0 1 0 [10, 11, 12, 255, 254, 13, 14, 15, 0, 1])).kind = 9 ∧
    requestingDelay.dev.fromLeader 0 (parsePtp (ptp 9 0 1 0 [10, 11, 12, 255, 254, 13, 14, 15, 0, 1])) = true ∧ requestingDelay.dev.alm.delayReq = some (9, 1) ∧
    requestingDelay.dev.alm.syncRef = some (5, 7) ∧ (parsePtp (ptp 9 0 1 0 [10, 11, 12, 255, 254, 13, 14, 15, 0, 1])).seq = 9 ∧ 1 ≠ 0 ∧
    List.take 8 (List.drop 10 (parsePtp (ptp 9 0 1 0 [10, 11, 12, 255, 254, 13, 14, 15, 0, 1])).body) = requestingDelay.dev.clockIdentity ∧
    2147483647829333334 = (7 - 5 + ((parsePtp (ptp 9 0 1 0 [10, 11, 12, 255, 254, 13, 14, 15, 0, 1])).stamp - (parsePtp (ptp 9 0 1 0 [10, 11, 12, 255, 254, 13, 14, 15, 0, 1])).correction - requestingDelay.dev.convert 1)) / 2 ∧
    up.dev.answers = true ∧ (parsePtp (ptp 11 0 0 0 (List.replicate 20 3))).kind = 11 ∧ up.dev.ptpOn 0 = true ∧
    (parsePtp (ptp 11 0 0 0 (List.replicate 20 3))).domain = up.dev.nat Reg.ptpDomain ∧ up.dev.nat Reg.ptpMode = 1 ∧ up.dev.alm.foreign = [] ∧ up.dev.alm.leader = [] ∧
    (parsePtp (ptp 11 0 0 0 (List.replicate 20 3))).source ≠ [] ∧ up.dev.nat Reg.ptpServoState = 0 ∧ 0 < 5 :=
  (by decide +kernel)

/-- What `Obligations.PtpFollower` assumes, clause by clause, holds here (part 4). -/
theorem witness_ptpFollower_4 :
    (follower 2 id).dev.answers = true ∧ (follower 2 id).dev.nat Reg.ptpServoState ≠ 0 ∧ (follower 2 id).dev.nat Reg.ptpServoState ≠ 4 ∧
    (follower 2 id).dev.Reaches ((follower 2 id).dev.alm.lastSync + 2 * (follower 2 id).dev.syncCycles) ∧ (follower 1 id).dev.answers = true ∧
    (follower 1 id).dev.alm.leader = [1, 2, 3, 4, 5, 6, 7, 8, 0, 1] ∧ [1, 2, 3, 4, 5, 6, 7, 8, 0, 1] ≠ [] ∧
    ((follower 1 id).dev.alm.foreign.all fun y => List.take 10 (List.drop 21 y) == [1, 2, 3, 4, 5, 6, 7, 8, 0, 1]) = true ∧ (follower 1 id).dev.nat Reg.ptpMode = 1 ∧
    (follower 1 id).dev.Reaches ((follower 1 id).dev.alm.lastAnnounce + Dev.scaleLog ((follower 1 id).dev.nat Reg.ptpAnnounceTimeout * 786432000) ((follower 1 id).dev.int Reg.ptpLogAnnounce)) :=
  (by unfold Dev.Reaches; decide +kernel)
/-- Port 0 is UP in a PTP port state. -/
def ptpPort (st : Nat) : State := upWith fun d => (d.setNat Reg.linkState 2 0).setNat Reg.ptpPortState st 0

/-- What `Obligations.PtpSending` assumes, clause by clause, holds here. -/
theorem witness_ptpSending :
    (ptpPort 6).dev.answers = true ∧ ((ptpPort 6).dev.txRing 5).posted.length + ((ptpPort 6).dev.txRing 5).busy.length < (ptpPort 6).dev.nat Reg.txRingLength 5 ∧
    (parsePtp (ptp 1 0 0 0 [])).kind = 1 ∧ (ptpPort 6).dev.ptpLeads 0 = true ∧ (parsePtp (ptp 1 0 0 0 [])).domain = (ptpPort 6).dev.nat Reg.ptpDomain ∧
    (ptpPort 6).dev.alm.silentUntil ≤ (ptpPort 6).dev.clock ∧ (ptpPort 6).dev.Reaches ((ptpPort 6).dev.timerFrom (14400 + 0) + (ptpPort 6).dev.syncCycles) ∧
    (ptpPort 6).dev.Reaches ((ptpPort 6).dev.timerFrom (14408 + 0) + Dev.scaleLog 786432000 ((ptpPort 6).dev.int Reg.ptpLogAnnounce)) ∧ (ptpPort 9).dev.answers = true ∧
    ((ptpPort 9).dev.txRing 5).posted.length + ((ptpPort 9).dev.txRing 5).busy.length < (ptpPort 9).dev.nat Reg.txRingLength 5 ∧ (ptpPort 9).dev.ptpOn 0 = true ∧
    (ptpPort 9).dev.nat Reg.ptpPortState = 9 ∧ (ptpPort 9).dev.nat Reg.linkState = 2 ∧
    (ptpPort 9).dev.Reaches ((ptpPort 9).dev.timerFrom (14416 + 0) + Dev.scaleLog 786432000 ((ptpPort 9).dev.int Reg.ptpLogDelayReq)) ∧ (ptpPort 9).dev.ptpLeads 0 = false ∧
    (ptpPort 9).dev.Reaches ((ptpPort 9).dev.timerFrom (14400 + 0) + (ptpPort 9).dev.syncCycles) ∧
    (ptpPort 9).dev.Reaches ((ptpPort 9).dev.timerFrom (14408 + 0) + Dev.scaleLog 786432000 ((ptpPort 9).dev.int Reg.ptpLogAnnounce)) :=
  (by unfold Dev.Reaches; decide +kernel)
/-- Aligned, in a power state, at a media count. -/
def ticking (st : PowerState) (n : Nat) : State :=
  upWith fun d => { d with alm := { d.alm with aligned := true, snMode := false, pendingInc := some 0x145855556 }, power := { d.power with state := st }, msc := n, clock := 5000, tickAt := 5000 }
/-- A tick without faults. -/
def tickIn : TickIn := { mic := 5, side := [], faults := [] }
/-- Object 2047 is late. -/
def lateObject : State := upWith fun d => { d with geo := { d.geo with late := [(2047, 15)] } }
/-- RINK 15 has missed 1 s ago, or just now. -/
def missed (t : Nat) : State := let s := ticking .ready 65; { s with dev := { s.dev with clock := t, limiter := [(0x400020F, 0)] } }
/-- The render core has completed no block for 1.5 ms. -/
def stuck : State := let s := ticking .ready 65; { s with dev := { s.dev with clock := Dev.usCycles 1500, tickAt := Dev.usCycles 1500 } }
/-- A function has stopped. -/
def halted : State := upWith fun d => { d with power := { d.power with stoppedAt := some 1 } }

/-- What `Obligations.TicksAndDeadlines` assumes, clause by clause, holds here. -/
theorem witness_ticksAndDeadlines :
    up.dev.answers = true ∧ up.dev.lone = true ∧ up.dev.nat Reg.pairState = 0 ∧ up.dev.alm.aligned = false ∧ (ticking PowerState.quiet 31).dev.answers = true ∧
    (ticking PowerState.quiet 31).dev.lone = true ∧ (ticking PowerState.quiet 31).dev.nat Reg.pairState = 0 ∧ (ticking PowerState.quiet 31).dev.alm.aligned = true ∧
    ((ticking PowerState.quiet 31).dev.power.state = PowerState.quiet ∨ (ticking PowerState.quiet 31).dev.power.state = PowerState.fault ∧ (ticking PowerState.quiet 31).dev.power.stopDue = false) ∧
    (ticking PowerState.fault 31).dev.answers = true ∧ (ticking PowerState.fault 31).dev.lone = true ∧ (ticking PowerState.fault 31).dev.nat Reg.pairState = 0 ∧
    (ticking PowerState.fault 31).dev.alm.aligned = true ∧
    ((ticking PowerState.fault 31).dev.power.state = PowerState.quiet ∨ (ticking PowerState.fault 31).dev.power.state = PowerState.fault ∧ (ticking PowerState.fault 31).dev.power.stopDue = false) ∧
    (ticking PowerState.onShow 31).dev.answers = true ∧ (ticking PowerState.onShow 31).dev.lone = true ∧ (ticking PowerState.onShow 31).dev.nat Reg.pairState = 0 ∧
    (ticking PowerState.onShow 31).dev.alm.aligned = true ∧
    ((ticking PowerState.onShow 31).dev.power.state = PowerState.ready ∨ (ticking PowerState.onShow 31).dev.power.state = PowerState.onShow) ∧
    (ticking PowerState.onShow 31).dev.perturb.render = [] ∧ (ticking PowerState.onShow 31).dev.perturb.residues = [] ∧ (ticking PowerState.onShow 31).dev.sram.flips = [] :=
  (by decide +kernel)

/-- What `Obligations.TicksAndDeadlines` assumes, clause by clause, holds here (part 2). -/
theorem witness_ticksAndDeadlines_2 :
    (ticking PowerState.ready 64).dev.answers = true ∧ (ticking PowerState.ready 64).dev.lone = true ∧ (ticking PowerState.ready 64).dev.nat Reg.pairState = 0 ∧
    (ticking PowerState.ready 64).dev.alm.aligned = true ∧ (ticking PowerState.ready 64).dev.msc % 32 = 0 ∧ (ticking PowerState.ready 64).dev.alm.snMode = false ∧
    (ticking PowerState.ready 65).dev.answers = true ∧ (ticking PowerState.ready 65).dev.lone = true ∧ (ticking PowerState.ready 65).dev.nat Reg.pairState = 0 ∧
    ((ticking PowerState.ready 65).dev.alm.aligned = false ∨ (ticking PowerState.ready 65).dev.msc % 32 ≠ 0) ∧ up.dev.answers = true ∧ up.dev.lone = true ∧
    up.dev.nat Reg.pairState = 0 ∧ up.dev.geo.late = [] ∧ lateObject.dev.answers = true ∧ lateObject.dev.lone = true ∧ lateObject.dev.nat Reg.pairState = 0 ∧ 2047 < 2048 ∧
    lateObject.dev.geo.late = [(2047, 15)] :=
  (by decide +kernel)

/-- What `Obligations.TicksAndDeadlines` assumes, clause by clause, holds here (part 3). -/
theorem witness_ticksAndDeadlines_3 :
    (missed (Dev.secCycles 1)).dev.answers = true ∧ (missed (Dev.secCycles 1)).dev.lone = true ∧ (missed (Dev.secCycles 1)).dev.nat Reg.pairState = 0 ∧
    (missed (Dev.secCycles 1)).dev.pathRuns = true ∧ 15 < 16 ∧ (missed (Dev.secCycles 1)).dev.faultedLately (512 + 15) = false ∧
    (missed (Dev.secCycles 1 - 1)).dev.answers = true ∧ (missed (Dev.secCycles 1 - 1)).dev.lone = true ∧ (missed (Dev.secCycles 1 - 1)).dev.nat Reg.pairState = 0 ∧
    (missed (Dev.secCycles 1 - 1)).dev.pathRuns = true ∧ (missed (Dev.secCycles 1 - 1)).dev.faultedLately (512 + 15) = true ∧ up.dev.answers = true ∧ up.dev.lone = true ∧
    up.dev.nat Reg.pairState = 0 ∧ up.dev.pathRuns = false ∧ up.dev.power.stoppedAt = none ∧ (255 < 256 ∨ 2560 ≤ 255) ∧
    (up.dev.pathRuns = false ∨ up.dev.carried up.dev.msc (34 + up.dev.lag) = false) :=
  (by decide +kernel)

/-- What `Obligations.TicksAndDeadlines` assumes, clause by clause, holds here (part 4). -/
theorem witness_ticksAndDeadlines_4 :
    stuck.dev.answers = true ∧ stuck.dev.lone = true ∧ stuck.dev.nat Reg.pairState = 0 ∧ stuck.dev.power.stoppedAt = none ∧ stuck.dev.pathRuns = true ∧
    stuck.dev.carried stuck.dev.msc (34 + stuck.dev.lag) = true ∧ stuck.dev.Reaches (stuck.dev.rend.doneAt + Dev.usCycles 1500) ∧ halted.dev.answers = true ∧
    halted.dev.lone = true ∧ halted.dev.nat Reg.pairState = 0 ∧ halted.dev.power.stoppedAt = some 1 ∧ halted.dev.pathRuns = false ∧
    halted.dev.Reaches (1 + Dev.usCycles 1500) ∧ (ticking PowerState.ready 65).dev.answers = true ∧ (ticking PowerState.ready 65).dev.lone = true ∧
    (ticking PowerState.ready 65).dev.nat Reg.pairState = 0 ∧ (ticking PowerState.ready 65).dev.lastStep = some 0 ∧
    (ticking PowerState.ready 65).dev.clock ≤ (ticking PowerState.ready 65).dev.tickAt + (ticking PowerState.ready 65).dev.tickCycles ∧
    (¬(ticking PowerState.ready 65).dev.Reaches (0 + Dev.usCycles 1500)) :=
  (by unfold Dev.Reaches; decide +kernel)
/-- Conversion channel 7 went to MUTE 64 dates before a date. -/
def muted (n : Nat) : State :=
  upWith fun d => { d with pool := { d.pool with chans := [(7, { resetChan with mode := 3, tracker := { resetTracker with state := 3, muteAt := 100 } })] }, alm := { d.alm with aligned := true, snMode := false }, msc := n }
/-- A dual run of 32 ticks from date 64, at a tick. -/
def dualRun (n : Nat) : State := upWith fun d => { d.setNat Reg.swapStatus 1 with mix := { d.mix with swapDate := 64, dualLen := 32 }, msc := n }

/-- What `Obligations.MuteAndDualRun` assumes, clause by clause, holds here. -/
theorem witness_muteAndDualRun :
    (muted 164).dev.answers = true ∧ ((muted 164).dev.conv 7).mode = 3 ∧ ((muted 164).dev.conv 7).tracker.state = 3 ∧
    ((muted 164).dev.conv 7).tracker.muteAt + 64 ≤ (muted 164).dev.mscNow ∧ (muted 163).dev.answers = true ∧
    (muted 163).dev.mscNow < ((muted 163).dev.conv 7).tracker.muteAt + 64 ∧ (dualRun 162).dev.answers = true ∧ (dualRun 162).dev.nat Reg.swapStatus = 1 ∧
    (dualRun 162).dev.mix.swapDate + (dualRun 162).dev.mix.dualLen + 65 + (dualRun 162).dev.lag < (dualRun 162).dev.msc ∧ (dualRun 161).dev.answers = true ∧
    ((dualRun 161).dev.nat Reg.swapStatus ≠ 1 ∨ (dualRun 161).dev.msc ≤ (dualRun 161).dev.mix.swapDate + (dualRun 161).dev.mix.dualLen + 65 + (dualRun 161).dev.lag) :=
  (by decide +kernel)
/-- Stream map 15 of a lone head is on, for packets of the management port; its FIFO is seeded or not. -/
def mapped (seeded : Bool) (run : Nat) : State :=
  upWith fun d => (((((d.setNat Reg.mapEnable 1 15).setNat Reg.mapUdpPort 5000 15).setNat Reg.mapObjectCount 1 15).setNat Reg.mapSource 0 15).setNat Reg.mapLastSequence 9 15).setFifo 15 fun g => { g with seeded, staleRun := run }
/-- A keepalive with a sequence number. -/
def keepalive (seq : Nat) : Octets := [0x4B, 0x50, 1, 0] ++ toBE 4 seq ++ List.replicate 8 0
/-- A packet of one record. -/
def moved (seq : Nat) : Octets := [0x4B, 0x50, 1, 1] ++ toBE 4 seq ++ List.replicate 8 0 ++ [0, 0, 0, 7] ++ toBE 4 100 ++ toBE 4 200 ++ toBE 4 300
/-- The module is a member of a group. -/
def memberRole : State := upWith fun d => d.setNat Reg.unitId 1
/-- Every FIFO's count is fixed for a boundary; FIFO 15 expects so many packets. -/
def counted (n now : Nat) : State :=
  upWith fun d => ({ d with motion := .fill 16 { resetFifo with counted := true, fixedFor := 64 }, alm := { d.alm with aligned := true, snMode := false }, msc := now }).setFifo 15 fun g => { g with fixedCount := n }
/-- FIFO 15 holds that packet whole. -/
def arrived : State :=
  { counted 1 60 with dev := (counted 1 60).dev.setFifo 15 fun g => { g with words := packetWords 15 10 0 [(0, 7, 100, 200, 300)] } }

/-- What `Obligations.MotionInput` assumes, clause by clause, holds here. -/
theorem witness_motionInput :
    memberRole.dev.answers = true ∧ memberRole.dev.isHead = false ∧ up.dev.answers = true ∧ 0 ≠ 4 ∧
    (up.dev.inForce Reg.udpMediaVlan = 0 ∨ 0 ≠ up.dev.inForce Reg.udpMediaVlan) ∧ up.dev.isHead = true ∧
    (4 = 4 ∧ 0 = 0 ∨ 4 ≠ 4 ∧ up.dev.inForce Reg.udpMediaVlan ≠ 0 ∧ 0 = up.dev.inForce Reg.udpMediaVlan ∧ 0 = 1) ∧ up.dev.mapsFor 0 5000 7 = [] ∧
    (mapped false 0).dev.answers = true ∧ (mapped false 0).dev.isHead = true ∧
    (4 = 4 ∧ 0 = 0 ∨ 4 ≠ 4 ∧ (mapped false 0).dev.inForce Reg.udpMediaVlan ≠ 0 ∧ 0 = (mapped false 0).dev.inForce Reg.udpMediaVlan ∧ 0 = 1) ∧
    (mapped false 0).dev.mapsFor 0 5000 7 = [15] ∧
    (List.length (ascii "K") ≠ 16 + 16 * beAt (ascii "K") 3 1 ∨ 30 < beAt (ascii "K") 3 1 ∨ beAt (ascii "K") 0 2 ≠ 19280 ∨ beAt (ascii "K") 2 1 ≠ 1) ∧
    (List.length (keepalive 9 ++ [0]) ≠ 16 + 16 * beAt (keepalive 9 ++ [0]) 3 1 ∨ 30 < beAt (keepalive 9 ++ [0]) 3 1 ∨ beAt (keepalive 9 ++ [0]) 0 2 ≠ 19280 ∨ beAt (keepalive 9 ++ [0]) 2 1 ≠ 1) :=
  (by decide +kernel)

/-- What `Obligations.MotionInput` assumes, clause by clause, holds here (part 2). -/
theorem witness_motionInput_2 :
    (mapped true 15).dev.answers = true ∧ (mapped true 15).dev.isHead = true ∧
    (4 = 4 ∧ 0 = 0 ∨ 4 ≠ 4 ∧ (mapped true 15).dev.inForce Reg.udpMediaVlan ≠ 0 ∧ 0 = (mapped true 15).dev.inForce Reg.udpMediaVlan ∧ 0 = 1) ∧
    (mapped true 15).dev.mapsFor 0 5000 7 = [15] ∧ List.length (keepalive 9) = 16 + 16 * beAt (keepalive 9) 3 1 ∧ beAt (keepalive 9) 3 1 ≤ 30 ∧
    beAt (keepalive 9) 0 2 = 19280 ∧ beAt (keepalive 9) 2 1 = 1 ∧ ((mapped true 15).dev.fifo 15).seeded = true ∧
    sdiff32 (beAt (keepalive 9) 4 4) ((mapped true 15).dev.nat Reg.mapLastSequence 15) ≤ 0 ∧ (mapped true 0).dev.answers = true ∧ (mapped true 0).dev.isHead = true ∧
    (4 = 4 ∧ 0 = 0 ∨ 4 ≠ 4 ∧ (mapped true 0).dev.inForce Reg.udpMediaVlan ≠ 0 ∧ 0 = (mapped true 0).dev.inForce Reg.udpMediaVlan ∧ 0 = 1) ∧
    (mapped true 0).dev.mapsFor 0 5000 7 = [15] ∧ List.length (keepalive 8) = 16 + 16 * beAt (keepalive 8) 3 1 ∧ beAt (keepalive 8) 3 1 ≤ 30 ∧ beAt (keepalive 8) 0 2 = 19280 ∧
    beAt (keepalive 8) 2 1 = 1 ∧ ((mapped true 0).dev.fifo 15).seeded = true ∧ sdiff32 (beAt (keepalive 8) 4 4) ((mapped true 0).dev.nat Reg.mapLastSequence 15) ≤ 0 :=
  (by decide +kernel)

/-- What `Obligations.MotionInput` assumes, clause by clause, holds here (part 3). -/
theorem witness_motionInput_3 :
    (mapped false 0).dev.answers = true ∧ (mapped false 0).dev.isHead = true ∧
    (4 = 4 ∧ 0 = 0 ∨ 4 ≠ 4 ∧ (mapped false 0).dev.inForce Reg.udpMediaVlan ≠ 0 ∧ 0 = (mapped false 0).dev.inForce Reg.udpMediaVlan ∧ 0 = 1) ∧
    (mapped false 0).dev.mapsFor 0 5000 7 = [15] ∧ List.length (keepalive 3) = 16 + 16 * beAt (keepalive 3) 3 1 ∧ beAt (keepalive 3) 3 1 ≤ 30 ∧
    beAt (keepalive 3) 0 2 = 19280 ∧ beAt (keepalive 3) 2 1 = 1 ∧
    (((mapped false 0).dev.fifo 15).seeded = false ∨ 0 < sdiff32 (beAt (keepalive 3) 4 4) ((mapped false 0).dev.nat Reg.mapLastSequence 15)) ∧ beAt (keepalive 3) 3 1 = 0 :=
  (by decide +kernel)

/-- What `Obligations.MotionInput` assumes, clause by clause, holds here (part 4). -/
theorem witness_motionInput_4 :
    (mapped true 0).dev.answers = true ∧ (mapped true 0).dev.isHead = true ∧
    (4 = 4 ∧ 0 = 0 ∨ 4 ≠ 4 ∧ (mapped true 0).dev.inForce Reg.udpMediaVlan ≠ 0 ∧ 0 = (mapped true 0).dev.inForce Reg.udpMediaVlan ∧ 0 = 1) ∧
    (mapped true 0).dev.mapsFor 0 5000 7 = [15] ∧ List.length (moved 10) = 16 + 16 * beAt (moved 10) 3 1 ∧ beAt (moved 10) 3 1 ≤ 30 ∧ beAt (moved 10) 0 2 = 19280 ∧
    beAt (moved 10) 2 1 = 1 ∧ (((mapped true 0).dev.fifo 15).seeded = false ∨ 0 < sdiff32 (beAt (moved 10) 4 4) ((mapped true 0).dev.nat Reg.mapLastSequence 15)) ∧
    0 < beAt (moved 10) 3 1 ∧ (mapped true 0).dev.motionLinks = [] ∧ ((mapped true 0).dev.fifo 15).dropping = false ∧
    [(0, 7, 100, 200, 300)] = List.filterMap (fun i => if beAt (moved 10) (16 + 16 * i) 2 < (mapped true 0).dev.nat Reg.mapObjectCount 15 then some ((beAt (moved 10) (16 + 16 * i) 2 + (mapped true 0).dev.nat Reg.mapObjectBase 15) % 65536, beAt (moved 10) (18 + 16 * i) 2, beAtS (moved 10) (20 + 16 * i) 4, beAtS (moved 10) (24 + 16 * i) 4, beAtS (moved 10) (28 + 16 * i) 4) else none) (List.range (beAt (moved 10) 3 1)) ∧
    ((mapped true 0).dev.fifo 15).words.length + (2 + 2 * [(0, 7, 100, 200, 300)].length) ≤ 63 ∧ 15 < 16 ∧ ((mapped true 0).dev.fifo 15).seeded = true ∧
    (mapped true 0).dev.Reaches (((mapped true 0).dev.fifo 15).acceptedAt + Dev.secCycles 1) ∧ up.dev.answers = true ∧
    ((up.dev.fifo 15).seeded = false ∨ ¬up.dev.Reaches ((up.dev.fifo 15).acceptedAt + Dev.secCycles 1)) ∧ up.dev.isHead = true ∧ 32 % 32 = 0 ∧ up.dev.mscNow + 32 = 32 :=
  (by unfold Dev.Reaches; decide +kernel)

/-- What `Obligations.MotionInput` assumes, clause by clause, holds here (part 5). -/
theorem witness_motionInput_5 :
    up.dev.answers = true ∧ (up.dev.isHead = false ∨ 64 % 32 ≠ 0 ∨ up.dev.mscNow + 32 ≠ 64) ∧ (counted 0 65).dev.answers = true ∧
    ((counted 0 65).dev.motion.items.all fun g => g.counted && decide (g.fixedCount ≤ packetsHeld g.words)) = true ∧
    (counted 0 65).dev.mscNow ≤ ((counted 0 65).dev.fifo 0).fixedFor + 1 ∧ arrived.dev.answers = true ∧
    (arrived.dev.motion.items.all fun g => g.counted && decide (g.fixedCount ≤ packetsHeld g.words)) = true ∧ arrived.dev.mscNow ≤ (arrived.dev.fifo 0).fixedFor + 1 ∧
    15 < 16 ∧
    (arrived.dev.fifo 15).words = [(packetWords 15 10 0 [(0, 7, 100, 200, 300)])[0], (packetWords 15 10 0 [(0, 7, 100, 200, 300)])[1], (packetWords 15 10 0 [(0, 7, 100, 200, 300)])[2], (packetWords 15 10 0 [(0, 7, 100, 200, 300)])[3]] ++ [] ∧
    (packetWords 15 10 0 [(0, 7, 100, 200, 300)])[0].tag = 16 ∧ (packetWords 15 10 0 [(0, 7, 100, 200, 300)])[1].tag = 17 ∧
    (packetWords 15 10 0 [(0, 7, 100, 200, 300)])[3].tag = 2 ∧ (packetWords 15 10 0 [(0, 7, 100, 200, 300)])[0].last = false ∧
    (packetWords 15 10 0 [(0, 7, 100, 200, 300)])[1].last = false ∧ (packetWords 15 10 0 [(0, 7, 100, 200, 300)])[2].last = false ∧
    (packetWords 15 10 0 [(0, 7, 100, 200, 300)])[3].last = true ∧
    ((packetWords 15 10 0 [(0, 7, 100, 200, 300)])[1].data = 0 ∨ boundaryOf (packetWords 15 10 0 [(0, 7, 100, 200, 300)])[1].data = (arrived.dev.fifo 0).fixedFor) ∧
    (∀ g < 16, (arrived.dev.fifo g).fixedCount = if g = 15 then 1 else 0) ∧ arrived.dev.mscNow < (arrived.dev.fifo 0).fixedFor ∧ (counted 1 65).dev.answers = true ∧
    ((counted 1 65).dev.motion.items.all fun g => g.counted && decide (g.fixedCount ≤ packetsHeld g.words)) = false :=
  (by decide +kernel)

/-- What `Obligations.MotionInput` assumes, clause by clause, holds here (part 6). -/
theorem witness_motionInput_6 :
    (counted 1 66).dev.answers = true ∧ 15 < 16 ∧ ((counted 1 66).dev.fifo 15).counted = true ∧
    packetsHeld ((counted 1 66).dev.fifo 15).words < ((counted 1 66).dev.fifo 15).fixedCount ∧ ((counted 1 66).dev.fifo 0).fixedFor + 1 < (counted 1 66).dev.mscNow ∧
    ((counted 1 66).dev.lone = true ∨ (counted 1 66).dev.isLead = true) ∧ (counted 1 65).dev.answers = true ∧
    (counted 1 65).dev.mscNow ≤ ((counted 1 65).dev.fifo 0).fixedFor + 1 :=
  (by decide +kernel)
/-- A calendar entry of slot 1023 at a date that changes OutputGain 7. -/
def calEntry (st : CalState) (date : Nat) : CalEntry :=
  { slot := 1023, gen := 3, state := st, unit := 0, session := 0, role := .vendor, date, closedAt := 10, order := 0, changes := [{ index := Reg.outputGain.base + 7, sub := Reg.outputGain.sub, val := .int 5 }], participants := [], answers := [], confirmed := [], decided := false, journalSeq := 0, bitmap := [], finalAt := 0, reserved := 0, loads := [], applied := false, handed := false, spectraAt := 0 }
/-- The head, in force, with one entry, in a power state, at a media count. -/
def withEntry (st : PowerState) (now : Nat) (e : CalEntry) : State :=
  upWith fun d => (({ inPower st d with alm := { d.alm with aligned := true, snMode := false }, msc := now }).setNat Reg.unitState 2 0).putCal e
/-- That entry as it prepares. -/
def preparing : CalEntry := { calEntry .preparing 128 with participants := [0] }
/-- An entry that changes the gain of zone 63, which takes no load but its check. -/
def zoneEntry (st : CalState) (parts : List Nat) : CalEntry := { calEntry st 128 with changes := [{ index := Reg.zoneGain.base + 63, sub := Reg.zoneGain.sub, val := .int 5 }], participants := parts }
/-- Its load is done. -/
def loaded : CalEntry := { preparing with loads := [(1, 0, 2)] }
/-- The entry's load is done. -/
def loadedState : State := withEntry .ready 100 loaded
/-- A FIR load of an entry, its spectra ready at a date. -/
def firLoaded (n : Nat) : CalEntry := { preparing with date := 16384, loads := [(1, 0, 2), (5, 9, 2)], spectraAt := n }
/-- It is prepared. -/
def prepared : CalEntry := { preparing with state := .prepared }
/-- The entry is prepared at its date. -/
def preparedState : State := withEntry .ready 128 prepared
/-- A prepared FIR change of output 9 at date 16,384; so many fades held. -/
def fir (n : Nat) : State :=
  let s := withEntry .ready (16384 - 4096) { preparing with state := .prepared, date := 16384, loads := [(5, 9, 2)] }
  { s with dev := { s.dev with corr := { s.dev.corr with fades := (List.range n).map fun m => { output := m + 100, date := 16384, slot := m, ends := none } } } }
/-- A prepared FIR change of output 9. -/
def firEntry : CalEntry := { preparing with state := .prepared, date := 16384, loads := [(5, 9, 2)] }

/-- What `Obligations.CalendarPrepare` assumes, clause by clause, holds here. -/
theorem witness_calendarPrepare :
    (withEntry PowerState.ready 0 (calEntry CalState.prepared 64)).dev.answers = true ∧ (withEntry PowerState.ready 0 (calEntry CalState.prepared 64)).dev.lone = true ∧
    (withEntry PowerState.ready 0 (calEntry CalState.prepared 64)).dev.nat Reg.pairState = 0 ∧
    (withEntry PowerState.ready 0 (calEntry CalState.prepared 64)).dev.heldEnds = [] ∧
    (withEntry PowerState.ready 0 (calEntry CalState.prepared 64)).dev.entryAt 1023 = some (calEntry CalState.prepared 64) ∧
    (calEntry CalState.prepared 64).state ≠ CalState.staged ∧ (withEntry PowerState.fault 100 (calEntry CalState.staged 128)).dev.answers = true ∧
    (withEntry PowerState.fault 100 (calEntry CalState.staged 128)).dev.lone = true ∧
    (withEntry PowerState.fault 100 (calEntry CalState.staged 128)).dev.nat Reg.pairState = 0 ∧
    (withEntry PowerState.fault 100 (calEntry CalState.staged 128)).dev.heldEnds = [] ∧ 1023 < 1024 ∧
    (withEntry PowerState.fault 100 (calEntry CalState.staged 128)).dev.entryAt 1023 = some (calEntry CalState.staged 128) ∧ (calEntry CalState.staged 128).slot = 1023 ∧
    (calEntry CalState.staged 128).handed = false ∧ (calEntry CalState.staged 128).state = CalState.staged ∧
    max (calEntry CalState.staged 128).closedAt ((calEntry CalState.staged 128).date - (withEntry PowerState.fault 100 (calEntry CalState.staged 128)).dev.nat Reg.calendarPrepareLead) ≤ (withEntry PowerState.fault 100 (calEntry CalState.staged 128)).dev.mscNow ∧
    List.filter (fun u => decide ((withEntry PowerState.fault 100 (calEntry CalState.staged 128)).dev.nat Reg.unitState u = 2)) ((withEntry PowerState.fault 100 (calEntry CalState.staged 128)).dev.entryModules (calEntry CalState.staged 128)) = [(withEntry PowerState.fault 100 (calEntry CalState.staged 128)).dev.ownUnit] ∧
    preparing = { slot := (calEntry CalState.staged 128).slot, gen := (calEntry CalState.staged 128).gen, state := CalState.preparing, unit := (calEntry CalState.staged 128).unit, session := (calEntry CalState.staged 128).session, role := (calEntry CalState.staged 128).role, date := (calEntry CalState.staged 128).date, closedAt := (calEntry CalState.staged 128).closedAt, order := (calEntry CalState.staged 128).order, changes := (calEntry CalState.staged 128).changes, participants := [(withEntry PowerState.fault 100 (calEntry CalState.staged 128)).dev.ownUnit], answers := (calEntry CalState.staged 128).answers, confirmed := (calEntry CalState.staged 128).confirmed, decided := (calEntry CalState.staged 128).decided, journalSeq := (calEntry CalState.staged 128).journalSeq, bitmap := (calEntry CalState.staged 128).bitmap, finalAt := (calEntry CalState.staged 128).finalAt, reserved := (calEntry CalState.staged 128).reserved, loads := (calEntry CalState.staged 128).loads, applied := (calEntry CalState.staged 128).applied, handed := (calEntry CalState.staged 128).handed, spectraAt := (calEntry CalState.staged 128).spectraAt } ∧
    (withEntry PowerState.fault 100 (calEntry CalState.staged 128)).dev.power.state = PowerState.fault ∧ (calEntry CalState.staged 128).answers = [] :=
  (by decide +kernel)

/-- What `Obligations.CalendarPrepare` assumes, clause by clause, holds here (part 2). -/
theorem witness_calendarPrepare_2 :
    (withEntry PowerState.ready 100 (zoneEntry CalState.staged [])).dev.answers = true ∧ (withEntry PowerState.ready 100 (zoneEntry CalState.staged [])).dev.lone = true ∧
    (withEntry PowerState.ready 100 (zoneEntry CalState.staged [])).dev.nat Reg.pairState = 0 ∧
    (withEntry PowerState.ready 100 (zoneEntry CalState.staged [])).dev.heldEnds = [] ∧ 1023 < 1024 ∧
    (withEntry PowerState.ready 100 (zoneEntry CalState.staged [])).dev.entryAt 1023 = some (zoneEntry CalState.staged []) ∧ (zoneEntry CalState.staged []).slot = 1023 ∧
    (zoneEntry CalState.staged []).handed = false ∧ (zoneEntry CalState.staged []).state = CalState.staged ∧
    max (zoneEntry CalState.staged []).closedAt ((zoneEntry CalState.staged []).date - (withEntry PowerState.ready 100 (zoneEntry CalState.staged [])).dev.nat Reg.calendarPrepareLead) ≤ (withEntry PowerState.ready 100 (zoneEntry CalState.staged [])).dev.mscNow ∧
    List.filter (fun u => decide ((withEntry PowerState.ready 100 (zoneEntry CalState.staged [])).dev.nat Reg.unitState u = 2)) ((withEntry PowerState.ready 100 (zoneEntry CalState.staged [])).dev.entryModules (zoneEntry CalState.staged [])) = [(withEntry PowerState.ready 100 (zoneEntry CalState.staged [])).dev.ownUnit] ∧
    zoneEntry CalState.preparing [0] = { slot := (zoneEntry CalState.staged []).slot, gen := (zoneEntry CalState.staged []).gen, state := CalState.preparing, unit := (zoneEntry CalState.staged []).unit, session := (zoneEntry CalState.staged []).session, role := (zoneEntry CalState.staged []).role, date := (zoneEntry CalState.staged []).date, closedAt := (zoneEntry CalState.staged []).closedAt, order := (zoneEntry CalState.staged []).order, changes := (zoneEntry CalState.staged []).changes, participants := [(withEntry PowerState.ready 100 (zoneEntry CalState.staged [])).dev.ownUnit], answers := (zoneEntry CalState.staged []).answers, confirmed := (zoneEntry CalState.staged []).confirmed, decided := (zoneEntry CalState.staged []).decided, journalSeq := (zoneEntry CalState.staged []).journalSeq, bitmap := (zoneEntry CalState.staged []).bitmap, finalAt := (zoneEntry CalState.staged []).finalAt, reserved := (zoneEntry CalState.staged []).reserved, loads := (zoneEntry CalState.staged []).loads, applied := (zoneEntry CalState.staged []).applied, handed := (zoneEntry CalState.staged []).handed, spectraAt := (zoneEntry CalState.staged []).spectraAt } ∧
    ((withEntry PowerState.ready 100 (zoneEntry CalState.staged [])).dev.power.state = PowerState.quiet ∨ (withEntry PowerState.ready 100 (zoneEntry CalState.staged [])).dev.power.state.runs = true) ∧
    (Dev.putCal (zoneEntry CalState.preparing [0]) (withEntry PowerState.ready 100 (zoneEntry CalState.staged [])).dev).jointCheck (zoneEntry CalState.preparing [0]) = true ∧
    elemsOf ((Dev.putCal (zoneEntry CalState.preparing [0]) (withEntry PowerState.ready 100 (zoneEntry CalState.staged [])).dev).changesHere (zoneEntry CalState.preparing [0])) Dev.touchesTx = [] ∧
    List.flatMap loadsOf ((Dev.putCal (zoneEntry CalState.preparing [0]) (withEntry PowerState.ready 100 (zoneEntry CalState.staged [])).dev).changesHere (zoneEntry CalState.preparing [0])) = [] ∧
    (Dev.putCal (zoneEntry CalState.preparing [0]) (withEntry PowerState.ready 100 (zoneEntry CalState.staged [])).dev).liftPut? 1 (1023 % 256) (LiftJob.prepare 1023) = some (((Dev.putCal (zoneEntry CalState.preparing [0]) (withEntry PowerState.ready 100 (zoneEntry CalState.staged [])).dev).liftPut? 1 255 (LiftJob.prepare 1023)).getD Dev.reset) ∧
    (((Dev.putCal (zoneEntry CalState.preparing [0]) (withEntry PowerState.ready 100 (zoneEntry CalState.staged [])).dev).liftPut? 1 255 (LiftJob.prepare 1023)).getD Dev.reset).liftRoom ((((Dev.putCal (zoneEntry CalState.preparing [0]) (withEntry PowerState.ready 100 (zoneEntry CalState.staged [])).dev).liftPut? 1 255 (LiftJob.prepare 1023)).getD Dev.reset).kindLevel 1) = true :=
  (by decide +kernel)

/-- What `Obligations.CalendarPrepare` assumes, clause by clause, holds here (part 3). -/
theorem witness_calendarPrepare_3 :
    loadedState.dev.answers = true ∧ loadedState.dev.lone = true ∧ loadedState.dev.nat Reg.pairState = 0 ∧ loadedState.dev.heldEnds = [] ∧ 1023 < 1024 ∧
    loadedState.dev.entryAt 1023 = some loaded ∧ loaded.slot = 1023 ∧ loaded.handed = false ∧ loaded.state = CalState.preparing ∧ loaded.loads ≠ [] ∧
    (∀ l ∈ loaded.loads, l.2.2 = 2) ∧ loaded.participants = [loadedState.dev.ownUnit] ∧ loaded.answers = [] ∧
    ((∀ l ∈ loaded.loads, l.1 ≠ 5) ∨ loaded.spectraAt + 2 * loadedState.dev.bMax ≤ loaded.date) :=
  (by decide +kernel)

/-- What `Obligations.CalendarPrepare` assumes, clause by clause, holds here (part 4). -/
theorem witness_calendarPrepare_4 :
    (withEntry PowerState.ready 12000 (firLoaded 8192)).dev.answers = true ∧ (withEntry PowerState.ready 12000 (firLoaded 8192)).dev.lone = true ∧
    (withEntry PowerState.ready 12000 (firLoaded 8192)).dev.nat Reg.pairState = 0 ∧ (withEntry PowerState.ready 12000 (firLoaded 8192)).dev.heldEnds = [] ∧ 1023 < 1024 ∧
    (withEntry PowerState.ready 12000 (firLoaded 8192)).dev.entryAt 1023 = some (firLoaded 8192) ∧ (firLoaded 8192).slot = 1023 ∧ (firLoaded 8192).handed = false ∧
    (firLoaded 8192).state = CalState.preparing ∧ (firLoaded 8192).loads ≠ [] ∧ (∀ l ∈ (firLoaded 8192).loads, l.2.2 = 2) ∧
    (firLoaded 8192).participants = [(withEntry PowerState.ready 12000 (firLoaded 8192)).dev.ownUnit] ∧ (firLoaded 8192).answers = [] ∧
    ((∀ l ∈ (firLoaded 8192).loads, l.1 ≠ 5) ∨ (firLoaded 8192).spectraAt + 2 * (withEntry PowerState.ready 12000 (firLoaded 8192)).dev.bMax ≤ (firLoaded 8192).date) :=
  (by decide +kernel)

/-- What `Obligations.CalendarPrepare` assumes, clause by clause, holds here (part 5). -/
theorem witness_calendarPrepare_5 :
    (withEntry PowerState.ready 12000 (firLoaded 16383)).dev.answers = true ∧ (withEntry PowerState.ready 12000 (firLoaded 16383)).dev.lone = true ∧
    (withEntry PowerState.ready 12000 (firLoaded 16383)).dev.nat Reg.pairState = 0 ∧ (withEntry PowerState.ready 12000 (firLoaded 16383)).dev.heldEnds = [] ∧ 1023 < 1024 ∧
    (withEntry PowerState.ready 12000 (firLoaded 16383)).dev.entryAt 1023 = some (firLoaded 16383) ∧ (firLoaded 16383).slot = 1023 ∧ (firLoaded 16383).handed = false ∧
    (firLoaded 16383).state = CalState.preparing ∧ (firLoaded 16383).loads ≠ [] ∧ (∀ l ∈ (firLoaded 16383).loads, l.2.2 = 2) ∧
    (firLoaded 16383).participants = [(withEntry PowerState.ready 12000 (firLoaded 16383)).dev.ownUnit] ∧ (firLoaded 16383).answers = [] ∧
    (∃ l ∈ (firLoaded 16383).loads, l.1 = 5) ∧ (firLoaded 16383).date < (firLoaded 16383).spectraAt + 2 * (withEntry PowerState.ready 12000 (firLoaded 16383)).dev.bMax :=
  (by decide +kernel)

/-- What `Obligations.CalendarPrepare` assumes, clause by clause, holds here (part 6). -/
theorem witness_calendarPrepare_6 :
    preparedState.dev.answers = true ∧ preparedState.dev.lone = true ∧ preparedState.dev.nat Reg.pairState = 0 ∧ preparedState.dev.heldEnds = [] ∧ 1023 < 1024 ∧
    preparedState.dev.entryAt 1023 = some prepared ∧ prepared.slot = 1023 ∧ prepared.handed = false ∧ prepared.decided = false ∧
    prepared.participants = [preparedState.dev.ownUnit] ∧ prepared.date - 32 ≤ preparedState.dev.mscNow ∧ prepared.state = CalState.prepared ∧
    preparedState.dev.mscNow ≤ prepared.date :=
  (by decide +kernel)

/-- What `Obligations.CalendarPrepare` assumes, clause by clause, holds here (part 7). -/
theorem witness_calendarPrepare_7 :
    (withEntry PowerState.ready 96 preparing).dev.answers = true ∧ (withEntry PowerState.ready 96 preparing).dev.lone = true ∧
    (withEntry PowerState.ready 96 preparing).dev.nat Reg.pairState = 0 ∧ (withEntry PowerState.ready 96 preparing).dev.heldEnds = [] ∧ 1023 < 1024 ∧
    (withEntry PowerState.ready 96 preparing).dev.entryAt 1023 = some preparing ∧ preparing.slot = 1023 ∧ preparing.handed = false ∧ preparing.decided = false ∧
    preparing.participants = [(withEntry PowerState.ready 96 preparing).dev.ownUnit] ∧ preparing.date - 32 ≤ (withEntry PowerState.ready 96 preparing).dev.mscNow ∧
    preparing.state = CalState.preparing ∧ preparing.answers = [] :=
  (by decide +kernel)

/-- What `Obligations.CalendarPrepare` assumes, clause by clause, holds here (part 8). -/
theorem witness_calendarPrepare_8 :
    (fir 255).dev.answers = true ∧ (fir 255).dev.lone = true ∧ (fir 255).dev.nat Reg.pairState = 0 ∧ (fir 255).dev.heldEnds = [] ∧
    16384 - 2 * (fir 255).dev.bMax = (fir 255).dev.mscNow ∧ (fir 255).dev.timer 31233 ≠ 16384 ∧ (fir 255).dev.cal.entries = [(1023, firEntry)] ∧
    firEntry.state = CalState.prepared ∧ firEntry.date = 16384 ∧ firEntry.loads = [(5, 9, 2)] ∧
    ((fir 255).dev.corr.fades.any fun a => a.output == 9 && a.date == 16384) = false ∧ (fir 255).dev.fadesHeld < (fir 255).dev.fadeLimit ∧ (fir 256).dev.answers = true ∧
    (fir 256).dev.lone = true ∧ (fir 256).dev.nat Reg.pairState = 0 ∧ (fir 256).dev.heldEnds = [] ∧ 16384 - 2 * (fir 256).dev.bMax = (fir 256).dev.mscNow ∧
    (fir 256).dev.timer 31233 ≠ 16384 ∧ (fir 256).dev.cal.entries = [(1023, firEntry)] ∧ ((fir 256).dev.corr.fades.any fun a => a.output == 9 && a.date == 16384) = false ∧
    (fir 256).dev.fadeLimit ≤ (fir 256).dev.fadesHeld :=
  (by decide +kernel)
/-- That entry decided. -/
def decided : CalEntry := { preparing with state := .prepared, decided := true }
/-- It is applied. -/
def applied : CalEntry := { decided with applied := true }
/-- The entry is applied, 64 samples ago. -/
def appliedState : State := withEntry .quiet 192 applied
/-- An entry is final. -/
def committed : State := { up with dev := up.dev.putCal (calEntry .committed 64) }
/-- A realignment is due. -/
def realigning : State := upWith fun d => { d with alm := { d.alm with aligned := true, snMode := false, realignDue := true } }

/-- What `Obligations.CalendarOutcomes` assumes, clause by clause, holds here. -/
theorem witness_calendarOutcomes :
    (withEntry PowerState.quiet 128 decided).dev.answers = true ∧ (withEntry PowerState.quiet 128 decided).dev.lone = true ∧
    (withEntry PowerState.quiet 128 decided).dev.nat Reg.pairState = 0 ∧ (withEntry PowerState.quiet 128 decided).dev.heldEnds = [] ∧
    (withEntry PowerState.quiet 128 decided).dev.journalAway = false ∧ 1023 < 1024 ∧ (withEntry PowerState.quiet 128 decided).dev.cal.entries = [(1023, decided)] ∧
    decided.slot = 1023 ∧ decided.handed = false ∧ decided.decided = true ∧ decided.applied = false ∧ decided.state = CalState.prepared ∧
    decided.participants = [(withEntry PowerState.quiet 128 decided).dev.ownUnit] ∧
    (withEntry PowerState.quiet 128 decided).dev.entryModules decided = [(withEntry PowerState.quiet 128 decided).dev.ownUnit] ∧
    decided.date ≤ (withEntry PowerState.quiet 128 decided).dev.mscNow ∧ (withEntry PowerState.quiet 128 decided).dev.power.state = PowerState.quiet ∧ 7 < 2560 ∧
    (withEntry PowerState.quiet 128 decided).dev.changesHere decided = [{ part := 0, found := foundOf Reg.outputGain 7, val := Val.int 5 }] :=
  (by decide +kernel)

/-- What `Obligations.CalendarOutcomes` assumes, clause by clause, holds here (part 2). -/
theorem witness_calendarOutcomes_2 :
    up.dev.answers = true ∧ up.dev.lone = true ∧ up.dev.nat Reg.pairState = 0 ∧ up.dev.heldEnds = [] ∧ up.dev.journalAway = false ∧ up.dev.cal.entries = [] ∧
    appliedState.dev.answers = true ∧ appliedState.dev.lone = true ∧ appliedState.dev.nat Reg.pairState = 0 ∧ appliedState.dev.heldEnds = [] ∧
    appliedState.dev.journalAway = false ∧ 1023 < 1024 ∧ appliedState.dev.cal.entries = [(1023, applied)] ∧ applied.slot = 1023 ∧ applied.handed = false ∧
    applied.applied = true ∧ applied.state.final = false ∧ applied.date + 64 ≤ appliedState.dev.mscNow :=
  (by decide +kernel)

/-- What `Obligations.CalendarOutcomes` assumes, clause by clause, holds here (part 3). -/
theorem witness_calendarOutcomes_3 :
    committed.dev.answers = true ∧ committed.dev.lone = true ∧ committed.dev.nat Reg.pairState = 0 ∧ committed.dev.heldEnds = [] ∧ committed.dev.journalAway = false ∧
    committed.dev.cal.entries = [(1023, calEntry CalState.committed 64)] ∧ (calEntry CalState.committed 64).state.final = true ∧
    committed.dev.Reaches ((calEntry CalState.committed 64).finalAt + Dev.secCycles 10) ∧ realigning.dev.answers = true ∧ realigning.dev.lone = true ∧
    realigning.dev.nat Reg.pairState = 0 ∧ realigning.dev.heldEnds = [] ∧ realigning.dev.journalAway = false ∧ realigning.dev.alm.realignDue = true ∧
    realigning.dev.alm.deferred = false ∧ realigning.dev.alm.aligned = true ∧ up.dev.answers = true ∧ up.dev.lone = true ∧ up.dev.nat Reg.pairState = 0 ∧
    up.dev.heldEnds = [] ∧ up.dev.journalAway = false ∧ up.dev.alm.realignDue = false :=
  (by unfold Dev.Reaches; decide +kernel)
/-- The head's journal. -/
def journal : State := upWith fun d => { d.setNat Reg.journalSeq 9 with cal := { d.cal with journal := [{ seq := 9, date := 64, unit := 0, changes := [] }] } }
/-- A standby. -/
def standby : State := { up with dev := paired 6 up.dev }
/-- A lift item of level 3 that prepares slot 1023. -/
def liftItem : LiftItem := { id := 5, kind := 1, level := 3, flow := 255, queuedAt := 0, startedAt := 0, job := .prepare 1023, failed := false, again := false }
/-- Engine 3 serves it. -/
def lifting : State := { up with dev := { (up.dev.putCal { preparing with loads := [(1, 0, 1)] }) with lift := { up.dev.lift with engines := ⟨[none, none, none, some liftItem], rfl⟩ } } }
/-- Its load runs. -/
def loading : CalEntry := { preparing with loads := [(1, 0, 1)] }
/-- It waits. -/
def waiting : State := upWith fun d => { d with lift := { d.lift with waiting := [liftItem] } }

/-- What `Obligations.ReplayLiftAndMirror` assumes, clause by clause, holds here. -/
theorem witness_replayLiftAndMirror :
    journal.dev.answers = true ∧ 1023 < 1024 ∧ journal.dev.isHead = true ∧ journal.dev.journalOldest ≤ journal.dev.nat Reg.journalSeq + 1 ∧
    (∀ r ∈ journal.dev.cal.journal, r.seq ≤ journal.dev.nat Reg.journalSeq) ∧ up.dev.answers = true ∧ 0 < 1024 ∧ up.dev.isHead = true ∧
    up.dev.journalOldest ≤ up.dev.nat Reg.journalSeq + 1 ∧ (∀ r ∈ up.dev.cal.journal, r.seq ≤ up.dev.nat Reg.journalSeq) ∧ standby.dev.answers = true ∧
    standby.dev.isLead = false ∧ up.dev.lift.engines.get none 2 = none ∧ lifting.dev.answers = true ∧ lifting.dev.lift.engines.get none 3 = some liftItem ∧
    liftItem.failed = false ∧ nget? lifting.dev.perturb.lift 3 = none ∧ lifting.dev.lift.waiting = [] ∧ liftItem.job = LiftJob.prepare 1023 ∧
    lifting.dev.entryAt 1023 = some loading ∧ loading.slot = 1023 ∧ up.dev.lift.waiting = [] :=
  (by decide +kernel)

/-- What `Obligations.ReplayLiftAndMirror` assumes, clause by clause, holds here (part 2). -/
theorem witness_replayLiftAndMirror_2 :
    waiting.dev.answers = true ∧ waiting.dev.lift.waiting = [liftItem] ∧ liftItem.level < 8 ∧
    waiting.dev.Reaches (liftItem.queuedAt + Dev.usCycles (waiting.dev.nat Reg.liftAgeLimit) + 1) ∧ nget? waiting.dev.limiter (10879232 + liftItem.level) = none ∧
    standby.dev.answers = true ∧ standby.dev.lone = false ∧ standby.dev.nat Reg.pairState = 6 ∧
    Dev.mirrorApply standby.mem (Reg.ptpDomain.base, Reg.ptpDomain.sub, [5]) standby.dev = some ((Dev.mirrorApply [] (Reg.ptpDomain.base, Reg.ptpDomain.sub, [5]) standby.dev).getD standby.dev) ∧
    ((Dev.mirrorApply [] (Reg.ptpDomain.base, Reg.ptpDomain.sub, [5]) standby.dev).getD standby.dev).power.resetDue = none ∧
    ((Dev.mirrorApply [] (Reg.ptpDomain.base, Reg.ptpDomain.sub, [5]) standby.dev).getD standby.dev).power.offDue = false ∧
    Dev.mirrorApply standby.mem (0, 0, []) standby.dev = none ∧ up.dev.answers = true ∧ up.dev.lone = true :=
  (by unfold Dev.Reaches; decide +kernel)
/-- Drada link 2 in a state. -/
def dradaLink (st : Nat) (f : DradaLink → DradaLink) : State := upWith fun d => ((d.setNat Reg.dradaLinkState st 2).setNat Reg.dradaEnable 1 2).setDlink 2 f
/-- Every candidate has been tried. -/
def dradaTried : State := dradaLink 1 fun l => { l with tried := 5 }
/-- One candidate is left. -/
def dradaLeft : State := dradaLink 1 fun l => { l with cand := 4, tried := 4 }
/-- An eye. -/
def smallEye : Eye := { coeffs := [], width := 5, height := 9 }
/-- The fifth candidate runs. -/
def dradaLocking : State := dradaLink 1 fun l => { l with cand := 5, tried := 1 }
/-- The link is UP on the fifth candidate. -/
def dradaUp : State := dradaLink 2 fun l => { l with cand := 5, lastGood := 5 }
/-- The same link, disabled. -/
def dradaOff : State := { dradaUp with dev := dradaUp.dev.setNat Reg.dradaEnable 0 2 }

/-- What `Obligations.DradaTraining` assumes, clause by clause, holds here. -/
theorem witness_dradaTraining :
    dradaTried.dev.answers = true ∧ 2 < 3 ∧ dradaTried.dev.nat Reg.dradaLinkState 2 = 1 ∧ dradaTried.dev.Reaches ((dradaTried.dev.dlink 2).candAt + Dev.msCycles 250) ∧
    (dradaTried.dev.dradaCandidates 2).length ≤ (dradaTried.dev.dlink 2).tried ∧ dradaLeft.dev.answers = true ∧ dradaLeft.dev.nat Reg.dradaLinkState 2 = 1 ∧
    dradaLeft.dev.Reaches ((dradaLeft.dev.dlink 2).candAt + Dev.msCycles 250) ∧ (dradaLeft.dev.dlink 2).tried < (dradaLeft.dev.dradaCandidates 2).length ∧
    dradaLocking.dev.answers = true ∧ dradaLocking.dev.nat Reg.dradaLinkState 2 = 1 ∧ (true ≠ dradaLocking.dev.flag Reg.dradaMacsec 2 ∨ up.dev.fr ≠ dradaLocking.dev.fr) ∧
    (false ≠ dradaLocking.dev.flag Reg.dradaMacsec 2 ∨ 1 ≠ dradaLocking.dev.fr) ∧ dradaUp.dev.answers = true ∧ dradaUp.dev.nat Reg.dradaLinkState 2 = 2 ∧
    dradaUp.dev.drada.formed = false ∧ dradaUp.dev.flag Reg.dradaEnable 2 = true ∧ (dradaUp.dev.dlink 2).lastGood ∈ dradaUp.dev.dradaCandidates 2 ∧
    dradaOff.dev.answers = true ∧ dradaOff.dev.nat Reg.dradaLinkState 2 = 2 ∧ dradaOff.dev.drada.formed = false ∧ dradaOff.dev.flag Reg.dradaEnable 2 = false :=
  (by unfold Dev.Reaches; decide +kernel)

/-- What `Obligations.DradaTraining` assumes, clause by clause, holds here (part 2). -/
theorem witness_dradaTraining_2 :
    dradaLocking.dev.answers = true ∧ 2 < 3 ∧ dradaLocking.dev.nat Reg.dradaLinkState 2 ≠ 2 ∧ (dradaLink 3 id).dev.answers = true ∧
    (dradaLink 3 id).dev.nat Reg.dradaLinkState 2 = 3 ∧ (dradaLink 3 id).dev.flag Reg.dradaEnable 2 = true ∧ (dradaLink 3 id).dev.dradaCandidates 2 = [1, 2, 3, 4, 5] ∧
    (dradaLink 3 id).dev.Reaches (((dradaLink 3 id).dev.dlink 2).candAt + Dev.secCycles 2) ∧ (dradaLink 2 id).dev.answers = true ∧
    (dradaLink 2 id).dev.nat Reg.dradaLinkState 2 = 2 ∧ ((dradaLink 2 id).dev.dlink 2).idle = false ∧ ((dradaLink 2 id).dev.dlink 2).waiting = [] ∧
    (dradaLink 2 id).dev.Reaches (((dradaLink 2 id).dev.dlink 2).busyAt + Dev.usCycles ((dradaLink 2 id).dev.nat Reg.dradaIdleAfter 2)) :=
  (by unfold Dev.Reaches; decide +kernel)
/-- A TICK frame. -/
def tickFrame : TickFrame := { tick := 77, tracked := [], tdm := [], mic := 0, seeds := [] }
/-- A cell for every unit, of a type on its virtual channel. -/
def cell (type vc arg : Nat) (payload : Octets) : Octets := cellOctets type 0 vc 0 0xFFFF 0 arg payload
/-- Such a cell on its flits. -/
def on (type vc arg : Nat) (payload : Octets) : Octets := onLane vc (cell type vc arg payload)
/-- A TICK cell whose sender complemented its CRC. -/
def stomped : Octets := (cell 2 0 0 []).take 60 ++ toBE 4 (0xFFFFFFFF - crc32c ((cell 2 0 0 []).take 60))

/-- What `Obligations.CellChecks` assumes, clause by clause, holds here. -/
theorem witness_cellChecks :
    up.dev.answers = true ∧ 2 < 3 ∧ nget? up.dev.perturb.dradaDelay 2 = none ∧
    Instr.dradaTickCell 2 [] tickFrame ∈ [Instr.dradaFeedCell 2 [], Instr.dradaTickCell 2 [] tickFrame, Instr.dradaControlCell 2 [], Instr.dradaCalendarCell 2 [] (CalMsg.cancel 0), Instr.dradaMotionCell 2 [] (MotionMsg.counts 0 []), Instr.dradaTimeCell 2 [] (TimeMsg.request 0), Instr.dradaCreditCell 2 [], Instr.dradaReplayCell 2 []] ∧
    up.dev.nat Reg.dradaLinkState 2 ≠ 2 ∧ (dradaLink 2 id).dev.answers = true ∧ nget? (dradaLink 2 id).dev.perturb.dradaDelay 2 = none ∧
    Instr.dradaTickCell 2 (onLane 0 stomped) tickFrame ∈ [Instr.dradaFeedCell 2 (onLane 0 stomped), Instr.dradaTickCell 2 (onLane 0 stomped) tickFrame, Instr.dradaControlCell 2 (onLane 0 stomped), Instr.dradaCalendarCell 2 (onLane 0 stomped) (CalMsg.cancel 0), Instr.dradaMotionCell 2 (onLane 0 stomped) (MotionMsg.counts 0 []), Instr.dradaTimeCell 2 (onLane 0 stomped) (TimeMsg.request 0), Instr.dradaCreditCell 2 (onLane 0 stomped), Instr.dradaReplayCell 2 (onLane 0 stomped)] ∧
    (dradaLink 2 id).dev.nat Reg.dradaLinkState 2 = 2 ∧ (dradaLink 2 id).dev.flag Reg.dradaMacsec 2 = false ∧ onLane 0 stomped = onLane 0 stomped ∧ 64 ≤ List.length stomped ∧
    List.length stomped ≤ 4096 ∧ List.length stomped % 4 = 0 ∧ beAt stomped 4 2 = List.length stomped ∧ crcState stomped = 1 ∧
    Instr.dradaReplayCell 2 (onLane 0 (List.replicate 63 0)) ∈ [Instr.dradaFeedCell 2 (onLane 0 (List.replicate 63 0)), Instr.dradaTickCell 2 (onLane 0 (List.replicate 63 0)) tickFrame, Instr.dradaControlCell 2 (onLane 0 (List.replicate 63 0)), Instr.dradaCalendarCell 2 (onLane 0 (List.replicate 63 0)) (CalMsg.cancel 0), Instr.dradaMotionCell 2 (onLane 0 (List.replicate 63 0)) (MotionMsg.counts 0 []), Instr.dradaTimeCell 2 (onLane 0 (List.replicate 63 0)) (TimeMsg.request 0), Instr.dradaCreditCell 2 (onLane 0 (List.replicate 63 0)), Instr.dradaReplayCell 2 (onLane 0 (List.replicate 63 0))] ∧
    onLane 0 (List.replicate 63 0) = onLane 0 (List.replicate 63 0) ∧ List.replicate 63 0 ≠ [] ∧
    ((List.replicate 63 0).length < 64 ∨ 4096 < (List.replicate 63 0).length ∨ (List.replicate 63 0).length % 4 ≠ 0 ∨ beAt (List.replicate 63 0) 4 2 ≠ (List.replicate 63 0).length) :=
  (by decide +kernel)
/-- DA is UP; the module does not head a group. -/
def below : State := upWith fun d => { (d.setNat Reg.dradaLinkState 2 0) with force := [(Reg.groupRole.key, .int 0)] }
/-- A FEED cell of object 9. -/
def aFeed : Octets := on 1 0 (65536 * 9 + 1) (toBE 8 77 ++ toBE 4 5)
/-- A standby with its pair link UP. -/
def pairLink : State := { up with dev := paired 6 (dradaLink 2 id).dev }
/-- A TIME exchange is open. -/
def exchanging : State := { below with dev := below.dev.setDlink 0 fun l => { l with timeSent := some 5 } }
/-- Credits have been spent. -/
def spent : State := dradaLink 2 fun l => { l with credits := [1000, 256, 0] }
/-- A cell stands in the replay buffer. -/
def replaying : State := dradaLink 2 fun l => { l with replay := [(0, cell 2 0 0 [])], txSeq := 1 }
/-- A credit is to be returned. -/
def freed : State := dradaLink 2 fun l => { l with freed := [1, 0, 0] }
/-- A module of a formed group, below its head. -/
def member_ : State := { below with dev := { below.dev with drada := { below.dev.drada with formed := true } } }

/-- What `Obligations.CellEffects` assumes, clause by clause, holds here. -/
theorem witness_cellEffects :
    below.dev.answers = true ∧ 0 < 3 ∧ 0 = 0 ∧
    Dev.receiveCell 0 aFeed (Dev.stompFeed 0 aFeed below.dev) = ((Dev.receiveCell 0 aFeed (Dev.stompFeed 0 aFeed below.dev)).1, some (cell 1 0 (65536 * 9 + 1) (toBE 8 77 ++ toBE 4 5))) ∧
    beAt (cell 1 0 (65536 * 9 + 1) (toBE 8 77 ++ toBE 4 5)) 0 1 = 1 ∧ (Dev.receiveCell 0 aFeed (Dev.stompFeed 0 aFeed below.dev)).1.headsGroup = false ∧
    (Dev.receiveCell 0 aFeed (Dev.stompFeed 0 aFeed below.dev)).1.lone = true ∧ (Dev.receiveCell 0 aFeed (Dev.stompFeed 0 aFeed below.dev)).1.dlinkUp 1 = false ∧
    (Dev.receiveCell 0 aFeed (Dev.stompFeed 0 aFeed below.dev)).1.dlinkUp 2 = false ∧ 9 = beAt (cell 1 0 (65536 * 9 + 1) (toBE 8 77 ++ toBE 4 5)) 12 4 / 65536 ∧
    1 = beAt (cell 1 0 (65536 * 9 + 1) (toBE 8 77 ++ toBE 4 5)) 12 4 % 65536 ∧ 0 < 1 ∧ 1 ≤ 64 ∧
    77 = beAt (List.take (List.length (cell 1 0 (65536 * 9 + 1) (toBE 8 77 ++ toBE 4 5)) - 20) (List.drop 16 (cell 1 0 (65536 * 9 + 1) (toBE 8 77 ++ toBE 4 5)))) 0 8 ∧
    (Dev.receiveCell 0 aFeed (Dev.stompFeed 0 aFeed below.dev)).1.msc ≤ 77 ∧ pairLink.dev.answers = true ∧ 2 < 3 ∧ 2 = 2 ∧
    Dev.receiveCell 2 (on 2 0 0 []) pairLink.dev = ((Dev.receiveCell 2 (on 2 0 0 []) pairLink.dev).1, some (cell 2 0 0 [])) ∧ beAt (cell 2 0 0 []) 0 1 = 2 ∧
    (Dev.receiveCell 2 (on 2 0 0 []) pairLink.dev).1.lone = false ∧ (Dev.receiveCell 2 (on 2 0 0 []) pairLink.dev).1.nat Reg.pairState = 6 :=
  (by decide +kernel)

/-- What `Obligations.CellEffects` assumes, clause by clause, holds here (part 2). -/
theorem witness_cellEffects_2 :
    pairLink.dev.answers = true ∧ 2 < 3 ∧
    Dev.passCell 2 CellType.motion false (on 5 1 0 []) pairLink.dev = ((Dev.passCell 2 CellType.motion false (on 5 1 0 []) pairLink.dev).1, some (cell 5 1 0 [])) ∧
    (Dev.passCell 2 CellType.motion false (on 5 1 0 []) pairLink.dev).1.isHead = false ∧ below.dev.answers = true ∧ 0 < 3 ∧
    Dev.passCell 0 CellType.calendar false (on 4 1 0 []) below.dev = ((Dev.passCell 0 CellType.calendar false (on 4 1 0 []) below.dev).1, some (cell 4 1 0 [])) ∧
    (Dev.passCell 0 CellType.calendar false (on 4 1 0 []) below.dev).1.lone = true ∧ 2 = 2 ∧
    Dev.passCell 2 CellType.control false (on 3 2 8 (toBE 4 70000 ++ toBE 4 9)) pairLink.dev = ((Dev.passCell 2 CellType.control false (on 3 2 8 (toBE 4 70000 ++ toBE 4 9)) pairLink.dev).1, some (cell 3 2 8 (toBE 4 70000 ++ toBE 4 9))) ∧
    (Dev.passCell 2 CellType.control false (on 3 2 8 (toBE 4 70000 ++ toBE 4 9)) pairLink.dev).1.lone = false ∧
    (Dev.passCell 2 CellType.control false (on 3 2 8 (toBE 4 70000 ++ toBE 4 9)) pairLink.dev).1.nat Reg.pairState = 6 ∧
    beAt (cell 3 2 8 (toBE 4 70000 ++ toBE 4 9)) 12 4 = 8 ∧ exchanging.dev.answers = true ∧ 0 = 0 ∧
    Dev.receiveCell 0 (on 7 1 0 []) exchanging.dev = ((Dev.receiveCell 0 (on 7 1 0 []) exchanging.dev).1, some (cell 7 1 0 [])) ∧ beAt (cell 7 1 0 []) 0 1 = 7 ∧
    ((Dev.receiveCell 0 (on 7 1 0 []) exchanging.dev).1.dlink 0).timeSent = some 5 ∧
    -5002 = rdiv ((↑70000 : ℤ) - (↑5 : ℤ) + ((↑(Dev.receiveCell 0 (on 7 1 0 []) exchanging.dev).1.almNow : ℤ) - (↑80000 : ℤ))) 2 + (Dev.receiveCell 0 (on 7 1 0 []) exchanging.dev).1.int Reg.dradaAsymmetry * nsUnit :=
  (by decide +kernel)

/-- What `Obligations.CellEffects` assumes, clause by clause, holds here (part 3). -/
theorem witness_cellEffects_3 :
    spent.dev.answers = true ∧ 2 < 3 ∧
    Dev.receiveCell 2 (on 9 3 0 [0, 25, 0, 1, 0, 7]) spent.dev = ((Dev.receiveCell 2 (on 9 3 0 [0, 25, 0, 1, 0, 7]) spent.dev).1, some (cell 9 3 0 [0, 25, 0, 1, 0, 7])) ∧
    beAt (cell 9 3 0 [0, 25, 0, 1, 0, 7]) 0 1 = 9 ∧ ((Dev.receiveCell 2 (on 9 3 0 [0, 25, 0, 1, 0, 7]) spent.dev).1.dlink 2).waiting = [] ∧
    ((Dev.receiveCell 2 (on 9 3 0 [0, 25, 0, 1, 0, 7]) spent.dev).1.dlink 2).credits.length = 3 ∧ replaying.dev.answers = true ∧
    Dev.receiveCell 2 (on 10 3 65535 []) replaying.dev = ((Dev.receiveCell 2 (on 10 3 65535 []) replaying.dev).1, some (cell 10 3 65535 [])) ∧
    beAt (cell 10 3 65535 []) 0 1 = 10 ∧ ((Dev.receiveCell 2 (on 10 3 65535 []) replaying.dev).1.dlink 2).replay = [(0, cell 2 0 0 [])] ∧
    (0 + 65536 - beAt (cell 10 3 65535 []) 12 4 % 65536) % 65536 < 32768 ∧ (Dev.receiveCell 2 (on 10 3 65535 []) replaying.dev).1.flag Reg.dradaMacsec 2 = false ∧
    below.dev.answers = true ∧ 0 < 3 ∧ 0 = 0 ∧ below.dev.nat Reg.dradaLinkState = 2 ∧ (below.dev.dlink 0).timeSent = none ∧
    below.dev.Reaches (below.dev.timerFrom 200 + Dev.msCycles 1) :=
  (by unfold Dev.Reaches; decide +kernel)

/-- What `Obligations.CellEffects` assumes, clause by clause, holds here (part 4). -/
theorem witness_cellEffects_4 :
    freed.dev.answers = true ∧ 2 < 3 ∧ freed.dev.nat Reg.dradaLinkState 2 = 2 ∧ freed.dev.perturb.credits = [] ∧ (freed.dev.dlink 2).freed = [1, 0, 0] ∧
    (1 ≠ 0 ∨ 0 ≠ 0 ∨ 0 ≠ 0) ∧ freed.dev.Reaches ((freed.dev.dlink 2).returnedAt + Dev.usCycles 1) ∧ member_.dev.answers = true ∧ 0 < 3 ∧ member_.dev.belowHead = true ∧
    member_.dev.nat Reg.pairState = 0 :=
  (by unfold Dev.Reaches; decide +kernel)
/-- A head with what it has collected, its group formed or not. -/
def head (l : List Member) (formed : Bool) : State := upWith fun d => { d with drada := { d.drada with collected := l, formed } }
/-- One module at DB. -/
def found : Member := { path := [1], serial := [1], rate := up.dev.fr, parts := 1, outs := [2560, 2560, 0, 0, 0], pairState := 0, headRole := false }

/-- What `Obligations.GroupForming` assumes, clause by clause, holds here. -/
theorem witness_groupForming :
    (head [] true).dev.answers = true ∧ (head [] true).dev.headsGroup = true ∧ (head [] true).dev.Reaches ((head [] true).dev.drada.formBy.getD (head [] true).dev.clock) ∧
    (head [] true).dev.drada.collected = [] ∧ (head [] true).dev.drada.formed = true ∧ (head [] false).dev.answers = true ∧ (head [] false).dev.headsGroup = true ∧
    (head [] false).dev.Reaches ((head [] false).dev.drada.formBy.getD (head [] false).dev.clock) ∧ (head [] false).dev.drada.collected = [] ∧
    (head [] false).dev.drada.formed = false ∧ (head [found] false).dev.answers = true ∧ (head [found] false).dev.headsGroup = true ∧
    (head [found] false).dev.Reaches ((head [found] false).dev.drada.formBy.getD (head [found] false).dev.clock) ∧ (head [found] false).dev.drada.collected = [found] ∧
    found.headRole = false ∧ found.rate = (head [found] false).dev.fr ∧ found.path = [1] ∧ found.parts ≤ 1 ∧ (head [found] false).dev.parts ≤ 1 ∧
    (head [found] false).dev.drada.ring = false ∧ (head [found] false).dev.extraLatency 1 ≤ (head [found] false).dev.nat Reg.groupLatencyLimit :=
  (by unfold Dev.Reaches; decide +kernel)
/-- The session of handle 1 with a role. -/
def session_ (role : Role) : Session :=
  { handle := 1, role, can := false, srcIp := 0x0A000001, cert := [], commissioning := false, lastFrameAt := 0, cache := [(4, cacheOctets 0 false [1, 2])], selects := [], cmdLast := [], queue := [], lost := 0, sentAt := [] }
/-- A module with that session, changed. -/
def asked (role : Role) (f : Dev → Dev) : State := upWith fun d => f { d with sessions := [session_ role] }
/-- SessionTimeout. -/
def timeoutFound : Found := foundOf Reg.sessionTimeout 0
/-- A subscription of session 1 to SessionTimeout. -/
def subscription : Subscription := { id := 65535, session := 1, unit := 0, index := 0x1000, sub := 5, period := 3, nextBlock := 0, last := [], remote := 0 }
/-- The session has it. -/
def subscribed : State := asked .observer fun d => { d with subs := [subscription] }

/-- What `Obligations.EntryRequests` assumes, clause by clause, holds here. -/
theorem witness_entryRequests :
    ((asked Role.observer id).dev.answers = true ∧ (asked Role.observer id).dev.Alone ∧ 4096 < 65536 ∧ 5 < 256 ∧ timeoutFound.row.ty ≠ Ty.blob ∧
    List.length (((asked Role.observer id).dev.served 1).readWire Place.whole 1 timeoutFound) ≤ 1431 ∧ 0 < 65536 ∧ 0 < 256 ∧ (asked Role.engineer id).dev.answers = true ∧
    (asked Role.engineer id).dev.Alone ∧ 30 < 65536 ∧ 2 ≤ Role.engineer.rank ∧ 3 < 256 ∧ valueLength 3 [255, 255] = some [255, 255].length ∧ [255, 255].length ≤ 1024) ∧
    (asked Role.observer id).dev.Asks 1 7 Role.observer ∧ (asked Role.observer id).dev.locate Place.whole 4096 5 = Except.ok timeoutFound ∧
    (asked Role.observer id).dev.locate Place.whole 0 0 = Except.error Status.noSub ∧ (asked Role.engineer id).dev.Asks 1 7 Role.engineer ∧
    ((asked Role.engineer id).dev.served 1).Takes Reg.sessionTimeout 0 (Val.int (↑30 : ℤ)) ∧
    ((asked Role.engineer id).dev.served 1).checkWrite (asked Role.engineer id).mem { session := 1, role := Role.engineer } Place.whole false 4096 5 3 [255, 255] = Except.error Status.range :=
  ⟨(by unfold Dev.Alone; decide +kernel), ⟨by decide, by decide, by decide +kernel, _, rfl, rfl, rfl, by decide⟩, okOf (by decide +kernel), errorOf (by decide +kernel),
    ⟨by decide, by decide, by decide +kernel, _, rfl, rfl, rfl, by decide⟩, ⟨⟨_, rfl⟩, by decide +kernel⟩, errorOf (by decide +kernel)⟩

/-- What `Obligations.EntryRequests` assumes, clause by clause, holds here (part 2). -/
theorem witness_entryRequests_2 :
    ((asked Role.engineer id).dev.answers = true ∧ (asked Role.engineer id).dev.Alone ∧ 24383 < 65536 ∧ 1 < 256 ∧ 8 < 256 ∧
    valueLength 8 [0, 0, 0, 5] = some [0, 0, 0, 5].length ∧ [0, 0, 0, 5].length ≤ 1024 ∧ (foundOf Reg.zoneGain 63, Val.int 5).1.row.commit = Commit.dated ∧
    (asked Role.engineer id).dev.datedRoom 1 = true ∧ (asked Role.observer id).dev.answers = true ∧ (asked Role.observer id).dev.Alone ∧ 4096 < 65536 ∧ 5 < 256 ∧ 3 < 65536 ∧
    (asked Role.observer id).dev.subs = []) ∧ (asked Role.engineer id).dev.Asks 1 7 Role.engineer ∧
    ((asked Role.engineer id).dev.served 1).checkWrite (asked Role.engineer id).mem { session := 1, role := Role.engineer } Place.whole false 24383 1 8 [0, 0, 0, 5] = Except.ok (foundOf Reg.zoneGain 63, Val.int 5) ∧
    (asked Role.observer id).dev.Asks 1 7 Role.observer ∧ (asked Role.observer id).dev.locate Place.whole 4096 5 = Except.ok timeoutFound :=
  ⟨(by unfold Dev.Alone; decide +kernel), ⟨by decide, by decide, by decide +kernel, _, rfl, rfl, rfl, by decide⟩, okOf (by decide +kernel),
    ⟨by decide, by decide, by decide +kernel, _, rfl, rfl, rfl, by decide⟩, okOf (by decide +kernel)⟩

/-- What `Obligations.EntryRequests` assumes, clause by clause, holds here (part 3). -/
theorem witness_entryRequests_3 :
    (subscribed.dev.answers = true ∧ subscribed.dev.Alone ∧ 0 < 65536 ∧ 0 < 256 ∧ subscription ∈ subscribed.dev.subs ∧ subscription.session = 1 ∧ subscription.id < 65536 ∧
    (asked Role.observer id).dev.answers = true ∧ (asked Role.observer id).dev.Alone ∧ [1, 2, 3].length ≤ 1434 ∧ 96 < 256 ∧ 96 ∉ knownServices ∧ 4 < 2 ^ 32 ∧
    [9].length ≤ 1434) ∧ subscribed.dev.Asks 1 7 Role.observer ∧ (asked Role.observer id).dev.Asks 1 7 Role.observer ∧
    (∃ x, (asked Role.observer id).dev.session? 1 = some x ∧ x.can = false ∧ x.cache = [(4, cacheOctets 0 false [1, 2])]) :=
  ⟨(by unfold Dev.Alone; decide +kernel), ⟨by decide, by decide, by decide +kernel, _, rfl, rfl, rfl, by decide⟩,
    ⟨by decide, by decide, by decide +kernel, _, rfl, rfl, rfl, by decide⟩, ⟨_, rfl, rfl, rfl⟩⟩
/-- A block transfer of session 1. -/
def transfer (back : Bool) (size next : Nat) (data : Octets) (crc : Nat) : Transfer :=
  { id := 9, session := 1, unit := 0, index := 0x9000, sub := 0x10, fromDevice := back, size, crc, data, next, lastSegment := [], lastAt := 0, failed := false, select := 0, remote := 0 }
/-- The session has it open. -/
def moving (t : Transfer) : State := asked .engineer fun d => { d with transfers := [t] }
/-- A read of SessionTimeout. -/
def reading : Transfer := { transfer true 2 0 [0, 10] 0 with index := 0x1000, sub := 5 }
/-- All of it has been sent. -/
def wasRead : Transfer := { reading with next := 2 }
/-- All of it has been sent. -/
def readOut : State := moving wasRead
/-- A table of TDM inputs, whole. -/
def slots : Transfer := transfer false 64 64 (List.replicate 64 0xFF) (crc32c (List.replicate 64 0xFF))

/-- What `Obligations.BlockTransfers` assumes, clause by clause, holds here. -/
theorem witness_blockTransfers :
    ((asked Role.engineer id).dev.answers = true ∧ (asked Role.engineer id).dev.Alone ∧ 36864 < 65536 ∧ 16 < 256 ∧ 64 < 2 ^ 32 ∧ 5 < 2 ^ 32 ∧
    (asked Role.engineer id).dev.transfers.length < 4 ∧ (foundOf Reg.tdmInSlots).is Reg.updateImage = false ∧
    ((asked Role.engineer id).dev.served 1).blockWriteCheck { session := 1, role := Role.engineer } (foundOf Reg.tdmInSlots) 64 = Status.ok ∧ 4096 < 65536 ∧ 5 < 256 ∧
    0 < 2 ^ 32 ∧ timeoutFound.row.ty ≠ Ty.blob ∧
    ((asked Role.engineer id).dev.served 1).blockReadCheck timeoutFound (((asked Role.engineer id).dev.served 1).selectionOf 1 timeoutFound) = Status.ok) ∧
    (asked Role.engineer id).dev.Asks 1 7 Role.engineer ∧ (asked Role.engineer id).dev.locate Place.whole 36864 16 = Except.ok (foundOf Reg.tdmInSlots) ∧
    (asked Role.engineer id).dev.locate Place.whole 4096 5 = Except.ok timeoutFound :=
  ⟨(by unfold Dev.Alone; decide +kernel), ⟨by decide, by decide, by decide +kernel, _, rfl, rfl, rfl, by decide⟩, okOf (by decide +kernel), okOf (by decide +kernel)⟩

/-- What `Obligations.BlockTransfers` assumes, clause by clause, holds here (part 2). -/
theorem witness_blockTransfers_2 :
    ((moving (transfer false 64 0 [] 0)).dev.answers = true ∧ (moving (transfer false 64 0 [] 0)).dev.Alone ∧ 9 < 65536 ∧
    (moving (transfer false 64 0 [] 0)).dev.transferOf 1 9 = some (transfer false 64 0 [] 0) ∧ (transfer false 64 0 [] 0).remote = 0 ∧
    (transfer false 64 0 [] 0).size < 2 ^ 32 ∧ (moving (transfer false 64 0 [] 0)).dev.transferOld (transfer false 64 0 [] 0) = false ∧
    (transfer false 64 0 [] 0).fromDevice = false ∧ List.replicate 64 1 ≠ [] ∧
    (List.replicate 64 1).length = min 1424 ((transfer false 64 0 [] 0).size - (transfer false 64 0 [] 0).next) ∧ [7].length ≤ 1424 ∧ (transfer false 64 0 [] 0).next < 1 ∧
    1 + [7].length ≤ (transfer false 64 0 [] 0).size) ∧ (moving (transfer false 64 0 [] 0)).dev.Asks 1 7 Role.engineer :=
  ⟨(by unfold Dev.Alone; decide +kernel), ⟨by decide, by decide, by decide +kernel, _, rfl, rfl, rfl, by decide⟩⟩

/-- What `Obligations.BlockTransfers` assumes, clause by clause, holds here (part 3). -/
theorem witness_blockTransfers_3 :
    ((moving reading).dev.answers = true ∧ (moving reading).dev.Alone ∧ 9 < 65536 ∧ (moving reading).dev.transferOf 1 9 = some reading ∧ reading.remote = 0 ∧
    reading.size < 2 ^ 32 ∧ (moving reading).dev.transferOld reading = false ∧ reading.fromDevice = true ∧ reading.unit = (moving reading).dev.ownUnit ∧
    reading.next < reading.size ∧ [0, 10] = ((moving reading).dev.served 1).blockValue Place.whole 1 timeoutFound reading.select ∧ [0, 10].length = reading.size) ∧
    (moving reading).dev.Asks 1 7 Role.engineer ∧ (moving reading).dev.locate Place.whole reading.index reading.sub = Except.ok timeoutFound :=
  ⟨(by unfold Dev.Alone; decide +kernel), ⟨by decide, by decide, by decide +kernel, _, rfl, rfl, rfl, by decide⟩, okOf (by decide +kernel)⟩

/-- What `Obligations.BlockTransfers` assumes, clause by clause, holds here (part 4). -/
theorem witness_blockTransfers_4 :
    (readOut.dev.answers = true ∧ readOut.dev.Alone ∧ 9 < 65536 ∧ readOut.dev.transferOf 1 9 = some wasRead ∧ wasRead.remote = 0 ∧ wasRead.size < 2 ^ 32 ∧
    readOut.dev.transferOld wasRead = false ∧ wasRead.fromDevice = true ∧ entryKey wasRead.index wasRead.sub ≠ Reg.captureRead.key ∧
    (moving (transfer false 64 63 (List.replicate 63 0) 0)).dev.answers = true ∧ (moving (transfer false 64 63 (List.replicate 63 0) 0)).dev.Alone ∧
    (moving (transfer false 64 63 (List.replicate 63 0) 0)).dev.transferOf 1 9 = some (transfer false 64 63 (List.replicate 63 0) 0) ∧
    (transfer false 64 63 (List.replicate 63 0) 0).remote = 0 ∧ (transfer false 64 63 (List.replicate 63 0) 0).size < 2 ^ 32 ∧
    (moving (transfer false 64 63 (List.replicate 63 0) 0)).dev.transferOld (transfer false 64 63 (List.replicate 63 0) 0) = false ∧
    (transfer false 64 63 (List.replicate 63 0) 0).fromDevice = false ∧
    (List.length (transfer false 64 63 (List.replicate 63 0) 0).data ≠ (transfer false 64 63 (List.replicate 63 0) 0).size ∨ crc32c (transfer false 64 63 (List.replicate 63 0) 0).data ≠ (transfer false 64 63 (List.replicate 63 0) 0).crc)) ∧
    readOut.dev.Asks 1 7 Role.engineer ∧ (moving (transfer false 64 63 (List.replicate 63 0) 0)).dev.Asks 1 7 Role.engineer :=
  ⟨(by unfold Dev.Alone; decide +kernel), ⟨by decide, by decide, by decide +kernel, _, rfl, rfl, rfl, by decide⟩,
    ⟨by decide, by decide, by decide +kernel, _, rfl, rfl, rfl, by decide⟩⟩

/-- What `Obligations.BlockTransfers` assumes, clause by clause, holds here (part 5). -/
theorem witness_blockTransfers_5 :
    ((moving slots).dev.answers = true ∧ (moving slots).dev.Alone ∧ 9 < 65536 ∧ (moving slots).dev.transferOf 1 9 = some slots ∧ slots.remote = 0 ∧ slots.size < 2 ^ 32 ∧
    (moving slots).dev.transferOld slots = false ∧ slots.fromDevice = false ∧ List.length slots.data = slots.size ∧ crc32c slots.data = slots.crc ∧
    slots.unit = (moving slots).dev.ownUnit ∧ (foundOf Reg.tdmInSlots).is Reg.updateImage = false ∧ (foundOf Reg.tdmInSlots).is Reg.programmeImage = false ∧
    (foundOf Reg.tdmInSlots).row.commit = Commit.dated ∧
    Dev.countsNone (foundOf Reg.tdmInSlots, Val.bytes (List.replicate 64 255)).1 (foundOf Reg.tdmInSlots, Val.bytes (List.replicate 64 255)).2.toBytes = false ∧
    (moving slots).dev.datedRoom 1 = true ∧ (moving slots).dev.parts ≤ 1) ∧ (moving slots).dev.Asks 1 7 Role.engineer ∧
    (moving slots).dev.locate Place.whole slots.index slots.sub = Except.ok (foundOf Reg.tdmInSlots) ∧
    ({ (moving slots).dev.served 1 with transfers := List.filter (fun y => decide (y.id ≠ 9)) (moving slots).dev.transfers } : Dev).checkWrite (moving slots).mem { session := 1, role := Role.engineer } Place.whole true slots.index slots.sub (foundOf Reg.tdmInSlots).row.ty.code slots.data = Except.ok (foundOf Reg.tdmInSlots, Val.bytes (List.replicate 64 255)) :=
  ⟨(by unfold Dev.Alone; decide +kernel), ⟨by decide, by decide, by decide +kernel, _, rfl, rfl, rfl, by decide⟩, okOf (by decide +kernel), okOf (by decide +kernel)⟩

/-- What `Obligations.BlockTransfers` assumes, clause by clause, holds here (part 6). -/
theorem witness_blockTransfers_6 :
    ((moving reading).dev.answers = true ∧ (moving reading).dev.Alone ∧ 9 < 65536 ∧ (moving reading).dev.transferOf 1 9 = some reading ∧ reading.remote = 0 ∧
    reading.size < 2 ^ 32 ∧ (moving reading).dev.transferOld reading = false ∧ List.find? (fun x => decide (x.id = 9)) (moving reading).dev.transfers = some reading ∧
    (moving reading).dev.Reaches (reading.lastAt + Dev.secCycles 10)) ∧ (moving reading).dev.Asks 1 7 Role.engineer :=
  ⟨(by unfold Dev.Reaches Dev.Alone; decide +kernel), ⟨by decide, by decide, by decide +kernel, _, rfl, rfl, rfl, by decide⟩⟩
/-- An entry of session 1 in a state. -/
def ownEntry (st : CalState) : CalEntry := { calEntry st 64 with session := 1, role := .engineer }
/-- The session has it. -/
def holding (e : CalEntry) (f : Dev → Dev) : State := asked .engineer fun d => f (d.putCal e)
/-- Every slot is taken. -/
def full : State := asked .engineer fun d => { d with cal := { d.cal with entries := (List.range 1024).map fun i => (i, { ownEntry .opened with slot := i }) } }
/-- No slot is free. -/
theorem full_busy : full.dev.freeCalSlot = none := by
  simp only [Dev.freeCalSlot, List.find?_eq_none]
  intro s h
  have := listed (fun i => { ownEntry .opened with slot := i }) 1024 0 s (by omega) (by simpa using h)
  simp only [List.range_eq_range'] at *
  simpa [full, asked, upWith, Dev.entryAt, List.range_eq_range', Option.isSome_iff_ne_none] using this
/-- The change of OutputGain 7. -/
def gainChange : Change := { index := Reg.outputGain.base + 7, sub := Reg.outputGain.sub, val := .int 5 }
/-- Aligned at a count, with that entry. -/
def closing (now : Nat) : State := holding (ownEntry .opened) fun d => { d with alm := { d.alm with aligned := true, snMode := false }, msc := now }
/-- The entry, and a whole table to attach. -/
def attaching : State := holding (ownEntry .opened) fun d => { d with transfers := [slots] }

/-- What `Obligations.CalendarServices` assumes, clause by clause, holds here. -/
theorem witness_calendarServices :
    ((asked Role.engineer id).dev.answers = true ∧ (asked Role.engineer id).dev.Alone ∧ (asked Role.engineer id).dev.freeCalSlot = some 0 ∧ full.dev.answers = true ∧
    full.dev.Alone) ∧ (asked Role.engineer id).dev.Asks 1 7 Role.engineer ∧ full.dev.Asks 1 7 Role.engineer ∧ full.dev.freeCalSlot = none :=
  ⟨(by unfold Dev.Alone; decide +kernel), ⟨by decide, by decide, by decide +kernel, _, rfl, rfl, rfl, by decide⟩,
    ⟨by decide, by decide, by decide +kernel, _, rfl, rfl, rfl, by decide⟩, full_busy⟩

/-- What `Obligations.CalendarServices` assumes, clause by clause, holds here (part 2). -/
theorem witness_calendarServices_2 :
    ((holding (ownEntry CalState.opened) id).dev.answers = true ∧ (holding (ownEntry CalState.opened) id).dev.Alone ∧ 1023 < 65536 ∧ 100 ≤ 100 ∧ 4095 < 65536 ∧
    (holding (ownEntry CalState.opened) id).dev.entryOf 4095 = some (ownEntry CalState.opened) ∧ (ownEntry CalState.opened).slot = 4095 % 1024 ∧
    (ownEntry CalState.opened).role.rank ≤ Role.engineer.rank) ∧ (holding (ownEntry CalState.opened) id).dev.Asks 1 7 Role.engineer :=
  ⟨(by unfold Dev.Alone; decide +kernel), ⟨by decide, by decide, by decide +kernel, _, rfl, rfl, rfl, by decide⟩⟩

/-- What `Obligations.CalendarServices` assumes, clause by clause, holds here (part 3). -/
theorem witness_calendarServices_3 :
    ((holding (ownEntry CalState.opened) id).dev.answers = true ∧ (holding (ownEntry CalState.opened) id).dev.Alone ∧ 4095 < 65536 ∧
    (holding (ownEntry CalState.opened) id).dev.entryOf 4095 = some (ownEntry CalState.opened) ∧ (ownEntry CalState.opened).slot = 4095 % 1024 ∧
    (ownEntry CalState.opened).role.rank ≤ Role.engineer.rank ∧ 0 < 256 ∧ (ownEntry CalState.opened).changes[0]? = some gainChange ∧
    findRow gainChange.index gainChange.sub = some Reg.outputGain ∧ Reg.outputGain.ty.size ≠ 0) ∧ (holding (ownEntry CalState.opened) id).dev.Asks 1 7 Role.engineer :=
  ⟨(by unfold Dev.Alone; decide +kernel), ⟨by decide, by decide, by decide +kernel, _, rfl, rfl, rfl, by decide⟩⟩

/-- What `Obligations.CalendarServices` assumes, clause by clause, holds here (part 4). -/
theorem witness_calendarServices_4 :
    ((holding (ownEntry CalState.opened) id).dev.answers = true ∧ (holding (ownEntry CalState.opened) id).dev.Alone ∧ 4095 < 65536 ∧
    (holding (ownEntry CalState.opened) id).dev.entryOf 4095 = some (ownEntry CalState.opened) ∧ (ownEntry CalState.opened).slot = 4095 % 1024 ∧
    (ownEntry CalState.opened).role.rank ≤ Role.engineer.rank ∧ 1 < 65536 ∧ (ownEntry CalState.opened).changes.length ≤ 1 ∧
    (ownEntry CalState.opened).state = CalState.opened) ∧ (holding (ownEntry CalState.opened) id).dev.Asks 1 7 Role.engineer :=
  ⟨(by unfold Dev.Alone; decide +kernel), ⟨by decide, by decide, by decide +kernel, _, rfl, rfl, rfl, by decide⟩⟩

/-- What `Obligations.CalendarServices` assumes, clause by clause, holds here (part 5). -/
theorem witness_calendarServices_5 :
    ((holding (ownEntry CalState.staged) id).dev.answers = true ∧ (holding (ownEntry CalState.staged) id).dev.Alone ∧ 4095 < 65536 ∧
    (holding (ownEntry CalState.staged) id).dev.entryOf 4095 = some (ownEntry CalState.staged) ∧ (ownEntry CalState.staged).slot = 4095 % 1024 ∧
    (ownEntry CalState.staged).role.rank ≤ Role.engineer.rank ∧ ((ownEntry CalState.staged).state = CalState.staged ∨ (ownEntry CalState.staged).state = CalState.preparing) ∧
    (ownEntry CalState.staged).participants = [] ∧ (holding (ownEntry CalState.staged) id).dev.heldEnds = []) ∧
    (holding (ownEntry CalState.staged) id).dev.Asks 1 7 Role.engineer :=
  ⟨(by unfold Dev.Alone; decide +kernel), ⟨by decide, by decide, by decide +kernel, _, rfl, rfl, rfl, by decide⟩⟩

/-- What `Obligations.CalendarServices` assumes, clause by clause, holds here (part 6). -/
theorem witness_calendarServices_6 :
    ((holding (ownEntry CalState.committed) id).dev.answers = true ∧ (holding (ownEntry CalState.committed) id).dev.Alone ∧ 4095 < 65536 ∧
    (holding (ownEntry CalState.committed) id).dev.entryOf 4095 = some (ownEntry CalState.committed) ∧ (ownEntry CalState.committed).slot = 4095 % 1024 ∧
    (ownEntry CalState.committed).role.rank ≤ Role.engineer.rank ∧ (ownEntry CalState.committed).state ≠ CalState.opened ∧
    (ownEntry CalState.committed).state ≠ CalState.staged ∧ (ownEntry CalState.committed).state ≠ CalState.preparing) ∧
    (holding (ownEntry CalState.committed) id).dev.Asks 1 7 Role.engineer :=
  ⟨(by unfold Dev.Alone; decide +kernel), ⟨by decide, by decide, by decide +kernel, _, rfl, rfl, rfl, by decide⟩⟩

/-- What `Obligations.CalendarServices` assumes, clause by clause, holds here (part 7). -/
theorem witness_calendarServices_7 :
    ((closing 70000).dev.answers = true ∧ (closing 70000).dev.Alone ∧ 4095 < 65536 ∧ (closing 70000).dev.entryOf 4095 = some (ownEntry CalState.opened) ∧
    (ownEntry CalState.opened).slot = 4095 % 1024 ∧ (ownEntry CalState.opened).role.rank ≤ Role.engineer.rank ∧ (ownEntry CalState.opened).unit = (closing 70000).dev.ownUnit ∧
    (ownEntry CalState.opened).session = 1 ∧ (ownEntry CalState.opened).state = CalState.opened ∧ 70001 ≠ 0 ∧ 70001 < 2 ^ 64 ∧ 70001 ≤ (closing 70000).dev.mscNow + 2 ^ 32 ∧
    boundaryOf 70001 < (closing 70000).dev.earliest ((closing 70000).dev.leadOf (ownEntry CalState.opened))) ∧ (closing 70000).dev.Asks 1 7 Role.engineer :=
  ⟨(by unfold Dev.Alone; decide +kernel), ⟨by decide, by decide, by decide +kernel, _, rfl, rfl, rfl, by decide⟩⟩

/-- What `Obligations.CalendarServices` assumes, clause by clause, holds here (part 8). -/
theorem witness_calendarServices_8 :
    ((closing 70000).dev.answers = true ∧ (closing 70000).dev.Alone ∧ 4095 < 65536 ∧ (closing 70000).dev.entryOf 4095 = some (ownEntry CalState.opened) ∧
    (ownEntry CalState.opened).slot = 4095 % 1024 ∧ (ownEntry CalState.opened).role.rank ≤ Role.engineer.rank ∧ (ownEntry CalState.opened).unit = (closing 70000).dev.ownUnit ∧
    (ownEntry CalState.opened).session = 1 ∧ (ownEntry CalState.opened).state = CalState.opened ∧ 70000 + 2 ^ 32 ≠ 0 ∧ 70000 + 2 ^ 32 < 2 ^ 64 ∧
    70000 + 2 ^ 32 ≤ (closing 70000).dev.mscNow + 2 ^ 32 ∧
    (closing 70000).dev.earliest ((closing 70000).dev.leadOf (ownEntry CalState.opened)) ≤ boundaryOf (70000 + 2 ^ 32)) ∧ (closing 70000).dev.Asks 1 7 Role.engineer :=
  ⟨(by unfold Dev.Alone; decide +kernel), ⟨by decide, by decide, by decide +kernel, _, rfl, rfl, rfl, by decide⟩⟩

/-- What `Obligations.CalendarServices` assumes, clause by clause, holds here (part 9). -/
theorem witness_calendarServices_9 :
    ((closing 0).dev.answers = true ∧ (closing 0).dev.Alone ∧ 4095 < 65536 ∧ (closing 0).dev.entryOf 4095 = some (ownEntry CalState.opened) ∧
    (ownEntry CalState.opened).slot = 4095 % 1024 ∧ (ownEntry CalState.opened).role.rank ≤ Role.engineer.rank ∧ (ownEntry CalState.opened).unit = (closing 0).dev.ownUnit ∧
    (ownEntry CalState.opened).session = 1 ∧ (ownEntry CalState.opened).state = CalState.opened ∧ 24383 < 65536 ∧ 1 < 256 ∧ 8 < 256 ∧
    valueLength 8 [0, 0, 0, 5] = some [0, 0, 0, 5].length ∧ [0, 0, 0, 5].length ≤ 1024 ∧
    (closing 0).dev.changesRoom (ownEntry CalState.opened).changes (Dev.addChange (ownEntry CalState.opened).changes { index := (foundOf Reg.zoneGain 63, Val.int 5).1.index, sub := (foundOf Reg.zoneGain 63, Val.int 5).1.sub, val := (foundOf Reg.zoneGain 63, Val.int 5).2 }) = Status.ok) ∧
    (closing 0).dev.Asks 1 7 Role.engineer ∧
    ((closing 0).dev.served 1).addCheck (closing 0).mem { session := 1, role := Role.engineer } Place.whole { index := 24383, sub := 1, code := 8, raw := [0, 0, 0, 5] } = Except.ok (foundOf Reg.zoneGain 63, Val.int 5) :=
  ⟨(by unfold Dev.Alone; decide +kernel), ⟨by decide, by decide, by decide +kernel, _, rfl, rfl, rfl, by decide⟩, okOf (by decide +kernel)⟩

/-- What `Obligations.CalendarServices` assumes, clause by clause, holds here (part 10). -/
theorem witness_calendarServices_10 :
    ((closing 0).dev.answers = true ∧ (closing 0).dev.Alone ∧ 4095 < 65536 ∧ (closing 0).dev.entryOf 4095 = some (ownEntry CalState.opened) ∧
    (ownEntry CalState.opened).slot = 4095 % 1024 ∧ (ownEntry CalState.opened).role.rank ≤ Role.engineer.rank ∧ (ownEntry CalState.opened).unit = (closing 0).dev.ownUnit ∧
    (ownEntry CalState.opened).session = 1 ∧ (ownEntry CalState.opened).state = CalState.opened ∧ 24383 < 65536 ∧ 1 < 256 ∧ 3 < 256 ∧
    valueLength 3 [0, 5] = some [0, 5].length ∧ [0, 5].length ≤ 1024) ∧ (closing 0).dev.Asks 1 7 Role.engineer ∧
    ((closing 0).dev.served 1).addCheck (closing 0).mem { session := 1, role := Role.engineer } Place.whole { index := 24383, sub := 1, code := 3, raw := [0, 5] } = Except.error Status.type :=
  ⟨(by unfold Dev.Alone; decide +kernel), ⟨by decide, by decide, by decide +kernel, _, rfl, rfl, rfl, by decide⟩, errorOf (by decide +kernel)⟩

/-- What `Obligations.CalendarServices` assumes, clause by clause, holds here (part 11). -/
theorem witness_calendarServices_11 :
    (attaching.dev.answers = true ∧ attaching.dev.Alone ∧ 4095 < 65536 ∧ attaching.dev.entryOf 4095 = some (ownEntry CalState.opened) ∧
    (ownEntry CalState.opened).slot = 4095 % 1024 ∧ (ownEntry CalState.opened).role.rank ≤ Role.engineer.rank ∧ (ownEntry CalState.opened).unit = attaching.dev.ownUnit ∧
    (ownEntry CalState.opened).session = 1 ∧ (ownEntry CalState.opened).state = CalState.opened ∧ 9 < 65536 ∧ attaching.dev.transferOf 1 9 = some slots ∧
    attaching.dev.transferOld slots = false ∧ slots.fromDevice = false ∧ slots.unit = (ownEntry CalState.opened).unit ∧ (foundOf Reg.tdmInSlots).row.commit = Commit.dated ∧
    (foundOf Reg.tdmInSlots).is Reg.programmeImage = false ∧ Dev.blockSound slots = true ∧ Dev.countsNone (foundOf Reg.tdmInSlots) slots.data = false ∧
    attaching.dev.changesRoom (ownEntry CalState.opened).changes (Dev.addChange (ownEntry CalState.opened).changes { index := (foundOf Reg.tdmInSlots, Val.bytes (List.replicate 64 255)).1.index, sub := (foundOf Reg.tdmInSlots, Val.bytes (List.replicate 64 255)).1.sub, val := (foundOf Reg.tdmInSlots, Val.bytes (List.replicate 64 255)).2 }) = Status.ok) ∧
    attaching.dev.Asks 1 7 Role.engineer ∧ attaching.dev.locate Place.whole slots.index slots.sub = Except.ok (foundOf Reg.tdmInSlots) ∧
    (attaching.dev.served 1).checkWrite attaching.mem { session := 1, role := Role.engineer } Place.whole true slots.index slots.sub (foundOf Reg.tdmInSlots).row.ty.code slots.data = Except.ok (foundOf Reg.tdmInSlots, Val.bytes (List.replicate 64 255)) :=
  ⟨(by unfold Dev.Alone; decide +kernel), ⟨by decide, by decide, by decide +kernel, _, rfl, rfl, rfl, by decide⟩, okOf (by decide +kernel), okOf (by decide +kernel)⟩
/-- A handshake of an engineer under an anchor. -/
def handshake_ (anchor : Nat) : Handshake :=
  { source := 0x0A000001, port := 4, vlan := 0, udpPort := 48240, fault := false, cookie := true, offers := true, chain := [{ der := [], version := 3, signed := true, notBefore := 0, notAfter := 2 ^ 40, clientAuth := true, units := [ascii "engineer"] }], anchor := some anchor, selfSigned := false }
/-- A blocked source. -/
def blocked : State := upWith fun d => { d with blocked := [(0x0A000001, 7)] }
/-- The subscription is due, or not. -/
def due (b : Nat) : State := asked .observer fun d => { d with subs := [{ subscription with nextBlock := b }] }
/-- The subscription, due in block 9. -/
def laterSub : Subscription := { subscription with nextBlock := 9 }
/-- A notice waits for the session. -/
def noticed : State := upWith fun d => { d with sessions := [{ session_ .observer with queue := [{ code := 0x3003, date := 5, index := 0, sub := 0, arg := 0, unit := 1 }] }] }
/-- A notice. -/
def waitingNotice : NoticeRec := { code := 0x3003, date := 5, index := 0, sub := 0, arg := 0, unit := 1 }
/-- The session with that notice. -/
def noticedSession : Session := { session_ .observer with queue := [waitingNotice] }
/-- CAN FD is on with a key; node 1. -/
def onCan : State := upWith fun d => { d with force := [(Reg.canEnable.key, .int 1)], sec := { d.sec with keys := [(Reg.canKey.key, [1, 2, 3])] } }
/-- The identifier of a frame from host 127 to node 1. -/
def canIdent : Nat := 2 ^ 18 + 127 * 2 ^ 11
/-- Its key. -/
theorem onCan_key : onCan.dev.canKeyOctets = [1, 2, 3] := by decide +kernel

/-- What `Obligations.SessionEvents` assumes, clause by clause, holds here. -/
theorem witness_sessionEvents :
    up.dev.answers = true ∧ up.dev.drada.formed = false ∧ (up.dev.lone = true ∨ up.dev.isLead = false) ∧ up.dev.servedOn (handshake_ 3).port (handshake_ 3).vlan = true ∧
    (handshake_ 3).udpPort = 48240 ∧ (handshake_ 3).cookie = true ∧ nget? up.dev.blocked (handshake_ 3).source = none ∧ (handshake_ 3).fault = false ∧
    (handshake_ 3).offers = true ∧ up.dev.commissions (handshake_ 3) = false ∧ up.dev.chainFault (handshake_ 3) = some 1 :=
  (by decide +kernel)

/-- What `Obligations.SessionEvents` assumes, clause by clause, holds here (part 2). -/
theorem witness_sessionEvents_2 :
    ((asked Role.observer id).dev.answers = true ∧ (asked Role.observer id).dev.drada.formed = false ∧
    ((asked Role.observer id).dev.lone = true ∨ (asked Role.observer id).dev.isLead = false) ∧
    (asked Role.observer id).dev.servedOn (handshake_ 4).port (handshake_ 4).vlan = true ∧ (handshake_ 4).udpPort = 48240 ∧ (handshake_ 4).cookie = true ∧
    nget? (asked Role.observer id).dev.blocked (handshake_ 4).source = none ∧ (handshake_ 4).fault = false ∧ (handshake_ 4).offers = true ∧
    (asked Role.observer id).dev.commissions (handshake_ 4) = false ∧ (asked Role.observer id).dev.chainFault (handshake_ 4) = none ∧
    (asked Role.observer id).dev.chainRole (handshake_ 4) = some Role.engineer ∧ ((asked Role.observer id).dev.certified = false ∨ Role.engineer ≠ Role.vendor) ∧ 1 < 8 ∧
    (∀ y ∈ (asked Role.observer id).dev.sessions, y.handle ≠ 1 + 1) ∧ 0 < 1 ∧ 1 ≤ 8 ∧ (asked Role.observer id).dev.sessions = [session_ Role.observer] ∧
    0 < (session_ Role.observer).handle ∧ (session_ Role.observer).handle ≤ 8 ∧
    (asked Role.observer id).dev.Reaches ((asked Role.observer id).dev.timerFrom 210 + Dev.msCycles 100)) ∧ (∃ x ∈ (asked Role.observer id).dev.sessions, x.handle = 1) :=
  ⟨(by unfold Dev.Reaches; decide +kernel), ⟨_, .head _, rfl⟩⟩

/-- What `Obligations.SessionEvents` assumes, clause by clause, holds here (part 3). -/
theorem witness_sessionEvents_3 :
    blocked.dev.answers = true ∧ blocked.dev.drada.formed = false ∧ (blocked.dev.lone = true ∨ blocked.dev.isLead = false) ∧ nget? blocked.dev.blocked 167772161 = some 7 ∧
    blocked.dev.Reaches 7 ∧ (due 0).dev.answers = true ∧ (due 0).dev.drada.formed = false ∧ ((due 0).dev.lone = true ∨ (due 0).dev.isLead = false) ∧
    List.find? (fun y => decide (y.id = subscription.id)) (due 0).dev.subs = some subscription ∧ (due 0).dev.subWire subscription = some (Ty.u16, [0, 10]) ∧
    (true = if subscription.period = 0 then (Ty.u16, [0, 10]).2 != subscription.last else decide (subscription.nextBlock ≤ (due 0).dev.reportDate / 32)) ∧ true = true ∧
    (due 9).dev.answers = true ∧ (due 9).dev.drada.formed = false ∧ ((due 9).dev.lone = true ∨ (due 9).dev.isLead = false) ∧
    List.find? (fun y => decide (y.id = laterSub.id)) (due 9).dev.subs = some laterSub ∧ (due 9).dev.subWire laterSub = some (Ty.u16, [0, 10]) ∧
    (false = if laterSub.period = 0 then (Ty.u16, [0, 10]).2 != laterSub.last else decide (laterSub.nextBlock ≤ (due 9).dev.reportDate / 32)) ∧ false = false :=
  (by unfold Dev.Reaches; decide +kernel)

/-- What `Obligations.SessionEvents` assumes, clause by clause, holds here (part 4). -/
theorem witness_sessionEvents_4 :
    noticed.dev.answers = true ∧ noticed.dev.drada.formed = false ∧ (noticed.dev.lone = true ∨ noticed.dev.isLead = false) ∧ 1 ≤ 8 ∧
    noticed.dev.session? 1 = some noticedSession ∧ noticedSession.can = false ∧ noticedSession.queue = [waitingNotice] ∧ noticedSession.sentAt = [] ∧
    noticedSession.lost = 0 :=
  (by decide +kernel)

/-- What `Obligations.SessionEvents` assumes, clause by clause, holds here (part 5). -/
theorem witness_sessionEvents_5 :
    (onCan.dev.answers = true ∧ onCan.dev.drada.formed = false ∧ (onCan.dev.lone = true ∨ onCan.dev.isLead = false) ∧ onCan.dev.inForce Reg.canEnable = 1 ∧
    bits canIdent 25 25 = 0 ∧ bits canIdent 24 18 = onCan.dev.inForce Reg.canNodeId ∧ bits canIdent 10 10 = 0 ∧ bits canIdent 17 11 = 127 ∧ 0 < 127 ∧
    onCan.dev.canKeyOctets ≠ []) ∧ List.length (toBE 4 65536 ++ toBE 4 (Config.cmac32 [1, 2, 3] (toBE 4 canIdent ++ toBE 4 65536))) = 8 ∧
    beAt (toBE 4 65536 ++ toBE 4 (Config.cmac32 [1, 2, 3] (toBE 4 canIdent ++ toBE 4 65536))) 4 4 = Config.cmac32 onCan.dev.canKeyOctets (toBE 4 canIdent ++ List.take 4 (toBE 4 65536 ++ toBE 4 (Config.cmac32 [1, 2, 3] (toBE 4 canIdent ++ toBE 4 65536)))) % 2 ^ 32 ∧
    onCan.dev.nat Reg.canFreshnessRx (127 - 1) < beAt (toBE 4 65536 ++ toBE 4 (Config.cmac32 [1, 2, 3] (toBE 4 canIdent ++ toBE 4 65536))) 0 4 ∧
    beAt (toBE 4 65536 ++ toBE 4 (Config.cmac32 [1, 2, 3] (toBE 4 canIdent ++ toBE 4 65536))) 0 4 ≤ onCan.dev.nat Reg.canFreshnessRx (127 - 1) + 65536 ∧
    List.length (toBE 4 65536 ++ toBE 4 (Config.cmac32 [1, 2, 3] (toBE 4 canIdent ++ toBE 4 65536) + 1)) = 8 ∧
    beAt (toBE 4 65536 ++ toBE 4 (Config.cmac32 [1, 2, 3] (toBE 4 canIdent ++ toBE 4 65536) + 1)) 4 4 ≠ Config.cmac32 onCan.dev.canKeyOctets (toBE 4 canIdent ++ List.take 4 (toBE 4 65536 ++ toBE 4 (Config.cmac32 [1, 2, 3] (toBE 4 canIdent ++ toBE 4 65536) + 1))) % 2 ^ 32 :=
  ⟨(by decide +kernel), (by simp [toBE]), (by rw [freshTag, onCan_key, freshHead]), (by rw [freshCount]; decide +kernel), (by rw [freshCount]; decide +kernel),
    (by simp [toBE]), (by rw [freshTag, onCan_key, freshHead]; omega)⟩
/-- A boundary is at the front of the queue. -/
def boundaryNext : State := { up with pending := [.blockBoundary true] }

/-- What `Obligations.StepTakesFront` assumes, clause by clause, holds here. -/
theorem witness_stepTakesFront :
    boundaryNext.pending = [Instr.blockBoundary true] :=
  (by decide +kernel)

/-- What `Obligations.IdleStep` assumes, clause by clause, holds here. -/
theorem witness_idleStep :
    off.pending = [] ∧ off.dev.live = false ∧ up.pending = [] ∧ up.dev.live = true :=
  (by decide +kernel)
/-- One octet of DRAM is listed. -/
def oneOctet : State := { up with mem := [(4096, octet 5)] }
/-- One cycle later. -/
def oneOctetLater : State := { up with mem := [(4096, octet 5)], dev := up.dev.advance 1 }

/-- What `Obligations.StepKeepsSound` assumes, clause by clause, holds here. -/
theorem witness_stepKeepsSound :
    oneOctet.Sound ∧ step oneOctet = Host.Outcome.next oneOctetLater :=
  ⟨(by unfold State.Sound; decide +kernel), rfl⟩

/-- What `Obligations.LockedTap` assumes, clause by clause, holds here. -/
theorem witness_lockedTap :
    up.dev.live = true ∧ up.dev.nat Reg.jtagState = 0 :=
  (by decide +kernel)
/-! ### The spec's worked figures -/

/-- Table 4-4, steps 4 to 8: the distance, the sound scale and the path of crosspoint (1,037, 2,100). -/
theorem test_path : isqrtRound 33841121067008 = 5817312 ∧ soundScaleOf 96000 22478848 = 2347831977 ∧
    pathDelay 5817312 2347831977 = 13025351652 := by decide +kernel

/-- Table 4-4, steps 10 to 17: the reciprocal, the gain of −6,000 and their product. -/
theorem test_gain : recip 5817312 = 24192873 ∧ lin (-6000) = 525533 ∧ mulQ 472517 525533 = 236820 := by decide +kernel

/-- Table 5-4, steps 1 to 3: the gain of sample 16, and its delay of 843 samples at phase 454. -/
theorem test_crosspoint_sample :
    let x : Xp := { gainFrom := 237568, gainTo := 236820, delayFrom := 442439652, delayTo := 442439652, step := false, clip := false, tag := 0 }
    Dev.gainAt x 16 = 237194 ∧ ((Dev.delayAt x 16 + 512) >>> 10 = 432070 ∧ 432070 = 512 * 843 + 454) := by decide +kernel

/-- Table 5-4, step 6: the coefficients of phase 454. -/
theorem test_interpolator : (List.range 6).map (interpCoef 454) = [15584, -119223, 507353, 3971352, -202051, 21288] := by decide +kernel

/-- Table 7-3: the gain of the limiter from unity, with a threshold of 1,076,291,584. -/
theorem test_limiter : limGain 8388608 1076291584 50000 96000 [0x30000000, 0x38000000, 0x40000000, 0x50000000, 0x60000000] = 7832023 := by
  decide +kernel

/-- R236's worked case: the centre tap of the resampler's kernel. -/
theorem test_kernel : kernelRom 0 32 = 7717519 := by decide +kernel

/-- R74's worked case: the first boundary at or after 1,000,124. -/
theorem test_boundary : boundaryOf 1000124 = 1000128 := by decide

/-- Table 13-1: the place of address 1,088,227,648. -/
theorem test_dram_place : dramPlace 1088227648 = (1, 8, 4285, 45) := by decide

/-- R64: the areas of two notice codes. -/
theorem test_notice_areas : Dev.areaOf 0x7A00 = 14 ∧ Dev.areaOf 0x7000 = 13 := by decide +kernel

/-- The flow of Table 10-2: 8 channels of L24, 12 samples, two paths. -/
theorem test_wire_length : Dev.wireLength 8 12 1 0 true = 352 := by decide +kernel

/-- R29's worked case: one hop at 96 kHz. -/
theorem test_extra_latency : ({ up.dev with force := [(Reg.renderRate.key, .int 96000)] } : Dev).extraLatency 1 = 1 := by decide +kernel

/-! ### Steps -/

/-- Two commands wait: the first is taken, the second stays. -/
theorem test_step_takes_first : ∃ t, step { up with pending := [.watchdogKick, .echo (.udp 1 [])] } = .next t ∧ t.pending = [.echo (.udp 1 [])] :=
  ⟨_, rfl, rfl⟩

/-- An empty queue idles for one cycle. -/
theorem test_step_idles : ∃ t, step up = .next t ∧ t.dev.clock = 1 ∧ t.pending = [] := ⟨_, rfl, rfl, rfl⟩

/-- No row of the table has bits. -/
theorem test_no_table_word : decodeTableWord 16 0 = none := rfl

/-- What `Obligations.CommandsLeaveDram` assumes holds of a kick of the watchdog. -/
theorem witness_commandsLeaveDram :
    ∃ t, exec .watchdogKick up = .next t ∧ (∀ c a, Instr.watchdogKick ≠ .dramAccessComplete c a) ∧ ∀ ms e, Instr.watchdogKick ≠ .bootComplete ms e :=
  ⟨_, rfl, by simp, by simp⟩

/-- What `Obligations.CrosspointRecords` assumes holds of a record with no gain whose delay rounds up to the next whole sample. -/
theorem witness_crosspointRecords :
    let x : Xp := { gainFrom := 0, gainTo := 0, delayFrom := 523776, delayTo := 523776, step := true, clip := false, tag := 0 }
    x.gainFrom = 0 ∧ x.gainTo = 0 ∧ 523776 ≤ Dev.delayAt x 0 % 524288 := by decide +kernel

/-! ### Ill-formed commands: one for each check -/

/-- A frame with too high a handle, and one with too wide an identifier. -/
theorem test_wf_frames :
    ([.read (.udp 9 []), .write (.udp 0 []), .echo (.udp 1 (List.replicate 1501 0)), .echo (.faulted 9 []), .echo (.faulted 0 []), .echo (.faulted 1 (List.replicate 1501 0)), .canKeepalive (.can false 2048 []), .canKeepalive (.can true 0 (List.replicate 65 0)), .readMulti (.udp 9 []), .writeMulti (.udp 9 []),
      .blockBegin (.udp 9 []), .blockData (.udp 9 []), .blockEnd (.udp 9 []), .blockAbort (.udp 9 []), .subscribe (.udp 9 []), .unsubscribe (.udp 9 []),
      .hostNotice (.udp 9 []), .unknownService (.udp 9 []), .calOpen (.udp 9 []), .calAdd (.udp 9 []), .calClose (.udp 9 []), .calCancel (.udp 9 []),
      .calStatus (.udp 9 []), .calList (.udp 9 []), .calAttach (.udp 9 []), .calPeek (.udp 9 [])] : List Instr).all (fun i => !i.wf) = true := by decide +kernel

/-- Ticks, the path and the calendar. -/
theorem test_wf_path :
    ([.sampleTick { mic := 2 ^ 31, side := [], faults := [] }, .sampleTick { mic := -(2 ^ 31) - 1, side := [], faults := [] }, .renderDeadlineMiss 16 [] false, .renderDeadlineMiss 0 [2560] false, .convMuteEnd 512, .firFadeAssign 33,
      .firFadeAssign (2 ^ 64), .blockTransferTimeout 65536, .dtlsHandshake { (handshake_ 4) with source := 2 ^ 32 }, .dtlsHandshake { (handshake_ 4) with port := 5 }, .dtlsHandshake { (handshake_ 4) with vlan := 4096 }, .dtlsHandshake { (handshake_ 4) with udpPort := 65536 }, .sampleTick { mic := 0, side := [], faults := [.stops 65536] }, .sessionClose 0, .sessionClose 9, .sourceBlockExpiry (2 ^ 32),
      .subscriptionReport 65536, .noticeSend (2 ^ 32), .positionPacket ⟨5, 0, 0⟩ 0 [], .positionPacket ⟨0, 4096, 0⟩ 0 [], .positionPacket ⟨0, 0, 65536⟩ 0 [], .positionPacket ⟨0, 0, 0⟩ (2 ^ 32) [], .positionPacket ⟨0, 0, 0⟩ 0 (List.replicate 1501 0), .mapSilenceTimeout 16, .mapConfigWrite 16 0 0, .mapConfigWrite 0 256 0, .mapConfigWrite 0 0 (2 ^ 32),
      .motionCountFix 33, .prepareStart 0x40000, .prepareAnswer 0x40000, .prepareDeadline 0x40000, .journalReplay false 1024 0, .journalReplay false 0 (2 ^ 32), .liftItemFinish 4,
      .liftSnapshotTake (List.replicate 257 0), .refreshAll (List.replicate 257 0), .loadPeakClear (List.replicate 257 0)] : List Instr).all (fun i => !i.wf) = true := by decide +kernel

/-- Ports and streams. -/
theorem test_wf_ports :
    ([.sfpPoll 4 ⟨some true, [], 0⟩, .sfpPoll 0 ⟨none, List.replicate 257 0, 0⟩, .sfpPoll 0 ⟨none, [], 2 ^ 32⟩, .sfpIdentify 4 [] [], .sfpIdentify 0 (List.replicate 257 0) [], .linkCandidateTimeout 4, .linkUp ⟨4, narrow⟩, .linkDown 5, .linkRetryCycle 4, .portConfigWrite 5 0 0, .portConfigWrite 0 256 0, .portConfigWrite 0 0 (2 ^ 32), .frameReceive 5 [] 0 0 0 0,
      .frameReceive 0 [] 0 0 0 16, .rxDescriptorPost 16 0 0, .rxDescriptorPost 0 (2 ^ 40) 0, .rxDescriptorPost 0 0 65536, .txFrameStart 5 [], .txFrameStart 0 [(16, (txDesc 0 60).buf)], .txFrameStart 0 [(0, (txDesc 5 60).buf)], .txFrameComplete 5 true, .tsQueueStatusRead 5,
      .tsQueueEntryRead 5, .pauseReceived 5 0, .pauseReceived 0 65536, .mkaSecured 4 0 (List.replicate 32 0) (List.replicate 32 0) 0 0, .mkaSecured 0 4 (List.replicate 32 0) (List.replicate 32 0) 0 0, .mdioRead 32 0 0, .mdioRead 0 32 0, .mdioRead 0 0 65536, .mdioWrite 32 0 0, .mdioWrite 0 32 0, .mdioWrite 0 0 65536, .counterClear 5 [], .rxFlowTimeout 1024,
      .rxPathTimeout 1024 0, .rxPathTimeout 0 2, .igmpReportTimer 5 0, .igmpReportTimer 0 (2 ^ 32), .slotTableWrite 1024 true 0 [], .slotTableWrite 0 true 2 [], .rxMarginClear 1024 []] : List Instr).all (fun i => !i.wf) = true := by
  decide +kernel

/-- Time, local I/O and memories. -/
theorem test_wf_time :
    ([.realignNow (List.replicate 257 0), .timeSet (List.replicate 257 0), .timeTestModeWrite 2, .inputEdge 4 0, .inputEdge 0 16, .inputLoss 4, .inputQualify 4, .ptpSyncReceive 5 0 [] 0, .ptpFollowUpReceive 5 [], .ptpDelayRespReceive 5 [],
      .ptpDelayReqReceive 5 0 [] 0 false, .ptpAnnounceReceive 5 [], .ptpSyncTimer 5, .ptpAnnounceTimer 5, .ptpDelayReqTimer 5, .clockMonitorInterval 1000001, .tdmFsyncLoss 4, .tdmPortConfigWrite 4 0 0, .tdmMaskWrite 4 true 0, .micBiasMeasure 3300001,
      .recorderTrigger 16, .dramAccessComplete 4 0, .dramAccessComplete 0 3, .refreshInterval 4, .mr4Poll 4 0 0 0 0, .mr4Poll 0 0 6 0 0, .rfmIssue 4 0, .rfmIssue 0 64, .arbBreakPoint 4 [], .arbBackoffEnd 0 10, .arbGrantWithdraw 4, .arbStarve 4 0,
      .arbUrgent 0 10, .arbPriorityWrite 10 0, .sramWriteback 2560 0 true, .sramHardFaultRecheck 0 8192 true, .bankPowerTransition 2560, .marchDestructive 65536 0 0, .marchDestructive 0 0 256, .marchPreserving 0 65536, .marchComplete [(2560, 0, 0)], .dramOscCheck 4 0 narrow, .tdmFrameStart 0 [2 ^ 32] 256 0, .tdmFrameStart 0 [] 256 32768] : List Instr).all (fun i => !i.wf) = true := by
  decide +kernel

/-- The pair, Drada, the supervisor and the power states. -/
theorem test_wf_system :
    ([.pairHello { hello with state := 8 }, .handoverCmd (List.replicate 257 0), .handoverDate (2 ^ 64) false, .mirrorWrite 0 [(65536, 0, [])], .tracingMessage 3 0 false [], .auditCheckBlock false false false [2560], .healthWord (2 ^ 32) false, .dradaCandidateTimeout 3,
      .dradaLinkDown 3, .dradaRetryCycle 3, .dradaConfigWrite 3 0 0, .dradaFeedCell 3 [], .dradaTickCell 3 [] tickFrame, .dradaControlCell 3 [], .dradaCalendarCell 3 [] (.cancel 0), .dradaMotionCell 3 [] (.counts 0 []), .dradaTimeCell 3 [] (.request 0),
      .dradaCreditCell 3 [], .dradaCreditReturnTimer 3, .dradaReplayCell 3 [], .dradaFeedLate 3 0, .dradaIdleEntry 3, .groupReform (List.replicate 257 0), .lockstepMismatch (2 ^ 32) 0, .sensorSample [], .sensorLimitWrite 13 true 0, .fanUpdate 65536,
      .logFind (List.replicate 257 0), .logClear 5 [], .supervisorPeek (List.replicate 257 0), .keyErase (List.replicate 257 0), .jtagResponse [], .clearRefresh 256 [], .perturbArm 256 [], .perturbDisarm 256, .perturbApply 8, .perturbTimeout 8, .railTrip 16, .resetRelease { facts with failing := [(2560, 0)] }, .carrierTempRead none (2 ^ 32) false, .dradaLinkCell 3 [] (.agree 0 false 0 0 [] smallEye),
      .bootComplete 601 [], .resetCmd (List.replicate 257 0), .showRequestWrite 256] : List Instr).all (fun i => !i.wf) = true := by decide +kernel

/-- Well-formed commands at the edge of their ranges. -/
theorem test_wf_edges :
    ([.convMuteEnd 511, .renderDeadlineMiss 15 [2559] true, .rxFlowTimeout 1023, .prepareStart 0x3FFFF, .read (.udp 8 (List.replicate 1500 0)), .canKeepalive (.can true (2 ^ 29 - 1) (List.replicate 64 0)), .bootComplete 600 [], .hostNotice .fragment,
      .clockMonitorInterval (-1000000), .perturbApply 7, .jtagInstruction .other] : List Instr).all Instr.wf = true := by decide +kernel

end Sys2Proof.Tests
end

