-- ==== Sys2Proof/Proofs/Idle.lean ====
section
/-! Almanac time in SN mode, and the idle step. -/

namespace Sys2Proof.Machine

/-- Almanac time reads back as it was set into S, N and Nf, below 2^48 seconds (R322). -/
theorem Dev.setSn_almNow (d : Dev) (a : Nat) (hm : d.alm.snMode = true) (ha : a < 2 ^ 48 * almSecond) :
    (d.setSn a).almNow = a := by
  have hs : a / almSecond % 2 ^ 48 = a / almSecond := Nat.mod_eq_of_lt (Nat.div_lt_of_lt_mul (by rwa [Nat.mul_comm] at ha))
  rw [almNow, if_pos (show (d.setSn a).alm.snMode = true from hm)]
  simp only [setSn]
  rw [hs]
  unfold almSecond
  omega

/-- In SN mode each cycle adds INC to Almanac time (R324). -/
theorem Dev.advance_almNow (d : Dev) (n : Nat) (hm : d.alm.snMode = true) (ha : d.almNow + n * d.alm.inc < 2 ^ 48 * almSecond) :
    (d.advance n).almNow = d.almNow + n * d.alm.inc := by
  rw [advance, if_pos hm]
  exact setSn_almNow { d with clock := d.clock + n } _ hm ha

/-- Settles O55: the step on an empty queue is `idle`, which lets one cycle pass where the module is powered. -/
theorem idleStep : Obligations.IdleStep := by
  intro s hq
  have hstep : step s = .next (idle s) := by simp only [step, hq]
  refine ⟨fun hl => ?_, fun hl => ⟨_, hstep, ?_⟩⟩
  · simp [hstep, idle, hl]
  · rw [idle, if_pos hl]
    refine ⟨hq, rfl, Dev.advance_clock 1 _, Dev.advance_regs 1 _, Dev.advance_out 1 _, fun hm ha => ?_⟩
    simpa using Dev.advance_almNow s.dev 1 hm (by simpa using ha)

end Sys2Proof.Machine
end

