-- ==== Sys2Proof/Proofs/Group.lean ====
section
/-! The lines of the unit tree, the cells that tell a member its place, and the group that GROUP_FORM makes of one member. -/

namespace Sys2Proof.Machine

namespace Dev

/-- Entries read alike where the lists of entries are the same. -/
theorem nat_congr {d d' : Dev} (h : d'.regs = d.regs) (r : Row) (i j : Nat) : d'.nat r i j = d.nat r i j := by
  simp only [Dev.nat, Dev.int, val_congr h]

/-- An entry outside a frame reads as before. -/
theorem KeepsRegs.nat {ks : List Nat} {d d' : Dev} (h : KeepsRegs ks d d') (r : Row) (i j : Nat) (hk : r.key i j ∉ ks)
    (ht : r.key i j ∉ tellKeys) : d'.nat r i j = d.nat r i j := by
  simp [Dev.nat, Dev.int, Dev.val, nget, h _ hk ht]

@[simp] theorem bump_drada (d : Dev) (r : Row) (i n : Nat) : (d.bump r i n).drada = d.drada := by unfold bump; split <;> rfl

/-! ### Cells (R459, R462) -/

@[simp] theorem launchCell_regs (k vc type : Nat) (cell : Octets) (d : Dev) : (d.launchCell k vc type cell).regs = d.regs := rfl

/-- Sending a cell changes of the entries DradaCreditStalls of its link at most. -/
theorem sendCell_keepsRegs (k : Nat) (type : CellType) (dest arg : Nat) (payload : Octets) (settled : Bool) (hops : Nat) (src : Option Nat)
    (d : Dev) : KeepsRegs [Reg.dradaCreditStalls.key k] d (d.sendCell k type dest arg payload settled hops src) := by
  unfold sendCell
  split
  · exact .refl _ d
  · dsimp only
    split
    · exact ((KeepsRegs.refl _ d).of_regs rfl).bump Reg.dradaCreditStalls k 1 (List.mem_singleton_self _)
    · exact (KeepsRegs.refl _ d).of_regs rfl

/-- Sending a cell changes of the Drada block its links alone. -/
theorem sendCell_drada (k : Nat) (type : CellType) (dest arg : Nat) (payload : Octets) (settled : Bool) (hops : Nat) (src : Option Nat)
    (d : Dev) : ∃ l, (d.sendCell k type dest arg payload settled hops src).drada = { d.drada with links := l } := by
  unfold sendCell
  split
  · exact ⟨_, rfl⟩
  · dsimp only
    split
    · exact ⟨_, bump_drada _ _ _ _⟩
    · exact ⟨_, rfl⟩

theorem assign_keepsRegs (m : Member) (u : Nat) (d : Dev) : KeepsRegs [Reg.dradaCreditStalls.key (m.path.headD 1)] d (d.assign m u) :=
  sendCell_keepsRegs _ _ _ _ _ _ _ _ _

theorem assign_drada (m : Member) (u : Nat) (d : Dev) : ∃ l, (d.assign m u).drada = { d.drada with links := l } := sendCell_drada ..

/-! ### The unit tree (Table 2-3) -/

/-- The entries of a unit's line. -/
def unitKeys (u : Nat) : List Nat := [Reg.unitParent.key u, Reg.unitLink.key u, Reg.unitKindOf.key u, Reg.unitOutputBase.key u,
  Reg.unitOutputCount.key u, Reg.unitHops.key u, Reg.unitState.key u]

theorem setUnit_keepsRegs (u parent link kind base count hops state : Nat) (d : Dev) :
    KeepsRegs (unitKeys u) d (d.setUnit u parent link kind base count hops state) := by
  unfold setUnit
  refine (((((((KeepsRegs.refl _ d).setNat _ _ _ _ ?_).setNat _ _ _ _ ?_).setNat _ _ _ _ ?_).setNat _ _ _ _ ?_).setNat _ _ _ _ ?_).setNat
    _ _ _ _ ?_).setNat _ _ _ _ ?_ <;> simp [unitKeys]

@[simp] theorem setUnit_unitState (u parent link kind base count hops state : Nat) (d : Dev) :
    (d.setUnit u parent link kind base count hops state).nat Reg.unitState u = state := nat_setNat_same _ _ _ _ _

@[simp] theorem setUnit_unitParent (u parent link kind base count hops state : Nat) (d : Dev) :
    (d.setUnit u parent link kind base count hops state).nat Reg.unitParent u = parent := by
  have other (r : Row) (e : Dev) (v : Nat) (h : Reg.unitParent.key u 0 ≠ r.key u 0) : (e.setNat r v u).nat Reg.unitParent u = e.nat Reg.unitParent u :=
    nat_setNat_ne _ _ _ _ _ _ _ _ h
  unfold setUnit
  rw [other, other, other, other, other, other, nat_setNat_same] <;>
    simp only [unitParent_key, unitLink_key, unitKindOf_key, unitOutputBase_key, unitOutputCount_key, unitHops_key, unitState_key] <;> omega

@[simp] theorem setUnit_drada (u parent link kind base count hops state : Nat) (d : Dev) :
    (d.setUnit u parent link kind base count hops state).drada = d.drada := rfl

@[simp] theorem setUnit_force (u parent link kind base count hops state : Nat) (d : Dev) :
    (d.setUnit u parent link kind base count hops state).force = d.force := rfl

@[simp] theorem setUnit_parts (u parent link kind base count hops state : Nat) (d : Dev) :
    (d.setUnit u parent link kind base count hops state).parts = d.parts := rfl

/-- A module of one partition takes one line. -/
theorem placeModule_single (u parent link base hops parts pairState : Nat) (outs : List Nat) (state : Nat) (d : Dev) (h : parts ≤ 1) :
    d.placeModule u parent link base hops parts pairState outs state =
      d.setUnit u parent link (if pairState = 0 then 0 else 2) base (lget 0 outs 0) hops state := by
  rw [placeModule, if_pos h]

/-! ### GROUP_FORM (R472) -/

/-- A realignment that becomes due writes no entry, but for what telling it counts. -/
theorem realignDue_keepsRegs (ks : List Nat) (d : Dev) : KeepsRegs ks d d.realignDue := by
  unfold realignDue
  split
  · exact .refl _ d
  · dsimp only
    split
    · exact ((KeepsRegs.refl ks d).of_regs (setAlm_regs _ _)).told (told_notice _ _ _)
    · exact (KeepsRegs.refl ks d).of_regs (setAlm_regs _ _)

@[simp] theorem realignDue_drada (d : Dev) : d.realignDue.drada = d.drada := by
  unfold realignDue
  split
  · rfl
  · dsimp only
    split
    · exact notice_drada _ _ _
    · rfl

/-- Adopting D writes it, whatever it was; of the other entries only the events that are told may count. -/
theorem adoptLatency_keepsRegs (extra : Nat) (d : Dev) : KeepsRegs [Reg.groupExtraLatency.key] d (d.adoptLatency extra) := by
  have h := (KeepsRegs.refl [Reg.groupExtraLatency.key] d).setNat Reg.groupExtraLatency extra 0 0 (List.mem_singleton_self _)
  unfold adoptLatency
  split
  · exact .refl _ d
  · dsimp only
    split
    · exact h.trans (realignDue_keepsRegs _ _)
    · exact h

theorem adoptLatency_groupExtraLatency (extra : Nat) (d : Dev) : (d.adoptLatency extra).nat Reg.groupExtraLatency = extra := by
  unfold adoptLatency
  split
  · assumption
  · dsimp only
    split
    · rw [(realignDue_keepsRegs [] _).nat _ _ _ (by simp) (by decide), nat_setNat_same]
    · exact nat_setNat_same _ _ _ _ _

@[simp] theorem adoptLatency_drada (extra : Nat) (d : Dev) : (d.adoptLatency extra).drada = d.drada := by
  unfold adoptLatency
  split
  · rfl
  · dsimp only
    split
    · exact realignDue_drada _
    · rfl

/-- A head that no member has answered admits none, and tells nothing. -/
theorem admissible_none (d : Dev) (h : d.drada.collected = []) : d.admissible = ([], d) := by simp [admissible, h]

/-- The one member that answered is admitted where it is no head and has the head's rate. -/
theorem admissible_single (d : Dev) (m : Member) (h : d.drada.collected = [m]) (hr : m.headRole = false) (hf : m.rate = d.fr) :
    d.admissible = ([m], d) := by simp [admissible, h, hr, hf]

/-- The lines of a head and of one member below it, and the group's figures, before D is in force. -/
def pairTree (m : Member) (d : Dev) : Dev :=
  let d := d.setUnit 0 0xFFFF 0 3 0 ((d.outs + lget 0 m.outs 0) % 65536) 0 2
  let d := d.setUnit 1 0xFFFF 0 (if d.nat Reg.pairState = 0 then 0 else 2) 0 (lget 0 d.ownOuts 0) 0 2
  let d := d.setUnit 2 1 1 (if m.pairState = 0 then 0 else 2) d.outs (lget 0 m.outs 0) 1 1
  (((d.setNat Reg.groupState 1).setNat Reg.groupTopology 1).setNat Reg.groupUnits 3).setNat Reg.groupDepth 1

theorem adoptGroup_single (m : Member) (d : Dev) (hpath : m.path = [1]) (hm : m.parts ≤ 1) (hd : d.parts ≤ 1) :
    d.adoptGroup [m] 1 1 = ((((d.pairTree m).adoptLatency (d.extraLatency 1)).setDrada
      fun g => { g with members := [(m, 2)], formed := true, formBy := none, breaks := [] }).assign m 2).notice 0x8104 3 := by
  have hu : unitsOf m.parts = 1 := if_pos hm
  have hv : unitsOf d.parts = 1 := if_pos hd
  have hn : numberMembers (1 + 1) d.outs [m] = [(m, 2, d.outs)] := rfl
  have hp : parentOf [(m, 2, d.outs)] m = 1 := by simp [parentOf, hpath]
  simp only [adoptGroup, hn, hp, List.foldl_cons, List.foldl_nil, List.map_cons, List.map_nil, hu, hv, setUnit_parts]
  rw [placeModule_single _ _ _ _ _ _ _ _ _ _ hm, placeModule_single _ _ _ _ _ _ _ _ _ _ hd, hpath]
  simp only [Nat.zero_add]
  rfl

/-- The group's figures and the units' places in the lines of a head and its one member. -/
theorem pairTree_figures (m : Member) (d : Dev) :
    (d.pairTree m).nat Reg.groupState = 1 ∧ (d.pairTree m).nat Reg.groupTopology = 1 ∧ (d.pairTree m).nat Reg.groupUnits = 3 ∧
      (d.pairTree m).nat Reg.groupDepth = 1 ∧ (d.pairTree m).nat Reg.unitParent 1 = 0xFFFF ∧ (d.pairTree m).nat Reg.unitParent 2 = 1 ∧
      (d.pairTree m).nat Reg.unitState 2 = 1 := by
  have hframe (e : Dev) (parent link kind base count hops state : Nat) :
      (e.setUnit 2 parent link kind base count hops state).nat Reg.unitParent 1 = e.nat Reg.unitParent 1 :=
    (setUnit_keepsRegs _ _ _ _ _ _ _ _ _).nat _ _ _ (by decide) (by decide)
  simp (disch := decide) only [pairTree, nat_setNat_ne, nat_setNat_same, hframe, setUnit_unitParent, setUnit_unitState, and_self]

/-- What a group of one member looks like once its head has adopted it (R28, R29, R472). -/
theorem adoptGroup_single_spec {d e : Dev} {m : Member} (h : d.adoptGroup [m] 1 1 = e) (hpath : m.path = [1]) (hm : m.parts ≤ 1)
    (hd : d.parts ≤ 1) :
    e.drada.formed = true ∧ e.drada.members = [(m, 2)] ∧ e.nat Reg.groupState = 1 ∧ e.nat Reg.groupTopology = 1 ∧ e.nat Reg.groupUnits = 3 ∧
      e.nat Reg.groupDepth = 1 ∧ e.nat Reg.groupExtraLatency = d.extraLatency 1 ∧ e.nat Reg.unitParent 1 = 0xFFFF ∧ e.nat Reg.unitParent 2 = 1 ∧
      e.nat Reg.unitState 2 = 1 := by
  have he := h.symm.trans (adoptGroup_single m d hpath hm hd)
  have hdrada : e.drada.formed = true ∧ e.drada.members = [(m, 2)] := by
    obtain ⟨l, hl⟩ := assign_drada m 2 (((d.pairTree m).adoptLatency (d.extraLatency 1)).setDrada
      fun g => { g with members := [(m, 2)], formed := true, formBy := none, breaks := [] })
    rw [he, notice_drada, hl, setDrada_drada]
    exact ⟨rfl, rfl⟩
  have hadopted (r : Row) (i : Nat) (hs : r.key i ≠ Reg.dradaCreditStalls.key 1) (ht : r.key i ∉ tellKeys) :
      e.nat r i = ((d.pairTree m).adoptLatency (d.extraLatency 1)).nat r i := by
    rw [he, notice_nat _ _ _ _ _ _ ht, (assign_keepsRegs _ _ _).nat _ _ _ (by simpa [hpath] using hs) ht,
      nat_congr (setDrada_regs _ _)]
  have htree (r : Row) (i : Nat) (hs : r.key i ∉ [Reg.dradaCreditStalls.key 1, Reg.groupExtraLatency.key]) (ht : r.key i ∉ tellKeys) :
      e.nat r i = (d.pairTree m).nat r i := by
    simp only [List.mem_cons, List.not_mem_nil, or_false, not_or] at hs
    rw [hadopted r i hs.1 ht, (adoptLatency_keepsRegs _ _).nat _ _ _ (by simpa using hs.2) ht]
  obtain ⟨hstate, htopology, hunits, hdepth, hparent1, hparent2, hstate2⟩ := pairTree_figures m d
  exact ⟨hdrada.1, hdrada.2, (htree _ _ (by decide) (by decide)).trans hstate, (htree _ _ (by decide) (by decide)).trans htopology,
    (htree _ _ (by decide) (by decide)).trans hunits, (htree _ _ (by decide) (by decide)).trans hdepth,
    (hadopted _ _ (by decide) (by decide)).trans (adoptLatency_groupExtraLatency _ _), (htree _ _ (by decide) (by decide)).trans hparent1,
    (htree _ _ (by decide) (by decide)).trans hparent2, (htree _ _ (by decide) (by decide)).trans hstate2⟩

/-- The module as GROUP_FORM finds it when it is due. -/
def atForming (d : Dev) : Dev := (d.advanceTo (d.drada.formBy.getD d.clock)).setDrada fun g => { g with formBy := none }

theorem setDrada_eq_atForming (d : Dev) :
    (d.advanceTo (d.drada.formBy.getD d.clock)).setDrada (fun g => { g with formBy := none }) = d.atForming := rfl
@[simp] theorem atForming_drada (d : Dev) : d.atForming.drada = { d.drada with formBy := none } := by simp [atForming]
@[simp] theorem atForming_regs (d : Dev) : d.atForming.regs = d.regs := by simp [atForming]
@[simp] theorem atForming_force (d : Dev) : d.atForming.force = d.force := by simp [atForming]
@[simp] theorem atForming_headsGroup (d : Dev) : d.atForming.headsGroup = d.headsGroup := by
  show (d.advanceTo _).headsGroup = _
  simp [headsGroup, headRole, dlinkUp, inForce, lone]
theorem atForming_inForce (d : Dev) (r : Row) (i : Nat) : d.atForming.inForce r i = d.inForce r i := by simp [inForce]
@[simp] theorem atForming_parts (d : Dev) : d.atForming.parts = d.parts := atForming_inForce d _ _
@[simp] theorem atForming_fr (d : Dev) : d.atForming.fr = d.fr := atForming_inForce d _ _
@[simp] theorem atForming_extraLatency (d : Dev) (h : Nat) : d.atForming.extraLatency h = d.extraLatency h := by simp [extraLatency]

/-- With no answer from a member a formed group stays; without one the module stands alone. -/
theorem groupForm_none (d : Dev) (hh : d.headsGroup = true) (hr : d.Reaches (d.drada.formBy.getD d.clock)) (hc : d.drada.collected = []) :
    d.groupForm = if d.drada.formed then d.atForming else d.atForming.loneTree := by
  have ha : d.atForming.admissible = ([], d.atForming) := admissible_none _ (by rw [atForming_drada]; exact hc)
  rw [groupForm, onDue_eq _ _ _ hr]
  simp only [setDrada_eq_atForming, atForming_headsGroup, hh, ha, atForming_drada, hc]
  simp

/-- With the answer of one member that fits, the head adopts it. -/
theorem groupForm_single (d : Dev) (m : Member) (hh : d.headsGroup = true) (hr : d.Reaches (d.drada.formBy.getD d.clock))
    (hc : d.drada.collected = [m]) (hrole : m.headRole = false) (hrate : m.rate = d.fr) (hpath : m.path = [1]) (hm : m.parts ≤ 1)
    (hd : d.parts ≤ 1) (hring : d.drada.ring = false) (hl : d.extraLatency 1 ≤ d.nat Reg.groupLatencyLimit) :
    d.groupForm = d.atForming.adoptGroup [m] 1 1 := by
  have ha : d.atForming.admissible = ([m], d.atForming) :=
    admissible_single _ _ (by rw [atForming_drada]; exact hc) hrole (hrate.trans (atForming_fr d).symm)
  have hu : unitsOf m.parts = 1 := if_pos hm
  have hv : unitsOf d.parts = 1 := if_pos hd
  rw [groupForm, onDue_eq _ _ _ hr]
  simp only [setDrada_eq_atForming, atForming_headsGroup, hh, ha, atForming_drada, hc, atForming_parts, atForming_extraLatency,
    nat_congr (atForming_regs d)]
  simp [hrole, hpath, hring, hu, hv, hl]

/-- `d'` is `d` but for the values of entries. -/
def SameButRegs (d d' : Dev) : Prop := { d' with regs := d.regs } = d

theorem SameButRegs.refl (d : Dev) : SameButRegs d d := rfl

theorem SameButRegs.trans {a b c : Dev} (h : SameButRegs a b) (h' : SameButRegs b c) : SameButRegs a c := by
  have e := h
  unfold SameButRegs at e
  rw [← h'] at e
  exact e

theorem SameButRegs.drada {d d' : Dev} (h : SameButRegs d d') : d'.drada = d.drada := (congrArg Dev.drada h :)

theorem SameButRegs.parts {d d' : Dev} (h : SameButRegs d d') : d'.parts = d.parts := (congrArg Dev.parts h :)

theorem sameButRegs_foldl {α : Type} {f : Dev → α → Dev} (hf : ∀ d x, SameButRegs d (f d x)) (l : List α) (d : Dev) :
    SameButRegs d (l.foldl f d) := by
  induction l generalizing d with
  | nil => exact .refl d
  | cons x t ih => exact (hf d x).trans (ih _)

theorem sameButRegs_setUnit (u parent link kind base count hops state : Nat) (d : Dev) :
    SameButRegs d (d.setUnit u parent link kind base count hops state) := rfl

theorem sameButRegs_placeModule (u parent link base hops parts pairState : Nat) (outs : List Nat) (state : Nat) (d : Dev) :
    SameButRegs d (d.placeModule u parent link base hops parts pairState outs state) := by
  have fold : ∀ (l : List Nat) (a : Dev × Nat), SameButRegs a.1 (l.foldl (fun (a : Dev × Nat) p =>
      (a.1.setUnit (u + 1 + p) u 3 1 a.2 (lget 0 outs (1 + p)) hops state, a.2 + lget 0 outs (1 + p))) a).1 := by
    intro l
    induction l with
    | nil => exact fun a => .refl a.1
    | cons p t ih => exact fun a => SameButRegs.trans (sameButRegs_setUnit _ _ _ _ _ _ _ _ _) (ih (_, _))
  unfold placeModule
  dsimp only
  split
  · exact sameButRegs_setUnit _ _ _ _ _ _ _ _ _
  · exact SameButRegs.trans (sameButRegs_setUnit _ _ _ _ _ _ _ _ _) (fold _ (_, _))

/-- The unit tree of a module alone, before the group's figures. -/
def loneLines (d : Dev) : Dev :=
  let d := (List.range 1024).foldl (fun d u => if d.nat Reg.unitState u = 0 ∧ u ≠ 0 then d else d.setUnit u 0xFFFF 0 0 0 0 0 0) d
  d.placeModule 0 0xFFFF 0 0 0 d.parts (d.nat Reg.pairState) d.ownOuts 2

theorem loneTree_eq (d : Dev) : d.loneTree = ((((d.loneLines.setNat Reg.groupState 0).setNat Reg.groupTopology 0).setNat Reg.groupUnits
    (unitsOf d.loneLines.parts)).setNat Reg.groupDepth 0).setNat Reg.groupExtraLatency 0 := by rw [loneTree, loneLines]

theorem sameButRegs_loneLines (d : Dev) : SameButRegs d d.loneLines := by
  unfold loneLines
  generalize List.range 1024 = l
  refine (sameButRegs_foldl (fun e u => ?_) l d).trans (sameButRegs_placeModule _ _ _ _ _ _ _ _ _ _)
  split
  · exact .refl e
  · exact sameButRegs_setUnit _ _ _ _ _ _ _ _ _

theorem loneTree_drada (d : Dev) : d.loneTree.drada = d.drada := by
  rw [loneTree_eq, setNat_drada, setNat_drada, setNat_drada, setNat_drada, setNat_drada, (sameButRegs_loneLines d).drada]

/-- The figures of a module alone: no group, D = 0. -/
theorem loneTree_figures (d : Dev) : d.loneTree.nat Reg.groupState = 0 ∧ d.loneTree.nat Reg.groupExtraLatency = 0 ∧
    d.loneTree.nat Reg.groupDepth = 0 ∧ d.loneTree.nat Reg.groupUnits = unitsOf d.parts := by
  rw [loneTree_eq, (sameButRegs_loneLines d).parts]
  generalize d.loneLines = e
  refine ⟨?_, nat_setNat_same _ _ _ _ _, ?_, ?_⟩ <;> simp (disch := decide) only [nat_setNat_ne, nat_setNat_same]

end Dev

/-- Settles O49: what the head admits, and then the group that it adopts or keeps. -/
theorem groupForming : Obligations.GroupForming := by
  intro s ha hh hr
  refine ⟨fun hc hf => ?_, fun hc hf => ?_, fun m hc hrole hrate hpath hm hd hring hl => ?_⟩ <;> refine up_completes rfl ha ?_
  · rw [Dev.groupForm_none _ hh hr hc, if_pos hf]
    exact ⟨Dev.atForming_drada _, Dev.atForming_regs _⟩
  · rw [Dev.groupForm_none _ hh hr hc, if_neg (by simp [hf])]
    obtain ⟨hstate, hlat, hdepth, hunits⟩ := Dev.loneTree_figures s.dev.atForming
    refine ⟨?_, hstate, hlat, hdepth, hunits.trans (by rw [Dev.atForming_parts])⟩
    rw [Dev.loneTree_drada, Dev.atForming_drada]
  · rw [Dev.groupForm_single _ m hh hr hc hrole hrate hpath hm hd hring hl, ← Dev.atForming_extraLatency]
    exact Dev.adoptGroup_single_spec rfl hpath hm (by rw [Dev.atForming_parts]; exact hd)

end Sys2Proof.Machine
end

