-- ==== Sys2Proof/Proofs/Counterexamples.lean ====
section
/-! A watchdog that expires during the sequence of a rail trip, and an entry of a unit beyond the unit tree. -/

namespace Sys2Proof.Machine

/-- What an event of a module that answers has completed with holds of its effect. -/
theorem Completes.of_up {i : Instr} {s : State} {f : Dev → Dev} {P : Dev → Prop} (h : Completes i s P)
    (he : exec i s = s.run (Dev.whenUp f)) (ha : s.dev.answers = true) : P (f s.dev) := by
  obtain ⟨t, ht, -, -, hp⟩ := h
  rw [he, State.run, Dev.whenUp, if_pos ha] at ht
  cases ht
  exact hp

/-! ### Watchdogs during the sequence of a rail trip (R32, R552) -/

namespace Dev

theorem live_of_power {d d' : Dev} (h : d'.power = d.power) : d'.live = d.live := by rw [live, live, h]

/-- During the sequence of a rail trip a full reset of another cause is only logged (R552). -/
theorem fullReset_tripped_power (cause : Nat) (d : Dev) (hl : d.live = true) (ht : d.power.tripped = true) (hc : cause ≠ 0x0A) :
    (d.fullReset cause).power = d.power := by
  rw [fullReset, if_neg (by simp [hl]), if_pos ⟨ht, hc⟩, logOvertaken, logEvent_power]

theorem wedged_tripped_power (d : Dev) (hl : d.live = true) (ht : d.power.tripped = true) : d.wedged.power = d.power := by
  have hp : (d.faultRecord 0xFFFF).power = d.power := logEvent_power _ _
  rw [wedged, if_pos hl, fullReset_tripped_power _ _ (by rw [live_of_power hp, hl]) (by rw [hp, ht]) (by decide), hp]

/-- The watchdog of a stopped function that expires during the sequence of a rail trip resets nothing. -/
theorem progressExpiry_tripped_power (d : Dev) (t : Nat) (hs : d.power.stoppedAt = some t) (hr : d.pathRuns = false)
    (hd : d.Reaches (t + usCycles 1500)) (hl : d.live = true) (ht : d.power.tripped = true) : d.progressExpiry.power = d.power := by
  have hlast : d.lastStep = some t := by simp [lastStep, hs, hr, earlier]
  rw [progressExpiry, hlast]
  dsimp only
  rw [onDue_eq _ _ _ hd, wedged_tripped_power _ (by rw [live_of_power (advanceTo_power _ d), hl]) (by rw [advanceTo_power, ht]), advanceTo_power]

end Dev

/-- A QUIET lone module one of whose functions has stopped, then a rail trip: in FAULT, its restart still to come (R559). -/
def trippedStopped : State :=
  { State.reset with dev := { Dev.reset with power :=
    { resetPower with state := .fault, held := false, rails := false, pgood := false, tripped := true, stoppedAt := some 0 } } }

/-- Refutes O40: no clause excludes the sequence of a rail trip, during which a watchdog's reset is only logged (R552); `trippedStopped`
stays in FAULT when its watchdog expires. -/
theorem not_ticksAndDeadlines : ¬ Obligations.TicksAndDeadlines := by
  intro h
  have ha : trippedStopped.dev.answers = true := by decide
  have hd : trippedStopped.dev.Reaches (0 + Dev.usCycles 1500) := fun h => absurd h (by decide)
  obtain ⟨-, -, -, -, -, -, -, -, -, -, -, hstopped, -⟩ := h trippedStopped ha rfl (by decide)
  obtain ⟨hboot, -, -⟩ := (hstopped 0 rfl (by decide) hd).of_up rfl ha
  rw [Dev.progressExpiry_tripped_power _ 0 rfl (by decide) hd (Dev.answers_live ha) rfl] at hboot
  exact absurd hboot (by decide)

/-! ### Units beyond the unit tree (R28, R88) -/

/-- A prepared and decided entry that sets OutputGain of output 7 at unit 0x1F10. -/
def strayEntry : CalEntry :=
  { Dev.blankEntry 1023 0 0x1F10 0 .operator .prepared with
    changes := [{ index := 0x7007, sub := 4, val := .int 5 }], participants := [0x1F10], decided := true }

/-- A lone module in QUIET whose UnitId is 0x1F10, with that entry in its calendar. -/
def strayUnit : State :=
  { State.reset with dev := (({ Dev.reset with power := { resetPower with state := .quiet, held := false } } : Dev).setNat Reg.unitId 0x1F10).putCal strayEntry }

/-- After the commit that module does not count the entry as confirmed: the line of unit 0x1F10 lies where ConfigEpoch stands, whose 1
now reads as the kind of a partition. -/
theorem strayUnit_stays_prepared : (strayUnit.dev.calendarCommit.entryAt 1023).map (·.state) = some .prepared := by decide +kernel

/-- Refutes O44: R44 ends the unit numbers at 1,023, and no hypothesis of the statement does. In `strayUnit` the commit's own ConfigEpoch
changes which module the entry addresses, and the entry stays PREPARED. -/
theorem not_calendarOutcomes : ¬ Obligations.CalendarOutcomes := by
  intro h
  have ha : strayUnit.dev.answers = true := by decide
  obtain ⟨hcommit, -⟩ := h strayUnit ha rfl (by decide) rfl (by decide)
  obtain ⟨-, -, -, -, hstate, -⟩ := (hcommit 1023 strayEntry 7 0 5 (by decide) rfl rfl rfl rfl rfl rfl rfl (by decide +kernel) (by decide +kernel) rfl
    (by decide) (by decide +kernel)).of_up rfl ha
  rw [strayUnit_stays_prepared] at hstate
  exact absurd hstate (by decide)

end Sys2Proof.Machine
end

