-- ==== Sys2Proof/Proofs/StepReset.lean ====
section
/-! The step on a waiting command, and the state right after reset. -/

namespace Sys2Proof.Machine

/-- Settles O54: `step` runs the front of a queue that is not empty on the state with the rest. -/
theorem stepTakesFront : Obligations.StepTakesFront := by
  intro i rest s hq
  rw [step, hq]

/-- PairState is the one entry listed at reset, so any other key is not listed (R454, log entry 5). -/
theorem Dev.reset_val {r : Row} {i j : Nat} (hk : r.key i j ≠ 0x800001) : Dev.reset.val r i j = r.default i j := by
  show nget (r.default i j) [(0x800001, Val.int 0)] (r.key i j) = r.default i j
  rw [nget, nget?_cons, if_neg (Ne.symm hk), nget?_nil, Option.getD_none]

/-- Settles O56: the one listed entry apart, every entry reads its default. -/
theorem resetState : Obligations.ResetState :=
  ⟨rfl, rfl, rfl, rfl, rfl, fun _ _ _ hk => Dev.reset_val hk⟩

end Sys2Proof.Machine
end

