-- ==== Sys2Proof/Proofs/ValueWrites.lean ====
section
/-! Values given to entries outside a request frame: what is refused, and what one that is taken does (R39, Table 2-7). -/

namespace Sys2Proof.Machine

/-- A list of checks passes where each of them does. -/
theorem firstBad_ok {l : List Status} : firstBad l = Status.ok ↔ ∀ s ∈ l, s = Status.ok := by
  unfold firstBad
  cases h : l.find? fun s => s != Status.ok with
  | none => simpa using h
  | some s =>
    have hs : s ≠ Status.ok := by simpa using List.find?_some h
    exact ⟨fun e => absurd e hs, fun ha => absurd (ha s (List.mem_of_find?_eq_some h)) hs⟩

namespace Dev

theorem locate_error_ne_ok {d : Dev} {pl : Place} {idx sub : Nat} {s : Status} (h : d.locate pl idx sub = .error s) : s ≠ Status.ok := by
  unfold locate at h
  split at h
  · split at h
    · cases h; split <;> decide
    · cases h; decide
  · split at h
    · cases h
    · cases h; decide

/-! ### What a value passes (R55, Table 2-7) -/

/-- A value that passes is in its row's range and passes every chapter's check. -/
theorem checkValue_ok {d : Dev} {pl : Place} {f : Found} {v : Val} (h : d.checkValue pl f v = Status.ok) :
    ∀ s ∈ [d.checkPorts f v, d.checkSystem f v, d.checkSelect pl f v.toInt.toNat, d.checkScene f v, d.checkLocal f v, d.checkFlow f v,
      d.checkMatrix pl f v, d.checkClosed f v], s = Status.ok := by
  unfold checkValue at h
  split at h
  · exact absurd h (by decide)
  · exact firstBad_ok.1 h

theorem checkValue_ports {d : Dev} {pl : Place} {f : Found} {v : Val} (h : d.checkValue pl f v = Status.ok) : d.checkPorts f v = Status.ok :=
  checkValue_ok h _ (by simp)

theorem checkValue_system {d : Dev} {pl : Place} {f : Found} {v : Val} (h : d.checkValue pl f v = Status.ok) : d.checkSystem f v = Status.ok :=
  checkValue_ok h _ (by simp)

theorem checkValue_local {d : Dev} {pl : Place} {f : Found} {v : Val} (h : d.checkValue pl f v = Status.ok) : d.checkLocal f v = Status.ok :=
  checkValue_ok h _ (by simp)

theorem checkValue_closed {d : Dev} {pl : Place} {f : Found} {v : Val} (h : d.checkValue pl f v = Status.ok) : d.checkClosed f v = Status.ok :=
  checkValue_ok h _ (by simp)

/-! ### The write itself -/

/-- What a value given to an entry is answered (Table 2-7). -/
def valueStatus (d : Dev) (r : Row) (i : Nat) (v : Val) : Status :=
  match d.locate .whole (r.base + i) r.sub with
  | .error s => s
  | .ok _ => if readOnly (foundOf r i) then Status.readOnly else if d.standbyRefuses (foundOf r i) then Status.state
      else d.checkValue .whole (foundOf r i) v

theorem valueCommand_eq (d : Dev) (r : Row) (i : Nat) (v : Val) : d.valueCommand r i 0 v =
    if d.valueStatus r i v = Status.ok then
      { (d.applyWrite 0 (foundOf r i) v).mirrorPlain (foundOf r i) (valWire r.ty v) with lastStatus := d.valueStatus r i v }
    else { d with lastStatus := d.valueStatus r i v } := rfl

/-- A lone module answers OK to what the entry takes, and to nothing else. -/
theorem valueStatus_ok {d : Dev} {r : Row} {i : Nat} {v : Val} (ha : d.Alone) : d.valueStatus r i v = Status.ok ↔ d.Takes r i v := by
  rw [valueStatus, Takes]
  cases hl : d.locate .whole (r.base + i) r.sub with
  | error s => simp [locate_error_ne_ok hl]
  | ok f => cases hr : readOnly (foundOf r i) <;> simp [ha.refuses]

/-- On a lone module a value that the entry takes has its effect, counts in ConfigEpoch and answers OK. -/
theorem valueCommand_taken {d : Dev} {r : Row} {i : Nat} {v : Val} (ha : d.Alone) (ht : d.Takes r i v)
    (hp : (d.applyEffect 0 (foundOf r i) v).power = d.power) :
    d.valueCommand r i 0 v = { (d.applyEffect 0 (foundOf r i) v).bumpEpoch with lastStatus := Status.ok } := by
  have hl : (d.applyWrite 0 (foundOf r i) v).lone = true := by
    rw [lone, applyWrite, bumpEpoch, bump_power, hp]; exact ha.1
  have hs := (valueStatus_ok ha).2 ht
  rw [valueCommand_eq, if_pos hs, mirrorPlain_lone hl, hs]
  rfl

/-- On a lone module a value that the entry does not take answers why, and changes nothing else. -/
theorem valueCommand_refused {d : Dev} {r : Row} {i : Nat} {v : Val} (ha : d.Alone) (ht : ¬ d.Takes r i v) : d.Refused (d.valueCommand r i 0 v) := by
  have hs : d.valueStatus r i v ≠ Status.ok := fun h => ht ((valueStatus_ok ha).1 h)
  rw [valueCommand_eq, if_neg hs]
  exact ⟨_, hs, rfl⟩

@[simp] theorem bump_alm (d : Dev) (r : Row) (i n : Nat) : (d.bump r i n).alm = d.alm := by unfold bump; split <;> rfl

/-- ConfigEpoch and the status come last, and leave every other entry. -/
theorem keepsRegs_epoch {ks : List Nat} {a b : Dev} (h : KeepsRegs ks a b) (hk : Reg.configEpoch.key ∈ ks) (st : Status) :
    KeepsRegs ks a { b.bumpEpoch with lastStatus := st } := (h.bump Reg.configEpoch 0 1 hk).of_regs rfl

theorem epoch_val (d : Dev) (r : Row) (i j : Nat) (st : Status) (h : r.key i j ≠ Reg.configEpoch.key) :
    ({ d.bumpEpoch with lastStatus := st } : Dev).val r i j = d.val r i j := val_setVal_ne _ _ _ _ _ _ _ _ h

theorem epoch_int (d : Dev) (r : Row) (i j : Nat) (st : Status) (h : r.key i j ≠ Reg.configEpoch.key) :
    ({ d.bumpEpoch with lastStatus := st } : Dev).int r i j = d.int r i j := by rw [int, epoch_val _ _ _ _ _ h]; rfl

theorem epoch_nat (d : Dev) (r : Row) (i j : Nat) (st : Status) (h : r.key i j ≠ Reg.configEpoch.key) :
    ({ d.bumpEpoch with lastStatus := st } : Dev).nat r i j = d.nat r i j := by rw [nat, epoch_int _ _ _ _ _ h]; rfl

/-! ### The entries whose writes have a row of their own -/

/-- A value kept in MRAM as well as in its entry. -/
theorem storeValue_keepsRegs {ks : List Nat} (f : Found) (v : Val) (d : Dev) (h : f.row.key f.i f.j ∈ ks) : KeepsRegs ks d (d.storeValue f v) := by
  have hs := (KeepsRegs.refl ks d).setVal f.row v f.i f.j h
  unfold storeValue
  dsimp only
  split
  · exact hs.of_regs rfl
  · exact hs

theorem storeValue_val (f : Found) (v : Val) (d : Dev) : (d.storeValue f v).val f.row f.i f.j = v := by
  unfold storeValue
  dsimp only
  split
  · exact val_setVal_same _ _ _ _ _
  · exact val_setVal_same _ _ _ _ _

@[simp] theorem storeValue_power (f : Found) (v : Val) (d : Dev) : (d.storeValue f v).power = d.power := by
  unfold storeValue
  dsimp only
  split <;> rfl

/-- ShowRequest takes 0 and 1 (R557). -/
theorem showRequest_eq (d : Dev) {v : Nat} (hv : v ≤ 1) : (d.showRequest v).2 = (d.setNat Reg.showRequest v).keep Reg.showRequest := by
  rw [showRequest, if_neg (by omega)]

/-- A warn limit that passes is stored (R491). -/
theorem sensorLimitWrite_eq {d : Dev} {p : Nat} {high : Bool} {v : Int} (h : (d.sensorLimitWrite p high v).1 = Status.ok) :
    (d.sensorLimitWrite p high v).2 =
      (d.setInt (if high then Reg.sensorWarnHigh else Reg.sensorWarnLow) v p).keep (if high then Reg.sensorWarnHigh else Reg.sensorWarnLow) p := by
  have refusals : Status.noEntry ≠ Status.ok ∧ Status.readOnly ≠ Status.ok ∧ Status.range ≠ Status.ok ∧ Status.conflict ≠ Status.ok := by decide
  unfold sensorLimitWrite at h ⊢
  grind

@[simp] theorem toSn_power (d : Dev) : d.toSn.power = d.power := by unfold toSn; split <;> rfl

@[simp] theorem realignDue_power (d : Dev) : d.realignDue.power = d.power := by
  unfold realignDue
  split
  · rfl
  · dsimp only
    split
    · exact notice_power _ _ _
    · rfl

theorem toSn_snMode (d : Dev) : d.toSn.alm.snMode = true := by
  unfold toSn
  split
  · assumption
  · rfl

theorem toSn_keepsRegs (d : Dev) : KeepsRegs [Reg.timeMode.key] d d.toSn := by
  unfold toSn
  split
  · exact .refl _ d
  · exact ((KeepsRegs.refl _ d).of_regs rfl).setNat Reg.timeMode 0 0 0 (by simp)

/-- TimeTestMode outside SHOW is stored; 1 puts the Almanac into SN mode (R326, R330). -/
theorem timeTestMode_spec (d : Dev) {v : Nat} (hv : v ≤ 1) (hs : d.power.state ≠ .onShow) :
    (d.timeTestMode v).2.power = d.power ∧ (d.timeTestMode v).2.nat Reg.timeTestMode = v ∧ (v = 1 → (d.timeTestMode v).2.alm.snMode = true) := by
  have hset : (d.setNat Reg.timeTestMode v).nat Reg.timeTestMode = v := nat_setNat_same _ _ _ _ _
  unfold timeTestMode
  rw [if_neg (by omega), if_neg hs]
  dsimp only
  by_cases h1 : v = 1
  · rw [if_pos h1]
    exact ⟨toSn_power _, ((toSn_keepsRegs _).nat _ _ _ (by decide) (by decide)).trans hset, fun _ => toSn_snMode _⟩
  · rw [if_neg h1]
    split
    · exact ⟨realignDue_power _, ((realignDue_keepsRegs [] _).nat _ _ _ (by simp) (by decide)).trans hset, fun h => absurd h h1⟩
    · exact ⟨rfl, hset, fun h => absurd h h1⟩

/-- TimeTestMode is not written in SHOW (R326). -/
theorem checkClosed_timeTestMode {d : Dev} {v : Val} (h : d.checkClosed (foundOf Reg.timeTestMode) v = Status.ok) : d.power.state ≠ .onShow := by
  intro hs
  have hb : badIf (true && d.power.state == .onShow) Status.state = Status.ok := firstBad_ok.1 h _ (.tail _ (.head _))
  rw [hs] at hb
  exact absurd hb (by decide)

/-- A requester's default priority is stored and taken into force (R401). -/
theorem arbPriorityWrite_spec (d : Dev) {q v : Nat} (hq : q < 10) (hv : v ≤ 7) :
    (d.arbPriorityWrite q v).2.power = d.power ∧ (d.arbPriorityWrite q v).2.nat Reg.arbPriorityDefault q = v ∧
      (d.arbPriorityWrite q v).2.nat Reg.arbPriority q = v ∧
      KeepsRegs [Reg.arbPriorityDefault.key q, Reg.arbPriority.key q, Reg.configEpoch.key] d (d.arbPriorityWrite q v).2 := by
  rw [arbPriorityWrite, if_neg (by omega), if_neg (by omega)]
  refine ⟨rfl, ?_, nat_setNat_same ((d.setNat Reg.arbPriorityDefault v q).keep Reg.arbPriorityDefault q) _ _ _ _, ?_⟩
  · refine (nat_setNat_ne ((d.setNat Reg.arbPriorityDefault v q).keep Reg.arbPriorityDefault q) Reg.arbPriority _ _ _ _ _ _ ?_).trans
      (nat_setNat_same d _ _ _ _)
    simp only [arbPriorityDefault_key, arbPriority_key]; omega
  · exact ((((KeepsRegs.refl _ d).setNat Reg.arbPriorityDefault v q 0 (by simp)).of_regs rfl).setNat Reg.arbPriority v q 0 (by simp)).of_regs rfl

/-- A mask is stored as the pending copy, and a port of 0 slots takes it at once (R360). -/
theorem tdmMaskWrite_spec (d : Dev) {p mask : Nat} (transmit : Bool) (hp : p < 4) (hm : mask < 2 ^ 32) :
    (d.tdmMaskWrite p transmit mask).power = d.power ∧
      (d.tdmMaskWrite p transmit mask).nat (if transmit then Reg.tdmTxMaskPending else Reg.tdmRxMaskPending) p = mask ∧
      (d.nat Reg.tdmSlots p = 0 → (d.tdmMaskWrite p transmit mask).nat (if transmit then Reg.tdmTxMaskActive else Reg.tdmRxMaskActive) p = mask) := by
  have hslots (r : Row) (h : Reg.tdmSlots.key p ≠ r.key p) : ((d.setNat r mask p).keep r p).nat Reg.tdmSlots p = d.nat Reg.tdmSlots p :=
    nat_setNat_ne d r _ _ _ _ _ _ h
  have hpend (r r' : Row) (h : r.key p ≠ r'.key p) : (((d.setNat r mask p).keep r p).setNat r' mask p).nat r p = mask :=
    (nat_setNat_ne _ _ _ _ _ _ _ _ h).trans (nat_setNat_same d r _ _ _)
  unfold tdmMaskWrite
  simp only [show ¬ 4 ≤ p by omega, if_false, Nat.mod_eq_of_lt hm]
  cases transmit <;> simp only [Bool.false_eq_true, if_false, if_true]
  all_goals
    rw [hslots _ (by simp [Row.key, entryKey, Reg.tdmSlots, Reg.tdmRxMaskPending, Reg.tdmTxMaskPending])]
    split
    · exact ⟨rfl, hpend _ _ (by simp [Row.key, entryKey, Reg.tdmRxMaskPending, Reg.tdmTxMaskPending, Reg.tdmRxMaskActive, Reg.tdmTxMaskActive]), fun _ => nat_setNat_same _ _ _ _ _⟩
    next h => exact ⟨rfl, nat_setNat_same d _ _ _ _, fun h0 => absurd (Or.inl h0) h⟩

end Dev

/-! ### Rows that give an entry a value -/

section
variable {s : State} {i : Instr} {r : Row} {n : Nat} {v : Val}

/-- A row that gives an entry a value it takes completes with the value's effect, ConfigEpoch and OK. -/
theorem value_completes {P : Dev → Prop} (hx : exec i s = s.run (Dev.whenUp fun d => d.valueCommand r n 0 v)) (ha : s.dev.answers = true)
    (hl : s.dev.Alone) (ht : s.dev.Takes r n v) (hp : (s.dev.applyEffect 0 (foundOf r n) v).power = s.dev.power)
    (h : P { (s.dev.applyEffect 0 (foundOf r n) v).bumpEpoch with lastStatus := Status.ok }) : Completes i s P :=
  up_completes hx ha (by rw [Dev.valueCommand_taken hl ht hp]; exact h)

/-- A row that gives an entry a value it does not take is refused. -/
theorem value_refused (hx : exec i s = s.run (Dev.whenUp fun d => d.valueCommand r n 0 v)) (ha : s.dev.answers = true)
    (hl : s.dev.Alone) (ht : ¬ s.dev.Takes r n v) : Completes i s s.dev.Refused :=
  up_completes hx ha (Dev.valueCommand_refused hl ht)

end

/-- The row of SLOT_TABLE_WRITE's table. -/
theorem slotTableWrite_exec {flow bank : Nat} {transmit : Bool} {table : Octets} {r : Row} (s : State) (hf : flow < 1024)
    (hr : (transmit, bank, r) ∈ [(false, 0, Reg.rxSlotsA), (false, 1, Reg.rxSlotsB), (true, 0, Reg.txSlotsA), (true, 1, Reg.txSlotsB)]) :
    exec (.slotTableWrite flow transmit bank table) s = s.run (Dev.whenUp fun d => d.valueCommand r flow 0 (.bytes table)) := by
  have hlt : ¬ 1024 ≤ flow := by omega
  simp only [List.mem_cons, Prod.mk.injEq, List.not_mem_nil, or_false] at hr
  show s.run (Dev.whenUp fun d => if 1024 ≤ flow ∨ 2 ≤ bank then _ else _) = _
  obtain ⟨rfl, rfl, rfl⟩ | ⟨rfl, rfl, rfl⟩ | ⟨rfl, rfl, rfl⟩ | ⟨rfl, rfl, rfl⟩ := hr <;> simp only [hlt, false_or, Nat.not_ofNat_le_one, nonpos_iff_eq_zero, OfNat.ofNat_ne_zero, if_false]

/-- Settles O9: each row gives its entry a value, which is refused or has the effect of the lemmas above. -/
theorem valueWrites : Obligations.ValueWrites := by
  intro s ha hl
  refine ⟨fun v hv ht => ?_, fun p high v hp ht => ?_, fun v hv ht => ?_, fun q v hq ht hv => ?_, fun p transmit mask hp hm ht => ?_,
    fun flow transmit bank table r hf hr ht => ?_, fun flow transmit bank table h => up_completes rfl ha (if_pos h),
    fun v ht => value_refused rfl ha hl ht, fun p high v ht => value_refused rfl ha hl ht, fun v ht => value_refused rfl ha hl ht,
    fun q v ht => value_refused rfl ha hl ht, fun p transmit mask ht => value_refused rfl ha hl ht,
    fun flow transmit bank table r hf hr ht => value_refused (slotTableWrite_exec s hf hr) ha hl ht⟩
  case refine_1 =>
    have he : s.dev.applyEffect 0 (foundOf Reg.showRequest) (.int v) = (s.dev.setNat Reg.showRequest v).keep Reg.showRequest := s.dev.showRequest_eq hv
    refine value_completes rfl ha hl ht (by rw [he]; rfl) ?_
    rw [he]
    refine ⟨rfl, (Dev.epoch_nat _ _ _ _ _ (by decide)).trans (Dev.nat_setNat_same _ _ _ _ _), Dev.keepsRegs_epoch ?_ (by simp) _⟩
    exact ((Dev.KeepsRegs.refl _ _).setNat _ _ _ _ (by simp)).of_regs rfl
  case refine_2 =>
    have he : s.dev.applyEffect 0 (foundOf (if high then Reg.sensorWarnHigh else Reg.sensorWarnLow) p) (.int v) =
        (s.dev.setInt (if high then Reg.sensorWarnHigh else Reg.sensorWarnLow) v p).keep (if high then Reg.sensorWarnHigh else Reg.sensorWarnLow) p := by
      obtain ⟨-, -, hc⟩ := ht
      cases high <;> exact Dev.sensorLimitWrite_eq (Dev.checkValue_system hc)
    refine value_completes rfl ha hl ht (by rw [he]; rfl) ?_
    rw [he]
    refine ⟨rfl, (Dev.epoch_int _ _ _ _ _ ?_).trans (Dev.int_setInt_same _ _ _ _ _), Dev.keepsRegs_epoch ?_ (by simp) _⟩
    · cases high <;> simp [sensorWarnHigh_key, sensorWarnLow_key, configEpoch_key] <;> omega
    · exact ((Dev.KeepsRegs.refl _ _).setInt _ _ _ _ (by simp)).of_regs rfl
  case refine_3 =>
    have he : s.dev.applyEffect 0 (foundOf Reg.timeTestMode) (.int v) = (s.dev.timeTestMode v).2 := rfl
    obtain ⟨-, -, hc⟩ := id ht
    obtain ⟨hpow, hval, hsn⟩ := s.dev.timeTestMode_spec hv (Dev.checkClosed_timeTestMode (Dev.checkValue_closed hc))
    refine value_completes rfl ha hl ht (by rw [he, hpow]) ?_
    rw [he]
    exact ⟨rfl, (Dev.epoch_nat _ _ _ _ _ (by decide)).trans hval, fun h1 => (congrArg Almanac.snMode (Dev.bump_alm _ _ _ _)).trans (hsn h1)⟩
  case refine_4 =>
    have he : s.dev.applyEffect 0 (foundOf Reg.arbPriorityDefault q) (.int v) = (s.dev.arbPriorityWrite q v).2 := rfl
    obtain ⟨hpow, hdefault, hforce, hkeeps⟩ := s.dev.arbPriorityWrite_spec hq hv
    refine value_completes rfl ha hl ht (by rw [he, hpow]) ?_
    rw [he]
    refine ⟨rfl, (Dev.epoch_nat _ _ _ _ _ ?_).trans hdefault, (Dev.epoch_nat _ _ _ _ _ ?_).trans hforce, Dev.keepsRegs_epoch hkeeps (by simp) _⟩
    · simp only [arbPriorityDefault_key, configEpoch_key]; omega
    · simp only [arbPriority_key, configEpoch_key]; omega
  case refine_5 =>
    have he : s.dev.applyEffect 0 (foundOf (if transmit then Reg.tdmTxMaskPending else Reg.tdmRxMaskPending) p) (.int mask) =
        s.dev.tdmMaskWrite p transmit mask := by cases transmit <;> rfl
    obtain ⟨hpow, hpend, hact⟩ := s.dev.tdmMaskWrite_spec transmit hp hm
    refine value_completes rfl ha hl ht (by rw [he, hpow]) ?_
    rw [he]
    refine ⟨rfl, (Dev.epoch_nat _ _ _ _ _ ?_).trans hpend, fun h0 => (Dev.epoch_nat _ _ _ _ _ ?_).trans (hact h0)⟩
    · cases transmit <;> simp [tdmTxMaskPending_key, tdmRxMaskPending_key, configEpoch_key] <;> omega
    · cases transmit <;> simp [tdmTxMaskActive_key, tdmRxMaskActive_key, configEpoch_key] <;> omega
  case refine_6 =>
    have hx := slotTableWrite_exec (table := table) s hf hr
    have he : s.dev.applyEffect 0 (foundOf r flow) (.bytes table) = s.dev.storeValue (foundOf r flow) (.bytes table) ∧ r.key flow ≠ Reg.configEpoch.key := by
      simp only [List.mem_cons, Prod.mk.injEq, List.not_mem_nil, or_false] at hr
      obtain ⟨-, -, rfl⟩ | ⟨-, -, rfl⟩ | ⟨-, -, rfl⟩ | ⟨-, -, rfl⟩ := hr <;>
        exact ⟨rfl, by simp [rxSlotsA_key, rxSlotsB_key, txSlotsA_key, txSlotsB_key, configEpoch_key]; omega⟩
    obtain ⟨he, hk⟩ := he
    refine value_completes hx ha hl ht (by rw [he, Dev.storeValue_power]) ?_
    rw [he]
    refine ⟨rfl, ?_, Dev.keepsRegs_epoch (Dev.storeValue_keepsRegs _ _ _ (by simp [foundOf])) (by simp) _⟩
    rw [Dev.bytes, Dev.epoch_val _ _ _ _ _ hk]
    exact congrArg Val.toBytes (Dev.storeValue_val (foundOf r flow) (.bytes table) s.dev)

end Sys2Proof.Machine
end

