-- ==== Sys2Proof/Proofs/ConfigWrites.lean ====
section
/-! Writes of the settings of ports, TDM ports, Drada links and stream maps: what restarts, and that the setting stands (R260, R365, R457, R68). -/

namespace Sys2Proof.Machine

namespace Dev

/-- `d'` has the power stage of `d` and its values of the entries with a key in `P`, but for what telling events counts. -/
structure Leaves (P : Nat → Prop) (d d' : Dev) : Prop where
  regs : ∀ k, P k → k ∉ tellKeys → nget? d'.regs k = nget? d.regs k
  power : d'.power = d.power

namespace Leaves

variable {P : Nat → Prop} {a b c : Dev}

theorem refl (d : Dev) : Leaves P d d := ⟨fun _ _ _ => rfl, rfl⟩

theorem trans (h : Leaves P a b) (h' : Leaves P b c) : Leaves P a c :=
  ⟨fun k hk ht => (h'.regs k hk ht).trans (h.regs k hk ht), h'.power.trans h.power⟩

theorem mono {Q : Nat → Prop} (h : Leaves P a b) (hq : ∀ k, Q k → P k) : Leaves Q a b := ⟨fun k hk => h.regs k (hq k hk), h.power⟩

theorem of_eq (h : Leaves P a b) (hr : c.regs = b.regs) (hp : c.power = b.power) : Leaves P a c :=
  ⟨fun k hk ht => by rw [hr]; exact h.regs k hk ht, hp.trans h.power⟩

theorem told (h : Leaves P a b) (ht : Told b c) : Leaves P a c :=
  ⟨fun k hk hn => (ht.regs k hn).trans (h.regs k hk hn), ht.power.trans h.power⟩

theorem setVal (h : Leaves P a b) (r : Row) (v : Val) (i j : Nat) (hk : ¬ P (r.key i j)) : Leaves P a (b.setVal r v i j) :=
  ⟨fun k h1 h2 => (nget?_nset_ne _ _ _ (show k ≠ r.key i j from fun e => hk (e ▸ h1))).trans (h.regs k h1 h2), h.power⟩

theorem setNat (h : Leaves P a b) (r : Row) (v i j : Nat) (hk : ¬ P (r.key i j)) : Leaves P a (b.setNat r v i j) := h.setVal r _ i j hk

theorem setInt (h : Leaves P a b) (r : Row) (v : Int) (i j : Nat) (hk : ¬ P (r.key i j)) : Leaves P a (b.setInt r v i j) := h.setVal r _ i j hk

theorem bump (h : Leaves P a b) (r : Row) (i n : Nat) (hk : ¬ P (r.key i)) : Leaves P a (b.bump r i n) := by
  have h' := h.setNat r ((b.nat r i + n) % 256 ^ r.ty.size) i 0 hk
  unfold Dev.bump
  split
  · exact h'.of_eq rfl rfl
  · exact h'

theorem foldl {α : Type} {f : Dev → α → Dev} {l : List α} (hf : ∀ d, ∀ x ∈ l, Leaves P d (f d x)) (h : Leaves P a b) : Leaves P a (l.foldl f b) := by
  induction l generalizing b with
  | nil => exact h
  | cons x t ih => exact ih (fun d y hy => hf d y (.tail _ hy)) (h.trans (hf b x (.head _)))

theorem val (h : Leaves P a b) (r : Row) (i j : Nat) (hk : P (r.key i j)) (ht : r.key i j ∉ tellKeys) : b.val r i j = a.val r i j := by
  simp [Dev.val, nget, h.regs _ hk ht]

theorem nat (h : Leaves P a b) (r : Row) (i j : Nat) (hk : P (r.key i j)) (ht : r.key i j ∉ tellKeys) : b.nat r i j = a.nat r i j := by
  rw [Dev.nat, Dev.int, h.val r i j hk ht]; rfl

end Leaves

/-! ### Ports (R259, R260) -/

/-- The keys of PortEnable, SpeedMode and FecMode. -/
def portSetting (k : Nat) : Prop := k / 256 < 0x3005 ∧ (k % 256 = 1 ∨ k % 256 = 4 ∨ k % 256 = 5)

theorem portCount_leaves (p sub : Nat) (d : Dev) (n : Nat) : Leaves portSetting d (d.portCount p sub n) := by
  have h := (Leaves.refl d).setNat (P := portSetting) Reg.portCounter (add32 (d.nat Reg.portCounter p (sub - 1)) n) p (sub - 1)
    (by simp only [portSetting, portCounter_key]; omega)
  unfold portCount
  dsimp only
  split
  · exact h.told (told_notice _ _ _)
  · exact h

theorem setPort_leaves {P : Nat → Prop} (p : Nat) (f : Port → Port) (d : Dev) : Leaves P d (d.setPort p f) := (Leaves.refl d).of_eq rfl rfl

theorem emit_leaves {P : Nat → Prop} (o : Out) (d : Dev) : Leaves P d (d.emit o) := (Leaves.refl d).of_eq rfl rfl

theorem releasePause_leaves (d : Dev) : Leaves portSetting d d.releasePause := by
  unfold releasePause
  split
  · exact (portCount_leaves 4 0x27 d _).trans (setPort_leaves _ _ _)
  · exact .refl d

theorem setTxRing_leaves (k : Nat) (r : TxRing) (d : Dev) : Leaves portSetting d (d.setTxRing k r) := by
  have h : Leaves portSetting d { d with txRings := d.txRings.modify k fun _ => r } := (Leaves.refl d).of_eq rfl rfl
  exact h.setNat Reg.txRingPending _ _ _ (by simp only [portSetting, txRingPending_key]; omega)

theorem txWriteBack_leaves (k status : Nat) (ds : List TxDesc) (d : Dev) : Leaves portSetting d (d.txWriteBack k status ds) := by
  unfold txWriteBack
  dsimp only
  split
  · exact (setTxRing_leaves _ _ d).bump Reg.txRingFrames _ _ (by simp only [portSetting, txRingFrames_key]; omega)
  · exact ((setTxRing_leaves _ _ d).bump Reg.txRingErrors _ _ (by simp only [portSetting, txRingErrors_key]; omega)).told (told_notice _ _ _)

theorem setMacsecState_leaves (p st : Nat) (d : Dev) : Leaves portSetting d (d.setMacsecState p st) := by
  unfold setMacsecState
  split
  · exact .refl d
  · exact ((Leaves.refl d).setNat Reg.macsecState _ _ _ (by simp only [portSetting, macsecState_key]; omega)).told (told_notice _ _ _)

/-- What is lost with a link changes none of the port settings. -/
theorem dropLink_leaves (p : Nat) (d : Dev) : Leaves portSetting d (d.dropLink p) := by
  unfold dropLink
  extract_lets q d1 d2 d3 d4
  have h1 : Leaves portSetting d d1 := by
    unfold d1
    split
    · exact releasePause_leaves d
    · exact .refl d
  have h2 : Leaves portSetting d1 d2 := by
    unfold d2
    split
    · exact (portCount_leaves p 0x29 d1 1).trans (txWriteBack_leaves _ _ _ _)
    · exact .refl d1
  have h3 : Leaves portSetting d2 d3 := (Leaves.refl d2).foldl fun e f _ => by
    split
    · exact (Leaves.refl e).bump Reg.txFlowDrops _ _ (by simp only [portSetting, txFlowDrops_key]; omega)
    · exact .refl e
  have h4 : Leaves portSetting d d4 := (h1.trans (h2.trans h3)).trans (setPort_leaves _ _ _)
  split
  · exact h4.trans (setMacsecState_leaves _ _ _)
  · exact h4

theorem setLink_leaves (p st : Nat) (d : Dev) : Leaves portSetting d (d.setLink p st) :=
  (((Leaves.refl d).setNat Reg.linkState _ _ _ (by simp only [portSetting, linkState_key]; omega)).setNat Reg.linkSpeed _ _ _
    (by simp only [portSetting, linkSpeed_key]; omega)).setNat Reg.fecInUse _ _ _ (by simp only [portSetting, fecInUse_key]; omega)

theorem noAgreement_leaves (p : Nat) (d : Dev) : Leaves portSetting d (d.noAgreement p) :=
  (((setLink_leaves p 3 d).trans (portCount_leaves p 0x30 _ 1)).told (told_notice _ _ _)).trans (setPort_leaves _ _ _)

theorem startCycle_leaves (p : Nat) (c : Option Nat) (d : Dev) : Leaves portSetting d (d.startCycle p c) := by
  unfold startCycle
  dsimp only
  split
  · exact (setLink_leaves p 1 d).trans (setPort_leaves _ _ _)
  · exact (setLink_leaves p 1 d).trans (setPort_leaves _ _ _)
  · exact noAgreement_leaves p d

theorem bringUp_leaves (p : Nat) (d : Dev) : Leaves portSetting d (d.bringUp p) := by
  unfold bringUp
  split
  · exact setLink_leaves p 0 d
  · split
    · exact ((setLink_leaves p 0 d).trans (setPort_leaves _ _ _)).trans (emit_leaves _ _)
    · dsimp only
      split
      · exact (emit_leaves _ _).trans (startCycle_leaves _ _ _)
      · exact ((emit_leaves _ _).trans (setLink_leaves p 0 _)).trans (setPort_leaves _ _ _)

theorem sfpDecide_leaves (p : Nat) (d : Dev) : Leaves portSetting d (d.sfpDecide p) := by
  have h := ((Leaves.refl (P := portSetting) d).setNat Reg.sfpState (d.sfpVerdict p) p 0 (by simp only [portSetting, sfpState_key]; omega)).told
    (told_notice 0x3004 (p * 65536 + d.sfpVerdict p) _)
  unfold sfpDecide
  dsimp only
  split
  · exact h.told (told_notice _ _ _)
  · exact h

/-! A port that restarts is not UP. -/

theorem setLink_down {p st : Nat} (hs : st ≠ 2) (d : Dev) : (d.setLink p st).portUp p = false := by
  have h : (d.setLink p st).nat Reg.linkState p = st := by
    unfold setLink
    rw [nat_setNat_ne, nat_setNat_ne, nat_setNat_same] <;> simp only [linkState_key, linkSpeed_key, fecInUse_key] <;> omega
  rw [portUp, h]
  exact beq_false_of_ne hs

@[simp] theorem setPort_portUp (p q : Nat) (f : Port → Port) (d : Dev) : (d.setPort q f).portUp p = d.portUp p := rfl
@[simp] theorem emit_portUp (p : Nat) (o : Out) (d : Dev) : (d.emit o).portUp p = d.portUp p := rfl

theorem linkState_untold {p : Nat} (hp : p < 5) : Reg.linkState.key p ∉ tellKeys := by
  simp only [linkState_key, tellKeys, List.mem_cons, List.not_mem_nil, or_false]; omega

theorem noAgreement_down {p : Nat} (hp : p < 5) (d : Dev) : (d.noAgreement p).portUp p = false := by
  have hcount : ((d.setLink p 3).portCount p 0x30).nat Reg.linkState p = (d.setLink p 3).nat Reg.linkState p := by
    have hset (v : Nat) : ((d.setLink p 3).setNat Reg.portCounter v p 0x2F).nat Reg.linkState p = (d.setLink p 3).nat Reg.linkState p :=
      nat_setNat_ne _ _ _ _ _ _ _ _ (by simp only [linkState_key, portCounter_key]; omega)
    unfold portCount
    dsimp only
    split
    · exact (notice_nat _ _ _ _ _ _ (linkState_untold hp)).trans (hset _)
    · exact hset _
  have h : (((d.setLink p 3).portCount p 0x30).notice 0x3003 p).portUp p = (d.setLink p 3).portUp p := by
    rw [portUp, portUp, notice_nat _ _ _ _ _ _ (linkState_untold hp), hcount]
  rw [noAgreement, setPort_portUp, h, setLink_down (by decide)]

theorem startCycle_down {p : Nat} (hp : p < 5) (c : Option Nat) (d : Dev) : (d.startCycle p c).portUp p = false := by
  unfold startCycle
  dsimp only
  split
  · rw [setPort_portUp, setLink_down (by decide)]
  · rw [setPort_portUp, setLink_down (by decide)]
  · exact noAgreement_down hp d

theorem bringUp_down {p : Nat} (hp : p < 5) (d : Dev) : (d.bringUp p).portUp p = false := by
  unfold bringUp
  split
  · exact setLink_down (by decide) d
  · split
    · rw [emit_portUp, setPort_portUp, setLink_down (by decide)]
    · dsimp only
      split
      · exact startCycle_down hp none _
      · rw [setPort_portUp, setLink_down (by decide)]

/-- A link that has gone DOWN leaves the port settings. -/
theorem linkChanged_leaves (p : Nat) (was : Bool) (d : Dev) (hd : d.portUp p = false) : Leaves portSetting d (d.linkChanged p was) := by
  unfold linkChanged
  split
  · exact .refl d
  · have hi : d.igmpRefresh p = d.setPort p fun q => { q with members := [], oldQueriers := (0, 0) } := by rw [igmpRefresh, hd]; rfl
    have hu (n : Nat) : ((d.igmpRefresh p).setNat Reg.ptpPortState n p).portUp p = false := by
      rw [hi, portUp, nat_setNat_ne _ _ _ _ _ _ _ _ (by simp only [linkState_key, ptpPortState_key]; omega)]
      exact hd
    have h := (setPort_leaves p (fun q => { q with members := [], oldQueriers := (0, 0) }) d).setNat (P := portSetting) Reg.ptpPortState 3 p 0
      (by simp only [portSetting, ptpPortState_key]; omega)
    rw [hd, if_neg (by decide)]
    unfold ptpPort
    dsimp only
    rw [hu, if_neg (fun h => absurd h.2.1 (by decide)), hi, setPort_portUp, hd, Bool.and_false, if_neg (by decide)]
    exact h

/-- A setting of a port that passes is stored, and the port starts anew with it (R260). -/
theorem portConfigWrite_spec {d : Dev} {r : Row} {p v : Nat} (hr : r ∈ [Reg.portEnable, Reg.speedMode, Reg.fecMode]) (hp : p < 5)
    (h : (d.portConfigWrite p r.sub v).1 = Status.ok) :
    Leaves portSetting (d.setNat r v p) (d.portConfigWrite p r.sub v).2 ∧ (d.portConfigWrite p r.sub v).2.portUp p = false := by
  have hrow : (if r.sub = 1 then Reg.portEnable else if r.sub = 4 then Reg.speedMode else Reg.fecMode) = r ∧ [1, 4, 5].contains r.sub = true := by
    simp only [List.mem_cons, List.not_mem_nil, or_false] at hr
    obtain rfl | rfl | rfl := hr <;> exact ⟨rfl, rfl⟩
  obtain ⟨hrow, hsub⟩ := hrow
  have hstore : Leaves portSetting (d.setNat r v p) ((d.setNat r v p).keep r p) := (Leaves.refl _).of_eq rfl rfl
  have hdrop := hstore.trans (dropLink_leaves p _)
  unfold portConfigWrite at h ⊢
  simp only [hrow, hsub, decide_eq_true hp, Bool.and_true, Bool.not_true, Bool.false_eq_true, if_false] at h ⊢
  generalize (if r.sub = 1 then 1 else if p = 4 then 0 else if r.sub = 4 then 2 else 3) = top at h ⊢
  by_cases ht : top < v
  · rw [if_pos ht] at h; exact absurd (show Status.range = Status.ok from h) (by decide)
  · rw [if_neg ht]
    refine ⟨?_, bringUp_down hp _⟩
    dsimp only
    split
    · exact (hdrop.trans (sfpDecide_leaves p _)).trans (bringUp_leaves p _)
    · exact hdrop.trans (bringUp_leaves p _)

/-- PortEnable, SpeedMode or FecMode as a write leaves it, in force at once (R260). -/
theorem portSetting_write {d : Dev} {r : Row} {p v : Nat} (hr : r ∈ [Reg.portEnable, Reg.speedMode, Reg.fecMode]) (hp : p < 5)
    (ht : d.Takes r p (.int v)) :
    (d.applyEffect 0 (foundOf r p) (.int v)).power = d.power ∧ (d.applyEffect 0 (foundOf r p) (.int v)).nat r p = v := by
  have he : d.applyEffect 0 (foundOf r p) (.int v) = (d.portConfigWrite p r.sub v).2.linkChanged p (d.portUp p) ∧
      d.checkPorts (foundOf r p) (.int v) = (d.portConfigWrite p r.sub v).1 ∧ portSetting (r.key p) ∧ r.key p ∉ tellKeys := by
    simp only [List.mem_cons, List.not_mem_nil, or_false] at hr
    obtain rfl | rfl | rfl := hr <;> refine ⟨rfl, rfl, ?_, ?_⟩ <;>
      simp only [portSetting, tellKeys, portEnable_key, speedMode_key, fecMode_key, List.mem_cons, List.not_mem_nil, or_false] <;> omega
  obtain ⟨he, hc, hk, hn⟩ := he
  obtain ⟨-, -, hv⟩ := ht
  obtain ⟨hw, hdown⟩ := portConfigWrite_spec hr hp (hc ▸ checkValue_ports hv)
  have h := hw.trans (linkChanged_leaves p (d.portUp p) _ hdown)
  rw [he]
  exact ⟨h.power, (h.nat r p 0 hk hn).trans (nat_setNat_same _ _ _ _ _)⟩

/-! ### Drada links (R457) -/

/-- The keys of DradaEnable, DradaRateMode, DradaFecMode and DradaMacsec. -/
def dradaSetting (k : Nat) : Prop := 0x8110 ≤ k / 256 ∧ k / 256 < 0x8113 ∧ 1 ≤ k % 256 ∧ k % 256 ≤ 4

theorem setDlink_leaves {P : Nat → Prop} (k : Nat) (f : DradaLink → DradaLink) (d : Dev) : Leaves P d (d.setDlink k f) := (Leaves.refl d).of_eq rfl rfl

theorem setDrada_leaves {P : Nat → Prop} (f : Drada → Drada) (d : Dev) : Leaves P d (d.setDrada f) := (Leaves.refl d).of_eq rfl rfl

theorem setAlm_leaves {P : Nat → Prop} (f : Almanac → Almanac) (d : Dev) : Leaves P d (d.setAlm f) := (Leaves.refl d).of_eq rfl rfl

theorem setPair_leaves {P : Nat → Prop} (f : Pair → Pair) (d : Dev) : Leaves P d (d.setPair f) := (Leaves.refl d).of_eq rfl rfl

theorem dradaNoAgree_leaves (k : Nat) (d : Dev) : Leaves dradaSetting d (d.dradaNoAgree k) :=
  (((((Leaves.refl d).setNat Reg.dradaLinkState _ _ _ (by simp only [dradaSetting, dradaLinkState_key]; omega)).bump Reg.dradaTrainingFailures _ _
    (by simp only [dradaSetting, dradaTrainingFailures_key]; omega)).told (told_notice _ _ _))).trans (setDlink_leaves _ _ _)

theorem dradaTrain_leaves (k : Nat) (c : Option Nat) (d : Dev) : Leaves dradaSetting d (d.dradaTrain k c) := by
  have h (st : Nat) (f : DradaLink → DradaLink) : Leaves dradaSetting d ((d.setNat Reg.dradaLinkState st k).setDlink k f) :=
    ((Leaves.refl d).setNat Reg.dradaLinkState _ _ _ (by simp only [dradaSetting, dradaLinkState_key]; omega)).trans (setDlink_leaves _ _ _)
  unfold dradaTrain
  split
  · exact h _ _
  · dsimp only
    split
    · exact h _ _
    · exact h _ _
    · exact dradaNoAgree_leaves k d

theorem recTrigger_leaves (bit : Nat) (d : Dev) : Leaves dradaSetting d (d.recTrigger bit) := by
  unfold recTrigger
  dsimp only
  split
  · exact .refl d
  · split
    · exact ((((Leaves.refl d).setNat Reg.recorderTriggerDate _ _ _ (by simp only [dradaSetting, recorderTriggerDate_key]; omega)).setNat
        Reg.recorderTriggerCause _ _ _ (by simp only [dradaSetting, recorderTriggerCause_key]; omega)).setNat Reg.recorderState _ _ _
        (by simp only [dradaSetting, recorderState_key]; omega)).told (told_notice _ _ _)
    · exact .refl d
    · exact (Leaves.refl d).bump Reg.recorderTriggersMissed _ _ (by simp only [dradaSetting, recorderTriggersMissed_key]; omega)

theorem switchSource_leaves (new : Nat) (d : Dev) : Leaves dradaSetting d (d.switchSource new) := by
  unfold switchSource
  dsimp only
  split
  · exact (Leaves.refl d).setNat Reg.dpllState _ _ _ (by simp only [dradaSetting, dpllState_key]; omega)
  · exact (((((Leaves.refl d).setNat Reg.selectedSource _ _ _ (by simp only [dradaSetting, selectedSource_key]; omega)).setNat Reg.dpllState _ _ _
      (by simp only [dradaSetting, dpllState_key]; omega)).bump Reg.sourceSwitches _ _ (by simp only [dradaSetting, sourceSwitches_key]; omega)).told
      (told_notice _ _ _)).trans (setAlm_leaves _ _)

theorem sourceLost_leaves (code : Nat) (d : Dev) : Leaves dradaSetting d (d.sourceLost code) := by
  unfold sourceLost
  extract_lets d1 v d2 d3
  have h1 : Leaves dradaSetting d d1 := setAlm_leaves _ _
  split
  · exact h1
  · have hv : Leaves dradaSetting d1 v.2 := (Leaves.refl d1).of_eq rfl rfl
    have h2 : Leaves dradaSetting d d2 := ((h1.trans hv).setInt Reg.rootOffset _ _ _ (by simp only [dradaSetting, rootOffset_key]; omega)).setNat
      Reg.dpllState _ _ _ (by simp only [dradaSetting, dpllState_key]; omega)
    have h3 : Leaves dradaSetting d d3 := (((h2.bump Reg.holdoverCount _ _ (by simp only [dradaSetting, holdoverCount_key]; omega)).told
      (told_notice _ _ _))).trans (recTrigger_leaves 4 _)
    split
    · exact h3.trans (switchSource_leaves _ _)
    · exact h3

theorem dpDown_leaves (d : Dev) : Leaves dradaSetting d d.dpDown := by
  have h := setPair_leaves (P := dradaSetting) (fun p => { p with partner := none, countersTold := [] }) d
  unfold dpDown
  split
  · exact .refl d
  · dsimp only
    split
    · unfold setPairState
      split
      · exact h
      · exact (h.setNat Reg.pairState _ _ _ (by simp only [dradaSetting, pairState_key]; omega)).told (told_notice _ _ _)
    · exact h

theorem sendCell_leaves (k : Nat) (type : CellType) (dest arg : Nat) (payload : Octets) (settled : Bool) (hops : Nat) (src : Option Nat) (d : Dev) :
    Leaves dradaSetting d (d.sendCell k type dest arg payload settled hops src) := by
  unfold sendCell
  split
  · exact .refl d
  · dsimp only
    split
    · exact (setDlink_leaves k _ d).bump Reg.dradaCreditStalls _ _ (by simp only [dradaSetting, dradaCreditStalls_key]; omega)
    · exact (Leaves.refl d).of_eq (launchCell_regs _ _ _ _ _) rfl

theorem markAbsent_leaves (d : Dev) : Leaves dradaSetting d d.markAbsent := by
  refine (Leaves.refl d).foldl fun e x _ => ?_
  dsimp only
  generalize (if e.nat Reg.groupTopology = 2 then _ else _ : Bool) = up
  cases up
  · exact (Leaves.refl e).setNat Reg.unitState _ _ _ (by simp only [dradaSetting, unitState_key]; omega)
  · exact .refl e

theorem ringBreak_leaves (place a b : Nat) (d : Dev) : Leaves dradaSetting d (d.ringBreak place a b) := by
  unfold ringBreak
  split
  · exact .refl d
  · exact ((((setDrada_leaves _ d).setNat Reg.groupState _ _ _ (by simp only [dradaSetting, groupState_key]; omega)).bump Reg.ringBreaks _ _
      (by simp only [dradaSetting, ringBreaks_key]; omega)).told (told_notice _ _ _)).trans (markAbsent_leaves _)

theorem groupLinkLost_leaves (k : Nat) (d : Dev) : Leaves dradaSetting d (d.groupLinkLost k) := by
  unfold groupLinkLost
  split
  · exact .refl d
  · split
    · dsimp only
      split
      · exact (setDrada_leaves _ d).trans (sendCell_leaves _ _ _ _ _ _ _ _ _)
      · exact sendCell_leaves _ _ _ _ _ _ _ _ _
    · split
      · dsimp only
        split
        · exact ringBreak_leaves _ _ _ _
        · exact ringBreak_leaves _ _ _ _
      · exact markAbsent_leaves d

theorem dradaDown_leaves (k : Nat) (counted : Bool) (d : Dev) : Leaves dradaSetting d (d.dradaDown k counted) := by
  unfold dradaDown
  split
  · exact .refl d
  · extract_lets d1 d2 d3 d4 d5 d6
    have h1 : Leaves dradaSetting d d1 := ((((Leaves.refl d).setNat Reg.dradaLinkState _ _ _ (by simp only [dradaSetting, dradaLinkState_key]; omega)).setNat
      Reg.dradaRate _ _ _ (by simp only [dradaSetting, dradaRate_key]; omega)).setNat Reg.dradaFec _ _ _ (by simp only [dradaSetting, dradaFec_key]; omega)).setNat
      Reg.dradaWakeAgreed _ _ _ (by simp only [dradaSetting, dradaWakeAgreed_key]; omega)
    have h2 : Leaves dradaSetting d d2 := h1.trans (setDlink_leaves _ _ _)
    have h3 : Leaves dradaSetting d d3 := by
      unfold d3
      split
      · exact (h2.bump Reg.dradaLinkDowns _ _ (by simp only [dradaSetting, dradaLinkDowns_key]; omega)).told (told_notice _ _ _)
      · exact h2
    have h4 : Leaves dradaSetting d d4 := by
      unfold d4
      split
      · exact (h3.trans (setAlm_leaves _ _)).trans (sourceLost_leaves _ _)
      · exact h3
    have h5 : Leaves dradaSetting d d5 := by
      unfold d5
      split
      · exact h4.trans (dpDown_leaves _)
      · exact h4
    exact (h5.trans (groupLinkLost_leaves k _)).trans (dradaTrain_leaves _ _ _)

/-- DradaEnable, DradaRateMode, DradaFecMode or DradaMacsec as a write leaves it; training starts anew (R457). -/
theorem dradaSetting_write {d : Dev} {r : Row} {k v : Nat} (hr : r ∈ [Reg.dradaEnable, Reg.dradaRateMode, Reg.dradaFecMode, Reg.dradaMacsec])
    (hk : k < 3) (ht : d.Takes r k (.int v)) :
    (d.applyEffect 0 (foundOf r k) (.int v)).power = d.power ∧ (d.applyEffect 0 (foundOf r k) (.int v)).nat r k = v := by
  have he : ∃ hi, d.applyEffect 0 (foundOf r k) (.int v) = (d.dradaConfig k r.sub v).2 ∧ d.checkPorts (foundOf r k) (.int v) = (d.dradaConfig k r.sub v).1 ∧
      dradaSetting (r.key k) ∧ r.key k ∉ tellKeys ∧ d.dradaConfig k r.sub v = if 3 ≤ k then (Status.noEntry, d) else if hi < v then (Status.range, d) else
        (Status.ok, if (((d.setNat r v k).keep r k).dradaDown k false).power.state.answers then (((d.setNat r v k).keep r k).dradaDown k false).dradaTrain k none
          else ((d.setNat r v k).keep r k).dradaDown k false) := by
    simp only [List.mem_cons, List.not_mem_nil, or_false] at hr
    obtain rfl | rfl | rfl | rfl := hr <;> refine ⟨_, rfl, rfl, ?_, ?_, rfl⟩ <;>
      simp only [dradaSetting, tellKeys, dradaEnable_key, dradaRateMode_key, dradaFecMode_key, dradaMacsec_key, List.mem_cons, List.not_mem_nil, or_false] <;>
      omega
  obtain ⟨hi, he, hc, hset, hn, hw⟩ := he
  obtain ⟨-, -, hv⟩ := ht
  have hok := hc ▸ checkValue_ports hv
  rw [hw, if_neg (by omega)] at hok
  have hle : ¬ hi < v := fun h => by rw [if_pos h] at hok; exact absurd (show Status.range = Status.ok from hok) (by decide)
  rw [he, hw, if_neg (by omega), if_neg hle]
  have hstore : Leaves dradaSetting (d.setNat r v k) ((d.setNat r v k).keep r k) := (Leaves.refl _).of_eq rfl rfl
  have h : Leaves dradaSetting (d.setNat r v k) (if (((d.setNat r v k).keep r k).dradaDown k false).power.state.answers then
      (((d.setNat r v k).keep r k).dradaDown k false).dradaTrain k none else ((d.setNat r v k).keep r k).dradaDown k false) := by
    split
    · exact (hstore.trans (dradaDown_leaves _ _ _)).trans (dradaTrain_leaves _ _ _)
    · exact hstore.trans (dradaDown_leaves _ _ _)
  exact ⟨h.power, (h.nat r k 0 hset hn).trans (nat_setNat_same _ _ _ _ _)⟩

/-! ### TDM ports (R353, R365) -/

/-- Sources that change without a swap fade nothing, and no entry counts them (R309). -/
theorem remap_leaves {P : Nat → Prop} (date : Nat) (cleared : Nat → Bool) (d : Dev) : Leaves P d (d.remap date (fun _ => false) cleared) := by
  unfold remap
  extract_lets new slots x e
  have he : Leaves P d e := (Leaves.refl d).foldl fun g y _ => by
    dsimp only
    split
    · exact .refl g
    · rw [if_neg (by decide)]
      exact (Leaves.refl g).of_eq rfl rfl
  exact he.of_eq rfl rfl

/-- The keys of the format and role entries and of TdmState. -/
def tdmSetting (k : Nat) : Prop := k / 256 < 0x9004 ∧ k % 256 ≤ 0x13

theorem tdmSetting_untold {k : Nat} (h : tdmSetting k) (h' : 0x9000 ≤ k / 256) : k ∉ tellKeys := by
  simp only [tdmSetting, tellKeys, List.mem_cons, List.not_mem_nil, or_false] at *; omega

theorem tdmShow_leaves (p : Nat) (tell : Bool) (d : Dev) : Leaves tdmSetting d (d.tdmShow p tell) := by
  unfold tdmShow
  extract_lets t slave s st ratio e
  have he : Leaves tdmSetting d e := ((Leaves.refl d).setNat Reg.tdmOutState _ _ _ (by simp only [tdmSetting, tdmOutState_key]; omega)).setNat
    Reg.tdmOutRatio _ _ _ (by simp only [tdmSetting, tdmOutRatio_key]; omega)
  split
  · exact he.told (told_notice _ _ _)
  · exact he

theorem setTdmState_spec {p : Nat} (st : Nat) (hp : p < 4) (d : Dev) :
    Leaves (· ≠ Reg.tdmState.key p) d (d.setTdmState p st) ∧ (d.setTdmState p st).nat Reg.tdmState p = st := by
  unfold setTdmState
  split
  next h => exact ⟨.refl d, h⟩
  next h =>
    refine ⟨((Leaves.refl d).setNat _ _ _ _ (fun h => h rfl)).told (told_notice _ _ _), ?_⟩
    rw [notice_nat _ _ _ _ _ _ (tdmSetting_untold (by simp only [tdmSetting, tdmState_key]; omega) (by simp only [tdmState_key]; omega)), nat_setNat_same]

/-- A port that restarts keeps its settings and waits for its clock, or is off with no slots (R356). -/
theorem tdmRestart_spec {p : Nat} (hp : p < 4) (d : Dev) :
    Leaves (fun k => tdmSetting k ∧ k ≠ Reg.tdmState.key p) d (d.tdmRestart p) ∧
      (d.tdmRestart p).nat Reg.tdmState p = if d.nat Reg.tdmSlots p = 0 then 0 else 1 := by
  unfold tdmRestart
  extract_lets _ d1
  have h1 : Leaves tdmSetting d (d1.setNat Reg.tdmFrameCount 0 p) :=
    ((Leaves.refl d).of_eq rfl rfl : Leaves tdmSetting d d1).setNat Reg.tdmFrameCount _ _ _ (by simp only [tdmSetting, tdmFrameCount_key]; omega)
  obtain ⟨h2, hstate⟩ := setTdmState_spec (p := p) (if d1.nat Reg.tdmSlots p = 0 then 0 else 1) hp (d1.setNat Reg.tdmFrameCount 0 p)
  have h3 := tdmShow_leaves p false ((d1.setNat Reg.tdmFrameCount 0 p).setTdmState p (if d1.nat Reg.tdmSlots p = 0 then 0 else 1))
  have hk : tdmSetting (Reg.tdmState.key p) := by simp only [tdmSetting, tdmState_key]; omega
  refine ⟨((h1.mono fun k hk => hk.1).trans (h2.mono fun k hk => hk.2)).trans (h3.mono fun k hk => hk.1), ?_⟩
  exact (h3.nat _ _ _ hk (tdmSetting_untold hk (by simp only [tdmState_key]; omega))).trans hstate

/-- A format or role entry as a write leaves it; the port starts anew (R365). -/
theorem tdmSetting_write {d : Dev} {r : Row} {p v : Nat} (hr : r ∈ tdmRows) (hp : p < 4) (ht : d.Takes r p (.int v)) :
    (d.applyEffect 0 (foundOf r p) (.int v)).power = d.power ∧ (d.applyEffect 0 (foundOf r p) (.int v)).nat r p = v ∧
      (d.applyEffect 0 (foundOf r p) (.int v)).nat Reg.tdmState p = if (d.applyEffect 0 (foundOf r p) (.int v)).nat Reg.tdmSlots p = 0 then 0 else 1 := by
  have he : d.applyEffect 0 (foundOf r p) (.int v) = (d.tdmConfigWrite p r.sub v).2 ∧ d.checkLocal (foundOf r p) (.int v) = (d.tdmConfigWrite p r.sub v).1 ∧
      (tdmSetting (r.key p) ∧ r.key p ≠ Reg.tdmState.key p) ∧ 0x9000 ≤ r.key p / 256 ∧ tdmRow r.sub = some r := by
    simp only [tdmRows, List.mem_cons, List.not_mem_nil, or_false] at hr
    obtain rfl | rfl | rfl | rfl | rfl | rfl | rfl | rfl | rfl | rfl := hr <;> refine ⟨rfl, rfl, ?_, ?_, rfl⟩ <;>
      simp only [tdmSetting, tdmState_key, tdmRole_key, tdmFormat_key, tdmRate_key, tdmSlots_key, tdmSlotBits_key, tdmWordBits_key, tdmFrameBits_key,
        tdmFsyncWidth_key, tdmDataDelay_key, tdmBclkInvert_key] <;> omega
  obtain ⟨he, hc, hset, hlow, hrow⟩ := he
  obtain ⟨-, -, hv⟩ := ht
  have hok := hc ▸ checkValue_local hv
  have hslots : tdmSetting (Reg.tdmSlots.key p) ∧ Reg.tdmSlots.key p ≠ Reg.tdmState.key p := by simp only [tdmSetting, tdmSlots_key, tdmState_key]; omega
  have hst : tdmSetting (Reg.tdmState.key p) := by simp only [tdmSetting, tdmState_key]; omega
  have hw : (d.tdmConfigWrite p r.sub v).2 = (((d.setNat r v p).keep r p).tdmRestart p).remap d.mscNow (fun _ => false) fun _ => false := by
    unfold tdmConfigWrite at hok ⊢
    simp only [hrow] at hok ⊢
    have refusals : Status.noEntry ≠ Status.ok ∧ Status.range ≠ Status.ok ∧ Status.conflict ≠ Status.ok := by decide
    grind
  rw [he, hw]
  obtain ⟨hleaves, hstate⟩ := tdmRestart_spec hp ((d.setNat r v p).keep r p)
  have hmap := remap_leaves (P := tdmSetting) d.mscNow (fun _ => false) (((d.setNat r v p).keep r p).tdmRestart p)
  have hall := hleaves.trans (hmap.mono fun k hk => hk.1)
  refine ⟨hall.power, (hall.nat r p 0 hset (tdmSetting_untold hset.1 hlow)).trans (nat_setNat_same d _ _ _ _), ?_⟩
  rw [hmap.nat _ _ _ hst (tdmSetting_untold hst (by simp only [tdmState_key]; omega)), hstate,
    hall.nat _ _ _ hslots (tdmSetting_untold hslots.1 (by simp only [tdmSlots_key]; omega))]

/-! ### Stream maps (R68, R524) -/

theorem refreshGaps_keepsRegs (d : Dev) : KeepsRegs [Reg.certifiedGaps.key, Reg.certifiedState.key] d d.refreshGaps := by
  unfold refreshGaps
  extract_lets on img op maps bits gaps was e
  have he : KeepsRegs [Reg.certifiedGaps.key, Reg.certifiedState.key] d e := ((KeepsRegs.refl _ d).setNat _ _ _ _ (by simp)).setNat _ _ _ _ (by simp)
  split
  · exact he
  · exact he.told (told_notice _ _ _)

@[simp] theorem refreshGaps_power (d : Dev) : d.refreshGaps.power = d.power := by
  unfold refreshGaps
  extract_lets on img op maps bits gaps was e
  split
  · rfl
  · exact notice_power _ _ _

/-- A map's settings are stored; the map may be unseeded, and the certified configuration's gaps are looked for anew. -/
theorem mapWrite_eq (f : Found) (v : Val) (d : Dev) : ∃ m, d.mapWrite f v = ({ d.storeValue f v with motion := m } : Dev).refreshGaps := by
  unfold mapWrite
  dsimp only
  split <;> exact ⟨_, rfl⟩

/-- MapEnable or MapUdpPort to MapObjectCount as a write leaves it (R68). -/
theorem mapSetting_write {d : Dev} {r : Row} {m : Nat} (v : Nat)
    (hr : r ∈ [Reg.mapEnable, Reg.mapUdpPort, Reg.mapSource, Reg.mapInterface, Reg.mapObjectBase, Reg.mapObjectCount]) (hm : m < 16) :
    (d.applyEffect 0 (foundOf r m) (.int v)).power = d.power ∧ (d.applyEffect 0 (foundOf r m) (.int v)).nat r m = v ∧
      KeepsRegs [r.key m, Reg.certifiedGaps.key, Reg.certifiedState.key] d (d.applyEffect 0 (foundOf r m) (.int v)) := by
  have he : d.applyEffect 0 (foundOf r m) (.int v) = d.mapWrite (foundOf r m) (.int v) ∧ r.key m ∉ tellKeys ∧ r.key m ∉ [Reg.certifiedGaps.key, Reg.certifiedState.key] := by
    simp only [List.mem_cons, List.not_mem_nil, or_false] at hr
    obtain rfl | rfl | rfl | rfl | rfl | rfl := hr <;> refine ⟨rfl, ?_, ?_⟩ <;>
      simp only [tellKeys, mapEnable_key, mapUdpPort_key, mapSource_key, mapInterface_key, mapObjectBase_key, mapObjectCount_key, certifiedGaps_key,
        certifiedState_key, List.mem_cons, List.not_mem_nil, or_false] <;> omega
  obtain ⟨he, hn, hk⟩ := he
  obtain ⟨g, hw⟩ := mapWrite_eq (foundOf r m) (.int v) d
  have hstore : KeepsRegs [r.key m, Reg.certifiedGaps.key, Reg.certifiedState.key] d (d.storeValue (foundOf r m) (.int v)) :=
    storeValue_keepsRegs _ _ _ (by simp [foundOf])
  have hval : (d.storeValue (foundOf r m) (.int v)).nat r m = v := by
    rw [nat, int, show (d.storeValue (foundOf r m) (.int v)).val r m = .int v from storeValue_val (foundOf r m) (.int v) d]; rfl
  have hgaps := refreshGaps_keepsRegs { d.storeValue (foundOf r m) (.int v) with motion := g }
  rw [he, hw]
  refine ⟨?_, (hgaps.nat _ _ _ hk hn).trans hval, fun k h1 h2 => (hgaps k (fun h => h1 (.tail _ h)) h2).trans (hstore k h1 h2)⟩
  rw [refreshGaps_power]
  exact storeValue_power _ _ _

/-! ### A family of entries by sub-index -/

theorem subCommand_mem {rows : List Row} {r : Row} (i : Nat) (v : Int) (d : Dev) (h : rows.find? (fun x => x.sub == r.sub) = some r) :
    d.subCommand rows i r.sub v = d.valueCommand r i 0 (.int v) := by rw [subCommand, h]

theorem subCommand_other {rows : List Row} {sub : Nat} (i : Nat) (v : Int) (d : Dev) (h : sub ∉ rows.map Row.sub) :
    d.subCommand rows i sub v = { d with lastStatus := Status.noSub } := by
  have hn : rows.find? (fun x => x.sub == sub) = none := by
    simp only [List.find?_eq_none, beq_iff_eq]
    exact fun x hx e => h (e ▸ List.mem_map_of_mem hx)
  rw [subCommand, hn]

end Dev

section
variable {s : State} {i : Instr} {rows : List Row} {n v : Nat}

/-- A write of a family's entry that the entry takes: the entry holds the value, and what follows from it stands but for ConfigEpoch. -/
theorem sub_completes {r : Row} {P : Dev → Prop} (hx : exec i s = s.run (Dev.whenUp fun d => d.subCommand rows n r.sub v)) (ha : s.dev.answers = true)
    (hl : s.dev.Alone) (hf : rows.find? (fun x => x.sub == r.sub) = some r) (ht : s.dev.Takes r n (.int v))
    (hp : (s.dev.applyEffect 0 (foundOf r n) (.int v)).power = s.dev.power)
    (h : P { (s.dev.applyEffect 0 (foundOf r n) (.int v)).bumpEpoch with lastStatus := Status.ok }) : Completes i s P :=
  up_completes hx ha (by rw [Dev.subCommand_mem n v s.dev hf, Dev.valueCommand_taken hl ht hp]; exact h)

theorem sub_refused {r : Row} (hx : exec i s = s.run (Dev.whenUp fun d => d.subCommand rows n r.sub v)) (ha : s.dev.answers = true)
    (hl : s.dev.Alone) (hf : rows.find? (fun x => x.sub == r.sub) = some r) (ht : ¬ s.dev.Takes r n (.int v)) : Completes i s s.dev.Refused :=
  up_completes hx ha (by rw [Dev.subCommand_mem n v s.dev hf]; exact Dev.valueCommand_refused hl ht)

theorem sub_other {sub : Nat} (hx : exec i s = s.run (Dev.whenUp fun d => d.subCommand rows n sub v)) (ha : s.dev.answers = true)
    (h : sub ∉ rows.map Row.sub) : Completes i s fun d => d = { s.dev with lastStatus := Status.noSub } :=
  up_completes hx ha (Dev.subCommand_other n v s.dev h)

end

/-- Settles O10: a family's row is found by its sub-index, and the value it takes restarts the port, the link or the map. -/
theorem configWrites : Obligations.ConfigWrites := by
  intro s ha hl
  refine ⟨fun r hr p v => ?_, fun r hr p v => ?_, fun r hr k v => ?_, fun r hr m v => ?_, fun p sub v h => sub_other rfl ha h,
    fun p sub v h => sub_other rfl ha h, fun k sub v h => sub_other rfl ha h, fun m sub v h => sub_other rfl ha h⟩
  case refine_1 =>
    have hf : [Reg.portEnable, Reg.speedMode, Reg.fecMode].find? (fun x => x.sub == r.sub) = some r ∧ r.key p ≠ Reg.configEpoch.key := by
      simp only [List.mem_cons, List.not_mem_nil, or_false] at hr
      obtain rfl | rfl | rfl := hr <;> refine ⟨rfl, ?_⟩ <;> simp only [portEnable_key, speedMode_key, fecMode_key, configEpoch_key] <;> omega
    refine ⟨fun hp ht => ?_, sub_refused rfl ha hl hf.1⟩
    obtain ⟨hpow, hval⟩ := Dev.portSetting_write hr hp ht
    exact sub_completes rfl ha hl hf.1 ht hpow ⟨rfl, (Dev.epoch_nat _ _ _ _ _ hf.2).trans hval⟩
  case refine_2 =>
    have hf : Dev.tdmRows.find? (fun x => x.sub == r.sub) = some r ∧ r.key p ≠ Reg.configEpoch.key := by
      simp only [Dev.tdmRows, List.mem_cons, List.not_mem_nil, or_false] at hr
      obtain rfl | rfl | rfl | rfl | rfl | rfl | rfl | rfl | rfl | rfl := hr <;> refine ⟨rfl, ?_⟩ <;>
        simp only [tdmRole_key, tdmFormat_key, tdmRate_key, tdmSlots_key, tdmSlotBits_key, tdmWordBits_key, tdmFrameBits_key, tdmFsyncWidth_key,
          tdmDataDelay_key, tdmBclkInvert_key, configEpoch_key] <;> omega
    refine ⟨fun hp ht => ?_, sub_refused rfl ha hl hf.1⟩
    obtain ⟨hpow, hval, hstate⟩ := Dev.tdmSetting_write hr hp ht
    refine sub_completes rfl ha hl hf.1 ht hpow ⟨rfl, (Dev.epoch_nat _ _ _ _ _ hf.2).trans hval, ?_⟩
    rw [Dev.epoch_nat _ _ _ _ _ (by simp only [tdmState_key, configEpoch_key]; omega), Dev.epoch_nat _ _ _ _ _ (by simp only [tdmSlots_key, configEpoch_key]; omega)]
    exact hstate
  case refine_3 =>
    have hf : [Reg.dradaEnable, Reg.dradaRateMode, Reg.dradaFecMode, Reg.dradaMacsec].find? (fun x => x.sub == r.sub) = some r ∧
        r.key k ≠ Reg.configEpoch.key := by
      simp only [List.mem_cons, List.not_mem_nil, or_false] at hr
      obtain rfl | rfl | rfl | rfl := hr <;> refine ⟨rfl, ?_⟩ <;>
        simp only [dradaEnable_key, dradaRateMode_key, dradaFecMode_key, dradaMacsec_key, configEpoch_key] <;> omega
    refine ⟨fun hk ht => ?_, sub_refused rfl ha hl hf.1⟩
    obtain ⟨hpow, hval⟩ := Dev.dradaSetting_write hr hk ht
    exact sub_completes rfl ha hl hf.1 ht hpow ⟨rfl, (Dev.epoch_nat _ _ _ _ _ hf.2).trans hval⟩
  case refine_4 =>
    have hf : [Reg.mapEnable, Reg.mapUdpPort, Reg.mapSource, Reg.mapInterface, Reg.mapObjectBase, Reg.mapObjectCount].find? (fun x => x.sub == r.sub) =
        some r ∧ (m < 16 → r.key m ≠ Reg.configEpoch.key) := by
      simp only [List.mem_cons, List.not_mem_nil, or_false] at hr
      obtain rfl | rfl | rfl | rfl | rfl | rfl := hr <;> refine ⟨rfl, ?_⟩ <;>
        simp only [mapEnable_key, mapUdpPort_key, mapSource_key, mapInterface_key, mapObjectBase_key, mapObjectCount_key, configEpoch_key] <;> omega
    refine ⟨fun hm ht => ?_, sub_refused rfl ha hl hf.1⟩
    obtain ⟨hpow, hval, hkeeps⟩ := Dev.mapSetting_write (d := s.dev) v hr hm
    have hk := hf.2 hm
    have hsub : ∀ k ∈ [r.key m, Reg.certifiedGaps.key, Reg.certifiedState.key],
        k ∈ [r.key m, Reg.configEpoch.key, Reg.certifiedGaps.key, Reg.certifiedState.key] := by simp
    exact sub_completes rfl ha hl hf.1 ht hpow ⟨rfl, (Dev.epoch_nat _ _ _ _ _ hk).trans hval, Dev.keepsRegs_epoch (hkeeps.mono hsub) (by simp) _⟩

end Sys2Proof.Machine
end

