-- ==== Sys2Proof/Proofs/MotionInput.lean ====
section
/-! A stream map whose silence ended before the tick in progress did, while nothing but time ran on. -/

namespace Sys2Proof.Machine

namespace Dev

/-- A moment already past is due, whatever the tick in progress reaches. -/
theorem onDue_past (due : Nat) (f : Dev → Dev) (d : Dev) (h : due ≤ d.clock) : d.onDue due f = f (d.advanceTo due) := by
  have later : d.clock ≤ (d.advanceTo due).clock := by
    rw [advanceTo, advance_clock]
    exact Nat.le_add_right _ _
  exact if_neg (Nat.not_lt.2 (Nat.le_trans h later))

/-- A map whose second of silence is already over is unseeded at once (R68). -/
theorem mapSilence_past (m : Nat) (d : Dev) (hs : (d.fifo m).seeded = true) (h : (d.fifo m).acceptedAt + secCycles 1 ≤ d.clock) :
    (d.mapSilence m).motion = d.motion.modify m fun g => { g with seeded := false, staleRun := 0 } := by
  rw [mapSilence, if_pos hs, onDue_past _ _ _ h, unseed, setFifo_motion, advanceTo_motion]

end Dev

/-- An aligned QUIET lone module, map 0 seeded at cycle 0, after as many idle steps as one second has cycles and no SAMPLE_TICK. -/
def silentMap : State :=
  { State.reset with dev := { Dev.reset with
      power := { resetPower with state := .quiet, held := false }, clock := Dev.secCycles 1
      alm := { Dev.reset.alm with aligned := true, snMode := false }, motion := .fill 16 { resetFifo with seeded := true } } }

/-- The second of silence ends after the tick in progress, which began at cycle 0. -/
theorem silentMap_beyond_tick : ¬ silentMap.dev.Reaches ((silentMap.dev.fifo 0).acceptedAt + Dev.secCycles 1) := fun h =>
  absurd (h rfl) (by decide)

/-- Refutes O42: `Reaches` compares a moment with the end of the tick in progress, and idle steps may take the clock past both. The
second of silence of map 0 of `silentMap` lies beyond that end and is over all the same, so MAP_SILENCE_TIMEOUT unseeds the map. -/
theorem not_motionInput : ¬ Obligations.MotionInput := by
  intro h
  have ha : silentMap.dev.answers = true := by decide
  obtain ⟨-, -, -, -, hearly, -⟩ := h silentMap ha
  obtain ⟨hkept, -⟩ := (hearly 0 (.inr silentMap_beyond_tick)).of_up rfl ha
  rw [Dev.mapSilence_past 0 _ rfl (by decide)] at hkept
  have hseeded : ((silentMap.dev.motion.modify 0 fun g => { g with seeded := false, staleRun := 0 }).get resetFifo 0).seeded = true := by
    rw [hkept]
    rfl
  exact absurd hseeded (by decide)

end Sys2Proof.Machine
end

