-- ==== Sys2Proof/Proofs/RequestCases.lean ====
section
/-! Requests that a session may make and that the statements do not set apart: an UNSUBSCRIBE of what another unit reports, and a segment
of a transfer that a bus error discarded. -/

namespace Sys2Proof.Machine

/-- What a command has completed with holds of the module that `exec` leaves. -/
theorem Completes.of_next {i : Instr} {s t : State} {P : Dev → Prop} (h : Completes i s P) (ht : exec i s = .next t) : P t.dev := by
  obtain ⟨t', ht', -, -, hp⟩ := h
  cases ht.symm.trans ht'
  exact hp

/-- An open DTLS session of an observer, with no request behind it. -/
def observerSession : Session :=
  { handle := 1, role := .observer, can := false, srcIp := 0x0A000001, cert := [], commissioning := false, lastFrameAt := 0, cache := [],
    selects := [], cmdLast := [], queue := [], lost := 0, sentAt := [] }

/-- A QUIET module without a pair that serves that session. -/
def observed : Dev :=
  { Dev.reset with power := { resetPower with state := .quiet, held := false }, sessions := [observerSession] }

/-! ### A subscription that stands for one of another unit (R54, R477) -/

/-- A subscription of the session that stands for subscription 7 of unit 2. -/
def farSubscription : Subscription :=
  { id := 1, session := 1, unit := 0, index := 0x7000, sub := 4, period := 0, nextBlock := 0, last := [], remote := 2 * 65536 + 7 }

/-- The head of a formed group with that subscription. -/
def farSubscribed : State :=
  { State.reset with dev := { observed with drada := { observed.drada with formed := true }, subs := [farSubscription] } }

/-- The UNSUBSCRIBE is passed on to unit 2, and the subscription stays until that unit answers. -/
theorem farSubscribed_keeps : (farSubscribed.dev.request farSubscribed.mem 0x21 (farSubscribed.dev.ask 1 5 0x21 (toBE 2 1))).subs = [farSubscription] := by
  decide +kernel

/-- Refutes O50: a module without a pair may head a group, and a subscription of the session's own may stand for one of another unit
(R54). In `farSubscribed` an UNSUBSCRIBE of it is asked of unit 2 and removes nothing yet. -/
theorem not_entryRequests : ¬ Obligations.EntryRequests := by
  intro h
  have alone : farSubscribed.dev.Alone := by unfold Dev.Alone; decide
  have asks : farSubscribed.dev.Asks 1 5 .observer := ⟨by decide, by decide, by decide, observerSession, rfl, rfl, rfl, fun _ hc => nomatch hc⟩
  obtain ⟨-, -, -, -, -, hunsubscribe, -⟩ := h farSubscribed 1 5 .observer (by decide) alone asks 0 0 (by decide) (by decide)
  obtain ⟨hsubs, -⟩ := (hunsubscribe farSubscription (List.mem_singleton_self _) rfl (by decide)).of_next rfl
  exact absurd (farSubscribed_keeps.symm.trans hsubs) (by decide)

/-! ### A transfer that a bus error discarded (R489) -/

/-- A write of one octet that a bus error discarded; it waits for its BLOCK_END. -/
def failedWrite : Transfer :=
  { id := 9, session := 1, unit := 0, index := 0x9000, sub := 0x10, fromDevice := false, size := 1, crc := 0, data := [], next := 0,
    lastSegment := [], lastAt := 0, failed := true, select := 0, remote := 0 }

/-- The module with that transfer. -/
def writeFailed : State := { State.reset with dev := { observed with transfers := [failedWrite] } }

/-- The segment that the transfer would take next is answered BLOCK_NONE. -/
theorem writeFailed_refuses :
    (writeFailed.dev.request writeFailed.mem 0x11 (writeFailed.dev.ask 1 5 0x11 (toBE 2 9 ++ toBE 4 0 ++ [octet 7]))).lastStatus = Status.blockNone := by
  decide +kernel

/-- Refutes O51: a transfer that a bus error discarded stays listed, of its session and not timed out, until its BLOCK_END (R489). In
`writeFailed` the expected segment of such a one is refused. -/
theorem not_blockTransfers : ¬ Obligations.BlockTransfers := by
  intro h
  have alone : writeFailed.dev.Alone := by unfold Dev.Alone; decide
  have asks : writeFailed.dev.Asks 1 5 .observer := ⟨by decide, by decide, by decide, observerSession, rfl, rfl, rfl, fun _ hc => nomatch hc⟩
  obtain ⟨-, hopen⟩ := h writeFailed 1 5 .observer (by decide) alone asks
  obtain ⟨hdata, -⟩ := hopen 9 failedWrite (by decide) rfl rfl (by decide) (by decide)
  obtain ⟨⟨-, hstatus⟩, -⟩ := (hdata [octet 7] rfl (by decide) rfl).of_next rfl
  exact absurd (writeFailed_refuses.symm.trans hstatus) (by decide)

end Sys2Proof.Machine
end

