-- ==== Sys2Proof/Proofs/SessionEvents.lean ====
section
/-! Sessions, their subscriptions and notices, and the CAN FD keepalive: what each event does (R49 to R61, R506 to R509). -/

namespace Sys2Proof.Machine

/-! ### Handshakes (R506 to R509) -/

/-- A handshake of this source that is looked at: to Knasiug, with its cookie, from no blocked source, without a fault, with the cipher suite
offered, and not one of commissioning. -/
def Dev.Heard (d : Dev) (x : Handshake) : Prop :=
  d.servedOn x.port x.vlan = true ∧ x.udpPort = 48240 ∧ x.cookie = true ∧ nget? d.blocked x.source = none ∧ x.fault = false ∧ x.offers = true ∧
  d.commissions x = false

namespace Dev

/-- Such a handshake is judged by its chain alone. -/
theorem handshake_heard {d : Dev} {x : Handshake} (h : d.Heard x) : d.handshake x = match d.chainFault x with
    | some r => d.refuseHandshake x r
    | none => match d.chainRole x with
      | some r => if d.certified && r == .vendor then d.refuseHandshake x 4 else d.openSession x r false
      | none => d.refuseHandshake x 4 := by
  obtain ⟨hserved, hport, hcookie, hblocked, hfault, hoffers, hcommissions⟩ := h
  unfold handshake
  rw [hserved, hport, hcookie, hblocked, hfault, hoffers, hcommissions]
  rfl

@[simp] theorem bump_sessions (d : Dev) (r : Row) (i n : Nat) : (d.bump r i n).sessions = d.sessions := by unfold bump; split <;> rfl

/-- A refused handshake as it is counted and told, before its source is judged (R509). -/
def countRefusal (reason : Nat) (d : Dev) : Dev := (d.bump Reg.authFailures).notice 0x2301 (reason * 2 ^ 24)

theorem countRefusal_counts (reason : Nat) (d : Dev) :
    (d.countRefusal reason).nat Reg.authFailures = (d.nat Reg.authFailures + 1) % 2 ^ 32 ∧ d.KeepsRegs [Reg.authFailures.key] (d.countRefusal reason) ∧
    (d.countRefusal reason).sessions.map Session.still = d.sessions.map Session.still := by
  have told := told_notice 0x2301 (reason * 2 ^ 24) (d.bump Reg.authFailures)
  exact ⟨(told.nat _ _ _ (by decide)).trans (nat_bump_same _ _ _ _),
    ((KeepsRegs.refl _ d).bump Reg.authFailures 0 1 (List.mem_singleton_self _)).told told, told.sessions.trans (by rw [bump_sessions])⟩

/-- A refusal counts, and of the sessions it changes the notice queues at most (R509). -/
theorem refuseHandshake_counts (x : Handshake) (reason : Nat) (d : Dev) :
    (d.refuseHandshake x reason).nat Reg.authFailures = (d.nat Reg.authFailures + 1) % 2 ^ 32 ∧
    d.KeepsRegs [Reg.authFailures.key] (d.refuseHandshake x reason) ∧
    (d.refuseHandshake x reason).sessions.map Session.still = d.sessions.map Session.still := by
  have key : Reg.authFailures.key ∉ tellKeys := by decide
  unfold refuseHandshake
  extract_lets e times
  obtain ⟨counted, keeps, sessions⟩ : e.nat Reg.authFailures = (d.nat Reg.authFailures + 1) % 2 ^ 32 ∧ d.KeepsRegs [Reg.authFailures.key] e ∧
      e.sessions.map Session.still = d.sessions.map Session.still := countRefusal_counts reason d
  clear_value e times
  split
  · have told := told_notice 0x2306 x.source { e with refusals := nerase e.refusals x.source, blocked := nput e.blocked x.source (e.clock + secCycles 60) }
    have block : d.KeepsRegs [Reg.authFailures.key] { e with refusals := nerase e.refusals x.source, blocked := nput e.blocked x.source (e.clock + secCycles 60) } :=
      keeps.of_regs rfl
    exact ⟨(told.nat _ _ _ key).trans counted, block.told told, told.sessions.trans sessions⟩
  · exact ⟨counted, keeps.of_regs rfl, sessions⟩

/-- The session that a handshake opens in a place (R49, R508). -/
def opened (d : Dev) (x : Handshake) (role : Role) (i : Nat) : Session :=
  { handle := i + 1, role, can := false, srcIp := x.source, cert := leafPrint x, commissioning := false, lastFrameAt := d.clock, cache := [],
    selects := [], cmdLast := [], queue := [], lost := 0, sentAt := [] }

/-- The lowest free place is the first number that no session has. -/
theorem lowestFree {d : Dev} {i : Nat} (hi : i < 8) (free : ∀ y ∈ d.sessions, y.handle ≠ i + 1) (lower : ∀ j, j < i → ∃ y ∈ d.sessions, y.handle = j + 1) :
    (List.range 8).find? (fun i => !(d.sessions.any fun s => s.handle == i + 1)) = some i := by
  rw [List.find?_range_eq_some]
  refine ⟨by simpa using free, List.mem_range.2 hi, fun j hj => ?_⟩
  obtain ⟨y, hy, e⟩ := lower j hj
  simpa using ⟨y, hy, e⟩

theorem openSession_opens {d : Dev} {x : Handshake} {role : Role} {i : Nat} (hi : i < 8) (free : ∀ y ∈ d.sessions, y.handle ≠ i + 1)
    (lower : ∀ j, j < i → ∃ y ∈ d.sessions, y.handle = j + 1) :
    (d.openSession x role false).sessions.map Session.still = d.sessions.map Session.still ++ [(d.opened x role i).still] ∧
    d.KeepsRegs [] (d.openSession x role false) := by
  have told := told_notice 0x1002 role.rank { d with sessions := d.sessions ++ [d.opened x role i], serving := some (i + 1) }
  have opens : d.openSession x role false =
      { ({ d with sessions := d.sessions ++ [d.opened x role i], serving := some (i + 1) } : Dev).notice 0x1002 role.rank with serving := none } := by
    unfold openSession
    rw [lowestFree hi free lower]
    simp only [Bool.false_eq_true, if_false, opened]
  have before : KeepsRegs [] d { d with sessions := d.sessions ++ [d.opened x role i], serving := some (i + 1) } := (KeepsRegs.refl [] d).of_regs rfl
  rw [opens]
  refine ⟨told.sessions.trans ?_, (before.told told).of_regs rfl⟩
  rw [List.map_append]
  rfl

/-! ### The end of a session (R49) -/

/-- A module without a partner, or one that does not lead its pair, has no standby to tell. -/
theorem tellStandby_none (m : CalMsg) (d : Dev) (h : d.lone = true ∨ d.isLead = false) : d.tellStandby m = d := by
  unfold tellStandby
  exact if_pos (by rcases h with h | h <;> simp [h])

theorem tellStandby_foldl (l : List CalEntry) (d : Dev) (h : d.lone = true ∨ d.isLead = false) :
    l.foldl (fun (d : Dev) e => d.tellStandby (.cancel e.slot)) d = d := by
  induction l with
  | nil => rfl
  | cons e l ih => rw [List.foldl_cons, tellStandby_none _ d h, ih]

/-- Outside a group, with no standby to tell, a session's end is that of what it held. -/
theorem closeSession_drops {d : Dev} {h : Nat} (h0 : 0 < h) (h8 : h ≤ 8) (here : ∃ x ∈ d.sessions, x.handle = h)
    (hf : d.drada.formed = false) (hl : d.lone = true ∨ d.isLead = false) : d.closeSession h = d.dropSessions [h] := by
  have known : ¬ (h = 0 ∨ 8 < h ∨ (!(d.sessions.any fun s => s.handle == h)) = true) := by
    rintro (rfl | far | gone)
    · exact absurd h0 (Nat.lt_irrefl 0)
    · exact absurd far (Nat.not_lt.2 h8)
    · exact absurd gone (by simpa using here)
  unfold closeSession
  rw [if_neg known]
  dsimp only
  rw [tellStandby_foldl _ (d.dropSessions [h]) hl, show (d.dropSessions [h]).drada = d.drada from rfl, hf]
  rfl

theorem dropSessions_sessions (h : Nat) (d : Dev) : (d.dropSessions [h]).sessions = d.sessions.filter (fun x => x.handle ≠ h) := by
  simp [dropSessions]

theorem dropSessions_subs (h : Nat) (d : Dev) : (d.dropSessions [h]).subs = d.subs.filter (fun x => x.session ≠ h) := by
  simp [dropSessions]

theorem dropSessions_transfers (h : Nat) (d : Dev) : (d.dropSessions [h]).transfers = d.transfers.filter (fun x => x.session ≠ h) := by
  simp [dropSessions]

/-! ### Sessions that have fallen silent, and blocks that end (R49, R509) -/

/-- A periodic event that is due acts at its date, from which its period counts anew; the module has changed in its time alone. -/
theorem onPeriod_due (k period : Nat) (f : Dev → Dev) (d : Dev) (h : d.Reaches (d.timerFrom k + period)) : ∃ t, d.onPeriod k period f = f t ∧
    t.sessions = d.sessions ∧ t.regs = d.regs ∧ t.power = d.power ∧ t.drada = d.drada := by
  unfold onPeriod
  dsimp only
  rw [onDue_eq _ _ _ h]
  exact ⟨_, rfl, advanceTo_sessions _ _, advanceTo_regs _ _, advanceTo_power _ _, advanceTo_drada _ _⟩

/-- An idle session told of and closed (R49). -/
def closeIdle (d : Dev) (s : Session) : Dev :=
  ({ ({ d with serving := some s.handle } : Dev).notice 0x1003 s.role.rank with serving := none }).closeSession s.handle

/-- The only session, closed on a module outside a group with no standby: none is left. -/
theorem closeIdle_single {d : Dev} {x : Session} (hs : d.sessions = [x]) (h0 : 0 < x.handle) (h8 : x.handle ≤ 8) (hf : d.drada.formed = false)
    (hl : d.lone = true ∨ d.isLead = false) : (d.closeIdle x).sessions = [] ∧ KeepsRegs [] d (d.closeIdle x) ∧ (d.closeIdle x).clock = d.clock := by
  have told := told_notice 0x1003 x.role.rank { d with serving := some x.handle }
  unfold closeIdle
  generalize ({ d with serving := some x.handle } : Dev).notice 0x1003 x.role.rank = e at told
  have one : e.sessions.map Session.still = [x.still] := by
    rw [told.sessions]
    exact congrArg (List.map Session.still) hs
  obtain ⟨y, hy, hstill⟩ : ∃ y, e.sessions = [y] ∧ y.still = x.still := by simpa [List.map_eq_singleton_iff] using one
  have handle : y.still.handle = x.still.handle := congrArg Session.handle hstill
  have handle : y.handle = x.handle := handle
  have before : KeepsRegs [] d { d with serving := some x.handle } := (KeepsRegs.refl [] d).of_regs rfl
  have lead : e.lone = true ∨ e.isLead = false := by
    have state : e.nat Reg.pairState = d.nat Reg.pairState := told.nat _ _ _ (by decide)
    rw [lone, told.power, isLead, state]
    exact hl
  have closed : ({ e with serving := none } : Dev).closeSession x.handle = ({ e with serving := none } : Dev).dropSessions [x.handle] :=
    closeSession_drops h0 h8 ⟨y, by simp [hy], handle⟩ (by rw [← hf]; exact congrArg Drada.formed told.drada) lead
  rw [closed]
  refine ⟨?_, (before.told told).of_regs rfl, told.clock⟩
  rw [dropSessions_sessions]
  simp [hy, handle]

/-- The sessions that have been silent for longer than SessionTimeout (R49). -/
def idleSessions (d : Dev) : List Session :=
  d.sessions.filter fun s => s.handle ≤ 8 && decide (s.lastFrameAt + secCycles (d.nat Reg.sessionTimeout) < d.clock)

/-- Where one session is open, the check of a module outside a group with no standby closes it or keeps it. -/
theorem sessionCheck_single {d : Dev} {x : Session} (hs : d.sessions = [x]) (h0 : 0 < x.handle) (h8 : x.handle ≤ 8) (hf : d.drada.formed = false)
    (hl : d.lone = true ∨ d.isLead = false) (hr : d.Reaches (d.timerFrom 210 + msCycles 100)) :
    d.KeepsRegs [] d.sessionCheck ∧ d.sessionCheck.sessions =
      if x.lastFrameAt + secCycles (d.nat Reg.sessionTimeout) < d.sessionCheck.clock then [] else [x] := by
  obtain ⟨t, ht, sessions, regs, power, drada⟩ := onPeriod_due 210 (msCycles 100) (fun e => e.idleSessions.foldl closeIdle e) d hr
  have check : d.sessionCheck = t.idleSessions.foldl closeIdle t := ht
  have now : KeepsRegs [] d t := (KeepsRegs.refl [] d).of_regs regs
  have lead : t.lone = true ∨ t.isLead = false := by
    rw [lone, power, isLead, nat_congr regs]
    exact hl
  rw [check, ← nat_congr regs]
  by_cases silent : x.lastFrameAt + secCycles (t.nat Reg.sessionTimeout) < t.clock
  · have idle : t.idleSessions = [x] := by simp [idleSessions, sessions, hs, h8, silent]
    obtain ⟨none_left, keeps, clock⟩ := closeIdle_single (sessions.trans hs) h0 h8 (by rw [drada]; exact hf) lead
    rw [idle]
    exact ⟨now.trans keeps, by rw [List.foldl_cons, List.foldl_nil, clock, if_pos silent]; exact none_left⟩
  · have idle : t.idleSessions = [] := by simpa [idleSessions, sessions, hs] using fun _ => Nat.not_lt.1 silent
    rw [idle]
    exact ⟨now, by rw [List.foldl_nil, if_neg silent, sessions, hs]⟩

/-- A block that has reached its end is no longer listed (R509). -/
theorem sourceExpiry_due {d : Dev} {source t : Nat} (hb : nget? d.blocked source = some t) (hr : d.Reaches t) :
    d.sourceExpiry source = { d.advanceTo t with blocked := nerase d.blocked source } := by
  unfold sourceExpiry
  rw [hb]
  dsimp only
  rw [if_neg (by rw [advanceTo_clock t d hr]; exact Nat.not_lt.2 (Nat.le_max_right _ _)), advanceTo_blocked]

/-! ### Subscriptions (R60) -/

theorem subscriptionReport_early {d : Dev} {x : Subscription} {w : Ty × Octets} (hx : d.subs.find? (fun y => y.id = x.id) = some x)
    (hw : d.subWire x = some w) (hd : (if x.period = 0 then w.2 != x.last else decide (x.nextBlock ≤ d.reportDate / 32)) = false) :
    d.subscriptionReport x.id = d := by
  simp [subscriptionReport, hx, hw, hd]

theorem subscriptionReport_due {d : Dev} {x : Subscription} {w : Ty × Octets} (hx : d.subs.find? (fun y => y.id = x.id) = some x)
    (hw : d.subWire x = some w) (hd : (if x.period = 0 then w.2 != x.last else decide (x.nextBlock ≤ d.reportDate / 32)) = true) :
    d.subscriptionReport x.id = (d.setSub x.id fun s => { s with last := w.2, nextBlock := d.reportDate / 32 + max 1 s.period }).liftPut 7 252
      (.report x.id (d.setSub x.id fun s => { s with last := w.2, nextBlock := d.reportDate / 32 + max 1 s.period }).reportDate (reportArg w.1 w.2)) := by
  simp [subscriptionReport, hx, hw, hd]

/-- The first subscription of a number is the one changed. -/
theorem setSub_find {d : Dev} {x : Subscription} (f : Subscription → Subscription) (hf : ∀ s, (f s).id = s.id)
    (hx : d.subs.find? (fun y => y.id = x.id) = some x) : (d.setSub x.id f).subs.find? (fun y => y.id = x.id) = some (f x) := by
  have ids : ∀ s : Subscription, (if s.id = x.id then f s else s).id = s.id := fun s => by split <;> simp [hf]
  unfold setSub
  simp only [List.find?_map]
  rw [show ((fun y : Subscription => decide (y.id = x.id)) ∘ fun s => if s.id = x.id then f s else s) = fun y => decide (y.id = x.id) from
    funext fun s => by simp [ids], hx]
  simp

@[simp] theorem bump_lift (d : Dev) (r : Row) (i n : Nat) : (d.bump r i n).lift = d.lift := by unfold bump; split <;> rfl

@[simp] theorem dispatch_nextId (d : Dev) : d.dispatch.lift.nextId = d.lift.nextId := by
  unfold dispatch
  split
  · rw [bump_lift]
  · rfl

/-- An item with room takes the next number (R101). -/
theorem liftPut_nextId {kind flow : Nat} {job : LiftJob} {d : Dev} (h : d.liftRoom (d.kindLevel kind) = true) :
    (d.liftPut kind flow job).lift.nextId = d.lift.nextId + 1 := by
  simp [liftPut, liftPut?, h]

/-- What a report that is due leaves: the subscription with its new value and date, and one item more where the lift lines have room. -/
theorem subscriptionReport_frame {d : Dev} {x : Subscription} {w : Ty × Octets} (hx : d.subs.find? (fun y => y.id = x.id) = some x)
    (hw : d.subWire x = some w) (hd : (if x.period = 0 then w.2 != x.last else decide (x.nextBlock ≤ d.reportDate / 32)) = true) :
    (d.subscriptionReport x.id).subs.find? (fun y => y.id = x.id) = some { x with last := w.2, nextBlock := d.reportDate / 32 + max 1 x.period } ∧
    d.KeepsRegs [] (d.subscriptionReport x.id) ∧
    (d.liftRoom (d.kindLevel 7) = true → (d.subscriptionReport x.id).lift.nextId = d.lift.nextId + 1) := by
  have found := setSub_find (fun s => { s with last := w.2, nextBlock := d.reportDate / 32 + max 1 s.period }) (fun _ => rfl) hx
  have kept : KeepsRegs [] d (d.setSub x.id fun s => { s with last := w.2, nextBlock := d.reportDate / 32 + max 1 s.period }) :=
    (KeepsRegs.refl [] d).of_regs rfl
  rw [subscriptionReport_due hx hw hd]
  exact ⟨by rw [liftPut_subs, found], kept.told (told_liftPut _ _ _ _), fun room => liftPut_nextId room⟩

/-! ### Notices out (R61) -/

/-- A notice of a session of the module's own leaves as a frame under a number that the protocol leaves open. -/
theorem deliverNotice_udp {x : Session} (h8 : x.handle ≤ 8) (hc : x.can = false) (n : NoticeRec) (d : Dev) : d.deliverNotice x n =
    ({ d with freeCtr := d.freeCtr + 1 } : Dev).emit (.notice x.handle (knFrame 0x22 2 (Config.free d.freeCtr % 2 ^ 32) n.unit 0 n.body)) := by
  unfold deliverNotice
  rw [if_neg (by unfold proxyBase; omega)]
  simp [noticeOut, hc, freeNat]

/-- A session whose one notice has been sent just now. -/
def queueSent (now : Nat) (y : Session) : Session := { y with sentAt := [now], queue := [], lost := 0 }

/-- The one notice of a DTLS session that has sent none within the second goes out. -/
theorem noticeSend_single {d : Dev} {h : Nat} {x : Session} {n : NoticeRec} (hx : d.session? h = some x) (hc : x.can = false)
    (hq : x.queue = [n]) (hs : x.sentAt = []) (hl : x.lost = 0) :
    d.noticeSend h = (d.deliverNotice x n).setSession h (queueSent (d.deliverNotice x n).clock) := by
  have takes : d.takesNotices x = true := by simp [takesNotices, hc]
  simp [noticeSend, hx, Option.filter, takes, hq, nextNotice, hc, hs, hl]
  rfl

theorem session?_handle {d : Dev} {h : Nat} {x : Session} (hx : d.session? h = some x) : x.handle = h := by simpa using List.find?_some hx

/-- A session changed without its handle is found again, changed. -/
theorem session?_setSession {d : Dev} {h : Nat} {x : Session} (f : Session → Session) (hf : ∀ s, (f s).handle = s.handle) (hx : d.session? h = some x) :
    (d.setSession h f).session? h = some (f x) := by
  have handles : ∀ s : Session, (if s.handle = h then f s else s).handle = s.handle := fun s => by split <;> simp [hf]
  unfold session? setSession at *
  simp only [List.find?_map]
  rw [show ((fun s : Session => decide (s.handle = h)) ∘ fun s => if s.handle = h then f s else s) = fun s => decide (s.handle = h) from
    funext fun s => by simp [handles], hx]
  simp [session?_handle (d := d) hx]

theorem noticeSend_frame {d : Dev} {h : Nat} {x : Session} {n : NoticeRec} (h8 : h ≤ 8) (hx : d.session? h = some x) (hc : x.can = false)
    (hq : x.queue = [n]) (hs : x.sentAt = []) (hl : x.lost = 0) : ∃ number,
    (d.noticeSend h).out = .notice h (knFrame 0x22 2 number n.unit 0 n.body) :: d.out ∧
    ((d.noticeSend h).session? h).map (·.queue) = some [] ∧ (d.noticeSend h).regs = d.regs := by
  have delivered := deliverNotice_udp (session?_handle hx ▸ h8 : x.handle ≤ 8) hc n d
  have sent : (d.deliverNotice x n).session? h = some x := by rw [delivered]; exact hx
  rw [noticeSend_single hx hc hq hs hl]
  refine ⟨Config.free d.freeCtr % 2 ^ 32, ?_, congrArg (Option.map (·.queue)) (session?_setSession (queueSent _) (fun _ => rfl) sent), ?_⟩
  · show (d.deliverNotice x n).out = _
    rw [delivered, session?_handle hx]
    rfl
  · show (d.deliverNotice x n).regs = _
    rw [delivered]
    rfl

/-! ### CAN FD keepalives (R51, R52) -/

/-- A keepalive of a host for this node is a frame of nothing but freshness and tag. -/
theorem canFrame_keepalive {d : Dev} {mem : List Host.Cell} {ident host : Nat} {p : Octets} (hp : p.length = 8) (he : d.inForce Reg.canEnable = 1)
    (h25 : bits ident 25 25 = 0) (hn : bits ident 24 18 = d.inForce Reg.canNodeId) (h10 : bits ident 10 10 = 0) (hh : bits ident 17 11 = host)
    (h0 : 0 < host) : d.canFrame mem true ident p = ((d.canSession host).canAccept host ident p).2 := by
  unfold canFrame
  dsimp only
  rw [if_neg (by simp [he]), if_neg (by simp), if_neg (by simp [h25, hn]), if_neg (by simp [h10, hh]; omega), if_neg (by simp [hp, canLengths]),
    if_pos (by simp [hp]), hh]

theorem canSession_out (host : Nat) (d : Dev) : (d.canSession host).out = d.out := by unfold canSession; split <;> rfl
theorem canSession_regs (host : Nat) (d : Dev) : (d.canSession host).regs = d.regs := by unfold canSession; split <;> rfl
theorem canSession_sec (host : Nat) (d : Dev) : (d.canSession host).sec = d.sec := by unfold canSession; split <;> rfl

theorem canSession_key (host : Nat) (d : Dev) : (d.canSession host).canKeyOctets = d.canKeyOctets := by
  rw [canKeyOctets, canSession_sec, canKeyOctets]

/-- A host's number has 7 bits (Table 2-5), so telling an event leaves its freshness. -/
theorem canFreshnessRx_key_told {ident host : Nat} (hh : bits ident 17 11 = host) : Reg.canFreshnessRx.key (host - 1) ∉ tellKeys := by
  have range : host < 128 := by
    rw [← hh, bits]
    exact Nat.mod_lt _ (by decide)
  simp only [tellKeys, canFreshnessRx_key, List.mem_cons, List.not_mem_nil, or_false]
  omega

/-- A frame of 8 octets with its tag and a fresh number advances its host's freshness (R52). -/
theorem canAccept_fresh {d : Dev} {host ident : Nat} {p : Octets} (hp : p.length = 8) (hk : d.canKeyOctets ≠ [])
    (ht : beAt p 4 4 = Config.cmac32 d.canKeyOctets (toBE 4 ident ++ p.take 4) % 2 ^ 32)
    (hl : d.nat Reg.canFreshnessRx (host - 1) < beAt p 0 4) (hu : beAt p 0 4 ≤ d.nat Reg.canFreshnessRx (host - 1) + 65536)
    (key : Reg.canFreshnessRx.key (host - 1) ∉ tellKeys) :
    (d.canAccept host ident p).2.nat Reg.canFreshnessRx (host - 1) = beAt p 0 4 ∧
    d.KeepsRegs [Reg.canFreshnessRx.key (host - 1)] (d.canAccept host ident p).2 ∧ (d.canAccept host ident p).2.out = d.out := by
  have accepted : (d.canAccept host ident p).2 =
      if beAt p 0 4 = 0xFFFFFFFF then ((d.setNat Reg.canFreshnessRx (beAt p 0 4) (host - 1)).keep Reg.canFreshnessRx (host - 1)).notice 0x1005 host
      else (d.setNat Reg.canFreshnessRx (beAt p 0 4) (host - 1)).keep Reg.canFreshnessRx (host - 1) := by
    unfold canAccept
    dsimp only
    rw [hp, if_pos ⟨by simpa using hk, ht, hl, hu⟩]
  have stored : ((d.setNat Reg.canFreshnessRx (beAt p 0 4) (host - 1)).keep Reg.canFreshnessRx (host - 1)).nat Reg.canFreshnessRx (host - 1) = beAt p 0 4 :=
    nat_setNat_same _ _ _ _ _
  have keeps : KeepsRegs [Reg.canFreshnessRx.key (host - 1)] d
      ((d.setNat Reg.canFreshnessRx (beAt p 0 4) (host - 1)).keep Reg.canFreshnessRx (host - 1)) :=
    ((KeepsRegs.refl _ d).setNat Reg.canFreshnessRx _ _ 0 (List.mem_singleton_self _)).of_regs rfl
  rw [accepted]
  split
  · have told := told_notice 0x1005 host ((d.setNat Reg.canFreshnessRx (beAt p 0 4) (host - 1)).keep Reg.canFreshnessRx (host - 1))
    exact ⟨(told.nat _ _ _ key).trans stored, keeps.told told, told.out⟩
  · exact ⟨stored, keeps, rfl⟩

@[simp] theorem bump_out (d : Dev) (r : Row) (i n : Nat) : (d.bump r i n).out = d.out := by unfold bump; split <;> rfl

/-- A frame of 8 octets with another tag is counted (R52). -/
theorem canAccept_badTag {d : Dev} {host ident : Nat} {p : Octets} (hp : p.length = 8)
    (ht : beAt p 4 4 ≠ Config.cmac32 d.canKeyOctets (toBE 4 ident ++ p.take 4) % 2 ^ 32) :
    (d.canAccept host ident p).2.nat Reg.canTagFailures = (d.nat Reg.canTagFailures + 1) % 2 ^ 32 ∧
    d.KeepsRegs [Reg.canTagFailures.key] (d.canAccept host ident p).2 ∧ (d.canAccept host ident p).2.out = d.out := by
  have told := told_notice 0x1004 host (d.bump Reg.canTagFailures)
  have counted : (d.canAccept host ident p).2 = (d.bump Reg.canTagFailures).notice 0x1004 host := by
    unfold canAccept
    dsimp only
    rw [if_neg (by rw [hp]; exact fun h => ht h.2.1)]
  rw [counted]
  exact ⟨(told.nat _ _ _ (by decide)).trans (nat_bump_same _ _ _ _),
    ((KeepsRegs.refl _ d).bump Reg.canTagFailures 0 1 (List.mem_singleton_self _)).told told, told.out.trans (bump_out _ _ _ _)⟩

/-- The same from a host whose session may be new. -/
theorem canKeepalive_fresh {d : Dev} {host ident : Nat} {p : Octets} (hp : p.length = 8) (hk : d.canKeyOctets ≠ [])
    (ht : beAt p 4 4 = Config.cmac32 d.canKeyOctets (toBE 4 ident ++ p.take 4) % 2 ^ 32)
    (hl : d.nat Reg.canFreshnessRx (host - 1) < beAt p 0 4) (hu : beAt p 0 4 ≤ d.nat Reg.canFreshnessRx (host - 1) + 65536)
    (key : Reg.canFreshnessRx.key (host - 1) ∉ tellKeys) :
    ((d.canSession host).canAccept host ident p).2.nat Reg.canFreshnessRx (host - 1) = beAt p 0 4 ∧
    d.KeepsRegs [Reg.canFreshnessRx.key (host - 1)] ((d.canSession host).canAccept host ident p).2 ∧
    ((d.canSession host).canAccept host ident p).2.out = d.out := by
  have last := nat_congr (canSession_regs host d) Reg.canFreshnessRx (host - 1) 0
  obtain ⟨fresh, keeps, out⟩ := canAccept_fresh (d := d.canSession host) hp (by rw [canSession_key]; exact hk) (by rw [canSession_key]; exact ht)
    (by rw [last]; exact hl) (by rw [last]; exact hu) key
  exact ⟨fresh, ((KeepsRegs.refl _ d).of_regs (canSession_regs host d)).trans keeps, out.trans (canSession_out host d)⟩

theorem canKeepalive_badTag {d : Dev} {host ident : Nat} {p : Octets} (hp : p.length = 8)
    (ht : beAt p 4 4 ≠ Config.cmac32 d.canKeyOctets (toBE 4 ident ++ p.take 4) % 2 ^ 32) :
    ((d.canSession host).canAccept host ident p).2.nat Reg.canTagFailures = (d.nat Reg.canTagFailures + 1) % 2 ^ 32 ∧
    d.KeepsRegs [Reg.canTagFailures.key] ((d.canSession host).canAccept host ident p).2 ∧
    ((d.canSession host).canAccept host ident p).2.out = d.out := by
  obtain ⟨counted, keeps, out⟩ := canAccept_badTag (d := d.canSession host) hp (by rw [canSession_key]; exact ht)
  rw [nat_congr (canSession_regs host d)] at counted
  exact ⟨counted, ((KeepsRegs.refl _ d).of_regs (canSession_regs host d)).trans keeps, out.trans (canSession_out host d)⟩

end Dev

/-- A keepalive of a module that answers completes with what its frame does. -/
theorem keepalive_completes {s : State} {ident : Nat} {p : Octets} {P : Dev → Prop} (ha : s.dev.answers = true) (hp : p.length = 8)
    (h : P (s.dev.canFrame s.mem true ident p)) : Completes (.canKeepalive (.can true ident p)) s P := by
  have kept : s.dev.keepalive s.mem (.can true ident p) = s.dev.canFrame s.mem true ident p := if_pos hp
  exact ⟨_, if_pos ha, rfl, rfl, by rw [kept]; exact h⟩

/-- Settles O53, event by event. -/
theorem sessionEvents : Obligations.SessionEvents := by
  intro s ha hf hl
  refine ⟨fun x served port cookie unblocked sound offers usual => ?_, fun h h0 h8 here => ?_, fun x hs h0 h8 hr => ?_, fun source t hb hr => ?_,
    fun x w due hx hw hd => ?_, fun h x n h8 hx hc hq hs hlost => ?_, fun ident p host hp he h25 hn h10 hh h0 hk => ?_⟩
  · have heard : s.dev.Heard x := ⟨served, port, cookie, unblocked, sound, offers, usual⟩
    refine ⟨fun r hr => up_completes rfl ha ?_, fun r i hnone hrole hv hi free lower => up_completes rfl ha ?_⟩
    · rw [Dev.handshake_heard heard, hr]
      exact Dev.refuseHandshake_counts x r s.dev
    · have vendor : (s.dev.certified && r == .vendor) = false := by rcases hv with hv | hv <;> simp [hv]
      obtain ⟨sessions, keeps⟩ := Dev.openSession_opens (role := r) (x := x) hi free lower
      rw [Dev.handshake_heard heard, hnone, hrole]
      simp only [vendor, Bool.false_eq_true, if_false]
      exact ⟨_, sessions, rfl, rfl, rfl, rfl, rfl, keeps⟩
  · refine up_completes rfl ha ?_
    rw [Dev.closeSession_drops h0 h8 here hf hl]
    exact ⟨Dev.dropSessions_sessions h _, Dev.dropSessions_subs h _, Dev.dropSessions_transfers h _, rfl⟩
  · exact up_completes rfl ha (Dev.sessionCheck_single hs h0 h8 hf hl hr)
  · refine up_completes rfl ha ?_
    rw [Dev.sourceExpiry_due hb hr]
    exact ⟨nget?_nerase_same _ _, Dev.advanceTo_regs _ _, Dev.advanceTo_sessions _ _⟩
  · exact ⟨fun ht => up_completes rfl ha (Dev.subscriptionReport_frame hx hw (hd.symm.trans ht)),
      fun ht => up_completes rfl ha (Dev.subscriptionReport_early hx hw (hd.symm.trans ht))⟩
  · exact up_completes rfl ha (Dev.noticeSend_frame h8 hx hc hq hs hlost)
  · refine ⟨fun ht hlow hup => keepalive_completes ha hp ?_, fun ht => keepalive_completes ha hp ?_⟩
    all_goals rw [Dev.canFrame_keepalive hp he h25 hn h10 hh h0]
    · exact Dev.canKeepalive_fresh hp hk ht hlow hup (Dev.canFreshnessRx_key_told hh)
    · exact Dev.canKeepalive_badTag hp ht

end Sys2Proof.Machine
end

