-- ==== Sys2Proof/Proofs/CalendarServiceCases.lean ====
section
/-! A CAL_CLOSE that hands its entry on: the module's unit tree, left from a group that it headed, names its own number a partition of
another module (R44, R85, R472). -/

namespace Sys2Proof.Machine

/-- An OPEN entry of the observer's session that sets OutputGain of output 7 at unit 5. -/
def ownGain : CalEntry :=
  { Dev.blankEntry 0 0 5 1 .observer .opened with changes := [{ index := 0x7007, sub := 4, val := .int 5 }] }

/-- A lone module that is unit 5 of its group, with that entry. In the tree of the group that it headed before, unit 5 was a partition of
unit 4, and unit 4 runs; an assignment by the new head does not clear these lines. -/
def regrouped : State :=
  { State.reset with dev := ((((({ observed with drada := { observed.drada with formed := true } } : Dev).setNat Reg.unitId 5).setNat
    Reg.unitKindOf 1 5).setNat Reg.unitParent 4 5).setNat Reg.unitState 2 4).putCal ownGain }

/-- The state after a CAL_CLOSE of the entry at date 4,096. -/
def regroupedClosed : State :=
  { regrouped with dev := regrouped.dev.request regrouped.mem 0x32 (regrouped.dev.ask 1 5 0x32 (toBE 2 0 ++ toBE 8 4096)) }

/-- The CAL_CLOSE hands the entry to unit 4. -/
theorem regroupedClosed_hands : (regroupedClosed.dev.entryAt 0).map (·.handed) = some true := by decide +kernel

/-- Refutes O52: an entry of this module's own unit may concern another module by the unit tree, which then coordinates it (R85). In
`regrouped` a CAL_CLOSE in time hands the entry to unit 4, besides making it STAGED. -/
theorem not_calendarServices : ¬ Obligations.CalendarServices := by
  intro h
  have alone : regrouped.dev.Alone := by unfold Dev.Alone; decide +kernel
  have asks : regrouped.dev.Asks 1 5 .observer :=
    ⟨by decide, by decide, by decide +kernel, observerSession, rfl, rfl, rfl, fun _ hc => nomatch hc⟩
  obtain ⟨-, -, -, hentry⟩ := h regrouped 1 5 .observer (by decide) alone asks
  obtain ⟨-, -, -, -, -, -, hbuild⟩ := hentry ownGain 0 (by decide) (by decide +kernel) rfl (by decide)
  obtain ⟨hclose, -⟩ := hbuild (by decide +kernel) rfl rfl
  obtain ⟨-, hstage⟩ := hclose 4096 (by decide) (by decide) (by decide +kernel)
  obtain ⟨-, -, hstaged⟩ := (hstage (by decide +kernel)).of_next (t := regroupedClosed) rfl
  rw [Nat.zero_mod] at hstaged
  have hands := regroupedClosed_hands
  rw [hstaged] at hands
  exact absurd hands (by decide)

end Sys2Proof.Machine
end

