-- ==== Sys2Proof/Proofs/PathCommands.lean ====
section
/-! What LIFT_SNAPSHOT_TAKE, LOAD_PEAK_CLEAR, COUNTER_CLEAR and RX_MARGIN_CLEAR do with and without their argument (R105, R167, R289). -/

namespace Sys2Proof.Machine

namespace Dev

/-! ### Folds over writes of entries -/

/-- What every step of a fold keeps, and one of them establishes, holds of its result. -/
theorem foldl_establishes {α β : Type} {f : β → α → β} {P : β → Prop} {l : List α} {x : α} (hx : x ∈ l) (hset : ∀ e, P (f e x))
    (hkeep : ∀ e y, P e → P (f e y)) (d : β) : P (l.foldl f d) := by
  have keep : ∀ (l : List α) (e : β), P e → P (l.foldl f e) := by
    intro l
    induction l with
    | nil => exact fun _ h => h
    | cons y t ih => exact fun e h => ih _ (hkeep e y h)
  induction l generalizing d with
  | nil => cases hx
  | cons y t ih =>
    rcases List.mem_cons.1 hx with rfl | hx
    · exact keep t _ (hset d)
    · exact ih hx _

theorem KeepsRegs.foldl {α : Type} {f : Dev → α → Dev} {ks : List Nat} {l : List α} {a b : Dev} (h : KeepsRegs ks a b)
    (hf : ∀ e, ∀ x ∈ l, KeepsRegs ks e (f e x)) : KeepsRegs ks a (l.foldl f b) := by
  induction l generalizing b with
  | nil => exact h
  | cons x t ih => exact ih (h.trans (hf b x (.head _))) fun e y hy => hf e y (.tail _ hy)

theorem sameButRegs_setNat (r : Row) (v i j : Nat) (d : Dev) : SameButRegs d (d.setNat r v i j) := rfl

theorem SameButRegs.power {d d' : Dev} (h : SameButRegs d d') : d'.power = d.power := (congrArg Dev.power h :)
theorem SameButRegs.port {d d' : Dev} (h : SameButRegs d d') (p : Nat) : d'.port p = d.port p := (congrArg (fun e => e.port p) h :)

/-! ### LOAD_PEAK_CLEAR (R167) -/

/-- The peaks of the 16 rinks cleared. -/
def clearedRinks (d : Dev) : Dev := (List.range 16).foldl (fun d r => d.setNat Reg.rinkCyclesPeak 0 r) d

theorem loadPeakClear_clear (d : Dev) : d.loadPeakClear (ascii "clear") = (Status.ok, (d.setNat Reg.renderLoadPeak 0).clearedRinks) := by
  rw [loadPeakClear, if_neg (not_not_intro rfl), clearedRinks]

theorem loadPeakClear_other (d : Dev) {arg : Octets} (h : arg ≠ ascii "clear") : d.loadPeakClear arg = (Status.range, d) := if_pos h

theorem sameButRegs_clearedRinks (d : Dev) : SameButRegs d d.clearedRinks := by
  unfold clearedRinks
  exact sameButRegs_foldl (fun e _ => sameButRegs_setNat _ _ _ _ e) _ _

theorem clearedRinks_keepsRegs (d : Dev) : KeepsRegs ((List.range 16).map fun r => Reg.rinkCyclesPeak.key r) d d.clearedRinks :=
  (KeepsRegs.refl _ d).foldl fun e _ hr => (KeepsRegs.refl _ e).setNat _ _ _ _ (List.mem_map_of_mem hr)

theorem clearedRinks_peak (d : Dev) {r : Nat} (hr : r < 16) : d.clearedRinks.nat Reg.rinkCyclesPeak r = 0 := by
  refine foldl_establishes (f := fun (d : Dev) r => d.setNat Reg.rinkCyclesPeak 0 r) (P := fun e => e.nat Reg.rinkCyclesPeak r = 0)
    (List.mem_range.2 hr) (fun e => nat_setNat_same _ _ _ _ _) (fun e y h => ?_) d
  by_cases hy : r = y
  · rw [hy]
    exact nat_setNat_same _ _ _ _ _
  · rw [nat_setNat_ne _ _ _ _ _ _ _ _ (by simp only [rinkCyclesPeak_key]; omega), h]

theorem clearedRinks_renderLoadPeak (d : Dev) : d.clearedRinks.nat Reg.renderLoadPeak = d.nat Reg.renderLoadPeak :=
  (clearedRinks_keepsRegs d).nat _ _ _ (by decide) (by decide)

/-! ### COUNTER_CLEAR (R289) -/

/-- The 48 counters of a port cleared. -/
def clearedCounters (p : Nat) (d : Dev) : Dev := (List.range portSubs).foldl (fun d j => d.setNat Reg.portCounter 0 p j) d

/-- The octet counts of a port cleared. -/
def clearedOctets (p : Nat) (d : Dev) : Dev := d.setPort p fun q => { q with rxOctets := 0, txOctets := 0 }

theorem counterClear_clear (p : Nat) (d : Dev) : d.counterClear p (ascii "clear") = (Status.ok, (d.clearedCounters p).clearedOctets p) := by
  rw [counterClear, if_neg (not_not_intro rfl), clearedCounters, clearedOctets]

theorem counterClear_other (p : Nat) (d : Dev) {arg : Octets} (h : arg ≠ ascii "clear") : d.counterClear p arg = (Status.range, d) := if_pos h

theorem sameButRegs_clearedCounters (p : Nat) (d : Dev) : SameButRegs d (d.clearedCounters p) := by
  unfold clearedCounters
  exact sameButRegs_foldl (fun e _ => sameButRegs_setNat _ _ _ _ e) _ _

theorem clearedCounters_keepsRegs (p : Nat) (d : Dev) :
    KeepsRegs ((List.range portSubs).map fun j => Reg.portCounter.key p j) d (d.clearedCounters p) :=
  (KeepsRegs.refl _ d).foldl fun e _ hj => (KeepsRegs.refl _ e).setNat _ _ _ _ (List.mem_map_of_mem hj)

theorem clearedCounters_counter (p : Nat) (d : Dev) {j : Nat} (hj : j < portSubs) : (d.clearedCounters p).nat Reg.portCounter p j = 0 := by
  refine foldl_establishes (f := fun (d : Dev) j => d.setNat Reg.portCounter 0 p j) (P := fun e => e.nat Reg.portCounter p j = 0)
    (List.mem_range.2 hj) (fun e => nat_setNat_same _ _ _ _ _) (fun e y h => ?_) d
  by_cases hy : j = y
  · rw [hy]
    exact nat_setNat_same _ _ _ _ _
  · rw [nat_setNat_ne _ _ _ _ _ _ _ _ (by simp only [portCounter_key]; omega), h]

theorem clearedOctets_rx {p : Nat} (hp : p < 5) (d : Dev) : ((d.clearedOctets p).port p).rxOctets = 0 := by
  rw [show (d.clearedOctets p).port p = _ from Fixed.get_modify_same _ _ _ _ hp]

theorem clearedOctets_tx {p : Nat} (hp : p < 5) (d : Dev) : ((d.clearedOctets p).port p).txOctets = 0 := by
  rw [show (d.clearedOctets p).port p = _ from Fixed.get_modify_same _ _ _ _ hp]

theorem clearedOctets_power (p : Nat) (d : Dev) : (d.clearedOctets p).power = d.power := rfl

theorem clearedOctets_keepsRegs {ks : List Nat} {a b : Dev} (h : KeepsRegs ks a b) (p : Nat) : KeepsRegs ks a (b.clearedOctets p) := h.of_regs rfl

theorem clearedOctets_nat (p : Nat) (d : Dev) (r : Row) (i j : Nat) : (d.clearedOctets p).nat r i j = d.nat r i j := rfl

theorem clearedOctets_other {p q : Nat} (h : q ≠ p) (d : Dev) : (d.clearedOctets p).port q = d.port q := Fixed.get_modify_ne _ _ _ _ _ (Ne.symm h)

/-! ### LIFT_SNAPSHOT_TAKE and RX_MARGIN_CLEAR (R105, Table 10-5) -/

theorem liftSnapshotTake_take (d : Dev) : d.liftSnapshotTake (ascii "take") = (Status.ok, { d with lift := { d.lift with snapshot := d.snapshotOctets } }) :=
  if_pos rfl

theorem liftSnapshotTake_other (d : Dev) {arg : Octets} (h : arg ≠ ascii "take") : d.liftSnapshotTake arg = (Status.range, d) := if_neg h

theorem marginClear_clear (f : Nat) (d : Dev) : d.marginClear f (ascii "clear") = (Status.ok, d.setInt Reg.rxMarginMin 0x7FFFFFFF f) := if_pos rfl

theorem marginClear_other (f : Nat) (d : Dev) {arg : Octets} (h : arg ≠ ascii "clear") : d.marginClear f arg = (Status.range, d) := if_neg h

/-! ### A command entry without a read-back -/

/-- A command that is OK leaves what it made, counted by ConfigEpoch. -/
theorem ranCommand_ok {d e : Dev} {f : Found} {text : Octets} {act : Dev → Status × Dev} (h : d.Alone) (ha : act d = (Status.ok, e))
    (hp : e.power = d.power) :
    d.ranCommand f text (fun x => noResult (act x)) = { e.bumpEpoch with lastStatus := Status.ok, lastResult := cmdBack text Status.ok [] } :=
  (ranCommand_eq h (congrArg noResult ha) hp).trans (by rw [if_pos rfl])

/-- A command answered RANGE leaves the module but for the status and the read-back. -/
theorem ranCommand_range {d : Dev} {f : Found} {text : Octets} {act : Dev → Status × Dev} (h : d.Alone) (ha : act d = (Status.range, d)) :
    d.ranCommand f text (fun x => noResult (act x)) = { d with lastStatus := Status.range, lastResult := cmdBack text Status.range [] } :=
  (ranCommand_eq h (congrArg noResult ha) rfl).trans (by rw [if_neg (show Status.range ≠ Status.ok by decide)])

theorem ran_nat (d : Dev) (r : Row) (i j : Nat) (st : Status) (res : Octets) (h : r.key i j ≠ Reg.configEpoch.key) :
    ({ d.bumpEpoch with lastStatus := st, lastResult := res } : Dev).nat r i j = d.nat r i j := epoch_nat d r i j st h

theorem ran_port (d : Dev) (p : Nat) (st : Status) (res : Octets) :
    ({ d.bumpEpoch with lastStatus := st, lastResult := res } : Dev).port p = d.port p := rfl

theorem KeepsRegs.ran {ks : List Nat} {a b : Dev} (h : KeepsRegs ks a b) (hk : Reg.configEpoch.key ∈ ks) (st : Status) (res : Octets) :
    KeepsRegs ks a { b.bumpEpoch with lastStatus := st, lastResult := res } := (h.bump Reg.configEpoch 0 1 hk).of_regs rfl

end Dev

/-- Settles O1: each command's answer with and without its argument, in the form that a command entry gives it. -/
theorem pathCommands : Obligations.PathCommands := by
  intro s ha hl
  refine ⟨?_, fun arg h => ?_, ?_, fun arg h => ?_, fun p hp => ?_, fun p arg hp h => ?_, fun p arg hp => ?_, fun f hf => ?_, fun f arg hf h => ?_,
    fun f arg hf => ?_⟩ <;> refine up_completes rfl ha ?_
  · rw [Dev.ranCommand_ok hl (Dev.liftSnapshotTake_take _) rfl]
    exact ⟨rfl, by rw [Dev.bumpEpoch, Dev.bump_lift], ((Dev.KeepsRegs.refl _ _).of_regs rfl).ran (.head _) _ _⟩
  · rw [Dev.ranCommand_range hl (Dev.liftSnapshotTake_other _ h)]
    exact ⟨rfl, rfl, rfl⟩
  · rw [Dev.ranCommand_ok hl (Dev.loadPeakClear_clear _) (by rw [(Dev.sameButRegs_clearedRinks _).power, Dev.setNat_power])]
    refine ⟨rfl, ?_, fun r hr => ?_, ?_⟩
    · rw [Dev.ran_nat _ _ _ _ _ _ (by decide), Dev.clearedRinks_renderLoadPeak, Dev.nat_setNat_same]
    · rw [Dev.ran_nat _ _ _ _ _ _ (by simp only [rinkCyclesPeak_key, configEpoch_key]; omega), Dev.clearedRinks_peak _ hr]
    · have hkeep := (((Dev.KeepsRegs.refl _ s.dev).setNat Reg.renderLoadPeak 0 0 0 (.head _)).trans
        ((Dev.clearedRinks_keepsRegs _).mono fun k hk => .tail _ (.tail Reg.configEpoch.key hk)))
      exact hkeep.ran (.tail _ (.head _)) _ _
  · rw [Dev.ranCommand_range hl (Dev.loadPeakClear_other _ h)]
    exact ⟨rfl, rfl⟩
  · rw [if_neg (by omega), Dev.ranCommand_ok hl (Dev.counterClear_clear p _) (by rw [Dev.clearedOctets_power, (Dev.sameButRegs_clearedCounters p _).power])]
    have hkeep := (Dev.clearedCounters_keepsRegs p s.dev).mono fun k hk => .tail Reg.configEpoch.key hk
    refine ⟨rfl, fun j hj => ?_, ?_, ?_, fun q hq => ?_, (Dev.clearedOctets_keepsRegs hkeep p).ran (.head _) _ _⟩
    · rw [Dev.ran_nat _ _ _ _ _ _ (by simp only [portCounter_key, configEpoch_key]; omega), Dev.clearedOctets_nat, Dev.clearedCounters_counter p _ hj]
    · rw [Dev.ran_port, Dev.clearedOctets_rx hp]
    · rw [Dev.ran_port, Dev.clearedOctets_tx hp]
    · rw [Dev.ran_port, Dev.clearedOctets_other hq, (Dev.sameButRegs_clearedCounters p _).port]
  · rw [if_neg (by omega), Dev.ranCommand_range hl (Dev.counterClear_other p _ h)]
    exact ⟨rfl, rfl, rfl⟩
  · exact if_pos hp
  · rw [if_neg (by omega), Dev.ranCommand_ok hl (Dev.marginClear_clear f _) rfl]
    refine ⟨rfl, ?_, ((Dev.KeepsRegs.refl _ _).setInt _ _ _ _ (.head _)).ran (.tail _ (.head _)) _ _⟩
    exact (Dev.epoch_int _ _ _ _ Status.ok (by simp only [rxMarginMin_key, configEpoch_key]; omega)).trans (Dev.int_setInt_same _ _ _ _ _)
  · rw [if_neg (by omega), Dev.ranCommand_range hl (Dev.marginClear_other f _ h)]
    exact ⟨rfl, rfl⟩
  · exact if_pos hf

end Sys2Proof.Machine
end

