-- ==== Sys2Proof/Proofs/ReplayAndMirror.lean ====
section
/-! JOURNAL_REPLAY, LIFT_ITEM_FINISH, LIFT_AGE_LIMIT and MIRROR_WRITE: what each does in the cases that the statement names (R93, R101, R103, R436). -/

namespace Sys2Proof.Machine

namespace Dev

/-! ### What telling leaves of the once-per-second limiter (R31, R103) -/

@[simp] theorem bump_limiter (d : Dev) (r : Row) (i n : Nat) : (d.bump r i n).limiter = d.limiter := by unfold bump; split <;> rfl

@[simp] theorem peak_limiter (d : Dev) (r : Row) (n i : Nat) : (d.peak r n i).limiter = d.limiter := by unfold peak; split <;> rfl

@[simp] theorem fifoPush_limiter (x : LogRec) (d : Dev) : (d.fifoPush x).limiter = d.limiter := by
  unfold fifoPush
  dsimp only
  split
  · exact peak_limiter _ _ _ _
  · split
    · split
      · exact bump_limiter _ _ _ _
      · rfl
    · exact bump_limiter _ _ _ _

@[simp] theorem dispatch_limiter (d : Dev) : d.dispatch.limiter = d.limiter := by
  unfold dispatch
  split
  · exact bump_limiter _ _ _ _
  · rfl

theorem liftPut?_limiter {d d' : Dev} {kind flow : Nat} {job : LiftJob} (h : d.liftPut? kind flow job = some d') : d'.limiter = d.limiter := by
  unfold liftPut? at h
  dsimp only at h
  split at h
  · cases h
    exact dispatch_limiter _
  · cases h

@[simp] theorem offerNotice_limiter (n : NoticeRec) (d : Dev) : (d.offerNotice n).limiter = d.limiter := by
  have fold : ∀ (l : List Session) (a : List Session × Dev), (l.foldl (fun (a : List Session × Dev) s =>
      if d.wantsArea s (areaOf (n.code / 256 * 256)) then
        let q := queueNotice n a.2 s
        (a.1 ++ [q.1], q.2)
      else (a.1 ++ [s], a.2)) a).2.limiter = a.2.limiter := by
    intro l
    induction l with
    | nil => exact fun _ => rfl
    | cons s t ih =>
      intro a
      refine (ih _).trans ?_
      dsimp only
      split
      · unfold queueNotice
        split
        · rfl
        · exact bump_limiter _ _ _ _
      · rfl
  exact fold d.sessions ([], d)

@[simp] theorem fifoPushExt_limiter (x : LogRec) (ext : Octets) (d : Dev) : (d.fifoPushExt x ext).limiter = d.limiter := by
  have fold : ∀ (l : List (Octets × Nat)) (n : Nat) (e : Dev), (l.foldl (fun d p =>
      d.fifoPush { x with kind := 4, ext := p.1, flags := if p.2 + 1 < n then 1 else 0 }) e).limiter = e.limiter := by
    intro l n
    induction l with
    | nil => exact fun _ => rfl
    | cons p t ih => exact fun e => (ih _).trans (fifoPush_limiter _ _)
  unfold fifoPushExt
  exact (fold _ _ _).trans (fifoPush_limiter _ _)

@[simp] theorem noticeRaw_limiter (code arg : Nat) (d : Dev) : (d.noticeRaw code arg).limiter = d.limiter := by
  unfold noticeRaw noticeAt
  dsimp only
  split
  · rw [fifoPushExt_limiter, offerNotice_limiter]
  · rw [fifoPush_limiter, offerNotice_limiter]

@[simp] theorem bump_clock (d : Dev) (r : Row) (i n : Nat) : (d.bump r i n).clock = d.clock := by unfold bump; split <;> rfl

/-- Whether a once-per-second notice was last raised now. -/
def StampedNow (k : Nat) (d : Dev) : Prop := nget? d.limiter k = some d.clock

/-- A later once-per-second check keeps the stamp of this one: what it stamps, it stamps with the same moment. -/
theorem StampedNow.oncePerSecond {k : Nat} {d : Dev} (h : d.StampedNow k) (k' : Nat) : (d.oncePerSecond k').2.StampedNow k := by
  have put : ({ d with limiter := nput d.limiter k' d.clock } : Dev).StampedNow k := by
    by_cases hk : k = k'
    · subst hk
      exact nget?_nput_same _ _ _
    · exact (nget?_nput_ne _ _ hk).trans h
  unfold Dev.oncePerSecond
  split
  · split
    · exact h
    · exact put
  · exact put

theorem StampedNow.of_eq {k : Nat} {d d' : Dev} (h : d.StampedNow k) (hl : d'.limiter = d.limiter) (hc : d'.clock = d.clock) : d'.StampedNow k := by
  rw [StampedNow, hl, hc]
  exact h

theorem StampedNow.liftFullNotice {k : Nat} {d : Dev} (h : d.StampedNow k) (kind : Nat) : (d.liftFullNotice kind).StampedNow k := by
  have hf := h.oncePerSecond (0xA60200 + kind)
  unfold Dev.liftFullNotice
  dsimp only
  split
  · exact hf.of_eq (noticeRaw_limiter _ _ _) (told_noticeRaw _ _ _).clock
  · exact hf

theorem StampedNow.liftPut {k : Nat} {d : Dev} (h : d.StampedNow k) (kind flow : Nat) (job : LiftJob) : (d.liftPut kind flow job).StampedNow k := by
  unfold Dev.liftPut
  split
  · rename_i d' hp
    exact h.of_eq (liftPut?_limiter hp) (told_liftPut? hp).clock
  · refine StampedNow.liftFullNotice ?_ kind
    exact h.of_eq (bump_limiter d Reg.liftFull 0 1) (bump_clock d Reg.liftFull 0 1)

theorem StampedNow.notice {k : Nat} {d : Dev} (h : d.StampedNow k) (code arg : Nat) : (d.notice code arg).StampedNow k := by
  have hraw := h.of_eq (noticeRaw_limiter code arg d) (told_noticeRaw code arg d).clock
  have hqueue : ((d.noticeRaw code arg).logQueue 8).StampedNow k := by
    unfold logQueue
    split
    · exact hraw
    · exact hraw.liftPut _ _ _
  unfold Dev.notice logPressure
  dsimp only
  split
  · exact hqueue.of_eq (noticeRaw_limiter _ _ _) (told_noticeRaw _ _ _).clock
  · exact hqueue.of_eq rfl rfl

theorem StampedNow.noticeOnce {k : Nat} {d : Dev} (h : d.StampedNow k) (key code arg : Nat) : (d.noticeOnce key code arg).StampedNow k := by
  unfold Dev.noticeOnce
  dsimp only
  split
  · exact (h.oncePerSecond key).notice code arg
  · exact h.oncePerSecond key

/-- A notice that was never raised before is raised, and stamped. -/
theorem noticeOnce_stamps {d : Dev} {key : Nat} (h : nget? d.limiter key = none) (code arg : Nat) : (d.noticeOnce key code arg).StampedNow key := by
  have ho : d.oncePerSecond key = (true, { d with limiter := nput d.limiter key d.clock }) := by rw [oncePerSecond, h]
  have hs : ({ d with limiter := nput d.limiter key d.clock } : Dev).StampedNow key := nget?_nput_same _ _ _
  rw [Dev.noticeOnce, ho]
  exact hs.notice code arg

/-! ### LIFT_AGE_LIMIT (R103) -/

/-- One level looked at: the notice of its level where its first item has waited longer than the limit. -/
def ageLevel (limit : Nat) (d : Dev) (l : Nat) : Dev :=
  match d.lift.waiting.find? fun x => x.level = l with
  | some x => if x.queuedAt + limit < d.clock then d.noticeOnce (0xA60100 + l) 0xA601 l else d
  | none => d

theorem liftAge_none {d : Dev} (h : d.lift.waiting = []) : d.liftAge = d := by
  have keep : ∀ l : List Nat, l.foldl (ageLevel (usCycles (d.nat Reg.liftAgeLimit))) d = d := by
    intro l
    induction l with
    | nil => rfl
    | cons y t ih =>
      have hy : ageLevel (usCycles (d.nat Reg.liftAgeLimit)) d y = d := by rw [ageLevel, h]; rfl
      rw [List.foldl_cons, hy, ih]
  rw [liftAge, h]
  exact keep _

theorem liftAge_single {d : Dev} {x : LiftItem} (h : d.lift.waiting = [x]) :
    d.liftAge = (List.range 8).foldl (ageLevel (usCycles (d.nat Reg.liftAgeLimit))) (d.advanceTo (x.queuedAt + usCycles (d.nat Reg.liftAgeLimit) + 1)) := by
  rw [liftAge, h]
  rfl

theorem told_ageLevel (limit : Nat) (d : Dev) (l : Nat) : Told d (d.ageLevel limit l) := by
  unfold ageLevel
  split
  · split
    · exact told_noticeOnce _ _ _ d
    · exact .refl d
  · exact .refl d

theorem StampedNow.ageLevel {k : Nat} {d : Dev} (h : d.StampedNow k) (limit l : Nat) : (d.ageLevel limit l).StampedNow k := by
  unfold Dev.ageLevel
  split
  · split
    · exact h.noticeOnce _ _ _
    · exact h
  · exact h

/-- The fold over the levels stamps the notice of the level at which the one item has waited too long. -/
theorem ageLevels_stamp {d : Dev} {x : LiftItem} {limit : Nat} (h : d.lift.waiting = [x]) (hlate : x.queuedAt + limit < d.clock)
    (hnone : nget? d.limiter (0xA60100 + x.level) = none) {l : List Nat} (hx : x.level ∈ l) :
    (l.foldl (ageLevel limit) d).StampedNow (0xA60100 + x.level) := by
  have keep : ∀ (l : List Nat) (e : Dev), e.StampedNow (0xA60100 + x.level) → (l.foldl (ageLevel limit) e).StampedNow (0xA60100 + x.level) := by
    intro l
    induction l with
    | nil => exact fun _ he => he
    | cons y t ih => exact fun e he => ih _ (he.ageLevel limit y)
  induction l with
  | nil => cases hx
  | cons y t ih =>
    by_cases hy : x.level = y
    · subst hy
      refine keep t _ ?_
      rw [Dev.ageLevel, h, List.find?_cons_of_pos (by simp)]
      dsimp only
      rw [if_pos hlate]
      exact noticeOnce_stamps hnone _ _
    · have hd : d.ageLevel limit y = d := by rw [ageLevel, h, List.find?_cons_of_neg (by simp [hy])]; rfl
      rw [List.foldl_cons, hd]
      exact ih ((List.mem_cons.1 hx).resolve_left hy)

theorem told_foldl {α : Type} {f : Dev → α → Dev} (hf : ∀ e y, Told e (f e y)) (l : List α) (d : Dev) : Told d (l.foldl f d) := by
  induction l generalizing d with
  | nil => exact .refl d
  | cons y t ih => exact (hf d y).trans (ih _)

/-- LIFT_AGE_LIMIT with one item that has waited too long. -/
theorem liftAge_tells {d : Dev} {x : LiftItem} (h : d.lift.waiting = [x]) (hx : x.level < 8)
    (hr : d.Reaches (x.queuedAt + usCycles (d.nat Reg.liftAgeLimit) + 1)) (hnone : nget? d.limiter (0xA60100 + x.level) = none) :
    d.liftAge.StampedNow (0xA60100 + x.level) ∧ d.KeepsRegs [] d.liftAge := by
  rw [liftAge_single h]
  refine ⟨ageLevels_stamp (by rw [advanceTo_lift, h]) ?_ (by rw [advanceTo_limiter, hnone]) (List.mem_range.2 hx), ?_⟩
  · rw [advanceTo_clock _ _ hr]
    omega
  · exact ((KeepsRegs.refl [] d).of_regs (advanceTo_regs _ _)).told (told_foldl (told_ageLevel _) _ _)

/-! ### JOURNAL_REPLAY of a unit that lacks nothing (R93) -/

/-- What only tells and writes entries leaves the media count. -/
theorem mscNow_of_untold {d d' : Dev} (h : untold d d' = d) : d'.mscNow = d.mscNow := (congrArg Dev.mscNow h :)

/-- A unit that returns: its notice, and UnitState 1. -/
def unitReturns (u : Nat) (d : Dev) : Dev := (d.notice 0xA403 u).setNat Reg.unitState 1 u

theorem unitState_key_untold {u : Nat} (h : u < 1024) : Reg.unitState.key u ∉ tellKeys := by
  simp only [tellKeys, unitState_key, List.mem_cons, List.not_mem_nil, or_false]
  omega

theorem unitReturns_journalSeq (u : Nat) (h : u < 1024) (d : Dev) : (d.unitReturns u).nat Reg.journalSeq = d.nat Reg.journalSeq := by
  rw [unitReturns, nat_setNat_ne _ _ _ _ _ _ _ _ (by simp only [journalSeq_key, unitState_key]; omega), (told_notice _ _ _).nat _ _ _ (by decide)]

theorem unitReturns_cal (u : Nat) (d : Dev) : (d.unitReturns u).cal = d.cal := (told_notice 0xA403 u d).cal

theorem unitReturns_journalOldest (u : Nat) (h : u < 1024) (d : Dev) : (d.unitReturns u).journalOldest = d.journalOldest := by
  rw [journalOldest, unitReturns_cal, unitReturns_journalSeq u h, journalOldest]

/-- Its replay is complete at once where the journal holds nothing newer. -/
theorem journalReplay_current {u : Nat} {d : Dev} (h : u < 1024) (hold : d.journalOldest ≤ d.nat Reg.journalSeq + 1)
    (hj : ∀ r ∈ d.cal.journal, r.seq ≤ d.nat Reg.journalSeq) :
    d.journalReplay false u (d.nat Reg.journalSeq) = (d.unitReturns u).replayComplete false u := by
  have hnewer : (d.unitReturns u).cal.journal.filter (fun r => decide (d.nat Reg.journalSeq < r.seq)) = [] := by
    rw [unitReturns_cal, List.filter_eq_nil_iff]
    exact fun r hr => by simpa using hj r hr
  unfold journalReplay
  simp only [Bool.false_eq_true, if_false, if_true]
  rw [← unitReturns, if_pos (by rw [unitReturns_journalOldest u h]; exact hold), hnewer, List.foldl_nil]

/-- A completed replay tells, and then sets the unit's turn to UnitState 2. -/
theorem replayComplete_turns (u : Nat) (d : Dev) : ∃ e, Told d e ∧ d.replayComplete false u = e.setTimer (0xC0000 + u) (boundaryOf (e.mscNow + 1)) := by
  refine ⟨_, (told_notice 0xA404 u d).trans (told_liftPut 2 254 (.send u (.applied u (d.nat Reg.journalSeq))) _), ?_⟩
  simp only [replayComplete, tellReplay, Bool.false_eq_true, if_false, turnsRunning, queueCal]

theorem journalReplay_current_spec {u : Nat} {d : Dev} (h : u < 1024) (hold : d.journalOldest ≤ d.nat Reg.journalSeq + 1)
    (hj : ∀ r ∈ d.cal.journal, r.seq ≤ d.nat Reg.journalSeq) {e : Dev} (he : d.journalReplay false u (d.nat Reg.journalSeq) = e) :
    e.nat Reg.unitState u = 1 ∧ e.timer (0xC0000 + u) = boundaryOf (d.mscNow + 1) ∧ d.KeepsRegs [Reg.unitState.key u] e := by
  obtain ⟨x, hx, hturn⟩ := replayComplete_turns u (d.unitReturns u)
  rw [journalReplay_current h hold hj, hturn] at he
  subst he
  have hmsc : x.mscNow = d.mscNow := by
    refine mscNow_of_untold ?_
    rw [hx.untold_eq, unitReturns, untold_setNat, untold_notice, untold_self]
  refine ⟨?_, ?_, ?_⟩
  · rw [nat_congr (setTimer_regs _ _ _), hx.nat _ _ _ (unitState_key_untold h), unitReturns, nat_setNat_same]
  · rw [← hmsc]
    exact nget_nset_same _ _ _ _
  · exact ((((KeepsRegs.refl _ d).told (told_notice 0xA403 u d)).setNat Reg.unitState 1 u 0 (.head _)).told hx).of_regs (setTimer_regs _ _ _)

/-! ### LIFT_ITEM_FINISH (R101) -/

theorem dispatch_idle {d : Dev} (h : d.lift.waiting = []) : d.dispatch = d := by
  have hn : d.nextItem = none := by
    rw [nextItem, List.findSome?_eq_none_iff]
    intro l _
    rw [h]
    rfl
  unfold dispatch
  rw [hn]
  split
  · rename_i hsome
    cases hsome
  · rfl

/-- An engine free again. -/
def engineFree (engine : Nat) (d : Dev) : Dev :=
  { d.setPerturb fun p => { p with lift := nerase p.lift engine } with
    lift := { d.lift with engines := d.lift.engines.modify engine (fun _ => none) } }

theorem liftFinish_prepare {d : Dev} {engine slot : Nat} {x : LiftItem} {e : CalEntry} (hx : d.lift.engines.get none engine = some x)
    (hf : x.failed = false) (hp : nget? d.perturb.lift engine = none) (hw : d.lift.waiting = []) (hj : x.job = .prepare slot)
    (he : d.entryAt slot = some e) : d.liftFinish engine =
      (d.engineFree engine).putCal { e with loads := e.loads.map fun l => if l.1 = 1 ∧ l.2.1 = 0 then (1, 0, 2) else l } := by
  have hus : nget 0 d.perturb.lift engine = 0 := by rw [nget, hp]; rfl
  have hdone : (d.engineFree engine).endItem x =
      (d.engineFree engine).putCal { e with loads := e.loads.map fun l => if l.1 = 1 ∧ l.2.1 = 0 then (1, 0, 2) else l } := by
    rw [endItem, hf, hj]
    show (d.engineFree engine).loadDone slot 1 0 = _
    rw [loadDone, show (d.engineFree engine).entryAt slot = some e from he]
    rfl
  unfold liftFinish
  rw [hx]
  dsimp only
  rw [hus, if_pos rfl, if_neg (by simp)]
  change ((d.engineFree engine).endItem x).dispatch = _
  rw [hdone]
  exact dispatch_idle hw

/-! ### MIRROR_WRITE (R436) -/

theorem setPairState_keepsRegs (st : Nat) (d : Dev) : KeepsRegs [Reg.pairState.key] d (d.setPairState st) := by
  unfold setPairState
  split
  · exact .refl _ d
  · exact ((KeepsRegs.refl _ d).setNat _ _ _ _ (.head _)).told (told_notice _ _ _)

/-- The entries that entering state 5 writes. -/
def catchupKeys : List Nat := [Reg.pairState.key, Reg.catchupStage.key, Reg.agreeRun.key, Reg.historyHorizon.key]

theorem standbyFalls_keepsRegs (stage : Nat) (d : Dev) : KeepsRegs catchupKeys d (d.standbyFalls stage) := by
  unfold standbyFalls enterCatchup
  split
  · split
    · exact .refl _ d
    · have hstate : KeepsRegs catchupKeys d (d.setPairState 5) := (setPairState_keepsRegs 5 d).mono (by simp [catchupKeys])
      exact (((hstate.setNat Reg.catchupStage _ _ _ (by simp [catchupKeys])).setNat Reg.agreeRun _ _ _ (by simp [catchupKeys])).setNat
        Reg.historyHorizon _ _ _ (by simp [catchupKeys])).of_regs rfl
  · exact .refl _ d

theorem goStale_mirrorStale (d : Dev) : d.goStale.flag Reg.mirrorStale = true := by
  rw [goStale, flag, (standbyFalls_keepsRegs 1 _).nat _ _ _ (by decide) (by decide)]
  exact flag_setFlag_same _ _ _ _

theorem tellPartner_leaves (code : Nat) (body : Octets) (d : Dev) :
    KeepsRegs [Reg.dradaCreditStalls.key 2] d (d.tellPartner code body) ∧ (d.tellPartner code body).power = d.power := by
  unfold tellPartner
  split
  · exact ⟨.refl _ d, rfl⟩
  · exact ⟨sendCell_keepsRegs _ _ _ _ _ _ _ _ _, (sendCell_leaves _ _ _ _ _ _ _ _ _).power⟩

/-- The fold of one write at a standby. -/
theorem mirrorWrite_single {d : Dev} {mem : List Host.Cell} {id : Nat} {w : Nat × Nat × Octets} (hl : d.lone = false) (hp : d.nat Reg.pairState = 6) :
    d.mirrorWrite mem id [w] = match d.mirrorApply mem w with
      | some e => (e.tellPartner 5 (toBE 4 id)).afterResponse
      | none => d.goStale := by
  unfold mirrorWrite
  rw [hl, hp]
  rfl

theorem mirrorWrite_lone {d : Dev} (h : d.lone = true) (mem : List Host.Cell) (id : Nat) (w : List (Nat × Nat × Octets)) : d.mirrorWrite mem id w = d := by
  rw [mirrorWrite, h]
  rfl

end Dev

/-- MIRROR_WRITE completes with its effect. -/
theorem mirrorWrite_completes {s : State} {id : Nat} {w : List (Nat × Nat × Octets)} {P : Dev → Prop} (ha : s.dev.answers = true)
    (hp : P (s.dev.mirrorWrite s.mem id w)) : Completes (.mirrorWrite id w) s P := ⟨_, if_pos ha, rfl, rfl, hp⟩

/-- Settles O45: the cases of each command, by the lemma on what it does there. -/
theorem replayLiftAndMirror : Obligations.ReplayLiftAndMirror := by
  intro s ha
  refine ⟨fun unit hu hh hold hj => ?_, fun own unit seq hl => ?_, fun engine hn => ?_, fun engine x slot e hx hf hp hw hj he hs => ?_, fun hw => ?_,
    fun x hw hx hr hn => ?_, fun id w e hl hp hw hreset hoff => ?_, fun id w hl hp hw => ?_, fun id w hl => ?_⟩
  · have hlead : s.dev.isLead = true := (Bool.and_eq_true_iff.1 hh).2
    refine up_completes rfl ha ?_
    rw [if_pos (by rw [hlead, hh]; rfl)]
    exact Dev.journalReplay_current_spec hu hold hj rfl
  · refine up_completes rfl ha ?_
    rw [if_neg (by rw [hl]; simp)]
  · refine up_completes rfl ha ?_
    rw [Dev.liftFinish, hn]
  · refine up_completes rfl ha ?_
    rw [Dev.liftFinish_prepare hx hf hp hw hj he]
    subst hs
    exact ⟨rfl, rfl, congrArg (Option.map fun e : CalEntry => e.loads) (nget?_nput_same _ _ _)⟩
  · exact up_completes rfl ha (Dev.liftAge_none hw)
  · exact up_completes rfl ha (Dev.liftAge_tells hw hx hr hn)
  · refine mirrorWrite_completes ha ?_
    obtain ⟨hkeep, hpower⟩ := Dev.tellPartner_leaves 5 (toBE 4 id) e
    rw [Dev.mirrorWrite_single hl hp, hw]
    dsimp only
    rw [Dev.afterResponse_none (by rw [hpower, hreset]) (by rw [hpower, hoff])]
    exact hkeep
  · refine mirrorWrite_completes ha ?_
    rw [Dev.mirrorWrite_single hl hp, hw]
    exact Dev.goStale_mirrorStale _
  · exact mirrorWrite_completes ha (Dev.mirrorWrite_lone hl _ _ _)

end Sys2Proof.Machine
end

