-- ==== Sys2Proof/Proofs/CalendarPrepare.lean ====
section
/-! PREPARE_START, PREPARE_ANSWER, PREPARE_DEADLINE and FIR_FADE_ASSIGN for an entry that a lone module coordinates and alone takes part in
(R85 to R87, R218, R220). -/

namespace Sys2Proof.Machine

namespace Dev

/-! ### The calendar of a module without a partner -/

@[simp] theorem entryAt_putCal (e : CalEntry) (d : Dev) : (d.putCal e).entryAt e.slot = some e := nget?_nput_same _ _ _

theorem entryAt_of_cal {d d' : Dev} (h : d'.cal = d.cal) (slot : Nat) : d'.entryAt slot = d.entryAt slot := by rw [entryAt, h, entryAt]

@[simp] theorem bump_cal (d : Dev) (r : Row) (i n : Nat) : (d.bump r i n).cal = d.cal := by unfold bump; split <;> rfl

@[simp] theorem bump_heldEnds (d : Dev) (r : Row) (i n : Nat) : (d.bump r i n).heldEnds = d.heldEnds := by unfold bump; split <;> rfl

@[simp] theorem bump_corr (d : Dev) (r : Row) (i n : Nat) : (d.bump r i n).corr = d.corr := by unfold bump; split <;> rfl

theorem told_noticeWith (code idx sub arg : Nat) (ext : Octets) (d : Dev) : Told d (d.noticeWith code idx sub arg ext) :=
  (((told_offerNotice _ d).trans (told_fifoPushExt _ _ _)).trans (told_logQueue _ _)).trans (told_logPressure _)

theorem ownUnit_of_told {d d' : Dev} (h : Told d d') : d'.ownUnit = d.ownUnit := by
  rw [ownUnit, unitId, h.drada, h.nat _ _ _ (by decide)]
  rfl

theorem copyEntry_lone {d : Dev} (h : d.lone = true) (e : CalEntry) : d.copyEntry e = d := tellStandby_none _ d (.inl h)

/-- An entry in which this module alone takes part is told to no other unit. -/
theorem tellOthers_own {d : Dev} {e : CalEntry} (h : d.lone = true) (hp : e.participants = [d.ownUnit]) (m : CalMsg) : d.tellOthers e m = d := by
  rw [tellOthers, hp, List.foldl_cons, if_pos rfl, List.foldl_nil]
  exact tellStandby_none m d (.inl h)

/-- With no BLOCK_END that waits for an outcome none is answered. -/
theorem answerHeld_none {d : Dev} (h : d.heldEnds = []) (e : CalEntry) : d.answerHeld e = d := by
  have hd : ({ d with heldEnds := [] } : Dev) = d := by rw [← h]
  unfold answerHeld
  rw [h]
  exact hd

/-! ### An entry refused (R83 to R87) -/

/-- A refused entry in its slot, counted in EntriesRefused. -/
structure RefusedWith (d d' : Dev) (slot : Nat) (answers : List (Nat × Nat)) : Prop where
  entry : (d'.entryAt slot).map (fun x => (x.state, x.answers)) = some (.refused, answers)
  counted : d'.nat Reg.entriesRefused = (d.nat Reg.entriesRefused + 1) % 2 ^ 32

theorem settle_refused {d : Dev} {e : CalEntry} (hl : d.lone = true) (hh : d.heldEnds = []) (hf : e.foreign = false) :
    RefusedWith d (d.settle e .refused) e.slot e.answers := by
  unfold settle
  extract_lets x y d1 d2 d3
  have hd1 : d1 = d.releaseEntry y := if_neg (by decide)
  have hd3 : d3 = d2.bump Reg.entriesRefused := if_pos rfl
  have ht : Told d3 (d3.tellOutcome y) := told_noticeWith _ _ _ _ _ d3
  have hslot : d3.entryAt e.slot = some { y with reserved := 0 } := by
    rw [hd3, entryAt_of_cal (bump_cal _ _ _ _)]
    exact entryAt_putCal { y with reserved := 0 } d1
  have hcount : d3.nat Reg.entriesRefused = (d.nat Reg.entriesRefused + 1) % 2 ^ 32 := by
    have hd2 : d2.nat Reg.entriesRefused = d.nat Reg.entriesRefused := by
      rw [show d2 = (d1.putCal { y with reserved := 0 }).setNat Reg.lastOutcome _ from rfl, nat_setNat_ne _ _ _ _ _ _ _ _ (by decide), hd1]
      rfl
    rw [hd3, nat_bump_same, hd2]
    rfl
  have hheld : (d3.tellOutcome y).heldEnds = [] := by
    rw [ht.heldEnds, hd3, bump_heldEnds, show d2.heldEnds = d1.heldEnds from rfl, hd1]
    exact hh
  have hlone : (d3.tellOutcome y).lone = true := by
    rw [lone, ht.power, hd3, bump_power, show d2.power = d1.power from rfl, hd1]
    exact hl
  rw [if_neg (by rw [show y.foreign = e.foreign from rfl, hf]; simp), answerHeld_none hheld, copyEntry_lone hlone]
  refine ⟨?_, (ht.nat _ _ _ (by decide)).trans hcount⟩
  rw [entryAt_of_cal ht.cal, hslot]
  rfl

/-- An entry of the own calendar, not handed on, in which this module alone takes part. -/
structure OwnEntry (d : Dev) (e : CalEntry) : Prop where
  own : e.slot < 1024
  kept : e.handed = false
  alone : e.participants = [d.ownUnit]

theorem OwnEntry.foreign {d : Dev} {e : CalEntry} (h : OwnEntry d e) : e.foreign = false := decide_eq_false (Nat.not_le.2 h.own)

theorem OwnEntry.told {d d' : Dev} {e : CalEntry} (h : OwnEntry d e) (ht : Told d d') : OwnEntry d' e :=
  ⟨h.own, h.kept, h.alone.trans (by rw [ownUnit_of_told ht])⟩

/-- After notices, an entry that no other unit takes part in is refused. -/
theorem refused_told {d d' : Dev} {e : CalEntry} (hl : d.lone = true) (hh : d.heldEnds = []) (he : OwnEntry d e) (ht : Told d d') (m : CalMsg) :
    RefusedWith d ((d'.tellOthers e m).settle e .refused) e.slot e.answers := by
  have hlone : d'.lone = true := by rw [lone, ht.power]; exact hl
  rw [tellOthers_own hlone (he.told ht).alone]
  obtain ⟨hentry, hcount⟩ := settle_refused hlone (ht.heldEnds.trans hh) he.foreign
  exact ⟨hentry, hcount.trans (by rw [ht.nat _ _ _ (by decide)])⟩

theorem refuseEntry_own {d : Dev} {e : CalEntry} (hl : d.lone = true) (hh : d.heldEnds = []) (he : OwnEntry d e) (ha : e.answers = []) (u cause : Nat) :
    RefusedWith d (d.refuseEntry e u cause) e.slot [(u, cause)] := by
  unfold refuseEntry
  extract_lets x d1
  have hx : x = { e with answers := [(u, cause)] } := by rw [show x = { e with answers := e.answers.filter _ ++ [(u, cause)] } from rfl, ha]; rfl
  have hd1 : d1 = d.notice 0xA402 (u * 65536 + cause) :=
    if_neg (by rw [show x.foreign = e.foreign from rfl, he.foreign, show x.handed = e.handed from rfl, he.kept]; simp)
  rw [hd1]
  have hfin := refused_told hl hh (e := x) ⟨he.own, he.kept, he.alone⟩ (told_notice 0xA402 (u * 65536 + cause) d) (.decision x.slot false 0)
  rwa [show x.answers = [(u, cause)] by rw [hx]] at hfin

/-- This module's own answer with a cause refuses an entry that it coordinates. -/
theorem ownAnswer_cause {d : Dev} {e : CalEntry} (hl : d.lone = true) (hh : d.heldEnds = []) (he : OwnEntry d e) (ha : e.answers = []) {code : Nat}
    (hc : code ≠ 0) : RefusedWith d (d.ownAnswer e code) e.slot [(d.ownUnit, code)] := by
  rw [ownAnswer, if_pos (by rw [he.foreign, he.kept]; rfl), answered, if_pos hc]
  exact refuseEntry_own hl hh he ha _ _

/-- Its answer without a cause prepares it. -/
theorem ownAnswer_prepared {d : Dev} {e : CalEntry} (he : OwnEntry d e) (ha : e.answers = []) (hs : e.state = .preparing) :
    d.ownAnswer e 0 = d.putCal { e with answers := [(d.ownUnit, 0)], state := .prepared } := by
  rw [ownAnswer, if_pos (by rw [he.foreign, he.kept]; rfl), answered, if_neg (by simp), ha]
  unfold checkPrepared
  rw [if_pos ⟨hs, by rw [he.alone]; simp⟩, tellState, if_neg (by rw [show CalEntry.handed _ = e.handed from rfl, he.kept]; simp)]
  rfl

/-! ### PREPARE_START (R85, R86) -/

theorem coordinates_own {d : Dev} {e : CalEntry} (hp : d.nat Reg.pairState = 0) (hf : e.foreign = false) (hk : e.handed = false) : d.coordinates e = true := by
  rw [coordinates, hp, hf, hk]
  decide

theorem reachMsc_past {d : Dev} {b : Nat} (h : b ≤ d.mscNow) : d.reachMsc b = some d := if_pos h

theorem tellState_own {d : Dev} {e : CalEntry} (hf : e.foreign = false) : d.tellState e = d := if_neg (by rw [hf]; simp)

/-- Where this module is the one participant, no other is told, and its own preparation begins. -/
theorem prepare_here {d : Dev} {x : CalEntry} (hf : x.foreign = false) (tell : Dev → Nat → Dev) :
    (let d' := [d.ownUnit].foldl (fun (d : Dev) u => if u = d.ownUnit then d else tell d u) ((d.putCal x).tellState x)
      if [d.ownUnit].contains d'.ownUnit then d'.beginPrepare x else d'.checkPrepared x) = (d.putCal x).beginPrepare x := by
  dsimp only
  rw [tellState_own hf, List.foldl_cons, if_pos (show d.ownUnit = (d.putCal x).ownUnit from rfl), List.foldl_nil,
    if_pos (show [d.ownUnit].contains (d.putCal x).ownUnit = true from List.contains_iff_mem.2 (.head _))]

/-- A STAGED entry of this module alone begins its preparation at the moment of R85. -/
theorem prepareStart_begins {d : Dev} {slot : Nat} {e e' : CalEntry} (hp : d.nat Reg.pairState = 0) (hslot : slot < 1024)
    (he : d.entryAt slot = some e) (hes : e.slot = slot) (hk : e.handed = false) (hs : e.state = .staged)
    (hdue : max e.closedAt (e.date - d.nat Reg.calendarPrepareLead) ≤ d.mscNow)
    (hparts : (d.entryModules e).filter (fun u => d.nat Reg.unitState u = 2) = [d.ownUnit])
    (he' : e' = { e with state := .preparing, participants := [d.ownUnit] }) : d.prepareStart slot = (d.putCal e').beginPrepare e' := by
  have hf : e.foreign = false := decide_eq_false (by omega)
  have hf' : e'.foreign = false := by rw [he']; exact hf
  unfold prepareStart
  rw [he]
  dsimp only
  rw [if_neg (by simp [hs]), reachMsc_past hdue]
  dsimp only
  rw [if_neg (by rw [hf]; simp), if_neg (by rw [coordinates_own hp hf hk]; simp), hparts, he']
  exact prepare_here (by rw [← he']; exact hf') _

/-- Loads that are queued or done wait for no shadow. -/
theorem pushLoads_queued {d : Dev} {e : CalEntry} (h : ∀ l ∈ e.loads, l.2.2 ≠ 0) : d.pushLoads e = some (e, d) := by
  have fold : ∀ l : List (Nat × Nat × Nat), (∀ x ∈ l, x.2.2 ≠ 0) → l.foldl (fun (a : Option (CalEntry × Dev)) l => a.bind fun (x : CalEntry × Dev) =>
      if l.2.2 = 0 && x.2.shadowFree e l.1 l.2.1 then
        (x.2.liftPut? l.1 (loadFlow l.1 l.2.1) (.load e.slot l.1 l.2.1)).map fun (d : Dev) =>
          ({ x.1 with loads := x.1.loads.map fun (y : Nat × Nat × Nat) => if y = l then (l.1, l.2.1, 1) else y }, d)
      else some x) (some (e, d)) = some (e, d) := by
    intro l
    induction l with
    | nil => exact fun _ => rfl
    | cons x t ih =>
      intro hl
      rw [List.foldl_cons, Option.bind_some, if_neg (by simp [hl x (.head _)])]
      exact ih fun y hy => hl y (.tail _ hy)
  exact fold e.loads h

/-- In FAULT a prepare is refused with cause 4. -/
theorem beginPrepare_fault {d : Dev} {e : CalEntry} (hpower : d.power.state = .fault) (hl : d.lone = true) (hh : d.heldEnds = []) (he : OwnEntry d e)
    (ha : e.answers = []) : RefusedWith d (d.beginPrepare e) e.slot [(d.ownUnit, 4)] := by
  rw [beginPrepare, if_pos (by rw [hpower]; rfl)]
  exact ownAnswer_cause hl hh he ha (by decide)

/-- A prepare with nothing to load beside its own item takes its places and is PREPARING. -/
theorem beginPrepare_plain {d d1 : Dev} {e : CalEntry} (hpower : d.power.state = .quiet ∨ d.power.state.runs = true) (hslot : e.slot < 1024)
    (hs : e.state = .preparing) (hjoint : d.jointCheck e = true) (htx : elemsOf (d.changesHere e) touchesTx = [])
    (hloads : (d.changesHere e).flatMap loadsOf = []) (hput : d.liftPut? 1 (e.slot % 256) (.prepare e.slot) = some d1)
    (hroom : d1.liftRoom (d1.kindLevel 1) = true) :
    d.beginPrepare e = ({ d1 with lift := { d1.lift with reservedItems := d1.lift.reservedItems + 1 } }).putCal
      { e with reserved := 1, loads := [(1, 0, 1)] } := by
  have hup : (d.power.state == .quiet || d.power.state.runs) = true := by
    rcases hpower with h | h <;> rw [h] <;> simp
  have hload : d.loadCheck e = (true, d) := by rw [loadCheck, htx]; rfl
  unfold beginPrepare
  rw [if_neg (by rw [hup]; simp), if_neg (by rw [hjoint]; simp), hload]
  dsimp only
  rw [if_neg (by simp), hloads, Nat.mod_eq_of_lt hslot, hput]
  dsimp only
  rw [if_neg (by rw [hroom]; simp), pushLoads_queued (by simp), ← hs]
  rfl

/-! ### PREPARE_ANSWER and PREPARE_DEADLINE (R86, R87) -/

/-- An entry whose loads are all done is answered: with cause 3 where a spectrum was ready too late for its fade. -/
theorem prepareAnswer_done {d : Dev} {e : CalEntry} (he : d.entryAt e.slot = some e) (hs : e.state = .preparing) (hl : e.loads ≠ [])
    (hd : ∀ l ∈ e.loads, l.2.2 = 2) (ha : e.answers = []) : d.prepareAnswer e.slot =
      if (e.loads.any fun l => l.1 == 5) && decide (e.date < e.spectraAt + 2 * d.bMax) then d.ownAnswer e 3 else d.ownAnswer e 0 := by
  have hall : (e.loads.all fun l => l.2.2 == 2) = true := List.all_eq_true.2 fun l h => beq_iff_eq.2 (hd l h)
  unfold prepareAnswer
  rw [he]
  dsimp only
  rw [if_neg (by simp [hs, hl, ha]), pushLoads_queued fun l h => by rw [hd l h]; decide]
  dsimp only
  rw [if_neg (by rw [hall]; simp)]

/-- At the deadline a PREPARED entry is decided. -/
theorem prepareDeadline_decides {d : Dev} {e : CalEntry} (hp : d.nat Reg.pairState = 0) (hl : d.lone = true) (he : d.entryAt e.slot = some e)
    (ho : OwnEntry d e) (hd : e.decided = false) (hdue : e.date - 32 ≤ d.mscNow) (hs : e.state = .prepared) (hdate : d.mscNow ≤ e.date) :
    d.prepareDeadline e.slot = d.putCal { e with decided := true } := by
  unfold prepareDeadline
  rw [he]
  dsimp only
  rw [if_neg (by rw [coordinates_own hp ho.foreign ho.kept, hd, hs]; decide), reachMsc_past hdue]
  dsimp only
  rw [if_pos ⟨hs, hdate⟩]
  exact tellOthers_own (d := d.putCal _) hl ho.alone _

/-- One without an answer of this module is refused with cause 3. -/
theorem prepareDeadline_refuses {d : Dev} {e : CalEntry} (hp : d.nat Reg.pairState = 0) (hl : d.lone = true) (hh : d.heldEnds = [])
    (he : d.entryAt e.slot = some e) (ho : OwnEntry d e) (hd : e.decided = false) (hdue : e.date - 32 ≤ d.mscNow) (hs : e.state = .preparing)
    (ha : e.answers = []) : RefusedWith d (d.prepareDeadline e.slot) e.slot [(d.ownUnit, 3)] := by
  unfold prepareDeadline
  rw [he]
  dsimp only
  rw [if_neg (by rw [coordinates_own hp ho.foreign ho.kept, hd, hs]; decide), reachMsc_past hdue]
  dsimp only
  rw [if_neg (by rw [hs]; simp), ho.alone, ha, show ([d.ownUnit].filter fun u => !(([] : List (Nat × Nat)).any fun a => a.1 = u)) = [d.ownUnit] from rfl,
    List.map_singleton, if_pos rfl, List.foldl_cons, List.foldl_nil, List.nil_append]
  exact refused_told (e := { e with participants := [d.ownUnit], answers := [(d.ownUnit, 3)] }) hl hh ⟨ho.own, ho.kept, rfl⟩ (told_notice _ _ d) _

/-! ### FIR_FADE_ASSIGN (R220) -/

/-- The one ready change of a boundary is the one that fades are assigned to. -/
theorem firAssign_single {d : Dev} {date slot m : Nat} {e : CalEntry} (hdue : date - 2 * d.bMax = d.mscNow) (ht : d.timer 0x7A01 ≠ date)
    (hc : d.cal.entries = [(slot, e)]) (hs : e.state = .prepared) (hd : e.date = date) (hl : e.loads = [(5, m, 2)])
    (hf : (d.corr.fades.any fun a => a.output == m && a.date == date) = false) :
    d.firAssign date = (d.setTimer 0x7A01 date).firFadeAssign date [m] := by
  unfold firAssign
  rw [reachMsc_past hdue.le]
  dsimp only
  rw [if_neg (by simp [hdue, ht]), setTimer_cal, hc, setTimer_corr]
  simp [CalEntry.waits, hs, hd, hl, hf, nput, nins]

/-- A change takes a fade place and the lowest free slot while FirFadeLimit allows. -/
theorem firFadeAssign_room {d : Dev} (date m : Nat) (h : d.fadesHeld < d.fadeLimit) :
    d.firFadeAssign date [m] = { d with corr := { d.corr with fades := d.corr.fades ++ [{ output := m, date, slot := d.freeSlot, ends := none }] } } := by
  unfold firFadeAssign
  rw [List.foldl_cons, if_pos h]
  rfl

/-- Else it is a cut. -/
theorem firFadeAssign_cut {d : Dev} (date m : Nat) (h : d.fadeLimit ≤ d.fadesHeld) :
    d.firFadeAssign date [m] = (d.bump Reg.firFadeCuts 0 1).notice 0x7A01 1 := by
  unfold firFadeAssign
  rw [List.foldl_cons, if_neg (Nat.not_lt.2 h)]
  rfl

end Dev

/-- Settles O43: what each command makes of the entry, and how an entry is refused. -/
theorem calendarPrepare : Obligations.CalendarPrepare := by
  intro s ha hl hp hh
  refine ⟨fun slot e he hs => ?_, fun slot e e' hslot he hes hk hs hdue hparts he' => ⟨fun hfault hans => ?_,
      fun d1 hpower hjoint htx hloads hput hroom => ?_⟩,
    fun slot e hslot he hes hk hs hne hdone halone hans => ⟨fun hfir => ?_, fun hfir hlate => ?_⟩,
    fun slot e hslot he hes hk hd halone hdue => ⟨fun hs hdate => ?_, fun hs hans => ?_⟩,
    fun date slot e m hdue ht hc hs hd hloads hf => ⟨fun hroom => ?_, fun hfull => ?_⟩⟩ <;> refine up_completes rfl ha ?_
  · rw [Dev.prepareStart, he]
    exact if_pos hs
  · rw [Dev.prepareStart_begins hp hslot he hes hk hs hdue hparts he']
    have hes' : e'.slot = slot := by rw [he', ← hes]
    have hown : Dev.OwnEntry (s.dev.putCal e') e' := ⟨hes' ▸ hslot, by rw [he']; exact hk, by rw [he']; rfl⟩
    obtain ⟨hentry, hcount⟩ := Dev.beginPrepare_fault (d := s.dev.putCal e') hfault hl hh hown (by rw [he']; exact hans)
    rw [hes'] at hentry
    exact ⟨hentry, hcount⟩
  · rw [Dev.prepareStart_begins hp hslot he hes hk hs hdue hparts he']
    have hes' : e'.slot = slot := by rw [he', ← hes]
    have hs' : e'.state = .preparing := by rw [he']
    rw [← hes'] at hslot hput ⊢
    rw [Dev.beginPrepare_plain (d := s.dev.putCal e') hpower hslot hs' hjoint htx hloads hput hroom]
    exact ⟨nget?_nput_same _ _ _, rfl⟩
  · subst hes
    have hfade : ¬ ((e.loads.any fun l => l.1 == 5) && decide (e.date < e.spectraAt + 2 * s.dev.bMax)) = true := by
      rw [Bool.and_eq_true, List.any_eq_true, decide_eq_true_iff]
      rintro ⟨⟨l, hmem, h5⟩, hlate⟩
      exact hfir.elim (fun h => h l hmem (beq_iff_eq.1 h5)) (fun h => absurd hlate (Nat.not_lt.2 h))
    rw [Dev.prepareAnswer_done he hs hne hdone hans, if_neg hfade, Dev.ownAnswer_prepared ⟨hslot, hk, halone⟩ hans hs]
    exact ⟨nget?_nput_same _ _ _, rfl⟩
  · subst hes
    obtain ⟨l, hmem, h5⟩ := hfir
    rw [Dev.prepareAnswer_done he hs hne hdone hans, if_pos (by
      rw [Bool.and_eq_true, List.any_eq_true, decide_eq_true_iff]
      exact ⟨⟨l, hmem, beq_iff_eq.2 h5⟩, hlate⟩)]
    obtain ⟨hentry, hcount⟩ := Dev.ownAnswer_cause hl hh ⟨hslot, hk, halone⟩ hans (code := 3) (by decide)
    exact ⟨hentry, hcount⟩
  · subst hes
    rw [Dev.prepareDeadline_decides hp hl he ⟨hslot, hk, halone⟩ hd hdue hs hdate]
    exact ⟨nget?_nput_same _ _ _, rfl⟩
  · subst hes
    obtain ⟨hentry, hcount⟩ := Dev.prepareDeadline_refuses hp hl hh he ⟨hslot, hk, halone⟩ hd hdue hs hans
    exact ⟨hentry, hcount⟩
  · rw [Dev.firAssign_single hdue ht hc hs hd hloads hf, Dev.firFadeAssign_room (d := s.dev.setTimer 0x7A01 date) _ _ hroom]
    exact ⟨rfl, rfl⟩
  · rw [Dev.firAssign_single hdue ht hc hs hd hloads hf, Dev.firFadeAssign_cut (d := s.dev.setTimer 0x7A01 date) _ _ hfull]
    have htold := Dev.told_notice 0x7A01 1 ((s.dev.setTimer 0x7A01 date).bump Reg.firFadeCuts 0 1)
    refine ⟨htold.corr.trans (Dev.bump_corr _ _ _ _), (htold.nat _ _ _ (by decide)).trans (Dev.nat_bump_same _ _ _ _), ?_⟩
    exact (((Dev.KeepsRegs.refl _ s.dev).of_regs (Dev.setTimer_regs _ _ _)).bump Reg.firFadeCuts 0 1 (.head _)).told htold

end Sys2Proof.Machine
end

