-- ==== Sys2Proof/Proofs/LinkTime.lean ====
section
/-! The TIME exchange of a Drada link: what its start and its answer leave (R478). -/

namespace Sys2Proof.Machine

namespace Dev

/-- An entry outside a frame reads as before. -/
theorem KeepsRegs.int {ks : List Nat} {d d' : Dev} (h : KeepsRegs ks d d') (r : Row) (i j : Nat) (hk : r.key i j ∉ ks)
    (ht : r.key i j ∉ tellKeys) : d'.int r i j = d.int r i j := by
  simp [Dev.int, Dev.val, nget, h _ hk ht]

theorem nat_setInt_ne (d : Dev) (r r' : Row) (v : Int) (i j i' j' : Nat) (h : r'.key i' j' ≠ r.key i j) :
    (d.setInt r v i j).nat r' i' j' = d.nat r' i' j' := by simp only [nat, int, setInt]; rw [val_setVal_ne _ _ _ _ _ _ _ _ h]

/-! ### What an answer calls for: sources, the servo, a realignment (R330, R334, R344) -/

/-- The entries that the consequences of a TIME answer may write. -/
def servoKeys : List Nat :=
  [Reg.dradaOverBudget.key, Reg.selectedSource.key, Reg.dpllState.key, Reg.sourceSwitches.key, Reg.ptpMeanPathDelay.key, Reg.increment.key]

/-- `d'` is `d` after such consequences, as far as the links and the other entries go. -/
structure Steered (d d' : Dev) : Prop where
  drada : d'.drada = d.drada
  regs : KeepsRegs servoKeys d d'

namespace Steered

variable {a b c : Dev}

theorem refl (d : Dev) : Steered d d := ⟨rfl, .refl _ d⟩

theorem trans (h : Steered a b) (h' : Steered b c) : Steered a c := ⟨h'.drada.trans h.drada, h.regs.trans h'.regs⟩

theorem told (h : Steered a b) (ht : Told b c) : Steered a c := ⟨ht.drada.trans h.drada, h.regs.told ht⟩

theorem of_eq (h : Steered a b) (hd : c.drada = b.drada) (hr : c.regs = b.regs) : Steered a c := ⟨hd.trans h.drada, h.regs.of_regs hr⟩

theorem setNat (h : Steered a b) (r : Row) (v : Nat) (hk : r.key ∈ servoKeys) : Steered a (b.setNat r v) := ⟨h.drada, h.regs.setNat r v 0 0 hk⟩

theorem bump (h : Steered a b) (r : Row) (hk : r.key ∈ servoKeys) : Steered a (b.bump r) := ⟨(bump_drada _ _ _ _).trans h.drada, h.regs.bump r 0 1 hk⟩

theorem setAlm (h : Steered a b) (f : Almanac → Almanac) : Steered a (b.setAlm f) := h.of_eq rfl rfl

end Steered

theorem steered_realignDue (d : Dev) : Steered d d.realignDue := ⟨realignDue_drada d, realignDue_keepsRegs _ d⟩

theorem steered_switchSource (new : Nat) (d : Dev) : Steered d (d.switchSource new) := by
  unfold switchSource
  dsimp only
  split
  · exact (Steered.refl d).setNat _ _ (by decide)
  · have hset : Steered d ((d.setNat Reg.selectedSource new).setNat Reg.dpllState 1) :=
      ((Steered.refl d).setNat Reg.selectedSource new (by decide)).setNat Reg.dpllState 1 (by decide)
    exact ((hset.bump Reg.sourceSwitches (by decide)).told (told_notice _ _ _)).setAlm _

theorem steered_sourceGained (code : Nat) (d : Dev) : Steered d (d.sourceGained code) := by
  have hd : Steered d (d.setAlm fun a => { a with qualifiedAt := nput a.qualifiedAt code d.clock }) := (Steered.refl d).setAlm _
  unfold sourceGained
  dsimp only
  split
  · split
    · exact hd.trans (steered_switchSource _ _)
    · exact hd
  · exact hd

theorem steered_setInc (inc : Nat) (d : Dev) : Steered d (d.setInc inc) := by
  unfold setInc
  split
  · exact ((Steered.refl d).setAlm _).setNat Reg.increment inc (by decide)
  · exact (Steered.refl d).setAlm _

theorem steered_steer (c theta : Int) (d : Dev) : Steered d (d.steer c theta) := by
  unfold steer
  extract_lets big run d1 d2 a i
  have hd1 : Steered d d1 := (Steered.refl d).setAlm _
  have hd2 : Steered d d2 := by
    unfold d2
    split
    · split
      · exact hd1.trans (steered_realignDue d1)
      · exact hd1
    · exact .refl d
  split
  · have hsn : Steered d (d2.setSn a) := hd2.of_eq rfl rfl
    exact (hsn.setAlm _).setNat Reg.ptpMeanPathDelay 0 (by decide)
  · exact (hd2.setAlm _).trans (steered_setInc _ _)

/-! ### The answer -/

/-- What the answer to the outstanding request writes: path delay, offset, and the exchange closed. -/
def timeAnswered (path theta : Int) (run : Nat) (d : Dev) : Dev :=
  ((d.setNat Reg.dradaPathDelay (min (rsh 32 path).toNat 0xFFFFFFFF) 0).setInt Reg.dradaTimeOffset (satS 32 (rsh 32 theta)) 0).setDlink 0
    fun l => { l with timeSent := none, timeMissed := 0, timeGood := run }

/-- An answer to the outstanding request writes that, and then the servo follows. -/
theorem timeAnswer_steers {d : Dev} {t1 t2 t3 msc : Nat} {path : Int} (hs : (d.dlink 0).timeSent = some t1)
    (hp : path = rdiv (((t2 : Int) - t1) + ((d.almNow : Int) - t3)) 2 + d.int Reg.dradaAsymmetry 0 * nsUnit) :
    ∃ run, Steered (d.timeAnswered path ((d.almNow : Int) - t3 - path) run) (d.timeAnswer t1 t2 t3 msc) := by
  unfold timeAnswer
  split
  next h => exact absurd (hs.symm.trans h) (by simp)
  next sent h =>
  obtain rfl : t1 = sent := Option.some.inj (hs.symm.trans h)
  rw [if_neg (not_not_intro rfl)]
  extract_lets t4 path' theta ns good run d1 d2 d3 d4
  subst hp
  refine ⟨run, ?_⟩
  have h1 : Steered d1 d2 := by
    unfold d2
    split
    · exact ((Steered.refl d1).bump Reg.dradaOverBudget (by decide)).told (told_notice _ _ _)
    · exact .refl d1
  have h2 : Steered d2 d3 := by
    unfold d3
    split
    · exact ((Steered.refl d2).setAlm _).trans (steered_sourceGained _ _)
    · exact .refl d2
  have h3 : Steered d3 d4 := by
    unfold d4
    split
    · exact steered_steer _ _ _
    · exact .refl d3
  have h4 : Steered (d.timeAnswered path' theta run) d4 := h1.trans (h2.trans h3)
  split
  · exact h4.trans (steered_realignDue d4)
  · exact h4

theorem timeAnswer_spec {d e : Dev} {t1 t2 t3 msc : Nat} {path : Int} (hs : (d.dlink 0).timeSent = some t1)
    (hp : path = rdiv (((t2 : Int) - t1) + ((d.almNow : Int) - t3)) 2 + d.int Reg.dradaAsymmetry 0 * nsUnit) (he : d.timeAnswer t1 t2 t3 msc = e) :
    (e.dlink 0).timeSent = none ∧ e.int Reg.dradaTimeOffset 0 = satS 32 (rsh 32 ((d.almNow : Int) - t3 - path)) ∧
      e.nat Reg.dradaPathDelay 0 = min (rsh 32 path).toNat 0xFFFFFFFF := by
  obtain ⟨run, hdrada, hregs⟩ := timeAnswer_steers (msc := msc) hs hp
  rw [he] at hdrada hregs
  refine ⟨?_, ?_, ?_⟩
  · rw [dlink, hdrada]
    exact congrArg DradaLink.timeSent (setDlink_dlink_same _ _ _ (by decide))
  · rw [hregs.int _ _ _ (by decide) (by decide)]
    exact int_setInt_same _ _ _ _ _
  · rw [hregs.nat _ _ _ (by decide) (by decide), timeAnswered, nat_congr (setDlink_regs _ _ _), nat_setInt_ne _ _ _ _ _ _ _ _ (by decide), nat_setNat_same]

/-! ### The start of an exchange -/

@[simp] theorem bump_almNow (d : Dev) (r : Row) (i n : Nat) : (d.bump r i n).almNow = d.almNow := by unfold bump; split <;> rfl

@[simp] theorem bump_dlink (d : Dev) (r : Row) (i n k : Nat) : (d.bump r i n).dlink k = d.dlink k := by rw [dlink, bump_drada, dlink]

/-- A field of a link that an update keeps reads as before. -/
theorem setDlink_field {α : Type} {k : Nat} (hk : k < 3) (p : DradaLink → α) {f : DradaLink → DradaLink} (hf : ∀ l, p (f l) = p l) (d : Dev) :
    p ((d.setDlink k f).dlink k) = p (d.dlink k) := by rw [setDlink_dlink_same _ _ _ hk, hf]

/-- A field of its link that a leaving cell does not concern reads as before. -/
theorem launchCell_field {α : Type} {k : Nat} (hk : k < 3) (p : DradaLink → α) (hf : ∀ l credits replay txSeq idle busyAt loadOctets,
    p { l with credits, replay, txSeq, idle, busyAt, loadOctets } = p l) (vc type : Nat) (cell : Octets) (d : Dev) :
    p ((d.launchCell k vc type cell).dlink k) = p (d.dlink k) :=
  setDlink_field hk p (fun l => hf l _ _ _ _ _ _) d

/-- Sending a cell leaves Almanac time and the exchange of its link. -/
theorem sendCell_exchange {k : Nat} (hk : k < 3) (type : CellType) (dest arg : Nat) (payload : Octets) (d : Dev) :
    (d.sendCell k type dest arg payload).almNow = d.almNow ∧ ((d.sendCell k type dest arg payload).dlink k).timeSent = (d.dlink k).timeSent ∧
      ((d.sendCell k type dest arg payload).dlink k).timeMissed = (d.dlink k).timeMissed := by
  unfold sendCell
  split
  · exact ⟨rfl, rfl, rfl⟩
  · dsimp only
    split
    · rw [bump_almNow, bump_dlink]
      exact ⟨rfl, setDlink_field hk DradaLink.timeSent (by intro; rfl) d, setDlink_field hk DradaLink.timeMissed (by intro; rfl) d⟩
    · exact ⟨rfl, launchCell_field hk DradaLink.timeSent (by intros; rfl) _ _ _ d, launchCell_field hk DradaLink.timeMissed (by intros; rfl) _ _ _ d⟩

/-- The moment of a request noted, none of its forerunners missing. -/
def exchangeNoted (d : Dev) : Dev := d.setDlink 0 fun l => { l with timeMissed := 0, timeGood := l.timeGood, timeSent := some d.almNow }

theorem timeExchange_sends {d : Dev} (hup : d.nat Reg.dradaLinkState 0 = 2) (hs : (d.dlink 0).timeSent = none)
    (hr : d.Reaches (d.timerFrom 200 + msCycles 1)) : ∃ t : Dev, d.timeExchange = t.exchangeNoted.sendCell 0 .time 0xFFFF 1 (toBE 12 t.almNow) := by
  have hdlink : d.dlinkUp 0 = true := beq_iff_eq.2 hup
  unfold timeExchange
  rw [if_neg (by rw [hdlink]; simp)]
  obtain ⟨t, ht, -, -, -, hdrada⟩ := onPeriod_due 200 (msCycles 1) _ d hr
  have hnone : (t.dlink 0).timeSent = none := by rw [dlink, hdrada]; exact hs
  refine ⟨t, ht.trans ?_⟩
  dsimp only
  rw [hnone, Option.isSome_none, if_neg Bool.false_ne_true, if_neg (fun h => absurd h.1 (by decide))]
  rfl

theorem timeExchange_spec {d e : Dev} (hup : d.nat Reg.dradaLinkState 0 = 2) (hs : (d.dlink 0).timeSent = none)
    (hr : d.Reaches (d.timerFrom 200 + msCycles 1)) (he : d.timeExchange = e) :
    (e.dlink 0).timeSent = some e.almNow ∧ (e.dlink 0).timeMissed = 0 := by
  obtain ⟨t, ht⟩ := timeExchange_sends hup hs hr
  obtain ⟨halm, hsent, hmissed⟩ := sendCell_exchange (k := 0) (by decide) .time 0xFFFF 1 (toBE 12 t.almNow) t.exchangeNoted
  have hnoted : t.exchangeNoted.dlink 0 = _ := setDlink_dlink_same t 0 _ (by decide)
  rw [← he, ht, halm, hsent, hmissed, hnoted]
  exact ⟨rfl, rfl⟩

end Dev

end Sys2Proof.Machine
end

