-- ==== Sys2Proof/Proofs/CellEffects.lean ====
section
/-! What a Drada cell does that passes its checks, and what the link's timers do (R98, R434, R460 to R469, R477). -/

namespace Sys2Proof.Machine

namespace Dev

/-! ### FEED cells (R460, R468) -/

theorem sendCell_down {k : Nat} {d : Dev} (h : d.dlinkUp k = false) (type : CellType) (dest arg : Nat) (payload : Octets) (settled : Bool) (hops : Nat)
    (src : Option Nat) : d.sendCell k type dest arg payload settled hops src = d := if_pos (by rw [h]; rfl)

/-- One value of a FEED cell into the alignment buffer: a value already there is kept. -/
def writeFeed (first : Nat) (payload : Octets) (m : NMap Int) (i : Nat) : NMap Int :=
  if (nget? m (first + i)).isSome then m else nput m (first + i) (beAtS payload (8 + 4 * i) 4)

theorem writeFeed_present (first i : Nat) (payload : Octets) (m : NMap Int) : (nget? (writeFeed first payload m i) (first + i)).isSome = true := by
  unfold writeFeed
  split
  · assumption
  · rw [nget?_nput_same, Option.isSome_some]

theorem writeFeed_keeps {n : Nat} (first i : Nat) (payload : Octets) {m : NMap Int} (h : (nget? m n).isSome = true) :
    (nget? (writeFeed first payload m i) n).isSome = true := by
  by_cases hn : n = first + i
  · rw [hn]
    exact writeFeed_present first i payload m
  · unfold writeFeed
    split
    · exact h
    · rw [nget?_nput_ne _ _ hn, h]

/-- The values of a FEED cell that comes in time are present after it, for its date. -/
theorem writeFeeds_present {d : Dev} {date : Nat} (h : d.msc ≤ date) (first count : Nat) (payload : Octets) :
    (∀ i < count, (d.writeFeeds date first count payload).feedHere (first + i) date = true) ∧ (d.writeFeeds date first count payload).regs = d.regs := by
  unfold writeFeeds
  dsimp only
  rw [if_neg (by omega)]
  refine ⟨fun i hi => ?_, rfl⟩
  rw [feedHere, setDrada_drada]
  dsimp only
  rw [List.take_succ_cons, List.find?_cons_of_pos (by simp)]
  exact foldl_establishes (f := writeFeed first payload) (P := fun m => (nget? m (first + i)).isSome = true) (List.mem_range.2 hi)
    (writeFeed_present first i payload) (fun _ _ h => writeFeed_keeps _ _ _ h) _

theorem feedCell_below {d d1 : Dev} {w cell : Octets} (hr : (d.stompFeed 0 w).receiveCell 0 w = (d1, some cell)) (ht : beAt cell 0 1 = 1)
    (hh : d1.headsGroup = false) (hl : d1.lone = true) (h1 : d1.dlinkUp 1 = false) (h2 : d1.dlinkUp 2 = false) (h0 : 0 < beAt cell 12 4 % 65536)
    (h64 : beAt cell 12 4 % 65536 ≤ 64) : d.feedCell 0 w =
      d1.writeFeeds (beAt ((cell.drop 16).take (cell.length - 20)) 0 8) (beAt cell 12 4 / 65536) (beAt cell 12 4 % 65536)
        ((cell.drop 16).take (cell.length - 20)) := by
  have hlinks : d1.feedLinks 0 = [1, 2] := by rw [feedLinks, if_pos rfl, branchLinks, hl]; rfl
  unfold feedCell
  rw [hr]
  dsimp only
  rw [if_neg (by rw [ht, hh]; simp), hlinks, List.foldl_cons, forwardCell, sendCell_down h1, List.foldl_cons, forwardCell, sendCell_down h2,
    List.foldl_nil, if_neg (by omega)]

/-! ### TICK, CALENDAR and CONTROL cells (R87, R434) -/

theorem isLead_standby {d : Dev} (h : d.nat Reg.pairState = 6) : d.isLead = false := by
  rw [isLead, h]
  rfl

/-- A tick frame at a standby in state 6 ends DP's silence, and changes no more of the pair. -/
theorem tickFrame_pair {d : Dev} (hl : d.lone = false) (hp : d.nat Reg.pairState = 6) (f : TickFrame) :
    (d.tickFrame f).pair = { d.pair with lastFrame := some f.tick, silent := false } := by
  have fold : ∀ (l : List (Nat × Nat × List Nat)) (e : Dev), (l.foldl (fun d (x : Nat × Nat × List Nat) =>
      if d.nat Reg.tdmRole x.1 = 0 then d.tdmFromLead x.1 x.2.1 x.2.2 else d) e).pair = e.pair ∧ (l.foldl (fun d (x : Nat × Nat × List Nat) =>
      if d.nat Reg.tdmRole x.1 = 0 then d.tdmFromLead x.1 x.2.1 x.2.2 else d) e).regs = e.regs := by
    intro l
    induction l with
    | nil => exact fun _ => ⟨rfl, rfl⟩
    | cons x t ih =>
      intro e
      obtain ⟨hpair, hregs⟩ := ih (if e.nat Reg.tdmRole x.1 = 0 then e.tdmFromLead x.1 x.2.1 x.2.2 else e)
      refine ⟨hpair.trans ?_, hregs.trans ?_⟩ <;> split <;> rfl
  unfold tickFrame
  rw [if_neg (by rw [hl, isLead_standby hp]; simp)]
  extract_lets d2 lead pool d3 d4
  obtain ⟨hpair, hregs⟩ := fold f.tdm d3
  rw [if_neg (by rw [show d4.nat Reg.pairState = 6 from (nat_congr hregs _ _ _).trans hp]; simp)]
  exact hpair

/-- A cancelled copy of another coordinator's entry is gone. -/
theorem calMessage_cancel {d : Dev} (hl : d.lone = true) (slot : Nat) :
    (d.calMessage false (.cancel slot)).entryAt (foreignSlot slot) = none ∧ (d.calMessage false (.cancel slot)).regs = d.regs := by
  unfold calMessage
  dsimp only
  rw [if_neg Bool.false_ne_true, tellStandby_none _ d (.inl hl), show slotHere false slot = foreignSlot slot from rfl]
  cases he : d.entryAt (foreignSlot slot) with
  | none => exact ⟨he, rfl⟩
  | some e => exact ⟨nget?_nerase_same _ _, rfl⟩

/-! ### The lead's counters (R68, R434) -/

/-- A big-endian number fits its octets. -/
theorem fromBE_lt (l : Octets) : fromBE l < 256 ^ l.length := by
  have fold : ∀ (l : Octets) (a : Nat), l.foldl (fun a b => a * 256 + b.toNat) a < (a + 1) * 256 ^ l.length := by
    intro l
    induction l with
    | nil => intro a; simp
    | cons b t ih =>
      intro a
      have hb : a * 256 + b.toNat + 1 ≤ (a + 1) * 256 := by have := b.isLt; omega
      calc (b :: t).foldl (fun a b => a * 256 + b.toNat) a
        _ < (a * 256 + b.toNat + 1) * 256 ^ t.length := ih _
        _ ≤ (a + 1) * 256 * 256 ^ t.length := Nat.mul_le_mul_right _ hb
        _ = (a + 1) * 256 ^ (b :: t).length := by rw [List.length_cons, pow_succ]; ring
  simpa [fromBE] using fold l 0

theorem beAt_lt (l : Octets) (off n : Nat) : beAt l off n < 256 ^ n :=
  (fromBE_lt _).trans_le (Nat.pow_le_pow_right (by decide) (List.length_take_le _ _))

/-- The entries of the lead's counters beside ConfigEpoch and JournalSeq. -/
def seedKeys : List Nat :=
  Reg.canFreshnessTx.key :: (((List.range 16).map fun i => Reg.mapLastSequence.key i) ++ (List.range 127).map fun i => Reg.canFreshnessRx.key i)

theorem keepsRegs_keep {ks : List Nat} {a b : Dev} (h : KeepsRegs ks a b) (r : Row) (i : Nat) : KeepsRegs ks a (b.keep r i) := h.of_regs rfl

/-- ConfigEpoch and JournalSeq as the lead gives them. -/
def takenEpoch (body : Octets) (d : Dev) : Dev := ((d.setNat Reg.configEpoch (beAt body 0 4)).keep Reg.configEpoch).setJournal (beAt body 4 4)

theorem takeCounters_keepsRegs (body : Octets) (d : Dev) : KeepsRegs seedKeys (d.takenEpoch body) (d.takeCounters body) := by
  unfold takeCounters
  extract_lets d1 d2 d3
  have h2 : KeepsRegs seedKeys d1 d2 := keepsRegs_keep ((KeepsRegs.refl _ d1).setNat Reg.canFreshnessTx _ 0 0 (.head _)) _ _
  have h3 : KeepsRegs seedKeys d1 d3 := h2.foldl fun e i hi => by
    have hk : Reg.mapLastSequence.key i ∈ seedKeys := .tail _ (List.mem_append_left _ (List.mem_map_of_mem hi))
    exact ((KeepsRegs.refl _ e).setNat Reg.mapLastSequence _ i 0 hk).of_regs rfl
  exact h3.foldl fun e i hi => by
    have hk : Reg.canFreshnessRx.key i ∈ seedKeys := .tail _ (List.mem_append_right _ (List.mem_map_of_mem hi))
    exact keepsRegs_keep ((KeepsRegs.refl _ e).setNat Reg.canFreshnessRx _ i 0 hk) _ _

theorem takenEpoch_spec (body : Octets) (d : Dev) :
    (d.takenEpoch body).nat Reg.configEpoch = beAt body 0 4 ∧ (d.takenEpoch body).nat Reg.journalSeq = beAt body 4 4 := by
  rw [takenEpoch, setJournal, nat_congr (keep_regs _ _ _ _), nat_congr (keep_regs _ _ _ _), nat_setNat_same,
    nat_setNat_ne _ _ _ _ _ _ _ _ (by decide), nat_congr (keep_regs _ _ _ _), nat_setNat_same]
  exact ⟨rfl, Nat.mod_eq_of_lt (beAt_lt body 4 4)⟩

theorem takeCounters_spec {d e : Dev} {body : Octets} (h : d.takeCounters body = e) :
    e.nat Reg.configEpoch = beAt body 0 4 ∧ e.nat Reg.journalSeq = beAt body 4 4 := by
  have hkeep := h ▸ takeCounters_keepsRegs body d
  rw [hkeep.nat _ _ _ (by decide) (by decide), hkeep.nat _ _ _ (by decide) (by decide)]
  exact takenEpoch_spec body d

/-! ### CREDIT and REPLAY cells (R462, R463) -/

/-- Credits returned, up to the initial ones. -/
def returned (cell : Octets) (credits : List Nat) : List Nat :=
  credits.zipIdx.map fun x => min (lget 0 [1024, 256, 512] x.2) (x.1 + beAt cell (16 + 2 * x.2) 2)

theorem returned_lget (cell : Octets) {credits : List Nat} (h : credits.length = 3) {v : Nat} (hv : v < 3) :
    lget 0 (returned cell credits) v = min (lget 0 [1024, 256, 512] v) (lget 0 credits v + beAt cell (16 + 2 * v) 2) := by
  have hv' : v < credits.length := by omega
  simp [lget, returned, List.getD_eq_getElem?_getD, hv']

/-- A CREDIT cell on a link with nothing waiting returns credits and no more. -/
theorem creditCell_returns {d d1 : Dev} {k : Nat} {w cell : Octets} (hk : k < 3) (hr : d.receiveCell k w = (d1, some cell)) (ht : beAt cell 0 1 = 9)
    (hw : (d1.dlink k).waiting = []) : d.creditCell k w = d1.setDlink k fun l => { l with credits := returned cell l.credits } := by
  have hnone : ((d1.setDlink k fun l => { l with credits := returned cell l.credits }).dlink k).waiting.length = 0 := by
    rw [setDlink_field hk DradaLink.waiting (by intro; rfl) d1, hw]
    rfl
  unfold creditCell
  rw [hr]
  dsimp only
  rw [if_neg (not_not_intro ht)]
  change drainCells k ((d1.setDlink k fun l => { l with credits := returned cell l.credits }).dlink k).waiting.length _ = _
  rw [hnone]
  rfl

/-- One cell kept that a REPLAY cell names, or names a forerunner of, is sent again. -/
theorem replayCell_single {d d1 : Dev} {k seq : Nat} {w cell again : Octets} (hr : d.receiveCell k w = (d1, some cell)) (ht : beAt cell 0 1 = 10)
    (ha : (d1.dlink k).replay = [(seq, again)]) (hs : (seq + 65536 - beAt cell 12 4 % 65536) % 65536 < 32768) :
    d.replayCell k w = ((d1.bump Reg.dradaReplays k).logCorrected (0xC00 + k) 0x8100 k).emit (.cell k (beAt again 0 1)
      (d1.laneCell k (beAt again 2 1 % 4) seq again)) := by
  unfold replayCell
  rw [hr]
  dsimp only
  rw [if_neg (not_not_intro ht), ha, List.reverse_singleton, List.filter_cons_of_pos (by simpa using hs), List.filter_nil]
  rfl

theorem replayCell_spec {d d1 e : Dev} {k seq : Nat} {w cell again : Octets} (hk : k < 3) (hr : d.receiveCell k w = (d1, some cell))
    (ht : beAt cell 0 1 = 10) (ha : (d1.dlink k).replay = [(seq, again)]) (hs : (seq + 65536 - beAt cell 12 4 % 65536) % 65536 < 32768)
    (hm : d1.flag Reg.dradaMacsec k = false) (he : d.replayCell k w = e) :
    e.nat Reg.dradaReplays k = (d1.nat Reg.dradaReplays k + 1) % 2 ^ 32 ∧
      e.out = .cell k (beAt again 0 1) (onLane (beAt again 2 1 % 4) again) :: d1.out := by
  have htold := told_logCorrected (0xC00 + k) 0x8100 k (d1.bump Reg.dradaReplays k)
  rw [replayCell_single hr ht ha hs] at he
  subst he
  refine ⟨?_, ?_⟩
  · rw [nat_congr (emit_regs _ _), htold.nat _ _ _ ((by decide : ∀ k < 3, Reg.dradaReplays.key k ∉ tellKeys) k hk), nat_bump_same]
    rfl
  · rw [emit_out, laneCell, hm, htold.out, bump_out]
    rfl

/-! ### The link's timers (R462, R469) -/

/-- Freed credits that go back: none is left, and the moment is noted. -/
def creditsGiven (k : Nat) (f : List Nat) (d : Dev) : Dev :=
  d.setDlink k fun l => { l with freed := List.zipWith (· - ·) l.freed f, returnedAt := d.clock }

/-- A CREDIT cell needs no credit itself. -/
theorem sendCell_credit {k : Nat} {d : Dev} (h : d.dlinkUp k = true) (dest arg : Nat) (payload : Octets) :
    ∃ cell, d.sendCell k .credit dest arg payload = d.launchCell k 3 CellType.credit.code cell := by
  unfold sendCell
  rw [if_neg (by rw [h]; simp)]
  exact ⟨_, if_neg (fun h => absurd h.1 (by decide))⟩

/-- Unreturned credits go back in one CREDIT cell. -/
theorem creditTimer_returns {d : Dev} {k a b c : Nat} (hup : d.nat Reg.dradaLinkState k = 2) (hp : d.perturb.credits = [])
    (hf : (d.dlink k).freed = [a, b, c]) (hn : a ≠ 0 ∨ b ≠ 0 ∨ c ≠ 0) (hr : d.Reaches ((d.dlink k).returnedAt + usCycles 1)) :
    ∃ cell, d.creditTimer k =
      ((d.advanceTo ((d.dlink k).returnedAt + usCycles 1)).creditsGiven k [a, b, c]).launchCell k 3 CellType.credit.code cell := by
  have hlink : d.dlinkUp k = true := beq_iff_eq.2 hup
  unfold creditTimer
  rw [if_neg (by rw [hlink]; simp), onDue_eq _ _ _ hr]
  generalize ht : d.advanceTo ((d.dlink k).returnedAt + usCycles 1) = t
  have hfreed : (t.dlink k).freed = [a, b, c] := by rw [← ht, dlink, advanceTo_drada]; exact hf
  have hcredits : t.perturb.credits = [] := by rw [← ht, advanceTo_perturb, hp]
  have hup' : (t.creditsGiven k [a, b, c]).dlinkUp k = true := by
    rw [dlinkUp, nat_congr (show (t.creditsGiven k [a, b, c]).regs = d.regs by rw [creditsGiven, setDlink_regs, ← ht, advanceTo_regs])]
    exact hlink
  obtain ⟨cell, hcell⟩ := sendCell_credit hup' 0xFFFF 0 ([a, b, c].flatMap (toBE 2))
  refine ⟨cell, ?_⟩
  rw [← hcell]
  unfold returnCredits
  simp only [hcredits, nget?_nil, hfreed, lget, List.getD_cons_zero, List.getD_cons_succ]
  rw [if_neg (by simp; omega)]
  rfl

theorem creditTimer_spec {d e : Dev} {k a b c : Nat} (hk : k < 3) (hup : d.nat Reg.dradaLinkState k = 2) (hp : d.perturb.credits = [])
    (hf : (d.dlink k).freed = [a, b, c]) (hn : a ≠ 0 ∨ b ≠ 0 ∨ c ≠ 0) (hr : d.Reaches ((d.dlink k).returnedAt + usCycles 1)) (he : d.creditTimer k = e) :
    (e.dlink k).freed = [0, 0, 0] ∧ (e.dlink k).returnedAt = e.clock ∧ e.out.length = d.out.length + 1 ∧ e.regs = d.regs := by
  obtain ⟨cell, hcell⟩ := creditTimer_returns hup hp hf hn hr
  rw [hcell] at he
  subst he
  refine ⟨?_, ?_, ?_, (launchCell_regs _ _ _ _ _).trans (advanceTo_regs _ _)⟩
  · rw [launchCell_field hk DradaLink.freed (by intros; rfl), creditsGiven, setDlink_dlink_same _ _ _ hk, dlink, advanceTo_drada, ← dlink, hf]
    simp
  · rw [launchCell_field hk DradaLink.returnedAt (by intros; rfl), creditsGiven, setDlink_dlink_same _ _ _ hk]
    rfl
  · show (Out.cell _ _ _ :: (d.advanceTo _).out).length = _
    rw [advanceTo_out, List.length_cons]

/-- A missing feed value below the head of a module without a pair counts. -/
theorem feedLate_counts {d e : Dev} {k date : Nat} (hk : k < 3) (hb : d.belowHead = true) (hp : d.nat Reg.pairState = 0) (he : d.feedLate k date = e) :
    e.nat Reg.dradaFeedLate k = (d.nat Reg.dradaFeedLate k + 1) % 2 ^ 32 ∧ d.KeepsRegs [Reg.dradaFeedLate.key k] e := by
  have htold := told_noticeOnce (0x81070000 + k) 0x8107 k (d.bump Reg.dradaFeedLate k)
  have hkeep : d.KeepsRegs [Reg.dradaFeedLate.key k] (d.bump Reg.dradaFeedLate k) := (KeepsRegs.refl _ d).bump _ _ _ (.head _)
  unfold feedLate at he
  rw [if_neg (by rw [hb]; simp)] at he
  extract_lets d1 d2 at he
  have hstate : d2.nat Reg.pairState = 0 := by
    rw [nat_congr (setPair_regs _ _), (hkeep.told htold).nat _ _ _ (by simp only [pairState_key, dradaFeedLate_key, List.mem_singleton]; omega) (by decide), hp]
  rw [if_neg (by rw [hstate]; simp)] at he
  subst he
  refine ⟨?_, (hkeep.told htold).of_regs (setPair_regs _ _)⟩
  rw [nat_congr (setPair_regs _ _), htold.nat _ _ _ ((by decide : ∀ k < 3, Reg.dradaFeedLate.key k ∉ tellKeys) k hk), nat_bump_same]
  rfl

end Dev

/-- DRADA_CONTROL_CELL completes with its effect. -/
theorem controlCell_completes {s : State} {k : Nat} {w : Octets} {P : Dev → Prop} (ha : s.dev.answers = true)
    (hp : P (s.dev.controlCell s.mem k w)) : Completes (.dradaControlCell k w) s P := ⟨_, if_pos ha, rfl, rfl, hp⟩

/-- Settles O48: each cell by what the receive path answers for it, each timer by what it sends. -/
theorem cellEffects : Obligations.CellEffects := by
  intro s ha k hk
  refine ⟨fun w d1 cell date first count h0 hr ht hh hl h1 h2 hfirst hcount hpos h64 hdate hmsc => ?_, fun w f d1 cell h2 hr ht hl hp => ?_,
    fun w b l d1 cell hr hh => ?_, fun w slot d1 cell hr hl => ?_, fun w d1 cell h2 hr hl hp hcode => ?_,
    fun w t1 t2 t3 msc d1 cell path h0 hr ht hs hpath => ?_, fun w d1 cell hr ht hw h3 => ?_, fun w d1 cell seq again hr ht hrep hseq hm => ?_,
    fun h0 hup hs hreach => ?_, fun a b c hup hp hf hn hreach => ?_, fun date hb hp => ?_⟩
  · refine up_completes rfl ha ?_
    subst h0 hfirst hcount hdate
    rw [Dev.feedCell_below hr ht hh hl h1 h2 hpos h64]
    exact Dev.writeFeeds_present hmsc _ _ _
  · refine up_completes rfl ha ?_
    rw [Dev.tickCell, hr]
    dsimp only
    rw [if_pos ⟨ht, h2⟩]
    exact Dev.tickFrame_pair hl hp f
  · refine up_completes rfl ha ?_
    rw [Dev.motionCell, hr]
    dsimp only
    rw [if_neg (by rw [hh]; simp)]
  · refine up_completes rfl ha ?_
    rw [Dev.calendarCell, show calSettled (.cancel slot) = false from rfl, hr]
    dsimp only
    rw [hl, Bool.not_true, Bool.and_false]
    exact Dev.calMessage_cancel hl slot
  · refine controlCell_completes ha ?_
    rw [Dev.controlCell, hr]
    dsimp only
    rw [hl, hcode, Dev.controlMessage, if_pos (by rw [h2]; rfl), if_neg (by rw [Dev.isLead_standby hp]; simp)]
    exact Dev.takeCounters_spec rfl
  · refine up_completes rfl ha ?_
    rw [Dev.timeCell, hr]
    dsimp only
    rw [if_neg (not_not_intro ht), if_pos h0]
    exact Dev.timeAnswer_spec hs hpath rfl
  · refine up_completes rfl ha ?_
    rw [Dev.creditCell_returns hk hr ht hw]
    refine ⟨fun v hv => ?_, rfl⟩
    rw [Dev.setDlink_dlink_same _ _ _ hk]
    exact Dev.returned_lget cell h3 hv
  · exact up_completes rfl ha (Dev.replayCell_spec hk hr ht hrep hseq hm rfl)
  · exact up_completes rfl ha (Dev.timeExchange_spec hup hs hreach rfl)
  · exact up_completes rfl ha (Dev.creditTimer_spec hk hup hp hf hn hreach rfl)
  · exact up_completes rfl ha (Dev.feedLate_counts hk hb hp rfl)

end Sys2Proof.Machine
end

