-- ==== Sys2Proof/Proofs/CrosspointRender.lean ====
section
/-! What the render of a block does with the crosspoint records: the write-back, the skipped records and the split of the delay (R145, R148, R152). -/

namespace Sys2Proof.Machine

/-- What every step of a fold leaves alone, the fold leaves alone. -/
theorem foldl_frame {α β γ : Type} (p : β → γ) {f : β → α → β} (hf : ∀ e y, p (f e y) = p e) (l : List α) (e : β) :
    p (l.foldl f e) = p e :=
  List.foldlRecOn (motive := fun e' => p e' = p e) l f rfl fun e' he y _ => (hf e' y).trans he

/-- The shifts of R148, whose distances `Obligations.CrosspointRecords` writes as integers. -/
theorem shiftRight_eq_div (m : Int) (n : Nat) : m >>> (n : Int) = m / 2 ^ n := by
  rw [Int.shiftRight_natCast_right, Int.shiftRight_eq_div_pow]
  norm_cast

namespace Dev

/-! ### Counters and load figures leave the render core alone -/

@[simp] theorem bump_rend (d : Dev) (r : Row) (i n : Nat) : (d.bump r i n).rend = d.rend := by
  unfold bump
  split <;> rfl

@[simp] theorem peak_rend (d : Dev) (r : Row) (v i : Nat) : (d.peak r v i).rend = d.rend := by
  unfold peak
  split <;> rfl

@[simp] theorem loadFigures_rend (active : List Nat) (d : Dev) : (d.loadFigures active).rend = d.rend := by
  rw [loadFigures, peak_rend, setNat_rend]
  exact foldl_frame (fun a : Dev × Nat => a.1.rend) (fun a rink => by simp only [peak_rend, setNat_rend]) _ _

/-! ### Skipped records and the write-back (R145, R152) -/

theorem Xp.skipped_iff (x : Xp) : Xp.skipped x = true ↔ x.gainFrom = 0 ∧ x.gainTo = 0 := by
  simp [Xp.skipped]

/-- The render changes the crosspoint store by the write-backs alone: what follows it counts and tells. -/
theorem renderBlock_xp (d : Dev) (b : Nat) :
    (d.renderBlock b).rend.xp = d.rend.xp.map fun p => if Xp.skipped p.2 then p else (p.1, Xp.writeBack p.2) := by
  rw [renderBlock, bump_rend, loadFigures_rend]
  exact congrArg Render.xp (foldl_frame Dev.rend (fun e p => by rw [noticeOnce_rend, bump_rend]) _ _)

theorem gainAt_of_skipped {x : Xp} (hf : x.gainFrom = 0) (ht : x.gainTo = 0) (i : Nat) : gainAt x i = 0 := by
  simp [gainAt, hf, ht]

theorem xpSample_of_skipped (d : Dev) (b n : Nat) {x : Xp} (hf : x.gainFrom = 0) (ht : x.gainTo = 0) (i : Nat) : d.xpSample b n x i = 0 := by
  simp [xpSample, gainAt_of_skipped hf ht]

/-! ### The partial sums without the skipped records (R151, R152) -/

/-- The partial sums with those of one record added. -/
def addPartial (d : Dev) (b : Nat) (acc : NMap (List Int)) (p : Nat × Xp) : NMap (List Int) :=
  if Xp.skipped p.2 then acc
  else
    let u := (List.range 32).map (d.xpSample b (p.1 / 4096) p.2)
    match nget? acc (p.1 % 4096) with
    | some l => nput acc (p.1 % 4096) (List.zipWith (· + ·) l u)
    | none => nput acc (p.1 % 4096) u

theorem addPartial_of_skipped (d : Dev) (b : Nat) (acc : NMap (List Int)) {p : Nat × Xp} (h : Xp.skipped p.2 = true) :
    d.addPartial b acc p = acc := if_pos h

/-- The sums of another crosspoint store over the same windows. -/
theorem partials_withXp (d : Dev) (b : Nat) (xp : NMap Xp) :
    ({ d with rend := { d.rend with xp } } : Dev).partials b = xp.foldl (d.addPartial b) [] := rfl

theorem partials_eq (d : Dev) (b : Nat) : d.partials b = d.rend.xp.foldl (d.addPartial b) [] := rfl

theorem foldl_addPartial_filter (d : Dev) (b : Nat) (xp : NMap Xp) (acc : NMap (List Int)) :
    (xp.filter fun p => !Xp.skipped p.2).foldl (d.addPartial b) acc = xp.foldl (d.addPartial b) acc := by
  rw [List.foldl_filter]
  congr 1
  funext a p
  cases h : Xp.skipped p.2 with
  | true => exact (addPartial_of_skipped d b a h).symm
  | false => rfl

/-- The Step of a skipped record has no effect. -/
theorem addPartial_step (d : Dev) (b : Nat) (f : Xp → Bool) (acc : NMap (List Int)) (p : Nat × Xp) :
    d.addPartial b acc (if p.2.gainFrom = 0 ∧ p.2.gainTo = 0 then (p.1, { p.2 with step := f p.2 }) else p) = d.addPartial b acc p := by
  split
  case isTrue h =>
    have hs : Xp.skipped p.2 = true := (Xp.skipped_iff _).2 h
    rw [addPartial_of_skipped d b acc hs]
    exact addPartial_of_skipped d b acc hs
  case isFalse => rfl

/-! ### The delay in whole samples and phase (R148) -/

/-- A delay in 1/524,288 sample, rounded half up to 1/512 sample: its whole samples and phase, and the carry of a fraction that rounds up. -/
theorem delay_split {t q : Int} (hq : q = (t + 512) / 1024) :
    q = 512 * (q / 512) + (q % 512).toNat ∧ (q % 512).toNat < 512 ∧
      (523776 ≤ t % 524288 → (q % 512).toNat = 0 ∧ q / 512 = t / 524288 + 1) := by
  refine ⟨?_, ?_, fun h => ⟨?_, ?_⟩⟩ <;> omega

end Dev

/-- Settles O59: the write-back record by record, the skipped records out of every sum, and the sample by the split of its delay. -/
theorem crosspointRecords : Obligations.CrosspointRecords := by
  intro d b
  refine ⟨?_, fun n x i hf ht => Dev.xpSample_of_skipped d b n hf ht i, ?_, fun f => ?_, fun n x i => ?_⟩
  · rw [Dev.renderBlock_xp]
    simp only [Dev.Xp.skipped_iff, Dev.Xp.writeBack]
  · exact Dev.foldl_addPartial_filter d b d.rend.xp []
  · rw [Dev.partials_withXp, List.foldl_map, Dev.partials_eq]
    simp only [Dev.addPartial_step]
  · obtain ⟨hsum, hlt, hcarry⟩ := Dev.delay_split (t := Dev.delayAt x i) rfl
    exact ⟨_, _, _, (shiftRight_eq_div _ 10).symm, (shiftRight_eq_div _ 9).symm, hsum, hlt, hcarry, rfl⟩

end Sys2Proof.Machine
end

