-- ==== Sys2Proof/Proofs/MuteAndDualRun.lean ====
section
/-! CONV_MUTE_END and MIX_DUAL_RUN_END at and before their due ticks (R193, R242). -/

namespace Sys2Proof.Machine

namespace Dev

/-! ### The end of MUTE (R242) -/

@[simp] theorem setConv_conv_same (c : Nat) (f : ConvChan → ConvChan) (d : Dev) : (d.setConv c f).conv c = f (d.conv c) :=
  nget_nset_same _ _ _ _

/-- A change of a pool channel writes no entry but its ConvState. -/
theorem setConv_keepsRegs (c : Nat) (f : ConvChan → ConvChan) (d : Dev) : KeepsRegs [Reg.convState.key c] d (d.setConv c f) :=
  ((KeepsRegs.refl _ d).of_regs rfl).setNat _ _ _ _ (.head _)

theorem convMuteEnd_due {d : Dev} {c : Nat} (hm : (d.conv c).mode = 3) (hs : (d.conv c).tracker.state = 3)
    (hd : (d.conv c).tracker.muteAt + 64 ≤ d.mscNow) :
    d.convMuteEnd c =
      d.setConv c fun x => { x with startDate := (d.conv c).tracker.muteAt + 64, tracker := { x.tracker with state := 2 } } :=
  if_pos ⟨hm, hs, hd⟩

theorem convMuteEnd_early {d : Dev} {c : Nat} (h : d.mscNow < (d.conv c).tracker.muteAt + 64) : d.convMuteEnd c = d :=
  if_neg fun ⟨_, _, hd⟩ => Nat.not_le_of_lt h hd

/-! ### The end of a dual run (R193, R195) -/

theorem told_swapNotice (d : Dev) : Told d d.swapNotice := told_notice _ _ d

/-- The old programme's halves released, with SwapStatus 2, before notice 0x6801 tells it. -/
def dualReleased (d : Dev) : Dev := { d with mix := { d.mix with prev := none, dualLen := 0 } }.setNat Reg.swapStatus 2

theorem dualReleased_keepsRegs (d : Dev) : KeepsRegs [Reg.swapStatus.key] d d.dualReleased :=
  ((KeepsRegs.refl _ d).of_regs rfl).setNat _ _ _ _ (.head _)

theorem dualRunEnd_due {d : Dev} (hs : d.nat Reg.swapStatus = 1) (hd : d.mix.swapDate + d.mix.dualLen + 65 + d.lag < d.msc) :
    d.dualRunEnd = d.dualReleased.swapNotice := if_pos ⟨hs, hd⟩

theorem dualRunEnd_idle {d : Dev} (h : d.nat Reg.swapStatus ≠ 1 ∨ d.msc ≤ d.mix.swapDate + d.mix.dualLen + 65 + d.lag) :
    d.dualRunEnd = d :=
  if_neg fun ⟨hs, hd⟩ => h.elim (· hs) (Nat.not_le_of_lt hd)

end Dev

/-- Settles O41: each command by its guard, and the notice of the swap by what telling it leaves alone. -/
theorem muteAndDualRun : Obligations.MuteAndDualRun := by
  intro s ha
  refine ⟨fun c hm hs hd => ?_, fun c h => ?_, fun hs hd => ?_, fun h => ?_⟩ <;> refine up_completes rfl ha ?_
  · rw [Dev.convMuteEnd_due hm hs hd, Dev.setConv_conv_same]
    exact ⟨rfl, rfl, Dev.setConv_keepsRegs _ _ _⟩
  · exact Dev.convMuteEnd_early h
  · have htold := Dev.told_swapNotice s.dev.dualReleased
    rw [Dev.dualRunEnd_due hs hd]
    refine ⟨?_, htold.mix, (Dev.dualReleased_keepsRegs _).told htold⟩
    rw [htold.nat _ _ _ (by decide)]
    exact Dev.nat_setNat_same _ _ _ _ _
  · exact Dev.dualRunEnd_idle h

end Sys2Proof.Machine
end

