-- ==== Sys2Proof/Proofs/TdmFrames.lean ====
section
/-! A frame start edge and a loss of FSYNC of a TDM port: its state, masks and counts, its TRACKED channels, and the other ports (R244, R356, R360). -/

namespace Sys2Proof.Machine

namespace Dev

variable {p c : Nat} {d e : Dev}

/-! ### What moves the converters and the pool on leaves of the ports -/

@[simp] theorem bump_tdm (d : Dev) (r : Row) (i n : Nat) : (d.bump r i n).tdm = d.tdm := by unfold bump; split <;> rfl
@[simp] theorem bump_pool (d : Dev) (r : Row) (i n : Nat) : (d.bump r i n).pool = d.pool := by unfold bump; split <;> rfl

theorem tdmPort_congr (h : e.tdm = d.tdm) (q : Nat) : e.tdmPort q = d.tdmPort q := by rw [tdmPort, h, tdmPort]

/-- The keys of the entries of a TDM port, but for the two of its output converter. -/
def portEntry (p k : Nat) : Prop := k / 256 = 0x9000 + p ∧ k % 256 < 0x17

/-- The rows of those entries. -/
def portRow (r : Row) : Bool := r.base == 0x9000 && decide (r.sub < 0x17)

theorem portRow_key {r : Row} (h : portRow r = true) (p : Nat) : r.key p = (0x9000 + p) * 256 + r.sub ∧ r.sub < 0x17 := by
  simp only [portRow, Bool.and_eq_true, beq_iff_eq, decide_eq_true_eq] at h
  exact ⟨by rw [Row.key, entryKey, h.1, Nat.add_zero], h.2⟩

theorem portEntry_key {r : Row} (h : portRow r = true) (p : Nat) : portEntry p (r.key p) := by
  have := portRow_key h p
  simp only [portEntry]
  omega

/-- Two entries of a port are told apart by their sub-indices. -/
theorem portKey_ne {r r' : Row} (h : portRow r = true) (h' : portRow r' = true) (hs : r.sub ≠ r'.sub) : r.key p ≠ r'.key p := by
  have := portRow_key h p
  have := portRow_key h' p
  omega

theorem portKey_untold {r : Row} (h : portRow r = true) (hp : p < 4) : r.key p ∉ tellKeys := by
  have := portRow_key h p
  simp only [tellKeys, List.mem_cons, List.not_mem_nil, or_false]
  omega

/-- An entry of a port that stands reads as before. -/
theorem Leaves.portNat (h : Leaves (portEntry p) d e) {r : Row} (hp : p < 4) (hr : portRow r = true) : e.nat r p = d.nat r p :=
  h.nat r p 0 (portEntry_key hr p) (portKey_untold hr hp)

/-- `d'` has the TDM ports of `d` and its values of the entries with a key in `P`. -/
structure KeepsPorts (P : Nat → Prop) (d d' : Dev) : Prop where
  entries : Leaves P d d'
  tdm : d'.tdm = d.tdm

namespace KeepsPorts

variable {P : Nat → Prop}

theorem refl (d : Dev) : KeepsPorts P d d := ⟨.refl d, rfl⟩

theorem trans {a b c : Dev} (h : KeepsPorts P a b) (h' : KeepsPorts P b c) : KeepsPorts P a c := ⟨h.entries.trans h'.entries, h'.tdm.trans h.tdm⟩

theorem notice (h : KeepsPorts P d e) (code arg : Nat) : KeepsPorts P d (e.notice code arg) :=
  ⟨h.entries.told (told_notice _ _ _), (notice_tdm _ _ _).trans h.tdm⟩

theorem bump (h : KeepsPorts P d e) (r : Row) (i n : Nat) (hk : ¬ P (r.key i)) : KeepsPorts P d (e.bump r i n) :=
  ⟨h.entries.bump r i n hk, (bump_tdm _ _ _ _).trans h.tdm⟩

theorem setConv (h : KeepsPorts P d e) (c : Nat) (f : ConvChan → ConvChan) (hk : ¬ P (Reg.convState.key c)) : KeepsPorts P d (e.setConv c f) :=
  ⟨h.entries.trans ⟨fun _ hP => setConv_keepsRegs c f e _ fun hm => hk (List.mem_singleton.1 hm ▸ hP), rfl⟩, h.tdm⟩

theorem foldl {α : Type} {f : Dev → α → Dev} {l : List α} (d : Dev) (hf : ∀ e x, KeepsPorts P e (f e x)) : KeepsPorts P d (l.foldl f d) :=
  List.foldlRecOn l f (refl d) fun e he x _ => he.trans (hf e x)

end KeepsPorts

theorem convState_notPort (hp : p < 4) : ¬ portEntry p (Reg.convState.key c) := by simp only [portEntry, convState_key]; omega

/-- An edge moves the trackers of the pool and no entry of a TDM port. -/
theorem poolEdge_keepsPorts (hp : p < 4) (d : Dev) : KeepsPorts (portEntry p) d (d.poolEdge p) :=
  .foldl d fun e x => by
    have moved := fun f => (KeepsPorts.refl e).setConv x.1 f (convState_notPort hp)
    dsimp only
    split
    · exact .refl e
    · split
      · exact moved _
      · exact moved _
      · exact ((moved _).bump Reg.convJumps _ _ (by simp only [portEntry, convJumps_key]; omega)).notice _ _
      · exact (moved _).notice _ _

/-- A loss of FSYNC moves the trackers of the pool and no entry of a TDM port. -/
theorem poolLoss_keepsPorts (hp : p < 4) (d : Dev) : KeepsPorts (portEntry p) d (d.poolLoss p) :=
  .foldl d fun e x => by
    dsimp only
    split
    · exact .refl e
    · exact (((KeepsPorts.refl e).setConv x.1 _ (convState_notPort hp)).bump Reg.convLosses _ _
        (by simp only [portEntry, convLosses_key]; omega)).notice _ _

theorem tdmSend_keepsPorts {P : Nat → Prop} (p : Nat) (vals : List Int) (d : Dev) : KeepsPorts P d (d.tdmSend p vals) :=
  .foldl d fun e x => by
    have sent : ∀ o, KeepsPorts P e (e.emit o) := fun o => ⟨emit_leaves o e, rfl⟩
    split
    · exact sent _
    · split
      · exact sent _
      · split <;> exact sent _

/-- What the converter shows goes into TdmOutState and TdmOutRatio, and is told. -/
theorem tdmShow_untold (d' : Dev) (p : Nat) (tell : Bool) (d : Dev) : untold d' (d.tdmShow p tell) = untold d' d := by
  unfold tdmShow
  dsimp only
  split <;> simp

theorem setTdmState_untold (d' : Dev) (p st : Nat) (d : Dev) : untold d' (d.setTdmState p st) = untold d' d := by
  unfold setTdmState
  split <;> simp

@[simp] theorem tdmShow_tdm (p : Nat) (tell : Bool) (d : Dev) : (d.tdmShow p tell).tdm = d.tdm := (congrArg Dev.tdm (tdmShow_untold d p tell d) :)
@[simp] theorem tdmShow_pool (p : Nat) (tell : Bool) (d : Dev) : (d.tdmShow p tell).pool = d.pool := (congrArg Dev.pool (tdmShow_untold d p tell d) :)
@[simp] theorem setTdmState_tdm (p st : Nat) (d : Dev) : (d.setTdmState p st).tdm = d.tdm := (congrArg Dev.tdm (setTdmState_untold d p st d) :)
@[simp] theorem setTdmState_pool (p st : Nat) (d : Dev) : (d.setTdmState p st).pool = d.pool := (congrArg Dev.pool (setTdmState_untold d p st d) :)

theorem tdmShow_keepsPorts {P : Nat → Prop} (p : Nat) (tell : Bool) (d : Dev) (hs : ¬ P (Reg.tdmOutState.key p)) (hr : ¬ P (Reg.tdmOutRatio.key p)) :
    KeepsPorts P d (d.tdmShow p tell) := by
  refine ⟨?_, tdmShow_tdm p tell d⟩
  unfold tdmShow
  extract_lets t slave s st ratio e
  have he : Leaves P d e := ((Leaves.refl d).setNat _ _ _ _ hs).setNat _ _ _ _ hr
  split
  · exact he.told (told_notice _ _ _)
  · exact he

theorem tdmShow_keepsPort (p : Nat) (tell : Bool) (d : Dev) : KeepsPorts (portEntry p) d (d.tdmShow p tell) :=
  tdmShow_keepsPorts p tell d (by simp only [portEntry, tdmOutState_key]; omega) (by simp only [portEntry, tdmOutRatio_key]; omega)

theorem setTdmState_keepsPorts {P : Nat → Prop} (p st : Nat) (d : Dev) (hk : ¬ P (Reg.tdmState.key p)) : KeepsPorts P d (d.setTdmState p st) := by
  unfold setTdmState
  split
  · exact .refl d
  · exact KeepsPorts.notice ⟨(Leaves.refl d).setNat _ _ _ _ hk, rfl⟩ _ _

/-! ### A frame start edge (R356, R360) -/

/-- `d'` is `d` with the output converter of a port and the pool moved on: the port's entries, the other ports and its frame stand. -/
structure Moves (p : Nat) (d d' : Dev) : Prop where
  entries : Leaves (portEntry p) d d'
  others : ∀ q, q ≠ p → d'.tdmPort q = d.tdmPort q
  frame : (d'.tdmPort p).frame = (d.tdmPort p).frame

theorem Moves.trans {a b c : Dev} (h : Moves p a b) (h' : Moves p b c) : Moves p a c :=
  ⟨h.entries.trans h'.entries, fun q hq => (h'.others q hq).trans (h.others q hq), h'.frame.trans h.frame⟩

theorem KeepsPorts.moves (h : KeepsPorts (portEntry p) d e) : Moves p d e :=
  ⟨h.entries, fun q _ => tdmPort_congr h.tdm q, congrArg TdmPort.frame (tdmPort_congr h.tdm p)⟩

theorem setTracker_moves (hp : p < 4) (k : Tracker) (d : Dev) : Moves p d (d.setTdm p fun t => { t with tracker := k }) :=
  ⟨(Leaves.refl d).of_eq rfl rfl, fun _ hq => setTdm_tdmPort_ne _ _ _ _ hq.symm, by rw [setTdm_tdmPort_same _ _ _ hp]⟩

theorem tdmTrack_moves (hp : p < 4) (slip : Bool) (d : Dev) : Moves p d (d.tdmTrack p c slip) :=
  (setTracker_moves hp _ d).trans (tdmShow_keepsPort p _ _).moves

/-- The converter's part in a frame start: its tracker takes a slave's edge, and the pool's trackers with it (R359, R243). -/
theorem converterEdge_moves (hp : p < 4) (slave : Prop) [Decidable slave] (slip : Bool) (d : Dev) :
    Moves p d (if slave then
      (if d.tdmConverts p then d.tdmTrack p c slip else (d.setTdm p fun t => { t with tracker := resetTracker }).tdmShow p false).poolEdge p
      else d.tdmShow p false) := by
  split
  · refine Moves.trans ?_ (poolEdge_keepsPorts hp _).moves
    split
    · exact tdmTrack_moves hp slip d
    · exact (setTracker_moves hp _ d).trans (tdmShow_keepsPort p _ _).moves
  · exact (tdmShow_keepsPort p _ d).moves

/-- What the start of frame `c` of a port leaves, whatever its role, with `n` frames in error counted. -/
structure FrameStarted (p c n : Nat) (d d' : Dev) : Prop where
  state : d'.nat Reg.tdmState p = 2
  rxMask : d'.nat Reg.tdmRxMaskActive p = d.nat Reg.tdmRxMaskPending p
  txMask : d'.nat Reg.tdmTxMaskActive p = d.nat Reg.tdmTxMaskPending p
  count : d'.nat Reg.tdmFrameCount p = c
  errors : d'.nat Reg.tdmFrameErrors p = n
  frame : (d'.tdmPort p).frame = c
  others : ∀ q, q ≠ p → d'.tdmPort q = d.tdmPort q

namespace FrameStarted

variable {n : Nat} {m : Dev}

theorem moves (h : FrameStarted p c n d m) (hm : Moves p m e) (hp : p < 4) : FrameStarted p c n d e where
  state := (hm.entries.portNat hp rfl).trans h.state
  rxMask := (hm.entries.portNat hp rfl).trans h.rxMask
  txMask := (hm.entries.portNat hp rfl).trans h.txMask
  count := (hm.entries.portNat hp rfl).trans h.count
  errors := (hm.entries.portNat hp rfl).trans h.errors
  frame := hm.frame.trans h.frame
  others := fun q hq => (hm.others q hq).trans (h.others q hq)

/-- The start of a frame reads of what came before it the pending masks alone. -/
theorem of_before (h : FrameStarted p c n m e) (hr : m.nat Reg.tdmRxMaskPending p = d.nat Reg.tdmRxMaskPending p)
    (ht : m.nat Reg.tdmTxMaskPending p = d.nat Reg.tdmTxMaskPending p) (ho : ∀ q, q ≠ p → m.tdmPort q = d.tdmPort q) : FrameStarted p c n d e :=
  { h with rxMask := h.rxMask.trans hr, txMask := h.txMask.trans ht, others := fun q hq => (h.others q hq).trans (ho q hq) }

end FrameStarted

/-- The pending masks made active (R360). -/
def masksTaken (p : Nat) (d : Dev) : Dev :=
  (d.setNat Reg.tdmRxMaskActive (d.nat Reg.tdmRxMaskPending p) p).setNat Reg.tdmTxMaskActive (d.nat Reg.tdmTxMaskPending p) p

/-- Frame `c` entered: the pending masks made active, the port's own state brought up by `f`, its count and TdmState. -/
def frameEntered (p c : Nat) (f : TdmPort → TdmPort) (d : Dev) : Dev := (((d.masksTaken p).setTdm p f).setNat Reg.tdmFrameCount c p).setTdmState p 2

theorem frameEntered_started (hp : p < 4) {f : TdmPort → TdmPort} (hf : ∀ t, (f t).frame = c) (d : Dev) :
    FrameStarted p c (d.nat Reg.tdmFrameErrors p) d (d.frameEntered p c f) := by
  obtain ⟨hleaves, hstate⟩ := setTdmState_spec 2 hp (((d.masksTaken p).setTdm p f).setNat Reg.tdmFrameCount c p)
  have reads : ∀ r, portRow r = true → r.sub ≠ 0x13 → (d.frameEntered p c f).nat r p =
      (((d.masksTaken p).setTdm p f).setNat Reg.tdmFrameCount c p).nat r p := fun r hr hs =>
    hleaves.nat r p 0 (portKey_ne hr rfl hs) (portKey_untold hr hp)
  have hport : ∀ q, (d.frameEntered p c f).tdmPort q = ((d.masksTaken p).setTdm p f).tdmPort q := tdmPort_congr (setTdmState_tdm _ _ _)
  have other : ∀ (e : Dev) (r r' : Row) (v : Nat), portRow r = true → portRow r' = true → r'.sub ≠ r.sub → (e.setNat r v p).nat r' p = e.nat r' p :=
    fun e r r' v hr hr' hs => nat_setNat_ne _ _ _ _ _ _ _ _ (portKey_ne hr' hr hs)
  have hmasks : ∀ r, portRow r = true → r.sub ≠ 0x13 → r.sub ≠ 0x14 → (d.frameEntered p c f).nat r p = (d.masksTaken p).nat r p :=
    fun r hr hs hc => (reads r hr hs).trans (other _ _ _ _ rfl hr hc)
  exact {
    state := hstate
    rxMask := (hmasks _ rfl (by decide) (by decide)).trans ((other _ _ _ _ rfl rfl (by decide)).trans (nat_setNat_same _ _ _ _ _))
    txMask := (hmasks _ rfl (by decide) (by decide)).trans (nat_setNat_same _ _ _ _ _)
    count := (reads _ rfl (by decide)).trans (nat_setNat_same _ _ _ _ _)
    errors := (hmasks _ rfl (by decide) (by decide)).trans ((other _ _ _ _ rfl rfl (by decide)).trans (other _ _ _ _ rfl rfl (by decide)))
    frame := by rw [hport, setTdm_tdmPort_same _ _ _ hp, hf]
    others := fun q hq => (hport q).trans (setTdm_tdmPort_ne _ _ _ _ hq.symm) }

/-- The bits of a frame that ended, noted where it is `seen`, and counted in TdmFrameErrors where it is `short` besides (R356). -/
def bitsCounted (p bits : Nat) (seen : Prop) [Decidable seen] (short : Bool) (d : Dev) : Dev :=
  if seen then
    let d := d.setNat Reg.tdmFrameBitsSeen bits p
    if short then d.bump Reg.tdmFrameErrors p else d
  else d

/-- The keys but those of TdmFrameBitsSeen and TdmFrameErrors of a port. -/
def notBits (p k : Nat) : Prop := k ≠ Reg.tdmFrameBitsSeen.key p ∧ k ≠ Reg.tdmFrameErrors.key p

theorem bitsCounted_keepsPorts (p bits : Nat) (seen : Prop) [Decidable seen] (short : Bool) (d : Dev) :
    KeepsPorts (notBits p) d (d.bitsCounted p bits seen short) := by
  unfold bitsCounted
  have noted : KeepsPorts (notBits p) d (d.setNat Reg.tdmFrameBitsSeen bits p) :=
    ⟨(Leaves.refl d).setNat _ _ _ _ fun h => h.1 rfl, rfl⟩
  dsimp only
  split
  · split
    · exact noted.bump _ _ _ fun h => h.2 rfl
    · exact noted
  · exact .refl d

theorem bitsCounted_errors (p bits : Nat) (seen : Prop) [Decidable seen] (short : Bool) (d : Dev) :
    (d.bitsCounted p bits seen short).nat Reg.tdmFrameErrors p =
      if seen ∧ short = true then (d.nat Reg.tdmFrameErrors p + 1) % 2 ^ 32 else d.nat Reg.tdmFrameErrors p := by
  have noted : (d.setNat Reg.tdmFrameBitsSeen bits p).nat Reg.tdmFrameErrors p = d.nat Reg.tdmFrameErrors p :=
    nat_setNat_ne _ _ _ _ _ _ _ _ (portKey_ne rfl rfl (by decide))
  unfold bitsCounted
  by_cases hs : seen
  · cases short with
    | false => simp [hs, noted]
    | true => rw [if_pos hs, if_pos rfl, nat_bump_same, noted, if_pos ⟨hs, rfl⟩]; rfl
  · simp [hs]

/-- TdmFrameErrors after a frame of a number of bits: a slave that has started counts one of too few (R356). -/
def frameErrorsAfter (d : Dev) (p bclks : Nat) : Nat :=
  if ((d.tdmPort p).started = true ∧ d.nat Reg.tdmRole p ≠ 0) ∧ bclks < d.nat Reg.tdmSlots p * d.nat Reg.tdmSlotBits p then
    (d.nat Reg.tdmFrameErrors p + 1) % 2 ^ 32
  else d.nat Reg.tdmFrameErrors p

/-- A frame start: frame `c` runs, and a slave's frame of too few bits is counted. -/
theorem tdmStart_started (hp : p < 4) (c τ : Nat) (words : List Nat) (bclks : Nat) (d : Dev) :
    FrameStarted p c (d.frameErrorsAfter p bclks) d (d.tdmStart p c τ words bclks) := by
  unfold tdmStart
  extract_lets t slave short d1 _ d2 _ _ _ d3 v d4
  have h1 : d1.regs = d.regs ∧ ∀ q, q ≠ p → d1.tdmPort q = d.tdmPort q := by
    unfold d1
    split <;> exact ⟨rfl, fun q hq => setTdm_tdmPort_ne _ _ _ _ hq.symm⟩
  obtain ⟨hregs, hothers⟩ := h1
  have h2 := bitsCounted_keepsPorts p (bclks % 65536) (t.started = true ∧ slave) short d1
  have herrors := bitsCounted_errors p (bclks % 65536) (t.started = true ∧ slave) short d1
  have h3 : FrameStarted p c (d2.nat Reg.tdmFrameErrors p) d2 d3 := by
    refine frameEntered_started hp ?_ d2
    exact fun _ => rfl
  have h4 := (h3.moves (tdmSend_keepsPorts p v.1 d3).moves hp).moves (converterEdge_moves (c := c) hp slave v.2 d4) hp
  have hkept : ∀ r, portRow r = true → r.sub ≠ 0x15 → r.sub ≠ 0x16 → d2.nat r p = d.nat r p := fun r hr he hb =>
    (h2.entries.nat r p 0 ⟨portKey_ne hr rfl hb, portKey_ne hr rfl he⟩ (portKey_untold hr hp)).trans (nat_congr hregs r p 0)
  have hn : d2.nat Reg.tdmFrameErrors p = d.frameErrorsAfter p bclks := by
    refine herrors.trans ?_
    rw [nat_congr hregs]
    refine if_congr ?_ rfl rfl
    simp only [short, Bool.and_eq_true, decide_eq_true_eq]
    exact ⟨fun ⟨hs, _, hb⟩ => ⟨hs, hb⟩, fun ⟨hs, hb⟩ => ⟨hs, hs.2, hb⟩⟩
  exact hn ▸ h4.of_before (hkept _ rfl (by decide) (by decide)) (hkept _ rfl (by decide) (by decide))
    fun q hq => (tdmPort_congr h2.tdm q).trans (hothers q hq)

/-- The same, from a moment at which the entries and the other ports stood as before. -/
theorem tdmStart_started_of (hp : p < 4) (c τ : Nat) (words : List Nat) (bclks : Nat) (hr : e.regs = d.regs)
    (ho : ∀ q, q ≠ p → e.tdmPort q = d.tdmPort q) : FrameStarted p c (e.frameErrorsAfter p bclks) d (e.tdmStart p c τ words bclks) :=
  (tdmStart_started hp c τ words bclks e).of_before (nat_congr hr _ _ _) (nat_congr hr _ _ _) ho

theorem frameErrorsAfter_congr (hr : e.regs = d.regs) (ht : e.tdm = d.tdm) (bclks : Nat) : e.frameErrorsAfter p bclks = d.frameErrorsAfter p bclks := by
  simp only [frameErrorsAfter, nat_congr hr, tdmPort_congr ht]

theorem tdmFrame_noSlots (words : List Nat) (bclks cycle : Nat) (h : d.nat Reg.tdmSlots p = 0) : d.tdmFrame p words bclks cycle = d :=
  if_pos (.inr (.inl h))

/-- A port with slots of a module that answers takes its edges. -/
theorem takesEdges (hp : p < 4) (ha : d.power.state.answers = true) (hs : d.nat Reg.tdmSlots p ≠ 0) :
    ¬ (4 ≤ p ∨ d.nat Reg.tdmSlots p = 0 ∨ (!d.power.state.answers) = true) := by
  simp only [ha, hs, Bool.not_true, Bool.false_eq_true, or_false]
  omega

/-- A slave's edge starts the next frame, the first one with count 0 (R356). -/
theorem tdmFrame_slave (hp : p < 4) (ha : d.power.state.answers = true) (hs : d.nat Reg.tdmSlots p ≠ 0) (hr : d.nat Reg.tdmRole p ≠ 0)
    (words : List Nat) (bclks cycle : Nat) :
    FrameStarted p (if (d.tdmPort p).started then (d.tdmPort p).frame + 1 else 0) (d.frameErrorsAfter p bclks) d (d.tdmFrame p words bclks cycle) := by
  unfold tdmFrame
  extract_lets t _ _ _ _ cyc m τ
  rw [if_neg (takesEdges hp ha hs), if_neg hr]
  have hm : m.regs = d.regs ∧ m.tdm = d.tdm := by
    unfold m
    split
    · exact ⟨advanceTo_regs _ _, advanceTo_tdm _ _⟩
    · exact ⟨rfl, rfl⟩
  exact frameErrorsAfter_congr hm.1 hm.2 bclks ▸ tdmStart_started_of hp _ τ words bclks hm.1 fun q _ => tdmPort_congr hm.2 q

/-- The next frame of a master port: the first at or after the tick in progress, and after the one that runs (R356). -/
def nextFrame (d : Dev) (p : Nat) : Nat :=
  max (d.masterFrame p (d.msc * d.coreTick)) (if (d.tdmPort p).started then (d.tdmPort p).frame + 1 else 0)

/-- A master's frame starts in the tick that its date lies in (R356). -/
theorem tdmFrame_master (hp : p < 4) (ha : d.power.state.answers = true) (hs : d.nat Reg.tdmSlots p ≠ 0) (hr : d.nat Reg.tdmRole p = 0)
    (hal : d.alm.aligned = true) (hdue : d.masterStart p (d.nextFrame p) < d.msc * d.coreTick + d.coreTick) (words : List Nat) (bclks cycle : Nat) :
    ∃ n, FrameStarted p (d.nextFrame p) n d (d.tdmFrame p words bclks cycle) := by
  unfold tdmFrame
  extract_lets t from_ c τ m
  have starts : ¬ ((!d.alm.aligned) = true ∨ from_ + d.coreTick ≤ τ) := by
    rintro (h | h)
    · simp [hal] at h
    · exact Nat.not_le_of_lt hdue h
  rw [if_neg (takesEdges hp ha hs), if_pos hr, if_neg starts]
  exact ⟨_, tdmStart_started_of hp c τ words bclks (advanceTo_regs _ _) fun q hq =>
    (setTdm_tdmPort_ne _ _ _ _ hq.symm).trans (tdmPort_congr (advanceTo_tdm _ _) q)⟩

/-- Unaligned, and in a tick without the start of its next frame, a master port does nothing (R356). -/
theorem tdmFrame_master_waits (hp : p < 4) (ha : d.power.state.answers = true) (hs : d.nat Reg.tdmSlots p ≠ 0) (hr : d.nat Reg.tdmRole p = 0)
    (hw : d.alm.aligned = false ∨ d.msc * d.coreTick + d.coreTick ≤ d.masterStart p (d.nextFrame p)) (words : List Nat) (bclks cycle : Nat) :
    d.tdmFrame p words bclks cycle = d := by
  unfold tdmFrame
  extract_lets t from_ c τ m
  have waits : (!d.alm.aligned) = true ∨ from_ + d.coreTick ≤ τ := hw.imp_left fun h => by rw [h]; rfl
  rw [if_neg (takesEdges hp ha hs), if_pos hr, if_pos waits]

/-! ### A loss of FSYNC (R244) -/

/-- A port without FSYNC edges: stopped, its converter LOST where it runs, TdmState 3 where the port had started. -/
def portLost (p : Nat) (d : Dev) : Dev :=
  let t := d.tdmPort p
  let used := d.tdmConverts p && t.tracker.state != 4
  let d := d.setTdm p fun t => { t with started := false, tracker := if used then t.tracker.silence 4 0 else t.tracker }
  let d := if used then d.tdmShow p true else d
  if t.started then d.setTdmState p 3 else d

theorem tdmLoss_master (hr : d.nat Reg.tdmRole p = 0) : d.tdmLoss p = d := if_pos (.inr hr)

theorem tdmLoss_due (hp : p < 4) (hr : d.nat Reg.tdmRole p ≠ 0) (h : d.Reaches (d.tdmLossDue p)) :
    d.tdmLoss p = ((d.advanceTo (d.tdmLossDue p)).portLost p).poolLoss p := by
  rw [tdmLoss, if_neg (by omega), onDue_eq _ _ _ h]
  rfl

/-- `d'` is `d` with a port stopped: the other ports, the pool and the pool's entries stand. -/
structure PortStopped (p : Nat) (d d' : Dev) : Prop where
  stopped : (d'.tdmPort p).started = false
  others : ∀ q, q ≠ p → d'.tdmPort q = d.tdmPort q
  pool : d'.pool = d.pool
  entries : Leaves (0x950000 ≤ ·) d d'

theorem PortStopped.keeps {m : Dev} (h : PortStopped p d m) (hk : KeepsPorts (0x950000 ≤ ·) m e) (hp : e.pool = m.pool) : PortStopped p d e where
  stopped := by rw [tdmPort_congr hk.tdm, h.stopped]
  others := fun q hq => (tdmPort_congr hk.tdm q).trans (h.others q hq)
  pool := hp.trans h.pool
  entries := h.entries.trans hk.entries

theorem portLost_stopped (hp : p < 4) (d : Dev) : PortStopped p d (d.portLost p) := by
  unfold portLost
  extract_lets t used d1 d2
  have h1 : PortStopped p d d1 :=
    ⟨by rw [setTdm_tdmPort_same _ _ _ hp], fun q hq => setTdm_tdmPort_ne _ _ _ _ hq.symm, rfl, (Leaves.refl d).of_eq rfl rfl⟩
  have h2 : PortStopped p d d2 := by
    unfold d2
    split
    · exact h1.keeps (tdmShow_keepsPorts p true d1 (by rw [tdmOutState_key]; omega) (by rw [tdmOutRatio_key]; omega)) (tdmShow_pool _ _ _)
    · exact h1
  split
  · exact h2.keeps (setTdmState_keepsPorts p 3 d2 (by rw [tdmState_key]; omega)) (setTdmState_pool _ _ _)
  · exact h2

theorem portLost_state (hp : p < 4) (h : (d.tdmPort p).started = true) : (d.portLost p).nat Reg.tdmState p = 3 := by
  unfold portLost
  extract_lets t used d1 d2
  rw [if_pos h]
  exact (setTdmState_spec 3 hp d2).2

/-- The entries of a pool channel but for ConvSourceChannel and ConvMode, whose sub-indices some of `tellKeys` share. -/
theorem convKey_spec {r : Row} (hb : r.base = 0x9500) (hs : r.sub < 256 ∧ r.sub ≠ 3 ∧ r.sub ≠ 5) (c : Nat) :
    0x950000 ≤ r.key c ∧ r.key c ∉ tellKeys := by
  have hk : r.key c = (0x9500 + c) * 256 + r.sub := by rw [Row.key, entryKey, hb, Nat.add_zero]
  simp only [tellKeys, List.mem_cons, List.not_mem_nil, or_false]
  omega

/-- The one channel of the pool that follows the port is LOST, and the loss counted (R244). -/
theorem poolLoss_tracked {c : Nat} {x : ConvChan} (hc : d.pool.chans = [(c, x)]) (hm : x.mode = 3) (ht : x.tracker.state ≠ 4)
    (hk : d.nat Reg.convSourceKind c = 2) (hi : d.nat Reg.convSourceIndex c = p) :
    ((d.poolLoss p).conv c).tracker.state = 4 ∧ (d.poolLoss p).nat Reg.convLosses c = (d.nat Reg.convLosses c + 1) % 2 ^ 32 := by
  have hconvs : d.convs = [(c, x)] := by simp [convs, hc, hm]
  rw [poolLoss, hconvs, List.foldl_cons, List.foldl_nil, if_neg (by simp [hm, ht, hk, hi])]
  have untold := (convKey_spec (r := Reg.convLosses) rfl (by decide) c).2
  set l := d.setConv c fun x => { x with tracker := x.tracker.silence 4 (d.mscNow + 1) } with hl
  constructor
  · rw [conv, notice_pool, bump_pool, ← conv, hl, setConv_conv_same]
    rfl
  · have hlosses : l.nat Reg.convLosses c = d.nat Reg.convLosses c :=
      (setConv_keepsRegs c _ d).nat _ _ _ (by simp only [List.mem_singleton, convLosses_key, convState_key]; omega) untold
    rw [notice_nat _ _ _ _ _ _ untold, nat_bump_same, hlosses]
    rfl

/-- A loss of FSYNC of a slave port stops the port and leaves the others (R244). -/
theorem tdmLoss_stops (hp : p < 4) (hr : d.nat Reg.tdmRole p ≠ 0) (h : d.Reaches (d.tdmLossDue p)) :
    ((d.tdmLoss p).tdmPort p).started = false ∧ ((d.tdmPort p).started = true → (d.tdmLoss p).nat Reg.tdmState p = 3) ∧
      ∀ q, q ≠ p → (d.tdmLoss p).tdmPort q = d.tdmPort q := by
  rw [tdmLoss_due hp hr h]
  set w := d.advanceTo (d.tdmLossDue p)
  have hw : ∀ q, w.tdmPort q = d.tdmPort q := tdmPort_congr (advanceTo_tdm _ _)
  have hport := portLost_stopped hp w
  have hpool := poolLoss_keepsPorts hp (w.portLost p)
  exact ⟨by rw [tdmPort_congr hpool.tdm, hport.stopped], fun hs => (hpool.entries.portNat hp rfl).trans (portLost_state hp (by rw [hw, hs])),
    fun q hq => (tdmPort_congr hpool.tdm q).trans ((hport.others q hq).trans (hw q))⟩

/-- A loss of FSYNC puts the pool's one channel in LOST where it follows the port (R244). -/
theorem tdmLoss_tracked (hp : p < 4) (hr : d.nat Reg.tdmRole p ≠ 0) (h : d.Reaches (d.tdmLossDue p)) {c : Nat} {x : ConvChan}
    (hc : d.pool.chans = [(c, x)]) (hm : x.mode = 3) (ht : x.tracker.state ≠ 4)
    (hk : d.nat Reg.convSourceKind c = 2) (hi : d.nat Reg.convSourceIndex c = p) :
    ((d.tdmLoss p).conv c).tracker.state = 4 ∧ (d.tdmLoss p).nat Reg.convLosses c = (d.nat Reg.convLosses c + 1) % 2 ^ 32 := by
  rw [tdmLoss_due hp hr h]
  set w := d.advanceTo (d.tdmLossDue p)
  have hport := portLost_stopped hp w
  have reads : ∀ r : Row, r.base = 0x9500 → r.sub < 256 ∧ r.sub ≠ 3 ∧ r.sub ≠ 5 → (w.portLost p).nat r c = d.nat r c := fun r hb hs =>
    (hport.entries.nat r c 0 (convKey_spec hb hs c).1 (convKey_spec hb hs c).2).trans (advanceTo_nat _ _ _ _ _)
  rw [← reads Reg.convLosses rfl (by decide)]
  have hchans : (w.portLost p).pool.chans = [(c, x)] := by rw [hport.pool, advanceTo_pool, hc]
  exact poolLoss_tracked hchans hm ht ((reads _ rfl (by decide)).trans hk) ((reads _ rfl (by decide)).trans hi)

end Dev

/-- Settles O29: an edge starts a frame of its port in each of its forms, a loss stops a slave, and each leaves the other ports alone. -/
theorem tdmFrames : Obligations.TdmFrames := by
  intro s ha p hp
  have hup := Dev.answers_state ha
  refine ⟨fun words bclks cycle hs => ?_, fun words bclks cycle hs hr => ?_, fun words bclks cycle c hs hr hc => ⟨fun hal hdue => ?_, fun hw => ?_⟩,
    fun hr => ?_, fun hr hdue => ?_⟩ <;> refine up_completes rfl ha ?_
  · exact Dev.tdmFrame_noSlots words bclks cycle hs
  · have h := Dev.tdmFrame_slave hp hup hs hr words bclks cycle
    refine ⟨h.state, h.rxMask, h.txMask, h.count, h.errors.trans ?_, h.others⟩
    simp [Dev.frameErrorsAfter, hr]
  · subst hc
    obtain ⟨n, h⟩ := Dev.tdmFrame_master hp hup hs hr hal hdue words bclks cycle
    exact ⟨h.state, h.rxMask, h.txMask, h.count, h.frame, h.others⟩
  · subst hc
    exact Dev.tdmFrame_master_waits hp hup hs hr hw words bclks cycle
  · exact Dev.tdmLoss_master hr
  · obtain ⟨hstopped, hstate, hothers⟩ := Dev.tdmLoss_stops hp hr hdue
    exact ⟨hstopped, hstate, fun c x hc hm ht hk hi => Dev.tdmLoss_tracked hp hr hdue hc hm ht hk hi, hothers⟩

end Sys2Proof.Machine
end

