-- ==== Sys2Proof/Proofs/PortCounters.lean ====
section
/-! The counters of a port and the rest of a port as time passes: what advancing a counter writes, and what it leaves (R289). -/

namespace Sys2Proof.Machine

namespace Dev

variable {ks : List Nat} {a b d : Dev} {p sub n : Nat}

theorem portCounter_untold (hp : p < 5) {j : Nat} (hj : j < portSubs) : Reg.portCounter.key p j ∉ tellKeys := by
  simp only [portCounter_key, tellKeys, portSubs, List.mem_cons, List.not_mem_nil, or_false] at *; omega

theorem advanceTo_port (t : Nat) (d : Dev) (p : Nat) : (d.advanceTo t).port p = d.port p := by rw [port, advanceTo_ports, port]

theorem port_congr (h : b.ports = a.ports) (p : Nat) : b.port p = a.port p := by rw [port, h, port]

theorem bump_ports (d : Dev) (r : Row) (i n : Nat) : (d.bump r i n).ports = d.ports := by unfold bump; split <;> rfl

/-- A counter advanced is its entry written, and then perhaps told. -/
theorem told_portCount (p sub : Nat) (d : Dev) (n : Nat) :
    Told (d.setNat Reg.portCounter (add32 (d.nat Reg.portCounter p (sub - 1)) n) p (sub - 1)) (d.portCount p sub n) := by
  unfold portCount
  dsimp only
  split
  · exact told_notice _ _ _
  · exact .refl _

@[simp] theorem portCount_ports (p sub : Nat) (d : Dev) (n : Nat) : (d.portCount p sub n).ports = d.ports := (told_portCount p sub d n).ports
@[simp] theorem portCount_port (p sub : Nat) (d : Dev) (n q : Nat) : (d.portCount p sub n).port q = d.port q := port_congr (portCount_ports p sub d n) q
@[simp] theorem portCount_clock (p sub : Nat) (d : Dev) (n : Nat) : (d.portCount p sub n).clock = d.clock := (told_portCount p sub d n).clock
@[simp] theorem portCount_out (p sub : Nat) (d : Dev) (n : Nat) : (d.portCount p sub n).out = d.out := (told_portCount p sub d n).out
@[simp] theorem portCount_rxRings (p sub : Nat) (d : Dev) (n : Nat) : (d.portCount p sub n).rxRings = d.rxRings := (told_portCount p sub d n).rxRings
@[simp] theorem portCount_txRings (p sub : Nat) (d : Dev) (n : Nat) : (d.portCount p sub n).txRings = d.txRings := (told_portCount p sub d n).txRings
@[simp] theorem portCount_perturb (p sub : Nat) (d : Dev) (n : Nat) : (d.portCount p sub n).perturb = d.perturb := (told_portCount p sub d n).perturb

theorem portCount_same (hp : p < 5) (hs : sub - 1 < portSubs) (d : Dev) (n : Nat) :
    (d.portCount p sub n).nat Reg.portCounter p (sub - 1) = add32 (d.nat Reg.portCounter p (sub - 1)) n :=
  ((told_portCount p sub d n).nat _ _ _ (portCounter_untold hp hs)).trans (nat_setNat_same _ _ _ _ _)

theorem portCount_other (d : Dev) (n : Nat) {r : Row} {i j : Nat} (h : r.key i j ≠ Reg.portCounter.key p (sub - 1)) (ht : r.key i j ∉ tellKeys) :
    (d.portCount p sub n).nat r i j = d.nat r i j :=
  ((told_portCount p sub d n).nat _ _ _ ht).trans (nat_setNat_ne _ _ _ _ _ _ _ _ h)

theorem KeepsRegs.portCount (h : KeepsRegs ks a b) (p sub n : Nat) (hk : Reg.portCounter.key p (sub - 1) ∈ ks) : KeepsRegs ks a (b.portCount p sub n) :=
  (h.setNat Reg.portCounter _ p (sub - 1) hk).told (told_portCount p sub b n)

theorem KeepsRegs.setPort (h : KeepsRegs ks a b) (p : Nat) (f : Port → Port) : KeepsRegs ks a (b.setPort p f) := h.of_regs rfl

theorem KeepsRegs.advanceTo (t : Nat) (d : Dev) : KeepsRegs ks d (d.advanceTo t) := (KeepsRegs.refl ks d).of_regs (advanceTo_regs t d)

end Dev

end Sys2Proof.Machine
end

