-- ==== Sys2Proof/Proofs/PauseAndIdle.lean ====
section
/-! PAUSE frames, the timers of pause sending and holding, and low-power idle: what each event does (R262, R280 to R284). -/

namespace Sys2Proof.Machine

namespace Dev

variable {d : Dev} {t : Nat}

/-! ### What ends a hold, and what a PAUSE frame to be sent does -/

theorem releasePause_keepsRegs (d : Dev) : KeepsRegs [Reg.portCounter.key 4 0x26] d d.releasePause := by
  unfold releasePause
  split
  · exact ((KeepsRegs.refl _ d).portCount 4 0x27 _ (by simp)).setPort _ _
  · exact .refl _ d

theorem releasePause_heldUntil (d : Dev) : (d.releasePause.port 4).heldUntil = none := by
  unfold releasePause
  split
  · rw [setPort_port_same _ _ _ (by decide)]
  next h => exact Option.not_isSome_iff_eq_none.1 h

@[simp] theorem endLpi_regs (p : Nat) (d : Dev) : (d.endLpi p).regs = d.regs := by unfold endLpi; split <;> rfl
@[simp] theorem endLpi_clock (p : Nat) (d : Dev) : (d.endLpi p).clock = d.clock := by unfold endLpi; split <;> rfl

theorem endLpi_control (p : Nat) (hp : p < 5) (d : Dev) : ((d.endLpi p).port p).control = (d.port p).control := by
  unfold endLpi
  split
  · rw [setPort_port_same _ _ _ hp]
  · rfl

/-- A PAUSE frame queued stands behind the other control frames, and its moment is noted. -/
theorem sendPause_port (quanta : Nat) (d : Dev) :
    ((d.sendPause quanta).port 4).control = (d.port 4).control ++ [d.pauseFrame quanta] ∧ ((d.sendPause quanta).port 4).pauseSentAt = d.clock := by
  have h : ((d.endLpi 4).portCount 4 0x26).port 4 = (d.endLpi 4).port 4 := portCount_port _ _ _ _ _
  rw [sendPause, setPort_port_same _ _ _ (by decide), h, endLpi_control _ (by decide)]
  exact ⟨rfl, rfl⟩

theorem sendPause_clock (quanta : Nat) (d : Dev) : (d.sendPause quanta).clock = d.clock :=
  (portCount_clock _ _ _ _).trans (endLpi_clock _ _)

theorem sendPause_counter (quanta : Nat) (d : Dev) : (d.sendPause quanta).nat Reg.portCounter 4 0x25 = add32 (d.nat Reg.portCounter 4 0x25) 1 :=
  (portCount_same (sub := 0x26) (by decide) (by decide) (d.endLpi 4) 1).trans (by rw [nat_congr (endLpi_regs 4 d)])

theorem sendPause_keepsRegs (quanta : Nat) (d : Dev) : KeepsRegs [Reg.portCounter.key 4 0x25] d (d.sendPause quanta) :=
  (((KeepsRegs.refl _ d).of_regs (endLpi_regs 4 d)).portCount 4 0x26 1 (by simp)).setPort _ _

theorem advanceTo_pauseFrame (t quanta : Nat) (d : Dev) : (d.advanceTo t).pauseFrame quanta = d.pauseFrame quanta := by
  rw [pauseFrame, advanceTo_nat, pauseFrame]

/-! ### PAUSE received (R280, R281, R284) -/

theorem pauseReceived_media {p : Nat} (hp : p ≠ 4) (quanta : Nat) (d : Dev) :
    d.pauseReceived p quanta = (d.portCount p 0x0D).portCount p 0x0E := by rw [pauseReceived, if_pos hp]

theorem pauseReceived_ignored (h : (d.port 4).ignoreUntil ≠ none) (quanta : Nat) :
    d.pauseReceived 4 quanta = (d.portCount 4 0x0D).portCount 4 0x0E := by
  rw [pauseReceived, if_neg (by decide), portCount_port, if_pos (Option.isSome_iff_ne_none.2 h)]

/-- Neither ignored nor on a media port, a PAUSE frame acts as the mode lets it. -/
theorem pauseReceived_counted (h : (d.port 4).ignoreUntil = none) (quanta : Nat) :
    d.pauseReceived 4 quanta = if d.nat Reg.mgmtPauseMode = 0 then d.portCount 4 0x0D else if quanta = 0 then (d.portCount 4 0x0D).releasePause
      else (d.portCount 4 0x0D).setPort 4 fun q => { q with
        heldSince := if (d.port 4).heldUntil.isSome then (d.port 4).heldSince else d.clock, heldUntil := some (d.clock + d.quantumCycles quanta) } := by
  have hmode : (d.portCount 4 0x0D).nat Reg.mgmtPauseMode = d.nat Reg.mgmtPauseMode := portCount_other _ _ (by decide) (by decide)
  have hcycles : (d.portCount 4 0x0D).quantumCycles quanta = d.quantumCycles quanta := by
    rw [quantumCycles, portCount_other _ _ (by decide) (by decide), quantumCycles]
  rw [pauseReceived, if_neg (by decide), portCount_port, if_neg (by simp [h]), hmode, hcycles, portCount_clock]

/-! ### The timers (R281 to R284) -/

theorem pauseExpiry_due (h : (d.port 4).heldUntil = some t) (hr : d.Reaches t) : d.pauseExpiry = (d.advanceTo t).releasePause := by
  unfold pauseExpiry
  rw [h]
  exact onDue_eq _ _ _ hr

theorem pauseRepeat_due (h : (d.port 4).pausing.isSome = true) (hm : d.nat Reg.mgmtPauseMode = 2) (hl : d.nat Reg.linkState 4 = 2)
    (hr : d.Reaches ((d.port 4).pauseSentAt + d.quantumCycles 0xFFFF / 2)) :
    d.pauseRepeat = (d.advanceTo ((d.port 4).pauseSentAt + d.quantumCycles 0xFFFF / 2)).sendPause 0xFFFF := by
  rw [pauseRepeat, if_pos ⟨h, hm, beq_iff_eq.2 hl⟩, onDue_eq _ _ _ hr]

/-- Pause sending stopped by its limit, before it is told. -/
def sendStopped (d : Dev) : Dev :=
  (d.sendPause 0).setPort 4 fun q => { q with pausing := none, pauseStopped := true, pauseLimits := q.pauseLimits + 1 }

theorem pauseSendLimit_due (h : (d.port 4).pausing = some t) (hr : d.Reaches (t + usCycles (d.nat Reg.pauseSendLimit))) :
    d.pauseSendLimit = (d.advanceTo (t + usCycles (d.nat Reg.pauseSendLimit))).sendStopped.notice 0x3006 4 := by
  unfold pauseSendLimit
  rw [h]
  exact onDue_eq _ _ _ hr

theorem sendStopped_port (d : Dev) : (d.sendStopped.port 4).pausing = none ∧ (d.sendStopped.port 4).pauseStopped = true ∧
    (d.sendStopped.port 4).control = (d.port 4).control ++ [d.pauseFrame 0] := by
  rw [sendStopped, setPort_port_same _ _ _ (by decide)]
  exact ⟨rfl, rfl, (sendPause_port 0 d).1⟩

/-- The hold ended by its limit, before it is told. -/
def holdLimited (d : Dev) : Dev := d.releasePause.setPort 4 fun q => { q with ignoreUntil := some (d.releasePause.clock + secCycles 10) }

theorem pauseHonourLimit_due (h : (d.port 4).heldUntil = some t) (hl : (d.port 4).heldSince + usCycles (d.nat Reg.pauseHonourLimit) ≤ t)
    (hr : d.Reaches ((d.port 4).heldSince + usCycles (d.nat Reg.pauseHonourLimit))) :
    d.pauseHonourLimit = (d.advanceTo ((d.port 4).heldSince + usCycles (d.nat Reg.pauseHonourLimit))).holdLimited.notice 0x3007 4 := by
  unfold pauseHonourLimit
  simp only [h]
  rw [if_neg (by omega)]
  exact onDue_eq _ _ _ hr

theorem holdLimited_port (d : Dev) : (d.holdLimited.port 4).heldUntil = none ∧
    (d.holdLimited.port 4).ignoreUntil = some (d.holdLimited.clock + secCycles 10) := by
  rw [holdLimited, setPort_port_same _ _ _ (by decide)]
  exact ⟨releasePause_heldUntil d, rfl⟩

theorem pauseIgnoreEnd_due (h : (d.port 4).ignoreUntil = some t) (hr : d.Reaches t) :
    d.pauseIgnoreEnd = (d.advanceTo t).setPort 4 fun q => { q with ignoreUntil := none } := by
  unfold pauseIgnoreEnd
  rw [h]
  exact onDue_eq _ _ _ hr

/-! ### Low-power idle (R262) -/

theorem lpiEntry_due (he : d.flag Reg.mgmtEeeEnable = true) (hp : (d.port 4).phyEee = true) (hl : d.nat Reg.linkState 4 = 2)
    (hs : (d.port 4).sending = none) (hc : (d.port 4).control = []) (hn : d.nextRing 4 = none) (hi : (d.port 4).lpi = false)
    (hr : d.Reaches ((d.port 4).idleSince + usCycles (d.nat Reg.mgmtEeeIdle))) :
    d.lpiEntry = ((d.advanceTo ((d.port 4).idleSince + usCycles (d.nat Reg.mgmtEeeIdle))).setPort 4 fun q => { q with lpi := true }).portCount 4 0x2C := by
  have hup : d.portUp 4 = true := beq_iff_eq.2 hl
  unfold lpiEntry
  rw [if_pos (by simp [he, hp, hup, hs, hc, hn, hi])]
  exact onDue_eq _ _ _ hr

end Dev

/-- Settles O34: each event is an equation of the lemmas above, and a counter, a hold or a queue of the management port is all that it changes. -/
theorem pauseAndIdle : Obligations.PauseAndIdle := by
  intro s ha
  refine ⟨fun p quanta hp => ?_, fun quanta h => ?_, fun quanta h hm => ?_, fun quanta hq h hm => ?_, fun h hm => ?_, fun t h hr => ?_,
    fun h hm hl hr => ?_, fun t h hr => ?_, fun t h hl hr => ?_, fun t h hr => ?_, fun he hp hl hs hc hn hi hr => ?_⟩ <;> refine up_completes rfl ha ?_
  case refine_1 =>
    rw [Dev.pauseReceived_media (by omega)]
    refine ⟨?_, ?_, by simp, ((Dev.KeepsRegs.refl _ _).portCount p 0x0D 1 (by simp)).portCount p 0x0E 1 (by simp)⟩
    · refine (Dev.portCount_other _ _ (by simp only [portCounter_key]; omega) (Dev.portCounter_untold (by omega) (by decide))).trans ?_
      exact Dev.portCount_same (sub := 0x0D) (by omega) (by decide) _ _
    · refine (Dev.portCount_same (sub := 0x0E) (by omega) (by decide) _ _).trans ?_
      rw [Dev.portCount_other _ _ (by simp only [portCounter_key]; omega) (Dev.portCounter_untold (by omega) (by decide))]
  case refine_2 =>
    rw [Dev.pauseReceived_ignored h]
    refine ⟨?_, by simp, ((Dev.KeepsRegs.refl _ _).portCount 4 0x0D 1 (by simp)).portCount 4 0x0E 1 (by simp)⟩
    refine (Dev.portCount_same (sub := 0x0E) (by decide) (by decide) _ _).trans ?_
    rw [Dev.portCount_other _ _ (by decide) (by decide)]
  case refine_3 =>
    rw [Dev.pauseReceived_counted h, if_pos hm]
    exact ⟨Dev.portCount_same (sub := 0x0D) (by decide) (by decide) _ _, by simp, (Dev.KeepsRegs.refl _ _).portCount 4 0x0D 1 (by simp)⟩
  case refine_4 =>
    rw [Dev.pauseReceived_counted h, if_neg hm, if_neg hq]
    exact ⟨by rw [Dev.setPort_port_same _ _ _ (by decide)], ((Dev.KeepsRegs.refl _ _).portCount 4 0x0D 1 (by simp)).setPort _ _⟩
  case refine_5 =>
    rw [Dev.pauseReceived_counted h, if_neg hm, if_pos rfl]
    refine ⟨Dev.releasePause_heldUntil _, ?_⟩
    exact ((Dev.KeepsRegs.refl _ _).portCount 4 0x0D 1 (by simp)).trans ((Dev.releasePause_keepsRegs _).mono fun k hk => .tail _ hk)
  case refine_6 =>
    rw [Dev.pauseExpiry_due h hr]
    exact ⟨Dev.releasePause_heldUntil _, (Dev.KeepsRegs.advanceTo _ _).trans (Dev.releasePause_keepsRegs _)⟩
  case refine_7 =>
    rw [Dev.pauseRepeat_due h hm hl hr]
    obtain ⟨hcontrol, hsent⟩ := Dev.sendPause_port 0xFFFF (s.dev.advanceTo ((s.dev.port 4).pauseSentAt + s.dev.quantumCycles 0xFFFF / 2))
    refine ⟨?_, by rw [hsent, Dev.sendPause_clock], ?_, (Dev.KeepsRegs.advanceTo _ _).trans (Dev.sendPause_keepsRegs _ _)⟩
    · rw [hcontrol, Dev.advanceTo_port, Dev.advanceTo_pauseFrame]
    · rw [Dev.sendPause_counter, Dev.advanceTo_nat]
  case refine_8 =>
    rw [Dev.pauseSendLimit_due h hr]
    obtain ⟨hpausing, hstopped, hcontrol⟩ := Dev.sendStopped_port (s.dev.advanceTo (t + Dev.usCycles (s.dev.nat Reg.pauseSendLimit)))
    rw [Dev.port_congr (Dev.notice_ports _ _ _)]
    refine ⟨hpausing, hstopped, ?_, (((Dev.KeepsRegs.advanceTo _ _).trans (Dev.sendPause_keepsRegs 0 _)).setPort _ _).told (Dev.told_notice _ _ _)⟩
    rw [hcontrol, Dev.advanceTo_port, Dev.advanceTo_pauseFrame]
  case refine_9 =>
    rw [Dev.pauseHonourLimit_due h hl hr]
    obtain ⟨hheld, hignore⟩ := Dev.holdLimited_port (s.dev.advanceTo ((s.dev.port 4).heldSince + Dev.usCycles (s.dev.nat Reg.pauseHonourLimit)))
    rw [Dev.port_congr (Dev.notice_ports _ _ _), Dev.notice_clock]
    exact ⟨hheld, hignore, (((Dev.KeepsRegs.advanceTo _ _).trans (Dev.releasePause_keepsRegs _)).setPort _ _).told (Dev.told_notice _ _ _)⟩
  case refine_10 =>
    rw [Dev.pauseIgnoreEnd_due h hr]
    exact ⟨by rw [Dev.setPort_port_same _ _ _ (by decide)], Dev.advanceTo_regs _ _⟩
  case refine_11 =>
    rw [Dev.lpiEntry_due he hp hl hs hc hn hi hr]
    refine ⟨by rw [Dev.portCount_port, Dev.setPort_port_same _ _ _ (by decide)], ?_, ((Dev.KeepsRegs.advanceTo _ _).setPort _ _).portCount 4 0x2C 1 (by simp)⟩
    refine (Dev.portCount_same (sub := 0x2C) (by decide) (by decide) _ _).trans ?_
    rw [Dev.nat_congr (Dev.setPort_regs _ _ _), Dev.advanceTo_nat]

end Sys2Proof.Machine
end

