-- ==== Sys2Proof/Proofs/PortTimers.lean ====
section
/-! MKA's SAs, the timeouts of receive flows and their paths, and the second membership report: what each event does (R285, R286, R301, R302, R315). -/

namespace Sys2Proof.Machine

namespace Dev

variable {d : Dev} {ks : List Nat}

/-! ### MACsec (R285, R286) -/

theorem macsecState_untold {p : Nat} (hp : p < 4) : Reg.macsecState.key p ∉ tellKeys := by
  simp only [macsecState_key, tellKeys, List.mem_cons, List.not_mem_nil, or_false]; omega

/-- MacsecState set is the entry written, and told where it changes; nothing happens where it does not. -/
theorem told_setMacsecState (p st : Nat) (d : Dev) : d.setMacsecState p st = d ∧ d.nat Reg.macsecState p = st ∨
    Told (d.setNat Reg.macsecState st p) (d.setMacsecState p st) := by
  unfold setMacsecState
  split
  next h => exact .inl ⟨rfl, h⟩
  · exact .inr (told_notice _ _ _)

theorem setMacsecState_state {p : Nat} (hp : p < 4) (st : Nat) (d : Dev) : (d.setMacsecState p st).nat Reg.macsecState p = st := by
  obtain ⟨he, hs⟩ | ht := told_setMacsecState p st d
  · rw [he, hs]
  · rw [ht.nat _ _ _ (macsecState_untold hp), nat_setNat_same]

@[simp] theorem setMacsecState_ports (p st : Nat) (d : Dev) : (d.setMacsecState p st).ports = d.ports := by
  obtain ⟨he, -⟩ | ht := told_setMacsecState p st d
  · rw [he]
  · rw [ht.ports, setNat_ports]

theorem setMacsecState_keepsRegs (p st : Nat) (d : Dev) : KeepsRegs [Reg.macsecState.key p] d (d.setMacsecState p st) := by
  obtain ⟨he, -⟩ | ht := told_setMacsecState p st d
  · rw [he]
    exact .refl _ d
  · exact ((KeepsRegs.refl _ d).setNat _ _ _ _ (.head _)).told ht

/-- The SAs of an association number held in place of an older one of that number, two at most. -/
def addSa (an : Nat) (cak ckn key : Octets) (l : List MacSa) : List MacSa :=
  ({ an := an % 4, key := Config.mkaUnwrap cak ckn key, next := 1 } :: l.filter fun s => s.an ≠ an % 4).take 2

/-- The SAs of both directions installed, before MacsecState tells of it. -/
def saInstalled (p an : Nat) (rxKey txKey : Octets) (peer own : Nat) (d : Dev) : Dev :=
  let cak := nget [] d.sec.keys (Reg.macsecCak.key p)
  let ckn := d.bytes Reg.macsecCkn p
  (((d.setPort p fun q => { q with secured := true, txSci := own, rxSas := addSa an cak ckn rxKey q.rxSas, txSas := addSa an cak ckn txKey q.txSas }).setNat
    Reg.macsecTxAn (an % 4) p).setNat Reg.macsecTxPn 1 p).setNat Reg.macsecPeerSci peer p

section

variable {p : Nat} (hp : p < 4) (hm : d.nat Reg.macsecMode p ≠ 0) (hl : d.nat Reg.linkState p = 2) (an : Nat) (rxKey txKey : Octets) (peer own : Nat)

include hp hm hl

theorem mkaSecured_keyed (hcak : nget [] d.sec.keys (Reg.macsecCak.key p) ≠ []) (hckn : d.bytes Reg.macsecCkn p ≠ []) :
    d.mkaSecured p an rxKey txKey peer own = (d.saInstalled p an rxKey txKey peer own).setMacsecState p 2 := by
  unfold mkaSecured
  rw [if_neg (by simp [hp, hm, portUp, hl])]
  dsimp only
  rw [if_neg (by simp [List.isEmpty_iff, hcak, hckn])]
  rfl

theorem mkaSecured_unkeyed (h : nget [] d.sec.keys (Reg.macsecCak.key p) = [] ∨ d.bytes Reg.macsecCkn p = []) (hs : (d.port p).secured = false) :
    d.mkaSecured p an rxKey txKey peer own = d.setMacsecState p 3 := by
  unfold mkaSecured
  rw [if_neg (by simp [hp, hm, portUp, hl])]
  dsimp only
  rw [if_pos (by simpa [List.isEmpty_iff] using h), if_neg (by simp [hs])]

end

theorem saInstalled_entries (p an : Nat) (rxKey txKey : Octets) (peer own : Nat) (d : Dev) :
    (d.saInstalled p an rxKey txKey peer own).nat Reg.macsecTxAn p = an % 4 ∧ (d.saInstalled p an rxKey txKey peer own).nat Reg.macsecTxPn p = 1 ∧
      (d.saInstalled p an rxKey txKey peer own).nat Reg.macsecPeerSci p = peer ∧
      KeepsRegs [Reg.macsecTxAn.key p, Reg.macsecTxPn.key p, Reg.macsecPeerSci.key p] d (d.saInstalled p an rxKey txKey peer own) := by
  unfold saInstalled
  refine ⟨?_, ?_, nat_setNat_same _ _ _ _ _, ?_⟩
  · rw [nat_setNat_ne, nat_setNat_ne, nat_setNat_same] <;> simp [macsecTxAn_key, macsecTxPn_key, macsecPeerSci_key]
  · rw [nat_setNat_ne, nat_setNat_same]
    simp [macsecTxPn_key, macsecPeerSci_key]
  · exact ((((KeepsRegs.refl _ d).setPort p _).setNat _ _ _ _ (by simp)).setNat _ _ _ _ (by simp)).setNat _ _ _ _ (by simp)

theorem saInstalled_secured {p : Nat} (hp : p < 5) (an : Nat) (rxKey txKey : Octets) (peer own : Nat) (d : Dev) :
    ((d.saInstalled p an rxKey txKey peer own).port p).secured = true :=
  congrArg Port.secured (setPort_port_same d p _ hp)

/-! ### Receive flows (R301, R315) -/

theorem rxState_untold {f : Nat} (hf : f < 1024) : Reg.rxState.key f ∉ tellKeys := by
  simp only [rxState_key, tellKeys, List.mem_cons, List.not_mem_nil, or_false]; omega

theorem rxPathState_untold {f : Nat} (hf : f < 1024) : Reg.rxPathState.key f ∉ tellKeys := by
  simp only [rxPathState_key, tellKeys, List.mem_cons, List.not_mem_nil, or_false]; omega

/-- A cause does nothing while the recorder is off. -/
theorem recTrigger_off (bit : Nat) (h : d.nat Reg.recorderState = 0) : d.recTrigger bit = d := by
  unfold recTrigger
  dsimp only
  split
  · rfl
  · rw [h]
    rfl

/-- A flow stale, before it is told. -/
def flowStale (f : Nat) (d : Dev) : Dev :=
  (if d.nat Reg.rxSecondPort f = 0xFF then (d.setRx f fun r => { r with paths := [none, none] }).setNat Reg.rxPathState 0 f else d).setNat Reg.rxState 3 f

theorem flowStale_state (f : Nat) (d : Dev) : (d.flowStale f).nat Reg.rxState f = 3 := nat_setNat_same _ _ _ _ _

theorem flowStale_single {f : Nat} (h : d.nat Reg.rxSecondPort f = 0xFF) :
    (d.flowStale f).nat Reg.rxPathState f = 0 ∧ KeepsRegs [Reg.rxState.key f, Reg.rxPathState.key f] d (d.flowStale f) := by
  unfold flowStale
  rw [if_pos h]
  refine ⟨?_, (((KeepsRegs.refl _ d).of_regs rfl).setNat _ _ _ _ (by simp)).setNat _ _ _ _ (by simp)⟩
  rw [nat_setNat_ne, nat_setNat_same]
  simp [rxState_key, rxPathState_key]

theorem flowStale_dual {f : Nat} (h : d.nat Reg.rxSecondPort f ≠ 0xFF) : KeepsRegs [Reg.rxState.key f] d (d.flowStale f) := by
  unfold flowStale
  rw [if_neg h]
  exact (KeepsRegs.refl _ d).setNat _ _ _ _ (by simp)

theorem flowStale_keepsRegs (f : Nat) (d : Dev) : KeepsRegs [Reg.rxState.key f, Reg.rxPathState.key f] d (d.flowStale f) := by
  by_cases h : d.nat Reg.rxSecondPort f = 0xFF
  · exact (flowStale_single h).2
  · exact (flowStale_dual h).mono fun k hk => List.mem_cons.2 (.inl (List.mem_singleton.1 hk))

theorem flowTimeout_due {f : Nat} (hs : d.nat Reg.rxState f = 2) (hr : d.Reaches ((d.rxFlow f).lastAt + msCycles (d.nat Reg.rxTimeout)))
    (hoff : d.nat Reg.recorderState = 0) :
    d.flowTimeout f = ((d.advanceTo ((d.rxFlow f).lastAt + msCycles (d.nat Reg.rxTimeout))).flowStale f).notice 0x3402 (f * 65536) := by
  unfold flowTimeout
  rw [if_neg (not_not_intro hs), onDue_eq _ _ _ hr]
  refine recTrigger_off 3 ?_
  have hkey : Reg.recorderState.key ∉ [Reg.rxState.key f, Reg.rxPathState.key f] := by
    simp only [recorderState_key, rxState_key, rxPathState_key, List.mem_cons, List.not_mem_nil, or_false]; omega
  exact ((notice_nat _ _ _ _ _ _ (by decide)).trans ((flowStale_keepsRegs f _).nat _ _ _ hkey (by decide))).trans
    ((advanceTo_nat _ _ _ _ _).trans hoff)

/-- A path down, before it is told. -/
def pathLost (f i : Nat) (d : Dev) : Dev :=
  (d.setRx f fun r => { r with paths := r.paths.set i none }).setNat Reg.rxPathState (setBit (d.nat Reg.rxPathState f) i false) f

theorem pathTimeout_due {f i t : Nat} (h : (d.rxFlow f).paths.getD i none = some t) (hs : d.nat Reg.rxSecondPort f ≠ 0xFF)
    (hr : d.Reaches (t + msCycles (d.nat Reg.rxTimeout))) :
    d.pathTimeout f i = ((d.advanceTo (t + msCycles (d.nat Reg.rxTimeout))).pathLost f i).notice 0x3404 (f * 65536 + i) := by
  unfold pathTimeout
  simp only [h]
  rw [if_neg hs]
  exact onDue_eq _ _ _ hr

theorem testBit_setBit_false (x i : Nat) : (setBit x i false).testBit i = false := by
  unfold setBit
  split
  · assumption
  next h =>
    have hbit : x.testBit i = true := by simpa using h
    rw [Nat.testBit_eq_decide_div_mod_eq, decide_eq_true_eq] at hbit
    have hdiv : (x - 2 ^ i) / 2 ^ i = x / 2 ^ i - 1 := by simpa using Nat.sub_mul_div x (2 ^ i) 1
    rw [if_neg Bool.false_ne_true, Nat.testBit_eq_decide_div_mod_eq, hdiv, decide_eq_false_iff_not]
    omega

theorem pathLost_bit (f i : Nat) (d : Dev) : ((d.pathLost f i).nat Reg.rxPathState f).testBit i = false := by
  rw [pathLost, nat_setNat_same, testBit_setBit_false]

theorem pathLost_keepsRegs (f i : Nat) (d : Dev) : KeepsRegs [Reg.rxPathState.key f] d (d.pathLost f i) :=
  ((KeepsRegs.refl _ d).of_regs (setRx_regs f _ d)).setNat _ _ _ _ (.head _)

/-! ### Membership reports (R302) -/

/-- The report of a group's last change made, so that it is not due again. -/
def reported (p group : Nat) (d : Dev) : Dev :=
  d.setPort p fun q => { q with members := q.members.map fun x => if x.group = group then { x with again := [], reportDue := none } else x }

theorem igmpRecord_v3 {p : Nat} (h : (d.port p).oldQueriers = (0, 0)) (group : Nat) (sources : List Nat) (kind : Nat) :
    d.igmpRecord p group sources kind = d.emit (.igmp p group sources kind) := by
  have hv : d.igmpVersion p = 3 := by simp [igmpVersion, h]
  unfold igmpRecord
  rw [hv]
  rfl

theorem igmpSecond_due {p group : Nat} {m : IgmpGroup} {r : Nat × List Nat}
    (hm : (d.port p).members.find? (fun m => m.group == group && m.reportDue.isSome) = some m) (ha : m.again = [r])
    (hq : (d.port p).oldQueriers = (0, 0)) (hr : d.Reaches (m.reportDue.getD 0)) :
    d.igmpSecond p group = ((d.advanceTo (m.reportDue.getD 0)).emit (.igmp p m.group r.2 r.1)).reported p m.group := by
  unfold igmpSecond
  rw [hm]
  dsimp only
  rw [onDue_eq _ _ _ hr, ha, List.foldl_cons, List.foldl_nil, igmpRecord_v3 (by rw [advanceTo_port, hq])]
  rfl

theorem reported_none {p : Nat} (hp : p < 5) (group : Nat) (d : Dev) :
    ((d.reported p group).port p).members.find? (fun m => m.group == group && m.reportDue.isSome) = none := by
  rw [reported, setPort_port_same _ _ _ hp, List.find?_eq_none]
  simp only [List.mem_map, Bool.and_eq_true, beq_iff_eq, not_and]
  rintro _ ⟨x, -, rfl⟩ hg
  by_cases hx : x.group = group
  · simp [hx]
  · rw [if_neg hx] at hg
    exact absurd hg hx

end Dev

/-- Settles O35: each timer is an equation of the lemmas above, whose right side says what it writes. -/
theorem portTimers : Obligations.PortTimers := by
  intro s ha
  refine ⟨fun p an rxKey txKey peer own hp hm hl => ⟨fun hcak hckn => ?_, fun h hs => ?_⟩, fun f hf hs h2 hr hoff => ?_, fun f hf hs h2 hr hoff => ?_,
    fun f i t hf hi h h2 hr => ?_, fun p group m r hp hm hagain hq hr => ?_⟩ <;> refine up_completes rfl ha ?_
  · rw [Dev.mkaSecured_keyed hp hm hl an rxKey txKey peer own hcak hckn]
    obtain ⟨han, hpn, hpeer, hkeep⟩ := Dev.saInstalled_entries p an rxKey txKey peer own s.dev
    have reads : ∀ r ∈ [Reg.macsecTxAn, Reg.macsecTxPn, Reg.macsecPeerSci], ((s.dev.saInstalled p an rxKey txKey peer own).setMacsecState p 2).nat r p =
        (s.dev.saInstalled p an rxKey txKey peer own).nat r p := by
      intro r hr
      simp only [List.mem_cons, List.not_mem_nil, or_false] at hr
      obtain rfl | rfl | rfl := hr <;> refine (Dev.setMacsecState_keepsRegs p 2 _).nat _ _ _ ?_ ?_ <;>
        simp only [macsecTxAn_key, macsecTxPn_key, macsecPeerSci_key, macsecState_key, tellKeys, List.mem_cons, List.not_mem_nil, or_false] <;> omega
    refine ⟨Dev.setMacsecState_state hp 2 _, (reads _ (by simp)).trans han, (reads _ (by simp)).trans hpn, (reads _ (by simp)).trans hpeer, ?_, ?_⟩
    · rw [Dev.port_congr (Dev.setMacsecState_ports _ _ _), Dev.saInstalled_secured (by omega)]
    · exact (hkeep.mono fun k hk => .tail _ hk).trans ((Dev.setMacsecState_keepsRegs p 2 _).mono fun k hk => by simp_all)
  · rw [Dev.mkaSecured_unkeyed hp hm hl an rxKey txKey peer own h hs]
    exact ⟨Dev.setMacsecState_state hp 3 _, Dev.setMacsecState_ports _ _ _, Dev.setMacsecState_keepsRegs p 3 _⟩
  · rw [Dev.flowTimeout_due hs hr hoff]
    refine ⟨(Dev.notice_nat _ _ _ _ _ _ (Dev.rxState_untold hf)).trans (Dev.flowStale_state f _), ?_⟩
    exact ((Dev.KeepsRegs.advanceTo _ _).trans (Dev.flowStale_dual (by rwa [Dev.advanceTo_nat]))).told (Dev.told_notice _ _ _)
  · rw [Dev.flowTimeout_due hs hr hoff]
    obtain ⟨hpath, hkeep⟩ := Dev.flowStale_single (f := f) (d := s.dev.advanceTo ((s.dev.rxFlow f).lastAt + Dev.msCycles (s.dev.nat Reg.rxTimeout)))
      ((Dev.advanceTo_nat _ _ _ _ _).trans h2)
    refine ⟨(Dev.notice_nat _ _ _ _ _ _ (Dev.rxState_untold hf)).trans (Dev.flowStale_state f _), ?_, ?_⟩
    · exact (Dev.notice_nat _ _ _ _ _ _ (Dev.rxPathState_untold hf)).trans hpath
    · exact ((Dev.KeepsRegs.advanceTo _ _).trans hkeep).told (Dev.told_notice _ _ _)
  · rw [Dev.pathTimeout_due h h2 hr]
    refine ⟨?_, ?_⟩
    · rw [Dev.notice_nat _ _ _ _ _ _ (Dev.rxPathState_untold hf), Dev.pathLost_bit]
    · exact ((Dev.KeepsRegs.advanceTo _ _).trans (Dev.pathLost_keepsRegs f i _)).told (Dev.told_notice _ _ _)
  · rw [Dev.igmpSecond_due hm hagain hq hr]
    have hg : m.group = group := by
      have := List.find?_some hm
      simp only [Bool.and_eq_true, beq_iff_eq] at this
      exact this.1
    refine ⟨?_, ?_, Dev.advanceTo_regs _ _⟩
    · show _ :: (s.dev.advanceTo _).out = _
      rw [Dev.advanceTo_out]
    · rw [hg]
      exact Dev.reported_none hp group _

end Sys2Proof.Machine
end

