-- ==== Sys2Proof/Proofs/FrameTransmission.lean ====
section
/-! A frame that leaves a port, its end, and the time-stamp queue: what each event does (R266, R274, R277, R278, R347). -/

namespace Sys2Proof.Machine

namespace Dev

variable {d e : Dev} {p : Nat}

/-! ### Transmit rings (R274, R277) -/

theorem setTxRing_same {k : Nat} (hk : k < 16) (r : TxRing) (d : Dev) : (d.setTxRing k r).txRing k = r := Fixed.get_modify_same _ _ _ _ hk

@[simp] theorem setTxRing_ports (k : Nat) (r : TxRing) (d : Dev) : (d.setTxRing k r).ports = d.ports := rfl

theorem setTxRing_keepsRegs (k : Nat) (r : TxRing) (d : Dev) : KeepsRegs [Reg.txRingPending.key k] d (d.setTxRing k r) :=
  ((KeepsRegs.refl _ d).of_regs rfl : KeepsRegs _ d { d with txRings := d.txRings.modify k fun _ => r }).setNat _ _ _ _ (.head _)

theorem setTxRing_pending (k : Nat) (r : TxRing) (d : Dev) : (d.setTxRing k r).nat Reg.txRingPending k = r.posted.length + r.busy.length :=
  nat_setNat_same _ _ _ _ _

@[simp] theorem bump_txRings (d : Dev) (r : Row) (i n : Nat) : (d.bump r i n).txRings = d.txRings := by unfold bump; split <;> rfl

theorem txRing_congr (h : e.txRings = d.txRings) (k : Nat) : e.txRing k = d.txRing k := by rw [txRing, h, txRing]

/-- A ring with the descriptors of its frame written back, and TxRingPending with it. -/
def writtenBack (k status : Nat) (ds : List TxDesc) (d : Dev) : Dev :=
  d.setTxRing k { d.txRing k with busy := [], done := (d.txRing k).done ++ ds.map fun x => { x with status } }

theorem txWriteBack_sent (k : Nat) (ds : List TxDesc) (d : Dev) : d.txWriteBack k 0 ds = (d.writtenBack k 0 ds).bump Reg.txRingFrames k := by
  rw [txWriteBack, if_pos rfl]
  rfl

theorem txWriteBack_failed {status : Nat} (h : status ≠ 0) (k : Nat) (ds : List TxDesc) (d : Dev) :
    d.txWriteBack k status ds = ((d.writtenBack k status ds).bump Reg.txRingErrors k).notice 0x300A (k * 65536 + status) := by
  rw [txWriteBack, if_neg h]
  rfl

theorem txWriteBack_ports (k status : Nat) (ds : List TxDesc) (d : Dev) : (d.txWriteBack k status ds).ports = d.ports := by
  by_cases h : status = 0
  · rw [h, txWriteBack_sent, bump_ports, writtenBack, setTxRing_ports]
  · rw [txWriteBack_failed h, notice_ports, bump_ports, writtenBack, setTxRing_ports]

theorem txWriteBack_ring {k : Nat} (hk : k < 16) (status : Nat) (ds : List TxDesc) (d : Dev) :
    ((d.txWriteBack k status ds).txRing k).busy = [] ∧
      ((d.txWriteBack k status ds).txRing k).done = (d.txRing k).done ++ ds.map fun x => { x with status } := by
  have h : (d.txWriteBack k status ds).txRing k = (d.writtenBack k status ds).txRing k := by
    refine txRing_congr ?_ k
    by_cases h : status = 0
    · rw [h, txWriteBack_sent, bump_txRings]
    · rw [txWriteBack_failed h, notice_txRings, bump_txRings]
  rw [h, writtenBack, setTxRing_same hk]
  exact ⟨rfl, rfl⟩

theorem txRing_untold {k : Nat} (hk : k < 16) : Reg.txRingFrames.key k ∉ tellKeys ∧ Reg.txRingErrors.key k ∉ tellKeys := by
  simp only [txRingFrames_key, txRingErrors_key, tellKeys, List.mem_cons, List.not_mem_nil, or_false]; omega

theorem txWriteBack_frames {k : Nat} (hk : k < 16) (ds : List TxDesc) (d : Dev) :
    (d.txWriteBack k 0 ds).nat Reg.txRingFrames k = (d.nat Reg.txRingFrames k + 1) % 2 ^ 32 := by
  rw [txWriteBack_sent, nat_bump_same, writtenBack, (setTxRing_keepsRegs k _ d).nat _ _ _ _ (txRing_untold hk).1]
  · rfl
  · simp [txRingFrames_key, txRingPending_key]

theorem txWriteBack_errors {k status : Nat} (hk : k < 16) (h : status ≠ 0) (ds : List TxDesc) (d : Dev) :
    (d.txWriteBack k status ds).nat Reg.txRingErrors k = (d.nat Reg.txRingErrors k + 1) % 2 ^ 32 := by
  rw [txWriteBack_failed h, notice_nat _ _ _ _ _ _ (txRing_untold hk).2, nat_bump_same, writtenBack,
    (setTxRing_keepsRegs k _ d).nat _ _ _ _ (txRing_untold hk).2]
  · rfl
  · simp [txRingErrors_key, txRingPending_key]

/-- Descriptors written back concern no entry outside the ring's own. -/
theorem txWriteBack_other {k status : Nat} {r : Row} {i j : Nat} (hr : ∀ x ∈ [Reg.txRingPending, Reg.txRingFrames, Reg.txRingErrors], r.key i j ≠ x.key k)
    (ht : r.key i j ∉ tellKeys) (ds : List TxDesc) (d : Dev) : (d.txWriteBack k status ds).nat r i j = d.nat r i j := by
  have hset : (d.writtenBack k status ds).nat r i j = d.nat r i j :=
    (setTxRing_keepsRegs k _ d).nat _ _ _ (fun h => hr _ (by simp) (List.mem_singleton.1 h)) ht
  by_cases h : status = 0
  · subst h
    rw [txWriteBack_sent, nat_bump_ne _ _ _ _ _ _ _ (hr _ (by simp)), hset]
  · rw [txWriteBack_failed h, notice_nat _ _ _ _ _ _ ht, nat_bump_ne _ _ _ _ _ _ _ (hr _ (by simp)), hset]

/-! ### The start of a frame (R266, R278) -/

theorem endLpi_awake (h : (d.port p).lpi = false) : d.endLpi p = d := by rw [endLpi, h, if_neg Bool.false_ne_true]

theorem protects_off (h : d.nat Reg.macsecMode p = 0) : d.protects p = false := by simp [protects, h]

theorem onWire_plain (h : d.protects p = false) (w : Octets) : d.onWire p w = (some w, d) := by
  unfold onWire
  rw [if_pos (by rw [h]; rfl)]

theorem headFrame_single {x : TxDesc} (h : x.buf.last = true) : headFrame [x] = ([x], []) := by rw [headFrame, if_pos h]

theorem length_toBE (n v : Nat) : (toBE n v).length = n := by
  induction n generalizing v with
  | zero => rfl
  | succ n ih => simp [toBE, ih]

/-- A buffer's octets with a port's MAC address as their source. -/
def sourced (p : Nat) (data : Octets) (d : Dev) : Octets := data.take 6 ++ toBE 6 (d.nat Reg.macAddress p) ++ data.drop 12

theorem length_sourced (p : Nat) (data : Octets) (d : Dev) (h : 12 ≤ data.length) : (d.sourced p data).length = data.length := by
  simp only [sourced, List.length_append, List.length_take, List.length_drop, length_toBE]; omega

/-- A frame on the wire as it was handed over, of one descriptor of a ring. -/
def wired (p k : Nat) (x : TxDesc) (w : Octets) (d : Dev) : Dev :=
  (d.setPort p fun q => { q with sending := some { ring := some k, flow := none, descs := [x], octets := w, image := w, bad := false } }).emit (.frame p w)

@[simp] theorem wired_out (p k : Nat) (x : TxDesc) (w : Octets) (d : Dev) : (d.wired p k x w).out = .frame p w :: d.out := rfl
@[simp] theorem wired_regs (p k : Nat) (x : TxDesc) (w : Octets) (d : Dev) : (d.wired p k x w).regs = d.regs := rfl
@[simp] theorem wired_txRings (p k : Nat) (x : TxDesc) (w : Octets) (d : Dev) : (d.wired p k x w).txRings = d.txRings := rfl

theorem wired_descs {p : Nat} (hp : p < 5) (k : Nat) (x : TxDesc) (w : Octets) (d : Dev) : ((d.wired p k x w).port p).sending.map (·.descs) = some [x] := by
  rw [wired, port_congr (emit_ports _ _), setPort_port_same _ _ _ hp]
  rfl

theorem sendFrame_plain (h : d.nat Reg.macsecMode p = 0) {w : Octets} (hw : 60 ≤ w.length) (k : Nat) (x : TxDesc) :
    d.sendFrame p (some k) [x] w = d.wired p k x w := by
  have hpad : w ++ List.replicate (60 - w.length) (octet 0) = w := by rw [Nat.sub_eq_zero_of_le hw, List.replicate_zero, List.append_nil]
  unfold sendFrame
  dsimp only
  rw [hpad, onWire_plain (protects_off h)]
  rfl

/-- What a frame of one buffer must be for its port to send it as it stands: whole, for that port, without stamp, in reach and of a length
in order (R266, R277). -/
structure Plain (d : Dev) (p : Nat) (x : TxDesc) : Prop where
  first : x.buf.first = true
  last : x.buf.last = true
  port : x.buf.port = p
  stamp : x.buf.stampRequest = false
  oneStep : x.buf.oneStep = false
  controlled : x.buf.uncontrolled = false
  inReach : ringBuffer x.buf.addr x.buf.data.length = true
  atLeast : 60 ≤ x.buf.data.length
  atMost : x.buf.data.length ≤ 16383
  fits : x.buf.data.length + 4 ≤ d.nat Reg.maxFrame p

theorem txRefused_plain {x : TxDesc} (h : d.Plain p x) (hl : d.nat Reg.linkState p = 2) (hm : d.nat Reg.macsecMode p = 0) {w : Octets}
    (hw : w.length = x.buf.data.length) : d.txRefused p [x] w = none := by
  obtain ⟨hfirst, -, hport, -, -, hctl, hreach, hleast, hmost, hfits⟩ := h
  have hup : d.portUp p = true := beq_iff_eq.2 hl
  have hne : x.buf.data ≠ [] := by
    rintro he
    rw [he] at hleast
    exact absurd hleast (by decide)
  unfold txRefused
  simp only [protects_off hm, hup, Bool.false_and, Bool.not_true, Bool.false_eq_true, if_false, List.any_cons, List.any_nil, Bool.or_false, hreach,
    hport, bne_self_eq_false, hctl, List.head?_cons, Option.map_some, Option.getD_some, hfirst, hw]
  rw [if_neg (by simp [hne]; omega), if_neg (by omega)]

/-- The one descriptor of TX 5's frame taken for sending: it stays owned (R274). -/
def taken (x : TxDesc) (d : Dev) : Dev := d.setTxRing 5 { posted := [], busy := [x], done := (d.txRing 5).done }

@[simp] theorem taken_out (x : TxDesc) (d : Dev) : (d.taken x).out = d.out := rfl

theorem taken_ring (x : TxDesc) (d : Dev) : (d.taken x).txRing 5 = { posted := [], busy := [x], done := (d.txRing 5).done } := setTxRing_same (by decide) _ d

theorem taken_pending (x : TxDesc) (d : Dev) : (d.taken x).nat Reg.txRingPending 5 = 1 := setTxRing_pending _ _ d

theorem taken_keepsRegs (x : TxDesc) (d : Dev) : KeepsRegs [Reg.txRingPending.key 5] d (d.taken x) := setTxRing_keepsRegs 5 _ d

theorem taken_nat {r : Row} {i j : Nat} (h : r.key i j ≠ Reg.txRingPending.key 5) (x : TxDesc) (d : Dev) : (d.taken x).nat r i j = d.nat r i j :=
  nat_setNat_ne _ _ _ _ _ _ _ _ h

theorem wakePort_awake (h : (d.port p).lpi = false) : d.wakePort p = d.advanceTo (d.port p).wakeAt := by rw [wakePort, endLpi_awake h]

theorem startRingFrame_plain {x : TxDesc} (h : d.Plain p x) (hl : d.nat Reg.linkState p = 2) (hm : d.nat Reg.macsecMode p = 0)
    (hi : (d.port p).lpi = false) (hx : (d.txRing 5).posted = [x]) :
    d.startRingFrame p 5 = ((d.taken x).advanceTo (d.port p).wakeAt).wired p 5 x (d.sourced p x.buf.data) := by
  have hlen := length_sourced p x.buf.data d (by have := h.atLeast; omega)
  have reads (r : Row) (hk : r.key p ≠ Reg.txRingPending.key 5) : (d.taken x).nat r p = d.nat r p := taken_nat hk x d
  have hmode : (d.taken x).nat Reg.macsecMode p = 0 := (reads _ (by simp only [macsecMode_key, txRingPending_key]; omega)).trans hm
  have hplain : (d.taken x).Plain p x := by
    refine { h with fits := ?_ }
    rw [reads _ (by simp only [maxFrame_key, txRingPending_key]; omega)]
    exact h.fits
  have hpass := txRefused_plain hplain ((reads _ (by simp only [linkState_key, txRingPending_key]; omega)).trans hl) hmode hlen
  have hwake : (d.taken x).wakePort p = (d.taken x).advanceTo (d.port p).wakeAt := wakePort_awake hi
  have hsend := sendFrame_plain (d := (d.taken x).advanceTo (d.port p).wakeAt) (p := p) ((advanceTo_nat _ _ _ _ _).trans hmode)
    (by rw [hlen]; exact h.atLeast) 5 x
  unfold startRingFrame
  extract_lets r head ds body w d1 awake stamp want one w' counted noted sent
  have hds : ds = [x] := by simp only [ds, head, r, hx, headFrame_single h.last]
  have hw : w = d.sourced p x.buf.data := by simp only [w, body, hds, sourced, List.flatMap_cons, List.flatMap_nil, List.append_nil]
  have hd1 : d1 = d.taken x := by simp only [d1, taken, hds, head, r, hx, headFrame_single h.last]
  have hwant : want = false := by simp [want, hds, h.oneStep]
  have hw' : w' = d.sourced p x.buf.data := by simp [w', one, hwant, hw]
  have hnoted : noted = (d.taken x).advanceTo (d.port p).wakeAt := by simp [noted, counted, hwant, awake, hd1, hwake]
  have hsent : sent = ((d.taken x).advanceTo (d.port p).wakeAt).wired p 5 x (d.sourced p x.buf.data) := by simp only [sent, hds, hw', hnoted, hsend]
  have hstamp : ds.find? (·.buf.stampRequest) = none := by simp [hds, h.stamp]
  rw [hd1, hds, hw, hpass, ← hds, hstamp, ← hsent]

/-- A port with nothing else to do takes the frame of its highest ring. -/
theorem txStart_ring5 {x : TxDesc} (h : d.Plain p x) (hs : (d.port p).sending = none) (hc : (d.port p).control = [])
    (hh : (d.port p).heldUntil = none) (hi : (d.port p).lpi = false) (hx : (d.txRing 5).posted = [x]) (hb : (d.txRing 5).busy = []) :
    d.txStart p [] = d.startRingFrame p 5 := by
  have hready : d.readyFor p 5 = true := by
    rw [readyFor, hb, hx, headFrame_single h.last]
    simp [h.last, h.port]
  have hnext : d.nextRing p = some 5 := by rw [nextRing, if_pos hready]
  unfold txStart
  simp only [txPost, List.foldl_nil, endLpi_awake hi, ite_self, hs, hc, hh, hnext, Option.isSome_none, Bool.false_eq_true, if_false]

/-! ### The end of a frame (R266, R277) -/

/-- The counters that sending advances: octets, frames, their kinds, flow packets and ring frames. -/
def sentKeys (p : Nat) : List Nat := [0x1E, 0x1F, 0x20, 0x21, 0x22, 0x23, 0x24].map fun j => Reg.portCounter.key p j

/-- `e` is `d` after frames were counted and sent on a port: its frame in progress, the rings and the entries but those counters stand. -/
structure Sends (p : Nat) (d e : Dev) : Prop where
  sending : (e.port p).sending = (d.port p).sending
  txRings : e.txRings = d.txRings
  entries : KeepsRegs (sentKeys p) d e

namespace Sends

theorem refl (d : Dev) : Sends p d d := ⟨rfl, rfl, .refl _ d⟩

theorem trans {f : Dev} (h : Sends p d e) (h' : Sends p e f) : Sends p d f :=
  ⟨h'.sending.trans h.sending, h'.txRings.trans h.txRings, h.entries.trans h'.entries⟩

theorem emit (h : Sends p d e) (o : Out) : Sends p d (e.emit o) := ⟨h.sending, h.txRings, h.entries.of_regs rfl⟩

theorem portCount (h : Sends p d e) (sub n : Nat) (hs : 0x1F ≤ sub ∧ sub ≤ 0x25) : Sends p d (e.portCount p sub n) := by
  have hk : Reg.portCounter.key p (sub - 1) ∈ sentKeys p := by
    refine List.mem_map_of_mem ?_
    simp only [List.mem_cons, List.not_mem_nil, or_false]
    omega
  exact ⟨by rw [portCount_port, h.sending], by rw [portCount_txRings, h.txRings], h.entries.portCount p sub n hk⟩

theorem countTxOctets (hp : p < 5) (h : Sends p d e) (n : Nat) : Sends p d (e.countTxOctets p n) := by
  have hset (x : Nat) : Sends p d (e.setPort p fun q => { q with txOctets := x }) :=
    ⟨by rw [setPort_port_same _ _ _ hp, h.sending], h.txRings, h.entries.setPort _ _⟩
  exact (hset _).portCount 0x1F _ (by decide)

theorem endFrame (hp : p < 5) (h : Sends p d e) (f : TxFrame) : Sends p d (e.endFrame p f) := by
  refine Sends.portCount (((h.emit _).portCount 0x20 1 (by decide)).countTxOctets hp _) _ 1 ?_
  split
  · decide
  · split <;> decide

theorem flowsOut (hp : p < 5) (h : Sends p d e) (l : List TxFrame) : Sends p d (l.foldl (fun (d : Dev) f => d.flowOut p f) e) := by
  induction l generalizing e with
  | nil => exact h
  | cons f l ih => exact ih (((h.emit (.frame p f.image)).endFrame hp f).portCount 0x24 1 (by decide))

/-- An entry that is none of those counters reads as before. -/
theorem nat (h : Sends p d e) {r : Row} {i j : Nat} (hk : r.key i j ∉ sentKeys p) (ht : r.key i j ∉ tellKeys) : e.nat r i j = d.nat r i j :=
  h.entries.nat r i j hk ht

end Sends

/-- A port whose frame has ended. -/
def lineFree (p : Nat) (d : Dev) : Dev := d.setPort p fun q => { q with sending := none, flowQueue := [], idleSince := d.clock }

theorem lineFree_sending (hp : p < 5) (d : Dev) : ((d.lineFree p).port p).sending = none := by rw [lineFree, setPort_port_same _ _ _ hp]

@[simp] theorem lineFree_regs (p : Nat) (d : Dev) : (d.lineFree p).regs = d.regs := rfl
@[simp] theorem lineFree_txRings (p : Nat) (d : Dev) : (d.lineFree p).txRings = d.txRings := rfl

theorem txComplete_idle (h : (d.port p).sending = none) (underrun : Bool) : d.txComplete p underrun = d := by
  unfold txComplete
  rw [h]

theorem txComplete_whole {f : TxFrame} {k : Nat} (h : (d.port p).sending = some f) (hk : f.ring = some k) (hb : f.bad = false) :
    d.txComplete p false = (d.port p).flowQueue.foldl (fun (d : Dev) f => d.flowOut p f)
      ((((d.lineFree p).endFrame p f).portCount p 0x25).txWriteBack k 0 f.descs) := by
  unfold txComplete
  simp only [h, hk, hb, Bool.or_false, Bool.false_eq_true, if_false]
  rfl

theorem txComplete_cut {f : TxFrame} {k : Nat} (h : (d.port p).sending = some f) (hk : f.ring = some k) :
    d.txComplete p true = (d.port p).flowQueue.foldl (fun (d : Dev) f => d.flowOut p f) (((d.lineFree p).cutFrame p f).txWriteBack k 4 f.descs) := by
  unfold txComplete
  simp only [h, hk, Bool.true_or, if_true]
  rfl

/-- The frame cut on the wire: what was sent of it is free, and so is its wrong FCS. -/
def cutOnWire (p : Nat) (f : TxFrame) (d : Dev) : Dev :=
  let n := d.freeNat.1 % (f.image.length + 1)
  let x := d.freeNat.2.freeNat
  x.2.emit (.frameEnd p n (toLE 4 ((fromLE (frameFcs (f.image.take n)) + 1 + x.1 % (2 ^ 32 - 1)) % 2 ^ 32)))

@[simp] theorem cutOnWire_regs (p : Nat) (f : TxFrame) (d : Dev) : (d.cutOnWire p f).regs = d.regs := rfl
@[simp] theorem cutOnWire_txRings (p : Nat) (f : TxFrame) (d : Dev) : (d.cutOnWire p f).txRings = d.txRings := rfl
@[simp] theorem cutOnWire_ports (p : Nat) (f : TxFrame) (d : Dev) : (d.cutOnWire p f).ports = d.ports := rfl

theorem cutFrame_eq (p : Nat) (f : TxFrame) (d : Dev) : d.cutFrame p f = (d.cutOnWire p f).portCount p 0x2D := rfl

/-- A ring's entries and the underrun counter are none of those that sending advances. -/
theorem ringEntries_unsent (p k : Nat) : Reg.txRingFrames.key k ∉ sentKeys p ∧ Reg.txRingErrors.key k ∉ sentKeys p ∧
    Reg.portCounter.key p 0x2C ∉ sentKeys p := by
  simp only [sentKeys, txRingFrames_key, txRingErrors_key, portCounter_key, List.map_cons, List.map_nil, List.mem_cons, List.not_mem_nil, or_false]
  omega

/-- What the end of a ring's frame leaves: the port free, and the ring's descriptors written back with one status. -/
theorem ringFrame_ended {m : Dev} {k : Nat} (status : Nat) (ds : List TxDesc) (hp : p < 5) (hk : k < 8) (hs : (m.port p).sending = none)
    (hr : m.txRings = d.txRings) (l : List TxFrame) :
    let e := l.foldl (fun (d : Dev) f => d.flowOut p f) (m.txWriteBack k status ds)
    Sends p (m.txWriteBack k status ds) e ∧ (e.port p).sending = none ∧ (e.txRing k).busy = [] ∧
      (e.txRing k).done = (d.txRing k).done ++ ds.map fun x => { x with status } := by
  intro e
  have he : Sends p (m.txWriteBack k status ds) e := (Sends.refl _).flowsOut hp l
  obtain ⟨hbusy, hdone⟩ := txWriteBack_ring (k := k) (by omega) status ds m
  refine ⟨he, ?_, ?_, ?_⟩
  · rw [he.sending, port_congr (txWriteBack_ports _ _ _ _), hs]
  · rw [txRing_congr he.txRings, hbusy]
  · rw [txRing_congr he.txRings, hdone, txRing_congr hr]

/-- The whole frame before its descriptors are written back. -/
theorem lineFree_sent (hp : p < 5) (f : TxFrame) (d : Dev) : Sends p (d.lineFree p) (((d.lineFree p).endFrame p f).portCount p 0x25) :=
  ((Sends.refl _).endFrame hp f).portCount 0x25 1 (by decide)

/-! ### The time-stamp queue (R347) -/

theorem tsStatus_empty (h : (d.port p).tsQueue = []) :
    d.tsStatus p = ({ d with fwRead := 32 * b2n (d.port p).tsOverflow }).setPort p fun q => { q with tsOverflow := false } := by
  unfold tsStatus
  simp only [h, List.isEmpty_nil, if_true, List.length_nil, Nat.zero_add]

theorem tsStatus_waiting (h : (d.port p).tsQueue ≠ []) :
    d.tsStatus p = { d with fwRead := (d.port p).tsQueue.length + 32 * b2n (d.port p).tsOverflow } := by
  unfold tsStatus
  dsimp only
  rw [if_neg (by simpa using h)]

theorem txPost_reads (posts : List (Nat × TxBuffer)) (d : Dev) : (d.txPost posts).ports = d.ports ∧ (d.txPost posts).fwRead = d.fwRead := by
  unfold txPost
  refine List.foldlRecOn posts _ (motive := fun e : Dev => e.ports = d.ports ∧ e.fwRead = d.fwRead) ⟨rfl, rfl⟩ ?_
  rintro e ⟨hports, hread⟩ x -
  dsimp only
  split
  · exact ⟨hports, hread⟩
  · exact ⟨hports, hread⟩

/-- The oldest entry read and removed. -/
def tsTaken (p : Nat) (x : TsEntry) (t : List TsEntry) (d : Dev) : Dev := ({ d with fwRead := tsWord x }).setPort p fun q => { q with tsQueue := t }

theorem tsEntry_first {x : TsEntry} {t : List TsEntry} (h : (d.port p).tsQueue = x :: t) : d.tsEntry p = d.tsTaken p x t := by
  unfold tsEntry
  rw [h]
  rfl

/-- What firmware does with an entry it has read changes neither the queues nor what it read. -/
theorem tsEntryRead_first {x : TsEntry} {t : List TsEntry} (h : (d.port p).tsQueue = x :: t) :
    (d.tsEntryRead p).ports = (d.tsTaken p x t).ports ∧ (d.tsEntryRead p).fwRead = tsWord x := by
  unfold tsEntryRead
  rw [tsEntry_first h, h]
  dsimp only [List.head?_cons]
  split
  · exact ⟨rfl, rfl⟩
  · split
    · split
      · split
        · exact ⟨rfl, rfl⟩
        · exact ⟨rfl, rfl⟩
      · exact ⟨rfl, rfl⟩
    · split
      · exact txPost_reads _ _
      · exact ⟨rfl, rfl⟩

theorem tsEntryRead_empty (h : (d.port p).tsQueue = []) : d.tsEntryRead p = { d with fwRead := 0 } := by
  unfold tsEntryRead tsEntry
  rw [h]
  rfl

end Dev

/-- Settles O33: the start, the end and the queue reads are the equations above, and what counting leaves gives the rest. -/
theorem frameTransmission : Obligations.FrameTransmission := by
  intro s ha p hp
  refine ⟨fun x hs hc hh hi hw hl hm hx hb hfirst hlast hport hstamp hone hctl hreach hleast hmost hfits => ?_, fun f k hf hr hb hk => ?_,
    fun f k hf hr hk => ?_, fun underrun h => ?_, fun h => ?_, fun h => ?_, fun x t h => ?_, fun h => ?_⟩ <;> refine up_completes rfl ha ?_
  case refine_1 =>
    have hplain : s.dev.Plain p x := ⟨hfirst, hlast, hport, hstamp, hone, hctl, hreach, hleast, hmost, hfits⟩
    rw [Dev.txStart_ring5 hplain hs hc hh hi hx hb, Dev.startRingFrame_plain hplain hl hm hi hx]
    have hring : (((s.dev.taken x).advanceTo (s.dev.port p).wakeAt).wired p 5 x (s.dev.sourced p x.buf.data)).txRing 5 =
        { posted := [], busy := [x], done := (s.dev.txRing 5).done } := by
      rw [Dev.txRing_congr (Dev.wired_txRings _ _ _ _ _), Dev.txRing_congr (Dev.advanceTo_txRings _ _), Dev.taken_ring]
    refine ⟨?_, Dev.wired_descs hp _ _ _ _, by rw [hring], by rw [hring], ?_, ?_⟩
    · rw [Dev.wired_out, Dev.advanceTo_out, Dev.taken_out, Dev.sourced]
    · rw [Dev.nat_congr (Dev.wired_regs _ _ _ _ _), Dev.advanceTo_nat, Dev.taken_pending]
    · exact ((Dev.taken_keepsRegs x _).trans (Dev.KeepsRegs.advanceTo _ _)).of_regs (Dev.wired_regs _ _ _ _ _)
  case refine_2 =>
    rw [Dev.txComplete_whole hf hr hb]
    have hsent := Dev.lineFree_sent hp f s.dev
    obtain ⟨he, hfree, hbusy, hdone⟩ := Dev.ringFrame_ended (d := s.dev) 0 f.descs hp hk (hsent.sending.trans (Dev.lineFree_sending hp _)) hsent.txRings
      (s.dev.port p).flowQueue
    obtain ⟨hframes, -, -⟩ := Dev.ringEntries_unsent p k
    have hcold := (Dev.txRing_untold (k := k) (by omega)).1
    refine ⟨hfree, ?_, hbusy, hdone⟩
    rw [he.nat hframes hcold, Dev.txWriteBack_frames (by omega), hsent.nat hframes hcold, Dev.nat_congr (Dev.lineFree_regs _ _)]
  case refine_3 =>
    rw [Dev.txComplete_cut hf hr, Dev.cutFrame_eq]
    obtain ⟨he, hfree, hbusy, hdone⟩ := Dev.ringFrame_ended (d := s.dev) (m := ((s.dev.lineFree p).cutOnWire p f).portCount p 0x2D) 4 f.descs hp hk
      (by rw [Dev.portCount_port, Dev.port_congr (Dev.cutOnWire_ports _ _ _), Dev.lineFree_sending hp])
      (by rw [Dev.portCount_txRings, Dev.cutOnWire_txRings, Dev.lineFree_txRings]) (s.dev.port p).flowQueue
    obtain ⟨-, herrors, hunder⟩ := Dev.ringEntries_unsent p k
    have hcold := (Dev.txRing_untold (k := k) (by omega)).2
    have hentry (r : Row) (i j : Nat) : ((s.dev.lineFree p).cutOnWire p f).nat r i j = s.dev.nat r i j := Dev.nat_congr (by simp) r i j
    have hcount : Reg.portCounter.key p 0x2C ∉ tellKeys := Dev.portCounter_untold hp (by decide)
    refine ⟨hfree, ?_, hbusy, hdone, ?_⟩
    · rw [he.nat herrors hcold, Dev.txWriteBack_errors (by omega) (by decide), Dev.portCount_other _ _ (by simp only [txRingErrors_key, portCounter_key]; omega) hcold, hentry]
    · rw [he.nat hunder hcount, Dev.txWriteBack_other ?_ hcount]
      · exact (Dev.portCount_same (sub := 0x2D) hp (by decide) _ 1).trans (by rw [hentry])
      · simp only [List.mem_cons, List.not_mem_nil, or_false, forall_eq_or_imp, forall_eq, portCounter_key, txRingPending_key, txRingFrames_key, txRingErrors_key]
        omega
  case refine_4 => exact Dev.txComplete_idle h underrun
  case refine_5 =>
    rw [Dev.tsStatus_empty h]
    exact ⟨rfl, by rw [Dev.setPort_port_same _ _ _ hp], rfl⟩
  case refine_6 => exact Dev.tsStatus_waiting h
  case refine_7 =>
    obtain ⟨hports, hread⟩ := Dev.tsEntryRead_first h
    refine ⟨?_, hread⟩
    rw [Dev.port_congr hports, Dev.tsTaken, Dev.setPort_port_same _ _ _ hp]
  case refine_8 => exact Dev.tsEntryRead_empty h

end Sys2Proof.Machine
end

