-- ==== Sys2Proof/Proofs/FrameReception.lean ====
section
/-! A frame that a port receives, what its checks refuse and what an EAPOL frame fills, and a descriptor posted (R264, R265, R273 to R276). -/

namespace Sys2Proof.Machine

/-! ### Receive rings (R274, R275) -/

theorem fillRing_done (l : List RxDesc) (n : Nat) : fillRing l [] n = { used := [], left := l, rest := [] } := by cases l <;> rfl

/-- A descriptor with a whole frame in its buffer. -/
def RxDesc.filled (x : RxDesc) (w : Octets) : RxDesc := { x with byteCount := w.length, data := w, frameBytes := w.length }

/-- A frame fits into the first descriptor, which is in order. -/
theorem fillRing_first {x : RxDesc} {w : Octets} (hne : w ≠ []) (hlen : w.length ≤ x.len) (h64 : x.len % 64 = 0) (hreach : ringBuffer x.addr x.len = true)
    (l : List RxDesc) : fillRing (x :: l) w 0 = { used := [x.filled w], left := l, rest := [] } := by
  have hpos : 0 < w.length := List.length_pos_iff.2 hne
  rw [fillRing, if_neg (by simpa using hne), if_neg (by simp [h64, hreach]; omega), List.take_of_length_le hlen, List.drop_of_length_le hlen]
  simp only [fillRing_done, Nat.zero_add, RxDesc.filled]

/-- A frame's EtherType of EAPOL rules the others out, behind a tag too. -/
theorem parseFrame_eapol {w : Octets} (h : (parseFrame w).ethType = 0x888E) : (parseFrame w).ip4 = false ∧ beAt w 12 2 ≠ 0x88E5 := by
  have het : beAt w ((if beAt w 12 2 = 0x8100 then 18 else 14) - 2) 2 = 0x888E := h
  refine ⟨?_, fun hsec => ?_⟩
  · simp [parseFrame, het]
  · rw [hsec, if_neg (by decide)] at het
    exact absurd (hsec.symm.trans het) (by decide)

namespace Dev

variable {d e : Dev} {p k : Nat}

theorem stampDescs_data (i : RxInfo) (q : Parsed) (status : Nat) (l : List RxDesc) : (stampDescs i q status l).map (·.data) = l.map (·.data) := by
  unfold stampDescs
  simp only [List.map_map]
  refine List.map_congr_left fun x _ => ?_
  simp only [Function.comp_apply]
  split <;> rfl

theorem setRxRing_same (hk : k < 16) (r : RxRing) (d : Dev) : (d.setRxRing k r).rxRing k = r := Fixed.get_modify_same _ _ _ _ hk

theorem setRxRing_free (k : Nat) (r : RxRing) (d : Dev) : (d.setRxRing k r).nat Reg.rxRingFree k = r.owned.length := nat_setNat_same _ _ _ _ _

theorem setRxRing_keepsRegs (k : Nat) (r : RxRing) (d : Dev) : KeepsRegs [Reg.rxRingFree.key k] d (d.setRxRing k r) :=
  ((KeepsRegs.refl _ d).of_regs rfl : KeepsRegs _ d { d with rxRings := d.rxRings.modify k fun _ => r }).setNat _ _ _ _ (.head _)

theorem rxRing_congr (h : e.rxRings = d.rxRings) (k : Nat) : e.rxRing k = d.rxRing k := by rw [rxRing, h, rxRing]

@[simp] theorem bump_rxRings (d : Dev) (r : Row) (i n : Nat) : (d.bump r i n).rxRings = d.rxRings := by unfold bump; split <;> rfl

theorem rxRing_untold (hk : k < 16) : Reg.rxRingFree.key k ∉ tellKeys ∧ Reg.rxRingFrames.key k ∉ tellKeys := by
  simp only [rxRingFree_key, rxRingFrames_key, tellKeys, List.mem_cons, List.not_mem_nil, or_false]; omega

/-- The entries that a bus error writes. -/
def busErrorKeys : List Nat := [Reg.lastBusError.key, Reg.busErrors.key]

theorem busError_leaves (address master cause : Nat) (d : Dev) :
    (d.busError address master cause).rxRings = d.rxRings ∧ KeepsRegs busErrorKeys d (d.busError address master cause) := by
  unfold busError
  refine ⟨by rw [notice_rxRings, bump_rxRings, keep_rxRings, setNat_rxRings], ?_⟩
  have hset := (KeepsRegs.refl busErrorKeys d).setNat Reg.lastBusError (address % 2 ^ 40 + master * 2 ^ 40 + cause * 2 ^ 48) 0 0 (.head _)
  exact ((hset.of_regs (keep_regs _ _ _ _)).bump Reg.busErrors 0 1 (.tail _ (.head _))).told (told_notice _ _ _)

theorem busErrors_leave (l : List RxDesc) (d : Dev) :
    (l.foldl (fun (d : Dev) x => d.busError x.addr 7 3) d).rxRings = d.rxRings ∧
      KeepsRegs busErrorKeys d (l.foldl (fun (d : Dev) x => d.busError x.addr 7 3) d) := by
  refine List.foldlRecOn l _ (motive := fun e : Dev => e.rxRings = d.rxRings ∧ KeepsRegs busErrorKeys d e) ⟨rfl, .refl _ d⟩ ?_
  rintro e ⟨hrings, hkeep⟩ x -
  obtain ⟨hr, hk⟩ := busError_leaves x.addr 7 3 e
  exact ⟨hr.trans hrings, hkeep.trans hk⟩

/-- A frame delivered whole into the first descriptor of a ring: the descriptor is written back, the others stay owned. -/
structure Delivered (k : Nat) (w : Octets) (rest : List RxDesc) (d e : Dev) : Prop where
  owned : (e.rxRing k).owned = rest
  data : (e.rxRing k).done.map (·.data) = (d.rxRing k).done.map (·.data) ++ [w]
  free : e.nat Reg.rxRingFree k = rest.length
  frames : e.nat Reg.rxRingFrames k = (d.nat Reg.rxRingFrames k + 1) % 2 ^ 32
  entries : KeepsRegs (Reg.rxRingFree.key k :: Reg.rxRingFrames.key k :: busErrorKeys) d e

theorem usable_all (h : d.perturb.rings = []) (p k : Nat) : d.usable p k = (d.rxRing k).owned.length := by
  unfold usable
  rw [h]
  rfl

theorem deliver_first {x : RxDesc} {rest : List RxDesc} {w : Octets} (hk : 2 ≤ k ∧ k < 16) (hp : d.perturb.rings = []) (ho : (d.rxRing k).owned = x :: rest)
    (hne : w ≠ []) (hlen : w.length ≤ x.len) (h64 : x.len % 64 = 0) (hreach : ringBuffer x.addr x.len = true) (i : RxInfo) (q : Parsed) :
    Delivered k w rest d (d.deliver k i q w) := by
  have hfill := fillRing_first hne hlen h64 hreach rest
  unfold deliver
  extract_lets r n f kept filled d1 d2
  have hf : f = { used := [x.filled w], left := rest, rest := [] } := by
    simp only [f, n, r, usable_all hp, List.take_length, ho, hfill]
  have hkept : kept = rest := by simp only [kept, n, r, hf, usable_all hp, List.drop_length, List.append_nil]
  have hd1 : d1.rxRings = d.rxRings ∧ KeepsRegs busErrorKeys d d1 := busErrors_leave _ d
  have hd2 : d2 = (d1.setRxRing k { owned := rest, done := r.done ++ stampDescs i q 0 [x.filled w] }).bump Reg.rxRingFrames k := by
    simp only [d2, hf, hkept, List.isEmpty_nil, if_true]
  rw [if_neg (by omega), hd2]
  obtain ⟨hrings, hkeep⟩ := hd1
  have hring : ((d1.setRxRing k { owned := rest, done := r.done ++ stampDescs i q 0 [x.filled w] }).bump Reg.rxRingFrames k).rxRing k =
      { owned := rest, done := r.done ++ stampDescs i q 0 [x.filled w] } := by
    rw [rxRing_congr (bump_rxRings _ _ _ _), setRxRing_same hk.2]
  have hdata : (r.done ++ stampDescs i q 0 [x.filled w]).map (·.data) = (d.rxRing k).done.map (·.data) ++ [w] := by
    rw [List.map_append, stampDescs_data]
    rfl
  have hone : Reg.rxRingFrames.key k ∉ [Reg.rxRingFree.key k] := by simp [rxRingFrames_key, rxRingFree_key]
  have hbus : Reg.rxRingFrames.key k ∉ busErrorKeys := by
    simp only [busErrorKeys, rxRingFrames_key, lastBusError_key, busErrors_key, List.mem_cons, List.not_mem_nil, or_false]; omega
  refine ⟨by rw [hring], (congrArg (fun g : RxRing => g.done.map (·.data)) hring).trans hdata, ?_, ?_, ?_⟩
  · rw [nat_bump_ne _ _ _ _ _ _ _ (by simp [rxRingFrames_key, rxRingFree_key]), setRxRing_free]
  · rw [nat_bump_same, (setRxRing_keepsRegs k _ d1).nat _ _ _ hone (rxRing_untold hk.2).2, hkeep.nat _ _ _ hbus (rxRing_untold hk.2).2]
    rfl
  · have h1 := hkeep.mono (ks' := Reg.rxRingFree.key k :: Reg.rxRingFrames.key k :: busErrorKeys) fun y hy => .tail _ (.tail _ hy)
    have h2 := (setRxRing_keepsRegs k { owned := rest, done := r.done ++ stampDescs i q 0 [x.filled w] } d1).mono
      (ks' := Reg.rxRingFree.key k :: Reg.rxRingFrames.key k :: busErrorKeys) fun y hy => by rw [List.mem_singleton.1 hy]; exact .head _
    exact (h1.trans h2).bump Reg.rxRingFrames k 1 (.tail _ (.head _))

/-! ### The checks of a frame (R265) -/

variable {sink : FlowSink} {w : Octets} {cond fixed bad frac : Nat}

theorem frameReceive_down (h : d.nat Reg.linkState p ≠ 2) : d.frameReceive sink p w cond fixed bad frac = d := by
  rw [frameReceive, if_pos (by simp [portUp, h])]

/-- At a port that is UP, with no codeword corrected or lost: the checks in their order. -/
theorem frameReceive_up (h : d.nat Reg.linkState p = 2) : d.frameReceive sink p w cond 0 0 frac =
    if w.length + 4 < 64 then d.portCount p 0x07
    else if d.nat Reg.maxFrame p < w.length + 4 then d.portCount p 0x08
    else if cond = 1 then d.portCount p 0x0A
    else if cond = 3 then (d.portCount p 0x1D).notice 0x300B p
    else if cond = 2 ∧ !d.cutByRing p w then d.portCount p 0x09
    else d.passFrame sink p w frac := by
  rw [frameReceive, if_neg (by simp [portUp, h])]
  rfl

theorem portCount_alone (hp : p < 5) {sub : Nat} (hs : sub - 1 < portSubs) (d : Dev) :
    (d.portCount p sub).nat Reg.portCounter p (sub - 1) = add32 (d.nat Reg.portCounter p (sub - 1)) 1 ∧
      KeepsRegs [Reg.portCounter.key p (sub - 1)] d (d.portCount p sub) :=
  ⟨portCount_same hp hs d 1, (KeepsRegs.refl _ d).portCount p sub 1 (.head _)⟩

/-! ### A frame that passes (R268, R276) -/

/-- A frame that passes, counted with its octets, its kind of address and its tag. -/
def received (p : Nat) (w : Octets) (d : Dev) : Dev :=
  let q := parseFrame w
  let d := ((d.portCount p 0x02).countRxOctets p (w.length + 4)).portCount p (if q.broadcast then 0x05 else if q.multicast then 0x04 else 0x03)
  if q.tag.isSome then d.portCount p 0x06 else d

theorem passFrame_received : d.passFrame sink p w frac = (d.received p w).steered sink p ((d.received p w).rxStamp p frac) w := rfl

/-- The counters of the frames that pass. -/
def receivedKeys (p : Nat) : List Nat := (List.range 6).map fun j => Reg.portCounter.key p j

theorem mem_receivedKeys {j : Nat} (hj : j < 6) : Reg.portCounter.key p j ∈ receivedKeys p := List.mem_map_of_mem (List.mem_range.2 hj)

theorem countRxOctets_leaves (p n : Nat) (d : Dev) : (d.countRxOctets p n).rxRings = d.rxRings ∧ (d.countRxOctets p n).perturb = d.perturb ∧
    KeepsRegs [Reg.portCounter.key p 0] d (d.countRxOctets p n) := by
  unfold countRxOctets
  refine ⟨by rw [portCount_rxRings, setPort_rxRings], by rw [portCount_perturb, setPort_perturb], ?_⟩
  exact ((KeepsRegs.refl _ d).setPort p _).portCount p 0x01 _ (.head _)

/-- What counting a frame leaves, and the count of frames. -/
structure Counted (p : Nat) (d e : Dev) : Prop where
  rxRings : e.rxRings = d.rxRings
  perturb : e.perturb = d.perturb
  frames : e.nat Reg.portCounter p 1 = add32 (d.nat Reg.portCounter p 1) 1
  entries : KeepsRegs (receivedKeys p) d e

theorem Counted.portCount (h : Counted p d e) (hp : p < 5) {sub : Nat} (hs : sub - 1 ≠ 1 ∧ sub - 1 < 6) : Counted p d (e.portCount p sub) where
  rxRings := (portCount_rxRings _ _ _ _).trans h.rxRings
  perturb := (portCount_perturb _ _ _ _).trans h.perturb
  frames := (portCount_other _ _ (by simp only [portCounter_key]; omega) (portCounter_untold hp (by decide))).trans h.frames
  entries := h.entries.portCount p sub 1 (mem_receivedKeys hs.2)

theorem received_counted (hp : p < 5) (w : Octets) (d : Dev) : Counted p d (d.received p w) := by
  obtain ⟨hrings, hperturb, hkeep⟩ := countRxOctets_leaves p (w.length + 4) (d.portCount p 0x02)
  have hframes : ((d.portCount p 0x02).countRxOctets p (w.length + 4)).nat Reg.portCounter p 1 = add32 (d.nat Reg.portCounter p 1) 1 :=
    (hkeep.nat _ _ _ (by simp [portCounter_key]) (portCounter_untold hp (by decide))).trans (portCount_same hp (sub := 2) (by decide) d 1)
  have hoctets : Counted p d ((d.portCount p 0x02).countRxOctets p (w.length + 4)) := by
    refine ⟨hrings.trans (portCount_rxRings _ _ _ _), hperturb.trans (portCount_perturb _ _ _ _), hframes, ?_⟩
    refine ((KeepsRegs.refl _ d).portCount p 0x02 1 (mem_receivedKeys (by decide))).trans (hkeep.mono fun y hy => ?_)
    rw [List.mem_singleton.1 hy]
    exact mem_receivedKeys (by decide)
  have hkind : Counted p d (((d.portCount p 0x02).countRxOctets p (w.length + 4)).portCount p
      (if (parseFrame w).broadcast then 0x05 else if (parseFrame w).multicast then 0x04 else 0x03)) :=
    hoctets.portCount hp (by split <;> [decide; split <;> decide])
  unfold received
  dsimp only
  split
  · exact hkind.portCount hp (by decide)
  · exact hkind

/-- An EAPOL frame passes the port's MACsec receiver as it is while MACsec is off. -/
theorem macsecReceive_off (h : d.nat Reg.macsecMode p = 0) (het : beAt w 12 2 ≠ 0x88E5) : d.macsecReceive p w = (.pass false w, d) := by
  rw [macsecReceive, if_pos (.inr (.inr ⟨h, het⟩))]

/-- An EAPOL frame goes to ring RX 4 (Table 9-6). -/
theorem steered_eapol (hp : p < 4) (hmode : d.nat Reg.macsecMode p = 0) (het : (parseFrame w).ethType = 0x888E) (stamp : Nat) :
    d.steered sink p stamp w =
      (d.portCount p 0x1C).deliver 4 { port := p, rule := 0, stamp, stamped := (parseFrame w).udp && (parseFrame w).udpDst == 319, secured := false }
        (parseFrame w) w := by
  obtain ⟨hip4, hsec⟩ := parseFrame_eapol het
  have hlldp : ¬ (0x888E = 0x88CC) := by decide
  have hsteer : d.steerMedia p (parseFrame w) = .ring 4 0 := by simp [steerMedia, het]
  unfold steered
  simp only [if_pos hp, macsecReceive_off hmode hsec, hip4, het, Bool.false_and, Bool.false_eq_true, if_false, hlldp, and_false]
  rw [hsteer]
  rfl

theorem macsecMode_apart (hp : p < 5) : (∀ j, j < 6 → Reg.macsecMode.key p ≠ Reg.portCounter.key p j) ∧ Reg.macsecMode.key p ∉ tellKeys := by
  refine ⟨fun j hj => ?_, ?_⟩ <;>
    simp only [macsecMode_key, portCounter_key, tellKeys, List.mem_cons, List.not_mem_nil, or_false] <;> omega

/-! ### A descriptor posted (R274) -/

theorem rxPost_refused (hk : 16 ≤ k ∨ (8 ≤ k ∧ k < 12)) (addr len : Nat) : d.rxPost k addr len = d := by rw [rxPost, if_pos hk]

theorem rxPost_full (h : d.inForce Reg.rxRingLength k ≤ (d.rxRing k).owned.length) (addr len : Nat) : d.rxPost k addr len = d := by
  unfold rxPost
  dsimp only
  rw [if_pos h, ite_self]

@[simp] theorem endLpi_rxRings (p : Nat) (d : Dev) : (d.endLpi p).rxRings = d.rxRings := by unfold endLpi; split <;> rfl

theorem sendPause_rxRings (quanta : Nat) (d : Dev) : (d.sendPause quanta).rxRings = d.rxRings :=
  (portCount_rxRings _ _ _ _).trans (endLpi_rxRings _ _)

/-- The check of the control rings for PAUSE touches no ring, and no entry but the count of PAUSE frames sent. -/
theorem pauseCheck_leaves (d : Dev) : d.pauseCheck.rxRings = d.rxRings ∧ KeepsRegs [Reg.portCounter.key 4 0x25] d d.pauseCheck := by
  have hquiet (f : Port → Port) : (d.setPort 4 f).rxRings = d.rxRings ∧ KeepsRegs [Reg.portCounter.key 4 0x25] d (d.setPort 4 f) :=
    ⟨rfl, (KeepsRegs.refl _ d).setPort 4 f⟩
  have hsend (f : Port → Port) (quanta : Nat) : ((d.setPort 4 f).sendPause quanta).rxRings = d.rxRings ∧
      KeepsRegs [Reg.portCounter.key 4 0x25] d ((d.setPort 4 f).sendPause quanta) :=
    ⟨sendPause_rxRings _ _, ((KeepsRegs.refl _ d).setPort 4 f).trans (sendPause_keepsRegs quanta _)⟩
  unfold pauseCheck
  dsimp only
  split
  · exact hquiet _
  split
  · split
    · exact hsend _ 0
    · exact hquiet _
  split
  · exact hsend _ 0xFFFF
  · exact ⟨rfl, .refl _ d⟩

/-- Where the ring has room, the descriptor joins the owned ones. -/
theorem rxPost_room (hk : k < 8 ∨ (12 ≤ k ∧ k < 16)) (h : (d.rxRing k).owned.length < d.inForce Reg.rxRingLength k) (addr len : Nat) :
    ((d.rxPost k addr len).rxRing k).owned.map (fun x => (x.addr, x.len)) = (d.rxRing k).owned.map (fun x => (x.addr, x.len)) ++ [(addr, len)] ∧
      (d.rxPost k addr len).nat Reg.rxRingFree k = (d.rxRing k).owned.length + 1 := by
  have h16 : k < 16 := by omega
  unfold rxPost
  dsimp only
  rw [if_neg (by omega), if_neg (by omega)]
  generalize hr : RxRing.mk _ _ = r
  have howned : r.owned = _ := congrArg RxRing.owned hr.symm
  obtain ⟨hrings, hkeep⟩ := pauseCheck_leaves (d.setRxRing k r)
  have hfree : Reg.rxRingFree.key k ∉ [Reg.portCounter.key 4 0x25] := by
    simp only [rxRingFree_key, portCounter_key, List.mem_cons, List.not_mem_nil, or_false]; omega
  rw [rxRing_congr hrings, setRxRing_same h16, hkeep.nat _ _ _ hfree (rxRing_untold h16).1, setRxRing_free, howned, List.map_append, List.length_append]
  exact ⟨rfl, rfl⟩

/-- An EAPOL frame received: counted, and into the first descriptor of ring RX 4. -/
theorem frameReceive_eapol {x : RxDesc} {rest : List RxDesc} (hp : p < 4) (hup : d.nat Reg.linkState p = 2) (h64 : 64 ≤ w.length + 4)
    (hmax : w.length + 4 ≤ d.nat Reg.maxFrame p) (hmode : d.nat Reg.macsecMode p = 0) (het : (parseFrame w).ethType = 0x888E) (hrings : d.perturb.rings = [])
    (ho : (d.rxRing 4).owned = x :: rest) (hlen : w.length ≤ x.len) (hx64 : x.len % 64 = 0) (hreach : ringBuffer x.addr x.len = true) :
    ∃ e, Counted p d e ∧ Delivered 4 w rest (e.portCount p 0x1C) (d.frameReceive sink p w 0 0 0 frac) := by
  have hc := received_counted (p := p) (by omega) w d
  obtain ⟨hapart, htold⟩ := macsecMode_apart (p := p) (by omega)
  have hmode' : (d.received p w).nat Reg.macsecMode p = 0 := (hc.entries.nat _ _ _ (by simpa [receivedKeys] using fun j hj => (hapart j hj).symm) htold).trans hmode
  refine ⟨d.received p w, hc, ?_⟩
  rw [frameReceive_up hup, if_neg (by omega), if_neg (by omega), if_neg (by decide), if_neg (by decide), if_neg (by simp), passFrame_received,
    steered_eapol hp hmode' het]
  refine deliver_first (by decide) ?_ ?_ (by rintro rfl; simp at h64) hlen hx64 hreach _ _
  · rw [portCount_perturb, hc.perturb, hrings]
  · rw [rxRing_congr ((portCount_rxRings _ _ _ _).trans hc.rxRings), ho]

end Dev

/-- Settles O32: the checks of a frame in their order, an EAPOL frame into the first descriptor of its ring, and a descriptor posted. -/
theorem frameReception : Obligations.FrameReception := by
  unfold Obligations.FrameReception
  intro s ha
  refine ⟨fun p w cond fixed bad frac hdown => up_completes rfl ha (Dev.frameReceive_down hdown), fun p w cond frac hp hup => ⟨?_, ?_, ?_, ?_⟩, ?_,
    fun k addr len hk => up_completes rfl ha (Dev.rxPost_refused hk addr len), fun k addr len hfull => up_completes rfl ha (Dev.rxPost_full hfull addr len),
    fun k addr len hk hroom => up_completes rfl ha (Dev.rxPost_room hk hroom addr len)⟩
  · refine fun hshort => up_completes rfl ha ?_
    rw [Dev.frameReceive_up hup, if_pos hshort]
    exact Dev.portCount_alone hp (sub := 7) (by decide) _
  · refine fun hlong hover => up_completes rfl ha ?_
    rw [Dev.frameReceive_up hup, if_neg (by omega), if_pos hover]
    exact Dev.portCount_alone hp (sub := 8) (by decide) _
  · refine fun hlong hmax => up_completes rfl ha ?_
    rw [Dev.frameReceive_up hup, if_neg (by omega), if_neg (by omega), if_pos rfl]
    exact Dev.portCount_alone hp (sub := 10) (by decide) _
  · refine fun hlong hmax => up_completes rfl ha ?_
    rw [Dev.frameReceive_up hup, if_neg (by omega), if_neg (by omega), if_neg (by decide), if_pos rfl]
    obtain ⟨hcount, hkeep⟩ := Dev.portCount_alone hp (sub := 0x1D) (by decide) s.dev
    exact ⟨((Dev.told_notice _ _ _).nat _ _ _ (Dev.portCounter_untold hp (by decide))).trans hcount, hkeep.told (Dev.told_notice _ _ _)⟩
  · intro p w frac x rest hp hup h64 hmax hmode het hrings ho hlen hx64 hreach
    refine up_completes rfl ha ?_
    obtain ⟨e, hc, hd⟩ := Dev.frameReceive_eapol (sink := Dev.flowReceive) (frac := frac) hp hup h64 hmax hmode het hrings ho hlen hx64 hreach
    have hring : (e.portCount p 0x1C).rxRing 4 = s.dev.rxRing 4 := Dev.rxRing_congr ((Dev.portCount_rxRings _ _ _ _).trans hc.rxRings) 4
    have hnone {j : Nat} (hj : j < portSubs) : Reg.portCounter.key p j ∉ Reg.rxRingFree.key 4 :: Reg.rxRingFrames.key 4 :: Dev.busErrorKeys := by
      simp only [portCounter_key, rxRingFree_key, rxRingFrames_key, Dev.busErrorKeys, lastBusError_key, busErrors_key, portSubs, List.mem_cons,
        List.not_mem_nil, or_false] at *
      omega
    have hcounter {j : Nat} (hj : j < portSubs) := hd.entries.nat Reg.portCounter p j (hnone hj) (Dev.portCounter_untold (by omega) hj)
    refine ⟨hd.owned, by rw [hd.data, hring], hd.free, ?_, ?_, ?_⟩
    · rw [hd.frames, Dev.portCount_other _ _ (by simp only [rxRingFrames_key, portCounter_key]; omega) (by decide),
        hc.entries.nat _ _ _ (by simp [Dev.receivedKeys, rxRingFrames_key, portCounter_key]; omega) (by decide)]
    · rw [hcounter (by decide), Dev.portCount_other _ _ (by simp [portCounter_key]) (Dev.portCounter_untold (by omega) (by decide)), hc.frames]
    · rw [hcounter (by decide), Dev.portCount_same (sub := 0x1C) (by omega) (by decide),
        hc.entries.nat _ _ _ (by simp [Dev.receivedKeys, portCounter_key]; omega) (Dev.portCounter_untold (by omega) (by decide))]

end Sys2Proof.Machine
end

