-- ==== Sys2Proof/Proofs/Realignment.lean ====
section
/-! The power state through a realignment: every step of R331 leaves it. -/

namespace Sys2Proof.Machine

namespace Dev

/-! ### The data path cleared -/

theorem setConv_power (c : Nat) (f : ConvChan → ConvChan) (d : Dev) : (d.setConv c f).power = d.power := rfl

theorem tdmShow_power (p : Nat) (tell : Bool) (d : Dev) : (d.tdmShow p tell).power = d.power := (tdmShow_leaves p tell d).power

theorem convClear_power (d : Dev) : d.convClear.power = d.power := foldl_frame Dev.power (fun e _ => setConv_power _ _ e) _ _

theorem tdmRealign_power (d : Dev) : d.tdmRealign.power = d.power :=
  foldl_frame Dev.power (fun e p => by rw [tdmShow_power, setTdm_power]) _ _

theorem restartMix_power (d : Dev) : d.restartMix.power = d.power := rfl

theorem releaseFades_power (keep : FadePlace → Bool) (d : Dev) : (d.releaseFades keep).power = d.power := rfl

theorem clearCorrection_power (d : Dev) : d.clearCorrection.power = d.power := rfl

theorem clearPath_power (d : Dev) : d.clearPath.power = d.power := by
  rw [clearPath, tdmRealign_power, convClear_power, restartMix_power, clearCorrection_power]

/-! ### An entry of the calendar cancelled -/

theorem sendCell_power (k : Nat) (type : CellType) (dest arg : Nat) (payload : Octets) (settled : Bool) (hops : Nat) (src : Option Nat) (d : Dev) :
    (d.sendCell k type dest arg payload settled hops src).power = d.power := (sendCell_leaves k type dest arg payload settled hops src d).power

theorem queueCal_power (dest : Nat) (m : CalMsg) (d : Dev) : (d.queueCal dest m).power = d.power := liftPut_power _ _ _ _

theorem tellStandby_power (m : CalMsg) (d : Dev) : (d.tellStandby m).power = d.power := by
  unfold tellStandby
  split
  · rfl
  · exact queueCal_power _ _ _

theorem tellOthers_power (e : CalEntry) (m : CalMsg) (d : Dev) : (d.tellOthers e m).power = d.power := by
  refine (tellStandby_power _ _).trans (foldl_frame Dev.power (fun g u => ?_) _ _)
  split
  · rfl
  · exact queueCal_power _ _ _

theorem canOut_power (ident : Nat) (content : Octets) (d : Dev) : (d.canOut ident content).2.power = d.power := by
  unfold canOut
  dsimp only
  split
  · rfl
  · dsimp only
    split
    · rw [notice_power, keep_power, setNat_power]
    · rfl

theorem formResponse_power (q : Request) (status : Nat) (pend : Bool) (body : Octets) (d : Dev) : (d.formResponse q status pend body).2.power = d.power := by
  unfold formResponse
  split
  · rfl
  · exact canOut_power _ _ _

theorem sendOut_power (o : Out) (d : Dev) : (d.sendOut o).power = d.power := by
  unfold sendOut
  split
  · split
    · exact sendCell_power _ _ _ _ _ _ _ _ _
    · rfl
  · rfl

theorem respond_power (q : Request) (status : Nat) (body : Octets) (pend : Bool) (d : Dev) : (d.respond q status body pend).power = d.power := by
  have hform (e : Dev) (he : e.power = d.power) : (e.formResponse q status pend body).2.power = d.power := (formResponse_power q status pend body e).trans he
  unfold respond
  dsimp only
  split
  · exact (sendOut_power _ _).trans (hform _ rfl)
  · exact hform _ rfl

theorem answerHeld_power (e : CalEntry) (d : Dev) : (d.answerHeld e).power = d.power :=
  foldl_frame Dev.power (fun _ _ => respond_power _ _ _ _ _) _ _

theorem releaseEntry_power (e : CalEntry) (d : Dev) : (d.releaseEntry e).power = d.power := rfl

theorem tellOutcome_power (e : CalEntry) (d : Dev) : (d.tellOutcome e).power = d.power := (told_noticeWith _ _ _ _ _ d).power

theorem settle_power (e : CalEntry) (st : CalState) (d : Dev) : (d.settle e st).power = d.power := by
  have hrelease (x : CalEntry) : (if st = .committed ∨ st = .partially then d else d.releaseEntry x).power = d.power := by
    split
    · rfl
    · exact releaseEntry_power x d
  have hcount (g : Dev) : (if st = .refused then g.bump Reg.entriesRefused else if st = .partially then g.bump Reg.entriesPartial else g).power = g.power := by
    split
    · exact bump_power _ _ _ _
    · split
      · exact bump_power _ _ _ _
      · rfl
  unfold settle
  dsimp only
  split
  · split
    · rw [tellHead, sendCell_power, putCal, setCal_power, hrelease]
    · rw [freeCal, setCal_power, hrelease]
  · rw [copyEntry, tellStandby_power, answerHeld_power, tellOutcome_power, hcount, noteOutcome, setNat_power, putCal, setCal_power, hrelease]

theorem cancelAll_power (d : Dev) : d.cancelAll.power = d.power := by
  refine foldl_frame Dev.power (fun e x => ?_) _ _
  split
  · exact (settle_power _ _ _).trans (tellOthers_power _ _ _)
  · rfl

/-! ### The MSC aligned and the functions started anew -/

theorem toFrc_power (d : Dev) : d.toFrc.power = d.power := by unfold toFrc; split <;> rfl

theorem keepRecord_power (r : Nat × Nat × Nat) (d : Dev) : (d.keepRecord r).power = d.power := rfl

theorem align_power (d : Dev) : d.align.power = d.power := by
  have htime (e : Dev) : (if e.flag Reg.timeTestMode then e else e.toFrc).power = e.power := by
    split
    · rfl
    · exact toFrc_power e
  have hrecord (e : Dev) : (if e.alm.snMode then e else e.keepRecord (e.frc, e.almNow, e.alm.inc)).power = e.power := by
    split
    · rfl
    · exact keepRecord_power _ e
  simp only [align, notice_power, setFlag_power, hrecord, setAlm_power, htime, advance_power]

theorem convAssign_power (date c : Nat) (d : Dev) : (d.convAssign date c).power = d.power := by
  simp only [convAssign, setNat_power, setInt_power, setConv_power]

theorem convStart_power (date : Nat) (d : Dev) : (d.convStart date).power = d.power := foldl_frame Dev.power (fun e _ => convAssign_power _ _ e) _ _

theorem remap_power (date : Nat) (d : Dev) : (d.remap date (fun _ => false) fun _ => false).power = d.power :=
  (remap_leaves (P := fun _ => False) date _ d).power

theorem recEnable_power (runs : Bool) (tick : Nat) (d : Dev) : (d.recEnable runs tick).power = d.power := by
  unfold recEnable
  dsimp only
  split
  · rfl
  · split
    · split <;> rfl
    · rfl

theorem startLanes_power (d : Dev) : d.startLanes.power = d.power := rfl

theorem realign_power (d : Dev) : d.realign.power = d.power := by
  unfold realign
  extract_lets runs d1 d2 b g d3
  have h2 : d2.power = d.power := by
    simp only [d2, d1, notice_power, align_power, setAlm_power, cancelAll_power, clearPath_power, toSn_power]
  clear_value d2
  have h3 : d3.power = d2.power := rfl
  clear_value d3
  split
  · exact h2
  · rw [recEnable_power, startLanes_power, remap_power, convStart_power, tdmRealign_power, h3, h2]

end Dev

end Sys2Proof.Machine
end

