-- ==== Sys2Proof/Proofs/AccessCommands.lean ====
section
/-! MDIO_READ, MDIO_WRITE, TIME_SET, REALIGN_NOW and REFRESH_ALL: what each does with its argument, and what refuses it (R128, R261, R324, R330, R524). -/

namespace Sys2Proof.Machine

namespace Dev

variable {d e : Dev}

/-- A command that a lone module answers with another status than OK, and that changes nothing, leaves the module but for the status and the read-back. -/
theorem ranCommand_refused {f : Found} {text : Octets} {act : Dev → Status × Octets × Dev} {st : Status} (h : d.Alone) (hs : st ≠ Status.ok)
    (ha : act d = (st, [], d)) : d.ranCommand f text act = { d with lastStatus := st, lastResult := cmdBack text st [] } :=
  (ranCommand_eq h ha rfl).trans (by rw [if_neg hs])

/-! ### The management bus (R261, R524) -/

theorem mdioCmd_certified (h : d.certified = true) (write : Bool) (a r v : Nat) (text : Octets) : d.mdioCmd write a r v text = (Status.state, [], d) := by
  rw [mdioCmd, unlessCertified, if_pos h, refusedWith]

theorem mdioCmd_open (h : d.certified = false) (write : Bool) (a r v : Nat) (text : Octets) : d.mdioCmd write a r v text = d.mdioRun write a r v text := by
  rw [mdioCmd, unlessCertified, if_neg (by simp [h])]

theorem mdioRun_range {write : Bool} {a r v : Nat} (h : 32 ≤ a ∨ 32 ≤ r ∨ (write = true ∧ 65536 ≤ v)) (text : Octets) :
    d.mdioRun write a r v text = (Status.range, [], d) := if_pos h

theorem mdioRun_read {a r : Nat} (ha : a < 32) (hr : r < 32) (v : Nat) (text : Octets) :
    d.mdioRun false a r v text = (Status.ok, text ++ ascii " " ++ hexText 4 v, d.emit (.mdio false a r (v % 65536))) := by
  rw [mdioRun, if_neg (by simp; omega), if_neg (by simp)]

theorem mdioRun_write {a r v : Nat} (ha : a < 32) (hr : r < 32) (hv : v < 65536) (text : Octets) :
    d.mdioRun true a r v text = (Status.ok, text, d.emit (.mdio true a r v)) := by
  rw [mdioRun, if_neg (by simp; omega), if_pos rfl]

/-- An access run on the bus and counted by ConfigEpoch. -/
theorem accessed_spec (o : Out) (d : Dev) (st : Status) (res : Octets) :
    ({ (d.emit o).bumpEpoch with lastStatus := st, lastResult := res } : Dev).out = o :: d.out ∧
      KeepsRegs [Reg.configEpoch.key] d { (d.emit o).bumpEpoch with lastStatus := st, lastResult := res } := by
  refine ⟨?_, ((KeepsRegs.refl _ d).of_regs (emit_regs o d)).ran (.head _) st res⟩
  exact (bump_out _ _ _ _).trans (emit_out o d)

/-! ### The time set (R324) -/

theorem timeSetCmd_state (h : d.certified = true ∨ d.alm.snMode = false ∨ (d.alm.aligned = true ∧ d.flag Reg.timeTestMode = false)) (arg : Octets) :
    d.timeSetCmd arg = (Status.state, d) := by
  unfold timeSetCmd
  split
  · rfl
  next hopen =>
    have hclosed : (!(d.alm.snMode && (!d.alm.aligned || d.flag Reg.timeTestMode))) = true := by
      obtain h | h | ⟨h, h'⟩ := h
      · exact absurd h hopen
      · simp [h]
      · simp [h, h']
    exact if_pos hclosed

theorem timeSetCmd_sets {arg : Octets} {secs nanos : Nat} (hcert : d.certified = false) (hsn : d.alm.snMode = true)
    (hopen : d.alm.aligned = false ∨ d.flag Reg.timeTestMode = true) (hsecs : decimal? (arg.takeWhile fun b => b ≠ octet 0x2E) = some secs)
    (hnanos : decimal? (arg.drop ((arg.takeWhile fun b => b ≠ octet 0x2E).length + 1)) = some nanos)
    (hdot : (arg.drop (arg.length - 10)).head? = some (octet 0x2E)) (hs : secs < 2 ^ 48) (hn : nanos < 1000000000) :
    d.timeSetCmd arg = (Status.ok, d.setAlm fun x => { x with secs := secs, nanos := nanos, frac := 0 }) := by
  unfold timeSetCmd timeSet
  dsimp only
  rw [if_neg (by simp [hcert]), if_neg (by obtain h | h := hopen <;> simp [hsn, h]), hsecs, hnanos]
  exact if_neg (by simp [hdot]; omega)

/-! ### A realignment asked for (R330) -/

theorem realignNow_due (hdue : d.alm.realignDue = true) (ha : d.alm.aligned = true) : d.realignNow (ascii "now") = (Status.ok, d.realign) := by
  simp [realignNow, hdue, ha]

theorem realignNow_idle (h : d.alm.realignDue = false ∨ d.alm.aligned = false) : d.realignNow (ascii "now") = (Status.ok, d) := by
  obtain h | h := h <;> simp [realignNow, h]

theorem realignNow_other {arg : Octets} (h : arg ≠ ascii "now") : d.realignNow arg = (Status.range, d) := if_pos h

/-! ### The marking items of REFRESH_ALL (R128) -/

/-- The objects that REFRESH_ALL marks. -/
def markedObjects (d : Dev) : List Nat := d.enabledObjects.filter fun n => d.nat Reg.objectLaw n ≠ 0

theorem refreshAll_all (d : Dev) : d.refreshAll (ascii "all") = (Status.ok, d.markedObjects.foldl (fun d n => d.liftPut 3 (n % 256) (.mark n)) d) := if_neg (by simp)

theorem refreshAll_other {arg : Octets} (h : arg ≠ ascii "all") : d.refreshAll arg = (Status.range, d) := if_pos h

end Dev

/-- Settles O2: each command by its argument and by what refuses it. -/
theorem accessCommands : Obligations.AccessCommands := by
  unfold Obligations.AccessCommands
  intro s ha hl
  refine ⟨fun a r v hc h32 hr => ?_, fun a r v hc h => ?_, fun a r v hc h32 hr hv => ?_, fun a r v hc h => ?_, fun a r v hc => ⟨?_, ?_⟩,
    fun arg secs nanos hc hsn hopen hsecs hnanos hdot hs hn => ?_, fun arg h => ?_, fun hdue haligned => ?_, fun h => ?_, fun arg h => ?_,
    fun n hone hroom => ?_, fun hnone => ?_, fun arg h => ?_⟩ <;> refine up_completes rfl ha ?_
  · rw [Dev.ranCommand_eq hl ((Dev.mdioCmd_open hc _ _ _ _ _).trans (Dev.mdioRun_read h32 hr v _)) (Dev.emit_power _ _), if_pos rfl]
    exact ⟨rfl, Dev.accessed_spec _ _ _ _⟩
  · rw [Dev.ranCommand_refused hl (by decide) ((Dev.mdioCmd_open hc _ _ _ _ _).trans (Dev.mdioRun_range (by simpa using h) _))]
    exact ⟨rfl, rfl, rfl⟩
  · rw [Dev.ranCommand_eq hl ((Dev.mdioCmd_open hc _ _ _ _ _).trans (Dev.mdioRun_write h32 hr hv _)) (Dev.emit_power _ _), if_pos rfl]
    exact ⟨rfl, Dev.accessed_spec _ _ _ _⟩
  · rw [Dev.ranCommand_refused hl (by decide) ((Dev.mdioCmd_open hc _ _ _ _ _).trans (Dev.mdioRun_range (by simpa using h) _))]
    exact ⟨rfl, rfl, rfl⟩
  · rw [Dev.ranCommand_refused hl (by decide) (Dev.mdioCmd_certified hc _ _ _ _ _)]
    exact ⟨rfl, rfl, rfl⟩
  · rw [Dev.ranCommand_refused hl (by decide) (Dev.mdioCmd_certified hc _ _ _ _ _)]
    exact ⟨rfl, rfl, rfl⟩
  · rw [Dev.ranCommand_ok hl (Dev.timeSetCmd_sets hc hsn hopen hsecs hnanos hdot hs hn) (Dev.setAlm_power _ _)]
    exact ⟨rfl, (Dev.bump_alm _ _ _ _).trans rfl, ((Dev.KeepsRegs.refl _ _).of_regs (Dev.setAlm_regs _ _)).ran (.head _) _ _⟩
  · rw [Dev.ranCommand_refused (st := Status.state) hl (by decide) (congrArg noResult (Dev.timeSetCmd_state h arg))]
    exact ⟨rfl, rfl, rfl⟩
  · rw [Dev.ranCommand_ok hl (Dev.realignNow_due hdue haligned) (Dev.realign_power _)]
    exact ⟨rfl, Dev.bump_alm _ _ _ _⟩
  · rw [Dev.ranCommand_ok hl (Dev.realignNow_idle h) rfl]
    exact ⟨rfl, Dev.bump_alm _ _ _ _, (Dev.KeepsRegs.refl _ _).ran (.head _) _ _⟩
  · rw [Dev.ranCommand_range hl (Dev.realignNow_other h)]
    exact ⟨rfl, rfl, rfl⟩
  · have hact : s.dev.refreshAll (ascii "all") = (Status.ok, s.dev.liftPut 3 (n % 256) (.mark n)) := by
      rw [Dev.refreshAll_all, Dev.markedObjects, hone, List.foldl_cons, List.foldl_nil]
    rw [Dev.ranCommand_ok hl hact (Dev.liftPut_power _ _ _ _)]
    refine ⟨rfl, ?_, ((Dev.KeepsRegs.refl _ _).told (Dev.told_liftPut _ _ _ _)).ran (.head _) _ _⟩
    exact (congrArg Lift.nextId (Dev.bump_lift _ _ _ _)).trans (Dev.liftPut_nextId hroom)
  · have hact : s.dev.refreshAll (ascii "all") = (Status.ok, s.dev) := by rw [Dev.refreshAll_all, Dev.markedObjects, hnone, List.foldl_nil]
    rw [Dev.ranCommand_ok hl hact rfl]
    exact ⟨rfl, Dev.bump_lift _ _ _ _, (Dev.KeepsRegs.refl _ _).ran (.head _) _ _⟩
  · rw [Dev.ranCommand_range hl (Dev.refreshAll_other h)]
    exact ⟨rfl, rfl, rfl⟩

end Sys2Proof.Machine
end

