-- ==== Sys2Proof/Proofs/LinkEntries.lean ====
section
/-! What a port's link is made of, its entries and its part of the port's state, and the steps that leave it: telling the rest of the module that the link has
changed, the PTP port and the multicast groups with it, the eye measured and the control rings checked (R255 to R259). -/

namespace Sys2Proof.Machine

/-- The part of a port's state that its link is made of: its candidates, the module in its cage, the frame under way and what its PHY agreed. -/
structure LinkPart where
  cand : Nat
  lastGood : Nat
  answers : Bool
  sending : Option TxFrame
  phyEee : Bool

def Port.link (q : Port) : LinkPart where
  cand := q.cand
  lastGood := q.lastGood
  answers := q.answers
  sending := q.sending
  phyEee := q.phyEee

namespace Port

variable {q r : Port}

theorem cand_of_link (h : q.link = r.link) : q.cand = r.cand := congrArg LinkPart.cand h
theorem lastGood_of_link (h : q.link = r.link) : q.lastGood = r.lastGood := congrArg LinkPart.lastGood h
theorem answers_of_link (h : q.link = r.link) : q.answers = r.answers := congrArg LinkPart.answers h
theorem sending_of_link (h : q.link = r.link) : q.sending = r.sending := congrArg LinkPart.sending h
theorem phyEee_of_link (h : q.link = r.link) : q.phyEee = r.phyEee := congrArg LinkPart.phyEee h

end Port

namespace Dev

/-- The keys of a port's own entries and of its counters of the links lost and not agreed on. -/
def linkEntry (p k : Nat) : Prop := k / 256 = 0x3000 + p ∨ (k / 256 = 0x3100 + p ∧ 0x2F ≤ k % 256)

theorem linkEntry_untold {p k : Nat} (hp : p < 5) (h : linkEntry p k) : k ∉ tellKeys := by
  simp only [linkEntry, tellKeys, List.mem_cons, List.not_mem_nil, or_false] at *; omega

/-- The rows of the tables after the ports hold no entry of a link. -/
theorem linkEntry_apart {r : Row} (hr : 0x3200 ≤ r.base) {p : Nat} (hp : p < 5) (i j : Nat) : ¬ linkEntry p (r.key i j) := by
  simp only [linkEntry, Row.key, entryKey]; omega

/-- `e` has the link of port `p` as it is in `d`. -/
structure KeepsLink (p : Nat) (d e : Dev) : Prop where
  entries : Leaves (linkEntry p) d e
  link : (e.port p).link = (d.port p).link

namespace KeepsLink

variable {p : Nat} {a b c d : Dev}

theorem refl (p : Nat) (d : Dev) : KeepsLink p d d := ⟨.refl d, rfl⟩

theorem trans (h : KeepsLink p a b) (h' : KeepsLink p b c) : KeepsLink p a c := ⟨h.entries.trans h'.entries, h'.link.trans h.link⟩

theorem of_leaves (h : Leaves (linkEntry p) a b) (hp : b.ports = a.ports) : KeepsLink p a b := ⟨h, by rw [port_congr hp]⟩

theorem of_eq (hr : b.regs = a.regs) (hw : b.power = a.power) (hp : b.ports = a.ports) : KeepsLink p a b := of_leaves ((Leaves.refl a).of_eq hr hw) hp

theorem told (h : KeepsLink p a b) (ht : Told b c) : KeepsLink p a c := h.trans (of_leaves ((Leaves.refl b).told ht) ht.ports)

theorem setNat (h : KeepsLink p a b) (r : Row) (v i j : Nat) (hk : ¬ linkEntry p (r.key i j)) : KeepsLink p a (b.setNat r v i j) :=
  h.trans (of_leaves ((Leaves.refl b).setNat r v i j hk) rfl)

theorem bump (h : KeepsLink p a b) (r : Row) (i n : Nat) (hk : ¬ linkEntry p (r.key i)) : KeepsLink p a (b.bump r i n) :=
  h.trans (of_leaves ((Leaves.refl b).bump r i n hk) (bump_ports _ _ _ _))

theorem setAlm (h : KeepsLink p a b) (f : Almanac → Almanac) : KeepsLink p a (b.setAlm f) := h.trans (of_eq rfl rfl rfl)

theorem emit (h : KeepsLink p a b) (o : Out) : KeepsLink p a (b.emit o) := h.trans (of_eq rfl rfl rfl)

/-- A change of a port's state beside its link. -/
theorem setPort (h : KeepsLink p a b) (hp : p < 5) (q : Nat) (f : Port → Port) (hf : ∀ x, (f x).link = x.link) : KeepsLink p a (b.setPort q f) := by
  refine h.trans ⟨setPort_leaves q f b, ?_⟩
  by_cases hq : q = p
  · rw [hq, setPort_port_same _ _ _ hp, hf]
  · rw [setPort_port_ne _ _ _ _ hq]

theorem foldl {α : Type} {f : Dev → α → Dev} (hf : ∀ e x, KeepsLink p e (f e x)) (l : List α) (d : Dev) : KeepsLink p d (l.foldl f d) :=
  List.foldlRecOn l f (refl p d) fun e he x _ => he.trans (hf e x)

theorem nat (h : KeepsLink p a b) (hp : p < 5) (r : Row) (i j : Nat) (hk : linkEntry p (r.key i j)) : b.nat r i j = a.nat r i j :=
  h.entries.nat r i j hk (linkEntry_untold hp hk)

end KeepsLink

variable {p : Nat} {d e : Dev}

/-! ### The other counters, MACsec and the transmit rings -/

theorem portCount_keepsLink (hp : p < 5) (q : Nat) {sub : Nat} (hs : sub < 0x2F) (d : Dev) (n : Nat) : KeepsLink p d (d.portCount q sub n) :=
  ((KeepsLink.refl p d).setNat Reg.portCounter _ q (sub - 1) (by simp only [linkEntry, portCounter_key]; omega)).told (told_portCount q sub d n)

theorem setMacsecState_keepsLink (hp : p < 5) (q st : Nat) (d : Dev) : KeepsLink p d (d.setMacsecState q st) := by
  unfold setMacsecState
  split
  · exact .refl p d
  · exact ((KeepsLink.refl p d).setNat Reg.macsecState _ _ _ (by simp only [linkEntry, macsecState_key]; omega)).told (told_notice _ _ _)

theorem setTxRing_keepsLink (hp : p < 5) (k : Nat) (r : TxRing) (d : Dev) : KeepsLink p d (d.setTxRing k r) := by
  have h : KeepsLink p d { d with txRings := d.txRings.modify k fun _ => r } := .of_eq rfl rfl rfl
  exact h.setNat Reg.txRingPending _ _ _ (by simp only [linkEntry, txRingPending_key]; omega)

theorem txWriteBack_keepsLink (hp : p < 5) (k status : Nat) (l : List TxDesc) (d : Dev) : KeepsLink p d (d.txWriteBack k status l) := by
  unfold txWriteBack
  dsimp only
  split
  · exact (setTxRing_keepsLink hp _ _ d).bump Reg.txRingFrames _ _ (by simp only [linkEntry, txRingFrames_key]; omega)
  · exact ((setTxRing_keepsLink hp _ _ d).bump Reg.txRingErrors _ _ (by simp only [linkEntry, txRingErrors_key]; omega)).told (told_notice _ _ _)

theorem txPost_keepsLink (hp : p < 5) (posts : List (Nat × TxBuffer)) (d : Dev) : KeepsLink p d (d.txPost posts) := by
  refine KeepsLink.foldl (fun e x => ?_) posts d
  dsimp only
  split
  · exact setTxRing_keepsLink hp _ _ e
  · exact .refl p e

theorem lldpSend_keepsLink (hp : p < 5) (d : Dev) : KeepsLink p d d.lldpSend := by
  unfold lldpSend
  split
  · exact txPost_keepsLink hp _ d
  · exact .refl p d

/-! ### PAUSE and low-power idle -/

theorem releasePause_keepsLink (hp : p < 5) (d : Dev) : KeepsLink p d d.releasePause := by
  unfold releasePause
  split
  · exact (portCount_keepsLink hp 4 (by decide) d _).setPort hp _ _ fun _ => rfl
  · exact .refl p d

theorem endLpi_keepsLink (hp : p < 5) (q : Nat) (d : Dev) : KeepsLink p d (d.endLpi q) := by
  unfold endLpi
  split
  · exact (KeepsLink.refl p d).setPort hp _ _ fun _ => rfl
  · exact .refl p d

theorem sendPause_keepsLink (hp : p < 5) (quanta : Nat) (d : Dev) : KeepsLink p d (d.sendPause quanta) :=
  ((endLpi_keepsLink hp 4 d).trans (portCount_keepsLink hp 4 (by decide) _ 1)).setPort hp _ _ fun _ => rfl

theorem pauseCheck_keepsLink (hp : p < 5) (d : Dev) : KeepsLink p d d.pauseCheck := by
  have hset (f : Port → Port) (hf : ∀ x, (f x).link = x.link) : KeepsLink p d (d.setPort 4 f) := (KeepsLink.refl p d).setPort hp 4 f hf
  have hsend (f : Port → Port) (hf : ∀ x, (f x).link = x.link) (quanta : Nat) : KeepsLink p d ((d.setPort 4 f).sendPause quanta) :=
    (hset f hf).trans (sendPause_keepsLink hp quanta _)
  unfold pauseCheck
  dsimp only
  split
  · exact hset _ fun _ => rfl
  split
  · split
    · refine hsend _ (fun _ => ?_) 0
      rfl
    · exact hset _ fun _ => rfl
  split
  · refine hsend _ (fun _ => ?_) 0xFFFF
    rfl
  · exact .refl p d

/-! ### The multicast groups and the PTP port that follow a link -/

theorem startRx_keepsLink (hp : p < 5) (q : Nat) (d : Dev) : KeepsLink p d (d.startRx q) := by
  refine KeepsLink.foldl (fun e f => ?_) _ d
  split
  · exact (KeepsLink.refl p e).setNat _ _ _ _ (linkEntry_apart (by decide) hp _ _)
  · exact .refl p e

theorem igmpRecord_keepsLink (q group : Nat) (sources : List Nat) (kind : Nat) (d : Dev) : KeepsLink p d (d.igmpRecord q group sources kind) := by
  have hemit (o : Out) : KeepsLink p d (d.emit o) := (KeepsLink.refl p d).emit o
  unfold igmpRecord
  dsimp only
  split
  · exact hemit _
  · split
    · split
      · exact hemit _
      · exact .refl p d
    · exact hemit _

theorem igmpRefresh_keepsLink (hp : p < 5) (q : Nat) (d : Dev) : KeepsLink p d (d.igmpRefresh q) := by
  have hrecords (e : Dev) (group : Nat) (l : List (Nat × List Nat)) : KeepsLink p e (l.foldl (fun d r => d.igmpRecord q group r.2 r.1) e) :=
    KeepsLink.foldl (fun g r => igmpRecord_keepsLink q group r.2 r.1 g) l e
  unfold igmpRefresh
  split
  · exact (KeepsLink.refl p d).setPort hp _ _ fun _ => rfl
  · have hgone (f : IgmpGroup → List (Nat × List Nat)) (l : List IgmpGroup) (e : Dev) :
        KeepsLink p e (l.foldl (fun d m => (f m).foldl (fun d r => d.igmpRecord q m.group r.2 r.1) d) e) :=
      KeepsLink.foldl (fun g m => hrecords g m.group (f m)) l e
    exact ((hgone _ _ d).trans (hgone _ _ _)).setPort hp _ _ fun _ => rfl

theorem switchSource_keepsLink (hp : p < 5) (new : Nat) (d : Dev) : KeepsLink p d (d.switchSource new) := by
  have hone (v : Nat) (e : Dev) : KeepsLink p e (e.setNat Reg.dpllState v) := (KeepsLink.refl p e).setNat _ _ _ _ (linkEntry_apart (by decide) hp _ _)
  unfold switchSource
  dsimp only
  split
  · exact hone 1 d
  · have hset := (KeepsLink.refl p d).setNat Reg.selectedSource new 0 0 (linkEntry_apart (by decide) hp _ _)
    exact ((((hset.trans (hone 1 _)).bump Reg.sourceSwitches 0 1 (linkEntry_apart (by decide) hp _ _)).told (told_notice _ _ _))).setAlm _

theorem recTrigger_keepsLink (hp : p < 5) (bit : Nat) (d : Dev) : KeepsLink p d (d.recTrigger bit) := by
  unfold recTrigger
  dsimp only
  split
  · exact .refl p d
  · split
    · have hdate := (KeepsLink.refl p d).setNat Reg.recorderTriggerDate d.mscNow 0 0 (linkEntry_apart (by decide) hp _ _)
      have hcause := hdate.setNat Reg.recorderTriggerCause (2 ^ bit) 0 0 (linkEntry_apart (by decide) hp _ _)
      exact (hcause.setNat Reg.recorderState 2 0 0 (linkEntry_apart (by decide) hp _ _)).told (told_notice _ _ _)
    · exact .refl p d
    · exact (KeepsLink.refl p d).bump _ _ _ (linkEntry_apart (by decide) hp _ _)

theorem sourceGained_keepsLink (hp : p < 5) (code : Nat) (d : Dev) : KeepsLink p d (d.sourceGained code) := by
  have h : KeepsLink p d (d.setAlm fun a => { a with qualifiedAt := nput a.qualifiedAt code d.clock }) := (KeepsLink.refl p d).setAlm _
  unfold sourceGained
  dsimp only
  split
  · split
    · exact h.trans (switchSource_keepsLink hp _ _)
    · exact h
  · exact h

theorem sourceLost_keepsLink (hp : p < 5) (code : Nat) (d : Dev) : KeepsLink p d (d.sourceLost code) := by
  unfold sourceLost
  extract_lets d1 v d2 d3
  have h1 : KeepsLink p d d1 := (KeepsLink.refl p d).setAlm _
  have h2 : KeepsLink p d1 d2 := by
    have hv : KeepsLink p d1 (v.2.setInt Reg.rootOffset (clampI (-100000) 100000 v.1)) :=
      .of_leaves (((Leaves.refl d1).of_eq (c := v.2) rfl rfl).setInt _ _ _ _ (linkEntry_apart (by decide) hp _ _)) rfl
    exact hv.setNat _ _ _ _ (linkEntry_apart (by decide) hp _ _)
  have h3 : KeepsLink p d1 d3 :=
    ((h2.bump Reg.holdoverCount 0 1 (linkEntry_apart (by decide) hp _ _)).told (told_notice _ _ _)).trans (recTrigger_keepsLink hp 4 _)
  split
  · exact h1
  · split
    · exact (h1.trans h3).trans (switchSource_keepsLink hp _ _)
    · exact h1.trans h3

theorem setServo_keepsLink (hp : p < 5) (st : Nat) (d : Dev) : KeepsLink p d (d.setServo st) := by
  have h := ((KeepsLink.refl p d).setNat Reg.ptpServoState st 0 0 (linkEntry_apart (by decide) hp _ _)).setAlm fun a => { a with goodRun := 0, badRun := 0 }
  unfold setServo
  dsimp only
  split
  · exact h
  split
  · exact (h.told (told_notice _ _ _)).trans (sourceGained_keepsLink hp 1 _)
  split
  · exact (h.told (told_notice _ _ _)).trans (sourceLost_keepsLink hp 1 _)
  · exact h

theorem adopt_keepsLink (hp : p < 5) (q : Nat) (source : Octets) (steps : Nat) (d : Dev) : KeepsLink p d (d.adopt q source steps) := by
  unfold adopt
  dsimp only
  split
  · exact (KeepsLink.refl p d).setNat _ _ _ _ (linkEntry_apart (by decide) hp _ _)
  · have hleader := ((KeepsLink.refl p d).setAlm fun a => { a with leader := source, twoStep := none, delayReq := none }).setNat Reg.ptpLeaderId
      (fromBE (source.take 8)) 0 0 (linkEntry_apart (by decide) hp _ _)
    have hsteps := (hleader.setNat Reg.ptpStepsRemoved steps 0 0 (linkEntry_apart (by decide) hp _ _)).told (told_notice 0x3809 0 _)
    have hstate := hsteps.setNat Reg.ptpPortState 9 q 0 (linkEntry_apart (by decide) hp _ _)
    split
    · exact hstate
    · exact hstate.trans (setServo_keepsLink hp 1 _)

theorem bestLeader_keepsLink (hp : p < 5) (d : Dev) : KeepsLink p d d.bestLeader := by
  have hlead (q : Nat) (e : Dev) : KeepsLink p e (if e.ptpOn q ∧ e.portUp q then e.setNat Reg.ptpPortState 6 q else e) := by
    split
    · exact (KeepsLink.refl p e).setNat _ _ _ _ (linkEntry_apart (by decide) hp _ _)
    · exact .refl p e
  unfold bestLeader
  extract_lets own best mode lead
  clear_value best
  cases best with
  | none =>
    dsimp only
    split
    · exact .refl p d
    · exact KeepsLink.foldl (fun e q => hlead q e) _ d
  | some x =>
    dsimp only
    split
    · exact (KeepsLink.foldl (fun e q => hlead q e) _ d).setAlm _
    · split
      · refine (adopt_keepsLink hp _ _ _ d).trans (KeepsLink.foldl (fun e q => ?_) _ _)
        split
        · exact .refl p e
        · exact hlead q e
      · exact adopt_keepsLink hp _ _ _ d

theorem ptpPort_keepsLink (hp : p < 5) (q : Nat) (d : Dev) : KeepsLink p d (d.ptpPort q) := by
  have h (v : Nat) := (KeepsLink.refl p d).setNat Reg.ptpPortState v q 0 (linkEntry_apart (by decide) hp _ _)
  unfold ptpPort
  extract_lets e
  have he : KeepsLink p d e := h _
  clear_value e
  split
  · exact he.trans (bestLeader_keepsLink hp e)
  · exact he

/-- What follows a change of a link leaves the link itself. -/
theorem linkChanged_keepsLink (hp : p < 5) (was : Bool) (d : Dev) : KeepsLink p d (d.linkChanged p was) := by
  have hrest (e : Dev) : KeepsLink p e ((e.igmpRefresh p).ptpPort p) := (igmpRefresh_keepsLink hp p e).trans (ptpPort_keepsLink hp p _)
  unfold linkChanged
  split
  · exact .refl p d
  · split
    · exact (startRx_keepsLink hp p d).trans (hrest _)
    · exact hrest d

theorem linkChanged_same {was : Bool} (h : d.portUp p = was) : d.linkChanged p was = d := if_pos h

/-! ### The eye of a lane (R258) -/

theorem storeEye_keepsLink (hp : p < 5) (lane : Nat) (eye : Eye) (d : Dev) : KeepsLink p d (d.storeEye lane eye) := by
  unfold storeEye
  extract_lets g d1 d2 d3 d4
  have h1 : KeepsLink p d d1 := .of_eq rfl rfl rfl
  have h2 : KeepsLink p d1 d2 := by
    have hwidth := (KeepsLink.refl p d1).setNat Reg.eqEyeWidth (eye.width % 65536) lane 0 (linkEntry_apart (by decide) hp _ _)
    have hheight := hwidth.setNat Reg.eqEyeHeight (eye.height % 65536) lane 0 (linkEntry_apart (by decide) hp _ _)
    exact hheight.setNat Reg.eqStartValid 1 lane 0 (linkEntry_apart (by decide) hp _ _)
  have h3 : KeepsLink p d2 d3 := .of_eq (keep_regs _ _ _ _) (keep_power _ _ _ _) (keep_ports _ _ _ _)
  have h4 : KeepsLink p d3 d4 := by
    simp only [d4]
    split
    · have hmin := (KeepsLink.refl p d3).setNat Reg.eqEyeWidthMin (eye.width % 65536) lane 0 (linkEntry_apart (by decide) hp _ _)
      exact hmin.trans (.of_eq (keep_regs _ _ _ _) (keep_power _ _ _ _) (keep_ports _ _ _ _))
    · exact .refl p d3
  have hall := h1.trans (h2.trans (h3.trans h4))
  clear_value d4
  split
  · have hseason (f : Season → Season) : KeepsLink p d4 (d4.setSeason f) := .of_eq rfl rfl rfl
    exact (hall.trans (hseason fun x => { x with eyeTold := lane :: x.eyeTold })).told (told_notice _ _ _)
  · exact hall

end Dev

end Sys2Proof.Machine
end

