-- ==== Sys2Proof/Proofs/PortBringUp.lean ====
section
/-! The events of a port's bring-up: the cage polled and identified, the candidates tried, the link up and down, and the PHY of the management port (R254 to
R259, R261). -/

namespace Sys2Proof.Machine

namespace Port

/-- A port without a frame under way. -/
def unsent (q : Port) : Port := { q with sending := none }

theorem unsent_link {q r : Port} (h : q.link = r.link) : q.unsent.link = r.unsent.link := congrArg (fun x : LinkPart => { x with sending := none }) h

theorem unsent_lastGood (q : Port) : q.unsent.lastGood = q.lastGood := rfl

theorem unsent_sending (q : Port) : q.unsent.sending = none := rfl

end Port

namespace Dev

variable {p st : Nat} {d e : Dev}

/-! ### A link set, a cycle without agreement, a cycle started -/

/-- LinkState, LinkSpeed and FecInUse of a port. -/
def linkKeys (p : Nat) : List Nat := [Reg.linkState.key p, Reg.linkSpeed.key p, Reg.fecInUse.key p]

theorem setLink_reads (p st : Nat) (d : Dev) :
    (d.setLink p st).nat Reg.linkState p = st ∧ (d.setLink p st).nat Reg.linkSpeed p = 0 ∧ (d.setLink p st).nat Reg.fecInUse p = 0 := by
  unfold setLink
  refine ⟨?_, ?_, nat_setNat_same _ _ _ _ _⟩
  · rw [nat_setNat_ne, nat_setNat_ne, nat_setNat_same] <;> simp [linkState_key, linkSpeed_key, fecInUse_key]
  · rw [nat_setNat_ne, nat_setNat_same]
    simp [linkSpeed_key, fecInUse_key]

theorem setLink_keepsRegs (p st : Nat) (d : Dev) : KeepsRegs (linkKeys p) d (d.setLink p st) :=
  (((KeepsRegs.refl _ d).setNat Reg.linkState st p 0 (.head _)).setNat Reg.linkSpeed 0 p 0 (.tail _ (.head _))).setNat Reg.fecInUse 0 p 0
    (.tail _ (.tail _ (.head _)))

@[simp] theorem setLink_port (p st q : Nat) (d : Dev) : (d.setLink p st).port q = d.port q := rfl

/-- The entries that a port's link coming or going writes. -/
def bringUpKeys (p : Nat) : List Nat := Reg.portCounter.key p 0x2F :: linkKeys p

theorem noAgreement_keepsRegs (p : Nat) (d : Dev) : KeepsRegs (bringUpKeys p) d (d.noAgreement p) :=
  (((((setLink_keepsRegs p 3 d).mono fun _ hk => .tail _ hk).portCount p 0x30 1 (.head _)).told (told_notice _ _ _))).setPort p _

theorem startCycle_keepsRegs (p : Nat) (c : Option Nat) (d : Dev) : KeepsRegs (bringUpKeys p) d (d.startCycle p c) := by
  have hlink : KeepsRegs (bringUpKeys p) d (d.setLink p 1) := (setLink_keepsRegs p 1 d).mono fun _ hk => .tail _ hk
  unfold startCycle
  dsimp only
  split
  · exact hlink.setPort p _
  · exact hlink.setPort p _
  · exact noAgreement_keepsRegs p d

theorem bringUp_keepsRegs (p : Nat) (d : Dev) : KeepsRegs (bringUpKeys p) d (d.bringUp p) := by
  have hlink (e : Dev) : KeepsRegs (bringUpKeys p) e (e.setLink p 0) := (setLink_keepsRegs p 0 e).mono fun _ hk => .tail _ hk
  have hemit (o : Out) : KeepsRegs (bringUpKeys p) d (d.emit o) := (KeepsRegs.refl _ d).of_regs (emit_regs o d)
  unfold bringUp
  split
  · exact hlink d
  split
  · exact ((hlink d).setPort p _).of_regs (emit_regs _ _)
  · dsimp only
    split
    · exact (hemit _).trans (startCycle_keepsRegs p none _)
    · exact ((hemit _).trans (hlink _)).setPort p _

/-- The rows of a port's own entries. -/
def linkRow (r : Row) : Bool := r.base == 0x3000 && decide (r.sub < 0x100)

theorem linkRow_entry {r : Row} (h : linkRow r = true) (p : Nat) : linkEntry p (r.key p) := by
  simp only [linkRow, Bool.and_eq_true, beq_iff_eq, decide_eq_true_eq] at h
  simp only [linkEntry, Row.key, entryKey, h.1]
  omega

theorem linkRow_notCounter {r : Row} (h : linkRow r = true) (p j : Nat) : r.key p ∉ [Reg.portCounter.key p j] := by
  simp only [linkRow, Bool.and_eq_true, beq_iff_eq, decide_eq_true_eq] at h
  rw [List.mem_singleton, portCounter_key]
  simp only [Row.key, entryKey, h.1]
  omega

theorem linkRow_untold {r : Row} (h : linkRow r = true) (hp : p < 5) : r.key p ∉ tellKeys := linkEntry_untold hp (linkRow_entry h p)

theorem counter_notLink (p j : Nat) : Reg.portCounter.key p j ∉ linkKeys p := by
  simp only [linkKeys, portCounter_key, linkState_key, linkSpeed_key, fecInUse_key, List.mem_cons, List.not_mem_nil, or_false]; omega

/-- A link that is set and counted. -/
theorem setLink_counted (hp : p < 5) {sub : Nat} (hs : sub - 1 < portSubs) (h : KeepsRegs [Reg.portCounter.key p (sub - 1)] ((d.setLink p st).portCount p sub) e)
    (hcount : e.nat Reg.portCounter p (sub - 1) = ((d.setLink p st).portCount p sub).nat Reg.portCounter p (sub - 1)) :
    e.nat Reg.linkState p = st ∧ e.nat Reg.linkSpeed p = 0 ∧ e.nat Reg.fecInUse p = 0 ∧
      e.nat Reg.portCounter p (sub - 1) = add32 (d.nat Reg.portCounter p (sub - 1)) 1 := by
  have hall := ((KeepsRegs.refl _ (d.setLink p st)).portCount p sub 1 (.head _)).trans h
  have hread {r : Row} (hr : linkRow r = true) : e.nat r p = (d.setLink p st).nat r p :=
    hall.nat r p 0 (linkRow_notCounter hr p _) (linkRow_untold hr hp)
  obtain ⟨hstate, hspeed, hfec⟩ := setLink_reads p st d
  refine ⟨(hread (by decide)).trans hstate, (hread (by decide)).trans hspeed, (hread (by decide)).trans hfec, ?_⟩
  rw [hcount, portCount_same hp hs, (setLink_keepsRegs p st d).nat _ _ _ (counter_notLink p _) (portCounter_untold hp hs)]

/-- A cycle that ended without agreement shows no link and counts. -/
theorem noAgreement_reads (hp : p < 5) (d : Dev) : (d.noAgreement p).nat Reg.linkState p = 3 ∧ (d.noAgreement p).nat Reg.linkSpeed p = 0 ∧
    (d.noAgreement p).nat Reg.fecInUse p = 0 ∧ (d.noAgreement p).nat Reg.portCounter p 0x2F = add32 (d.nat Reg.portCounter p 0x2F) 1 := by
  have h : KeepsRegs [] ((d.setLink p 3).portCount p 0x30) (d.noAgreement p) := ((KeepsRegs.refl _ _).told (told_notice 0x3003 p _)).setPort p _
  exact setLink_counted (sub := 0x30) hp (by decide) (h.mono fun _ hk => .tail _ hk)
    (h.nat _ _ _ List.not_mem_nil (portCounter_untold hp (by decide)))

/-! ### Candidates (R257) -/

theorem candidates_congr (hmode : e.nat Reg.speedMode p = d.nat Reg.speedMode p) (hfec : e.nat Reg.fecMode p = d.nat Reg.fecMode p)
    (hrate : e.nat Reg.sfpNominalRate p = d.nat Reg.sfpNominalRate p) : e.candidates p = d.candidates p := by
  rw [candidates, hmode, hfec, hrate, candidates]

/-- The port as a cycle that starts with candidate `c` leaves it. -/
def cycleStarted (p c : Nat) (d : Dev) : Dev := (d.setLink p 1).setPort p fun q => { q with cand := c, tried := 1, candAt := d.clock }

theorem startCycle_from {c : Nat} (h : c ∈ d.candidates p) : d.startCycle p (some c) = d.cycleStarted p c := by
  have hc : (some c).filter (d.candidates p).contains = some c := Option.filter_some_pos (List.contains_iff_mem.2 h)
  unfold startCycle
  dsimp only
  rw [hc]
  rfl

theorem startCycle_first {c : Nat} {l : List Nat} (h : d.candidates p = c :: l) : d.startCycle p none = d.cycleStarted p c := by
  unfold startCycle
  dsimp only
  rw [h]
  rfl

theorem cycleStarted_reads (hp : p < 5) (c : Nat) (d : Dev) : (d.cycleStarted p c).nat Reg.linkState p = 1 ∧
    ((d.cycleStarted p c).port p).cand = c ∧ ((d.cycleStarted p c).port p).tried = 1 := by
  rw [cycleStarted, setPort_port_same _ _ _ hp]
  exact ⟨(nat_congr (setPort_regs _ _ _) _ _ _).trans (setLink_reads p 1 d).1, rfl, rfl⟩

/-- While a candidate trains, the time-out that ends it leaves the ports as they wait. -/
theorem candidateTimeout_due (hs : d.nat Reg.linkState p = 1) (hd : d.Reaches ((d.port p).candAt + msCycles 250)) :
    ∃ t : Dev, t.regs = d.regs ∧ t.ports = d.ports ∧ d.candidateTimeout p =
      if (d.candidates p).length ≤ (d.port p).tried then t.noAgreement p
      else t.setPort p fun q => { q with
        cand := (d.candidates p).getD ((((d.candidates p).findIdx? (· == (d.port p).cand)).getD 0 + 1) % (d.candidates p).length) 0
        tried := q.tried + 1, candAt := t.clock } := by
  refine ⟨d.advanceTo ((d.port p).candAt + msCycles 250), advanceTo_regs _ _, advanceTo_ports _ _, ?_⟩
  have hcand : (d.advanceTo ((d.port p).candAt + msCycles 250)).candidates p = d.candidates p :=
    candidates_congr (advanceTo_nat _ _ _ _ _) (advanceTo_nat _ _ _ _ _) (advanceTo_nat _ _ _ _ _)
  rw [candidateTimeout, if_neg (by simp [hs]), onDue_eq _ _ _ hd]
  dsimp only
  rw [hcand, advanceTo_port]

theorem getD_mod_mem (l : List Nat) (h : 0 < l.length) (i : Nat) : l.getD (i % l.length) 0 ∈ l := by
  have hi : i % l.length < l.length := Nat.mod_lt _ h
  rw [List.getD_eq_getElem _ _ hi]
  exact List.getElem_mem hi

/-! ### A link that is lost (R256, R259) -/

/-- What is lost with a link leaves it, but for the frame under way. -/
theorem dropLink_link (hp : p < 5) (d : Dev) : Leaves (linkEntry p) d (d.dropLink p) ∧
    ((d.dropLink p).port p).link = (d.port p).unsent.link := by
  unfold dropLink
  extract_lets q d1 d2 d3 d4
  have h1 : KeepsLink p d d1 := by
    simp only [d1]
    split
    · exact releasePause_keepsLink hp d
    · exact .refl p d
  have h2 : KeepsLink p d1 d2 := by
    simp only [d2]
    split
    · exact (portCount_keepsLink hp p (by decide) d1 1).trans (txWriteBack_keepsLink hp _ _ _ _)
    · exact .refl p d1
  have h3 : KeepsLink p d2 d3 := KeepsLink.foldl (fun e f => by
    split
    · exact (KeepsLink.refl p e).bump _ _ _ (linkEntry_apart (by decide) hp _ _)
    · exact .refl p e) _ d2
  have hall : KeepsLink p d d3 := h1.trans (h2.trans h3)
  have h4 : Leaves (linkEntry p) d d4 ∧ (d4.port p).link = (d.port p).unsent.link := by
    refine ⟨hall.entries.trans (setPort_leaves _ _ _), ?_⟩
    have hport : (d4.port p).link = (d3.port p).unsent.link := by
      simp only [d4]
      rw [setPort_port_same _ _ _ hp]
      rfl
    exact hport.trans (Port.unsent_link hall.link)
  clear_value d4
  split
  · have hsec := setMacsecState_keepsLink hp p (if d4.nat Reg.macsecMode p = 0 then 0 else 1) d4
    exact ⟨h4.1.trans hsec.entries, hsec.link.trans h4.2⟩
  · exact h4

/-- A port whose link is lost, told and counted. -/
def linkLost (p : Nat) (d : Dev) : Dev := (((d.dropLink p).setLink p 0).portCount p 0x2F).notice 0x3002 p

theorem linkLost_reads (hp : p < 5) (d : Dev) : (d.linkLost p).nat Reg.linkState p = 0 ∧ (d.linkLost p).nat Reg.linkSpeed p = 0 ∧
    (d.linkLost p).nat Reg.fecInUse p = 0 ∧ (d.linkLost p).nat Reg.portCounter p 0x2E = add32 (d.nat Reg.portCounter p 0x2E) 1 := by
  have h : KeepsRegs [] (((d.dropLink p).setLink p 0).portCount p 0x2F) (d.linkLost p) := (KeepsRegs.refl _ _).told (told_notice 0x3002 p _)
  have hdrop : (d.dropLink p).nat Reg.portCounter p 0x2E = d.nat Reg.portCounter p 0x2E :=
    (dropLink_link hp d).1.nat _ _ _ (.inr (by rw [portCounter_key]; omega)) (portCounter_untold hp (by decide))
  rw [← hdrop]
  exact setLink_counted (sub := 0x2F) hp (by decide) (h.mono fun _ hk => .tail _ hk) (h.nat _ _ _ List.not_mem_nil (portCounter_untold hp (by decide)))

theorem linkLost_link (hp : p < 5) (d : Dev) : ((d.linkLost p).port p).link = (d.port p).unsent.link := by
  have hport : (d.linkLost p).port p = (((d.dropLink p).setLink p 0).portCount p 0x2F).port p := port_congr (told_notice 0x3002 p _).ports p
  rw [← (dropLink_link hp d).2, hport, portCount_port, setLink_port]

/-- The settings of a port and what its cage showed stand while its link is lost. -/
theorem linkLost_row (hp : p < 5) (d : Dev) {r : Row} (hr : linkRow r = true) (hk : r.key p ∉ linkKeys p) : (d.linkLost p).nat r p = d.nat r p := by
  have h : KeepsRegs [Reg.portCounter.key p 0x2E] ((d.dropLink p).setLink p 0) (d.linkLost p) :=
    ((KeepsRegs.refl _ _).portCount p 0x2F 1 (.head _)).told (told_notice 0x3002 p _)
  rw [h.nat _ _ _ (linkRow_notCounter hr p _) (linkRow_untold hr hp), (setLink_keepsRegs p 0 _).nat _ _ _ hk (linkRow_untold hr hp)]
  exact (dropLink_link hp d).1.nat r p 0 (linkRow_entry hr p) (linkRow_untold hr hp)

theorem linkLost_candidates (hp : p < 5) (d : Dev) : (d.linkLost p).candidates p = d.candidates p :=
  candidates_congr (linkLost_row hp d (by decide) (by simp [linkKeys, speedMode_key, linkState_key, linkSpeed_key, fecInUse_key]))
    (linkLost_row hp d (by decide) (by simp [linkKeys, fecMode_key, linkState_key, linkSpeed_key, fecInUse_key]))
    (linkLost_row hp d (by decide) (by simp [linkKeys, sfpNominalRate_key, linkState_key, linkSpeed_key, fecInUse_key]))

theorem linkDown_idle (h : d.nat Reg.linkState p ≠ 2) : d.linkDown p = d := by rw [linkDown, if_pos (by simp [portUp, h])]

theorem linkDown_up (h : d.nat Reg.linkState p = 2) : d.linkDown p =
    if p = 4 ∨ (d.linkLost p).nat Reg.sfpState p ≠ 2 ∨ !(d.linkLost p).flag Reg.portEnable p then d.linkLost p
    else (d.linkLost p).startCycle p (some ((d.linkLost p).port p).lastGood) := by
  rw [linkDown, if_neg (by simp [portUp, h])]
  rfl

/-! ### A link that comes up (R258) -/

/-- The link of a port that is UP, whatever is told and counted after. -/
theorem becomeUp_reads (hp : p < 5) (speed fec : Nat) (d : Dev) : (d.becomeUp p speed fec).nat Reg.linkState p = 2 ∧
    (d.becomeUp p speed fec).nat Reg.linkSpeed p = speed ∧ (d.becomeUp p speed fec).nat Reg.fecInUse p = fec ∧
    ((d.becomeUp p speed fec).port p).link = (d.port p).link := by
  unfold becomeUp
  extract_lets d1 d2 d3
  have hstate : d1.nat Reg.linkState p = 2 := by
    simp only [d1]
    rw [nat_setNat_ne, nat_setNat_ne, nat_setNat_ne, nat_setNat_same] <;> simp [linkState_key, linkSpeed_key, fecInUse_key, linkUpDate_key]
  have hspeed : d1.nat Reg.linkSpeed p = speed := by
    simp only [d1]
    rw [nat_setNat_ne, nat_setNat_ne, nat_setNat_same] <;> simp [linkSpeed_key, fecInUse_key, linkUpDate_key]
  have hfec : d1.nat Reg.fecInUse p = fec := by
    simp only [d1]
    rw [nat_setNat_ne, nat_setNat_same]
    simp [fecInUse_key, linkUpDate_key]
  have hport : d1.port p = d.port p := port_congr (by simp only [d1, setNat_ports]) p
  have h2 : KeepsLink p d1 d2 := (portCount_keepsLink hp p (by decide) d1 1).told (told_notice _ _ _)
  clear_value d2
  have h3 : KeepsLink p d1 d3 := h2.setPort hp p _ fun _ => rfl
  clear_value d1 d3
  have reads {e : Dev} (h : KeepsLink p d1 e) : e.nat Reg.linkState p = 2 ∧ e.nat Reg.linkSpeed p = speed ∧ e.nat Reg.fecInUse p = fec ∧
      (e.port p).link = (d.port p).link :=
    ⟨(h.nat hp _ _ _ (linkRow_entry (by decide) p)).trans hstate, (h.nat hp _ _ _ (linkRow_entry (by decide) p)).trans hspeed,
      (h.nat hp _ _ _ (linkRow_entry (by decide) p)).trans hfec, by rw [h.link, hport]⟩
  split
  · exact reads (h3.trans (setMacsecState_keepsLink hp p 1 d3))
  · exact reads h3

theorem linkUp_due {eye : Eye} (hs : d.nat Reg.linkState p = 1) (hd : d.Reaches ((d.port p).candAt + msCycles 10)) :
    ∃ t : Dev, t.port p = d.port p ∧ d.linkUp p eye = ((t.setPort p fun q => { q with lastGood := (d.port p).cand }).storeEye p eye).becomeUp p
      (candidateOf (d.port p).cand).1 (candidateOf (d.port p).cand).2 := by
  refine ⟨d.advanceTo ((d.port p).candAt + msCycles 10), advanceTo_port _ _ _, ?_⟩
  rw [linkUp, if_neg (by simp [hs]), onDue_eq _ _ _ hd]
  dsimp only
  rw [advanceTo_port]

/-! ### A cage polled and identified (R254, R255) -/

/-- What a timer of a period that is over finds: the module as it was, at a later time. -/
theorem onPeriod_waits (k period : Nat) (f : Dev → Dev) (h : d.Reaches (d.timerFrom k + period)) :
    ∃ t, d.onPeriod k period f = f t ∧ t.regs = d.regs ∧ t.ports = d.ports := by
  unfold onPeriod
  dsimp only
  rw [onDue_eq _ _ _ h]
  exact ⟨_, rfl, advanceTo_regs _ _, advanceTo_ports _ _⟩

/-- The recoveries of the cage's bus counted. -/
def recovered (n : Nat) (d : Dev) : Dev := if n = 0 then d else d.bump Reg.i2cRecoveries 0 n

theorem recovered_keepsRegs (n : Nat) (d : Dev) : KeepsRegs [Reg.i2cRecoveries.key] d (d.recovered n) := by
  unfold recovered
  split
  · exact .refl _ d
  · exact (KeepsRegs.refl _ d).bump _ _ _ (.head _)

theorem recovered_ports (n : Nat) (d : Dev) : (d.recovered n).ports = d.ports := by
  unfold recovered
  split
  · rfl
  · exact bump_ports _ _ _ _

/-- A poll's answer taken, by whether the cage answered before. -/
def polled (p : Nat) (before : Bool) (answer : Option Bool) (a2 : Octets) (d : Dev) : Dev :=
  match answer with
  | some true => if before then d.sfpDiagnose p a2 else (d.setNat Reg.sfpState 1 p).setPort p fun q => { q with answers := true, answeredAt := d.clock }
  | some false => if before then (((d.dropLink p).setLink p 0).setNat Reg.sfpState 0 p).setPort p fun q => { q with answers := false, cand := 0 } else d
  | none => d

theorem sfpPoll_due (h : d.Reaches (d.timerFrom (0x3000 + p) + msCycles 250)) (answer : Option Bool) (a2 : Octets) (n : Nat) :
    ∃ e, KeepsRegs [Reg.i2cRecoveries.key] d e ∧ e.ports = d.ports ∧ d.sfpPoll p answer a2 n = e.polled p (d.port p).answers answer a2 := by
  unfold sfpPoll
  obtain ⟨t, ht, hregs, hports⟩ := onPeriod_waits (0x3000 + p) (msCycles 250) _ h
  refine ⟨t.recovered n, ((KeepsRegs.refl _ d).of_regs hregs).trans (recovered_keepsRegs n t), (recovered_ports n t).trans hports, ht.trans ?_⟩
  rw [← port_congr hports p]
  rfl

theorem onLink_same {f : Dev → Dev} (h : (f d).nat Reg.linkState p = d.nat Reg.linkState p) : d.onLink p f = f d :=
  linkChanged_same (by rw [portUp, h, portUp])

theorem linkState_apart (hp : p < 4) : Reg.linkState.key p ∉ [Reg.sfpState.key p, Reg.i2cRecoveries.key] ∧
    Reg.linkState.key p ∉ [Reg.sfpTemperature.key p, Reg.sfpRxPower.key p, Reg.i2cRecoveries.key] := by
  simp only [linkState_key, sfpState_key, i2cRecoveries_key, sfpTemperature_key, sfpRxPower_key, List.mem_cons, List.not_mem_nil, or_false]
  omega

/-- What the entries of an identified module show of it. -/
def identRead (p : Nat) (a0 a2 : Octets) (d : Dev) : Dev :=
  let d := d.setVal Reg.sfpIdent (.bytes ((a0.drop 20).take 16 ++ (a0.drop 40).take 16)) p
  ((d.setNat Reg.sfpNominalRate (sfpRate a0) p).setInt Reg.sfpTemperature (beAtS a2 96 2) p).setNat Reg.sfpRxPower (beAt a2 104 2) p

theorem sfpIdentify_due {a0 a2 : Octets} (ha : (d.port p).answers = true) (hs : d.nat Reg.sfpState p = 1)
    (hd : d.Reaches ((d.port p).answeredAt + msCycles 300)) :
    ∃ t : Dev, t.regs = d.regs ∧ d.sfpIdentify p a0 a2 = ((t.identRead p a0 a2).sfpDecide p).bringUp p := by
  refine ⟨d.advanceTo ((d.port p).answeredAt + msCycles 300), advanceTo_regs _ _, ?_⟩
  rw [sfpIdentify, if_neg (by simp [ha, hs]), onDue_eq _ _ _ hd]
  rfl

theorem identRead_reads (p : Nat) (a0 a2 : Octets) (d : Dev) : (d.identRead p a0 a2).nat Reg.speedMode p = d.nat Reg.speedMode p ∧
    (d.identRead p a0 a2).nat Reg.sfpNominalRate p = sfpRate a0 ∧
    (d.identRead p a0 a2).val Reg.sfpIdent p = .bytes ((a0.drop 20).take 16 ++ (a0.drop 40).take 16) := by
  have hspeed : Reg.speedMode.key p ≠ Reg.sfpIdent.key p ∧ Reg.speedMode.key p ≠ Reg.sfpNominalRate.key p ∧
      Reg.speedMode.key p ≠ Reg.sfpTemperature.key p ∧ Reg.speedMode.key p ≠ Reg.sfpRxPower.key p := by
    simp [speedMode_key, sfpIdent_key, sfpNominalRate_key, sfpTemperature_key, sfpRxPower_key]
  have hrate : Reg.sfpNominalRate.key p ≠ Reg.sfpTemperature.key p ∧ Reg.sfpNominalRate.key p ≠ Reg.sfpRxPower.key p := by
    simp [sfpNominalRate_key, sfpTemperature_key, sfpRxPower_key]
  have hident : Reg.sfpIdent.key p ≠ Reg.sfpNominalRate.key p ∧ Reg.sfpIdent.key p ≠ Reg.sfpTemperature.key p ∧
      Reg.sfpIdent.key p ≠ Reg.sfpRxPower.key p := by
    simp [sfpIdent_key, sfpNominalRate_key, sfpTemperature_key, sfpRxPower_key]
  unfold identRead
  refine ⟨?_, ?_, ?_⟩
  · rw [nat_setNat_ne _ _ _ _ _ _ _ _ hspeed.2.2.2, nat_setInt_ne _ _ _ _ _ _ _ _ hspeed.2.2.1, nat_setNat_ne _ _ _ _ _ _ _ _ hspeed.2.1]
    simp only [nat, int, val_setVal_ne _ _ _ _ _ _ _ _ hspeed.1]
  · rw [nat_setNat_ne _ _ _ _ _ _ _ _ hrate.2, nat_setInt_ne _ _ _ _ _ _ _ _ hrate.1, nat_setNat_same]
  · simp only [setNat, setInt]
    rw [val_setVal_ne _ _ _ _ _ _ _ _ hident.2.2, val_setVal_ne _ _ _ _ _ _ _ _ hident.2.1, val_setVal_ne _ _ _ _ _ _ _ _ hident.1, val_setVal_same]

/-- What a module is found to be: SfpState, told. -/
theorem sfpDecide_reads (hp : p < 5) (d : Dev) : (d.sfpDecide p).nat Reg.sfpState p = d.sfpVerdict p ∧ KeepsRegs [Reg.sfpState.key p] d (d.sfpDecide p) := by
  have hset : KeepsRegs [Reg.sfpState.key p] d (d.setNat Reg.sfpState (d.sfpVerdict p) p) := (KeepsRegs.refl _ d).setNat _ _ _ _ (.head _)
  have htold : Told (d.setNat Reg.sfpState (d.sfpVerdict p) p) (d.sfpDecide p) := by
    unfold sfpDecide
    dsimp only
    split
    · exact (told_notice _ _ _).trans (told_notice _ _ _)
    · exact told_notice _ _ _
  exact ⟨(htold.nat _ _ _ (linkRow_untold (by decide) hp)).trans (nat_setNat_same _ _ _ _ _), hset.told htold⟩

/-! ### The management port's PHY (R262) -/

theorem phyAccess_regs (write : Bool) (r v : Nat) (d : Dev) : (d.phyAccess write r v).regs = d.regs := rfl

theorem eeeRead_regs (d : Dev) : d.eeeRead.regs = d.regs := by
  unfold eeeRead
  simp only [phyAccess_regs, freeNat]

theorem phyWord_down (speed : Nat) (eee : Bool) (d : Dev) : d.phyWord false speed eee = d.linkDown 4 := by
  rw [phyWord, Bool.false_and, Bool.false_and, if_neg (by decide)]

/-- The management port's link up at a speed that its interface carries. -/
theorem phyWord_up {speed sp : Nat} {eee : Bool} (hen : d.flag Reg.portEnable 4 = true) (ha : d.power.state.answers = true)
    (hsp : (if d.inForce Reg.mgmtInterface = 1 then 1000 else speed) = sp) (hmem : [10, 100, 1000].contains sp = true) :
    ∃ e : Dev, e.regs = d.regs ∧ (e.port 4).phyEee = eee ∧
      d.phyWord true speed eee = if e.portUp 4 then e.setNat Reg.linkSpeed sp 4 else ((e.becomeUp 4 sp 0).pauseCheck).lldpSend := by
  refine ⟨(d.eeeRead).setPort 4 fun q => { q with phyEee := eee }, eeeRead_regs d, ?_, ?_⟩
  · rw [setPort_port_same _ _ _ (by decide)]
  · unfold phyWord
    dsimp only
    rw [hsp, hen, ha, hmem]
    rfl

/-- An event of a port's link leaves the link as its own step made it. -/
theorem onLink_keepsLink (hp : p < 5) (f : Dev → Dev) (d : Dev) : KeepsLink p (f d) (d.onLink p f) := linkChanged_keepsLink hp _ _

theorem KeepsLink.row (h : KeepsLink p d e) (hp : p < 5) {r : Row} (hr : linkRow r = true) : e.nat r p = d.nat r p := h.nat hp r p 0 (linkRow_entry hr p)

theorem KeepsLink.counter (h : KeepsLink p d e) (hp : p < 5) {j : Nat} (hj : 0x2E ≤ j ∧ j < portSubs) :
    e.nat Reg.portCounter p j = d.nat Reg.portCounter p j :=
  h.nat hp _ _ _ (.inr (by simp only [portCounter_key, portSubs] at *; omega))

/-! ### The polls -/

/-- A cage that answers where none did. -/
theorem polled_found (hp : p < 4) (hkeep : KeepsRegs [Reg.i2cRecoveries.key] d e) (a2 : Octets) :
    (e.polled p false (some true) a2).nat Reg.sfpState p = 1 ∧ ((e.polled p false (some true) a2).port p).answers = true ∧
      ((e.polled p false (some true) a2).port p).answeredAt = (e.polled p false (some true) a2).clock ∧
      KeepsRegs [Reg.sfpState.key p, Reg.i2cRecoveries.key] d (e.polled p false (some true) a2) := by
  have hpolled : e.polled p false (some true) a2 = (e.setNat Reg.sfpState 1 p).setPort p fun q => { q with answers := true, answeredAt := e.clock } := rfl
  rw [hpolled, setPort_port_same _ _ _ (by omega)]
  refine ⟨(nat_congr (setPort_regs _ _ _) _ _ _).trans (nat_setNat_same _ _ _ _ _), rfl, rfl, ?_⟩
  exact ((hkeep.mono fun _ hk => .tail _ hk).setNat _ _ _ _ (.head _)).setPort p _

theorem sfpDiagnose_identified {a2 : Octets} (hid : 2 ≤ e.nat Reg.sfpState p) (hlen : 106 ≤ a2.length) :
    e.sfpDiagnose p a2 = (e.setInt Reg.sfpTemperature (beAtS a2 96 2) p).setNat Reg.sfpRxPower (beAt a2 104 2) p := by
  rw [sfpDiagnose, if_neg (by omega)]

/-- A module identified shows what its diagnostics page gives. -/
theorem sfpDiagnose_reads {a2 : Octets} (hid : 2 ≤ e.nat Reg.sfpState p) (hlen : 106 ≤ a2.length) (hkeep : KeepsRegs [Reg.i2cRecoveries.key] d e) :
    (e.sfpDiagnose p a2).int Reg.sfpTemperature p = beAtS a2 96 2 ∧ (e.sfpDiagnose p a2).nat Reg.sfpRxPower p = beAt a2 104 2 ∧
      (e.sfpDiagnose p a2).ports = e.ports ∧
      KeepsRegs [Reg.sfpTemperature.key p, Reg.sfpRxPower.key p, Reg.i2cRecoveries.key] d (e.sfpDiagnose p a2) := by
  rw [sfpDiagnose_identified hid hlen]
  refine ⟨?_, nat_setNat_same _ _ _ _ _, by rw [setNat_ports, setInt_ports], ?_⟩
  · have hother : Reg.sfpTemperature.key p ≠ Reg.sfpRxPower.key p := by simp [sfpTemperature_key, sfpRxPower_key]
    simp only [int, setNat]
    rw [val_setVal_ne _ _ _ _ _ _ _ _ hother]
    exact int_setInt_same e Reg.sfpTemperature _ p 0
  · exact ((hkeep.mono fun _ hk => .tail _ (.tail _ hk)).setInt _ _ _ _ (.head _)).setNat _ _ _ _ (.tail _ (.head _))

theorem polled_again (p : Nat) (a2 : Octets) (e : Dev) : e.polled p true (some true) a2 = e.sfpDiagnose p a2 := by simp only [polled, if_true]

/-- A module that stops answering leaves its port DOWN. -/
theorem polled_gone (hp : p < 5) (a2 : Octets) (e : Dev) :
    (e.polled p true (some false) a2).nat Reg.sfpState p = 0 ∧ (e.polled p true (some false) a2).nat Reg.linkState p = 0 ∧
      (e.polled p true (some false) a2).nat Reg.linkSpeed p = 0 ∧ ((e.polled p true (some false) a2).port p).answers = false := by
  have hpolled : e.polled p true (some false) a2 =
      (((e.dropLink p).setLink p 0).setNat Reg.sfpState 0 p).setPort p fun q => { q with answers := false, cand := 0 } := rfl
  obtain ⟨hstate, hspeed, -⟩ := setLink_reads p 0 (e.dropLink p)
  have hother {r : Row} (hr : r.key p ≠ Reg.sfpState.key p) := nat_setNat_ne ((e.dropLink p).setLink p 0) Reg.sfpState r 0 p 0 p 0 hr
  rw [hpolled, setPort_port_same _ _ _ hp]
  refine ⟨?_, ?_, ?_, rfl⟩ <;> rw [nat_congr (setPort_regs _ _ _)]
  · exact nat_setNat_same _ _ _ _ _
  · exact (hother (by simp [linkState_key, sfpState_key])).trans hstate
  · exact (hother (by simp [linkSpeed_key, sfpState_key])).trans hspeed

/-! ### Each event, with what follows a link that changes -/

theorem sfpPoll_found {a2 : Octets} {n : Nat} (hp : p < 4) (hd : d.Reaches (d.timerFrom (0x3000 + p) + msCycles 250)) (ha : (d.port p).answers = false) :
    (d.onLink p (sfpPoll p (some true) a2 n)).nat Reg.sfpState p = 1 ∧ ((d.onLink p (sfpPoll p (some true) a2 n)).port p).answers = true ∧
      ((d.onLink p (sfpPoll p (some true) a2 n)).port p).answeredAt = (d.onLink p (sfpPoll p (some true) a2 n)).clock ∧
      KeepsRegs [Reg.sfpState.key p, Reg.i2cRecoveries.key] d (d.onLink p (sfpPoll p (some true) a2 n)) := by
  obtain ⟨e, hkeep, -, heq⟩ := sfpPoll_due hd (some true) a2 n
  have h := polled_found hp hkeep a2
  rw [← ha, ← heq] at h
  rwa [onLink_same (h.2.2.2.nat _ _ _ (linkState_apart hp).1 (linkRow_untold (by decide) (by omega)))]

theorem sfpPoll_diagnosed {a2 : Octets} {n : Nat} (hp : p < 4) (hd : d.Reaches (d.timerFrom (0x3000 + p) + msCycles 250))
    (ha : (d.port p).answers = true) (hid : 2 ≤ d.nat Reg.sfpState p) (hlen : 106 ≤ a2.length) :
    (d.onLink p (sfpPoll p (some true) a2 n)).int Reg.sfpTemperature p = beAtS a2 96 2 ∧
      (d.onLink p (sfpPoll p (some true) a2 n)).nat Reg.sfpRxPower p = beAt a2 104 2 ∧ (d.onLink p (sfpPoll p (some true) a2 n)).ports = d.ports ∧
      KeepsRegs [Reg.sfpTemperature.key p, Reg.sfpRxPower.key p, Reg.i2cRecoveries.key] d (d.onLink p (sfpPoll p (some true) a2 n)) := by
  obtain ⟨e, hkeep, hports, heq⟩ := sfpPoll_due hd (some true) a2 n
  rw [ha, polled_again] at heq
  have hstate : e.nat Reg.sfpState p = d.nat Reg.sfpState p :=
    hkeep.nat _ _ _ (by simp only [sfpState_key, i2cRecoveries_key, List.mem_singleton]; omega) (linkRow_untold (by decide) (by omega))
  have h := sfpDiagnose_reads (hid.trans hstate.ge) hlen hkeep
  rw [← heq, hports] at h
  rwa [onLink_same (h.2.2.2.nat _ _ _ (linkState_apart hp).2 (linkRow_untold (by decide) (by omega)))]

theorem sfpPoll_gone {a2 : Octets} {n : Nat} (hp : p < 5) (hd : d.Reaches (d.timerFrom (0x3000 + p) + msCycles 250)) (ha : (d.port p).answers = true) :
    (d.onLink p (sfpPoll p (some false) a2 n)).nat Reg.sfpState p = 0 ∧ (d.onLink p (sfpPoll p (some false) a2 n)).nat Reg.linkState p = 0 ∧
      (d.onLink p (sfpPoll p (some false) a2 n)).nat Reg.linkSpeed p = 0 ∧ ((d.onLink p (sfpPoll p (some false) a2 n)).port p).answers = false := by
  have hlink := onLink_keepsLink hp (sfpPoll p (some false) a2 n) d
  obtain ⟨e, -, -, heq⟩ := sfpPoll_due hd (some false) a2 n
  have h := polled_gone hp a2 e
  rw [← ha, ← heq] at h
  obtain ⟨hsfp, hstate, hspeed, hanswers⟩ := h
  exact ⟨(hlink.row hp (by decide)).trans hsfp, (hlink.row hp (by decide)).trans hstate, (hlink.row hp (by decide)).trans hspeed,
    (Port.answers_of_link hlink.link).trans hanswers⟩

theorem sfpPoll_none {a2 : Octets} {n : Nat} (hp : p < 4) (hd : d.Reaches (d.timerFrom (0x3000 + p) + msCycles 250)) :
    (d.onLink p (sfpPoll p none a2 n)).ports = d.ports ∧ KeepsRegs [Reg.i2cRecoveries.key] d (d.onLink p (sfpPoll p none a2 n)) := by
  obtain ⟨e, hkeep, hports, heq⟩ := sfpPoll_due hd none a2 n
  have heq : d.sfpPoll p none a2 n = e := heq
  have hstate : e.nat Reg.linkState p = d.nat Reg.linkState p :=
    hkeep.nat _ _ _ (fun h => (linkState_apart hp).1 (.tail _ h)) (linkRow_untold (by decide) (by omega))
  rw [onLink_same (by rw [heq, hstate]), heq]
  exact ⟨hports, hkeep⟩

theorem KeepsRegs.val {ks : List Nat} (h : KeepsRegs ks d e) (r : Row) (i : Nat) (hk : r.key i ∉ ks) (ht : r.key i ∉ tellKeys) : e.val r i = d.val r i := by
  simp [Dev.val, nget, h _ hk ht]

theorem sfpIdentify_reads {a0 a2 : Octets} (hp : p < 5) (ha : (d.port p).answers = true) (hs : d.nat Reg.sfpState p = 1)
    (hd : d.Reaches ((d.port p).answeredAt + msCycles 300)) :
    (d.onLink p (sfpIdentify p a0 a2)).nat Reg.sfpState p = (if d.nat Reg.speedMode p ≠ 0 ∨ 9500 ≤ sfpRate a0 then 2 else 3) ∧
      (d.onLink p (sfpIdentify p a0 a2)).nat Reg.sfpNominalRate p = sfpRate a0 ∧
      (d.onLink p (sfpIdentify p a0 a2)).bytes Reg.sfpIdent p = (a0.drop 20).take 16 ++ (a0.drop 40).take 16 := by
  have hlink := onLink_keepsLink hp (sfpIdentify p a0 a2) d
  obtain ⟨t, hregs, heq⟩ := sfpIdentify_due (a0 := a0) (a2 := a2) ha hs hd
  rw [heq] at hlink
  obtain ⟨hspeed, hrate, hident⟩ := identRead_reads p a0 a2 t
  obtain ⟨hstate, hdecide⟩ := sfpDecide_reads hp (t.identRead p a0 a2)
  have hbring := bringUp_keepsRegs p ((t.identRead p a0 a2).sfpDecide p)
  have hverdict : (t.identRead p a0 a2).sfpVerdict p = if d.nat Reg.speedMode p ≠ 0 ∨ 9500 ≤ sfpRate a0 then 2 else 3 := by
    rw [sfpVerdict, hspeed, hrate, nat_congr hregs]
  have hapart {r : Row} (hr : r = Reg.sfpState ∨ r = Reg.sfpNominalRate ∨ r = Reg.sfpIdent) : r.key p ∉ bringUpKeys p := by
    obtain rfl | rfl | rfl := hr <;> simp only [bringUpKeys, linkKeys, sfpState_key, sfpNominalRate_key, sfpIdent_key, portCounter_key, linkState_key,
      linkSpeed_key, fecInUse_key, List.mem_cons, List.not_mem_nil, or_false] <;> omega
  have hread {r : Row} (hr : r = Reg.sfpNominalRate ∨ r = Reg.sfpIdent) :
      (d.onLink p (sfpIdentify p a0 a2)).val r p = (t.identRead p a0 a2).val r p := by
    have hrow : linkRow r = true := by obtain rfl | rfl := hr <;> rfl
    have hsfp : r.key p ∉ [Reg.sfpState.key p] := by obtain rfl | rfl := hr <;> simp [sfpNominalRate_key, sfpIdent_key, sfpState_key]
    rw [hlink.entries.val r p 0 (linkRow_entry hrow p) (linkRow_untold hrow hp), hbring.val _ _ (hapart (.inr hr)) (linkRow_untold hrow hp),
      hdecide.val _ _ hsfp (linkRow_untold hrow hp)]
  refine ⟨?_, ?_, ?_⟩
  · rw [hlink.row hp (by decide), hbring.nat _ _ _ (hapart (.inl rfl)) (linkRow_untold (by decide) hp), hstate, hverdict]
  · rw [nat, int, hread (.inl rfl)]
    exact hrate
  · rw [bytes, hread (.inr rfl), hident]
    rfl

/-! A candidate that comes up, a link that is lost, and a cycle tried again. -/

theorem linkUp_reads {eye : Eye} (hp : p < 5) (hs : d.nat Reg.linkState p = 1) (hd : d.Reaches ((d.port p).candAt + msCycles 10)) :
    (d.onLink p (linkUp p eye)).nat Reg.linkState p = 2 ∧ (d.onLink p (linkUp p eye)).nat Reg.linkSpeed p = (candidateOf (d.port p).cand).1 ∧
      (d.onLink p (linkUp p eye)).nat Reg.fecInUse p = (candidateOf (d.port p).cand).2 ∧
      ((d.onLink p (linkUp p eye)).port p).lastGood = (d.port p).cand := by
  have hlink := onLink_keepsLink hp (linkUp p eye) d
  obtain ⟨t, hport, heq⟩ := linkUp_due (eye := eye) hs hd
  obtain ⟨hstate, hspeed, hfec, hpart⟩ := becomeUp_reads hp (candidateOf (d.port p).cand).1 (candidateOf (d.port p).cand).2
    ((t.setPort p fun q => { q with lastGood := (d.port p).cand }).storeEye p eye)
  rw [← heq] at hstate hspeed hfec hpart
  have hgood : ((t.setPort p fun q => { q with lastGood := (d.port p).cand }).port p).lastGood = (d.port p).cand := by rw [setPort_port_same _ _ _ hp]
  refine ⟨(hlink.row hp (by decide)).trans hstate, (hlink.row hp (by decide)).trans hspeed, (hlink.row hp (by decide)).trans hfec, ?_⟩
  have hall := hlink.link.trans (hpart.trans (storeEye_keepsLink hp p eye _).link)
  exact (Port.lastGood_of_link hall).trans hgood

theorem candidateTimeout_last (hp : p < 5) (hs : d.nat Reg.linkState p = 1) (hd : d.Reaches ((d.port p).candAt + msCycles 250))
    (htried : (d.candidates p).length ≤ (d.port p).tried) : (d.candidateTimeout p).nat Reg.linkState p = 3 ∧ (d.candidateTimeout p).nat Reg.linkSpeed p = 0 ∧
      (d.candidateTimeout p).nat Reg.fecInUse p = 0 ∧ (d.candidateTimeout p).nat Reg.portCounter p 0x2F = add32 (d.nat Reg.portCounter p 0x2F) 1 := by
  obtain ⟨t, hregs, -, heq⟩ := candidateTimeout_due hs hd
  rw [heq, if_pos htried, ← nat_congr hregs]
  exact noAgreement_reads hp t

theorem candidateTimeout_next (hp : p < 5) (hs : d.nat Reg.linkState p = 1) (hd : d.Reaches ((d.port p).candAt + msCycles 250))
    (htried : (d.port p).tried < (d.candidates p).length) : (d.candidateTimeout p).nat Reg.linkState p = 1 ∧
      ((d.candidateTimeout p).port p).tried = (d.port p).tried + 1 ∧ ((d.candidateTimeout p).port p).cand ∈ d.candidates p ∧
      (d.candidateTimeout p).regs = d.regs := by
  obtain ⟨t, hregs, hports, heq⟩ := candidateTimeout_due hs hd
  have hsame : (d.candidateTimeout p).regs = d.regs := by rw [heq, if_neg (by omega), setPort_regs, hregs]
  refine ⟨(nat_congr hsame _ _ _).trans hs, ?_, ?_, hsame⟩ <;> rw [heq, if_neg (by omega), setPort_port_same _ _ _ hp]
  · rw [port_congr hports]
  · exact getD_mod_mem _ (by omega) _

/-- A link lost that nothing brings up again. -/
theorem linkLost_stays (hp : p < 5) (h : d.linkDown p = d.linkLost p) :
    (d.onLink p (linkDown p)).nat Reg.linkState p = 0 ∧ (d.onLink p (linkDown p)).nat Reg.linkSpeed p = 0 ∧
      (d.onLink p (linkDown p)).nat Reg.fecInUse p = 0 ∧ ((d.onLink p (linkDown p)).port p).sending = none ∧
      (d.onLink p (linkDown p)).nat Reg.portCounter p 0x2E = add32 (d.nat Reg.portCounter p 0x2E) 1 := by
  have hlink := onLink_keepsLink hp (linkDown p) d
  obtain ⟨hstate, hspeed, hfec, hcount⟩ := linkLost_reads hp d
  rw [h] at hlink
  exact ⟨(hlink.row hp (by decide)).trans hstate, (hlink.row hp (by decide)).trans hspeed, (hlink.row hp (by decide)).trans hfec,
    (Port.sending_of_link (hlink.link.trans (linkLost_link hp d))).trans (Port.unsent_sending _), (hlink.counter hp (by decide)).trans hcount⟩

theorem linkLost_settings (hp : p < 5) (d : Dev) : (d.linkLost p).nat Reg.sfpState p = d.nat Reg.sfpState p ∧
    (d.linkLost p).flag Reg.portEnable p = d.flag Reg.portEnable p := by
  have hstate := linkLost_row hp d (r := Reg.sfpState) (by decide) (by simp [linkKeys, sfpState_key, linkState_key, linkSpeed_key, fecInUse_key])
  have henable := linkLost_row hp d (r := Reg.portEnable) (by decide) (by simp [linkKeys, portEnable_key, linkState_key, linkSpeed_key, fecInUse_key])
  exact ⟨hstate, by rw [flag, henable, flag]⟩

theorem linkDown_stays (hp : p < 5) (hup : d.nat Reg.linkState p = 2) (h : p = 4 ∨ d.nat Reg.sfpState p ≠ 2 ∨ d.flag Reg.portEnable p = false) :
    d.linkDown p = d.linkLost p := by
  obtain ⟨hstate, henable⟩ := linkLost_settings hp d
  rw [linkDown_up hup, hstate, henable, if_pos (by simpa using h)]

/-- A link lost where its last good candidate still stands trains from it. -/
theorem linkDown_trains (hp : p < 4) (hup : d.nat Reg.linkState p = 2) (hid : d.nat Reg.sfpState p = 2) (hen : d.flag Reg.portEnable p = true)
    (hgood : (d.port p).lastGood ∈ d.candidates p) : d.linkDown p = (d.linkLost p).cycleStarted p (d.port p).lastGood := by
  have hp5 : p < 5 := by omega
  obtain ⟨hstate, henable⟩ := linkLost_settings hp5 d
  have hlast : ((d.linkLost p).port p).lastGood = (d.port p).lastGood :=
    (Port.lastGood_of_link (linkLost_link hp5 d)).trans (Port.unsent_lastGood _)
  rw [linkDown_up hup, hstate, henable, if_neg (by simp [hid, hen]; omega), hlast, startCycle_from (by rw [linkLost_candidates hp5]; exact hgood)]

theorem retryCycle_due {c : Nat} {l : List Nat} (hp : p < 5) (hs : d.nat Reg.linkState p = 3) (hid : d.nat Reg.sfpState p = 2)
    (hcand : d.candidates p = c :: l) (hd : d.Reaches ((d.port p).candAt + secCycles 2)) :
    (d.retryCycle p).nat Reg.linkState p = 1 ∧ ((d.retryCycle p).port p).cand = c ∧ ((d.retryCycle p).port p).tried = 1 := by
  have hlater : (d.advanceTo ((d.port p).candAt + secCycles 2)).candidates p = c :: l :=
    (candidates_congr (advanceTo_nat _ _ _ _ _) (advanceTo_nat _ _ _ _ _) (advanceTo_nat _ _ _ _ _)).trans hcand
  rw [retryCycle, if_pos ⟨hs, hid⟩, onDue_eq _ _ _ hd, startCycle_first hlater]
  exact cycleStarted_reads hp c _

/-! The PHY of the management port. -/

theorem phyWord_reads {speed : Nat} {eee : Bool} (hspeed : speed = 10 ∨ speed = 100 ∨ speed = 1000) (hen : d.flag Reg.portEnable 4 = true)
    (ha : d.power.state.answers = true) : (d.onLink 4 (phyWord true speed eee)).nat Reg.linkSpeed 4 = (if d.inForce Reg.mgmtInterface = 1 then 1000 else speed) ∧
      (d.onLink 4 (phyWord true speed eee)).nat Reg.linkState 4 = 2 ∧ ((d.onLink 4 (phyWord true speed eee)).port 4).phyEee = eee := by
  have hlink := onLink_keepsLink (by decide : 4 < 5) (phyWord true speed eee) d
  have hmem : [10, 100, 1000].contains (if d.inForce Reg.mgmtInterface = 1 then 1000 else speed) = true := by
    split
    · rfl
    · obtain rfl | rfl | rfl := hspeed <;> rfl
  obtain ⟨e, -, heee, heq⟩ := phyWord_up (eee := eee) hen ha rfl hmem
  rw [heq] at hlink
  split at hlink
  next hup =>
    have hone : KeepsRegs [Reg.linkSpeed.key 4] e (e.setNat Reg.linkSpeed (if d.inForce Reg.mgmtInterface = 1 then 1000 else speed) 4) :=
      (KeepsRegs.refl _ e).setNat _ _ _ _ (.head _)
    refine ⟨(hlink.row (by decide) (by decide)).trans (nat_setNat_same _ _ _ _ _), ?_, ?_⟩
    · rw [hlink.row (by decide) (by decide), hone.nat _ _ _ (by decide) (by decide)]
      exact beq_iff_eq.1 hup
    · exact (Port.phyEee_of_link hlink.link).trans heee
  next =>
    obtain ⟨hstate, hlinkSpeed, -, hpart⟩ := becomeUp_reads (by decide : 4 < 5) (if d.inForce Reg.mgmtInterface = 1 then 1000 else speed) 0 e
    have hall := ((pauseCheck_keepsLink (by decide) _).trans (lldpSend_keepsLink (by decide) _)).trans hlink
    exact ⟨(hall.row (by decide) (by decide)).trans hlinkSpeed, (hall.row (by decide) (by decide)).trans hstate,
      (Port.phyEee_of_link (hall.link.trans hpart)).trans heee⟩

end Dev

/-! ### What the events of a port run -/

/-- An event of a port's link completes with its own step and what follows it. -/
theorem onLink_completes {i : Instr} {s : State} {p : Nat} {f : Dev → Dev} {P : Dev → Prop} (h : exec i s = s.run (Dev.whenUp fun d => d.onLink p f))
    (ha : s.dev.answers = true) (hp : P (s.dev.onLink p f)) : Completes i s P := up_completes h ha hp

theorem exec_sfpPoll (p : Nat) (answer : Option Bool) (a2 : Octets) (n : Nat) (s : State) :
    exec (.sfpPoll p ⟨answer, a2, n⟩) s = s.run (Dev.whenUp fun d => d.onLink p (Dev.sfpPoll p answer a2 n)) := rfl

theorem exec_sfpIdentify (p : Nat) (a0 a2 : Octets) (s : State) :
    exec (.sfpIdentify p a0 a2) s = s.run (Dev.whenUp fun d => d.onLink p (Dev.sfpIdentify p a0 a2)) := rfl

theorem exec_linkCandidateTimeout (p : Nat) (s : State) : exec (.linkCandidateTimeout p) s = s.run (Dev.whenUp fun d => d.candidateTimeout p) := rfl

theorem exec_linkRetryCycle (p : Nat) (s : State) : exec (.linkRetryCycle p) s = s.run (Dev.whenUp fun d => d.retryCycle p) := rfl

theorem exec_linkUp (p : Nat) (eye : Eye) (s : State) : exec (.linkUp ⟨p, eye⟩) s = s.run (Dev.whenUp fun d => d.onLink p (Dev.linkUp p eye)) := rfl

theorem exec_linkDown (p : Nat) (s : State) : exec (.linkDown p) s = s.run (Dev.whenUp fun d => d.onLink p (Dev.linkDown p)) := rfl

theorem exec_phyAutonegotiation (up : Bool) (speed : Nat) (eee : Bool) (s : State) :
    exec (.phyAutonegotiation up speed eee) s = s.run (Dev.whenUp fun d => d.onLink 4 (Dev.phyWord up speed eee)) := rfl

/-- Settles O31: each event of a port by the moment it comes at, and what follows a link that changes by what it leaves. -/
theorem portBringUp : Obligations.PortBringUp := by
  unfold Obligations.PortBringUp
  intro s ha p hp
  have hp5 : p < 5 := by omega
  refine ⟨fun hd a2 n => ⟨fun hans => ?_, fun hans hid hlen => ?_, fun hans => ?_, ?_⟩, fun a0 a2 hans hs hd => ?_,
    fun hs hd => ⟨fun htried => ?_, fun htried => ?_⟩, fun eye hs hd => ?_, fun hup hoff => ?_, fun hup hid hen hgood => ?_,
    fun c l hs hid hcand hd => ?_, fun speed eee hspeed hen => ?_, fun speed eee hup => ?_, fun speed eee hup => ?_⟩
  · exact onLink_completes (exec_sfpPoll _ _ _ _ _) ha (Dev.sfpPoll_found hp hd hans)
  · exact onLink_completes (exec_sfpPoll _ _ _ _ _) ha (Dev.sfpPoll_diagnosed hp hd hans hid hlen)
  · exact onLink_completes (exec_sfpPoll _ _ _ _ _) ha (Dev.sfpPoll_gone hp5 hd hans)
  · exact onLink_completes (exec_sfpPoll _ _ _ _ _) ha (Dev.sfpPoll_none hp hd)
  · exact onLink_completes (exec_sfpIdentify _ _ _ _) ha (Dev.sfpIdentify_reads hp5 hans hs hd)
  · exact up_completes (exec_linkCandidateTimeout _ _) ha (Dev.candidateTimeout_last hp5 hs hd htried)
  · exact up_completes (exec_linkCandidateTimeout _ _) ha (Dev.candidateTimeout_next hp5 hs hd htried)
  · exact onLink_completes (exec_linkUp _ _ _) ha (Dev.linkUp_reads hp5 hs hd)
  · exact onLink_completes (exec_linkDown _ _) ha (Dev.linkLost_stays hp5 (Dev.linkDown_stays hp5 hup (.inr hoff)))
  · refine onLink_completes (exec_linkDown _ _) ha ?_
    have hlink := Dev.onLink_keepsLink hp5 (Dev.linkDown p) s.dev
    rw [Dev.linkDown_trains hp hup hid hen hgood] at hlink
    obtain ⟨hstate, hcand, -⟩ := Dev.cycleStarted_reads hp5 (s.dev.port p).lastGood (s.dev.linkLost p)
    exact ⟨(hlink.row hp5 (by decide)).trans hstate, (Port.cand_of_link hlink.link).trans hcand⟩
  · exact up_completes (exec_linkRetryCycle _ _) ha (Dev.retryCycle_due hp5 hs hid hcand hd)
  · exact onLink_completes (exec_phyAutonegotiation _ _ _ _) ha (Dev.phyWord_reads hspeed hen (Dev.answers_state ha))
  · refine onLink_completes (exec_phyAutonegotiation _ _ _ _) ha ?_
    obtain ⟨hstate, hspeed, -⟩ := Dev.linkLost_stays (by decide) (Dev.linkDown_stays (by decide) hup (.inl rfl))
    rw [Dev.onLink, Dev.phyWord_down]
    exact ⟨hstate, hspeed⟩
  · refine onLink_completes (exec_phyAutonegotiation _ _ _ _) ha ?_
    have heq : s.dev.phyWord false speed eee = s.dev := (Dev.phyWord_down speed eee _).trans (Dev.linkDown_idle hup)
    rw [Dev.onLink_same (by rw [heq]), heq]

end Sys2Proof.Machine
end

