-- ==== Sys2Proof/Proofs/AlmanacTime.lean ====
section
/-! The Almanac as time passes, and the steps that leave it: telling, the recorder, and the root's choice of its source (R322 to R324, R334, R374). -/

namespace Sys2Proof.Machine

namespace Dev

variable {ks : List Nat} {a b c d e : Dev}

/-! ### What the passing of time leaves of the Almanac -/

@[simp] theorem advance_snMode (n : Nat) (d : Dev) : (d.advance n).alm.snMode = d.alm.snMode := by unfold advance; split <;> rfl
@[simp] theorem advance_records (n : Nat) (d : Dev) : (d.advance n).alm.records = d.alm.records := by unfold advance; split <;> rfl
@[simp] theorem advance_leader (n : Nat) (d : Dev) : (d.advance n).alm.leader = d.alm.leader := by unfold advance; split <;> rfl
@[simp] theorem advance_foreign (n : Nat) (d : Dev) : (d.advance n).alm.foreign = d.alm.foreign := by unfold advance; split <;> rfl
@[simp] theorem advance_inputs (n : Nat) (d : Dev) : (d.advance n).alm.inputs = d.alm.inputs := by unfold advance; split <;> rfl

@[simp] theorem advanceTo_snMode (n : Nat) (d : Dev) : (d.advanceTo n).alm.snMode = d.alm.snMode := advance_snMode _ _
@[simp] theorem advanceTo_leader (n : Nat) (d : Dev) : (d.advanceTo n).alm.leader = d.alm.leader := advance_leader _ _
@[simp] theorem advanceTo_foreign (n : Nat) (d : Dev) : (d.advanceTo n).alm.foreign = d.alm.foreign := advance_foreign _ _
@[simp] theorem advanceTo_inputs (n : Nat) (d : Dev) : (d.advanceTo n).alm.inputs = d.alm.inputs := advance_inputs _ _

theorem input_congr (h : e.alm.inputs = d.alm.inputs) (i : Nat) : e.input i = d.input i := by rw [input, h, input]

theorem advanceTo_input (n i : Nat) (d : Dev) : (d.advanceTo n).input i = d.input i := input_congr (advanceTo_inputs n d) i

/-- A periodic event that is due acts on the module some cycles later, with its timer set. -/
theorem onPeriod_acts {k period : Nat} (f : Dev → Dev) (h : d.Reaches (d.timerFrom k + period)) :
    ∃ n t, d.onPeriod k period f = f ((d.advance n).setTimer k t) := by
  unfold onPeriod
  dsimp only
  rw [onDue_eq _ _ _ h]
  exact ⟨_, _, rfl⟩

/-- Unaligned, any moment is within reach. -/
theorem reaches_unaligned (h : d.alm.aligned = false) (due : Nat) : d.Reaches due := fun ha => absurd ha (by simp [h])

/-! ### Entries beside the ones written -/

theorem KeepsRegs.flag (h : KeepsRegs ks d e) (r : Row) (i : Nat) (hk : r.key i ∉ ks) (ht : r.key i ∉ tellKeys) : e.flag r i = d.flag r i := by
  simp only [Dev.flag, h.nat r i 0 hk ht]

theorem int_congr (h : e.regs = d.regs) (r : Row) (i j : Nat) : e.int r i j = d.int r i j := by simp only [Dev.int, val_congr h]

theorem int_setNat_ne (d : Dev) (r r' : Row) (v i j i' j' : Nat) (h : r'.key i' j' ≠ r.key i j) :
    (d.setNat r v i j).int r' i' j' = d.int r' i' j' := by simp only [int, setNat]; rw [val_setVal_ne _ _ _ _ _ _ _ _ h]

/-! ### A cause of the recorder, whose entries alone it writes (R374) -/

/-- The entries of a recording that a cause may write. -/
def triggerKeys : List Nat :=
  [Reg.recorderTriggerDate.key, Reg.recorderTriggerCause.key, Reg.recorderState.key, Reg.recorderTriggersMissed.key]

theorem recTrigger_keepsRegs (bit : Nat) (d : Dev) : KeepsRegs triggerKeys d (d.recTrigger bit) := by
  unfold recTrigger
  dsimp only
  split
  · exact .refl _ d
  · split
    · have hdate := (KeepsRegs.refl triggerKeys d).setNat Reg.recorderTriggerDate d.mscNow 0 0 (by decide)
      have hcause := hdate.setNat Reg.recorderTriggerCause (2 ^ bit) 0 0 (by decide)
      exact (hcause.setNat Reg.recorderState 2 0 0 (by decide)).told (told_notice _ _ _)
    · exact .refl _ d
    · exact (KeepsRegs.refl _ d).bump Reg.recorderTriggersMissed 0 1 (by decide)

theorem recTrigger_untold (bit : Nat) (d' d : Dev) : untold d' (d.recTrigger bit) = untold d' d := by
  unfold recTrigger
  dsimp only
  split
  · rfl
  · split
    · simp
    · rfl
    · simp

theorem recTrigger_alm (bit : Nat) (d : Dev) : (d.recTrigger bit).alm = d.alm := (congrArg Dev.alm (recTrigger_untold bit d d) :)
theorem recTrigger_power (bit : Nat) (d : Dev) : (d.recTrigger bit).power = d.power := (congrArg Dev.power (recTrigger_untold bit d d) :)
theorem recTrigger_perturb (bit : Nat) (d : Dev) : (d.recTrigger bit).perturb = d.perturb := (congrArg Dev.perturb (recTrigger_untold bit d d) :)

/-! ### The root's choice of its source (R333 to R335) -/

/-- The entries that the root's choice of its source may write. -/
def rootKeys : List Nat :=
  [Reg.selectedSource.key, Reg.dpllState.key, Reg.sourceSwitches.key, Reg.rootOffset.key, Reg.holdoverCount.key] ++ triggerKeys

/-- An Almanac but for what it notes of the sources. -/
def unsourced (a : Almanac) : Almanac := { a with qualifiedAt := [], everQualified := false }

/-- `d'` is `d` after a source was gained, lost or chosen, as far as the Almanac and the other entries go. -/
structure Sourced (d d' : Dev) : Prop where
  alm : unsourced d'.alm = unsourced d.alm
  regs : KeepsRegs rootKeys d d'

namespace Sourced

theorem refl (d : Dev) : Sourced d d := ⟨rfl, .refl _ d⟩

theorem trans (h : Sourced a b) (h' : Sourced b c) : Sourced a c := ⟨h'.alm.trans h.alm, h.regs.trans h'.regs⟩

theorem told (h : Sourced a b) (ht : Told b c) : Sourced a c := ⟨(congrArg unsourced ht.alm).trans h.alm, h.regs.told ht⟩

theorem setAlm (h : Sourced a b) (f : Almanac → Almanac) (hf : ∀ x, unsourced (f x) = unsourced x) : Sourced a (b.setAlm f) :=
  ⟨(hf _).trans h.alm, h.regs.of_regs rfl⟩

theorem setNat (h : Sourced a b) (r : Row) (v : Nat) (hk : r.key ∈ rootKeys) : Sourced a (b.setNat r v) := ⟨h.alm, h.regs.setNat r v 0 0 hk⟩

theorem setInt (h : Sourced a b) (r : Row) (v : Int) (hk : r.key ∈ rootKeys) : Sourced a (b.setInt r v) := ⟨h.alm, h.regs.setInt r v 0 0 hk⟩

theorem bump (h : Sourced a b) (r : Row) (hk : r.key ∈ rootKeys) : Sourced a (b.bump r) :=
  ⟨(congrArg unsourced (congrArg Dev.alm (untold_bump b b r 0 1) :)).trans h.alm, h.regs.bump r 0 1 hk⟩

theorem inputs (h : Sourced a b) : b.alm.inputs = a.alm.inputs := (congrArg Almanac.inputs h.alm :)

theorem foreign (h : Sourced a b) : b.alm.foreign = a.alm.foreign := (congrArg Almanac.foreign h.alm :)

/-- The entries of the inputs and of PTP are none that the root's choice writes. -/
theorem nat (h : Sourced a b) {r : Row} {i : Nat} (hk : 0x382000 ≤ r.key i ∧ r.key i < 0x920000) : b.nat r i = a.nat r i := by
  refine h.regs.nat r i 0 ?_ ?_
  · simp only [rootKeys, triggerKeys, List.cons_append, List.nil_append, List.mem_cons, List.not_mem_nil, or_false, selectedSource_key, dpllState_key,
      sourceSwitches_key, rootOffset_key, holdoverCount_key, recorderTriggerDate_key, recorderTriggerCause_key, recorderState_key, recorderTriggersMissed_key]
    omega
  · simp only [tellKeys, List.mem_cons, List.not_mem_nil, or_false]
    omega

end Sourced

theorem sourced_switchSource (new : Nat) (d : Dev) : Sourced d (d.switchSource new) := by
  unfold switchSource
  dsimp only
  split
  · exact (Sourced.refl d).setNat _ _ (by decide)
  · have hset := ((Sourced.refl d).setNat Reg.selectedSource new (by decide)).setNat Reg.dpllState 1 (by decide)
    exact ((hset.bump Reg.sourceSwitches (by decide)).told (told_notice _ _ _)).setAlm _ fun _ => rfl

theorem sourced_recTrigger (bit : Nat) (d : Dev) : Sourced d (d.recTrigger bit) :=
  ⟨congrArg unsourced (recTrigger_alm bit d), (recTrigger_keepsRegs bit d).mono fun _ hk => List.mem_append_right _ hk⟩

/-- The best source, where there is one, is followed. -/
theorem sourced_best (d : Dev) : Sourced d (match d.bestSource with | some s => d.switchSource s | none => d) := by
  split
  · exact sourced_switchSource _ d
  · exact .refl d

theorem sourced_sourceGained (code : Nat) (d : Dev) : Sourced d (d.sourceGained code) := by
  have hnoted : Sourced d (d.setAlm fun a => { a with qualifiedAt := nput a.qualifiedAt code d.clock }) := (Sourced.refl d).setAlm _ fun _ => rfl
  unfold sourceGained
  dsimp only
  split
  · exact hnoted.trans (sourced_best _)
  · exact hnoted

theorem sourced_sourceLost (code : Nat) (d : Dev) : Sourced d (d.sourceLost code) := by
  unfold sourceLost
  extract_lets d1 v d2 d3
  have hnoted : Sourced d d1 := (Sourced.refl d).setAlm _ fun _ => rfl
  split
  · exact hnoted
  · have hfree : Sourced d1 v.2 := ⟨rfl, (KeepsRegs.refl _ d1).of_regs rfl⟩
    have hholds : Sourced d1 d2 := (hfree.setInt Reg.rootOffset _ (by decide)).setNat Reg.dpllState 3 (by decide)
    have htold : Sourced d1 d3 := ((hholds.bump Reg.holdoverCount (by decide)).told (told_notice _ _ _)).trans (sourced_recTrigger 4 _)
    exact hnoted.trans (htold.trans (sourced_best d3))

end Dev

end Sys2Proof.Machine
end

