-- ==== Sys2Proof/Proofs/TimeAlignment.lean ====
section
/-! The anchors, the alignment and the start of the data path, the saved time, and the clock monitor (R324, R328, R349, R352). -/

namespace Sys2Proof.Machine

namespace Dev

variable {a b c d e : Dev}

/-! ### SN_ANCHOR (R324) -/

theorem snAnchor_due (h : d.Reaches (d.timerFrom 0x3800 + 1048576)) :
    ∃ n t, d.snAnchor = if d.alm.snMode then ((d.advance n).setTimer 0x3800 t).keepRecord
      (((d.advance n).setTimer 0x3800 t).frc, ((d.advance n).setTimer 0x3800 t).almNow, ((d.advance n).setTimer 0x3800 t).alm.inc)
      else (d.advance n).setTimer 0x3800 t := by
  obtain ⟨n, t, ht⟩ := onPeriod_acts (fun d => if d.alm.snMode then d.keepRecord (d.frc, d.almNow, d.alm.inc) else d) h
  refine ⟨n, t, ht.trans ?_⟩
  rw [setTimer_alm, advance_snMode]

theorem snAnchor_records (hs : d.alm.snMode = true) (h : d.Reaches (d.timerFrom 0x3800 + 1048576)) :
    d.snAnchor.alm.records = ((d.snAnchor.frc, d.snAnchor.almNow, d.snAnchor.alm.inc) :: d.alm.records).take 64 ∧
      d.snAnchor.alm.snMode = true ∧ d.snAnchor.regs = d.regs := by
  obtain ⟨n, t, ht⟩ := snAnchor_due h
  rw [ht, if_pos hs]
  refine ⟨?_, (advance_snMode n d).trans hs, advance_regs n d⟩
  exact congrArg (fun l => (_ :: l).take 64) (advance_records n d)

theorem snAnchor_frc (hs : d.alm.snMode = false) (h : d.Reaches (d.timerFrom 0x3800 + 1048576)) :
    d.snAnchor.alm.records = d.alm.records ∧ d.snAnchor.regs = d.regs := by
  obtain ⟨n, t, ht⟩ := snAnchor_due h
  rw [ht, if_neg (by simp [hs])]
  exact ⟨advance_records n d, advance_regs n d⟩

/-! ### SAVED_TIME_WRITE (Table 11-8) -/

theorem saveTime_due (ha : d.alm.aligned = true) (h : d.Reaches (d.timerFrom 0x380D + secCycles 1)) :
    d.saveTime.nat Reg.savedTime = d.saveTime.seconds ∧ KeepsRegs [Reg.savedTime.key] d d.saveTime := by
  obtain ⟨n, t, ht⟩ := onPeriod_acts (fun d => if d.alm.aligned then (d.setNat Reg.savedTime d.seconds).keep Reg.savedTime else d) h
  have haligned : ((d.advance n).setTimer 0x380D t).alm.aligned = true := (advance_aligned n d).trans ha
  have hsave := ht.trans (if_pos haligned)
  rw [show d.saveTime = _ from hsave]
  exact ⟨(nat_congr (keep_regs _ _ _ _) _ _ _).trans (nat_setNat_same _ _ _ _ _),
    (((KeepsRegs.refl _ d).of_regs (advance_regs n d)).setNat Reg.savedTime _ 0 0 (.head _)).of_regs (keep_regs _ _ _ _)⟩

/-! ### The boundary and the alignment at it (R328) -/

theorem alignBoundary_mod (d : Dev) : d.alignBoundary % 32 = 0 := by
  unfold alignBoundary
  dsimp only
  split <;> omega

theorem toFrc_snMode (d : Dev) : d.toFrc.alm.snMode = false := by
  unfold toFrc
  split
  next h => simpa using h
  next => rfl

/-- FRC mode at an alignment, but for TimeTestMode (R326). -/
def leaveSn (d : Dev) : Dev := if d.flag Reg.timeTestMode then d else d.toFrc

theorem leaveSn_snMode (d : Dev) : d.leaveSn.alm.snMode = (d.alm.snMode && d.flag Reg.timeTestMode) := by
  unfold leaveSn
  cases h : d.flag Reg.timeTestMode
  · rw [if_neg Bool.false_ne_true, toFrc_snMode, Bool.and_false]
  · rw [if_pos rfl, Bool.and_true]

/-- The record that the start of FRC mode leaves (R327). -/
def recorded (d : Dev) : Dev := if d.alm.snMode then d else d.keepRecord (d.frc, d.almNow, d.alm.inc)

@[simp] theorem recorded_aligned (d : Dev) : d.recorded.alm.aligned = d.alm.aligned := by unfold recorded; split <;> rfl
@[simp] theorem recorded_snMode (d : Dev) : d.recorded.alm.snMode = d.alm.snMode := by unfold recorded; split <;> rfl
@[simp] theorem recorded_msc (d : Dev) : d.recorded.msc = d.msc := by unfold recorded; split <;> rfl
@[simp] theorem recorded_tickAt (d : Dev) : d.recorded.tickAt = d.tickAt := by unfold recorded; split <;> rfl
@[simp] theorem recorded_clock (d : Dev) : d.recorded.clock = d.clock := by unfold recorded; split <;> rfl

/-- What an alignment leaves to be read: the boundary it took place at, and that it did. -/
theorem align_reads (d : Dev) : d.align.alm.aligned = true ∧ d.align.alm.snMode = (d.alm.snMode && d.flag Reg.timeTestMode) ∧
    d.align.msc = d.alignBoundary ∧ d.align.tickAt = d.align.clock ∧ d.align.flag Reg.mscAligned = true := by
  unfold align
  extract_lets b wait d1 d2 d3 d4
  have hmode : d2.alm.snMode = (d.alm.snMode && d.flag Reg.timeTestMode) := by
    rw [show d2 = d1.leaveSn from rfl, leaveSn_snMode, advance_snMode, advance_flag]
  rw [show (if d4.alm.snMode then d4 else d4.keepRecord (d4.frc, d4.almNow, d4.alm.inc)) = d4.recorded from rfl]
  refine ⟨?_, ?_, ?_, ?_, ?_⟩
  · rw [notice_alm, setFlag_alm, recorded_aligned]
    rfl
  · rw [notice_alm, setFlag_alm, recorded_snMode]
    exact hmode
  · rw [notice_msc, setFlag_msc, recorded_msc]
    rfl
  · rw [notice_tickAt, setFlag_tickAt, recorded_tickAt, notice_clock, setFlag_clock, recorded_clock]
    rfl
  · rw [notice_flag _ _ _ _ _ (by decide), flag_setFlag_same]

/-! ### The start of the data path leaves the time it starts at (R593) -/

/-- `e` stands at the moment of `d`: its clock, Almanac and media count, and MscAligned. -/
structure SameTime (d e : Dev) : Prop where
  clock : e.clock = d.clock
  alm : e.alm = d.alm
  msc : e.msc = d.msc
  tickAt : e.tickAt = d.tickAt
  shown : nget? e.regs Reg.mscAligned.key = nget? d.regs Reg.mscAligned.key

namespace SameTime

theorem refl (d : Dev) : SameTime d d := ⟨rfl, rfl, rfl, rfl, rfl⟩

theorem trans (h : SameTime a b) (h' : SameTime b c) : SameTime a c :=
  ⟨h'.clock.trans h.clock, h'.alm.trans h.alm, h'.msc.trans h.msc, h'.tickAt.trans h.tickAt, h'.shown.trans h.shown⟩

theorem told (h : SameTime a b) (ht : Told b c) : SameTime a c := h.trans ⟨ht.clock, ht.alm, ht.msc, ht.tickAt, ht.regs _ (by decide)⟩

theorem of_eq (h : SameTime a b) (hc : c.clock = b.clock) (ha : c.alm = b.alm) (hm : c.msc = b.msc) (ht : c.tickAt = b.tickAt) (hr : c.regs = b.regs) :
    SameTime a c := h.trans ⟨hc, ha, hm, ht, by rw [hr]⟩

theorem setVal (h : SameTime a b) (r : Row) (v : Val) (i j : Nat) (hk : r.key i j ≠ Reg.mscAligned.key) : SameTime a (b.setVal r v i j) :=
  h.trans ⟨rfl, rfl, rfl, rfl, nget?_nset_ne _ _ _ hk.symm⟩

theorem setNat (h : SameTime a b) (r : Row) (v i j : Nat) (hk : r.key i j ≠ Reg.mscAligned.key) : SameTime a (b.setNat r v i j) := h.setVal r _ i j hk

theorem setInt (h : SameTime a b) (r : Row) (v : Int) (i j : Nat) (hk : r.key i j ≠ Reg.mscAligned.key) : SameTime a (b.setInt r v i j) := h.setVal r _ i j hk

theorem foldl {α : Type} {f : Dev → α → Dev} (hf : ∀ e x, SameTime e (f e x)) (l : List α) (d : Dev) : SameTime d (l.foldl f d) :=
  List.foldlRecOn l f (refl d) fun e he x _ => he.trans (hf e x)

theorem flag (h : SameTime d e) : e.flag Reg.mscAligned = d.flag Reg.mscAligned := by
  have hnat : e.nat Reg.mscAligned = d.nat Reg.mscAligned := by simp only [Dev.nat, Dev.int, Dev.val, nget, h.shown]
  simp only [Dev.flag, hnat]

end SameTime

theorem tdmShow_sameTime (p : Nat) (tell : Bool) (d : Dev) : SameTime d (d.tdmShow p tell) := by
  unfold tdmShow
  extract_lets t slave s st ratio e
  have he : SameTime d e := ((SameTime.refl d).setNat Reg.tdmOutState st p 0 (by simp only [tdmOutState_key, mscAligned_key]; omega)).setNat
    Reg.tdmOutRatio ratio p 0 (by simp only [tdmOutRatio_key, mscAligned_key]; omega)
  split
  · exact he.told (told_notice _ _ _)
  · exact he

theorem setTdm_sameTime (p : Nat) (f : TdmPort → TdmPort) (d : Dev) : SameTime d (d.setTdm p f) := ⟨rfl, rfl, rfl, rfl, rfl⟩

theorem tdmRealign_sameTime (d : Dev) : SameTime d d.tdmRealign := by
  unfold tdmRealign
  exact SameTime.foldl (fun e p => (setTdm_sameTime p _ e).trans (tdmShow_sameTime p false _)) _ d

theorem setConv_sameTime (c : Nat) (f : ConvChan → ConvChan) (d : Dev) : SameTime d (d.setConv c f) := by
  have hpool (p : Pool) : SameTime d { d with pool := p } := (SameTime.refl d).of_eq rfl rfl rfl rfl rfl
  exact (hpool _).setNat Reg.convState _ c 0 (by simp only [convState_key, mscAligned_key]; omega)

theorem convAssign_sameTime (date c : Nat) (d : Dev) : SameTime d (d.convAssign date c) := by
  unfold convAssign
  extract_lets m d1 ratio d2 d3 pool d4
  have h1 : SameTime d d1 :=
    (((SameTime.refl d).setNat Reg.convMode m.1 c 0 (by simp only [convMode_key, mscAligned_key]; omega)).setNat Reg.convNominalRate m.2.1 c 0
      (by simp only [convNominalRate_key, mscAligned_key]; omega)).setNat Reg.convDelay m.2.2 c 0 (by simp only [convDelay_key, mscAligned_key]; omega)
  have h2 : SameTime d1 d2 :=
    (((SameTime.refl d1).setNat Reg.convRatio ratio c 0 (by simp only [convRatio_key, mscAligned_key]; omega)).setInt Reg.convPhaseError 0 c 0
      (by simp only [convPhaseError_key, mscAligned_key]; omega)).setNat Reg.convMeasuredRate _ c 0 (by simp only [convMeasuredRate_key, mscAligned_key]; omega)
  have h3 : SameTime d2 d3 := setConv_sameTime c _ d2
  have h4 : SameTime d3 d4 := (SameTime.refl d3).of_eq rfl rfl rfl rfl rfl
  exact (h1.trans (h2.trans (h3.trans h4))).setNat Reg.convInUse _ 0 0 (by decide)

theorem convStart_sameTime (date : Nat) (d : Dev) : SameTime d (d.convStart date) := by
  have hpool (p : Pool) : SameTime d { d with pool := p } := (SameTime.refl d).of_eq rfl rfl rfl rfl rfl
  unfold convStart
  exact (hpool _).trans (SameTime.foldl (fun e c => convAssign_sameTime date c e) _ _)

theorem remap_sameTime (date : Nat) (d : Dev) : SameTime d (d.remap date (fun _ => false) fun _ => false) := by
  unfold remap
  extract_lets new slots x e
  have he : SameTime d e := SameTime.foldl (fun g y => by
    dsimp only
    split
    · exact .refl g
    · rw [if_neg (by decide)]
      exact (SameTime.refl g).of_eq rfl rfl rfl rfl rfl) _ d
  exact he.of_eq rfl rfl rfl rfl rfl

theorem startLanes_sameTime (d : Dev) : SameTime d d.startLanes := ⟨rfl, rfl, rfl, rfl, rfl⟩

theorem recStart_sameTime (tick : Nat) (d : Dev) : SameTime d (d.recStart tick) := by
  have hring (r : Recorder) : SameTime d { d with recd := r } := (SameTime.refl d).of_eq rfl rfl rfl rfl rfl
  exact ((hring _).setNat Reg.recorderState 1 0 0 (by decide)).setNat Reg.recorderOldest tick 0 0 (by decide)

theorem recEnable_sameTime (runs : Bool) (tick : Nat) (d : Dev) : SameTime d (d.recEnable runs tick) := by
  have hoff : SameTime d (d.setNat Reg.recorderState 0) := (SameTime.refl d).setNat _ _ _ _ (by decide)
  unfold recEnable
  dsimp only
  split
  · exact .refl d
  · split
    · split
      · exact recStart_sameTime tick d
      · exact .refl d
    · exact hoff.of_eq rfl rfl rfl rfl rfl

/-- A power state changed is the stage and its moment noted, and then told. -/
theorem setPower_tells (st : PowerState) (d : Dev) : ∃ p s, p.state = st ∧ Told { d with power := p, sec := s } (d.setPower st) := by
  unfold setPower
  dsimp only
  split
  next h => exact ⟨d.power, d.sec, h, .refl d⟩
  next =>
    split
    · exact ⟨{ d.power with state := st }, _, rfl, told_notice _ _ _⟩
    · split
      · exact ⟨{ d.power with state := st }, _, rfl, told_notice _ _ _⟩
      · exact ⟨{ d.power with state := st }, _, rfl, told_notice _ _ _⟩

theorem setPower_state (st : PowerState) (d : Dev) : (d.setPower st).power.state = st := by
  obtain ⟨p, s, hp, ht⟩ := setPower_tells st d
  rw [ht.power]
  exact hp

theorem setPower_sameTime (st : PowerState) (d : Dev) : SameTime d (d.setPower st) := by
  obtain ⟨p, s, -, ht⟩ := setPower_tells st d
  have hstage : SameTime d { d with power := p, sec := s } := (SameTime.refl d).of_eq rfl rfl rfl rfl rfl
  exact hstage.told ht

/-- The data path started is READY at the moment it found. -/
theorem startPath_reads (d : Dev) : SameTime d d.startPath ∧ d.startPath.power.state = .ready := by
  unfold startPath
  extract_lets b geo d1 d2 d3
  have hgeo : SameTime d d1 := (SameTime.refl d).of_eq rfl rfl rfl rfl rfl
  have hlaid := hgeo.trans ((tdmRealign_sameTime d1).trans ((convStart_sameTime b _).trans ((remap_sameTime b _).trans (startLanes_sameTime _))))
  have hrec : SameTime d d3 := hlaid.trans ((setPower_sameTime .ready _).trans (recEnable_sameTime true b d2))
  have hready : d3.power.state = .ready := by simp only [d3, d2, recEnable_power, setPower_state]
  split
  · refine ⟨hrec.setNat Reg.startupTime _ 0 0 (by decide), ?_⟩
    rw [setNat_power, hready]
  · exact ⟨hrec, hready⟩

/-- An alignment and the start of the path at it. -/
theorem aligned_reads (d : Dev) : d.align.startPath.alm.aligned = true ∧
    d.align.startPath.alm.snMode = (d.alm.snMode && d.flag Reg.timeTestMode) ∧ d.align.startPath.msc = d.alignBoundary ∧
    d.align.startPath.msc % 32 = 0 ∧ d.align.startPath.tickAt = d.align.startPath.clock ∧ d.align.startPath.power.state = .ready ∧
    d.align.startPath.flag Reg.mscAligned = true := by
  obtain ⟨haligned, hmode, hmsc, htick, hflag⟩ := align_reads d
  obtain ⟨hsame, hready⟩ := startPath_reads d.align
  refine ⟨?_, ?_, hsame.msc.trans hmsc, ?_, ?_, hready, hsame.flag.trans hflag⟩
  · rw [hsame.alm, haligned]
  · rw [hsame.alm, hmode]
  · rw [hsame.msc, hmsc, alignBoundary_mod]
  · rw [hsame.tickAt, hsame.clock, htick]

/-! ### MSC_ALIGN and ALIGN_TIMEOUT (R328) -/

theorem mscAlign_open (ho : d.alignOpen = true) (hm : d.mayAlign = true) : d.mscAlign = d.align.startPath := if_pos (by rw [ho, hm]; rfl)

theorem mscAlign_shut (h : d.alignOpen = false ∨ d.mayAlign = false) : d.mscAlign = d :=
  if_neg (by obtain h | h := h <;> simp [h])

theorem alignTimeout_shut (h : d.alignOpen = false) : d.alignTimeout = d := if_pos (by simp [h])

/-- While alignment is open the module is unaligned, so that its time-out is within reach. -/
theorem alignTimeout_open (h : d.alignOpen = true) :
    d.alignTimeout = (d.advanceTo (d.power.bootAt + msCycles (d.nat Reg.alignTimeout))).align.startPath := by
  have hunaligned : d.alm.aligned = false := by
    simp only [alignOpen, Bool.and_eq_true, Bool.not_eq_true'] at h
    exact h.2
  rw [alignTimeout, if_neg (by simp [h]), onDue_eq _ _ _ (reaches_unaligned hunaligned _)]

/-! ### FAULT (R31, R558) -/

theorem bump_perturb (d : Dev) (r : Row) (i n : Nat) : (d.bump r i n).perturb = d.perturb := (congrArg Dev.perturb (untold_bump d d r i n) :)

theorem sendCell_perturb (k : Nat) (type : CellType) (dest arg : Nat) (payload : Octets) (settled : Bool) (hops : Nat) (src : Option Nat) (d : Dev) :
    (d.sendCell k type dest arg payload settled hops src).perturb = d.perturb := by
  unfold sendCell
  split
  · rfl
  · dsimp only
    split
    · rw [bump_perturb, setDlink_perturb]
    · rfl

theorem setPairState_perturb (st : Nat) (d : Dev) : (d.setPairState st).perturb = d.perturb := by
  unfold setPairState
  split
  · rfl
  · rw [notice_perturb, setNat_perturb]

theorem setIlkOut_perturb (level : Bool) (d : Dev) : (d.setIlkOut level).perturb = d.perturb := by
  unfold setIlkOut
  split
  · rfl
  · dsimp only
    split <;> rfl

/-- Giving up the lead injects nothing and takes no injection back. -/
theorem releaseLead_perturb (d : Dev) : d.releaseLead.perturb = d.perturb := by
  have htold : (if d.pair.lead then d.tellPartner 3 [] else d).perturb = d.perturb := by
    unfold tellPartner
    split
    · split
      · rfl
      · exact sendCell_perturb _ _ _ _ _ _ _ _ _
    · rfl
  unfold releaseLead
  extract_lets d1 d2
  have h2 : d2.perturb = d.perturb := by rw [← htold]; exact setIlkOut_perturb false d1
  clear_value d2
  split
  · rfl
  · split
    · rw [setPairState_perturb, h2]
    · exact h2

/-- The entry to FAULT with a cause already stored: the state, the recorder's cause, the notice and the record. -/
def faultTold (cause : Nat) (d : Dev) : Dev := (((d.setPower .fault).recTrigger 2).notice 0x2002 cause).logFault 0x2002 cause

theorem faultTold_reads (cause : Nat) (d : Dev) : (d.faultTold cause).power.state = .fault ∧ KeepsRegs triggerKeys d (d.faultTold cause) ∧
    (d.faultTold cause).perturb = d.perturb := by
  have htold : Told ((d.setPower .fault).recTrigger 2) (d.faultTold cause) := (told_notice _ _ _).trans (told_logFault _ _ _)
  obtain ⟨stage, sec, -, hset⟩ := setPower_tells .fault d
  refine ⟨?_, ?_, ?_⟩
  · rw [htold.power, recTrigger_power, setPower_state]
  · have hpower : KeepsRegs triggerKeys d (d.setPower .fault) := fun k _ hk => hset.regs k hk
    exact (hpower.trans (recTrigger_keepsRegs 2 _)).told htold
  · rw [htold.perturb, recTrigger_perturb, hset.perturb]

/-- A fault's cause stored, its moment noted, and the path's stop called for. -/
def faultNoted (cause : Nat) (d : Dev) : Dev :=
  ((d.setNat Reg.faultCause cause).keep Reg.faultCause).setStage fun p => { p with faultAt := d.clock, stopDue := p.stopDue || p.state.runs }

theorem faultNoted_cause (cause : Nat) (d : Dev) : (d.faultNoted cause).nat Reg.faultCause = cause := by
  rw [faultNoted, nat_congr (setStage_regs _ _), nat_congr (keep_regs _ _ _ _), nat_setNat_same]

/-- A module that answers and is in no FAULT yet gives up its lead and enters it. -/
theorem enterFault_eq {cls detail cause : Nat} (hc : cls * 2 ^ 24 + detail % 65536 = cause) (ha : d.answers = true) (hf : d.power.state ≠ .fault)
    (hb : d.power.state ≠ .boot) : d.enterFault cls detail = (d.releaseLead.faultNoted cause).faultTold cause := by
  unfold enterFault
  rw [hc]
  dsimp only
  rw [if_neg hb, if_neg (by simp [hf, answers_state ha])]
  rfl

theorem enterFault_reads {cls detail cause : Nat} (hc : cls * 2 ^ 24 + detail % 65536 = cause) (ha : d.answers = true) (hf : d.power.state ≠ .fault)
    (hb : d.power.state ≠ .boot) : (d.enterFault cls detail).power.state = .fault ∧ (d.enterFault cls detail).nat Reg.faultCause = cause ∧
      (d.enterFault cls detail).perturb = d.perturb := by
  rw [enterFault_eq hc ha hf hb]
  obtain ⟨hstate, hregs, hperturb⟩ := faultTold_reads cause (d.releaseLead.faultNoted cause)
  refine ⟨hstate, ?_, hperturb.trans (releaseLead_perturb d)⟩
  rw [hregs.nat _ _ _ (by decide) (by decide), faultNoted_cause]

/-! ### CLOCK_MONITOR_INTERVAL (R352, R558) -/

theorem setPerturb_idle (h : d.perturb.clockTrip = false) : (d.setPerturb fun p => { p with clockTrip := false }) = d := by
  unfold setPerturb
  rw [← h]

theorem clockMonitor_within {ppm : Int} (hp : ppm.natAbs ≤ 150) (h : d.perturb.clockTrip = false) : d.clockMonitor ppm = d := by
  unfold clockMonitor
  dsimp only
  rw [setPerturb_idle h, h, if_neg Bool.false_ne_true, if_pos hp]

/-- A trip of the monitor, perturbed or measured. -/
theorem clockMonitor_trips {ppm : Int} (h : d.perturb.clockTrip = true ∨ 150 < ppm.natAbs) :
    d.clockMonitor ppm = ((d.setPerturb fun p => { p with clockTrip := false }).notice 0x380C 3).enterFault 3 3 := by
  have hbeyond : ¬ (if d.perturb.clockTrip then 200 else ppm).natAbs ≤ 150 := by
    split
    · decide
    · simp_all
  exact if_neg hbeyond

theorem clockMonitor_faults {ppm : Int} (ha : d.answers = true) (h : d.perturb.clockTrip = true ∨ 150 < ppm.natAbs) (hf : d.power.state ≠ .fault)
    (hb : d.power.state ≠ .boot) : (d.clockMonitor ppm).power.state = .fault ∧ (d.clockMonitor ppm).nat Reg.faultCause = 0x03000003 ∧
      (d.clockMonitor ppm).perturb.clockTrip = false := by
  have hpower : ((d.setPerturb fun p => { p with clockTrip := false }).notice 0x380C 3).power = d.power := notice_power _ _ _
  obtain ⟨hstate, hcause, hperturb⟩ := enterFault_reads (cls := 3) (detail := 3) (cause := 0x03000003)
    (d := (d.setPerturb fun p => { p with clockTrip := false }).notice 0x380C 3) (by decide) (by rw [answers, live, hpower]; exact ha) (by rw [hpower]; exact hf) (by rw [hpower]; exact hb)
  rw [clockMonitor_trips h]
  exact ⟨hstate, hcause, by rw [hperturb, notice_perturb]; rfl⟩

end Dev

theorem exec_snAnchor (s : State) : exec .snAnchor s = s.run (Dev.whenUp Dev.snAnchor) := rfl

theorem exec_mscAlign (s : State) : exec .mscAlign s = s.run (Dev.whenUp Dev.mscAlign) := rfl

theorem exec_alignTimeout (s : State) : exec .alignTimeout s = s.run (Dev.whenUp Dev.alignTimeout) := rfl

theorem exec_savedTimeWrite (s : State) : exec .savedTimeWrite s = s.run (Dev.whenUp Dev.saveTime) := rfl

theorem exec_clockMonitorInterval (ppm : Int) (s : State) : exec (.clockMonitorInterval ppm) s = s.run (Dev.whenUp (Dev.clockMonitor ppm)) := rfl

/-- Settles O36: each event by the condition it acts under, and what it leaves where that does not hold. -/
theorem timeAlignment : Obligations.TimeAlignment := by
  unfold Obligations.TimeAlignment
  intro s ha
  refine ⟨fun hs hd => ?_, fun ho hm => ?_, fun h => ?_, fun h => ?_, fun hs hd => ?_, fun ho => ?_, fun hal hd => ?_, fun ppm hp ht => ?_,
    fun ppm hp _ hf hb => ?_, fun ppm ht hf hb => ?_⟩
  · exact up_completes (exec_snAnchor s) ha (Dev.snAnchor_records hs hd)
  · refine up_completes (exec_mscAlign s) ha ?_
    rw [Dev.mscAlign_open ho hm]
    exact Dev.aligned_reads _
  · exact up_completes (exec_mscAlign s) ha (Dev.mscAlign_shut h)
  · exact up_completes (exec_alignTimeout s) ha (Dev.alignTimeout_shut h)
  · exact up_completes (exec_snAnchor s) ha (Dev.snAnchor_frc hs hd)
  · refine up_completes (exec_alignTimeout s) ha ?_
    rw [Dev.alignTimeout_open ho]
    obtain ⟨haligned, hmode, -, hmsc, -, hready, hflag⟩ := Dev.aligned_reads (s.dev.advanceTo (s.dev.power.bootAt + Dev.msCycles (s.dev.nat Reg.alignTimeout)))
    rw [Dev.advanceTo_snMode, Dev.advanceTo_flag] at hmode
    exact ⟨haligned, hmode, hmsc, hready, hflag⟩
  · exact up_completes (exec_savedTimeWrite s) ha (Dev.saveTime_due hal hd)
  · exact up_completes (exec_clockMonitorInterval ppm s) ha (Dev.clockMonitor_within hp ht)
  · obtain ⟨hstate, hcause, -⟩ := Dev.clockMonitor_faults ha (.inr hp) hf hb
    exact up_completes (exec_clockMonitorInterval ppm s) ha ⟨hstate, hcause⟩
  · exact up_completes (exec_clockMonitorInterval ppm s) ha (Dev.clockMonitor_faults ha (.inl ht) hf hb)

end Sys2Proof.Machine
end

