-- ==== Sys2Proof/Proofs/ClockInputs.lean ====
section
/-! The checkers of the clock inputs, the return to a higher-ranked source and the lock of the root DPLL (R333, R335, R338, R339). -/

namespace Sys2Proof.Machine

namespace Dev

variable {i frac l m : Nat} {d e : Dev}

/-! ### The entries of an input -/

/-- The rows of the inputs' own entries. -/
def inputRow (r : Row) : Bool := r.base == 0x3820 && decide (r.sub < 0x100)

theorem inputRow_key {r : Row} (h : inputRow r = true) (i : Nat) : r.key i = (0x3820 + i) * 256 + r.sub ∧ r.sub < 0x100 := by
  simp only [inputRow, Bool.and_eq_true, beq_iff_eq, decide_eq_true_eq] at h
  exact ⟨by rw [Row.key, entryKey, h.1, Nat.add_zero], h.2⟩

theorem inputKey_untold {r : Row} (h : inputRow r = true) (hi : i < 4) : r.key i ∉ tellKeys := by
  have := inputRow_key h i
  simp only [tellKeys, List.mem_cons, List.not_mem_nil, or_false]
  omega

/-- Two entries of an input are told apart by their sub-indices. -/
theorem inputKey_ne {r r' : Row} (h : inputRow r = true) (h' : inputRow r' = true) (hs : r.sub ≠ r'.sub) : r.key i ≠ r'.key i := by
  have := inputRow_key h i
  have := inputRow_key h' i
  omega

theorem Sourced.inputNat (h : Sourced d e) {r : Row} (hr : inputRow r = true) (hi : i < 4) : e.nat r i = d.nat r i := by
  have := inputRow_key hr i
  exact h.nat (by omega)

theorem Told.inputNat (h : Told d e) {r : Row} (hr : inputRow r = true) (hi : i < 4) : e.nat r i = d.nat r i := h.nat r i 0 (inputKey_untold hr hi)

/-! ### InputState -/

/-- The code of InputState (Table 11-8). -/
def inputCode (enabled : Bool) (c : ClockInput) : Nat := if !enabled then 0 else if c.lost then 1 else if c.qualified then 3 else 2

theorem showInput_state (i : Nat) (d : Dev) : (d.showInput i).nat Reg.inputState i = inputCode (d.flag Reg.inputEnable i) (d.input i) :=
  nat_setNat_same _ _ _ _ _

theorem showInput_keepsRegs (i : Nat) (d : Dev) : KeepsRegs [Reg.inputState.key i] d (d.showInput i) := (KeepsRegs.refl _ d).setNat _ _ _ _ (.head _)

/-- A checker changed and shown. -/
def shown (i : Nat) (f : ClockInput → ClockInput) (d : Dev) : Dev := (d.setInput i f).showInput i

theorem shown_input (hi : i < 4) (f : ClockInput → ClockInput) (d : Dev) : (d.shown i f).input i = f (d.input i) := setInput_input_same d i f hi

theorem shown_state (hi : i < 4) (f : ClockInput → ClockInput) (d : Dev) :
    (d.shown i f).nat Reg.inputState i = inputCode (d.flag Reg.inputEnable i) (f (d.input i)) := by
  rw [shown, showInput_state, setInput_input_same d i f hi]
  rfl

theorem shown_keepsRegs (i : Nat) (f : ClockInput → ClockInput) (d : Dev) : KeepsRegs [Reg.inputState.key i] d (d.shown i f) :=
  ((KeepsRegs.refl _ d).of_regs (c := d.setInput i f) rfl).trans (showInput_keepsRegs i _)

/-! ### INPUT_EDGE (R338, R339) -/

/-- An edge of an input that is not enabled goes unseen. -/
theorem inputEdge_disabled (h : d.flag Reg.inputEnable i = false) : d.inputEdge i frac = d := if_pos (.inr (by simp [h]))

/-- The checker as the first edge after a loss leaves it. -/
def firstEdge (t : Nat) (d : Dev) (_ : ClockInput) : ClockInput := { resetInput with lastEdge := some t, edges := [t], lost := false, since := d.clock }

theorem inputEdge_first (hi : i < 4) (hen : d.flag Reg.inputEnable i = true) (hlost : (d.input i).lost = true) :
    d.inputEdge i frac = d.shown i (firstEdge (d.frc + frac % 16) d) := by
  unfold inputEdge
  rw [if_neg (by simp [hen]; omega)]
  extract_lets t c p
  split
  next h => exact absurd (hlost.symm.trans h) (by decide)
  next => rfl

theorem inputEdge_starts (hi : i < 4) (hen : d.flag Reg.inputEnable i = true) (hlost : (d.input i).lost = true) :
    ((d.inputEdge i frac).input i).lastEdge = some (d.frc + frac % 16) ∧ ((d.inputEdge i frac).input i).lost = false ∧
      ((d.inputEdge i frac).input i).qualified = false ∧ (d.inputEdge i frac).nat Reg.inputState i = 2 ∧
      KeepsRegs [Reg.inputState.key i] d (d.inputEdge i frac) := by
  rw [inputEdge_first hi hen hlost, shown_input hi, shown_state hi, hen]
  exact ⟨rfl, rfl, rfl, rfl, shown_keepsRegs _ _ _⟩

/-- A glitch restarts the qualification of an unqualified input. -/
def glitched (i : Nat) (d : Dev) : Dev := if (d.input i).qualified then d else d.setInput i fun c => { c with since := d.clock }

theorem glitched_regs (i : Nat) (d : Dev) : (d.glitched i).regs = d.regs := by unfold glitched; split <;> rfl

theorem glitched_lastEdge (hi : i < 4) (d : Dev) : ((d.glitched i).input i).lastEdge = (d.input i).lastEdge := by
  unfold glitched
  split
  · rfl
  · rw [setInput_input_same _ _ _ hi]

theorem inputEdge_glitch (hi : i < 4) (hen : d.flag Reg.inputEnable i = true) (hlost : (d.input i).lost = false) (hl : (d.input i).lastEdge = some l)
    (hm : m = max 1 ((2 * ((d.frc + frac % 16 - l) * d.inputRate i) + 786432000 * 16) / (2 * (786432000 * 16))))
    (hoff : 3 * m * (786432000 * 16) < ((((d.frc + frac % 16 - l) * d.inputRate i : Nat) : Int) - (m * (786432000 * 16) : Nat)).natAbs * 100) :
    d.inputEdge i frac = ((d.glitched i).bump Reg.inputGlitches i).noticeOnce (0x380300 + i) 0x3803 i := by
  unfold inputEdge
  rw [if_neg (by simp [hen]; omega)]
  extract_lets t c p
  split
  next l' hl' _ =>
    obtain rfl : l = l' := Option.some.inj (hl.symm.trans hl')
    extract_lets dist m' d1
    have hm' : m' = m := hm.symm
    rw [if_pos]
    · rfl
    · rw [hm']
      push_cast at hoff ⊢
      exact hoff
  next h => exact absurd hlost (h l hl)

theorem inputEdge_counts (hi : i < 4) (hen : d.flag Reg.inputEnable i = true) (hlost : (d.input i).lost = false) (hl : (d.input i).lastEdge = some l)
    (hm : m = max 1 ((2 * ((d.frc + frac % 16 - l) * d.inputRate i) + 786432000 * 16) / (2 * (786432000 * 16))))
    (hoff : 3 * m * (786432000 * 16) < ((((d.frc + frac % 16 - l) * d.inputRate i : Nat) : Int) - (m * (786432000 * 16) : Nat)).natAbs * 100) :
    (d.inputEdge i frac).nat Reg.inputGlitches i = (d.nat Reg.inputGlitches i + 1) % 2 ^ 32 ∧ ((d.inputEdge i frac).input i).lastEdge = some l ∧
      KeepsRegs [Reg.inputGlitches.key i] d (d.inputEdge i frac) := by
  rw [inputEdge_glitch hi hen hlost hl hm hoff]
  have htold := told_noticeOnce (0x380300 + i) 0x3803 i ((d.glitched i).bump Reg.inputGlitches i)
  refine ⟨?_, ?_, (((KeepsRegs.refl _ d).of_regs (glitched_regs i d)).bump Reg.inputGlitches i 1 (.head _)).told htold⟩
  · rw [htold.inputNat rfl hi, nat_bump_same, nat_congr (glitched_regs i d)]
    rfl
  · rw [input_congr (congrArg Almanac.inputs htold.alm), input_congr (congrArg Almanac.inputs (bump_alm _ _ _ _)), glitched_lastEdge hi, hl]

/-! ### INPUT_LOSS (R338) -/

/-- The checker as the loss of its qualification leaves it. -/
def unqualified (d : Dev) (c : ClockInput) : ClockInput := { c with qualified := false, since := d.clock }

/-- A qualification lost is shown, and the root may follow another source. -/
theorem disqualify_sourced (i : Nat) (d : Dev) : Sourced (d.shown i (unqualified d)) (d.disqualify i) := by
  unfold disqualify
  dsimp only
  split
  · exact sourced_sourceLost _ _
  · exact .refl _

theorem disqualify_input (hi : i < 4) (d : Dev) : (d.disqualify i).input i = unqualified d (d.input i) :=
  (input_congr (disqualify_sourced i d).inputs i).trans (shown_input hi _ d)

theorem disqualify_nat (hi : i < 4) {r : Row} (hr : inputRow r = true) (hs : r.sub ≠ Reg.inputState.sub) (d : Dev) : (d.disqualify i).nat r i = d.nat r i := by
  rw [(disqualify_sourced i d).inputNat hr hi]
  exact (shown_keepsRegs i _ d).nat r i 0 (by simpa using inputKey_ne hr rfl hs) (inputKey_untold hr hi)

theorem disqualify_flag (hi : i < 4) {r : Row} (hr : inputRow r = true) (hs : r.sub ≠ Reg.inputState.sub) (d : Dev) : (d.disqualify i).flag r i = d.flag r i := by
  rw [flag, disqualify_nat hi hr hs, flag]

/-- The checker as the loss of its input leaves it. -/
def silent (c : ClockInput) : ClockInput := { c with lost := true, periods := [], edges := [] }

/-- A loss counted and told. -/
def lossTold (i : Nat) (d : Dev) : Dev := (d.bump Reg.inputLosses i).notice 0x3804 i

theorem inputLoss_due (hl : (d.input i).lastEdge = some l) (hlost : (d.input i).lost = false)
    (hr : d.Reaches (d.frcBase + l / 16 + 206 * 786432000 / (100 * d.inputRate i))) :
    d.inputLoss i = (((d.advanceTo (d.frcBase + l / 16 + 206 * 786432000 / (100 * d.inputRate i))).lossTold i).disqualify i).shown i silent := by
  unfold inputLoss
  split
  next l' hl' _ =>
    obtain rfl : l = l' := Option.some.inj (hl.symm.trans hl')
    rw [onDue_eq _ _ _ hr]
    rfl
  next h => exact absurd hlost (h l hl)

theorem lossTold_reads (hi : i < 4) (d : Dev) : (d.lossTold i).flag Reg.inputEnable i = d.flag Reg.inputEnable i ∧
    (d.lossTold i).nat Reg.inputLosses i = (d.nat Reg.inputLosses i + 1) % 2 ^ 32 := by
  have htold : Told (d.bump Reg.inputLosses i) (d.lossTold i) := told_notice 0x3804 i _
  refine ⟨?_, ?_⟩
  · rw [htold.flag _ _ (inputKey_untold rfl hi), flag, flag, nat_bump_ne _ _ _ _ _ _ _ (inputKey_ne rfl rfl (by decide))]
  · rw [htold.inputNat rfl hi, nat_bump_same]
    rfl

theorem inputLoss_reads (hi : i < 4) (hl : (d.input i).lastEdge = some l) (hlost : (d.input i).lost = false) (hen : d.flag Reg.inputEnable i = true)
    (hr : d.Reaches (d.frcBase + l / 16 + 206 * 786432000 / (100 * d.inputRate i))) :
    ((d.inputLoss i).input i).lost = true ∧ ((d.inputLoss i).input i).qualified = false ∧ (d.inputLoss i).nat Reg.inputState i = 1 ∧
      (d.inputLoss i).nat Reg.inputLosses i = (d.nat Reg.inputLosses i + 1) % 2 ^ 32 := by
  rw [inputLoss_due hl hlost hr]
  generalize d.frcBase + l / 16 + 206 * 786432000 / (100 * d.inputRate i) = due
  obtain ⟨henable, hcount⟩ := lossTold_reads hi (d.advanceTo due)
  rw [advanceTo_flag, hen] at henable
  rw [advanceTo_nat] at hcount
  generalize (d.advanceTo due).lossTold i = e at henable hcount
  have hunqualified : ((e.disqualify i).input i).qualified = false := by rw [disqualify_input hi]; rfl
  rw [shown_input hi, shown_state hi, disqualify_flag hi rfl (by decide), henable]
  refine ⟨rfl, hunqualified, rfl, ?_⟩
  rw [(shown_keepsRegs i _ _).nat _ i 0 (by simpa using inputKey_ne rfl rfl (by decide)) (inputKey_untold rfl hi),
    disqualify_nat hi rfl (by decide), hcount]

/-! ### INPUT_QUALIFY (R338) -/

/-- The rate that an input must show within 100 ppm, in 0.001 Hz, or in 0.001 mHz for PPS_IN. -/
def wantedRate (d : Dev) (i : Nat) : Nat := d.inputRate i * 1000 * (if i = 3 then 1000 else 1)

/-- An input qualified, told, and offered to the root. -/
def qualify (i : Nat) (d : Dev) : Dev := ((d.shown i fun c => { c with qualified := true }).notice 0x3806 i).sourceGained (inputSource i)

theorem advanceTo_wantedRate (t i : Nat) (d : Dev) : (d.advanceTo t).wantedRate i = d.wantedRate i := by
  simp only [wantedRate, inputRate, advanceTo_nat]

theorem inputQualify_due (hen : d.flag Reg.inputEnable i = true) (hlost : (d.input i).lost = false) (hq : (d.input i).qualified = false)
    (hr : d.Reaches ((d.input i).since + msCycles (d.nat Reg.qualifyTime i))) :
    ∃ t, d.inputQualify i = if (((d.nat Reg.inputMeasuredRate i : Nat) : Int) - (d.wantedRate i : Nat)).natAbs * 10000 > d.wantedRate i
      then d.advanceTo t else (d.advanceTo t).qualify i := by
  refine ⟨(d.input i).since + msCycles (d.nat Reg.qualifyTime i), ?_⟩
  unfold inputQualify
  extract_lets c
  rw [if_neg (by simp [hen, c, hlost, hq]), onDue_eq _ _ _ hr]
  generalize (d.input i).since + msCycles (d.nat Reg.qualifyTime i) = t
  rw [← advanceTo_wantedRate t i d, ← advanceTo_nat t d Reg.inputMeasuredRate i 0]
  rfl

theorem qualify_reads (hi : i < 4) (hen : d.flag Reg.inputEnable i = true) (hlost : (d.input i).lost = false) :
    ((d.qualify i).input i).qualified = true ∧ (d.qualify i).nat Reg.inputState i = 3 := by
  have htold := told_notice 0x3806 i (d.shown i fun c => { c with qualified := true })
  have hgained : Sourced (d.shown i fun c => { c with qualified := true }) (d.qualify i) := (((Sourced.refl _).told htold).trans (sourced_sourceGained _ _))
  refine ⟨?_, ?_⟩
  · rw [input_congr hgained.inputs, shown_input hi]
  · rw [hgained.inputNat rfl hi, shown_state hi, hen]
    simp [inputCode, hlost]

theorem inputQualify_within (hi : i < 4) (hen : d.flag Reg.inputEnable i = true) (hlost : (d.input i).lost = false) (hq : (d.input i).qualified = false)
    (hr : d.Reaches ((d.input i).since + msCycles (d.nat Reg.qualifyTime i)))
    (hw : (((d.nat Reg.inputMeasuredRate i : Nat) : Int) - (d.wantedRate i : Nat)).natAbs * 10000 ≤ d.wantedRate i) :
    ((d.inputQualify i).input i).qualified = true ∧ (d.inputQualify i).nat Reg.inputState i = 3 := by
  obtain ⟨t, ht⟩ := inputQualify_due hen hlost hq hr
  rw [ht, if_neg (Nat.not_lt.2 hw)]
  exact qualify_reads hi ((advanceTo_flag _ _ _ _).trans hen) ((congrArg ClockInput.lost (advanceTo_input _ _ _)).trans hlost)

theorem inputQualify_beyond (hen : d.flag Reg.inputEnable i = true) (hlost : (d.input i).lost = false) (hq : (d.input i).qualified = false)
    (hr : d.Reaches ((d.input i).since + msCycles (d.nat Reg.qualifyTime i)))
    (hw : d.wantedRate i < (((d.nat Reg.inputMeasuredRate i : Nat) : Int) - (d.wantedRate i : Nat)).natAbs * 10000) :
    ((d.inputQualify i).input i).qualified = false ∧ KeepsRegs [] d (d.inputQualify i) := by
  obtain ⟨t, ht⟩ := inputQualify_due hen hlost hq hr
  rw [ht, if_pos hw]
  exact ⟨(congrArg ClockInput.qualified (advanceTo_input _ _ _)).trans hq, .advanceTo t d⟩

/-! ### REVERT_HOLDOFF (R335) and ROOT_DPLL_LOCKED (R333) -/

/-- The root slews to a source that it does not yet follow, and counts the switch. -/
theorem switchSource_reads {new : Nat} (h : d.nat Reg.selectedSource ≠ new) : (d.switchSource new).nat Reg.selectedSource = new ∧
    (d.switchSource new).nat Reg.dpllState = 1 ∧ (d.switchSource new).nat Reg.sourceSwitches = (d.nat Reg.sourceSwitches + 1) % 2 ^ 32 ∧
    KeepsRegs [Reg.selectedSource.key, Reg.dpllState.key, Reg.sourceSwitches.key] d (d.switchSource new) := by
  unfold switchSource
  dsimp only
  rw [if_neg h]
  have htold := told_notice 0x3801 (d.nat Reg.selectedSource * 256 + new) (((d.setNat Reg.selectedSource new).setNat Reg.dpllState 1).bump Reg.sourceSwitches)
  have hset : KeepsRegs [Reg.selectedSource.key, Reg.dpllState.key] d ((d.setNat Reg.selectedSource new).setNat Reg.dpllState 1) :=
    ((KeepsRegs.refl _ d).setNat Reg.selectedSource new 0 0 (by decide)).setNat Reg.dpllState 1 0 0 (by decide)
  refine ⟨?_, ?_, ?_, ?_⟩
  · rw [nat_congr (setAlm_regs _ _), htold.nat _ _ _ (by decide), nat_bump_ne _ _ _ _ _ _ _ (by decide), nat_setNat_ne _ _ _ _ _ _ _ _ (by decide), nat_setNat_same]
  · rw [nat_congr (setAlm_regs _ _), htold.nat _ _ _ (by decide), nat_bump_ne _ _ _ _ _ _ _ (by decide), nat_setNat_same]
  · rw [nat_congr (setAlm_regs _ _), htold.nat _ _ _ (by decide), nat_bump_same, hset.nat _ _ _ (by decide) (by decide)]
    rfl
  · exact (((hset.mono (by simp)).bump Reg.sourceSwitches 0 1 (by decide)).told htold).of_regs (setAlm_regs _ _)

/-- The moment from which a source may be returned to. -/
def revertDue (d : Dev) (x : Nat) : Nat := nget 0 d.alm.qualifiedAt x + msCycles (d.nat Reg.revertHoldoff)

/-- The usable sources ranked above the selected one. -/
def sourcesAbove (d : Dev) : List Nat :=
  (d.sourceRanks.takeWhile (· ≠ d.nat Reg.selectedSource)).filter fun x => d.sourceOkNow x && (nget? d.alm.qualifiedAt x).isSome

theorem sourcesAbove_ne {c : Nat} (h : c ∈ d.sourcesAbove) : d.nat Reg.selectedSource ≠ c := by
  have := List.mem_takeWhile_imp (List.mem_filter.1 h).1
  simpa using Ne.symm (by simpa using this)

theorem revert_held {c : Nat} (hr : d.flag Reg.revertive = true) (h : d.sourcesAbove.find? (fun x => decide (d.revertDue x ≤ d.clock)) = some c) :
    d.revert = d.switchSource c := by
  unfold revert
  rw [if_neg (by simp [hr])]
  extract_lets sel above due
  have hfound : above.find? (fun s => decide (due s ≤ d.clock)) = some c := h
  rw [hfound]

/-- The first of a list is taken where no other of it comes before. -/
theorem foldl_first {f : Nat → Nat} {c : Nat} {l : List Nat} (h : ∀ x ∈ l, f c ≤ f x) : l.foldl (fun b x => if f x < f b then x else b) c = c :=
  List.foldlRecOn (motive := fun b => b = c) l _ rfl fun b hb x hx => by rw [hb, if_neg (Nat.not_lt.2 (h x hx))]

theorem revert_awaits {c : Nat} (hr : d.flag Reg.revertive = true) (hnone : ∀ x ∈ d.sourcesAbove, d.clock < d.revertDue x)
    (hc : d.sourcesAbove.head? = some c) (hfirst : ∀ x ∈ d.sourcesAbove, d.revertDue c ≤ d.revertDue x) (hd : d.Reaches (d.revertDue c)) :
    d.revert = (d.advanceTo (d.revertDue c)).switchSource c := by
  obtain ⟨t, ht⟩ : ∃ t, d.sourcesAbove = c :: t := by
    cases hl : d.sourcesAbove with
    | nil => rw [hl] at hc; cases hc
    | cons x t => rw [hl] at hc; cases hc; exact ⟨t, rfl⟩
  unfold revert
  rw [if_neg (by simp [hr])]
  extract_lets sel above due
  have hnotyet : above.find? (fun s => decide (due s ≤ d.clock)) = none :=
    List.find?_eq_none.2 fun x hx => decide_eq_true_iff.not.2 (Nat.not_le.2 (hnone x hx))
  have habove : above = c :: t := ht
  rw [hnotyet, habove]
  have htaken : t.foldl (fun b x => if due x < due b then x else b) c = c := foldl_first fun x hx => hfirst x (by rw [ht]; exact .tail _ hx)
  dsimp only
  rw [htaken]
  exact onDue_eq _ _ _ hd

/-- The source to return to, at once or at its time. -/
theorem revert_switches {c : Nat} (hr : d.flag Reg.revertive = true) (h : d.sourcesAbove.find? (fun x => decide (d.revertDue x ≤ d.clock)) = some c ∨
      ((∀ x ∈ d.sourcesAbove, d.clock < d.revertDue x) ∧ d.sourcesAbove.head? = some c ∧ (∀ x ∈ d.sourcesAbove, d.revertDue c ≤ d.revertDue x) ∧
        d.Reaches (d.revertDue c))) : ∃ e : Dev, e.regs = d.regs ∧ d.revert = e.switchSource c ∧ d.nat Reg.selectedSource ≠ c := by
  obtain h | ⟨hnone, hc, hfirst, hd⟩ := h
  · exact ⟨d, rfl, revert_held hr h, sourcesAbove_ne (List.mem_of_find?_eq_some h)⟩
  · exact ⟨_, advanceTo_regs _ _, revert_awaits hr hnone hc hfirst hd, sourcesAbove_ne (List.mem_of_mem_head? (by simp [hc]))⟩

theorem revert_reads {c : Nat} (hr : d.flag Reg.revertive = true) (h : d.sourcesAbove.find? (fun x => decide (d.revertDue x ≤ d.clock)) = some c ∨
      ((∀ x ∈ d.sourcesAbove, d.clock < d.revertDue x) ∧ d.sourcesAbove.head? = some c ∧ (∀ x ∈ d.sourcesAbove, d.revertDue c ≤ d.revertDue x) ∧
        d.Reaches (d.revertDue c))) : d.revert.nat Reg.selectedSource = c ∧ d.revert.nat Reg.dpllState = 1 ∧
      d.revert.nat Reg.sourceSwitches = (d.nat Reg.sourceSwitches + 1) % 2 ^ 32 ∧
      KeepsRegs [Reg.selectedSource.key, Reg.dpllState.key, Reg.sourceSwitches.key] d d.revert := by
  obtain ⟨e, he, hrevert, hne⟩ := revert_switches hr h
  rw [← nat_congr he] at hne
  obtain ⟨hsel, hstate, hcount, hkeep⟩ := switchSource_reads hne
  rw [hrevert, ← nat_congr he]
  exact ⟨hsel, hstate, hcount, ((KeepsRegs.refl _ d).of_regs he).trans hkeep⟩

theorem revert_off (h : d.flag Reg.revertive = false) : d.revert = d := if_pos (by simp [h])

theorem dpllLocked_idle (ppb : Int) (h : d.nat Reg.dpllState ≠ 1 ∨ d.nat Reg.selectedSource = 0) : d.dpllLocked ppb = d :=
  if_neg (by obtain h | h := h <;> simp [h])

theorem dpllLocked_locks (ppb : Int) (hs : d.nat Reg.dpllState = 1) (hsel : d.nat Reg.selectedSource ≠ 0) :
    (d.dpllLocked ppb).nat Reg.dpllState = 2 ∧ (d.dpllLocked ppb).int Reg.rootOffset = clampI (-100000) 100000 ppb ∧
      KeepsRegs [Reg.dpllState.key, Reg.rootOffset.key] d (d.dpllLocked ppb) := by
  rw [dpllLocked, if_pos ⟨hs, hsel⟩]
  refine ⟨?_, int_setInt_same _ _ _ _ _, ((KeepsRegs.refl _ d).setNat _ _ _ _ (.head _)).setInt _ _ _ _ (.tail _ (.head _))⟩
  rw [nat_setInt_ne _ _ _ _ _ _ _ _ (by decide), nat_setNat_same]

end Dev

theorem exec_inputEdge (i frac : Nat) (s : State) : exec (.inputEdge i frac) s = s.run (Dev.whenUp (Dev.inputEdge i frac)) := rfl

theorem exec_inputLoss (i : Nat) (s : State) : exec (.inputLoss i) s = s.run (Dev.whenUp (Dev.inputLoss i)) := rfl

theorem exec_inputQualify (i : Nat) (s : State) : exec (.inputQualify i) s = s.run (Dev.whenUp (Dev.inputQualify i)) := rfl

theorem exec_revertHoldoff (s : State) : exec .revertHoldoff s = s.run (Dev.whenUp Dev.revert) := rfl

theorem exec_rootDpllLocked (ppb : Int) (s : State) : exec (.rootDpllLocked ppb) s = s.run (Dev.whenUp (Dev.dpllLocked ppb)) := rfl

/-- Settles O37: each event of an input's checker and of the root by the state it finds. -/
theorem clockInputs : Obligations.ClockInputs := by
  unfold Obligations.ClockInputs
  intro s ha i hi
  refine ⟨fun frac hen => ?_, fun frac hen hlost => ?_, fun frac l m hen hlost hl hm hoff => ?_, fun l hl hlost hen hr => ?_,
    fun want hen hlost hq hr hwant hw => ?_, fun want hen hlost hq hr hwant hw => ?_, fun above c hr habove h => ?_, fun hr => ?_, fun ppb h => ?_,
    fun ppb hs hsel => ?_⟩
  · exact up_completes (exec_inputEdge i frac s) ha (Dev.inputEdge_disabled hen)
  · exact up_completes (exec_inputEdge i frac s) ha (Dev.inputEdge_starts hi hen hlost)
  · exact up_completes (exec_inputEdge i frac s) ha (Dev.inputEdge_counts hi hen hlost hl hm hoff)
  · exact up_completes (exec_inputLoss i s) ha (Dev.inputLoss_reads hi hl hlost hen hr)
  · subst hwant
    exact up_completes (exec_inputQualify i s) ha (Dev.inputQualify_within hi hen hlost hq hr hw)
  · subst hwant
    exact up_completes (exec_inputQualify i s) ha (Dev.inputQualify_beyond hen hlost hq hr hw)
  · subst habove
    refine up_completes (exec_revertHoldoff s) ha (Dev.revert_reads hr ?_)
    refine h.imp id fun ⟨hnone, hc, hfirst, hd⟩ => ⟨hnone, hc, fun x hx => ?_, hd⟩
    exact Nat.add_le_add_right (hfirst x hx) _
  · exact up_completes (exec_revertHoldoff s) ha (Dev.revert_off hr)
  · exact up_completes (exec_rootDpllLocked ppb s) ha (Dev.dpllLocked_idle ppb h)
  · exact up_completes (exec_rootDpllLocked ppb s) ha (Dev.dpllLocked_locks ppb hs hsel)

end Sys2Proof.Machine
end

