-- ==== Sys2Proof/Proofs/PtpFollower.lean ====
section
/-! A follower of a PTP leader: the servo with θ, a path measured, a leader chosen, and the time-outs (R343 to R345). -/

namespace Sys2Proof.Machine

namespace Dev

variable {d e : Dev} {θ : Int}

/-! ### The servo's state (R345) -/

/-- PtpServoState written, and the runs of good and bad θ started anew. -/
def servoSet (st : Nat) (d : Dev) : Dev := (d.setNat Reg.ptpServoState st).setAlm fun a => { a with goodRun := 0, badRun := 0 }

/-- A change of the servo's state may gain or lose the root a source. -/
theorem setServo_sourced (st : Nat) (d : Dev) : Sourced (d.servoSet st) (d.setServo st) := by
  unfold setServo
  extract_lets old d1
  have htold : Sourced d1 (d1.notice 0x380A st) := (Sourced.refl d1).told (told_notice _ _ _)
  split
  · exact .refl d1
  split
  · exact htold.trans (sourced_sourceGained _ _)
  split
  · exact htold.trans (sourced_sourceLost _ _)
  · exact .refl d1

theorem setServo_state (st : Nat) (d : Dev) : (d.setServo st).nat Reg.ptpServoState = st :=
  ((setServo_sourced st d).nat (by decide)).trans (nat_setNat_same _ _ _ _ _)

theorem setServo_mode (st : Nat) (d : Dev) : (d.setServo st).nat Reg.ptpMode = d.nat Reg.ptpMode :=
  ((setServo_sourced st d).nat (by decide)).trans (nat_setNat_ne _ _ _ _ _ _ _ _ (by decide))

theorem setServo_foreign (st : Nat) (d : Dev) : (d.setServo st).alm.foreign = d.alm.foreign := (setServo_sourced st d).foreign

/-! ### θ given to the servo (R344) -/

/-- A good θ in LOCKED is counted. -/
theorem servoRuns_locked (h : d.nat Reg.ptpServoState = 2) :
    d.servoRuns true = d.setAlm fun a => { a with goodRun := d.alm.goodRun + 1, badRun := 0 } := by
  unfold servoRuns
  simp [h]

/-- A bad θ in ACQUIRE starts the run of good ones anew. -/
theorem servoRuns_acquiring (h : d.nat Reg.ptpServoState = 1) :
    d.servoRuns false = d.setAlm fun a => { a with goodRun := 0, badRun := d.alm.badRun + 1 } := by
  unfold servoRuns
  simp [h]

/-- I with a θ added. -/
def newInteg (d : Dev) (θ : Int) : Int := d.alm.integ + sd θ (64 * d.syncCycles)

/-- INC as a θ leaves it. -/
def newInc (d : Dev) (θ : Int) : Nat := ((incNominal : Int) + clampI (-incLimit) incLimit (d.newInteg θ + sd θ (4 * d.syncCycles))).toNat

/-- A small θ in SN mode steers INC at once. -/
theorem steer_small (hs : d.alm.snMode = true) (hθ : (θ.natAbs : Int) < 1000 * nsUnit) :
    d.steer d.syncCycles θ = (d.setAlm fun a => { a with integ := d.newInteg θ, inc := d.newInc θ }).setNat Reg.increment (d.newInc θ) := by
  unfold steer
  simp only [hs, Bool.not_true, Bool.false_and, Bool.false_eq_true, if_false, Bool.true_and, decide_eq_true_eq, if_neg (Int.not_le.2 hθ)]
  unfold setInc
  rw [if_pos (by exact hs)]
  rfl

/-- A large θ in SN mode steps the time. -/
theorem steer_large (c : Int) (hs : d.alm.snMode = true) (hθ : 1000 * nsUnit ≤ (θ.natAbs : Int)) :
    d.steer c θ = ((d.setSn ((d.almNow : Int) - θ).toNat).setAlm fun a => { a with integ := 0, paths := [] }).setNat Reg.ptpMeanPathDelay 0 := by
  unfold steer
  simp only [hs, Bool.not_true, Bool.false_and, Bool.false_eq_true, if_false, Bool.true_and, decide_eq_true_eq, if_pos hθ]

/-- A θ noted, before the servo acts on it. -/
def thetaNoted (θ : Int) (d : Dev) : Dev := (d.setInt Reg.ptpOffset (satS 32 (rsh 32 θ))).setAlm fun a => { a with lastSync := d.clock }

theorem thetaNoted_offset (θ : Int) (d : Dev) : (d.thetaNoted θ).int Reg.ptpOffset = satS 32 (rsh 32 θ) := int_setInt_same _ _ _ _ _

theorem thetaNoted_keepsRegs (θ : Int) (d : Dev) : KeepsRegs [Reg.ptpOffset.key] d (d.thetaNoted θ) :=
  ((KeepsRegs.refl _ d).setInt Reg.ptpOffset _ 0 0 (.head _)).of_regs (setAlm_regs _ _)

theorem thetaNoted_servo (θ : Int) (d : Dev) : (d.thetaNoted θ).nat Reg.ptpServoState = d.nat Reg.ptpServoState :=
  (thetaNoted_keepsRegs θ d).nat _ _ _ (by decide) (by decide)

theorem thetaNoted_syncCycles (θ : Int) (d : Dev) : (d.thetaNoted θ).syncCycles = d.syncCycles := by
  rw [syncCycles, (thetaNoted_keepsRegs θ d).int _ _ _ (by decide) (by decide), syncCycles]

/-- Outside TimeTestMode a servo that neither waits nor holds over takes a θ as it is. -/
theorem servo_runs (htest : d.flag Reg.timeTestMode = false) (h0 : d.nat Reg.ptpServoState ≠ 0) (h4 : d.nat Reg.ptpServoState ≠ 4) :
    d.servo θ = ((d.thetaNoted θ).servoRuns (!decide (1000 * nsUnit ≤ (θ.natAbs : Int)))).steer d.syncCycles θ := by
  have hflag : (d.thetaNoted θ).flag Reg.timeTestMode = false := ((thetaNoted_keepsRegs θ d).flag _ _ (by decide) (by decide)).trans htest
  unfold servo
  extract_lets st d1 d2 d3 big
  have h3 : d3 = d.thetaNoted θ := if_neg (by simp [st, h0, h4])
  rw [show d2 = d.thetaNoted θ from rfl, hflag, if_neg Bool.false_ne_true, h3, thetaNoted_syncCycles]

/-- A small θ in LOCKED: I, INC and PtpOffset follow, and nothing else. -/
theorem servo_small (hs : d.alm.snMode = true) (htest : d.flag Reg.timeTestMode = false) (hθ : (θ.natAbs : Int) < 1000 * nsUnit)
    (hst : d.nat Reg.ptpServoState = 2) : (d.servo θ).int Reg.ptpOffset = satS 32 (rsh 32 θ) ∧ (d.servo θ).alm.integ = d.newInteg θ ∧
      (d.servo θ).nat Reg.increment = ((incNominal : Int) + clampI (-incLimit) incLimit ((d.servo θ).alm.integ + sd θ (4 * d.syncCycles))).toNat ∧
      KeepsRegs [Reg.ptpOffset.key, Reg.increment.key] d (d.servo θ) ∧
      (d.servo θ).alm.twoStep = d.alm.twoStep := by
  have hgood : (!decide (1000 * nsUnit ≤ (θ.natAbs : Int))) = true := by simpa using hθ
  rw [servo_runs htest (by omega) (by omega), hgood, servoRuns_locked ((thetaNoted_servo θ d).trans hst)]
  generalize he : (d.thetaNoted θ).setAlm (fun a => { a with goodRun := (d.thetaNoted θ).alm.goodRun + 1, badRun := 0 }) = e
  have hregs : e.regs = (d.thetaNoted θ).regs := by rw [← he]; rfl
  have hkeep : KeepsRegs [Reg.ptpOffset.key] d e := (thetaNoted_keepsRegs θ d).of_regs hregs
  have hcycles : e.syncCycles = d.syncCycles := by rw [syncCycles, hkeep.int _ _ _ (by decide) (by decide), syncCycles]
  have halm : e.alm.snMode = true ∧ e.alm.integ = d.alm.integ ∧ e.alm.twoStep = d.alm.twoStep := by rw [← he]; exact ⟨hs, rfl, rfl⟩
  obtain ⟨hsn, hinteg, htwo⟩ := halm
  have hnew : e.newInteg θ = d.newInteg θ := by rw [newInteg, hinteg, hcycles, newInteg]
  have hoffset : e.int Reg.ptpOffset = satS 32 (rsh 32 θ) := by rw [int_congr hregs, thetaNoted_offset]
  rw [← hcycles, steer_small hsn hθ]
  refine ⟨?_, hnew, nat_setNat_same _ _ _ _ _, ?_, htwo⟩
  · rw [int_setNat_ne _ _ _ _ _ _ _ _ (by decide), int_congr (setAlm_regs _ _), hoffset]
  · exact (((hkeep.mono (by simp)).of_regs (setAlm_regs _ _))).setNat Reg.increment _ 0 0 (by decide)

/-- A large θ in ACQUIRE steps the time and forgets I and the paths. -/
theorem servo_large (hs : d.alm.snMode = true) (htest : d.flag Reg.timeTestMode = false) (hθ : 1000 * nsUnit ≤ (θ.natAbs : Int))
    (hst : d.nat Reg.ptpServoState = 1) : (d.servo θ).int Reg.ptpOffset = satS 32 (rsh 32 θ) ∧ (d.servo θ).alm.integ = 0 ∧
      (d.servo θ).alm.paths = [] ∧ (d.servo θ).nat Reg.ptpMeanPathDelay = 0 := by
  have hbad : (!decide (1000 * nsUnit ≤ (θ.natAbs : Int))) = false := by simpa using hθ
  rw [servo_runs htest (by omega) (by omega), hbad, servoRuns_acquiring ((thetaNoted_servo θ d).trans hst), steer_large _ (by exact hs) hθ]
  refine ⟨?_, rfl, rfl, nat_setNat_same _ _ _ _ _⟩
  rw [int_setNat_ne _ _ _ _ _ _ _ _ (by decide)]
  exact thetaNoted_offset θ d

/-! ### The messages of the leader (R343, R344) -/

/-- A Sync's times noted, and its sender's address. -/
def syncNoted (src : Nat) (t1 t2 : Int) (d : Dev) : Dev :=
  (d.setAlm fun a => { a with leaderIp := src }).setAlm fun a => { a with syncRef := some (t1, t2) }

/-- A Follow_Up's times noted, and its Sync no longer kept. -/
def followUpNoted (t1 t2 : Int) (d : Dev) : Dev := d.setAlm fun a => { a with twoStep := none, syncRef := some (t1, t2) }

/-- A Sync of the leader already followed. -/
theorem ptpSync_followed {p src stamp : Nat} {msg : Octets} (hk : (parsePtp msg).kind = 0) (hf : d.fromLeader p (parsePtp msg) = true)
    (hl : d.alm.leader = (parsePtp msg).source) (hne : (parsePtp msg).source ≠ []) :
    d.ptpSync p src msg stamp = if (parsePtp msg).twoStep then
        (d.setAlm fun a => { a with leaderIp := src }).setAlm fun a => { a with twoStep := some ((parsePtp msg).seq, stamp, (parsePtp msg).correction) }
      else (d.syncNoted src ((parsePtp msg).stamp + (parsePtp msg).correction) (d.convert stamp)).servo
        (d.convert stamp - (parsePtp msg).stamp - (parsePtp msg).correction - d.meanPath) := by
  have hleader : d.alm.leader.isEmpty = false := by rw [hl]; simpa using hne
  unfold ptpSync
  dsimp only
  rw [if_neg (by simp [hk, hf]), hleader, if_neg Bool.false_ne_true]
  rfl

/-- The Follow_Up of the Sync that is kept. -/
theorem ptpFollowUp_kept {p seq stamp : Nat} {msg : Octets} {corr : Int} (hk : (parsePtp msg).kind = 8) (hf : d.fromLeader p (parsePtp msg) = true)
    (ht : d.alm.twoStep = some (seq, stamp, corr)) (hq : (parsePtp msg).seq = seq) :
    d.ptpFollowUp p msg = (d.followUpNoted ((parsePtp msg).stamp + corr + (parsePtp msg).correction) (d.convert stamp)).servo
      (d.convert stamp - ((parsePtp msg).stamp + corr + (parsePtp msg).correction) - d.meanPath) := by
  unfold ptpFollowUp
  rw [ht]
  dsimp only
  rw [if_neg (by simp [hk, hf, hq])]
  rfl

/-- A path measured between this clock and its leader. -/
def pathAdded (path : Int) (d : Dev) : Dev := d.setAlm fun a => { a with delayReq := none, paths := (path :: a.paths).take 16 }

theorem ptpDelayResp_measured {p seq t3 : Nat} {t1 t2 path : Int} {msg : Octets} (hk : (parsePtp msg).kind = 9)
    (hf : d.fromLeader p (parsePtp msg) = true) (hd : d.alm.delayReq = some (seq, t3)) (hs : d.alm.syncRef = some (t1, t2))
    (hq : (parsePtp msg).seq = seq) (h3 : t3 ≠ 0) (hid : ((parsePtp msg).body.drop 10).take 8 = d.clockIdentity)
    (hpath : path = ((t2 - t1) + ((parsePtp msg).stamp - (parsePtp msg).correction - d.convert t3)) / 2) (h0 : 0 ≤ path) :
    d.ptpDelayResp p msg =
      (d.pathAdded path).setNat Reg.ptpMeanPathDelay (min (rsh 32 (d.pathAdded path).meanPath).toNat (2 ^ 32 - 1)) := by
  unfold ptpDelayResp
  rw [hd, hs]
  dsimp only
  rw [if_neg (by simp [hk, hf, hq, h3, hid]), ← hpath, if_neg (Int.not_lt.2 h0)]
  rfl

/-! ### A first Announce (R343, R345) -/

/-- A leader adopted while the servo waits. -/
theorem adopt_reads {p steps : Nat} {source : Octets} (hp : p < 5) (hl : d.alm.leader ≠ source) (hst : d.nat Reg.ptpServoState = 0) :
    (d.adopt p source steps).alm.leader = source ∧ (d.adopt p source steps).nat Reg.ptpPortState p = 9 ∧
      (d.adopt p source steps).nat Reg.ptpStepsRemoved = steps ∧ (d.adopt p source steps).nat Reg.ptpLeaderId = fromBE (source.take 8) ∧
      KeepsRegs [Reg.ptpPortState.key p, Reg.ptpStepsRemoved.key, Reg.ptpLeaderId.key] d (d.adopt p source steps) := by
  unfold adopt
  extract_lets d1 d2
  have hset : KeepsRegs [Reg.ptpStepsRemoved.key, Reg.ptpLeaderId.key] d ((d1.setNat Reg.ptpLeaderId (fromBE (source.take 8))).setNat Reg.ptpStepsRemoved steps) :=
    (((KeepsRegs.refl _ d).of_regs (setAlm_regs _ _)).setNat Reg.ptpLeaderId _ 0 0 (by decide)).setNat Reg.ptpStepsRemoved _ 0 0 (by decide)
  have htold := told_notice 0x3809 0 ((d1.setNat Reg.ptpLeaderId (fromBE (source.take 8))).setNat Reg.ptpStepsRemoved steps)
  have hport (r : Row) (h : r.key < 0x384000) : r.key ≠ Reg.ptpPortState.key p := by simp only [ptpPortState_key]; omega
  have hstate : d2.nat Reg.ptpServoState = 0 := by
    rw [nat_setNat_ne _ _ _ _ _ _ _ _ (hport _ (by decide)), htold.nat _ _ _ (by decide), hset.nat _ _ _ (by decide) (by decide), hst]
  rw [if_neg hl, if_pos hstate]
  refine ⟨congrArg Almanac.leader htold.alm, nat_setNat_same _ _ _ _ _, ?_, ?_, ?_⟩
  · rw [nat_setNat_ne _ _ _ _ _ _ _ _ (hport _ (by decide)), htold.nat _ _ _ (by decide), nat_setNat_same]
  · rw [nat_setNat_ne _ _ _ _ _ _ _ _ (hport _ (by decide)), htold.nat _ _ _ (by decide), nat_setNat_ne _ _ _ _ _ _ _ _ (by decide), nat_setNat_same]
  · exact ((hset.told htold).mono fun _ hk => .tail _ hk).setNat Reg.ptpPortState 9 p 0 (.head _)

/-- An Announce held, with the port that it came in on. -/
def announced (p : Nat) (msg : Octets) : Octets := octet p :: msg

theorem announced_port {p : Nat} (hp : p < 5) (msg : Octets) : beAt (announced p msg) 0 1 = p := by
  simp only [beAt, announced, List.drop_zero, List.take_succ_cons, List.take_zero, fromBE, List.foldl_cons, List.foldl_nil, octet, BitVec.toNat_ofNat]
  omega

theorem announced_source (p : Nat) (msg : Octets) : ((announced p msg).drop 21).take 10 = (parsePtp msg).source := rfl

theorem announced_steps (p : Nat) (msg : Octets) : beAt (announced p msg) 62 2 = beAt msg 61 2 := rfl

/-- The only Announce held, by a follower, is its leader's. -/
theorem bestLeader_only {x : Octets} (hf : d.alm.foreign = [x]) (hm : d.nat Reg.ptpMode = 1) :
    d.bestLeader = d.adopt (beAt x 0 1) ((x.drop 21).take 10) (beAt x 62 2) := by
  unfold bestLeader
  extract_lets own best mode lead
  have hbest : best = some x := by simp only [best, hf, List.foldl_cons, List.foldl_nil]
  have hmode : mode = 1 := hm
  rw [hbest, hmode]
  dsimp only
  rw [if_neg (fun h => absurd rfl h.1), if_neg (by decide)]

theorem bestLeader_none (hf : d.alm.foreign = []) (hm : d.nat Reg.ptpMode = 1) : d.bestLeader = d := by
  unfold bestLeader
  extract_lets own best mode lead
  have hbest : best = none := by simp only [best, hf, List.foldl_nil]
  rw [hbest]
  exact if_pos hm

/-- An Announce held in the place of its sender's last. -/
def announceHeld (p : Nat) (msg : Octets) (d : Dev) : Dev :=
  d.setAlm fun a => { a with foreign := announced p msg :: a.foreign.filter fun y => (y.drop 21).take 10 ≠ (parsePtp msg).source }

/-- An Announce held while no leader is known, and its moment. -/
def firstAnnounce (p : Nat) (msg : Octets) (d : Dev) : Dev := (d.announceHeld p msg).setAlm fun a => { a with lastAnnounce := d.clock }

theorem firstAnnounce_foreign (hf : d.alm.foreign = []) (p : Nat) (msg : Octets) : (d.firstAnnounce p msg).alm.foreign = [announced p msg] := by
  simp only [firstAnnounce, announceHeld, setAlm_alm, hf, List.filter_nil]

theorem ptpAnnounce_first {p : Nat} {msg : Octets} (hk : (parsePtp msg).kind = 0xB) (hon : d.ptpOn p = true)
    (hdom : (parsePtp msg).domain = d.nat Reg.ptpDomain) (hl : d.alm.leader = []) : d.ptpAnnounce p msg = (d.firstAnnounce p msg).bestLeader := by
  unfold ptpAnnounce
  extract_lets m x d1 d2
  have hleader : d1.alm.leader.isEmpty = true := by rw [show d1.alm.leader = [] from hl]; rfl
  have h2 : d2 = d.firstAnnounce p msg := if_pos (.inl hleader)
  rw [if_neg (by simp [m, hk, hon, hdom]), h2]

theorem ptpAnnounce_reads {p : Nat} {msg : Octets} (hp : p < 5) (hk : (parsePtp msg).kind = 0xB) (hon : d.ptpOn p = true)
    (hdom : (parsePtp msg).domain = d.nat Reg.ptpDomain) (hm : d.nat Reg.ptpMode = 1) (hf : d.alm.foreign = []) (hl : d.alm.leader = [])
    (hne : (parsePtp msg).source ≠ []) (hst : d.nat Reg.ptpServoState = 0) :
    (d.ptpAnnounce p msg).alm.leader = (parsePtp msg).source ∧ (d.ptpAnnounce p msg).nat Reg.ptpPortState p = 9 ∧
      (d.ptpAnnounce p msg).nat Reg.ptpStepsRemoved = beAt msg 61 2 ∧
      (d.ptpAnnounce p msg).nat Reg.ptpLeaderId = fromBE ((parsePtp msg).source.take 8) ∧
      KeepsRegs [Reg.ptpPortState.key p, Reg.ptpStepsRemoved.key, Reg.ptpLeaderId.key] d (d.ptpAnnounce p msg) := by
  rw [ptpAnnounce_first hk hon hdom hl, bestLeader_only (firstAnnounce_foreign hf p msg) hm, announced_port hp, announced_source, announced_steps]
  exact adopt_reads (d := d.firstAnnounce p msg) hp (by rw [show (d.firstAnnounce p msg).alm.leader = [] from hl]; exact hne.symm) hst

/-! ### The time-outs (R345) -/

theorem ptpSyncTimeout_due (h0 : d.nat Reg.ptpServoState ≠ 0) (h4 : d.nat Reg.ptpServoState ≠ 4) (hr : d.Reaches (d.alm.lastSync + 2 * d.syncCycles)) :
    d.ptpSyncTimeout.nat Reg.ptpServoState = 4 := by
  unfold ptpSyncTimeout
  dsimp only
  rw [if_neg (by simp [h0, h4]), onDue_eq _ _ _ hr]
  exact setServo_state _ _

/-- The servo as the loss of its leader leaves it. -/
def holdOver (d : Dev) : Dev := if d.nat Reg.ptpServoState = 0 then d else d.setServo 4

theorem holdOver_reads (d : Dev) : d.holdOver.nat Reg.ptpServoState = (if d.nat Reg.ptpServoState = 0 then 0 else 4) ∧
    d.holdOver.nat Reg.ptpMode = d.nat Reg.ptpMode ∧ d.holdOver.alm.foreign = d.alm.foreign := by
  unfold holdOver
  split
  next h => exact ⟨h, rfl, rfl⟩
  next => exact ⟨setServo_state _ _, setServo_mode _ _, setServo_foreign _ _⟩

/-- The Announce messages of the followed leader forgotten. -/
def leaderGone (d : Dev) : Dev := d.setAlm fun a => { a with foreign := a.foreign.filter fun y => (y.drop 21).take 10 ≠ d.alm.leader }

theorem leaderGone_foreign (h : d.alm.foreign.all (fun y => (y.drop 21).take 10 == d.alm.leader) = true) : d.leaderGone.alm.foreign = [] := by
  refine List.filter_eq_nil_iff.2 fun y hy => ?_
  simpa using List.all_eq_true.1 h y hy

theorem ptpAnnounceTimeout_due (hl : d.alm.leader ≠ [])
    (hr : d.Reaches (d.alm.lastAnnounce + scaleLog (d.nat Reg.ptpAnnounceTimeout * 786432000) (d.int Reg.ptpLogAnnounce))) :
    d.ptpAnnounceTimeout =
      (d.advanceTo (d.alm.lastAnnounce + scaleLog (d.nat Reg.ptpAnnounceTimeout * 786432000) (d.int Reg.ptpLogAnnounce))).leaderGone.holdOver.bestLeader := by
  unfold ptpAnnounceTimeout
  rw [if_neg (by simpa using hl), onDue_eq _ _ _ hr]
  rfl

theorem ptpAnnounceTimeout_reads (hl : d.alm.leader ≠ []) (hf : d.alm.foreign.all (fun y => (y.drop 21).take 10 == d.alm.leader) = true)
    (hm : d.nat Reg.ptpMode = 1)
    (hr : d.Reaches (d.alm.lastAnnounce + scaleLog (d.nat Reg.ptpAnnounceTimeout * 786432000) (d.int Reg.ptpLogAnnounce))) :
    d.ptpAnnounceTimeout.alm.foreign = [] ∧ d.ptpAnnounceTimeout.nat Reg.ptpServoState = (if d.nat Reg.ptpServoState = 0 then 0 else 4) := by
  rw [ptpAnnounceTimeout_due hl hr]
  generalize d.alm.lastAnnounce + scaleLog (d.nat Reg.ptpAnnounceTimeout * 786432000) (d.int Reg.ptpLogAnnounce) = due
  obtain ⟨hstate, hmode, hforeign⟩ := holdOver_reads (d.advanceTo due).leaderGone
  rw [leaderGone_foreign (by rw [advanceTo_foreign, advanceTo_leader]; exact hf)] at hforeign
  have hgone (r : Row) : (d.advanceTo due).leaderGone.nat r = d.nat r := (nat_congr (setAlm_regs _ _) _ _ _).trans (advanceTo_nat _ _ _ _ _)
  rw [hgone] at hstate hmode
  rw [bestLeader_none hforeign (hmode.trans hm)]
  exact ⟨hforeign, hstate⟩

end Dev

theorem exec_ptpSyncReceive (p src : Nat) (msg : Octets) (stamp : Nat) (s : State) :
    exec (.ptpSyncReceive p src msg stamp) s = s.run (Dev.whenUp (Dev.ptpSync p src msg stamp)) := rfl

theorem exec_ptpFollowUpReceive (p : Nat) (msg : Octets) (s : State) :
    exec (.ptpFollowUpReceive p msg) s = s.run (Dev.whenUp (Dev.ptpFollowUp p msg)) := rfl

theorem exec_ptpDelayRespReceive (p : Nat) (msg : Octets) (s : State) :
    exec (.ptpDelayRespReceive p msg) s = s.run (Dev.whenUp (Dev.ptpDelayResp p msg)) := rfl

theorem exec_ptpAnnounceReceive (p : Nat) (msg : Octets) (s : State) :
    exec (.ptpAnnounceReceive p msg) s = s.run (Dev.whenUp (Dev.ptpAnnounce p msg)) := rfl

theorem exec_ptpSyncTimeout (s : State) : exec .ptpSyncTimeout s = s.run (Dev.whenUp Dev.ptpSyncTimeout) := rfl

theorem exec_ptpAnnounceTimeout (s : State) : exec .ptpAnnounceTimeout s = s.run (Dev.whenUp Dev.ptpAnnounceTimeout) := rfl

/-- Settles O38: each message of a leader by what it finds followed and kept, and the time-outs by what the servo does then. -/
theorem ptpFollower : Obligations.PtpFollower := by
  unfold Obligations.PtpFollower
  intro s ha
  refine ⟨fun p src msg stamp hk hf hl hne htwo => ?_, fun p src msg stamp θ hk hf hl hne htwo hs htest hθ => ⟨fun hsmall hst => ?_, fun hlarge hst => ?_⟩,
    fun p msg seq stamp corr θ hk hf ht hq hs htest hθ hsmall hst => ?_, fun p msg seq t3 t1 t2 path hk hf hd href hq h3 hid hpath h0 => ?_,
    fun p msg hk hon hdom hm hf hl hne hst hp => ?_, fun h0 h4 hr => ?_, fun m hl hne hf hm hr => ?_⟩
  · refine up_completes (exec_ptpSyncReceive p src msg stamp s) ha ?_
    rw [Dev.ptpSync_followed hk hf hl hne, htwo, if_pos rfl]
    exact ⟨rfl, rfl⟩
  · refine up_completes (exec_ptpSyncReceive p src msg stamp s) ha ?_
    rw [Dev.ptpSync_followed hk hf hl hne, htwo, if_neg Bool.false_ne_true, ← hθ]
    obtain ⟨hoffset, hinteg, hinc, hkeep, -⟩ := Dev.servo_small (θ := θ)
      (d := s.dev.syncNoted src ((parsePtp msg).stamp + (parsePtp msg).correction) (s.dev.convert stamp)) hs htest hsmall hst
    exact ⟨hoffset, hinteg, hinc, hkeep⟩
  · refine up_completes (exec_ptpSyncReceive p src msg stamp s) ha ?_
    rw [Dev.ptpSync_followed hk hf hl hne, htwo, if_neg Bool.false_ne_true, ← hθ]
    exact Dev.servo_large hs htest hlarge hst
  · refine up_completes (exec_ptpFollowUpReceive p msg s) ha ?_
    rw [Dev.ptpFollowUp_kept hk hf ht hq, ← hθ]
    obtain ⟨hoffset, hinteg, hinc, -, htwo⟩ := Dev.servo_small (θ := θ)
      (d := s.dev.followUpNoted ((parsePtp msg).stamp + corr + (parsePtp msg).correction) (s.dev.convert stamp)) hs htest hsmall hst
    exact ⟨htwo, hoffset, hinteg, hinc⟩
  · refine up_completes (exec_ptpDelayRespReceive p msg s) ha ?_
    rw [Dev.ptpDelayResp_measured hk hf hd href hq h3 hid hpath h0]
    exact ⟨rfl, rfl, ((Dev.KeepsRegs.refl _ _).of_regs (Dev.setAlm_regs _ _)).setNat _ _ _ _ (.head _)⟩
  · exact up_completes (exec_ptpAnnounceReceive p msg s) ha (Dev.ptpAnnounce_reads hp hk hon hdom hm hf hl hne hst)
  · exact up_completes (exec_ptpSyncTimeout s) ha (Dev.ptpSyncTimeout_due h0 h4 hr)
  · subst hl
    exact up_completes (exec_ptpAnnounceTimeout s) ha (Dev.ptpAnnounceTimeout_reads hne hf hm hr)

end Sys2Proof.Machine
end

