-- ==== Sys2Proof/Proofs/CommandFrame.lean ====
section
/-! What a command can do besides its effect on the module: the write of a line, the start of BOOT, the stop at an unlocked test access port
(R383, R404, R525, R526). -/

namespace Sys2Proof.Machine

/-! ### The octets of memory after an access (R383) -/

/-- Memory after an access: as it was, or with one line written. -/
def LineWritten (mem mem' : List Host.Cell) : Prop := mem' = mem ∨ ∃ a l, mem' = memWrite mem a l

theorem LineWritten.wf {mem mem' : List Host.Cell} (h : LineWritten mem mem') (hwf : Memory.wf mem) : Memory.wf mem' := by
  obtain rfl | ⟨a, l, rfl⟩ := h
  · exact hwf
  · exact memWrite_wf mem a l hwf

/-- A choice between two accesses writes at most one line where each of them does. -/
theorem LineWritten.ite {mem : List Host.Cell} {p : Prop} [Decidable p] {x y : List Host.Cell × Dev} (hx : LineWritten mem x.1)
    (hy : LineWritten mem y.1) : LineWritten mem (if p then x else y).1 := by
  split
  · exact hx
  · exact hy

/-- A line that a function holds in its own state (bulk and output delay rings, law 0 copies, the recorder's ring) leaves memory alone. -/
theorem Dev.lineSet_mem (mem : List Host.Cell) (a : Nat) (l : Octets) (d : Dev) : LineWritten mem (d.lineSet mem a l).1 :=
  .ite (.inl rfl) (.ite (.inl rfl) (.ite (.inl rfl) (.ite (.inl rfl) (.inr ⟨_, _, rfl⟩))))

/-- Of the accesses that complete, only a write inside its requester's regions reaches memory. -/
theorem Dev.accessComplete_mem (mem : List Host.Cell) (c err : Nat) (d : Dev) : LineWritten mem (d.accessComplete mem c err).1 := by
  unfold Dev.accessComplete
  split
  · exact .inl rfl
  · split
    · exact .inl rfl
    · exact .ite (.inl rfl) (.ite (lineSet_mem _ _ _ _) (.ite (.inl rfl) (.ite (.inl rfl) (.inl rfl))))

/-! ### What `exec` can answer -/

/-- The test access port shifts every instruction but a debug or test one while it is not locked (R525, R526). -/
theorem Dev.tapShift_eq_none {op : JtagOp} {d : Dev} (h : d.tapShift op = none) : op = .other ∧ d.nat Reg.jtagState ≠ 0 := by
  cases op with
  | other => exact ⟨rfl, fun hlocked => by simp [tapShift, hlocked] at h⟩
  | idcode | bypass | sample => cases h

/-- A command that acts on the module only under a guard leaves the queue and memory in both cases. -/
theorem guarded_leaves (s : State) (b : Bool) (d : Dev) :
    ∃ e, (if b then Host.Outcome.next { s with dev := d } else .next s : Host.Outcome State Fault Refusal) = .next { s with dev := e } := by
  cases b
  · exact ⟨s.dev, rfl⟩
  · exact ⟨d, rfl⟩

theorem exec_jtagInstruction_cases (op : JtagOp) (s : State) :
    (∃ d, exec (.jtagInstruction op) s = .next { s with dev := d }) ∨
      (stops (.jtagInstruction op) s ∧ exec (.jtagInstruction op) s = .refused .debugUnit) := by
  show (∃ d, execJtagInstruction op s = _) ∨ (_ ∧ execJtagInstruction op s = _)
  unfold execJtagInstruction
  cases hlive : s.dev.live with
  | false => exact .inl ⟨s.dev, rfl⟩
  | true =>
    cases hshift : s.dev.tapShift op with
    | some d => exact .inl ⟨d, rfl⟩
    | none =>
      obtain ⟨rfl, hunlocked⟩ := Dev.tapShift_eq_none hshift
      exact .inr ⟨⟨rfl, hlive, hunlocked⟩, rfl⟩

theorem exec_dramAccessComplete_cases (c err : Nat) (s : State) :
    (∃ d, exec (.dramAccessComplete c err) s = .next { s with dev := d }) ∨
      exec (.dramAccessComplete c err) s =
        .next { s with mem := (s.dev.accessComplete s.mem c err).1, dev := (s.dev.accessComplete s.mem c err).2 } := by
  show (∃ d, execDramAccessComplete c err s = _) ∨ execDramAccessComplete c err s = _
  unfold execDramAccessComplete
  split
  · exact .inr rfl
  · exact .inl ⟨s.dev, rfl⟩

theorem exec_bootComplete_cases (ms : Nat) (eeprom : Octets) (s : State) :
    (∃ d, exec (.bootComplete ms eeprom) s = .next { s with dev := d }) ∨
      ∃ d, exec (.bootComplete ms eeprom) s = .next { s with mem := [], dev := d } := by
  show (∃ d, execBootComplete ms eeprom s = _) ∨ ∃ d, execBootComplete ms eeprom s = _
  unfold execBootComplete
  split
  · exact .inr ⟨_, rfl⟩
  · exact .inl ⟨s.dev, rfl⟩

/-- What a command can do: act on the module alone; complete an access of DRAM; empty memory in BOOT; stop. Requests and cells that read
memory act under a guard, every other command through `State.run`. -/
theorem exec_cases (i : Instr) (s : State) :
    (∃ d, exec i s = .next { s with dev := d }) ∨
      (∃ c err, i = .dramAccessComplete c err ∧ exec i s =
        .next { s with mem := (s.dev.accessComplete s.mem c err).1, dev := (s.dev.accessComplete s.mem c err).2 }) ∨
      (∃ ms eeprom d, i = .bootComplete ms eeprom ∧ exec i s = .next { s with mem := [], dev := d }) ∨
      (stops i s ∧ exec i s = .refused .debugUnit) := by
  cases i
  case dramAccessComplete c err => exact (exec_dramAccessComplete_cases c err s).imp_right fun h => .inl ⟨c, err, rfl, h⟩
  case bootComplete ms eeprom => exact (exec_bootComplete_cases ms eeprom s).imp_right fun ⟨d, h⟩ => .inr (.inl ⟨ms, eeprom, d, rfl, h⟩)
  case jtagInstruction op => exact (exec_jtagInstruction_cases op s).imp_right fun h => .inr (.inr h)
  case read | write | readMulti | writeMulti | blockBegin | blockData | blockEnd | blockAbort | subscribe | unsubscribe | hostNotice | echo |
      calOpen | calAdd | calClose | calCancel | calStatus | calList | calAttach | calPeek | unknownService | canKeepalive |
      dradaControlCell | mirrorWrite =>
    exact .inl (guarded_leaves s _ _)
  all_goals exact .inl ⟨_, rfl⟩

/-! ### The step -/

theorem exec_keeps_sound {i : Instr} {s t : State} (hs : s.Sound) (h : exec i s = .next t) : t.Sound := by
  obtain ⟨d, he⟩ | ⟨c, err, -, he⟩ | ⟨ms, eeprom, d, -, he⟩ | ⟨-, he⟩ := exec_cases i s <;> cases h.symm.trans he
  · exact hs
  · exact (s.dev.accessComplete_mem s.mem c err).wf hs
  · exact reset_memory_wf

theorem idle_mem (s : State) : (idle s).mem = s.mem := by
  unfold idle
  split <;> rfl

/-- Settles O57: an idle step leaves memory, and a command leaves it, writes one line in canonical form, or empties it. -/
theorem stepKeepsSound : Obligations.StepKeepsSound := by
  intro s t hs h
  unfold step at h
  split at h
  · cases h
    rw [State.Sound, idle_mem]
    exact hs
  next i rest _ => exact exec_keeps_sound (s := { s with pending := rest }) hs h

/-- Settles O58, by what a command can do. -/
theorem commandsLeaveDram : Obligations.CommandsLeaveDram := by
  intro i s
  obtain ⟨d, he⟩ | ⟨c, err, hi, he⟩ | ⟨ms, eeprom, d, hi, he⟩ | ⟨hstops, he⟩ := exec_cases i s
  · refine ⟨fun t ht => ?_, .inl ⟨_, he⟩⟩
    cases he.symm.trans ht
    exact ⟨rfl, fun _ _ _ => rfl⟩
  · refine ⟨fun t ht => ?_, .inl ⟨_, he⟩⟩
    cases he.symm.trans ht
    exact ⟨rfl, fun hdram => absurd hi (hdram c err)⟩
  · refine ⟨fun t ht => ?_, .inl ⟨_, he⟩⟩
    cases he.symm.trans ht
    exact ⟨rfl, fun _ hboot => absurd hi (hboot ms eeprom)⟩
  · refine ⟨fun t ht => ?_, .inr ⟨hstops, he⟩⟩
    cases he.symm.trans ht

end Sys2Proof.Machine
end

