-- ==== Sys2Proof/Proofs/HeadsetPlug.lean ====
section
/-! An insertion, a removal, a classification and the button of the headset port: HeadsetType, HeadsetButton and HeadsetMicOpen (R366, R367). -/

namespace Sys2Proof.Machine

namespace Dev

variable {d : Dev} {type : Nat} {pressed : Bool}

/-! ### Flags -/

/-- Flags read alike where the lists of entries are the same. -/
theorem flag_congr {e : Dev} (h : e.regs = d.regs) (r : Row) (i : Nat) : e.flag r i = d.flag r i := by simp only [flag, nat_congr h]

/-! ### The microphone (R367) -/

/-- HeadsetMicOpen as the plug, the button mode, the button and the toggle have it. -/
def micByMode (d : Dev) : Bool := d.nat Reg.headsetType == 2 && match d.nat Reg.headsetButtonMode with
  | 0 => true
  | 1 => d.flag Reg.headsetButton
  | _ => d.headset.toggle

/-- HeadsetMicOpen brought up to date. -/
def micSet (d : Dev) : Dev := d.setFlag Reg.headsetMicOpen d.micByMode

/-- Beside HeadsetMicOpen, an update may only note the date from which the microphone is heard. -/
theorem micUpdate_eq (was : Bool) (d : Dev) :
    d.micUpdate was = if d.micSet.micHeard && !was then
      { d.micSet with headset := { d.micSet.headset with micOpenAt := some d.micSet.mscNow } } else d.micSet := rfl

theorem micUpdate_regs (was : Bool) (d : Dev) : (d.micUpdate was).regs = d.micSet.regs := by
  rw [micUpdate_eq]
  split <;> rfl

theorem micUpdate_plugged (was : Bool) (d : Dev) : (d.micUpdate was).headset.plugged = d.headset.plugged := by
  rw [micUpdate_eq]
  split <;> rfl

theorem micUpdate_measured (was : Bool) (d : Dev) : (d.micUpdate was).headset.measured = d.headset.measured := by
  rw [micUpdate_eq]
  split <;> rfl

theorem micUpdate_keepsRegs (was : Bool) (d : Dev) : KeepsRegs [Reg.headsetMicOpen.key] d (d.micUpdate was) :=
  ((KeepsRegs.refl _ d).setFlag Reg.headsetMicOpen d.micByMode 0 (.head _)).of_regs (micUpdate_regs was d)

theorem micUpdate_micOpen (was : Bool) (d : Dev) : (d.micUpdate was).flag Reg.headsetMicOpen = d.micByMode := by
  rw [flag_congr (micUpdate_regs was d), micSet, flag_setFlag_same]

/-! ### The plug (R366) -/

/-- The entries that a change of the plug writes. -/
def plugKeys : List Nat := [Reg.headsetType.key, Reg.headsetMicOpen.key]

/-- HeadsetType changed, with the start of the headphones' fade, before the microphone follows. -/
def plugTyped (type : Nat) (d : Dev) : Dev :=
  (if d.nat Reg.headsetType = 0 then { d with headset := { d.headset with hpAt := some d.mscNow } } else d).setNat Reg.headsetType type

theorem plugTyped_keepsRegs (type : Nat) (d : Dev) : KeepsRegs [Reg.headsetType.key] d (d.plugTyped type) := by
  unfold plugTyped
  split
  · exact ((KeepsRegs.refl _ d).of_regs rfl).setNat _ _ _ _ (.head _)
  · exact (KeepsRegs.refl _ d).setNat _ _ _ _ (.head _)

theorem plugTyped_type (type : Nat) (d : Dev) : (d.plugTyped type).nat Reg.headsetType = type := nat_setNat_same _ _ _ _ _

theorem plugTyped_plugged (type : Nat) (d : Dev) : (d.plugTyped type).headset.plugged = d.headset.plugged := by
  unfold plugTyped
  split <;> rfl

theorem plugTyped_measured (type : Nat) (d : Dev) : (d.plugTyped type).headset.measured = d.headset.measured := by
  unfold plugTyped
  split <;> rfl

theorem setPlug_same (h : d.nat Reg.headsetType = type) : d.setPlug type = d := if_pos h

/-- Another type is told once the microphone has followed it. -/
theorem setPlug_other (h : d.nat Reg.headsetType ≠ type) :
    Told ((d.plugTyped type).micUpdate d.micHeard) (d.setPlug type) := by
  rw [show d.setPlug type = ((d.plugTyped type).micUpdate d.micHeard).notice 0x9101 type from if_neg h]
  exact told_notice _ _ _

theorem setPlug_type (type : Nat) (d : Dev) : (d.setPlug type).nat Reg.headsetType = type := by
  by_cases h : d.nat Reg.headsetType = type
  · rw [setPlug_same h, h]
  · rw [(setPlug_other h).nat _ _ _ (by decide), (micUpdate_keepsRegs _ _).nat _ _ _ (by decide) (by decide), plugTyped_type]

theorem setPlug_keepsRegs (type : Nat) (d : Dev) : KeepsRegs plugKeys d (d.setPlug type) := by
  by_cases h : d.nat Reg.headsetType = type
  · rw [setPlug_same h]
    exact .refl _ d
  · have htyped : KeepsRegs plugKeys d (d.plugTyped type) := (plugTyped_keepsRegs type d).mono (by decide)
    have hmic : KeepsRegs plugKeys _ ((d.plugTyped type).micUpdate d.micHeard) := (micUpdate_keepsRegs _ _).mono (by decide)
    exact (htyped.trans hmic).told (setPlug_other h)

theorem setPlug_plugged (type : Nat) (d : Dev) : (d.setPlug type).headset.plugged = d.headset.plugged := by
  by_cases h : d.nat Reg.headsetType = type
  · rw [setPlug_same h]
  · rw [(setPlug_other h).headset, micUpdate_plugged, plugTyped_plugged]

theorem setPlug_measured (type : Nat) (d : Dev) : (d.setPlug type).headset.measured = d.headset.measured := by
  by_cases h : d.nat Reg.headsetType = type
  · rw [setPlug_same h]
  · rw [(setPlug_other h).headset, micUpdate_measured, plugTyped_measured]

/-- A plug pulled closes the microphone. -/
theorem setPlug_none_micOpen (h : d.nat Reg.headsetType ≠ 0) : (d.setPlug 0).flag Reg.headsetMicOpen = false := by
  rw [(setPlug_other h).flag _ _ (by decide), micUpdate_micOpen, micByMode, plugTyped_type]
  rfl

/-! ### The commands of the plug (R366) -/

theorem jackChange_inserted (ha : d.power.state.answers = true) (h : d.headset.plugged = false) :
    d.jackChange true = { d with headset := { d.headset with plugged := true, jackSince := d.clock, measured := false } } := by
  simp [jackChange, ha, h]

/-- The button released and the toggle cleared by a removal, before HeadsetType follows. -/
def unplugged (d : Dev) : Dev := { d.setFlag Reg.headsetButton false with headset := { d.headset with plugged := false, toggle := false } }

theorem jackChange_removed (ha : d.power.state.answers = true) (h : d.headset.plugged = true) :
    d.jackChange false = d.unplugged.setPlug 0 := by
  simp [jackChange, ha, h, unplugged]

theorem jackChange_repeated (inserted : Bool) (h : d.headset.plugged = inserted) : d.jackChange inserted = d := if_pos (.inr h)

theorem unplugged_keepsRegs (d : Dev) : KeepsRegs [Reg.headsetButton.key] d d.unplugged :=
  ((KeepsRegs.refl _ d).setFlag Reg.headsetButton false 0 (.head _)).of_regs rfl

theorem unplugged_button (d : Dev) : d.unplugged.flag Reg.headsetButton = false :=
  flag_setFlag_same d Reg.headsetButton false 0

/-- What a removal leaves: no plug, no button pressed, and no open microphone where there was a plug. -/
theorem removed_reads (d : Dev) :
    (d.unplugged.setPlug 0).headset.plugged = false ∧ (d.unplugged.setPlug 0).nat Reg.headsetType = 0 ∧
      (d.unplugged.setPlug 0).flag Reg.headsetButton = false ∧
      (d.nat Reg.headsetType ≠ 0 → (d.unplugged.setPlug 0).flag Reg.headsetMicOpen = false) ∧
      KeepsRegs [Reg.headsetType.key, Reg.headsetButton.key, Reg.headsetMicOpen.key] d (d.unplugged.setPlug 0) := by
  have htype : d.unplugged.nat Reg.headsetType = d.nat Reg.headsetType := (unplugged_keepsRegs d).nat _ _ _ (by decide) (by decide)
  refine ⟨setPlug_plugged _ _, setPlug_type _ _, ?_, fun h => setPlug_none_micOpen (htype ▸ h), ?_⟩
  · rw [(setPlug_keepsRegs 0 d.unplugged).flag _ _ (by decide) (by decide), unplugged_button]
  · exact ((unplugged_keepsRegs d).mono (by decide)).trans ((setPlug_keepsRegs 0 _).mono (by decide))

/-- MIC_IN measured at a due moment, before HeadsetType follows. -/
def measuredAt (due : Nat) (d : Dev) : Dev := { d.advanceTo due with headset := { (d.advanceTo due).headset with measured := true } }

theorem measuredAt_keepsRegs (ks : List Nat) (due : Nat) (d : Dev) : KeepsRegs ks d (d.measuredAt due) :=
  (KeepsRegs.refl ks d).of_regs (advanceTo_regs due d)

theorem measuredAt_plugged (due : Nat) (d : Dev) : (d.measuredAt due).headset.plugged = d.headset.plugged := by
  show (d.advanceTo due).headset.plugged = d.headset.plugged
  rw [advanceTo_headset]

theorem micMeasure_due (hp : d.headset.plugged = true) (hm : d.headset.measured = false)
    (hd : d.Reaches (d.headset.jackSince + msCycles 100)) (uV : Nat) :
    d.micMeasure uV = (d.measuredAt (d.headset.jackSince + msCycles 100)).setPlug (if uV < 250000 then 1 else 2) := by
  rw [micMeasure, if_neg (by simp [hp, hm]), onDue_eq _ _ _ hd]
  rfl

theorem micMeasure_idle (uV : Nat) (h : d.headset.plugged = false ∨ d.headset.measured = true) : d.micMeasure uV = d :=
  if_pos (by simpa using h)

theorem headsetReclassify_plugged (h : d.nat Reg.headsetType = 1) : d.headsetReclassify = d.setPlug 2 := if_pos h

theorem headsetReclassify_idle (h : d.nat Reg.headsetType ≠ 1) : d.headsetReclassify = d := if_neg h

/-! ### The button (R367) -/

/-- A press in mode 2 turns the toggle. -/
def toggleByPress (pressed : Bool) (d : Dev) : Dev :=
  if pressed ∧ d.nat Reg.headsetButtonMode = 2 then { d with headset := { d.headset with toggle := !d.headset.toggle } } else d

/-- The button taken, before the microphone follows. -/
def buttonTaken (pressed : Bool) (d : Dev) : Dev := (d.setFlag Reg.headsetButton pressed).toggleByPress pressed

theorem headsetButton_idle (h : d.nat Reg.headsetType ≠ 2 ∨ d.flag Reg.headsetButton = pressed) : d.headsetButton pressed = d := if_pos h

/-- A change of the button is told once the microphone has followed it. -/
theorem headsetButton_told (ht : d.nat Reg.headsetType = 2) (h : d.flag Reg.headsetButton ≠ pressed) :
    Told ((d.buttonTaken pressed).micUpdate d.micHeard) (d.headsetButton pressed) := by
  rw [show d.headsetButton pressed = ((d.buttonTaken pressed).micUpdate d.micHeard).notice 0x9102 (b2n pressed) from
    if_neg (not_or.2 ⟨not_not.2 ht, h⟩)]
  exact told_notice _ _ _

theorem toggleByPress_regs (pressed : Bool) (d : Dev) : (d.toggleByPress pressed).regs = d.regs := by
  unfold toggleByPress
  split <;> rfl

theorem toggleByPress_toggle (pressed : Bool) (d : Dev) : (d.toggleByPress pressed).headset.toggle =
    if pressed ∧ d.nat Reg.headsetButtonMode = 2 then !d.headset.toggle else d.headset.toggle := by
  unfold toggleByPress
  split <;> rfl

theorem buttonTaken_keepsRegs (pressed : Bool) (d : Dev) : KeepsRegs [Reg.headsetButton.key] d (d.buttonTaken pressed) :=
  ((KeepsRegs.refl _ d).setFlag Reg.headsetButton pressed 0 (.head _)).of_regs (toggleByPress_regs _ _)

theorem buttonTaken_button (pressed : Bool) (d : Dev) : (d.buttonTaken pressed).flag Reg.headsetButton = pressed := by
  rw [buttonTaken, flag_congr (toggleByPress_regs _ _), flag_setFlag_same]

/-- The microphone after a press or a release: open in mode 0, open while pressed in mode 1, by the toggle in mode 2. -/
theorem buttonTaken_micByMode (ht : d.nat Reg.headsetType = 2) :
    (d.buttonTaken pressed).micByMode = match d.nat Reg.headsetButtonMode with
      | 0 => true
      | 1 => pressed
      | 2 => if pressed then !d.headset.toggle else d.headset.toggle
      | _ => d.headset.toggle := by
  have hset := (KeepsRegs.refl [Reg.headsetButton.key] d).setFlag Reg.headsetButton pressed 0 (.head _)
  have hmode : (d.setFlag Reg.headsetButton pressed).nat Reg.headsetButtonMode = d.nat Reg.headsetButtonMode :=
    hset.nat _ _ _ (by decide) (by decide)
  have htype : (d.buttonTaken pressed).nat Reg.headsetType = 2 := ((buttonTaken_keepsRegs pressed d).nat _ _ _ (by decide) (by decide)).trans ht
  have htoggle : (d.buttonTaken pressed).headset.toggle =
      if pressed ∧ d.nat Reg.headsetButtonMode = 2 then !d.headset.toggle else d.headset.toggle :=
    (toggleByPress_toggle _ _).trans (by rw [hmode]; rfl)
  rw [micByMode, htype, buttonTaken_button, (buttonTaken_keepsRegs pressed d).nat Reg.headsetButtonMode _ _ (by decide) (by decide), htoggle]
  generalize d.nat Reg.headsetButtonMode = mode
  match mode with
  | 0 | 1 => rfl
  | 2 => simp
  | n + 3 => simp

theorem headsetButton_reads (ht : d.nat Reg.headsetType = 2) (h : d.flag Reg.headsetButton ≠ pressed) :
    (d.headsetButton pressed).flag Reg.headsetButton = pressed ∧
      (d.headsetButton pressed).flag Reg.headsetMicOpen = (match d.nat Reg.headsetButtonMode with
        | 0 => true
        | 1 => pressed
        | 2 => if pressed then !d.headset.toggle else d.headset.toggle
        | _ => d.headset.toggle) ∧
      KeepsRegs [Reg.headsetButton.key, Reg.headsetMicOpen.key] d (d.headsetButton pressed) := by
  have htold := headsetButton_told ht h
  have hmic := micUpdate_keepsRegs d.micHeard (d.buttonTaken pressed)
  refine ⟨?_, ?_, ?_⟩
  · rw [htold.flag _ _ (by decide), hmic.flag _ _ (by decide) (by decide), buttonTaken_button]
  · rw [htold.flag _ _ (by decide), micUpdate_micOpen, buttonTaken_micByMode ht]
  · exact (((buttonTaken_keepsRegs pressed d).mono (by decide)).trans (hmic.mono (by decide))).told htold

end Dev

/-! ### The commands of the headset port -/

theorem exec_jackDetectChange (inserted : Bool) (s : State) :
    exec (.jackDetectChange inserted) s = s.run (Dev.whenUp (Dev.jackChange inserted)) := rfl

theorem exec_micBiasMeasure (uV : Nat) (s : State) : exec (.micBiasMeasure uV) s = s.run (Dev.whenUp (Dev.micMeasure uV)) := rfl

theorem exec_headsetReclassify (s : State) : exec .headsetReclassify s = s.run (Dev.whenUp Dev.headsetReclassify) := rfl

theorem exec_headsetButton (pressed : Bool) (s : State) :
    exec (.headsetButton pressed) s = s.run (Dev.whenUp (Dev.headsetButton pressed)) := rfl

/-- Settles O28: each command by its guard; what it does by the change of the plug and the update of the microphone. -/
theorem headsetPlug : Obligations.HeadsetPlug := by
  intro s ha
  refine ⟨fun hp => ?_, fun hp => ?_, fun uV hp hm hd => ?_, fun h1 => ?_, fun inserted h => ?_, fun uV h => ?_, fun h => ?_,
    fun pressed h => ?_, fun pressed ht h => ?_⟩
  · exact up_completes (exec_jackDetectChange true s) ha (Dev.jackChange_inserted (Dev.answers_state ha) hp)
  · refine up_completes (exec_jackDetectChange false s) ha ?_
    rw [Dev.jackChange_removed (Dev.answers_state ha) hp]
    exact Dev.removed_reads s.dev
  · refine up_completes (exec_micBiasMeasure uV s) ha ?_
    rw [Dev.micMeasure_due hp hm hd]
    exact ⟨Dev.setPlug_measured _ _, (Dev.setPlug_plugged _ _).trans ((Dev.measuredAt_plugged _ _).trans hp), Dev.setPlug_type _ _,
      (Dev.measuredAt_keepsRegs _ _ _).trans (Dev.setPlug_keepsRegs _ _)⟩
  · refine up_completes (exec_headsetReclassify s) ha ?_
    rw [Dev.headsetReclassify_plugged h1]
    exact ⟨Dev.setPlug_type _ _, Dev.setPlug_keepsRegs _ _, Dev.setPlug_plugged _ _⟩
  · exact up_completes (exec_jackDetectChange inserted s) ha (Dev.jackChange_repeated inserted h)
  · exact up_completes (exec_micBiasMeasure uV s) ha (Dev.micMeasure_idle uV h)
  · exact up_completes (exec_headsetReclassify s) ha (Dev.headsetReclassify_idle h)
  · exact up_completes (exec_headsetButton pressed s) ha (Dev.headsetButton_idle h)
  · exact up_completes (exec_headsetButton pressed s) ha (Dev.headsetButton_reads ht h)

end Sys2Proof.Machine
end

