-- ==== Sys2Proof/Proofs/RecorderTriggers.lean ====
section
/-! A trigger cause in each state of the recorder, and the end of a post-trigger recording (R374, R375, R377). -/

namespace Sys2Proof.Machine

namespace Dev

variable {bit : Nat} {d : Dev}

/-! ### A trigger cause (R374, R375) -/

/-- Whether a cause is enabled: a detected-in-data fault, a tracing mismatch and a freeze always, the others by RecorderTriggerMask. -/
def triggerOn (bit : Nat) (d : Dev) : Bool :=
  bit = 0 ∨ bit = 1 ∨ bit = 15 ∨ (bit < 5 ∧ (d.nat Reg.recorderTriggerMask).testBit bit)

theorem triggerOn_iff : d.triggerOn bit = true ↔
    bit = 0 ∨ bit = 1 ∨ bit = 15 ∨ (bit < 5 ∧ (d.nat Reg.recorderTriggerMask).testBit bit = true) := decide_eq_true_iff

/-- A trigger stored and the post-trigger recording begun, before it is told. -/
def triggerStored (bit : Nat) (d : Dev) : Dev :=
  ((d.setNat Reg.recorderTriggerDate d.mscNow).setNat Reg.recorderTriggerCause (2 ^ bit)).setNat Reg.recorderState 2

theorem recTrigger_disabled (h : d.triggerOn bit = false) : d.recTrigger bit = d :=
  if_pos (c := (!d.triggerOn bit) = true) (by rw [h]; rfl)

theorem recTrigger_enabled (h : d.triggerOn bit = true) : d.recTrigger bit = match d.nat Reg.recorderState with
    | 1 => (d.triggerStored bit).notice 0x9201 (2 ^ bit * 65536)
    | 0 => d
    | _ => d.bump Reg.recorderTriggersMissed :=
  if_neg (c := (!d.triggerOn bit) = true) (by rw [h]; exact Bool.false_ne_true)

theorem recTrigger_recording (h : d.triggerOn bit = true) (hs : d.nat Reg.recorderState = 1) : Told (d.triggerStored bit) (d.recTrigger bit) := by
  rw [recTrigger_enabled h, hs]
  exact told_notice _ _ _

theorem recTrigger_missed (h : d.triggerOn bit = true) (hs : 2 ≤ d.nat Reg.recorderState) : d.recTrigger bit = d.bump Reg.recorderTriggersMissed := by
  rw [recTrigger_enabled h]
  split
  · omega
  · omega
  · rfl

theorem triggerStored_state (bit : Nat) (d : Dev) : (d.triggerStored bit).nat Reg.recorderState = 2 := nat_setNat_same _ _ _ _ _

theorem triggerStored_cause (bit : Nat) (d : Dev) : (d.triggerStored bit).nat Reg.recorderTriggerCause = 2 ^ bit := by
  rw [triggerStored, nat_setNat_ne _ _ _ _ _ _ _ _ (by decide), nat_setNat_same]

theorem triggerStored_date (bit : Nat) (d : Dev) : (d.triggerStored bit).nat Reg.recorderTriggerDate = d.mscNow := by
  rw [triggerStored, nat_setNat_ne _ _ _ _ _ _ _ _ (by decide), nat_setNat_ne _ _ _ _ _ _ _ _ (by decide), nat_setNat_same]

theorem triggerStored_keepsRegs (bit : Nat) (d : Dev) :
    KeepsRegs [Reg.recorderState.key, Reg.recorderTriggerDate.key, Reg.recorderTriggerCause.key] d (d.triggerStored bit) :=
  (((KeepsRegs.refl _ d).setNat _ _ _ _ (by decide)).setNat _ _ _ _ (by decide)).setNat _ _ _ _ (by decide)

/-! ### The end of a post-trigger recording (R374, R377) -/

/-- RecorderOldest set to the oldest frame that the ring still holds. -/
def oldestNoted (d : Dev) : Dev :=
  d.setNat Reg.recorderOldest (max d.recd.startTick (d.nat Reg.recorderNewest + 1 - d.recSamples))

/-- The sources of a frozen recording's channels, as RecorderFrozenSources holds them. -/
def recSources (d : Dev) : Val := .bytes ((List.range 64).flatMap fun j => toBE 2 (d.nat Reg.recChannel 0 j))

/-- The recording frozen with its oldest frame and its sources, before it is told. -/
def frozen (d : Dev) : Dev := (d.oldestNoted.setVal Reg.recorderFrozenSources d.oldestNoted.recSources).setNat Reg.recorderState 3

theorem recPostEnd_over (hs : d.nat Reg.recorderState = 2) (hm : d.recLast < d.mscNow) : Told d.frozen d.recPostEnd := by
  rw [show d.recPostEnd = d.frozen.notice 0x9202 0 from if_neg (not_or.2 ⟨not_not.2 hs, Nat.not_le.2 hm⟩)]
  exact told_notice _ _ _

theorem recPostEnd_idle (h : d.nat Reg.recorderState ≠ 2 ∨ d.mscNow ≤ d.recLast) : d.recPostEnd = d := if_pos h

theorem frozen_state (d : Dev) : d.frozen.nat Reg.recorderState = 3 := nat_setNat_same _ _ _ _ _

theorem oldestNoted_oldest (d : Dev) :
    d.oldestNoted.nat Reg.recorderOldest = max d.recd.startTick (d.nat Reg.recorderNewest + 1 - d.recSamples) := nat_setNat_same _ _ _ _ _

theorem oldestNoted_keepsRegs (d : Dev) : KeepsRegs [Reg.recorderOldest.key] d d.oldestNoted :=
  (KeepsRegs.refl _ d).setNat _ _ _ _ (.head _)

theorem frozen_from_oldest (d : Dev) : KeepsRegs [Reg.recorderState.key, Reg.recorderFrozenSources.key] d.oldestNoted d.frozen :=
  ((KeepsRegs.refl _ _).setVal _ _ _ _ (by decide)).setNat _ _ _ _ (by decide)

theorem frozen_oldest (d : Dev) :
    d.frozen.nat Reg.recorderOldest = max d.recd.startTick (d.nat Reg.recorderNewest + 1 - d.recSamples) :=
  ((frozen_from_oldest d).nat _ _ _ (by decide) (by decide)).trans (oldestNoted_oldest d)

theorem frozen_keepsRegs (d : Dev) :
    KeepsRegs [Reg.recorderState.key, Reg.recorderOldest.key, Reg.recorderFrozenSources.key] d d.frozen :=
  ((oldestNoted_keepsRegs d).mono (by decide)).trans ((frozen_from_oldest d).mono (by decide))

end Dev

/-! ### The commands of the recorder -/

theorem exec_recorderTrigger (bit : Nat) (s : State) : exec (.recorderTrigger bit) s = s.run (Dev.whenUp (Dev.recTrigger bit)) := rfl

theorem exec_recorderPostTriggerEnd (s : State) : exec .recorderPostTriggerEnd s = s.run (Dev.whenUp Dev.recPostEnd) := rfl

/-- Settles O30: a cause by the recorder's state, and the freeze by the tick of the last frame. -/
theorem recorderTriggers : Obligations.RecorderTriggers := by
  intro s ha
  refine ⟨fun bit hon => ⟨fun hs => ?_, fun hs => ?_⟩, fun bit h2 h15 hoff => ?_, fun bit hs => ?_, fun hs hm => ?_, fun h => ?_⟩
  · have htold := Dev.recTrigger_recording (Dev.triggerOn_iff.2 hon) hs
    refine up_completes (exec_recorderTrigger bit s) ha ⟨?_, ?_, ?_, (Dev.triggerStored_keepsRegs _ _).told htold⟩
    · exact (htold.nat _ _ _ (by decide)).trans (Dev.triggerStored_state _ _)
    · exact (htold.nat _ _ _ (by decide)).trans (Dev.triggerStored_date _ _)
    · exact (htold.nat _ _ _ (by decide)).trans (Dev.triggerStored_cause _ _)
  · refine up_completes (exec_recorderTrigger bit s) ha ?_
    rw [Dev.recTrigger_missed (Dev.triggerOn_iff.2 hon) hs]
    exact ⟨Dev.nat_bump_same _ _ _ _, (Dev.KeepsRegs.refl _ _).bump _ _ _ (.head _)⟩
  · refine up_completes (exec_recorderTrigger bit s) ha (Dev.recTrigger_disabled ?_)
    rw [← Bool.not_eq_true, Dev.triggerOn_iff]
    rintro (rfl | rfl | rfl | ⟨-, hmask⟩)
    · omega
    · omega
    · exact h15 rfl
    · exact Bool.false_ne_true (hoff.symm.trans hmask)
  · exact up_completes (exec_recorderTrigger bit s) ha (Dev.recTrigger_off bit hs)
  · have htold := Dev.recPostEnd_over hs hm
    refine up_completes (exec_recorderPostTriggerEnd s) ha ⟨?_, ?_, (Dev.frozen_keepsRegs _).told htold⟩
    · exact (htold.nat _ _ _ (by decide)).trans (Dev.frozen_state _)
    · exact (htold.nat _ _ _ (by decide)).trans (Dev.frozen_oldest _)
  · exact up_completes (exec_recorderPostTriggerEnd s) ha (Dev.recPostEnd_idle h)

end Sys2Proof.Machine
end

