-- ==== Sys2Proof/Proofs/DramChannels.lean ====
section
/-! Work in the DRAM channels: what opening a row, completing an access and refreshing leave of the rest of the module (R386 to R392). -/

namespace Sys2Proof.Machine

namespace Dev

variable {β : Type} {p : DramChan → β} {ks ks' : List Nat} {a b d e : Dev} {c : Nat}

/-! ### The entries of the channels -/

/-- Two entries are told apart by their indices or by their sub-indices. -/
theorem key_ne {r r' : Row} {i i' : Nat} (hr : r.sub < 0x100) (hr' : r'.sub < 0x100) (h : r.base + i ≠ r'.base + i' ∨ r.sub ≠ r'.sub) :
    r.key i ≠ r'.key i' := by
  simp only [Row.key, entryKey]
  omega

/-- The entries of a DRAM channel lie between those that telling an event writes. -/
theorem chanKey_untold {r : Row} (hb : r.base = 0xA010) (hs : r.sub < 0x100) (hc : c < 4) : r.key c ∉ tellKeys := by
  simp only [tellKeys, Row.key, entryKey, hb, List.mem_cons, List.not_mem_nil, or_false]
  omega

/-! ### Lines -/

/-- A line reads by its owner's state: the render core, the correction chain or the recorder, and the shape in force. -/
theorem lineOf_congr (hforce : e.force = d.force) (hrend : e.rend = d.rend) (hcorr : e.corr = d.corr) (hrecd : e.recd = d.recd)
    (mem : List Host.Cell) (a : Nat) : e.lineOf mem a = d.lineOf mem a := by
  have hshape (r : Row) (i : Nat) : e.inForce r i = d.inForce r i := by rw [inForce, inForce, hforce]
  have hring : e.ringSamples = d.ringSamples := by rw [ringSamples, ringSamples, fast, fast, fr, fr, hshape]
  have hparts : e.parts = d.parts := hshape _ _
  have houts : e.partOuts = d.partOuts := by
    funext m
    unfold partOuts
    rw [hparts, outs, outs, hshape, hshape, hshape, hshape, hshape]
  have howner : e.law0Owner = d.law0Owner := by
    funext x
    rw [law0Owner, law0Owner, xpAt, xpAt, partBase, partBase, hparts, houts]
  have hchain (m : Nat) : e.chain m = d.chain m := by rw [chain, chain, hcorr]
  unfold lineOf
  simp only [hring, hchain, howner, hrend, hrecd]

/-! ### Work in the channels -/

theorem bump_dram (d : Dev) (r : Row) (i n : Nat) : (d.bump r i n).dram = d.dram := (congrArg Dev.dram (untold_bump d d r i n) :)

theorem peak_dram (d : Dev) (r : Row) (v i : Nat) : (d.peak r v i).dram = d.dram := by
  unfold peak
  split <;> rfl

theorem dchan_congr (h : e.dram.chans = d.dram.chans) (c : Nat) : e.dchan c = d.dchan c := by rw [dchan, h, dchan]

/-- What a change of one channel leaves alone in it, it leaves alone in every channel. -/
theorem setDchan_field {f : DramChan → DramChan} (hf : ∀ x, p (f x) = p x) (c c' : Nat) (d : Dev) :
    p ((d.setDchan c f).dchan c') = p (d.dchan c') := by
  by_cases hc : c = c'
  · subst hc
    by_cases hlt : c < 4
    · rw [setDchan_dchan_same d c f hlt, hf]
    · simp only [dchan, Fixed.get_beyond _ _ _ (Nat.le_of_not_lt hlt)]
  · rw [setDchan_dchan_ne d c c' f hc]

/-- `e` is `d` after work in the DRAM channels: but for what was told, only the channels and the entries of `ks` may differ, and
of every channel `p` stands. -/
structure ChannelWork {β : Type} (p : DramChan → β) (ks : List Nat) (d e : Dev) : Prop where
  rest : untold d e = { d with dram := { d.dram with chans := e.dram.chans } }
  chan : ∀ c, p (e.dchan c) = p (d.dchan c)
  regs : KeepsRegs ks d e

namespace ChannelWork

theorem refl (d : Dev) : ChannelWork p ks d d := ⟨rfl, fun _ => rfl, .refl _ d⟩

theorem trans (h : ChannelWork p ks a b) (h' : ChannelWork p ks b d) : ChannelWork p ks a d := by
  refine ⟨?_, fun c => (h'.chan c).trans (h.chan c), h.regs.trans h'.regs⟩
  calc untold a d = untold a (untold b d) := rfl
    _ = { untold a b with dram := { (untold a b).dram with chans := d.dram.chans } } := by rw [h'.rest]; rfl
    _ = { a with dram := { a.dram with chans := d.dram.chans } } := by rw [h.rest]

theorem mono (h : ChannelWork p ks d e) (hs : ∀ k, k ∈ ks → k ∈ ks') : ChannelWork p ks' d e := ⟨h.rest, h.chan, h.regs.mono hs⟩

/-- The same work, of which less of a channel is said. -/
theorem less (h : ChannelWork p ks d e) {γ : Type} (f : β → γ) : ChannelWork (fun x => f (p x)) ks d e :=
  ⟨h.rest, fun c => congrArg f (h.chan c), h.regs⟩

theorem setDchan (h : ChannelWork p ks d e) (c : Nat) {f : DramChan → DramChan} (hf : ∀ x, p (f x) = p x := by intro; rfl) :
    ChannelWork p ks d (e.setDchan c f) := by
  refine ⟨?_, fun c' => (setDchan_field hf c c' e).trans (h.chan c'), h.regs.of_regs rfl⟩
  calc untold d (e.setDchan c f) = (untold d e).setDchan c f := rfl
    _ = _ := by rw [h.rest]; rfl

/-- An update of what telling may change, and of entries of `ks`. -/
theorem update (h : ChannelWork p ks d e) (hu : untold d b = untold d e) (hregs : KeepsRegs ks d b) : ChannelWork p ks d b := by
  have hdram : b.dram = e.dram := (congrArg Dev.dram hu :)
  exact ⟨by rw [hu, h.rest, hdram], fun c => by rw [dchan_congr (congrArg Dram.chans hdram), h.chan c], hregs⟩

theorem told (h : ChannelWork p ks d e) (ht : Told e b) : ChannelWork p ks d b := h.update (ht.untold_eq d) (h.regs.told ht)

theorem setInt (h : ChannelWork p ks d e) (r : Row) (v : Int) (i : Nat) (hk : r.key i ∈ ks) : ChannelWork p ks d (e.setInt r v i) :=
  h.update rfl (h.regs.setInt r v i 0 hk)

theorem setNat (h : ChannelWork p ks d e) (r : Row) (v i : Nat) (hk : r.key i ∈ ks) : ChannelWork p ks d (e.setNat r v i) :=
  h.update rfl (h.regs.setNat r v i 0 hk)

theorem bump (h : ChannelWork p ks d e) (r : Row) (i n : Nat) (hk : r.key i ∈ ks) : ChannelWork p ks d (e.bump r i n) :=
  h.update (untold_bump d e r i n) (h.regs.bump r i n hk)

theorem peak (h : ChannelWork p ks d e) (r : Row) (v i : Nat) (hk : r.key i ∈ ks) : ChannelWork p ks d (e.peak r v i) := by
  unfold Dev.peak
  split
  · exact h.setNat r v i hk
  · exact h

/-! What stands -/

theorem clock (h : ChannelWork p ks d e) : e.clock = d.clock := (congrArg Dev.clock h.rest :)

theorem perturb (h : ChannelWork p ks d e) : e.perturb = d.perturb := (congrArg Dev.perturb h.rest :)

theorem dram (h : ChannelWork p ks d e) : e.dram = { d.dram with chans := e.dram.chans } := (congrArg Dev.dram h.rest :)

/-- The owners of lines hold them outside the channels. -/
theorem lineOf (h : ChannelWork p ks d e) (mem : List Host.Cell) (a : Nat) : e.lineOf mem a = d.lineOf mem a :=
  have hforce : e.force = d.force := (congrArg Dev.force h.rest :)
  have hrend : e.rend = d.rend := (congrArg Dev.rend h.rest :)
  have hcorr : e.corr = d.corr := (congrArg Dev.corr h.rest :)
  have hrecd : e.recd = d.recd := (congrArg Dev.recd h.rest :)
  lineOf_congr hforce hrend hcorr hrecd mem a

end ChannelWork

/-! ### An access taken from its queue (R386, R387, R392) -/

/-- Opening a row counts at most ActThrottled, and leaves the queues. -/
theorem openRow_work (c : Nat) (r : DramReq) (d : Dev) : ChannelWork DramChan.queue [Reg.actThrottled.key c] d (d.openRow c r) := by
  unfold openRow
  extract_lets place bank rest more hit d1 n d2 d3 close line d4
  have h1 : ChannelWork DramChan.queue [Reg.actThrottled.key c] d d1 := (ChannelWork.refl d).setDchan c
  have h2 : ChannelWork DramChan.queue [Reg.actThrottled.key c] d d2 := h1.setDchan c
  have h3 : ChannelWork DramChan.queue [Reg.actThrottled.key c] d d3 := by
    unfold d3
    split
    · exact h1
    · split
      · exact ((h2.setDchan c).bump Reg.actThrottled c 1 (.head _)).told (told_noticeOnce _ _ _ _)
      · exact h2
  have h4 : ChannelWork DramChan.queue [Reg.actThrottled.key c] d d4 := h3.setDchan c
  split
  · exact h4.setDchan c
  · exact h4.setDchan c

/-- An access out of the queue with its row opened, at the end of its latency. -/
def accessTaken (c i : Nat) (r : DramReq) (d : Dev) : Dev :=
  let e := d.openRow c r
  let e := e.setDchan c fun x => { x with queue := x.queue.eraseIdx i, completedAt := e.clock }
  if isRt r.q && !r.access.write then e.peak Reg.rtLatencyPeak (cyclesToNs (e.clock - r.admitted)) else e

/-- The entries that taking an access may change. -/
def takenKeys (c : Nat) : List Nat := [Reg.rtLatencyPeak.key, Reg.actThrottled.key c]

theorem accessTaken_work (c i : Nat) (r : DramReq) (d : Dev) : ChannelWork (fun _ => ()) (takenKeys c) d (d.accessTaken c i r) := by
  have hopen : ChannelWork (fun _ => ()) (takenKeys c) d (d.openRow c r) := ((openRow_work c r d).less fun _ => ()).mono fun _ => .tail _
  have hout := hopen.setDchan c (f := fun x => { x with queue := x.queue.eraseIdx i, completedAt := (d.openRow c r).clock })
  unfold accessTaken
  dsimp only
  split
  · exact hout.peak Reg.rtLatencyPeak _ 0 (.head _)
  · exact hout

theorem accessTaken_queue (hc : c < 4) (i : Nat) (r : DramReq) (d : Dev) :
    ((d.accessTaken c i r).dchan c).queue = (d.dchan c).queue.eraseIdx i := by
  have hout : (((d.openRow c r).setDchan c fun x => { x with queue := x.queue.eraseIdx i, completedAt := (d.openRow c r).clock }).dchan c).queue =
      (d.dchan c).queue.eraseIdx i := by rw [setDchan_dchan_same _ _ _ hc, (openRow_work c r d).chan c]
  unfold accessTaken
  dsimp only
  split
  · rw [dchan, peak_dram, ← dchan, hout]
  · exact hout

end Dev

end Sys2Proof.Machine
end

