-- ==== Sys2Proof/Proofs/DramAccess.lean ====
section
/-! A DRAM access that completes: a line written, a line read clean, corrected or poisoned, and an access outside its region (R383, R386, R402). -/

namespace Sys2Proof.Machine

/-! ### The octets of a line written -/

/-- A run of octets written one by one reads back. -/
theorem nget_foldl_written (a : Nat) : ∀ (l : Octets) (n : Nat) (m : List Host.Cell) (k : Nat) (hk : k < l.length),
    nget (octet 0) ((l.zipIdx n).foldl (fun m p => nset (octet 0) m (a + p.2) p.1) m) (a + n + k) = l[k] := by
  intro l
  induction l with
  | nil => exact fun n m k hk => absurd hk (Nat.not_lt_zero k)
  | cons x t ih =>
    intro n m k hk
    rw [List.zipIdx_cons, List.foldl_cons]
    cases k with
    | zero =>
      have hrest (q : BitVec 8 × Nat) (hq : q ∈ t.zipIdx (n + 1)) : a + q.2 ≠ a + n := by
        have := List.le_snd_of_mem_zipIdx hq
        omega
      exact (nget_foldl_nset _ a (a + n) hrest _).trans (nget_nset_same _ m (a + n) x)
    | succ k => rw [show a + n + (k + 1) = a + (n + 1) + k by omega, ih (n + 1) _ k (Nat.lt_of_succ_lt_succ hk), List.getElem_cons_succ]

theorem memWrite_same (m : List Host.Cell) (a : Nat) (l : Octets) (k : Nat) (hk : k < l.length) :
    nget (octet 0) (memWrite m a l) (a + k) = l[k] := nget_foldl_written a l 0 m k hk

/-- A line of 64 octets, padded with zeros. -/
def padded (l : Octets) : Octets := (l ++ List.replicate 64 (octet 0)).take 64

theorem padded_length (l : Octets) : (padded l).length = 64 := by simp [padded]

theorem padded_get (l : Octets) {k : Nat} (hk : k < 64) : (padded l)[k]'(by rwa [padded_length]) = l.getD k (octet 0) := by
  simp only [padded, List.getElem_take]
  by_cases h : k < l.length
  · rw [List.getElem_append_left h, List.getD_eq_getElem _ _ h]
  · rw [List.getElem_append_right (Nat.le_of_not_lt h), List.getElem_replicate, List.getD_eq_default _ _ (Nat.le_of_not_lt h)]

/-! ### Where a line lies (R382) -/

/-- A line is told by its address, whatever octet of it the access names. -/
theorem line_of_start (a : Nat) : a / 64 * 64 / 64 = a / 64 := Nat.mul_div_cancel _ (by decide)

theorem dramPlace_channel_lt (a : Nat) : (dramPlace a).1 < 4 := Nat.mod_lt _ (by decide)

namespace Dev

variable {c i : Nat} {d : Dev} {r : DramReq}

/-- A line that memory holds goes there. -/
theorem lineSet_plain {a : Nat} (h : 0x8A000000 ≤ a) (h' : a < 0xBA000000 ∨ (0xBE000000 ≤ a ∧ a < 0xC0000000) ∨ 0x143D60000 ≤ a)
    (mem : List Host.Cell) (l : Octets) (d : Dev) : d.lineSet mem a l = (memWrite mem a (padded l), d) := by
  unfold lineSet
  dsimp only
  rw [if_neg (by omega), if_neg (by omega), if_neg (by omega), if_neg (by omega)]
  rfl

/-! ### What an access ends with (R383, R402) -/

/-- An access outside its requester's regions counted and told. -/
def regionFault (r : DramReq) (d : Dev) : Dev :=
  ({ d with dram := { d.dram with lastLine := if r.access.write then d.dram.lastLine else [], lastPoisoned := false } }.bump
    Reg.dramRegionFaults).notice 0xA00A r.q

/-- A line returned to its reader. -/
def lineRead (mem : List Host.Cell) (a : Nat) (poisoned : Bool) (d : Dev) : Dev :=
  { d with dram := { d.dram with lastLine := d.lineOf mem a, lastPoisoned := poisoned } }

/-- A corrected error counted, in the correction chain's own counter too where the line is one of its own, and told. -/
def correctedRead (c bank q : Nat) (d : Dev) : Dev :=
  let d := (d.bump Reg.channelEccCorrected c).noticeOnce (0xA00300 + c) 0xA003 (c * 65536 + bank)
  if q = 1 ∨ q = 2 then d.bump Reg.correctionEccCorrected else d

theorem poisonCheck_clean {a : Nat} (hb : d.dram.bad.contains (a / 64) = false) (hp : nget? d.perturb.poison (a / 64) = none) :
    d.poisonCheck a false = (false, d) := if_pos (by rw [hb, hp]; rfl)

/-- A line noted as left with a double-bit error, counted and told. -/
def lineLost (a : Nat) (d : Dev) : Dev :=
  (({ d with
    dram := { d.dram with bad := a / 64 :: d.dram.bad.filter (· ≠ a / 64) }
    perturb := { d.perturb with poison := nerase d.perturb.poison (a / 64) } }).bump Reg.channelEccUncorrected (dramPlace (a / 64 * 64)).1).notice 0xA004
      ((dramPlace (a / 64 * 64)).1 * 65536 + (dramPlace (a / 64 * 64)).2.1)

theorem poisonCheck_found (a : Nat) (d : Dev) : d.poisonCheck a true = (true, d.lineLost a) := rfl

theorem lineLost_bad (a : Nat) (d : Dev) : (d.lineLost a).dram.bad.contains (a / 64) = true := by
  rw [lineLost, notice_dram, bump_dram]
  simp

theorem lineLost_counts (a : Nat) (d : Dev) : (d.lineLost a).nat Reg.channelEccUncorrected (dramPlace (a / 64 * 64)).1 =
    (d.nat Reg.channelEccUncorrected (dramPlace (a / 64 * 64)).1 + 1) % 2 ^ 32 := by
  rw [lineLost, notice_nat _ _ _ _ _ _ (chanKey_untold rfl (by decide) (dramPlace_channel_lt _)), nat_bump_same]
  rfl

theorem busError_dram (address master cause : Nat) (d : Dev) : (d.busError address master cause).dram = d.dram := by
  rw [busError, notice_dram, bump_dram, keep_dram, setNat_dram]

/-- A lift-line engine that reads a poisoned line fails with a bus error. -/
theorem poisoned_engine (a : Nat) (d : Dev) : (d.poisoned 6 a).dram = d.dram ∧ KeepsRegs busErrorKeys d (d.poisoned 6 a) := by
  have hbus := busError_leaves (0x1000000000 + a) (2 + Config.tapOwner (a / 64) % 4) 4 (d.engineFails (Config.tapOwner (a / 64) % 4))
  exact ⟨busError_dram _ _ _ _, hbus.2⟩

/-! ### DRAM_ACCESS_COMPLETE by what completes -/

theorem accessComplete_none (h : d.nextAccess c = none) (mem : List Host.Cell) (err : Nat) : d.accessComplete mem c err = (mem, d) := by
  rw [accessComplete, h]

/-- A line about to be written, which mends it. -/
def mended (a : Nat) (d : Dev) : Dev := { d with dram := { d.dram with bad := d.dram.bad.filter (· ≠ a / 64) } }

/-- A line read, with what its reader or the controller then does about an error. -/
def readServed (mem : List Host.Cell) (c err : Nat) (r : DramReq) (d : Dev) : List Host.Cell × Dev :=
  let a := r.access.addr / 64 * 64
  let x := d.poisonCheck a (err == 2)
  let d := x.2.lineRead mem a x.1
  if x.1 then (mem, d.poisoned r.q r.access.addr) else if err = 1 then (mem, d.correctedRead c (dramPlace a).2.1 r.q) else (mem, d)

section
variable (hnext : d.nextAccess c = some i) (hreq : (d.dchan c).queue[i]? = some r)
include hnext hreq

/-- The scheduler's next access, taken from its queue, is refused, written or read. -/
theorem accessComplete_taken (mem : List Host.Cell) (err : Nat) : d.accessComplete mem c err =
    if !regionOk r.q (r.access.addr / 64 * 64) then (mem, (d.accessTaken c i r).regionFault r)
    else if r.access.write then
      ((d.accessTaken c i r).mended (r.access.addr / 64 * 64)).lineSet mem (r.access.addr / 64 * 64) r.access.data
    else (d.accessTaken c i r).readServed mem c err r := by
  unfold accessComplete
  rw [hnext]
  dsimp only
  rw [hreq]
  rfl

theorem accessComplete_outside (hreg : regionOk r.q (r.access.addr / 64 * 64) = false) (mem : List Host.Cell) (err : Nat) :
    d.accessComplete mem c err = (mem, (d.accessTaken c i r).regionFault r) := by
  rw [accessComplete_taken hnext hreq, hreg]
  rfl

theorem accessComplete_write (hreg : regionOk r.q (r.access.addr / 64 * 64) = true) (hw : r.access.write = true) (mem : List Host.Cell) (err : Nat) :
    d.accessComplete mem c err =
      ((d.accessTaken c i r).mended (r.access.addr / 64 * 64)).lineSet mem (r.access.addr / 64 * 64) r.access.data := by
  rw [accessComplete_taken hnext hreq, hreg, hw]
  rfl

theorem accessComplete_read (hreg : regionOk r.q (r.access.addr / 64 * 64) = true) (hw : r.access.write = false) (mem : List Host.Cell) (err : Nat) :
    d.accessComplete mem c err = (d.accessTaken c i r).readServed mem c err r := by
  rw [accessComplete_taken hnext hreq, hreg, hw]
  rfl

theorem accessComplete_clean (hreg : regionOk r.q (r.access.addr / 64 * 64) = true) (hw : r.access.write = false) {err : Nat} (herr : err ≠ 2)
    (hbad : d.dram.bad.contains (r.access.addr / 64) = false) (hpoison : nget? d.perturb.poison (r.access.addr / 64) = none) (mem : List Host.Cell) :
    d.accessComplete mem c err = (mem, if err = 1
      then ((d.accessTaken c i r).lineRead mem (r.access.addr / 64 * 64) false).correctedRead c (dramPlace (r.access.addr / 64 * 64)).2.1 r.q
      else (d.accessTaken c i r).lineRead mem (r.access.addr / 64 * 64) false) := by
  have hwork := accessTaken_work c i r d
  have hclean : (d.accessTaken c i r).poisonCheck (r.access.addr / 64 * 64) (err == 2) = (false, d.accessTaken c i r) := by
    rw [beq_false_of_ne herr]
    exact poisonCheck_clean (by rw [line_of_start, hwork.dram]; exact hbad) (by rw [line_of_start, hwork.perturb]; exact hpoison)
  rw [accessComplete_read hnext hreq hreg hw, readServed, hclean, apply_ite (Prod.mk mem)]
  rfl

theorem accessComplete_lost (hreg : regionOk r.q (r.access.addr / 64 * 64) = true) (hw : r.access.write = false) (mem : List Host.Cell) :
    d.accessComplete mem c 2 = (mem, (((d.accessTaken c i r).lineLost (r.access.addr / 64 * 64)).lineRead mem (r.access.addr / 64 * 64)
      true).poisoned r.q r.access.addr) := by
  rw [accessComplete_read hnext hreq hreg hw, readServed, beq_self_eq_true, poisonCheck_found]
  dsimp only
  rw [if_pos rfl]

end

/-! ### What each completion reads as -/

/-- The entries of a channel but ActThrottled stand when an access is taken. -/
theorem accessTaken_nat {row : Row} {c' : Nat} (hb : row.base = 0xA010) (hs : row.sub < 0x100) (ht : row.sub ≠ 9) (hc : c' < 4) (c i : Nat)
    (r : DramReq) (d : Dev) : (d.accessTaken c i r).nat row c' = d.nat row c' := by
  refine (accessTaken_work c i r d).regs.nat _ _ _ ?_ (chanKey_untold hb hs hc)
  simp only [takenKeys, List.mem_cons, List.not_mem_nil, or_false, not_or]
  exact ⟨key_ne hs (by decide) (.inl (by rw [hb]; simp only [Reg.rtLatencyPeak]; omega)), key_ne hs (by decide) (.inr ht)⟩

theorem regionFault_counts (r : DramReq) (d : Dev) :
    (d.regionFault r).nat Reg.dramRegionFaults = (d.nat Reg.dramRegionFaults + 1) % 2 ^ 32 := by
  rw [regionFault, notice_nat _ _ _ _ _ _ (by decide), nat_bump_same]
  rfl

theorem regionFault_chans (r : DramReq) (d : Dev) : (d.regionFault r).dram.chans = d.dram.chans := by
  rw [regionFault, notice_dram, bump_dram]

theorem correctedRead_dram (c bank q : Nat) (d : Dev) : (d.correctedRead c bank q).dram = d.dram := by
  unfold correctedRead
  dsimp only
  split
  · rw [bump_dram, noticeOnce_dram, bump_dram]
  · rw [noticeOnce_dram, bump_dram]

theorem correctedRead_counts (hc : c < 4) (bank q : Nat) (d : Dev) :
    (d.correctedRead c bank q).nat Reg.channelEccCorrected c = (d.nat Reg.channelEccCorrected c + 1) % 2 ^ 32 := by
  have hcount : ((d.bump Reg.channelEccCorrected c).noticeOnce (0xA00300 + c) 0xA003 (c * 65536 + bank)).nat Reg.channelEccCorrected c =
      (d.nat Reg.channelEccCorrected c + 1) % 2 ^ 32 := by
    rw [noticeOnce_nat _ _ _ _ _ _ _ (chanKey_untold rfl (by decide) hc), nat_bump_same]
    rfl
  unfold correctedRead
  dsimp only
  split
  · rw [nat_bump_ne _ _ _ _ _ _ _ (key_ne (by decide) (by decide) (.inl (by simp only [Reg.channelEccCorrected, Reg.correctionEccCorrected]; omega))), hcount]
  · exact hcount

/-- A clean line as its reader gets it. -/
theorem lineRead_reads (hc : c < 4) (i : Nat) (r : DramReq) (mem : List Host.Cell) (a : Nat) (d : Dev) :
    ((d.accessTaken c i r).lineRead mem a false).dram.lastLine = d.lineOf mem a ∧
      ((d.accessTaken c i r).lineRead mem a false).dram.lastPoisoned = false ∧
      (((d.accessTaken c i r).lineRead mem a false).dchan c).queue = (d.dchan c).queue.eraseIdx i ∧
      KeepsRegs (takenKeys c) d ((d.accessTaken c i r).lineRead mem a false) :=
  ⟨(accessTaken_work c i r d).lineOf mem a, rfl, accessTaken_queue hc i r d, (accessTaken_work c i r d).regs.of_regs rfl⟩

theorem lineRead_nat (mem : List Host.Cell) (a : Nat) (poisoned : Bool) (d : Dev) (row : Row) (i : Nat) :
    (d.lineRead mem a poisoned).nat row i = d.nat row i := nat_congr rfl row i 0

theorem lineRead_poisoned (mem : List Host.Cell) (a : Nat) (poisoned : Bool) (d : Dev) :
    (d.lineRead mem a poisoned).dram.lastPoisoned = poisoned := rfl

theorem lineRead_bad (mem : List Host.Cell) (a : Nat) (poisoned : Bool) (d : Dev) : (d.lineRead mem a poisoned).dram.bad = d.dram.bad := rfl

/-- A line with a double-bit error as a lift-line engine gets it. -/
theorem lostRead_reads (c i : Nat) (r : DramReq) (mem : List Host.Cell) (a x : Nat) (d : Dev) :
    let e := (((d.accessTaken c i r).lineLost a).lineRead mem a true).poisoned 6 x
    e.nat Reg.channelEccUncorrected (dramPlace (a / 64 * 64)).1 = (d.nat Reg.channelEccUncorrected (dramPlace (a / 64 * 64)).1 + 1) % 2 ^ 32 ∧
      e.dram.lastPoisoned = true ∧ e.dram.bad.contains (a / 64) = true := by
  intro e
  have hchan := dramPlace_channel_lt (a / 64 * 64)
  obtain ⟨hdram, hregs⟩ := poisoned_engine x (((d.accessTaken c i r).lineLost a).lineRead mem a true)
  refine ⟨?_, ?_, ?_⟩
  · rw [hregs.nat _ _ _ ?_ (chanKey_untold rfl (by decide) hchan), lineRead_nat, lineLost_counts, accessTaken_nat rfl (by decide) (by decide) hchan]
    simp only [busErrorKeys, lastBusError_key, busErrors_key, channelEccUncorrected_key, List.mem_cons, List.not_mem_nil, or_false]
    omega
  · rw [hdram, lineRead_poisoned]
  · rw [hdram, lineRead_bad, lineLost_bad]

end Dev

/-! ### DRAM_ACCESS_COMPLETE -/

theorem exec_dramAccessComplete {s : State} (ha : s.dev.answers = true) (c err : Nat) : exec (.dramAccessComplete c err) s =
    .next { s with mem := (s.dev.accessComplete s.mem c err).1, dev := (s.dev.accessComplete s.mem c err).2 } := if_pos ha

/-- A completion that leaves memory. -/
theorem access_completes {s : State} {c err : Nat} {e : Dev} {P : Dev → Prop} (ha : s.dev.answers = true)
    (h : s.dev.accessComplete s.mem c err = (s.mem, e)) (hp : P e) : Completes (.dramAccessComplete c err) s P := by
  refine ⟨_, exec_dramAccessComplete ha c err, rfl, ?_, ?_⟩
  · rw [h]
  · rw [h]
    exact hp

/-- Settles O21: a line that memory holds is written there octet by octet. -/
theorem dramWriteStores : Obligations.DramWriteStores := by
  intro s c i r ha hsound hnext hreq hw hreg hlow hplain err
  have hexec := exec_dramAccessComplete ha c err
  have hmem : (s.dev.accessComplete s.mem c err).1 = memWrite s.mem (r.access.addr / 64 * 64) (padded r.access.data) := by
    rw [Dev.accessComplete_write hnext hreq hreg hw, Dev.lineSet_plain hlow hplain]
  refine ⟨_, hexec, rfl, exec_keeps_sound hsound hexec, fun k hk => ?_, fun a h => ?_⟩
  · rw [hmem, memWrite_same _ _ _ k (by rwa [padded_length]), padded_get _ hk]
  · rw [hmem]
    exact memWrite_other _ _ _ _ (by rwa [padded_length])

/-- Settles O22: each completion by what the scheduler finds, after the access has left its queue. -/
theorem dramAccessFaults : Obligations.DramAccessFaults := by
  intro s c ha hc
  refine ⟨fun hnone err => access_completes ha (Dev.accessComplete_none hnone s.mem err) rfl, fun i r hnext hreq => ⟨fun hreg err => ?_, fun hreg hw =>
    ⟨fun hbad hpoison => ?_, fun hq => ?_⟩⟩⟩
  · refine access_completes ha (Dev.accessComplete_outside hnext hreq hreg s.mem err) ⟨?_, ?_⟩
    · rw [Dev.regionFault_counts, (Dev.accessTaken_work c i r s.dev).regs.nat _ _ _ ?_ (by decide)]
      simp only [Dev.takenKeys, rtLatencyPeak_key, actThrottled_key, dramRegionFaults_key, List.mem_cons, List.not_mem_nil, or_false]
      omega
    · rw [Dev.dchan_congr (Dev.regionFault_chans r _), Dev.accessTaken_queue hc]
  · have hcomplete {err : Nat} (herr : err ≠ 2) := Dev.accessComplete_clean hnext hreq hreg hw herr hbad hpoison s.mem
    obtain ⟨hline, hwhole, hqueue, hkeeps⟩ := Dev.lineRead_reads hc i r s.mem (r.access.addr / 64 * 64) s.dev
    refine ⟨access_completes ha (hcomplete (by decide)) ⟨hline, hwhole, hqueue, hkeeps⟩, access_completes ha (hcomplete (by decide)) ?_⟩
    rw [if_pos rfl, Dev.correctedRead_dram, Dev.correctedRead_counts hc, Dev.lineRead_nat, Dev.accessTaken_nat rfl (by decide) (by decide) hc]
    exact ⟨hline, hwhole, rfl⟩
  · refine access_completes ha (Dev.accessComplete_lost hnext hreq hreg hw s.mem) ?_
    rw [hq]
    have hlost := Dev.lostRead_reads c i r s.mem (r.access.addr / 64 * 64) r.access.addr s.dev
    rw [line_of_start] at hlost
    exact hlost

end Sys2Proof.Machine
end

