-- ==== Sys2Proof/Proofs/RefreshRange.lean ====
section
/-! The refresh debt of a channel and the range in force: refreshes ahead of time, a range brought up to date, and the fault that the highest
range is (R388 to R391, R536, R558). -/

namespace Sys2Proof.Machine

namespace Dev

variable {c : Nat} {d e : Dev}

/-! ### Refreshes (R388, R392) -/

/-- What of a channel its refreshes leave. -/
def unrefreshed (x : DramChan) : List DramReq × Nat × Nat := (x.queue, x.mr4, x.lowPolls)

theorem refab_work (ks : List Nat) (c n : Nat) (d : Dev) : ChannelWork unrefreshed ks d (d.refab c n) := by
  unfold refab
  split
  · exact .refl d
  · exact (ChannelWork.refl d).setDchan c

/-- How many refreshes a channel with an empty queue has done ahead of time by a moment. -/
def aheadCount (c clock : Nat) (d : Dev) : Nat :=
  if (d.dchan c).queue = [] then min (d.int Reg.refreshDebt c + 8).toNat ((clock - max (d.dchan c).completedAt (d.dchan c).ahead) / 221) else 0

theorem refreshAhead_work (c : Nat) (d : Dev) : ChannelWork unrefreshed [Reg.refreshDebt.key c] d (d.refreshAhead c) := by
  unfold refreshAhead
  extract_lets x debt since n d1
  have hdebt : ChannelWork unrefreshed [Reg.refreshDebt.key c] d d1 := (refab_work _ c n d).setInt Reg.refreshDebt _ c (.head _)
  split
  · exact .refl d
  · exact hdebt.setDchan c

theorem refreshAhead_debt (c : Nat) (d : Dev) :
    (d.refreshAhead c).int Reg.refreshDebt c = d.int Reg.refreshDebt c - d.aheadCount c d.clock := by
  unfold refreshAhead aheadCount
  by_cases hq : (d.dchan c).queue = []
  · simp only [hq, List.isEmpty_nil, Bool.not_true, Bool.false_eq_true, if_false, if_true]
    rw [int_congr (setDchan_regs _ _ _), int_setInt_same]
  · simp [hq]

/-! ### The range in force (R389 to R391) -/

/-- The entries that repaying a debt above the limit of a new range writes. -/
def repaidKeys (c : Nat) : List Nat := [Reg.refreshDebt.key c, Reg.refreshForced.key c, Reg.refreshDoubledEvents.key c]

/-- The entries that a change of the range may write, the fault of range 5 aside. -/
def rangeKeys (c : Nat) : List Nat := Reg.refreshRange.key c :: repaidKeys c

theorem refreshRange_notRepaid (c : Nat) : Reg.refreshRange.key c ∉ repaidKeys c := by
  simp only [repaidKeys, refreshRange_key, refreshDebt_key, refreshForced_key, refreshDoubledEvents_key, List.mem_cons, List.not_mem_nil, or_false]
  omega

theorem refreshFloor_untold (hc : c < 4) : Reg.refreshFloor.key c ∉ tellKeys := by
  simp only [tellKeys, refreshFloor_key, List.mem_cons, List.not_mem_nil, or_false]
  omega

theorem ChannelWork.rangeInForce (h : ChannelWork unrefreshed [Reg.refreshDebt.key c] d e) (hc : c < 4) : e.rangeInForce c = d.rangeInForce c := by
  have hfloor : e.nat Reg.refreshFloor c = d.nat Reg.refreshFloor c := by
    refine h.regs.nat _ _ _ ?_ (refreshFloor_untold hc)
    simp only [refreshFloor_key, refreshDebt_key, List.mem_cons, List.not_mem_nil, or_false]
    omega
  have hmr4 : (e.dchan c).mr4 = (d.dchan c).mr4 := congrArg (fun x => x.2.1) (h.chan c)
  rw [Dev.rangeInForce, Dev.rangeInForce, hfloor, hmr4]

/-- A debt above the limit of a new range refreshed down to it, and counted. -/
theorem repaid_work (c n : Nat) (limit : Int) (d : Dev) : ChannelWork unrefreshed (repaidKeys c) d
    ((((d.refab c n).setInt Reg.refreshDebt limit c).bump Reg.refreshForced c n).bump Reg.refreshDoubledEvents c) :=
  (((refab_work _ c n d).setInt Reg.refreshDebt limit c (by simp [repaidKeys])).bump Reg.refreshForced c n (by simp [repaidKeys])).bump
    Reg.refreshDoubledEvents c 1 (by simp [repaidKeys])

/-- A range brought up to date is work in the channels, and where it has come to 5 the fault of class 4. -/
theorem updateRange_cases (hc : c < 4) (d : Dev) : ∃ e, ChannelWork unrefreshed (rangeKeys c) d e ∧ e.nat Reg.refreshRange c = d.rangeInForce c ∧
    (d.updateRange c = e ∨ d.updateRange c = e.enterFault 4 c) := by
  have hahead := refreshAhead_work c d
  have hnew := hahead.rangeInForce hc
  have huntold : Reg.refreshRange.key c ∉ tellKeys := chanKey_untold rfl (by decide) hc
  unfold updateRange
  extract_lets d1 old new debt limit d2 n d3
  have h1 : ChannelWork unrefreshed (rangeKeys c) d d1 := hahead.mono (by simp [rangeKeys, repaidKeys])
  have h2 : ChannelWork unrefreshed (rangeKeys c) d d2 := (h1.setNat Reg.refreshRange new c (.head _)).told (told_notice _ _ _)
  have hrange2 : d2.nat Reg.refreshRange c = d.rangeInForce c := by rw [← hnew, notice_nat _ _ _ _ _ _ huntold, nat_setNat_same]
  have hrepaid : ChannelWork unrefreshed (repaidKeys c) d2 d3 := by
    unfold d3
    split
    · exact (repaid_work c n limit d2).told (told_noticeOf _ _ _ _ _)
    · exact .refl _
  have h3 : ChannelWork unrefreshed (rangeKeys c) d d3 := h2.trans (hrepaid.mono fun _ => .tail _)
  have hrange3 : d3.nat Reg.refreshRange c = d.rangeInForce c := (hrepaid.regs.nat _ _ _ (refreshRange_notRepaid c) huntold).trans hrange2
  split
  next hsame => exact ⟨d1, h1, hsame.symm.trans hnew, .inl rfl⟩
  next =>
    split
    · have htold := (told_notice 0xA009 (c * 65536 + 2) d3).trans (told_logFault 0xA009 (c * 65536 + 2) _)
      exact ⟨_, h3.told htold, (htold.nat _ _ _ huntold).trans hrange3, .inr rfl⟩
    · exact ⟨d3, h3, hrange3, .inl rfl⟩

/-! ### The fault of range 5 leaves the controller (R391, R558) -/

/-- The entries that giving up the lead may write. -/
def leadKeys : List Nat := [Reg.dradaCreditStalls.key 2, Reg.ilkOut.key, Reg.ilkGate.key, Reg.pairState.key]

/-- The entries that the entry to FAULT may write. -/
def faultKeys : List Nat := Reg.faultCause.key :: leadKeys ++ triggerKeys

theorem sendCell_dram (k : Nat) (type : CellType) (dest arg : Nat) (payload : Octets) (settled : Bool) (hops : Nat) (src : Option Nat) (d : Dev) :
    (d.sendCell k type dest arg payload settled hops src).dram = d.dram := by
  unfold sendCell
  split
  · rfl
  · dsimp only
    split
    · exact bump_dram _ _ _ _
    · rfl

theorem tellPartner_dram (code : Nat) (body : Octets) (d : Dev) : (d.tellPartner code body).dram = d.dram := by
  unfold tellPartner
  split
  · rfl
  · exact sendCell_dram _ _ _ _ _ _ _ _ _

theorem setIlkOut_frame (level : Bool) (d : Dev) : (d.setIlkOut level).dram = d.dram ∧ KeepsRegs [Reg.ilkOut.key] d (d.setIlkOut level) := by
  have hset : KeepsRegs [Reg.ilkOut.key] d (d.setFlag Reg.ilkOut level) := (KeepsRegs.refl _ d).setFlag _ _ _ (.head _)
  unfold setIlkOut
  split
  · exact ⟨rfl, .refl _ d⟩
  · dsimp only
    split
    · exact ⟨rfl, hset.of_regs rfl⟩
    · exact ⟨rfl, hset.of_regs rfl⟩

theorem setPairState_dram (st : Nat) (d : Dev) : (d.setPairState st).dram = d.dram := by
  unfold setPairState
  split
  · rfl
  · rw [notice_dram, setNat_dram]

theorem releaseLead_frame (d : Dev) : d.releaseLead.dram = d.dram ∧ KeepsRegs leadKeys d d.releaseLead := by
  unfold releaseLead
  extract_lets d1 d2
  have h1 : d1.dram = d.dram ∧ KeepsRegs leadKeys d d1 := by
    unfold d1
    split
    · exact ⟨tellPartner_dram _ _ _, (tellPartner_leaves _ _ _).1.mono (by simp [leadKeys])⟩
    · exact ⟨rfl, .refl _ d⟩
  obtain ⟨hdram, hregs⟩ := setIlkOut_frame false d1
  have h2 : d2.dram = d.dram ∧ KeepsRegs leadKeys d d2 :=
    ⟨hdram.trans h1.1, ((h1.2.trans (hregs.mono (by simp [leadKeys]))).setFlag Reg.ilkGate false 0 (by simp [leadKeys])).of_regs rfl⟩
  clear_value d2
  split
  · exact ⟨rfl, .refl _ d⟩
  · split
    · exact ⟨(setPairState_dram _ _).trans h2.1, h2.2.trans ((setPairState_keepsRegs _ _).mono (by simp [leadKeys]))⟩
    · exact h2

theorem recTrigger_dram (bit : Nat) (d : Dev) : (d.recTrigger bit).dram = d.dram := (congrArg Dev.dram (recTrigger_untold bit d d) :)

theorem faultTold_dram (cause : Nat) (d : Dev) : (d.faultTold cause).dram = d.dram := by
  obtain ⟨stage, sec, -, hset⟩ := setPower_tells .fault d
  rw [faultTold, logFault_dram, notice_dram, recTrigger_dram, hset.dram]

/-- A fault of BOOT, kept for its end. -/
def bootFaulted (cause : Nat) (d : Dev) : Dev :=
  ((d.setStage fun p => { p with bootFault := true }).setNat Reg.faultCause cause).keep Reg.faultCause

theorem enterFault_eq_ite {cls detail cause : Nat} (hc : cls * 2 ^ 24 + detail % 65536 = cause) (d : Dev) : d.enterFault cls detail =
    if d.power.state = .boot then if d.power.bootFault then d else d.bootFaulted cause
    else if d.power.state = .fault ∨ !d.power.state.answers then d
    else (d.releaseLead.faultNoted cause).faultTold cause := by
  unfold enterFault
  rw [hc]
  rfl

theorem bootFaulted_frame (cause : Nat) (d : Dev) : (d.bootFaulted cause).dram = d.dram ∧ KeepsRegs [Reg.faultCause.key] d (d.bootFaulted cause) :=
  ⟨rfl, (((KeepsRegs.refl _ d).of_regs (setStage_regs _ d)).setNat Reg.faultCause cause 0 0 (.head _)).of_regs (keep_regs _ _ _ _)⟩

theorem faultNoted_frame (cause : Nat) (d : Dev) : (d.faultNoted cause).dram = d.dram ∧ KeepsRegs [Reg.faultCause.key] d (d.faultNoted cause) :=
  ⟨rfl, (((KeepsRegs.refl _ d).setNat Reg.faultCause cause 0 0 (.head _)).of_regs (keep_regs _ _ _ _)).of_regs (setStage_regs _ _)⟩

theorem enterFault_frame (cls detail : Nat) (d : Dev) : (d.enterFault cls detail).dram = d.dram ∧ KeepsRegs faultKeys d (d.enterFault cls detail) := by
  generalize hc : cls * 2 ^ 24 + detail % 65536 = cause
  rw [enterFault_eq_ite hc]
  split
  · split
    · exact ⟨rfl, .refl _ d⟩
    · obtain ⟨hdram, hregs⟩ := bootFaulted_frame cause d
      exact ⟨hdram, hregs.mono (by decide)⟩
  · split
    · exact ⟨rfl, .refl _ d⟩
    · obtain ⟨hlead, hleadRegs⟩ := releaseLead_frame d
      obtain ⟨hnoted, hnotedRegs⟩ := faultNoted_frame cause d.releaseLead
      obtain ⟨-, htoldRegs, -⟩ := faultTold_reads cause (d.releaseLead.faultNoted cause)
      exact ⟨(faultTold_dram cause _).trans (hnoted.trans hlead),
        ((hleadRegs.mono (by decide)).trans (hnotedRegs.mono (by decide))).trans (htoldRegs.mono (by decide))⟩

/-- What a range brought up to date leaves: the controller but for its channels, their queues and readings of MR4, and the entries of memory
and season but those of the channel's refreshes. -/
structure RangeUpdated (c : Nat) (d e : Dev) : Prop where
  dram : e.dram = { d.dram with chans := e.dram.chans }
  chan : ∀ c', unrefreshed (e.dchan c') = unrefreshed (d.dchan c')
  regs : ∀ k, 0xA00000 ≤ k → k ∉ rangeKeys c → k ∉ tellKeys → nget? e.regs k = nget? d.regs k
  range : e.nat Reg.refreshRange c = d.rangeInForce c

theorem faultKeys_lt : ∀ k ∈ faultKeys, k < 0xA00000 := by decide

theorem nat_of_entry {r : Row} {i : Nat} (h : nget? e.regs (r.key i) = nget? d.regs (r.key i)) : e.nat r i = d.nat r i := by
  simp only [Dev.nat, Dev.int, Dev.val, nget, h]

theorem updateRange_updated (hc : c < 4) (d : Dev) : RangeUpdated c d (d.updateRange c) := by
  obtain ⟨e, hwork, hrange, he⟩ := updateRange_cases hc d
  obtain he | he := he
  · rw [he]
    exact ⟨hwork.dram, hwork.chan, fun k _ hk ht => hwork.regs k hk ht, hrange⟩
  · obtain ⟨hdram, hregs⟩ := enterFault_frame 4 c e
    have hfault {k : Nat} (hk : 0xA00000 ≤ k) : k ∉ faultKeys := fun h => absurd (faultKeys_lt k h) (Nat.not_lt.2 hk)
    rw [he]
    refine ⟨?_, fun c' => ?_, fun k hk hr ht => (hregs k (hfault hk) ht).trans (hwork.regs k hr ht), ?_⟩
    · rw [hdram]
      exact hwork.dram
    · rw [dchan_congr (congrArg Dram.chans hdram), hwork.chan]
    · rw [← hrange]
      refine nat_of_entry (hregs _ (hfault ?_) (chanKey_untold rfl (by decide) hc))
      rw [refreshRange_key]
      omega

end Dev

end Sys2Proof.Machine
end

