-- ==== Sys2Proof/Proofs/RefreshEvents.lean ====
section
/-! The periodic events of the DRAM channels: a refresh interval, a poll of MR4, RFM, the oscillator and the patrol scrub (R388, R389, R392, R402,
R403, R536, R537). -/

namespace Sys2Proof.Machine

namespace Dev

variable {c bank : Nat} {d e : Dev}

/-! ### REFRESH_INTERVAL (R388) -/

/-- A refresh interval over: its debt repaid ahead of time, kept, or refreshed down to what may stand. -/
def intervalOver (c range : Nat) (d : Dev) : Dev :=
  let d := d.refreshAhead c
  let debt := d.int Reg.refreshDebt c + 1
  let limit := d.postponeLimit range
  let q := (d.dchan c).queue
  if limit < debt then ((d.refab c (debt - limit).toNat).setInt Reg.refreshDebt limit c).bump Reg.refreshForced c (debt - limit).toNat
  else if q.isEmpty || q.any fun r => isRt r.q then d.setInt Reg.refreshDebt debt c
  else (d.refab c debt.toNat).setInt Reg.refreshDebt (min debt 0) c

/-- The debt of a channel at the end of an interval, before it is held against the limit. -/
def intervalDebt (c clock : Nat) (d : Dev) : Int := d.int Reg.refreshDebt c + 1 - d.aheadCount c clock

/-- The entries that a refresh interval may write. -/
def intervalKeys (c : Nat) : List Nat := [Reg.refreshDebt.key c, Reg.refreshForced.key c]

theorem intervalOver_work (c range : Nat) (d : Dev) : ChannelWork unrefreshed (intervalKeys c) d (d.intervalOver c range) := by
  have hahead : ChannelWork unrefreshed (intervalKeys c) d (d.refreshAhead c) := (refreshAhead_work c d).mono (by simp [intervalKeys])
  have hset (n : Nat) (v : Int) : ChannelWork unrefreshed (intervalKeys c) d (((d.refreshAhead c).refab c n).setInt Reg.refreshDebt v c) :=
    (hahead.trans (refab_work _ c n _)).setInt Reg.refreshDebt v c (.head _)
  unfold intervalOver
  dsimp only
  split
  · exact (hset _ _).bump Reg.refreshForced c _ (.tail _ (.head _))
  · split
    · exact hahead.setInt Reg.refreshDebt _ c (.head _)
    · exact hset _ _

theorem postponeLimit_work {ks : List Nat} (h : KeepsRegs ks d e) (hk : Reg.refreshPostponeLimit.key ∉ ks) (range : Nat) :
    e.postponeLimit range = d.postponeLimit range := by
  rw [postponeLimit, postponeLimit, h.nat Reg.refreshPostponeLimit 0 0 hk (by decide)]

theorem intervalOver_debt (hc : c < 4) (range : Nat) (d : Dev) : (d.intervalOver c range).int Reg.refreshDebt c =
    if d.postponeLimit range < d.intervalDebt c d.clock then d.postponeLimit range
    else if (d.dchan c).queue = [] ∨ (d.dchan c).queue.any (fun r => isRt r.q) = true then d.intervalDebt c d.clock
    else min (d.intervalDebt c d.clock) 0 := by
  have hahead := refreshAhead_work c d
  have hdebt : (d.refreshAhead c).int Reg.refreshDebt c + 1 = d.intervalDebt c d.clock := by
    rw [refreshAhead_debt, intervalDebt]
    omega
  have hlimit : (d.refreshAhead c).postponeLimit range = d.postponeLimit range := by
    refine postponeLimit_work hahead.regs ?_ range
    simp only [refreshPostponeLimit_key, refreshDebt_key, List.mem_cons, List.not_mem_nil, or_false]
    omega
  have hqueue : ((d.refreshAhead c).dchan c).queue = (d.dchan c).queue := congrArg Prod.fst (hahead.chan c)
  have hforced (n : Nat) (v : Int) (e : Dev) : ((e.setInt Reg.refreshDebt v c).bump Reg.refreshForced c n).int Reg.refreshDebt c = v := by
    rw [((KeepsRegs.refl [Reg.refreshForced.key c] _).bump Reg.refreshForced c n (.head _)).int _ _ _ ?_ (chanKey_untold rfl (by decide) hc),
      int_setInt_same]
    simp only [refreshDebt_key, refreshForced_key, List.mem_cons, List.not_mem_nil, or_false]
    omega
  unfold intervalOver
  dsimp only
  rw [hdebt, hlimit, hqueue]
  split
  · exact hforced _ _ _
  · simp only [Bool.or_eq_true, List.isEmpty_iff]
    split <;> exact int_setInt_same _ _ _ _ _

theorem refreshInterval_due (hc : c < 4)
    (h : d.Reaches (d.timerFrom (110 + c) + 3072 / if d.nat Reg.refreshRange c ≤ 1 then 1 else if d.nat Reg.refreshRange c = 2 then 2 else 4)) :
    ∃ n t, d.refreshInterval c = ((d.advance n).setTimer (110 + c) t).intervalOver c (d.nat Reg.refreshRange c) := by
  rw [refreshInterval, if_neg (Nat.not_le.2 hc)]
  exact onPeriod_acts _ h

theorem intervalDebt_congr (hregs : e.regs = d.regs) (hdram : e.dram = d.dram) (c clock : Nat) : e.intervalDebt c clock = d.intervalDebt c clock := by
  rw [intervalDebt, intervalDebt, aheadCount, aheadCount, dchan_congr (congrArg Dram.chans hdram), int_congr hregs]

theorem refreshInterval_reads (hc : c < 4)
    (h : d.Reaches (d.timerFrom (110 + c) + 3072 / if d.nat Reg.refreshRange c ≤ 1 then 1 else if d.nat Reg.refreshRange c = 2 then 2 else 4)) :
    (d.refreshInterval c).int Reg.refreshDebt c =
      (if d.postponeLimit (d.nat Reg.refreshRange c) < d.intervalDebt c (d.refreshInterval c).clock then d.postponeLimit (d.nat Reg.refreshRange c)
      else if (d.dchan c).queue = [] ∨ (d.dchan c).queue.any (fun r => isRt r.q) = true then d.intervalDebt c (d.refreshInterval c).clock
      else min (d.intervalDebt c (d.refreshInterval c).clock) 0) ∧
    KeepsRegs (intervalKeys c) d (d.refreshInterval c) := by
  obtain ⟨n, t, hover⟩ := refreshInterval_due hc h
  have hregs : ((d.advance n).setTimer (110 + c) t).regs = d.regs := advance_regs n d
  have hdram : ((d.advance n).setTimer (110 + c) t).dram = d.dram := advance_dram n d
  generalize (d.advance n).setTimer (110 + c) t = e at hover hregs hdram
  have hwork := intervalOver_work c (d.nat Reg.refreshRange c) e
  rw [hover]
  refine ⟨?_, ((KeepsRegs.refl _ d).of_regs hregs).trans hwork.regs⟩
  rw [intervalOver_debt hc, hwork.clock, intervalDebt_congr hregs hdram, dchan_congr (congrArg Dram.chans hdram),
    postponeLimit_work ((KeepsRegs.refl [] d).of_regs hregs) List.not_mem_nil]

/-! ### MR4_POLL (R389) -/

/-- A reading of MR4 taken: a hotter one at once, a cooler one with the fourth in a row. -/
def rangePolled (c range : Nat) (d : Dev) : Dev :=
  if (d.dchan c).mr4 < range then d.setDchan c fun x => { x with mr4 := range, lowPolls := 0 }
  else if range < (d.dchan c).mr4 then
    if 4 ≤ (d.dchan c).lowPolls + 1 then d.setDchan c fun x => { x with mr4 := range, lowPolls := 0 }
    else d.setDchan c fun x => { x with lowPolls := x.lowPolls + 1 }
  else d.setDchan c fun x => { x with lowPolls := 0 }

theorem rangePolled_regs (c range : Nat) (d : Dev) : (d.rangePolled c range).regs = d.regs := by
  unfold rangePolled
  split
  · rfl
  · split
    · split <;> rfl
    · rfl

theorem rangePolled_taken {range : Nat} (hc : c < 4)
    (h : (d.dchan c).mr4 < range ∨ range < (d.dchan c).mr4 ∧ (d.dchan c).lowPolls = 3) :
    ((d.rangePolled c range).dchan c).mr4 = range ∧ ((d.rangePolled c range).dchan c).lowPolls = 0 := by
  have htaken : d.rangePolled c range = d.setDchan c fun x => { x with mr4 := range, lowPolls := 0 } := by
    unfold rangePolled
    obtain h | ⟨hlow, hpolls⟩ := h
    · exact if_pos h
    · rw [if_neg (Nat.lt_asymm hlow), if_pos hlow, if_pos (by omega)]
  rw [htaken, setDchan_dchan_same _ _ _ hc]
  exact ⟨rfl, rfl⟩

theorem rangePolled_counted {range : Nat} (hc : c < 4) (hlow : range < (d.dchan c).mr4) (hpolls : (d.dchan c).lowPolls < 3) :
    ((d.rangePolled c range).dchan c).mr4 = (d.dchan c).mr4 ∧ ((d.rangePolled c range).dchan c).lowPolls = (d.dchan c).lowPolls + 1 := by
  rw [rangePolled, if_neg (Nat.lt_asymm hlow), if_pos hlow, if_neg (by omega), setDchan_dchan_same _ _ _ hc]
  exact ⟨rfl, rfl⟩

/-- Two dies that read alike give one reading. -/
theorem mr4Poll_due {range : Nat} (hc : c < 4) (hr : range ≤ 5) (h : d.Reaches (d.timerFrom (120 + c) + 98304)) (raw : Nat) :
    ∃ n t, d.mr4Poll c raw range raw range =
      ((((d.advance n).setTimer (120 + c) t).setNat Reg.mr4Raw (raw % 256) c).rangePolled c range).updateRange c := by
  have hhot : (decide (range < range) || (range == range && decide (raw < raw))) = false := by simp
  rw [mr4Poll, if_neg (Nat.not_le.2 hc)]
  obtain ⟨n, t, he⟩ := onPeriod_acts _ h
  refine ⟨n, t, he.trans ?_⟩
  simp only [hhot, Bool.false_eq_true, if_false, Nat.min_eq_right hr]
  rfl

theorem mr4Raw_notRange (c : Nat) : Reg.mr4Raw.key c ∉ rangeKeys c := by
  simp only [rangeKeys, repaidKeys, mr4Raw_key, refreshRange_key, refreshDebt_key, refreshForced_key, refreshDoubledEvents_key, List.mem_cons,
    List.not_mem_nil, or_false]
  omega

/-- A poll reads as the reading taken, with the range in force that it gives. -/
theorem mr4Poll_reads {range : Nat} (hc : c < 4) (hr : range ≤ 5) (h : d.Reaches (d.timerFrom (120 + c) + 98304)) (raw : Nat) :
    ∃ e : Dev, e.dchan c = d.dchan c ∧ ((d.mr4Poll c raw range raw range).dchan c).mr4 = ((e.rangePolled c range).dchan c).mr4 ∧
      ((d.mr4Poll c raw range raw range).dchan c).lowPolls = ((e.rangePolled c range).dchan c).lowPolls ∧
      (d.mr4Poll c raw range raw range).nat Reg.mr4Raw c = raw % 256 ∧
      (d.mr4Poll c raw range raw range).nat Reg.refreshRange c = max ((e.rangePolled c range).dchan c).mr4 (d.nat Reg.refreshFloor c) := by
  obtain ⟨n, t, he⟩ := mr4Poll_due hc hr h raw
  generalize hlater : (d.advance n).setTimer (120 + c) t = later at he
  have hregs : later.regs = d.regs := by rw [← hlater, setTimer_regs, advance_regs]
  have hdram : later.dram = d.dram := by rw [← hlater, setTimer_dram, advance_dram]
  have hupdated := updateRange_updated hc ((later.setNat Reg.mr4Raw (raw % 256) c).rangePolled c range)
  rw [← he] at hupdated
  have hchan := hupdated.chan c
  refine ⟨later.setNat Reg.mr4Raw (raw % 256) c, dchan_congr (congrArg Dram.chans hdram) c, congrArg (fun x => x.2.1) hchan,
    congrArg (fun x => x.2.2) hchan, ?_, ?_⟩
  · rw [nat_of_entry (hupdated.regs _ ?_ (mr4Raw_notRange c) (chanKey_untold rfl (by decide) hc)), nat_congr (rangePolled_regs _ _ _), nat_setNat_same]
    rw [mr4Raw_key]
    omega
  · rw [hupdated.range, rangeInForce, nat_congr (rangePolled_regs _ _ _), nat_setNat_ne _ _ _ _ _ _ _ _ ?_, nat_congr hregs]
    exact key_ne (by decide) (by decide) (.inl (by simp only [Reg.refreshFloor, Reg.mr4Raw]; omega))

/-! ### RFM_ISSUE (R392) -/

theorem rfmIssue_due (hc : c < 4)
    (h : max (d.nat Reg.raaImt c) 1 ≤ nget 0 (d.dchan c).raa bank ∨ (nget? (d.dchan c).held bank).isSome = true)
    (hopen : nget? (d.dchan c).openRows bank = none) :
    d.rfmIssue c bank = (d.setDchan c fun x => { x with
      raa := nset 0 x.raa bank (nget 0 x.raa bank - max (d.nat Reg.raaImt c) 1), held := nerase x.held bank }).bump Reg.rfmIssued c := by
  refine if_neg ?_
  rw [hopen]
  rintro (hbeyond | ⟨hlow, hfree⟩ | hrow)
  · omega
  · obtain h | h := h
    · omega
    · rw [Option.isNone_iff_eq_none.1 hfree] at h
      exact Bool.false_ne_true h
  · exact Bool.false_ne_true hrow

theorem rfmIssue_idle (h : (nget? (d.dchan c).openRows bank).isSome = true ∨
    (nget 0 (d.dchan c).raa bank < max (d.nat Reg.raaImt c) 1 ∧ nget? (d.dchan c).held bank = none)) : d.rfmIssue c bank = d := by
  refine if_pos (.inr ?_)
  obtain hrow | ⟨hlow, hfree⟩ := h
  · exact .inr hrow
  · exact .inl ⟨hlow, by rw [hfree]; rfl⟩

/-! ### DRAM_OSC_CHECK (R403, R537) -/

/-- A lane's coefficients and eye recorded, before its narrowest eye is. -/
def eyeStored (lane : Nat) (eye : Eye) (d : Dev) : Dev :=
  let d := { d with season := { d.season with
    starts := nput d.season.starts lane eye.coeffs, eyeTold := d.season.eyeTold.filter (· ≠ lane) } }
  (((d.setNat Reg.eqEyeWidth (eye.width % 65536) lane).setNat Reg.eqEyeHeight (eye.height % 65536) lane).setFlag Reg.eqStartValid true lane).keep
    Reg.eqStartValid lane

/-- The entries of a lane's eye. -/
def eyeKeys (lane : Nat) : List Nat := [Reg.eqEyeWidth.key lane, Reg.eqEyeHeight.key lane, Reg.eqStartValid.key lane]

theorem eyeStored_keepsRegs (lane : Nat) (eye : Eye) (d : Dev) : KeepsRegs (eyeKeys lane) d (d.eyeStored lane eye) := by
  have hstart : KeepsRegs (eyeKeys lane) d { d with season := { d.season with
      starts := nput d.season.starts lane eye.coeffs, eyeTold := d.season.eyeTold.filter (· ≠ lane) } } := (KeepsRegs.refl _ d).of_regs rfl
  exact (((hstart.setNat Reg.eqEyeWidth _ _ _ (by simp [eyeKeys])).setNat Reg.eqEyeHeight _ _ _ (by simp [eyeKeys])).setFlag Reg.eqStartValid true
    lane (by simp [eyeKeys])).of_regs (keep_regs _ _ _ _)

theorem eyeStored_valid (lane : Nat) (eye : Eye) (d : Dev) : (d.eyeStored lane eye).flag Reg.eqStartValid lane = true := by
  rw [eyeStored, flag_congr (keep_regs _ _ _ _), flag_setFlag_same]

theorem eyeStored_width (lane : Nat) (eye : Eye) (d : Dev) : (d.eyeStored lane eye).nat Reg.eqEyeWidth lane = eye.width % 65536 := by
  rw [eyeStored, nat_congr (keep_regs _ _ _ _), setFlag, nat_setNat_ne _ _ _ _ _ _ _ _ (key_ne (by decide) (by decide) (.inr (by decide))),
    nat_setNat_ne _ _ _ _ _ _ _ _ (key_ne (by decide) (by decide) (.inr (by decide))), nat_setNat_same]

/-- The narrowest eye of a lane since it was cleared. -/
def narrowestNoted (lane width : Nat) (d : Dev) : Dev :=
  if width < d.nat Reg.eqEyeWidthMin lane then (d.setNat Reg.eqEyeWidthMin width lane).keep Reg.eqEyeWidthMin lane else d

theorem narrowestNoted_keepsRegs (lane width : Nat) (d : Dev) : KeepsRegs [Reg.eqEyeWidthMin.key lane] d (d.narrowestNoted lane width) := by
  unfold narrowestNoted
  split
  · exact ((KeepsRegs.refl _ d).setNat Reg.eqEyeWidthMin width lane 0 (.head _)).of_regs (keep_regs _ _ _ _)
  · exact .refl _ d

/-- An eye under 300 is told once. -/
def narrowTold (lane width : Nat) (d : Dev) : Dev :=
  if width < 300 ∧ !(d.season.eyeTold.contains lane) then
    ({ d with season := { d.season with eyeTold := lane :: d.season.eyeTold } }).notice 0xA805 lane
  else d

theorem narrowTold_keepsRegs (lane width : Nat) (d : Dev) : KeepsRegs [] d (d.narrowTold lane width) := by
  have hnoted : KeepsRegs [] d { d with season := { d.season with eyeTold := lane :: d.season.eyeTold } } := (KeepsRegs.refl _ d).of_regs rfl
  unfold narrowTold
  split
  · exact hnoted.told (told_notice _ _ _)
  · exact .refl _ d

theorem storeEye_eq (lane : Nat) (eye : Eye) (d : Dev) :
    d.storeEye lane eye = ((d.eyeStored lane eye).narrowestNoted lane (eye.width % 65536)).narrowTold lane eye.width := by
  delta storeEye narrowTold narrowestNoted eyeStored
  rfl

/-- After the eye is stored only EqEyeWidthMin may change. -/
theorem storeEye_keepsRegs (lane : Nat) (eye : Eye) (d : Dev) : KeepsRegs [Reg.eqEyeWidthMin.key lane] (d.eyeStored lane eye) (d.storeEye lane eye) := by
  rw [storeEye_eq]
  exact (narrowestNoted_keepsRegs _ _ _).trans ((narrowTold_keepsRegs _ _ _).mono fun _ h => absurd h List.not_mem_nil)

theorem oscCheck_due (hc : c < 4) (h : d.Reaches (d.timerFrom (130 + c) + msCycles 100)) (permille : Nat) (eye : Eye) :
    ∃ n t, d.oscCheck c permille eye = (let e := (d.advance n).setTimer (130 + c) t
      if permille ≤ 100 then e else ((e.bump Reg.retrainEvents c).notice 0xA008 c).storeEye (7 + c) eye) := by
  rw [oscCheck, if_neg (Nat.not_le.2 hc)]
  exact onPeriod_acts _ h

theorem oscCheck_steady {permille : Nat} (hc : c < 4) (h : d.Reaches (d.timerFrom (130 + c) + msCycles 100)) (hp : permille ≤ 100) (eye : Eye) :
    (d.oscCheck c permille eye).regs = d.regs ∧ (d.oscCheck c permille eye).season = d.season := by
  obtain ⟨n, t, he⟩ := oscCheck_due hc h permille eye
  rw [he]
  dsimp only
  rw [if_pos hp, setTimer_regs, setTimer_season]
  exact ⟨advance_regs _ _, advance_season _ _⟩

theorem eyeKey_untold {r : Row} {lane : Nat} (hb : r.base = 0xA870) (hs : r.sub < 0x100) : r.key lane ∉ tellKeys := by
  simp only [tellKeys, Row.key, entryKey, hb, List.mem_cons, List.not_mem_nil, or_false]
  omega

theorem oscCheck_drifted {permille : Nat} (hc : c < 4) (h : d.Reaches (d.timerFrom (130 + c) + msCycles 100)) (hp : 100 < permille) (eye : Eye) :
    (d.oscCheck c permille eye).nat Reg.retrainEvents c = (d.nat Reg.retrainEvents c + 1) % 2 ^ 32 ∧
      (d.oscCheck c permille eye).nat Reg.eqEyeWidth (7 + c) = eye.width % 65536 ∧
      (d.oscCheck c permille eye).flag Reg.eqStartValid (7 + c) = true := by
  obtain ⟨n, t, he⟩ := oscCheck_due hc h permille eye
  have huntold : Reg.retrainEvents.key c ∉ tellKeys := chanKey_untold rfl (by decide) hc
  rw [he]
  dsimp only
  rw [if_neg (Nat.not_le.2 hp)]
  generalize hcounted : (((d.advance n).setTimer (130 + c) t).bump Reg.retrainEvents c).notice 0xA008 c = e
  have hevents : e.nat Reg.retrainEvents c = (d.nat Reg.retrainEvents c + 1) % 2 ^ 32 := by
    rw [← hcounted, notice_nat _ _ _ _ _ _ huntold, nat_bump_same, nat_congr (setTimer_regs _ _ _), advance_nat]
    rfl
  have hkeeps := storeEye_keepsRegs (7 + c) eye e
  refine ⟨?_, ?_, ?_⟩
  · rw [hkeeps.nat _ _ _ ?_ huntold, (eyeStored_keepsRegs _ _ _).nat _ _ _ ?_ huntold, hevents]
    · simp only [eyeKeys, retrainEvents_key, eqEyeWidth_key, eqEyeHeight_key, eqStartValid_key, List.mem_cons, List.not_mem_nil, or_false]
      omega
    · simp only [retrainEvents_key, eqEyeWidthMin_key, List.mem_cons, List.not_mem_nil, or_false]
      omega
  · rw [hkeeps.nat _ _ _ ?_ (eyeKey_untold rfl (by decide)), eyeStored_width]
    simp only [eqEyeWidth_key, eqEyeWidthMin_key, List.mem_cons, List.not_mem_nil, or_false]
    omega
  · rw [hkeeps.flag _ _ ?_ (eyeKey_untold rfl (by decide)), eyeStored_valid]
    simp only [eqStartValid_key, eqEyeWidthMin_key, List.mem_cons, List.not_mem_nil, or_false]
    omega

/-! ### DRAM_SCRUB_PASS (R402, R536) -/

/-- The floor of a channel at the end of a scrub pass: raised where 16 more errors were corrected than before it. -/
def scrubbedFloor (c : Nat) (d : Dev) : Nat :=
  if lget 0 d.dram.scrubBase c + 16 ≤ d.nat Reg.channelEccCorrected c ∧ d.nat Reg.refreshFloor c = 1 then 2 else d.nat Reg.refreshFloor c

/-- A channel at the end of a scrub pass, its floor raised where it is due. -/
def floorScrubbed (d : Dev) (c : Nat) : Dev :=
  if lget 0 d.dram.scrubBase c + 16 ≤ d.nat Reg.channelEccCorrected c ∧ d.nat Reg.refreshFloor c = 1 then
    (((d.setNat Reg.refreshFloor 2 c).keep Reg.refreshFloor c).notice 0xA804 c).updateRange c
  else d

/-- What the end of a scrub pass for channel `c` leaves: the base, and the entries of memory and season but the floor and the refreshes of `c`. -/
structure FloorSet (c : Nat) (d e : Dev) : Prop where
  base : e.dram.scrubBase = d.dram.scrubBase
  regs : ∀ k, 0xA00000 ≤ k → k ∉ Reg.refreshFloor.key c :: rangeKeys c → k ∉ tellKeys → nget? e.regs k = nget? d.regs k
  floor : e.nat Reg.refreshFloor c = d.scrubbedFloor c

theorem refreshFloor_notRange (c c' : Nat) (hc' : c' < 4) : Reg.refreshFloor.key c ∉ rangeKeys c' := by
  simp only [rangeKeys, repaidKeys, refreshFloor_key, refreshRange_key, refreshDebt_key, refreshForced_key, refreshDoubledEvents_key, List.mem_cons,
    List.not_mem_nil, or_false]
  omega

theorem floorScrubbed_set (hc : c < 4) (d : Dev) : FloorSet c d (d.floorScrubbed c) := by
  unfold floorScrubbed
  split
  next h =>
    generalize hraised : ((d.setNat Reg.refreshFloor 2 c).keep Reg.refreshFloor c).notice 0xA804 c = e
    have hkeeps : KeepsRegs [Reg.refreshFloor.key c] d e := by
      rw [← hraised]
      exact (((KeepsRegs.refl _ d).setNat Reg.refreshFloor 2 c 0 (.head _)).of_regs (keep_regs _ _ _ _)).told (told_notice _ _ _)
    have hupdated := updateRange_updated hc e
    refine ⟨?_, fun k hk hks ht => ?_, ?_⟩
    · have hdram : e.dram = d.dram := by rw [← hraised, notice_dram, keep_dram, setNat_dram]
      rw [hupdated.dram, hdram]
    · rw [hupdated.regs k hk (fun hr => hks (.tail _ hr)) ht, hkeeps k (fun hf => hks (List.mem_singleton.1 hf ▸ .head _)) ht]
    · rw [nat_of_entry (hupdated.regs _ ?_ (refreshFloor_notRange c c hc) (refreshFloor_untold hc)), ← hraised,
        notice_nat _ _ _ _ _ _ (refreshFloor_untold hc), nat_congr (keep_regs _ _ _ _), nat_setNat_same, scrubbedFloor, if_pos h]
      rw [refreshFloor_key]
      omega
  next h => exact ⟨rfl, fun _ _ _ _ => rfl, (if_neg h).symm⟩

/-- The entries that the end of a scrub pass leaves for every channel. -/
theorem FloorSet.nat (h : FloorSet c d e) {r : Row} {i : Nat} (hlow : 0xA00000 ≤ r.key i) (hk : r.key i ∉ Reg.refreshFloor.key c :: rangeKeys c)
    (ht : r.key i ∉ tellKeys) : e.nat r i = d.nat r i := nat_of_entry (h.regs _ hlow hk ht)

theorem FloorSet.corrected (h : FloorSet c d e) {c' : Nat} (hc' : c' < 4) :
    e.nat Reg.channelEccCorrected c' = d.nat Reg.channelEccCorrected c' := by
  refine h.nat ?_ ?_ (chanKey_untold rfl (by decide) hc')
  · rw [channelEccCorrected_key]
    omega
  · simp only [rangeKeys, repaidKeys, channelEccCorrected_key, refreshFloor_key, refreshRange_key, refreshDebt_key, refreshForced_key,
      refreshDoubledEvents_key, List.mem_cons, List.not_mem_nil, or_false]
    omega

theorem FloorSet.passes (h : FloorSet c d e) (hc : c < 4) : e.nat Reg.scrubPasses = d.nat Reg.scrubPasses := by
  refine h.nat (by decide) ?_ (by decide)
  simp only [rangeKeys, repaidKeys, scrubPasses_key, refreshFloor_key, refreshRange_key, refreshDebt_key, refreshForced_key,
    refreshDoubledEvents_key, List.mem_cons, List.not_mem_nil, or_false]
  omega

theorem FloorSet.otherFloor (h : FloorSet c d e) {c' : Nat} (hc : c < 4) (hc' : c' < 4) (hne : c' ≠ c) :
    e.nat Reg.refreshFloor c' = d.nat Reg.refreshFloor c' := by
  refine h.nat ?_ (fun hk => ?_) (refreshFloor_untold hc')
  · rw [refreshFloor_key]
    omega
  · obtain hk | hk := List.mem_cons.1 hk
    · exact key_ne (r := Reg.refreshFloor) (r' := Reg.refreshFloor) (by decide) (by decide) (.inl (by omega)) hk
    · exact refreshFloor_notRange c' c hc hk

/-- The end of a scrub pass for one channel decides nothing of another's floor. -/
theorem FloorSet.otherScrubbed (h : FloorSet c d e) {c' : Nat} (hc : c < 4) (hc' : c' < 4) (hne : c' ≠ c) :
    e.scrubbedFloor c' = d.scrubbedFloor c' := by
  rw [scrubbedFloor, scrubbedFloor, h.base, h.corrected hc', h.otherFloor hc hc' hne]

/-- The floors after the channels of a list have been scrubbed, each once. -/
theorem floors_scrubbed (l : List Nat) : (∀ c ∈ l, c < 4) → l.Nodup → ∀ (d : Dev) (c : Nat), c < 4 →
    (l.foldl floorScrubbed d).nat Reg.refreshFloor c = if c ∈ l then d.scrubbedFloor c else d.nat Reg.refreshFloor c := by
  induction l with
  | nil => intro _ _ d c _; rfl
  | cons x t ih =>
    intro hl hn d c hc
    have hx : x < 4 := hl x (.head _)
    have hset := floorScrubbed_set hx d
    obtain ⟨hxt, hn⟩ := List.nodup_cons.1 hn
    rw [List.foldl_cons, ih (fun y hy => hl y (.tail _ hy)) hn _ c hc]
    by_cases hcx : c = x
    · subst hcx
      rw [if_neg hxt, if_pos (.head _), hset.floor]
    · rw [hset.otherScrubbed hx hc hcx, hset.otherFloor hx hc hcx]
      simp only [List.mem_cons, hcx, false_or]

/-- A count that no channel's floor touches. -/
theorem scrubbed_passes (l : List Nat) : (∀ c ∈ l, c < 4) → ∀ d : Dev, (l.foldl floorScrubbed d).nat Reg.scrubPasses = d.nat Reg.scrubPasses := by
  induction l with
  | nil => exact fun _ _ => rfl
  | cons x t ih =>
    intro hl d
    rw [List.foldl_cons, ih fun y hy => hl y (.tail _ hy)]
    exact (floorScrubbed_set (hl x (.head _)) d).passes (hl x (.head _))

/-- The base of the next scrub pass. -/
def rebased (d : Dev) : Dev :=
  { d with dram := { d.dram with scrubBase := (List.range 4).map fun c => d.nat Reg.channelEccCorrected c } }

theorem scrubPass_eq (d : Dev) : d.scrubPass = d.onPeriod 140 (secCycles (d.nat Reg.scrubPeriod))
    fun d => ((List.range 4).foldl floorScrubbed (d.bump Reg.scrubPasses)).rebased := by
  delta scrubPass rebased floorScrubbed
  rfl

/-- Counting the pass decides nothing of the floors. -/
theorem bump_scrubbedFloor (c : Nat) (d : Dev) : (d.bump Reg.scrubPasses).scrubbedFloor c = d.scrubbedFloor c := by
  rw [scrubbedFloor, scrubbedFloor, bump_dram, nat_bump_ne _ _ Reg.channelEccCorrected _ _ _ _ (key_ne (by decide) (by decide) (.inr (by decide))),
    nat_bump_ne _ _ Reg.refreshFloor _ _ _ _ (key_ne (by decide) (by decide) (.inr (by decide)))]

theorem scrubbedFloor_congr (hregs : e.regs = d.regs) (hdram : e.dram = d.dram) (c : Nat) : e.scrubbedFloor c = d.scrubbedFloor c := by
  rw [scrubbedFloor, scrubbedFloor, hdram, nat_congr hregs, nat_congr hregs]

theorem rebased_nat (d : Dev) (r : Row) (i : Nat) : d.rebased.nat r i = d.nat r i := nat_congr rfl r i 0

theorem scrubPass_reads (h : d.Reaches (d.timerFrom 140 + secCycles (d.nat Reg.scrubPeriod))) :
    d.scrubPass.nat Reg.scrubPasses = (d.nat Reg.scrubPasses + 1) % 2 ^ 32 ∧
      d.scrubPass.dram.scrubBase = ((List.range 4).map fun c => d.scrubPass.nat Reg.channelEccCorrected c) ∧
      ∀ c, c < 4 → d.scrubPass.nat Reg.refreshFloor c = d.scrubbedFloor c := by
  obtain ⟨n, t, he⟩ := onPeriod_acts (fun d => ((List.range 4).foldl floorScrubbed (d.bump Reg.scrubPasses)).rebased) h
  rw [scrubPass_eq, he]
  generalize hlater : (d.advance n).setTimer 140 t = later
  have hregs : later.regs = d.regs := by rw [← hlater, setTimer_regs, advance_regs]
  have hdram : later.dram = d.dram := by rw [← hlater, setTimer_dram, advance_dram]
  have hchannels : ∀ c ∈ List.range 4, c < 4 := fun c => List.mem_range.1
  refine ⟨?_, ?_, fun c hc => ?_⟩
  · rw [rebased_nat, scrubbed_passes _ hchannels, nat_bump_same, nat_congr hregs]
    rfl
  · simp only [rebased_nat]
    rfl
  · rw [rebased_nat, floors_scrubbed _ hchannels List.nodup_range _ c hc, if_pos (List.mem_range.2 hc), bump_scrubbedFloor,
      scrubbedFloor_congr hregs hdram]

end Dev

/-! ### The periodic events of the channels -/

theorem exec_refreshInterval (c : Nat) (s : State) : exec (.refreshInterval c) s = s.run (Dev.whenUp (Dev.refreshInterval c)) := rfl

theorem exec_mr4Poll (c raw0 range0 raw1 range1 : Nat) (s : State) :
    exec (.mr4Poll c raw0 range0 raw1 range1) s = s.run (Dev.whenUp (Dev.mr4Poll c raw0 range0 raw1 range1)) := rfl

theorem exec_rfmIssue (c bank : Nat) (s : State) : exec (.rfmIssue c bank) s = s.run (Dev.whenUp (Dev.rfmIssue c bank)) := rfl

theorem exec_dramOscCheck (c permille : Nat) (eye : Eye) (s : State) :
    exec (.dramOscCheck c permille eye) s = s.run (Dev.whenUp (Dev.oscCheck c permille eye)) := rfl

theorem exec_dramScrubPass (s : State) : exec .dramScrubPass s = s.run (Dev.whenUp Dev.scrubPass) := rfl

/-- Settles O20: each event once it is due, by what it finds in its channel. -/
theorem refreshEvents : Obligations.RefreshEvents := by
  intro s ha
  refine ⟨?_, ?_, ?_, ?_, ?_, ?_⟩
  · intro c mult hc hmult hd
    subst hmult
    obtain ⟨hdebt, hkeeps⟩ := Dev.refreshInterval_reads hc hd
    exact up_completes (exec_refreshInterval c s) ha ⟨s.dev.intervalDebt c (s.dev.refreshInterval c).clock, rfl, hdebt, hkeeps⟩
  · intro c raw range hc hr hd
    obtain ⟨e, hchan, hmr4, hpolls, hraw, hrange⟩ := Dev.mr4Poll_reads hc hr hd raw
    refine ⟨fun hhot => ?_, fun hcool hfew => ?_, fun hcool hthree => ?_⟩ <;> refine up_completes (exec_mr4Poll c raw range raw range s) ha ?_
    · obtain ⟨htaken, hzero⟩ := Dev.rangePolled_taken (d := e) hc (.inl (hchan ▸ hhot))
      exact ⟨hmr4.trans htaken, hpolls.trans hzero, hraw, by rw [hrange, htaken]⟩
    · obtain ⟨hsame, hcounted⟩ := Dev.rangePolled_counted (d := e) hc (hchan ▸ hcool) (hchan ▸ hfew)
      exact ⟨by rw [hmr4, hsame, hchan], by rw [hpolls, hcounted, hchan]⟩
    · obtain ⟨htaken, hzero⟩ := Dev.rangePolled_taken (d := e) hc (.inr ⟨hchan ▸ hcool, hchan ▸ hthree⟩)
      exact ⟨hmr4.trans htaken, hpolls.trans hzero, by rw [hrange, htaken]⟩
  · intro c bank hc hdue hopen
    refine up_completes (exec_rfmIssue c bank s) ha ?_
    rw [Dev.rfmIssue_due hc hdue hopen]
    refine ⟨?_, ?_, Dev.nat_bump_same _ _ _ _, ((Dev.KeepsRegs.refl _ s.dev).of_regs rfl).bump _ _ _ (.head _)⟩
    · rw [Dev.dchan_congr (congrArg Dram.chans (Dev.bump_dram _ _ _ _)), Dev.setDchan_dchan_same _ _ _ hc, nget_nset_same]
    · rw [Dev.dchan_congr (congrArg Dram.chans (Dev.bump_dram _ _ _ _)), Dev.setDchan_dchan_same _ _ _ hc, nget?_nerase_same]
  · intro c bank _ h
    exact up_completes (exec_rfmIssue c bank s) ha (Dev.rfmIssue_idle h)
  · intro c permille eye hc hd
    exact ⟨fun hp => up_completes (exec_dramOscCheck c permille eye s) ha (Dev.oscCheck_drifted hc hd hp eye),
      fun hp => up_completes (exec_dramOscCheck c permille eye s) ha (Dev.oscCheck_steady hc hd hp eye)⟩
  · intro hd
    exact up_completes (exec_dramScrubPass s) ha (Dev.scrubPass_reads hd)

end Sys2Proof.Machine
end

