-- ==== Sys2Proof/Proofs/ArbiterLoads.lean ====
section
/-! ARB_POLICY_TICK and the loads of the Drada links, which the model measures over the same millisecond. -/

namespace Sys2Proof.Machine

/-- A lone QUIET module whose DA link runs at 25,000 Mb/s and has carried 312,500 octets in the present millisecond. -/
def loadedLink : State :=
  let quiet : Dev := { Dev.reset with power := { resetPower with state := .quiet, held := false } }
  { State.reset with dev := (quiet.setNat Reg.dradaRate 25000).setDlink 0 (fun l => { l with loadOctets := 312500 }) }

theorem exec_arbPolicyTick (s : State) : exec .arbPolicyTick s = s.run (Dev.whenUp fun d => d.dradaLoads.arbPolicyTick) := rfl

/-- The tick writes DradaLoad of that link: 10 %, in 0.01 %. -/
theorem loadedLink_tick : loadedLink.dev.nat Reg.dradaLoad = 0 ∧ loadedLink.dev.dradaLoads.arbPolicyTick.nat Reg.dradaLoad = 1000 := by
  decide +kernel

/-- Refutes O19: the frame of the last clause leaves out DradaLoad, whose millisecond the policy tick also ends. In `loadedLink` it
goes from 0 to 1,000. -/
theorem not_arbiterEvents : ¬ Obligations.ArbiterEvents := by
  intro h
  have ha : loadedLink.dev.answers = true := by decide
  have hd : loadedLink.dev.Reaches (loadedLink.dev.timerFrom 100 + Dev.msCycles 1) := fun h => absurd h (by decide)
  obtain ⟨-, -, -, -, -, -, -, htick⟩ := h loadedLink ha 0 (by decide)
  obtain ⟨-, -, -, -, hframe⟩ := (htick hd).of_up (exec_arbPolicyTick loadedLink) ha
  have hload := hframe.nat Reg.dradaLoad 0 0 (by decide) (by decide)
  rw [loadedLink_tick.1, loadedLink_tick.2] at hload
  exact absurd hload (by decide)

end Sys2Proof.Machine
end

