-- ==== Sys2Proof/Proofs/FaultFrame.lean ====
section
/-! What the entry to FAULT leaves: the module but for its power stage, pair and links, and what a response waits for (R548, R558). -/

namespace Sys2Proof.Machine

namespace Dev

variable {d e : Dev}

/-! ### What a count leaves -/

theorem bump_sram (d : Dev) (r : Row) (i n : Nat) : (d.bump r i n).sram = d.sram := (congrArg Dev.sram (untold_bump d d r i n) :)

theorem bump_force (d : Dev) (r : Row) (i n : Nat) : (d.bump r i n).force = d.force := (congrArg Dev.force (untold_bump d d r i n) :)

theorem bump_season (d : Dev) (r : Row) (i n : Nat) : (d.bump r i n).season = d.season := (congrArg Dev.season (untold_bump d d r i n) :)

/-! ### The entry to FAULT (R558) -/

/-- `e` with what the entry to FAULT may change put back as in `d`: what telling changes, the power stage, the moment that READY began, the
pair, the links and what left the module. -/
def unfaulted (d e : Dev) : Dev := { untold d e with power := d.power, sec := d.sec, pair := d.pair, drada := d.drada, out := d.out }

theorem unfaulted_of_untold {b : Dev} (h : untold b e = untold b d) : unfaulted b e = unfaulted b d := by rw [unfaulted, h, unfaulted]

theorem sendCell_unfaulted (b : Dev) (k : Nat) (type : CellType) (dest arg : Nat) (payload : Octets) (settled : Bool) (hops : Nat)
    (src : Option Nat) (d : Dev) : unfaulted b (d.sendCell k type dest arg payload settled hops src) = unfaulted b d := by
  unfold sendCell
  split
  · rfl
  · dsimp only
    split
    · exact (unfaulted_of_untold (untold_bump _ _ _ _ _)).trans rfl
    · rfl

theorem tellPartner_unfaulted (b : Dev) (code : Nat) (body : Octets) (d : Dev) : unfaulted b (d.tellPartner code body) = unfaulted b d := by
  unfold tellPartner
  split
  · rfl
  · exact sendCell_unfaulted _ _ _ _ _ _ _ _ _ _

theorem setIlkOut_unfaulted (b : Dev) (level : Bool) (d : Dev) : unfaulted b (d.setIlkOut level) = unfaulted b d := by
  unfold setIlkOut
  split
  · rfl
  · dsimp only
    split <;> rfl

theorem setPairState_unfaulted (b : Dev) (st : Nat) (d : Dev) : unfaulted b (d.setPairState st) = unfaulted b d := by
  unfold setPairState
  split
  · rfl
  · exact unfaulted_of_untold (untold_notice _ _ _ _)

theorem releaseLead_unfaulted (b d : Dev) : unfaulted b d.releaseLead = unfaulted b d := by
  unfold releaseLead
  extract_lets d1 d2
  have h1 : unfaulted b d1 = unfaulted b d := by
    unfold d1
    split
    · exact tellPartner_unfaulted _ _ _ _
    · rfl
  have h2 : unfaulted b d2 = unfaulted b d := (setIlkOut_unfaulted b false d1).trans h1
  clear_value d2
  split
  · rfl
  · split
    · exact (setPairState_unfaulted _ _ _).trans h2
    · exact h2

theorem setPower_unfaulted (b : Dev) (st : PowerState) (d : Dev) : unfaulted b (d.setPower st) = unfaulted b d := by
  obtain ⟨p, s, -, htold⟩ := setPower_tells st d
  exact (unfaulted_of_untold (htold.untold_eq b)).trans rfl

theorem faultTold_unfaulted (b : Dev) (cause : Nat) (d : Dev) : unfaulted b (d.faultTold cause) = unfaulted b d := by
  refine (unfaulted_of_untold ?_).trans (setPower_unfaulted b .fault d)
  rw [faultTold, untold_logFault, untold_notice, recTrigger_untold]

theorem setStage_unfaulted (b : Dev) (f : Power → Power) (d : Dev) : unfaulted b (d.setStage f) = unfaulted b d := rfl

/-- A cause stored in the entry that keeps it. -/
theorem causeKept_unfaulted (b : Dev) (r : Row) (cause : Nat) (d : Dev) : unfaulted b ((d.setNat r cause).keep r) = unfaulted b d :=
  unfaulted_of_untold ((untold_keep _ _ _ _ _).trans (untold_setNat _ _ _ _ _ _))

/-- The entry to FAULT leaves the rest of the module. -/
theorem enterFault_unfaulted (b : Dev) (cls detail : Nat) (d : Dev) : unfaulted b (d.enterFault cls detail) = unfaulted b d := by
  generalize hc : cls * 2 ^ 24 + detail % 65536 = cause
  rw [enterFault_eq_ite hc]
  split
  · split
    · rfl
    · rw [bootFaulted, causeKept_unfaulted, setStage_unfaulted]
  · split
    · rfl
    · rw [faultTold_unfaulted, faultNoted, setStage_unfaulted, causeKept_unfaulted, releaseLead_unfaulted]

theorem enterFault_sram (cls detail : Nat) (d : Dev) : (d.enterFault cls detail).sram = d.sram :=
  (congrArg Dev.sram (enterFault_unfaulted d cls detail d) :)

/-! ### What a response waits for (R548 to R553) -/

/-- Whether the module is alone, and what a power stage holds until a response has left. -/
def dues (p : Power) : Bool × Option Nat × Bool := (p.pairPresent, p.resetDue, p.offDue)

theorem setPower_power (st : PowerState) (d : Dev) : (d.setPower st).power = { d.power with state := st } := by
  unfold setPower
  dsimp only
  split
  next h => rw [← h]
  next =>
    rw [notice_power]
    split
    · rfl
    · split <;> rfl

theorem faultTold_power (cause : Nat) (d : Dev) : (d.faultTold cause).power = { d.power with state := .fault } := by
  rw [faultTold, logFault_power, notice_power, recTrigger_power, setPower_power]

/-- A lone module has no lead to give up, so that the entry to FAULT changes nothing that a response waits for. -/
theorem enterFault_dues (h : d.lone = true) (cls detail : Nat) : dues (d.enterFault cls detail).power = dues d.power := by
  have hlead : d.releaseLead = d := if_pos h
  generalize hc : cls * 2 ^ 24 + detail % 65536 = cause
  rw [enterFault_eq_ite hc]
  split
  · split
    · rfl
    · rw [bootFaulted, keep_power, setNat_power, setStage_power, dues, dues]
  · split
    · rfl
    · rw [hlead, faultTold_power, faultNoted, setStage_power, keep_power, setNat_power, dues, dues]

/-- A command that is OK leaves what it made, counted by ConfigEpoch, where the module stays alone and nothing waits for the response. -/
theorem ranCommand_ok_of_dues {f : Found} {text : Octets} {act : Dev → Status × Dev} (h : d.Alone) (ha : act d = (Status.ok, e))
    (hd : dues e.power = dues d.power) :
    d.ranCommand f text (fun x => noResult (act x)) = { e.bumpEpoch with lastStatus := Status.ok, lastResult := cmdBack text Status.ok [] } := by
  obtain ⟨hlone, -, -, hreset, hoff⟩ := id h
  have hpower : dues e.bumpEpoch.power = (true, none, false) := by
    rw [show e.bumpEpoch.power = e.power from bump_power _ _ _ _, hd, dues, hreset, hoff, show d.power.pairPresent = true from hlone]
  simp only [dues, Prod.mk.injEq] at hpower
  obtain ⟨hlone', hreset', hoff'⟩ := hpower
  simp only [ranCommand, h.refuses f, Bool.false_eq_true, if_false, ha, noResult, if_true, mirrorPlain_lone hlone']
  exact afterResponse_none hreset' hoff'

end Dev

end Sys2Proof.Machine
end

