-- ==== Sys2Proof/Proofs/TestCommands.lean ====
section
/-! The commands of the march engine, the season account and the self-tests: what each begins, and what refuses it (R421, R532, R536, R540). -/

namespace Sys2Proof.Machine

namespace Dev

variable {d : Dev}

/-! ### MarchCmd (R421) -/

/-- A march run begun. -/
def marchBegun (run : MarchRun) (d : Dev) : Dev :=
  (((d.setSram fun s => { s with march := some run }).setNat Reg.marchState 1).setNat Reg.marchFailures 0).setNat Reg.marchRepairs 0

theorem marchStart_range {f l background : Nat} (h : l < f ∨ 2560 ≤ l ∨ 2 < background) (destructive : Bool) :
    d.marchStart destructive f l background = (Status.range, d) := if_pos h

theorem marchStart_running {f l background : Nat} (hf : f ≤ l) (hl : l < 2560) (hb : background ≤ 2) (h : d.sram.march.isSome = true)
    (destructive : Bool) : d.marchStart destructive f l background = (Status.state, d) := by
  rw [marchStart, if_neg (by omega), if_pos (.inl h)]

/-- A run begins where none runs and every bank of the range qualifies. -/
theorem marchStart_begins {destructive : Bool} {f l background : Nat} (hf : f ≤ l) (hl : l < 2560) (hb : background ≤ 2) (h : d.sram.march = none)
    (hq : ∀ i, f ≤ i → i ≤ l → d.marchOk destructive i = true) :
    d.marchStart destructive f l background = (Status.ok, d.marchBegun ⟨destructive, f, l, background, d.clock⟩) := by
  have hall : (List.range (l + 1 - f)).any (fun i => !d.marchOk destructive (f + i)) = false := by
    simp only [List.any_eq_false, List.mem_range, Bool.not_eq_true, Bool.not_eq_false']
    exact fun i hi => hq _ (by omega) (by omega)
  rw [marchStart, if_neg (by omega), if_neg (by simp [h, hall])]
  rfl

theorem marchOk_destructive {b : Nat} (h : d.bankState b = 0) : d.marchOk true b = true := by simp [marchOk, h]

theorem marchOk_idle {b : Nat} (h : d.bankState b = 0 ∨ d.bankState b = 1) : d.marchOk false b = true := by
  obtain h | h := h <;> simp [marchOk, h]

theorem marchOk_stopped {b : Nat} (hr : d.power.state.runs = false) (hg : bankGroup b ≠ 11) : d.marchOk false b = true := by simp [marchOk, hr, hg]

theorem marchCmdRun_certified (h : d.certified = true) (f l background : Nat) : d.marchCmdRun true f l background = (Status.state, d) :=
  if_pos (by simp [h])

theorem marchCmdRun_open (h : d.certified = false) (f l background : Nat) : d.marchCmdRun true f l background = d.marchStart true f l background :=
  if_neg (by simp [h])

theorem marchCmdRun_preserving (f l : Nat) (d : Dev) : d.marchCmdRun false f l 0 = d.marchStart false f l 0 := rfl

/-- `e` is `d` after a command that began a march run. -/
structure MarchBegan (run : MarchRun) (d e : Dev) : Prop where
  status : e.lastStatus = Status.ok
  state : e.nat Reg.marchState = 1
  failures : e.nat Reg.marchFailures = 0
  repairs : e.nat Reg.marchRepairs = 0
  march : e.sram.march = some run
  regs : KeepsRegs [Reg.marchState.key, Reg.marchFailures.key, Reg.marchRepairs.key, Reg.configEpoch.key] d e

theorem ranCommand_marchBegan {fnd : Found} {text : Octets} {act : Dev → Status × Dev} {run : MarchRun} (h : d.Alone)
    (ha : act d = (Status.ok, d.marchBegun run)) : MarchBegan run d (d.ranCommand fnd text fun x => noResult (act x)) := by
  rw [ranCommand_ok h ha rfl]
  refine ⟨rfl, ?_, ?_, ?_, congrArg Sram.march (bump_sram _ Reg.configEpoch 0 1), ?_⟩
  · rw [ran_nat _ _ _ _ _ _ (by decide), marchBegun, nat_setNat_ne _ _ _ _ _ _ _ _ (by decide), nat_setNat_ne _ _ _ _ _ _ _ _ (by decide),
      nat_setNat_same]
  · rw [ran_nat _ _ _ _ _ _ (by decide), marchBegun, nat_setNat_ne _ _ _ _ _ _ _ _ (by decide), nat_setNat_same]
  · rw [ran_nat _ _ _ _ _ _ (by decide), marchBegun, nat_setNat_same]
  · have hset : KeepsRegs [Reg.marchState.key, Reg.marchFailures.key, Reg.marchRepairs.key, Reg.configEpoch.key] d
        (d.setSram fun s => { s with march := some run }) := (KeepsRegs.refl _ d).of_regs (setSram_regs _ _)
    exact (((hset.setNat Reg.marchState 1 0 0 (by simp)).setNat Reg.marchFailures 0 0 0 (by simp)).setNat Reg.marchRepairs 0 0 0 (by simp)).ran
      (by simp) _ _

/-! ### SelfTestCmd (R540) -/

/-- `e` is `d` after a command that began a self-test. -/
structure TestBegan (kind : Nat) (d e : Dev) : Prop where
  status : e.lastStatus = Status.ok
  state : e.nat Reg.selfTestState = 1
  test : e.season.test = some (kind, d.clock)
  regs : KeepsRegs [Reg.selfTestState.key, Reg.configEpoch.key] d e

theorem selfTest_begins (hp : d.power.state = .quiet ∨ d.power.state = .ready) (ht : d.season.test = none) (kind : Nat) :
    d.selfTest kind = (Status.ok, (d.setSeason fun s => { s with test := some (kind, d.clock) }).setNat Reg.selfTestState 1) :=
  if_neg (by obtain h | h := hp <;> simp [h, ht])

theorem selfTest_refused (h : (d.power.state ≠ .quiet ∧ d.power.state ≠ .ready) ∨ d.season.test.isSome = true) (kind : Nat) :
    d.selfTest kind = (Status.state, d) := if_pos (by simpa using h)

theorem ranCommand_testBegan {fnd : Found} {text : Octets} (h : d.Alone) (hp : d.power.state = .quiet ∨ d.power.state = .ready)
    (ht : d.season.test = none) (kind : Nat) : TestBegan kind d (d.ranCommand fnd text fun x => noResult (x.selfTest kind)) := by
  rw [ranCommand_ok h (selfTest_begins hp ht kind) rfl]
  refine ⟨rfl, ?_, congrArg Season.test (bump_season _ Reg.configEpoch 0 1), ?_⟩
  · rw [ran_nat _ _ _ _ _ _ (by decide), nat_setNat_same]
  · exact (((KeepsRegs.refl _ d).of_regs (setSeason_regs _ _)).setNat Reg.selfTestState 1 0 0 (.head _)).ran (.tail _ (.head _)) _ _

/-! ### SeasonCmd (R532, R536) -/

theorem clearRefresh_other {c : Nat} {serial : Octets} (hc : c < 4) (hs : serial ≠ d.bytes Reg.serialNumber) :
    d.clearRefresh c serial = (Status.ok, d) := by
  rw [clearRefresh, if_neg (by omega), if_pos (by simpa [ownSerial] using hs)]

theorem clearRefresh_range {c : Nat} (hc : 4 ≤ c) (serial : Octets) : d.clearRefresh c serial = (Status.range, d) := if_pos hc

/-- The floor of a channel lowered, and its range with it. -/
def floorLowered (c : Nat) (d : Dev) : Dev := ((d.setNat Reg.refreshFloor 1 c).keep Reg.refreshFloor c).updateRange c

theorem clearRefresh_own {c : Nat} (hc : c < 4) : d.clearRefresh c (d.bytes Reg.serialNumber) = (Status.ok, d.floorLowered c) := by
  rw [clearRefresh, if_neg (by omega), if_neg (by simp [ownSerial]), floorLowered]

theorem floorLowered_floor {c : Nat} (hc : c < 4) (d : Dev) : (d.floorLowered c).nat Reg.refreshFloor c = 1 := by
  have hupdated := updateRange_updated hc ((d.setNat Reg.refreshFloor 1 c).keep Reg.refreshFloor c)
  have hlow : 0xA00000 ≤ Reg.refreshFloor.key c := by
    rw [refreshFloor_key]
    omega
  rw [floorLowered, nat_of_entry (hupdated.regs _ hlow (refreshFloor_notRange c c hc) (refreshFloor_untold hc)), nat_congr (keep_regs _ _ _ _),
    nat_setNat_same]

/-- The range can come to 5, which is a fault, but no response waits for it. -/
theorem updateRange_dues {c : Nat} (hc : c < 4) (hl : d.lone = true) : dues (d.updateRange c).power = dues d.power := by
  obtain ⟨e, hwork, -, he⟩ := updateRange_cases hc d
  have hpower : e.power = d.power := (congrArg Dev.power hwork.rest :)
  obtain he | he := he
  · rw [he, hpower]
  · rw [he, enterFault_dues (by rw [lone, hpower]; exact hl), hpower]

theorem floorLowered_dues {c : Nat} (hc : c < 4) (hl : d.lone = true) : dues (d.floorLowered c).power = dues d.power :=
  updateRange_dues (d := (d.setNat Reg.refreshFloor 1 c).keep Reg.refreshFloor c) hc hl

end Dev

/-- Settles O4: each command by what refuses it and by what it begins, in the form that a command entry gives it. -/
theorem testCommands : Obligations.TestCommands := by
  unfold Obligations.TestCommands
  intro s ha hl
  refine ⟨fun f l b hc hf hlt hb hm hoff => ?_, fun f l hf hlt hm hidle => ?_, fun f l hf hlt hm hr hg => ?_, fun f l h => ?_, fun f l b h => ?_,
    fun f l hf hlt hm => ?_, fun f l b hc h => ?_, ?_, fun c hc => ?_, fun c serial hc hs => ?_, fun c serial hc => ?_,
    fun hp ht => ⟨?_, ?_, ?_, ?_⟩, fun h => ⟨?_, ?_, ?_, ?_⟩⟩ <;> refine up_completes rfl ha ?_
  · obtain ⟨hstatus, hstate, hfailures, hrepairs, hmarch, hregs⟩ := Dev.ranCommand_marchBegan hl ((Dev.marchCmdRun_open hc f l b).trans
      (Dev.marchStart_begins hf hlt hb hm fun i hi hi' => Dev.marchOk_destructive (hoff i hi hi')))
    exact ⟨hstatus, hstate, hfailures, hrepairs, hmarch, hregs⟩
  · obtain ⟨hstatus, hstate, hfailures, hrepairs, hmarch, hregs⟩ := Dev.ranCommand_marchBegan hl ((Dev.marchCmdRun_preserving f l _).trans
      (Dev.marchStart_begins hf hlt (by decide) hm fun i hi hi' => Dev.marchOk_idle (hidle i hi hi')))
    exact ⟨hstatus, hstate, hfailures, hrepairs, hmarch, hregs⟩
  · obtain ⟨hstatus, hstate, -, -, hmarch, -⟩ := Dev.ranCommand_marchBegan hl ((Dev.marchCmdRun_preserving f l _).trans
      (Dev.marchStart_begins hf hlt (by decide) hm fun i hi hi' => Dev.marchOk_stopped hr (hg i hi hi')))
    exact ⟨hstatus, hstate, congrArg (Option.map MarchRun.destructive) hmarch⟩
  · rw [Dev.ranCommand_range hl ((Dev.marchCmdRun_preserving f l _).trans (Dev.marchStart_range (by omega) false))]
    exact ⟨rfl, rfl, rfl⟩
  · have hstate : s.dev.marchCmdRun true f l b = (Status.state, s.dev) := by
      by_cases hc : s.dev.certified = true
      · exact Dev.marchCmdRun_certified hc f l b
      · obtain ⟨hf, hlt, hb, hm⟩ := h.resolve_left hc
        exact (Dev.marchCmdRun_open (by simpa using hc) f l b).trans (Dev.marchStart_running hf hlt hb hm true)
    rw [Dev.ranCommand_refused (st := Status.state) hl (by decide) (congrArg noResult hstate)]
    exact ⟨rfl, rfl, rfl⟩
  · rw [Dev.ranCommand_refused (st := Status.state) hl (by decide) (congrArg noResult ((Dev.marchCmdRun_preserving f l _).trans
      (Dev.marchStart_running hf hlt (by decide) hm false)))]
    exact ⟨rfl, rfl, rfl⟩
  · rw [Dev.ranCommand_range hl ((Dev.marchCmdRun_open hc f l b).trans (Dev.marchStart_range h true))]
    exact ⟨rfl, rfl, rfl⟩
  · rw [Dev.ranCommand_ok (act := Dev.seasonMeasureCmd) hl rfl rfl]
    exact ⟨rfl, Dev.bump_season _ Reg.configEpoch 0 1,
      ((Dev.KeepsRegs.refl _ _).of_regs (Dev.setSeason_regs _ _)).ran (.head _) _ _⟩
  · rw [Dev.ranCommand_ok_of_dues hl (Dev.clearRefresh_own hc) (Dev.floorLowered_dues hc hl.1)]
    refine ⟨rfl, ?_⟩
    rw [Dev.ran_nat _ _ _ _ _ _ (by simp only [refreshFloor_key, configEpoch_key]; omega), Dev.floorLowered_floor hc]
  · rw [Dev.ranCommand_ok hl (Dev.clearRefresh_other hc hs) rfl]
    exact ⟨rfl, (Dev.KeepsRegs.refl _ _).ran (.head _) _ _⟩
  · rw [Dev.ranCommand_range hl (Dev.clearRefresh_range hc serial)]
    exact ⟨rfl, rfl⟩
  iterate 4
    · obtain ⟨hstatus, hstate, htest, hregs⟩ := Dev.ranCommand_testBegan hl hp ht _
      exact ⟨hstatus, hstate, htest, hregs⟩
  iterate 4
    · rw [Dev.ranCommand_refused (st := Status.state) hl (by decide) (congrArg noResult (Dev.selfTest_refused h _))]
      exact ⟨rfl, rfl, rfl⟩

end Sys2Proof.Machine
end

