-- ==== Sys2Proof/Proofs/MemoryErrors.lean ====
section
/-! Errors of on-chip memory: a corrected word counted and written back, a word read again, and the period of the scrubber (R413 to R415). -/

namespace Sys2Proof.Machine

namespace Dev

variable {d e : Dev} {bank word place : Nat}

/-! ### SRAM_WRITEBACK (R413, R415) -/

theorem sramCorrected_sram (bank : Nat) (d : Dev) : (d.sramCorrected bank).sram =
    { d.sram with corrected := nput d.sram.corrected bank (min 0xFFFF (nget 0 d.sram.corrected bank + 1)) } := by
  rw [sramCorrected, noticeOnce_sram, setSram_sram, bump_sram]

theorem sramCorrected_count (bank : Nat) (d : Dev) :
    (d.sramCorrected bank).nat Reg.sramEccCorrected = (d.nat Reg.sramEccCorrected + 1) % 2 ^ 32 := by
  rw [sramCorrected, noticeOnce_nat _ _ _ _ _ _ _ (by decide), nat_congr (setSram_regs _ _), nat_bump_same]
  rfl

theorem sramCorrected_keepsRegs (bank : Nat) (d : Dev) : KeepsRegs [Reg.sramEccCorrected.key] d (d.sramCorrected bank) :=
  (((KeepsRegs.refl _ d).bump Reg.sramEccCorrected 0 1 (.head _)).of_regs (setSram_regs _ _)).told (told_noticeOnce _ _ _ _)

/-- A correction counted by the function that owns the word. -/
def ownerCounted (place : Nat) (d : Dev) : Dev :=
  match d.errorCounter place with
  | some (r, i, code, source) => (d.bump r i).logCorrected source code i
  | none => d

/-- The key of the entry that the function owning a word counts in. -/
def ownerKeys (place : Nat) (d : Dev) : List Nat := ((d.errorCounter place).map fun x => x.1.key x.2.1).toList

theorem ownerCounted_sram (place : Nat) (d : Dev) : (d.ownerCounted place).sram = d.sram := by
  unfold ownerCounted
  split
  · rw [logCorrected_sram, bump_sram]
  · rfl

theorem ownerCounted_keepsRegs (place : Nat) (d : Dev) : KeepsRegs (d.ownerKeys place) d (d.ownerCounted place) := by
  unfold ownerCounted
  split
  next r i code source h => exact ((KeepsRegs.refl _ d).bump r i 1 (by simp [ownerKeys, h])).told (told_logCorrected _ _ _ _)
  next => exact .refl _ d

/-- The owner of a word is found from the shape in force and the slots of the correction stage. -/
theorem errorCounter_congr (hforce : e.force = d.force) (hcorr : e.corr = d.corr) (place : Nat) : e.errorCounter place = d.errorCounter place := by
  have houts : e.outs = d.outs := by rw [outs, inForce, hforce]; rfl
  have hslot : e.slotOwner = d.slotOwner := by
    funext s
    simp only [slotOwner, firSlot, houts, hcorr]
  simp only [errorCounter, houts, hslot]

/-- The counters of the functions that own words. -/
def ownerRows : List Row := [Reg.rinkEccCorrected, Reg.coreEccCorrected, Reg.correctionEccCorrected, Reg.convEccCorrected]

theorem errorCounter_row {x : Row × Nat × Nat × Nat} (h : d.errorCounter place = some x) : x.1 ∈ ownerRows := by
  have hcounter {y : Row × Nat × Nat × Nat} (hy : y.1 ∈ ownerRows) (h : some y = some x) : x.1 ∈ ownerRows := Option.some.inj h ▸ hy
  have houtput {o : Option Nat} (h : (o.map fun m => (Reg.correctionEccCorrected, 0, 0x7A00, 0x10000 + m)) = some x) : x.1 ∈ ownerRows := by
    obtain ⟨m, -, hx⟩ := Option.map_eq_some_iff.1 h
    exact hcounter (by simp [ownerRows]) (congrArg some hx)
  unfold errorCounter at h
  dsimp only at h
  split at h
  case h_7 | h_8 | h_9 => exact houtput h
  case h_11 => exact absurd h (by simp)
  all_goals exact hcounter (by simp [ownerRows]) h

/-- Every owner's counter has another sub-index than the bank's. -/
theorem sramEccCorrected_notOwner (place : Nat) (d : Dev) : Reg.sramEccCorrected.key ∉ d.ownerKeys place := by
  intro h
  simp only [ownerKeys, Option.mem_toList, Option.map_eq_some_iff] at h
  obtain ⟨x, hx, hkey⟩ := h
  have hsub : ∀ r ∈ ownerRows, r.sub < 0x100 ∧ Reg.sramEccCorrected.sub ≠ r.sub := by decide
  obtain ⟨hlt, hne⟩ := hsub x.1 (errorCounter_row hx)
  exact key_ne (by decide) hlt (.inr hne) hkey.symm

/-- The count of a bank and the flipped bits of the word after its correction. -/
def wordCorrected (place : Nat) (s : Sram) : Sram :=
  { s with corrected := nput s.corrected (place / 8192) (min 0xFFFF (nget 0 s.corrected (place / 8192) + 1)), flips := nerase s.flips place }

/-- A word corrected: counted by its bank and by its owner. -/
def correctionCounted (place : Nat) (d : Dev) : Dev :=
  ((d.sramCorrected (place / 8192)).setSram fun s => { s with flips := nerase s.flips place }).ownerCounted place

theorem bankCorrected_eq (place : Nat) (superseded : Bool) (d : Dev) : d.bankCorrected place superseded =
    if superseded then d.correctionCounted place
    else (d.correctionCounted place).setSram fun s => { s with recheck := nput s.recheck place 1 } := by
  delta bankCorrected correctionCounted ownerCounted
  rfl

theorem correctionCounted_sram (place : Nat) (d : Dev) : (d.correctionCounted place).sram = wordCorrected place d.sram := by
  rw [correctionCounted, ownerCounted_sram, setSram_sram, sramCorrected_sram, wordCorrected]

/-- What counts a correction: the bank's entry, and the one of the function that owns the word. -/
theorem correctionCounted_keepsRegs (place : Nat) (d : Dev) :
    KeepsRegs (Reg.sramEccCorrected.key :: d.ownerKeys place) d (d.correctionCounted place) ∧
      (d.correctionCounted place).nat Reg.sramEccCorrected = (d.nat Reg.sramEccCorrected + 1) % 2 ^ 32 := by
  generalize he : (d.sramCorrected (place / 8192)).setSram (fun s => { s with flips := nerase s.flips place }) = e
  have hforce : e.force = d.force := by rw [← he, setSram_force, sramCorrected, noticeOnce_force, setSram_force, bump_force]
  have hcorr : e.corr = d.corr := by rw [← he, setSram_corr, sramCorrected, noticeOnce_corr, setSram_corr, bump_corr]
  have hregs : e.regs = (d.sramCorrected (place / 8192)).regs := by rw [← he, setSram_regs]
  have hkeys : e.ownerKeys place = d.ownerKeys place := by rw [ownerKeys, errorCounter_congr hforce hcorr, ownerKeys]
  have howner := ownerCounted_keepsRegs place e
  rw [hkeys] at howner
  rw [correctionCounted, he]
  refine ⟨?_, ?_⟩
  · exact (((sramCorrected_keepsRegs _ d).of_regs hregs).mono (by simp)).trans (howner.mono fun _ => .tail _)
  · rw [howner.nat _ _ _ (sramEccCorrected_notOwner place d) (by decide), nat_congr hregs, sramCorrected_count]

theorem bankCorrected_reads (place : Nat) (superseded : Bool) (d : Dev) :
    (d.bankCorrected place superseded).nat Reg.sramEccCorrected = (d.nat Reg.sramEccCorrected + 1) % 2 ^ 32 ∧
      (d.bankCorrected place superseded).sram =
        (if superseded then wordCorrected place d.sram
        else { wordCorrected place d.sram with recheck := nput d.sram.recheck place 1 }) ∧
      KeepsRegs (Reg.sramEccCorrected.key :: d.ownerKeys place) d (d.bankCorrected place superseded) := by
  obtain ⟨hkeeps, hcount⟩ := correctionCounted_keepsRegs place d
  have hsram := correctionCounted_sram place d
  rw [bankCorrected_eq]
  cases superseded
  · refine ⟨hcount, ?_, hkeeps.of_regs (setSram_regs _ _)⟩
    exact (setSram_sram _ _).trans (by rw [hsram]; rfl)
  · exact ⟨hcount, hsram, hkeeps⟩

theorem sramWriteback_on (hb : bank < 2560) (hw : word < 8192) (ho : d.bankState bank = 2) (superseded : Bool) :
    d.sramWriteback bank word superseded = d.bankCorrected (bank * 8192 + word) superseded := if_neg (by omega)

theorem sramWriteback_idle (h : 2560 ≤ bank ∨ 8192 ≤ word ∨ d.bankState bank ≠ 2) (superseded : Bool) :
    d.sramWriteback bank word superseded = d := if_pos h

/-! ### SRAM_HARD_FAULT_RECHECK (R415) -/

theorem countPending_keepsRegs (d : Dev) : KeepsRegs [Reg.repairPending.key] d d.countPending := (KeepsRegs.refl _ d).setNat _ _ _ _ (.head _)

theorem countPending_sram (d : Dev) : d.countPending.sram = d.sram := setNat_sram _ _ _ _ _

/-- A row made pending stands in its bank's repair table. -/
theorem pendRow_reads (bank row : Nat) (d : Dev) : ((d.pendRow bank row).repairs bank).contains (0x2000 + row) = true ∧
    (d.pendRow bank row).sram.recheck = d.sram.recheck ∧ KeepsRegs [Reg.repairPending.key] d (d.pendRow bank row) := by
  unfold pendRow
  split
  next h => exact ⟨h, rfl, .refl _ d⟩
  next =>
    refine ⟨?_, ?_, (((KeepsRegs.refl _ d).of_regs (setSram_regs _ _)).trans (countPending_keepsRegs _)).told (told_notice _ _ _)⟩
    · rw [repairs, notice_sram, countPending_sram, setSram_sram, nget_nput_same]
      simp
    · rw [notice_sram, countPending_sram, setSram_sram]

/-- The mark of a word that was written back, taken away. -/
def unmarked (bank word : Nat) (d : Dev) : Dev := d.setSram fun s => { s with recheck := nerase s.recheck (bank * 8192 + word % 8192) }

theorem unmarked_recheck (bank word : Nat) (d : Dev) : nget? (d.unmarked bank word).sram.recheck (bank * 8192 + word % 8192) = none :=
  nget?_nerase_same _ _

theorem sramRecheck_marked {x : Nat} (h : nget? d.sram.recheck (bank * 8192 + word % 8192) = some x) (bad : Bool) :
    d.sramRecheck bank word bad = if bad then (d.unmarked bank word).pendRow bank (word % 8192 / 32) else d.unmarked bank word := by
  unfold sramRecheck
  dsimp only
  rw [h]
  rfl

theorem sramRecheck_unmarked (h : nget? d.sram.recheck (bank * 8192 + word % 8192) = none) (bad : Bool) : d.sramRecheck bank word bad = d := by
  unfold sramRecheck
  dsimp only
  rw [h]

/-! ### SRAM_SCRUB_PERIOD (R414) -/

theorem scrubLate_reads (h : d.Reaches (d.timerFrom 150 + msCycles (d.nat Reg.sramScrubPeriod))) :
    (d.sramScrubPeriod false).nat Reg.sramScrubLate = (d.nat Reg.sramScrubLate + 1) % 2 ^ 32 ∧
      KeepsRegs [Reg.sramScrubLate.key] d (d.sramScrubPeriod false) := by
  obtain ⟨n, t, he⟩ := onPeriod_acts _ h
  have hlater : ((d.advance n).setTimer 150 t).regs = d.regs := (setTimer_regs _ _ _).trans (advance_regs _ _)
  rw [sramScrubPeriod, he]
  refine ⟨?_, ((KeepsRegs.refl _ d).of_regs hlater).bump Reg.sramScrubLate 0 1 (.head _)⟩
  exact (nat_bump_same _ _ _ _).trans (by rw [nat_congr hlater]; rfl)

/-- A complete pass that finds no flipped bit only counts. -/
theorem scrubPassed_reads (h : d.Reaches (d.timerFrom 150 + msCycles (d.nat Reg.sramScrubPeriod))) (hf : d.sram.flips = []) :
    (d.sramScrubPeriod true).nat Reg.sramScrubPasses = (d.nat Reg.sramScrubPasses + 1) % 2 ^ 32 ∧
      KeepsRegs [Reg.sramScrubPasses.key] d (d.sramScrubPeriod true) := by
  obtain ⟨n, t, he⟩ := onPeriod_acts _ h
  have hlater : ((d.advance n).setTimer 150 t).regs = d.regs := (setTimer_regs _ _ _).trans (advance_regs _ _)
  have hflips : ((d.advance n).setTimer 150 t).sram.flips = [] := by rw [setTimer_sram, advance_sram, hf]
  rw [sramScrubPeriod, he]
  simp only [Bool.not_true, Bool.false_eq_true, if_false, hflips, List.foldl_nil]
  refine ⟨?_, ((KeepsRegs.refl _ d).of_regs hlater).bump Reg.sramScrubPasses 0 1 (.head _)⟩
  exact (nat_bump_same _ _ _ _).trans (by rw [nat_congr hlater]; rfl)

end Dev

end Sys2Proof.Machine
end

