-- ==== Sys2Proof/Proofs/OnChipMemoryEvents.lean ====
section
/-! The power states of banks and the end of a march run, and the events of the on-chip memory (R413 to R421). -/

namespace Sys2Proof.Machine

namespace Dev

variable {d : Dev} {bank : Nat}

/-! ### BANK_POWER_TRANSITION (R417, R421) -/

theorem endMarch_sram (st : Nat) (d : Dev) : (d.endMarch st).sram = { d.sram with march := none } := by
  rw [endMarch, notice_sram, setNat_sram, setSram_sram]

/-- `e` without its march, and with what telling an event may change put back as in `d`. -/
def unmarched (d e : Dev) : Dev := { untold d e with sram := { e.sram with march := none } }

/-- The state that a bank is to take follows from neither. -/
theorem unmarched_bankWanted (d e : Dev) (b : Nat) : (unmarched d e).bankWanted b = e.bankWanted b := rfl

theorem endMarch_unmarched (b : Dev) (st : Nat) (d : Dev) : unmarched b (d.endMarch st) = unmarched b d := by
  rw [unmarched, endMarch_sram, endMarch, untold_notice, untold_setNat]
  rfl

theorem endMarch_bankWanted (st b : Nat) (d : Dev) : (d.endMarch st).bankWanted b = d.bankWanted b := by
  rw [← unmarched_bankWanted d, endMarch_unmarched, unmarched_bankWanted]

theorem endMarch_keepsRegs (st : Nat) (d : Dev) : KeepsRegs [Reg.marchState.key] d (d.endMarch st) :=
  (((KeepsRegs.refl _ d).of_regs (setSram_regs _ _)).setNat Reg.marchState st 0 0 (.head _)).told (told_notice _ _ _)

theorem endMarch_state (st : Nat) (d : Dev) : (d.endMarch st).nat Reg.marchState = st := by
  rw [endMarch, notice_nat _ _ _ _ _ _ (by decide), nat_setNat_same]

/-- A bank takes the state of R417; the fault of one that lost its spares leaves the on-chip memory. -/
theorem settleBank_sram (b : Nat) (d : Dev) : (d.settleBank b).sram = { d.sram with states := nset 2 d.sram.states b (d.bankWanted b) } := by
  unfold settleBank
  dsimp only
  split
  · rw [enterFault_sram, setSram_sram]
  · exact setSram_sram _ _

theorem settleBank_keepsRegs (b : Nat) (d : Dev) : KeepsRegs faultKeys d (d.settleBank b) := by
  have hset (f : Sram → Sram) : KeepsRegs faultKeys d (d.setSram f) := (KeepsRegs.refl _ d).of_regs (setSram_regs _ _)
  unfold settleBank
  dsimp only
  split
  · exact (hset _).trans (enterFault_frame _ _ _).2
  · exact hset _

theorem bankTransition_beyond (h : 2560 ≤ bank) : d.bankTransition bank = d := if_pos h

theorem bankTransition_settles (hb : bank < 2560) (hm : d.marching bank = false) : d.bankTransition bank = d.settleBank bank := by
  rw [bankTransition, if_neg (Nat.not_le.2 hb), if_neg (by simp [hm])]

theorem bankTransition_aborts (hb : bank < 2560) (hm : d.marching bank = true) (hr : nget 2 d.sram.states bank = 1) (hw : d.bankWanted bank = 2) :
    d.bankTransition bank = (d.endMarch 4).settleBank bank := by
  rw [bankTransition, if_neg (Nat.not_le.2 hb), if_pos hm, if_pos ⟨hr, hw⟩]

/-! ### MARCH_COMPLETE (R418, R421) -/

/-- The entries that the repair of a row may write. -/
def repairKeys : List Nat := [Reg.repairPending.key, Reg.marchRepairs.key]

theorem repairRow_keepsRegs (bank row : Nat) (d : Dev) : KeepsRegs repairKeys d (d.repairRow bank row) := by
  have hset (f : Sram → Sram) : KeepsRegs repairKeys d (d.setSram f) := (KeepsRegs.refl _ d).of_regs (setSram_regs _ _)
  unfold repairRow
  dsimp only
  split
  · exact ((hset _).trans ((countPending_keepsRegs _).mono (by simp [repairKeys]))).bump Reg.marchRepairs 0 1 (by simp [repairKeys])
  · exact (hset _).told (told_notice _ _ _)

/-- Several banks settled leave the march and the repair table, and what the fault of an unusable one leaves. -/
theorem settled_leaves (f : Nat → Nat) (l : List Nat) (d : Dev) : (l.foldl (fun d i => d.settleBank (f i)) d).sram.march = d.sram.march ∧
    (l.foldl (fun d i => d.settleBank (f i)) d).sram.repair = d.sram.repair ∧
    KeepsRegs faultKeys d (l.foldl (fun d i => d.settleBank (f i)) d) := by
  refine ⟨?_, ?_, (KeepsRegs.refl _ d).foldl fun e i _ => settleBank_keepsRegs (f i) e⟩
  · induction l generalizing d with
    | nil => rfl
    | cons i t ih => rw [List.foldl_cons, ih, settleBank_sram]
  · induction l generalizing d with
    | nil => rfl
    | cons i t ih => rw [List.foldl_cons, ih, settleBank_sram]

/-- The failing words that lie in the range of a run: bank, row and number of words. -/
def hitsOf (run : MarchRun) (failures : List (Nat × Nat × Nat)) : List (Nat × Nat × Nat) :=
  failures.filter fun x => run.first ≤ x.1 && x.1 ≤ run.last && x.2.1 < 256

/-- The failures of a run counted, and their rows repaired. -/
def hitsRepaired (hits : List (Nat × Nat × Nat)) (d : Dev) : Dev :=
  hits.foldl (fun d x => d.repairRow x.1 x.2.1) (d.setNat Reg.marchFailures (hits.foldl (fun n x => n + x.2.2) 0))

theorem hitsRepaired_failures (hits : List (Nat × Nat × Nat)) (d : Dev) :
    (d.hitsRepaired hits).nat Reg.marchFailures = hits.foldl (fun n x => n + x.2.2) 0 := by
  have hrepaired : KeepsRegs repairKeys (d.setNat Reg.marchFailures (hits.foldl (fun n x => n + x.2.2) 0)) (d.hitsRepaired hits) :=
    (KeepsRegs.refl _ _).foldl fun e x _ => repairRow_keepsRegs x.1 x.2.1 e
  rw [hrepaired.nat _ _ _ (by decide) (by decide), nat_setNat_same]

/-- A run over: its failures counted and repaired, its outcome told, and its banks in their states again. -/
def marchOver (run : MarchRun) (hits : List (Nat × Nat × Nat)) (d : Dev) : Dev :=
  (List.range (run.last + 1 - run.first)).foldl (fun d i => d.settleBank (run.first + i))
    ((d.hitsRepaired hits).endMarch (if hits.isEmpty then 2 else 3))

theorem marchComplete_idle (h : d.sram.march = none) (failures : List (Nat × Nat × Nat)) : d.marchComplete failures = d := by
  unfold marchComplete
  rw [h]

theorem marchComplete_due {run : MarchRun} (h : d.sram.march = some run)
    (hd : d.Reaches (run.startedAt + cdiv (run.last + 1 - run.first) 64 * 40960)) (failures : List (Nat × Nat × Nat)) :
    d.marchComplete failures = (d.advanceTo (run.startedAt + cdiv (run.last + 1 - run.first) 64 * 40960)).marchOver run (hitsOf run failures) := by
  unfold marchComplete
  rw [h]
  exact onDue_eq _ _ _ hd

theorem marchOver_reads (run : MarchRun) (hits : List (Nat × Nat × Nat)) (d : Dev) : (d.marchOver run hits).sram.march = none ∧
    (d.marchOver run hits).nat Reg.marchState = (if hits = [] then 2 else 3) ∧
    (d.marchOver run hits).nat Reg.marchFailures = hits.foldl (fun n x => n + x.2.2) 0 ∧
    (hits = [] → (d.marchOver run hits).sram.repair = d.sram.repair) := by
  obtain ⟨hmarch, hrepair, hregs⟩ := settled_leaves (run.first + ·) (List.range (run.last + 1 - run.first))
    ((d.hitsRepaired hits).endMarch (if hits.isEmpty then 2 else 3))
  rw [marchOver]
  refine ⟨?_, ?_, ?_, fun hnone => ?_⟩
  · rw [hmarch, endMarch_sram]
  · rw [hregs.nat _ _ _ (by decide) (by decide), endMarch_state]
    simp only [List.isEmpty_iff]
  · rw [hregs.nat _ _ _ (by decide) (by decide), (endMarch_keepsRegs _ _).nat _ _ _ (by decide) (by decide), hitsRepaired_failures]
  · rw [hrepair, endMarch_sram, hnone]
    rfl

end Dev

theorem exec_sramWriteback (bank word : Nat) (superseded : Bool) (s : State) :
    exec (.sramWriteback bank word superseded) s = s.run (Dev.whenUp (Dev.sramWriteback bank word superseded)) := rfl

theorem exec_sramHardFaultRecheck (bank word : Nat) (bad : Bool) (s : State) :
    exec (.sramHardFaultRecheck bank word bad) s = s.run (Dev.whenUp (Dev.sramRecheck bank word bad)) := rfl

theorem exec_sramScrubPeriod (complete : Bool) (s : State) :
    exec (.sramScrubPeriod complete) s = s.run (Dev.whenUp (Dev.sramScrubPeriod complete)) := rfl

theorem exec_bankPowerTransition (bank : Nat) (s : State) : exec (.bankPowerTransition bank) s = s.run (Dev.whenUp (Dev.bankTransition bank)) := rfl

theorem exec_marchComplete (failures : List (Nat × Nat × Nat)) (s : State) :
    exec (.marchComplete failures) s = s.run (Dev.whenUp (Dev.marchComplete failures)) := rfl

/-- Settles O23: each event by the condition it acts under, and what it leaves where that does not hold. -/
theorem onChipMemoryEvents : Obligations.OnChipMemoryEvents := by
  unfold Obligations.OnChipMemoryEvents
  intro s ha
  refine ⟨fun bank word superseded hb hw ho => ?_, fun bank word superseded h => ?_, fun bank word x h => ⟨?_, ?_⟩, fun bank word bad h => ?_,
    fun hd => ⟨?_, fun hf => ?_⟩, fun bank hb hm => ?_, fun bank h => ?_, fun bank hb hm hr hw => ?_, fun hm failures => ?_,
    fun m failures hits hm hd hh => ?_⟩
  · refine up_completes (exec_sramWriteback bank word superseded s) ha ?_
    rw [Dev.sramWriteback_on hb hw ho]
    obtain ⟨hcount, hsram, hregs⟩ := Dev.bankCorrected_reads (bank * 8192 + word) superseded s.dev
    have hbank : (bank * 8192 + word) / 8192 = bank := by omega
    refine ⟨hcount, fun hs => ?_, fun hs => ?_, ?_, ?_, hregs⟩
    · rw [hsram, hs]
      exact nget?_nput_same _ _ _
    · rw [hsram, hs]
      rfl
    · rw [hsram]
      cases superseded <;> exact nget?_nerase_same _ _
    · rw [hsram]
      cases superseded <;> simp [Dev.wordCorrected, hbank]
  · exact up_completes (exec_sramWriteback bank word superseded s) ha (Dev.sramWriteback_idle h superseded)
  · refine up_completes (exec_sramHardFaultRecheck bank word false s) ha ?_
    rw [Dev.sramRecheck_marked h]
    exact ⟨Dev.unmarked_recheck _ _ _, rfl, (Dev.KeepsRegs.refl _ _).of_regs (Dev.setSram_regs _ _)⟩
  · refine up_completes (exec_sramHardFaultRecheck bank word true s) ha ?_
    rw [Dev.sramRecheck_marked h, if_pos rfl]
    obtain ⟨hpending, hrecheck, hregs⟩ := Dev.pendRow_reads bank (word % 8192 / 32) (s.dev.unmarked bank word)
    exact ⟨by rw [hrecheck, Dev.unmarked_recheck], hpending, ((Dev.KeepsRegs.refl _ s.dev).of_regs (Dev.setSram_regs _ _)).trans hregs⟩
  · exact up_completes (exec_sramHardFaultRecheck bank word bad s) ha (Dev.sramRecheck_unmarked h bad)
  · exact up_completes (exec_sramScrubPeriod false s) ha (Dev.scrubLate_reads hd)
  · exact up_completes (exec_sramScrubPeriod true s) ha (Dev.scrubPassed_reads hd hf)
  · refine up_completes (exec_bankPowerTransition bank s) ha ?_
    rw [Dev.bankTransition_settles hb hm, Dev.settleBank_sram, nget_nset_same]
  · exact up_completes (exec_bankPowerTransition bank s) ha (Dev.bankTransition_beyond h)
  · refine up_completes (exec_bankPowerTransition bank s) ha ?_
    rw [Dev.bankTransition_aborts hb hm hr hw, Dev.settleBank_sram]
    refine ⟨?_, ?_, ?_⟩
    · rw [Dev.endMarch_sram]
    · rw [(Dev.settleBank_keepsRegs _ _).nat _ _ _ (by decide) (by decide), Dev.endMarch_state]
    · rw [nget_nset_same, Dev.endMarch_bankWanted, hw]
  · exact up_completes (exec_marchComplete failures s) ha (Dev.marchComplete_idle hm failures)
  · subst hh
    refine up_completes (exec_marchComplete failures s) ha ?_
    rw [Dev.marchComplete_due hm hd failures]
    obtain ⟨hmarch, hstate, hfailures, hrepair⟩ := Dev.marchOver_reads m (Dev.hitsOf m failures)
      (s.dev.advanceTo (m.startedAt + cdiv (m.last + 1 - m.first) 64 * 40960))
    exact ⟨hmarch, hstate, hfailures, fun hnone => (hrepair hnone).trans (by rw [Dev.advanceTo_sram])⟩

end Sys2Proof.Machine
end

