-- ==== Sys2Proof/Proofs/Tap.lean ====
section
/-! What an instruction of the test access port shows, and where it stops (R525, R526). -/

namespace Sys2Proof.Machine

/-- Where the module's logic does not run, no instruction reaches the test access port. -/
theorem exec_jtagInstruction_dead {s : State} (h : s.dev.live = false) (op : JtagOp) : exec (.jtagInstruction op) s = .next s := by
  show execJtagInstruction op s = _
  rw [execJtagInstruction, h]
  rfl

/-- An instruction that shifts completes with what it shows. -/
theorem exec_jtagInstruction_shifts {s : State} {op : JtagOp} {e : Dev} (h : s.dev.live = true) (he : s.dev.tapShift op = some e) :
    exec (.jtagInstruction op) s = .next { s with dev := e } := by
  show execJtagInstruction op s = _
  rw [execJtagInstruction, if_pos h, he]

theorem exec_jtagInstruction_stops {s : State} {op : JtagOp} (h : s.dev.live = true) (he : s.dev.tapShift op = none) :
    exec (.jtagInstruction op) s = .refused .debugUnit := by
  show execJtagInstruction op s = _
  rw [execJtagInstruction, if_pos h, he]

theorem jtagInstruction_completes {s : State} {op : JtagOp} {e : Dev} {P : Dev → Prop} (h : s.dev.live = true)
    (he : s.dev.tapShift op = some e) (hp : P e) : Completes (.jtagInstruction op) s P :=
  ⟨_, exec_jtagInstruction_shifts h he, rfl, rfl, hp⟩

theorem Dev.tapShift_other_locked {d : Dev} (h : d.nat Reg.jtagState = 0) : d.tapShift .other = some { d with fwRead := 0 } := if_pos h

theorem Dev.tapShift_other_unlocked {d : Dev} (h : d.nat Reg.jtagState ≠ 0) : d.tapShift .other = none := if_neg h

/-- Settles O15, by what each instruction shifts. -/
theorem testAccessPort : Obligations.TestAccessPort := by
  unfold Obligations.TestAccessPort
  intro s
  refine ⟨fun op h => ⟨_, exec_jtagInstruction_dead h op, rfl, rfl, rfl⟩, fun h => ⟨?_, ?_, ?_, fun hlocked => ?_, fun hunlocked => ?_⟩⟩
  · exact jtagInstruction_completes h rfl rfl
  · exact jtagInstruction_completes h rfl rfl
  · exact jtagInstruction_completes h rfl ⟨rfl, rfl, rfl⟩
  · exact jtagInstruction_completes h (Dev.tapShift_other_locked hlocked) rfl
  · exact exec_jtagInstruction_stops h (Dev.tapShift_other_unlocked hunlocked)

/-- Settles O60: IDCODE, BYPASS and SAMPLE touch no entry, and a locked port shifts any other instruction as it does BYPASS. -/
theorem lockedTap : Obligations.LockedTap := by
  unfold Obligations.LockedTap
  intro s h hlocked
  refine ⟨?_, ?_, ?_, ?_⟩
  · exact jtagInstruction_completes h rfl ⟨rfl, rfl, rfl⟩
  · exact jtagInstruction_completes h rfl ⟨rfl, rfl⟩
  · exact jtagInstruction_completes h rfl ⟨rfl, rfl⟩
  · rw [exec_jtagInstruction_shifts h (Dev.tapShift_other_locked hlocked), exec_jtagInstruction_shifts (op := .bypass) h rfl]

end Sys2Proof.Machine
end

