-- ==== Sys2Proof/Proofs/PairCounterexamples.lean ====
section
/-! A held response that leaves on a link whose cells wait, and an audit of a point that Table 15-5 does not have. -/

namespace Sys2Proof.Machine

/-- A lead of a pair in QUIET, with ILK_IN low, whose DA link is DOWN. -/
def quietLead : Dev :=
  ({ Dev.reset with power := { resetPower with state := .quiet, held := false, pairPresent := false } } : Dev).setNat Reg.pairState 2

/-! ### A response to the head (R436, R462, R477) -/

/-- The lead at a member of a healed ring, whose head lies across its DB link; the link is UP and has no credit, and a response to the head
waits for the standby's acknowledgement. -/
def heldForHead : State :=
  let ring : Dev := ((quietLead.setNat Reg.groupTopology 2).setNat Reg.dradaLinkState 2 1).setDrada fun g => { g with breaks := [0] }
  { State.reset with dev := (ring.setDlink 1 fun l => { l with credits := [0, 0, 0] }).setPair fun p =>
    { p with mirrors := [(0, 0, .response proxyBase [])] } }

theorem exec_mirrorAckTimeout (s : State) : exec .mirrorAckTimeout s = s.run (Dev.whenUp fun d => d.mirrorTimeout) := rfl

/-- The response waits on the DB link, which DradaCreditStalls counts. -/
theorem heldForHead_stalls :
    heldForHead.dev.nat Reg.dradaCreditStalls 1 = 0 ∧ heldForHead.dev.mirrorTimeout.nat Reg.dradaCreditStalls 1 = 1 := by decide +kernel

/-- Refutes O25: the last clause asks that DA is DOWN, and the head can lie across DB; in `heldForHead` the response that no longer waits
for the standby finds no credit there, so that DradaCreditStalls changes besides PairState. -/
theorem not_pairHandover : ¬ Obligations.PairHandover := by
  intro h
  have ha : heldForHead.dev.answers = true := by decide
  have hd : heldForHead.dev.Reaches (0 + Dev.usCycles 1000) := fun h => absurd h (by decide)
  obtain ⟨-, -, -, -, -, -, -, -, htimeout⟩ := h heldForHead ha (by decide)
  obtain ⟨-, -, hframe⟩ := (htimeout 0 0 (.response proxyBase []) [] rfl hd (by decide +kernel) (by decide +kernel)).of_up
    (exec_mirrorAckTimeout heldForHead) ha
  have hstalls := hframe.nat Reg.dradaCreditStalls 1 0 (by decide) (by decide)
  rw [heldForHead_stalls.1, heldForHead_stalls.2] at hstalls
  exact absurd hstalls (by decide)

/-! ### The octet of AuditLast that holds the row (R441) -/

/-- The lead while it audits block 0, in which it raised a fault, at a point 256. -/
def farPoint : State :=
  { State.reset with dev := quietLead.setPair fun p => { p with audit := some { block := 0, point := 256, first := 0, disputed := [] }, faults := [0] } }

theorem exec_auditCheckBlock (x y z : Bool) (disputed : List Nat) (s : State) :
    exec (.auditCheckBlock x y z disputed) s = s.run (Dev.whenUp fun d => d.auditCheck x y z disputed) := rfl

/-- The audit is decided by row 1, and AuditLast reads row 2. -/
theorem farPoint_decided : (farPoint.dev.auditCheck false false false []).nat Reg.auditLast / 2 ^ 24 = 2 := by decide +kernel

/-- Refutes O26: no hypothesis keeps the point of the audit to the octet that it takes in AuditLast, and in `farPoint` it reaches the octet
of the row. -/
theorem not_pairTracing : ¬ Obligations.PairTracing := by
  intro h
  have ha : farPoint.dev.answers = true := by decide
  obtain ⟨-, -, -, -, -, haudit, -⟩ := h farPoint ha (by decide)
  obtain ⟨hrow, -⟩ := (haudit _ [] rfl (by decide) (by decide +kernel) rfl).of_up (exec_auditCheckBlock _ _ _ _ farPoint) ha
  rw [farPoint_decided] at hrow
  exact absurd hrow (by decide)

end Sys2Proof.Machine
end

