-- ==== Sys2Proof/Proofs/CatchingUp.lean ====
section
/-! The stages of a standby that catches up: what ends each, and what restarts them (R444, R446, R447). -/

namespace Sys2Proof.Machine

namespace Dev

variable {d : Dev}

theorem catchupHistory_due (h5 : d.nat Reg.pairState = 5) (h2 : d.nat Reg.catchupStage = 2)
    (h : d.pair.stageAt + d.nat Reg.historyHorizon ≤ d.msc) :
    d.catchupHistory = (d.setNat Reg.catchupStage 3).setPair fun p => { p with stageAt := d.msc } := if_pos ⟨h5, h2, h⟩

theorem catchupHistory_waits (h : d.msc < d.pair.stageAt + d.nat Reg.historyHorizon) : d.catchupHistory = d :=
  if_neg fun ⟨_, _, hdue⟩ => absurd h (Nat.not_lt.mpr hdue)

theorem catchupSeeding_due (h5 : d.nat Reg.pairState = 5) (h3 : d.nat Reg.catchupStage = 3) (h : d.pair.stageAt + 320 ≤ d.msc) :
    d.catchupSeeding = ((d.setNat Reg.catchupStage 4).setNat Reg.agreeRun 0).setPair fun p => { p with stageAt := d.msc } := if_pos ⟨h5, h3, h⟩

theorem catchupSeeding_waits (h : d.msc < d.pair.stageAt + 320) : d.catchupSeeding = d :=
  if_neg fun ⟨_, _, hdue⟩ => absurd h (Nat.not_lt.mpr hdue)

/-- The catching up begun anew: at stage 1 where that is not yet complete, else at stage 2 (R447). -/
def restarted (d : Dev) : Dev :=
  let d := d.notice 0x8008 0
  let d := (d.setNat Reg.catchupStage (if d.nat Reg.catchupStage = 1 then 1 else 2)).setNat Reg.agreeRun 0
  d.setPair fun p => { p with stageAt := d.msc, catchupAt := d.clock }

theorem catchupLimit_due (h5 : d.nat Reg.pairState = 5) (h : d.Reaches (d.pair.catchupAt + msCycles (d.nat Reg.catchupLimit))) :
    d.catchupLimit = (d.advanceTo (d.pair.catchupAt + msCycles (d.nat Reg.catchupLimit))).restarted := by
  rw [catchupLimit, if_pos h5, onDue_eq _ _ _ h]
  rfl

theorem restarted_stage (d : Dev) : d.restarted.nat Reg.catchupStage = if d.nat Reg.catchupStage = 1 then 1 else 2 := by
  have htold : (d.notice 0x8008 0).nat Reg.catchupStage = d.nat Reg.catchupStage := notice_nat _ _ _ _ _ _ (by decide)
  rw [restarted, nat_congr (setPair_regs _ _), nat_setNat_ne _ _ _ _ _ _ _ _ (by decide), nat_setNat_same, htold]

theorem restarted_agreeRun (d : Dev) : d.restarted.nat Reg.agreeRun = 0 := by rw [restarted, nat_congr (setPair_regs _ _), nat_setNat_same]

theorem restarted_regs (d : Dev) : KeepsRegs [Reg.catchupStage.key, Reg.agreeRun.key] d d.restarted :=
  ((((KeepsRegs.refl _ d).told (told_notice _ _ _)).setNat Reg.catchupStage _ 0 0 (.head _)).setNat Reg.agreeRun 0 0 0
    (.tail _ (.head _))).of_regs (setPair_regs _ _)

theorem restarted_catchupAt (d : Dev) : d.restarted.pair.catchupAt = d.restarted.clock := by
  unfold restarted
  generalize d.notice 0x8008 0 = e
  rfl

/-- The limit restarts at stage 1 or 2, with the entries of the stage and the run of agreement alone changed. -/
theorem catchupLimit_restarts (h5 : d.nat Reg.pairState = 5) (h : d.Reaches (d.pair.catchupAt + msCycles (d.nat Reg.catchupLimit))) :
    d.catchupLimit.nat Reg.catchupStage = (if d.nat Reg.catchupStage = 1 then 1 else 2) ∧ d.catchupLimit.nat Reg.agreeRun = 0 ∧
      d.catchupLimit.pair.catchupAt = d.catchupLimit.clock ∧ KeepsRegs [Reg.catchupStage.key, Reg.agreeRun.key] d d.catchupLimit := by
  rw [catchupLimit_due h5 h]
  refine ⟨?_, restarted_agreeRun _, restarted_catchupAt _, ?_⟩
  · rw [restarted_stage, advanceTo_nat]
  · exact ((KeepsRegs.refl _ d).of_regs (advanceTo_regs _ _)).trans (restarted_regs _)

end Dev

/-- Settles O27, stage by stage. -/
theorem catchingUp : Obligations.CatchingUp := by
  unfold Obligations.CatchingUp
  intro s ha h5
  refine ⟨fun h2 hdue => ?_, fun _ hwait => ?_, fun h3 hdue => ?_, fun _ hwait => ?_, fun hstage hdue => ?_, fun h1 hdue => ?_⟩ <;>
    refine up_completes rfl ha ?_
  · rw [Dev.catchupHistory_due h5 h2 hdue]
    refine ⟨?_, rfl, ((Dev.KeepsRegs.refl _ s.dev).setNat Reg.catchupStage 3 0 0 (.head _)).of_regs (Dev.setPair_regs _ _)⟩
    rw [Dev.nat_congr (Dev.setPair_regs _ _), Dev.nat_setNat_same]
  · exact Dev.catchupHistory_waits hwait
  · rw [Dev.catchupSeeding_due h5 h3 hdue]
    refine ⟨?_, ?_, rfl, (((Dev.KeepsRegs.refl _ s.dev).setNat Reg.catchupStage 4 0 0 (.head _)).setNat Reg.agreeRun 0 0 0
      (.tail _ (.head _))).of_regs (Dev.setPair_regs _ _)⟩
    · rw [Dev.nat_congr (Dev.setPair_regs _ _), Dev.nat_setNat_ne _ _ _ _ _ _ _ _ (by decide), Dev.nat_setNat_same]
    · rw [Dev.nat_congr (Dev.setPair_regs _ _), Dev.nat_setNat_same]
  · exact Dev.catchupSeeding_waits hwait
  · obtain ⟨hnext, hrun, hat, hregs⟩ := Dev.catchupLimit_restarts h5 hdue
    refine ⟨by rw [hnext, if_neg (by omega)], hrun, ?_, hat, hregs⟩
    rw [hregs.nat Reg.pairState 0 0 (by decide) (by decide), h5]
  · obtain ⟨hnext, hrun, hat, hregs⟩ := Dev.catchupLimit_restarts h5 hdue
    exact ⟨by rw [hnext, if_pos h1], hrun, hat, hregs⟩

end Sys2Proof.Machine
end

