-- ==== Sys2Proof/Proofs/PerturbCommands.lean ====
section
/-! The arming and disarming of perturbation slots by command (R542, R543). -/

namespace Sys2Proof.Machine

/-- A bit cleared leaves the others. -/
theorem testBit_setBit_false_ne (x : Nat) {i j : Nat} (h : j ≠ i) : (setBit x i false).testBit j = x.testBit j := by
  unfold setBit
  split
  · rfl
  next hbit =>
    have hodd : x / 2 ^ i % 2 = 1 := by
      rw [← Nat.toNat_testBit]
      simpa using hbit
    obtain ⟨q, hq⟩ : ∃ q, x / 2 ^ i = 2 * q + 1 := ⟨x / 2 ^ i / 2, by omega⟩
    have hlow : x % 2 ^ i < 2 ^ i := Nat.mod_lt _ (Nat.two_pow_pos i)
    have hx : x = 2 ^ i * (2 * q + 1) + x % 2 ^ i := by rw [← hq, Nat.div_add_mod]
    have hclear : x - 2 ^ i = 2 ^ i * (2 * q) + x % 2 ^ i := by
      have : 2 ^ i * (2 * q + 1) = 2 ^ i * (2 * q) + 2 ^ i := by ring
      omega
    simp only [Bool.false_eq_true, if_false]
    rw [hclear]
    conv_rhs => rw [hx]
    rw [Nat.testBit_two_pow_mul_add _ hlow, Nat.testBit_two_pow_mul_add _ hlow]
    split
    · rfl
    · obtain ⟨n, hn⟩ : ∃ n, j - i = n + 1 := ⟨j - i - 1, by omega⟩
      rw [hn, Nat.testBit_succ, Nat.testBit_succ]
      congr 1
      omega

namespace Dev

variable {d : Dev} {k : Nat}

/-! ### A slot armed -/

/-- The date at which a slot armed now first applies (R543). -/
def firstApplies (k : Nat) (d : Dev) : Nat :=
  let want := (d.slotOf k).start + 31
  if d.blockDate < want / 32 * 32 then want / 32 * 32 else d.blockDate + 32

/-- A slot put in the armed state. -/
def slotArms (k : Nat) (d : Dev) : Dev :=
  ((d.setNat Reg.perturbArmed (setBit (d.nat Reg.perturbArmed) k true)).setNat Reg.perturbSlotState 2 k).setPerturb fun p =>
    { p with armed := { slot := k, armedAt := d.clock, next := d.firstApplies k, done := 0 } :: p.armed.filter fun a => a.slot ≠ k }

/-- What keeps a slot from being armed: a closed configuration, and a show of a module that transmits (R542). -/
theorem perturbArm_refused (hl : d.lone = true) (h : d.perturbClosed = true ∨ d.power.state = .onShow) (serial : Octets) :
    d.perturbArm k serial = (Status.state, d) := by
  unfold perturbArm
  by_cases hc : d.perturbClosed = true
  · exact if_pos hc
  · have hshow : d.power.state = .onShow := h.resolve_left hc
    have hgate : d.gateOpen = true := by rw [gateOpen, if_pos hl, hshow]; rfl
    have htx : d.transmits = true := by rw [transmits, hl]; rfl
    rw [if_neg hc, if_pos ⟨hshow, hgate, htx⟩]

theorem perturbArm_range (hc : d.perturbClosed = false) (hs : d.power.state ≠ .onShow) (hk : 8 ≤ k) (serial : Octets) :
    d.perturbArm k serial = (Status.range, d) := by
  rw [perturbArm, if_neg (by simp [hc]), if_neg (fun h => hs h.1), if_pos hk]

theorem perturbArm_other (hc : d.perturbClosed = false) (hs : d.power.state ≠ .onShow) (hk : k < 8) {serial : Octets}
    (ho : serial ≠ d.bytes Reg.serialNumber) : d.perturbArm k serial = (Status.ok, d) := by
  rw [perturbArm, if_neg (by simp [hc]), if_neg (fun h => hs h.1), if_neg (by omega), if_pos (by simpa [ownSerial] using ho)]

theorem perturbArm_own (hc : d.perturbClosed = false) (hs : d.power.state ≠ .onShow) (hk : k < 8) :
    d.perturbArm k (d.bytes Reg.serialNumber) = (Status.ok, d.slotArms k) := by
  rw [perturbArm, if_neg (by simp [hc]), if_neg (fun h => hs h.1), if_neg (by omega), if_neg (by simp [ownSerial])]
  rfl

theorem armed_ne_slotState (k : Nat) : Reg.perturbArmed.key ≠ Reg.perturbSlotState.key k := by
  simp only [perturbArmed_key, perturbSlotState_key]
  omega

theorem slotArms_armed (k : Nat) (d : Dev) : (d.slotArms k).nat Reg.perturbArmed = setBit (d.nat Reg.perturbArmed) k true := by
  rw [slotArms, nat_congr (setPerturb_regs _ _), nat_setNat_ne _ _ _ _ _ _ _ _ (armed_ne_slotState k), nat_setNat_same]

theorem slotArms_state (k : Nat) (d : Dev) : (d.slotArms k).nat Reg.perturbSlotState k = 2 := by
  rw [slotArms, nat_congr (setPerturb_regs _ _), nat_setNat_same]

theorem slotArms_regs (k : Nat) (d : Dev) : KeepsRegs [Reg.perturbArmed.key, Reg.perturbSlotState.key k, Reg.configEpoch.key] d (d.slotArms k) :=
  (((KeepsRegs.refl _ d).setNat Reg.perturbArmed _ 0 0 (.head _)).setNat Reg.perturbSlotState 2 k 0 (.tail _ (.head _))).of_regs (setPerturb_regs _ _)

/-! ### A slot disarmed -/

theorem disarm_unarmed (h : d.slotArmed k = false) (reason : Nat) : d.disarm k reason = d := if_pos (by simp [h])

theorem disarm_armed (h : d.slotArmed k = true) (reason : Nat) : d.disarm k reason =
    ((d.setNat Reg.perturbArmed (setBit (d.nat Reg.perturbArmed) k false)).setNat Reg.perturbSlotState reason k).setPerturb fun p =>
      { p with armed := p.armed.filter fun a => a.slot ≠ k } := if_neg (by simp [h])

theorem disarm_power (k reason : Nat) (d : Dev) : (d.disarm k reason).power = d.power := by
  unfold disarm
  split <;> rfl

theorem disarm_regs (k reason : Nat) (d : Dev) : KeepsRegs [Reg.perturbArmed.key, Reg.perturbSlotState.key k] d (d.disarm k reason) := by
  unfold disarm
  split
  · exact KeepsRegs.refl _ _
  · exact (((KeepsRegs.refl _ d).setNat Reg.perturbArmed _ 0 0 (.head _)).setNat Reg.perturbSlotState reason k 0 (.tail _ (.head _))).of_regs
      (setPerturb_regs _ _)

theorem disarm_state (h : d.slotArmed k = true) (reason : Nat) : (d.disarm k reason).nat Reg.perturbSlotState k = reason := by
  rw [disarm_armed h, nat_congr (setPerturb_regs _ _), nat_setNat_same]

theorem disarm_armedBits (h : d.slotArmed k = true) (reason : Nat) :
    (d.disarm k reason).nat Reg.perturbArmed = setBit (d.nat Reg.perturbArmed) k false := by
  rw [disarm_armed h, nat_congr (setPerturb_regs _ _), nat_setNat_ne _ _ _ _ _ _ _ _ (armed_ne_slotState k), nat_setNat_same]

theorem disarm_slotArmed (k reason : Nat) (d : Dev) : (d.disarm k reason).slotArmed k = false := by
  cases h : d.slotArmed k with
  | false => rw [disarm_unarmed h, h]
  | true => rw [slotArmed, disarm_armedBits h, testBit_setBit_false]

theorem disarm_slotArmed_ne {j : Nat} (h : j ≠ k) (reason : Nat) (d : Dev) : (d.disarm k reason).slotArmed j = d.slotArmed j := by
  cases hk : d.slotArmed k with
  | false => rw [disarm_unarmed hk]
  | true => rw [slotArmed, disarm_armedBits hk, testBit_setBit_false_ne _ h, slotArmed]

theorem slotState_key_ne {j : Nat} (h : j ≠ k) : Reg.perturbSlotState.key j ≠ Reg.perturbSlotState.key k := by
  simp only [perturbSlotState_key]
  omega

theorem slotState_ne_epoch (k : Nat) : Reg.perturbSlotState.key k ≠ Reg.configEpoch.key := by
  simp only [perturbSlotState_key, configEpoch_key]
  omega

theorem slotState_untold (k : Nat) : Reg.perturbSlotState.key k ∉ tellKeys := by
  have : 0xB11000 ≤ Reg.perturbSlotState.key k := by
    rw [perturbSlotState_key]
    omega
  intro h
  simp only [tellKeys, List.mem_cons, List.not_mem_nil, or_false] at h
  omega

theorem disarm_state_ne {j : Nat} (h : j ≠ k) (reason : Nat) (d : Dev) :
    (d.disarm k reason).nat Reg.perturbSlotState j = d.nat Reg.perturbSlotState j :=
  (disarm_regs k reason d).nat Reg.perturbSlotState j 0
    (by simpa using ⟨(armed_ne_slotState j).symm, slotState_key_ne h⟩) (slotState_untold j)

/-! ### Every slot disarmed -/

/-- `e` is `d` with the armed slots among `l` disarmed for a reason. -/
structure Disarmed (l : List Nat) (reason : Nat) (d e : Dev) : Prop where
  power : e.power = d.power
  armed : ∀ j, e.slotArmed j = (d.slotArmed j && !l.contains j)
  state : ∀ j, e.nat Reg.perturbSlotState j = if d.slotArmed j ∧ j ∈ l then reason else d.nat Reg.perturbSlotState j
  regs : KeepsRegs (Reg.perturbArmed.key :: l.map fun j => Reg.perturbSlotState.key j) d e

theorem disarms (reason : Nat) (l : List Nat) (d : Dev) : Disarmed l reason d (l.foldl (fun d k => d.disarm k reason) d) := by
  induction l generalizing d with
  | nil => exact ⟨rfl, by simp, by simp, KeepsRegs.refl _ _⟩
  | cons k t ih =>
    obtain ⟨hpower, harmed, hstate, hregs⟩ := ih (d.disarm k reason)
    refine ⟨hpower.trans (disarm_power _ _ _), fun j => ?_, fun j => ?_, ?_⟩
    · rw [List.foldl_cons, harmed]
      by_cases hj : j = k
      · subst hj
        simp [disarm_slotArmed]
      · simp [disarm_slotArmed_ne hj, hj]
    · rw [List.foldl_cons, hstate]
      by_cases hj : j = k
      · subst hj
        cases h : d.slotArmed j with
        | false => simp [disarm_unarmed h, h]
        | true => simp [disarm_slotArmed, disarm_state h]
      · simp [disarm_slotArmed_ne hj, disarm_state_ne hj, hj]
    · exact ((disarm_regs k reason d).mono (by simp)).trans (hregs.mono (by simp +contextual))

theorem perturbDisarm_closed (h : d.perturbClosed = true) (k : Nat) : d.perturbDisarm k = (Status.state, d) := if_pos h

theorem perturbDisarm_range (h : d.perturbClosed = false) (hk : 8 ≤ k) : d.perturbDisarm k = (Status.range, d) := by
  rw [perturbDisarm, if_neg (by simp [h]), if_pos hk]

theorem perturbDisarm_open (h : d.perturbClosed = false) (hk : k < 8) : d.perturbDisarm k = (Status.ok, d.disarm k 4) := by
  rw [perturbDisarm, if_neg (by simp [h]), if_neg (by omega)]

theorem perturbDisarmAll_closed (h : d.perturbClosed = true) : d.perturbDisarmAll = (Status.state, d) := if_pos h

theorem perturbDisarmAll_open (h : d.perturbClosed = false) : d.perturbDisarmAll = (Status.ok, d.disarmEvery 4) := if_neg (by simp [h])

/-- A command changes the armed records with its effect alone. -/
theorem bump_armed (d : Dev) : d.bumpEpoch.perturb = d.perturb := (congrArg Dev.perturb (untold_bump d d Reg.configEpoch 0 1) :)

end Dev

/-- Settles O6: arming and disarming by what refuses each, and by the slot's bit, state and record. -/
theorem perturbCommands : Obligations.PerturbCommands := by
  unfold Obligations.PerturbCommands
  intro s ha hl
  have hlone : s.dev.lone = true := hl.1
  have hstate : ∀ (f : Found) (text : Octets) (act : Dev → Status × Dev), act s.dev = (Status.state, s.dev) →
      let d := s.dev.ranCommand f text fun x => noResult (act x)
      d.lastStatus = Status.state ∧ d.perturb = s.dev.perturb ∧ d.regs = s.dev.regs := by
    intro f text act hact
    dsimp only
    rw [Dev.ranCommand_refused (st := Status.state) hl (by decide) (congrArg noResult hact)]
    exact ⟨rfl, rfl, rfl⟩
  refine ⟨fun k hc hs hk => ?_, fun k serial hc hs hk ho => ?_, fun k serial hc hs hk => ?_, fun k serial h => ?_, fun k hc => ⟨?_, ?_⟩,
    fun k hc hk hu => ?_, fun k hc hk harm => ?_, fun k hc hk => ?_, fun hc => ?_⟩ <;> refine up_completes rfl ha ?_
  · rw [Dev.ranCommand_ok hl (Dev.perturbArm_own hc hs hk) rfl]
    refine ⟨rfl, ?_, ?_, ?_, (Dev.slotArms_regs k s.dev).ran (by simp) _ _⟩
    · rw [Dev.ran_nat _ _ _ _ _ _ (by decide), Dev.slotArms_armed]
    · rw [Dev.ran_nat _ _ _ _ _ _ (Dev.slotState_ne_epoch k), Dev.slotArms_state]
    · exact congrArg (fun p : Perturb => p.armed.head?.map (·.slot)) (Dev.bump_armed (s.dev.slotArms k))
  · rw [Dev.ranCommand_ok hl (Dev.perturbArm_other hc hs hk ho) rfl]
    exact ⟨rfl, Dev.bump_armed _, (Dev.KeepsRegs.refl _ _).ran (.head _) _ _⟩
  · rw [Dev.ranCommand_range hl (Dev.perturbArm_range hc hs hk serial)]
    exact ⟨rfl, rfl, rfl⟩
  · exact hstate _ _ _ (Dev.perturbArm_refused hlone h serial)
  · exact hstate _ _ _ (Dev.perturbDisarm_closed hc k)
  · exact hstate _ _ _ (Dev.perturbDisarmAll_closed hc)
  · rw [Dev.ranCommand_ok hl ((Dev.perturbDisarm_open hc hk).trans (by rw [Dev.disarm_unarmed hu])) rfl]
    exact ⟨rfl, Dev.bump_armed _, (Dev.KeepsRegs.refl _ _).ran (.head _) _ _⟩
  · rw [Dev.ranCommand_ok hl (Dev.perturbDisarm_open hc hk) (Dev.disarm_power _ _ _)]
    refine ⟨rfl, ?_, ?_, ?_, ((Dev.disarm_regs k 4 s.dev).mono (by simp)).ran (by simp) _ _⟩
    · rw [Dev.ran_nat _ _ _ _ _ _ (by decide), Dev.disarm_armedBits harm]
    · rw [Dev.ran_nat _ _ _ _ _ _ (Dev.slotState_ne_epoch k), Dev.disarm_state harm]
    · refine (congrArg Perturb.armed (Dev.bump_armed (s.dev.disarm k 4))).trans ?_
      rw [Dev.disarm_armed harm]
      rfl
  · rw [Dev.ranCommand_range hl (Dev.perturbDisarm_range hc hk)]
    exact ⟨rfl, rfl⟩
  · obtain ⟨hpower, harmed, hslot, hregs⟩ := Dev.disarms 4 (List.range 8) s.dev
    rw [Dev.ranCommand_ok (act := Dev.perturbDisarmAll) hl (Dev.perturbDisarmAll_open hc) hpower]
    refine ⟨rfl, fun k hk => ?_, fun k hk h => ?_, fun k hk h => ?_, (hregs.mono (by simp +contextual)).ran (by simp) _ _⟩
    · rw [Dev.slotArmed, Dev.ran_nat _ _ _ _ _ _ (by decide)]
      exact (harmed k).trans (by simp [hk])
    · rw [Dev.ran_nat _ _ _ _ _ _ (Dev.slotState_ne_epoch k)]
      exact (hslot k).trans (if_pos ⟨h, List.mem_range.mpr hk⟩)
    · rw [Dev.ran_nat _ _ _ _ _ _ (Dev.slotState_ne_epoch k)]
      exact (hslot k).trans (if_neg (by simp [h]))

end Sys2Proof.Machine
end

