-- ==== Sys2Proof/Proofs/Resets.lean ====
section
/-! What a full reset and a loss of power keep: the power stage's own record and the persistent store, from which the entries are read
again (R34, R40, R548, R563). -/

namespace Sys2Proof.Machine

namespace Dev

variable {ks : List Nat} {a b c d e : Dev}

/-! ### The persistent store (R40) -/

/-- The value of an entry that the persistent store holds. -/
def stored (d : Dev) (r : Row) (i : Nat := 0) : Val := nget (r.default i 0) d.store (r.key i)

/-- What leaves the power stage alone, and the store but for the named entries and the count of lost log records. -/
structure Retains (ks : List Nat) (d e : Dev) : Prop where
  power : e.power = d.power
  store : ∀ k, k ∉ ks → k ≠ 0x220008 → nget? e.store k = nget? d.store k

theorem Retains.refl (ks : List Nat) (d : Dev) : Retains ks d d := ⟨rfl, fun _ _ _ => rfl⟩

theorem Retains.trans (h : Retains ks a b) (h' : Retains ks b c) : Retains ks a c :=
  ⟨h'.power.trans h.power, fun k hk hl => (h'.store k hk hl).trans (h.store k hk hl)⟩

theorem Retains.of_eq (hp : e.power = d.power) (hs : e.store = d.store) : Retains ks d e := ⟨hp, fun k _ _ => by rw [hs]⟩

theorem Told.retains (h : Told d e) : Retains ks d e := ⟨h.power, fun k _ hl => h.store k hl⟩

theorem Retains.keep (h : Retains ks a b) (r : Row) (i : Nat) (hk : r.key i ∈ ks) : Retains ks a (b.keep r i) :=
  ⟨h.power, fun k hks hl => (nget?_nset_ne _ _ _ (show k ≠ r.key i 0 from fun he => hks (by rw [he]; exact hk))).trans (h.store k hks hl)⟩

theorem Retains.stored (h : Retains ks d e) {r : Row} {i : Nat} (hk : r.key i ∉ ks) (hl : r.key i ≠ 0x220008) : e.stored r i = d.stored r i := by
  rw [Dev.stored, Dev.stored, nget, nget, h.store _ hk hl]

/-- An entry that is kept stands in the store as it reads. -/
theorem stored_keep (d : Dev) (r : Row) (i : Nat) : (d.keep r i).stored r i = d.val r i := nget_nset_same _ _ _ _

/-- A persistent count stands in the store as it reads. -/
theorem stored_bump (d : Dev) {r : Row} (h : r.persistent = true) (i n : Nat) :
    (d.bump r i n).stored r i = .int ((d.nat r i + n) % 256 ^ r.ty.size : Nat) := by
  rw [bump, if_pos h, stored_keep, setNat, val_setVal_same]

/-! ### The lead given up and what leaving tells (R431, R498, R550, R562) -/

theorem sendCell_store (k : Nat) (type : CellType) (dest arg : Nat) (payload : Octets) (settled : Bool) (hops : Nat) (src : Option Nat) (d : Dev) :
    (d.sendCell k type dest arg payload settled hops src).store = d.store := by
  unfold sendCell
  split
  · rfl
  · dsimp only
    split
    · rw [bump, if_neg (by decide)]
      rfl
    · rfl

theorem tellPartner_retains (code : Nat) (body : Octets) (d : Dev) : Retains ks d (d.tellPartner code body) := by
  unfold tellPartner
  split
  · exact .refl _ _
  · exact .of_eq (sendCell_power _ _ _ _ _ _ _ _ _) (sendCell_store _ _ _ _ _ _ _ _ _)

theorem setIlkOut_retains (level : Bool) (d : Dev) : Retains ks d (d.setIlkOut level) := by
  unfold setIlkOut
  split
  · exact .refl _ _
  · dsimp only
    split <;> exact .of_eq rfl rfl

theorem setPairState_retains (st : Nat) (d : Dev) : Retains ks d (d.setPairState st) := by
  unfold setPairState
  split
  · exact .refl _ _
  · exact (told_notice _ _ _).retains.trans (.of_eq rfl rfl) |> fun h => ⟨h.power, h.store⟩

theorem releaseLead_retains (d : Dev) : Retains ks d d.releaseLead := by
  unfold releaseLead
  extract_lets d1 d2
  have h1 : Retains ks d d1 := by
    unfold d1
    split
    · exact tellPartner_retains _ _ _
    · exact .refl _ _
  have h2 : Retains ks d d2 := h1.trans ((setIlkOut_retains false d1).trans (.of_eq rfl rfl))
  clear_value d2
  split
  · exact .refl _ _
  · split
    · exact h2.trans (setPairState_retains _ _)
    · exact h2

theorem tellLeaving_retains (st : PowerState) (d : Dev) : Retains ks d (d.tellLeaving st) := by
  unfold tellLeaving
  split
  · exact .refl _ _
  · exact (told_notice _ _ _).retains

theorem logStore_retains (n : Nat) (d : Dev) : Retains ks d (d.logStore n) := by
  induction n generalizing d with
  | zero => exact .refl _ _
  | succ n ih =>
    unfold logStore
    split
    · exact .refl _ _
    · refine .trans ?_ (ih _)
      dsimp only
      split <;> exact .of_eq rfl rfl

theorem logFlush_retains (d : Dev) : Retains ks d d.logFlush := (logStore_retains _ d).trans (told_logPressure _).retains

theorem resetRecord_retains (cause : Nat) (d : Dev) : Retains [Reg.lastResetSeconds.key] d (d.resetRecord cause) := by
  unfold resetRecord
  dsimp only
  have htold : Retains [Reg.lastResetSeconds.key] d (d.logEvent (d.logOwn 6 cause (Config.recordField 6))) := (told_logEvent _ _).retains
  split
  · refine Retains.keep ?_ Reg.lastResetSeconds 0 (.head _)
    exact ⟨htold.power, htold.store⟩
  · exact htold

/-! ### What is cleared (R34) -/

/-- The entries that a reset does not read from the store: those of a frozen recording, the slots that were armed, PairState. -/
def clearedKeys : List Nat :=
  Reg.pairState.key :: (List.range 8).map (fun k => Reg.perturbSlotState.key k) ++
    [Reg.recorderState.key, Reg.recorderTriggerDate.key, Reg.recorderTriggerCause.key, Reg.recorderOldest.key, Reg.recorderNewest.key,
      Reg.recorderFrozenSources.key, Reg.recorderGapFrames.key, Reg.recorderTriggersMissed.key]

/-- The power stage as a reset leaves it: the die held in reset, nothing due. -/
def heldStage (d : Dev) : Power :=
  { d.power with state := .boot, resetDue := none, offDue := false, stopDue := false, shapeBad := false, bootFault := false, held := true, tripAt := d.clock, tripped := false, stoppedAt := none }

/-- `e` is `d` cleared: its entries read from the store, no status given. -/
structure ClearedOf (d e : Dev) : Prop where
  power : e.power = d.heldStage
  store : e.store = d.store
  status : e.lastStatus = Status.ok
  regs : ∀ k, k ∉ clearedKeys → nget? e.regs k = nget? d.store k

theorem ClearedOf.setVal (h : ClearedOf d e) (r : Row) (v : Val) (i : Nat) (hk : r.key i ∈ clearedKeys) : ClearedOf d (e.setVal r v i) :=
  ⟨h.power, h.store, h.status, fun k hc => (nget?_nset_ne _ _ _ (show k ≠ r.key i 0 from fun he => hc (by rw [he]; exact hk))).trans (h.regs k hc)⟩

theorem cleared_of (keepDram : Bool) (d : Dev) : ClearedOf d (d.cleared keepDram) := by
  unfold cleared
  extract_lets frozen recRows _ _ _ _ _ _ _ _ base0 base1 _ base2 armed base3
  have h0 : ClearedOf d base0 := ⟨rfl, rfl, rfl, fun k _ => congrArg (nget? · k) (show base0.regs = d.store from rfl)⟩
  have h1 : ClearedOf d base1 := by
    unfold base1
    clear_value base0
    split
    · refine List.foldlRecOn (motive := ClearedOf d) recRows _ h0 fun e he r hr => he.setVal r _ 0 ?_
      simp only [recRows, List.mem_cons, List.not_mem_nil, or_false] at hr
      obtain rfl | rfl | rfl | rfl | rfl | rfl | rfl | rfl := hr <;> decide
    · exact h0
  have h2 : ClearedOf d base2 := ⟨h1.power, h1.store, h1.status, h1.regs⟩
  have h3 : ClearedOf d base3 := by
    refine List.foldlRecOn (motive := ClearedOf d) (List.range 8) _ h2 fun e he k hk => ?_
    split
    · refine he.setVal Reg.perturbSlotState _ k ?_
      exact List.mem_append_left _ (List.mem_cons_of_mem _ (List.mem_map.mpr ⟨k, hk, rfl⟩))
    · exact he
  exact h3.setVal Reg.pairState _ 0 (.head _)

/-! ### The full reset (R563) -/

/-- A module that has given up the lead, told of the reset and written its record and its log. -/
def leftFor (cause : Nat) (d : Dev) : Dev := ((((d.releaseLead).notice 0x2003 cause).tellLeaving .boot).resetRecord cause).logFlush

theorem leftFor_retains (cause : Nat) (d : Dev) : Retains [Reg.lastResetSeconds.key] d (d.leftFor cause) :=
  (((releaseLead_retains d).trans (told_notice _ _ _).retains).trans ((tellLeaving_retains _ _).trans (resetRecord_retains _ _))).trans
    (logFlush_retains _)

theorem fullReset_eq {cause : Nat} (hl : d.live = true) (ht : d.power.tripped = false ∨ cause = 0x0A) :
    ∃ e, ClearedOf (d.leftFor cause) e ∧ d.fullReset cause = { e with power := { e.power with cause } } := by
  unfold fullReset
  rw [if_neg (by simp [hl]), if_neg fun h => ht.elim (fun h' => by simp [h'] at h) h.2]
  extract_lets d1 d2 d3
  have hleft : d2 = d.leftFor cause := rfl
  exact ⟨d3, hleft ▸ cleared_of _ d2, rfl⟩

/-- `e` is `d` after a full reset. -/
structure ResetOf (cause : Nat) (d e : Dev) : Prop where
  power : e.power = { d.power with state := .boot, resetDue := none, offDue := false, stopDue := false, shapeBad := false, bootFault := false, held := true, tripAt := e.power.tripAt, tripped := false, stoppedAt := none, cause := cause }
  status : e.lastStatus = Status.ok
  val : ∀ (r : Row) (i : Nat), r.key i ∉ clearedKeys → r.key i ≠ Reg.lastResetSeconds.key → r.key i ≠ 0x220008 → e.val r i = d.stored r i

/-- A full reset takes place but where a rail has tripped and the cause is another (R552). -/
theorem fullReset_resets {cause : Nat} (hl : d.live = true) (ht : d.power.tripped = false ∨ cause = 0x0A) : ResetOf cause d (d.fullReset cause) := by
  obtain ⟨e, hc, he⟩ := fullReset_eq hl ht
  have hleft := leftFor_retains cause d
  rw [he]
  refine ⟨?_, hc.status, fun r i hk hls hlost => ?_⟩
  · simp only [hc.power, heldStage, hleft.power]
  · refine Eq.trans ?_ (hleft.stored (by simpa using hls) hlost)
    rw [stored, nget, ← hc.regs _ hk]
    rfl

theorem ResetOf.held {cause : Nat} (h : ResetOf cause d e) : e.HeldInReset cause := by
  rw [HeldInReset, h.power]
  exact ⟨rfl, rfl, rfl⟩

/-- A count that a reset leaves. -/
theorem ResetOf.nat_bump {cause : Nat} {r : Row} (h : ResetOf cause (d.bump r) e) (hp : r.persistent = true) (hk : r.key ∉ clearedKeys)
    (hls : r.key ≠ Reg.lastResetSeconds.key) (hlost : r.key ≠ 0x220008) : e.nat r = (d.nat r + 1) % 256 ^ r.ty.size := by
  rw [nat, int, h.val r 0 hk hls hlost, stored_bump _ hp]
  rfl

/-! ### The rails off, and a start (R548, R551) -/

/-- `e` is `d` with its rails off in a power state. -/
structure OffFrom (st : PowerState) (d e : Dev) : Prop where
  power : e.power = { d.heldStage with state := st, held := false, rails := false, pgood := false, vaux := false }
  status : e.lastStatus = Status.ok
  val : ∀ (r : Row) (i : Nat), r.key i ∉ clearedKeys → e.val r i = d.stored r i

theorem railsOff_off (st : PowerState) (d : Dev) : OffFrom st d (d.railsOff st) := by
  unfold railsOff
  extract_lets e1 e
  have hc : ClearedOf e1 e := cleared_of false e1
  clear_value e
  refine ⟨?_, hc.status, fun r i hk => ?_⟩
  · exact congrArg (fun p : Power => { p with state := st, held := false, rails := false, pgood := false, vaux := false }) hc.power
  · refine Eq.trans ?_ (show e1.stored r i = d.stored r i from rfl)
    rw [stored, nget, ← hc.regs _ hk]
    rfl

/-- A module before its rails go off: the lead given up, and its record and log written where the supply holds up for them. -/
theorem powerDown_eq (cause : Nat) (recorded : Bool) (d : Dev) :
    ∃ e, Retains [Reg.lastResetSeconds.key] d e ∧ d.powerDown cause recorded = e.railsOff .off := by
  refine ⟨_, ?_, rfl⟩
  split
  · exact (releaseLead_retains d).trans (((tellLeaving_retains _ _).trans (resetRecord_retains _ _)).trans (logFlush_retains _))
  · exact releaseLead_retains d

/-- `e` is `d` with its power gone: off, the supply as it was, every count as the store holds it. -/
structure DownFrom (d e : Dev) : Prop where
  state : e.power.state = .off
  vin : e.power.vin = d.power.vin
  overVoltage : e.power.overVoltage = d.power.overVoltage
  val : ∀ (r : Row) (i : Nat), r.key i ∉ clearedKeys → r.key i ≠ Reg.lastResetSeconds.key → r.key i ≠ 0x220008 → e.val r i = d.stored r i

theorem powerDown_down (cause : Nat) (recorded : Bool) (d : Dev) : DownFrom d (d.powerDown cause recorded) := by
  obtain ⟨e, hretains, he⟩ := powerDown_eq cause recorded d
  obtain ⟨hpower, -, hval⟩ := railsOff_off .off e
  rw [he]
  refine ⟨?_, ?_, ?_, fun r i hk hls hlost => (hval r i hk).trans (hretains.stored (by simpa using hls) hlost)⟩
  · rw [hpower]
  · rw [hpower, heldStage, hretains.power]
  · rw [hpower, heldStage, hretains.power]

/-- A start holds the die in reset with the rails still to come. -/
theorem startUp_power (cause : Nat) (d : Dev) :
    (d.startUp cause).power = { d.heldStage with cause := cause, latchedOff := false, rails := false, pgood := false } := by
  unfold startUp
  extract_lets old e
  have hpower : e.power = d.heldStage := (notice_power _ _ _).trans (cleared_of false d).power
  exact congrArg (fun p : Power => { p with cause := cause, state := .boot, held := true, latchedOff := false, rails := false, pgood := false }) hpower

theorem startUp_held (cause : Nat) (d : Dev) : (d.startUp cause).HeldInReset cause := by
  rw [HeldInReset, startUp_power]
  exact ⟨rfl, rfl, rfl⟩

end Dev

end Sys2Proof.Machine
end

