-- ==== Sys2Proof/Proofs/SupervisorControl.lean ====
section
/-! The supervisor's lockstep, system control and watchdog: what each writes, and the resets that they end in (R483, R487, R489, R490, R502). -/

namespace Sys2Proof.Machine

/-- An event of the supervisor's logic does nothing where the logic does not run. -/
theorem dead_completes {i : Instr} {s : State} {f : Dev → Dev} (h : exec i s = s.run fun d => if d.live then f d else d) (hl : s.dev.live = false) :
    Completes i s fun d => d = s.dev := run_completes h (if_neg (by simp [hl]))

namespace Dev

variable {d e : Dev}

/-! ### Lockstep (R483, R502) -/

/-- LastLockstep as a mismatch writes it. -/
def lockstepRecord (a g : Nat) (d : Dev) : Octets := toBE 8 a ++ toBE 8 d.seconds ++ toBE 4 (d.nat Reg.blockCount) ++ toBE 4 g

/-- The record written and kept. -/
def lockstepNoted (a g : Nat) (d : Dev) : Dev := (d.setVal Reg.lastLockstep (.bytes (d.lockstepRecord a g))).keep Reg.lastLockstep

theorem lockstep_live (hl : d.live = true) (a g : Nat) : d.lockstep a g = ((d.lockstepNoted a g).bump Reg.lockstepFaults).fullReset 0x06 :=
  if_neg (by simp [hl])

/-- A mismatch resets the module and leaves its count and its record. -/
theorem lockstep_resets (hl : d.live = true) (ht : d.power.tripped = false) (a g : Nat) :
    (d.lockstep a g).HeldInReset 6 ∧ (d.lockstep a g).nat Reg.lockstepFaults = (d.nat Reg.lockstepFaults + 1) % 2 ^ 32 ∧
      (d.lockstep a g).bytes Reg.lastLockstep = d.lockstepRecord a g := by
  have hpower : ((d.lockstepNoted a g).bump Reg.lockstepFaults).power = d.power := bump_power _ _ _ _
  have hreset := fullReset_resets (cause := 0x06) (d := (d.lockstepNoted a g).bump Reg.lockstepFaults) (by rw [live_of_power hpower, hl])
    (.inl (by rw [hpower, ht]))
  rw [lockstep_live hl]
  refine ⟨hreset.held, ?_, ?_⟩
  · rw [hreset.nat_bump (by decide) (by decide) (by decide) (by decide), lockstepNoted, nat_congr (keep_regs _ _ _ _)]
    rw [nat, int, val_setVal_ne _ _ Reg.lockstepFaults _ _ _ _ _ (by decide)]
    rfl
  · have hkept : ((d.lockstepNoted a g).bump Reg.lockstepFaults).stored Reg.lastLockstep = (d.lockstepNoted a g).stored Reg.lastLockstep := by
      rw [bump, if_pos (by decide)]
      exact ((Retains.of_eq rfl rfl : Retains [Reg.lockstepFaults.key] (d.lockstepNoted a g) ((d.lockstepNoted a g).setNat Reg.lockstepFaults _)).keep
        Reg.lockstepFaults 0 (.head _)).stored (by decide) (by decide)
    rw [bytes, hreset.val _ _ (by decide) (by decide) (by decide), hkept, lockstepNoted, stored_keep, val_setVal_same]
    rfl

/-! ### System control (R487) -/

theorem remapSet_again (h : d.sup.remap = true) : d.remapSet = d := if_pos h

theorem remapSet_once (h : d.sup.remap = false) :
    d.remapSet = (d.setFlag Reg.remapState true).setSup fun s => { s with remap := true, kickAt := some d.clock } := if_neg (by simp [h])

/-! ### The watchdog (R490) -/

theorem watchdogReset_resets (hl : d.live = true) (ht : d.power.tripped = false) :
    d.watchdogReset.HeldInReset 5 ∧ d.watchdogReset.nat Reg.watchdogResets = (d.nat Reg.watchdogResets + 1) % 2 ^ 32 := by
  unfold watchdogReset
  extract_lets e
  have hretains : Retains [Reg.lastWatchdog.key] (d.bump Reg.watchdogResets) e := by
    refine Retains.keep ?_ Reg.lastWatchdog 0 (.head _)
    exact ⟨rfl, fun _ _ _ => rfl⟩
  have hpower : e.power = d.power := hretains.power.trans (bump_power _ _ _ _)
  have hreset := fullReset_resets (cause := 0x05) (d := e) (by rw [live_of_power hpower, hl]) (.inl (by rw [hpower, ht]))
  refine ⟨hreset.held, ?_⟩
  rw [nat, int, hreset.val _ _ (by decide) (by decide) (by decide), hretains.stored (by decide) (by decide), stored_bump _ (by decide)]
  rfl

theorem watchdogKick_none (h : d.sup.kickAt = none) : d.watchdogKick = d := by rw [watchdogKick, h]

theorem watchdogKick_early_or_late {t : Nat} (h : d.sup.kickAt = some t) (hw : d.clock < t + msCycles 10 ∨ t + msCycles 100 ≤ d.clock) :
    d.watchdogKick = d.watchdogReset := by
  simp only [watchdogKick, h]
  exact if_pos hw

theorem watchdogKick_inTime {t : Nat} (h : d.sup.kickAt = some t) (hlow : t + msCycles 10 ≤ d.clock) (hhigh : d.clock < t + msCycles 100) :
    d.watchdogKick = d.setSup fun s => { s with kickAt := some d.clock } := by
  simp only [watchdogKick, h]
  exact if_neg (by omega)

theorem watchdogExpiry_none (h : d.sup.kickAt = none) : d.watchdogExpiry = d := by rw [watchdogExpiry, h]

theorem watchdogExpiry_due {t : Nat} (hl : d.live = true) (h : d.sup.kickAt = some t) (hr : d.Reaches (t + msCycles 100)) :
    d.watchdogExpiry = (d.advanceTo (t + msCycles 100)).watchdogReset := by
  simp only [watchdogExpiry, h]
  rw [if_neg (by simp [hl]), onDue_eq _ _ _ hr]

end Dev

theorem exec_lockstepMismatch (a g : Nat) (s : State) :
    exec (.lockstepMismatch a g) s = s.run fun d => if d.live then d.lockstep a g else d := rfl

theorem exec_remapSet (s : State) : exec .remapSet s = s.run fun d => if d.live then d.remapSet else d := rfl

theorem exec_watchdogKick (s : State) : exec .watchdogKick s = s.run fun d => if d.live then d.watchdogKick else d := rfl

theorem exec_watchdogExpiry (s : State) : exec .watchdogExpiry s = s.run fun d => if d.live then d.watchdogExpiry else d := rfl

/-- A choice between an effect that changes nothing and none. -/
theorem ite_self_of_eq {b : Prop} [Decidable b] {d e : Dev} (h : e = d) : (if b then e else d) = d := by
  rw [h, ite_self]

/-- Settles O11: each event by whether the logic runs, and the resets by what a full reset leaves. -/
theorem supervisorControl : Obligations.SupervisorControl := by
  unfold Obligations.SupervisorControl
  intro s
  refine ⟨fun hl => ⟨fun a g => ?_, ?_, ?_, fun on => ?_, ?_, ?_⟩, fun hl ht a g => ?_, fun hl hremap => ?_, fun hremap => ?_, fun hl => ?_,
    fun hl on => ?_, fun t hl hkick hlow hhigh => ?_, fun hkick => ⟨?_, ?_⟩, fun t hl ht hkick hw => ?_, fun t hl ht hkick hr => ?_⟩
  · exact dead_completes (exec_lockstepMismatch a g s) hl
  · exact dead_completes (exec_remapSet s) hl
  · exact dead_completes (f := Dev.romLock) rfl hl
  · exact dead_completes (f := Dev.norWrite on) rfl hl
  · exact dead_completes (exec_watchdogKick s) hl
  · exact dead_completes (exec_watchdogExpiry s) hl
  · exact live_completes (exec_lockstepMismatch a g s) hl (Dev.lockstep_resets hl ht a g)
  · refine live_completes (exec_remapSet s) hl ?_
    rw [Dev.remapSet_once hremap]
    exact ⟨rfl, (Dev.flag_congr (Dev.setSup_regs _ _) _ _).trans (Dev.flag_setFlag_same _ _ _ _), (Dev.KeepsRegs.refl _ s.dev).setFlag Reg.remapState true 0 (.head _)⟩
  · exact run_completes (exec_remapSet s) (ite_self_of_eq (Dev.remapSet_again hremap))
  · exact live_completes (f := Dev.romLock) rfl hl rfl
  · exact live_completes (f := Dev.norWrite on) rfl hl rfl
  · exact live_completes (exec_watchdogKick s) hl (Dev.watchdogKick_inTime hkick hlow hhigh)
  · exact run_completes (exec_watchdogKick s) (ite_self_of_eq (Dev.watchdogKick_none hkick))
  · exact run_completes (exec_watchdogExpiry s) (ite_self_of_eq (Dev.watchdogExpiry_none hkick))
  · refine live_completes (exec_watchdogKick s) hl ?_
    rw [Dev.watchdogKick_early_or_late hkick hw]
    exact Dev.watchdogReset_resets hl ht
  · refine live_completes (exec_watchdogExpiry s) hl ?_
    rw [Dev.watchdogExpiry_due hl hkick hr, ← Dev.advanceTo_nat (t + Dev.msCycles 100) s.dev Reg.watchdogResets]
    exact Dev.watchdogReset_resets (by rw [Dev.live_of_power (Dev.advanceTo_power _ _), hl]) (by rw [Dev.advanceTo_power, ht])

end Sys2Proof.Machine
end

