-- ==== Sys2Proof/Proofs/SupplyAndRails.lean ====
section
/-! The supply and the rails: starts, trips, restarts and their counts (R547 to R551, R554, R558 to R560). -/

namespace Sys2Proof.Machine

namespace Dev

variable {d e : Dev}

/-- A count of which the power-down leaves what the store holds. -/
theorem DownFrom.nat_bump {r : Row} {f : Power → Power} (h : DownFrom ((d.bump r).setStage f) e) (hp : r.persistent = true)
    (hk : r.key ∉ clearedKeys) (hls : r.key ≠ Reg.lastResetSeconds.key) (hlost : r.key ≠ 0x220008) :
    e.nat r = (d.nat r + 1) % 256 ^ r.ty.size := by
  rw [nat, int, h.val r 0 hk hls hlost, show ((d.bump r).setStage f).stored r = (d.bump r).stored r from rfl, stored_bump _ hp]
  rfl

/-- A count that only the power stage's record follows. -/
theorem setStage_bump_nat (f : Power → Power) (r : Row) (d : Dev) : ((d.bump r).setStage f).nat r = (d.nat r + 1) % 256 ^ r.ty.size := by
  rw [nat_congr (setStage_regs _ _), nat_bump_same]

/-! ### The supply (R548, R549, R551) -/

theorem vinStart_present (h : d.power.vin = true) : d.vinStart = d := if_pos h

theorem vinStart_waits (h : d.power.vin = false) (ho : d.power.overVoltage = true) : d.vinStart = d.setStage fun p => { p with vin := true } := by
  rw [vinStart, if_neg (by simp [h])]
  exact if_neg (by simp [setStage_power, ho])

theorem vinStart_starts (h : d.power.vin = false) (hs : d.power.state = .off) (ho : d.power.overVoltage = false) :
    d.vinStart = (d.setStage fun p => { p with vin := true }).startUp 0x01 := by
  rw [vinStart, if_neg (by simp [h])]
  exact if_pos (by simp [setStage_power, hs, ho])

theorem vinTrip_absent (h : d.power.vin = false) (recorded : Bool) : d.vinTrip recorded = d := if_pos (by simp [h])

/-- VIN that falls leaves the module OFF, in whatever state it was, and is counted. -/
theorem vinTrip_off (h : d.power.vin = true) (recorded : Bool) :
    (d.vinTrip recorded).power.vin = false ∧ (d.vinTrip recorded).power.state = .off ∧
      (d.vinTrip recorded).nat Reg.vinTrips = (d.nat Reg.vinTrips + 1) % 2 ^ 32 := by
  unfold vinTrip
  rw [if_neg (by simp [h])]
  extract_lets e
  have hcount : e.nat Reg.vinTrips = (d.nat Reg.vinTrips + 1) % 2 ^ 32 := setStage_bump_nat _ _ _
  split
  next hoff => exact ⟨rfl, hoff, hcount⟩
  next => exact ⟨rfl, rfl, hcount⟩
  next =>
    have hdown := powerDown_down 0x01 recorded e
    exact ⟨hdown.vin, hdown.state, hdown.nat_bump (by decide) (by decide) (by decide) (by decide)⟩

theorem vinOver_again (h : d.power.overVoltage = true) : d.vinOver = d := if_pos h

/-- The mark of an overvoltage and its count. -/
def overMarked (d : Dev) : Dev := (d.bump Reg.vinTrips).setStage fun p => { p with vin := true, overVoltage := true }

theorem overMarked_state (d : Dev) : d.overMarked.power.state = d.power.state := by rw [overMarked, setStage_power, bump_power]

theorem vinOver_stands (h : d.power.overVoltage = false) (hs : d.power.state = .off ∨ d.power.state = .offseason) : d.vinOver = d.overMarked := by
  rw [vinOver, if_neg (by simp [h])]
  exact if_pos (by rw [← overMarked, overMarked_state]; exact hs)

theorem vinOver_downs (h : d.power.overVoltage = false) (hoff : d.power.state ≠ .off) (hseason : d.power.state ≠ .offseason) :
    d.vinOver = d.overMarked.powerDown 0x0B true := by
  rw [vinOver, if_neg (by simp [h])]
  exact if_neg (by rw [← overMarked, overMarked_state]; exact fun hs => hs.elim hoff hseason)

/-- An overvoltage turns a module off unless it is in OFF-SEASON, which stands. -/
theorem vinOver_reads (h : d.power.overVoltage = false) :
    d.vinOver.power.overVoltage = true ∧ d.vinOver.power.state = (if d.power.state = .offseason then .offseason else .off) ∧
      d.vinOver.nat Reg.vinTrips = (d.nat Reg.vinTrips + 1) % 2 ^ 32 := by
  by_cases hs : d.power.state = .off ∨ d.power.state = .offseason
  · rw [vinOver_stands h hs]
    refine ⟨rfl, ?_, setStage_bump_nat _ _ _⟩
    rw [overMarked_state]
    obtain hs | hs := hs <;> simp [hs]
  · rw [not_or] at hs
    rw [vinOver_downs h hs.1 hs.2, if_neg hs.2]
    have hdown := powerDown_down 0x0B true d.overMarked
    exact ⟨hdown.overVoltage, hdown.state, hdown.nat_bump (by decide) (by decide) (by decide) (by decide)⟩

theorem ovpRestart_none (h : d.power.overVoltage = false) : d.ovpRestart = d := if_pos (by simp [h])

theorem ovpRestart_starts (h : d.power.overVoltage = true) (hs : d.power.state = .off) (hv : d.power.vin = true) :
    d.ovpRestart = ((d.advance (msCycles 100)).setStage fun p => { p with overVoltage := false }).startUp 0x0B := by
  rw [ovpRestart, if_neg (by simp [h])]
  exact if_pos (by simp [setStage_power, hs, hv])

/-! ### WAKE_EDGE (R554, R560) -/

/-- The wake level marked. -/
def woken (d : Dev) : Dev := d.setStage fun p => { p with wake := true }

theorem wakeEdge_starts
    (h : d.power.state = .offseason ∨ (d.power.state = .off ∧ d.power.latchedOff = true ∧ d.power.vin = true ∧ d.power.overVoltage = false)) :
    d.wakeEdge = d.woken.startUp 0x02 := if_pos (by simpa [setStage_power] using h)

theorem wakeEdge_marks (hs : d.power.state ≠ .offseason)
    (h : d.power.state ≠ .off ∨ d.power.latchedOff = false ∨ d.power.vin = false ∨ d.power.overVoltage = true) : d.wakeEdge = d.woken := by
  refine if_neg fun hstart => ?_
  obtain ⟨hoff, hlatched, hvin, hover⟩ := hstart.resolve_left hs
  have hover' : d.power.overVoltage = false := by simpa [setStage_power] using hover
  obtain h | h | h | h := h
  · exact h hoff
  · exact absurd (h.symm.trans hlatched) (by decide)
  · exact absurd (h.symm.trans hvin) (by decide)
  · exact absurd (h.symm.trans hover') (by decide)

theorem startUp_wake (cause : Nat) (d : Dev) : (d.startUp cause).power.wake = d.power.wake := by rw [startUp_power, heldStage]

theorem startUp_vin (cause : Nat) (d : Dev) : (d.startUp cause).power.vin = d.power.vin := by rw [startUp_power, heldStage]

theorem startUp_overVoltage (cause : Nat) (d : Dev) : (d.startUp cause).power.overVoltage = d.power.overVoltage := by rw [startUp_power, heldStage]

/-! ### The rails (R559, R561) -/

theorem railsIn_held (hs : d.power.state = .boot) (hh : d.power.held = true) (hr : d.power.rails = false) :
    d.railsIn = ((d.setStage fun p => { p with rails := true, pgood := true, vaux := true, tripAt := d.clock }).emit (.pad "PGOOD" true)).emit
      (.pad "VAUX_3V3" true) := if_pos (by simp [hs, hh, hr])

theorem live_not_held (hl : d.live = true) : d.power.held = false := by
  simp only [live, Bool.and_eq_true, Bool.not_eq_true'] at hl
  exact hl.1.1

theorem railsIn_back (hl : d.live = true) (ht : d.power.tripped = true) :
    d.railsIn = (d.setStage fun p => { p with rails := true, pgood := true, tripped := false }).emit (.pad "PGOOD" true) := by
  rw [railsIn, if_neg (by simp [live_not_held hl]), if_pos ⟨hl, ht⟩]

theorem railTrip_held (hs : d.power.state = .boot) (hh : d.power.held = true) (hr : d.power.rails = true) (rail : Nat) :
    d.railTrip rail = (((d.bump Reg.railTrips).notice 0x2004 rail).setStage fun p => { p with rails := false, pgood := false }).emit
      (.pad "PGOOD" false) := if_pos (by simp [hs, hh, hr])

/-- What a rail trip makes of a running module before the entry to FAULT. -/
def railLost (rail : Nat) (d : Dev) : Dev :=
  ((((d.dropPending).bump Reg.railTrips).notice 0x2004 rail).setStage fun p =>
    { p with rails := false, pgood := false, tripAt := (((d.dropPending).bump Reg.railTrips).notice 0x2004 rail).clock, tripped := true }).emit
    (.pad "PGOOD" false)

theorem railTrip_running (hl : d.live = true) (rail : Nat) : d.railTrip rail = (d.railLost rail).enterFault 2 rail := by
  rw [railTrip, if_neg (by simp [live_not_held hl]), if_neg (by simp [hl])]
  rfl

/-- Abandoning what is due changes that alone, and what telling changes. -/
theorem dropPending_tells (d : Dev) : Told (d.setStage fun p => { p with resetDue := none, offDue := false, stopDue := false }) d.dropPending := by
  unfold dropPending
  extract_lets under e
  split
  · exact told_logEvent _ _
  · exact .refl _

theorem dropPending_power (d : Dev) : d.dropPending.power = { d.power with resetDue := none, offDue := false, stopDue := false } :=
  (dropPending_tells d).power.trans (setStage_power _ _)

theorem dropPending_nat (d : Dev) {r : Row} {i : Nat} (hk : r.key i ∉ tellKeys) : d.dropPending.nat r i = d.nat r i :=
  ((dropPending_tells d).nat r i 0 hk).trans (nat_congr (setStage_regs _ _) _ _ _)

theorem railLost_power (rail : Nat) (d : Dev) : (d.railLost rail).power =
    { d.power with resetDue := none, offDue := false, stopDue := false, rails := false, pgood := false, tripped := true, tripAt := (d.railLost rail).power.tripAt } := by
  unfold railLost
  rw [emit_power, setStage_power, notice_power, bump_power, dropPending_power]

theorem railLost_trips (rail : Nat) (d : Dev) : (d.railLost rail).nat Reg.railTrips = (d.nat Reg.railTrips + 1) % 2 ^ 32 := by
  unfold railLost
  rw [nat_congr (emit_regs _ _), nat_congr (setStage_regs _ _), notice_nat _ _ _ _ _ _ (by decide), nat_bump_same, dropPending_nat _ (by decide)]
  rfl

/-- The entry to FAULT keeps the rails, and the mark of their trip. -/
theorem enterFault_rails (cls detail : Nat) (d : Dev) : (d.enterFault cls detail).power.rails = d.power.rails ∧
    (d.enterFault cls detail).power.pgood = d.power.pgood ∧ (d.enterFault cls detail).power.tripped = d.power.tripped := by
  generalize hc : cls * 2 ^ 24 + detail % 65536 = cause
  rw [enterFault_eq_ite hc]
  split
  · split
    · exact ⟨rfl, rfl, rfl⟩
    · rw [bootFaulted, keep_power, setNat_power, setStage_power]
      exact ⟨rfl, rfl, rfl⟩
  · split
    · exact ⟨rfl, rfl, rfl⟩
    · rw [faultTold_power, faultNoted, setStage_power, keep_power, setNat_power, (releaseLead_retains (ks := []) d).power]
      exact ⟨rfl, rfl, rfl⟩

theorem railTrip_faults (ha : d.answers = true) (hf : d.power.state ≠ .fault) (hb : d.power.state ≠ .boot) (rail : Nat) :
    (d.railTrip rail).nat Reg.railTrips = (d.nat Reg.railTrips + 1) % 2 ^ 32 ∧ (d.railTrip rail).power.rails = false ∧
      (d.railTrip rail).power.pgood = false ∧ (d.railTrip rail).power.tripped = true ∧ (d.railTrip rail).power.state = .fault ∧
      (d.railTrip rail).nat Reg.faultCause = 2 * 2 ^ 24 + rail % 65536 := by
  have hpower := railLost_power rail d
  have hstate : (d.railLost rail).power.state = d.power.state := by rw [hpower]
  have ha' : (d.railLost rail).answers = true := by
    rw [answers, live, hpower]
    exact ha
  obtain ⟨hrails, hpgood, htripped⟩ := enterFault_rails 2 rail (d.railLost rail)
  obtain ⟨hfault, hcause, -⟩ := enterFault_reads (cls := 2) (detail := rail) (cause := 2 * 2 ^ 24 + rail % 65536) rfl ha'
    (by rw [hstate]; exact hf) (by rw [hstate]; exact hb)
  rw [railTrip_running (answers_live ha)]
  refine ⟨?_, ?_, ?_, ?_, hfault, hcause⟩
  · rw [(enterFault_frame 2 rail _).2.nat Reg.railTrips 0 0 (by decide) (by decide), railLost_trips]
  · rw [hrails, hpower]
  · rw [hpgood, hpower]
  · rw [htripped, hpower]

/-! ### Restarts (R559, R560) -/

/-- A restart entered in the list that the limit reads. -/
def restartListed (d : Dev) : Dev :=
  { d with power := { d.power with restarts := d.clock :: d.power.restarts.filter fun t => d.clock < t + secCycles 600 } }

theorem countRestart_eq (d : Dev) : d.countRestart = d.restartListed.bump Reg.faultRestarts := rfl

/-- A counted restart of a module whose logic runs. -/
theorem countRestart_resets {cause : Nat} (hl : d.live = true) (ht : d.power.tripped = false ∨ cause = 0x0A) :
    (d.countRestart.fullReset cause).HeldInReset cause ∧
      (d.countRestart.fullReset cause).nat Reg.faultRestarts = (d.nat Reg.faultRestarts + 1) % 2 ^ 32 := by
  have hpower : d.countRestart.power = d.restartListed.power := bump_power _ _ _ _
  have hreset := fullReset_resets (cause := cause) (d := d.countRestart) (by rw [live_of_power hpower]; exact hl) (by rw [hpower]; exact ht)
  rw [countRestart_eq] at hreset ⊢
  exact ⟨hreset.held, hreset.nat_bump (by decide) (by decide) (by decide) (by decide)⟩

/-- The restart of the rails: a full reset, VAUX_3V3 off. -/
def railsRestarted (d : Dev) : Dev :=
  ((d.countRestart.fullReset 0x0A).emit (.pad "VAUX_3V3" false)).setStage fun p => { p with rails := false, pgood := false, vaux := false }

/-- Past the limit the module is latched in OFF. -/
def railsLatched (d : Dev) : Dev :=
  ((d.notice 0x2005 (d.nat Reg.faultRestarts)).powerDown 0x0A true).setStage fun p => { p with latchedOff := true }

theorem railRestart_due (hl : d.live = true) (hr : d.power.rails = false) (hd : d.Reaches (d.power.tripAt + msCycles 1)) :
    d.railRestart = let e := d.advanceTo (d.power.tripAt + msCycles 1); if e.restartAllowed then e.railsRestarted else e.railsLatched := by
  rw [railRestart, if_neg (by simp [hl, hr]), onDue_eq _ _ _ hd]
  rfl

theorem railsRestarted_held (hl : d.live = true) : d.railsRestarted.HeldInReset 0x0A ∧ d.railsRestarted.power.rails = false ∧
    d.railsRestarted.nat Reg.faultRestarts = (d.nat Reg.faultRestarts + 1) % 2 ^ 32 := by
  obtain ⟨⟨hstate, hheld, hcause⟩, hcount⟩ := countRestart_resets (cause := 0x0A) hl (.inr rfl)
  exact ⟨⟨hstate, hheld, hcause⟩, rfl, hcount⟩

theorem railsLatched_off (d : Dev) : d.railsLatched.power.state = .off ∧ d.railsLatched.power.latchedOff = true :=
  ⟨(powerDown_down 0x0A true (d.notice 0x2005 (d.nat Reg.faultRestarts))).state, rfl⟩

theorem faultRestart_due (hs : d.power.state = .fault) (hl : d.power.latchedOff = false) (hf : d.flag Reg.faultAutoReset = true)
    (hd : d.Reaches (d.power.faultAt + msCycles (d.nat Reg.faultRestartDelay))) :
    d.faultRestart = let e := d.advanceTo (d.power.faultAt + msCycles (d.nat Reg.faultRestartDelay))
      if e.restartAllowed then e.countRestart.fullReset 0x09
      else (e.notice 0x2005 (e.nat Reg.faultRestarts)).setStage fun p => { p with latchedOff := true } := by
  rw [faultRestart, if_neg (by simp [hs, hl, hf]), onDue_eq _ _ _ hd]

end Dev

theorem exec_vinUvloStart (s : State) : exec .vinUvloStart s = s.run Dev.vinStart := rfl

theorem exec_vinUvloTrip (recorded : Bool) (s : State) : exec (.vinUvloTrip recorded) s = s.run (Dev.vinTrip recorded) := rfl

theorem exec_vinOvpTrip (s : State) : exec .vinOvpTrip s = s.run Dev.vinOver := rfl

theorem exec_ovpRestart (s : State) : exec .ovpRestart s = s.run Dev.ovpRestart := rfl

theorem exec_wakeEdge (s : State) : exec .wakeEdge s = s.run Dev.wakeEdge := rfl

theorem exec_railsInRegulation (s : State) : exec .railsInRegulation s = s.run Dev.railsIn := rfl

theorem exec_railTrip (rail : Nat) (s : State) : exec (.railTrip rail) s = s.run (Dev.railTrip rail) := rfl

theorem exec_railRestart (s : State) : exec .railRestart s = s.run Dev.railRestart := rfl

theorem exec_faultRestartTimer (s : State) : exec .faultRestartTimer s = s.run Dev.faultRestart := rfl

/-- Settles O16: each event by the power state that it finds. -/
theorem supplyEvents : Obligations.SupplyEvents := by
  unfold Obligations.SupplyEvents
  intro s
  refine ⟨fun hv hs ho => ?_, fun hv ho => ?_, fun hv => ?_, fun recorded hv => ?_, fun recorded hv => ?_, fun ho hs => ?_, fun ho => ?_, fun ho => ?_,
    fun ho hs => ?_, fun ho hs hv => ?_, fun hs => ?_, fun hs hlatched hv ho => ?_, fun hs h => ?_⟩
  · refine run_completes (exec_vinUvloStart s) ?_
    rw [Dev.vinStart_starts hv hs ho]
    exact ⟨Dev.startUp_held _ _, Dev.startUp_vin _ _⟩
  · exact run_completes (exec_vinUvloStart s) (Dev.vinStart_waits hv ho)
  · exact run_completes (exec_vinUvloStart s) (Dev.vinStart_present hv)
  · exact run_completes (exec_vinUvloTrip recorded s) (Dev.vinTrip_off hv recorded)
  · exact run_completes (exec_vinUvloTrip recorded s) (Dev.vinTrip_absent hv recorded)
  · obtain ⟨hover, hstate, hcount⟩ := Dev.vinOver_reads ho
    rw [if_pos hs] at hstate
    exact run_completes (exec_vinOvpTrip s) ⟨hover, hstate, hcount⟩
  · exact run_completes (exec_vinOvpTrip s) (Dev.vinOver_again ho)
  · exact run_completes (exec_ovpRestart s) (Dev.ovpRestart_none ho)
  · obtain ⟨hover, hstate, hcount⟩ := Dev.vinOver_reads ho
    rw [if_neg hs] at hstate
    exact run_completes (exec_vinOvpTrip s) ⟨hover, hstate, hcount⟩
  · refine run_completes (exec_ovpRestart s) ?_
    rw [Dev.ovpRestart_starts ho hs hv]
    exact ⟨Dev.startUp_held _ _, Dev.startUp_overVoltage _ _⟩
  · refine run_completes (exec_wakeEdge s) ?_
    rw [Dev.wakeEdge_starts (.inl hs)]
    exact ⟨Dev.startUp_held _ _, Dev.startUp_wake _ _⟩
  · refine run_completes (exec_wakeEdge s) ?_
    rw [Dev.wakeEdge_starts (.inr ⟨hs, hlatched, hv, ho⟩)]
    exact ⟨Dev.startUp_held _ _, Dev.startUp_wake _ _⟩
  · exact run_completes (exec_wakeEdge s) (Dev.wakeEdge_marks hs h)

/-- Settles O17: the rails' own events by whether the die is held, and the restarts by the limit. -/
theorem railEvents : Obligations.RailEvents := by
  unfold Obligations.RailEvents
  intro s
  refine ⟨fun hs hh hr => ?_, fun hl ht => ?_, fun rail hs hh hr => ?_, fun rail ha hf hb => ?_, fun hl hr hd => ⟨fun hok => ?_, fun hpast => ?_⟩,
    fun hl hs hlatched hauto hd => ⟨fun ht hok => ?_, fun hpast => ?_⟩⟩
  · refine run_completes (exec_railsInRegulation s) ?_
    rw [Dev.railsIn_held hs hh hr]
    exact ⟨rfl, rfl, rfl⟩
  · refine run_completes (exec_railsInRegulation s) ?_
    rw [Dev.railsIn_back hl ht]
    exact ⟨rfl, rfl, rfl⟩
  · refine run_completes (exec_railTrip rail s) ?_
    rw [Dev.railTrip_held hs hh hr]
    refine ⟨?_, ?_⟩
    · rw [Dev.nat_congr (Dev.emit_regs _ _), Dev.nat_congr (Dev.setStage_regs _ _), Dev.notice_nat _ _ _ _ _ _ (by decide), Dev.nat_bump_same]
      rfl
    · rw [Dev.emit_power, Dev.setStage_power, Dev.notice_power, Dev.bump_power]
  · exact run_completes (exec_railTrip rail s) (Dev.railTrip_faults ha hf hb rail)
  · refine run_completes (exec_railRestart s) ?_
    rw [Dev.railRestart_due hl hr hd]
    dsimp only
    rw [if_pos hok, ← Dev.advanceTo_nat (s.dev.power.tripAt + Dev.msCycles 1) s.dev Reg.faultRestarts]
    exact Dev.railsRestarted_held (by rw [Dev.live_of_power (Dev.advanceTo_power _ _), hl])
  · refine run_completes (exec_railRestart s) ?_
    rw [Dev.railRestart_due hl hr hd]
    dsimp only
    rw [if_neg (by simp [hpast])]
    exact Dev.railsLatched_off _
  · refine run_completes (exec_faultRestartTimer s) ?_
    rw [Dev.faultRestart_due hs hlatched hauto hd]
    dsimp only
    rw [if_pos hok, ← Dev.advanceTo_nat (s.dev.power.faultAt + Dev.msCycles (s.dev.nat Reg.faultRestartDelay)) s.dev Reg.faultRestarts]
    exact Dev.countRestart_resets (by rw [Dev.live_of_power (Dev.advanceTo_power _ _), hl]) (.inl (by rw [Dev.advanceTo_power, ht]))
  · refine run_completes (exec_faultRestartTimer s) ?_
    rw [Dev.faultRestart_due hs hlatched hauto hd]
    dsimp only
    rw [if_neg (by simp [hpast])]
    refine ⟨?_, rfl, ?_⟩
    · rw [Dev.setStage_power, Dev.notice_power, Dev.advanceTo_power]
      exact hs
    · exact ((((Dev.KeepsRegs.refl _ _).of_regs (Dev.advanceTo_regs _ _)).told (Dev.told_notice _ _ _)).of_regs (Dev.setStage_regs _ _))

end Sys2Proof.Machine
end

