-- ==== Sys2Proof/Proofs/PowerCommands.lean ====
section
/-! The commands of the power stage, of a handover and of the group on a lone module, and what follows their response (R432, R474, R553 to
R556, R564). -/

namespace Sys2Proof.Machine

namespace Dev

variable {d e : Dev}

/-! ### What a command leaves to its response (R553, R564) -/

/-- A command answered STATE leaves the module but for the status and the read-back. -/
theorem ranCommand_state {f : Found} {text : Octets} {act : Dev → Status × Dev} (h : d.Alone) (ha : act d = (Status.state, d)) :
    d.ranCommand f text (fun x => noResult (act x)) = { d with lastStatus := Status.state, lastResult := cmdBack text Status.state [] } :=
  ranCommand_refused h (by decide) (congrArg noResult ha)

/-- A command that is OK, counted by ConfigEpoch, then what it calls for once the response has left. -/
theorem ranCommand_ok_lone {f : Found} {text : Octets} {act : Dev → Status × Dev} (h : d.Alone) (ha : act d = (Status.ok, e)) (hl : e.lone = true) :
    d.ranCommand f text (fun x => noResult (act x)) =
      ({ e.bumpEpoch with lastStatus := Status.ok, lastResult := cmdBack text Status.ok [] } : Dev).afterResponse := by
  have hl' : e.bumpEpoch.lone = true := (congrArg Power.pairPresent (bump_power e Reg.configEpoch 0 1)).trans hl
  simp only [ranCommand, h.refuses f, Bool.false_eq_true, if_false, ha, noResult, if_true, mirrorPlain_lone hl']

theorem afterResponse_reset {c : Nat} (h : d.power.resetDue = some c) :
    d.afterResponse = (d.setStage fun p => { p with resetDue := none }).fullReset c := by
  rw [afterResponse, h]

theorem afterResponse_off (h : d.power.resetDue = none) (ho : d.power.offDue = true) :
    d.afterResponse = (d.setStage fun p => { p with offDue := false }).enterOffseason := by
  rw [afterResponse, h]
  exact if_pos ho

/-- A command that called for a full reset ends in it, its status OK. -/
theorem ranCommand_resets {f : Found} {text : Octets} {act : Dev → Status × Dev} {cause : Nat} (h : d.Alone) (ha : act d = (Status.ok, e))
    (hp : e.power = { d.power with resetDue := some cause }) (hlive : d.live = true) (ht : d.power.tripped = false) :
    (d.ranCommand f text fun x => noResult (act x)).lastStatus = Status.ok ∧
      (d.ranCommand f text fun x => noResult (act x)).HeldInReset cause := by
  rw [ranCommand_ok_lone h ha (by rw [lone, hp]; exact h.1)]
  generalize hr : ({ e.bumpEpoch with lastStatus := Status.ok, lastResult := cmdBack text Status.ok [] } : Dev) = r
  have hpower : r.power = { d.power with resetDue := some cause } := by
    rw [← hr, ← hp]
    exact bump_power _ _ _ _
  have hreset := fullReset_resets (cause := cause) (d := r.setStage fun p => { p with resetDue := none })
    (by rw [live, setStage_power, hpower]; exact hlive) (.inl (by rw [setStage_power, hpower]; exact ht))
  rw [afterResponse_reset (by rw [hpower])]
  exact ⟨hreset.status, hreset.held⟩

theorem enterOffseason_state (d : Dev) : d.enterOffseason.lastStatus = Status.ok ∧ d.enterOffseason.power.state = .offseason := by
  unfold enterOffseason
  extract_lets e1
  obtain ⟨hpower, hstatus, -⟩ := railsOff_off .offseason ((e1.tellLeaving .offseason).resetRecord 0x0C).logFlush
  exact ⟨hstatus, by rw [hpower]⟩

theorem ranCommand_offseason {f : Found} {text : Octets} {act : Dev → Status × Dev} (h : d.Alone) (ha : act d = (Status.ok, e))
    (hp : e.power = { d.power with offDue := true }) :
    (d.ranCommand f text fun x => noResult (act x)).lastStatus = Status.ok ∧
      (d.ranCommand f text fun x => noResult (act x)).power.state = .offseason := by
  obtain ⟨hlone, -, -, hnone, -⟩ := id h
  rw [ranCommand_ok_lone h ha (by rw [lone, hp]; exact hlone)]
  generalize hr : ({ e.bumpEpoch with lastStatus := Status.ok, lastResult := cmdBack text Status.ok [] } : Dev) = r
  have hpower : r.power = { d.power with offDue := true } := by
    rw [← hr, ← hp]
    exact bump_power _ _ _ _
  rw [afterResponse_off (by rw [hpower]; exact hnone) (by rw [hpower])]
  exact enterOffseason_state _

/-! ### RESET_CMD and PowerStateCmd (R553 to R556, R564) -/

theorem resetCmd_other {arg : Octets} (h : arg ≠ ascii "reset") : d.resetCmd arg = (Status.range, d) := if_pos h

theorem resetCmd_resets (h : d.power.state ≠ .onShow) :
    d.resetCmd (ascii "reset") = (Status.ok, d.setStage fun p => { p with resetDue := some 0x04 }) := by
  rw [resetCmd, if_neg (not_not.mpr rfl), if_neg fun hs => h hs.1]

theorem gateOpen_show (hl : d.lone = true) (h : d.power.state = .onShow) : d.gateOpen = true := by
  rw [gateOpen, if_pos hl, h]
  rfl

theorem transmits_lone (hl : d.lone = true) : d.transmits = true := by
  rw [transmits, hl]
  rfl

theorem resetCmd_show (hl : d.lone = true) (h : d.power.state = .onShow) : d.resetCmd (ascii "reset") = (Status.state, d) := by
  rw [resetCmd, if_neg (not_not.mpr rfl), if_pos ⟨h, gateOpen_show hl h, transmits_lone hl⟩]

theorem powerQuiet_quiet (h : d.power.state = .quiet) : d.powerQuiet = (Status.ok, d.setFlag Reg.quietHold true) := by
  simp only [powerQuiet, h]

/-- QuietHold set, and the stop of a lone module's data path called for. -/
def quietCalled (d : Dev) : Dev := (d.setFlag Reg.quietHold true).setStage fun p => { p with stopDue := true }

theorem powerQuiet_runs (hl : d.lone = true) (h : d.power.state = .ready ∨ d.power.state = .onShow) : d.powerQuiet = (Status.ok, d.quietCalled) := by
  have hl' : d.quietCalled.lone = true := hl
  obtain h | h := h
  all_goals
    simp only [powerQuiet, h]
    exact if_neg (by rw [← quietCalled, hl']; simp)

theorem powerQuiet_else (hq : d.power.state ≠ .quiet) (hr : d.power.state ≠ .ready) (hs : d.power.state ≠ .onShow) :
    d.powerQuiet = (Status.state, d) := by
  unfold powerQuiet
  split
  next h => exact absurd h hq
  next h => exact absurd h hr
  next h => exact absurd h hs
  next => rfl

theorem powerReady_quiet (h : d.power.state = .quiet) : d.powerReady = (Status.ok, d.setFlag Reg.quietHold false) := by
  simp only [powerReady, h]

/-- QuietHold cleared, and with it the stop. -/
def quietRecalled (d : Dev) : Dev := (d.setFlag Reg.quietHold false).setStage fun p => { p with stopDue := false }

theorem powerReady_runs (h : d.power.state = .ready ∨ d.power.state = .onShow) : d.powerReady = (Status.ok, d.quietRecalled) := by
  obtain h | h := h
  all_goals
    simp only [powerReady, h]
    rfl

theorem powerReady_else (hq : d.power.state ≠ .quiet) (hr : d.power.state ≠ .ready) (hs : d.power.state ≠ .onShow) :
    d.powerReady = (Status.state, d) := by
  unfold powerReady
  split
  next h => exact absurd h hq
  next h => exact absurd h hr
  next h => exact absurd h hs
  next => rfl

theorem powerOffseason_quiet (h : d.power.state = .quiet) :
    d.powerOffseason = (Status.ok, d.setStage fun p => { p with offDue := true }) := if_pos h

theorem powerOffseason_else (h : d.power.state ≠ .quiet) : d.powerOffseason = (Status.state, d) := if_neg h

/-- `e` is `d` after a command that was OK and set QuietHold to `b`. -/
structure HoldSet (b : Bool) (d e : Dev) : Prop where
  status : e.lastStatus = Status.ok
  hold : e.flag Reg.quietHold = b
  regs : KeepsRegs [Reg.quietHold.key, Reg.configEpoch.key] d e

theorem holdSet_of {b : Bool} (h : e.regs = (d.setFlag Reg.quietHold b).regs) (res : Octets) :
    HoldSet b d { e.bumpEpoch with lastStatus := Status.ok, lastResult := res } := by
  refine ⟨rfl, ?_, ?_⟩
  · rw [flag, ran_nat _ _ _ _ _ _ (by decide), ← flag, flag_congr h, flag_setFlag_same]
  · exact (((KeepsRegs.refl _ d).setFlag Reg.quietHold b 0 (.head _)).of_regs h).ran (.tail _ (.head _)) _ _

/-! ### HandoverCmd and GroupReform (R432, R474) -/

theorem handoverCmd_other {arg : Octets} (h : arg ≠ ascii "now") : d.handoverCmd arg = (Status.range, d) := if_pos h

theorem handoverCmd_refused (h : d.nat Reg.pairState ≠ 2 ∨ d.pair.handover ≠ none ∨ d.nat Reg.partnerHealth % 256 ≠ 255) :
    d.handoverCmd (ascii "now") = (Status.state, d) := by
  rw [handoverCmd, if_neg (not_not.mpr rfl), if_pos (by simpa [Option.isSome_iff_ne_none] using h)]

theorem groupReform_other {arg : Octets} (h : arg ≠ ascii "now") : d.groupReform arg = (Status.range, d) := if_pos h

theorem groupReform_refused (h : d.power.state = .onShow ∨ d.headsGroup = false) : d.groupReform (ascii "now") = (Status.state, d) := by
  rw [groupReform, if_neg (not_not.mpr rfl), if_pos (by simpa using h)]

/-- The collection emptied, and its end set. -/
def collectionBegun (d : Dev) : Dev :=
  d.setDrada fun g => { g with collected := [], ring := false, formBy := some (d.clock + msCycles (d.nat Reg.groupFormTimeout)) }

theorem groupReform_begins (hs : d.power.state ≠ .onShow) (hh : d.headsGroup = true) :
    d.groupReform (ascii "now") = (Status.ok, d.collectionBegun.collect) := by
  rw [groupReform, if_neg (not_not.mpr rfl), if_neg (by simp [hs, hh]), collectionBegun]

/-- The LINK cells of the head change neither its power stage nor what it collects. -/
theorem collect_keeps (d : Dev) : (d.collect.power, d.collect.drada.collected, d.collect.drada.formBy) =
    (d.power, d.drada.collected, d.drada.formBy) := by
  unfold collect
  split
  · rfl
  · refine foldl_frame (fun e : Dev => (e.power, e.drada.collected, e.drada.formBy)) (fun e k => ?_) _ _
    obtain ⟨l, hl⟩ := sendCell_drada k .link 0xFFFF 2 (e.bytes Reg.serialNumber ++ toBE 1 1 ++ toBE 1 k) false 0 none e
    rw [sendLink, sendCell_power, hl]

end Dev

theorem exec_resetCmd (arg : Octets) (s : State) :
    exec (.resetCmd arg) s = s.run (Dev.whenUp fun d => d.ranCommand (foundOf Reg.resetCmd) arg fun d => noResult (d.resetCmd arg)) := rfl

theorem exec_powerQuiet (s : State) :
    exec .powerQuiet s = s.run (Dev.whenUp fun d => d.ranCommand (foundOf Reg.powerStateCmd) (ascii "quiet") fun d => noResult d.powerQuiet) := rfl

theorem exec_powerReady (s : State) :
    exec .powerReady s = s.run (Dev.whenUp fun d => d.ranCommand (foundOf Reg.powerStateCmd) (ascii "ready") fun d => noResult d.powerReady) := rfl

theorem exec_powerOffseason (s : State) :
    exec .powerOffseason s =
      s.run (Dev.whenUp fun d => d.ranCommand (foundOf Reg.powerStateCmd) (ascii "offseason") fun d => noResult d.powerOffseason) := rfl

theorem exec_handoverCmd (arg : Octets) (s : State) :
    exec (.handoverCmd arg) s = s.run (Dev.whenUp fun d => d.ranCommand (foundOf Reg.handoverCmd) arg fun d => noResult (d.handoverCmd arg)) := rfl

theorem exec_groupReform (arg : Octets) (s : State) :
    exec (.groupReform arg) s = s.run (Dev.whenUp fun d => d.ranCommand (foundOf Reg.groupReform) arg fun d => noResult (d.groupReform arg)) := rfl

/-- Settles O7: each command by its argument and the power state, the resets and the off-season by what follows the response. -/
theorem powerCommands : Obligations.PowerCommands := by
  unfold Obligations.PowerCommands
  intro s ha hl
  have hlone : s.dev.lone = true := hl.1
  refine ⟨fun hs ht => ?_, fun arg h => ?_, fun hs => ?_, fun hq => ?_, fun hr => ?_, fun hq hr hs => ⟨?_, ?_⟩, fun hq => ?_, fun hr => ?_,
    fun hq => ?_, fun hq => ?_, fun hp => ?_, fun hs hh => ?_, fun h => ?_, fun arg h => ⟨?_, ?_⟩⟩
  · exact up_completes (exec_resetCmd _ s) ha (Dev.ranCommand_resets hl (Dev.resetCmd_resets hs) rfl (Dev.answers_live ha) ht)
  · refine up_completes (exec_resetCmd _ s) ha ?_
    rw [Dev.ranCommand_range hl (Dev.resetCmd_other h)]
    exact ⟨rfl, rfl, rfl⟩
  · refine up_completes (exec_resetCmd _ s) ha ?_
    rw [Dev.ranCommand_state hl (Dev.resetCmd_show hlone hs)]
    exact ⟨rfl, rfl⟩
  · refine up_completes (exec_powerQuiet s) ha ?_
    rw [Dev.ranCommand_ok (act := Dev.powerQuiet) hl (Dev.powerQuiet_quiet hq) rfl]
    obtain ⟨hstatus, hhold, hregs⟩ := Dev.holdSet_of (d := s.dev) (e := s.dev.setFlag Reg.quietHold true) rfl _
    exact ⟨hstatus, hhold, hregs⟩
  · refine up_completes (exec_powerQuiet s) ha ?_
    rw [Dev.ranCommand_ok_of_dues (act := Dev.powerQuiet) hl (Dev.powerQuiet_runs hlone hr) rfl]
    obtain ⟨hstatus, hhold, hregs⟩ := Dev.holdSet_of (b := true) (d := s.dev) (e := s.dev.quietCalled) rfl _
    exact ⟨hstatus, hhold, Dev.bump_power _ _ _ _, hregs⟩
  · refine up_completes (exec_powerQuiet s) ha ?_
    rw [Dev.ranCommand_state (act := Dev.powerQuiet) hl (Dev.powerQuiet_else hq hr hs)]
    exact ⟨rfl, rfl, rfl⟩
  · refine up_completes (exec_powerReady s) ha ?_
    rw [Dev.ranCommand_state (act := Dev.powerReady) hl (Dev.powerReady_else hq hr hs)]
    exact ⟨rfl, rfl, rfl⟩
  · refine up_completes (exec_powerReady s) ha ?_
    rw [Dev.ranCommand_ok (act := Dev.powerReady) hl (Dev.powerReady_quiet hq) rfl]
    obtain ⟨hstatus, hhold, hregs⟩ := Dev.holdSet_of (d := s.dev) (e := s.dev.setFlag Reg.quietHold false) rfl _
    exact ⟨hstatus, hhold, hregs⟩
  · refine up_completes (exec_powerReady s) ha ?_
    rw [Dev.ranCommand_ok_of_dues (act := Dev.powerReady) hl (Dev.powerReady_runs hr) rfl]
    obtain ⟨hstatus, hhold, hregs⟩ := Dev.holdSet_of (b := false) (d := s.dev) (e := s.dev.quietRecalled) rfl _
    exact ⟨hstatus, hhold, Dev.bump_power _ _ _ _, hregs⟩
  · exact up_completes (exec_powerOffseason s) ha (Dev.ranCommand_offseason hl (Dev.powerOffseason_quiet hq) rfl)
  · refine up_completes (exec_powerOffseason s) ha ?_
    rw [Dev.ranCommand_state (act := Dev.powerOffseason) hl (Dev.powerOffseason_else hq)]
    exact ⟨rfl, rfl⟩
  · refine up_completes (exec_handoverCmd _ s) ha ?_
    rw [Dev.ranCommand_state hl (Dev.handoverCmd_refused (.inl hp))]
    exact ⟨rfl, rfl⟩
  · have hkeeps := s.dev.collectionBegun.collect_keeps
    simp only [Prod.mk.injEq] at hkeeps
    obtain ⟨hpower, hcollected, hformBy⟩ := hkeeps
    refine up_completes (exec_groupReform _ s) ha ?_
    rw [Dev.ranCommand_ok hl (Dev.groupReform_begins hs hh) (hpower.trans rfl)]
    have hdrada := Dev.bump_drada s.dev.collectionBegun.collect Reg.configEpoch 0 1
    exact ⟨rfl, (congrArg Drada.collected hdrada).trans hcollected, (congrArg Drada.formBy hdrada).trans hformBy⟩
  · refine up_completes (exec_groupReform _ s) ha ?_
    rw [Dev.ranCommand_state hl (Dev.groupReform_refused h)]
    exact ⟨rfl, rfl, rfl⟩
  · refine up_completes (exec_handoverCmd _ s) ha ?_
    rw [Dev.ranCommand_range hl (Dev.handoverCmd_other h)]
    exact ⟨rfl, rfl, rfl⟩
  · refine up_completes (exec_groupReform _ s) ha ?_
    rw [Dev.ranCommand_range hl (Dev.groupReform_other h)]
    exact ⟨rfl, rfl, rfl⟩

end Sys2Proof.Machine
end

