-- ==== Sys2Proof/Proofs/HandoverCommand.lean ====
section
/-! What a cell put on a link leaves alone, and HANDOVER_CMD at a lead of a pair (R432, R435). -/

namespace Sys2Proof.Machine

namespace Dev

variable {d e : Dev}

/-! ### A cell put on a link, a message to the partner -/

/-- A cell put on a link changes its link, what left the module, and the count of cells that wait. -/
theorem sendCell_sends (k : Nat) (type : CellType) (dest arg : Nat) (payload : Octets) (settled : Bool) (hops : Nat) (src : Option Nat) (d : Dev) :
    ∃ g o r, d.sendCell k type dest arg payload settled hops src = { d with drada := g, out := o, regs := r } := by
  unfold sendCell
  split
  · exact ⟨_, _, _, rfl⟩
  · dsimp only
    split
    · rw [bump, if_neg (by decide)]
      exact ⟨_, _, _, rfl⟩
    · exact ⟨_, _, _, rfl⟩

theorem tellPartner_sends (code : Nat) (body : Octets) (d : Dev) :
    ∃ g o r, d.tellPartner code body = { d with drada := g, out := o, regs := r } := by
  unfold tellPartner
  split
  · exact ⟨_, _, _, rfl⟩
  · exact sendCell_sends _ _ _ _ _ _ _ _ _

theorem tellPartner_pair (code : Nat) (body : Octets) (d : Dev) : (d.tellPartner code body).pair = d.pair := by
  obtain ⟨g, o, r, h⟩ := tellPartner_sends code body d
  rw [h]

/-! ### A command of an entry that each unit of a pair holds for itself (R435) -/

section
variable {f : Found} {text : Octets} {act : Dev → Status × Dev} (hf : perUnitIndex f.index f.sub = true)
include hf

theorem standbyRefuses_perUnit (d : Dev) : d.standbyRefuses f = false := by rw [standbyRefuses, hf, Bool.not_true, Bool.and_false]

theorem mirrorPlain_perUnit (wire : Octets) (d : Dev) : d.mirrorPlain f wire = d :=
  if_neg (by rw [mirrors, hf, Bool.not_true, Bool.and_false, Bool.false_and]; exact Bool.false_ne_true)

theorem ranCommand_perUnit_ok (ha : act d = (Status.ok, e)) (hr : e.power.resetDue = none) (ho : e.power.offDue = false) :
    d.ranCommand f text (fun x => noResult (act x)) = { e.bumpEpoch with lastStatus := Status.ok, lastResult := cmdBack text Status.ok [] } := by
  have hpower : e.bumpEpoch.power = e.power := bump_power _ _ _ _
  simp only [ranCommand, standbyRefuses_perUnit hf, Bool.false_eq_true, if_false, ha, noResult, if_true, mirrorPlain_perUnit hf]
  exact afterResponse_none (by rw [hpower]; exact hr) (by rw [hpower]; exact ho)

theorem ranCommand_perUnit_state (ha : act d = (Status.state, d)) (hr : d.power.resetDue = none) (ho : d.power.offDue = false) :
    d.ranCommand f text (fun x => noResult (act x)) = { d with lastStatus := Status.state, lastResult := cmdBack text Status.state [] } := by
  simp only [ranCommand, standbyRefuses_perUnit hf, Bool.false_eq_true, if_false, ha, noResult]
  rw [if_neg (by decide)]
  exact afterResponse_none hr ho

end

/-! ### HandoverCmd (R432, R450) -/

theorem handoverCmd_starts (hp : d.nat Reg.pairState = 2) (hh : d.pair.handover = none) (hw : d.nat Reg.partnerHealth % 256 = 255)
    (ha : d.pair.audit = none) : d.handoverCmd (ascii "now") = (Status.ok, d.startHandover (d.msc + 1 + d.fr / 1000) 1) := by
  rw [handoverCmd, if_neg (not_not.mpr rfl), if_neg (by simp [hp, hh, hw]), if_neg (by simp [ha])]

/-- A handover that waits for the end of an audit. -/
def handoverWaits (d : Dev) : Dev := d.setPair fun p => { p with waiting := true }

theorem handoverCmd_waits (hp : d.nat Reg.pairState = 2) (hh : d.pair.handover = none) (hw : d.nat Reg.partnerHealth % 256 = 255)
    (ha : d.pair.audit ≠ none) : d.handoverCmd (ascii "now") = (Status.ok, d.handoverWaits) := by
  rw [handoverCmd, if_neg (not_not.mpr rfl), if_neg (by simp [hp, hh, hw]), if_pos (Option.isSome_iff_ne_none.mpr ha), handoverWaits]

theorem startHandover_power (h reason : Nat) (d : Dev) : (d.startHandover h reason).power = d.power := (tellPartner_leaves _ _ _).2

theorem startHandover_keepsRegs (h reason : Nat) (d : Dev) : KeepsRegs [Reg.dradaCreditStalls.key 2] d (d.startHandover h reason) :=
  (tellPartner_leaves _ _ _).1.of_regs rfl

theorem startHandover_pair (h reason : Nat) (d : Dev) :
    (d.startHandover h reason).pair = { d.pair with handover := some h, reason := reason, waiting := false } := by
  rw [startHandover, setPair, tellPartner_pair]

end Dev

/-- Settles O8: HANDOVER_CMD is an entry of the unit itself, so that a lead neither mirrors it nor refuses it as a standby. -/
theorem handoverCommand : Obligations.HandoverCommand := by
  unfold Obligations.HandoverCommand
  intro s ha hreset hoff hp
  have hrow : Dev.perUnitIndex (foundOf Reg.handoverCmd).index (foundOf Reg.handoverCmd).sub = true := by decide
  refine ⟨fun hh hw hnone => ?_, fun hh hw hsome => ?_, fun hrefused => ?_⟩
  · have hpower := Dev.startHandover_power (s.dev.msc + 1 + s.dev.fr / 1000) 1 s.dev
    have hregs := Dev.startHandover_keepsRegs (s.dev.msc + 1 + s.dev.fr / 1000) 1 s.dev
    have hpair := Dev.startHandover_pair (s.dev.msc + 1 + s.dev.fr / 1000) 1 s.dev
    refine up_completes (exec_handoverCmd _ s) ha ?_
    rw [Dev.ranCommand_perUnit_ok hrow (Dev.handoverCmd_starts hp hh hw hnone) (by rw [hpower]; exact hreset) (by rw [hpower]; exact hoff)]
    generalize s.dev.startHandover _ 1 = e at hpower hregs hpair
    refine ⟨rfl, congrArg Pair.handover hpair, congrArg Pair.reason hpair, ?_, ?_⟩
    · rw [Dev.ran_nat _ _ _ _ _ _ (by decide), hregs.nat _ _ _ (by decide) (by decide), hp]
    · rw [← hregs.nat Reg.configEpoch 0 0 (by decide) (by decide)]
      exact Dev.nat_bump_same e Reg.configEpoch 0 1
  · refine up_completes (exec_handoverCmd _ s) ha ?_
    rw [Dev.ranCommand_perUnit_ok hrow (Dev.handoverCmd_waits hp hh hw hsome) hreset hoff]
    have hregs : s.dev.KeepsRegs [Reg.configEpoch.key] s.dev.handoverWaits := (Dev.KeepsRegs.refl _ s.dev).of_regs rfl
    exact ⟨rfl, rfl, hh, hregs.ran (.head _) _ _⟩
  · refine up_completes (exec_handoverCmd _ s) ha ?_
    rw [Dev.ranCommand_perUnit_state hrow (Dev.handoverCmd_refused (.inr hrefused)) hreset hoff]
    exact ⟨rfl, rfl, rfl⟩

end Sys2Proof.Machine
end

