-- ==== Sys2Proof/Proofs/SecurityCommands.lean ====
section
/-! Keys, the unlocking of the test access port, and the firmware commands on a lone module (R512, R518, R521, R522, R524, R526). -/

namespace Sys2Proof.Machine

namespace Dev

variable {d e : Dev}

/-! ### KeyErase (R512) -/

theorem bump_sec (d : Dev) (r : Row) (i n : Nat) : (d.bump r i n).sec = d.sec := by unfold bump; split <;> rfl

theorem slot_congr (h : e.sec = d.sec) (k : Nat) : e.slot k = d.slot k := by rw [slot, slot, h]

theorem ran_slot (d : Dev) (st : Status) (res : Octets) (k : Nat) :
    ({ d.bumpEpoch with lastStatus := st, lastResult := res } : Dev).slot k = d.slot k := slot_congr (bump_sec d Reg.configEpoch 0 1) k

theorem refreshGaps_sec (d : Dev) : d.refreshGaps.sec = d.sec := by
  unfold refreshGaps
  extract_lets on img op maps bits gaps was e
  split
  · rfl
  · exact notice_sec _ _ _

theorem refreshCommissioning_keeps (d : Dev) : d.refreshCommissioning.sec = d.sec ∧ d.refreshCommissioning.power = d.power := by
  unfold refreshCommissioning
  extract_lets now was e
  split <;> exact ⟨rfl, rfl⟩

/-- The module with the material of a key slot replaced, and its loss mark gone. -/
def keySet (idx sub : Nat) (m : Octets) (d : Dev) : Dev :=
  d.setSec fun x => { x with keys := nset [] x.keys (entryKey idx sub) m, keysLost := x.keysLost.filter (· ≠ entryKey idx sub) }

theorem keySet_keys (idx sub : Nat) (m : Octets) (d : Dev) : (d.keySet idx sub m).sec.keys = nset [] d.sec.keys (entryKey idx sub) m := rfl

theorem setKey_sec (idx sub : Nat) (m : Octets) (d : Dev) : (d.setKey idx sub m).sec = (d.keySet idx sub m).sec := by
  rw [setKey, refreshGaps_sec, (refreshCommissioning_keeps _).1, notice_sec, keySet]

theorem setKey_power (idx sub : Nat) (m : Octets) (d : Dev) : (d.setKey idx sub m).power = d.power := by
  rw [setKey, refreshGaps_power, (refreshCommissioning_keeps _).2, notice_power]
  rfl

section
variable {arg i sub : Octets} {idx sb : Nat} (hw : splitWords arg = [ascii "erase", i, sub]) (hi : hex? i = some idx) (hs : hex? sub = some sb)
include hw hi hs

theorem keyErase_slot (hil : i.length = 4) (hsl : sub.length = 2) (hk : (keySlot idx sb).isSome = true) :
    d.keyErase arg = (Status.ok, d.setKey idx sb []) := by
  unfold keyErase
  simp only [hw, hi, hs]
  exact if_neg (by simp [hil, hsl, Option.isNone_eq_false_iff.mpr hk])

theorem keyErase_none (hk : (keySlot idx sb).isSome = false) : d.keyErase arg = (Status.range, d) := by
  unfold keyErase
  simp only [hw, hi, hs]
  exact if_pos (by simp [Option.not_isSome_iff_eq_none.mp (by rw [hk]; exact Bool.false_ne_true)])

omit hi hs in
/-- A lone module has no standby that would empty the key too. -/
theorem keyEraseCmd_lone (hl : d.lone = true) : d.keyEraseCmd arg = d.keyErase arg := by
  unfold keyEraseCmd
  simp only [hw, hl]
  exact if_neg (by simp)

end

/-- A command refused with what it has told all the same. -/
theorem ranCommand_refusedTold {f : Found} {text : Octets} {act : Dev → Status × Dev} {st : Status} (h : d.Alone) (hs : st ≠ Status.ok)
    (ha : act d = (st, e)) (hp : e.power = d.power) :
    d.ranCommand f text (fun x => noResult (act x)) = { e with lastStatus := st, lastResult := cmdBack text st [] } :=
  (ranCommand_eq h (congrArg noResult ha) hp).trans (by rw [if_neg hs])

/-! ### The test access port unlocked (R524, R526) -/

/-- The module once it has drawn a nonce. -/
def challenged (d : Dev) : Dev := (d.freeOctets 32).2.setSec fun x => { x with nonce := some (Config.freeOctets d.freeCtr 32) }

theorem jtagChallenge_open (h : d.inForce Reg.certifiedMode ≠ 1) :
    d.jtagChallenge = (Status.ok, (Config.freeOctets d.freeCtr 32).flatMap fun b => hexText 2 b.toNat, d.challenged) := if_neg h

theorem jtagChallenge_certified (h : d.inForce Reg.certifiedMode = 1) : d.jtagChallenge = (Status.state, [], d) := if_pos h

theorem jtagResponse_certified (h : d.inForce Reg.certifiedMode = 1) (sig : Octets) : d.jtagResponse sig = (Status.state, d) := if_pos h

section
variable {sig : Octets} (h : d.inForce Reg.certifiedMode ≠ 1)
include h

theorem jtagResponse_length (hl : sig.length ≠ 96) : d.jtagResponse sig = (Status.range, d) := by
  rw [jtagResponse, if_neg h, if_pos hl]

theorem jtagResponse_unasked (hl : sig.length = 96) (hn : d.sec.nonce = none) : d.jtagResponse sig = (Status.state, d.notice 0x2305 0) := by
  rw [jtagResponse, if_neg h, if_neg (not_not.mpr hl), hn]

/-- The module once its nonce is spent. -/
def nonceSpent (d : Dev) : Dev := d.setSec fun x => { x with nonce := none }

theorem jtagResponse_valid {n : Octets} (hl : sig.length = 96) (hn : d.sec.nonce = some n) (hv : Config.ecdsaVerify (Config.fused 2) n sig = true) :
    d.jtagResponse sig = (Status.ok, (d.nonceSpent.setNat Reg.jtagState 1).notice 0x2305 1) := by
  rw [jtagResponse, if_neg h, if_neg (not_not.mpr hl), hn]
  exact if_pos hv

theorem jtagResponse_invalid {n : Octets} (hl : sig.length = 96) (hn : d.sec.nonce = some n) (hv : Config.ecdsaVerify (Config.fused 2) n sig = false) :
    d.jtagResponse sig = (Status.refused, d.nonceSpent.notice 0x2305 0) := by
  rw [jtagResponse, if_neg h, if_neg (not_not.mpr hl), hn]
  exact if_neg (by rw [hv]; exact Bool.false_ne_true)

end

/-! ### UpdateCmd (R518, R521, R522) -/

/-- The other slot marked TRIAL. -/
def trialMarked (d : Dev) : Dev := (d.setSlot (1 - d.sec.running) fun x => { x with state := 3, begun := false }).notice 0x2403 (1 - d.sec.running)

theorem updateActivate_marks (hst : (d.slot (1 - d.sec.running)).state = 2 ∨ (d.slot (1 - d.sec.running)).state = 5) (ht : d.sec.trial = false)
    (hu : d.uploading = false) (hs : d.power.state ≠ .onShow) :
    d.updateActivate = (Status.ok, { d.trialMarked with power := { d.trialMarked.power with resetDue := some 0x08 } }) := by
  rw [updateActivate, if_neg, trialMarked]
  rintro (h | h | h | h)
  · simp only [Bool.not_eq_true', Bool.or_eq_false_iff, decide_eq_false_iff_not] at h
    exact hst.elim h.1 h.2
  · exact Bool.false_ne_true (ht.symm.trans h)
  · exact Bool.false_ne_true (hu.symm.trans h)
  · exact hs h.1

theorem updateActivate_refused (hl : d.lone = true)
    (h : ((d.slot (1 - d.sec.running)).state ≠ 2 ∧ (d.slot (1 - d.sec.running)).state ≠ 5) ∨ d.sec.trial = true ∨ d.uploading = true ∨
      d.power.state = .onShow) : d.updateActivate = (Status.state, d) := by
  rw [updateActivate, if_pos]
  obtain ⟨h2, h5⟩ | h | h | h := h
  · exact .inl (by simp [h2, h5])
  · exact .inr (.inl h)
  · exact .inr (.inr (.inl h))
  · exact .inr (.inr (.inr ⟨h, transmits_lone hl⟩))

theorem updateConfirm_refused (h : d.sec.trial = false ∨ d.power.state.runs = false) : d.updateConfirm = (Status.state, d) :=
  if_pos (by simpa using h)

theorem updateConfirm_confirms (ht : d.sec.trial = true) (hr : d.power.state.runs = true) : d.updateConfirm = (Status.ok, d.confirmTrial) :=
  if_neg (by simp [ht, hr])

/-- The slots and the trial as the confirmation of a trial leaves them. -/
def trialEnded (d : Dev) : Dev :=
  ((d.setSlot d.sec.running fun x => { x with state := 4, begun := false }).setSlot (1 - d.sec.running)
    fun x => if x.state = 4 then { x with state := 5 } else x).setSec fun x => { x with trial := false }

theorem confirmTrial_eq (d : Dev) : d.confirmTrial = d.trialEnded.notice 0x2404 d.sec.running := rfl

theorem trialEnded_slot (hr : d.sec.running ≤ 1) : (d.trialEnded.slot d.sec.running).state = 4 := by
  rw [trialEnded, show ∀ e : Dev, (e.setSec fun x => { x with trial := false }).slot d.sec.running = e.slot d.sec.running from fun _ => rfl,
    setSlot_slot_ne _ _ _ _ (by omega), setSlot_slot_same _ _ _ (by omega)]

/-- What the confirmation of a trial makes of the slots: the running one is ACTIVE. -/
theorem confirmTrial_confirms (hr : d.sec.running ≤ 1) :
    d.confirmTrial.sec.trial = false ∧ (d.confirmTrial.slot d.sec.running).state = 4 ∧ d.confirmTrial.power = d.power ∧ KeepsRegs [] d d.confirmTrial := by
  have hregs : KeepsRegs [] d d.trialEnded := (KeepsRegs.refl _ d).of_regs rfl
  rw [confirmTrial_eq, slot, notice_sec, notice_power]
  exact ⟨rfl, trialEnded_slot hr, rfl, hregs.told (told_notice _ _ _)⟩

theorem updateCommit_trial (h : d.sec.trial = true) : d.updateCommit = (Status.state, d) := if_pos h

/-- The entries as UPDATE_COMMIT raises them: RollbackCounter, and the signing keys below the running image's revoked. -/
def commitRaised (d : Dev) : Dev :=
  let img := (d.slot d.sec.running).image
  let d := (d.setNat Reg.rollbackCounter (max (d.nat Reg.rollbackCounter) (beAt img 12 4))).keep Reg.rollbackCounter
  (d.setNat Reg.firmwareKeyRevoked (d.nat Reg.firmwareKeyRevoked ||| (2 ^ beAt img 6 1 - 1))).keep Reg.firmwareKeyRevoked

/-- A slot whose image's security version lies below `n` is REFUSED. -/
def slotsRefused (n : Nat) (d : Dev) : Dev :=
  [0, 1].foldl (fun d s => d.setSlot s fun x => if 2 ≤ x.state ∧ beAt x.image 12 4 < n then { x with state := 7 } else x) d

/-- What UPDATE_COMMIT leaves. -/
def committed (d : Dev) : Dev :=
  let n := max (d.nat Reg.rollbackCounter) (beAt (d.slot d.sec.running).image 12 4)
  ((slotsRefused n d.commitRaised).notice 0x2406 n).refreshGaps

theorem updateCommit_commits (h : d.sec.trial = false) : d.updateCommit = (Status.ok, d.committed) :=
  if_neg (by rw [h]; exact Bool.false_ne_true)

/-- There is no third slot to change. -/
theorem setSlot_out {s : Nat} (h : ¬ s < 2) (f : Slot → Slot) (d : Dev) : (d.setSlot s f).slot s = d.slot s := by
  have hout : d.sec.slots.items.length ≤ s := by rw [d.sec.slots.count]; omega
  show (d.sec.slots.items.modify s f).getD s _ = d.sec.slots.items.getD s _
  rw [List.modify_eq_self hout]

theorem setSlot_image (s k : Nat) (p : Slot → Prop) [DecidablePred p] (d : Dev) :
    ((d.setSlot s fun x => if p x then { x with state := 7 } else x).slot k).image = (d.slot k).image := by
  obtain rfl | hne := eq_or_ne s k
  · by_cases hlt : s < 2
    · rw [setSlot_slot_same _ _ _ hlt]
      split <;> rfl
    · rw [setSlot_out hlt]
  · rw [setSlot_slot_ne _ _ _ _ hne]

theorem committed_keeps (d : Dev) : d.committed.power = d.power ∧ (∀ k, (d.committed.slot k).image = (d.slot k).image) ∧
    d.committed.nat Reg.rollbackCounter = max (d.nat Reg.rollbackCounter) (beAt (d.slot d.sec.running).image 12 4) := by
  unfold committed
  extract_lets n
  refine ⟨by rw [refreshGaps_power, notice_power]; rfl, fun k => ?_, ?_⟩
  · rw [slot, refreshGaps_sec, notice_sec, ← slot, slotsRefused, List.foldl_cons, List.foldl_cons, List.foldl_nil, setSlot_image, setSlot_image]
    rfl
  · rw [(refreshGaps_keepsRegs _).nat _ _ _ (by decide) (by decide), notice_nat _ _ _ _ _ _ (by decide)]
    exact (nat_setNat_ne _ _ _ _ _ _ _ _ (by decide)).trans (nat_setNat_same _ _ _ _ _)

end Dev

theorem exec_keyErase (arg : Octets) (s : State) :
    exec (.keyErase arg) s = s.run (Dev.whenUp fun d => d.ranCommand (foundOf Reg.keyErase) arg fun d => noResult (d.keyEraseCmd arg)) := rfl

theorem exec_jtagChallenge (s : State) :
    exec .jtagChallenge s = s.run (Dev.whenUp fun d => d.ranCommand (foundOf Reg.jtagUnlock) (ascii "challenge") fun d => d.jtagChallenge) := rfl

theorem exec_jtagResponse (sig : Octets) (s : State) :
    exec (.jtagResponse sig) s = s.run (Dev.whenUp fun d => d.ranCommand (foundOf Reg.jtagUnlock)
      (ascii "response " ++ sig.flatMap fun b => hexText 2 b.toNat) fun d => noResult (d.jtagResponse sig)) := rfl

theorem exec_updateActivate (s : State) :
    exec .updateActivate s = s.run (Dev.whenUp fun d => d.ranCommand (foundOf Reg.updateCmd) (ascii "activate") fun d => noResult d.updateActivate) := rfl

theorem exec_updateConfirm (s : State) :
    exec .updateConfirm s = s.run (Dev.whenUp fun d => d.ranCommand (foundOf Reg.updateCmd) (ascii "confirm") fun d => noResult d.updateConfirm) := rfl

theorem exec_updateCommit (s : State) :
    exec .updateCommit s = s.run (Dev.whenUp fun d => d.ranCommand (foundOf Reg.updateCmd) (ascii "commit") fun d => noResult d.updateCommit) := rfl

/-- Settles O5: each command by its argument, the key slot, the certified configuration, the nonce, and the state of the slots. -/
theorem securityCommands : Obligations.SecurityCommands := by
  unfold Obligations.SecurityCommands
  intro s ha hl
  have hlone : s.dev.lone = true := hl.1
  refine ⟨fun arg i sub idx sb hw hi hs hil hsl hk => ?_, fun arg i sub idx sb hw hi hs hk => ?_, fun hc => ?_, fun sig n hc hlen hn => ?_,
    fun sig hc hlen => ?_, fun sig hc hlen hn => ?_, fun sig hc => ⟨?_, ?_⟩, fun hst ht hu hs htrip => ?_, fun h => ?_, fun h => ?_,
    fun ht hr hrun => ?_, fun ht => ?_, fun ht => ?_⟩
  · refine up_completes (exec_keyErase _ s) ha ?_
    rw [Dev.ranCommand_ok hl ((Dev.keyEraseCmd_lone hw hlone).trans (Dev.keyErase_slot hw hi hs hil hsl hk)) (Dev.setKey_power _ _ _ _)]
    have hsec : (s.dev.setKey idx sb []).bumpEpoch.sec = (s.dev.keySet idx sb []).sec := (Dev.bump_sec _ _ _ _).trans (Dev.setKey_sec _ _ _ _)
    dsimp only
    rw [hsec, Dev.keySet_keys]
    exact ⟨rfl, nget_nset_same _ _ _ _, rfl, fun k hne => nget?_nset_ne _ _ _ hne⟩
  · refine up_completes (exec_keyErase _ s) ha ?_
    rw [Dev.ranCommand_range hl ((Dev.keyEraseCmd_lone hw hlone).trans (Dev.keyErase_none hw hi hs hk))]
    exact ⟨rfl, rfl, rfl⟩
  · refine up_completes (exec_jtagChallenge s) ha ?_
    rw [Dev.ranCommand_eq hl (Dev.jtagChallenge_open hc) rfl, if_pos rfl]
    have hregs : s.dev.KeepsRegs [Reg.configEpoch.key] s.dev.challenged := (Dev.KeepsRegs.refl _ s.dev).of_regs rfl
    exact ⟨rfl, rfl, hregs.ran (.head _) _ _⟩
  · refine up_completes (exec_jtagResponse _ s) ha ?_
    cases hv : Config.ecdsaVerify (Config.fused 2) n sig with
    | true =>
      rw [Dev.ranCommand_ok hl (Dev.jtagResponse_valid hc hlen hn hv) (Dev.notice_power _ _ _)]
      have hsec := (Dev.bump_sec ((s.dev.nonceSpent.setNat Reg.jtagState 1).notice 0x2305 1) Reg.configEpoch 0 1).trans (Dev.notice_sec _ _ _)
      refine ⟨congrArg Security.nonce hsec, fun _ => ⟨rfl, ?_⟩, nofun⟩
      rw [Dev.ran_nat _ _ _ _ _ _ (by decide), Dev.notice_nat _ _ _ _ _ _ (by decide), Dev.nat_setNat_same]
    | false =>
      have hsec : (s.dev.nonceSpent.notice 0x2305 0).sec.nonce = none := congrArg Security.nonce (Dev.notice_sec _ _ _)
      have hlock : (s.dev.nonceSpent.notice 0x2305 0).nat Reg.jtagState = s.dev.nat Reg.jtagState := Dev.notice_nat _ _ _ _ _ _ (by decide)
      rw [Dev.ranCommand_refusedTold hl (by decide) (Dev.jtagResponse_invalid hc hlen hn hv) (Dev.notice_power _ _ _)]
      generalize s.dev.nonceSpent.notice 0x2305 0 = e at hsec hlock
      exact ⟨hsec, nofun, fun _ => ⟨rfl, hlock⟩⟩
  · refine up_completes (exec_jtagResponse _ s) ha ?_
    rw [Dev.ranCommand_range hl (Dev.jtagResponse_length hc hlen)]
    exact ⟨rfl, rfl, rfl⟩
  · refine up_completes (exec_jtagResponse _ s) ha ?_
    have hsec := Dev.notice_sec 0x2305 0 s.dev
    have htold := Dev.told_notice 0x2305 0 s.dev
    rw [Dev.ranCommand_refusedTold hl (by decide) (Dev.jtagResponse_unasked hc hlen hn) (Dev.notice_power _ _ _)]
    generalize s.dev.notice 0x2305 0 = e at hsec htold
    exact ⟨rfl, hsec, ((Dev.KeepsRegs.refl _ s.dev).told htold).of_regs rfl⟩
  · refine up_completes (exec_jtagChallenge s) ha ?_
    rw [Dev.ranCommand_refused hl (by decide) (Dev.jtagChallenge_certified hc)]
    exact ⟨rfl, rfl, rfl⟩
  · refine up_completes (exec_jtagResponse _ s) ha ?_
    rw [Dev.ranCommand_state hl (Dev.jtagResponse_certified hc _)]
    exact ⟨rfl, rfl, rfl⟩
  · refine up_completes (exec_updateActivate s) ha (Dev.ranCommand_resets hl (Dev.updateActivate_marks hst ht hu hs) ?_ (Dev.answers_live ha) htrip)
    rw [Dev.trialMarked, Dev.notice_power]
    rfl
  · refine up_completes (exec_updateActivate s) ha ?_
    rw [Dev.ranCommand_state hl (Dev.updateActivate_refused hlone h)]
    exact ⟨rfl, rfl, rfl, rfl⟩
  · refine up_completes (exec_updateConfirm s) ha ?_
    rw [Dev.ranCommand_state hl (Dev.updateConfirm_refused h)]
    exact ⟨rfl, rfl, rfl⟩
  · obtain ⟨htrial, hslot, hpower, hregs⟩ := Dev.confirmTrial_confirms (d := s.dev) hrun
    refine up_completes (exec_updateConfirm s) ha ?_
    rw [Dev.ranCommand_ok hl (Dev.updateConfirm_confirms ht hr) hpower]
    have hsec := Dev.bump_sec s.dev.confirmTrial Reg.configEpoch 0 1
    refine ⟨rfl, (congrArg Security.trial hsec).trans htrial, ?_, (hregs.mono (by simp)).ran (.head _) _ _⟩
    rw [Dev.ran_slot, hslot]
  · obtain ⟨hpower, himage, hcounter⟩ := Dev.committed_keeps s.dev
    refine up_completes (exec_updateCommit s) ha ?_
    rw [Dev.ranCommand_ok hl (Dev.updateCommit_commits ht) hpower]
    refine ⟨rfl, ?_, fun k => by rw [Dev.ran_slot, himage]⟩
    rw [Dev.ran_nat _ _ _ _ _ _ (by decide), hcounter]
  · refine up_completes (exec_updateCommit s) ha ?_
    rw [Dev.ranCommand_state hl (Dev.updateCommit_trial ht)]
    exact ⟨rfl, rfl, rfl⟩

end Sys2Proof.Machine
end

