-- ==== Sys2Proof/Proofs/Season.lean ====
section
/-! The canaries' measurement, the life account's minute, and the end of a firmware trial (R522, R532 to R535, R538). -/

namespace Sys2Proof.Machine

/-- What the margin plans leave of the season account: the date and the request of the next measurement, and the minute's sums. -/
def Season.account (s : Season) : Nat × Bool × Int × Nat × Nat := (s.measureAt, s.extra, s.minuteTemp, s.minuteVolt, s.minuteSamples)

namespace Dev

variable {a b c d e : Dev}

/-! ### The frame of the margin plans (R535, R538) -/

/-- The entries that a margin plan writes. -/
def planKeys : List Nat := [Reg.vcorePlanSteps.key, Reg.vcorePending.key, Reg.fabricSliceMask.key, Reg.sliceRequest.key]

/-- `e` with what telling changes, and the season account, put back as in `d`. -/
def unplanned (d e : Dev) : Dev := { untold d e with season := d.season }

/-- `e` is `d` after steps of the margin plans, and what they told. -/
structure Planned (d e : Dev) : Prop where
  rest : unplanned d e = d
  account : e.season.account = d.season.account
  regs : KeepsRegs planKeys d e

theorem Planned.refl (d : Dev) : Planned d d := ⟨rfl, rfl, .refl _ _⟩

theorem Planned.trans (h : Planned a b) (h' : Planned b c) : Planned a c :=
  ⟨(show unplanned a c = unplanned a (unplanned b c) from rfl).trans (by rw [h'.rest, h.rest]), h'.account.trans h.account, h.regs.trans h'.regs⟩

theorem Planned.told (h : Planned a b) (ht : Told b c) : Planned a c :=
  h.trans ⟨show { untold b c with season := b.season } = b by rw [show untold b c = b from ht.rest], by rw [ht.season],
    (KeepsRegs.refl _ _).told ht⟩

theorem Planned.setVal (h : Planned a b) (r : Row) (v : Val) (i : Nat) (hk : r.key i ∈ planKeys) : Planned a (b.setVal r v i) :=
  ⟨h.rest, h.account, h.regs.setVal r v i 0 hk⟩

theorem Planned.keep (h : Planned a b) (r : Row) (i : Nat) : Planned a (b.keep r i) := ⟨h.rest, h.account, h.regs.of_regs rfl⟩

theorem Planned.setSeason (h : Planned a b) (f : Season → Season) (hf : (f b.season).account = b.season.account) : Planned a (b.setSeason f) :=
  ⟨h.rest, hf.trans h.account, h.regs.of_regs rfl⟩

theorem Planned.clock (h : Planned a b) : b.clock = a.clock := (congrArg Dev.clock h.rest : (unplanned a b).clock = a.clock)

theorem applyVolt_planned (steps : Nat) (d : Dev) : Planned d (d.applyVolt steps) := by
  unfold applyVolt
  extract_lets now old d1 d2
  have h1 : Planned d d1 := ((Planned.refl d).setVal Reg.vcorePlanSteps _ _ (.head _)).keep _ _
  have h2 : Planned d d2 := (h1.setVal Reg.vcorePending _ _ (.tail _ (.head _))).setSeason _ rfl
  exact h2.told (told_foldl (fun _ _ => told_notice _ _ _) _ _)

theorem applyPendingVolt_planned (d : Dev) : Planned d d.applyPendingVolt := by
  unfold applyPendingVolt
  extract_lets p
  split
  · exact applyVolt_planned _ _
  · exact .refl _

/-- The plan's steps after a measurement: applied, or held while the module is in SHOW. -/
theorem voltagePlan_planned (d : Dev) : Planned d d.voltagePlan := by
  unfold voltagePlan
  extract_lets w wanted now d1
  have h1 : Planned d d1 := by
    unfold d1
    split
    · exact .refl _
    · split
      · exact applyVolt_planned _ _
      · exact (Planned.refl d).setVal Reg.vcorePending _ _ (.tail _ (.head _))
  clear_value d1
  split
  · exact (h1.setSeason _ rfl).told (told_notice _ _ _)
  · exact h1

theorem slicePlan_planned (d : Dev) : Planned d d.slicePlan := by
  unfold slicePlan
  split
  · exact .refl _
  · extract_lets d1
    have h1 : Planned d d1 := ((Planned.refl d).setVal Reg.fabricSliceMask _ _ (.tail _ (.tail _ (.head _)))).keep _ _
    exact ((h1.setVal Reg.sliceRequest _ _ (.tail _ (.tail _ (.tail _ (.head _))))).keep _ _).told (told_notice _ _ _)

/-! ### SEASON_MEASURE (R532) -/

/-- The shift of a canary that its counts give (R532). -/
def measuredShift (c ref can : Nat) : Int := satS 16 (rdiv (10000 * ((ref : Int) - can)) ref - Config.canaryFused c)

/-- The first canary takes the shift, and no time passes. -/
theorem canaryOne_first {ref can : Nat} (hr : ref ≠ 0) (d : Dev) :
    (d.canaryOne 0 ref can).int Reg.canaryShift = measuredShift 0 ref can ∧ (d.canaryOne 0 ref can).clock = d.clock := by
  unfold canaryOne
  rw [if_neg (by omega)]
  extract_lets shift e
  have he : e.int Reg.canaryShift = shift := int_setInt_same d Reg.canaryShift shift 0 0
  split
  · exact ⟨(int_setInt_ne _ _ _ _ _ _ _ _ (by decide)).trans he, rfl⟩
  · exact ⟨he, rfl⟩

/-- A measurement of the first canary alone, before the plans look at it. -/
def measuredFirst (ref can next : Nat) (d : Dev) : Dev := (d.canaryOne 0 ref can).setSeason fun s => { s with measureAt := next, extra := false }

/-- A measurement of the first canary alone. -/
def measureFirst (ref can next : Nat) (d : Dev) : Dev := (d.measuredFirst ref can next).applyPendingVolt.voltagePlan.slicePlan

theorem seasonMeasure_extra (ref can : Nat) (h : d.season.extra = true) :
    d.seasonMeasure [(ref, can)] = d.measureFirst ref can d.season.measureAt := if_pos h

theorem seasonMeasure_dated (ref can : Nat) (h : d.season.extra = false) (hr : d.Reaches d.season.measureAt) :
    d.seasonMeasure [(ref, can)] = (d.advanceTo d.season.measureAt).measureFirst ref can
      ((d.advanceTo d.season.measureAt).clock + secCycles (d.nat Reg.seasonPeriod)) := by
  unfold seasonMeasure
  dsimp only
  rw [if_neg (by rw [h]; exact Bool.false_ne_true), onDue_eq _ _ _ hr, nat_congr (advanceTo_regs _ _)]
  rfl

theorem measureFirst_measures {ref can : Nat} (hr : ref ≠ 0) (next : Nat) (d : Dev) :
    (d.measureFirst ref can next).int Reg.canaryShift = measuredShift 0 ref can ∧ (d.measureFirst ref can next).season.extra = false ∧
      (d.measureFirst ref can next).season.measureAt = next ∧ (d.measureFirst ref can next).clock = d.clock := by
  obtain ⟨hshift, hclock⟩ := canaryOne_first (can := can) hr d
  have hplans : Planned (d.measuredFirst ref can next) (d.measureFirst ref can next) :=
    ((applyPendingVolt_planned _).trans (voltagePlan_planned _)).trans (slicePlan_planned _)
  have haccount : (d.measureFirst ref can next).season.account = (next, false, _) := hplans.account
  simp only [Season.account, Prod.mk.injEq] at haccount
  obtain ⟨hat, hextra, -⟩ := haccount
  exact ⟨(hplans.regs.int _ _ _ (by decide) (by decide)).trans hshift, hextra, hat, hplans.clock.trans hclock⟩

/-! ### SEASON_MINUTE (R533, R534) -/

theorem planned_foldl {α : Type} {f : Dev → α → Dev} (hf : ∀ e y, Planned e (f e y)) (l : List α) (d : Dev) : Planned d (l.foldl f d) := by
  induction l generalizing d with
  | nil => exact .refl d
  | cons y t ih => exact (hf d y).trans (ih _)

theorem lifeThresholds_planned (d : Dev) : Planned d d.lifeThresholds := by
  refine planned_foldl (fun e p => ?_) _ d
  split
  · exact ((Planned.refl e).setSeason _ rfl).told (told_notice _ _ _)
  · exact .refl _

theorem seasonRecord_planned (newDay : Bool) (d : Dev) : Planned d (d.seasonRecord newDay) := by
  unfold seasonRecord
  split
  · exact .refl _
  · exact (Planned.refl d).setSeason _ rfl

/-- SeasonLifeUsed of an equivalent time. -/
def lifeOf (eq : Nat) : Nat := eq * 100000 / ratedLifeMs

/-- The entries of the account written: the equivalent time, the powered time, the life used. -/
def accountSet (eq powered life : Nat) (d : Dev) : Dev :=
  ((d.setNat Reg.seasonEquivalent eq).setNat Reg.seasonPoweredTime powered).setNat Reg.seasonLifeUsed life

theorem accountSet_reads (eq powered life : Nat) (d : Dev) : (d.accountSet eq powered life).nat Reg.seasonEquivalent = eq ∧
    (d.accountSet eq powered life).nat Reg.seasonPoweredTime = powered ∧ (d.accountSet eq powered life).nat Reg.seasonLifeUsed = life := by
  refine ⟨?_, (nat_setNat_ne _ _ _ _ _ _ _ _ (by decide)).trans (nat_setNat_same _ _ _ _ _), nat_setNat_same _ _ _ _ _⟩
  rw [accountSet, nat_setNat_ne _ _ _ _ _ _ _ _ (by decide), nat_setNat_ne _ _ _ _ _ _ _ _ (by decide), nat_setNat_same]

/-- What a minute makes of the account: its time and life entries, and the sums of the minute emptied. -/
structure Minuted (d e : Dev) : Prop where
  powered : e.nat Reg.seasonPoweredTime = d.nat Reg.seasonPoweredTime + 60
  life : e.nat Reg.seasonLifeUsed = lifeOf (e.nat Reg.seasonEquivalent)
  sums : (e.season.minuteTemp, e.season.minuteVolt, e.season.minuteSamples) = (0, 0, 0)

theorem Minuted.planned (h : Minuted a b) (hp : Planned b c) : Minuted a c := by
  have haccount := hp.account
  simp only [Season.account, Prod.mk.injEq] at haccount
  obtain ⟨-, -, htemp, hvolt, hsamples⟩ := haccount
  have hnat : ∀ r : Row, r.key ∉ planKeys → r.key ∉ tellKeys → c.nat r = b.nat r := fun r => hp.regs.nat r 0 0
  refine ⟨?_, ?_, ?_⟩
  · rw [hnat _ (by decide) (by decide), h.powered]
  · rw [hnat _ (by decide) (by decide), hnat _ (by decide) (by decide), h.life]
  · rw [htemp, hvolt, hsamples, h.sums]

theorem seasonMinute_minuted (h : d.Reaches (d.timerFrom 163 + secCycles 60)) : Minuted d d.seasonMinute := by
  obtain ⟨n, t, hacts⟩ := onPeriod_acts (k := 163) (period := secCycles 60) (d := d) _ h
  unfold seasonMinute
  rw [hacts]
  have hstart : ((d.advance n).setTimer 163 t).nat Reg.seasonPoweredTime = d.nat Reg.seasonPoweredTime := nat_congr (advance_regs _ _) _ _ _
  generalize (d.advance n).setTimer 163 t = e at hstart ⊢
  extract_lets samples base ms eq day newDay d1 d2 d3
  obtain ⟨heq, hpowered, hlife⟩ := accountSet_reads eq (e.nat Reg.seasonPoweredTime + 60) (eq * 100000 / ratedLifeMs) e
  obtain ⟨f, hset⟩ : ∃ f, d2 = (e.accountSet eq (e.nat Reg.seasonPoweredTime + 60) (eq * 100000 / ratedLifeMs)).setSeason f := ⟨_, rfl⟩
  have hregs : d2.regs = (e.accountSet eq (e.nat Reg.seasonPoweredTime + 60) (eq * 100000 / ratedLifeMs)).regs := by rw [hset]; rfl
  have hsums : (d2.season.minuteTemp, d2.season.minuteVolt, d2.season.minuteSamples) = (0, 0, 0) := rfl
  clear_value d2
  have h2 : Minuted d d2 := ⟨by rw [nat_congr hregs, hpowered, hstart], by rw [nat_congr hregs, nat_congr hregs, hlife, heq, lifeOf], hsums⟩
  have hnat : ∀ r : Row, r.key ≠ Reg.seasonRemainingDays.key → d3.nat r = d2.nat r := fun r hr => nat_setNat_ne _ _ _ _ _ _ _ _ hr
  have h3 : Minuted d d3 := ⟨by rw [hnat _ (by decide), h2.powered], by rw [hnat _ (by decide), hnat _ (by decide), h2.life], hsums⟩
  clear_value d3
  exact h3.planned (((lifeThresholds_planned _).trans (seasonRecord_planned _ _)).trans (applyPendingVolt_planned _))

/-! ### TRIAL_CONFIRM_TIMER (R522) -/

theorem trialTimer_idle (h : d.sec.readySince = none ∨ d.sec.trial = false) : d.trialTimer = d := by
  unfold trialTimer
  split
  · rfl
  next t ht =>
    exact if_pos (by rw [h.resolve_left (by rw [ht]; exact Option.some_ne_none _)]; rfl)

theorem trialTimer_due {t : Nat} (h : d.sec.readySince = some t) (ht : d.sec.trial = true)
    (hr : d.Reaches (t + msCycles (d.nat Reg.confirmDelay))) :
    d.trialTimer = (d.advanceTo (t + msCycles (d.nat Reg.confirmDelay))).confirmTrial := by
  unfold trialTimer
  rw [h]
  dsimp only
  rw [if_neg (by rw [ht]; exact Bool.false_ne_true), onDue_eq _ _ _ hr]

end Dev

theorem exec_seasonMeasure (counts : List (Nat × Nat)) (s : State) :
    exec (.seasonMeasure counts) s = s.run (Dev.whenUp fun d => d.seasonMeasure counts) := rfl

theorem exec_seasonMinute (s : State) : exec .seasonMinute s = s.run (Dev.whenUp fun d => d.seasonMinute) := rfl

theorem exec_trialConfirmTimer (s : State) : exec .trialConfirmTimer s = s.run (Dev.whenUp fun d => d.trialTimer) := rfl

/-- Settles O13: the margin plans that follow a measurement and a minute keep the account, so that each event's own writes stand. -/
theorem seasonEvents : Obligations.SeasonEvents := by
  unfold Obligations.SeasonEvents
  intro s ha
  refine ⟨fun ref can href hextra hr => ?_, fun ref can href hextra => ?_, fun hr => ?_, fun t hready htrial hr hrun => ?_, fun h => ?_⟩
  · refine up_completes (exec_seasonMeasure _ s) ha ?_
    rw [Dev.seasonMeasure_dated ref can hextra hr]
    obtain ⟨hshift, hdone, hat, -⟩ := Dev.measureFirst_measures (can := can) href
      ((s.dev.advanceTo s.dev.season.measureAt).clock + Dev.secCycles (s.dev.nat Reg.seasonPeriod)) (s.dev.advanceTo s.dev.season.measureAt)
    exact ⟨hshift, hdone, by rw [hat, Dev.advanceTo_clock _ _ hr]⟩
  · refine up_completes (exec_seasonMeasure _ s) ha ?_
    rw [Dev.seasonMeasure_extra ref can hextra]
    exact Dev.measureFirst_measures href _ _
  · refine up_completes (exec_seasonMinute s) ha ?_
    obtain ⟨hpowered, hlife, hsums⟩ := Dev.seasonMinute_minuted hr
    simp only [Prod.mk.injEq] at hsums
    exact ⟨hpowered, hlife, hsums⟩
  · refine up_completes (exec_trialConfirmTimer s) ha ?_
    rw [Dev.trialTimer_due hready htrial hr]
    have hsec := Dev.advanceTo_sec (t + Dev.msCycles (s.dev.nat Reg.confirmDelay)) s.dev
    have hregs := Dev.KeepsRegs.advanceTo (ks := []) (t + Dev.msCycles (s.dev.nat Reg.confirmDelay)) s.dev
    generalize s.dev.advanceTo (t + Dev.msCycles (s.dev.nat Reg.confirmDelay)) = e at hsec hregs
    rw [← hsec] at hrun ⊢
    obtain ⟨hover, hslot, -, hkeeps⟩ := Dev.confirmTrial_confirms hrun
    exact ⟨hover, hslot, hregs.trans hkeeps⟩
  · refine up_completes (exec_trialConfirmTimer s) ha ?_
    exact Dev.trialTimer_idle h

end Sys2Proof.Machine
end

