-- ==== Sys2Proof/Proofs/TestEvents.lean ====
section
/-! Checker passes, the end of a self-test, and what an armed slot does at its boundary and at its timeout (R539, R540, R543, R558). -/

namespace Sys2Proof.Machine

namespace Dev

variable {d e : Dev} {k : Nat}

theorem answering_of_power (h : e.power = d.power) : e.answers = d.answers := by rw [answers, answers, live_of_power h, h]

theorem faultEntered_season (cls detail : Nat) (d : Dev) : (d.enterFault cls detail).season = d.season :=
  (congrArg Dev.season (enterFault_unfaulted d cls detail d) :)

/-! ### Checkers (R539) -/

/-- A checker that does not flag its pattern is counted, and the module goes to FAULT for it. -/
theorem checkerFailed_faults (fn c : Nat) (ha : d.answers = true) (hf : d.power.state ≠ .fault) (hb : d.power.state ≠ .boot) :
    (d.checkerFailed fn c).nat Reg.checkerFailures = (d.nat Reg.checkerFailures + 1) % 2 ^ 32 ∧ (d.checkerFailed fn c).power.state = .fault ∧
      (d.checkerFailed fn c).nat Reg.faultCause = 6 * 2 ^ 24 + c % 65536 := by
  unfold checkerFailed
  extract_lets e
  have hpower : e.power = d.power := (notice_power _ _ _).trans (bump_power _ _ _ _)
  have hcount : e.nat Reg.checkerFailures = (d.nat Reg.checkerFailures + 1) % 2 ^ 32 :=
    (notice_nat _ _ _ _ _ _ (by decide)).trans (nat_bump_same _ _ _ _)
  clear_value e
  obtain ⟨hstate, hcause, -⟩ := enterFault_reads (cls := 6) (detail := c) rfl ((answering_of_power hpower).trans ha) (by rw [hpower]; exact hf)
    (by rw [hpower]; exact hb)
  exact ⟨((enterFault_frame 6 c e).2.nat _ _ _ (by decide) (by decide)).trans hcount, hstate, hcause⟩

theorem checkerFailed_keeps (fn c : Nat) (d : Dev) : (d.checkerFailed fn c).season = d.season ∧
    KeepsRegs (Reg.checkerFailures.key :: faultKeys) d (d.checkerFailed fn c) := by
  unfold checkerFailed
  extract_lets e
  have hregs : KeepsRegs (Reg.checkerFailures.key :: faultKeys) d e := ((KeepsRegs.refl _ d).bump Reg.checkerFailures 0 1 (.head _)).told (told_notice _ _ _)
  have hseason : e.season = d.season := (notice_season _ _ _).trans (congrArg Dev.season (untold_bump d d Reg.checkerFailures 0 1) :)
  clear_value e
  exact ⟨(faultEntered_season 6 c e).trans hseason, hregs.trans ((enterFault_frame 6 c e).2.mono fun _ => List.mem_cons_of_mem _)⟩

/-! ### SELF_TEST_COMPLETE (R540) -/

theorem selfTestComplete_none (h : d.season.test = none) (f : Option (Nat × Nat)) : d.selfTestComplete f = d := by
  unfold selfTestComplete
  rw [h]

/-- The module once its test of a kind is over: no test runs, and the checkers' pass is counted. -/
def testOver (kind : Nat) (d : Dev) : Dev :=
  let d := d.setSeason fun s => { s with test := none }
  if kind = 2 ∨ kind = 4 then d.bump Reg.checkerTests else d

theorem testOver_keeps (kind : Nat) (d : Dev) : (d.testOver kind).power = d.power ∧ (d.testOver kind).season.test = none := by
  unfold testOver
  extract_lets e
  split
  · exact ⟨bump_power _ _ _ _, (congrArg (fun x : Dev => x.season.test) (untold_bump e e Reg.checkerTests 0 1) :)⟩
  · exact ⟨rfl, rfl⟩

/-- The state and the result of a test that is over, with its notice. -/
def testResult (st res : Nat) (d : Dev) : Dev := ((d.setNat Reg.selfTestState st).setNat Reg.selfTestResult res).notice 0xB001 res

theorem testResult_reads (st res : Nat) (d : Dev) : (d.testResult st res).nat Reg.selfTestState = st ∧ (d.testResult st res).nat Reg.selfTestResult = res ∧
    (d.testResult st res).power = d.power ∧ (d.testResult st res).season = d.season := by
  unfold testResult
  rw [notice_nat _ _ _ _ _ _ (by decide), notice_nat _ _ _ _ _ _ (by decide), notice_power, notice_season, nat_setNat_same,
    nat_setNat_ne _ _ _ _ _ _ _ _ (by decide), nat_setNat_same]
  exact ⟨rfl, rfl, rfl, rfl⟩

/-- The test that a failure of a test of a kind names: of all tests, the one given. -/
def failedTest (kind n : Nat) : Nat := if kind = 4 then max 1 (min 3 n) else kind

theorem selfTestComplete_passed {at_ : Nat} (h : d.season.test = some (k, at_)) :
    d.selfTestComplete none = (d.testOver k).testResult 2 ((if k = 4 then 3 else k) * 2 ^ 24) := by
  unfold selfTestComplete
  rw [h]
  rfl

theorem selfTestComplete_failed {at_ : Nat} (h : d.season.test = some (k, at_)) (n x : Nat) :
    d.selfTestComplete (some (n, x)) =
      if failedTest k n = 2 then ((d.testOver k).testResult 3 (failedTest k n * 2 ^ 24 + x % 65536)).checkerFailed (x / 65536 % 65536) (x % 65536)
      else ((d.testOver k).testResult 3 (failedTest k n * 2 ^ 24 + x % 65536)).enterFault 7 (x % 65536) := by
  unfold selfTestComplete
  rw [h]
  rfl

/-- A failed self-test leaves its result, and the module in FAULT with the class of its test. -/
theorem selfTestComplete_faults {at_ : Nat} (h : d.season.test = some (k, at_)) (n x : Nat) (ha : d.answers = true) (hf : d.power.state ≠ .fault)
    (hb : d.power.state ≠ .boot) : (d.selfTestComplete (some (n, x))).season.test = none ∧
      (d.selfTestComplete (some (n, x))).nat Reg.selfTestState = 3 ∧ (d.selfTestComplete (some (n, x))).power.state = .fault ∧
      (d.selfTestComplete (some (n, x))).nat Reg.selfTestResult = failedTest k n * 2 ^ 24 + x % 65536 ∧
      (d.selfTestComplete (some (n, x))).nat Reg.faultCause = (if failedTest k n = 2 then 6 else 7) * 2 ^ 24 + x % 65536 := by
  rw [selfTestComplete_failed h]
  obtain ⟨hover, hnone⟩ := testOver_keeps k d
  obtain ⟨hst, hres, hpower, hseason⟩ := testResult_reads 3 (failedTest k n * 2 ^ 24 + x % 65536) (d.testOver k)
  generalize (d.testOver k).testResult 3 (failedTest k n * 2 ^ 24 + x % 65536) = e at hst hres hpower hseason ⊢
  have hp : e.power = d.power := hpower.trans hover
  have hdone : e.season.test = none := (congrArg Season.test hseason).trans hnone
  have hanswers : e.answers = true := (answering_of_power hp).trans ha
  rw [← hp] at hf hb
  split
  · obtain ⟨-, hstate, hcause⟩ := checkerFailed_faults (x / 65536 % 65536) (x % 65536) hanswers hf hb
    obtain ⟨hsame, hregs⟩ := checkerFailed_keeps (x / 65536 % 65536) (x % 65536) e
    exact ⟨(congrArg Season.test hsame).trans hdone, (hregs.nat _ _ _ (by decide) (by decide)).trans hst, hstate,
      (hregs.nat _ _ _ (by decide) (by decide)).trans hres, by rw [hcause, Nat.mod_mod]⟩
  · obtain ⟨hstate, hcause, -⟩ := enterFault_reads (cls := 7) (detail := x % 65536) rfl hanswers hf hb
    obtain ⟨-, hregs⟩ := enterFault_frame 7 (x % 65536) e
    exact ⟨(congrArg Season.test (faultEntered_season 7 (x % 65536) e)).trans hdone, (hregs.nat _ _ _ (by decide) (by decide)).trans hst, hstate,
      (hregs.nat _ _ _ (by decide) (by decide)).trans hres, by rw [hcause, Nat.mod_mod]⟩

/-! ### PERTURB_APPLY and PERTURB_TIMEOUT (R543) -/

/-- Every kind but the lockstep flip leaves the entries. -/
theorem perturbEffect_regs {r : SlotRec} (h : r.kind ≠ 0x37) (d : Dev) : (d.perturbEffect r).regs = d.regs := by
  unfold perturbEffect
  extract_lets add place
  split
  · rfl
  · split
    case h_17 h37 => exact absurd h37 h
    all_goals rfl

theorem perturbEffect_lockstep {r : SlotRec} (h : r.kind = 0x37) (ht : r.target = 0) (d : Dev) : d.perturbEffect r = d.lockstep 0 0 := by
  unfold perturbEffect
  rw [h, ht]
  exact if_neg (by decide)

/-- An application counted and told, the slot's next one dated; a slot that has had its last one is disarmed. -/
def appliedSlot (k : Nat) (a : Armed) (d : Dev) : Dev :=
  let r := d.slotOf k
  let d := (d.bump Reg.perturbApplied).notice 0xB101 (k * 65536 + r.kind)
  let d := d.setPerturb fun p => { p with armed := p.armed.map fun (x : Armed) =>
    if x.slot = k then { x with next := max (a.next + 32 * max 1 r.period) (d.blockDate + 32), done := x.done + 1 } else x }
  if r.count ≠ 0 ∧ r.count ≤ a.done + 1 then d.disarm k 3 else d

theorem perturbApply_due {a : Armed} (h : (d.perturb.armed.find? fun a => a.slot == k) = some a) (ha : a.next ≤ d.blockDate) :
    d.perturbApply k = (d.appliedSlot k a).perturbEffect (d.slotOf k) := by
  unfold perturbApply
  rw [h]
  exact if_neg (by omega)

theorem perturbApply_waits (h : ∀ a, (d.perturb.armed.find? fun a => a.slot == k) = some a → d.blockDate < a.next) : d.perturbApply k = d := by
  unfold perturbApply
  split
  · rfl
  next a ha => exact if_pos (h a ha)

theorem applied_ne_slotState (k : Nat) : Reg.perturbApplied.key ∉ [Reg.perturbArmed.key, Reg.perturbSlotState.key k] := by
  simp only [perturbApplied_key, perturbArmed_key, perturbSlotState_key, List.mem_cons, List.not_mem_nil, or_false]
  omega

theorem appliedSlot_counts (k : Nat) (a : Armed) (d : Dev) : (d.appliedSlot k a).power = d.power ∧
    (d.appliedSlot k a).nat Reg.perturbApplied = (d.nat Reg.perturbApplied + 1) % 2 ^ 32 := by
  unfold appliedSlot
  extract_lets r e1 e2
  have htold : Told (d.bump Reg.perturbApplied) e1 := told_notice _ _ _
  clear_value e1
  have hpower : e2.power = d.power := htold.power.trans (bump_power _ _ _ _)
  have hcount : e2.nat Reg.perturbApplied = (d.nat Reg.perturbApplied + 1) % 2 ^ 32 :=
    (nat_congr (setPerturb_regs _ _) _ _ _).trans ((htold.nat Reg.perturbApplied 0 0 (by decide)).trans (nat_bump_same _ _ _ _))
  clear_value e2
  split
  · exact ⟨(disarm_power _ _ _).trans hpower, ((disarm_regs k 3 e2).nat _ _ _ (applied_ne_slotState k) (by decide)).trans hcount⟩
  · exact ⟨hpower, hcount⟩

theorem perturbTimeout_due {a : Armed} (h : (d.perturb.armed.find? fun a => a.slot == k) = some a)
    (hr : d.Reaches (a.armedAt + msCycles (d.nat Reg.perturbTimeout))) :
    d.perturbTimeout k = (d.advanceTo (a.armedAt + msCycles (d.nat Reg.perturbTimeout))).disarm k 5 := by
  unfold perturbTimeout
  rw [h]
  exact onDue_eq _ _ _ hr

end Dev

theorem exec_checkerTest (failed : Option (Nat × Nat)) (s : State) : exec (.checkerTest failed) s = s.run (Dev.whenUp fun d => d.checkerTest failed) := rfl

theorem exec_selfTestComplete (failed : Option (Nat × Nat)) (s : State) :
    exec (.selfTestComplete failed) s = s.run (Dev.whenUp fun d => d.selfTestComplete failed) := rfl

theorem exec_perturbApply (k : Nat) (s : State) : exec (.perturbApply k) s = s.run (Dev.whenUp fun d => d.perturbApply k) := rfl

theorem exec_perturbTimeout (k : Nat) (s : State) : exec (.perturbTimeout k) s = s.run (Dev.whenUp fun d => d.perturbTimeout k) := rfl

/-- Settles O14: each event by its due moment, the test that runs or the slot that is armed, and the entry to FAULT or the reset it ends in. -/
theorem testEvents : Obligations.TestEvents := by
  unfold Obligations.TestEvents
  intro s ha
  refine ⟨fun hr => ⟨?_, fun fn c hf hb => ?_⟩, fun k at_ htest hk => ?_, fun k at_ n x htest hk hk4 hf hb => ?_, fun f htest => ?_,
    fun k a hfind hnext hkind => ?_, fun k a hfind hnext hkind htarget htrip => ?_, fun k hnone => ?_, fun k a hfind harmed hr => ?_⟩
  · refine up_completes (exec_checkerTest _ s) ha ?_
    obtain ⟨e, he, -, hregs, -⟩ := Dev.onPeriod_due 164 (Dev.msCycles (s.dev.nat Reg.checkerTestPeriod)) (fun d => d.bump Reg.checkerTests) s.dev hr
    rw [show s.dev.checkerTest none = e.bump Reg.checkerTests from he, Dev.nat_bump_same, Dev.nat_congr hregs]
    exact ⟨rfl, ((Dev.KeepsRegs.refl _ s.dev).of_regs hregs).bump Reg.checkerTests 0 1 (.head _)⟩
  · refine up_completes (exec_checkerTest _ s) ha ?_
    obtain ⟨e, he, -, hregs, hpower, -⟩ := Dev.onPeriod_due 164 (Dev.msCycles (s.dev.nat Reg.checkerTestPeriod))
      (fun d => (d.bump Reg.checkerTests).checkerFailed fn c) s.dev hr
    rw [show s.dev.checkerTest (some (fn, c)) = (e.bump Reg.checkerTests).checkerFailed fn c from he]
    have hp : (e.bump Reg.checkerTests).power = s.dev.power := (Dev.bump_power _ _ _ _).trans hpower
    have hcount : (e.bump Reg.checkerTests).nat Reg.checkerFailures = s.dev.nat Reg.checkerFailures :=
      (Dev.nat_bump_ne _ _ _ _ _ _ _ (by decide)).trans (Dev.nat_congr hregs _ _ _)
    generalize e.bump Reg.checkerTests = b at hp hcount
    rw [← hcount]
    exact Dev.checkerFailed_faults fn c ((Dev.answering_of_power hp).trans ha) (by rw [hp]; exact hf) (by rw [hp]; exact hb)
  · refine up_completes (exec_selfTestComplete _ s) ha ?_
    rw [Dev.selfTestComplete_passed htest]
    obtain ⟨hst, hres, -, hseason⟩ := Dev.testResult_reads 2 ((if k = 4 then 3 else k) * 2 ^ 24) (s.dev.testOver k)
    refine ⟨(congrArg Season.test hseason).trans (Dev.testOver_keeps k s.dev).2, hst, hres.trans (congrArg (· * 2 ^ 24) ?_)⟩
    split <;> omega
  · refine up_completes (exec_selfTestComplete _ s) ha ?_
    exact Dev.selfTestComplete_faults htest n x ha hf hb
  · refine up_completes (exec_selfTestComplete _ s) ha ?_
    exact Dev.selfTestComplete_none htest f
  · refine up_completes (exec_perturbApply _ s) ha ?_
    rw [Dev.perturbApply_due hfind hnext, Dev.nat_congr (Dev.perturbEffect_regs hkind _)]
    exact (Dev.appliedSlot_counts k a s.dev).2
  · refine up_completes (exec_perturbApply _ s) ha ?_
    obtain ⟨hpower, -⟩ := Dev.appliedSlot_counts k a s.dev
    rw [Dev.perturbApply_due hfind hnext, Dev.perturbEffect_lockstep hkind htarget]
    exact (Dev.lockstep_resets ((Dev.live_of_power hpower).trans (Dev.answers_live ha)) (by rw [hpower]; exact htrip) 0 0).1
  · refine up_completes (exec_perturbApply _ s) ha ?_
    exact Dev.perturbApply_waits hnone
  · refine up_completes (exec_perturbTimeout _ s) ha ?_
    rw [Dev.perturbTimeout_due hfind hr]
    have hregs := Dev.advanceTo_regs (a.armedAt + Dev.msCycles (s.dev.nat Reg.perturbTimeout)) s.dev
    generalize s.dev.advanceTo (a.armedAt + Dev.msCycles (s.dev.nat Reg.perturbTimeout)) = e at hregs
    have harmed' : e.slotArmed k = true := by rw [Dev.slotArmed, Dev.nat_congr hregs]; exact harmed
    exact ⟨Dev.disarm_state harmed' 5, by rw [Dev.disarm_armedBits harmed', Dev.nat_congr hregs],
      ((Dev.KeepsRegs.refl _ s.dev).of_regs hregs).trans (Dev.disarm_regs k 5 e)⟩

end Sys2Proof.Machine
end

