-- ==== Sys2Proof/Proofs/BootFrame.lean ====
section
/-! What the functions that start as the module leaves BOOT leave alone: the power stage, the time, the date of the next measurement, and
the supervisor (R224, R252, R292, R319, R365, R426, R472, R517). -/

namespace Sys2Proof.Machine

namespace Dev

variable {d e : Dev}

/-- The parts that no function changes as it starts. -/
def bootPart (d : Dev) : Power × Nat × Nat × Super := (d.power, d.clock, d.season.measureAt, d.sup)

theorem bootPart_congr (hp : e.power = d.power) (hc : e.clock = d.clock) (hm : e.season = d.season) (hs : e.sup = d.sup) : e.bootPart = d.bootPart := by
  rw [bootPart, hp, hc, hm, hs, bootPart]

theorem bootPart_told (h : Told d e) : e.bootPart = d.bootPart := by rw [bootPart, h.power, h.clock, h.season, h.sup, bootPart]

@[simp] theorem bootPart_notice (code arg : Nat) (d : Dev) : (d.notice code arg).bootPart = d.bootPart := bootPart_told (told_notice _ _ _)
@[simp] theorem bootPart_setVal (r : Row) (v : Val) (i j : Nat) (d : Dev) : (d.setVal r v i j).bootPart = d.bootPart := bootPart_congr rfl rfl rfl rfl
@[simp] theorem bootPart_setNat (r : Row) (v i j : Nat) (d : Dev) : (d.setNat r v i j).bootPart = d.bootPart := bootPart_congr rfl rfl rfl rfl
@[simp] theorem bootPart_setInt (r : Row) (v : Int) (i j : Nat) (d : Dev) : (d.setInt r v i j).bootPart = d.bootPart := bootPart_congr rfl rfl rfl rfl
@[simp] theorem bootPart_setFlag (r : Row) (v : Bool) (i : Nat) (d : Dev) : (d.setFlag r v i).bootPart = d.bootPart := bootPart_congr rfl rfl rfl rfl
@[simp] theorem bootPart_setPort (p : Nat) (f : Port → Port) (d : Dev) : (d.setPort p f).bootPart = d.bootPart := bootPart_congr rfl rfl rfl rfl
@[simp] theorem bootPart_setTdm (p : Nat) (f : TdmPort → TdmPort) (d : Dev) : (d.setTdm p f).bootPart = d.bootPart := bootPart_congr rfl rfl rfl rfl
@[simp] theorem bootPart_setAlm (f : Almanac → Almanac) (d : Dev) : (d.setAlm f).bootPart = d.bootPart := bootPart_congr rfl rfl rfl rfl
@[simp] theorem bootPart_setPair (f : Pair → Pair) (d : Dev) : (d.setPair f).bootPart = d.bootPart := bootPart_congr rfl rfl rfl rfl
@[simp] theorem bootPart_setSec (f : Security → Security) (d : Dev) : (d.setSec f).bootPart = d.bootPart := bootPart_congr rfl rfl rfl rfl
@[simp] theorem bootPart_setDrada (f : Drada → Drada) (d : Dev) : (d.setDrada f).bootPart = d.bootPart := bootPart_congr rfl rfl rfl rfl
@[simp] theorem bootPart_setDlink (k : Nat) (f : DradaLink → DradaLink) (d : Dev) : (d.setDlink k f).bootPart = d.bootPart := bootPart_congr rfl rfl rfl rfl
@[simp] theorem bootPart_setConv (c : Nat) (f : ConvChan → ConvChan) (d : Dev) : (d.setConv c f).bootPart = d.bootPart := bootPart_congr rfl rfl rfl rfl
@[simp] theorem bootPart_emit (o : Out) (d : Dev) : (d.emit o).bootPart = d.bootPart := bootPart_congr rfl rfl rfl rfl
theorem bootPart_pool (p : Pool) (d : Dev) : ({ d with pool := p } : Dev).bootPart = d.bootPart := bootPart_congr rfl rfl rfl rfl
theorem bootPart_mix (m : Mix) (d : Dev) : ({ d with mix := m } : Dev).bootPart = d.bootPart := bootPart_congr rfl rfl rfl rfl
theorem bootPart_freeCtr (n : Nat) (d : Dev) : ({ d with freeCtr := n } : Dev).bootPart = d.bootPart := bootPart_congr rfl rfl rfl rfl
@[simp] theorem bootPart_bump (r : Row) (i n : Nat) (d : Dev) : (d.bump r i n).bootPart = d.bootPart := by
  unfold bump
  split <;> exact bootPart_congr rfl rfl rfl rfl

theorem bootPart_foldl {α : Type} {f : Dev → α → Dev} (hf : ∀ e y, (f e y).bootPart = e.bootPart) (l : List α) (d : Dev) :
    (l.foldl f d).bootPart = d.bootPart := foldl_frame bootPart hf l d

/-! ### Correction, mix, sound, converters (R224, R199, R116, R252) -/

theorem loadCorrection_bootPart (d : Dev) : d.loadCorrection.bootPart = d.bootPart := by
  unfold loadCorrection
  extract_lets good d1 bad outs d2
  have h1 : d1.bootPart = d.bootPart := bootPart_foldl (fun _ _ => bootPart_setVal _ _ _ _ _) _ _
  exact (bootPart_foldl (fun e m => by rw [bootPart_notice, bootPart_setNat]) _ _).trans h1

theorem describeProgramme_bootPart (d : Dev) : d.describeProgramme.bootPart = d.bootPart := by
  unfold describeProgramme
  extract_lets p d1
  have h : d1.bootPart = d.bootPart := by simp only [d1, bootPart_setNat]
  refine (bootPart_foldl (fun e c => ?_) _ _).trans h
  split <;> simp only [bootPart_setNat]

theorem bootMix_bootPart (d : Dev) : d.bootMix.bootPart = d.bootPart := by
  unfold bootMix
  extract_lets img
  split
  · rfl
  · split
    · rw [bootPart_notice, bootPart_setNat]
    · rw [describeProgramme_bootPart, bootPart_mix]

theorem refreshSound_bootPart (d : Dev) : d.refreshSound.bootPart = d.bootPart := by simp only [refreshSound, bootPart_setNat]

theorem convAssign_bootPart (date c : Nat) (d : Dev) : (d.convAssign date c).bootPart = d.bootPart := by
  simp only [convAssign, bootPart_setNat, bootPart_setInt, bootPart_setConv, bootPart_pool]

theorem convStart_bootPart (date : Nat) (d : Dev) : (d.convStart date).bootPart = d.bootPart :=
  (bootPart_foldl (fun e c => convAssign_bootPart date c e) _ _).trans (bootPart_pool _ _)

/-! ### TDM ports, media ports, capture rings (R356, R256, R279) -/

theorem tdmShow_bootPart (p : Nat) (tell : Bool) (d : Dev) : (d.tdmShow p tell).bootPart = d.bootPart := by
  simp only [tdmShow]
  split
  · rw [bootPart_notice, bootPart_setNat, bootPart_setNat]
  · rw [bootPart_setNat, bootPart_setNat]

theorem setTdmState_bootPart (p st : Nat) (d : Dev) : (d.setTdmState p st).bootPart = d.bootPart := by
  unfold setTdmState
  split
  · rfl
  · rw [bootPart_notice, bootPart_setNat]

theorem tdmRestart_bootPart (p : Nat) (d : Dev) : (d.tdmRestart p).bootPart = d.bootPart := by
  rw [tdmRestart, tdmShow_bootPart, setTdmState_bootPart, bootPart_setNat, bootPart_setTdm]

theorem portCount_bootPart (p sub : Nat) (d : Dev) (n : Nat) : (d.portCount p sub n).bootPart = d.bootPart := by
  simp only [portCount]
  split
  · rw [bootPart_notice, bootPart_setNat]
  · rw [bootPart_setNat]

theorem setLink_bootPart (p st : Nat) (d : Dev) : (d.setLink p st).bootPart = d.bootPart := by simp only [setLink, bootPart_setNat]

theorem noAgreement_bootPart (p : Nat) (d : Dev) : (d.noAgreement p).bootPart = d.bootPart := by
  rw [noAgreement, bootPart_setPort, bootPart_notice, portCount_bootPart, setLink_bootPart]

theorem startCycle_bootPart (p : Nat) (c : Option Nat) (d : Dev) : (d.startCycle p c).bootPart = d.bootPart := by
  unfold startCycle
  extract_lets l
  split
  · rw [bootPart_setPort, setLink_bootPart]
  · rw [bootPart_setPort, setLink_bootPart]
  · exact noAgreement_bootPart p d

theorem bringUp_bootPart (p : Nat) (d : Dev) : (d.bringUp p).bootPart = d.bootPart := by
  unfold bringUp
  split
  · exact setLink_bootPart p 0 d
  · split
    · rw [bootPart_emit, bootPart_setPort, setLink_bootPart]
    · dsimp only
      split
      · rw [startCycle_bootPart, bootPart_emit]
      · rw [bootPart_setPort, setLink_bootPart, bootPart_emit]

theorem sendPause_bootPart (quanta : Nat) (d : Dev) : (d.sendPause quanta).bootPart = d.bootPart := by
  rw [sendPause, bootPart_setPort, portCount_bootPart, endLpi]
  split
  · exact bootPart_setPort _ _ _
  · rfl

theorem pauseCheck_bootPart (d : Dev) : d.pauseCheck.bootPart = d.bootPart := by
  unfold pauseCheck
  dsimp only
  split
  · exact bootPart_setPort _ _ _
  · split
    · split
      · rw [sendPause_bootPart, bootPart_setPort]
      · exact bootPart_setPort _ _ _
    · split
      · rw [sendPause_bootPart, bootPart_setPort]
      · rfl

theorem setRxRing_bootPart (k : Nat) (r : RxRing) (d : Dev) : (d.setRxRing k r).bootPart = d.bootPart := bootPart_congr rfl rfl rfl rfl

theorem rxPost_bootPart (k addr len : Nat) (d : Dev) : (d.rxPost k addr len).bootPart = d.bootPart := by
  unfold rxPost
  split
  · rfl
  · extract_lets r n
    split
    · rfl
    · rw [pauseCheck_bootPart, setRxRing_bootPart]

theorem postCapture_bootPart (d : Dev) : d.postCapture.bootPart = d.bootPart :=
  bootPart_foldl (fun e k => bootPart_foldl (fun b _ => rxPost_bootPart k _ _ b) _ e) _ d

/-! ### The best leader clock (R345, R334) -/

theorem switchSource_bootPart (s : Nat) (d : Dev) : (d.switchSource s).bootPart = d.bootPart := by
  unfold switchSource
  extract_lets old
  split
  · exact bootPart_setNat _ _ _ _ _
  · rw [bootPart_setAlm, bootPart_notice, bootPart_bump, bootPart_setNat, bootPart_setNat]

theorem recTrigger_bootPart (bit : Nat) (d : Dev) : (d.recTrigger bit).bootPart = d.bootPart := by
  unfold recTrigger
  extract_lets on
  split
  · rfl
  · split
    · simp only [bootPart_notice, bootPart_setNat]
    · rfl
    · exact bootPart_bump _ _ _ _

theorem sourceGained_bootPart (code : Nat) (d : Dev) : (d.sourceGained code).bootPart = d.bootPart := by
  unfold sourceGained
  dsimp only
  split
  · split
    · rw [switchSource_bootPart, bootPart_setAlm]
    · exact bootPart_setAlm _ _
  · exact bootPart_setAlm _ _

theorem sourceLost_bootPart (code : Nat) (d : Dev) : (d.sourceLost code).bootPart = d.bootPart := by
  have hfree : ∀ e : Dev, e.freeInt.2.bootPart = e.bootPart := fun e => bootPart_freeCtr _ e
  unfold sourceLost
  dsimp only
  split
  · exact bootPart_setAlm _ _
  · split <;> simp only [switchSource_bootPart, recTrigger_bootPart, bootPart_notice, bootPart_bump, bootPart_setNat, bootPart_setInt, hfree,
      bootPart_setAlm]

theorem setServo_bootPart (st : Nat) (d : Dev) : (d.setServo st).bootPart = d.bootPart := by
  unfold setServo
  extract_lets old e
  have h : e.bootPart = d.bootPart := by simp only [e, bootPart_setAlm, bootPart_setNat]
  clear_value e
  split
  · exact h
  · split
    · rw [sourceGained_bootPart, bootPart_notice, h]
    · split
      · rw [sourceLost_bootPart, bootPart_notice, h]
      · exact h

theorem adopt_bootPart (p : Nat) (source : Octets) (steps : Nat) (d : Dev) : (d.adopt p source steps).bootPart = d.bootPart := by
  unfold adopt
  dsimp only
  split
  · exact bootPart_setNat _ _ _ _ _
  · split <;> simp only [setServo_bootPart, bootPart_setNat, bootPart_notice, bootPart_setAlm]

theorem bestLeader_bootPart (d : Dev) : d.bestLeader.bootPart = d.bootPart := by
  have hlead (q : Nat) (e : Dev) : (if e.ptpOn q ∧ e.portUp q then e.setNat Reg.ptpPortState 6 q else e).bootPart = e.bootPart := by
    split
    · exact bootPart_setNat _ _ _ _ _
    · rfl
  unfold bestLeader
  extract_lets own best mode lead
  clear_value best
  cases best with
  | none =>
    dsimp only
    split
    · rfl
    · exact bootPart_foldl (fun e q => hlead q e) _ d
  | some x =>
    dsimp only
    split
    · rw [bootPart_setAlm]
      exact bootPart_foldl (fun e q => hlead q e) _ d
    · split
      · refine (bootPart_foldl (fun e q => ?_) _ _).trans (adopt_bootPart _ _ _ d)
        split
        · rfl
        · exact hlead q e
      · exact adopt_bootPart _ _ _ d

theorem ptpPort_bootPart (p : Nat) (d : Dev) : (d.ptpPort p).bootPart = d.bootPart := by
  unfold ptpPort
  extract_lets e
  have h : e.bootPart = d.bootPart := bootPart_setNat _ _ _ _ _
  clear_value e
  split
  · rw [bestLeader_bootPart, h]
  · exact h

/-! ### The group, the pair, the notices of the boot (R472, R426, R517, R530) -/

theorem dradaNoAgree_bootPart (k : Nat) (d : Dev) : (d.dradaNoAgree k).bootPart = d.bootPart := by
  rw [dradaNoAgree, bootPart_setDlink, bootPart_notice, bootPart_bump, bootPart_setNat]

theorem dradaTrain_bootPart (k : Nat) (c : Option Nat) (d : Dev) : (d.dradaTrain k c).bootPart = d.bootPart := by
  unfold dradaTrain
  split
  · rw [bootPart_setDlink, bootPart_setNat]
  · extract_lets l
    split
    · rw [bootPart_setDlink, bootPart_setNat]
    · rw [bootPart_setDlink, bootPart_setNat]
    · exact dradaNoAgree_bootPart k d

theorem setUnit_bootPart (u parent link kind base count hops state : Nat) (d : Dev) :
    (d.setUnit u parent link kind base count hops state).bootPart = d.bootPart := by simp only [setUnit, bootPart_setNat]

theorem placeModule_bootPart (u parent link base hops parts pairState : Nat) (outs : List Nat) (state : Nat) (d : Dev) :
    (d.placeModule u parent link base hops parts pairState outs state).bootPart = d.bootPart := by
  unfold placeModule
  dsimp only
  split
  · exact setUnit_bootPart _ _ _ _ _ _ _ _ d
  · refine (foldl_frame (fun a : Dev × Nat => a.1.bootPart) (fun a p => ?_) _ _).trans (setUnit_bootPart _ _ _ _ _ _ _ _ d)
    exact setUnit_bootPart _ _ _ _ _ _ _ _ a.1

theorem loneTree_bootPart (d : Dev) : d.loneTree.bootPart = d.bootPart := by
  unfold loneTree
  extract_lets e1 e2
  have h1 : e1.bootPart = d.bootPart := by
    refine bootPart_foldl (fun e u => ?_) _ d
    split
    · rfl
    · exact setUnit_bootPart _ _ _ _ _ _ _ _ e
  have h2 : e2.bootPart = e1.bootPart := placeModule_bootPart _ _ _ _ _ _ _ _ _ e1
  clear_value e2 e1
  simp only [bootPart_setNat, h2, h1]

theorem dradaBoot_bootPart (d : Dev) : d.dradaBoot.bootPart = d.bootPart := by
  unfold dradaBoot
  extract_lets e
  have h : e.bootPart = d.bootPart := bootPart_foldl (fun e k => dradaTrain_bootPart k none e) _ d
  clear_value e
  rw [bootPart_setDrada, loneTree_bootPart, h]

theorem tellPartner_bootPart (code : Nat) (body : Octets) (d : Dev) : (d.tellPartner code body).bootPart = d.bootPart := by
  obtain ⟨g, o, r, h⟩ := tellPartner_sends code body d
  rw [h]
  rfl

theorem sendHello_bootPart (d : Dev) : d.sendHello.bootPart = d.bootPart := tellPartner_bootPart _ _ _

theorem pairBoot_bootPart (d : Dev) : d.pairBoot.bootPart = d.bootPart := by
  unfold pairBoot
  split
  · rfl
  · rw [sendHello_bootPart, bootPart_setPair]

theorem bootNotices_bootPart (d : Dev) : d.bootNotices.bootPart = d.bootPart := by
  refine (bootPart_foldl (fun e n => ?_) _ _).trans (bootPart_setSec _ _)
  split
  · exact bootPart_notice _ _ _
  · split <;> exact bootPart_notice _ _ _

theorem tellLostKeys_bootPart (d : Dev) : d.tellLostKeys.bootPart = d.bootPart := bootPart_foldl (fun _ _ => bootPart_notice _ _ _) _ d

theorem dropSessions_bootPart (gone : List Nat) (d : Dev) : (d.dropSessions gone).bootPart = d.bootPart := bootPart_congr rfl rfl rfl rfl

theorem refreshCommissioning_bootPart (d : Dev) : d.refreshCommissioning.bootPart = d.bootPart := by
  simp only [refreshCommissioning]
  split
  · rw [dropSessions_bootPart, bootPart_setFlag]
  · exact bootPart_setFlag _ _ _ _

theorem refreshGaps_bootPart (d : Dev) : d.refreshGaps.bootPart = d.bootPart := by
  unfold refreshGaps
  extract_lets on img op maps bits gaps was e
  have h : e.bootPart = d.bootPart := by simp only [e, bootPart_setNat]
  clear_value e
  split
  · exact h
  · rw [bootPart_notice, h]

/-! ### The start of the functions (R565) -/

/-- What the end of BOOT sets in the supervisor: the remap, with the watchdog's start where it is the first, and the ROM lock. -/
theorem remapSet_romLock (d : Dev) : (d.remapSet.romLock).power = d.power ∧ (d.remapSet.romLock).sup.remap = true ∧ (d.remapSet.romLock).sup.romLock = true ∧
    (d.remapSet.romLock).clock = d.clock := by
  unfold remapSet
  split
  next h => exact ⟨rfl, h, rfl, rfl⟩
  next => exact ⟨rfl, rfl, rfl, rfl⟩

/-- The functions start: the power stage stands, Remap and the ROM lock are set, and the first measurement is 10 s away. -/
structure Started (d e : Dev) : Prop where
  power : e.power = d.power
  measure : e.season.measureAt = e.clock + secCycles 10
  remap : e.sup.remap = true
  lock : e.sup.romLock = true

theorem Started.of_bootPart {b c : Dev} (h : Started d b) (hc : c.bootPart = b.bootPart) : Started d c := by
  simp only [bootPart, Prod.mk.injEq] at hc
  obtain ⟨hpower, hclock, hmeasure, hsup⟩ := hc
  exact ⟨hpower.trans h.power, by rw [hmeasure, hclock, h.measure], by rw [hsup, h.remap], by rw [hsup, h.lock]⟩

/-- The first measurement dated 10 s from now, and every object evaluated at the start. -/
def measureDated (d : Dev) : Dev :=
  { d with geo := { d.geo with fullOnStart := true }, season := { d.season with measureAt := d.clock + secCycles 10 } }

theorem measureDated_started (h : e.bootPart = d.bootPart) : Started d (e.remapSet.romLock).measureDated := by
  obtain ⟨hpower, hremap, hlock, -⟩ := remapSet_romLock e
  simp only [bootPart, Prod.mk.injEq] at h
  obtain ⟨hsame, -⟩ := h
  exact ⟨hpower.trans hsame, rfl, hremap, hlock⟩

theorem startFunctions_started (eeprom : Octets) (d : Dev) : Started d (d.startFunctions eeprom) := by
  have h1 : d.loadCorrection.bootMix.refreshSound.bootPart = d.bootPart := by
    rw [refreshSound_bootPart, bootMix_bootPart, loadCorrection_bootPart]
  have h2 : ∀ e : Dev, ((List.range 4).foldl (fun d p => d.tdmRestart p) e).bootPart = e.bootPart :=
    bootPart_foldl (fun b p => tdmRestart_bootPart p b) _
  have h3 : ∀ e : Dev, ((List.range 5).foldl (fun d p => (d.bringUp p).ptpPort p) e).bootPart = e.bootPart :=
    bootPart_foldl (fun b p => by rw [ptpPort_bootPart, bringUp_bootPart]) _
  refine (measureDated_started h1).of_bootPart ?_
  rw [startFunctions, refreshGaps_bootPart, refreshCommissioning_bootPart, tellLostKeys_bootPart, bootNotices_bootPart, pairBoot_bootPart,
    dradaBoot_bootPart, countDual, bootPart_setNat, bootPart_setNat, convStart_bootPart, postCapture_bootPart, h3, phyPower, phyAccess, bootPart_emit,
    h2, bootPart_setVal]
  rfl

end Dev

end Sys2Proof.Machine
end

