-- ==== Sys2Proof/Proofs/ResetRelease.lean ====
section
/-! The release of reset: what the straps set, and what the steps of BOOT that can find a fault leave alone (R403, R420, R516, R561, R565). -/

namespace Sys2Proof.Machine

namespace Dev

variable {b c d e : Dev}

/-! ### The frame of the steps of BOOT -/

/-- The entries that the release of reset sets and no step of BOOT writes. -/
def releaseKeys : List Nat := [Reg.pairState.key, Reg.resetCount.key]

/-- `e` is `d` after steps of BOOT: the power stage stands but for the fault that a step has found, no time has passed, and the entries of
the release hold what they held. -/
structure Boots (d e : Dev) : Prop where
  power : { e.power with bootFault := d.power.bootFault } = d.power
  clock : e.clock = d.clock
  base : e.frcBase = d.frcBase
  regs : ∀ k ∈ releaseKeys, nget? e.regs k = nget? d.regs k

theorem Boots.of_eq (hp : e.power = d.power) (hc : e.clock = d.clock) (hb : e.frcBase = d.frcBase) (hr : e.regs = d.regs) : Boots d e :=
  ⟨by rw [hp], hc, hb, fun _ _ => by rw [hr]⟩

theorem Boots.refl (d : Dev) : Boots d d := .of_eq rfl rfl rfl rfl

theorem Boots.trans (h : Boots d b) (h' : Boots b c) : Boots d c := by
  have hpower := h.power
  rw [← h'.power] at hpower
  exact ⟨hpower, h'.clock.trans h.clock, h'.base.trans h.base, fun k hk => (h'.regs k hk).trans (h.regs k hk)⟩

theorem Boots.state (h : Boots d e) : e.power.state = d.power.state := (congrArg Power.state h.power :)

theorem Boots.setVal (h : Boots d e) (r : Row) (v : Val) (i j : Nat) (hk : r.key i j ∉ releaseKeys) : Boots d (e.setVal r v i j) :=
  ⟨h.power, h.clock, h.base, fun k hks => (nget?_nset_ne _ _ _ fun he => hk (by rw [← he]; exact hks)).trans (h.regs k hks)⟩

theorem Boots.setNat (h : Boots d e) (r : Row) (v i j : Nat) (hk : r.key i j ∉ releaseKeys) : Boots d (e.setNat r v i j) := h.setVal r _ i j hk

theorem Boots.told (h : Boots d b) (ht : Told b c) : Boots d c :=
  h.trans ⟨by rw [ht.power], ht.clock, ht.frcBase, fun k hk => ht.regs k (by revert k; decide)⟩

theorem Boots.bump (h : Boots d e) (r : Row) (i n : Nat) (hk : r.key i ∉ releaseKeys) : Boots d (e.bump r i n) := by
  have hset := h.setNat r ((e.nat r i + n) % 256 ^ r.ty.size) i 0 hk
  unfold Dev.bump
  split
  · exact hset.trans (.of_eq rfl rfl rfl rfl)
  · exact hset

theorem Boots.setSec (h : Boots d e) (f : Security → Security) : Boots d (e.setSec f) := h.trans (.of_eq rfl rfl rfl rfl)

theorem Boots.setSlot (h : Boots d e) (s : Nat) (f : Slot → Slot) : Boots d (e.setSlot s f) := h.trans (.of_eq rfl rfl rfl rfl)

theorem boots_foldl {α : Type} {f : Dev → α → Dev} (hf : ∀ e y, Boots d e → Boots d (f e y)) (l : List α) (h : Boots d e) : Boots d (l.foldl f e) := by
  induction l generalizing e with
  | nil => exact h
  | cons y t ih => exact ih (hf e y h)

/-- In BOOT a fault is kept for its end. -/
theorem Boots.enterFault (h : Boots d e) (hs : d.power.state = .boot) (cls detail : Nat) : Boots d (e.enterFault cls detail) := by
  have hstate : e.power.state = .boot := h.state.trans hs
  rw [enterFault_eq_ite rfl, if_pos hstate]
  split
  · exact h
  · have hfault : Boots e (e.setStage fun p => { p with bootFault := true }) := ⟨rfl, rfl, rfl, fun _ _ => rfl⟩
    exact ((h.trans hfault).setNat Reg.faultCause _ 0 0 (by decide)).trans (.of_eq rfl rfl rfl rfl)

/-! ### The steps of BOOT -/

theorem countPending_boots (h : Boots d e) : Boots d e.countPending := h.setNat Reg.repairPending _ 0 0 (by decide)

theorem startupMarch_boots (h : Boots d e) (hs : d.power.state = .boot) (failing : List (Nat × Nat)) (arrayBad : Bool) (us : Nat) :
    Boots d (e.startupMarch failing arrayBad us) := by
  unfold startupMarch
  extract_lets fixed e1 e2
  have hfixed : Boots d fixed := h.trans (.of_eq rfl rfl rfl rfl)
  clear_value fixed
  have h1 : Boots d e1 := by
    refine boots_foldl (fun b x hb => ?_) _ (countPending_boots hfixed)
    exact hb.trans (.of_eq rfl rfl rfl rfl)
  clear_value e1
  have h2 : Boots d e2 := h1.setNat Reg.startupMarchTime us 0 0 (by decide)
  clear_value e2
  split
  · exact (h2.told (told_notice _ _ _)).enterFault hs _ _
  · split
    · exact (h2.told (told_notice _ _ _)).enterFault hs _ _
    · exact h2

theorem spoilFlash_boots (h : Boots d e) (l : List (Nat × Nat)) : Boots d (e.spoilFlash l) := h.trans (.of_eq rfl rfl rfl rfl)

theorem adoptImage_boots (h : Boots d e) : Boots d e.adoptImage := by
  unfold adoptImage
  extract_lets img
  split
  · exact h
  · exact (h.setNat Reg.firmwareVersion _ 0 0 (by decide)).setNat Reg.dictionaryVersion _ 0 0 (by decide)

theorem slotBoots_ne_release (s : Nat) : Reg.slotBoots.key s ∉ releaseKeys := by
  simp only [releaseKeys, slotBoots_key, pairState_key, resetCount_key, List.mem_cons, List.not_mem_nil, or_false]
  omega

theorem bootRom_boots (h : Boots d e) (hs : d.power.state = .boot) (bootSel : Bool) : Boots d (e.bootRom bootSel) := by
  unfold bootRom
  extract_lets e1 e2 a t failed e3 order
  have h1 : Boots d e1 := by
    unfold e1
    split
    · exact (h.setSlot _ _).setSec _
    · exact h.setSec _
  have h3 : Boots d e3 := by
    unfold e3
    split
    · exact ((h1.setSec _).setSlot _ _).setSec _
    · split
      · exact (h1.setSec _).setSlot _ _
      · exact h1.setSec _
  clear_value e3
  split
  · exact (h3.setSec _).enterFault hs _ _
  next s hs' =>
    extract_lets trial other e4 e5
    have h4 : Boots d e4 := by
      unfold e4
      split
      · exact (h3.setSlot _ _).setSlot _ _
      · exact h3
    have h5 : Boots d e5 := (h4.setSec _).bump Reg.slotBoots s 1 (slotBoots_ne_release s)
    clear_value e5
    split
    · exact adoptImage_boots h5
    · refine Boots.setSec ?_ _
      exact h5.trans (.of_eq rfl rfl rfl rfl)

theorem eye_ne_release {r : Row} (hr : r ∈ [Reg.eqEyeWidth, Reg.eqEyeHeight, Reg.eqStartValid, Reg.eqEyeWidthMin]) (lane : Nat) :
    r.key lane ∉ releaseKeys := by
  simp only [List.mem_cons, List.not_mem_nil, or_false] at hr
  obtain rfl | rfl | rfl | rfl := hr
  all_goals
    simp only [releaseKeys, eqEyeWidth_key, eqEyeHeight_key, eqStartValid_key, eqEyeWidthMin_key, pairState_key, resetCount_key, List.mem_cons,
      List.not_mem_nil, or_false]
    omega

theorem storeEye_boots (h : Boots d b) (lane : Nat) (eye : Eye) : Boots d (b.storeEye lane eye) := by
  unfold storeEye
  extract_lets g e1 e2 e3 e4
  have h1 : Boots d e1 := h.trans (.of_eq rfl rfl rfl rfl)
  clear_value e1
  have h2 : Boots d e2 := ((h1.setNat Reg.eqEyeWidth _ lane 0 (eye_ne_release (by simp) lane)).setNat Reg.eqEyeHeight _ lane 0
    (eye_ne_release (by simp) lane)).setNat Reg.eqStartValid 1 lane 0 (eye_ne_release (by simp) lane)
  have h3 : Boots d e3 := h2.trans (.of_eq rfl rfl rfl rfl)
  clear_value e3
  have h4 : Boots d e4 := by
    unfold e4
    split
    · exact (h3.setNat Reg.eqEyeWidthMin _ lane 0 (eye_ne_release (by simp) lane)).trans (.of_eq rfl rfl rfl rfl)
    · exact h3
  clear_value e4
  split
  · refine Boots.told ?_ (told_notice _ _ _)
    exact h4.trans (.of_eq rfl rfl rfl rfl)
  · exact h4

theorem holdPorts_boots (h : Boots d e) : Boots d e.holdPorts := by
  have hports : Boots d ((List.range 4).foldl (fun (d : Dev) p => d.emit (.txDisable p true)) e) := by
    refine boots_foldl (fun b p hb => ?_) _ h
    exact hb.trans (.of_eq rfl rfl rfl rfl)
  exact hports.trans (.of_eq rfl rfl rfl rfl)

/-! ### RESET_RELEASE (R561, R565, R589) -/

theorem freshAccount_keeps (d : Dev) : (d.freshAccount.power, d.freshAccount.clock, d.freshAccount.frcBase) = (d.power, d.clock, d.frcBase) := by
  unfold freshAccount
  extract_lets rows e1 e2
  have h1 : (e1.power, e1.clock, e1.frcBase) = (d.power, d.clock, d.frcBase) := by
    refine foldl_frame (fun e : Dev => (e.power, e.clock, e.frcBase)) (fun e r => ?_) _ _
    rfl
  clear_value e1
  have h2 : (e2.power, e2.clock, e2.frcBase) = (e1.power, e1.clock, e1.frcBase) := by
    refine foldl_frame (fun e : Dev => (e.power, e.clock, e.frcBase)) (fun e l => ?_) _ _
    rfl
  clear_value e2
  exact h2.trans h1

/-- A record of the MRAM that is lost leaves the power stage and the time. -/
theorem loseRecord_keeps (m : MramBad) (d : Dev) : ((d.loseRecord m).power, (d.loseRecord m).clock, (d.loseRecord m).frcBase) =
    (d.power, d.clock, d.frcBase) := by
  cases m with
  | entry key both =>
    unfold loseRecord
    dsimp only
    split <;> rfl
  | key key both =>
    unfold loseRecord
    dsimp only
    split <;> rfl
  | log seq =>
    unfold loseRecord
    dsimp only
    split <;> rfl
  | logHeader => rfl
  | account => exact freshAccount_keeps d
  | repairs bank => rfl

/-- The module at the moment of its release, the records that are lost gone. -/
def releasedAt (facts : BootFacts) (d : Dev) : Dev :=
  facts.mramBad.foldl loseRecord { d with clock := max d.clock (d.power.tripAt + msCycles 2), frcBase := max d.clock (d.power.tripAt + msCycles 2) }

/-- The store adopted: the straps in the power stage, the die no longer held, and PairState by PAIR_PRESENT. -/
theorem adoptStore_reads (facts : BootFacts) (d : Dev) :
    (∃ bad, (d.adoptStore facts).power = { d.power with
      bootSel := facts.bootSel, rolePref := facts.rolePref, pairPresent := facts.pairPresent, held := false, bootAt := d.clock,
      latchedOff := false, shapeBad := bad }) ∧
      (d.adoptStore facts).clock = d.clock ∧ (d.adoptStore facts).frcBase = d.frcBase ∧
      (d.adoptStore facts).regs = (d.setNat Reg.pairState (if facts.pairPresent then 0 else 1)).regs := by
  unfold adoptStore
  extract_lets e1 e2 e3 e4
  exact ⟨⟨e4.shapeFails, rfl⟩, rfl, rfl, rfl⟩

/-- The module released: its straps and its store in force, the release counted. -/
def released (facts : BootFacts) (d : Dev) : Dev := ((d.releasedAt facts).adoptStore facts).bump Reg.resetCount

/-- What the release sets: the straps, the die no longer held, the time from which the timers count, PairState, and the count of resets. -/
structure ReleasedTo (facts : BootFacts) (d e : Dev) : Prop where
  straps : (e.power.held, e.power.bootSel, e.power.rolePref, e.power.pairPresent) = (false, facts.bootSel, facts.rolePref, facts.pairPresent)
  state : e.power.state = d.power.state
  clock : e.clock = max d.clock (d.power.tripAt + msCycles 2)
  base : e.frcBase = e.clock
  pair : e.nat Reg.pairState = if facts.pairPresent then 0 else 1
  count : facts.mramBad = [] → e.nat Reg.resetCount = (d.nat Reg.resetCount + 1) % 2 ^ 32

theorem releasedAt_keeps (facts : BootFacts) (d : Dev) : ((d.releasedAt facts).power, (d.releasedAt facts).clock, (d.releasedAt facts).frcBase) =
    (d.power, max d.clock (d.power.tripAt + msCycles 2), max d.clock (d.power.tripAt + msCycles 2)) :=
  foldl_frame (fun e : Dev => (e.power, e.clock, e.frcBase)) (fun e m => loseRecord_keeps m e) _ _

theorem released_to (facts : BootFacts) (d : Dev) : ReleasedTo facts d (d.released facts) := by
  have hkeeps := releasedAt_keeps facts d
  simp only [Prod.mk.injEq] at hkeeps
  obtain ⟨hpower, hclock, hbase⟩ := hkeeps
  have hcount : facts.mramBad = [] → (d.releasedAt facts).nat Reg.resetCount = d.nat Reg.resetCount := fun h => by
    rw [releasedAt, h]
    rfl
  unfold released
  generalize d.releasedAt facts = b at hpower hclock hbase hcount
  obtain ⟨⟨bad, hstage⟩, htime, hfrom, hregs⟩ := adoptStore_reads facts b
  generalize b.adoptStore facts = c at hstage htime hfrom hregs
  have hbump : (c.bump Reg.resetCount).clock = c.clock ∧ (c.bump Reg.resetCount).frcBase = c.frcBase := by
    unfold Dev.bump
    split <;> exact ⟨rfl, rfl⟩
  obtain ⟨hbumpClock, hbumpBase⟩ := hbump
  refine ⟨?_, ?_, ?_, ?_, ?_, fun h => ?_⟩
  · rw [bump_power, hstage]
  · rw [bump_power, hstage, hpower]
  · rw [hbumpClock, htime, hclock]
  · rw [hbumpBase, hbumpClock, hfrom, htime, hbase, hclock]
  · rw [nat_bump_ne _ _ _ _ _ _ _ (by decide), nat_congr hregs, nat_setNat_same]
  · rw [nat_bump_same, nat_congr hregs, nat_setNat_ne _ _ _ _ _ _ _ _ (by decide), hcount h]
    rfl

theorem ReleasedTo.boots {facts : BootFacts} (h : ReleasedTo facts d b) (hb : Boots b c) : ReleasedTo facts d c := by
  have hnat : ∀ r : Row, r.key ∈ releaseKeys → c.nat r = b.nat r := fun r hr => by
    simp only [nat, int, val, nget, hb.regs _ hr]
  have hpower : (c.power.held, c.power.bootSel, c.power.rolePref, c.power.pairPresent) =
      (b.power.held, b.power.bootSel, b.power.rolePref, b.power.pairPresent) :=
    (congrArg (fun p : Power => (p.held, p.bootSel, p.rolePref, p.pairPresent)) hb.power :)
  exact ⟨hpower.trans h.straps, hb.state.trans h.state, hb.clock.trans h.clock, by rw [hb.base, hb.clock, h.base],
    (hnat _ (by decide)).trans h.pair, fun hm => (hnat _ (by decide)).trans (h.count hm)⟩

theorem resetRelease_waits (h : d.power.state ≠ .boot ∨ d.power.held = false ∨ d.power.rails = false ∨ d.power.nreset = false)
    (facts : BootFacts) : d.resetRelease facts = d := by
  rw [resetRelease, if_pos]
  simpa [imp_iff_not_or, or_assoc] using h

/-- Everything after the release leaves what the release set. -/
theorem resetRelease_boots (hs : d.power.state = .boot) (hh : d.power.held = true) (hr : d.power.rails = true) (hn : d.power.nreset = true)
    (facts : BootFacts) : Boots (d.released facts) (d.resetRelease facts) := by
  have hstate : (d.released facts).power.state = .boot := (released_to facts d).state.trans hs
  unfold resetRelease
  rw [if_neg (by simp [hs, hh, hr, hn])]
  extract_lets t e1 e2 e3 e4 e5 e6
  have h2 : Boots (d.released facts) e2 := holdPorts_boots (.refl (d.released facts))
  clear_value e2
  have h3 : Boots (d.released facts) e3 := startupMarch_boots h2 hstate _ _ _
  clear_value e3
  have h4 : Boots (d.released facts) e4 := bootRom_boots (spoilFlash_boots h3 _) hstate _
  clear_value e4
  have h5 : Boots (d.released facts) e5 := by
    unfold e5
    split
    · exact h4.enterFault hstate _ _
    · exact h4
  clear_value e5
  have h6 : Boots (d.released facts) e6 := by
    refine boots_foldl (fun b c hb => ?_) _ h5
    split
    · exact (hb.told (told_notice _ _ _)).enterFault hstate _ _
    · exact hb
  clear_value e6
  exact boots_foldl (fun b x hb => storeEye_boots hb _ _) _ h6

end Dev

end Sys2Proof.Machine
end

