-- ==== Sys2Proof/Proofs/ResetEvents.lean ====
section
/-! nRESET, the end of BOOT and the stop of the data path (R404, R556, R558, R561, R565). -/

namespace Sys2Proof.Machine

namespace Dev

variable {d e : Dev}

/-! ### nRESET (R552, R561, R563) -/

theorem live_powered (hl : d.live = true) : ¬ (d.power.state = .off ∨ d.power.state = .offseason) := by
  simp only [live, Bool.and_eq_true, bne_iff_ne] at hl
  obtain ⟨⟨-, hoff⟩, hseason⟩ := hl
  exact fun h => h.elim hoff hseason

theorem nresetLow_off (h : d.power.state = .off ∨ d.power.state = .offseason) : d.nresetLow = d.setStage fun p => { p with nreset := false } := if_pos h

theorem nresetLow_held (hs : d.power.state = .boot) (hh : d.power.held = true) :
    d.nresetLow = d.setStage fun p => { p with nreset := false, cause := if p.rails then 0x03 else p.cause } := by
  rw [nresetLow, if_neg (by simp [hs]), if_pos hh]

theorem nresetLow_tripped (hl : d.live = true) (ht : d.power.tripped = true) :
    d.nresetLow = (d.logOvertaken 0x03).setStage fun p => { p with nreset := false } := by
  rw [nresetLow, if_neg (live_powered hl), if_neg (by simp [live_not_held hl]), if_pos ht]

theorem nresetLow_resets (hl : d.live = true) (ht : d.power.tripped = false) :
    d.nresetLow = (d.dropPending.fullReset 0x03).setStage fun p => { p with nreset := false } := by
  rw [nresetLow, if_neg (live_powered hl), if_neg (by simp [live_not_held hl]), if_neg (by simp [ht])]

theorem nresetLow_resetsHeld (hl : d.live = true) (ht : d.power.tripped = false) : d.nresetLow.HeldInReset 3 ∧ d.nresetLow.power.nreset = false := by
  have hpower := dropPending_power d
  have hreset := fullReset_resets (cause := 0x03) (d := d.dropPending) (by rw [live, hpower]; exact hl) (.inl (by rw [hpower]; exact ht))
  rw [nresetLow_resets hl ht]
  obtain ⟨hstate, hheld, hcause⟩ := hreset.held
  generalize d.dropPending.fullReset 0x03 = b at hstate hheld hcause
  exact ⟨⟨hstate, hheld, hcause⟩, rfl⟩

theorem logOvertaken_told (what : Nat) (d : Dev) : Told d (d.logOvertaken what) := told_logEvent _ _

theorem nresetLow_trippedKeeps (hl : d.live = true) (ht : d.power.tripped = true) :
    d.nresetLow.power = { d.power with nreset := false } ∧ KeepsRegs [] d d.nresetLow := by
  rw [nresetLow_tripped hl ht]
  have htold := logOvertaken_told 0x03 d
  generalize d.logOvertaken 0x03 = b at htold
  exact ⟨by rw [setStage_power, htold.power], ((KeepsRegs.refl _ d).told htold).of_regs (setStage_regs _ _)⟩

theorem nresetHigh_high (h : d.power.nreset = true) : d.nresetHigh = d := if_pos h

theorem nresetHigh_low (h : d.power.nreset = false) : d.nresetHigh = d.setStage fun p => { p with nreset := true, tripAt := d.clock } :=
  if_neg (by simp [h])

/-! ### BOOT_COMPLETE (R565) -/

/-- `e` is a module that BOOT has left in a power state, its functions started. -/
structure BootedTo (st : PowerState) (e : Dev) : Prop where
  state : e.power.state = st
  measure : e.season.measureAt = e.clock + secCycles 10
  remap : e.sup.remap = true
  lock : e.sup.romLock = true

theorem BootedTo.told {st : PowerState} (h : BootedTo st d) (ht : Told d e) : BootedTo st e :=
  ⟨by rw [ht.power, h.state], by rw [ht.season, ht.clock, h.measure], by rw [ht.sup, h.remap], by rw [ht.sup, h.lock]⟩

/-- The date of a fault noted. -/
theorem BootedTo.faultAt {st : PowerState} (h : BootedTo st d) (t : Nat) : BootedTo st (d.setStage fun p => { p with faultAt := t }) :=
  ⟨h.state, h.measure, h.remap, h.lock⟩

/-- The state that BOOT ends in: FAULT where a step has found one. -/
def bootEnd (d : Dev) : PowerState := if d.power.bootFault then .fault else .quiet

theorem bootComplete_booted (hs : d.power.state = .boot) (hh : d.power.held = false) (hst : d.sec.stopped = false) (ms : Nat) (eeprom : Octets) :
    BootedTo d.bootEnd (d.bootComplete ms eeprom) := by
  unfold bootComplete
  rw [if_neg (by simp [hs, hh, hst])]
  extract_lets e1 e2 e3 e4 e5
  have h3 : e3.power = d.power := by
    unfold e3 e2 e1
    rw [setNat_power, emit_power, advance_power]
  have hend : (if e3.power.bootFault then PowerState.fault else .quiet) = d.bootEnd := by rw [h3, bootEnd]
  have h4 : BootedTo d.bootEnd e4 := by
    unfold e4
    rw [hend]
    obtain ⟨hpower, hmeasure, hremap, hlock⟩ := startFunctions_started eeprom (e3.setPower d.bootEnd)
    exact ⟨by rw [hpower, setPower_power], hmeasure, hremap, hlock⟩
  clear_value e4
  have h5 : BootedTo d.bootEnd e5 := by
    unfold e5
    split
    · exact ((h4.faultAt _).told (told_notice _ _ _)).told (told_logFault _ _ _)
    · exact h4
  clear_value e5
  split
  · exact h5.told (told_notice _ _ _)
  · exact h5

theorem canSession_keeps (host : Nat) (d : Dev) : ((d.canSession host).power, (d.canSession host).clock, (d.canSession host).season, (d.canSession host).sup) =
    (d.power, d.clock, d.season, d.sup) := by
  unfold canSession
  split <;> rfl

/-! ### DATA_PATH_STOP (R556, R558, R593) -/

/-- The planes without a value. -/
def noPlanes : Planes := { ingress := [], object := [], render := [], egress := [] }

theorem convClear_planes (d : Dev) : d.convClear.planes = d.planes := by
  refine (foldl_frame Dev.planes (fun e x => ?_) _ _).trans rfl
  rfl

theorem tdmShow_planes (p : Nat) (tell : Bool) (d : Dev) : (d.tdmShow p tell).planes = d.planes := by
  unfold tdmShow
  dsimp only
  split
  · rw [notice_planes, setNat_planes, setNat_planes]
  · rw [setNat_planes, setNat_planes]

theorem tdmRealign_planes (d : Dev) : d.tdmRealign.planes = d.planes :=
  foldl_frame Dev.planes (fun e p => by rw [tdmShow_planes, setTdm_planes]) _ _

theorem clearPath_planes (d : Dev) : d.clearPath.planes = noPlanes := by
  rw [clearPath, tdmRealign_planes, convClear_planes]
  rfl

theorem recEnable_planes (runs : Bool) (tick : Nat) (d : Dev) : (d.recEnable runs tick).planes = d.planes := by
  unfold recEnable
  dsimp only
  split
  · rfl
  · split
    · split <;> rfl
    · rfl

theorem toSn_planes (d : Dev) : d.toSn.planes = d.planes := by
  unfold toSn
  split <;> rfl

/-- The path cleared, the recorder stopped, nothing more due. -/
def pathCleared (d : Dev) : Dev :=
  let d := { d with power := { d.power with stopDue := false } }
  (d.clearPath).recEnable false d.mscNow

theorem pathCleared_reads (d : Dev) : d.pathCleared.power = { d.power with stopDue := false } ∧ d.pathCleared.planes = noPlanes := by
  unfold pathCleared
  extract_lets e
  exact ⟨by rw [recEnable_power, clearPath_power], by rw [recEnable_planes, clearPath_planes]⟩

/-- The Almanac in SN mode, and the sample clock no longer aligned. -/
def unaligned (d : Dev) : Dev := ((d.toSn).setAlm fun a => { a with aligned := false }).setFlag Reg.mscAligned false

theorem unaligned_reads (d : Dev) : d.unaligned.power = d.power ∧ d.unaligned.planes = d.planes ∧ d.unaligned.flag Reg.mscAligned = false ∧
    d.unaligned.alm.aligned = false := by
  have hpower : d.toSn.power = d.power := toSn_power d
  have hplanes := toSn_planes d
  unfold unaligned
  generalize d.toSn = b at hpower hplanes
  exact ⟨hpower, hplanes, flag_setFlag_same _ _ _ _, rfl⟩

theorem stopPath_eq (d : Dev) : d.stopPath =
    (let e := if d.pathCleared.power.state.runs then d.pathCleared.unaligned else d.pathCleared
    if e.power.state.runs then e.setPower .quiet else e) := by
  delta stopPath pathCleared unaligned
  with_reducible rfl

theorem pathCleared_state (d : Dev) : d.pathCleared.power.state = d.power.state := by
  obtain ⟨hpower, -⟩ := pathCleared_reads d
  rw [hpower]

theorem stopPath_stands (h : d.power.state.runs = false) : d.stopPath = d.pathCleared := by
  have hruns : ¬ d.pathCleared.power.state.runs = true := by rw [pathCleared_state, h]; exact Bool.false_ne_true
  rw [stopPath_eq, if_neg hruns]
  exact if_neg hruns

theorem stopPath_ends (h : d.power.state.runs = true) : d.stopPath = d.pathCleared.unaligned.setPower .quiet := by
  have hruns : d.pathCleared.power.state.runs = true := by rw [pathCleared_state, h]
  obtain ⟨hpower, -⟩ := unaligned_reads d.pathCleared
  rw [stopPath_eq, if_pos hruns]
  exact if_pos (by rw [hpower]; exact hruns)

theorem dataPathStop_due (hs : d.power.stopDue = true) (hh : d.pair.handover = none) : d.dataPathStop = d.stopPath.applyPendingVolt :=
  if_pos ⟨hs, by rw [hh]; rfl⟩

theorem dataPathStop_waits (h : d.power.stopDue = false ∨ d.pair.handover ≠ none) : d.dataPathStop = d := by
  refine if_neg fun ⟨hs, hh⟩ => ?_
  obtain h | h := h
  · exact Bool.false_ne_true (h.symm.trans hs)
  · exact h (Option.isNone_iff_eq_none.1 hh)

/-- What the voltage plan, once nothing holds it, leaves of a stopped path. -/
theorem applyPendingVolt_keeps (d : Dev) : d.applyPendingVolt.power = d.power ∧ d.applyPendingVolt.planes = d.planes ∧
    d.applyPendingVolt.alm = d.alm ∧ d.applyPendingVolt.flag Reg.mscAligned = d.flag Reg.mscAligned := by
  have h := applyPendingVolt_planned d
  exact ⟨(congrArg Dev.power h.rest :), (congrArg Dev.planes h.rest :), (congrArg Dev.alm h.rest :), h.regs.flag _ _ (by decide) (by decide)⟩

/-- A running path that stops ends in QUIET, unaligned. -/
theorem dataPathStop_quiet (hs : d.power.stopDue = true) (hh : d.pair.handover = none) (hr : d.power.state.runs = true) :
    d.dataPathStop.power.stopDue = false ∧ d.dataPathStop.power.state = .quiet ∧ d.dataPathStop.flag Reg.mscAligned = false ∧
      d.dataPathStop.alm.aligned = false ∧ d.dataPathStop.planes = noPlanes := by
  obtain ⟨hvoltPower, hvoltPlanes, hvoltAlm, hvoltFlag⟩ := applyPendingVolt_keeps d.stopPath
  rw [dataPathStop_due hs hh, hvoltPower, hvoltPlanes, hvoltAlm, hvoltFlag, stopPath_ends hr, setPower_power]
  obtain ⟨hpower, hplanes⟩ := pathCleared_reads d
  obtain ⟨hkept, hempty, hflag, halm⟩ := unaligned_reads d.pathCleared
  obtain ⟨p, x, -, htold⟩ := setPower_tells .quiet d.pathCleared.unaligned
  generalize d.pathCleared.unaligned = u at hkept hempty hflag halm htold ⊢
  refine ⟨by rw [hkept, hpower], rfl, ?_, ?_, ?_⟩
  · rw [htold.flag _ _ (by decide)]
    exact (flag_congr rfl _ _).trans hflag
  · rw [htold.alm]
    exact halm
  · rw [htold.planes]
    exact hempty.trans hplanes

/-- In FAULT the path is cleared and the state stands. -/
theorem dataPathStop_fault (hs : d.power.stopDue = true) (hh : d.pair.handover = none) (hf : d.power.state = .fault) :
    d.dataPathStop.power.stopDue = false ∧ d.dataPathStop.power.state = .fault ∧ d.dataPathStop.planes = noPlanes := by
  obtain ⟨hvoltPower, hvoltPlanes, -⟩ := applyPendingVolt_keeps d.stopPath
  obtain ⟨hpower, hplanes⟩ := pathCleared_reads d
  rw [dataPathStop_due hs hh, hvoltPower, hvoltPlanes, stopPath_stands (by rw [hf]; rfl), hpower]
  exact ⟨rfl, hf, hplanes⟩

end Dev

theorem exec_nreset (s : State) : exec .nreset s = s.run Dev.nresetLow := rfl

theorem exec_nresetRelease (s : State) : exec .nresetRelease s = s.run Dev.nresetHigh := rfl

theorem exec_resetRelease (facts : BootFacts) (s : State) : exec (.resetRelease facts) s = s.run (Dev.resetRelease facts) := rfl

theorem exec_dataPathStop (s : State) : exec .dataPathStop s = s.run Dev.dataPathStop := rfl

/-- BOOT that ends leaves an empty memory and a session of the CAN FD host that takes the notices. -/
theorem exec_bootComplete_booting {s : State} (hs : s.dev.power.state = .boot) (hh : s.dev.power.held = false) (hst : s.dev.sec.stopped = false)
    (ms : Nat) (eeprom : Octets) : exec (.bootComplete ms eeprom) s =
      .next { s with mem := [], dev := (s.dev.bootComplete ms eeprom).canSession ((s.dev.bootComplete ms eeprom).nat Reg.canNoticeHost) } :=
  if_pos (by simp [hs, hh, hst])

theorem exec_bootComplete_else {s : State} (h : s.dev.power.state ≠ .boot ∨ s.dev.power.held = true ∨ s.dev.sec.stopped = true)
    (ms : Nat) (eeprom : Octets) : exec (.bootComplete ms eeprom) s = .next s := by
  refine if_neg fun hb => ?_
  simp only [Bool.and_eq_true, decide_eq_true_eq, Bool.not_eq_true'] at hb
  obtain ⟨⟨hs, hh⟩, hst⟩ := hb
  obtain h | h | h := h
  · exact h hs
  · exact Bool.false_ne_true (hh.symm.trans h)
  · exact Bool.false_ne_true (hst.symm.trans h)

/-- Settles O18: each event by the power state, what is held, tripped or due, and the frame of the steps that follow it. -/
theorem resetEvents : Obligations.ResetEvents := by
  unfold Obligations.ResetEvents
  intro s
  refine ⟨fun hl ht => ?_, fun hl ht => ?_, fun hs hh => ?_, fun hn => ?_, fun facts h => ?_, fun h => ?_, fun hn => ?_,
    fun facts hs hh hr hn => ?_, fun ms eeprom h => ?_, fun ms eeprom hs hh hst => ?_, fun hs hh hr => ?_, fun hs hh hf => ?_, fun h => ?_⟩
  · exact run_completes (exec_nreset s) (Dev.nresetLow_resetsHeld hl ht)
  · exact run_completes (exec_nreset s) (Dev.nresetLow_trippedKeeps hl ht)
  · exact run_completes (exec_nreset s) (Dev.nresetLow_held hs hh)
  · exact run_completes (exec_nresetRelease s) (Dev.nresetHigh_high hn)
  · exact run_completes (exec_resetRelease facts s) (Dev.resetRelease_waits h facts)
  · exact run_completes (exec_nreset s) (Dev.nresetLow_off h)
  · exact run_completes (exec_nresetRelease s) (Dev.nresetHigh_low hn)
  · refine run_completes (exec_resetRelease facts s) ?_
    obtain ⟨hstraps, -, hclock, hbase, hpair, hcount⟩ := (Dev.released_to facts s.dev).boots (Dev.resetRelease_boots hs hh hr hn facts)
    simp only [Prod.mk.injEq] at hstraps
    obtain ⟨hheld, hsel, hrole, hpresent⟩ := hstraps
    exact ⟨hheld, hsel, hrole, hpresent, hpair, hcount, hclock, hbase⟩
  · exact ⟨s, exec_bootComplete_else h ms eeprom, rfl, rfl, rfl⟩
  · obtain ⟨hstate, hmeasure, hremap, hlock⟩ := Dev.bootComplete_booted hs hh hst ms eeprom
    have hsession := Dev.canSession_keeps ((s.dev.bootComplete ms eeprom).nat Reg.canNoticeHost) (s.dev.bootComplete ms eeprom)
    simp only [Prod.mk.injEq] at hsession
    obtain ⟨hpower, hclock, hseason, hsup⟩ := hsession
    refine ⟨_, exec_bootComplete_booting hs hh hst ms eeprom, rfl, rfl, ?_⟩
    dsimp only
    rw [hpower, hclock, hseason, hsup]
    exact ⟨hstate, hmeasure, hremap, hlock⟩
  · exact run_completes (exec_dataPathStop s) (Dev.dataPathStop_quiet hs hh hr)
  · exact run_completes (exec_dataPathStop s) (Dev.dataPathStop_fault hs hh hf)
  · exact run_completes (exec_dataPathStop s) (Dev.dataPathStop_waits h)

end Sys2Proof.Machine
end

