-- ==== Sys2Proof/Proofs/DradaTraining.lean ====
section
/-! The training of a Drada link and its idle lane (R455 to R457, R479). -/

namespace Sys2Proof.Machine

namespace Dev

variable {d e : Dev} {k : Nat}

/-! ### The entries of a link, apart from what else its events write -/

/-- The entries that the loss of a source, or of the partner, may write. -/
def lossKeys : List Nat := Reg.pairState.key :: rootKeys

/-- The entries that a cell sent may write. -/
def stallKeys : List Nat := [Reg.dradaCreditStalls.key 0, Reg.dradaCreditStalls.key 1, Reg.dradaCreditStalls.key 2]

/-- The entries that the eye of a link's lane and the cells of a link that comes up may write. -/
def upKeys (k : Nat) : List Nat := Reg.eqEyeWidthMin.key (4 + k) :: eyeKeys (4 + k) ++ stallKeys

theorem dradaRow_key {r : Row} (hb : r.base = 0x8110) (k : Nat) : r.key k = (0x8110 + k) * 256 + r.sub := by simp only [Row.key, entryKey, hb, Nat.add_zero]

theorem dradaRow_untold {r : Row} (hb : r.base = 0x8110) (hs : r.sub < 0x100) (hk : k < 3) : r.key k ∉ tellKeys := by
  rw [dradaRow_key hb]
  simp only [tellKeys, List.mem_cons, List.not_mem_nil, or_false]
  omega

theorem dradaRow_lossKeys {r : Row} (hb : r.base = 0x8110) (hs : r.sub < 0x100) (_ : k < 3) : r.key k ∉ lossKeys := by
  rw [dradaRow_key hb]
  simp only [lossKeys, rootKeys, triggerKeys, List.cons_append, List.nil_append, List.mem_cons, List.not_mem_nil, or_false, pairState_key,
    selectedSource_key, dpllState_key, sourceSwitches_key, rootOffset_key, holdoverCount_key, recorderTriggerDate_key,
    recorderTriggerCause_key, recorderState_key, recorderTriggersMissed_key]
  omega

theorem dradaRow_upKeys {r : Row} (hb : r.base = 0x8110) (hs : r.sub < 0x100) (hr : r.sub ≠ 0x14) (k : Nat) : r.key k ∉ upKeys k := by
  rw [dradaRow_key hb]
  simp only [upKeys, eyeKeys, stallKeys, List.cons_append, List.nil_append, List.mem_cons, List.not_mem_nil, or_false, eqEyeWidthMin_key,
    eqEyeWidth_key, eqEyeHeight_key, eqStartValid_key, dradaCreditStalls_key]
  omega

theorem dradaRow_ne {r r' : Row} (hs : r.sub < 0x100) (hs' : r'.sub < 0x100) (h : r.sub ≠ r'.sub) (k : Nat) : r.key k ≠ r'.key k :=
  key_ne hs hs' (.inr h)

/-! ### A cycle that ends, and one that begins (R455, R456) -/

theorem dradaCandidates_congr (hr : e.nat Reg.dradaRateMode k = d.nat Reg.dradaRateMode k) (hf : e.nat Reg.dradaFecMode k = d.nat Reg.dradaFecMode k) :
    e.dradaCandidates k = d.dradaCandidates k := by simp only [dradaCandidates, hr, hf]

theorem dradaNoAgree_reads (hk : k < 3) (d : Dev) : (d.dradaNoAgree k).nat Reg.dradaLinkState k = 3 ∧
    (d.dradaNoAgree k).nat Reg.dradaTrainingFailures k = (d.nat Reg.dradaTrainingFailures k + 1) % 2 ^ 32 ∧
    KeepsRegs [Reg.dradaLinkState.key k, Reg.dradaTrainingFailures.key k] d (d.dradaNoAgree k) := by
  have hne : Reg.dradaTrainingFailures.key k ≠ Reg.dradaLinkState.key k := dradaRow_ne (by decide) (by decide) (by decide) k
  unfold dradaNoAgree
  refine ⟨?_, ?_, ?_⟩
  · rw [nat_congr (setDlink_regs _ _ _), notice_nat _ _ _ _ _ _ (dradaRow_untold rfl (by decide) hk), nat_bump_ne _ _ _ _ _ _ _ hne.symm, nat_setNat_same]
  · rw [nat_congr (setDlink_regs _ _ _), notice_nat _ _ _ _ _ _ (dradaRow_untold rfl (by decide) hk), nat_bump_same, nat_setNat_ne _ _ _ _ _ _ _ _ hne]
    rfl
  · have hstate := (KeepsRegs.refl [Reg.dradaLinkState.key k, Reg.dradaTrainingFailures.key k] d).setNat Reg.dradaLinkState 3 k 0 (.head _)
    exact ((hstate.bump Reg.dradaTrainingFailures k 1 (.tail _ (.head _))).told (told_notice _ _ _)).of_regs (setDlink_regs _ _ _)

theorem dradaTrain_disabled (h : d.flag Reg.dradaEnable k = false) (c : Option Nat) :
    d.dradaTrain k c = (d.setNat Reg.dradaLinkState 0 k).setDlink k fun l => { l with cand := 0 } :=
  if_pos (by rw [h]; rfl)

/-- A link begins to train at a candidate. -/
def trainAt (k c : Nat) (d : Dev) : Dev :=
  (d.setNat Reg.dradaLinkState 1 k).setDlink k fun l => { l with cand := c, tried := 1, candAt := d.clock }

theorem dradaTrain_at {c : Nat} (h : d.flag Reg.dradaEnable k = true) (hc : c ∈ d.dradaCandidates k) : d.dradaTrain k (some c) = d.trainAt k c := by
  have hkept : (some c).filter (d.dradaCandidates k).contains = some c := by simp [hc]
  rw [dradaTrain, h]
  simp only [Bool.not_true, Bool.false_eq_true, if_false, hkept]
  rfl

theorem dradaTrain_first {c : Nat} {l : List Nat} (h : d.flag Reg.dradaEnable k = true) (hc : d.dradaCandidates k = c :: l) :
    d.dradaTrain k none = d.trainAt k c := by
  rw [dradaTrain, h]
  simp only [Bool.not_true, Bool.false_eq_true, if_false, hc, Option.filter_none]
  rfl

theorem trainAt_state (k c : Nat) (d : Dev) : (d.trainAt k c).nat Reg.dradaLinkState k = 1 := by
  rw [trainAt, nat_congr (setDlink_regs _ _ _), nat_setNat_same]

theorem trainAt_keepsRegs (k c : Nat) (d : Dev) : KeepsRegs [Reg.dradaLinkState.key k] d (d.trainAt k c) :=
  ((KeepsRegs.refl _ d).setNat Reg.dradaLinkState 1 k 0 (.head _)).of_regs (setDlink_regs _ _ _)

theorem trainAt_dlink (hk : k < 3) (c : Nat) (d : Dev) : ((d.trainAt k c).dlink k).cand = c ∧ ((d.trainAt k c).dlink k).tried = 1 := by
  rw [trainAt, setDlink_dlink_same _ _ _ hk]
  exact ⟨rfl, rfl⟩

/-! ### DRADA_CANDIDATE_TIMEOUT (R455) -/

/-- The candidate after the one that runs, round the list. -/
def nextCandidate (d : Dev) (k : Nat) : Nat :=
  let l := d.dradaCandidates k
  l.getD (((l.findIdx? (· == (d.dlink k).cand)).getD 0 + 1) % l.length) 0

theorem nextCandidate_mem (h : 0 < (d.dradaCandidates k).length) : d.nextCandidate k ∈ d.dradaCandidates k := by
  rw [nextCandidate, List.getD_eq_getElem _ _ (Nat.mod_lt _ h)]
  exact List.getElem_mem _

theorem dlink_advanceTo (t : Nat) (d : Dev) (k : Nat) : (d.advanceTo t).dlink k = d.dlink k := by rw [dlink, advanceTo_drada, dlink]

theorem dradaCandidates_advanceTo (t : Nat) (d : Dev) (k : Nat) : (d.advanceTo t).dradaCandidates k = d.dradaCandidates k :=
  dradaCandidates_congr (nat_congr (advanceTo_regs _ _) _ _ _) (nat_congr (advanceTo_regs _ _) _ _ _)

/-- The next candidate runs. -/
def nextTried (k : Nat) (d : Dev) : Dev := d.setDlink k fun l => { l with cand := d.nextCandidate k, tried := l.tried + 1, candAt := d.clock }

theorem dradaCandTimeout_due (hs : d.nat Reg.dradaLinkState k = 1) (hr : d.Reaches ((d.dlink k).candAt + msCycles 250)) :
    ∃ t, d.dradaCandTimeout k = if (d.dradaCandidates k).length ≤ (d.dlink k).tried then (d.advanceTo t).dradaNoAgree k else (d.advanceTo t).nextTried k := by
  refine ⟨(d.dlink k).candAt + msCycles 250, ?_⟩
  have hcands := dradaCandidates_advanceTo ((d.dlink k).candAt + msCycles 250) d k
  have hlink := dlink_advanceTo ((d.dlink k).candAt + msCycles 250) d k
  rw [dradaCandTimeout, if_neg (not_not_intro hs), onDue_eq _ _ _ hr]
  generalize d.advanceTo ((d.dlink k).candAt + msCycles 250) = e at hcands hlink
  rw [← hcands, ← hlink]
  rfl

/-! ### DRADA_LINK_CELL (R456) -/

theorem linkArrives_agree (hk : k < 3) (hs : d.nat Reg.dradaLinkState k = 1) (wire : Octets) (macsec : Bool) (wake rate : Nat) (serial : Octets) (eye : Eye) :
    d.linkArrives k wire (.agree (d.dlink k).cand macsec wake rate serial eye) =
      if macsec ≠ d.flag Reg.dradaMacsec k ∨ rate ≠ d.fr then d.dradaNoAgree k else d.dradaUp k wake serial eye := by
  have hfree : ¬(d.nat Reg.dradaLinkState k ≠ 1 ∨ (d.dlink k).cand ≠ (d.dlink k).cand) := by simp [hs]
  simp only [linkArrives, linkCell, if_neg (Nat.not_le.2 hk), if_pos hs, dradaAgree, if_neg hfree]

/-- A link is UP as its entries and its neighbour's serial number have it. -/
def upStated (k rate fec wake : Nat) (serial : Octets) (d : Dev) : Dev :=
  ((((d.setNat Reg.dradaLinkState 2 k).setNat Reg.dradaRate rate k).setNat Reg.dradaFec fec k).setNat Reg.dradaWakeAgreed
    (max wake (d.nat Reg.dradaWakeOwn k)) k).setVal Reg.dradaNeighbour (.bytes serial) k

theorem upStated_reads (k rate fec wake : Nat) (serial : Octets) (d : Dev) :
    (d.upStated k rate fec wake serial).nat Reg.dradaLinkState k = 2 ∧ (d.upStated k rate fec wake serial).nat Reg.dradaRate k = rate ∧
    (d.upStated k rate fec wake serial).nat Reg.dradaFec k = fec ∧
    (d.upStated k rate fec wake serial).nat Reg.dradaWakeAgreed k = max wake (d.nat Reg.dradaWakeOwn k) ∧
    (d.upStated k rate fec wake serial).bytes Reg.dradaNeighbour k = serial := by
  have apart {r r' : Row} (hs : r.sub < 0x100) (hs' : r'.sub < 0x100) (h : r.sub ≠ r'.sub) : r.key k ≠ r'.key k := dradaRow_ne hs hs' h k
  have named (r : Row) (hs : r.sub < 0x100) (h : r.sub ≠ 0xB) (x : Dev) : (x.setVal Reg.dradaNeighbour (.bytes serial) k).nat r k = x.nat r k := by
    simp only [nat, int, val_setVal_ne _ _ _ _ _ _ _ _ (apart hs (by decide : Reg.dradaNeighbour.sub < 0x100) h)]
  unfold upStated
  refine ⟨?_, ?_, ?_, ?_, bytes_setVal_same _ _ _ _⟩
  · rw [named _ (by decide) (by decide), nat_setNat_ne _ _ _ _ _ _ _ _ (apart (by decide) (by decide) (by decide)),
      nat_setNat_ne _ _ _ _ _ _ _ _ (apart (by decide) (by decide) (by decide)), nat_setNat_ne _ _ _ _ _ _ _ _ (apart (by decide) (by decide) (by decide)),
      nat_setNat_same]
  · rw [named _ (by decide) (by decide), nat_setNat_ne _ _ _ _ _ _ _ _ (apart (by decide) (by decide) (by decide)),
      nat_setNat_ne _ _ _ _ _ _ _ _ (apart (by decide) (by decide) (by decide)), nat_setNat_same]
  · rw [named _ (by decide) (by decide), nat_setNat_ne _ _ _ _ _ _ _ _ (apart (by decide) (by decide) (by decide)), nat_setNat_same]
  · rw [named _ (by decide) (by decide), nat_setNat_same]

theorem stall_mem (hk : k < 3) : Reg.dradaCreditStalls.key k ∈ stallKeys := by
  match k, hk with
  | 0, _ => exact .head _
  | 1, _ => exact .tail _ (.head _)
  | 2, _ => exact .tail _ (.tail _ (.head _))

theorem stallKeys_upKeys (k : Nat) : ∀ x, x ∈ stallKeys → x ∈ upKeys k := fun _ h => List.mem_append_right _ h

theorem sendLink_keepsRegs (hk : k < 3) (code : Nat) (body : Octets) (d : Dev) : KeepsRegs stallKeys d (d.sendLink k code body) :=
  (sendCell_keepsRegs _ _ _ _ _ _ _ _ _).mono fun _ h => List.mem_singleton.1 h ▸ stall_mem hk

theorem collect_keepsRegs (d : Dev) : KeepsRegs stallKeys d d.collect := by
  unfold collect
  split
  · exact .refl _ d
  · refine (KeepsRegs.refl _ d).foldl fun e x hx => sendLink_keepsRegs ?_ _ _ e
    unfold branchLinks at hx
    split at hx <;> simp only [List.mem_cons, List.not_mem_nil, or_false] at hx <;> omega

/-- Once its entries are set, a link that comes up writes only its lane's eye and the counts of cells that wait. -/
theorem dradaUp_keepsRegs (hk : k < 3) (wake : Nat) (serial : Octets) (eye : Eye) (d : Dev) :
    KeepsRegs (upKeys k) (d.upStated k (dradaCandidate (d.dlink k).cand).1 (dradaCandidate (d.dlink k).cand).2 wake serial) (d.dradaUp k wake serial eye) := by
  unfold dradaUp
  extract_lets c r d1 d2 d3 d4 d5
  have h2 : KeepsRegs (upKeys k) (d.upStated k r.1 r.2 wake serial) d2 := (KeepsRegs.refl _ _).of_regs (setDlink_regs _ _ _)
  have hstored : KeepsRegs (upKeys k) d2 (d2.storeEye (4 + k) eye) :=
    ((eyeStored_keepsRegs _ _ _).mono fun _ h => List.mem_append_left _ (.tail _ h)).trans
      ((storeEye_keepsRegs _ _ _).mono fun _ h => List.mem_singleton.1 h ▸ .head _)
  have h3 : KeepsRegs (upKeys k) d2 d3 := hstored.told (told_notice _ _ _)
  have h4 : KeepsRegs (upKeys k) d3 d4 := (sendLink_keepsRegs hk _ _ _).mono (stallKeys_upKeys k)
  have h5 : KeepsRegs (upKeys k) d4 d5 := by
    unfold d5
    split
    · exact (tellPartner_leaves _ _ _).1.mono fun _ h => stallKeys_upKeys k _ (List.mem_singleton.1 h ▸ stall_mem (by decide))
    · exact .refl _ _
  exact (((h2.trans h3).trans h4).trans h5).trans ((collect_keepsRegs _).mono (stallKeys_upKeys k))

theorem dradaUp_reads (hk : k < 3) (wake : Nat) (serial : Octets) (eye : Eye) (d : Dev) :
    (d.dradaUp k wake serial eye).nat Reg.dradaLinkState k = 2 ∧
    (d.dradaUp k wake serial eye).nat Reg.dradaRate k = (dradaCandidate (d.dlink k).cand).1 ∧
    (d.dradaUp k wake serial eye).nat Reg.dradaFec k = (dradaCandidate (d.dlink k).cand).2 ∧
    (d.dradaUp k wake serial eye).bytes Reg.dradaNeighbour k = serial ∧
    (d.dradaUp k wake serial eye).nat Reg.dradaWakeAgreed k = max wake (d.nat Reg.dradaWakeOwn k) := by
  have hkeeps := dradaUp_keepsRegs hk wake serial eye d
  obtain ⟨hstate, hrate, hfec, hwake, hserial⟩ :=
    upStated_reads k (dradaCandidate (d.dlink k).cand).1 (dradaCandidate (d.dlink k).cand).2 wake serial d
  have read (r : Row) (hb : r.base = 0x8110) (hs : r.sub < 0x100) (hr : r.sub ≠ 0x14) := hkeeps.val r k (dradaRow_upKeys hb hs hr k) (dradaRow_untold hb hs hk)
  have readNat (r : Row) (hb : r.base = 0x8110) (hs : r.sub < 0x100) (hr : r.sub ≠ 0x14) := hkeeps.nat r k 0 (dradaRow_upKeys hb hs hr k) (dradaRow_untold hb hs hk)
  refine ⟨?_, ?_, ?_, ?_, ?_⟩
  · rw [readNat Reg.dradaLinkState rfl (by decide) (by decide), hstate]
  · rw [readNat Reg.dradaRate rfl (by decide) (by decide), hrate]
  · rw [readNat Reg.dradaFec rfl (by decide) (by decide), hfec]
  · rw [bytes, read Reg.dradaNeighbour rfl (by decide) (by decide), ← bytes, hserial]
  · rw [readNat Reg.dradaWakeAgreed rfl (by decide) (by decide), hwake]

/-! ### DRADA_LINK_DOWN outside a formed group (R457) -/

theorem switchSource_drada (new : Nat) (d : Dev) : (d.switchSource new).drada = d.drada := by
  unfold switchSource
  dsimp only
  split
  · rfl
  · rw [setAlm_drada, notice_drada, bump_drada, setNat_drada, setNat_drada]

theorem recTrigger_drada (bit : Nat) (d : Dev) : (d.recTrigger bit).drada = d.drada := (congrArg Dev.drada (recTrigger_untold bit d d) :)

theorem sourceLost_drada (code : Nat) (d : Dev) : (d.sourceLost code).drada = d.drada := by
  unfold sourceLost
  extract_lets d1 v d2 d3
  have h1 : d1.drada = d.drada := setAlm_drada _ _
  split
  · exact h1
  · have h3 : d3.drada = d1.drada := by rw [recTrigger_drada, notice_drada, bump_drada, setNat_drada, setInt_drada]; rfl
    split
    · rw [switchSource_drada, h3, h1]
    · rw [h3, h1]

theorem dpDown_frame (d : Dev) : d.dpDown.drada = d.drada ∧ KeepsRegs [Reg.pairState.key] d d.dpDown := by
  unfold dpDown
  split
  · exact ⟨rfl, .refl _ d⟩
  · extract_lets d1
    have hpair : d1.drada = d.drada ∧ KeepsRegs [Reg.pairState.key] d d1 := ⟨setPair_drada _ _, (KeepsRegs.refl _ d).of_regs (setPair_regs _ _)⟩
    split
    · refine ⟨?_, hpair.2.trans (setPairState_keepsRegs 4 _)⟩
      rw [← hpair.1, setPairState]
      split
      · rfl
      · rw [notice_drada, setNat_drada]
    · exact hpair

/-- The entries of a link that its fall writes before it trains again. -/
def fallKeys (k : Nat) : List Nat :=
  [Reg.dradaLinkState.key k, Reg.dradaRate.key k, Reg.dradaFec.key k, Reg.dradaWakeAgreed.key k, Reg.dradaLinkDowns.key k]

/-- The fall of a link, as its Drada block has it. -/
def linkFallen (l : DradaLink) : DradaLink :=
  { l with waiting := [], replay := [], freed := [0, 0, 0], failed := 0, replayAsked := none, timeSent := none, timeGood := 0 }

/-- A link that has fallen, its fall counted and told. -/
def fallen (k : Nat) (d : Dev) : Dev :=
  ((((((d.setNat Reg.dradaLinkState 0 k).setNat Reg.dradaRate 0 k).setNat Reg.dradaFec 0 k).setNat Reg.dradaWakeAgreed 0 k).setDlink k linkFallen).bump
    Reg.dradaLinkDowns k).notice 0x8102 k

/-- Source 6 is lost with the link to the head, and the partner with the direct link. -/
def fallTold (k : Nat) (d : Dev) : Dev :=
  let d := if k = 0 ∧ d.alm.dradaOk then (d.setAlm fun a => { a with dradaOk := false }).sourceLost 6 else d
  if k = 2 then d.dpDown else d

theorem dradaDown_eq (h : d.nat Reg.dradaLinkState k = 2) (hf : ((d.fallen k).fallTold k).drada.formed = false) :
    d.dradaDown k true = ((d.fallen k).fallTold k).dradaTrain k (some (((d.fallen k).fallTold k).dlink k).lastGood) := by
  have hup : d.dlinkUp k = true := by rw [dlinkUp, h]; rfl
  have hgroup : ((d.fallen k).fallTold k).groupLinkLost k = (d.fallen k).fallTold k := if_pos (by rw [hf]; rfl)
  rw [← hgroup, dradaDown, hup]
  delta fallTold fallen linkFallen
  simp only [Bool.not_true, Bool.false_eq_true, if_false, if_true]

theorem fallen_drada (k : Nat) (d : Dev) : (d.fallen k).drada = (d.setDlink k linkFallen).drada := by
  rw [fallen, notice_drada, bump_drada]
  rfl

theorem fallen_keepsRegs (k : Nat) (d : Dev) : KeepsRegs (fallKeys k) d (d.fallen k) := by
  have hstate := (KeepsRegs.refl (fallKeys k) d).setNat Reg.dradaLinkState 0 k 0 (by simp [fallKeys])
  have hrate := hstate.setNat Reg.dradaRate 0 k 0 (by simp [fallKeys])
  have hfec := hrate.setNat Reg.dradaFec 0 k 0 (by simp [fallKeys])
  have hwake := hfec.setNat Reg.dradaWakeAgreed 0 k 0 (by simp [fallKeys])
  exact ((hwake.of_regs (setDlink_regs k _ _)).bump Reg.dradaLinkDowns k 1 (by simp [fallKeys])).told (told_notice _ _ _)

theorem fallen_reads (hk : k < 3) (d : Dev) :
    (d.fallen k).nat Reg.dradaRate k = 0 ∧ (d.fallen k).nat Reg.dradaLinkDowns k = (d.nat Reg.dradaLinkDowns k + 1) % 2 ^ 32 := by
  have apart {r r' : Row} (hs : r.sub < 0x100) (hs' : r'.sub < 0x100) (h : r.sub ≠ r'.sub) : r.key k ≠ r'.key k := dradaRow_ne hs hs' h k
  unfold fallen
  refine ⟨?_, ?_⟩
  · rw [notice_nat _ _ _ _ _ _ (dradaRow_untold rfl (by decide) hk), nat_bump_ne _ _ _ _ _ _ _ (apart (by decide) (by decide) (by decide)),
      nat_congr (setDlink_regs _ _ _), nat_setNat_ne _ _ _ _ _ _ _ _ (apart (by decide) (by decide) (by decide)),
      nat_setNat_ne _ _ _ _ _ _ _ _ (apart (by decide) (by decide) (by decide)), nat_setNat_same]
  · rw [notice_nat _ _ _ _ _ _ (dradaRow_untold rfl (by decide) hk), nat_bump_same, nat_congr (setDlink_regs _ _ _),
      nat_setNat_ne _ _ _ _ _ _ _ _ (apart (by decide) (by decide) (by decide)), nat_setNat_ne _ _ _ _ _ _ _ _ (apart (by decide) (by decide) (by decide)),
      nat_setNat_ne _ _ _ _ _ _ _ _ (apart (by decide) (by decide) (by decide)), nat_setNat_ne _ _ _ _ _ _ _ _ (apart (by decide) (by decide) (by decide))]
    rfl

theorem fallTold_frame (k : Nat) (d : Dev) : (d.fallTold k).drada = d.drada ∧ KeepsRegs lossKeys d (d.fallTold k) := by
  unfold fallTold
  extract_lets d1
  have h1 : d1.drada = d.drada ∧ KeepsRegs lossKeys d d1 := by
    unfold d1
    split
    · refine ⟨(sourceLost_drada _ _).trans (setAlm_drada _ _), ?_⟩
      exact ((KeepsRegs.refl _ d).of_regs (setAlm_regs _ _)).trans ((sourced_sourceLost 6 _).regs.mono fun _ h => .tail _ h)
    · exact ⟨rfl, .refl _ d⟩
  split
  · obtain ⟨hdrada, hregs⟩ := dpDown_frame d1
    exact ⟨hdrada.trans h1.1, h1.2.trans (hregs.mono fun _ h => List.mem_singleton.1 h ▸ .head _)⟩
  · exact h1

/-- What a fall leaves: the settings of the link, its last good candidate and the group; its fall is counted and its rate gone. -/
theorem fall_reads (hk : k < 3) (d : Dev) :
    ((d.fallen k).fallTold k).nat Reg.dradaRate k = 0 ∧
    ((d.fallen k).fallTold k).nat Reg.dradaLinkDowns k = (d.nat Reg.dradaLinkDowns k + 1) % 2 ^ 32 ∧
    ((d.fallen k).fallTold k).flag Reg.dradaEnable k = d.flag Reg.dradaEnable k ∧
    ((d.fallen k).fallTold k).dradaCandidates k = d.dradaCandidates k ∧
    (((d.fallen k).fallTold k).dlink k).lastGood = (d.dlink k).lastGood ∧
    ((d.fallen k).fallTold k).drada.formed = d.drada.formed := by
  obtain ⟨hdrada, hloss⟩ := fallTold_frame k (d.fallen k)
  obtain ⟨hrate, hdowns⟩ := fallen_reads hk d
  have hfall := fallen_keepsRegs k d
  have later (r : Row) (hb : r.base = 0x8110) (hs : r.sub < 0x100) := hloss.nat r k 0 (dradaRow_lossKeys hb hs hk) (dradaRow_untold hb hs hk)
  have setting (r : Row) (hb : r.base = 0x8110) (hs : r.sub < 5) : r.key k ∉ fallKeys k := by
    rw [dradaRow_key hb]
    simp only [fallKeys, List.mem_cons, List.not_mem_nil, or_false, dradaLinkState_key, dradaRate_key, dradaFec_key, dradaWakeAgreed_key, dradaLinkDowns_key]
    omega
  have stays (r : Row) (hb : r.base = 0x8110) (hs : r.sub < 5) : ((d.fallen k).fallTold k).nat r k = d.nat r k :=
    (later r hb (by omega)).trans (hfall.nat r k 0 (setting r hb hs) (dradaRow_untold hb (by omega) hk))
  refine ⟨(later _ rfl (by decide)).trans hrate, (later _ rfl (by decide)).trans hdowns, ?_, ?_, ?_, ?_⟩
  · simp only [flag, stays Reg.dradaEnable rfl (by decide)]
  · exact dradaCandidates_congr (stays _ rfl (by decide)) (stays _ rfl (by decide))
  · rw [dlink, hdrada, fallen_drada]
    exact (congrArg DradaLink.lastGood (setDlink_dlink_same d k linkFallen hk) : _ = (linkFallen (d.dlink k)).lastGood)
  · rw [hdrada, fallen_drada]
    rfl

theorem dradaDown_notUp (h : d.nat Reg.dradaLinkState k ≠ 2) (counted : Bool) : d.dradaDown k counted = d :=
  if_pos (by rw [dlinkUp, beq_eq_false_iff_ne.2 h]; rfl)

theorem dradaDown_enabled (hk : k < 3) (h : d.nat Reg.dradaLinkState k = 2) (hf : d.drada.formed = false) (he : d.flag Reg.dradaEnable k = true)
    (hc : (d.dlink k).lastGood ∈ d.dradaCandidates k) :
    (d.dradaDown k true).nat Reg.dradaLinkState k = 1 ∧ (d.dradaDown k true).nat Reg.dradaRate k = 0 ∧
    ((d.dradaDown k true).dlink k).cand = (d.dlink k).lastGood ∧ (d.dradaDown k true).nat Reg.dradaLinkDowns k = (d.nat Reg.dradaLinkDowns k + 1) % 2 ^ 32 := by
  obtain ⟨hrate, hdowns, hen, hcand, hgood, hform⟩ := fall_reads hk d
  rw [dradaDown_eq h (hform.trans hf), hgood]
  generalize (d.fallen k).fallTold k = f at hrate hdowns hen hcand
  rw [dradaTrain_at (hen.trans he) (hcand ▸ hc)]
  have read (r : Row) (hb : r.base = 0x8110) (hs : r.sub < 0x100) (hne : r.sub ≠ 8) := (trainAt_keepsRegs k (d.dlink k).lastGood f).nat r k 0
    (fun h => dradaRow_ne hs (by decide) hne k (List.mem_singleton.1 h)) (dradaRow_untold hb hs hk)
  exact ⟨trainAt_state _ _ _, (read _ rfl (by decide) (by decide)).trans hrate, (trainAt_dlink hk _ _).1, (read _ rfl (by decide) (by decide)).trans hdowns⟩

theorem dradaDown_disabled (hk : k < 3) (h : d.nat Reg.dradaLinkState k = 2) (hf : d.drada.formed = false) (he : d.flag Reg.dradaEnable k = false) :
    (d.dradaDown k true).nat Reg.dradaLinkState k = 0 ∧ (d.dradaDown k true).nat Reg.dradaRate k = 0 ∧
    (d.dradaDown k true).nat Reg.dradaLinkDowns k = (d.nat Reg.dradaLinkDowns k + 1) % 2 ^ 32 := by
  obtain ⟨hrate, hdowns, hen, -, -, hform⟩ := fall_reads hk d
  rw [dradaDown_eq h (hform.trans hf)]
  generalize (d.fallen k).fallTold k = f at hrate hdowns hen
  rw [dradaTrain_disabled (hen.trans he)]
  have apart (r : Row) (hs : r.sub < 0x100) (hne : r.sub ≠ 8) : r.key k ≠ Reg.dradaLinkState.key k := dradaRow_ne hs (by decide) hne k
  refine ⟨?_, ?_, ?_⟩
  · rw [nat_congr (setDlink_regs _ _ _), nat_setNat_same]
  · rw [nat_congr (setDlink_regs _ _ _), nat_setNat_ne _ _ _ _ _ _ _ _ (apart _ (by decide) (by decide)), hrate]
  · rw [nat_congr (setDlink_regs _ _ _), nat_setNat_ne _ _ _ _ _ _ _ _ (apart _ (by decide) (by decide)), hdowns]

/-! ### DRADA_RETRY_CYCLE and DRADA_IDLE_ENTRY (R456, R479) -/

theorem dradaRetry_first {c : Nat} {l : List Nat} (hs : d.nat Reg.dradaLinkState k = 3) (he : d.flag Reg.dradaEnable k = true)
    (hc : d.dradaCandidates k = c :: l) (hr : d.Reaches ((d.dlink k).candAt + secCycles 2)) :
    ∃ t, d.dradaRetry k = (d.advanceTo t).trainAt k c := by
  refine ⟨(d.dlink k).candAt + secCycles 2, ?_⟩
  rw [dradaRetry, if_pos hs, onDue_eq _ _ _ hr]
  exact dradaTrain_first ((flag_congr (advanceTo_regs _ _) _ _).trans he) ((dradaCandidates_advanceTo _ _ _).trans hc)

theorem idleEntry_due (hs : d.nat Reg.dradaLinkState k = 2) (hi : (d.dlink k).idle = false) (hw : (d.dlink k).waiting = [])
    (hr : d.Reaches ((d.dlink k).busyAt + usCycles (d.nat Reg.dradaIdleAfter k))) :
    ∃ t, d.idleEntry k = ((d.advanceTo t).setDlink k fun l => { l with idle := true }).bump Reg.dradaIdleEntries k := by
  refine ⟨(d.dlink k).busyAt + usCycles (d.nat Reg.dradaIdleAfter k), ?_⟩
  rw [idleEntry]
  simp only [dlinkUp, hs, hi, hw, beq_self_eq_true, Bool.not_true, Bool.false_eq_true, List.isEmpty_nil, or_false, if_false, onDue_eq _ _ _ hr]

end Dev

/-- Settles O46: one law for each of the events, read off the entries of the link. -/
theorem dradaTraining : Obligations.DradaTraining := by
  unfold Obligations.DradaTraining
  intro s ha k hk
  refine ⟨fun hs hr => ⟨fun hall => ?_, fun hmore => ?_⟩, fun cell wake serial eye hs => ?_, fun cell macsec wake rate serial eye hs hdiff => ?_,
    fun hs hf => ⟨fun he hgood => ?_, fun he => ?_⟩, fun hs => ?_, fun c l hs he hc hr => ?_, fun hs hi hw hr => ?_⟩
  · obtain ⟨t, ht⟩ := Dev.dradaCandTimeout_due hs hr
    refine up_completes (f := Dev.dradaCandTimeout k) rfl ha ?_
    rw [ht, if_pos hall]
    obtain ⟨hstate, hfailed, hkeeps⟩ := Dev.dradaNoAgree_reads hk (s.dev.advanceTo t)
    exact ⟨hstate, hfailed.trans (by rw [Dev.nat_congr (Dev.advanceTo_regs _ _)]), (Dev.KeepsRegs.advanceTo t s.dev).trans hkeeps⟩
  · obtain ⟨t, ht⟩ := Dev.dradaCandTimeout_due hs hr
    refine up_completes (f := Dev.dradaCandTimeout k) rfl ha ?_
    rw [ht, if_neg (Nat.not_le.2 hmore), Dev.nextTried, Dev.setDlink_dlink_same _ _ _ hk]
    have hcands := Dev.dradaCandidates_advanceTo t s.dev k
    refine ⟨hcands ▸ Dev.nextCandidate_mem (by rw [hcands]; omega), ?_, Dev.advanceTo_regs t s.dev⟩
    exact congrArg (fun l : DradaLink => l.tried + 1) (Dev.dlink_advanceTo t s.dev k)
  · refine up_completes (f := Dev.linkArrives k cell _) rfl ha ?_
    rw [Dev.linkArrives_agree hk hs, if_neg (by simp)]
    exact Dev.dradaUp_reads hk wake serial eye s.dev
  · refine up_completes (f := Dev.linkArrives k cell _) rfl ha ?_
    rw [Dev.linkArrives_agree hk hs, if_pos hdiff]
    exact Dev.dradaNoAgree_reads hk s.dev
  · exact up_completes (f := Dev.dradaDown k true) rfl ha (Dev.dradaDown_enabled hk hs hf he hgood)
  · exact up_completes (f := Dev.dradaDown k true) rfl ha (Dev.dradaDown_disabled hk hs hf he)
  · exact up_completes (f := Dev.dradaDown k true) rfl ha (Dev.dradaDown_notUp hs true)
  · obtain ⟨t, ht⟩ := Dev.dradaRetry_first hs he hc hr
    refine up_completes (f := Dev.dradaRetry k) rfl ha ?_
    rw [ht]
    obtain ⟨hcand, htried⟩ := Dev.trainAt_dlink hk c (s.dev.advanceTo t)
    exact ⟨Dev.trainAt_state _ _ _, hcand, htried, (Dev.KeepsRegs.advanceTo t s.dev).trans (Dev.trainAt_keepsRegs _ _ _)⟩
  · obtain ⟨t, ht⟩ := Dev.idleEntry_due hs hi hw hr
    refine up_completes (f := Dev.idleEntry k) rfl ha ?_
    rw [ht]
    refine ⟨?_, ?_, ?_⟩
    · rw [Dev.bump_dlink, Dev.setDlink_dlink_same _ _ _ hk]
    · rw [Dev.nat_bump_same, Dev.nat_congr (Dev.setDlink_regs _ _ _), Dev.nat_congr (Dev.advanceTo_regs _ _)]
      rfl
    · exact ((Dev.KeepsRegs.advanceTo t s.dev).of_regs (Dev.setDlink_regs _ _ _)).bump Reg.dradaIdleEntries k 1 (.head _)

end Sys2Proof.Machine
end

