-- ==== Sys2Proof/Proofs/CellChecks.lean ====
section
/-! The cell that a lane's flits carry, and the cell that fails its checks, whatever row delivers it (R458, R459, R464). -/

namespace Sys2Proof.Machine

/-! ### Flits there and back (R458) -/

theorem beAt_toBE2 {v : Nat} (h : v < 65536) (t : Octets) : beAt (toBE 2 v ++ t) 0 2 = v := by
  simp [beAt, fromBE, toBE, octet]
  omega

/-- The tag of a flit (Table 16-2). -/
def flitTag (vc : Nat) (last first : Bool) : Nat := vc % 4 * 16384 + b2n last * 8192 + b2n first * 4096

theorem flitTag_bits (vc : Nat) (last first : Bool) : flitTag vc last first < 65536 ∧ flitTag vc last first % 4096 = 0 ∧
    (flitTag vc last first).testBit 12 = first ∧ (flitTag vc last first).testBit 13 = last := by
  have each : ∀ v < 4, ∀ last first : Bool, v * 16384 + b2n last * 8192 + b2n first * 4096 < 65536 ∧
      (v * 16384 + b2n last * 8192 + b2n first * 4096) % 4096 = 0 ∧ (v * 16384 + b2n last * 8192 + b2n first * 4096).testBit 12 = first ∧
      (v * 16384 + b2n last * 8192 + b2n first * 4096).testBit 13 = last := by decide
  exact each (vc % 4) (Nat.mod_lt _ (by decide)) last first

/-- A flit in its place, read: the last of its cell, or one with more behind it. -/
theorem fromLane_flit (vc n : Nat) (last first : Bool) {body : Octets} (hb : body ≠ []) :
    fromLane first (n + 1) (toBE 2 (flitTag vc last first) ++ body) =
      if last then (if body.length ≤ 64 then some body else none)
      else if body.length ≤ 64 then none else (fromLane false n (body.drop 64)).map fun t => body.take 64 ++ t := by
  obtain ⟨hlt, hreserved, hfirst, hlast⟩ := flitTag_bits vc last first
  have hdrop : (toBE 2 (flitTag vc last first) ++ body).drop 2 = body := List.drop_left' (Dev.length_toBE 2 _)
  have hfit : ¬(flitTag vc last first % 4096 ≠ 0 ∨ (flitTag vc last first).testBit 12 ≠ first ∨ body.isEmpty = true) := by
    simp [hreserved, hfirst, hb]
  rw [fromLane, beAt_toBE2 hlt, hdrop, if_neg hfit, hlast]

/-- What the flits of a cell carry is the cell, with fuel enough on both sides. -/
theorem fromLane_flits (vc : Nat) : ∀ (n m : Nat) (first : Bool) (cell : Octets), cell ≠ [] → cell.length ≤ 64 * n → n ≤ m →
    fromLane first m (flits vc first n cell) = some cell
  | 0, _, _, cell, hc, hl, _ => absurd (List.eq_nil_of_length_eq_zero (Nat.le_zero.1 hl)) hc
  | n + 1, 0, _, _, _, _, hm => absurd hm (Nat.not_succ_le_zero n)
  | n + 1, m + 1, first, cell, hc, hl, hm => by
    rw [flits]
    by_cases hlast : cell.length ≤ 64
    · have hall : cell.take 64 = cell := List.take_of_length_le hlast
      simp only [hlast, decide_true, if_true, List.append_nil, hall]
      exact (fromLane_flit vc m true first hc).trans (if_pos hlast)
    · have hlong : 64 < cell.length := Nat.lt_of_not_le hlast
      have htake : (cell.take 64).length = 64 := List.length_take_of_le hlong.le
      have hrest : cell.drop 64 ≠ [] := fun h => by
        have := congrArg List.length h
        rw [List.length_drop, List.length_nil] at this
        omega
      have ih := fromLane_flits vc n m false (cell.drop 64) hrest (by rw [List.length_drop]; omega) (Nat.le_of_succ_le_succ hm)
      have hbehind : flits vc false n (cell.drop 64) ≠ [] := fun h => by
        rw [h] at ih
        cases m <;> simp [fromLane] at ih
      have hbody : ¬(cell.take 64 ++ flits vc false n (cell.drop 64)).length ≤ 64 := by
        have := List.length_pos_iff.2 hbehind
        rw [List.length_append, htake]
        omega
      simp only [hlast, decide_false, Bool.false_eq_true, if_false, List.append_assoc]
      refine (fromLane_flit vc m false first (fun h => hbehind (List.append_eq_nil_iff.1 h).2)).trans ?_
      rw [if_neg Bool.false_ne_true, if_neg hbody, List.drop_left' htake, List.take_left' htake, ih]
      exact congrArg some (List.take_append_drop 64 cell)

theorem length_flits (vc : Nat) : ∀ (n : Nat) (first : Bool) (cell : Octets), cell.length ≤ 64 * n → cell.length ≤ (flits vc first n cell).length
  | 0, _, _, h => h.trans (Nat.zero_le _)
  | n + 1, first, cell, h => by
    rw [flits]
    by_cases hlast : cell.length ≤ 64
    · simp only [hlast, decide_true, if_true, List.append_nil, List.length_append, List.take_of_length_le hlast]
      omega
    · have ih := length_flits vc n false (cell.drop 64) (by rw [List.length_drop]; omega)
      rw [List.length_drop] at ih
      simp only [hlast, decide_false, Bool.false_eq_true, if_false, List.length_append, List.length_take]
      omega

theorem fromLane_onLane (vc : Nat) {cell : Octets} (h : cell ≠ []) : fromLane true (onLane vc cell).length (onLane vc cell) = some cell :=
  fromLane_flits vc _ _ true cell h (by omega) (length_flits vc _ true cell (by omega))

namespace Dev

variable {d e : Dev} {k : Nat} {w cell : Octets}

/-! ### A cell's checks (R459, R464) -/

/-- A cell of a length that is out of bounds, no multiple of 4, or other than its Length field. -/
def misshapen (cell : Octets) : Prop := cell.length < 64 ∨ 4096 < cell.length ∨ cell.length % 4 ≠ 0 ∨ beAt cell 4 2 ≠ cell.length

theorem cellHold_none (h : nget? d.perturb.dradaDelay k = none) : d.cellHold k = d := if_pos (by rw [nget, h]; rfl)

theorem receiveCell_down (hp : nget? d.perturb.dradaDelay k = none) (h : d.nat Reg.dradaLinkState k ≠ 2) (w : Octets) : d.receiveCell k w = (d, none) := by
  have hdown : d.dlinkUp k = false := beq_eq_false_iff_ne.2 h
  rw [receiveCell]
  dsimp only
  rw [cellHold_none hp, hdown]
  rfl

section
variable (hp : nget? d.perturb.dradaDelay k = none) (h : d.nat Reg.dradaLinkState k = 2) (hm : d.flag Reg.dradaMacsec k = false)
  (hw : fromLane true w.length w = some cell)
include hp h hm hw

theorem receiveCell_malformed (hc : misshapen cell) : d.receiveCell k w = (d.bump Reg.dradaMalformed k, none) := by
  have hup : d.dlinkUp k = true := beq_iff_eq.2 h
  have hopen : d.openCell k cell = some cell := by rw [openCell, hm]; rfl
  rw [receiveCell]
  dsimp only
  rw [cellHold_none hp, hup, hw, Bool.not_true, if_neg Bool.false_ne_true]
  dsimp only
  rw [hopen]
  exact if_pos hc

theorem receiveCell_stomped (hc : ¬misshapen cell) (hcrc : crcState cell = 1) : d.receiveCell k w = (d.bump Reg.dradaStomped k, none) := by
  have hup : d.dlinkUp k = true := beq_iff_eq.2 h
  have hopen : d.openCell k cell = some cell := by rw [openCell, hm]; rfl
  rw [receiveCell]
  dsimp only
  rw [cellHold_none hp, hup, hw, Bool.not_true, if_neg Bool.false_ne_true]
  dsimp only
  rw [hopen]
  exact (if_neg hc).trans (if_pos hcrc)

end

/-! ### What was sent on of a bad FEED cell (R464) -/

theorem stompFeed_down (h : d.nat Reg.dradaLinkState k ≠ 2) (w : Octets) : d.stompFeed k w = d :=
  if_pos (.inl (by rw [dlinkUp, beq_eq_false_iff_ne.2 h]; rfl))

/-- What a cell's checks depend on, and its outcome tells of: the entries, the links and the perturbations. -/
def linkPart (d : Dev) : NMap Val × Drada × Perturb := (d.regs, d.drada, d.perturb)

theorem stompCell_linkPart (j : Nat) (cell : Octets) (d : Dev) : (d.stompCell j cell).linkPart = d.linkPart := by
  unfold stompCell
  split
  · rfl
  · split <;> rfl

theorem stompFeed_linkPart (k : Nat) (w : Octets) (d : Dev) : (d.stompFeed k w).linkPart = d.linkPart := by
  unfold stompFeed
  split
  · rfl
  · split
    · rfl
    · extract_lets bad
      split
      · exact foldl_frame linkPart (fun e j => stompCell_linkPart j _ e) _ _
      · rfl

/-! ### The rows that deliver a cell -/

/-- What a row makes of a cell that the link's receive path does not hand on. -/
theorem rejected_rows (hr : d.receiveCell k w = (e, none)) (f : TickFrame) (mem : List Host.Cell) (c : CalMsg) (m : MotionMsg) (t : TimeMsg) :
    d.tickCell k w f = e ∧ d.controlCell mem k w = e ∧ d.calendarCell k w c = e ∧ d.motionCell k w m = e ∧ d.timeCell k w t = e ∧
    d.creditCell k w = e ∧ d.replayCell k w = e := by
  have hpass (type : CellType) (settled : Bool) : d.passCell k type settled w = (e, none) := by simp only [passCell, hr]
  refine ⟨?_, ?_, ?_, ?_, ?_, ?_, ?_⟩
  · rw [tickCell, hr]
  · rw [controlCell, hpass]
  · rw [calendarCell, hpass]
  · rw [motionCell, hpass]
  · rw [timeCell, hr]
  · rw [creditCell, hr]
  · rw [replayCell, hr]

theorem feedCell_rejected (hr : (d.stompFeed k w).receiveCell k w = (e, none)) : d.feedCell k w = e := by
  unfold feedCell
  rw [hr]

end Dev

/-- A cell that the link's receive path does not hand on: every row leaves what that path leaves. -/
theorem cellRow_completes {s : State} {k : Nat} {w : Octets} {P : Dev → Prop} {e e' : Dev} (ha : s.dev.answers = true)
    (hr : s.dev.receiveCell k w = (e, none)) (hf : (s.dev.stompFeed k w).receiveCell k w = (e', none)) (hp : P e) (hp' : P e')
    (f : TickFrame) (c : CalMsg) (m : MotionMsg) (t : TimeMsg) :
    ∀ i ∈ [Instr.dradaFeedCell k w, .dradaTickCell k w f, .dradaControlCell k w, .dradaCalendarCell k w c, .dradaMotionCell k w m,
      .dradaTimeCell k w t, .dradaCreditCell k w, .dradaReplayCell k w], Completes i s P := by
  obtain ⟨htick, hcontrol, hcalendar, hmotion, htime, hcredit, hreplay⟩ := Dev.rejected_rows hr f s.mem c m t
  simp only [List.mem_cons, List.not_mem_nil, or_false, forall_eq_or_imp, forall_eq]
  refine ⟨?_, ?_, ?_, ?_, ?_, ?_, ?_, ?_⟩
  · exact up_completes (f := Dev.feedCell k w) rfl ha ((Dev.feedCell_rejected hf).symm ▸ hp')
  · exact up_completes (f := Dev.tickCell k w f) rfl ha (htick.symm ▸ hp)
  · exact controlCell_completes ha (hcontrol.symm ▸ hp)
  · exact up_completes (f := Dev.calendarCell k w c) rfl ha (hcalendar.symm ▸ hp)
  · exact up_completes (f := Dev.motionCell k w m) rfl ha (hmotion.symm ▸ hp)
  · exact up_completes (f := Dev.timeCell k w t) rfl ha (htime.symm ▸ hp)
  · exact up_completes (f := Dev.creditCell k w) rfl ha (hcredit.symm ▸ hp)
  · exact up_completes (f := Dev.replayCell k w) rfl ha (hreplay.symm ▸ hp)

/-- A failed check counts in one entry, of a link whose row is `r`. -/
def CountsIn (r : Row) (k : Nat) (d e : Dev) : Prop :=
  e.nat r k = (d.nat r k + 1) % 2 ^ 32 ∧ d.KeepsRegs [r.key k] e ∧ e.drada = d.drada

theorem countsIn_bump {d e : Dev} {r : Row} (k : Nat) (hr : r.ty.size = 4) (h : e.linkPart = d.linkPart) : CountsIn r k d (e.bump r k) := by
  have hregs : e.regs = d.regs := congrArg Prod.fst h
  have hdrada : e.drada = d.drada := congrArg (·.2.1) h
  refine ⟨?_, ((Dev.KeepsRegs.refl _ d).of_regs hregs).bump r k 1 (.head _), (Dev.bump_drada _ _ _ _).trans hdrada⟩
  rw [Dev.nat_bump_same, hr, Dev.nat_congr hregs]
  rfl

/-- Settles O47: the flits of a cell give it back, its checks end its way, and each row leaves what they leave. -/
theorem cellChecks : Obligations.CellChecks := by
  unfold Obligations.CellChecks
  intro s ha k _ hp vc cell w f c m t i hi
  have hstomp := Dev.stompFeed_linkPart k w s.dev
  have hregs : (s.dev.stompFeed k w).regs = s.dev.regs := congrArg Prod.fst hstomp
  have hp' : nget? (s.dev.stompFeed k w).perturb.dradaDelay k = none := (congrArg (fun x => nget? x.2.2.dradaDelay k) hstomp :).trans hp
  have hstate : (s.dev.stompFeed k w).nat Reg.dradaLinkState k = s.dev.nat Reg.dradaLinkState k := Dev.nat_congr hregs _ _ _
  have hmacsec : (s.dev.stompFeed k w).flag Reg.dradaMacsec k = s.dev.flag Reg.dradaMacsec k := Dev.flag_congr hregs _ _
  refine ⟨fun hs => ?_, fun hs hm hw h64 h4096 h4 hlen hcrc => ?_, fun hs hm hw hne hc => ?_⟩
  · have hr := Dev.receiveCell_down hp hs w
    exact cellRow_completes (P := fun d => d = s.dev) ha hr (by rw [Dev.stompFeed_down hs, hr]) rfl rfl f c m t i hi
  · have hlane := fromLane_onLane vc (cell := cell) fun h => by simp [h] at h64
    rw [← hw] at hlane
    have hc : ¬Dev.misshapen cell := by
      unfold Dev.misshapen
      omega
    exact cellRow_completes ha (Dev.receiveCell_stomped hp hs hm hlane hc hcrc)
      (Dev.receiveCell_stomped hp' (hstate.trans hs) (hmacsec.trans hm) hlane hc hcrc)
      (countsIn_bump (r := Reg.dradaStomped) k rfl rfl) (countsIn_bump (r := Reg.dradaStomped) k rfl hstomp) f c m t i hi
  · have hlane := fromLane_onLane vc hne
    rw [← hw] at hlane
    exact cellRow_completes ha (Dev.receiveCell_malformed hp hs hm hlane hc)
      (Dev.receiveCell_malformed hp' (hstate.trans hs) (hmacsec.trans hm) hlane hc)
      (countsIn_bump (r := Reg.dradaMalformed) k rfl rfl) (countsIn_bump (r := Reg.dradaMalformed) k rfl hstomp) f c m t i hi

end Sys2Proof.Machine
end

