-- ==== Sys2Proof/Proofs/LeadTaken.lean ====
section
/-! What the calendar of a former lead, adopted, leaves of the pair and its interlock (R430, R448). -/

namespace Sys2Proof.Machine

namespace Dev

variable {d e : Dev}

/-! ### The pair and its interlock, as an event tells of them -/

/-- The entries of an interlock's gate and of the lead it gives. -/
def interlockKeys : List Nat := [Reg.ilkGate.key, Reg.pairState.key, Reg.takeovers.key, Reg.handovers.key]

/-- The pair with its gate, its state and its counts. -/
def interlockPart (d : Dev) : Pair × Bool × Nat × Nat × Nat :=
  (d.pair, d.flag Reg.ilkGate, d.nat Reg.pairState, d.nat Reg.takeovers, d.nat Reg.handovers)

theorem interlockPart_keeps {ks : List Nat} (hp : e.pair = d.pair) (h : KeepsRegs ks d e) (hk : ∀ k ∈ ks, k ∉ interlockKeys) :
    e.interlockPart = d.interlockPart := by
  have outside {r : Row} (hr : r.key ∈ interlockKeys) : r.key ∉ ks := fun hm => hk _ hm hr
  rw [interlockPart, hp, h.flag Reg.ilkGate 0 (outside (by decide)) (by decide), h.nat Reg.pairState 0 0 (outside (by decide)) (by decide),
    h.nat Reg.takeovers 0 0 (outside (by decide)) (by decide), h.nat Reg.handovers 0 0 (outside (by decide)) (by decide), interlockPart]

theorem interlockPart_congr (hp : e.pair = d.pair) (hr : e.regs = d.regs) : e.interlockPart = d.interlockPart :=
  interlockPart_keeps hp ((KeepsRegs.refl [] d).of_regs hr) fun _ h => absurd h List.not_mem_nil

theorem interlockPart_told (h : Told d e) : e.interlockPart = d.interlockPart :=
  interlockPart_keeps h.pair ((KeepsRegs.refl [] d).told h) fun _ h => absurd h List.not_mem_nil

theorem interlockPart_setNat {r : Row} {i j : Nat} (v : Nat) (hk : r.key i j ∉ interlockKeys) (d : Dev) :
    (d.setNat r v i j).interlockPart = d.interlockPart :=
  interlockPart_keeps rfl ((KeepsRegs.refl [r.key i j] d).setNat r v i j (.head _)) fun _ h => List.mem_singleton.1 h ▸ hk

theorem interlockPart_bump {r : Row} {i : Nat} (n : Nat) (hk : r.key i ∉ interlockKeys) (d : Dev) : (d.bump r i n).interlockPart = d.interlockPart :=
  interlockPart_keeps (congrArg Dev.pair (untold_bump d d r i n) :) ((KeepsRegs.refl [r.key i] d).bump r i n (.head _))
    fun _ h => List.mem_singleton.1 h ▸ hk

theorem interlockPart_foldl {α : Type} {f : Dev → α → Dev} (hf : ∀ e x, (f e x).interlockPart = e.interlockPart) (l : List α) (d : Dev) :
    (l.foldl f d).interlockPart = d.interlockPart := foldl_frame interlockPart hf l d

/-- Every key of the interlock lies below those of the Drada links. -/
theorem interlockKeys_below {k : Nat} (h : 0x810000 ≤ k) : k ∉ interlockKeys := by
  simp only [interlockKeys, List.mem_cons, List.not_mem_nil, or_false, ilkGate_key, pairState_key, takeovers_key, handovers_key]
  omega

/-! ### What goes to other units and to a session -/

theorem sendCell_interlockPart (k : Nat) (type : CellType) (dest arg : Nat) (payload : Octets) (settled : Bool) (hops : Nat) (src : Option Nat) (d : Dev) :
    (d.sendCell k type dest arg payload settled hops src).interlockPart = d.interlockPart := by
  have hpair : (d.sendCell k type dest arg payload settled hops src).pair = d.pair := by
    obtain ⟨g, o, r, h⟩ := sendCell_sends k type dest arg payload settled hops src d
    rw [h]
  refine interlockPart_keeps hpair (sendCell_keepsRegs k type dest arg payload settled hops src d) fun x hx => ?_
  rw [List.mem_singleton.1 hx]
  exact interlockKeys_below (by rw [dradaCreditStalls_key]; omega)

theorem queueCal_interlockPart (dest : Nat) (m : CalMsg) (d : Dev) : (d.queueCal dest m).interlockPart = d.interlockPart :=
  interlockPart_told (told_liftPut _ _ _ _)

theorem tellStandby_interlockPart (m : CalMsg) (d : Dev) : (d.tellStandby m).interlockPart = d.interlockPart := by
  unfold tellStandby
  split
  · rfl
  · exact queueCal_interlockPart _ _ _

theorem tellOthers_interlockPart (x : CalEntry) (m : CalMsg) (d : Dev) : (d.tellOthers x m).interlockPart = d.interlockPart := by
  refine (tellStandby_interlockPart _ _).trans (interlockPart_foldl (fun g u => ?_) _ _)
  split
  · rfl
  · exact queueCal_interlockPart _ _ _

theorem canOut_interlockPart (ident : Nat) (content : Octets) (d : Dev) : (d.canOut ident content).2.interlockPart = d.interlockPart := by
  have hcount (n : Nat) : ((d.setNat Reg.canFreshnessTx n).keep Reg.canFreshnessTx).interlockPart = d.interlockPart :=
    (interlockPart_congr rfl (keep_regs _ _ _ _)).trans (interlockPart_setNat n (by decide) d)
  unfold canOut
  dsimp only
  split
  · rfl
  · dsimp only
    split
    · exact (interlockPart_told (told_notice _ _ _)).trans (hcount _)
    · exact hcount _

theorem sendOut_interlockPart (o : Out) (d : Dev) : (d.sendOut o).interlockPart = d.interlockPart := by
  unfold sendOut
  split
  · split
    · exact sendCell_interlockPart _ _ _ _ _ _ _ _ _
    · exact interlockPart_congr rfl rfl
  · exact interlockPart_congr rfl rfl

theorem respond_interlockPart (q : Request) (status : Nat) (body : Octets) (pend : Bool) (d : Dev) :
    (d.respond q status body pend).interlockPart = d.interlockPart := by
  have hform (g : Dev) (hg : g.interlockPart = d.interlockPart) : (g.formResponse q status pend body).2.interlockPart = d.interlockPart := by
    unfold formResponse
    split
    · exact hg
    · exact (canOut_interlockPart _ _ _).trans hg
  have hkept : ({ d.remember q status pend body with lastStatus := status } : Dev).interlockPart = d.interlockPart := interlockPart_congr rfl rfl
  unfold respond
  dsimp only
  split
  · exact (sendOut_interlockPart _ _).trans (hform _ hkept)
  · exact hform _ hkept

/-! ### An entry of the calendar settled, refused, adopted -/

theorem putCal_interlockPart (x : CalEntry) (d : Dev) : (d.putCal x).interlockPart = d.interlockPart := interlockPart_congr rfl rfl

theorem freeCal_interlockPart (slot : Nat) (d : Dev) : (d.freeCal slot).interlockPart = d.interlockPart := interlockPart_congr rfl rfl

theorem tellHead_interlockPart (m : CalMsg) (d : Dev) : (d.tellHead m).interlockPart = d.interlockPart := sendCell_interlockPart _ _ _ _ _ _ _ _ _

theorem answerHeld_interlockPart (x : CalEntry) (d : Dev) : (d.answerHeld x).interlockPart = d.interlockPart :=
  (interlockPart_foldl (fun _ _ => respond_interlockPart _ _ _ _ _) _ _).trans (interlockPart_congr rfl rfl)

theorem settle_interlockPart (x : CalEntry) (st : CalState) (d : Dev) : (d.settle x st).interlockPart = d.interlockPart := by
  have hrelease (y : CalEntry) : (if st = .committed ∨ st = .partially then d else d.releaseEntry y).interlockPart = d.interlockPart := by
    split
    · rfl
    · exact interlockPart_congr rfl rfl
  have hcount (g : Dev) : (if st = .refused then g.bump Reg.entriesRefused else if st = .partially then g.bump Reg.entriesPartial else g).interlockPart =
      g.interlockPart := by
    split
    · exact interlockPart_bump 1 (by decide) g
    · split
      · exact interlockPart_bump 1 (by decide) g
      · rfl
  have hnoted (y : CalEntry) (g : Dev) : (g.noteOutcome y).interlockPart = g.interlockPart := interlockPart_setNat _ (by decide) g
  have houtcome (y : CalEntry) (g : Dev) : (g.tellOutcome y).interlockPart = g.interlockPart := interlockPart_told (told_noticeWith _ _ _ _ _ g)
  unfold settle
  dsimp only
  split
  · split
    · rw [tellHead_interlockPart, putCal_interlockPart, hrelease]
    · rw [freeCal_interlockPart, hrelease]
  · rw [copyEntry, tellStandby_interlockPart, answerHeld_interlockPart, houtcome, hcount, hnoted, putCal_interlockPart, hrelease]

theorem refuseEntry_interlockPart (x : CalEntry) (u cause : Nat) (d : Dev) : (d.refuseEntry x u cause).interlockPart = d.interlockPart := by
  unfold refuseEntry
  extract_lets y d1
  have h1 : d1.interlockPart = d.interlockPart := by
    unfold d1
    split
    · rfl
    · exact interlockPart_told (told_notice _ _ _)
  rw [settle_interlockPart, tellOthers_interlockPart, h1]

theorem checkPrepared_interlockPart (x : CalEntry) (d : Dev) : (d.checkPrepared x).interlockPart = d.interlockPart := by
  have htell (y : CalEntry) (g : Dev) : (g.tellState y).interlockPart = g.interlockPart := by
    unfold tellState
    split
    · exact tellHead_interlockPart _ _
    · rfl
  unfold checkPrepared
  split
  · rw [htell, putCal_interlockPart]
  · exact putCal_interlockPart _ _

theorem adoptEntry_interlockPart (d : Dev) (x : CalEntry) : (d.adoptEntry x).interlockPart = d.interlockPart := by
  unfold adoptEntry
  extract_lets slot y d1 parts z own w d2
  have h1 : d1.interlockPart = d.interlockPart := interlockPart_congr rfl rfl
  have h2 : d2.interlockPart = d1.interlockPart := by
    refine interlockPart_foldl (fun g u => ?_) _ _
    split
    · rfl
    · exact sendCell_interlockPart _ _ _ _ _ _ _ _ _
  split
  · rw [freeCal_interlockPart, h1]
  · split
    · rw [putCal_interlockPart, h1]
    · split
      · rw [putCal_interlockPart, h1]
      · split
        · rw [refuseEntry_interlockPart, h1]
        · rw [checkPrepared_interlockPart, h2, h1]

theorem adoptCalendar_interlockPart (d : Dev) : d.adoptCalendar.interlockPart = d.interlockPart := by
  unfold adoptCalendar
  split
  · rfl
  · exact interlockPart_foldl adoptEntry_interlockPart _ _

/-! ### What follows from the lead (R543, R448) -/

theorem disarmEvery_interlockPart (reason : Nat) (d : Dev) : (d.disarmEvery reason).interlockPart = d.interlockPart := by
  refine interlockPart_foldl (fun g k => ?_) _ _
  unfold disarm
  split
  · rfl
  · refine (interlockPart_congr (setPerturb_pair _ _) (setPerturb_regs _ _)).trans ?_
    rw [interlockPart_setNat _ (interlockKeys_below (by rw [perturbSlotState_key]; omega)), interlockPart_setNat _ (by decide)]

theorem leadTaken_interlockPart (f : Dev → Dev) (d : Dev) : (d.leadTaken f).interlockPart = (f d).interlockPart := by
  unfold leadTaken
  extract_lets g
  split
  · rw [adoptCalendar_interlockPart, disarmEvery_interlockPart]
  · rfl

theorem leadTaken_unchanged {f : Dev → Dev} (h : f d = d) : d.leadTaken f = d := by
  unfold leadTaken
  rw [h]
  exact if_neg (by rw [Bool.and_not_self]; exact Bool.false_ne_true)

end Dev

end Sys2Proof.Machine
end

