-- ==== Sys2Proof/Proofs/PairForming.lean ====
section
/-! The forming of a pair: hellos, the interlock, the gate (R423, R426 to R430). -/

namespace Sys2Proof.Machine

namespace Dev

variable {d e : Dev}

/-! ### PAIR_HELLO (R423, R426) -/

/-- A partner's hello refused. -/
def helloRefused (code : Nat) (d : Dev) : Dev := (d.setPair fun p => { p with refused := true }).notice 0x800A code

theorem pairHello_refused {q : Hello} (hl : d.lone = false)
    (h : q.shape ≠ d.shapeInForce ∨ q.firmware / 2 ^ 24 % 256 ≠ d.nat Reg.firmwareVersion / 2 ^ 24) : ∃ code, d.pairHello q = d.helloRefused code := by
  unfold pairHello
  rw [if_neg (by rw [hl]; exact Bool.false_ne_true)]
  by_cases hs : q.shape = d.shapeInForce
  · rw [if_neg (not_not_intro hs), if_pos (h.resolve_left (not_not_intro hs))]
    exact ⟨2, rfl⟩
  · rw [if_pos hs]
    exact ⟨1, rfl⟩

/-- A partner's hello taken by a forming unit, which then no longer asks for the lead. -/
def helloTaken (q : Hello) (d : Dev) : Dev :=
  ((d.setPair fun p => { p with refused := false, partner := some q, lastFrame := some d.msc, silent := false }).setVal Reg.partnerSerial
    (.bytes q.serial)).setPair fun p => { p with requested := false, assertAt := none }

theorem pairHello_ofLead {q : Hello} (hl : d.lone = false) (hs : q.shape = d.shapeInForce)
    (hv : q.firmware / 2 ^ 24 % 256 = d.nat Reg.firmwareVersion / 2 ^ 24) (hp : d.nat Reg.pairState = 1) (hq : q.state = 2) :
    d.pairHello q = (d.helloTaken q).enterCatchup 1 := by
  unfold pairHello
  rw [if_neg (by rw [hl]; exact Bool.false_ne_true), if_neg (not_not_intro hs), if_neg (not_not_intro hv)]
  extract_lets d1 st
  have hkeeps : KeepsRegs [Reg.partnerSerial.key] d d1 :=
    ((KeepsRegs.refl _ d).of_regs (setPair_regs _ _)).setVal Reg.partnerSerial (.bytes q.serial) 0 0 (.head _)
  have hst : st = 1 := (hkeeps.nat Reg.pairState 0 0 (by decide) (by decide)).trans hp
  rw [if_pos hst, if_pos (.inl hq)]
  rfl

theorem enterCatchup_reads (hl : d.lone = false) (hp : d.nat Reg.pairState ≠ 5) (stage : Nat) : (d.enterCatchup stage).nat Reg.pairState = 5 ∧
    (d.enterCatchup stage).nat Reg.catchupStage = stage ∧ (d.enterCatchup stage).pair.partner = d.pair.partner ∧
    KeepsRegs catchupKeys d (d.enterCatchup stage) := by
  unfold enterCatchup
  rw [if_neg (by rw [hl]; exact Bool.false_ne_true)]
  extract_lets fresh s d1
  have hs : s = stage := if_pos (.inl hp)
  have hstate : (d.setPairState 5).nat Reg.pairState = 5 ∧ (d.setPairState 5).pair = d.pair := by
    rw [setPairState, if_neg hp]
    exact ⟨by rw [notice_nat _ _ _ _ _ _ (by decide), nat_setNat_same], by rw [notice_pair, setNat_pair]⟩
  have hkeeps : KeepsRegs catchupKeys d d1 := ((((setPairState_keepsRegs 5 d).mono (by simp [catchupKeys])).setNat Reg.catchupStage _ _ _
    (by simp [catchupKeys])).setNat Reg.agreeRun _ _ _ (by simp [catchupKeys])).setNat Reg.historyHorizon _ _ _ (by simp [catchupKeys])
  refine ⟨?_, ?_, ?_, hkeeps.of_regs (setPair_regs _ _)⟩
  · rw [nat_congr (setPair_regs _ _), nat_setNat_ne _ _ _ _ _ _ _ _ (by decide), nat_setNat_ne _ _ _ _ _ _ _ _ (by decide),
      nat_setNat_ne _ _ _ _ _ _ _ _ (by decide), hstate.1]
  · rw [nat_congr (setPair_regs _ _), nat_setNat_ne _ _ _ _ _ _ _ _ (by decide), nat_setNat_ne _ _ _ _ _ _ _ _ (by decide), nat_setNat_same, hs]
  · have hpair : d1.pair = d.pair := by rw [← hstate.2, setNat_pair, setNat_pair, setNat_pair]
    show d1.pair.partner = d.pair.partner
    rw [hpair]

/-! ### The lead requested, alone or again (R426, R429) -/

theorem requestLead_asks (hl : d.lone = false) (h : d.pair.lead = false) (cycles reason : Nat) :
    d.requestLead cycles reason = d.setPair fun p => { p with requested := true, assertAt := some (d.clock + cycles), reason } :=
  if_neg (by rw [hl, h]; simp)

theorem lone_advanceTo (t : Nat) (d : Dev) : (d.advanceTo t).lone = d.lone := by rw [lone, advanceTo_power, lone]

theorem assertTime_congr (hr : e.regs = d.regs) (hp : e.power = d.power) : e.assertTime = d.assertTime := by
  rw [assertTime, hp, mac0, nat_congr hr, assertTime, mac0]

theorem pairFormTimeout_asks (hl : d.lone = false) (hp : d.nat Reg.pairState = 1) (hf : d.pair.refused = false) (hn : d.pair.partner = none)
    (hq : d.pair.requested = false) (hlead : d.pair.lead = false)
    (hr : d.Reaches (d.pair.bootLeftAt + msCycles (d.nat Reg.pairFormTimeout))) :
    ∃ t, d.pairFormTimeout = (d.advanceTo t).setPair fun p => { p with requested := true, assertAt := some ((d.advanceTo t).clock + d.assertTime), reason := 2 } := by
  refine ⟨d.pair.bootLeftAt + msCycles (d.nat Reg.pairFormTimeout), ?_⟩
  rw [pairFormTimeout, if_neg (by rw [hl, hf, hn, hq, hlead]; simp [hp]), onDue_eq _ _ _ hr,
    requestLead_asks ((lone_advanceTo _ _).trans hl) (by rw [advanceTo_pair]; exact hlead), assertTime_congr (advanceTo_regs _ _) (advanceTo_power _ _)]

theorem ilkRetry_asks (hl : d.lone = false) (ht : d.pair.retryAt ≠ 0) (hq : d.pair.requested = false) (hlead : d.pair.lead = false)
    (hr : d.Reaches d.pair.retryAt) (hin : d.flag Reg.ilkIn = false) :
    ∃ t, d.ilkRetry = ((d.advanceTo t).setPair fun p => { p with retryAt := 0 }).setPair fun p =>
      { p with requested := true, assertAt := some ((d.advanceTo t).clock + d.assertTime), reason := p.reason } := by
  refine ⟨d.pair.retryAt, ?_⟩
  rw [ilkRetry, if_neg (by rw [hl, hq, hlead]; simp [ht]), onDue_eq _ _ _ hr]
  extract_lets d1
  have hregs : d1.regs = d.regs := (setPair_regs _ _).trans (advanceTo_regs _ _)
  have hpair : d1.pair = { d.pair with retryAt := 0 } := congrArg (fun p : Pair => { p with retryAt := 0 }) (advanceTo_pair _ d)
  have hpower : d1.power = d.power := (setPair_power _ _).trans (advanceTo_power _ _)
  rw [if_neg (by rw [flag_congr hregs, hin]; exact Bool.false_ne_true),
    requestLead_asks (by rw [lone, hpower]; exact hl) (by rw [hpair]; exact hlead), assertTime_congr hregs hpower]
  rfl

/-! ### ILK_ASSERT (R429) -/

theorem ilkAssert_due {t : Nat} (h : d.pair.assertAt = some t) (hr : d.Reaches t) :
    d.ilkAssert = if (d.advanceTo t).flag Reg.ilkIn then (d.advanceTo t).setPair fun p => { p with requested := false, assertAt := none }
      else (d.advanceTo t).setIlkOut true := by
  unfold ilkAssert
  rw [h]
  exact onDue_eq _ _ _ hr

theorem setIlkOut_drives (h : d.flag Reg.ilkOut = false) : d.setIlkOut true =
    ((d.setFlag Reg.ilkOut true).emit (.pad "ILK_OUT" true)).setPair fun p => { p with outAt := d.clock, assertAt := none } := by
  rw [setIlkOut, if_neg (by rw [h]; exact Bool.false_ne_true)]
  rfl

theorem setIlkOut_releases (h : d.flag Reg.ilkOut = true) : d.setIlkOut false = (d.setFlag Reg.ilkOut false).emit (.pad "ILK_OUT" false) := by
  rw [setIlkOut, if_neg (by rw [h]; exact Bool.noConfusion)]
  rfl

/-! ### ILK_IN_CHANGE (R428, R429) -/

/-- A level on ILK_IN registered after its filter. -/
def inRegistered (level : Bool) (d : Dev) : Dev :=
  let d := d.advance (nsCycles 200)
  (d.setFlag Reg.ilkIn level).setPair fun p => { p with inAt := d.clock }

theorem ilkInChange_same {level : Bool} (h : d.flag Reg.ilkIn = level) : d.ilkInChange level = d := if_pos (.inr h)

theorem inRegistered_in (level : Bool) (d : Dev) : (d.inRegistered level).flag Reg.ilkIn = level := by
  rw [inRegistered, flag_congr (setPair_regs _ _), flag_setFlag_same]

theorem inRegistered_keepsRegs (level : Bool) (d : Dev) : KeepsRegs [Reg.ilkIn.key] d (d.inRegistered level) :=
  (((KeepsRegs.refl _ d).of_regs (advance_regs _ _)).setFlag Reg.ilkIn level 0 (.head _)).of_regs (setPair_regs _ _)

theorem inRegistered_clock (level : Bool) (d : Dev) : (d.inRegistered level).clock = d.clock + nsCycles 200 := advance_clock _ _

theorem inRegistered_pair (level : Bool) (d : Dev) : (d.inRegistered level).pair = { d.pair with inAt := (d.advance (nsCycles 200)).clock } :=
  congrArg (fun p : Pair => { p with inAt := (d.advance (nsCycles 200)).clock }) (advance_pair _ d)

theorem inRegistered_power (level : Bool) (d : Dev) : (d.inRegistered level).power = d.power := advance_power _ _

/-- Whether a rise of ILK_IN is a contest: within the guard time of this unit's own assertion, with its gate still closed. -/
def contested (d : Dev) : Bool := d.flag Reg.ilkOut && !d.flag Reg.ilkGate && decide (d.clock ≤ d.pair.outAt + nsCycles 1000)

/-- A contest lost: ILK_OUT is released for at least 10 ms. -/
def contestLost (d : Dev) : Dev :=
  (d.setIlkOut false).setPair fun p => { p with requested := false, retryAt := d.clock + msCycles 10, assertAt := none }

theorem ilkInChange_rises (hl : d.lone = false) (h : d.flag Reg.ilkIn = false) : d.ilkInChange true =
    if !(d.inRegistered true).contested then (d.inRegistered true).setFlag Reg.ilkGate false
    else if (((d.inRegistered true).setFlag Reg.ilkGate false).bump Reg.ilkCollisions).prefers then
      ((d.inRegistered true).setFlag Reg.ilkGate false).bump Reg.ilkCollisions
    else (((d.inRegistered true).setFlag Reg.ilkGate false).bump Reg.ilkCollisions).contestLost := by
  unfold ilkInChange
  rw [if_neg (by rw [hl, h]; simp)]
  delta contestLost contested inRegistered
  simp only [if_true]

theorem ilkInChange_falls (hl : d.lone = false) (h : d.flag Reg.ilkIn = true) (h5 : d.nat Reg.pairState ≠ 5) (h6 : d.nat Reg.pairState ≠ 6) :
    d.ilkInChange false = (d.inRegistered false).setPair fun p => { p with odd := false } := by
  have hstate : ((d.inRegistered false).setPair fun p => { p with odd := false }).nat Reg.pairState = d.nat Reg.pairState :=
    (nat_congr (setPair_regs _ _) _ _ _).trans ((inRegistered_keepsRegs false d).nat _ _ _ (by decide) (by decide))
  rw [← hstate] at h5 h6
  rw [ilkInChange, if_neg (by rw [hl, h]; simp), if_neg Bool.false_ne_true]
  exact (if_neg (fun hc => h6 hc.1)).trans (if_neg (fun hc => hc.1.elim h5 h6))

theorem prefers_congr (hq : e.pair.partner = d.pair.partner) (hp : e.power = d.power) (hm : e.mac0 = d.mac0) : e.prefers = d.prefers := by
  rw [prefers, prefers, hq, hp, hm]

theorem ilkInChange_uncontested (hl : d.lone = false) (hin : d.flag Reg.ilkIn = false) (hout : d.flag Reg.ilkOut = false) :
    d.ilkInChange true = (d.inRegistered true).setFlag Reg.ilkGate false := by
  have hquiet : (d.inRegistered true).contested = false := by
    rw [contested, (inRegistered_keepsRegs true d).flag Reg.ilkOut 0 (by decide) (by decide), hout]
    rfl
  rw [ilkInChange_rises hl hin, hquiet]
  rfl

theorem gateClosed_in (level : Bool) (d : Dev) : ((d.inRegistered level).setFlag Reg.ilkGate false).flag Reg.ilkIn = level := by
  refine Eq.trans ?_ (inRegistered_in level d)
  simp only [flag, setFlag, nat_setNat_ne _ _ _ _ _ _ _ _ (show Reg.ilkIn.key ≠ Reg.ilkGate.key by decide)]

/-- A contest counted at a unit that drives ILK_OUT, before it is decided. -/
def contestCounted (d : Dev) : Dev := ((d.inRegistered true).setFlag Reg.ilkGate false).bump Reg.ilkCollisions

theorem contestCounted_keepsRegs (d : Dev) : KeepsRegs [Reg.ilkIn.key, Reg.ilkGate.key, Reg.ilkCollisions.key] d d.contestCounted := by
  have hin := (inRegistered_keepsRegs true d).mono (ks' := [Reg.ilkIn.key, Reg.ilkGate.key, Reg.ilkCollisions.key]) (by simp)
  exact (hin.setFlag Reg.ilkGate false 0 (by simp)).bump Reg.ilkCollisions 0 1 (by simp)

theorem contestCounted_reads (d : Dev) : d.contestCounted.flag Reg.ilkIn = true ∧
    d.contestCounted.nat Reg.ilkCollisions = (d.nat Reg.ilkCollisions + 1) % 2 ^ 32 := by
  refine ⟨?_, ?_⟩
  · refine Eq.trans ?_ (gateClosed_in true d)
    simp only [contestCounted, flag, nat_bump_ne _ _ _ _ _ _ _ (show Reg.ilkIn.key ≠ Reg.ilkCollisions.key by decide)]
  · rw [contestCounted, nat_bump_same, setFlag, nat_setNat_ne _ _ _ _ _ _ _ _ (by decide), (inRegistered_keepsRegs true d).nat _ _ _ (by decide) (by decide)]
    rfl

theorem contestCounted_prefers (d : Dev) : d.contestCounted.prefers = d.prefers := by
  have hpair : d.contestCounted.pair = (d.inRegistered true).pair :=
    (congrArg Dev.pair (untold_bump d ((d.inRegistered true).setFlag Reg.ilkGate false) Reg.ilkCollisions 0 1) :)
  refine prefers_congr ?_ ((bump_power _ _ _ _).trans (inRegistered_power true d)) ((contestCounted_keepsRegs d).nat Reg.macAddress 0 0 (by decide) (by decide))
  rw [hpair, inRegistered_pair]

theorem ilkInChange_contested (hl : d.lone = false) (hin : d.flag Reg.ilkIn = false) (hout : d.flag Reg.ilkOut = true) (hgate : d.flag Reg.ilkGate = false)
    (hguard : d.clock + nsCycles 200 ≤ d.pair.outAt + nsCycles 1000) :
    d.ilkInChange true = if d.prefers then d.contestCounted else d.contestCounted.contestLost := by
  have hkeeps := inRegistered_keepsRegs true d
  have hcontest : (d.inRegistered true).contested = true := by
    rw [contested, hkeeps.flag Reg.ilkOut 0 (by decide) (by decide), hout, hkeeps.flag Reg.ilkGate 0 (by decide) (by decide), hgate, inRegistered_clock,
      inRegistered_pair]
    exact decide_eq_true hguard
  rw [ilkInChange_rises hl hin, hcontest, ← contestCounted_prefers d]
  rfl

theorem contestLost_eq (h : d.flag Reg.ilkOut = true) : d.contestLost =
    ((d.setFlag Reg.ilkOut false).emit (.pad "ILK_OUT" false)).setPair fun p => { p with requested := false, retryAt := d.clock + msCycles 10, assertAt := none } := by
  rw [contestLost, setIlkOut_releases h]

/-- A contest lost: ILK_OUT is low, and the next request waits for 10 ms. -/
theorem contestLost_reads (h : d.flag Reg.ilkOut = true) : d.contestLost.flag Reg.ilkOut = false ∧ d.contestLost.pair.requested = false ∧
    d.contestLost.pair.retryAt = d.contestLost.clock + msCycles 10 ∧ d.contestLost.pair.assertAt = none ∧ KeepsRegs [Reg.ilkOut.key] d d.contestLost := by
  rw [contestLost_eq h]
  refine ⟨?_, rfl, rfl, rfl, ?_⟩
  · rw [flag_congr (setPair_regs _ _), flag_congr (emit_regs _ _), flag_setFlag_same]
  · exact (((KeepsRegs.refl _ d).setFlag Reg.ilkOut false 0 (.head _)).of_regs (emit_regs _ _)).of_regs (setPair_regs _ _)

/-! ### ILK_GATE_OPEN at an unaligned standby (R427, R430, R448) -/

theorem ilkGateOpen_closed (h : d.flag Reg.ilkOut = false ∨ d.flag Reg.ilkIn = true ∨ d.flag Reg.ilkGate = true) : d.ilkGateOpen = d := by
  refine if_pos ?_
  rcases h with h | h | h
  · exact .inr (.inl (by rw [h]; rfl))
  · exact .inr (.inr (.inl h))
  · exact .inr (.inr (.inr (.inl h)))

/-- A change that neither a pool channel nor its ConvState bears on stands when the TRACKED channels go on from this unit's trackers. -/
theorem convTakeLead_frame {γ : Type} (p : Dev → γ) (hp : ∀ c f g, p (setConv c f g) = p g) (d : Dev) : p d.convTakeLead = p d := by
  refine foldl_frame p (fun g x => ?_) _ _
  split
  · exact hp _ _ _
  · rfl

theorem setConv_interlockPart (c : Nat) (f : ConvChan → ConvChan) (d : Dev) : (d.setConv c f).interlockPart = d.interlockPart := by
  refine interlockPart_keeps rfl (setConv_keepsRegs c f d) fun x hx => ?_
  rw [List.mem_singleton.1 hx]
  exact interlockKeys_below (by rw [convState_key]; omega)

theorem setConv_linkState (k c : Nat) (f : ConvChan → ConvChan) (d : Dev) (hk : k < 3) :
    (d.setConv c f).nat Reg.dradaLinkState k = d.nat Reg.dradaLinkState k :=
  (setConv_keepsRegs c f d).nat _ _ _ (by simp only [List.mem_singleton, dradaLinkState_key, convState_key]; omega) (dradaRow_untold rfl (by decide) hk)

/-- The pair of a unit that takes the lead for want of its lead. -/
def leadsNow (p : Pair) : Pair :=
  { p with lead := true, requested := false, assertAt := none, handover := none, heldPackets := [], releaseSeen := false, odd := false }

/-- A unit whose gate has opened after silence: the lead is its own, before it holds it. -/
def takenOver (d : Dev) : Dev := ((((d.setFlag Reg.ilkGate true).setPair leadsNow).bump Reg.takeovers).notice 0x8001 131072).convTakeLead

theorem takenOver_frame {γ : Type} (p : Dev → γ) (hconv : ∀ c f g, p (setConv c f g) = p g) (htold : ∀ f g, Told f g → p g = p f)
    (hbump : ∀ g, p (g.bump Reg.takeovers) = p g) (hset : ∀ g, p ((g.setFlag Reg.ilkGate true).setPair leadsNow) = p g) (d : Dev) : p d.takenOver = p d := by
  rw [takenOver, convTakeLead_frame p hconv, htold _ _ (told_notice _ _ _), hbump, hset]

theorem takenOver_power (d : Dev) : d.takenOver.power = d.power :=
  takenOver_frame Dev.power setConv_power (fun _ _ h => h.power) (fun _ => bump_power _ _ _ _) (fun _ => rfl) d

theorem takenOver_alm (d : Dev) : d.takenOver.alm = d.alm :=
  takenOver_frame Dev.alm (fun _ _ _ => rfl) (fun _ _ h => h.alm) (fun _ => bump_alm _ _ _ _) (fun _ => rfl) d

theorem takenOver_linkState (d : Dev) : d.takenOver.nat Reg.dradaLinkState 2 = d.nat Reg.dradaLinkState 2 := by
  refine takenOver_frame (fun g => g.nat Reg.dradaLinkState 2) (fun c f g => setConv_linkState 2 c f g (by decide)) (fun _ _ h => h.nat _ _ _ (by decide))
    (fun g => nat_bump_ne g _ _ _ _ _ _ (by decide)) (fun g => ?_) d
  exact (nat_congr (setPair_regs _ _) _ _ _).trans (nat_setNat_ne _ _ _ _ _ _ _ _ (by decide))

theorem takenOver_interlockPart (d : Dev) : d.takenOver.interlockPart =
    (leadsNow d.pair, true, d.nat Reg.pairState, (d.nat Reg.takeovers + 1) % 2 ^ 32, d.nat Reg.handovers) := by
  have hset (r : Row) (h : r.key ≠ Reg.ilkGate.key) : ((d.setFlag Reg.ilkGate true).setPair leadsNow).nat r = d.nat r :=
    (nat_congr (setPair_regs _ _) _ _ _).trans (nat_setNat_ne _ _ _ _ _ _ _ _ h)
  have hgate : ((d.setFlag Reg.ilkGate true).setPair leadsNow).flag Reg.ilkGate = true := (flag_congr (setPair_regs _ _) _ _).trans (flag_setFlag_same _ _ _ _)
  have hpair : ((d.setFlag Reg.ilkGate true).setPair leadsNow).pair = leadsNow d.pair := rfl
  rw [takenOver, convTakeLead_frame interlockPart setConv_interlockPart, interlockPart_told (told_notice _ _ _)]
  generalize (d.setFlag Reg.ilkGate true).setPair leadsNow = g at hset hgate hpair
  have hkeeps := (KeepsRegs.refl [Reg.takeovers.key] g).bump Reg.takeovers 0 1 (.head _)
  have hbump : (g.bump Reg.takeovers).pair = g.pair := (congrArg Dev.pair (untold_bump g g Reg.takeovers 0 1) :)
  rw [interlockPart, hkeeps.flag Reg.ilkGate 0 (by decide) (by decide), hgate, hkeeps.nat Reg.pairState 0 0 (by decide) (by decide), hset _ (by decide),
    nat_bump_same, hset _ (by decide), hkeeps.nat Reg.handovers 0 0 (by decide) (by decide), hset _ (by decide),
    hbump, hpair]
  rfl

theorem setPairState_pair (st : Nat) (d : Dev) : (d.setPairState st).pair = d.pair := by
  unfold setPairState
  split
  · rfl
  · rw [notice_pair, setNat_pair]

theorem setPairState_state (st : Nat) (d : Dev) : (d.setPairState st).nat Reg.pairState = st := by
  unfold setPairState
  split
  · assumption
  · rw [notice_nat _ _ _ _ _ _ (by decide), nat_setNat_same]

/-- The lead held by a standby whose DP is down: PairState 4, no hello. -/
theorem holdLead_alone (hl : d.lone = false) (hs : d.nat Reg.pairState = 6) (hlead : d.pair.lead = true) (hdp : d.dlinkUp 2 = false) :
    d.holdLead.interlockPart = (d.pair, d.flag Reg.ilkGate, 4, d.nat Reg.takeovers, d.nat Reg.handovers) := by
  have hstandby : d.isLead = false := isLead_standby hs
  have hst : (if d.dlinkUp 2 = true ∧ d.pair.partner.isSome = true ∧ (!d.pair.silent) = true then 3 else 4) = 4 := if_neg (by simp [hdp])
  rw [holdLead, if_neg (by rw [hl, hstandby, hlead]; simp)]
  dsimp only
  rw [hst]
  have hsince := (KeepsRegs.refl [Reg.leadSince.key, Reg.pairState.key, Reg.catchupStage.key] d).setNat Reg.leadSince d.msc 0 0 (.head _)
  have hstate := hsince.trans ((setPairState_keepsRegs 4 _).mono (by simp))
  have hkeeps := hstate.setNat Reg.catchupStage 0 0 0 (by simp)
  have hpair : (((d.setNat Reg.leadSince d.msc).setPairState 4).setNat Reg.catchupStage 0).pair = d.pair := by
    rw [setNat_pair, setPairState_pair, setNat_pair]
  have hfour : (((d.setNat Reg.leadSince d.msc).setPairState 4).setNat Reg.catchupStage 0).nat Reg.pairState = 4 := by
    rw [nat_setNat_ne _ _ _ _ _ _ _ _ (by decide), setPairState_state]
  generalize ((d.setNat Reg.leadSince d.msc).setPairState 4).setNat Reg.catchupStage 0 = g at hkeeps hpair hfour
  have hdown : g.dlinkUp 2 = false := by rw [dlinkUp, hkeeps.nat _ _ _ (by decide) (by decide), ← dlinkUp, hdp]
  have hello : g.sendHello = g := by
    rw [sendHello, tellPartner]
    split
    · rfl
    · exact sendCell_down hdown _ _ _ _ _ _ _
  rw [hello, interlockPart, hpair, hfour, hkeeps.flag Reg.ilkGate 0 (by decide) (by decide), hkeeps.nat Reg.takeovers 0 0 (by decide) (by decide),
    hkeeps.nat Reg.handovers 0 0 (by decide) (by decide)]

theorem setPair_lastHandover (d : Dev) (t : Nat) : (d.setPair fun p => { p with lastHandover := if 2 = 2 then p.lastHandover else some t }) = d := rfl

section
variable (hl : d.lone = false) (hout : d.flag Reg.ilkOut = true) (hin : d.flag Reg.ilkIn = false) (hgate : d.flag Reg.ilkGate = false)
  (hq : d.pair.requested = true) (hlead : d.pair.lead = false) (hheld : d.pair.heldPackets = []) (ha : d.alm.aligned = false)
  (hs : d.nat Reg.pairState = 6) (hreason : d.pair.reason = 2)
include hl hout hin hgate hq hlead hheld ha hs hreason

theorem ilkGateOpen_takes : ∃ t, d.ilkGateOpen = (d.advanceTo t).takenOver.holdLead := by
  refine ⟨max d.pair.outAt d.pair.inAt + nsCycles 1000, ?_⟩
  rw [ilkGateOpen, if_neg (by rw [hl, hout, hin, hgate, hq]; simp), onDue_eq _ _ _ (reaches_unaligned ha _)]
  have hregs := advanceTo_regs (max d.pair.outAt d.pair.inAt + nsCycles 1000) d
  have hpair := advanceTo_pair (max d.pair.outAt d.pair.inAt + nsCycles 1000) d
  have haligned := advanceTo_aligned (max d.pair.outAt d.pair.inAt + nsCycles 1000) d
  generalize d.advanceTo (max d.pair.outAt d.pair.inAt + nsCycles 1000) = e at hregs hpair haligned
  extract_lets g st held reason d2 d3 d4 d5 d6
  have hgpair : g.pair = d.pair := (setNat_pair _ _ _ _ _).trans hpair
  have hst : st = 6 := (nat_setNat_ne _ _ _ _ _ _ _ _ (by decide)).trans ((nat_congr hregs _ _ _).trans hs)
  have hnone : held = [] := (congrArg Pair.heldPackets hgpair).trans hheld
  have htwo : reason = 2 := (congrArg Pair.reason hgpair).trans hreason
  have h3 : d3 = d2.bump Reg.takeovers := (if_pos htwo).trans (if_neg (by omega))
  have h6 : d6 = e.takenOver := by
    unfold d6 d5 d4
    rw [h3, hnone, htwo, List.foldl_nil, setPair_lastHandover]
    rfl
  rw [if_neg (by rw [hgpair, hlead]; exact Bool.false_ne_true), h6, if_neg (by rw [takenOver_alm, haligned, ha]; exact Bool.false_ne_true)]

theorem ilkGateOpen_interlockPart (hdp : d.dlinkUp 2 = false) : d.ilkGateOpen.interlockPart =
    (leadsNow d.pair, true, 4, (d.nat Reg.takeovers + 1) % 2 ^ 32, d.nat Reg.handovers) := by
  obtain ⟨t, ht⟩ := ilkGateOpen_takes hl hout hin hgate hq hlead hheld ha hs hreason
  have hpart := takenOver_interlockPart (d.advanceTo t)
  have hpower := takenOver_power (d.advanceTo t)
  have hlink := takenOver_linkState (d.advanceTo t)
  rw [advanceTo_pair, nat_congr (advanceTo_regs _ _), nat_congr (advanceTo_regs _ _), nat_congr (advanceTo_regs _ _), hs] at hpart
  rw [advanceTo_power] at hpower
  rw [nat_congr (advanceTo_regs _ _)] at hlink
  rw [ht]
  generalize (d.advanceTo t).takenOver = g at hpart hpower hlink
  rw [interlockPart] at hpart
  simp only [Prod.mk.injEq] at hpart
  obtain ⟨hpair, hopen, hsix, htaken, hhanded⟩ := hpart
  rw [holdLead_alone (by rw [lone, hpower]; exact hl) hsix (by rw [hpair]; rfl) (by rw [dlinkUp, hlink]; exact hdp), hpair, hopen, htaken, hhanded]

end

end Dev

/-- Settles O24: one law for each event of a forming pair; what follows from the lead leaves the pair and its interlock alone. -/
theorem pairForming : Obligations.PairForming := by
  unfold Obligations.PairForming
  intro s ha hl
  refine ⟨fun q hq => ?_, fun q hs hv hp hq => ?_, fun hp hf hn hq hlead hr => ?_, fun t ht hr hin hout => ?_, fun t ht hr hin => ?_,
    fun hin hout => ?_, fun level h => ?_, fun hin h5 h6 => ?_, fun hin hout hgate hguard => ?_, fun h => ?_,
    fun hout hin hgate hq hlead hheld haligned hs hreason hdp => ?_, fun ht hq hlead hr hin => ?_⟩
  · obtain ⟨code, hcode⟩ := Dev.pairHello_refused hl hq
    refine up_completes (f := Dev.pairHello q) rfl ha ?_
    rw [hcode, Dev.helloRefused]
    exact ⟨Dev.notice_pair _ _ _, ((Dev.KeepsRegs.refl _ s.dev).of_regs (Dev.setPair_regs _ _)).told (Dev.told_notice _ _ _)⟩
  · refine up_completes (f := Dev.pairHello q) rfl ha ?_
    rw [Dev.pairHello_ofLead hl hs hv hp hq]
    have hkeeps : s.dev.KeepsRegs [Reg.partnerSerial.key] (s.dev.helloTaken q) :=
      (((Dev.KeepsRegs.refl _ s.dev).of_regs (Dev.setPair_regs _ _)).setVal Reg.partnerSerial (.bytes q.serial) 0 0 (.head _)).of_regs (Dev.setPair_regs _ _)
    have hserial : (s.dev.helloTaken q).bytes Reg.partnerSerial = q.serial := Dev.bytes_setVal_same _ _ _ _
    obtain ⟨hstate, hstage, hpartner, hcatchup⟩ := Dev.enterCatchup_reads (d := s.dev.helloTaken q) hl
      (by rw [hkeeps.nat _ _ _ (by decide) (by decide), hp]; decide) 1
    refine ⟨hpartner, ?_, hstate, hstage⟩
    rw [← hserial, Dev.bytes, hcatchup.val Reg.partnerSerial 0 (by decide) (by decide), Dev.bytes]
  · obtain ⟨t, ht⟩ := Dev.pairFormTimeout_asks hl hp hf hn hq hlead hr
    refine up_completes (f := Dev.pairFormTimeout) rfl ha ?_
    rw [ht]
    exact ⟨rfl, rfl, rfl, (Dev.setPair_regs _ _).trans (Dev.advanceTo_regs _ _)⟩
  · refine up_completes (f := Dev.ilkAssert) rfl ha ?_
    have hregs := Dev.advanceTo_regs t s.dev
    have hsent := Dev.advanceTo_out t s.dev
    rw [Dev.ilkAssert_due ht hr]
    generalize s.dev.advanceTo t = e at hregs hsent
    rw [if_neg (by rw [Dev.flag_congr hregs, hin]; exact Bool.false_ne_true), Dev.setIlkOut_drives ((Dev.flag_congr hregs _ _).trans hout)]
    refine ⟨?_, rfl, congrArg (Out.pad "ILK_OUT" true :: ·) hsent, ?_⟩
    · rw [Dev.flag_congr (Dev.setPair_regs _ _), Dev.flag_congr (Dev.emit_regs _ _), Dev.flag_setFlag_same]
    · exact ((((Dev.KeepsRegs.refl _ s.dev).of_regs hregs).setFlag Reg.ilkOut true 0 (.head _)).of_regs (Dev.emit_regs _ _)).of_regs (Dev.setPair_regs _ _)
  · refine up_completes (f := Dev.ilkAssert) rfl ha ?_
    rw [Dev.ilkAssert_due ht hr, if_pos (by rw [Dev.flag_congr (Dev.advanceTo_regs _ _), hin])]
    exact ⟨rfl, rfl, (Dev.setPair_regs _ _).trans (Dev.advanceTo_regs _ _)⟩
  · refine up_completes (f := Dev.ilkInChange true) rfl ha ?_
    rw [Dev.ilkInChange_uncontested hl hin hout]
    exact ⟨Dev.gateClosed_in true s.dev, Dev.flag_setFlag_same _ _ _ _, Dev.inRegistered_clock true s.dev,
      ((Dev.inRegistered_keepsRegs true s.dev).mono (by simp)).setFlag Reg.ilkGate false 0 (.tail _ (.head _))⟩
  · exact up_completes (f := Dev.ilkInChange level) rfl ha (Dev.ilkInChange_same h)
  · refine up_completes (f := Dev.ilkInChange false) rfl ha ?_
    rw [Dev.ilkInChange_falls hl hin h5 h6]
    exact ⟨(Dev.flag_congr (Dev.setPair_regs _ _) _ _).trans (Dev.inRegistered_in false s.dev), Dev.inRegistered_clock false s.dev,
      (Dev.inRegistered_keepsRegs false s.dev).of_regs (Dev.setPair_regs _ _)⟩
  · refine up_completes (f := Dev.ilkInChange true) rfl ha ?_
    rw [Dev.ilkInChange_contested hl hin hout hgate hguard]
    obtain ⟨hrose, hcount⟩ := Dev.contestCounted_reads s.dev
    have hkeeps := Dev.contestCounted_keepsRegs s.dev
    have hdriven : s.dev.contestCounted.flag Reg.ilkOut = true := (hkeeps.flag Reg.ilkOut 0 (by decide) (by decide)).trans hout
    have hwide := hkeeps.mono (ks' := [Reg.ilkIn.key, Reg.ilkGate.key, Reg.ilkOut.key, Reg.ilkCollisions.key]) (by simp)
    generalize s.dev.contestCounted = e at hrose hcount hkeeps hdriven hwide
    by_cases hwins : s.dev.prefers = true
    · rw [if_pos hwins, hwins]
      exact ⟨hrose, hcount, hdriven, fun h => absurd h (by simp), hwide⟩
    · rw [if_neg hwins, Bool.eq_false_iff.2 hwins]
      obtain ⟨hlow, hrequested, hretry, hassert, hlost⟩ := Dev.contestLost_reads hdriven
      exact ⟨(hlost.flag Reg.ilkIn 0 (by decide) (by decide)).trans hrose, (hlost.nat Reg.ilkCollisions 0 0 (by decide) (by decide)).trans hcount, hlow,
        fun _ => ⟨hrequested, hretry, hassert⟩, hwide.trans (hlost.mono (by simp))⟩
  · refine up_completes (f := fun d => d.leadTaken Dev.ilkGateOpen) rfl ha ?_
    exact Dev.leadTaken_unchanged (Dev.ilkGateOpen_closed h)
  · refine up_completes (f := fun d => d.leadTaken Dev.ilkGateOpen) rfl ha ?_
    have hpart := (Dev.leadTaken_interlockPart Dev.ilkGateOpen s.dev).trans
      (Dev.ilkGateOpen_interlockPart hl hout hin hgate hq hlead hheld haligned hs hreason hdp)
    generalize s.dev.leadTaken Dev.ilkGateOpen = e at hpart
    rw [Dev.interlockPart] at hpart
    simp only [Prod.mk.injEq] at hpart
    obtain ⟨hpair, hopen, hfour, htaken, hhanded⟩ := hpart
    exact ⟨hopen, by rw [hpair]; rfl, by rw [hpair]; rfl, hfour, htaken, hhanded⟩
  · obtain ⟨t, hask⟩ := Dev.ilkRetry_asks hl ht hq hlead hr hin
    refine up_completes (f := Dev.ilkRetry) rfl ha ?_
    rw [hask]
    exact ⟨rfl, rfl, rfl, ((Dev.setPair_regs _ _).trans (Dev.setPair_regs _ _)).trans (Dev.advanceTo_regs _ _)⟩

end Sys2Proof.Machine
end
